-- ==== Sys2Proof/Word.lean ====
section
/-! DEFINITION. The word types of the module: bytes, register halves, registers, FP32 bit patterns and identifiers. -/

namespace Sys2Proof

/-- One byte. -/
abbrev Byte := BitVec 8

/-- A byte string, lowest address first (R5). -/
abbrev Bytes := List Byte

/-- A 32-bit register, or one half of a 64-bit register (R170). -/
abbrev W32 := BitVec 32

/-- A 64-bit register or one 8-byte granule (R123). -/
abbrev W64 := BitVec 64

/-- The bit pattern of a binary32 value (R85). -/
abbrev F32 := BitVec 32

/-- The bit pattern of a BF16 value, the upper half of binary32 (R85). -/
abbrev BF16 := BitVec 16

/-- A core by its global number y * 128 + x (R9, R207). -/
abbrev CoreId := Fin 16384

/-- A cluster by die * 16 + cluster within the die (R9). -/
abbrev ClusterId := Fin 1024

/-- A compute site or its die (R9). -/
abbrev SiteId := Fin 64

/-- A partition (R15). -/
abbrev PartId := Fin 16

/-- A Wenlink port n, on I/O die 64 + n (R9). -/
abbrev WlPort := Fin 16

/-- A Heliostat port s, under site s (R9). -/
abbrev HlPort := Fin 64

/-- A data router: cores 0 to 16383, then edge router e of I/O die d at 16384 + 2 * (d - 64) + e (R152, R154). -/
abbrev RouterId := Fin 16416

/-- A control core: clusters 0 to 1023, then 1024 + 2 * (d - 64) + c with c = 0 link and c = 1 service (R471). -/
abbrev CcId := Fin 1056

/-- A router port: 0 local, 1 north, 2 east, 3 south, 4 west. -/
abbrev PortIx := Fin 5

/-- A cache slot of the request table (R246, R268). -/
abbrev Slot := Fin 65536

/-- A virtual channel, VC0 to VC3 (R156). -/
abbrev Vc := Fin 4

end Sys2Proof
end

