-- ==== Sys2Proof/Syntax.lean ====
section
/-! DEFINITION. The commands of the block: one constructor of `Instr` per row of spec/opcode_table.json, with the
operands that row's step takes from outside the state (a written value, a message, a packet, a sensor reading, the bytes
a host read brought). -/

namespace Sys2Proof

/-- What the (80, 64) code saw while a command read granules (R352): corrected counts and the uncorrectable ones. -/
structure EccObs where
  /-- granules corrected with one bit in error -/
  ce1 : Nat
  /-- granules corrected with two bits in error -/
  ce2 : Nat
  /-- granule numbers read uncorrectable -/
  ue  : List Nat
  deriving DecidableEq, Repr

/-- A data-mesh packet: the head flit (R157), the body bytes and the body granules that are poisoned (R353). -/
structure Packet where
  head   : BitVec 512
  body   : Bytes
  poison : List Nat
  deriving DecidableEq, Repr

/-- What comes with a matrix product: what the code saw (R352), and the values that a silently faulty ME makes of outputs,
by their number in the tile (R100). -/
structure MmaObs where
  ecc    : EccObs
  silent : List (Nat × W32)
  deriving DecidableEq, Repr

/-- A sideband word as it reaches a port (R155): its 24 bits, whether its code reports an uncorrectable error, and the packet
that loses a flit with it. -/
structure Sideband where
  port    : PortIx
  word    : BitVec 24
  codeBad : Bool
  lost    : Option (Vc × Packet)
  deriving DecidableEq, Repr

/-- The rows of a hop between modules (R546): slot, first position and count of each segment. -/
structure HopRows where
  decode  : List (Slot × Nat × Nat)
  prefill : List (Slot × Nat × Nat)
  deriving DecidableEq, Repr

/-- A control-network message: header word, source word and up to two more words (R168, R169). -/
structure CtrlMsg where
  words : List W32
  deriving DecidableEq, Repr

/-- A management path (R490, R495). -/
inductive DapPath where
  | can | t1s | wenlink (n : WlPort)
  deriving DecidableEq, Repr

/-- The header of a DAP request and the source it came from (R492, R495). -/
structure DapReq where
  path    : DapPath
  /-- MASTER on CAN FD, source MAC on 10BASE-T1S, zero on Wenlink (R491) -/
  source  : Nat
  txn     : BitVec 16
  session : BitVec 32
  seq     : BitVec 32
  /-- signature bytes at the end of the body (R496) -/
  sig     : Bytes
  deriving DecidableEq, Repr

/-- How the energising of one site ends (R417, R420, R459). -/
inductive RampResult where
  | ok | probeFail | tripOver | tripUnder | noSettle
  deriving DecidableEq, Repr

/-- What the Finder observes when it checks the preconditions of Eclosion (R456). -/
structure EclosionObs where
  /-- the mirror of the parameter store on die 64 has a good digest -/
  mirror64 : Bool
  /-- the mirror on die 72 has a good digest -/
  mirror72 : Bool
  /-- REFCLK within limits for 100 ms -/
  refclk   : Bool
  /-- main input 48.0 V to 58.0 V for 100 ms -/
  input    : Bool
  /-- inlet reading valid -/
  inlet    : Bool
  /-- flow at or above MIN_FLOW for 5 s -/
  flow     : Bool
  deriving DecidableEq, Repr

/-- One region of a layout (R33, R38, R41, R43, R220, R224 REGIONS). -/
structure RegionDesc where
  /-- 0 embedding share, 1 layer, 2 head -/
  kind       : Fin 3
  /-- cores relative to the partition's north-west core: (rx, ry) within the partition -/
  cores      : List (Nat × Nat)
  entry      : List (Nat × Nat)
  exit       : List (Nat × Nat)
  /-- worst-core streaming time in ps, recorded and not checked (R215) -/
  streamPs   : Nat
  runAheadPs : Nat
  covers     : Bool
  leastBudget : Nat
  /-- bound of the region's step in ps for a one-token wavefront (R43, R46) -/
  boundPs    : Nat
  deriving DecidableEq, Repr

/-- A tensor slice of a shard (R314): the core whose streams read it, the scratchpad offsets of its stream descriptor in the two
banks' descriptor areas, and the descriptor's fields; BASE counts from the shard's offset in its bank. -/
structure TensorPlace where
  rx     : Nat
  ry     : Nat
  desc0  : Nat
  desc1  : Nat
  base   : Nat
  nstripe : Nat
  index0 : Nat
  src    : Nat
  kind   : Nat
  deriving DecidableEq, Repr

/-- One shard's placement in a layout (R314, R322 SHARDS): vault (relative cluster), offset in each bank, space. -/
structure ShardPlace where
  index  : Nat
  /-- relative site (rx, ry) and cluster within the die -/
  rx     : Nat
  ry     : Nat
  cluster : Fin 16
  off0   : Nat
  off1   : Nat
  space  : Nat
  tensors : List TensorPlace
  deriving DecidableEq, Repr

/-- One core's command stream (R224 STREAMS): relative core, window BASE [20:4], the bytes of the stream, the command
index of the step's first command and the replay set of semaphore counts (R358). -/
structure StreamImage where
  rx    : Nat
  ry    : Nat
  base  : BitVec 17
  bytes : Bytes
  first : BitVec 17
  replaySet : List (Fin 32 × BitVec 16)
  deriving DecidableEq, Repr

/-- One multicast-table image of a router (R181, R224 TREES). -/
structure TreeImage where
  rx    : Nat
  ry    : Nat
  entry : Fin 64
  word  : W64
  deriving DecidableEq, Repr

/-- The expert stripe map (R36, R224 EXPERTS): the bytes of an expert's tensors that a core of a region holds. -/
structure ExpertStripe where
  region : Nat
  expert : Nat
  rx     : Nat
  ry     : Nat
  bytes  : Nat
  deriving DecidableEq, Repr

/-- An XSTREAM descriptor table (R200, R224 EXPERTS): the core that holds it, its scratchpad offset and its bytes. -/
structure ExpertTable where
  rx    : Nat
  ry    : Nat
  off   : Nat
  bytes : Bytes
  deriving DecidableEq, Repr

/-- A transfer of the traffic plan (R225): region, phase of its step, channel, source, destinations or tree, and flits. -/
structure PlanEntry where
  region : Nat
  phase  : Nat
  vc     : Fin 4
  source : Nat × Nat
  dests  : List (Nat × Nat)
  tree   : Option (Fin 64)
  flits  : Nat
  deriving DecidableEq, Repr

/-- The sweep section (R224 SWEEP, R241 to R245, R252, R259, R260). -/
structure SweepDesc where
  /-- hub core, relative -/
  hub      : Nat × Nat
  /-- scratchpad offset of the hub's inbox, and bytes of each of its 8 slots (R252) -/
  inboxOff : Nat
  slotBytes : Nat
  /-- scratchpad offset and bytes of each layer's record (R241) -/
  records  : List (Nat × Bytes)
  /-- slot-table offset in every vault -/
  slotOff  : Nat
  /-- cache area of a core: byte offset in its vault and 9,216 B frames -/
  areaOff  : Nat
  frames   : Nat
  /-- rings per layer: (first page G_k, relative cores in ring order) -/
  rings    : List (List (Nat × List (Nat × Nat)))
  /-- per layer, the last ring of each reach, K_0 to K_3 (R245) -/
  reach    : List (List Nat)
  /-- the recorded t_sweep in ps by the largest length of the sweep (R259); it is not checked -/
  bounds   : List (Nat × Nat)
  /-- the recorded ρ_c of each core (R260) -/
  rho      : List ((Nat × Nat) × F32)
  deriving DecidableEq, Repr

/-- The replacement items of a detour placement (R229): regions and clusters by number, shards, streams, trees and partners by
the item they name, and the copies of moved shards in spare vault space (R230). Its header and its list of replacement sections
are read from the file's bytes. -/
structure DetourDesc where
  regions : List (Nat × RegionDesc)
  shards  : List ShardPlace
  copies  : List ShardPlace
  streams : List StreamImage
  trees   : List TreeImage
  partners : List ((Nat × Nat) × (Nat × Nat))
  traffic : List PlanEntry
  budget  : List (Nat × Byte)
  deriving DecidableEq, Repr

/-- The Instar section of a layout (R335). -/
structure InstarSection where
  baseDigest : Bytes
  np         : Nat
  params     : Nat
  /-- tensors in order: tensor number, element count, starts at zero under INIT 0x02 (R336) -/
  tensors    : List (Nat × Nat × Bool)
  /-- the export shard map: shard index, and its slices as (place of the tensor, first element, elements) -/
  exportMap  : List (Nat × List (Nat × Nat × Nat))
  deriving DecidableEq, Repr

/-- The arrays that the Steward writes for a row of a wavefront (R249, R250), the variants of GATE (ch. 07) and the sampling
records (R282). -/
inductive RowArray where
  | segmentMap | segmentTable | tokens | positions | lengths | handles | variants | sampling
  deriving DecidableEq, Repr

/-- Where a core of a region takes an array of a row from: row `row` of the decode or of the prefill wavefront, at a byte of the
core's scratchpad, or of its vault for the sampling records. -/
structure ArrayPlace where
  what    : RowArray
  region  : Nat
  prefill : Bool
  row     : Nat
  rx      : Nat
  ry      : Nat
  off     : Nat
  deriving DecidableEq, Repr

/-- What the sections of a layout hold, read out of the file (R224). The spec gives what each section holds and gives
bytes for the header, the directory, BUDGET and the DETOUR header alone. -/
structure LayoutBody where
  regions  : List RegionDesc
  shards   : List ShardPlace
  banks    : Nat
  /-- bank semaphore of the embedding share's cores (R323) -/
  bankSem  : Fin 32
  experts  : List ExpertStripe
  tables   : List ExpertTable
  streams  : List StreamImage
  trees    : List TreeImage
  partners : List ((Nat × Nat) × (Nat × Nat))
  traffic  : List PlanEntry
  sweep    : SweepDesc
  /-- where the regions' streams read the arrays of a row: no section names these places (log entry 138) -/
  arrays   : List ArrayPlace
  /-- folding cores, relative, and the Plate channel each one feeds (R206) -/
  folders  : List ((Nat × Nat) × Fin 2)
  detours  : List DetourDesc
  instar   : Option InstarSection
  /-- the layout was compiled with draft hooks (ch. 11) -/
  hooks    : Bool
  /-- variants the layout can serve: private experts per MoE layer -/
  np       : Nat
  deriving DecidableEq, Repr

/-- A layout file as it arrived: its bytes and what its sections hold. -/
structure LayoutFile where
  bytes : Bytes
  body  : LayoutBody
  deriving DecidableEq, Repr

/-- A list of (probability, token) pairs in the order of R203 (R204, R306). -/
abbrev KeptList := List (F32 × BitVec 18)

/-- The logits of the two models at one position of a verification cycle (R301): what the draft's and the main layout's head regions
compute there, as (logit, token) pairs. The last position has none of the draft. -/
structure SpecDraw where
  draft : List (F32 × BitVec 18)
  main  : List (F32 × BitVec 18)
  deriving DecidableEq, Repr

/-- A failure report that asks for a step replay or a restart (R351). -/
structure FaultReport where
  /-- event code of the failure -/
  code   : BitVec 16
  /-- unit in the form of R369 -/
  unit   : W32
  /-- region of the failing step -/
  region : Nat
  /-- token places of the wavefront that trapped (R73) -/
  trapped : List Nat
  /-- the failure was an uncorrectable read of a held input (R359) -/
  heldInput : Bool
  /-- the granule read uncorrectable, and where it lies (R354) -/
  granule : Option (Fin 6 × Nat)
  deriving DecidableEq, Repr

/-- How a reconfiguration of a rail is seen by the droop detector, in mV against setpoint (R426). -/
inductive DroopObs where
  | below25 | below45 | above25 | settled
  deriving DecidableEq, Repr

/-- Outcome of training (R519, R541). -/
inductive TrainObs where
  /-- lock on the lanes of the mask -/
  | locked (lanes : Byte)
  | failed
  deriving DecidableEq, Repr

/-- A certificate (R556), 7,936 B, carried as bytes. -/
abbrev Cert := Bytes

/-- THE commands. One constructor per row of spec/opcode_table.json, in the table's order. -/
inductive Instr where
  -- power-up and firmware (ch. 19, 20)
  | standbyPowerOn (slotPins : BitVec 6) (resetPinLow : Bool)
  | eclosion (obs : EclosionObs)
  | siteGroupEnergise (g : Fin 16) (results : List RampResult)
  | firmwareBoot (served : List (WlPort × Bytes))
  | firmwareRetry (served : List (WlPort × Bytes))
  | ccImageLoad (cc : CcId) (read1 read2 : Bytes)
  | patternTestDone (c : CoreId) (pass : Bool)
  | ready
  | epochRecovery (p : PartId)
  -- the core's command set (ch. 05, 07)
  | sequencerIssue (c : CoreId)
  | nop (c : CoreId)
  | wait (c : CoreId)
  | signal (c : CoreId)
  | fence (c : CoreId)
  | jump (c : CoreId)
  | step (c : CoreId)
  | endCmd (c : CoreId)
  | stream (c : CoreId) (ecc : EccObs)
  | load (c : CoreId) (ecc : EccObs)
  | store (c : CoreId)
  | mma (c : CoreId) (obs : MmaObs)
  | mmaT (c : CoreId) (obs : MmaObs)
  | qact (c : CoreId)
  | qent (c : CoreId)
  | vop (c : CoreId)
  | vred (c : CoreId)
  | vcvt (c : CoreId)
  | vnorm (c : CoreId)
  | rope (c : CoreId)
  | sweep (c : CoreId)
  | hubSweepTake (p : PartId)
  | sweepService (c : CoreId)
  | sweepResult (p : PartId)
  | gate (c : CoreId)
  | xsel (c : CoreId)
  | xnext (c : CoreId)
  | xstream (c : CoreId) (ecc : EccObs)
  | xacc (c : CoreId)
  | send (c : CoreId)
  | read (c : CoreId)
  | mcast (c : CoreId)
  | reduce (c : CoreId)
  | signalR (c : CoreId)
  | inl (c : CoreId)
  | sampleK (c : CoreId)
  | sampleM (c : CoreId)
  | sampleD (c : CoreId)
  | stopchk (c : CoreId)
  | commit (c : CoreId)
  | plateFold (c : CoreId)
  | randC (c : CoreId)
  | randH (c : CoreId)
  | tread (c : CoreId)
  | reduceU (c : CoreId)
  | seqRun (c : CoreId) (base : BitVec 17)
  | seqHalt (c : CoreId)
  | seqResume (c : CoreId) (index : BitVec 17)
  | grantRelease (cl : ClusterId) (me : Fin 64)
  | engineClockGate (c : CoreId)
  -- the fabric (ch. 06)
  | packetRoute (r : RouterId) (inPort : PortIx) (vc : Vc) (pkt : Packet) (ecc : EccObs)
  | write (r : RouterId) (vc : Vc) (pkt : Packet)
  | readReq (r : RouterId) (vc : Vc) (pkt : Packet)
  | readRsp (r : RouterId) (vc : Vc) (pkt : Packet)
  | inline (r : RouterId) (vc : Vc) (pkt : Packet)
  | mcastForward (r : RouterId) (inPort : PortIx) (vc : Vc) (pkt : Packet)
  | ackToken (r : RouterId) (fromPort : PortIx) (tree : Fin 64) (partialSt : Bool)
  | reduceCombine (r : RouterId) (tree : Fin 64)
  | linkResync (r : RouterId) (sb : Sideband)
  | ctrlSignal (m : CtrlMsg)
  | icuDoorbell (cc : CcId) (m : CtrlMsg)
  | err (m : CtrlMsg)
  | regRd (m : CtrlMsg)
  | regWr (m : CtrlMsg)
  | regRsp (m : CtrlMsg)
  | mgmt (m : CtrlMsg)
  | icuGroupTimeout (cc : CcId) (g : Fin 16)
  | icuClaim (cc : CcId)
  | icuSrcWrite (cc : CcId) (n : Fin 1024) (value : W64)
  -- steps and checks (ch. 02, 04)
  | regionStep (p : PartId) (region : Nat)
  | dupCompare (p : PartId) (owner partner : CoreId) (cmdIndex : W32) (silent silent1 : List (Nat × W32))
  | marginRemove (c : CoreId)
  | shadowCheckDone (c : CoreId) (region : Nat) (src : Option (BitVec 18 × BitVec 18))
  | shareUpdate
  -- partitions, jobs and requests (ch. 02, 10, 22, 25)
  | partDef (req : DapReq) (p : PartId) (value : W64)
  | siteClearDone (site : SiteId)
  | partitionClearDone (p : PartId)
  | jobStart (req : DapReq) (addr : W64) (desc : Option Bytes)
  | jobLoad (p : PartId) (file : Option LayoutFile) (instarDesc : Option Bytes) (instarFile : Option LayoutFile)
      (checkpoint : Option Bytes)
  | jobEnd (req : DapReq) (value : Byte)
  | submit (q : BitVec 16) (index : W32) (entry : Bytes)
  | cancel (q : BitVec 16) (index : W32) (entry : Bytes)
  | mask (q : BitVec 16) (index : W32) (entry : Bytes) (bitmap : Option Bytes)
  | continueReq (q : BitVec 16) (index : W32) (entry : Bytes) (tokens : Option Bytes)
  | release (q : BitVec 16) (index : W32) (entry : Bytes)
  | batch (q : BitVec 16) (index : W32) (entry : Bytes) (tokens segs loss : Option Bytes)
  | replay (q : BitVec 16) (index : W32) (entry : Bytes) (record : Option Bytes)
  | replayResume (q : BitVec 16) (index : W32) (entry : Bytes) (record : Option Bytes) (tokens : List Bytes)
  | admission (p : PartId)
  | tokenPost (h : Slot)
  | park (h : Slot)
  | cocoonImport (h : Slot) (image : Option Bytes)
  | ttlExpire (h : Slot)
  | draftLoad (req : DapReq) (addr : W64) (desc : Option Bytes) (file : Option LayoutFile)
  | draftUnload (req : DapReq) (value : Byte)
  | specCycle (h : Slot) (draws : List SpecDraw)
  | specProbe (h : Slot) (draws : List SpecDraw)
  -- weights and Instar (ch. 12, 13)
  | moultStart (req : DapReq) (addr : W64) (desc : Option Bytes) (manifest : Option Bytes)
  | moultAbort (req : DapReq) (value : Byte)
  | moultTimeout (p : PartId)
  | manifestVerify (manifest : Bytes)
  | shardArrive (p : Option PartId) (epoch : Bytes) (index : Nat) (image : Bytes)
  | drainSwap (p : PartId)
  | scrubPass (cl : ClusterId)
  | chainFence (req : DapReq) (value : Byte)
  | instarBatchDone (p : PartId) (losses : List F32) (grads : List F32)
  | checkpoint (p : PartId)
  | instarExport (req : DapReq) (value : Byte)
  -- faults (ch. 14, 15)
  | stepReplay (p : PartId) (f : FaultReport)
  | stepWatchdog (p : PartId) (region : Nat)
  | jobRestart (p : PartId) (cause : BitVec 16)
  | requestRestart (h : Slot)
  | unitFenced (unit : W32) (cause : BitVec 16)
  | unfence (req : DapReq) (unit : W32) (testPass : Bool)
  | patrol (cl : ClusterId) (ecc : EccObs)
  | eventRecord
  | binoHello (p : PartId) (peer : Bytes)
  | subp (p : PartId) (msg : Bytes)
  | binoTimeout (p : PartId)
  -- clocks and power (ch. 16, 17)
  | meridianUnlock (site : SiteId)
  | refclkFail
  | sagWarn (millivolts : Nat)
  | sagClear
  | sagReset (millivolts : Nat)
  | overvoltage (millivolts : Nat)
  | inputCollapse
  | mainInputLoss
  | shareDivide (pBase : F32)
  | siteTrip (site : SiteId) (undervoltage : Bool)
  | reEnergise (req : DapReq) (site : Byte) (probe : RampResult)
  | reenergiseWindowClose
  | reenergiseDone (failed : List (Fin 256))
  | phaseLost (cl : ClusterId) (phases : List (Fin 4)) (cause : Fin 3)
  | droopResponse (cl : ClusterId) (obs : DroopObs)
  | avsUpdate (cl : ClusterId) (slackMin : Byte)
  -- cooling (ch. 18)
  | traySensorRead (inlet outlet : Option (BitVec 16))
  | flowPulse (lowUs : Nat)
  | hotspotRead (site : SiteId) (h : Fin 20) (a b : Option (BitVec 16))
  | rthSample
  | almanacUpdate
  | lthUpdate (cl : ClusterId)
  | thermtrip (site : SiteId)
  | thermtripClear (req : DapReq) (site : Byte)
  | flowLow
  | flowImplausible
  | coolantStop
  | coolantRestored
  | coolantPowerdown
  -- resets and sleep (ch. 19)
  | resetRelease
  | resetRequestW (req : DapReq)
  | resetRequestM (req : DapReq)
  | resetReqN (lowUs : Nat)
  | diapauseEnter (req : DapReq)
  | diapauseWake (src : Option WlPort) (req : DapReq)
  | standbyEnter (req : DapReq)
  | standbyExit (req : Option DapReq)
  -- live update and Stewards (ch. 20)
  | fwUpdate (req : DapReq) (addr : W64) (rel : Option Bytes)
  | coreReload (cc : CcId) (read1 read2 : Bytes)
  | fwUpdateDone
  | stewardHeartbeat
  | stewardHandover
  | stewardFailover
  -- management (ch. 21)
  | dapSegment (path : DapPath) (source : Nat) (data : Bytes) (first last : Bool)
  | dapReassemblyTimeout (path : DapPath) (source : Nat)
  | dapOpen (req : DapReq) (body : Bytes)
  | dapProve (req : DapReq) (cert : Bytes)
  | dapClose (req : DapReq)
  | dapRead (req : DapReq) (body : Bytes)
  | dapWrite (req : DapReq) (body : Bytes)
  | auditExport (req : DapReq) (body : Bytes)
  | auditAck (req : DapReq) (body : Bytes)
  | sessionIdleTimeout (session : BitVec 32)
  | credentialUnlock (fp : Bytes)
  | pathQuarantineEnd (path : DapPath)
  -- Wenlink (ch. 23)
  | wlDetect (n : WlPort) (lanes : Byte)
  | wlTrain (n : WlPort) (obs : TrainObs)
  | wlCapability (n : WlPort) (block : Bytes)
  | wlDown (n : WlPort)
  | wlRetrain (n : WlPort) (recovered : Bool)
  | wlFlit (n : WlPort) (flit : Bytes)
  | wlReplayTimeout (n : WlPort)
  | wlTapAdapt (n : WlPort)
  | cpl (n : WlPort) (tag : BitVec 16) (error : Bool) (data : Bytes)
  | mrdTimeout (n : WlPort) (tag : BitVec 16)
  | wlDoorbell (n : WlPort) (queue : BitVec 16) (index : W32) (hostTime : W64)
  | stamp (n : WlPort) (hostTime : W64)
  | qcreate (n : WlPort) (tag : BitVec 16) (payload : Bytes)
  | qdelete (n : WlPort) (tag : BitVec 16) (payload : Bytes)
  | parkArea (n : WlPort) (tag : BitVec 16) (base length : W64)
  | wlQuarantineEnd (n : WlPort)
  | portRelease (req : DapReq) (port : Byte)
  | portHoldExpire (n : WlPort)
  -- Heliostat (ch. 24)
  | hlDetect (s : HlPort) (lanes : Byte)
  | hlTrain (s : HlPort) (obs : TrainObs) (peerGen : Fin 3)
  | hlHello (s : HlPort) (hello : Bytes) (chain : Bytes) (sig : Bytes)
  | hlDown (s : HlPort)
  | hlRetrain (s : HlPort) (recovered : Bool)
  | hlFlit (s : HlPort) (flit : Bytes)
  | hlReplayTimeout (s : HlPort)
  | hopHandoff (s : HlPort) (p : PartId) (stepNum : W64) (rows : HopRows)
  | hopAck (s : HlPort) (p : PartId) (stepNum : W64)
  | hopAckTimeout (s : HlPort) (p : PartId)
  | hlQuarantineEnd (s : HlPort)
  | hlPortRelease (req : DapReq) (port : Byte)
  -- security (ch. 25)
  | publisherCert (req : DapReq) (n : Fin 8) (cert : Cert)
  | publisherFp (req : DapReq) (n : Fin 8) (fp : Bytes)
  | quoteRequest (req : DapReq) (nonce : Bytes)
  | quoteIssued
  | makerEpochMin (req : DapReq) (value : Byte)
  | debugUnlock (req : DapReq) (value : Byte)
  | debugLock (req : DapReq) (value : Byte)
  | debugDmi (req : DapReq) (value : Bytes)
  | challengeTimeout (path : DapPath) (source : Nat) (txn : BitVec 16)
  | hlTapAdapt (s : HlPort)
  | reenergiseSettleTimeout
  | bothStewardsLoss
  deriving DecidableEq, Repr

end Sys2Proof
end

