-- ==== Sys2Proof/Decode.lean ====
section
/-! DEFINITION. The command that a word spells by the bits of the command table. No row of the table gives bits: a command is
named, with operands that come from outside, and no word spells one. -/

namespace Sys2Proof

/-- The command of a word; none for every word, since no row of the table gives bits. -/
def decodeTableWord (_nbits _w : Nat) : Option Instr := none

end Sys2Proof
end

