-- ==== Sys2Proof/Config.lean ====
section
/-! DEFINITION. What one module fixes: the identity register, the sizes of SFK-DW1-64A, what is fused or calibrated at
manufacture, and the free values. A constant without a body is open: nothing can be proved of its value. -/

namespace Sys2Proof

/-- IDREV (R1, R22). -/
def Config.idrev : W64 := 0x5F0CD0A103010201#64

/-- Scratchpad bytes of a core (R122, R138). -/
def Config.spadSize : Nat := 0x180000

/-- Vault bytes (R131, R148). -/
def Config.vaultCap : Nat := 0x60000000

/-- Control-core memory (R471). -/
def Config.ccMemCluster : Nat := 0x100000
def Config.ccMemIo : Nat := 0x4000000

/-- Free value n: one byte that hardware entropy, or a result the spec leaves open, delivers (R69, R207, R495). -/
opaque Config.freeByte : Nat → Byte

/-- Free value n, a 32-bit word. -/
opaque Config.freeWord : Nat → W32

/-- What asks for one bank of a scratchpad (R125): the place of its kind in the order, 0 ME reads to 7 control-core accesses, its
ME number, its row, and whether it writes. -/
structure BankReq where
  kind  : Fin 8
  me    : Fin 4
  row   : Fin 384
  write : Bool
  deriving DecidableEq, Repr

/-- Free value n: the requests that reach one bank in each FCLK of a stretch of time (R124 to R126). -/
opaque Config.bankTraffic : Nat → List (List BankReq)

/-- Fused values (R510, R555): module serial (16 B), vendor key hash (32 B), identity fingerprint (8 B), MAKER_EPOCH_MIN. -/
opaque Config.serial : Bytes
opaque Config.rootHash : Bytes
opaque Config.identityFp : Bytes
opaque Config.makerEpochFused : Nat

/-- The public key that the security unit derives from ID_SEED (R558). -/
opaque Config.identityKey : Bytes

/-- The identity chain stored at manufacture (R557, R568). -/
opaque Config.identityChain : Bytes

/-- MAC address of the 10BASE-T1S port, set at manufacture (R504). -/
opaque Config.macAddress : Bytes

/-- SLH-DSA verification: parameter set (128 or 129 for the s and f sets), public key, message, signature. -/
opaque Config.sigVerify : (set : Nat) → (key msg sig : Bytes) → Bool

/-- The signature that the device identity key makes over a message. -/
opaque Config.identitySign : (set : Nat) → (msg : Bytes) → Bytes

/-- Whether a stop entry whose SLEN is above 16, which R283 does not allow, matches the tokens of a generation: free. -/
opaque Config.longStop : (stop : Bytes) → (tokens : List Nat) → (entry : Nat) → Bool

/-- The calibration lists written at manufacture (R517): 1 AVS_SEED, 2 PME_CAL, 3 ALMANAC_SEED, 4 DIODE_TRIM. -/
opaque Config.factoryList : (object : Nat) → List Nat

end Sys2Proof
end

