-- ==== Sys2Proof/Machine/Bits.lean ====
section
/-! DEFINITION. Bit fields, byte order and byte strings. Every multi-byte value is little-endian (R5). -/

namespace Sys2Proof.Machine

/-- Bits [hi:lo] of a number. -/
def bitsOf (x hi lo : Nat) : Nat := x / 2 ^ lo % 2 ^ (hi + 1 - lo)

/-- Bit i of a number. -/
def bitOf (x i : Nat) : Bool := x / 2 ^ i % 2 == 1

/-- x with bits [hi:lo] replaced by the low bits of v. -/
def setBits (x hi lo v : Nat) : Nat :=
  x / 2 ^ (hi + 1) * 2 ^ (hi + 1) + v % 2 ^ (hi + 1 - lo) * 2 ^ lo + x % 2 ^ lo

/-- The little-endian bytes of a number, n of them. -/
def leBytes : Nat → Nat → Bytes
  | 0, _ => []
  | n + 1, v => BitVec.ofNat 8 (v % 256) :: leBytes n (v / 256)

/-- The number that little-endian bytes spell. -/
def leNat : Bytes → Nat
  | [] => 0
  | b :: t => b.toNat + 256 * leNat t

/-- Bytes [off, off + n) of a byte string; what lies past its end reads as zero. -/
def sliceB (b : Bytes) (off n : Nat) : Bytes :=
  let t := (b.drop off).take n
  t ++ List.replicate (n - t.length) 0#8

/-- The little-endian number in n bytes at off. -/
def leAt (b : Bytes) (off n : Nat) : Nat := leNat ((b.drop off).take n)

/-- Byte off of a byte string. -/
def byteAt (b : Bytes) (off : Nat) : Nat := leAt b off 1

/-- The big-endian number that bytes spell; SHA-256 words alone use it. -/
def beNat (b : Bytes) : Nat := b.foldl (fun acc x => acc * 256 + x.toNat) 0
def beBytes (n v : Nat) : Bytes := (leBytes n v).reverse

def zeros (n : Nat) : Bytes := List.replicate n 0#8

/-- b padded with zeros to n bytes. -/
def padTo (n : Nat) (b : Bytes) : Bytes := b ++ zeros (n - b.length)

/-- The list cut into chunks of n, the last one shorter; fuel bounds the count. -/
def chunksOf {α : Type} (n : Nat) : Nat → List α → List (List α)
  | 0, _ => []
  | fuel + 1, l => match l with
    | [] => []
    | l => l.take n :: chunksOf n fuel (l.drop n)

def chunks {α : Type} (n : Nat) (l : List α) : List (List α) := chunksOf n (l.length / n + 1) l

/-- A count that stops at 0xFFFF_FFFF. -/
def satAdd32 (a b : Nat) : Nat := min (a + b) 0xFFFFFFFF

/-- A count that stops at 0xFFFF (R535, R549). -/
def satAdd16 (a b : Nat) : Nat := min (a + b) 0xFFFF

/-- n / d rounded up. -/
def ceilDiv (n d : Nat) : Nat := (n + d - 1) / d

def alignUp (n d : Nat) : Nat := ceilDiv n d * d

/-- Insert into a list by an order, before the first element that the new one precedes. -/
def insertBy {α : Type} (lt : α → α → Bool) (x : α) : List α → List α
  | [] => [x]
  | y :: t => if lt x y then x :: y :: t else y :: insertBy lt x t

/-- Stable sort by insertion. -/
def sortBy {α : Type} (lt : α → α → Bool) (l : List α) : List α := l.foldl (fun acc x => insertBy lt x acc) []

/-- A two's complement field of n bits as an integer. -/
def signedOf (n v : Nat) : Int := if v < 2 ^ (n - 1) then (v : Int) else (v : Int) - 2 ^ n

/-- An integer clipped to a signed field of n bits and coded in it. -/
def signedTo (n : Nat) (i : Int) : Nat :=
  let c := max (-(2 ^ (n - 1) : Int)) (min i (2 ^ (n - 1) - 1))
  (if c < 0 then c + 2 ^ n else c).toNat

/-- Round n / d to an integer, a half to the even one. -/
def rneDiv (n d : Nat) : Nat :=
  let k := n / d
  let r := n % d
  if 2 * r < d then k else if d < 2 * r then k + 1 else k + k % 2

/-- A rational rounded to the nearest integer, halves to even. -/
def rneRat (q : Rat) : Int := if q < 0 then -(rneDiv (-q.num).toNat q.den : Int) else rneDiv q.num.toNat q.den

end Sys2Proof.Machine
end

