-- ==== Sys2Proof/Machine/Map.lean ====
section
/-! DEFINITION. Sparse tables and byte memories. A table lists keys in rising order; a memory lists no byte that is zero, so
equal memories are equal lists. -/

namespace Sys2Proof.Machine

/-- The entry of key i, if it is listed. -/
def lookupN {α : Type} : List (Nat × α) → Nat → Option α
  | [], _ => none
  | (k, v) :: t, i => if i = k then some v else lookupN t i

/-- The table with key i at v, in its place. -/
def putN {α : Type} : List (Nat × α) → Nat → α → List (Nat × α)
  | [], i, v => [(i, v)]
  | (k, w) :: t, i, v =>
      if i < k then (i, v) :: (k, w) :: t else if i = k then (i, v) :: t else (k, w) :: putN t i v

/-- The table without key i. -/
def delN {α : Type} (m : List (Nat × α)) (i : Nat) : List (Nat × α) := m.filter (fun e => e.1 != i)

/-- The entry of key i, or what an unlisted key holds. -/
def getN {α : Type} (d : α) (m : List (Nat × α)) (i : Nat) : α := (lookupN m i).getD d

/-- Replace the entry of key i by its image. -/
def updN {α : Type} (d : α) (m : List (Nat × α)) (i : Nat) (f : α → α) : List (Nat × α) := putN m i (f (getN d m i))

/-- One byte of a list of cells; an unlisted byte is zero. -/
def cellByte (cs : List Host.Cell) (a : Nat) : Byte := getN 0#8 cs a

/-- Write one byte, keeping the canonical form. -/
def cellPut (cs : List Host.Cell) (a : Nat) (b : Byte) : List Host.Cell :=
  if b = 0#8 then delN cs a else putN cs a b

/-- n bytes from address a on. -/
def cellsRead (cs : List Host.Cell) : Nat → Nat → Bytes
  | _, 0 => []
  | a, n + 1 => cellByte cs a :: cellsRead cs (a + 1) n

/-- Write a byte string from address a on. -/
def cellsWrite (cs : List Host.Cell) : Nat → Bytes → List Host.Cell
  | _, [] => cs
  | a, b :: t => cellsWrite (cellPut cs a b) (a + 1) t

/-- Keys rise strictly. -/
def keysRise {α : Type} : List (Nat × α) → Bool
  | [] => true
  | [_] => true
  | (a, _) :: (b, w) :: t => decide (a < b) && keysRise ((b, w) :: t)

/-- The canonical form of a byte memory: keys rise and no listed byte is zero. -/
def cellsWf (cs : List Host.Cell) : Bool := keysRise cs && cs.all (fun e => e.2 != 0#8)

end Sys2Proof.Machine
end

