-- ==== Sys2Proof/Machine/FP.lean ====
section
/-! DEFINITION. Binary32 and BF16 arithmetic (R85, R88, R97): every finite value is an exact integer multiple of 2^-149, and
one rounding to nearest even makes the result. -/

namespace Sys2Proof.Machine

/-- What a binary32 bit pattern stands for: NaN, a signed infinity, or sign and magnitude in units of 2^-149. -/
inductive FV where
  | nan
  | inf (neg : Bool)
  | fin (neg : Bool) (mag : Nat)
  deriving DecidableEq, Repr

/-- The canonical quiet NaN (R85). -/
def nan32 : F32 := 0x7FC00000#32
def inf32 (neg : Bool) : F32 := if neg then 0xFF800000#32 else 0x7F800000#32
def one32 : F32 := 0x3F800000#32

/-- The value of a bit pattern. -/
def fv (x : F32) : FV :=
  let neg := x.toNat / 2 ^ 31 == 1
  let e := x.toNat / 2 ^ 23 % 256
  let m := x.toNat % 2 ^ 23
  if e = 255 then (if m = 0 then .inf neg else .nan)
  else if e = 0 then .fin neg m
  else .fin neg ((m + 2 ^ 23) * 2 ^ (e - 1))

/-- rne32 of a magnitude of n / d units of 2^-149, with its sign (R88). Beyond the range it is infinite (R91). -/
def round32 (neg : Bool) (n d : Nat) : F32 :=
  let q := Nat.log2 (n / d) - 23
  let bits := q * 2 ^ 23 + rneDiv n (d * 2 ^ q)
  BitVec.ofNat 32 ((if neg then 2 ^ 31 else 0) + min bits 0x7F800000)

/-- rne32 of i / d units of 2^-149; zero takes the given sign. -/
def roundInt32 (zeroNeg : Bool) (i : Int) (d : Nat) : F32 :=
  round32 (if i = 0 then zeroNeg else i < 0) i.natAbs d

/-- The signed magnitude as an integer. -/
def signed (neg : Bool) (m : Nat) : Int := if neg then -(m : Int) else m

def isNan32 (x : F32) : Bool := fv x == .nan
def isFinite32 (x : F32) : Bool := match fv x with | .fin _ _ => true | _ => false

def neg32 (x : F32) : F32 := if isNan32 x then nan32 else x ^^^ 0x80000000#32
def abs32 (x : F32) : F32 := if isNan32 x then nan32 else x &&& 0x7FFFFFFF#32

/-- IEEE 754 addition (R97 add). -/
def add32 (x y : F32) : F32 :=
  match fv x, fv y with
  | .nan, _ => nan32
  | _, .nan => nan32
  | .inf a, .inf b => if a = b then inf32 a else nan32
  | .inf a, _ => inf32 a
  | _, .inf b => inf32 b
  | .fin a m, .fin b n => roundInt32 (a && b) (signed a m + signed b n) 1

def sub32 (x y : F32) : F32 := add32 x (neg32 y)

/-- The product of two values, rounded once. -/
def mulFv (x y : FV) : F32 :=
  match x, y with
  | .nan, _ => nan32
  | _, .nan => nan32
  | .inf a, .inf b => inf32 (a != b)
  | .inf a, .fin b n => if n = 0 then nan32 else inf32 (a != b)
  | .fin a m, .inf b => if m = 0 then nan32 else inf32 (a != b)
  | .fin a m, .fin b n => round32 (a != b) (m * n) (2 ^ 149)

/-- IEEE 754 product. -/
def mul32 (x y : F32) : F32 := mulFv (fv x) (fv y)

/-- IEEE 754 fused multiply-add x * y + z. -/
def fma32 (x y z : F32) : F32 :=
  match fv x, fv y, fv z with
  | .nan, _, _ => nan32
  | _, .nan, _ => nan32
  | _, _, .nan => nan32
  | .fin a m, .fin b n, .fin c k =>
      roundInt32 ((a != b) && c) (signed (a != b) (m * n) + signed c k * 2 ^ 149) (2 ^ 149)
  | .fin _ _, .fin _ _, .inf c => inf32 c
  | _, _, _ => add32 (mul32 x y) z

/-- IEEE 754 quotient. -/
def div32 (x y : F32) : F32 :=
  match fv x, fv y with
  | .nan, _ => nan32
  | _, .nan => nan32
  | .inf _, .inf _ => nan32
  | .inf a, .fin b _ => inf32 (a != b)
  | .fin a _, .inf b => round32 (a != b) 0 1
  | .fin a m, .fin b n =>
      if n = 0 then (if m = 0 then nan32 else inf32 (a != b)) else round32 (a != b) (m * 2 ^ 149) n

/-- The integer square root, one binary digit of the root a step. -/
def isqrtFrom : Nat → Nat → Nat → Nat
  | 0, _, r => r
  | b + 1, n, r => isqrtFrom b n (if (r + 2 ^ b) * (r + 2 ^ b) ≤ n then r + 2 ^ b else r)

def isqrt (n : Nat) : Nat := isqrtFrom (Nat.log2 n / 2 + 1) n 0

/-- √(n / d) with a sticky low bit: twice the root of the quotient, odd when it is not exact. -/
def sqrtSticky (n d : Nat) : Nat :=
  let q := n / d
  let r := isqrt q
  2 * r + (if r * r * d = n then 0 else 1)

/-- IEEE 754 square root. √(m * 2^-149) = √(m * 2^251) * 2^-200. -/
def sqrt32 (x : F32) : F32 :=
  match fv x with
  | .nan => nan32
  | .inf neg => if neg then nan32 else inf32 false
  | .fin neg m =>
      if m = 0 then x
      else if neg then nan32
      else round32 false (sqrtSticky (m * 2 ^ 251) 1) (2 ^ 52)

/-- The order of R97: -0 lies below +0. NaN is not asked. -/
def key32 (x : F32) : Int := if x.toNat < 2 ^ 31 then x.toNat else -((x.toNat : Int) - 2 ^ 31) - 1

/-- max and min of R97: a NaN operand gives NaN. -/
def max32 (x y : F32) : F32 := if isNan32 x || isNan32 y then nan32 else if key32 x < key32 y then y else x
def min32 (x y : F32) : F32 := if isNan32 x || isNan32 y then nan32 else if key32 x < key32 y then x else y

/-- Comparison of values: ±0 are equal, and NaN compares false. -/
def val32 (x : F32) : Option Int :=
  match fv x with
  | .nan => none
  | .inf neg => some (signed neg (2 ^ 400))
  | .fin neg m => some (signed neg m)

def lt32 (x y : F32) : Bool := match val32 x, val32 y with | some a, some b => a < b | _, _ => false
def le32 (x y : F32) : Bool := match val32 x, val32 y with | some a, some b => a ≤ b | _, _ => false

/-- sum, sum of squares and max over a vector (R97). -/
def sum32 (xs : List F32) : F32 := xs.foldl add32 0#32
def sumsq32 (xs : List F32) : F32 := xs.foldl (fun acc x => fma32 x x acc) 0#32
def maxv32 (xs : List F32) : F32 := xs.foldl max32 (inf32 true)

/-- BF16 to FP32 is exact. -/
def ofBf16 (b : BF16) : F32 := BitVec.ofNat 32 (b.toNat * 65536)
/-- A value with the canonical NaN in place of any NaN (R85). -/
def canon32 (x : F32) : F32 := if isNan32 x then nan32 else x

/-- FP32 to BF16, round to nearest even, overflow to infinity, NaN canonical (R85). -/
def toBf16 (x : F32) : BF16 :=
  if isNan32 x then 0x7FC0#16
  else BitVec.ofNat 16 (x.toNat / 2 ^ 31 * 32768 + rneDiv (x.toNat % 2 ^ 31) 65536)

/-- FP32 to BF16 by stochastic rounding with k, u = k / 65536 (R69, R85). A finite value never becomes infinite. -/
def toBf16Stoch (x : F32) (k : Nat) : BF16 :=
  if !isFinite32 x then toBf16 x
  else
    let neg := x.toNat / 2 ^ 31 == 1
    let lo := x.toNat % 2 ^ 31 / 65536
    let f := x.toNat % 65536
    let up := if neg then decide (65536 - f ≤ k) else decide (k < f)
    let mag := if f = 0 then lo else if lo + 1 = 0x7F80 then lo else if up then lo + 1 else lo
    BitVec.ofNat 16 (x.toNat / 2 ^ 31 * 32768 + mag)

/-- The FP32 value nearest to a rational number. -/
def ofRat32 (q : Rat) : F32 := roundInt32 false (q.num * 2 ^ 149) q.den

/-- The rational value of a finite FP32 pattern; 0 for the others, which no caller passes. -/
def toRat32 (x : F32) : Rat :=
  match fv x with
  | .fin neg m => mkRat (signed neg m) (2 ^ 149)
  | _ => 0

/-- An integer of at most 24 bits as FP32. -/
def ofNat32 (n : Nat) : F32 := round32 false (n * 2 ^ 149) 1

end Sys2Proof.Machine
end

