-- ==== Sys2Proof/Machine/Special.lean ====
section
/-! DEFINITION. The vector engine's special functions (R97): each is evaluated in fixed point with 700 fraction bits and
rounded once to FP32. DEDUCED (log entry 20): 700 bits decide every rounding of a binary32 operand. -/

namespace Sys2Proof.Machine

/-- One in the fixed point of this file, 2^700. -/
def fxOne : Int := 2 ^ 700

def fxMul (a b : Int) : Int := a * b / fxOne
def fxDiv (a b : Int) : Int := a * fxOne / b

/-- A finite FP32 value in fixed point. -/
def fxOf (neg : Bool) (m : Nat) : Int := signed neg (m * 2 ^ 551)

/-- FP32 nearest to a fixed-point value. -/
def fxRound (i : Int) : F32 := roundInt32 false i (2 ^ 551)

/-- Σ z^(2k+1) / (2k+1), with alternating signs when alt. -/
def fxOdd (alt : Bool) (terms : Nat) (z : Int) : Int :=
  let z2 := fxMul z z
  ((List.range terms).foldl
    (fun (t : Int × Int) k =>
      (fxMul t.1 z2, t.2 + (if alt && k % 2 == 1 then -1 else 1) * (t.1 / (2 * k + 1 : Int)))) (z, 0)).2

/-- ln 2 = 2 artanh(1/3). -/
def fxLn2 : Int := 2 * fxOdd false 230 (fxOne / 3)

/-- π = 16 arctan(1/5) - 4 arctan(1/239). -/
def fxPi : Int := 16 * fxOdd true 160 (fxOne / 5) - 4 * fxOdd true 50 (fxOne / 239)

/-- e^r by its series, r below 1. -/
def fxExpSmall (r : Int) : Int :=
  ((List.range 150).foldl (fun (t : Int × Int) k => (fxMul t.1 r / (k + 1 : Int), t.2 + t.1)) (fxOne, 0)).2

/-- e^x for x up to 2^9; below -2^10 it is 0 in this precision. -/
def fxExp (x : Int) : Int :=
  if x < -1024 * fxOne then 0
  else
    let k := x / fxLn2
    let y := fxExpSmall (x - k * fxLn2)
    if 0 ≤ k then y * 2 ^ k.toNat else y / 2 ^ (-k).toNat

/-- ln(m * 2^-149) for m > 0. -/
def fxLn (m : Nat) : Int :=
  let k := Nat.log2 m
  let z : Int := m * fxOne / 2 ^ k
  2 * fxOdd false 230 (fxDiv (z - fxOne) (z + fxOne)) + ((k : Int) - 149) * fxLn2

/-- 1 / (1 + e^-x). -/
def fxSigmoid (x : Int) : Int :=
  if 0 ≤ x then fxDiv fxOne (fxOne + fxExp (-x))
  else let e := fxExp x; fxDiv e (fxOne + e)

/-- sin and cos of r in [0, π/2] by their series. -/
def fxSinCos (r : Int) : Int × Int :=
  let t := (List.range 150).foldl
    (fun (t : Int × Int × Int) k =>
      let s := if k % 4 < 2 then t.1 else -t.1
      (fxMul t.1 r / (k + 1 : Int),
        if k % 2 == 0 then (t.2.1, t.2.2 + s) else (t.2.1 + s, t.2.2))) (fxOne, 0, 0)
  t.2

def exp32 (x : F32) : F32 :=
  match fv x with
  | .nan => nan32
  | .inf neg => if neg then 0#32 else inf32 false
  | .fin neg m =>
      if 89 * 2 ^ 149 ≤ m then (if neg then fxRound (fxExp (max (fxOf neg m) (-200 * fxOne))) else inf32 false)
      else fxRound (fxExp (fxOf neg m))

def exp232 (x : F32) : F32 :=
  match fv x with
  | .nan => nan32
  | .inf neg => if neg then 0#32 else inf32 false
  | .fin neg m =>
      if 200 * 2 ^ 149 ≤ m then (if neg then 0#32 else inf32 false)
      else
        let i := fxOf neg m
        let k := i / fxOne
        let f := i % fxOne
        let y := if f = 0 then fxOne else fxExpSmall (fxMul f fxLn2)
        if 0 ≤ k then round32 false (y.toNat * 2 ^ k.toNat) (2 ^ 551)
        else round32 false y.toNat (2 ^ (551 + (-k).toNat))

def log32 (x : F32) : F32 :=
  match fv x with
  | .nan => nan32
  | .inf neg => if neg then nan32 else inf32 false
  | .fin neg m => if m = 0 then inf32 true else if neg then nan32 else fxRound (fxLn m)

def log232 (x : F32) : F32 :=
  match fv x with
  | .nan => nan32
  | .inf neg => if neg then nan32 else inf32 false
  | .fin neg m =>
      if m = 0 then inf32 true else if neg then nan32
      else
        let k := Nat.log2 m
        let z : Int := m * fxOne / 2 ^ k
        fxRound (fxDiv (2 * fxOdd false 230 (fxDiv (z - fxOne) (z + fxOne))) fxLn2 + ((k : Int) - 149) * fxOne)

/-- sin and cos of a finite FP32 value in fixed point, the argument reduced exactly. -/
def sincosFx (neg : Bool) (m : Nat) : Int × Int :=
  let half := fxPi / 2
  let x := fxOf false m
  let q := x / half
  let p := fxSinCos (x - q * half)
  let t := if q % 4 = 0 then (p.1, p.2) else if q % 4 = 1 then (p.2, -p.1)
    else if q % 4 = 2 then (-p.1, -p.2) else (-p.2, p.1)
  (if neg then -t.1 else t.1, t.2)

def sin32 (x : F32) : F32 :=
  match fv x with
  | .fin neg m => if m = 0 then x else fxRound (sincosFx neg m).1
  | _ => nan32

def cos32 (x : F32) : F32 :=
  match fv x with
  | .fin neg m => fxRound (sincosFx neg m).2
  | _ => nan32

def tanh32 (x : F32) : F32 :=
  match fv x with
  | .nan => nan32
  | .inf neg => if neg then 0xBF800000#32 else one32
  | .fin neg m =>
      if m = 0 then x
      else
        let e := fxExp (fxOf true (2 * m))
        roundInt32 neg ((if neg then -1 else 1) * fxDiv (fxOne - e) (fxOne + e)) (2 ^ 551)

def sigmoid32 (x : F32) : F32 :=
  match fv x with
  | .nan => nan32
  | .inf neg => if neg then 0#32 else one32
  | .fin neg m => fxRound (fxSigmoid (fxOf neg m))

/-- x * sigmoid(u) rounded once: the common form of SiLU and GELU. -/
def gated32 (neg : Bool) (m : Nat) (u : Int) : F32 := round32 neg (m * (fxSigmoid u).toNat) (2 ^ 700)

def silu32 (x : F32) : F32 :=
  match fv x with
  | .nan => nan32
  | .inf neg => if neg then 0x80000000#32 else inf32 false
  | .fin neg m => gated32 neg m (fxOf neg m)

/-- GELU, tanh form: 0.5 x (1 + tanh u) = x * sigmoid(2u). -/
def gelu32 (x : F32) : F32 :=
  match fv x with
  | .nan => nan32
  | .inf neg => if neg then 0x80000000#32 else inf32 false
  | .fin neg m =>
      let i := fxOf neg m
      let poly := i + 44715 * fxMul i (fxMul i i) / 1000000
      -- 2 √(2/π) = √(8/π)
      gated32 neg m (fxMul poly (isqrt (8 * fxOne * fxOne * fxOne / fxPi).toNat))

def rcp32 (x : F32) : F32 := div32 one32 x

/-- 1/√(m * 2^-149) = √(2^649 / m) * 2^-250. -/
def rsqrt32 (x : F32) : F32 :=
  match fv x with
  | .nan => nan32
  | .inf neg => if neg then nan32 else 0#32
  | .fin neg m =>
      if m = 0 then inf32 neg
      else if neg then nan32
      else round32 false (sqrtSticky (2 ^ 649) m) (2 ^ 102)

/-- ln and e^x on exact numbers for the Finder's quantities, in fixed point. -/
def expRat (q : Rat) : Rat := mkRat (fxExp (q.num * fxOne / q.den)) (2 ^ 700)

end Sys2Proof.Machine
end

