-- ==== Sys2Proof/Machine/State.lean ====
section
/-! DEFINITION. The state of the module as plain data: every register, buffer, table, counter, mode and pin the spec gives
it, the queue of waiting commands, and the state right after reset. Registers are held whole by their byte offset in their
register space (R10, R170), so that reserved bits survive; a register that nothing has written is not listed and reads as
its reset value (Machine/Regs.lean). -/

namespace Sys2Proof.Machine

/-- A sparse table: keys rise strictly, and what is not listed is at its start value. -/
abbrev NMap (α : Type) := List (Nat × α)

/-- A memory with the (80, 64) code (ch. 14): its bytes that are not zero, addresses rising, and the granules that are
poisoned (R353), rising. -/
structure Mem where
  cells  : List Host.Cell
  poison : List Nat
  deriving DecidableEq, Repr

/-- A memory that nothing has written. -/
def Mem.empty : Mem := { cells := [], poison := [] }

/-- A command as it stands in an engine queue: its word, its index (R190) and the expert cursor at issue (R201). -/
structure Issued where
  word  : BitVec 128
  index : W32
  xcur  : W64
  deriving DecidableEq, Repr

/-- A decoded block in the stream engine's output FIFO (R119): header, payload, and its lane entries as (position, BF16). -/
structure StreamBlock where
  header  : BitVec 16
  payload : Bytes
  lane    : List (Nat × BF16)
  deriving DecidableEq, Repr

/-- A decoded tensor waiting for its matrix command (R191): tensor scale and blocks, or a plain BF16 array. -/
structure StreamTensor where
  tscale : F32
  bf16   : Bool
  blocks : List StreamBlock
  values : List BF16
  /-- the stream engine has put its last block in -/
  whole  : Bool
  deriving DecidableEq, Repr

/-- The stream that the SE is decoding (R119): its descriptor, its place in the command, the stripes (or 64 B units) done, the
address of the next, and how many of its blocks are in the FIFO. -/
structure SeRun where
  desc   : BitVec 128
  tensor : Nat
  stripe : Nat
  addr   : Nat
  sent   : Nat
  deriving DecidableEq, Repr

/-- The matrix command that the MEs have begun: its descriptor (R185) and what they have taken from the FIFO (R119). -/
structure MeRun where
  desc   : BitVec 256
  tensor : StreamTensor
  deriving DecidableEq, Repr

/-- A tile sampled for duplicate execution whose comparison has yet to come to an end (R100): its command, its tokens, what stood
at the destination before it, what it computes, and what the owner's MEs made of it. -/
structure DupTile where
  index  : W32
  word   : BitVec 128
  desc   : BitVec 256
  tokens : List Nat
  old    : List F32
  right  : List F32
  outs   : List F32
  deriving DecidableEq, Repr

/-- A tile sampled for the shadow check whose recomputation has yet to come to an end (R107): its weights, its tokens and its
narrow outputs. -/
structure ShdTile where
  desc   : BitVec 256
  tensor : StreamTensor
  tokens : List Nat
  narrow : List F32
  deriving DecidableEq, Repr

/-- A scratchpad row that the sequencer has fetched (R121): its number, its bytes and its poisoned granules. -/
structure FetchedRow where
  row    : Nat
  bytes  : Bytes
  poison : List Nat
  deriving DecidableEq, Repr

/-- A transfer of the TE that is not complete (R128, R202): its identifier, its command, its token on this core, what is
still to land, and for a READ where the data goes. -/
structure TeTxn where
  tid       : BitVec 16
  index     : W32
  opc       : Byte
  token     : Option (Fin 32)
  /-- bytes that the TE has sent, and what is still to land -/
  sent      : Nat
  remaining : Nat
  dst       : Nat
  /-- offset in its space of the first byte read, or the tree of a REDUCE -/
  src       : Nat
  size      : Nat
  deriving DecidableEq, Repr

/-- The sequencer's STATE field (R142). -/
inductive SeqState where
  | stopped | running | waiting (sem : Fin 32) | errored
  deriving DecidableEq, Repr

/-- One core: scratchpad, semaphores, sequencer, queues, engines and registers (ch. 05, 07, 04, 09, 14). -/
structure CoreState where
  spad     : Mem
  /-- SEM[n].COUNT (R144); unlisted 0 -/
  sem      : NMap (BitVec 16)
  /-- SEQ_CTRL.RUN (R141) -/
  run      : Bool
  /-- SEQ_CTRL.BASE [20:4] -/
  base     : BitVec 17
  seqState : SeqState
  /-- the command window in use: BASE when the sequencer started -/
  window   : BitVec 17
  /-- fetched rows: the one in issue and the next (R121) -/
  rows     : List FetchedRow
  /-- SEQ_STATUS.CMD_INDEX (R142) -/
  cmdIndex : W32
  /-- END has been issued and the queues are draining (R190) -/
  ending   : Bool
  /-- HALT was written and queued commands complete (R141) -/
  halting  : Bool
  meq      : List Issued
  veq      : List Issued
  seqe     : List Issued
  teq      : List Issued
  /-- SE output: decoded tensors in stream order (R119, R191) -/
  fifo     : List StreamTensor
  se       : Option SeRun
  me       : Option MeRun
  te       : List TeTxn
  nextTid  : BitVec 16
  /-- slots already added by the REDUCE.U at the head of VEQ (R207) -/
  reduceDone : Option (List Nat)
  /-- plain registers of SPACE 2 by offset; unlisted at reset value -/
  regs     : NMap W64
  /-- clock units of the notes of the last 3,600 s (R103) and suspect episodes of the last 86,400 s (R105) -/
  notes    : List Nat
  episodes : List Nat
  /-- margin steps that the core's suspect episodes hold, on its rail and on its site's swallow (R104, R106) -/
  railSteps : Nat
  swallowSteps : Nat
  /-- every tile is sampled until the pattern test completes (R104) -/
  forceDup : Bool
  /-- engines clock-gated (R455) -/
  gated    : Bool
  /-- the first non-finite output of the step has been reported (R91) -/
  nfSeen   : Bool
  /-- a tile of this step was taken for duplicate execution, and for the shadow check (R99) -/
  dupTaken : Bool
  shdTaken : Bool
  /-- what waits for its duplicate comparison, and for its shadow recomputation (R101, R107) -/
  dupTile  : Option DupTile
  shdTile  : Option ShdTile
  deriving DecidableEq, Repr

/-- What stands in an input buffer of a router of one packet (R156): its flits that are here, those that have gone on, and whether
the packet has been refused, so that its flits leave as they come. The other flits are still behind, and come in order. -/
structure Hop where
  router : Nat
  port   : Nat
  vc     : Nat
  pkt    : Packet
  here   : Nat
  gone   : Nat
  drop   : Bool
  deriving DecidableEq, Repr

/-- A multicast whose acknowledgement is not complete at a router (R162): entry, port it came from, ports still to answer,
and whether some token was partial. -/
structure AckWait where
  tree    : Nat
  inPort  : Nat
  waiting : List Nat
  partialSt : Bool
  /-- head of the packet, whose source and TID name the issuing command at the root -/
  head    : BitVec 512
  deriving DecidableEq, Repr

/-- An acknowledgement token on a link: it reaches `router` from the router behind port `port` (R162). -/
structure AckTok where
  router  : Nat
  port    : Nat
  tree    : Nat
  partialSt : Bool
  deriving DecidableEq, Repr

/-- One data router (ch. 06): registers by offset, credits in use and multicasts in progress. -/
structure RouterState where
  regs     : NMap W64
  /-- flits in the buffer behind output port p, per buffer b (0 VC0 request, 1 VC0 response, 2 VC1, 3 VC2, 4 VC3), key
  5p + b: the credits that the port does not hold (R156) -/
  creditsUsed : NMap Nat
  ackWait  : List AckWait
  /-- input port of the last head that took an output, key 4 * output + channel (R159) -/
  lastWin  : NMap Nat
  /-- clock unit of the last VC0 flit on an output, and flits of other channels since (R159); unlisted: 15 FCLK ago or more -/
  vc0Sent  : NMap (Nat × Nat)
  /-- clock units of uncorrectable flits and of resynchronisations of the last second, per port (R355) -/
  ueTimes  : List (Nat × Nat)
  syncTimes : List (Nat × Nat)
  deriving DecidableEq, Repr

/-- A grant class of R217: 1 region work, 2 sweep, 3 shadow. -/
abbrev GrantClass := Fin 3

/-- One cluster (ch. 05, 08, 09, 14, 17, 18): vault, registers of SPACE 3, grant arbiter, rail, thermal limit. -/
structure ClusterState where
  vault    : Mem
  regs     : NMap W64
  /-- MEs that hold a grant: core * 4 + ME, and class (R216) -/
  grants   : List (Nat × GrantClass)
  /-- MEs that wait, oldest first -/
  waiting  : List (Nat × GrantClass)
  /-- the round-robin pointer of the arbiter: ME after the last granted -/
  rr       : Nat
  /-- last SHARE the Finder wrote, and the halvings and the stop the arbiter holds on it (R479) -/
  finderShare : BitVec 7
  neighbour : Bool
  stopped  : Bool
  /-- thermal limit (R442) and clock unit since which both forecasts stayed below limit − 6 K -/
  lth      : Nat
  coolSince : Option Nat
  /-- periods in a row with slack above 12 steps (R427) -/
  slackHigh : Nat
  /-- clocks stopped (R425) or rail isolated -/
  clocksOff : Bool
  /-- vault in self-retain (R447, R454, R462) -/
  selfRetain : Bool
  /-- shard directory (R331): epoch digest, index, offset, length, digest, clock unit of the last good check -/
  shards   : List (Bytes × Nat × Nat × Nat × Bytes × Nat)
  /-- 9,216 B frames of each core's cache area that hold extents: (core, slot, first frame, count) (R246) -/
  extents  : List (Nat × Nat × Nat × Nat)
  /-- the write-back of a burst that still read uncorrectable (R354) -/
  wroteBack : List Nat
  /-- sub-Plate absorber of channel 1 (R206, R387): bytes absorbed for the step -/
  absorb1  : Bytes
  deriving DecidableEq, Repr

/-- Interrupt controller of a control core (R474 to R478). -/
structure Icu where
  /-- ICU_SRC[n] as one word; unlisted at reset -/
  src   : NMap W64
  /-- ICU_GCFG[g]; unlisted at reset -/
  gcfg  : NMap W32
  /-- BATCH of group g -/
  batch : NMap Nat
  /-- groups that are ready -/
  ready : List Nat
  /-- clock unit at which the group's batch began -/
  since : NMap Nat
  deriving DecidableEq, Repr

/-- What a control core took its last trap on: the machine external interrupt (R475), or the access fault of a load or store that
was answered with an error (R472). -/
inductive CcTrap where
  | external | access
  deriving DecidableEq, Repr

/-- One control core (ch. 20). -/
structure CcState where
  /-- clock unit at which LOCAL_TIME was zero (R401) -/
  boot    : Nat
  /-- digest of the image it runs; none before its image is entered -/
  image   : Option Bytes
  /-- mailbox: image address, length, ENTRY, DIGEST (R482) -/
  mailbox : Option (Nat × Nat × Nat × Bytes)
  /-- the die's port stays down after CC_LOAD_FAIL (R482) -/
  failed  : Bool
  /-- control-core memory, SPACE 4 (R471) -/
  mem     : Mem
  /-- CSR ccerr, 0x7C0 (R472) -/
  ccerr   : Byte
  icu     : Icu
  /-- it waits in WFI (R476) -/
  wfi     : Bool
  /-- mstatus.MIE and mie.MEIE (R476) -/
  mie     : Bool
  meie    : Bool
  /-- the trap it took last and has not returned from -/
  trap    : Option CcTrap
  /-- duties parked during a reload (R484) -/
  parked  : Bool
  /-- PMP region 0 locked by the boot ROM (R473) -/
  pmpLocked : Bool
  deriving DecidableEq, Repr

/-- The trust of a diode pair, TRUST of R450. -/
inductive Trust where
  | agree | disagree | distrusted | noModel
  deriving DecidableEq, Repr

/-- One hot spot (R437, R438, R441): readings, used value, trust, the time since which the pair agreed, and its Almanac
entry. Temperatures are in °C and exact. -/
structure HotSpot where
  a       : Option Rat
  b       : Option Rat
  used    : Option Rat
  trust   : Trust
  /-- events raised in the present episode -/
  raised  : List (BitVec 16)
  agreeSince : Option Nat
  /-- rise x_h over the inlet, gain a_h in K/W, time constant τ_h in s; none until seeded -/
  rise    : Rat
  gain    : Option Rat
  tau     : Option Rat
  forecast : Option Rat
  updates : Nat
  deriving DecidableEq, Repr

/-- A Heliostat port (ch. 24) without its registers, which lie in its site's die registers. -/
structure HlState where
  /-- state code of R541 -/
  st       : Fin 8
  /-- state to return to after RETRAIN -/
  before   : Fin 8
  gen      : Fin 3
  lanes    : Byte
  tapsWarm : Bool
  updates  : Nat
  draining : Bool
  failures : Nat
  /-- last verified hello of the peer, empty below AUTH (R552 HL_PEER) -/
  peer     : Bytes
  /-- the hello that this module sent last -/
  own      : Bytes
  /-- next SEQ to send, next expected, unacknowledged flits (SEQ, class, payload) -/
  txSeq    : BitVec 12
  rxSeq    : BitVec 12
  unacked  : List (BitVec 12 × Nat × Bytes)
  replays  : Nat
  replayTimes : List Nat
  /-- the last flit sent back: NAK or ACK with ACKSEQ -/
  lastAck  : Option (Bool × BitVec 12)
  /-- credits withheld from the peer per class (R320) -/
  chainStall : Bool
  /-- last step acknowledged to the peer and last step sent to it (R547) -/
  ackedStep : Option W64
  sentStep : Option W64
  /-- counters MALFORMED, AUTH, CLASS, CREDIT, PROTOCOL, RETRAIN (R549), and their times in the window -/
  viols    : NMap W32
  violTimes : List Nat
  authTimes : List Nat
  retrainTimes : List Nat
  quarTimes : List Nat
  held     : Bool
  deriving DecidableEq, Repr

/-- One site (ch. 02, 16, 17, 18, 24): die registers of SPACE 5, power, clearing, hot spots, Heliostat port. -/
structure SiteState where
  regs     : NMap W64
  powered  : Bool
  /-- partition whose contents the site last held (R28) and the one it waits to join -/
  lastPart : Option PartId
  joining  : Option (Option PartId)
  tripLatch : Bool
  hot      : NMap HotSpot
  /-- clock unit since which every used value stayed 2 K below its limit (R442) -/
  belowSince : Option Nat
  limited  : Bool
  /-- steps of 4/32 asked of the site's suspect swallow and not removed (R104, R106) -/
  swallowSteps : Nat
  hl       : HlState
  deriving DecidableEq, Repr

/-- A queue of a Wenlink port (R527, R528). -/
structure WlQueue where
  /-- 1 host command, 2 token, 3 completion, 4 event, 5 Logbook -/
  kind    : Byte
  part    : Byte
  entries : W32
  base    : W64
  indexAddr : W64
  head    : W32
  tail    : W32
  /-- SEQ of the token records posted (R287) -/
  seq     : BitVec 16
  /-- command queue: the entry at the head has been read -/
  ready   : Bool
  deriving DecidableEq, Repr

/-- What an outstanding host read is for (R531). -/
inductive ReadFor where
  | prompt (h : Slot) | maskBits (h : Slot) | stopRec (h : Slot) | entry (q : BitVec 16)
  /-- for a request that has ended -/
  | dropped
  deriving DecidableEq, Repr

/-- A message the module has sent to the host (R525), a QSTAT answer, or its credits. Answers of the management agent stand in
Mgmt.out. -/
inductive HostMsg where
  | mwr (addr : W64) (data : Bytes)
  | mrd (tag : BitVec 16) (addr : W64) (len : Nat)
  | qstat (tag : BitVec 16) (code : Byte)
  | credits (withheld : Bool)
  deriving DecidableEq, Repr

/-- A Wenlink port (ch. 23). -/
structure WlState where
  /-- state code of R520 -/
  st       : Fin 8
  gen      : Fin 4
  lanes    : Byte
  present  : Bool
  tapsWarm : Bool
  updates  : Nat
  failures : Nat
  /-- partner's maximum generation, boot region (R521) -/
  partnerGen : Byte
  bootAddr : W64
  bootLen  : W64
  lastHostTime : Option W64
  /-- flit layer (R523) -/
  txSeq    : BitVec 12
  rxSeq    : BitVec 12
  /-- flits not yet acknowledged; those past the first 512 have yet to be sent -/
  unacked  : List (BitVec 12 × Bytes)
  replays  : Nat
  replayTimes : List Nat
  rx       : Bytes
  /-- the last flit sent back: none, ACK or NAK with ACKSEQ -/
  lastAck  : Option (Bool × BitVec 12)
  /-- outstanding host reads: TAG, address, length, purpose -/
  reads    : List (BitVec 16 × W64 × Nat × ReadFor)
  nextTag  : BitVec 16
  queues   : NMap WlQueue
  /-- parking area and images in it: slot, offset, bytes (R532) -/
  area     : Option (W64 × W64)
  images   : List (Slot × Nat × Nat)
  /-- WL_ERR (R538) -/
  err      : W64
  /-- nine counters of the violation table (R535) and their times in the window -/
  viols    : NMap W32
  violTimes : List Nat
  retrainTimes : List Nat
  quarTimes : List Nat
  held     : Bool
  /-- host messages of the present millisecond: (millisecond, count) -/
  rate     : Nat × Nat
  /-- second of the last violation event for that rate -/
  rateSec  : Option Nat
  out      : List HostMsg
  /-- records held until a completion queue of the number takes them (R533), with the slot whose record it is -/
  heldRecs : List (BitVec 16 × Option Nat × Bytes)
  /-- doorbells withheld in DIAPAUSE (R464) -/
  withheld : List (BitVec 16 × W32 × W64)
  deriving DecidableEq, Repr

/-- Request states of R269, in code order. -/
inductive ReqState where
  | queued | prefill | decode | paused | resuming | done | cancelled | failed
  deriving DecidableEq, Repr

/-- Why a request is PAUSED (R270, R390 PAUSE). -/
inductive PauseCause where
  | backpressure | keepStop | diapause
  deriving DecidableEq, Repr

/-- A verification cycle of a request from its drafting to its commits (R301): whether it is a probe, the draft's proposals with the
kept lists they were drawn from (R304, R306), the index that a MASK accepted meanwhile names (R303), and whether its wavefront has left
the head region. -/
structure SpecRun where
  probe    : Bool
  props    : List (Option (BitVec 18) × KeptList)
  limit    : Option Nat
  verified : Bool
  deriving DecidableEq, Repr

/-- One request of the table (ch. 10, 11, 15). -/
structure Request where
  part     : PartId
  /-- the 128 B submit descriptor as accepted (R272) -/
  desc     : Bytes
  st       : ReqState
  /-- order of acceptance and the port that carried the command -/
  accepted : Nat
  port     : WlPort
  /-- epoch digest bound and its bank (R274, R323) -/
  epoch    : Bytes
  bank     : Nat
  /-- reads of its inputs still outstanding (R274) -/
  fetching : Nat
  prompt   : List W32
  mask     : Option Bytes
  /-- accepted MASK updates not yet reached: (AT, bitmap) (R280) -/
  masks    : List (Nat × Bytes)
  stop     : Bytes
  /-- reserved length (R247) and whether its extents are placed -/
  reserved : Nat
  placed   : Bool
  /-- positions of the request whose cache entries are written -/
  cached   : Nat
  counts   : List (Nat × Nat)
  untracked : Bool
  /-- tokens appended by CONTINUE, at their index -/
  appended : List (Nat × W32)
  /-- committed tokens, oldest first -/
  tokens   : List (BitVec 18)
  /-- GEN_BASE: position of the first new token of the present generation, and how many tokens came before it (R284) -/
  genBase  : Nat
  genStart : Nat
  maxNew   : Nat
  resumes  : Nat
  /-- commands waiting for a commit point: pending cancel (queue, CQ) (R285) -/
  cancel   : Option (BitVec 16 × BitVec 16)
  pause    : Option PauseCause
  pausedFrom : ReqState
  /-- CACHE_WAIT and BACKPRESSURE have been raised for it (R247, R288) -/
  waited   : Bool
  pressed  : Bool
  pausedAt : Nat
  /-- cache is parked: image length (R261) -/
  parked   : Option Nat
  /-- running Plate (R383), and the new-token index that the next TOKEN fold extends it with -/
  chain    : Bytes
  folded   : Nat
  /-- token records that landed and are not posted (R285, R288) -/
  ring     : List Bytes
  /-- a step that draws for it is in flight (R276) -/
  inFlight : Bool
  /-- order in which the last token committed (R276) -/
  order    : Nat
  lastStep : W64
  /-- speculation (R308) -/
  specD    : Nat
  specZ    : Nat
  specOff  : Bool
  specWait : Nat
  /-- the cycle whose verification wavefront is on its way (R301) -/
  cycle    : Option SpecRun
  /-- inputs of REPLAY not yet reached: (INDEX, TYPE, payload) (R392) -/
  inputs   : List (Nat × Byte × Bytes)
  deriving DecidableEq, Repr

/-- A weight epoch and its state (R331). -/
inductive EpochState where
  | old | swapping | newCommitted
  deriving DecidableEq, Repr

/-- A verified manifest as the Steward holds it (R312). -/
structure Manifest where
  kind    : Byte
  variant : Byte
  program : Bytes
  base    : Bytes
  model   : Bytes
  digest  : Bytes
  /-- (index, length, digest) in ascending index -/
  shards  : List (Nat × Nat × Bytes)
  deriving DecidableEq, Repr

/-- A Moult in progress (R325 to R330). -/
structure Moult where
  mode    : Fin 3
  chain   : Bool
  drain   : Bool
  man     : Manifest
  started : Nat
  passed  : List Nat
  /-- digests of the landed shards under SIGNED (R317) -/
  landed  : List (Nat × Bytes)
  deriving DecidableEq, Repr

/-- The epochs of a partition. -/
structure Epochs where
  st        : EpochState
  committed : Option Manifest
  comBank   : Nat
  incoming  : Option Manifest
  incBank   : Nat
  /-- previous epoch that still retires, and its bank -/
  retiring  : Option (Manifest × Nat)
  moult     : Option Moult
  missing   : List Nat
  /-- variants loaded: number and count of private experts (R295) -/
  variants  : List (Nat × Nat)
  deriving DecidableEq, Repr

/-- One trained tensor of an Instar job (R339, R340): number, master weights, m, v, G. -/
structure Trained where
  num    : Nat
  master : List BF16
  m      : List F32
  v      : List F32
  g      : List F32
  deriving DecidableEq, Repr

/-- An Instar batch accepted and not yet run (R336, R344). -/
structure InstarBatch where
  number  : Nat
  last    : Bool
  targets : Nat
  cq      : BitVec 16
  tokens  : Bytes
  segs    : Bytes
  loss    : Bytes
  deriving DecidableEq, Repr

/-- An Instar job's own state (ch. 13). -/
structure Instar where
  desc     : Bytes
  baseDigest : Bytes
  step     : Nat
  nextBatch : Nat
  /-- batches accepted and not yet run -/
  waiting  : List InstarBatch
  targets  : Nat
  tensors  : List Trained
  ckpts    : Nat
  lastCkpt : Option Nat
  /-- batch number after the newest checkpoint, and the tensors that its image holds -/
  ckptBatch : Nat
  saved    : List Trained
  exported : Bool
  exportDue : Bool
  deriving DecidableEq, Repr

/-- A run of consecutive positions of one request in a wavefront (R250): its cache slot, first position and token count. -/
structure Segment where
  slot  : Nat
  start : Nat
  count : Nat
  deriving DecidableEq, Repr

/-- A region at run time (R40): the segments of the wavefronts it holds, the step, and replay bookkeeping. -/
structure RegionRun where
  decode  : List Segment
  prefill : List Segment
  /-- pad tokens that fill the prefill row (R251) -/
  pads    : Nat
  busy    : Bool
  stepNum : W64
  startAt : Nat
  replays : Nat
  trips   : Nat
  /-- tokens of the step quantised at E8 after a trap (R73) -/
  trapped : List Nat
  lastFault : Option (BitVec 16 × W32)
  /-- mean m, samples n and deviation times of the shadow check (R109) -/
  qualM   : Rat
  qualN   : Nat
  qualTimes : List Nat
  /-- the first non-finite output of the step has been reported (R91) -/
  nfSeen  : Bool
  deriving DecidableEq, Repr

/-- An open duplicate-execution case (R102): owner, first partner, command index, step, the owner's first bits, forced. -/
structure DupCase where
  owner   : CoreId
  partner : CoreId
  index   : W32
  step    : W64
  first   : List F32
  /-- 1 after the mismatch, 2 after the second partner disagreed -/
  round   : Nat
  second  : Option CoreId
  deriving DecidableEq, Repr

/-- A sweep from its first packet to its last (R252 to R257). -/
structure SweepRun where
  owner   : CoreId
  /-- identifier of the SWEEP's transaction at its core, and the command's index and token -/
  tid     : BitVec 16
  index   : W32
  token   : Option (Fin 32)
  /-- its section is the draft layout's (R299) -/
  draft   : Bool
  /-- the descriptor's LAYER, HEADS, TOKENS, TREE and RDST -/
  layer   : Nat
  heads   : Nat
  tokens  : Nat
  tree    : Nat
  rdst    : Nat
  /-- the inbox slot that it holds; bytes of its contents, and those that have landed there -/
  slot    : Option (Fin 8)
  size    : Nat
  arrived : Nat
  /-- taken by the hub: query units, new entries, lengths and handles as they stood in the slot (R249), whether some of it was
  poisoned, and the reach (R253) -/
  taken   : Bool
  queries : List Bytes
  entries : List Bytes
  lens    : List Nat
  handles : List Nat
  poisoned : Bool
  reach   : Nat
  /-- the multicast on the spread tree: its identifier, bytes sent, and packets not yet acknowledged -/
  mcTid   : BitVec 16
  mcSent  : Nat
  mcLeft  : Nat
  /-- bytes received by core, cores that have yet to contribute, packets of its contribution that a core has sent, and cores that
  have reported a clamped entry -/
  received : NMap Nat
  waiting : List Nat
  sent    : NMap Nat
  clamped : List Nat
  /-- packets of gathered sums, in token and head order, each with whether it came poisoned -/
  gathered : List (Bytes × Bool)
  /-- the result's identifier, bytes sent, and bytes landed at RDST -/
  resTid  : Option (BitVec 16)
  resSent : Nat
  resLanded : Nat
  deriving DecidableEq, Repr

/-- The draft of a partition (R297, R298). -/
structure Draft where
  dist   : Bool
  digest : Bytes
  file   : LayoutFile
  /-- its placement in force: 0 the primary, else a detour (R230) -/
  detour : Nat
  /-- it is unloaded at the end of the cycles in flight (R298) -/
  leaving : Bool
  deriving DecidableEq, Repr

/-- A running or loading job (R266). -/
structure Job where
  kind    : Byte
  number  : W32
  port    : WlPort
  theta   : F32
  thetaSrc : Byte
  desc    : Bytes
  /-- host address of the descriptor (R334) -/
  descAddr : W64
  digest  : Bytes
  /-- false while the layout file is being fetched -/
  running : Bool
  file    : Option LayoutFile
  nondet  : Bool
  detour  : Nat
  detourBits1 : Bool
  regions : NMap RegionRun
  nextStep : W64
  /-- times of the restarts of the last 3,600 s (R367) -/
  restarts : List Nat
  restarting : Bool
  waitHold : Bool
  chain   : Bytes
  /-- first start's epoch digest -/
  epoch   : Bytes
  draft   : Option Draft
  instar  : Option Instar
  sweeps  : List SweepRun
  dups    : List DupCase
  /-- NF stripes with OL_CAP above 0: sum of LUSED / OL_CAP and their count (R76) -/
  useSum  : Rat
  useCount : Nat
  frozen  : Bool
  /-- Binocular: last sub-Plate, own S(n) not yet compared (step, region, digest), peer messages not yet compared -/
  subLast : NMap Bytes
  subOwn  : List (W64 × Nat × Bytes)
  subPeer : List (W64 × Nat × Bytes)
  subOk   : Option W64
  started : Bool
  diaPaused : Bool
  /-- Cause of a whole-job restart that a fault in DIAPAUSE asks for; it is taken on wake (R466). -/
  wakeRestart : Option (BitVec 16)
  /-- rates and thresholds read at job start (R99) -/
  dupRate : Byte
  shadowRate : Byte
  /-- Logbook on for this job (R394) -/
  logbook : Bool
  deriving DecidableEq, Repr

/-- One partition (ch. 02, 10, 11, 12, 22). -/
structure PartState where
  /-- PART_DEF as in force -/
  pdef    : W64
  /-- clearing after a job (R565) or a join (R28) -/
  clearing : Bool
  waitingJob : Option Job
  job     : Option Job
  thetaNext : F32
  thetaWarm : Bool
  share   : Option Nat
  shareWarm : Bool
  sharePeriods : Nat
  accept  : Option F32
  acceptCycles : Nat
  epochs  : Epochs
  /-- digest of the last layout run, for R109 -/
  lastLayout : Bytes
  /-- m and n of each of its regions, in order (R109) -/
  lastQual : List (Rat × Nat)
  /-- the SWEEP sections of the last job and its drafts, whose cache areas are to be cleared (R565) -/
  clearDesc : List SweepDesc
  /-- bucket of R251 whose bulk requests are being admitted (R275) -/
  bulkBucket : Option Nat
  logSeq  : W64
  logStalled : Bool
  /-- inputs deferred for a full Logbook queue: records -/
  logDeferred : List Bytes
  deriving DecidableEq, Repr

/-- An event record in the fields of R369 that its raiser fills; the Steward adds the host pair (R403). -/
structure EventRec where
  code    : BitVec 16
  sev     : Fin 4
  opc     : Option (Byte × W32)
  unit    : W32
  time    : W64
  reporter : BitVec 16
  job     : Option (W32 × W32)
  req     : Option W32
  temp    : Option (BitVec 16)
  vcore   : Option (BitVec 16)
  detail  : Bytes
  deriving DecidableEq, Repr

/-- A logged record as delivered (R369, R516). -/
structure LoggedEvent where
  ev       : EventRec
  hostTime : Option W64
  pairAge  : Nat
  deriving DecidableEq, Repr

/-- A fence-table entry (R363). -/
structure FenceEntry where
  unit  : W32
  cause : BitVec 16
  time  : W64
  deriving DecidableEq, Repr

/-- A DAP session (R495, R496). -/
structure Session where
  num    : BitVec 32
  role   : Fin 3
  fp     : Bytes
  key    : Bytes
  chal   : Bytes
  path   : DapPath
  source : Nat
  seq    : BitVec 32
  lastAt : Nat
  /-- EPOCH of the maker certificate, for maker sessions (R560) -/
  epoch  : Nat
  /-- the certificate names this module's SERIAL (R563) -/
  serial : Bool
  deriving DecidableEq, Repr

/-- An OPEN challenge that awaits its PROVE (R495). -/
structure Challenge where
  path   : DapPath
  source : Nat
  txn    : BitVec 16
  role   : Byte
  fp     : Bytes
  chal   : Bytes
  at_    : Nat
  deriving DecidableEq, Repr

/-- A reassembly in progress (R491): path, source, next sequence number, bytes so far, time of the last segment. -/
structure Reassembly where
  path   : DapPath
  source : Nat
  next   : Nat
  data   : Bytes
  deriving DecidableEq, Repr

/-- An answer of the agent (R492): STATUS and body, to a path and source. -/
structure DapResp where
  path   : DapPath
  source : Nat
  service : Byte
  txn    : BitVec 16
  session : BitVec 32
  seq    : BitVec 32
  status : BitVec 16
  body   : Bytes
  deriving DecidableEq, Repr

/-- The management agent (ch. 21). -/
structure Mgmt where
  sessions   : List Session
  nextSession : BitVec 32
  challenges : List Challenge
  reasm      : List Reassembly
  /-- complete messages not yet served: path, source, bytes -/
  inbox      : List (DapPath × Nat × Bytes)
  out        : List DapResp
  /-- service of the request that the agent serves; its response carries the code (R492) -/
  serving    : Byte
  /-- EVENT messages sent on the field networks (R493) -/
  eventsOut  : List (DapPath × Bytes)
  /-- credential table (R494): entry 0 to 31 -> role, key -/
  creds      : NMap (Byte × Bytes)
  /-- audit log entries held, oldest first, each 64 B with the chain value after it (R499) -/
  audit      : List (Bytes × Bytes)
  auditSeq   : W32
  /-- chain value after the last entry ever written; none before the first -/
  auditHead  : Option Bytes
  audit90    : Bool
  overflow   : Option (Nat × Bytes)
  /-- a mirror of the parameter store cannot be written (R498) -/
  storeFail  : Bool
  /-- counters MALFORMED, AUTH, ACCESS, RATE per path group: key 4 * group + counter -/
  counters   : NMap W32
  /-- times: malformed per path, unknown credential or session per path, signature per fingerprint, access per fingerprint,
  requests per path, all by kind -/
  times      : List (Nat × Nat × Nat)
  sigTimes   : List (Bytes × Nat)
  accTimes   : List (Bytes × Nat)
  /-- MAC_ADDRESS as written (R504); none while it is the one set at manufacture -/
  mac        : Option Bytes
  /-- since when a path has exceeded its rate without a break -/
  excess     : NMap Nat
  quarPaths  : List DapPath
  locked     : List Bytes
  /-- second of the last MGMT_RATE event per path -/
  rateSecs   : NMap Nat
  deriving DecidableEq, Repr

/-- The Finder's view of power, coolant, resets (ch. 17, 18, 19). -/
structure Finder where
  sagWarn  : Bool
  /-- P_base of the last division (R412), W -/
  pBase    : Rat
  /-- a held module reset: class 1 W, 2 M, 3 C, and cause event (R462, R463) -/
  held     : Option (Fin 4 × BitVec 16)
  /-- hold is for a sag or over-voltage reset -/
  heldSupply : Bool
  /-- PWR_STATE fields (R469) -/
  pwr      : Fin 4
  phase    : Byte
  lastClass : Fin 4
  lastCause : BitVec 16
  standbyCommanded : Bool
  /-- STANDBY has been left: Eclosion waits, runs or has run (R456, R463) -/
  eclosing : Bool
  eclosionWaited : Bool
  storeOk  : Bool
  restored : Bool
  ready    : Bool
  /-- every core's pattern test that is still due in this Eclosion -/
  testsDue : List Nat
  /-- partitions whose epoch recovery is still due -/
  recoverDue : List Nat
  standby12 : Bool
  resetPin : Bool
  ioPowered : Bool
  /-- re-energise in progress: site, stage (1 opened, 2 window open, 3 window closed), window open -/
  reen     : Option (Nat × Nat × Bool)
  /-- sites the window's tag 0x0002 went to -/
  reenNear : List Nat
  /-- coolant (ch. 18) -/
  flow     : Rat
  lastPulse : Option Nat
  inlet    : Option Rat
  outlet   : Option Rat
  inletBad : Nat
  outletBad : Nat
  flowLow  : Bool
  /-- FLOW_IMPLAUSIBLE holds: the lesser flow counts; since when the metered flow is back within 30 %, and the last heat-balance
  flow (R445) -/
  useHeat  : Bool
  heatSince : Option Nat
  heatFlow : Rat
  stop     : Bool
  stopAt   : Nat
  heldOff  : Bool
  /-- thermal estimates (R439): Rth in K/kW, counts of valid samples, state -/
  rthDie   : Option Rat
  rthStack : Option Rat
  nDie     : Nat
  nStack   : Nat
  thermWarm : Bool
  pinHist  : List (Nat × Rat)
  capLast  : Rat
  /-- entry to DIAPAUSE waits for the steps in flight (R464) -/
  diaWait  : Bool
  /-- a wake that arrived during entry: none, 1 management, 2 sideband (R467) -/
  wakeWait : Option Byte
  deriving DecidableEq, Repr

/-- Steward and firmware (ch. 20). -/
structure Steward where
  /-- die of the active Steward, 64 or 72 (R489) -/
  die       : Nat
  standbyOk : Bool
  /-- verified release resident: its digest, and KIND, LENGTH, ENTRY and DIGEST of each image (R480) -/
  release   : Option (Bytes × List (Nat × Nat × Nat × Bytes))
  /-- the release of a live update in progress (R483, R485) -/
  newRelease : Option (Bytes × List (Nat × Nat × Nat × Bytes))
  /-- every port has failed to serve a release (R481) -/
  bootFailed : Bool
  /-- 0 idle, 1 updating, 2 rolling back (R489) -/
  fwState   : Fin 3
  updated   : List Nat
  updateFail : Bool
  lastBeat  : Nat
  /-- host-time pair: Steward LOCAL_TIME, host time (R403) -/
  hostPair  : Option (W64 × W64)
  pairAt    : Nat
  /-- clock unit when the active Steward took over (R371) -/
  activeSince : Nat
  secCounts : List (Nat × Nat × Nat)
  log       : List LoggedEvent
  fences    : List FenceEntry
  retired   : List (W32 × Nat)
  nextOrder : Nat
  nextJob   : W32
  /-- manifests verified from the chain and not yet used, and staged shards in transit (R320) -/
  chainMan  : Option Manifest
  staged    : List (Bytes × Nat × Bytes)
  chainState : Fin 4
  /-- the last shard of the load has been forwarded -/
  chainDone : Bool
  admissionStopped : Bool
  deriving DecidableEq, Repr

/-- Security (ch. 25). -/
structure Security where
  idReady   : Bool
  idFailed  : Bool
  /-- MAKER_EPOCH_MIN raises above the fused value -/
  makerEpoch : Option Nat
  chain     : Option Bytes
  certs     : NMap Bytes
  fps       : NMap Bytes
  quote     : Bytes
  quoteSt   : Fin 3
  nonce     : Bytes
  debugOpen : Bool
  debugSince : Bool
  debugBy   : Option (BitVec 32)
  dmi       : Bytes
  deriving DecidableEq, Repr

/-- The state of the module. -/
structure State where
  /-- elapsed time in units of 1/3 ns since standby power (REFCLK 30 units, PCLK 8 units) -/
  units    : Nat
  slotId   : BitVec 6
  cores    : NMap CoreState
  routers  : NMap RouterState
  /-- packets in input buffers -/
  mesh     : List Hop
  /-- acknowledgement tokens in flight (R162) -/
  acks     : List AckTok
  /-- control messages sent and not yet landed (R168) -/
  ctrl     : List CtrlMsg
  /-- low halves of 64-bit register writes (R170): (space code, offset, value) by requester -/
  lowHalf  : List (W32 × Nat × Nat × W32)
  clusters : NMap ClusterState
  ccs      : NMap CcState
  sites    : NMap SiteState
  /-- registers of the I/O dies' SPACE 5, key (die - 64) * 65536 + offset -/
  ioRegs   : NMap W64
  wl       : NMap WlState
  parts    : NMap PartState
  /-- request table by cache slot (R268) -/
  reqs     : NMap Request
  /-- scalar objects of the dictionary by index * 256 + subindex; unlisted at default (R507) -/
  objs     : NMap Nat
  /-- calibration lists (R517), empty at the factory values -/
  cal      : NMap (List Nat)
  /-- events raised and not yet taken by the active Steward, oldest first (R369) -/
  events   : List EventRec
  mgmt     : Mgmt
  fin      : Finder
  stw      : Steward
  sec      : Security
  /-- Binocular: paired state and last step (R394) -/
  binoState : Fin 3
  /-- index of the next free value (Config): the model's own field, not the spec's -/
  free     : Nat
  /-- the commands that wait, first in first out -/
  pending  : List Instr
  deriving DecidableEq, Repr

/-- A core at reset: nothing in its memories and queues, every register at its reset value. -/
def CoreState.reset : CoreState :=
  { spad := Mem.empty, sem := [], run := false, base := 0, seqState := .stopped, window := 0, rows := [], cmdIndex := 0, ending := false, halting := false, meq := [],
    veq := [], seqe := [], teq := [], fifo := [], se := none, me := none, te := [],
    nextTid := 0, reduceDone := none, regs := [], notes := [],
    episodes := [], railSteps := 0, swallowSteps := 0, forceDup := false, gated := false, nfSeen := false, dupTaken := false, shdTaken := false,
    dupTile := none, shdTile := none }

def RouterState.reset : RouterState :=
  { regs := [], creditsUsed := [], ackWait := [], lastWin := [], vc0Sent := [], ueTimes := [], syncTimes := [] }

/-- A cluster at reset. -/
def ClusterState.reset : ClusterState :=
  { vault := Mem.empty, regs := [], grants := [], waiting := [], rr := 0, finderShare := 0, neighbour := false,
    stopped := false, lth := 64, coolSince := none, slackHigh := 0, clocksOff := false, selfRetain := false, shards := [],
    extents := [], wroteBack := [], absorb1 := [] }

def Icu.reset : Icu := { src := [], gcfg := [], batch := [], ready := [], since := [] }

/-- A control core before the image of its duties is entered. -/
def CcState.reset : CcState :=
  { boot := 0, image := none, mailbox := none, failed := false, mem := Mem.empty, ccerr := 0, icu := Icu.reset,
    wfi := false, mie := false, meie := false, trap := none,
    parked := false, pmpLocked := false }

/-- A hot spot before its first reading. -/
def HotSpot.reset : HotSpot :=
  { a := none, b := none, used := none, trust := .agree, raised := [], agreeSince := none, rise := 0, gain := none, tau := none,
    forecast := none, updates := 0 }

/-- A Heliostat port in state DOWN (R541). -/
def HlState.reset : HlState :=
  { st := 0, before := 0, gen := 0, lanes := 0, tapsWarm := false, updates := 0, draining := false, failures := 0,
    peer := [], own := [], txSeq := 0, rxSeq := 0, unacked := [], replays := 0, replayTimes := [], lastAck := none, chainStall := false, ackedStep := none,
    sentStep := none, viols := [], violTimes := [], authTimes := [], retrainTimes := [], quarTimes := [], held := false }

def SiteState.reset : SiteState :=
  { regs := [], powered := false, lastPart := none, joining := none, tripLatch := false, hot := [], belowSince := none,
    limited := false, swallowSteps := 0, hl := HlState.reset }

/-- A Wenlink port in state DOWN (R520). -/
def WlState.reset : WlState :=
  { st := 0, gen := 0, lanes := 0, present := false, tapsWarm := false, updates := 0, failures := 0, partnerGen := 0,
    bootAddr := 0, bootLen := 0, lastHostTime := none, txSeq := 0, rxSeq := 0, unacked := [], replays := 0,
    replayTimes := [], rx := [], lastAck := none, reads := [], nextTag := 0, queues := [], area := none, images := [],
    err := 0, viols := [], violTimes := [], retrainTimes := [], quarTimes := [], held := false, rate := (0, 0), rateSec := none, out := [],
    heldRecs := [], withheld := [] }

/-- No epoch committed and none incoming. -/
def Epochs.reset : Epochs :=
  { st := .old, committed := none, comBank := 0, incoming := none, incBank := 0, retiring := none, moult := none,
    missing := [], variants := [] }

/-- An undefined partition (PART_DEF reset 0, R512). -/
def PartState.reset : PartState :=
  { pdef := 0, clearing := false, waitingJob := none, job := none, thetaNext := 0x40C00000#32, thetaWarm := false, share := none,
    shareWarm := false, sharePeriods := 0, accept := none, acceptCycles := 0, epochs := Epochs.reset, lastLayout := [], lastQual := [],
    clearDesc := [], bulkBucket := none,
    logSeq := 0, logStalled := false, logDeferred := [] }

def Mgmt.reset : Mgmt :=
  { sessions := [], nextSession := 1, challenges := [], reasm := [], inbox := [], out := [], serving := 0, eventsOut := [], creds := [], audit := [],
    auditSeq := 0, auditHead := none, audit90 := false, overflow := none, storeFail := false, counters := [], times := [],
    sigTimes := [], accTimes := [], mac := none, excess := [], quarPaths := [], locked := [], rateSecs := [] }

def Finder.reset : Finder :=
  { sagWarn := false, pBase := 0, held := none, heldSupply := false, pwr := 3, phase := 0,
    lastClass := 3, lastCause := 0, standbyCommanded := false, eclosing := false, eclosionWaited := false, storeOk := false,
    restored := false, ready := false, testsDue := [], recoverDue := [], standby12 := false, resetPin := false,
    ioPowered := false, reen := none, reenNear := [], flow := 0, lastPulse := none, inlet := none,
    outlet := none, inletBad := 0, outletBad := 0, flowLow := false, useHeat := false, heatSince := none, heatFlow := 0, stop := false, stopAt := 0,
    heldOff := false, rthDie := none, rthStack := none, nDie := 0, nStack := 0, thermWarm := false, pinHist := [],
    capLast := 0, diaWait := false, wakeWait := none }

def Steward.reset : Steward :=
  { die := 64, standbyOk := false, release := none, newRelease := none, bootFailed := false, fwState := 0, updated := [], updateFail := false,
    lastBeat := 0, hostPair := none, pairAt := 0, activeSince := 0, secCounts := [], log := [], fences := [],
    retired := [], nextOrder := 0, nextJob := 1, chainMan := none, staged := [], chainState := 0,
    chainDone := false, admissionStopped := false }

def Security.reset : Security :=
  { idReady := false, idFailed := false, makerEpoch := none, chain := none, certs := [], fps := [], quote := [],
    quoteSt := 0, nonce := [], debugOpen := false, debugSince := false, debugBy := none, dmi := [] }

/-- The module right after reset: standby power has not yet been applied, nothing is listed in any table or memory, every
register is at its reset value and no command waits. -/
def State.reset : State :=
  { units := 0, slotId := 0, cores := [], routers := [], mesh := [], acks := [], ctrl := [], lowHalf := [], clusters := [], ccs := [],
    sites := [], ioRegs := [], wl := [], parts := [], reqs := [], objs := [], cal := [], events := [], mgmt := Mgmt.reset,
    fin := Finder.reset, stw := Steward.reset, sec := Security.reset, binoState := 0, free := 0, pending := [] }

/-- Why the block stops. -/
inductive Fault where
  /-- The operands of a command are not the ones its row's step takes (WellFormed): a list of the wrong length, an entry that
  is not 128 B. Raised by the meanings that take such operands. Safe: no such command can reach the block. -/
  | illFormed (mnemonic : String)
  deriving DecidableEq, Repr

/-- Why the model gives a command no meaning. -/
inductive Refusal where
  /-- The command's meaning is not written yet; raised by exec's refused arms alone. Safe. -/
  | notModelled (mnemonic : String)
  deriving DecidableEq, Repr

end Sys2Proof.Machine
end

