-- ==== Sys2Proof/Machine/Ops.lean ====
section
/-! DEFINITION. The named operations over the state: numbering (R9), parts of the state by number, memories with poison,
registers by offset, clocks, events (R369), control messages (R168 to R170), doorbells (R474) and completion tokens (R128). -/

namespace Sys2Proof.Machine

/-- The three outcomes of a step. -/
abbrev Out := Host.Outcome State Fault Refusal

/-! Numbering (R9). -/

def coreX (c : Nat) : Nat := c % 128
def coreY (c : Nat) : Nat := c / 128
def siteOf (c : Nat) : Nat := coreY c / 16 * 8 + coreX c / 16
def clusterIn (c : Nat) : Nat := coreY c % 16 / 4 * 4 + coreX c % 16 / 4
def coreIn (c : Nat) : Nat := coreY c % 4 * 4 + coreX c % 4
/-- Cluster of a core in the numbering die * 16 + cluster. -/
def clusterOf (c : Nat) : Nat := siteOf c * 16 + clusterIn c
/-- Core by die, cluster within the die and core within the cluster. -/
def coreAt (die cl co : Nat) : Nat :=
  (die / 8 * 16 + cl % 16 / 4 * 4 + co % 16 / 4) * 128 + (die % 8 * 16 + cl % 4 * 4 + co % 4)
/-- The 16 cores of a cluster in core order. -/
def coresOf (k : Nat) : List Nat := (List.range 16).map (coreAt (k / 16) (k % 16))
/-- Cores of a site in cluster then core order. -/
def siteCores (d : Nat) : List Nat := (List.range 16).flatMap (fun k => coresOf (d * 16 + k))

/-! Parts of the state by number; what is not listed is at its start. -/

def coreOf (s : State) (c : Nat) : CoreState := getN CoreState.reset s.cores c
def setCore (s : State) (c : Nat) (v : CoreState) : State := { s with cores := putN s.cores c v }
def updCore (s : State) (c : Nat) (f : CoreState → CoreState) : State := setCore s c (f (coreOf s c))
def routerOf (s : State) (r : Nat) : RouterState := getN RouterState.reset s.routers r
def setRouter (s : State) (r : Nat) (v : RouterState) : State := { s with routers := putN s.routers r v }
def updRouter (s : State) (r : Nat) (f : RouterState → RouterState) : State := setRouter s r (f (routerOf s r))
def clOf (s : State) (k : Nat) : ClusterState := getN ClusterState.reset s.clusters k
def setCl (s : State) (k : Nat) (v : ClusterState) : State := { s with clusters := putN s.clusters k v }
def updCl (s : State) (k : Nat) (f : ClusterState → ClusterState) : State := setCl s k (f (clOf s k))
def ccOf (s : State) (i : Nat) : CcState := getN CcState.reset s.ccs i
def setCc (s : State) (i : Nat) (v : CcState) : State := { s with ccs := putN s.ccs i v }
def updCc (s : State) (i : Nat) (f : CcState → CcState) : State := setCc s i (f (ccOf s i))
def siteSt (s : State) (d : Nat) : SiteState := getN SiteState.reset s.sites d
def setSite (s : State) (d : Nat) (v : SiteState) : State := { s with sites := putN s.sites d v }
def updSite (s : State) (d : Nat) (f : SiteState → SiteState) : State := setSite s d (f (siteSt s d))
def wlOf (s : State) (n : Nat) : WlState := getN WlState.reset s.wl n
def setWl (s : State) (n : Nat) (v : WlState) : State := { s with wl := putN s.wl n v }
def updWl (s : State) (n : Nat) (f : WlState → WlState) : State := setWl s n (f (wlOf s n))
def partOf (s : State) (p : Nat) : PartState := getN PartState.reset s.parts p
def setPart (s : State) (p : Nat) (v : PartState) : State := { s with parts := putN s.parts p v }
def updPart (s : State) (p : Nat) (f : PartState → PartState) : State := setPart s p (f (partOf s p))
def reqOf (s : State) (h : Nat) : Option Request := lookupN s.reqs h
def setReq (s : State) (h : Nat) (v : Request) : State := { s with reqs := putN s.reqs h v }
def updReq (s : State) (h : Nat) (f : Request → Request) : State :=
  match reqOf s h with | some r => setReq s h (f r) | none => s
def hlOf (s : State) (d : Nat) : HlState := (siteSt s d).hl
def updHl (s : State) (d : Nat) (f : HlState → HlState) : State := updSite s d (fun t => { t with hl := f t.hl })
def updFin (s : State) (f : Finder → Finder) : State := { s with fin := f s.fin }
def updStw (s : State) (f : Steward → Steward) : State := { s with stw := f s.stw }
def updMgmt (s : State) (f : Mgmt → Mgmt) : State := { s with mgmt := f s.mgmt }
def updSec (s : State) (f : Security → Security) : State := { s with sec := f s.sec }

/-- The running or loading job of a partition. -/
def jobOf (s : State) (p : Nat) : Option Job := (partOf s p).job
def updJob (s : State) (p : Nat) (f : Job → Job) : State :=
  updPart s p (fun t => { t with job := t.job.map f })

/-! Memories. Every granule of 8 bytes carries its own check bits (R123, R352). -/

def memRead (m : Mem) (a n : Nat) : Bytes := cellsRead m.cells a n
/-- The granules that an access of n bytes at a touches. -/
def granules (a n : Nat) : List Nat := if n = 0 then [] else (List.range ((a + n - 1) / 8 + 1 - a / 8)).map (· + a / 8)
/-- Some granule of the access is poisoned (R353). -/
def memPoisoned (m : Mem) (a n : Nat) : Bool := m.poison.any (fun g => (granules a n).contains g)
/-- A write of whole granules; their new check bits replace poison. -/
def memWrite (m : Mem) (a : Nat) (b : Bytes) : Mem :=
  { cells := cellsWrite m.cells a b, poison := m.poison.filter (fun g => !(granules a b.length).contains g) }
/-- Mark granules poisoned (R353). -/
def memPoison (m : Mem) (gs : List Nat) : Mem :=
  { m with poison := gs.foldl (fun l g => if l.contains g then l else insertBy (fun a b => decide (a < b)) g l) m.poison }
/-- Zero a whole memory. -/
def memClear (_ : Mem) : Mem := Mem.empty

def spadRead (s : State) (c a n : Nat) : Bytes := memRead (coreOf s c).spad a n
def spadWrite (s : State) (c a : Nat) (b : Bytes) : State := updCore s c (fun v => { v with spad := memWrite v.spad a b })
def vaultRead (s : State) (k a n : Nat) : Bytes := memRead (clOf s k).vault a n
def vaultWrite (s : State) (k a : Nat) (b : Bytes) : State := updCl s k (fun v => { v with vault := memWrite v.vault a b })
def spadPoisoned (s : State) (c a n : Nat) : Bool := memPoisoned (coreOf s c).spad a n

/-- n FP32 values from a byte address on. -/
def spadF32 (s : State) (c a n : Nat) : List F32 :=
  (chunks 4 (spadRead s c a (4 * n))).map (fun b => BitVec.ofNat 32 (leNat b))
def f32Bytes (xs : List F32) : Bytes := xs.flatMap (fun x => leBytes 4 x.toNat)

/-! Registers held by offset. -/

/-- Reset values that are not zero: QACT_THETA (R82), AVS and TARGET (R428, R429). -/
def coreRegReset (off : Nat) : W64 := if off = 0x320 then 0x40C00000#64 else 0#64
def clRegReset (off : Nat) : W64 :=
  if off = 0x50 then BitVec.ofNat 64 (0x2EE * 2 ^ 16) else if off = 0x58 then BitVec.ofNat 64 (0x2EE * 2 ^ 28) else 0#64

def creg (s : State) (c off : Nat) : Nat := (getN (coreRegReset off) (coreOf s c).regs off).toNat
def setCreg (s : State) (c off v : Nat) : State :=
  updCore s c (fun t => { t with regs := putN t.regs off (BitVec.ofNat 64 v) })
def kreg (s : State) (k off : Nat) : Nat := (getN (clRegReset off) (clOf s k).regs off).toNat
def setKreg (s : State) (k off v : Nat) : State :=
  updCl s k (fun t => { t with regs := putN t.regs off (BitVec.ofNat 64 v) })
def rreg (s : State) (r off : Nat) : Nat := (getN 0#64 (routerOf s r).regs off).toNat
def setRreg (s : State) (r off v : Nat) : State :=
  updRouter s r (fun t => { t with regs := putN t.regs off (BitVec.ofNat 64 v) })
def dreg (s : State) (d off : Nat) : Nat := (getN 0#64 (siteSt s d).regs off).toNat
def setDreg (s : State) (d off v : Nat) : State :=
  updSite s d (fun t => { t with regs := putN t.regs off (BitVec.ofNat 64 v) })
/-- COOLANT_IN resets with COLD set (R451). -/
def ioRegReset (i : Nat) : W64 := if i = 0x1300 then 4#64 else 0#64
def ireg (s : State) (die off : Nat) : Nat :=
  let i := (die - 64) * 65536 + off
  (getN (ioRegReset i) s.ioRegs i).toNat
def setIreg (s : State) (die off v : Nat) : State :=
  { s with ioRegs := putN s.ioRegs ((die - 64) * 65536 + off) (BitVec.ofNat 64 v) }

/-- Add n to field [hi:lo] of a register value, stopping at its largest value. -/
def bumpField (v hi lo n : Nat) : Nat := setBits v hi lo (min (bitsOf v hi lo + n) (2 ^ (hi + 1 - lo) - 1))
def bumpC (s : State) (c off hi lo n : Nat) : State := if n = 0 then s else setCreg s c off (bumpField (creg s c off) hi lo n)
def bumpK (s : State) (k off hi lo n : Nat) : State := if n = 0 then s else setKreg s k off (bumpField (kreg s k off) hi lo n)
def bumpR (s : State) (r off hi lo n : Nat) : State := if n = 0 then s else setRreg s r off (bumpField (rreg s r off) hi lo n)

/-- Add a free count of cycles to a counter field (log entry 7). -/
def bumpFreeC (s : State) (c off hi lo : Nat) : State :=
  let v := creg s c off
  { setCreg s c off (bumpField v hi lo (Config.freeWord s.free).toNat) with free := s.free + 1 }
def bumpFreeK (s : State) (k off hi lo : Nat) : State :=
  let v := kreg s k off
  { setKreg s k off (bumpField v hi lo (Config.freeWord s.free).toNat) with free := s.free + 1 }
/-- Raise a peak field to a free count (log entry 7). -/
def peakFreeK (s : State) (k off hi lo : Nat) : State :=
  let v := kreg s k off
  { setKreg s k off (setBits v hi lo (max (bitsOf v hi lo) ((Config.freeWord s.free).toNat % 2 ^ (hi + 1 - lo)))) with free := s.free + 1 }

/-- Vault bursts that a range touches (R131, R147). -/
def burstsOf (a n : Nat) : Nat := if n = 0 then 0 else (a + n - 1) / 256 + 1 - a / 256
/-- Background traffic of a vault port: its bursts count, and how long they waited is free (R132, R150, log entry 7). -/
def vaultWork (s : State) (k bursts : Nat) : State :=
  if bursts = 0 then s else peakFreeK (bumpK s k 0x10 63 32 bursts) k 0x10 31 0
/-- A control core's load, scrub or clearing of n bytes of its vault from a on is such traffic. -/
def vaultPass (s : State) (k a n : Nat) : State := vaultWork s k (burstsOf a n)

/-! Objects of the dictionary held as scalars. -/

/-- Index and subindex as one key. -/
def okey (ix sub : Nat) : Nat := ix * 256 + sub

/-- Defaults of the scalar objects (R77, R111, R296, R311, R333, R350, R372, R394, R416, R432, R453, R470, R504, R539,
R552). FP32 objects hold bit patterns. -/
def objDefault (ix sub : Nat) : Nat :=
  match ix, sub with
  | 0x4310, 1 => 1
  | 0x4310, 2 => 0x40400000
  | 0x4310, 3 => 0x41800000
  | 0x4310, 4 => 0x40C00000
  | 0x4320, 1 => 1
  | 0x4320, 2 => 2
  | 0x4320, 3 => 0x40800000
  | 0x4320, 4 => 0x3B03126F
  | 0x4320, 5 => 0x3E800000
  | 0x4320, 6 => 0x3CA3D70A
  | 0x4320, 7 => 0x2B800000
  | 0x4400, 1 => 3600
  | 0x4400, 2 => 3
  | 0x4400, 3 => 10
  | 0x4400, 4 => 1000
  | 0x4400, 5 => 4
  | 0x4400, 7 => 64
  | 0x4700, 1 => 32000
  | 0x4700, 2 => 32000
  | 0x4700, 3 => 46500
  | 0x4700, 4 => 44000
  | 0x4800, 1 => 600
  | 0x4800, 2 => 600
  | 0x4800, 6 => 2030
  | 0x4800, 7 => 1620
  | 0x4900, 2 => 1
  | 0x4900, 4 => 0xFFFF
  | 0x4D00, 1 => 1000
  | 0x4D00, 2 => 64
  | 0x4D00, 3 => 60
  | 0x4D00, 4 => 30
  | 0x4D01, _ => 3
  | 0x4D80, 1 => 1000
  | 0x4D80, 2 => 64
  | 0x4D80, 3 => 60
  | 0x4D81, _ => 2
  | 0x5200, 1 => 600
  | 0x5200, 2 => 86400
  | 0x5200, 3 => 2000
  | 0x5200, 4 => 1
  | 0x5200, 5 => 4
  | 0x5200, 6 => 12
  | 0x5200, 7 => 64
  | 0x5200, 8 => 4
  | 0x5110, 3 => 8
  | 0x5110, 4 => 4
  | 0x5110, 5 => 4
  | 0x5110, 6 => 0x3F333333
  | 0x5300, 4 => 3600
  | 0x5300, 5 => 4096
  | 0x5300, 6 => 600
  | 0x5120, 2 => 1000
  | 0x5120, 3 => 100
  | 0x4500, 1 => 0xFF
  | 0x4500, 2 => 0xFF
  | 0x4501, _ => 1
  | 0x4B00, 2 => 300
  | 0x4B00, 3 => 0xFF
  | 0x4B00, 4 => 5
  | 0x4B00, 5 => 1
  | _, _ => 0

def obj (s : State) (ix sub : Nat) : Nat := getN (objDefault ix sub) s.objs (okey ix sub)
def setObj (s : State) (ix sub v : Nat) : State := { s with objs := putN s.objs (okey ix sub) v }

/-! Clocks. One unit is 1/3 ns: 30 units a REFCLK cycle, 8 a PCLK period. -/

def unitsPerSec : Nat := 3000000000
/-- LOCAL_TIME of a control core (R401). -/
def localTime (s : State) (i : Nat) : Nat := (s.units - (ccOf s i).boot) / 8
/-- Control-core number of the active Steward (R17, R471). -/
def stewardCc (s : State) : Nat := 1024 + 2 * (s.stw.die - 64) + 1
def stewardTime (s : State) : Nat := localTime s (stewardCc s)
/-- MGMT_TIME in REFCLK cycles since standby power (ch. 21). -/
def mgmtTime (s : State) : Nat := s.units / 30
/-- Times of the last `sec` seconds. -/
def recent (s : State) (sec : Nat) (ts : List Nat) : List Nat :=
  ts.filter (fun t => decide (s.units < t + sec * unitsPerSec))

/-! Free values. -/

def takeFree (s : State) (n : Nat) : List Nat × State := ((List.range n).map (· + s.free), { s with free := s.free + n })
def freeBytes (s : State) (n : Nat) : Bytes × State :=
  ((takeFree s n).1.map Config.freeByte, (takeFree s n).2)

/-! Partitions (R26, R511). -/

def pdValid (v : Nat) : Bool := bitOf v 63
def pdWin (v : Nat) : Nat := bitsOf v 31 16
def pdSx0 (v : Nat) : Nat := bitsOf v 11 9
def pdSx1 (v : Nat) : Nat := bitsOf v 8 6
def pdSy0 (v : Nat) : Nat := bitsOf v 5 3
def pdSy1 (v : Nat) : Nat := bitsOf v 2 0
/-- The sites of a definition's rectangle, row by row. -/
def pdSites (v : Nat) : List Nat :=
  if pdValid v then
    (List.range 64).filter (fun d => decide (pdSx0 v ≤ d % 8) && decide (d % 8 ≤ pdSx1 v) && decide (pdSy0 v ≤ d / 8)
      && decide (d / 8 ≤ pdSy1 v))
  else []
def partDef (s : State) (p : Nat) : Nat := (partOf s p).pdef.toNat
def partSites (s : State) (p : Nat) : List Nat := pdSites (partDef s p)
/-- The partition that SITE_PART names for a site (R29). -/
def sitePart (s : State) (d : Nat) : Option Nat :=
  let v := dreg s d 0x100
  if bitOf v 31 then some (bitsOf v 19 16) else none
def corePart (s : State) (c : Nat) : Option Nat := sitePart s (siteOf c)
/-- Cores and clusters of a partition. -/
def partCores (s : State) (p : Nat) : List Nat := (partSites s p).flatMap siteCores
def partClusters (s : State) (p : Nat) : List Nat :=
  (partSites s p).flatMap (fun d => (List.range 16).map (· + d * 16))
/-- A core of a partition by its place relative to the north-west core (R32). -/
def relCore (s : State) (p : Nat) (xy : Nat × Nat) : Nat :=
  (pdSy0 (partDef s p) * 16 + xy.2) * 128 + pdSx0 (partDef s p) * 16 + xy.1

/-! Events (R369). -/

/-- UNIT of a record. -/
def unitWord (die cl co eng ix scope : Nat) : Nat :=
  die * 2 ^ 25 + cl * 2 ^ 21 + co * 2 ^ 17 + eng * 2 ^ 13 + ix * 2 ^ 9 + scope * 2 ^ 7
def coreUnit (c eng ix : Nat) : Nat := unitWord (siteOf c) (clusterIn c) (coreIn c) eng ix 0
def clusterUnit (k eng : Nat) : Nat := unitWord (k / 16) (k % 16) 0 eng 0 1
def dieUnit (d eng : Nat) : Nat := unitWord d 0 0 eng 0 2
def moduleUnit (eng : Nat) : Nat := unitWord 64 0 0 eng 0 3

/-- The Finder among the reporters; control cores have their own numbers (R471). -/
def finderId : Nat := 2000

/-- REPORTER of a record. -/
def reporterWord (rep : Nat) : Nat :=
  if rep < 1024 then rep / 16 * 512 + rep % 16 * 32 + 1
  else if rep < 1056 then (64 + (rep - 1024) / 2) * 512 + (rep - 1024) % 2 * 2 + 1
  else 64 * 512 + 2 * 2 + 1

def ev (code sev unit rep : Nat) (detail : Bytes) : EventRec :=
  { code := BitVec.ofNat 16 code, sev := Fin.ofNat 4 sev, opc := none, unit := BitVec.ofNat 32 unit, time := 0,
    reporter := BitVec.ofNat 16 (reporterWord rep), job := none, req := none, temp := none, vcore := none,
    detail := sliceB detail 0 16 }

/-- Raise an event: the reporter's local time, the sensor and rail of a unit on a compute die, and the running job of its
partition are filled in. The Finder's records carry the time of the service control core of its die (log entry 9). -/
def emit (s : State) (rep : Nat) (e : EventRec) : State :=
  let u := e.unit.toNat
  let d := bitsOf u 31 25
  let k := d * 16 + bitsOf u 24 21
  let onDie := decide (d < 64) && decide (bitsOf u 8 7 < 2)
  let hs := kreg s k 0x60
  let vr := kreg s k 0x58
  let job := if e.job.isSome then e.job else if d < 64 then
      match sitePart s d with
      | some p => (jobOf s p).map (fun j => (j.number, BitVec.ofNat 32 j.nextStep.toNat))
      | none => none
    else none
  { s with events := s.events ++ [{ e with
      time := BitVec.ofNat 64 (localTime s (if rep < 1056 then rep else 1025)), job := job,
      temp := if onDie && hs != 0 then some (BitVec.ofNat 16 (bitsOf hs 31 16)) else none,
      vcore := if onDie && bitsOf vr 47 38 != 0 then some (BitVec.ofNat 16 (bitsOf vr 47 38)) else none }] }

/-- Raise an event with no command and no request. -/
def raise (s : State) (code sev unit rep : Nat) (detail : Bytes) : State := emit s rep (ev code sev unit rep detail)

/-! Control messages (R168 to R170). -/

def msgHeader (type die cl co : Nat) (toCc : Bool) (len : Nat) (urgent bcast : Bool) (arg : Nat) : W32 :=
  BitVec.ofNat 32 (type * 2 ^ 28 + die * 2 ^ 21 + cl * 2 ^ 17 + co * 2 ^ 13 + (if toCc then 2 ^ 12 else 0) + len * 2 ^ 10
    + (if urgent then 2 ^ 9 else 0) + (if bcast then 2 ^ 8 else 0) + arg)
/-- Word 1: the source. -/
def msgSource (die cl co : Nat) (fromCc : Bool) (tag : Nat) : W32 :=
  BitVec.ofNat 32 (die * 2 ^ 25 + cl * 2 ^ 21 + co * 2 ^ 17 + (if fromCc then 2 ^ 16 else 0) + tag % 65536)
def coreSource (c tag : Nat) : W32 := msgSource (siteOf c) (clusterIn c) (coreIn c) false tag
def sendCtrl (s : State) (m : CtrlMsg) : State := { s with ctrl := s.ctrl ++ [m] }
def msgWord (m : CtrlMsg) (i : Nat) : Nat := (m.words.getD i 0#32).toNat
def mType (m : CtrlMsg) : Nat := bitsOf (msgWord m 0) 31 28
def mDie (m : CtrlMsg) : Nat := bitsOf (msgWord m 0) 27 21
def mCluster (m : CtrlMsg) : Nat := bitsOf (msgWord m 0) 20 17
def mCore (m : CtrlMsg) : Nat := bitsOf (msgWord m 0) 16 13
def mToCc (m : CtrlMsg) : Bool := bitOf (msgWord m 0) 12
def mLen (m : CtrlMsg) : Nat := bitsOf (msgWord m 0) 11 10
def mUrgent (m : CtrlMsg) : Bool := bitOf (msgWord m 0) 9
def mBcast (m : CtrlMsg) : Bool := bitOf (msgWord m 0) 8
def mArg (m : CtrlMsg) : Nat := bitsOf (msgWord m 0) 7 0
def mSrcDie (m : CtrlMsg) : Nat := bitsOf (msgWord m 1) 31 25
def mSrcCluster (m : CtrlMsg) : Nat := bitsOf (msgWord m 1) 24 21
def mSrcCore (m : CtrlMsg) : Nat := bitsOf (msgWord m 1) 20 17
def mFromCc (m : CtrlMsg) : Bool := bitOf (msgWord m 1) 16
def mTag (m : CtrlMsg) : Nat := bitsOf (msgWord m 1) 15 0
/-- A message reaches its end of the network: the first equal one in flight leaves it. -/
def landCtrl (s : State) (m : CtrlMsg) : State := { s with ctrl := s.ctrl.erase m }

/-! Doorbells and the interrupt controller (R474, R475). -/

def srcOf (i : Icu) (n : Nat) : Nat := (getN 0#64 i.src n).toNat
/-- Sources 1 to 3 are fixed at group 0 and enabled (R477). -/
def srcGroup (i : Icu) (n : Nat) : Nat := if 1 ≤ n ∧ n ≤ 3 then 0 else bitsOf (srcOf i n) 7 4
def srcEnabled (i : Icu) (n : Nat) : Bool := (decide (1 ≤ n) && decide (n ≤ 3)) || bitOf (srcOf i n) 1
def srcPending (i : Icu) (n : Nat) : Bool := bitOf (srcOf i n) 0
/-- Enabled pending sources of a group, lowest first; only listed sources can be pending. -/
def groupPending (i : Icu) (g : Nat) : List Nat :=
  (i.src.map (fun e => e.1)).filter (fun n => srcPending i n && srcEnabled i n && srcGroup i n == g)
def gcfgOf (i : Icu) (g : Nat) : Nat := (getN 0x00010001#32 i.gcfg g).toNat
/-- COUNT of a group; group 0's reads 1 (R478). -/
def gcfgCount (i : Icu) (g : Nat) : Nat := if g = 0 then 1 else bitsOf (gcfgOf i g) 7 0

/-- One message counts toward a group (R475): a batch begins while nothing enabled of the group is pending. -/
def countGroup (i : Icu) (now g : Nat) (fresh : Bool) : Icu :=
  let b := if fresh then 1 else min (getN 0 i.batch g + 1) 255
  let i := { i with batch := putN i.batch g b, since := if fresh then putN i.since g now else i.since }
  if gcfgCount i g ≤ b && !i.ready.contains g then
    { i with ready := insertBy (fun a b => decide (a < b)) g i.ready } else i

/-- A doorbell message to source n (R474). -/
def icuMessage (i : Icu) (now n tag : Nat) : Icu :=
  let v := srcOf i n
  let g := srcGroup i n
  let fresh := (groupPending i g).isEmpty
  let w := tag % 65536 * 2 ^ 48 + min (bitsOf v 47 32 + 1) 0xFFFF * 2 ^ 32 + (bitsOf v 31 1) * 2 + 1
  let i' := { i with src := putN i.src n (BitVec.ofNat 64 w) }
  if srcEnabled i n then countGroup i' now g fresh else i'

/-- A group none of whose enabled sources is pending ends its batch (R475). -/
def settleGroup (i : Icu) (g : Nat) : Icu :=
  if (groupPending i g).isEmpty then
    { i with ready := i.ready.filter (· != g), batch := delN i.batch g, since := delN i.since g } else i

/-- Clear PENDING and COUNT of a source. -/
def clearSource (i : Icu) (n : Nat) : Icu :=
  let v := srcOf i n
  let w := bitsOf v 63 48 * 2 ^ 48 + bitsOf v 31 1 * 2
  settleGroup { i with src := putN i.src n (BitVec.ofNat 64 w) } (srcGroup i n)

/-- The share of the module cap in force at a cluster, after the Finder's last write and the states that modify it (R479). -/
def shareNow (k : ClusterState) : Nat :=
  if k.stopped then 0 else if k.neighbour then k.finderShare.toNat / 2 else k.finderShare.toNat
def setShare (s : State) (k v : Nat) : State := setKreg s k 0x20 (setBits (kreg s k 0x20) 22 16 v)
def shareField (s : State) (k : Nat) : Nat := bitsOf (kreg s k 0x20) 22 16

/-! The grant arbiter (R216 to R219). MEs of a cluster are numbered core * 4 + ME. -/

/-- IN_FORCE: the least of the layout's budget, the control core's limit and the share (R19). -/
def inForce (s : State) (k : Nat) : Nat :=
  min (bitsOf (kreg s k 0x18) 6 0) (min (bitsOf (kreg s k 0x20) 6 0) (shareField s k))

/-- The waiting ME that is next: highest class, then round-robin from the pointer. -/
def nextGrant (c : ClusterState) : Option (Nat × GrantClass) :=
  (sortBy (fun (a b : Nat × GrantClass) =>
    if a.2 ≠ b.2 then decide (a.2 < b.2) else decide ((a.1 + 64 - c.rr) % 64 < (b.1 + 64 - c.rr) % 64)) c.waiting).head?

/-- Give free grants to waiting MEs; fuel bounds their number. -/
def giveGrants : Nat → State → Nat → State
  | 0, s, _ => s
  | n + 1, s, k =>
      let c := clOf s k
      if inForce s k ≤ c.grants.length then s
      else match nextGrant c with
        | none => s
        | some m =>
            let s := setCl s k { c with grants := c.grants ++ [m], waiting := c.waiting.erase m, rr := (m.1 + 1) % 64 }
            let held := c.grants.length + 1
            let reg := kreg s k 0x28
            let s := if bitsOf reg 6 0 < held then setKreg s k 0x28 (setBits reg 6 0 held) else s
            giveGrants n (bumpFreeK s k 0x28 63 32) k

def regrant (s : State) (k : Nat) : State := if s.fin.ready then giveGrants 64 s k else s

/-- An ME requests a grant unless it holds one or waits in the class or a higher one (R216, R217). -/
def requestGrant (s : State) (k me : Nat) (cls : GrantClass) : State :=
  let c := clOf s k
  if c.grants.any (fun g => g.1 == me) || c.waiting.any (fun g => g.1 == me && g.2 ≤ cls) then regrant s k
  else regrant (setCl s k { c with waiting := c.waiting.filter (fun g => g.1 != me) ++ [(me, cls)] }) k

/-- SHARE and the arbiter's states after the doorbells of sources 1 and 2 (R479). -/
def arbiterShare (s : State) (k n tag : Nat) : State :=
  let c := clOf s k
  if n = 1 && tag = 1 then setShare s k (shareField s k / 2)
  else if n = 1 && tag = 2 then
    if c.neighbour then s else
      let s := updCl s k (fun c => { c with neighbour := true })
      setShare s k (shareNow (clOf s k))
  else if n = 1 && tag = 0 then
    let s := updCl s k (fun c => { c with neighbour := false })
    setShare s k (shareNow (clOf s k))
  else if n = 2 && tag = 1 then
    let s := updCl s k (fun c => { c with stopped := true })
    setShare s k 0
  else if n = 2 && tag = 0 then
    let s := updCl s k (fun c => { c with stopped := false })
    setShare s k (shareNow (clOf s k))
  else s

/-- What the grant arbiter of a cluster does in hardware on the doorbells of sources 1 and 2 (R479): SHARE changes, and MEs that
wait take what it frees (R216). -/
def arbiterDoorbell (s : State) (k n tag : Nat) : State :=
  if n = 1 || n = 2 then regrant (arbiterShare s k n tag) k else s

/-- What an interrupt does to a control core (R475, R476): an enabled pending source wakes it from WFI, and a ready group traps it
where mstatus.MIE and mie.MEIE are set, which clears MIE. A parked core is left alone until it resumes (R484). -/
def ccDeliver (c : CcState) : CcState :=
  if c.parked then c
  else
    let c := if c.icu.src.any (fun e => srcPending c.icu e.1 && srcEnabled c.icu e.1) then { c with wfi := false } else c
    if !c.icu.ready.isEmpty && c.mie && c.meie then { c with wfi := false, mie := false, trap := some .external } else c

/-- An access of a control core was answered with an error response: the code is in ccerr and the core traps (R472). -/
def ccFault (c : CcState) (code : Nat) : CcState :=
  { c with ccerr := BitVec.ofNat 8 code, mie := false, trap := some .access }

/-- A doorbell reaches the ICU of a control core (R474). -/
def doorbellAt (s : State) (i n tag : Nat) : State :=
  updCc s i (fun c => ccDeliver { c with icu := icuMessage c.icu s.units n tag })

/-- A doorbell of the Finder, which the grant arbiter of a cluster acts on too (R479). -/
def finderBell (s : State) (i n tag : Nat) : State :=
  if i < 1024 then arbiterDoorbell (doorbellAt s i n tag) i n tag else doorbellAt s i n tag

/-- Control-core number named by a message's destination (R169); core 2 of an I/O die is the Finder and no control core. -/
def ccAt (die cl co : Nat) : Option Nat :=
  if die < 64 then some (die * 16 + cl) else if die < 80 && co < 2 then some (1024 + 2 * (die - 64) + co) else none
def ccDie (i : Nat) : Nat := if i < 1024 then i / 16 else 64 + (i - 1024) / 2
def ccCluster (i : Nat) : Nat := if i < 1024 then i % 16 else 0
def ccCore (i : Nat) : Nat := if i < 1024 then 0 else (i - 1024) % 2

/-- The Finder's DOORBELL to control cores, or to every one: one copy for each (R169, R171). -/
def finderBroadcast (s : State) (n tag : Nat) (ccs : List Nat) : State :=
  { s with ctrl := s.ctrl ++ ccs.map (fun i =>
      ({ words := [msgHeader 2 (ccDie i) (ccCluster i) (ccCore i) true 2 true false 0,
          msgSource 64 0 2 true 0, BitVec.ofNat 32 (tag * 65536 + n)] } : CtrlMsg)) }
def allCcs : List Nat := List.range 1056

/-! Semaphores (R127, R130). -/

def semOf (s : State) (c n : Nat) : Nat := (getN 0#16 (coreOf s c).sem n).toNat
def setSem (s : State) (c n v : Nat) : State :=
  updCore s c (fun t => { t with sem := putN t.sem n (BitVec.ofNat 16 v) })

/-- Add to a semaphore. On overflow it stays at 0xFFFF and SEM_OVERFLOW is raised, with the core, the semaphore and the
signalling command's index and opcode. -/
def signalSem (s : State) (c n count : Nat) (by_ : Option (Nat × Nat)) : State × Bool :=
  if semOf s c n + count ≤ 0xFFFF then (setSem s c n (semOf s c n + count), false)
  else
    let e := { ev 0x5040 2 (coreUnit c 8 0) (clusterOf c) [BitVec.ofNat 8 n] with
      opc := by_.map (fun p => (BitVec.ofNat 8 p.1, BitVec.ofNat 32 p.2)) }
    (doorbellAt (emit (setSem s c n 0xFFFF) (clusterOf c) e) (clusterOf c) (0x20 + coreIn c) 0x5040, true)

end Sys2Proof.Machine
end

