-- ==== Sys2Proof/Machine/Banks.lean ====
section
/-! DEFINITION. The banks of a scratchpad (R124 to R126): the arbiter of one bank, FCLK by FCLK, and the counters it moves. Which
requests meet in an FCLK is a matter of cycles, and so a free value (log entry 7); what the arbiter does with them is not. -/

namespace Sys2Proof.Machine

/-- Place of a request in the order of R125; lower goes first. -/
def reqRank (q : BankReq) : Nat := 4 * q.kind.val + (if q.kind.val = 0 then q.me.val else 0)

/-- A request that waits, and for how many FCLK it has. -/
abbrev BankWait := BankReq × Nat

/-- The request first in the order; of equals the one that came first. -/
def firstByOrder (ws : List BankWait) : Option BankWait :=
  (sortBy (fun (a b : BankWait) => decide (reqRank a.1 < reqRank b.1)) ws).head?

/-- The request that a slot goes to (R125): the longest waiting once it has waited 8 FCLK, else the first in the order. -/
def bankPick (ws : List BankWait) : Option BankWait :=
  let age := ws.foldl (fun n w => max n w.2) 0
  if 8 ≤ age then firstByOrder (ws.filter (fun w => w.2 == age)) else firstByOrder ws

/-- What one slot takes: the chosen request, every other read of its row, and with a chosen read the first write of that row
in the order (R124, R125). -/
def bankSlot (ws : List BankWait) (x : BankWait) : List BankWait :=
  let rest := ws.erase x
  let same := rest.filter (fun w => w.1.row == x.1.row)
  let write := if x.1.write then none else firstByOrder (same.filter (fun w => w.1.write))
  x :: same.filter (fun w => !w.1.write) ++ write.toList

/-- Counts of a bank: WAITS, PROMOTED (R145), RW_SAME, WW_SAME (R146). -/
structure BankCounts where
  waits    : Nat
  promoted : Nat
  rwSame   : Nat
  wwSame   : Nat
  deriving DecidableEq, Repr

/-- Writes of an FCLK that meet another write of their row (R126). -/
def sameRowWrites (qs : List BankReq) : Nat :=
  let rows := (qs.filter (fun q => q.write)).map (fun q => q.row)
  rows.length - rows.eraseDups.length

/-- One FCLK of a bank: what arrives joins what waits, and one slot is served. -/
def bankClock (ws : List BankWait) (new : List BankReq) (n : BankCounts) : List BankWait × BankCounts :=
  let all := ws ++ new.map (fun q => (q, 0))
  match bankPick all with
  | none => ([], n)
  | some x =>
      let slot := bankSlot all x
      let left := (slot.foldl (fun l w => l.erase w) all).map (fun w => (w.1, w.2 + 1))
      (left, {
        waits := n.waits + left.length
        promoted := n.promoted + (if 8 ≤ x.2 && firstByOrder all != some x then 1 else 0)
        rwSame := n.rwSame + (if slot.any (fun w => w.1.write) && slot.any (fun w => !w.1.write) then 1 else 0)
        wwSame := n.wwSame + sameRowWrites new })

/-- A stretch of FCLKs of one bank, from no request waiting on; at its end what still waits is served. -/
def bankRun (fs : List (List BankReq)) : BankCounts :=
  let zero : BankCounts := { waits := 0, promoted := 0, rwSame := 0, wwSame := 0 }
  let run := fs.foldl (fun (p : List BankWait × BankCounts) f => bankClock p.1 f p.2) ([], zero)
  (run.1.foldl (fun (p : List BankWait × BankCounts) _ => bankClock p.1 [] p.2) run).2

/-- The counters of a core's banks after a stretch of their traffic (R145, R146). -/
def bankTraffic (s : State) (c : Nat) : State :=
  let n := bankRun (Config.bankTraffic s.free)
  let waits := bumpField (bumpField (creg s c 0x200) 63 32 n.waits) 31 0 n.promoted
  let same := bumpField (bumpField (creg s c 0x208) 63 32 n.rwSame) 31 0 n.wwSame
  { setCreg (setCreg s c 0x200 waits) c 0x208 same with free := s.free + 1 }

end Sys2Proof.Machine
end

