-- ==== Sys2Proof/Machine/Hash.lean ====
section
/-! DEFINITION. SHA-256 (R15 and the chapters that use digests), the flit CRC (R524) and Philox-4x32 (R207). -/

namespace Sys2Proof.Machine

def rotr32 (x : W32) (n : Nat) : W32 := (x >>> n) ||| (x <<< (32 - n))

/-- The round constants of SHA-256, FIPS 180-4. -/
def shaK : List W32 :=
  [0x428a2f98#32, 0x71374491#32, 0xb5c0fbcf#32, 0xe9b5dba5#32, 0x3956c25b#32, 0x59f111f1#32, 0x923f82a4#32, 0xab1c5ed5#32,
   0xd807aa98#32, 0x12835b01#32, 0x243185be#32, 0x550c7dc3#32, 0x72be5d74#32, 0x80deb1fe#32, 0x9bdc06a7#32, 0xc19bf174#32,
   0xe49b69c1#32, 0xefbe4786#32, 0x0fc19dc6#32, 0x240ca1cc#32, 0x2de92c6f#32, 0x4a7484aa#32, 0x5cb0a9dc#32, 0x76f988da#32,
   0x983e5152#32, 0xa831c66d#32, 0xb00327c8#32, 0xbf597fc7#32, 0xc6e00bf3#32, 0xd5a79147#32, 0x06ca6351#32, 0x14292967#32]
  ++
  [0x27b70a85#32, 0x2e1b2138#32, 0x4d2c6dfc#32, 0x53380d13#32, 0x650a7354#32, 0x766a0abb#32, 0x81c2c92e#32, 0x92722c85#32,
   0xa2bfe8a1#32, 0xa81a664b#32, 0xc24b8b70#32, 0xc76c51a3#32, 0xd192e819#32, 0xd6990624#32, 0xf40e3585#32, 0x106aa070#32,
   0x19a4c116#32, 0x1e376c08#32, 0x2748774c#32, 0x34b0bcb5#32, 0x391c0cb3#32, 0x4ed8aa4a#32, 0x5b9cca4f#32, 0x682e6ff3#32,
   0x748f82ee#32, 0x78a5636f#32, 0x84c87814#32, 0x8cc70208#32, 0x90befffa#32, 0xa4506ceb#32, 0xbef9a3f7#32, 0xc67178f2#32]

def shaInit : List W32 :=
  [0x6a09e667#32, 0xbb67ae85#32, 0x3c6ef372#32, 0xa54ff53a#32, 0x510e527f#32, 0x9b05688c#32, 0x1f83d9ab#32, 0x5be0cd19#32]

/-- The message schedule held newest first. -/
def shaSchedule : Nat → List W32 → List W32
  | 0, w => w
  | n + 1, w =>
      let g := fun i => w.getD i 0#32
      let s0 := rotr32 (g 14) 7 ^^^ rotr32 (g 14) 18 ^^^ (g 14 >>> 3)
      let s1 := rotr32 (g 1) 17 ^^^ rotr32 (g 1) 19 ^^^ (g 1 >>> 10)
      shaSchedule n ((g 15 + s0 + g 6 + s1) :: w)

def shaRound (h : List W32) (kw : W32 × W32) : List W32 :=
  match h with
  | [a, b, c, d, e, f, g, hh] =>
      let s1 := rotr32 e 6 ^^^ rotr32 e 11 ^^^ rotr32 e 25
      let t1 := hh + s1 + ((e &&& f) ^^^ (~~~e &&& g)) + kw.1 + kw.2
      let s0 := rotr32 a 2 ^^^ rotr32 a 13 ^^^ rotr32 a 22
      let t2 := s0 + ((a &&& b) ^^^ (a &&& c) ^^^ (b &&& c))
      [t1 + t2, a, b, c, d + t1, e, f, g]
  | _ => h

/-- Absorb one 64-byte block. -/
def shaBlock (h : List W32) (block : Bytes) : List W32 :=
  let w := (chunks 4 block).map (fun b => BitVec.ofNat 32 (beNat b))
  let sched := (shaSchedule 48 w.reverse).reverse
  let r := (List.zip shaK sched).foldl shaRound h
  List.zipWith (· + ·) h r

/-- SHA-256 of a byte string. -/
def sha256 (m : Bytes) : Bytes :=
  let pad := zeros ((119 - m.length % 64) % 64)
  let msg := m ++ [0x80#8] ++ pad ++ beBytes 8 (m.length * 8)
  ((chunks 64 msg).foldl shaBlock shaInit).flatMap (fun x => beBytes 4 x.toNat)

/-- One byte of the reflected CRC of R524. -/
def crcByte (crc : W32) (b : Byte) : W32 :=
  (List.range 8).foldl (fun c _ => if c.getLsbD 0 then (c >>> 1) ^^^ 0xEDB88320#32 else c >>> 1)
    (crc ^^^ b.setWidth 32)

/-- The flit CRC (R524). -/
def crc32 (m : Bytes) : W32 := ~~~(m.foldl crcByte 0xFFFFFFFF#32)

/-- One round of Philox-4x32 (R207). -/
def philoxRound (k0 k1 : W32) (c : W32 × W32 × W32 × W32) : W32 × W32 × W32 × W32 :=
  let p0 := 0xD2511F53 * c.1.toNat
  let p1 := 0xCD9E8D57 * c.2.2.1.toNat
  let hi := fun (p : Nat) => BitVec.ofNat 32 (p / 2 ^ 32)
  let lo := fun (p : Nat) => BitVec.ofNat 32 p
  (hi p1 ^^^ c.2.1 ^^^ k0, lo p1, hi p0 ^^^ c.2.2.2 ^^^ k1, lo p0)

/-- Ten rounds from the given keys on. -/
def philoxRounds : Nat → W32 → W32 → W32 × W32 × W32 × W32 → W32 × W32 × W32 × W32
  | 0, _, _, c => c
  | n + 1, k0, k1, c => philoxRounds n (k0 + 0x9E3779B9#32) (k1 + 0xBB67AE85#32) (philoxRound k0 k1 c)

/-- word0 of the generator for a key and counter words c3, c2 and c1:c0 (R207). -/
def philox (key : W64) (c3 c2 : W32) (c10 : W64) : W32 :=
  (philoxRounds 10 (BitVec.ofNat 32 key.toNat) (BitVec.ofNat 32 (key.toNat / 2 ^ 32))
    (BitVec.ofNat 32 c10.toNat, BitVec.ofNat 32 (c10.toNat / 2 ^ 32), c2, c3)).1

/-- The 16-bit k of stochastic rounding: word0[31:16] in domain 0x02 (R69, R207). -/
def stochK (seed : W64) (stream index : Nat) : Nat :=
  (philox seed 0x02000000#32 (BitVec.ofNat 32 stream) (BitVec.ofNat 64 index)).toNat / 65536

/-- The generator of the sampled checks (R99): domain 0x03 or 0x04. -/
def checkWord (domain : Nat) (job core index : Nat) (step : W64) : Nat :=
  (philox (BitVec.ofNat 64 job) (BitVec.ofNat 32 (domain * 2 ^ 24 + core)) (BitVec.ofNat 32 index) step).toNat

end Sys2Proof.Machine
end

