-- ==== Sys2Proof/Machine/Formats.lean ====
section
/-! DEFINITION. Narrow formats (ch. 03): block headers, element codes, stripes and lanes, the load and decode checks, the
encoder of R67 to R69 with R581, QACT's stripes (R70, R71) and the 16-block units of R83. -/

namespace Sys2Proof.Machine

/-- The formats in the code of R50: 0 N4, 1 N3, 2 N2, 3 E8. Element width in bits (R52). -/
def fmtWidth (fmt : Nat) : Nat := if fmt = 0 then 4 else if fmt = 1 then 3 else if fmt = 2 then 2 else 8

/-- Payload size in bytes. -/
def fmtBytes (fmt : Nat) : Nat := 4 * fmtWidth fmt

/-- qmax of the format. -/
def fmtMax (fmt : Nat) : Nat := if fmt = 0 then 6 else if fmt = 1 then 4 else if fmt = 2 then 1 else 448

/-- The magnitude of an E4M3 code 0 to 0x7E in units of 2^-9 (R55). -/
def e4m3Mag (c : Nat) : Nat := if c / 8 = 0 then c else (8 + c % 8) * 2 ^ (c / 8 - 1)

/-- The magnitudes of a format by index, in units of 2^-9 (R53 to R55). -/
def fmtGrid (fmt : Nat) : List Nat :=
  if fmt = 0 then [0, 256, 512, 768, 1024, 1536, 2048, 3072]
  else if fmt = 1 then [0, 512, 1024, 2048]
  else if fmt = 2 then [0, 512]
  else (List.range 127).map e4m3Mag

/-- Sign and magnitude index of an element code; E8 NaN codes have index 127. -/
def codeSign (fmt c : Nat) : Bool := bitOf c (fmtWidth fmt - 1)
def codeIndex (fmt c : Nat) : Nat := if fmt = 2 then c % 2 else c % 2 ^ (fmtWidth fmt - 1)

/-- The code of a sign and a magnitude index: zero is the all-zero code (R56); N2 codes are those of R54. -/
def codeOf (fmt : Nat) (neg : Bool) (ix : Nat) : Nat := if ix = 0 then 0 else ix + (if neg then 2 ^ (fmtWidth fmt - 1) else 0)

/-- Element code i of a payload (R52). -/
def elemCode (fmt payload i : Nat) : Nat := payload / 2 ^ (fmtWidth fmt * i) % 2 ^ fmtWidth fmt

/-- w' of a non-outlier element of a block whose scale code is bs (R51, R57), in units of 2^-149. -/
def elemValue (fmt bs c : Nat) : FV :=
  if bs = 0 then .fin false 0
  else if fmt = 3 && c % 128 = 127 then .nan
  else
    let q := (fmtGrid fmt).getD (codeIndex fmt c) 0
    .fin (codeSign fmt c && q != 0) ((8 + bs % 8) * q * 2 ^ (bs / 8 + 122))

/-- The exact values w' of the 32 elements of a block (R57): a lane entry replaces the element at its position. -/
def blockValues (hdr : Nat) (payload : Bytes) (lane : List (Nat × BF16)) : List FV :=
  let fmt := bitsOf hdr 7 6
  let bs := bitsOf hdr 15 8
  let p := leNat payload
  (List.range 32).map (fun i =>
    match lane.find? (fun e => e.1 == i) with
    | some e => fv (ofBf16 e.2)
    | none => elemValue fmt bs (elemCode fmt p i))

/-- The FP32 value of an element, tensor scale included (R58). -/
def scaled32 (s : F32) (w : FV) : F32 := mulFv (fv s) w

/-- A tensor scale is positive, normal and finite (R59). -/
def scaleOk (s : F32) : Bool := decide (0x00800000 ≤ s.toNat) && decide (s.toNat < 0x7F800000)

/-- The FP32 value of a block scale code (R51). -/
def bsValue (bs : Nat) : F32 := round32 false ((8 + bs % 8) * 2 ^ (bs / 8 + 131)) 1

/-- Index of the grid magnitude nearest to m, a half to the even index (R68). -/
def gridNearest : List Nat → Nat → Nat → Nat
  | a :: b :: t, i, m =>
      if 2 * m < a + b then i else if 2 * m = a + b then i + i % 2 else gridNearest (b :: t) (i + 1) m
  | _, i, _ => i

/-- Index of the grid magnitude to which m goes under R69 with k; the sign decides which neighbour is the upper one. -/
def gridStoch : Bool → Nat → List Nat → Nat → Nat → Nat
  | neg, k, a :: b :: t, i, m =>
      if m ≤ a then i
      else if m < b then
        if neg then (if k * (b - a) < (b - m) * 65536 then i else i + 1)
        else (if k * (b - a) < (m - a) * 65536 then i + 1 else i)
      else gridStoch neg k (b :: t) (i + 1) m
  | _, _, _, i, _ => i

/-- The element code of v = x / d (R67 step 5, R68, R69, R581). -/
def quantCode (fmt : Nat) (v : F32) (k : Option Nat) : Nat :=
  let grid := (fmtGrid fmt).map (· * 2 ^ 140)
  let top := grid.length - 1
  match fv v with
  | .nan => if fmt = 3 then 0x7F else 0
  | .inf neg => codeOf fmt neg top
  | .fin neg m =>
      codeOf fmt neg (match k with
        | none => gridNearest grid 0 m
        | some k => gridStoch neg k grid 0 m)

/-- A block as an encoder leaves it. -/
structure EncBlock where
  bs    : Nat
  fmt   : Nat
  codes : List Nat
  lane  : List (Nat × BF16)
  sat   : Bool
  under : Bool
  deriving DecidableEq, Repr

/-- The lane VALUE of a kept candidate (R71, R581). -/
def laneValue (s x : F32) : BF16 :=
  match fv x with
  | .nan => 0x7FC0#16
  | .inf neg => if neg then 0xFF80#16 else 0x7F80#16
  | .fin _ _ => toBf16 (div32 x s)

/-- Encode one block (R67, R71, R581): kept and dropped are the candidate positions that go to the lane and those that do
not; k gives the stochastic word of a position. Where all the other values are zero or underflow, the block is a zero block and a
candidate that is not kept is 0 in it. DESIGN CHOICE (log entry 150). -/
def encodeBlock (fmt : Nat) (s : F32) (vals : List F32) (kept dropped : List Nat) (k : Nat → Option Nat) : EncBlock :=
  let xs := vals ++ List.replicate (32 - vals.length) 0#32
  let ix := List.range 32
  let at' := fun i => xs.getD i 0#32
  let rest := (ix.filter (fun i => !kept.contains i && !dropped.contains i && isFinite32 (at' i))).map at'
  let amax := rest.foldl (fun acc x => max32 acc (abs32 x)) 0#32
  let nonfin := ix.any (fun i => !kept.contains i && !isFinite32 (at' i))
  let lane := (ix.filter kept.contains).map (fun i => (i, laneValue s (at' i)))
  let marker := fun i => if fmt = 2 && kept.contains i then 2 else 0
  let tiny := lt32 amax (mul32 s (BitVec.ofNat 32 ((127 - 15) * 2 ^ 23)))
  if amax.toNat = 0 && !nonfin then
    { bs := 0, fmt := fmt, codes := ix.map marker, lane := lane, sat := false, under := false }
  else if tiny && !nonfin then
    { bs := 0, fmt := fmt, codes := ix.map marker, lane := lane, sat := false, under := true }
  else
    let r := div32 amax (mul32 s (ofNat32 (fmtMax fmt)))
    let ovf := !le32 r (bsValue 0xFE)
    let bs := if ovf then 0xFE
      else ((List.range (0xFF - 8)).map (· + 8)).find? (fun c => le32 r (bsValue c)) |>.getD 0xFE
    let d := mul32 s (bsValue bs)
    let code := fun i =>
      if kept.contains i then marker i
      else if dropped.contains i && !isNan32 (at' i) then codeOf fmt ((at' i).getLsbD 31) ((fmtGrid fmt).length - 1)
      else quantCode fmt (div32 (at' i) d) (k i)
    { bs := bs, fmt := fmt, codes := ix.map code, lane := lane, sat := ovf || nonfin, under := false }

/-- The 16-bit header of a block (R50). -/
def encHeader (b : EncBlock) : Nat := b.bs * 256 + b.fmt * 64 + b.lane.length * 8

/-- The payload of a block (R52). -/
def encPayload (b : EncBlock) : Bytes :=
  leBytes (fmtBytes b.fmt) ((b.codes.mapIdx (fun i c => c * 2 ^ (fmtWidth b.fmt * i))).sum)

/-- What a stripe descriptor records beside its blocks (R62). -/
structure StripeInfo where
  index   : Nat
  lcap    : Nat
  policy  : Nat
  widened : Bool
  clipped : Bool
  deriving DecidableEq, Repr

/-- The stripe descriptor (R62). -/
def stripeDesc (i : StripeInfo) (bs : List EncBlock) : Nat :=
  let flag := fun (b : Bool) (n : Nat) => if b then 2 ^ n else 0
  bs.length + flag i.clipped 20 + flag i.widened 21 + flag (bs.any (·.under)) 22 + flag (bs.any (·.sat)) 23
    + i.policy * 2 ^ 24 + (bs.map (·.lane.length)).sum * 2 ^ 32 + i.lcap * 2 ^ 40
    + (bs.map (fun b => fmtBytes b.fmt)).sum * 2 ^ 48 + i.index % 65536 * 2 ^ 64

/-- A stripe image, padded to 64 bytes (R61, R63). -/
def stripeImage (i : StripeInfo) (bs : List EncBlock) : Bytes :=
  let heads := bs.flatMap (fun b => leBytes 2 (encHeader b))
  let lane := (bs.mapIdx (fun j b => b.lane.map (fun e =>
    e.1 * 2 ^ 27 + (i.index * 64 + j) % 2048 * 2 ^ 16 + e.2.toNat))).flatten
  let body := leBytes 16 (stripeDesc i bs) ++ padTo (alignUp heads.length 16) heads ++ bs.flatMap encPayload
    ++ padTo (4 * i.lcap) (lane.flatMap (leBytes 4))
  padTo (alignUp body.length 64) body

/-- A stripe as its descriptor and headers place it (R61, R62). -/
structure StripeView where
  desc    : Nat
  headers : List Nat
  /-- offsets of payload and lane -/
  payOff  : Nat
  laneOff : Nat
  /-- size of the image, padded -/
  size    : Nat
  deriving DecidableEq, Repr

/-- Read descriptor and headers of a stripe at the start of a byte string. -/
def stripeView (img : Bytes) : StripeView :=
  let desc := leAt img 0 16
  let n := bitsOf desc 6 0
  let h := alignUp (2 * n) 16
  let pay := 16 + h
  let lane := pay + bitsOf desc 63 48
  { desc := desc, headers := (List.range n).map (fun j => leAt img (16 + 2 * j) 2), payOff := pay, laneOff := lane,
    size := alignUp (lane + 4 * bitsOf desc 47 40) 64 }

/-- Payload of each block and the lane entries that each block owns (R61, R64): (header, payload, entries as words). An entry past
the end of the bytes is none. -/
def stripeBlocks (img : Bytes) (v : StripeView) : List (Nat × Bytes × List Nat) :=
  (v.headers.foldl (fun (acc : Nat × Nat × List (Nat × Bytes × List Nat)) h =>
    let sz := fmtBytes (bitsOf h 7 6)
    let n := bitsOf h 5 3
    (acc.1 + sz, acc.2.1 + n,
      (h, sliceB img acc.1 sz, ((List.range n).filter (fun e => decide (v.laneOff + 4 * (acc.2.1 + e) + 4 ≤ img.length))).map (fun e =>
        leAt img (v.laneOff + 4 * (acc.2.1 + e)) 4)) :: acc.2.2))
    (v.payOff, 0, [])).2.2.reverse

/-- A block scale of the reserved codes (R51). -/
def bsReserved (bs : Nat) : Bool := (decide (1 ≤ bs) && decide (bs ≤ 7)) || bs == 0xFF

/-- The reasons of R65 that a stripe fails. `load` is the check of R65, against a slice of `limit` bytes; otherwise that of
R66, against the expected index. What a slice does not hold of a stripe that runs past its end fails no check but SIZE (log entry
116). -/
def stripeReasons (load : Bool) (limit expect : Nat) (img : Bytes) : List Nat :=
  let v := stripeView img
  let d := v.desc
  let n := bitsOf d 6 0
  let blocks := stripeBlocks img v
  let lused := bitsOf d 39 32
  let index := bitsOf d 79 64
  let all := fun (p : Nat × Bytes × List Nat → Bool) => blocks.any p
  let pos := fun (b : Nat × Bytes × List Nat) => b.2.2.map (fun e => e / 2 ^ 27)
  let chk := fun (j : Nat) (b : Nat × Bytes × List Nat) => b.2.2.any (fun e => bitsOf e 26 16 != (index * 64 + j) % 2048)
  let codes := fun (b : Nat × Bytes × List Nat) => (List.range 32).map (elemCode (bitsOf b.1 7 6) (leNat b.2.1))
  let rises := fun (l : List Nat) => (l.zip (l.drop 1)).all (fun e => e.1 < e.2)
  let r01 := decide (bitsOf d 47 40 < lused)
  let r02 := (!load || decide (16 + 2 * n ≤ limit)) && lused != (v.headers.map (fun h => bitsOf h 5 3)).sum
  let r03 := v.headers.any (fun h => h % 8 != 0)
    || (load && (bitsOf d 127 80 != 0 || bitsOf d 19 7 != 0 || bitsOf d 31 24 != 0))
  let r04 := v.headers.any (fun h => bsReserved (bitsOf h 15 8))
  let held := fun (j : Nat) (b : Nat × Bytes × List Nat) => b.2.2.length == bitsOf b.1 5 3
    && decide (v.payOff + ((v.headers.take (j + 1)).map (fun h => fmtBytes (bitsOf h 7 6))).sum ≤ limit)
  let r05 := load && (blocks.mapIdx (fun j b => bitsOf b.1 7 6 == 2 && held j b
    && (((codes b).filter (· == 2)).length != (pos b).length
      || (List.range 32).any (fun i => ((codes b).getD i 0 == 2) != (pos b).contains i)))).any id
  let r06 := (blocks.mapIdx chk).any id || (load && all (fun b => !rises (pos b)))
  let r07 := n == 0 || decide (64 < n) || bitsOf d 63 48 != (v.headers.map (fun h => fmtBytes (bitsOf h 7 6))).sum
    || (load && decide (limit < v.size))
  let r08 := load && all (fun b => b.2.2.any (fun e => bitsOf e 14 7 == 255))
  let r09 := load && all (fun b => bitsOf b.1 7 6 == 3 && bitsOf b.1 15 8 != 0
    && (List.range 32).any (fun i => (codes b).getD i 0 % 128 == 127 && !(pos b).contains i))
  let r0A := load && all (fun b => bitsOf b.1 7 6 != 2
    && (List.range 32).any (fun i => (codes b).getD i 0 != 0 && (pos b).contains i))
  let r0B := !load && index != expect % 65536
  ([(r01, 1), (r02, 2), (r03, 3), (r04, 4), (r05, 5), (r06, 6), (r07, 7), (r08, 8), (r09, 9), (r0A, 10), (r0B, 11)].filter
    (fun (e : Bool × Nat) => e.1)).map (fun e => e.2)

/-- The lane of a block as (position, value). -/
def laneOf (ws : List Nat) : List (Nat × BF16) := ws.map (fun e => (e / 2 ^ 27, BitVec.ofNat 16 e))

/-- Check every stripe of a tensor slice at load (R65), from the INDEX of its first on: the reason and INDEX of each stripe
refused. A stripe whose descriptor the slice does not hold runs past its end: SIZE, under the INDEX it would have. -/
def sliceRejects : Nat → Nat → Bytes → List (Nat × Nat)
  | 0, _, _ => []
  | fuel + 1, ix, img =>
      if img.length < 16 then [(7, ix % 65536)]
      else
        let v := stripeView img
        let rs := stripeReasons true img.length 0 img
        (match rs with | [] => [] | r :: _ => [(r, bitsOf v.desc 79 64)]) ++ sliceRejects fuel (ix + 1) (img.drop v.size)

/-- The rank of a candidate (R581): NaN first, then infinities, then larger |x|, then lower block, then lower position. -/
def candBefore (a b : Nat × F32) : Bool :=
  let cls := fun (x : F32) => if isNan32 x then 0 else if isFinite32 x then 2 else 1
  let mag := fun (x : F32) => if isFinite32 x then (abs32 x).toNat else 0
  if cls a.2 != cls b.2 then decide (cls a.2 < cls b.2)
  else if mag a.2 != mag b.2 then decide (mag b.2 < mag a.2)
  else decide (a.1 < b.1)

/-- The candidate threshold θ × rms of a block (R70, R581); none when no finite value can be a candidate. -/
def candLimit (theta : F32) (xs : List F32) : Option F32 :=
  let ss := xs.foldl (fun acc x => if isFinite32 x then fma32 x x acc else acc) 0#32
  let rms := sqrt32 (div32 ss (ofNat32 32))
  let t := mul32 theta rms
  if rms.toNat = 0 || !isFinite32 t then none else some t

/-- The candidates of a stripe as (32 * block + position, value) (R70, R581). -/
def stripeCands (theta : F32) (vals : List F32) : List (List (Nat × F32)) :=
  (chunks 32 vals).mapIdx (fun j xs =>
    let lim := candLimit theta xs
    ((xs.mapIdx (fun p x => (32 * j + p, x))).filter (fun e =>
      !isFinite32 e.2 || (match lim with | some t => lt32 t (abs32 e.2) | none => false))))

/-- What QACT counts and writes for one stripe. -/
structure QactOut where
  image   : Option Bytes
  sat     : Nat
  under   : Nat
  stripes : Nat
  widen   : Nat
  clip    : Nat
  lanes   : Nat
  /-- the stripe overflowed (R76) -/
  ovf    : Bool
  deriving DecidableEq, Repr

/-- Encode the blocks of a stripe. -/
def encodeStripe (fmt : Nat) (s : F32) (vals : List F32) (kept dropped : List Nat) (k : Nat → Option Nat) :
    List EncBlock :=
  (chunks 32 vals).mapIdx (fun j xs =>
    let mine := fun (l : List Nat) => (l.filter (fun e => e / 32 == j)).map (· % 32)
    encodeBlock fmt s xs (mine kept) (mine dropped) (fun p => k (32 * j + p)))

/-- One stripe of QACT (R71). `index` is the stripe within the token; fmt 0 N4, 3 E8; policy 0 WIDEN, 1 CLIP, 2 TRAP. No
image means OUTLIER_TRAP. -/
def qactStripe (fmt : Nat) (s theta : F32) (olCap policy index : Nat) (vals : List F32) (k : Nat → Option Nat) : QactOut :=
  let count := fun (f : EncBlock → Bool) (bs : List EncBlock) => (bs.filter f).length
  let out := fun (st w c l : Nat) (ov : Bool) (i : StripeInfo) (bs : List EncBlock) =>
    ({ image := some (stripeImage i bs), sat := count (·.sat) bs, under := count (·.under) bs, stripes := st, widen := w,
       clip := c, lanes := l, ovf := ov } : QactOut)
  if fmt = 3 then
    out 0 0 0 0 false ⟨index, 0, policy, false, false⟩ (encodeStripe 3 s vals [] [] k)
  else
    let cands := stripeCands theta vals
    let every := cands.flatten
    let ovf := cands.any (fun c => decide (7 < c.length)) || decide (olCap < every.length)
    if !ovf then
      let kept := every.map (fun e => e.1)
      out 1 0 0 kept.length false ⟨index, olCap, policy, false, false⟩ (encodeStripe 0 s vals kept [] k)
    else if policy = 0 then
      out 1 1 0 0 true ⟨index, olCap, policy, true, false⟩ (encodeStripe 3 s vals [] [] k)
    else if policy = 2 then
      { image := none, sat := 0, under := 0, stripes := 1, widen := 0, clip := 0, lanes := 0, ovf := true }
    else
      let best := (sortBy candBefore (cands.flatMap (fun c => (sortBy candBefore c).take 7))).take olCap
      let kept := best.map (fun e => e.1)
      let dropped := (every.map (fun e => e.1)).filter (fun i => !kept.contains i)
      out 1 0 1 kept.length true ⟨index, olCap, policy, false, true⟩ (encodeStripe 0 s vals kept dropped k)

/-- The largest image a stripe of n blocks can take under a format, policy and OL_CAP (R72). -/
def qactSlot (fmt policy olCap n : Nat) : Nat :=
  let wide := fmt == 3 || policy == 0
  alignUp (16 + alignUp (2 * n) 16 + fmtBytes (if wide then 3 else 0) * n + (if fmt = 3 then 0 else 4 * olCap)) 64

/-- A 512-value unit as 16 blocks without descriptor and lane (R83, R84, R195). -/
def encodeUnit (fmt : Nat) (s : F32) (vals : List F32) : Bytes × Nat × Nat :=
  let bs := encodeStripe fmt s vals [] [] (fun _ => none)
  (bs.flatMap (fun b => leBytes 2 (encHeader b)) ++ bs.flatMap encPayload,
    (bs.filter (·.sat)).length, (bs.filter (·.under)).length)

/-- Bytes of a unit (R83). -/
def unitBytes (fmt : Nat) : Nat := 32 + 16 * fmtBytes fmt

/-- The exact values of a unit, 512 of them. -/
def unitValues (fmt : Nat) (b : Bytes) : List FV :=
  ((List.range 16).map (fun j =>
    blockValues (leAt b (2 * j) 2) (sliceB b (32 + j * fmtBytes fmt) (fmtBytes fmt)) [])).flatten

/-- Row tensor scales and reserved headers aside, Σ w' a' of two lists, exactly, in units of 2^-298; infinite and NaN by the
IEEE rules (R88, R91). -/
inductive ExSum where
  | nan
  | inf (neg : Bool)
  | fin (v : Int)
  deriving DecidableEq, Repr

def exProd (x y : FV) : ExSum :=
  match x, y with
  | .nan, _ => .nan
  | _, .nan => .nan
  | .inf a, .inf b => .inf (a != b)
  | .inf a, .fin b n => if n = 0 then .nan else .inf (a != b)
  | .fin a m, .inf b => if m = 0 then .nan else .inf (a != b)
  | .fin a m, .fin b n => .fin (signed (a != b) (m * n))

def exAdd (x y : ExSum) : ExSum :=
  match x, y with
  | .nan, _ => .nan
  | _, .nan => .nan
  | .inf a, .inf b => if a = b then .inf a else .nan
  | .inf a, .fin _ => .inf a
  | .fin _, .inf b => .inf b
  | .fin a, .fin b => .fin (a + b)

/-- The exact sum of products over a block pair. -/
def exDot (xs ys : List FV) : ExSum := (List.zipWith exProd xs ys).foldl exAdd (.fin 0)

/-- rne32 of an exact sum. -/
def exRound (e : ExSum) : F32 :=
  match e with
  | .nan => nan32
  | .inf neg => inf32 neg
  | .fin v => roundInt32 false v (2 ^ 149)

/-- The canonical accumulation over block pairs (R88): acc before scaling. -/
def accumulate (pairs : List (List FV × List FV)) : F32 :=
  pairs.foldl (fun acc p => add32 acc (exRound (exDot p.1 p.2))) 0#32

end Sys2Proof.Machine
end

