-- ==== Sys2Proof/Machine/LayoutFile.lean ====
section
/-! DEFINITION. A layout file as its bytes and what its sections hold (R223, R224, R229): the header, the section directory, the
headers of its DETOUR sections, and the items that each of its placements gives. The primary placement is number 0. -/

namespace Sys2Proof.Machine

/-! The header and the section directory. -/

def lyLevel (b : Bytes) : Nat := byteAt b 6
def lyTheta (b : Bytes) : F32 := BitVec.ofNat 32 (leAt b 0x10 4)
def lyShape (b : Bytes) : Nat × Nat := (byteAt b 8, byteAt b 9)
def lyNsect (b : Bytes) : Nat := leAt b 0xC 2
def lyNdetour (b : Bytes) : Nat := leAt b 0xE 2
/-- Directory entry i: TYPE, the zero field, LENGTH, OFFSET. -/
def lyEntry (b : Bytes) (i : Nat) : Nat × Nat × Nat × Nat :=
  let o := 0x40 + 16 * i
  (leAt b o 2, leAt b (o + 2) 2, leAt b (o + 4) 4, leAt b (o + 8) 8)
def lyEntries (b : Bytes) : List (Nat × Nat × Nat × Nat) := (List.range (lyNsect b)).map (lyEntry b)
/-- Bytes of the first section of a type. -/
def lySection (b : Bytes) (type : Nat) : Bytes :=
  match (lyEntries b).find? (fun e => e.1 == type) with
  | some e => sliceB b e.2.2.2 e.2.2.1
  | none => []
def lyOffset (b : Bytes) (type : Nat) : Nat :=
  match (lyEntries b).find? (fun e => e.1 == type) with | some e => e.2.2.2 | none => 0
/-- The BUDGET section: one byte per cluster, in die then cluster order. -/
def lyBudget (b : Bytes) : Bytes := lySection b 8

/-! Detours (R229). -/

/-- The DETOUR sections in directory order; section n counts from 1. -/
def lyDetours (b : Bytes) : List (Nat × Nat × Nat × Nat) := (lyEntries b).filter (fun e => e.1 == 0xA)
def detourSection (b : Bytes) (n : Nat) : Bytes :=
  match (if n = 0 then none else (lyDetours b)[n - 1]?) with
  | some e => sliceB b e.2.2.2 e.2.2.1
  | none => []
def dtBits (b : Bytes) (n : Nat) : Bool := byteAt (detourSection b n) 1 == 1
def dtCovers (b : Bytes) (n : Nat) : List Nat :=
  let d := detourSection b n
  (List.range (leAt d 2 2)).map (fun i => leAt d (0x40 + 4 * i) 4)
/-- Where the list of replacement sections begins within a section that covers n units: after COVER, at a multiple of 16 (log
entry 131). -/
def replAt (n : Nat) : Nat := 0x40 + 16 * ceilDiv n 4
/-- TYPE of each replacement section. -/
def dtTypes (b : Bytes) (n : Nat) : List Nat :=
  let d := detourSection b n
  (List.range (leAt d 4 2)).map (fun i => leAt d (replAt (leAt d 2 2) + 16 * i) 2)

def detourAt (f : LayoutFile) (n : Nat) : Option DetourDesc := if n = 0 then none else f.body.detours[n - 1]?

/-- The items by which placement n replaces some of a section's. -/
def newItems {α : Type} (f : LayoutFile) (n type : Nat) (items : DetourDesc → List α) : List α :=
  match detourAt f n with
  | some d => if (dtTypes f.bytes n).contains type then items d else []
  | none => []
/-- Items of a section with those that a detour replaces; the others stay (R229). -/
def replaceBy {α β : Type} [BEq β] (key : α → β) (old new : List α) : List α :=
  old.filter (fun x => !new.any (fun y => key y == key x)) ++ new
/-- Numbered items of a section with those that a detour replaces. -/
def replaceAt {α : Type} (old : List α) (new : List (Nat × α)) : List α :=
  old.mapIdx (fun i x => ((new.find? (fun e => e.1 == i)).map (fun e => e.2)).getD x)

def placeRegions (f : LayoutFile) (n : Nat) : List RegionDesc := replaceAt f.body.regions (newItems f n 1 (fun d => d.regions))
def placeShards (f : LayoutFile) (n : Nat) : List ShardPlace :=
  replaceBy (fun (x : ShardPlace) => x.index) f.body.shards (newItems f n 2 (fun d => d.shards))
def placeStreams (f : LayoutFile) (n : Nat) : List StreamImage :=
  replaceBy (fun (x : StreamImage) => (x.rx, x.ry)) f.body.streams (newItems f n 4 (fun d => d.streams))
def placeTrees (f : LayoutFile) (n : Nat) : List TreeImage :=
  replaceBy (fun (x : TreeImage) => (x.rx, x.ry, x.entry.val)) f.body.trees (newItems f n 5 (fun d => d.trees))
def placePartners (f : LayoutFile) (n : Nat) : List ((Nat × Nat) × (Nat × Nat)) :=
  replaceBy (fun (x : (Nat × Nat) × (Nat × Nat)) => x.1) f.body.partners (newItems f n 6 (fun d => d.partners))
def placeBudget (f : LayoutFile) (n : Nat) : Bytes := replaceAt (lyBudget f.bytes) (newItems f n 8 (fun d => d.budget))
/-- Copies of shards that the detours keep in spare vault space (R230). -/
def shardCopies (f : LayoutFile) (n : Nat) : List ShardPlace := newItems f n 2 (fun d => d.copies)
/-- The placements of a file: the primary, and its detours in directory order. -/
def placements (f : LayoutFile) : List Nat := List.range (lyNdetour f.bytes + 1)

/-- A logical core of the file under a placement: its place among its region's cores (R244). -/
def placeCore (f : LayoutFile) (n : Nat) (xy : Nat × Nat) : Nat × Nat :=
  match f.body.regions.findIdx? (fun r => r.cores.contains xy) with
  | none => xy
  | some i =>
      let k := ((f.body.regions.map (fun r => r.cores)).getD i []).idxOf xy
      (((placeRegions f n).map (fun r => r.cores)).getD i []).getD k xy
/-- The physical core of a logical one under a placement of a partition. -/
def fileCore (s : State) (p : Nat) (f : LayoutFile) (n : Nat) (xy : Nat × Nat) : Nat := relCore s p (placeCore f n xy)

end Sys2Proof.Machine
end

