-- ==== Sys2Proof/Machine/Cache.lean ====
section
/-! DEFINITION. The latent cache of a partition: rings and holders (R243 to R245), slot tables and extents (R246, R247),
frames that are retired (R354), and the layout in force of a job (R229, R244). -/

namespace Sys2Proof.Machine

/-! The layout in force. -/

/-- The regions of a job's layout in the placement in force (R229). -/
def jobRegions (j : Job) : List RegionDesc := match j.file with | none => [] | some f => placeRegions f j.detour

/-- A logical core of the layout as a physical one, in the placement in force (R244). -/
def physCore (s : State) (p : Nat) (j : Job) (xy : Nat × Nat) : Nat :=
  match j.file with
  | none => relCore s p xy
  | some f => fileCore s p f j.detour xy

def sweepDesc (j : Job) : Option SweepDesc := j.file.map (fun f => f.body.sweep)

/-! Pages and holders. -/

def frameBytes : Nat := 9216
/-- The cache format of a layout: that of its layer records, which is one (R241): 0 N4, 1 E8. -/
def cacheFmt (d : SweepDesc) : Nat := match d.records with | [] => 0 | r :: _ => byteAt r.2 0x8C
/-- Bytes of one cache entry and of one page (R83, R243). -/
def entryBytes (cfmt : Nat) : Nat := if cfmt = 0 then 288 else 544
def pageBytes (cfmt : Nat) : Nat := 32 * entryBytes cfmt

/-- The ring that holds page g of a layer (R243, R244): its number and its entry. -/
def ringOf (rings : List (Nat × List (Nat × Nat))) (g : Nat) : Option (Nat × (Nat × List (Nat × Nat))) :=
  (((rings.mapIdx (fun k r => (k, r))).filter (fun e => decide (e.2.1 ≤ g))).getLast?)

/-- The logical core that holds page g of a layer for request number n (R244). -/
def holderOf (d : SweepDesc) (layer n g : Nat) : Option (Nat × Nat) :=
  match ringOf (d.rings.getD layer []) g with
  | none => none
  | some e => e.2.2[(g - e.2.1 + n) % e.2.2.length]?

/-- Pages of a layer, ascending, that a core holds below a length (R246); a placement may put several logical cores on it. -/
def pagesAt (d : SweepDesc) (phys : Nat × Nat → Nat) (layer n len c : Nat) : List Nat :=
  (List.range (ceilDiv len 32)).filter (fun g => (holderOf d layer n g).map phys == some c)

/-- All pages that a core holds for a request of a reserved length, over the layers. -/
def pageCount (d : SweepDesc) (phys : Nat × Nat → Nat) (n len c : Nat) : Nat :=
  ((List.range d.rings.length).map (fun l => (pagesAt d phys l n len c).length)).sum

/-- Every logical core that some ring names, once (R245). -/
def ringCores (d : SweepDesc) : List (Nat × Nat) := (d.rings.flatMap (fun l => l.flatMap (fun r => r.2))).eraseDups

/-! Extents. Core i of a cluster has slot table i and cache area i of the cluster's vault, in core order. A draft keeps tables and
areas of its own (R299): its extents stand under slot h + 65,536. -/

def draftSlot (h : Nat) : Nat := h + 65536
def slotTableAt (d : SweepDesc) (c h : Nat) : Nat := d.slotOff + coreIn c * 262144 + 4 * (h % 65536)
def areaAt (d : SweepDesc) (c : Nat) : Nat := d.areaOff + coreIn c * d.frames * frameBytes

/-- A core's slot-table entry (R246). -/
def slotFrame (s : State) (d : SweepDesc) (c h : Nat) : Option Nat :=
  let f := leNat (vaultRead s (clusterOf c) (slotTableAt d c h) 4)
  if f = 0xFFFFFFFF then none else some f

/-- Vault address of page g of a layer at a core (R246). -/
def pageAddr (d : SweepDesc) (phys : Nat × Nat → Nat) (c frame layer n len g : Nat) : Nat :=
  let below := ((List.range layer).map (fun l => (pagesAt d phys l n len c).length)).sum
  let rank := ((pagesAt d phys layer n len c).filter (fun x => decide (x < g))).length
  areaAt d c + frame * frameBytes + (below + rank) * pageBytes (cacheFmt d)

/-- Number of a frame in the list of retired frames; a draft's area counts from 2^31 (log entry 144). -/
def frameNumber (h f : Nat) : Nat := if 65536 ≤ h then 2147483648 + f else f
/-- A frame of the area that a slot's extents lie in is retired (R354). -/
def frameRetired (s : State) (c h f : Nat) : Bool :=
  s.stw.retired.any (fun e => e.1.toNat == coreUnit c 0 0 && e.2 == frameNumber h f)

/-- The first place in a core's area where n frames lie free (the choice among free places: log entry 21). -/
def findExtent (s : State) (d : SweepDesc) (c h n : Nat) : Option Nat :=
  let used := ((clOf s (clusterOf c)).extents.filter (fun e => e.1 == coreIn c && e.2.1 / 65536 == h / 65536)).map (fun e => e.2.2)
  (List.range (d.frames + 1)).find? (fun f => decide (f + n ≤ d.frames)
    && used.all (fun u => decide (u.1 + u.2 ≤ f) || decide (f + n ≤ u.1))
    && (List.range n).all (fun i => !frameRetired s c h (f + i)))

/-- Place the extents of a request at each of a list of cores that holds some of its pages; none when one cannot (R247). -/
def placeAt (d : SweepDesc) (h n len : Nat) (phys : Nat × Nat → Nat) : List Nat → State → Option State
  | [], s => some s
  | c :: t, s =>
      let pages := pageCount d phys n len c
      if pages = 0 then placeAt d h n len phys t s
      else
        let count := ceilDiv (pages * pageBytes (cacheFmt d)) frameBytes
        match findExtent s d c h count with
        | none => none
        | some f =>
            let s := updCl s (clusterOf c) (fun k => { k with extents := k.extents ++ [(coreIn c, h, f, count)] })
            placeAt d h n len phys t (vaultWrite s (clusterOf c) (slotTableAt d c h) (leBytes 4 f))

/-- Place the extents of a request at every core of the rings. -/
def placeExtents (d : SweepDesc) (h n len : Nat) (phys : Nat × Nat → Nat) (s : State) : Option State :=
  placeAt d h n len phys (((ringCores d).map phys).eraseDups) s

/-- Free the extents of a slot at a list of clusters (R247). -/
def freeExtents (s : State) (d : Option SweepDesc) (clusters : List Nat) (h : Nat) : State :=
  clusters.foldl (fun s k =>
    let mine := (clOf s k).extents.filter (fun e => e.2.1 == h)
    let s := updCl s k (fun c => { c with extents := c.extents.filter (fun e => e.2.1 != h) })
    match d with
    | none => s
    | some d => mine.foldl (fun s e =>
        vaultWrite s k (slotTableAt d (coreAt (k / 16) (k % 16) e.1) h) (leBytes 4 0xFFFFFFFF)) s) s

/-- A cocoon image is LEN × LAYERS entries between its header and its digest (R261). -/
def cocoonBytes (d : SweepDesc) (len : Nat) : Nat := 0x80 + len * d.rings.length * entryBytes (cacheFmt d) + 32

/-! Entries of a request, for images and for extents that are placed again (R246, R261). -/

/-- Cluster and vault address of the entry of a layer and position of a request. -/
def entryPlace (s : State) (p : Nat) (j : Job) (d : SweepDesc) (h n reserved layer pos : Nat) : Option (Nat × Nat) :=
  match holderOf d layer n (pos / 32) with
  | none => none
  | some xy =>
      let c := physCore s p j xy
      (slotFrame s d c h).map (fun f =>
        (clusterOf c, pageAddr d (physCore s p j) c f layer n reserved (pos / 32) + pos % 32 * entryBytes (cacheFmt d)))

/-- Entries in layer order, then ascending position. -/
def readCache (s : State) (p : Nat) (j : Job) (d : SweepDesc) (h n reserved len : Nat) : Bytes :=
  (List.range d.rings.length).flatMap (fun l => (List.range len).flatMap (fun pos =>
    match entryPlace s p j d h n reserved l pos with
    | some a => vaultRead s a.1 a.2 (entryBytes (cacheFmt d))
    | none => zeros (entryBytes (cacheFmt d))))

def writeCache (s : State) (p : Nat) (j : Job) (d : SweepDesc) (h n reserved len : Nat) (body : Bytes) : State :=
  let e := entryBytes (cacheFmt d)
  (List.range d.rings.length).foldl (fun s l => (List.range len).foldl (fun s pos =>
    match entryPlace s p j d h n reserved l pos with
    | some a => vaultWrite s a.1 a.2 (sliceB body ((l * len + pos) * e) e)
    | none => s) s) s

end Sys2Proof.Machine
end

