-- ==== Sys2Proof/Machine/Serving.lean ====
section
/-! DEFINITION. What the Steward and the service control cores do for requests (ch. 10, 15, 23): queues toward the host,
Logbook records (R390, R391), Plates (R381 to R385), ends of requests (R270, R293), commit points (R285 to R288) and ends of
jobs (R267). -/

namespace Sys2Proof.Machine

/-! Regions at run time. -/

def regionRunZero : RegionRun :=
  { decode := [], prefill := [], pads := 0, busy := false, stepNum := 0, startAt := 0, replays := 0, trips := 0, trapped := [],
    lastFault := none, qualM := 0, qualN := 0, qualTimes := [], nfSeen := false }
def regionRun (s : State) (p r : Nat) : RegionRun :=
  match jobOf s p with | some j => getN regionRunZero j.regions r | none => regionRunZero
def updRegion (s : State) (p r : Nat) (f : RegionRun → RegionRun) : State :=
  updJob s p (fun j => { j with regions := updN regionRunZero j.regions r f })

/-- The head region of a job (ch. 02). -/
def headOf (j : Job) : Option Nat := (jobRegions j).findIdx? (fun r => r.kind == 2)

/-! Events of the Steward and of Wenlink ports. -/

/-- An event raised by the active Steward, with the job of a partition and a request number. -/
def stwEvent (s : State) (code sev : Nat) (p : Option Nat) (req : Option Nat) (detail : Bytes) : State :=
  let job := p.bind (fun p => (jobOf s p).map (fun j => (j.number, BitVec.ofNat 32 j.nextStep.toNat)))
  emit s (stewardCc s) { ev code sev (moduleUnit 12) (stewardCc s) detail with
    job := job, req := req.map (BitVec.ofNat 32) }

/-- An event of the link control core of a Wenlink port. -/
def portEvent (s : State) (n code sev : Nat) (detail : Bytes) : State :=
  raise s code sev (dieUnit (64 + n) 12) (1024 + 2 * n) detail

/-- An event that the Finder raises. -/
def finderEvent (s : State) (code sev unit : Nat) (detail : Bytes) : State := raise s code sev unit finderId detail

/-! Queues toward the host (R527, R528). -/

def entrySize (kind : Nat) : Nat := if kind = 1 then 128 else if kind = 2 || kind = 5 then 32 else 64
def portOf (q : Nat) : Nat := q / 4096
def queueAt (s : State) (q : Nat) : Option WlQueue := lookupN (wlOf s (portOf q)).queues q
def qPending (q : WlQueue) : Nat := (q.tail - q.head).toNat
def portUp (s : State) (n : Nat) : Bool := (wlOf s n).st == 5

/-- A message's header and payload (R525). -/
def wlMessage (type flags tag len arg : Nat) (payload : Bytes) : Bytes :=
  leBytes 1 type ++ leBytes 1 flags ++ leBytes 2 tag ++ leBytes 4 len ++ leBytes 8 arg ++ payload
def hostMsgBytes (m : HostMsg) : Bytes :=
  match m with
  | .mwr a b => wlMessage 1 0 0 b.length a.toNat b
  | .mrd tag a n => wlMessage 2 0 tag.toNat n a.toNat []
  | .qstat tag c => wlMessage 4 0 tag.toNat 0 c.toNat []
  | .credits _ => []

/-- The module sends a message: it joins the flits that wait for an acknowledgement; those past the first 512 have yet to be sent
(R523). A message starts a payload of its own (log entry 29). -/
def wlPost (s : State) (n : Nat) (m : HostMsg) : State :=
  updWl s n (fun w =>
    let ps := chunks 248 (hostMsgBytes m)
    { w with
      out := w.out ++ [m]
      unacked := w.unacked ++ ps.mapIdx (fun i b => (w.txSeq + BitVec.ofNat 12 i, sliceB b 0 248))
      txSeq := w.txSeq + BitVec.ofNat 12 ps.length })

/-- The module sends a host write, in messages of at most 4,096 bytes (R525). -/
def hostWrite (s : State) (n addr : Nat) (b : Bytes) : State :=
  ((chunks 4096 b).mapIdx (fun i c => HostMsg.mwr (BitVec.ofNat 64 (addr + 4096 * i)) c)).foldl (fun s m => wlPost s n m) s

/-- A TAG that no outstanding read has (R526); fuel bounds the search. -/
def freeTag (used : List (BitVec 16)) : Nat → BitVec 16 → BitVec 16
  | 0, t => t
  | n + 1, t => if used.contains t then freeTag used n (t + 1) else t

/-- The module reads host memory (R526, R531). -/
def hostRead (s : State) (n addr len : Nat) (why : ReadFor) : State :=
  let w := wlOf s n
  let tag := freeTag (w.reads.map (fun r => r.1)) (w.reads.length + 1) w.nextTag
  wlPost (updWl s n (fun w => { w with
    reads := w.reads ++ [(tag, BitVec.ofNat 64 addr, len, why)], nextTag := tag + 1 })) n (.mrd tag (BitVec.ofNat 64 addr) len)

/-- The module reads host memory for data that come with the same command (R531): `len` bytes from an address, of which `got` have
come, in reads of at most 4,096 bytes (R525). -/
def hostFetch (s : State) (n addr len got : Nat) : State :=
  (List.range (max 1 (ceilDiv (min len got) 4096))).foldl (fun s i =>
    let w := wlOf s n
    let tag := freeTag (w.reads.map (fun r => r.1)) (w.reads.length + 1) w.nextTag
    wlPost (updWl s n (fun w => { w with nextTag := tag + 1 })) n
      (.mrd tag (BitVec.ofNat 64 (addr + 4096 * i)) (min 4096 (len - 4096 * i)))) s

/-- A queue of a kind can take `units` more entries and its port carries traffic (R528, R533). -/
def queueRoom (s : State) (q kind units : Nat) : Bool :=
  match queueAt s q with
  | some w => portUp s (portOf q) && w.kind.toNat == kind && decide (qPending w + units ≤ w.entries.toNat)
  | none => false

/-- Write entries at the tail of an outbound queue, and then the tail (R528). -/
def queueWrite (s : State) (q units : Nat) (b : Bytes) : State :=
  match queueAt s q with
  | none => s
  | some w =>
      let n := portOf q
      let tail := w.tail + BitVec.ofNat 32 units
      let s := hostWrite s n (w.base.toNat + w.tail.toNat % w.entries.toNat * entrySize w.kind.toNat) b
      let s := hostWrite s n w.indexAddr.toNat (leBytes 4 tail.toNat)
      updWl s n (fun v => { v with queues := putN v.queues q { w with tail := tail } })

/-! The Logbook (R390, R391). -/

/-- The Logbook queue of a partition: the first of KIND 0x05 in port then number order. -/
def logQueue (s : State) (p : Nat) : Option Nat :=
  s.wl.findSome? (fun e => (e.2.queues.find? (fun q => q.2.kind == 5#8 && q.2.part.toNat == p)).map (fun q => q.1))

/-- One Logbook record: header and payload padded to 32 B. -/
def logBytes (type flags p seq step req index : Nat) (payload : Bytes) : Bytes :=
  leBytes 1 type ++ leBytes 1 flags ++ leBytes 1 p ++ [0#8] ++ leBytes 4 payload.length ++ leBytes 8 seq ++ leBytes 8 step
    ++ leBytes 4 req ++ leBytes 4 index ++ padTo (alignUp payload.length 32) payload

/-- Room for a record at the tail of a Logbook queue, with the pad record before the ring's end (R527). -/
def logPad (w : WlQueue) (units : Nat) : Nat :=
  let left := w.entries.toNat - w.tail.toNat % w.entries.toNat
  if left < units then left else 0
def logRoom (s : State) (q units : Nat) : Bool :=
  match queueAt s q with
  | some w => queueRoom s q 5 (logPad w units + units)
  | none => false

/-- Post a record that fits. -/
def logPost (s : State) (q : Nat) (bs : Bytes) : State :=
  match queueAt s q with
  | none => s
  | some w =>
      let units := bs.length / 32
      let pad := logPad w units
      let s := if pad = 0 then s else queueWrite s q pad (padTo (32 * pad) (padTo 4 [0#8] ++ leBytes 4 (32 * (pad - 1))))
      queueWrite s q units bs

/-- A partition's job keeps a Logbook, and where: with no Logbook queue nothing is kept (log entry 22). -/
def logTarget (s : State) (p : Nat) : Option Nat :=
  match jobOf s p with
  | some j => if j.logbook then logQueue s p else none
  | none => none

/-- Post deferred records while there is room (R391). -/
def logFlush : List Bytes → State → Nat → Nat → State
  | [], s, p, _ => updPart s p (fun t => { t with logDeferred := [], logStalled := false })
  | r :: t, s, p, q =>
      if logRoom s q (r.length / 32) then logFlush t (logPost s q r) p q
      else updPart s p (fun v => { v with logDeferred := r :: t })

/-- A new input may take effect: its record can be posted now (R391). -/
def logReady (s : State) (p payload : Nat) : Bool :=
  match logTarget s p with
  | none => true
  | some q => (partOf s p).logDeferred.isEmpty && logRoom s q (1 + ceilDiv payload 32)

/-- LOGBOOK_STALL, once per stall (R391). -/
def logStall (s : State) (p : Nat) : State :=
  if (partOf s p).logStalled then s
  else stwEvent (updPart s p (fun t => { t with logStalled := true })) 0x6070 1 (some p) none []

/-- Record an input; without room it waits (R390, R391). -/
def logInput (s : State) (p type flags : Nat) (req index : Option Nat) (payload : Bytes) : State :=
  match logTarget s p, jobOf s p with
  | some q, some j =>
      let bs := logBytes type flags p (partOf s p).logSeq.toNat j.nextStep.toNat (req.getD 0xFFFFFFFF)
        (index.getD 0xFFFFFFFF) payload
      let s := updPart s p (fun t => { t with logSeq := t.logSeq + 1 })
      if (partOf s p).logDeferred.isEmpty && logRoom s q (bs.length / 32) then logPost s q bs
      else logStall (updPart s p (fun t => { t with logDeferred := t.logDeferred ++ [bs] })) p
  | _, _ => s

/-- A PAUSE record; the code of its cause is open (log entry 23). -/
def logPause (s : State) (p h : Nat) : State :=
  match reqOf s h with
  | some r =>
      let f := freeBytes s 1
      logInput f.2 p 0x07 0 (some (leAt r.desc 4 4)) (some r.tokens.length) f.1
  | none => s

/-! Plates (R381 to R385). -/

/-- A fold record as it is hashed, SLOT at zero (R383). -/
def foldRec (type : Nat) (payload : Bytes) : Bytes := leBytes 1 type ++ zeros 7 ++ sliceB payload 0 56
def foldChain (chain : Bytes) (type : Nat) (payload : Bytes) : Bytes := sha256 (chain ++ foldRec type payload)
def foldReq (s : State) (h type : Nat) (payload : Bytes) : State :=
  updReq s h (fun r => { r with chain := foldChain r.chain type payload })
def foldJob (s : State) (p type : Nat) (payload : Bytes) : State :=
  updJob s p (fun j => { j with chain := foldChain j.chain type payload })

/-- The Plate header (R381). -/
def plateHeader (kind : Nat) (nondet : Bool) (level : Nat) (theta : F32) (program epoch firmware input : Bytes) : Bytes :=
  leBytes 4 0x54414C50 ++ leBytes 2 1 ++ leBytes 1 kind ++ leBytes 1 (if nondet then 1 else 0) ++ leBytes 1 level ++ zeros 3
    ++ leBytes 4 theta.toNat ++ sliceB program 0 32 ++ sliceB epoch 0 32 ++ sliceB firmware 0 32 ++ sliceB input 0 32 ++ zeros 112

/-- Firmware release digest in force (R489). -/
def fwDigest (s : State) : Bytes := match s.stw.release with | some r => r.1 | none => zeros 32
/-- Contract level of a job's layout (R223). -/
def jobLevel (j : Job) : Nat := match j.file with | some f => byteAt f.bytes 6 | none => 0

/-- Zero n bytes of a string at an offset. -/
def zeroAt (b : Bytes) (off n : Nat) : Bytes := sliceB b 0 off ++ zeros n ++ b.drop (off + n)
def putAt (b : Bytes) (off : Nat) (x : Bytes) : Bytes := sliceB b 0 off ++ x ++ b.drop (off + x.length)

/-! Requests. -/

def rReq (r : Request) : Nat := leAt r.desc 0x04 4
def rClass (r : Request) : Nat := byteAt r.desc 1
def rVariant (r : Request) : Nat := byteAt r.desc 3
def rPromptLen (r : Request) : Nat := leAt r.desc 0x10 4
def rTq (r : Request) : Nat := leAt r.desc 0x30 2
def rCq (r : Request) : Nat := leAt r.desc 0x32 2
def rTtl (r : Request) : Nat := leAt r.desc 0x34 4
def rFlags (r : Request) : Nat := leAt r.desc 0x46 2
def rKeep (r : Request) : Bool := bitOf (rFlags r) 0
def rCountPrompt (r : Request) : Bool := bitOf (rFlags r) 1
def rSpec (r : Request) : Bool := bitOf (rFlags r) 2

/-- The INPUT digest of a request (R382). -/
def inputDigest (r : Request) : Bytes :=
  let d := zeroAt (zeroAt r.desc 0x18 0x1C) 0x34 4
  let d := zeroAt d 0x30 4
  sha256 (d ++ r.prompt.flatMap (fun t => leBytes 4 t.toNat) ++ (r.mask.getD (List.replicate 24576 0xFF#8)) ++ r.stop)

/-- Tokens committed, a record of no token aside (R284, R293). -/
def newTokens (r : Request) : Nat := (r.tokens.filter (· != 0x3FFFF#18)).length
/-- Positions held (R293). -/
def rLength (r : Request) : Nat := rPromptLen r + r.appended.length + newTokens r

def reqFinal (r : Request) : Bool := r.st == .done || r.st == .cancelled || r.st == .failed
def stateCode (x : ReqState) : Nat :=
  match x with
  | .queued => 0 | .prefill => 1 | .decode => 2 | .paused => 3 | .resuming => 4 | .done => 5 | .cancelled => 6 | .failed => 7

/-- The live request of a number on a partition (R268), by its slot. -/
def findReq (s : State) (p req : Nat) : Option (Nat × Request) :=
  s.reqs.find? (fun e => e.2.part.val == p && rReq e.2 == req)

/-- The FLAGS of a request's records (R293). -/
def recFlags (s : State) (r : Request) : Nat :=
  let j := jobOf s r.part.val
  let nondet := match j with | some j => j.nondet | none => false
  let det := match j with | some j => j.detourBits1 | none => false
  (if r.untracked then 1 else 0) + (if nondet then 2 else 0) + (if det then 4 else 0)

/-- A completion record (R293). -/
def completionRec (s : State) (r : Request) (reason stop answer event : Nat) : Bytes :=
  leBytes 1 1 ++ leBytes 1 (stateCode r.st) ++ leBytes 1 reason ++ leBytes 1 stop ++ leBytes 4 (rReq r)
    ++ leBytes 4 (newTokens r) ++ leBytes 4 (rLength r) ++ leBytes 2 r.resumes ++ leBytes 1 answer
    ++ leBytes 1 (recFlags s r) ++ leBytes 2 event ++ leBytes 2 0 ++ leBytes 8 r.lastStep.toNat ++ sliceB r.chain 0 32

/-- An answer record (R273, R293): REASON and PLATE are zero; the fields of a request are those of the live request that the command
names, and zero where there is none. -/
def answerRec (s : State) (r : Option Request) (req opc answer : Nat) : Bytes :=
  match r with
  | some r =>
      leBytes 1 2 ++ leBytes 1 (stateCode r.st) ++ zeros 2 ++ leBytes 4 req ++ leBytes 4 (newTokens r) ++ leBytes 4 (rLength r)
        ++ leBytes 2 r.resumes ++ leBytes 1 answer ++ leBytes 1 (recFlags s r) ++ zeros 2 ++ leBytes 2 opc
        ++ leBytes 8 r.lastStep.toNat ++ zeros 32
  | none => leBytes 1 2 ++ zeros 3 ++ leBytes 4 req ++ zeros 10 ++ leBytes 1 answer ++ zeros 3 ++ leBytes 2 opc ++ zeros 40

/-- Post the held records of a port whose completion queues can take them. A record of a request waits for the token records
of its ring; the entry of a request in a final state goes with its record (ch. 10, R533). -/
def flushRecs : List (BitVec 16 × Option Nat × Bytes) → State → Nat → List (BitVec 16 × Option Nat × Bytes) → State
  | [], s, n, kept => updWl s n (fun w => { w with heldRecs := kept.reverse })
  | e :: t, s, n, kept =>
      let ringEmpty := match e.2.1.bind (reqOf s) with | some r => r.ring.isEmpty | none => true
      if ringEmpty && queueRoom s e.1.toNat 3 1 then
        let s := queueWrite s e.1.toNat 1 e.2.2
        let s := match e.2.1 with
          | some h => match reqOf s h with
            | some r => if reqFinal r then { s with reqs := delN s.reqs h } else s
            | none => s
          | none => s
        flushRecs t s n kept
      else flushRecs t s n (e :: kept)
def flushHeld (s : State) (n : Nat) : State := flushRecs (wlOf s n).heldRecs s n []

/-- Post a record to a completion queue, or hold it. -/
def postRec (s : State) (q : Nat) (slot : Option Nat) (bs : Bytes) : State :=
  let n := portOf q
  flushHeld (updWl s n (fun w => { w with heldRecs := w.heldRecs ++ [(BitVec.ofNat 16 q, slot, bs)] })) n

/-- Post an answer record: to the queue that the command names, or to the lowest completion queue of the carrying port with
the command queue's partition; otherwise nowhere (R273). -/
def postAnswer (s : State) (cmdQueue cq part : Nat) (bs : Bytes) : State :=
  let named := match queueAt s cq with | some w => w.kind == 3#8 && w.part.toNat == part | none => false
  if named then postRec s cq none bs
  else
    let cmdPart := match queueAt s cmdQueue with | some w => w.part.toNat | none => part
    match (wlOf s (portOf cmdQueue)).queues.find? (fun q => q.2.kind == 3#8 && q.2.part.toNat == cmdPart) with
    | some q => postRec s q.1 none bs
    | none => s

/-- P₀ of a request (R381). -/
def startChain (s : State) (r : Request) : Bytes :=
  match jobOf s r.part.val with
  | some j => sha256 (plateHeader 1 j.nondet (jobLevel j) j.theta j.digest r.epoch (fwDigest s) (inputDigest r))
  | none => zeros 32

/-- The END fold of a request (R383, R385). -/
def foldEnd (s : State) (h reason stop : Nat) : State :=
  match reqOf s h with
  | some r =>
      let s := if r.chain.isEmpty then setReq s h { r with chain := startChain s r } else s
      foldReq s h 0x15 (leBytes 1 (stateCode r.st) ++ leBytes 1 reason ++ leBytes 1 stop ++ leBytes 4 (newTokens r)
      ++ leBytes 4 (rLength r))
  | none => s

/-- A request's image leaves its parking area (R291, R532). -/
def dropImage (s : State) (h : Nat) : State :=
  { s with wl := s.wl.map (fun e => (e.1, { e.2 with images := e.2.images.filter (fun i => i.1.val != h) })) }

/-- The clusters and the SWEEP section that a request's extents lie by. -/
def dropExtents (s : State) (p h : Nat) : State :=
  let s := freeExtents s ((jobOf s p).bind sweepDesc) (partClusters s p) h
  freeExtents s (((jobOf s p).bind (fun j => j.draft)).map (fun d => d.file.body.sweep)) (partClusters s p) (draftSlot h)

/-- Reads for a request that has ended lead nowhere (R526). -/
def dropReads (s : State) (h : Nat) : State :=
  let mine := fun (w : ReadFor) => match w with
    | .prompt x => x.val == h | .maskBits x => x.val == h | .stopRec x => x.val == h | _ => false
  { s with wl := s.wl.map (fun e => (e.1, { e.2 with
      reads := e.2.reads.map (fun r => if mine r.2.2.2 then (r.1, r.2.1, r.2.2.1, .dropped) else r) })) }

/-- A live request of a partition is bound to an epoch. -/
def boundTo (s : State) (p : Nat) (digest : Bytes) : Bool :=
  s.reqs.any (fun e => e.2.part.val == p && !reqFinal e.2 && e.2.epoch == digest)

/-- Drop the shards of an epoch from the directories of a partition; a base epoch's stay while an epoch extends it (R328). -/
def dropShards (s : State) (p : Nat) (digest : Bytes) : State :=
  (partClusters s p).foldl (fun s k =>
    if (clOf s k).shards.any (fun e => e.1 == digest) then
      updCl s k (fun c => { c with shards := c.shards.filter (fun e => e.1 != digest) }) else s) s

/-- A previous epoch whose last request is final retires (R327, R331). -/
def retireCheck (s : State) (p : Nat) : State :=
  match (partOf s p).epochs.retiring with
  | none => s
  | some m =>
      if boundTo s p m.1.digest then s
      else
        let base := match (partOf s p).epochs.committed with | some c => c.base | none => []
        let s := if base = m.1.digest then s else dropShards s p m.1.digest
        let s := updPart s p (fun t => { t with epochs := { t.epochs with retiring := none, st := .old } })
        let s := logInput s p 0x08 0 none none (m.1.digest ++ [1#8])
        stwEvent s 0x6055 0 (some p) none []

/-! Drafts (R298, R307). -/

/-- Requests of a partition by slot. -/
def partReqs (s : State) (p : Nat) : List Nat := (s.reqs.filter (fun e => e.2.part.val == p)).map (fun e => e.1)

/-- The DRAFT fold of every live request that a DISTRIBUTIONAL draft involves, and the Logbook record (R307, R383, R390). -/
def noteDraft (s : State) (p : Nat) (digest : Bytes) : State :=
  let pay := [1#8] ++ sliceB digest 0 32
  let s := (partReqs s p).foldl (fun s h => match reqOf s h with
    | some r => if !reqFinal r && rSpec r && !r.chain.isEmpty then foldReq s h 0x13 pay else s
    | none => s) s
  logInput s p 0x09 0 none none pay

/-- A draft leaves: its extents are freed (R298, R307), and its cache areas are cleared with those of the job (R565). -/
def unloadDraft (s : State) (p : Nat) (x : Draft) : State :=
  let s := updPart s p (fun t => { t with clearDesc := t.clearDesc ++ [x.file.body.sweep] })
  let s := (partReqs s p).foldl (fun s h => freeExtents s (some x.file.body.sweep) (partClusters s p) (draftSlot h)) s
  let s := updJob s p (fun j => { j with draft := none })
  if x.dist then noteDraft s p (zeros 32) else s

/-- A draft that is to leave does so once no verification cycle is in flight (R298). -/
def draftCheck (s : State) (p : Nat) : State :=
  match (jobOf s p).bind (fun j => j.draft) with
  | some x => if x.leaving && !s.reqs.any (fun e => e.2.part.val == p && e.2.cycle.isSome) then unloadDraft s p x else s
  | none => s

/-- A draft is to leave at the end of the cycles in flight. -/
def leaveDraft (s : State) (p : Nat) (x : Draft) : State :=
  draftCheck (updJob s p (fun j => { j with draft := some { x with leaving := true } })) p

/-! Ends. -/

/-- A request's tokens leave the wavefronts of its job. -/
def dropTokens (s : State) (p h : Nat) : State :=
  updJob s p (fun j => { j with regions := j.regions.map (fun e => (e.1, { e.2 with
    decode := e.2.decode.filter (fun t => t.slot != h), prefill := e.2.prefill.filter (fun t => t.slot != h) })) })

/-- End a request (R247, R270, R293, R385): its final state, its END fold, its extents and image freed, and its completion
record. -/
def endRequest (s : State) (h : Nat) (st : ReqState) (reason stop answer event : Nat) : State :=
  match reqOf s h with
  | none => s
  | some r =>
      if reqFinal r then s
      else
        let p := r.part.val
        let s := setReq s h { r with
          st := st, cancel := none, pause := none, parked := none, inFlight := false, cycle := none }
        let s := dropTokens (if r.fetching = 0 then s else dropReads s h) p h
        let s := dropImage (dropExtents (foldEnd s h reason stop) p h) h
        let s := if st = .failed then stwEvent s 0x6031 2 (some p) (some (rReq r)) (leBytes 1 reason) else s
        match reqOf s h with
        | some r => draftCheck (retireCheck (postRec s (rCq r) (some h) (completionRec s r reason stop answer event)) p) p
        | none => s

/-- A KEEP request stops: it pauses and posts its record (R270, R292). -/
def keepStop (s : State) (h stop answer : Nat) : State :=
  match reqOf s h with
  | none => s
  | some r =>
      let s := setReq s h { r with
        st := .paused, pausedFrom := r.st, pause := some .keepStop, pausedAt := s.units, cancel := none, inFlight := false, cycle := none }
      let s := foldEnd s h 1 stop
      match reqOf s h with
      | some r => postRec s (rCq r) (some h) (completionRec s r 1 stop answer 0)
      | none => s

/-- A count table with one more of a token; a token that would be the 8,193rd is not tracked (R281). -/
def countIn (counts : List (Nat × Nat)) (id : Nat) : List (Nat × Nat) :=
  match lookupN counts id with
  | some c => putN counts id (min (c + 1) 65535)
  | none => if counts.length < 8192 then putN counts id 1 else counts

/-- The count of one token in a request's table of 8,192 identifiers (R281). -/
def countToken (s : State) (h : Nat) (id : Nat) : State :=
  match reqOf s h with
  | none => s
  | some r =>
      if (lookupN r.counts id).isSome || r.counts.length < 8192 then setReq s h { r with counts := countIn r.counts id }
      else
        let s := setReq s h { r with untracked := true }
        if r.untracked then s else stwEvent s 0x6036 0 (some r.part.val) (some (rReq r)) []

/-- Pending records of a request's token queue; a port that is not UP counts as full (R288, R533). -/
def tokenPending (s : State) (q : Nat) : Nat :=
  match queueAt s q with
  | some w => if portUp s (portOf q) then qPending w else 64
  | none => 64

/-! Inputs of a request, from the host (R271, R285, R292) or from a replayed record (R392). -/

/-- The extents of a length: rounded up to whole pages (R247). -/
def reservedFor (n : Nat) : Nat := min 4194304 (alignUp n 32)
/-- The stop record as the Steward holds it (R283). -/
def stopFields (stop : Bytes) (maxNew maxLen genBase : Nat) : Bytes :=
  putAt (sliceB stop 0 576) 0x28 (leBytes 4 maxNew ++ leBytes 4 maxLen ++ leBytes 4 genBase)

/-- Masks that apply from the next index on enter the Plate before its draw (R383). -/
def foldMask (s : State) (h at_ : Nat) (bitmap : Bytes) : State := foldReq s h 0x11 (leBytes 4 at_ ++ sha256 bitmap)
def foldMasks (s : State) (h : Nat) : State :=
  match reqOf s h with
  | some r => (r.masks.filter (fun m => m.1 == r.tokens.length)).foldl (fun s m => foldMask s h m.1 m.2) s
  | none => s

/-- An accepted MASK (R280): updates stand in the order of their AT. A cycle in flight commits nothing from its AT on (R303). -/
def applyMask (s : State) (h at_ : Nat) (bitmap : Bytes) : State :=
  match reqOf s h with
  | none => s
  | some r =>
      let s := setReq s h { r with
        masks := insertBy (fun (a b : Nat × Bytes) => decide (a.1 < b.1)) (at_, bitmap) r.masks
        cycle := r.cycle.map (fun x => { x with limit := some (match x.limit with | some n => min n at_ | none => at_) }) }
      let s := logInput s r.part.val 0x03 0 (some (rReq r)) (some at_) (leBytes 4 at_ ++ bitmap)
      if at_ = r.tokens.length && !r.chain.isEmpty then foldMask s h at_ bitmap else s

/-- A cancel takes effect (R285). -/
def cancelNow (s : State) (h : Nat) : State :=
  match reqOf s h with
  | none => s
  | some r =>
      let s := logInput s r.part.val 0x04 0 (some (rReq r)) (some r.tokens.length) [1#8, 0#8]
      endRequest s h .cancelled 2 0 1 0

/-- A prefill step of the request is in flight. -/
def prefilling (s : State) (h : Nat) (r : Request) : Bool :=
  match jobOf s r.part.val with
  | some j => j.regions.any (fun e => e.2.busy && e.2.prefill.any (fun t => t.slot == h))
  | none => false

/-- A cancel arrives: at once where no commit point is to come, else it is held (R285); while a module reset is held none is decided
(R463). -/
def applyCancel (s : State) (h : Nat) (q cq : BitVec 16) : State :=
  match reqOf s h with
  | none => s
  | some r =>
      if s.fin.held.isSome || r.st = .decode || (r.st = .prefill && prefilling s h r) then
        if r.cancel.isSome then s else setReq s h { r with cancel := some (q, cq) }
      else cancelNow s h

/-- A request's time-to-live has run out (R290). -/
def expireReq (s : State) (h : Nat) : State :=
  match reqOf s h with
  | none => s
  | some r =>
      let s := stwEvent s 0x6034 0 (some r.part.val) (some (rReq r)) []
      let s := logInput s r.part.val 0x04 0 (some (rReq r)) (some r.tokens.length) [0#8, 1#8]
      endRequest s h .cancelled 3 0 0 0

/-- A paused KEEP request (R270, R273). -/
def keepPaused (r : Request) : Bool := rKeep r && r.st == .paused && r.pause == some .keepStop

/-- An accepted CONTINUE (R292): its 128 B entry and the tokens it appends. -/
def applyContinue (s : State) (h : Nat) (entry : Bytes) (tokens : List W32) : State :=
  match reqOf s h with
  | none => s
  | some r =>
      let bytes := tokens.flatMap (fun t => leBytes 4 t.toNat)
      let maxNew := leAt entry 0x14 4
      let base := rLength r + tokens.length
      let s := logInput s r.part.val 0x05 0 (some (rReq r)) (some r.tokens.length) (sliceB entry 0 128 ++ bytes)
      let s := foldReq s h 0x12 (leBytes 4 tokens.length ++ leBytes 4 maxNew ++ sha256 bytes)
      let s := updReq s h (fun r => { r with
        appended := r.appended ++ tokens.map (fun t => (r.tokens.length, t)), st := .resuming, pause := none, genBase := base
        genStart := r.tokens.length, maxNew := maxNew
        stop := stopFields r.stop maxNew (reservedFor (base + maxNew)) base })
      if rCountPrompt r then tokens.foldl (fun s t => countToken s h t.toNat) s else s

/-- An accepted RELEASE (R271). -/
def applyRelease (s : State) (h : Nat) : State :=
  match reqOf s h with
  | none => s
  | some r => endRequest (logInput s r.part.val 0x06 0 (some (rReq r)) (some r.tokens.length) []) h .done 8 0 0 0

/-- A replayed input whose index has come (R392). -/
def applyInput (s : State) (h type : Nat) (payload : Bytes) : State :=
  if type = 3 then applyMask s h (leAt payload 0 4) (payload.drop 4)
  else if type = 4 then if byteAt payload 1 = 1 then expireReq s h else applyCancel s h 0 0
  else if type = 5 then
    applyContinue s h (sliceB payload 0 128) ((chunks 4 (payload.drop 128)).map (fun b => BitVec.ofNat 32 (leNat b)))
  else if type = 6 then applyRelease s h
  else s

/-- The replayed inputs of a request that are due: CONTINUE and RELEASE wait for the pause. -/
def applyInputs (s : State) (h : Nat) : State :=
  match reqOf s h with
  | none => s
  | some r =>
      let due := fun (e : Nat × Byte × Bytes) =>
        decide (e.1 ≤ r.tokens.length) && ((e.2.1 != 5#8 && e.2.1 != 6#8) || keepPaused r)
      let s := setReq s h { r with inputs := r.inputs.filter (fun e => !due e) }
      (r.inputs.filter due).foldl (fun s e => applyInput s h e.2.1.toNat e.2.2) s

/-- What decides at a commit point once the token is committed (R285, R288, R292): a stop code, a cancel that the Logbook can
record (R391), or back-pressure. A stop that meets a held cancel ends the request, KEEP or not (log entry 76). -/
def commitDecide (s : State) (h stop : Nat) : State :=
  match reqOf s h with
  | none => s
  | some r =>
      let p := r.part.val
      let index := r.tokens.length - 1
      let can := r.cancel.isSome && logReady s p 2
      let s := if r.cancel.isSome && !can then logStall s p else s
      if stop ≠ 0 then
        let s := if can then logInput s p 0x04 0 (some (rReq r)) (some index) [2#8, 0#8] else s
        let answer := if r.cancel.isSome then 2 else 0
        if rKeep r && r.cancel.isNone then keepStop s h stop 0 else endRequest s h .done 1 stop answer 0
      else if can then
        let s := logInput s p 0x04 0 (some (rReq r)) (some index) [1#8, 0#8]
        endRequest s h .cancelled 2 0 1 0
      else if tokenPending s (rTq r) < 64 || r.st = .paused then s
      else
        let s := setReq s h { r with
          st := .paused, pausedFrom := .decode, pause := some .backpressure, pausedAt := s.units, pressed := true }
        let s := if r.pressed then s else stwEvent s 0x6032 0 (some p) (some (rReq r)) []
        logPause s p h

/-- Cancels that a held reset kept open, of requests with no commit point to come, are decided at the first commit point (R463). -/
def heldCancels (s : State) : State :=
  (s.reqs.filter (fun e => e.2.cancel.isSome && (e.2.st == .queued || e.2.st == .paused)
    && logReady s e.2.part.val 2)).foldl (fun s e => cancelNow s e.1) s

/-- Step number of the head region's step in flight. -/
def headStep (s : State) (p : Nat) : W64 :=
  match jobOf s p with
  | some j => (match headOf j with | some i => (regionRun s p i).stepNum | none => j.nextStep)
  | none => 0

/-- Requests of a partition in DECODE. -/
def decoding (s : State) (p : Nat) : Nat := (s.reqs.filter (fun e => e.2.part.val == p && e.2.st == .decode)).length
/-- A decode step counts for a request's controller in OFF; not while cycles are suspended above SPEC_LIMIT (R300, R308). -/
def waitCounts (s : State) (r : Request) : Bool := r.specOff && decide (decoding s r.part.val ≤ obj s 0x5110 3)

/-- The commit point of a token record that has landed (R285 to R288): the token is committed, the decision follows, and what
takes effect at the next index enters before its draw. -/
def commitPoint (s : State) (h : Nat) (bs : Bytes) : State :=
  match reqOf s h with
  | none => s
  | some r =>
      let word := leAt bs 8 4
      let id := word % 2 ^ 18
      let step := headStep s r.part.val
      let s := setReq s h { r with
        tokens := r.tokens ++ [BitVec.ofNat 18 id], ring := r.ring ++ [sliceB bs 0 32], inFlight := false,
        order := s.stw.nextOrder, lastStep := step, st := if r.st = .prefill then .decode else r.st
        specWait := if waitCounts s r then r.specWait + 1 else r.specWait }
      let s := updStw s (fun t => { t with nextOrder := t.nextOrder + 1 })
      let s := if id = 0x3FFFF then s else countToken s h id
      let s := heldCancels (commitDecide s h (bitsOf word 20 18))
      match reqOf s h with
      | some r => if reqFinal r then s else applyInputs (foldMasks s h) h
      | none => s

/-- END and HALT finish once the queues are empty (R141, R190); the control core is signalled with STATE. That a HALT signals too is a
DESIGN CHOICE (log entry 152). -/
def drainEnd (s : State) (c : Nat) : State :=
  let v := coreOf s c
  let empty := v.meq.isEmpty && v.veq.isEmpty && v.seqe.isEmpty && v.teq.isEmpty
  if (v.ending && empty) || (v.halting && empty && v.te.isEmpty) then
    doorbellAt (setCore s c { v with run := false, ending := false, halting := false, seqState := .stopped })
      (clusterOf c) (0x10 + coreIn c) 0
  else s

/-- Halt a sequencer: issue stops at the next command boundary (R141). -/
def haltSeq (s : State) (c : Nat) : State :=
  let v := coreOf s c
  if v.run && v.seqState != .errored then drainEnd (setCore s c { v with halting := true }) c else s

/-- Halt the sequencers of a partition. -/
def haltPart (s : State) (p : Nat) : State := (partCores s p).foldl haltSeq s

/-- The SHA-256 of an Instar job's master weights, in tensor order (R383). -/
def masterDigest (i : Instar) : Bytes :=
  sha256 (i.tensors.flatMap (fun t => t.master.flatMap (fun b => leBytes 2 b.toNat)))

/-! θ (R74 to R77). -/

/-- A new θ_next; a change is reported. -/
def setTheta (s : State) (p : Nat) (theta : F32) (warm : Bool) : State :=
  let old := (partOf s p).thetaNext
  let s := updPart s p (fun t => { t with thetaNext := theta, thetaWarm := warm })
  if theta = old then s else stwEvent s 0x5022 0 (some p) none []

/-- θ_next of a partition at the end of a job that took N4 stripes (R76). -/
def adjustTheta (s : State) (p : Nat) (j : Job) : State :=
  let sum := fun (f : Nat → Nat) => ((partCores s p).map f).sum
  let n := sum (fun c => bitsOf (creg s c 0x318) 63 32)
  if obj s 0x4310 1 = 0 || n < 65536 then s
  else
    let o := sum (fun c => bitsOf (creg s c 0x308) 63 32 + bitsOf (creg s c 0x308) 31 0 + bitsOf (creg s c 0x310) 63 32)
    let u : Rat := if j.useCount = 0 then 1 else j.useSum / j.useCount
    let th := toRat32 j.theta
    let x : Rat := if n < 4096 * o then th * 5 / 4 else if o = 0 ∧ u < 1 / 4 then th * 7 / 8 else th
    let lo := toRat32 (BitVec.ofNat 32 (obj s 0x4310 2))
    let hi := toRat32 (BitVec.ofNat 32 (obj s 0x4310 3))
    setTheta s p (ofRat32 (min hi (max lo (mkRat (rneRat (x * 8)) 8)))) true

/-- The completion record and the event at the end of an Instar job (R347). -/
def instarEnd (s : State) (p : Nat) (i : Instar) (done : Bool) (event : Nat) : State :=
  let j := jobOf s p
  let plate := match j with | some j => j.chain | none => zeros 32
  let s := stwEvent s 0x6062 0 (some p) none []
  postRec s (leAt i.desc 6 2) none (leBytes 1 1 ++ leBytes 1 (if done then 5 else 7) ++ leBytes 1 (if done then 1 else 7)
    ++ [0#8] ++ leBytes 4 0xFFFFFFFF ++ zeros 12 ++ leBytes 2 event ++ leBytes 2 0 ++ leBytes 8 i.step ++ sliceB plate 0 32)

/-- An event of the control core that owns a Heliostat port: that of cluster 0 of its site (log entry 28). -/
def hlEvent (s : State) (d code sev : Nat) (detail : Bytes) : State := raise s code sev (dieUnit d 12) (d * 16) detail

/-- The port enters TRANSIT or PIPELINE (R541). -/
def hlUp (s : State) (d st : Nat) : State :=
  hlEvent (updHl s d (fun h => { h with st := Fin.ofNat 8 st, draining := false })) d 0x7030 0 [BitVec.ofNat 8 st]

/-- The job pipelines over a partition's ports end with its job; a draining link falls to TRANSIT (R545). -/
def endHops (s : State) (p : Nat) : State :=
  (partSites s p).foldl (fun s d =>
    let h := hlOf s d
    let s := if h.sentStep.isSome || h.ackedStep.isSome then updHl s d (fun h => { h with sentStep := none, ackedStep := none })
      else s
    if h.draining && h.st == 5 then hlEvent (hlUp s d 4) d 0x7033 0 [] else s) s

/-- End the job of a partition (R267, R347, R365, R367): its requests fail, its Plate takes the END fold (whose STATE is open
for a serving job, log entry 23), the Logbook records it, θ_next moves (R76), and the partition is cleared before another job
(R565). `reason` is the REASON of the requests' records and the JOB_END record's byte; an Instar job that ends at STEPS has
reason 1. -/
def endJob (s : State) (p reason event : Nat) : State :=
  match jobOf s p with
  | none => s
  | some j =>
      let s := (partReqs s p).foldl (fun s h => endRequest s h .failed reason 0 0 event) s
      let s := haltPart s p
      let s := match j.instar with
        | some i =>
            let s := foldJob s p 0x15 (sliceB ([if reason = 1 then 5#8 else 7#8, if reason = 1 then 1#8 else 7#8]) 0 16
              ++ masterDigest i)
            instarEnd s p i (reason == 1) event
        | none =>
            let f := freeBytes s 1
            foldJob f.2 p 0x15 (f.1 ++ [BitVec.ofNat 8 reason, 0#8] ++ zeros 8)
      let s := logInput s p 0x0C 0 none none [BitVec.ofNat 8 reason]
      let s := if j.running then adjustTheta s p j else s
      let s := if obj s 0x4500 2 = p then { s with binoState := 0 } else s
      let s := endHops s p
      updPart s p (fun t => { t with
        job := none, clearing := true, lastLayout := j.digest
        lastQual := (List.range (jobRegions j).length).map (fun i =>
          let r := getN regionRunZero j.regions i
          (r.qualM, r.qualN))
        clearDesc := t.clearDesc ++ (sweepDesc j).toList ++ (j.draft.map (fun x => x.file.body.sweep)).toList, share := none, shareWarm := false
        sharePeriods := 0 })

/-- A program error ends the job of a partition (R189, R267). -/
def programEnd (s : State) (p : Nat) : State := endJob s p 4 0x5041

end Sys2Proof.Machine
end

