-- ==== Sys2Proof/Machine/CoreOps.lean ====
section
/-! DEFINITION. What every core command shares: the command word (R182 to R184), command errors (R188, R189), the engine
queues (R117, R118), completion (R128, R183), the grant arbiter (R216 to R219) and the code protection of reads (R352). -/

namespace Sys2Proof.Machine

/-! The command word. -/

def wOpc (w : Nat) : Nat := bitsOf w 127 120
def wCtv (w : Nat) : Bool := bitOf w 119
def wCtd (w : Nat) : Bool := bitOf w 118
def wCtsem (w : Nat) : Nat := bitsOf w 117 113
def wMod (w : Nat) : Nat := bitsOf w 111 96
def wA (w : Nat) : Nat := bitsOf w 95 78
def wB (w : Nat) : Nat := bitsOf w 77 60
def wC (w : Nat) : Nat := bitsOf w 59 42
def wN (w : Nat) : Nat := bitsOf w 41 24
def wD (w : Nat) : Nat := bitsOf w 17 0
/-- Length and address of form G. -/
def gN (w : Nat) : Nat := bitsOf w 77 60
def gAddr (w : Nat) : Nat := bitsOf w 55 0
/-- Fields of a global address (R10). -/
def aDie (g : Nat) : Nat := bitsOf g 55 49
def aSpace (g : Nat) : Nat := bitsOf g 48 46
def aCluster (g : Nat) : Nat := bitsOf g 45 42
def aCore (g : Nat) : Nat := bitsOf g 41 38
def aOff (g : Nat) : Nat := bitsOf g 37 0
def mkAddr (die space cl co off : Nat) : Nat :=
  die * 2 ^ 49 + space * 2 ^ 46 + cl * 2 ^ 42 + co * 2 ^ 38 + off

/-- Queue of an opcode (R186): 0 sequencer, 1 MEQ, 2 VEQ, 3 SEQE, 4 TEQ; none for an unassigned opcode. -/
def opQueue (o : Nat) : Option Nat :=
  if o ≤ 0x06 || o == 0x61 || o == 0x62 then some 0
  else if o == 0x20 || o == 0x21 then some 1
  else if [0x30, 0x31, 0x40, 0x41, 0x42, 0x43, 0x44, 0x60, 0x64, 0x80, 0x81, 0x82, 0x83, 0xA0, 0xA1, 0xA3].contains o then some 2
  else if o == 0x10 || o == 0x63 then some 3
  else if [0x12, 0x13, 0x50, 0x70, 0x71, 0x72, 0x73, 0x74, 0x75, 0x84, 0x90, 0xA2].contains o then some 4
  else none

/-- Operand form of an opcode: 0 Q, 1 L, 2 G, 3 D (R186). -/
def opForm (o : Nat) : Nat :=
  if [0x20, 0x21, 0x30, 0x50, 0x60].contains o then 3
  else if [0x12, 0x13, 0x70, 0x71, 0x72, 0x73, 0x75, 0x84].contains o then 2
  else if o ≤ 0x06 || [0x61, 0x62, 0x74].contains o then 0
  else 1

/-- The MOD values that each opcode assigns (R186 to R207). -/
def modOk (o m : Nat) : Bool :=
  if o == 0x10 || o == 0x31 || o == 0x90 then decide (m < 2)
  else if o == 0x20 || o == 0x21 then decide (m < 16)
  else if o == 0x30 then decide (m < 64) && decide (m % 4 < 2) && decide (m / 4 % 4 < 3) && decide (m / 16 < 3)
  else if o == 0x40 then decide (m < 256) && decide (m % 64 ≤ 0x14)
  else if o == 0x41 then decide (m < 256) && decide (m % 64 < 3)
  else if o == 0x42 then decide (m < 256) && decide (m % 64 < 16) && decide (m % 4 < 2) && decide (m / 4 % 4 < 3)
  else if o == 0x43 || o == 0x44 then decide (m < 256) && decide (m % 64 = 0)
  else if o == 0x70 then decide (m < 3)
  else if o == 0x72 || o == 0x73 then decide (m < 256)
  else if o == 0xA3 then decide (m < 2048)
  else decide (m = 0)

/-- ILLEGAL (R189): an unassigned opcode or MOD value, a reserved field that is not zero, or R183 broken. -/
def wordIllegal (w : Nat) : Bool :=
  let o := wOpc w
  (opQueue o).isNone || bitOf w 112 || !modOk o (wMod w)
    || (opForm o == 1 && bitsOf w 23 18 != 0) || (opForm o == 2 && bitsOf w 59 56 != 0)
    || (opForm o == 3 && bitsOf w 77 0 != 0)
    || (wCtd w && (!wCtv w || !([0x70, 0x72, 0x73, 0x75].contains o)))

/-! Error codes of R189. -/

def eIllegal : Nat := 0x20
def eSpadRange : Nat := 0x21
def eAlign : Nat := 0x22
def eScale : Nat := 0x23
def ePairing : Nat := 0x24
def eStride : Nat := 0x25
def eDesc : Nat := 0x26
def eSemOverflow : Nat := 0x27
def eLevel : Nat := 0x28
def eMismatch : Nat := 0x29
def eFormat : Nat := 0x2A
def eVaultRange : Nat := 0x2B
def eUncorrectable : Nat := 0x09
def eFenced : Nat := 0x07

/-- CLASS of a code: 2 fault, 1 program (R189). -/
def errClass (code : Nat) : Nat := if code == eFenced || code == eUncorrectable || code == eFormat then 2 else 1

/-- The SEQ_ERR value of a failure (R209). -/
def seqErrWord (index code queue opc operand : Nat) : Nat :=
  index % 2 ^ 32 * 2 ^ 32 + code * 2 ^ 24 + queue * 2 ^ 20 + errClass code * 2 ^ 16 + opc * 2 ^ 8 + operand

/-! Queues of a core. -/

def queueOf (v : CoreState) (q : Nat) : List Issued :=
  if q = 1 then v.meq else if q = 2 then v.veq else if q = 3 then v.seqe else if q = 4 then v.teq else []
def setQueue (v : CoreState) (q : Nat) (l : List Issued) : CoreState :=
  if q = 1 then { v with meq := l } else if q = 2 then { v with veq := l } else if q = 3 then { v with seqe := l }
  else if q = 4 then { v with teq := l } else v

/-- An engine abandons the command at the head of its queue: a stream ends early, and a matrix command is given up (R188). -/
def abandon (v : CoreState) (q : Nat) : CoreState :=
  if q = 1 then { v with me := none }
  else if q = 2 then { v with reduceDone := none }
  else if q = 3 then { v with
    se := none
    fifo := match v.fifo.getLast? with | some t => v.fifo.dropLast ++ [{ t with whole := true }] | none => [] }
  else v

/-- A command fails (R188): its queue is discarded, the sequencer stops with STATE 0b11, SEQ_ERR records it, event 0x5041 is
raised and the control core is signalled; a program error also ends the job (R189). -/
def failCommand (s : State) (c queue index code opc operand : Nat) : State :=
  let word := seqErrWord index code queue opc operand
  let s := updCore s c (fun v => { setQueue (abandon v queue) queue [] with run := false, ending := false, halting := false, seqState := .errored })
  let s := setCreg s c 0x30 word
  let e := { ev 0x5041 2 (coreUnit c 8 0) (clusterOf c) (leBytes 8 word) with
    opc := some (BitVec.ofNat 8 opc, BitVec.ofNat 32 index) }
  let s := doorbellAt (emit s (clusterOf c) e) (clusterOf c) (0x10 + coreIn c) 3
  if errClass code = 1 then
    match corePart s c with
    | some p => programEnd s p
    | none => s
  else s

/-- The completion token of a command that is complete (R128, R183). -/
def finishToken (s : State) (c queue index opc : Nat) (token : Option Nat) : State :=
  match token with
  | none => s
  | some n =>
      let r := signalSem s c n 1 (some (opc, index))
      if r.2 then failCommand r.1 c queue index eSemOverflow opc 0 else r.1

/-- The token that a command signals on its own core. -/
def ownToken (w : Nat) : Option Nat := if wCtv w && !wCtd w then some (wCtsem w) else none

/-- What executing a command at the head of an engine queue comes to. -/
inductive EngRes where
  /-- it is complete -/
  | done (s : State)
  /-- it has left the engine and completes later -/
  | left (s : State)
  /-- it fails with a code and an operand code of R209 -/
  | fail (s : State) (code operand : Nat)
  /-- it has done part of its work and stays at the head of its queue -/
  | wait (s : State)
  /-- it cannot start yet -/
  | hold

/-- The core's clocks can run: its site is powered, its rail and clocks are on, and the module is not in DIAPAUSE (R454). -/
def coreOn (s : State) (c : Nat) : Bool :=
  (siteSt s (siteOf c)).powered && !(clOf s (clusterOf c)).clocksOff && s.fin.pwr != 2

/-- A command has left the head of its queue; its scratchpad accesses have met others at the banks (R124 to R126). -/
def popEngine (s : State) (c queue : Nat) : State :=
  bankTraffic (updCore s c (fun v => setQueue v queue ((queueOf v queue).drop 1))) c

/-- Execute the head of an engine queue when it is a command of this opcode (R118). -/
def runEngine (s : State) (c queue opc : Nat) (body : State → Issued → Nat → EngRes) : State :=
  match queueOf (coreOf s c) queue with
  | [] => s
  | i :: _ =>
      let w := i.word.toNat
      if !coreOn s c || wOpc w != opc then s
      else if wordIllegal w then failCommand s c queue i.index.toNat eIllegal opc 0
      else match body s i w with
        | .hold => s
        | .wait s => s
        | .fail s code operand => failCommand s c queue i.index.toNat code opc operand
        | .left s => drainEnd (popEngine s c queue) c
        | .done s => drainEnd (finishToken (popEngine s c queue) c queue i.index.toNat opc (ownToken w)) c

/-! Operand checks. -/

def spadOver (g n : Nat) : Bool := decide (Config.spadSize < 8 * g + n)
/-- Contract level of the job (R211). -/
def coreLevel (s : State) (c : Nat) : Nat := bitsOf (creg s c 0x40) 31 24
def coreJob (s : State) (c : Nat) : Nat := bitsOf (creg s c 0x40) 63 32
def stepNum (s : State) (c : Nat) : Nat := creg s c 0x38
def coreTheta (s : State) (c : Nat) : F32 := BitVec.ofNat 32 (creg s c 0x320)

/-- Read n scratchpad bytes for an engine: the range (R123) and poison (R353) are checked. -/
def opRead (s : State) (c g n operand : Nat) (k : Bytes → EngRes) : EngRes :=
  if spadOver g n then .fail s eSpadRange operand
  else if spadPoisoned s c (8 * g) n then .fail s eUncorrectable operand
  else k (spadRead s c (8 * g) n)

/-- Check the range of a result before it is formed. -/
def opRoom (s : State) (g n operand : Nat) (k : EngRes) : EngRes :=
  if spadOver g n then .fail s eSpadRange operand else k

/-- A descriptor of `size` bytes in scratchpad, aligned to its size (R185), with zero in bits [lowReserved-1:0]. -/
def opDesc (s : State) (c g size reserved : Nat) (k : Nat → EngRes) : EngRes :=
  if 8 * g % size ≠ 0 then .fail s eAlign 1
  else opRead s c g size 1 (fun b =>
    let d := leNat b
    if d % 2 ^ reserved ≠ 0 then .fail s eIllegal 5 else k d)

/-- Write bytes that end on half a granule: the half that the command does not name is a free value (log entry 12). -/
def spadWritePadded (s : State) (c a : Nat) (b : Bytes) : State :=
  if b.length % 8 = 0 then spadWrite s c a b
  else
    let f := freeBytes s (8 - b.length % 8)
    spadWrite f.2 c a (b ++ f.1)

/-- The 32-bit floats of a byte string. -/
def toF32s (b : Bytes) : List F32 := (chunks 4 b).map (fun x => BitVec.ofNat 32 (leNat x))

/-- What the code saw while a command read a vault (R352, R353): counts, events and newly poisoned granules; the numbers in
`ue` are granule numbers of the memory read. -/
def vaultEcc (s : State) (k a n : Nat) (e : EccObs) : State :=
  let ue := e.ue.filter (fun g => (granules a n).contains g)
  let s := bumpK (bumpK (bumpK s k 0x30 63 32 e.ce1) k 0x30 31 16 e.ce2) k 0x30 15 0 ue.length
  let s := if e.ce2 = 0 then s else doorbellAt (raise s 0x4010 0 (clusterUnit k 11) k []) k 0x40 0x4010
  if ue.isEmpty then s
  else
    let s := updCl s k (fun v => { v with vault := memPoison v.vault ue })
    doorbellAt (raise s 0x4011 1 (clusterUnit k 11) k (leBytes 8 (ue.getD 0 0 * 8))) k 0x40 0x4011

/-- The same for a scratchpad. -/
def spadEcc (s : State) (c a n : Nat) (e : EccObs) : State :=
  let k := clusterOf c
  let ue := e.ue.filter (fun g => (granules a n).contains g)
  let s := bumpC (bumpC (bumpC s c 0x380 63 32 e.ce1) c 0x380 31 16 e.ce2) c 0x380 15 0 ue.length
  let s := if e.ce2 = 0 then s else doorbellAt (raise s 0x4010 0 (coreUnit c 10 0) k []) k (0x20 + coreIn c) 0x4010
  if ue.isEmpty then s
  else
    let s := updCore s c (fun v => { v with spad := memPoison v.spad ue })
    doorbellAt (raise s 0x4012 1 (coreUnit c 10 (ue.getD 0 0 / 32 % 16)) k (leBytes 8 (ue.getD 0 0 * 8))) k (0x20 + coreIn c)
      0x4012

/-! Grants of a core (R216 to R219). -/

/-- The four MEs of a core request grants. -/
def coreRequests (s : State) (c : Nat) (cls : GrantClass) : State :=
  (List.range 4).foldl (fun s m => requestGrant s (clusterOf c) (coreIn c * 4 + m) cls) s

/-- Some ME of the core holds a grant of a class, and the budget in force is not zero (R218, R219). -/
def coreGranted (s : State) (c : Nat) (cls : GrantClass) : Bool :=
  (clOf s (clusterOf c)).grants.any (fun g => g.1 / 4 == coreIn c && g.2 == cls) && decide (0 < inForce s (clusterOf c))

/-! Regions of the running layout. -/

/-- The partition and region that a core works for. -/
def regionOf (s : State) (c : Nat) : Option (Nat × Nat) :=
  match corePart s c with
  | none => none
  | some p => match jobOf s p with
    | none => none
    | some j => ((jobRegions j).findIdx? (fun r => r.cores.any (fun xy => relCore s p xy == c))).map (fun i => (p, i))

/-- Count non-finite outputs and report the first of the region's step (R91). -/
def countNonFinite (s : State) (c index opc nonfinite overflow : Nat) : State :=
  if nonfinite = 0 then s
  else
    let s := bumpC (bumpC s c 0x358 63 32 nonfinite) c 0x358 31 0 overflow
    let seen := match regionOf s c with
      | some pr => (regionRun s pr.1 pr.2).nfSeen
      | none => (coreOf s c).nfSeen
    if seen then s
    else
      let s := match regionOf s c with
        | some pr => updRegion s pr.1 pr.2 (fun r => { r with nfSeen := true })
        | none => updCore s c (fun v => { v with nfSeen := true })
      emit s (clusterOf c) { ev 0x5035 0 (coreUnit c 1 0) (clusterOf c) [] with
        opc := some (BitVec.ofNat 8 opc, BitVec.ofNat 32 index) }

end Sys2Proof.Machine
end

