-- ==== Sys2Proof/Machine/SeqCmds.lean ====
section
/-! DEFINITION. The sequencer (R117, R141, R142, R190, R201, R373): issue to the engine queues, its own commands, start, halt
and resume; and the release of ME grants and engine clock gating (R216, R455). -/

namespace Sys2Proof.Machine

/-- Byte address of the next command. -/
def cmdAddr (v : CoreState) : Nat := v.window.toNat * 16 + v.cmdIndex.toNat * 16

/-- A scratchpad row as a fetch finds it (R121). -/
def fetchRow (v : CoreState) (r : Nat) : FetchedRow :=
  { row := r, bytes := memRead v.spad (256 * r) 256
    poison := (v.spad.poison.filter (fun g => g / 32 == r)).map (fun g => g % 32) }
/-- A row that is held, or as a fetch finds it. -/
def heldRow (v : CoreState) (r : Nat) : FetchedRow := (v.rows.find? (fun x => x.row == r)).getD (fetchRow v r)
/-- The sequencer fetches as far ahead as it may: it holds the row in issue and the next (R121, log entry 123). -/
def fetchAhead (v : CoreState) : CoreState :=
  let r := cmdAddr v / 256
  { v with rows := [heldRow v r, heldRow v (r + 1)] }

/-- The next command word. -/
def nextWord (s : State) (c : Nat) : Nat :=
  let v := coreOf s c
  leAt (heldRow v (cmdAddr v / 256)).bytes (cmdAddr v % 256) 16

/-- The sequencer is running and may look at its next command. -/
def seqLive (s : State) (c : Nat) : Bool :=
  let v := coreOf s c
  coreOn s c && v.run && !v.ending && !v.halting && v.seqState != .errored

/-- The next command can be fetched: it lies in the scratchpad and is not poisoned (R123, R353). -/
def fetchFault (s : State) (c : Nat) : Option Nat :=
  let v := coreOf s c
  let a := cmdAddr v
  if Config.spadSize < a + 16 then some eSpadRange
  else if (heldRow v (a / 256)).poison.any (fun g => g / 2 == a % 256 / 16) then some eUncorrectable else none

/-- The sequencer goes on at a command. -/
def goTo (v : CoreState) (index : W32) : CoreState := fetchAhead { v with cmdIndex := index, seqState := .running, gated := false }
def advance (v : CoreState) : CoreState := goTo v (v.cmdIndex + 1)

/-- A sequencer command acts when the next word has its opcode; when it is complete it signals its token (R183). -/
def runSeq (s : State) (c opc : Nat) (body : State → Nat → EngRes) : State :=
  let ix := (coreOf s c).cmdIndex.toNat
  if !seqLive s c then s
  else if (fetchFault s c).isSome then s
  else
    let w := nextWord s c
    if wOpc w ≠ opc then s
    else if wordIllegal w then failCommand s c 0 ix eIllegal opc 0
    else match body s w with
      | .hold => s
      | .wait s => s
      | .left s => s
      | .fail s code operand => failCommand s c 0 ix code opc operand
      | .done s => drainEnd (finishToken s c 0 ix opc (ownToken w)) c

/-- SEQUENCER_ISSUE (R117): the next command goes to its engine's queue with its index and the cursor it takes (R201). A full
queue holds it. A command that no fetch or opcode allows fails (R188). -/
def execSequencerIssue (c : CoreId) (s : State) : Out :=
  let c := c.val
  let v := coreOf s c
  .next (
    if !seqLive s c then s
    else match fetchFault s c with
      | some e => failCommand s c 0 v.cmdIndex.toNat e 0 0
      | none =>
        let w := nextWord s c
        match opQueue (wOpc w) with
        | none => failCommand s c 0 v.cmdIndex.toNat eIllegal (wOpc w) 0
        | some 0 => s
        | some q =>
          if 8 ≤ (queueOf v q).length then s
          else
            let i : Issued := { word := BitVec.ofNat 128 w, index := v.cmdIndex, xcur := BitVec.ofNat 64 (creg s c 0x48) }
            setCore s c (advance (setQueue v q (queueOf v q ++ [i]))))

/-- NOP. -/
def execNop (c : CoreId) (s : State) : Out :=
  .next (runSeq s c.val 0x00 (fun s _ => .done (updCore s c.val advance)))

/-- WAIT (R127): passes and subtracts once the count is at least n. -/
def execWait (c : CoreId) (s : State) : Out :=
  .next (runSeq s c.val 0x01 (fun s w =>
    let sem := bitsOf w 95 91
    let n := bitsOf w 79 64
    if n ≤ semOf s c.val sem then .done (updCore (setSem s c.val sem (semOf s c.val sem - n)) c.val advance)
    else .wait (updCore s c.val (fun v => { v with seqState := .waiting (Fin.ofNat 32 sem) }))))

/-- SIGNAL (R127, R130). -/
def execSignal (c : CoreId) (s : State) : Out :=
  .next (runSeq s c.val 0x02 (fun s w =>
    let r := signalSem s c.val (bitsOf w 95 91) (bitsOf w 79 64) (some (0x02, (coreOf s c.val).cmdIndex.toNat))
    if r.2 then .fail r.1 eSemOverflow 0 else .done (updCore r.1 c.val advance)))

/-- FENCE (R190): passes when every named queue is empty and every command taken from it is complete. -/
def execFence (c : CoreId) (s : State) : Out :=
  .next (runSeq s c.val 0x03 (fun s w =>
    let v := coreOf s c.val
    let clear := fun (bit : Nat) (q : Nat) => !bitOf w bit || (queueOf v q).isEmpty
    if clear 92 1 && clear 93 2 && clear 94 3 && clear 95 4 && (!bitOf w 95 || v.te.isEmpty) then
      .done (updCore s c.val advance)
    else .hold))

/-- Go to a command index; a target at or beyond the end of the scratchpad is DESC (R190). -/
def jumpTo (s : State) (c target : Nat) : EngRes :=
  if Config.spadSize ≤ (coreOf s c).window.toNat * 16 + target * 16 then .fail s eDesc 0
  else .done (updCore s c (fun v => goTo v (BitVec.ofNat 32 target)))

/-- JUMP (R190). -/
def execJump (c : CoreId) (s : State) : Out :=
  .next (runSeq s c.val 0x04 (fun s w =>
    let target := bitsOf w 95 79
    let sem := bitsOf w 77 73
    if !bitOf w 78 || semOf s c.val sem = 0 then jumpTo s c.val target
    else .done (updCore (setSem s c.val sem (semOf s c.val sem - 1)) c.val advance)))

/-- STEP (R190, R210): STEP_NUM += 1. The once-per-step marks of R91 and R99 start again. -/
def execStep (c : CoreId) (s : State) : Out :=
  .next (runSeq s c.val 0x05 (fun s _ =>
    let s := setCreg s c.val 0x38 (stepNum s c.val + 1)
    .done (updCore s c.val (fun v => { advance v with nfSeen := false, dupTaken := false, shdTaken := false }))))

/-- END (R190): issue stops; when every queue is empty RUN reads 0 and the control core is signalled. -/
def execEndCmd (c : CoreId) (s : State) : Out :=
  .next (runSeq s c.val 0x06 (fun s _ => .done (updCore s c.val (fun v => { advance v with ending := true }))))

/-- XCUR of a table, entry count and position (R212). -/
def xcurWord (table count pos : Nat) : Nat := table * 2 ^ 46 + count * 2 ^ 34 + pos * 2 ^ 22
def xTable (x : Nat) : Nat := bitsOf x 63 46
def xCount (x : Nat) : Nat := bitsOf x 45 34
def xPos (x : Nat) : Nat := bitsOf x 33 22

/-- XSEL (R200, R201): the cursor goes to entry 0 of the union table, and SEM is signalled with the entry count. The whole
table lies in the scratchpad (R189). -/
def execXsel (c : CoreId) (s : State) : Out :=
  .next (runSeq s c.val 0x61 (fun s w =>
    let g := bitsOf w 95 78
    opRead s c.val g 8 1 (fun b =>
      let n := leNat b % 2 ^ 12
      if spadOver g (8 * (1 + 5 * n)) then .fail s eSpadRange 1
      else
        let r := signalSem (setCreg s c.val 0x48 (xcurWord g n 0)) c.val (bitsOf w 77 73) n
          (some (0x61, (coreOf s c.val).cmdIndex.toNat))
        if r.2 then .fail r.1 eSemOverflow 0 else .done (updCore r.1 c.val advance))))

/-- XNEXT (R200, R201): past the last entry it fails with DESC. -/
def execXnext (c : CoreId) (s : State) : Out :=
  .next (runSeq s c.val 0x62 (fun s _ =>
    let x := creg s c.val 0x48
    if xCount x ≤ xPos x then .fail s eDesc 0
    else .done (updCore (setCreg s c.val 0x48 (xcurWord (xTable x) (xCount x) (xPos x + 1))) c.val advance)))

/-- Start the sequencer at BASE, or at an index with BASE unchanged (R141, R373): the window is BASE, and nothing is fetched yet.
Where RUN and HALT are both written 1, RUN's start is what remains (log entry 124). -/
def startSeq (s : State) (c : Nat) (base : Option (BitVec 17)) (index : Nat) : State :=
  updCore s c (fun v => goTo { v with
    run := true, ending := false, halting := false, base := base.getD v.base, window := base.getD v.base, rows := [] }
    (BitVec.ofNat 32 index))

/-- The control core writes SEQ_ERR to zero before it restarts a sequencer (R209). -/
def clearErr (s : State) (c : Nat) : State := if creg s c 0x30 = 0 then s else setCreg s c 0x30 0

/-- SEQ_RUN (R141): the control core writes RUN with BASE. Firmware refuses a window at or beyond SPAD_SIZE. -/
def execSeqRun (c : CoreId) (base : BitVec 17) (s : State) : Out :=
  .next (if !coreOn s c.val || Config.spadSize ≤ base.toNat * 16 then s else startSeq (clearErr s c.val) c.val (some base) 0)

/-- SEQ_HALT (R141): issue stops at the next command boundary; queued commands complete, and RUN then reads 0. -/
def execSeqHalt (c : CoreId) (s : State) : Out := .next (haltSeq s c.val)

/-- SEQ_RESUME (R373): written while the sequencer is stopped; GO starts it at INDEX. -/
def execSeqResume (c : CoreId) (index : BitVec 17) (s : State) : Out :=
  .next (if !coreOn s c.val || (coreOf s c.val).run then s
    else startSeq (setCreg (clearErr s c.val) c.val 0x50 index.toNat) c.val none index.toNat)

/-- The sweeps that a core has received and not yet served, in the order received (R254). -/
def sweepsToServe (s : State) (c : Nat) : List SweepRun :=
  match (corePart s c).bind (jobOf s) with
  | some j => j.sweeps.filter (fun w => w.taken && w.waiting.contains c && decide (w.size ≤ getN 0 w.received c))
  | none => []
/-- The sweep service of a core has a sweep to serve. -/
def sweepBusy (s : State) (c : Nat) : Bool := !(sweepsToServe s c).isEmpty

/-- An ME of a core has a block pair ready for work of a class (R216): a matrix command with blocks in the FIFO, a sweep to
serve (R254), a shadow recomputation (R107). -/
def pairReady (s : State) (c : Nat) (cls : GrantClass) : Bool :=
  let v := coreOf s c
  if cls = 0 then !v.meq.isEmpty && v.fifo.any (fun t => t.whole || !t.blocks.isEmpty || !t.values.isEmpty)
  else if cls = 1 then sweepBusy s c
  else v.shdTile.isSome

/-- GRANT_RELEASE (R216, R218): an ME gives its grant back; with a block pair ready it joins the back of its class. A grant above
a lowered IN_FORCE counts as withdrawn. -/
def execGrantRelease (cl : ClusterId) (me : Fin 64) (s : State) : Out :=
  let k := cl.val
  let c := clOf s k
  .next (match c.grants.find? (fun g => g.1 == me.val) with
    | none => s
    | some g =>
        let s := if inForce s k < c.grants.length then bumpK s k 0x28 31 16 1 else s
        let s := updCl s k (fun c => { c with grants := c.grants.erase g })
        let core := coreAt (k / 16) (k % 16) (me.val / 4)
        if pairReady s core g.2 then requestGrant s k me.val g.2 else regrant s k)

/-- ENGINE_CLOCK_GATE (R455): 64 FCLK have passed without an issue, and the sweep service is idle: the engines are
clock-gated, which changes no result; the next start or issue ends it. -/
def execEngineClockGate (c : CoreId) (s : State) : Out :=
  let v := coreOf s c.val
  .next (if v.meq.isEmpty && v.veq.isEmpty && v.seqe.isEmpty && v.teq.isEmpty && v.seqState != .running
      && !sweepBusy s c.val then setCore s c.val { v with gated := true } else s)

end Sys2Proof.Machine
end

