-- ==== Sys2Proof/Machine/Fences.lean ====
section
/-! DEFINITION. Links between routers (R152 to R154) and fencing (R362, R363, R370, R582). -/

namespace Sys2Proof.Machine

/-! Links. Ports: 0 local, 1 north, 2 east, 3 south, 4 west. -/

/-- Core and port that edge router e of I/O die d attaches to (R154). -/
def edgeCore (d e : Nat) : Nat × Nat :=
  let i := (d - 64) % 4
  if d < 68 then (32 * i + 8 + 16 * e, 1)
  else if d < 72 then ((32 * i + 8 + 16 * e) * 128 + 127, 2)
  else if d < 76 then (127 * 128 + (119 - 32 * i - 16 * e), 3)
  else ((119 - 32 * i - 16 * e) * 128, 4)

/-- Router number of an edge router. -/
def edgeRouter (d e : Nat) : Nat := 16384 + 2 * (d - 64) + e

/-- The edge router attached to an outward port of a core, if any. -/
def edgeAt (c p : Nat) : Option Nat :=
  ((List.range 16).flatMap (fun i => [(64 + i, 0), (64 + i, 1)])).findSome? (fun de =>
    if edgeCore de.1 de.2 = (c, p) then some (edgeRouter de.1 de.2) else none)

/-- Router and input port behind an output port; none where no link is. -/
def linkEnd (r p : Nat) : Option (Nat × Nat) :=
  if 16384 ≤ r then
    if p = 1 then some (edgeCore (64 + (r - 16384) / 2) ((r - 16384) % 2)) else none
  else
    let x := coreX r
    let y := coreY r
    if p = 1 then (if 0 < y then some (r - 128, 3) else (edgeAt r 1).map (·, 1))
    else if p = 2 then (if x < 127 then some (r + 1, 4) else (edgeAt r 2).map (·, 1))
    else if p = 3 then (if y < 127 then some (r + 128, 1) else (edgeAt r 3).map (·, 1))
    else if p = 4 then (if 0 < x then some (r - 1, 2) else (edgeAt r 4).map (·, 1))
    else none

/-- UNIT of a link: the end with the lower core number, or its core end (R370). -/
def linkUnit (r p : Nat) : Nat :=
  match linkEnd r p with
  | none => coreUnit r 9 p
  | some (r', p') => if 16384 ≤ r then coreUnit r' 9 p' else if r' < r then coreUnit r' 9 p' else coreUnit r 9 p

/-- Set or clear a router's LINK_DOWN bit of a port (R173, R179). -/
def setLinkDown (s : State) (r p : Nat) (down : Bool) : State :=
  let v := rreg s r 0x4C8
  setRreg s r 0x4C8 (if down then v ||| 2 ^ p else v - (v &&& 2 ^ p))
def linkDown (s : State) (r p : Nat) : Bool := bitOf (rreg s r 0x4C8) p
def localClosed (s : State) (r : Nat) : Bool := bitOf (rreg s r 0x4C8) 0

/-- Set LINK_DOWN at both ends of a link. -/
def bothEnds (s : State) (r p : Nat) (down : Bool) : State :=
  let s := setLinkDown s r p down
  match linkEnd r p with | some e => setLinkDown s e.1 e.2 down | none => s

/-- Ports of neighbours that face a site: (router, port). -/
def facingPorts (d : Nat) : List (Nat × Nat) :=
  ((siteCores d).flatMap (fun c => [1, 2, 3, 4].filterMap (fun p => linkEnd c p))).filter
    (fun e => decide (e.1 < 16384) && siteOf e.1 != d)

/-! Fences. -/

/-- UNIT fields of a fence entry. -/
def uDie (u : Nat) : Nat := bitsOf u 31 25
def uCluster (u : Nat) : Nat := bitsOf u 24 21
def uCore (u : Nat) : Nat := bitsOf u 20 17
def uScope (u : Nat) : Nat := bitsOf u 8 7
/-- A router's UNIT names the link that its index, a port from 1 to 4, faces (R370). -/
def uIsLink (u : Nat) : Bool := uScope u == 0 && bitsOf u 16 13 == 9 && decide (1 ≤ bitsOf u 12 9) && decide (bitsOf u 12 9 ≤ 4)

def fenced (s : State) (u : Nat) : Bool := s.stw.fences.any (fun f => f.unit.toNat == u)
def coreFenced (s : State) (c : Nat) : Bool := bitOf (kreg s (clusterOf c) 0x40) (16 + coreIn c)
def clusterFenced (s : State) (k : Nat) : Bool := bitOf (kreg s k 0x40) 1
def siteFenced (s : State) (d : Nat) : Bool := bitOf (kreg s (d * 16) 0x40) 0

/-- Enter a fence in the table, report it and broadcast it (R362, R363, R479). -/
def noteFence (s : State) (u cause : Nat) : State :=
  let rep := if uScope u < 2 then uDie u * 16 + uCluster u else stewardCc s
  let room := s.stw.fences.length < 256
  let ix := s.stw.fences.length
  let s := if room then updStw s (fun t => { t with fences := t.fences ++
    [{ unit := BitVec.ofNat 32 u, cause := BitVec.ofNat 16 cause, time := BitVec.ofNat 64 (stewardTime s) }] }) else s
  let s := raise s 0x5050 2 u rep (leBytes 2 cause)
  if room then finderBroadcast s 3 (ix % 256 + uScope u * 256) allCcs else s

def setFenceBit (s : State) (k bit : Nat) : State := setKreg s k 0x40 (kreg s k 0x40 ||| 2 ^ bit)

/-- Close a core: its sequencer halts and LOCAL_CLOSED is set (R163, R362). -/
def closeCore (s : State) (c : Nat) : State :=
  let s := haltSeq s c
  setFenceBit (setRreg s c 0x4C8 (rreg s c 0x4C8 ||| 1)) (clusterOf c) (16 + coreIn c)

/-- Fence a site: every link to it is down. -/
def fenceSite (s : State) (d cause : Nat) : State :=
  if siteFenced s d then s
  else
    let s := noteFence s (dieUnit d 0) cause
    let s := (List.range 16).foldl (fun s k => setFenceBit s (d * 16 + k) 0) s
    (facingPorts d).foldl (fun s e => bothEnds s e.1 e.2 true) s

/-- Fence a unit's site when the table is full (R363). -/
def tableFull (s : State) : Bool := decide (256 ≤ s.stw.fences.length)

/-- Fence a cluster: every core is closed; four fenced clusters fence the site. -/
def fenceCluster (s : State) (k cause : Nat) : State :=
  if clusterFenced s k || siteFenced s (k / 16) then s
  else if tableFull s then fenceSite s (k / 16) 0x5050
  else
    let s := noteFence s (clusterUnit k 0) cause
    let s := (coresOf k).foldl closeCore (setFenceBit s k 1)
    if 4 ≤ ((List.range 16).filter (fun i => clusterFenced s (k / 16 * 16 + i))).length then fenceSite s (k / 16) 0x5050 else s

/-- Fence a core; four fenced cores fence the cluster. -/
def fenceCore (s : State) (c cause : Nat) : State :=
  let k := clusterOf c
  if coreFenced s c || clusterFenced s k || siteFenced s (siteOf c) then s
  else if tableFull s then fenceSite s (siteOf c) 0x5050
  else
    let s := closeCore (noteFence s (coreUnit c 0 0) cause) c
    if 4 ≤ ((List.range 16).filter (fun i => bitOf (kreg s k 0x40) (16 + i))).length then fenceCluster s k 0x5050 else s

/-- Fence a link: LINK_DOWN at both ends. -/
def fenceLink (s : State) (r p cause : Nat) : State :=
  let u := linkUnit r p
  if fenced s u then s
  else if tableFull s then fenceSite s (uDie u) 0x5050
  else bothEnds (noteFence s u cause) r p true

/-- Fence the unit that a UNIT value names. -/
def fenceUnit (s : State) (u cause : Nat) : State :=
  let c := coreAt (uDie u) (uCluster u) (uCore u)
  if 64 ≤ uDie u then s
  else if uIsLink u then fenceLink s c (bitsOf u 12 9) cause
  else if uScope u = 0 then fenceCore s c cause
  else if uScope u = 1 then fenceCluster s (uDie u * 16 + uCluster u) cause
  else if uScope u = 2 then fenceSite s (uDie u) cause
  else s

end Sys2Proof.Machine
end

