-- ==== Sys2Proof/Machine/StreamCmds.lean ====
section
/-! DEFINITION. STREAM, XSTREAM, LOAD and STORE (R66, R119, R185, R190, R191, R200, R201, R233). A decoding command goes on until
the FIFO holds 64 blocks, and again once a matrix command has taken some; the vault slots (R131 to R134) only delay it. -/

namespace Sys2Proof.Machine

/-- A stream descriptor's fields (ch. 07). -/
def sdTscale (d : Nat) : F32 := BitVec.ofNat 32 (bitsOf d 127 96)
def sdBase (d : Nat) : Nat := bitsOf d 95 65
def sdCount (d : Nat) : Nat := bitsOf d 63 48
def sdIndex0 (d : Nat) : Nat := bitsOf d 47 32
def sdSrc (d : Nat) : Nat := bitsOf d 31 30
def sdKind (d : Nat) : Nat := bitsOf d 29 28

/-- The check of a stream descriptor. A KIND 1 stream with another TSCALE than 1.0 is DESC, also where that value breaks R59 (log
entry 125). -/
def sdError (d : Nat) : Option Nat :=
  if bitOf d 64 || bitsOf d 27 0 ≠ 0 then some eIllegal
  else if 1 < sdSrc d || 1 < sdKind d || sdBase d % 64 ≠ 0 || sdCount d = 0 then some eDesc
  else if sdKind d = 1 && sdTscale d != one32 then some eDesc
  else if sdKind d = 0 && !scaleOk (sdTscale d) then some eScale
  else none

/-- The memory a stream reads, its size, and the error of an access beyond it. -/
def srcMem (s : State) (c src : Nat) : Mem := if src = 0 then (clOf s (clusterOf c)).vault else (coreOf s c).spad
def srcCap (src : Nat) : Nat := if src = 0 then Config.vaultCap else Config.spadSize
def srcError (src : Nat) : Nat := if src = 0 then eVaultRange else eSpadRange
def srcEcc (s : State) (c src a n : Nat) (e : EccObs) : State :=
  if src = 0 then vaultEcc s (clusterOf c) a n e else spadEcc s c a n e

/-- Bytes of the stripe image at an address, as its descriptor and headers size it. -/
def imageSize (m : Mem) (a : Nat) : Nat := (stripeView (memRead m a 160)).size

/-- Addresses and sizes of n consecutive stripe images. -/
def imageList (m : Mem) : Nat → Nat → List (Nat × Nat)
  | 0, _ => []
  | n + 1, a => (a, imageSize m a) :: imageList m n (a + imageSize m a)

/-- Bytes that a stream covers. -/
def streamLength (m : Mem) (d : Nat) : Nat :=
  if sdKind d = 1 then 64 * sdCount d else ((imageList m (sdCount d) (sdBase d)).map (fun e => e.2)).sum


/-- The blocks of a stripe image (R61). -/
def stripeDecoded (m : Mem) (a : Nat) : List StreamBlock :=
  let img := memRead m a (imageSize m a)
  (stripeBlocks img (stripeView img)).map (fun b => { header := BitVec.ofNat 16 b.1, payload := b.2.1, lane := laneOf b.2.2 })

/-- A level-2 job may not decode N3 or N2 blocks or a stripe with a lane (R233). -/
def stripeLevel (m : Mem) (a : Nat) : Bool :=
  let v := stripeView (memRead m a (imageSize m a))
  bitsOf v.desc 47 40 != 0 || v.headers.any (fun h => bitsOf h 7 6 == 1 || bitsOf h 7 6 == 2)

/-- Refuse a stripe at decode (R66): FORMAT_FAULT, the FAULT counter, and error FORMAT. -/
def formatFault (s : State) (c index opc reason : Nat) : State :=
  let s := bumpC s c 0x310 31 0 1
  doorbellAt (emit s (clusterOf c) { ev 0x5021 2 (coreUnit c 6 0) (clusterOf c) [BitVec.ofNat 8 reason] with
    opc := some (BitVec.ofNat 8 opc, BitVec.ofNat 32 index) }) (clusterOf c) (0x20 + coreIn c) 0x5021

/-- Blocks in the output FIFO (R119); 32 values of a BF16 array are one. -/
def tensorBlocks (t : StreamTensor) : Nat := if t.bf16 then t.values.length / 32 else t.blocks.length
def fifoBlocks (v : CoreState) : Nat := (v.fifo.map tensorBlocks).sum
/-- Change the tensor that the SE is putting into the FIFO: the last. -/
def onLast (f : StreamTensor → StreamTensor) (l : List StreamTensor) : List StreamTensor :=
  match l.getLast? with | some t => l.dropLast ++ [f t] | none => []

/-- Bursts that the SE has not received yet, of n bytes from a on: those of the stream's earlier bytes go up to a. -/
def newBursts (first : Bool) (a n : Nat) : Nat := if first then burstsOf a n else burstsOf a n - (if a % 256 = 0 then 0 else 1)

/-- Read n bytes of a stream: code errors are counted and reported, bursts of the vault counted (R147, R352). -/
def streamRead (s : State) (c src a n : Nat) (first : Bool) (ecc : EccObs) : State :=
  let s := srcEcc s c src a n ecc
  if src = 0 then bumpC s c 0x210 63 32 (newBursts first a n) else s

/-- The check of the stripe at an address before its blocks are decoded, in this order: its first line can be read, it is not
poisoned, the reasons of R66, the rest lies in the memory and is not poisoned, and a level-2 job may decode it. The reason of R66
comes with FORMAT. -/
def stripeFault (s : State) (c d stripe a : Nat) : Option (Nat × Nat) :=
  let m := srcMem s c (sdSrc d)
  let n := imageSize m a
  if srcCap (sdSrc d) < a + 64 then some (srcError (sdSrc d), 0)
  else if memPoisoned m a 64 then some (eUncorrectable, 0)
  else match (stripeReasons false 0 (sdIndex0 d + stripe) (memRead m a (max n 160))).head? with
    | some r => some (eFormat, r)
    | none =>
        if srcCap (sdSrc d) < a + n then some (srcError (sdSrc d), 0)
        else if memPoisoned m a n then some (eUncorrectable, 0)
        else if coreLevel s c = 2 && stripeLevel m a then some (eLevel, 0)
        else none

/-- The stream of a run is decoded as far as the FIFO takes it: `done` when its last block is in, `wait` when the FIFO is full.
Each unit of fuel is one stripe, or one part of one. -/
def decodeOn (c index opc : Nat) : Nat → EccObs → SeRun → State → EngRes
  | 0, _, r, s => .wait (updCore s c (fun v => { v with se := some r }))
  | fuel + 1, ecc, r, s =>
      let d := r.desc.toNat
      let src := sdSrc d
      let room := 64 - fifoBlocks (coreOf s c)
      let keep := fun (s : State) (r : SeRun) => updCore s c (fun v => { v with se := some r })
      if sdCount d ≤ r.stripe then
        .done (updCore s c (fun v => { v with se := none, fifo := onLast (fun t => { t with whole := true }) v.fifo }))
      else if room = 0 then .wait (keep s r)
      else if sdKind d = 1 then
        let n := min room (sdCount d - r.stripe)
        if srcCap src < r.addr + 64 * n then .fail (keep s r) (srcError src) 5
        else
          let s := streamRead s c src r.addr (64 * n) (r.stripe = 0) ecc
          let m := srcMem s c src
          if memPoisoned m r.addr (64 * n) then .fail (keep s r) eUncorrectable 5
          else
            let xs := (chunks 2 (memRead m r.addr (64 * n))).map (fun b => BitVec.ofNat 16 (leNat b))
            let r' := { r with stripe := r.stripe + n, addr := r.addr + 64 * n }
            decodeOn c index opc fuel { ecc with ce1 := 0, ce2 := 0 } r' (updCore s c (fun v => { v with
              se := some r', fifo := onLast (fun t => { t with values := t.values ++ xs }) v.fifo }))
      else
        let size := imageSize (srcMem s c src) r.addr
        let s := if r.sent = 0 then streamRead s c src r.addr (max size 64) (r.stripe = 0) ecc else s
        match (if r.sent = 0 then stripeFault s c d r.stripe r.addr else none) with
        | some e => .fail (keep (if e.1 = eFormat then formatFault s c index opc e.2 else s) r) e.1 5
        | none =>
            let bs := stripeDecoded (srcMem s c src) r.addr
            let new := (bs.drop r.sent).take room
            let r' := if bs.length ≤ r.sent + new.length then { r with stripe := r.stripe + 1, addr := r.addr + size, sent := 0 }
              else { r with sent := r.sent + new.length }
            decodeOn c index opc fuel { ecc with ce1 := 0, ce2 := 0 } r' (updCore s c (fun v => { v with
              se := some r', fifo := onLast (fun t => { t with blocks := t.blocks ++ new }) v.fifo }))

/-- A stream begins: its descriptor is checked, and an empty tensor joins the FIFO (R185, R191). -/
def beginStream (s : State) (c tensor d : Nat) (k : SeRun → State → EngRes) : EngRes :=
  match sdError d with
  | some e => .fail s e 5
  | none =>
      let r : SeRun := { desc := BitVec.ofNat 128 d, tensor := tensor, stripe := 0, addr := sdBase d, sent := 0 }
      k r (updCore s c (fun v => { v with
        se := some r
        fifo := v.fifo ++ [{ tscale := sdTscale d, bf16 := sdKind d == 1, blocks := [], values := [], whole := false }] }))

/-- ECLK in which a pending stream had no data: a free count (R147, log entry 7). -/
def starved (s : State) (c : Nat) : State := bumpFreeC s c 0x210 31 0

/-- Copy the raw images of a stream to scratchpad from granule g on (run-ahead rows). -/
def copyStream (s : State) (c : Nat) (d g : Nat) (ecc : EccObs) : EngRes :=
  match sdError d with
  | some e => .fail s e 5
  | none =>
    let m := srcMem s c (sdSrc d)
    let n := streamLength m d
    if srcCap (sdSrc d) < sdBase d + n then .fail s (srcError (sdSrc d)) 5
    else if spadOver g n then .fail s eSpadRange 2
    else
      let s := srcEcc s c (sdSrc d) (sdBase d) n ecc
      let s := if sdSrc d = 0 then bumpC s c 0x210 63 32 (burstsOf (sdBase d) n) else s
      if memPoisoned (srcMem s c (sdSrc d)) (sdBase d) n then .fail s eUncorrectable 5
      else .done (spadWrite s c (8 * g) (memRead m (sdBase d) n))

/-- Units of fuel of one decoding command: as many as the FIFO has places, and one to end. -/
def decodeFuel : Nat := 66

def streamBody (c : Nat) (ecc : EccObs) (s : State) (i : Issued) (w : Nat) : EngRes :=
  let s := starved s c
  match (coreOf s c).se with
  | some r => decodeOn c i.index.toNat 0x10 decodeFuel ecc r s
  | none => opDesc s c (wA w) 16 0 (fun d =>
      if wMod w = 0 then beginStream s c 0 d (decodeOn c i.index.toNat 0x10 decodeFuel ecc)
      else if sweepBusy s c && coreGranted s c 1 then .wait s
      else copyStream s c d (wB w) ecc)

/-- STREAM (R190, R191). A run-ahead stream lets the pending reads of a sweep go first (R258). -/
def execStream (c : CoreId) (ecc : EccObs) (s : State) : Out := .next (runEngine s c.val 3 0x10 (streamBody c.val ecc))

/-- The union-table entry that a cursor names: its identifier and token bitmap (R200). Past the last entry it is DESC (R201); an
entry that is not in the scratchpad, or poisoned, fails as any operand (R189, R353). -/
def cursorEntry (s : State) (c : Nat) (x : Nat) (k : Nat × Nat → EngRes) : EngRes :=
  if xCount x ≤ xPos x then .fail s eDesc 0
  else opRead s c (xTable x + 1 + 5 * xPos x) 40 0 (fun b => k (leAt b 0 2, leAt b 8 32))

/-- Descriptor j of an identifier in the table of an XSTREAM (R200). -/
def xstreamDesc (s : State) (c w x j : Nat) (k : Nat → EngRes) : EngRes :=
  opRead s c (wA w + 2 * (x * wN w + j)) 16 1 (fun b => k (leNat b))

/-- The tensors of an XSTREAM, one stream after another; fuel bounds their number. -/
def xstreamOn (c index w : Nat) (ecc : EccObs) (x : Nat) : Nat → SeRun → State → EngRes
  | 0, r, s => decodeOn c index 0x63 decodeFuel ecc r s
  | fuel + 1, r, s =>
      match decodeOn c index 0x63 decodeFuel ecc r s with
      | .done s =>
          if wN w ≤ r.tensor + 1 then .done s
          else xstreamDesc s c w x (r.tensor + 1) (fun d => beginStream s c (r.tensor + 1) d (xstreamOn c index w ecc x fuel))
      | e => e

def xstreamBody (c : Nat) (ecc : EccObs) (s : State) (i : Issued) (w : Nat) : EngRes :=
  let n := wN w
  let s := starved s c
  if n = 0 || 8 < n then .fail s eDesc 0
  else if 8 * wA w % 16 ≠ 0 then .fail s eAlign 1
  else cursorEntry s c i.xcur.toNat (fun e =>
    match (coreOf s c).se with
    | some r => xstreamOn c i.index.toNat w ecc e.1 8 r s
    | none => xstreamDesc s c w e.1 0 (fun d => beginStream s c 0 d (xstreamOn c i.index.toNat w ecc e.1 8)))

/-- XSTREAM (R200, R201). -/
def execXstream (c : CoreId) (ecc : EccObs) (s : State) : Out :=
  .next (runEngine s c.val 3 0x63 (xstreamBody c.val ecc))

/-- The vault address of LOAD and STORE: SPACE 1 of the core's own die and cluster, on granules; any other is DESC. -/
def ownVault (c g : Nat) : Bool :=
  aDie g == siteOf c && aSpace g == 1 && aCluster g == clusterIn c && aCore g == 0 && aOff g % 8 == 0

def loadBody (c : Nat) (ecc : EccObs) (s : State) (_ : Issued) (w : Nat) : EngRes :=
  let g := gAddr w
  let n := 8 * gN w
  if !ownVault c g then .fail s eDesc 4
  else if Config.vaultCap < aOff g + n then .fail s eVaultRange 4
  else if spadOver (wA w) n then .fail s eSpadRange 1
  else
    let k := clusterOf c
    let s := vaultEcc s k (aOff g) n ecc
    if memPoisoned (clOf s k).vault (aOff g) n then .fail s eUncorrectable 4
    else .done (spadWrite s c (8 * wA w) (vaultRead s k (aOff g) n))

/-- LOAD (ch. 07): N granules from the core's own vault to scratchpad. -/
def execLoad (c : CoreId) (ecc : EccObs) (s : State) : Out := .next (runEngine s c.val 4 0x12 (loadBody c.val ecc))

def storeBody (c : Nat) (s : State) (_ : Issued) (w : Nat) : EngRes :=
  let g := gAddr w
  let n := 8 * gN w
  if !ownVault c g then .fail s eDesc 4
  else if Config.vaultCap < aOff g + n then .fail s eVaultRange 4
  else opRead s c (wA w) n 1 (fun b => .done (vaultWrite s (clusterOf c) (aOff g) b))

/-- STORE (ch. 07): N granules from scratchpad to the core's own vault. -/
def execStore (c : CoreId) (s : State) : Out := .next (runEngine s c.val 4 0x13 (storeBody c.val))

end Sys2Proof.Machine
end

