-- ==== Sys2Proof/Machine/VectorCmds.lean ====
section
/-! DEFINITION. The vector engine's commands: QACT and QENT (R67 to R73, R194, R195), VOP, VRED, VCVT, VNORM and ROPE (R97,
R196 to R198, R242), and the generator commands RAND.C, RAND.H and REDUCE.U (R207). -/

namespace Sys2Proof.Machine

/-! The QACT descriptor. -/

def qdS (d : Nat) : F32 := BitVec.ofNat 32 (bitsOf d 255 224)
def qdSrc (d : Nat) : Nat := bitsOf d 223 206
def qdDst (d : Nat) : Nat := bitsOf d 205 188
def qdSeed (d : Nat) : Nat := bitsOf d 187 170
def qdNval (d : Nat) : Nat := bitsOf d 169 154
def qdTokens (d : Nat) : Nat := bitsOf d 153 145
def qdSlot (d : Nat) : Nat := bitsOf d 144 129
def qdCap (d : Nat) : Nat := bitsOf d 128 121

/-- The stochastic word of an element: none under round to nearest, seeded by R69 and R207, or from entropy. -/
def roundWord (mode : Nat) (seed : W64) (stream free index : Nat) : Option Nat :=
  if mode = 0 then none
  else if mode = 1 then some (stochK seed stream index)
  else some ((Config.freeWord (free + index)).toNat / 65536)

/-- The check of a QACT descriptor against MOD (R59, R72, R233). -/
def qdError (s : State) (c w d : Nat) : Option Nat :=
  let fmt := if wMod w % 4 = 1 then 3 else 0
  let need := qactSlot fmt (wMod w / 4 % 4) (qdCap d) (min 64 (ceilDiv (qdNval d) 32))
  if coreLevel s c = 2 && fmt = 0 then some eLevel
  else if qdNval d = 0 || qdTokens d = 0 || 256 < qdTokens d || 128 < qdCap d then some eDesc
  else if !scaleOk (qdS d) then some eScale
  else if 64 * qdSlot d < need then some eStride
  else none

/-- Count what a stripe of QACT did in NF_CNT_ZS, NF_CNT_OL, NF_CNT_TF and NF_CNT_LN (R78 to R81), and its lane use for
R76. -/
def countStripe (s : State) (c cap : Nat) (o : QactOut) : State :=
  let s := bumpC (bumpC s c 0x300 63 32 o.under) c 0x300 31 0 o.sat
  let s := bumpC (bumpC s c 0x308 63 32 o.widen) c 0x308 31 0 o.clip
  let s := bumpC s c 0x310 63 32 (if o.image.isNone then 1 else 0)
  let s := bumpC (bumpC s c 0x318 63 32 o.stripes) c 0x318 31 0 o.lanes
  match corePart s c with
  | some p => if o.stripes = 1 && 0 < cap then
      updJob s p (fun j => { j with useSum := j.useSum + mkRat o.lanes cap, useCount := j.useCount + 1 }) else s
  | none => s

/-- Places of the tokens that QACT quantises at E8 in a replayed step (R73). -/
def trappedTokens (s : State) (c : Nat) : List Nat :=
  match regionOf s c with | some pr => (regionRun s pr.1 pr.2).trapped | none => []

/-- OUTLIER_TRAP (R73): the event names the region, the token and the stripe, and the step ends: the engine abandons the
command and its queue, and nothing more is issued. -/
def outlierTrap (s : State) (c index token stripe : Nat) : State :=
  let k := clusterOf c
  let r := match regionOf s c with | some pr => pr.2 | none => 0
  let s := emit s k { ev 0x5020 1 (coreUnit c 5 0) k (leBytes 4 r ++ leBytes 4 token ++ leBytes 4 stripe) with
    opc := some (0x30#8, BitVec.ofNat 32 index) }
  let s := doorbellAt s k (0x20 + coreIn c) 0x5020
  updCore s c (fun v => { v with veq := [], run := false, seqState := .stopped })

/-- The stripes of a QACT command as (token, stripe). -/
def qactItems (d : Nat) : List (Nat × Nat) :=
  (List.range (qdTokens d)).flatMap (fun t => (List.range (ceilDiv (qdNval d) 2048)).map (fun i => (t, i)))

/-- Quantise the stripes in order; a trap ends it. -/
def qactStripes (c w d index : Nat) (seed : W64) (stream free : Nat) (trapped : List Nat) : List (Nat × Nat) → State → EngRes
  | [], s => .done s
  | (t, i) :: rest, s =>
      let nval := qdNval d
      let n := min 2048 (nval - 2048 * i)
      let vals := spadF32 s c (8 * (qdSrc d + t * ceilDiv nval 2) + 8192 * i) n
      let fmt := if wMod w % 4 = 1 || trapped.contains t then 3 else 0
      let o := qactStripe fmt (qdS d) (coreTheta s c) (qdCap d) (wMod w / 4 % 4) i vals
        (fun e => roundWord (wMod w / 16) seed stream free (t * nval + 2048 * i + e))
      let s := countStripe s c (qdCap d) o
      match o.image with
      | none => .left (outlierTrap s c index t i)
      | some img =>
          qactStripes c w d index seed stream free trapped rest
            (spadWrite s c (8 * qdDst d + (t * ceilDiv nval 2048 + i) * 64 * qdSlot d) img)

def qactBody (c : Nat) (s : State) (i : Issued) (w : Nat) : EngRes :=
  opDesc s c (wA w) 32 121 (fun d =>
    match qdError s c w d with
    | some e => .fail s e 5
    | none =>
      let nval := qdNval d
      let inBytes := 8 * ceilDiv nval 2 * qdTokens d
      let outBytes := 64 * qdSlot d * ceilDiv nval 2048 * qdTokens d
      opRead s c (qdSrc d) inBytes 5 (fun _ =>
        opRoom s (qdDst d) outBytes 5 (
          if wMod w / 16 = 1 then
            opRead s c (qdSeed d) 16 5 (fun r =>
              qactStripes c w d i.index.toNat (BitVec.ofNat 64 (leAt r 0 8)) (leAt r 8 2) 0 (trappedTokens s c) (qactItems d) s)
          else
            qactStripes c w d i.index.toNat 0 0 s.free (trappedTokens s c) (qactItems d)
              (if wMod w / 16 = 2 then { s with free := s.free + nval * qdTokens d } else s))))

/-- QACT (R70 to R73, R194, R581). -/
def execQact (c : CoreId) (s : State) : Out := .next (runEngine s c.val 2 0x30 (qactBody c.val))

def qentUnits (c w fmt : Nat) (sc : F32) : List Nat → State → State
  | [], s => s
  | u :: rest, s =>
      let r := encodeUnit fmt sc (spadF32 s c (8 * (wA w + 256 * u)) 512)
      let s := spadWrite s c (8 * wD w + u * unitBytes fmt) r.1
      qentUnits c w fmt sc rest (bumpC (bumpC s c 0x300 63 32 r.2.2) c 0x300 31 0 r.2.1)

def qentBody (c : Nat) (s : State) (_ : Issued) (w : Nat) : EngRes :=
  let fmt := if wMod w = 1 then 3 else 0
  if coreLevel s c = 2 then .fail s eLevel 0
  else opRead s c (wC w) 8 3 (fun b =>
    let sc : F32 := BitVec.ofNat 32 (leNat b)
    if !scaleOk sc then .fail s eScale 3
    else opRead s c (wA w) (2048 * wN w) 1 (fun _ =>
      opRoom s (wD w) (unitBytes fmt * wN w) 4 (.done (qentUnits c w fmt sc (List.range (wN w)) s))))

/-- QENT (R83, R84, R195). -/
def execQent (c : CoreId) (s : State) : Out := .next (runEngine s c.val 2 0x31 (qentBody c.val))

/-- The function of a VOP code (ch. 07). -/
def vopFun (code : Nat) (a b c : F32) : F32 :=
  match code with
  | 0x00 => add32 a b
  | 0x01 => sub32 a b
  | 0x02 => mul32 a b
  | 0x03 => fma32 a b c
  | 0x04 => div32 a b
  | 0x05 => sqrt32 a
  | 0x06 => rcp32 a
  | 0x07 => rsqrt32 a
  | 0x08 => exp32 a
  | 0x09 => exp232 a
  | 0x0A => log32 a
  | 0x0B => log232 a
  | 0x0C => sin32 a
  | 0x0D => cos32 a
  | 0x0E => tanh32 a
  | 0x0F => sigmoid32 a
  | 0x10 => silu32 a
  | 0x11 => gelu32 a
  | 0x12 => max32 a b
  | 0x13 => min32 a b
  | _ => mul32 (silu32 a) b

/-- The operands that a VOP code reads beside A: B, and C. -/
def vopArity (code : Nat) : Nat :=
  if code = 3 then 3 else if code ≤ 4 || code = 0x12 || code = 0x13 || code = 0x14 then 2 else 1

/-- n FP32 operands at a granule, or one scalar for all of them (MOD[6], MOD[7]). -/
def vecOperand (s : State) (c g n operand : Nat) (used scalar : Bool) (k : List F32 → EngRes) : EngRes :=
  if !used then k (List.replicate n 0#32)
  else if scalar then opRead s c g (if n = 0 then 0 else 8) operand (fun b => k (List.replicate n (BitVec.ofNat 32 (leNat b))))
  else opRead s c g (4 * n) operand (fun b => k (toF32s b))

def vopBody (c : Nat) (s : State) (_ : Issued) (w : Nat) : EngRes :=
  let code := wMod w % 64
  let n := wN w
  vecOperand s c (wA w) n 1 true false (fun a =>
    vecOperand s c (wB w) n 2 (2 ≤ vopArity code) (bitOf (wMod w) 6) (fun b =>
      vecOperand s c (wC w) n 3 (3 ≤ vopArity code) (bitOf (wMod w) 7) (fun cc =>
        opRoom s (wD w) (4 * n) 4 (.done (spadWritePadded s c (8 * wD w)
          (f32Bytes ((List.zip a (List.zip b cc)).map (fun e => vopFun code e.1 e.2.1 e.2.2))))))))

/-- VOP (R97, R98, R196). -/
def execVop (c : CoreId) (s : State) : Out := .next (runEngine s c.val 2 0x40 (vopBody c.val))

def vredBody (c : Nat) (s : State) (_ : Issued) (w : Nat) : EngRes :=
  vecOperand s c (wA w) (wN w) 1 true false (fun a =>
    let r := if wMod w % 4 = 0 then sum32 a else if wMod w % 4 = 1 then sumsq32 a else maxv32 a
    opRoom s (wD w) 8 4 (.done (spadWrite s c (8 * wD w) (leBytes 8 r.toNat))))

/-- VRED (R97): one result in the low half of granule D. -/
def execVred (c : CoreId) (s : State) : Out := .next (runEngine s c.val 2 0x41 (vredBody c.val))

def vcvtBody (c : Nat) (s : State) (_ : Issued) (w : Nat) : EngRes :=
  let n := wN w
  let mode := wMod w / 4 % 4
  if wMod w % 4 = 1 then
    opRead s c (wA w) (2 * n) 1 (fun b =>
      opRoom s (wD w) (4 * n) 4 (.done (spadWritePadded s c (8 * wD w)
        ((chunks 2 b).flatMap (fun x => leBytes 4 (canon32 (ofBf16 (BitVec.ofNat 16 (leNat x)))).toNat)))))
  else
    opRead s c (wA w) (4 * n) 1 (fun b =>
      opRoom s (wD w) (2 * n) 4 (
        let conv := fun (seed : W64) (stream free : Nat) =>
          ((toF32s b).mapIdx (fun e x => match roundWord mode seed stream free e with
            | none => toBf16 x
            | some k => toBf16Stoch x k)).flatMap (fun x => leBytes 2 x.toNat)
        if mode = 1 then
          opRead s c (wC w) 16 3 (fun r =>
            .done (spadWritePadded s c (8 * wD w) (conv (BitVec.ofNat 64 (leAt r 0 8)) (leAt r 8 2) 0)))
        else
          .done (spadWritePadded (if mode = 2 then { s with free := s.free + n } else s) c (8 * wD w) (conv 0 0 s.free))))

/-- VCVT (R69, R85). -/
def execVcvt (c : CoreId) (s : State) : Out := .next (runEngine s c.val 2 0x42 (vcvtBody c.val))

/-- VNORM of a vector with gains and eps (R197). -/
def vnorm (xs gs : List F32) (eps : F32) : List F32 :=
  let ss := sumsq32 xs
  let r := rsqrt32 (add32 (div32 ss (ofNat32 xs.length)) eps)
  List.zipWith (fun x g => mul32 (mul32 x r) g) xs gs

def vnormBody (c : Nat) (s : State) (_ : Issued) (w : Nat) : EngRes :=
  let n := wN w
  vecOperand s c (wA w) n 1 true false (fun a =>
    vecOperand s c (wB w) n 2 true (bitOf (wMod w) 6) (fun g =>
      opRead s c (wC w) 8 3 (fun e =>
        opRoom s (wD w) (4 * n) 4 (.done (spadWritePadded s c (8 * wD w)
          (f32Bytes (vnorm a g (BitVec.ofNat 32 (leNat e)))))))))

/-- VNORM (R197). -/
def execVnorm (c : CoreId) (s : State) : Out := .next (runEngine s c.val 2 0x43 (vnormBody c.val))

/-- cos and sin of the exact product of a position and a frequency (R242). -/
def ropeAngle (pos : Nat) (freq : F32) : F32 × F32 :=
  match fv freq with
  | .fin neg m => let p := sincosFx neg (pos * m); (fxRound p.2, fxRound p.1)
  | _ => (nan32, nan32)

/-- Rotate one vector of 64 values (R198). -/
def ropeVector (pos : Nat) (freqs xs : List F32) : List F32 :=
  ((List.range 32).map (fun j =>
    let cs := ropeAngle pos (freqs.getD j 0#32)
    let x0 := xs.getD (2 * j) 0#32
    let x1 := xs.getD (2 * j + 1) 0#32
    [fma32 x0 cs.1 (neg32 (mul32 x1 cs.2)), fma32 x0 cs.2 (mul32 x1 cs.1)])).flatten

def ropeBody (c : Nat) (s : State) (_ : Issued) (w : Nat) : EngRes :=
  let n := wN w
  opRead s c (wA w) (256 * n) 1 (fun a =>
    opRead s c (wB w) (4 * n) 2 (fun b =>
      opRead s c (wC w) 128 3 (fun f =>
        opRoom s (wD w) (256 * n) 4 (
          let freqs := toF32s f
          let out := (List.range n).flatMap (fun v =>
            f32Bytes (ropeVector (leAt b (4 * v) 4) freqs (toF32s (sliceB a (256 * v) 256))))
          .done (spadWrite s c (8 * wD w) out)))))

/-- ROPE (R198, R242). -/
def execRope (c : CoreId) (s : State) : Out := .next (runEngine s c.val 2 0x44 (ropeBody c.val))

def randCBody (c : Nat) (s : State) (_ : Issued) (w : Nat) : EngRes :=
  let n := wN w
  opRead s c (wC w) 16 3 (fun r =>
    opRoom s (wD w) (4 * n) 4 (
      let seed := BitVec.ofNat 64 (leAt r 0 8)
      let word := fun (i : Nat) =>
        (philox seed 0x05000000#32 (BitVec.ofNat 32 (leAt r 8 2)) (BitVec.ofNat 64 i)).toNat
      .done (spadWritePadded s c (8 * wD w) ((List.range n).flatMap (fun i => leBytes 4 (word i))))))

/-- RAND.C (R207): generator domain 0x05. -/
def execRandC (c : CoreId) (s : State) : Out := .next (runEngine s c.val 2 0xA0 (randCBody c.val))

def randHBody (c : Nat) (s : State) (_ : Issued) (w : Nat) : EngRes :=
  let n := wN w
  opRoom s (wD w) (4 * n) 4 (
    let f := freeBytes s (4 * n)
    .done (spadWritePadded f.2 c (8 * wD w) f.1))

/-- RAND.H (R207): words from the entropy source, free values. -/
def execRandH (c : CoreId) (s : State) : Out := .next (runEngine s c.val 2 0xA1 (randHBody c.val))

/-- The lowest slot not yet added whose semaphore has reached 1. -/
def readySlot (s : State) (c first slots : Nat) (done : List Nat) : Option Nat :=
  (List.range slots).find? (fun k => !done.contains k && decide (1 ≤ semOf s c (first + k)))

/-- Add every slot that is ready, lowest first, until all are done (R207). A semaphore is left as it is; a poisoned slot fails
the command as it is added (R353). -/
def addSlots (c w : Nat) : Nat → State → EngRes
  | 0, s => .done (updCore s c (fun v => { v with reduceDone := none }))
  | fuel + 1, s =>
      let n := wN w
      let done := ((coreOf s c).reduceDone).getD []
      match readySlot s c (wMod w % 32) (wMod w / 32 + 1) done with
      | none => .wait s
      | some k => opRead s c (wA w + k * ceilDiv n 2) (4 * n) 1 (fun b =>
          let s := updCore s c (fun v => { v with reduceDone := some (done ++ [k]) })
          addSlots c w fuel (spadWritePadded s c (8 * wD w)
            (f32Bytes (List.zipWith add32 (spadF32 s c (8 * wD w) n) (toF32s b)))))

def reduceUBody (c : Nat) (s : State) (_ : Issued) (w : Nat) : EngRes :=
  let n := wN w
  let slots := wMod w / 32 + 1
  if 31 < wMod w % 32 + slots - 1 then .fail s eDesc 6
  else if spadOver (wA w) (8 * ceilDiv n 2 * slots) then .fail s eSpadRange 1
  else opRoom s (wD w) (4 * n) 4 (
    match (coreOf s c).reduceDone with
    | some done => addSlots c w (slots - done.length) s
    | none => addSlots c w slots (spadWritePadded (updCore s c (fun v => { v with reduceDone := some [] })) c (8 * wD w)
        (zeros (4 * n))))

/-- REDUCE.U (R207): D starts at +0.0, and every slot whose semaphore has reached 1 is added, lowest first; it completes with the last one, and
waits at the head of its queue for a slot that is not ready. -/
def execReduceU (c : CoreId) (s : State) : Out := .next (runEngine s c.val 2 0xA3 (reduceUBody c.val))

end Sys2Proof.Machine
end

