-- ==== Sys2Proof/Machine/ExpertCmds.lean ====
section
/-! DEFINITION. Expert choice and accumulation: GATE and XACC (R200, R201). -/

namespace Sys2Proof.Machine

/-! The GATE descriptor. -/

def gdScores (d : Nat) : Nat := bitsOf d 255 238
def gdVariants (d : Nat) : Nat := bitsOf d 237 220
def gdRec (d : Nat) : Nat := bitsOf d 219 202
def gdUnion (d : Nat) : Nat := bitsOf d 201 184
def gdNr (d : Nat) : Nat := bitsOf d 183 168
def gdNp (d : Nat) : Nat := bitsOf d 167 160
def gdTokens (d : Nat) : Nat := bitsOf d 159 151
def gdKr (d : Nat) : Nat := bitsOf d 150 147
def gdKp (d : Nat) : Nat := bitsOf d 146 143
def gdPitch (d : Nat) : Nat := bitsOf d 142 127
def gdNorm (d : Nat) : Nat := bitsOf d 126 125

/-- Rank of scored identifiers: higher value, then lower identifier; NaN below −∞ (R200, R203). -/
def rankBefore (a b : F32 × Nat) : Bool :=
  match val32 a.1, val32 b.1 with
  | some x, some y => if x = y then decide (a.2 < b.2) else decide (y < x)
  | some _, none => true
  | none, some _ => false
  | none, none => decide (a.2 < b.2)

/-- The k highest of a list. -/
def topK (k : Nat) (l : List (F32 × Nat)) : List (F32 × Nat) := (sortBy rankBefore l).take k

/-- The chosen experts of a token with their weights, ascending by identifier (R200). -/
def gateToken (d : Nat) (scores : List F32) (variant : Nat) : List (F32 × Nat) :=
  let routed := topK (gdKr d) ((scores.take (gdNr d)).mapIdx (fun e x => (x, e)))
  let own := if variant = 0xFF then [] else
    topK (gdKp d) (((scores.drop (gdNr d)).take (gdNp d)).mapIdx (fun j x => (x, 0x400 + 32 * variant + j)))
  let chosen := sortBy (fun (a b : F32 × Nat) => decide (a.2 < b.2)) (routed ++ own)
  let top := ((sortBy rankBefore chosen).head?.map (fun e => e.1)).getD 0#32
  let es := chosen.map (fun e => if gdNorm d = 0 then exp32 (sub32 e.1 top) else if gdNorm d = 1 then sigmoid32 e.1 else e.1)
  let z := sum32 es
  List.zipWith (fun x (e : F32 × Nat) => (if gdNorm d = 2 then x else div32 x z, e.2)) es chosen

/-- A token record (R200). -/
def gateRecord (l : List (F32 × Nat)) : Bytes :=
  leBytes 8 l.length ++ l.flatMap (fun e => leBytes 8 (e.1.toNat * 2 ^ 32 + e.2))

/-- The union table over all tokens' choices (R200). -/
def gateUnion (ls : List (List (F32 × Nat))) : Bytes :=
  let ids := sortBy (fun a b => decide (a < b)) ((ls.flatten.map (fun e => e.2)).eraseDups)
  let bitmap := fun (x : Nat) => (ls.mapIdx (fun t l => if l.any (fun e => e.2 == x) then 2 ^ t else 0)).sum
  leBytes 8 ids.length ++ ids.flatMap (fun x => leBytes 8 x ++ leBytes 32 (bitmap x))

def gateBody (c : Nat) (s : State) (_ : Issued) (w : Nat) : EngRes :=
  opDesc s c (wA w) 32 125 (fun d =>
    let toks := gdTokens d
    if gdNr d = 0 || 1024 < gdNr d || 32 < gdNp d || toks = 0 || 256 < toks || gdKr d = 0 || 15 < gdKr d + gdKp d
      || gdNorm d = 3 then .fail s eDesc 5
    else opRead s c (gdScores d) (8 * gdPitch d * (toks - 1) + 4 * (gdNr d + gdNp d)) 5 (fun _ =>
      opRead s c (gdVariants d) toks 5 (fun vs =>
        let ls := (List.range toks).map (fun t =>
          gateToken d (spadF32 s c (8 * (gdScores d + t * gdPitch d)) (gdNr d + gdNp d)) (byteAt vs t))
        let u := gateUnion ls
        opRoom s (gdRec d) (128 * toks) 5 (opRoom s (gdUnion d) u.length 5 (
          let s := (ls.zip (List.range toks)).foldl (fun s e => spadWrite s c (8 * (gdRec d + 16 * e.2)) (gateRecord e.1)) s
          .done (spadWrite s c (8 * gdUnion d) u))))))

/-- GATE (R200). -/
def execGate (c : CoreId) (s : State) : Out := .next (runEngine s c.val 2 0x60 (gateBody c.val))

/-- The weight of an expert in a token record; none when the token did not choose it. -/
def recordWeight (rec : Bytes) (x : Nat) : Option F32 :=
  ((List.range (byteAt rec 0 % 16)).find? (fun i => leAt rec (8 + 8 * i) 2 == x)).map
    (fun i => BitVec.ofNat 32 (leAt rec (12 + 8 * i) 4))

def xaccBody (c : Nat) (s : State) (i : Issued) (w : Nat) : EngRes :=
  cursorEntry s c i.xcur.toNat (fun e =>
    let n := wN w
    let row := 8 * ceilDiv n 2
    let toks := (List.range 256).filter (fun t => bitOf e.2 t)
    let top := toks.foldl max 0
    opRead s c (wB w) (if toks.isEmpty then 0 else 128 * (top + 1)) 2 (fun recs =>
      opRead s c (wA w) (if toks.isEmpty then 0 else row * top + 4 * n) 1 (fun _ =>
        opRead s c (wD w) (if toks.isEmpty then 0 else row * top + 4 * n) 4 (fun _ =>
          .done (toks.foldl (fun s t =>
            match recordWeight (sliceB recs (128 * t) 128) e.1 with
            | none => s
            | some x =>
                let ys := spadF32 s c (8 * wA w + row * t) n
                let ds := spadF32 s c (8 * wD w + row * t) n
                spadWritePadded s c (8 * wD w + row * t) (f32Bytes (List.zipWith (fun d y => add32 d (mul32 x y)) ds ys))) s)))))

/-- XACC (R200, R201): weighted accumulation over the cursor's tokens. -/
def execXacc (c : CoreId) (s : State) : Out := .next (runEngine s c.val 2 0x64 (xaccBody c.val))

end Sys2Proof.Machine
end

