-- ==== Sys2Proof/Machine/SamplingCmds.lean ====
section
/-! DEFINITION. Sampling (R203 to R205, R279 to R284): SAMPLE.K, SAMPLE.M, SAMPLE.D and STOPCHK. -/

namespace Sys2Proof.Machine

/-- A candidate list as bytes (ch. 07). -/
def candBytes (l : List (F32 × Nat)) : Bytes := leBytes 8 l.length ++ l.flatMap (fun e => leBytes 8 (e.1.toNat * 2 ^ 32 + e.2))
/-- The candidates of a list's bytes. -/
def candList (n : Nat) (b : Bytes) : List (F32 × Nat) :=
  (List.range n).map (fun i => (BitVec.ofNat 32 (leAt b (8 * i + 4) 4), leAt b (8 * i) 4 % 2 ^ 18))

/-- Read the candidate list at a granule. A COUNT above 1,024 is DESC. -/
def opCands (s : State) (c g operand : Nat) (k : List (F32 × Nat) → EngRes) : EngRes :=
  opRead s c g 8 operand (fun h =>
    let n := leNat h % 2 ^ 11
    if 1024 < n then .fail s eDesc operand
    else opRead s c (g + 1) (8 * n) operand (fun b => k (candList n b)))

/-! The sampling record (R282). -/

def srReq (r : Bytes) : Nat := leAt r 0 4
def srTemp (r : Bytes) : F32 := BitVec.ofNat 32 (leAt r 4 4)
def srTopP (r : Bytes) : F32 := BitVec.ofNat 32 (leAt r 8 4)
def srMinP (r : Bytes) : F32 := BitVec.ofNat 32 (leAt r 0x0C 4)
def srTopK (r : Bytes) : Nat := leAt r 0x10 2
def srRep (r : Bytes) : F32 := BitVec.ofNat 32 (leAt r 0x14 4)
def srPres (r : Bytes) : F32 := BitVec.ofNat 32 (leAt r 0x18 4)
def srFreq (r : Bytes) : F32 := BitVec.ofNat 32 (leAt r 0x1C 4)
def srSeed (r : Bytes) : W64 := BitVec.ofNat 64 (leAt r 0x20 8)
def srPosition (r : Bytes) : Nat := leAt r 0x28 8
def srSlot (r : Bytes) : Nat := leAt r 0x30 4

/-- The sampling record that the Steward writes for the draw of a position (R282). -/
def samplingRecord (h : Nat) (r : Request) (pos : Nat) : Bytes :=
  leBytes 4 (rReq r) ++ sliceB r.desc 0x38 12 ++ sliceB r.desc 0x44 2
    ++ leBytes 2 ((if r.untracked then 1 else 0) + (if rCountPrompt r then 2 else 0)) ++ sliceB r.desc 0x48 12 ++ sliceB r.desc 8 8
    ++ leBytes 8 pos ++ leBytes 4 h ++ zeros 12

/-- The proposals d_1 to d_j of the cycle in flight, which the draws of its later positions treat as committed (R304). -/
def proposed (r : Request) (j : Nat) : List Nat :=
  match r.cycle with | some x => (x.props.take j).filterMap (fun e => e.1.map (fun t => t.toNat)) | none => []
/-- Positions of a draw beyond the request's next token: above 0 within a verification wavefront only (R301). -/
def drawAhead (r : Request) (pos : Nat) : Nat := pos - rLength r

/-- The allowed-token bitmap in force for the draw of a new-token index (R280): the latest accepted update at or below it. -/
def maskFor (r : Request) (index : Nat) : Option Bytes :=
  ((r.masks.filter (fun m => decide (m.1 ≤ index))).getLast?.map (fun m => m.2)).or r.mask
def maskAllows (m : Option Bytes) (id : Nat) : Bool :=
  match m with | none => true | some b => bitOf (byteAt b (id / 8)) (id % 8)

/-- One logit through penalties and temperature (R279 steps 2 to 4). -/
def adjustLogit (r : Bytes) (count : Nat) (x : F32) : F32 :=
  let x := if count = 0 then x
    else
      let y := if lt32 0#32 x then div32 x (srRep r) else mul32 x (srRep r)
      sub32 (sub32 y (srPres r)) (mul32 (srFreq r) (ofNat32 count))
  if (srTemp r).toNat % 2 ^ 31 = 0 then x else div32 x (srTemp r)

/-- The candidates among logits with their tokens (R203, R279). -/
def candidates (rec : Bytes) (mask : Option Bytes) (count : Nat → Nat) (logits : List (F32 × Nat)) : List (F32 × Nat) :=
  topK (srTopK rec) ((logits.filter (fun e => maskAllows mask e.2)).map (fun e => (adjustLogit rec (count e.2) e.1, e.2)))
/-- The candidates that SAMPLE.K keeps of a slice. -/
def sampleK (rec : Bytes) (mask : Option Bytes) (count : Nat → Nat) (first : Nat) (logits : List F32) : List (F32 × Nat) :=
  candidates rec mask count (logits.mapIdx (fun i x => (x, first + i)))

/-- The mask and the counts that a request's draw of a position takes: those of its index, with the proposals before it counted. -/
def maskAt (r : Request) (pos : Nat) : Option Bytes := maskFor r (r.tokens.length + drawAhead r pos)
def countAt (r : Request) (pos id : Nat) : Nat := getN 0 ((proposed r (drawAhead r pos)).foldl countIn r.counts) id

def sampleKBody (c : Nat) (s : State) (_ : Issued) (w : Nat) : EngRes :=
  vecOperand s c (wA w) (wN w) 1 true false (fun xs =>
    opRead s c (wB w) 64 2 (fun rec =>
      opRead s c (wC w) 8 3 (fun f =>
        if srTopK rec = 0 || 1024 < srTopK rec then .fail s eDesc 2
        else
          let q := reqOf s (srSlot rec)
          let mask := q.bind (fun r => maskAt r (srPosition rec))
          let count := fun (id : Nat) => match q with | some r => countAt r (srPosition rec) id | none => 0
          let l := sampleK rec mask count (leNat f % 2 ^ 18) xs
          opRoom s (wD w) (8 + 8 * l.length) 4 (.done (spadWrite s c (8 * wD w) (candBytes l))))))

/-- SAMPLE.K (R203, R279). -/
def execSampleK (c : CoreId) (s : State) : Out := .next (runEngine s c.val 2 0x80 (sampleKBody c.val))

def sampleMBody (c : Nat) (s : State) (_ : Issued) (w : Nat) : EngRes :=
  opCands s c (wA w) 1 (fun a =>
    opCands s c (wB w) 2 (fun b =>
      if 1024 < wN w then .fail s eDesc 0
      else
        let l := topK (wN w) (a ++ b)
        opRoom s (wD w) (8 + 8 * l.length) 4 (.done (spadWrite s c (8 * wD w) (candBytes l)))))

/-- SAMPLE.M (R203): the top N of two lists. -/
def execSampleM (c : CoreId) (s : State) : Out := .next (runEngine s c.val 2 0x81 (sampleMBody c.val))

/-- Running sums C(0) to C(n−1) (R204). -/
def runSums : F32 → List F32 → List F32
  | _, [] => []
  | acc, e :: t => add32 acc e :: runSums (add32 acc e) t

/-- rne32(u × Z) with u = word0 / 2^32 (R204). -/
def scaleWord (word : Nat) (z : F32) : F32 :=
  match fv z with | .fin neg m => round32 neg (word * m) (2 ^ 32) | _ => z

/-- The entries of a list that top-p and min-p keep, as (identifier, e, C) (R204). -/
def keptRows (topP minP : F32) (l : List (F32 × Nat)) : List (Nat × F32 × F32) :=
  let es := l.map (fun e => exp32 (sub32 e.1 ((l.head?.map (fun v => v.1)).getD 0#32)))
  let cs := runSums 0#32 es
  let limit := mul32 topP (cs.getLastD 0#32)
  (((l.zip es).zip (cs.zip (0#32 :: cs))).filter (fun r => le32 minP r.1.2 && lt32 r.2.2 limit)).map
    (fun r => (r.1.1.2, r.1.2, r.2.1))

/-- The kept and normalised probabilities of R204 (R306); at temperature 0 the one token that can be chosen, and nothing with
NO_TOKEN. -/
def keptProbs (temp topP minP : F32) (l : List (F32 × Nat)) : List (F32 × Nat) :=
  match l with
  | [] => []
  | v0 :: _ =>
      if !isFinite32 v0.1 then []
      else if temp.toNat % 2 ^ 31 = 0 then [(one32, v0.2)]
      else
        let kept := keptRows topP minP l
        kept.map (fun r => (div32 r.2.1 ((kept.getLast?.map (fun x => x.2.2)).getD 0#32), r.1))

/-- The draw of R204 from a list: identifier and p. No entry kept (a NaN among the sums) leaves the result open. -/
def drawToken (temp topP minP : F32) (word : Nat) (l : List (F32 × Nat)) : Option (Nat × F32) :=
  match l with
  | [] => some (0x3FFFF, 0#32)
  | v0 :: _ =>
      if !isFinite32 v0.1 then some (0x3FFFF, 0#32)
      else if temp.toNat % 2 ^ 31 = 0 then some (v0.2, one32)
      else
        let kept := keptRows topP minP l
        match kept.getLast? with
        | none => none
        | some last =>
            let pick := (kept.find? (fun r => lt32 (scaleWord word last.2.2) r.2.2)).getD last
            some (pick.1, div32 pick.2.1 last.2.2)

/-- The generator word of a sampling draw, domain 0x01 (R207). -/
def drawWord (rec : Bytes) : Nat :=
  (philox (srSeed rec) 0x01000000#32 (BitVec.ofNat 32 (srReq rec)) (BitVec.ofNat 64 (srPosition rec))).toNat

/-- The result record at D, in the model's layout (log entry 13): identifier and p, position, slot and request number. -/
def drawResult (id : Nat) (p : F32) (rec : Bytes) : Bytes :=
  leBytes 8 (p.toNat * 2 ^ 32 + id) ++ leBytes 8 (srPosition rec) ++ leBytes 4 (srSlot rec) ++ leBytes 4 (srReq rec) ++ zeros 8

def sampleDBody (c : Nat) (s : State) (_ : Issued) (w : Nat) : EngRes :=
  opCands s c (wA w) 1 (fun l =>
    opRead s c (wB w) 64 2 (fun rec =>
      opRoom s (wD w) 32 4 (
        match drawToken (srTemp rec) (srTopP rec) (srMinP rec) (drawWord rec) l with
        | some r => .done (spadWrite s c (8 * wD w) (drawResult r.1 r.2 rec))
        | none =>
            let f := takeFree s 2
            .done (spadWrite f.2 c (8 * wD w)
              (drawResult ((Config.freeWord s.free).toNat % 2 ^ 18) (Config.freeWord (s.free + 1)) rec)))))

/-- SAMPLE.D (R204). -/
def execSampleD (c : CoreId) (s : State) : Out := .next (runEngine s c.val 2 0x82 (sampleDBody c.val))

/-- The stop code of a drawn token (R205, R284): `stop` is the 576 B record, `gen` the earlier tokens of the generation. NO_TOKEN is
no token that codes 1 and 2 could name; whether an entry of more than 16 tokens matches is open (log entry 75). -/
def stopCode (stop : Bytes) (gen : List Nat) (id q : Nat) : Nat :=
  let tok := fun (i : Nat) => leAt stop (4 * i) 4
  let now := gen ++ [id]
  let seq := fun (x : Nat) => (List.range (byteAt stop (0x20 + x))).map (fun i => leAt stop (0x40 + 64 * x + 4 * i) 4)
  let hits := fun (x : Nat) => if 16 < byteAt stop (0x20 + x) then Config.longStop stop now x
    else byteAt stop (0x20 + x) != 0 && decide (byteAt stop (0x20 + x) ≤ now.length)
      && now.drop (now.length - byteAt stop (0x20 + x)) == seq x
  if id != 0x3FFFF && (List.range 8).any (fun i => tok i != 0xFFFFFFFF && tok i == id) then 1
  else if id != 0x3FFFF && (List.range 8).any hits then 2
  else if q + 1 - leAt stop 0x30 4 = leAt stop 0x28 4 then 3
  else if q + 1 = leAt stop 0x2C 4 then 4
  else if id = 0x3FFFF then 5 else 0

/-- The tokens of the present generation of a request (R284). -/
def genTokens (r : Request) : List Nat := (r.tokens.drop r.genStart).map (fun t => t.toNat)

def stopchkBody (c : Nat) (s : State) (_ : Issued) (w : Nat) : EngRes :=
  opRead s c (wA w) 32 1 (fun res =>
    opRead s c (wB w) 576 2 (fun stop =>
      let gen := match reqOf s (leAt res 16 4) with
        | some r => genTokens r ++ proposed r (drawAhead r (leAt res 8 8))
        | none => []
      opRoom s (wD w) 8 4 (.done (spadWrite s c (8 * wD w)
        (leBytes 8 (stopCode stop gen (leAt res 0 4 % 2 ^ 18) (leAt res 8 8)))))))

/-- STOPCHK (R205, R284). -/
def execStopchk (c : CoreId) (s : State) : Out := .next (runEngine s c.val 2 0x83 (stopchkBody c.val))

end Sys2Proof.Machine
end

