-- ==== Sys2Proof/WellFormed.lean ====
section
/-! DEFINITION. What makes a command's operands the ones its row takes: sizes of lists that stand for things of fixed size on
a wire. A meaning given others faults. -/

namespace Sys2Proof

/-- A packet's body holds NBODY flits of 64 bytes, at most 16 (R157), and its poison marks name granules of the body. -/
def pktOk (p : Packet) : Bool :=
  let n := p.head.toNat / 2 ^ 428 % 32
  decide (n ≤ 16) && decide (p.body.length = 64 * n) && p.poison.all (fun g => decide (g < 8 * n))

/-- A message is a header, the source word and up to two more words (R168). -/
def msgOk (m : CtrlMsg) : Bool := decide (2 ≤ m.words.length) && decide (m.words.length ≤ 4)

end Sys2Proof
end

