-- ==== Sys2Proof/Machine/Mesh.lean ====
section
/-! DEFINITION. The routers of the data mesh (ch. 06): head flits (R157), input buffers and credits (R156), routes and
boundaries (R152, R166), the choice of each output (R159), and how flits move. A packet stands in several buffers at once, each
holding some of its flits. -/

namespace Sys2Proof.Machine

/-! The head flit (R157). -/

def hAddr (h : Nat) : Nat := bitsOf h 511 456
def hOp (h : Nat) : Nat := bitsOf h 455 450
def hSrc (h : Nat) : Nat := bitsOf h 447 433
def hNbody (h : Nat) : Nat := bitsOf h 432 428
def hCtv (h : Nat) : Bool := bitOf h 427
def hCtsem (h : Nat) : Nat := bitsOf h 426 422
def hTid (h : Nat) : Nat := bitsOf h 421 406
def hMask (h : Nat) : Nat := bitsOf h 405 390
def hTree (h : Nat) : Nat := bitsOf h 389 384
def srcDie (x : Nat) : Nat := x / 256
def srcCluster (x : Nat) : Nat := x / 16 % 16
def srcCore (x : Nat) : Nat := x % 16
def coreSrc (c : Nat) : Nat := siteOf c * 256 + clusterIn c * 16 + coreIn c
/-- The core that a SRC field names. -/
def sourceCore (x : Nat) : Nat := coreAt (srcDie x) (srcCluster x) (srcCore x)

def mkHead (addr op src nbody : Nat) (ctv : Bool) (ctsem tid mask tree : Nat) : BitVec 512 :=
  BitVec.ofNat 512 (addr * 2 ^ 456 + op * 2 ^ 450 + src * 2 ^ 433 + nbody * 2 ^ 428 + (if ctv then 2 ^ 427 else 0)
    + ctsem * 2 ^ 422 + tid % 65536 * 2 ^ 406 + mask * 2 ^ 390 + tree * 2 ^ 384)

def pHead (p : Packet) : Nat := p.head.toNat
def flitsOf (p : Packet) : Nat := 1 + hNbody (pHead p)

/-- Operation codes (R158). -/
def opWrite : Nat := 1
def opReadReq : Nat := 2
def opReadRsp : Nat := 3
def opMcast : Nat := 4
def opReduce : Nat := 5
def opInline : Nat := 6

/-- Granules of the body that a packet writes: all of every flit but the last, and those of the last that BMASK enables (R157). -/
def bodyGranules (p : Packet) : List Nat :=
  let n := hNbody (pHead p)
  if n = 0 then [] else
    List.range (8 * (n - 1)) ++ ((List.range 8).filter (fun i => bitOf (hMask (pHead p)) i)).map (· + 8 * (n - 1))
/-- Bytes that the granules hold, and bytes from the first granule's place to the end of the last. -/
def writeBytes (p : Packet) : Nat := 8 * (bodyGranules p).length
def extentOf (gs : List Nat) : Nat := match gs.getLast? with | some g => 8 * (g + 1) | none => 0

/-- The channel rules of R158 for contract level 2 or 3. -/
def vcAllowed (op vc : Nat) (level2 : Bool) : Bool :=
  if op = opWrite then vc ≤ 2 || (vc == 3 && level2)
  else if op = opReadReq || op = opReadRsp then vc == 0
  else if op = opMcast || op = opReduce then vc == 1 || vc == 2
  else if op = opInline then vc == 3 && level2
  else false

/-- What the source router refuses (R11, R158, R167); writes and reads of a vault use VC0 (R135). -/
def sourceError (addr op vc : Nat) (level2 : Bool) : Option Nat :=
  if 80 ≤ aDie addr then some 0x01
  else if 6 ≤ aSpace addr || [2, 3, 5].contains (aSpace addr) then some 0x02
  else if !vcAllowed op vc level2 || (64 ≤ aDie addr && vc ≠ 0) || (aSpace addr = 1 && vc ≠ 0) then some 0x0A
  else none

/-! Sideband words (R155). -/

def sbVc (w : Nat) : Nat := bitsOf w 23 22
def sbCls (w : Nat) : Bool := bitOf w 21
def sbKind (w : Nat) : Nat := bitsOf w 20 19
def sbCred (w : Nat) : Nat := bitsOf w 18 14
def sbFree (w : Nat) : Nat := bitsOf w 13 6
/-- The resynchronisation word of buffer b with its free flits; check bits are left zero, since their code is not given. -/
def resyncWord (b free : Nat) : Nat := 3 * 2 ^ 22 + 2 ^ 21 + 2 ^ (14 + b) + free * 2 ^ 6
/-- A word that counts as one with an uncorrectable code error: VC 0b11 and CLS 1, and no resynchronisation word. -/
def sbBad (w : Nat) : Bool := sbVc w == 3 && sbCls w && sbKind w != 0

/-! Input buffers, their credits and telemetry (R156, R174 to R177). -/

/-- Buffer of a packet: 0 VC0 request, 1 VC0 response, 2 VC1, 3 VC2, 4 VC3. -/
def bufOf (vc op : Nat) : Nat := if vc = 0 then (if op = opReadRsp then 1 else 0) else vc + 1
def bufSize (r b : Nat) : Nat :=
  if r < 16384 then (if b = 2 || b = 3 then 16 else 4) else (if b < 2 then 32 else 64)
def hopBuf (h : Hop) : Nat := bufOf h.vc (hOp (pHead h.pkt))
def inBuf (r p b : Nat) (h : Hop) : Bool := h.router == r && h.port == p && hopBuf h == b
/-- Flits in a buffer. -/
def flitsIn (s : State) (r p b : Nat) : Nat := ((s.mesh.filter (inBuf r p b)).map (fun h => h.here)).sum
/-- Flits of the packet that have not reached this buffer. -/
def behind (h : Hop) : Nat := flitsOf h.pkt - h.here - h.gone
/-- The packet of a buffer whose flits are still coming in; it is the last one. -/
def openHop (s : State) (r p b : Nat) : Option Hop := s.mesh.find? (fun h => inBuf r p b h && behind h != 0)
/-- The first packet of its input buffer (R153): the earlier ones of the same buffer go first. -/
def bufferHead (s : State) (h : Hop) : Bool := s.mesh.find? (inBuf h.router h.port (hopBuf h)) == some h

/-- Port block of RTR_FLITS_A and its neighbours. -/
def portReg (p i : Nat) : Nat := 0x400 + 0x20 * p + 8 * i

/-- Change the current occupancy of input buffer p on a channel by flits in or out; the peak follows. -/
def queueDepth (s : State) (r p vc : Nat) (n : Int) : State :=
  let off := portReg p 2
  let v := rreg s r off
  let cur := min 255 ((bitsOf v (16 * vc + 7) (16 * vc) : Int) + n).toNat
  let v := setBits v (16 * vc + 7) (16 * vc) cur
  setRreg s r off (if bitsOf v (16 * vc + 15) (16 * vc + 8) < cur then setBits v (16 * vc + 15) (16 * vc + 8) cur else v)

/-- n flits of a packet come into a buffer: a new packet with its head, or more of the one still coming in. -/
def putFlits (s : State) (r p vc : Nat) (pkt : Packet) (n : Nat) (first : Bool) : State :=
  let mesh := if first then
      s.mesh ++ [{ router := r, port := p, vc := vc, pkt := pkt, here := n, gone := 0, drop := false }]
    else match openHop s r p (bufOf vc (hOp (pHead pkt))) with
      | some h => s.mesh.replace h { h with
          pkt := { h.pkt with poison := (h.pkt.poison ++ pkt.poison).eraseDups }, here := h.here + n }
      | none => s.mesh
  queueDepth { s with mesh := mesh } r p vc n

/-- Room for more flits in a buffer. -/
def roomIn (s : State) (r p b : Nat) : Nat := bufSize r b - flitsIn s r p b

/-- A source at the local port goes on with a packet it has begun, as room comes free. -/
def refill (s : State) (r b : Nat) : State :=
  match openHop s r 0 b with
  | some g => putFlits s r 0 g.vc g.pkt (min (behind g) (roomIn s r 0 b)) false
  | none => s

/-- n credits go back to the sender behind the packet's input port. -/
def creditBack (s : State) (h : Hop) (n : Nat) : State :=
  match linkEnd h.router h.port with
  | some e => updRouter s e.1 (fun t => { t with
      creditsUsed := updN 0 t.creditsUsed (5 * e.2 + hopBuf h) (fun k => k - n) })
  | none => s

/-- n flits of a packet leave its buffer; a credit goes back for each. -/
def takeFlits (s : State) (h : Hop) (n : Nat) : State :=
  let h' := { h with here := h.here - n, gone := h.gone + n }
  let mesh := if flitsOf h.pkt ≤ h'.gone then s.mesh.erase h else s.mesh.replace h h'
  let s := queueDepth { s with mesh := mesh } h.router h.port h.vc (-(n : Int))
  if h.port = 0 then refill s h.router (hopBuf h) else creditBack s h n

/-- What stands of a packet in a buffer is discarded, and no more of it comes (R359, R365). -/
def dropHop (s : State) (h : Hop) : State :=
  creditBack (queueDepth { s with mesh := s.mesh.erase h } h.router h.port h.vc (-(h.here : Int))) h h.here

/-- A source injects a packet at a local port, where a flit has room and no other packet is on its way in. -/
def inject (s : State) (r vc : Nat) (pkt : Packet) : Option State :=
  let b := bufOf vc (hOp (pHead pkt))
  if roomIn s r 0 b = 0 || (openHop s r 0 b).isSome then none
  else some (putFlits s r 0 vc pkt (min (flitsOf pkt) (roomIn s r 0 b)) true)

/-- Credits that output p of a router holds for a buffer of its neighbour. -/
def creditsLeft (s : State) (r p b : Nat) : Nat :=
  match linkEnd r p with
  | some e => bufSize e.1 b - getN 0 (routerOf s r).creditsUsed (5 * p + b)
  | none => 0

/-- A refused packet: its flits leave as they come. -/
def discard (s : State) (h : Hop) : State :=
  let h' := { h with drop := true }
  takeFlits { s with mesh := s.mesh.replace h h' } h' h.here

/-! Error responses (R167, R170). -/

def errMessage (s : State) (p : Packet) (code : Nat) : State :=
  let h := pHead p
  let x := hSrc h
  sendCtrl s { words := [msgHeader 3 (srcDie x) (srcCluster x) (srcCore x) false 3 false false code,
    msgSource (aDie (hAddr h)) (aCluster (hAddr h)) (aCore (hAddr h)) false 0,
    BitVec.ofNat 32 (hOp h * 2 ^ 26 + hTree h * 2 ^ 20 + hTid h), BitVec.ofNat 32 (bitsOf (aOff (hAddr h)) 37 6)] }

/-- UNIT and REPORTER of a router's events: a core's control core, or the link control core of the edge router's die. -/
def routerUnit (r p : Nat) : Nat := if r < 16384 then coreUnit r 9 p else dieUnit (64 + (r - 16384) / 2) 9
def routerRep (r : Nat) : Nat := if r < 16384 then clusterOf r else 1024 + 2 * ((r - 16384) / 2)

/-- The event of an error code (R167) at a router. -/
def errEvent (s : State) (r p code : Nat) : State :=
  let d := [BitVec.ofNat 8 code]
  if code = 0x06 then raise s 0x3021 2 (routerUnit r p) (routerRep r) d
  else if code = 0x07 then raise s 0x3020 1 (routerUnit r p) (routerRep r) d
  else if code = 0x0B then raise s 0x3022 2 (routerUnit r p) (routerRep r) d
  else if code = 0x09 then s
  else raise s 0x3010 2 (routerUnit r p) (routerRep r) d

/-- Router event doorbell: source 0x030 + n with the port as tag (R479). -/
def routerBell (s : State) (r p : Nat) : State :=
  if r < 16384 then doorbellAt s (clusterOf r) (0x30 + coreIn r) p else s

/-- A packet, or one copy of it, is refused at port p: answer, event, and the drop counters of R178. -/
def answerRefusal (s : State) (r p code : Nat) (pkt : Packet) : State :=
  let s := if code = 0x06 then bumpR s r (0x4A0 + 8 * p) 63 32 1 else s
  let s := if code = 0x07 then bumpR s r (0x4A0 + 8 * p) 31 16 1 else s
  routerBell (errEvent (errMessage s pkt code) r p code) r p

/-- Refuse a packet at a router. -/
def refusePacket (s : State) (h : Hop) (p code : Nat) : State := answerRefusal (discard s h) h.router p code h.pkt

/-! Routes and boundaries (R152, R154, R166). -/

/-- The edge router of an I/O die whose attachment core is nearer to the source, along the edge. A source on an I/O die counts
as at the attachment core of its own edge router 0 (log entry 120). -/
def nearEdge (d src : Nat) : Nat :=
  let pos := fun (c : Nat) => if d < 68 || (72 ≤ d && d < 76) then coreX c else coreY c
  let dist := fun (e : Nat) => (pos (edgeCore d e).1 - pos src) + (pos src - pos (edgeCore d e).1)
  if dist 1 < dist 0 then 1 else 0

/-- Output port at router r toward the destination router; 0 when it is r. -/
def routePort (r dest : Nat) : Nat :=
  if r = dest then 0
  else if 16384 ≤ r then 1
  else
    let t := if 16384 ≤ dest then edgeCore (64 + (dest - 16384) / 2) ((dest - 16384) % 2) else (dest, 0)
    if coreX r < coreX t.1 then 2 else if coreX t.1 < coreX r then 4
    else if coreY r < coreY t.1 then 3 else if coreY t.1 < coreY r then 1 else t.2

/-- Some link on the way from a router to another is down; fuel bounds the way. -/
def wayDown (s : State) (dest : Nat) : Nat → Nat → Bool
  | 0, _ => false
  | n + 1, r =>
      let p := routePort r dest
      if p = 0 then false
      else if linkDown s r p then true
      else match linkEnd r p with
        | some e => wayDown s dest n e.1
        | none => false

/-- The router at which a packet leaves the mesh: the core of space 0, the vault port's or control core's router (core 5), or the
nearer edge router of an I/O die (R154); the die's other edge router where a closed link blocks the way to the nearer and not the
way to the other (R534, log entry 147). -/
def destRouter (s : State) (h : Nat) : Nat :=
  let a := hAddr h
  let d := aDie a
  if d < 64 then coreAt d (aCluster a) (if aSpace a = 0 then aCore a else 5)
  else
    let x := hSrc h
    let src := if 64 ≤ srcDie x then (edgeCore (srcDie x) 0).1 else sourceCore x
    let e := nearEdge d src
    if srcDie x < 64 && wayDown s (edgeRouter d e) 260 src && !wayDown s (edgeRouter d (1 - e)) 260 src
      then edgeRouter d (1 - e) else edgeRouter d e

/-- RTR_PART of a router (R180). -/
def rtrPart (s : State) (r : Nat) : Nat := rreg s r 0x4D0
def rpValid (v : Nat) : Bool := bitOf v 63
def rpWindow (v die : Nat) : Bool := decide (64 ≤ die) && bitOf v (28 + (die - 64))
/-- A die lies in the rectangle of an RTR_PART value. -/
def rpInside (v die : Nat) : Bool :=
  decide (die < 64) && decide (bitsOf v 27 25 ≤ die % 8) && decide (die % 8 ≤ bitsOf v 24 22)
    && decide (bitsOf v 21 19 ≤ die / 8) && decide (die / 8 ≤ bitsOf v 18 16)

/-- Traffic between an I/O die and the sites of another partition passes on VC0, and only passes (R31, R180). -/
def transit (v site vc h : Nat) : Bool :=
  let sd := srcDie (hSrc h)
  let dd := aDie (hAddr h)
  vc == 0 && (decide (64 ≤ sd) || decide (64 ≤ dd)) && sd != site && dd != site
    && !(rpValid v && (rpInside v sd || rpInside v dd))

/-- The port at which a core router stops a packet that came in at one port and would leave by another (R166): the input port
where the packet does not belong to the partition, the output port where it would leave the rectangle. -/
def boundaryStop (s : State) (r inPort p vc h : Nat) : Option Nat :=
  let v := rtrPart s r
  let sd := srcDie (hSrc h)
  let dd := aDie (hAddr h)
  if 16384 ≤ r || transit v (siteOf r) vc h then none
  else if !rpValid v || !(rpInside v sd || rpWindow v sd) then some inPort
  else
    let leaves := match linkEnd r p with | some e => decide (16384 ≤ e.1) || !rpInside v (siteOf e.1) | none => false
    if leaves && !(vc == 0 && rpWindow v dd) then some p else none

/-- What a router answers instead of sending a packet to port p, with the port it counts at: PART_BOUNDARY, or FENCED_DEST at
a closed local port or a down link (R163, R166). -/
def portStop (s : State) (r inPort p vc h : Nat) : Option (Nat × Nat) :=
  match boundaryStop s r inPort p vc h with
  | some q => some (q, 0x06)
  | none => if p = 0 then (if r < 16384 && localClosed s r then some (0, 0x07) else none)
      else if linkDown s r p then some (p, 0x07) else none

/-! Trees (R162 to R165). -/

def mcEntry (s : State) (r tree : Nat) : Nat := rreg s r (0x800 + 8 * tree)
def mcIn (v : Nat) : List Nat := (List.range 5).filter (fun p => bitOf v (24 + p))
def mcOut (v : Nat) : List Nat := (List.range 5).filter (fun p => bitOf v (19 + p))

/-- Ports that take the next flit of a multicast: at the head those of the entry that no rule stops, afterwards those the
head went to. -/
def mcPorts (s : State) (h : Hop) : List Nat :=
  let tree := hTree (pHead h.pkt)
  if h.gone = 0 then
    (mcOut (mcEntry s h.router tree)).filter (fun p => (portStop s h.router h.port p h.vc (pHead h.pkt)).isNone)
  else match (routerOf s h.router).ackWait.reverse.find? (fun w => w.tree == tree && w.inPort == h.port) with
    | some w => w.waiting
    | none => []

/-- The next REDUCE packet of an entry on each IN port, once it is at the head of its buffer (R153, R164). -/
def reduceHeads (s : State) (r tree : Nat) (ports : List Nat) : List (Option Hop) :=
  ports.map (fun p => (s.mesh.find? (fun h => h.router == r && h.port == p && hOp (pHead h.pkt) == opReduce
    && hTree (pHead h.pkt) == tree)).filter (fun h => bufferHead s h && !h.drop))

/-- The packets that a REDUCE head is combined with, when every IN port has one; the one of the lowest port stands for all. -/
def reduceSet (s : State) (h : Hop) : List Hop :=
  let tree := hTree (pHead h.pkt)
  let v := mcEntry s h.router tree
  let hs := reduceHeads s h.router tree (mcIn v)
  if bitOf v 31 && bitOf v 30 && hs.all (fun g => g.isSome) && hs.head? == some (some h) then hs.filterMap id else []

/-! The choice of an output (R159). -/

/-- The core whose COMMIT a packet carries. -/
def commitSource (s : State) (pkt : Packet) : Option Nat :=
  let x := hSrc (pHead pkt)
  let c := sourceCore x
  if srcDie x < 64 && hOp (pHead pkt) = opWrite
    && (coreOf s c).te.any (fun t => t.tid.toNat == hTid (pHead pkt) && t.opc == 0x84#8) then some c else none

/-- The commits of a step leave the head region only after the step has reported (R357). In Binocular mode they also wait until
the head's step and every earlier one have compared equal, and none leaves a frozen module (R388, R389). -/
def commitHold (s : State) (p : Nat) : Bool :=
  match jobOf s p with
  | none => false
  | some j => match headOf j with
    | none => false
    | some i =>
        let r := regionRun s p i
        r.busy || (obj s 0x4500 2 == p && (s.binoState == 2 || (s.binoState == 1
          && j.subOwn.any (fun e => decide (e.1.toNat ≤ r.stepNum.toNat)))))

/-- Outputs that the packet at the head of a buffer has to take; none where it is refused or waits for other contributions. -/
def outsOf (s : State) (h : Hop) : List Nat :=
  let x := pHead h.pkt
  if h.drop || !bufferHead s h then []
  else if hOp x = opMcast then mcPorts s h
  else if hOp x = opReduce then (if (reduceSet s h).isEmpty then [] else (mcOut (mcEntry s h.router (hTree x))).take 1)
  else
    let p := routePort h.router (destRouter s x)
    if h.gone = 0 && (portStop s h.router h.port p h.vc x).isSome then [] else [p]

/-- Flits of it that stand ready: of every contribution, for a reduction. -/
def flitsReady (s : State) (h : Hop) : Nat :=
  if hOp (pHead h.pkt) = opReduce then (reduceSet s h).foldl (fun n g => min n g.here) h.here else h.here

/-- The local port can take the packet: a read needs room for its response, and a held commit waits. -/
def localTakes (s : State) (h : Hop) : Bool :=
  if hOp (pHead h.pkt) = opReadReq then (openHop s h.router 0 1).isNone && decide (0 < roomIn s h.router 0 1)
  else match (commitSource s h.pkt).bind (corePart s) with
    | some p => !commitHold s p
    | none => true

/-- Flits that output p can take of the packet. -/
def portTakes (s : State) (h : Hop) (p : Nat) : Nat :=
  if p = 0 then (if localTakes s h then 17 else 0) else creditsLeft s h.router p (hopBuf h)

/-- Some flit of the packet is ready for every output it has to take. -/
def hopReady (s : State) (h : Hop) : Bool := decide (0 < flitsReady s h) && (outsOf s h).all (fun p => decide (0 < portTakes s h p))

/-- Packets of a channel that compete for an output. -/
def wants (s : State) (r p vc : Nat) : List Hop :=
  s.mesh.filter (fun h => h.router == r && h.vc == vc && (outsOf s h).contains p)

/-- The packet of a channel that may take an output next: the one that holds it from its head on; else a response before a
request, and input ports in turn after the last winner. -/
def channelPick (s : State) (r p vc : Nat) : Option Hop :=
  let ws := wants s r p vc
  match ws.find? (fun h => h.gone != 0) with
  | some h => if hopReady s h then some h else none
  | none =>
      let ready := ws.filter (hopReady s)
      let rsp := ready.filter (fun h => hOp (pHead h.pkt) == opReadRsp)
      let last := getN 4 (routerOf s r).lastWin (4 * p + vc)
      (sortBy (fun (a b : Hop) => decide ((a.port + 4 - last) % 5 < (b.port + 4 - last) % 5))
        (if rsp.isEmpty then ready else rsp)).head?

/-- VC0 has sent no flit on the output in the previous 15 FCLK: 2 clock units each, or one for each flit of other channels. -/
def floorDue (s : State) (r p : Nat) : Bool :=
  match lookupN (routerOf s r).vc0Sent p with
  | some e => decide (e.1 + 30 ≤ s.units) || decide (15 ≤ e.2)
  | none => true

/-- The highest ready channel above VC0. -/
def upperPick (s : State) (r p : Nat) : Option Hop := [3, 1, 2].findSome? (channelPick s r p)

/-- The packet whose flit an output sends next (R159). -/
def outPick (s : State) (r p : Nat) : Option Hop :=
  match channelPick s r p 0 with
  | some h => if floorDue s r p then some h else (upperPick s r p).or (some h)
  | none => upperPick s r p

/-- The packet has the choice of every output it has to take. -/
def wins (s : State) (h : Hop) : Bool :=
  let outs := outsOf s h
  !outs.isEmpty && hopReady s h && outs.all (fun p => outPick s h.router p == some h)

/-- Flits that may go before an output's choice changes: what is ready and has credits, and no more than the floor of VC0
leaves. -/
def quota (s : State) (h : Hop) : Nat :=
  (outsOf s h).foldl (fun n p =>
    let n := min n (portTakes s h p)
    if h.vc = 0 then (if (upperPick s h.router p).isSome then 1 else n)
    else if (channelPick s h.router p 0).isNone then n
    else match lookupN (routerOf s h.router).vc0Sent p with
      | some e => min n (15 - e.2)
      | none => n) (flitsReady s h)

/-- The rest of a packet that is still coming into a buffer is lost: what stands there, and farther on, leaves as it comes. Fuel
bounds the way. -/
def cutAt : Nat → State → Nat → Nat → Nat → State
  | 0, s, _, _, _ => s
  | n + 1, s, r, p, b =>
      match openHop s r p b with
      | none => s
      | some h =>
          let x := pHead h.pkt
          let outs := if h.gone = 0 then [] else if hOp x = opMcast then mcPorts s h
            else if hOp x = opReduce then (mcOut (mcEntry s r (hTree x))).take 1 else [routePort r (destRouter s x)]
          let s := outs.foldl (fun s q => match linkEnd r q with | some e => cutAt n s e.1 e.2 b | none => s) s
          { s with mesh := if h.here = 0 then s.mesh.erase h
              else s.mesh.replace h { h with gone := flitsOf h.pkt - h.here, drop := true } }

/-- A packet whose head has already gone out at port p is refused there: its rest will not follow. -/
def cutBelow (s : State) (h : Hop) (p : Nat) : State :=
  if h.gone = 0 then s else match linkEnd h.router p with
    | some e => cutAt 260 s e.1 e.2 (hopBuf h)
    | none => s

/-! Flits move. -/

/-- Count flits on output p (R174, R175). -/
def countFlits (s : State) (r p vc n : Nat) : State :=
  bumpR s r (portReg p (if vc < 2 then 0 else 1)) (if vc % 2 = 1 then 63 else 31) (if vc % 2 = 1 then 32 else 0) n

/-- RTR_STALL of an output while it sends n flits of a channel (R177): other channels that lose, and those without credit. A
flit is one FCLK. -/
def countStalls (s : State) (r p vc n : Nat) : State :=
  let others := [0, 1, 2, 3].filter (· != vc)
  let lost := others.any (fun c => (channelPick s r p c).isSome)
  let dry := p != 0 && others.any (fun c => (wants s r p c).any (fun h => decide (0 < h.here) && portTakes s h p == 0))
  bumpR (bumpR s r (portReg p 3) 31 0 (if lost then n else 0)) r (portReg p 3) 63 32 (if dry then n else 0)

/-- What an output remembers of the flits it has sent: the winner of a head, and the floor of VC0. -/
def noteSent (t : RouterState) (now inPort p vc n : Nat) (first : Bool) : RouterState :=
  { t with
    lastWin := if first then putN t.lastWin (4 * p + vc) inPort else t.lastWin
    vc0Sent := if vc = 0 then putN t.vc0Sent p (now, 0)
      else match lookupN t.vc0Sent p with
        | some e => putN t.vc0Sent p (e.1, e.2 + n)
        | none => t.vc0Sent }

/-- Put n flits of a packet out at port p: on the local port they leave the mesh. -/
def putOut (s : State) (r inPort vc : Nat) (pkt : Packet) (n : Nat) (first : Bool) (p : Nat) : State :=
  let s := updRouter (countFlits s r p vc n) r (fun t => noteSent t s.units inPort p vc n first)
  match linkEnd r p with
  | none => s
  | some e =>
      let b := bufOf vc (hOp (pHead pkt))
      let s := updRouter s r (fun t => { t with creditsUsed := updN 0 t.creditsUsed (5 * p + b) (fun k => k + n) })
      putFlits s e.1 e.2 vc pkt n first

/-- n flits of the packet at the head of a buffer go to its outputs in the same FCLK (R162). -/
def sendFlits (s : State) (h : Hop) (outs : List Nat) (n : Nat) : State :=
  let s := outs.foldl (fun s p => countStalls s h.router p h.vc n) s
  outs.foldl (putOut · h.router h.port h.vc h.pkt n (decide (h.gone = 0)) ·) (takeFlits s h n)

/-- A packet that waits for a credit at output p: one FCLK of RTR_STALL.CREDIT. -/
def creditStall (s : State) (h : Hop) (p : Nat) : State :=
  if p ≠ 0 && 0 < h.here && portTakes s h p = 0 then bumpR s h.router (portReg p 3) 63 32 1 else s

/-- The code at a router (R352): counts, events, and granules that go on poisoned; sixteen uncorrectable flits of a link in
1 s fence it (R355). -/
def routerEcc (s : State) (h : Hop) (e : EccObs) : State × Hop :=
  let r := h.router
  let p := h.port
  let off := 0x4D8
  let flits := (e.ue.map (· / 8)).eraseDups.length
  let s := bumpR (bumpR s r off 63 32 (e.ce1 + e.ce2)) r off 31 16 flits
  let s := if e.ce2 = 0 then s else raise s 0x4010 0 (routerUnit r p) (routerRep r) []
  if e.ue.isEmpty then (s, h)
  else
    let s := routerBell (raise s 0x4013 1 (routerUnit r p) (routerRep r) []) r p
    let s := updRouter s r (fun t => { t with ueTimes := t.ueTimes ++ List.replicate flits (p, s.units) })
    let n := ((routerOf s r).ueTimes.filter (fun t => t.1 == p && decide (s.units < t.2 + unitsPerSec))).length
    let s := if 16 ≤ n && p ≠ 0 then fenceLink s r p 0x4013 else s
    let h' := { h with pkt := { h.pkt with poison := (h.pkt.poison ++ e.ue).eraseDups } }
    ({ s with mesh := s.mesh.replace h h' }, h')

/-- The packet at the head of an input buffer that a command names. -/
def headHop (s : State) (r p vc : Nat) (pkt : Packet) : Option Hop :=
  s.mesh.find? (fun h => h.router == r && h.port == p && h.vc == vc && h.pkt == pkt && bufferHead s h)

end Sys2Proof.Machine
end

