-- ==== Sys2Proof/Machine/Inbox.lean ====
section
/-! DEFINITION. What landing packets mean to transfers and to sweeps: a transfer is complete when its bytes have landed (R128), and
the packets of a sweep (R252 to R257) are its writes into the hub's inbox, its multicast to the cores of a reach, the sums of
its gather and its results. Where a core keeps a sweep that it has received, and the hub its sums, is not given (log entry 134). -/

namespace Sys2Proof.Machine

/-- Completion of a transfer at its source: n bytes of it have landed (R128). A READ stands at the head of its queue until its
data have landed, so that they are visible to the queue's later commands (R118). -/
def landed (s : State) (src tid n : Nat) : State :=
  if 64 ≤ srcDie src then s
  else
    let c := sourceCore src
    match (coreOf s c).te.find? (fun t => t.tid.toNat == tid) with
    | none => s
    | some t =>
        if n < t.remaining then
          updCore s c (fun v => { v with te := v.te.map (fun u => if u = t then { u with remaining := u.remaining - n } else u) })
        else
          let s := updCore s c (fun v => { v with
            te := v.te.erase t, teq := if t.opc == 0x71#8 then v.teq.drop 1 else v.teq })
          drainEnd (finishToken s c 4 t.index.toNat t.opc.toNat (t.token.map Fin.val)) c

/-- The job of a core's partition. -/
def runJobAt (s : State) (c : Nat) : Option (Nat × Job) := (corePart s c).bind (fun p => (jobOf s p).map (fun j => (p, j)))
/-- A sweep section in use, with the placement of its logical cores: the main layout's, or that of the loaded draft (R299). -/
def sweepSection (s : State) (p : Nat) (j : Job) (draft : Bool) : Option (SweepDesc × (Nat × Nat → Nat)) :=
  if draft then j.draft.map (fun x => (x.file.body.sweep, fileCore s p x.file x.detour))
  else (sweepDesc j).map (fun d => (d, physCore s p j))
/-- The hub core of a section (R252). -/
def hubCore (e : SweepDesc × (Nat × Nat → Nat)) : Nat := e.2 e.1.hub
/-- A core is the hub of a section. -/
def isHubOf (s : State) (p : Nat) (j : Job) (draft : Bool) (c : Nat) : Bool :=
  match sweepSection s p j draft with | some e => hubCore e == c | none => false
/-- A SWEEP belongs to the section whose trees its TREE names: the compiler keeps the draft's entries apart (R299, log entry 141). -/
def draftTree (j : Job) (tree : Nat) : Bool :=
  match j.draft with
  | some x => x.file.body.trees.any (fun e => e.entry.val == tree || e.entry.val == tree + 1)
  | none => false

/-- A sweep of a partition takes a new value. -/
def putSweep (s : State) (p : Nat) (w w' : SweepRun) : State := updJob s p (fun j => { j with sweeps := j.sweeps.replace w w' })
/-- A token and head of a sweep is a unit. -/
def sweepUnits (w : SweepRun) : Nat := w.tokens * w.heads
/-- Bytes of the contribution to a unit, and of its result (R255, R257). -/
def contribBytes : Nat := 1856
def resultBytes : Nat := 2048

/-- n bytes of a WRITE have landed. Bytes of a sweep fill its inbox slot, and a whole sweep joins the queue of those that have
arrived; bytes of a result count for the SWEEP at its core. -/
def sweepLanded (s : State) (src tid n : Nat) : State :=
  let c := sourceCore src
  if 64 ≤ srcDie src then s
  else match runJobAt s c with
    | none => s
    | some (p, j) =>
      match j.sweeps.find? (fun w => w.owner.val == c && w.tid.toNat == tid && decide (w.arrived < w.size)) with
      | some w =>
          let w' := { w with arrived := w.arrived + n }
          if w.size ≤ w'.arrived then updJob s p (fun j => { j with sweeps := j.sweeps.erase w ++ [w'] }) else putSweep s p w w'
      | none =>
        match j.sweeps.find? (fun w => w.resTid == some (BitVec.ofNat 16 tid) && isHubOf s p j w.draft c) with
        | some w =>
            let w' := { w with resLanded := w.resLanded + n }
            let s := if resultBytes * sweepUnits w ≤ w'.resLanded then updJob s p (fun j => { j with sweeps := j.sweeps.erase w })
              else putSweep s p w w'
            landed s (coreSrc w.owner.val) w.tid.toNat n
        | none => s

/-- A packet of the hub's multicast has been acknowledged; with the last one the inbox slot is free (R252). -/
def sweepAcked (s : State) (r tid : Nat) : State :=
  match runJobAt s r with
  | none => s
  | some (p, j) =>
      match j.sweeps.find? (fun w => w.mcTid.toNat == tid && w.taken && w.mcLeft != 0 && isHubOf s p j w.draft r) with
      | some w => putSweep s p w { w with mcLeft := w.mcLeft - 1, slot := if w.mcLeft = 1 then none else w.slot }
      | none => s

/-- n bytes of a sweep have reached a core by the hub's multicast. -/
def sweepReceived (s : State) (r src tid n : Nat) : Option State :=
  match runJobAt s r with
  | none => none
  | some (p, j) =>
      (j.sweeps.find? (fun w => w.mcTid.toNat == tid && w.taken && isHubOf s p j w.draft (sourceCore src))).map (fun w =>
        putSweep s p w { w with received := updN 0 w.received r (· + n) })

/-- A packet of sums has reached the hub on a gather tree. -/
def sweepGathered (s : State) (r tree : Nat) (body : Bytes) (bad : Bool) : Option State :=
  match runJobAt s r with
  | none => none
  | some (p, j) =>
      (j.sweeps.find? (fun w => w.taken && w.tree + 2 * w.reach + 1 == tree && decide (w.gathered.length < 2 * sweepUnits w)
        && isHubOf s p j w.draft r)).map (fun w => putSweep s p w { w with gathered := w.gathered ++ [(body, bad)] })

end Sys2Proof.Machine
end

