-- ==== Sys2Proof/Machine/Fabric.lean ====
section
/-! DEFINITION. What the routers do with packets (ch. 06): forwarding, landing, multicast and reduction, and link
resynchronisation. A command moves the flits that stand ready; what a packet does at its end happens as its last flit arrives. -/

namespace Sys2Proof.Machine

/-- PACKET_ROUTE (R152, R159, R163, R166): the flits of the packet at the head of an input buffer go one hop on, when its
output's choice falls on it. A packet that has arrived is left for its landing. -/
def execPacketRoute (r : RouterId) (inPort : PortIx) (vc : Vc) (pkt : Packet) (ecc : EccObs) (s : State) : Out :=
  let op := hOp (pHead pkt)
  if !pktOk pkt then .fault (.illFormed "PACKET_ROUTE")
  else .next (
    match headHop s r.val inPort.val vc.val pkt with
    | none => s
    | some h =>
      let p := routePort r.val (destRouter s (pHead pkt))
      if op = opMcast || op = opReduce || p = 0 then s
      else if h.drop then takeFlits s h h.here
      else match portStop s r.val inPort.val p vc.val (pHead pkt) with
        | some e => refusePacket (cutBelow s h p) h e.1 e.2
        | none =>
          if !wins s h then creditStall s h p
          else
            let n := quota s h
            let e := routerEcc s h ecc
            sendFlits e.1 e.2 [p] n)

/-! Landing. -/

/-- A transfer fails at its source (R167, R188). -/
def transferFails (s : State) (c : Nat) (t : TeTxn) (code : Nat) : State :=
  failCommand (updCore s c (fun v => { v with te := v.te.erase t })) c 4 t.index.toNat code t.opc.toNat 4

/-- The memory that an arrived packet addresses, with its size; none for a space the mesh does not carry. -/
inductive MeshMem where
  | spad (c : Nat) | vault (k : Nat) | cc (i : Nat)
  deriving DecidableEq, Repr
def meshMem (a : Nat) : Option (MeshMem × Nat) :=
  let d := aDie a
  if aSpace a = 0 && d < 64 then some (.spad (coreAt d (aCluster a) (aCore a)), Config.spadSize)
  else if aSpace a = 1 && d < 64 then some (.vault (d * 16 + aCluster a), Config.vaultCap)
  else if aSpace a = 4 && d < 64 then some (.cc (d * 16 + aCluster a), Config.ccMemCluster)
  else if aSpace a = 4 && aCluster a < 2 then some (.cc (1024 + 2 * (d - 64) + aCluster a), Config.ccMemIo)
  else none
def memOf (s : State) (m : MeshMem) : Mem :=
  match m with | .spad c => (coreOf s c).spad | .vault k => (clOf s k).vault | .cc i => (ccOf s i).mem
def setMem (s : State) (m : MeshMem) (v : Mem) : State :=
  match m with
  | .spad c => updCore s c (fun t => { t with spad := v })
  | .vault k => updCl s k (fun t => { t with vault := v })
  | .cc i => updCc s i (fun t => { t with mem := v })

/-- What the destination refuses of an access of n bytes (R123, R131, R135, R167). -/
def destError (a n : Nat) (burst : Bool) : Option Nat :=
  if aSpace a ≠ 0 && aCore a ≠ 0 then some 0x03
  else match meshMem a with
    | none => some 0x04
    | some m =>
        if m.2 < aOff a + n then some 0x04
        else if aOff a % 8 ≠ 0 then some 0x05
        else if burst && aSpace a = 1 && aOff a / 256 ≠ (aOff a + n - 1) / 256 then some 0x05
        else none

/-- A burst of another core at a vault port is background traffic (R132). -/
def backgroundBurst (s : State) (m : MeshMem) : State := match m with | .vault k => vaultWork s k 1 | _ => s

/-- Granules of a body written at their places from address a on. -/
def writeGranules (m : Mem) (a : Nat) (b : Bytes) (gs : List Nat) : Mem :=
  gs.foldl (fun m g => memWrite m (a + 8 * g) (sliceB b (8 * g) 8)) m

/-- Write the arriving granules of a body; poisoned ones stay poisoned (R353). -/
def landBytes (s : State) (a : Nat) (b : Bytes) (gs poison : List Nat) : State :=
  match meshMem a with
  | none => s
  | some m =>
      let v := writeGranules (memOf s m.1) (aOff a) b gs
      backgroundBurst (setMem s m.1 (memPoison v (poison.map (· + aOff a / 8)))) m.1

/-- The packet of a channel that has arrived at its router. -/
def arrived (s : State) (r vc : Nat) (pkt : Packet) : Option Hop :=
  if routePort r (destRouter s (pHead pkt)) = 0 then
    s.mesh.find? (fun h => h.router == r && h.vc == vc && h.pkt == pkt && bufferHead s h)
  else none

/-- Take the ready flits of an arrived packet of an operation out of the mesh: entry and destination checks at its head
first, then, once the local output's choice falls on it, its flits leave, and its effect follows its last. -/
def takePacket (s : State) (r vc op : Nat) (pkt : Packet) (refused : Option Nat) (k : State → State) : State :=
  if hOp (pHead pkt) ≠ op then s
  else match arrived s r vc pkt with
    | none => s
    | some h =>
      if h.drop then takeFlits s h h.here
      else match portStop s r h.port 0 vc (pHead pkt) with
      | some e => refusePacket s h e.1 e.2
      | none => match refused with
        | some e => refusePacket s h 0 e
        | none =>
          if !wins s h then s
          else
            let n := quota s h
            let t := sendFlits s h [0] n
            if flitsOf pkt ≤ h.gone + n then k t else t

/-- The core a head's address names. -/
def addrCore (a : Nat) : Nat := coreAt (aDie a) (aCluster a) (aCore a)

/-- The command of a transfer at its source: opcode and index. -/
def sourceCommand (s : State) (src tid : Nat) : Option (Nat × Nat) :=
  if 64 ≤ srcDie src then none
  else ((coreOf s (sourceCore src)).te.find? (fun t => t.tid.toNat == tid)).map (fun t => (t.opc.toNat, t.index.toNat))

/-- A destination core signals a head's token on itself (R128, R157); an overflow names the source's command and is a command
error of the job (R130). -/
def deliverToken (s : State) (c sem : Nat) (by_ : Option (Nat × Nat)) : State :=
  let r := signalSem s c sem 1 by_
  if r.2 then failCommand r.1 c 0 (coreOf r.1 c).cmdIndex.toNat eSemOverflow 0 0 else r.1

/-- The destination's own completion token (R128, R157). -/
def headToken (s : State) (pkt : Packet) : State :=
  let h := pHead pkt
  if hCtv h && aDie (hAddr h) < 64 then
    deliverToken s (addrCore (hAddr h)) (hCtsem h) (sourceCommand s (hSrc h) (hTid h)) else s

/-- Poisoned granules among those that land. -/
def landPoison (pkt : Packet) (gs : List Nat) : List Nat := pkt.poison.filter (fun g => gs.contains g)

/-- Land granules of a packet, answer UNCORRECTABLE for a poisoned one, signal, and tell the source. -/
def landData (s : State) (pkt : Packet) (gs : List Nat) : State :=
  let h := pHead pkt
  let bad := landPoison pkt gs
  let s := landBytes s (hAddr h) pkt.body gs bad
  if bad.isEmpty then
    sweepLanded (landed (headToken s pkt) (hSrc h) (hTid h) (8 * gs.length)) (hSrc h) (hTid h) (8 * gs.length)
  else errMessage s pkt 0x09

/-- A token record lands in its output ring: the commit point (R285). A draw of a request that no longer draws is discarded
without landing (R286). -/
def landCommit (s : State) (p : Nat) (pkt : Packet) : State :=
  let h := pHead pkt
  let bs := sliceB pkt.body 0 32
  let gs := bodyGranules pkt
  match findReq s p (leAt bs 0 4) with
  | some (slot, r) =>
      if r.st == .prefill || r.st == .decode || (r.st == .paused && r.pause == some .backpressure) then
        let s := landData s pkt gs
        if pkt.poison.any (fun g => decide (g < 4)) then s else commitPoint s slot bs
      else landed s (hSrc h) (hTid h) (8 * gs.length)
  | none => landed s (hSrc h) (hTid h) (8 * gs.length)

/-- WRITE (R157, R158); a COMMIT's WRITE also makes its request's commit point (R205). -/
def execWrite (r : RouterId) (vc : Vc) (pkt : Packet) (s : State) : Out :=
  let gs := bodyGranules pkt
  if !pktOk pkt then .fault (.illFormed "WRITE")
  else .next (takePacket s r.val vc.val opWrite pkt (destError (hAddr (pHead pkt)) (extentOf gs) true) (fun t =>
    match (commitSource s pkt).bind (corePart s) with
    | some p => landCommit t p pkt
    | none => landData t pkt gs))

/-- Bytes that a READ_REQ asks for (R157). -/
def readBytes (pkt : Packet) : Nat := 8 * (hMask (pHead pkt) + 1)

/-- The READ_RSP of a READ_REQ: the data of n bytes, with the request's address and TID. -/
def readResponse (m : Mem) (h n : Nat) : Packet :=
  let x := hSrc h
  let a := hAddr h
  let b := memRead m (aOff a) n
  { head := mkHead (mkAddr (srcDie x) 0 (srcCluster x) (srcCore x) (aOff a)) opReadRsp (aDie a * 256 + aCluster a * 16 + aCore a)
      (ceilDiv n 64) false 0 (hTid h) 0 0
    body := padTo (64 * ceilDiv n 64) b
    poison := [] }

/-- READ_REQ: the data come back to the source in a READ_RSP. -/
def execReadReq (r : RouterId) (vc : Vc) (pkt : Packet) (s : State) : Out :=
  let h := pHead pkt
  let n := readBytes pkt
  if !pktOk pkt then .fault (.illFormed "READ_REQ")
  else .next (takePacket s r.val vc.val opReadReq pkt (destError (hAddr h) n true) (fun s =>
    match meshMem (hAddr h) with
    | none => s
    | some m =>
        let s := backgroundBurst s m.1
        if memPoisoned (memOf s m.1) (aOff (hAddr h)) n then errMessage s pkt 0x09
        else (inject s r.val 0 (readResponse (memOf s m.1) h n)).getD s))

/-- READ_RSP: the requester writes the data at the place its READ named. -/
def execReadRsp (r : RouterId) (vc : Vc) (pkt : Packet) (s : State) : Out :=
  let h := pHead pkt
  let c := addrCore (hAddr h)
  if !pktOk pkt then .fault (.illFormed "READ_RSP")
  else .next (takePacket s r.val vc.val opReadRsp pkt none (fun s =>
    if 64 ≤ aDie (hAddr h) then s
    else match (coreOf s c).te.find? (fun t => t.tid.toNat == hTid h && t.opc == 0x71#8) with
      | none => s
      | some t =>
          let left := t.src + t.size - aOff (hAddr h)
          let n := min (min (64 * hNbody h) left) (256 - aOff (hAddr h) % 256)
          if pkt.poison.any (fun g => decide (8 * g < n)) then transferFails s c t 0x09
          else landed (spadWrite s c (t.dst + (aOff (hAddr h) - t.src)) (sliceB pkt.body 0 n)) (coreSrc c) (hTid h) n))

/-- Granules of an INLINE: BMASK serves as in a WRITE; 0 there means all of them (log entry 121). -/
def inlineGranules (pkt : Packet) : List Nat :=
  if hMask (pHead pkt) = 0 then List.range (8 * hNbody (pHead pkt)) else bodyGranules pkt

/-- INLINE (R234): level-2 jobs only; the body goes to the destination's scratchpad. -/
def execInline (r : RouterId) (vc : Vc) (pkt : Packet) (s : State) : Out :=
  if !pktOk pkt then .fault (.illFormed "INLINE")
  else .next (takePacket s r.val vc.val opInline pkt (destError (hAddr (pHead pkt)) (64 * hNbody (pHead pkt)) true)
    (fun s => landData s pkt (inlineGranules pkt)))

/-! Multicast and reduction (R161 to R165). -/

/-- A closed local port makes a multicast partial; its entry's first such packet is answered and sets PRUNED (R163). Every one
is counted and raises FENCED_DEST. -/
def prune (s : State) (r tree : Nat) (pkt : Packet) : State :=
  let v := mcEntry s r tree
  let s := routerBell (errEvent (bumpR s r 0x4A0 31 16 1) r 0 0x07) r 0
  if bitOf v 29 then s else errMessage (setRreg s r (0x800 + 8 * tree) (v ||| 2 ^ 29)) pkt 0x07

/-- Hand a complete delivery's token up: at the root's local port it completes the command; otherwise it crosses the link
(R162). -/
def sendToken (s : State) (r inPort tree : Nat) (part : Bool) (head : BitVec 512) : State :=
  if inPort = 0 then
    let s := sweepAcked s r (hTid head.toNat)
    if part then
      match (coreOf s r).te.find? (fun t => t.tid.toNat == hTid head.toNat) with
      | some t => transferFails s r t eFenced
      | none => s
    else landed s (coreSrc r) (hTid head.toNat) 1
  else match linkEnd r inPort with
    | some e => { s with acks := s.acks ++ [{ router := e.1, port := e.2, tree := tree, partialSt := part }] }
    | none => s

/-- Delivery is complete on one port of an entry: when every port has answered, a token goes toward the input (R162). -/
def portDone (s : State) (r tree port : Nat) (part : Bool) : State :=
  match (routerOf s r).ackWait.find? (fun w => w.tree == tree && w.waiting.contains port) with
  | none => s
  | some w =>
      let w' := { w with waiting := w.waiting.erase port, partialSt := w.partialSt || part }
      if w'.waiting.isEmpty then
        sendToken (updRouter s r (fun t => { t with ackWait := t.ackWait.erase w })) r w.inPort tree w'.partialSt w.head
      else updRouter s r (fun t => { t with ackWait := t.ackWait.map (fun u => if u = w then w' else u) })

/-- The head of a multicast goes out: ports that a rule stops are answered and make it partial, and the router waits for the
others. -/
def mcastHead (s : State) (h : Hop) (outs : List Nat) : State :=
  let r := h.router
  let x := pHead h.pkt
  let tree := hTree x
  let stops := (mcOut (mcEntry s r tree)).filterMap (fun p => (portStop s r h.port p h.vc x).map (fun e => (p, e)))
  let s := stops.foldl (fun s e =>
    if e.1 = 0 && e.2.2 = 0x07 then prune s r tree h.pkt else answerRefusal s r e.2.1 e.2.2 h.pkt) s
  if outs.isEmpty then discard (sendToken s r h.port tree true h.pkt.head) h
  else updRouter s r (fun t => { t with ackWait := t.ackWait ++
    [{ tree := tree, inPort := h.port, waiting := outs, partialSt := !stops.isEmpty, head := h.pkt.head }] })

/-- The address that a tree packet writes at a router's own core: the offset of its head (R157). -/
def treeAddr (r x : Nat) : Nat := mkAddr (siteOf r) 0 (clusterIn r) (coreIn r) (aOff (hAddr x))

/-- The last flit of a multicast has reached the local port: the data land, or go to the sweep service, the core signals its
token, and the delivery is complete on port 0. -/
def mcastLocal (s : State) (r : Nat) (pkt : Packet) : State :=
  let x := pHead pkt
  let gs := bodyGranules pkt
  if localClosed s r then portDone (prune s r (hTree x) pkt) r (hTree x) 0 true
  else match destError (treeAddr r x) (extentOf gs) false with
    | some e => portDone (routerBell (errEvent (errMessage s pkt e) r 0 e) r 0) r (hTree x) 0 false
    | none =>
        let bad := landPoison pkt gs
        let s := match sweepReceived s r (hSrc x) (hTid x) (8 * gs.length) with
          | some s => s
          | none => landBytes s (treeAddr r x) pkt.body gs bad
        let s := if bad.isEmpty then s else errMessage s pkt 0x09
        let s := if hCtv x then deliverToken s r (hCtsem x) (sourceCommand s (hSrc x) (hTid x)) else s
        portDone s r (hTree x) 0 false

/-- MCAST_FORWARD (R162, R163): copy the flits of a multicast packet to every OUT port. They wait until every port can take
them. -/
def execMcastForward (r : RouterId) (inPort : PortIx) (vc : Vc) (pkt : Packet) (s : State) : Out :=
  let tree := hTree (pHead pkt)
  let v := mcEntry s r.val tree
  if !pktOk pkt then .fault (.illFormed "MCAST_FORWARD")
  else .next (
    if hOp (pHead pkt) ≠ opMcast then s
    else match headHop s r.val inPort.val vc.val pkt with
      | none => s
      | some h =>
        let outs := mcPorts s h
        if h.drop then takeFlits s h h.here
        else if h.gone = 0 && (!bitOf v 31 || bitOf v 30 || !(mcIn v).contains inPort.val) then
          refusePacket s h inPort.val 0x0B
        else if h.gone = 0 && outs.isEmpty then mcastHead s h []
        else if !wins s h then outs.foldl (creditStall · h ·) s
        else
          let n := quota s h
          let s := if h.gone = 0 then mcastHead s h outs else s
          let s := sendFlits s h outs n
          if outs.contains 0 && flitsOf pkt ≤ h.gone + n then mcastLocal s r.val pkt else s)

/-- ACK_TOKEN (R162): a token arrives from a port; when every port has answered, one goes toward the input. -/
def execAckToken (r : RouterId) (fromPort : PortIx) (tree : Fin 64) (partialSt : Bool) (s : State) : Out :=
  let tok : AckTok := { router := r.val, port := fromPort.val, tree := tree.val, partialSt := partialSt }
  .next (
    if !s.acks.contains tok then s
    else portDone { s with acks := s.acks.erase tok } r.val tree.val fromPort.val partialSt)

/-- Element-wise sums in ascending port order (R164). -/
def reduceSum (bs : List Bytes) : Bytes :=
  match bs with
  | [] => []
  | b :: t => f32Bytes (t.foldl (fun acc x => List.zipWith add32 acc (toF32s x)) (toF32s b))

/-- The sum of the contributions to a REDUCE packet, with the head of the lowest port's. -/
def reducePacket (hs : List Hop) : Packet :=
  { head := (hs.map (fun h => h.pkt.head)).headD 0, body := reduceSum (hs.map (fun h => h.pkt.body))
    poison := (hs.flatMap (fun h => h.pkt.poison)).eraseDups }

/-- The REDUCE commands of a tree are complete once the result has landed at the root (R202). -/
def reduceLanded (s : State) (root tree : Nat) (n : Nat) : State :=
  s.cores.foldl (fun s e =>
    if corePart s e.1 = corePart s root then
      match (coreOf s e.1).te.find? (fun t => t.opc == 0x73#8 && t.src == tree) with
      | some t => landed s (coreSrc e.1) t.tid.toNat n
      | none => s
    else s) s

/-- The result of a reduction lands at its root; the sums of a gather tree go to the hub's sweep (R257). -/
def reduceLocal (s : State) (r : Nat) (sum : Packet) : State :=
  let x := pHead sum
  let gs := bodyGranules sum
  let bad := landPoison sum gs
  match sweepGathered s r (hTree x) (sliceB sum.body 0 (8 * gs.length)) (!bad.isEmpty) with
  | some s => s
  | none =>
      let s := landBytes s (treeAddr r x) sum.body gs bad
      let s := if hCtv x then deliverToken s r (hCtsem x) (sourceCommand s (hSrc x) (hTid x)) else s
      reduceLanded s r (hTree x) (8 * gs.length)

/-- Every contribution is refused with one code. -/
def refuseAll (s : State) (hs : List Hop) (p : Hop → Nat) (code : Nat) : State :=
  hs.foldl (fun s h => refusePacket s h (p h) code) s

/-- The flits of contributions that stand ready are combined and sent on OUT, or land at the root (R164). Contributions that
differ in NBODY or channel are discarded and answered TREE (R165). -/
def combine (s : State) (r : Nat) (hs : List Hop) (h0 : Hop) : State :=
  let sum := reducePacket hs
  let x := pHead sum
  let out := (mcOut (mcEntry s r (hTree x))).headD 0
  if hs.any (fun h => hNbody (pHead h.pkt) ≠ hNbody x || h.vc ≠ h0.vc) then refuseAll s hs (fun h => h.port) 0x0B
  else match (if h0.gone = 0 || out = 0 then hs.findSome? (fun h => portStop s r h.port out h.vc (pHead h.pkt)) else none) with
    | some e => refuseAll s hs (fun _ => e.1) e.2
    | none => match (if out = 0 then destError (treeAddr r x) (extentOf (bodyGranules sum)) false else none) with
      | some e => refuseAll s hs (fun _ => 0) e
      | none =>
        if !wins s h0 then creditStall s h0 out
        else
          let n := quota s h0
          let s := countStalls s r out h0.vc n
          let s := hs.foldl (takeFlits · · n) s
          let s := putOut s r h0.port h0.vc sum n (decide (h0.gone = 0)) out
          if out = 0 && flitsOf sum ≤ h0.gone + n then reduceLocal s r sum else s

/-- REDUCE packets of a tree at the heads of a router's buffers. -/
def reduceHere (s : State) (r tree : Nat) : List Hop :=
  s.mesh.filter (fun h => h.router == r && hOp (pHead h.pkt) == opReduce && hTree (pHead h.pkt) == tree && bufferHead s h)

/-- REDUCE_COMBINE (R162, R164, R165): packets on an entry that is no valid REDUCE entry, or on another port than its IN ports,
are refused; when every IN port has delivered its next flits of the entry, they are combined. -/
def execReduceCombine (r : RouterId) (tree : Fin 64) (s : State) : Out :=
  let v := mcEntry s r.val tree.val
  let mine := reduceHere s r.val tree.val
  let stray := mine.filter (fun h => !h.drop && (!bitOf v 31 || !bitOf v 30 || !(mcIn v).contains h.port))
  let gone := mine.filter (fun h => h.drop)
  let hs := reduceHeads s r.val tree.val (mcIn v)
  .next (
    if !gone.isEmpty then gone.foldl (fun s h => takeFlits s h h.here) s
    else if !stray.isEmpty then refuseAll s stray (fun h => h.port) 0x0B
    else match hs.filterMap id with
      | [] => s
      | h0 :: t => if hs.all (fun h => h.isSome) then combine s r.val (h0 :: t) h0 else s)

/-! Resynchronisation (R155, R355). -/

/-- Each receiver of a link sends a word for each of its buffers, and the sender takes the credits that the words name. -/
def takeCredits (s : State) (r p : Nat) : State :=
  match linkEnd r p with
  | none => s
  | some e => updRouter s r (fun t => { t with
      creditsUsed := (List.range 5).foldl (fun m b =>
        putN m (5 * p + b) (bufSize e.1 b - sbFree (resyncWord b (roomIn s e.1 e.2 b)))) t.creditsUsed })

/-- The flit of the same FCLK is discarded with its word: its packet cannot be whole any more, and its other flits leave as
they come. -/
def loseFlit (s : State) (r p : Nat) (lost : Option (Vc × Packet)) : State :=
  match lost with
  | none => s
  | some f => match s.mesh.find? (fun h => h.router == r && h.port == p && h.vc == f.1.val && h.pkt == f.2 && h.here != 0) with
    | none => s
    | some h =>
        let h' := { h with drop := true }
        takeFlits { s with mesh := s.mesh.replace h h' } h' 1

/-- Both senders of a link take the free flits of every buffer behind it again; both routers count it (R355, R375). -/
def resyncLink (s : State) (r p : Nat) (e : Nat × Nat) : State :=
  let s := takeCredits (takeCredits s r p) e.1 e.2
  let s := bumpR (bumpR s r 0x4D8 15 0 1) e.1 0x4D8 15 0 1
  routerBell (raise s 0x3031 1 (linkUnit r p) (routerRep r) []) r p

/-- LINK_RESYNC (R155, R355): a sideband word reaches a port whose code reports an uncorrectable error, or that counts as one.
It is discarded with the flit of its FCLK, and both senders take the free flits of every buffer behind the link again; three
in 1 s fence the link. Any other word does nothing here: its credits and tokens move with their own commands. -/
def execLinkResync (r : RouterId) (sb : Sideband) (s : State) : Out :=
  .next (match linkEnd r.val sb.port.val with
    | none => s
    | some e =>
      if !sb.codeBad && !sbBad sb.word.toNat then s
      else
        let s := resyncLink (loseFlit s r.val sb.port.val sb.lost) r.val sb.port.val e
        let s := updRouter s r.val (fun t => { t with syncTimes := t.syncTimes ++ [(sb.port.val, s.units)] })
        let n := ((routerOf s r.val).syncTimes.filter (fun t => t.1 == sb.port.val && decide (s.units < t.2 + unitsPerSec))).length
        if 3 ≤ n then fenceLink s r.val sb.port.val 0x3031 else s)

end Sys2Proof.Machine
end

