-- ==== Sys2Proof/Machine/Transfers.lean ====
section
/-! DEFINITION. The transfer commands of the TEQ (R129, R202, R205 to R207): SEND, READ, MCAST, REDUCE, SIGNAL.R, INL, COMMIT,
PLATE.FOLD and TREAD. The TE injects packets in address order while the local input buffer of its channel has room, and its
command leaves the queue once the last has left; a READ, once its data have landed. -/

namespace Sys2Proof.Machine

/-- Granule enable of the last body flit of n bytes (R157). -/
def lastMask (n : Nat) : Nat :=
  let g := ceilDiv n 8 % 8
  if g = 0 then 0xFF else 2 ^ g - 1

/-- A packet that carries n bytes of scratchpad from byte address a. -/
def dataPacket (s : State) (c op addr a n : Nat) (ctv : Bool) (ctsem tid tree : Nat) : Packet :=
  { head := mkHead addr op (coreSrc c) (ceilDiv n 64) ctv ctsem tid (lastMask n) tree
    body := padTo (64 * ceilDiv n 64) (spadRead s c a n)
    poison := [] }

/-- A transfer as its command describes it: operation, channel, opcode, bytes, bytes of the packet at a position, and the
packet there. -/
structure Transfer where
  op    : Nat
  vc    : Nat
  opc   : Nat
  size  : Nat
  /-- what has to land: bytes, or packets of a multicast -/
  total : Nat
  dst   : Nat
  src   : Nat
  deriving DecidableEq, Repr

/-- Inject packets from a position on, while there is room; the position reached. `span` gives the bytes of the packet at a
position. -/
def injectFrom (c : Nat) (x : Transfer) (span : Nat → Nat) (pkt : State → Nat → Nat → Packet) : Nat → State → Nat → State × Nat
  | 0, s, at_ => (s, at_)
  | fuel + 1, s, at_ =>
      if x.size ≤ at_ then (s, at_)
      else match inject s c x.vc (pkt s at_ (span at_)) with
        | none => (s, at_)
        | some s => injectFrom c x span pkt fuel s (at_ + span at_)

/-- Run a transfer: its transaction begins with its first packet; it stays at the head of the queue until its last packet has
left, a READ until its data have landed (R118), and completes when everything has landed (R128, R202). -/
def runTransfer (s : State) (c : Nat) (i : Issued) (w : Nat) (x : Transfer) (span : Nat → Nat)
    (pkt : Nat → State → Nat → Nat → Packet) : EngRes :=
  let v := coreOf s c
  let mine := v.te.find? (fun t => decide (t.sent < t.size) && t.opc.toNat == x.opc)
  let t : TeTxn := mine.getD { tid := v.nextTid, index := i.index, opc := BitVec.ofNat 8 x.opc,
                               token := (ownToken w).map (Fin.ofNat 32), sent := 0, remaining := x.total, dst := x.dst,
                               src := x.src, size := x.size }
  let r := injectFrom c x span (pkt t.tid.toNat) x.size s t.sent
  if x.size = 0 then .done s
  else if r.2 = t.sent || (x.opc == 0x71 && mine.isNone && v.te.any (fun t => t.opc == 0x71#8)) then .hold
  else
    let t' := { t with sent := r.2 }
    let s := updCore r.1 c (fun v =>
      if mine.isSome then { v with te := v.te.map (fun u => if u = t then t' else u) }
      else { v with te := v.te ++ [t'], nextTid := v.nextTid + 1 })
    if x.size ≤ r.2 && x.opc ≠ 0x71 then .left s else .wait s

/-- A fault that the source router finds (R167): the event and the code of the command. -/
def sourceFail (s : State) (c code : Nat) : EngRes := .fail (errEvent s c 0 code) code 4

/-- Bytes of a packet of at most 1 KiB at a position. -/
def kiloSpan (size at_ : Nat) : Nat := min 1024 (size - at_)
/-- Bytes of a read at a position: up to the end of the 256 B span (R135). -/
def burstSpan (off size at_ : Nat) : Nat := min (256 - (off + at_) % 256) (size - at_)

/-- The head's token is that of a command with CTD, on the last packet (R183). -/
def ctdToken (w size upto : Nat) : Bool := wCtv w && wCtd w && decide (size ≤ upto)

/-- The vault of the core's own cluster: its TE is a local requester of that vault port and uses no mesh (R132). -/
def clusterVault (c a : Nat) : Bool := aSpace a == 1 && aDie a == siteOf c && aCluster a == clusterIn c

/-- A local access of the vault port: the port's checks, then the access (R123, R131, R167). -/
def localVault (s : State) (c a n : Nat) (k : EngRes) : EngRes :=
  match destError a n false with
  | some e => sourceFail s c e
  | none => k

def sendBody (c : Nat) (s : State) (i : Issued) (w : Nat) : EngRes :=
  let n := 8 * gN w
  let vc := wMod w % 4
  let a := gAddr w
  let span := if aSpace a = 1 then burstSpan (aOff a) n else kiloSpan n
  match sourceError a opWrite vc (coreLevel s c == 2) with
  | some e => sourceFail s c e
  | none => opRead s c (wA w) n 1 (fun b =>
      if clusterVault c a then localVault s c a n (
        let s := vaultWrite s (clusterOf c) (aOff a) b
        .done (if ctdToken w n n then deliverToken s (addrCore a) (wCtsem w) (some (0x70, i.index.toNat)) else s))
      else
        runTransfer s c i w { op := opWrite, vc := vc, opc := 0x70, size := n, total := n, dst := 0, src := 0 } span
          (fun tid s at_ k => dataPacket s c opWrite (a + at_) (8 * wA w + at_) k (ctdToken w n (at_ + k)) (wCtsem w) tid 0))

/-- SEND (R202): WRITE packets of up to 16 body flits; to a vault, of one burst each (R135, log entry 122). -/
def execSend (c : CoreId) (s : State) : Out := .next (runEngine s c.val 4 0x70 (sendBody c.val))

def readBody (c : Nat) (s : State) (i : Issued) (w : Nat) : EngRes :=
  let n := 8 * gN w
  let a := gAddr w
  let off := aOff a
  match sourceError a opReadReq 0 (coreLevel s c == 2) with
  | some e => sourceFail s c e
  | none =>
      if spadOver (wA w) n then .fail s eSpadRange 1
      else if clusterVault c a then localVault s c a n (
        if memPoisoned (clOf s (clusterOf c)).vault off n then .fail s eUncorrectable 4
        else .done (spadWrite s c (8 * wA w) (vaultRead s (clusterOf c) off n)))
      else
        runTransfer s c i w { op := opReadReq, vc := 0, opc := 0x71, size := n, total := n, dst := 8 * wA w, src := off }
          (burstSpan off n) (fun tid _ at_ k =>
            { head := mkHead (a + at_) opReadReq (coreSrc c) 0 false 0 tid (k / 8 - 1) 0, body := [], poison := [] })

/-- READ (R202): READ_REQ packets on VC0, each within one 256 B span. -/
def execRead (c : CoreId) (s : State) : Out := .next (runEngine s c.val 4 0x71 (readBody c.val))

/-- Channel of an MCAST or REDUCE; other channels are BAD_VC (R158). -/
def treeVcBad (w : Nat) : Bool := wMod w % 4 != 1 && wMod w % 4 != 2

def mcastBody (c : Nat) (s : State) (i : Issued) (w : Nat) : EngRes :=
  let n := 8 * gN w
  let vc := wMod w % 4
  if treeVcBad w then sourceFail s c 0x0A
  else opRead s c (wA w) n 1 (fun _ =>
    runTransfer s c i w { op := opMcast, vc := vc, opc := 0x72, size := n, total := ceilDiv n 1024, dst := 0, src := wMod w / 4 }
      (kiloSpan n) (fun tid s at_ k =>
        dataPacket s c opMcast (gAddr w + at_) (8 * wA w + at_) k (ctdToken w n (at_ + k)) (wCtsem w) tid (wMod w / 4)))

/-- MCAST (R162, R202). -/
def execMcast (c : CoreId) (s : State) : Out := .next (runEngine s c.val 4 0x72 (mcastBody c.val))

def reduceBody (c : Nat) (s : State) (i : Issued) (w : Nat) : EngRes :=
  let n := 8 * gN w
  let vc := wMod w % 4
  if treeVcBad w then sourceFail s c 0x0A
  else if (coreOf s c).dupTile.isSome then .hold
  else match sourceError (gAddr w) opReduce vc (coreLevel s c == 2) with
    | some e => sourceFail s c e
    | none =>
        if gN w % 8 ≠ 0 then .fail s eDesc 0
        else opRead s c (wA w) n 1 (fun _ =>
          runTransfer s c i w { op := opReduce, vc := vc, opc := 0x73, size := n, total := n, dst := 0, src := wMod w / 4 }
            (kiloSpan n) (fun tid s at_ k =>
              dataPacket s c opReduce (gAddr w + at_) (8 * wA w + at_) k (ctdToken w n (at_ + k)) (wCtsem w) tid (wMod w / 4)))

/-- REDUCE (R164, R202): whole body flits. It waits while a sampled tile of the core has not been compared (R100). -/
def execReduce (c : CoreId) (s : State) : Out := .next (runEngine s c.val 4 0x73 (reduceBody c.val))

def signalRBody (c : Nat) (s : State) (i : Issued) (w : Nat) : EngRes :=
  let die := bitsOf w 63 57
  if !(coreOf s c).te.isEmpty then .hold
  else if 80 ≤ die then sourceFail s c 0x01
  else .done (sendCtrl s { words := [msgHeader 1 die (bitsOf w 56 53) (bitsOf w 52 49) false 2 false false (bitsOf w 95 91),
    coreSource c i.index.toNat, BitVec.ofNat 32 (bitsOf w 79 64)] })

/-- SIGNAL.R (R129): sent once every earlier command of the TEQ is complete. -/
def execSignalR (c : CoreId) (s : State) : Out := .next (runEngine s c.val 4 0x74 (signalRBody c.val))

def inlBody (c : Nat) (s : State) (i : Issued) (w : Nat) : EngRes :=
  let n := 8 * gN w
  if coreLevel s c ≠ 2 then .fail s eLevel 0
  else if 8 < gN w then .fail s eDesc 0
  else match sourceError (gAddr w) opInline 3 true with
    | some e => sourceFail s c e
    | none => opRead s c (wA w) n 1 (fun _ =>
        runTransfer s c i w { op := opInline, vc := 3, opc := 0x75, size := 1, total := n, dst := 0, src := 0 } (fun _ => 1)
          (fun tid s _ _ => dataPacket s c opInline (gAddr w) (8 * wA w) n (wCtv w && wCtd w) (wCtsem w) tid 0))

/-- INL (R202, R234): one INLINE packet, in jobs of level 2 alone. -/
def execInl (c : CoreId) (s : State) : Out := .next (runEngine s c.val 4 0x75 (inlBody c.val))

def commitBody (c : Nat) (s : State) (i : Issued) (w : Nat) : EngRes :=
  if gN w ≠ 4 then .fail s eDesc 0
  else match sourceError (gAddr w) opWrite 0 (coreLevel s c == 2) with
    | some e => sourceFail s c e
    | none => opRead s c (wA w) 32 1 (fun _ =>
        runTransfer s c i w { op := opWrite, vc := 0, opc := 0x84, size := 32, total := 32, dst := 0, src := 0 } (fun _ => 32)
          (fun tid s _ _ => dataPacket s c opWrite (gAddr w) (8 * wA w) 32 false 0 tid 0))

/-- COMMIT (R205, R285): the token record goes to its output-ring slot on VC0; its landing is the commit point (WRITE). -/
def execCommit (c : CoreId) (s : State) : Out := .next (runEngine s c.val 4 0x84 (commitBody c.val))

/-- The core may feed a Plate channel (R206). -/
def mayFold (s : State) (c ch : Nat) : Bool :=
  match corePart s c with
  | none => false
  | some p => match jobOf s p with
    | none => false
    | some j => match j.file with
      | none => false
      | some f => f.body.folders.any (fun e => physCore s p j e.1 == c && e.2.val == ch)

/-- The absorber extends the chain of the record's slot and gives the new value; a token that a replayed step folds again, or a
draw that is discarded, is not folded (R359, R384, R286). -/
def absorbToken (s : State) (b : Bytes) : State × Option Bytes :=
  let h := leAt b 4 4
  match reqOf s h with
  | none => (s, none)
  | some r =>
      if reqFinal r then (s, none)
      else if leAt b 0x0C 4 < r.folded then (s, some r.chain)
      else
        let chain := sha256 (r.chain ++ zeroAt b 4 4)
        (setReq s h { r with chain := chain, folded := r.folded + 1 }, some chain)

def plateFoldBody (c : Nat) (s : State) (_ : Issued) (w : Nat) : EngRes :=
  let ch := wMod w % 2
  let n := 8 * wN w
  if !mayFold s c ch then .fail s eDesc 0
  else opRead s c (wA w) n 1 (fun b =>
    if ch = 1 then .done (updCl s (clusterOf c) (fun k => { k with absorb1 := k.absorb1 ++ b }))
    else if n = 0 then .done s
    else opRoom s (wA w + wN w) 32 1 (
      let r := absorbToken s b
      match r.2 with
      | some chain => .done (spadWrite r.1 c (8 * wA w + n) chain)
      | none => .done r.1))

/-- PLATE.FOLD (R206, R384): the N granules extend the chain of the slot that their bytes 4 to 7 name (log entry 44). -/
def execPlateFold (c : CoreId) (s : State) : Out := .next (runEngine s c.val 4 0x90 (plateFoldBody c.val))

def treadBody (c : Nat) (s : State) (_ : Issued) (w : Nat) : EngRes :=
  opRoom s (wA w) 8 1 (.done (spadWrite s c (8 * wA w) (leBytes 8 (localTime s (clusterOf c)))))

/-- TREAD (R207): LOCAL_TIME of the core's cluster control core. -/
def execTread (c : CoreId) (s : State) : Out := .next (runEngine s c.val 4 0xA2 (treadBody c.val))

end Sys2Proof.Machine
end

