-- ==== Sys2Proof/Machine/Sweeps.lean ====
section
/-! DEFINITION. The attention sweep (R199, R239 to R260): SWEEP, the hub, the sweep services and the result. A command of the hub or
of a service goes on as far as the local input buffer takes its packets (log entry 24). -/

namespace Sys2Proof.Machine

/-! The SWEEP descriptor. -/

def sdQaddr (d : Nat) : Nat := bitsOf d 255 238
def sdLens (d : Nat) : Nat := bitsOf d 237 220
def sdRdst (d : Nat) : Nat := bitsOf d 219 202
def sdLayer (d : Nat) : Nat := bitsOf d 201 195
def sdHeads (d : Nat) : Nat := bitsOf d 194 188
def sdTokens (d : Nat) : Nat := bitsOf d 187 179
def sdTree (d : Nat) : Nat := bitsOf d 178 173

/-- The layer record in a core's scratchpad (R241). -/
def layerRecord (s : State) (c : Nat) (d : SweepDesc) (layer : Nat) : Bytes :=
  spadRead s c ((d.records.getD layer (0, [])).1) 192
def lrSigma (r : Bytes) : F32 := BitVec.ofNat 32 (leAt r 0x80 4)
def lrSk (r : Bytes) : F32 := BitVec.ofNat 32 (leAt r 0x84 4)
def lrSq (r : Bytes) : F32 := BitVec.ofNat 32 (leAt r 0x88 4)
def lrPfmt (r : Bytes) : Nat := byteAt r 0x8D

/-- Unit format of a cache format: N4 or E8 (R83, R84). -/
def unitFmt (x : Nat) : Nat := if x = 0 then 0 else 3

/-! The inbox (R252, R265). -/

/-- Inbox slots of a section's hub in use. -/
def inboxUsed (j : Job) (draft : Bool) : Nat := (j.sweeps.filter (fun w => w.draft == draft && w.slot.isSome)).length
/-- The lowest free slot. -/
def freeInbox (j : Job) (draft : Bool) : Option Nat :=
  (List.range 8).find? (fun n => !j.sweeps.any (fun w => w.draft == draft && w.slot.map Fin.val == some n))
/-- Slots in use at a core: none but at a hub (R265). -/
def hubSlots (s : State) (c : Nat) : Option Nat :=
  match runJobAt s c with
  | some (p, j) =>
      let here := [false, true].filter (fun b => isHubOf s p j b c)
      if here.isEmpty then none else some ((here.map (inboxUsed j)).sum)
  | none => none
/-- SWP_HUB.PEAK follows the slots in use. -/
def hubPeak (s : State) (c : Nat) : State :=
  match hubSlots s c with
  | some n => if bitsOf (creg s c 0x378) 15 8 < n then setCreg s c 0x378 (setBits (creg s c 0x378) 15 8 n) else s
  | none => s
/-- SWP_HUB of a core: it reads zero but at a hub, where QUEUED is the slots in use (R265). -/
def isHub (s : State) (c : Nat) : Bool := (hubSlots s c).isSome
def swpHub (s : State) (c : Nat) : Nat :=
  match hubSlots s c with | some n => setBits (creg s c 0x378) 3 0 n | none => 0

/-- Granules of n scratchpad bytes from a on that are poisoned, counted from a. -/
def spadPoisonIn (s : State) (c a n : Nat) : List Nat :=
  ((coreOf s c).spad.poison.filter (fun g => decide (a ≤ 8 * g) && decide (8 * g < a + n))).map (fun g => g - a / 8)

/-- A packet of a core that carries bytes which no command holds in one piece. -/
def bytesPacket (c op addr : Nat) (b : Bytes) (poison : List Nat) (token : Option Nat) (tid tree : Nat) : Packet :=
  { head := mkHead addr op (coreSrc c) (ceilDiv b.length 64) token.isSome (token.getD 0) tid (lastMask b.length) tree
    body := padTo (64 * ceilDiv b.length 64) b
    poison := poison }

/-- Address of a byte of a core's scratchpad. -/
def spadAddr (c off : Nat) : Nat := mkAddr (siteOf c) 0 (clusterIn c) (coreIn c) off

/-! The SWEEP command. -/

/-- The run that a SWEEP has opened and still sends. -/
def openSweep (s : State) (c : Nat) (j : Job) : Option SweepRun :=
  ((coreOf s c).te.find? (fun t => decide (t.sent < t.size) && t.opc == 0x50#8)).bind (fun t =>
    j.sweeps.find? (fun v => v.owner.val == c && v.tid == t.tid))

/-- A sweep as its SWEEP opens it. -/
def newSweep (s : State) (c : Nat) (i : Issued) (w d size slot : Nat) (draft : Bool) : SweepRun :=
  { owner := Fin.ofNat 16384 c, tid := (coreOf s c).nextTid, index := i.index, token := (ownToken w).map (Fin.ofNat 32)
    draft := draft, layer := sdLayer d, heads := sdHeads d, tokens := sdTokens d, tree := sdTree d, rdst := sdRdst d
    slot := some (Fin.ofNat 8 slot), size := size, arrived := 0, taken := false, queries := [], entries := [], lens := [], handles := []
    poisoned := false, reach := 0, mcTid := 0, mcSent := 0, mcLeft := 0, received := [], waiting := [], sent := [], clamped := []
    gathered := [], resTid := none, resSent := 0, resLanded := 0 }

/-- Send a sweep's contents b to the hub's inbox; the first packet takes a slot. -/
def sendSweep (s : State) (c p : Nat) (j : Job) (e : SweepDesc × (Nat × Nat → Nat)) (i : Issued) (w d : Nat) (b : Bytes) : EngRes :=
  let old := openSweep s c j
  let draft := draftTree j (sdTree d)
  match (match old with | some v => v.slot.map Fin.val | none => freeInbox j draft) with
  | none => .hold
  | some n =>
      let base := spadAddr (hubCore e) (e.1.inboxOff + n * e.1.slotBytes)
      let keep := fun (t : State) =>
        if old.isSome then t
        else hubPeak (updJob t p (fun j => { j with sweeps := j.sweeps ++ [newSweep s c i w d b.length n draft] })) (hubCore e)
      match runTransfer s c i 0 { op := opWrite, vc := 2, opc := 0x50, size := b.length
                                  total := b.length + sdTokens d * sdHeads d * resultBytes, dst := 0, src := 0 }
          (kiloSpan b.length) (fun tid _ at_ k => bytesPacket c opWrite (base + at_) (sliceB b at_ k) [] none tid 0) with
      | .left t => .left (keep t)
      | .wait t => .wait (keep t)
      | e => e

def sweepBody (c : Nat) (s : State) (i : Issued) (w : Nat) : EngRes :=
  if coreLevel s c = 2 then .fail s eLevel 0
  else opDesc s c (wA w) 32 173 (fun d =>
    if 56 < sdTree d || sdHeads d = 0 || 64 < sdHeads d || sdTokens d = 0 || 256 < sdTokens d then .fail s eDesc 5
    else match (runJobAt s c).bind (fun x => (sweepSection s x.1 x.2 (draftTree x.2 (sdTree d))).map (fun e => (x.1, x.2, e))) with
      | none => .hold
      | some (p, j, e) =>
        let t := sdTokens d
        let units := t * sdHeads d
        opRead s c (sdQaddr d) (units * 544 + t * entryBytes (cacheFmt e.1)) 5 (fun q =>
          opRead s c (sdLens d) (8 * ceilDiv t 2 + 8 * t) 5 (fun l =>
            if spadOver (sdRdst d) (units * resultBytes) then .fail s eSpadRange 5
            else sendSweep s c p j e i w d (q ++ l))))

/-- SWEEP (R199, R249, R252): with a free inbox slot, the queries, new entries, lengths and handles go there in VC2 WRITE packets; the
result's last packet carries the token. -/
def execSweep (c : CoreId) (s : State) : Out := .next (runEngine s c.val 4 0x50 (sweepBody c.val))

/-! The hub (R252, R253). -/

/-- Real tokens of a sweep (R249). -/
def realToken (w : SweepRun) (t : Nat) : Bool := w.handles.getD t 0 != 0xFFFFFFFF

/-- The smallest reach whose rings hold every page below the largest length (R253). -/
def reachOf (d : SweepDesc) (w : SweepRun) : Nat :=
  let top := ((List.range w.tokens).map (fun t => if realToken w t then w.lens.getD t 0 else 0)).foldl max 0
  let last := match ringOf (d.rings.getD w.layer []) (ceilDiv top 32 - 1) with | some e => e.1 | none => 0
  ((List.range 4).find? (fun r => decide (last ≤ (d.reach.getD w.layer []).getD r 0))).getD 3

/-- The logical cores of a reach: those of rings 0 to K_r of the layer (R245). -/
def reachCores (d : SweepDesc) (layer r : Nat) : List (Nat × Nat) :=
  (((d.rings.getD layer []).take ((d.reach.getD layer []).getD r 0 + 1)).flatMap (fun e => e.2)).eraseDups

/-- A sweep with the contents of its slot, as the hub takes it: queries, entries, lengths and handles in that order. -/
def takeSweep (s : State) (x : SweepDesc × (Nat × Nat → Nat)) (w : SweepRun) : SweepRun :=
  let hub := hubCore x
  let d := x.1
  let a := d.inboxOff + ((w.slot.map Fin.val).getD 0) * d.slotBytes
  let b := spadRead s hub a w.size
  let e := entryBytes (cacheFmt d)
  let lens := b.drop (544 * sweepUnits w + e * w.tokens)
  let w := { w with
    taken := true, queries := chunks 544 (sliceB b 0 (544 * sweepUnits w))
    entries := chunks e (sliceB b (544 * sweepUnits w) (e * w.tokens))
    lens := (List.range w.tokens).map (fun k => leAt lens (4 * k) 4)
    handles := (List.range w.tokens).map (fun k => leAt lens (8 * ceilDiv w.tokens 2 + 8 * k) 4)
    poisoned := spadPoisoned s hub a w.size, mcTid := (coreOf s hub).nextTid, mcLeft := ceilDiv w.size 1024 }
  { w with reach := reachOf d w, waiting := ((reachCores d w.layer (reachOf d w)).map x.2).eraseDups }

/-- The hub's multicast of a slot goes on while the local buffer has room. -/
def spreadSweep (s : State) (p : Nat) (x : SweepDesc × (Nat × Nat → Nat)) (w : SweepRun) : State :=
  let hub := hubCore x
  let a := x.1.inboxOff + ((w.slot.map Fin.val).getD 0) * x.1.slotBytes
  let r := injectFrom hub { op := opMcast, vc := 2, opc := 0x50, size := w.size, total := 0, dst := 0, src := 0 } (kiloSpan w.size)
    (fun s at_ k => bytesPacket hub opMcast (spadAddr hub (a + at_)) (spadRead s hub (a + at_) k) (spadPoisonIn s hub (a + at_) k) none
      w.mcTid.toNat (w.tree + 2 * w.reach)) w.size s w.mcSent
  putSweep r.1 p w { w with mcSent := r.2 }

/-- What a hub does next: the multicast that it has begun, or the sweep that arrived first. -/
def hubNext (j : Job) : Option SweepRun :=
  (j.sweeps.find? (fun w => w.taken && decide (w.mcSent < w.size))).or
    (j.sweeps.find? (fun w => !w.taken && decide (w.size ≤ w.arrived)))

/-- HUB_SWEEP_TAKE (R252, R253): the hub takes the sweep that arrived first and multicasts its slot on the spread tree of its
reach; a multicast that it has begun goes on first. -/
def execHubSweepTake (p : PartId) (s : State) : Out :=
  .next (match (jobOf s p.val).bind (fun j => (hubNext j).bind (fun w => (sweepSection s p.val j w.draft).map (fun e => (w, e)))) with
    | none => s
    | some (w, e) =>
        if !coreOn s (hubCore e) then s
        else if w.taken then spreadSweep s p.val e w
        else
          let w' := takeSweep s e w
          let s := updCore (putSweep s p.val w w') (hubCore e) (fun v => { v with nextTid := v.nextTid + 1 })
          spreadSweep (bumpC s (hubCore e) 0x378 63 32 1) p.val e w')

/-! The service (R254, R255). -/

/-- score(u, x) of R255 over exact values of two units. -/
def score (r : Bytes) (u x : List FV) : F32 :=
  mul32 (mul32 (accumulate (List.zip (chunks 32 u) (chunks 32 x))) (mul32 (lrSq r) (lrSk r))) (lrSigma r)

/-- One attention weight: x(i) held at 48.0, and whether it was held (R255, R256). -/
def attWeight (sc mu : F32) : F32 × Bool :=
  let x := sub32 sc mu
  let y := min32 x 0x42400000#32
  (exp32 y, lt32 0x42400000#32 x)

/-- 32 weights as one block of format PFMT, S = 1.0, with its exact values p'(i). -/
def sweepWeights (pfmt : Nat) (es : List F32) : EncBlock := encodeBlock (unitFmt pfmt) one32 es [] [] (fun _ => none)
def weightValues (b : EncBlock) : List FV := blockValues (encHeader b) (encPayload b) []

/-- Sum of the block's weights in the order of R97. -/
def sumFv (ps : List FV) : F32 := sum32 (ps.map (fun p => scaled32 one32 p))

/-- What a service makes of a unit's pages: num and den of R255, the pages scored, entries held at 48.0, weight blocks that were
saturated or underflowed (R67), vault bursts read, and whether some page was poisoned. -/
structure UnitSum where
  num     : List F32
  den     : F32
  pages   : Nat
  held    : Nat
  sat     : Nat
  under   : Nat
  bursts  : Nat
  bad     : Bool
  deriving DecidableEq, Repr
def UnitSum.zero : UnitSum :=
  { num := List.replicate 448 0#32, den := 0, pages := 0, held := 0, sat := 0, under := 0, bursts := 0, bad := false }

/-- One page of one token and head: entries as (present, values). -/
def pageStep (r : Bytes) (q : List FV) (mu : F32) (entries : List (Bool × List FV)) (acc : UnitSum) : UnitSum :=
  let ws := entries.map (fun e => if e.1 then attWeight (score r q e.2) mu else (0#32, false))
  let b := sweepWeights (lrPfmt r) (ws.map (fun w => w.1))
  let ps := weightValues b
  let num := acc.num.mapIdx (fun j n => add32 n (exRound (exDot ps (entries.map (fun e => e.2.getD j (FV.fin false 0))))))
  { acc with
    num := num, den := add32 acc.den (sumFv ps), pages := acc.pages + 1, held := acc.held + (ws.filter (fun w => w.2)).length
    sat := acc.sat + (if b.sat then 1 else 0), under := acc.under + (if b.under then 1 else 0) }

/-- Request number of a cache slot (R244). -/
def slotReq (s : State) (h : Nat) : Nat := match reqOf s h with | some r => rReq r | none => 0
def slotReserved (s : State) (h : Nat) : Nat := match reqOf s h with | some r => r.reserved | none => 0

/-- Pages of a token that a core holds, with the vault address of each (R244, R246). -/
def tokenPages (s : State) (d : SweepDesc) (phys : Nat × Nat → Nat) (c layer h len : Nat) : List (Nat × Nat) :=
  match slotFrame s d c h with
  | none => []
  | some f => (pagesAt d phys layer (slotReq s h) len c).map (fun g =>
      (g, pageAddr d phys c f layer (slotReq s h) (slotReserved s h) g))

/-- The 32 entries of a page, each with whether its position lies below the length. -/
def pageEntries (s : State) (d : SweepDesc) (c g addr len : Nat) : List (Bool × List FV) :=
  let e := entryBytes (cacheFmt d)
  (List.range 32).map (fun i =>
    if 32 * g + i < len then (true, unitValues (unitFmt (cacheFmt d)) (vaultRead s (clusterOf c) (addr + i * e) e))
    else (false, List.replicate 512 (FV.fin false 0)))
/-- Bytes of a page that a length lets a service read. -/
def pageLength (d : SweepDesc) (g len : Nat) : Nat := min 32 (len - 32 * g) * entryBytes (cacheFmt d)

/-- The contribution of a core for token t and head k (R255): zeros for a pad token. -/
def contribution (s : State) (d : SweepDesc) (phys : Nat × Nat → Nat) (c : Nat) (w : SweepRun) (t k : Nat) : UnitSum :=
  if !realToken w t then UnitSum.zero
  else
    let r := layerRecord s c d w.layer
    let q := unitValues 3 (w.queries.getD (t * w.heads + k) [])
    let mu := score r q (unitValues (unitFmt (cacheFmt d)) (w.entries.getD t []))
    let len := w.lens.getD t 0
    (tokenPages s d phys c w.layer (w.handles.getD t 0) len).foldl (fun acc g =>
      let acc := pageStep r q mu (pageEntries s d c g.1 g.2 len) acc
      { acc with
        bursts := acc.bursts + burstsOf g.2 (pageLength d g.1 len)
        bad := acc.bad || memPoisoned (clOf s (clusterOf c)).vault g.2 (pageLength d g.1 len) }) UnitSum.zero
/-- Its 464 values. -/
def contribValues (u : UnitSum) : Bytes := f32Bytes (u.num ++ [u.den] ++ List.replicate 15 0#32)

/-- Write the new entries whose pages the core holds (R254 step 1). -/
def writeEntries (s : State) (d : SweepDesc) (phys : Nat × Nat → Nat) (c : Nat) (w : SweepRun) : State :=
  (List.range w.tokens).foldl (fun s t =>
    if !realToken w t then s
    else
      let h := w.handles.getD t 0
      let pos := w.lens.getD t 0 - 1
      match (tokenPages s d phys c w.layer h (pos + 1)).find? (fun g => g.1 == pos / 32) with
      | some g => vaultWrite s (clusterOf c) (g.2 + pos % 32 * entryBytes (cacheFmt d)) (w.entries.getD t [])
      | none => s) s

/-- What the forming of a contribution counts at its core: pages and held entries (R264), blocks of weights (R78), vault bursts
(R147), and the first held entry of the sweep (R256). -/
def countUnit (s : State) (c : Nat) (w : SweepRun) (n : Nat) (u : UnitSum) : State :=
  let s := bumpC (bumpC s c 0x370 63 32 u.pages) c 0x370 31 16 u.held
  let s := bumpC (bumpC s c 0x300 63 32 u.under) c 0x300 31 0 u.sat
  let s := bumpC s c 0x210 63 32 u.bursts
  if u.held = 0 || w.clamped.contains c then s
  else raise s 0x5036 0 (coreUnit c 13 0) (clusterOf c) (leBytes 4 w.layer ++ leBytes 4 (n / w.heads) ++ leBytes 4 (n % w.heads))

/-- A service forms contributions in token and head order and sends each in two REDUCE packets, while the local buffer has room
(R254, R255). Fuel bounds the packets. -/
def serveOn (c : Nat) (x : SweepDesc × (Nat × Nat → Nat)) : Nat → SweepRun → State → SweepRun × State
  | 0, w, s => (w, s)
  | fuel + 1, w, s =>
      let k := getN 0 w.sent c
      if 2 * sweepUnits w ≤ k then (w, s)
      else
        let n := k / 2
        let u := contribution s x.1 x.2 c w (n / w.heads) (n % w.heads)
        let b := sliceB (contribValues u) (1024 * (k % 2)) 1024
        let bad := if w.poisoned || u.bad then List.range (b.length / 8) else []
        let pkt := bytesPacket c opReduce (spadAddr (hubCore x) x.1.inboxOff) b bad none (coreOf s c).nextTid.toNat (w.tree + 2 * w.reach + 1)
        match inject s c 2 pkt with
        | none => (w, s)
        | some t =>
            let t := if k % 2 = 0 then countUnit t c w n u else updCore t c (fun v => { v with nextTid := v.nextTid + 1 })
            serveOn c x fuel { w with
              sent := putN w.sent c (k + 1), clamped := if u.held = 0 then w.clamped else (w.clamped ++ [c]).eraseDups } t

/-- The VE has a command ready: any, but a REDUCE.U that waits for a slot (R258). -/
def veReady (s : State) (c : Nat) : Bool :=
  let v := coreOf s c
  match v.veq with
  | [] => false
  | i :: _ =>
      let m := wMod i.word.toNat
      wOpc i.word.toNat != 0xA3 || v.reduceDone.isNone || (readySlot s c (m % 32) (m / 32 + 1) (v.reduceDone.getD [])).isSome

/-- The work of a service on a sweep: its new entries first (R254 step 1), then its contributions; after the last one it counts
the sweep. -/
def serveSweep (s : State) (p c : Nat) (x : SweepDesc × (Nat × Nat → Nat)) (w : SweepRun) : State :=
  let begun := (lookupN w.sent c).isSome
  let s := if begun then s else writeEntries s x.1 x.2 c w
  let w' := if begun then w else { w with sent := putN w.sent c 0 }
  let r := serveOn c x (2 * sweepUnits w) w' s
  if 2 * sweepUnits w ≤ getN 0 r.1.sent c then
    putSweep (bumpC r.2 c 0x370 15 0 1) p w { r.1 with waiting := r.1.waiting.filter (· != c) }
  else putSweep r.2 p w r.1

/-- SWEEP_SERVICE (R254 to R256, R258): the core serves the first sweep that it has received and not served. Its MEs ask for grants
of the second class, and it takes the VE only while no command of the VEQ is ready. -/
def execSweepService (c : CoreId) (s : State) : Out :=
  let c := c.val
  .next (match (runJobAt s c).bind (fun x => ((sweepsToServe s c).head?).bind (fun w =>
      (sweepSection s x.1 x.2 w.draft).map (fun e => (x.1, w, e)))) with
    | none => s
    | some (p, w, e) =>
        if !coreOn s c then s
        else
          let s := coreRequests s c 1
          if !coreGranted s c 1 || veReady s c then s else serveSweep s p c e w)

/-! The gather and the result (R164, R257). -/

/-- Result of one token and head from its gathered 464 values; with it the count of non-finite results (R257). -/
def sweepResult (sk : F32) (g : List F32) : List F32 :=
  let den := g.getD 448 0#32
  let zeroOf := fun (x : F32) => if x = 0x80000000#32 then 0#32 else x
  (if den.toNat % 2 ^ 31 = 0 || !isFinite32 den then List.replicate 448 nan32
   else (g.take 448).map (fun n => zeroOf (mul32 (div32 n den) sk))) ++ List.replicate 64 0#32

/-- The gathered sums of a unit, as FP32 values, and whether some of them came poisoned. -/
def gatherOf (w : SweepRun) (n : Nat) : List F32 × Bool :=
  let a := w.gathered.getD (2 * n) ([], false)
  let b := w.gathered.getD (2 * n + 1) ([], false)
  (toF32s (a.1 ++ b.1), a.2 || b.2)

/-- The result of a unit. -/
def unitResult (sk : F32) (w : SweepRun) (n : Nat) : List F32 :=
  if realToken w (n / w.heads) then sweepResult sk (gatherOf w n).1 else List.replicate 512 0#32

/-- The hub's results go out in token-major then head order while the local buffer has room; the last packet carries the token
(R183, R257). -/
def sendResults (s : State) (p hub : Nat) (d : SweepDesc) (w : SweepRun) (tid : BitVec 16) : State :=
  let sk := lrSk (layerRecord s hub d w.layer)
  let size := resultBytes * sweepUnits w
  let r := injectFrom hub { op := opWrite, vc := 2, opc := 0x50, size := size, total := 0, dst := 0, src := 0 } (kiloSpan size)
    (fun _ at_ k =>
      let n := at_ / resultBytes
      let b := sliceB (f32Bytes (unitResult sk w n)) (at_ % resultBytes) k
      bytesPacket hub opWrite (spadAddr w.owner.val (8 * w.rdst + at_)) b (if (gatherOf w n).2 then List.range (k / 8) else [])
        (if at_ + k = size then w.token.map Fin.val else none) tid.toNat 0) size s w.resSent
  putSweep r.1 p w { w with resTid := some tid, resSent := r.2 }

/-- The sweep whose result goes out next: its gather is complete. -/
def resultNext (j : Job) : Option SweepRun :=
  j.sweeps.find? (fun w => w.taken && w.gathered.length == 2 * sweepUnits w && decide (w.resSent < resultBytes * sweepUnits w))

/-- SWEEP_RESULT (R257): once the gather is complete, the hub forms the results and sends them to RDST of the issuing core, where
the last to land completes the SWEEP. -/
def execSweepResult (p : PartId) (s : State) : Out :=
  .next (match (jobOf s p.val).bind (fun j => (resultNext j).bind (fun w => (sweepSection s p.val j w.draft).map (fun e => (w, e)))) with
    | none => s
    | some (w, e) =>
        let hub := hubCore e
        if !coreOn s hub then s
        else match w.resTid with
          | some tid => sendResults s p.val hub e.1 w tid
          | none =>
              let sk := lrSk (layerRecord s hub e.1 w.layer)
              let bad := ((List.range (sweepUnits w)).flatMap (unitResult sk w)).filter (fun x => !isFinite32 x)
              let tid := (coreOf s hub).nextTid
              let s := countNonFinite (updCore s hub (fun v => { v with nextTid := v.nextTid + 1 })) hub w.index.toNat 0x50
                bad.length 0
              sendResults s p.val hub e.1 w tid)

end Sys2Proof.Machine
end

