-- ==== Sys2Proof/Machine/Regs.lean ====
section
/-! DEFINITION. Register spaces 2, 3 and 5 (R6, R10, R137 to R151, R170, R173 to R181 and the register maps of the other
chapters): which register lies at an offset, its size, what each requester may write, what it reads, and what a write does. -/

namespace Sys2Proof.Machine

/-- Who sends a register message, by its source word (R168). -/
inductive Requester where
  | core (c : Nat) | cc (i : Nat) | finder | other
  deriving DecidableEq, Repr

def requester (m : CtrlMsg) : Requester :=
  let d := mSrcDie m
  if !mFromCc m then (if d < 64 then .core (coreAt d (mSrcCluster m) (mSrcCore m)) else .other)
  else if d < 64 then .cc (d * 16 + mSrcCluster m)
  else if 80 ≤ d then .other
  else if mSrcCore m < 2 then .cc (1024 + 2 * (d - 64) + mSrcCore m)
  else if d = 64 && mSrcCore m = 2 then .finder else .other

/-- What lies at an offset: its size, and the bits that each kind of writer sets or clears by ones. -/
structure RegInfo where
  wide    : Bool
  stream  : Nat
  control : Nat
  finder  : Nat
  steward : Nat
  w1c     : Nat
  deriving DecidableEq, Repr

def all64 : Nat := 2 ^ 64 - 1
/-- Mask of bits [hi:lo]. -/
def field (hi lo : Nat) : Nat := (2 ^ (hi + 1 - lo) - 1) * 2 ^ lo
def roReg (wide : Bool) : RegInfo := { wide := wide, stream := 0, control := 0, finder := 0, steward := 0, w1c := 0 }
def rwReg (mask : Nat) : RegInfo := { wide := true, stream := mask, control := mask, finder := 0, steward := 0, w1c := 0 }
def ccReg (wide : Bool) (mask : Nat) : RegInfo :=
  { wide := wide, stream := 0, control := mask, finder := 0, steward := 0, w1c := 0 }
/-- No agent writes the register: a write of it is ignored, with no error (R6). -/
def RegInfo.readOnly (i : RegInfo) : Bool := i.stream ||| i.control ||| i.finder ||| i.steward ||| i.w1c == 0
def finderReg (wide : Bool) (mask : Nat) : RegInfo :=
  { wide := wide, stream := 0, control := 0, finder := mask, steward := 0, w1c := 0 }

/-- Router registers by core offset, for the ports that the router has (R173 to R181, R375). -/
def routerReg (ports off : Nat) : Option RegInfo :=
  if off % 8 ≠ 0 then none
  else if 0x400 ≤ off && off < 0x400 + 0x20 * ports then
    some (rwReg (if off % 0x20 = 0x10 then 0xFF00FF00FF00FF00 else all64))
  else if 0x4A0 ≤ off && off < 0x4A0 + 8 * ports then some (rwReg (if off = 0x4A0 then all64 else field 63 16))
  else if off = 0x4C8 then some (ccReg false 0x1F)
  else if off = 0x4D0 then some { roReg true with steward := field 63 63 + field 43 0 }
  else if off = 0x4D8 then some (rwReg all64)
  else if 0x800 ≤ off && off < 0xA00 then some { ccReg true (field 31 30 + field 28 19) with w1c := field 29 29 }
  else none

/-- Core register space, SPACE 2. -/
def coreReg (off : Nat) : Option RegInfo :=
  if off % 8 ≠ 0 then none
  else if [0x00, 0x08, 0x10, 0x18].contains off then some (roReg false)
  else if off = 0x20 then some (ccReg false (field 31 30 + field 20 4))
  else if [0x28, 0x40, 0x48].contains off then some (roReg true)
  else if [0x30, 0x38, 0x200, 0x208, 0x210, 0x300, 0x308, 0x310, 0x318, 0x340, 0x348, 0x350, 0x358, 0x370, 0x380].contains off then
    some (rwReg all64)
  else if off = 0x50 then some (ccReg false (field 31 31 + field 16 0))
  else if 0x80 ≤ off && off < 0x100 then some (roReg false)
  else if 0x100 ≤ off && off < 0x200 then some (ccReg false 0xFFFF)
  else if off = 0x320 then some (ccReg false 0xFFFFFFFF)
  else if off = 0x360 then some (ccReg false (field 27 8))
  else if off = 0x378 then some (rwReg (field 63 32 + field 15 8))
  else routerReg 5 off

/-- ICU registers by their own offset (R477). -/
def icuReg (off : Nat) : Option RegInfo :=
  if off % 8 ≠ 0 then none
  else if off = 0 then some (ccReg false (field 31 16 + field 9 0))
  else if 0x100 ≤ off && off < 0x180 then some (ccReg false (field 31 16 + field 7 0))
  else if 0x180 ≤ off && off < 0x200 then some (roReg false)
  else if off = 0x200 then some (roReg false)
  else if 0x1000 ≤ off && off < 0x3000 then some { ccReg true (field 7 4 + field 1 1) with w1c := 1 }
  else none

/-- Cluster control register space, SPACE 3. -/
def clusterReg (off : Nat) : Option RegInfo :=
  if off % 8 ≠ 0 then none
  else if off = 0x00 || off = 0x48 then some (roReg true)
  else if off = 0x08 then some (roReg false)
  else if off = 0x10 || off = 0x38 then some (ccReg true all64)
  else if off = 0x18 then some (ccReg false 0x7F)
  else if off = 0x20 then some { ccReg false 0x7F with finder := field 22 16 }
  else if off = 0x28 then some (ccReg true (field 63 16 + field 6 0))
  else if off = 0x30 then some (rwReg all64)
  else if off = 0x40 then some (ccReg false (field 31 16 + 3))
  else if off = 0x50 then some (ccReg false (field 25 16 + field 12 8))
  else if off = 0x58 then some { roReg true with w1c := field 7 6 }
  else if off = 0x60 then some { ccReg true (field 63 16 + field 7 6) with finder := field 63 16 + field 7 6 }
  else if 0x8000 ≤ off && off < 0xC000 then icuReg (off - 0x8000)
  else none

/-- Die register space, SPACE 5, of a compute die. -/
def dieReg (off : Nat) : Option RegInfo :=
  if off % 8 ≠ 0 then none
  else if off = 0x100 then some { roReg false with steward := field 31 31 + field 19 0 }
  else if off = 0x300 then some { ccReg false (field 15 8) with stream := field 15 8 }
  else if off = 0x308 then some (finderReg false (field 12 8 + field 4 0))
  else if off = 0x310 then some { ccReg true (field 63 8 + field 4 0) with finder := field 63 8 + field 4 0 }
  else if 0x320 ≤ off && off < 0x340 then
    some { ccReg true (field 63 16 + field 7 6) with finder := field 63 16 + field 7 6 }
  else if off = 0x500 then some (roReg true)
  else if off = 0x508 then some (ccReg true all64)
  else none

/-- Die register space, SPACE 5, of an I/O die. -/
def ioReg (die off : Nat) : Option RegInfo :=
  if off % 8 ≠ 0 then none
  else if off = 0x400 || off = 0x408 || off = 0x3000 then some (roReg true)
  else if off = 0x3008 then some (ccReg true all64)
  else if 0x2000 ≤ off && off < 0x3000 then routerReg 2 ((off - 0x2000) % 0x800 + 0x400)
  else if 0x8000 ≤ off && off < 0x10000 then icuReg ((off - 0x8000) % 0x4000)
  else if die ≠ 64 then none
  else if 0x1000 ≤ off && off < 0x1200 then some (finderReg true (field 63 8 + field 4 0))
  else if off = 0x1200 then some (finderReg true (field 63 16 + 3))
  else if off = 0x1300 then some (finderReg true (field 63 16 + field 7 2))
  else if off = 0x1308 then some (finderReg true all64)
  else if off = 0x1400 then some (finderReg false (field 28 16 + field 13 0))
  else if off = 0x1500 then some (roReg false)
  else none

/-! A place in a register space. -/

/-- A register space of a unit: core, cluster, compute die or I/O die. -/
inductive RegSpace where
  | core (c : Nat) | cluster (k : Nat) | die (d : Nat) | io (d : Nat)
  deriving DecidableEq, Repr

/-- The register at an offset of a space. IDREV has no space and no offset in the register maps, so that no register message
reaches it: object 0x1000:01 shows it. DESIGN CHOICE (log entry 148). -/
def regInfo (r : RegSpace) (off : Nat) : Option RegInfo :=
  match r with | .core _ => coreReg off | .cluster _ => clusterReg off | .die _ => dieReg off | .io d => ioReg d off

/-- The space that a register message addresses, or the error it is answered with (R10, R11, R167). The memory spaces 0, 1 and 4 are
not reached by register messages and are answered BAD_SPACE too. DESIGN CHOICE (log entry 117). -/
def msgSpace (m : CtrlMsg) : RegSpace ⊕ Nat :=
  let d := mDie m
  let sp := mArg m % 8
  if 80 ≤ d then .inr 0x01
  else if sp ≠ 2 && sp ≠ 3 && sp ≠ 5 then .inr 0x02
  else if sp = 2 && d < 64 then .inl (.core (coreAt d (mCluster m) (mCore m)))
  else if sp ≠ 2 && mCore m ≠ 0 then .inr 0x03
  else if 64 ≤ d then (if sp = 5 then .inl (.io d) else .inr 0x04)
  else if sp = 3 then .inl (.cluster (d * 16 + mCluster m)) else .inl (.die d)

/-- The bits that a requester may set in a register of a space: a core in its own cluster and die, a control core in what is its own,
the active Steward in RTR_PART and SITE_PART, the Finder in its fields (R6 and the register maps). Its writes of SHARE are urgent
ones (R221). -/
def writable (s : State) (r : RegSpace) (off : Nat) (q : Requester) (urgent : Bool) (i : RegInfo) : Nat :=
  let near := match r, q with
    | .core c, .core x => if c = x then i.stream else 0
    | .cluster k, .core x => if k = clusterOf x then i.stream else 0
    | .die d, .core x => if d = siteOf x then i.stream else 0
    | .core c, .cc n => if n = clusterOf c then i.control else 0
    | .cluster k, .cc n => if n = k then i.control else 0
    | .die d, .cc n => if n < 1024 && n / 16 = d then i.control else 0
    | .io d, .cc n => if 1024 ≤ n && 64 + (n - 1024) / 2 = d then i.control else 0
    | .cluster _, .finder => if off = 0x20 && !urgent then 0 else i.finder
    | _, .finder => i.finder
    | _, _ => 0
  if q = .cc (stewardCc s) then near ||| i.steward else near

/-- The bits that a requester may clear by writing ones: those of its own registers (R6). -/
def clearable (r : RegSpace) (q : Requester) (i : RegInfo) : Nat :=
  let own := match r, q with
    | .core c, .core x => c == x
    | .cluster k, .core x => k == clusterOf x
    | .core c, .cc n => n == clusterOf c
    | .cluster k, .cc n => n == k
    | .die d, .cc n => decide (n < 1024) && n / 16 == d
    | .io d, .cc n => decide (1024 ≤ n) && 64 + (n - 1024) / 2 == d
    | _, _ => false
  if own then i.w1c else 0

/-! Reads. -/

/-- VAULT_DIST (R135, R143). -/
def vaultDist (c w : Nat) : Nat :=
  let own := clusterIn c == w
  let edge := fun (u : Nat) => if u % 4 = 0 || u % 4 = 3 then 1 else 0
  if own then 1 + edge (coreX c) + edge (coreY c)
  else
    let p := coreAt (siteOf c) w 5
    2 * ((coreX p - coreX c) + (coreX c - coreX p) + (coreY p - coreY c) + (coreY c - coreY p)) + 3

/-- SEQ_STATUS (R142). -/
def seqStatus (v : CoreState) : Nat :=
  let st := match v.seqState with | .stopped => 0 | .running => 1 | .waiting _ => 2 | .errored => 3
  let w := match v.seqState with | .waiting n => n.val | _ => 0
  v.cmdIndex.toNat * 2 ^ 32 + st * 2 ^ 30 + w * 2 ^ 25 + v.meq.length * 2 ^ 12 + v.veq.length * 2 ^ 8 + v.seqe.length * 2 ^ 4
    + v.teq.length

/-- CHK_STATE (R116): the counts are those of the last 86,400 s and 3,600 s. -/
def chkState (s : State) (c : Nat) : Nat :=
  let v := coreOf s c
  let n := fun (sec : Nat) (l : List Nat) => min 255 (recent s sec l).length
  setBits (setBits (creg s c 0x360) 23 16 (n 86400 v.episodes)) 15 8 (n 3600 v.notes)

def coreRead (s : State) (c off : Nat) : Nat :=
  let v := coreOf s c
  if off = 0x00 then siteOf c * 2 ^ 25 + clusterIn c * 2 ^ 21 + coreIn c * 2 ^ 17 + coreX c * 2 ^ 7 + coreY c
  else if off = 0x08 then Config.spadSize
  else if off = 0x10 then 0x10180100
  else if off = 0x18 then 0x44040085
  else if off = 0x20 then (if v.run then 2 ^ 31 else 0) + v.base.toNat * 16
  else if off = 0x28 then seqStatus v
  else if off = 0x50 then creg s c 0x50 % 2 ^ 17
  else if 0x80 ≤ off && off < 0x100 then vaultDist c ((off - 0x80) / 8)
  else if 0x100 ≤ off && off < 0x200 then semOf s c ((off - 0x100) / 8)
  else if off = 0x360 then chkState s c
  else if off = 0x378 then swpHub s c
  else if 0x400 ≤ off then rreg s c off
  else creg s c off

/-- Lowest ready group with its lowest enabled pending source: the value of ICU_CLAIM (R477). -/
def claimValue (i : Icu) : Option (Nat × Nat) :=
  i.ready.findSome? (fun g => (groupPending i g).head?.map (fun n => (g, n)))
def claimWord (i : Icu) : Nat := match claimValue i with | some e => 2 ^ 31 + e.1 * 2 ^ 16 + e.2 | none => 0

/-- ICU registers (R477, R478). -/
def icuRead (i : Icu) (off : Nat) : Nat :=
  if off = 0 then 0
  else if off < 0x180 then setBits (gcfgOf i ((off - 0x100) / 8)) 7 0 (gcfgCount i ((off - 0x100) / 8))
  else if off < 0x200 then
    let g := (off - 0x180) / 8
    getN 0 i.batch g * 2 ^ 24 + (if i.ready.contains g then 1 else 0)
  else if off = 0x200 then claimWord i
  else
    let n := (off - 0x1000) / 8
    let v := srcOf i n
    let fixed := decide (1 ≤ n) && decide (n ≤ 3)
    let v := setBits v 7 4 (srcGroup i n)
    if fixed then setBits v 1 1 1 else v

/-- ME_BUDGET with IN_FORCE and ME_LIMITS (R151, R221). -/
def clusterRead (s : State) (k off : Nat) : Nat :=
  if off = 0x00 then Config.vaultCap
  else if off = 0x08 then 0x0410
  else if off = 0x18 then inForce s k * 2 ^ 16 + bitsOf (kreg s k 0x18) 6 0
  else if off = 0x48 then localTime s k
  else if 0x8000 ≤ off then icuRead (ccOf s k).icu (off - 0x8000)
  else kreg s k off

/-- HL_PORT (R550). -/
def hlPortWord (s : State) (d : Nat) : Nat :=
  let h := hlOf s d
  let window := obj s 0x4D80 1
  let viols := (h.violTimes.filter (fun t => decide (s.units < t + window * (unitsPerSec / 1000)))).length
  (recent s 3600 h.quarTimes).length % 256 * 2 ^ 56 + min viols 0xFFFF * 2 ^ 40 + h.lanes.toNat * 2 ^ 32 + h.gen.val * 2 ^ 30
    + (if h.tapsWarm then 2 ^ 29 else 0) + (if h.draining then 2 ^ 28 else 0) + (if obj s 0x4500 1 = d then 2 ^ 27 else 0)
    + h.st.val

/-- WL_PORT (R537). -/
def wlPortWord (s : State) (n : Nat) : Nat :=
  let w := wlOf s n
  let window := obj s 0x4D00 1
  let viols := (w.violTimes.filter (fun t => decide (s.units < t + window * (unitsPerSec / 1000)))).length
  (recent s 3600 w.quarTimes).length % 256 * 2 ^ 48 + min viols 0xFFFF * 2 ^ 32 + w.lanes.toNat * 2 ^ 24 + w.gen.val * 2 ^ 18
    + (if w.tapsWarm then 2 ^ 17 else 0) + (if w.present then 2 ^ 16 else 0) + w.st.val

/-- The power state code: RUN reads IDLE while every core of the powered sites is clock-gated and no Moult and no re-energise runs; a scrub
pass is one step (R454, R455). -/
def pwrCode (s : State) : Nat :=
  let on := s.sites.filter (fun e => e.2.powered)
  if s.fin.pwr = 0 && !on.isEmpty && s.fin.reen.isNone && !s.parts.any (fun e => e.2.epochs.moult.isSome)
      && on.all (fun e => (siteCores e.1).all (fun c => (coreOf s c).gated)) then 1
  else s.fin.pwr.val

/-- PWR_STATE (R469). -/
def pwrStateWord (s : State) : Nat :=
  let f := s.fin
  (if f.held.isSome then 2 ^ 28 else 0) + pwrCode s * 2 ^ 24 + f.phase.toNat * 2 ^ 16 + f.lastClass.val * 2 ^ 12
    + f.lastCause.toNat % 4096

/-- MAKER_EPOCH_MIN in force (R560). -/
def makerEpoch (s : State) : Nat := s.sec.makerEpoch.getD Config.makerEpochFused
/-- SEC_STATE (R567). -/
def secStateWord (s : State) : Nat :=
  let q := s.sec
  (if q.idReady then 2 ^ 31 else 0) + (if q.debugOpen then 2 ^ 30 else 0) + (if q.debugSince then 2 ^ 29 else 0)
    + (if q.quoteSt = 1 then 2 ^ 28 else 0) + min (makerEpoch s) 64 * 2 ^ 16

def dieRead (s : State) (d off : Nat) : Nat := if off = 0x500 then hlPortWord s d else dreg s d off

def ioRead (s : State) (d off : Nat) : Nat :=
  if off = 0x400 || off = 0x408 then localTime s (1024 + 2 * (d - 64) + (off - 0x400) / 8)
  else if off = 0x3000 then wlPortWord s (d - 64)
  else if off = 0x3008 then (wlOf s (d - 64)).err.toNat
  else if 0x2000 ≤ off && off < 0x3000 then rreg s (edgeRouter d ((off - 0x2000) / 0x800)) ((off - 0x2000) % 0x800 + 0x400)
  else if 0x8000 ≤ off then icuRead (ccOf s (1024 + 2 * (d - 64) + (off - 0x8000) / 0x4000)).icu ((off - 0x8000) % 0x4000)
  else if off = 0x1400 then pwrStateWord s
  else if off = 0x1500 then secStateWord s
  else ireg s d off

def regRead (s : State) (r : RegSpace) (off : Nat) : Nat :=
  match r with | .core c => coreRead s c off | .cluster k => clusterRead s k off | .die d => dieRead s d off | .io d => ioRead s d off

/-- The ICU that a register offset belongs to, with the ICU's own offset. -/
def regIcu (r : RegSpace) (off : Nat) : Option (Nat × Nat) :=
  match r with
  | .cluster k => if 0x8000 ≤ off && off < 0xC000 then some (k, off - 0x8000) else none
  | .io d => if 0x8000 ≤ off && off < 0x10000 then
      some (1024 + 2 * (d - 64) + (off - 0x8000) / 0x4000, (off - 0x8000) % 0x4000) else none
  | _ => none

/-- A read of ICU_CLAIM takes its source (R477). -/
def claimAt (s : State) (i : Nat) : State :=
  match claimValue (ccOf s i).icu with
  | some e => updCc s i (fun c => { c with icu := clearSource c.icu e.2 })
  | none => s

/-! Writes. -/

/-- A value with the bits of a mask taken from another. -/
def maskBits (old new mask : Nat) : Nat := (old &&& (all64 - mask)) ||| (new &&& mask)

/-- CLK_SWALLOW with IN_FORCE = min(24, the largest request), and the peak of CLK_SWALLOW_CNT (R400, R405, R406). -/
def setSwallow (s : State) (d v : Nat) : State :=
  let k := min 24 (max (bitsOf v 20 16) (max (bitsOf v 12 8) (bitsOf v 4 0)))
  let s := setDreg s d 0x308 (setBits v 28 24 k)
  let n := dreg s d 0x310
  if bitsOf n 4 0 < k then setDreg s d 0x310 (setBits n 4 0 k) else s

/-- A write of ICU_SRC (R6, R474, R477): clear, then group and enable; enabling a pending source counts as one message. -/
def icuSrcWrite (i : Icu) (now n v : Nat) : Icu :=
  let i := if bitOf v 0 then clearSource i n else i
  if 1 ≤ n ∧ n ≤ 3 then i
  else
    let was := srcEnabled i n
    let old := srcGroup i n
    let w := setBits (setBits (srcOf i n) 7 4 (bitsOf v 7 4)) 1 1 (if bitOf v 1 then 1 else 0)
    let j := { i with src := putN i.src n (BitVec.ofNat 64 w) }
    let fresh := (groupPending { i with src := putN i.src n (BitVec.ofNat 64 (setBits w 1 1 0)) } (bitsOf v 7 4)).isEmpty
    let j := if !was && bitOf v 1 && srcPending j n then countGroup j now (bitsOf v 7 4) fresh else j
    settleGroup (settleGroup j old) (bitsOf v 7 4)

/-- A write of an ICU register (R474, R477, R478) by a writer that may set the bits of `mask` and clear those of `w1c`. -/
def icuWrite (s : State) (i off v mask w1c : Nat) : State :=
  if off = 0 then doorbellAt s i (v % 1024) (bitsOf v 31 16)
  else if off < 0x180 then
    let g := (off - 0x100) / 8
    updCc s i (fun c =>
      let old := gcfgOf c.icu g
      let w := if bitsOf v 31 16 = 0 then old else setBits old 31 16 (bitsOf v 31 16)
      let w := if v % 256 = 0 || g = 0 then w else setBits w 7 0 (v % 256)
      { c with icu := { c.icu with gcfg := putN c.icu.gcfg g (BitVec.ofNat 32 w) } })
  else if 0x1000 ≤ off then
    let n := (off - 0x1000) / 8
    updCc s i (fun c => ccDeliver { c with
      icu := if mask = 0 then c.icu else icuSrcWrite c.icu s.units n (maskBits 0 v (mask ||| w1c)) })
  else s

/-- No job runs on the partition of a core. -/
def betweenJobs (s : State) (c : Nat) : Bool := ((corePart s c).bind (jobOf s)).isNone

def coreWrite (s : State) (c off v mask w1c : Nat) : State :=
  let st := coreOf s c
  if off = 0x20 then
    if bitOf v 31 then
      if Config.spadSize ≤ bitsOf v 20 4 * 16 || !coreOn s c then s
      else startSeq s c (some (BitVec.ofNat 17 (bitsOf v 20 4))) 0
    else
      let s := updCore s c (fun t => { t with base := BitVec.ofNat 17 (bitsOf v 20 4) })
      if bitOf v 30 then haltSeq s c else s
  else if off = 0x50 then
    if st.run then s
    else
      let s := setCreg s c 0x50 (v % 2 ^ 17)
      if bitOf v 31 && coreOn s c then startSeq s c none (v % 2 ^ 17) else s
  else if 0x100 ≤ off && off < 0x200 then
    if st.run then s else setSem s c ((off - 0x100) / 8) (v % 65536)
  else if off = 0x320 then (if betweenJobs s c then setCreg s c off (v % 2 ^ 32) else s)
  else if 0x800 ≤ off then
    let old := rreg s c off
    let s := if betweenJobs s c then setRreg s c off (maskBits old v mask) else s
    let cur := rreg s c off
    setRreg s c off (cur - (cur &&& (v &&& w1c)))
  else if 0x400 ≤ off then setRreg s c off (maskBits (rreg s c off) v mask)
  else setCreg s c off (maskBits (creg s c off) v mask)

def clusterWrite (s : State) (k off v mask w1c : Nat) : State :=
  let old := kreg s k off
  if 0x8000 ≤ off then icuWrite s k (off - 0x8000) v mask w1c
  else if off = 0x18 then
    if 64 < v % 128 then s else regrant (setKreg s k off (setBits old 6 0 (v % 128))) k
  else if off = 0x20 then
    let s := if mask % 128 ≠ 0 && v % 128 ≤ 64 then setKreg s k off (setBits old 6 0 (v % 128)) else s
    if bitsOf mask 22 16 = 0 then regrant s k
    else
      let s := updCl s k (fun c => { c with finderShare := BitVec.ofNat 7 (bitsOf v 22 16) })
      regrant (setShare s k (shareNow (clOf s k))) k
  else if off = 0x50 then
    let v1 := bitsOf v 25 16
    let w := if 550 ≤ v1 && v1 ≤ 850 then setBits old 25 16 v1 else old
    setKreg s k off (if bitsOf v 12 8 ≤ 5 then setBits w 12 8 (bitsOf v 12 8) else w)
  else
    let s := setKreg s k off (maskBits old v mask)
    let cur := kreg s k off
    setKreg s k off (cur - (cur &&& (v &&& w1c)))

def dieWrite (s : State) (d off v mask : Nat) : State :=
  if off = 0x308 then setSwallow s d (maskBits (dreg s d off) v mask) else setDreg s d off (maskBits (dreg s d off) v mask)

/-- PWR_STATE as the Finder's own fields (R469). -/
def setPwrState (s : State) (v : Nat) : State :=
  updFin s (fun f => { f with
    pwr := Fin.ofNat 4 (bitsOf v 27 24), phase := BitVec.ofNat 8 (bitsOf v 23 16), lastClass := Fin.ofNat 4 (bitsOf v 13 12),
    lastCause := BitVec.ofNat 16 (bitsOf v 11 0) })

def ioWrite (s : State) (d off v mask w1c : Nat) : State :=
  if off = 0x3008 then
    updWl s (d - 64) (fun w => { w with err := BitVec.ofNat 64 (maskBits w.err.toNat v mask) })
  else if 0x8000 ≤ off then icuWrite s (1024 + 2 * (d - 64) + (off - 0x8000) / 0x4000) ((off - 0x8000) % 0x4000) v mask w1c
  else if 0x2000 ≤ off && off < 0x3000 then
    let r := edgeRouter d ((off - 0x2000) / 0x800)
    let o := (off - 0x2000) % 0x800 + 0x400
    let s := setRreg s r o (maskBits (rreg s r o) v mask)
    setRreg s r o (rreg s r o - (rreg s r o &&& (v &&& w1c)))
  else if off = 0x1400 then setPwrState s v
  else setIreg s d off (maskBits (ireg s d off) v mask)

/-- Write a register: RSV and RO bits are ignored (R6). -/
def regWrite (s : State) (r : RegSpace) (off v mask w1c : Nat) : State :=
  match r with
  | .core c => coreWrite s c off v mask w1c
  | .cluster k => clusterWrite s k off v mask w1c
  | .die d => dieWrite s d off v mask
  | .io d => ioWrite s d off v mask w1c

end Sys2Proof.Machine
end

