-- ==== Sys2Proof/Machine/PowerOps.lean ====
section
/-! DEFINITION. What the Finder computes and does to sites (ch. 16 to 19): calibration (R517), the thermal cap and the cap in
force (R411, R440), the division of the cap (R412), loss and return of a site's power (R418, R419), couplings (R396, R397) and
the fields of its status registers. -/

namespace Sys2Proof.Machine

/-! Calibration lists (R517): 1 AVS_SEED, 2 PME_CAL, 3 ALMANAC_SEED, 4 DIODE_TRIM. Entries of ALMANAC_SEED are 64-bit words. -/

/-- The list in force; a written list is held at 16 + n until the next Eclosion. -/
def calOf (s : State) (n : Nat) : List Nat := getN (Config.factoryList n) s.cal n
def calWritten (s : State) (n : Nat) : List Nat := getN (calOf s n) s.cal (16 + n)
/-- Eclosion takes the written lists into force. -/
def takeCal (s : State) : State := { s with cal := [1, 2, 3, 4].foldl (fun m n => putN m n (calWritten s n)) s.cal }

def f32Rat (n : Nat) : Rat := toRat32 (BitVec.ofNat 32 n)

/-! Temperatures are held exactly in °C; registers hold steps of 0.125 °C (R450). -/

def tempSteps (t : Rat) : Nat := signedTo 16 (t * 8).floor
def tempOf (v : Nat) : Rat := mkRat (signedOf 16 v) 8

/-- The inlet that the thermal rules use (R436). -/
def inletTemp (s : State) : Rat := s.fin.inlet.getD 40

/-! The caps. -/

def installerCap (s : State) : Rat := obj s 0x4700 1
/-- Thermal resistances in K/kW, from their seeds on (R439). -/
def rthDie (s : State) : Rat := s.fin.rthDie.getD (mkRat (obj s 0x4800 6) 1000)
def rthStack (s : State) : Rat := s.fin.rthStack.getD (mkRat (obj s 0x4800 7) 1000)

/-- The thermal cap in W (R440). -/
def thermalCap (s : State) : Rat :=
  if !s.fin.thermWarm then 3 * installerCap s / 5
  else min 32000 (min ((97 - inletTemp s) * 1000 / rthDie s) ((87 - inletTemp s) * 1000 / rthStack s))

/-- The cap in force in W (R411). -/
def capInForce (s : State) : Rat :=
  let c := min (installerCap s) (min (obj s 0x4700 2 : Rat) (thermalCap s))
  if s.fin.sagWarn then c / 2 else c

/-! Site power registers (R430). -/

def sitePwrOff (d : Nat) : Nat := 0x1000 + 8 * d
def sitePwr (s : State) (d : Nat) : Nat := ireg s 64 (sitePwrOff d)
/-- STATE: 0 off, 1 on, 2 tripped, 3 probing, 4 ramping, 5 held off. -/
def siteStateOf (s : State) (d : Nat) : Nat := bitsOf (sitePwr s d) 3 0
def setSiteState (s : State) (d v : Nat) : State := setIreg s 64 (sitePwrOff d) (setBits (sitePwr s d) 3 0 v)

/-! Output pins of the standby domain. -/

/-- ALERT_N is driven low (R573). -/
def alertLow (s : State) : Bool :=
  s.fin.heldSupply || s.fin.stop || s.fin.heldOff || (List.range 64).any (fun d => siteStateOf s d == 2) || s.sec.debugOpen || s.sec.idFailed
/-- THERMTRIP_N is driven low: some site's trip latch is set (R443). -/
def thermtripLow (s : State) : Bool := (List.range 64).any (fun d => (siteSt s d).tripLatch)

/-- CLK_SWALLOW fields of a site: CAP, MARGIN and DROOP (R400, R405). -/
def swallowCap (s : State) (d v : Nat) : State := setSwallow s d (setBits (dreg s d 0x308) 12 8 v)
def swallowMargin (s : State) (d v : Nat) : State := setSwallow s d (setBits (dreg s d 0x308) 4 0 v)
def swallowDroop (s : State) (d v : Nat) : State := setSwallow s d (setBits (dreg s d 0x308) 20 16 v)
def swallowOf (s : State) (d : Nat) : Nat := bitsOf (dreg s d 0x308) 28 24

/-- Some hot spot of a site is distrusted (R442). -/
def siteDistrusted (s : State) (d : Nat) : Bool :=
  (siteSt s d).hot.any (fun e => e.2.trust == .distrusted || e.2.trust == .noModel)

/-- Power per busy ME of a cluster, in W (R412, R517). -/
def pmeOf (s : State) (k : Nat) : Rat :=
  let v : Rat := mkRat (bitsOf (kreg s k 0x58) 37 28) 750
  f32Rat ((calOf s 2).getD k 0) * v * v * mkRat (32 - swallowOf s (k / 16)) 32

/-- Kind of a partition's job, 0 for none. -/
def kindOf (s : State) (p : Nat) : Nat := match jobOf s p with | some j => j.kind.toNat | none => 0
/-- Some other partition runs a serving job (R349). -/
def servesBeside (s : State) (p : Nat) : Bool :=
  s.parts.any (fun e => e.1 != p && (match e.2.job with | some j => j.kind == 1#8 && j.running | none => false))

/-- SHARE of a cluster under R412, under R442 for a site with a distrusted hot spot, and under R349 for an Instar job. -/
def shareOf (s : State) (a total : Rat) (k : Nat) : Nat :=
  let b := bitsOf (kreg s k 0x18) 6 0
  if b = 0 then 0
  else
    let n := min b (a * b / total / pmeOf s k).floor.toNat
    let n := if siteDistrusted s (k / 16) then 9 * n / 10 else n
    match sitePart s (k / 16) with
    | some p => if kindOf s p = 2 && servesBeside s p then n * obj s 0x5120 3 / 100 else n
    | none => n

/-- The Finder writes SHARE of a cluster; the arbiter's states modify it (R479). -/
def writeShare (s : State) (k v : Nat) : State :=
  let s := updCl s k (fun c => { c with finderShare := BitVec.ofNat 7 v })
  regrant (setShare s k (shareNow (clOf s k))) k

/-- Clusters that a division can change: those with a budget or a share. -/
def divided (s : State) : List Nat :=
  (s.clusters.map (fun e => e.1)).filter (fun k => bitsOf (kreg s k 0x18) 6 0 != 0 || (clOf s k).finderShare != 0)

/-- Write the shares of some clusters as the cap in force gives them (R412). -/
def divideOver (s : State) (ks : List Nat) : State :=
  let a := max 0 (capInForce s - s.fin.pBase)
  let total : Nat := ((s.clusters.map (fun e => bitsOf (kreg s e.1 0x18) 6 0))).sum
  ks.foldl (fun t k => writeShare t k (shareOf s a total k)) s

/-- Divide the cap in force among the clusters (R412). -/
def divideCap (s : State) : State := updFin (divideOver s (divided s)) (fun f => { f with capLast := thermalCap s })

/-- VREG_STAT.TARGET = min(850, AVS + 5 × MARGIN) (R427). -/
def setTarget (s : State) (k : Nat) : State :=
  let v := kreg s k 0x50
  setKreg s k 0x58 (setBits (kreg s k 0x58) 37 28 (min 850 (bitsOf v 25 16 + 5 * bitsOf v 12 8)))
def setMarginField (s : State) (k v : Nat) : State := setTarget (setKreg s k 0x50 (setBits (kreg s k 0x50) 12 8 v)) k

/-- The suspect swallow of a site is 4/32 for each step asked, up to 24/32 (R104, R106). -/
def swallowStep (s : State) (d n : Nat) : State :=
  swallowMargin (updSite s d (fun t => { t with swallowSteps := n })) d (min 24 (4 * n))
/-- One more step. -/
def raiseSwallow (s : State) (d : Nat) : State := swallowStep s d ((siteSt s d).swallowSteps + 1)

/-- Each site's CLK_SWALLOW_CNT.THROTTLED counts the PCLK edges, one in 16 ticks of LOCAL_TIME while PCLK runs at one sixteenth
(R401), that pass with IN_FORCE above 0 while the time moves to `units` (R406). -/
def countThrottled (s : State) (units : Nat) : State :=
  let per := if s.fin.pwr = 2 then 128 else 8
  let n := units / per - s.units / per
  (s.sites.filter (fun e => e.2.powered && swallowOf s e.1 != 0)).foldl (fun s e =>
    setDreg s e.1 0x310 (bumpField (dreg s e.1 0x310) 63 8 n)) s

/-! Couplings (R395 to R397). -/

/-- Sites beside a site: N, E, S, W, with the COUPLE bit of each. -/
def besideSites (d : Nat) : List (Nat × Nat) :=
  (if 8 ≤ d then [(d - 8, 29)] else []) ++ (if d % 8 < 7 then [(d + 1, 28)] else [])
    ++ (if d < 56 then [(d + 8, 27)] else []) ++ (if 0 < d % 8 then [(d - 1, 26)] else [])

/-- The oscillator of a site may couple: locked, powered and not fenced. -/
def meshable (s : State) (d : Nat) : Bool :=
  (siteSt s d).powered && bitOf (dreg s d 0x300) 31 && !bitOf (dreg s d 0x300) 30 && !siteFenced s d

/-- Set the COUPLE bits of every listed site to what its neighbours allow. -/
def recouple (s : State) : State :=
  (s.sites.map (fun e => e.1)).foldl (fun t d =>
    let bits := (besideSites d).foldl (fun n e => if meshable s d && meshable s e.1 then n + 2 ^ (e.2 - 26) else n) 0
    setDreg t d 0x300 (setBits (dreg t d 0x300) 29 26 bits)) s

/-- LOCKED and FENCED of MERIDIAN_STAT (R404). -/
def setMeridian (s : State) (d : Nat) (locked fencedBit : Bool) : State :=
  setDreg s d 0x300 (setBits (dreg s d 0x300) 31 30 ((if locked then 2 else 0) + (if fencedBit then 1 else 0)))

/-- Surrounding sites, up to eight (R421). -/
def aroundSites (d : Nat) : List Nat :=
  (List.range 64).filter (fun e => e != d && decide (e % 8 ≤ d % 8 + 1) && decide (d % 8 ≤ e % 8 + 1)
    && decide (e / 8 ≤ d / 8 + 1) && decide (d / 8 ≤ e / 8 + 1))

/-! Power of a site. -/

/-- What remains of a cluster that lost its power: its fence register (the fence table is what holds it). -/
def clusterDark (c : ClusterState) : ClusterState :=
  { ClusterState.reset with regs := c.regs.filter (fun e => e.1 == 0x40) }
/-- What remains of a router: the bits of RTR_CTRL that the fences set. -/
def routerDark (r : RouterState) : RouterState := { RouterState.reset with regs := r.regs.filter (fun e => e.1 == 0x4C8) }

/-- The far end of a link has lost its contents: packets that were coming from it are cut short, and its buffers are free. -/
def severLink (s : State) (e : Nat × Nat) : State :=
  if (lookupN s.routers e.1).isNone then s
  else takeCredits ([0, 1, 2, 3, 4].foldl (fun s b => cutAt 260 s e.1 e.2 b) s) e.1 e.2

/-- A site's logic and memories lose their contents (R418); the Finder's view of it stays. -/
def darkSite (s : State) (d : Nat) : State :=
  let s := { s with
    cores := s.cores.filter (fun e => siteOf e.1 != d)
    routers := s.routers.map (fun e => if e.1 < 16384 && siteOf e.1 == d then (e.1, routerDark e.2) else e)
    clusters := s.clusters.map (fun e => if e.1 / 16 == d then (e.1, clusterDark e.2) else e)
    ccs := s.ccs.filter (fun e => !(decide (e.1 < 1024) && e.1 / 16 == d))
    mesh := s.mesh.filter (fun h => !(decide (h.router < 16384) && siteOf h.router == d)) }
  let s := (facingPorts d).foldl severLink s
  updSite s d (fun t => { t with powered := false, regs := [], swallowSteps := 0, hl := HlState.reset })

/-- A site's converter opens: the site is dark, and its converter reports no input power (R419, R430). -/
def openSite (s : State) (d state : Nat) : State :=
  let s := darkSite s d
  let v := sitePwr s d
  recouple (setIreg s 64 (sitePwrOff d) (setBits (setBits (setBits v 63 16 0) 4 4 1) 3 0 state))

/-- A site is powered and its oscillator locks (R420, R458); AVS starts at its seed (R427, R461). -/
def energiseSite (s : State) (d : Nat) : State :=
  let s := updSite s d (fun t => { t with powered := true })
  let s := setMeridian s d true false
  (List.range 16).foldl (fun s i =>
    let k := d * 16 + i
    let mv := (calOf s 1).getD k 750
    let s := setKreg s k 0x50 (setBits (kreg s k 0x50) 25 16 mv)
    setKreg s k 0x58 (setBits (kreg s k 0x58) 37 28 mv)) s

/-- Sites that are powered. -/
def poweredSites (s : State) : List Nat := (s.sites.filter (fun e => e.2.powered)).map (fun e => e.1)

/-- Engines, routers and scratchpads of every site return to reset, and the cluster control cores restart (R462 class W):
site power, vaults, fences and link state stay. -/
def resetCompute (s : State) : State :=
  (s.routers.filter (fun e => 16384 ≤ e.1)).foldl (fun s e => severLink s (e.1, 1)) { s with
    cores := []
    routers := s.routers.map (fun e => if e.1 < 16384 then (e.1, { routerDark e.2 with
      regs := e.2.regs.filter (fun r => r.1 == 0x4C8 || r.1 == 0x4D0) }) else e)
    clusters := s.clusters.map (fun e => (e.1, { ClusterState.reset with
      vault := e.2.vault, selfRetain := e.2.selfRetain, shards := e.2.shards, wroteBack := e.2.wroteBack
      clocksOff := e.2.clocksOff
      regs := (e.2.regs.filter (fun r => r.1 == 0x40 || r.1 == 0x58)).map (fun r =>
        if r.1 = 0x58 then (r.1, BitVec.ofNat 64 (setBits r.2.toNat 37 28 0x2EE)) else r) }))
    ccs := s.ccs.filter (fun e => 1024 ≤ e.1)
    mesh := s.mesh.filter (fun h => 16384 ≤ h.router) }

/-- Put every vault into self-retain, or take it out (R447, R448, R462). -/
def retainVaults (s : State) (on : Bool) : State :=
  { s with clusters := s.clusters.map (fun e => (e.1, { e.2 with selfRetain := on })) }

/-! Status registers of the Finder. -/

/-- RESET_HELD and SAG_WARN of MAIN_IN (R431). -/
def setMainIn (s : State) : State :=
  setIreg s 64 0x1200 (setBits (ireg s 64 0x1200) 1 0 ((if s.fin.sagWarn then 2 else 0) + (if s.fin.heldSupply then 1 else 0)))

/-- The Finder's last sample of the main input voltage in mV, with the power that it makes with the current (R409, R431). -/
def noteInput (s : State) (mv : Nat) : State :=
  let v := ireg s 64 0x1200
  setIreg s 64 0x1200 (setBits (setBits v 63 48 (min (mv / 10) 0xFFFF)) 31 16 (min (mv * bitsOf v 47 32 / 100000) 0xFFFF))

/-- COOLANT_IN (R451). -/
def setCoolantIn (s : State) : State :=
  let f := s.fin
  setIreg s 64 0x1300 ((match f.inlet with | some t => tempSteps t | none => 0) * 2 ^ 48
    + (match f.outlet with | some t => tempSteps t | none => 0) * 2 ^ 32 + min (f.flow * 100).floor.toNat 0xFFFF * 2 ^ 16
    + (if f.inlet.isSome then 2 ^ 7 else 0) + (if f.outlet.isSome then 2 ^ 6 else 0) + (if f.flowLow then 2 ^ 5 else 0)
    + (if f.stop then 2 ^ 4 else 0) + (if f.heldOff then 2 ^ 3 else 0) + (if f.thermWarm then 0 else 4))

/-- THERM_EST (R452). -/
def setThermEst (s : State) : State :=
  let w := fun (r : Rat) => min (r * 1000).floor.toNat 0xFFFF
  setIreg s 64 0x1308 (w (rthDie s) * 2 ^ 48 + w (rthStack s) * 2 ^ 32
    + min ((thermalCap s) / 10).floor.toNat 0xFFFF * 2 ^ 16 + min (min s.fin.nDie s.fin.nStack) 0xFFFF)

/-! What is in progress on the module. -/

def someSwapping (s : State) : Bool := s.parts.any (fun e => e.2.epochs.st == .swapping)
def someMoult (s : State) : Bool := s.parts.any (fun e => e.2.epochs.moult.isSome)
/-- A re-energise, coolant stop, sag warning or module reset is in progress (R465, R483). -/
def powerBusy (s : State) : Bool :=
  s.fin.reen.isSome || s.fin.stop || s.fin.heldOff || s.fin.sagWarn || s.fin.held.isSome
/-- The module is in RUN or IDLE (R454). -/
def inRun (s : State) : Bool := s.fin.held.isNone && (s.fin.pwr == 0 || s.fin.pwr == 1)

/-- The Finder's release of compute work: no hold for sag, coolant or reset (R365). -/
def holdsCompute (s : State) : Bool := s.fin.stop || s.fin.heldOff || s.fin.held.isSome

end Sys2Proof.Machine
end

