-- ==== Sys2Proof/Machine/Dictionary.lean ====
section
/-! DEFINITION. The object dictionary (ch. 22 and the object tables of the other chapters): which objects exist, their types and
rights (R8, R505 to R509), the value each one reads, and the ranges that a write must keep. -/

namespace Sys2Proof.Machine

/-- A row of an object table: index, first and last subindex, type, size (of an entry, for a list) and rights (1 r, 2 w). -/
structure ObjRow where
  ix   : Nat
  lo   : Nat
  hi   : Nat
  kind : Fin 4
  size : Nat
  op   : Nat
  inst : Nat
  mkr  : Nat
  stored : Bool
  deriving DecidableEq, Repr

/-- Types: 0 unsigned, 1 FP32, 2 octets, 3 list. -/
def num (ix lo hi size op inst mkr : Nat) (stored : Bool) : ObjRow := ⟨ix, lo, hi, 0, size, op, inst, mkr, stored⟩
def flt (ix lo hi op inst mkr : Nat) (stored : Bool) : ObjRow := ⟨ix, lo, hi, 1, 4, op, inst, mkr, stored⟩
def oct (ix lo hi size op inst mkr : Nat) (stored : Bool) : ObjRow := ⟨ix, lo, hi, 2, size, op, inst, mkr, stored⟩
def lst (ix lo hi size op inst mkr : Nat) (stored : Bool) : ObjRow := ⟨ix, lo, hi, 3, size, op, inst, mkr, stored⟩

/-- Identity, numeric formats, checks, faults, Logbook (R77, R111, R372, R394, R408, R510, R516). -/
def objRowsA : List ObjRow := [
  num 0x1000 1 1 8 1 1 1 true, oct 0x1000 2 2 16 1 1 1 true, num 0x1000 3 3 1 1 1 1 false, num 0x1000 4 4 8 1 1 1 false,
  num 0x4310 1 1 1 1 3 1 true, flt 0x4310 2 3 1 3 1 true, flt 0x4310 4 4 1 1 3 true, flt 0x4311 1 16 1 1 1 true,
  num 0x4312 1 16 1 1 1 1 true, num 0x4320 1 2 1 1 3 1 true, flt 0x4320 3 5 1 3 1 true, flt 0x4320 6 6 1 1 3 true,
  flt 0x4320 7 7 1 3 1 true, num 0x4321 1 16 1 1 1 1 false, num 0x4400 1 1 4 1 3 1 true, num 0x4400 2 2 1 1 3 1 true,
  num 0x4400 3 3 2 1 3 1 true, num 0x4400 4 4 4 1 3 1 true, num 0x4400 5 5 1 1 3 1 true, num 0x4400 6 6 4 0 2 2 false,
  num 0x4400 7 7 2 1 3 1 true, lst 0x4401 1 1 16 1 1 1 true, lst 0x4401 2 2 8 1 1 1 true, num 0x4402 1 1 4 1 1 1 false,
  lst 0x4403 1 1 64 1 1 1 false, num 0x4500 1 1 1 1 3 1 true, num 0x4500 2 2 1 3 3 1 false, num 0x4500 3 3 1 1 1 1 false,
  num 0x4501 1 16 1 3 3 1 true, oct 0x4600 1 1 16 1 1 1 false]
/-- Power, thermal, power states, firmware, management (R432, R453, R470, R489, R504). -/
def objRowsB : List ObjRow := [
  num 0x4700 1 1 4 1 3 1 true, num 0x4700 2 2 4 3 3 1 true, num 0x4700 3 4 2 1 3 1 true, num 0x4700 5 5 1 0 2 2 false,
  num 0x4700 6 6 4 1 1 1 false, num 0x4701 1 64 1 1 1 1 false, num 0x4800 1 2 2 1 3 1 true, num 0x4800 3 3 1 1 1 1 false,
  num 0x4800 5 5 1 0 2 2 false, num 0x4800 6 7 2 1 1 3 true, num 0x4900 1 1 1 3 3 1 false, num 0x4900 2 2 1 1 3 1 true,
  num 0x4900 3 3 1 0 2 2 false, num 0x4900 4 4 2 1 3 1 true, num 0x4900 5 5 2 1 1 1 true, num 0x4A00 1 1 8 0 2 2 false,
  oct 0x4A00 2 2 32 1 1 1 false, num 0x4A00 3 4 1 1 1 1 false, num 0x4B00 1 1 1 1 1 1 false, num 0x4B00 2 2 2 1 3 1 true,
  num 0x4B00 3 4 1 1 3 1 true, num 0x4B00 5 5 1 3 3 1 true, oct 0x4B00 6 6 6 1 1 3 true, oct 0x4B00 7 7 48 1 1 1 false,
  oct 0x4B10 1 32 40 1 3 3 true, num 0x4B20 1 1 2 1 1 1 true, oct 0x4B20 2 2 32 1 1 1 true, num 0x4B20 3 3 4 1 1 1 true]
/-- Telemetry, links, security, calibration, partitions (R511, R515, R517, R539, R552, R568). -/
def objRowsC : List ObjRow := [
  lst 0x4C01 1 2 224 1 1 1 false, num 0x4D00 1 1 4 1 3 1 true, num 0x4D00 2 2 2 1 3 1 true, num 0x4D00 3 4 4 1 3 1 true,
  num 0x4D00 5 5 1 0 2 2 false, num 0x4D01 1 16 1 1 3 1 true, num 0x4D02 1 16 8 1 1 1 false, oct 0x4D03 1 16 36 1 1 1 false,
  num 0x4D80 1 1 4 1 3 1 true, num 0x4D80 2 2 2 1 3 1 true, num 0x4D80 3 3 4 1 3 1 true, num 0x4D80 4 4 1 0 2 2 false,
  num 0x4D81 1 64 1 1 3 1 true, oct 0x4D82 1 64 64 1 1 1 false, num 0x4D83 1 64 8 1 1 1 false,
  oct 0x4D84 1 64 24 1 1 1 false, oct 0x4E00 1 1 32 1 1 1 true, oct 0x4E00 2 2 8 1 1 1 true, oct 0x4E00 3 3 15904 1 1 3 true,
  num 0x4E00 4 4 1 1 1 3 true, oct 0x4E10 1 8 7936 1 3 1 true, oct 0x4E20 1 1 32 2 2 2 false, lst 0x4E20 2 2 1 1 1 1 false,
  num 0x4E20 3 3 1 1 1 1 false, num 0x4E30 1 1 1 0 0 2 false, num 0x4E30 2 2 1 0 2 2 false, num 0x4E30 3 3 1 1 1 1 false,
  oct 0x4E30 4 4 16 0 0 3 false, lst 0x4F00 1 1 2 0 1 3 true, lst 0x4F00 2 2 4 0 1 3 true, lst 0x4F00 3 3 8 0 1 3 true,
  lst 0x4F00 4 4 2 0 1 3 true, num 0x5000 1 16 8 1 3 1 true, num 0x5001 1 16 8 1 1 1 false, num 0x5002 1 16 4 1 1 1 false]
/-- Serving, speculation, Instar, weights (R296, R311, R333, R350). -/
def objRowsD : List ObjRow := [
  num 0x5100 1 1 8 2 2 0 false, num 0x5100 2 2 1 2 2 0 false, num 0x5200 1 1 4 3 3 1 true, num 0x5200 2 3 4 1 3 1 true,
  num 0x5200 4 4 1 1 3 1 true, num 0x5200 5 5 1 3 3 1 true, num 0x5200 6 6 1 1 3 1 true, num 0x5200 7 7 2 1 3 1 true,
  num 0x5200 8 8 1 1 1 3 true, num 0x5201 1 16 1 1 1 1 false, num 0x5110 1 1 8 2 2 0 false, num 0x5110 2 2 1 2 2 0 false,
  num 0x5110 3 3 2 1 3 1 true, num 0x5110 4 4 1 1 3 1 true, num 0x5110 5 5 1 1 1 3 true, flt 0x5110 6 6 1 1 3 true,
  num 0x5111 1 16 1 1 1 1 false, flt 0x5112 1 16 1 1 1 false, num 0x5120 1 1 1 2 2 0 false, num 0x5120 2 2 4 3 3 1 true,
  num 0x5120 3 3 1 1 3 1 true, num 0x5121 1 16 4 1 1 1 false, num 0x5300 1 1 8 2 2 0 false, num 0x5300 2 2 1 2 2 0 false,
  num 0x5300 3 3 1 1 3 1 true, num 0x5300 4 6 4 1 3 1 true, num 0x5301 1 16 1 1 1 1 true, oct 0x5302 1 16 32 1 1 1 true,
  lst 0x5303 1 16 4 1 1 1 false, oct 0x5304 1 8 8 1 3 1 true, num 0x5310 1 2 2 1 3 1 true, num 0x5310 3 6 8 1 3 1 true,
  num 0x5310 7 7 1 1 1 1 false, num 0x5310 8 8 1 1 3 1 true]
def objRows : List ObjRow := objRowsA ++ objRowsB ++ objRowsC ++ objRowsD

/-- Highest assigned subindex of an index; none where the index is not assigned (R506). -/
def highestSub (ix : Nat) : Option Nat :=
  (objRows.filter (fun r => r.ix == ix)).foldl (fun m r => some (max (m.getD 0) r.hi)) none

/-- The object at an index and subindex. -/
def objAt (ix sub : Nat) : Option ObjRow :=
  if sub = 0 then (highestSub ix).map (fun _ => num ix 0 0 1 1 1 1 false)
  else objRows.find? (fun r => r.ix == ix && decide (r.lo ≤ sub) && decide (sub ≤ r.hi))

def rightOf (o : ObjRow) (role : Nat) : Nat := if role = 0 then o.op else if role = 1 then o.inst else o.mkr
def mayRead (o : ObjRow) (role : Nat) : Bool := rightOf o role % 2 == 1
def mayWrite (o : ObjRow) (role : Nat) : Bool := 2 ≤ rightOf o role

/-! Event records (R369). -/

def eventBytes (l : LoggedEvent) : Bytes :=
  let e := l.ev
  let flags := e.sev.val * 64 + (if e.req.isSome then 32 else 0) + (if e.job.isSome then 16 else 0)
    + (if e.temp.isSome then 8 else 0) + (if e.vcore.isSome then 4 else 0) + (if l.hostTime.isSome then 2 else 0)
    + (if e.opc.isSome then 1 else 0)
  let o := e.opc.getD (0#8, 0#32)
  let j := e.job.getD (0#32, 0#32)
  leBytes 2 e.code.toNat ++ leBytes 1 flags ++ [o.1] ++ leBytes 4 e.unit.toNat ++ leBytes 8 e.time.toNat
    ++ leBytes 8 (l.hostTime.getD 0#64).toNat ++ leBytes 3 l.pairAge ++ leBytes 3 o.2.toNat ++ leBytes 2 e.reporter.toNat
    ++ leBytes 2 (e.temp.getD 0#16).toNat ++ leBytes 2 (e.vcore.getD 0#16).toNat ++ leBytes 4 j.1.toNat
    ++ leBytes 4 (e.req.getD 0#32).toNat ++ leBytes 4 j.2.toNat ++ sliceB e.detail 0 16

/-! Status objects. -/

/-- STATE of PART_STATUS: the highest code that holds (R514). -/
def partStateCode (s : State) (p : Nat) : Nat :=
  let t := partOf s p
  let joining := s.sites.any (fun e => e.2.joining == some (some (Fin.ofNat 16 p)))
  match t.job with
  | some j =>
      if j.diaPaused then 7
      else if !t.epochs.missing.isEmpty && j.running then 6
      else if j.frozen then 5 else if j.restarting then 4 else if j.running then 3 else 2
  | none =>
      if !t.epochs.missing.isEmpty then 6 else if t.waitingJob.isSome || t.clearing || joining then 1 else 0

def partStatusWord (s : State) (p : Nat) : Nat :=
  let j := jobOf s p
  let f := fun (g : Job → Nat) => match j with | some j => g j | none => 0
  f (fun j => j.number.toNat) * 2 ^ 32 + f (fun j => j.kind.toNat) * 2 ^ 24 + partStateCode s p * 2 ^ 20
    + f (fun j => j.detour) * 2 ^ 8 + f (fun j => if j.nondet then 128 else 0) + f (fun j => if j.detourBits1 then 64 else 0)

/-- Requests of a partition that are not in a final state. -/
def liveRequests (s : State) (p : Nat) : Nat :=
  (s.reqs.filter (fun e => e.2.part.val == p && !reqFinal e.2)).length

/-- Every region of the running job is WARM (R109, R111). -/
def qualWarm (s : State) (p : Nat) : Bool :=
  match jobOf s p with
  | some j => j.running && (List.range (jobRegions j).length).all (fun r => decide (256 ≤ (regionRun s p r).qualN))
  | none => false

/-- SHARE in force of a partition (R277, R296). -/
def shareK (s : State) (p : Nat) : Nat :=
  if obj s 0x5200 4 = 0 then obj s 0x5200 5
  else (partOf s p).share.getD (min (obj s 0x5200 8) (obj s 0x5200 6))
/-- SHARE_STATE: the default 0 where no serving job runs (R296). -/
def shareState (s : State) (p : Nat) : Nat :=
  match jobOf s p with
  | some j => if j.kind == 1#8 && j.running then shareK s p + (if (partOf s p).shareWarm then 128 else 0) else 0
  | none => 0

def epochStateByte (s : State) (p : Nat) : Nat :=
  let e := (partOf s p).epochs
  (match e.st with | .old => 0 | .swapping => 1 | .newCommitted => 2) + (if e.moult.isSome then 4 else 0)
    + (if e.missing.isEmpty then 0 else 8) + (if e.retiring.isSome then 16 else 0)
/-- The current epoch of a partition: the committed one, or from its start the incoming one of a DRAIN Moult (R322). -/
def currentEpoch (e : Epochs) : Option Manifest :=
  match e.moult with
  | some m => if m.mode = 1 then e.incoming else e.committed
  | none => e.committed
/-- Digest of the current epoch, or zero. -/
def epochDigest (s : State) (p : Nat) : Bytes :=
  match currentEpoch (partOf s p).epochs with | some m => m.digest | none => zeros 32

def draftOf (s : State) (p : Nat) : Option Draft := (jobOf s p).bind (fun j => j.draft)
def specState (s : State) (p : Nat) : Nat :=
  (match draftOf s p with | some d => if d.dist then 3 else 1 | none => 0)
    + (if 1024 ≤ (partOf s p).acceptCycles then 128 else 0)

def hostPairBytes (s : State) : Bytes :=
  match s.stw.hostPair with | some h => leBytes 8 h.1.toNat ++ leBytes 8 h.2.toNat | none => zeros 16

/-- The image of a router's telemetry registers (R515). -/
def telemBytes (s : State) (r : Nat) : Bytes :=
  if r < 16384 && (!(siteSt s (siteOf r)).powered || siteFenced s (siteOf r)) then zeros 224
  else (List.range 28).flatMap (fun i => leBytes 8 (rreg s r (0x400 + 8 * i)))

/-- Chain start of the audit log: SHA-256 of "AUDT" and IDREV (R499). -/
def auditStart : Bytes := sha256 (leBytes 4 0x54445541 ++ leBytes 8 Config.idrev.toNat)
def auditHead (s : State) : Bytes := s.mgmt.auditHead.getD auditStart
/-- Entries held, the overflow entry included. -/
def auditCount (s : State) : Nat := s.mgmt.audit.length

def fenceBytes (f : FenceEntry) : Bytes :=
  leBytes 4 f.unit.toNat ++ leBytes 2 f.cause.toNat ++ zeros 2 ++ leBytes 8 f.time.toNat

def listBytes (count : Nat) (body : Bytes) : Bytes := leBytes 4 count ++ body
def calBytes (s : State) (n size : Nat) : Bytes :=
  let l := calWritten s n
  listBytes l.length (l.flatMap (leBytes size))

/-- The value that an object reads, without padding. The telemetry lists are read by entry (objPart). -/
def objBytes (s : State) (ix sub : Nat) : Bytes :=
  let p := sub - 1
  if sub = 0 then leBytes 1 ((highestSub ix).getD 0)
  else match ix, sub with
  | 0x1000, 1 => leBytes 8 Config.idrev.toNat
  | 0x1000, 2 => sliceB Config.serial 0 16
  | 0x1000, 3 => leBytes 1 s.slotId.toNat
  | 0x1000, _ => leBytes 8 (mgmtTime s)
  | 0x4311, _ => leBytes 4 (partOf s p).thetaNext.toNat
  | 0x4312, _ => leBytes 1 (if (partOf s p).thetaWarm then 1 else 0)
  | 0x4321, _ => leBytes 1 (if qualWarm s p then 1 else 0)
  | 0x4401, 1 => listBytes s.stw.fences.length (s.stw.fences.flatMap fenceBytes)
  | 0x4401, _ => listBytes s.stw.retired.length (s.stw.retired.flatMap (fun e => leBytes 4 e.1.toNat ++ leBytes 4 e.2))
  | 0x4403, _ => listBytes s.stw.log.length (s.stw.log.flatMap eventBytes)
  | 0x4500, 3 => leBytes 1 s.binoState.val
  | 0x4600, _ => hostPairBytes s
  | 0x4700, 6 => leBytes 4 (capInForce s).floor.toNat
  | 0x4701, _ => leBytes 1 (siteStateOf s p)
  | 0x4800, 3 => leBytes 1 (if s.fin.thermWarm then 1 else 0)
  | 0x4900, 1 => leBytes 1 (pwrCode s)
  | 0x4900, 5 => leBytes 2 (s.fin.lastClass.val * 2 ^ 12 + s.fin.lastCause.toNat % 4096)
  | 0x4A00, 2 => fwDigest s
  | 0x4A00, 3 => leBytes 1 s.stw.fwState.val
  | 0x4A00, 4 => leBytes 1 s.stw.die
  | 0x4B00, 1 => leBytes 1 s.mgmt.sessions.length
  | 0x4B00, 6 => sliceB (s.mgmt.mac.getD Config.macAddress) 0 6
  | 0x4B00, 7 => (List.range 12).flatMap (fun i => leBytes 4 (getN 0#32 s.mgmt.counters i).toNat)
  | 0x4B10, _ => match lookupN s.mgmt.creds p with
      | some c => [c.1] ++ zeros 7 ++ sliceB c.2 0 32
      | none => zeros 40
  | 0x4B20, 1 => leBytes 2 (auditCount s)
  | 0x4B20, 2 => auditHead s
  | 0x4B20, _ => leBytes 4 s.mgmt.auditSeq.toNat
  | 0x4D02, _ => leBytes 8 (wlPortWord s p)
  | 0x4D03, _ => (List.range 9).flatMap (fun i => leBytes 4 (getN 0#32 (wlOf s p).viols i).toNat)
  | 0x4D82, _ => sliceB (hlOf s p).peer 0 64
  | 0x4D83, _ => leBytes 8 (hlPortWord s p)
  | 0x4D84, _ => (List.range 6).flatMap (fun i => leBytes 4 (getN 0#32 (hlOf s p).viols i).toNat)
  | 0x4E00, 1 => sliceB Config.rootHash 0 32
  | 0x4E00, 2 => sliceB Config.identityFp 0 8
  | 0x4E00, 3 => s.sec.chain.getD Config.identityChain
  | 0x4E00, _ => leBytes 1 (makerEpoch s)
  | 0x4E10, _ => getN (zeros 7936) s.sec.certs p
  | 0x4E20, 2 => listBytes s.sec.quote.length s.sec.quote
  | 0x4E20, 3 => leBytes 1 s.sec.quoteSt.val
  | 0x4E30, 3 => leBytes 1 ((if s.sec.debugOpen then 1 else 0) + (if s.sec.debugSince then 2 else 0))
  | 0x4E30, 4 => sliceB s.sec.dmi 0 16
  | 0x4F00, n => calBytes s n (if n = 2 then 4 else if n = 3 then 8 else 2)
  | 0x5000, _ => leBytes 8 (partDef s p)
  | 0x5001, _ => leBytes 8 (partStatusWord s p)
  | 0x5002, _ => leBytes 4 (liveRequests s p)
  | 0x5201, _ => leBytes 1 (shareState s p)
  | 0x5111, _ => leBytes 1 (specState s p)
  | 0x5112, _ => leBytes 4 ((partOf s p).accept.getD (BitVec.ofNat 32 (obj s 0x5110 6))).toNat
  | 0x5121, _ => leBytes 4 (match (jobOf s p).bind (fun j => j.instar) with | some i => i.step | none => 0)
  | 0x5301, _ => leBytes 1 (epochStateByte s p)
  | 0x5302, _ => epochDigest s p
  | 0x5303, _ => listBytes (partOf s p).epochs.missing.length ((partOf s p).epochs.missing.flatMap (leBytes 4))
  | 0x5304, _ => getN (zeros 8) s.sec.fps p
  | 0x5310, 7 => leBytes 1 s.stw.chainState.val
  | _, _ => leBytes ((objAt ix sub).map (fun o => o.size)).get! (obj s ix sub)

/-- n bytes of an object's value from an offset on (R505). -/
def objPart (s : State) (ix sub off n : Nat) : Bytes :=
  if ix = 0x4C01 && sub ≠ 0 then
    let count := if sub = 1 then 16384 else 32
    let total := 4 + count * 224
    let take := min n (total - off)
    let head := (leBytes 4 count).drop off
    let first := (off - 4) / 224
    let body := ((List.range (take / 224 + 2)).map (· + first)).flatMap (fun i =>
      if i < count then telemBytes s (if sub = 1 then i else 16384 + i) else [])
    (head ++ (if off < 4 then body else body.drop ((off - 4) % 224))).take take
  else ((objBytes s ix sub).drop off).take n

/-! Ranges (R505 and the object tables). -/

def between (v lo hi : Nat) : Bool := decide (lo ≤ v) && decide (v ≤ hi)
/-- An FP32 value that is finite and between two FP32 bit patterns, both positive. -/
def fltBetween (v lo hi : Nat) : Bool :=
  isFinite32 (BitVec.ofNat 32 v) && decide (f32Rat lo ≤ f32Rat v) && decide (f32Rat v ≤ f32Rat hi)
/-- Bits set in a mask of ports. -/
def bitCount (v n : Nat) : Nat := ((List.range n).filter (fun i => bitOf v i)).length

/-- The value lies in the object's range, which may depend on other objects (R498). -/
def rangeOk (s : State) (ix sub v : Nat) : Bool :=
  match ix, sub with
  | 0x4310, 1 => between v 0 1
  | 0x4310, n =>
      let m := fun k => if k = n then f32Rat v else f32Rat (obj s 0x4310 k)
      fltBetween v 0x3F800000 0x42800000 && (f32Rat v * 8).den == 1 && decide (m 2 ≤ m 3) && decide (m 2 ≤ m 4)
        && decide (m 4 ≤ m 3)
  | 0x4320, 1 => between v 0 3
  | 0x4320, 2 => between v 0 3
  | 0x4320, 3 => fltBetween v 0x3F800000 0x42800000
  | 0x4320, 4 => fltBetween v 0x38D1B717 0x3F800000 && decide (f32Rat v ≤ f32Rat (obj s 0x4320 5))
  | 0x4320, 5 => fltBetween v 0x38D1B717 0x3F800000 && decide (f32Rat (obj s 0x4320 4) ≤ f32Rat v)
  | 0x4320, 6 => fltBetween v 0x38D1B717 0x3F800000
  | 0x4320, 7 => fltBetween v 0x00800000 0x3F800000
  | 0x4400, 1 => between v 600 86400
  | 0x4400, 2 => between v 1 8
  | 0x4400, 3 => between v 2 1000
  | 0x4400, 4 => between v 100 1000000
  | 0x4400, 5 => between v 1 64
  | 0x4400, 7 => between v 1 4096
  | 0x4500, 1 => between v 0 63 || v == 255
  | 0x4500, 2 => between v 0 15 || v == 255
  | 0x4501, _ => between v 0 1
  | 0x4700, 1 => between v 4000 32000
  | 0x4700, 2 => between v 4000 (obj s 0x4700 1)
  | 0x4700, 3 => between v 44000 48000 && decide (obj s 0x4700 4 + 1000 ≤ v)
  | 0x4700, 4 => between v 40000 46000 && decide (v + 1000 ≤ obj s 0x4700 3)
  | 0x4800, 1 => between v 400 900
  | 0x4800, 2 => between v 100 10000
  | 0x4800, 6 => between v 500 10000
  | 0x4800, 7 => between v 500 10000
  | 0x4900, 2 => between v 0 1
  | 0x4B00, 2 => between v 10 3600
  | 0x4B00, 3 => between v 0 31 || v == 255
  | 0x4B00, 4 => v == 2 || v == 5
  | 0x4B00, 5 => between v 0 3
  | 0x4D00, 1 => between v 100 60000
  | 0x4D00, 2 => between v 4 4096
  | 0x4D00, 3 => between v 10 3600
  | 0x4D00, 4 => between v 1 3600
  | 0x4D01, _ => between v 1 3
  | 0x4D80, 1 => between v 100 60000
  | 0x4D80, 2 => between v 4 4096
  | 0x4D80, 3 => between v 10 3600
  | 0x4D81, _ => between v 1 2
  | 0x5110, 3 => between v 0 256
  | 0x5110, 4 => between v 1 15
  | 0x5110, 5 => between v 1 15
  | 0x5110, 6 => fltBetween v 0 0x3F800000
  | 0x5120, 2 => between v 1 1000000
  | 0x5120, 3 => between v 25 100
  | 0x5200, 1 => between v 1 (obj s 0x5200 2)
  | 0x5200, 2 => between v 1 86400
  | 0x5200, 3 => between v 100 60000
  | 0x5200, 4 => between v 0 1
  | 0x5200, 5 => between v 0 (obj s 0x5200 6)
  | 0x5200, 6 => between v 0 16
  | 0x5200, 7 => between v 1 4096
  | 0x5200, 8 => between v 0 16
  | 0x5300, 3 => between v 0 1
  | 0x5300, 4 => between v 600 86400
  | 0x5300, 5 => between v 256 65536
  | 0x5300, 6 => between v 10 86400
  | 0x5310, 1 => v == 0 || between v 1 (obj s 0x5310 2)
  | 0x5310, 2 => between v 0 256
  | 0x5310, n => if between n 3 6 then between (bitCount v 64) 0 8 && (obj s 0x4500 1 == 255 || !bitOf v (obj s 0x4500 1))
      else true
  | _, _ => true

/-- State conditions of a scalar's write: the BINO_PART of a running job (R394), a chain object while the chain loads (R333). -/
def stateOk (s : State) (ix sub v : Nat) : Bool :=
  if ix = 0x4500 && sub = 2 then v = 255 || (jobOf s v).isNone
  else if ix = 0x5310 && sub ≠ 8 then s.stw.chainState != 1
  else true

/-- What a write of a scalar carries with it (R296, R432). -/
def scalarWrite (s : State) (ix sub v : Nat) : State :=
  let s := setObj s ix sub v
  if ix = 0x5200 && sub = 2 && v < obj s 0x5200 1 then setObj s 0x5200 1 v
  else if ix = 0x5200 && sub = 6 && v < obj s 0x5200 5 then setObj s 0x5200 5 v
  else if ix = 0x4700 && sub = 1 && v < obj s 0x4700 2 then setObj s 0x4700 2 v
  else s

end Sys2Proof.Machine
end

