-- ==== Sys2Proof/Machine/Certs.lean ====
section
/-! DEFINITION. Certificates and the identity chain (R553 to R558), and firmware releases (R480 to R482). Signatures are
opaque (Config.sigVerify). -/

namespace Sys2Proof.Machine

/-- Fingerprint of a public key (R553). -/
def fpOf (key : Bytes) : Bytes := (sha256 key).take 8

/-! Certificates (R556). -/

def cKind (c : Bytes) : Nat := byteAt c 6
def cKeyset (c : Bytes) : Nat := byteAt c 7
def cKey (c : Bytes) : Bytes := sliceB c 0x10 32
def cIssuer (c : Bytes) : Bytes := sliceB c 0x30 8
def cSerial (c : Bytes) : Bytes := sliceB c 0x38 16
def cEpoch (c : Bytes) : Nat := leAt c 0x48 4

/-- A certificate of a kind, with its form, its issuer's key and the KEYSET of R557. -/
def certOk (kind : Nat) (issuer c : Bytes) : Bool :=
  c.length == 7936 && leAt c 0 4 == 0x54524543 && leAt c 4 2 == 1 && cKind c == kind
    && cKeyset c == (if kind = 2 then 1 else 0) && leAt c 8 8 == 0 && leAt c 0x4C 4 == 0
    && (kind == 2 || kind == 3 || leNat (cSerial c) == 0) && (kind == 3 || cEpoch c == 0)
    && cIssuer c == fpOf issuer && Config.sigVerify 128 issuer (sliceB c 0 80) (sliceB c 80 7856)

/-- The identity chain: root key, intermediate certificate, device identity certificate (R557). -/
def chainRoot (ch : Bytes) : Bytes := sliceB ch 0 32
def chainMid (ch : Bytes) : Bytes := sliceB ch 32 7936
def chainDev (ch : Bytes) : Bytes := sliceB ch 7968 7936

/-- Every link of a chain verifies under R557. -/
def chainOk (ch : Bytes) : Bool :=
  ch.length == 15904 && sha256 (chainRoot ch) == sliceB Config.rootHash 0 32 && certOk 1 (chainRoot ch) (chainMid ch)
    && certOk 2 (cKey (chainMid ch)) (chainDev ch)

/-- The chain is this module's own (R558). -/
def identityOk (ch : Bytes) : Bool :=
  chainOk ch && fpOf Config.identityKey == sliceB Config.identityFp 0 8 && cKey (chainDev ch) == Config.identityKey
    && cSerial (chainDev ch) == sliceB Config.serial 0 16

def ownChain (s : State) : Bytes := s.sec.chain.getD Config.identityChain

/-- A signature by the device identity key, 17,088 B (R553). -/
def identSign (msg : Bytes) : Bytes := sliceB (Config.identitySign 129 msg) 0 17088

/-! Firmware releases (R480, R481). -/

/-- The entry of image i: KIND, LENGTH, ENTRY and DIGEST. -/
def relImage (rel : Bytes) (i : Nat) : Nat × Nat × Nat × Bytes :=
  let o := 0x40 + 48 * i
  (byteAt rel o, leAt rel (o + 4) 4, leAt rel (o + 8) 4, sliceB rel (o + 16) 32)
def relImages (rel : Bytes) : List (Nat × Nat × Nat × Bytes) := (List.range 3).map (relImage rel)
/-- The release digest is that of the manifest without its signature. -/
def relDigest (rel : Bytes) : Bytes := sha256 (sliceB rel 0 0xD0)
/-- Where image i begins: the manifest and each image are padded to 64 B. -/
def relOffset (imgs : List (Nat × Nat × Nat × Bytes)) (i : Nat) : Nat :=
  8064 + ((imgs.take i).map (fun m => alignUp m.2.1 64)).sum
def maxImage (kind : Nat) : Nat := if kind = 1 then 0x80000 else if kind = 2 then 0x400000 else 0x800000

/-- What a release fails: 1 format, 2 key, 3 signature, 4 image (R481). -/
def relFault (rel : Bytes) : Option Nat :=
  let imgs := relImages rel
  if rel.length < 8064 || leAt rel 0 4 ≠ 0x4C455246 || leAt rel 4 2 ≠ 1 || leAt rel 6 2 ≠ 3 || leAt rel 0xC 4 ≠ 0
      || leAt rel 0x30 16 ≠ 0 || imgs.map (fun m => m.1) ≠ [1, 2, 3]
      || (List.range 3).any (fun i => leAt rel (0x41 + 48 * i) 3 ≠ 0 || leAt rel (0x4C + 48 * i) 4 ≠ 0) then some 1
  else if sha256 (sliceB rel 0x10 32) ≠ sliceB Config.rootHash 0 32 then some 2
  else if !Config.sigVerify 128 (sliceB rel 0x10 32) (sliceB rel 0 0xD0) (sliceB rel 0xD0 7856) then some 3
  else if (List.range 3).any (fun i =>
      let m := relImage rel i
      decide (maxImage m.1 < m.2.1) || decide (rel.length < relOffset imgs i + m.2.1)
        || sha256 (sliceB rel (relOffset imgs i) m.2.1) ≠ m.2.2.2) then some 4
  else none

/-- Image kind of a control core: 1 cluster, 2 link, 3 service. -/
def ccKind (i : Nat) : Nat := if i < 1024 then 1 else if (i - 1024) % 2 = 0 then 2 else 3
/-- Image of a control core in a release, with its offset. -/
def imageFor (r : Bytes × List (Nat × Nat × Nat × Bytes)) (i : Nat) : Option (Nat × Nat × Nat × Bytes) :=
  (r.2.mapIdx (fun k m => (k, m))).findSome? (fun e =>
    if e.2.1 = ccKind i then some (relOffset r.2 e.1, e.2.2.1, e.2.2.2.1, e.2.2.2.2) else none)

/-- The Steward writes a control core's mailbox and raises firmware doorbell 0x100 (R482). -/
def mailImage (s : State) (i : Nat) : State :=
  match s.stw.release.bind (fun r => imageFor r i) with
  | some m => doorbellAt (updCc s i (fun c => { c with mailbox := some m, image := none, pmpLocked := true })) i 0x100 0
  | none => s

/-- Control cores of powered dies. -/
def poweredCcs (s : State) : List Nat :=
  ((poweredSites s).flatMap (fun d => (List.range 16).map (· + d * 16)))
    ++ (if s.fin.ioPowered then (List.range 32).map (· + 1024) else [])

/-- Reload every control core but the active Steward from the verified release (R482, R564). -/
def reloadAll (s : State) : State := ((poweredCcs s).filter (· != stewardCc s)).foldl mailImage s

/-- The Steward runs: the I/O dies are powered and its image is entered. -/
def stewardUp (s : State) : Bool := s.fin.ioPowered && (ccOf s (stewardCc s)).image.isSome

end Sys2Proof.Machine
end

