-- ==== Sys2Proof/Machine/WlOps.lean ====
section
/-! DEFINITION. What a Wenlink port does of itself (ch. 23): changes of state (R520), violations and quarantine (R535), and what
the loss of a port takes with it (R496, R533). Debug and sessions close here too, because a port that is lost closes its
sessions. -/

namespace Sys2Proof.Machine

/-- Events of the agent name die 64. -/
def agentEvent (s : State) (code sev : Nat) (detail : Bytes) : State := finderEvent s code sev (dieUnit 64 0) detail

/-- Debug closes (R564): every control core is reloaded from the verified release. -/
def closeDebug (s : State) : State :=
  if !s.sec.debugOpen then s
  else agentEvent (reloadAll (updSec s (fun q => { q with debugOpen := false, debugBy := none }))) 0x8052 0 []

/-- Close the sessions that a test picks; the end of the maker session that opened debug closes debug. -/
def closeSessions (s : State) (f : Session → Bool) : State :=
  let debug := match s.sec.debugBy with | some n => s.mgmt.sessions.any (fun e => e.num == n && f e) | none => false
  let s := updMgmt s (fun m => { m with sessions := m.sessions.filter (fun e => !f e) })
  if debug then closeDebug s else s

/-! Ports. -/

/-- Control cores of an I/O die (R471); which of the two takes the port's sources is log entry 32. -/
def linkCc (n : Nat) : Nat := 1024 + 2 * n
def serviceCc (n : Nat) : Nat := 1025 + 2 * n

/-- A change of state raises source 0x044 with the new code (R536). -/
def wlState (s : State) (n st : Nat) : State :=
  doorbellAt (updWl s n (fun w => { w with st := Fin.ofNat 8 st })) (linkCc n) 0x044 st

/-- The flit layer of a port that has lost its link starts afresh. -/
def wlLinkReset (w : WlState) : WlState :=
  { w with
    lanes := 0, gen := 0, txSeq := 0, rxSeq := 0, unacked := [], replays := 0, replayTimes := [], rx := [], lastAck := none
    failures := 0 }

/-- A port drops its queue definitions and its parking area; images in it count as absent (R533). -/
def dropQueues (s : State) (n : Nat) : State := updWl s n (fun w => { w with queues := [], area := none, images := [] })

/-- Sessions carried on a port close with it (R496). -/
def closePort (s : State) (n : Nat) : State :=
  closeSessions s (fun e => e.path == .wenlink (Fin.ofNat 16 n))

/-- Entry to DOWN (R520, R522): event 0x7011; the taps start from their seeds again. -/
def wlGoDown (s : State) (n : Nat) : State :=
  let s := updWl s n (fun w => { wlLinkReset w with tapsWarm := false, updates := 0, partnerGen := 0, bootAddr := 0, bootLen := 0 })
  portEvent (closePort (wlState s n 0) n) n 0x7011 1 []

/-- Quarantine (R535): the third one within 3,600 s holds until PORT_RELEASE. -/
def wlQuarantine (s : State) (n : Nat) : State :=
  if (wlOf s n).st = 7 then s
  else
    let s := updWl s n (fun w =>
      let ts := recent s 3600 w.quarTimes ++ [s.units]
      { wlLinkReset w with quarTimes := ts, held := decide (3 ≤ ts.length) })
    dropQueues (portEvent (closePort (wlState s n 7) n) n 0x7021 2 []) n

/-- Violations of a port in the present window. -/
def wlWindow (s : State) (n : Nat) : List Nat :=
  (wlOf s n).violTimes.filter (fun t => decide (s.units < t + obj s 0x4D00 1 * (unitsPerSec / 1000)))

/-- A counter of VIOL_COUNTERS, in table order: MALFORMED, DOORBELL, CPL, TIMEOUT, QUEUE, REFUSED, RATE, RETRAIN, DAP (R539). -/
def wlCount (s : State) (n counter : Nat) : State :=
  updWl s n (fun w => { w with viols := updN 0#32 w.viols counter (fun v => BitVec.ofNat 32 (satAdd32 v.toNat 1)) })

/-- A violation (R535): counter of the table's row, source 0x046, the event where the row gives 0x7020, and the escalation. -/
def wlViolation (s : State) (n counter : Nat) (event : Bool) : State :=
  let ts := wlWindow s n ++ [s.units]
  let s := updWl (wlCount s n counter) n (fun w => { w with violTimes := ts })
  let s := doorbellAt s (linkCc n) 0x046 counter
  let s := if event then portEvent s n 0x7020 1 [] else s
  if obj s 0x4D00 2 ≤ ts.length then wlQuarantine s n else s

/-- Entry to RETRAIN (R520, R523, R535): event 0x7012, and with WARM taps the counter and the escalation of the table. -/
def wlRetrainNow (s : State) (n : Nat) : State :=
  let warm := (wlOf s n).tapsWarm
  let s := updWl s n (fun w => { w with err := BitVec.ofNat 64 (bumpField w.err.toNat 15 8 1), replays := 0, replayTimes := [] })
  let s := portEvent (wlState s n 6) n 0x7012 0 []
  if !warm then s
  else
    let ts := recent s 60 (wlOf s n).retrainTimes ++ [s.units]
    let s := updWl (wlCount s n 7) n (fun w => { w with retrainTimes := ts })
    let s := doorbellAt s (linkCc n) 0x046 7
    if 3 ≤ ts.length then wlQuarantine s n else s

end Sys2Proof.Machine
end

