-- ==== Sys2Proof/Machine/Dap.lean ====
section
/-! DEFINITION. The management agent (ch. 21): requests and responses (R492, R497), sessions (R495, R496), violations (R503),
the audit log (R499, R500) and the order in which a write is checked, recorded and applied (R498). -/

namespace Sys2Proof.Machine

/-! Statuses (R497). -/
def stOk : Nat := 0
def stBadMessage : Nat := 1
def stNoSession : Nat := 2
def stSignature : Nat := 3
def stCredential : Nat := 4
def stSequence : Nat := 5
def stAccess : Nat := 6
def stNoObject : Nat := 7
def stRange : Nat := 8
def stState : Nat := 9
def stLogFull : Nat := 10
def stBusy : Nat := 11
def stLocked : Nat := 12
def stDigest : Nat := 13
def stStore : Nat := 14

/-- PATH of R495, a key of each path, and its group in PATH_COUNTERS. -/
def pathCode (p : DapPath) : Nat := match p with | .can => 0 | .t1s => 1 | .wenlink n => 0x100 + n.val
def pathKey (p : DapPath) : Nat := match p with | .can => 0 | .t1s => 1 | .wenlink n => 2 + n.val
def pathGroup (p : DapPath) : Nat := match p with | .can => 0 | .t1s => 1 | .wenlink _ => 2

/-- The 16 B header of a request with its body's length (R492). -/
def dapHeader (service : Nat) (r : DapReq) (bodyLen : Nat) : Bytes :=
  leBytes 1 service ++ [0#8] ++ leBytes 2 r.txn.toNat ++ leBytes 4 r.session.toNat ++ leBytes 4 r.seq.toNat
    ++ leBytes 2 (bodyLen / 8) ++ zeros 2
/-- Body of a WRITE up to its signature (R493). -/
def writeBody (ix sub : Nat) (value : Bytes) : Bytes :=
  leBytes 2 ix ++ leBytes 1 sub ++ [0#8] ++ leBytes 4 value.length ++ padTo (alignUp value.length 8) value

/-- MGMT_TIME windows, in seconds of 100,000,000 cycles. -/
def mgmtRecent (s : State) (sec t : Nat) : Bool := decide (mgmtTime s < t + sec * 100000000)


/-- Answer the request that the agent serves. -/
def respond (s : State) (r : DapReq) (status : Nat) (body : Bytes) : State :=
  updMgmt s (fun m => { m with out := m.out ++
    [{ path := r.path, source := r.source, service := m.serving, txn := r.txn, session := r.session, seq := r.seq
       status := BitVec.ofNat 16 status, body := padTo (alignUp body.length 8) body }] })
/-- A response as a message: SERVICE, TXN, SESSION and SEQ are the request's (R492). -/
def respBytes (x : DapResp) : Bytes :=
  [x.service, 1#8] ++ leBytes 2 x.txn.toNat ++ leBytes 4 x.session.toNat ++ leBytes 4 x.seq.toNat ++ leBytes 2 (x.body.length / 8)
    ++ leBytes 2 x.status.toNat ++ x.body
/-- The EVENT message of a record (R492, R493). -/
def eventMessage (record : Bytes) : Bytes := [0x30#8, 2#8] ++ zeros 10 ++ leBytes 2 (record.length / 8) ++ zeros 2 ++ record
/-- The agent sends a record on each field network that has an open session (R493). -/
def sendEvents (s : State) (record : Bytes) : State :=
  updMgmt s (fun m => { m with eventsOut := m.eventsOut ++
    (([DapPath.can, DapPath.t1s].filter (fun p => m.sessions.any (fun e => e.path == p))).map (fun p => (p, eventMessage record))) })

/-! Violations (R503). -/

/-- A violation is counted on its path; on a Wenlink port it counts there as MALFORMED too (R535). -/
def bumpPath (s : State) (p : DapPath) (counter : Nat) : State :=
  let s := match p with | .wenlink n => wlViolation (wlCount s n.val 8) n.val 0 false | _ => s
  updMgmt s (fun m => { m with counters := updN 0#32 m.counters (4 * pathGroup p + counter) (fun n => BitVec.ofNat 32 (satAdd32 n.toNat 1)) })

/-- Quarantine a path; its end comes by PATH_QUARANTINE_END. -/
def quarPath (s : State) (p : DapPath) : State :=
  if s.mgmt.quarPaths.contains p then s
  else agentEvent (updMgmt s (fun m => { m with quarPaths := m.quarPaths ++ [p] })) 0x9014 1 []

/-- Note a time of a kind on a path, and say how many fall in the window. -/
def noteTime (s : State) (kind : Nat) (p : DapPath) (sec : Nat) : State × Nat :=
  let keep := s.mgmt.times.filter (fun t => t.1 != kind || t.2.1 != pathKey p || mgmtRecent s sec t.2.2)
  let ts := keep ++ [(kind, pathKey p, mgmtTime s)]
  (updMgmt s (fun m => { m with times := ts }), (ts.filter (fun t => t.1 == kind && t.2.1 == pathKey p)).length)

/-- A malformed segment, reassembly, header, body or service. -/
def malformed (s : State) (p : DapPath) : State :=
  let n := noteTime (agentEvent (bumpPath s p 0) 0x9010 0 []) 0 p 1
  if 64 ≤ n.2 then quarPath n.1 p else n.1

/-- An unknown credential, or a session not open. -/
def unknownAuth (s : State) (p : DapPath) : State :=
  let n := noteTime (agentEvent (bumpPath s p 1) 0x8030 1 []) 1 p 60
  if 16 ≤ n.2 then quarPath n.1 p else n.1

/-- Lock a credential and close its sessions. -/
def lockCred (s : State) (fp : Bytes) : State :=
  if s.mgmt.locked.contains fp then s
  else agentEvent (closeSessions (updMgmt s (fun m => { m with locked := m.locked ++ [fp] })) (fun e => e.fp == fp)) 0x8031 2 []

/-- A bad signature or a SEQ out of order. -/
def badSig (s : State) (p : DapPath) (fp : Bytes) : State :=
  let s := agentEvent (bumpPath s p 1) 0x8030 1 []
  let ts := (s.mgmt.sigTimes.filter (fun t => t.1 != fp || mgmtRecent s 60 t.2)) ++ [(fp, mgmtTime s)]
  let s := updMgmt s (fun m => { m with sigTimes := ts })
  if 5 ≤ (ts.filter (fun t => t.1 == fp)).length then lockCred s fp else s

/-- An access beyond the role's rights. -/
def badAccess (s : State) (p : DapPath) (fp : Bytes) : State :=
  let s := agentEvent (bumpPath s p 2) 0x9011 1 []
  let ts := (s.mgmt.accTimes.filter (fun t => t.1 != fp || mgmtRecent s 60 t.2)) ++ [(fp, mgmtTime s)]
  let s := updMgmt s (fun m => { m with accTimes := ts })
  if 32 ≤ (ts.filter (fun t => t.1 == fp)).length then lockCred s fp else s

/-- More requests or challenges than a path may have: MGMT_RATE once per second, and quarantine after 10 s without a break. -/
def rateExcess (s : State) (p : DapPath) : State :=
  let k := pathKey p
  let s := bumpPath s p 3
  let sec := mgmtTime s / 100000000
  let s := if lookupN s.mgmt.rateSecs k = some sec then s
    else agentEvent (updMgmt s (fun m => { m with rateSecs := putN m.rateSecs k sec })) 0x9012 0 []
  let since := getN (mgmtTime s) s.mgmt.excess k
  let s := updMgmt s (fun m => { m with excess := putN m.excess k since })
  if since + 1000000000 ≤ mgmtTime s then quarPath s p else s

/-- Count one request of a path; true when it exceeds 256 in 1 s. -/
def countRequest (s : State) (p : DapPath) : State × Bool :=
  let n := noteTime s 2 p 1
  if 256 < n.2 then (rateExcess n.1 p, true)
  else (updMgmt n.1 (fun m => { m with excess := delN m.excess (pathKey p) }), false)

/-! The audit log (R499, R500). -/

/-- OLD and NEW of an entry with FLAGS[0]. -/
def auditValue (b : Bytes) : Bytes := if 8 < b.length then (sha256 b).take 8 else padTo 8 b

def auditEntry (s : State) (seq role result path : Nat) (fp : Bytes) (ix sub flags : Nat) (old new : Bytes) : Bytes :=
  leBytes 4 seq ++ leBytes 1 role ++ leBytes 1 result ++ leBytes 2 path ++ sliceB fp 0 8 ++ leBytes 2 ix ++ leBytes 1 sub
    ++ leBytes 1 flags ++ zeros 4 ++ sliceB old 0 8 ++ sliceB new 0 8 ++ leBytes 8 (mgmtTime s) ++ hostPairBytes s

/-- Append an entry to the log and its chain. -/
def auditPush (s : State) (entry : Nat → Bytes) : State :=
  let seq := s.mgmt.auditSeq + 1
  let e := entry seq.toNat
  let h := sha256 (auditHead s ++ e)
  updMgmt s (fun m => { m with audit := m.audit ++ [(e, h)], auditSeq := seq, auditHead := some h })

/-- The overflow entry, over the chain value before it (R500). -/
def overflowEntry (s : State) (seq count : Nat) (at_ : Nat) : Bytes :=
  auditEntry s seq 3 0 0 (zeros 8) 0 0 2 (leBytes 8 at_) (leBytes 8 count)

/-- Record one entry, with what the filling log brings about. -/
def auditRecord (s : State) (role result path : Nat) (fp : Bytes) (ix sub : Nat) (old new : Bytes) : State :=
  match s.mgmt.overflow with
  | some o =>
      -- the overflow entry counts the refusal and replaces its link of the chain
      let e := overflowEntry s s.mgmt.auditSeq.toNat (o.1 + 1) (mgmtTime s)
      let h := sha256 (o.2 ++ e)
      updMgmt s (fun m => { m with
        audit := m.audit.dropLast ++ [(e, h)], auditHead := some h, overflow := some (o.1 + 1, o.2) })
  | none =>
      let flags := if 8 < old.length || 8 < new.length then 1 else 0
      let s := auditPush s (fun seq =>
        auditEntry s seq role result path fp ix sub flags (auditValue old) (auditValue new))
      let n := auditCount s
      let s := if 3687 ≤ n && !s.mgmt.audit90 then
        agentEvent (updMgmt s (fun m => { m with audit90 := true })) 0x9020 1 [] else s
      let s := if n = 4032 then agentEvent s 0x9021 2 [] else s
      if n = 4095 then
        let prev := auditHead s
        let s := auditPush s (fun seq => overflowEntry s seq 0 0)
        updMgmt s (fun m => { m with overflow := some (0, prev) })
      else s

/-! Requests. -/

/-- The agent hears a request: it runs on the standby input, and a quarantined path is ignored. The message leaves the inbox. -/
def dapHear (s : State) (r : DapReq) (service : Nat) (body : Bytes) : Option State :=
  if !s.fin.standby12 || s.mgmt.quarPaths.contains r.path then none
  else some (updMgmt s (fun m => { m with
    serving := BitVec.ofNat 8 service, inbox := m.inbox.erase (r.path, r.source, dapHeader service r body.length ++ body) }))

/-- The open session that a request names, on its own path and from its own source (R496). -/
def sessionFor (s : State) (r : DapReq) : Option Session :=
  s.mgmt.sessions.find? (fun e => e.num == r.session && e.path == r.path && e.source == r.source)

/-- The request is the session's next: its counter and its time move. -/
def touch (s : State) (r : DapReq) : State :=
  updMgmt s (fun m => { m with sessions := m.sessions.map (fun e =>
    if e.num = r.session then { e with seq := r.seq, lastAt := mgmtTime s } else e) })

/-- A signed request's signature over the session's challenge, the header and the body (R496). -/
def signedOk (se : Session) (r : DapReq) (service : Nat) (body : Bytes) : Bool :=
  Config.sigVerify 128 se.key (se.chal ++ dapHeader service r (body.length + r.sig.length) ++ body) r.sig

/-- Write the entry of a write with its result; a store that fails refuses the write (R498). -/
def recordWrite (s : State) (role result path : Nat) (fp : Bytes) (ix sub : Nat) (old new : Bytes) : State × Bool :=
  if s.mgmt.storeFail then (agentEvent s 0x9023 3 [], false)
  else (auditRecord s role result path fp ix sub old new, true)

/-- Refuse a write: record it and answer. -/
def refuseWrite (s : State) (r : DapReq) (role : Nat) (fp : Bytes) (ix sub : Nat) (old new : Bytes) (status : Nat) : State :=
  let w := recordWrite s role status (pathCode r.path) fp ix sub old new
  respond w.1 r (if w.2 then status else stStore) []

/-- A header or body that breaks R492 or R493 (R497, R503). -/
def badMessage (s : State) (r : DapReq) : State := respond (malformed s r.path) r stBadMessage []

/-- A request whose body is not its service's. -/
def badBody (s : State) (r : DapReq) (service : Nat) (body : Bytes) : State :=
  match dapHear s r service body with
  | none => s
  | some s =>
      let c := countRequest s r.path
      if c.2 then respond c.1 r stBusy [] else badMessage c.1 r

/-- A signed request (R496): signature, session and counter in that order. `refuse` answers with a status, a role and a
fingerprint; `k` goes on with the session. -/
def dapSigned (s : State) (r : DapReq) (service : Nat) (body : Bytes) (refuse : State → Nat → Bytes → Nat → State)
    (k : Session → State → State) : State :=
  match dapHear s r service (body ++ r.sig) with
  | none => s
  | some s =>
      let c := countRequest s r.path
      if c.2 then respond c.1 r stBusy []
      else if r.sig.length ≠ 7856 then badMessage c.1 r
      else match sessionFor c.1 r with
        | none => refuse (unknownAuth c.1 r.path) 0xFF (zeros 8) stNoSession
        | some se =>
            if !signedOk se r service body then refuse (badSig c.1 r.path se.fp) se.role.val se.fp stSignature
            else if r.seq ≠ se.seq + 1 then
              refuse (badSig (closeSessions c.1 (fun e => e.num == r.session)) r.path se.fp) se.role.val se.fp stSequence
            else k se (touch c.1 r)

/-- A WRITE of an object (R496, R498): signature, session and counter, right, range and state; then the audit entry; then the
write itself. `check` gives the status of the object's own range and state rules. -/
def dapWriteRaw (s : State) (r : DapReq) (body : Bytes) (ix sub : Nat) (value : Bytes) (check : Session → State → Nat)
    (apply : Session → State → State) : State :=
  let old := match objAt ix sub with | some _ => objBytes s ix sub | none => []
  dapSigned s r 0x11 body (fun s role fp status => refuseWrite s r role fp ix sub old value status) (fun se s =>
    let role := se.role.val
    let refuse := fun (s : State) (status : Nat) => refuseWrite s r role se.fp ix sub old value status
    if s.mgmt.overflow.isSome || (role == 0 && decide (4032 ≤ auditCount s)) then refuse s stLogFull
    else match objAt ix sub with
      | none => refuse s stNoObject
      | some o =>
          let status := if mayWrite o role then check se s else stAccess
          if status = stAccess then refuse (badAccess s r.path se.fp) stAccess
          else if status ≠ stOk then refuse s status
          else
            let w := recordWrite s role stOk (pathCode r.path) se.fp ix sub old value
            if w.2 then apply se (respond w.1 r stOk []) else respond w.1 r stStore [])

/-- A WRITE whose padding is zero. -/
def dapWrite (s : State) (r : DapReq) (ix sub : Nat) (value : Bytes) (check : Session → State → Nat)
    (apply : Session → State → State) : State :=
  dapWriteRaw s r (writeBody ix sub value) ix sub value check apply

/-- An unsigned request of an open session: READ, CLOSE and AUDIT_EXPORT. -/
def dapRequest (s : State) (r : DapReq) (service : Nat) (body : Bytes) (k : Session → State → State) : State :=
  match dapHear s r service body with
  | none => s
  | some s =>
      let c := countRequest s r.path
      if c.2 then respond c.1 r stBusy []
      else match sessionFor c.1 r with
        | none => respond (unknownAuth c.1 r.path) r stNoSession []
        | some se =>
            if r.seq ≠ se.seq + 1 then
              respond (badSig (closeSessions c.1 (fun e => e.num == r.session)) r.path se.fp) r stSequence []
            else k se (touch c.1 r)

/-- The Wenlink port that carried a request, for objects that take host addresses (R513). -/
def carrier (r : DapReq) : Option WlPort := match r.path with | .wenlink n => some n | _ => none

end Sys2Proof.Machine
end

