-- ==== Sys2Proof/Machine/HlOps.lean ====
section
/-! DEFINITION. Sending on Heliostat ports (R542, R543) and the forwarding of manifests and shards along a Migration chain
(R320, R321). A message of a class is cut into flit payloads of 248 B, the last one padded with zeros (log entry 29). -/

namespace Sys2Proof.Machine

/-! Flits. The layout of both links (R523, R542). -/

/-- A flit of 256 B: KIND, SEQ, CLASS, ACKSEQ, payload and CRC. -/
def mkFlit (kind seq cls ack : Nat) (payload : Bytes) : Bytes :=
  let b := leBytes 4 (kind * 2 ^ 28 + seq % 4096 * 2 ^ 16 + cls * 2 ^ 12 + ack % 4096) ++ sliceB payload 0 248
  b ++ leBytes 4 (crc32 b).toNat
def flKind (f : Bytes) : Nat := bitsOf (leAt f 0 4) 31 28
def flSeq (f : Bytes) : Nat := bitsOf (leAt f 0 4) 27 16
def flClass (f : Bytes) : Nat := bitsOf (leAt f 0 4) 15 12
def flAck (f : Bytes) : Nat := bitsOf (leAt f 0 4) 11 0
def flPayload (f : Bytes) : Bytes := sliceB f 4 248
/-- The CRC of a flit is good (R524). -/
def flitCrc (f : Bytes) : Bool := f.length == 256 && leAt f 252 4 == (crc32 (f.take 252)).toNat

/-- Flits that a cumulative acknowledgement does not cover (R523). -/
def unackedAfter {α : Type} (ack : Nat) (l : List (BitVec 12 × α)) : List (BitVec 12 × α) :=
  match l.findIdx? (fun e => e.1.toNat == ack) with
  | some i => l.drop (i + 1)
  | none => l

/-- A Heliostat port carries traffic of a class in a state (R541, R543, R544, R548). -/
def hlCarries (s : State) (d cls : Nat) : Bool :=
  let h := hlOf s d
  if cls = 0 then h.st == 3 || h.st == 4 || h.st == 5
  else if cls = 1 then (h.st == 4 || h.st == 5) && obj s 0x4500 1 != d
  else if cls = 2 then h.st == 5 && obj s 0x4500 1 != d
  else h.st == 5 && obj s 0x4500 1 == d

/-- Send a message of a class on a port; a port that does not carry the class sends nothing. -/
def hlSend (s : State) (d cls : Nat) (msg : Bytes) : State :=
  if !hlCarries s d cls then s
  else updHl s d (fun h =>
    let ps := chunks 248 msg
    { h with
      unacked := h.unacked ++ ps.mapIdx (fun i b => (h.txSeq + BitVec.ofNat 12 i, cls, sliceB b 0 248))
      txSeq := h.txSeq + BitVec.ofNat 12 ps.length })

/-! Hello (R543). -/

/-- The module is held by protection: a coolant stop, a sag, or a module reset (R321, R543). -/
def heldByProtection (s : State) : Bool := s.fin.stop || s.fin.heldOff || s.fin.heldSupply
/-- FLAGS of this module's hello. -/
def helloFlags (s : State) (d : Nat) : Nat :=
  (if 2 ≤ s.fin.pwr.val then 1 else 0) + (if heldByProtection s then 2 else 0) + (if obj s 0x5310 8 = 1 then 4 else 0)
    + (if obj s 0x4500 1 = d then 8 else 0)
def helloBytes (s : State) (d : Nat) (chal : Bytes) : Bytes :=
  leBytes 4 0x4F4C4548 ++ leBytes 1 d ++ leBytes 1 (helloFlags s d) ++ leBytes 2 (obj s 0x5310 1)
    ++ leBytes 8 Config.idrev.toNat ++ sliceB Config.serial 0 16 ++ fwDigest s ++ sliceB chal 0 32
    ++ sliceB Config.identityFp 0 8 ++ zeros 24

/-- Send a new hello on a port, with a fresh challenge. -/
def sendHello (s : State) (d : Nat) : State :=
  let f := freeBytes s 32
  let b := helloBytes f.2 d f.1
  hlSend (updHl f.2 d (fun h => { h with own := b })) d 0 b

/-! The Migration chain (R319 to R321). -/

/-- Ports of a chain group: 3 UP, 4 DOWN, 5 SKIP_OUT, 6 SKIP_IN. -/
def chainPorts (s : State) (sub : Nat) : List Nat := (List.range 64).filter (fun i => bitOf (obj s 0x5310 sub) i)
/-- A chain port is up: in TRANSIT or PIPELINE (R319). -/
def chainUp (s : State) (d : Nat) : Bool := (hlOf s d).st == 4 || (hlOf s d).st == 5
def groupDown (s : State) (sub : Nat) : Bool := (chainPorts s sub).all (fun d => !chainUp s d)
def chainMember (s : State) : Bool := obj s 0x5310 1 != 0
def chainFenced (s : State) : Bool := obj s 0x5310 8 == 1

/-- The frame of a chain message: the length of what follows, so that its end is found in the class's byte stream
(log entry 29). -/
def chainMsg (b : Bytes) : Bytes := leBytes 8 b.length ++ b

/-- The port for shard index i of a group of n ports. -/
def groupPort (s : State) (sub i : Nat) : Option Nat :=
  let ps := chainPorts s sub
  if ps.isEmpty then none else ps[i % ps.length]?

/-- Where the module forwards: DOWN, or SKIP_OUT while the successor is fenced. -/
def outGroup (s : State) : Option Nat :=
  if !groupDown s 4 then some 4 else if !groupDown s 5 then some 5 else none

/-- The chain's state after a look at its links, with CHAIN_REROUTE and CHAIN_BROKEN once each (R321). -/
def chainLook (s : State) : State :=
  if !chainMember s || chainFenced s || (chainPorts s 4).isEmpty || s.stw.chainState ≠ 1 && s.stw.chainState ≠ 2 then s
  else match outGroup s with
    | some 4 => s
    | some _ =>
        if s.stw.chainState = 2 then s
        else
          let s := stwEvent (updStw s (fun t => { t with chainState := 2 })) 0x7040 1 none none []
          -- shards not yet acknowledged go out again on SKIP_OUT
          s.stw.staged.foldl (fun s e => match groupPort s 5 e.2.1 with
            | some d => hlSend s d 1 (chainMsg e.2.2)
            | none => s) s
    | none => stwEvent (updStw s (fun t => { t with chainState := 3 })) 0x7041 2 none none []

/-- The last shard index of a load's manifest. -/
def lastShard (s : State) (epoch : Bytes) : Option Nat :=
  let mans := s.stw.chainMan.toList ++ s.parts.filterMap (fun e => e.2.epochs.moult.map (fun m => m.man))
  ((mans.find? (fun m => m.digest == epoch)).bind (fun m => m.shards.getLast?)).map (fun x => x.1)

/-- Forward a shard image; it stays staged until it is acknowledged (R320, R321). -/
def forwardShard (s : State) (epoch : Bytes) (index : Nat) (image : Bytes) : State :=
  if !chainMember s || chainFenced s || s.stw.chainState = 3 then s
  else
    let s := chainLook (updStw s (fun t => { t with
      staged := t.staged ++ [(epoch, index, image)], chainDone := t.chainDone || lastShard s epoch == some index }))
    match (outGroup s).bind (fun g => groupPort s g index) with
    | some d => hlSend s d 1 (chainMsg image)
    | none => s

/-- Forward a manifest to the rest of the chain: it goes first, on the group's first port. -/
def forwardManifest (s : State) (bytes : Bytes) : State :=
  if !chainMember s || chainFenced s || (chainPorts s 4).isEmpty then s
  else
    let s := chainLook (updStw s (fun t => { t with chainState := 1, chainDone := false, staged := [] }))
    match (outGroup s).bind (fun g => groupPort s g 0) with
    | some d => hlSend s d 1 (chainMsg bytes)
    | none => s

/-- Every chain flit on port d has been acknowledged: its shards leave staging, and after the last one the load is over. -/
def chainAcked (s : State) (d : Nat) : State :=
  if (hlOf s d).unacked.any (fun e => e.2.1 == 1) || s.stw.staged.isEmpty then s
  else
    let mine := fun (e : Bytes × Nat × Bytes) => ((outGroup s).bind (fun g => groupPort s g e.2.1)) == some d
    let s := updStw s (fun t => { t with staged := t.staged.filter (fun e => !mine e) })
    if s.stw.chainDone && s.stw.staged.isEmpty && (s.stw.chainState = 1 || s.stw.chainState = 2) then
      updStw s (fun t => { t with chainState := 0 })
    else s

/-- Bytes in transit staging, and whether UP credits are withheld (R320). -/
def stagedBytes (s : State) : Nat := (s.stw.staged.map (fun e => e.2.2.length)).sum
def setChainStall (s : State) : State :=
  let full := decide (obj s 0x5300 5 * 1048576 ≤ stagedBytes s) || chainFenced s
  (chainPorts s 3).foldl (fun s d => if (hlOf s d).chainStall = full then s else updHl s d (fun h => { h with chainStall := full })) s

end Sys2Proof.Machine
end

