-- ==== Sys2Proof/Machine/CtrlNet.lean ====
section
/-! DEFINITION. Control-network messages as they land (R168 to R171), register accesses (R170) and the interrupt controller's
own events (R474 to R477). -/

namespace Sys2Proof.Machine

/-- A message that the network does not deliver (R170, R171): a reserved TYPE or LEN, or a BCAST that neither the Finder nor
the Steward sent. -/
def msgDropped (s : State) (m : CtrlMsg) : Bool :=
  mType m = 0 || 8 ≤ mType m || mLen m = 0
    || (mBcast m && !(requester m == .finder || requester m == .cc (stewardCc s)))

/-- The unit and the reporter of an error that the network finds at a message's destination, or, where no die has that number, at
the router of its source (R9, R167). DESIGN CHOICE (log entry 118). -/
def msgUnit (s : State) (m : CtrlMsg) : Nat × Nat :=
  let at_ := fun (d cl co : Nat) =>
    if d < 64 then (coreUnit (coreAt d cl co) 9 0, d * 16 + cl)
    else if d < 80 then (dieUnit d 9, 1024 + 2 * (d - 64))
    else (dieUnit s.stw.die 9, stewardCc s)
  if mDie m < 80 then at_ (mDie m) (mCluster m) (mCore m) else at_ (mSrcDie m) (mSrcCluster m) (mSrcCore m)

/-- Count and report a dropped message at the core it was for (R171). -/
def dropMessage (s : State) (m : CtrlMsg) : State :=
  if 64 ≤ mDie m then raise s 0x3030 1 (msgUnit s m).1 (msgUnit s m).2 []
  else
    let c := coreAt (mDie m) (mCluster m) (mCore m)
    raise (bumpR s c 0x4A0 15 0 1) 0x3030 1 (coreUnit c 9 0) (clusterOf c) []

/-- A message of a type lands; a dropped one is counted, and one of another type is not this row's. -/
def landing (s : State) (m : CtrlMsg) (type : Nat) (k : State → State) : State :=
  if msgDropped s m then dropMessage (landCtrl s m) m
  else if mType m ≠ type then s
  else k (landCtrl s m)

/-- CTRL_SIGNAL (R127, R129, R170): word 2 is added to the semaphore; an overflow is a command error of the core (R130). The tag of a
SIGNAL.R carries the low half of the command's index. DESIGN CHOICE (log entry 119). -/
def execCtrlSignal (m : CtrlMsg) (s : State) : Out :=
  if !msgOk m then .fault (.illFormed "CTRL_SIGNAL")
  else .next (landing s m 1 (fun s =>
    if 64 ≤ mDie m || mToCc m || mBcast m then s
    else
      let c := coreAt (mDie m) (mCluster m) (mCore m)
      let r := signalSem s c (mArg m % 32) (msgWord m 2 % 65536) (some (0x74, mTag m))
      if r.2 then failCommand r.1 c 0 (coreOf r.1 c).cmdIndex.toNat eSemOverflow 0 0 else r.1))

/-- A doorbell of a message at a control core; the grant arbiter acts on those of the Finder (R474, R479). -/
def messageBell (s : State) (m : CtrlMsg) (i : Nat) : State :=
  let n := msgWord m 2 % 1024
  let tag := bitsOf (msgWord m 2) 31 16
  if requester m = .finder then finderBell s i n tag else doorbellAt s i n tag

/-- The copies of a BCAST message for the control cores other than i (R169). -/
def bcastCopies (m : CtrlMsg) (i : Nat) : List CtrlMsg :=
  (allCcs.filter (· ≠ i)).map (fun j => { words :=
    [msgHeader (mType m) (ccDie j) (ccCluster j) (ccCore j) true (mLen m) (mUrgent m) false (mArg m)] ++ m.words.drop 1 })

/-- ICU_DOORBELL (R169, R170, R474, R479): the message raises its source at a control core that it is addressed to. A BCAST message
reaches one control core with this row, and goes on to every other as a copy of its own. -/
def execIcuDoorbell (cc : CcId) (m : CtrlMsg) (s : State) : Out :=
  if !msgOk m then .fault (.illFormed "ICU_DOORBELL")
  else .next (landing s m 2 (fun s =>
    if mBcast m then messageBell { s with ctrl := s.ctrl ++ bcastCopies m cc.val } m cc.val
    else if ccAt (mDie m) (mCluster m) (mCore m) = some cc.val && (mToCc m || 64 ≤ mDie m) then messageBell s m cc.val
    else s))

/-- ERR (R167, R188, R472): the transfer with the response's TID fails with the code; at a control core the code is put in ccerr and
the access that it answers faults. -/
def execErr (m : CtrlMsg) (s : State) : Out :=
  if !msgOk m then .fault (.illFormed "ERR")
  else .next (landing s m 3 (fun s =>
    if mToCc m || 64 ≤ mDie m then
      match ccAt (mDie m) (mCluster m) (mCore m) with
      | some i => updCc s i (fun c => ccFault c (mArg m))
      | none => s
    else
      let c := coreAt (mDie m) (mCluster m) (mCore m)
      match (coreOf s c).te.find? (fun t => t.tid.toNat == msgWord m 2 % 65536) with
      | some t => transferFails s c t (mArg m)
      | none => s))

/-- The answer to a register message goes back to its source (R168, R169). Where no die has the number that the message names, the
source's own router answers (R167). -/
def answerTo (m : CtrlMsg) (type len arg : Nat) (rest : List W32) : CtrlMsg :=
  { words := [msgHeader type (mSrcDie m) (mSrcCluster m) (mSrcCore m) (mFromCc m) len false false arg,
      if mDie m < 80 then msgSource (mDie m) (mCluster m) (mCore m) (64 ≤ mDie m || mToCc m) (mTag m)
      else msgSource (mSrcDie m) (mSrcCluster m) (mSrcCore m) (mFromCc m) (mTag m)] ++ rest }

/-- ERR of a register access (R167): its own TID is the tag of its source word. -/
def regError (s : State) (m : CtrlMsg) (code : Nat) : State :=
  let s := sendCtrl s (answerTo m 3 3 code [BitVec.ofNat 32 (mTag m), BitVec.ofNat 32 (msgWord m 2 / 64)])
  raise s 0x3010 2 (msgUnit s m).1 (msgUnit s m).2 [BitVec.ofNat 8 code]

/-- REG_RD (R170): answered with one half of the register. A read of ICU_CLAIM takes the source (R477). -/
def execRegRd (m : CtrlMsg) (s : State) : Out :=
  let off := msgWord m 2
  let high := bitOf (mArg m) 3
  if !msgOk m then .fault (.illFormed "REG_RD")
  else .next (landing s m 4 (fun s =>
    match msgSpace m with
    | .inr e => regError s m e
    | .inl r => match regInfo r off with
      | none => regError s m 0x04
      | some i =>
          if high && !i.wide then sendCtrl s (answerTo m 6 2 (8 + 128) [0#32])
          else
            let v := regRead s r off
            let half := BitVec.ofNat 32 (if high then v / 2 ^ 32 else v)
            let s := match regIcu r off with
              | some e => if e.2 = 0x200 then claimAt s e.1 else s
              | none => s
            sendCtrl s (answerTo m 6 2 (if high then 8 else 0) [half])))

/-- A key for the low half that a requester has written: its source without the tag, and the register's space. -/
def halfKey (m : CtrlMsg) : W32 × Nat :=
  (BitVec.ofNat 32 (msgWord m 1 / 65536), bitsOf (msgWord m 0) 27 12 * 8 + mArg m % 8)

/-- REG_WR (R6, R170): a 32-bit register is written when the message lands, a 64-bit register when its high half lands. A write of a
register that nobody writes is ignored; one that this requester may set no bit of is answered ACCESS (R167, log entry 26). -/
def execRegWr (m : CtrlMsg) (s : State) : Out :=
  let off := msgWord m 2
  let v := msgWord m 3
  let high := bitOf (mArg m) 3
  if !msgOk m then .fault (.illFormed "REG_WR")
  else .next (landing s m 5 (fun s =>
    match msgSpace m with
    | .inr e => regError s m e
    | .inl r => match regInfo r off with
      | none => regError s m 0x04
      | some i =>
          let mask := writable s r off (requester m) (mUrgent m) i
          let w1c := clearable r (requester m) i
          if high && !i.wide then sendCtrl s (answerTo m 6 2 (8 + 128) [0#32])
          else if i.readOnly then s
          else if mask ||| w1c = 0 then regError s m 0x08
          else if !i.wide then regWrite s r off v mask w1c
          else
            let k := halfKey m
            let mine := fun (e : W32 × Nat × Nat × W32) => e.1 == k.1 && e.2.1 == k.2 && e.2.2.1 == off
            if !high then
              { s with lowHalf := (s.lowHalf.filter (fun e => !mine e)) ++ [(k.1, k.2, off, BitVec.ofNat 32 v)] }
            else
              let low := match s.lowHalf.find? mine with | some e => e.2.2.2.toNat | none => regRead s r off % 2 ^ 32
              regWrite { s with lowHalf := s.lowHalf.filter (fun e => !mine e) } r off (v * 2 ^ 32 + low) mask w1c))

/-- REG_RSP (R170): the data reach the requester, whose reading of them is its own. -/
def execRegRsp (m : CtrlMsg) (s : State) : Out :=
  if !msgOk m then .fault (.illFormed "REG_RSP") else .next (landing s m 6 id)

/-- MGMT (R170): an accepted write reaches the owner of its object. The object rows give a write its effect when the agent
accepts it, so that its landing adds nothing (log entry 27). -/
def execMgmt (m : CtrlMsg) (s : State) : Out :=
  if !msgOk m then .fault (.illFormed "MGMT") else .next (landing s m 7 id)

/-- ICU_GROUP_TIMEOUT (R475, R476): TIME has passed since the group's batch began; the group is ready and MEIP is asserted. -/
def execIcuGroupTimeout (cc : CcId) (g : Fin 16) (s : State) : Out :=
  .next (updCc s cc.val (fun c =>
    if (groupPending c.icu g.val).isEmpty || c.icu.ready.contains g.val || getN 0 c.icu.batch g.val = 0 then c
    else ccDeliver { c with icu := { c.icu with ready := insertBy (fun a b => decide (a < b)) g.val c.icu.ready } }))

/-- ICU_CLAIM (R477): firmware reads ICU_CLAIM. A read that finds no source ends the handler: whether the firmware then waits in WFI,
and what it leaves in MIE and MEIE, are its own and free (log entry 16). -/
def execIcuClaim (cc : CcId) (s : State) : Out :=
  .next (match claimValue (ccOf s cc.val).icu with
    | some _ => claimAt s cc.val
    | none =>
        let f := (Config.freeWord s.free).toNat
        { updCc s cc.val (fun c => ccDeliver { c with wfi := bitOf f 0, mie := bitOf f 1, meie := bitOf f 2, trap := none }) with
          free := s.free + 1 })

/-- ICU_SRC_WRITE (R474, R476, R477). -/
def execIcuSrcWrite (cc : CcId) (n : Fin 1024) (value : W64) (s : State) : Out :=
  .next (updCc s cc.val (fun c => ccDeliver { c with icu := icuSrcWrite c.icu s.units n.val value.toNat }))

end Sys2Proof.Machine
end

