-- ==== Sys2Proof/Machine/Layouts.lean ====
section
/-! DEFINITION. The loader: the parse of a layout file (R228, R229, R245), the load checks (R33, R38, R39, R161), the choice of a
detour (R230) and the placement of a layout on its partition (R32, R266, R314). -/

namespace Sys2Proof.Machine

/-- The first test of a list that holds. -/
def firstOf (tests : List (Bool × Nat)) : Option Nat := (tests.find? (fun t => t.1)).map (fun t => t.2)

/-- The header's first faulty field (R223, R228). -/
def headerFault (b : Bytes) (regions : Nat) : Option Nat :=
  firstOf [(b.length < 0x40 || leAt b 0 4 ≠ 0x54594C44, 0), (leAt b 4 2 ≠ 1, 4),
    (4 ≤ byteAt b 7 || (bitOf (byteAt b 7) 0 != decide (0 < lyNdetour b)), 7),
    (byteAt b 8 = 0 || 8 < byteAt b 8, 8), (byteAt b 9 = 0 || 8 < byteAt b 9, 9),
    (leAt b 0xA 2 = 0 || 1024 < leAt b 0xA 2 || leAt b 0xA 2 ≠ regions, 0xA), (lyNsect b = 0 || 1024 < lyNsect b, 0xC),
    (255 < lyNdetour b, 0xE), (leAt b 0x14 4 ≠ 0, 0x14), (leAt b 0x29 3 ≠ 0, 0x24), (leAt b 0x30 16 ≠ 0, 0x30)]

/-- A directory entry's first faulty field, given the entries before it; instar allows one INSTAR section (R224, R335). -/
def entryFault (b : Bytes) (instar : Bool) (i : Nat) (before : List (Nat × Nat × Nat × Nat)) : Option Nat :=
  let e := lyEntry b i
  let o := 0x40 + 16 * i
  let dirEnd := 0x40 + 16 * lyNsect b
  let again := before.any (fun x => x.1 == e.1)
  firstOf [(e.1 = 0 || 0xB < e.1 || (e.1 = 0xB && !instar) || (e.1 ≠ 0xA && again), o), (e.2.1 ≠ 0, o + 2),
    (b.length < e.2.2.2 + e.2.2.1, o + 4),
    (e.2.2.2 % 64 ≠ 0 || e.2.2.2 < dirEnd
      || before.any (fun x => decide (x.2.2.2 < e.2.2.2 + e.2.2.1) && decide (e.2.2.2 < x.2.2.2 + x.2.2.1)), o + 8)]

def entryFaults (b : Bytes) (instar : Bool) : Option Nat :=
  (List.range (lyNsect b)).findSome? (fun i => entryFault b instar i ((lyEntries b).take i))

/-- A COVER entry's die lies outside the file's shape, or its low half is not zero (R32, R229). -/
def coverFault (b : Bytes) (at_ : Nat) : Bool :=
  let u := leAt b at_ 4
  u % 0x10000 ≠ 0 || byteAt b 8 ≤ u / 2 ^ 25 % 8 || byteAt b 9 ≤ u / 2 ^ 28

/-- An entry of a list of replacement sections, at byte o of the file: its first faulty field. The sections lie within the DETOUR
section of len bytes at off (R223, R229). -/
def replFault (b : Bytes) (off len o : Nat) (before : List Nat) : Option Nat :=
  let type := leAt b o 2
  let at_ := leAt b (o + 8) 8
  firstOf [(!([1, 2, 4, 5, 6, 7, 8].contains type) || before.contains type, o), (leAt b (o + 2) 2 ≠ 0, o + 2),
    (off + len < at_ + leAt b (o + 4) 4, o + 4), (at_ % 64 ≠ 0 || at_ < off, o + 8)]

/-- A DETOUR section's first faulty field; n is its place among the DETOUR entries, from 1 (R229). -/
def detourFault (b : Bytes) (off len n : Nat) : Option Nat :=
  let nc := leAt b (off + 2) 2
  let nr := leAt b (off + 4) 2
  let covers := (List.range (min nc 16)).map (fun i => off + 0x40 + 4 * i)
  let repl := fun (i : Nat) => off + replAt nc + 16 * i
  (firstOf [(byteAt b off ≠ n, off), (1 < byteAt b (off + 1), off + 1), (nc = 0 || 16 < nc, off + 2), (leAt b (off + 6) 58 ≠ 0, off + 6),
    (len < 0x40 + 4 * nc, off + 2), (nr ≠ 0 && len < replAt nc + 16 * nr, off + 4)]).or
    ((covers.find? (coverFault b)).or
      ((List.range nr).findSome? (fun i =>
        replFault b off len (repl i) ((List.range i).map (fun k => leAt b (repl k) 2)))))

/-! The sweep section (R241, R245, R252). -/

/-- A layer record keeps R241 and lies, aligned, in the scratchpad. -/
def layerRecordOk (cfmt : Nat) (r : Nat × Bytes) : Bool :=
  let b := r.2
  b.length == 192 && r.1 % 64 == 0 && decide (r.1 + 192 ≤ Config.spadSize)
    && (List.range 32).all (fun j =>
      let x : F32 := BitVec.ofNat 32 (leAt b (4 * j) 4)
      isFinite32 x && lt32 0#32 x)
    && byteAt b 0x8C == cfmt && decide (cfmt ≤ 1) && decide (byteAt b 0x8D ≤ 1) && leNat (b.drop 0x8E) == 0

/-- A layer's ring table keeps R243 and R245; `live` are the cores that can hold cache. -/
def ringsOk (rings : List (Nat × List (Nat × Nat))) (reach : List Nat) (live : List (Nat × Nat)) (canHold : Nat × Nat → Bool) :
    Bool :=
  let firsts := rings.map (fun r => r.1)
  decide (1 ≤ rings.length) && decide (rings.length ≤ 16) && firsts.head? == some 0
    && (List.zip firsts (firsts.drop 1)).all (fun e => decide (e.1 < e.2)) && firsts.all (fun g => decide (g < 131072))
    && rings.all (fun r => !r.2.isEmpty && r.2.eraseDups.length == r.2.length && r.2.all canHold)
    && live.all (fun c => rings.any (fun r => r.2.contains c))
    && decide (1 ≤ reach.length) && decide (reach.length ≤ 4) && reach.all (fun k => decide (k < rings.length))
    && reach.getLast? == some (rings.length - 1)

/-- Cluster of a core of a shape, in the order of the BUDGET section. -/
def budgetIndex (a : Nat) (xy : Nat × Nat) : Nat := ((xy.2 / 16) * a + xy.1 / 16) * 16 + (xy.2 % 16 / 4) * 4 + xy.1 % 16 / 4

/-- A core is fenced, by itself, its cluster or its site. -/
def anyFence (s : State) (c : Nat) : Bool := coreFenced s c || clusterFenced s (clusterOf c) || siteFenced s (siteOf c)

/-- The SWEEP section breaks a rule of chapter 09 (R245). -/
def sweepBroken (s : State) (p : Nat) (f : LayoutFile) : Bool :=
  let d := f.body.sweep
  let a := 16 * (lyShape f.bytes).1
  let b := 16 * (lyShape f.bytes).2
  let inShape := fun (xy : Nat × Nat) => decide (xy.1 < a) && decide (xy.2 < b)
  let canHold := fun (xy : Nat × Nat) => inShape xy && byteAt (lyBudget f.bytes) (budgetIndex (a / 16) xy) != 0
  let cells := (List.range b).flatMap (fun y => (List.range a).map (fun x => (x, y)))
  let live := if d.rings.isEmpty then [] else cells.filter (fun xy => canHold xy && !anyFence s (relCore s p xy))
  !inShape d.hub || d.records.length != d.rings.length || d.reach.length != d.rings.length
    || decide (Config.spadSize < d.inboxOff + 8 * d.slotBytes) || d.inboxOff % 8 != 0 || d.slotBytes % 8 != 0
    || !d.records.all (layerRecordOk (cacheFmt d))
    || !(List.zip d.rings d.reach).all (fun e => ringsOk e.1 e.2 live canHold)

/-- The first fault of a layout file for a partition, as a byte offset (R228, R245). -/
def layoutFault (s : State) (p : Nat) (f : LayoutFile) (instar : Bool) : Option Nat :=
  let b := f.bytes
  let det := lyDetours b
  (headerFault b f.body.regions.length).or
    ((if 0x40 + 16 * lyNsect b ≤ b.length then entryFaults b instar else some 0xC).or
      ((firstOf [((List.range 9).any (fun t => !(lyEntries b).any (fun e => e.1 == t + 1)), 0xC),
          (det.length ≠ lyNdetour b, 0xE),
          ((lyBudget b).length ≠ 16 * (byteAt b 8 * byteAt b 9) || (lyBudget b).any (fun n => decide (64 < n.toNat)), lyOffset b 8),
          (sweepBroken s p f, lyOffset b 9)]).or
        ((List.range det.length).findSome? (fun i => match det[i]? with
          | some e => detourFault b e.2.2.2 e.2.2.1 (i + 1)
          | none => none))))

/-! Job descriptors (R266). -/

def jdKind (d : Bytes) : Nat := byteAt d 4
def jdPart (d : Bytes) : Nat := byteAt d 5
def jdThetaSrc (d : Bytes) : Nat := byteAt d 6
def jdTheta (d : Bytes) : F32 := BitVec.ofNat 32 (leAt d 8 4)
def jdJob (d : Bytes) : Nat := leAt d 0xC 4
def jdDigest (d : Bytes) : Bytes := sliceB d 0x20 32
def jobDescFault (d : Bytes) : Option Nat :=
  firstOf [(d.length ≠ 64 || leAt d 0 4 ≠ 0x424F4A44, 0), (jdKind d ≠ 1 && jdKind d ≠ 2, 4), (15 < jdPart d, 5),
    (1 < jdThetaSrc d, 6), (byteAt d 7 ≠ 0, 7)]

/-! Load checks (R39). -/

/-- Cells of a set that a walk over neighbouring cells reaches; fuel bounds its length. -/
def reachCells (all : List (Nat × Nat)) : Nat → List (Nat × Nat) → List (Nat × Nat) → List (Nat × Nat)
  | 0, _, seen => seen
  | n + 1, front, seen =>
      let next := (all.filter (fun c => !seen.contains c && front.any (fun f =>
        (c.1 == f.1 && (c.2 + 1 == f.2 || f.2 + 1 == c.2)) || (c.2 == f.2 && (c.1 + 1 == f.1 || f.1 + 1 == c.1)))))
      if next.isEmpty then seen else reachCells all n next (seen ++ next)
def connected (cells : List (Nat × Nat)) : Bool :=
  match cells with
  | [] => true
  | c :: _ => (reachCells cells cells.length [c] [c]).length == cells.length

/-! Paths and trees over the cells of a shape (R38, R161). -/

/-- Hops and die crossings between two cells. -/
def cellHops (a b : Nat × Nat) : Nat := (a.1 - b.1) + (b.1 - a.1) + (a.2 - b.2) + (b.2 - a.2)
def cellCrossings (a b : Nat × Nat) : Nat := cellHops (a.1 / 16, a.2 / 16) (b.1 / 16, b.2 / 16)
/-- The cell behind a port: 1 north, 2 east, 3 south, 4 west (R152). -/
def cellBehind (xy : Nat × Nat) (p : Nat) : Option (Nat × Nat) :=
  if p = 1 then (if xy.2 = 0 then none else some (xy.1, xy.2 - 1))
  else if p = 2 then some (xy.1 + 1, xy.2)
  else if p = 3 then some (xy.1, xy.2 + 1)
  else if xy.1 = 0 then none else some (xy.1 - 1, xy.2)
def portBehind (p : Nat) : Nat := if p ≤ 2 then p + 2 else p - 2

/-- A path as it is walked: hops, crossings, its last port (0 before the first hop), and whether it runs in dimension order. -/
structure PathWalk where
  hops     : Nat
  crossings : Nat
  last     : Nat
  ordered  : Bool
  deriving DecidableEq, Repr
def PathWalk.start : PathWalk := { hops := 0, crossings := 0, last := 0, ordered := true }
/-- One hop from a cell: east or west first, then north or south, and no turning back (R152). -/
def walkHop (w : PathWalk) (a b : Nat × Nat) (p : Nat) : PathWalk :=
  { hops := w.hops + 1, crossings := w.crossings + cellCrossings a b, last := p
    ordered := w.ordered && (w.last == 0 || w.last == p || (w.last % 2 == 0 && p % 2 == 1)) }

/-- The table word of a cell's router, 0 where the layout gives none. -/
def treeWord (ts : List TreeImage) (entry : Nat) (xy : Nat × Nat) : Nat :=
  match ts.find? (fun t => t.rx == xy.1 && t.ry == xy.2 && t.entry.val == entry) with | some t => t.word.toNat | none => 0

/-- Destinations of a multicast from a cell on, with the path to each; fuel bounds the way (R162). -/
def treeDests (ts : List TreeImage) (entry : Nat) : Nat → Nat × Nat → Nat → PathWalk → List ((Nat × Nat) × PathWalk)
  | 0, _, _, _ => []
  | n + 1, xy, inPort, w =>
      let v := treeWord ts entry xy
      if !bitOf v 31 || bitOf v 30 || !(mcIn v).contains inPort then []
      else (mcOut v).flatMap (fun p =>
        if p = 0 then [(xy, w)] else match cellBehind xy p with
          | some b => treeDests ts entry n b (portBehind p) (walkHop w xy b p)
          | none => [])

/-- The path of a contribution from a cell on toward the root of a reduction. -/
def treeRoot (ts : List TreeImage) (entry : Nat) : Nat → Nat × Nat → PathWalk → PathWalk
  | 0, _, w => w
  | n + 1, xy, w =>
      let v := treeWord ts entry xy
      match (if bitOf v 31 && bitOf v 30 then mcOut v else []) with
      | [] => w
      | p :: _ => if p = 0 then w else match cellBehind xy p with
        | some b => treeRoot ts entry n b (walkHop w xy b p)
        | none => w

/-- Every path of the layout's trees runs in dimension order: from each root to its destinations, and from each contributor to
its root (R161). -/
def treesOrdered (ts : List TreeImage) : Bool :=
  ts.all (fun t =>
    let v := t.word.toNat
    !bitOf v 31 || !(mcIn v).contains 0
      || (if bitOf v 30 then (treeRoot ts t.entry.val 256 (t.rx, t.ry) PathWalk.start).ordered
          else (treeDests ts t.entry.val 256 (t.rx, t.ry) 0 PathWalk.start).all (fun e => e.2.ordered)))

/-- Each core of a region is an entry core, or a multicast from one of them reaches it within 12 hops and one crossing (R38). -/
def mcastOk (ts : List TreeImage) (r : RegionDesc) : Bool :=
  let roots := ts.filter (fun t => r.entry.contains (t.rx, t.ry) && (mcIn t.word.toNat).contains 0)
  let near := (roots.flatMap (fun t => treeDests ts t.entry.val 256 (t.rx, t.ry) 0 PathWalk.start)).filter
    (fun e => decide (e.2.hops ≤ 12) && decide (e.2.crossings ≤ 1))
  let reached := r.entry ++ near.map (fun e => e.1)
  !r.entry.isEmpty && decide (r.entry.length ≤ 16) && r.cores.all (fun c => reached.contains c)

/-- Every exit core of a region lies within 16 hops and one crossing of every entry core of the next (R38, log entry 132). -/
def handoffOk (rs : List RegionDesc) : Bool :=
  (List.zip rs (rs.drop 1)).all (fun e => e.1.exit.all (fun x => e.2.entry.all (fun y =>
    decide (cellHops x y ≤ 16) && decide (cellCrossings x y ≤ 1))))

/-- Relative cores to which a placement assigns work: region cores, cores with streams, partner cores, and cores that hold cache. -/
def workCores (f : LayoutFile) (n : Nat) : List (Nat × Nat) :=
  ((placeRegions f n).flatMap (fun r => r.cores)) ++ (placeStreams f n).map (fun x => (x.rx, x.ry))
    ++ (placePartners f n).map (fun x => x.2) ++ (ringCores f.body.sweep).map (placeCore f n)

/-- A covered unit of a detour, as a core of the partition tests it (R229). -/
def coversCore (s : State) (p c v : Nat) : Bool :=
  let nw := pdSy0 (partDef s p) * 8 + pdSx0 (partDef s p)
  bitsOf v 31 25 + nw == siteOf c && bitsOf v 24 21 == clusterIn c
    && (bitOf v 16 || (bitsOf v 20 17 == coreIn c && coreFenced s c && !clusterFenced s (clusterOf c) && !siteFenced s (siteOf c)))

/-- The placement that keeps work off every fenced unit: 0 the primary, else the first detour in directory order (R230). -/
def choosePlacement (s : State) (p : Nat) (f : LayoutFile) : Option Nat :=
  let bad := ((workCores f 0).map (relCore s p)).filter (anyFence s)
  if bad.isEmpty then some 0
  else ((placements f).drop 1).find? (fun n => bad.all (fun c => (dtCovers f.bytes n).any (coversCore s p c))
    && !((workCores f n).map (relCore s p)).any (anyFence s))

/-- Bytes that a layout claims in a relative vault under a placement: its shards in every bank, the copies that its detours keep,
and the slot tables and cache areas (R39). -/
def claimed (f : LayoutFile) (n rx ry cl : Nat) : Nat :=
  let here := fun (x : ShardPlace) => x.rx == rx && x.ry == ry && x.cluster.val == cl
  let copies := ((placements f).flatMap (shardCopies f)).filter here
  (((placeShards f n).filter here ++ copies).map (fun x => f.body.banks * x.space)).sum
    + (if (ringCores f.body.sweep).isEmpty then 0 else 16 * 262144 + 16 * f.body.sweep.frames * frameBytes)
/-- A shard's place lies in its vault in every bank. -/
def placeFits (f : LayoutFile) (x : ShardPlace) : Bool :=
  decide (x.off0 + x.space ≤ Config.vaultCap) && decide (f.body.banks < 2 || x.off1 + x.space ≤ Config.vaultCap)
def capacityOk (f : LayoutFile) : Bool :=
  (placements f).all (fun n => (placeShards f n ++ shardCopies f n).all (fun x =>
      decide (claimed f n x.rx x.ry x.cluster.val ≤ Config.vaultCap) && placeFits f x))
    && ((ringCores f.body.sweep).isEmpty
        || decide (f.body.sweep.areaOff + 16 * f.body.sweep.frames * frameBytes ≤ Config.vaultCap))

/-- DECL against the registers of every core and cluster (R214). -/
def sizesOk (b : Bytes) : Bool :=
  leAt b 0x18 4 == 0x180000 && leAt b 0x1C 4 == 0x10180100 && leAt b 0x20 4 == 0x44040085 && leAt b 0x24 8 == 0x60000000
    && leAt b 0x2C 4 == 0x0410

/-- Live sites of a partition as cells. -/
def liveSites (s : State) (p : Nat) : List (Nat × Nat) :=
  ((partSites s p).filter (fun d => !siteFenced s d)).map (fun d => (d % 8, d / 8))

/-- Every region is connected, and no core belongs to two (R33, log entry 133). -/
def regionsOk (rs : List RegionDesc) : Bool :=
  let all := rs.flatMap (fun r => r.cores)
  rs.all (fun r => connected r.cores) && all.eraseDups.length == all.length

/-- The first reason of R39 for which a layout is refused on a partition; each of its placements has to pass. -/
def loadReason (s : State) (p : Nat) (f : LayoutFile) : Option Nat :=
  let v := partDef s p
  let every := fun (test : Nat → Bool) => (placements f).all test
  firstOf [(lyShape f.bytes ≠ (pdSx1 v + 1 - pdSx0 v, pdSy1 v + 1 - pdSy0 v), 1),
    (lyLevel f.bytes ≠ 2 && lyLevel f.bytes ≠ 3, 2), (!capacityOk f, 3),
    (!every (fun n => regionsOk (placeRegions f n)) || !connected (liveSites s p), 4),
    (!every (fun n => handoffOk (placeRegions f n)), 5),
    (!every (fun n => (placeRegions f n).all (mcastOk (placeTrees f n)) && treesOrdered (placeTrees f n)), 6),
    (!sizesOk f.bytes, 7), ((choosePlacement s p f).isNone, 8), (f.body.sweep.rho.any (fun e => e.2 == one32), 0x10)]

/-! Commands that a layout carries (R32, R208). -/

/-- A command that may give different bits on two runs (R208). -/
def varies (w : Nat) : Bool :=
  [0xA1, 0xA2, 0xA3].contains (wOpc w) || (wOpc w == 0x30 && wMod w / 16 % 4 == 2) || (wOpc w == 0x42 && wMod w / 4 % 4 == 2)
/-- Some command of a layout's streams, in any of its placements, is one of them (R380). -/
def nondetFile (f : LayoutFile) : Bool :=
  (f.body.streams ++ (placements f).flatMap (fun n => newItems f n 4 (fun d => d.streams))).any (fun x =>
    (chunks 16 x.bytes).any (fun b => varies (leNat b)))

/-- A DIE field whose high bit is at `hi`, counted from the partition's north-west site (R32). -/
def relocDie (nw w hi : Nat) : Nat :=
  let d := bitsOf w hi (hi - 6)
  if d < 64 then setBits w hi (hi - 6) (d + nw) else w
/-- The loader relocates the DIE field of a command: of a global address, or of SIGNAL.R (R32). -/
def relocWord (nw w : Nat) : Nat :=
  if wOpc w = 0x74 then relocDie nw w 63 else if opForm (wOpc w) = 2 then relocDie nw w 55 else w
def relocStream (s : State) (p : Nat) (b : Bytes) : Bytes :=
  let nw := pdSy0 (partDef s p) * 8 + pdSx0 (partDef s p)
  (chunks 16 b).flatMap (fun x => if x.length = 16 then leBytes 16 (relocWord nw (leNat x)) else x)

/-! Placing a layout. -/

/-- Clear a range of a memory. -/
def memZero (m : Mem) (a n : Nat) : Mem :=
  { cells := m.cells.filter (fun c => decide (c.1 < a) || decide (a + n ≤ c.1))
    poison := m.poison.filter (fun g => decide (8 * g < a) || decide (a + n ≤ 8 * g)) }

/-- Cache areas and slot tables of a layout are cleared (R565, R365). -/
def clearAreas (s : State) (p : Nat) (d : SweepDesc) : State :=
  (partClusters s p).foldl (fun s k =>
    let s := updCl s k (fun c => { c with
      vault := memZero (memZero c.vault d.areaOff (16 * d.frames * frameBytes)) d.slotOff (16 * 262144) })
    vaultPass (vaultPass s k d.areaOff (16 * d.frames * frameBytes)) k d.slotOff (16 * 262144)) s
/-- The same, and no extent stays placed. -/
def clearCache (s : State) (p : Nat) (d : SweepDesc) : State :=
  (partClusters s p).foldl (fun s k => updCl s k (fun c => { c with extents := [] })) (clearAreas s p d)

/-- Every core's slot table holds no extent (R246); a layout without layers has none. -/
def emptySlots (s : State) (p : Nat) (d : SweepDesc) : State :=
  if d.rings.isEmpty then s
  else (partCores s p).foldl (fun s c => vaultWrite s (clusterOf c) (slotTableAt d c 0) (List.replicate 262144 0xFF#8)) s

/-- What a core keeps when a job starts on it: its check state, its fence-time records; queues, semaphores and counters are
cleared, and θ, the job and the step are written (R74, R144, R210, R211). -/
def coreForJob (j : Job) (f : LayoutFile) (v : CoreState) : CoreState :=
  let keep := v.regs.filter (fun e => e.1 == 0x30 || e.1 == 0x360)
  let regs := putN (putN (putN keep 0x38 0#64) 0x40 (BitVec.ofNat 64 (j.number.toNat * 2 ^ 32 + lyLevel f.bytes * 2 ^ 24))) 0x320
    (BitVec.ofNat 64 j.theta.toNat)
  { CoreState.reset with
    regs := regs, notes := v.notes, episodes := v.episodes, railSteps := v.railSteps, swallowSteps := v.swallowSteps, forceDup := v.forceDup
    seqState := if v.seqState == .errored then .errored else .stopped, nextTid := v.nextTid }

/-- Telemetry counters and the multicast table of a router start at zero (R173 to R178, R181, R375). -/
def routerForJob (r : RouterState) : RouterState :=
  { r with
    regs := r.regs.filter (fun e => !(decide (0x400 ≤ e.1) && decide (e.1 < 0x4C8)) && e.1 != 0x4D8 && decide (e.1 < 0x800))
    ackWait := [] }

/-- Buffered flits of a partition are discarded on every channel, with the partial state of its multicasts (R359, R365). -/
def ofPart (s : State) (p : Nat) (h : Hop) : Bool :=
  let src := srcDie (hSrc (pHead h.pkt))
  (partSites s p).contains src || (64 ≤ src && (partSites s p).contains (aDie (hAddr (pHead h.pkt))))
def dropHops (s : State) (p : Nat) (vc0 : Bool) : State :=
  let s := (s.mesh.filter (fun h => ofPart s p h && (vc0 || h.vc != 0))).foldl dropHop s
  let s := { s with acks := s.acks.filter (fun t => !(decide (t.router < 16384) && (partSites s p).contains (siteOf t.router))) }
  (partCores s p).foldl (fun s c => if (routerOf s c).ackWait.isEmpty then s else updRouter s c (fun r => { r with ackWait := [] })) s

/-- The shard directory of a vault holds a shard of an epoch: its offset and length. -/
def shardAt (s : State) (k : Nat) (epoch : Bytes) (index : Nat) : Option (Nat × Nat) :=
  ((clOf s k).shards.find? (fun e => e.1 == epoch && e.2.1 == index)).map (fun e => (e.2.2.1, e.2.2.2.1))
/-- Vault of a shard's place. -/
def shardVault (s : State) (p : Nat) (x : ShardPlace) : Nat :=
  siteOf (relCore s p (16 * x.rx, 16 * x.ry)) * 16 + x.cluster.val

/-- The stream descriptor of a tensor slice (R198, R314). -/
def streamDesc (tscale base nstripe index0 src kind : Nat) : Nat :=
  tscale * 2 ^ 96 + base * 2 ^ 65 + nstripe * 2 ^ 48 + index0 * 2 ^ 32 + src * 2 ^ 30 + kind * 2 ^ 28

/-- Firmware builds the stream descriptors of a shard and writes them to the bank's descriptor areas (R314). -/
def writeDescs (s : State) (p bank : Nat) (x : ShardPlace) : State :=
  let k := shardVault s p x
  let off := if bank = 0 then x.off0 else x.off1
  let img := vaultRead s k off (0x40 + 4 * x.tensors.length)
  (x.tensors.mapIdx (fun i t => (i, t))).foldl (fun s e =>
    let d := streamDesc (leAt img (0x40 + 4 * e.1) 4) (off + e.2.base) e.2.nstripe e.2.index0 e.2.src e.2.kind
    spadWrite s (relCore s p (e.2.rx, e.2.ry)) (if bank = 0 then e.2.desc0 else e.2.desc1) (leBytes 16 d)) s

/-- Descriptors of every shard of an epoch that the vaults hold. -/
def epochDescs (s : State) (p : Nat) (m : Manifest) (bank : Nat) (xs : List ShardPlace) : State :=
  xs.foldl (fun s x => if (shardAt s (shardVault s p x) m.digest x.index).isSome then writeDescs s p bank x else s) s

/-- The trees, streams, expert tables and layer records of a placement (R32, R141, R181, R224, R241). -/
def placeCode (s : State) (p : Nat) (f : LayoutFile) (n : Nat) : State :=
  let s := (placeTrees f n).foldl (fun s t => setRreg s (relCore s p (t.rx, t.ry)) (0x800 + 8 * t.entry.val) t.word.toNat) s
  let s := (placeStreams f n).foldl (fun s t =>
    spadWrite s (relCore s p (t.rx, t.ry)) (16 * t.base.toNat) (relocStream s p t.bytes)) s
  let s := f.body.tables.foldl (fun s t => spadWrite s (fileCore s p f n (t.rx, t.ry)) t.off t.bytes) s
  f.body.sweep.records.foldl (fun s r => (partCores s p).foldl (fun s c =>
    if anyFence s c then s else spadWrite s c r.1 r.2) s) s

/-- The counters of a fenced core that a job's end reads start at zero with the job (R76). -/
def zeroCounters (v : CoreState) : CoreState :=
  { v with regs := v.regs.filter (fun e => !(decide (0x300 ≤ e.1) && decide (e.1 < 0x320))) }

/-- Firmware brings a partition to where a job's first step can run, under the job's placement in force (R266, R365 step 4). -/
def placeJob (s : State) (p : Nat) : State :=
  match jobOf s p with
  | none => s
  | some j => match j.file with
    | none => s
    | some f =>
        let n := j.detour
        let s := (partCores s p).foldl (fun s c =>
          if anyFence s c then (if (coreOf s c).regs.isEmpty then s else updCore s c zeroCounters)
          else updRouter (updCore s c (coreForJob j f)) c routerForJob) s
        let s := emptySlots (clearCache s p f.body.sweep) p f.body.sweep
        let s := (placeBudget f n).mapIdx (fun i n => (i, n)) |>.foldl (fun s e =>
          match (partClusters s p)[e.1]? with
          | some k =>
              let s := setKreg (setKreg s k 0x28 0) k 0x18 (setBits (kreg s k 0x18) 6 0 e.2.toNat)
              updCl s k (fun c => { c with grants := [], waiting := [], absorb1 := [] })
          | none => s) s
        let s := placeCode s p f n
        let e := (partOf s p).epochs
        let xs := placeShards f n
        let s := match e.committed with | some m => epochDescs s p m e.comBank xs | none => s
        match e.incoming with | some m => epochDescs s p m e.incBank xs | none => s

/-- Firmware places a draft layout beside the main one (R299): its code, and empty slot tables and cache areas. -/
def placeDraft (s : State) (p : Nat) (x : Draft) : State :=
  emptySlots (clearAreas (placeCode s p x.file x.detour) p x.file.body.sweep) p x.file.body.sweep

/-- The sequencers of a placement start at command 0 of their windows, but for a window at or beyond SPAD_SIZE (R141, R266). -/
def startStreams (s : State) (p : Nat) : State :=
  match jobOf s p with
  | none => s
  | some j => match j.file with
    | none => s
    | some f => (placeStreams f j.detour).foldl (fun s t =>
        let c := relCore s p (t.rx, t.ry)
        if Config.spadSize ≤ t.base.toNat * 16 then s else startSeq (clearErr s c) c (some t.base) 0) s

end Sys2Proof.Machine
end

