-- ==== Sys2Proof/Machine/Weights.lean ====
section
/-! DEFINITION. Manifests, shards and epochs (ch. 12): parse (R312), verification (R316), shard checks (R315), banks (R322), the
steps of a Moult (R326 to R330) and the recovery of epochs after a reset (R332). -/

namespace Sys2Proof.Machine

/-! Manifests. -/

def mnCount (b : Bytes) : Nat := leAt b 8 4
def mnEnd (b : Bytes) : Nat := 0x80 + 48 * mnCount b
def mnEntry (b : Bytes) (i : Nat) : Nat × Nat × Bytes :=
  let o := 0x80 + 48 * i
  (leAt b o 4, leAt b (o + 8) 8, sliceB b (o + 16) 32)
/-- The bytes keep R312. -/
def manifestForm (b : Bytes) : Bool :=
  let n := mnCount b
  let kind := byteAt b 6
  leAt b 0 4 == 0x53464E4D && leAt b 4 2 == 1 && decide (kind ≤ 1)
    && (if kind = 1 then decide (byteAt b 7 < 64) else byteAt b 7 == 0xFF) && decide (1 ≤ n) && decide (n ≤ 65536)
    && leAt b 0xC 4 == 0 && leAt b 0x78 8 == 0 && (kind == 1 || leAt b 0x30 32 == 0) && b.length == mnEnd b + 7856
    && (List.range n).all (fun i => leAt b (0x84 + 48 * i) 4 == 0
      && (i == 0 || decide ((mnEntry b (i - 1)).1 < (mnEntry b i).1)))
/-- A manifest as the Steward holds it; its digest is the epoch digest (R313). -/
def parseManifest (b : Bytes) : Manifest :=
  { kind := BitVec.ofNat 8 (byteAt b 6), variant := BitVec.ofNat 8 (byteAt b 7), program := sliceB b 0x10 32,
    base := sliceB b 0x30 32, model := sliceB b 0x50 32, digest := sha256 (sliceB b 0 (mnEnd b)),
    shards := (List.range (mnCount b)).map (mnEntry b) }

/-- The enrolled publisher entry of a key fingerprint, with a valid certificate (R316, R559). -/
def publisherKey (s : State) (fp : Bytes) : Option Bytes :=
  (List.range 8).findSome? (fun n =>
    let c := getN [] s.sec.certs n
    if leNat fp ≠ 0 && getN (zeros 8) s.sec.fps n == fp && fpOf (cKey c) == fp then some (cKey c) else none)
/-- What R316 refuses: 4 the key, 3 the signature. -/
def manifestAuth (s : State) (b : Bytes) : Option Nat :=
  match publisherKey s (sliceB b 0x70 8) with
  | none => some 4
  | some k => if Config.sigVerify 128 k (sliceB b 0 (mnEnd b)) (sliceB b (mnEnd b) 7856) then none else some 3

/-- DIGEST mode is in force (R317). -/
def digestMode (s : State) : Bool := obj s 0x5300 3 == 1 || decide (5 ≤ obj s 0x5310 2)

/-! Shards. -/

def bankOff (x : ShardPlace) (bank : Nat) : Nat := if bank = 0 then x.off0 else x.off1
/-- Where the running layout places shard i. -/
def shardPlace (s : State) (p i : Nat) : Option ShardPlace :=
  (jobOf s p).bind (fun j => j.file.bind (fun f => (placeShards f j.detour).find? (fun x => x.index == i)))

/-- The bytes of tensor slice i of a shard, up to the next slice. -/
def sliceOf (x : ShardPlace) (img : Bytes) (i : Nat) : Bytes :=
  let b := ((x.tensors[i]?).map (fun t => t.base)).getD img.length
  let e := ((x.tensors[i + 1]?).map (fun t => t.base)).getD img.length
  sliceB img b (min e img.length - b)
/-- Stripes of a shard that R65 refuses, as (reason, INDEX). -/
def shardRejects (x : ShardPlace) (img : Bytes) : List (Nat × Nat) :=
  (x.tensors.mapIdx (fun i t => (i, t))).flatMap (fun e =>
    if e.2.kind = 0 then sliceRejects e.2.nstripe e.2.index0 (sliceOf x img e.1) else [])
/-- The failed check of R315, with the stripe reason. -/
def shardFault (digest : Bool) (x : ShardPlace) (len : Nat) (sum img : Bytes) : Option (Nat × Nat) :=
  if digest && sha256 img ≠ sum then some (1, 0)
  else match shardRejects x img with
    | r :: _ => some (2, r.1)
    | [] =>
        if (List.range x.tensors.length).any (fun i => !scaleOk (BitVec.ofNat 32 (leAt img (0x40 + 4 * i) 4))) then some (3, 0)
        else if img.length ≠ len || x.space < img.length then some (4, 0)
        else none

/-- A shard is refused (R65, R315). -/
def rejectShard (s : State) (k index : Nat) (x : ShardPlace) (img : Bytes) (f : Nat × Nat) : State :=
  let s := if f.1 = 2 then (shardRejects x img).foldl (fun s r =>
      raise s 0x4030 2 (clusterUnit k 11) k (leBytes 2 r.1 ++ leBytes 2 r.2)) s else s
  raise s 0x4040 2 (clusterUnit k 12) k (leBytes 4 index ++ leBytes 1 f.1 ++ leBytes 1 f.2)

/-- The copies of shard i that the running layout's detours keep (R230). -/
def copiesOf (s : State) (p i : Nat) : List ShardPlace :=
  match (jobOf s p).bind (fun j => j.file) with
  | some f => ((placements f).flatMap (shardCopies f)).filter (fun x => x.index == i)
  | none => []

/-- A shard lands in its vault and enters the directory; what it overwrites leaves it (R315, R331). Copies for detours are written
with it (R230). -/
def landShard (s : State) (p : Nat) (epoch : Bytes) (bank : Nat) (x : ShardPlace) (img sum : Bytes) : State :=
  let k := shardVault s p x
  let off := bankOff x bank
  let s := vaultPass (vaultWrite s k off img) k off img.length
  let s := updCl s k (fun c => { c with
    shards := c.shards.filter (fun e => !(decide (e.2.2.1 < off + img.length) && decide (off < e.2.2.1 + e.2.2.2.1)))
      ++ [(epoch, x.index, off, img.length, sum, s.units)] })
  let s := (copiesOf s p x.index).foldl (fun s y =>
    vaultPass (vaultWrite s (shardVault s p y) (bankOff y bank) img) (shardVault s p y) (bankOff y bank) img.length) s
  writeDescs s p bank x

/-- A shard of an epoch is missing (R318): its directory entry goes, and its index is listed. -/
def markMissing (s : State) (p index : Nat) : State :=
  updPart s p (fun t => { t with epochs := { t.epochs with
    missing := if t.epochs.missing.contains index then t.epochs.missing
      else insertBy (fun a b => decide (a < b)) index t.epochs.missing } })

/-! Epochs. -/

def setEpochs (s : State) (p : Nat) (f : Epochs → Epochs) : State := updPart s p (fun t => { t with epochs := f t.epochs })
/-- A shard of an epoch is lost: one of the incoming epoch has not passed any more, any other is missing. -/
def shardGone (s : State) (p : Nat) (digest : Bytes) (index : Nat) : State :=
  let e := (partOf s p).epochs
  if e.incoming.any (fun m => m.digest == digest) && !e.committed.any (fun m => m.digest == digest) then
    setEpochs s p (fun e => { e with moult := e.moult.map (fun t => { t with passed := t.passed.filter (· != index) }) })
  else markMissing s p index
/-- Digest of the shared epoch that a manifest is or extends. -/
def sharedDigest (m : Manifest) : Bytes := if m.kind = 0 then m.digest else m.base

/-- Every epoch of a partition is dropped (R324). -/
def dropEpochs (s : State) (p : Nat) : State :=
  let s := (partClusters s p).foldl (fun s k =>
    if (clOf s k).shards.isEmpty then s else updCl s k (fun c => { c with shards := [] })) s
  setEpochs s p (fun _ => Epochs.reset)

/-- Requests bound to one epoch are bound to another afresh (R330). -/
def rebind (s : State) (p : Nat) (old new : Bytes) (bank : Nat) : State :=
  { s with reqs := s.reqs.map (fun e =>
      if e.2.part.val = p && !reqFinal e.2 && e.2.epoch == old then (e.1, { e.2 with epoch := new, bank := bank }) else e) }

/-- The incoming shards are discarded and the previous epoch is current again (R330). -/
def abortMoult (s : State) (p : Nat) : State :=
  let e := (partOf s p).epochs
  match e.moult with
  | none => s
  | some m =>
      let s := if m.mode = 2 then s else dropShards s p m.man.digest
      let s := match e.committed with
        | some c => if m.mode = 1 then rebind s p m.man.digest c.digest e.comBank else s
        | none => s
      stwEvent (setEpochs s p (fun e => { e with moult := none, incoming := none })) 0x6054 1 (some p) none []

/-- A shard of a vault no longer reads as it was checked (R318, R354): event 0x4041 names it and the time of its last good check,
its directory entry goes, and it is missing. One of an epoch still coming in has to arrive again (log entry 145). -/
def corruptShard (s : State) (p k : Nat) (e : Bytes × Nat × Nat × Nat × Bytes × Nat) : State :=
  let good := (e.2.2.2.2.2 - (ccOf s k).boot) / 8
  let s := raise s 0x4041 2 (clusterUnit k 12) k (leBytes 4 e.2.1 ++ zeros 4 ++ leBytes 8 good)
  let s := updCl s k (fun c => { c with shards := c.shards.filter (· != e) })
  shardGone s p e.1 e.2.1

/-- Report the missing shards of an epoch (R330). -/
def epochIncomplete (s : State) (p : Nat) : State :=
  let m := (partOf s p).epochs.missing
  stwEvent s 0x6053 2 (some p) none (leBytes 4 m.length ++ leBytes 4 (m.getD 0 0))

/-- The end of a Moult whose shards did not all pass in time (R330). During SWAPPING the incoming epoch is the partition's,
incomplete (log entry 31). -/
def timeoutMoult (s : State) (p : Nat) : State :=
  let e := (partOf s p).epochs
  match e.moult with
  | none => s
  | some m =>
      if e.st = .swapping then
        let miss := (m.man.shards.map (fun x => x.1)).filter (fun i => !m.passed.contains i)
        epochIncomplete (setEpochs s p (fun e => { e with
          st := .old, committed := some m.man, comBank := e.incBank, incoming := none, moult := none, missing := miss
          variants := [] })) p
      else abortMoult s p

/-- A private epoch refers to the shared shards in place, and holds copies of the other variants' shards in its bank (R328). -/
def extendEpoch (s : State) (p : Nat) (m : Manifest) (old : Manifest) (oldBank bank : Nat) : State :=
  match (jobOf s p).bind (fun j => j.file.map (fun f => placeShards f j.detour)) with
  | none => s
  | some xs => xs.foldl (fun s x =>
      let k := shardVault s p x
      if m.shards.any (fun e => e.1 == x.index) then s
      else
        let shared := (clOf s k).shards.find? (fun e => e.1 == m.base && e.2.1 == x.index)
        match shared with
        | some e => updCl s k (fun c => { c with shards := c.shards ++ [(m.digest, e.2)] })
        | none => match (clOf s k).shards.find? (fun e => e.1 == old.digest && e.2.1 == x.index) with
          | some e =>
              let img := vaultRead s k (bankOff x oldBank) e.2.2.2.1
              let s := vaultPass (vaultWrite s k (bankOff x bank) img) k (bankOff x bank) img.length
              writeDescs (updCl s k (fun c => { c with
                shards := c.shards ++ [(m.digest, x.index, bankOff x bank, e.2.2.2)] })) p bank x
          | none => s) s

/-- Private experts per MoE layer that the running layout serves. -/
def layoutNp (s : State) (p : Nat) : Nat :=
  match (jobOf s p).bind (fun j => j.file) with | some f => f.body.np | none => 0

/-- Every shard of a Moult has passed: the epoch commits (R327, R331). -/
def commitMoult (s : State) (p : Nat) (m : Moult) : State :=
  let e := (partOf s p).epochs
  let s := match e.committed with
    | some old => if m.man.kind = 1 && m.mode = 0 then extendEpoch s p m.man old e.comBank e.incBank else s
    | none => s
  let vars := if m.man.kind = 1 then putN e.variants m.man.variant.toNat (layoutNp s p) else []
  let s := setEpochs s p (fun e =>
    if m.mode = 1 then
      { e with st := .old, committed := some m.man, comBank := e.incBank, incoming := none, moult := none, missing := [],
               variants := vars }
    else
      { e with st := .newCommitted, committed := some m.man, comBank := e.incBank, incoming := none, moult := none,
               retiring := e.committed.map (fun c => (c, e.comBank)), missing := [], variants := vars })
  let s := stwEvent s 0x6051 0 (some p) none []
  let s := logInput s p 0x08 0 none none (m.man.digest ++ [0#8])
  if m.mode = 1 then s
  else if e.committed.isNone then setEpochs s p (fun e => { e with st := .old })
  else retireCheck s p

/-! Recovery after a reset (R332). -/

/-- A shard of the directory still has its digest. -/
def shardWhole (s : State) (k : Nat) (e : Bytes × Nat × Nat × Nat × Bytes × Nat) : Bool :=
  !memPoisoned (clOf s k).vault e.2.2.1 e.2.2.2.1 && sha256 (vaultRead s k e.2.2.1 e.2.2.2.1) == e.2.2.2.2.1
/-- Shards of a manifest that no vault of the partition holds whole. -/
def missingOf (s : State) (p : Nat) (m : Manifest) : List Nat :=
  (m.shards.map (fun x => x.1)).filter (fun i => !(partClusters s p).any (fun k =>
    (clOf s k).shards.any (fun e => e.1 == m.digest && e.2.1 == i && shardWhole s k e)))

/-- Every shard of a partition's vaults is read and digested again (R332), as background traffic (R132). -/
def reverify (s : State) (p : Nat) : State :=
  (partClusters s p).foldl (fun s k => (clOf s k).shards.foldl (fun s e => vaultPass s k e.2.2.1 e.2.2.2.1) s) s

/-- What firmware does with a partition's epochs after a reset. -/
def recoverEpochs (s : State) (p : Nat) : State :=
  let s := reverify s p
  let e := (partOf s p).epochs
  let aborted : Bool := match e.moult with | some m => m.mode != 2 && e.st == .old | none => false
  match e.st with
  | .newCommitted =>
      let miss := match e.committed with | some m => missingOf s p m | none => []
      let s := match e.retiring with
        | some m => if (missingOf s p m.1).isEmpty then s else setEpochs s p (fun e => { e with retiring := none })
        | none => s
      let s := setEpochs s p (fun e => { e with moult := none, incoming := none, missing := miss })
      if miss.isEmpty then s else epochIncomplete s p
  | st =>
      let s := match e.incoming with | some m => dropShards s p m.digest | none => s
      let miss := match e.committed with | some m => missingOf s p m | none => []
      let s := setEpochs s p (fun e => { e with st := .old, moult := none, incoming := none, missing := miss })
      let s := if aborted then stwEvent s 0x6054 1 (some p) none [] else s
      if st = .swapping || !miss.isEmpty then epochIncomplete s p else s

end Sys2Proof.Machine
end

