-- ==== Sys2Proof/Machine/Restart.lean ====
section
/-! DEFINITION. Replays and restarts (ch. 14, 15): the Binocular freeze (R389), the whole-job restart (R365 to R367), the request
restart (R368), the replay of a step (R359, R360), repeated uncorrectable reads (R354) and what follows a fence. -/

namespace Sys2Proof.Machine

/-! Binocular mode. -/

/-- A partition's job runs in Binocular mode (R386). -/
def isBino (s : State) (p : Nat) : Bool := obj s 0x4500 2 == p && obj s 0x4500 1 != 0xFF
/-- The 64 B message of a region's sub-Plate, or with region 0xFFFF_FFFF of a restart (R387). -/
def subpMsg (region : Nat) (step : W64) (sub : Bytes) : Bytes :=
  leBytes 4 0x50425553 ++ leBytes 4 region ++ leBytes 8 step.toNat ++ sliceB sub 0 32 ++ zeros 16

/-- Freeze a Binocular job (R389): reason 1 DIVERGE, 2 RESTART, 3 LINK. -/
def freeze (s : State) (p reason : Nat) (step : W64) (region : Nat) : State :=
  match jobOf s p with
  | none => s
  | some j =>
      if j.frozen then s
      else
        let s := haltPart (updJob s p (fun j => { j with frozen := true })) p
        stwEvent { s with binoState := 2 } 0x5060 3 (some p) none
          (leBytes 1 reason ++ zeros 3 ++ leBytes 2 region ++ zeros 2 ++ leBytes 8 step.toNat)

/-! Placements and fences. -/

/-- The placement in force of a partition's job assigns work to a fenced unit. -/
def placementFenced (s : State) (p : Nat) : Bool :=
  match jobOf s p with
  | some j => match j.file with
    | some f => j.running && ((workCores f j.detour).map (relCore s p)).any (anyFence s)
    | none => false
  | none => false

/-- A shard follows a change of placement (R230, R423): from its old vault while that can be read, otherwise from the copy that the
detour keeps. With neither whole, it is missing. -/
def moveShard (s : State) (p : Nat) (m : Manifest) (bank : Nat) (copies : List ShardPlace) (o x : ShardPlace) : State :=
  let k := shardVault s p o
  let k' := shardVault s p x
  match m.shards.find? (fun e => e.1 == x.index) with
  | none => s
  | some e =>
      let known := (clOf s k).shards.any (fun y => y.1 == m.digest && y.2.1 == x.index)
      let old := if known && (siteSt s (k / 16)).powered && !(clOf s k).clocksOff then [vaultRead s k (bankOff o bank) e.2.1] else []
      let spare := (copies.filter (fun y => y.index == x.index)).map (fun y => vaultRead s (shardVault s p y) (bankOff y bank) e.2.1)
      match (old ++ spare).find? (fun b => sha256 b == e.2.2) with
      | some b =>
          let s := vaultPass (vaultWrite s k' (bankOff x bank) b) k' (bankOff x bank) b.length
          updCl s k' (fun c => { c with
            shards := c.shards.filter (fun y => !(y.1 == m.digest && y.2.1 == x.index))
              ++ [(m.digest, x.index, bankOff x bank, e.2.1, e.2.2, s.units)] })
      | none =>
          if (partOf s p).epochs.retiring.any (fun e => e.1 == m) then s else shardGone s p m.digest x.index

/-- The shards of an epoch whose place differs between two placements. -/
def moveShards (s : State) (p : Nat) (m : Manifest) (bank : Nat) (copies old new : List ShardPlace) : State :=
  new.foldl (fun s x => match old.find? (fun o => o.index == x.index) with
    | none => s
    | some o =>
        if shardVault s p o = shardVault s p x && bankOff o bank = bankOff x bank then s
        else moveShard s p m bank copies o x) s

/-- The placement in force changes: shards move, the Plates take the DETOUR fold, and the Logbook records it (R230, R231). -/
def setPlacement (s : State) (p : Nat) (f : LayoutFile) (n : Nat) : State :=
  match jobOf s p with
  | none => s
  | some j =>
      if j.detour = n then s
      else
        let bits := n ≠ 0 && dtBits f.bytes n
        let old := placeShards f j.detour
        let new := placeShards f n
        let e := (partOf s p).epochs
        let s := match e.committed with | some m => moveShards s p m e.comBank (shardCopies f n) old new | none => s
        let s := match e.incoming with | some m => moveShards s p m e.incBank (shardCopies f n) old new | none => s
        let s := match e.retiring with | some m => moveShards s p m.1 m.2 (shardCopies f n) old new | none => s
        let s := updJob s p (fun j => { j with detour := n, detourBits1 := bits })
        let pay := leBytes 1 n ++ leBytes 1 (if bits then 1 else 0)
        let s := foldJob s p 0x14 pay
        let s := if bits then (partReqs s p).foldl (fun s h => foldReq s h 0x14 pay) s else s
        logInput s p 0x0A 0 none none pay

/-! The whole-job restart. -/

/-- End an Instar job with no checkpoint to restart from, or go on (R348). -/
def instarCanRestart (j : Job) : Bool := match j.instar with | some i => i.lastCkpt.isSome | none => true

/-- Steps 1 to 3 of a whole-job restart (R365, R367, R389). Later steps follow by JOB_RESTART. In DIAPAUSE the restart waits for the
wake (R466). -/
def restartBegin (s : State) (p cause : Nat) : State :=
  match jobOf s p with
  | none => s
  | some j => match j.file with
    | none => s
    | some f =>
      if !j.running || j.frozen then s
      else if j.diaPaused then updJob s p (fun j => { j with wakeRestart := some (BitVec.ofNat 16 cause) })
      else if isBino s p && j.started then
        freeze (hlSend s (obj s 0x4500 1) 3 (subpMsg 0xFFFFFFFF j.nextStep [])) p 2 j.nextStep 0xFFFF
      else if !j.restarting && obj s 0x4400 5 < (recent s 3600 j.restarts).length + 1 then
        endJob (stwEvent s 0x5051 2 (some p) none []) p 7 0x5051
      else if !instarCanRestart j then endJob s p 7 cause
      else
        let s := if j.restarting then s
          else
            let s := dropHops (haltPart s p) p true
            let s := stwEvent s 0x5054 1 (some p) none []
            updJob s p (fun j => { j with restarting := true, restarts := recent s 3600 j.restarts ++ [s.units], sweeps := [],
                                          dups := [] })
        match choosePlacement s p f with
        | none => endJob (stwEvent s 0x5055 2 (some p) none []) p 5 0x5055
        | some n => setPlacement s p f n

/-- A request's part of a restart (R365 step 5). -/
def resumeReq (r : Request) : Request :=
  if r.st = .prefill || r.st = .decode || r.st = .resuming then
    { r with st := .resuming, resumes := r.resumes + 1, placed := false, cached := 0, inFlight := false, cycle := none }
  else if r.st = .paused && r.parked.isNone then
    { r with resumes := r.resumes + 1, placed := false, cached := 0, inFlight := false, cycle := none }
  else r

/-- An Instar job goes on from its newest complete checkpoint (R348), whose image comes back as the module wrote it (log entry 142). -/
def instarRestart (s : State) (p : Nat) : State :=
  match (jobOf s p).bind (fun j => j.instar) with
  | none => s
  | some i =>
      let s := updJob s p (fun j => { j with instar := some { i with
        waiting := [], targets := 0, nextBatch := i.ckptBatch, step := i.lastCkpt.getD 0, exportDue := false
        tensors := i.saved.map (fun t => { t with g := t.g.map (fun _ => 0#32) }) } })
      stwEvent s 0x6064 1 (some p) none (leBytes 4 i.ckptBatch)

/-! Drafts (R298, R299). -/

/-- A restart places a loaded draft again beside the main layout (R299); one whose work falls on a fence, in every placement, is
unloaded (log entry 135). -/
def replaceDraft (s : State) (p : Nat) : State :=
  match (jobOf s p).bind (fun j => j.draft) with
  | none => s
  | some x => match (if x.leaving then none else choosePlacement s p x.file) with
    | none => unloadDraft s p x
    | some n =>
        let x := { x with detour := n }
        placeDraft (updJob s p (fun j => { j with draft := some x })) p x

/-- Steps 4 to 6 of a whole-job restart, once the Finder holds nothing and the pattern tests that a watchdog asked for are
done (R361, R365). -/
def restartFinish (s : State) (p : Nat) : State :=
  match jobOf s p with
  | none => s
  | some j =>
      if !j.restarting || j.diaPaused || holdsCompute s || s.fin.recoverDue.contains p || (j.waitHold && s.fin.testsDue.any (fun c => corePart s c == some p)) then s
      else
        let s := replaceDraft (placeJob s p) p
        let s := { s with reqs := s.reqs.map (fun e => if e.2.part.val = p then (e.1, resumeReq e.2) else e) }
        let s := updJob s p (fun j => { j with
          restarting := false, waitHold := false, nextStep := 0, sweeps := [], dups := [], useSum := 0, useCount := 0
          regions := j.regions.map (fun e => (e.1, { regionRunZero with
            qualM := e.2.qualM, qualN := e.2.qualN, qualTimes := e.2.qualTimes })) })
        startStreams (instarRestart s p) p

/-- After a fence, every job whose placement in force assigns work to the unit restarts (R351). -/
def fenceAnswer (s : State) (cause : Nat) : State :=
  (s.parts.map (fun e => e.1)).foldl (fun s p => if placementFenced s p then restartBegin s p cause else s) s

/-- Fence a unit with everything that follows. -/
def fenceAll (s : State) (u cause : Nat) : State := fenceAnswer (fenceUnit s u cause) cause

/-! Replay of a step (R359, R360). -/

/-- Cores of region r of a partition's job. -/
def regionCores (s : State) (p r : Nat) : List Nat :=
  match jobOf s p with
  | some j => (((jobRegions j).map (fun x => x.cores)).getD r []).map (relCore s p)
  | none => []

/-- A core goes back to the first command of its step (R359 step 3). -/
def rewindCore (s : State) (c step : Nat) (x : StreamImage) : State :=
  let s := updCore s c (fun v => { v with
    meq := [], veq := [], seqe := [], teq := [], fifo := [], se := none, me := none, te := [], reduceDone := none
    sem := x.replaySet.foldl (fun m e => putN m e.1.val e.2) [], nfSeen := false, dupTaken := false, shdTaken := false
    dupTile := none, shdTile := none })
  let s := setCreg s c 0x38 step
  startSeq (setCreg (clearErr s c) c 0x50 x.first.toNat) c none x.first.toNat

/-- Rewind every core of a region that has a stream. -/
def rewindRegion (s : State) (p r : Nat) : State :=
  match (jobOf s p).bind (fun j => j.file.map (fun f => placeStreams f j.detour)) with
  | none => s
  | some xs =>
      let cs := regionCores s p r
      let step := (regionRun s p r).stepNum.toNat
      let s := (cs.map clusterOf).eraseDups.foldl (fun s k => updCl s k (fun c => { c with absorb1 := [] })) s
      xs.foldl (fun s x =>
        let c := relCore s p (x.rx, x.ry)
        if cs.contains c then rewindCore s c step x else s) s

/-- Replay the steps in flight of a partition: `upstream` names a region whose held input is read again. -/
def replaySteps (s : State) (p : Nat) (upstream : Option Nat) : State :=
  match jobOf s p with
  | none => s
  | some j =>
      let s := match upstream with
        | some r => updRegion s p r (fun x => { x with busy := true })
        | none => s
      let live := (List.range (jobRegions j).length).filter (fun r => (regionRun s p r).busy)
      let s := live.foldl (fun s r => (regionCores s p r).foldl haltSeq s) s
      let s := dropHops (updJob s p (fun j => { j with sweeps := [] })) p false
      let s := live.foldl (fun s r => rewindRegion s p r) s
      stwEvent s 0x5053 0 (some p) none []

/-- A failure of a region's step: replay it, or past REPLAY_MAX fence the unit and restart (R360). -/
def failStep (s : State) (p region code : Nat) (unit : W32) (upstream : Option Nat) : State :=
  let r := regionRun s p region
  if obj s 0x4400 2 ≤ r.replays then
    let s := if code = 0x5030 || 2 ≤ bitsOf unit.toNat 8 7 then s else fenceUnit s unit.toNat code
    restartBegin s p code
  else replaySteps (updRegion s p region (fun r => { r with replays := r.replays + 1 })) p upstream

/-! Request restart (R368). -/

/-- A request's tokens leave the wavefronts in flight; the step runs again without them, and the request resumes. -/
def requestRestart (s : State) (h : Nat) : State :=
  match reqOf s h with
  | none => s
  | some r =>
      let p := r.part.val
      if reqFinal r || r.st = .queued || r.parked.isSome then s
      else
        let inFlight : Bool := match jobOf s p with
          | some j => j.regions.any (fun e => e.2.busy && (e.2.decode.any (fun t => t.slot == h) || e.2.prefill.any (fun t => t.slot == h)))
          | none => false
        let s := dropExtents (dropTokens s p h) p h
        let s := updReq s h (fun r => { r with
          st := if r.st = .paused then .paused else .resuming, resumes := r.resumes + 1, placed := false, cached := 0
          inFlight := false, cycle := none })
        let s := draftCheck s p
        if inFlight then replaySteps s p none else s

/-! Repeated uncorrectable reads (R354, R356). -/

/-- The attention sections of a job, each with the slot that its extents count from: the main layout's, and the draft's (R299). -/
def cacheAreas (j : Job) : List (Nat × SweepDesc) :=
  (sweepDesc j).toList.map (fun d => (0, d)) ++ j.draft.toList.map (fun x => (draftSlot 0, x.file.body.sweep))

/-- What of a cluster's caches holds a vault byte: the core, the slot that the section counts from, and a frame of the area or the
two slots of a granule of the slot table. -/
def cachePlace (k : Nat) (a : Nat) (x : Nat × SweepDesc) : Option (Nat × Nat × (Nat ⊕ Nat)) :=
  let d := x.2
  let size := d.frames * frameBytes
  if d.areaOff ≤ a && a < d.areaOff + 16 * size then
    some (coreAt (k / 16) (k % 16) ((a - d.areaOff) / size), x.1, .inl ((a - d.areaOff) % size / frameBytes))
  else if d.slotOff ≤ a && a < d.slotOff + 16 * 262144 then
    some (coreAt (k / 16) (k % 16) ((a - d.slotOff) / 262144), x.1, .inr ((a - d.slotOff) % 262144 / 8 * 2))
  else none

/-- Requests with an extent of a section over a frame of a core. -/
def frameRequests (s : State) (c base frame : Nat) : List Nat :=
  ((clOf s (clusterOf c)).extents.filter (fun e => e.1 == coreIn c && e.2.1 / 65536 == base / 65536 && decide (e.2.2.1 ≤ frame)
    && decide (frame < e.2.2.1 + e.2.2.2))).map (fun e => e.2.1 - base)

/-- Retire a frame; with no room in the list the core is fenced (R354, R516). -/
def retireFrame (s : State) (c base frame : Nat) : State :=
  if 4096 ≤ s.stw.retired.length then fenceAll s (coreUnit c 0 0) 0x4014
  else
    let hs := frameRequests s c base frame
    let n := frameNumber base frame
    let s := updStw s (fun t => { t with retired := t.retired ++ [(BitVec.ofNat 32 (coreUnit c 0 0), n)] })
    let s := raise s 0x4014 0 (coreUnit c 11 0) (clusterOf c) (leBytes 4 n)
    hs.foldl requestRestart s

/-- The answer to a repeated uncorrectable read at byte a of a vault, or to one that the patrol finds. The burst is written back;
one that reads uncorrectable again fences the cluster. -/
def vaultRepeat (s : State) (k a : Nat) (instarState : Bool) : State :=
  let burst := a / 256
  if (clOf s k).wroteBack.contains burst then fenceAll s (clusterUnit k 0) 0x4011
  else
    let s := updCl s k (fun c => { c with wroteBack := c.wroteBack ++ [burst] })
    match sitePart s (k / 16) with
    | none => s
    | some p =>
        match (clOf s k).shards.filter (fun e => decide (e.2.2.1 ≤ a) && decide (a < e.2.2.1 + e.2.2.2.1)) with
        | e :: es => (e :: es).foldl (fun s e => corruptShard s p k e) s
        | [] =>
            if instarState then restartBegin s p 0x4011
            else match (((jobOf s p).map cacheAreas).getD []).findSome? (cachePlace k a) with
              | some (c, base, .inl fr) => retireFrame s c base fr
              | some (c, base, .inr h) =>
                  ((clOf s k).extents.filter (fun e => e.1 == coreIn c && e.2.1 / 2 == (base + h) / 2)).foldl
                    (fun s e => requestRestart s (e.2.1 - base)) s
              | none => restartBegin s p 0x4011

/-! Windows (R534). -/

/-- A fence lies between port n and some unfenced core of a partition. -/
def windowDown (s : State) (n p : Nat) : Bool :=
  (partCores s p).any (fun c => !siteFenced s (siteOf c) && wayDown s c 260 (edgeCore (64 + n) 0).1)
/-- Windows that a change has blocked are reported; their traffic takes the die's other edge router where it can. -/
def windowEvents (old s : State) : State :=
  (s.parts.map (fun e => e.1)).foldl (fun s p => (List.range 16).foldl (fun s n =>
    if bitOf (pdWin (partDef s p)) n && pdValid (partDef s p) && windowDown s n p && !windowDown old n p then
      stwEvent s 0x7022 1 (some p) none [BitVec.ofNat 8 n, BitVec.ofNat 8 p] else s) s) s

end Sys2Proof.Machine
end

