-- ==== Sys2Proof/Machine/Instar.lean ====
section
/-! DEFINITION. Instar mode (ch. 13): the descriptor (R334, R336), the state at the start (R336, R345), the AdamW update (R340 to
R342), checkpoints (R344), the export (R346) and the rows that run them. -/

namespace Sys2Proof.Machine

/-! The Instar descriptor. -/

def idVariant (d : Bytes) : Nat := byteAt d 4
def idInit (d : Bytes) : Nat := byteAt d 5
def idCq (d : Bytes) : Nat := leAt d 6 2
def idSteps (d : Bytes) : Nat := leAt d 0x18 4
def idWarmup (d : Bytes) : Nat := leAt d 0x1C 4
def idDigest (d : Bytes) : Bytes := sliceB d 0x20 32
def idSeed (d : Bytes) : Nat := leAt d 0x40 8
def idF (d : Bytes) (off : Nat) : F32 := BitVec.ofNat 32 (leAt d off 4)

/-- Every field lies in its range (R334). -/
def instarDescOk (d : Bytes) : Bool :=
  let f := fun off => toRat32 (idF d off)
  let fin := fun off => isFinite32 (idF d off)
  d.length == 128 && leAt d 0 4 == 0x54534E49 && decide (idVariant d < 64) && decide (idInit d ≤ 2) && decide (1 ≤ idSteps d)
    && decide (idWarmup d ≤ idSteps d) && fin 0x60 && decide (0 < f 0x60) && decide (f 0x60 ≤ 1)
    && fin 0x64 && decide (0 ≤ f 0x64) && decide (f 0x64 < 1) && fin 0x68 && decide (0 ≤ f 0x68) && decide (f 0x68 < 1)
    && fin 0x6C && decide (0 < f 0x6C) && fin 0x70 && decide (0 ≤ f 0x70) && decide (f 0x70 ≤ 1)
    && fin 0x74 && decide (0 < f 0x74)

/-- Trainable parameters of an INSTAR section. -/
def sectionParams (x : InstarSection) : Nat := x.params

/-! The state at the start. -/

/-- Element e of tensor t starts at (2u − 1) × INIT_SCALE, u of domain 0x05 (R336). -/
def freshElem (d : Bytes) (t e : Nat) : BF16 :=
  let w := philox (BitVec.ofNat 64 (idSeed d)) 0x05000000#32 (BitVec.ofNat 32 t) (BitVec.ofNat 64 e)
  toBf16 (ofRat32 ((mkRat (2 * w.toNat) (2 ^ 32) - 1) * toRat32 (idF d 0x74)))
def zeroTensor (num n : Nat) (master : List BF16) : Trained :=
  { num := num, master := master, m := List.replicate n 0#32, v := List.replicate n 0#32, g := List.replicate n 0#32 }
def freshTensors (d : Bytes) (x : InstarSection) : List Trained :=
  x.tensors.map (fun t => zeroTensor t.1 t.2.1 (if t.2.2 then List.replicate t.2.1 0#16
    else (List.range t.2.1).map (freshElem d t.1)))

/-- Bytes of one tensor in a checkpoint (R344). -/
def pad64 (b : Bytes) : Bytes := padTo (alignUp b.length 64) b
def ckptTensor (t : Trained) : Bytes :=
  pad64 (t.master.flatMap (fun b => leBytes 2 b.toNat)) ++ pad64 (f32Bytes t.m) ++ pad64 (f32Bytes t.v)
/-- The checkpoint image (R344). -/
def ckptImage (variant step params : Nat) (program : Bytes) (ts : List Trained) : Bytes :=
  let b := leBytes 4 0x41545349 ++ leBytes 2 1 ++ leBytes 1 variant ++ [0#8] ++ leBytes 4 step ++ zeros 4 ++ leBytes 8 params
    ++ zeros 8 ++ sliceB program 0 32 ++ ts.flatMap ckptTensor
  b ++ sha256 b
/-- Bytes that a tensor of n elements takes in a checkpoint. -/
def ckptSize (n : Nat) : Nat := alignUp (2 * n) 64 + 2 * alignUp (4 * n) 64
def bf16sAt (b : Bytes) (off n : Nat) : List BF16 := (chunks 2 (sliceB b off (2 * n))).map (fun x => BitVec.ofNat 16 (leNat x))
def f32sAt (b : Bytes) (off n : Nat) : List F32 := (chunks 4 (sliceB b off (4 * n))).map (fun x => BitVec.ofNat 32 (leNat x))
/-- The tensors of a checkpoint, from an offset on. -/
def ckptTensors (img : Bytes) : List (Nat × Nat × Bool) → Nat → List Trained
  | [], _ => []
  | t :: rest, off =>
      let n := t.2.1
      { num := t.1, master := bf16sAt img off n, m := f32sAt img (off + alignUp (2 * n) 64) n,
        v := f32sAt img (off + alignUp (2 * n) 64 + alignUp (4 * n) 64) n, g := List.replicate n 0#32 }
        :: ckptTensors img rest (off + ckptSize n)
/-- A checkpoint passes the checks of R345. -/
def ckptOk (d : Bytes) (x : InstarSection) (program img : Bytes) : Bool :=
  let n := 0x40 + (x.tensors.map (fun t => ckptSize t.2.1)).sum
  img.length == n + 32 && leAt img 0 4 == 0x41545349 && leAt img 4 2 == 1 && byteAt img 6 == idVariant d
    && leAt img 0x10 8 == sectionParams x && sliceB img 0x20 32 == program && sliceB img n 32 == sha256 (sliceB img 0 n)

/-! The export (R346): N4 slices with TSCALE 2^-8 and no lane. -/

def exportScale : F32 := 0x3B800000#32
/-- Stripes of up to 64 blocks of a slice. -/
def exportBlocks (vals : List F32) : List (List EncBlock) :=
  (chunks 2048 vals).map (fun xs =>
    encodeStripe 0 exportScale (xs ++ List.replicate ((32 - xs.length % 32) % 32) 0#32) [] [] (fun _ => none))
def exportSlice (vals : List F32) : Bytes :=
  ((exportBlocks vals).mapIdx (fun i bs =>
    stripeImage { index := i, lcap := 0, policy := 0, widened := false, clipped := false } bs)).flatten
def sliceVals (ts : List Trained) (e : Nat × Nat × Nat) : List F32 :=
  (((((ts.map (fun t => t.master)).getD e.1 []).drop e.2.1).take e.2.2)).map ofBf16
/-- The image of one exported shard (R314). -/
def exportShard (ts : List Trained) (x : Nat × List (Nat × Nat × Nat)) : Bytes :=
  leBytes 4 0x44524853 ++ leBytes 4 x.1 ++ leBytes 4 x.2.length ++ zeros 52
    ++ pad64 (x.2.flatMap (fun _ => leBytes 4 exportScale.toNat)) ++ x.2.flatMap (fun e => exportSlice (sliceVals ts e))
/-- Saturated and underflowed blocks of an export count at the core that holds the slice, as in QACT (R78, R346): the core that the
SHARDS section gives the slice to (log entry 143). -/
def countExport (s : State) (p : Nat) (f : LayoutFile) (ts : List Trained) (x : InstarSection) : State :=
  x.exportMap.foldl (fun s e =>
    match f.body.shards.find? (fun y => y.index == e.1) with
    | none => s
    | some y => (e.2.zip y.tensors).foldl (fun s z =>
        let bs := (exportBlocks (sliceVals ts z.1)).flatten
        let c := relCore s p (z.2.rx, z.2.ry)
        bumpC (bumpC s c 0x300 63 32 (bs.filter (fun b => b.under)).length) c 0x300 31 0 (bs.filter (fun b => b.sat)).length) s) s

/-- What is written to the export area. -/
def exportImage (variant : Nat) (program base : Bytes) (x : InstarSection) (ts : List Trained) : Bytes :=
  let shards := x.exportMap.map (fun e => (e.1, exportShard ts e))
  let sums := shards.map (fun e => sha256 e.2)
  let body := leBytes 4 0x53464E4D ++ leBytes 2 1 ++ leBytes 1 1 ++ leBytes 1 variant ++ leBytes 4 shards.length ++ zeros 4
    ++ sliceB program 0 32 ++ sliceB base 0 32 ++ sha256 sums.flatten ++ zeros 16
    ++ (List.zip shards sums).flatMap (fun e => leBytes 4 e.1.1 ++ zeros 4 ++ leBytes 8 e.1.2.length ++ e.2)
  pad64 body ++ shards.flatMap (fun e => pad64 e.2)

/-- n values of a slice of stripes, from the stripe at the start of a byte string on. -/
def readSlice : Nat → Bytes → List F32
  | 0, _ => []
  | fuel + 1, img =>
      if img.length < 16 then []
      else
        let v := stripeView img
        if v.size = 0 then []
        else ((stripeBlocks img v).flatMap (fun b =>
            (blockValues b.1 b.2.1 (laneOf b.2.2)).map (scaled32 exportScale))) ++ readSlice fuel (img.drop v.size)

/-- Master weights of a variant as loaded (INIT 0x00): each exported slice is read back out of its shard in the vaults. -/
def loadedTensors (s : State) (p : Nat) (f : LayoutFile) (digest : Bytes) (x : InstarSection) : List Trained :=
  let shardOf := fun (i : Nat) => (f.body.shards.find? (fun y => y.index == i)).bind (fun y =>
    let k := shardVault s p y
    (shardAt s k digest i).map (fun e => vaultRead s k e.1 e.2))
  -- the slices of a shard with their places in its image
  let elem := x.exportMap.flatMap (fun e => match shardOf e.1 with
    | none => []
    | some img =>
        let start := 0x40 + alignUp (4 * e.2.length) 64
        (e.2.foldl (fun (acc : Nat × List (Nat × Nat × List F32)) sl =>
          let n := ceilDiv sl.2.2 2048
          let vals := (readSlice n (img.drop acc.1)).take sl.2.2
          let used := (exportSlice vals).length
          (acc.1 + used, acc.2 ++ [(sl.1, sl.2.1, vals)])) (start, [])).2)
  x.tensors.mapIdx (fun i t =>
    let mine := elem.filter (fun e => e.1 == i)
    zeroTensor t.1 t.2.1 ((List.range t.2.1).map (fun n =>
      match mine.find? (fun e => decide (e.2.1 ≤ n) && decide (n < e.2.1 + e.2.2.length)) with
      | some e => toBf16 (e.2.2.getD (n - e.2.1) 0#32)
      | none => 0#16)))

/-! The optimiser step (R340, R341). -/

/-- k1 and k2: rne32(1 / (1 − BETA^s)). -/
def biasK (beta : F32) (s : Nat) : F32 := ofRat32 (1 / (1 - toRat32 beta ^ s))
/-- lr_s. -/
def lrAt (d : Bytes) (s : Nat) : F32 :=
  if idWarmup d = 0 then idF d 0x60 else ofRat32 (toRat32 (idF d 0x60) * min 1 (mkRat s (idWarmup d)))

/-- One element: master, m and v after step s; i is its index in its tensor. -/
def adamElem (d : Bytes) (s : Nat) (invN k1 k2 lr : F32) (tensor i : Nat) (w : BF16) (m v g : F32) : BF16 × F32 × F32 :=
  let b1 := idF d 0x64
  let b2 := idF d 0x68
  let x := mul32 g invN
  let m := add32 (mul32 b1 m) (mul32 (sub32 one32 b1) x)
  let v := add32 (mul32 b2 v) (mul32 (sub32 one32 b2) (mul32 x x))
  let u := div32 (mul32 m k1) (add32 (sqrt32 (mul32 v k2)) (idF d 0x6C))
  let x := ofBf16 w
  let y := sub32 x (mul32 lr (add32 u (mul32 (idF d 0x70) x)))
  (toBf16Stoch y (stochK (BitVec.ofNat 64 (idSeed d + s)) tensor i), m, v)

def adamTensor (d : Bytes) (s : Nat) (invN k1 k2 lr : F32) (t : Trained) : Trained :=
  let es := (List.range t.master.length).map (fun i =>
    adamElem d s invN k1 k2 lr t.num i (t.master.getD i 0#16) (t.m.getD i 0#32) (t.v.getD i 0#32) (t.g.getD i 0#32))
  { t with
    master := es.map (fun e => e.1), m := es.map (fun e => e.2.1), v := es.map (fun e => e.2.2)
    g := t.g.map (fun _ => 0#32) }

/-- The update of a LAST batch, or its skip for a gradient that is not finite (R340, R342); true when skipped. -/
def lastUpdate (i : Instar) : Instar × Bool :=
  let zeroG := fun (ts : List Trained) => ts.map (fun t => { t with g := t.g.map (fun _ => 0#32) })
  if i.tensors.any (fun t => t.g.any (fun x => !isFinite32 x)) then ({ i with tensors := zeroG i.tensors, targets := 0 }, true)
  else
    let s := i.step + 1
    let invN := div32 one32 (ofNat32 i.targets)
    let ts := i.tensors.map (adamTensor i.desc s invN (biasK (idF i.desc 0x64) s) (biasK (idF i.desc 0x68) s) (lrAt i.desc s))
    ({ i with tensors := ts, step := s, targets := 0 }, false)

/-- Gradients of every trained element, in tensor order, into the tensors' accumulators. -/
def putGrads : List F32 → List Trained → List Trained
  | _, [] => []
  | gs, t :: rest => { t with g := sliceG gs t.g.length } :: putGrads (gs.drop t.g.length) rest
where
  sliceG (gs : List F32) (n : Nat) : List F32 := let l := gs.take n; l ++ List.replicate (n - l.length) 0#32

/-! The rows. -/

def instarOf (s : State) (p : Nat) : Option Instar := (jobOf s p).bind (fun j => j.instar)
def setInstar (s : State) (p : Nat) (i : Instar) : State := updJob s p (fun j => { j with instar := some i })

/-- A checkpoint is due: at its step count and at STEPS (R344). -/
def ckptDue (s : State) (i : Instar) : Bool :=
  decide (0 < i.step) && (i.step % obj s 0x5120 2 == 0 || i.step == idSteps i.desc) && i.lastCkpt != some i.step

/-- The answer record of a batch (R338). -/
def batchRec (b : InstarBatch) (loss : F32) (step : Nat) (skipped : Bool) : Bytes :=
  leBytes 1 2 ++ zeros 3 ++ leBytes 4 b.number ++ leBytes 4 b.targets ++ leBytes 4 loss.toNat ++ zeros 2 ++ leBytes 1 1 ++ [0#8]
    ++ leBytes 2 (if skipped then 0x6063 else 0) ++ leBytes 2 0x10 ++ leBytes 8 step ++ zeros 32

/-- Write the export area, if it is large enough (R346). -/
def exportNow (s : State) (p : Nat) : State :=
  match jobOf s p, instarOf s p with
  | some j, some i =>
      match j.file.bind (fun f => f.body.instar) with
      | none => s
      | some x =>
          let base := match (partOf s p).epochs.committed with | some m => sharedDigest m | none => zeros 32
          let img := exportImage (idVariant i.desc) i.baseDigest base x i.tensors
          let s := setInstar s p { i with exportDue := false }
          if leAt i.desc 0x58 8 < img.length then s
          else
            let s := hostWrite s j.port.val (leAt i.desc 0x50 8) img
            let s := match j.file with | some f => countExport s p f i.tensors x | none => s
            let s := setInstar s p { i with exportDue := false, exported := true }
            stwEvent s 0x6061 0 (some p) none ([1#8] ++ zeros 3 ++ leBytes 4 i.step)
  | _, _ => s

/-- INSTAR_BATCH_DONE (R338 to R342, R383): the first waiting batch is complete: its losses in token order, and the gradient
accumulators after it. No batch runs while a checkpoint or an export is due. -/
def execInstarBatchDone (p : PartId) (losses : List F32) (grads : List F32) (s : State) : Out :=
  let p := p.val
  .next (match jobOf s p, instarOf s p with
    | some j, some i => match i.waiting with
      | [] => s
      | b :: rest =>
          if !j.running || j.restarting || holdsCompute s || ckptDue s i || (i.exportDue && i.targets == 0) then s
          else
            let loss := sum32 losses
            let i := { i with waiting := rest, targets := i.targets + b.targets, tensors := putGrads grads i.tensors }
            let r := if b.last then lastUpdate i else (i, false)
            let step := i.step + 1
            let s := setInstar s p r.1
            let s := if r.2 then stwEvent s 0x6063 1 (some p) none [] else s
            let s := foldJob s p 0x20 (leBytes 4 b.number ++ leBytes 4 loss.toNat ++ sha256 (b.tokens ++ b.segs ++ b.loss))
            let s := if b.last then foldJob s p 0x21 (leBytes 4 step ++ leBytes 1 (if r.2 then 1 else 0)) else s
            let s := postRec s b.cq.toNat none (batchRec b loss step r.2)
            if b.last && r.1.exportDue then exportNow s p else s
    | _, _ => s)

/-- CHECKPOINT (R344, R346, R347): the image goes to slot k mod 2, and at STEPS the variant is exported and the job ends. An image
larger than its slot ends the job. -/
def execCheckpoint (p : PartId) (s : State) : Out :=
  let p := p.val
  .next (match jobOf s p, instarOf s p with
    | some j, some i =>
        if !ckptDue s i || !portUp s j.port.val then s
        else
          let params := match j.file.bind (fun f => f.body.instar) with | some x => sectionParams x | none => 0
          let img := ckptImage (idVariant i.desc) i.step params (idDigest i.desc) i.tensors
          let slot := leAt i.desc 0x78 8
          if slot < img.length then endJob s p 7 0
          else
            let s := hostWrite s j.port.val (leAt i.desc 0x48 8 + i.ckpts % 2 * slot) img
            let first := match i.waiting with | b :: _ => b.number | [] => i.nextBatch
            let s := setInstar s p { i with ckpts := i.ckpts + 1, lastCkpt := some i.step, ckptBatch := first, saved := i.tensors }
            let s := stwEvent s 0x6061 0 (some p) none (zeros 4 ++ leBytes 4 i.step)
            if i.step = idSteps i.desc then endJob (exportNow s p) p 1 0 else s
    | _, _ => s)

/-- INSTAR_EXPORT (R346): a write of the partition number; the export follows the optimiser step in flight. -/
def execInstarExport (req : DapReq) (value : Byte) (s : State) : Out :=
  let p := value.toNat
  .next (dapWrite s req 0x5120 1 (leBytes 1 p)
    (fun _ s => if 15 < p then stRange else if (instarOf s p).isNone || !stewardUp s then stState else stOk)
    (fun _ s => match instarOf s p with
      | some i => if i.targets = 0 then exportNow s p else setInstar s p { i with exportDue := true }
      | none => s))

end Sys2Proof.Machine
end

