-- ==== Sys2Proof/Machine/Jobs.lean ====
section
/-! DEFINITION. Partitions and jobs (ch. 02, 10, 22): PART_DEF and the clearing of sites (R26 to R29, R512), job starts and loads
(R266, R334 to R336), job ends and the clearing after them (R267, R565). -/

namespace Sys2Proof.Machine

/-! Membership registers (R29, R180). -/

/-- RTR_PART of a partition's routers. -/
def rtrPartWord (v gen : Nat) : Nat :=
  2 ^ 63 + pdWin v * 2 ^ 28 + pdSx0 v * 2 ^ 25 + pdSx1 v * 2 ^ 22 + pdSy0 v * 2 ^ 19 + pdSy1 v * 2 ^ 16 + gen % 65536
/-- The Steward writes SITE_PART and every RTR_PART of a site that belongs to partition p. -/
def writeMember (s : State) (d p gen : Nat) : State :=
  let w := rtrPartWord (partDef s p) gen
  (siteCores d).foldl (fun s c => setRreg s c 0x4D0 w) (setDreg s d 0x100 (2 ^ 31 + p * 2 ^ 16 + gen % 65536))
def clearMember (s : State) (d gen : Nat) : State :=
  (siteCores d).foldl (fun s c => setRreg s c 0x4D0 (gen % 65536)) (setDreg s d 0x100 (gen % 65536))
def siteGen (s : State) (d : Nat) : Nat := bitsOf (dreg s d 0x100) 15 0

/-- A site joins a partition whose contents it holds, or once it is cleared. -/
def joinSite (s : State) (d : Nat) (p : PartId) : State :=
  let s := writeMember s d p.val (siteGen s d + 1)
  updSite s d (fun t => { t with joining := none, lastPart := some p })

/-- A partition's state returns to what a new or changed partition starts with (R76, R277, R309, R324). -/
def seedPart (s : State) (p : Nat) : State :=
  let s := setTheta s p (BitVec.ofNat 32 (obj s 0x4310 4)) false
  updPart s p (fun t => { t with
    share := none, shareWarm := false, sharePeriods := 0, accept := some (BitVec.ofNat 32 (obj s 0x5110 6)), acceptCycles := 0, lastLayout := [], lastQual := [] })

/-- PART_DEF's fields keep R511 and its rectangle overlaps no other partition's (R26, R512). A word that is not 0 and has VALID
clear defines nothing and is refused. DESIGN CHOICE (log entry 149). -/
def partDefOk (s : State) (p v : Nat) : Bool :=
  let others := (s.parts.filter (fun e => e.1 != p)).flatMap (fun e => pdSites e.2.pdef.toNat)
  v == 0 || (pdValid v && bitsOf v 62 32 == 0 && bitsOf v 15 12 == 0 && decide (pdSx0 v ≤ pdSx1 v) && decide (pdSy0 v ≤ pdSy1 v)
    && (pdSites v).all (fun d => !others.contains d))

/-- A job, a waiting start, a restart or a Moult holds a partition as it is (R27, R512). -/
def partHeld (s : State) (p : Nat) : Bool :=
  (jobOf s p).isSome || (partOf s p).waitingJob.isSome || (partOf s p).epochs.moult.isSome

/-- An accepted PART_DEF. -/
def applyPartDef (s : State) (p : PartId) (v : Nat) : State :=
  let old := partDef s p.val
  let was := partSites s p.val
  let s := updPart s p.val (fun t => { t with pdef := BitVec.ofNat 64 v })
  let now := partSites s p.val
  if bitsOf old 11 0 = bitsOf v 11 0 && pdValid old = pdValid v then
    -- only the windows change
    now.foldl (fun s d => if sitePart s d = some p.val then writeMember s d p.val (siteGen s d) else s) s
  else
    let leave := was.filter (fun d => !now.contains d)
    let come := now.filter (fun d => !was.contains d)
    let clear := come.filter (fun d => (siteSt s d).lastPart != some p)
    let s := leave.foldl (fun s d =>
      let s := updSite s d (fun t => { t with joining := none })
      if sitePart s d = some p.val then clearMember s d (siteGen s d + 1) else s) s
    let s := (now.filter (fun d => was.contains d)).foldl (fun s d =>
      if sitePart s d = some p.val then writeMember s d p.val (siteGen s d) else s) s
    let s := come.foldl (fun s d =>
      if clear.contains d then updSite s d (fun t => { t with joining := some (some p) }) else joinSite s d p) s
    let s := if v ≠ 0 && (!leave.isEmpty || !clear.isEmpty) then dropEpochs s p.val else s
    seedPart s p.val

/-- PART_DEF (R26 to R28, R512). -/
def execPartDef (req : DapReq) (p : PartId) (value : W64) (s : State) : Out :=
  .next (dapWrite s req 0x5000 (p.val + 1) (leBytes 8 value.toNat)
    (fun _ s => if !partDefOk s p.val value.toNat then stRange
      else if partHeld s p.val || (pdSites value.toNat).any (fun d => match sitePart s d with
        | some q => q != p.val && (jobOf s q).isSome
        | none => false) then stState else stOk)
    (fun _ s => applyPartDef s p value.toNat))

/-- SITE_CLEAR_DONE (R28): the scratchpads and vaults of a site that waits to join are clear, and it joins. -/
def execSiteClearDone (site : SiteId) (s : State) : Out :=
  let d := site.val
  .next (match (siteSt s d).joining with
    | some (some p) =>
        if !(siteSt s d).powered then s
        else
          let s := (siteCores d).foldl (fun s c => if (coreOf s c).spad = Mem.empty then s
            else updCore s c (fun v => { v with spad := Mem.empty })) s
          -- each vault is written and read back (R28)
          let s := (List.range 16).foldl (fun s k =>
            let s := updCl s (d * 16 + k) (fun c => { c with vault := Mem.empty, shards := [], extents := [], wroteBack := [] })
            vaultPass (vaultPass s (d * 16 + k) 0 Config.vaultCap) (d * 16 + k) 0 Config.vaultCap) s
          joinSite s d p
    | _ => s)

/-! Job starts. -/

/-- The job that a descriptor starts, before its layout is fetched. The check rates are read here, also for a start that waits.
DESIGN CHOICE (log entry 151). -/
def newJob (s : State) (port : WlPort) (number : Nat) (addr : W64) (d : Bytes) : Job :=
  { kind := BitVec.ofNat 8 (jdKind d), number := BitVec.ofNat 32 number, port := port, theta := jdTheta d,
    thetaSrc := BitVec.ofNat 8 (jdThetaSrc d), desc := d, descAddr := addr, digest := jdDigest d, running := false, file := none, nondet := false,
    detour := 0, detourBits1 := false, regions := [], nextStep := 0, restarts := [], restarting := false, waitHold := false,
    chain := [], epoch := [], draft := none, instar := none, sweeps := [], dups := [], useSum := 0, useCount := 0,
    frozen := false, subLast := [], subOwn := [], subPeer := [], subOk := none, started := false, diaPaused := false, wakeRestart := none,
    dupRate := BitVec.ofNat 8 (obj s 0x4320 1), shadowRate := BitVec.ofNat 8 (obj s 0x4320 2)
    logbook := obj s 0x4501 (jdPart d + 1) == 1 }

/-- The number of a new job: its descriptor's, or the next free one (R266). -/
def jobNumber (s : State) (d : Bytes) : Nat :=
  if jdJob d ≠ 0 then jdJob d
  else
    let used := s.parts.filterMap (fun e => e.2.job.map (fun j => j.number.toNat))
    ((List.range 17).map (fun i => s.stw.nextJob.toNat + i)).find? (fun n => !used.contains n) |>.getD s.stw.nextJob.toNat

/-- The partition a descriptor names can be used by the port (R513): reason 0x11 otherwise. -/
def windowOk (s : State) (p n : Nat) : Bool :=
  let joining := s.sites.any (fun e => e.2.joining == some (some (Fin.ofNat 16 p)))
  pdValid (partDef s p) && bitOf (pdWin (partDef s p)) n && !joining

/-- LAYOUT_REJECT with its reason, and LAYOUT_MALFORMED with an offset and byte 4 (R39, R228). -/
def layoutReject (s : State) (p reason : Nat) : State := stwEvent s 0x6010 2 (some p) none [BitVec.ofNat 8 reason]
def layoutMalformed (s : State) (p : Option Nat) (off kind : Nat) : State :=
  stwEvent s 0x6011 2 p none (leBytes 4 off ++ leBytes 1 kind)

/-- The descriptor of a job start has been fetched (R266, R513, R565). -/
def startJob (s : State) (n : WlPort) (addr : W64) (d : Bytes) : State :=
  match jobDescFault d with
  | some off => layoutMalformed s none off 1
  | none =>
      let p := jdPart d
      if !windowOk s p n.val then layoutReject s p 0x11
      else if (jobOf s p).isSome || (partOf s p).waitingJob.isSome then layoutReject s p 0x0E
      else
        let num := jobNumber s d
        let s := if jdJob d = 0 then updStw s (fun t => { t with nextJob := BitVec.ofNat 32 (num + 1) }) else s
        let j := newJob s n num addr d
        updPart s p (fun t => if t.clearing then { t with waitingJob := some j } else { t with job := some j })

/-- Writes that take a host address come over Wenlink, to a Steward that serves (R454, R513, R564). -/
def hostWriteState (s : State) (r : DapReq) : Nat :=
  if (carrier r).isNone || s.sec.debugOpen || !s.fin.ready || !inRun s || !stewardUp s then stState else stOk

/-- JOB_START (R266, R513): the descriptor is read over the port that carried the write. -/
def execJobStart (req : DapReq) (addr : W64) (desc : Option Bytes) (s : State) : Out :=
  .next (dapWrite s req 0x5100 1 (leBytes 8 addr.toNat) (fun _ s => hostWriteState s req)
    (fun _ s => match carrier req, desc with
      | some n, some d => startJob (hostFetch s n.val addr.toNat 64 d.length) n addr d
      | some n, none => hostFetch s n.val addr.toNat 64 0
      | none, _ => s))

/-- PARTITION_CLEAR_DONE (R565): scratchpads, cache areas and slot tables are clear, and a waiting start goes on. -/
def execPartitionClearDone (p : PartId) (s : State) : Out :=
  let p := p.val
  .next (if !(partOf s p).clearing then s
    else
      let s := (partCores s p).foldl (fun s c => if (coreOf s c).spad = Mem.empty then s
        else updCore s c (fun v => { v with spad := Mem.empty })) s
      let s := (partOf s p).clearDesc.foldl (fun s d => clearCache s p d) s
      updPart s p (fun t => { t with clearing := false, clearDesc := [], job := t.waitingJob, waitingJob := none }))

/-! Job loads. -/

/-- A job that a check refuses leaves no trace on its partition. -/
def dropJob (s : State) (p : Nat) : State := updPart s p (fun t => { t with job := none })

/-- θ of a starting job (R75). -/
def startTheta (s : State) (p : Nat) (j : Job) (f : LayoutFile) : F32 :=
  if j.thetaSrc = 1 then jdTheta j.desc
  else if obj s 0x4310 1 = 0 then lyTheta f.bytes
  else (partOf s p).thetaNext

/-- INPUT of a job's Plate header (R381). -/
def jobInput (d : Bytes) (inst : Option Bytes) : Bytes :=
  let d := zeroAt (zeroAt d 0x10 8) 0xC 4
  let i := match inst with
    | some i => zeroAt (zeroAt (zeroAt i 8 8) 0x48 8) 0x50 8
    | none => []
  sha256 (d ++ i)

/-- The regions of a job at its start, with the shadow statistics of the same layout's last run (R109). -/
def startRegions (s : State) (p : Nat) (digest : Bytes) (f : LayoutFile) : NMap RegionRun :=
  let seed := f32Rat (obj s 0x4320 6)
  let same := (partOf s p).lastLayout == digest
  (List.range f.body.regions.length).map (fun i =>
    let q := if same then (partOf s p).lastQual.getD i (seed, 0) else (seed, 0)
    (i, { regionRunZero with qualM := q.1, qualN := q.2 }))

/-- A job passes every check: its partition is written, and its sequencers start; a Binocular job exchanges hellos first. -/
def runJob (s : State) (p : Nat) (f : LayoutFile) (inst : Option (Instar × Bytes)) : State :=
  match jobOf s p with
  | none => s
  | some j =>
      let program := sha256 f.bytes
      let theta := startTheta s p j f
      let e := (partOf s p).epochs
      let epoch := match e.committed with | some m => m.digest | none => zeros 32
      let n := (choosePlacement s p f).getD 0
      let chain := sha256 (plateHeader 2 (nondetFile f) (lyLevel f.bytes) theta program epoch (fwDigest s)
        (jobInput j.desc (inst.map (fun x => x.2))))
      let s := updJob s p (fun j => { j with
        running := true, file := some f, digest := program, theta := theta, nondet := nondetFile f, chain := chain
        epoch := epoch, regions := startRegions s p program f, instar := inst.map (fun x => x.1), started := true
        subLast := if isBino s p then (List.range f.body.regions.length).map (fun i => (i, chain)) else [] })
      let desc := putAt (putAt j.desc 6 [1#8]) 8 (leBytes 4 theta.toNat)
      let s := logInput s p 0x01 0 none none desc
      let s := placeJob (setPlacement s p f n) p
      if isBino s p then s else startStreams s p

/-- The hello of a Binocular pairing (R386). -/
def binoHelloBytes (s : State) (p : Nat) (j : Job) : Bytes :=
  leBytes 4 0x4F4E4942 ++ leBytes 2 1 ++ leBytes 1 (if j.nondet then 1 else 0) ++ [0#8] ++ leBytes 8 Config.idrev.toNat
    ++ leBytes 4 j.number.toNat ++ leBytes 4 j.theta.toNat ++ zeros 8 ++ fwDigest s ++ sliceB j.digest 0 32 ++ epochDigest s p
    ++ zeros 32

/-- A Binocular job that passed its checks waits for the peer's hello; without a PIPELINE link, or with NONDET, it is refused. -/
def pairJob (s : State) (p : Nat) : State :=
  match jobOf s p with
  | none => s
  | some j =>
      let d := obj s 0x4500 1
      if j.nondet || (hlOf s d).st ≠ 5 then endJob (stwEvent s 0x5061 2 (some p) none []) p 7 0x5061
      else hlSend (updJob s p (fun j => { j with started := false })) d 3 (binoHelloBytes s p j)

/-- Epochs of a job with another layout than theirs are dropped at its start (R324). -/
def keepEpochs (s : State) (p : Nat) (program : Bytes) : State :=
  match (partOf s p).epochs.committed, (partOf s p).epochs.incoming with
  | some m, _ => if m.program = program then s else dropEpochs s p
  | none, some m => if m.program = program then s else dropEpochs s p
  | none, none => s

/-- The checks of a layout file, read from the host over a port, against its digest and R39: refused, or the rest goes on. -/
def checkFile (s : State) (p : Nat) (f : LayoutFile) (digest : Bytes) (instar : Bool) (drop k : State → State) : State :=
  match layoutFault s p f instar with
  | some off => layoutMalformed (drop s) (some p) off 0
  | none =>
      if sha256 f.bytes ≠ digest then layoutReject (drop s) p 9
      else match loadReason s p f with
        | some 8 => stwEvent (layoutReject (drop s) p 8) 0x5055 2 (some p) none []
        | some r => layoutReject (drop s) p r
        | none => k s

/-- A layout file comes from its host address, as long as its descriptor says (R266, R297): none for a read that failed (R531). -/
def fetchFile (s : State) (n addr len : Nat) (file : Option LayoutFile) (drop : State → State) (k : State → LayoutFile → State) : State :=
  match file with
  | none => drop (hostFetch s n addr len 0)
  | some f =>
      let s := hostFetch s n addr len f.bytes.length
      if f.bytes.length ≠ len then drop s else k s f

/-- The checks of a job's layout. -/
def checkLayout (s : State) (p : Nat) (f : LayoutFile) (digest : Bytes) (instar : Bool) (k : State → State) : State :=
  checkFile s p f digest instar (dropJob · p) k

/-- The reasons of R336 for refusing an Instar job. -/
def instarReason (s : State) (p : Nat) (f : LayoutFile) (base d : Bytes) (ckpt : Option Bytes) : Option Nat :=
  let e := (partOf s p).epochs
  match f.body.instar with
  | none => some 0x0C
  | some x =>
      let shared : Bool := match e.committed with | some m => m.program == base | none => false
      firstOf [(!shared, 0x0B),
        (x.baseDigest ≠ base || (idInit d = 0 && getN 0 e.variants (idVariant d) ≠ x.np), 0x0C),
        (e.retiring.isSome || e.moult.isSome || !e.missing.isEmpty, 0x0D),
        (idInit d = 1 && !(ckpt.any (ckptOk d x (sha256 f.bytes))), 0x0F)]

/-- T × 14 B fit beside the committed bank (R343). -/
def instarFits (s : State) (p : Nat) (base f : LayoutFile) : Bool :=
  match f.body.instar with
  | some x =>
      let bank := (base.body.shards.map (fun y => y.space)).sum
      decide (x.params * 14 + bank + (f.body.shards.map (fun y => y.space)).sum ≤ (partClusters s p).length * Config.vaultCap)
  | none => true

/-- An Instar job's state at its start (R336, R345). -/
def instarStart (s : State) (p : Nat) (f : LayoutFile) (base d : Bytes) (ckpt : Option Bytes) : Option Instar :=
  f.body.instar.map (fun x =>
    let digest := match (partOf s p).epochs.committed with | some m => m.digest | none => []
    let ts := if idInit d = 1 then ckptTensors (ckpt.getD []) x.tensors 0x40
      else if idInit d = 2 then freshTensors d x else loadedTensors s p f digest x
    let step := if idInit d = 1 then leAt (ckpt.getD []) 8 4 else 0
    { desc := d, baseDigest := base, step := step, nextBatch := 0, waiting := [], targets := 0, tensors := ts, ckpts := 0,
      lastCkpt := if idInit d = 1 then some step else none, ckptBatch := 0, saved := if idInit d = 1 then ts else [], exported := false, exportDue := false })

/-- JOB_LOAD (R39, R228, R266, R334 to R336): the layout file has arrived, and for an Instar job its descriptor, its layout and a
checkpoint. A read that failed leaves the job unstarted. -/
def execJobLoad (p : PartId) (file : Option LayoutFile) (instarDesc : Option Bytes) (instarFile : Option LayoutFile)
    (checkpoint : Option Bytes) (s : State) : Out :=
  let p := p.val
  .next (match jobOf s p with
    | none => s
    | some j =>
        if j.running then s
        else
          let n := j.port.val
          fetchFile s n (leAt j.desc 0x10 8) (leAt j.desc 0x18 8) file (dropJob · p) (fun s f =>
            checkLayout s p f (jdDigest j.desc) false (fun s =>
              if j.kind = 1 then
                let s := runJob (keepEpochs s p (sha256 f.bytes)) p f none
                if isBino s p then pairJob s p else s
              else match instarDesc with
                | none => dropJob (hostFetch s n (j.descAddr.toNat + 0x40) 128 0) p
                | some d =>
                    let s := hostFetch s n (j.descAddr.toNat + 0x40) 128 128
                    if !instarDescOk d then layoutReject (dropJob s p) p 0x0F
                    else fetchFile s n (leAt d 8 8) (leAt d 0x10 8) instarFile (dropJob · p) (fun s g =>
                      checkLayout s p g (idDigest d) true (fun s =>
                        if !instarFits s p f g then layoutReject (dropJob s p) p 3
                        else
                          let s := if idInit d = 1 then
                              hostFetch s n (leAt d 0x48 8) (leAt d 0x78 8) ((checkpoint.map List.length).getD 0) else s
                          match instarReason s p g (sha256 f.bytes) d checkpoint with
                          | some r => layoutReject (dropJob s p) p r
                          | none => match instarStart s p g (sha256 f.bytes) d checkpoint with
                            | some i => stwEvent (runJob s p g (some (i, d))) 0x6060 0 (some p) none []
                            | none => dropJob s p)))))

/-- JOB_END (R267). -/
def execJobEnd (req : DapReq) (value : Byte) (s : State) : Out :=
  let p := value.toNat
  .next (dapWrite s req 0x5100 2 (leBytes 1 p)
    (fun _ s => if 15 < p then stRange else if (jobOf s p).isNone || !stewardUp s then stState else stOk)
    (fun _ s => endJob s p 7 0))

end Sys2Proof.Machine
end

