-- ==== Sys2Proof/Machine/FaultCmds.lean ====
section
/-! DEFINITION. The fault commands (ch. 14, 15): replays, watchdogs, restarts, fences and their return, the vault patrol, event
records and the Binocular messages. -/

namespace Sys2Proof.Machine

/-! Failures (R351). -/

/-- A failure report's granule, as the region keeps it to tell a repeat (R354). -/
def faultMark (f : FaultReport) : Option (BitVec 16 × W32) :=
  f.granule.map (fun g => (BitVec.ofNat 16 (f.unit.toNat / 2 ^ 17), BitVec.ofNat 32 (g.1.val * 2 ^ 29 + g.2 % 2 ^ 29)))

/-- The answer to a repeated uncorrectable read, by where the granule lies: 0 scratchpad, 1 weight shard, 2 embedding table,
3 latent page or slot table, 4 Instar state, 5 other. -/
def repeatAnswer (s : State) (p : Nat) (f : FaultReport) (g : Fin 6 × Nat) : State :=
  let k := uDie f.unit.toNat * 16 + uCluster f.unit.toNat
  if g.1 = 0 then fenceAll s (coreUnit (coreAt (uDie f.unit.toNat) (uCluster f.unit.toNat) (uCore f.unit.toNat)) 0 0) 0x4012
  else if g.1 = 5 then restartBegin s p 0x4011
  else vaultRepeat s k (8 * g.2) (g.1 == 4)

/-- STEP_REPLAY (R351, R354, R359, R360): FENCED_DEST restarts the job; other failures replay the step. -/
def execStepReplay (p : PartId) (f : FaultReport) (s : State) : Out :=
  let p := p.val
  .next (match jobOf s p with
    | none => s
    | some j =>
        let r := regionRun s p f.region
        if !j.running || j.frozen || j.restarting || !r.busy then s
        else if f.code = 0x3020 || f.code = 0x5050 then restartBegin s p f.code.toNat
        else
          let mark := faultMark f
          let again := mark.isSome && mark == r.lastFault && decide (0 < r.replays)
          let s := updRegion s p f.region (fun r => { r with
            lastFault := mark, trapped := (r.trapped ++ f.trapped).eraseDups })
          match f.granule with
          | some g =>
              if again then
                let s := repeatAnswer s p f g
                -- a step whose job runs on replays as well
                match jobOf s p with
                | some j => if j.restarting || !(partOf s p).epochs.missing.isEmpty then s
                    else failStep s p f.region f.code.toNat f.unit none
                | none => s
              else failStep s p f.region f.code.toNat f.unit (if f.heldInput && 0 < f.region then some (f.region - 1) else none)
          | none => failStep s p f.region f.code.toNat f.unit none)

/-- STEP_WATCHDOG (R361): a first trip replays the step; a second is hard, after a pattern test of every core of the region. The
time does not count while no product may run in some cluster of the region or the Finder holds compute. -/
def execStepWatchdog (p : PartId) (region : Nat) (s : State) : Out :=
  let p := p.val
  .next (match jobOf s p with
    | none => s
    | some j =>
        let r := regionRun s p region
        let cs := regionCores s p region
        if !j.running || j.frozen || j.restarting || !r.busy || holdsCompute s || s.fin.sagWarn
            || cs.any (fun c => inForce s (clusterOf c) == 0) then s
        else
          let s := stwEvent s 0x5052 1 (some p) none (leBytes 4 region)
          if r.trips = 0 then replaySteps (updRegion s p region (fun r => { r with trips := 1 })) p none
          else
            let s := updJob s p (fun j => { j with waitHold := true })
            let s := updFin s (fun f => { f with testsDue := (f.testsDue ++ cs).eraseDups })
            restartBegin s p 0x5052)

/-- JOB_RESTART (R365 to R367): the restart begins if it has not begun, and steps 4 to 6 follow once nothing holds them. -/
def execJobRestart (p : PartId) (cause : BitVec 16) (s : State) : Out :=
  let p := p.val
  .next (match jobOf s p with
    | none => s
    | some j => restartFinish (if j.restarting then s else restartBegin s p cause.toNat) p)

/-- REQUEST_RESTART (R368). -/
def execRequestRestart (h : Slot) (s : State) : Out := .next (requestRestart s h.val)

/-! Fences. -/

/-- UNIT_FENCED (R351, R362, R534). -/
def execUnitFenced (unit : W32) (cause : BitVec 16) (s : State) : Out :=
  .next (windowEvents s (fenceAll s unit.toNat cause.toNat))

/-- The fence entry that an UNFENCE names; a link may be named by either end (R370). -/
def unfenceUnit (u : Nat) : Nat :=
  if uIsLink u then linkUnit (coreAt (uDie u) (uCluster u) (uCore u)) (bitsOf u 12 9) else u
/-- UNFENCE takes a core, a cluster or a link (R372). -/
def unfenceForm (u : Nat) : Bool :=
  decide (uDie u < 64) && (uIsLink u || (bitsOf u 16 9 == 0 && decide (uScope u ≤ 1))) && bitsOf u 6 0 == 0

/-- A core's check state forgets its notes and episodes (R364). -/
def forgetNotes (s : State) (c : Nat) : State :=
  updCore s c (fun v => { v with notes := [], episodes := [], forceDup := false })

/-- Open a fenced core. -/
def openCore (s : State) (c : Nat) : State :=
  let k := clusterOf c
  let v := rreg s c 0x4C8
  let f := kreg s k 0x40
  forgetNotes (setKreg (setRreg s c 0x4C8 (v - (v &&& 1))) k 0x40 (f - (f &&& 2 ^ (16 + coreIn c)))) c

/-- Open a link again, unless the site at one of its ends is fenced; one resynchronisation has tested it (R364). -/
def openLink (s : State) (c port : Nat) : State :=
  match linkEnd c port with
  | none => s
  | some e =>
      let s := resyncLink s c port e
      if siteFenced s (siteOf c) || (decide (e.1 < 16384) && siteFenced s (siteOf e.1)) then s else bothEnds s c port false

/-- Return a unit to service (R364). -/
def returnUnit (s : State) (u : Nat) : State :=
  let s := updStw s (fun t => { t with fences := t.fences.filter (fun f => f.unit.toNat != u) })
  let c := coreAt (uDie u) (uCluster u) (uCore u)
  let k := uDie u * 16 + uCluster u
  let s :=
    if uIsLink u then openLink s c (bitsOf u 12 9)
    else if uScope u = 0 then (if clusterFenced s k then s else openCore s c)
    else
      let f := kreg s k 0x40
      let s := setKreg s k 0x40 (f - (f &&& 2))
      (coresOf k).foldl (fun s c => if fenced s (coreUnit c 0 0) then s else openCore s c) s
  raise s 0x5056 0 u (stewardCc s) []

/-- A cluster that has lost two phases or more returns only with its site (R425). -/
def phasesGone (s : State) (u : Nat) : Bool :=
  uScope u == 1 && decide (2 ≤ bitCount (bitsOf (kreg s (uDie u * 16 + uCluster u) 0x58) 19 16) 4)

/-- UNFENCE (R364, R372): the unit's test passes and it returns, or the write is refused. -/
def execUnfence (req : DapReq) (unit : W32) (testPass : Bool) (s : State) : Out :=
  let u := unfenceUnit unit.toNat
  .next (dapWrite s req 0x4400 6 (leBytes 4 unit.toNat)
    (fun _ s => if !unfenceForm unit.toNat then stRange else if !fenced s u || !testPass || phasesGone s u || !stewardUp s then stState else stOk)
    (fun _ s => returnUnit s u))

/-- PATROL (R352, R354, R356): one pass over a vault. -/
def execPatrol (cl : ClusterId) (ecc : EccObs) (s : State) : Out :=
  let k := cl.val
  .next (if !(siteSt s (k / 16)).powered || (clOf s k).selfRetain || (clOf s k).clocksOff then s
    else
      let ue := ecc.ue.filter (fun g => decide (8 * g < Config.vaultCap))
      let s := bumpK (bumpK (bumpK s k 0x30 63 32 ecc.ce1) k 0x30 31 16 ecc.ce2) k 0x30 15 0 ue.length
      let s := bumpK (bumpK s k 0x38 31 0 (ecc.ce1 + ecc.ce2)) k 0x38 63 32 1
      let s := vaultPass s k 0 Config.vaultCap
      let s := if ecc.ce2 = 0 then s else raise s 0x4010 0 (clusterUnit k 11) k []
      if ue.isEmpty then s
      else
        let s := updCl s k (fun v => { v with vault := memPoison v.vault ue })
        ue.foldl (fun s g => vaultRepeat (raise s 0x4011 1 (clusterUnit k 11) k (leBytes 8 (8 * g))) k (8 * g)
          (match (sitePart s (k / 16)).bind (jobOf s) with | some j => j.instar.isSome | none => false)) s)

/-! Event records (R369, R371, R516, R530). -/

/-- The one-second interval of the active Steward's LOCAL_TIME. -/
def stewardSecond (s : State) : Nat := stewardTime s / 375000000

/-- Deliver a logged record on the field networks with an open session, and to the event queues that want it. -/
def deliver (s : State) (l : LoggedEvent) : State :=
  let part := match l.ev.job with
    | some j => (s.parts.find? (fun e => match e.2.job with | some x => x.number == j.1 | none => false)).map (fun e => e.1)
    | none => none
  let wants := fun (q : WlQueue) => q.kind == 4#8 &&
    (match part with | some p => q.part.toNat == p | none => if l.ev.job.isSome then false else q.part == 0xFF#8)
  if l.ev.sev.val < obj s 0x4B00 5 then s
  else (sendEvents s (eventBytes l)).wl.foldl (fun s e => e.2.queues.foldl (fun s q =>
    if !wants q.2 then s
    else if queueRoom s q.1 4 1 then queueWrite s q.1 1 (eventBytes l)
    else updWl s e.1 (fun w => { w with err := BitVec.ofNat 64 (bumpField w.err.toNat 7 0 1) })) s) (sendEvents s (eventBytes l))

/-- EVENT_RECORD (R371): the oldest record reaches the Steward; it is logged and delivered, or past the rate only counted. -/
def execEventRecord (s : State) : Out :=
  .next (match s.events with
    | [] => s
    | e :: rest =>
        if !stewardUp s then s
        else
          let s := { s with events := rest }
          let sec := stewardSecond s
          let code := e.code.toNat
          let n := match s.stw.secCounts.find? (fun x => x.1 == sec && x.2.1 == code) with | some x => x.2.2 | none => 0
          let counts := (s.stw.secCounts.filter (fun x => x.1 == sec && x.2.1 != code)) ++ [(sec, code, n + 1)]
          let s := updStw s (fun t => { t with secCounts := counts })
          if obj s 0x4400 7 ≤ n && e.sev ≠ 3 then setObj s 0x4402 1 (satAdd32 (obj s 0x4402 1) 1)
          else
            let age := match s.stw.hostPair with
              | some h => min ((stewardTime s - h.1.toNat) / 375) 0xFFFFFF
              | none => 0
            let l : LoggedEvent := { ev := e, hostTime := s.stw.hostPair.map (fun h => h.2), pairAge := age }
            deliver (updStw s (fun t => { t with log := (t.log ++ [l]).drop (t.log.length + 1 - 256) })) l)

/-! Binocular messages. -/

/-- The hello of the peer matches this module's (R386). -/
def binoHelloOk (s : State) (p : Nat) (j : Job) (peer : Bytes) : Bool :=
  let own := binoHelloBytes s p j
  peer.length == 160 && sliceB peer 0 6 == sliceB own 0 6 && byteAt peer 6 == 0 && byteAt peer 7 == 0
    && peer.drop 8 == own.drop 8

/-- BINO_HELLO (R386): the peer's hello is compared, and the job starts or is refused. -/
def execBinoHello (p : PartId) (peer : Bytes) (s : State) : Out :=
  let p := p.val
  .next (match jobOf s p with
    | none => s
    | some j =>
        if !isBino s p || !j.running || j.started then s
        else if !binoHelloOk s p j peer || (hlOf s (obj s 0x4500 1)).st ≠ 5 then
          endJob (stwEvent s 0x5061 2 (some p) none []) p 7 0x5061
        else startStreams { updJob s p (fun j => { j with started := true }) with binoState := 1 } p)

/-- A step of a region has compared equal; the head's sets how far commits may go (R388). -/
def noteEqual (s : State) (p region : Nat) (step : W64) : State :=
  match jobOf s p with
  | none => s
  | some j => if headOf j = some region then updJob s p (fun j => { j with subOk := some step }) else s

/-- Compare what both sides have of a step and region (R387, R389). -/
def compareSub (s : State) (p region : Nat) (step : W64) : State :=
  match jobOf s p with
  | none => s
  | some j =>
      let f := fun (e : W64 × Nat × Bytes) => e.1 == step && e.2.1 == region
      match j.subOwn.find? f, j.subPeer.find? f with
      | some a, some b =>
          let s := updJob s p (fun j => { j with subOwn := j.subOwn.filter (fun e => !f e), subPeer := j.subPeer.filter (fun e => !f e) })
          if a.2.2 = b.2.2 then noteEqual s p region step else freeze s p 1 step region
      | _, _ => s

/-- SUBP (R387, R389): the peer's sub-Plate, or its announcement of a restart. -/
def execSubp (p : PartId) (msg : Bytes) (s : State) : Out :=
  let p := p.val
  let region := leAt msg 4 4
  let step : W64 := BitVec.ofNat 64 (leAt msg 8 8)
  .next (match jobOf s p with
    | none => s
    | some j =>
        if !isBino s p || !j.running || j.frozen || msg.length ≠ 64 || leAt msg 0 4 ≠ 0x50425553 || leAt msg 0x30 16 ≠ 0 then s
        else if region = 0xFFFFFFFF then freeze s p 2 step 0xFFFF
        else compareSub (updJob s p (fun j => { j with subPeer := j.subPeer ++ [(step, region, sliceB msg 0x10 32)] })) p region step)

/-- BINO_TIMEOUT (R389): no message for a due step within 100 µs. -/
def execBinoTimeout (p : PartId) (s : State) : Out :=
  let p := p.val
  .next (match jobOf s p with
    | none => s
    | some j => match j.subOwn with
      | e :: _ => if isBino s p && j.running then freeze s p 3 e.1 e.2.1 else s
      | [] => s)

end Sys2Proof.Machine
end

