-- ==== Sys2Proof/Machine/Requests.lean ====
section
/-! DEFINITION. The host commands of a serving job (ch. 10, 15): how the Steward takes an entry (R271, R528), answers or refuses it
(R273), creates a request and reads its inputs (R272, R274), and replays records (R392, R393). -/

namespace Sys2Proof.Machine

/-! Entries of command queues (R528). -/

/-- Read the entry at the head of a command queue. -/
def fetchEntry (s : State) (q : Nat) : State :=
  match queueAt s q with
  | none => s
  | some w => hostRead s (portOf q) (w.base.toNat + w.head.toNat % w.entries.toNat * 128) 128 (.entry (BitVec.ofNat 16 q))

/-- The read of a queue's entry is outstanding. -/
def entryAwaited (s : State) (q : Nat) : Bool :=
  (wlOf s (portOf q)).reads.any (fun r => r.2.2.2 == .entry (BitVec.ofNat 16 q))

/-- The Steward may take the entry with this index of a command queue: it is the one at the head, and it has been read. A reset of the
compute dies that is held leaves the Steward and the links running (R462). -/
def cmdDue (s : State) (q : BitVec 16) (index : W32) : Bool :=
  stewardUp s && (inRun s || s.fin.held.isSome) && match queueAt s q.toNat with
    | some w => w.kind == 1#8 && w.head == index && w.head != w.tail && w.ready
    | none => false

/-- The Steward takes the entry: the head moves and is written to the host, and the next entry is read. -/
def takeCmd (s : State) (q : Nat) : State :=
  match queueAt s q with
  | none => s
  | some w =>
      let head := w.head + 1
      let s := updWl s (portOf q) (fun v => { v with queues := putN v.queues q { w with head := head, ready := false } })
      let s := hostWrite s (portOf q) w.indexAddr.toNat (leBytes 4 head.toNat)
      if head = w.tail then s else fetchEntry s q

/-! Fields that every command places alike (R271). -/

def cOpc (e : Bytes) : Nat := byteAt e 0
def cPart (e : Bytes) : Nat := byteAt e 2
def cReq (e : Bytes) : Nat := leAt e 4 4
def cCq (e : Bytes) : Nat := leAt e 0x32 2

/-- Every byte outside the listed fields (offset, length) is zero. -/
def zeroBut (e : Bytes) (fields : List (Nat × Nat)) : Bool :=
  (List.range e.length).all (fun i => fields.any (fun f => decide (f.1 ≤ i) && decide (i < f.1 + f.2)) || byteAt e i == 0)

/-- Answer a command that completes no request. -/
def answerCmd (s : State) (q : Nat) (e : Bytes) (code : Nat) : State :=
  let r := if 1 ≤ cOpc e && cOpc e ≤ 5 then (findReq s (cPart e) (cReq e)).map (fun x => x.2) else none
  postAnswer s q (cCq e) (cPart e) (answerRec s r (cReq e) (cOpc e) code)

/-- Refuse a command (R273, R535): the event, the answer, and the violation of the port. -/
def refuseCmd (s : State) (q index : Nat) (e : Bytes) (code : Nat) : State :=
  let s := takeCmd s q
  let s := stwEvent s 0x6030 0 none none (leBytes 2 q ++ leBytes 1 code ++ zeros 1 ++ leBytes 4 index)
  wlViolation (answerCmd s q e code) (portOf q) 5 false

/-- A host command: refused with a code, or taken and applied. `refusal` looks at the state and `apply` changes it. A command
whose record the Logbook has no room for waits (R391). -/
def hostCmd (s : State) (q : BitVec 16) (index : W32) (e : Bytes) (payload : Nat) (refusal : State → Option Nat)
    (apply : State → State) : State :=
  if !cmdDue s q index then s
  else match refusal s with
    | some code => refuseCmd s q.toNat index.toNat e code
    | none =>
        if !logReady s (cPart e) payload then logStall s (cPart e)
        else apply (takeCmd s q.toNat)

/-- A serving job runs on a partition (R273). -/
def servesPart (s : State) (p : Nat) : Bool :=
  match jobOf s p with | some j => j.kind == 1#8 && j.running | none => false

/-! SUBMIT (R272). -/

def f32Field (e : Bytes) (off : Nat) : F32 := BitVec.ofNat 32 (leAt e off 4)
/-- A finite FP32 value between two others. -/
def f32In (x lo hi : F32) : Bool := le32 lo x && le32 x hi

/-- The descriptor's fields keep R272. -/
def submitOk (s : State) (e : Bytes) : Bool :=
  let plen := rPromptLenOf e
  let ttl := leAt e 0x34 4
  let temp := f32Field e 0x38
  decide (byteAt e 1 ≤ 1) && decide (cPart e ≤ 15) && (decide (byteAt e 3 ≤ 63) || byteAt e 3 == 0xFF)
    && decide (1 ≤ plen) && decide (plen ≤ 4194304) && decide (1 ≤ leAt e 0x14 4) && decide (leAt e 0x14 4 + plen ≤ 4194304)
    && decide (ttl ≤ obj s 0x5200 2) && (temp.toNat % 2 ^ 31 == 0 || f32In temp 0x3C23D70A 0x42C80000)
    && lt32 0 (f32Field e 0x3C) && le32 (f32Field e 0x3C) one32 && le32 0 (f32Field e 0x40) && lt32 (f32Field e 0x40) one32
    && decide (1 ≤ leAt e 0x44 2) && decide (leAt e 0x44 2 ≤ 1024) && decide (leAt e 0x46 2 < 8)
    && f32In (f32Field e 0x48) one32 0x41000000 && f32In (f32Field e 0x4C) 0xC0800000 0x40800000
    && f32In (f32Field e 0x50) 0xC0800000 0x40800000 && leAt e 0x54 44 == 0
where
  rPromptLenOf (e : Bytes) : Nat := leAt e 0x10 4

/-- A queue of a kind exists and belongs to a partition (R529). -/
def queueFor (s : State) (q kind p : Nat) : Bool :=
  match queueAt s q with | some w => w.kind.toNat == kind && w.part.toNat == p | none => false
/-- The command queue's PART (R529). -/
def carriedFor (s : State) (q p : Nat) : Bool := match queueAt s q with | some w => w.part.toNat == p | none => false

/-- A variant can be served: none, or one loaded in the current epoch (R295). -/
def variantOk (s : State) (p v : Nat) : Bool :=
  v == 0xFF || (let e := (partOf s p).epochs
    (match e.moult with | some m => m.mode != 1 | none => true) && e.variants.any (fun x => x.1 == v))

/-- A reserved length is within the limit and every layer has a ring for it (R273). -/
def lengthOk (s : State) (p len : Nat) : Bool :=
  decide (alignUp len 32 ≤ 4194304) && match (jobOf s p).bind sweepDesc with
    | some d => d.rings.all (fun r => (ringOf r (ceilDiv len 32 - 1)).isSome)
    | none => true

/-- The refusal of a SUBMIT (R273, R529). -/
def submitRefusal (q : Nat) (e : Bytes) (s : State) : Option Nat :=
  let p := cPart e
  firstOf [(!submitOk s e, 0x10), (!carriedFor s q p || !servesPart s p, 0x13),
    (!queueFor s (leAt e 0x30 2) 2 p || !queueFor s (cCq e) 3 p, 0x10), ((findReq s p (cReq e)).isSome, 0x11),
    (decide (65536 ≤ s.reqs.length), 0x12), (!variantOk s p (byteAt e 3), 0x14),
    (!lengthOk s p (leAt e 0x10 4 + leAt e 0x14 4), 0x15)]

/-- The lowest free cache slot: keys rise. -/
def freeSlotFrom : List (Nat × Request) → Nat → Nat
  | [], n => n
  | e :: t, n => if e.1 = n then freeSlotFrom t (n + 1) else n
def freeSlot (s : State) : Nat := freeSlotFrom s.reqs 0

/-- A stop record that sets no condition: every END and SLEN unused. -/
def emptyStop : Bytes := List.replicate 32 0xFF#8 ++ zeros 544

/-- The epoch that a new request is bound to, and its bank (R274, R322). -/
def bindEpoch (s : State) (p : Nat) : Bytes × Nat :=
  let e := (partOf s p).epochs
  match currentEpoch e with
  | some m => (m.digest, if e.committed = some m then e.comBank else e.incBank)
  | none => (zeros 32, 0)

/-- A request as it enters the table (R268 to R274). -/
def newRequest (s : State) (q : Nat) (e : Bytes) : Request :=
  let p := cPart e
  let b := bindEpoch s p
  let plen := leAt e 0x10 4
  let maxNew := leAt e 0x14 4
  let mask := leAt e 0x20 8 != 0
  let stop := leAt e 0x28 8 != 0
  { part := Fin.ofNat 16 p, desc := sliceB e 0 128, st := .queued, accepted := s.stw.nextOrder, port := Fin.ofNat 16 (portOf q),
    epoch := b.1, bank := b.2, fetching := 1 + (if mask then 1 else 0) + (if stop then 1 else 0), prompt := [], mask := none,
    masks := [], stop := stopFields emptyStop maxNew (reservedFor (plen + maxNew)) plen, reserved := reservedFor (plen + maxNew),
    placed := false, cached := 0, counts := [], untracked := false, appended := [], tokens := [], genBase := plen, genStart := 0,
    maxNew := maxNew, resumes := 0, cancel := none, pause := none, pausedFrom := .queued, waited := false, pressed := false,
    pausedAt := 0, parked := none, chain := [], folded := 0, ring := [], inFlight := false, order := 0, lastStep := 0, specD := 0,
    specZ := 0, specOff := false, specWait := 0, cycle := none, inputs := [] }

/-! Inputs of a request, read in messages of at most 4,096 bytes, one after another. -/

/-- The next read of an input, if some of it is still to come. -/
def readPrompt (s : State) (h : Slot) (r : Request) : State :=
  let got := 4 * r.prompt.length
  hostRead s r.port.val (leAt r.desc 0x18 8 + got) (min 4096 (4 * rPromptLen r - got)) (.prompt h)
def readMask (s : State) (h : Slot) (r : Request) : State :=
  let got := (r.mask.getD []).length
  hostRead s r.port.val (leAt r.desc 0x20 8 + got) (min 4096 (24576 - got)) (.maskBits h)

/-- A request enters the table and its inputs are read. -/
def addRequest (s : State) (h : Nat) (r : Request) : State :=
  updStw (setReq s h r) (fun t => { t with nextOrder := t.nextOrder + 1 })
def startReads (s : State) (h : Nat) (r : Request) : State :=
  let slot : Slot := Fin.ofNat 65536 h
  let s := readPrompt s slot r
  let s := if leAt r.desc 0x20 8 ≠ 0 then readMask s slot r else s
  if leAt r.desc 0x28 8 ≠ 0 then hostRead s r.port.val (leAt r.desc 0x28 8) 576 (.stopRec slot) else s

/-- Data of an input arrives (R274, R531). -/
def inputArrived (s : State) (why : ReadFor) (data : Bytes) : State :=
  match why with
  | .prompt h => match reqOf s h.val with
    | some r =>
        let r := { r with prompt := r.prompt ++ (chunks 4 data).map (fun b => BitVec.ofNat 32 (leNat b)) }
        if r.prompt.length < rPromptLen r then readPrompt (setReq s h.val r) h r
        else setReq s h.val { r with fetching := r.fetching - 1 }
    | none => s
  | .maskBits h => match reqOf s h.val with
    | some r =>
        let r := { r with mask := some (r.mask.getD [] ++ data) }
        if (r.mask.getD []).length < 24576 then readMask (setReq s h.val r) h r
        else setReq s h.val { r with fetching := r.fetching - 1 }
    | none => s
  | .stopRec h => match reqOf s h.val with
    | some r =>
        setReq s h.val { r with
          fetching := r.fetching - 1
          stop := stopFields data r.maxNew (reservedFor (rPromptLen r + r.maxNew)) (rPromptLen r) }
    | none => s
  | .entry _ => s
  | .dropped => s

/-- A read of an input has failed: the request ends FAILED with reason FETCH (R274). An entry stays at its head (R528). -/
def inputFailed (s : State) (why : ReadFor) : State :=
  match why with
  | .prompt h => endRequest s h.val .failed 6 0 0 0
  | .maskBits h => endRequest s h.val .failed 6 0 0 0
  | .stopRec h => endRequest s h.val .failed 6 0 0 0
  | .entry _ => s
  | .dropped => s

/-- An entry is 128 B and carries the row's opcode, or none that R271 names. -/
def entryForm (e : Bytes) (opc : Nat) : Bool :=
  decide (e.length = 128) && (cOpc e == opc || !([1, 2, 3, 4, 5, 0x10, 0x20].contains (cOpc e)))
/-- BAD_DESC of an opcode that R271 does not name. -/
def opcBad (e : Bytes) (opc : Nat) : Bool := cOpc e != opc

/-- SUBMIT (R272 to R274). -/
def execSubmit (q : BitVec 16) (index : W32) (entry : Bytes) (s : State) : Out :=
  if !entryForm entry 1 then .fault (.illFormed "SUBMIT")
  else .next (hostCmd s q index entry 0
    (fun s => if opcBad entry 1 then some 0x10 else submitRefusal q.toNat entry s)
    (fun s =>
      let h := freeSlot s
      let r := newRequest s q.toNat entry
      answerCmd (startReads (addRequest s h r) h r) q.toNat entry 1))

/-! CANCEL, MASK, CONTINUE and RELEASE. -/

/-- The common refusals of a command that names a request; `bad` is the form's own. -/
def namedRefusal (e : Bytes) (bad : Bool) (s : State) (k : Nat → Request → Option Nat) : Option Nat :=
  if bad || 15 < cPart e then some 0x10
  else if !servesPart s (cPart e) then some 0x13
  else match findReq s (cPart e) (cReq e) with
    | none => some 0x16
    | some x => k x.1 x.2
def withReq (s : State) (e : Bytes) (k : Nat → Request → State) : State :=
  match findReq s (cPart e) (cReq e) with | some x => k x.1 x.2 | none => s

/-- CANCEL (R285): ALREADY_COMPLETE for a request in a final state; otherwise its completion record carries the answer. One that
finds a cancel pending changes nothing and is ACCEPTED (log entry 136). -/
def execCancel (q : BitVec 16) (index : W32) (entry : Bytes) (s : State) : Out :=
  if !entryForm entry 2 then .fault (.illFormed "CANCEL")
  else .next (hostCmd s q index entry 2
    (fun s => namedRefusal entry (opcBad entry 2 || !zeroBut entry [(0, 1), (2, 1), (4, 4), (0x32, 2)]) s (fun _ _ => none))
    (fun s => withReq s entry (fun h r =>
      if reqFinal r then answerCmd s q.toNat entry 2
      else if r.cancel.isSome then answerCmd s q.toNat entry 1
      else applyCancel s h q (BitVec.ofNat 16 (cCq entry)))))

/-- Index of the next token to be drawn: one in flight is drawn already (R280), but those of a verification wavefront in flight are
not (R303). -/
def nextIndex (r : Request) : Nat := r.tokens.length + (if r.inFlight && r.cycle.isNone then 1 else 0)

/-- MASK (R280). -/
def execMask (q : BitVec 16) (index : W32) (entry : Bytes) (bitmap : Option Bytes) (s : State) : Out :=
  if !entryForm entry 3 || bitmap.any (fun b => b.length != 24576) then .fault (.illFormed "MASK")
  else .next (hostCmd s q index entry 24580
    (fun s => namedRefusal entry
      (opcBad entry 3 || !zeroBut entry [(0, 1), (2, 1), (4, 4), (8, 4), (0x20, 8), (0x32, 2)]) s
      (fun _ r => if reqFinal r || leAt entry 8 4 < nextIndex r then some 0x17
        else if bitmap.isNone then some 0x19 else none))
    (fun s => withReq s entry (fun h _ =>
      answerCmd (applyMask s h (leAt entry 8 4) (bitmap.getD [])) q.toNat entry 1)))

/-- CONTINUE (R292). -/
def execContinueReq (q : BitVec 16) (index : W32) (entry : Bytes) (tokens : Option Bytes) (s : State) : Out :=
  let n := leAt entry 0x10 4
  let maxNew := leAt entry 0x14 4
  if !entryForm entry 4 || tokens.any (fun b => b.length != 4 * n) then .fault (.illFormed "CONTINUE")
  else .next (hostCmd s q index entry (128 + 4 * n)
    (fun s => namedRefusal entry
      (opcBad entry 4 || !zeroBut entry [(0, 1), (2, 1), (4, 4), (0x10, 4), (0x14, 4), (0x18, 8), (0x32, 2)]
        || maxNew == 0 || decide (4194304 < maxNew)) s
      (fun _ r => if !keepPaused r then some 0x18
        else if !lengthOk s (cPart entry) (rLength r + n + maxNew) then some 0x15
        else if tokens.isNone && n != 0 then some 0x19 else none))
    (fun s => withReq s entry (fun h _ =>
      answerCmd (applyContinue s h entry ((chunks 4 (tokens.getD [])).map (fun b => BitVec.ofNat 32 (leNat b)))) q.toNat entry 1)))

/-- RELEASE (R271, R270): the request's completion record answers it. -/
def execRelease (q : BitVec 16) (index : W32) (entry : Bytes) (s : State) : Out :=
  if !entryForm entry 5 then .fault (.illFormed "RELEASE")
  else .next (hostCmd s q index entry 0
    (fun s => namedRefusal entry (opcBad entry 5 || !zeroBut entry [(0, 1), (2, 1), (4, 4), (0x32, 2)]) s
      (fun _ r => if keepPaused r then none else some 0x18))
    (fun s => withReq s entry (fun h _ => applyRelease s h)))

/-! BATCH (R337). -/

def segList (b : Bytes) : List (Nat × Nat) := (chunks 8 b).map (fun x => (leAt x 0 4, leAt x 4 4))
/-- The segments tile the tokens in order, each at least two long. -/
def segsTile : List (Nat × Nat) → Nat → Nat → Bool
  | [], next, n => next == n
  | e :: t, next, n => e.1 == next && decide (2 ≤ e.2) && segsTile t (next + e.2) n
/-- The default bitmap: every token except the first of each segment. -/
def defaultLoss (n : Nat) (segs : List (Nat × Nat)) : Bytes :=
  (List.range (ceilDiv n 8)).map (fun i => BitVec.ofNat 8 (((List.range 8).filter (fun b =>
    decide (8 * i + b < n) && !segs.any (fun e => e.1 == 8 * i + b))).map (fun b => 2 ^ b)).sum)
def batchForm (e : Bytes) : Bool :=
  let n := leAt e 0x10 4
  let k := leAt e 0x14 2
  zeroBut e [(0, 1), (1, 1), (2, 1), (4, 4), (8, 8), (0x10, 4), (0x14, 2), (0x18, 8), (0x20, 8), (0x32, 2)]
    && decide (byteAt e 1 ≤ 1) && decide (cPart e ≤ 15) && decide (2 ≤ n) && decide (n ≤ 65536) && decide (1 ≤ k) && decide (k ≤ 64)

/-- Refusal of a BATCH. -/
def batchRefusal (e : Bytes) (tokens segs loss : Option Bytes) (s : State) : Option Nat :=
  match instarOf s (cPart e) with
  | none => some (if opcBad e 0x10 || !batchForm e then 0x10 else 0x13)
  | some i =>
      let n := leAt e 0x10 4
      let needLoss := leAt e 0x20 8 != 0
      let sl := segList (segs.getD [])
      let bits := if needLoss then loss.getD [] else defaultLoss n sl
      firstOf [(opcBad e 0x10 || !batchForm e, 0x10), (!((jobOf s (cPart e)).any (fun j => j.running)), 0x13),
        (cReq e ≠ i.nextBatch, 0x10), (tokens.isNone || segs.isNone || (needLoss && loss.isNone), 0x19),
        (!segsTile sl 0 n, 0x10), (sl.any (fun x => bitOf (byteAt bits (x.1 / 8)) (x.1 % 8)), 0x10)]

/-- BATCH (R337, R338): the Steward holds at most two batches ahead; a further one waits in its queue. -/
def execBatch (q : BitVec 16) (index : W32) (entry : Bytes) (tokens segs loss : Option Bytes) (s : State) : Out :=
  let n := leAt entry 0x10 4
  let p := cPart entry
  if !entryForm entry 0x10 || tokens.any (fun b => b.length != 4 * n) || segs.any (fun b => b.length != 8 * leAt entry 0x14 2)
      || loss.any (fun b => b.length != ceilDiv n 8) then .fault (.illFormed "BATCH")
  else .next (
    match instarOf s p with
    | some i =>
        if (batchRefusal entry tokens segs loss s).isNone && 2 ≤ i.waiting.length then s
        else
          let tk := tokens.getD []
          let sg := segs.getD []
          let bits := if leAt entry 0x20 8 ≠ 0 then loss.getD [] else defaultLoss n (segList sg)
          let pay := entry ++ tk ++ sg ++ bits
          hostCmd s q index entry pay.length (batchRefusal entry tokens segs loss) (fun s =>
            let b : InstarBatch :=
              { number := cReq entry, last := byteAt entry 1 == 1
                targets := ((List.range n).filter (fun t => bitOf (byteAt bits (t / 8)) (t % 8))).length
                cq := BitVec.ofNat 16 (cCq entry), tokens := tk, segs := sg, loss := bits }
            let s := setInstar s p { i with waiting := i.waiting ++ [b], nextBatch := i.nextBatch + 1 }
            logInput s p 0x0B 0 none none pay)
    | none => hostCmd s q index entry 0 (batchRefusal entry tokens segs loss) id)

/-! REPLAY (R392, R393). -/

/-- Fields of a Logbook record (R390). -/
def lgType (b : Bytes) : Nat := byteAt b 0
def lgLen (b : Bytes) : Nat := leAt b 4 4
def lgReq (b : Bytes) : Nat := leAt b 0x18 4
def lgIndex (b : Bytes) : Nat := leAt b 0x1C 4
def lgPayload (b : Bytes) : Bytes := sliceB b 32 (lgLen b)
def lgResume (b : Bytes) : Bool := byteAt b 1 == 1

/-- Parts of an ADMIT payload: descriptor, epoch, initial draft length, prompt, stop record, mask. -/
def admDesc (b : Bytes) : Bytes := sliceB (lgPayload b) 0 128
def admDraft (b : Bytes) : Nat := leAt (lgPayload b) 160 4
def admPrompt (b : Bytes) : List W32 :=
  (List.range (leAt (admDesc b) 0x10 4)).map (fun i => BitVec.ofNat 32 (leAt (lgPayload b) (164 + 4 * i) 4))
def admStop (b : Bytes) : Bytes := sliceB (lgPayload b) (164 + 4 * leAt (admDesc b) 0x10 4) 576
def admMask (b : Bytes) : Option Bytes :=
  if leAt (admDesc b) 0x20 8 = 0 then none else some (sliceB (lgPayload b) (740 + 4 * leAt (admDesc b) 0x10 4) 24576)
def admLen (d : Bytes) : Nat := 740 + 4 * leAt d 0x10 4 + (if leAt d 0x20 8 = 0 then 0 else 24576)

/-- A record keeps R390, and its payload its TYPE's parts. -/
def recordOk (len : Nat) (b : Bytes) : Bool :=
  let t := lgType b
  let n := lgLen b
  b.length == len && decide (32 ≤ b.length) && b.length == 32 + alignUp n 32 && decide (1 ≤ t) && decide (t ≤ 12)
    && (byteAt b 1 == 0 || (byteAt b 1 == 1 && t == 2)) && decide (byteAt b 2 ≤ 15) && byteAt b 3 == 0
    && (if t = 2 then decide (160 ≤ n) && n == admLen (admDesc b) else if t = 3 then n == 24580 else if t = 4 then n == 2
        else if t = 5 then decide (128 ≤ n) && n == 128 + 4 * leAt (lgPayload b) 0x10 4 else if t = 6 then n == 0 else if t = 9 then n == 33 else true)
def replayForm (e : Bytes) : Bool := zeroBut e [(0, 1), (2, 1), (8, 8), (0x10, 4), (0x32, 2)] && decide (cPart e ≤ 15)

/-- The refusal of a REPLAY before its record is applied. -/
def replayRefusal (q : Nat) (e : Bytes) (record : Option Bytes) (s : State) : Option Nat :=
  if opcBad e 0x20 || !replayForm e then some 0x10
  else if !servesPart s (cPart e) then some 0x13
  else match record with
    | none => some 0x19
    | some b =>
        if !recordOk (leAt e 0x10 4) b then some 0x10
        else if lgType b = 2 then if cPart (admDesc b) ≠ cPart e then some 0x10 else submitRefusal q (admDesc b) s
        else if 3 ≤ lgType b && lgType b ≤ 6 then
          match findReq s (cPart e) (lgReq b) with
          | none => some 0x16
          | some x => if lgType b = 3 && leAt (lgPayload b) 0 4 < nextIndex x.2 then some 0x17 else none
        else none

/-- A request from an ADMIT record: its inputs are in the record. -/
def admitRequest (s : State) (q : Nat) (b : Bytes) : Request :=
  let r := newRequest s q (admDesc b)
  { r with
    fetching := 0, prompt := admPrompt b, mask := admMask b, specD := admDraft b
    stop := stopFields (admStop b) r.maxNew r.reserved (rPromptLen r) }

/-- Apply a record that names a live request, at its INDEX. -/
def replayInput (s : State) (p : Nat) (b : Bytes) : State :=
  match findReq s p (lgReq b) with
  | none => s
  | some x =>
      if reqFinal x.2 then s
      else applyInputs (setReq s x.1 { x.2 with inputs := x.2.inputs ++
        [(if lgType b = 3 then 0 else lgIndex b, BitVec.ofNat 8 (lgType b), lgPayload b)] }) x.1

/-- A DRAFT record of an unload: the draft leaves (R307). That of a load finds the draft that DRAFT_LOAD has loaded (log entry 139). -/
def replayDraft (s : State) (p : Nat) (b : Bytes) : State :=
  match (jobOf s p).bind (fun j => j.draft) with
  | some x => if x.dist && sliceB (lgPayload b) 1 32 = zeros 32 then leaveDraft s p x else s
  | none => s

/-- REPLAY (R392). Records of other inputs change no request. -/
def execReplay (q : BitVec 16) (index : W32) (entry : Bytes) (record : Option Bytes) (s : State) : Out :=
  if !entryForm entry 0x20 || record.any lgResume then .fault (.illFormed "REPLAY")
  else .next (hostCmd s q index entry 0 (replayRefusal q.toNat entry record) (fun s =>
    let b := record.getD []
    let s := if lgType b = 2 then addRequest s (freeSlot s) (admitRequest s q.toNat b)
      else if 3 ≤ lgType b && lgType b ≤ 6 then replayInput s (cPart entry) b
      else if lgType b = 9 then replayDraft s (cPart entry) b
      else s
    answerCmd s q.toNat entry 1))

/-- Refold delivered token records: the chain, or the index whose PLATE_FRAG differs. -/
def refold : List Bytes → Nat → Bytes → Bytes ⊕ Nat
  | [], _, chain => .inl chain
  | t :: rest, i, chain =>
      let next := foldChain chain 0x10 (sliceB t 0 16)
      if leAt t 0x10 4 = leAt next 0 4 && leAt t 4 4 = i then refold rest (i + 1) next else .inr i

/-- A resumed request: its delivered tokens stand, and its cache is to be recomputed. -/
def resumeRequest (s : State) (h : Nat) (r : Request) (tokens : List Bytes) (chain : Bytes) : State :=
  let ids := tokens.map (fun t => BitVec.ofNat 18 (leAt t 8 4))
  let s := addRequest s h { r with
    st := .resuming, chain := chain, tokens := ids, folded := ids.length, resumes := 1
    lastStep := BitVec.ofNat 64 (leAt (tokens.getLast?.getD []) 0x14 4) }
  let s := if rCountPrompt r then r.prompt.foldl (fun s t => countToken s h t.toNat) s else s
  let s := (ids.filter (· != 0x3FFFF#18)).foldl (fun s t => countToken s h t.toNat) s
  let stop := bitsOf (leAt (tokens.getLast?.getD []) 8 4) 20 18
  if stop = 0 then s else if rKeep r then keepStop s h stop 0 else endRequest s h .done 1 stop 0 0

/-- REPLAY_RESUME (R393): an ADMIT record with RESUME, and the request's delivered token records. -/
def execReplayResume (q : BitVec 16) (index : W32) (entry : Bytes) (record : Option Bytes) (tokens : List Bytes) (s : State) :
    Out :=
  if !entryForm entry 0x20 || record.any (fun b => !lgResume b) || tokens.any (fun t => t.length != 32) then
    .fault (.illFormed "REPLAY_RESUME")
  else .next (
    let b := record.getD []
    let r := admitRequest s q.toNat b
    let bad := match replayRefusal q.toNat entry record s with
      | some _ => none
      | none => match refold tokens 0 (startChain s r) with | .inr i => some i | .inl _ => none
    let s := match bad with
      | some i => if cmdDue s q index then stwEvent s 0x6071 2 (some (cPart entry)) (some (rReq r)) (leBytes 4 i) else s
      | none => s
    hostCmd s q index entry (lgLen b)
      (fun s => match replayRefusal q.toNat entry record s with
        | some c => some c
        | none => if bad.isSome then some 0x10 else none)
      (fun s =>
        match refold tokens 0 (startChain s r) with
        | .inl chain =>
            let s := logInput s (cPart entry) 0x02 1 (some (rReq r)) (some tokens.length) (lgPayload b)
            answerCmd (resumeRequest s (freeSlot s) r tokens chain) q.toNat entry 1
        | .inr _ => s))

end Sys2Proof.Machine
end

