-- ==== Sys2Proof/Machine/Admission.lean ====
section
/-! DEFINITION. What the Steward does of itself for requests (ch. 09, 10): admission (R275), token records (R287), parking and
resumption (R261 to R263, R289), expiry (R290) and the prefill share (R277). -/

namespace Sys2Proof.Machine

/-! Positions of a request. -/

/-- The tokens of a request in position order: prompt, appended and committed ones (R284, R293). -/
def contextOf (r : Request) : List W32 :=
  let app := fun (i : Nat) => (r.appended.filter (fun a => a.1 == i)).map (fun a => a.2)
  r.prompt
    ++ (r.tokens.mapIdx (fun i t => (i, t))).flatMap (fun e =>
        app e.1 ++ (if e.2 = 0x3FFFF#18 then [] else [BitVec.ofNat 32 e.2.toNat]))
    ++ app r.tokens.length
/-- Tokens that a CONTINUE brought and after which nothing has been drawn (R292). -/
def newAppended (r : Request) : Nat := (r.appended.filter (fun a => a.1 == r.tokens.length)).length
/-- Positions of a RESUMING request that must hold entries (R263, R270, R365): all but the last, whose own step draws; with new tokens
of a CONTINUE, which a prefill runs, those before them but a drawn token at their end. -/
def cacheNeed (r : Request) : Nat := rLength r - newAppended r - 1

/-! Extents (R247). -/

/-- Place the extents of a request, and its draft's beside them (R299). -/
def placeRequest (s : State) (p h : Nat) (r : Request) (reserved : Nat) : Option State :=
  match jobOf s p with
  | none => none
  | some j =>
      let main := match sweepDesc j with
        | some d => placeExtents d h (rReq r) reserved (physCore s p j) s
        | none => some s
      match j.draft with
      | some x => if rSpec r then
            main.bind (fun s => placeExtents x.file.body.sweep (draftSlot h) (rReq r) reserved (fileCore s p x.file x.detour) s)
          else main
      | none => main

/-- CACHE_WAIT, once per request. -/
def cacheWait (s : State) (h : Nat) (r : Request) : State :=
  if r.waited then s
  else stwEvent (setReq s h { r with waited := true }) 0x6020 0 (some r.part.val) (some (rReq r)) []

/-! Admission (R275). -/

/-- Prefill bucket of a prompt length (R251). -/
def bucketOf (n : Nat) : Nat :=
  ([512, 2048, 8192, 32768, 131072, 524288, 4194304].find? (fun b => decide (n ≤ b))).getD 4194304

/-- An epoch can serve: it is committed or still retiring, and no shard is missing. -/
def epochServes (s : State) (p : Nat) (digest : Bytes) : Bool :=
  let e := (partOf s p).epochs
  e.missing.isEmpty && e.st != .swapping && ((match e.committed with | some m => m.digest == digest | none => false)
    || (match e.retiring with | some m => m.1.digest == digest | none => false))

/-- A request that was accepted before any epoch takes the first that is current. -/
def bindLate (s : State) (h : Nat) : State :=
  match reqOf s h with
  | some r => if r.epoch = zeros 32 then
      let b := bindEpoch s r.part.val
      setReq s h { r with epoch := b.1, bank := b.2 } else s
  | none => s

/-- Queued requests of a class in order of acceptance. -/
def queuedOf (s : State) (p cls : Nat) : List (Nat × Request) :=
  sortBy (fun (a b : Nat × Request) => decide (a.2.accepted < b.2.accepted))
    (s.reqs.filter (fun e => e.2.part.val == p && e.2.st == .queued && e.2.fetching == 0 && rClass e.2 == cls
      && epochServes s p e.2.epoch))

/-- The bulk request that is next: of the bucket being admitted, or of the bucket whose oldest request is oldest. -/
def nextBulk (s : State) (p : Nat) : Option (Nat × Request) :=
  let l := queuedOf s p 1
  (l.find? (fun e => some (bucketOf (rPromptLen e.2)) == (partOf s p).bulkBucket)).or l.head?

/-- Initial draft length (R309). -/
def startDraft (s : State) (p : Nat) : Nat :=
  let t := partOf s p
  let dmax := obj s 0x5110 4
  let a := toRat32 (t.accept.getD (BitVec.ofNat 32 (obj s 0x5110 6)))
  if t.acceptCycles < 1024 then min (obj s 0x5110 5) dmax else if 7 / 10 ≤ a then dmax else if 2 / 5 ≤ a then min 2 dmax else 1

/-- A DISTRIBUTIONAL draft that is involved in a request (R307). -/
def distDraft (s : State) (r : Request) : Option Draft :=
  match draftOf s r.part.val with | some d => if d.dist && rSpec r then some d else none | none => none

/-- Payload of an ADMIT record (R390); the initial draft length enters with a DISTRIBUTIONAL draft only (R305, R307). -/
def admitPayload (s : State) (r : Request) : Bytes :=
  r.desc ++ sliceB r.epoch 0 32 ++ leBytes 4 (if (distDraft s r).isSome then r.specD else 0) ++ r.prompt.flatMap (fun t => leBytes 4 t.toNat) ++ sliceB r.stop 0 576
    ++ r.mask.getD []

/-- A request is admitted: its extents are placed, its chain starts, and its prompt is counted (R275, R281, R384). -/
def admitAt (s : State) (p h : Nat) (r : Request) : State :=
  let s := setReq s h { r with st := .prefill, placed := true, cached := 0, chain := startChain s r }
  let s := logInput s p 0x02 0 (some (rReq r)) (some r.tokens.length) (admitPayload s r)
  let s := match distDraft s r with
    | some d => foldReq s h 0x13 ([1#8] ++ sliceB d.digest 0 32)
    | none => s
  let s := if rCountPrompt r then r.prompt.foldl (fun s t => countToken s h t.toNat) s else s
  let s := if rClass r = 1 then updPart s p (fun t => { t with bulkBucket := some (bucketOf (rPromptLen r)) }) else s
  applyInputs (foldMasks s h) h

/-- The job of a partition takes work: it runs, and nothing holds it. -/
def jobServes (s : State) (p : Nat) : Bool :=
  match jobOf s p with
  | some j => j.running && j.started && !j.frozen && !j.restarting && !j.diaPaused
  | none => false

/-- Try to admit a request; false when its extents find no place. -/
def tryAdmit (s : State) (p : Nat) (e : Nat × Request) : State × Bool :=
  let r := if e.2.specD = 0 then { e.2 with specD := startDraft s p } else e.2
  if !logReady s p (admitPayload s r).length then (logStall s p, true)
  else match placeRequest s p e.1 r r.reserved with
    | some s => (admitAt s p e.1 r, true)
    | none => (cacheWait s e.1 e.2, false)

/-- ADMISSION (R275): one request of the partition; a request that cannot be placed blocks its own class only. -/
def execAdmission (p : PartId) (s : State) : Out :=
  let p := p.val
  .next (
    if !servesPart s p || !jobServes s p || s.stw.admissionStopped || !inRun s || !stewardUp s then s
    else
      let s := (partReqs s p).foldl bindLate s
      match (queuedOf s p 0).head? with
      | some e =>
          let t := tryAdmit s p e
          if t.2 then t.1 else match nextBulk t.1 p with | some b => (tryAdmit t.1 p b).1 | none => t.1
      | none => match nextBulk s p with | some b => (tryAdmit s p b).1 | none => s)

/-! Token records (R287). -/

/-- The oldest record of a request's ring goes to its token queue, with POST_TIME and SEQ. -/
def postToken (s : State) (h : Nat) : State :=
  match reqOf s h with
  | none => s
  | some r => match r.ring with
    | [] => s
    | t :: rest =>
        let q := rTq r
        let n := portOf q
        if !queueRoom s q 2 1 then s
        else match queueAt s q with
          | none => s
          | some w =>
              let bytes := sliceB t 0 0x18 ++ leBytes 4 (localTime s (serviceCc n)) ++ leBytes 2 w.seq.toNat ++ zeros 2
              let s := queueWrite s q 1 bytes
              let s := updWl s n (fun v => { v with queues := v.queues.map (fun e =>
                if e.1 = q then (e.1, { e.2 with seq := e.2.seq + 1 }) else e) })
              flushHeld (setReq s h { r with ring := rest }) (portOf (rCq r))
/-- Every committed token that its queue has room for is delivered (R468). -/
def deliverAll (s : State) : State :=
  s.reqs.foldl (fun s e => (List.range e.2.ring.length).foldl (fun s _ => postToken s e.1) s) s

/-- TOKEN_POST (R287). -/
def execTokenPost (h : Slot) (s : State) : Out := .next (postToken s h.val)

/-! The Cocoon store (R261, R289). -/

/-- The lowest offset of a parking area where n bytes lie free, on 4 KiB boundaries (log entry 21). -/
def parkPlace (images : List (Slot × Nat × Nat)) (length n : Nat) : Option Nat :=
  ((0 :: images.map (fun i => alignUp (i.2.1 + i.2.2) 4096)).filter (fun o => decide (o + n ≤ length)
    && images.all (fun i => decide (i.2.1 + i.2.2 ≤ o) || decide (o + n ≤ i.2.1)))).foldl
      (fun best o => match best with | some b => some (min b o) | none => some o) none

/-- A cocoon image (R261). -/
def cocoonImage (s : State) (p : Nat) (j : Job) (d : SweepDesc) (h : Nat) (r : Request) : Bytes :=
  let head := leBytes 4 0x4E434F43 ++ leBytes 2 1 ++ leBytes 1 (cacheFmt d) ++ zeros 1 ++ leBytes 4 r.cached
    ++ leBytes 2 d.rings.length ++ zeros 2 ++ leBytes 8 (rReq r) ++ zeros 8 ++ sliceB j.digest 0 32 ++ sliceB r.epoch 0 32 ++ zeros 32
  let b := head ++ readCache s p j d h (rReq r) r.reserved r.cached
  b ++ sha256 b

/-- PARK (R289): the cache of a request that has been PAUSED for PARK_DELAY leaves as an image, or COCOON_UNAVAILABLE. -/
def execPark (h : Slot) (s : State) : Out :=
  .next (match reqOf s h.val with
    | none => s
    | some r =>
        let p := r.part.val
        let n := portOf (rTq r)
        if r.st ≠ .paused || !r.placed || r.parked.isSome || r.cached = 0 || r.pause = some .diapause then s
        else match jobOf s p with
          | none => s
          | some j => match sweepDesc j with
            | none => s
            | some d =>
                let len := cocoonBytes d r.cached
                let place := (wlOf s n).area.bind (fun a =>
                  (parkPlace (wlOf s n).images a.2.toNat len).map (fun o => (a.1.toNat, o)))
                match (if portUp s n then place else none) with
                | none => stwEvent s 0x6035 1 (some p) (some (rReq r)) []
                | some a =>
                    let s := hostWrite s n (a.1 + a.2) (cocoonImage s p j d h.val r)
                    let s := updWl s n (fun w => { w with images := w.images ++ [(h, a.2, len)] })
                    let s := dropExtents s p h.val
                    let s := setReq s h.val { r with parked := some len, placed := false }
                    logPause s p h.val)

/-- The first check of R262 that an image fails, by its place in the rule's list. -/
def cocoonFault (j : Job) (d : SweepDesc) (r : Request) (b : Bytes) : Option Nat :=
  firstOf [(leAt b 0 4 ≠ 0x4E434F43, 1), (leAt b 4 2 ≠ 1, 2),
    (b.length < 32 || sliceB b (b.length - 32) 32 ≠ sha256 (b.take (b.length - 32)), 3), (byteAt b 6 ≠ cacheFmt d, 4),
    (leAt b 0xC 2 ≠ d.rings.length, 5), (sliceB b 0x20 32 ≠ sliceB j.digest 0 32, 6), (sliceB b 0x40 32 ≠ sliceB r.epoch 0 32, 7),
    (b.length ≠ cocoonBytes d (leAt b 8 4), 3)]

/-- A resuming request's next state: once its cache is complete DECODE, or PREFILL with new tokens of a CONTINUE (R270). -/
def resumeState (r : Request) : ReqState :=
  if r.cached < cacheNeed r then .resuming else if newAppended r = 0 then .decode else .prefill

/-- The parked image of a request is still in its area (R533). -/
def imageHeld (s : State) (h : Slot) : Bool := s.wl.any (fun e => e.2.images.any (fun i => i.1 == h))

/-- A request's extents are placed for its new length with its entries in them; none when no place is found (R292). -/
def replaceExtents (s : State) (p : Nat) (j : Job) (d : SweepDesc) (h : Nat) (r : Request) (want : Nat) : Option State :=
  let body := readCache s p j d h (rReq r) r.reserved r.cached
  (placeRequest (dropExtents s p h) p h r want).map (fun s => writeCache s p j d h (rReq r) want r.cached body)

/-- COCOON_IMPORT (R262, R263): a RESUMING request gets its cache: in place, from its image, or by a recomputation, for which no
image is given. It waits while its extents find no place. -/
def execCocoonImport (h : Slot) (image : Option Bytes) (s : State) : Out :=
  .next (match reqOf s h.val with
    | none => s
    | some r =>
        let p := r.part.val
        if r.st ≠ .resuming || !jobServes s p then s
        else match jobOf s p with
          | none => s
          | some j => match sweepDesc j with
            | none => s
            | some d =>
                let want := leAt r.stop 0x2C 4
                let finish := fun (s : State) (cached : Nat) =>
                  let r := { r with placed := true, reserved := want, cached := cached, parked := none }
                  setReq (dropImage s h.val) h.val { r with st := resumeState r }
                if r.placed then
                  if want = r.reserved then finish s r.cached
                  else match replaceExtents s p j d h.val r want with
                    | some s => finish s r.cached
                    | none => cacheWait s h.val r
                else match placeRequest s p h.val r want with
                  | none => cacheWait s h.val r
                  | some t => match (if r.parked.isSome && imageHeld s h then image else none) with
                    | none => finish t 0
                    | some b => match cocoonFault j d r b with
                      | some _ =>
                          let f := freeBytes t 1
                          finish (stwEvent f.2 0x6021 1 (some p) (some (rReq r)) f.1) 0
                      | none =>
                          let len := leAt b 8 4
                          finish (writeCache t p j d h.val (rReq r) want len (b.drop 0x80)) len)

/-- TTL_EXPIRE (R290, R466). -/
def execTtlExpire (h : Slot) (s : State) : Out :=
  .next (match reqOf s h.val with
    | none => s
    | some r =>
        if r.st ≠ .paused || r.pause = some .diapause then s
        else if !logReady s r.part.val 2 then logStall s r.part.val
        else expireReq s h.val)

/-! The prefill share (R277). -/

/-- One period of a partition's share. -/
def sharePeriod (s : State) (p : Nat) : State :=
  let mine := s.reqs.filter (fun e => e.2.part.val == p)
  let wait := (mine.map (fun e =>
    if e.2.st = .prefill then rLength e.2 - e.2.cached
    else if e.2.st = .queued && e.2.fetching == 0 && epochServes s p e.2.epoch then rPromptLen e.2 else 0)).sum
  let d := (mine.filter (fun e => e.2.st == .decode)).length
  let top := obj s 0x5200 6
  let target := if wait = 0 then 0 else if d = 0 then top else rneDiv (16 * wait) (wait + obj s 0x5200 7 * d)
  let k := shareK s p
  let k' := min top (if k + 2 < target then k + 2 else if target + 2 < k then k - 2 else target)
  let n := (partOf s p).sharePeriods + (if 0 < wait && 0 < d then 1 else 0)
  updPart s p (fun t => { t with share := some k', sharePeriods := n, shareWarm := t.shareWarm || decide (16 ≤ n) })

/-- SHARE_UPDATE (R277): every 2 ms of the Steward's local time, under SHARE_MODE ADAPTIVE. -/
def execShareUpdate (s : State) : Out :=
  .next (if obj s 0x5200 4 = 0 || !stewardUp s then s
    else (s.parts.map (fun e => e.1)).foldl (fun s p => if servesPart s p then sharePeriod s p else s) s)

end Sys2Proof.Machine
end

