-- ==== Sys2Proof/Machine/HlPorts.lean ====
section
/-! DEFINITION. What a Heliostat port does of itself (ch. 24): entry to DOWN and RETRAIN (R541), what the loss of a link takes with it
(R389, R547), violations and quarantine (R549). -/

namespace Sys2Proof.Machine

/-- The flit layer and the peer of a port that has no link. -/
def hlLinkReset (h : HlState) : HlState :=
  { h with
    lanes := 0, gen := 0, txSeq := 0, rxSeq := 0, unacked := [], replays := 0, replayTimes := [], lastAck := none, failures := 0, peer := [], own := []
    draining := false, sentStep := none, ackedStep := none, tapsWarm := false, updates := 0 }

/-- A pipeline job's hops cross a port. -/
def hopsCross (s : State) (d : Nat) : Bool :=
  let h := hlOf s d
  (h.sentStep.isSome || h.ackedStep.isSome) && match (sitePart s d).bind (jobOf s) with | some j => j.running | none => false

/-- What follows when a port that was in PIPELINE has lost its link: its pipeline job fails hard (R547), a Binocular pairing freezes
(R389), and the chain looks at its links (R321). -/
def hlLost (s : State) (d : Nat) (crossed : Bool) : State :=
  let s := match (if crossed then sitePart s d else none) with
    | some p => restartBegin (hlEvent s d 0x7036 2 []) p 0x7036
    | none => s
  let s := if obj s 0x4500 1 = d && s.binoState = 1 then
      let p := obj s 0x4500 2
      freeze s p 3 (match jobOf s p with | some j => j.nextStep | none => 0) 0xFFFF
    else s
  chainLook s

/-- Entry to DOWN (R541). -/
def hlGoDown (s : State) (d : Nat) : State :=
  let crossed := hopsCross s d
  let s := updHl s d (fun h => { hlLinkReset h with st := 0 })
  hlLost (hlEvent s d 0x7031 1 []) d crossed

/-- Quarantine (R549): the third within 3,600 s holds until HL_PORT_RELEASE. -/
def hlQuarantine (s : State) (d : Nat) : State :=
  if (hlOf s d).st = 7 then s
  else
    let crossed := hopsCross s d
    let s := updHl s d (fun h =>
      let ts := recent s 3600 h.quarTimes ++ [s.units]
      { hlLinkReset h with st := 7, quarTimes := ts, held := decide (3 ≤ ts.length) })
    hlLost (hlEvent s d 0x7035 2 []) d crossed

/-- A counter of HL_VIOL_COUNTERS: MALFORMED, AUTH, CLASS, CREDIT, PROTOCOL, RETRAIN (R552). -/
def hlCount (s : State) (d counter : Nat) : State :=
  updHl s d (fun h => { h with viols := updN 0#32 h.viols counter (fun v => BitVec.ofNat 32 (satAdd32 v.toNat 1)) })
/-- Violations of a port in the present window. -/
def hlWindow (s : State) (d : Nat) : List Nat :=
  (hlOf s d).violTimes.filter (fun t => decide (s.units < t + obj s 0x4D80 1 * (unitsPerSec / 1000)))
/-- A violation that counts to HL_VIOL_LIMIT (R549). -/
def hlViolation (s : State) (d counter : Nat) : State :=
  let ts := hlWindow s d ++ [s.units]
  let s := hlEvent (updHl (hlCount s d counter) d (fun h => { h with violTimes := ts })) d 0x7034 1 []
  if obj s 0x4D80 2 ≤ ts.length then hlQuarantine s d else s

def bumpHlErr (s : State) (d hi lo : Nat) : State := setDreg s d 0x508 (bumpField (dreg s d 0x508) hi lo 1)

/-- A failed authentication (R543, R549): DOWN, and three within 60 s are a quarantine. -/
def hlAuthFail (s : State) (d : Nat) : State :=
  let ts := recent s 60 (hlOf s d).authTimes ++ [s.units]
  let s := bumpHlErr (hlCount s d 1) d 7 0
  let s := hlGoDown (updHl s d (fun h => { h with authTimes := ts })) d
  let s := hlEvent s d 0x8040 2 []
  if 3 ≤ ts.length then hlQuarantine s d else s

/-- Entry to RETRAIN (R541, R542, R549). The link is not lost: it comes back to the state before, or goes DOWN. -/
def hlRetrainNow (s : State) (d : Nat) : State :=
  let warm := (hlOf s d).tapsWarm
  let s := updHl s d (fun h => { h with before := h.st, st := 6, replays := 0, replayTimes := [] })
  let s := hlEvent (bumpHlErr s d 15 8) d 0x7032 0 []
  if !warm then s
  else
    let ts := recent s 60 (hlOf s d).retrainTimes ++ [s.units]
    let s := updHl (hlCount s d 5) d (fun h => { h with retrainTimes := ts })
    if 3 ≤ ts.length then hlQuarantine s d else s

/-! Versions (R543 to R545). HL_PEER holds IDREV and the firmware digest of the peer one after the other (R552). -/

def sameVersion (s : State) (d : Nat) : Bool :=
  sliceB (hlOf s d).peer 16 40 == leBytes 8 Config.idrev.toNat ++ sliceB (fwDigest s) 0 32

/-- A link in TRANSIT or PIPELINE decides its state again after an update (R545). -/
def redecide (s : State) (d : Nat) : State :=
  let st := (hlOf s d).st
  if st = 4 then (if sameVersion s d then hlUp s d 5 else s)
  else if st = 5 then
    if sameVersion s d then updHl s d (fun h => { h with draining := false })
    else if hopsCross s d then updHl s d (fun h => { h with draining := true })
    else hlEvent (hlUp s d 4) d 0x7033 0 []
  else s

end Sys2Proof.Machine
end

