-- ==== Sys2Proof/Machine/ResetOps.lean ====
section
/-! DEFINITION. Module resets (R462, R463) and the ends of a re-energise (R421, R422), with the boots of control cores that follow. -/

namespace Sys2Proof.Machine

/-! Boots. -/

/-- ME_LIMITS.LOCAL: the lesser of the thermal limit and, with one phase lost, 48 (R425, R442). -/
def setLocal (s : State) (k : Nat) : State :=
  let lost := bitCount (bitsOf (kreg s k 0x58) 19 16) 4
  let v := min (clOf s k).lth (if lost = 0 then 64 else 48)
  regrant (setKreg s k 0x20 (setBits (kreg s k 0x20) 6 0 v)) k

/-- A cluster control core starts in its boot ROM: LOCAL_TIME, the thermal limit and AVS start again (R401, R442, R461). -/
def bootCluster (s : State) (k : Nat) : State :=
  let s := updCc s k (fun _ => { CcState.reset with boot := s.units })
  let s := updCl s k (fun c => { c with lth := 64, coolSince := none, slackHigh := 0 })
  setTarget (setKreg s k 0x50 (setBits (kreg s k 0x50) 25 16 ((calOf s 1).getD k 750))) k
/-- Every cluster control core of a powered site starts. -/
def bootClusters (s : State) : State :=
  (poweredSites s).foldl (fun s d => (List.range 16).foldl (fun s i => bootCluster s (16 * d + i)) s) s
/-- The control cores of the I/O dies start. -/
def bootIo (s : State) : State :=
  (List.range 32).foldl (fun s i => updCc s (1024 + i) (fun _ => { CcState.reset with boot := s.units })) s

/-- The identity check of a security unit (R558). -/
def identityCheck (s : State) : State :=
  if identityOk (ownChain s) then updSec s (fun q => { q with idReady := true, idFailed := false })
  else agentEvent (updSec s (fun q => { q with idReady := false, idFailed := true })) 0x8053 3 []

/-- Partitions whose epochs are recovered after a reset (R332). -/
def validParts (s : State) : List Nat := (s.parts.filter (fun e => pdValid e.2.pdef.toNat)).map (fun e => e.1)

/-! The end of a re-energise (R420 to R422). -/

def refuseReen (s : State) (d reason : Nat) : State :=
  finderEvent s 0x1032 1 (dieUnit d 0) [BitVec.ofNat 8 reason, BitVec.ofNat 8 d]
/-- Clusters of sites. -/
def clustersOf (ds : List Nat) : List Nat := ds.flatMap (fun d => (List.range 16).map (· + 16 * d))
/-- The Finder ends the neighbour window (R421). -/
def closeWindow (s : State) : State :=
  match s.fin.reen with
  | some (d, st, true) =>
      updFin (finderBroadcast s 1 0 (clustersOf s.fin.reenNear)) (fun f => { f with reen := some (d, st, false), reenNear := [] })
  | _ => s
/-- A re-energise ends with its site fenced and its converter open. -/
def endReen (s : State) (reason state : Nat) : State :=
  match s.fin.reen with
  | none => s
  | some (d, _, _) =>
      refuseReen (openSite (updFin (closeWindow s) (fun f => { f with reen := none })) d state) d reason

/-! Module resets. -/

/-- Every Heliostat port is DOWN: the cores that run the ports are reset. -/
def hlReset (s : State) : State :=
  chainLook { s with sites := s.sites.map (fun e => (e.1, { e.2 with hl := HlState.reset })) }

/-- Class W: the compute dies' logic and scratchpads; the vaults keep their contents in self-retain (R462). -/
def resetW (s : State) : State :=
  let s := retainVaults (resetCompute s) true
  hlReset { s with acks := s.acks.filter (fun t => 16384 ≤ t.router) }

/-- A partition after the loss of the Steward's state: its job is gone, what the job left in the vaults is still to be cleared (R565),
and everything that learns starts from its seed (R461). -/
def partLost (s : State) (t : PartState) : PartState :=
  { PartState.reset with
    pdef := t.pdef, epochs := t.epochs
    clearing := t.clearing || t.job.isSome
    clearDesc := t.clearDesc ++ match t.job with
      | some j => (sweepDesc j).toList ++ (j.draft.map (fun x => x.file.body.sweep)).toList
      | none => []
    thetaNext := t.thetaNext, thetaWarm := t.thetaWarm, accept := some (BitVec.ofNat 32 (obj s 0x5110 6)) }

/-- Events that the Finder raised outlive the control cores. -/
def finderEvents (es : List EventRec) : List EventRec :=
  es.filter (fun e => e.reporter == BitVec.ofNat 16 (reporterWord finderId))

/-- What is lost with the I/O dies' control cores, the Steward's state and the request table (R462 class M). -/
def loseIo (s : State) : State :=
  let s := closeSessions (closeDebug s) (fun e => match e.path with | .wenlink _ => true | _ => false)
  { s with
    ccs := [], wl := [], reqs := [], ctrl := [], lowHalf := [], events := finderEvents s.events, binoState := 0
    objs := s.objs.filter (fun e => match objAt (e.1 / 256) (e.1 % 256) with | some o => o.stored | none => false)
    parts := s.parts.map (fun e => (e.1, partLost s e.2))
    stw := { Steward.reset with fences := s.stw.fences, retired := s.stw.retired }
    fin := { s.fin with ready := false, testsDue := [], recoverDue := [], diaWait := false, wakeWait := none }
    sec := { s.sec with quote := [], quoteSt := 0, nonce := [] } }

/-- Class M. -/
def resetM (s : State) : State := loseIo (resetW s)

/-- Class C: everything outside the Finder and the parameter store; the fence table and the retired frames stay (R462). -/
def resetC (s : State) (siteSt : Nat) : State :=
  let s := loseIo (resetCompute s)
  let s := (poweredSites s).foldl (fun s d => openSite s d siteSt) s
  { s with
    routers := s.routers.filter (fun e => e.1 < 16384), mesh := [], acks := []
    parts := s.parts.map (fun e => (e.1, { e.2 with clearing := false, clearDesc := [] }))
    fin := { s.fin with ioPowered := false, phase := 0 } }

/-- Hold a module reset. It replaces one of lower class and yields to none of equal or higher class (R463). A re-energise ends with
reason RESET (R422). -/
def holdReset (s : State) (cls cause : Nat) (supply : Bool) : State :=
  let old := match s.fin.held with | some h => h.1.val | none => 0
  if cls ≤ old then s
  else
    let s := endReen s 8 0
    let s := if cls = 1 then resetW s else if cls = 2 then resetM s else resetC s 0
    setMainIn (updFin s (fun f => { f with
      held := some (Fin.ofNat 4 cls, BitVec.ofNat 16 cause), heldSupply := supply || f.heldSupply }))

/-- Eclosion goes back to waiting: every converter opens (R459). -/
def abortEclosion (s : State) : State :=
  if s.fin.ready || s.fin.phase = 0 || !s.fin.eclosing then s else resetC s 0

end Sys2Proof.Machine
end

