-- ==== Sys2Proof/Machine/PowerCmds.lean ====
section
/-! DEFINITION. Clocks and power (ch. 16, 17): losses of lock and of REFCLK, sags, the division of the cap, site trips and
re-energises, VCORE phases, droop and AVS. -/

namespace Sys2Proof.Machine

/-! Clocks. -/

/-- MERIDIAN_UNLOCK (R396, R397): the couplings open, the site's clocks stop, and the site is fenced. -/
def execMeridianUnlock (site : SiteId) (s : State) : Out :=
  let d := site.val
  .next (if !(siteSt s d).powered || !bitOf (dreg s d 0x300) 31 then s
    else
      let s := setMeridian s d false true
      let s := (List.range 16).foldl (fun s i => updCl s (16 * d + i) (fun c => { c with clocksOff := true })) s
      let s := finderEvent s 0x3040 3 (dieUnit d 0) []
      recouple (windowEvents s (fenceAll s (dieUnit d 0) 0x3040)))

/-- REFCLK_FAIL (R398): class M is held until REFCLK has been within limits. -/
def execRefclkFail (s : State) : Out :=
  .next (if !s.fin.standby12 then s else holdReset (abortEclosion (finderEvent s 0x3042 3 (moduleUnit 0) [])) 2 0x3042 false)

/-! The main input. -/

/-- SAG_WARN (R413, R421): the doorbell halves every share, the cap in force is halved, and a running neighbour window ends with its
re-energise. The rewrite of the shares is SHARE_DIVIDE's. -/
def execSagWarn (millivolts : Nat) (s : State) : Out :=
  .next (if !s.fin.standby12 || s.fin.sagWarn || obj s 0x4700 3 ≤ millivolts then s
    else
      let s := noteInput (finderBroadcast s 1 1 allCcs) millivolts
      let s := match s.fin.reen with | some (_, _, true) => endReen s 3 0 | _ => s
      setMainIn (updFin (finderEvent s 0x1010 1 (moduleUnit 0) []) (fun f => { f with sagWarn := true })))

/-- SAG_CLEAR (R414). -/
def execSagClear (s : State) : Out :=
  .next (if !s.fin.sagWarn then s
    else divideCap (setMainIn (updFin (finderEvent s 0x1012 0 (moduleUnit 0) []) (fun f => { f with sagWarn := false }))))

/-- SAG_RESET (R415, R459, R462). -/
def execSagReset (millivolts : Nat) (s : State) : Out :=
  .next (if !s.fin.standby12 || obj s 0x4700 4 ≤ millivolts then s
    else holdReset (abortEclosion (finderEvent (noteInput s millivolts) 0x1011 3 (moduleUnit 0) [])) 1 0x1011 true)

/-- OVERVOLTAGE (R409, R459, R462): every site converter stops. -/
def execOvervoltage (millivolts : Nat) (s : State) : Out :=
  .next (if !s.fin.standby12 || millivolts ≤ 59000 then s
    else holdReset (abortEclosion (finderEvent (noteInput s millivolts) 0x1013 3 (moduleUnit 0) [])) 3 0x1013 true)

/-- INPUT_COLLAPSE (R462, R463). -/
def execInputCollapse (s : State) : Out :=
  .next (match s.fin.held with
    | some h => if h.1 = 1 || h.1 = 2 then holdReset (finderEvent s 0x1014 3 (moduleUnit 0) []) 3 0x1014 false else s
    | none => s)

/-- The module falls to STANDBY: nothing but the Finder and the parameter store keeps its state (R454, R468). -/
def fallToStandby (s : State) (commanded : Bool) : State :=
  let s := resetC (endReen s 8 0) 0
  setMainIn (updFin s (fun f => { f with
    pwr := 3, phase := 0, held := none, heldSupply := false, sagWarn := false, eclosing := false, eclosionWaited := false
    standbyCommanded := commanded, stop := false, heldOff := false }))

/-- MAIN_INPUT_LOSS (R468). -/
def execMainInputLoss (s : State) : Out :=
  .next (if !s.fin.standby12 then s else fallToStandby (noteInput s 0) s.fin.standbyCommanded)

/-- SHARE_DIVIDE (R411, R412): P_base is what the Finder measured with no ME busy. -/
def execShareDivide (pBase : F32) (s : State) : Out :=
  .next (if !s.fin.standby12 || !isFinite32 pBase then s else divideCap (updFin s (fun f => { f with pBase := toRat32 pBase })))

/-! Site protection. -/

/-- A site's converter has opened: it is tripped and fenced, and every job whose partition includes it restarts (R418). -/
def siteLost (s : State) (d code : Nat) : State :=
  let s := openSite s d 2
  let s := setIreg s 64 (sitePwrOff d) (bumpField (sitePwr s d) 15 8 1)
  let s := windowEvents s (fenceAll s (dieUnit d 0) code)
  (s.parts.map (fun e => e.1)).foldl (fun s p =>
    if (partSites s p).contains d then
      match jobOf s p with | some j => if j.restarting then s else restartBegin s p code | none => s
    else s) s
def tripSite (s : State) (d cause : Nat) : State :=
  siteLost (finderEvent s 0x1030 3 (dieUnit d 0) [BitVec.ofNat 8 d, BitVec.ofNat 8 cause]) d 0x1030

/-- SITE_TRIP (R417, R418, R422). -/
def execSiteTrip (site : SiteId) (undervoltage : Bool) (s : State) : Out :=
  let d := site.val
  .next (if !(siteSt s d).powered then s
    else
      let own := match s.fin.reen with | some r => r.1 == d | none => false
      let s := if own then endReen s 2 2 else s
      tripSite s d (if undervoltage then 2 else 1))

/-! Re-energise. -/

/-- Why a re-energise is refused at the command (R422): the lowest reason that holds. -/
def reenReason (s : State) (d : Nat) : Option Nat :=
  firstOf [(!siteFenced s d, 1), ((siteSt s d).tripLatch, 2), (s.fin.sagWarn, 3), (s.fin.reen.isSome, 6),
    (s.fin.stop || s.fin.heldOff, 7), (s.fin.held.isSome, 8)]

/-- The sequence of R420: the window opens, the site is probed and ramps. -/
def startReen (s : State) (d : Nat) (probe : RampResult) : State :=
  let s := if (siteSt s d).powered then openSite s d 0 else s
  let near := aroundSites d
  let s := finderBroadcast s 1 2 (clustersOf near)
  let s := updFin (setSiteState s d 3) (fun f => { f with reen := some (d, 1, true), reenNear := near })
  match probe with
  | .probeFail => endReen s 2 0
  | .tripOver => endReen (finderEvent s 0x1030 3 (dieUnit d 0) [BitVec.ofNat 8 d, 1#8]) 2 2
  | .tripUnder => endReen (finderEvent s 0x1030 3 (dieUnit d 0) [BitVec.ofNat 8 d, 2#8]) 2 2
  | .noSettle => updSite (setSiteState s d 4) d (fun t => { t with powered := true })
  | .ok =>
      let s := setSiteState (energiseSite s d) d 4
      let s := (List.range 16).foldl (fun s i => mailImage (bootCluster s (16 * d + i)) (16 * d + i)) s
      updFin s (fun f => { f with reen := some (d, 2, true) })

/-- RE_ENERGISE (R420 to R422). -/
def execReEnergise (req : DapReq) (site : Byte) (probe : RampResult) (s : State) : Out :=
  let d := site.toNat
  .next (dapWrite s req 0x4700 5 (leBytes 1 d) (fun _ _ => if 63 < d then stRange else stOk)
    (fun _ s => match reenReason s d with
      | some r => refuseReen s d r
      | none => startReen s d probe))

/-- REENERGISE_WINDOW_CLOSE (R420, R421): VCORE has settled and the window's time is over. -/
def execReenergiseWindowClose (s : State) : Out :=
  .next (match s.fin.reen with
    | some (d, 2, true) => updFin (closeWindow s) (fun f => { f with reen := some (d, 3, false) })
    | _ => s)

/-- REENERGISE_SETTLE_TIMEOUT (R420, R422): the converter opens, with reason SETTLE. -/
def execReenergiseSettleTimeout (s : State) : Out :=
  .next (match s.fin.reen with | some (_, 1, _) => endReen s 4 0 | _ => s)

/-- A link beside a returned unit is up again unless something else holds it down: its own fence, or a fence of a site at one of its
ends. -/
def reopenLink (s : State) (e : Nat × Nat) : State :=
  let other := match linkEnd e.1 e.2 with | some x => siteFenced s (siteOf x.1) | none => false
  if fenced s (linkUnit e.1 e.2) || other || siteFenced s (siteOf e.1) then s else bothEnds s e.1 e.2 false

/-- The partition whose rectangle holds a site. -/
def rectPart (s : State) (d : Nat) : Option PartId :=
  (s.parts.find? (fun e => (pdSites e.2.pdef.toNat).contains d)).map (fun e => Fin.ofNat 16 e.1)

/-- Fences of a site that its return takes away: its own, and those of clusters that lost phases (R420, R425). -/
def liftSite (s : State) (d : Nat) : State :=
  let gone := fun (f : FenceEntry) => f.unit.toNat == dieUnit d 0
    || (uDie f.unit.toNat == d && uScope f.unit.toNat == 1 && (f.cause == 0x1021#16 || f.cause == 0x1022#16))
  let back := (s.stw.fences.filter gone).map (fun f => f.unit.toNat)
  let s := updStw s (fun t => { t with fences := t.fences.filter (fun f => !gone f) })
  let s := (List.range 16).foldl (fun s i =>
    let f := kreg s (16 * d + i) 0x40
    setKreg s (16 * d + i) 0x40 (f - (f &&& 1))) s
  let s := (back.filter (fun u => uScope u == 1)).foldl (fun s u =>
    let k := 16 * d + uCluster u
    let f := kreg s k 0x40
    (coresOf k).foldl (fun s c => if fenced s (coreUnit c 0 0) then s else openCore s c) (setKreg s k 0x40 (f - (f &&& 2)))) s
  (facingPorts d).foldl reopenLink s

/-- REENERGISE_DONE (R420, R422): the site is clear and tested. -/
def execReenergiseDone (failed : List (Fin 256)) (s : State) : Out :=
  .next (match s.fin.reen with
    | some (d, 3, _) =>
        let cs := failed.map (fun i => coreAt d (i.val / 16) (i.val % 16))
        if !cs.isEmpty then
          endReen (cs.foldl (fun s c => raise s 0x5032 2 (coreUnit c 0 0) (clusterOf c) []) s) 5 0
        else
          let s := liftSite (updFin s (fun f => { f with reen := none })) d
          let s := match rectPart s d with
            | some p => joinSite s d p
            | none => updSite s d (fun t => { t with lastPart := none })
          recouple (finderEvent (setSiteState s d 1) 0x1031 0 (dieUnit d 0) [BitVec.ofNat 8 d])
    | _ => s)

/-! VCORE (R424 to R427). -/

/-- Ports of routers outside a cluster that face it. -/
def clusterFacing (k : Nat) : List (Nat × Nat) :=
  ((coresOf k).flatMap (fun c => [1, 2, 3, 4].filterMap (fun p => linkEnd c p))).filter
    (fun e => decide (e.1 < 16384) && clusterOf e.1 != k)

/-- Two or more phases are lost: the clocks stop, and with three or four the rail is isolated and the logic loses its contents. -/
def loseCluster (s : State) (k : Nat) (dark : Bool) : State :=
  let d := k / 16
  let s := updCl s k (fun c => { c with clocksOff := true })
  let v := kreg s k 0x58
  let s := setKreg s k 0x58 (setBits v 4 3 (if dark then 1 else 2))
  let s := if !dark then s
    else (clusterFacing k).foldl severLink { s with
      cores := s.cores.filter (fun e => clusterOf e.1 != k)
      routers := s.routers.map (fun e => if e.1 < 16384 && clusterOf e.1 == k then (e.1, routerDark e.2) else e)
      ccs := s.ccs.filter (fun e => e.1 != k)
      mesh := s.mesh.filter (fun h => !(decide (h.router < 16384) && clusterOf h.router == k)) }
  let code := if dark then 0x1022 else 0x1021
  let old := finderEvent s code 2 (clusterUnit k 0) []
  let s := windowEvents old (fenceAll old (clusterUnit k 0) code)
  if siteFenced s d then s else (clusterFacing k).foldl (fun s e => bothEnds s e.1 e.2 true) s

/-- PHASE_LOST (R424, R425, R429). -/
def execPhaseLost (cl : ClusterId) (phases : List (Fin 4)) (cause : Fin 3) (s : State) : Out :=
  let k := cl.val
  let v := kreg s k 0x58
  let was := bitsOf v 19 16
  let lost := phases.foldl (fun m p => m ||| 2 ^ p.val) was
  let n := bitCount lost 4
  .next (if !(siteSt s (k / 16)).powered || lost = was then s
    else
      let s := setKreg s k 0x58 (setBits (setBits v 19 16 lost) 15 12 (cause.val + 1))
      let s := doorbellAt s k 0x041 (bitsOf (kreg s k 0x58) 19 12)
      if n = 1 then raise (setLocal s k) 0x1020 1 (clusterUnit k 0) k []
      else if n = 2 then loseCluster s k false
      else if bitOf v 3 then s
      else loseCluster s k true)

/-- DROOP_RESPONSE (R400, R426, R429). -/
def execDroopResponse (cl : ClusterId) (obs : DroopObs) (s : State) : Out :=
  let k := cl.val
  let d := k / 16
  .next (if !(siteSt s d).powered || (clOf s k).clocksOff then s
    else
      let v := kreg s k 0x58
      let ring := fun (s : State) => doorbellAt s k 0x041 (bitsOf (kreg s k 0x58) 19 12)
      match obs with
      | .below25 => ring (swallowDroop (setKreg s k 0x58 (setBits v 7 7 1)) d 8)
      | .below45 => ring (swallowDroop (setKreg s k 0x58 (setBits v 7 7 1)) d 24)
      | .above25 => ring (setKreg s k 0x58 (setBits v 6 6 1))
      | .settled => swallowDroop s d 0)

/-- The AVS setpoint after a period (R427), and the periods in a row with slack above 12. -/
def avsNext (avs slack high : Nat) : Nat × Nat :=
  if slack < 4 then (min 850 (avs + 5), 0)
  else if 12 < slack then (if high + 1 = 8 then (max 550 (avs - 5), 0) else (avs, high + 1))
  else (avs, 0)

/-- AVS_UPDATE (R427, R428, R429). Eight periods in a row lower the setpoint once, and then the count starts again. -/
def execAvsUpdate (cl : ClusterId) (slackMin : Byte) (s : State) : Out :=
  let k := cl.val
  let cc := ccOf s k
  .next (if !(siteSt s (k / 16)).powered || (clOf s k).clocksOff || cc.image.isNone || cc.parked then s
    else
      let n := avsNext (bitsOf (kreg s k 0x50) 25 16) slackMin.toNat (clOf s k).slackHigh
      let s := updCl s k (fun c => { c with slackHigh := n.2 })
      let s := setTarget (setKreg s k 0x50 (setBits (kreg s k 0x50) 25 16 n.1)) k
      let v := setBits (kreg s k 0x58) 27 20 slackMin.toNat
      let limit := n.1 == 850 && decide (slackMin.toNat < 4)
      let was := bitOf v 5
      let s := setKreg s k 0x58 (setBits v 5 5 (if limit then 1 else 0))
      if limit && !was then
        doorbellAt (raiseSwallow (raise s 0x1041 1 (clusterUnit k 0) k []) (k / 16)) k 0x041 (bitsOf v 19 12)
      else s)

end Sys2Proof.Machine
end

