-- ==== Sys2Proof/Machine/MatrixCmds.lean ====
section
/-! DEFINITION. MMA and MMA.T (R86 to R96, R191 to R193, R99): narrow and reference arithmetic, token masks, accumulation. -/

namespace Sys2Proof.Machine

/-! The MMA descriptor. -/

def mdSa (d : Nat) : F32 := BitVec.ofNat 32 (bitsOf d 255 224)
def mdAct (d : Nat) : Nat := bitsOf d 223 206
def mdDst (d : Nat) : Nat := bitsOf d 205 188
def mdMask (d : Nat) : Nat := bitsOf d 187 170
def mdRows (d : Nat) : Nat := bitsOf d 169 154
def mdNblk (d : Nat) : Nat := bitsOf d 153 138
def mdTokens (d : Nat) : Nat := bitsOf d 137 129
def mdAfmt (d : Nat) : Nat := bitsOf d 128 127
def mdAslot (d : Nat) : Nat := bitsOf d 126 111
def mdPitch (d : Nat) : Nat := bitsOf d 110 95

/-- Bytes of one token's activation operand, from its first byte (R192). -/
def actSpan (transposed : Bool) (d : Nat) : Nat :=
  if transposed then 2 * mdRows d
  else if mdAfmt d < 2 then 64 * mdAslot d * ceilDiv (mdNblk d) 64
  else (if mdAfmt d = 2 then 2 else 4) * 32 * mdNblk d
/-- First byte of token t's activation operand (R192). -/
def actAddr (transposed : Bool) (d t : Nat) : Nat :=
  if !transposed && mdAfmt d < 2 then 8 * mdAct d + t * ceilDiv (mdNblk d) 64 * mdAslot d * 64
  else 8 * mdAct d + t * mdAslot d * 64
/-- Outputs of one token, and where they start (R192). -/
def outCount (transposed : Bool) (d : Nat) : Nat := if transposed then 32 * mdNblk d else mdRows d
def outAddr (d t : Nat) : Nat := 8 * mdDst d + t * mdPitch d * 8

/-- The check of a descriptor against MOD (R59, R193, R233): its error and operand code. -/
def mdError (s : State) (c : Nat) (transposed ref : Bool) (d : Nat) : Option Nat :=
  if transposed && coreLevel s c = 2 then some eLevel
  else if mdTokens d = 0 || 256 < mdTokens d || mdRows d = 0 || mdNblk d = 0 || mdPitch d < ceilDiv (mdRows d) 2 then some eDesc
  else if transposed && mdAfmt d ≠ 2 then some ePairing
  else if mdAfmt d = 3 && !ref then some ePairing
  else if 2 ≤ mdAfmt d && mdSa d != one32 then some eDesc
  else if mdAfmt d < 2 && !scaleOk (mdSa d) then some eScale
  else none

/-- The exact values of block j of a tensor, tensor scale aside. -/
def weightBlock (t : StreamTensor) (j : Nat) : List FV :=
  if t.bf16 then ((t.values.drop (32 * j)).take 32).map (fun b => fv (ofBf16 b))
  else match t.blocks[j]? with
    | some b => blockValues b.header.toNat b.payload b.lane
    | none => List.replicate 32 (FV.fin false 0)

/-- The exact values of the NBLK activation blocks of token t, tensor scale aside (R57, R192). -/
def actBlocks (s : State) (c d t : Nat) : List (List FV) :=
  let n := mdNblk d
  if mdAfmt d < 2 then
    (((List.range (ceilDiv n 64)).map (fun i =>
      let img := spadRead s c (actAddr false d t + i * mdAslot d * 64) (64 * mdAslot d)
      let bs := (stripeBlocks img (stripeView img)).map (fun b => blockValues b.1 b.2.1 (laneOf b.2.2))
      let want := min 64 (n - 64 * i)
      (bs ++ List.replicate want (List.replicate 32 (FV.fin false 0))).take want)).flatten)
  else if mdAfmt d = 2 then
    (chunks 64 (spadRead s c (actAddr false d t) (64 * n))).map (fun b =>
      (chunks 2 b).map (fun x => fv (ofBf16 (BitVec.ofNat 16 (leNat x)))))
  else
    (chunks 128 (spadRead s c (actAddr false d t) (128 * n))).map (fun b => (toF32s b).map fv)

/-- The gradient of token t, BF16 over the rows, padded with zeros to whole groups of 32 (R93). -/
def gradGroups (s : State) (c d t : Nat) : List (List FV) :=
  let g := (chunks 2 (spadRead s c (actAddr true d t) (2 * mdRows d))).map (fun x => fv (ofBf16 (BitVec.ofNat 16 (leNat x))))
  (chunks 32 g).map (fun l => l ++ List.replicate (32 - l.length) (FV.fin false 0))

/-- The reference loop (R95) over FP32 operands. -/
def refLoop (ws as : List F32) : F32 := (List.zip ws as).foldl (fun acc p => fma32 p.1 p.2 acc) 0#32

def finiteFv (x : FV) : Bool := match x with | .fin _ _ => true | _ => false

/-- Values that pad the last block of every row: the trailing positions at which the weights of all rows are zero, never the whole
block (R49, R95, log entry 39). -/
def padCount (t : StreamTensor) (rows nblk : Nat) : Nat :=
  (List.range rows).foldl (fun n r =>
    min n (((weightBlock t (r * nblk + nblk - 1)).reverse.takeWhile (fun x => match x with | .fin _ m => m == 0 | _ => false)).length)) 31

/-- One output of MMA: row r against a token's blocks; with it whether all its operands were finite (R88, R95). -/
def mmaOut (t : StreamTensor) (ref : Bool) (sa : F32) (rows nblk r : Nat) (act : List (List FV)) : F32 × Bool :=
  let ws := (List.range nblk).map (fun j => weightBlock t (r * nblk + j))
  let fin := ws.all (fun b => b.all finiteFv) && act.all (fun b => b.all finiteFv)
  if ref then
    (refLoop ((ws.flatten.map (scaled32 t.tscale)).take (32 * nblk - padCount t rows nblk)) (act.flatten.map (scaled32 sa)), fin)
  else (mul32 (accumulate (List.zip ws act)) (mul32 t.tscale sa), fin)

/-- One output of MMA.T: input index k against a token's gradient groups (R93, R95). -/
def mmaTOut (t : StreamTensor) (ref : Bool) (nblk rows k : Nat) (grad : List (List FV)) : F32 × Bool :=
  let col := (List.range rows).map (fun r => (weightBlock t (r * nblk + k / 32)).getD (k % 32) (FV.fin false 0))
  let ws := (chunks 32 col).map (fun l => l ++ List.replicate (32 - l.length) (FV.fin false 0))
  let fin := col.all finiteFv && grad.all (fun b => b.all finiteFv)
  if ref then (refLoop (col.map (scaled32 t.tscale)) (grad.flatten.map (scaled32 one32)), fin)
  else (mul32 (accumulate (List.zip ws grad)) t.tscale, fin)

/-- Bytes that one token's outputs leave at its place: sums under ACC, and a zero half granule after an odd row (R89, R192). -/
def outBytes (acc : Bool) (old ys : List F32) (odd : Bool) : List F32 :=
  (if acc then List.zipWith add32 old ys else ys) ++ (if odd then [0#32] else [])

/-- The tokens that are computed (R192 MSK and XM). -/
def tokenSet (s : State) (c w d xcur : Nat) (k : List Nat → EngRes) : EngRes :=
  let all := List.range (mdTokens d)
  if bitOf (wMod w) 3 then cursorEntry s c xcur (fun e => k (all.filter (fun t => bitOf e.2 t)))
  else if bitOf (wMod w) 2 then opRead s c (mdMask d) 32 5 (fun b => k (all.filter (fun t => bitOf (leNat b) t)))
  else k all

/-- Silent faults of the MEs (R100): each pair changes bits of one output of the command, counted over its tokens in order. -/
def faultOutputs (silent : List (Nat × W32)) (base : Nat) (ys : List F32) : List F32 :=
  ys.mapIdx (fun i y => silent.foldl (fun y e => if e.1 = base + i then y ^^^ e.2 else y) y)

/-- What the tokens of a command come to: counts of non-finite outputs and of those of finite operands (R91); what stood at the
destination, what the command computes, and what the MEs made of it. -/
structure MmaSum where
  nonfinite : Nat
  overflow  : Nat
  old       : List F32
  right     : List F32
  outs      : List F32
  deriving DecidableEq, Repr
def MmaSum.none : MmaSum := { nonfinite := 0, overflow := 0, old := [], right := [], outs := [] }

/-- Compute and write every token of the set. -/
def mmaTokens (transposed : Bool) (c w d : Nat) (tensor : StreamTensor) (silent : List (Nat × W32)) :
    List Nat → State → MmaSum → State × MmaSum
  | [], s, n => (s, n)
  | t :: ts, s, n =>
      let ref := bitOf (wMod w) 1
      let acc := bitOf (wMod w) 0
      let count := outCount transposed d
      let ys := if transposed then
          let g := gradGroups s c d t
          (List.range count).map (fun k => mmaTOut tensor ref (mdNblk d) (mdRows d) k g)
        else
          let a := actBlocks s c d t
          (List.range count).map (fun r => mmaOut tensor ref (mdSa d) (mdRows d) (mdNblk d) r a)
      let old := spadF32 s c (outAddr d t) count
      let right := ys.map (fun y => y.1)
      let outs := faultOutputs silent n.outs.length right
      let res := outBytes acc old outs (count % 2 = 1)
      let bad := (List.zip (res.take count) (ys.map (fun y => y.2))).zip old
      let nf := (bad.filter (fun e => !isFinite32 e.1.1)).length
      let ov := (bad.filter (fun e => !isFinite32 e.1.1 && !isNan32 e.1.1 && e.1.2 && (!acc || isFinite32 e.2))).length
      mmaTokens transposed c w d tensor silent ts (spadWrite s c (outAddr d t) (f32Bytes res)) {
        nonfinite := n.nonfinite + nf, overflow := n.overflow + ov, old := n.old ++ old, right := n.right ++ right
        outs := n.outs ++ outs }

/-- A narrow or FP32 pairing that R87 and R193 do not allow. -/
def pairingBad (transposed : Bool) (d : Nat) (t : StreamTensor) : Bool :=
  !transposed && (if t.bf16 then mdAfmt d < 2 else mdAfmt d == 2)

/-- Sampling rates of R111 as the exponent of two. -/
def rateExp (v : Nat) : Nat := if v = 0 then 6 else if v = 1 then 8 else if v = 2 then 10 else 12

/-- The first candidate tile of the step is taken for duplicate execution and for the shadow check (R99). A tile whose replay an
open case awaits is taken whatever the generator says (R102). Every command that is not in reference mode counts as narrow
(log entry 126). -/
def sampleTile (s : State) (c : Nat) (tile : DupTile) (shadow : Option ShdTile) : State :=
  let index := tile.index.toNat
  match corePart s c with
  | none => s
  | some p => match jobOf s p with
    | none => s
    | some j =>
        let v := coreOf s c
        let step := BitVec.ofNat 64 (stepNum s c)
        let hit := fun (dom e : Nat) => decide (checkWord dom (coreJob s c) c index step < 2 ^ (32 - e))
        let forced := j.dups.any (fun x => x.owner.val == c && x.index == tile.index && x.step == step)
        let s := if (!v.dupTaken && (v.forceDup || hit 3 (rateExp j.dupRate.toNat))) || forced then
            bumpC (updCore s c (fun v => { v with dupTaken := true, dupTile := some tile })) c 0x340 63 32 1 else s
        if shadow.isSome && !v.shdTaken && j.shadowRate != 0 && hit 4 (if j.shadowRate.toNat = 1 then 8
            else if j.shadowRate.toNat = 2 then 10 else 12) then
          updCore s c (fun v => { v with shdTaken := true, shdTile := shadow }) else s

/-- What the MEs have taken of a tensor, with more of its blocks from the FIFO. -/
def joinTensor (a b : StreamTensor) : StreamTensor :=
  { b with blocks := a.blocks ++ b.blocks, values := a.values ++ b.values }

/-- The outputs of a matrix command whose tensor is whole (R88 to R95). -/
def mmaOutputs (transposed : Bool) (c : Nat) (silent : List (Nat × W32)) (index w d xcur : Nat) (tensor : StreamTensor) (s : State) :
    EngRes :=
  let opc := if transposed then 0x21 else 0x20
  tokenSet s c w d xcur (fun ts =>
    let last := mdTokens d - 1
    let count := outCount transposed d + outCount transposed d % 2
    if Config.spadSize < actAddr transposed d last + actSpan transposed d
      || Config.spadSize < outAddr d last + 4 * count then .fail s eSpadRange 5
    else if ts.any (fun t => spadPoisoned s c (actAddr transposed d t) (actSpan transposed d)
        || (bitOf (wMod w) 0 && spadPoisoned s c (outAddr d t) (4 * count))) then .fail s eUncorrectable 5
    else
      let r := mmaTokens transposed c w d tensor silent ts s MmaSum.none
      let s := countNonFinite r.1 c index opc r.2.nonfinite r.2.overflow
      let tile : DupTile := { index := BitVec.ofNat 32 index, word := BitVec.ofNat 128 w, desc := BitVec.ofNat 256 d, tokens := ts,
                              old := r.2.old, right := r.2.right, outs := r.2.outs }
      .done (sampleTile s c tile (if transposed || bitOf (wMod w) 1 then none
        else some { desc := BitVec.ofNat 256 d, tensor := tensor, tokens := ts, narrow := r.2.outs })))

/-- A matrix command takes the blocks of its tensor as they stand in the FIFO (R119), and runs when it has exactly as many as it
needs and no more come (R191). -/
def mmaTake (transposed : Bool) (c : Nat) (silent : List (Nat × W32)) (i : Issued) (w d : Nat) (head : StreamTensor) (s : State) : EngRes :=
  let tensor := match (coreOf s c).me with | some m => joinTensor m.tensor head | none => head
  let n := tensorBlocks tensor
  let need := mdRows d * mdNblk d
  let s := updCore s c (fun v => { v with
    me := if head.whole then none else some { desc := BitVec.ofNat 256 d, tensor := tensor }
    fifo := if head.whole then v.fifo.drop 1 else { head with blocks := [], values := [] } :: v.fifo.drop 1 })
  if need < n || (head.whole && n < need) then .fail s eMismatch 0
  else if !head.whole then .wait s
  else mmaOutputs transposed c silent i.index.toNat w d i.xcur.toNat tensor s

def mmaBody (transposed : Bool) (c : Nat) (ecc : EccObs) (silent : List (Nat × W32)) (s : State) (i : Issued) (w : Nat) : EngRes :=
  match (coreOf s c).fifo with
  | [] => .hold
  | head :: _ =>
    if !head.whole && tensorBlocks head = 0 then .hold
    else
      -- an ME with a block pair ready requests a grant (R216)
      let s := coreRequests s c 0
      if !coreGranted s c 0 then .wait s
      else
        let s := spadEcc s c 0 Config.spadSize ecc
        match (coreOf s c).me with
        | some m => mmaTake transposed c silent i w m.desc.toNat head s
        | none => opDesc s c (wA w) 32 95 (fun d =>
          match mdError s c transposed (bitOf (wMod w) 1) d with
          | some e => .fail s e 5
          | none =>
            if pairingBad transposed d head then .fail s ePairing 5
            else mmaTake transposed c silent i w d head s)

/-- MMA (R88, R95, R191 to R193). -/
def execMma (c : CoreId) (obs : MmaObs) (s : State) : Out :=
  .next (runEngine s c.val 1 0x20 (mmaBody false c.val obs.ecc obs.silent))

/-- MMA.T (R93, R95). -/
def execMmaT (c : CoreId) (obs : MmaObs) (s : State) : Out :=
  .next (runEngine s c.val 1 0x21 (mmaBody true c.val obs.ecc obs.silent))

end Sys2Proof.Machine
end

