-- ==== Sys2Proof/Machine/WeightCmds.lean ====
section
/-! DEFINITION. The weight commands (ch. 12): Moults, manifests, shards, scrubs, the chain fence and the recovery of epochs. -/

namespace Sys2Proof.Machine

/-! Moult descriptors (R325). -/

def mdMode (d : Bytes) : Nat := byteAt d 5
def mdChain (d : Bytes) : Bool := byteAt d 6 == 1
def mdEpoch (d : Bytes) : Bytes := sliceB d 0x20 32
def moultDescOk (d : Bytes) : Bool :=
  d.length == 128 && leAt d 0 4 == 0x544C4F4D && decide (byteAt d 4 < 16) && decide (mdMode d ≤ 2) && decide (byteAt d 6 ≤ 1)
    && byteAt d 7 == 0 && leAt d 0x40 64 == 0

def moultRefused (s : State) (p reason : Nat) : State :=
  let s := stwEvent s 0x6052 1 (some p) none [BitVec.ofNat 8 reason]
  if reason = 3 || reason = 4 then stwEvent s 0x8010 2 (some p) none [] else s

/-- A serving job runs on a partition. -/
def servingJob (s : State) (p : Nat) : Bool :=
  match jobOf s p with | some j => j.kind == 1#8 && j.running && !j.frozen | none => false
def layoutBanks (s : State) (p : Nat) : Nat :=
  match (jobOf s p).bind (fun j => j.file) with | some f => f.body.banks | none => 1
def layoutDigest (s : State) (p : Nat) : Bytes := match jobOf s p with | some j => j.digest | none => []

/-- The reasons of R326 that a manifest gives; `auth` is what its verification found. -/
def manifestReason (s : State) (p : Nat) (m : Manifest) (auth : Option Nat) (repair : Bool) (epoch : Bytes) : Option Nat :=
  let e := (partOf s p).epochs
  let shared := match currentEpoch e with | some c => sharedDigest c | none => []
  let big := m.shards.any (fun x => match shardPlace s p x.1 with
    | some y => decide (y.space < x.2.1)
    | none => true)
  let notCommitted : Bool := match e.committed with | some c => c.digest != m.digest | none => true
  firstOf [(m.program ≠ layoutDigest s p, 2), (auth = some 3, 3), (auth = some 4, 4),
    (m.kind = 1 && layoutBanks s p < 2, 6), (m.kind = 1 && m.base ≠ shared, 7), (big, 9), (m.digest ≠ epoch, 0xA),
    (repair && (e.missing.isEmpty || notCommitted), 0xB)]

/-- Kind of a Moult (R327): 0 STAGED, 1 DRAIN, 2 REPAIR. -/
def moultKind (mode kind banks : Nat) : Fin 3 :=
  if mode = 2 then 2 else if kind = 1 then 0 else if mode = 1 then 1 else if 2 ≤ banks then 0 else 1

/-- A Moult passes R326. -/
def beginMoult (s : State) (p : Nat) (m : Manifest) (mode : Nat) (chain : Bool) : State :=
  let e := (partOf s p).epochs
  let k := moultKind mode m.kind.toNat (layoutBanks s p)
  let bank := if k = 2 || k = 1 then e.comBank else if e.committed.isSome then 1 - e.comBank else 0
  let have_ := if k = 2 then (m.shards.map (fun x => x.1)).filter (fun i => !e.missing.contains i) else []
  let mo : Moult := { mode := k, chain := chain, drain := k == 1, man := m, started := s.units, passed := have_, landed := [] }
  let s := setEpochs s p (fun e => { e with
    moult := some mo, incBank := bank, incoming := if k = 2 then e.incoming else some m })
  stwEvent s 0x6050 0 (some p) none []

/-- The manifest of a chain Moult that has not arrived yet. -/
def awaited (s : State) (p : Nat) (epoch : Bytes) : Manifest :=
  { kind := 0xFF, variant := 0xFF, program := layoutDigest s p, base := [], model := [], digest := epoch, shards := [] }

/-- A fetched Moult descriptor (R325, R326, R513). -/
def startMoult (s : State) (n : WlPort) (d : Bytes) (manifest : Option Bytes) : State :=
  let p := byteAt d 4
  let repair := mdMode d == 2
  let e := (partOf s p).epochs
  if !moultDescOk d || !windowOk s p n.val || !servingJob s p then moultRefused s p 1
  else if e.moult.isSome || e.retiring.isSome then moultRefused s p 5
  else if mdChain d then
    match s.stw.chainMan with
    | some m =>
        if m.digest ≠ mdEpoch d then beginMoult s p (awaited s p (mdEpoch d)) (mdMode d) true
        else match manifestReason s p m none repair (mdEpoch d) with
          | some r => moultRefused s p r
          | none => beginMoult s p m (mdMode d) true
    | none => beginMoult s p (awaited s p (mdEpoch d)) (mdMode d) true
  else
    let s := hostFetch s n.val (leAt d 8 8) (leAt d 0x10 8) ((manifest.map List.length).getD 0)
    match manifest with
    | none => moultRefused s p 8
    | some b =>
        if b.length ≠ leAt d 0x10 8 then moultRefused s p 8
        else if !manifestForm b then moultRefused s p 1
        else
          let m := parseManifest b
          match manifestReason s p m (manifestAuth s b) repair (mdEpoch d) with
          | some r => moultRefused s p r
          | none => forwardManifest (beginMoult s p m (mdMode d) false) b

/-- MOULT_START (R325, R326). A descriptor that cannot be fetched is refused FETCH (R531). -/
def execMoultStart (req : DapReq) (addr : W64) (desc : Option Bytes) (manifest : Option Bytes) (s : State) : Out :=
  .next (dapWrite s req 0x5300 1 (leBytes 8 addr.toNat) (fun _ s => hostWriteState s req)
    (fun _ s => match carrier req, desc with
      | some n, some d => startMoult (hostFetch s n.val addr.toNat 128 d.length) n d manifest
      | some n, none => stwEvent (hostFetch s n.val addr.toNat 128 0) 0x6052 1 none none [8#8]
      | none, _ => s))

/-- MOULT_ABORT (R330): refused while the bank is being overwritten. -/
def execMoultAbort (req : DapReq) (value : Byte) (s : State) : Out :=
  let p := value.toNat
  .next (dapWrite s req 0x5300 2 (leBytes 1 p)
    (fun _ s => if 15 < p then stRange else if (partOf s p).epochs.st = .swapping || !stewardUp s then stState else stOk)
    (fun _ s => abortMoult s p))

/-- MOULT_TIMEOUT (R330). -/
def execMoultTimeout (p : PartId) (s : State) : Out := .next (timeoutMoult s p.val)

/-- MANIFEST_VERIFY (R316, R320): a manifest that arrives on the chain; a Moult that waits for it takes it. -/
def execManifestVerify (manifest : Bytes) (s : State) : Out :=
  .next (if !chainMember s || chainFenced s then s
    else
      let m := parseManifest manifest
      let waits := (s.parts.map (fun e => e.1)).filter (fun p => match (partOf s p).epochs.moult with
        | some x => x.chain && x.man.kind == 0xFF#8 && x.man.digest == m.digest
        | none => false)
      let drop := fun (s : State) (p r : Nat) =>
        moultRefused (setEpochs s p (fun e => { e with moult := none, incoming := none })) p r
      if !manifestForm manifest then waits.foldl (fun s p => drop s p 1) s
      else match manifestAuth s manifest with
        | some r => if waits.isEmpty then stwEvent s 0x8010 2 none none [] else waits.foldl (fun s p => drop s p r) s
        | none =>
            let s := forwardManifest (updStw s (fun t => { t with chainMan := some m })) manifest
            waits.foldl (fun s p => match (partOf s p).epochs.moult with
              | none => s
              | some x => match manifestReason s p m none (x.mode == 2) m.digest with
                | some r => drop s p r
                | none =>
                    let k := moultKind (if x.mode = 2 then 2 else if x.drain then 1 else 0) m.kind.toNat (layoutBanks s p)
                    let e := (partOf s p).epochs
                    let have_ := if k = 2 then (m.shards.map (fun y => y.1)).filter (fun i => !e.missing.contains i) else []
                    setEpochs s p (fun e => { e with
                      moult := some { x with mode := k, drain := k == 1, man := m, passed := have_ }
                      incoming := if k = 2 then e.incoming else some m })) s)

/-! Shards. -/

/-- The digests of a load, in ascending index, against MODEL (R317). -/
def modelOk (m : Moult) : Bool :=
  sha256 ((m.man.shards.map (fun x => match m.landed.find? (fun e => e.1 == x.1) with
    | some e => e.2
    | none => x.2.2)).flatten) == m.man.model

/-- Every shard has passed: the end-of-load check, then the commit, or for a repair the restart of the job (R317, R327, R329). -/
def moultFull (s : State) (p : Nat) (m : Moult) : State :=
  if !digestMode s && !modelOk m then
    timeoutMoult (setEpochs (stwEvent s 0x4042 2 (some p) none []) p (fun e => { e with
      moult := some { m with passed := if m.mode = 2 then m.passed else [] } })) p
  else if m.mode = 2 then
    restartBegin (setEpochs s p (fun e => { e with moult := none, missing := [] })) p 0x6053
  else commitMoult s p m

/-- A shard of the Moult on a partition arrives. Shards of a draining Moult are taken once the bank may be overwritten. -/
def takeShard (s : State) (p : Nat) (epoch : Bytes) (index : Nat) (img : Bytes) : State :=
  let e := (partOf s p).epochs
  match e.moult with
  | none => s
  | some m =>
      if m.man.digest ≠ epoch || (m.mode = 1 && e.st ≠ .swapping) || m.passed.contains index then s
      else match m.man.shards.find? (fun x => x.1 == index), shardPlace s p index with
        | some x, some y =>
            match shardFault (digestMode s) y x.2.1 x.2.2 img with
            | some f => rejectShard s (shardVault s p y) index y img f
            | none =>
                let bank := if m.mode = 2 then e.comBank else e.incBank
                let s := landShard s p epoch bank y img x.2.2
                let m := { m with passed := m.passed ++ [index], landed := m.landed ++ [(index, sha256 img)] }
                let s := setEpochs s p (fun e => { e with moult := some m })
                if m.man.shards.all (fun x => m.passed.contains x.1) then moultFull s p m else s
        | _, _ => s

/-- A shard that passes through in DIGEST mode is forwarded when its digest is the chain manifest's (R317). -/
def chainShardOk (s : State) (index : Nat) (img : Bytes) : Bool :=
  match s.stw.chainMan with
  | some m => (m.shards.find? (fun x => x.1 == index)).any (fun x => x.2.2 == sha256 img)
  | none => false

/-- SHARD_ARRIVE (R315, R317, R320, R327): a shard from the host or the chain is kept for the Moult that wants it, and forwarded. -/
def execShardArrive (p : Option PartId) (epoch : Bytes) (index : Nat) (image : Bytes) (s : State) : Out :=
  .next (
    let bad := digestMode s && chainMember s && s.stw.chainMan.isSome && !chainShardOk s index image
    let s := if p.isNone && bad then stwEvent s 0x4040 2 none none (leBytes 4 index ++ [1#8]) else s
    let s := if chainMember s && !chainFenced s && !(chainPorts s 4).isEmpty && !bad then
      setChainStall (forwardShard s epoch index image) else s
    match p with
    | some p => takeShard s p.val epoch index image
    | none => s)

/-- DRAIN_SWAP (R327): no request of the old epoch runs or waits for back-pressure; the others end, and the bank is given to the
incoming shards. -/
def execDrainSwap (p : PartId) (s : State) : Out :=
  let p := p.val
  .next (match (partOf s p).epochs.moult with
    | none => s
    | some m =>
        let old := match (partOf s p).epochs.committed with | some c => c.digest | none => []
        let mine := s.reqs.filter (fun e => e.2.part.val == p && !reqFinal e.2 && e.2.epoch == old)
        let busy := mine.any (fun e => e.2.st == .prefill || e.2.st == .decode || e.2.st == .resuming
          || (e.2.st == .paused && e.2.pause == some .backpressure))
        if m.mode ≠ 1 || (partOf s p).epochs.st = .swapping || busy then s
        else
          let s := mine.foldl (fun s e =>
            endRequest (stwEvent s 0x6056 0 (some p) (some (rReq e.2)) []) e.1 .failed 7 0 0 0x6056) s
          setEpochs s p (fun e => { e with st := .swapping }))

/-- SCRUB_PASS (R318): every shard of a vault is digested again. -/
def execScrubPass (cl : ClusterId) (s : State) : Out :=
  let k := cl.val
  .next (if !digestMode s || !(siteSt s (k / 16)).powered || (clOf s k).selfRetain || (clOf s k).clocksOff then s
    else match sitePart s (k / 16) with
      | none => s
      | some p => (clOf s k).shards.foldl (fun s e =>
          let s := vaultPass s k e.2.2.1 e.2.2.2.1
          if shardWhole s k e then
            updCl s k (fun c => { c with shards := c.shards.map (fun x =>
              if x = e then (e.1, e.2.1, e.2.2.1, e.2.2.2.1, e.2.2.2.2.1, s.units) else x) })
          else corruptShard s p k e) s)

/-- CHAIN_FENCE (R321): the module leaves its chain or returns to it, and says so on every chain port. -/
def execChainFence (req : DapReq) (value : Byte) (s : State) : Out :=
  .next (dapWrite s req 0x5310 8 (leBytes 1 value.toNat) (fun _ _ => if 1 < value.toNat then stRange else stOk)
    (fun _ s =>
      let s := setObj s 0x5310 8 value.toNat
      let s := if value = 1 then updStw s (fun t => { t with staged := [], chainState := 0 }) else s
      let ports := ([3, 4, 5, 6].flatMap (chainPorts s)).eraseDups
      setChainStall (ports.foldl sendHello s)))

/-- EPOCH_RECOVERY (R332): after a reset, before any job starts on the partition. -/
def execEpochRecovery (p : PartId) (s : State) : Out :=
  .next (if !s.fin.recoverDue.contains p.val then s
    else recoverEpochs (updFin s (fun f => { f with recoverDue := f.recoverDue.filter (· != p.val) })) p.val)

end Sys2Proof.Machine
end

