-- ==== Sys2Proof/Machine/Spec.lean ====
section
/-! DEFINITION. Speculative decoding (ch. 11): drafts (R297, R298), verification cycles (R301 to R306) and the draft-length
controller (R308, R309). -/

namespace Sys2Proof.Machine

/-! Draft descriptors (R297). -/

def ddMode (d : Bytes) : Nat := byteAt d 5
def draftDescFault (d : Bytes) : Option Nat :=
  firstOf [(d.length ≠ 128 || leAt d 0 4 ≠ 0x54465244, 0), (15 < byteAt d 4, 4), (1 < ddMode d, 5), (leAt d 6 2 ≠ 0, 6),
    (leAt d 0x18 8 ≠ 0, 0x18), (leAt d 0x60 32 ≠ 0, 0x60)]

/-- A draft under placement dn fits into the vault space that the main layout leaves free, in every vault of the shape (R298). -/
def draftFits (main : LayoutFile) (mn : Nat) (draft : LayoutFile) (dn : Nat) : Bool :=
  (List.range (lyShape draft.bytes).2).all (fun y => (List.range (lyShape draft.bytes).1).all (fun x => (List.range 16).all (fun cl =>
    decide (claimed main mn x y cl + claimed draft dn x y cl ≤ Config.vaultCap))))

/-- Extents of a draft for the requests that are placed already. -/
def placeDraftExtents (s : State) (p : Nat) (x : Draft) : State :=
  (partReqs s p).foldl (fun s h => match reqOf s h with
    | some r =>
        if !r.placed || !rSpec r then s
        else (placeExtents x.file.body.sweep (draftSlot h) (rReq r) r.reserved (fileCore s p x.file x.detour) s).getD s
    | none => s) s

/-- A draft that passes every check is loaded (R298, R307, R309). -/
def loadDraft (s : State) (p : Nat) (f : LayoutFile) (dist : Bool) : State :=
  let x : Draft := { dist := dist, digest := sha256 f.bytes, file := f, detour := (choosePlacement s p f).getD 0, leaving := false }
  let s := updJob s p (fun j => { j with draft := some x, nondet := j.nondet || nondetFile f })
  let s := updPart s p (fun t => { t with accept := some (BitVec.ofNat 32 (obj s 0x5110 6)), acceptCycles := 0 })
  let s := placeDraftExtents (placeDraft s p x) p x
  if dist then noteDraft s p x.digest else s

/-- A fetched draft descriptor and its layout (R228, R297, R298, R513). -/
def startDraftLoad (s : State) (n : WlPort) (d : Bytes) (file : Option LayoutFile) : State :=
  match draftDescFault d with
  | some off => layoutMalformed s none off 2
  | none =>
      let p := byteAt d 4
      if !windowOk s p n.val then layoutReject s p 0x11
      else if !servesPart s p || (draftOf s p).isSome || layoutDigest s p ≠ sliceB d 0x40 32 then layoutReject s p 0x0A
      else fetchFile s n.val (leAt d 8 8) (leAt d 0x10 8) file id (fun s f =>
        checkFile s p f (sliceB d 0x20 32) false id (fun s =>
          match (jobOf s p).bind (fun j => j.file.map (fun g => (j, g))) with
          | none => s
          | some (j, main) =>
              if !draftFits main j.detour f ((choosePlacement s p f).getD 0) then layoutReject s p 3
              else loadDraft s p f (ddMode d == 1)))

/-- DRAFT_LOAD (R297, R298, R513). -/
def execDraftLoad (req : DapReq) (addr : W64) (desc : Option Bytes) (file : Option LayoutFile) (s : State) : Out :=
  .next (dapWrite s req 0x5110 1 (leBytes 8 addr.toNat) (fun _ s => hostWriteState s req)
    (fun _ s => match carrier req, desc with
      | some n, some d => startDraftLoad (hostFetch s n.val addr.toNat 128 d.length) n d file
      | some n, none => hostFetch s n.val addr.toNat 128 0
      | none, _ => s))

/-- DRAFT_UNLOAD (R298): at the end of the verification cycles in flight. -/
def execDraftUnload (req : DapReq) (value : Byte) (s : State) : Out :=
  let p := value.toNat
  .next (dapWrite s req 0x5110 2 (leBytes 1 p)
    (fun _ s => if 15 < p then stRange else if (draftOf s p).isNone || !stewardUp s then stState else stOk)
    (fun _ s => match draftOf s p with | some x => leaveDraft s p x | none => s))

/-! When a cycle may run (R300, R308). -/

/-- D_cap (R300): g and q are those of the next token. -/
def draftCap (s : State) (r : Request) : Nat :=
  let q := rLength r
  min (obj s 0x5110 4) (min (r.maxNew - (q - r.genBase) - 1) (leAt r.stop 0x2C 4 - q - 1))

/-- The Steward may speculate for a request now (R300): a draft is loaded that is not to leave, and the request waits for its next
draw. -/
def maySpeculate (s : State) (r : Request) : Bool :=
  let p := r.part.val
  rSpec r && !s.stw.admissionStopped && (match draftOf s p with | some x => !x.leaving | none => false)
    && decide (decoding s p ≤ obj s 0x5110 3) && r.st == .decode && !r.inFlight && r.cycle.isNone && r.placed && jobServes s p
    && decide (0 < draftCap s r)

/-- A cycle is what runs for a request: its controller is not OFF, or a probe is due (R308). -/
def cycleDue (s : State) (r : Request) : Bool := maySpeculate s r && (!r.specOff || decide (256 ≤ r.specWait))

/-! Draws (R204, R304, R306). -/

/-- The generator word of a cycle's use, domain 0x05 (R306). -/
def specWord (r : Request) (stream q : Nat) : Nat :=
  (philox (BitVec.ofNat 64 (leAt r.desc 8 8)) 0x05000000#32 (BitVec.ofNat 32 stream) (BitVec.ofNat 64 q)).toNat

/-- Draw from a weight list: the first entry whose running sum exceeds u × Z, otherwise the last (R204). -/
def drawWeights (word : Nat) (l : KeptList) : Option (BitVec 18) :=
  let cs := runSums 0#32 (l.map (fun e => e.1))
  let target := scaleWord word (cs.getLastD 0#32)
  (((l.zip cs).find? (fun e => lt32 target e.2)).map (fun e => e.1.2)).or (l.getLast?.map (fun e => e.2))

/-- Probability of a token in a kept list; outside it 0. -/
def probOf (l : KeptList) (t : BitVec 18) : F32 := match l.find? (fun e => e.2 == t) with | some e => e.1 | none => 0#32

/-- The residual list of a rejected proposal (R306). -/
def residual (p q : KeptList) : KeptList := p.map (fun e => (max32 0#32 (sub32 e.1 (probOf q e.2)), e.2))

def plain (l : List (F32 × BitVec 18)) : List (F32 × Nat) := l.map (fun e => (e.1, e.2.toNat))

/-- The candidates at a position of a cycle, with the proposals before it counted and the mask of its index (R279, R304). -/
def specCands (r : Request) (h pos : Nat) (logits : List (F32 × BitVec 18)) : List (F32 × Nat) :=
  candidates (samplingRecord h r pos) (maskAt r pos) (countAt r pos) (plain logits)

/-- The kept list of a model at a position (R306). -/
def specKept (r : Request) (h pos : Nat) (logits : List (F32 × BitVec 18)) : KeptList :=
  let rc := samplingRecord h r pos
  (keptProbs (srTemp rc) (srTopP rc) (srMinP rc) (specCands r h pos logits)).map (fun e => (e.1, BitVec.ofNat 18 e.2))

/-- The main model's draw at a position, as without speculation (R304), with its probability; `open_` numbers the free values of a
draw whose result R204 leaves open. -/
def mainDraw (r : Request) (h pos open_ : Nat) (logits : List (F32 × BitVec 18)) : BitVec 18 × F32 :=
  let rc := samplingRecord h r pos
  match drawToken (srTemp rc) (srTopP rc) (srMinP rc) (drawWord rc) (specCands r h pos logits) with
  | some t => (BitVec.ofNat 18 t.1, t.2)
  | none => ((Config.freeWord open_).setWidth 18, Config.freeWord (open_ + 1))

/-! Drafting (R301, R304, R306). -/

/-- The draft's proposal at a position, with the kept list it was drawn from: in EXACT mode the most probable token that the mask allows,
else a draw from q. -/
def proposal (dist : Bool) (r : Request) (h pos : Nat) (logits : List (F32 × BitVec 18)) : Option (BitVec 18) × KeptList :=
  if dist then
    let q := specKept r h pos logits
    (drawWeights (specWord r 0x0D01 pos) q, q)
  else
    (((topK 1 ((plain logits).filter (fun e => maskAllows (maskAt r pos) e.2))).head?).map (fun e => BitVec.ofNat 18 e.2), [])

/-- The draft steps: each proposal follows from those before it. -/
def draftSteps (dist : Bool) (h q : Nat) : List SpecDraw → Request → SpecRun → SpecRun
  | [], _, x => x
  | d :: rest, r, x =>
      let x := { x with props := x.props ++ [proposal dist { r with cycle := some x } h (q + x.props.length) d.draft] }
      draftSteps dist h q rest r x

/-- A cycle begins: the draft runs its steps, and the verification wavefront is ready to enter (R301). -/
def startCycle (s : State) (h : Nat) (r : Request) (probe : Bool) (draws : List SpecDraw) : State :=
  let dist : Bool := match draftOf s r.part.val with | some x => x.dist | none => false
  let x := draftSteps dist h (rLength r) draws.dropLast r { probe := probe, props := [], limit := none, verified := false }
  setReq s h { r with cycle := some x }

/-! Verification (R301, R304, R306). -/

/-- DISTRIBUTIONAL mode from proposal j on: tokens to commit with their PROB, and how many proposals were accepted. -/
def distTokens (r : Request) (h free : Nat) : Nat → List (Option (BitVec 18) × KeptList) → List SpecDraw →
    List (BitVec 18 × F32) × Nat
  | j, d :: rest, m :: ms =>
      let pos := rLength r + j
      let draw := mainDraw r h pos (free + 2 * j) m.main
      let p := specKept r h pos m.main
      match d.1 with
      | none => ([draw], 0)
      | some t =>
          if lt32 (scaleWord (specWord r 0x0D02 pos) (probOf d.2 t)) (probOf p t) then
            let more := distTokens r h free (j + 1) rest ms
            ((t, probOf p t) :: more.1, more.2 + 1)
          else
            let res := residual p d.2
            match (if lt32 0#32 (sum32 (res.map (fun e => e.1))) then drawWeights (specWord r 0x0D03 pos) res else none) with
            | some t => ([(t, probOf p t)], 0)
            | none => ([draw], 0)
  | j, [], m :: _ => ([mainDraw r h (rLength r + j) (free + 2 * j) m.main], 0)
  | _, _, [] => ([], 0)

/-- EXACT mode: the main draws up to the first that differs from its proposal (R304). -/
def exactTokens (r : Request) (h free : Nat) : Nat → List (Option (BitVec 18) × KeptList) → List SpecDraw →
    List (BitVec 18 × F32) × Nat
  | j, d :: rest, m :: ms =>
      let draw := mainDraw r h (rLength r + j) (free + 2 * j) m.main
      if d.1 = some draw.1 then
        let more := exactTokens r h free (j + 1) rest ms
        (draw :: more.1, more.2 + 1)
      else ([draw], 0)
  | j, [], m :: _ => ([mainDraw r h (rLength r + j) (free + 2 * j) m.main], 0)
  | _, _, [] => ([], 0)

/-! Commits (R301 to R303). -/

/-- One COMMIT of a cycle: the token's fold, its record (R287) and its commit point. -/
def commitToken (s : State) (h : Nat) (t : BitVec 18 × F32) : State :=
  match reqOf s h with
  | none => s
  | some r =>
      let stop := stopCode r.stop (genTokens r) t.1.toNat (rLength r)
      let word := t.1.toNat + stop * 2 ^ 18 + (if stop ≠ 0 then 2 ^ 21 else 0) + (if r.untracked then 2 ^ 22 else 0)
      let head := leBytes 4 (rReq r) ++ leBytes 4 r.tokens.length ++ leBytes 4 word ++ leBytes 4 t.2.toNat
      let chain := foldChain r.chain 0x10 head
      let s := setReq s h { r with chain := chain, folded := r.folded + 1 }
      let s := commitPoint s h (head ++ sliceB chain 0 4 ++ leBytes 4 (headStep s r.part.val).toNat ++ zeros 8)
      updReq s h (fun r => { r with cached := if reqFinal r then r.cached else rLength r - 1 })

/-- Commit the accepted tokens in position order; a token with a stop code or a cancel ends the cycle, back-pressure does not, and none
of an index that an accepted MASK names is committed (R303). -/
def commitTokens : List (BitVec 18 × F32) → Option Nat → State → Nat → State
  | [], _, s, _ => s
  | t :: rest, limit, s, h =>
      match reqOf s h with
      | none => s
      | some r =>
          if (r.st = .decode || (r.st = .paused && r.pause = some .backpressure))
              && (match limit with | some n => decide (r.tokens.length < n) | none => true) then
            commitTokens rest limit (commitToken s h t) h
          else s

/-! The controller (R308) and the estimate (R309). -/

/-- The controller after a cycle of length d that accepted k. -/
def controlDraft (s : State) (h d k : Nat) : State :=
  match reqOf s h with
  | none => s
  | some r =>
      if k = d then setReq s h { r with specD := min (r.specD + 1) (obj s 0x5110 4), specZ := 0 }
      else if 0 < k then setReq s h { r with specD := k + 1, specZ := 0 }
      else
        let z := r.specZ + 1
        let s := setReq s h { r with specZ := z, specD := if z = 4 then 1 else r.specD, specOff := r.specOff || z == 16
                                     specWait := if z = 16 then 0 else r.specWait }
        if z = 16 then stwEvent s 0x6040 0 (some r.part.val) (some (rReq r)) [] else s

/-- The acceptance estimate of a partition. -/
def estimate (s : State) (p d k : Nat) : State :=
  let a := (partOf s p).accept.getD (BitVec.ofNat 32 (obj s 0x5110 6))
  let a' := add32 a (div32 (sub32 (div32 (ofNat32 k) (ofNat32 d)) a) (ofNat32 64))
  updPart s p (fun t => { t with accept := some a', acceptCycles := t.acceptCycles + 1 })

/-- What a verification wavefront commits by the rule of the mode, and how many proposals it accepted. -/
def verified (s : State) (h : Nat) (r : Request) (x : SpecRun) (draws : List SpecDraw) : List (BitVec 18 × F32) × Nat :=
  let dist : Bool := match draftOf s r.part.val with | some x => x.dist | none => false
  if dist then distTokens r h s.free 0 x.props draws else exactTokens r h s.free 0 x.props draws

/-- A cycle ends: its tokens are committed and the controller and the estimate follow. A probe that accepts nothing leaves the request
OFF for a further 256 steps (R308). -/
def endCycle (s : State) (h : Nat) (r : Request) (x : SpecRun) (draws : List SpecDraw) : State :=
  let p := r.part.val
  let d := x.props.length
  let t := verified s h r x draws
  let s := commitTokens t.1 x.limit (takeFree s (2 * draws.length)).2 h
  let s := updReq s h (fun r => { r with cycle := none, inFlight := false })
  let s := estimate s p d t.2
  let s := if !x.probe then controlDraft s h d t.2
    else if t.2 = 0 then updReq s h (fun r => { r with specWait := 0 })
    else controlDraft (updReq s h (fun r => { r with specOff := false, specZ := 0 })) h d t.2
  draftCheck s p

/-- A cycle's command: while none is in flight and one is due, the draft runs and the cycle begins with the length d; once its
verification wavefront has left the head region, the cycle ends. Between the two the wavefront goes through the regions
(REGION_STEP). -/
def specStep (h : Slot) (draws : List SpecDraw) (probe due : Bool) (d : Nat) (r : Request) (s : State) (form : String) : Out :=
  match r.cycle with
  | some x =>
      if x.probe != probe || !x.verified then .next s
      else if draws.length ≠ x.props.length + 1 then .fault (.illFormed form)
      else .next (endCycle s h.val r x draws)
  | none =>
      if !due then .next s
      else if draws.length ≠ d + 1 then .fault (.illFormed form)
      else .next (startCycle s h.val r probe draws)

/-- SPEC_CYCLE (R300 to R309): drafting, verification and commit for one request. -/
def execSpecCycle (h : Slot) (draws : List SpecDraw) (s : State) : Out :=
  match reqOf s h.val with
  | none => .next s
  | some r => specStep h draws false (maySpeculate s r && !r.specOff) (min r.specD (draftCap s r)) r s "SPEC_CYCLE"

/-- SPEC_PROBE (R308): one cycle with D = 2 after 256 decode steps OFF. -/
def execSpecProbe (h : Slot) (draws : List SpecDraw) (s : State) : Out :=
  match reqOf s h.val with
  | none => .next s
  | some r =>
      specStep h draws true (maySpeculate s r && r.specOff && decide (256 ≤ r.specWait)) (min 2 (draftCap s r)) r s "SPEC_PROBE"

end Sys2Proof.Machine
end

