-- ==== Sys2Proof/Machine/Steps.lean ====
section
/-! DEFINITION. Region steps (R40, R276, R357, R387) and the sampled checks (ch. 04): duplicate execution (R100 to R105), margins
(R106) and the shadow quality check (R107 to R109). -/

namespace Sys2Proof.Machine

/-! Wavefronts (R276). -/

/-- Prefill tokens of a request that are in some region. -/
def inRegions (j : Job) (h : Nat) : Nat :=
  (j.regions.map (fun e => ((e.2.prefill.filter (fun t => t.slot == h)).map (fun t => t.count)).sum)).sum

/-- Prefill tokens that a request still has to send: its prompt, or what a recomputation of its cache needs (R263, R365). One whose
cancel waits for the end of its prefill step sends no more before that (R285). -/
def prefillLeft (j : Job) (h : Nat) (r : Request) : Nat :=
  if !r.placed || r.inFlight || (r.cancel.isSome && r.st == .prefill && inRegions j h != 0) then 0
  else if r.st = .prefill then rLength r - (r.cached + inRegions j h)
  else if r.st = .resuming then cacheNeed r - (r.cached + inRegions j h)
  else 0

/-- Requests of a partition whose next token may be drawn, in the order in which their last tokens committed. One that is to
speculate waits for its drafting, and enters with its proposals (R301). -/
def decodeReady (s : State) (p : Nat) : List (Nat × Request) :=
  sortBy (fun (a b : Nat × Request) => decide (a.2.order < b.2.order))
    (s.reqs.filter (fun e => e.2.part.val == p && e.2.st == .decode && e.2.placed && !e.2.inFlight && !cycleDue s e.2
      && epochServes s p e.2.epoch))

/-- A request's segment of a decode wavefront: its last token, or that and the proposals of its cycle (R301). -/
def decodeSegment (e : Nat × Request) : Segment :=
  { slot := e.1, start := rLength e.2 - 1, count := 1 + (match e.2.cycle with | some x => x.props.length | none => 0) }

/-- Requests with prefill tokens to send, in order of acceptance. -/
def prefillReady (s : State) (p : Nat) (j : Job) : List (Nat × Request) :=
  sortBy (fun (a b : Nat × Request) => decide (a.2.accepted < b.2.accepted))
    (s.reqs.filter (fun e => e.2.part.val == p && prefillLeft j e.1 e.2 != 0 && epochServes s p e.2.epoch))

/-- Take whole segments in turn while they fit into n tokens: a verification wavefront is one segment (R301). -/
def takeWhole : Nat → List Segment → List Segment
  | _, [] => []
  | n, e :: t => if e.count ≤ n then e :: takeWhole (n - e.count) t else []

/-- Take at most n tokens from segments in turn. -/
def takeTokens : Nat → List Segment → List Segment
  | _, [] => []
  | n, e :: t => if n = 0 then [] else { e with count := min n e.count } :: takeTokens (n - min n e.count) t

/-- Tokens of a wavefront. -/
def waveTokens (l : List Segment) : Nat := (l.map (fun e => e.count)).sum

/-- The requests of one row (R251): interactive ones, or bulk ones of a single bucket. -/
def rowOf (l : List (Nat × Request)) : List (Nat × Request) :=
  let i := l.filter (fun e => rClass e.2 == 0)
  if !i.isEmpty then i
  else match l with
    | [] => []
    | e :: _ => l.filter (fun x => bucketOf (rPromptLen x.2) == bucketOf (rPromptLen e.2))

/-- What enters at the embedding share. -/
structure Wave where
  decode  : List Segment
  prefill : List Segment
  pads    : Nat
  deriving DecidableEq, Repr

/-- The wavefronts that enter at the embedding share: decode and prefill, of one epoch (R276, R323). A prefill row has at most 64
segments (R250); a bulk row that takes all that its bucket's queue holds is filled with pad tokens, as far as the share lets it
(R251, log entry 140). -/
def fillWave (s : State) (p : Nat) (j : Job) : Wave :=
  let ds := decodeReady s p
  let ps := rowOf (prefillReady s p j)
  match (ds ++ ps).head? with
  | none => { decode := [], prefill := [], pads := 0 }
  | some e =>
      let ds := ds.filter (fun x => x.2.epoch == e.2.epoch)
      let ps := ps.filter (fun x => x.2.epoch == e.2.epoch)
      let k := shareK s p
      let dcap := if ps.isEmpty then 256 else 256 - 16 * k
      let pcap := if ds.isEmpty then 256 else 16 * k
      let want := (ps.take 64).map (fun x =>
        { slot := x.1, start := x.2.cached + inRegions j x.1, count := prefillLeft j x.1 x.2 : Segment })
      let row := takeTokens pcap want
      let bulk : Bool := match ps with | x :: _ => rClass x.2 == 1 | [] => false
      { decode := takeWhole dcap (ds.map decodeSegment), prefill := row
        pads := if bulk && !row.isEmpty && ps.length ≤ 64 then pcap - waveTokens row else 0 }

/-- A step that draws for a request is in flight from its entry on. -/
def markDraws (s : State) (w : Wave) : State :=
  let s := w.decode.foldl (fun s e => updReq s e.slot (fun r => { r with inFlight := true })) s
  w.prefill.foldl (fun s e => updReq s e.slot (fun r =>
    if r.st = .prefill && e.start + e.count = rLength r then { r with inFlight := true } else r)) s

/-- The bank of a wavefront's epoch, told to the embedding share's cores by the bank semaphore (R323). -/
def signalBank (s : State) (p : Nat) (j : Job) (h : Nat) : State :=
  match reqOf s h, j.file with
  | some r, some f =>
      if r.bank = 1 && f.body.banks = 2 then
        (regionCores s p 0).foldl (fun s c => (signalSem s c f.body.bankSem.val 1 none).1) s
      else s
  | _, _ => s

/-! Steps. -/

def kindAt (j : Job) (r : Nat) : Nat := ((jobRegions j).map (fun x => x.kind.val)).getD r 3
def lastRegion (j : Job) (r : Nat) : Bool := decide (r + 1 = (jobRegions j).length)

/-- A core has done its part of a step: its queues are empty, its sequencer waits or has stopped, its duplicate comparison has come to
an end, and the transfers it still has are its commits, which wait for the step (R357). -/
def coreDone (s : State) (c : Nat) : Bool :=
  let v := coreOf s c
  v.meq.isEmpty && v.veq.isEmpty && v.seqe.isEmpty && v.teq.isEmpty && v.dupTile.isNone && v.te.all (fun t => t.opc == 0x84#8)
    && (v.seqState != .running) && (v.seqState != .errored)
/-- Every part of a region's step has reported; the acknowledgement of a hop comes with HOP_ACK. -/
def stepDone (s : State) (p r : Nat) (j : Job) : Bool :=
  let cs := regionCores s p r
  cs.all (coreDone s) && !j.sweeps.any (fun w => cs.contains w.owner.val)
    && j.dups.all (fun d => !cs.contains d.owner.val)

/-- The commits of an earlier step of the head have all landed. -/
def commitsOut (s : State) (p r : Nat) : Bool :=
  (regionCores s p r).any (fun c => (coreOf s c).te.any (fun t => t.opc == 0x84#8))

/-- Some wavefront stands at a region. -/
def waveAt (x : RegionRun) : Bool := !x.decode.isEmpty || !x.prefill.isEmpty

/-! The arrays of a row (R249, R250). -/

/-- The token of a request at a position: of its context, and behind it a proposal of its cycle (R301). -/
def tokenAt (r : Request) (pos : Nat) : Nat :=
  match (contextOf r)[pos]? with
  | some t => t.toNat
  | none => ((proposed r (pos + 1 - rLength r)).getLast?).getD 0

/-- The real tokens of a row in order, each with its segment's number, cache slot and position: start + (i − first) (R250). -/
def rowTokens (segs : List Segment) : List (Nat × Nat × Nat) :=
  (segs.mapIdx (fun n e => (List.range e.count).map (fun i => (n, e.slot, e.start + i)))).flatten
/-- First token of segment n in its row. -/
def firstToken (segs : List Segment) (n : Nat) : Nat := waveTokens (segs.take n)

/-- An array of a row of segments with some pad tokens (R249 to R251, R282, R295). -/
def rowArray (s : State) (what : RowArray) (segs : List Segment) (pads : Nat) : Bytes :=
  let ts := rowTokens segs
  let each := fun (n : Nat) (f : Nat × Nat × Nat → Bytes) (pad : Bytes) =>
    ts.flatMap (fun t => sliceB (f t) 0 n) ++ (List.replicate pads (sliceB pad 0 n)).flatten
  let req := fun (t : Nat × Nat × Nat) (f : Request → Nat) => match reqOf s t.2.1 with | some r => f r | none => 0
  match what with
  | .segmentMap => each 1 (fun t => leBytes 1 t.1) [0x80#8]
  | .segmentTable => padTo 1024 ((segs.mapIdx (fun n e =>
      leBytes 4 e.slot ++ leBytes 4 e.start ++ leBytes 2 (firstToken segs n) ++ leBytes 2 e.count ++ zeros 4)).flatten)
  | .tokens => each 4 (fun t => leBytes 4 (req t (fun r => tokenAt r t.2.2))) []
  | .positions => each 4 (fun t => leBytes 4 t.2.2) []
  | .lengths => each 4 (fun t => leBytes 4 (t.2.2 + 1)) []
  | .handles => each 8 (fun t => leBytes 8 t.2.1) (leBytes 8 0xFFFFFFFF)
  | .variants => each 1 (fun t => leBytes 1 (req t rVariant)) [0xFF#8]
  | .sampling => each 64 (fun t => match reqOf s t.2.1 with | some r => samplingRecord t.2.1 r (t.2.2 + 1) | none => []) []

/-- Rows of a wavefront: at most 64 segments each (R250); pad tokens stand in the last row of a prefill. -/
def waveRow (x : RegionRun) (prefill : Bool) (row : Nat) : List Segment × Nat :=
  let rows := chunks 64 (if prefill then x.prefill else x.decode)
  (rows.getD row [], if prefill && row + 1 = rows.length then x.pads else 0)

/-- The Steward writes the arrays of a region's wavefronts where the layout's streams read them. -/
def writeRows (s : State) (p r : Nat) (j : Job) : State :=
  let x := regionRun s p r
  match j.file with
  | none => s
  | some f => (f.body.arrays.filter (fun a => a.region == r)).foldl (fun s a =>
      let row := waveRow x a.prefill a.row
      if row.1.isEmpty then s
      else
        let c := fileCore s p f j.detour (a.rx, a.ry)
        let b := rowArray s a.what row.1 row.2
        if a.what = .sampling then vaultWrite s (clusterOf c) a.off b else spadWrite s c a.off b) s

/-- A region begins the step of the wavefront at its entry cores: the Steward has written its arrays. -/
def beginStep (s : State) (p r : Nat) (j : Job) : State :=
  updRegion (writeRows s p r j) p r (fun x => { x with
    busy := true, startAt := s.units, replays := 0, trips := 0, trapped := [], lastFault := none, nfSeen := false })

/-- Start: at the embedding share the Steward fills the wavefronts; elsewhere the handoff has brought them. -/
def startStep (s : State) (p r : Nat) (j : Job) : State :=
  let x := regionRun s p r
  if waveAt x then
    if kindAt j r = 2 && commitsOut s p r then s else beginStep s p r j
  else if r ≠ 0 || kindAt j 0 ≠ 0 || j.kind ≠ 1 || s.stw.admissionStopped then s
  else
    let w := fillWave s p j
    match (w.decode ++ w.prefill).head? with
    | none => s
    | some e =>
        let s := markDraws (signalBank s p j e.slot) w
        let s := updRegion s p 0 (fun x => { x with decode := w.decode, prefill := w.prefill, pads := w.pads, stepNum := j.nextStep })
        beginStep (updJob s p (fun j => { j with nextStep := j.nextStep + 1 })) p 0 j

/-- Clusters that hold exit cores of a region, in cluster order (R387). -/
def exitClusters (s : State) (p r : Nat) (j : Job) : List Nat :=
  sortBy (fun a b => decide (a < b))
    ((((jobRegions j).map (fun x => x.exit)).getD r []).map (fun xy => clusterOf (relCore s p xy))).eraseDups

/-- A region's sub-Plate of a step: it is chained, sent to the peer, and compared with what the peer has sent (R387). -/
def subPlate (s : State) (p r : Nat) (j : Job) : State :=
  let n := (regionRun s p r).stepNum
  let ks := exitClusters s p r j
  let parts := ks.flatMap (fun k => sha256 (clOf s k).absorb1)
  let sub := sha256 (getN (zeros 32) j.subLast r ++ leBytes 8 n.toNat ++ leBytes 4 r ++ zeros 4 ++ parts)
  let s := ks.foldl (fun s k => updCl s k (fun c => { c with absorb1 := [] })) s
  let s := updJob s p (fun j => { j with subLast := putN j.subLast r sub, subOwn := j.subOwn ++ [(n, r, sub)] })
  compareSub (hlSend s (obj s 0x4500 1) 3 (subpMsg r n sub)) p r n

/-- Shadow recomputations that have not finished are abandoned and counted (R107). -/
def skipShadows (s : State) (cs : List Nat) : State :=
  cs.foldl (fun s c => if (coreOf s c).shdTile.isSome then
    bumpC (updCore s c (fun v => { v with shdTile := none })) c 0x350 63 32 1 else s) s

/-- The head has computed the entries of its wavefronts: requests move on, and a cancel of a request in PREFILL is decided at the
end of a step that draws nothing for it (R270, R285, R365). -/
def finishPrefill (s : State) (h n : Nat) : State :=
  match reqOf s h with
  | none => s
  | some r =>
      let r := { r with cached := r.cached + n }
      let s := setReq s h (if r.st = .resuming then { r with st := resumeState r } else r)
      if r.st = .prefill && r.cancel.isSome && !r.inFlight then
        if logReady s r.part.val 2 then cancelNow s h else logStall s r.part.val
      else s
/-- A decode step of a request has passed the head: the entry of its last token is written, or its verification wavefront has been
drawn from and awaits its commits (R301). -/
def finishDecode (r : Request) : Request :=
  match r.cycle with
  | some x => { r with cycle := some { x with verified := true } }
  | none => { r with cached := min (r.cached + 1) (rLength r) }
def finishWave (s : State) (x : RegionRun) : State :=
  let s := x.decode.foldl (fun s e => updReq s e.slot finishDecode) s
  x.prefill.foldl (fun s e => finishPrefill s e.slot e.count) s

/-- Port of a partition over which its job pipeline hands off to the next module (R546). -/
def hopPort (s : State) (p : Nat) : Option Nat := (partSites s p).find? (fun d => hlCarries s d 2)
/-- A handoff as it goes out on a Heliostat port: step number, and slot, start and count of each segment. Its layout is the model's
(log entry 33). -/
def hopMsg (x : RegionRun) : Bytes :=
  leBytes 8 x.stepNum.toNat ++ leBytes 4 x.decode.length ++ leBytes 4 x.prefill.length
    ++ (x.decode ++ x.prefill).flatMap (fun e => leBytes 4 e.slot ++ leBytes 4 e.start ++ leBytes 4 e.count)

/-- What ends a region's step: its marks are cleared and its wavefronts have left. -/
def endStep (s : State) (p r : Nat) (quiet : Bool) (j : Job) : State :=
  let s := skipShadows s (regionCores s p r)
  let s := updRegion s p r (fun x => { x with
    busy := false, decode := [], prefill := [], pads := 0, replays := 0, trips := 0, trapped := [], lastFault := none })
  if quiet then s else
    if isBino s p then subPlate s p r j else s

/-- Completion: the wavefront is handed to the next region once that is free, or leaves the module, or the head's commits may go. An
upstream region that only repeated its handoff (R359) goes idle. -/
def finishStep (s : State) (p r : Nat) (j : Job) : State :=
  let x := regionRun s p r
  if !waveAt x then endStep s p r true j
  else if kindAt j r = 2 then finishWave (endStep s p r false j) x
  else if lastRegion j r then
    match hopPort s p with
    | none => s
    | some d =>
        if (hlOf s d).sentStep = some x.stepNum then s
        else updHl (hlSend s d 2 (hopMsg x)) d (fun h => { h with sentStep := some x.stepNum })
  else
    let y := regionRun s p (r + 1)
    if y.busy || waveAt y then s
    else updRegion (endStep s p r false j) p (r + 1) (fun y => { y with
      decode := x.decode, prefill := x.prefill, pads := x.pads, stepNum := x.stepNum })

/-- REGION_STEP (R40, R276, R357): the step of a region begins, or comes to its end once every part has reported. -/
def execRegionStep (p : PartId) (region : Nat) (s : State) : Out :=
  let p := p.val
  .next (match jobOf s p with
    | none => s
    | some j =>
        let e := (partOf s p).epochs
        if !jobServes s p || (jobRegions j).length ≤ region then s
        else if (regionRun s p region).busy then
          if stepDone s p region j then finishStep s p region j else s
        else if !e.missing.isEmpty || e.st = .swapping || s.fin.held.isSome || !stewardUp s then s
        else startStep s p region j)

/-! Suspect cores (R103 to R106). -/

/-- CHK_STATE fields: STATE, MARGIN, EPISODES, NOTED (R116). -/
def setChk (s : State) (c hi lo v : Nat) : State := setCreg s c 0x360 (setBits (creg s c 0x360) hi lo (min v (2 ^ (hi + 1 - lo) - 1)))

/-- The built-in pattern test of a core is due, and until it completes the core's tiles are sampled at every step (R104). -/
def testCore (s : State) (c : Nat) : State :=
  let s := setChk (updCore s c (fun v => { v with forceDup := true })) c 27 26 2
  updFin s (fun f => { f with testsDue := if f.testsDue.contains c then f.testsDue else f.testsDue ++ [c] })

/-- One margin step for a suspect core (R104): the rail's where its target is 25 mV or more below 0.85 V, and otherwise the site's
swallow. The rail's margin is one step at most (R428). VCORE is the rail's target (log entry 127). -/
def marginStep (s : State) (c : Nat) : State :=
  let k := clusterOf c
  if bitsOf (kreg s k 0x58) 37 28 + 25 ≤ 850 then
    setChk (setMarginField (updCore s c (fun v => { v with railSteps := v.railSteps + 1 })) k 5) c 25 24 1
  else setChk (raiseSwallow (updCore s c (fun v => { v with swallowSteps := v.swallowSteps + 1 })) (siteOf c)) c 25 24 2

/-- A core becomes suspect (R103 to R105): event, margin step, and the pattern test, or at the third episode within 86,400 s the
fence. -/
def suspectCore (s : State) (c : Nat) : State :=
  let s := raise s 0x5031 2 (coreUnit c 0 0) (clusterOf c) []
  let eps := recent s 86400 (coreOf s c).episodes ++ [s.units]
  let s := marginStep (setChk (updCore s c (fun v => { v with episodes := eps })) c 27 26 1) c
  let s := doorbellAt s (clusterOf c) (0x20 + coreIn c) 0x5031
  if 3 ≤ eps.length then fenceAll (setChk s c 27 26 3) (coreUnit c 0 0) 0x5031 else testCore s c

/-- A core is noted (R102, R103). -/
def noteCore (s : State) (c : Nat) : State :=
  let notes := recent s 3600 (coreOf s c).notes ++ [s.units]
  let s := updCore s c (fun v => { v with notes := notes })
  if 2 ≤ notes.length then suspectCore s c else s

/-- No core of a list has had a suspect episode within 86,400 s. -/
def quiet (s : State) (cs : List Nat) : Bool := cs.all (fun c => (recent s 86400 (coreOf s c).episodes).isEmpty)

/-- MARGIN_REMOVE (R106): the margin steps that a core holds go, once no core of the rail, or of the site, has had a suspect
episode for 86,400 s; the rail keeps its margin while another of its cores holds a step. -/
def execMarginRemove (c : CoreId) (s : State) : Out :=
  let c := c.val
  let k := clusterOf c
  let d := siteOf c
  let v := coreOf s c
  let rail := v.railSteps != 0 && quiet s (coresOf k)
  let swallow := v.swallowSteps != 0 && quiet s (siteCores d)
  .next (
    if !rail && !swallow then s
    else
      let v' := { v with railSteps := if rail then 0 else v.railSteps, swallowSteps := if swallow then 0 else v.swallowSteps }
      let s := setCore s c v'
      let s := if rail && (coresOf k).all (fun x => (coreOf s x).railSteps == 0) then setMarginField s k 0 else s
      let s := if swallow then swallowStep s d ((siteSt s d).swallowSteps - v.swallowSteps) else s
      let left := if v'.swallowSteps ≠ 0 then 2 else if v'.railSteps ≠ 0 then 1 else 0
      let s := setChk s c 25 24 left
      if left = 0 && bitsOf (creg s c 0x360) 27 26 = 1 then setChk s c 27 26 0 else s)

/-! Duplicate execution (R100 to R102, R360). -/

/-- Partner of a core in the placement in force. -/
def partnersOf (s : State) (p : Nat) (j : Job) : List (Nat × Nat) :=
  match j.file with
  | some f => (placePartners f j.detour).map (fun x => (relCore s p x.1, relCore s p x.2))
  | none => []
/-- The second partner: the core that follows the first one in the partner map's order, the owner left out; in a region of two
cores the first partner itself (log entries 35, 128). -/
def secondPartner (s : State) (p : Nat) (j : Job) (r owner first : Nat) : Nat :=
  let cs := regionCores s p r
  let order := ((partnersOf s p j).map (fun x => x.1)).filter (fun c => cs.contains c && c != owner)
  let i := order.idxOf first
  (order.drop (i + 1) ++ order.take i).headD first

/-- Bit for bit equal; every NaN that an ME delivers is canonical (R85, R100). -/
def sameBits (a b : List F32) : Bool := a == b

/-- The partner's bits differ. -/
def dupMismatch (s : State) (p owner partner index : Nat) (step : W64) : State :=
  let s := bumpC s partner 0x340 31 0 1
  let s := emit s (clusterOf partner) { ev 0x5030 1 (coreUnit partner 0 0) (clusterOf partner)
      (leBytes 2 (coreSrc owner) ++ leBytes 2 (coreSrc partner) ++ leBytes 4 index ++ leBytes 8 step.toNat) with
    job := (jobOf s p).map (fun j => (j.number, BitVec.ofNat 32 j.nextStep.toNat)) }
  doorbellAt s (clusterOf partner) (0x20 + coreIn partner) 0x5030

/-- A case is over, and so is its tile. -/
def dupClear (s : State) (p : Nat) (owner : CoreId) : State :=
  updJob (updCore s owner.val (fun v => { v with dupTile := none })) p (fun j => { j with dups := j.dups.filter (fun d => d.owner != owner) })

/-- The partners' result takes the place of the owner's outputs of a command (R360), as the command would have written it (R89). -/
def replaceTile (s : State) (owner : Nat) (t : DupTile) (ys : List F32) : State :=
  let w := t.word.toNat
  let d := t.desc.toNat
  let n := outCount (wOpc w == 0x21) d
  let rows := (t.tokens.zip ((chunks n ys).zip (chunks n t.old)))
  rows.foldl (fun s e => spadWrite s owner (outAddr d e.1) (f32Bytes (outBytes (bitOf (wMod w) 0) e.2.2 e.2.1 (n % 2 = 1)))) s

/-- Region of a partition's job that holds a core. -/
def regionOfCore (s : State) (p c : Nat) (j : Job) : Option Nat :=
  (List.range (jobRegions j).length).find? (fun r => (regionCores s p r).contains c)

/-- Replay again in the course of a duplicate case; this is not bound by REPLAY_MAX (R360). -/
def replayDup (s : State) (p r : Nat) : State :=
  replaySteps (updRegion s p r (fun x => { x with replays := x.replays + 1 })) p none

/-- A comparison in the first run of a step. -/
def dupFirst (s : State) (p r : Nat) (owner partner : CoreId) (t : DupTile) (b : List F32) : State :=
  if sameBits t.outs b then updCore s owner.val (fun v => { v with dupTile := none })
  else
    let step := (regionRun s p r).stepNum
    let s := dupMismatch s p owner.val partner.val t.index.toNat step
    let d : DupCase :=
      { owner := owner, partner := partner, index := t.index, step := step, first := t.outs, round := 1, second := none }
    let s := updJob s p (fun j => { j with dups := j.dups ++ [d] })
    failStep s p r 0x5030 (BitVec.ofNat 32 (coreUnit partner.val 0 0)) none

/-- The comparison of the replay with the second partner (R102). -/
def dupSecond (s : State) (p r : Nat) (d : DupCase) (partner : CoreId) (t : DupTile) (b : List F32) : State :=
  if sameBits t.outs b then
    noteCore (dupClear s p d.owner) (if sameBits t.outs d.first then d.partner.val else d.owner.val)
  else
    let s := dupMismatch s p d.owner.val partner.val d.index.toNat d.step
    let s := updJob s p (fun j => { j with
      dups := j.dups.map (fun x => if x.owner = d.owner then { d with round := 2, second := some partner } else x) })
    let s := suspectCore s d.owner.val
    match jobOf s p with
    | some j => if j.restarting then s else replayDup s p r
    | none => s

/-- The comparison of the two partners in the further replay (R360). -/
def dupThird (s : State) (p : Nat) (d : DupCase) (second : CoreId) (t : DupTile) (a b : List F32) : State :=
  if sameBits a b then dupClear (replaceTile s d.owner.val t a) p d.owner
  else
    let s := [d.owner, d.partner, second].foldl (fun s c => noteCore s c.val) (dupClear s p d.owner)
    restartBegin s p 0x5030

/-- DUP_COMPARE (R100 to R105, R360): the partner has multiplied the sampled tile of `owner` on its own MEs, under a grant of its
own, and compares. `silent` are the faults of its MEs; in the further replay, those of the first partner's too. The raw images
go from the owner to the partner within this command (log entry 129). -/
def execDupCompare (p : PartId) (owner partner : CoreId) (cmdIndex : W32) (silent silent1 : List (Nat × W32)) (s : State) : Out :=
  let p := p.val
  .next (match jobOf s p, (coreOf s owner.val).dupTile with
    | some j, some t =>
        match regionOfCore s p owner.val j with
        | none => s
        | some r =>
            let case_ := j.dups.find? (fun d => d.owner == owner)
            let due := match case_ with
              | none => (partnersOf s p j).contains (owner.val, partner.val)
              | some d => match d.second with
                | none => secondPartner s p j r owner.val d.partner.val == partner.val
                | some x => x == partner
            if !j.running || j.frozen || j.restarting || !(regionRun s p r).busy || t.index ≠ cmdIndex || !due then s
            else
              let s := coreRequests s partner.val 0
              let b := faultOutputs silent 0 t.right
              if !coreGranted s partner.val 0 then s
              else match case_ with
                | none => dupFirst s p r owner partner t b
                | some d => match d.second with
                  | none => dupSecond s p r d partner t b
                  | some x => dupThird s p d x t (faultOutputs silent1 0 t.right) b
    | _, _ => s)

/-! The shadow quality check (R107 to R109). -/

/-- The deviation of a tile, or none where it is floored (R108). -/
def deviation (s : State) (narrow ref : List F32) : Option F32 :=
  let num := sqrt32 (sumsq32 ((narrow.zip ref).map (fun e => sub32 e.1 e.2)))
  let den := sqrt32 (sumsq32 ref)
  if !isFinite32 num || !isFinite32 den || lt32 den (BitVec.ofNat 32 (obj s 0x4320 7)) then none else some (div32 num den)

/-- The threshold of a region (R109). -/
def qualT (s : State) (m : Rat) : Rat :=
  max (f32Rat (obj s 0x4320 4)) (min (f32Rat (obj s 0x4320 5)) (f32Rat (obj s 0x4320 3) * m))

/-- A deviation meets its region's statistics (R109). -/
def qualityCheck (s : State) (p c r : Nat) (delta : Rat) : State :=
  let x := regionRun s p r
  if delta ≤ qualT s x.qualM then
    updRegion s p r (fun x => { x with qualM := x.qualM + (delta - x.qualM) / 64, qualN := x.qualN + 1 })
  else
    let s := bumpC s c 0x348 31 0 1
    let s := raise s 0x5033 (if x.qualN < 256 then 0 else 1) (coreUnit c 0 0) (clusterOf c) []
    let s := doorbellAt s (clusterOf c) (0x20 + coreIn c) 0x5033
    let ts := recent s 1 x.qualTimes ++ [s.units]
    if ts.length < 16 then updRegion s p r (fun x => { x with qualTimes := ts })
    else raise (updRegion s p r (fun x => { x with qualTimes := [] })) 0x5034 1 (coreUnit c 0 0) (clusterOf c) []

/-- The outputs of a sampled tile in reference mode, from FP32 source values: those of token t start at granule src + t × pitch
(R107). -/
def shadowOutputs (s : State) (c : Nat) (t : ShdTile) (src pitch : Nat) : List F32 :=
  let d := t.desc.toNat
  let n := mdNblk d
  t.tokens.flatMap (fun k =>
    let act := (chunks 128 (spadRead s c (8 * (src + k * pitch)) (128 * n))).map (fun b => (toF32s b).map fv)
    (List.range (mdRows d)).map (fun r => (mmaOut t.tensor true one32 (mdRows d) n r act).1))

/-- SHADOW_CHECK_DONE (R107 to R110): a recomputation ends, on MEs that hold grants of the lowest class. `src` is where the layout
holds the tile's FP32 source values, with their pitch; none when it was abandoned. -/
def execShadowCheckDone (c : CoreId) (region : Nat) (src : Option (BitVec 18 × BitVec 18)) (s : State) : Out :=
  let c := c.val
  .next (match corePart s c, (coreOf s c).shdTile with
    | some p, some t =>
        if !(regionRun s p region).busy || !(regionCores s p region).contains c then s
        else match src with
          | none => skipShadows s [c]
          | some a =>
              let s := coreRequests s c 2
              if !coreGranted s c 2 then s
              else
                let ref := shadowOutputs s c t a.1.toNat a.2.toNat
                let s := bumpC (updCore s c (fun v => { v with shdTile := none })) c 0x348 63 32 1
                match deviation s t.narrow ref with
                | none => bumpC s c 0x350 31 0 1
                | some d => qualityCheck s p c region (toRat32 d)
    | _, _ => s)

end Sys2Proof.Machine
end

