-- ==== Sys2Proof/Machine/FirmwareCmds.lean ====
section
/-! DEFINITION. Standby power, Eclosion (R456 to R460), the firmware at Eclosion (R480 to R482), pattern tests (R104), the live update
(R483 to R485) and the Stewards' handover (R487, R488). -/

namespace Sys2Proof.Machine

/-! Eclosion. -/

/-- STANDBY_POWER_ON (R571, R574, R461): the Finder and the management agent begin; the thermal estimates take their seeds. A pin that
is low holds the module as under a class M reset. -/
def execStandbyPowerOn (slotPins : BitVec 6) (resetPinLow : Bool) (s : State) : Out :=
  .next (if s.fin.standby12 then s
    else
      let s := { s with slotId := slotPins }
      updFin s (fun f => { f with
        standby12 := true, pwr := 3, resetPin := resetPinLow, held := if resetPinLow then some (2, 0) else none
        rthDie := some (rthDie s), rthStack := some (rthStack s) }))

/-- The first missing condition of R456. -/
def missingCond (o : EclosionObs) : Option Nat :=
  firstOf [(!o.mirror64 && !o.mirror72, 1), (!o.refclk, 2), (!o.input, 3), (!o.inlet, 4), (!o.flow, 5)]

/-- ECLOSION (R456, R458, R461, R517, R558): the I/O dies are energised and their control cores start in their ROM. -/
def execEclosion (obs : EclosionObs) (s : State) : Out :=
  let f := s.fin
  .next (if !f.standby12 || !f.eclosing || f.phase ≠ 0 || f.held.isSome || f.resetPin || f.stop || f.heldOff then s
    else
      let s := updFin s (fun f => { f with storeOk := obs.mirror64 || obs.mirror72, restored := f.restored || obs.mirror64 != obs.mirror72 })
      match missingCond obs with
      | some n =>
          if s.fin.eclosionWaited then s
          else updFin (finderEvent s 0x1050 (if n = 1 then 3 else 1) (moduleUnit 0) [BitVec.ofNat 8 n]) (fun f => { f with eclosionWaited := true })
      | none =>
          let s := takeCal (updFin s (fun f => { f with eclosionWaited := false, phase := 1, ioPowered := true }))
          identityCheck (bootIo (updSec s (fun q => { q with debugSince := false }))))

/-- Sites of group g in ascending number (R457). -/
def groupSites (g : Nat) : List Nat := (List.range 64).filter (fun d => d % 8 % 4 == g % 4 && d / 8 % 4 == g / 4)

/-- One site of a group (R417, R457 to R459). -/
def rampSite (s : State) (d : Nat) (r : RampResult) : State :=
  if siteFenced s d then s
  else match r with
    | .ok => setSiteState (energiseSite s d) d 1
    | .probeFail => tripSite s d 2
    | .tripOver => tripSite s d 1
    | .tripUnder => tripSite s d 2
    | .noSettle => fenceAll (openSite s d 0) (dieUnit d 0) 0x1032

/-- The pattern test of every core that is not fenced is due (R458). -/
def startTests (s : State) : State :=
  let cs := ((poweredSites s).flatMap siteCores).filter (fun c =>
    !coreFenced s c && !clusterFenced s (clusterOf c) && !siteFenced s (siteOf c))
  updFin s (fun f => { f with testsDue := cs })

/-- The site groups are on and the Steward runs: it loads every other image, and the tests begin (R458, R482). -/
def loadImages (s : State) : State := startTests (updFin (reloadAll s) (fun f => { f with phase := 0x22 }))

/-- All groups are on (R458): the couplings close, the cluster control cores start, and the sites join their partitions. -/
def groupsOn (s : State) : State :=
  let s := bootClusters (recouple s)
  let s := (poweredSites s).foldl (fun s d => match rectPart s d with
    | some p => joinSite s d p
    | none => updSite s d (fun t => { t with lastPart := none, joining := none })) s
  let s := updFin s (fun f => { f with recoverDue := validParts s, phase := 0x21 })
  if stewardUp s then loadImages s else s

/-- SITE_GROUP_ENERGISE (R457 to R459). -/
def execSiteGroupEnergise (g : Fin 16) (results : List RampResult) (s : State) : Out :=
  if results.length ≠ 4 then .fault (.illFormed "SITE_GROUP_ENERGISE")
  else .next (
    let before := if g.val = 0 then 1 else 0x0F + g.val
    if s.fin.held.isSome || s.fin.sagWarn || s.fin.phase.toNat ≠ before then s
    else
      let s := ((groupSites g.val).zip results).foldl (fun s e => rampSite s e.1 e.2) s
      let s := updFin s (fun f => { f with phase := BitVec.ofNat 8 (0x10 + g.val) })
      if g = 15 then groupsOn s else s)

/-! Firmware at Eclosion. -/

/-- An image is entered: it lies at offset 0 of the core's memory (R480, R482), and a core that was parked takes the interrupts that
waited (R484). -/
def enterImage (s : State) (i : Nat) (digest img : Bytes) : State :=
  let s := updCc s i (fun c => ccDeliver { c with
    image := some digest, mailbox := none, parked := false, failed := false, pmpLocked := true, mem := memWrite c.mem 0 img })
  if i < 1024 then setLocal s i else s

/-- The service control core of the I/O die that the Steward does not run on. -/
def standbyCc (s : State) : Nat := if s.stw.die = 64 then 1041 else 1025

/-- Image of KIND 3 in a release. -/
def serviceImage (rel : Bytes) : Bytes := sliceB rel (relOffset (relImages rel) 2) (relImage rel 2).2.1

/-- A verified release becomes the Steward's: it enters its own image, and loads the others once the site groups are on. -/
def acceptRelease (s : State) (rel : Bytes) : State :=
  let s := updStw s (fun t => { t with
    release := some (relDigest rel, relImages rel), bootFailed := false, activeSince := s.units, lastBeat := s.units })
  let s := enterImage s (stewardCc s) (relImage rel 2).2.2.2 (serviceImage rel)
  if s.fin.phase = 0x21 then loadImages s else s

/-- The boot ROM takes the ports in ascending number; a release that fails is reported and the next port is tried. -/
def tryPorts (s : State) (served : List (WlPort × Bytes)) : List Nat → State
  | [] => updStw s (fun t => { t with bootFailed := true })
  | n :: rest => match served.find? (fun e => e.1.val == n) with
    | none => tryPorts s served rest
    | some e =>
        if !portUp s n then tryPorts s served rest
        else match relFault e.2 with
          | some k => tryPorts (raise s 0x8020 2 (dieUnit 64 12) (stewardCc s) [BitVec.ofNat 8 n, BitVec.ofNat 8 k]) served rest
          | none => acceptRelease s e.2

/-- The Steward's boot ROM waits for a release. -/
def bootWaits (s : State) : Bool := s.fin.ioPowered && s.fin.held.isNone && (ccOf s (stewardCc s)).image.isNone
def anyServed (s : State) (served : List (WlPort × Bytes)) : Bool := served.any (fun e => portUp s e.1.val)

/-- FIRMWARE_BOOT (R481). -/
def execFirmwareBoot (served : List (WlPort × Bytes)) (s : State) : Out :=
  .next (if !bootWaits s || s.stw.bootFailed || !anyServed s served then s else tryPorts s served (List.range 16))

/-- FIRMWARE_RETRY (R481). -/
def execFirmwareRetry (served : List (WlPort × Bytes)) (s : State) : Out :=
  .next (if !bootWaits s || !s.stw.bootFailed || !anyServed s served then s else tryPorts s served (List.range 16))

/-- An image has failed its digest twice (R482): a cluster is fenced, and the port of an I/O die stays down. -/
def loadFails (s : State) (i : Nat) : State :=
  let s := updCc s i (fun c => { c with mailbox := none, image := none, failed := decide (1024 ≤ i) || c.failed })
  if i < 1024 then
    windowEvents s (fenceAll (raise s 0x9034 2 (clusterUnit i 0) (stewardCc s) []) (clusterUnit i 0) 0x9034)
  else
    let n := (i - 1024) / 2
    let s := raise s 0x9034 2 (dieUnit (64 + n) 12) (stewardCc s) []
    let s := if i = standbyCc s then updStw s (fun t => { t with standbyOk := false }) else s
    if (wlOf s n).st = 0 then s else wlGoDown s n

/-- The image that a core read, of the two times it read it (R482). -/
def goodRead (digest : Bytes) (len : Nat) (read1 read2 : Bytes) : Option Bytes :=
  let ok := fun (b : Bytes) => b.length == len && sha256 b == digest
  if ok read1 then some read1 else if ok read2 then some read2 else none

/-- CC_IMAGE_LOAD (R482, R442). -/
def execCcImageLoad (cc : CcId) (read1 read2 : Bytes) (s : State) : Out :=
  let i := cc.val
  .next (match (ccOf s i).mailbox with
    | none => s
    | some m =>
        if !stewardUp s || s.fin.held.isSome then s
        else match goodRead m.2.2.2 m.2.1 read1 read2 with
          | none => loadFails s i
          | some img =>
              let s := enterImage s i m.2.2.2 img
              if i = standbyCc s then updStw s (fun t => { t with standbyOk := true }) else s)

/-- PATTERN_TEST_DONE (R104, R116, R458): a core that passed is suspect while it holds a margin step (log entry 130). -/
def execPatternTestDone (c : CoreId) (pass : Bool) (s : State) : Out :=
  let c := c.val
  .next (if !s.fin.testsDue.contains c then s
    else
      let s := updFin s (fun f => { f with testsDue := f.testsDue.filter (· != c) })
      let s := updCore s c (fun v => { v with forceDup := false })
      let held := (coreOf s c).railSteps + (coreOf s c).swallowSteps
      if pass then setChk s c 27 26 (if held = 0 then 0 else 1)
      else windowEvents s (fenceAll (raise (setChk s c 27 26 3) 0x5032 2 (coreUnit c 0 0) (clusterOf c) []) (coreUnit c 0 0) 0x5032))

/-- A test of a core that has been fenced since is no longer awaited. -/
def testsOpen (s : State) : Bool :=
  s.fin.testsDue.any (fun c => !coreFenced s c && !clusterFenced s (clusterOf c) && !siteFenced s (siteOf c))

/-- READY (R458, R460, R469). -/
def execReady (s : State) : Out :=
  .next (if s.fin.phase ≠ 0x22 || s.fin.held.isSome || s.fin.ready || testsOpen s || !s.fin.recoverDue.isEmpty then s
    else
      let n := ((List.range 64).filter (siteFenced s)).length
      let s := updFin s (fun f => { f with phase := 0xFF, pwr := 0, ready := true, eclosing := false, testsDue := [] })
      let s := finderEvent s 0x1051 0 (moduleUnit 0) [BitVec.ofNat 8 n]
      (s.clusters.map (fun e => e.1)).foldl regrant s)

/-! Live update (R483 to R485). -/

/-- Why a live update is refused (R483). -/
def updateReason (s : State) (rel : Option Bytes) : Option Nat :=
  firstOf [(s.binoState = 1, 1), (!inRun s, 2), (s.stw.fwState ≠ 0, 3), (powerBusy s, 4),
    ((match rel with | some b => (relFault b).isSome | none => true), 5)]

def updateFailed (s : State) (reason : Nat) : State := stwEvent s 0x9031 1 none none [BitVec.ofNat 8 reason]

/-- FW_UPDATE (R483, R513). -/
def execFwUpdate (req : DapReq) (addr : W64) (rel : Option Bytes) (s : State) : Out :=
  .next (dapWrite s req 0x4A00 1 (leBytes 8 addr.toNat)
    (fun _ s => if (carrier req).isNone || !stewardUp s then stState else stOk)
    (fun _ s => match updateReason s rel, rel with
      | none, some b => updStw s (fun t => { t with
          newRelease := some (relDigest b, relImages b), fwState := 1, updated := [], updateFail := false })
      | some r, _ => updateFailed s r
      | none, none => s))

/-- Control cores that run an image: a live update reloads each of them. -/
def runningCcs (s : State) : List Nat := (poweredCcs s).filter (fun i => (ccOf s i).image.isSome)
/-- Stage of a control core in the order of R485. -/
def updateStage (i : Nat) : Nat :=
  if i < 1024 then 0 else if i = 1024 || i = 1025 then 3 else if i = 1040 || i = 1041 then 2 else 1
/-- The core is the next that R485 lets reload: every core of an earlier stage is done, and the Steward runs elsewhere. -/
def updateNext (s : State) (i : Nat) : Bool :=
  i != stewardCc s && !s.stw.updated.contains i
    && (runningCcs s).all (fun k => s.stw.updated.contains k || decide (updateStage i ≤ updateStage k))

/-- A cluster control core may park its duties for a reload: at most 64 do at once, and one of a site (R484). -/
def mayPark (s : State) (i : Nat) : Bool :=
  let busy := s.ccs.filter (fun e => e.2.parked)
  decide (busy.length < 64) && !busy.any (fun e => e.1 / 16 == i / 16)

/-- A core reads and enters an image in a reload; a cluster control core parks its duties first (R484). -/
def reloadCore (s : State) (i : Nat) (load : State → State) : State :=
  if i < 1024 && !(ccOf s i).parked then
    if mayPark s i then updCc s i (fun c => { c with parked := true }) else s
  else load s

/-- CORE_RELOAD (R484, R485): a cluster control core parks its duties, and with the next command it loads the image and resumes; the
sibling of a core of an I/O die takes its duties over. The core keeps LOCAL_TIME, its ICU and its state. While rolling back, each core
that has been reloaded takes the old image again. -/
def execCoreReload (cc : CcId) (read1 read2 : Bytes) (s : State) : Out :=
  let i := cc.val
  .next (
    let back := s.stw.fwState == 2
    let rel := if back then s.stw.release else s.stw.newRelease
    match rel.bind (fun r => imageFor r i) with
    | none => s
    | some m =>
        if !stewardUp s || s.stw.fwState = 0 || s.fin.held.isSome then s
        else if back then
          if !s.stw.updated.contains i || i = stewardCc s then s
          else reloadCore s i (fun s =>
            let s := updStw s (fun t => { t with updated := t.updated.filter (· != i) })
            match goodRead m.2.2.2 m.2.1 read1 read2 with
            | some img => enterImage s i m.2.2.2 img
            | none => loadFails s i)
        else if !updateNext s i || (ccOf s i).image.isNone then s
        else reloadCore s i (fun s =>
          let s := updStw s (fun t => { t with updated := t.updated ++ [i] })
          match goodRead m.2.2.2 m.2.1 read1 read2 with
          | some img => enterImage s i m.2.2.2 img
          | none => updStw s (fun t => { t with fwState := 2, updateFail := true })))

/-- FW_UPDATE_DONE (R485, R489, R545): on success the new release is in force and Heliostat peers hear of it; after a roll-back the old
one has stayed. The active Steward is on die 64 again. -/
def execFwUpdateDone (s : State) : Out :=
  .next (if !stewardUp s || s.stw.die ≠ 64 then s
    else if s.stw.fwState = 1 then
      if !(runningCcs s).all (fun i => s.stw.updated.contains i) then s
      else
        let s := updStw s (fun t => { t with release := t.newRelease, newRelease := none, fwState := 0, updated := [] })
        let s := stwEvent s 0x9030 0 none none []
        ((List.range 64).filter (chainUp s)).foldl (fun s d => redecide (sendHello s d) d) s
    else if s.stw.fwState = 2 && s.stw.updated.isEmpty then
      updateFailed (updStw s (fun t => { t with newRelease := none, fwState := 0, updateFail := false })) 6
    else s)

/-! The Stewards (R487, R488). -/

/-- STEWARD_HEARTBEAT (R487). -/
def execStewardHeartbeat (s : State) : Out :=
  .next (if !stewardUp s then s else updStw s (fun t => { t with lastBeat := s.units }))

/-- Some step of some job is in flight, or some token record or the commits of some verification cycle are on their way. -/
def stepsInFlight (s : State) : Bool :=
  s.parts.any (fun e => match e.2.job with
    | some j => j.regions.any (fun r => r.2.busy || !r.2.decode.isEmpty || !r.2.prefill.isEmpty)
    | none => false)
  || s.cores.any (fun e => e.2.te.any (fun t => t.opc == 0x84#8))
  || s.reqs.any (fun e => match e.2.cycle with | some x => x.verified | none => false)

/-- The other Steward becomes active; the host-time pair is carried over to its local time (R402, R487). -/
def switchSteward (s : State) : State :=
  let old := stewardTime s
  let s := updStw s (fun t => { t with die := if t.die = 64 then 72 else 64, activeSince := s.units, lastBeat := s.units })
  let now := stewardTime s
  updStw s (fun t => { t with hostPair := t.hostPair.map (fun h => (BitVec.ofNat 64 (now + 2 ^ 64 + h.1.toNat - old), h.2)) })

/-- STEWARD_HANDOVER (R487): once no step is in flight. -/
def execStewardHandover (s : State) : Out :=
  .next (if !stewardUp s || !s.stw.standbyOk || stepsInFlight s then s
    else stwEvent (switchSteward s) 0x9032 0 none none [])

/-- STEWARD_FAILOVER (R488): steps in flight are replayed, and the failed core is reloaded as standby. -/
def execStewardFailover (s : State) : Out :=
  .next (if !s.fin.ioPowered || s.fin.held.isSome || !s.stw.standbyOk || (ccOf s (standbyCc s)).image.isNone then s
    else
      let lost := stewardCc s
      let s := switchSteward s
      let s := updStw s (fun t => { t with standbyOk := false })
      let s := stwEvent s 0x9033 3 none none []
      let s := mailImage (updCc s lost (fun _ => { CcState.reset with boot := s.units })) lost
      (s.parts.map (fun e => e.1)).foldl (fun s p => match jobOf s p with
        | some j => if j.running && !j.restarting && j.regions.any (fun r => r.2.busy) then replaySteps s p none else s
        | none => s) s)

end Sys2Proof.Machine
end

