-- ==== Sys2Proof/Machine/WenlinkCmds.lean ====
section
/-! DEFINITION. The Wenlink commands (ch. 23): link states, flits, host reads, doorbells, queues, the parking area. -/

namespace Sys2Proof.Machine

/-! Queues as their slots are freed (R288, R391, R528, R533). -/

/-- Requests paused on a token queue for back-pressure go on once 32 or fewer records are pending (R288). -/
def queueDrained (s : State) (q : Nat) : State :=
  if 32 < tokenPending s q then s
  else
    ((s.reqs.filter (fun e => rTq e.2 == q && e.2.st == .paused && e.2.pause == some .backpressure)).map (fun e => e.1)).foldl
      (fun s h => match reqOf s h with
        | none => s
        | some r =>
            let s := setReq s h { r with st := if r.placed then r.pausedFrom else .resuming, pause := none }
            logPause s r.part.val h) s

/-- What the module does when an outbound queue has room: held records, deferred Logbook records and paused requests. -/
def queueFreed (s : State) (q : Nat) : State :=
  match queueAt s q with
  | none => s
  | some w =>
      if w.kind = 2 then queueDrained s q
      else if w.kind = 3 then flushHeld s (portOf q)
      else if w.kind = 5 then
        let p := w.part.toNat
        if (partOf s p).logDeferred.isEmpty && !(partOf s p).logStalled then s
        else match logTarget s p with
          | some x => logFlush (partOf s p).logDeferred s p x
          | none => s
      else s

/-- A port carries traffic again: every outbound queue of it counts its real room. -/
def portBack (s : State) (n : Nat) : State :=
  ((wlOf s n).queues.map (fun e => e.1)).foldl queueFreed (flushHeld s n)

/-- Entry to UP (R520). -/
def wlUp (s : State) (n : Nat) : State := portBack (portEvent (wlState s n 5) n 0x7010 0 []) n

/-- A host time (R403, R528, R529): a lower one than the last is a violation and is not paired. -/
def noteHostTime (s : State) (n : Nat) (t : W64) : State :=
  match (wlOf s n).lastHostTime with
  | some old =>
      if t.toNat < old.toNat then wlViolation s n 1 true
      else pairTime (updWl s n (fun w => { w with lastHostTime := some t })) t
  | none => pairTime (updWl s n (fun w => { w with lastHostTime := some t })) t
where
  pairTime (s : State) (t : W64) : State :=
    if stewardUp s then updStw s (fun v => { v with hostPair := some (BitVec.ofNat 64 (stewardTime s), t), pairAt := s.units })
    else s

/-! Link states (R519 to R522). -/

/-- The port's link control core could load its image (R482). -/
def portAlive (s : State) (n : Nat) : Bool := s.fin.ioPowered && !(ccOf s (linkCc n)).failed
def laneCount (lanes : Byte) : Nat := bitCount lanes.toNat 8

/-- The generation to train at: the lower of GEN_MAX and the partner's maximum once that is known (R519). -/
def trainGen (s : State) (n : Nat) : Nat :=
  let own := obj s 0x4D01 (n + 1)
  let peer := (wlOf s n).partnerGen.toNat
  if peer = 0 then own else min own peer

/-- WL_DETECT (R519, R520). -/
def execWlDetect (n : WlPort) (lanes : Byte) (s : State) : Out :=
  let n := n.val
  .next (if !portAlive s n || 2 ≤ (wlOf s n).st.val then s
    else
      let s := updWl s n (fun w => { w with present := true })
      if laneCount lanes < 4 then s
      else
        let s := if (wlOf s n).st = 0 then wlState s n 1 else s
        wlState (updWl s n (fun w => { w with gen := Fin.ofNat 4 (trainGen s n), failures := 0 })) n 2)

/-- The module's capability block, in the first flit of CONFIG (R521). -/
def ownCapability (s : State) (n : Nat) : Bytes :=
  leBytes 4 0x50414357 ++ [1#8] ++ leBytes 1 (obj s 0x4D01 (n + 1)) ++ leBytes 1 n ++ leBytes 1 s.slotId.toNat
    ++ leBytes 8 Config.idrev.toNat ++ zeros 48

/-- WL_TRAIN (R519, R520): lock takes the port through EQUALISE to CONFIG; failure trains again, lower, or ends in DOWN. -/
def execWlTrain (n : WlPort) (obs : TrainObs) (s : State) : Out :=
  let n := n.val
  .next (if (wlOf s n).st ≠ 2 && (wlOf s n).st ≠ 3 then s
    else match obs with
      | .locked lanes =>
          if laneCount lanes < 4 then wlGoDown s n
          else
            let full := lanes == 0xFF#8
            let s := if (wlOf s n).st = 2 then wlState s n 3 else s
            let block := ownCapability s n
            let s := updWl s n (fun w => { w with
              lanes := if full then 0xFF else 0x0F, failures := 0
              unacked := [(0, sliceB block 0 248)], txSeq := 1, rxSeq := 0, rx := [], lastAck := none })
            let s := wlState s n 4
            if full then s else portEvent s n 0x7013 1 []
      | .failed =>
          let w := wlOf s n
          if w.gen.val ≤ 1 then wlGoDown s n
          else
            let again := decide (w.failures = 0)
            let s := updWl s n (fun w => { w with
              gen := if again then w.gen else Fin.ofNat 4 (w.gen.val - 1), failures := if again then 1 else 0 })
            wlState s n 2)

/-- The form of a partner's capability block (R521). -/
def capabilityOk (b : Bytes) : Bool :=
  b.length == 64 && leAt b 0 4 == 0x50414357 && byteAt b 4 == 2 && decide (1 ≤ byteAt b 5) && decide (byteAt b 5 ≤ 3)
    && leAt b 6 2 == 0 && leAt b 8 8 == 0 && leAt b 0x28 24 == 0

/-- WL_CAPABILITY (R521, R520). -/
def execWlCapability (n : WlPort) (block : Bytes) (s : State) : Out :=
  let n := n.val
  .next (if (wlOf s n).st ≠ 4 then s
    else if !capabilityOk block then wlViolation (wlState (updWl s n wlLinkReset) n 1) n 0 true
    else
      let s := updWl s n (fun w => { w with
        partnerGen := BitVec.ofNat 8 (byteAt block 5), bootAddr := BitVec.ofNat 64 (leAt block 0x10 8)
        bootLen := BitVec.ofNat 64 (leAt block 0x18 8), gen := Fin.ofNat 4 (min w.gen.val (byteAt block 5)) })
      let s := noteHostTime s n (BitVec.ofNat 64 (leAt block 0x20 8))
      if (wlOf s n).st ≠ 4 then s else wlUp s n)

/-- WL_DOWN (R520). A quarantined port stays so. -/
def execWlDown (n : WlPort) (s : State) : Out :=
  let n := n.val
  .next (let s := if (wlOf s n).present then updWl s n (fun w => { w with present := false }) else s
    if (wlOf s n).st = 0 || (wlOf s n).st = 7 then s else wlGoDown s n)

/-- How a retrain ends (R520): UP within 2 ms, otherwise DOWN. -/
def retrainEnds (s : State) (n : Nat) (recovered : Bool) : State :=
  if (wlOf s n).st ≠ 6 then s else if recovered then wlUp s n else wlGoDown s n

/-- WL_RETRAIN (R520, R523). -/
def execWlRetrain (n : WlPort) (recovered : Bool) (s : State) : Out :=
  let n := n.val
  .next (retrainEnds (if (wlOf s n).st = 5 then wlRetrainNow s n else s) n recovered)

/-- WL_TAP_ADAPT (R522). -/
def execWlTapAdapt (n : WlPort) (s : State) : Out :=
  let n := n.val
  .next (if (wlOf s n).st ≠ 5 || (wlOf s n).tapsWarm then s
    else updWl s n (fun w => { w with updates := w.updates + 1, tapsWarm := decide (16777216 ≤ w.updates + 1) }))

/-! Flits (R523). -/

/-- A cumulative acknowledgement: progress clears the count of replays. -/
def wlAcked (w : WlState) (ack : Nat) : WlState :=
  let left := unackedAfter ack w.unacked
  if left.length < w.unacked.length then { w with unacked := left, replays := 0 } else w

/-- The port replays its unacknowledged flits: eight replays without progress, or more than 1,024 in 1 s, start RETRAIN. -/
def wlReplay (s : State) (n : Nat) : State :=
  if (wlOf s n).unacked.isEmpty then s
  else
    let s := updWl s n (fun w => { w with
      replays := w.replays + 1, replayTimes := recent s 1 w.replayTimes ++ [s.units]
      err := BitVec.ofNat 64 (bumpField w.err.toNat 31 16 1) })
    let w := wlOf s n
    if w.st = 5 && (8 ≤ w.replays || 1024 < w.replayTimes.length) then wlRetrainNow s n else s

/-- A message's header keeps R525; `len` is its LEN. -/
def messageOk (b : Bytes) : Bool :=
  let t := byteAt b 0
  let f := byteAt b 1
  let len := leAt b 4 4
  decide (len ≤ 4096) && (
    if t = 0x03 then decide (f < 4)
    else f == 0 && (
      if t = 0x81 then decide (leAt b 8 8 ≤ 1)
      else if t = 0x82 then len == 16 && leAt b 18 2 == 0
      else if t = 0x83 then len == 8
      else if t = 0x84 then len == 32
      else if t = 0x85 then len == 8 && leAt b 18 6 == 0
      else if t = 0x86 then len == 16
      else false))

/-- Count a message from the host; more than 65,536 in 1 ms are a violation, reported once a second (R535). -/
def countMessage (s : State) (n : Nat) : State :=
  let ms := s.units / (unitsPerSec / 1000)
  let sec := s.units / unitsPerSec
  let w := wlOf s n
  let count := if w.rate.1 = ms then w.rate.2 + 1 else 1
  let s := updWl s n (fun w => { w with
    rate := (ms, count), out := if w.rate.1 ≠ ms && 65536 < w.rate.2 then w.out ++ [.credits false] else w.out })
  if count ≠ 65537 then s
  else
    let s := updWl s n (fun w => { w with out := w.out ++ [.credits true], rateSec := some sec })
    wlViolation s n 6 (w.rateSec != some sec)

/-- Take a complete message off the payload bytes received; a malformed one is discarded. A message starts a payload of its own, so
that a flit completes one at most. What a message does comes with its own row (log entry 29). -/
def takeMessage (s : State) (n : Nat) : State :=
  let w := wlOf s n
  let used := alignUp (16 + leAt w.rx 4 4) 248
  if w.rx.length < 248 || w.st ≠ 5 then s
  else if 4096 < leAt w.rx 4 4 then wlViolation (updWl s n (fun w => { w with rx := [] })) n 0 true
  else if w.rx.length < used then s
  else
    let ok := messageOk w.rx
    let s := countMessage (updWl s n (fun w => { w with rx := w.rx.drop used })) n
    if ok then s else wlViolation s n 0 true

/-- The receiver answers a flit: ACK, or NAK, with the last good SEQ. -/
def wlAnswer (s : State) (n : Nat) (nak : Bool) : State := updWl s n (fun w => { w with lastAck := some (nak, w.rxSeq - 1) })

/-- WL_FLIT (R522, R523, R524). -/
def execWlFlit (n : WlPort) (flit : Bytes) (s : State) : Out :=
  let n := n.val
  if flit.length ≠ 256 then .fault (.illFormed "WL_FLIT")
  else .next (
    let st := (wlOf s n).st
    if st ≠ 5 && st ≠ 4 then s
    else if !flitCrc flit then
      wlAnswer (updWl s n (fun w => { w with err := BitVec.ofNat 64 (bumpField w.err.toNat 63 32 1) })) n true
    else
      let s := updWl s n (fun w => wlAcked w (flAck flit))
      if flKind flit = 3 then wlReplay s n
      else if flKind flit ≠ 1 then s
      else if flSeq flit ≠ (wlOf s n).rxSeq.toNat then wlAnswer s n true
      else
        let s := wlAnswer (updWl s n (fun w => { w with
          rxSeq := w.rxSeq + 1, rx := if st = 5 then w.rx ++ flPayload flit else w.rx })) n false
        takeMessage s n)

/-- WL_REPLAY_TIMEOUT (R523). -/
def execWlReplayTimeout (n : WlPort) (s : State) : Out :=
  let n := n.val
  .next (if (wlOf s n).st ≠ 5 && (wlOf s n).st ≠ 4 then s else wlReplay s n)

/-! Host reads (R526, R531). -/

def readAt (s : State) (n : Nat) (tag : BitVec 16) : Option (BitVec 16 × W64 × Nat × ReadFor) :=
  (wlOf s n).reads.find? (fun r => r.1 == tag)
def dropRead (s : State) (n : Nat) (tag : BitVec 16) : State :=
  updWl s n (fun w => { w with reads := w.reads.filter (fun r => r.1 != tag) })

/-- The entry at the head of a command queue has been read. -/
def entryRead (s : State) (why : ReadFor) : State :=
  match why with
  | .entry q => updWl s (portOf q.toNat) (fun w => { w with queues := w.queues.map (fun e =>
      if e.1 = q.toNat then (e.1, { e.2 with ready := true }) else e) })
  | _ => s

/-- CPL (R526, R531, R535, R536). -/
def execCpl (n : WlPort) (tag : BitVec 16) (error : Bool) (data : Bytes) (s : State) : Out :=
  let n := n.val
  .next (if (wlOf s n).st ≠ 5 then s
    else
      let s := doorbellAt s (serviceCc n) 0x047 tag.toNat
      match readAt s n tag with
      | none => wlViolation s n 2 true
      | some r =>
          let s := dropRead s n tag
          if error then inputFailed s r.2.2.2
          else if data.length ≠ r.2.2.1 then wlViolation (inputFailed s r.2.2.2) n 2 true
          else inputArrived (entryRead s r.2.2.2) r.2.2.2 data)

/-- MRD_TIMEOUT (R531, R535). -/
def execMrdTimeout (n : WlPort) (tag : BitVec 16) (s : State) : Out :=
  let n := n.val
  .next (match readAt s n tag with
    | none => s
    | some r => wlViolation (inputFailed (dropRead s n tag) r.2.2.2) n 3 true)

/-! Doorbells and host time (R528, R529). -/

/-- A doorbell that R528 forbids. -/
def doorbellBad (w : WlQueue) (index : W32) : Bool :=
  if w.kind = 1 then decide (2147483648 ≤ (index - w.tail).toNat) || decide (w.entries.toNat < (index - w.head).toNat)
  else decide (2147483648 ≤ (index - w.head).toNat) || decide (qPending w < (index - w.head).toNat)

/-- What a valid doorbell moves: a command queue's tail, whose entry is then read, or an outbound queue's head. -/
def moveIndex (s : State) (q : Nat) (w : WlQueue) (index : W32) : State :=
  if w.kind = 1 then
    let s := updWl s (portOf q) (fun v => { v with queues := putN v.queues q { w with tail := index } })
    if index = w.head || w.ready || entryAwaited s q then s else fetchEntry s q
  else queueFreed (updWl s (portOf q) (fun v => { v with queues := putN v.queues q { w with head := index } })) q

/-- A DOORBELL message takes effect (R528, R529, R536). -/
def applyDoorbell (s : State) (n : Nat) (queue : BitVec 16) (index : W32) (hostTime : W64) : State :=
  let s := doorbellAt s (serviceCc n) 0x045 queue.toNat
  let s := noteHostTime s n hostTime
  if (wlOf s n).st = 7 then s
  else match lookupN (wlOf s n).queues queue.toNat with
    | none => wlViolation s n 1 true
    | some w => if doorbellBad w index then wlViolation s n 1 true else moveIndex s queue.toNat w index

/-- WL_DOORBELL: in DIAPAUSE it is withheld (R464). -/
def execWlDoorbell (n : WlPort) (queue : BitVec 16) (index : W32) (hostTime : W64) (s : State) : Out :=
  let n := n.val
  .next (if (wlOf s n).st ≠ 5 then s
    else if s.fin.pwr = 2 then updWl s n (fun w => { w with withheld := w.withheld ++ [(queue, index, hostTime)] })
    else applyDoorbell s n queue index hostTime)

/-- STAMP (R529). -/
def execStamp (n : WlPort) (hostTime : W64) (s : State) : Out :=
  .next (if (wlOf s n.val).st ≠ 5 then s else noteHostTime s n.val hostTime)

/-! Queues and the parking area (R525, R527, R532, R535). -/

/-- Answer QSTAT: 0 OK, 1 BAD, 2 IN_USE, 3 EXISTS, 4 WINDOW. BAD, IN_USE and WINDOW are violations. -/
def answerQ (s : State) (n : Nat) (tag : BitVec 16) (code : Nat) : State :=
  let s := wlPost s n (.qstat tag (BitVec.ofNat 8 code))
  if code = 1 || code = 2 || code = 4 then wlViolation s n 4 true else s

/-- The fields of a QCREATE keep R527. -/
def qcreateOk (n : Nat) (b : Bytes) : Bool :=
  let q := leAt b 0 2
  let kind := byteAt b 2
  let part := byteAt b 3
  let entries := leAt b 4 4
  q / 4096 == n && bitsOf q 11 8 == 0 && decide (1 ≤ kind) && decide (kind ≤ 5) && (decide (part ≤ 15) || (kind == 4 && part == 0xFF))
    && [64, 128, 256, 512, 1024, 2048, 4096, 8192, 16384, 32768, 65536].contains entries && (kind != 2 || decide (128 ≤ entries))
    && leAt b 8 8 % 4096 == 0 && leAt b 0x10 8 % 8 == 0 && leAt b 0x18 8 == 0
def windowOpen (s : State) (n part : Nat) : Bool := part == 0xFF || bitOf (pdWin (partDef s part)) n

/-- QCREATE (R527). -/
def execQcreate (n : WlPort) (tag : BitVec 16) (payload : Bytes) (s : State) : Out :=
  let n := n.val
  let q := leAt payload 0 2
  if payload.length ≠ 32 then .fault (.illFormed "QCREATE")
  else .next (if (wlOf s n).st ≠ 5 then s
    else if !qcreateOk n payload then answerQ s n tag 1
    else if (queueAt s q).isSome then answerQ s n tag 3
    else if !windowOpen s n (byteAt payload 3) then answerQ s n tag 4
    else
      let w : WlQueue :=
        { kind := BitVec.ofNat 8 (byteAt payload 2), part := BitVec.ofNat 8 (byteAt payload 3)
          entries := BitVec.ofNat 32 (leAt payload 4 4), base := BitVec.ofNat 64 (leAt payload 8 8)
          indexAddr := BitVec.ofNat 64 (leAt payload 0x10 8), head := 0, tail := 0, seq := 0, ready := false }
      queueFreed (answerQ (updWl s n (fun v => { v with queues := putN v.queues q w })) n tag 0) q)

/-- A live request names a queue. -/
def queueNamed (s : State) (q : Nat) : Bool := s.reqs.any (fun e => !reqFinal e.2 && (rTq e.2 == q || rCq e.2 == q))

/-- QDELETE (R527, R535). -/
def execQdelete (n : WlPort) (tag : BitVec 16) (payload : Bytes) (s : State) : Out :=
  let n := n.val
  let q := leAt payload 0 2
  if payload.length ≠ 8 then .fault (.illFormed "QDELETE")
  else .next (if (wlOf s n).st ≠ 5 then s
    else match lookupN (wlOf s n).queues q with
      | none => answerQ s n tag 1
      | some w =>
          if q / 4096 ≠ n then answerQ s n tag 1
          else if queueNamed s q || w.head ≠ w.tail then answerQ s n tag 2
          else answerQ (updWl s n (fun v => { v with queues := delN v.queues q })) n tag 0)

/-- PARK_AREA (R532). -/
def execParkArea (n : WlPort) (tag : BitVec 16) (base length : W64) (s : State) : Out :=
  let n := n.val
  .next (if (wlOf s n).st ≠ 5 then s
    else
      let inUse := !(wlOf s n).images.isEmpty
      if base.toNat % 4096 ≠ 0 || length.toNat % 4096 ≠ 0 || (length = 0 && base ≠ 0) then answerQ s n tag 1
      else if length = 0 then
        if inUse then answerQ s n tag 2 else answerQ (updWl s n (fun w => { w with area := none })) n tag 0
      else if inUse && (wlOf s n).area ≠ some (base, length) then answerQ s n tag 2
      else answerQ (updWl s n (fun w => { w with area := some (base, length) })) n tag 0)

/-! Quarantine and absence (R533, R535). -/

/-- A port leaves quarantine for DETECT. -/
def wlLeaveQuarantine (s : State) (n : Nat) : State := wlState (updWl s n (fun w => { w with held := false })) n 1

/-- WL_QUARANTINE_END (R535): a held quarantine goes on. -/
def execWlQuarantineEnd (n : WlPort) (s : State) : Out :=
  let n := n.val
  .next (if (wlOf s n).st ≠ 7 || (wlOf s n).held then s else wlLeaveQuarantine s n)

/-- PORT_RELEASE (R520, R535, R539). -/
def execPortRelease (req : DapReq) (port : Byte) (s : State) : Out :=
  let n := port.toNat
  .next (dapWrite s req 0x4D00 5 (leBytes 1 n) (fun _ _ => if 15 < n then stRange else stOk)
    (fun _ s => if (wlOf s n).st ≠ 7 then s else wlLeaveQuarantine s n))

/-- PORT_HOLD_EXPIRE (R533). -/
def execPortHoldExpire (n : WlPort) (s : State) : Out :=
  .next (if (wlOf s n.val).st ≠ 0 then s else dropQueues s n.val)

end Sys2Proof.Machine
end

