-- ==== Sys2Proof/Machine/HeliostatCmds.lean ====
section
/-! DEFINITION. The Heliostat commands (ch. 24): bring-up, authentication, flits, pipeline hops, quarantine. -/

namespace Sys2Proof.Machine

/-! Bring-up (R540, R541). -/

/-- The owning cluster control core runs the port. -/
def hlAlive (s : State) (d : Nat) : Bool :=
  (siteSt s d).powered && s.fin.pwr != 2 && (ccOf s (16 * d)).image.isSome && !(clOf s (16 * d)).clocksOff

/-- HL_DETECT (R540, R541). -/
def execHlDetect (site : HlPort) (lanes : Byte) (s : State) : Out :=
  let d := site.val
  .next (if !hlAlive s d || 2 ≤ (hlOf s d).st.val || laneCount lanes < 4 then s
    else updHl s d (fun h => { h with st := 2, gen := Fin.ofNat 3 (obj s 0x4D81 (d + 1)), failures := 0 }))

/-- HL_TRAIN (R540, R541, R543): lock leads to AUTH, where the module sends its hello. -/
def execHlTrain (site : HlPort) (obs : TrainObs) (peerGen : Fin 3) (s : State) : Out :=
  let d := site.val
  .next (if !hlAlive s d || (hlOf s d).st ≠ 2 then s
    else match obs with
      | .locked lanes =>
          if laneCount lanes < 4 then hlGoDown s d
          else
            let own := (hlOf s d).gen.val
            let gen := if peerGen = 0 then own else min own peerGen.val
            sendHello (updHl s d (fun h => { h with
              st := 3, gen := Fin.ofNat 3 gen, lanes := if lanes = 0xFF then 0xFF else 0x0F, failures := 0 })) d
      | .failed => if (hlOf s d).gen.val ≤ 1 then hlGoDown s d else updHl s d (fun h => { h with gen := 1, failures := 0 }))

/-! Authentication (R543). -/

def helloFlagsOf (b : Bytes) : Nat := byteAt b 5
/-- A hello keeps the form of R543. -/
def helloForm (b : Bytes) : Bool :=
  b.length == 128 && leAt b 0 4 == 0x4F4C4548 && decide (byteAt b 4 ≤ 63) && decide (helloFlagsOf b < 16)
    && decide (leAt b 6 2 ≤ 256) && leAt b 0x68 24 == 0
/-- HL_PEER of a hello (R552). -/
def peerFields (b : Bytes) : Bytes :=
  sliceB b 0x10 16 ++ sliceB b 0x08 8 ++ sliceB b 0x20 32 ++ [BitVec.ofNat 8 (byteAt b 4), BitVec.ofNat 8 (helloFlagsOf b)] ++ zeros 6

/-- "HLAU". -/
def hlauTag : Bytes := [0x48#8, 0x4C#8, 0x41#8, 0x55#8]
/-- The peer's chain and signature verify: the chain is of the module that the hello names, and the signature is over both hellos,
this module's first. -/
def peerAuthentic (s : State) (d : Nat) (hello chain sig : Bytes) : Bool :=
  let key := cKey (chainDev chain)
  chainOk chain && fpOf key == sliceB hello 0x60 8 && cSerial (chainDev chain) == sliceB hello 0x10 16
    && Config.sigVerify 129 key (hlauTag ++ (hlOf s d).own ++ hello) sig

/-- HL_HELLO (R543, R545, R321): the first hello is authenticated; a later one decides the link's state again. -/
def execHlHello (site : HlPort) (hello chain sig : Bytes) (s : State) : Out :=
  let d := site.val
  .next (
    let st := (hlOf s d).st
    if st ≠ 3 && st ≠ 4 && st ≠ 5 then s
    else if !helloForm hello then hlViolation s d 0
    else if helloFlagsOf hello % 8 ≠ 0 then hlGoDown s d
    else if st = 3 then
      let s := if s.sec.idReady then hlSend s d 0 (ownChain s ++ identSign (hlauTag ++ hello ++ (hlOf s d).own)) else s
      if !s.sec.idReady || !peerAuthentic s d hello chain sig then hlAuthFail s d
      else
        let s := updHl s d (fun h => { h with peer := peerFields hello })
        hlUp s d (if sameVersion s d then 5 else 4)
    else redecide (updHl s d (fun h => { h with peer := peerFields hello })) d)

/-- HL_DOWN (R541). -/
def execHlDown (site : HlPort) (s : State) : Out :=
  let d := site.val
  .next (if (hlOf s d).st = 0 || (hlOf s d).st = 7 then s else hlGoDown s d)

/-- HL_RETRAIN (R541): back to the state held before, or DOWN. -/
def execHlRetrain (site : HlPort) (recovered : Bool) (s : State) : Out :=
  let d := site.val
  .next (
    let s := if (hlOf s d).st = 4 || (hlOf s d).st = 5 then hlRetrainNow s d else s
    let h := hlOf s d
    if h.st ≠ 6 then s
    else if recovered then updHl (hlUp s d h.before.val) d (fun x => { x with draining := h.draining })
    else hlGoDown s d)

/-- HL_TAP_ADAPT (R540, R461). -/
def execHlTapAdapt (site : HlPort) (s : State) : Out :=
  let d := site.val
  .next (if ((hlOf s d).st ≠ 4 && (hlOf s d).st ≠ 5) || (hlOf s d).tapsWarm then s
    else updHl s d (fun h => { h with updates := h.updates + 1, tapsWarm := decide (16777216 ≤ h.updates + 1) }))

/-! Flits (R523, R542). -/

def hlAcked (h : HlState) (ack : Nat) : HlState :=
  let left := unackedAfter ack h.unacked
  if left.length < h.unacked.length then { h with unacked := left, replays := 0 } else h

/-- The port replays its unacknowledged flits, with the limits of R523. -/
def hlReplay (s : State) (d : Nat) : State :=
  if (hlOf s d).unacked.isEmpty then s
  else
    let s := bumpHlErr (updHl s d (fun h => { h with replays := h.replays + 1, replayTimes := recent s 1 h.replayTimes ++ [s.units] })) d 31 16
    let h := hlOf s d
    if (h.st = 4 || h.st = 5) && (8 ≤ h.replays || 1024 < h.replayTimes.length) then hlRetrainNow s d else s

def hlAnswer (s : State) (d : Nat) (nak : Bool) : State := updHl s d (fun h => { h with lastAck := some (nak, h.rxSeq - 1) })

/-- What an accepted data flit of a class breaks: 2 CLASS, 4 PROTOCOL (R544, R548, R549). What its message does comes with the
message's own row. -/
def hlClassFault (s : State) (d cls : Nat) : Option Nat :=
  let bino := obj s 0x4500 1 == d
  if cls = 0 then none
  else if cls = 1 then
    if bino then some 2
    else if chainMember s && ((chainPorts s 3).contains d || (chainPorts s 6).contains d) then none else some 4
  else if (hlOf s d).st = 5 && (cls == 3) == bino then none else some 2

/-- HL_FLIT (R542, R544, R548, R549). -/
def execHlFlit (site : HlPort) (flit : Bytes) (s : State) : Out :=
  let d := site.val
  if flit.length ≠ 256 then .fault (.illFormed "HL_FLIT")
  else .next (
    let st := (hlOf s d).st
    if st ≠ 3 && st ≠ 4 && st ≠ 5 then s
    else if !flitCrc flit then hlAnswer (bumpHlErr s d 63 32) d true
    else if 3 < flKind flit || 3 < flClass flit then hlViolation s d 0
    else
      let s := setChainStall (chainAcked (updHl s d (fun h => hlAcked h (flAck flit))) d)
      if flKind flit = 3 then hlReplay s d
      else if flKind flit ≠ 1 then s
      else if flSeq flit ≠ (hlOf s d).rxSeq.toNat then hlAnswer s d true
      else
        let s := hlAnswer (updHl s d (fun h => { h with rxSeq := h.rxSeq + 1 })) d false
        match hlClassFault s d (flClass flit) with
        | some k => hlViolation s d k
        | none => s)

/-- HL_REPLAY_TIMEOUT (R542). -/
def execHlReplayTimeout (site : HlPort) (s : State) : Out :=
  let d := site.val
  .next (if (hlOf s d).st ≠ 3 && (hlOf s d).st ≠ 4 && (hlOf s d).st ≠ 5 then s else hlReplay s d)

/-! Pipeline hops (R546, R547). -/

/-- A HOP_ACK as it goes out (log entry 33). -/
def hopAckMsg (step : W64) : Bytes := leBytes 8 step.toNat
/-- A partition's job runs, and port d of its sites carries its hops. -/
def hopOn (s : State) (d p : Nat) : Bool :=
  hlCarries s d 2 && sitePart s d == some (Fin.ofNat 16 p) && match jobOf s p with | some j => j.running && !j.frozen && !j.restarting | none => false

/-- HOP_HANDOFF (R547): it lands at the first region's entry cores and is acknowledged; one that was acknowledged before is discarded
and acknowledged again. -/
def execHopHandoff (site : HlPort) (p : PartId) (stepNum : W64) (rows : HopRows) (s : State) : Out :=
  let d := site.val
  let p := p.val
  .next (if !hopOn s d p then s
    else if (hlOf s d).ackedStep = some stepNum then hlSend s d 0 (hopAckMsg stepNum)
    else
      let x := regionRun s p 0
      if x.busy || waveAt x then s
      else
        let seg := fun (t : Slot × Nat × Nat) => { slot := t.1.val, start := t.2.1, count := t.2.2 : Segment }
        let s := updRegion s p 0 (fun x => { x with
          decode := rows.decode.map seg, prefill := rows.prefill.map seg, pads := 0, stepNum := stepNum })
        updHl (hlSend s d 0 (hopAckMsg stepNum)) d (fun h => { h with ackedStep := some stepNum }))

/-- The region whose step waits for a hop's acknowledgement: the last one of the job. -/
def hopRegion (j : Job) : Nat := (jobRegions j).length - 1

/-- HOP_ACK (R547, R549): the step of the last region is complete. -/
def execHopAck (site : HlPort) (p : PartId) (stepNum : W64) (s : State) : Out :=
  let d := site.val
  let p := p.val
  .next (match jobOf s p with
    | none => s
    | some j =>
        if !hopOn s d p then s
        else if (hlOf s d).sentStep ≠ some stepNum then hlViolation s d 4
        else
          let r := hopRegion j
          let x := regionRun s p r
          if !x.busy || x.stepNum ≠ stepNum then s else finishWave (endStep s p r false j) x)

/-- HOP_ACK_TIMEOUT (R547): the sending step is a transient failure. -/
def execHopAckTimeout (site : HlPort) (p : PartId) (s : State) : Out :=
  let d := site.val
  let p := p.val
  .next (match jobOf s p with
    | none => s
    | some j =>
        let x := regionRun s p (hopRegion j)
        if !hopOn s d p || !x.busy || (hlOf s d).sentStep ≠ some x.stepNum then s
        else failStep (updHl s d (fun h => { h with sentStep := none })) p (hopRegion j) 0x7036 (BitVec.ofNat 32 (dieUnit d 12)) none)

/-! Quarantine (R549). -/

def hlLeaveQuarantine (s : State) (d : Nat) : State := updHl s d (fun h => { h with st := 1, held := false })

/-- HL_QUARANTINE_END (R549). -/
def execHlQuarantineEnd (site : HlPort) (s : State) : Out :=
  let d := site.val
  .next (if (hlOf s d).st ≠ 7 || (hlOf s d).held then s else hlLeaveQuarantine s d)

/-- HL_PORT_RELEASE (R541, R549, R552). -/
def execHlPortRelease (req : DapReq) (port : Byte) (s : State) : Out :=
  let d := port.toNat
  .next (dapWrite s req 0x4D80 4 (leBytes 1 d) (fun _ _ => if 63 < d then stRange else stOk)
    (fun _ s => if (hlOf s d).st ≠ 7 then s else hlLeaveQuarantine s d))

end Sys2Proof.Machine
end

