-- ==== Sys2Proof/Machine/MgmtCmds.lean ====
section
/-! DEFINITION. The services of the management agent (ch. 21): segments and reassembly (R490 to R492), OPEN, PROVE and CLOSE
(R495, R496, R560), READ and WRITE (R498, R505), the audit services (R501, R502) and the ends of its time-outs. -/

namespace Sys2Proof.Machine

/-! Segments (R490, R491). -/

/-- FIRST, LAST, sequence number and payload of a segment; none where its form is broken. On Wenlink the flags are those of the
MGMT message. -/
def segFields (path : DapPath) (source : Nat) (data : Bytes) (first last : Bool) : Option (Bool × Bool × Nat × Bytes) :=
  let h := byteAt data 0
  match path with
  | .can => if data.length < 2 || 64 < data.length || byteAt data 1 ≠ source % 16 then none
      else some (bitOf h 7, bitOf h 6, h % 64, data.drop 2)
  | .t1s => if data.length < 1 || 1025 < data.length then none else some (bitOf h 7, bitOf h 6, h % 64, data.drop 1)
  | .wenlink _ => if 4096 < data.length then none else some (first, last, 0, data)

def reasmAt (s : State) (path : DapPath) (source : Nat) : Option Reassembly :=
  s.mgmt.reasm.find? (fun r => r.path == path && r.source == source)
def dropReasm (s : State) (path : DapPath) (source : Nat) : State :=
  updMgmt s (fun m => { m with reasm := m.reasm.filter (fun r => !(r.path == path && r.source == source)) })

/-- The services that a request may name (R493). -/
def dapServices : List Nat := [0x01, 0x02, 0x03, 0x10, 0x11, 0x20, 0x21]

/-- The request of a whole message, for an answer. -/
def msgReq (path : DapPath) (source : Nat) (b : Bytes) : DapReq :=
  { path := path, source := source, txn := BitVec.ofNat 16 (leAt b 2 2), session := BitVec.ofNat 32 (leAt b 4 4),
    seq := BitVec.ofNat 32 (leAt b 8 4), sig := [] }

/-- A message is complete: its header is checked (R492), and it waits for its service. LENGTH marks its end. -/
def dapComplete (s : State) (path : DapPath) (source : Nat) (data : Bytes) : State :=
  let n := 16 + 8 * leAt data 0xC 2
  let b := if path = .can then data.take n else data
  if b.length < 16 || !dapServices.contains (byteAt b 0) || byteAt b 1 ≠ 0 || leAt b 0xE 2 ≠ 0 || 24592 < n || b.length ≠ n then
    let c := countRequest (updMgmt s (fun m => { m with serving := BitVec.ofNat 8 (byteAt b 0) })) path
    if c.2 then respond c.1 (msgReq path source b) stBusy [] else badMessage c.1 (msgReq path source b)
  else updMgmt s (fun m => { m with inbox := m.inbox ++ [(path, source, b)] })

/-- A segment joins its reassembly. -/
def segJoin (s : State) (path : DapPath) (source : Nat) (f : Bool × Bool × Nat × Bytes) (before : Bytes) : State :=
  let data := before ++ f.2.2.2
  let s := dropReasm s path source
  let limit := if path = .can && f.2.1 then 24592 + 62 else 24592
  if limit < data.length then malformed s path
  else if f.2.1 then dapComplete s path source data
  else updMgmt s (fun m => { m with reasm := m.reasm ++
    [{ path := path, source := source, next := (f.2.2.1 + 1) % 64, data := data }] })

/-- DAP_SEGMENT (R490, R491). -/
def execDapSegment (path : DapPath) (source : Nat) (data : Bytes) (first last : Bool) (s : State) : Out :=
  .next (if !s.fin.standby12 || s.mgmt.quarPaths.contains path then s
    else match segFields path source data first last with
      | none => malformed (dropReasm s path source) path
      | some f => match reasmAt s path source with
        | none =>
            if f.1 then segJoin s path source f []
            else match path with | .wenlink _ => s | _ => malformed s path
        | some r =>
            let inOrder := match path with | .wenlink _ => true | _ => decide (f.2.2.1 = r.next)
            if f.1 then segJoin (malformed s path) path source f []
            else if inOrder then segJoin s path source f r.data
            else malformed (dropReasm s path source) path)

/-- DAP_REASSEMBLY_TIMEOUT (R491): a gap of 100 ms discards the reassembly. -/
def execDapReassemblyTimeout (path : DapPath) (source : Nat) (s : State) : Out :=
  .next (match reasmAt s path source with
    | some _ => malformed (dropReasm s path source) path
    | none => s)

/-! Sessions. -/

/-- Key of an enrolled credential of a role (R494). -/
def credKey (s : State) (role : Nat) (fp : Bytes) : Option Bytes :=
  (s.mgmt.creds.find? (fun e => e.2.1.toNat == role && fpOf e.2.2 == fp)).map (fun e => e.2.2)

/-- Challenges outstanding on a path (R495). -/
def pathChallenges (s : State) (p : DapPath) : List Challenge := s.mgmt.challenges.filter (fun c => c.path == p)
def sameOpen (c : Challenge) (r : DapReq) : Bool := c.path == r.path && c.source == r.source && c.txn == r.txn

/-- DAP_OPEN (R495): a challenge for an enrolled credential, or for a maker, whose certificate comes with PROVE. -/
def execDapOpen (req : DapReq) (body : Bytes) (s : State) : Out :=
  .next (if body.length ≠ 16 || 2 < byteAt body 0 || leAt body 1 7 ≠ 0 then badBody s req 0x01 body
    else match dapHear s req 0x01 body with
      | none => s
      | some s =>
          let c := countRequest s req.path
          let role := byteAt body 0
          let fp := sliceB body 8 8
          if c.2 then respond c.1 req stBusy []
          else if s.mgmt.locked.contains fp then respond c.1 req stLocked []
          else if role < 2 && (credKey s role fp).isNone then respond (unknownAuth c.1 req.path) req stCredential []
          else
            let s := updMgmt c.1 (fun m => { m with challenges := m.challenges.filter (fun e => !sameOpen e req) })
            if 4 ≤ (pathChallenges s req.path).length then respond (rateExcess s req.path) req stBusy []
            else
              let f := freeBytes s 32
              let s := updMgmt f.2 (fun m => { m with challenges := m.challenges ++
                [{ path := req.path, source := req.source, txn := req.txn, role := BitVec.ofNat 8 role, fp := fp, chal := f.1,
                   at_ := mgmtTime s }] })
              respond s req stOk (f.1 ++ leBytes 8 Config.idrev.toNat))

/-- The bytes that PROVE signs (R495). -/
def proveBytes (c : Challenge) (p : DapPath) : Bytes :=
  leBytes 4 0x4F504144 ++ c.chal ++ leBytes 8 Config.idrev.toNat ++ [c.role] ++ c.fp ++ leBytes 2 (pathCode p)

/-- A maker certificate opens a session for a fingerprint (R560). -/
def makerOk (s : State) (cert fp : Bytes) : Bool :=
  certOk 3 (cKey (chainMid (ownChain s))) cert && fpOf (cKey cert) == fp && decide (makerEpoch s ≤ cEpoch cert)
    && (leNat (cSerial cert) == 0 || cSerial cert == sliceB Config.serial 0 16)

/-- Open a session, the ninth aside (R495). -/
def openSession (s : State) (req : DapReq) (c : Challenge) (key : Bytes) (epoch : Nat) (serial : Bool) : State :=
  if 8 ≤ s.mgmt.sessions.length then respond s req stBusy []
  else
    let n := s.mgmt.nextSession
    let se : Session :=
      { num := n, role := Fin.ofNat 3 c.role.toNat, fp := c.fp, key := key, chal := c.chal, path := req.path,
        source := req.source, seq := 0, lastAt := mgmtTime s, epoch := epoch, serial := serial }
    respond (updMgmt s (fun m => { m with
      sessions := m.sessions ++ [se], nextSession := if n + 1 = 0 then 1 else n + 1 })) req stOk (leBytes 4 n.toNat)

/-- DAP_PROVE (R495, R560): the challenge is consumed, and a good signature opens the session. -/
def execDapProve (req : DapReq) (cert : Bytes) (s : State) : Out :=
  .next (match dapHear s req 0x02 (cert ++ req.sig) with
    | none => s
    | some s =>
        let n := countRequest s req.path
        let s := n.1
        if n.2 then respond s req stBusy []
        else match s.mgmt.challenges.find? (fun c => sameOpen c req) with
          | none => respond (unknownAuth s req.path) req stNoSession []
          | some c =>
              let s := updMgmt s (fun m => { m with challenges := m.challenges.filter (fun e => !sameOpen e req) })
              if req.sig.length ≠ 7856 || (c.role ≠ 2 && cert ≠ []) || (c.role = 2 && cert.length ≠ 7936) then badMessage s req
              else if c.at_ + 1000000000 < mgmtTime s then respond (unknownAuth s req.path) req stNoSession []
              else if s.mgmt.locked.contains c.fp then respond s req stLocked []
              else if c.role = 2 then
                if makerOk s cert c.fp && Config.sigVerify 128 (cKey cert) (proveBytes c req.path) req.sig then
                  openSession s req c (cKey cert) (cEpoch cert) (cSerial cert == sliceB Config.serial 0 16)
                else respond (unknownAuth (agentEvent s 0x8054 1 []) req.path) req stCredential []
              else match credKey s c.role.toNat c.fp with
                | none => respond (unknownAuth s req.path) req stCredential []
                | some key =>
                    if Config.sigVerify 128 key (proveBytes c req.path) req.sig then openSession s req c key 0 false
                    else respond (badSig s req.path c.fp) req stSignature [])

/-- DAP_CLOSE (R496). -/
def execDapClose (req : DapReq) (s : State) : Out :=
  .next (dapRequest s req 0x03 [] (fun se s => respond (closeSessions s (fun e => e.num == se.num)) req stOk []))

/-- SESSION_IDLE_TIMEOUT (R496). -/
def execSessionIdleTimeout (session : BitVec 32) (s : State) : Out :=
  .next (closeSessions s (fun e => e.num == session))

/-- CHALLENGE_TIMEOUT (R495): the challenge lapses and no longer counts toward its path's limit. -/
def execChallengeTimeout (path : DapPath) (source : Nat) (txn : BitVec 16) (s : State) : Out :=
  .next (updMgmt s (fun m => { m with
    challenges := m.challenges.filter (fun c => !(c.path == path && c.source == source && c.txn == txn)) }))

/-- CREDENTIAL_UNLOCK (R503). -/
def execCredentialUnlock (fp : Bytes) (s : State) : Out :=
  .next (updMgmt s (fun m => { m with locked := m.locked.filter (· != fp) }))

/-- PATH_QUARANTINE_END (R503). -/
def execPathQuarantineEnd (path : DapPath) (s : State) : Out :=
  .next (updMgmt s (fun m => { m with
    quarPaths := m.quarPaths.filter (· != path), excess := delN m.excess (pathKey path) }))

/-! READ and WRITE. -/

/-- DAP_READ (R505, R507): lists return at most 4,096 B from the offset. -/
def execDapRead (req : DapReq) (body : Bytes) (s : State) : Out :=
  let ix := leAt body 0 2
  let sub := byteAt body 2
  .next (if body.length ≠ 8 || byteAt body 3 ≠ 0 then badBody s req 0x10 body
    else dapRequest s req 0x10 body (fun se s =>
      match objAt ix sub with
      | none => respond s req stNoObject []
      | some o =>
          if !mayRead o se.role.val then respond (badAccess s req.path se.fp) req stAccess []
          else respond s req stOk (if o.kind = 3 then objPart s ix sub (leAt body 4 4) 4096 else objBytes s ix sub)))

/-- Objects whose writes have rows of their own (JOB_START and the other rows that take a DapReq). -/
def ownRow (ix sub : Nat) : Bool :=
  [0x5100, 0x4E10, 0x5304, 0x5000].contains ix ||
    [(0x5110, 1), (0x5110, 2), (0x5120, 1), (0x5300, 1), (0x5300, 2), (0x5310, 8), (0x4400, 6), (0x4700, 5), (0x4800, 5),
     (0x4900, 1), (0x4900, 3), (0x4A00, 1), (0x4D00, 5), (0x4D80, 4), (0x4E00, 4), (0x4E20, 1), (0x4E30, 1), (0x4E30, 2),
     (0x4E30, 4)].contains (ix, sub)

/-- The values for which such a row stands: POWER_STATE takes 0x00, 0x02 and 0x03, RESET_REQUEST 0x01 and 0x02 (R470). -/
def rowTakes (ix sub v : Nat) : Bool :=
  if ix = 0x4900 && sub = 1 then v == 0 || v == 2 || v == 3 else if ix = 0x4900 && sub = 3 then v == 1 || v == 2 else true

/-- Entries of a calibration list, with the range of each (R517). -/
def calCount (n : Nat) : Nat := if n = 3 then 1280 else if n = 4 then 2560 else 1024
def calSize (n : Nat) : Nat := if n = 2 then 4 else if n = 3 then 8 else 2
def calInRange (n v : Nat) : Bool :=
  if n = 1 then between v 550 850
  else if n = 2 then fltBetween v 0x3D4CCCCD 0x40000000
  else if n = 3 then fltBetween (v % 2 ^ 32) 0x38D1B717 0x3F800000 && fltBetween (v / 2 ^ 32) 0x3A83126F 0x41200000
  else decide (-64 ≤ signedOf 16 v) && decide (signedOf 16 v ≤ 64)
def calEntries (n : Nat) (value : Bytes) : List Nat := (chunks (calSize n) (value.drop 4)).map leNat

/-- The credential table with an entry written (R494); an all-zero entry is unused. -/
def credsWith (s : State) (n : Nat) (value : Bytes) : NMap (Byte × Bytes) :=
  if leNat value = 0 then delN s.mgmt.creds n
  else putN s.mgmt.creds n (BitVec.ofNat 8 (byteAt value 0), sliceB value 8 32)

/-- A write of a credential keeps R494. -/
def credRange (s : State) (n : Nat) (value : Bytes) : Bool :=
  let t := credsWith s n value
  let fps := t.map (fun e => fpOf e.2.2)
  decide (byteAt value 0 ≤ 1) && leAt value 1 7 == 0 && t.any (fun e => e.2.1 == 1#8) && fps.eraseDups.length == fps.length

/-- The value keeps the range and the state rules of an object without a row of its own (R498, R505). -/
def plainCheck (ix sub : Nat) (value : Bytes) (padZero : Bool) (s : State) : Nat :=
  match objAt ix sub with
  | none => stNoObject
  | some o =>
      let sized := if o.kind = 3 then value.length == 4 + leAt value 0 4 * o.size else value.length == o.size
      if !sized || !padZero || ownRow ix sub then stRange
      else
        let v := leNat value
        let inRange :=
          if ix = 0x4B10 then credRange s (sub - 1) value
          else if ix = 0x4E00 then identityOk value
          else if ix = 0x4F00 then leAt value 0 4 == calCount sub && (calEntries sub value).all (calInRange sub)
          else if o.kind = 2 then true
          else rangeOk s ix sub v
        if !inRange then stRange
        else if !stateOk s ix sub v || (!o.stored && !stewardUp s) then stState
        else stOk

/-- The write takes effect. -/
def plainApply (ix sub : Nat) (value : Bytes) (s : State) : State :=
  if ix = 0x4B10 then
    let gone := lookupN s.mgmt.creds (sub - 1)
    let s := updMgmt s (fun m => { m with creds := credsWith s (sub - 1) value })
    match gone with
    | some c => closeSessions s (fun e => e.fp == fpOf c.2)
    | none => s
  else if ix = 0x4B00 && sub = 6 then updMgmt s (fun m => { m with mac := some value })
  else if ix = 0x4E00 then updSec s (fun q => { q with chain := some value })
  else if ix = 0x4F00 then { s with cal := putN s.cal (16 + sub) (calEntries sub value) }
  else
    let s := scalarWrite s ix sub (leNat value)
    if ix = 0x4700 && sub ≤ 2 && inRun s then divideCap s else s

/-- DAP_WRITE (R496, R498, R505): a write of an object without a row of its own. A well-formed write of an object that has a
row is that row's. -/
def execDapWrite (req : DapReq) (body : Bytes) (s : State) : Out :=
  let ix := leAt body 0 2
  let sub := byteAt body 2
  let n := leAt body 4 4
  let value := sliceB body 8 n
  .next (if body.length < 8 || byteAt body 3 ≠ 0 || body.length ≠ 8 + alignUp n 8 then badBody s req 0x11 (body ++ req.sig)
    else
      let padZero := (body.drop (8 + n)).all (· == 0#8)
      if ownRow ix sub && rowTakes ix sub (leNat value) && padZero && (objAt ix sub).any (fun o => o.size == n) then s
      else dapWriteRaw s req body ix sub value (fun _ s => plainCheck ix sub value padZero s) (fun _ s =>
        plainApply ix sub value s))

/-! The audit services. -/

/-- Place of an entry that the log holds. -/
def auditAt (s : State) (seq : Nat) : Option Nat := s.mgmt.audit.findIdx? (fun e => leAt e.1 0 4 == seq)

/-- AUDIT_EXPORT (R502): entries, the chain value after the last, and the identity signature. -/
def execAuditExport (req : DapReq) (body : Bytes) (s : State) : Out :=
  let count := leAt body 4 4
  .next (if body.length ≠ 8 || count = 0 || 64 < count then badBody s req 0x20 body
    else dapRequest s req 0x20 body (fun se s =>
      if se.role = 0 then respond (badAccess s req.path se.fp) req stAccess []
      else match auditAt s (leAt body 0 4) with
        | none => respond s req stRange []
        | some i =>
            if !s.sec.idReady then respond s req stState []
            else
              let es := (s.mgmt.audit.drop i).take count
              let b := es.flatMap (fun e => e.1) ++ (match es.getLast? with | some e => e.2 | none => [])
              respond s req stOk (b ++ identSign (leBytes 8 Config.idrev.toNat ++ b))))

/-- AUDIT_ACK (R501): frees the entries of an export whose chain value matches. -/
def execAuditAck (req : DapReq) (body : Bytes) (s : State) : Out :=
  let seq := leAt body 0 4
  let chain := sliceB body 8 32
  .next (if body.length ≠ 40 || leAt body 4 4 ≠ 0 then badBody s req 0x21 (body ++ req.sig)
    else
      let refuse := fun (s : State) (role : Nat) (fp : Bytes) (status : Nat) =>
        refuseWrite s req role fp 0 0 (chain.take 8) (leBytes 4 seq) status
      dapSigned s req 0x21 body refuse (fun se s =>
        if se.role ≠ 1 then refuse (badAccess s req.path se.fp) se.role.val se.fp stAccess
        else match auditAt s seq with
          | none => refuse s 1 se.fp stDigest
          | some i =>
              if ((s.mgmt.audit.map (fun e => e.2)).getD i []) ≠ chain then refuse s 1 se.fp stDigest
              else if s.mgmt.storeFail then respond (agentEvent s 0x9023 3 []) req stStore []
              else
                let s := updMgmt s (fun m => { m with audit := m.audit.drop (i + 1), overflow := none, audit90 := false })
                let s := auditRecord s 1 stOk (pathCode req.path) se.fp 0 0 (chain.take 8) (leBytes 4 seq)
                respond (agentEvent s 0x9022 0 []) req stOk []))

end Sys2Proof.Machine
end

