-- ==== Sys2Proof/Machine/SecurityCmds.lean ====
section
/-! DEFINITION. The security commands (ch. 25): publishers, quotes, MAKER_EPOCH_MIN and debug access. -/

namespace Sys2Proof.Machine

/-! Publishers (R559). -/

/-- The certificate is valid under R557 for a publisher: its issuer is an enrolled installer's key. -/
def publisherOk (s : State) (c : Bytes) : Bool :=
  s.mgmt.creds.any (fun e => e.2.1 == 1#8 && cIssuer c == fpOf e.2.2 && certOk 4 e.2.2 c)

/-- PUBLISHER_CERT (R559, R568): the entry's fingerprint is cleared. -/
def execPublisherCert (req : DapReq) (n : Fin 8) (cert : Cert) (s : State) : Out :=
  if cert.length ≠ 7936 then .fault (.illFormed "PUBLISHER_CERT")
  else .next (dapWrite s req 0x4E10 (n.val + 1) cert
    (fun _ s => if leNat cert = 0 || publisherOk s cert then stOk else stRange)
    (fun _ s => updSec s (fun q => { q with
      certs := if leNat cert = 0 then delN q.certs n.val else putN q.certs n.val cert, fps := delN q.fps n.val })))

/-- PUBLISHER_FP (R559). -/
def execPublisherFp (req : DapReq) (n : Fin 8) (fp : Bytes) (s : State) : Out :=
  if fp.length ≠ 8 then .fault (.illFormed "PUBLISHER_FP")
  else .next (dapWrite s req 0x5304 (n.val + 1) fp
    (fun _ s =>
      let fits := match lookupN s.sec.certs n.val with | some c => fpOf (cKey c) == fp | none => false
      if leNat fp = 0 || fits then stOk else stRange)
    (fun _ s => updSec s (fun q => { q with fps := if leNat fp = 0 then delN q.fps n.val else putN q.fps n.val fp })))

/-! Quotes (R561, R562). -/

/-- A partition's second live epoch: the retiring one beside a committed one. -/
def secondEpoch (s : State) (p : Nat) : Bytes :=
  match (partOf s p).epochs.retiring with | some m => sliceB m.1.digest 0 32 | none => zeros 32

/-- The fields of a quote before its signature, 2,304 B (R562). -/
def quoteFields (s : State) (nonce : Bytes) : Bytes :=
  let flags := (if s.sec.debugOpen then 1 else 0) + (if s.sec.debugSince then 2 else 0)
    + (if s.mgmt.sessions.any (fun e => e.role == 2) then 4 else 0)
  let pubs := (List.range 8).flatMap (fun n => objBytes s 0x4E10 (n + 1) ++ objBytes s 0x5304 (n + 1))
  leBytes 4 0x544F5551 ++ leBytes 2 1 ++ leBytes 2 flags ++ leBytes 8 Config.idrev.toNat ++ sliceB Config.serial 0 16
    ++ sliceB nonce 0 32 ++ sliceB Config.rootHash 0 32 ++ sliceB (fwDigest s) 0 32 ++ sliceB (auditHead s) 0 32
    ++ leBytes 8 (mgmtTime s) ++ hostPairBytes s ++ sha256 (s.stw.fences.flatMap fenceBytes) ++ sha256 pubs ++ zeros 8
    ++ (List.range 16).flatMap (fun p =>
      leBytes 8 (partDef s p) ++ leBytes 8 (partStatusWord s p)
        ++ (match jobOf s p with | some j => sliceB j.digest 0 32 | none => zeros 32)
        ++ sliceB (epochDigest s p) 0 32 ++ secondEpoch s p ++ zeros 16)

/-- QUOTE_REQUEST (R558, R561). -/
def execQuoteRequest (req : DapReq) (nonce : Bytes) (s : State) : Out :=
  .next (dapWrite s req 0x4E20 1 nonce
    (fun _ s => if nonce.length ≠ 32 then stRange else if !s.sec.idReady || s.sec.quoteSt = 1 then stState else stOk)
    (fun _ s => updSec s (fun q => { q with quoteSt := 1, nonce := nonce })))

/-- QUOTE_ISSUED (R561, R562). -/
def execQuoteIssued (s : State) : Out :=
  .next (if s.sec.quoteSt ≠ 1 then s
    else
      let b := quoteFields s s.sec.nonce
      agentEvent (updSec s (fun q => { q with quote := b ++ identSign b, quoteSt := 2 })) 0x8050 0 [])

/-! Maker certificates (R560). -/

/-- MAKER_EPOCH_MIN (R560, R568): sessions opened with a lower certificate close. -/
def execMakerEpochMin (req : DapReq) (value : Byte) (s : State) : Out :=
  let v := value.toNat
  .next (dapWrite s req 0x4E00 4 (leBytes 1 v)
    (fun _ s => if v < makerEpoch s || 64 < v then stRange else stOk)
    (fun _ s => closeSessions (updSec s (fun q => { q with makerEpoch := some v })) (fun e => e.role == 2 && decide (e.epoch < v))))

/-! Debug access (R563, R564). -/

/-- Why debug may not open (R563). -/
def debugRefused (s : State) : Bool :=
  s.parts.any (fun e => e.2.job.isSome || e.2.waitingJob.isSome) || someMoult s || s.stw.chainState = 1 || !inRun s || !s.sec.idReady

/-- Cache areas and slot tables that jobs have left, request table entries, Logbook queues and every scratchpad are cleared; weight
shards stay. -/
def clearTenants (s : State) : State :=
  let s := (s.parts.map (fun e => e.1)).foldl (fun s p => (partOf s p).clearDesc.foldl (fun s d => clearCache s p d) s) s
  { s with
    reqs := []
    cores := s.cores.map (fun e => (e.1, { e.2 with spad := Mem.empty }))
    wl := s.wl.map (fun e => (e.1, { e.2 with
      heldRecs := [], images := [], queues := e.2.queues.filter (fun q => q.2.kind != 5#8) }))
    parts := s.parts.map (fun e => (e.1, { e.2 with clearing := false, clearDesc := [], logDeferred := [], logStalled := false })) }

/-- DEBUG_UNLOCK (R563, R564). -/
def execDebugUnlock (req : DapReq) (value : Byte) (s : State) : Out :=
  .next (dapWrite s req 0x4E30 1 [value]
    (fun se s => if value ≠ 1 then stRange else if !se.serial then stAccess else if debugRefused s then stState else stOk)
    (fun se s =>
      if s.sec.debugOpen then s
      else agentEvent (updSec (clearTenants s) (fun q => { q with debugOpen := true, debugSince := true, debugBy := some se.num })) 0x8051 3 []))

/-- DEBUG_LOCK (R564). -/
def execDebugLock (req : DapReq) (value : Byte) (s : State) : Out :=
  .next (dapWrite s req 0x4E30 2 [value] (fun _ _ => if value ≠ 0 then stRange else stOk) (fun _ s => closeDebug s))

/-- What the next read of DEBUG_DMI returns: target and address, the data, and a status. What a Debug Module holds and whether the
access succeeds are free values. -/
def dmiAnswer (s : State) (value : Bytes) : Bytes × State :=
  let d := freeBytes s 4
  let st := freeBytes d.2 1
  let data := if byteAt value 12 = 1 then d.1 else sliceB value 8 4
  (sliceB value 0 8 ++ data ++ leBytes 1 (byteAt st.1 0 % 3) ++ zeros 3, st.2)

/-- DEBUG_DMI (R564). -/
def execDebugDmi (req : DapReq) (value : Bytes) (s : State) : Out :=
  .next (dapWrite s req 0x4E30 4 value
    (fun _ s =>
      if value.length ≠ 16 || (byteAt value 12 ≠ 1 && byteAt value 12 ≠ 2) || leAt value 13 3 ≠ 0 then stRange
      else if !s.sec.debugOpen then stState else stOk)
    (fun _ s =>
      let a := dmiAnswer s value
      updSec a.2 (fun q => { q with dmi := a.1 })))

end Sys2Proof.Machine
end

