-- ==== Sys2Proof/Machine/Sleep.lean ====
section
/-! DEFINITION. Releases and requests of module resets, DIAPAUSE and STANDBY (R462 to R470). -/

namespace Sys2Proof.Machine

/-! Resets. -/

/-- Every running job restarts (R462). -/
def restartAll (s : State) (cause : Nat) : State :=
  (s.parts.map (fun e => e.1)).foldl (fun s p => restartBegin s p cause) s

/-- After a class W reset: the cluster control cores start and load their images. -/
def afterW (s : State) (cause : Nat) : State :=
  let s := bootClusters (retainVaults s (s.fin.pwr == 2 || s.fin.stop))
  let s := if stewardUp s then
      (clustersOf (poweredSites s)).foldl mailImage s
    else s
  restartAll (updFin s (fun f => { f with recoverDue := validParts s })) cause

/-- After a class M reset: Eclosion goes on from the firmware of the I/O dies; the group rows that have run are skipped. -/
def afterM (s : State) : State :=
  let s := updFin s (fun f => { f with pwr := 3, ready := false })
  if !s.fin.ioPowered then updFin s (fun f => { f with phase := 0 })
  else
    let groups := decide (s.fin.phase.toNat < 0x1F)
    let s := updFin s (fun f => { f with phase := if groups then f.phase else 0x21, eclosing := true })
    let s := identityCheck (bootIo (retainVaults s s.fin.stop))
    if groups then s else updFin (bootClusters s) (fun f => { f with recoverDue := validParts s })

/-- After a class C reset: full Eclosion. -/
def afterC (s : State) : State :=
  updFin s (fun f => { f with pwr := 3, phase := 0, ready := false, eclosing := true, eclosionWaited := false, recoverDue := [] })

/-- The Finder records the class and cause of a reset, with its event (R463). -/
def recordReset (s : State) (cls cause : Nat) : State :=
  let s := updFin s (fun f => { f with lastClass := Fin.ofNat 4 cls, lastCause := BitVec.ofNat 16 cause })
  finderEvent s 0x1052 1 (moduleUnit 0) ([BitVec.ofNat 8 cls, 0#8] ++ leBytes 2 cause)

/-- RESET_RELEASE (R462, R463, R469). -/
def execResetRelease (s : State) : Out :=
  .next (match s.fin.held with
    | none => s
    | some h =>
        let s := setMainIn (updFin s (fun f => { f with held := none, heldSupply := false, resetPin := false }))
        let s := recordReset s h.1.val h.2.toNat
        if h.1 = 1 then afterW s h.2.toNat else if h.1 = 2 then afterM s else afterC s)

/-- RESET_REQUEST_W (R462, R470). -/
def execResetRequestW (req : DapReq) (s : State) : Out :=
  .next (dapWrite s req 0x4900 3 [1#8] (fun _ _ => stOk) (fun _ s => holdReset s 1 0 false))

/-- RESET_REQUEST_M (R462, R470). -/
def execResetRequestM (req : DapReq) (s : State) : Out :=
  .next (dapWrite s req 0x4900 3 [2#8] (fun _ _ => stOk) (fun _ s => holdReset s 2 0 false))

/-- RESET_REQ_N (R462, R574): shorter than 10 µs nothing, to 1 s class W, longer class M. -/
def execResetReqN (lowUs : Nat) (s : State) : Out :=
  .next (if !s.fin.standby12 || lowUs < 10 then s else holdReset s (if lowUs ≤ 1000000 then 1 else 2) 0 false)

/-- BOTH_STEWARDS_LOSS (R462, R488). -/
def execBothStewardsLoss (s : State) : Out := .next (if !s.fin.ioPowered then s else holdReset s 2 0 false)

/-! DIAPAUSE. -/

/-- POWER_STATE_REFUSED (R465, R468). -/
def powerRefused (s : State) (reason : Nat) : State := stwEvent s 0x1055 1 none none [BitVec.ofNat 8 reason]

/-- Why entry to DIAPAUSE is refused (R465). -/
def diaReason (s : State) : Option Nat :=
  firstOf [(s.parts.any (fun e => match e.2.job with | some j => j.instar.isSome | none => false), 1),
    (someMoult s || someSwapping s, 2), (s.stw.chainState = 1, 3), (s.binoState = 1, 4), (powerBusy s, 5), (!inRun s, 6)]

/-- Requests in PREFILL or DECODE pause in place (R464). -/
def diaPause (s : State) (h : Nat) : State :=
  match reqOf s h with
  | none => s
  | some r =>
      if r.st ≠ .prefill && r.st ≠ .decode then s
      else
        let s := setReq s h { r with st := .paused, pausedFrom := r.st, pause := some .diapause, pausedAt := s.units }
        logPause s r.part.val h

def setDiaPaused (s : State) (on : Bool) : State :=
  { s with parts := s.parts.map (fun e => (e.1, { e.2 with job := e.2.job.map (fun j => { j with diaPaused := on }) })) }

/-- Heliostat ports hear STANDBY, and the lanes go down (R464). -/
def diaHeliostat (s : State) (d : Nat) : State :=
  let s := if chainUp s d then sendHello s d else s
  if (hlOf s d).st = 0 || (hlOf s d).st = 7 then s else hlGoDown s d

/-- A Wenlink port in UP retrains on a wake. -/
def wakePort (s : State) (n : Nat) : State :=
  if (wlOf s n).st ≠ 5 then s
  else
    let held := (wlOf s n).withheld
    let s := updWl s n (fun w => { w with withheld := [] })
    let s := held.foldl (fun s e => applyDoorbell s n e.1 e.2.1 e.2.2) s
    if (wlOf s n).st ≠ 5 then s
    else portEvent (wlState (updWl s n (fun w => { w with err := BitVec.ofNat 64 (bumpField w.err.toNat 15 8 1) })) n 6) n 0x7012 0 []

/-- A request paused by entry goes back to what it was (R467). -/
def wakeReq (s : State) (h : Nat) : State :=
  match reqOf s h with
  | none => s
  | some r =>
      if r.pause ≠ some .diapause then s
      else logPause (setReq s h { r with st := r.pausedFrom, pause := none }) r.part.val h

/-- A restart that a fault in DIAPAUSE asked for is taken (R466). -/
def wakeRestarts (s : State) : State :=
  (s.parts.map (fun e => e.1)).foldl (fun s p => match (jobOf s p).bind (fun j => j.wakeRestart) with
    | some c => restartBegin (updJob s p (fun j => { j with wakeRestart := none })) p c.toNat
    | none => s) s

/-- The module wakes to RUN (R467). -/
def wakeNow (s : State) (src : Byte) : State :=
  let s := updFin s (fun f => { f with pwr := 0, wakeWait := none })
  let s := retainVaults s s.fin.stop
  let s := setDiaPaused (updStw s (fun t => { t with admissionStopped := false })) false
  let s := (List.range 16).foldl wakePort s
  let s := wakeRestarts ((s.reqs.map (fun e => e.1)).foldl wakeReq s)
  finderEvent s 0x1054 0 (moduleUnit 0) [src]

/-- Steps 2 to 5 of the entry to DIAPAUSE, once every step in flight has reported and committed (R464). A wake that arrived meanwhile
follows (R467). -/
def diaEnter (s : State) : State :=
  let s := updFin s (fun f => { f with pwr := 2, diaWait := false })
  let s := (s.reqs.map (fun e => e.1)).foldl diaPause (setDiaPaused s true)
  let s := (List.range 64).foldl diaHeliostat s
  let s := stwEvent (retainVaults s true) 0x1053 0 none none []
  match s.fin.wakeWait with | some src => wakeNow s src | none => s

/-- The entry waits for nothing any more: it completes. An empty queue's cycle looks here as well (log entry 1). -/
def diaLook (s : State) : State := if s.fin.diaWait && s.fin.held.isNone && !stepsInFlight s then diaEnter s else s

/-- Nothing waits: a REFCLK cycle passes while standby power is on, and an entry to DIAPAUSE that waits for the block to come to
rest is looked at (R553); before standby power the block idles (log entry 1). -/
def idle (s : State) : State :=
  if s.fin.standby12 then diaLook { countThrottled s (s.units + 30) with units := s.units + 30 } else s

/-- DIAPAUSE_ENTER (R464, R465, R470). -/
def execDiapauseEnter (req : DapReq) (s : State) : Out :=
  .next (dapWrite s req 0x4900 1 [2#8] (fun _ s => if !stewardUp s then stState else stOk)
    (fun _ s =>
      if s.fin.diaWait then s
      else match diaReason s with
        | some r => powerRefused s r
        | none => diaLook (updStw (updFin s (fun f => { f with diaWait := true })) (fun t => { t with admissionStopped := true }))))

/-- A wake: at once in DIAPAUSE, after the entry while that runs (R467). -/
def wake (s : State) (src : Byte) : State :=
  if s.fin.diaWait then updFin s (fun f => { f with wakeWait := some src })
  else if s.fin.pwr ≠ 2 || s.fin.held.isSome || s.fin.heldOff then s
  else wakeNow s src

/-- DIAPAUSE_WAKE (R467, R470, R535, R536): the write of 0x00, or the sideband of a port that WAKE_PORTS honours. -/
def execDiapauseWake (src : Option WlPort) (req : DapReq) (s : State) : Out :=
  .next (match src with
    | none => dapWrite s req 0x4900 1 [0#8] (fun _ _ => stOk) (fun _ s => wake s 1)
    | some n =>
        if !s.fin.ioPowered || (wlOf s n.val).st = 7 then s
        else
          let s := doorbellAt s (linkCc n.val) 0x048 0
          if bitOf (obj s 0x4900 4) n.val then wake s 2 else s)

/-! STANDBY. -/

/-- Writes of POWER_STATE into and out of STANDBY are the installer's (R468, R470). -/
def byOperator (se : Session) : Bool := se.role == 0

/-- STANDBY_ENTER (R468, R470). A refusal for an epoch that is SWAPPING is reported. -/
def execStandbyEnter (req : DapReq) (s : State) : Out :=
  let t := dapWrite s req 0x4900 1 [3#8]
    (fun se s => if byOperator se then stAccess else if someSwapping s then stState else stOk)
    (fun _ s => if s.fin.pwr = 3 && !s.fin.eclosing then s
      else fallToStandby (deliverAll ((s.parts.map (fun e => e.1)).foldl (fun s p => endJob s p 7 0) s)) true)
  let refused := someSwapping s && decide (s.mgmt.out.length < t.mgmt.out.length)
    && (t.mgmt.out.getLast?.map (fun (r : DapResp) => r.status.toNat)) == some stState
  .next (if refused then powerRefused t 2 else t)

/-- The module leaves STANDBY (R463, R468). -/
def leaveStandby (s : State) : State :=
  if s.fin.pwr ≠ 3 || s.fin.eclosing || !s.fin.standby12 then s
  else recordReset (updFin s (fun f => { f with eclosing := true, eclosionWaited := false, standbyCommanded := false })) 3 0

/-- STANDBY_EXIT (R468): the installer's write, or the main input's return under AUTO_ECLOSION. -/
def execStandbyExit (req : Option DapReq) (s : State) : Out :=
  .next (match req with
    | some r => dapWrite s r 0x4900 1 [0#8] (fun se s => if byOperator se && s.fin.pwr == 3 then stAccess else stOk) (fun _ s => leaveStandby s)
    | none => if obj s 0x4900 2 ≠ 1 || s.fin.standbyCommanded then s else leaveStandby s)

end Sys2Proof.Machine
end

