-- ==== Sys2Proof/Machine/Thermal.lean ====
section
/-! DEFINITION. Cooling and thermal control (ch. 18). -/

namespace Sys2Proof.Machine

/-! Tray sensors and flow. -/

/-- A tray reading in steps of 1/16 °C; none when it is invalid (R434). -/
def trayReading (v : Option (BitVec 16)) : Option Rat :=
  match v with
  | some w =>
      let t := mkRat (signedOf 16 w.toNat) 16
      if -20 ≤ t && t ≤ 120 then some t else none
  | none => none

/-- MIN_FLOW in L/min. -/
def minFlow (s : State) : Rat := mkRat (obj s 0x4800 1) 10
/-- Flow in L/min of a pulse period in units, measured in REFCLK cycles (R435). -/
def pulseFlow (s : State) (units : Nat) : Rat := mkRat (60 * 100000000) (obj s 0x4800 2 * (units / 30))
/-- The metered flow now: between pulses the lesser of its last value and what the elapsed time allows (R435). -/
def metered (s : State) : Rat :=
  match s.fin.lastPulse with
  | some t => if s.units < t + 30 then s.fin.flow else min s.fin.flow (pulseFlow s (s.units - t))
  | none => s.fin.flow
/-- MAIN_IN.PIN in W. -/
def mainPower (s : State) : Nat := 10 * bitsOf (ireg s 64 0x1200) 31 16

/-- The flow that the heat balance implies, in L/min, when the comparison can run (R445). One litre weighs 1 kg (R433). -/
def heatBalance (s : State) : Option Rat :=
  match s.fin.inlet, s.fin.outlet with
  | some a, some b => if 8000 ≤ mainPower s && a < b then some (60 * (mainPower s : Rat) / (4190 * (b - a))) else none
  | _, _ => none
/-- The flow that R444 and the coolant-stop rules use. -/
def usedFlow (s : State) : Rat := if s.fin.useHeat then min (metered s) s.fin.heatFlow else metered s

/-- The comparison of R445 as of now: the lesser flow stays in use until the metered flow has been within 30 % for 10 s in a row. -/
def compareFlow (s : State) : State :=
  match heatBalance s with
  | none => updFin s (fun f => { f with heatSince := none })
  | some h =>
      let within := decide (metered s ≤ 13 * h / 10)
      updFin s (fun f =>
        let since := if within then some (f.heatSince.getD s.units) else none
        let back := match since with | some t => decide (t + 10 * unitsPerSec ≤ s.units) | none => false
        { f with heatFlow := h, heatSince := since, useHeat := f.useHeat && !back })

/-- FLOW_LOW ends when the flow is above MIN_FLOW (R444). -/
def flowReturns (s : State) : State :=
  if s.fin.flowLow && decide (minFlow s < usedFlow s) then
    setCoolantIn (updFin (finderEvent s 0x2023 0 (moduleUnit 0) []) (fun f => { f with flowLow := false }))
  else s

/-- TRAY_SENSOR_READ (R434, R436, R451). -/
def execTraySensorRead (inlet outlet : Option (BitVec 16)) (s : State) : Out :=
  let a := trayReading inlet
  let b := trayReading outlet
  .next (if !s.fin.standby12 then s
    else
      let n := if a.isSome then 0 else s.fin.inletBad + 1
      let m := if b.isSome then 0 else s.fin.outletBad + 1
      let s := updFin s (fun f => { f with inlet := a, outlet := b, inletBad := n, outletBad := m })
      let s := if n = 3 then finderEvent s 0x2024 2 (moduleUnit 0) [] else s
      let s := if m = 3 then finderEvent s 0x2024 2 (moduleUnit 0) [] else s
      flowReturns (setCoolantIn (compareFlow s)))

/-- FLOW_PULSE (R435, R444, R572). -/
def execFlowPulse (lowUs : Nat) (s : State) : Out :=
  .next <| (
    let early := match s.fin.lastPulse with | some t => decide (s.units < t + 150000) | none => false
    if !s.fin.standby12 || lowUs < 10 || early then s
    else
      let flow := match s.fin.lastPulse with | some t => pulseFlow s (s.units - t) | none => s.fin.flow
      let s := updFin s (fun f => { f with flow := flow, lastPulse := some s.units })
      flowReturns (setCoolantIn (compareFlow s)))

/-- FLOW_LOW (R444). -/
def execFlowLow (s : State) : Out :=
  .next (if !s.fin.standby12 || s.fin.flowLow then s
    else setCoolantIn (updFin (finderEvent s 0x2020 1 (moduleUnit 0) []) (fun f => { f with flowLow := true })))

/-- FLOW_IMPLAUSIBLE (R445). -/
def execFlowImplausible (s : State) : Out :=
  .next (match heatBalance s with
    | some h =>
        if s.fin.useHeat then s
        else updFin (finderEvent s 0x2025 1 (moduleUnit 0) []) (fun f => { f with useHeat := true, heatSince := none, heatFlow := h })
    | none => s)

/-! Hot spots: 0 to 15 compute, 16 to 19 stack. -/

def hotOf (s : State) (d h : Nat) : HotSpot := getN HotSpot.reset (siteSt s d).hot h
def updHot (s : State) (d h : Nat) (f : HotSpot → HotSpot) : State :=
  updSite s d (fun t => { t with hot := updN HotSpot.reset t.hot h f })
def hotLimit (h : Nat) : Rat := if h < 16 then 105 else 95
/-- Cluster of a site whose control core reads a hot spot (R437). -/
def hotCluster (h : Nat) : Nat := if h < 16 then h else [5, 6, 9, 10].getD (h - 16) 5
/-- A diode's reading with its trim (R517). -/
def diode (s : State) (d h side : Nat) (v : Option (BitVec 16)) : Option Rat :=
  v.map (fun w => tempOf w.toNat + mkRat (signedOf 16 ((calOf s 4).getD (40 * d + 2 * h + side) 0 % 65536)) 8)

/-- The Almanac can estimate a site's hot spots (R430, R441). -/
def almanacUp (s : State) (d : Nat) : Bool := bitOf (sitePwr s d) 4
def estimateOf (s : State) (d h : Nat) : Rat := inletTemp s + (hotOf s d h).rise

/-- A reading lies within −20 °C to 150 °C. -/
def inRange (t : Option Rat) : Bool := match t with | some x => decide (-20 ≤ x) && decide (x ≤ 150) | none => false
/-- The row of R438 that a pair of readings meets: agree, disagree, or neither. -/
def pairRow (a b : Option Rat) : Trust :=
  match a, b with
  | some x, some y =>
      let gap := max (x - y) (y - x)
      if !inRange a || !inRange b then .distrusted
      else if gap ≤ 4 then .agree else if gap ≤ 15 then .disagree else .distrusted
  | _, _ => .distrusted
/-- The used value comes from the Almanac. -/
def fromModel (x : HotSpot) : Bool := pairRow x.a x.b == .distrusted && x.used.isSome

/-- A hot spot after a pair of readings (R438). While the pair agrees again but not yet for 1 s, TRUST keeps the episode's value. -/
def judge (s : State) (d h : Nat) (x : HotSpot) (a b : Option Rat) : HotSpot :=
  let hot := match a, b with | some u, some v => some (max u v) | _, _ => none
  match pairRow a b with
  | .agree =>
      let since := x.agreeSince.getD s.units
      let done := decide (since + unitsPerSec ≤ s.units)
      { x with
        a := a, b := b, used := hot, agreeSince := some since
        trust := if done then .agree else x.trust
        raised := if done then [] else x.raised }
  | .disagree => { x with a := a, b := b, used := hot, agreeSince := none, trust := .disagree }
  | _ =>
      if almanacUp s d then
        { x with a := a, b := b, used := some (estimateOf s d h + 5), agreeSince := none, trust := .distrusted }
      else { x with a := a, b := b, used := none, agreeSince := none, trust := .noModel }

def trustCode (t : Trust) : Nat := match t with | .agree => 0 | .disagree => 1 | .distrusted => 2 | .noModel => 3

/-- The event of an episode, once per episode. -/
def episodeEvent (s : State) (d h : Nat) : State :=
  let x := hotOf s d h
  let code := match pairRow x.a x.b with | .agree => 0 | .disagree => 0x2010 | _ => if x.used.isSome then 0x2011 else 0x2012
  if code = 0 || x.raised.contains (BitVec.ofNat 16 code) then s
  else
    finderEvent (updHot s d h (fun y => { y with raised := y.raised ++ [BitVec.ofNat 16 code] })) code
      (if code = 0x2010 then 1 else 2) (clusterUnit (16 * d + hotCluster h) 0) []

/-- THERM_HS or THERM_STACK (R450); a field keeps its value while there is no reading for it. -/
def setThermReg (s : State) (d h : Nat) : State :=
  let x := hotOf s d h
  let v := if h < 16 then kreg s (16 * d + h) 0x60 else dreg s d (0x320 + 8 * (h - 16))
  let w := fun (v hi lo : Nat) (t : Option Rat) => match t with | some t => setBits v hi lo (tempSteps t) | none => v
  let v := setBits (w (w (w v 63 48 x.a) 47 32 x.b) 31 16 x.used) 7 6 (trustCode x.trust)
  if !(siteSt s d).powered then s
  else if h < 16 then setKreg s (16 * d + h) 0x60 v else setDreg s d (0x320 + 8 * (h - 16)) v

/-- CLK_SWALLOW.CAP of a site: 24 under a coolant stop, at a thermal limit, or with a hot spot that has no used value. -/
def siteCap (s : State) (d : Nat) : State :=
  let blind := (siteSt s d).hot.any (fun e => e.2.trust == .noModel)
  swallowCap s d (if s.fin.stop || (siteSt s d).limited || blind then 24 else 0)

/-- THERMAL_LIMIT of a site (R442): entered at a limit, left after 1 ms with every used value 2 K below. -/
def limitSite (s : State) (d : Nat) : State :=
  let t := siteSt s d
  let any := fun (k : Rat) => t.hot.any (fun e => match e.2.used with | some u => decide (hotLimit e.1 - k < u) | none => false)
  let at_ := t.hot.any (fun e => match e.2.used with | some u => decide (hotLimit e.1 ≤ u) | none => false)
  let since := if any 2 then none else some (t.belowSince.getD s.units)
  let s := updSite s d (fun t => { t with belowSince := since })
  if at_ && !t.limited then
    finderEvent (updSite s d (fun t => { t with limited := true })) 0x2030 1 (dieUnit d 0) []
  else
    let done := match since with | some u => decide (u + unitsPerSec / 1000 ≤ s.units) | none => false
    if t.limited && done then updSite s d (fun t => { t with limited := false }) else s

/-- HOTSPOT_READ (R437, R438, R442, R450). -/
def execHotspotRead (site : SiteId) (h : Fin 20) (a b : Option (BitVec 16)) (s : State) : Out :=
  let d := site.val
  .next (if !s.fin.standby12 then s
    else
      let was := siteDistrusted s d
      let x := judge s d h.val (hotOf s d h.val) (diode s d h.val 0 a) (diode s d h.val 1 b)
      let s := setThermReg (episodeEvent (updHot s d h.val (fun _ => x)) d h.val) d h.val
      let s := siteCap (limitSite s d) d
      if siteDistrusted s d = was then s
      else divideOver s ((divided s).filter (fun k => k / 16 == d)))

/-! Thermal resistance (R439, R440). -/

/-- Used values of a kind over the module. -/
def usedValues (s : State) (stack : Bool) : List Rat :=
  s.sites.flatMap (fun e => (e.2.hot.filter (fun x => decide (16 ≤ x.1) == stack)).filterMap (fun x => x.2.used))
def anyModel (s : State) (stack : Bool) : Bool :=
  s.sites.any (fun e => (e.2.hot.filter (fun x => decide (16 ≤ x.1) == stack)).any (fun x => fromModel x.2))
def hottest : List Rat → Option Rat
  | [] => none
  | x :: t => some (t.foldl max x)

/-- The powers of the last 1 s lie within 5 % of the present one. -/
def steady (hist : List (Nat × Rat)) (pin : Rat) : Bool :=
  let hi := (hist.map (fun e => e.2)).foldl max pin
  let lo := (hist.map (fun e => e.2)).foldl min pin
  decide (hi - lo < pin / 20)

/-- A valid sample of a kind, in K/kW (R439). -/
def rthSampleOf (s : State) (stack : Bool) (hist : List (Nat × Rat)) : Option Rat :=
  let pin : Rat := mainPower s
  match hottest (usedValues s stack) with
  | none => none
  | some t =>
      let seed := mkRat (obj s 0x4800 (if stack then 7 else 6)) 1000
      if pin < 4000 || !steady hist pin || s.fin.inlet.isNone || anyModel s stack then none
      else
        let r := (t - inletTemp s) * 1000 / pin
        if r < seed / 4 then none else some r

/-- RTH_SAMPLE (R439, R440, R411, R452). -/
def execRthSample (s : State) : Out :=
  .next (if !s.fin.standby12 then s
    else
      let hist := s.fin.pinHist.filter (fun e => decide (s.units < e.1 + unitsPerSec)) ++ [(s.units, (mainPower s : Rat))]
      let a := rthSampleOf s false hist
      let b := rthSampleOf s true hist
      let step := fun (old : Rat) (r : Option Rat) => match r with | some r => old + (r - old) / 4096 | none => old
      let s := updFin s (fun f => { f with
        pinHist := hist, rthDie := some (step (rthDie s) a), rthStack := some (step (rthStack s) b)
        nDie := f.nDie + (if a.isSome then 1 else 0), nStack := f.nStack + (if b.isSome then 1 else 0) })
      let s := updFin s (fun f => { f with thermWarm := f.thermWarm || (decide (40000 ≤ f.nDie) && decide (40000 ≤ f.nStack)) })
      let s := setCoolantIn (setThermEst s)
      let change := thermalCap s - s.fin.capLast
      if 50 ≤ max change (-change) then divideCap s else s)

/-! The Almanac (R441). -/

/-- One update of a hot spot of a site that draws power p, over the inlet t. -/
def almanacStep (x : HotSpot) (seed : Nat) (t p : Rat) : HotSpot :=
  let a := x.gain.getD (f32Rat (seed % 2 ^ 32))
  let tau := x.tau.getD (f32Rat (seed / 2 ^ 32))
  let rise := x.rise + (a * p - x.rise) * (1 - expRat (-(1 / (4000 * tau))))
  let forecast := t + a * p + (rise - a * p) * expRat (-(4 / (1000 * tau)))
  let x := { x with rise := rise, tau := some tau, forecast := some forecast }
  match x.used with
  | some u =>
      if x.trust == .agree && 100 ≤ p then
        { x with gain := some (a + (u - (t + rise)) / p / 4096), updates := x.updates + 1 }
      else { x with gain := some a }
  | none => { x with gain := some a }

/-- ALMANAC_UPDATE (R441): every hot spot of every site whose reading of power is valid. -/
def execAlmanacUpdate (s : State) : Out :=
  .next ((List.range 64).foldl (fun s d =>
    if !almanacUp s d then s
    else
      let p : Rat := bitsOf (sitePwr s d) 31 16
      (List.range 20).foldl (fun s h =>
        updHot s d h (fun x => almanacStep x ((calOf s 3).getD (20 * d + h) 0) (inletTemp s) p)) s) s)

/-- L_th after an update, and since when both forecasts have been below their limits − 6 K (R442). -/
def lthNext (lth : Nat) (since : Option Nat) (now : Nat) (own stack : Rat) : Nat × Option Nat :=
  if 103 < own || 93 < stack then (lth - 4, none)
  else if own < 99 && stack < 89 then
    let t := since.getD now
    (if t + unitsPerSec / 250 ≤ now then min 64 (lth + 4) else lth, some t)
  else (lth, none)

/-- LTH_UPDATE (R442). -/
def execLthUpdate (cl : ClusterId) (s : State) : Out :=
  let k := cl.val
  let d := k / 16
  .next <| (
    let hs := [16, 17, 18, 19].filterMap (fun h => (hotOf s d h).forecast)
    match (hotOf s d (k % 16)).forecast, hottest hs with
    | some own, some stack =>
        if !(siteSt s d).powered || (clOf s k).clocksOff || (ccOf s k).image.isNone || (ccOf s k).parked then s
        else
          let n := lthNext (clOf s k).lth (clOf s k).coolSince s.units own stack
          setLocal (updCl s k (fun c => { c with lth := n.1, coolSince := n.2 })) k
    | _, _ => s)

/-! THERMTRIP (R443). -/

/-- THERMTRIP (R443, R422): the converter opens without firmware, the latch sets and the site is fenced. -/
def execThermtrip (site : SiteId) (s : State) : Out :=
  let d := site.val
  .next (if !s.fin.standby12 || (siteSt s d).tripLatch then s
    else
      let own := match s.fin.reen with | some r => r.1 == d | none => false
      let s := updSite (if own then endReen s 2 2 else s) d (fun t => { t with tripLatch := true })
      siteLost (finderEvent s 0x2040 3 (dieUnit d 0) []) d 0x2040)

/-- Every diode of a site reads below 90 °C. -/
def siteCool (s : State) (d : Nat) : Bool :=
  (List.range 20).all (fun h => [(hotOf s d h).a, (hotOf s d h).b].all (fun t => match t with | some x => decide (x < 90) | none => false))

/-- THERMTRIP_CLEAR (R443, R453). -/
def execThermtripClear (req : DapReq) (site : Byte) (s : State) : Out :=
  let d := site.toNat
  .next (dapWrite s req 0x4800 5 (leBytes 1 d)
    (fun _ s => if 63 < d then stRange else if !(siteSt s d).tripLatch || !siteCool s d then stState else stOk)
    (fun _ s => updSite s d (fun t => { t with tripLatch := false })))

/-! Coolant stop (R446 to R449). -/

/-- CLK_SWALLOW.CAP of every site that has power. -/
def siteCaps (s : State) : State := (poweredSites s).foldl siteCap s

/-- COOLANT_STOP (R446, R447, R449, R459). A stop during Eclosion sends it back to waiting. -/
def execCoolantStop (s : State) : Out :=
  .next (if !s.fin.standby12 || s.fin.stop || s.fin.heldOff then s
    else
      let s := endReen s 7 0
      if s.fin.eclosing && !s.fin.ready && s.fin.phase ≠ 0 then
        abortEclosion (finderEvent s 0x2021 3 (moduleUnit 0) [])
      else
        let s := updFin (finderBroadcast s 2 1 allCcs) (fun f => { f with stop := true, stopAt := s.units })
        let s := finderEvent (siteCaps s) 0x2021 3 (moduleUnit 0) []
        let s := (s.parts.map (fun e => e.1)).foldl (fun s p => restartBegin s p 0x2021) s
        setCoolantIn (retainVaults s true))

/-- The thermal state returns to COLD (R439, R448). -/
def goCold (s : State) : State :=
  setThermEst (updFin s (fun f => { f with thermWarm := false, nDie := 0, nStack := 0 }))

/-- COOLANT_RESTORED (R448): the stop ends; after a power-down, 5 s of flow hold a module reset of class C. -/
def execCoolantRestored (s : State) : Out :=
  .next (if s.fin.stop then
      let s := finderBroadcast (updFin s (fun f => { f with stop := false })) 2 0 allCcs
      let s := retainVaults (siteCaps s) (s.fin.pwr == 2)
      setCoolantIn (finderEvent (divideCap (goCold s)) 0x2023 0 (moduleUnit 0) [])
    else if s.fin.heldOff then
      setCoolantIn (holdReset (goCold (updFin s (fun f => { f with heldOff := false }))) 3 0x2022 false)
    else s)

/-- COOLANT_POWERDOWN (R448, R449): every converter opens. -/
def execCoolantPowerdown (s : State) : Out :=
  .next (if !s.fin.stop then s
    else
      let s := (List.range 64).foldl (fun s d =>
        if (siteSt s d).powered then openSite s d 5 else if siteStateOf s d = 2 then s else setSiteState s d 5) s
      let s := updFin s (fun f => { f with stop := false, heldOff := true })
      setCoolantIn (finderEvent s 0x2022 3 (moduleUnit 0) []))

end Sys2Proof.Machine
end

