-- ==== Sys2Proof/Machine/Dispatch.lean ====
section
/-! DEFINITION. exec: one arm per command of the table, each a direct call of its meaning. -/

namespace Sys2Proof.Machine

def exec (i : Instr) (s : State) : Host.Outcome State Fault Refusal :=
  match i with
  | .standbyPowerOn slotPins resetPinLow => Sys2Proof.Machine.execStandbyPowerOn slotPins resetPinLow s
  | .eclosion obs => Sys2Proof.Machine.execEclosion obs s
  | .siteGroupEnergise g results => Sys2Proof.Machine.execSiteGroupEnergise g results s
  | .firmwareBoot served => Sys2Proof.Machine.execFirmwareBoot served s
  | .firmwareRetry served => Sys2Proof.Machine.execFirmwareRetry served s
  | .ccImageLoad cc read1 read2 => Sys2Proof.Machine.execCcImageLoad cc read1 read2 s
  | .patternTestDone c pass => Sys2Proof.Machine.execPatternTestDone c pass s
  | .ready => Sys2Proof.Machine.execReady s
  | .epochRecovery p => Sys2Proof.Machine.execEpochRecovery p s
  | .sequencerIssue c => Sys2Proof.Machine.execSequencerIssue c s
  | .nop c => Sys2Proof.Machine.execNop c s
  | .wait c => Sys2Proof.Machine.execWait c s
  | .signal c => Sys2Proof.Machine.execSignal c s
  | .fence c => Sys2Proof.Machine.execFence c s
  | .jump c => Sys2Proof.Machine.execJump c s
  | .step c => Sys2Proof.Machine.execStep c s
  | .endCmd c => Sys2Proof.Machine.execEndCmd c s
  | .stream c ecc => Sys2Proof.Machine.execStream c ecc s
  | .load c ecc => Sys2Proof.Machine.execLoad c ecc s
  | .store c => Sys2Proof.Machine.execStore c s
  | .mma c obs => Sys2Proof.Machine.execMma c obs s
  | .mmaT c obs => Sys2Proof.Machine.execMmaT c obs s
  | .qact c => Sys2Proof.Machine.execQact c s
  | .qent c => Sys2Proof.Machine.execQent c s
  | .vop c => Sys2Proof.Machine.execVop c s
  | .vred c => Sys2Proof.Machine.execVred c s
  | .vcvt c => Sys2Proof.Machine.execVcvt c s
  | .vnorm c => Sys2Proof.Machine.execVnorm c s
  | .rope c => Sys2Proof.Machine.execRope c s
  | .sweep c => Sys2Proof.Machine.execSweep c s
  | .hubSweepTake p => Sys2Proof.Machine.execHubSweepTake p s
  | .sweepService c => Sys2Proof.Machine.execSweepService c s
  | .sweepResult p => Sys2Proof.Machine.execSweepResult p s
  | .gate c => Sys2Proof.Machine.execGate c s
  | .xsel c => Sys2Proof.Machine.execXsel c s
  | .xnext c => Sys2Proof.Machine.execXnext c s
  | .xstream c ecc => Sys2Proof.Machine.execXstream c ecc s
  | .xacc c => Sys2Proof.Machine.execXacc c s
  | .send c => Sys2Proof.Machine.execSend c s
  | .read c => Sys2Proof.Machine.execRead c s
  | .mcast c => Sys2Proof.Machine.execMcast c s
  | .reduce c => Sys2Proof.Machine.execReduce c s
  | .signalR c => Sys2Proof.Machine.execSignalR c s
  | .inl c => Sys2Proof.Machine.execInl c s
  | .sampleK c => Sys2Proof.Machine.execSampleK c s
  | .sampleM c => Sys2Proof.Machine.execSampleM c s
  | .sampleD c => Sys2Proof.Machine.execSampleD c s
  | .stopchk c => Sys2Proof.Machine.execStopchk c s
  | .commit c => Sys2Proof.Machine.execCommit c s
  | .plateFold c => Sys2Proof.Machine.execPlateFold c s
  | .randC c => Sys2Proof.Machine.execRandC c s
  | .randH c => Sys2Proof.Machine.execRandH c s
  | .tread c => Sys2Proof.Machine.execTread c s
  | .reduceU c => Sys2Proof.Machine.execReduceU c s
  | .seqRun c base => Sys2Proof.Machine.execSeqRun c base s
  | .seqHalt c => Sys2Proof.Machine.execSeqHalt c s
  | .seqResume c index => Sys2Proof.Machine.execSeqResume c index s
  | .grantRelease cl me => Sys2Proof.Machine.execGrantRelease cl me s
  | .engineClockGate c => Sys2Proof.Machine.execEngineClockGate c s
  | .packetRoute r inPort vc pkt ecc => Sys2Proof.Machine.execPacketRoute r inPort vc pkt ecc s
  | .write r vc pkt => Sys2Proof.Machine.execWrite r vc pkt s
  | .readReq r vc pkt => Sys2Proof.Machine.execReadReq r vc pkt s
  | .readRsp r vc pkt => Sys2Proof.Machine.execReadRsp r vc pkt s
  | .inline r vc pkt => Sys2Proof.Machine.execInline r vc pkt s
  | .mcastForward r inPort vc pkt => Sys2Proof.Machine.execMcastForward r inPort vc pkt s
  | .ackToken r fromPort tree partialSt => Sys2Proof.Machine.execAckToken r fromPort tree partialSt s
  | .reduceCombine r tree => Sys2Proof.Machine.execReduceCombine r tree s
  | .linkResync r sb => Sys2Proof.Machine.execLinkResync r sb s
  | .ctrlSignal m => Sys2Proof.Machine.execCtrlSignal m s
  | .icuDoorbell cc m => Sys2Proof.Machine.execIcuDoorbell cc m s
  | .err m => Sys2Proof.Machine.execErr m s
  | .regRd m => Sys2Proof.Machine.execRegRd m s
  | .regWr m => Sys2Proof.Machine.execRegWr m s
  | .regRsp m => Sys2Proof.Machine.execRegRsp m s
  | .mgmt m => Sys2Proof.Machine.execMgmt m s
  | .icuGroupTimeout cc g => Sys2Proof.Machine.execIcuGroupTimeout cc g s
  | .icuClaim cc => Sys2Proof.Machine.execIcuClaim cc s
  | .icuSrcWrite cc n value => Sys2Proof.Machine.execIcuSrcWrite cc n value s
  | .regionStep p region => Sys2Proof.Machine.execRegionStep p region s
  | .dupCompare p owner partner cmdIndex silent silent1 => Sys2Proof.Machine.execDupCompare p owner partner cmdIndex silent silent1 s
  | .marginRemove c => Sys2Proof.Machine.execMarginRemove c s
  | .shadowCheckDone c region src => Sys2Proof.Machine.execShadowCheckDone c region src s
  | .shareUpdate => Sys2Proof.Machine.execShareUpdate s
  | .partDef req p value => Sys2Proof.Machine.execPartDef req p value s
  | .siteClearDone site => Sys2Proof.Machine.execSiteClearDone site s
  | .partitionClearDone p => Sys2Proof.Machine.execPartitionClearDone p s
  | .jobStart req addr desc => Sys2Proof.Machine.execJobStart req addr desc s
  | .jobLoad p file instarDesc instarFile checkpoint => Sys2Proof.Machine.execJobLoad p file instarDesc instarFile checkpoint s
  | .jobEnd req value => Sys2Proof.Machine.execJobEnd req value s
  | .submit q index entry => Sys2Proof.Machine.execSubmit q index entry s
  | .cancel q index entry => Sys2Proof.Machine.execCancel q index entry s
  | .mask q index entry bitmap => Sys2Proof.Machine.execMask q index entry bitmap s
  | .continueReq q index entry tokens => Sys2Proof.Machine.execContinueReq q index entry tokens s
  | .release q index entry => Sys2Proof.Machine.execRelease q index entry s
  | .batch q index entry tokens segs loss => Sys2Proof.Machine.execBatch q index entry tokens segs loss s
  | .replay q index entry record => Sys2Proof.Machine.execReplay q index entry record s
  | .replayResume q index entry record tokens => Sys2Proof.Machine.execReplayResume q index entry record tokens s
  | .admission p => Sys2Proof.Machine.execAdmission p s
  | .tokenPost h => Sys2Proof.Machine.execTokenPost h s
  | .park h => Sys2Proof.Machine.execPark h s
  | .cocoonImport h image => Sys2Proof.Machine.execCocoonImport h image s
  | .ttlExpire h => Sys2Proof.Machine.execTtlExpire h s
  | .draftLoad req addr desc file => Sys2Proof.Machine.execDraftLoad req addr desc file s
  | .draftUnload req value => Sys2Proof.Machine.execDraftUnload req value s
  | .specCycle h draws => Sys2Proof.Machine.execSpecCycle h draws s
  | .specProbe h draws => Sys2Proof.Machine.execSpecProbe h draws s
  | .moultStart req addr desc manifest => Sys2Proof.Machine.execMoultStart req addr desc manifest s
  | .moultAbort req value => Sys2Proof.Machine.execMoultAbort req value s
  | .moultTimeout p => Sys2Proof.Machine.execMoultTimeout p s
  | .manifestVerify manifest => Sys2Proof.Machine.execManifestVerify manifest s
  | .shardArrive p epoch index image => Sys2Proof.Machine.execShardArrive p epoch index image s
  | .drainSwap p => Sys2Proof.Machine.execDrainSwap p s
  | .scrubPass cl => Sys2Proof.Machine.execScrubPass cl s
  | .chainFence req value => Sys2Proof.Machine.execChainFence req value s
  | .instarBatchDone p losses grads => Sys2Proof.Machine.execInstarBatchDone p losses grads s
  | .checkpoint p => Sys2Proof.Machine.execCheckpoint p s
  | .instarExport req value => Sys2Proof.Machine.execInstarExport req value s
  | .stepReplay p f => Sys2Proof.Machine.execStepReplay p f s
  | .stepWatchdog p region => Sys2Proof.Machine.execStepWatchdog p region s
  | .jobRestart p cause => Sys2Proof.Machine.execJobRestart p cause s
  | .requestRestart h => Sys2Proof.Machine.execRequestRestart h s
  | .unitFenced unit cause => Sys2Proof.Machine.execUnitFenced unit cause s
  | .unfence req unit testPass => Sys2Proof.Machine.execUnfence req unit testPass s
  | .patrol cl ecc => Sys2Proof.Machine.execPatrol cl ecc s
  | .eventRecord => Sys2Proof.Machine.execEventRecord s
  | .binoHello p peer => Sys2Proof.Machine.execBinoHello p peer s
  | .subp p msg => Sys2Proof.Machine.execSubp p msg s
  | .binoTimeout p => Sys2Proof.Machine.execBinoTimeout p s
  | .meridianUnlock site => Sys2Proof.Machine.execMeridianUnlock site s
  | .refclkFail => Sys2Proof.Machine.execRefclkFail s
  | .sagWarn millivolts => Sys2Proof.Machine.execSagWarn millivolts s
  | .sagClear => Sys2Proof.Machine.execSagClear s
  | .sagReset millivolts => Sys2Proof.Machine.execSagReset millivolts s
  | .overvoltage millivolts => Sys2Proof.Machine.execOvervoltage millivolts s
  | .inputCollapse => Sys2Proof.Machine.execInputCollapse s
  | .mainInputLoss => Sys2Proof.Machine.execMainInputLoss s
  | .shareDivide pBase => Sys2Proof.Machine.execShareDivide pBase s
  | .siteTrip site undervoltage => Sys2Proof.Machine.execSiteTrip site undervoltage s
  | .reEnergise req site probe => Sys2Proof.Machine.execReEnergise req site probe s
  | .reenergiseWindowClose => Sys2Proof.Machine.execReenergiseWindowClose s
  | .reenergiseDone failed => Sys2Proof.Machine.execReenergiseDone failed s
  | .phaseLost cl phases cause => Sys2Proof.Machine.execPhaseLost cl phases cause s
  | .droopResponse cl obs => Sys2Proof.Machine.execDroopResponse cl obs s
  | .avsUpdate cl slackMin => Sys2Proof.Machine.execAvsUpdate cl slackMin s
  | .traySensorRead inlet outlet => Sys2Proof.Machine.execTraySensorRead inlet outlet s
  | .flowPulse lowUs => Sys2Proof.Machine.execFlowPulse lowUs s
  | .hotspotRead site h a b => Sys2Proof.Machine.execHotspotRead site h a b s
  | .rthSample => Sys2Proof.Machine.execRthSample s
  | .almanacUpdate => Sys2Proof.Machine.execAlmanacUpdate s
  | .lthUpdate cl => Sys2Proof.Machine.execLthUpdate cl s
  | .thermtrip site => Sys2Proof.Machine.execThermtrip site s
  | .thermtripClear req site => Sys2Proof.Machine.execThermtripClear req site s
  | .flowLow => Sys2Proof.Machine.execFlowLow s
  | .flowImplausible => Sys2Proof.Machine.execFlowImplausible s
  | .coolantStop => Sys2Proof.Machine.execCoolantStop s
  | .coolantRestored => Sys2Proof.Machine.execCoolantRestored s
  | .coolantPowerdown => Sys2Proof.Machine.execCoolantPowerdown s
  | .resetRelease => Sys2Proof.Machine.execResetRelease s
  | .resetRequestW req => Sys2Proof.Machine.execResetRequestW req s
  | .resetRequestM req => Sys2Proof.Machine.execResetRequestM req s
  | .resetReqN lowUs => Sys2Proof.Machine.execResetReqN lowUs s
  | .diapauseEnter req => Sys2Proof.Machine.execDiapauseEnter req s
  | .diapauseWake src req => Sys2Proof.Machine.execDiapauseWake src req s
  | .standbyEnter req => Sys2Proof.Machine.execStandbyEnter req s
  | .standbyExit req => Sys2Proof.Machine.execStandbyExit req s
  | .fwUpdate req addr rel => Sys2Proof.Machine.execFwUpdate req addr rel s
  | .coreReload cc read1 read2 => Sys2Proof.Machine.execCoreReload cc read1 read2 s
  | .fwUpdateDone => Sys2Proof.Machine.execFwUpdateDone s
  | .stewardHeartbeat => Sys2Proof.Machine.execStewardHeartbeat s
  | .stewardHandover => Sys2Proof.Machine.execStewardHandover s
  | .stewardFailover => Sys2Proof.Machine.execStewardFailover s
  | .dapSegment path source data first last => Sys2Proof.Machine.execDapSegment path source data first last s
  | .dapReassemblyTimeout path source => Sys2Proof.Machine.execDapReassemblyTimeout path source s
  | .dapOpen req body => Sys2Proof.Machine.execDapOpen req body s
  | .dapProve req cert => Sys2Proof.Machine.execDapProve req cert s
  | .dapClose req => Sys2Proof.Machine.execDapClose req s
  | .dapRead req body => Sys2Proof.Machine.execDapRead req body s
  | .dapWrite req body => Sys2Proof.Machine.execDapWrite req body s
  | .auditExport req body => Sys2Proof.Machine.execAuditExport req body s
  | .auditAck req body => Sys2Proof.Machine.execAuditAck req body s
  | .sessionIdleTimeout session => Sys2Proof.Machine.execSessionIdleTimeout session s
  | .credentialUnlock fp => Sys2Proof.Machine.execCredentialUnlock fp s
  | .pathQuarantineEnd path => Sys2Proof.Machine.execPathQuarantineEnd path s
  | .wlDetect n lanes => Sys2Proof.Machine.execWlDetect n lanes s
  | .wlTrain n obs => Sys2Proof.Machine.execWlTrain n obs s
  | .wlCapability n block => Sys2Proof.Machine.execWlCapability n block s
  | .wlDown n => Sys2Proof.Machine.execWlDown n s
  | .wlRetrain n recovered => Sys2Proof.Machine.execWlRetrain n recovered s
  | .wlFlit n flit => Sys2Proof.Machine.execWlFlit n flit s
  | .wlReplayTimeout n => Sys2Proof.Machine.execWlReplayTimeout n s
  | .wlTapAdapt n => Sys2Proof.Machine.execWlTapAdapt n s
  | .cpl n tag error data => Sys2Proof.Machine.execCpl n tag error data s
  | .mrdTimeout n tag => Sys2Proof.Machine.execMrdTimeout n tag s
  | .wlDoorbell n queue index hostTime => Sys2Proof.Machine.execWlDoorbell n queue index hostTime s
  | .stamp n hostTime => Sys2Proof.Machine.execStamp n hostTime s
  | .qcreate n tag payload => Sys2Proof.Machine.execQcreate n tag payload s
  | .qdelete n tag payload => Sys2Proof.Machine.execQdelete n tag payload s
  | .parkArea n tag base length => Sys2Proof.Machine.execParkArea n tag base length s
  | .wlQuarantineEnd n => Sys2Proof.Machine.execWlQuarantineEnd n s
  | .portRelease req port => Sys2Proof.Machine.execPortRelease req port s
  | .portHoldExpire n => Sys2Proof.Machine.execPortHoldExpire n s
  | .hlDetect hport lanes => Sys2Proof.Machine.execHlDetect hport lanes s
  | .hlTrain hport obs peerGen => Sys2Proof.Machine.execHlTrain hport obs peerGen s
  | .hlHello hport hello chain sig => Sys2Proof.Machine.execHlHello hport hello chain sig s
  | .hlDown hport => Sys2Proof.Machine.execHlDown hport s
  | .hlRetrain hport recovered => Sys2Proof.Machine.execHlRetrain hport recovered s
  | .hlFlit hport flit => Sys2Proof.Machine.execHlFlit hport flit s
  | .hlReplayTimeout hport => Sys2Proof.Machine.execHlReplayTimeout hport s
  | .hopHandoff hport p stepNum rows => Sys2Proof.Machine.execHopHandoff hport p stepNum rows s
  | .hopAck hport p stepNum => Sys2Proof.Machine.execHopAck hport p stepNum s
  | .hopAckTimeout hport p => Sys2Proof.Machine.execHopAckTimeout hport p s
  | .hlQuarantineEnd hport => Sys2Proof.Machine.execHlQuarantineEnd hport s
  | .hlPortRelease req port => Sys2Proof.Machine.execHlPortRelease req port s
  | .publisherCert req n cert => Sys2Proof.Machine.execPublisherCert req n cert s
  | .publisherFp req n fp => Sys2Proof.Machine.execPublisherFp req n fp s
  | .quoteRequest req nonce => Sys2Proof.Machine.execQuoteRequest req nonce s
  | .quoteIssued => Sys2Proof.Machine.execQuoteIssued s
  | .makerEpochMin req value => Sys2Proof.Machine.execMakerEpochMin req value s
  | .debugUnlock req value => Sys2Proof.Machine.execDebugUnlock req value s
  | .debugLock req value => Sys2Proof.Machine.execDebugLock req value s
  | .debugDmi req value => Sys2Proof.Machine.execDebugDmi req value s
  | .challengeTimeout path source txn => Sys2Proof.Machine.execChallengeTimeout path source txn s
  | .hlTapAdapt hport => Sys2Proof.Machine.execHlTapAdapt hport s
  | .reenergiseSettleTimeout => Sys2Proof.Machine.execReenergiseSettleTimeout s
  | .bothStewardsLoss => Sys2Proof.Machine.execBothStewardsLoss s

end Sys2Proof.Machine
end

