-- ==== Sys2Proof/Safety.lean ====
section
/-! DEFINITION. The terms that claims are stated in: good states, commands that stand ready to act, what a command leaves
unchanged. -/

namespace Sys2Proof.Machine

/-! Outcomes. -/

/-- The command answers a next state, and the state has a property. -/
def answers (i : Instr) (s : State) (P : State → Prop) : Prop := ∃ t, exec i s = .next t ∧ P t

/-- The command answers a next state that is s itself. -/
def leaves (i : Instr) (s : State) : Prop := exec i s = .next s

/-! Memories. -/

/-- A memory is in its canonical form. -/
def Mem.wf (m : Mem) : Bool := cellsWf m.cells

/-- One byte of a memory. -/
def memByte (m : Mem) (a : Nat) : Byte := cellByte m.cells a

/-- Every memory of the module is in its canonical form. -/
def MemoriesCanonical (s : State) : Prop :=
  (∀ c, (coreOf s c).spad.wf = true) ∧ (∀ k, (clOf s k).vault.wf = true) ∧ (∀ i, (ccOf s i).mem.wf = true)

/-- Outside n bytes from lo on, two memories hold the same bytes and the same poison. -/
def sameOutside (m m' : Mem) (lo n : Nat) : Prop :=
  (∀ a, a < lo ∨ lo + n ≤ a → memByte m' a = memByte m a)
    ∧ ∀ g, 8 * g + 8 ≤ lo ∨ lo + n ≤ 8 * g → (g ∈ m'.poison ↔ g ∈ m.poison)

/-! Frames. -/

/-- Nothing but core c differs. -/
def onlyCore (s t : State) (c : Nat) : Prop := t = { s with cores := t.cores } ∧ ∀ d, d ≠ c → coreOf t d = coreOf s d

/-- Nothing but cluster k differs. -/
def onlyCluster (s t : State) (k : Nat) : Prop := t = { s with clusters := t.clusters } ∧ ∀ d, d ≠ k → clOf t d = clOf s d

/-- Core c has become v, and nothing else differs. -/
def coreBecomes (s t : State) (c : Nat) (v : CoreState) : Prop := onlyCore s t c ∧ coreOf t c = v

/-- Only bytes [lo, lo + n) of core c's scratchpad differ, and the count of free values taken. -/
def wroteSpad (s t : State) (c lo n : Nat) : Prop :=
  t = { s with cores := t.cores, free := t.free } ∧ (∀ d, d ≠ c → coreOf t d = coreOf s d)
    ∧ coreOf t c = { coreOf s c with spad := (coreOf t c).spad }
    ∧ sameOutside (coreOf s c).spad (coreOf t c).spad lo n

/-- Only bytes [lo, lo + n) of vault k differ. -/
def wroteVault (s t : State) (k lo n : Nat) : Prop :=
  onlyCluster s t k ∧ clOf t k = { clOf s k with vault := (clOf t k).vault }
    ∧ sameOutside (clOf s k).vault (clOf t k).vault lo n

/-- No memory of a core or a cluster differs. -/
def memoriesKept (s t : State) : Prop :=
  (∀ c, (coreOf t c).spad = (coreOf s c).spad) ∧ ∀ k, (clOf t k).vault = (clOf s k).vault

/-! Core commands (ch. 05, 07). -/

/-- The next command of core c's sequencer is a legal command of opcode o, and the sequencer looks at it. -/
def seqAt (s : State) (c o : Nat) : Bool :=
  seqLive s c && (fetchFault s c).isNone && wOpc (nextWord s c) == o && !wordIllegal (nextWord s c)

/-- The core after its sequencer has passed a command: it goes on at the next index, of which it holds the row and the one after
(R117, R121). -/
def passed (v : CoreState) : CoreState := advance v

/-- A complete command of queue q (0: the sequencer's own) signals its token on its own core, and lets END and HALT finish (R128,
R141, R183, R190). -/
def settled (s : State) (c q o index : Nat) (token : Option Nat) : State := drainEnd (finishToken s c q index o token) c

/-- The sequencer's own command is complete: the next state is s' with its token signalled, and s' has a property. -/
def seqCompletes (i : Instr) (s : State) (c o : Nat) (P : State → Prop) : Prop :=
  ∃ s', exec i s = .next (settled s' c 0 o (coreOf s c).cmdIndex.toNat (ownToken (nextWord s c))) ∧ P s'

/-- Command i, legal and of opcode o, stands at the head of queue q of core c, whose clocks run (R118). -/
def engAt (s : State) (c q o : Nat) (i : Issued) : Bool :=
  coreOn s c && (queueOf (coreOf s c) q).head? == some i && wOpc i.word.toNat == o && !wordIllegal i.word.toNat

/-- A complete command leaves its queue and is settled (R118); its accesses met others at the scratchpad's banks (R124 to R126). -/
def retired (s : State) (c q o : Nat) (i : Issued) : State :=
  settled (popEngine s c q) c q o i.index.toNat (ownToken i.word.toNat)

/-- The command is complete: the next state is s' with the command retired, and s' has a property. -/
def completes (i : Instr) (s : State) (c q o : Nat) (cmd : Issued) (P : State → Prop) : Prop :=
  ∃ s', exec i s = .next (retired s' c q o cmd) ∧ P s'

/-- n bytes of scratchpad from granule g on lie in it. -/
def inSpad (g n : Nat) : Bool := decide (8 * g + n ≤ Config.spadSize)

/-- n bytes of core c's scratchpad from granule g on lie in it and are not poisoned (R123, R353). -/
def readable (s : State) (c g n : Nat) : Bool := inSpad g n && !spadPoisoned s c (8 * g) n

/-- The FP32 value at a byte address of core c's scratchpad. -/
def f32At (s : State) (c a : Nat) : F32 := BitVec.ofNat 32 (leNat (spadRead s c a 4))

/-- A descriptor of `size` bytes at granule g can be taken: aligned, readable, its `reserved` low bits zero (R185). -/
def descOk (s : State) (c g size reserved : Nat) : Bool :=
  8 * g % size == 0 && readable s c g size && leNat (spadRead s c (8 * g) size) % 2 ^ reserved == 0

/-- The descriptor at granule g. -/
def descAt (s : State) (c g size : Nat) : Nat := leNat (spadRead s c (8 * g) size)

/-- An FP32 operand of n values, or one scalar for all, can be read. -/
def operandOk (s : State) (c g n : Nat) (used scalar : Bool) : Bool :=
  !used || (if scalar then readable s c g (if n = 0 then 0 else 8) else readable s c g (4 * n))

/-- Value j of such an operand. -/
def operandAt (s : State) (c g j : Nat) (used scalar : Bool) : F32 :=
  if !used then 0#32 else if scalar then f32At s c (8 * g) else f32At s c (8 * g + 4 * j)

/-- No byte of [a, a + n) lies in [b, b + m). -/
def apart (a n b m : Nat) : Bool := decide (a + n ≤ b) || decide (b + m ≤ a) || n == 0 || m == 0

/-- The union-table entry that a cursor names can be read (R123, R200, R353), and what it holds: identifier and token bitmap. -/
def cursorOk (s : State) (c x : Nat) : Bool := decide (xPos x < xCount x) && readable s c (xTable x + 1 + 5 * xPos x) 40
def cursorAt (s : State) (c x : Nat) : Nat × Nat :=
  let b := spadRead s c (8 * (xTable x + 1 + 5 * xPos x)) 40
  (leAt b 0 2, leAt b 8 32)

/-- The tensor that a stream descriptor names in a memory, decoded whole. -/
def streamTensor (m : Mem) (d : Nat) : StreamTensor := {
  tscale := sdTscale d, bf16 := sdKind d == 1, whole := true
  blocks := if sdKind d = 1 then [] else (imageList m (sdCount d) (sdBase d)).flatMap (fun e => stripeDecoded m e.1)
  values := if sdKind d = 1 then (chunks 2 (memRead m (sdBase d) (64 * sdCount d))).map (fun b => BitVec.ofNat 16 (leNat b)) else [] }

/-- The stream can be decoded whole: a good descriptor, every stripe good and readable (R66, R123, R233, R353). -/
def streamGood (s : State) (c d : Nat) : Prop :=
  let m := srcMem s c (sdSrc d)
  sdError d = none ∧ sdBase d + streamLength m d ≤ srcCap (sdSrc d) ∧ memPoisoned m (sdBase d) (streamLength m d) = false
  ∧ (sdKind d = 0 → ∀ j e, (imageList m (sdCount d) (sdBase d))[j]? = some e → stripeFault s c d j e.1 = none
      ∧ stripeDecoded m e.1 ≠ [])

/-- The tokens that a matrix command computes, and that their set can be read (R192). -/
def tokensOf (s : State) (c w d x : Nat) : List Nat :=
  let all := List.range (mdTokens d)
  if bitOf (wMod w) 3 then all.filter (fun t => bitOf (cursorAt s c x).2 t)
  else if bitOf (wMod w) 2 then all.filter (fun t => bitOf (descAt s c (mdMask d) 32) t) else all
def tokensOk (s : State) (c w d x : Nat) : Bool :=
  if bitOf (wMod w) 3 then cursorOk s c x else if bitOf (wMod w) 2 then readable s c (mdMask d) 32 else true

/-- The conditions under which MMA or MMA.T runs on a whole tensor that stands first in the FIFO: a grant, a good descriptor, a
pairing that R87 allows, exactly ROWS × NBLK blocks, operands in the scratchpad and not poisoned, and outputs that lie apart from
the activations and from one another. -/
def matrixReady (transposed : Bool) (s : State) (c : Nat) (i : Issued) (d : Nat) (x : StreamTensor) : Prop :=
  let w := i.word.toNat; let last := mdTokens d - 1; let count := outCount transposed d; let ts := tokensOf s c w d i.xcur.toNat
  coreGranted s c 0 = true ∧ descOk s c (wA w) 32 95 = true ∧ d = descAt s c (wA w) 32
  ∧ (coreOf s c).fifo.head? = some x ∧ x.whole = true ∧ (coreOf s c).me = none
  ∧ mdError s c transposed (bitOf (wMod w) 1) d = none ∧ pairingBad transposed d x = false
  ∧ tensorBlocks x = mdRows d * mdNblk d ∧ tokensOk s c w d i.xcur.toNat = true
  ∧ actAddr transposed d last + actSpan transposed d ≤ Config.spadSize
  ∧ outAddr d last + 4 * (count + count % 2) ≤ Config.spadSize
  ∧ (∀ t ∈ ts, spadPoisoned s c (actAddr transposed d t) (actSpan transposed d) = false
      ∧ (bitOf (wMod w) 0 = true → spadPoisoned s c (outAddr d t) (4 * (count + count % 2)) = false))
  ∧ (∀ t ∈ ts, ∀ u ∈ ts, apart (outAddr d t) (4 * (count + count % 2)) (actAddr transposed d u) (actSpan transposed d) = true
      ∧ (t ≠ u → apart (outAddr d t) (4 * (count + count % 2)) (outAddr d u) (4 * (count + count % 2)) = true))

/-- An ME's output after its silent faults: output r of the k-th token of the set (R100). -/
def faulted (silent : List (Nat × W32)) (count k r : Nat) (y : F32) : F32 :=
  silent.foldl (fun y e => if e.1 = count * k + r then y ^^^ e.2 else y) y

/-! Transfers (R202). -/

/-- The transfer of an opcode that core c has begun and not sent to its end. -/
def underWay (s : State) (c opc : Nat) : Option TeTxn :=
  (coreOf s c).te.find? (fun t => decide (t.sent < t.size) && t.opc.toNat == opc)
/-- The position from which the transfer goes on, and its identifier. -/
def sendPos (s : State) (c opc : Nat) : Nat := match underWay s c opc with | some t => t.sent | none => 0
def sendTid (s : State) (c opc : Nat) : Nat := match underWay s c opc with | some t => t.tid.toNat | none => (coreOf s c).nextTid.toNat

/-- The local input buffer of a channel can take a packet of core c, and some of the transfer's bytes have yet to be sent; a READ
waits for the READ before it (R118). -/
def transferReady (s : State) (c vc op opc size : Nat) : Bool :=
  decide (0 < roomIn s c 0 (bufOf vc op)) && (openHop s c 0 (bufOf vc op)).isNone && decide (sendPos s c opc < size)
    && (opc != 0x71 || (underWay s c opc).isSome || !(coreOf s c).te.any (fun t => t.opc == 0x71#8))

/-- Packets of a transfer that join the local input buffer: from a position on in address order, each the one that `pkt` gives at
its position, up to the position reached. -/
def sendsFrom (c vc : Nat) (span : Nat → Nat) (pkt : Nat → Packet) : Nat → List Hop → Nat → Prop
  | a, [], b => a = b
  | a, h :: hs, b => h.router = c ∧ h.port = 0 ∧ h.vc = vc ∧ h.pkt = pkt a ∧ h.gone = 0 ∧ h.drop = false
      ∧ 0 < h.here ∧ h.here ≤ flitsOf h.pkt ∧ (hs ≠ [] → h.here = flitsOf h.pkt) ∧ sendsFrom c vc span pkt (a + span a) hs b

/-- The transfer command goes on: packets join the local input buffer; the command leaves its queue once its last packet has left,
a READ once its data have landed; and no memory changes. -/
def transfers (i : Instr) (s : State) (c vc opc size : Nat) (span : Nat → Nat) (pkt : Nat → Nat → Packet) : Prop :=
  ∃ t hs pos, exec i s = .next t ∧ hs ≠ [] ∧ t.mesh = s.mesh ++ hs
    ∧ sendsFrom c vc span (pkt (sendTid s c opc)) (sendPos s c opc) hs pos
    ∧ (∃ x ∈ (coreOf t c).te, x.tid.toNat = sendTid s c opc ∧ x.opc.toNat = opc ∧ x.sent = pos)
    ∧ (coreOf t c).teq = (if size ≤ pos ∧ opc ≠ 0x71 then (coreOf s c).teq.drop 1 else (coreOf s c).teq)
    ∧ memoriesKept s t ∧ ∀ d, d ≠ c → coreOf t d = coreOf s d

/-- A job runs on partition p, and its layout has a SWEEP section. -/
def sweepJob (s : State) (p : Nat) (j : Job) (d : SweepDesc) : Prop := jobOf s p = some j ∧ sweepDesc j = some d

/-! The fabric (ch. 06). -/

/-- No semaphore is within three of its largest count. -/
def roomySems (s : State) : Prop := ∀ c m, semOf s c m < 0xFFFD

/-- The packet has arrived at router r at the head of its buffer, as hop h, with its last flits: nothing refuses it there, its access
of n bytes included, the local output's choice falls on it, and so the rest of it leaves the mesh. -/
def landsAt (s : State) (r vc op n : Nat) (burst : Bool) (pkt : Packet) (h : Hop) : Prop :=
  pktOk pkt = true ∧ hOp (pHead pkt) = op ∧ arrived s r vc pkt = some h ∧ h.drop = false
    ∧ portStop s r h.port 0 vc (pHead pkt) = none ∧ destError (hAddr (pHead pkt)) n burst = none
    ∧ wins s h = true ∧ flitsOf pkt ≤ h.gone + quota s h

/-- The granules of a body stand at their places from an offset on, with no poison, and nothing else of the memory differs. -/
def wroteGranules (m m' : Mem) (off : Nat) (b : Bytes) (gs : List Nat) : Prop :=
  (∀ a, memByte m' a = if off ≤ a ∧ (a - off) / 8 ∈ gs then b.getD (a - off) 0#8 else memByte m a)
    ∧ ∀ q, q ∈ m'.poison ↔ q ∈ m.poison ∧ ¬ (off / 8 ≤ q ∧ q - off / 8 ∈ gs)

/-- A packet's body has landed in a memory of the mesh, and no other memory differs. -/
def landedIn (s t : State) (m : MeshMem) (off : Nat) (b : Bytes) (gs : List Nat) : Prop :=
  wroteGranules (memOf s m) (memOf t m) off b gs ∧ ∀ x, x ≠ m → memOf t x = memOf s x

/-- No flits wait for room at the local port behind the hop, so that its own leaving lets none in. -/
def noRefill (s : State) (h : Hop) : Prop := h.port = 0 → openHop s h.router 0 (hopBuf h) = none

/-- A control message of a type that the network delivers (R168, R171). -/
def lands (s : State) (m : CtrlMsg) (type : Nat) : Prop := msgOk m = true ∧ msgDropped s m = false ∧ mType m = type

/-! Requests of the management agent (ch. 21). -/

/-- The state in which the agent serves a message, which has left the inbox; and that in which the request is counted on its path. -/
def taken (s : State) (r : DapReq) (service : Nat) (body : Bytes) : State :=
  updMgmt s (fun m => { m with
    serving := BitVec.ofNat 8 service, inbox := m.inbox.erase (r.path, r.source, dapHeader service r body.length ++ body) })
def heard (s : State) (r : DapReq) (service : Nat) (body : Bytes) : State :=
  (countRequest (taken s r service body) r.path).1

/-- The agent runs, the path is not quarantined, and it has not sent more than 256 requests in this second (R497). -/
def listens (s : State) (r : DapReq) (service : Nat) (body : Bytes) : Prop :=
  s.fin.standby12 = true ∧ s.mgmt.quarPaths.contains r.path = false
    ∧ (countRequest (taken s r service body) r.path).2 = false

/-- OLD of a write's audit entry. -/
def oldValue (s : State) (ix sub : Nat) : Bytes := match objAt ix sub with | some _ => objBytes s ix sub | none => []

/-- The agent can take the write of an object, its signature and its value aside: it hears the request, which is the next of the
open session se, whose role may write the object; the audit log has room and the parameter store takes the entry (R496 to R500). -/
def canWrite (s : State) (r : DapReq) (ix sub : Nat) (value : Bytes) (se : Session) : Prop :=
  listens s r 0x11 (writeBody ix sub value ++ r.sig) ∧ r.sig.length = 7856 ∧ sessionFor s r = some se ∧ r.seq = se.seq + 1
    ∧ s.mgmt.overflow = none ∧ (se.role = 0 → auditCount s < 4032) ∧ s.mgmt.storeFail = false
    ∧ ∃ o, objAt ix sub = some o ∧ mayWrite o se.role.val = true

/-- The state in which the agent has recorded an accepted write and answered OK. -/
def granted (s : State) (r : DapReq) (ix sub : Nat) (value : Bytes) (se : Session) : State :=
  respond (recordWrite (touch (heard s r 0x11 (writeBody ix sub value ++ r.sig)) r) se.role.val stOk (pathCode r.path) se.fp ix sub
    (oldValue s ix sub) value).1 r stOk []

/-- The command is a write that the signature decides: with a good one the agent grants it and P holds of the granted state and the
next; with a bad one it is counted, recorded and answered SIGNATURE. -/
def writes (i : Instr) (s : State) (r : DapReq) (ix sub : Nat) (value : Bytes) (se : Session) (P : State → State → Prop) : Prop :=
  ∃ t, exec i s = .next t
    ∧ (signedOk se r 0x11 (writeBody ix sub value) = true → P (granted s r ix sub value se) t)
    ∧ (signedOk se r 0x11 (writeBody ix sub value) = false →
        t = refuseWrite (badSig (heard s r 0x11 (writeBody ix sub value ++ r.sig)) r.path se.fp) r se.role.val se.fp ix sub
          (oldValue s ix sub) value stSignature)

/-- The agent has answered the request last, with a status and a body. -/
def answered (t : State) (r : DapReq) (status : Nat) (body : Bytes) : Prop :=
  t.mgmt.out.getLast? = some (DapResp.mk r.path r.source t.mgmt.serving r.txn r.session r.seq (BitVec.ofNat 16 status)
    (padTo (alignUp body.length 8) body))

/-- The agent hears a request that is the next of the open session se. -/
def asks (s : State) (r : DapReq) (service : Nat) (body : Bytes) (se : Session) : Prop :=
  listens s r service body ∧ sessionFor s r = some se ∧ r.seq = se.seq + 1

/-- The state in which that request is the session's last. -/
def asked (s : State) (r : DapReq) (service : Nat) (body : Bytes) : State := touch (heard s r service body) r

/-- Of a segment's reassembly: the bytes before it, where it begins a message or is the next of one. -/
def segBefore (s : State) (path : DapPath) (source : Nat) (f : Bool × Bool × Nat × Bytes) : Option Bytes :=
  match reasmAt s path source with
  | none => if f.1 then some [] else none
  | some r => if f.1 then none
      else match path with
        | .wenlink _ => some r.data
        | _ => if f.2.2.1 = r.next then some r.data else none

/-- A whole message keeps R492. -/
def messageWhole (b : Bytes) : Prop :=
  b.length = 16 + 8 * leAt b 0xC 2 ∧ b.length ≤ 24592 ∧ byteAt b 0 ∈ dapServices ∧ byteAt b 1 = 0 ∧ leAt b 0xE 2 = 0

/-! Host commands of the queues (ch. 10, 23). -/

/-- The entry stands at the head of its queue, read and well formed, and the Logbook has room for its record. -/
def hostReady (s : State) (q : BitVec 16) (index : W32) (e : Bytes) (opc payload : Nat) : Prop :=
  e.length = 128 ∧ cOpc e = opc ∧ cmdDue s q index = true ∧ logReady s (cPart e) payload = true

/-- The Steward has taken the entry at the head of a command queue: the head has moved by one. -/
def headMoved (s t : State) (q : BitVec 16) : Prop :=
  ∃ w w', queueAt s q.toNat = some w ∧ queueAt t q.toNat = some w' ∧ w'.head = w.head + 1

/-- The entry names request r, in slot h, of a partition that serves. -/
def names (s : State) (e : Bytes) (h : Nat) (r : Request) : Prop :=
  cPart e ≤ 15 ∧ servesPart s (cPart e) = true ∧ findReq s (cPart e) (cReq e) = some (h, r) ∧ reqOf s h = some r

/-- The 32-bit words that bytes spell. -/
def wordsOf (b : Bytes) : List W32 := (chunks 4 b).map (fun x => BitVec.ofNat 32 (leNat x))

/-- The slot holds no request any more, or one in a final state. -/
def endedAs (t : State) (h : Nat) (st : ReqState) : Prop := ∀ x, reqOf t h = some x → x.st = st

/-- Nothing but the request of slot h differs. -/
def onlyRequest (s t : State) (h : Nat) : Prop := t = { s with reqs := t.reqs } ∧ ∀ g, g ≠ h → reqOf t g = reqOf s g

/-- Every scratchpad is as it was. -/
def spadsKept (s t : State) : Prop := ∀ c, (coreOf t c).spad = (coreOf s c).spad

/-! Links (ch. 23, 24). -/

/-- Of the Wenlink ports and the control cores only port n and its link control core differ. -/
def onlyPort (s t : State) (n : Nat) : Prop :=
  t = { s with wl := t.wl, ccs := t.ccs } ∧ (∀ m, m ≠ n → wlOf t m = wlOf s m) ∧ ∀ i, i ≠ linkCc n → ccOf t i = ccOf s i

/-- An event of the code has been raised. -/
def raised (s t : State) (code : BitVec 16) : Prop := ∃ es, t.events = s.events ++ es ∧ ∃ e ∈ es, e.code = code

/-- Wenlink port n has entered DOWN: no lanes, its taps from their seeds, its sessions closed, event 0x7011 (R496, R520, R522). -/
def wentDown (s t : State) (n : WlPort) : Prop :=
  (wlOf t n).st = 0 ∧ (wlOf t n).lanes = 0 ∧ (wlOf t n).tapsWarm = false ∧ (wlOf t n).unacked = []
    ∧ (∀ e ∈ t.mgmt.sessions, e.path ≠ .wenlink n) ∧ raised s t 0x7011

/-- A violation of the table's row k has been counted on a Wenlink port (R535). -/
def wlCounted (s t : State) (n k : Nat) : Prop :=
  getN 0#32 (wlOf t n).viols k = BitVec.ofNat 32 (satAdd32 (getN 0#32 (wlOf s n).viols k).toNat 1)

/-- A host time is not lower than the last on a port (R528). -/
def timeKept (s : State) (n : Nat) (t : W64) : Prop := ∀ old, (wlOf s n).lastHostTime = some old → old.toNat ≤ t.toNat

/-- Of the sites only d differs. -/
def onlySite (s t : State) (d : Nat) : Prop := t = { s with sites := t.sites } ∧ ∀ e, e ≠ d → siteSt t e = siteSt s e

/-- Of the sites only the Heliostat port of d differs. -/
def onlyHl (s t : State) (d : Nat) : Prop := onlySite s t d ∧ siteSt t d = { siteSt s d with hl := hlOf t d }

/-- Heliostat port d has entered DOWN: no lanes and no peer, its taps from their seeds, event 0x7031 (R540, R541). -/
def hlWentDown (s t : State) (d : Nat) : Prop :=
  (hlOf t d).st = 0 ∧ (hlOf t d).lanes = 0 ∧ (hlOf t d).peer = [] ∧ (hlOf t d).tapsWarm = false ∧ raised s t 0x7031

/-- A violation of the table's row k has been counted on a Heliostat port (R549). -/
def hlCounted (s t : State) (d k : Nat) : Prop :=
  getN 0#32 (hlOf t d).viols k = BitVec.ofNat 32 (satAdd32 (getN 0#32 (hlOf s d).viols k).toNat 1)

end Sys2Proof.Machine
end

