-- ==== Sys2Proof/Certificates/Slice0/Obligations.lean ====
section
/-! DEFINITION. The statements of this model, for the provers. Each docstring names the rules of spec/ that it formalises, or
says that it is the model's own. -/

open Sys2Proof Sys2Proof.Machine

/-! ## The block as a whole -/

/-- A step takes the command at the front of the queue and is exec of it on the state with the queue's rest. -/
def Obligations.StepRunsFront : Prop :=
  ∀ (c : Instr) (rest : List Instr) (s : State),
    step { s with pending := c :: rest } = exec c { s with pending := rest }

/-- With an empty queue a step is one REFCLK cycle once standby power is on, in which the sites that protection slows count their
PCLK edges (CLK_SWALLOW_CNT.THROTTLED) and nothing else changes, and changes nothing before that; where an entry to DIAPAUSE waits
for the block to come to rest, it completes (the model's choice, log entry 1). -/
def Obligations.EmptyQueueIsOneCycle : Prop :=
  ∀ s : State, s.pending = [] →
    (s.fin.standby12 = false → step s = .next s)
    ∧ (s.fin.standby12 = true → s.fin.diaWait = false →
        ∃ t, step s = .next t ∧ t = { s with units := s.units + 30, sites := t.sites }
          ∧ (∀ d off, off ≠ 0x310 → dreg t d off = dreg s d off)
          ∧ ((∀ e ∈ s.sites, e.2.powered = true → swallowOf s e.1 = 0) → t.sites = s.sites))
    ∧ (s.fin.standby12 = true → s.fin.held = none → s.fin.diaWait = true → s.fin.wakeWait = none →
        stepsInFlight { countThrottled s (s.units + 30) with units := s.units + 30 } = false →
        ∃ t, step s = .next t ∧ t.units = s.units + 30 ∧ t.fin.pwr = 2 ∧ t.fin.diaWait = false)

/-- A command's effect is on everything but the queue: what waits behind it waits on, in its order. -/
def Obligations.CommandsLeaveTheQueue : Prop :=
  ∀ (c : Instr) (s t : State), exec c s = .next t → t.pending = s.pending

/-- Every step keeps every memory of the module (scratchpads, vaults, control-core memories) in its canonical form. -/
def Obligations.StepKeepsMemoriesCanonical : Prop :=
  ∀ s t : State, MemoriesCanonical s → step s = .next t → MemoriesCanonical t

/-- The state right after reset: no command waits, every memory is in its canonical form with every byte zero (the model's choice
for memory that nothing has written), and the registers hold the reset values of their tables: THETA 6.0 (R82), the AVS setpoint
and the setpoint in force 0x2EE mV (R428, R429), COOLANT_IN with COLD set (R451), the interrupt group words 0x00010001 (R477), no
partition defined (R512). Model's choices: log entries 2, 3. -/
def Obligations.ResetState : Prop :=
  MemoriesCanonical State.reset ∧ State.reset.pending = []
  ∧ (∀ c off, creg State.reset c off = if off = 0x320 then 0x40C00000 else 0)
  ∧ (∀ k, bitsOf (kreg State.reset k 0x50) 25 16 = 0x2EE ∧ bitsOf (kreg State.reset k 0x58) 37 28 = 0x2EE)
  ∧ ireg State.reset 64 0x1300 = 4
  ∧ (∀ i g, gcfgOf (ccOf State.reset i).icu g = 0x00010001)
  ∧ (∀ p, partDef State.reset p = 0 ∧ jobOf State.reset p = none)
  ∧ ∀ c a, memByte (coreOf State.reset c).spad a = 0#8

/-- A command whose operands no wire can carry stops by name: a packet or a message of a wrong size (R157, R168), an entry that is
not 128 B or carries another row's opcode (R271), fetched lists of a wrong length, a wrong number of draws. No command is ever
refused. (The faults are the model's own, for terms outside those sizes.) Model's choices: log entry 6. -/
def Obligations.IllFormedTermsFault : Prop :=
  (∀ (i : Instr) (s : State) (r : Refusal), exec i s ≠ .refused r)
  ∧ (∀ (r : RouterId) (p : PortIx) (vc : Vc) (pkt : Packet) (ecc : EccObs) (s : State), pktOk pkt = false →
    exec (.packetRoute r p vc pkt ecc) s = .fault (.illFormed "PACKET_ROUTE") ∧ exec (.write r vc pkt) s = .fault (.illFormed "WRITE")
    ∧ exec (.readReq r vc pkt) s = .fault (.illFormed "READ_REQ") ∧ exec (.readRsp r vc pkt) s = .fault (.illFormed "READ_RSP")
    ∧ exec (.inline r vc pkt) s = .fault (.illFormed "INLINE") ∧ exec (.mcastForward r p vc pkt) s = .fault (.illFormed "MCAST_FORWARD"))
  ∧ (∀ (cc : CcId) (m : CtrlMsg) (s : State), msgOk m = false →
    exec (.ctrlSignal m) s = .fault (.illFormed "CTRL_SIGNAL") ∧ exec (.icuDoorbell cc m) s = .fault (.illFormed "ICU_DOORBELL")
    ∧ exec (.err m) s = .fault (.illFormed "ERR") ∧ exec (.regRd m) s = .fault (.illFormed "REG_RD")
    ∧ exec (.regWr m) s = .fault (.illFormed "REG_WR") ∧ exec (.regRsp m) s = .fault (.illFormed "REG_RSP")
    ∧ exec (.mgmt m) s = .fault (.illFormed "MGMT"))
  ∧ (∀ (q : BitVec 16) (ix : W32) (e : Bytes) (a b l : Option Bytes) (ts : List Bytes) (s : State),
    (entryForm e 1 = false → exec (.submit q ix e) s = .fault (.illFormed "SUBMIT"))
    ∧ (entryForm e 2 = false → exec (.cancel q ix e) s = .fault (.illFormed "CANCEL"))
    ∧ (entryForm e 3 = false ∨ (∃ x, a = some x ∧ x.length ≠ 24576) → exec (.mask q ix e a) s = .fault (.illFormed "MASK"))
    ∧ (entryForm e 4 = false ∨ (∃ x, a = some x ∧ x.length ≠ 4 * leAt e 0x10 4) →
        exec (.continueReq q ix e a) s = .fault (.illFormed "CONTINUE"))
    ∧ (entryForm e 5 = false → exec (.release q ix e) s = .fault (.illFormed "RELEASE"))
    ∧ (entryForm e 0x10 = false ∨ (∃ x, a = some x ∧ x.length ≠ 4 * leAt e 0x10 4) ∨ (∃ x, b = some x ∧ x.length ≠ 8 * leAt e 0x14 2)
        ∨ (∃ x, l = some x ∧ x.length ≠ ceilDiv (leAt e 0x10 4) 8) → exec (.batch q ix e a b l) s = .fault (.illFormed "BATCH"))
    ∧ (entryForm e 0x20 = false ∨ (∃ x, a = some x ∧ lgResume x = true) → exec (.replay q ix e a) s = .fault (.illFormed "REPLAY"))
    ∧ (entryForm e 0x20 = false ∨ (∃ x, a = some x ∧ lgResume x = false) ∨ (∃ t ∈ ts, t.length ≠ 32) →
        exec (.replayResume q ix e a ts) s = .fault (.illFormed "REPLAY_RESUME")))
  ∧ (∀ (h : Slot) (ds : List SpecDraw) (r : Request) (x : SpecRun) (s : State), reqOf s h = some r → r.cycle = some x →
    x.verified = true → ds.length ≠ x.props.length + 1 →
    (x.probe = false → exec (.specCycle h ds) s = .fault (.illFormed "SPEC_CYCLE"))
    ∧ (x.probe = true → exec (.specProbe h ds) s = .fault (.illFormed "SPEC_PROBE")))
  ∧ ∀ (h : Slot) (ds : List SpecDraw) (r : Request) (s : State), reqOf s h = some r → maySpeculate s r = true →
    (r.specOff = false → ds.length ≠ min r.specD (draftCap s r) + 1 → exec (.specCycle h ds) s = .fault (.illFormed "SPEC_CYCLE"))
    ∧ (r.specOff = true → 256 ≤ r.specWait → ds.length ≠ min 2 (draftCap s r) + 1 →
        exec (.specProbe h ds) s = .fault (.illFormed "SPEC_PROBE"))

/-! ## The sequencer -/

/-- SEQUENCER_ISSUE (R117, R121, R201): a legal engine command goes to the end of its queue with its index and the cursor that
holds now, the sequencer is at the next index and holds the row in issue and the one after; with 8 commands in that queue the
sequencer holds it and nothing changes. Nothing but the core changes. Model's choices: log entry 4. -/
def Obligations.IssueFillsItsQueue : Prop :=
  ∀ (c : CoreId) (s : State) (q : Nat), seqLive s c = true → fetchFault s c = none →
    opQueue (wOpc (nextWord s c)) = some q → 1 ≤ q →
    (8 ≤ (queueOf (coreOf s c) q).length → leaves (.sequencerIssue c) s)
    ∧ ((queueOf (coreOf s c) q).length < 8 →
        answers (.sequencerIssue c) s (fun t => onlyCore s t c
          ∧ queueOf (coreOf t c) q = queueOf (coreOf s c) q
            ++ [{ word := BitVec.ofNat 128 (nextWord s c), index := (coreOf s c).cmdIndex, xcur := BitVec.ofNat 64 (creg s c 0x48) }]
          ∧ coreOf t c = setQueue (passed (coreOf s c)) q (queueOf (coreOf t c) q)
          ∧ (coreOf t c).cmdIndex = (coreOf s c).cmdIndex + 1
          ∧ (coreOf t c).rows.map (fun x => x.row) = [cmdAddr (coreOf t c) / 256, cmdAddr (coreOf t c) / 256 + 1]))

/-- NOP, WAIT, SIGNAL, FENCE and JUMP as R190 gives them, their tokens as R183 does, and what each leaves unchanged: everything
but its own core. A WAIT subtracts its count once the semaphore holds it, and else waits; a SIGNAL adds (where the sum stays
within 0xFFFF); a FENCE passes when every queue that it names is empty and, for the TEQ, no transfer is under way; a JUMP goes to
its target, or takes 1 from its semaphore. -/
def Obligations.SequencerCommandsAct : Prop :=
  ∀ (c : CoreId) (s : State), let v := coreOf s c; let w := nextWord s c; let sem := bitsOf w 95 91; let n := bitsOf w 79 64
    let jsem := bitsOf w 77 73; let target := bitsOf w 95 79
    (seqAt s c 0x00 = true → seqCompletes (.nop c) s c 0x00 (fun t => coreBecomes s t c (passed v)))
    ∧ (seqAt s c 0x01 = true → n ≤ semOf s c sem →
        seqCompletes (.wait c) s c 0x01 (fun t => coreBecomes s t c { passed v with sem := (coreOf t c).sem }
          ∧ semOf t c sem = semOf s c sem - n ∧ ∀ m, m ≠ sem → semOf t c m = semOf s c m))
    ∧ (seqAt s c 0x01 = true → semOf s c sem < n →
        answers (.wait c) s (fun t => coreBecomes s t c { v with seqState := .waiting (Fin.ofNat 32 sem) }))
    ∧ (seqAt s c 0x02 = true → semOf s c sem + n ≤ 0xFFFF →
        seqCompletes (.signal c) s c 0x02 (fun t => coreBecomes s t c { passed v with sem := (coreOf t c).sem }
          ∧ semOf t c sem = semOf s c sem + n ∧ ∀ m, m ≠ sem → semOf t c m = semOf s c m))
    ∧ (seqAt s c 0x03 = true →
        (bitOf w 92 = true → v.meq = []) → (bitOf w 93 = true → v.veq = []) → (bitOf w 94 = true → v.seqe = []) →
        (bitOf w 95 = true → v.teq = [] ∧ v.te = []) →
        seqCompletes (.fence c) s c 0x03 (fun t => coreBecomes s t c (passed v)))
    ∧ (seqAt s c 0x03 = true →
        (bitOf w 92 = true ∧ v.meq ≠ [] ∨ bitOf w 93 = true ∧ v.veq ≠ [] ∨ bitOf w 94 = true ∧ v.seqe ≠ []
          ∨ bitOf w 95 = true ∧ (v.teq ≠ [] ∨ v.te ≠ [])) → leaves (.fence c) s)
    ∧ (seqAt s c 0x04 = true → (bitOf w 78 = false ∨ semOf s c jsem = 0) →
        v.window.toNat * 16 + target * 16 < Config.spadSize →
        seqCompletes (.jump c) s c 0x04 (fun t => coreBecomes s t c (goTo v (BitVec.ofNat 32 target))))
    ∧ (seqAt s c 0x04 = true → bitOf w 78 = true → 0 < semOf s c jsem →
        seqCompletes (.jump c) s c 0x04 (fun t => coreBecomes s t c { passed v with sem := (coreOf t c).sem }
          ∧ semOf t c jsem = semOf s c jsem - 1 ∧ ∀ m, m ≠ jsem → semOf t c m = semOf s c m))

/-- STEP and END (R190, R210): STEP adds 1 to STEP_NUM, modulo 2^64; END stops issue, and with every queue empty RUN reads 0 and
source 0x010 of the cluster's control core is signalled for the core. XSEL and XNEXT (R200, R201): XSEL, whose whole table lies in
the scratchpad, puts the cursor at entry 0 of it and signals its semaphore with the entry count; a table that reaches past the end
fails with SPAD_RANGE (R189). XNEXT goes one entry on. Past the last entry XNEXT fails with DESC. -/
def Obligations.StepsCountAndEndsStop : Prop :=
  (∀ (c : CoreId) (s : State), let v := coreOf s c
    (seqAt s c 0x05 = true → seqCompletes (.step c) s c 0x05 (fun t => onlyCore s t c
        ∧ creg t c 0x38 = (creg s c 0x38 + 1) % 2 ^ 64 ∧ (∀ off, off ≠ 0x38 → creg t c off = creg s c off)
        ∧ coreOf t c = { passed v with regs := (coreOf t c).regs, nfSeen := false, dupTaken := false, shdTaken := false }))
    ∧ (seqAt s c 0x06 = true → seqCompletes (.endCmd c) s c 0x06 (fun t => coreBecomes s t c { passed v with ending := true }))
    ∧ (v.ending = true → (v.meq ≠ [] ∨ v.veq ≠ [] ∨ v.seqe ≠ [] ∨ v.teq ≠ []) → v.halting = false → drainEnd s c = s)
    ∧ (v.ending = true → v.meq = [] → v.veq = [] → v.seqe = [] → v.teq = [] → let t := drainEnd s c
        coreOf t c = { v with run := false, ending := false, halting := false, seqState := .stopped }
        ∧ (∀ d, d ≠ c.val → coreOf t d = coreOf s d) ∧ t = { s with cores := t.cores, ccs := t.ccs }
        ∧ (∀ i, i ≠ clusterOf c → ccOf t i = ccOf s i)
        ∧ (ccOf t (clusterOf c)).icu = icuMessage (ccOf s (clusterOf c)).icu s.units (0x10 + coreIn c) 0
        ∧ (ccOf t (clusterOf c)).mem = (ccOf s (clusterOf c)).mem))
  ∧ (∀ (c : CoreId) (s : State), let v := coreOf s c; let w := nextWord s c; let g := bitsOf w 95 78; let sem := bitsOf w 77 73
    let n := leNat (spadRead s c (8 * g) 8) % 4096; let x := creg s c 0x48
    (seqAt s c 0x61 = true → readable s c g 8 = true → inSpad g (8 * (1 + 5 * n)) = true → semOf s c sem + n ≤ 0xFFFF →
      seqCompletes (.xsel c) s c 0x61 (fun t => onlyCore s t c
        ∧ coreOf t c = { passed v with regs := (coreOf t c).regs, sem := (coreOf t c).sem }
        ∧ creg t c 0x48 = g * 2 ^ 46 + n * 2 ^ 34 ∧ (∀ off, off ≠ 0x48 → creg t c off = creg s c off)
        ∧ semOf t c sem = semOf s c sem + n ∧ ∀ m, m ≠ sem → semOf t c m = semOf s c m))
    ∧ (seqAt s c 0x61 = true → readable s c g 8 = true → inSpad g (8 * (1 + 5 * n)) = false →
      exec (.xsel c) s = .next (failCommand s c 0 v.cmdIndex.toNat 0x21 0x61 1))
    ∧ (seqAt s c 0x62 = true → xPos x < xCount x →
      seqCompletes (.xnext c) s c 0x62 (fun t => onlyCore s t c ∧ coreOf t c = { passed v with regs := (coreOf t c).regs }
        ∧ creg t c 0x48 = xTable x * 2 ^ 46 + xCount x * 2 ^ 34 + (xPos x + 1) * 2 ^ 22
        ∧ ∀ off, off ≠ 0x48 → creg t c off = creg s c off))
    ∧ (seqAt s c 0x62 = true → xCount x ≤ xPos x →
      exec (.xnext c) s = .next (failCommand s c 0 v.cmdIndex.toNat 0x26 0x62 0)))

/-- SEQ_RUN, SEQ_HALT and SEQ_RESUME (R141, R209, R373), written by the control core of a cluster whose clocks run: a run starts
at index 0 of the window at BASE, with SEQ_ERR at zero and nothing fetched before; a window at or beyond the scratchpad's end is
refused; a halted sequencer with empty queues and no transfer under way has RUN at 0; a resume of a stopped sequencer starts at
its index with BASE unchanged. GRANT_RELEASE and ENGINE_CLOCK_GATE (R216, R455): an ME with nothing left to multiply gives its
grant back, and where no other ME waits that is all; the engines of a core with empty queues, an idle sequencer and no sweep to
serve are clock-gated, which changes no result. Model's choices: log entries 46, 123, 124. -/
def Obligations.SequencersRunAndGatesClose : Prop :=
  (∀ (c : CoreId) (s : State), let v := coreOf s c
    (∀ base : BitVec 17, coreOn s c = true → base.toNat * 16 < Config.spadSize →
      answers (.seqRun c base) s (fun t => onlyCore s t c ∧ creg t c 0x30 = 0 ∧ (∀ off, off ≠ 0x30 → creg t c off = creg s c off)
        ∧ coreOf t c = goTo { v with
            regs := (coreOf t c).regs, run := true, ending := false, halting := false, base := base, window := base, rows := [] } 0))
    ∧ (∀ base : BitVec 17, Config.spadSize ≤ base.toNat * 16 → leaves (.seqRun c base) s)
    ∧ (v.run = true → v.seqState ≠ .errored → (v.meq ≠ [] ∨ v.veq ≠ [] ∨ v.seqe ≠ [] ∨ v.teq ≠ []) →
      answers (.seqHalt c) s (fun t => coreBecomes s t c { v with halting := true }))
    ∧ (v.run = true → v.seqState ≠ .errored → v.meq = [] → v.veq = [] → v.seqe = [] → v.teq = [] → v.te = [] →
      answers (.seqHalt c) s (fun t => (coreOf t c).run = false ∧ (coreOf t c).seqState = .stopped
        ∧ (coreOf t c).halting = false ∧ (∀ d, d ≠ c.val → coreOf t d = coreOf s d)
        ∧ t = { s with cores := t.cores, ccs := t.ccs }))
    ∧ (∀ index : BitVec 17, coreOn s c = true → v.run = false →
      answers (.seqResume c index) s (fun t => onlyCore s t c ∧ creg t c 0x50 = index.toNat ∧ creg t c 0x30 = 0
        ∧ coreOf t c = goTo { v with
            regs := (coreOf t c).regs, run := true, ending := false, halting := false, window := v.base, rows := [] }
            (BitVec.ofNat 32 index.toNat)))
    ∧ (∀ index : BitVec 17, v.run = true → leaves (.seqResume c index) s))
  ∧ ((∀ (cl : ClusterId) (me : Fin 64) (g : Nat × GrantClass) (s : State), (clOf s cl).grants.find? (fun x => x.1 == me.val) = some g →
    (clOf s cl).grants.length ≤ inForce s cl → (clOf s cl).waiting = [] →
    pairReady s (coreAt (cl.val / 16) (cl.val % 16) (me.val / 4)) g.2 = false →
    answers (.grantRelease cl me) s (fun t => onlyCluster s t cl
      ∧ clOf t cl = { clOf s cl with grants := (clOf s cl).grants.erase g }))
  ∧ (∀ (c : CoreId) (s : State), let v := coreOf s c
    v.meq = [] → v.veq = [] → v.seqe = [] → v.teq = [] → v.seqState ≠ .running → sweepBusy s c = false →
    answers (.engineClockGate c) s (fun t => coreBecomes s t c { v with gated := true })))

/-! ## The engines of a core -/

/-- What retiring a complete command does (R118, R128, R183, R190): its queue loses its head, the semaphore of a token on its own
core counts 1 more (where that stays within 0xFFFF), other semaphores, the command's own results and every register but the banks'
counters are kept; and while the sequencer neither ends nor halts nothing but the core changes (and the count of free values, one
of which stands for the command's meetings at the banks: log entry 7). The sequencer's own complete command signals its token
likewise. A failing command (R188, R189, R209), here one that is ILLEGAL or reaches past the end of the scratchpad: its queue is
discarded and what its engine had begun is given up, the sequencer is stopped with STATE 0b11, SEQ_ERR holds index, code, queue,
class, opcode and operand, and event 0x5041 with the SEQ_ERR value is raised. Where no job runs on the core's site nothing else of
the core changes. -/
def Obligations.CommandsRetireOrStopTheirCore : Prop :=
  ((∀ (s : State) (c : CoreId) (q o : Nat) (i : Issued) (rest : List Issued), 1 ≤ q → q ≤ 4 →
    queueOf (coreOf s c) q = i :: rest →
    (∀ n, ownToken i.word.toNat = some n → semOf s c n < 0xFFFF) →
    let t := retired s c q o i
    queueOf (coreOf t c) q = rest
    ∧ (∀ n, semOf t c n = semOf s c n + (if ownToken i.word.toNat = some n then 1 else 0))
    ∧ (coreOf t c).spad = (coreOf s c).spad
    ∧ (∀ off, off ≠ 0x200 → off ≠ 0x208 → creg t c off = creg s c off)
    ∧ (∀ d, d ≠ c.val → coreOf t d = coreOf s d)
    ∧ ((coreOf s c).ending = false → (coreOf s c).halting = false →
        t = { s with cores := t.cores, free := t.free }
        ∧ coreOf t c = setQueue { coreOf s c with sem := (coreOf t c).sem, regs := (coreOf t c).regs } q rest))
  ∧ ∀ (s : State) (c : CoreId) (o index : Nat) (token : Option Nat), (∀ n, token = some n → semOf s c n < 0xFFFF) →
    (coreOf s c).ending = false → (coreOf s c).halting = false →
    let t := settled s c 0 o index token
    coreBecomes s t c { coreOf s c with sem := (coreOf t c).sem }
    ∧ ∀ n, semOf t c n = semOf s c n + (if token = some n then 1 else 0))
  ∧ (∀ (c : CoreId) (s : State) (q code o operand index : Nat), 1 ≤ q → q ≤ 4 → corePart s c = none →
    let t := failCommand s c q index code o operand
    coreOf t c = { setQueue (abandon (coreOf s c) q) q [] with
        run := false, ending := false, halting := false, seqState := .errored, regs := (coreOf t c).regs }
    ∧ creg t c 0x30 = seqErrWord index code q o operand % 2 ^ 64
    ∧ (∀ off, off ≠ 0x30 → creg t c off = creg s c off)
    ∧ (∀ d, d ≠ c.val → coreOf t d = coreOf s d)
    ∧ ∃ e, t.events = s.events ++ [e] ∧ e.code = 0x5041#16
        ∧ e.detail = leBytes 8 (seqErrWord index code q o operand) ++ zeros 8)

/-- LOAD and STORE (R190's chapter, R131): N granules go from the core's own vault to scratchpad, or back; only those bytes
change, and for a LOAD what the code saw may count or poison the vault (R352), never its bytes. Any other address is DESC. -/
def Obligations.LoadAndStoreCopy : Prop :=
  ∀ (c : CoreId) (s : State) (i : Issued), let w := i.word.toNat; let off := aOff (gAddr w); let n := 8 * gN w
    (∀ ecc : EccObs, engAt s c 4 0x12 i = true → ownVault c (gAddr w) = true → off + n ≤ Config.vaultCap → inSpad (wA w) n = true →
      memPoisoned (clOf s (clusterOf c)).vault off n = false → ecc.ue.filter (fun g => (granules off n).contains g) = [] →
      completes (.load c ecc) s c 4 0x12 i (fun t =>
        spadRead t c (8 * wA w) n = vaultRead s (clusterOf c) off n
        ∧ sameOutside (coreOf s c).spad (coreOf t c).spad (8 * wA w) n
        ∧ coreOf t c = { coreOf s c with spad := (coreOf t c).spad }
        ∧ (∀ d, d ≠ c.val → coreOf t d = coreOf s d)
        ∧ ∀ k, (clOf t k).vault = (clOf s k).vault))
    ∧ (engAt s c 4 0x13 i = true → ownVault c (gAddr w) = true → off + n ≤ Config.vaultCap → readable s c (wA w) n = true →
      completes (.store c) s c 4 0x13 i (fun t =>
        vaultRead t (clusterOf c) off n = spadRead s c (8 * wA w) n ∧ wroteVault s t (clusterOf c) off n))
    ∧ (engAt s c 4 0x13 i = true → ownVault c (gAddr w) = false →
      exec (.store c) s = .next (failCommand s c 4 i.index.toNat 0x26 0x13 4))

/-- STREAM and XSTREAM (R66, R119, R190, R191, R200): a checked stream of good stripes joins the FIFO as one decoded tensor where
the FIFO has room for it, and with MOD[0] = 1 its raw images are copied to scratchpad; XSTREAM streams the N descriptors of the
cursor's expert, in their order. While the FIFO holds 64 blocks a stream under way stands where it is. Model's choices: log
entries 7, 125. -/
def Obligations.StreamsDecode : Prop :=
  ∀ (c : CoreId) (s : State) (i : Issued) (ecc : EccObs), let w := i.word.toNat
    (engAt s c 3 0x10 i = true → descOk s c (wA w) 16 0 = true → wMod w = 0 → ecc.ue = [] → (coreOf s c).se = none →
      let d := descAt s c (wA w) 16; let x := streamTensor (srcMem s c (sdSrc d)) d
      streamGood s c d → fifoBlocks (coreOf s c) + tensorBlocks x ≤ 64 →
      completes (.stream c ecc) s c 3 0x10 i (fun t =>
        (coreOf t c).fifo = (coreOf s c).fifo ++ [x] ∧ (coreOf t c).se = none ∧ memoriesKept s t
        ∧ (∀ k, k ≠ c.val → coreOf t k = coreOf s k)))
    ∧ (engAt s c 3 0x10 i = true → descOk s c (wA w) 16 0 = true → wMod w = 1 → ecc.ue = [] → (coreOf s c).se = none →
      (sweepBusy s c && coreGranted s c 1) = false →
      let d := descAt s c (wA w) 16; let m := srcMem s c (sdSrc d); let n := streamLength m d
      sdError d = none → sdBase d + n ≤ srcCap (sdSrc d) → memPoisoned m (sdBase d) n = false → inSpad (wB w) n = true →
      completes (.stream c ecc) s c 3 0x10 i (fun t =>
        spadRead t c (8 * wB w) n = memRead m (sdBase d) n
        ∧ sameOutside (coreOf s c).spad (coreOf t c).spad (8 * wB w) n
        ∧ (coreOf t c).fifo = (coreOf s c).fifo ∧ ∀ k, (clOf t k).vault = (clOf s k).vault))
    ∧ (engAt s c 3 0x63 i = true → 1 ≤ wN w → wN w ≤ 8 → 8 * wA w % 16 = 0 → ecc.ue = [] → (coreOf s c).se = none →
      cursorOk s c i.xcur.toNat = true →
      let g := fun (j : Nat) => wA w + 2 * ((cursorAt s c i.xcur.toNat).1 * wN w + j)
      let d := fun (j : Nat) => descAt s c (g j) 16
      let xs := (List.range (wN w)).map (fun j => streamTensor (srcMem s c (sdSrc (d j))) (d j))
      (∀ j, j < wN w → readable s c (g j) 16 = true ∧ streamGood s c (d j)) →
      fifoBlocks (coreOf s c) + (xs.map tensorBlocks).sum ≤ 64 →
      completes (.xstream c ecc) s c 3 0x63 i (fun t =>
        (coreOf t c).fifo = (coreOf s c).fifo ++ xs ∧ (coreOf t c).se = none
        ∧ memoriesKept s t ∧ ∀ k, k ≠ c.val → coreOf t k = coreOf s k))
    ∧ (∀ r, engAt s c 3 0x10 i = true → (coreOf s c).se = some r → r.stripe < sdCount r.desc.toNat → 64 ≤ fifoBlocks (coreOf s c) →
      answers (.stream c ecc) s (fun t => (coreOf t c).fifo = (coreOf s c).fifo ∧ (coreOf t c).seqe = (coreOf s c).seqe
        ∧ (coreOf t c).se = some r ∧ memoriesKept s t))

/-- MMA and MMA.T (R88 to R95, R100, R191 to R193): the tensor leaves the FIFO, and for every token of the set every output is the
dot product of its row (or column) in the arithmetic that MOD[1] names, with what a silently faulty ME makes of it, added to the
old output where MOD[0] says so. Bytes outside the outputs of those tokens, the other cores' memories and every vault are kept.
Model's choices: log entries 39, 126. -/
def Obligations.MatrixProducts : Prop :=
  ∀ (c : CoreId) (s : State) (i : Issued) (d : Nat) (x : StreamTensor) (ecc : EccObs) (silent : List (Nat × W32)), ecc.ue = [] →
    let w := i.word.toNat; let ref := bitOf (wMod w) 1; let acc := bitOf (wMod w) 0; let ts := tokensOf s c w d i.xcur.toNat
    (engAt s c 1 0x20 i = true → matrixReady false s c i d x →
      completes (.mma c ⟨ecc, silent⟩) s c 1 0x20 i (fun t =>
        (coreOf t c).fifo = (coreOf s c).fifo.drop 1
        ∧ (∀ n k, ts[n]? = some k → ∀ r, r < mdRows d →
            let y := faulted silent (mdRows d) n r
              (mmaOut x ref (mdSa d) (mdRows d) (mdNblk d) r (actBlocks s c d k)).1
            f32At t c (outAddr d k + 4 * r) = if acc then add32 (f32At s c (outAddr d k + 4 * r)) y else y)
        ∧ (∀ a, (∀ k ∈ ts, a < outAddr d k ∨ outAddr d k + 4 * (mdRows d + mdRows d % 2) ≤ a) →
            memByte (coreOf t c).spad a = memByte (coreOf s c).spad a)
        ∧ (∀ k, k ≠ c.val → coreOf t k = coreOf s k) ∧ ∀ k, (clOf t k).vault = (clOf s k).vault))
    ∧ (engAt s c 1 0x21 i = true → matrixReady true s c i d x →
      completes (.mmaT c ⟨ecc, silent⟩) s c 1 0x21 i (fun t =>
        (coreOf t c).fifo = (coreOf s c).fifo.drop 1
        ∧ (∀ n k, ts[n]? = some k → ∀ r, r < 32 * mdNblk d →
            let y := faulted silent (32 * mdNblk d) n r
              (mmaTOut x ref (mdNblk d) (mdRows d) r (gradGroups s c d k)).1
            f32At t c (outAddr d k + 4 * r) = if acc then add32 (f32At s c (outAddr d k + 4 * r)) y else y)
        ∧ (∀ a, (∀ k ∈ ts, a < outAddr d k ∨ outAddr d k + 128 * mdNblk d ≤ a) →
            memByte (coreOf t c).spad a = memByte (coreOf s c).spad a)
        ∧ (∀ k, k ≠ c.val → coreOf t k = coreOf s k) ∧ ∀ k, (clOf t k).vault = (clOf s k).vault))

/-- VOP, VRED, VCVT, VNORM and ROPE (R85, R97, R98, R196 to R198, R242): the values at D are the function of the operands as they
stood, element by element (a scalar operand serves every element); only the bytes of D's granules change. Model's choices: log
entries 12, 20. -/
def Obligations.VectorCommandsCompute : Prop :=
  ∀ (c : CoreId) (s : State) (i : Issued), let w := i.word.toNat; let n := wN w; let m := wMod w
    (engAt s c 2 0x40 i = true → let code := m % 64; let two := decide (2 ≤ vopArity code); let three := decide (3 ≤ vopArity code)
      operandOk s c (wA w) n true false = true → operandOk s c (wB w) n two (bitOf m 6) = true →
      operandOk s c (wC w) n three (bitOf m 7) = true → inSpad (wD w) (4 * n) = true →
      completes (.vop c) s c 2 0x40 i (fun t => wroteSpad s t c (8 * wD w) (8 * ceilDiv n 2)
        ∧ ∀ j, j < n → f32At t c (8 * wD w + 4 * j) = vopFun code (operandAt s c (wA w) j true false)
            (operandAt s c (wB w) j two (bitOf m 6)) (operandAt s c (wC w) j three (bitOf m 7))))
    ∧ (engAt s c 2 0x41 i = true → readable s c (wA w) (4 * n) = true → inSpad (wD w) 8 = true →
      completes (.vred c) s c 2 0x41 i (fun t => wroteSpad s t c (8 * wD w) 8
        ∧ let xs := (List.range n).map (fun j => f32At s c (8 * wA w + 4 * j))
          leNat (spadRead t c (8 * wD w) 8)
            = (if m % 4 = 0 then sum32 xs else if m % 4 = 1 then sumsq32 xs else maxv32 xs).toNat))
    ∧ (engAt s c 2 0x42 i = true → m % 4 = 1 → readable s c (wA w) (2 * n) = true → inSpad (wD w) (4 * n) = true →
      completes (.vcvt c) s c 2 0x42 i (fun t => wroteSpad s t c (8 * wD w) (8 * ceilDiv n 2)
        ∧ ∀ j, j < n → f32At t c (8 * wD w + 4 * j)
            = canon32 (ofBf16 (BitVec.ofNat 16 (leNat (spadRead s c (8 * wA w + 2 * j) 2))))))
    ∧ (engAt s c 2 0x42 i = true → m % 4 = 0 → readable s c (wA w) (4 * n) = true → inSpad (wD w) (2 * n) = true →
      (m / 4 % 4 = 1 → readable s c (wC w) 16 = true) →
      completes (.vcvt c) s c 2 0x42 i (fun t => wroteSpad s t c (8 * wD w) (8 * ceilDiv n 4)
        ∧ ∀ j, j < n → let x := f32At s c (8 * wA w + 4 * j); let y := leNat (spadRead t c (8 * wD w + 2 * j) 2)
          (m / 4 % 4 = 0 → y = (toBf16 x).toNat)
          ∧ (m / 4 % 4 = 1 → y = (toBf16Stoch x (stochK (BitVec.ofNat 64 (leNat (spadRead s c (8 * wC w) 8)))
              (leNat (spadRead s c (8 * wC w + 8) 2)) j)).toNat)
          ∧ (m / 4 % 4 = 2 → ∃ k, k < 65536 ∧ y = (toBf16Stoch x k).toNat)))
    ∧ (engAt s c 2 0x43 i = true → readable s c (wA w) (4 * n) = true → operandOk s c (wB w) n true (bitOf m 6) = true →
      readable s c (wC w) 8 = true → inSpad (wD w) (4 * n) = true →
      completes (.vnorm c) s c 2 0x43 i (fun t => wroteSpad s t c (8 * wD w) (8 * ceilDiv n 2)
        ∧ (List.range n).map (fun j => f32At t c (8 * wD w + 4 * j))
            = vnorm ((List.range n).map (fun j => f32At s c (8 * wA w + 4 * j)))
                ((List.range n).map (fun j => operandAt s c (wB w) j true (bitOf m 6))) (f32At s c (8 * wC w))))
    ∧ (engAt s c 2 0x44 i = true → readable s c (wA w) (256 * n) = true → readable s c (wB w) (4 * n) = true →
      readable s c (wC w) 128 = true → inSpad (wD w) (256 * n) = true →
      completes (.rope c) s c 2 0x44 i (fun t => wroteSpad s t c (8 * wD w) (256 * n)
        ∧ ∀ k, k < n → (List.range 64).map (fun j => f32At t c (8 * wD w + 256 * k + 4 * j))
            = ropeVector (leNat (spadRead s c (8 * wB w + 4 * k) 4)) ((List.range 32).map (fun j => f32At s c (8 * wC w + 4 * j)))
                ((List.range 64).map (fun j => f32At s c (8 * wA w + 256 * k + 4 * j)))))

/-- QACT and QENT (R67 to R73, R83, R84, R194, R195): every stripe of a QACT whose capacity holds its outliers stands encoded at
its slot of D, every unit of a QENT at its place; only those bytes change, the counters of NF_CNT aside. A stripe that cannot be
encoded within its capacity traps: the event is 0x5020, the core's VEQ is discarded and nothing more is issued (R73). Model's
choices: log entries 37, 91, 150. -/
def Obligations.QuantisersEncode : Prop :=
  ∀ (c : CoreId) (s : State) (i : Issued), let w := i.word.toNat
    (engAt s c 2 0x30 i = true → descOk s c (wA w) 32 121 = true →
      let d := descAt s c (wA w) 32; let nval := qdNval d; let ns := ceilDiv nval 2048
      let enc := fun (k : Nat × Nat) => qactStripe (if wMod w % 4 = 1 || (trappedTokens s c).contains k.1 then 3 else 0) (qdS d)
        (coreTheta s c) (qdCap d) (wMod w / 4 % 4) k.2
        (spadF32 s c (8 * (qdSrc d + k.1 * ceilDiv nval 2) + 8192 * k.2) (min 2048 (nval - 2048 * k.2)))
        (fun e => roundWord (wMod w / 16) (BitVec.ofNat 64 (leNat (spadRead s c (8 * qdSeed d) 8)))
          (leNat (spadRead s c (8 * qdSeed d + 8) 2)) s.free (k.1 * nval + 2048 * k.2 + e))
      qdError s c w d = none → readable s c (qdSrc d) (8 * ceilDiv nval 2 * qdTokens d) = true →
      inSpad (qdDst d) (64 * qdSlot d * ns * qdTokens d) = true → (wMod w / 16 = 1 → readable s c (qdSeed d) 16 = true) →
      apart (8 * qdSrc d) (8 * ceilDiv nval 2 * qdTokens d) (8 * qdDst d) (64 * qdSlot d * ns * qdTokens d) = true →
      ((∀ k ∈ qactItems d, ∃ img, (enc k).image = some img ∧ img.length ≤ 64 * qdSlot d) →
        completes (.qact c) s c 2 0x30 i (fun t =>
          (∀ k ∈ qactItems d, ∀ img, (enc k).image = some img →
            spadRead t c (8 * qdDst d + (k.1 * ns + k.2) * 64 * qdSlot d) img.length = img)
          ∧ sameOutside (coreOf s c).spad (coreOf t c).spad (8 * qdDst d) (64 * qdSlot d * ns * qdTokens d)
          ∧ (∀ k, k ≠ c.val → coreOf t k = coreOf s k) ∧ t.clusters = s.clusters))
      ∧ ((∃ k ∈ qactItems d, (enc k).image = none) →
        answers (.qact c) s (fun t => (coreOf t c).veq = [] ∧ (coreOf t c).run = false
          ∧ ∃ e, t.events = s.events ++ [e] ∧ e.code = 0x5020#16)))
    ∧ (engAt s c 2 0x31 i = true → coreLevel s c ≠ 2 → readable s c (wC w) 8 = true → scaleOk (f32At s c (8 * wC w)) = true →
      readable s c (wA w) (2048 * wN w) = true → let fmt := if wMod w = 1 then 3 else 0
      inSpad (wD w) (unitBytes fmt * wN w) = true →
      apart (8 * wA w) (2048 * wN w) (8 * wD w) (unitBytes fmt * wN w) = true →
      completes (.qent c) s c 2 0x31 i (fun t =>
        (∀ u, u < wN w → let r := (encodeUnit fmt (f32At s c (8 * wC w)) (spadF32 s c (8 * wA w + 2048 * u) 512)).1
          spadRead t c (8 * wD w + u * unitBytes fmt) r.length = r)
        ∧ sameOutside (coreOf s c).spad (coreOf t c).spad (8 * wD w) (unitBytes fmt * wN w)
        ∧ (∀ k, k ≠ c.val → coreOf t k = coreOf s k) ∧ t = { s with cores := t.cores }))

/-- RAND.C, RAND.H and TREAD (R207): N words of the generator, N words of entropy (free values), LOCAL_TIME of the cluster's
control core; only the bytes of the result's granules change. REDUCE.U (R207): with every slot's semaphore at 1 or more, D takes
the sum of the slots, from +0.0 on and lowest slot first, each element with rne32, and the command is complete; the slots'
semaphores keep their counts. With none ready it waits with D at +0.0 and nothing else changed; a last semaphore above 31 is DESC.
Model's choices: log entry 14. -/
def Obligations.GeneratorTimeAndSlotSums : Prop :=
  (∀ (c : CoreId) (s : State) (i : Issued), let w := i.word.toNat; let n := wN w
    (engAt s c 2 0xA0 i = true → readable s c (wC w) 16 = true → inSpad (wD w) (4 * n) = true →
      completes (.randC c) s c 2 0xA0 i (fun t => wroteSpad s t c (8 * wD w) (8 * ceilDiv n 2)
        ∧ ∀ j, j < n → leNat (spadRead t c (8 * wD w + 4 * j) 4)
            = (philox (BitVec.ofNat 64 (leNat (spadRead s c (8 * wC w) 8))) 0x05000000#32
                (BitVec.ofNat 32 (leNat (spadRead s c (8 * wC w + 8) 2))) (BitVec.ofNat 64 j)).toNat))
    ∧ (engAt s c 2 0xA1 i = true → inSpad (wD w) (4 * n) = true →
      completes (.randH c) s c 2 0xA1 i (fun t => wroteSpad s t c (8 * wD w) (8 * ceilDiv n 2)))
    ∧ (engAt s c 4 0xA2 i = true → inSpad (wA w) 8 = true →
      completes (.tread c) s c 4 0xA2 i (fun t => wroteSpad s t c (8 * wA w) 8
        ∧ leNat (spadRead t c (8 * wA w) 8) = localTime s (clusterOf c) % 2 ^ 64)))
  ∧ (∀ (c : CoreId) (s : State) (i : Issued), let w := i.word.toNat; let n := wN w; let first := wMod w % 32; let slots := wMod w / 32 + 1
    engAt s c 2 0xA3 i = true →
    (first + slots ≤ 32 → inSpad (wA w) (8 * ceilDiv n 2 * slots) = true → inSpad (wD w) (4 * n) = true →
      (coreOf s c).reduceDone = none →
      ((∀ k, k < slots → semOf s c (first + k) = 0) →
        answers (.reduceU c) s (fun t => wroteSpad (updCore s c (fun v => { v with reduceDone := some [] })) t c (8 * wD w) (8 * ceilDiv n 2)
          ∧ ∀ j, j < n → f32At t c (8 * wD w + 4 * j) = 0#32))
      ∧ ((∀ k, k < slots → 1 ≤ semOf s c (first + k) ∧ readable s c (wA w + k * ceilDiv n 2) (4 * n) = true) →
          apart (8 * wA w) (8 * ceilDiv n 2 * slots) (8 * wD w) (8 * ceilDiv n 2) = true →
          completes (.reduceU c) s c 2 0xA3 i (fun t => wroteSpad s t c (8 * wD w) (8 * ceilDiv n 2)
            ∧ ∀ j, j < n → f32At t c (8 * wD w + 4 * j)
                = (List.range slots).foldl (fun acc k => add32 acc (f32At s c (8 * (wA w + k * ceilDiv n 2) + 4 * j))) 0#32)))
    ∧ (32 < first + slots → exec (.reduceU c) s = .next (failCommand s c 2 i.index.toNat 0x26 0xA3 6)))

/-- GATE and XACC (R200, R201): GATE leaves, for every token, the record of its chosen experts and, over all tokens, the union
table; XACC adds, for each token of the cursor's bitmap that chose the cursor's expert, weight times output to its accumulator. -/
def Obligations.ExpertsChosenAndAccumulated : Prop :=
  ∀ (c : CoreId) (s : State) (i : Issued), let w := i.word.toNat
    (engAt s c 2 0x60 i = true → descOk s c (wA w) 32 125 = true →
      let d := descAt s c (wA w) 32; let toks := gdTokens d
      1 ≤ gdNr d → gdNr d ≤ 1024 → gdNp d ≤ 32 → 1 ≤ toks → toks ≤ 256 → 1 ≤ gdKr d → gdKr d + gdKp d ≤ 15 → gdNorm d ≠ 3 →
      readable s c (gdScores d) (8 * gdPitch d * (toks - 1) + 4 * (gdNr d + gdNp d)) = true →
      readable s c (gdVariants d) toks = true →
      let choice := fun (k : Nat) => gateToken d (spadF32 s c (8 * (gdScores d + k * gdPitch d)) (gdNr d + gdNp d))
        (leNat (spadRead s c (8 * gdVariants d + k) 1))
      let u := gateUnion ((List.range toks).map choice)
      inSpad (gdRec d) (128 * toks) = true → inSpad (gdUnion d) u.length = true →
      apart (8 * gdRec d) (128 * toks) (8 * gdUnion d) u.length = true →
      completes (.gate c) s c 2 0x60 i (fun t =>
        (∀ k, k < toks → spadRead t c (8 * gdRec d + 128 * k) (gateRecord (choice k)).length = gateRecord (choice k))
        ∧ spadRead t c (8 * gdUnion d) u.length = u
        ∧ (∀ k, k ≠ c.val → coreOf t k = coreOf s k) ∧ t = { s with cores := t.cores }
        ∧ coreOf t c = { coreOf s c with spad := (coreOf t c).spad }
        ∧ ∀ a, (a < 8 * gdRec d ∨ 8 * gdRec d + 128 * toks ≤ a) → (a < 8 * gdUnion d ∨ 8 * gdUnion d + u.length ≤ a) →
            memByte (coreOf t c).spad a = memByte (coreOf s c).spad a))
    ∧ (∀ m, engAt s c 2 0x64 i = true → cursorOk s c i.xcur.toNat = true →
      let x := (cursorAt s c i.xcur.toNat).1; let bits := (cursorAt s c i.xcur.toNat).2; bits < 2 ^ m →
      let n := wN w; let row := 8 * ceilDiv n 2
      readable s c (wB w) (128 * m) = true → readable s c (wA w) (row * m) = true → readable s c (wD w) (row * m) = true →
      apart (8 * wA w) (row * m) (8 * wD w) (row * m) = true →
      completes (.xacc c) s c 2 0x64 i (fun t => wroteSpad s t c (8 * wD w) (row * m)
        ∧ ∀ k, k < 256 → ∀ j, j < n →
            let old := f32At s c (8 * wD w + row * k + 4 * j)
            f32At t c (8 * wD w + row * k + 4 * j)
              = match (if bitOf bits k then recordWeight (spadRead s c (8 * wB w + 128 * k) 128) x else none) with
                | some g => add32 old (mul32 g (f32At s c (8 * wA w + row * k + 4 * j)))
                | none => old))

/-- SAMPLE.K, SAMPLE.M and SAMPLE.D (R203, R204, R279, R304): the candidates kept of a slice after the mask of the draw's index,
the penalties with the proposals before it counted, and temperature; the top N of two lists; and the token drawn from a list with
its probability. Only the result's bytes change. STOPCHK (R205, R284): D takes the stop code of the token drawn. A token of the
vocabulary among the stop tokens has code 1 whatever else holds. Model's choices: log entries 13, 36. -/
def Obligations.SamplingDrawsAndStops : Prop :=
  (∀ (c : CoreId) (s : State) (i : Issued), let w := i.word.toNat
    (engAt s c 2 0x80 i = true → readable s c (wA w) (4 * wN w) = true → readable s c (wB w) 64 = true → readable s c (wC w) 8 = true →
      let rec_ := spadRead s c (8 * wB w) 64; let q := reqOf s (srSlot rec_)
      1 ≤ srTopK rec_ → srTopK rec_ ≤ 1024 →
      let l := sampleK rec_ (q.bind (fun r => maskAt r (srPosition rec_)))
        (fun id => match q with | some r => countAt r (srPosition rec_) id | none => 0) (leNat (spadRead s c (8 * wC w) 8) % 2 ^ 18)
        ((List.range (wN w)).map (fun j => f32At s c (8 * wA w + 4 * j)))
      inSpad (wD w) (8 + 8 * l.length) = true →
      completes (.sampleK c) s c 2 0x80 i (fun t => wroteSpad s t c (8 * wD w) (8 + 8 * l.length)
        ∧ spadRead t c (8 * wD w) (8 + 8 * l.length) = candBytes l))
    ∧ (engAt s c 2 0x81 i = true → wN w ≤ 1024 →
      let na := leNat (spadRead s c (8 * wA w) 8) % 2 ^ 11; let nb := leNat (spadRead s c (8 * wB w) 8) % 2 ^ 11
      na ≤ 1024 → nb ≤ 1024 → readable s c (wA w) (8 + 8 * na) = true → readable s c (wB w) (8 + 8 * nb) = true →
      let l := topK (wN w) (candList na (spadRead s c (8 * wA w + 8) (8 * na)) ++ candList nb (spadRead s c (8 * wB w + 8) (8 * nb)))
      inSpad (wD w) (8 + 8 * l.length) = true →
      completes (.sampleM c) s c 2 0x81 i (fun t => wroteSpad s t c (8 * wD w) (8 + 8 * l.length)
        ∧ spadRead t c (8 * wD w) (8 + 8 * l.length) = candBytes l))
    ∧ (engAt s c 2 0x82 i = true → let na := leNat (spadRead s c (8 * wA w) 8) % 2 ^ 11
      na ≤ 1024 → readable s c (wA w) (8 + 8 * na) = true → readable s c (wB w) 64 = true → inSpad (wD w) 32 = true →
      let rec_ := spadRead s c (8 * wB w) 64
      completes (.sampleD c) s c 2 0x82 i (fun t => wroteSpad s t c (8 * wD w) 32
        ∧ ∀ r, drawToken (srTemp rec_) (srTopP rec_) (srMinP rec_) (drawWord rec_)
            (candList na (spadRead s c (8 * wA w + 8) (8 * na))) = some r →
            spadRead t c (8 * wD w) 32 = drawResult r.1 r.2 rec_)))
  ∧ ((∀ (c : CoreId) (s : State) (i : Issued), let w := i.word.toNat
    engAt s c 2 0x83 i = true → readable s c (wA w) 32 = true → readable s c (wB w) 576 = true → inSpad (wD w) 8 = true →
    let res := spadRead s c (8 * wA w) 32
    completes (.stopchk c) s c 2 0x83 i (fun t => wroteSpad s t c (8 * wD w) 8
      ∧ spadRead t c (8 * wD w) 8 = leBytes 8 (stopCode (spadRead s c (8 * wB w) 576)
          (match reqOf s (leAt res 16 4) with
            | some r => genTokens r ++ proposed r (drawAhead r (leAt res 8 8)) | none => []) (leAt res 0 4 % 2 ^ 18) (leAt res 8 8))))
  ∧ ∀ (stop : Bytes) (gen : List Nat) (id q k : Nat), k < 8 → leAt stop (4 * k) 4 = id → id ≠ 0xFFFFFFFF → id ≠ 0x3FFFF →
      stopCode stop gen id q = 1)

/-- SEND, MCAST, REDUCE, INL and COMMIT (R135, R157, R183, R202, R205): while the local buffer takes them, packets join it in
address order, 1,024 B or what is left in each (in each to a vault what is left of its 256 B span, log entry 122), with the
command's address, channel, token and tree in their heads. A REDUCE holds while a sampled tile of its core has not been compared
(R100). READ and SIGNAL.R (R118, R129, R132, R135, R202): a READ sends READ_REQ packets on VC0, each for the bytes up to the end
of a 256 B span, and stays at the head of its queue until its data have landed; of its own cluster's vault it takes the bytes at
once. SIGNAL.R sends its SIGNAL message once no earlier transfer of the TEQ is under way, and holds before that. Model's choices:
log entries 8, 41, 119, 122. -/
def Obligations.TransfersAndRemoteSignals : Prop :=
  (∀ (c : CoreId) (s : State) (i : Issued), let w := i.word.toNat; let n := 8 * gN w; let vc := wMod w % 4; let a := gAddr w
    let part := fun (at_ : Nat) => min 1024 (n - at_)
    let span := fun (at_ : Nat) => if aSpace a = 1 then min (256 - (aOff a + at_) % 256) (n - at_) else part at_
    (engAt s c 4 0x70 i = true → sourceError a 1 vc (coreLevel s c == 2) = none → clusterVault c a = false →
      readable s c (wA w) n = true → transferReady s c vc 1 0x70 n = true →
      transfers (.send c) s c vc 0x70 n span (fun tid at_ => dataPacket s c 1 (a + at_) (8 * wA w + at_) (span at_)
        (ctdToken w n (at_ + span at_)) (wCtsem w) tid 0))
    ∧ (engAt s c 4 0x72 i = true → (vc = 1 ∨ vc = 2) → readable s c (wA w) n = true → transferReady s c vc 4 0x72 n = true →
      transfers (.mcast c) s c vc 0x72 n part (fun tid at_ => dataPacket s c 4 (a + at_) (8 * wA w + at_) (part at_)
        (ctdToken w n (at_ + part at_)) (wCtsem w) tid (wMod w / 4)))
    ∧ (engAt s c 4 0x73 i = true → (vc = 1 ∨ vc = 2) → (coreOf s c).dupTile = none →
      sourceError a 5 vc (coreLevel s c == 2) = none → gN w % 8 = 0 →
      readable s c (wA w) n = true → transferReady s c vc 5 0x73 n = true →
      transfers (.reduce c) s c vc 0x73 n part (fun tid at_ => dataPacket s c 5 (a + at_) (8 * wA w + at_) (part at_)
        (ctdToken w n (at_ + part at_)) (wCtsem w) tid (wMod w / 4)))
    ∧ (engAt s c 4 0x73 i = true → (vc = 1 ∨ vc = 2) → (coreOf s c).dupTile.isSome = true → leaves (.reduce c) s)
    ∧ (engAt s c 4 0x75 i = true → coreLevel s c = 2 → gN w ≤ 8 → sourceError a 6 3 true = none →
      readable s c (wA w) n = true → transferReady s c 3 6 0x75 1 = true →
      transfers (.inl c) s c 3 0x75 1 (fun _ => 1) (fun tid _ => dataPacket s c 6 a (8 * wA w) n (wCtv w && wCtd w) (wCtsem w) tid 0))
    ∧ (engAt s c 4 0x84 i = true → gN w = 4 → sourceError a 1 0 (coreLevel s c == 2) = none → readable s c (wA w) 32 = true →
      transferReady s c 0 1 0x84 32 = true →
      transfers (.commit c) s c 0 0x84 32 (fun _ => 32) (fun tid _ => dataPacket s c 1 a (8 * wA w) 32 false 0 tid 0)))
  ∧ (∀ (c : CoreId) (s : State) (i : Issued), let w := i.word.toNat; let n := 8 * gN w; let a := gAddr w
    let span := fun (at_ : Nat) => min (256 - (aOff a + at_) % 256) (n - at_)
    (engAt s c 4 0x71 i = true → sourceError a 2 0 (coreLevel s c == 2) = none → clusterVault c a = false → inSpad (wA w) n = true →
      transferReady s c 0 2 0x71 n = true →
      transfers (.read c) s c 0 0x71 n span (fun tid at_ =>
        Packet.mk (mkHead (a + at_) 2 (coreSrc c) 0 false 0 tid (span at_ / 8 - 1) 0) [] []))
    ∧ (engAt s c 4 0x71 i = true → sourceError a 2 0 (coreLevel s c == 2) = none → clusterVault c a = true →
      destError a n false = none → inSpad (wA w) n = true → memPoisoned (clOf s (clusterOf c)).vault (aOff a) n = false →
      completes (.read c) s c 4 0x71 i (fun t => wroteSpad s t c (8 * wA w) n
        ∧ spadRead t c (8 * wA w) n = vaultRead s (clusterOf c) (aOff a) n))
    ∧ (engAt s c 4 0x74 i = true → (coreOf s c).te = [] → bitsOf w 63 57 < 80 →
      completes (.signalR c) s c 4 0x74 i (fun t => t = { s with ctrl := s.ctrl ++ [{ words := [
        msgHeader 1 (bitsOf w 63 57) (bitsOf w 56 53) (bitsOf w 52 49) false 2 false false (bitsOf w 95 91),
        coreSource c i.index.toNat, BitVec.ofNat 32 (bitsOf w 79 64)] }] }))
    ∧ (engAt s c 4 0x74 i = true → (coreOf s c).te ≠ [] → leaves (.signalR c) s))

/-- PLATE.FOLD (R206, R384): a core that the layout lets feed channel 1 adds its bytes to its cluster's absorber; a core of
channel 0 extends the chain of the record's request by a token not yet folded, and reads the new chain value after its N granules.
A core that the layout does not name is DESC. Model's choices: log entry 44. -/
def Obligations.PlateFolds : Prop :=
  ∀ (c : CoreId) (s : State) (i : Issued), let w := i.word.toNat; let ch := wMod w % 2; let b := spadRead s c (8 * wA w) (8 * wN w)
    engAt s c 4 0x90 i = true →
    (mayFold s c ch = true → ch = 1 → readable s c (wA w) (8 * wN w) = true →
      completes (.plateFold c) s c 4 0x90 i (fun t => onlyCluster s t (clusterOf c)
        ∧ clOf t (clusterOf c) = { clOf s (clusterOf c) with absorb1 := (clOf s (clusterOf c)).absorb1 ++ b }))
    ∧ (∀ r, mayFold s c ch = true → ch = 0 → wN w ≠ 0 → readable s c (wA w) (8 * wN w) = true → inSpad (wA w + wN w) 32 = true →
      reqOf s (leAt b 4 4) = some r → reqFinal r = false → r.folded ≤ leAt b 0x0C 4 →
      completes (.plateFold c) s c 4 0x90 i (fun t =>
        let chain := sha256 (r.chain ++ (sliceB b 0 4 ++ zeros 4 ++ b.drop 8))
        reqOf t (leAt b 4 4) = some { r with chain := chain, folded := r.folded + 1 }
        ∧ spadRead t c (8 * (wA w + wN w)) 32 = chain
        ∧ sameOutside (coreOf s c).spad (coreOf t c).spad (8 * (wA w + wN w)) 32
        ∧ t = { s with cores := t.cores, reqs := t.reqs }
        ∧ (∀ h, h ≠ leAt b 4 4 → reqOf t h = reqOf s h) ∧ ∀ d, d ≠ c.val → coreOf t d = coreOf s d))
    ∧ (mayFold s c ch = false → exec (.plateFold c) s = .next (failCommand s c 4 i.index.toNat 0x26 0x90 0))

/-! ## The attention sweep -/

/-- SWEEP and HUB_SWEEP_TAKE (R199, R249, R252, R253): with all 8 inbox slots in use a SWEEP holds; with a free slot, and room in
the local buffer, its queries, entries, lengths and handles go to that slot of the hub in VC2 WRITE packets of up to 1,024 B, and
the slot is the sweep's from the first one on. The hub takes the first sweep that has arrived whole, with the smallest reach that
holds its longest token, and multicasts the slot on the spread tree of that reach as far as its buffer takes the packets.
SWEEP_SERVICE (R254, R255, R258): a core that has received a sweep, holds a grant for it and has no command of its VEQ ready
writes the new entries whose pages it holds before its first contribution, and sends the contributions in token-major then head
order, each in two REDUCE packets on the gather tree, as far as the local buffer takes them; after the last one the sweep waits
for it no more. Without a grant, or with the VE in use, it only asks for grants. SWEEP_RESULT (R257): once the gather of a sweep
is complete, the hub sends the result of each token and head (numerator over denominator times s_k, zeros for a pad token) to RDST
of the issuing core in VC2 WRITE packets, as far as its local buffer takes them; the last packet carries the SWEEP's token.
Model's choices: log entries 24, 134, 141. -/
def Obligations.SweepsReachTheHubAndReturn : Prop :=
  ((∀ (c : CoreId) (s : State) (i : Issued) (p : Nat) (j : Job) (e : SweepDesc × (Nat × Nat → Nat)), let w := i.word.toNat
    let d := descAt s c (wA w) 32; let n := sdTokens d; let units := n * sdHeads d; let draft := draftTree j (sdTree d)
    let qs := units * 544 + n * entryBytes (cacheFmt e.1); let ls := 8 * ceilDiv n 2 + 8 * n; let size := qs + ls
    engAt s c 4 0x50 i = true → coreLevel s c ≠ 2 → descOk s c (wA w) 32 173 = true →
    runJobAt s c = some (p, j) → sweepSection s p j draft = some e →
    sdTree d ≤ 56 → 1 ≤ sdHeads d → sdHeads d ≤ 64 → 1 ≤ n → n ≤ 256 →
    readable s c (sdQaddr d) qs = true → readable s c (sdLens d) ls = true → inSpad (sdRdst d) (units * 2048) = true →
    (openSweep s c j = none → freeInbox j draft = none → leaves (.sweep c) s)
    ∧ (∀ slot, (match openSweep s c j with | some v => v.slot.map Fin.val | none => freeInbox j draft) = some slot →
        (underWay s c 0x50).isSome = (openSweep s c j).isSome → transferReady s c 2 1 0x50 size = true →
        let b := spadRead s c (8 * sdQaddr d) qs ++ spadRead s c (8 * sdLens d) ls
        let base := spadAddr (hubCore e) (e.1.inboxOff + slot * e.1.slotBytes)
        ∃ t hs pos, exec (.sweep c) s = .next t ∧ hs ≠ [] ∧ t.mesh = s.mesh ++ hs
          ∧ sendsFrom c 2 (fun at_ => min 1024 (size - at_))
              (fun at_ => bytesPacket c 1 (base + at_) (sliceB b at_ (min 1024 (size - at_))) [] none (sendTid s c 0x50) 0)
              (sendPos s c 0x50) hs pos
          ∧ (coreOf t c).teq = (if size ≤ pos then (coreOf s c).teq.drop 1 else (coreOf s c).teq) ∧ memoriesKept s t
          ∧ ∃ j', jobOf t p = some j' ∧ j'.sweeps
              = (if (openSweep s c j).isSome then j.sweeps else j.sweeps ++ [newSweep s c i w d size slot draft])))
  ∧ ∀ (p : PartId) (s : State) (j : Job) (e : SweepDesc × (Nat × Nat → Nat)) (w : SweepRun),
      jobOf s p = some j → hubNext j = some w → sweepSection s p j w.draft = some e → coreOn s (hubCore e) = true →
      let w0 := if w.taken then w else takeSweep s e w; let a := e.1.inboxOff + ((w.slot.map Fin.val).getD 0) * e.1.slotBytes
      let part := fun (at_ : Nat) => min 1024 (w0.size - at_)
      answers (.hubSweepTake p) s (fun t => ∃ j' v hs, jobOf t p = some j' ∧ j'.sweeps.length = j.sweeps.length ∧ v ∈ j'.sweeps
        ∧ v = { w0 with mcSent := v.mcSent } ∧ t.mesh = s.mesh ++ hs
        ∧ sendsFrom (hubCore e) 2 part
            (fun at_ => bytesPacket (hubCore e) 4 (spadAddr (hubCore e) (a + at_)) (spadRead s (hubCore e) (a + at_) (part at_))
              (spadPoisonIn s (hubCore e) (a + at_) (part at_)) none w0.mcTid.toNat (w0.tree + 2 * w0.reach)) w0.mcSent hs v.mcSent
        ∧ memoriesKept s t))
  ∧ (∀ (c : CoreId) (s : State) (p : Nat) (j : Job) (x : SweepDesc × (Nat × Nat → Nat)) (w : SweepRun),
    runJobAt s c = some (p, j) → (sweepsToServe s c).head? = some w → sweepSection s p j w.draft = some x → coreOn s c = true →
    ((coreGranted (coreRequests s c 1) c 1 = false ∨ veReady s c = true) →
      answers (.sweepService c) s (fun t => memoriesKept s t ∧ t.parts = s.parts ∧ t.mesh = s.mesh))
    ∧ (coreGranted (coreRequests s c 1) c 1 = true → veReady s c = false →
      let s1 := if (lookupN w.sent c).isSome then s else writeEntries s x.1 x.2 c w; let k0 := getN 0 w.sent c
      let u := fun (k : Nat) => contribution s1 x.1 x.2 c w (k / 2 / w.heads) (k / 2 % w.heads)
      let b := fun (k : Nat) => sliceB (contribValues (u k)) (1024 * (k % 2)) 1024
      let pkt := fun (k : Nat) => bytesPacket c 5 (spadAddr (hubCore x) x.1.inboxOff) (b k)
        (if w.poisoned || (u k).bad then List.range ((b k).length / 8) else []) none
        ((coreOf s c).nextTid + BitVec.ofNat 16 (k / 2 - k0 / 2)).toNat (w.tree + 2 * w.reach + 1)
      answers (.sweepService c) s (fun t => ∃ j' v hs, jobOf t p = some j' ∧ v ∈ j'.sweeps ∧ t.mesh = s.mesh ++ hs
        ∧ sendsFrom c 2 (fun _ => 1) pkt k0 hs (getN 0 v.sent c)
        ∧ v.waiting = (if 2 * (w.tokens * w.heads) ≤ getN 0 v.sent c then w.waiting.filter (· != c.val) else w.waiting)
        ∧ (∀ k, (clOf t k).vault = (clOf s1 k).vault) ∧ ∀ k, (coreOf t k).spad = (coreOf s k).spad)))
  ∧ (∀ (p : PartId) (s : State) (j : Job) (e : SweepDesc × (Nat × Nat → Nat)) (w : SweepRun),
    jobOf s p = some j → resultNext j = some w → sweepSection s p j w.draft = some e → coreOn s (hubCore e) = true →
    let hub := hubCore e; let size := 2048 * (w.tokens * w.heads); let part := fun (at_ : Nat) => min 1024 (size - at_)
    let sk := lrSk (layerRecord s hub e.1 w.layer); let tid := w.resTid.getD (coreOf s hub).nextTid
    let result := fun (n : Nat) => if realToken w (n / w.heads) then sweepResult sk (gatherOf w n).1 else List.replicate 512 0#32
    answers (.sweepResult p) s (fun t => ∃ j' v hs, jobOf t p = some j' ∧ v ∈ j'.sweeps
      ∧ v = { w with resTid := some tid, resSent := v.resSent } ∧ t.mesh = s.mesh ++ hs
      ∧ sendsFrom hub 2 part (fun at_ => bytesPacket hub 1 (spadAddr w.owner.val (8 * w.rdst + at_))
          (sliceB (f32Bytes (result (at_ / 2048))) (at_ % 2048) (part at_))
          (if (gatherOf w (at_ / 2048)).2 then List.range (part at_ / 8) else [])
          (if at_ + part at_ = size then w.token.map Fin.val else none) tid.toNat 0) w.resSent hs v.resSent
      ∧ memoriesKept s t))

/-! ## The data mesh -/

/-- PACKET_ROUTE (R152, R156, R159, R163, R166): the flits that stand ready of a packet at the head of its input buffer join the
input buffer behind the output of dimension order once that output's choice falls on it; else it stays. A packet that the boundary
rule or a down link stops is answered ERR with the code. No memory changes. An output's choice is the ready packet of the highest
of VC3, VC1, VC2, VC0, but VC0's where VC0 has not been served for 15 FCLK. Model's choices: log entries 8, 120, 153. -/
def Obligations.PacketsHop : Prop :=
  (∀ (r : RouterId) (inPort : PortIx) (vc : Vc) (pkt : Packet) (ecc : EccObs) (h : Hop) (s : State), let p := routePort r (destRouter s (pHead pkt))
    let b := bufOf vc (hOp (pHead pkt)); let n := quota s h
    pktOk pkt = true → headHop s r inPort vc pkt = some h → h.drop = false → hOp (pHead pkt) ≠ 4 → hOp (pHead pkt) ≠ 5 → p ≠ 0 →
    ecc.ue = [] →
    (∀ e, portStop s r inPort p vc (pHead pkt) = none → wins s h = true → linkEnd r p = some e → h.gone = 0 → noRefill s h →
      answers (.packetRoute r inPort vc pkt ecc) s (fun t =>
        t.mesh = (if flitsOf pkt ≤ n then s.mesh.erase h else s.mesh.replace h { h with here := h.here - n, gone := n })
          ++ [Hop.mk e.1 e.2 vc pkt n 0 false]
        ∧ getN 0 (routerOf t r).creditsUsed (5 * p + b) = getN 0 (routerOf s r).creditsUsed (5 * p + b) + n ∧ memoriesKept s t))
    ∧ (portStop s r inPort p vc (pHead pkt) = none → wins s h = false →
      answers (.packetRoute r inPort vc pkt ecc) s (fun t => t.mesh = s.mesh ∧ memoriesKept s t))
    ∧ (∀ e, portStop s r inPort p vc (pHead pkt) = some e →
      answers (.packetRoute r inPort vc pkt ecc) s (fun t => memoriesKept s t
        ∧ ∃ m, t.ctrl = s.ctrl ++ [m] ∧ mType m = 3 ∧ mArg m = e.2)))
  ∧ ∀ (s : State) (r p : Nat),
    (∀ h, channelPick s r p 0 = some h → floorDue s r p = true → outPick s r p = some h)
    ∧ (floorDue s r p = false ∨ channelPick s r p 0 = none →
        (∀ h, channelPick s r p 3 = some h → outPick s r p = some h)
        ∧ (∀ h, channelPick s r p 3 = none → channelPick s r p 1 = some h → outPick s r p = some h)
        ∧ (∀ h, channelPick s r p 3 = none → channelPick s r p 1 = none → channelPick s r p 2 = some h → outPick s r p = some h))
    ∧ (∀ h, channelPick s r p 3 = none → channelPick s r p 1 = none → channelPick s r p 2 = none → channelPick s r p 0 = some h →
        outPick s r p = some h)

/-- WRITE and INLINE (R128, R157, R158, R234): an arrived packet leaves the mesh and its granules stand in the memory that its
address names, those of its last flit that BMASK enables; no other byte of any core, vault or control core changes (a COMMIT's
WRITE apart, which is also a commit point). -/
def Obligations.PacketsLand : Prop :=
  ∀ (r : RouterId) (vc : Vc) (pkt : Packet) (h : Hop) (m : MeshMem) (cap : Nat) (s : State), let x := pHead pkt
    meshMem (hAddr x) = some (m, cap) → pkt.poison = [] → roomySems s → noRefill s h →
    (landsAt s r vc 1 (extentOf (bodyGranules pkt)) true pkt h → commitSource s pkt = none →
      answers (.write r vc pkt) s (fun t => t.mesh = s.mesh.erase h
        ∧ landedIn s t m (aOff (hAddr x)) pkt.body (bodyGranules pkt)))
    ∧ (landsAt s r vc 6 (64 * hNbody x) true pkt h →
      answers (.inline r vc pkt) s (fun t => t.mesh = s.mesh.erase h
        ∧ landedIn s t m (aOff (hAddr x)) pkt.body (if hMask x = 0 then List.range (8 * hNbody x) else bodyGranules pkt)))

/-- READ_REQ and READ_RSP (R118, R157, R158, R202): a read is answered with a READ_RSP on VC0 that carries the bytes, the
request's TID and offset, back to the source; a response's bytes stand at the place of the requester's scratchpad that its READ
named, and the READ leaves its queue with the last of them. MCAST_FORWARD and ACK_TOKEN (R161, R162): a multicast packet goes on
to every OUT port of its entry at once, and into the local scratchpad where OUT names the local port (the packets of a hub's sweep
go to the core's sweep service); the entry then waits for those ports. A token takes its port off the entry; the last one sends a
token on toward the input, partial if any was, and at the root the command's transfer ends. Model's choices: log entries 40, 43,
153. -/
def Obligations.ReadsAreAnsweredAndMulticastsSpread : Prop :=
  (∀ (r : RouterId) (vc : Vc) (pkt : Packet) (h : Hop) (s : State), let x := pHead pkt; let a := hAddr x; let src := hSrc x
    noRefill s h →
    (∀ m cap, meshMem a = some (m, cap) → landsAt s r vc 2 (readBytes pkt) true pkt h →
      memPoisoned (memOf s m) (aOff a) (readBytes pkt) = false →
      let rsp := Packet.mk
        (mkHead (mkAddr (srcDie src) 0 (srcCluster src) (srcCore src) (aOff a)) 3 (aDie a * 256 + aCluster a * 16 + aCore a)
          (ceilDiv (readBytes pkt) 64) false 0 (hTid x) 0 0)
        (padTo (64 * ceilDiv (readBytes pkt) 64) (memRead (memOf s m) (aOff a) (readBytes pkt))) []
      answers (.readReq r vc pkt) s (fun t => memoriesKept s t
        ∧ t.mesh = s.mesh.erase h ++ [Hop.mk r 0 0 rsp (min (flitsOf rsp) (roomIn s r 0 1)) 0 false]))
    ∧ (∀ e, let c := addrCore a; let n := min (min (64 * hNbody x) (e.src + e.size - aOff a)) (256 - aOff a % 256)
      pktOk pkt = true → hOp x = 3 → arrived s r vc pkt = some h → h.drop = false → portStop s r h.port 0 vc x = none →
      wins s h = true → flitsOf pkt ≤ h.gone + quota s h → aDie a < 64 → roomySems s →
      (coreOf s c).te.find? (fun u => u.tid.toNat == hTid x && u.opc == 0x71#8) = some e → pkt.poison = [] → e.src ≤ aOff a →
      (coreOf s c).te.find? (fun u => u.tid.toNat == hTid x) = some e →
      answers (.readRsp r vc pkt) s (fun t => t.mesh = s.mesh.erase h
        ∧ spadRead t c (e.dst + (aOff a - e.src)) n = pkt.body.take n
        ∧ sameOutside (coreOf s c).spad (coreOf t c).spad (e.dst + (aOff a - e.src)) n
        ∧ (n < e.remaining → (coreOf t c).teq = (coreOf s c).teq)
        ∧ (e.remaining ≤ n → (coreOf t c).teq = (coreOf s c).teq.drop 1)
        ∧ (∀ d, d ≠ c → (coreOf t d).spad = (coreOf s d).spad) ∧ ∀ k, (clOf t k).vault = (clOf s k).vault)))
  ∧ ((∀ (r : RouterId) (inPort : PortIx) (vc : Vc) (pkt : Packet) (h : Hop) (s : State) (e : Nat → Nat × Nat),
    let x := pHead pkt; let v := mcEntry s r (hTree x); let ups := (mcOut v).filter (· ≠ 0); let gs := bodyGranules pkt
    pktOk pkt = true → hOp x = 4 → headHop s r inPort vc pkt = some h → h.drop = false → h.gone = 0 → noRefill s h →
    bitOf v 31 = true → bitOf v 30 = false → inPort.val ∈ mcIn v → mcOut v ≠ [] →
    pkt.poison = [] → roomySems s → (∀ p ∈ mcOut v, portStop s r inPort p vc x = none) → (∀ p ∈ ups, linkEnd r p = some (e p)) →
    wins s h = true → flitsOf pkt ≤ quota s h →
    (0 ∈ mcOut v → r.val < 16384 ∧ destError (treeAddr r x) (extentOf gs) false = none) → (ups = [] → inPort.val ≠ 0) →
    answers (.mcastForward r inPort vc pkt) s (fun t =>
      t.mesh = s.mesh.erase h ++ ups.map (fun p => Hop.mk (e p).1 (e p).2 vc pkt (quota s h) 0 false)
      ∧ (0 ∈ mcOut v → match sweepReceived s r (hSrc x) (hTid x) (8 * gs.length) with
          | none => wroteGranules (coreOf s r).spad (coreOf t r).spad (aOff (hAddr x)) pkt.body gs
          | some u => (coreOf t r).spad = (coreOf s r).spad ∧ t.parts = u.parts)
      ∧ (0 ∉ mcOut v → (coreOf t r).spad = (coreOf s r).spad)
      ∧ (∀ d, d ≠ r.val → (coreOf t d).spad = (coreOf s d).spad) ∧ (∀ k, (clOf t k).vault = (clOf s k).vault)
      ∧ (ups = [] → ∀ f, linkEnd r inPort = some f → t.acks = s.acks ++ [AckTok.mk f.1 f.2 (hTree x) false])
      ∧ (ups ≠ [] → AckWait.mk (hTree x) inPort ups false pkt.head ∈ (routerOf t r).ackWait)))
  ∧ ∀ (r : RouterId) (port : PortIx) (tree : Fin 64) (b : Bool) (s : State) (w : AckWait),
      AckTok.mk r port tree b ∈ s.acks →
      (routerOf s r).ackWait.find? (fun w => w.tree == tree.val && w.waiting.contains port.val) = some w →
      (w.waiting.erase port ≠ [] → answers (.ackToken r port tree b) s (fun t => t.acks = s.acks.erase (AckTok.mk r port tree b)
        ∧ AckWait.mk w.tree w.inPort (w.waiting.erase port) (w.partialSt || b) w.head ∈ (routerOf t r).ackWait
        ∧ memoriesKept s t))
      ∧ (∀ f, w.waiting.erase port = [] → w.inPort ≠ 0 → linkEnd r w.inPort = some f →
        answers (.ackToken r port tree b) s (fun t =>
          t.acks = s.acks.erase (AckTok.mk r port tree b) ++ [AckTok.mk f.1 f.2 tree (w.partialSt || b)]
          ∧ (routerOf t r).ackWait = (routerOf s r).ackWait.erase w ∧ memoriesKept s t))
      ∧ (∀ x, r.val < 16384 → w.waiting.erase port = [] → w.inPort = 0 → w.partialSt = false → b = false → roomySems s →
        (coreOf s r).te.find? (fun u => u.tid.toNat == hTid w.head.toNat) = some x → x.remaining ≤ 1 →
        answers (.ackToken r port tree b) s (fun t => (coreOf t r).te = (coreOf s r).te.erase x ∧ memoriesKept s t)))

/-- REDUCE_COMBINE (R153, R164, R165, R202): once every IN port of a reducing entry has its next packet, all of one length and
channel, whole at the head of its buffer, and the output's choice falls on them, they leave their buffers and their element-wise
sum, in ascending port order, goes out on OUT, or at the root lands in the core's scratchpad, or joins the sums of the hub's sweep
(R257). LINK_RESYNC (R155, R355): after a word with an uncorrectable error, or one that counts as such, both senders of the link
count as used the flits that stand behind them, and event 0x3031 is raised; the flit of the word's FCLK, if any, is lost, no other
packet and no memory changes. Any other word changes nothing. Model's choices: log entries 41, 153. -/
def Obligations.ReductionsCombineAndLinksResynchronise : Prop :=
  (∀ (r : RouterId) (tree : Fin 64) (s : State) (hs : List Hop) (h0 : Hop), let v := mcEntry s r tree; let out := (mcOut v).headD 0
    let sum := reducePacket hs
    bitOf v 31 = true → bitOf v 30 = true → reduceHeads s r tree (mcIn v) = hs.map some → hs.head? = some h0 →
    (∀ h ∈ hs, hNbody (pHead h.pkt) = hNbody (pHead h0.pkt) ∧ h.vc = h0.vc ∧ h.pkt.poison = [] ∧ h.gone = 0 ∧ noRefill s h
      ∧ portStop s r h.port out h.vc (pHead h.pkt) = none) →
    wins s h0 = true → flitsOf h0.pkt ≤ quota s h0 → keysRise s.cores = true →
    (∀ h ∈ reduceHere s r tree, h.drop = false ∧ h.port ∈ mcIn v) →
    (∀ e, out ≠ 0 → linkEnd r out = some e →
      answers (.reduceCombine r tree) s (fun t => t.mesh = hs.foldl List.erase s.mesh ++ [Hop.mk e.1 e.2 h0.vc sum (quota s h0) 0 false]
        ∧ memoriesKept s t))
    ∧ (let x := pHead sum; let gs := bodyGranules sum
      out = 0 → r.val < 16384 → roomySems s → destError (treeAddr r x) (extentOf gs) false = none →
      sweepGathered s r (hTree x) (sliceB sum.body 0 (8 * gs.length)) false = none →
      answers (.reduceCombine r tree) s (fun t => t.mesh = hs.foldl List.erase s.mesh
        ∧ wroteGranules (coreOf s r).spad (coreOf t r).spad (aOff (hAddr x)) sum.body gs
        ∧ (∀ d, d ≠ r.val → (coreOf t d).spad = (coreOf s d).spad) ∧ ∀ k, (clOf t k).vault = (clOf s k).vault))
    ∧ (∀ u, let x := pHead sum; let gs := bodyGranules sum
      out = 0 → r.val < 16384 → destError (treeAddr r x) (extentOf gs) false = none →
      sweepGathered s r (hTree x) (sliceB sum.body 0 (8 * gs.length)) false = some u →
      answers (.reduceCombine r tree) s (fun t => t.mesh = hs.foldl List.erase s.mesh ∧ t.parts = u.parts ∧ memoriesKept s t)))
  ∧ (∀ (r : RouterId) (port : PortIx) (word : BitVec 24) (bad : Bool) (lost : Option (Vc × Packet)) (e : Nat × Nat) (s : State),
    linkEnd r port = some e →
    (bad = false → sbBad word.toNat = false → leaves (.linkResync r ⟨port, word, bad, lost⟩) s)
    ∧ ((bad = true ∨ sbBad word.toNat = true) →
      ((routerOf s r).syncTimes.filter (fun t => t.1 == port.val && decide (s.units < t.2 + unitsPerSec))).length < 2 →
      (∀ r' p' b, flitsIn s r' p' b ≤ bufSize r' b) →
      answers (.linkResync r ⟨port, word, bad, lost⟩) s (fun t => memoriesKept s t
        ∧ (lost = none → t.mesh = s.mesh)
        ∧ (∀ b, b < 5 → getN 0 (routerOf t r).creditsUsed (5 * port + b) = flitsIn t e.1 e.2 b)
        ∧ (linkEnd e.1 e.2 = some (r.val, port.val) →
            ∀ b, b < 5 → getN 0 (routerOf t e.1).creditsUsed (5 * e.2 + b) = flitsIn t r port b)
        ∧ ∃ x xs, t.events = s.events ++ x :: xs ∧ x.code = 0x3031#16)))

/-! ## The control network, registers and interrupt controllers -/

/-- CTRL_SIGNAL, ICU_DOORBELL, ERR, REG_RSP and MGMT (R127, R129, R167 to R171, R188, R474): a message that lands leaves the
network. A SIGNAL adds its count to its semaphore; a DOORBELL sets PENDING of its source and TAG, and COUNT grows by 1 up to
0xFFFF, and a BCAST goes on to every other control core; an ERR fails the transfer of its TID, or traps the control core that it
is for. A message that the network does not deliver is counted and reported as 0x3030 by each row. ICU_GROUP_TIMEOUT, ICU_CLAIM
and ICU_SRC_WRITE (R474 to R477): a group whose batch has run out of time is ready; a claim takes the lowest source of the lowest
ready group, clearing its PENDING and COUNT, and with no source ready ends the handler; a write of ICU_SRC sets group and enable
of every source but 1 to 3, whose group and enable are fixed, and clears PENDING where it writes 1 to it. Model's choices: log
entry 15. -/
def Obligations.ControlMessagesAndInterrupts : Prop :=
  (∀ (m : CtrlMsg) (s : State),
    let c := coreAt (mDie m) (mCluster m) (mCore m); let sem := mArg m % 32; let n := msgWord m 2 % 65536
    (lands s m 1 → mDie m < 64 → mToCc m = false → mBcast m = false → semOf s c sem + n ≤ 0xFFFF →
      answers (.ctrlSignal m) s (fun t => t = { s with cores := t.cores, ctrl := s.ctrl.erase m }
        ∧ (∀ d, d ≠ c → coreOf t d = coreOf s d) ∧ coreOf t c = { coreOf s c with sem := (coreOf t c).sem }
        ∧ semOf t c sem = semOf s c sem + n ∧ ∀ k, k ≠ sem → semOf t c k = semOf s c k))
    ∧ (∀ cc : CcId, lands s m 2 →
      (mBcast m = true ∨ ccAt (mDie m) (mCluster m) (mCore m) = some cc.val ∧ (mToCc m = true ∨ 64 ≤ mDie m)) →
      let src := msgWord m 2 % 1024
      answers (.icuDoorbell cc m) s (fun t => t.ctrl = s.ctrl.erase m ++ (if mBcast m then bcastCopies m cc else []) ∧ srcPending (ccOf t cc).icu src = true
        ∧ bitsOf (srcOf (ccOf t cc).icu src) 63 48 = bitsOf (msgWord m 2) 31 16
        ∧ bitsOf (srcOf (ccOf t cc).icu src) 47 32 = min (bitsOf (srcOf (ccOf s cc).icu src) 47 32 + 1) 0xFFFF
        ∧ (∀ k, k ≠ src → srcOf (ccOf t cc).icu k = srcOf (ccOf s cc).icu k)
        ∧ (∀ i, i ≠ cc.val → ccOf t i = ccOf s i) ∧ memoriesKept s t))
    ∧ (∀ i, lands s m 3 → (mToCc m = true ∨ 64 ≤ mDie m) → ccAt (mDie m) (mCluster m) (mCore m) = some i →
      answers (.err m) s (fun t => t = { s with ctrl := s.ctrl.erase m, ccs := t.ccs } ∧ (∀ k, k ≠ i → ccOf t k = ccOf s k)
        ∧ ccOf t i = { ccOf s i with ccerr := BitVec.ofNat 8 (mArg m), mie := false, trap := some .access }))
    ∧ (∀ x, lands s m 3 → mDie m < 64 → mToCc m = false → (coreOf s c).te.find? (fun u => u.tid.toNat == n) = some x →
      exec (.err m) s = .next (transferFails (landCtrl s m) c x (mArg m)))
    ∧ (lands s m 6 → exec (.regRsp m) s = .next { s with ctrl := s.ctrl.erase m })
    ∧ (lands s m 7 → exec (.mgmt m) s = .next { s with ctrl := s.ctrl.erase m })
    ∧ (msgOk m = true → msgDropped s m = true →
      ∀ cc : CcId, (∀ i ∈ [Instr.ctrlSignal m, .icuDoorbell cc m, .err m, .regRd m, .regWr m, .regRsp m, .mgmt m],
        answers i s (fun t => t.ctrl = s.ctrl.erase m ∧ memoriesKept s t
          ∧ ∃ e, t.events = s.events ++ [e] ∧ e.code = 0x3030#16))))
  ∧ (∀ (cc : CcId) (s : State), let icu := (ccOf s cc).icu
    (∀ g : Fin 16, groupPending icu g ≠ [] → getN 0 icu.batch g ≠ 0 →
      answers (.icuGroupTimeout cc g) s (fun t => g.val ∈ (ccOf t cc).icu.ready ∧ (∀ h, h ∈ icu.ready → h ∈ (ccOf t cc).icu.ready)
        ∧ (ccOf t cc).icu.src = icu.src ∧ (∀ i, i ≠ cc.val → ccOf t i = ccOf s i) ∧ t = { s with ccs := t.ccs }))
    ∧ (claimValue icu = none →
      answers (.icuClaim cc) s (fun t => (ccOf t cc).icu = icu ∧ (ccOf t cc).mem = (ccOf s cc).mem
        ∧ (∀ i, i ≠ cc.val → ccOf t i = ccOf s i) ∧ t = { s with ccs := t.ccs, free := t.free }))
    ∧ (∀ g n, claimValue icu = some (g, n) →
      answers (.icuClaim cc) s (fun t => srcPending (ccOf t cc).icu n = false ∧ bitsOf (srcOf (ccOf t cc).icu n) 47 32 = 0
        ∧ bitsOf (srcOf (ccOf t cc).icu n) 31 1 = bitsOf (srcOf icu n) 31 1
        ∧ (∀ k, k ≠ n → srcOf (ccOf t cc).icu k = srcOf icu k)
        ∧ (∀ i, i ≠ cc.val → ccOf t i = ccOf s i) ∧ t = { s with ccs := t.ccs }))
    ∧ (∀ (n : Fin 1024) (v : W64),
      answers (.icuSrcWrite cc n v) s (fun t => t = { s with ccs := t.ccs } ∧ (∀ i, i ≠ cc.val → ccOf t i = ccOf s i)
        ∧ (bitOf v.toNat 0 = true → srcPending (ccOf t cc).icu n = false)
        ∧ (¬ (1 ≤ n.val ∧ n.val ≤ 3) → srcGroup (ccOf t cc).icu n = bitsOf v.toNat 7 4
            ∧ srcEnabled (ccOf t cc).icu n = bitOf v.toNat 1)
        ∧ ∀ k, k ≠ n.val → srcOf (ccOf t cc).icu k = srcOf icu k)))

/-- REG_RD and REG_WR (R6, R168 to R170): a read is answered with the half of the register that it asks for, zero and the flag
where a 32-bit register has no such half; a 32-bit register is written when its message lands, a 64-bit one when its high half
lands, with the low half that the requester wrote before. A write of a register that nobody writes is ignored; a requester that
may set no bit of another is answered ACCESS (R167; where R6 and R167 meet, log entry 26), and the register keeps its value. What
a write leaves in a core's own counters and in the registers with a rule of their own (R6, R82, R141, R373): reserved and
read-only bits keep their value; a running sequencer ignores a write of a semaphore and of SEQ_RESUME, and goes on in the window
that it runs in when BASE is written; QACT_THETA is written between jobs alone. Model's choices: log entries 26, 46, 117, 118,
148. -/
def Obligations.RegisterMessagesAct : Prop :=
  (∀ (m : CtrlMsg) (s : State) (r : RegSpace) (i : RegInfo), let off := msgWord m 2; let high := bitOf (mArg m) 3
    let mask := writable s r off (requester m) (mUrgent m) i; let w1c := clearable r (requester m) i
    msgSpace m = .inl r → regInfo r off = some i →
    (lands s m 4 → (high = true → i.wide = true) → (∀ cc, regIcu r off ≠ some (cc, 0x200)) →
      let v := regRead s r off
      exec (.regRd m) s = .next { s with
        ctrl := s.ctrl.erase m
          ++ [answerTo m 6 2 (if high then 8 else 0) [BitVec.ofNat 32 (if high then v / 2 ^ 32 else v)]] })
    ∧ ((∀ cc, regIcu r off = some (cc, 0x200) → lands s m 4 → high = false →
      answers (.regRd m) s (fun t => ccOf t cc = ccOf (claimAt s cc) cc ∧ memoriesKept s t)))
    ∧ (lands s m 5 → high = true → i.wide = false →
      exec (.regWr m) s = .next { s with ctrl := s.ctrl.erase m ++ [answerTo m 6 2 136 [0#32]] })
    ∧ (lands s m 5 → (high = true → i.wide = true) → i.readOnly = true → exec (.regWr m) s = .next { s with ctrl := s.ctrl.erase m })
    ∧ (lands s m 5 → (high = true → i.wide = true) → i.readOnly = false → mask ||| w1c = 0 →
      answers (.regWr m) s (fun t => (∀ q o, regRead t q o = regRead s q o) ∧ memoriesKept s t
        ∧ ∃ a e, t.ctrl = s.ctrl.erase m ++ [a] ∧ mType a = 3 ∧ mArg a = 8 ∧ t.events = s.events ++ [e] ∧ e.code = 0x3010#16))
    ∧ (lands s m 5 → high = false → i.wide = false → i.readOnly = false → mask ||| w1c ≠ 0 →
      exec (.regWr m) s = .next (regWrite (landCtrl s m) r off (msgWord m 3) mask w1c))
    ∧ (lands s m 5 → high = false → i.wide = true → i.readOnly = false → mask ||| w1c ≠ 0 →
      answers (.regWr m) s (fun t => t = { s with ctrl := s.ctrl.erase m, lowHalf := t.lowHalf }
        ∧ ((halfKey m).1, (halfKey m).2, off, BitVec.ofNat 32 (msgWord m 3)) ∈ t.lowHalf))
    ∧ (∀ low, lands s m 5 → high = true → i.wide = true → i.readOnly = false → mask ||| w1c ≠ 0 →
      s.lowHalf.find? (fun e => e.1 == (halfKey m).1 && e.2.1 == (halfKey m).2 && e.2.2.1 == off)
        = some ((halfKey m).1, (halfKey m).2, off, low) →
      ∃ s', exec (.regWr m) s = .next (regWrite s' r off (msgWord m 3 * 2 ^ 32 + low.toNat) mask w1c)
        ∧ s' = { s with ctrl := s.ctrl.erase m, lowHalf := s'.lowHalf }))
  ∧ (∀ (s : State) (c : CoreId) (v mask w1c : Nat), mask < 2 ^ 64 →
    (∀ off ∈ [0x30, 0x38, 0x200, 0x208, 0x210, 0x300, 0x308, 0x310, 0x318, 0x340, 0x348, 0x350, 0x358, 0x360, 0x370, 0x378, 0x380],
      let t := regWrite s (.core c) off v mask w1c
      (∀ b, b < 64 → bitOf (creg t c off) b = if bitOf mask b then bitOf v b else bitOf (creg s c off) b)
      ∧ (∀ o, o ≠ off → creg t c o = creg s c o) ∧ onlyCore s t c)
    ∧ (∀ n, n < 32 → let t := regWrite s (.core c) (0x100 + 8 * n) v mask w1c
      ((coreOf s c).run = true → t = s)
      ∧ ((coreOf s c).run = false → semOf t c n = v % 65536 ∧ (∀ k, k ≠ n → semOf t c k = semOf s c k) ∧ onlyCore s t c))
    ∧ ((coreOf s c).run = true → regWrite s (.core c) 0x50 v mask w1c = s)
    ∧ (bitOf v 31 = false → bitOf v 30 = false → let t := regWrite s (.core c) 0x20 v mask w1c
      onlyCore s t c ∧ coreOf t c = { coreOf s c with base := BitVec.ofNat 17 (bitsOf v 20 4) })
    ∧ (betweenJobs s c = false → regWrite s (.core c) 0x320 v mask w1c = s)
    ∧ (betweenJobs s c = true → creg (regWrite s (.core c) 0x320 v mask w1c) c 0x320 = v % 2 ^ 32))

/-! ## Steps and the sampled checks -/

/-- REGION_STEP (R40, R249 to R251, R276, R357): of a job that serves, an idle region with a wavefront begins its step, with the
arrays of its rows where the layout's streams read them; the embedding share takes the wavefronts that the Steward fills, with the
job's next step number; a step whose parts have all reported ends, and its wavefront goes to the next region where that one is
free; a step with a part still to report goes on. Model's choices: log entries 54, 82, 138, 140, 155. -/
def Obligations.RegionStepsAdvance : Prop :=
  ∀ (p : PartId) (region : Nat) (s : State) (j : Job), jobOf s p = some j → jobServes s p = true → region < (jobRegions j).length →
    let x := regionRun s p region; let e := (partOf s p).epochs
    (x.busy = false → e.missing = [] → e.st ≠ .swapping → s.fin.held = none → stewardUp s = true → waveAt x = true →
      (kindAt j region = 2 → commitsOut s p region = false) →
      answers (.regionStep p region) s (fun t => regionRun t p region = {
          x with
          busy := true, startAt := s.units, replays := 0, trips := 0, trapped := [], lastFault := none, nfSeen := false }
        ∧ (∀ r, r ≠ region → regionRun t p r = regionRun s p r) ∧ memoriesKept (writeRows s p region j) t))
    ∧ (∀ f a, j.file = some f → f.body.arrays.filter (fun a => a.region == region) = [a] → (waveRow x a.prefill a.row).1 ≠ [] →
      let c := fileCore s p f j.detour (a.rx, a.ry)
      let b := rowArray s a.what (waveRow x a.prefill a.row).1 (waveRow x a.prefill a.row).2; let t := writeRows s p region j
      if a.what = .sampling then vaultRead t (clusterOf c) a.off b.length = b ∧ wroteVault s t (clusterOf c) a.off b.length
      else spadRead t c a.off b.length = b ∧ onlyCore s t c ∧ sameOutside (coreOf s c).spad (coreOf t c).spad a.off b.length)
    ∧ (x.busy = false → e.missing = [] → e.st ≠ .swapping → s.fin.held = none → stewardUp s = true → waveAt x = false → region = 0 →
      kindAt j 0 = 0 → j.kind = 1 → s.stw.admissionStopped = false → let v := fillWave s p j
      v.decode ++ v.prefill ≠ [] →
      answers (.regionStep p region) s (fun t => let y := regionRun t p 0
        y.busy = true ∧ y.stepNum = j.nextStep ∧ y.decode = v.decode ∧ y.prefill = v.prefill ∧ y.pads = v.pads
        ∧ (∃ j', jobOf t p = some j' ∧ j'.nextStep = j.nextStep + 1)
        ∧ ∃ s1, memoriesKept s s1 ∧ (regionRun s1 p 0).decode = v.decode ∧ (regionRun s1 p 0).prefill = v.prefill
          ∧ memoriesKept (writeRows s1 p 0 j) t))
    ∧ (x.busy = true → stepDone s p region j = false → leaves (.regionStep p region) s)
    ∧ (x.busy = true → stepDone s p region j = true → waveAt x = true → kindAt j region ≠ 2 → lastRegion j region = false →
      isBino s p = false → (regionRun s p (region + 1)).busy = false → waveAt (regionRun s p (region + 1)) = false →
      answers (.regionStep p region) s (fun t => (regionRun t p region).busy = false ∧ waveAt (regionRun t p region) = false
        ∧ regionRun t p (region + 1) = {
          regionRun s p (region + 1) with
          decode := x.decode, prefill := x.prefill, pads := x.pads, stepNum := x.stepNum }
        ∧ memoriesKept s t))

/-- DUP_COMPARE (R100 to R102): the first comparison of a tile ends there when the partner's bits, which are the command's results
with what the partner's own MEs make of them, are the owner's; otherwise the mismatch is counted and reported as 0x5030, a case is
opened with the owner's bits beside those already open, and the step fails, to be replayed. Model's choices: log entries 83, 128,
129. -/
def Obligations.DuplicatesCompare : Prop :=
  ∀ (p : PartId) (owner partner : CoreId) (x : DupTile) (silent silent1 : List (Nat × W32)) (s : State) (j : Job) (r : Nat),
    jobOf s p = some j → (∀ d ∈ j.dups, d.owner ≠ owner) → regionOfCore s p owner j = some r →
    j.running = true → j.frozen = false → j.restarting = false →
    (regionRun s p r).busy = true → (coreOf s owner).dupTile = some x → (owner.val, partner.val) ∈ partnersOf s p j →
    coreGranted s partner 0 = true →
    let b := faultOutputs silent 0 x.right
    (x.outs = b → answers (.dupCompare p owner partner x.index silent silent1) s (fun t =>
      coreOf t owner = { coreOf s owner with dupTile := none } ∧ (∀ c, c ≠ owner.val → coreOf t c = coreOf s c)
      ∧ jobOf t p = some j ∧ memoriesKept s t))
    ∧ (x.outs ≠ b → ∃ s', exec (.dupCompare p owner partner x.index silent silent1) s
          = .next (failStep s' p r 0x5030 (BitVec.ofNat 32 (coreUnit partner 0 0)) none)
        ∧ (∃ e, s'.events = s.events ++ [e] ∧ e.code = 0x5030#16)
        ∧ creg s' partner 0x340 = bumpField (creg s partner 0x340) 31 0 1
        ∧ (∃ j', jobOf s' p = some j' ∧ j'.dups = j.dups ++ [{
              owner := owner, partner := partner, index := x.index, step := (regionRun s p r).stepNum, first := x.outs, round := 1, second := none }])
        ∧ memoriesKept s s')

/-- MARGIN_REMOVE and SHADOW_CHECK_DONE (R106 to R109): a core's rail step goes once no core of the rail has had an episode for
86,400 s, and the rail's margin with the last core that holds one; an abandoned recomputation is counted as skipped; a tile whose
reference outputs are within its region's threshold moves the mean by 1/64 of the difference; one beyond it is counted and
reported as 0x5033. Model's choices: log entries 18, 34, 127, 130. -/
def Obligations.MarginsAndShadowChecks : Prop :=
  (∀ (c : CoreId) (s : State), let v := coreOf s c; let k := clusterOf c
    v.railSteps ≠ 0 → v.swallowSteps = 0 → quiet s (coresOf k) = true →
    answers (.marginRemove c) s (fun t => (coreOf t c).railSteps = 0 ∧ bitsOf (creg t c 0x360) 25 24 = 0
      ∧ (∀ off, off ≠ 0x360 → creg t c off = creg s c off) ∧ (∀ d, d ≠ c.val → coreOf t d = coreOf s d)
      ∧ ((∃ d ∈ coresOf k, d ≠ c.val ∧ (coreOf s d).railSteps ≠ 0) → t.clusters = s.clusters)
      ∧ ((∀ d ∈ coresOf k, d ≠ c.val → (coreOf s d).railSteps = 0) → bitsOf (kreg t k 0x50) 12 8 = 0) ∧ memoriesKept s t))
  ∧ (∀ (c : CoreId) (s : State), let v := coreOf s c
    (v.railSteps = 0 ∨ quiet s (coresOf (clusterOf c)) = false) → (v.swallowSteps = 0 ∨ quiet s (siteCores (siteOf c)) = false) →
    leaves (.marginRemove c) s)
  ∧ ∀ (c : CoreId) (region : Nat) (s : State) (p : PartId) (x : ShdTile), corePart s c = some p.val → (coreOf s c).shdTile = some x →
    (regionRun s p region).busy = true → c.val ∈ regionCores s p region → let y := regionRun s p region
    answers (.shadowCheckDone c region none) s (fun t => onlyCore s t c ∧ (coreOf t c).shdTile = none
        ∧ creg t c 0x350 = bumpField (creg s c 0x350) 63 32 1)
    ∧ ∀ (src pitch : BitVec 18) (d : F32), coreGranted s c 2 = true →
      deviation s x.narrow (shadowOutputs s c x src.toNat pitch.toNat) = some d →
      answers (.shadowCheckDone c region (some (src, pitch))) s (fun t => (coreOf t c).shdTile = none ∧ memoriesKept s t
        ∧ (toRat32 d ≤ qualT s y.qualM →
            (regionRun t p region).qualM = y.qualM + (toRat32 d - y.qualM) / 64 ∧ (regionRun t p region).qualN = y.qualN + 1)
        ∧ (qualT s y.qualM < toRat32 d → ∃ e es, t.events = s.events ++ e :: es ∧ e.code = 0x5033#16))

/-- SHARE_UPDATE (R277, R278) completes in every state: under SHARE_MODE ADAPTIVE, with a Steward that runs, the share of every
partition that serves moves by at most 2 from the share in force, or to its target, and never above SHARE_MAX, and other
partitions keep theirs; under SHARE_MODE FIXED, and without a Steward, nothing changes. Model's choices: log entry 78. -/
def Obligations.ShareMovesByTwo : Prop :=
  ∀ (s : State), ∃ t, exec .shareUpdate s = .next t ∧ t = { s with parts := t.parts }
    ∧ (obj s 0x5200 4 = 0 ∨ stewardUp s = false → t = s)
    ∧ (obj s 0x5200 4 ≠ 0 → stewardUp s = true → keysRise s.parts = true →
      (∀ p, p ∈ s.parts.map (fun e => e.1) → servesPart s p = true → ∃ k, (partOf t p).share = some k ∧ k ≤ obj s 0x5200 6
        ∧ (k ≤ shareK s p + 2) ∧ (shareK s p ≤ k + 2 ∨ k = obj s 0x5200 6)
        ∧ ∀ w d, w = ((s.reqs.filter (fun e => e.2.part.val == p)).map (fun e =>
              if e.2.st = .prefill then rLength e.2 - e.2.cached
              else if e.2.st = .queued && e.2.fetching == 0 && epochServes s p e.2.epoch then rPromptLen e.2 else 0)).sum →
            d = (s.reqs.filter (fun e => e.2.part.val == p && e.2.st == .decode)).length →
            let target := if w = 0 then 0 else if d = 0 then obj s 0x5200 6 else rneDiv (16 * w) (w + obj s 0x5200 7 * d)
            shareK s p ≤ target + 2 → target ≤ shareK s p + 2 → k = min (obj s 0x5200 6) target)
      ∧ ∀ p, servesPart s p = false → partOf t p = partOf s p)

/-! ## Partitions and jobs -/

/-- PART_DEF, SITE_CLEAR_DONE and PARTITION_CLEAR_DONE (R26 to R29, R512, R565): an installer creates, changes or dissolves a
partition only while no job holds any of its sites, and any other change is refused and leaves the partition table as it is; of a
new partition's sites those that it held last join at once and the others wait to be cleared; a site that is clear joins with its
scratchpads and vaults empty; a cleared partition's scratchpads are empty and a waiting start becomes its job. Model's choices:
log entries 63, 64, 149. -/
def Obligations.PartitionsFormAndClear : Prop :=
  (∀ (req : DapReq) (p : PartId) (v : W64) (se : Session) (s : State), canWrite s req 0x5000 (p.val + 1) (leBytes 8 v.toNat) se →
    let run := jobOf s p ≠ none ∨ ∃ d ∈ pdSites v.toNat, ∃ q, sitePart s d = some q ∧ jobOf s q ≠ none
    writes (.partDef req p v) s req 0x5000 (p.val + 1) (leBytes 8 v.toNat) se (fun _ t =>
      (partDefOk s p v.toNat = false → t.parts = s.parts ∧ t.sites = s.sites ∧ answered t req stRange [])
      ∧ (partDefOk s p v.toNat = true → run → t.parts = s.parts ∧ t.sites = s.sites ∧ answered t req stState [])
      ∧ (partDefOk s p v.toNat = true → partHeld s p = false → ¬ run → partDef t p = v.toNat ∧ answered t req stOk []
        ∧ ∀ q, q ≠ p.val → partDef t q = partDef s q)))
  ∧ (∀ (req : DapReq) (p : PartId) (v : W64) (se : Session) (s : State), canWrite s req 0x5000 (p.val + 1) (leBytes 8 v.toNat) se →
    partDefOk s p v.toNat = true → partHeld s p = false →
    (∀ d ∈ pdSites v.toNat, ∀ q, sitePart s d = some q → q = p.val ∨ jobOf s q = none) → partDef s p = 0 → pdValid v.toNat = true →
    writes (.partDef req p v) s req 0x5000 (p.val + 1) (leBytes 8 v.toNat) se (fun _ t => partDef t p = v.toNat
      ∧ (∀ d ∈ pdSites v.toNat, (siteSt s d).lastPart = some p → sitePart t d = some p.val ∧ (siteSt t d).joining = none)
      ∧ (∀ d ∈ pdSites v.toNat, (siteSt s d).lastPart ≠ some p → (siteSt t d).joining = some (some p))
      ∧ (∀ d, d ∉ pdSites v.toNat → siteSt t d = siteSt s d) ∧ memoriesKept s t))
  ∧ (∀ (site : SiteId) (p : PartId) (s : State), (siteSt s site).joining = some (some p) → (siteSt s site).powered = true →
    answers (.siteClearDone site) s (fun t => sitePart t site = some p.val ∧ (siteSt t site).joining = none
      ∧ (siteSt t site).lastPart = some p ∧ (∀ c ∈ siteCores site, (coreOf t c).spad = Mem.empty)
      ∧ (∀ k, k < 16 → (clOf t (site.val * 16 + k)).vault = Mem.empty)
      ∧ (∀ c, c ∉ siteCores site → (coreOf t c).spad = (coreOf s c).spad)
      ∧ ∀ k, k / 16 ≠ site.val → (clOf t k).vault = (clOf s k).vault))
  ∧ ∀ (p : PartId) (s : State), (partOf s p).clearing = true →
    answers (.partitionClearDone p) s (fun t => (partOf t p).clearing = false ∧ (partOf t p).job = (partOf s p).waitingJob
      ∧ (partOf t p).waitingJob = none ∧ (∀ c ∈ partCores s p, (coreOf t c).spad = Mem.empty)
      ∧ ∀ c, c ∉ partCores s p → (coreOf t c).spad = (coreOf s c).spad)

/-- JOB_START and JOB_END (R266, R267, R513, R565) complete where the agent can take the write: with a good signature, a start
over Wenlink of a good descriptor, on an idle partition that the port may use, reads the descriptor from the host and makes the
job it names, loading, or waiting while the partition is being cleared; an end of a job ends it with the reason JOB_END, and its
partition has no job and is to be cleared. With a bad signature the write is refused. Model's choices: log entries 59, 151, 154.
-/
def Obligations.JobsStartAndEnd : Prop :=
  (∀ (req : DapReq) (addr : W64) (d : Bytes) (se : Session) (n : WlPort) (s : State),
    canWrite s req 0x5100 1 (leBytes 8 addr.toNat) se → hostWriteState s req = stOk → carrier req = some n → jobDescFault d = none →
    windowOk s (jdPart d) n = true → jobOf s (jdPart d) = none → (partOf s (jdPart d)).waitingJob = none →
    writes (.jobStart req addr (some d)) s req 0x5100 1 (leBytes 8 addr.toNat) se (fun w t =>
      (∃ j, (if (partOf s (jdPart d)).clearing then (partOf t (jdPart d)).waitingJob else jobOf t (jdPart d)) = some j
        ∧ j.number.toNat = jobNumber s d % 2 ^ 32 ∧ j.desc = d ∧ j.descAddr = addr ∧ j.port = n ∧ j.running = false
        ∧ j.digest = jdDigest d)
      ∧ (∃ tag, (wlOf t n).out = (wlOf w n).out ++ [.mrd tag addr 64]) ∧ answered t req stOk []
      ∧ memoriesKept s t ∧ ∀ q, q ≠ jdPart d → partOf t q = partOf s q))
  ∧ ∀ (req : DapReq) (p : PartId) (se : Session) (j : Job) (s : State), canWrite s req 0x5100 2 (leBytes 1 p) se → jobOf s p = some j →
    stewardUp s = true →
    writes (.jobEnd req (BitVec.ofNat 8 p)) s req 0x5100 2 (leBytes 1 p) se (fun w t => t = endJob w p 7 0
      ∧ jobOf t p = none ∧ (partOf t p).clearing = true ∧ (partOf t p).lastLayout = j.digest)

/-- JOB_LOAD (R39, R228, R266, R267): without its file, or with one that is not as long as the descriptor says, the start is
dropped; a file that a check refuses ends the start with event 0x6011 and the byte offset, or 0x6010 and the reason; a serving
layout that passes makes the job run with that layout, its digest and its regions. What ending a job leaves (R76, R267, R565),
whatever ends it: the partition has no job and is to be cleared, and every live request of it is FAILED. Model's choices: log
entries 30, 59, 67, 131, 132, 133. -/
def Obligations.JobsLoadOrAreRefusedAndLeaveNothing : Prop :=
  (∀ (p : PartId) (s : State) (j : Job), jobOf s p = some j → j.running = false →
    answers (.jobLoad p none none none none) s (fun t => jobOf t p = none ∧ memoriesKept s t)
    ∧ ∀ f : LayoutFile,
      (f.bytes.length ≠ leAt j.desc 0x18 8 → answers (.jobLoad p (some f) none none none) s (fun t => jobOf t p = none ∧ memoriesKept s t))
      ∧ (f.bytes.length = leAt j.desc 0x18 8 →
        (∀ off, layoutFault s p f false = some off →
          answers (.jobLoad p (some f) none none none) s (fun t => jobOf t p = none
            ∧ ∃ e, t.events = s.events ++ [e] ∧ e.code = 0x6011#16 ∧ e.detail = sliceB (leBytes 4 off ++ leBytes 1 0) 0 16))
        ∧ (layoutFault s p f false = none →
          (sha256 f.bytes ≠ jdDigest j.desc →
            answers (.jobLoad p (some f) none none none) s (fun t => jobOf t p = none
              ∧ ∃ e, t.events = s.events ++ [e] ∧ e.code = 0x6010#16 ∧ e.detail = 9#8 :: zeros 15))
          ∧ (sha256 f.bytes = jdDigest j.desc → ∀ r, loadReason s p f = some r → r ≠ 8 → r < 256 →
            answers (.jobLoad p (some f) none none none) s (fun t => jobOf t p = none
              ∧ ∃ e, t.events = s.events ++ [e] ∧ e.code = 0x6010#16 ∧ e.detail = BitVec.ofNat 8 r :: zeros 15))
          ∧ (sha256 f.bytes = jdDigest j.desc → loadReason s p f = none → j.kind = 1 → isBino s p = false →
            answers (.jobLoad p (some f) none none none) s (fun t => ∃ j', jobOf t p = some j' ∧ j'.running = true
              ∧ j'.file = some f ∧ j'.digest = sha256 f.bytes ∧ j'.started = true
              ∧ j'.regions.length = f.body.regions.length)))))
  ∧ (∀ (s : State) (p reason event : Nat) (j : Job), jobOf s p = some j → j.instar = none → let t := endJob s p reason event
    jobOf t p = none ∧ (partOf t p).clearing = true ∧ (partOf t p).lastLayout = j.digest
    ∧ (∀ h r, reqOf t h = some r → r.part.val = p → reqFinal r = true)
    ∧ ∀ c, (coreOf t c).spad = (coreOf s c).spad)

/-! ## Requests -/

/-- SUBMIT, CANCEL, MASK, CONTINUE and RELEASE (R268, R271 to R274, R280, R285, R292): a refused entry is answered with its code;
an accepted one is taken from its queue and has its effect. A submitted request is QUEUED under the epoch that is current, with
its inputs still to be read; a cancel waits for the commit point of a request in DECODE, or while a reset is held, and otherwise
ends it at once; a second one while one waits changes nothing (log entry 136); a mask stands in the order of its AT, and a cycle
in flight commits nothing from it on; a continuation appends its tokens and resumes; a release ends the request DONE. Model's
choices: log entries 74, 76, 115, 136, 156, 159. -/
def Obligations.HostCommandsOnRequests : Prop :=
  (∀ (q : BitVec 16) (index : W32) (e : Bytes) (s : State), hostReady s q index e 1 0 →
    (∀ code, submitRefusal q.toNat e s = some code → exec (.submit q index e) s = .next (refuseCmd s q.toNat index.toNat e code))
    ∧ (submitRefusal q.toNat e s = none → answers (.submit q index e) s (fun t => headMoved s t q ∧ memoriesKept s t
      ∧ t.parts = s.parts ∧ ∃ r, reqOf t (freeSlot s) = some r ∧ r.st = .queued ∧ r.desc = e ∧ r.part.val = cPart e ∧ r.tokens = []
        ∧ r.epoch = (bindEpoch s (cPart e)).1 ∧ 0 < r.fetching)))
  ∧ (∀ (q : BitVec 16) (index : W32) (e : Bytes) (s : State) (h : Nat) (r : Request), names s e h r →
    (hostReady s q index e 2 2 → zeroBut e [(0, 1), (2, 1), (4, 4), (0x32, 2)] = true →
      (reqFinal r = true → exec (.cancel q index e) s = .next (answerCmd (takeCmd s q.toNat) q.toNat e 2))
      ∧ (reqFinal r = false → r.cancel.isSome = true →
          exec (.cancel q index e) s = .next (answerCmd (takeCmd s q.toNat) q.toNat e 1))
      ∧ (reqFinal r = false → (r.st = .decode ∨ s.fin.held.isSome = true) → r.cancel = none →
          answers (.cancel q index e) s (fun t => headMoved s t q ∧ memoriesKept s t
          ∧ t.parts = s.parts ∧ reqOf t h = some { r with cancel := some (q, BitVec.ofNat 16 (cCq e)) }))
      ∧ (reqFinal r = false → s.fin.held = none → r.cancel = none → r.st ≠ .decode → (r.st = .prefill → prefilling s h r = false) →
          answers (.cancel q index e) s (fun t => headMoved s t q ∧ endedAs t h .cancelled ∧ spadsKept s t)))
    ∧ (hostReady s q index e 5 0 → zeroBut e [(0, 1), (2, 1), (4, 4), (0x32, 2)] = true →
      (keepPaused r = true → answers (.release q index e) s (fun t => headMoved s t q ∧ endedAs t h .done ∧ spadsKept s t))
      ∧ (keepPaused r = false → exec (.release q index e) s = .next (refuseCmd s q.toNat index.toNat e 0x18)))
    ∧ (∀ bm : Bytes, hostReady s q index e 3 24580 → bm.length = 24576 → reqFinal r = false → nextIndex r ≤ leAt e 8 4 →
      zeroBut e [(0, 1), (2, 1), (4, 4), (8, 4), (0x20, 8), (0x32, 2)] = true →
      answers (.mask q index e (some bm)) s (fun t => headMoved s t q ∧ memoriesKept s t ∧ ∃ x, reqOf t h = some x
        ∧ x.masks = insertBy (fun (a b : Nat × Bytes) => decide (a.1 < b.1)) (leAt e 8 4, bm) r.masks ∧ x.st = r.st ∧ x.tokens = r.tokens
        ∧ x.cycle = r.cycle.map (fun y => { y with limit := some (match y.limit with | some n => min n (leAt e 8 4) | none => leAt e 8 4) })))
    ∧ ∀ b : Bytes, let n := leAt e 0x10 4; let m := leAt e 0x14 4
      hostReady s q index e 4 (128 + 4 * n) → b.length = 4 * n → 1 ≤ m → m ≤ 4194304 → keepPaused r = true →
      lengthOk s (cPart e) (rLength r + n + m) = true →
      zeroBut e [(0, 1), (2, 1), (4, 4), (0x10, 4), (0x14, 4), (0x18, 8), (0x32, 2)] = true →
      answers (.continueReq q index e (some b)) s (fun t => headMoved s t q ∧ memoriesKept s t ∧ ∃ x, reqOf t h = some x
        ∧ x.st = .resuming ∧ x.pause = none ∧ x.maxNew = m ∧ x.genBase = rLength r + (wordsOf b).length ∧ x.tokens = r.tokens
        ∧ x.appended = r.appended ++ (wordsOf b).map (fun t => (r.tokens.length, t))))

/-- BATCH, REPLAY and REPLAY_RESUME (R337, R338, R392, R393): a good batch joins the at most two that wait, and a third waits in
its queue; a replayed ADMIT record enters its request with its inputs; with RESUME and token records that fold to their own
PLATE_FRAGs the request stands RESUMING with those tokens; a record that folds to another value is reported as 0x6071 and refused.
Model's choices: log entries 80, 139. -/
def Obligations.BatchesAndReplaysEnter : Prop :=
  (∀ (q : BitVec 16) (index : W32) (e tk sg : Bytes) (loss : Option Bytes) (s : State) (i : Instar),
    let n := leAt e 0x10 4; let p := cPart e
    let bits := if leAt e 0x20 8 ≠ 0 then loss.getD [] else defaultLoss n (segList sg)
    instarOf s p = some i → tk.length = 4 * n → sg.length = 8 * leAt e 0x14 2 → (∀ b, loss = some b → b.length = ceilDiv n 8) →
    hostReady s q index e 0x10 (e ++ tk ++ sg ++ bits).length → batchRefusal e (some tk) (some sg) loss s = none →
    (2 ≤ i.waiting.length → leaves (.batch q index e (some tk) (some sg) loss) s)
    ∧ (i.waiting.length < 2 → answers (.batch q index e (some tk) (some sg) loss) s (fun t => headMoved s t q ∧ memoriesKept s t
      ∧ ∃ b, instarOf t p = some { i with waiting := i.waiting ++ [b], nextBatch := i.nextBatch + 1 } ∧ b.number = cReq e
        ∧ b.tokens = tk ∧ b.segs = sg ∧ b.loss = bits ∧ b.last = (byteAt e 1 == 1))))
  ∧ (∀ (q : BitVec 16) (index : W32) (e b : Bytes) (s : State), hostReady s q index e 0x20 0 → lgResume b = false → lgType b = 2 →
    replayRefusal q.toNat e (some b) s = none →
    answers (.replay q index e (some b)) s (fun t => headMoved s t q ∧ memoriesKept s t ∧ ∃ r, reqOf t (freeSlot s) = some r
      ∧ r.st = .queued ∧ r.desc = admDesc b ∧ r.prompt = admPrompt b ∧ r.mask = admMask b ∧ r.fetching = 0 ∧ r.specD = admDraft b))
  ∧ ∀ (q : BitVec 16) (index : W32) (e b : Bytes) (ts : List Bytes) (s : State), let r := admitRequest s q.toNat b
    hostReady s q index e 0x20 (lgLen b) → lgResume b = true → (∀ t ∈ ts, t.length = 32) → replayRefusal q.toNat e (some b) s = none →
    (∀ chain, refold ts 0 (startChain s r) = .inl chain → bitsOf (leAt (ts.getLast?.getD []) 8 4) 20 18 = 0 →
      answers (.replayResume q index e (some b) ts) s (fun t => headMoved s t q ∧ memoriesKept s t ∧ ∃ x, reqOf t (freeSlot s) = some x
        ∧ x.st = .resuming ∧ x.chain = chain ∧ x.tokens = ts.map (fun t => BitVec.ofNat 18 (leAt t 8 4)) ∧ x.resumes = 1))
    ∧ ∀ i, refold ts 0 (startChain s r) = .inr i → ∃ s', exec (.replayResume q index e (some b) ts) s
        = .next (refuseCmd s' q.toNat index.toNat e 0x10)
      ∧ s' = { s with events := s'.events } ∧ ∃ x, s'.events = s.events ++ [x] ∧ x.code = 0x6071#16

/-- ADMISSION, TOKEN_POST, PARK, COCOON_IMPORT, TTL_EXPIRE and REQUEST_RESTART (R261 to R263, R275, R287, R289, R290, R368): the
first interactive request with a place is admitted to PREFILL; a token record goes to its queue's tail with the time and SEQ; the
cache of a paused request leaves as an image, or its absence is reported; a resuming request gets its cache in place, from its
image or by a recomputation; an expired request is CANCELLED; a restarted one loses its cache and resumes. Model's choices: log
entries 21, 136. -/
def Obligations.RequestsProgress : Prop :=
  (∀ (p : PartId) (s : State), servesPart s p = true → jobServes s p = true → s.stw.admissionStopped = false → inRun s = true →
    stewardUp s = true → let s' := (partReqs s p).foldl bindLate s
    (∀ (e : Nat × Request) (u : State), let r := if e.2.specD = 0 then { e.2 with specD := startDraft s' p } else e.2
      (queuedOf s' p 0).head? = some e → e.2.inputs = [] → logReady s' p (admitPayload s' r).length = true →
      placeRequest s' p e.1 r r.reserved = some u →
      answers (.admission p) s (fun t => ∃ x, reqOf t e.1 = some x ∧ x.st = .prefill ∧ x.placed = true ∧ x.cached = 0 ∧ x.desc = r.desc
        ∧ x.tokens = r.tokens ∧ x.specD = r.specD ∧ spadsKept s t))
    ∧ (queuedOf s' p 0 = [] → queuedOf s' p 1 = [] → exec (.admission p) s = .next s'))
  ∧ (∀ (h : Slot) (s : State) (r : Request) (rec0 : Bytes) (rest : List Bytes) (w : WlQueue), reqOf s h = some r → r.ring = rec0 :: rest →
    queueRoom s (rTq r) 2 1 = true → queueAt s (rTq r) = some w → let n := portOf (rTq r)
    answers (.tokenPost h) s (fun t => (∀ x, reqOf t h = some x → x.ring = rest) ∧ memoriesKept s t
      ∧ (∃ w', queueAt t (rTq r) = some w' ∧ w'.tail = w.tail + 1 ∧ w'.seq = w.seq + 1)
      ∧ HostMsg.mwr (BitVec.ofNat 64 (w.base.toNat + w.tail.toNat % w.entries.toNat * 32))
          (sliceB rec0 0 0x18 ++ leBytes 4 (localTime s (serviceCc n)) ++ leBytes 2 w.seq.toNat ++ zeros 2) ∈ (wlOf t n).out))
  ∧ (∀ (h : Slot) (s : State) (r : Request) (j : Job) (d : SweepDesc), reqOf s h = some r → jobOf s r.part = some j → sweepDesc j = some d →
    r.st = .paused → r.placed = true → r.parked = none → r.cached ≠ 0 → r.pause ≠ some .diapause →
    let n := portOf (rTq r); let len := cocoonBytes d r.cached
    (∀ a o, portUp s n = true → (wlOf s n).area = some a → parkPlace (wlOf s n).images a.2.toNat len = some o →
      answers (.park h) s (fun t => reqOf t h = some { r with parked := some len, placed := false } ∧ spadsKept s t
        ∧ (wlOf t n).images = (wlOf s n).images ++ [(h, o, len)]))
    ∧ ((portUp s n = false ∨ (wlOf s n).area = none) → answers (.park h) s (fun t => t = { s with events := t.events }
        ∧ ∃ e, t.events = s.events ++ [e] ∧ e.code = 0x6035#16)))
  ∧ (∀ (h : Slot) (s : State) (r : Request) (j : Job) (d : SweepDesc), reqOf s h = some r → jobOf s r.part = some j → sweepDesc j = some d →
    r.st = .resuming → jobServes s r.part = true → let want := leAt r.stop 0x2C 4
    let done := fun cached => let x := { r with placed := true, reserved := want, cached := cached, parked := none }
      { x with st := resumeState x }
    (∀ b, r.placed = true → want = r.reserved → answers (.cocoonImport h b) s (fun t => reqOf t h = some (done r.cached) ∧ memoriesKept s t))
    ∧ (∀ b u, r.placed = true → want ≠ r.reserved → replaceExtents s r.part j d h r want = some u →
        answers (.cocoonImport h b) s (fun t => reqOf t h = some (done r.cached) ∧ spadsKept s t))
    ∧ (∀ u, r.placed = false → placeRequest s r.part h r want = some u →
        answers (.cocoonImport h none) s (fun t => reqOf t h = some (done 0) ∧ spadsKept s t)
        ∧ ∀ b, r.parked.isSome = true → imageHeld s h = true → cocoonFault j d r b = none →
          answers (.cocoonImport h (some b)) s (fun t => reqOf t h = some (done (leAt b 8 4)) ∧ spadsKept s t)))
  ∧ (∀ (h : Slot) (s : State) (r : Request), reqOf s h = some r → r.st = .paused → r.pause ≠ some .diapause → logReady s r.part 2 = true →
    answers (.ttlExpire h) s (fun t => endedAs t h .cancelled ∧ spadsKept s t))
  ∧ ∀ (h : Slot) (s : State) (r : Request), reqOf s h = some r → reqFinal r = false → r.st ≠ .queued → r.parked = none →
    answers (.requestRestart h) s (fun t => spadsKept s t ∧ ∃ x, reqOf t h = some x
      ∧ x.st = (if r.st = .paused then .paused else .resuming) ∧ x.resumes = r.resumes + 1 ∧ x.placed = false ∧ x.cached = 0
      ∧ x.inFlight = false ∧ x.cycle = none ∧ x.tokens = r.tokens ∧ x.desc = r.desc)

/-- DRAFT_LOAD, DRAFT_UNLOAD, SPEC_CYCLE and SPEC_PROBE (R297, R298, R300 to R309): a draft that passes every check is the
partition's, with the acceptance estimate at its seed; an unload takes it away at the end of the cycles in flight; a cycle begins
with the draft's proposals and changes nothing else; its end commits, in position order, the tokens that its mode accepts, none of
them from the AT of an accepted MASK on, and counts once in the acceptance estimate. Model's choices: log entries 81, 114, 135,
137, 157, 160. -/
def Obligations.DraftsAndCycles : Prop :=
  (∀ (req : DapReq) (addr : W64) (d : Bytes) (f main : LayoutFile) (j : Job) (se : Session) (n : WlPort) (s : State), let p := byteAt d 4
    canWrite s req 0x5110 1 (leBytes 8 addr.toNat) se → hostWriteState s req = stOk → carrier req = some n → draftDescFault d = none →
    windowOk s p n = true → servesPart s p = true → draftOf s p = none → layoutDigest s p = sliceB d 0x40 32 →
    jobOf s p = some j → j.file = some main → f.bytes.length = leAt d 0x10 8 → layoutFault s p f false = none →
    sha256 f.bytes = sliceB d 0x20 32 → loadReason s p f = none →
    draftFits main j.detour f ((choosePlacement s p f).getD 0) = true →
    writes (.draftLoad req addr (some d) (some f)) s req 0x5110 1 (leBytes 8 addr.toNat) se (fun _ t =>
      draftOf t p = some { dist := ddMode d == 1, digest := sha256 f.bytes, file := f, detour := (choosePlacement s p f).getD 0, leaving := false }
      ∧ (partOf t p).acceptCycles = 0 ∧ (partOf t p).accept = some (BitVec.ofNat 32 (obj s 0x5110 6))))
  ∧ (∀ (req : DapReq) (p : PartId) (x : Draft) (se : Session) (s : State), canWrite s req 0x5110 2 (leBytes 1 p) se →
    draftOf s p = some x → stewardUp s = true →
    let flying := s.reqs.any (fun e => e.2.part.val == p.val && e.2.cycle.isSome)
    writes (.draftUnload req (BitVec.ofNat 8 p)) s req 0x5110 2 (leBytes 1 p) se (fun _ t => spadsKept s t
      ∧ draftOf t p = if flying then some { x with leaving := true } else none))
  ∧ (∀ (h : Slot) (draws : List SpecDraw) (s : State) (r : Request) (x : Draft), reqOf s h = some r → draftOf s r.part = some x →
    maySpeculate s r = true →
    let begun := fun (probe : Bool) (t : State) => onlyRequest s t h ∧ ∃ y, reqOf t h = some { r with cycle := some y }
      ∧ y = draftSteps x.dist h (rLength r) draws.dropLast r { probe := probe, props := [], limit := none, verified := false }
      ∧ y.props.length = draws.length - 1
    (r.specOff = false → draws.length = min r.specD (draftCap s r) + 1 → answers (.specCycle h draws) s (begun false))
    ∧ (r.specOff = true → 256 ≤ r.specWait → draws.length = min 2 (draftCap s r) + 1 → answers (.specProbe h draws) s (begun true))
    ∧ (r.specOff = true → leaves (.specCycle h draws) s)
    ∧ (r.specOff = false ∨ r.specWait < 256 → leaves (.specProbe h draws) s))
  ∧ ∀ (h : Slot) (draws : List SpecDraw) (s : State) (r : Request) (x : SpecRun), reqOf s h = some r → r.cycle = some x →
    let ts := (verified s h r x draws).1.map (fun e => e.1)
    let ended := fun (t : State) => spadsKept s t ∧ (partOf t r.part).acceptCycles = (partOf s r.part).acceptCycles + 1
      ∧ ∀ y, reqOf t h = some y → y.cycle = none ∧ ∃ k, k ≤ ts.length ∧ y.tokens = r.tokens ++ ts.take k
        ∧ (r.st = .decode → x.limit = none → 1 ≤ k) ∧ ∀ n, x.limit = some n → r.tokens.length ≤ n → r.tokens.length + k ≤ n
    (x.verified = true → draws.length = x.props.length + 1 →
      (x.probe = false → answers (.specCycle h draws) s ended) ∧ (x.probe = true → answers (.specProbe h draws) s ended))
    ∧ (x.verified = false ∨ x.probe = true → leaves (.specCycle h draws) s)
    ∧ (x.verified = false ∨ x.probe = false → leaves (.specProbe h draws) s)

/-! ## Weights and Instar -/

/-- MOULT_START, MOULT_ABORT, MOULT_TIMEOUT and DRAIN_SWAP (R325 to R327, R330): a descriptor for the chain begins a Moult that
waits for its manifest; otherwise the manifest is read from the host: one that cannot be read refuses the Moult, the reason that
one gives refuses it, and without a reason the Moult begins; an abort and a timeout before the swap leave the committed epoch
current; a timeout during the swap commits the incoming epoch with the shards that have not passed missing (the model's reading of
R330, log entry 31); a swap waits for the old epoch's running requests and ends the others. Model's choices: log entries 31, 66.
-/
def Obligations.MoultsBeginAndEnd : Prop :=
  (∀ (req : DapReq) (addr : W64) (d : Bytes) (se : Session) (n : WlPort) (s : State), let p := byteAt d 4; let e := (partOf s p).epochs
    canWrite s req 0x5300 1 (leBytes 8 addr.toNat) se → hostWriteState s req = stOk → carrier req = some n → moultDescOk d = true →
    windowOk s p n = true → servingJob s p = true → e.moult = none → e.retiring = none →
    (mdChain d = true → s.stw.chainMan = none →
      writes (.moultStart req addr (some d) none) s req 0x5300 1 (leBytes 8 addr.toNat) se (fun _ t => memoriesKept s t
        ∧ (partOf t p).epochs.committed = e.committed
        ∧ ∃ m, (partOf t p).epochs.moult = some m ∧ m.chain = true ∧ m.man.digest = mdEpoch d ∧ m.passed = []))
    ∧ (mdChain d = false → writes (.moultStart req addr (some d) none) s req 0x5300 1 (leBytes 8 addr.toNat) se (fun w t =>
        t = moultRefused (hostFetch (hostFetch w n addr.toNat 128 128) n (leAt d 8 8) (leAt d 0x10 8) 0) p 8))
    ∧ ∀ b, mdChain d = false → manifestForm b = true → b.length = leAt d 0x10 8 →
      writes (.moultStart req addr (some d) (some b)) s req 0x5300 1 (leBytes 8 addr.toNat) se (fun w t =>
        (∀ r, manifestReason w p (parseManifest b) (manifestAuth w b) (mdMode d == 2) (mdEpoch d) = some r →
          t = moultRefused (hostFetch (hostFetch w n addr.toNat 128 128) n (leAt d 8 8) (leAt d 0x10 8) b.length) p r)
        ∧ (manifestReason w p (parseManifest b) (manifestAuth w b) (mdMode d == 2) (mdEpoch d) = none → memoriesKept s t
          ∧ ∃ m, (partOf t p).epochs.moult = some m ∧ m.man = parseManifest b ∧ m.chain = false ∧ m.started = s.units
            ∧ (mdMode d ≠ 2 → (partOf t p).epochs.incoming = some (parseManifest b)))))
  ∧ (∀ (req : DapReq) (p : PartId) (se : Session) (m : Moult) (s : State), let e := (partOf s p).epochs
    e.moult = some m → e.st ≠ .swapping → let kept := fun (t : State) => (partOf t p).epochs.moult = none
      ∧ (partOf t p).epochs.incoming = none ∧ (partOf t p).epochs.committed = e.committed ∧ memoriesKept s t
    answers (.moultTimeout p) s kept
    ∧ (canWrite s req 0x5300 2 (leBytes 1 p) se → stewardUp s = true →
      writes (.moultAbort req (BitVec.ofNat 8 p)) s req 0x5300 2 (leBytes 1 p) se (fun _ t => kept t)))
  ∧ (∀ (p : PartId) (m : Moult) (s : State), (partOf s p).epochs.moult = some m → (partOf s p).epochs.st = .swapping →
    answers (.moultTimeout p) s (fun t => (partOf t p).epochs.moult = none ∧ (partOf t p).epochs.committed = some m.man
      ∧ (partOf t p).epochs.st = .old ∧ memoriesKept s t
      ∧ (partOf t p).epochs.missing = (m.man.shards.map (fun x => x.1)).filter (fun i => !m.passed.contains i)))
  ∧ ∀ (p : PartId) (m : Moult) (c : Manifest) (s : State), (partOf s p).epochs.moult = some m → m.mode = 1 →
    (partOf s p).epochs.st ≠ .swapping → (partOf s p).epochs.committed = some c →
    let busy := fun (r : Request) => r.st = .prefill ∨ r.st = .decode ∨ r.st = .resuming ∨ (r.st = .paused ∧ r.pause = some .backpressure)
    ((∀ e ∈ s.reqs, e.2.part = p → e.2.epoch = c.digest → ¬ busy e.2) →
      answers (.drainSwap p) s (fun t => (partOf t p).epochs.st = .swapping ∧ spadsKept s t
        ∧ ∀ h x, reqOf t h = some x → x.part = p → x.epoch = c.digest → reqFinal x = true))
    ∧ ((∃ e ∈ s.reqs, e.2.part = p ∧ e.2.epoch = c.digest ∧ busy e.2) → leaves (.drainSwap p) s)

/-- MANIFEST_VERIFY, SHARD_ARRIVE, SCRUB_PASS and CHAIN_FENCE (R315 to R318, R320, R321, R331): outside a chain a manifest changes
nothing; a verified one is the chain's; a shard that fails a check is rejected with its reason, and one that passes lies in its
vault, and in those of the copies that the detours keep, as it arrived and counts as passed; a scrub in DIGEST mode dates the
shards that are whole and takes the others out of the directory: one of an epoch still coming in has to pass again, any other is
missing; a fence of the chain is written and empties the staging. Model's choices: log entries 67, 145. -/
def Obligations.ShardsLandAndAreScrubbed : Prop :=
  (∀ (b : Bytes) (s : State), ((chainMember s = false ∨ chainFenced s = true) → leaves (.manifestVerify b) s)
    ∧ (chainMember s = true → chainFenced s = false → (∀ p x, (partOf s p).epochs.moult = some x → x.chain = false) →
      (manifestForm b = false → leaves (.manifestVerify b) s)
      ∧ (manifestForm b = true → answers (.manifestVerify b) s (fun t => memoriesKept s t
        ∧ (manifestAuth s b = none → t.stw.chainMan = some (parseManifest b))
        ∧ (manifestAuth s b ≠ none → t.stw = s.stw ∧ ∃ e, t.events = s.events ++ [e] ∧ e.code = 0x8010#16)))))
  ∧ (∀ (p : PartId) (epoch img sum : Bytes) (index len : Nat) (m : Moult) (y : ShardPlace) (s : State),
    chainMember s = false → (partOf s p).epochs.moult = some m → m.man.digest = epoch → m.mode ≠ 1 → index ∉ m.passed →
    m.man.shards.find? (fun x => x.1 == index) = some (index, len, sum) → shardPlace s p index = some y →
    let bank := if m.mode = 2 then (partOf s p).epochs.comBank else (partOf s p).epochs.incBank
    (∀ f, shardFault (digestMode s) y len sum img = some f →
      exec (.shardArrive (some p) epoch index img) s = .next (rejectShard s (shardVault s p y) index y img f))
    ∧ (shardFault (digestMode s) y len sum img = none → (∃ x ∈ m.man.shards, x.1 ≠ index ∧ x.1 ∉ m.passed) →
      let ys := y :: copiesOf s p index
      (∀ (i j : Nat) a b, ys[i]? = some a → ys[j]? = some b → i ≠ j → shardVault s p a = shardVault s p b →
        apart (bankOff a bank) img.length (bankOff b bank) img.length = true) →
      answers (.shardArrive (some p) epoch index img) s (fun t =>
        (∀ z ∈ ys, vaultRead t (shardVault s p z) (bankOff z bank) img.length = img)
        ∧ (∀ k, k ∉ ys.map (shardVault s p) → (clOf t k).vault = (clOf s k).vault)
        ∧ ∃ m', (partOf t p).epochs.moult = some m' ∧ m'.passed = m.passed ++ [index] ∧ m'.man = m.man)))
  ∧ (∀ (cl : ClusterId) (p : Nat) (s : State), (digestMode s = false → leaves (.scrubPass cl) s)
    ∧ (((siteSt s (cl.val / 16)).powered = false ∨ (clOf s cl).selfRetain = true ∨ (clOf s cl).clocksOff = true) → leaves (.scrubPass cl) s)
    ∧ (digestMode s = true → (siteSt s (cl.val / 16)).powered = true → (clOf s cl).selfRetain = false → (clOf s cl).clocksOff = false →
      sitePart s (cl.val / 16) = some p → let e' := (partOf s p).epochs
      let coming := fun (d : Bytes) => e'.incoming.any (fun m => m.digest == d) && !e'.committed.any (fun m => m.digest == d)
      answers (.scrubPass cl) s (fun t => memoriesKept s t ∧ ∀ e ∈ (clOf s cl).shards,
        (shardWhole s cl e = true → (e.1, e.2.1, e.2.2.1, e.2.2.2.1, e.2.2.2.2.1, s.units) ∈ (clOf t cl).shards)
        ∧ (shardWhole s cl e = false → e ∉ (clOf t cl).shards ∧ (coming e.1 = false → e.2.1 ∈ (partOf t p).epochs.missing)
          ∧ (coming e.1 = true → ∀ m, (partOf t p).epochs.moult = some m → e.2.1 ∉ m.passed)))))
  ∧ ∀ (req : DapReq) (v : Byte) (se : Session) (s : State), canWrite s req 0x5310 8 (leBytes 1 v.toNat) se → v.toNat ≤ 1 →
    writes (.chainFence req v) s req 0x5310 8 (leBytes 1 v.toNat) se (fun _ t => obj t 0x5310 8 = v.toNat ∧ memoriesKept s t
      ∧ (v = 1 → t.stw.staged = [] ∧ t.stw.chainState = 0))

/-- INSTAR_BATCH_DONE, CHECKPOINT and INSTAR_EXPORT (R338 to R342, R344, R346, R383): a batch leaves the queue with its gradients
and targets and enters the job's Plate with its loss; a LAST batch takes the optimiser step, or skips it; a checkpoint is counted
and dated, and the one at STEPS ends the job; an export waits for the optimiser step in flight. Model's choices: log entries 69,
142. -/
def Obligations.InstarSteps : Prop :=
  (∀ (p : PartId) (losses grads : List F32) (s : State) (j : Job) (i : Instar) (b : InstarBatch) (rest : List InstarBatch),
    jobOf s p = some j → j.instar = some i → i.waiting = b :: rest → j.running = true → j.restarting = false → holdsCompute s = false →
    ckptDue s i = false → i.exportDue = false →
    let i' := { i with waiting := rest, targets := i.targets + b.targets, tensors := putGrads grads i.tensors }
    let chain := foldChain j.chain 0x20 (leBytes 4 b.number ++ leBytes 4 (sum32 losses).toNat ++ sha256 (b.tokens ++ b.segs ++ b.loss))
    answers (.instarBatchDone p losses grads) s (fun t => memoriesKept s t ∧ ∃ j', jobOf t p = some j'
      ∧ (b.last = false → j'.instar = some i' ∧ j'.chain = chain)
      ∧ (b.last = true → j'.instar = some (lastUpdate i').1
          ∧ j'.chain = foldChain chain 0x21 (leBytes 4 (i.step + 1) ++ leBytes 1 (if (lastUpdate i').2 then 1 else 0)))))
  ∧ (∀ (p : PartId) (s : State) (j : Job) (i : Instar), jobOf s p = some j → j.instar = some i → ckptDue s i = true →
    portUp s j.port = true →
    let params := match j.file.bind (fun f => f.body.instar) with | some x => sectionParams x | none => 0
    (ckptImage (idVariant i.desc) i.step params (idDigest i.desc) i.tensors).length ≤ leAt i.desc 0x78 8 →
    (i.step ≠ idSteps i.desc → answers (.checkpoint p) s (fun t => memoriesKept s t
      ∧ ∃ n, instarOf t p = some { i with ckpts := i.ckpts + 1, lastCkpt := some i.step, ckptBatch := n, saved := i.tensors }))
    ∧ (i.step = idSteps i.desc → answers (.checkpoint p) s (fun t => jobOf t p = none ∧ (partOf t p).clearing = true ∧ spadsKept s t)))
  ∧ ∀ (req : DapReq) (p : PartId) (se : Session) (s : State) (i : Instar), canWrite s req 0x5120 1 (leBytes 1 p) se →
    instarOf s p = some i → stewardUp s = true →
    writes (.instarExport req (BitVec.ofNat 8 p)) s req 0x5120 1 (leBytes 1 p) se (fun w t =>
      (i.targets = 0 → t = exportNow w p) ∧ (i.targets ≠ 0 → instarOf t p = some { i with exportDue := true } ∧ memoriesKept s t))

/-! ## Faults -/

/-- STEP_REPLAY, STEP_WATCHDOG and JOB_RESTART (R351, R359 to R361, R365, R367): a failure within REPLAY_MAX replays the step,
which counts once more and starts its cores at the step's first command with their queues empty; the first trip of the watchdog
replays, a second asks for the pattern test of every core of the region; a restart that nothing holds runs the job from step 0 in
the placement that keeps work off every fence, with its requests resumed and their tokens kept; a held one waits. Model's choices:
log entries 65, 70. -/
def Obligations.FailuresAreAnswered : Prop :=
  (∀ (p : PartId) (f : FaultReport) (s : State) (j : Job), jobOf s p = some j → j.running = true → j.frozen = false →
    j.restarting = false → let r := regionRun s p f.region; r.busy = true →
    ((f.code = 0x3020 ∨ f.code = 0x5050) → exec (.stepReplay p f) s = .next (restartBegin s p f.code.toNat))
    ∧ (f.code ≠ 0x3020 → f.code ≠ 0x5050 → f.granule = none → r.replays < obj s 0x4400 2 → f.region < j.regions.length →
      answers (.stepReplay p f) s (fun t => (regionRun t p f.region).replays = r.replays + 1
        ∧ (regionRun t p f.region).trapped = (r.trapped ++ f.trapped).eraseDups ∧ (regionRun t p f.region).busy = true
        ∧ (∃ e ∈ t.events, e.code = 0x5053#16) ∧ t.reqs = s.reqs ∧ spadsKept s t
        ∧ ∀ l x, j.file = some l → placeStreams l j.detour = [x] → let c := relCore s p (x.rx, x.ry)
            c ∈ regionCores s p f.region → (coreOf t c).run = true ∧ (coreOf t c).cmdIndex = BitVec.ofNat 32 x.first.toNat
              ∧ (coreOf t c).meq = [] ∧ (coreOf t c).veq = [] ∧ (coreOf t c).seqe = [] ∧ (coreOf t c).teq = [])))
  ∧ (∀ (p : PartId) (region : Nat) (s : State) (j : Job), jobOf s p = some j →
    ((regionRun s p region).busy = false → leaves (.stepWatchdog p region) s)
    ∧ (j.running = true → j.frozen = false → j.restarting = false → (regionRun s p region).busy = true → holdsCompute s = false →
      s.fin.sagWarn = false → (∀ c ∈ regionCores s p region, inForce s (clusterOf c) ≠ 0) →
      answers (.stepWatchdog p region) s (fun t => (∃ e ∈ t.events, e.code = 0x5052#16) ∧ spadsKept s t
        ∧ ((regionRun s p region).trips = 0 → (regionRun t p region).trips = 1 ∧ t.reqs = s.reqs)
        ∧ ((regionRun s p region).trips ≠ 0 → ∀ c ∈ regionCores s p region, c ∈ t.fin.testsDue))))
  ∧ (∀ (p : PartId) (cause : BitVec 16) (s : State) (j : Job) (f : LayoutFile) (n : Nat), jobOf s p = some j → j.file = some f →
    (j.restarting = true → holdsCompute s = true → leaves (.jobRestart p cause) s)
    ∧ (j.running = true → j.frozen = false → j.restarting = false → isBino s p = false → j.instar = none → j.diaPaused = false →
      j.waitHold = false → (recent s 3600 j.restarts).length + 1 ≤ obj s 0x4400 5 → choosePlacement s p f = some n →
      holdsCompute s = false → p.val ∉ s.fin.recoverDue →
      answers (.jobRestart p cause) s (fun t => (∃ e ∈ t.events, e.code = 0x5054#16)
        ∧ (∃ j', jobOf t p = some j' ∧ j'.restarting = false ∧ j'.running = true ∧ j'.nextStep = 0 ∧ j'.detour = n ∧ j'.sweeps = []
          ∧ j'.restarts = recent s 3600 j.restarts ++ [s.units])
        ∧ ∀ h r, reqOf s h = some r → let y := if r.part = p then resumeReq r else r
          ∃ x, reqOf t h = some x ∧ x.st = y.st ∧ x.tokens = r.tokens ∧ x.resumes = y.resumes ∧ x.placed = y.placed)))

/-- BINO_HELLO, SUBP and BINO_TIMEOUT (R386, R387, R389): a hello that matches starts the job, another ends it; a peer's sub-Plate
waits for this module's, lets the head commit where both are equal, and freezes the job where they differ; so do the peer's
announcement of a restart and a due message that does not come. Model's choices: log entry 53. -/
def Obligations.PairsCompareAndFreeze : Prop :=
  ∀ (p : PartId) (s : State) (j : Job), jobOf s p = some j → isBino s p = true → j.running = true →
    (∀ peer : Bytes, j.started = false →
      (binoHelloOk s p j peer = true → (hlOf s (obj s 0x4500 1)).st = 5 →
        answers (.binoHello p peer) s (fun t => t.binoState = 1 ∧ ∃ j', jobOf t p = some j' ∧ j'.started = true ∧ j'.running = true))
      ∧ ((binoHelloOk s p j peer = false ∨ (hlOf s (obj s 0x4500 1)).st ≠ 5) →
        answers (.binoHello p peer) s (fun t => jobOf t p = none ∧ ∃ e ∈ t.events, e.code = 0x5061#16)))
    ∧ (∀ msg : Bytes, j.frozen = false → msg.length = 64 → leAt msg 0 4 = 0x50425553 → leAt msg 0x30 16 = 0 →
      let region := leAt msg 4 4; let step : W64 := BitVec.ofNat 64 (leAt msg 8 8); let sum := sliceB msg 0x10 32
      let f := fun (e : W64 × Nat × Bytes) => e.1 == step && e.2.1 == region
      (region = 0xFFFFFFFF → answers (.subp p msg) s (fun t => t.binoState = 2 ∧ ∃ j', jobOf t p = some j' ∧ j'.frozen = true))
      ∧ (region ≠ 0xFFFFFFFF → j.subOwn.find? f = none → answers (.subp p msg) s (fun t => memoriesKept s t
          ∧ jobOf t p = some { j with subPeer := j.subPeer ++ [(step, region, sum)] }))
      ∧ (region ≠ 0xFFFFFFFF → j.subPeer.find? f = none → ∀ a, j.subOwn.find? f = some a →
        (a.2.2 = sum → headOf j = some region →
          answers (.subp p msg) s (fun t => memoriesKept s t ∧ ∃ j', jobOf t p = some j' ∧ j'.subOk = some step ∧ j'.frozen = false))
        ∧ (a.2.2 ≠ sum → answers (.subp p msg) s (fun t => t.binoState = 2 ∧ (∃ e ∈ t.events, e.code = 0x5060#16)
          ∧ ∃ j', jobOf t p = some j' ∧ j'.frozen = true))))
    ∧ (j.subOwn = [] → leaves (.binoTimeout p) s)
    ∧ (j.subOwn ≠ [] → j.frozen = false → answers (.binoTimeout p) s (fun t => t.binoState = 2
        ∧ (∃ e ∈ t.events, e.code = 0x5060#16) ∧ ∃ j', jobOf t p = some j' ∧ j'.frozen = true))

/-- UNIT_FENCED, UNFENCE, PATTERN_TEST_DONE, PATROL and EVENT_RECORD (R104, R352, R354, R362 to R364, R371, R372): a fenced core
is closed, in the table with its cause, and reported; a core that passes its test is open and out of the table again; a core that
passes its pattern test is no longer awaited and is normal again, or suspect while it holds a margin step (log entry 130), one
that fails is fenced; the patrol counts what it corrected; the oldest record leaves its raiser for the Steward's log, past the
rate only for a counter. Model's choices: log entry 68. -/
def Obligations.FencesAndRecords : Prop :=
  (∀ (c : CoreId) (cause : BitVec 16) (s : State), let u : W32 := BitVec.ofNat 32 (coreUnit c 0 0); let k := clusterOf c
    coreFenced s c = false → clusterFenced s k = false → siteFenced s (siteOf c) = false → s.stw.fences.length < 256 →
    answers (.unitFenced u cause) s (fun t => coreFenced t c = true ∧ localClosed t c = true
      ∧ (∃ f ∈ t.stw.fences, f.unit = u ∧ f.cause = cause) ∧ ∃ e ∈ t.events, e.code = 0x5050#16 ∧ e.unit = u))
  ∧ (∀ (c : CoreId) (req : DapReq) (se : Session) (s : State), let u : W32 := BitVec.ofNat 32 (coreUnit c 0 0)
    canWrite s req 0x4400 6 (leBytes 4 u.toNat) se → fenced s u.toNat = true → clusterFenced s (clusterOf c) = false →
    stewardUp s = true →
    writes (.unfence req u true) s req 0x4400 6 (leBytes 4 u.toNat) se (fun _ t => coreFenced t c = false ∧ localClosed t c = false
      ∧ fenced t u.toNat = false ∧ memoriesKept s t))
  ∧ (∀ (c : CoreId) (pass : Bool) (s : State), (c.val ∉ s.fin.testsDue → leaves (.patternTestDone c pass) s)
    ∧ (c.val ∈ s.fin.testsDue → answers (.patternTestDone c true) s (fun t => c.val ∉ t.fin.testsDue
        ∧ onlyCore { s with fin := t.fin } t c ∧ (coreOf t c).forceDup = false ∧ (∀ off, off ≠ 0x360 → creg t c off = creg s c off)
        ∧ bitsOf (creg t c 0x360) 27 26 = (if (coreOf s c).railSteps + (coreOf s c).swallowSteps = 0 then 0 else 1)))
    ∧ (c.val ∈ s.fin.testsDue → coreFenced s c = false → clusterFenced s (clusterOf c) = false → siteFenced s (siteOf c) = false →
      s.stw.fences.length < 256 → answers (.patternTestDone c false) s (fun t => coreFenced t c = true
        ∧ bitsOf (creg t c 0x360) 27 26 = 3 ∧ ∃ e ∈ t.events, e.code = 0x5032#16)))
  ∧ (∀ (cl : ClusterId) (ecc : EccObs) (s : State), let k := cl.val
    (((siteSt s (k / 16)).powered = false ∨ (clOf s k).selfRetain = true ∨ (clOf s k).clocksOff = true) → leaves (.patrol cl ecc) s)
    ∧ ((siteSt s (k / 16)).powered = true → (clOf s k).selfRetain = false → (clOf s k).clocksOff = false →
      (ecc.ue = [] → ecc.ce2 = 0 → answers (.patrol cl ecc) s (fun t => onlyCluster s t k ∧ (clOf t k).vault = (clOf s k).vault
        ∧ kreg t k 0x30 = bumpField (kreg s k 0x30) 63 32 ecc.ce1
        ∧ kreg t k 0x38 = bumpField (bumpField (kreg s k 0x38) 31 0 ecc.ce1) 63 32 1
        ∧ kreg t k 0x10 = bumpField (kreg s k 0x10) 63 32 (Config.vaultCap / 256)))
      ∧ ((∃ g ∈ ecc.ue, 8 * g < Config.vaultCap) → answers (.patrol cl ecc) s (fun t => ∃ e ∈ t.events, e.code = 0x4011#16))))
  ∧ ∀ (s : State) (e : EventRec) (rest : List EventRec), s.events = e :: rest → stewardUp s = true →
    let n := match s.stw.secCounts.find? (fun x => x.1 == stewardSecond s && x.2.1 == e.code.toNat) with | some x => x.2.2 | none => 0
    ((n < obj s 0x4400 7 ∨ e.sev = 3) → answers .eventRecord s (fun t => t.events = rest ∧ memoriesKept s t
      ∧ ∃ l, t.stw.log.getLast? = some l ∧ l.ev = e ∧ l.hostTime = s.stw.hostPair.map (fun h => h.2)))
    ∧ (obj s 0x4400 7 ≤ n → e.sev ≠ 3 → answers .eventRecord s (fun t => t.events = rest ∧ t.stw.log = s.stw.log
      ∧ obj t 0x4402 1 = satAdd32 (obj s 0x4402 1) 1 ∧ memoriesKept s t))

/-! ## Power -/

/-- The main input (R398, R409, R411 to R415, R462, R463, R468): a fall below SAG_WARN is reported, halves the cap in force and
goes to every control core; its return ends that; a fall below SAG_RESET holds class W with the vaults kept, a loss of REFCLK
class M, an over-voltage class C with every site off; a collapse during a held reset makes it class C; without the main input the
module is in STANDBY; a division writes each cluster the share that the cap in force gives it. Model's choices: log entries 18,
87. -/
def Obligations.MainInputEvents : Prop :=
  ∀ s : State, s.fin.standby12 = true → s.fin.reen = none →
    (∀ mv, s.fin.sagWarn = false → (obj s 0x4700 3 ≤ mv → leaves (.sagWarn mv) s)
      ∧ (mv < obj s 0x4700 3 → answers (.sagWarn mv) s (fun t => t.fin.sagWarn = true ∧ capInForce t = capInForce s / 2
        ∧ bitOf (ireg t 64 0x1200) 1 = true ∧ t.ctrl.length = s.ctrl.length + 1056 ∧ t.cores = s.cores ∧ t.clusters = s.clusters
        ∧ ∃ e, t.events = s.events ++ [e] ∧ e.code = 0x1010#16)))
    ∧ (s.fin.sagWarn = false → leaves .sagClear s)
    ∧ (s.fin.sagWarn = true → answers .sagClear s (fun t => t.fin.sagWarn = false ∧ bitOf (ireg t 64 0x1200) 1 = false
        ∧ memoriesKept s t ∧ ∃ e ∈ t.events, e.code = 0x1012#16))
    ∧ (∀ pb : F32, isFinite32 pb = true → let u := updFin s (fun f => { f with pBase := toRat32 pb })
        let a := max 0 (capInForce u - u.fin.pBase); let total : Nat := (u.clusters.map (fun e => bitsOf (kreg u e.1 0x18) 6 0)).sum
        answers (.shareDivide pb) s (fun t => memoriesKept s t ∧ t.fin.pBase = toRat32 pb
          ∧ ∀ k ∈ divided u, (clOf t k).finderShare = BitVec.ofNat 7 (shareOf u a total k)))
    ∧ (∀ pb : F32, isFinite32 pb = false → leaves (.shareDivide pb) s)
    ∧ (s.fin.held = none → s.fin.ready = true →
        (∀ mv, mv < obj s 0x4700 4 → answers (.sagReset mv) s (fun t => t.fin.held = some (1, 0x1011) ∧ t.fin.heldSupply = true
          ∧ t.cores = [] ∧ (∀ k, (clOf t k).vault = (clOf s k).vault) ∧ ∃ e ∈ t.events, e.code = 0x1011#16))
        ∧ (∀ mv, obj s 0x4700 4 ≤ mv → leaves (.sagReset mv) s)
        ∧ answers .refclkFail s (fun t => t.fin.held = some (2, 0x3042) ∧ t.cores = [] ∧ t.ccs = [] ∧ t.wl = [] ∧ t.reqs = []
          ∧ (∀ k, (clOf t k).vault = (clOf s k).vault))
        ∧ (∀ mv, 59000 < mv → answers (.overvoltage mv) s (fun t => t.fin.held = some (3, 0x1013) ∧ t.fin.ioPowered = false
          ∧ t.cores = [] ∧ ∀ d, (siteSt t d).powered = false))
        ∧ (∀ mv, mv ≤ 59000 → leaves (.overvoltage mv) s)
        ∧ leaves .inputCollapse s)
    ∧ (∀ c, (s.fin.held = some (1, c) ∨ s.fin.held = some (2, c)) →
        answers .inputCollapse s (fun t => t.fin.held = some (3, 0x1014) ∧ ∀ d, (siteSt t d).powered = false))
    ∧ answers .mainInputLoss s (fun t => t.fin.pwr = 3 ∧ t.fin.held = none ∧ t.fin.phase = 0 ∧ t.fin.ready = false ∧ t.cores = []
        ∧ t.reqs = [] ∧ t.fin.standbyCommanded = s.fin.standbyCommanded ∧ ∀ d, (siteSt t d).powered = false)

/-- Sites (R396, R397, R417 to R422): a site that loses its lock or trips is fenced and reported, its clocks or its power are off;
a re-energise is refused for its reason, or opens the window and ramps the site; the window's close, the end and the failures of
the sequence leave the site as R420 to R422 say. The rail of a cluster (R400, R424 to R429): the loss of one phase limits its MEs
to 48, of two stops its clocks, of three or four loses its contents; a droop swallows 8/32 or 24/32 of the site's clocks, until it
is settled; every 100 µs the AVS setpoint follows the slack within 550 and 850 mV, and the target is the setpoint with the margin.
Model's choices: log entries 88, 89, 107, 158. -/
def Obligations.SitesTripAndRailsFollow : Prop :=
  ((∀ (site : SiteId) (under : Bool) (s : State), let d := site.val
    ((siteSt s d).powered = false → leaves (.siteTrip site under) s ∧ leaves (.meridianUnlock site) s)
    ∧ ((siteSt s d).powered = true → bitOf (dreg s d 0x300) 31 = true → answers (.meridianUnlock site) s (fun t =>
        bitOf (dreg t d 0x300) 31 = false ∧ bitOf (dreg t d 0x300) 30 = true ∧ siteFenced t d = true
        ∧ (∀ i, i < 16 → (clOf t (16 * d + i)).clocksOff = true) ∧ ∃ e ∈ t.events, e.code = 0x3040#16))
    ∧ ((siteSt s d).powered = true → s.fin.reen = none → answers (.siteTrip site under) s (fun t => (siteSt t d).powered = false
        ∧ siteStateOf t d = 2 ∧ siteFenced t d = true ∧ bitsOf (sitePwr t d) 15 8 = min (bitsOf (sitePwr s d) 15 8 + 1) 255
        ∧ ∃ e ∈ t.events, e.code = 0x1030#16 ∧ byteAt e.detail 1 = if under then 2 else 1)))
  ∧ (∀ (req : DapReq) (site : SiteId) (se : Session) (probe : RampResult) (s : State), let d := site.val
    canWrite s req 0x4700 5 (leBytes 1 d) se →
    writes (.reEnergise req (BitVec.ofNat 8 d) probe) s req 0x4700 5 (leBytes 1 d) se (fun w t =>
      (∀ r, reenReason s d = some r → t = refuseReen w d r)
      ∧ (reenReason s d = none →
        (probe = .ok → t.fin.reen = some (d, 2, true) ∧ (siteSt t d).powered = true ∧ siteStateOf t d = 4)
        ∧ (probe = .noSettle → t.fin.reen = some (d, 1, true) ∧ (siteSt t d).powered = true ∧ siteStateOf t d = 4)
        ∧ (probe = .probeFail → t.fin.reen = none ∧ (siteSt t d).powered = false ∧ siteStateOf t d = 0)
        ∧ ((probe = .tripOver ∨ probe = .tripUnder) → t.fin.reen = none ∧ (siteSt t d).powered = false ∧ siteStateOf t d = 2
          ∧ ∃ e ∈ t.events, e.code = 0x1030#16))))
  ∧ (∀ s : State, s.fin.reen = none → leaves .reenergiseWindowClose s ∧ leaves .reenergiseSettleTimeout s ∧ leaves (.reenergiseDone []) s)
  ∧ ∀ (s : State) (d : Nat) (w : Bool), d < 64 →
    (s.fin.reen = some (d, 2, true) → answers .reenergiseWindowClose s (fun t => t.fin.reen = some (d, 3, false) ∧ t.fin.reenNear = []
      ∧ t.ctrl.length = s.ctrl.length + 16 * s.fin.reenNear.length ∧ memoriesKept s t))
    ∧ (s.fin.reen = some (d, 1, w) → answers .reenergiseSettleTimeout s (fun t => t.fin.reen = none ∧ (siteSt t d).powered = false
      ∧ siteStateOf t d = 0 ∧ ∃ e ∈ t.events, e.code = 0x1032#16))
    ∧ (s.fin.reen = some (d, 3, w) → answers (.reenergiseDone []) s (fun t => t.fin.reen = none ∧ siteStateOf t d = 1
        ∧ siteFenced t d = false ∧ ∃ e ∈ t.events, e.code = 0x1031#16)
      ∧ ∀ x xs, answers (.reenergiseDone (x :: xs)) s (fun t => t.fin.reen = none ∧ siteStateOf t d = 0 ∧ (siteSt t d).powered = false
        ∧ ∃ e ∈ t.events, e.code = 0x5032#16)))
  ∧ (∀ (cl : ClusterId) (s : State), let k := cl.val; let d := k / 16; let v := kreg s k 0x58
    ((siteSt s d).powered = false → (∀ ps c, leaves (.phaseLost cl ps c) s) ∧ (∀ o, leaves (.droopResponse cl o) s)
      ∧ ∀ b, leaves (.avsUpdate cl b) s)
    ∧ ((siteSt s d).powered = true → ∀ (ps : List (Fin 4)) (c : Fin 3),
      let lost := ps.foldl (fun m p => m ||| 2 ^ p.val) (bitsOf v 19 16)
      (lost = bitsOf v 19 16 → leaves (.phaseLost cl ps c) s)
      ∧ (lost ≠ bitsOf v 19 16 → bitCount lost 4 = 1 → answers (.phaseLost cl ps c) s (fun t => memoriesKept s t
          ∧ bitsOf (kreg t k 0x58) 19 16 = lost ∧ bitsOf (kreg t k 0x58) 15 12 = c.val + 1
          ∧ bitsOf (kreg t k 0x20) 6 0 = min (clOf s k).lth 48 ∧ ∃ e ∈ t.events, e.code = 0x1020#16))
      ∧ (lost ≠ bitsOf v 19 16 → bitCount lost 4 = 2 → answers (.phaseLost cl ps c) s (fun t => (clOf t k).clocksOff = true
          ∧ bitsOf (kreg t k 0x58) 19 16 = lost ∧ ∃ e ∈ t.events, e.code = 0x1021#16))
      ∧ (lost ≠ bitsOf v 19 16 → 3 ≤ bitCount lost 4 → bitOf v 3 = false → answers (.phaseLost cl ps c) s (fun t =>
          (clOf t k).clocksOff = true ∧ (∀ x, clusterOf x = k → (coreOf t x).spad = Mem.empty) ∧ ∃ e ∈ t.events, e.code = 0x1022#16)))
    ∧ ((siteSt s d).powered = true → (clOf s k).clocksOff = false →
      answers (.droopResponse cl .below25) s (fun t => memoriesKept s t ∧ bitOf (kreg t k 0x58) 7 = true ∧ bitsOf (dreg t d 0x308) 20 16 = 8)
      ∧ answers (.droopResponse cl .below45) s (fun t => memoriesKept s t ∧ bitOf (kreg t k 0x58) 7 = true ∧ bitsOf (dreg t d 0x308) 20 16 = 24)
      ∧ answers (.droopResponse cl .above25) s (fun t => memoriesKept s t ∧ bitOf (kreg t k 0x58) 6 = true ∧ t.sites = s.sites)
      ∧ answers (.droopResponse cl .settled) s (fun t => t = { s with sites := t.sites } ∧ bitsOf (dreg t d 0x308) 20 16 = 0)
      ∧ ((ccOf s k).image.isSome = true → (ccOf s k).parked = false → ∀ b : Byte,
        let n := avsNext (bitsOf (kreg s k 0x50) 25 16) b.toNat (clOf s k).slackHigh
        answers (.avsUpdate cl b) s (fun t => memoriesKept s t ∧ bitsOf (kreg t k 0x50) 25 16 = n.1 ∧ (clOf t k).slackHigh = n.2
          ∧ bitsOf (kreg t k 0x58) 27 20 = b.toNat
          ∧ bitsOf (kreg t k 0x58) 37 28 = min 850 (n.1 + 5 * bitsOf (kreg s k 0x50) 12 8)))))

/-! ## Cooling -/

/-- Tray sensors, flow and hot spots (R434 to R442, R444, R445, R450, R451): a reading counts when it is between −20 and 120 °C,
and the third bad one in a row is reported; a pulse of at least 10 µs, 50 µs or more after the last, gives the flow by its period;
a pair of diodes is judged by R438, and a used value at its limit limits the site and swallows 24/32 of its clocks; thermal
resistances move by 1/4,096 of a valid sample's difference; the Almanac steps every hot spot of a site whose power reads; L_th
follows the forecasts, and LOCAL is the lesser of it and what the phases allow. THERMTRIP and the coolant stop (R443, R446 to
R449): a trip opens the site's converter, latches and fences the site, and its latch clears only once all its diodes read below 90
°C; a stop holds compute, puts every vault into self-retain and is reported; its end brings the thermal state back to COLD; a
power-down switches every site off, and flow after it holds a reset of class C. Model's choices: log entries 92, 94, 95, 96. -/
def Obligations.CoolantIsWatched : Prop :=
  (∀ s : State, s.fin.standby12 = true →
    (∀ a b, let n := if (trayReading a).isSome then 0 else s.fin.inletBad + 1
      answers (.traySensorRead a b) s (fun t => t.fin.inlet = trayReading a ∧ t.fin.outlet = trayReading b ∧ t.fin.inletBad = n
        ∧ bitOf (ireg t 64 0x1300) 7 = (trayReading a).isSome ∧ t.cores = s.cores ∧ t.clusters = s.clusters
        ∧ (n = 3 → ∃ e ∈ t.events, e.code = 0x2024#16)))
    ∧ (∀ low u, s.fin.lastPulse = some u →
      (10 ≤ low → u + 150000 ≤ s.units → answers (.flowPulse low) s (fun t => t.fin.flow = pulseFlow s (s.units - u)
        ∧ t.fin.lastPulse = some s.units ∧ t.cores = s.cores ∧ t.clusters = s.clusters))
      ∧ ((low < 10 ∨ s.units < u + 150000) → leaves (.flowPulse low) s))
    ∧ (s.fin.flowLow = true → leaves .flowLow s)
    ∧ (s.fin.flowLow = false → answers .flowLow s (fun t => t.fin.flowLow = true ∧ t.cores = s.cores
        ∧ bitOf (ireg t 64 0x1300) 5 = true ∧ ∃ e ∈ t.events, e.code = 0x2020#16))
    ∧ (heatBalance s = none → leaves .flowImplausible s)
    ∧ (∀ h, heatBalance s = some h → s.fin.useHeat = false → answers .flowImplausible s (fun t => t.fin.useHeat = true
        ∧ t.fin.heatFlow = h ∧ t.cores = s.cores ∧ ∃ e ∈ t.events, e.code = 0x2025#16))
    ∧ (∀ (site : SiteId) (h : Fin 20) a b, let d := site.val
      let x := judge s d h (hotOf s d h) (diode s d h 0 a) (diode s d h 1 b)
      answers (.hotspotRead site h a b) s (fun t => memoriesKept s t
        ∧ (hotOf t d h).a = x.a ∧ (hotOf t d h).b = x.b ∧ (hotOf t d h).used = x.used ∧ (hotOf t d h).trust = x.trust
        ∧ (∀ i, i ≠ h.val → hotOf t d i = hotOf s d i)
        ∧ (∀ u, x.used = some u → hotLimit h ≤ u → (siteSt t d).limited = true ∧ bitsOf (dreg t d 0x308) 12 8 = 24)
        ∧ (∀ u, x.used = some u → h.val < 16 → (siteSt s d).powered = true →
            bitsOf (kreg t (16 * d + h.val) 0x60) 31 16 = tempSteps u)))
    ∧ (let hist := s.fin.pinHist.filter (fun e => decide (s.units < e.1 + unitsPerSec)) ++ [(s.units, (mainPower s : Rat))]
      answers .rthSample s (fun t => memoriesKept s t ∧ t.fin.pinHist = hist
        ∧ (rthSampleOf s false hist = none → rthDie t = rthDie s ∧ t.fin.nDie = s.fin.nDie)
        ∧ (∀ r, rthSampleOf s false hist = some r → rthDie t = rthDie s + (r - rthDie s) / 4096 ∧ t.fin.nDie = s.fin.nDie + 1)
        ∧ (∀ r, rthSampleOf s true hist = some r → rthStack t = rthStack s + (r - rthStack s) / 4096 ∧ t.fin.nStack = s.fin.nStack + 1)))
    ∧ answers .almanacUpdate s (fun t => t = { s with sites := t.sites } ∧ ∀ d, d < 64 →
        (almanacUp s d = false → siteSt t d = siteSt s d)
        ∧ (almanacUp s d = true → ∀ h, h < 20 → hotOf t d h = almanacStep (hotOf s d h) ((calOf s 3).getD (20 * d + h) 0) (inletTemp s)
            (bitsOf (sitePwr s d) 31 16 : Nat)))
    ∧ ∀ (cl : ClusterId) own stack, let k := cl.val; let d := k / 16
      (hotOf s d (k % 16)).forecast = some own → hottest ([16, 17, 18, 19].filterMap (fun h => (hotOf s d h).forecast)) = some stack →
      (siteSt s d).powered = true → (clOf s k).clocksOff = false → (ccOf s k).image.isSome = true → (ccOf s k).parked = false →
      let n := lthNext (clOf s k).lth (clOf s k).coolSince s.units own stack
      answers (.lthUpdate cl) s (fun t => memoriesKept s t ∧ (clOf t k).lth = n.1 ∧ (clOf t k).coolSince = n.2
        ∧ bitsOf (kreg t k 0x20) 6 0 = min n.1 (if bitCount (bitsOf (kreg s k 0x58) 19 16) 4 = 0 then 64 else 48)))
  ∧ ((∀ (site : SiteId) (s : State), let d := site.val; s.fin.standby12 = true →
    ((siteSt s d).tripLatch = true → leaves (.thermtrip site) s)
    ∧ ((siteSt s d).tripLatch = false → s.fin.reen = none → answers (.thermtrip site) s (fun t => (siteSt t d).tripLatch = true
        ∧ thermtripLow t = true ∧ alertLow t = true ∧ (siteSt t d).powered = false ∧ siteStateOf t d = 2 ∧ siteFenced t d = true ∧ ∃ e ∈ t.events, e.code = 0x2040#16))
    ∧ ∀ (req : DapReq) (se : Session), canWrite s req 0x4800 5 (leBytes 1 d) se → (siteSt s d).tripLatch = true → siteCool s d = true →
      writes (.thermtripClear req (BitVec.ofNat 8 d)) s req 0x4800 5 (leBytes 1 d) se (fun _ t => (siteSt t d).tripLatch = false
        ∧ memoriesKept s t ∧ ∀ e, e ≠ d → siteSt t e = siteSt s e))
  ∧ ∀ s : State, s.fin.standby12 = true →
    ((s.fin.stop = true ∨ s.fin.heldOff = true) → leaves .coolantStop s)
    ∧ (s.fin.stop = false → s.fin.heldOff = false → s.fin.reen = none → s.fin.ready = true →
      answers .coolantStop s (fun t => t.fin.stop = true ∧ alertLow t = true ∧ t.fin.stopAt = s.units ∧ (∀ e ∈ t.clusters, e.2.selfRetain = true)
        ∧ bitOf (ireg t 64 0x1300) 4 = true ∧ s.ctrl.length + 1056 ≤ t.ctrl.length ∧ ∃ e ∈ t.events, e.code = 0x2021#16))
    ∧ (s.fin.stop = false → leaves .coolantPowerdown s)
    ∧ (s.fin.stop = true → answers .coolantPowerdown s (fun t => t.fin.stop = false ∧ t.fin.heldOff = true
        ∧ (∀ d, d < 64 → (siteSt t d).powered = false ∧ ((siteSt s d).powered = true → siteStateOf t d = 5))
        ∧ ∃ e ∈ t.events, e.code = 0x2022#16))
    ∧ (s.fin.stop = false → s.fin.heldOff = false → leaves .coolantRestored s)
    ∧ (s.fin.stop = true → answers .coolantRestored s (fun t => t.fin.stop = false ∧ t.fin.thermWarm = false ∧ t.fin.nDie = 0
        ∧ memoriesKept s t ∧ ∃ e ∈ t.events, e.code = 0x2023#16))
    ∧ (s.fin.stop = false → s.fin.heldOff = true → s.fin.held = none → s.fin.reen = none →
      answers .coolantRestored s (fun t => t.fin.heldOff = false ∧ t.fin.held = some (3, 0x2022) ∧ t.cores = [])))

/-! ## Power-up, firmware, Stewards -/

/-- STANDBY_POWER_ON, ECLOSION, SITE_GROUP_ENERGISE, CC_IMAGE_LOAD, READY and EPOCH_RECOVERY (R332, R456 to R461, R482, R571):
standby power begins in STANDBY; Eclosion waits, with an event once, for its conditions, and then powers the I/O dies, whose cores
start in their ROM; the groups come on in order; a core enters an image of the mailbox's digest, and one that fails twice is
reported; the module is READY once every awaited test and recovery is done; a recovery lists the shards that no vault holds whole,
and keeps a retiring epoch where the vaults hold all of it. Model's choices: log entry 106. -/
def Obligations.EclosionProceeds : Prop :=
  (∀ (pins : BitVec 6) (low : Bool) (s : State), (s.fin.standby12 = true → leaves (.standbyPowerOn pins low) s)
    ∧ (s.fin.standby12 = false → answers (.standbyPowerOn pins low) s (fun t => t.fin.standby12 = true ∧ t.fin.pwr = 3
      ∧ t.slotId = pins ∧ t.fin.resetPin = low ∧ t.fin.held = (if low then some (2, 0) else none) ∧ rthDie t = rthDie s
      ∧ rthStack t = rthStack s ∧ t.cores = s.cores ∧ t.parts = s.parts)))
  ∧ (∀ (obs : EclosionObs) (s : State), (s.fin.phase ≠ 0 → leaves (.eclosion obs) s)
    ∧ (s.fin.standby12 = true → s.fin.eclosing = true → s.fin.phase = 0 → s.fin.held = none → s.fin.resetPin = false →
      s.fin.stop = false → s.fin.heldOff = false →
      (∀ n, missingCond obs = some n → s.fin.eclosionWaited = false → answers (.eclosion obs) s (fun t => t.fin.eclosionWaited = true
        ∧ t.fin.phase = 0 ∧ t.fin.ioPowered = s.fin.ioPowered ∧ ∃ e, t.events = s.events ++ [e] ∧ e.code = 0x1050#16
        ∧ byteAt e.detail 0 = n))
      ∧ (missingCond obs = none → answers (.eclosion obs) s (fun t => t.fin.phase = 1 ∧ t.fin.ioPowered = true
        ∧ (∀ i, i < 32 → (ccOf t (1024 + i)).boot = s.units ∧ (ccOf t (1024 + i)).image = none)
        ∧ (∀ n, 1 ≤ n → n ≤ 4 → calOf t n = calWritten s n) ∧ t.sec.idReady = identityOk (ownChain s) ∧ memoriesKept s t))))
  ∧ (∀ (g : Fin 16) (rs : List RampResult) (s : State),
    (rs.length ≠ 4 → exec (.siteGroupEnergise g rs) s = .fault (.illFormed "SITE_GROUP_ENERGISE"))
    ∧ (rs = List.replicate 4 .ok → s.fin.held = none → s.fin.sagWarn = false → s.fin.phase.toNat = (if g = 0 then 1 else 0x0F + g.val) →
      (∀ d ∈ groupSites g, siteFenced s d = false) →
      answers (.siteGroupEnergise g rs) s (fun t => (∀ d ∈ groupSites g, (siteSt t d).powered = true ∧ siteStateOf t d = 1)
        ∧ t.fin.phase.toNat = (if g = 15 then (if stewardUp s then 0x22 else 0x21) else 0x10 + g.val))))
  ∧ (∀ (cc : CcId) (a b : Bytes) (s : State), ((ccOf s cc).mailbox = none → leaves (.ccImageLoad cc a b) s)
    ∧ ∀ m, (ccOf s cc).mailbox = some m → stewardUp s = true → s.fin.held = none →
      (∀ img, goodRead m.2.2.2 m.2.1 a b = some img → answers (.ccImageLoad cc a b) s (fun t => (ccOf t cc).image = some m.2.2.2
        ∧ (ccOf t cc).mailbox = none ∧ (ccOf t cc).failed = false ∧ memRead (ccOf t cc).mem 0 img.length = img ∧ memoriesKept s t))
      ∧ (goodRead m.2.2.2 m.2.1 a b = none → answers (.ccImageLoad cc a b) s (fun t => (ccOf t cc).image = none
        ∧ ∃ e ∈ t.events, e.code = 0x9034#16)))
  ∧ (∀ s : State, (s.fin.phase ≠ 0x22 → leaves .ready s)
    ∧ (s.fin.phase = 0x22 → s.fin.held = none → s.fin.ready = false → testsOpen s = false → s.fin.recoverDue = [] →
      answers .ready s (fun t => t.fin.ready = true ∧ t.fin.phase = 0xFF ∧ t.fin.pwr = 0 ∧ t.fin.eclosing = false ∧ memoriesKept s t
        ∧ ∃ e, t.events = s.events ++ [e] ∧ e.code = 0x1051#16)))
  ∧ ∀ (p : PartId) (s : State), (p.val ∉ s.fin.recoverDue → leaves (.epochRecovery p) s)
    ∧ (p.val ∈ s.fin.recoverDue → (partOf s p).epochs.st = .old → (partOf s p).epochs.incoming = none →
      ∀ m, (partOf s p).epochs.committed = some m → answers (.epochRecovery p) s (fun t => p.val ∉ t.fin.recoverDue
        ∧ (partOf t p).epochs.missing = missingOf s p m ∧ (partOf t p).epochs.moult = none
        ∧ (partOf t p).epochs.committed = some m ∧ memoriesKept s t))
    ∧ (p.val ∈ s.fin.recoverDue → (partOf s p).epochs.st = .newCommitted →
      ∀ m, (partOf s p).epochs.committed = some m → answers (.epochRecovery p) s (fun t => p.val ∉ t.fin.recoverDue
        ∧ (partOf t p).epochs.missing = missingOf s p m ∧ (partOf t p).epochs.committed = some m ∧ memoriesKept s t
        ∧ ∀ r, (partOf s p).epochs.retiring = some r →
            (partOf t p).epochs.retiring = if (missingOf s p r.1).isEmpty then some r else none))

/-- FIRMWARE_BOOT, FIRMWARE_RETRY, FW_UPDATE, CORE_RELOAD, FW_UPDATE_DONE and the rows of the Stewards (R481 to R485, R487 to
R489): a release that passes is the Steward's, and one that fails a check is reported with the check; an update that nothing
refuses begins; a cluster control core parks its duties first, where no more than 64 and no other of its site do; a core takes the
image of the release that it is being brought to and keeps its LOCAL_TIME and its interrupt controller; a failure rolls back; a
handover or a failover makes the other Steward the active one. Model's choices: log entries 108, 109. -/
def Obligations.FirmwareAndStewards : Prop :=
  (∀ (n : WlPort) (rel : Bytes) (s : State), bootWaits s = true → portUp s n = true → let sc := stewardCc s
    let result := fun (t : State) => (relFault rel = none → t.stw.release = some (relDigest rel, relImages rel)
        ∧ (ccOf t sc).image = some (relImage rel 2).2.2.2 ∧ t.stw.bootFailed = false)
      ∧ ∀ k, relFault rel = some k → t.stw.bootFailed = true ∧ ∃ e, t.events = s.events ++ [e] ∧ e.code = 0x8020#16
        ∧ e.detail = BitVec.ofNat 8 n :: BitVec.ofNat 8 k :: zeros 14
    (s.stw.bootFailed = false → answers (.firmwareBoot [(n, rel)]) s result)
    ∧ (s.stw.bootFailed = true → answers (.firmwareRetry [(n, rel)]) s result ∧ leaves (.firmwareBoot [(n, rel)]) s))
  ∧ (∀ (req : DapReq) (addr : W64) (rel : Option Bytes) (se : Session) (s : State), canWrite s req 0x4A00 1 (leBytes 8 addr.toNat) se →
    (carrier req).isSome = true → stewardUp s = true →
    writes (.fwUpdate req addr rel) s req 0x4A00 1 (leBytes 8 addr.toNat) se (fun w t =>
      (∀ r, updateReason s rel = some r → t = updateFailed w r)
      ∧ ∀ b, rel = some b → updateReason s rel = none → t.stw.newRelease = some (relDigest b, relImages b) ∧ t.stw.fwState = 1
        ∧ t.stw.updated = [] ∧ t.stw.release = s.stw.release ∧ memoriesKept s t))
  ∧ (∀ (cc : CcId) (a b : Bytes) (s : State), (s.stw.fwState = 0 → leaves (.coreReload cc a b) s)
    ∧ ∀ r m, imageFor r cc = some m → stewardUp s = true → s.fin.held = none →
      let turn := (s.stw.fwState = 1 ∧ s.stw.newRelease = some r ∧ updateNext s cc = true ∧ (ccOf s cc).image.isSome = true)
        ∨ (s.stw.fwState = 2 ∧ s.stw.release = some r ∧ cc.val ∈ s.stw.updated ∧ cc.val ≠ stewardCc s)
      (turn → cc.val < 1024 → (ccOf s cc).parked = false →
        (mayPark s cc = true → exec (.coreReload cc a b) s = .next (updCc s cc (fun c => { c with parked := true })))
        ∧ (mayPark s cc = false → leaves (.coreReload cc a b) s))
      ∧ ((cc.val < 1024 → (ccOf s cc).parked = true) →
      (s.stw.fwState = 1 → s.stw.newRelease = some r → updateNext s cc = true → (ccOf s cc).image.isSome = true →
        answers (.coreReload cc a b) s (fun t => t.stw.updated = s.stw.updated ++ [cc.val]
          ∧ (∀ img, goodRead m.2.2.2 m.2.1 a b = some img → (ccOf t cc).image = some m.2.2.2 ∧ (ccOf t cc).boot = (ccOf s cc).boot
              ∧ (ccOf t cc).icu = (ccOf s cc).icu ∧ t.stw.fwState = 1)
          ∧ (goodRead m.2.2.2 m.2.1 a b = none → t.stw.fwState = 2 ∧ t.stw.updateFail = true)))
      ∧ (s.stw.fwState = 2 → s.stw.release = some r → cc.val ∈ s.stw.updated → cc.val ≠ stewardCc s →
        ∀ img, goodRead m.2.2.2 m.2.1 a b = some img → answers (.coreReload cc a b) s (fun t => cc.val ∉ t.stw.updated
          ∧ (ccOf t cc).image = some m.2.2.2 ∧ (ccOf t cc).boot = (ccOf s cc).boot ∧ (ccOf t cc).icu = (ccOf s cc).icu))))
  ∧ (∀ s : State, (s.stw.fwState = 0 → leaves .fwUpdateDone s)
    ∧ (stewardUp s = true → s.stw.die = 64 → s.stw.fwState = 1 → (∀ i ∈ runningCcs s, i ∈ s.stw.updated) →
      answers .fwUpdateDone s (fun t => t.stw.release = s.stw.newRelease ∧ t.stw.newRelease = none ∧ t.stw.fwState = 0
        ∧ t.stw.updated = [] ∧ ∃ e ∈ t.events, e.code = 0x9030#16))
    ∧ (stewardUp s = true → s.stw.die = 64 → s.stw.fwState = 2 → s.stw.updated = [] →
      answers .fwUpdateDone s (fun t => t.stw.release = s.stw.release ∧ t.stw.newRelease = none ∧ t.stw.fwState = 0
        ∧ ∃ e, t.events = s.events ++ [e] ∧ e.code = 0x9031#16 ∧ byteAt e.detail 0 = 6)))
  ∧ ∀ s : State, let other := if s.stw.die = 64 then 72 else 64
    (stewardUp s = true → exec .stewardHeartbeat s = .next (updStw s (fun t => { t with lastBeat := s.units })))
    ∧ (s.stw.standbyOk = false → leaves .stewardHandover s ∧ leaves .stewardFailover s)
    ∧ (stewardUp s = true → s.stw.standbyOk = true → stepsInFlight s = false →
      answers .stewardHandover s (fun t => t = { s with stw := t.stw, events := t.events } ∧ t.stw.die = other ∧ t.stw.lastBeat = s.units
        ∧ ∃ e, t.events = s.events ++ [e] ∧ e.code = 0x9032#16))
    ∧ (s.fin.ioPowered = true → s.fin.held = none → s.stw.standbyOk = true → (ccOf s (standbyCc s)).image.isSome = true →
      answers .stewardFailover s (fun t => t.stw.die = other ∧ t.stw.standbyOk = false ∧ t.reqs = s.reqs
        ∧ ∃ e ∈ t.events, e.code = 0x9033#16))

/-! ## Resets and sleep -/

/-- Requests and releases of module resets (R462, R463, R470, R488, R574): a request holds its class with cause 0; class W keeps
the vaults, class M loses the control cores of the I/O dies as well; a low RESET_REQ_N holds class W up to 1 s and class M beyond;
a release records class and cause, with event 0x1052. Model's choices: log entries 85, 106. -/
def Obligations.ResetsAreHeldAndReleased : Prop :=
  ∀ s : State,
    let classW := fun (t : State) => t.fin.held = some (1, 0) ∧ t.cores = [] ∧ ∀ k, (clOf t k).vault = (clOf s k).vault
    let classM := fun (t : State) => t.fin.held = some (2, 0) ∧ t.cores = [] ∧ t.ccs = [] ∧ t.wl = [] ∧ t.reqs = []
      ∧ ∀ k, (clOf t k).vault = (clOf s k).vault
    (s.fin.held = none → leaves .resetRelease s)
    ∧ (∀ cls cause, s.fin.held = some (cls, cause) → answers .resetRelease s (fun t => t.fin.held = none ∧ t.fin.heldSupply = false
        ∧ t.fin.lastClass = cls ∧ t.fin.lastCause = cause ∧ ∃ e ∈ t.events, e.code = 0x1052#16))
    ∧ (s.fin.held = none → s.fin.reen = none →
      (∀ req se, canWrite s req 0x4900 3 [1#8] se → writes (.resetRequestW req) s req 0x4900 3 [1#8] se (fun _ t => classW t))
      ∧ (∀ req se, canWrite s req 0x4900 3 [2#8] se → writes (.resetRequestM req) s req 0x4900 3 [2#8] se (fun _ t => classM t))
      ∧ (s.fin.standby12 = true → ∀ low, (low < 10 → leaves (.resetReqN low) s)
        ∧ (10 ≤ low → low ≤ 1000000 → answers (.resetReqN low) s classW)
        ∧ (1000000 < low → answers (.resetReqN low) s classM))
      ∧ (s.fin.ioPowered = true → answers .bothStewardsLoss s classM))

/-- DIAPAUSE and STANDBY (R463 to R468, R470): entry is refused for its reason, waits for the steps in flight, and then pauses
requests in place and puts the vaults into self-retain; a wake returns the module to RUN and the requests to what they were;
STANDBY ends every job and switches every site off; leaving it begins Eclosion. Model's choices: log entry 105. -/
def Obligations.SleepAndWake : Prop :=
  (∀ (req : DapReq) (se : Session) (s : State), canWrite s req 0x4900 1 [2#8] se → stewardUp s = true → s.fin.diaWait = false →
    writes (.diapauseEnter req) s req 0x4900 1 [2#8] se (fun w t => (∀ r, diaReason s = some r → t = powerRefused w r)
      ∧ (diaReason s = none → stepsInFlight s = true → t.fin.diaWait = true ∧ t.fin.pwr = s.fin.pwr ∧ t.stw.admissionStopped = true)
      ∧ (diaReason s = none → stepsInFlight s = false → s.fin.wakeWait = none → t.fin.pwr = 2 ∧ t.fin.diaWait = false
        ∧ (∀ e ∈ t.clusters, e.2.selfRetain = true) ∧ (∃ e ∈ t.events, e.code = 0x1053#16)
        ∧ ((∀ d, d < 64 → (hlOf s d).st = 0) → ∀ h r, reqOf s h = some r → (r.st = .prefill ∨ r.st = .decode) →
            ∃ x, reqOf t h = some x ∧ x.st = .paused ∧ x.pause = some .diapause ∧ x.pausedFrom = r.st ∧ x.tokens = r.tokens))))
  ∧ (∀ s : State, s.fin.pwr = 2 → s.fin.diaWait = false → s.fin.held = none → s.fin.heldOff = false →
    (∀ n, (wlOf s n).withheld = []) → (∀ p j, jobOf s p = some j → j.wakeRestart = none) →
    let awake := fun (src : Byte) (t : State) => t.fin.pwr = 0 ∧ t.stw.admissionStopped = false
      ∧ (∃ e ∈ t.events, e.code = 0x1054#16 ∧ e.detail = src :: zeros 15)
      ∧ ∀ h r, reqOf s h = some r → r.pause = some .diapause →
          ∃ x, reqOf t h = some x ∧ x.st = r.pausedFrom ∧ x.pause = none ∧ x.tokens = r.tokens
    (∀ req se, canWrite s req 0x4900 1 [0#8] se → writes (.diapauseWake none req) s req 0x4900 1 [0#8] se (fun _ t => awake 1 t))
    ∧ ∀ (n : WlPort) req, s.fin.ioPowered = true → (wlOf s n).st ≠ 7 →
      (bitOf (obj s 0x4900 4) n = true → answers (.diapauseWake (some n) req) s (awake 2))
      ∧ (bitOf (obj s 0x4900 4) n = false → answers (.diapauseWake (some n) req) s (fun t => t.fin = s.fin ∧ t.reqs = s.reqs)))
  ∧ (∀ (req : DapReq) (se : Session) (s : State), canWrite s req 0x4900 1 [3#8] se → byOperator se = false → someSwapping s = false →
    s.fin.pwr ≠ 3 →
    writes (.standbyEnter req) s req 0x4900 1 [3#8] se (fun _ t => t.fin.pwr = 3 ∧ t.fin.standbyCommanded = true
      ∧ (∀ p, jobOf t p = none) ∧ ∀ d, (siteSt t d).powered = false))
  ∧ ∀ s : State, s.fin.pwr = 3 → s.fin.eclosing = false → s.fin.standby12 = true →
    let begins := fun (t : State) => t.fin.eclosing = true ∧ t.fin.standbyCommanded = false ∧ t.fin.lastClass = 3
      ∧ ∃ e ∈ t.events, e.code = 0x1052#16
    (obj s 0x4900 2 = 1 → s.fin.standbyCommanded = false → answers (.standbyExit none) s begins)
    ∧ (obj s 0x4900 2 ≠ 1 → leaves (.standbyExit none) s)
    ∧ ∀ req se, canWrite s req 0x4900 1 [0#8] se → byOperator se = false →
      writes (.standbyExit (some req)) s req 0x4900 1 [0#8] se (fun _ t => begins t)

/-! ## The management agent -/

/-- DAP_SEGMENT, DAP_REASSEMBLY_TIMEOUT, DAP_OPEN, DAP_PROVE, DAP_CLOSE and the ends of time-outs (R490 to R492, R495, R496, R503,
R560): a segment in order joins its message, whose last segment completes it; one out of order and a gap discard the reassembly;
OPEN answers a fresh challenge; PROVE consumes it, and a signature that verifies opens a session; CLOSE and the idle time-out end
it. Model's choices: log entries 52, 56, 62. -/
def Obligations.SessionsOpenAndClose : Prop :=
  (∀ (path : DapPath) (source : Nat) (data : Bytes) (first last : Bool) (s : State),
    let i : Instr := .dapSegment path source data first last
    (s.fin.standby12 = false ∨ path ∈ s.mgmt.quarPaths → leaves i s)
    ∧ (s.fin.standby12 = true → path ∉ s.mgmt.quarPaths →
      (segFields path source data first last = none → exec i s = .next (malformed (dropReasm s path source) path))
      ∧ ∀ f, segFields path source data first last = some f → ∀ before, segBefore s path source f = some before →
        let whole := before ++ f.2.2.2
        (f.2.1 = false → whole.length ≤ 24592 → answers i s (fun t => t = { s with mgmt := t.mgmt }
          ∧ t.mgmt = { (dropReasm s path source).mgmt with reasm := (dropReasm s path source).mgmt.reasm
              ++ [Reassembly.mk path source ((f.2.2.1 + 1) % 64) whole] }))
        ∧ (f.2.1 = true → whole.length ≤ (if path = .can then 24654 else 24592) → ∀ b,
          b = (if path = .can then whole.take (16 + 8 * leAt whole 0xC 2) else whole) → messageWhole b →
          answers i s (fun t => t = { s with mgmt := t.mgmt }
            ∧ t.mgmt = { (dropReasm s path source).mgmt with inbox := s.mgmt.inbox ++ [(path, source, b)] }))))
  ∧ (∀ (path : DapPath) (source : Nat) (s : State), (reasmAt s path source = none → leaves (.dapReassemblyTimeout path source) s)
    ∧ (reasmAt s path source ≠ none → answers (.dapReassemblyTimeout path source) s (fun t => reasmAt t path source = none
      ∧ (∃ e ∈ t.events, e.code = 0x9010#16)
      ∧ (path = .can ∨ path = .t1s → t.wl = s.wl ∧ getN 0#32 t.mgmt.counters (4 * pathGroup path)
          = BitVec.ofNat 32 (satAdd32 (getN 0#32 s.mgmt.counters (4 * pathGroup path)).toNat 1)))))
  ∧ (∀ (req : DapReq) (body : Bytes) (s : State), let role := byteAt body 0; let fp := sliceB body 8 8; let c := (freeBytes s 32).1
    body.length = 16 → role ≤ 2 → leAt body 1 7 = 0 → listens s req 0x01 body →
    (fp ∈ s.mgmt.locked → answers (.dapOpen req body) s (fun t => answered t req stLocked [] ∧ t.mgmt.challenges = s.mgmt.challenges))
    ∧ (fp ∉ s.mgmt.locked → role < 2 → credKey s role fp = none → answers (.dapOpen req body) s (fun t => answered t req stCredential []
        ∧ t.mgmt.challenges = s.mgmt.challenges))
    ∧ (fp ∉ s.mgmt.locked → (role < 2 → credKey s role fp ≠ none) →
      (s.mgmt.challenges.filter (fun e => !sameOpen e req && e.path == req.path)).length < 4 →
      answers (.dapOpen req body) s (fun t => answered t req stOk (c ++ leBytes 8 Config.idrev.toNat)
        ∧ t.mgmt.challenges = s.mgmt.challenges.filter (fun e => !sameOpen e req)
          ++ [Challenge.mk req.path req.source req.txn (BitVec.ofNat 8 role) fp c (mgmtTime s)])))
  ∧ (∀ (req : DapReq) (cert : Bytes) (c : Challenge) (s : State), listens s req 0x02 (cert ++ req.sig) → req.sig.length = 7856 →
    s.mgmt.challenges.find? (fun e => sameOpen e req) = some c → mgmtTime s ≤ c.at_ + 1000000000 → c.fp ∉ s.mgmt.locked →
    s.mgmt.sessions.length < 8 →
    let opened := fun (key : Bytes) (t : State) => answered t req stOk (leBytes 4 s.mgmt.nextSession.toNat) ∧ ∃ se,
      t.mgmt.sessions = s.mgmt.sessions ++ [se] ∧ se.num = s.mgmt.nextSession ∧ se.role.val = c.role.toNat % 3 ∧ se.fp = c.fp
      ∧ se.key = key ∧ se.chal = c.chal ∧ se.path = req.path ∧ se.source = req.source ∧ se.seq = 0#32
    (c.role ≠ 2#8 → cert = [] → ∀ key, credKey s c.role.toNat c.fp = some key → answers (.dapProve req cert) s (fun t =>
      t.mgmt.challenges = s.mgmt.challenges.filter (fun e => !sameOpen e req)
      ∧ (Config.sigVerify 128 key (proveBytes c req.path) req.sig = true → opened key t)
      ∧ (Config.sigVerify 128 key (proveBytes c req.path) req.sig = false → answered t req stSignature [])))
    ∧ (c.role = 2#8 → cert.length = 7936 → answers (.dapProve req cert) s (fun t =>
      t.mgmt.challenges = s.mgmt.challenges.filter (fun e => !sameOpen e req)
      ∧ (makerOk s cert c.fp = true → Config.sigVerify 128 (cKey cert) (proveBytes c req.path) req.sig = true → opened (cKey cert) t)
      ∧ (makerOk s cert c.fp = false → answered t req stCredential [] ∧ ∃ e ∈ t.events, e.code = 0x8054#16))))
  ∧ (∀ (req : DapReq) (se : Session) (s : State), asks s req 0x03 [] se → answers (.dapClose req) s (fun t => answered t req stOk []
    ∧ t.mgmt.sessions = s.mgmt.sessions.filter (fun e => e.num != req.session)
    ∧ (s.sec.debugBy = some req.session → t.sec.debugOpen = false)))
  ∧ ∀ s : State, (∀ n : BitVec 32, answers (.sessionIdleTimeout n) s (fun t =>
      t.mgmt.sessions = s.mgmt.sessions.filter (fun e => e.num != n)))
    ∧ (∀ (path : DapPath) (source : Nat) (txn : BitVec 16), answers (.challengeTimeout path source txn) s (fun t =>
      t = { s with mgmt := { s.mgmt with
        challenges := s.mgmt.challenges.filter (fun c => !(c.path == path && c.source == source && c.txn == txn)) } }))
    ∧ (∀ fp : Bytes, answers (.credentialUnlock fp) s (fun t =>
      t = { s with mgmt := { s.mgmt with locked := t.mgmt.locked } } ∧ ∀ x, x ∈ t.mgmt.locked ↔ x ∈ s.mgmt.locked ∧ x ≠ fp))
    ∧ ∀ path : DapPath, answers (.pathQuarantineEnd path) s (fun t =>
      t = { s with mgmt := { s.mgmt with quarPaths := t.mgmt.quarPaths, excess := t.mgmt.excess } }
      ∧ (∀ x, x ∈ t.mgmt.quarPaths ↔ x ∈ s.mgmt.quarPaths ∧ x ≠ path) ∧ lookupN t.mgmt.excess (pathKey path) = none)

/-- DAP_READ, DAP_WRITE, AUDIT_EXPORT and AUDIT_ACK (R496, R498, R501, R502, R505): a read answers the object's bytes, or says
that it does not exist or that the role may not read it; a write in range and state is recorded, answered and applied, and one out
of range is recorded with its status; an export answers entries in order with the chain value after the last and a signature; an
acknowledgement whose chain value matches frees the entries up to it. What an accepted write of an object leaves before its effect
(R492, R496, R498 to R500): the answer OK goes to its path and source, the session's counter is the request's and its time is now,
and one entry has joined the audit log; nothing but the agent's own state and the events differs. Model's choices: log entry 61.
-/
def Obligations.ObjectsAndGrantedWritesAreRecorded : Prop :=
  ((∀ (req : DapReq) (body : Bytes) (se : Session) (s : State), let ix := leAt body 0 2; let sub := byteAt body 2
    let u := asked s req 0x10 body
    asks s req 0x10 body se → body.length = 8 → byteAt body 3 = 0 →
    (objAt ix sub = none → exec (.dapRead req body) s = .next (respond u req stNoObject []))
    ∧ ∀ o, objAt ix sub = some o →
      (mayRead o se.role.val = true → o.kind ≠ 3 → exec (.dapRead req body) s = .next (respond u req stOk (objBytes u ix sub)))
      ∧ (mayRead o se.role.val = true → o.kind = 3 →
          exec (.dapRead req body) s = .next (respond u req stOk (objPart u ix sub (leAt body 4 4) 4096)))
      ∧ (mayRead o se.role.val = false → answers (.dapRead req body) s (fun t => answered t req stAccess []
          ∧ ∃ e ∈ t.events, e.code = 0x9011#16)))
  ∧ (∀ (req : DapReq) (ix sub : Nat) (value : Bytes) (se : Session) (s : State), let body := writeBody ix sub value
    let u := asked s req 0x11 (body ++ req.sig)
    canWrite s req ix sub value se → value.length ≤ 16384 → ownRow ix sub = false →
    writes (.dapWrite req body) s req ix sub value se (fun w t =>
      (plainCheck ix sub value true u = stOk → t = plainApply ix sub value w)
      ∧ (plainCheck ix sub value true u ≠ stOk → t = refuseWrite u req se.role.val se.fp ix sub (oldValue s ix sub) value
          (plainCheck ix sub value true u))))
  ∧ (∀ (req : DapReq) (body : Bytes) (se : Session) (s : State), let count := leAt body 4 4; let u := asked s req 0x20 body
    asks s req 0x20 body se → body.length = 8 → 1 ≤ count → count ≤ 64 → se.role ≠ 0 →
    (auditAt s (leAt body 0 4) = none → exec (.auditExport req body) s = .next (respond u req stRange []))
    ∧ ∀ i, auditAt s (leAt body 0 4) = some i → s.sec.idReady = true → ∀ e, ((s.mgmt.audit.drop i).take count).getLast? = some e →
      let b := ((s.mgmt.audit.drop i).take count).flatMap (fun e => e.1) ++ e.2
      exec (.auditExport req body) s = .next (respond u req stOk (b ++ identSign (leBytes 8 Config.idrev.toNat ++ b))))
  ∧ ∀ (req : DapReq) (body : Bytes) (se : Session) (s : State) (i : Nat) (e : Bytes × Bytes), asks s req 0x21 (body ++ req.sig) se →
    req.sig.length = 7856 → body.length = 40 → leAt body 4 4 = 0 → se.role = 1 → s.mgmt.storeFail = false →
    auditAt s (leAt body 0 4) = some i → s.mgmt.audit[i]? = some e →
    ∃ t, exec (.auditAck req body) s = .next t
      ∧ (signedOk se req 0x21 body = true → e.2 = sliceB body 8 32 → answered t req stOk []
          ∧ (∃ k, k ≠ [] ∧ t.mgmt.audit = s.mgmt.audit.drop (i + 1) ++ k) ∧ ∃ x ∈ t.events, x.code = 0x9022#16)
      ∧ (signedOk se req 0x21 body = true → e.2 ≠ sliceB body 8 32 → answered t req stDigest [])
      ∧ (signedOk se req 0x21 body = false → answered t req stSignature []))
  ∧ (∀ (s : State) (r : DapReq) (ix sub : Nat) (value : Bytes) (se : Session), canWrite s r ix sub value se → let w := granted s r ix sub value se
    w = {
      s with
      mgmt := w.mgmt, events := w.events }
    ∧ w.mgmt.out = s.mgmt.out ++ [{ path := r.path, source := r.source, service := 0x11#8, txn := r.txn, session := r.session, seq := r.seq
                                    status := 0, body := [] }]
    ∧ sessionFor w r = some { se with seq := r.seq, lastAt := mgmtTime s }
    ∧ (∃ e h, (auditCount s ≠ 4094 → w.mgmt.audit = s.mgmt.audit ++ [(e, h)] ∧ w.mgmt.auditHead = some h)
        ∧ h = sha256 (auditHead s ++ e) ∧ e.length = 64)
    ∧ w.mgmt.creds = s.mgmt.creds)

/-! ## Security -/

/-- PUBLISHER_CERT, PUBLISHER_FP, QUOTE_REQUEST, QUOTE_ISSUED and MAKER_EPOCH_MIN (R557 to R562, R568): a publisher's certificate
that an enrolled installer issued is kept and clears the entry's fingerprint, which must be that of the certificate's key; a quote
is requested under a nonce and issued with the module's state and signature; raising MAKER_EPOCH_MIN closes older maker sessions.
DEBUG_UNLOCK, DEBUG_LOCK and DEBUG_DMI (R563, R564): a maker whose certificate names this module opens debug, unless a job runs or
waits or the identity is not ready, and then the request tables and scratchpads are cleared; a lock closes it; a debug module
access is refused while debug is closed, and answers at its target and address with a status of 0 to 2, a write with its data.
Model's choices: log entries 11, 57, 110, 111. -/
def Obligations.SecurityObjectsAndDebug : Prop :=
  ((∀ (req : DapReq) (n : Fin 8) (c : Bytes) (se : Session) (s : State),
    (c.length ≠ 7936 → exec (.publisherCert req n c) s = .fault (.illFormed "PUBLISHER_CERT"))
    ∧ (c.length = 7936 → canWrite s req 0x4E10 (n.val + 1) c se → writes (.publisherCert req n c) s req 0x4E10 (n.val + 1) c se (fun w t =>
      (leNat c ≠ 0 → publisherOk s c = true → t = { w with sec := t.sec } ∧ lookupN t.sec.certs n.val = some c
        ∧ lookupN t.sec.fps n.val = none)
      ∧ (leNat c = 0 → lookupN t.sec.certs n.val = none ∧ lookupN t.sec.fps n.val = none)
      ∧ (leNat c ≠ 0 → publisherOk s c = false → t.sec = s.sec ∧ answered t req stRange []))))
  ∧ (∀ (req : DapReq) (n : Fin 8) (fp : Bytes) (se : Session) (s : State),
    (fp.length ≠ 8 → exec (.publisherFp req n fp) s = .fault (.illFormed "PUBLISHER_FP"))
    ∧ (fp.length = 8 → canWrite s req 0x5304 (n.val + 1) fp se → writes (.publisherFp req n fp) s req 0x5304 (n.val + 1) fp se (fun w t =>
      (∀ c, lookupN s.sec.certs n.val = some c → fpOf (cKey c) = fp → leNat fp ≠ 0 → t = { w with sec := t.sec }
        ∧ lookupN t.sec.fps n.val = some fp ∧ t.sec.certs = s.sec.certs)
      ∧ (leNat fp = 0 → lookupN t.sec.fps n.val = none)
      ∧ (leNat fp ≠ 0 → (∀ c, lookupN s.sec.certs n.val = some c → fpOf (cKey c) ≠ fp) → t.sec = s.sec ∧ answered t req stRange []))))
  ∧ (∀ (req : DapReq) (nonce : Bytes) (se : Session) (s : State), canWrite s req 0x4E20 1 nonce se → nonce.length = 32 →
    writes (.quoteRequest req nonce) s req 0x4E20 1 nonce se (fun w t =>
      (s.sec.idReady = true → s.sec.quoteSt ≠ 1 → t = { w with sec := { w.sec with quoteSt := 1, nonce := nonce } })
      ∧ (s.sec.idReady = false ∨ s.sec.quoteSt = 1 → t.sec = s.sec ∧ answered t req stState [])))
  ∧ (∀ s : State, (s.sec.quoteSt ≠ 1 → leaves .quoteIssued s)
    ∧ (s.sec.quoteSt = 1 → s.sec.nonce.length = 32 → answers .quoteIssued s (fun t => t = { s with sec := t.sec, events := t.events }
      ∧ t.sec.quoteSt = 2 ∧ t.sec.quote = quoteFields s s.sec.nonce ++ identSign (quoteFields s s.sec.nonce)
      ∧ leAt t.sec.quote 0 4 = 0x544F5551 ∧ leAt t.sec.quote 8 8 = Config.idrev.toNat ∧ sliceB t.sec.quote 0x20 32 = s.sec.nonce
      ∧ ∃ e, t.events = s.events ++ [e] ∧ e.code = 0x8050#16)))
  ∧ ∀ (req : DapReq) (v : Byte) (se : Session) (s : State), canWrite s req 0x4E00 4 [v] se →
    writes (.makerEpochMin req v) s req 0x4E00 4 [v] se (fun _ t =>
      (makerEpoch s ≤ v.toNat → v.toNat ≤ 64 → t.sec.makerEpoch = some v.toNat ∧ ∀ e ∈ t.mgmt.sessions, e.role = 2 → v.toNat ≤ e.epoch)
      ∧ (v.toNat < makerEpoch s ∨ 64 < v.toNat → t.sec = s.sec ∧ answered t req stRange [])))
  ∧ ((∀ (req : DapReq) (se : Session) (s : State), canWrite s req 0x4E30 1 [1#8] se →
    writes (.debugUnlock req 1#8) s req 0x4E30 1 [1#8] se (fun w t =>
      (se.serial = false → answered t req stAccess [] ∧ (s.sec.debugOpen = false → t.sec = s.sec))
      ∧ (se.serial = true → debugRefused s = true → answered t req stState [] ∧ t.sec = s.sec)
      ∧ (se.serial = true → debugRefused s = false → s.sec.debugOpen = false → t.sec.debugOpen = true ∧ t.sec.debugSince = true
        ∧ t.sec.debugBy = some se.num ∧ t.reqs = [] ∧ alertLow t = true ∧ (∀ c, (coreOf t c).spad = Mem.empty)
        ∧ ∃ e ∈ t.events, e.code = 0x8051#16)
      ∧ (se.serial = true → debugRefused s = false → s.sec.debugOpen = true → t = w)))
  ∧ (∀ (req : DapReq) (v : Byte) (se : Session) (s : State), canWrite s req 0x4E30 2 [v] se →
    writes (.debugLock req v) s req 0x4E30 2 [v] se (fun w t =>
      (v = 0#8 → t.sec.debugOpen = false ∧ (s.sec.debugOpen = false → t = w) ∧ (s.sec.debugOpen = true → ∃ e ∈ t.events, e.code = 0x8052#16))
      ∧ (v ≠ 0#8 → t.sec = s.sec ∧ answered t req stRange [])))
  ∧ ∀ (req : DapReq) (v : Bytes) (se : Session) (s : State), canWrite s req 0x4E30 4 v se → v.length = 16 →
    (byteAt v 12 = 1 ∨ byteAt v 12 = 2) → leAt v 13 3 = 0 →
    writes (.debugDmi req v) s req 0x4E30 4 v se (fun w t =>
      (s.sec.debugOpen = false → answered t req stState [] ∧ t.sec = s.sec)
      ∧ (s.sec.debugOpen = true → t = { w with sec := { w.sec with dmi := t.sec.dmi }, free := t.free } ∧ t.sec.dmi.length = 16
        ∧ sliceB t.sec.dmi 0 8 = sliceB v 0 8 ∧ (byteAt v 12 = 2 → sliceB t.sec.dmi 8 4 = sliceB v 8 4) ∧ byteAt t.sec.dmi 12 ≤ 2)))

/-! ## Wenlink -/

/-- WL_DETECT, WL_TRAIN, WL_CAPABILITY, WL_DOWN, WL_RETRAIN, WL_TAP_ADAPT, WL_QUARANTINE_END, PORT_RELEASE and PORT_HOLD_EXPIRE
(R519 to R522, R533, R535): four lanes or more bring a port to training at the lower generation; a lock on all lanes or on the low
four brings it to CONFIG; a good capability block brings it UP; a failure goes DOWN at the lowest generation; the third retrain of
a WARM port in 60 s is a quarantine, and a held one ends by release only. Model's choices: log entries 32, 100, 102. -/
def Obligations.WenlinkPortsChangeState : Prop :=
  (∀ (n : WlPort) (lanes : Byte) (s : State), let w := wlOf s n
    (portAlive s n = false ∨ 2 ≤ w.st.val → leaves (.wlDetect n lanes) s)
    ∧ (portAlive s n = true → w.st.val < 2 →
      (laneCount lanes < 4 → answers (.wlDetect n lanes) s (fun t => onlyPort s t n ∧ wlOf t n = { w with present := true }))
      ∧ (4 ≤ laneCount lanes → answers (.wlDetect n lanes) s (fun t => onlyPort s t n
        ∧ wlOf t n = { w with present := true, st := 2, gen := Fin.ofNat 4 (trainGen s n), failures := 0 }))))
  ∧ (∀ (n : WlPort) (obs : TrainObs) (s : State), let w := wlOf s n
    (w.st ≠ 2 → w.st ≠ 3 → leaves (.wlTrain n obs) s)
    ∧ (w.st = 2 ∨ w.st = 3 →
      (∀ lanes, obs = .locked lanes → 4 ≤ laneCount lanes → answers (.wlTrain n obs) s (fun t =>
        wlOf t n = { w with
            st := 4, lanes := if lanes = 0xFF then 0xFF else 0x0F, failures := 0, unacked := [(0, sliceB (ownCapability s n) 0 248)],
            txSeq := 1, rxSeq := 0, rx := [], lastAck := none }
        ∧ (lanes = 0xFF → onlyPort s t n) ∧ (lanes ≠ 0xFF → raised s t 0x7013)))
      ∧ (∀ lanes, obs = .locked lanes → laneCount lanes < 4 → answers (.wlTrain n obs) s (fun t => wentDown s t n))
      ∧ (obs = .failed → w.gen.val ≤ 1 → answers (.wlTrain n obs) s (fun t => wentDown s t n))
      ∧ (obs = .failed → 2 ≤ w.gen.val → answers (.wlTrain n obs) s (fun t => onlyPort s t n
        ∧ wlOf t n = { w with
            st := 2, gen := if w.failures = 0 then w.gen else Fin.ofNat 4 (w.gen.val - 1), failures := if w.failures = 0 then 1 else 0 }))))
  ∧ (∀ (n : WlPort) (b : Bytes) (s : State), ((wlOf s n).st ≠ 4 → leaves (.wlCapability n b) s)
    ∧ ((wlOf s n).st = 4 →
      (capabilityOk b = false → answers (.wlCapability n b) s (fun t => wlCounted s t n 0 ∧ ((wlOf t n).st = 1 ∨ (wlOf t n).st = 7)
        ∧ raised s t 0x7020))
      ∧ (capabilityOk b = true → timeKept s n (BitVec.ofNat 64 (leAt b 0x20 8)) → answers (.wlCapability n b) s (fun t =>
        (wlOf t n).st = 5 ∧ (wlOf t n).partnerGen.toNat = byteAt b 5 ∧ (wlOf t n).bootAddr.toNat = leAt b 0x10 8
        ∧ (wlOf t n).bootLen.toNat = leAt b 0x18 8 ∧ (wlOf t n).gen.val = min (wlOf s n).gen.val (byteAt b 5)
        ∧ (wlOf t n).lastHostTime = some (BitVec.ofNat 64 (leAt b 0x20 8)) ∧ raised s t 0x7010))))
  ∧ (∀ (n : WlPort) (s : State), let w := wlOf s n
    ((w.st = 0 ∨ w.st = 7) → answers (.wlDown n) s (fun t => onlyPort s t n ∧ wlOf t n = { w with present := false }))
    ∧ (w.st ≠ 0 → w.st ≠ 7 → answers (.wlDown n) s (fun t => wentDown s t n ∧ (wlOf t n).present = false))
    ∧ (w.st ≠ 5 ∨ w.tapsWarm = true → leaves (.wlTapAdapt n) s)
    ∧ (w.st = 5 → w.tapsWarm = false → answers (.wlTapAdapt n) s (fun t => onlyPort s t n
      ∧ wlOf t n = { w with updates := w.updates + 1, tapsWarm := decide (16777216 ≤ w.updates + 1) }))
    ∧ (w.st ≠ 7 ∨ w.held = true → leaves (.wlQuarantineEnd n) s)
    ∧ (w.st = 7 → w.held = false → answers (.wlQuarantineEnd n) s (fun t => onlyPort s t n ∧ wlOf t n = { w with st := 1 }))
    ∧ (w.st ≠ 0 → leaves (.portHoldExpire n) s)
    ∧ (w.st = 0 → answers (.portHoldExpire n) s (fun t => onlyPort s t n ∧ wlOf t n = { w with queues := [], area := none, images := [] })))
  ∧ (∀ (n : WlPort) (good : Bool) (s : State), let w := wlOf s n; let i : Instr := .wlRetrain n good
    let ends := fun (t : State) => (good = true → (wlOf t n).st = 5 ∧ raised s t 0x7010) ∧ (good = false → wentDown s t n)
    (w.st ≠ 5 → w.st ≠ 6 → leaves i s)
    ∧ (w.st = 6 → answers i s ends)
    ∧ (w.st = 5 → (w.tapsWarm = false ∨ (recent s 60 w.retrainTimes).length < 2) → answers i s (fun t => ends t ∧ raised s t 0x7012
      ∧ (w.tapsWarm = true → wlCounted s t n 7)))
    ∧ (w.st = 5 → w.tapsWarm = true → 2 ≤ (recent s 60 w.retrainTimes).length → answers i s (fun t => (wlOf t n).st = 7
      ∧ (wlOf t n).queues = [] ∧ wlCounted s t n 7 ∧ raised s t 0x7012 ∧ raised s t 0x7021)))
  ∧ ∀ (req : DapReq) (port : Byte) (se : Session) (s : State), canWrite s req 0x4D00 5 [port] se →
    writes (.portRelease req port) s req 0x4D00 5 [port] se (fun w t =>
      (15 < port.toNat → answered t req stRange [] ∧ t.wl = s.wl)
      ∧ (port.toNat ≤ 15 → (wlOf s port.toNat).st = 7 → onlyPort w t port.toNat
        ∧ wlOf t port.toNat = { wlOf s port.toNat with st := 1, held := false })
      ∧ (port.toNat ≤ 15 → (wlOf s port.toNat).st ≠ 7 → t = w))

/-- WL_FLIT and WL_REPLAY_TIMEOUT (R522 to R525): a flit of a wrong CRC or number is answered NAK, and one in order is
acknowledged and adds its payload, from which a whole message is taken; its ACKSEQ frees what it covers; a replay is counted, and
the eighth without progress on a port that is UP starts RETRAIN. Model's choices: log entries 29, 101. -/
def Obligations.WenlinkFlitsArrive : Prop :=
  (∀ (n : WlPort) (f : Bytes) (s : State), let w := wlOf s n; let i : Instr := .wlFlit n f
    (f.length ≠ 256 → exec i s = .fault (.illFormed "WL_FLIT"))
    ∧ (f.length = 256 → w.st ≠ 4 → w.st ≠ 5 → leaves i s)
    ∧ (f.length = 256 → w.st = 4 ∨ w.st = 5 →
      (flitCrc f = false → answers i s (fun t => onlyPort s t n ∧ wlOf t n = { w with
          lastAck := some (true, w.rxSeq - 1), err := BitVec.ofNat 64 (bumpField w.err.toNat 63 32 1) }))
      ∧ (flitCrc f = true → flKind f = 2 → answers i s (fun t => onlyPort s t n ∧ wlOf t n = wlAcked w (flAck f)
          ∧ (wlOf t n).unacked = unackedAfter (flAck f) w.unacked))
      ∧ (flitCrc f = true → flKind f = 1 → flSeq f ≠ w.rxSeq.toNat → answers i s (fun t => onlyPort s t n
          ∧ wlOf t n = { wlAcked w (flAck f) with lastAck := some (true, w.rxSeq - 1) }))
      ∧ (flitCrc f = true → flKind f = 1 → flSeq f = w.rxSeq.toNat →
        (w.st = 4 → answers i s (fun t => onlyPort s t n
          ∧ wlOf t n = { wlAcked w (flAck f) with rxSeq := w.rxSeq + 1, lastAck := some (false, w.rxSeq) }))
        ∧ (w.st = 5 → let rx := w.rx ++ flPayload f; leAt rx 4 4 ≤ 4096 → let used := alignUp (16 + leAt rx 4 4) 248
          (rx.length < used → answers i s (fun t => onlyPort s t n
            ∧ wlOf t n = { wlAcked w (flAck f) with rxSeq := w.rxSeq + 1, lastAck := some (false, w.rxSeq), rx := rx }))
          ∧ (used ≤ rx.length → messageOk rx = true → (w.rate.1 = s.units / (unitsPerSec / 1000) → w.rate.2 < 65536) →
            answers i s (fun t => onlyPort s t n ∧ (wlOf t n).rx = rx.drop used ∧ (wlOf t n).rxSeq = w.rxSeq + 1
              ∧ (wlOf t n).lastAck = some (false, w.rxSeq) ∧ (wlOf t n).st = 5
              ∧ (wlOf t n).unacked = unackedAfter (flAck f) w.unacked))))))
  ∧ ∀ (n : WlPort) (s : State), let w := wlOf s n
    ((w.st ≠ 4 ∧ w.st ≠ 5) ∨ w.unacked = [] → leaves (.wlReplayTimeout n) s)
    ∧ (w.unacked ≠ [] → (w.st = 4 ∨ (w.st = 5 ∧ w.replays < 7 ∧ (recent s 1 w.replayTimes).length < 1024)) →
      answers (.wlReplayTimeout n) s (fun t => onlyPort s t n ∧ (wlOf t n).replays = w.replays + 1 ∧ (wlOf t n).unacked = w.unacked
        ∧ (wlOf t n).st = w.st ∧ (wlOf t n).err = BitVec.ofNat 64 (bumpField w.err.toNat 31 16 1)))
    ∧ (w.unacked ≠ [] → w.st = 5 → 7 ≤ w.replays → w.tapsWarm = false → answers (.wlReplayTimeout n) s (fun t => (wlOf t n).st = 6
      ∧ (wlOf t n).replays = 0 ∧ (wlOf t n).unacked = w.unacked ∧ raised s t 0x7012))

/-- CPL, MRD_TIMEOUT, WL_DOORBELL, STAMP, QCREATE, QDELETE and PARK_AREA (R464, R525 to R533, R535): data of a read's length
reaches what it was read for, and an error or a time-out fails a request; a doorbell moves its queue's index, is withheld in
DIAPAUSE, and is a violation where R528 forbids it; queues and parking areas are made and taken away with QSTAT's answer. Model's
choices: log entries 73, 99. -/
def Obligations.WenlinkTransactions : Prop :=
  (∀ (n : WlPort) (tag : BitVec 16) (data : Bytes) (s : State),
    ((wlOf s n).st ≠ 5 → ∀ e, leaves (.cpl n tag e data) s)
    ∧ ((wlOf s n).st = 5 → readAt s n tag = none → ∀ e, answers (.cpl n tag e data) s (fun t => wlCounted s t n 2 ∧ t.reqs = s.reqs))
    ∧ ((wlOf s n).st = 5 → ∀ r, readAt s n tag = some r →
      (∀ q w, r.2.2.2 = .entry q → queueAt s q.toNat = some w → data.length = r.2.2.1 → answers (.cpl n tag false data) s (fun t =>
        readAt t n tag = none ∧ queueAt t q.toNat = some { w with ready := true } ∧ t.reqs = s.reqs))
      ∧ (∀ h x, r.2.2.2 = .prompt h → reqOf s h.val = some x → data.length = r.2.2.1 → answers (.cpl n tag false data) s (fun t =>
        memoriesKept s t ∧ ∃ y, reqOf t h.val = some y ∧ y.prompt = x.prompt ++ wordsOf data ∧ y.st = x.st
        ∧ (rPromptLen x ≤ y.prompt.length → y.fetching = x.fetching - 1 ∧ readAt t n tag = none)))
      ∧ (∀ h x, r.2.2.2 = .maskBits h → reqOf s h.val = some x → data.length = r.2.2.1 → answers (.cpl n tag false data) s (fun t =>
        memoriesKept s t ∧ ∃ y, reqOf t h.val = some y ∧ y.mask = some (x.mask.getD [] ++ data) ∧ y.st = x.st))
      ∧ (∀ h x, r.2.2.2 = .stopRec h → reqOf s h.val = some x → data.length = r.2.2.1 → answers (.cpl n tag false data) s (fun t =>
        memoriesKept s t ∧ reqOf t h.val = some { x with
          fetching := x.fetching - 1
          stop := stopFields data x.maxNew (reservedFor (rPromptLen x + x.maxNew)) (rPromptLen x) }))
      ∧ (∀ h x, (r.2.2.2 = .prompt h ∨ r.2.2.2 = .maskBits h ∨ r.2.2.2 = .stopRec h) → reqOf s h.val = some x → reqFinal x = false →
        answers (.cpl n tag true data) s (fun t => endedAs t h.val .failed)
        ∧ answers (.mrdTimeout n tag) s (fun t => endedAs t h.val .failed ∧ wlCounted s t n 3)))
    ∧ (readAt s n tag = none → leaves (.mrdTimeout n tag) s))
  ∧ (∀ (n : WlPort) (q : BitVec 16) (index : W32) (time : W64) (s : State), let i : Instr := .wlDoorbell n q index time
    ((wlOf s n).st ≠ 5 → leaves i s)
    ∧ ((wlOf s n).st = 5 → s.fin.pwr = 2 → answers i s (fun t => onlyPort s t n
      ∧ wlOf t n = { wlOf s n with withheld := (wlOf s n).withheld ++ [(q, index, time)] }))
    ∧ ((wlOf s n).st = 5 → s.fin.pwr ≠ 2 → timeKept s n time → q.toNat / 4096 = n.val →
      (queueAt s q.toNat = none → answers i s (fun t => wlCounted s t n 1 ∧ t.reqs = s.reqs))
      ∧ ∀ w, queueAt s q.toNat = some w →
        (doorbellBad w index = true → answers i s (fun t => wlCounted s t n 1 ∧ t.reqs = s.reqs))
        ∧ (doorbellBad w index = false → w.kind = 1 → answers i s (fun t => queueAt t q.toNat = some { w with tail := index }
          ∧ (wlOf t n).lastHostTime = some time ∧ (index ≠ w.head → w.ready = false → entryAwaited t q.toNat = true)
          ∧ t.reqs = s.reqs ∧ memoriesKept s t))
        ∧ (doorbellBad w index = false → w.kind ≠ 1 → answers i s (fun t => (wlOf t n).lastHostTime = some time ∧ memoriesKept s t
          ∧ ∃ x, queueAt t q.toNat = some x ∧ x.head = index ∧ x.kind = w.kind))))
  ∧ (∀ (n : WlPort) (time : W64) (s : State), ((wlOf s n).st ≠ 5 → leaves (.stamp n time) s)
    ∧ ((wlOf s n).st = 5 → timeKept s n time → answers (.stamp n time) s (fun t => t = { s with wl := t.wl, stw := t.stw }
      ∧ wlOf t n = { wlOf s n with lastHostTime := some time }
      ∧ t.stw.hostPair = (if stewardUp s then some (BitVec.ofNat 64 (stewardTime s), time) else s.stw.hostPair)))
    ∧ ((wlOf s n).st = 5 → ∀ old, (wlOf s n).lastHostTime = some old → time.toNat < old.toNat → answers (.stamp n time) s (fun t =>
      wlCounted s t n 1 ∧ (wlOf t n).lastHostTime = some old ∧ t.stw.hostPair = s.stw.hostPair)))
  ∧ (∀ (n : WlPort) (tag : BitVec 16) (b : Bytes) (s : State), let q := leAt b 0 2
    let stat := fun (code : Byte) (t : State) => HostMsg.qstat tag code ∈ (wlOf t n).out
    (b.length ≠ 32 → exec (.qcreate n tag b) s = .fault (.illFormed "QCREATE"))
    ∧ (b.length = 32 → (wlOf s n).st ≠ 5 → leaves (.qcreate n tag b) s)
    ∧ (b.length = 32 → (wlOf s n).st = 5 →
      (qcreateOk n b = false → answers (.qcreate n tag b) s (fun t => stat 1 t ∧ wlCounted s t n 4))
      ∧ (qcreateOk n b = true → queueAt s q ≠ none → answers (.qcreate n tag b) s (fun t => onlyPort s t n ∧ stat 3 t
        ∧ (wlOf t n).queues = (wlOf s n).queues))
      ∧ (qcreateOk n b = true → queueAt s q = none → windowOpen s n (byteAt b 3) = false →
        answers (.qcreate n tag b) s (fun t => stat 4 t ∧ wlCounted s t n 4))
      ∧ (qcreateOk n b = true → queueAt s q = none → windowOpen s n (byteAt b 3) = true →
        answers (.qcreate n tag b) s (fun t => stat 0 t ∧ memoriesKept s t ∧ ∃ w, queueAt t q = some w ∧ w.kind.toNat = byteAt b 2
          ∧ w.part.toNat = byteAt b 3 ∧ w.entries.toNat = leAt b 4 4 ∧ w.base.toNat = leAt b 8 8 ∧ w.indexAddr.toNat = leAt b 0x10 8
          ∧ w.head = 0)))
    ∧ (b.length ≠ 8 → exec (.qdelete n tag b) s = .fault (.illFormed "QDELETE"))
    ∧ (b.length = 8 → (wlOf s n).st ≠ 5 → leaves (.qdelete n tag b) s)
    ∧ (b.length = 8 → (wlOf s n).st = 5 →
      (lookupN (wlOf s n).queues q = none → answers (.qdelete n tag b) s (fun t => stat 1 t ∧ wlCounted s t n 4))
      ∧ ∀ w, lookupN (wlOf s n).queues q = some w → q / 4096 = n.val →
        ((queueNamed s q = true ∨ w.head ≠ w.tail) → answers (.qdelete n tag b) s (fun t => stat 2 t ∧ wlCounted s t n 4))
        ∧ (queueNamed s q = false → w.head = w.tail → answers (.qdelete n tag b) s (fun t => onlyPort s t n ∧ stat 0 t
          ∧ queueAt t q = none))))
  ∧ ∀ (n : WlPort) (tag : BitVec 16) (base len : W64) (s : State), let i : Instr := .parkArea n tag base len
    let stat := fun (code : Byte) (t : State) => HostMsg.qstat tag code ∈ (wlOf t n).out
    ((wlOf s n).st ≠ 5 → leaves i s)
    ∧ ((wlOf s n).st = 5 →
      (base.toNat % 4096 ≠ 0 ∨ len.toNat % 4096 ≠ 0 ∨ (len = 0 ∧ base ≠ 0) → answers i s (fun t => stat 1 t ∧ wlCounted s t n 4))
      ∧ (base.toNat % 4096 = 0 → len.toNat % 4096 = 0 → (len = 0 → base = 0) →
        ((wlOf s n).images ≠ [] → (len = 0 ∨ (wlOf s n).area ≠ some (base, len)) → answers i s (fun t => stat 2 t ∧ wlCounted s t n 4))
        ∧ ((wlOf s n).images = [] → answers i s (fun t => onlyPort s t n ∧ stat 0 t
          ∧ (wlOf t n).area = (if len = 0 then none else some (base, len))))))

/-! ## Heliostat -/

/-- HL_DETECT, HL_TRAIN, HL_HELLO, HL_DOWN, HL_RETRAIN, HL_TAP_ADAPT, HL_QUARANTINE_END and HL_PORT_RELEASE (R540, R541, R543,
R545, R549): a live port with four lanes trains, locks at the lower generation and sends its hello; a peer that verifies brings it
to PIPELINE when the versions agree and to TRANSIT otherwise; one that does not, or flags a hold, brings it DOWN; a retrain
returns to the state before; the third of a WARM port in 60 s is a quarantine, and a held one ends by release only. Model's
choices: log entries 28, 100, 112. -/
def Obligations.HeliostatPortsChangeState : Prop :=
  (∀ (d : HlPort) (lanes : Byte) (s : State), let h := hlOf s d
    (hlAlive s d = false ∨ 2 ≤ h.st.val ∨ laneCount lanes < 4 → leaves (.hlDetect d lanes) s)
    ∧ (hlAlive s d = true → h.st.val < 2 → 4 ≤ laneCount lanes → answers (.hlDetect d lanes) s (fun t => onlyHl s t d
      ∧ hlOf t d = { h with st := 2, gen := Fin.ofNat 3 (obj s 0x4D81 (d.val + 1)), failures := 0 })))
  ∧ (∀ (d : HlPort) (obs : TrainObs) (g : Fin 3) (s : State), let h := hlOf s d; let i : Instr := .hlTrain d obs g
    (hlAlive s d = false ∨ h.st ≠ 2 → leaves i s)
    ∧ (hlAlive s d = true → h.st = 2 →
      (∀ lanes, obs = .locked lanes → 4 ≤ laneCount lanes → answers i s (fun t => (hlOf t d).st = 3
        ∧ (hlOf t d).lanes = (if lanes = 0xFF then 0xFF else 0x0F)
        ∧ (hlOf t d).gen.val = (if g = 0 then h.gen.val else min h.gen.val g.val) ∧ (hlOf t d).own = helloBytes s d (freeBytes s 32).1
        ∧ (∃ l, l ≠ [] ∧ (hlOf t d).unacked = h.unacked ++ l ∧ ∀ e ∈ l, e.2.1 = 0) ∧ t = { s with sites := t.sites, free := t.free }))
      ∧ (∀ lanes, obs = .locked lanes → laneCount lanes < 4 → answers i s (fun t => hlWentDown s t d))
      ∧ (obs = .failed → h.gen.val ≤ 1 → answers i s (fun t => hlWentDown s t d))
      ∧ (obs = .failed → 2 ≤ h.gen.val → answers i s (fun t => onlyHl s t d ∧ hlOf t d = { h with gen := 1, failures := 0 }))))
  ∧ (∀ (d : HlPort) (b chain sig : Bytes) (s : State), let h := hlOf s d; let i : Instr := .hlHello d b chain sig
    let same := (sliceB (peerFields b) 16 40 == leBytes 8 Config.idrev.toNat ++ sliceB (fwDigest s) 0 32)
    (h.st ≠ 3 → h.st ≠ 4 → h.st ≠ 5 → leaves i s)
    ∧ (h.st = 3 ∨ h.st = 4 ∨ h.st = 5 →
      (helloForm b = false → answers i s (fun t => hlCounted s t d 0 ∧ raised s t 0x7034))
      ∧ (helloForm b = true → helloFlagsOf b % 8 ≠ 0 → answers i s (fun t => hlWentDown s t d))
      ∧ (helloForm b = true → helloFlagsOf b % 8 = 0 →
        (h.st = 3 → ∃ t, exec i s = .next t
          ∧ (s.sec.idReady = true → peerAuthentic s d b chain sig = true → (hlOf t d).st = (if same then 5 else 4)
            ∧ (hlOf t d).peer = peerFields b ∧ raised s t 0x7030)
          ∧ (s.sec.idReady = false ∨ peerAuthentic s d b chain sig = false → hlCounted s t d 1 ∧ raised s t 0x8040 ∧ raised s t 0x7031
            ∧ (hlOf t d).st = (if (recent s 60 h.authTimes).length < 2 then 0 else 7)))
        ∧ (h.st = 4 → answers i s (fun t => (hlOf t d).st = (if same then 5 else 4) ∧ (hlOf t d).peer = peerFields b
          ∧ (same = true → raised s t 0x7030)))
        ∧ (h.st = 5 → answers i s (fun t => (hlOf t d).peer = peerFields b
          ∧ (same = true → (hlOf t d).st = 5 ∧ (hlOf t d).draining = false)
          ∧ (same = false → hopsCross s d = true → (hlOf t d).st = 5 ∧ (hlOf t d).draining = true)
          ∧ (same = false → hopsCross s d = false → (hlOf t d).st = 4 ∧ raised s t 0x7033))))))
  ∧ (∀ (d : HlPort) (s : State), let h := hlOf s d
    ((h.st = 0 ∨ h.st = 7) → leaves (.hlDown d) s)
    ∧ (h.st ≠ 0 → h.st ≠ 7 → answers (.hlDown d) s (fun t => hlWentDown s t d))
    ∧ ((h.st ≠ 4 ∧ h.st ≠ 5) ∨ h.tapsWarm = true → leaves (.hlTapAdapt d) s)
    ∧ ((h.st = 4 ∨ h.st = 5) → h.tapsWarm = false → answers (.hlTapAdapt d) s (fun t => onlyHl s t d
      ∧ hlOf t d = { h with updates := h.updates + 1, tapsWarm := decide (16777216 ≤ h.updates + 1) }))
    ∧ (h.st ≠ 7 ∨ h.held = true → leaves (.hlQuarantineEnd d) s)
    ∧ (h.st = 7 → h.held = false → answers (.hlQuarantineEnd d) s (fun t => onlyHl s t d ∧ hlOf t d = { h with st := 1 })))
  ∧ (∀ (d : HlPort) (good : Bool) (s : State), let h := hlOf s d; let i : Instr := .hlRetrain d good
    let ends := fun (st : Fin 8) (t : State) => (good = true → (hlOf t d).st = st ∧ (hlOf t d).draining = h.draining ∧ raised s t 0x7030)
      ∧ (good = false → hlWentDown s t d)
    (h.st ≠ 4 → h.st ≠ 5 → h.st ≠ 6 → leaves i s)
    ∧ (h.st = 6 → answers i s (ends h.before))
    ∧ ((h.st = 4 ∨ h.st = 5) → (h.tapsWarm = false ∨ (recent s 60 h.retrainTimes).length < 2) → answers i s (fun t => ends h.st t
      ∧ raised s t 0x7032 ∧ (h.tapsWarm = true → hlCounted s t d 5)))
    ∧ ((h.st = 4 ∨ h.st = 5) → h.tapsWarm = true → 2 ≤ (recent s 60 h.retrainTimes).length → answers i s (fun t => (hlOf t d).st = 7
      ∧ hlCounted s t d 5 ∧ raised s t 0x7032 ∧ raised s t 0x7035)))
  ∧ ∀ (req : DapReq) (port : Byte) (se : Session) (s : State), canWrite s req 0x4D80 4 [port] se →
    writes (.hlPortRelease req port) s req 0x4D80 4 [port] se (fun w t =>
      (63 < port.toNat → answered t req stRange [] ∧ t.sites = s.sites)
      ∧ (port.toNat ≤ 63 → (hlOf s port.toNat).st = 7 → onlyHl w t port.toNat
        ∧ hlOf t port.toNat = { hlOf s port.toNat with st := 1, held := false })
      ∧ (port.toNat ≤ 63 → (hlOf s port.toNat).st ≠ 7 → t = w))

/-- HL_FLIT, HL_REPLAY_TIMEOUT, HOP_HANDOFF, HOP_ACK and HOP_ACK_TIMEOUT (R523, R542, R544, R546 to R549): a flit of a wrong CRC
or number is answered NAK; one in order is acknowledged, and one of a class that the port may not carry is a violation; the eighth
replay without progress is a retrain; a handoff lands at the first region and is acknowledged, again where it repeats; its
acknowledgement ends the last region's step, and without it the step fails. Model's choices: log entries 29, 33, 103, 104. -/
def Obligations.HeliostatFlitsAndHops : Prop :=
  (∀ (d : HlPort) (f : Bytes) (s : State), let h := hlOf s d; let i : Instr := .hlFlit d f
    (f.length ≠ 256 → exec i s = .fault (.illFormed "HL_FLIT"))
    ∧ (f.length = 256 → h.st ≠ 3 → h.st ≠ 4 → h.st ≠ 5 → leaves i s)
    ∧ (f.length = 256 → h.st = 3 ∨ h.st = 4 ∨ h.st = 5 →
      (flitCrc f = false → answers i s (fun t => onlySite s t d ∧ hlOf t d = { h with lastAck := some (true, h.rxSeq - 1) }
        ∧ dreg t d 0x508 = bumpField (dreg s d 0x508) 63 32 1))
      ∧ (flitCrc f = true → (3 < flKind f ∨ 3 < flClass f) → answers i s (fun t => hlCounted s t d 0 ∧ raised s t 0x7034))
      ∧ (flitCrc f = true → flKind f = 2 → flClass f ≤ 3 → answers i s (fun t => (hlOf t d).rxSeq = h.rxSeq ∧ (hlOf t d).st = h.st
        ∧ (hlOf t d).unacked = unackedAfter (flAck f) h.unacked ∧ t = { s with sites := t.sites, stw := t.stw }))
      ∧ (flitCrc f = true → flKind f = 1 → flClass f ≤ 3 → flSeq f ≠ h.rxSeq.toNat → answers i s (fun t => (hlOf t d).rxSeq = h.rxSeq
        ∧ (hlOf t d).lastAck = some (true, h.rxSeq - 1) ∧ (hlOf t d).unacked = unackedAfter (flAck f) h.unacked
        ∧ t = { s with sites := t.sites, stw := t.stw }))
      ∧ (flitCrc f = true → flKind f = 1 → flClass f ≤ 3 → flSeq f = h.rxSeq.toNat →
        (hlClassFault s d (flClass f) = none → answers i s (fun t => (hlOf t d).rxSeq = h.rxSeq + 1 ∧ (hlOf t d).st = h.st
          ∧ (hlOf t d).lastAck = some (false, h.rxSeq) ∧ (hlOf t d).unacked = unackedAfter (flAck f) h.unacked
          ∧ t = { s with sites := t.sites, stw := t.stw }))
        ∧ ∀ k, hlClassFault s d (flClass f) = some k → answers i s (fun t => hlCounted s t d k ∧ raised s t 0x7034))))
  ∧ (∀ (d : HlPort) (s : State), let h := hlOf s d
    ((h.st ≠ 3 ∧ h.st ≠ 4 ∧ h.st ≠ 5) ∨ h.unacked = [] → leaves (.hlReplayTimeout d) s)
    ∧ (h.unacked ≠ [] → (h.st = 3 ∨ ((h.st = 4 ∨ h.st = 5) ∧ h.replays < 7 ∧ (recent s 1 h.replayTimes).length < 1024)) →
      answers (.hlReplayTimeout d) s (fun t => onlySite s t d ∧ (hlOf t d).replays = h.replays + 1 ∧ (hlOf t d).unacked = h.unacked
        ∧ (hlOf t d).st = h.st ∧ dreg t d 0x508 = bumpField (dreg s d 0x508) 31 16 1))
    ∧ (h.unacked ≠ [] → (h.st = 4 ∨ h.st = 5) → 7 ≤ h.replays → h.tapsWarm = false → answers (.hlReplayTimeout d) s (fun t =>
        (hlOf t d).st = 6 ∧ (hlOf t d).before = h.st ∧ (hlOf t d).replays = 0 ∧ (hlOf t d).unacked = h.unacked ∧ raised s t 0x7032)))
  ∧ (∀ (d : HlPort) (p : PartId) (n : W64) (ds ps : List (Slot × Nat × Nat)) (s : State), let i : Instr := .hopHandoff d p n ⟨ds, ps⟩
    let seg := fun (e : Slot × Nat × Nat) => Segment.mk e.1.val e.2.1 e.2.2
    let acks := fun (t : State) => ∃ l, l ≠ [] ∧ (hlOf t d).unacked = (hlOf s d).unacked ++ l ∧ ∀ e ∈ l, e.2.1 = 0
    (hopOn s d p = false → leaves i s)
    ∧ (hopOn s d p = true →
      ((hlOf s d).ackedStep = some n → answers i s (fun t => onlyHl s t d ∧ acks t))
      ∧ ((hlOf s d).ackedStep ≠ some n → ((regionRun s p 0).busy = true ∨ waveAt (regionRun s p 0) = true) → leaves i s)
      ∧ ((hlOf s d).ackedStep ≠ some n → (regionRun s p 0).busy = false → waveAt (regionRun s p 0) = false →
        answers i s (fun t => acks t ∧ (hlOf t d).ackedStep = some n ∧ (regionRun t p 0).stepNum = n
          ∧ (regionRun t p 0).decode = ds.map seg ∧ (regionRun t p 0).prefill = ps.map seg ∧ (regionRun t p 0).pads = 0
          ∧ (∀ r, r ≠ 0 → regionRun t p r = regionRun s p r) ∧ t = { s with sites := t.sites, parts := t.parts }))))
  ∧ ∀ (d : HlPort) (p : PartId) (n : W64) (s : State),
    (jobOf s p = none ∨ hopOn s d p = false → leaves (.hopAck d p n) s ∧ leaves (.hopAckTimeout d p) s)
    ∧ ∀ j, jobOf s p = some j → hopOn s d p = true → let r := hopRegion j; let x := regionRun s p r
      ((hlOf s d).sentStep ≠ some n → answers (.hopAck d p n) s (fun t => hlCounted s t d 4 ∧ raised s t 0x7034))
      ∧ ((hlOf s d).sentStep = some n → (x.busy = false ∨ x.stepNum ≠ n) → leaves (.hopAck d p n) s)
      ∧ ((hlOf s d).sentStep = some n → x.busy = true → x.stepNum = n → x.prefill = [] → (x.decode.map (fun e => e.slot)).Nodup →
        isBino s p = false → answers (.hopAck d p n) s (fun t => (regionRun t p r).busy = false ∧ waveAt (regionRun t p r) = false
          ∧ memoriesKept s t ∧ ∀ h q, reqOf s h = some q → 
            reqOf t h = some (if h ∉ x.decode.map (fun e => e.slot) then q else match q.cycle with
              | none => { q with cached := min (q.cached + 1) (rLength q) }
              | some y => { q with cycle := some { y with verified := true } })))
      ∧ (x.busy = false ∨ (hlOf s d).sentStep ≠ some x.stepNum → leaves (.hopAckTimeout d p) s)
      ∧ (x.busy = true → (hlOf s d).sentStep = some x.stepNum → ∃ s', exec (.hopAckTimeout d p) s
          = .next (failStep s' p r 0x7036 (BitVec.ofNat 32 (dieUnit d 12)) none)
        ∧ onlyHl s s' d ∧ hlOf s' d = { hlOf s d with sentStep := none })
end

