-- ==== Sys2Proof/Laws/Bits.lean ====
section
/-! SUPPORT. Byte strings: a number in n little-endian bytes takes n bytes and is read back from them. -/

namespace Sys2Proof.Machine

@[simp] theorem leBytes_length : ∀ (n v : Nat), (leBytes n v).length = n
  | 0, _ => rfl
  | n + 1, v => by simp [leBytes, leBytes_length n]

@[simp] theorem zeros_length (n : Nat) : (zeros n).length = n := List.length_replicate ..

theorem leNat_leBytes : ∀ (n v : Nat), leNat (leBytes n v) = v % 256 ^ n
  | 0, v => by simp [leBytes, leNat, Nat.mod_one]
  | n + 1, v => by
    simp only [leBytes, leNat, leNat_leBytes n, BitVec.toNat_ofNat, Nat.pow_succ]
    have h := Nat.mod_mul (x := v) (a := 256) (b := 256 ^ n)
    rw [Nat.mul_comm (256 ^ n) 256, h]
    omega

theorem leNat_lt : ∀ b : Bytes, leNat b < 256 ^ b.length
  | [] => by simp [leNat]
  | x :: t => by
    have h := leNat_lt t
    have hx := x.isLt
    simp only [leNat, List.length_cons, Nat.pow_succ]
    omega

/-- A slice has the length asked for, whatever lies past the end. -/
@[simp] theorem sliceB_length (b : Bytes) (off n : Nat) : (sliceB b off n).length = n := by
  simp only [sliceB, List.length_append, List.length_replicate]
  have h : ((b.drop off).take n).length ≤ n := List.length_take_le ..
  omega

/-- Writing a number into n bytes and reading them at the same place gives the number, where it fits. -/
theorem leAt_append (b : Bytes) (n v : Nat) (rest : Bytes) (h : v < 256 ^ n) :
    leAt (b ++ leBytes n v ++ rest) b.length n = v := by
  rw [leAt, List.append_assoc, List.drop_left]
  have e : (leBytes n v ++ rest).take n = leBytes n v := by
    rw [List.take_append_of_le_length (by simp), List.take_of_length_le (by simp)]
  rw [e, leNat_leBytes, Nat.mod_eq_of_lt h]

end Sys2Proof.Machine
end

