-- ==== Sys2Proof/Laws/Fields.lean ====
section
/-! SUPPORT. Bit fields: a field reads as it was written, and a write of one field leaves the bits above and below it. -/

namespace Sys2Proof.Machine

theorem bitsOf_lt (x hi lo : Nat) : bitsOf x hi lo < 2 ^ (hi + 1 - lo) := Nat.mod_lt _ (Nat.two_pow_pos _)

/-- What a field write leaves above the field. -/
theorem setBits_above (x v : Nat) {hi lo : Nat} (h : lo ≤ hi) : setBits x hi lo v / 2 ^ (hi + 1) = x / 2 ^ (hi + 1) := by
  have hw : 2 ^ (hi + 1) = 2 ^ (hi + 1 - lo) * 2 ^ lo := by rw [← Nat.pow_add]; congr 1; omega
  have h1 : v % 2 ^ (hi + 1 - lo) * 2 ^ lo + x % 2 ^ lo < 2 ^ (hi + 1) := by
    rw [hw]
    have a := Nat.mod_lt v (Nat.two_pow_pos (hi + 1 - lo))
    have b := Nat.mod_lt x (Nat.two_pow_pos lo)
    calc v % 2 ^ (hi + 1 - lo) * 2 ^ lo + x % 2 ^ lo < v % 2 ^ (hi + 1 - lo) * 2 ^ lo + 2 ^ lo := by omega
      _ = (v % 2 ^ (hi + 1 - lo) + 1) * 2 ^ lo := by rw [Nat.add_mul, Nat.one_mul]
      _ ≤ 2 ^ (hi + 1 - lo) * 2 ^ lo := Nat.mul_le_mul_right _ a
  unfold setBits
  rw [Nat.add_assoc, Nat.add_comm, Nat.add_mul_div_right _ _ (Nat.two_pow_pos _), Nat.div_eq_of_lt h1, Nat.zero_add]

/-- What it leaves from the field on. -/
theorem setBits_shift (x v : Nat) {hi lo : Nat} (h : lo ≤ hi) :
    setBits x hi lo v / 2 ^ lo = x / 2 ^ (hi + 1) * 2 ^ (hi + 1 - lo) + v % 2 ^ (hi + 1 - lo) := by
  have hw : 2 ^ (hi + 1) = 2 ^ (hi + 1 - lo) * 2 ^ lo := by rw [← Nat.pow_add]; congr 1; omega
  unfold setBits
  rw [hw, ← Nat.mul_assoc, ← Nat.add_mul, Nat.add_comm, Nat.add_mul_div_right _ _ (Nat.two_pow_pos _),
    Nat.div_eq_of_lt (Nat.mod_lt _ (Nat.two_pow_pos _)), Nat.zero_add]

/-- A field reads as the low bits of what was written. -/
@[simp] theorem bitsOf_setBits (x v : Nat) {hi lo : Nat} (h : lo ≤ hi) : bitsOf (setBits x hi lo v) hi lo = v % 2 ^ (hi + 1 - lo) := by
  rw [bitsOf, setBits_shift x v h, Nat.add_comm, Nat.add_mul_mod_self_right, Nat.mod_mod]

/-- The bits below a written field are as before. -/
theorem setBits_below (x v : Nat) {hi lo : Nat} (h : lo ≤ hi) : setBits x hi lo v % 2 ^ lo = x % 2 ^ lo := by
  have hw : 2 ^ (hi + 1) = 2 ^ (hi + 1 - lo) * 2 ^ lo := by rw [← Nat.pow_add]; congr 1; omega
  unfold setBits
  rw [hw, ← Nat.mul_assoc, ← Nat.add_mul, Nat.add_comm, Nat.add_mul_mod_self_right, Nat.mod_mod]

/-- A field above the written one reads as before. -/
theorem bitsOf_setBits_above (x v : Nat) {hi lo h' l' : Nat} (h : lo ≤ hi) (g : hi < l') :
    bitsOf (setBits x hi lo v) h' l' = bitsOf x h' l' := by
  have e : ∀ y, y / 2 ^ l' = y / 2 ^ (hi + 1) / 2 ^ (l' - (hi + 1)) := fun y => by
    rw [Nat.div_div_eq_div_mul, ← Nat.pow_add]; congr 2; omega
  rw [bitsOf, bitsOf, e, e x, setBits_above x v h]

/-- A field below the written one reads as before. -/
theorem bitsOf_setBits_below (x v : Nat) {hi lo h' l' : Nat} (h : lo ≤ hi) (g : h' < lo) :
    bitsOf (setBits x hi lo v) h' l' = bitsOf x h' l' := by
  by_cases hl : l' ≤ h'
  · have e : ∀ y, y / 2 ^ l' % 2 ^ (h' + 1 - l') = y % 2 ^ lo / 2 ^ l' % 2 ^ (h' + 1 - l') := fun y => by
      have d : 2 ^ lo = 2 ^ l' * 2 ^ (lo - l') := by rw [← Nat.pow_add]; congr 1; omega
      rw [d, Nat.mod_mul_right_div_self, Nat.mod_mod_of_dvd _ (Nat.pow_dvd_pow 2 (by omega))]
    rw [bitsOf, bitsOf, e, e x, setBits_below x v h]
  · simp [bitsOf, show h' + 1 - l' = 0 by omega, Nat.mod_one]

end Sys2Proof.Machine
end

