-- ==== Sys2Proof/Laws/Map.lean ====
section
/-! SUPPORT. Sparse tables and byte memories: what a lookup answers after a write, and that every operation keeps the canonical
form. -/

namespace Sys2Proof.Machine

/-! Lookups. -/

@[simp] theorem lookupN_nil {α : Type} (i : Nat) : lookupN ([] : List (Nat × α)) i = none := rfl

@[simp] theorem lookupN_putN_self {α : Type} (i : Nat) (v : α) : ∀ m : List (Nat × α), lookupN (putN m i v) i = some v
  | [] => by simp [putN, lookupN]
  | (k, w) :: t => by
    simp only [putN]
    split
    · simp [lookupN]
    · split
      · simp [lookupN]
      · next h => simp [lookupN, h, lookupN_putN_self i v t]

theorem lookupN_putN_ne {α : Type} {i j : Nat} (h : j ≠ i) (v : α) :
    ∀ m : List (Nat × α), lookupN (putN m i v) j = lookupN m j
  | [] => by simp [putN, lookupN, h]
  | (k, w) :: t => by
    simp only [putN]
    split
    · simp [lookupN, h]
    · split
      · next e => subst e; simp [lookupN, h]
      · simp only [lookupN, lookupN_putN_ne h v t]

@[simp] theorem lookupN_delN_self {α : Type} (i : Nat) : ∀ m : List (Nat × α), lookupN (delN m i) i = none
  | [] => rfl
  | (k, w) :: t => by
    have ih := lookupN_delN_self i t
    simp only [delN] at ih ⊢
    by_cases h : k = i
    · simp [h, ih]
    · simp [h, lookupN, ih, Ne.symm h]

theorem lookupN_delN_ne {α : Type} {i j : Nat} (h : j ≠ i) : ∀ m : List (Nat × α), lookupN (delN m i) j = lookupN m j
  | [] => rfl
  | (k, w) :: t => by
    have ih := lookupN_delN_ne h t
    simp only [delN] at ih ⊢
    by_cases e : k = i
    · subst e; simp [lookupN, ih, h]
    · simp [e, lookupN, ih]

@[simp] theorem getN_putN_self {α : Type} (d : α) (m : List (Nat × α)) (i : Nat) (v : α) : getN d (putN m i v) i = v := by
  simp [getN]
theorem getN_putN_ne {α : Type} (d : α) (m : List (Nat × α)) {i j : Nat} (h : j ≠ i) (v : α) :
    getN d (putN m i v) j = getN d m j := by simp [getN, lookupN_putN_ne h]
@[simp] theorem getN_delN_self {α : Type} (d : α) (m : List (Nat × α)) (i : Nat) : getN d (delN m i) i = d := by simp [getN]
theorem getN_delN_ne {α : Type} (d : α) (m : List (Nat × α)) {i j : Nat} (h : j ≠ i) :
    getN d (delN m i) j = getN d m j := by simp [getN, lookupN_delN_ne h]
@[simp] theorem getN_nil {α : Type} (d : α) (i : Nat) : getN d ([] : List (Nat × α)) i = d := rfl

/-- After an update, the entry of its key is the image of what it was. -/
@[simp] theorem getN_updN_self {α : Type} (d : α) (m : List (Nat × α)) (i : Nat) (f : α → α) :
    getN d (updN d m i f) i = f (getN d m i) := by simp [updN]
theorem getN_updN_ne {α : Type} (d : α) (m : List (Nat × α)) {i j : Nat} (h : j ≠ i) (f : α → α) :
    getN d (updN d m i f) j = getN d m j := by simp [updN, getN_putN_ne d m h]

/-! Bytes of a memory. -/

/-- Writing one byte gives that byte at its address and leaves every other one. -/
theorem cellByte_cellPut (cs : List Host.Cell) (a b : Nat) (v : Byte) :
    cellByte (cellPut cs a v) b = if b = a then v else cellByte cs b := by
  unfold cellPut cellByte
  by_cases h : b = a
  · subst h; by_cases hv : v = 0#8 <;> simp [hv]
  · by_cases hv : v = 0#8 <;> simp [hv, h, getN_putN_ne, getN_delN_ne]

/-- Writing a byte string gives its bytes in order from its address on and leaves every other byte. -/
theorem cellByte_cellsWrite (b : Nat) : ∀ (bs : Bytes) (cs : List Host.Cell) (a : Nat),
    cellByte (cellsWrite cs a bs) b = if a ≤ b ∧ b < a + bs.length then bs.getD (b - a) 0#8 else cellByte cs b
  | [], cs, a => by simp [cellsWrite]
  | v :: t, cs, a => by
    simp only [cellsWrite, cellByte_cellsWrite b t, cellByte_cellPut, List.length_cons]
    by_cases h1 : b = a
    · subst h1
      rw [if_neg (by omega), if_pos rfl, if_pos (by omega)]; simp
    · rw [if_neg h1]
      by_cases h2 : a + 1 ≤ b ∧ b < a + 1 + t.length
      · rw [if_pos h2, if_pos (by omega)]
        have e : b - a = (b - (a + 1)) + 1 := by omega
        simp [e]
      · rw [if_neg h2, if_neg (by omega)]

@[simp] theorem cellsRead_length (cs : List Host.Cell) : ∀ a n, (cellsRead cs a n).length = n
  | _, 0 => rfl
  | a, n + 1 => by simp [cellsRead, cellsRead_length cs (a + 1) n]

/-- A read depends on the bytes of its range alone. -/
theorem cellsRead_congr {cs ds : List Host.Cell} : ∀ {a n : Nat}, (∀ b, a ≤ b → b < a + n → cellByte cs b = cellByte ds b) →
    cellsRead cs a n = cellsRead ds a n
  | _, 0, _ => rfl
  | a, n + 1, h => by
    simp only [cellsRead]
    rw [h a (by omega) (by omega), cellsRead_congr (fun b hb hn => h b (by omega) (by omega))]

/-- A byte string is read back from where it was written. -/
theorem cellsRead_cellsWrite : ∀ (bs : Bytes) (cs : List Host.Cell) (a : Nat), cellsRead (cellsWrite cs a bs) a bs.length = bs
  | [], _, _ => rfl
  | v :: t, cs, a => by
    simp only [List.length_cons, cellsRead]
    congr 1
    · rw [cellByte_cellsWrite, if_pos (by simp)]; simp
    · exact cellsRead_cellsWrite t (cellPut cs a v) (a + 1)

/-- A read outside the bytes written answers as before. -/
theorem cellsRead_cellsWrite_apart (bs : Bytes) (cs : List Host.Cell) (a b n : Nat) (h : b + n ≤ a ∨ a + bs.length ≤ b) :
    cellsRead (cellsWrite cs a bs) b n = cellsRead cs b n :=
  cellsRead_congr (fun x hx hn => by rw [cellByte_cellsWrite, if_neg (by omega)])

/-! The canonical form. -/

theorem keysRise_iff {α : Type} : ∀ m : List (Nat × α), keysRise m = true ↔ m.Pairwise (fun a b => a.1 < b.1)
  | [] => by simp [keysRise]
  | [_] => by simp [keysRise]
  | (a, v) :: (b, w) :: t => by
    simp only [keysRise, Bool.and_eq_true, decide_eq_true_eq, keysRise_iff ((b, w) :: t), List.pairwise_cons]
    constructor
    · rintro ⟨h, hb, ht⟩
      refine ⟨fun x hx => ?_, hb, ht⟩
      rcases List.mem_cons.1 hx with rfl | hx
      · exact h
      · exact Nat.lt_trans h (hb x hx)
    · rintro ⟨h, hb, ht⟩
      exact ⟨h _ (List.mem_cons_self ..), hb, ht⟩

theorem mem_putN {α : Type} {i : Nat} {v : α} {x : Nat × α} : ∀ {m : List (Nat × α)}, x ∈ putN m i v → x = (i, v) ∨ x ∈ m
  | [], h => by simpa [putN] using h
  | (k, w) :: t, h => by
    simp only [putN] at h
    split at h
    · simpa using h
    · split at h
      · rcases List.mem_cons.1 h with h | h
        · exact .inl h
        · exact .inr (List.mem_cons_of_mem _ h)
      · rcases List.mem_cons.1 h with h | h
        · exact .inr (h ▸ List.mem_cons_self ..)
        · exact (mem_putN h).imp_right (List.mem_cons_of_mem _)

theorem putN_pairwise {α : Type} (i : Nat) (v : α) : ∀ m : List (Nat × α), m.Pairwise (fun a b => a.1 < b.1) →
    (putN m i v).Pairwise (fun a b => a.1 < b.1)
  | [], _ => by simp [putN]
  | (k, w) :: t, h => by
    obtain ⟨hk, ht⟩ := List.pairwise_cons.1 h
    simp only [putN]
    split
    · next hi =>
      refine List.pairwise_cons.2 ⟨fun x hx => ?_, h⟩
      rcases List.mem_cons.1 hx with rfl | hx
      · exact hi
      · exact Nat.lt_trans hi (hk x hx)
    · split
      · next e => subst e; exact List.pairwise_cons.2 ⟨hk, ht⟩
      · next h1 h2 =>
        refine List.pairwise_cons.2 ⟨fun x hx => ?_, putN_pairwise i v t ht⟩
        rcases mem_putN hx with rfl | hx
        · simp only at *; omega
        · exact hk x hx

/-- Keys still rise after a table's entry is put in or taken out. -/
theorem keysRise_putN {α : Type} {m : List (Nat × α)} (h : keysRise m = true) (i : Nat) (v : α) : keysRise (putN m i v) = true :=
  (keysRise_iff _).2 (putN_pairwise i v m ((keysRise_iff m).1 h))
theorem keysRise_delN {α : Type} {m : List (Nat × α)} (h : keysRise m = true) (i : Nat) : keysRise (delN m i) = true :=
  (keysRise_iff _).2 (((keysRise_iff m).1 h).filter _)
theorem keysRise_updN {α : Type} {m : List (Nat × α)} (h : keysRise m = true) (d : α) (i : Nat) (f : α → α) :
    keysRise (updN d m i f) = true := keysRise_putN h i _

theorem cellsWf_nil : cellsWf [] = true := rfl

/-- A written byte keeps the memory's canonical form: keys rise and no listed byte is zero. -/
theorem cellsWf_cellPut {cs : List Host.Cell} (h : cellsWf cs = true) (a : Nat) (b : Byte) : cellsWf (cellPut cs a b) = true := by
  simp only [cellsWf, Bool.and_eq_true, List.all_eq_true] at h ⊢
  unfold cellPut
  split
  · exact ⟨keysRise_delN h.1 a, fun x hx => h.2 x (List.mem_filter.1 hx).1⟩
  · next hb =>
    refine ⟨keysRise_putN h.1 a b, fun x hx => ?_⟩
    rcases mem_putN hx with rfl | hx
    · simpa using hb
    · exact h.2 x hx

/-- So does a written byte string. -/
theorem cellsWf_cellsWrite : ∀ {bs : Bytes} {cs : List Host.Cell} (_ : cellsWf cs = true) (a : Nat), cellsWf (cellsWrite cs a bs) = true
  | [], _, h, _ => h
  | b :: _, _, h, a => cellsWf_cellsWrite (cellsWf_cellPut h a b) (a + 1)

/-- Two memories in canonical form that hold the same bytes are the same list. -/
theorem cells_ext : ∀ {cs ds : List Host.Cell}, cellsWf cs = true → cellsWf ds = true →
    (∀ a, cellByte cs a = cellByte ds a) → cs = ds
  | [], [], _, _, _ => rfl
  | [], (k, w) :: t, _, hd, h => by
    have hw : w ≠ 0#8 := by simpa [cellsWf] using (by simpa [cellsWf] using hd : _ ∧ w ≠ 0#8 ∧ _).2.1
    have := h k
    simp [cellByte, getN, lookupN] at this
    exact absurd this.symm hw
  | (k, w) :: t, [], hc, _, h => by
    have hw : w ≠ 0#8 := by simpa [cellsWf] using (by simpa [cellsWf] using hc : _ ∧ w ≠ 0#8 ∧ _).2.1
    have := h k
    simp [cellByte, getN, lookupN] at this
    exact absurd this hw
  | (k, v) :: t, (l, w) :: u, hc, hd, h => by
    simp only [cellsWf, Bool.and_eq_true, keysRise_iff, List.pairwise_cons, List.all_cons, List.all_eq_true] at hc hd
    obtain ⟨⟨hk, ht⟩, hv, hta⟩ := hc
    obtain ⟨⟨hl, hu⟩, hw, hua⟩ := hd
    have low : ∀ {m : List Host.Cell} {i : Nat}, (∀ x ∈ m, i < x.1) → ∀ j ≤ i, lookupN m j = none := by
      intro m
      induction m with
      | nil => intros; rfl
      | cons x m ih =>
        intro i hi j hj
        have := hi x (List.mem_cons_self ..)
        obtain ⟨y, z⟩ := x
        simp only [lookupN]
        rw [if_neg (by simp only at this; omega), ih (fun x hx => hi x (List.mem_cons_of_mem _ hx)) j hj]
    have hkl : k = l := by
      rcases Nat.lt_trichotomy k l with hlt | rfl | hlt
      · have := h k
        simp [cellByte, getN, lookupN, Nat.ne_of_lt hlt, low hl k (Nat.le_of_lt hlt)] at this
        simp [this] at hv
      · rfl
      · have := h l
        simp [cellByte, getN, lookupN, Nat.ne_of_lt hlt, low hk l (Nat.le_of_lt hlt)] at this
        simp [← this] at hw
    subst hkl
    have hvw : v = w := by simpa [cellByte, getN, lookupN] using h k
    subst hvw
    have : t = u := by
      refine cells_ext ?_ ?_ (fun a => ?_)
      · simp only [cellsWf, Bool.and_eq_true, keysRise_iff, List.all_eq_true]; exact ⟨ht, hta⟩
      · simp only [cellsWf, Bool.and_eq_true, keysRise_iff, List.all_eq_true]; exact ⟨hu, hua⟩
      · have := h a
        by_cases e : a = k
        · subst e
          simp [cellByte, getN, low hk a (Nat.le_refl _), low hl a (Nat.le_refl _)]
        · simpa [cellByte, getN, lookupN, e] using this
    rw [this]

end Sys2Proof.Machine
end

