-- ==== Sys2Proof/Laws/State.lean ====
section
/-! SUPPORT. What each named update of the state does to each field: one lemma per field, so that no proof unfolds a record
update. -/

namespace Sys2Proof.Machine

/-! setCore writes cores alone. -/

@[simp] theorem setCore_units (s : State) (c : Nat) (v : CoreState) : (setCore s c v).units = s.units := rfl
@[simp] theorem setCore_slotId (s : State) (c : Nat) (v : CoreState) : (setCore s c v).slotId = s.slotId := rfl
@[simp] theorem setCore_cores (s : State) (c : Nat) (v : CoreState) : (setCore s c v).cores = putN s.cores c v := rfl
@[simp] theorem setCore_routers (s : State) (c : Nat) (v : CoreState) : (setCore s c v).routers = s.routers := rfl
@[simp] theorem setCore_mesh (s : State) (c : Nat) (v : CoreState) : (setCore s c v).mesh = s.mesh := rfl
@[simp] theorem setCore_acks (s : State) (c : Nat) (v : CoreState) : (setCore s c v).acks = s.acks := rfl
@[simp] theorem setCore_ctrl (s : State) (c : Nat) (v : CoreState) : (setCore s c v).ctrl = s.ctrl := rfl
@[simp] theorem setCore_lowHalf (s : State) (c : Nat) (v : CoreState) : (setCore s c v).lowHalf = s.lowHalf := rfl
@[simp] theorem setCore_clusters (s : State) (c : Nat) (v : CoreState) : (setCore s c v).clusters = s.clusters := rfl
@[simp] theorem setCore_ccs (s : State) (c : Nat) (v : CoreState) : (setCore s c v).ccs = s.ccs := rfl
@[simp] theorem setCore_sites (s : State) (c : Nat) (v : CoreState) : (setCore s c v).sites = s.sites := rfl
@[simp] theorem setCore_ioRegs (s : State) (c : Nat) (v : CoreState) : (setCore s c v).ioRegs = s.ioRegs := rfl
@[simp] theorem setCore_wl (s : State) (c : Nat) (v : CoreState) : (setCore s c v).wl = s.wl := rfl
@[simp] theorem setCore_parts (s : State) (c : Nat) (v : CoreState) : (setCore s c v).parts = s.parts := rfl
@[simp] theorem setCore_reqs (s : State) (c : Nat) (v : CoreState) : (setCore s c v).reqs = s.reqs := rfl
@[simp] theorem setCore_objs (s : State) (c : Nat) (v : CoreState) : (setCore s c v).objs = s.objs := rfl
@[simp] theorem setCore_cal (s : State) (c : Nat) (v : CoreState) : (setCore s c v).cal = s.cal := rfl
@[simp] theorem setCore_events (s : State) (c : Nat) (v : CoreState) : (setCore s c v).events = s.events := rfl
@[simp] theorem setCore_mgmt (s : State) (c : Nat) (v : CoreState) : (setCore s c v).mgmt = s.mgmt := rfl
@[simp] theorem setCore_fin (s : State) (c : Nat) (v : CoreState) : (setCore s c v).fin = s.fin := rfl
@[simp] theorem setCore_stw (s : State) (c : Nat) (v : CoreState) : (setCore s c v).stw = s.stw := rfl
@[simp] theorem setCore_sec (s : State) (c : Nat) (v : CoreState) : (setCore s c v).sec = s.sec := rfl
@[simp] theorem setCore_binoState (s : State) (c : Nat) (v : CoreState) : (setCore s c v).binoState = s.binoState := rfl
@[simp] theorem setCore_free (s : State) (c : Nat) (v : CoreState) : (setCore s c v).free = s.free := rfl
@[simp] theorem setCore_pending (s : State) (c : Nat) (v : CoreState) : (setCore s c v).pending = s.pending := rfl

/-! updCore writes cores alone. -/

@[simp] theorem updCore_units (s : State) (c : Nat) (f : CoreState → CoreState) : (updCore s c f).units = s.units := rfl
@[simp] theorem updCore_slotId (s : State) (c : Nat) (f : CoreState → CoreState) : (updCore s c f).slotId = s.slotId := rfl
@[simp] theorem updCore_cores (s : State) (c : Nat) (f : CoreState → CoreState) : (updCore s c f).cores = putN s.cores c (f (coreOf s c)) := rfl
@[simp] theorem updCore_routers (s : State) (c : Nat) (f : CoreState → CoreState) : (updCore s c f).routers = s.routers := rfl
@[simp] theorem updCore_mesh (s : State) (c : Nat) (f : CoreState → CoreState) : (updCore s c f).mesh = s.mesh := rfl
@[simp] theorem updCore_acks (s : State) (c : Nat) (f : CoreState → CoreState) : (updCore s c f).acks = s.acks := rfl
@[simp] theorem updCore_ctrl (s : State) (c : Nat) (f : CoreState → CoreState) : (updCore s c f).ctrl = s.ctrl := rfl
@[simp] theorem updCore_lowHalf (s : State) (c : Nat) (f : CoreState → CoreState) : (updCore s c f).lowHalf = s.lowHalf := rfl
@[simp] theorem updCore_clusters (s : State) (c : Nat) (f : CoreState → CoreState) : (updCore s c f).clusters = s.clusters := rfl
@[simp] theorem updCore_ccs (s : State) (c : Nat) (f : CoreState → CoreState) : (updCore s c f).ccs = s.ccs := rfl
@[simp] theorem updCore_sites (s : State) (c : Nat) (f : CoreState → CoreState) : (updCore s c f).sites = s.sites := rfl
@[simp] theorem updCore_ioRegs (s : State) (c : Nat) (f : CoreState → CoreState) : (updCore s c f).ioRegs = s.ioRegs := rfl
@[simp] theorem updCore_wl (s : State) (c : Nat) (f : CoreState → CoreState) : (updCore s c f).wl = s.wl := rfl
@[simp] theorem updCore_parts (s : State) (c : Nat) (f : CoreState → CoreState) : (updCore s c f).parts = s.parts := rfl
@[simp] theorem updCore_reqs (s : State) (c : Nat) (f : CoreState → CoreState) : (updCore s c f).reqs = s.reqs := rfl
@[simp] theorem updCore_objs (s : State) (c : Nat) (f : CoreState → CoreState) : (updCore s c f).objs = s.objs := rfl
@[simp] theorem updCore_cal (s : State) (c : Nat) (f : CoreState → CoreState) : (updCore s c f).cal = s.cal := rfl
@[simp] theorem updCore_events (s : State) (c : Nat) (f : CoreState → CoreState) : (updCore s c f).events = s.events := rfl
@[simp] theorem updCore_mgmt (s : State) (c : Nat) (f : CoreState → CoreState) : (updCore s c f).mgmt = s.mgmt := rfl
@[simp] theorem updCore_fin (s : State) (c : Nat) (f : CoreState → CoreState) : (updCore s c f).fin = s.fin := rfl
@[simp] theorem updCore_stw (s : State) (c : Nat) (f : CoreState → CoreState) : (updCore s c f).stw = s.stw := rfl
@[simp] theorem updCore_sec (s : State) (c : Nat) (f : CoreState → CoreState) : (updCore s c f).sec = s.sec := rfl
@[simp] theorem updCore_binoState (s : State) (c : Nat) (f : CoreState → CoreState) : (updCore s c f).binoState = s.binoState := rfl
@[simp] theorem updCore_free (s : State) (c : Nat) (f : CoreState → CoreState) : (updCore s c f).free = s.free := rfl
@[simp] theorem updCore_pending (s : State) (c : Nat) (f : CoreState → CoreState) : (updCore s c f).pending = s.pending := rfl

/-! setRouter writes routers alone. -/

@[simp] theorem setRouter_units (s : State) (r : Nat) (v : RouterState) : (setRouter s r v).units = s.units := rfl
@[simp] theorem setRouter_slotId (s : State) (r : Nat) (v : RouterState) : (setRouter s r v).slotId = s.slotId := rfl
@[simp] theorem setRouter_cores (s : State) (r : Nat) (v : RouterState) : (setRouter s r v).cores = s.cores := rfl
@[simp] theorem setRouter_routers (s : State) (r : Nat) (v : RouterState) : (setRouter s r v).routers = putN s.routers r v := rfl
@[simp] theorem setRouter_mesh (s : State) (r : Nat) (v : RouterState) : (setRouter s r v).mesh = s.mesh := rfl
@[simp] theorem setRouter_acks (s : State) (r : Nat) (v : RouterState) : (setRouter s r v).acks = s.acks := rfl
@[simp] theorem setRouter_ctrl (s : State) (r : Nat) (v : RouterState) : (setRouter s r v).ctrl = s.ctrl := rfl
@[simp] theorem setRouter_lowHalf (s : State) (r : Nat) (v : RouterState) : (setRouter s r v).lowHalf = s.lowHalf := rfl
@[simp] theorem setRouter_clusters (s : State) (r : Nat) (v : RouterState) : (setRouter s r v).clusters = s.clusters := rfl
@[simp] theorem setRouter_ccs (s : State) (r : Nat) (v : RouterState) : (setRouter s r v).ccs = s.ccs := rfl
@[simp] theorem setRouter_sites (s : State) (r : Nat) (v : RouterState) : (setRouter s r v).sites = s.sites := rfl
@[simp] theorem setRouter_ioRegs (s : State) (r : Nat) (v : RouterState) : (setRouter s r v).ioRegs = s.ioRegs := rfl
@[simp] theorem setRouter_wl (s : State) (r : Nat) (v : RouterState) : (setRouter s r v).wl = s.wl := rfl
@[simp] theorem setRouter_parts (s : State) (r : Nat) (v : RouterState) : (setRouter s r v).parts = s.parts := rfl
@[simp] theorem setRouter_reqs (s : State) (r : Nat) (v : RouterState) : (setRouter s r v).reqs = s.reqs := rfl
@[simp] theorem setRouter_objs (s : State) (r : Nat) (v : RouterState) : (setRouter s r v).objs = s.objs := rfl
@[simp] theorem setRouter_cal (s : State) (r : Nat) (v : RouterState) : (setRouter s r v).cal = s.cal := rfl
@[simp] theorem setRouter_events (s : State) (r : Nat) (v : RouterState) : (setRouter s r v).events = s.events := rfl
@[simp] theorem setRouter_mgmt (s : State) (r : Nat) (v : RouterState) : (setRouter s r v).mgmt = s.mgmt := rfl
@[simp] theorem setRouter_fin (s : State) (r : Nat) (v : RouterState) : (setRouter s r v).fin = s.fin := rfl
@[simp] theorem setRouter_stw (s : State) (r : Nat) (v : RouterState) : (setRouter s r v).stw = s.stw := rfl
@[simp] theorem setRouter_sec (s : State) (r : Nat) (v : RouterState) : (setRouter s r v).sec = s.sec := rfl
@[simp] theorem setRouter_binoState (s : State) (r : Nat) (v : RouterState) : (setRouter s r v).binoState = s.binoState := rfl
@[simp] theorem setRouter_free (s : State) (r : Nat) (v : RouterState) : (setRouter s r v).free = s.free := rfl
@[simp] theorem setRouter_pending (s : State) (r : Nat) (v : RouterState) : (setRouter s r v).pending = s.pending := rfl

/-! updRouter writes routers alone. -/

@[simp] theorem updRouter_units (s : State) (r : Nat) (f : RouterState → RouterState) : (updRouter s r f).units = s.units := rfl
@[simp] theorem updRouter_slotId (s : State) (r : Nat) (f : RouterState → RouterState) : (updRouter s r f).slotId = s.slotId := rfl
@[simp] theorem updRouter_cores (s : State) (r : Nat) (f : RouterState → RouterState) : (updRouter s r f).cores = s.cores := rfl
@[simp] theorem updRouter_routers (s : State) (r : Nat) (f : RouterState → RouterState) : (updRouter s r f).routers = putN s.routers r (f (routerOf s r)) := rfl
@[simp] theorem updRouter_mesh (s : State) (r : Nat) (f : RouterState → RouterState) : (updRouter s r f).mesh = s.mesh := rfl
@[simp] theorem updRouter_acks (s : State) (r : Nat) (f : RouterState → RouterState) : (updRouter s r f).acks = s.acks := rfl
@[simp] theorem updRouter_ctrl (s : State) (r : Nat) (f : RouterState → RouterState) : (updRouter s r f).ctrl = s.ctrl := rfl
@[simp] theorem updRouter_lowHalf (s : State) (r : Nat) (f : RouterState → RouterState) : (updRouter s r f).lowHalf = s.lowHalf := rfl
@[simp] theorem updRouter_clusters (s : State) (r : Nat) (f : RouterState → RouterState) : (updRouter s r f).clusters = s.clusters := rfl
@[simp] theorem updRouter_ccs (s : State) (r : Nat) (f : RouterState → RouterState) : (updRouter s r f).ccs = s.ccs := rfl
@[simp] theorem updRouter_sites (s : State) (r : Nat) (f : RouterState → RouterState) : (updRouter s r f).sites = s.sites := rfl
@[simp] theorem updRouter_ioRegs (s : State) (r : Nat) (f : RouterState → RouterState) : (updRouter s r f).ioRegs = s.ioRegs := rfl
@[simp] theorem updRouter_wl (s : State) (r : Nat) (f : RouterState → RouterState) : (updRouter s r f).wl = s.wl := rfl
@[simp] theorem updRouter_parts (s : State) (r : Nat) (f : RouterState → RouterState) : (updRouter s r f).parts = s.parts := rfl
@[simp] theorem updRouter_reqs (s : State) (r : Nat) (f : RouterState → RouterState) : (updRouter s r f).reqs = s.reqs := rfl
@[simp] theorem updRouter_objs (s : State) (r : Nat) (f : RouterState → RouterState) : (updRouter s r f).objs = s.objs := rfl
@[simp] theorem updRouter_cal (s : State) (r : Nat) (f : RouterState → RouterState) : (updRouter s r f).cal = s.cal := rfl
@[simp] theorem updRouter_events (s : State) (r : Nat) (f : RouterState → RouterState) : (updRouter s r f).events = s.events := rfl
@[simp] theorem updRouter_mgmt (s : State) (r : Nat) (f : RouterState → RouterState) : (updRouter s r f).mgmt = s.mgmt := rfl
@[simp] theorem updRouter_fin (s : State) (r : Nat) (f : RouterState → RouterState) : (updRouter s r f).fin = s.fin := rfl
@[simp] theorem updRouter_stw (s : State) (r : Nat) (f : RouterState → RouterState) : (updRouter s r f).stw = s.stw := rfl
@[simp] theorem updRouter_sec (s : State) (r : Nat) (f : RouterState → RouterState) : (updRouter s r f).sec = s.sec := rfl
@[simp] theorem updRouter_binoState (s : State) (r : Nat) (f : RouterState → RouterState) : (updRouter s r f).binoState = s.binoState := rfl
@[simp] theorem updRouter_free (s : State) (r : Nat) (f : RouterState → RouterState) : (updRouter s r f).free = s.free := rfl
@[simp] theorem updRouter_pending (s : State) (r : Nat) (f : RouterState → RouterState) : (updRouter s r f).pending = s.pending := rfl

/-! setCl writes clusters alone. -/

@[simp] theorem setCl_units (s : State) (k : Nat) (v : ClusterState) : (setCl s k v).units = s.units := rfl
@[simp] theorem setCl_slotId (s : State) (k : Nat) (v : ClusterState) : (setCl s k v).slotId = s.slotId := rfl
@[simp] theorem setCl_cores (s : State) (k : Nat) (v : ClusterState) : (setCl s k v).cores = s.cores := rfl
@[simp] theorem setCl_routers (s : State) (k : Nat) (v : ClusterState) : (setCl s k v).routers = s.routers := rfl
@[simp] theorem setCl_mesh (s : State) (k : Nat) (v : ClusterState) : (setCl s k v).mesh = s.mesh := rfl
@[simp] theorem setCl_acks (s : State) (k : Nat) (v : ClusterState) : (setCl s k v).acks = s.acks := rfl
@[simp] theorem setCl_ctrl (s : State) (k : Nat) (v : ClusterState) : (setCl s k v).ctrl = s.ctrl := rfl
@[simp] theorem setCl_lowHalf (s : State) (k : Nat) (v : ClusterState) : (setCl s k v).lowHalf = s.lowHalf := rfl
@[simp] theorem setCl_clusters (s : State) (k : Nat) (v : ClusterState) : (setCl s k v).clusters = putN s.clusters k v := rfl
@[simp] theorem setCl_ccs (s : State) (k : Nat) (v : ClusterState) : (setCl s k v).ccs = s.ccs := rfl
@[simp] theorem setCl_sites (s : State) (k : Nat) (v : ClusterState) : (setCl s k v).sites = s.sites := rfl
@[simp] theorem setCl_ioRegs (s : State) (k : Nat) (v : ClusterState) : (setCl s k v).ioRegs = s.ioRegs := rfl
@[simp] theorem setCl_wl (s : State) (k : Nat) (v : ClusterState) : (setCl s k v).wl = s.wl := rfl
@[simp] theorem setCl_parts (s : State) (k : Nat) (v : ClusterState) : (setCl s k v).parts = s.parts := rfl
@[simp] theorem setCl_reqs (s : State) (k : Nat) (v : ClusterState) : (setCl s k v).reqs = s.reqs := rfl
@[simp] theorem setCl_objs (s : State) (k : Nat) (v : ClusterState) : (setCl s k v).objs = s.objs := rfl
@[simp] theorem setCl_cal (s : State) (k : Nat) (v : ClusterState) : (setCl s k v).cal = s.cal := rfl
@[simp] theorem setCl_events (s : State) (k : Nat) (v : ClusterState) : (setCl s k v).events = s.events := rfl
@[simp] theorem setCl_mgmt (s : State) (k : Nat) (v : ClusterState) : (setCl s k v).mgmt = s.mgmt := rfl
@[simp] theorem setCl_fin (s : State) (k : Nat) (v : ClusterState) : (setCl s k v).fin = s.fin := rfl
@[simp] theorem setCl_stw (s : State) (k : Nat) (v : ClusterState) : (setCl s k v).stw = s.stw := rfl
@[simp] theorem setCl_sec (s : State) (k : Nat) (v : ClusterState) : (setCl s k v).sec = s.sec := rfl
@[simp] theorem setCl_binoState (s : State) (k : Nat) (v : ClusterState) : (setCl s k v).binoState = s.binoState := rfl
@[simp] theorem setCl_free (s : State) (k : Nat) (v : ClusterState) : (setCl s k v).free = s.free := rfl
@[simp] theorem setCl_pending (s : State) (k : Nat) (v : ClusterState) : (setCl s k v).pending = s.pending := rfl

/-! updCl writes clusters alone. -/

@[simp] theorem updCl_units (s : State) (k : Nat) (f : ClusterState → ClusterState) : (updCl s k f).units = s.units := rfl
@[simp] theorem updCl_slotId (s : State) (k : Nat) (f : ClusterState → ClusterState) : (updCl s k f).slotId = s.slotId := rfl
@[simp] theorem updCl_cores (s : State) (k : Nat) (f : ClusterState → ClusterState) : (updCl s k f).cores = s.cores := rfl
@[simp] theorem updCl_routers (s : State) (k : Nat) (f : ClusterState → ClusterState) : (updCl s k f).routers = s.routers := rfl
@[simp] theorem updCl_mesh (s : State) (k : Nat) (f : ClusterState → ClusterState) : (updCl s k f).mesh = s.mesh := rfl
@[simp] theorem updCl_acks (s : State) (k : Nat) (f : ClusterState → ClusterState) : (updCl s k f).acks = s.acks := rfl
@[simp] theorem updCl_ctrl (s : State) (k : Nat) (f : ClusterState → ClusterState) : (updCl s k f).ctrl = s.ctrl := rfl
@[simp] theorem updCl_lowHalf (s : State) (k : Nat) (f : ClusterState → ClusterState) : (updCl s k f).lowHalf = s.lowHalf := rfl
@[simp] theorem updCl_clusters (s : State) (k : Nat) (f : ClusterState → ClusterState) : (updCl s k f).clusters = putN s.clusters k (f (clOf s k)) := rfl
@[simp] theorem updCl_ccs (s : State) (k : Nat) (f : ClusterState → ClusterState) : (updCl s k f).ccs = s.ccs := rfl
@[simp] theorem updCl_sites (s : State) (k : Nat) (f : ClusterState → ClusterState) : (updCl s k f).sites = s.sites := rfl
@[simp] theorem updCl_ioRegs (s : State) (k : Nat) (f : ClusterState → ClusterState) : (updCl s k f).ioRegs = s.ioRegs := rfl
@[simp] theorem updCl_wl (s : State) (k : Nat) (f : ClusterState → ClusterState) : (updCl s k f).wl = s.wl := rfl
@[simp] theorem updCl_parts (s : State) (k : Nat) (f : ClusterState → ClusterState) : (updCl s k f).parts = s.parts := rfl
@[simp] theorem updCl_reqs (s : State) (k : Nat) (f : ClusterState → ClusterState) : (updCl s k f).reqs = s.reqs := rfl
@[simp] theorem updCl_objs (s : State) (k : Nat) (f : ClusterState → ClusterState) : (updCl s k f).objs = s.objs := rfl
@[simp] theorem updCl_cal (s : State) (k : Nat) (f : ClusterState → ClusterState) : (updCl s k f).cal = s.cal := rfl
@[simp] theorem updCl_events (s : State) (k : Nat) (f : ClusterState → ClusterState) : (updCl s k f).events = s.events := rfl
@[simp] theorem updCl_mgmt (s : State) (k : Nat) (f : ClusterState → ClusterState) : (updCl s k f).mgmt = s.mgmt := rfl
@[simp] theorem updCl_fin (s : State) (k : Nat) (f : ClusterState → ClusterState) : (updCl s k f).fin = s.fin := rfl
@[simp] theorem updCl_stw (s : State) (k : Nat) (f : ClusterState → ClusterState) : (updCl s k f).stw = s.stw := rfl
@[simp] theorem updCl_sec (s : State) (k : Nat) (f : ClusterState → ClusterState) : (updCl s k f).sec = s.sec := rfl
@[simp] theorem updCl_binoState (s : State) (k : Nat) (f : ClusterState → ClusterState) : (updCl s k f).binoState = s.binoState := rfl
@[simp] theorem updCl_free (s : State) (k : Nat) (f : ClusterState → ClusterState) : (updCl s k f).free = s.free := rfl
@[simp] theorem updCl_pending (s : State) (k : Nat) (f : ClusterState → ClusterState) : (updCl s k f).pending = s.pending := rfl

/-! setCc writes ccs alone. -/

@[simp] theorem setCc_units (s : State) (i : Nat) (v : CcState) : (setCc s i v).units = s.units := rfl
@[simp] theorem setCc_slotId (s : State) (i : Nat) (v : CcState) : (setCc s i v).slotId = s.slotId := rfl
@[simp] theorem setCc_cores (s : State) (i : Nat) (v : CcState) : (setCc s i v).cores = s.cores := rfl
@[simp] theorem setCc_routers (s : State) (i : Nat) (v : CcState) : (setCc s i v).routers = s.routers := rfl
@[simp] theorem setCc_mesh (s : State) (i : Nat) (v : CcState) : (setCc s i v).mesh = s.mesh := rfl
@[simp] theorem setCc_acks (s : State) (i : Nat) (v : CcState) : (setCc s i v).acks = s.acks := rfl
@[simp] theorem setCc_ctrl (s : State) (i : Nat) (v : CcState) : (setCc s i v).ctrl = s.ctrl := rfl
@[simp] theorem setCc_lowHalf (s : State) (i : Nat) (v : CcState) : (setCc s i v).lowHalf = s.lowHalf := rfl
@[simp] theorem setCc_clusters (s : State) (i : Nat) (v : CcState) : (setCc s i v).clusters = s.clusters := rfl
@[simp] theorem setCc_ccs (s : State) (i : Nat) (v : CcState) : (setCc s i v).ccs = putN s.ccs i v := rfl
@[simp] theorem setCc_sites (s : State) (i : Nat) (v : CcState) : (setCc s i v).sites = s.sites := rfl
@[simp] theorem setCc_ioRegs (s : State) (i : Nat) (v : CcState) : (setCc s i v).ioRegs = s.ioRegs := rfl
@[simp] theorem setCc_wl (s : State) (i : Nat) (v : CcState) : (setCc s i v).wl = s.wl := rfl
@[simp] theorem setCc_parts (s : State) (i : Nat) (v : CcState) : (setCc s i v).parts = s.parts := rfl
@[simp] theorem setCc_reqs (s : State) (i : Nat) (v : CcState) : (setCc s i v).reqs = s.reqs := rfl
@[simp] theorem setCc_objs (s : State) (i : Nat) (v : CcState) : (setCc s i v).objs = s.objs := rfl
@[simp] theorem setCc_cal (s : State) (i : Nat) (v : CcState) : (setCc s i v).cal = s.cal := rfl
@[simp] theorem setCc_events (s : State) (i : Nat) (v : CcState) : (setCc s i v).events = s.events := rfl
@[simp] theorem setCc_mgmt (s : State) (i : Nat) (v : CcState) : (setCc s i v).mgmt = s.mgmt := rfl
@[simp] theorem setCc_fin (s : State) (i : Nat) (v : CcState) : (setCc s i v).fin = s.fin := rfl
@[simp] theorem setCc_stw (s : State) (i : Nat) (v : CcState) : (setCc s i v).stw = s.stw := rfl
@[simp] theorem setCc_sec (s : State) (i : Nat) (v : CcState) : (setCc s i v).sec = s.sec := rfl
@[simp] theorem setCc_binoState (s : State) (i : Nat) (v : CcState) : (setCc s i v).binoState = s.binoState := rfl
@[simp] theorem setCc_free (s : State) (i : Nat) (v : CcState) : (setCc s i v).free = s.free := rfl
@[simp] theorem setCc_pending (s : State) (i : Nat) (v : CcState) : (setCc s i v).pending = s.pending := rfl

/-! updCc writes ccs alone. -/

@[simp] theorem updCc_units (s : State) (i : Nat) (f : CcState → CcState) : (updCc s i f).units = s.units := rfl
@[simp] theorem updCc_slotId (s : State) (i : Nat) (f : CcState → CcState) : (updCc s i f).slotId = s.slotId := rfl
@[simp] theorem updCc_cores (s : State) (i : Nat) (f : CcState → CcState) : (updCc s i f).cores = s.cores := rfl
@[simp] theorem updCc_routers (s : State) (i : Nat) (f : CcState → CcState) : (updCc s i f).routers = s.routers := rfl
@[simp] theorem updCc_mesh (s : State) (i : Nat) (f : CcState → CcState) : (updCc s i f).mesh = s.mesh := rfl
@[simp] theorem updCc_acks (s : State) (i : Nat) (f : CcState → CcState) : (updCc s i f).acks = s.acks := rfl
@[simp] theorem updCc_ctrl (s : State) (i : Nat) (f : CcState → CcState) : (updCc s i f).ctrl = s.ctrl := rfl
@[simp] theorem updCc_lowHalf (s : State) (i : Nat) (f : CcState → CcState) : (updCc s i f).lowHalf = s.lowHalf := rfl
@[simp] theorem updCc_clusters (s : State) (i : Nat) (f : CcState → CcState) : (updCc s i f).clusters = s.clusters := rfl
@[simp] theorem updCc_ccs (s : State) (i : Nat) (f : CcState → CcState) : (updCc s i f).ccs = putN s.ccs i (f (ccOf s i)) := rfl
@[simp] theorem updCc_sites (s : State) (i : Nat) (f : CcState → CcState) : (updCc s i f).sites = s.sites := rfl
@[simp] theorem updCc_ioRegs (s : State) (i : Nat) (f : CcState → CcState) : (updCc s i f).ioRegs = s.ioRegs := rfl
@[simp] theorem updCc_wl (s : State) (i : Nat) (f : CcState → CcState) : (updCc s i f).wl = s.wl := rfl
@[simp] theorem updCc_parts (s : State) (i : Nat) (f : CcState → CcState) : (updCc s i f).parts = s.parts := rfl
@[simp] theorem updCc_reqs (s : State) (i : Nat) (f : CcState → CcState) : (updCc s i f).reqs = s.reqs := rfl
@[simp] theorem updCc_objs (s : State) (i : Nat) (f : CcState → CcState) : (updCc s i f).objs = s.objs := rfl
@[simp] theorem updCc_cal (s : State) (i : Nat) (f : CcState → CcState) : (updCc s i f).cal = s.cal := rfl
@[simp] theorem updCc_events (s : State) (i : Nat) (f : CcState → CcState) : (updCc s i f).events = s.events := rfl
@[simp] theorem updCc_mgmt (s : State) (i : Nat) (f : CcState → CcState) : (updCc s i f).mgmt = s.mgmt := rfl
@[simp] theorem updCc_fin (s : State) (i : Nat) (f : CcState → CcState) : (updCc s i f).fin = s.fin := rfl
@[simp] theorem updCc_stw (s : State) (i : Nat) (f : CcState → CcState) : (updCc s i f).stw = s.stw := rfl
@[simp] theorem updCc_sec (s : State) (i : Nat) (f : CcState → CcState) : (updCc s i f).sec = s.sec := rfl
@[simp] theorem updCc_binoState (s : State) (i : Nat) (f : CcState → CcState) : (updCc s i f).binoState = s.binoState := rfl
@[simp] theorem updCc_free (s : State) (i : Nat) (f : CcState → CcState) : (updCc s i f).free = s.free := rfl
@[simp] theorem updCc_pending (s : State) (i : Nat) (f : CcState → CcState) : (updCc s i f).pending = s.pending := rfl

/-! setSite writes sites alone. -/

@[simp] theorem setSite_units (s : State) (d : Nat) (v : SiteState) : (setSite s d v).units = s.units := rfl
@[simp] theorem setSite_slotId (s : State) (d : Nat) (v : SiteState) : (setSite s d v).slotId = s.slotId := rfl
@[simp] theorem setSite_cores (s : State) (d : Nat) (v : SiteState) : (setSite s d v).cores = s.cores := rfl
@[simp] theorem setSite_routers (s : State) (d : Nat) (v : SiteState) : (setSite s d v).routers = s.routers := rfl
@[simp] theorem setSite_mesh (s : State) (d : Nat) (v : SiteState) : (setSite s d v).mesh = s.mesh := rfl
@[simp] theorem setSite_acks (s : State) (d : Nat) (v : SiteState) : (setSite s d v).acks = s.acks := rfl
@[simp] theorem setSite_ctrl (s : State) (d : Nat) (v : SiteState) : (setSite s d v).ctrl = s.ctrl := rfl
@[simp] theorem setSite_lowHalf (s : State) (d : Nat) (v : SiteState) : (setSite s d v).lowHalf = s.lowHalf := rfl
@[simp] theorem setSite_clusters (s : State) (d : Nat) (v : SiteState) : (setSite s d v).clusters = s.clusters := rfl
@[simp] theorem setSite_ccs (s : State) (d : Nat) (v : SiteState) : (setSite s d v).ccs = s.ccs := rfl
@[simp] theorem setSite_sites (s : State) (d : Nat) (v : SiteState) : (setSite s d v).sites = putN s.sites d v := rfl
@[simp] theorem setSite_ioRegs (s : State) (d : Nat) (v : SiteState) : (setSite s d v).ioRegs = s.ioRegs := rfl
@[simp] theorem setSite_wl (s : State) (d : Nat) (v : SiteState) : (setSite s d v).wl = s.wl := rfl
@[simp] theorem setSite_parts (s : State) (d : Nat) (v : SiteState) : (setSite s d v).parts = s.parts := rfl
@[simp] theorem setSite_reqs (s : State) (d : Nat) (v : SiteState) : (setSite s d v).reqs = s.reqs := rfl
@[simp] theorem setSite_objs (s : State) (d : Nat) (v : SiteState) : (setSite s d v).objs = s.objs := rfl
@[simp] theorem setSite_cal (s : State) (d : Nat) (v : SiteState) : (setSite s d v).cal = s.cal := rfl
@[simp] theorem setSite_events (s : State) (d : Nat) (v : SiteState) : (setSite s d v).events = s.events := rfl
@[simp] theorem setSite_mgmt (s : State) (d : Nat) (v : SiteState) : (setSite s d v).mgmt = s.mgmt := rfl
@[simp] theorem setSite_fin (s : State) (d : Nat) (v : SiteState) : (setSite s d v).fin = s.fin := rfl
@[simp] theorem setSite_stw (s : State) (d : Nat) (v : SiteState) : (setSite s d v).stw = s.stw := rfl
@[simp] theorem setSite_sec (s : State) (d : Nat) (v : SiteState) : (setSite s d v).sec = s.sec := rfl
@[simp] theorem setSite_binoState (s : State) (d : Nat) (v : SiteState) : (setSite s d v).binoState = s.binoState := rfl
@[simp] theorem setSite_free (s : State) (d : Nat) (v : SiteState) : (setSite s d v).free = s.free := rfl
@[simp] theorem setSite_pending (s : State) (d : Nat) (v : SiteState) : (setSite s d v).pending = s.pending := rfl

/-! updSite writes sites alone. -/

@[simp] theorem updSite_units (s : State) (d : Nat) (f : SiteState → SiteState) : (updSite s d f).units = s.units := rfl
@[simp] theorem updSite_slotId (s : State) (d : Nat) (f : SiteState → SiteState) : (updSite s d f).slotId = s.slotId := rfl
@[simp] theorem updSite_cores (s : State) (d : Nat) (f : SiteState → SiteState) : (updSite s d f).cores = s.cores := rfl
@[simp] theorem updSite_routers (s : State) (d : Nat) (f : SiteState → SiteState) : (updSite s d f).routers = s.routers := rfl
@[simp] theorem updSite_mesh (s : State) (d : Nat) (f : SiteState → SiteState) : (updSite s d f).mesh = s.mesh := rfl
@[simp] theorem updSite_acks (s : State) (d : Nat) (f : SiteState → SiteState) : (updSite s d f).acks = s.acks := rfl
@[simp] theorem updSite_ctrl (s : State) (d : Nat) (f : SiteState → SiteState) : (updSite s d f).ctrl = s.ctrl := rfl
@[simp] theorem updSite_lowHalf (s : State) (d : Nat) (f : SiteState → SiteState) : (updSite s d f).lowHalf = s.lowHalf := rfl
@[simp] theorem updSite_clusters (s : State) (d : Nat) (f : SiteState → SiteState) : (updSite s d f).clusters = s.clusters := rfl
@[simp] theorem updSite_ccs (s : State) (d : Nat) (f : SiteState → SiteState) : (updSite s d f).ccs = s.ccs := rfl
@[simp] theorem updSite_sites (s : State) (d : Nat) (f : SiteState → SiteState) : (updSite s d f).sites = putN s.sites d (f (siteSt s d)) := rfl
@[simp] theorem updSite_ioRegs (s : State) (d : Nat) (f : SiteState → SiteState) : (updSite s d f).ioRegs = s.ioRegs := rfl
@[simp] theorem updSite_wl (s : State) (d : Nat) (f : SiteState → SiteState) : (updSite s d f).wl = s.wl := rfl
@[simp] theorem updSite_parts (s : State) (d : Nat) (f : SiteState → SiteState) : (updSite s d f).parts = s.parts := rfl
@[simp] theorem updSite_reqs (s : State) (d : Nat) (f : SiteState → SiteState) : (updSite s d f).reqs = s.reqs := rfl
@[simp] theorem updSite_objs (s : State) (d : Nat) (f : SiteState → SiteState) : (updSite s d f).objs = s.objs := rfl
@[simp] theorem updSite_cal (s : State) (d : Nat) (f : SiteState → SiteState) : (updSite s d f).cal = s.cal := rfl
@[simp] theorem updSite_events (s : State) (d : Nat) (f : SiteState → SiteState) : (updSite s d f).events = s.events := rfl
@[simp] theorem updSite_mgmt (s : State) (d : Nat) (f : SiteState → SiteState) : (updSite s d f).mgmt = s.mgmt := rfl
@[simp] theorem updSite_fin (s : State) (d : Nat) (f : SiteState → SiteState) : (updSite s d f).fin = s.fin := rfl
@[simp] theorem updSite_stw (s : State) (d : Nat) (f : SiteState → SiteState) : (updSite s d f).stw = s.stw := rfl
@[simp] theorem updSite_sec (s : State) (d : Nat) (f : SiteState → SiteState) : (updSite s d f).sec = s.sec := rfl
@[simp] theorem updSite_binoState (s : State) (d : Nat) (f : SiteState → SiteState) : (updSite s d f).binoState = s.binoState := rfl
@[simp] theorem updSite_free (s : State) (d : Nat) (f : SiteState → SiteState) : (updSite s d f).free = s.free := rfl
@[simp] theorem updSite_pending (s : State) (d : Nat) (f : SiteState → SiteState) : (updSite s d f).pending = s.pending := rfl

/-! updHl writes sites alone. -/

@[simp] theorem updHl_units (s : State) (d : Nat) (f : HlState → HlState) : (updHl s d f).units = s.units := rfl
@[simp] theorem updHl_slotId (s : State) (d : Nat) (f : HlState → HlState) : (updHl s d f).slotId = s.slotId := rfl
@[simp] theorem updHl_cores (s : State) (d : Nat) (f : HlState → HlState) : (updHl s d f).cores = s.cores := rfl
@[simp] theorem updHl_routers (s : State) (d : Nat) (f : HlState → HlState) : (updHl s d f).routers = s.routers := rfl
@[simp] theorem updHl_mesh (s : State) (d : Nat) (f : HlState → HlState) : (updHl s d f).mesh = s.mesh := rfl
@[simp] theorem updHl_acks (s : State) (d : Nat) (f : HlState → HlState) : (updHl s d f).acks = s.acks := rfl
@[simp] theorem updHl_ctrl (s : State) (d : Nat) (f : HlState → HlState) : (updHl s d f).ctrl = s.ctrl := rfl
@[simp] theorem updHl_lowHalf (s : State) (d : Nat) (f : HlState → HlState) : (updHl s d f).lowHalf = s.lowHalf := rfl
@[simp] theorem updHl_clusters (s : State) (d : Nat) (f : HlState → HlState) : (updHl s d f).clusters = s.clusters := rfl
@[simp] theorem updHl_ccs (s : State) (d : Nat) (f : HlState → HlState) : (updHl s d f).ccs = s.ccs := rfl
@[simp] theorem updHl_sites (s : State) (d : Nat) (f : HlState → HlState) : (updHl s d f).sites = putN s.sites d { siteSt s d with hl := f (hlOf s d) } := rfl
@[simp] theorem updHl_ioRegs (s : State) (d : Nat) (f : HlState → HlState) : (updHl s d f).ioRegs = s.ioRegs := rfl
@[simp] theorem updHl_wl (s : State) (d : Nat) (f : HlState → HlState) : (updHl s d f).wl = s.wl := rfl
@[simp] theorem updHl_parts (s : State) (d : Nat) (f : HlState → HlState) : (updHl s d f).parts = s.parts := rfl
@[simp] theorem updHl_reqs (s : State) (d : Nat) (f : HlState → HlState) : (updHl s d f).reqs = s.reqs := rfl
@[simp] theorem updHl_objs (s : State) (d : Nat) (f : HlState → HlState) : (updHl s d f).objs = s.objs := rfl
@[simp] theorem updHl_cal (s : State) (d : Nat) (f : HlState → HlState) : (updHl s d f).cal = s.cal := rfl
@[simp] theorem updHl_events (s : State) (d : Nat) (f : HlState → HlState) : (updHl s d f).events = s.events := rfl
@[simp] theorem updHl_mgmt (s : State) (d : Nat) (f : HlState → HlState) : (updHl s d f).mgmt = s.mgmt := rfl
@[simp] theorem updHl_fin (s : State) (d : Nat) (f : HlState → HlState) : (updHl s d f).fin = s.fin := rfl
@[simp] theorem updHl_stw (s : State) (d : Nat) (f : HlState → HlState) : (updHl s d f).stw = s.stw := rfl
@[simp] theorem updHl_sec (s : State) (d : Nat) (f : HlState → HlState) : (updHl s d f).sec = s.sec := rfl
@[simp] theorem updHl_binoState (s : State) (d : Nat) (f : HlState → HlState) : (updHl s d f).binoState = s.binoState := rfl
@[simp] theorem updHl_free (s : State) (d : Nat) (f : HlState → HlState) : (updHl s d f).free = s.free := rfl
@[simp] theorem updHl_pending (s : State) (d : Nat) (f : HlState → HlState) : (updHl s d f).pending = s.pending := rfl

/-! setWl writes wl alone. -/

@[simp] theorem setWl_units (s : State) (n : Nat) (v : WlState) : (setWl s n v).units = s.units := rfl
@[simp] theorem setWl_slotId (s : State) (n : Nat) (v : WlState) : (setWl s n v).slotId = s.slotId := rfl
@[simp] theorem setWl_cores (s : State) (n : Nat) (v : WlState) : (setWl s n v).cores = s.cores := rfl
@[simp] theorem setWl_routers (s : State) (n : Nat) (v : WlState) : (setWl s n v).routers = s.routers := rfl
@[simp] theorem setWl_mesh (s : State) (n : Nat) (v : WlState) : (setWl s n v).mesh = s.mesh := rfl
@[simp] theorem setWl_acks (s : State) (n : Nat) (v : WlState) : (setWl s n v).acks = s.acks := rfl
@[simp] theorem setWl_ctrl (s : State) (n : Nat) (v : WlState) : (setWl s n v).ctrl = s.ctrl := rfl
@[simp] theorem setWl_lowHalf (s : State) (n : Nat) (v : WlState) : (setWl s n v).lowHalf = s.lowHalf := rfl
@[simp] theorem setWl_clusters (s : State) (n : Nat) (v : WlState) : (setWl s n v).clusters = s.clusters := rfl
@[simp] theorem setWl_ccs (s : State) (n : Nat) (v : WlState) : (setWl s n v).ccs = s.ccs := rfl
@[simp] theorem setWl_sites (s : State) (n : Nat) (v : WlState) : (setWl s n v).sites = s.sites := rfl
@[simp] theorem setWl_ioRegs (s : State) (n : Nat) (v : WlState) : (setWl s n v).ioRegs = s.ioRegs := rfl
@[simp] theorem setWl_wl (s : State) (n : Nat) (v : WlState) : (setWl s n v).wl = putN s.wl n v := rfl
@[simp] theorem setWl_parts (s : State) (n : Nat) (v : WlState) : (setWl s n v).parts = s.parts := rfl
@[simp] theorem setWl_reqs (s : State) (n : Nat) (v : WlState) : (setWl s n v).reqs = s.reqs := rfl
@[simp] theorem setWl_objs (s : State) (n : Nat) (v : WlState) : (setWl s n v).objs = s.objs := rfl
@[simp] theorem setWl_cal (s : State) (n : Nat) (v : WlState) : (setWl s n v).cal = s.cal := rfl
@[simp] theorem setWl_events (s : State) (n : Nat) (v : WlState) : (setWl s n v).events = s.events := rfl
@[simp] theorem setWl_mgmt (s : State) (n : Nat) (v : WlState) : (setWl s n v).mgmt = s.mgmt := rfl
@[simp] theorem setWl_fin (s : State) (n : Nat) (v : WlState) : (setWl s n v).fin = s.fin := rfl
@[simp] theorem setWl_stw (s : State) (n : Nat) (v : WlState) : (setWl s n v).stw = s.stw := rfl
@[simp] theorem setWl_sec (s : State) (n : Nat) (v : WlState) : (setWl s n v).sec = s.sec := rfl
@[simp] theorem setWl_binoState (s : State) (n : Nat) (v : WlState) : (setWl s n v).binoState = s.binoState := rfl
@[simp] theorem setWl_free (s : State) (n : Nat) (v : WlState) : (setWl s n v).free = s.free := rfl
@[simp] theorem setWl_pending (s : State) (n : Nat) (v : WlState) : (setWl s n v).pending = s.pending := rfl

/-! updWl writes wl alone. -/

@[simp] theorem updWl_units (s : State) (n : Nat) (f : WlState → WlState) : (updWl s n f).units = s.units := rfl
@[simp] theorem updWl_slotId (s : State) (n : Nat) (f : WlState → WlState) : (updWl s n f).slotId = s.slotId := rfl
@[simp] theorem updWl_cores (s : State) (n : Nat) (f : WlState → WlState) : (updWl s n f).cores = s.cores := rfl
@[simp] theorem updWl_routers (s : State) (n : Nat) (f : WlState → WlState) : (updWl s n f).routers = s.routers := rfl
@[simp] theorem updWl_mesh (s : State) (n : Nat) (f : WlState → WlState) : (updWl s n f).mesh = s.mesh := rfl
@[simp] theorem updWl_acks (s : State) (n : Nat) (f : WlState → WlState) : (updWl s n f).acks = s.acks := rfl
@[simp] theorem updWl_ctrl (s : State) (n : Nat) (f : WlState → WlState) : (updWl s n f).ctrl = s.ctrl := rfl
@[simp] theorem updWl_lowHalf (s : State) (n : Nat) (f : WlState → WlState) : (updWl s n f).lowHalf = s.lowHalf := rfl
@[simp] theorem updWl_clusters (s : State) (n : Nat) (f : WlState → WlState) : (updWl s n f).clusters = s.clusters := rfl
@[simp] theorem updWl_ccs (s : State) (n : Nat) (f : WlState → WlState) : (updWl s n f).ccs = s.ccs := rfl
@[simp] theorem updWl_sites (s : State) (n : Nat) (f : WlState → WlState) : (updWl s n f).sites = s.sites := rfl
@[simp] theorem updWl_ioRegs (s : State) (n : Nat) (f : WlState → WlState) : (updWl s n f).ioRegs = s.ioRegs := rfl
@[simp] theorem updWl_wl (s : State) (n : Nat) (f : WlState → WlState) : (updWl s n f).wl = putN s.wl n (f (wlOf s n)) := rfl
@[simp] theorem updWl_parts (s : State) (n : Nat) (f : WlState → WlState) : (updWl s n f).parts = s.parts := rfl
@[simp] theorem updWl_reqs (s : State) (n : Nat) (f : WlState → WlState) : (updWl s n f).reqs = s.reqs := rfl
@[simp] theorem updWl_objs (s : State) (n : Nat) (f : WlState → WlState) : (updWl s n f).objs = s.objs := rfl
@[simp] theorem updWl_cal (s : State) (n : Nat) (f : WlState → WlState) : (updWl s n f).cal = s.cal := rfl
@[simp] theorem updWl_events (s : State) (n : Nat) (f : WlState → WlState) : (updWl s n f).events = s.events := rfl
@[simp] theorem updWl_mgmt (s : State) (n : Nat) (f : WlState → WlState) : (updWl s n f).mgmt = s.mgmt := rfl
@[simp] theorem updWl_fin (s : State) (n : Nat) (f : WlState → WlState) : (updWl s n f).fin = s.fin := rfl
@[simp] theorem updWl_stw (s : State) (n : Nat) (f : WlState → WlState) : (updWl s n f).stw = s.stw := rfl
@[simp] theorem updWl_sec (s : State) (n : Nat) (f : WlState → WlState) : (updWl s n f).sec = s.sec := rfl
@[simp] theorem updWl_binoState (s : State) (n : Nat) (f : WlState → WlState) : (updWl s n f).binoState = s.binoState := rfl
@[simp] theorem updWl_free (s : State) (n : Nat) (f : WlState → WlState) : (updWl s n f).free = s.free := rfl
@[simp] theorem updWl_pending (s : State) (n : Nat) (f : WlState → WlState) : (updWl s n f).pending = s.pending := rfl

/-! setPart writes parts alone. -/

@[simp] theorem setPart_units (s : State) (p : Nat) (v : PartState) : (setPart s p v).units = s.units := rfl
@[simp] theorem setPart_slotId (s : State) (p : Nat) (v : PartState) : (setPart s p v).slotId = s.slotId := rfl
@[simp] theorem setPart_cores (s : State) (p : Nat) (v : PartState) : (setPart s p v).cores = s.cores := rfl
@[simp] theorem setPart_routers (s : State) (p : Nat) (v : PartState) : (setPart s p v).routers = s.routers := rfl
@[simp] theorem setPart_mesh (s : State) (p : Nat) (v : PartState) : (setPart s p v).mesh = s.mesh := rfl
@[simp] theorem setPart_acks (s : State) (p : Nat) (v : PartState) : (setPart s p v).acks = s.acks := rfl
@[simp] theorem setPart_ctrl (s : State) (p : Nat) (v : PartState) : (setPart s p v).ctrl = s.ctrl := rfl
@[simp] theorem setPart_lowHalf (s : State) (p : Nat) (v : PartState) : (setPart s p v).lowHalf = s.lowHalf := rfl
@[simp] theorem setPart_clusters (s : State) (p : Nat) (v : PartState) : (setPart s p v).clusters = s.clusters := rfl
@[simp] theorem setPart_ccs (s : State) (p : Nat) (v : PartState) : (setPart s p v).ccs = s.ccs := rfl
@[simp] theorem setPart_sites (s : State) (p : Nat) (v : PartState) : (setPart s p v).sites = s.sites := rfl
@[simp] theorem setPart_ioRegs (s : State) (p : Nat) (v : PartState) : (setPart s p v).ioRegs = s.ioRegs := rfl
@[simp] theorem setPart_wl (s : State) (p : Nat) (v : PartState) : (setPart s p v).wl = s.wl := rfl
@[simp] theorem setPart_parts (s : State) (p : Nat) (v : PartState) : (setPart s p v).parts = putN s.parts p v := rfl
@[simp] theorem setPart_reqs (s : State) (p : Nat) (v : PartState) : (setPart s p v).reqs = s.reqs := rfl
@[simp] theorem setPart_objs (s : State) (p : Nat) (v : PartState) : (setPart s p v).objs = s.objs := rfl
@[simp] theorem setPart_cal (s : State) (p : Nat) (v : PartState) : (setPart s p v).cal = s.cal := rfl
@[simp] theorem setPart_events (s : State) (p : Nat) (v : PartState) : (setPart s p v).events = s.events := rfl
@[simp] theorem setPart_mgmt (s : State) (p : Nat) (v : PartState) : (setPart s p v).mgmt = s.mgmt := rfl
@[simp] theorem setPart_fin (s : State) (p : Nat) (v : PartState) : (setPart s p v).fin = s.fin := rfl
@[simp] theorem setPart_stw (s : State) (p : Nat) (v : PartState) : (setPart s p v).stw = s.stw := rfl
@[simp] theorem setPart_sec (s : State) (p : Nat) (v : PartState) : (setPart s p v).sec = s.sec := rfl
@[simp] theorem setPart_binoState (s : State) (p : Nat) (v : PartState) : (setPart s p v).binoState = s.binoState := rfl
@[simp] theorem setPart_free (s : State) (p : Nat) (v : PartState) : (setPart s p v).free = s.free := rfl
@[simp] theorem setPart_pending (s : State) (p : Nat) (v : PartState) : (setPart s p v).pending = s.pending := rfl

/-! updPart writes parts alone. -/

@[simp] theorem updPart_units (s : State) (p : Nat) (f : PartState → PartState) : (updPart s p f).units = s.units := rfl
@[simp] theorem updPart_slotId (s : State) (p : Nat) (f : PartState → PartState) : (updPart s p f).slotId = s.slotId := rfl
@[simp] theorem updPart_cores (s : State) (p : Nat) (f : PartState → PartState) : (updPart s p f).cores = s.cores := rfl
@[simp] theorem updPart_routers (s : State) (p : Nat) (f : PartState → PartState) : (updPart s p f).routers = s.routers := rfl
@[simp] theorem updPart_mesh (s : State) (p : Nat) (f : PartState → PartState) : (updPart s p f).mesh = s.mesh := rfl
@[simp] theorem updPart_acks (s : State) (p : Nat) (f : PartState → PartState) : (updPart s p f).acks = s.acks := rfl
@[simp] theorem updPart_ctrl (s : State) (p : Nat) (f : PartState → PartState) : (updPart s p f).ctrl = s.ctrl := rfl
@[simp] theorem updPart_lowHalf (s : State) (p : Nat) (f : PartState → PartState) : (updPart s p f).lowHalf = s.lowHalf := rfl
@[simp] theorem updPart_clusters (s : State) (p : Nat) (f : PartState → PartState) : (updPart s p f).clusters = s.clusters := rfl
@[simp] theorem updPart_ccs (s : State) (p : Nat) (f : PartState → PartState) : (updPart s p f).ccs = s.ccs := rfl
@[simp] theorem updPart_sites (s : State) (p : Nat) (f : PartState → PartState) : (updPart s p f).sites = s.sites := rfl
@[simp] theorem updPart_ioRegs (s : State) (p : Nat) (f : PartState → PartState) : (updPart s p f).ioRegs = s.ioRegs := rfl
@[simp] theorem updPart_wl (s : State) (p : Nat) (f : PartState → PartState) : (updPart s p f).wl = s.wl := rfl
@[simp] theorem updPart_parts (s : State) (p : Nat) (f : PartState → PartState) : (updPart s p f).parts = putN s.parts p (f (partOf s p)) := rfl
@[simp] theorem updPart_reqs (s : State) (p : Nat) (f : PartState → PartState) : (updPart s p f).reqs = s.reqs := rfl
@[simp] theorem updPart_objs (s : State) (p : Nat) (f : PartState → PartState) : (updPart s p f).objs = s.objs := rfl
@[simp] theorem updPart_cal (s : State) (p : Nat) (f : PartState → PartState) : (updPart s p f).cal = s.cal := rfl
@[simp] theorem updPart_events (s : State) (p : Nat) (f : PartState → PartState) : (updPart s p f).events = s.events := rfl
@[simp] theorem updPart_mgmt (s : State) (p : Nat) (f : PartState → PartState) : (updPart s p f).mgmt = s.mgmt := rfl
@[simp] theorem updPart_fin (s : State) (p : Nat) (f : PartState → PartState) : (updPart s p f).fin = s.fin := rfl
@[simp] theorem updPart_stw (s : State) (p : Nat) (f : PartState → PartState) : (updPart s p f).stw = s.stw := rfl
@[simp] theorem updPart_sec (s : State) (p : Nat) (f : PartState → PartState) : (updPart s p f).sec = s.sec := rfl
@[simp] theorem updPart_binoState (s : State) (p : Nat) (f : PartState → PartState) : (updPart s p f).binoState = s.binoState := rfl
@[simp] theorem updPart_free (s : State) (p : Nat) (f : PartState → PartState) : (updPart s p f).free = s.free := rfl
@[simp] theorem updPart_pending (s : State) (p : Nat) (f : PartState → PartState) : (updPart s p f).pending = s.pending := rfl

/-! updJob writes parts alone. -/

@[simp] theorem updJob_units (s : State) (p : Nat) (f : Job → Job) : (updJob s p f).units = s.units := rfl
@[simp] theorem updJob_slotId (s : State) (p : Nat) (f : Job → Job) : (updJob s p f).slotId = s.slotId := rfl
@[simp] theorem updJob_cores (s : State) (p : Nat) (f : Job → Job) : (updJob s p f).cores = s.cores := rfl
@[simp] theorem updJob_routers (s : State) (p : Nat) (f : Job → Job) : (updJob s p f).routers = s.routers := rfl
@[simp] theorem updJob_mesh (s : State) (p : Nat) (f : Job → Job) : (updJob s p f).mesh = s.mesh := rfl
@[simp] theorem updJob_acks (s : State) (p : Nat) (f : Job → Job) : (updJob s p f).acks = s.acks := rfl
@[simp] theorem updJob_ctrl (s : State) (p : Nat) (f : Job → Job) : (updJob s p f).ctrl = s.ctrl := rfl
@[simp] theorem updJob_lowHalf (s : State) (p : Nat) (f : Job → Job) : (updJob s p f).lowHalf = s.lowHalf := rfl
@[simp] theorem updJob_clusters (s : State) (p : Nat) (f : Job → Job) : (updJob s p f).clusters = s.clusters := rfl
@[simp] theorem updJob_ccs (s : State) (p : Nat) (f : Job → Job) : (updJob s p f).ccs = s.ccs := rfl
@[simp] theorem updJob_sites (s : State) (p : Nat) (f : Job → Job) : (updJob s p f).sites = s.sites := rfl
@[simp] theorem updJob_ioRegs (s : State) (p : Nat) (f : Job → Job) : (updJob s p f).ioRegs = s.ioRegs := rfl
@[simp] theorem updJob_wl (s : State) (p : Nat) (f : Job → Job) : (updJob s p f).wl = s.wl := rfl
@[simp] theorem updJob_parts (s : State) (p : Nat) (f : Job → Job) : (updJob s p f).parts = putN s.parts p { partOf s p with job := (jobOf s p).map f } := rfl
@[simp] theorem updJob_reqs (s : State) (p : Nat) (f : Job → Job) : (updJob s p f).reqs = s.reqs := rfl
@[simp] theorem updJob_objs (s : State) (p : Nat) (f : Job → Job) : (updJob s p f).objs = s.objs := rfl
@[simp] theorem updJob_cal (s : State) (p : Nat) (f : Job → Job) : (updJob s p f).cal = s.cal := rfl
@[simp] theorem updJob_events (s : State) (p : Nat) (f : Job → Job) : (updJob s p f).events = s.events := rfl
@[simp] theorem updJob_mgmt (s : State) (p : Nat) (f : Job → Job) : (updJob s p f).mgmt = s.mgmt := rfl
@[simp] theorem updJob_fin (s : State) (p : Nat) (f : Job → Job) : (updJob s p f).fin = s.fin := rfl
@[simp] theorem updJob_stw (s : State) (p : Nat) (f : Job → Job) : (updJob s p f).stw = s.stw := rfl
@[simp] theorem updJob_sec (s : State) (p : Nat) (f : Job → Job) : (updJob s p f).sec = s.sec := rfl
@[simp] theorem updJob_binoState (s : State) (p : Nat) (f : Job → Job) : (updJob s p f).binoState = s.binoState := rfl
@[simp] theorem updJob_free (s : State) (p : Nat) (f : Job → Job) : (updJob s p f).free = s.free := rfl
@[simp] theorem updJob_pending (s : State) (p : Nat) (f : Job → Job) : (updJob s p f).pending = s.pending := rfl

/-! setReq writes reqs alone. -/

@[simp] theorem setReq_units (s : State) (h : Nat) (v : Request) : (setReq s h v).units = s.units := rfl
@[simp] theorem setReq_slotId (s : State) (h : Nat) (v : Request) : (setReq s h v).slotId = s.slotId := rfl
@[simp] theorem setReq_cores (s : State) (h : Nat) (v : Request) : (setReq s h v).cores = s.cores := rfl
@[simp] theorem setReq_routers (s : State) (h : Nat) (v : Request) : (setReq s h v).routers = s.routers := rfl
@[simp] theorem setReq_mesh (s : State) (h : Nat) (v : Request) : (setReq s h v).mesh = s.mesh := rfl
@[simp] theorem setReq_acks (s : State) (h : Nat) (v : Request) : (setReq s h v).acks = s.acks := rfl
@[simp] theorem setReq_ctrl (s : State) (h : Nat) (v : Request) : (setReq s h v).ctrl = s.ctrl := rfl
@[simp] theorem setReq_lowHalf (s : State) (h : Nat) (v : Request) : (setReq s h v).lowHalf = s.lowHalf := rfl
@[simp] theorem setReq_clusters (s : State) (h : Nat) (v : Request) : (setReq s h v).clusters = s.clusters := rfl
@[simp] theorem setReq_ccs (s : State) (h : Nat) (v : Request) : (setReq s h v).ccs = s.ccs := rfl
@[simp] theorem setReq_sites (s : State) (h : Nat) (v : Request) : (setReq s h v).sites = s.sites := rfl
@[simp] theorem setReq_ioRegs (s : State) (h : Nat) (v : Request) : (setReq s h v).ioRegs = s.ioRegs := rfl
@[simp] theorem setReq_wl (s : State) (h : Nat) (v : Request) : (setReq s h v).wl = s.wl := rfl
@[simp] theorem setReq_parts (s : State) (h : Nat) (v : Request) : (setReq s h v).parts = s.parts := rfl
@[simp] theorem setReq_reqs (s : State) (h : Nat) (v : Request) : (setReq s h v).reqs = putN s.reqs h v := rfl
@[simp] theorem setReq_objs (s : State) (h : Nat) (v : Request) : (setReq s h v).objs = s.objs := rfl
@[simp] theorem setReq_cal (s : State) (h : Nat) (v : Request) : (setReq s h v).cal = s.cal := rfl
@[simp] theorem setReq_events (s : State) (h : Nat) (v : Request) : (setReq s h v).events = s.events := rfl
@[simp] theorem setReq_mgmt (s : State) (h : Nat) (v : Request) : (setReq s h v).mgmt = s.mgmt := rfl
@[simp] theorem setReq_fin (s : State) (h : Nat) (v : Request) : (setReq s h v).fin = s.fin := rfl
@[simp] theorem setReq_stw (s : State) (h : Nat) (v : Request) : (setReq s h v).stw = s.stw := rfl
@[simp] theorem setReq_sec (s : State) (h : Nat) (v : Request) : (setReq s h v).sec = s.sec := rfl
@[simp] theorem setReq_binoState (s : State) (h : Nat) (v : Request) : (setReq s h v).binoState = s.binoState := rfl
@[simp] theorem setReq_free (s : State) (h : Nat) (v : Request) : (setReq s h v).free = s.free := rfl
@[simp] theorem setReq_pending (s : State) (h : Nat) (v : Request) : (setReq s h v).pending = s.pending := rfl

/-! updReq writes reqs alone. -/

@[simp] theorem updReq_units (s : State) (h : Nat) (f : Request → Request) : (updReq s h f).units = s.units := by unfold updReq; split <;> rfl
@[simp] theorem updReq_slotId (s : State) (h : Nat) (f : Request → Request) : (updReq s h f).slotId = s.slotId := by unfold updReq; split <;> rfl
@[simp] theorem updReq_cores (s : State) (h : Nat) (f : Request → Request) : (updReq s h f).cores = s.cores := by unfold updReq; split <;> rfl
@[simp] theorem updReq_routers (s : State) (h : Nat) (f : Request → Request) : (updReq s h f).routers = s.routers := by unfold updReq; split <;> rfl
@[simp] theorem updReq_mesh (s : State) (h : Nat) (f : Request → Request) : (updReq s h f).mesh = s.mesh := by unfold updReq; split <;> rfl
@[simp] theorem updReq_acks (s : State) (h : Nat) (f : Request → Request) : (updReq s h f).acks = s.acks := by unfold updReq; split <;> rfl
@[simp] theorem updReq_ctrl (s : State) (h : Nat) (f : Request → Request) : (updReq s h f).ctrl = s.ctrl := by unfold updReq; split <;> rfl
@[simp] theorem updReq_lowHalf (s : State) (h : Nat) (f : Request → Request) : (updReq s h f).lowHalf = s.lowHalf := by unfold updReq; split <;> rfl
@[simp] theorem updReq_clusters (s : State) (h : Nat) (f : Request → Request) : (updReq s h f).clusters = s.clusters := by unfold updReq; split <;> rfl
@[simp] theorem updReq_ccs (s : State) (h : Nat) (f : Request → Request) : (updReq s h f).ccs = s.ccs := by unfold updReq; split <;> rfl
@[simp] theorem updReq_sites (s : State) (h : Nat) (f : Request → Request) : (updReq s h f).sites = s.sites := by unfold updReq; split <;> rfl
@[simp] theorem updReq_ioRegs (s : State) (h : Nat) (f : Request → Request) : (updReq s h f).ioRegs = s.ioRegs := by unfold updReq; split <;> rfl
@[simp] theorem updReq_wl (s : State) (h : Nat) (f : Request → Request) : (updReq s h f).wl = s.wl := by unfold updReq; split <;> rfl
@[simp] theorem updReq_parts (s : State) (h : Nat) (f : Request → Request) : (updReq s h f).parts = s.parts := by unfold updReq; split <;> rfl
@[simp] theorem updReq_objs (s : State) (h : Nat) (f : Request → Request) : (updReq s h f).objs = s.objs := by unfold updReq; split <;> rfl
@[simp] theorem updReq_cal (s : State) (h : Nat) (f : Request → Request) : (updReq s h f).cal = s.cal := by unfold updReq; split <;> rfl
@[simp] theorem updReq_events (s : State) (h : Nat) (f : Request → Request) : (updReq s h f).events = s.events := by unfold updReq; split <;> rfl
@[simp] theorem updReq_mgmt (s : State) (h : Nat) (f : Request → Request) : (updReq s h f).mgmt = s.mgmt := by unfold updReq; split <;> rfl
@[simp] theorem updReq_fin (s : State) (h : Nat) (f : Request → Request) : (updReq s h f).fin = s.fin := by unfold updReq; split <;> rfl
@[simp] theorem updReq_stw (s : State) (h : Nat) (f : Request → Request) : (updReq s h f).stw = s.stw := by unfold updReq; split <;> rfl
@[simp] theorem updReq_sec (s : State) (h : Nat) (f : Request → Request) : (updReq s h f).sec = s.sec := by unfold updReq; split <;> rfl
@[simp] theorem updReq_binoState (s : State) (h : Nat) (f : Request → Request) : (updReq s h f).binoState = s.binoState := by unfold updReq; split <;> rfl
@[simp] theorem updReq_free (s : State) (h : Nat) (f : Request → Request) : (updReq s h f).free = s.free := by unfold updReq; split <;> rfl
@[simp] theorem updReq_pending (s : State) (h : Nat) (f : Request → Request) : (updReq s h f).pending = s.pending := by unfold updReq; split <;> rfl

/-! updFin writes fin alone. -/

@[simp] theorem updFin_units (s : State) (f : Finder → Finder) : (updFin s f).units = s.units := rfl
@[simp] theorem updFin_slotId (s : State) (f : Finder → Finder) : (updFin s f).slotId = s.slotId := rfl
@[simp] theorem updFin_cores (s : State) (f : Finder → Finder) : (updFin s f).cores = s.cores := rfl
@[simp] theorem updFin_routers (s : State) (f : Finder → Finder) : (updFin s f).routers = s.routers := rfl
@[simp] theorem updFin_mesh (s : State) (f : Finder → Finder) : (updFin s f).mesh = s.mesh := rfl
@[simp] theorem updFin_acks (s : State) (f : Finder → Finder) : (updFin s f).acks = s.acks := rfl
@[simp] theorem updFin_ctrl (s : State) (f : Finder → Finder) : (updFin s f).ctrl = s.ctrl := rfl
@[simp] theorem updFin_lowHalf (s : State) (f : Finder → Finder) : (updFin s f).lowHalf = s.lowHalf := rfl
@[simp] theorem updFin_clusters (s : State) (f : Finder → Finder) : (updFin s f).clusters = s.clusters := rfl
@[simp] theorem updFin_ccs (s : State) (f : Finder → Finder) : (updFin s f).ccs = s.ccs := rfl
@[simp] theorem updFin_sites (s : State) (f : Finder → Finder) : (updFin s f).sites = s.sites := rfl
@[simp] theorem updFin_ioRegs (s : State) (f : Finder → Finder) : (updFin s f).ioRegs = s.ioRegs := rfl
@[simp] theorem updFin_wl (s : State) (f : Finder → Finder) : (updFin s f).wl = s.wl := rfl
@[simp] theorem updFin_parts (s : State) (f : Finder → Finder) : (updFin s f).parts = s.parts := rfl
@[simp] theorem updFin_reqs (s : State) (f : Finder → Finder) : (updFin s f).reqs = s.reqs := rfl
@[simp] theorem updFin_objs (s : State) (f : Finder → Finder) : (updFin s f).objs = s.objs := rfl
@[simp] theorem updFin_cal (s : State) (f : Finder → Finder) : (updFin s f).cal = s.cal := rfl
@[simp] theorem updFin_events (s : State) (f : Finder → Finder) : (updFin s f).events = s.events := rfl
@[simp] theorem updFin_mgmt (s : State) (f : Finder → Finder) : (updFin s f).mgmt = s.mgmt := rfl
@[simp] theorem updFin_fin (s : State) (f : Finder → Finder) : (updFin s f).fin = f s.fin := rfl
@[simp] theorem updFin_stw (s : State) (f : Finder → Finder) : (updFin s f).stw = s.stw := rfl
@[simp] theorem updFin_sec (s : State) (f : Finder → Finder) : (updFin s f).sec = s.sec := rfl
@[simp] theorem updFin_binoState (s : State) (f : Finder → Finder) : (updFin s f).binoState = s.binoState := rfl
@[simp] theorem updFin_free (s : State) (f : Finder → Finder) : (updFin s f).free = s.free := rfl
@[simp] theorem updFin_pending (s : State) (f : Finder → Finder) : (updFin s f).pending = s.pending := rfl

/-! updStw writes stw alone. -/

@[simp] theorem updStw_units (s : State) (f : Steward → Steward) : (updStw s f).units = s.units := rfl
@[simp] theorem updStw_slotId (s : State) (f : Steward → Steward) : (updStw s f).slotId = s.slotId := rfl
@[simp] theorem updStw_cores (s : State) (f : Steward → Steward) : (updStw s f).cores = s.cores := rfl
@[simp] theorem updStw_routers (s : State) (f : Steward → Steward) : (updStw s f).routers = s.routers := rfl
@[simp] theorem updStw_mesh (s : State) (f : Steward → Steward) : (updStw s f).mesh = s.mesh := rfl
@[simp] theorem updStw_acks (s : State) (f : Steward → Steward) : (updStw s f).acks = s.acks := rfl
@[simp] theorem updStw_ctrl (s : State) (f : Steward → Steward) : (updStw s f).ctrl = s.ctrl := rfl
@[simp] theorem updStw_lowHalf (s : State) (f : Steward → Steward) : (updStw s f).lowHalf = s.lowHalf := rfl
@[simp] theorem updStw_clusters (s : State) (f : Steward → Steward) : (updStw s f).clusters = s.clusters := rfl
@[simp] theorem updStw_ccs (s : State) (f : Steward → Steward) : (updStw s f).ccs = s.ccs := rfl
@[simp] theorem updStw_sites (s : State) (f : Steward → Steward) : (updStw s f).sites = s.sites := rfl
@[simp] theorem updStw_ioRegs (s : State) (f : Steward → Steward) : (updStw s f).ioRegs = s.ioRegs := rfl
@[simp] theorem updStw_wl (s : State) (f : Steward → Steward) : (updStw s f).wl = s.wl := rfl
@[simp] theorem updStw_parts (s : State) (f : Steward → Steward) : (updStw s f).parts = s.parts := rfl
@[simp] theorem updStw_reqs (s : State) (f : Steward → Steward) : (updStw s f).reqs = s.reqs := rfl
@[simp] theorem updStw_objs (s : State) (f : Steward → Steward) : (updStw s f).objs = s.objs := rfl
@[simp] theorem updStw_cal (s : State) (f : Steward → Steward) : (updStw s f).cal = s.cal := rfl
@[simp] theorem updStw_events (s : State) (f : Steward → Steward) : (updStw s f).events = s.events := rfl
@[simp] theorem updStw_mgmt (s : State) (f : Steward → Steward) : (updStw s f).mgmt = s.mgmt := rfl
@[simp] theorem updStw_fin (s : State) (f : Steward → Steward) : (updStw s f).fin = s.fin := rfl
@[simp] theorem updStw_stw (s : State) (f : Steward → Steward) : (updStw s f).stw = f s.stw := rfl
@[simp] theorem updStw_sec (s : State) (f : Steward → Steward) : (updStw s f).sec = s.sec := rfl
@[simp] theorem updStw_binoState (s : State) (f : Steward → Steward) : (updStw s f).binoState = s.binoState := rfl
@[simp] theorem updStw_free (s : State) (f : Steward → Steward) : (updStw s f).free = s.free := rfl
@[simp] theorem updStw_pending (s : State) (f : Steward → Steward) : (updStw s f).pending = s.pending := rfl

/-! updMgmt writes mgmt alone. -/

@[simp] theorem updMgmt_units (s : State) (f : Mgmt → Mgmt) : (updMgmt s f).units = s.units := rfl
@[simp] theorem updMgmt_slotId (s : State) (f : Mgmt → Mgmt) : (updMgmt s f).slotId = s.slotId := rfl
@[simp] theorem updMgmt_cores (s : State) (f : Mgmt → Mgmt) : (updMgmt s f).cores = s.cores := rfl
@[simp] theorem updMgmt_routers (s : State) (f : Mgmt → Mgmt) : (updMgmt s f).routers = s.routers := rfl
@[simp] theorem updMgmt_mesh (s : State) (f : Mgmt → Mgmt) : (updMgmt s f).mesh = s.mesh := rfl
@[simp] theorem updMgmt_acks (s : State) (f : Mgmt → Mgmt) : (updMgmt s f).acks = s.acks := rfl
@[simp] theorem updMgmt_ctrl (s : State) (f : Mgmt → Mgmt) : (updMgmt s f).ctrl = s.ctrl := rfl
@[simp] theorem updMgmt_lowHalf (s : State) (f : Mgmt → Mgmt) : (updMgmt s f).lowHalf = s.lowHalf := rfl
@[simp] theorem updMgmt_clusters (s : State) (f : Mgmt → Mgmt) : (updMgmt s f).clusters = s.clusters := rfl
@[simp] theorem updMgmt_ccs (s : State) (f : Mgmt → Mgmt) : (updMgmt s f).ccs = s.ccs := rfl
@[simp] theorem updMgmt_sites (s : State) (f : Mgmt → Mgmt) : (updMgmt s f).sites = s.sites := rfl
@[simp] theorem updMgmt_ioRegs (s : State) (f : Mgmt → Mgmt) : (updMgmt s f).ioRegs = s.ioRegs := rfl
@[simp] theorem updMgmt_wl (s : State) (f : Mgmt → Mgmt) : (updMgmt s f).wl = s.wl := rfl
@[simp] theorem updMgmt_parts (s : State) (f : Mgmt → Mgmt) : (updMgmt s f).parts = s.parts := rfl
@[simp] theorem updMgmt_reqs (s : State) (f : Mgmt → Mgmt) : (updMgmt s f).reqs = s.reqs := rfl
@[simp] theorem updMgmt_objs (s : State) (f : Mgmt → Mgmt) : (updMgmt s f).objs = s.objs := rfl
@[simp] theorem updMgmt_cal (s : State) (f : Mgmt → Mgmt) : (updMgmt s f).cal = s.cal := rfl
@[simp] theorem updMgmt_events (s : State) (f : Mgmt → Mgmt) : (updMgmt s f).events = s.events := rfl
@[simp] theorem updMgmt_mgmt (s : State) (f : Mgmt → Mgmt) : (updMgmt s f).mgmt = f s.mgmt := rfl
@[simp] theorem updMgmt_fin (s : State) (f : Mgmt → Mgmt) : (updMgmt s f).fin = s.fin := rfl
@[simp] theorem updMgmt_stw (s : State) (f : Mgmt → Mgmt) : (updMgmt s f).stw = s.stw := rfl
@[simp] theorem updMgmt_sec (s : State) (f : Mgmt → Mgmt) : (updMgmt s f).sec = s.sec := rfl
@[simp] theorem updMgmt_binoState (s : State) (f : Mgmt → Mgmt) : (updMgmt s f).binoState = s.binoState := rfl
@[simp] theorem updMgmt_free (s : State) (f : Mgmt → Mgmt) : (updMgmt s f).free = s.free := rfl
@[simp] theorem updMgmt_pending (s : State) (f : Mgmt → Mgmt) : (updMgmt s f).pending = s.pending := rfl

/-! updSec writes sec alone. -/

@[simp] theorem updSec_units (s : State) (f : Security → Security) : (updSec s f).units = s.units := rfl
@[simp] theorem updSec_slotId (s : State) (f : Security → Security) : (updSec s f).slotId = s.slotId := rfl
@[simp] theorem updSec_cores (s : State) (f : Security → Security) : (updSec s f).cores = s.cores := rfl
@[simp] theorem updSec_routers (s : State) (f : Security → Security) : (updSec s f).routers = s.routers := rfl
@[simp] theorem updSec_mesh (s : State) (f : Security → Security) : (updSec s f).mesh = s.mesh := rfl
@[simp] theorem updSec_acks (s : State) (f : Security → Security) : (updSec s f).acks = s.acks := rfl
@[simp] theorem updSec_ctrl (s : State) (f : Security → Security) : (updSec s f).ctrl = s.ctrl := rfl
@[simp] theorem updSec_lowHalf (s : State) (f : Security → Security) : (updSec s f).lowHalf = s.lowHalf := rfl
@[simp] theorem updSec_clusters (s : State) (f : Security → Security) : (updSec s f).clusters = s.clusters := rfl
@[simp] theorem updSec_ccs (s : State) (f : Security → Security) : (updSec s f).ccs = s.ccs := rfl
@[simp] theorem updSec_sites (s : State) (f : Security → Security) : (updSec s f).sites = s.sites := rfl
@[simp] theorem updSec_ioRegs (s : State) (f : Security → Security) : (updSec s f).ioRegs = s.ioRegs := rfl
@[simp] theorem updSec_wl (s : State) (f : Security → Security) : (updSec s f).wl = s.wl := rfl
@[simp] theorem updSec_parts (s : State) (f : Security → Security) : (updSec s f).parts = s.parts := rfl
@[simp] theorem updSec_reqs (s : State) (f : Security → Security) : (updSec s f).reqs = s.reqs := rfl
@[simp] theorem updSec_objs (s : State) (f : Security → Security) : (updSec s f).objs = s.objs := rfl
@[simp] theorem updSec_cal (s : State) (f : Security → Security) : (updSec s f).cal = s.cal := rfl
@[simp] theorem updSec_events (s : State) (f : Security → Security) : (updSec s f).events = s.events := rfl
@[simp] theorem updSec_mgmt (s : State) (f : Security → Security) : (updSec s f).mgmt = s.mgmt := rfl
@[simp] theorem updSec_fin (s : State) (f : Security → Security) : (updSec s f).fin = s.fin := rfl
@[simp] theorem updSec_stw (s : State) (f : Security → Security) : (updSec s f).stw = s.stw := rfl
@[simp] theorem updSec_sec (s : State) (f : Security → Security) : (updSec s f).sec = f s.sec := rfl
@[simp] theorem updSec_binoState (s : State) (f : Security → Security) : (updSec s f).binoState = s.binoState := rfl
@[simp] theorem updSec_free (s : State) (f : Security → Security) : (updSec s f).free = s.free := rfl
@[simp] theorem updSec_pending (s : State) (f : Security → Security) : (updSec s f).pending = s.pending := rfl

/-! spadWrite writes cores alone. -/

@[simp] theorem spadWrite_units (s : State) (c a : Nat) (b : Bytes) : (spadWrite s c a b).units = s.units := rfl
@[simp] theorem spadWrite_slotId (s : State) (c a : Nat) (b : Bytes) : (spadWrite s c a b).slotId = s.slotId := rfl
@[simp] theorem spadWrite_routers (s : State) (c a : Nat) (b : Bytes) : (spadWrite s c a b).routers = s.routers := rfl
@[simp] theorem spadWrite_mesh (s : State) (c a : Nat) (b : Bytes) : (spadWrite s c a b).mesh = s.mesh := rfl
@[simp] theorem spadWrite_acks (s : State) (c a : Nat) (b : Bytes) : (spadWrite s c a b).acks = s.acks := rfl
@[simp] theorem spadWrite_ctrl (s : State) (c a : Nat) (b : Bytes) : (spadWrite s c a b).ctrl = s.ctrl := rfl
@[simp] theorem spadWrite_lowHalf (s : State) (c a : Nat) (b : Bytes) : (spadWrite s c a b).lowHalf = s.lowHalf := rfl
@[simp] theorem spadWrite_clusters (s : State) (c a : Nat) (b : Bytes) : (spadWrite s c a b).clusters = s.clusters := rfl
@[simp] theorem spadWrite_ccs (s : State) (c a : Nat) (b : Bytes) : (spadWrite s c a b).ccs = s.ccs := rfl
@[simp] theorem spadWrite_sites (s : State) (c a : Nat) (b : Bytes) : (spadWrite s c a b).sites = s.sites := rfl
@[simp] theorem spadWrite_ioRegs (s : State) (c a : Nat) (b : Bytes) : (spadWrite s c a b).ioRegs = s.ioRegs := rfl
@[simp] theorem spadWrite_wl (s : State) (c a : Nat) (b : Bytes) : (spadWrite s c a b).wl = s.wl := rfl
@[simp] theorem spadWrite_parts (s : State) (c a : Nat) (b : Bytes) : (spadWrite s c a b).parts = s.parts := rfl
@[simp] theorem spadWrite_reqs (s : State) (c a : Nat) (b : Bytes) : (spadWrite s c a b).reqs = s.reqs := rfl
@[simp] theorem spadWrite_objs (s : State) (c a : Nat) (b : Bytes) : (spadWrite s c a b).objs = s.objs := rfl
@[simp] theorem spadWrite_cal (s : State) (c a : Nat) (b : Bytes) : (spadWrite s c a b).cal = s.cal := rfl
@[simp] theorem spadWrite_events (s : State) (c a : Nat) (b : Bytes) : (spadWrite s c a b).events = s.events := rfl
@[simp] theorem spadWrite_mgmt (s : State) (c a : Nat) (b : Bytes) : (spadWrite s c a b).mgmt = s.mgmt := rfl
@[simp] theorem spadWrite_fin (s : State) (c a : Nat) (b : Bytes) : (spadWrite s c a b).fin = s.fin := rfl
@[simp] theorem spadWrite_stw (s : State) (c a : Nat) (b : Bytes) : (spadWrite s c a b).stw = s.stw := rfl
@[simp] theorem spadWrite_sec (s : State) (c a : Nat) (b : Bytes) : (spadWrite s c a b).sec = s.sec := rfl
@[simp] theorem spadWrite_binoState (s : State) (c a : Nat) (b : Bytes) : (spadWrite s c a b).binoState = s.binoState := rfl
@[simp] theorem spadWrite_free (s : State) (c a : Nat) (b : Bytes) : (spadWrite s c a b).free = s.free := rfl
@[simp] theorem spadWrite_pending (s : State) (c a : Nat) (b : Bytes) : (spadWrite s c a b).pending = s.pending := rfl

/-! vaultWrite writes clusters alone. -/

@[simp] theorem vaultWrite_units (s : State) (k a : Nat) (b : Bytes) : (vaultWrite s k a b).units = s.units := rfl
@[simp] theorem vaultWrite_slotId (s : State) (k a : Nat) (b : Bytes) : (vaultWrite s k a b).slotId = s.slotId := rfl
@[simp] theorem vaultWrite_cores (s : State) (k a : Nat) (b : Bytes) : (vaultWrite s k a b).cores = s.cores := rfl
@[simp] theorem vaultWrite_routers (s : State) (k a : Nat) (b : Bytes) : (vaultWrite s k a b).routers = s.routers := rfl
@[simp] theorem vaultWrite_mesh (s : State) (k a : Nat) (b : Bytes) : (vaultWrite s k a b).mesh = s.mesh := rfl
@[simp] theorem vaultWrite_acks (s : State) (k a : Nat) (b : Bytes) : (vaultWrite s k a b).acks = s.acks := rfl
@[simp] theorem vaultWrite_ctrl (s : State) (k a : Nat) (b : Bytes) : (vaultWrite s k a b).ctrl = s.ctrl := rfl
@[simp] theorem vaultWrite_lowHalf (s : State) (k a : Nat) (b : Bytes) : (vaultWrite s k a b).lowHalf = s.lowHalf := rfl
@[simp] theorem vaultWrite_ccs (s : State) (k a : Nat) (b : Bytes) : (vaultWrite s k a b).ccs = s.ccs := rfl
@[simp] theorem vaultWrite_sites (s : State) (k a : Nat) (b : Bytes) : (vaultWrite s k a b).sites = s.sites := rfl
@[simp] theorem vaultWrite_ioRegs (s : State) (k a : Nat) (b : Bytes) : (vaultWrite s k a b).ioRegs = s.ioRegs := rfl
@[simp] theorem vaultWrite_wl (s : State) (k a : Nat) (b : Bytes) : (vaultWrite s k a b).wl = s.wl := rfl
@[simp] theorem vaultWrite_parts (s : State) (k a : Nat) (b : Bytes) : (vaultWrite s k a b).parts = s.parts := rfl
@[simp] theorem vaultWrite_reqs (s : State) (k a : Nat) (b : Bytes) : (vaultWrite s k a b).reqs = s.reqs := rfl
@[simp] theorem vaultWrite_objs (s : State) (k a : Nat) (b : Bytes) : (vaultWrite s k a b).objs = s.objs := rfl
@[simp] theorem vaultWrite_cal (s : State) (k a : Nat) (b : Bytes) : (vaultWrite s k a b).cal = s.cal := rfl
@[simp] theorem vaultWrite_events (s : State) (k a : Nat) (b : Bytes) : (vaultWrite s k a b).events = s.events := rfl
@[simp] theorem vaultWrite_mgmt (s : State) (k a : Nat) (b : Bytes) : (vaultWrite s k a b).mgmt = s.mgmt := rfl
@[simp] theorem vaultWrite_fin (s : State) (k a : Nat) (b : Bytes) : (vaultWrite s k a b).fin = s.fin := rfl
@[simp] theorem vaultWrite_stw (s : State) (k a : Nat) (b : Bytes) : (vaultWrite s k a b).stw = s.stw := rfl
@[simp] theorem vaultWrite_sec (s : State) (k a : Nat) (b : Bytes) : (vaultWrite s k a b).sec = s.sec := rfl
@[simp] theorem vaultWrite_binoState (s : State) (k a : Nat) (b : Bytes) : (vaultWrite s k a b).binoState = s.binoState := rfl
@[simp] theorem vaultWrite_free (s : State) (k a : Nat) (b : Bytes) : (vaultWrite s k a b).free = s.free := rfl
@[simp] theorem vaultWrite_pending (s : State) (k a : Nat) (b : Bytes) : (vaultWrite s k a b).pending = s.pending := rfl

/-! setSem writes cores alone. -/

@[simp] theorem setSem_units (s : State) (c n v : Nat) : (setSem s c n v).units = s.units := rfl
@[simp] theorem setSem_slotId (s : State) (c n v : Nat) : (setSem s c n v).slotId = s.slotId := rfl
@[simp] theorem setSem_routers (s : State) (c n v : Nat) : (setSem s c n v).routers = s.routers := rfl
@[simp] theorem setSem_mesh (s : State) (c n v : Nat) : (setSem s c n v).mesh = s.mesh := rfl
@[simp] theorem setSem_acks (s : State) (c n v : Nat) : (setSem s c n v).acks = s.acks := rfl
@[simp] theorem setSem_ctrl (s : State) (c n v : Nat) : (setSem s c n v).ctrl = s.ctrl := rfl
@[simp] theorem setSem_lowHalf (s : State) (c n v : Nat) : (setSem s c n v).lowHalf = s.lowHalf := rfl
@[simp] theorem setSem_clusters (s : State) (c n v : Nat) : (setSem s c n v).clusters = s.clusters := rfl
@[simp] theorem setSem_ccs (s : State) (c n v : Nat) : (setSem s c n v).ccs = s.ccs := rfl
@[simp] theorem setSem_sites (s : State) (c n v : Nat) : (setSem s c n v).sites = s.sites := rfl
@[simp] theorem setSem_ioRegs (s : State) (c n v : Nat) : (setSem s c n v).ioRegs = s.ioRegs := rfl
@[simp] theorem setSem_wl (s : State) (c n v : Nat) : (setSem s c n v).wl = s.wl := rfl
@[simp] theorem setSem_parts (s : State) (c n v : Nat) : (setSem s c n v).parts = s.parts := rfl
@[simp] theorem setSem_reqs (s : State) (c n v : Nat) : (setSem s c n v).reqs = s.reqs := rfl
@[simp] theorem setSem_objs (s : State) (c n v : Nat) : (setSem s c n v).objs = s.objs := rfl
@[simp] theorem setSem_cal (s : State) (c n v : Nat) : (setSem s c n v).cal = s.cal := rfl
@[simp] theorem setSem_events (s : State) (c n v : Nat) : (setSem s c n v).events = s.events := rfl
@[simp] theorem setSem_mgmt (s : State) (c n v : Nat) : (setSem s c n v).mgmt = s.mgmt := rfl
@[simp] theorem setSem_fin (s : State) (c n v : Nat) : (setSem s c n v).fin = s.fin := rfl
@[simp] theorem setSem_stw (s : State) (c n v : Nat) : (setSem s c n v).stw = s.stw := rfl
@[simp] theorem setSem_sec (s : State) (c n v : Nat) : (setSem s c n v).sec = s.sec := rfl
@[simp] theorem setSem_binoState (s : State) (c n v : Nat) : (setSem s c n v).binoState = s.binoState := rfl
@[simp] theorem setSem_free (s : State) (c n v : Nat) : (setSem s c n v).free = s.free := rfl
@[simp] theorem setSem_pending (s : State) (c n v : Nat) : (setSem s c n v).pending = s.pending := rfl

/-! setCreg writes cores alone. -/

@[simp] theorem setCreg_units (s : State) (c off v : Nat) : (setCreg s c off v).units = s.units := rfl
@[simp] theorem setCreg_slotId (s : State) (c off v : Nat) : (setCreg s c off v).slotId = s.slotId := rfl
@[simp] theorem setCreg_routers (s : State) (c off v : Nat) : (setCreg s c off v).routers = s.routers := rfl
@[simp] theorem setCreg_mesh (s : State) (c off v : Nat) : (setCreg s c off v).mesh = s.mesh := rfl
@[simp] theorem setCreg_acks (s : State) (c off v : Nat) : (setCreg s c off v).acks = s.acks := rfl
@[simp] theorem setCreg_ctrl (s : State) (c off v : Nat) : (setCreg s c off v).ctrl = s.ctrl := rfl
@[simp] theorem setCreg_lowHalf (s : State) (c off v : Nat) : (setCreg s c off v).lowHalf = s.lowHalf := rfl
@[simp] theorem setCreg_clusters (s : State) (c off v : Nat) : (setCreg s c off v).clusters = s.clusters := rfl
@[simp] theorem setCreg_ccs (s : State) (c off v : Nat) : (setCreg s c off v).ccs = s.ccs := rfl
@[simp] theorem setCreg_sites (s : State) (c off v : Nat) : (setCreg s c off v).sites = s.sites := rfl
@[simp] theorem setCreg_ioRegs (s : State) (c off v : Nat) : (setCreg s c off v).ioRegs = s.ioRegs := rfl
@[simp] theorem setCreg_wl (s : State) (c off v : Nat) : (setCreg s c off v).wl = s.wl := rfl
@[simp] theorem setCreg_parts (s : State) (c off v : Nat) : (setCreg s c off v).parts = s.parts := rfl
@[simp] theorem setCreg_reqs (s : State) (c off v : Nat) : (setCreg s c off v).reqs = s.reqs := rfl
@[simp] theorem setCreg_objs (s : State) (c off v : Nat) : (setCreg s c off v).objs = s.objs := rfl
@[simp] theorem setCreg_cal (s : State) (c off v : Nat) : (setCreg s c off v).cal = s.cal := rfl
@[simp] theorem setCreg_events (s : State) (c off v : Nat) : (setCreg s c off v).events = s.events := rfl
@[simp] theorem setCreg_mgmt (s : State) (c off v : Nat) : (setCreg s c off v).mgmt = s.mgmt := rfl
@[simp] theorem setCreg_fin (s : State) (c off v : Nat) : (setCreg s c off v).fin = s.fin := rfl
@[simp] theorem setCreg_stw (s : State) (c off v : Nat) : (setCreg s c off v).stw = s.stw := rfl
@[simp] theorem setCreg_sec (s : State) (c off v : Nat) : (setCreg s c off v).sec = s.sec := rfl
@[simp] theorem setCreg_binoState (s : State) (c off v : Nat) : (setCreg s c off v).binoState = s.binoState := rfl
@[simp] theorem setCreg_free (s : State) (c off v : Nat) : (setCreg s c off v).free = s.free := rfl
@[simp] theorem setCreg_pending (s : State) (c off v : Nat) : (setCreg s c off v).pending = s.pending := rfl

/-! setKreg writes clusters alone. -/

@[simp] theorem setKreg_units (s : State) (k off v : Nat) : (setKreg s k off v).units = s.units := rfl
@[simp] theorem setKreg_slotId (s : State) (k off v : Nat) : (setKreg s k off v).slotId = s.slotId := rfl
@[simp] theorem setKreg_cores (s : State) (k off v : Nat) : (setKreg s k off v).cores = s.cores := rfl
@[simp] theorem setKreg_routers (s : State) (k off v : Nat) : (setKreg s k off v).routers = s.routers := rfl
@[simp] theorem setKreg_mesh (s : State) (k off v : Nat) : (setKreg s k off v).mesh = s.mesh := rfl
@[simp] theorem setKreg_acks (s : State) (k off v : Nat) : (setKreg s k off v).acks = s.acks := rfl
@[simp] theorem setKreg_ctrl (s : State) (k off v : Nat) : (setKreg s k off v).ctrl = s.ctrl := rfl
@[simp] theorem setKreg_lowHalf (s : State) (k off v : Nat) : (setKreg s k off v).lowHalf = s.lowHalf := rfl
@[simp] theorem setKreg_ccs (s : State) (k off v : Nat) : (setKreg s k off v).ccs = s.ccs := rfl
@[simp] theorem setKreg_sites (s : State) (k off v : Nat) : (setKreg s k off v).sites = s.sites := rfl
@[simp] theorem setKreg_ioRegs (s : State) (k off v : Nat) : (setKreg s k off v).ioRegs = s.ioRegs := rfl
@[simp] theorem setKreg_wl (s : State) (k off v : Nat) : (setKreg s k off v).wl = s.wl := rfl
@[simp] theorem setKreg_parts (s : State) (k off v : Nat) : (setKreg s k off v).parts = s.parts := rfl
@[simp] theorem setKreg_reqs (s : State) (k off v : Nat) : (setKreg s k off v).reqs = s.reqs := rfl
@[simp] theorem setKreg_objs (s : State) (k off v : Nat) : (setKreg s k off v).objs = s.objs := rfl
@[simp] theorem setKreg_cal (s : State) (k off v : Nat) : (setKreg s k off v).cal = s.cal := rfl
@[simp] theorem setKreg_events (s : State) (k off v : Nat) : (setKreg s k off v).events = s.events := rfl
@[simp] theorem setKreg_mgmt (s : State) (k off v : Nat) : (setKreg s k off v).mgmt = s.mgmt := rfl
@[simp] theorem setKreg_fin (s : State) (k off v : Nat) : (setKreg s k off v).fin = s.fin := rfl
@[simp] theorem setKreg_stw (s : State) (k off v : Nat) : (setKreg s k off v).stw = s.stw := rfl
@[simp] theorem setKreg_sec (s : State) (k off v : Nat) : (setKreg s k off v).sec = s.sec := rfl
@[simp] theorem setKreg_binoState (s : State) (k off v : Nat) : (setKreg s k off v).binoState = s.binoState := rfl
@[simp] theorem setKreg_free (s : State) (k off v : Nat) : (setKreg s k off v).free = s.free := rfl
@[simp] theorem setKreg_pending (s : State) (k off v : Nat) : (setKreg s k off v).pending = s.pending := rfl

/-! setRreg writes routers alone. -/

@[simp] theorem setRreg_units (s : State) (r off v : Nat) : (setRreg s r off v).units = s.units := rfl
@[simp] theorem setRreg_slotId (s : State) (r off v : Nat) : (setRreg s r off v).slotId = s.slotId := rfl
@[simp] theorem setRreg_cores (s : State) (r off v : Nat) : (setRreg s r off v).cores = s.cores := rfl
@[simp] theorem setRreg_mesh (s : State) (r off v : Nat) : (setRreg s r off v).mesh = s.mesh := rfl
@[simp] theorem setRreg_acks (s : State) (r off v : Nat) : (setRreg s r off v).acks = s.acks := rfl
@[simp] theorem setRreg_ctrl (s : State) (r off v : Nat) : (setRreg s r off v).ctrl = s.ctrl := rfl
@[simp] theorem setRreg_lowHalf (s : State) (r off v : Nat) : (setRreg s r off v).lowHalf = s.lowHalf := rfl
@[simp] theorem setRreg_clusters (s : State) (r off v : Nat) : (setRreg s r off v).clusters = s.clusters := rfl
@[simp] theorem setRreg_ccs (s : State) (r off v : Nat) : (setRreg s r off v).ccs = s.ccs := rfl
@[simp] theorem setRreg_sites (s : State) (r off v : Nat) : (setRreg s r off v).sites = s.sites := rfl
@[simp] theorem setRreg_ioRegs (s : State) (r off v : Nat) : (setRreg s r off v).ioRegs = s.ioRegs := rfl
@[simp] theorem setRreg_wl (s : State) (r off v : Nat) : (setRreg s r off v).wl = s.wl := rfl
@[simp] theorem setRreg_parts (s : State) (r off v : Nat) : (setRreg s r off v).parts = s.parts := rfl
@[simp] theorem setRreg_reqs (s : State) (r off v : Nat) : (setRreg s r off v).reqs = s.reqs := rfl
@[simp] theorem setRreg_objs (s : State) (r off v : Nat) : (setRreg s r off v).objs = s.objs := rfl
@[simp] theorem setRreg_cal (s : State) (r off v : Nat) : (setRreg s r off v).cal = s.cal := rfl
@[simp] theorem setRreg_events (s : State) (r off v : Nat) : (setRreg s r off v).events = s.events := rfl
@[simp] theorem setRreg_mgmt (s : State) (r off v : Nat) : (setRreg s r off v).mgmt = s.mgmt := rfl
@[simp] theorem setRreg_fin (s : State) (r off v : Nat) : (setRreg s r off v).fin = s.fin := rfl
@[simp] theorem setRreg_stw (s : State) (r off v : Nat) : (setRreg s r off v).stw = s.stw := rfl
@[simp] theorem setRreg_sec (s : State) (r off v : Nat) : (setRreg s r off v).sec = s.sec := rfl
@[simp] theorem setRreg_binoState (s : State) (r off v : Nat) : (setRreg s r off v).binoState = s.binoState := rfl
@[simp] theorem setRreg_free (s : State) (r off v : Nat) : (setRreg s r off v).free = s.free := rfl
@[simp] theorem setRreg_pending (s : State) (r off v : Nat) : (setRreg s r off v).pending = s.pending := rfl

/-! setDreg writes sites alone. -/

@[simp] theorem setDreg_units (s : State) (d off v : Nat) : (setDreg s d off v).units = s.units := rfl
@[simp] theorem setDreg_slotId (s : State) (d off v : Nat) : (setDreg s d off v).slotId = s.slotId := rfl
@[simp] theorem setDreg_cores (s : State) (d off v : Nat) : (setDreg s d off v).cores = s.cores := rfl
@[simp] theorem setDreg_routers (s : State) (d off v : Nat) : (setDreg s d off v).routers = s.routers := rfl
@[simp] theorem setDreg_mesh (s : State) (d off v : Nat) : (setDreg s d off v).mesh = s.mesh := rfl
@[simp] theorem setDreg_acks (s : State) (d off v : Nat) : (setDreg s d off v).acks = s.acks := rfl
@[simp] theorem setDreg_ctrl (s : State) (d off v : Nat) : (setDreg s d off v).ctrl = s.ctrl := rfl
@[simp] theorem setDreg_lowHalf (s : State) (d off v : Nat) : (setDreg s d off v).lowHalf = s.lowHalf := rfl
@[simp] theorem setDreg_clusters (s : State) (d off v : Nat) : (setDreg s d off v).clusters = s.clusters := rfl
@[simp] theorem setDreg_ccs (s : State) (d off v : Nat) : (setDreg s d off v).ccs = s.ccs := rfl
@[simp] theorem setDreg_ioRegs (s : State) (d off v : Nat) : (setDreg s d off v).ioRegs = s.ioRegs := rfl
@[simp] theorem setDreg_wl (s : State) (d off v : Nat) : (setDreg s d off v).wl = s.wl := rfl
@[simp] theorem setDreg_parts (s : State) (d off v : Nat) : (setDreg s d off v).parts = s.parts := rfl
@[simp] theorem setDreg_reqs (s : State) (d off v : Nat) : (setDreg s d off v).reqs = s.reqs := rfl
@[simp] theorem setDreg_objs (s : State) (d off v : Nat) : (setDreg s d off v).objs = s.objs := rfl
@[simp] theorem setDreg_cal (s : State) (d off v : Nat) : (setDreg s d off v).cal = s.cal := rfl
@[simp] theorem setDreg_events (s : State) (d off v : Nat) : (setDreg s d off v).events = s.events := rfl
@[simp] theorem setDreg_mgmt (s : State) (d off v : Nat) : (setDreg s d off v).mgmt = s.mgmt := rfl
@[simp] theorem setDreg_fin (s : State) (d off v : Nat) : (setDreg s d off v).fin = s.fin := rfl
@[simp] theorem setDreg_stw (s : State) (d off v : Nat) : (setDreg s d off v).stw = s.stw := rfl
@[simp] theorem setDreg_sec (s : State) (d off v : Nat) : (setDreg s d off v).sec = s.sec := rfl
@[simp] theorem setDreg_binoState (s : State) (d off v : Nat) : (setDreg s d off v).binoState = s.binoState := rfl
@[simp] theorem setDreg_free (s : State) (d off v : Nat) : (setDreg s d off v).free = s.free := rfl
@[simp] theorem setDreg_pending (s : State) (d off v : Nat) : (setDreg s d off v).pending = s.pending := rfl

/-! setIreg writes ioRegs alone. -/

@[simp] theorem setIreg_units (s : State) (die off v : Nat) : (setIreg s die off v).units = s.units := rfl
@[simp] theorem setIreg_slotId (s : State) (die off v : Nat) : (setIreg s die off v).slotId = s.slotId := rfl
@[simp] theorem setIreg_cores (s : State) (die off v : Nat) : (setIreg s die off v).cores = s.cores := rfl
@[simp] theorem setIreg_routers (s : State) (die off v : Nat) : (setIreg s die off v).routers = s.routers := rfl
@[simp] theorem setIreg_mesh (s : State) (die off v : Nat) : (setIreg s die off v).mesh = s.mesh := rfl
@[simp] theorem setIreg_acks (s : State) (die off v : Nat) : (setIreg s die off v).acks = s.acks := rfl
@[simp] theorem setIreg_ctrl (s : State) (die off v : Nat) : (setIreg s die off v).ctrl = s.ctrl := rfl
@[simp] theorem setIreg_lowHalf (s : State) (die off v : Nat) : (setIreg s die off v).lowHalf = s.lowHalf := rfl
@[simp] theorem setIreg_clusters (s : State) (die off v : Nat) : (setIreg s die off v).clusters = s.clusters := rfl
@[simp] theorem setIreg_ccs (s : State) (die off v : Nat) : (setIreg s die off v).ccs = s.ccs := rfl
@[simp] theorem setIreg_sites (s : State) (die off v : Nat) : (setIreg s die off v).sites = s.sites := rfl
@[simp] theorem setIreg_ioRegs (s : State) (die off v : Nat) : (setIreg s die off v).ioRegs = putN s.ioRegs ((die - 64) * 65536 + off) (BitVec.ofNat 64 v) := rfl
@[simp] theorem setIreg_wl (s : State) (die off v : Nat) : (setIreg s die off v).wl = s.wl := rfl
@[simp] theorem setIreg_parts (s : State) (die off v : Nat) : (setIreg s die off v).parts = s.parts := rfl
@[simp] theorem setIreg_reqs (s : State) (die off v : Nat) : (setIreg s die off v).reqs = s.reqs := rfl
@[simp] theorem setIreg_objs (s : State) (die off v : Nat) : (setIreg s die off v).objs = s.objs := rfl
@[simp] theorem setIreg_cal (s : State) (die off v : Nat) : (setIreg s die off v).cal = s.cal := rfl
@[simp] theorem setIreg_events (s : State) (die off v : Nat) : (setIreg s die off v).events = s.events := rfl
@[simp] theorem setIreg_mgmt (s : State) (die off v : Nat) : (setIreg s die off v).mgmt = s.mgmt := rfl
@[simp] theorem setIreg_fin (s : State) (die off v : Nat) : (setIreg s die off v).fin = s.fin := rfl
@[simp] theorem setIreg_stw (s : State) (die off v : Nat) : (setIreg s die off v).stw = s.stw := rfl
@[simp] theorem setIreg_sec (s : State) (die off v : Nat) : (setIreg s die off v).sec = s.sec := rfl
@[simp] theorem setIreg_binoState (s : State) (die off v : Nat) : (setIreg s die off v).binoState = s.binoState := rfl
@[simp] theorem setIreg_free (s : State) (die off v : Nat) : (setIreg s die off v).free = s.free := rfl
@[simp] theorem setIreg_pending (s : State) (die off v : Nat) : (setIreg s die off v).pending = s.pending := rfl

/-! setObj writes objs alone. -/

@[simp] theorem setObj_units (s : State) (ix sub v : Nat) : (setObj s ix sub v).units = s.units := rfl
@[simp] theorem setObj_slotId (s : State) (ix sub v : Nat) : (setObj s ix sub v).slotId = s.slotId := rfl
@[simp] theorem setObj_cores (s : State) (ix sub v : Nat) : (setObj s ix sub v).cores = s.cores := rfl
@[simp] theorem setObj_routers (s : State) (ix sub v : Nat) : (setObj s ix sub v).routers = s.routers := rfl
@[simp] theorem setObj_mesh (s : State) (ix sub v : Nat) : (setObj s ix sub v).mesh = s.mesh := rfl
@[simp] theorem setObj_acks (s : State) (ix sub v : Nat) : (setObj s ix sub v).acks = s.acks := rfl
@[simp] theorem setObj_ctrl (s : State) (ix sub v : Nat) : (setObj s ix sub v).ctrl = s.ctrl := rfl
@[simp] theorem setObj_lowHalf (s : State) (ix sub v : Nat) : (setObj s ix sub v).lowHalf = s.lowHalf := rfl
@[simp] theorem setObj_clusters (s : State) (ix sub v : Nat) : (setObj s ix sub v).clusters = s.clusters := rfl
@[simp] theorem setObj_ccs (s : State) (ix sub v : Nat) : (setObj s ix sub v).ccs = s.ccs := rfl
@[simp] theorem setObj_sites (s : State) (ix sub v : Nat) : (setObj s ix sub v).sites = s.sites := rfl
@[simp] theorem setObj_ioRegs (s : State) (ix sub v : Nat) : (setObj s ix sub v).ioRegs = s.ioRegs := rfl
@[simp] theorem setObj_wl (s : State) (ix sub v : Nat) : (setObj s ix sub v).wl = s.wl := rfl
@[simp] theorem setObj_parts (s : State) (ix sub v : Nat) : (setObj s ix sub v).parts = s.parts := rfl
@[simp] theorem setObj_reqs (s : State) (ix sub v : Nat) : (setObj s ix sub v).reqs = s.reqs := rfl
@[simp] theorem setObj_objs (s : State) (ix sub v : Nat) : (setObj s ix sub v).objs = putN s.objs (okey ix sub) v := rfl
@[simp] theorem setObj_cal (s : State) (ix sub v : Nat) : (setObj s ix sub v).cal = s.cal := rfl
@[simp] theorem setObj_events (s : State) (ix sub v : Nat) : (setObj s ix sub v).events = s.events := rfl
@[simp] theorem setObj_mgmt (s : State) (ix sub v : Nat) : (setObj s ix sub v).mgmt = s.mgmt := rfl
@[simp] theorem setObj_fin (s : State) (ix sub v : Nat) : (setObj s ix sub v).fin = s.fin := rfl
@[simp] theorem setObj_stw (s : State) (ix sub v : Nat) : (setObj s ix sub v).stw = s.stw := rfl
@[simp] theorem setObj_sec (s : State) (ix sub v : Nat) : (setObj s ix sub v).sec = s.sec := rfl
@[simp] theorem setObj_binoState (s : State) (ix sub v : Nat) : (setObj s ix sub v).binoState = s.binoState := rfl
@[simp] theorem setObj_free (s : State) (ix sub v : Nat) : (setObj s ix sub v).free = s.free := rfl
@[simp] theorem setObj_pending (s : State) (ix sub v : Nat) : (setObj s ix sub v).pending = s.pending := rfl

/-! setShare writes clusters alone. -/

@[simp] theorem setShare_units (s : State) (k v : Nat) : (setShare s k v).units = s.units := rfl
@[simp] theorem setShare_slotId (s : State) (k v : Nat) : (setShare s k v).slotId = s.slotId := rfl
@[simp] theorem setShare_cores (s : State) (k v : Nat) : (setShare s k v).cores = s.cores := rfl
@[simp] theorem setShare_routers (s : State) (k v : Nat) : (setShare s k v).routers = s.routers := rfl
@[simp] theorem setShare_mesh (s : State) (k v : Nat) : (setShare s k v).mesh = s.mesh := rfl
@[simp] theorem setShare_acks (s : State) (k v : Nat) : (setShare s k v).acks = s.acks := rfl
@[simp] theorem setShare_ctrl (s : State) (k v : Nat) : (setShare s k v).ctrl = s.ctrl := rfl
@[simp] theorem setShare_lowHalf (s : State) (k v : Nat) : (setShare s k v).lowHalf = s.lowHalf := rfl
@[simp] theorem setShare_ccs (s : State) (k v : Nat) : (setShare s k v).ccs = s.ccs := rfl
@[simp] theorem setShare_sites (s : State) (k v : Nat) : (setShare s k v).sites = s.sites := rfl
@[simp] theorem setShare_ioRegs (s : State) (k v : Nat) : (setShare s k v).ioRegs = s.ioRegs := rfl
@[simp] theorem setShare_wl (s : State) (k v : Nat) : (setShare s k v).wl = s.wl := rfl
@[simp] theorem setShare_parts (s : State) (k v : Nat) : (setShare s k v).parts = s.parts := rfl
@[simp] theorem setShare_reqs (s : State) (k v : Nat) : (setShare s k v).reqs = s.reqs := rfl
@[simp] theorem setShare_objs (s : State) (k v : Nat) : (setShare s k v).objs = s.objs := rfl
@[simp] theorem setShare_cal (s : State) (k v : Nat) : (setShare s k v).cal = s.cal := rfl
@[simp] theorem setShare_events (s : State) (k v : Nat) : (setShare s k v).events = s.events := rfl
@[simp] theorem setShare_mgmt (s : State) (k v : Nat) : (setShare s k v).mgmt = s.mgmt := rfl
@[simp] theorem setShare_fin (s : State) (k v : Nat) : (setShare s k v).fin = s.fin := rfl
@[simp] theorem setShare_stw (s : State) (k v : Nat) : (setShare s k v).stw = s.stw := rfl
@[simp] theorem setShare_sec (s : State) (k v : Nat) : (setShare s k v).sec = s.sec := rfl
@[simp] theorem setShare_binoState (s : State) (k v : Nat) : (setShare s k v).binoState = s.binoState := rfl
@[simp] theorem setShare_free (s : State) (k v : Nat) : (setShare s k v).free = s.free := rfl
@[simp] theorem setShare_pending (s : State) (k v : Nat) : (setShare s k v).pending = s.pending := rfl

/-! sendCtrl writes ctrl alone. -/

@[simp] theorem sendCtrl_units (s : State) (m : CtrlMsg) : (sendCtrl s m).units = s.units := rfl
@[simp] theorem sendCtrl_slotId (s : State) (m : CtrlMsg) : (sendCtrl s m).slotId = s.slotId := rfl
@[simp] theorem sendCtrl_cores (s : State) (m : CtrlMsg) : (sendCtrl s m).cores = s.cores := rfl
@[simp] theorem sendCtrl_routers (s : State) (m : CtrlMsg) : (sendCtrl s m).routers = s.routers := rfl
@[simp] theorem sendCtrl_mesh (s : State) (m : CtrlMsg) : (sendCtrl s m).mesh = s.mesh := rfl
@[simp] theorem sendCtrl_acks (s : State) (m : CtrlMsg) : (sendCtrl s m).acks = s.acks := rfl
@[simp] theorem sendCtrl_ctrl (s : State) (m : CtrlMsg) : (sendCtrl s m).ctrl = s.ctrl ++ [m] := rfl
@[simp] theorem sendCtrl_lowHalf (s : State) (m : CtrlMsg) : (sendCtrl s m).lowHalf = s.lowHalf := rfl
@[simp] theorem sendCtrl_clusters (s : State) (m : CtrlMsg) : (sendCtrl s m).clusters = s.clusters := rfl
@[simp] theorem sendCtrl_ccs (s : State) (m : CtrlMsg) : (sendCtrl s m).ccs = s.ccs := rfl
@[simp] theorem sendCtrl_sites (s : State) (m : CtrlMsg) : (sendCtrl s m).sites = s.sites := rfl
@[simp] theorem sendCtrl_ioRegs (s : State) (m : CtrlMsg) : (sendCtrl s m).ioRegs = s.ioRegs := rfl
@[simp] theorem sendCtrl_wl (s : State) (m : CtrlMsg) : (sendCtrl s m).wl = s.wl := rfl
@[simp] theorem sendCtrl_parts (s : State) (m : CtrlMsg) : (sendCtrl s m).parts = s.parts := rfl
@[simp] theorem sendCtrl_reqs (s : State) (m : CtrlMsg) : (sendCtrl s m).reqs = s.reqs := rfl
@[simp] theorem sendCtrl_objs (s : State) (m : CtrlMsg) : (sendCtrl s m).objs = s.objs := rfl
@[simp] theorem sendCtrl_cal (s : State) (m : CtrlMsg) : (sendCtrl s m).cal = s.cal := rfl
@[simp] theorem sendCtrl_events (s : State) (m : CtrlMsg) : (sendCtrl s m).events = s.events := rfl
@[simp] theorem sendCtrl_mgmt (s : State) (m : CtrlMsg) : (sendCtrl s m).mgmt = s.mgmt := rfl
@[simp] theorem sendCtrl_fin (s : State) (m : CtrlMsg) : (sendCtrl s m).fin = s.fin := rfl
@[simp] theorem sendCtrl_stw (s : State) (m : CtrlMsg) : (sendCtrl s m).stw = s.stw := rfl
@[simp] theorem sendCtrl_sec (s : State) (m : CtrlMsg) : (sendCtrl s m).sec = s.sec := rfl
@[simp] theorem sendCtrl_binoState (s : State) (m : CtrlMsg) : (sendCtrl s m).binoState = s.binoState := rfl
@[simp] theorem sendCtrl_free (s : State) (m : CtrlMsg) : (sendCtrl s m).free = s.free := rfl
@[simp] theorem sendCtrl_pending (s : State) (m : CtrlMsg) : (sendCtrl s m).pending = s.pending := rfl

/-! landCtrl writes ctrl alone. -/

@[simp] theorem landCtrl_units (s : State) (m : CtrlMsg) : (landCtrl s m).units = s.units := rfl
@[simp] theorem landCtrl_slotId (s : State) (m : CtrlMsg) : (landCtrl s m).slotId = s.slotId := rfl
@[simp] theorem landCtrl_cores (s : State) (m : CtrlMsg) : (landCtrl s m).cores = s.cores := rfl
@[simp] theorem landCtrl_routers (s : State) (m : CtrlMsg) : (landCtrl s m).routers = s.routers := rfl
@[simp] theorem landCtrl_mesh (s : State) (m : CtrlMsg) : (landCtrl s m).mesh = s.mesh := rfl
@[simp] theorem landCtrl_acks (s : State) (m : CtrlMsg) : (landCtrl s m).acks = s.acks := rfl
@[simp] theorem landCtrl_ctrl (s : State) (m : CtrlMsg) : (landCtrl s m).ctrl = s.ctrl.erase m := rfl
@[simp] theorem landCtrl_lowHalf (s : State) (m : CtrlMsg) : (landCtrl s m).lowHalf = s.lowHalf := rfl
@[simp] theorem landCtrl_clusters (s : State) (m : CtrlMsg) : (landCtrl s m).clusters = s.clusters := rfl
@[simp] theorem landCtrl_ccs (s : State) (m : CtrlMsg) : (landCtrl s m).ccs = s.ccs := rfl
@[simp] theorem landCtrl_sites (s : State) (m : CtrlMsg) : (landCtrl s m).sites = s.sites := rfl
@[simp] theorem landCtrl_ioRegs (s : State) (m : CtrlMsg) : (landCtrl s m).ioRegs = s.ioRegs := rfl
@[simp] theorem landCtrl_wl (s : State) (m : CtrlMsg) : (landCtrl s m).wl = s.wl := rfl
@[simp] theorem landCtrl_parts (s : State) (m : CtrlMsg) : (landCtrl s m).parts = s.parts := rfl
@[simp] theorem landCtrl_reqs (s : State) (m : CtrlMsg) : (landCtrl s m).reqs = s.reqs := rfl
@[simp] theorem landCtrl_objs (s : State) (m : CtrlMsg) : (landCtrl s m).objs = s.objs := rfl
@[simp] theorem landCtrl_cal (s : State) (m : CtrlMsg) : (landCtrl s m).cal = s.cal := rfl
@[simp] theorem landCtrl_events (s : State) (m : CtrlMsg) : (landCtrl s m).events = s.events := rfl
@[simp] theorem landCtrl_mgmt (s : State) (m : CtrlMsg) : (landCtrl s m).mgmt = s.mgmt := rfl
@[simp] theorem landCtrl_fin (s : State) (m : CtrlMsg) : (landCtrl s m).fin = s.fin := rfl
@[simp] theorem landCtrl_stw (s : State) (m : CtrlMsg) : (landCtrl s m).stw = s.stw := rfl
@[simp] theorem landCtrl_sec (s : State) (m : CtrlMsg) : (landCtrl s m).sec = s.sec := rfl
@[simp] theorem landCtrl_binoState (s : State) (m : CtrlMsg) : (landCtrl s m).binoState = s.binoState := rfl
@[simp] theorem landCtrl_free (s : State) (m : CtrlMsg) : (landCtrl s m).free = s.free := rfl
@[simp] theorem landCtrl_pending (s : State) (m : CtrlMsg) : (landCtrl s m).pending = s.pending := rfl

/-! finderBroadcast writes ctrl alone. -/

@[simp] theorem finderBroadcast_units (s : State) (n tag : Nat) (l : List Nat) : (finderBroadcast s n tag l).units = s.units := rfl
@[simp] theorem finderBroadcast_slotId (s : State) (n tag : Nat) (l : List Nat) : (finderBroadcast s n tag l).slotId = s.slotId := rfl
@[simp] theorem finderBroadcast_cores (s : State) (n tag : Nat) (l : List Nat) : (finderBroadcast s n tag l).cores = s.cores := rfl
@[simp] theorem finderBroadcast_routers (s : State) (n tag : Nat) (l : List Nat) : (finderBroadcast s n tag l).routers = s.routers := rfl
@[simp] theorem finderBroadcast_mesh (s : State) (n tag : Nat) (l : List Nat) : (finderBroadcast s n tag l).mesh = s.mesh := rfl
@[simp] theorem finderBroadcast_acks (s : State) (n tag : Nat) (l : List Nat) : (finderBroadcast s n tag l).acks = s.acks := rfl
@[simp] theorem finderBroadcast_lowHalf (s : State) (n tag : Nat) (l : List Nat) : (finderBroadcast s n tag l).lowHalf = s.lowHalf := rfl
@[simp] theorem finderBroadcast_clusters (s : State) (n tag : Nat) (l : List Nat) : (finderBroadcast s n tag l).clusters = s.clusters := rfl
@[simp] theorem finderBroadcast_ccs (s : State) (n tag : Nat) (l : List Nat) : (finderBroadcast s n tag l).ccs = s.ccs := rfl
@[simp] theorem finderBroadcast_sites (s : State) (n tag : Nat) (l : List Nat) : (finderBroadcast s n tag l).sites = s.sites := rfl
@[simp] theorem finderBroadcast_ioRegs (s : State) (n tag : Nat) (l : List Nat) : (finderBroadcast s n tag l).ioRegs = s.ioRegs := rfl
@[simp] theorem finderBroadcast_wl (s : State) (n tag : Nat) (l : List Nat) : (finderBroadcast s n tag l).wl = s.wl := rfl
@[simp] theorem finderBroadcast_parts (s : State) (n tag : Nat) (l : List Nat) : (finderBroadcast s n tag l).parts = s.parts := rfl
@[simp] theorem finderBroadcast_reqs (s : State) (n tag : Nat) (l : List Nat) : (finderBroadcast s n tag l).reqs = s.reqs := rfl
@[simp] theorem finderBroadcast_objs (s : State) (n tag : Nat) (l : List Nat) : (finderBroadcast s n tag l).objs = s.objs := rfl
@[simp] theorem finderBroadcast_cal (s : State) (n tag : Nat) (l : List Nat) : (finderBroadcast s n tag l).cal = s.cal := rfl
@[simp] theorem finderBroadcast_events (s : State) (n tag : Nat) (l : List Nat) : (finderBroadcast s n tag l).events = s.events := rfl
@[simp] theorem finderBroadcast_mgmt (s : State) (n tag : Nat) (l : List Nat) : (finderBroadcast s n tag l).mgmt = s.mgmt := rfl
@[simp] theorem finderBroadcast_fin (s : State) (n tag : Nat) (l : List Nat) : (finderBroadcast s n tag l).fin = s.fin := rfl
@[simp] theorem finderBroadcast_stw (s : State) (n tag : Nat) (l : List Nat) : (finderBroadcast s n tag l).stw = s.stw := rfl
@[simp] theorem finderBroadcast_sec (s : State) (n tag : Nat) (l : List Nat) : (finderBroadcast s n tag l).sec = s.sec := rfl
@[simp] theorem finderBroadcast_binoState (s : State) (n tag : Nat) (l : List Nat) : (finderBroadcast s n tag l).binoState = s.binoState := rfl
@[simp] theorem finderBroadcast_free (s : State) (n tag : Nat) (l : List Nat) : (finderBroadcast s n tag l).free = s.free := rfl
@[simp] theorem finderBroadcast_pending (s : State) (n tag : Nat) (l : List Nat) : (finderBroadcast s n tag l).pending = s.pending := rfl

/-! emit writes events alone. -/

@[simp] theorem emit_units (s : State) (rep : Nat) (e : EventRec) : (emit s rep e).units = s.units := rfl
@[simp] theorem emit_slotId (s : State) (rep : Nat) (e : EventRec) : (emit s rep e).slotId = s.slotId := rfl
@[simp] theorem emit_cores (s : State) (rep : Nat) (e : EventRec) : (emit s rep e).cores = s.cores := rfl
@[simp] theorem emit_routers (s : State) (rep : Nat) (e : EventRec) : (emit s rep e).routers = s.routers := rfl
@[simp] theorem emit_mesh (s : State) (rep : Nat) (e : EventRec) : (emit s rep e).mesh = s.mesh := rfl
@[simp] theorem emit_acks (s : State) (rep : Nat) (e : EventRec) : (emit s rep e).acks = s.acks := rfl
@[simp] theorem emit_ctrl (s : State) (rep : Nat) (e : EventRec) : (emit s rep e).ctrl = s.ctrl := rfl
@[simp] theorem emit_lowHalf (s : State) (rep : Nat) (e : EventRec) : (emit s rep e).lowHalf = s.lowHalf := rfl
@[simp] theorem emit_clusters (s : State) (rep : Nat) (e : EventRec) : (emit s rep e).clusters = s.clusters := rfl
@[simp] theorem emit_ccs (s : State) (rep : Nat) (e : EventRec) : (emit s rep e).ccs = s.ccs := rfl
@[simp] theorem emit_sites (s : State) (rep : Nat) (e : EventRec) : (emit s rep e).sites = s.sites := rfl
@[simp] theorem emit_ioRegs (s : State) (rep : Nat) (e : EventRec) : (emit s rep e).ioRegs = s.ioRegs := rfl
@[simp] theorem emit_wl (s : State) (rep : Nat) (e : EventRec) : (emit s rep e).wl = s.wl := rfl
@[simp] theorem emit_parts (s : State) (rep : Nat) (e : EventRec) : (emit s rep e).parts = s.parts := rfl
@[simp] theorem emit_reqs (s : State) (rep : Nat) (e : EventRec) : (emit s rep e).reqs = s.reqs := rfl
@[simp] theorem emit_objs (s : State) (rep : Nat) (e : EventRec) : (emit s rep e).objs = s.objs := rfl
@[simp] theorem emit_cal (s : State) (rep : Nat) (e : EventRec) : (emit s rep e).cal = s.cal := rfl
@[simp] theorem emit_mgmt (s : State) (rep : Nat) (e : EventRec) : (emit s rep e).mgmt = s.mgmt := rfl
@[simp] theorem emit_fin (s : State) (rep : Nat) (e : EventRec) : (emit s rep e).fin = s.fin := rfl
@[simp] theorem emit_stw (s : State) (rep : Nat) (e : EventRec) : (emit s rep e).stw = s.stw := rfl
@[simp] theorem emit_sec (s : State) (rep : Nat) (e : EventRec) : (emit s rep e).sec = s.sec := rfl
@[simp] theorem emit_binoState (s : State) (rep : Nat) (e : EventRec) : (emit s rep e).binoState = s.binoState := rfl
@[simp] theorem emit_free (s : State) (rep : Nat) (e : EventRec) : (emit s rep e).free = s.free := rfl
@[simp] theorem emit_pending (s : State) (rep : Nat) (e : EventRec) : (emit s rep e).pending = s.pending := rfl

/-! raise writes events alone. -/

@[simp] theorem raise_units (s : State) (code sev unit rep : Nat) (d : Bytes) : (raise s code sev unit rep d).units = s.units := rfl
@[simp] theorem raise_slotId (s : State) (code sev unit rep : Nat) (d : Bytes) : (raise s code sev unit rep d).slotId = s.slotId := rfl
@[simp] theorem raise_cores (s : State) (code sev unit rep : Nat) (d : Bytes) : (raise s code sev unit rep d).cores = s.cores := rfl
@[simp] theorem raise_routers (s : State) (code sev unit rep : Nat) (d : Bytes) : (raise s code sev unit rep d).routers = s.routers := rfl
@[simp] theorem raise_mesh (s : State) (code sev unit rep : Nat) (d : Bytes) : (raise s code sev unit rep d).mesh = s.mesh := rfl
@[simp] theorem raise_acks (s : State) (code sev unit rep : Nat) (d : Bytes) : (raise s code sev unit rep d).acks = s.acks := rfl
@[simp] theorem raise_ctrl (s : State) (code sev unit rep : Nat) (d : Bytes) : (raise s code sev unit rep d).ctrl = s.ctrl := rfl
@[simp] theorem raise_lowHalf (s : State) (code sev unit rep : Nat) (d : Bytes) : (raise s code sev unit rep d).lowHalf = s.lowHalf := rfl
@[simp] theorem raise_clusters (s : State) (code sev unit rep : Nat) (d : Bytes) : (raise s code sev unit rep d).clusters = s.clusters := rfl
@[simp] theorem raise_ccs (s : State) (code sev unit rep : Nat) (d : Bytes) : (raise s code sev unit rep d).ccs = s.ccs := rfl
@[simp] theorem raise_sites (s : State) (code sev unit rep : Nat) (d : Bytes) : (raise s code sev unit rep d).sites = s.sites := rfl
@[simp] theorem raise_ioRegs (s : State) (code sev unit rep : Nat) (d : Bytes) : (raise s code sev unit rep d).ioRegs = s.ioRegs := rfl
@[simp] theorem raise_wl (s : State) (code sev unit rep : Nat) (d : Bytes) : (raise s code sev unit rep d).wl = s.wl := rfl
@[simp] theorem raise_parts (s : State) (code sev unit rep : Nat) (d : Bytes) : (raise s code sev unit rep d).parts = s.parts := rfl
@[simp] theorem raise_reqs (s : State) (code sev unit rep : Nat) (d : Bytes) : (raise s code sev unit rep d).reqs = s.reqs := rfl
@[simp] theorem raise_objs (s : State) (code sev unit rep : Nat) (d : Bytes) : (raise s code sev unit rep d).objs = s.objs := rfl
@[simp] theorem raise_cal (s : State) (code sev unit rep : Nat) (d : Bytes) : (raise s code sev unit rep d).cal = s.cal := rfl
@[simp] theorem raise_mgmt (s : State) (code sev unit rep : Nat) (d : Bytes) : (raise s code sev unit rep d).mgmt = s.mgmt := rfl
@[simp] theorem raise_fin (s : State) (code sev unit rep : Nat) (d : Bytes) : (raise s code sev unit rep d).fin = s.fin := rfl
@[simp] theorem raise_stw (s : State) (code sev unit rep : Nat) (d : Bytes) : (raise s code sev unit rep d).stw = s.stw := rfl
@[simp] theorem raise_sec (s : State) (code sev unit rep : Nat) (d : Bytes) : (raise s code sev unit rep d).sec = s.sec := rfl
@[simp] theorem raise_binoState (s : State) (code sev unit rep : Nat) (d : Bytes) : (raise s code sev unit rep d).binoState = s.binoState := rfl
@[simp] theorem raise_free (s : State) (code sev unit rep : Nat) (d : Bytes) : (raise s code sev unit rep d).free = s.free := rfl
@[simp] theorem raise_pending (s : State) (code sev unit rep : Nat) (d : Bytes) : (raise s code sev unit rep d).pending = s.pending := rfl

/-! Taking free values moves the counter of free values alone. -/

@[simp] theorem takeFree_units (s : State) (n : Nat) : (takeFree s n).2.units = s.units := rfl
@[simp] theorem freeBytes_units (s : State) (n : Nat) : (freeBytes s n).2.units = s.units := rfl
@[simp] theorem takeFree_slotId (s : State) (n : Nat) : (takeFree s n).2.slotId = s.slotId := rfl
@[simp] theorem freeBytes_slotId (s : State) (n : Nat) : (freeBytes s n).2.slotId = s.slotId := rfl
@[simp] theorem takeFree_cores (s : State) (n : Nat) : (takeFree s n).2.cores = s.cores := rfl
@[simp] theorem freeBytes_cores (s : State) (n : Nat) : (freeBytes s n).2.cores = s.cores := rfl
@[simp] theorem takeFree_routers (s : State) (n : Nat) : (takeFree s n).2.routers = s.routers := rfl
@[simp] theorem freeBytes_routers (s : State) (n : Nat) : (freeBytes s n).2.routers = s.routers := rfl
@[simp] theorem takeFree_mesh (s : State) (n : Nat) : (takeFree s n).2.mesh = s.mesh := rfl
@[simp] theorem freeBytes_mesh (s : State) (n : Nat) : (freeBytes s n).2.mesh = s.mesh := rfl
@[simp] theorem takeFree_acks (s : State) (n : Nat) : (takeFree s n).2.acks = s.acks := rfl
@[simp] theorem freeBytes_acks (s : State) (n : Nat) : (freeBytes s n).2.acks = s.acks := rfl
@[simp] theorem takeFree_ctrl (s : State) (n : Nat) : (takeFree s n).2.ctrl = s.ctrl := rfl
@[simp] theorem freeBytes_ctrl (s : State) (n : Nat) : (freeBytes s n).2.ctrl = s.ctrl := rfl
@[simp] theorem takeFree_lowHalf (s : State) (n : Nat) : (takeFree s n).2.lowHalf = s.lowHalf := rfl
@[simp] theorem freeBytes_lowHalf (s : State) (n : Nat) : (freeBytes s n).2.lowHalf = s.lowHalf := rfl
@[simp] theorem takeFree_clusters (s : State) (n : Nat) : (takeFree s n).2.clusters = s.clusters := rfl
@[simp] theorem freeBytes_clusters (s : State) (n : Nat) : (freeBytes s n).2.clusters = s.clusters := rfl
@[simp] theorem takeFree_ccs (s : State) (n : Nat) : (takeFree s n).2.ccs = s.ccs := rfl
@[simp] theorem freeBytes_ccs (s : State) (n : Nat) : (freeBytes s n).2.ccs = s.ccs := rfl
@[simp] theorem takeFree_sites (s : State) (n : Nat) : (takeFree s n).2.sites = s.sites := rfl
@[simp] theorem freeBytes_sites (s : State) (n : Nat) : (freeBytes s n).2.sites = s.sites := rfl
@[simp] theorem takeFree_ioRegs (s : State) (n : Nat) : (takeFree s n).2.ioRegs = s.ioRegs := rfl
@[simp] theorem freeBytes_ioRegs (s : State) (n : Nat) : (freeBytes s n).2.ioRegs = s.ioRegs := rfl
@[simp] theorem takeFree_wl (s : State) (n : Nat) : (takeFree s n).2.wl = s.wl := rfl
@[simp] theorem freeBytes_wl (s : State) (n : Nat) : (freeBytes s n).2.wl = s.wl := rfl
@[simp] theorem takeFree_parts (s : State) (n : Nat) : (takeFree s n).2.parts = s.parts := rfl
@[simp] theorem freeBytes_parts (s : State) (n : Nat) : (freeBytes s n).2.parts = s.parts := rfl
@[simp] theorem takeFree_reqs (s : State) (n : Nat) : (takeFree s n).2.reqs = s.reqs := rfl
@[simp] theorem freeBytes_reqs (s : State) (n : Nat) : (freeBytes s n).2.reqs = s.reqs := rfl
@[simp] theorem takeFree_objs (s : State) (n : Nat) : (takeFree s n).2.objs = s.objs := rfl
@[simp] theorem freeBytes_objs (s : State) (n : Nat) : (freeBytes s n).2.objs = s.objs := rfl
@[simp] theorem takeFree_cal (s : State) (n : Nat) : (takeFree s n).2.cal = s.cal := rfl
@[simp] theorem freeBytes_cal (s : State) (n : Nat) : (freeBytes s n).2.cal = s.cal := rfl
@[simp] theorem takeFree_events (s : State) (n : Nat) : (takeFree s n).2.events = s.events := rfl
@[simp] theorem freeBytes_events (s : State) (n : Nat) : (freeBytes s n).2.events = s.events := rfl
@[simp] theorem takeFree_mgmt (s : State) (n : Nat) : (takeFree s n).2.mgmt = s.mgmt := rfl
@[simp] theorem freeBytes_mgmt (s : State) (n : Nat) : (freeBytes s n).2.mgmt = s.mgmt := rfl
@[simp] theorem takeFree_fin (s : State) (n : Nat) : (takeFree s n).2.fin = s.fin := rfl
@[simp] theorem freeBytes_fin (s : State) (n : Nat) : (freeBytes s n).2.fin = s.fin := rfl
@[simp] theorem takeFree_stw (s : State) (n : Nat) : (takeFree s n).2.stw = s.stw := rfl
@[simp] theorem freeBytes_stw (s : State) (n : Nat) : (freeBytes s n).2.stw = s.stw := rfl
@[simp] theorem takeFree_sec (s : State) (n : Nat) : (takeFree s n).2.sec = s.sec := rfl
@[simp] theorem freeBytes_sec (s : State) (n : Nat) : (freeBytes s n).2.sec = s.sec := rfl
@[simp] theorem takeFree_binoState (s : State) (n : Nat) : (takeFree s n).2.binoState = s.binoState := rfl
@[simp] theorem freeBytes_binoState (s : State) (n : Nat) : (freeBytes s n).2.binoState = s.binoState := rfl
@[simp] theorem takeFree_free (s : State) (n : Nat) : (takeFree s n).2.free = s.free + n := rfl
@[simp] theorem freeBytes_free (s : State) (n : Nat) : (freeBytes s n).2.free = s.free + n := rfl
@[simp] theorem takeFree_pending (s : State) (n : Nat) : (takeFree s n).2.pending = s.pending := rfl
@[simp] theorem freeBytes_pending (s : State) (n : Nat) : (freeBytes s n).2.pending = s.pending := rfl
@[simp] theorem takeFree_length (s : State) (n : Nat) : (takeFree s n).1.length = n := by simp [takeFree]
@[simp] theorem freeBytes_length (s : State) (n : Nat) : (freeBytes s n).1.length = n := by simp [freeBytes]

end Sys2Proof.Machine
end

