-- ==== Sys2Proof/Laws/Parts.lean ====
section
/-! SUPPORT. What each named update does to each part of the state read by its number, and the laws of the register accessors. -/

namespace Sys2Proof.Machine

/-! The part that is written, by its number. -/

theorem coreOf_setCore (s : State) (i j : Nat) (v : CoreState) : coreOf (setCore s i v) j = if j = i then v else coreOf s j := by
  unfold coreOf setCore; by_cases h : j = i
  · subst h; simp
  · simp [h, getN_putN_ne]
@[simp] theorem coreOf_setCore_self (s : State) (i : Nat) (v : CoreState) : coreOf (setCore s i v) i = v := by simp [coreOf_setCore]
theorem coreOf_setCore_ne (s : State) (i : Nat) (v : CoreState) {j : Nat} (h : j ≠ i) : coreOf (setCore s i v) j = coreOf s j := by simp [coreOf_setCore, h]
theorem coreOf_updCore (s : State) (i j : Nat) (f : CoreState → CoreState) : coreOf (updCore s i f) j = if j = i then f (coreOf s i) else coreOf s j := coreOf_setCore ..
@[simp] theorem coreOf_updCore_self (s : State) (i : Nat) (f : CoreState → CoreState) : coreOf (updCore s i f) i = f (coreOf s i) := coreOf_setCore_self ..
theorem coreOf_updCore_ne (s : State) (i : Nat) (f : CoreState → CoreState) {j : Nat} (h : j ≠ i) : coreOf (updCore s i f) j = coreOf s j := coreOf_setCore_ne s i _ h

theorem routerOf_setRouter (s : State) (i j : Nat) (v : RouterState) : routerOf (setRouter s i v) j = if j = i then v else routerOf s j := by
  unfold routerOf setRouter; by_cases h : j = i
  · subst h; simp
  · simp [h, getN_putN_ne]
@[simp] theorem routerOf_setRouter_self (s : State) (i : Nat) (v : RouterState) : routerOf (setRouter s i v) i = v := by simp [routerOf_setRouter]
theorem routerOf_setRouter_ne (s : State) (i : Nat) (v : RouterState) {j : Nat} (h : j ≠ i) : routerOf (setRouter s i v) j = routerOf s j := by simp [routerOf_setRouter, h]
theorem routerOf_updRouter (s : State) (i j : Nat) (f : RouterState → RouterState) : routerOf (updRouter s i f) j = if j = i then f (routerOf s i) else routerOf s j := routerOf_setRouter ..
@[simp] theorem routerOf_updRouter_self (s : State) (i : Nat) (f : RouterState → RouterState) : routerOf (updRouter s i f) i = f (routerOf s i) := routerOf_setRouter_self ..
theorem routerOf_updRouter_ne (s : State) (i : Nat) (f : RouterState → RouterState) {j : Nat} (h : j ≠ i) : routerOf (updRouter s i f) j = routerOf s j := routerOf_setRouter_ne s i _ h

theorem clOf_setCl (s : State) (i j : Nat) (v : ClusterState) : clOf (setCl s i v) j = if j = i then v else clOf s j := by
  unfold clOf setCl; by_cases h : j = i
  · subst h; simp
  · simp [h, getN_putN_ne]
@[simp] theorem clOf_setCl_self (s : State) (i : Nat) (v : ClusterState) : clOf (setCl s i v) i = v := by simp [clOf_setCl]
theorem clOf_setCl_ne (s : State) (i : Nat) (v : ClusterState) {j : Nat} (h : j ≠ i) : clOf (setCl s i v) j = clOf s j := by simp [clOf_setCl, h]
theorem clOf_updCl (s : State) (i j : Nat) (f : ClusterState → ClusterState) : clOf (updCl s i f) j = if j = i then f (clOf s i) else clOf s j := clOf_setCl ..
@[simp] theorem clOf_updCl_self (s : State) (i : Nat) (f : ClusterState → ClusterState) : clOf (updCl s i f) i = f (clOf s i) := clOf_setCl_self ..
theorem clOf_updCl_ne (s : State) (i : Nat) (f : ClusterState → ClusterState) {j : Nat} (h : j ≠ i) : clOf (updCl s i f) j = clOf s j := clOf_setCl_ne s i _ h

theorem ccOf_setCc (s : State) (i j : Nat) (v : CcState) : ccOf (setCc s i v) j = if j = i then v else ccOf s j := by
  unfold ccOf setCc; by_cases h : j = i
  · subst h; simp
  · simp [h, getN_putN_ne]
@[simp] theorem ccOf_setCc_self (s : State) (i : Nat) (v : CcState) : ccOf (setCc s i v) i = v := by simp [ccOf_setCc]
theorem ccOf_setCc_ne (s : State) (i : Nat) (v : CcState) {j : Nat} (h : j ≠ i) : ccOf (setCc s i v) j = ccOf s j := by simp [ccOf_setCc, h]
theorem ccOf_updCc (s : State) (i j : Nat) (f : CcState → CcState) : ccOf (updCc s i f) j = if j = i then f (ccOf s i) else ccOf s j := ccOf_setCc ..
@[simp] theorem ccOf_updCc_self (s : State) (i : Nat) (f : CcState → CcState) : ccOf (updCc s i f) i = f (ccOf s i) := ccOf_setCc_self ..
theorem ccOf_updCc_ne (s : State) (i : Nat) (f : CcState → CcState) {j : Nat} (h : j ≠ i) : ccOf (updCc s i f) j = ccOf s j := ccOf_setCc_ne s i _ h

theorem siteSt_setSite (s : State) (i j : Nat) (v : SiteState) : siteSt (setSite s i v) j = if j = i then v else siteSt s j := by
  unfold siteSt setSite; by_cases h : j = i
  · subst h; simp
  · simp [h, getN_putN_ne]
@[simp] theorem siteSt_setSite_self (s : State) (i : Nat) (v : SiteState) : siteSt (setSite s i v) i = v := by simp [siteSt_setSite]
theorem siteSt_setSite_ne (s : State) (i : Nat) (v : SiteState) {j : Nat} (h : j ≠ i) : siteSt (setSite s i v) j = siteSt s j := by simp [siteSt_setSite, h]
theorem siteSt_updSite (s : State) (i j : Nat) (f : SiteState → SiteState) : siteSt (updSite s i f) j = if j = i then f (siteSt s i) else siteSt s j := siteSt_setSite ..
@[simp] theorem siteSt_updSite_self (s : State) (i : Nat) (f : SiteState → SiteState) : siteSt (updSite s i f) i = f (siteSt s i) := siteSt_setSite_self ..
theorem siteSt_updSite_ne (s : State) (i : Nat) (f : SiteState → SiteState) {j : Nat} (h : j ≠ i) : siteSt (updSite s i f) j = siteSt s j := siteSt_setSite_ne s i _ h

theorem wlOf_setWl (s : State) (i j : Nat) (v : WlState) : wlOf (setWl s i v) j = if j = i then v else wlOf s j := by
  unfold wlOf setWl; by_cases h : j = i
  · subst h; simp
  · simp [h, getN_putN_ne]
@[simp] theorem wlOf_setWl_self (s : State) (i : Nat) (v : WlState) : wlOf (setWl s i v) i = v := by simp [wlOf_setWl]
theorem wlOf_setWl_ne (s : State) (i : Nat) (v : WlState) {j : Nat} (h : j ≠ i) : wlOf (setWl s i v) j = wlOf s j := by simp [wlOf_setWl, h]
theorem wlOf_updWl (s : State) (i j : Nat) (f : WlState → WlState) : wlOf (updWl s i f) j = if j = i then f (wlOf s i) else wlOf s j := wlOf_setWl ..
@[simp] theorem wlOf_updWl_self (s : State) (i : Nat) (f : WlState → WlState) : wlOf (updWl s i f) i = f (wlOf s i) := wlOf_setWl_self ..
theorem wlOf_updWl_ne (s : State) (i : Nat) (f : WlState → WlState) {j : Nat} (h : j ≠ i) : wlOf (updWl s i f) j = wlOf s j := wlOf_setWl_ne s i _ h

theorem partOf_setPart (s : State) (i j : Nat) (v : PartState) : partOf (setPart s i v) j = if j = i then v else partOf s j := by
  unfold partOf setPart; by_cases h : j = i
  · subst h; simp
  · simp [h, getN_putN_ne]
@[simp] theorem partOf_setPart_self (s : State) (i : Nat) (v : PartState) : partOf (setPart s i v) i = v := by simp [partOf_setPart]
theorem partOf_setPart_ne (s : State) (i : Nat) (v : PartState) {j : Nat} (h : j ≠ i) : partOf (setPart s i v) j = partOf s j := by simp [partOf_setPart, h]
theorem partOf_updPart (s : State) (i j : Nat) (f : PartState → PartState) : partOf (updPart s i f) j = if j = i then f (partOf s i) else partOf s j := partOf_setPart ..
@[simp] theorem partOf_updPart_self (s : State) (i : Nat) (f : PartState → PartState) : partOf (updPart s i f) i = f (partOf s i) := partOf_setPart_self ..
theorem partOf_updPart_ne (s : State) (i : Nat) (f : PartState → PartState) {j : Nat} (h : j ≠ i) : partOf (updPart s i f) j = partOf s j := partOf_setPart_ne s i _ h

theorem reqOf_setReq (s : State) (i j : Nat) (v : Request) : reqOf (setReq s i v) j = if j = i then some v else reqOf s j := by
  unfold reqOf setReq; by_cases h : j = i
  · subst h; simp
  · simp [h, lookupN_putN_ne]
theorem reqOf_updReq (s : State) (i j : Nat) (f : Request → Request) :
    reqOf (updReq s i f) j = if j = i then (reqOf s i).map f else reqOf s j := by
  unfold updReq; by_cases h : j = i
  · subst h; cases e : reqOf s j <;> simp [e, reqOf_setReq]
  · cases e : reqOf s i <;> simp [h, reqOf_setReq]
@[simp] theorem reqOf_updReq_self (s : State) (h : Nat) (f : Request → Request) : reqOf (updReq s h f) h = (reqOf s h).map f := by
  simp [reqOf_updReq]
@[simp] theorem hlOf_updHl_self (s : State) (d : Nat) (f : HlState → HlState) : hlOf (updHl s d f) d = f (hlOf s d) := by
  simp [hlOf, updHl]
theorem hlOf_updHl_ne (s : State) (d : Nat) (f : HlState → HlState) {e : Nat} (h : e ≠ d) : hlOf (updHl s d f) e = hlOf s e := by
  simp [hlOf, updHl, siteSt_updSite_ne _ _ _ h]
@[simp] theorem jobOf_updJob_self (s : State) (p : Nat) (f : Job → Job) : jobOf (updJob s p f) p = (jobOf s p).map f := by
  simp [jobOf, updJob]
theorem jobOf_updJob_ne (s : State) (p : Nat) (f : Job → Job) {q : Nat} (h : q ≠ p) : jobOf (updJob s p f) q = jobOf s q := by
  simp [jobOf, updJob, partOf_updPart_ne _ _ _ h]

/-! The other parts. -/

@[simp] theorem coreOf_setRouter (s : State) (r : Nat) (v : RouterState) (x : Nat) : coreOf (setRouter s r v) x = coreOf s x := rfl
@[simp] theorem coreOf_updRouter (s : State) (r : Nat) (f : RouterState → RouterState) (x : Nat) : coreOf (updRouter s r f) x = coreOf s x := rfl
@[simp] theorem coreOf_setCl (s : State) (k : Nat) (v : ClusterState) (x : Nat) : coreOf (setCl s k v) x = coreOf s x := rfl
@[simp] theorem coreOf_updCl (s : State) (k : Nat) (f : ClusterState → ClusterState) (x : Nat) : coreOf (updCl s k f) x = coreOf s x := rfl
@[simp] theorem coreOf_setCc (s : State) (i : Nat) (v : CcState) (x : Nat) : coreOf (setCc s i v) x = coreOf s x := rfl
@[simp] theorem coreOf_updCc (s : State) (i : Nat) (f : CcState → CcState) (x : Nat) : coreOf (updCc s i f) x = coreOf s x := rfl
@[simp] theorem coreOf_setSite (s : State) (d : Nat) (v : SiteState) (x : Nat) : coreOf (setSite s d v) x = coreOf s x := rfl
@[simp] theorem coreOf_updSite (s : State) (d : Nat) (f : SiteState → SiteState) (x : Nat) : coreOf (updSite s d f) x = coreOf s x := rfl
@[simp] theorem coreOf_updHl (s : State) (d : Nat) (f : HlState → HlState) (x : Nat) : coreOf (updHl s d f) x = coreOf s x := rfl
@[simp] theorem coreOf_setWl (s : State) (n : Nat) (v : WlState) (x : Nat) : coreOf (setWl s n v) x = coreOf s x := rfl
@[simp] theorem coreOf_updWl (s : State) (n : Nat) (f : WlState → WlState) (x : Nat) : coreOf (updWl s n f) x = coreOf s x := rfl
@[simp] theorem coreOf_setPart (s : State) (p : Nat) (v : PartState) (x : Nat) : coreOf (setPart s p v) x = coreOf s x := rfl
@[simp] theorem coreOf_updPart (s : State) (p : Nat) (f : PartState → PartState) (x : Nat) : coreOf (updPart s p f) x = coreOf s x := rfl
@[simp] theorem coreOf_updJob (s : State) (p : Nat) (f : Job → Job) (x : Nat) : coreOf (updJob s p f) x = coreOf s x := rfl
@[simp] theorem coreOf_setReq (s : State) (h : Nat) (v : Request) (x : Nat) : coreOf (setReq s h v) x = coreOf s x := rfl
@[simp] theorem coreOf_updReq (s : State) (h : Nat) (f : Request → Request) (x : Nat) : coreOf (updReq s h f) x = coreOf s x := by unfold updReq; split <;> rfl
@[simp] theorem coreOf_updFin (s : State) (f : Finder → Finder) (x : Nat) : coreOf (updFin s f) x = coreOf s x := rfl
@[simp] theorem coreOf_updStw (s : State) (f : Steward → Steward) (x : Nat) : coreOf (updStw s f) x = coreOf s x := rfl
@[simp] theorem coreOf_updMgmt (s : State) (f : Mgmt → Mgmt) (x : Nat) : coreOf (updMgmt s f) x = coreOf s x := rfl
@[simp] theorem coreOf_updSec (s : State) (f : Security → Security) (x : Nat) : coreOf (updSec s f) x = coreOf s x := rfl
@[simp] theorem coreOf_vaultWrite (s : State) (k a : Nat) (b : Bytes) (x : Nat) : coreOf (vaultWrite s k a b) x = coreOf s x := rfl
@[simp] theorem coreOf_setKreg (s : State) (k off v : Nat) (x : Nat) : coreOf (setKreg s k off v) x = coreOf s x := rfl
@[simp] theorem coreOf_setRreg (s : State) (r off v : Nat) (x : Nat) : coreOf (setRreg s r off v) x = coreOf s x := rfl
@[simp] theorem coreOf_setDreg (s : State) (d off v : Nat) (x : Nat) : coreOf (setDreg s d off v) x = coreOf s x := rfl
@[simp] theorem coreOf_setIreg (s : State) (die off v : Nat) (x : Nat) : coreOf (setIreg s die off v) x = coreOf s x := rfl
@[simp] theorem coreOf_setObj (s : State) (ix sub v : Nat) (x : Nat) : coreOf (setObj s ix sub v) x = coreOf s x := rfl
@[simp] theorem coreOf_setShare (s : State) (k v : Nat) (x : Nat) : coreOf (setShare s k v) x = coreOf s x := rfl
@[simp] theorem coreOf_sendCtrl (s : State) (m : CtrlMsg) (x : Nat) : coreOf (sendCtrl s m) x = coreOf s x := rfl
@[simp] theorem coreOf_landCtrl (s : State) (m : CtrlMsg) (x : Nat) : coreOf (landCtrl s m) x = coreOf s x := rfl
@[simp] theorem coreOf_finderBroadcast (s : State) (n tag : Nat) (l : List Nat) (x : Nat) : coreOf (finderBroadcast s n tag l) x = coreOf s x := rfl
@[simp] theorem coreOf_emit (s : State) (rep : Nat) (e : EventRec) (x : Nat) : coreOf (emit s rep e) x = coreOf s x := rfl
@[simp] theorem coreOf_raise (s : State) (code sev unit rep : Nat) (d : Bytes) (x : Nat) : coreOf (raise s code sev unit rep d) x = coreOf s x := rfl
@[simp] theorem coreOf_takeFree (s : State) (n x : Nat) : coreOf (takeFree s n).2 x = coreOf s x := rfl
@[simp] theorem coreOf_freeBytes (s : State) (n x : Nat) : coreOf (freeBytes s n).2 x = coreOf s x := rfl

@[simp] theorem routerOf_setCore (s : State) (c : Nat) (v : CoreState) (x : Nat) : routerOf (setCore s c v) x = routerOf s x := rfl
@[simp] theorem routerOf_updCore (s : State) (c : Nat) (f : CoreState → CoreState) (x : Nat) : routerOf (updCore s c f) x = routerOf s x := rfl
@[simp] theorem routerOf_setCl (s : State) (k : Nat) (v : ClusterState) (x : Nat) : routerOf (setCl s k v) x = routerOf s x := rfl
@[simp] theorem routerOf_updCl (s : State) (k : Nat) (f : ClusterState → ClusterState) (x : Nat) : routerOf (updCl s k f) x = routerOf s x := rfl
@[simp] theorem routerOf_setCc (s : State) (i : Nat) (v : CcState) (x : Nat) : routerOf (setCc s i v) x = routerOf s x := rfl
@[simp] theorem routerOf_updCc (s : State) (i : Nat) (f : CcState → CcState) (x : Nat) : routerOf (updCc s i f) x = routerOf s x := rfl
@[simp] theorem routerOf_setSite (s : State) (d : Nat) (v : SiteState) (x : Nat) : routerOf (setSite s d v) x = routerOf s x := rfl
@[simp] theorem routerOf_updSite (s : State) (d : Nat) (f : SiteState → SiteState) (x : Nat) : routerOf (updSite s d f) x = routerOf s x := rfl
@[simp] theorem routerOf_updHl (s : State) (d : Nat) (f : HlState → HlState) (x : Nat) : routerOf (updHl s d f) x = routerOf s x := rfl
@[simp] theorem routerOf_setWl (s : State) (n : Nat) (v : WlState) (x : Nat) : routerOf (setWl s n v) x = routerOf s x := rfl
@[simp] theorem routerOf_updWl (s : State) (n : Nat) (f : WlState → WlState) (x : Nat) : routerOf (updWl s n f) x = routerOf s x := rfl
@[simp] theorem routerOf_setPart (s : State) (p : Nat) (v : PartState) (x : Nat) : routerOf (setPart s p v) x = routerOf s x := rfl
@[simp] theorem routerOf_updPart (s : State) (p : Nat) (f : PartState → PartState) (x : Nat) : routerOf (updPart s p f) x = routerOf s x := rfl
@[simp] theorem routerOf_updJob (s : State) (p : Nat) (f : Job → Job) (x : Nat) : routerOf (updJob s p f) x = routerOf s x := rfl
@[simp] theorem routerOf_setReq (s : State) (h : Nat) (v : Request) (x : Nat) : routerOf (setReq s h v) x = routerOf s x := rfl
@[simp] theorem routerOf_updReq (s : State) (h : Nat) (f : Request → Request) (x : Nat) : routerOf (updReq s h f) x = routerOf s x := by unfold updReq; split <;> rfl
@[simp] theorem routerOf_updFin (s : State) (f : Finder → Finder) (x : Nat) : routerOf (updFin s f) x = routerOf s x := rfl
@[simp] theorem routerOf_updStw (s : State) (f : Steward → Steward) (x : Nat) : routerOf (updStw s f) x = routerOf s x := rfl
@[simp] theorem routerOf_updMgmt (s : State) (f : Mgmt → Mgmt) (x : Nat) : routerOf (updMgmt s f) x = routerOf s x := rfl
@[simp] theorem routerOf_updSec (s : State) (f : Security → Security) (x : Nat) : routerOf (updSec s f) x = routerOf s x := rfl
@[simp] theorem routerOf_spadWrite (s : State) (c a : Nat) (b : Bytes) (x : Nat) : routerOf (spadWrite s c a b) x = routerOf s x := rfl
@[simp] theorem routerOf_vaultWrite (s : State) (k a : Nat) (b : Bytes) (x : Nat) : routerOf (vaultWrite s k a b) x = routerOf s x := rfl
@[simp] theorem routerOf_setSem (s : State) (c n v : Nat) (x : Nat) : routerOf (setSem s c n v) x = routerOf s x := rfl
@[simp] theorem routerOf_setCreg (s : State) (c off v : Nat) (x : Nat) : routerOf (setCreg s c off v) x = routerOf s x := rfl
@[simp] theorem routerOf_setKreg (s : State) (k off v : Nat) (x : Nat) : routerOf (setKreg s k off v) x = routerOf s x := rfl
@[simp] theorem routerOf_setDreg (s : State) (d off v : Nat) (x : Nat) : routerOf (setDreg s d off v) x = routerOf s x := rfl
@[simp] theorem routerOf_setIreg (s : State) (die off v : Nat) (x : Nat) : routerOf (setIreg s die off v) x = routerOf s x := rfl
@[simp] theorem routerOf_setObj (s : State) (ix sub v : Nat) (x : Nat) : routerOf (setObj s ix sub v) x = routerOf s x := rfl
@[simp] theorem routerOf_setShare (s : State) (k v : Nat) (x : Nat) : routerOf (setShare s k v) x = routerOf s x := rfl
@[simp] theorem routerOf_sendCtrl (s : State) (m : CtrlMsg) (x : Nat) : routerOf (sendCtrl s m) x = routerOf s x := rfl
@[simp] theorem routerOf_landCtrl (s : State) (m : CtrlMsg) (x : Nat) : routerOf (landCtrl s m) x = routerOf s x := rfl
@[simp] theorem routerOf_finderBroadcast (s : State) (n tag : Nat) (l : List Nat) (x : Nat) : routerOf (finderBroadcast s n tag l) x = routerOf s x := rfl
@[simp] theorem routerOf_emit (s : State) (rep : Nat) (e : EventRec) (x : Nat) : routerOf (emit s rep e) x = routerOf s x := rfl
@[simp] theorem routerOf_raise (s : State) (code sev unit rep : Nat) (d : Bytes) (x : Nat) : routerOf (raise s code sev unit rep d) x = routerOf s x := rfl
@[simp] theorem routerOf_takeFree (s : State) (n x : Nat) : routerOf (takeFree s n).2 x = routerOf s x := rfl
@[simp] theorem routerOf_freeBytes (s : State) (n x : Nat) : routerOf (freeBytes s n).2 x = routerOf s x := rfl

@[simp] theorem clOf_setCore (s : State) (c : Nat) (v : CoreState) (x : Nat) : clOf (setCore s c v) x = clOf s x := rfl
@[simp] theorem clOf_updCore (s : State) (c : Nat) (f : CoreState → CoreState) (x : Nat) : clOf (updCore s c f) x = clOf s x := rfl
@[simp] theorem clOf_setRouter (s : State) (r : Nat) (v : RouterState) (x : Nat) : clOf (setRouter s r v) x = clOf s x := rfl
@[simp] theorem clOf_updRouter (s : State) (r : Nat) (f : RouterState → RouterState) (x : Nat) : clOf (updRouter s r f) x = clOf s x := rfl
@[simp] theorem clOf_setCc (s : State) (i : Nat) (v : CcState) (x : Nat) : clOf (setCc s i v) x = clOf s x := rfl
@[simp] theorem clOf_updCc (s : State) (i : Nat) (f : CcState → CcState) (x : Nat) : clOf (updCc s i f) x = clOf s x := rfl
@[simp] theorem clOf_setSite (s : State) (d : Nat) (v : SiteState) (x : Nat) : clOf (setSite s d v) x = clOf s x := rfl
@[simp] theorem clOf_updSite (s : State) (d : Nat) (f : SiteState → SiteState) (x : Nat) : clOf (updSite s d f) x = clOf s x := rfl
@[simp] theorem clOf_updHl (s : State) (d : Nat) (f : HlState → HlState) (x : Nat) : clOf (updHl s d f) x = clOf s x := rfl
@[simp] theorem clOf_setWl (s : State) (n : Nat) (v : WlState) (x : Nat) : clOf (setWl s n v) x = clOf s x := rfl
@[simp] theorem clOf_updWl (s : State) (n : Nat) (f : WlState → WlState) (x : Nat) : clOf (updWl s n f) x = clOf s x := rfl
@[simp] theorem clOf_setPart (s : State) (p : Nat) (v : PartState) (x : Nat) : clOf (setPart s p v) x = clOf s x := rfl
@[simp] theorem clOf_updPart (s : State) (p : Nat) (f : PartState → PartState) (x : Nat) : clOf (updPart s p f) x = clOf s x := rfl
@[simp] theorem clOf_updJob (s : State) (p : Nat) (f : Job → Job) (x : Nat) : clOf (updJob s p f) x = clOf s x := rfl
@[simp] theorem clOf_setReq (s : State) (h : Nat) (v : Request) (x : Nat) : clOf (setReq s h v) x = clOf s x := rfl
@[simp] theorem clOf_updReq (s : State) (h : Nat) (f : Request → Request) (x : Nat) : clOf (updReq s h f) x = clOf s x := by unfold updReq; split <;> rfl
@[simp] theorem clOf_updFin (s : State) (f : Finder → Finder) (x : Nat) : clOf (updFin s f) x = clOf s x := rfl
@[simp] theorem clOf_updStw (s : State) (f : Steward → Steward) (x : Nat) : clOf (updStw s f) x = clOf s x := rfl
@[simp] theorem clOf_updMgmt (s : State) (f : Mgmt → Mgmt) (x : Nat) : clOf (updMgmt s f) x = clOf s x := rfl
@[simp] theorem clOf_updSec (s : State) (f : Security → Security) (x : Nat) : clOf (updSec s f) x = clOf s x := rfl
@[simp] theorem clOf_spadWrite (s : State) (c a : Nat) (b : Bytes) (x : Nat) : clOf (spadWrite s c a b) x = clOf s x := rfl
@[simp] theorem clOf_setSem (s : State) (c n v : Nat) (x : Nat) : clOf (setSem s c n v) x = clOf s x := rfl
@[simp] theorem clOf_setCreg (s : State) (c off v : Nat) (x : Nat) : clOf (setCreg s c off v) x = clOf s x := rfl
@[simp] theorem clOf_setRreg (s : State) (r off v : Nat) (x : Nat) : clOf (setRreg s r off v) x = clOf s x := rfl
@[simp] theorem clOf_setDreg (s : State) (d off v : Nat) (x : Nat) : clOf (setDreg s d off v) x = clOf s x := rfl
@[simp] theorem clOf_setIreg (s : State) (die off v : Nat) (x : Nat) : clOf (setIreg s die off v) x = clOf s x := rfl
@[simp] theorem clOf_setObj (s : State) (ix sub v : Nat) (x : Nat) : clOf (setObj s ix sub v) x = clOf s x := rfl
@[simp] theorem clOf_sendCtrl (s : State) (m : CtrlMsg) (x : Nat) : clOf (sendCtrl s m) x = clOf s x := rfl
@[simp] theorem clOf_landCtrl (s : State) (m : CtrlMsg) (x : Nat) : clOf (landCtrl s m) x = clOf s x := rfl
@[simp] theorem clOf_finderBroadcast (s : State) (n tag : Nat) (l : List Nat) (x : Nat) : clOf (finderBroadcast s n tag l) x = clOf s x := rfl
@[simp] theorem clOf_emit (s : State) (rep : Nat) (e : EventRec) (x : Nat) : clOf (emit s rep e) x = clOf s x := rfl
@[simp] theorem clOf_raise (s : State) (code sev unit rep : Nat) (d : Bytes) (x : Nat) : clOf (raise s code sev unit rep d) x = clOf s x := rfl
@[simp] theorem clOf_takeFree (s : State) (n x : Nat) : clOf (takeFree s n).2 x = clOf s x := rfl
@[simp] theorem clOf_freeBytes (s : State) (n x : Nat) : clOf (freeBytes s n).2 x = clOf s x := rfl

@[simp] theorem ccOf_setCore (s : State) (c : Nat) (v : CoreState) (x : Nat) : ccOf (setCore s c v) x = ccOf s x := rfl
@[simp] theorem ccOf_updCore (s : State) (c : Nat) (f : CoreState → CoreState) (x : Nat) : ccOf (updCore s c f) x = ccOf s x := rfl
@[simp] theorem ccOf_setRouter (s : State) (r : Nat) (v : RouterState) (x : Nat) : ccOf (setRouter s r v) x = ccOf s x := rfl
@[simp] theorem ccOf_updRouter (s : State) (r : Nat) (f : RouterState → RouterState) (x : Nat) : ccOf (updRouter s r f) x = ccOf s x := rfl
@[simp] theorem ccOf_setCl (s : State) (k : Nat) (v : ClusterState) (x : Nat) : ccOf (setCl s k v) x = ccOf s x := rfl
@[simp] theorem ccOf_updCl (s : State) (k : Nat) (f : ClusterState → ClusterState) (x : Nat) : ccOf (updCl s k f) x = ccOf s x := rfl
@[simp] theorem ccOf_setSite (s : State) (d : Nat) (v : SiteState) (x : Nat) : ccOf (setSite s d v) x = ccOf s x := rfl
@[simp] theorem ccOf_updSite (s : State) (d : Nat) (f : SiteState → SiteState) (x : Nat) : ccOf (updSite s d f) x = ccOf s x := rfl
@[simp] theorem ccOf_updHl (s : State) (d : Nat) (f : HlState → HlState) (x : Nat) : ccOf (updHl s d f) x = ccOf s x := rfl
@[simp] theorem ccOf_setWl (s : State) (n : Nat) (v : WlState) (x : Nat) : ccOf (setWl s n v) x = ccOf s x := rfl
@[simp] theorem ccOf_updWl (s : State) (n : Nat) (f : WlState → WlState) (x : Nat) : ccOf (updWl s n f) x = ccOf s x := rfl
@[simp] theorem ccOf_setPart (s : State) (p : Nat) (v : PartState) (x : Nat) : ccOf (setPart s p v) x = ccOf s x := rfl
@[simp] theorem ccOf_updPart (s : State) (p : Nat) (f : PartState → PartState) (x : Nat) : ccOf (updPart s p f) x = ccOf s x := rfl
@[simp] theorem ccOf_updJob (s : State) (p : Nat) (f : Job → Job) (x : Nat) : ccOf (updJob s p f) x = ccOf s x := rfl
@[simp] theorem ccOf_setReq (s : State) (h : Nat) (v : Request) (x : Nat) : ccOf (setReq s h v) x = ccOf s x := rfl
@[simp] theorem ccOf_updReq (s : State) (h : Nat) (f : Request → Request) (x : Nat) : ccOf (updReq s h f) x = ccOf s x := by unfold updReq; split <;> rfl
@[simp] theorem ccOf_updFin (s : State) (f : Finder → Finder) (x : Nat) : ccOf (updFin s f) x = ccOf s x := rfl
@[simp] theorem ccOf_updStw (s : State) (f : Steward → Steward) (x : Nat) : ccOf (updStw s f) x = ccOf s x := rfl
@[simp] theorem ccOf_updMgmt (s : State) (f : Mgmt → Mgmt) (x : Nat) : ccOf (updMgmt s f) x = ccOf s x := rfl
@[simp] theorem ccOf_updSec (s : State) (f : Security → Security) (x : Nat) : ccOf (updSec s f) x = ccOf s x := rfl
@[simp] theorem ccOf_spadWrite (s : State) (c a : Nat) (b : Bytes) (x : Nat) : ccOf (spadWrite s c a b) x = ccOf s x := rfl
@[simp] theorem ccOf_vaultWrite (s : State) (k a : Nat) (b : Bytes) (x : Nat) : ccOf (vaultWrite s k a b) x = ccOf s x := rfl
@[simp] theorem ccOf_setSem (s : State) (c n v : Nat) (x : Nat) : ccOf (setSem s c n v) x = ccOf s x := rfl
@[simp] theorem ccOf_setCreg (s : State) (c off v : Nat) (x : Nat) : ccOf (setCreg s c off v) x = ccOf s x := rfl
@[simp] theorem ccOf_setKreg (s : State) (k off v : Nat) (x : Nat) : ccOf (setKreg s k off v) x = ccOf s x := rfl
@[simp] theorem ccOf_setRreg (s : State) (r off v : Nat) (x : Nat) : ccOf (setRreg s r off v) x = ccOf s x := rfl
@[simp] theorem ccOf_setDreg (s : State) (d off v : Nat) (x : Nat) : ccOf (setDreg s d off v) x = ccOf s x := rfl
@[simp] theorem ccOf_setIreg (s : State) (die off v : Nat) (x : Nat) : ccOf (setIreg s die off v) x = ccOf s x := rfl
@[simp] theorem ccOf_setObj (s : State) (ix sub v : Nat) (x : Nat) : ccOf (setObj s ix sub v) x = ccOf s x := rfl
@[simp] theorem ccOf_setShare (s : State) (k v : Nat) (x : Nat) : ccOf (setShare s k v) x = ccOf s x := rfl
@[simp] theorem ccOf_sendCtrl (s : State) (m : CtrlMsg) (x : Nat) : ccOf (sendCtrl s m) x = ccOf s x := rfl
@[simp] theorem ccOf_landCtrl (s : State) (m : CtrlMsg) (x : Nat) : ccOf (landCtrl s m) x = ccOf s x := rfl
@[simp] theorem ccOf_finderBroadcast (s : State) (n tag : Nat) (l : List Nat) (x : Nat) : ccOf (finderBroadcast s n tag l) x = ccOf s x := rfl
@[simp] theorem ccOf_emit (s : State) (rep : Nat) (e : EventRec) (x : Nat) : ccOf (emit s rep e) x = ccOf s x := rfl
@[simp] theorem ccOf_raise (s : State) (code sev unit rep : Nat) (d : Bytes) (x : Nat) : ccOf (raise s code sev unit rep d) x = ccOf s x := rfl
@[simp] theorem ccOf_takeFree (s : State) (n x : Nat) : ccOf (takeFree s n).2 x = ccOf s x := rfl
@[simp] theorem ccOf_freeBytes (s : State) (n x : Nat) : ccOf (freeBytes s n).2 x = ccOf s x := rfl

@[simp] theorem siteSt_setCore (s : State) (c : Nat) (v : CoreState) (x : Nat) : siteSt (setCore s c v) x = siteSt s x := rfl
@[simp] theorem siteSt_updCore (s : State) (c : Nat) (f : CoreState → CoreState) (x : Nat) : siteSt (updCore s c f) x = siteSt s x := rfl
@[simp] theorem siteSt_setRouter (s : State) (r : Nat) (v : RouterState) (x : Nat) : siteSt (setRouter s r v) x = siteSt s x := rfl
@[simp] theorem siteSt_updRouter (s : State) (r : Nat) (f : RouterState → RouterState) (x : Nat) : siteSt (updRouter s r f) x = siteSt s x := rfl
@[simp] theorem siteSt_setCl (s : State) (k : Nat) (v : ClusterState) (x : Nat) : siteSt (setCl s k v) x = siteSt s x := rfl
@[simp] theorem siteSt_updCl (s : State) (k : Nat) (f : ClusterState → ClusterState) (x : Nat) : siteSt (updCl s k f) x = siteSt s x := rfl
@[simp] theorem siteSt_setCc (s : State) (i : Nat) (v : CcState) (x : Nat) : siteSt (setCc s i v) x = siteSt s x := rfl
@[simp] theorem siteSt_updCc (s : State) (i : Nat) (f : CcState → CcState) (x : Nat) : siteSt (updCc s i f) x = siteSt s x := rfl
@[simp] theorem siteSt_setWl (s : State) (n : Nat) (v : WlState) (x : Nat) : siteSt (setWl s n v) x = siteSt s x := rfl
@[simp] theorem siteSt_updWl (s : State) (n : Nat) (f : WlState → WlState) (x : Nat) : siteSt (updWl s n f) x = siteSt s x := rfl
@[simp] theorem siteSt_setPart (s : State) (p : Nat) (v : PartState) (x : Nat) : siteSt (setPart s p v) x = siteSt s x := rfl
@[simp] theorem siteSt_updPart (s : State) (p : Nat) (f : PartState → PartState) (x : Nat) : siteSt (updPart s p f) x = siteSt s x := rfl
@[simp] theorem siteSt_updJob (s : State) (p : Nat) (f : Job → Job) (x : Nat) : siteSt (updJob s p f) x = siteSt s x := rfl
@[simp] theorem siteSt_setReq (s : State) (h : Nat) (v : Request) (x : Nat) : siteSt (setReq s h v) x = siteSt s x := rfl
@[simp] theorem siteSt_updReq (s : State) (h : Nat) (f : Request → Request) (x : Nat) : siteSt (updReq s h f) x = siteSt s x := by unfold updReq; split <;> rfl
@[simp] theorem siteSt_updFin (s : State) (f : Finder → Finder) (x : Nat) : siteSt (updFin s f) x = siteSt s x := rfl
@[simp] theorem siteSt_updStw (s : State) (f : Steward → Steward) (x : Nat) : siteSt (updStw s f) x = siteSt s x := rfl
@[simp] theorem siteSt_updMgmt (s : State) (f : Mgmt → Mgmt) (x : Nat) : siteSt (updMgmt s f) x = siteSt s x := rfl
@[simp] theorem siteSt_updSec (s : State) (f : Security → Security) (x : Nat) : siteSt (updSec s f) x = siteSt s x := rfl
@[simp] theorem siteSt_spadWrite (s : State) (c a : Nat) (b : Bytes) (x : Nat) : siteSt (spadWrite s c a b) x = siteSt s x := rfl
@[simp] theorem siteSt_vaultWrite (s : State) (k a : Nat) (b : Bytes) (x : Nat) : siteSt (vaultWrite s k a b) x = siteSt s x := rfl
@[simp] theorem siteSt_setSem (s : State) (c n v : Nat) (x : Nat) : siteSt (setSem s c n v) x = siteSt s x := rfl
@[simp] theorem siteSt_setCreg (s : State) (c off v : Nat) (x : Nat) : siteSt (setCreg s c off v) x = siteSt s x := rfl
@[simp] theorem siteSt_setKreg (s : State) (k off v : Nat) (x : Nat) : siteSt (setKreg s k off v) x = siteSt s x := rfl
@[simp] theorem siteSt_setRreg (s : State) (r off v : Nat) (x : Nat) : siteSt (setRreg s r off v) x = siteSt s x := rfl
@[simp] theorem siteSt_setIreg (s : State) (die off v : Nat) (x : Nat) : siteSt (setIreg s die off v) x = siteSt s x := rfl
@[simp] theorem siteSt_setObj (s : State) (ix sub v : Nat) (x : Nat) : siteSt (setObj s ix sub v) x = siteSt s x := rfl
@[simp] theorem siteSt_setShare (s : State) (k v : Nat) (x : Nat) : siteSt (setShare s k v) x = siteSt s x := rfl
@[simp] theorem siteSt_sendCtrl (s : State) (m : CtrlMsg) (x : Nat) : siteSt (sendCtrl s m) x = siteSt s x := rfl
@[simp] theorem siteSt_landCtrl (s : State) (m : CtrlMsg) (x : Nat) : siteSt (landCtrl s m) x = siteSt s x := rfl
@[simp] theorem siteSt_finderBroadcast (s : State) (n tag : Nat) (l : List Nat) (x : Nat) : siteSt (finderBroadcast s n tag l) x = siteSt s x := rfl
@[simp] theorem siteSt_emit (s : State) (rep : Nat) (e : EventRec) (x : Nat) : siteSt (emit s rep e) x = siteSt s x := rfl
@[simp] theorem siteSt_raise (s : State) (code sev unit rep : Nat) (d : Bytes) (x : Nat) : siteSt (raise s code sev unit rep d) x = siteSt s x := rfl
@[simp] theorem siteSt_takeFree (s : State) (n x : Nat) : siteSt (takeFree s n).2 x = siteSt s x := rfl
@[simp] theorem siteSt_freeBytes (s : State) (n x : Nat) : siteSt (freeBytes s n).2 x = siteSt s x := rfl

@[simp] theorem wlOf_setCore (s : State) (c : Nat) (v : CoreState) (x : Nat) : wlOf (setCore s c v) x = wlOf s x := rfl
@[simp] theorem wlOf_updCore (s : State) (c : Nat) (f : CoreState → CoreState) (x : Nat) : wlOf (updCore s c f) x = wlOf s x := rfl
@[simp] theorem wlOf_setRouter (s : State) (r : Nat) (v : RouterState) (x : Nat) : wlOf (setRouter s r v) x = wlOf s x := rfl
@[simp] theorem wlOf_updRouter (s : State) (r : Nat) (f : RouterState → RouterState) (x : Nat) : wlOf (updRouter s r f) x = wlOf s x := rfl
@[simp] theorem wlOf_setCl (s : State) (k : Nat) (v : ClusterState) (x : Nat) : wlOf (setCl s k v) x = wlOf s x := rfl
@[simp] theorem wlOf_updCl (s : State) (k : Nat) (f : ClusterState → ClusterState) (x : Nat) : wlOf (updCl s k f) x = wlOf s x := rfl
@[simp] theorem wlOf_setCc (s : State) (i : Nat) (v : CcState) (x : Nat) : wlOf (setCc s i v) x = wlOf s x := rfl
@[simp] theorem wlOf_updCc (s : State) (i : Nat) (f : CcState → CcState) (x : Nat) : wlOf (updCc s i f) x = wlOf s x := rfl
@[simp] theorem wlOf_setSite (s : State) (d : Nat) (v : SiteState) (x : Nat) : wlOf (setSite s d v) x = wlOf s x := rfl
@[simp] theorem wlOf_updSite (s : State) (d : Nat) (f : SiteState → SiteState) (x : Nat) : wlOf (updSite s d f) x = wlOf s x := rfl
@[simp] theorem wlOf_updHl (s : State) (d : Nat) (f : HlState → HlState) (x : Nat) : wlOf (updHl s d f) x = wlOf s x := rfl
@[simp] theorem wlOf_setPart (s : State) (p : Nat) (v : PartState) (x : Nat) : wlOf (setPart s p v) x = wlOf s x := rfl
@[simp] theorem wlOf_updPart (s : State) (p : Nat) (f : PartState → PartState) (x : Nat) : wlOf (updPart s p f) x = wlOf s x := rfl
@[simp] theorem wlOf_updJob (s : State) (p : Nat) (f : Job → Job) (x : Nat) : wlOf (updJob s p f) x = wlOf s x := rfl
@[simp] theorem wlOf_setReq (s : State) (h : Nat) (v : Request) (x : Nat) : wlOf (setReq s h v) x = wlOf s x := rfl
@[simp] theorem wlOf_updReq (s : State) (h : Nat) (f : Request → Request) (x : Nat) : wlOf (updReq s h f) x = wlOf s x := by unfold updReq; split <;> rfl
@[simp] theorem wlOf_updFin (s : State) (f : Finder → Finder) (x : Nat) : wlOf (updFin s f) x = wlOf s x := rfl
@[simp] theorem wlOf_updStw (s : State) (f : Steward → Steward) (x : Nat) : wlOf (updStw s f) x = wlOf s x := rfl
@[simp] theorem wlOf_updMgmt (s : State) (f : Mgmt → Mgmt) (x : Nat) : wlOf (updMgmt s f) x = wlOf s x := rfl
@[simp] theorem wlOf_updSec (s : State) (f : Security → Security) (x : Nat) : wlOf (updSec s f) x = wlOf s x := rfl
@[simp] theorem wlOf_spadWrite (s : State) (c a : Nat) (b : Bytes) (x : Nat) : wlOf (spadWrite s c a b) x = wlOf s x := rfl
@[simp] theorem wlOf_vaultWrite (s : State) (k a : Nat) (b : Bytes) (x : Nat) : wlOf (vaultWrite s k a b) x = wlOf s x := rfl
@[simp] theorem wlOf_setSem (s : State) (c n v : Nat) (x : Nat) : wlOf (setSem s c n v) x = wlOf s x := rfl
@[simp] theorem wlOf_setCreg (s : State) (c off v : Nat) (x : Nat) : wlOf (setCreg s c off v) x = wlOf s x := rfl
@[simp] theorem wlOf_setKreg (s : State) (k off v : Nat) (x : Nat) : wlOf (setKreg s k off v) x = wlOf s x := rfl
@[simp] theorem wlOf_setRreg (s : State) (r off v : Nat) (x : Nat) : wlOf (setRreg s r off v) x = wlOf s x := rfl
@[simp] theorem wlOf_setDreg (s : State) (d off v : Nat) (x : Nat) : wlOf (setDreg s d off v) x = wlOf s x := rfl
@[simp] theorem wlOf_setIreg (s : State) (die off v : Nat) (x : Nat) : wlOf (setIreg s die off v) x = wlOf s x := rfl
@[simp] theorem wlOf_setObj (s : State) (ix sub v : Nat) (x : Nat) : wlOf (setObj s ix sub v) x = wlOf s x := rfl
@[simp] theorem wlOf_setShare (s : State) (k v : Nat) (x : Nat) : wlOf (setShare s k v) x = wlOf s x := rfl
@[simp] theorem wlOf_sendCtrl (s : State) (m : CtrlMsg) (x : Nat) : wlOf (sendCtrl s m) x = wlOf s x := rfl
@[simp] theorem wlOf_landCtrl (s : State) (m : CtrlMsg) (x : Nat) : wlOf (landCtrl s m) x = wlOf s x := rfl
@[simp] theorem wlOf_finderBroadcast (s : State) (n tag : Nat) (l : List Nat) (x : Nat) : wlOf (finderBroadcast s n tag l) x = wlOf s x := rfl
@[simp] theorem wlOf_emit (s : State) (rep : Nat) (e : EventRec) (x : Nat) : wlOf (emit s rep e) x = wlOf s x := rfl
@[simp] theorem wlOf_raise (s : State) (code sev unit rep : Nat) (d : Bytes) (x : Nat) : wlOf (raise s code sev unit rep d) x = wlOf s x := rfl
@[simp] theorem wlOf_takeFree (s : State) (n x : Nat) : wlOf (takeFree s n).2 x = wlOf s x := rfl
@[simp] theorem wlOf_freeBytes (s : State) (n x : Nat) : wlOf (freeBytes s n).2 x = wlOf s x := rfl

@[simp] theorem partOf_setCore (s : State) (c : Nat) (v : CoreState) (x : Nat) : partOf (setCore s c v) x = partOf s x := rfl
@[simp] theorem partOf_updCore (s : State) (c : Nat) (f : CoreState → CoreState) (x : Nat) : partOf (updCore s c f) x = partOf s x := rfl
@[simp] theorem partOf_setRouter (s : State) (r : Nat) (v : RouterState) (x : Nat) : partOf (setRouter s r v) x = partOf s x := rfl
@[simp] theorem partOf_updRouter (s : State) (r : Nat) (f : RouterState → RouterState) (x : Nat) : partOf (updRouter s r f) x = partOf s x := rfl
@[simp] theorem partOf_setCl (s : State) (k : Nat) (v : ClusterState) (x : Nat) : partOf (setCl s k v) x = partOf s x := rfl
@[simp] theorem partOf_updCl (s : State) (k : Nat) (f : ClusterState → ClusterState) (x : Nat) : partOf (updCl s k f) x = partOf s x := rfl
@[simp] theorem partOf_setCc (s : State) (i : Nat) (v : CcState) (x : Nat) : partOf (setCc s i v) x = partOf s x := rfl
@[simp] theorem partOf_updCc (s : State) (i : Nat) (f : CcState → CcState) (x : Nat) : partOf (updCc s i f) x = partOf s x := rfl
@[simp] theorem partOf_setSite (s : State) (d : Nat) (v : SiteState) (x : Nat) : partOf (setSite s d v) x = partOf s x := rfl
@[simp] theorem partOf_updSite (s : State) (d : Nat) (f : SiteState → SiteState) (x : Nat) : partOf (updSite s d f) x = partOf s x := rfl
@[simp] theorem partOf_updHl (s : State) (d : Nat) (f : HlState → HlState) (x : Nat) : partOf (updHl s d f) x = partOf s x := rfl
@[simp] theorem partOf_setWl (s : State) (n : Nat) (v : WlState) (x : Nat) : partOf (setWl s n v) x = partOf s x := rfl
@[simp] theorem partOf_updWl (s : State) (n : Nat) (f : WlState → WlState) (x : Nat) : partOf (updWl s n f) x = partOf s x := rfl
@[simp] theorem partOf_setReq (s : State) (h : Nat) (v : Request) (x : Nat) : partOf (setReq s h v) x = partOf s x := rfl
@[simp] theorem partOf_updReq (s : State) (h : Nat) (f : Request → Request) (x : Nat) : partOf (updReq s h f) x = partOf s x := by unfold updReq; split <;> rfl
@[simp] theorem partOf_updFin (s : State) (f : Finder → Finder) (x : Nat) : partOf (updFin s f) x = partOf s x := rfl
@[simp] theorem partOf_updStw (s : State) (f : Steward → Steward) (x : Nat) : partOf (updStw s f) x = partOf s x := rfl
@[simp] theorem partOf_updMgmt (s : State) (f : Mgmt → Mgmt) (x : Nat) : partOf (updMgmt s f) x = partOf s x := rfl
@[simp] theorem partOf_updSec (s : State) (f : Security → Security) (x : Nat) : partOf (updSec s f) x = partOf s x := rfl
@[simp] theorem partOf_spadWrite (s : State) (c a : Nat) (b : Bytes) (x : Nat) : partOf (spadWrite s c a b) x = partOf s x := rfl
@[simp] theorem partOf_vaultWrite (s : State) (k a : Nat) (b : Bytes) (x : Nat) : partOf (vaultWrite s k a b) x = partOf s x := rfl
@[simp] theorem partOf_setSem (s : State) (c n v : Nat) (x : Nat) : partOf (setSem s c n v) x = partOf s x := rfl
@[simp] theorem partOf_setCreg (s : State) (c off v : Nat) (x : Nat) : partOf (setCreg s c off v) x = partOf s x := rfl
@[simp] theorem partOf_setKreg (s : State) (k off v : Nat) (x : Nat) : partOf (setKreg s k off v) x = partOf s x := rfl
@[simp] theorem partOf_setRreg (s : State) (r off v : Nat) (x : Nat) : partOf (setRreg s r off v) x = partOf s x := rfl
@[simp] theorem partOf_setDreg (s : State) (d off v : Nat) (x : Nat) : partOf (setDreg s d off v) x = partOf s x := rfl
@[simp] theorem partOf_setIreg (s : State) (die off v : Nat) (x : Nat) : partOf (setIreg s die off v) x = partOf s x := rfl
@[simp] theorem partOf_setObj (s : State) (ix sub v : Nat) (x : Nat) : partOf (setObj s ix sub v) x = partOf s x := rfl
@[simp] theorem partOf_setShare (s : State) (k v : Nat) (x : Nat) : partOf (setShare s k v) x = partOf s x := rfl
@[simp] theorem partOf_sendCtrl (s : State) (m : CtrlMsg) (x : Nat) : partOf (sendCtrl s m) x = partOf s x := rfl
@[simp] theorem partOf_landCtrl (s : State) (m : CtrlMsg) (x : Nat) : partOf (landCtrl s m) x = partOf s x := rfl
@[simp] theorem partOf_finderBroadcast (s : State) (n tag : Nat) (l : List Nat) (x : Nat) : partOf (finderBroadcast s n tag l) x = partOf s x := rfl
@[simp] theorem partOf_emit (s : State) (rep : Nat) (e : EventRec) (x : Nat) : partOf (emit s rep e) x = partOf s x := rfl
@[simp] theorem partOf_raise (s : State) (code sev unit rep : Nat) (d : Bytes) (x : Nat) : partOf (raise s code sev unit rep d) x = partOf s x := rfl
@[simp] theorem partOf_takeFree (s : State) (n x : Nat) : partOf (takeFree s n).2 x = partOf s x := rfl
@[simp] theorem partOf_freeBytes (s : State) (n x : Nat) : partOf (freeBytes s n).2 x = partOf s x := rfl

@[simp] theorem reqOf_setCore (s : State) (c : Nat) (v : CoreState) (x : Nat) : reqOf (setCore s c v) x = reqOf s x := rfl
@[simp] theorem reqOf_updCore (s : State) (c : Nat) (f : CoreState → CoreState) (x : Nat) : reqOf (updCore s c f) x = reqOf s x := rfl
@[simp] theorem reqOf_setRouter (s : State) (r : Nat) (v : RouterState) (x : Nat) : reqOf (setRouter s r v) x = reqOf s x := rfl
@[simp] theorem reqOf_updRouter (s : State) (r : Nat) (f : RouterState → RouterState) (x : Nat) : reqOf (updRouter s r f) x = reqOf s x := rfl
@[simp] theorem reqOf_setCl (s : State) (k : Nat) (v : ClusterState) (x : Nat) : reqOf (setCl s k v) x = reqOf s x := rfl
@[simp] theorem reqOf_updCl (s : State) (k : Nat) (f : ClusterState → ClusterState) (x : Nat) : reqOf (updCl s k f) x = reqOf s x := rfl
@[simp] theorem reqOf_setCc (s : State) (i : Nat) (v : CcState) (x : Nat) : reqOf (setCc s i v) x = reqOf s x := rfl
@[simp] theorem reqOf_updCc (s : State) (i : Nat) (f : CcState → CcState) (x : Nat) : reqOf (updCc s i f) x = reqOf s x := rfl
@[simp] theorem reqOf_setSite (s : State) (d : Nat) (v : SiteState) (x : Nat) : reqOf (setSite s d v) x = reqOf s x := rfl
@[simp] theorem reqOf_updSite (s : State) (d : Nat) (f : SiteState → SiteState) (x : Nat) : reqOf (updSite s d f) x = reqOf s x := rfl
@[simp] theorem reqOf_updHl (s : State) (d : Nat) (f : HlState → HlState) (x : Nat) : reqOf (updHl s d f) x = reqOf s x := rfl
@[simp] theorem reqOf_setWl (s : State) (n : Nat) (v : WlState) (x : Nat) : reqOf (setWl s n v) x = reqOf s x := rfl
@[simp] theorem reqOf_updWl (s : State) (n : Nat) (f : WlState → WlState) (x : Nat) : reqOf (updWl s n f) x = reqOf s x := rfl
@[simp] theorem reqOf_setPart (s : State) (p : Nat) (v : PartState) (x : Nat) : reqOf (setPart s p v) x = reqOf s x := rfl
@[simp] theorem reqOf_updPart (s : State) (p : Nat) (f : PartState → PartState) (x : Nat) : reqOf (updPart s p f) x = reqOf s x := rfl
@[simp] theorem reqOf_updJob (s : State) (p : Nat) (f : Job → Job) (x : Nat) : reqOf (updJob s p f) x = reqOf s x := rfl
@[simp] theorem reqOf_updFin (s : State) (f : Finder → Finder) (x : Nat) : reqOf (updFin s f) x = reqOf s x := rfl
@[simp] theorem reqOf_updStw (s : State) (f : Steward → Steward) (x : Nat) : reqOf (updStw s f) x = reqOf s x := rfl
@[simp] theorem reqOf_updMgmt (s : State) (f : Mgmt → Mgmt) (x : Nat) : reqOf (updMgmt s f) x = reqOf s x := rfl
@[simp] theorem reqOf_updSec (s : State) (f : Security → Security) (x : Nat) : reqOf (updSec s f) x = reqOf s x := rfl
@[simp] theorem reqOf_spadWrite (s : State) (c a : Nat) (b : Bytes) (x : Nat) : reqOf (spadWrite s c a b) x = reqOf s x := rfl
@[simp] theorem reqOf_vaultWrite (s : State) (k a : Nat) (b : Bytes) (x : Nat) : reqOf (vaultWrite s k a b) x = reqOf s x := rfl
@[simp] theorem reqOf_setSem (s : State) (c n v : Nat) (x : Nat) : reqOf (setSem s c n v) x = reqOf s x := rfl
@[simp] theorem reqOf_setCreg (s : State) (c off v : Nat) (x : Nat) : reqOf (setCreg s c off v) x = reqOf s x := rfl
@[simp] theorem reqOf_setKreg (s : State) (k off v : Nat) (x : Nat) : reqOf (setKreg s k off v) x = reqOf s x := rfl
@[simp] theorem reqOf_setRreg (s : State) (r off v : Nat) (x : Nat) : reqOf (setRreg s r off v) x = reqOf s x := rfl
@[simp] theorem reqOf_setDreg (s : State) (d off v : Nat) (x : Nat) : reqOf (setDreg s d off v) x = reqOf s x := rfl
@[simp] theorem reqOf_setIreg (s : State) (die off v : Nat) (x : Nat) : reqOf (setIreg s die off v) x = reqOf s x := rfl
@[simp] theorem reqOf_setObj (s : State) (ix sub v : Nat) (x : Nat) : reqOf (setObj s ix sub v) x = reqOf s x := rfl
@[simp] theorem reqOf_setShare (s : State) (k v : Nat) (x : Nat) : reqOf (setShare s k v) x = reqOf s x := rfl
@[simp] theorem reqOf_sendCtrl (s : State) (m : CtrlMsg) (x : Nat) : reqOf (sendCtrl s m) x = reqOf s x := rfl
@[simp] theorem reqOf_landCtrl (s : State) (m : CtrlMsg) (x : Nat) : reqOf (landCtrl s m) x = reqOf s x := rfl
@[simp] theorem reqOf_finderBroadcast (s : State) (n tag : Nat) (l : List Nat) (x : Nat) : reqOf (finderBroadcast s n tag l) x = reqOf s x := rfl
@[simp] theorem reqOf_emit (s : State) (rep : Nat) (e : EventRec) (x : Nat) : reqOf (emit s rep e) x = reqOf s x := rfl
@[simp] theorem reqOf_raise (s : State) (code sev unit rep : Nat) (d : Bytes) (x : Nat) : reqOf (raise s code sev unit rep d) x = reqOf s x := rfl
@[simp] theorem reqOf_takeFree (s : State) (n x : Nat) : reqOf (takeFree s n).2 x = reqOf s x := rfl
@[simp] theorem reqOf_freeBytes (s : State) (n x : Nat) : reqOf (freeBytes s n).2 x = reqOf s x := rfl

/-! Registers. A written value is kept to the register's 64 bits. -/

@[simp] theorem creg_setCreg_self (s : State) (c off v : Nat) : creg (setCreg s c off v) c off = v % 2 ^ 64 := by
  simp [creg, setCreg]
theorem creg_setCreg_off (s : State) (c off v : Nat) {o : Nat} (h : o ≠ off) : creg (setCreg s c off v) c o = creg s c o := by
  simp [creg, setCreg, getN_putN_ne _ _ h]
theorem creg_setCreg_ne (s : State) (c off v : Nat) {j : Nat} (o : Nat) (h : j ≠ c) : creg (setCreg s c off v) j o = creg s j o := by
  simp [creg, setCreg, coreOf_updCore_ne _ _ _ h]

@[simp] theorem kreg_setKreg_self (s : State) (k off v : Nat) : kreg (setKreg s k off v) k off = v % 2 ^ 64 := by
  simp [kreg, setKreg]
theorem kreg_setKreg_off (s : State) (k off v : Nat) {o : Nat} (h : o ≠ off) : kreg (setKreg s k off v) k o = kreg s k o := by
  simp [kreg, setKreg, getN_putN_ne _ _ h]
theorem kreg_setKreg_ne (s : State) (k off v : Nat) {j : Nat} (o : Nat) (h : j ≠ k) : kreg (setKreg s k off v) j o = kreg s j o := by
  simp [kreg, setKreg, clOf_updCl_ne _ _ _ h]

@[simp] theorem rreg_setRreg_self (s : State) (r off v : Nat) : rreg (setRreg s r off v) r off = v % 2 ^ 64 := by
  simp [rreg, setRreg]
theorem rreg_setRreg_off (s : State) (r off v : Nat) {o : Nat} (h : o ≠ off) : rreg (setRreg s r off v) r o = rreg s r o := by
  simp [rreg, setRreg, getN_putN_ne _ _ h]
theorem rreg_setRreg_ne (s : State) (r off v : Nat) {j : Nat} (o : Nat) (h : j ≠ r) : rreg (setRreg s r off v) j o = rreg s j o := by
  simp [rreg, setRreg, routerOf_updRouter_ne _ _ _ h]

@[simp] theorem dreg_setDreg_self (s : State) (d off v : Nat) : dreg (setDreg s d off v) d off = v % 2 ^ 64 := by
  simp [dreg, setDreg]
theorem dreg_setDreg_off (s : State) (d off v : Nat) {o : Nat} (h : o ≠ off) : dreg (setDreg s d off v) d o = dreg s d o := by
  simp [dreg, setDreg, getN_putN_ne _ _ h]
theorem dreg_setDreg_ne (s : State) (d off v : Nat) {j : Nat} (o : Nat) (h : j ≠ d) : dreg (setDreg s d off v) j o = dreg s j o := by
  simp [dreg, setDreg, siteSt_updSite_ne _ _ _ h]

@[simp] theorem ireg_setIreg_self (s : State) (die off v : Nat) : ireg (setIreg s die off v) die off = v % 2 ^ 64 := by
  simp [ireg]
theorem ireg_setIreg_ne (s : State) (die off v : Nat) {e o : Nat} (h : (e - 64) * 65536 + o ≠ (die - 64) * 65536 + off) :
    ireg (setIreg s die off v) e o = ireg s e o := by simp [ireg, getN_putN_ne _ _ h]
@[simp] theorem obj_setObj_self (s : State) (ix sub v : Nat) : obj (setObj s ix sub v) ix sub = v := by simp [obj]
theorem obj_setObj_ne (s : State) (ix sub v : Nat) {i j : Nat} (h : okey i j ≠ okey ix sub) :
    obj (setObj s ix sub v) i j = obj s i j := by simp [obj, getN_putN_ne _ _ h]
@[simp] theorem semOf_setSem_self (s : State) (c n v : Nat) : semOf (setSem s c n v) c n = v % 2 ^ 16 := by
  simp [semOf, setSem]
theorem semOf_setSem_num (s : State) (c n v : Nat) {m : Nat} (h : m ≠ n) : semOf (setSem s c n v) c m = semOf s c m := by
  simp [semOf, setSem, getN_putN_ne _ _ h]
theorem semOf_setSem_ne (s : State) (c n v : Nat) {d : Nat} (m : Nat) (h : d ≠ c) : semOf (setSem s c n v) d m = semOf s d m := by
  simp [semOf, setSem, coreOf_updCore_ne _ _ _ h]

end Sys2Proof.Machine
end

