-- ==== Sys2Proof/Laws/Memory.lean ====
section
/-! SUPPORT. Byte memories: a read after a write, the granules that a write touches, and that every operation on a memory and on
the parts that hold one keeps the canonical form. -/

namespace Sys2Proof.Machine

/-! Reads after writes. -/

@[simp] theorem memRead_length (m : Mem) (a n : Nat) : (memRead m a n).length = n := cellsRead_length ..

/-- What was written is read back. -/
theorem memRead_memWrite (m : Mem) (a : Nat) (b : Bytes) : memRead (memWrite m a b) a b.length = b :=
  cellsRead_cellsWrite b m.cells a

/-- A read apart from the bytes written answers as before. -/
theorem memRead_memWrite_apart (m : Mem) (a : Nat) (b : Bytes) (x n : Nat) (h : x + n ≤ a ∨ a + b.length ≤ x) :
    memRead (memWrite m a b) x n = memRead m x n := cellsRead_cellsWrite_apart b m.cells a x n h

/-- Byte by byte: the bytes written stand in order from their address, and every other byte is as before. -/
theorem memByte_memWrite (m : Mem) (a : Nat) (b : Bytes) (x : Nat) :
    memByte (memWrite m a b) x = if a ≤ x ∧ x < a + b.length then b.getD (x - a) 0#8 else memByte m x :=
  cellByte_cellsWrite x b m.cells a

@[simp] theorem memByte_memPoison (m : Mem) (gs : List Nat) (a : Nat) : memByte (memPoison m gs) a = memByte m a := rfl
@[simp] theorem memByte_empty (a : Nat) : memByte Mem.empty a = 0#8 := rfl
@[simp] theorem memPoison_cells (m : Mem) (gs : List Nat) : (memPoison m gs).cells = m.cells := rfl

/-- The granules of an access are those that share a byte with it. -/
theorem mem_granules (a n g : Nat) : g ∈ granules a n ↔ n ≠ 0 ∧ a < 8 * g + 8 ∧ 8 * g < a + n := by
  unfold granules
  by_cases h : n = 0
  · simp [h]
  · simp only [h, if_false, List.mem_map, List.mem_range, ne_eq, not_false_eq_true, true_and]
    constructor
    · rintro ⟨x, hx, rfl⟩; omega
    · rintro ⟨h1, h2⟩; exact ⟨g - a / 8, by omega, by omega⟩

/-- A write takes the poison off the granules it touches and off no other. -/
theorem memWrite_poison (m : Mem) (a : Nat) (b : Bytes) (g : Nat) :
    g ∈ (memWrite m a b).poison ↔ g ∈ m.poison ∧ ¬ (b.length ≠ 0 ∧ a < 8 * g + 8 ∧ 8 * g < a + b.length) := by
  simp only [memWrite, List.mem_filter, Bool.not_eq_true', ← mem_granules]
  simp

/-- A write differs from what was there in its own bytes alone. -/
theorem sameOutside_memWrite (m : Mem) (a : Nat) (b : Bytes) : sameOutside m (memWrite m a b) a b.length := by
  refine ⟨fun x hx => ?_, fun g hg => ?_⟩
  · rw [memByte_memWrite, if_neg (by omega)]
  · rw [memWrite_poison]; constructor
    · exact fun h => h.1
    · exact fun h => ⟨h, by omega⟩

theorem sameOutside_refl (m : Mem) (lo n : Nat) : sameOutside m m lo n := ⟨fun _ _ => rfl, fun _ _ => Iff.rfl⟩

/-- Two memories that differ in no byte of a range, beyond another range, compose. -/
theorem sameOutside_trans {m k l : Mem} {lo n : Nat} (h : sameOutside m k lo n) (g : sameOutside k l lo n) : sameOutside m l lo n :=
  ⟨fun a ha => (g.1 a ha).trans (h.1 a ha), fun x hx => (g.2 x hx).trans (h.2 x hx)⟩

/-! The canonical form. -/

@[simp] theorem wf_empty : Mem.empty.wf = true := rfl
theorem wf_memWrite {m : Mem} (h : m.wf = true) (a : Nat) (b : Bytes) : (memWrite m a b).wf = true := cellsWf_cellsWrite h a
theorem wf_memPoison {m : Mem} (h : m.wf = true) (gs : List Nat) : (memPoison m gs).wf = true := h
@[simp] theorem wf_memClear (m : Mem) : (memClear m).wf = true := rfl

/-- The memories of two states whose cores, clusters and control cores are the same are in the same form. -/
theorem MemoriesCanonical.congr {s t : State} (h : MemoriesCanonical s) (hc : t.cores = s.cores) (hk : t.clusters = s.clusters)
    (hi : t.ccs = s.ccs) : MemoriesCanonical t := by
  unfold MemoriesCanonical coreOf clOf ccOf at *; rw [hc, hk, hi]; exact h

/-- A core whose scratchpad is in canonical form may be put in place. -/
theorem MemoriesCanonical.setCore {s : State} (h : MemoriesCanonical s) (c : Nat) {v : CoreState} (hv : v.spad.wf = true) :
    MemoriesCanonical (setCore s c v) := by
  refine ⟨fun d => ?_, fun k => by simpa using h.2.1 k, fun i => by simpa using h.2.2 i⟩
  rw [coreOf_setCore]; split
  · exact hv
  · exact h.1 d
theorem MemoriesCanonical.updCore {s : State} (h : MemoriesCanonical s) (c : Nat) {f : CoreState → CoreState}
    (hf : ∀ v : CoreState, v.spad.wf = true → (f v).spad.wf = true) : MemoriesCanonical (updCore s c f) := h.setCore c (hf _ (h.1 c))
theorem MemoriesCanonical.setCl {s : State} (h : MemoriesCanonical s) (k : Nat) {v : ClusterState} (hv : v.vault.wf = true) :
    MemoriesCanonical (setCl s k v) := by
  refine ⟨fun d => by simpa using h.1 d, fun j => ?_, fun i => by simpa using h.2.2 i⟩
  rw [clOf_setCl]; split
  · exact hv
  · exact h.2.1 j
theorem MemoriesCanonical.updCl {s : State} (h : MemoriesCanonical s) (k : Nat) {f : ClusterState → ClusterState}
    (hf : ∀ v : ClusterState, v.vault.wf = true → (f v).vault.wf = true) : MemoriesCanonical (updCl s k f) := h.setCl k (hf _ (h.2.1 k))
theorem MemoriesCanonical.setCc {s : State} (h : MemoriesCanonical s) (i : Nat) {v : CcState} (hv : v.mem.wf = true) :
    MemoriesCanonical (setCc s i v) := by
  refine ⟨fun d => by simpa using h.1 d, fun k => by simpa using h.2.1 k, fun j => ?_⟩
  rw [ccOf_setCc]; split
  · exact hv
  · exact h.2.2 j
theorem MemoriesCanonical.updCc {s : State} (h : MemoriesCanonical s) (i : Nat) {f : CcState → CcState}
    (hf : ∀ v : CcState, v.mem.wf = true → (f v).mem.wf = true) : MemoriesCanonical (updCc s i f) := h.setCc i (hf _ (h.2.2 i))

/-- Writes of scratchpads and vaults keep the form. -/
theorem MemoriesCanonical.spadWrite {s : State} (h : MemoriesCanonical s) (c a : Nat) (b : Bytes) :
    MemoriesCanonical (spadWrite s c a b) := h.updCore c (fun _ hv => wf_memWrite hv a b)
theorem MemoriesCanonical.vaultWrite {s : State} (h : MemoriesCanonical s) (k a : Nat) (b : Bytes) :
    MemoriesCanonical (vaultWrite s k a b) := h.updCl k (fun _ hv => wf_memWrite hv a b)
theorem MemoriesCanonical.setCreg {s : State} (h : MemoriesCanonical s) (c off v : Nat) : MemoriesCanonical (setCreg s c off v) :=
  h.updCore c (fun _ hv => hv)
theorem MemoriesCanonical.setKreg {s : State} (h : MemoriesCanonical s) (k off v : Nat) : MemoriesCanonical (setKreg s k off v) :=
  h.updCl k (fun _ hv => hv)
theorem MemoriesCanonical.setSem {s : State} (h : MemoriesCanonical s) (c n v : Nat) : MemoriesCanonical (setSem s c n v) :=
  h.updCore c (fun _ hv => hv)
theorem MemoriesCanonical.emit {s : State} (h : MemoriesCanonical s) (rep : Nat) (e : EventRec) : MemoriesCanonical (emit s rep e) :=
  h.congr rfl rfl rfl

/-- The state after reset has the form. -/
theorem memoriesCanonical_reset_mems : ∀ m ∈ [CoreState.reset.spad, ClusterState.reset.vault, CcState.reset.mem], m.wf = true := by
  decide

/-! Scratchpads and vaults. -/

theorem spadRead_spadWrite (s : State) (c a : Nat) (b : Bytes) : spadRead (spadWrite s c a b) c a b.length = b := by
  simp [spadRead, spadWrite, memRead_memWrite]
theorem spadRead_spadWrite_apart (s : State) (c a : Nat) (b : Bytes) (x n : Nat) (h : x + n ≤ a ∨ a + b.length ≤ x) :
    spadRead (spadWrite s c a b) c x n = spadRead s c x n := by
  simp [spadRead, spadWrite, memRead_memWrite_apart _ _ _ _ _ h]
theorem spadRead_spadWrite_ne (s : State) (c a : Nat) (b : Bytes) {d : Nat} (x n : Nat) (h : d ≠ c) :
    spadRead (spadWrite s c a b) d x n = spadRead s d x n := by
  simp [spadRead, spadWrite, coreOf_updCore_ne _ _ _ h]
theorem vaultRead_vaultWrite (s : State) (k a : Nat) (b : Bytes) : vaultRead (vaultWrite s k a b) k a b.length = b := by
  simp [vaultRead, vaultWrite, memRead_memWrite]
theorem vaultRead_vaultWrite_apart (s : State) (k a : Nat) (b : Bytes) (x n : Nat) (h : x + n ≤ a ∨ a + b.length ≤ x) :
    vaultRead (vaultWrite s k a b) k x n = vaultRead s k x n := by
  simp [vaultRead, vaultWrite, memRead_memWrite_apart _ _ _ _ _ h]
theorem vaultRead_vaultWrite_ne (s : State) (k a : Nat) (b : Bytes) {j : Nat} (x n : Nat) (h : j ≠ k) :
    vaultRead (vaultWrite s k a b) j x n = vaultRead s j x n := by
  simp [vaultRead, vaultWrite, clOf_updCl_ne _ _ _ h]

/-- A scratchpad write differs from before in its own bytes alone. -/
theorem wroteSpad_spadWrite (s : State) (c a : Nat) (b : Bytes) : wroteSpad s (spadWrite s c a b) c a b.length := by
  refine ⟨rfl, fun d h => coreOf_updCore_ne _ _ _ h, ?_, ?_⟩
  · simp [spadWrite]
  · simpa [spadWrite] using sameOutside_memWrite (coreOf s c).spad a b
/-- So does a vault write. -/
theorem wroteVault_vaultWrite (s : State) (k a : Nat) (b : Bytes) : wroteVault s (vaultWrite s k a b) k a b.length := by
  refine ⟨⟨rfl, fun d h => clOf_updCl_ne _ _ _ h⟩, ?_, ?_⟩
  · simp [vaultWrite]
  · simpa [vaultWrite] using sameOutside_memWrite (clOf s k).vault a b

end Sys2Proof.Machine
end

