-- ==== Sys2Proof/Laws/Ops.lean ====
section
/-! SUPPORT. What each shared operation of the core commands and the control network can do: one statement per operation, which
says what it writes and that nothing else differs. -/

namespace Sys2Proof.Machine

/-! Numbering (R9). -/

/-- A core is the one of its site, cluster and place. -/
theorem coreAt_parts (c : Nat) : coreAt (siteOf c) (clusterIn c) (coreIn c) = c := by
  have hx : coreX c < 128 := Nat.mod_lt _ (by decide)
  have hc : coreY c * 128 + coreX c = c := by unfold coreX coreY; omega
  have h1 : siteOf c / 8 = coreY c / 16 := by unfold siteOf; omega
  have h2 : siteOf c % 8 = coreX c / 16 := by unfold siteOf; omega
  have h3 : clusterIn c % 16 / 4 = coreY c % 16 / 4 := by unfold clusterIn; omega
  have h4 : clusterIn c % 4 = coreX c % 16 / 4 := by unfold clusterIn; omega
  have h5 : coreIn c % 16 / 4 = coreY c % 4 := by unfold coreIn; omega
  have h6 : coreIn c % 4 = coreX c % 4 := by unfold coreIn; omega
  have ey : coreY c / 16 * 16 + coreY c % 16 / 4 * 4 + coreY c % 4 = coreY c := by omega
  have ex : coreX c / 16 * 16 + coreX c % 16 / 4 * 4 + coreX c % 4 = coreX c := by omega
  rw [coreAt, h1, h2, h3, h4, h5, h6, ey, ex, hc]
theorem coreIn_lt (c : Nat) : coreIn c < 16 := by unfold coreIn coreX coreY; omega
theorem clusterIn_lt (c : Nat) : clusterIn c < 16 := by unfold clusterIn coreX coreY; omega

/-! Events (R369). -/

/-- One event joins the events, with the code, severity, unit, command, request and detail it was raised with. -/
theorem emit_events (s : State) (rep : Nat) (e : EventRec) : ∃ x, (emit s rep e).events = s.events ++ [x] ∧ x.code = e.code
    ∧ x.sev = e.sev ∧ x.unit = e.unit ∧ x.opc = e.opc ∧ x.req = e.req ∧ x.reporter = e.reporter ∧ x.detail = e.detail :=
  ⟨_, rfl, rfl, rfl, rfl, rfl, rfl, rfl, rfl⟩
/-- Nothing but the events differs. -/
theorem emit_frame (s : State) (rep : Nat) (e : EventRec) : emit s rep e = { s with events := (emit s rep e).events } := rfl
theorem raise_frame (s : State) (code sev unit rep : Nat) (d : Bytes) :
    raise s code sev unit rep d = { s with events := (raise s code sev unit rep d).events } := rfl

/-! Queues of a core. -/

@[simp] theorem queueOf_setQueue_self (v : CoreState) (l : List Issued) {q : Nat} (h : 1 ≤ q) (g : q ≤ 4) :
    queueOf (setQueue v q l) q = l := by
  obtain rfl | rfl | rfl | rfl : q = 1 ∨ q = 2 ∨ q = 3 ∨ q = 4 := by omega
  all_goals rfl
theorem queueOf_setQueue_ne (v : CoreState) (l : List Issued) {q r : Nat} (h : r ≠ q) : queueOf (setQueue v q l) r = queueOf v r := by
  unfold setQueue queueOf
  by_cases h1 : q = 1 <;> by_cases h2 : q = 2 <;> by_cases h3 : q = 3 <;> by_cases h4 : q = 4 <;>
    by_cases g1 : r = 1 <;> by_cases g2 : r = 2 <;> by_cases g3 : r = 3 <;> by_cases g4 : r = 4 <;> simp_all
/-- A queue is all that setting a queue changes. -/
theorem setQueue_frame (v : CoreState) (q : Nat) (l : List Issued) :
    setQueue v q l = { v with meq := (setQueue v q l).meq, veq := (setQueue v q l).veq, seqe := (setQueue v q l).seqe
                              teq := (setQueue v q l).teq } := by
  unfold setQueue; split
  · rfl
  · split
    · rfl
    · split
      · rfl
      · split <;> rfl
@[simp] theorem setQueue_spad (v : CoreState) (q : Nat) (l : List Issued) : (setQueue v q l).spad = v.spad := by rw [setQueue_frame]
@[simp] theorem setQueue_sem (v : CoreState) (q : Nat) (l : List Issued) : (setQueue v q l).sem = v.sem := by rw [setQueue_frame]
@[simp] theorem setQueue_te (v : CoreState) (q : Nat) (l : List Issued) : (setQueue v q l).te = v.te := by rw [setQueue_frame]
@[simp] theorem setQueue_regs (v : CoreState) (q : Nat) (l : List Issued) : (setQueue v q l).regs = v.regs := by rw [setQueue_frame]
@[simp] theorem setQueue_fifo (v : CoreState) (q : Nat) (l : List Issued) : (setQueue v q l).fifo = v.fifo := by rw [setQueue_frame]

/-! Doorbells (R474, R475, R479). -/

@[simp] theorem countGroup_src (i : Icu) (now g : Nat) (fresh : Bool) : (countGroup i now g fresh).src = i.src := by
  unfold countGroup; simp only; split <;> split <;> rfl

/-- The source word that a doorbell leaves. -/
theorem icuMessage_src (i : Icu) (now n tag : Nat) : (icuMessage i now n tag).src = putN i.src n (BitVec.ofNat 64
    (tag % 65536 * 2 ^ 48 + min (bitsOf (srcOf i n) 47 32 + 1) 0xFFFF * 2 ^ 32 + bitsOf (srcOf i n) 31 1 * 2 + 1)) := by
  unfold icuMessage; simp only; split <;> simp

/-- A doorbell makes its source pending with the message's TAG and counts it, up to 0xFFFF. -/
theorem srcOf_icuMessage (i : Icu) (now n tag : Nat) : srcPending (icuMessage i now n tag) n = true
    ∧ bitsOf (srcOf (icuMessage i now n tag) n) 63 48 = tag % 65536
    ∧ bitsOf (srcOf (icuMessage i now n tag) n) 47 32 = min (bitsOf (srcOf i n) 47 32 + 1) 0xFFFF := by
  have hb := bitsOf_lt (srcOf i n) 31 1
  have hm := Nat.min_le_right (bitsOf (srcOf i n) 47 32 + 1) 0xFFFF
  have hs : srcOf (icuMessage i now n tag) n
      = tag % 65536 * 2 ^ 48 + min (bitsOf (srcOf i n) 47 32 + 1) 0xFFFF * 2 ^ 32 + bitsOf (srcOf i n) 31 1 * 2 + 1 := by
    have e : srcOf (icuMessage i now n tag) n = (getN 0#64 (icuMessage i now n tag).src n).toNat := rfl
    rw [e, icuMessage_src, getN_putN_self, BitVec.toNat_ofNat, Nat.mod_eq_of_lt (by omega)]
  refine ⟨?_, ?_, ?_⟩
  · simp only [srcPending, hs, bitOf, beq_iff_eq]; omega
  · rw [hs, bitsOf]; omega
  · rw [hs, bitsOf]; omega

/-- Delivery to a control core changes its wait, its interrupt enable and its trap alone. -/
theorem ccDeliver_frame (c : CcState) :
    ccDeliver c = { c with wfi := (ccDeliver c).wfi, mie := (ccDeliver c).mie, trap := (ccDeliver c).trap } := by
  unfold ccDeliver; simp only; split
  · rfl
  · split <;> split <;> rfl
@[simp] theorem ccDeliver_icu (c : CcState) : (ccDeliver c).icu = c.icu := by rw [ccDeliver_frame]
@[simp] theorem ccDeliver_mem (c : CcState) : (ccDeliver c).mem = c.mem := by rw [ccDeliver_frame]
/-- An enabled pending source wakes a control core that is not parked (R476). -/
theorem ccDeliver_wakes (c : CcState) (h : c.parked = false)
    (g : c.icu.src.any (fun e => srcPending c.icu e.1 && srcEnabled c.icu e.1) = true) : (ccDeliver c).wfi = false := by
  unfold ccDeliver; simp only [h, g, Bool.false_eq_true, if_false, if_true]; split <;> rfl
/-- A ready group traps one that takes interrupts, and the trap clears mstatus.MIE (R475, R476). -/
theorem ccDeliver_traps (c : CcState) (h : c.parked = false) (r : c.icu.ready ≠ []) (m : c.mie = true) (e : c.meie = true) :
    (ccDeliver c).trap = some .external ∧ (ccDeliver c).mie = false ∧ (ccDeliver c).wfi = false := by
  unfold ccDeliver
  cases hg : c.icu.src.any (fun e => srcPending c.icu e.1 && srcEnabled c.icu e.1) <;>
    simp_all

/-- A doorbell changes its control core alone, and of it the interrupt controller and what delivery changes. -/
theorem doorbellAt_frame (s : State) (i n tag : Nat) :
    doorbellAt s i n tag = { s with ccs := (doorbellAt s i n tag).ccs }
    ∧ (∀ j, j ≠ i → ccOf (doorbellAt s i n tag) j = ccOf s j)
    ∧ ccOf (doorbellAt s i n tag) i = ccDeliver { ccOf s i with icu := icuMessage (ccOf s i).icu s.units n tag } :=
  ⟨rfl, fun _ h => ccOf_updCc_ne _ _ _ h, ccOf_updCc_self ..⟩

@[simp] theorem doorbellAt_pending (s : State) (i n tag : Nat) : (doorbellAt s i n tag).pending = s.pending := by
  rw [(doorbellAt_frame s i n tag).1]
@[simp] theorem doorbellAt_cores (s : State) (i n tag : Nat) : (doorbellAt s i n tag).cores = s.cores := by
  rw [(doorbellAt_frame s i n tag).1]
@[simp] theorem coreOf_doorbellAt (s : State) (i n tag c : Nat) : coreOf (doorbellAt s i n tag) c = coreOf s c := by
  simp [coreOf]
@[simp] theorem doorbellAt_events (s : State) (i n tag : Nat) : (doorbellAt s i n tag).events = s.events := by
  rw [(doorbellAt_frame s i n tag).1]
@[simp] theorem doorbellAt_mesh (s : State) (i n tag : Nat) : (doorbellAt s i n tag).mesh = s.mesh := by
  rw [(doorbellAt_frame s i n tag).1]
@[simp] theorem doorbellAt_parts (s : State) (i n tag : Nat) : (doorbellAt s i n tag).parts = s.parts := by
  rw [(doorbellAt_frame s i n tag).1]
@[simp] theorem doorbellAt_clusters (s : State) (i n tag : Nat) : (doorbellAt s i n tag).clusters = s.clusters := by
  rw [(doorbellAt_frame s i n tag).1]
@[simp] theorem clOf_doorbellAt (s : State) (i n tag k : Nat) : clOf (doorbellAt s i n tag) k = clOf s k := by simp [clOf]

theorem MemoriesCanonical.doorbellAt {s : State} (h : MemoriesCanonical s) (i n tag : Nat) : MemoriesCanonical (doorbellAt s i n tag) := by
  obtain ⟨-, f, g⟩ := doorbellAt_frame s i n tag
  refine ⟨fun c => by simpa using h.1 c, fun k => by simpa using h.2.1 k, fun j => ?_⟩
  by_cases e : j = i
  · subst e; rw [g, ccDeliver_mem]; exact h.2.2 j
  · rw [f j e]; exact h.2.2 j

/-! Semaphores and completion (R127, R128, R130, R183). -/

/-- A count that fits is added, and nothing else happens. -/
theorem signalSem_fits (s : State) (c n count : Nat) (by_ : Option (Nat × Nat)) (h : semOf s c n + count ≤ 0xFFFF) :
    signalSem s c n count by_ = (setSem s c n (semOf s c n + count), false) := by simp [signalSem, h]

/-- One that does not fit leaves 0xFFFF and is reported as an overflow. -/
theorem signalSem_over (s : State) (c n count : Nat) (by_ : Option (Nat × Nat)) (h : 0xFFFF < semOf s c n + count) :
    (signalSem s c n count by_).2 = true ∧ semOf (signalSem s c n count by_).1 c n = 0xFFFF := by
  have hn : ¬ semOf s c n + count ≤ 0xFFFF := by omega
  refine ⟨by simp [signalSem, hn], ?_⟩
  simp only [signalSem, hn, if_false]
  unfold semOf
  rw [coreOf_doorbellAt, coreOf_emit]
  simp [setSem]

/-- Either way no memory of a core and no queue of it differs. -/
theorem signalSem_core (s : State) (c n count : Nat) (by_ : Option (Nat × Nat)) (d : Nat) :
    coreOf (signalSem s c n count by_).1 d = { coreOf s d with sem := (coreOf (signalSem s c n count by_).1 d).sem } := by
  unfold signalSem
  split <;> simp only [coreOf_doorbellAt, coreOf_emit, setSem, coreOf_updCore] <;> split <;> simp_all
@[simp] theorem signalSem_pending (s : State) (c n count : Nat) (by_ : Option (Nat × Nat)) :
    (signalSem s c n count by_).1.pending = s.pending := by
  unfold signalSem; split <;> simp
theorem MemoriesCanonical.signalSem {s : State} (h : MemoriesCanonical s) (c n count : Nat) (by_ : Option (Nat × Nat)) :
    MemoriesCanonical (signalSem s c n count by_).1 := by
  unfold Machine.signalSem; split
  · exact h.setSem ..
  · exact ((h.setSem c n 0xFFFF).emit ..).doorbellAt ..

@[simp] theorem finishToken_none (s : State) (c q index opc : Nat) : finishToken s c q index opc none = s := rfl
/-- A completion token is one more on its semaphore, where that fits. -/
theorem finishToken_some (s : State) (c q index opc n : Nat) (h : semOf s c n + 1 ≤ 0xFFFF) :
    finishToken s c q index opc (some n) = setSem s c n (semOf s c n + 1) := by
  simp [finishToken, signalSem_fits _ _ _ _ _ h]

/-- END and HALT finish only once every queue of the core is empty; the sequencer is then stopped, and nothing of the core but its
run state differs. -/
theorem drainEnd_core (s : State) (c : Nat) : drainEnd s c = s
    ∨ ((coreOf s c).meq = [] ∧ (coreOf s c).veq = [] ∧ (coreOf s c).seqe = [] ∧ (coreOf s c).teq = []
      ∧ coreOf (drainEnd s c) c = { coreOf s c with run := false, ending := false, halting := false, seqState := .stopped }) := by
  unfold drainEnd
  simp only
  split
  · next h =>
    right
    simp only [Bool.or_eq_true, Bool.and_eq_true, List.isEmpty_iff] at h
    refine ⟨?_, ?_, ?_, ?_, by simp⟩ <;> rcases h with h | h <;> simp_all
  · exact .inl rfl
theorem drainEnd_idle (s : State) (c : Nat) (h : (coreOf s c).ending = false) (g : (coreOf s c).halting = false) : drainEnd s c = s := by
  simp [drainEnd, h, g]
@[simp] theorem drainEnd_pending (s : State) (c : Nat) : (drainEnd s c).pending = s.pending := by
  unfold drainEnd; simp only; split <;> simp
theorem MemoriesCanonical.drainEnd {s : State} (h : MemoriesCanonical s) (c : Nat) : MemoriesCanonical (drainEnd s c) := by
  unfold Machine.drainEnd; simp only; split
  · exact MemoriesCanonical.doorbellAt (h.setCore c (v := { coreOf s c with run := false, ending := false, halting := false, seqState := .stopped }) (h.1 c)) ..
  · exact h

/-- Giving a command up touches no memory, no semaphore and no register of its core. -/
theorem abandon_frame (v : CoreState) (q : Nat) : abandon v q = { v with
    me := (abandon v q).me, reduceDone := (abandon v q).reduceDone, se := (abandon v q).se, fifo := (abandon v q).fifo } := by
  unfold abandon; split
  · rfl
  · split
    · rfl
    · split <;> rfl
@[simp] theorem abandon_spad (v : CoreState) (q : Nat) : (abandon v q).spad = v.spad := by rw [abandon_frame]

/-- A command that fails by a fault (not by a program error) discards its queue and stops the sequencer with STATE 0b11 and the
failure in SEQ_ERR; no scratchpad differs, and no job ends (R188, R189, R209). -/
theorem failCommand_fault (s : State) (c q index code opc operand : Nat) (h : errClass code = 2) :
    let t := failCommand s c q index code opc operand
    (coreOf t c).seqState = .errored ∧ (coreOf t c).run = false ∧ creg t c 0x30 = seqErrWord index code q opc operand % 2 ^ 64
      ∧ (1 ≤ q → q ≤ 4 → queueOf (coreOf t c) q = []) ∧ (∀ d, (coreOf t d).spad = (coreOf s d).spad)
      ∧ (∀ d, d ≠ c → coreOf t d = coreOf s d) ∧ t.parts = s.parts := by
  have hn : errClass code ≠ 1 := by omega
  simp only [failCommand, hn, if_false]
  refine ⟨by simp [setCreg], by simp [setCreg], ?_, fun h1 h2 => ?_, fun d => ?_, fun d hd => ?_, by simp⟩
  · simp [creg, setCreg]
  · simp only [coreOf_doorbellAt, coreOf_emit, setCreg, coreOf_updCore_self]
    have := queueOf_setQueue_self (abandon (coreOf s c) q) [] h1 h2
    simpa [queueOf] using this
  · simp only [coreOf_doorbellAt, coreOf_emit, setCreg, coreOf_updCore]
    split <;> simp_all [abandon_spad]
  · simp [setCreg, coreOf_updCore_ne _ _ _ hd]

/-! Engines (R118). -/

/-- The banks' counters of one core and the count of free values taken are all that their traffic changes (R124 to R126). -/
theorem bankTraffic_frame (s : State) (c : Nat) :
    bankTraffic s c = { s with cores := (bankTraffic s c).cores, free := s.free + 1 }
    ∧ (∀ d, d ≠ c → coreOf (bankTraffic s c) d = coreOf s d)
    ∧ coreOf (bankTraffic s c) c = { coreOf s c with regs := (coreOf (bankTraffic s c) c).regs }
    ∧ ∀ off, off ≠ 0x200 → off ≠ 0x208 → creg (bankTraffic s c) c off = creg s c off := by
  have e : (bankTraffic s c).cores = (setCreg (setCreg s c 0x200 (bumpField (bumpField (creg s c 0x200) 63 32
      (bankRun (Config.bankTraffic s.free)).waits) 31 0 (bankRun (Config.bankTraffic s.free)).promoted)) c 0x208
      (bumpField (bumpField (creg s c 0x208) 63 32 (bankRun (Config.bankTraffic s.free)).rwSame) 31 0
        (bankRun (Config.bankTraffic s.free)).wwSame)).cores := rfl
  refine ⟨rfl, fun d h => ?_, ?_, fun off h1 h2 => ?_⟩
  · simp only [coreOf, e]; exact (coreOf_updCore_ne _ _ _ h).trans (coreOf_updCore_ne _ _ _ h)
  · simp only [coreOf, e]
    refine (coreOf_updCore_self ..).trans ?_
    simp [setCreg, coreOf]
  · simp only [creg, coreOf, e]
    rw [show ∀ t : State, (getN CoreState.reset t.cores c) = coreOf t c from fun _ => rfl,
      show ∀ t : State, (getN CoreState.reset t.cores c) = coreOf t c from fun _ => rfl]
    simp [setCreg, getN_putN_ne _ _ h1, getN_putN_ne _ _ h2]

/-- Leaving the head of a queue changes that queue, and what the banks' traffic changes. -/
theorem popEngine_frame (s : State) (c q : Nat) :
    popEngine s c q = { s with cores := (popEngine s c q).cores, free := s.free + 1 }
    ∧ (∀ d, d ≠ c → coreOf (popEngine s c q) d = coreOf s d)
    ∧ coreOf (popEngine s c q) c
        = { setQueue (coreOf s c) q ((queueOf (coreOf s c) q).drop 1) with regs := (coreOf (popEngine s c q) c).regs }
    ∧ ∀ off, off ≠ 0x200 → off ≠ 0x208 → creg (popEngine s c q) c off = creg s c off := by
  obtain ⟨f, g, h, r⟩ := bankTraffic_frame (updCore s c (fun v => setQueue v q ((queueOf v q).drop 1))) c
  refine ⟨by unfold popEngine; rw [f]; rfl, fun d hd => (g d hd).trans (coreOf_updCore_ne _ _ _ hd), ?_, fun off h1 h2 => ?_⟩
  · exact h.trans (by rw [coreOf_updCore_self]; rfl)
  · refine (r off h1 h2).trans ?_
    simp [creg]

/-- What running the head of an engine queue comes to: nothing, where the queue is empty, its head is another command's or the
core's clocks do not run; an ILLEGAL failure; or one of the outcomes of its body. -/
theorem runEngine_cases (s : State) (c q opc : Nat) (body : State → Issued → Nat → EngRes) :
    runEngine s c q opc body = s
    ∨ ∃ i rest, queueOf (coreOf s c) q = i :: rest ∧ coreOn s c = true ∧ wOpc i.word.toNat = opc
      ∧ ((wordIllegal i.word.toNat = true ∧ runEngine s c q opc body = failCommand s c q i.index.toNat eIllegal opc 0)
        ∨ (wordIllegal i.word.toNat = false ∧
          ((∃ t, body s i i.word.toNat = .wait t ∧ runEngine s c q opc body = t)
          ∨ (∃ t code operand, body s i i.word.toNat = .fail t code operand
              ∧ runEngine s c q opc body = failCommand t c q i.index.toNat code opc operand)
          ∨ (∃ t, body s i i.word.toNat = .left t ∧ runEngine s c q opc body = drainEnd (popEngine t c q) c)
          ∨ ∃ t, body s i i.word.toNat = .done t ∧ runEngine s c q opc body
              = settled (popEngine t c q) c q opc i.index.toNat (ownToken i.word.toNat)))) := by
  unfold runEngine
  split
  · exact .inl rfl
  · next i rest hq =>
    simp only
    by_cases h1 : (!coreOn s c || wOpc i.word.toNat != opc) = true
    · simp [h1]
    · simp only [Bool.or_eq_true, not_or, Bool.not_eq_true, Bool.not_eq_false', bne_eq_false_iff_eq] at h1
      by_cases h2 : wordIllegal i.word.toNat = true
      · exact .inr ⟨i, rest, hq, h1.1, h1.2, .inl ⟨h2, by simp [h1, h2]⟩⟩
      · rw [Bool.not_eq_true] at h2
        cases hb : body s i i.word.toNat with
        | hold => left; simp [h1, h2]
        | wait t => exact .inr ⟨i, rest, hq, h1.1, h1.2, .inr ⟨h2, .inl ⟨t, hb, by simp [h1, h2]⟩⟩⟩
        | fail t code operand => exact .inr ⟨i, rest, hq, h1.1, h1.2, .inr ⟨h2, .inr (.inl ⟨t, code, operand, hb, by simp [h1, h2]⟩)⟩⟩
        | left t => exact .inr ⟨i, rest, hq, h1.1, h1.2, .inr ⟨h2, .inr (.inr (.inl ⟨t, hb, by simp [h1, h2]⟩))⟩⟩
        | done t => exact .inr ⟨i, rest, hq, h1.1, h1.2, .inr ⟨h2, .inr (.inr (.inr ⟨t, hb, by simp [h1, h2, settled]⟩))⟩⟩

/-- A body that is done completes its command. -/
theorem runEngine_done {s t : State} {c q opc : Nat} {body : State → Issued → Nat → EngRes} {i : Issued}
    (h : engAt s c q opc i = true) (hb : body s i i.word.toNat = .done t) : runEngine s c q opc body = retired t c q opc i := by
  simp only [engAt, Bool.and_eq_true, beq_iff_eq, Bool.not_eq_true', List.head?_eq_some_iff] at h
  obtain ⟨⟨⟨h1, l, h2⟩, h3⟩, h4⟩ := h
  simp [runEngine, h1, h2, h3, h4, hb, retired, settled]

/-- Operand reads: in range and not poisoned, the continuation takes the bytes (R123, R353). -/
theorem opRead_ok (s : State) (c g n operand : Nat) (k : Bytes → EngRes) (h : readable s c g n = true) :
    opRead s c g n operand k = k (spadRead s c (8 * g) n) := by
  simp only [readable, inSpad, Bool.and_eq_true, decide_eq_true_eq, Bool.not_eq_true'] at h
  have : spadOver g n = false := by simp [spadOver, h.1]
  simp [opRead, this, h.2]
theorem opRead_cases (s : State) (c g n operand : Nat) (k : Bytes → EngRes) :
    opRead s c g n operand k = .fail s eSpadRange operand ∨ opRead s c g n operand k = .fail s eUncorrectable operand
      ∨ (readable s c g n = true ∧ opRead s c g n operand k = k (spadRead s c (8 * g) n)) := by
  by_cases h : readable s c g n = true
  · exact .inr (.inr ⟨h, opRead_ok s c g n operand k h⟩)
  · unfold opRead
    by_cases h1 : spadOver g n = true
    · simp [h1]
    · by_cases h2 : spadPoisoned s c (8 * g) n = true
      · simp [h1, h2]
      · exact absurd (by simp_all [readable, inSpad, spadOver]) h
/-- A result's range. -/
theorem opRoom_ok (s : State) (g n operand : Nat) (k : EngRes) (h : inSpad g n = true) : opRoom s g n operand k = k := by
  simp only [inSpad, decide_eq_true_eq] at h
  have : spadOver g n = false := by simp [spadOver, h]
  simp [opRoom, this]
/-- A descriptor that can be taken is taken (R185). -/
theorem opDesc_ok (s : State) (c g size reserved : Nat) (k : Nat → EngRes) (h : descOk s c g size reserved = true) :
    opDesc s c g size reserved k = k (descAt s c g size) := by
  simp only [descOk, Bool.and_eq_true, beq_iff_eq] at h
  obtain ⟨⟨h1, h2⟩, h3⟩ := h
  simp [opDesc, h1, opRead_ok _ _ _ _ _ _ h2, h3, descAt]

/-! The grant arbiter (R216 to R219). -/

/-- Of the clusters only k's grants, its waiting MEs and its registers differ, and the count of free values taken. -/
def onlyGrants (s t : State) (k : Nat) : Prop :=
  t = { s with clusters := t.clusters, free := t.free } ∧ (∀ j, j ≠ k → clOf t j = clOf s j) ∧ (clOf t k).vault = (clOf s k).vault
theorem onlyGrants_refl (s : State) (k : Nat) : onlyGrants s s k := ⟨rfl, fun _ _ => rfl, rfl⟩
theorem onlyGrants_trans {s t u : State} {k : Nat} (h : onlyGrants s t k) (g : onlyGrants t u k) : onlyGrants s u k :=
  ⟨by rw [g.1, h.1], fun j e => (g.2.1 j e).trans (h.2.1 j e), g.2.2.trans h.2.2⟩
theorem onlyGrants_setCl (s : State) (k : Nat) (v : ClusterState) (h : v.vault = (clOf s k).vault) : onlyGrants s (setCl s k v) k :=
  ⟨rfl, fun _ e => clOf_setCl_ne _ _ _ e, by simp [h]⟩
theorem onlyGrants_setKreg (s : State) (k off v : Nat) : onlyGrants s (setKreg s k off v) k :=
  ⟨rfl, fun _ e => clOf_updCl_ne _ _ _ e, by simp [setKreg]⟩
theorem onlyGrants_free {s t : State} {k : Nat} (h : onlyGrants s t k) (n : Nat) : onlyGrants s { t with free := n } k :=
  ⟨by rw [h.1], h.2.1, h.2.2⟩
theorem onlyGrants_bumpFreeK (s : State) (k off hi lo : Nat) : onlyGrants s (bumpFreeK s k off hi lo) k :=
  onlyGrants_free (onlyGrants_setKreg ..) _

/-- Giving grants changes the cluster alone, and not its vault. -/
theorem giveGrants_frame (k : Nat) : ∀ (n : Nat) (s : State), onlyGrants s (giveGrants n s k) k
  | 0, s => onlyGrants_refl s k
  | n + 1, s => by
    simp only [giveGrants]
    split
    · exact onlyGrants_refl s k
    · split
      · exact onlyGrants_refl s k
      · refine onlyGrants_trans ?_ (onlyGrants_trans (onlyGrants_bumpFreeK ..) (giveGrants_frame k n _))
        split
        · exact onlyGrants_trans (t := setCl s k { clOf s k with
            grants := (clOf s k).grants ++ [_], waiting := (clOf s k).waiting.erase _, rr := _ })
            (onlyGrants_setCl s k _ rfl) (onlyGrants_setKreg ..)
        · exact onlyGrants_setCl s k _ rfl
theorem regrant_frame (s : State) (k : Nat) : onlyGrants s (regrant s k) k := by
  unfold regrant; split
  · exact giveGrants_frame k 64 s
  · exact onlyGrants_refl s k
/-- So does a request (R216). -/
theorem requestGrant_frame (s : State) (k me : Nat) (cls : GrantClass) : onlyGrants s (requestGrant s k me cls) k := by
  unfold requestGrant; simp only; split
  · exact regrant_frame s k
  · exact onlyGrants_trans (t := setCl s k { clOf s k with
      waiting := (clOf s k).waiting.filter (fun g => g.1 != me) ++ [(me, cls)] }) (onlyGrants_setCl s k _ rfl) (regrant_frame _ k)

/-- The arbiter's doorbells change its cluster alone, and not its vault (R479). -/
theorem arbiterDoorbell_frame (s : State) (k n tag : Nat) : onlyGrants s (arbiterDoorbell s k n tag) k := by
  have share : ∀ (t : State) (v : Nat), onlyGrants t (setShare t k v) k := fun t v => onlyGrants_setKreg ..
  have upd : ∀ f : ClusterState → ClusterState, (f (clOf s k)).vault = (clOf s k).vault → onlyGrants s (updCl s k f) k :=
    fun f h => onlyGrants_setCl s k _ h
  unfold arbiterDoorbell
  split
  · refine onlyGrants_trans ?_ (regrant_frame _ k)
    unfold arbiterShare; simp only
    split
    · exact share ..
    · split
      · split
        · exact onlyGrants_refl s k
        · exact onlyGrants_trans (upd _ rfl) (share ..)
      · split
        · exact onlyGrants_trans (upd _ rfl) (share ..)
        · split
          · exact onlyGrants_trans (upd _ rfl) (share ..)
          · split
            · exact onlyGrants_trans (upd _ rfl) (share ..)
            · exact onlyGrants_refl s k
  · exact onlyGrants_refl s k

theorem MemoriesCanonical.requestGrant {s : State} (h : MemoriesCanonical s) (k me : Nat) (cls : GrantClass) :
    MemoriesCanonical (requestGrant s k me cls) := by
  obtain ⟨f, g, v⟩ := requestGrant_frame s k me cls
  refine ⟨fun c => ?_, fun j => ?_, fun i => ?_⟩
  · rw [f]; exact h.1 c
  · by_cases e : j = k
    · subst e; rw [v]; exact h.2.1 j
    · rw [g j e]; exact h.2.1 j
  · rw [f]; exact h.2.2 i

/-! Queues toward the host (R523, R525, R528). -/

/-- Messages toward the host change the Wenlink ports alone. -/
theorem wlPost_frame (s : State) (n : Nat) (m : HostMsg) : wlPost s n m = { s with wl := (wlPost s n m).wl }
    ∧ (∀ k, k ≠ n → wlOf (wlPost s n m) k = wlOf s k) ∧ (wlOf (wlPost s n m) n).out = (wlOf s n).out ++ [m] := by
  refine ⟨rfl, fun k h => wlOf_updWl_ne _ _ _ h, ?_⟩
  simp [wlPost]
theorem wlPosts_frame (n : Nat) : ∀ (ms : List HostMsg) (s : State),
    ms.foldl (fun s m => wlPost s n m) s = { s with wl := (ms.foldl (fun s m => wlPost s n m) s).wl }
    ∧ (∀ k, k ≠ n → wlOf (ms.foldl (fun s m => wlPost s n m) s) k = wlOf s k)
    ∧ (wlOf (ms.foldl (fun s m => wlPost s n m) s) n).out = (wlOf s n).out ++ ms
  | [], s => ⟨rfl, fun _ _ => rfl, by simp⟩
  | m :: t, s => by
    obtain ⟨f, g, o⟩ := wlPosts_frame n t (wlPost s n m)
    obtain ⟨-, g', o'⟩ := wlPost_frame s n m
    simp only [List.foldl_cons]
    refine ⟨by rw [f]; rfl, fun k h => (g k h).trans (g' k h), ?_⟩
    rw [o, o', List.append_assoc]; rfl
theorem hostWrite_frame (s : State) (n addr : Nat) (b : Bytes) : hostWrite s n addr b = { s with wl := (hostWrite s n addr b).wl }
    ∧ ∀ k, k ≠ n → wlOf (hostWrite s n addr b) k = wlOf s k :=
  ⟨(wlPosts_frame n _ s).1, (wlPosts_frame n _ s).2.1⟩
theorem hostRead_frame (s : State) (n addr len : Nat) (why : ReadFor) : hostRead s n addr len why = { s with wl := (hostRead s n addr len why).wl } := rfl
theorem queueWrite_frame (s : State) (q units : Nat) (b : Bytes) : queueWrite s q units b = { s with wl := (queueWrite s q units b).wl } := by
  unfold queueWrite
  split
  · rfl
  · simp only
    rw [show ∀ (t : State) n f, updWl t n f = { t with wl := (updWl t n f).wl } from fun _ _ _ => rfl,
      (hostWrite_frame (hostWrite s _ _ b) _ _ _).1, (hostWrite_frame s _ _ b).1]
@[simp] theorem queueWrite_pending (s : State) (q units : Nat) (b : Bytes) : (queueWrite s q units b).pending = s.pending := by
  rw [queueWrite_frame]
theorem MemoriesCanonical.queueWrite {s : State} (h : MemoriesCanonical s) (q units : Nat) (b : Bytes) :
    MemoriesCanonical (queueWrite s q units b) := by
  rw [queueWrite_frame]; exact h.congr rfl rfl rfl

end Sys2Proof.Machine
end

