-- ==== Sys2Proof/Laws/Network.lean ====
section
/-! SUPPORT. What the shared operations of the mesh, the control network and the management agent can do. -/

namespace Sys2Proof.Machine

/-! Input buffers (R156, R174 to R177). -/

/-- Nothing but the mesh and the routers differs. -/
def onlyMesh (s t : State) : Prop := t = { s with mesh := t.mesh, routers := t.routers }
theorem onlyMesh_refl (s : State) : onlyMesh s s := rfl
theorem onlyMesh_trans {s t u : State} (h : onlyMesh s t) (g : onlyMesh t u) : onlyMesh s u := by
  unfold onlyMesh at *; rw [g, h]
theorem onlyMesh_foldl {α : Type} (f : State → α → State) (h : ∀ t a, onlyMesh t (f t a)) :
    ∀ (l : List α) (s : State), onlyMesh s (l.foldl f s)
  | [], s => onlyMesh_refl s
  | a :: l, s => onlyMesh_trans (h s a) (onlyMesh_foldl f h l (f s a))
/-- Such a change keeps every memory. -/
theorem onlyMesh_memories {s t : State} (h : onlyMesh s t) : memoriesKept s t := by
  rw [h]; exact ⟨fun _ => rfl, fun _ => rfl⟩

theorem onlyMesh_updRouter (s : State) (r : Nat) (f : RouterState → RouterState) : onlyMesh s (updRouter s r f) := rfl
theorem onlyMesh_bumpR (s : State) (r off hi lo n : Nat) : onlyMesh s (bumpR s r off hi lo n) := by
  unfold bumpR; split <;> rfl
theorem queueDepth_frame (s : State) (r p vc : Nat) (n : Int) : onlyMesh s (queueDepth s r p vc n) := rfl
theorem onlyMesh_moved (s : State) (m : List Hop) (r p vc : Nat) (n : Int) :
    onlyMesh s (queueDepth { s with mesh := m } r p vc n) := rfl
@[simp] theorem queueDepth_mesh (s : State) (r p vc : Nat) (n : Int) : (queueDepth s r p vc n).mesh = s.mesh := rfl

/-- The head of a packet that comes into a buffer stands last in the mesh, with the flits that came. -/
theorem putFlits_head (s : State) (r p vc : Nat) (pkt : Packet) (n : Nat) :
    (putFlits s r p vc pkt n true).mesh = s.mesh ++ [Hop.mk r p vc pkt n 0 false] := rfl
theorem putFlits_frame (s : State) (r p vc : Nat) (pkt : Packet) (n : Nat) (first : Bool) :
    onlyMesh s (putFlits s r p vc pkt n first) := rfl
theorem refill_frame (s : State) (r b : Nat) : onlyMesh s (refill s r b) := by
  unfold refill; split
  · exact putFlits_frame ..
  · exact onlyMesh_refl s
theorem creditBack_frame (s : State) (h : Hop) (n : Nat) : onlyMesh s (creditBack s h n) ∧ (creditBack s h n).mesh = s.mesh := by
  unfold creditBack; split <;> exact ⟨rfl, rfl⟩
/-- Flits that leave a buffer: all of a packet, and it is gone from the mesh; or some, and the rest stands where it stood. -/
theorem takeFlits_frame (s : State) (h : Hop) (n : Nat) : onlyMesh s (takeFlits s h n) := by
  unfold takeFlits; simp only; split
  · exact onlyMesh_trans (onlyMesh_moved s _ _ _ _ _) (refill_frame ..)
  · exact onlyMesh_trans (onlyMesh_moved s _ _ _ _ _) (creditBack_frame ..).1
theorem takeFlits_mesh (s : State) (h : Hop) (n : Nat) (hp : h.port ≠ 0) : (takeFlits s h n).mesh
    = if flitsOf h.pkt ≤ h.gone + n then s.mesh.erase h else s.mesh.replace h { h with here := h.here - n, gone := h.gone + n } := by
  unfold takeFlits; simp only [hp, if_false]; rw [(creditBack_frame ..).2]; rfl
theorem discard_frame (s : State) (h : Hop) : onlyMesh s (discard s h) :=
  onlyMesh_trans (t := { s with mesh := s.mesh.replace h { h with drop := true } }) rfl (takeFlits_frame ..)
theorem dropHop_frame (s : State) (h : Hop) : onlyMesh s (dropHop s h) ∧ (dropHop s h).mesh = s.mesh.erase h :=
  ⟨onlyMesh_trans (onlyMesh_moved s _ _ _ _ _) (creditBack_frame ..).1, (creditBack_frame ..).2⟩
/-- A packet is injected where the buffer has room and no other is on its way in; it then stands last, with the flits that fit. -/
theorem inject_some {s t : State} {r vc : Nat} {pkt : Packet} (h : inject s r vc pkt = some t) :
    0 < roomIn s r 0 (bufOf vc (hOp (pHead pkt))) ∧ openHop s r 0 (bufOf vc (hOp (pHead pkt))) = none
    ∧ t.mesh = s.mesh ++ [Hop.mk r 0 vc pkt (min (flitsOf pkt) (roomIn s r 0 (bufOf vc (hOp (pHead pkt))))) 0 false]
    ∧ onlyMesh s t := by
  unfold inject at h
  simp only at h
  split at h
  · cases h
  · next hc =>
    cases h
    simp only [Bool.or_eq_true, not_or, decide_eq_true_eq, Bool.not_eq_true, Option.isSome_eq_false_iff] at hc
    exact ⟨by omega, Option.isNone_iff_eq_none.1 hc.2, rfl, rfl⟩
theorem countFlits_frame (s : State) (r p vc n : Nat) : onlyMesh s (countFlits s r p vc n) := onlyMesh_bumpR ..
theorem countStalls_frame (s : State) (r p vc n : Nat) : onlyMesh s (countStalls s r p vc n) :=
  onlyMesh_trans (onlyMesh_bumpR ..) (onlyMesh_bumpR ..)
theorem putOut_frame (s : State) (r i vc : Nat) (pkt : Packet) (n : Nat) (first : Bool) (p : Nat) :
    onlyMesh s (putOut s r i vc pkt n first p) := by
  unfold putOut; simp only; split
  · exact onlyMesh_trans (countFlits_frame ..) (onlyMesh_updRouter ..)
  · exact onlyMesh_trans (countFlits_frame ..) (onlyMesh_trans (onlyMesh_updRouter ..)
      (onlyMesh_trans (onlyMesh_updRouter ..) (putFlits_frame ..)))
theorem sendFlits_frame (s : State) (h : Hop) (outs : List Nat) (n : Nat) : onlyMesh s (sendFlits s h outs n) := by
  have a : onlyMesh s (outs.foldl (fun s p => countStalls s h.router p h.vc n) s) :=
    onlyMesh_foldl _ (fun t p => countStalls_frame t h.router p h.vc n) outs s
  exact onlyMesh_trans a (onlyMesh_trans (takeFlits_frame _ h n)
    (onlyMesh_foldl _ (fun t p => putOut_frame t h.router h.port h.vc h.pkt n (decide (h.gone = 0)) p) outs _))
theorem creditStall_frame (s : State) (h : Hop) (p : Nat) : onlyMesh s (creditStall s h p) := by
  unfold creditStall; split
  · exact onlyMesh_bumpR ..
  · exact onlyMesh_refl s

/-! Packets at their destination (R157, R163, R166, R167). -/

/-- Taking a packet in: nothing to take, what is left of a refused one, a refusal at the boundary, a closed port or the
destination, flits that wait, flits that leave, or the last of them with the packet's effect. -/
theorem takePacket_cases (s : State) (r vc op : Nat) (pkt : Packet) (refused : Option Nat) (k : State → State) :
    (takePacket s r vc op pkt refused k = s)
    ∨ ∃ h, arrived s r vc pkt = some h ∧ (takePacket s r vc op pkt refused k = takeFlits s h h.here
        ∨ (∃ e, portStop s r h.port 0 vc (pHead pkt) = some e ∧ takePacket s r vc op pkt refused k = refusePacket s h e.1 e.2)
        ∨ (portStop s r h.port 0 vc (pHead pkt) = none
            ∧ ((∃ e, refused = some e ∧ takePacket s r vc op pkt refused k = refusePacket s h 0 e)
              ∨ (refused = none ∧ wins s h = true
                ∧ takePacket s r vc op pkt refused k = (if flitsOf pkt ≤ h.gone + quota s h
                    then k (sendFlits s h [0] (quota s h)) else sendFlits s h [0] (quota s h)))))) := by
  unfold takePacket
  by_cases h1 : hOp (pHead pkt) = op
  · cases h2 : arrived s r vc pkt with
    | none => simp [h1]
    | some h =>
      cases hd : h.drop with
      | true => exact .inr ⟨h, rfl, .inl (by simp [h1, hd])⟩
      | false =>
        cases h3 : portStop s r h.port 0 vc (pHead pkt) with
        | some e => exact .inr ⟨h, rfl, .inr (.inl ⟨e, h3, by simp [h1, hd, h3]⟩)⟩
        | none =>
          cases h4 : refused with
          | some e => exact .inr ⟨h, rfl, .inr (.inr ⟨h3, .inl ⟨e, rfl, by simp [h1, hd, h3]⟩⟩)⟩
          | none =>
            cases h5 : wins s h with
            | false => left; simp [h1, hd, h3, h5]
            | true => exact .inr ⟨h, rfl, .inr (.inr ⟨h3, .inr ⟨rfl, h5, by simp [h1, hd, h3, h5]⟩⟩)⟩
  · simp [h1]

/-- A packet that lands has its effect. -/
theorem takePacket_lands {s : State} {r vc op n : Nat} {burst : Bool} {pkt : Packet} {h : Hop} (k : State → State)
    (hl : landsAt s r vc op n burst pkt h) :
    takePacket s r vc op pkt (destError (hAddr (pHead pkt)) n burst) k = k (sendFlits s h [0] (quota s h)) := by
  obtain ⟨-, h1, h2, h3, h4, h5, h6, h7⟩ := hl
  simp [takePacket, h1, h2, h3, h4, h5, h6, h7]

@[simp] theorem memOf_setMem_self (s : State) (m : MeshMem) (v : Mem) : memOf (setMem s m v) m = v := by
  cases m <;> simp [memOf, setMem]
theorem memOf_setMem_ne (s : State) {m x : MeshMem} (v : Mem) (h : x ≠ m) : memOf (setMem s m v) x = memOf s x := by
  cases m <;> cases x <;> simp only [memOf, setMem, coreOf_updCore, clOf_updCl, ccOf_updCc, coreOf_updCl, coreOf_updCc, clOf_updCore,
    clOf_updCc, ccOf_updCore, ccOf_updCl] <;> split <;> simp_all
theorem MemoriesCanonical.setMem {s : State} (h : MemoriesCanonical s) (m : MeshMem) {v : Mem} (hv : v.wf = true) :
    MemoriesCanonical (setMem s m v) := by
  cases m with
  | spad c => exact h.updCore c (fun _ _ => hv)
  | vault k => exact h.updCl k (fun _ _ => hv)
  | cc i => exact h.updCc i (fun _ _ => hv)
theorem MemoriesCanonical.memOf {s : State} (h : MemoriesCanonical s) (m : MeshMem) : (memOf s m).wf = true := by
  cases m with
  | spad c => exact h.1 c
  | vault k => exact h.2.1 k
  | cc i => exact h.2.2 i

/-- Granules of a body stand at their places, and every other byte of the memory is as before. -/
theorem memByte_writeGranules (b : Bytes) (a x : Nat) : ∀ (gs : List Nat) (m : Mem), (∀ g ∈ gs, 8 * g + 8 ≤ b.length) →
    memByte (writeGranules m a b gs) x = if a ≤ x ∧ (x - a) / 8 ∈ gs then b.getD (x - a) 0#8 else memByte m x
  | [], m, _ => by simp [writeGranules]
  | g :: gs, m, h => by
    have hg : 8 * g + 8 ≤ b.length := h g (by simp)
    have ih := memByte_writeGranules b a x gs (memWrite m (a + 8 * g) (sliceB b (8 * g) 8)) (fun q hq => h q (by simp [hq]))
    have e : writeGranules m a b (g :: gs) = writeGranules (memWrite m (a + 8 * g) (sliceB b (8 * g) 8)) a b gs := rfl
    have hl : (sliceB b (8 * g) 8).length = 8 := by simp [sliceB]
    rw [e, ih, memByte_memWrite, hl]
    by_cases h1 : a ≤ x ∧ (x - a) / 8 ∈ gs
    · rw [if_pos h1, if_pos ⟨h1.1, List.mem_cons_of_mem _ h1.2⟩]
    · rw [if_neg h1]
      by_cases h2 : a + 8 * g ≤ x ∧ x < a + 8 * g + 8
      · have h3 : (x - a) / 8 = g := by omega
        rw [if_pos h2, if_pos ⟨by omega, by simp [h3]⟩]
        have h4 : x - (a + 8 * g) = x - a - 8 * g := by omega
        have h5 : x - (a + 8 * g) < 8 := by omega
        have h6 : 8 * g + (x - (a + 8 * g)) = x - a := by omega
        have h7 : ((b.drop (8 * g)).take 8).length = 8 := by simp; omega
        have h8 : sliceB b (8 * g) 8 = (b.drop (8 * g)).take 8 := by simp only [sliceB, h7]; simp
        simp [h8, List.getD_eq_getElem?_getD, List.getElem?_drop, h5, h6]
      · rw [if_neg h2, if_neg]
        rintro ⟨h3, h4⟩
        rcases List.mem_cons.1 h4 with h4 | h4
        · omega
        · exact h1 ⟨h3, h4⟩
theorem wf_writeGranules (b : Bytes) (a : Nat) : ∀ (gs : List Nat) (m : Mem), m.wf = true → (writeGranules m a b gs).wf = true
  | [], _, h => h
  | _ :: gs, _, h => wf_writeGranules b a gs _ (wf_memWrite h ..)

/-- Background traffic counts; no memory differs. -/
theorem memOf_backgroundBurst (t : State) (m x : MeshMem) : memOf (backgroundBurst t m) x = memOf t x := by
  cases m with
  | vault k =>
    have h1 : onlyGrants t (bumpK t k 0x10 63 32 1) k := by
      unfold bumpK; split
      · exact onlyGrants_refl t k
      · exact onlyGrants_setKreg ..
    obtain ⟨f, g, v⟩ := onlyGrants_trans h1 (onlyGrants_free (onlyGrants_setKreg (bumpK t k 0x10 63 32 1) k 0x10 _) _)
    change memOf (peakFreeK (bumpK t k 0x10 63 32 1) k 0x10 31 0) x = _
    unfold peakFreeK
    cases x with
    | spad c => simp only [memOf]; rw [f]; rfl
    | cc i => simp only [memOf]; rw [f]; rfl
    | vault j =>
      simp only [memOf]
      by_cases e : j = k
      · subst e; exact v
      · exact congrArg _ (g j e)
  | _ => rfl

/-- Granules that land with no poison are written to the memory that the address names, and no other memory differs. -/
theorem landBytes_mem (s : State) (a cap : Nat) (b : Bytes) (gs : List Nat) (m : MeshMem) (h : meshMem a = some (m, cap)) :
    memOf (landBytes s a b gs []) m = memPoison (writeGranules (memOf s m) (aOff a) b gs) []
    ∧ ∀ x, x ≠ m → memOf (landBytes s a b gs []) x = memOf s x := by
  have key : ∀ t : State, ∀ x, memOf (backgroundBurst t m) x = memOf t x := fun t x => memOf_backgroundBurst t m x
  unfold landBytes
  rw [h]
  refine ⟨by simp [key], fun x hx => ?_⟩
  simp only [key]
  exact memOf_setMem_ne _ _ hx

/-! Control messages (R168 to R171). -/

/-- A message that lands for a row: dropped, of another type, or with its effect, off the network. -/
theorem landing_cases (s : State) (m : CtrlMsg) (type : Nat) (k : State → State) :
    (msgDropped s m = true ∧ landing s m type k = dropMessage (landCtrl s m) m)
    ∨ (msgDropped s m = false ∧ mType m ≠ type ∧ landing s m type k = s)
    ∨ (msgDropped s m = false ∧ mType m = type ∧ landing s m type k = k (landCtrl s m)) := by
  unfold landing
  cases h : msgDropped s m <;> by_cases g : mType m = type <;> simp [g]
theorem landing_ok {s : State} {m : CtrlMsg} {type : Nat} (k : State → State) (h : lands s m type) :
    landing s m type k = k (landCtrl s m) := by
  obtain ⟨-, h1, h2⟩ := h
  simp [landing, h1, h2]
/-- A dropped message touches its router's count and the events alone. -/
theorem dropMessage_frame (s : State) (m : CtrlMsg) :
    dropMessage s m = { s with events := (dropMessage s m).events, routers := (dropMessage s m).routers } := by
  unfold dropMessage bumpR; split <;> rfl

/-! The management agent (R492, R496 to R500). -/

/-- An answer joins the agent's answers, last, and nothing else differs. -/
theorem respond_frame (s : State) (r : DapReq) (status : Nat) (body : Bytes) : answered (respond s r status body) r status body
    ∧ respond s r status body = { s with mgmt := { s.mgmt with out := (respond s r status body).mgmt.out } } :=
  ⟨by simp [answered, respond], rfl⟩
/-- A heard request of a session moves its counter and its time, and nothing else differs. -/
theorem touch_frame (s : State) (r : DapReq) : touch s r = { s with mgmt := { s.mgmt with sessions := (touch s r).mgmt.sessions } } := rfl
/-- One entry joins the audit log, and its chain value is the hash of the chain before it and the entry. -/
theorem auditPush_frame (s : State) (entry : Nat → Bytes) : let e := entry (s.mgmt.auditSeq + 1).toNat
    let h := sha256 (auditHead s ++ e)
    (auditPush s entry).mgmt.audit = s.mgmt.audit ++ [(e, h)] ∧ auditHead (auditPush s entry) = h
    ∧ (auditPush s entry).mgmt.auditSeq = s.mgmt.auditSeq + 1
    ∧ auditPush s entry = { s with mgmt := (auditPush s entry).mgmt } := ⟨rfl, rfl, rfl, rfl⟩

end Sys2Proof.Machine
end

