-- ==== Sys2Proof/Tests/Slice0.lean ====
section
/-! SUPPORT. Tests of the model against the spec's words, and for every statement concrete states and operands that meet its
hypotheses, clause by clause. -/

open Sys2Proof Sys2Proof.Machine

namespace Sys2Proof.Tests

-- The witnesses below are evaluated one after another, to keep the memory that compiling them takes small.
set_option Elab.async false

/-! ## Small states -/

/-- Site 0 powered, in partition 0. -/
def site0 : SiteState := { SiteState.reset with powered := true, regs := [(0x100, BitVec.ofNat 64 (2 ^ 31))] }
/-- Standby power on, module in RUN, I/O dies powered. -/
def fin0 : Finder := { Finder.reset with standby12 := true, ioPowered := true, ready := true, pwr := 0 }
/-- A control core that runs its image. -/
def ccUp : CcState := { CcState.reset with image := some [] }
/-- The module with site 0 on, the control core of cluster 0 and the Steward running. -/
def on : State := { State.reset with sites := [(0, site0)], fin := fin0, ccs := [(0, ccUp), (1025, ccUp)] }
/-- The same, with core 0 in a state. -/
def core (v : CoreState) : State := { on with cores := [(0, v)] }
/-- A 128-bit command word: opcode, MOD, form-L fields A, B, C, N, D. -/
def wordL (o m a b c n d : Nat) : Nat := o * 2 ^ 120 + m * 2 ^ 96 + a * 2 ^ 78 + b * 2 ^ 60 + c * 2 ^ 42 + n * 2 ^ 24 + d
/-- Core 0 whose sequencer looks at a word at the start of its scratchpad. -/
def seqS (w : Nat) : CoreState :=
  { CoreState.reset with run := true, seqState := .running, spad := memWrite Mem.empty 0 (leBytes 16 w) }
def cmd (w : Nat) : Issued := { word := BitVec.ofNat 128 w, index := 0, xcur := 0 }
/-- Core 0 with a command at the head of engine queue q. -/
def engS (q w : Nat) : CoreState := setQueue CoreState.reset q [cmd w]
/-- Command words of forms G (length, address) and D. -/
def wordG (o m a n g : Nat) : Nat := o * 2 ^ 120 + m * 2 ^ 96 + a * 2 ^ 78 + n * 2 ^ 60 + g
def wordD (o m a : Nat) : Nat := o * 2 ^ 120 + m * 2 ^ 96 + a * 2 ^ 78
/-- Bytes written into core 0's scratchpad at a granule. -/
def put (v : CoreState) (g size n : Nat) : CoreState := { v with spad := memWrite v.spad (8 * g) (leBytes size n) }
/-- Cluster 0 whose arbiter may give 64 grants, and has given MEs 0 to 3 theirs. -/
def clGrant : ClusterState := { ClusterState.reset with grants := [(0, 0), (1, 0), (2, 0), (3, 0)], regs := [(0x18, 64), (0x20, BitVec.ofNat 64 (64 * 65536 + 64))] }

/-- No semaphore near its largest count, where no core has one that is not zero. -/
theorem roomy_of (s : State) (h : ∀ c, (coreOf s c).sem = []) : roomySems s := by
  intro c m; simp [semOf, h, getN, lookupN]
theorem roomy_cores (s : State) (h : s.cores = []) : roomySems s :=
  roomy_of s (fun c => by simp [coreOf, getN, h, lookupN, CoreState.reset])
theorem roomy_core (s : State) (v : CoreState) (h : s.cores = [(0, v)]) (e : v.sem = []) : roomySems s :=
  roomy_of s (fun c => by
    simp only [coreOf, getN, h, lookupN]; split <;> simp [e, CoreState.reset])
/-- The name of the ill-formed command that an outcome stops at, and the next state of one that goes on. -/
def faultOf (o : Out) : String := match o with | .fault (.illFormed m) => m | _ => ""
def nextOf (o : Out) : State := match o with | .next t => t | _ => State.reset

/-! A small layout: three regions of one core each. -/

def reg (kind : Fin 3) (x : Nat) : RegionDesc :=
  { kind := kind, cores := [(x, 0)], entry := [(x, 0)], exit := [(x, 0)], streamPs := 0, runAheadPs := 0, covers := true, leastBudget := 1,
    boundPs := 0 }
def sweepD : SweepDesc :=
  { hub := (0, 0), inboxOff := 524288, slotBytes := 4096, records := [], slotOff := 0, areaOff := 1048576, frames := 16,
    rings := [[(0, [(0, 0)])]], reach := [[0]], bounds := [], rho := [] }
def body0 : LayoutBody :=
  { regions := [reg 0 0, reg 1 1, reg 2 2], shards := [], banks := 1, bankSem := 0, experts := [], tables := [], streams := [], trees := [],
    partners := [((0, 0), (1, 0))], traffic := [], sweep := sweepD, arrays := [], folders := [((0, 0), 0), ((1, 0), 1)], detours := [],
    instar := none, hooks := false, np := 0 }
def file0 : LayoutFile := { bytes := [], body := body0 }
def job0 : Job :=
  { kind := 1, number := 1, port := 0, theta := 0, thetaSrc := 0, desc := [], descAddr := 0, digest := [], running := true, file := some file0,
    nondet := false, detour := 0, detourBits1 := false, regions := [], nextStep := 0, restarts := [], restarting := false, waitHold := false,
    chain := [], epoch := [], draft := none, instar := none, sweeps := [], dups := [], useSum := 0, useCount := 0, frozen := false, subLast := [],
    subOwn := [], subPeer := [], subOk := none, started := true, diaPaused := false, wakeRestart := none, dupRate := 1, shadowRate := 2,
    logbook := false }
/-- A manifest of two shards, whose digest is zero. -/
def man0 : Manifest :=
  { kind := 1, variant := 0, program := [], base := [], model := [], digest := zeros 32, shards := [(0, 8, zeros 32), (1, 8, zeros 32)] }
def part0 : PartState := { PartState.reset with
  epochs := { Epochs.reset with committed := some man0 }, pdef := BitVec.ofNat 64 (2 ^ 63 + 0xFFFF * 65536), job := some job0 }
/-- Partition 0 of site 0 serves a job. -/
def serving (j : Job) : State := { on with parts := [(0, { part0 with job := some j })] }
/-- The same, with core 0 in a state. -/
def servingCore (j : Job) (v : CoreState) : State := { serving j with cores := [(0, v)] }
/-- Router of a core in partition 0, with more registers. -/
def rtr (more : NMap W64) : RouterState := { RouterState.reset with regs := putN more 0x4D0 (BitVec.ofNat 64 (2 ^ 63)) }
/-- A packet at a buffer, all of its flits there. -/
def hop (r p vc : Nat) (pkt : Packet) : Hop := { router := r, port := p, vc := vc, pkt := pkt, here := flitsOf pkt, gone := 0, drop := false }
/-- A packet at an input buffer of a router of the small module. -/
def meshS (r p vc : Nat) (pkt : Packet) (more : NMap W64) : State :=
  { on with routers := [(0, rtr more), (1, rtr [])], mesh := [hop r p vc pkt] }
/-- A packet: address, operation, source core 0, one body flit, TID, mask, tree. -/
def packet (addr op tid mask tree : Nat) : Packet := { head := mkHead addr op 0 1 false 0 tid mask tree, body := zeros 64, poison := [] }
/-- A request in DECODE in slot 7 of partition 0. -/
def req0 : Request := { newRequest State.reset 0 (zeros 128) with st := .decode }

/-! ## The block as a whole -/

/-- Every statement over all states starts somewhere: reset, with the queue empty and with a command in front. -/
theorem witness_EmptyQueueIsOneCycle : State.reset.pending = [] ∧ State.reset.fin.standby12 = false
    ∧ on.pending = [] ∧ on.fin.standby12 = true ∧ on.fin.diaWait = false := by decide +kernel
theorem witness_EmptyQueueIsOneCycle_sleep : let s := updFin on (fun f => { f with diaWait := true })
    s.fin.standby12 = true ∧ s.fin.held = none ∧ s.fin.diaWait = true ∧ s.fin.wakeWait = none
      ∧ stepsInFlight { countThrottled s (s.units + 30) with units := s.units + 30 } = false
      ∧ (∀ e ∈ on.sites, e.2.powered = true → swallowOf on e.1 = 0) := by decide +kernel
theorem witness_CommandsLeaveTheQueue : ∃ t, exec (.nop 0) { on with pending := [.ready] } = .next t ∧ t.pending = [.ready] :=
  ⟨_, rfl, rfl⟩
theorem witness_StepKeepsMemoriesCanonical : MemoriesCanonical State.reset ∧ step State.reset = .next State.reset := by
  refine ⟨⟨fun c => ?_, fun k => ?_, fun i => ?_⟩, rfl⟩ <;>
    simp [coreOf, clOf, ccOf, State.reset, getN, lookupN, CoreState.reset, ClusterState.reset, CcState.reset, Mem.wf, Mem.empty, cellsWf, keysRise]

/-! Ill-formed terms are refused by name (WellFormed), one for each check. -/

def badPkt : Packet := { head := 0, body := [0], poison := [] }
def badMsg : CtrlMsg := { words := [] }
theorem test_packet_of_one_byte_faults : pktOk badPkt = false
    ∧ faultOf (exec (.write 0 0 badPkt) on) = "WRITE" := by decide +kernel
theorem test_message_of_no_word_faults : msgOk badMsg = false
    ∧ faultOf (exec (.regRd badMsg) on) = "REG_RD" := by decide +kernel
theorem test_short_entry_faults : entryForm [1] 1 = false ∧ faultOf (exec (.submit 0 0 [1]) on) = "SUBMIT" := by decide +kernel
theorem test_entry_of_another_row_faults : entryForm (2#8 :: zeros 127) 1 = false ∧ entryForm (2#8 :: zeros 127) 2 = true := by decide +kernel
theorem test_short_mask_faults : faultOf (exec (.mask 0 0 (3#8 :: zeros 127) (some [])) on) = "MASK" := by decide +kernel
theorem test_short_append_faults :
    faultOf (exec (.continueReq 0 0 (4#8 :: zeros 15 ++ 1#8 :: zeros 111) (some [])) on) = "CONTINUE" := by decide +kernel
theorem test_short_batch_faults :
    faultOf (exec (.batch 0 0 (0x10#8 :: zeros 15 ++ 1#8 :: zeros 111) (some []) none none) on) = "BATCH" := by decide +kernel
theorem test_replay_of_a_resume_record_faults : lgResume [] = false
    ∧ faultOf (exec (.replayResume 0 0 (0x20#8 :: zeros 127) (some []) []) on) = "REPLAY_RESUME" := by decide +kernel
theorem test_short_flit_faults : faultOf (exec (.wlFlit 0 []) on) = "WL_FLIT"
    ∧ faultOf (exec (.hlFlit 0 []) on) = "HL_FLIT" := by decide +kernel
theorem test_three_ramps_fault :
    faultOf (exec (.siteGroupEnergise 0 [.ok, .ok, .ok]) on) = "SITE_GROUP_ENERGISE" := by decide +kernel
theorem test_short_queue_block_faults : faultOf (exec (.qcreate 0 0 []) on) = "QCREATE"
    ∧ faultOf (exec (.qdelete 0 0 []) on) = "QDELETE" := by decide +kernel
theorem test_short_objects_fault (r : DapReq) : faultOf (exec (.publisherCert r 0 []) on) = "PUBLISHER_CERT"
    ∧ faultOf (exec (.publisherFp r 0 []) on) = "PUBLISHER_FP" := ⟨rfl, rfl⟩

/-! ## The sequencer -/

theorem witness_IssueFillsItsQueue : let w := wordL 0x40 0 0 0 0 4 0
    let full := core { seqS w with veq := List.replicate 8 (cmd w) }
    let room := core { seqS w with veq := List.replicate 7 (cmd w) }
    (seqLive full 0 = true ∧ fetchFault full 0 = none ∧ opQueue (wOpc (nextWord full 0)) = some 2 ∧ 8 ≤ (queueOf (coreOf full 0) 2).length)
    ∧ (seqLive room 0 = true ∧ fetchFault room 0 = none ∧ opQueue (wOpc (nextWord room 0)) = some 2
      ∧ (queueOf (coreOf room 0) 2).length < 8) := by decide +kernel

/-- WAIT and SIGNAL words: semaphore and count. -/
def wordSem (o sem n : Nat) : Nat := o * 2 ^ 120 + sem * 2 ^ 91 + n * 2 ^ 64
def semCore (w sem n : Nat) : CoreState := { seqS w with sem := [(sem, BitVec.ofNat 16 n)] }
theorem witness_SequencerCommandsAct_waits :
    seqAt (core (seqS 0)) 0 0x00 = true
    ∧ (let s := core (semCore (wordSem 1 31 5) 31 5); seqAt s 0 0x01 = true ∧ 5 ≤ semOf s 0 31)
    ∧ (let s := core (semCore (wordSem 1 31 5) 31 4); seqAt s 0 0x01 = true ∧ semOf s 0 31 < 5)
    ∧ (let s := core (semCore (wordSem 2 0 1) 0 0xFFFE); seqAt s 0 0x02 = true ∧ semOf s 0 0 + 1 ≤ 0xFFFF) := by decide +kernel
theorem witness_SequencerCommandsAct_fences :
    (let s := core (seqS (3 * 2 ^ 120 + 15 * 2 ^ 92)); seqAt s 0 0x03 = true ∧ (coreOf s 0).meq = [] ∧ (coreOf s 0).veq = []
      ∧ (coreOf s 0).seqe = [] ∧ (coreOf s 0).teq = [] ∧ (coreOf s 0).te = [])
    ∧ (let s := core { seqS (3 * 2 ^ 120 + 2 ^ 93) with veq := [cmd 0] }
      seqAt s 0 0x03 = true ∧ bitOf (nextWord s 0) 93 = true ∧ (coreOf s 0).veq ≠ []) := by decide +kernel
theorem witness_SequencerCommandsAct_jumps :
    (let s := core (seqS (4 * 2 ^ 120 + 98303 * 2 ^ 79)); seqAt s 0 0x04 = true ∧ bitOf (nextWord s 0) 78 = false
      ∧ (coreOf s 0).window.toNat * 16 + bitsOf (nextWord s 0) 95 79 * 16 < Config.spadSize)
    ∧ (let s := core (seqS (4 * 2 ^ 120 + 2 ^ 78 + 7 * 2 ^ 73)); seqAt s 0 0x04 = true ∧ semOf s 0 7 = 0)
    ∧ (let s := core (semCore (4 * 2 ^ 120 + 2 ^ 78 + 7 * 2 ^ 73) 7 1)
      seqAt s 0 0x04 = true ∧ bitOf (nextWord s 0) 78 = true ∧ 0 < semOf s 0 7) := by decide +kernel
theorem witness_StepsCountAndEndsStop :
    seqAt (core (seqS (5 * 2 ^ 120))) 0 0x05 = true
    ∧ (let s := core { seqS (6 * 2 ^ 120) with veq := [cmd 0] }; seqAt s 0 0x06 = true ∧ (coreOf s 0).veq ≠ [])
    ∧ (let s := core (seqS (6 * 2 ^ 120)); seqAt s 0 0x06 = true ∧ (coreOf s 0).meq = [] ∧ (coreOf s 0).teq = []) := by decide +kernel
/-- A core whose cursor stands at a position of a table of n entries at granule 100. -/
def curS (w n pos : Nat) : CoreState :=
  { put (seqS w) 100 8 n with regs := [(0x48, BitVec.ofNat 64 (100 * 2 ^ 46 + n * 2 ^ 34 + pos * 2 ^ 22))] }
theorem witness_StepsCountAndEndsStop_cursor :
    (let s := core (curS (0x61 * 2 ^ 120 + 100 * 2 ^ 78 + 3 * 2 ^ 73) 2 0); seqAt s 0 0x61 = true ∧ readable s 0 100 8 = true
      ∧ inSpad 100 (8 * (1 + 5 * (leNat (spadRead s 0 800 8) % 4096))) = true ∧ semOf s 0 3 + leNat (spadRead s 0 800 8) % 4096 ≤ 65535)
    ∧ (let s := core { put (seqS (0x61 * 2 ^ 120 + 196607 * 2 ^ 78)) 196607 8 1 with run := true }
      seqAt s 0 0x61 = true ∧ readable s 0 196607 8 = true ∧ inSpad 196607 (8 * (1 + 5 * (leNat (spadRead s 0 1572856 8) % 4096))) = false)
    ∧ (let s := core (curS (0x62 * 2 ^ 120) 2 1); seqAt s 0 0x62 = true ∧ xPos (creg s 0 0x48) < xCount (creg s 0 0x48))
    ∧ (let s := core (curS (0x62 * 2 ^ 120) 2 2); seqAt s 0 0x62 = true ∧ xCount (creg s 0 0x48) ≤ xPos (creg s 0 0x48)) := by decide +kernel
theorem witness_SequencersRunAndGatesClose :
    (coreOn on 0 = true ∧ (98303#17).toNat * 16 < Config.spadSize) ∧ Config.spadSize ≤ (98304#17).toNat * 16
    ∧ (let v := { seqS 0 with meq := [cmd 0] }; v.run = true ∧ v.seqState ≠ .errored ∧ v.meq ≠ [])
    ∧ (let v := seqS 0; v.run = true ∧ v.seqState ≠ .errored ∧ v.meq = [] ∧ v.veq = [] ∧ v.seqe = [] ∧ v.teq = [] ∧ v.te = [])
    ∧ (coreOf on 0).run = false := by decide +kernel
theorem witness_SequencersRunAndGatesClose_grants : let s := { on with clusters := [(0, clGrant)] }
    (clOf s 0).grants.find? (fun x => x.1 == 3) = some (3, 0) ∧ (clOf s 0).grants.length ≤ inForce s 0 ∧ (clOf s 0).waiting = []
      ∧ pairReady s (coreAt 0 0 0) 0 = false ∧ (coreOf s (coreAt 0 0 0)).meq = [] ∧ (coreOf s 0).seqState ≠ .running ∧ sweepBusy s 0 = false := by decide +kernel
theorem test_grant_release_gives_the_grant_back :
    (clOf (nextOf (exec (.grantRelease 0 3) { on with clusters := [(0, clGrant)] })) 0).grants = [(0, 0), (1, 0), (2, 0)] := by
  decide +kernel

/-! ## The engines -/

def noEcc : EccObs := { ce1 := 0, ce2 := 0, ue := [] }
theorem witness_CommandsRetireOrStopTheirCore : let s := core { engS 2 (wordL 0x40 0 0 0 0 4 0 + 2 ^ 119 + 31 * 2 ^ 113) with sem := [(31, 0xFFFE)] }
    queueOf (coreOf s 0) 2 = [cmd (wordL 0x40 0 0 0 0 4 0 + 2 ^ 119 + 31 * 2 ^ 113)]
    ∧ ownToken (cmd (wordL 0x40 0 0 0 0 4 0 + 2 ^ 119 + 31 * 2 ^ 113)).word.toNat = some 31 ∧ semOf s 0 31 < 0xFFFF
    ∧ corePart { s with sites := [(0, { site0 with regs := [] })] } 0 = none := by decide +kernel
theorem witness_LoadAndStoreCopy :
    (let w := wordG 0x12 0 196607 1 (2 ^ 46 + 0x5FFFFFF8); let s := core (engS 4 w)
      engAt s 0 4 0x12 (cmd w) = true ∧ ownVault 0 (gAddr w) = true ∧ aOff (gAddr w) + 8 * gN w ≤ Config.vaultCap ∧ inSpad (wA w) 8 = true
      ∧ memPoisoned (clOf s (clusterOf 0)).vault (aOff (gAddr w)) 8 = false
      ∧ noEcc.ue.filter (fun g => (granules (aOff (gAddr w)) 8).contains g) = [])
    ∧ (let w := wordG 0x13 0 196607 1 (2 ^ 46); let s := core (engS 4 w)
      engAt s 0 4 0x13 (cmd w) = true ∧ ownVault 0 (gAddr w) = true ∧ aOff (gAddr w) + 8 ≤ Config.vaultCap ∧ readable s 0 (wA w) 8 = true)
    ∧ (let w := wordG 0x13 0 0 1 (2 ^ 46 + 2 ^ 42); engAt (core (engS 4 w)) 0 4 0x13 (cmd w) = true ∧ ownVault 0 (gAddr w) = false) := by
  decide +kernel
/-- A stream descriptor of one 64 B unit of BF16 values at the start of the vault. -/
def sdesc : Nat := 0x3F800000 * 2 ^ 96 + 2 ^ 48 + 2 ^ 28
theorem witness_StreamsDecode :
    (let w := wordL 0x10 0 0 0 0 0 0; let s := core (put (engS 3 w) 0 16 sdesc)
      engAt s 0 3 0x10 (cmd w) = true ∧ descOk s 0 (wA w) 16 0 = true ∧ wMod w = 0 ∧ noEcc.ue = [] ∧ (coreOf s 0).se = none
      ∧ descAt s 0 (wA w) 16 = sdesc ∧ sdError sdesc = none ∧ sdKind sdesc ≠ 0
      ∧ sdBase sdesc + streamLength (srcMem s 0 (sdSrc sdesc)) sdesc ≤ srcCap (sdSrc sdesc)
      ∧ memPoisoned (srcMem s 0 (sdSrc sdesc)) (sdBase sdesc) (streamLength (srcMem s 0 (sdSrc sdesc)) sdesc) = false
      ∧ fifoBlocks (coreOf s 0) + tensorBlocks (streamTensor (srcMem s 0 (sdSrc sdesc)) sdesc) ≤ 64)
    ∧ (let w := wordL 0x10 1 0 196600 0 0 0; let s := core (put (engS 3 w) 0 16 sdesc)
      engAt s 0 3 0x10 (cmd w) = true ∧ descOk s 0 (wA w) 16 0 = true ∧ wMod w = 1 ∧ descAt s 0 (wA w) 16 = sdesc
      ∧ (coreOf s 0).se = none ∧ (sweepBusy s 0 && coreGranted s 0 1) = false
      ∧ inSpad (wB w) (streamLength (srcMem s 0 (sdSrc sdesc)) sdesc) = true) := by decide +kernel
theorem witness_StreamsDecode_cursor :
    (let w := wordL 0x63 0 0 0 0 1 0; let i : Issued := { cmd w with xcur := BitVec.ofNat 64 (100 * 2 ^ 46 + 2 ^ 34) }
      let s := core { put (put (engS 3 w) 0 16 sdesc) 100 8 1 with seqe := [i] }
      engAt s 0 3 0x63 i = true ∧ wN w = 1 ∧ 8 * wA w % 16 = 0 ∧ (coreOf s 0).se = none ∧ cursorOk s 0 i.xcur.toNat = true
      ∧ cursorAt s 0 i.xcur.toNat = (0, 0) ∧ readable s 0 (wA w) 16 = true ∧ descAt s 0 (wA w) 16 = sdesc) := by decide +kernel
/-- A full FIFO: 64 blocks of BF16, and a stream of which no unit has been read. -/
def fullFifo : StreamTensor := { tscale := 0x3F800000, bf16 := true, blocks := [], values := List.replicate 2048 0x3F80, whole := false }
theorem witness_StreamsDecode_full :
    (let w := wordL 0x10 0 0 0 0 0 0
      let r : SeRun := { desc := BitVec.ofNat 128 sdesc, tensor := 0, stripe := 0, addr := 0, sent := 0 }
      let s := core { put (engS 3 w) 0 16 sdesc with fifo := [fullFifo], se := some r }
      engAt s 0 3 0x10 (cmd w) = true ∧ (coreOf s 0).se = some r ∧ r.stripe < sdCount r.desc.toNat ∧ 64 ≤ fifoBlocks (coreOf s 0)) := by
  decide +kernel
/-- An MMA descriptor: one row of one block, one token, BF16 activations at granule 16, outputs at granule 64. -/
def mdesc : Nat := 0x3F800000 * 2 ^ 224 + 16 * 2 ^ 206 + 64 * 2 ^ 188 + 2 ^ 154 + 2 ^ 138 + 2 ^ 129 + 2 * 2 ^ 127 + 2 ^ 95
def ones : StreamTensor := { tscale := 0x3F800000, bf16 := true, blocks := [], values := List.replicate 32 0x3F80, whole := true }
def mmaS (o : Nat) : State :=
  { core { put (engS 1 (wordD o 0 0)) 0 32 mdesc with fifo := [ones] } with clusters := [(0, clGrant)] }
theorem witness_MatrixProducts : engAt (mmaS 0x20) 0 1 0x20 (cmd (wordD 0x20 0 0)) = true
    ∧ matrixReady false (mmaS 0x20) 0 (cmd (wordD 0x20 0 0)) mdesc ones := by
  refine ⟨by decide +kernel, ?_⟩; simp only [matrixReady]; decide +kernel
theorem witness_MatrixProducts_transposed : engAt (mmaS 0x21) 0 1 0x21 (cmd (wordD 0x21 0 0)) = true
    ∧ matrixReady true (mmaS 0x21) 0 (cmd (wordD 0x21 0 0)) mdesc ones := by
  refine ⟨by decide +kernel, ?_⟩; simp only [matrixReady]; decide +kernel
/-- 32 weights of 1.0 times a BF16 activation of 2.0 at index 0: the output is 2.0 (R88). -/
theorem test_mma_of_ones : (let s := mmaS 0x20
    let t := nextOf (exec (.mma 0 ⟨noEcc, []⟩) { s with cores := [(0, put (coreOf s 0) 16 2 0x4000)] }); f32At t 0 512) = 0x40000000#32 := by
  decide +kernel
theorem witness_VectorCommandsCompute :
    (let w := wordL 0x40 0xC2 0 8 16 3 196606; let s := core (engS 2 w)
      engAt s 0 2 0x40 (cmd w) = true ∧ operandOk s 0 (wA w) 3 true false = true
      ∧ operandOk s 0 (wB w) 3 (decide (2 ≤ vopArity (wMod w % 64))) (bitOf (wMod w) 6) = true
      ∧ operandOk s 0 (wC w) 3 (decide (3 ≤ vopArity (wMod w % 64))) (bitOf (wMod w) 7) = true ∧ inSpad (wD w) 12 = true)
    ∧ (let w := wordL 0x41 0 0 0 0 5 196607; let s := core (engS 2 w)
      engAt s 0 2 0x41 (cmd w) = true ∧ readable s 0 (wA w) 20 = true ∧ inSpad (wD w) 8 = true)
    ∧ (let w := wordL 0x42 1 0 0 0 3 64; let s := core (engS 2 w)
      engAt s 0 2 0x42 (cmd w) = true ∧ wMod w % 4 = 1 ∧ readable s 0 (wA w) 6 = true ∧ inSpad (wD w) 12 = true)
    ∧ (let w := wordL 0x42 4 0 0 32 3 64; let s := core (engS 2 w)
      engAt s 0 2 0x42 (cmd w) = true ∧ wMod w % 4 = 0 ∧ wMod w / 4 % 4 = 1 ∧ readable s 0 (wA w) 12 = true ∧ inSpad (wD w) 6 = true
      ∧ readable s 0 (wC w) 16 = true)
    ∧ (let w := wordL 0x43 0 0 8 16 3 64; let s := core (engS 2 w)
      engAt s 0 2 0x43 (cmd w) = true ∧ readable s 0 (wA w) 12 = true ∧ operandOk s 0 (wB w) 3 true (bitOf (wMod w) 6) = true
      ∧ readable s 0 (wC w) 8 = true ∧ inSpad (wD w) 12 = true)
    ∧ (let w := wordL 0x44 0 0 64 128 1 256; let s := core (engS 2 w)
      engAt s 0 2 0x44 (cmd w) = true ∧ readable s 0 (wA w) 256 = true ∧ readable s 0 (wB w) 4 = true ∧ readable s 0 (wC w) 128 = true
      ∧ inSpad (wD w) 256 = true) := by decide +kernel
/-- A QACT descriptor: scale 1.0, source granule 1024, destination 4096, 32 values, one token, capacity 0, slot of 3 × 64 B. -/
def qdesc : Nat := 0x3F800000 * 2 ^ 224 + 1024 * 2 ^ 206 + 4096 * 2 ^ 188 + 32 * 2 ^ 154 + 2 ^ 145 + 3 * 2 ^ 129
def qactS (v : CoreState) : State := core (put v 0 32 qdesc)
def qenc (s : State) : QactOut :=
  qactStripe 0 (qdS qdesc) (coreTheta s 0) (qdCap qdesc) 0 0 (spadF32 s 0 (8 * qdSrc qdesc) 32) (fun _ => none)
theorem witness_QuantisersEncode :
    (let w := wordD 0x30 0 0; let s := qactS (engS 2 w)
      engAt s 0 2 0x30 (cmd w) = true ∧ descOk s 0 (wA w) 32 121 = true ∧ descAt s 0 (wA w) 32 = qdesc ∧ qdError s 0 w qdesc = none
      ∧ readable s 0 (qdSrc qdesc) 128 = true ∧ inSpad (qdDst qdesc) 192 = true ∧ apart 8192 128 32768 192 = true
      ∧ qactItems qdesc = [(0, 0)] ∧ trappedTokens s 0 = [] ∧ (qenc s).image.any (fun i => decide (i.length ≤ 192)) = true)
    ∧ (let w := wordD 0x30 8 0; let s := qactS (put (engS 2 w) 1024 4 0x7F800000)
      engAt s 0 2 0x30 (cmd w) = true ∧ descAt s 0 (wA w) 32 = qdesc ∧ qdError s 0 w qdesc = none
      ∧ (qactStripe 0 (qdS qdesc) (coreTheta s 0) (qdCap qdesc) 2 0 (spadF32 s 0 (8 * qdSrc qdesc) 32) (fun _ => none)).image = none)
    ∧ (let w := wordL 0x31 0 1024 0 0 1 8192; let s := core (put (engS 2 w) 0 8 0x3F800000)
      engAt s 0 2 0x31 (cmd w) = true ∧ coreLevel s 0 ≠ 2 ∧ readable s 0 (wC w) 8 = true ∧ scaleOk (f32At s 0 (8 * wC w)) = true
      ∧ readable s 0 (wA w) 2048 = true ∧ inSpad (wD w) (unitBytes 0) = true ∧ apart 8192 2048 65536 (unitBytes 0) = true) := by decide +kernel
/-- The worked example of chapter 03 (R71, R73): header 0x6E08, payload E4 72, lane entry 0x2803_4220. -/
def exampleVals : List F32 :=
  List.replicate 96 0 ++ [0x3F800000, 0xC0000000, 0x3F000000, 0x40200000, 0, 0x42200000] ++ List.replicate 26 0
theorem test_qact_worked_example :
    (qactStripe 0 0x3F800000 0x40800000 32 2 0 exampleVals (fun _ => none)).image.map (fun b => (leAt b 22 2, leAt b 80 16, leAt b 96 4))
      = some (0x6E08, 0x72E4, 0x28034220) := by decide +kernel

theorem witness_GeneratorTimeAndSlotSums :
    (let w := wordL 0xA0 0 0 0 0 3 64; let s := core (engS 2 w); engAt s 0 2 0xA0 (cmd w) = true ∧ readable s 0 (wC w) 16 = true ∧ inSpad (wD w) 12 = true)
    ∧ (let w := wordL 0xA1 0 0 0 0 3 64; let s := core (engS 2 w); engAt s 0 2 0xA1 (cmd w) = true ∧ inSpad (wD w) 12 = true)
    ∧ (let w := wordL 0xA2 0 196607 0 0 0 0; let s := core (engS 4 w); engAt s 0 4 0xA2 (cmd w) = true ∧ inSpad (wA w) 8 = true)
    ∧ (let w := wordL 0xA3 (31 * 32) 0 0 0 2 64; let s := core (engS 2 w)
      engAt s 0 2 0xA3 (cmd w) = true ∧ wMod w % 32 + (wMod w / 32 + 1) ≤ 32 ∧ readable s 0 (wA w) 256 = true ∧ inSpad (wD w) 8 = true
      ∧ (coreOf s 0).reduceDone = none ∧ ∀ k, k < 32 → semOf s 0 k = 0)
    ∧ (let w := wordL 0xA3 31 0 0 0 2 64; let s := core { engS 2 w with sem := [(31, 1)] }
      engAt s 0 2 0xA3 (cmd w) = true ∧ 1 ≤ semOf s 0 31 ∧ apart 0 8 512 8 = true)
    ∧ (let w := wordL 0xA3 (32 + 31) 0 0 0 2 64; engAt (core (engS 2 w)) 0 2 0xA3 (cmd w) = true ∧ 32 < wMod w % 32 + (wMod w / 32 + 1)) := by
  decide +kernel
/-- A GATE descriptor: scores at granule 16, variants at 32, records at 64, union table at 256; 2 experts, one token, 1 chosen. -/
def gdesc : Nat := 16 * 2 ^ 238 + 32 * 2 ^ 220 + 64 * 2 ^ 202 + 256 * 2 ^ 184 + 2 * 2 ^ 168 + 2 ^ 151 + 2 ^ 147 + 2 ^ 127
theorem witness_ExpertsChosenAndAccumulated :
    (let w := wordD 0x60 0 0; let s := core (put (engS 2 w) 0 32 gdesc)
      let u := gateUnion [gateToken gdesc (spadF32 s 0 (8 * gdScores gdesc) 2) (leNat (spadRead s 0 (8 * gdVariants gdesc) 1))]
      engAt s 0 2 0x60 (cmd w) = true ∧ descOk s 0 (wA w) 32 125 = true ∧ descAt s 0 (wA w) 32 = gdesc ∧ gdNr gdesc = 2 ∧ gdNp gdesc = 0
      ∧ gdTokens gdesc = 1 ∧ gdKr gdesc = 1 ∧ gdKp gdesc = 0 ∧ gdNorm gdesc ≠ 3 ∧ readable s 0 (gdScores gdesc) 8 = true
      ∧ readable s 0 (gdVariants gdesc) 1 = true ∧ inSpad (gdRec gdesc) 128 = true ∧ inSpad (gdUnion gdesc) u.length = true
      ∧ apart 512 128 2048 u.length = true)
    ∧ (let w := wordL 0x64 0 512 1024 0 2 2048; let i : Issued := { cmd w with xcur := BitVec.ofNat 64 (100 * 2 ^ 46 + 2 ^ 34) }
      let s := core { put (put (engS 2 w) 100 8 1) 102 8 1 with veq := [i] }
      engAt s 0 2 0x64 i = true ∧ cursorOk s 0 i.xcur.toNat = true ∧ cursorAt s 0 i.xcur.toNat = (0, 1) ∧ 1 < 2 ^ 1 ∧ readable s 0 (wB w) 128 = true
      ∧ readable s 0 (wA w) 8 = true ∧ readable s 0 (wD w) 8 = true ∧ apart 4096 8 16384 8 = true) := by decide +kernel
/-- A sampling record with TOP_K 1 at granule 64. -/
def recS (w : Nat) : State := core { engS 2 w with spad := memWrite Mem.empty 528 [1#8, 0, 0, 0, 0, 0, 0, 0] }
theorem witness_SamplingDrawsAndStops :
    (let w := wordL 0x80 0 0 64 128 1 1024; let s := recS w; let r := spadRead s 0 512 64
      let l := sampleK r none (fun _ => 0) 0 [f32At s 0 0]
      engAt s 0 2 0x80 (cmd w) = true ∧ readable s 0 (wA w) 4 = true ∧ readable s 0 (wB w) 64 = true ∧ readable s 0 (wC w) 8 = true
      ∧ srTopK r = 1 ∧ reqOf s (srSlot r) = none ∧ inSpad (wD w) (8 + 8 * l.length) = true)
    ∧ (let w := wordL 0x81 0 0 64 0 1024 1024; let s := core (engS 2 w)
      engAt s 0 2 0x81 (cmd w) = true ∧ wN w ≤ 1024 ∧ leNat (spadRead s 0 0 8) % 2 ^ 11 = 0 ∧ leNat (spadRead s 0 512 8) % 2 ^ 11 = 0
      ∧ readable s 0 (wA w) 8 = true ∧ readable s 0 (wB w) 8 = true ∧ topK 1024 (candList 0 [] ++ candList 0 []) = [] ∧ inSpad (wD w) 8 = true)
    ∧ (let w := wordL 0x82 0 0 64 0 0 1024; let s := recS w
      engAt s 0 2 0x82 (cmd w) = true ∧ leNat (spadRead s 0 0 8) % 2 ^ 11 = 0 ∧ readable s 0 (wA w) 8 = true ∧ readable s 0 (wB w) 64 = true
      ∧ inSpad (wD w) 32 = true)
    ∧ (let w := wordL 0x83 0 0 64 0 0 1024; let s := core (engS 2 w)
      engAt s 0 2 0x83 (cmd w) = true ∧ readable s 0 (wA w) 32 = true ∧ readable s 0 (wB w) 576 = true ∧ inSpad (wD w) 8 = true)
    ∧ (leAt (leBytes 4 7) (4 * 0) 4 = 7 ∧ 7 ≠ 0xFFFFFFFF ∧ 7 ≠ 0x3FFFF) := by decide +kernel
theorem witness_TransfersAndRemoteSignals :
    (let w := wordG 0x70 0 0 200 (2 ^ 46 + 2 ^ 42); let s := core (engS 4 w)
      engAt s 0 4 0x70 (cmd w) = true ∧ sourceError (gAddr w) 1 0 (coreLevel s 0 == 2) = none ∧ clusterVault 0 (gAddr w) = false ∧ readable s 0 (wA w) 1600 = true
      ∧ transferReady s 0 0 1 0x70 1600 = true)
    ∧ (let w := wordG 0x72 1 0 8 0; let s := core (engS 4 w)
      engAt s 0 4 0x72 (cmd w) = true ∧ wMod w % 4 = 1 ∧ readable s 0 (wA w) 64 = true ∧ transferReady s 0 1 4 0x72 64 = true)
    ∧ (let w := wordG 0x73 2 0 8 0; let s := core (engS 4 w)
      engAt s 0 4 0x73 (cmd w) = true ∧ sourceError (gAddr w) 5 2 (coreLevel s 0 == 2) = none ∧ gN w % 8 = 0 ∧ readable s 0 (wA w) 64 = true
      ∧ (coreOf s 0).dupTile = none      ∧ transferReady s 0 2 5 0x73 64 = true)
    ∧ (let w := wordG 0x75 0 0 8 0; let s := core { engS 4 w with regs := [(0x40, BitVec.ofNat 64 (2 * 2 ^ 24))] }
      engAt s 0 4 0x75 (cmd w) = true ∧ coreLevel s 0 = 2 ∧ gN w ≤ 8 ∧ sourceError (gAddr w) 6 3 true = none ∧ readable s 0 (wA w) 64 = true
      ∧ transferReady s 0 3 6 0x75 1 = true)
    ∧ (let w := wordG 0x84 0 0 4 (64 * 2 ^ 49); let s := core (engS 4 w)
      engAt s 0 4 0x84 (cmd w) = true ∧ gN w = 4 ∧ sourceError (gAddr w) 1 0 (coreLevel s 0 == 2) = none ∧ readable s 0 (wA w) 32 = true
      ∧ transferReady s 0 0 1 0x84 32 = true) := by decide +kernel
def txn (tid : BitVec 16) (opc : Byte) (rem_ : Nat) : TeTxn :=
  { tid := tid, index := 0, opc := opc, token := none, sent := 0, remaining := rem_, dst := 0, src := 0, size := 256 }
theorem witness_TransfersAndRemoteSignals_reads :
    (let w := wordG 0x71 0 0 64 (2 ^ 46 + 2 ^ 42 + 128); let s := core (engS 4 w)
      engAt s 0 4 0x71 (cmd w) = true ∧ sourceError (gAddr w) 2 0 (coreLevel s 0 == 2) = none ∧ clusterVault 0 (gAddr w) = false ∧ inSpad (wA w) 512 = true
      ∧ transferReady s 0 0 2 0x71 512 = true)
    ∧ (let w := wordG 0x71 0 0 64 (2 ^ 46 + 128); let s := core (engS 4 w)
      engAt s 0 4 0x71 (cmd w) = true ∧ sourceError (gAddr w) 2 0 (coreLevel s 0 == 2) = none ∧ clusterVault 0 (gAddr w) = true
      ∧ destError (gAddr w) 512 false = none ∧ inSpad (wA w) 512 = true ∧ memPoisoned (clOf s (clusterOf 0)).vault (aOff (gAddr w)) 512 = false)
    ∧ (let w := wordG 0x73 2 0 8 0; let t : DupTile :=
        { index := 0, word := 0, desc := 0, tokens := [], old := [], right := [], outs := [] }
      let s := core { engS 4 w with dupTile := some t }
      engAt s 0 4 0x73 (cmd w) = true ∧ wMod w % 4 = 2 ∧ (coreOf s 0).dupTile.isSome = true)
    ∧ (let w := wordL 0x74 0 0 0 0 0 0; let s := core (engS 4 w); engAt s 0 4 0x74 (cmd w) = true ∧ (coreOf s 0).te = [] ∧ bitsOf w 63 57 < 80)
    ∧ (let w := wordL 0x74 0 0 0 0 0 0; let s := core { engS 4 w with te := [txn 0 0x70 8] }
      engAt s 0 4 0x74 (cmd w) = true ∧ (coreOf s 0).te ≠ []) := by decide +kernel
theorem witness_PlateFolds :
    (let w := wordL 0x90 1 0 0 0 4 0; let s := { serving job0 with cores := [(1, engS 4 w)] }
      engAt s 1 4 0x90 (cmd w) = true ∧ mayFold s 1 1 = true ∧ readable s 1 (wA w) 32 = true)
    ∧ (let w := wordL 0x90 0 0 0 0 8 0; let s := { servingCore job0 (put (engS 4 w) 0 8 (7 * 2 ^ 32)) with reqs := [(7, req0)] }
      engAt s 0 4 0x90 (cmd w) = true ∧ mayFold s 0 0 = true ∧ wN w = 8 ∧ readable s 0 (wA w) 64 = true ∧ inSpad (wA w + 8) 32 = true
      ∧ leAt (spadRead s 0 0 64) 4 4 = 7 ∧ reqOf s 7 = some req0 ∧ reqFinal req0 = false ∧ req0.folded ≤ leAt (spadRead s 0 0 64) 0x0C 4)
    ∧ (let w := wordL 0x90 0 0 0 0 8 0; let s := core (engS 4 w); engAt s 0 4 0x90 (cmd w) = true ∧ mayFold s 0 0 = false) := by decide +kernel

/-! ## The attention sweep -/

/-- A SWEEP descriptor: queries at granule 64, lengths at 512, results at 1024, layer 0, one head, one token, tree 56. -/
def swdesc : Nat := 64 * 2 ^ 238 + 512 * 2 ^ 220 + 1024 * 2 ^ 202 + 2 ^ 188 + 2 ^ 179 + 56 * 2 ^ 173
def run0 : SweepRun :=
  { owner := 0, tid := 0, index := 0, token := none, draft := false, layer := 0, heads := 1, tokens := 1, tree := 0, rdst := 1024
    slot := some 0, size := 8, arrived := 8, taken := false, queries := [], entries := [], lens := [1], handles := [7], poisoned := false
    reach := 0, mcTid := 0, mcSent := 0, mcLeft := 0, received := [], waiting := [], sent := [], clamped := [], gathered := [], resTid := none
    resSent := 0, resLanded := 0 }
def run8 : List SweepRun := (List.range 8).map (fun k => { run0 with slot := some (Fin.ofNat 8 k) })
theorem witness_SweepsReachTheHubAndReturn :
    (let w := wordD 0x50 0 0; let j := { job0 with sweeps := run8 }; let s := servingCore j (put (engS 4 w) 0 32 swdesc)
      engAt s 0 4 0x50 (cmd w) = true ∧ coreLevel s 0 ≠ 2 ∧ descOk s 0 (wA w) 32 173 = true ∧ descAt s 0 (wA w) 32 = swdesc
      ∧ (runJobAt s 0 = some (0, j)) ∧ draftTree j (Machine.sdTree swdesc) = false
      ∧ (sweepSection s 0 j false).map (·.1) = some sweepD ∧ Machine.sdTree swdesc ≤ 56 ∧ Machine.sdHeads swdesc = 1
      ∧ Machine.sdTokens swdesc = 1) := by decide +kernel
theorem witness_SweepsReachTheHubAndReturn_operands :
    (let w := wordD 0x50 0 0; let j := { job0 with sweeps := run8 }; let s := servingCore j (put (engS 4 w) 0 32 swdesc)
      readable s 0 (Machine.sdQaddr swdesc) (544 + entryBytes (cacheFmt sweepD)) = true ∧ readable s 0 (Machine.sdLens swdesc) 16 = true
      ∧ inSpad (Machine.sdRdst swdesc) 2048 = true ∧ (openSweep s 0 j).isNone = true ∧ freeInbox j false = none)
    ∧ (let w := wordD 0x50 0 0; let j := { job0 with sweeps := run8.take 7 }; let s := servingCore j (put (engS 4 w) 0 32 swdesc)
      runJobAt s 0 = some (0, j) ∧ (openSweep s 0 j).isNone = true ∧ freeInbox j false = some 7 ∧ (underWay s 0 0x50).isSome = false
      ∧ transferReady s 0 2 1 0x50 (544 + entryBytes (cacheFmt sweepD) + 16) = true) := by decide +kernel
theorem witness_SweepsReachTheHubAndReturn_take :
    (let j := { job0 with sweeps := [run0] }; let s := serving j
      jobOf s 0 = some j ∧ (sweepSection s 0 j false).map (·.1) = some sweepD ∧ hubNext j = some run0
      ∧ (sweepSection s 0 j false).map hubCore = some 0 ∧ coreOn s 0 = true) := by decide +kernel
def run1 : SweepRun := { run0 with taken := true, mcSent := 8, waiting := [0], received := [(0, 8)] }
def run2 : SweepRun := { run0 with
  taken := true, mcSent := 8, gathered := [([], false), ([], false)] }
theorem witness_SweepsReachTheHubAndReturn_service : let j := { job0 with sweeps := [run1] }; let s := serving j
    runJobAt s 0 = some (0, j) ∧ (sweepsToServe s 0).head? = some run1 ∧ (sweepSection s 0 j false).map (·.1) = some sweepD
    ∧ coreOn s 0 = true ∧ coreGranted (coreRequests s 0 1) 0 1 = false := by decide +kernel
theorem witness_SweepsReachTheHubAndReturn_granted :
    let s := { serving { job0 with sweeps := [run1] } with clusters := [(0, { clGrant with grants := [(0, 1), (1, 1), (2, 1), (3, 1)] })] }
    (sweepsToServe s 0).head? = some run1 ∧ coreOn s 0 = true ∧ veReady s 0 = false := by decide +kernel
theorem witness_SweepsReachTheHubAndReturn_grants : let s := { on with clusters := [(0, { clGrant with grants := [(0, 1), (1, 1), (2, 1), (3, 1)] })] }
    coreGranted (coreRequests s 0 1) 0 1 = true := by decide +kernel
theorem witness_SweepsReachTheHubAndReturn_result : let j := { job0 with sweeps := [run2] }; let s := serving j
    jobOf s 0 = some j ∧ resultNext j = some run2 ∧ realToken run2 0 = true
    ∧ (sweepSection s 0 j false).map hubCore = some 0 ∧ coreOn s 0 = true := by decide +kernel

/-! ## The data mesh -/

/-- The scratchpad of core 1 (die 0, cluster 0, core 1), the scratchpad of core 0, and vault 0. -/
def spad1 : Nat := 2 ^ 38
theorem witness_PacketsHop : let pkt := packet spad1 1 0 0x80 0; let s := meshS 0 0 0 pkt []; let h := hop 0 0 0 pkt
    (pktOk pkt = true ∧ headHop s 0 0 0 pkt = some h ∧ hOp (pHead pkt) = 1 ∧ routePort 0 (destRouter s (pHead pkt)) = 2
      ∧ portStop s 0 0 2 0 (pHead pkt) = none ∧ wins s h = true ∧ linkEnd 0 2 = some (1, 4) ∧ openHop s 0 0 (hopBuf h) = none)
    ∧ (let s' := { s with routers := [(0, { rtr [] with creditsUsed := [(10, 16)] }), (1, rtr [])] }
      headHop s' 0 0 0 pkt = some h ∧ portStop s' 0 0 2 0 (pHead pkt) = none ∧ wins s' h = false)
    ∧ (let s' := { s with routers := [] }; headHop s' 0 0 0 pkt = some h ∧ (portStop s' 0 0 2 0 (pHead pkt)).isSome = true) := by
  decide +kernel
/-- Two packets for one output, VC1 and VC0: VC1 goes first, but VC0 once it has not been served for 15 FCLK. -/
def twoS (floor : Nat) : State :=
  { on with routers := [(0, { rtr [] with vc0Sent := [(2, (floor, floor))] }), (1, rtr [])],
            mesh := [hop 0 0 0 (packet spad1 1 0 0x80 0), hop 0 0 1 (packet spad1 1 1 0x80 0)] }
theorem test_vc1_before_vc0_but_for_the_floor :
    (outPick (twoS 0) 0 2).map (fun h => h.vc) = some 1 ∧ floorDue (twoS 15) 0 2 = true
      ∧ (outPick (twoS 15) 0 2).map (fun h => h.vc) = some 0 := by decide +kernel
theorem witness_PacketsLand :
    (let pkt := packet spad1 1 0 0xFF 0; let s := meshS 1 4 0 pkt []; let h := hop 1 4 0 pkt
      (meshMem (hAddr (pHead pkt)) = some (.spad 1, Config.spadSize) ∧ pkt.poison = [])
      ∧ landsAt s 1 0 1 (extentOf (bodyGranules pkt)) true pkt h ∧ commitSource s pkt = none)
    ∧ (let pkt := packet spad1 6 0 0 0; let s := meshS 1 4 3 pkt []; let h := hop 1 4 3 pkt
      landsAt s 1 3 6 (64 * hNbody (pHead pkt)) true pkt h) := by simp only [landsAt]; decide +kernel
theorem witness_PacketsLand_roomy : roomySems (meshS 1 4 0 (packet spad1 1 0 0xFF 0) []) := roomy_cores _ rfl
theorem witness_PacketsLand_refill : noRefill (meshS 1 4 0 (packet spad1 1 0 0xFF 0) []) (hop 1 4 0 (packet spad1 1 0 0xFF 0)) :=
  fun h => absurd h (by decide)
theorem witness_ReadsAreAnsweredAndMulticastsSpread :
    (let pkt := Packet.mk (mkHead spad1 2 0 0 false 0 5 7 0) [] []; let s := meshS 1 4 0 pkt []
      meshMem (hAddr (pHead pkt)) = some (.spad 1, Config.spadSize) ∧ landsAt s 1 0 2 (readBytes pkt) true pkt (hop 1 4 0 pkt)
      ∧ memPoisoned (memOf s (.spad 1)) 0 (readBytes pkt) = false) := by simp only [landsAt]; decide +kernel
theorem witness_ReadsAreAnsweredAndMulticastsSpread_response :
    (let pkt := packet 0 3 5 0 0; let s := { meshS 0 2 0 pkt [] with cores := [(0, { CoreState.reset with te := [txn 5 0x71 256] })] }
      let h := hop 0 2 0 pkt
      pktOk pkt = true ∧ hOp (pHead pkt) = 3 ∧ arrived s 0 0 pkt = some h ∧ h.drop = false ∧ portStop s 0 2 0 0 (pHead pkt) = none
      ∧ wins s h = true ∧ flitsOf pkt ≤ h.gone + quota s h ∧ aDie (hAddr (pHead pkt)) < 64
      ∧ addrCore (hAddr (pHead pkt)) = 0
      ∧ (coreOf s 0).te.find? (fun u => u.tid.toNat == hTid (pHead pkt) && u.opc == 0x71#8) = some (txn 5 0x71 256)
      ∧ (coreOf s 0).te.find? (fun u => u.tid.toNat == hTid (pHead pkt)) = some (txn 5 0x71 256)
      ∧ (txn 5 0x71 256).src ≤ aOff (hAddr (pHead pkt))) := by decide +kernel
theorem witness_ReadsAreAnsweredAndMulticastsSpread_roomy :
    roomySems { meshS 0 2 0 (packet 0 3 5 0 0) [] with cores := [(0, { CoreState.reset with te := [txn 5 0x71 256] })] } :=
  roomy_core _ _ rfl rfl
/-- A tree entry: valid, IN and OUT as bits of ports. -/
def treeWord (reduce : Nat) (ins outs : Nat) : W64 := BitVec.ofNat 64 (2 ^ 31 + reduce * 2 ^ 30 + ins * 2 ^ 24 + outs * 2 ^ 19)
theorem witness_ReadsAreAnsweredAndMulticastsSpread_multicast : let pkt := packet 0 4 5 0xFF 9
    let s := meshS 0 0 1 pkt [(0x848, treeWord 0 1 5)]; let v := mcEntry s 0 9; let h := hop 0 0 1 pkt
    (pktOk pkt = true ∧ hOp (pHead pkt) = 4 ∧ headHop s 0 0 1 pkt = some h ∧ hTree (pHead pkt) = 9 ∧ bitOf v 31 = true
      ∧ bitOf v 30 = false ∧ 0 ∈ mcIn v ∧ mcOut v = [0, 2] ∧ (∀ p ∈ mcOut v, portStop s 0 0 p 1 (pHead pkt) = none)
      ∧ linkEnd 0 2 = some (1, 4) ∧ wins s h = true ∧ flitsOf pkt ≤ quota s h ∧ openHop s 0 0 (hopBuf h) = none
      ∧ destError (treeAddr 0 (pHead pkt)) (extentOf (bodyGranules pkt)) false = none
      ∧ (sweepReceived s 0 (hSrc (pHead pkt)) (hTid (pHead pkt)) (8 * (bodyGranules pkt).length)).isNone = true)
    ∧ (let s := meshS 0 2 1 pkt [(0x848, treeWord 0 4 1)]; let v := mcEntry s 0 9
      headHop s 0 2 1 pkt = some (hop 0 2 1 pkt) ∧ 2 ∈ mcIn v ∧ (mcOut v).filter (· ≠ 0) = [] ∧ 0 ∈ mcOut v ∧ linkEnd 0 2 = some (1, 4)) := by
  decide +kernel
/-- An entry of router 0 that waits for ports, and a token from port 2. -/
def ackS (waiting : List Nat) (inPort : Nat) : State :=
  { on with acks := [AckTok.mk 0 2 9 false], routers := [(0, { RouterState.reset with ackWait := [AckWait.mk 9 inPort waiting false (packet 0 4 5 0xFF 9).head] })],
            cores := [(0, { CoreState.reset with te := [txn 5 0x72 1] })] }
theorem witness_ReadsAreAnsweredAndMulticastsSpread_acks :
    (let s := ackS [2, 3] 0; let w := AckWait.mk 9 0 [2, 3] false (packet 0 4 5 0xFF 9).head
      AckTok.mk 0 2 9 false ∈ s.acks ∧ (routerOf s 0).ackWait.find? (fun w => w.tree == 9 && w.waiting.contains 2) = some w
      ∧ w.waiting.erase 2 ≠ [])
    ∧ (let s := ackS [2] 3; (routerOf s 0).ackWait.find? (fun w => w.tree == 9 && w.waiting.contains 2)
          = some (AckWait.mk 9 3 [2] false (packet 0 4 5 0xFF 9).head) ∧ [2].erase 2 = [] ∧ linkEnd 0 3 = some (128, 1))
    ∧ (let s := ackS [2] 0; (coreOf s 0).te.find? (fun u => u.tid.toNat == hTid (packet 0 4 5 0xFF 9).head.toNat) = some (txn 5 0x72 1)
      ∧ (txn 5 0x72 1).remaining ≤ 1) := by decide +kernel
theorem witness_ReadsAreAnsweredAndMulticastsSpread_acks_roomy : roomySems (ackS [2] 0) := roomy_core _ _ rfl rfl
/-- Two contributions of a tree at router 0, which sends their sum out on port 2, or holds it for its own core. -/
def reduceS (outs : Nat) : State :=
  { on with routers := [(0, rtr [(0x848, treeWord 1 3 outs)]), (1, rtr [])],
            mesh := [hop 0 0 1 (packet 0 5 5 0xFF 9), hop 0 1 1 (packet 0 5 6 0xFF 9)] }
theorem witness_ReductionsCombineAndLinksResynchronise :
    (let s := reduceS 4; let v := mcEntry s 0 9
      bitOf v 31 = true ∧ bitOf v 30 = true ∧ reduceHeads s 0 9 (mcIn v) = s.mesh.map some ∧ (mcOut v).headD 0 = 2
      ∧ (∀ h ∈ s.mesh, hNbody (pHead h.pkt) = 1 ∧ h.vc = 1 ∧ h.pkt.poison = [] ∧ h.gone = 0 ∧ openHop s h.router 0 (hopBuf h) = none
        ∧ portStop s 0 h.port 2 1 (pHead h.pkt) = none)
      ∧ keysRise s.cores = true ∧ (∀ h ∈ reduceHere s 0 9, h.drop = false ∧ h.port ∈ mcIn v)) := by decide +kernel
theorem witness_ReductionsCombineAndLinksResynchronise_ways :
    (let s := reduceS 4; let h := hop 0 0 1 (packet 0 5 5 0xFF 9)
      s.mesh.head? = some h ∧ wins s h = true ∧ flitsOf h.pkt ≤ quota s h ∧ linkEnd 0 2 = some (1, 4))
    ∧ (let s := reduceS 1; let h := hop 0 0 1 (packet 0 5 5 0xFF 9); let sum := reducePacket s.mesh
      (mcOut (mcEntry s 0 9)).headD 0 = 0 ∧ wins s h = true ∧ flitsOf h.pkt ≤ quota s h
      ∧ destError (treeAddr 0 (pHead sum)) (extentOf (bodyGranules sum)) false = none
      ∧ (sweepGathered s 0 (hTree (pHead sum)) (sliceB sum.body 0 (8 * (bodyGranules sum).length)) false).isNone = true)
    ∧ linkEnd 0 2 = some (1, 4) ∧ linkEnd 1 4 = some (0, 2) ∧ (routerOf on 0).syncTimes = [] ∧ sbBad 0 = false := by decide +kernel
/-- The hub's core is core 0 of the small layout: a sum of its gather tree joins its sweep's sums. -/
theorem witness_ReductionsCombineAndLinksResynchronise_gather :
    let w := { run1 with gathered := [], waiting := [], tree := 8 }; let j := { job0 with sweeps := [w] }; let s := serving j
    (sweepGathered s 0 9 (zeros 64) false).isSome = true := by decide +kernel
/-- No buffer holds more than it can. -/
theorem witness_ReductionsCombineAndLinksResynchronise_rooms : ∀ r p b, flitsIn on r p b ≤ bufSize r b := by
  intro r p b; simp [flitsIn, on, State.reset]
theorem witness_ReductionsCombineAndLinksResynchronise_roomy : roomySems (reduceS 1) := roomy_cores _ rfl
/-- Two granules of 1.0 and 2.0 add up to 3.0 (R164). -/
theorem test_reduction_adds : reduceSum [leBytes 4 0x3F800000, leBytes 4 0x40000000] = leBytes 4 0x40400000 := by decide +kernel

/-! ## Control messages, register messages, interrupts -/

/-- A message from the Steward's control core (die 64, core 1) to core 0 of cluster 0 of die 0, of the given type, with ARG and words. -/
def msg (type : Nat) (toCc : Bool) (arg : Nat) (rest : List W32) : CtrlMsg :=
  { words := [msgHeader type 0 0 0 toCc (rest.length + 1) false false arg, msgSource 64 0 1 true 5] ++ rest }
def inFlight (m : CtrlMsg) : State := { on with ctrl := [m] }
theorem witness_ControlMessagesAndInterrupts :
    (let m := msg 1 false 31 [0xFFFE#32]; let s := { inFlight m with cores := [(0, { CoreState.reset with sem := [(31, 1)] })] }
      msgOk m = true ∧ msgDropped s m = false ∧ mType m = 1 ∧ mDie m < 64 ∧ mToCc m = false ∧ mBcast m = false
      ∧ semOf s 0 31 + msgWord m 2 % 65536 = 0xFFFF)
    ∧ (let m := msg 2 true 0 [0x123403FF#32]; let s := inFlight m
      msgOk m = true ∧ msgDropped s m = false ∧ mType m = 2 ∧ mDie m < 80 ∧ ccAt (mDie m) (mCluster m) (mCore m) = some 0 ∧ mToCc m = true)
    ∧ (let m := msg 3 false 8 [5#32, 0#32]; let s := { inFlight m with cores := [(0, { CoreState.reset with te := [txn 5 0x70 1] })] }
      msgOk m = true ∧ msgDropped s m = false ∧ mType m = 3 ∧ mDie m < 64
      ∧ mToCc m = false ∧ (coreOf s 0).te.find? (fun u => u.tid.toNat == msgWord m 2 % 65536) = some (txn 5 0x70 1))
    ∧ (let m := msg 3 true 8 [5#32, 0#32]
      msgOk m = true ∧ msgDropped (inFlight m) m = false ∧ mType m = 3 ∧ mToCc m = true ∧ ccAt (mDie m) (mCluster m) (mCore m) = some 0)
    ∧ (∀ t ∈ [6, 7], let m := msg t false 0 [0#32]; msgOk m = true ∧ msgDropped (inFlight m) m = false ∧ mType m = t)
    ∧ (let m := msg 9 false 0 [0#32]; msgOk m = true ∧ msgDropped (inFlight m) m = true) := by decide +kernel
/-- An interrupt controller: sources 5 and 9 of group 4 enabled, 9 pending, the group's batch begun. -/
def icu0 : Icu := { CcState.reset.icu with src := [(5, 0x42), (9, 0x43)], batch := [(4, 1)], ready := [4] }
theorem witness_ControlMessagesAndInterrupts_interrupts :
    groupPending icu0 4 ≠ [] ∧ getN 0 icu0.batch 4 ≠ 0 ∧ claimValue icu0 = some (4, 9) ∧ claimValue CcState.reset.icu = none
    ∧ bitOf 1 0 = true ∧ ¬ (1 ≤ (1023 : Fin 1024).val ∧ (1023 : Fin 1024).val ≤ 3) := by decide +kernel
/-- Source 9 joins at COUNT 0xFFFF, which stays (R474). -/
theorem test_doorbell : srcPending (ccOf (nextOf (exec (.icuDoorbell 0 (msg 2 true 0 [0x9#32])) (inFlight (msg 2 true 0 [0x9#32])))) 0).icu 9 = true := by
  decide +kernel

theorem witness_RegisterMessagesAct_read :
    (let m := msg 4 false 2 [0x38#32]; let i : RegInfo := (regInfo (.core 0) 0x38).getD (roReg false); let s := inFlight m
      msgSpace m = .inl (.core 0) ∧ regInfo (.core 0) (msgWord m 2) = some i ∧ msgOk m = true ∧ msgDropped s m = false ∧ mType m = 4
      ∧ bitOf (mArg m) 3 = false ∧ regIcu (.core 0) 0x38 = none)
    ∧ (let m := msg 4 true 3 [0x8200#32]; let s := { inFlight m with ccs := [(0, { ccUp with icu := icu0 }), (1025, ccUp)] }
      msgSpace m = .inl (.cluster 0) ∧ (regInfo (.cluster 0) (msgWord m 2)).isSome = true ∧ msgOk m = true ∧ msgDropped s m = false
      ∧ mType m = 4 ∧ bitOf (mArg m) 3 = false ∧ regIcu (.cluster 0) 0x8200 = some (0, 0x200)) := by decide +kernel
/-- A register write from the Steward's control core; one from the control core of cluster 0. -/
def wr (arg off v : Nat) : CtrlMsg := msg 5 false arg [BitVec.ofNat 32 off, BitVec.ofNat 32 v]
def wrOwn (arg off v : Nat) : CtrlMsg := { words := (wr arg off v).words.set 1 (msgSource 0 0 0 true 5) }
def infoOf (off : Nat) : RegInfo := (regInfo (.core 0) off).getD (roReg false)
/-- Bits that a message may set or clear in a register of core 0. -/
def maskOf (s : State) (m : CtrlMsg) (off : Nat) : Nat :=
  writable s (.core 0) off (requester m) (mUrgent m) (infoOf off) ||| clearable (.core 0) (requester m) (infoOf off)
/-- A message of a write of core 0's register at an offset, landing in a state; its kind (wide, read-only) and half. -/
def writesAt (s : State) (m : CtrlMsg) (off : Nat) (wide ro high : Bool) : Bool :=
  decide (msgSpace m = .inl (.core 0)) && decide (regInfo (.core 0) (msgWord m 2) = some (infoOf off)) && msgOk m && !msgDropped s m
    && mType m == 5 && bitOf (mArg m) 3 == high && (infoOf off).wide == wide && (infoOf off).readOnly == ro
theorem witness_RegisterMessagesAct_write :
    (let m := wrOwn 10 0x20 1; writesAt (inFlight m) m 0x20 false false true = true)
    ∧ (let m := wr 2 0x00 1; writesAt (inFlight m) m 0x00 (infoOf 0x00).wide true false = true)
    ∧ (let m := wr 2 0x38 1; writesAt (inFlight m) m 0x38 true false false = true ∧ maskOf (inFlight m) m 0x38 = 0)
    ∧ (let m := wrOwn 2 0x20 1; writesAt (inFlight m) m 0x20 false false false = true ∧ maskOf (inFlight m) m 0x20 ≠ 0) := by decide +kernel
theorem witness_RegisterMessagesAct_halves :
    (let m := wrOwn 2 0x38 1; writesAt (inFlight m) m 0x38 true false false = true ∧ maskOf (inFlight m) m 0x38 ≠ 0)
    ∧ (let m := wrOwn 10 0x38 1; let s := { inFlight m with lowHalf := [((halfKey m).1, (halfKey m).2, 0x38, 7)] }
      writesAt s m 0x38 true false true = true ∧ maskOf s m 0x38 ≠ 0
      ∧ s.lowHalf.find? (fun e => e.1 == (halfKey m).1 && e.2.1 == (halfKey m).2 && e.2.2.1 == 0x38)
          = some ((halfKey m).1, (halfKey m).2, 0x38, 7)) := by decide +kernel
theorem witness_RegisterMessagesAct_core :
    (coreOf (core { CoreState.reset with run := true }) 0).run = true ∧ (coreOf on 0).run = false ∧ bitOf (2 ^ 29) 31 = false
    ∧ bitOf (2 ^ 29) 30 = false ∧ betweenJobs on 0 = true ∧ betweenJobs (serving job0) 0 = false ∧ 2 ^ 64 - 1 < 2 ^ 64 := by decide +kernel

/-! ## Steps and the sampled checks -/

/-- The job with the run of a region. -/
def regioned (r : Nat) (x : RegionRun) : Job := { job0 with regions := [(r, x)] }
def seg7 : Segment := { slot := 7, start := 0, count := 1 }
def wave0 : RegionRun := { regionRunZero with decode := [seg7], stepNum := 3 }
theorem witness_RegionStepsAdvance :
    (let j := regioned 2 wave0; let s := serving j; let x := regionRun s 0 2
      jobOf s 0 = some j ∧ jobServes s 0 = true ∧ 2 < (jobRegions j).length ∧ x.busy = false ∧ (partOf s 0).epochs.missing = []
      ∧ (partOf s 0).epochs.st ≠ .swapping ∧ s.fin.held = none ∧ stewardUp s = true ∧ waveAt x = true ∧ kindAt j 2 = 2
      ∧ commitsOut s 0 2 = false) := by decide +kernel
theorem witness_RegionStepsAdvance_fill :
    (let s := { serving job0 with reqs := [(7, { req0 with placed := true })] };
      jobOf s 0 = some job0 ∧ jobServes s 0 = true ∧ stewardUp s = true ∧ waveAt (regionRun s 0 0) = false ∧ kindAt job0 0 = 0
      ∧ job0.kind = 1 ∧ s.stw.admissionStopped = false ∧ (fillWave s 0 job0).decode = [seg7]) := by decide +kernel
/-- A core with a tile still to compare: its outputs are one value, 1.0. -/
def tile : DupTile := { index := 5, word := 0, desc := 0, tokens := [0], old := [0#32], right := [0x3F800000#32], outs := [0x3F800000#32] }
theorem witness_RegionStepsAdvance_ends :
    (let j := regioned 0 { wave0 with busy := true }; let s := servingCore j { CoreState.reset with dupTile := some tile }
      jobServes s 0 = true ∧ (regionRun s 0 0).busy = true ∧ stepDone s 0 0 j = false)
    ∧ (let j := regioned 1 { wave0 with busy := true }; let s := serving j
      jobServes s 0 = true ∧ (regionRun s 0 1).busy = true ∧ stepDone s 0 1 j = true ∧ waveAt (regionRun s 0 1) = true ∧ kindAt j 1 ≠ 2
      ∧ lastRegion j 1 = false ∧ isBino s 0 = false ∧ (regionRun s 0 2).busy = false ∧ waveAt (regionRun s 0 2) = false) := by
  decide +kernel
/-- Rows of arrays: those of positions of core (0, 0) at byte 4096, those of sampling records in the vault. -/
def rowsAt (what : RowArray) : Job := {
  regioned 0 wave0 with
  file := some { file0 with body := { body0 with arrays := [{ region := 0, rx := 0, ry := 0, off := 4096, what := what, row := 0, prefill := false }] } } }
theorem witness_RegionStepsAdvance_arrays : ∀ what ∈ [RowArray.positions, .sampling], let j := rowsAt what; let s := serving j
    ∃ f a, j.file = some f ∧ f.body.arrays.filter (fun a => a.region == 0) = [a] ∧ (waveRow (regionRun s 0 0) a.prefill a.row).1 ≠ [] := by
  intro what h
  refine ⟨_, _, rfl, rfl, ?_⟩
  have : what = .positions ∨ what = .sampling := by simpa using h
  obtain rfl | rfl := this <;> decide +kernel
/-- Cluster 0 with these grants given. -/
def clustersOf (s : State) (g : List (Nat × GrantClass)) : State := { s with clusters := [(0, { clGrant with grants := g })] }
theorem witness_DuplicatesCompare : let j := regioned 0 { wave0 with busy := true }
    let s := clustersOf (servingCore j { CoreState.reset with dupTile := some tile }) [(4, 0)]
    jobOf s 0 = some j ∧ j.dups = [] ∧ regionOfCore s 0 0 j = some 0 ∧ j.running = true ∧ j.frozen = false ∧ j.restarting = false
    ∧ (regionRun s 0 0).busy = true ∧ (coreOf s 0).dupTile = some tile ∧ (0, 1) ∈ partnersOf s 0 j ∧ coreGranted s 1 0 = true
    ∧ tile.outs = faultOutputs [] 0 tile.right ∧ tile.outs ≠ faultOutputs [(0, 1#32)] 0 tile.right := by decide +kernel
/-- A core whose rail step is held. -/
def held : CoreState := { CoreState.reset with railSteps := 1, regs := [(0x360, 2 ^ 24)] }
theorem witness_MarginsAndShadowChecks :
    (let s := { on with cores := [(0, held), (1, held)] };
      (coreOf s 0).railSteps ≠ 0 ∧ (coreOf s 0).swallowSteps = 0 ∧ quiet s (coresOf (clusterOf 0)) = true
      ∧ ∃ d ∈ coresOf (clusterOf 0), d ≠ 0 ∧ (coreOf s d).railSteps ≠ 0)
    ∧ (let s := core held; (coreOf s 0).railSteps ≠ 0 ∧ ∀ d ∈ coresOf (clusterOf 0), d ≠ 0 → (coreOf s d).railSteps = 0)
    ∧ (let s := core { held with episodes := [0] }; quiet s (coresOf (clusterOf 0)) = false ∧ (coreOf s 0).swallowSteps = 0) := by
  decide +kernel
/-- A tile of one output sampled for the shadow check: 32 weights of 1.0, one token. -/
def shadow (narrow : W32) : ShdTile := { desc := BitVec.ofNat 256 mdesc, tensor := ones, tokens := [0], narrow := [narrow] }
def shadowS (narrow : W32) : State :=
  clustersOf (servingCore (regioned 0 { wave0 with busy := true })
    { put CoreState.reset 1024 4 0x3F800000 with shdTile := some (shadow narrow) }) [(0, 2)]
theorem witness_MarginsAndShadowChecks_shadow : let s := shadowS 0x3F800000
    corePart s 0 = some 0 ∧ (coreOf s 0).shdTile = some (shadow 0x3F800000) ∧ (regionRun s 0 0).busy = true ∧ 0 ∈ regionCores s 0 0
    ∧ coreGranted s 0 2 = true ∧ shadowOutputs s 0 (shadow 0x3F800000) 1024 16 = [0x3F800000#32] := by decide +kernel
theorem witness_MarginsAndShadowChecks_deviations : let s := shadowS 0x3F800000
    deviation s [0x3F800000#32] [0x3F800000#32] = some 0#32 ∧ toRat32 0#32 ≤ qualT s (regionRun s 0 0).qualM
    ∧ deviation s [0x40000000#32] [0x3F800000#32] = some 0x3F800000#32
    ∧ qualT s (regionRun s 0 0).qualM < toRat32 0x3F800000#32 := by decide +kernel

/-! ## Requests of the management agent -/

/-- An open session of a role on Wenlink port 0, and its next request, with a signature of the right length. -/
def sess (role : Fin 3) : Session :=
  { num := 1, role := role, fp := zeros 8, key := [], chal := [], path := .wenlink 0, source := 0, seq := 0, lastAt := 0, epoch := 0, serial := true }
def dreq : DapReq := { path := .wenlink 0, source := 0, txn := 3, session := 1, seq := 1, sig := zeros 7856 }
def agentOf (role : Fin 3) : Mgmt := { Mgmt.reset with sessions := [sess role] }
def agent (role : Fin 3) (s : State) : State := { s with mgmt := agentOf role }

theorem listens_of (s : State) (r : DapReq) (service : Nat) (body : Bytes) (h1 : s.fin.standby12 = true) (h2 : s.mgmt.quarPaths = [])
    (h3 : s.mgmt.times = []) : listens s r service body := by
  refine ⟨h1, by simp [h2], ?_⟩
  simp [countRequest, noteTime, updMgmt, taken, h3]
theorem sess_writes (se : Session) (s : State) (ix sub : Nat) (v : Bytes) (hm : s.mgmt = { Mgmt.reset with sessions := [se] })
    (hs : se.num = 1 ∧ se.path = .wenlink 0 ∧ se.source = 0 ∧ se.seq = 0) (h : s.fin.standby12 = true)
    (hr : (objAt ix sub).any (fun o => mayWrite o se.role.val) = true) : canWrite s dreq ix sub v se := by
  refine ⟨listens_of _ _ _ _ h (by rw [hm]; rfl) (by rw [hm]; rfl), List.length_replicate .., by
    simp [sessionFor, hm, hs.1, hs.2.1, hs.2.2.1, dreq], by rw [hs.2.2.2]; rfl, by rw [hm]; rfl, fun _ => by
    simp [auditCount, hm, Mgmt.reset], by rw [hm]; rfl, ?_⟩
  cases ho : objAt ix sub with
  | none => simp [ho] at hr
  | some o => exact ⟨o, rfl, by simpa [ho] using hr⟩
theorem agent_asks (role : Fin 3) (s : State) (service : Nat) (body : Bytes) (h : s.fin.standby12 = true) :
    asks (agent role s) dreq service body (sess role) :=
  ⟨listens_of _ _ _ _ h rfl rfl, by simp [sessionFor, agent, agentOf, sess, dreq], rfl⟩
theorem agent_writes (role : Fin 3) (s : State) (ix sub : Nat) (v : Bytes) (h : s.fin.standby12 = true)
    (hr : (objAt ix sub).any (fun o => mayWrite o role.val) = true) : canWrite (agent role s) dreq ix sub v (sess role) :=
  sess_writes (sess role) _ ix sub v rfl ⟨rfl, rfl, rfl, rfl⟩ h hr

theorem witness_ShareMovesByTwo :
    (let s := { serving job0 with objs := [(okey 0x5200 4, 1)] };
      obj s 0x5200 4 ≠ 0 ∧ stewardUp s = true ∧ keysRise s.parts = true ∧ servesPart s 0 = true ∧ servesPart s 1 = false) := by
  decide +kernel
theorem witness_ObjectsAndGrantedWritesAreRecorded_granted : canWrite (agent 1 on) dreq 0x4900 3 [1#8] (sess 1) := agent_writes _ _ _ _ _ rfl (by decide +kernel)

/-! ## Partitions and jobs -/

/-- PART_DEF of site 1; of sites 1 and 9; one that ends before it begins. -/
def pd1 : W64 := BitVec.ofNat 64 (2 ^ 63 + 0xFFFF * 65536 + 2 ^ 9 + 2 ^ 6)
def pd2 : W64 := BitVec.ofNat 64 (2 ^ 63 + 0xFFFF * 65536 + 2 ^ 9 + 2 ^ 6 + 1)
def pdBad : W64 := BitVec.ofNat 64 (2 ^ 63 + 2 ^ 9)
/-- Site 1 was last partition 1's. -/
def site1 : State := agent 1 { on with sites := [(0, site0), (1, { SiteState.reset with powered := true, lastPart := some 1 })] }
theorem witness_PartitionsFormAndClear :
    canWrite site1 dreq 0x5000 2 (leBytes 8 pd2.toNat) (sess 1) ∧ canWrite site1 dreq 0x5000 2 (leBytes 8 pdBad.toNat) (sess 1)
    ∧ canWrite (agent 1 (serving job0)) dreq 0x5000 1 (leBytes 8 0) (sess 1) :=
  ⟨agent_writes _ _ _ _ _ rfl (by decide +kernel), agent_writes _ _ _ _ _ rfl (by decide +kernel), agent_writes _ _ _ _ _ rfl (by decide +kernel)⟩
theorem witness_PartitionsFormAndClear_write :
    partDefOk site1 1 pdBad.toNat = false ∧ partDefOk (agent 1 (serving job0)) 0 0 = true ∧ jobOf (agent 1 (serving job0)) 0 ≠ none
    ∧ partDefOk site1 1 pd2.toNat = true ∧ partHeld site1 1 = false ∧ jobOf site1 1 = none ∧ partDef site1 1 = 0 ∧ pdValid pd2.toNat = true
    ∧ pdSites pd2.toNat = [1, 9] ∧ (siteSt site1 1).lastPart = some 1 ∧ (siteSt site1 9).lastPart ≠ some 1 := by decide +kernel
theorem witness_PartitionsFormAndClear_free : ∀ d ∈ pdSites pd2.toNat, ∀ q, sitePart site1 d ≠ some q := by
  intro d hd q
  have h : ∀ d ∈ pdSites pd2.toNat, sitePart site1 d = none := by decide +kernel
  simp [h d hd]
theorem witness_PartitionsFormAndClear_clear :
    (let s := { on with sites := [(63, { SiteState.reset with powered := true, joining := some (some 15) })] };
      (siteSt s 63).joining = some (some 15) ∧ (siteSt s 63).powered = true)
    ∧ (let s := { on with parts := [(15, { part0 with job := none, clearing := true, waitingJob := some job0 })] };
      (partOf s 15).clearing = true ∧ (partOf s 15).waitingJob = some job0) := by decide +kernel

/-- A layout file of the body above on one site: header, directory of nine sections, BUDGET. -/
def headerOk (decl : Nat) : Bytes :=
  leBytes 4 0x54594C44 ++ [1#8, 0, 2, 0, 1, 1, 3, 0, 9, 0, 0, 0] ++ zeros 8 ++ leBytes 4 decl ++ leBytes 4 0x10180100 ++ leBytes 4 0x44040085
    ++ leBytes 8 0x60000000 ++ leBytes 4 0x410 ++ zeros 16
def bytesOk (decl : Nat) : Bytes :=
  headerOk decl ++ ((List.range 9).flatMap (fun i => leBytes 4 (i + 1) ++ leBytes 4 (if i = 7 then 16 else 0) ++ leBytes 8 256)) ++ zeros 48
    ++ List.replicate 16 64#8
/-- The body above with no attention layer. -/
def bodyE : LayoutBody := { body0 with sweep := { sweepD with rings := [], records := [], reach := [] } }
def fileOk (decl : Nat) : LayoutFile := { bytes := bytesOk decl, body := bodyE }
/-- A start descriptor for partition 0, kind 1, with the digest of a layout file. -/
def jobDesc (digest : Bytes) : Bytes := leBytes 4 0x424F4A44 ++ [1#8, 0, 0, 0] ++ zeros 16 ++ leBytes 8 272 ++ digest
/-- Partition 0 without a job; with one that loads. -/
def idle : State := { on with parts := [(0, { part0 with job := none })] }
def loading (digest : Bytes) : State := serving { job0 with running := false, file := none, desc := jobDesc digest }
theorem witness_JobsStartAndEnd :
    canWrite (agent 0 idle) dreq 0x5100 1 (leBytes 8 0x1000) (sess 0) ∧ canWrite (agent 0 (serving job0)) dreq 0x5100 2 (leBytes 1 0) (sess 0) :=
  ⟨agent_writes _ _ _ _ _ rfl (by decide +kernel), agent_writes _ _ _ _ _ rfl (by decide +kernel)⟩
theorem witness_JobsStartAndEnd_start : let s := agent 0 idle; let d := jobDesc (zeros 32)
    hostWriteState s dreq = stOk ∧ carrier dreq = some 0 ∧ jobDescFault d = none ∧ windowOk s (jdPart d) 0 = true ∧ jobOf s (jdPart d) = none
    ∧ (partOf s (jdPart d)).waitingJob = none ∧ jobOf (agent 0 (serving job0)) 0 = some job0 ∧ stewardUp (agent 0 (serving job0)) = true
    ∧ job0.instar = none := by decide +kernel
theorem witness_JobsLoadOrAreRefusedAndLeaveNothing_length : (fileOk 0).bytes.length = leAt (jobDesc (zeros 32)) 0x18 8
    ∧ ([] : Bytes).length ≠ leAt (jobDesc (zeros 32)) 0x18 8 ∧ layoutFault (loading (zeros 32)) 0 { fileOk 0 with bytes := zeros 272 } false ≠ none := by
  decide +kernel
theorem witness_JobsLoadOrAreRefusedAndLeaveNothing :
    (let s := loading (zeros 32); ∃ j, jobOf s 0 = some j ∧ j.running = false ∧ layoutFault s 0 (fileOk 0x180000) false = none ∧ (bytesOk 0x180000).length = leAt j.desc 0x18 8
      ∧ sha256 (bytesOk 0x180000) ≠ jdDigest j.desc) := ⟨_, rfl, by decide +kernel⟩
theorem witness_JobsLoadOrAreRefusedAndLeaveNothing_reason : let f := fileOk 0; let s := loading (sha256 f.bytes)
    layoutFault s 0 f false = none ∧ sha256 f.bytes = jdDigest (jobDesc (sha256 f.bytes)) ∧ loadReason s 0 f = some 7 := by decide +kernel
theorem witness_JobsLoadOrAreRefusedAndLeaveNothing_runs : let f := fileOk 0x180000; let s := loading (sha256 f.bytes)
    layoutFault s 0 f false = none ∧ sha256 f.bytes = jdDigest (jobDesc (sha256 f.bytes)) ∧ loadReason s 0 f = none ∧ isBino s 0 = false := by
  decide +kernel

/-! ## Host commands -/

/-- An entry of a command queue: opcode, byte 1, VARIANT, the words 0x10 and 0x14, TEMP to PRES as SUBMIT gives them, and FLAGS. -/
def entryOf (opc b1 variant n m : Nat) (rest : Bytes) : Bytes :=
  leBytes 1 opc ++ leBytes 1 b1 ++ [0#8] ++ leBytes 1 variant ++ leBytes 4 9 ++ zeros 8 ++ leBytes 4 n ++ leBytes 4 m ++ zeros 24
    ++ leBytes 2 2 ++ leBytes 2 3 ++ rest
def submitTail (flags : Nat) : Bytes :=
  zeros 4 ++ leBytes 4 0x3F800000 ++ leBytes 4 0x3F800000 ++ zeros 4 ++ leBytes 2 1 ++ leBytes 2 flags ++ leBytes 4 0x3F800000 ++ zeros 52
/-- SUBMIT of request 9 with one prompt token and one new token. -/
def submitE (flags : Nat) : Bytes := entryOf 1 0 0xFF 1 1 (submitTail flags)
/-- The other commands that name request 9; a field that a command has no use for is zero. -/
def plainE (opc : Nat) : Bytes := leBytes 1 opc ++ zeros 3 ++ leBytes 4 9 ++ zeros 42 ++ leBytes 2 3 ++ zeros 76
def queue (kind : Byte) : WlQueue :=
  { kind := kind, part := 0, entries := 16, base := 0x10000, indexAddr := 0x8000, head := 5, tail := 6, seq := 0, ready := true }
/-- Port 0 up, with a command queue 1, a token queue 2 and a completion queue 3. -/
def port0 : WlState := { WlState.reset with st := 5, lanes := 0xFF, queues := [(1, queue 1), (2, queue 2), (3, queue 3)] }
def hosted (reqs : List (Nat × Request)) : State := { serving job0 with wl := [(0, port0)], reqs := reqs }
def req9 (flags : Nat) (st : ReqState) : Request := { newRequest (serving job0) 1 (submitE flags) with st := st, fetching := 0 }
def kept9 : Request := { req9 1 .paused with pause := some .keepStop }
theorem witness_HostCommandsOnRequests_submit :
    (let e := submitE 0; let s := hosted []; e.length = 128 ∧ cOpc e = 1 ∧ cmdDue s 1 5 = true ∧ logReady s (cPart e) 0 = true
      ∧ submitRefusal 1 e s = none)
    ∧ (let e := submitE 8; let s := hosted []; e.length = 128 ∧ cOpc e = 1 ∧ cmdDue s 1 5 = true ∧ submitRefusal 1 e s = some 0x10) := by
  decide +kernel
theorem witness_HostCommandsOnRequests_cancel : let e := plainE 2
    e.length = 128 ∧ cOpc e = 2 ∧ zeroBut e [(0, 1), (2, 1), (4, 4), (0x32, 2)] = true ∧ cPart e ≤ 15
    ∧ ∀ st ∈ [ReqState.done, .decode, .queued, .prefill], let r := req9 0 st; let s := hosted [(65535, r)]
        cmdDue s 1 5 = true ∧ logReady s (cPart e) 2 = true ∧ servesPart s (cPart e) = true ∧ findReq s (cPart e) (cReq e) = some (65535, r)
        ∧ reqOf s 65535 = some r ∧ reqFinal r = (st == .done) ∧ r.cancel = none ∧ prefilling s 65535 r = false := by decide +kernel
theorem witness_HostCommandsOnRequests_release : let e := plainE 5
    e.length = 128 ∧ cOpc e = 5 ∧ zeroBut e [(0, 1), (2, 1), (4, 4), (0x32, 2)] = true
    ∧ keepPaused kept9 = true ∧ keepPaused (req9 1 .paused) = false
    ∧ ∀ r ∈ [kept9, req9 1 .paused], let s := hosted [(0, r)]
        cmdDue s 1 5 = true ∧ logReady s (cPart e) 0 = true ∧ servesPart s (cPart e) = true ∧ findReq s (cPart e) (cReq e) = some (0, r)
        ∧ reqOf s 0 = some r := by decide +kernel
theorem witness_HostCommandsOnRequests_mask : let e := plainE 3; let r := req9 0 .decode; let s := hosted [(0, r)]
    e.length = 128 ∧ cOpc e = 3 ∧ cmdDue s 1 5 = true ∧ logReady s (cPart e) 24580 = true ∧ servesPart s (cPart e) = true
    ∧ findReq s (cPart e) (cReq e) = some (0, r) ∧ reqFinal r = false ∧ nextIndex r ≤ leAt e 8 4
    ∧ zeroBut e [(0, 1), (2, 1), (4, 4), (8, 4), (0x20, 8), (0x32, 2)] = true := by decide +kernel
theorem witness_HostCommandsOnRequests_bitmap : (zeros 24576).length = 24576 := List.length_replicate ..
theorem witness_HostCommandsOnRequests_continue :
    let e := leBytes 1 4 ++ zeros 3 ++ leBytes 4 9 ++ zeros 8 ++ leBytes 4 1 ++ leBytes 4 1 ++ zeros 26 ++ leBytes 2 3 ++ zeros 76
    let s := hosted [(0, kept9)]
    e.length = 128 ∧ cOpc e = 4 ∧ cmdDue s 1 5 = true ∧ logReady s (cPart e) 132 = true ∧ findReq s (cPart e) (cReq e) = some (0, kept9)
    ∧ (leBytes 4 77).length = 4 * leAt e 0x10 4 ∧ 1 ≤ leAt e 0x14 4 ∧ leAt e 0x14 4 ≤ 4194304 ∧ keepPaused kept9 = true
    ∧ lengthOk s (cPart e) (rLength kept9 + leAt e 0x10 4 + leAt e 0x14 4) = true
    ∧ zeroBut e [(0, 1), (2, 1), (4, 4), (0x10, 4), (0x14, 4), (0x18, 8), (0x32, 2)] = true := by decide +kernel
theorem witness_HostCommandsOnRequests_cancel_again : let r := { req9 0 .decode with cancel := some (1, 3) }; let s := hosted [(0, r)]
    findReq s 0 9 = some (0, r) ∧ reqOf s 0 = some r ∧ reqFinal r = false ∧ r.cancel.isSome = true ∧ logReady s 0 2 = true := by decide +kernel
theorem witness_HostCommandsOnRequests_cancel_held : let r := req9 0 .queued; let s := updFin (hosted [(0, r)]) (fun f => { f with held := some 1 })
    s.fin.held.isSome = true ∧ cmdDue s 1 5 = true ∧ findReq s 0 9 = some (0, r) ∧ r.cancel = none := by decide +kernel

/-! ## Batches, replays, progress of requests -/

def inst0 : Instar :=
  { desc := zeros 128, baseDigest := [], step := 0, nextBatch := 9, waiting := [], targets := 0, tensors := [], ckpts := 0, lastCkpt := none,
    ckptBatch := 0, saved := [], exported := false, exportDue := false }
def batch0 (last : Bool) : InstarBatch := { number := 8, last := last, targets := 1, cq := 3, tokens := zeros 8, segs := leBytes 8 (2 * 2 ^ 32), loss := [2#8] }
def training (i : Instar) : Job := { job0 with kind := 2, instar := some i }
/-- Port 0 as above, and a job in a partition. -/
def hostedJob (j : Job) (reqs : List (Nat × Request)) : State := { serving j with wl := [(0, port0)], reqs := reqs }
/-- BATCH 9 of two tokens in one segment. -/
def batchE : Bytes :=
  [0x10#8, 1, 0, 0] ++ leBytes 4 9 ++ zeros 8 ++ leBytes 4 2 ++ leBytes 2 1 ++ zeros 26 ++ zeros 2 ++ leBytes 2 3 ++ zeros 76
theorem witness_BatchesAndReplaysEnter_batch : let e := batchE; let tk := zeros 8; let sg := leBytes 8 (2 * 2 ^ 32)
    e.length = 128 ∧ cOpc e = 0x10 ∧ tk.length = 4 * leAt e 0x10 4 ∧ sg.length = 8 * leAt e 0x14 2 ∧ leAt e 0x20 8 = 0
    ∧ (let i := { inst0 with waiting := [batch0 false, batch0 false] }; let s := hostedJob (training i) [];
      instarOf s (cPart e) = some i ∧ cmdDue s 1 5 = true ∧ logReady s (cPart e) 145 = true ∧ batchRefusal e (some tk) (some sg) none s = none
      ∧ 2 ≤ i.waiting.length)
    ∧ (let i := { inst0 with waiting := [batch0 false] }; let s := hostedJob (training i) [];
      instarOf s (cPart e) = some i ∧ cmdDue s 1 5 = true ∧ batchRefusal e (some tk) (some sg) none s = none ∧ i.waiting.length < 2) := by
  decide +kernel
/-- A REPLAY entry of an 800 B record, and an ADMIT record of request 9, with RESUME or without. -/
def replayE : Bytes := [0x20#8, 0, 0, 0] ++ zeros 12 ++ leBytes 4 800 ++ zeros 30 ++ leBytes 2 3 ++ zeros 76
def admRec (resume : Byte) : Bytes :=
  [2#8, resume, 0, 0] ++ leBytes 4 744 ++ zeros 24 ++ submitE 0 ++ zeros 32 ++ leBytes 4 2 ++ leBytes 4 77 ++ emptyStop ++ zeros 24
theorem witness_BatchesAndReplaysEnter_replay : let e := replayE; let s := hosted []
    e.length = 128 ∧ cOpc e = 0x20 ∧ cmdDue s 1 5 = true ∧ logReady s (cPart e) 0 = true ∧ lgResume (admRec 0) = false ∧ lgType (admRec 0) = 2
    ∧ replayRefusal 1 e (some (admRec 0)) s = none := by decide +kernel
/-- A delivered token record 0 whose PLATE_FRAG is right for a chain. -/
def tokenRec (chain : Bytes) : Bytes :=
  let b := zeros 4 ++ zeros 4 ++ leBytes 4 77 ++ zeros 4
  b ++ sliceB (foldChain chain 0x10 b) 0 4 ++ zeros 12
theorem witness_BatchesAndReplaysEnter_resume : let e := replayE; let s := hosted []; let b := admRec 1
    e.length = 128 ∧ cOpc e = 0x20 ∧ cmdDue s 1 5 = true ∧ logReady s (cPart e) (lgLen b) = true ∧ lgResume b = true
    ∧ replayRefusal 1 e (some b) s = none ∧ (zeros 32).length = 32 := by decide +kernel
theorem witness_BatchesAndReplaysEnter_refold (chain : Bytes) :
    refold [] 0 chain = .inl chain ∧ bitsOf (leAt (([] : List Bytes).getLast?.getD []) 8 4) 20 18 = 0
    ∧ refold [leBytes 8 (2 ^ 32) ++ zeros 24] 0 chain = .inr 0 := by
  refine ⟨rfl, by decide, ?_⟩
  have h : leAt (leBytes 8 (2 ^ 32) ++ zeros 24) 4 4 ≠ 0 := by decide +kernel
  simp only [refold]
  split
  · rename_i x; simp only [Bool.and_eq_true, decide_eq_true_eq] at x; exact absurd x.2 h
  · rfl
theorem test_refold_accepts : refold [tokenRec (zeros 32)] 0 (zeros 32) = .inl (foldChain (zeros 32) 0x10 ((tokenRec (zeros 32)).take 16)) := by
  decide +kernel

theorem witness_RequestsProgress_admission : let r := { req9 0 .queued with specD := 1 }; let s := hosted [(0, r)]
    servesPart s 0 = true ∧ jobServes s 0 = true ∧ s.stw.admissionStopped = false ∧ inRun s = true ∧ stewardUp s = true
    ∧ (let s' := [0].foldl bindLate s; partReqs s 0 = [0] ∧ (queuedOf s' 0 0).head? = some (0, r) ∧ r.inputs = []
      ∧ logReady s' 0 (admitPayload s' r).length = true ∧ (placeRequest s' 0 0 r r.reserved).isSome = true)
    ∧ (let s := hosted []; servesPart s 0 = true ∧ queuedOf s 0 0 = [] ∧ queuedOf s 0 1 = [] ∧ partReqs s 0 = []) := by decide +kernel
theorem witness_RequestsProgress_token : let r := { req9 0 .decode with ring := [zeros 32] }; let s := hosted [(65535, r)]
    reqOf s 65535 = some r ∧ queueRoom s (rTq r) 2 1 = true ∧ queueAt s (rTq r) = some (queue 2) := by decide +kernel
theorem witness_RequestsProgress_park : let r := { req9 0 .paused with placed := true, cached := 1, pause := some .keepStop }
    reqOf (hosted [(7, r)]) 7 = some r ∧ jobOf (hosted [(7, r)]) r.part = some job0 ∧ sweepDesc job0 = some sweepD ∧ r.parked = none
    ∧ r.cached ≠ 0 ∧ r.pause ≠ some .diapause
    ∧ (let s := { hosted [(7, r)] with wl := [(0, { port0 with area := some (0x100000, 0x100000) })] };
      portUp s 0 = true ∧ (parkPlace (wlOf s 0).images 0x100000 (cocoonBytes sweepD 1)).isSome = true)
    ∧ (wlOf (hosted [(7, r)]) (portOf (rTq r))).area = none := by decide +kernel
theorem witness_RequestsProgress_import : let r := { req9 0 .resuming with placed := true, reserved := 32, stop := stopFields emptyStop 1 32 1 };
    let s := hosted [(7, r)]
    reqOf s 7 = some r ∧ jobOf s r.part = some job0 ∧ sweepDesc job0 = some sweepD ∧ jobServes s r.part = true ∧ leAt r.stop 0x2C 4 = r.reserved := by
  decide +kernel
/-- A parked request whose image holds no entry. -/
def parked9 : Request := { req9 0 .resuming with reserved := 32, stop := stopFields emptyStop 1 32 1, parked := some 160 }
def image0 : Bytes := let b := cocoonImage (hosted []) 0 job0 sweepD 7 { parked9 with cached := 0 }; b
theorem witness_RequestsProgress_image : let s := { hosted [(7, parked9)] with wl := [(0, { port0 with images := [(7, 0, 160)] })] };
    reqOf s 7 = some parked9 ∧ parked9.placed = false ∧ (placeRequest s 0 7 parked9 (leAt parked9.stop 0x2C 4)).isSome = true
    ∧ parked9.parked.isSome = true ∧ imageHeld s 7 = true ∧ cocoonFault job0 sweepD parked9 image0 = none := by decide +kernel
theorem witness_RequestsProgress_ttl :
    (let s := hosted [(7, kept9)]; reqOf s 7 = some kept9 ∧ kept9.st = .paused ∧ kept9.pause ≠ some .diapause ∧ logReady s kept9.part 2 = true)
    ∧ (let r := req9 0 .decode; reqOf (hosted [(7, r)]) 7 = some r ∧ reqFinal r = false ∧ r.st ≠ .queued ∧ r.parked = none) := by
  decide +kernel

/-! ## Drafts, Moults, shards -/

/-- Two shards of one layout, without stripes, and a job that has them, with a digest of zeros. -/
def shard (i : Nat) : ShardPlace :=
  { index := i, rx := 0, ry := 0, cluster := 0, off0 := 4096 * i, off1 := 65536 + 4096 * i, space := 64, tensors := [] }
def fileS : LayoutFile := { fileOk 0x180000 with body := { body0 with shards := [shard 0, shard 1], banks := 2 } }
def jobS : Job := { job0 with file := some fileS, digest := zeros 32 }
def draftDesc (sum : Bytes) : Bytes := leBytes 4 0x54465244 ++ [0#8, 1, 0, 0] ++ zeros 8 ++ leBytes 8 272 ++ zeros 8 ++ sum ++ zeros 64
def draft0 : Draft := { dist := false, digest := zeros 32, file := fileS, detour := 0, leaving := false }
theorem witness_DraftsAndCycles :
    canWrite (agent 0 (serving jobS)) dreq 0x5110 1 (leBytes 8 0x1000) (sess 0) ∧ canWrite (agent 0 (serving jobS)) dreq 0x5110 2 (leBytes 1 0) (sess 0) :=
  ⟨agent_writes _ _ _ _ _ rfl (by decide +kernel), agent_writes _ _ _ _ _ rfl (by decide +kernel)⟩
theorem witness_DraftsAndCycles_load : let f := fileOk 0x180000; let d := draftDesc (sha256 f.bytes); let s := agent 0 (serving jobS);
    hostWriteState s dreq = stOk ∧ carrier dreq = some 0 ∧ draftDescFault d = none ∧ windowOk s 0 0 = true ∧ servesPart s 0 = true
    ∧ draftOf s 0 = none ∧ layoutDigest s 0 = sliceB d 0x40 32 ∧ (jobOf s 0).bind (fun j => j.file) = some fileS ∧ layoutFault s 0 f false = none
    ∧ f.bytes.length = leAt d 0x10 8
    ∧ sha256 f.bytes = sliceB d 0x20 32 ∧ loadReason s 0 f = none ∧ draftFits fileS jobS.detour f ((choosePlacement s 0 f).getD 0) = true
    ∧ draftOf (agent 0 (serving { jobS with draft := some draft0 })) 0 = some draft0 := by decide +kernel
/-- Kept lists of one token each: the draft keeps a, the main model b. -/
def draw (a b : BitVec 18) : SpecDraw := { draft := [(0x3F800000, a)], main := [(0x3F800000, b)] }
def specReq : Request := { req9 4 .decode with maxNew := 8, stop := stopFields emptyStop 8 64 1, placed := true, specD := 2 }
theorem witness_DraftsAndCycles_cycle : let j := { job0 with draft := some draft0 };
    (let s := hostedJob j [(7, specReq)]; reqOf s 7 = some specReq ∧ jobOf s specReq.part = some j ∧ maySpeculate s specReq = true
      ∧ draftOf s specReq.part = some draft0 ∧ specReq.specOff = false
      ∧ [draw 5 5, draw 6 7, draw 0 0].length = min specReq.specD (draftCap s specReq) + 1)
    ∧ (let r := { specReq with specOff := true, specWait := 256 }; let s := hostedJob j [(7, r)]
      reqOf s 7 = some r ∧ maySpeculate s r = true ∧ 256 ≤ r.specWait ∧ [draw 5 5, draw 6 7, draw 0 0].length = min 2 (draftCap s r) + 1) := by
  decide +kernel
/-- A cycle whose wavefront has left the head region, with two proposals, and a MASK from token 3 on or none. -/
def cycle (probe verified : Bool) (limit : Option Nat) : SpecRun :=
  { probe := probe, props := [(some 5, []), (some 6, [])], limit := limit, verified := verified }
theorem witness_DraftsAndCycles_verified :
    ∀ x ∈ [cycle false true none, cycle true true (some 3), cycle false false none, cycle true false none],
      let r := { specReq with cycle := some x }; let s := hostedJob { job0 with draft := some draft0 } [(7, r)]
      reqOf s 7 = some r ∧ r.cycle = some x ∧ [draw 5 5, draw 6 7, draw 0 0].length = x.props.length + 1 := by decide +kernel
/-- Such a cycle asks for as many draws as proposals and one more. -/
theorem witness_IllFormedTermsFault_cycle : let s := hostedJob { job0 with draft := some draft0 } [(7, { specReq with cycle := some (cycle false true none) })]
    faultOf (exec (.specCycle 7 []) s) = "SPEC_CYCLE" := by decide +kernel
/-- The first proposal is accepted, the second is not, and no third token is committed (R304). -/
theorem test_spec_accepts :
    (exactTokens specReq 7 0 0 [(some 5, []), (some 6, [])] [draw 5 5, draw 6 7, draw 0 0]).1.map (fun e => e.1) = [5, 7] := by
  decide +kernel

/-- MOULT descriptor of partition 0: mode, chain, epoch digest; a manifest of one shard for layouts of digest zero. -/
def moultDesc (mode chain : Byte) (epoch : Bytes) : Bytes := leBytes 4 0x544C4F4D ++ [0#8, mode, chain, 0] ++ zeros 8 ++ leBytes 8 8032 ++ zeros 8 ++ epoch ++ zeros 64
def manHead (fp : Bytes) : Bytes :=
  leBytes 4 0x53464E4D ++ [1#8, 0, 0, 0xFF] ++ leBytes 4 1 ++ zeros 4 ++ zeros 96 ++ fp ++ zeros 8 ++ zeros 8 ++ leBytes 8 64 ++ zeros 32
def manifest (fp : Bytes) : Bytes := manHead fp ++ zeros 7856
def epochs (e : Epochs) : State := agent 0 { on with parts := [(0, { part0 with job := some jobS, epochs := e })] }
theorem witness_MoultsBeginAndEnd :
    canWrite (agent 0 (serving jobS)) dreq 0x5300 1 (leBytes 8 0x1000) (sess 0) ∧ canWrite (agent 0 (serving jobS)) dreq 0x5300 2 (leBytes 1 0) (sess 0) :=
  ⟨agent_writes _ _ _ _ _ rfl (by decide +kernel), agent_writes _ _ _ _ _ rfl (by decide +kernel)⟩
theorem witness_MoultsBeginAndEnd_start : let s := agent 0 (serving jobS)
    hostWriteState s dreq = stOk ∧ carrier dreq = some 0 ∧ windowOk s 0 0 = true ∧ servingJob s 0 = true ∧ (partOf s 0).epochs.moult = none
    ∧ (partOf s 0).epochs.retiring = none ∧ s.stw.chainMan = none
    ∧ (let d := moultDesc 0 1 (zeros 32); moultDescOk d = true ∧ mdChain d = true)
    ∧ (let d := moultDesc 0 0 (zeros 32); moultDescOk d = true ∧ mdChain d = false ∧ manifestForm (manifest (zeros 8)) = true
      ∧ (manifest (zeros 8)).length = leAt d 0x10 8
      ∧ manifestReason s 0 (parseManifest (manifest (zeros 8))) (manifestAuth s (manifest (zeros 8))) false (mdEpoch d) = some 4) := by
  decide +kernel
/-- A manifest that its publisher's signature lets pass has no reason against it: the free verification decides. -/
theorem witness_MoultsBeginAndEnd_begins : let b := manifest (zeros 8); let s := agent 0 (serving jobS)
    manifestReason s 0 (parseManifest b) none false (parseManifest b).digest = none := by decide +kernel
def moult0 (mode : Fin 3) : Moult := { mode := mode, chain := false, drain := false, man := man0, started := 0, passed := [0], landed := [] }
theorem witness_MoultsBeginAndEnd_ends :
    (let s := epochs { Epochs.reset with moult := some (moult0 0) }; (partOf s 0).epochs.moult = some (moult0 0)
      ∧ (partOf s 0).epochs.st ≠ .swapping ∧ stewardUp s = true)
    ∧ (let s := epochs { Epochs.reset with moult := some (moult0 1), st := .swapping }; (partOf s 0).epochs.moult = some (moult0 1)
      ∧ (partOf s 0).epochs.st = .swapping)
    ∧ (let s := epochs { Epochs.reset with moult := some (moult0 1), committed := some man0 };
      (partOf s 0).epochs.moult = some (moult0 1) ∧ (moult0 1).mode = 1 ∧ (partOf s 0).epochs.st ≠ .swapping
      ∧ (partOf s 0).epochs.committed = some man0 ∧ s.reqs = []
      ∧ (let t := { s with reqs := [(3, req9 0 .decode)] }; ∃ e ∈ t.reqs, e.2.part = 0 ∧ e.2.epoch = man0.digest ∧ e.2.st = .decode)) := by
  decide +kernel
theorem witness_ShardsLandAndAreScrubbed_manifest :
    (chainMember on = false ∧ chainFenced on = false)
    ∧ (let s := setObj on 0x5310 1 1; chainMember s = true ∧ chainFenced s = false ∧ s.parts = [] ∧ manifestForm [] = false
      ∧ manifestForm (manifest (zeros 8)) = true ∧ manifestAuth s (manifest (zeros 8)) ≠ none) := by decide +kernel
theorem witness_ShardsLandAndAreScrubbed_arrive : let img := zeros 8
    let m := { moult0 0 with man := { man0 with shards := [(0, 8, sha256 img), (1, 8, sha256 img)] }, passed := [] }
    let s := epochs { Epochs.reset with moult := some m, committed := some man0, incBank := 1 };
    chainMember s = false ∧ (partOf s 0).epochs.moult = some m ∧ m.man.digest = zeros 32 ∧ m.mode ≠ 1 ∧ 1 ∉ m.passed
    ∧ m.man.shards.find? (fun x => x.1 == 1) = some (1, 8, sha256 img) ∧ shardPlace s 0 1 = some (shard 1)
    ∧ shardFault (digestMode s) (shard 1) 8 (sha256 img) (zeros 9) = some (if digestMode s then (1, 0) else (4, 0))
    ∧ shardFault (digestMode s) (shard 1) 8 (sha256 img) img = none ∧ copiesOf s 0 1 = [] ∧ (∃ x ∈ m.man.shards, x.1 ≠ 1 ∧ x.1 ∉ m.passed) := by decide +kernel
theorem witness_ShardsLandAndAreScrubbed_scrub :
    digestMode (setObj on 0x5300 3 0) = false ∧ (siteSt on 1).powered = false
    ∧ (let s := { setObj (serving jobS) 0x5300 3 1 with
          clusters := [(0, { ClusterState.reset with shards := [(zeros 32, 0, 0, 8, sha256 (zeros 8), 0), (zeros 32, 1, 0, 8, zeros 32, 0)] })] };
      digestMode s = true ∧ (siteSt s 0).powered = true ∧ (clOf s 0).selfRetain = false ∧ (clOf s 0).clocksOff = false
      ∧ sitePart s 0 = some 0
      ∧ (clOf s 0).shards.map (shardWhole s 0) = [true, false]) := by decide +kernel
theorem witness_ShardsLandAndAreScrubbed_fence :
    canWrite (agent 1 on) dreq 0x5310 8 (leBytes 1 1) (sess 1) ∧ canWrite (agent 1 on) dreq 0x5310 8 (leBytes 1 0) (sess 1) :=
  ⟨agent_writes _ _ _ _ _ rfl (by decide +kernel), agent_writes _ _ _ _ _ rfl (by decide +kernel)⟩

/-! ## Instar, failures, pairs, fences -/

theorem witness_InstarSteps_batch : ∀ last : Bool, let i := { inst0 with waiting := [batch0 last] }; let j := training i; let s := serving j
    jobOf s 0 = some j ∧ j.instar = some i ∧ i.waiting = [batch0 last] ∧ j.running = true ∧ j.restarting = false ∧ holdsCompute s = false
    ∧ ckptDue s i = false ∧ i.exportDue = false := by decide +kernel
theorem witness_InstarSteps_checkpoint :
    (let i := { inst0 with step := 1000, desc := zeros 24 ++ leBytes 4 2000 ++ zeros 92 ++ leBytes 8 4096 }; let j := training i; let s := hostedJob j [];
      jobOf s 0 = some j ∧ ckptDue (setObj s 0x5120 2 1000) i = true ∧ portUp s j.port = true ∧ i.step ≠ idSteps i.desc
      ∧ (ckptImage (idVariant i.desc) i.step 0 (idDigest i.desc) i.tensors).length ≤ leAt i.desc 0x78 8)
    ∧ (let i := { inst0 with step := 7, desc := zeros 24 ++ leBytes 4 7 ++ zeros 92 ++ leBytes 8 4096 }; let j := training i; let s := hostedJob j [];
      ckptDue s i = true ∧ portUp s j.port = true ∧ i.step = idSteps i.desc
      ∧ (ckptImage (idVariant i.desc) i.step 0 (idDigest i.desc) i.tensors).length ≤ leAt i.desc 0x78 8) := by decide +kernel
theorem witness_InstarSteps_export : (∀ i, canWrite (agent 0 (serving (training i))) dreq 0x5120 1 (leBytes 1 0) (sess 0))
    ∧ ∀ n : Fin 2, let i := { inst0 with targets := n }; let s := agent 0 (serving (training i)); instarOf s 0 = some i ∧ stewardUp s = true :=
  ⟨fun _ => agent_writes _ _ _ _ _ rfl (by decide +kernel), by decide +kernel⟩

/-- One command stream at the core of region 0, and a failure in that region. -/
def stream0 : StreamImage := { rx := 0, ry := 0, base := 0, bytes := [], first := 4, replaySet := [(31, 7)] }
def jobF : Job :=
  { regioned 0 { wave0 with busy := true, replays := 0 } with file := some { fileOk 0x180000 with body := { body0 with streams := [stream0] } } }
def fault0 (code : BitVec 16) : FaultReport :=
  { code := code, unit := 0, region := 0, trapped := [3], heldInput := false, granule := none }
theorem witness_FailuresAreAnswered_replay : let s := serving jobF
    jobOf s 0 = some jobF ∧ jobF.running = true ∧ jobF.frozen = false ∧ jobF.restarting = false ∧ (regionRun s 0 0).busy = true
    ∧ (fault0 0x3020).code = 0x3020 ∧ (fault0 0x4010).granule = none ∧ (regionRun s 0 0).replays < obj s 0x4400 2 ∧ 0 < jobF.regions.length
    ∧ (∃ l, jobF.file = some l ∧ placeStreams l jobF.detour = [stream0]) ∧ relCore s 0 (0, 0) ∈ regionCores s 0 0 :=
  ⟨rfl, rfl, rfl, rfl, by decide +kernel, by decide, rfl, by decide +kernel, by decide, ⟨_, rfl, by decide +kernel⟩, by decide +kernel⟩
theorem witness_FailuresAreAnswered_watchdog :
    ∀ n : Fin 2, let j := regioned 0 { wave0 with busy := true, trips := n }; let s := { serving j with clusters := [(0, clGrant)] }
      jobOf s 0 = some j ∧ j.running = true ∧ j.frozen = false ∧ j.restarting = false ∧ (regionRun s 0 0).busy = true ∧ holdsCompute s = false
      ∧ s.fin.sagWarn = false ∧ (∀ c ∈ regionCores s 0 0, inForce s (clusterOf c) ≠ 0) ∧ (regionRun s 0 1).busy = false := by decide +kernel
theorem witness_FailuresAreAnswered_restart :
    (let s := serving job0; jobOf s 0 = some job0 ∧ job0.file = some file0 ∧ job0.running = true ∧ job0.frozen = false ∧ job0.restarting = false
      ∧ isBino s 0 = false ∧ job0.instar = none ∧ job0.diaPaused = false ∧ job0.waitHold = false
      ∧ (recent s 3600 job0.restarts).length + 1 ≤ obj s 0x4400 5 ∧ choosePlacement s 0 file0 = some 0 ∧ holdsCompute s = false
      ∧ 0 ∉ s.fin.recoverDue)
    ∧ (let j := { job0 with restarting := true }; let s := { serving j with fin := { fin0 with stop := true } };
      jobOf s 0 = some j ∧ j.file = some file0 ∧ j.restarting = true ∧ holdsCompute s = true) := by decide +kernel

/-- The pair of R386 set up over the Heliostat port of site 0, which is UP. -/
def paired (j : Job) : State :=
  let s := { serving j with sites := [(0, { site0 with hl := { HlState.reset with st := 5 } })] }
  setObj (setObj s 0x4500 2 0) 0x4500 1 0
def peerHello (j : Job) : Bytes := let own := binoHelloBytes (paired j) 0 j; own.take 6 ++ [0#8, 0] ++ own.drop 8
def unstarted : Job := { job0 with started := false }
/-- Sub-Plates: this module's last of region 2 at step 3, the head's. -/
def subbed : Job := { job0 with subOwn := [(3, 2, zeros 32)] }
def subp (region step : Nat) (sum : Bytes) : Bytes := leBytes 4 0x50425553 ++ leBytes 4 region ++ leBytes 8 step ++ sum ++ zeros 16
theorem witness_PairsCompareAndFreeze :
    (let s := paired unstarted; jobOf s 0 = some unstarted ∧ isBino s 0 = true ∧ unstarted.running = true ∧ unstarted.started = false
      ∧ binoHelloOk s 0 unstarted (peerHello unstarted) = true ∧ (hlOf s (obj s 0x4500 1)).st = 5 ∧ binoHelloOk s 0 unstarted [] = false)
    ∧ (let s := paired subbed; jobOf s 0 = some subbed ∧ isBino s 0 = true ∧ subbed.running = true ∧ subbed.frozen = false
      ∧ (∀ e ∈ [(0xFFFFFFFF, 0), (2, 3), (0, 0)], let m := subp e.1 e.2 (zeros 32); m.length = 64 ∧ leAt m 0 4 = 0x50425553 ∧ leAt m 0x30 16 = 0
          ∧ leAt m 4 4 = e.1 ∧ leAt m 8 8 = e.2 ∧ sliceB m 0x10 32 = zeros 32)
      ∧ (let f := fun (e : W64 × Nat × Bytes) => e.1 == 0#64 && e.2.1 == 0; subbed.subOwn.find? f = none)
      ∧ (let f := fun (e : W64 × Nat × Bytes) => e.1 == 3#64 && e.2.1 == 2; subbed.subPeer.find? f = none
          ∧ subbed.subOwn.find? f = some (3, 2, zeros 32) ∧ headOf subbed = some 2
          ∧ sliceB (subp 2 3 (1#8 :: zeros 31)) 0x10 32 ≠ zeros 32)
      ∧ subbed.subOwn ≠ [])
    ∧ (let s := paired job0; isBino s 0 = true ∧ job0.subOwn = []) := by decide +kernel

theorem witness_FencesAndRecords :
    (coreFenced on 16383 = false ∧ clusterFenced on (clusterOf 16383) = false ∧ siteFenced on (siteOf 16383) = false ∧ on.stw.fences.length < 256)
    ∧ (let u : W32 := BitVec.ofNat 32 (coreUnit 0 0 0); let s := agent 1 { on with stw := { on.stw with fences := [{ unit := u, cause := 0, time := 0 }] } };
      fenced s u.toNat = true ∧ clusterFenced s 0 = false ∧ stewardUp s = true)
    ∧ (let s := { on with fin := { fin0 with testsDue := [0] } }; 0 ∈ s.fin.testsDue ∧ 1 ∉ s.fin.testsDue ∧ coreFenced s 0 = false
      ∧ clusterFenced s (clusterOf 0) = false ∧ siteFenced s (siteOf 0) = false ∧ s.stw.fences.length < 256) := by decide +kernel
theorem witness_FencesAndRecords_unfence : canWrite (agent 1 on) dreq 0x4400 6 (leBytes 4 (coreUnit 0 0 0)) (sess 1) :=
  agent_writes _ _ _ _ _ rfl (by decide +kernel)
theorem witness_FencesAndRecords_patrol :
    (siteSt on 0).powered = true ∧ (clOf on 0).selfRetain = false ∧ (clOf on 0).clocksOff = false ∧ (siteSt on 63).powered = false
    ∧ (∃ g ∈ [Config.vaultCap / 8 - 1], 8 * g < Config.vaultCap) := by decide +kernel
def evt (code : BitVec 16) (sev : Fin 4) : EventRec :=
  { code := code, sev := sev, opc := none, unit := 0, time := 0, reporter := 0, job := none, req := none, temp := none, vcore := none, detail := zeros 16 }
theorem witness_FencesAndRecords_records :
    (let s := { on with events := [evt 0x6030 0] }; stewardUp s = true
      ∧ s.stw.secCounts.find? (fun x => x.1 == stewardSecond s && x.2.1 == 0x6030) = none ∧ 0 < obj s 0x4400 7)
    ∧ (let s := { on with events := [evt 0x6030 0], stw := { on.stw with secCounts := [(stewardSecond on, 0x6030, obj on 0x4400 7)] } };
      stewardUp s = true ∧ s.stw.secCounts.find? (fun x => x.1 == stewardSecond s && x.2.1 == 0x6030)
        = some (stewardSecond s, 0x6030, obj s 0x4400 7) ∧ (evt 0x6030 0).sev ≠ 3 ∧ (evt 0x6030 3).sev = 3) := by decide +kernel

/-! ## Power -/

def onF (f : Finder → Finder) : State := { on with fin := f fin0 }
theorem witness_MainInputEvents :
    on.fin.standby12 = true ∧ on.fin.reen = none ∧ on.fin.sagWarn = false ∧ obj on 0x4700 3 ≤ obj on 0x4700 3 ∧ obj on 0x4700 3 - 1 < obj on 0x4700 3
    ∧ (onF (fun f => { f with sagWarn := true })).fin.sagWarn = true ∧ isFinite32 0x43000000 = true ∧ isFinite32 0x7F800000 = false
    ∧ on.fin.held = none ∧ on.fin.ready = true ∧ obj on 0x4700 4 - 1 < obj on 0x4700 4 ∧ 59000 < 59001
    ∧ (onF (fun f => { f with held := some (2, 0x3042) })).fin.held = some (2, 0x3042)
    ∧ (onF (fun f => { f with held := some (1, 0x1011) })).fin.held = some (1, 0x1011) := by decide +kernel
/-- A cluster with a requested budget of 64 is divided to. -/
theorem witness_MainInputEvents_divided :
    let s := { on with clusters := [(0, { ClusterState.reset with regs := [(0x18, 64)] })] }; 0 ∈ divided s := by decide +kernel

/-- The Meridian of site 0 is locked, and site 0 is fenced. -/
def locked0 : SiteState := { site0 with regs := site0.regs ++ [(0x300, BitVec.ofNat 64 (2 ^ 31))] }
def fencedSite : State := { on with clusters := [(0, { ClusterState.reset with regs := [(0x40, 1)] })] }
theorem witness_SitesTripAndRailsFollow :
    (siteSt on 63).powered = false ∧ (siteSt on 0).powered = true ∧ on.fin.reen = none
    ∧ (let s := { on with sites := [(0, locked0)] }; (siteSt s 0).powered = true ∧ bitOf (dreg s 0 0x300) 31 = true)
    ∧ reenReason (agent 1 on) 0 = some 1 ∧ reenReason (agent 1 fencedSite) 0 = none
    ∧ (∀ n : Fin 2, (onF (fun f => { f with reen := some (63, n.val + 1, true) })).fin.reen = some (63, n.val + 1, true))
    ∧ (onF (fun f => { f with reen := some (0, 3, false) })).fin.reen = some (0, 3, false) := by decide +kernel
theorem witness_SitesTripAndRailsFollow_write : canWrite (agent 1 fencedSite) dreq 0x4700 5 (leBytes 1 0) (sess 1) :=
  agent_writes _ _ _ _ _ rfl (by decide +kernel)
/-- Lost phases of cluster 0, as AVS shows them. -/
def phases (lost : Nat) : State := { on with clusters := [(0, { ClusterState.reset with regs := [(0x58, BitVec.ofNat 64 (lost * 2 ^ 16))] })] }
def lostAfter (s : State) (ps : List (Fin 4)) : Nat := ps.foldl (fun m p => m ||| 2 ^ p.val) (bitsOf (kreg s 0 0x58) 19 16)
theorem witness_SitesTripAndRailsFollow_rails :
    (siteSt on 1).powered = false ∧ (siteSt on 0).powered = true
    ∧ lostAfter (phases 8) [3] = bitsOf (kreg (phases 8) 0 0x58) 19 16
    ∧ (lostAfter (phases 0) [3] ≠ bitsOf (kreg (phases 0) 0 0x58) 19 16 ∧ bitCount (lostAfter (phases 0) [3]) 4 = 1)
    ∧ (lostAfter (phases 8) [0] ≠ bitsOf (kreg (phases 8) 0 0x58) 19 16 ∧ bitCount (lostAfter (phases 8) [0]) 4 = 2)
    ∧ (lostAfter (phases 8) [0, 1, 2] ≠ bitsOf (kreg (phases 8) 0 0x58) 19 16 ∧ 3 ≤ bitCount (lostAfter (phases 8) [0, 1, 2]) 4
      ∧ bitOf (kreg (phases 8) 0 0x58) 3 = false)
    ∧ (clOf on 0).clocksOff = false ∧ (ccOf on 0).image.isSome = true ∧ (ccOf on 0).parked = false := by decide +kernel
/-- Four periods in the band keep the setpoint; one below it raises it by 5 mV; the eighth above lowers it (R427). -/
theorem test_avs : avsNext 700 4 3 = (700, 0) ∧ avsNext 700 3 3 = (705, 0) ∧ avsNext 700 13 7 = (695, 0) ∧ avsNext 850 0 0 = (850, 0) := by
  decide

/-! ## Cooling -/

theorem witness_CoolantIsWatched_sensors :
    on.fin.standby12 = true
    ∧ (trayReading none).isSome = false ∧ (trayReading (some 0x0400)).isSome = true ∧ (trayReading (some 0x0790)).isSome = false
    ∧ (let s := { onF (fun f => { f with lastPulse := some 0 }) with units := 150000 }; s.fin.lastPulse = some 0 ∧ 10 ≤ 10 ∧ 0 + 150000 ≤ s.units)
    ∧ (let s := { onF (fun f => { f with lastPulse := some 1 }) with units := 150000 }; s.fin.lastPulse = some 1 ∧ s.units < 1 + 150000)
    ∧ on.fin.flowLow = false ∧ (onF (fun f => { f with flowLow := true })).fin.flowLow = true ∧ heatBalance on = none
    ∧ (let s := setIreg (onF (fun f => { f with inlet := some 30, outlet := some 40 })) 64 0x1200 (800 * 65536);
      heatBalance s = some (60 * 8000 / (4190 * 10)) ∧ s.fin.useHeat = false) := by decide +kernel
theorem witness_CoolantIsWatched_sensors_hotspot :
    (let s := { on with cal := [(4, [])] };
      (judge s 0 15 (hotOf s 0 15) (diode s 0 15 0 (some 0x0348)) (diode s 0 15 1 (some 0x0348))).used = some 105) ∧ hotLimit 15 ≤ 105
    ∧ (siteSt on 0).powered = true ∧ (15 : Fin 20).val < 16 := by decide +kernel
/-- Power 5 kW for a second, an inlet of 30 °C and one used value of a kind. -/
def warm (h : Nat) : State :=
  setIreg { onF (fun f => { f with inlet := some 30 }) with
    sites := [(0, { site0 with hot := [(h, { HotSpot.reset with a := some 60, b := some 60, used := some 60, trust := .agree })] })] } 64 0x1200 (500 * 65536)
theorem witness_CoolantIsWatched_sensors_rth :
    let hist := fun (s : State) => s.fin.pinHist.filter (fun e => decide (s.units < e.1 + unitsPerSec)) ++ [(s.units, (mainPower s : Rat))]
    rthSampleOf on false (hist on) = none ∧ (rthSampleOf (warm 0) false (hist (warm 0))).isSome = true
    ∧ (rthSampleOf (warm 16) true (hist (warm 16))).isSome = true := by decide +kernel
theorem witness_CoolantIsWatched_sensors_almanac :
    almanacUp on 0 = false ∧ almanacUp (setIreg on 64 0x1000 16) 0 = true
    ∧ (let s := { on with sites := [(0, { site0 with hot := [(0, { HotSpot.reset with forecast := some 80 }), (16, { HotSpot.reset with forecast := some 70 })] })] }
      (hotOf s 0 0).forecast = some 80 ∧ hottest ([16, 17, 18, 19].filterMap (fun h => (hotOf s 0 h).forecast)) = some 70
      ∧ (siteSt s 0).powered = true ∧ (clOf s 0).clocksOff = false ∧ (ccOf s 0).image.isSome = true ∧ (ccOf s 0).parked = false) := by
  decide +kernel
/-- A site whose latch is set and whose diodes all read 25 °C. -/
def tripped : SiteState :=
  { SiteState.reset with tripLatch := true, hot := (List.range 20).map (fun h => (h, { HotSpot.reset with a := some 25, b := some 25 })) }
theorem witness_CoolantIsWatched_protects_trip :
    (siteSt on 0).tripLatch = false ∧ on.fin.reen = none ∧ on.fin.standby12 = true
    ∧ (let s := agent 1 { on with sites := [(0, site0), (1, tripped)] }; (siteSt s 1).tripLatch = true ∧ siteCool s 1 = true) := by
  decide +kernel
theorem witness_CoolantIsWatched_protects_clear : canWrite (agent 1 { on with sites := [(0, site0), (1, tripped)] }) dreq 0x4800 5 (leBytes 1 1) (sess 1) :=
  agent_writes _ _ _ _ _ rfl (by decide +kernel)
theorem witness_CoolantIsWatched_protects :
    on.fin.stop = false ∧ on.fin.heldOff = false ∧ on.fin.reen = none ∧ on.fin.ready = true ∧ on.fin.held = none
    ∧ (onF (fun f => { f with stop := true })).fin.stop = true
    ∧ (let s := onF (fun f => { f with heldOff := true }); s.fin.stop = false ∧ s.fin.heldOff = true ∧ s.fin.held = none ∧ s.fin.reen = none) := by
  decide +kernel

/-! ## Power-up, firmware, Stewards -/

/-- After a committed swap, its old epoch not yet gone: no vault holds a shard of either. -/
theorem witness_EclosionProceeds_recovery :
    let e := { Epochs.reset with committed := some man0, st := .newCommitted, retiring := some ({ man0 with shards := [] }, 0) }
    let s := { on with parts := [(0, { part0 with epochs := e })], fin := { fin0 with recoverDue := [0] } }
    0 ∈ s.fin.recoverDue ∧ (partOf s 0).epochs.st = .newCommitted ∧ (partOf s 0).epochs.committed = some man0
      ∧ (partOf s 0).epochs.retiring.isSome = true ∧ missingOf s 0 { man0 with shards := [] } = [] ∧ missingOf s 0 man0 ≠ [] := by decide +kernel
def obs (ok : Bool) : EclosionObs := { mirror64 := ok, mirror72 := ok, refclk := true, input := true, inlet := true, flow := true }
theorem witness_EclosionProceeds :
    on.fin.standby12 = true ∧ State.reset.fin.standby12 = false ∧ (onF (fun f => { f with phase := 1 })).fin.phase ≠ 0
    ∧ (let f := (onF (fun f => { f with eclosing := true })).fin; f.standby12 = true ∧ f.eclosing = true ∧ f.phase = 0 ∧ f.held = none
      ∧ f.resetPin = false ∧ f.stop = false ∧ f.heldOff = false ∧ f.eclosionWaited = false)
    ∧ missingCond (obs false) = some 1 ∧ missingCond (obs true) = none ∧ [RampResult.ok].length ≠ 4
    ∧ (∀ g : Fin 16, let s := onF (fun f => { f with phase := if g = 0 then 1 else BitVec.ofNat 8 (0x0F + g.val) });
        s.fin.held = none ∧ s.fin.sagWarn = false ∧ s.fin.phase.toNat = (if g = 0 then 1 else 0x0F + g.val)
        ∧ ∀ d ∈ groupSites g, siteFenced s d = false)
    ∧ (ccOf on 1 ).mailbox = none
    ∧ (let s := { on with ccs := [(1, { CcState.reset with mailbox := some (0, 8, 0, sha256 (zeros 8)) }), (1025, ccUp)] };
      (ccOf s 1).mailbox = some (0, 8, 0, sha256 (zeros 8)) ∧ stewardUp s = true ∧ s.fin.held = none
      ∧ goodRead (sha256 (zeros 8)) 8 [] (zeros 8) = some (zeros 8) ∧ goodRead (sha256 (zeros 8)) 8 [] [] = none)
    ∧ on.fin.phase ≠ 0x22
    ∧ (let s := onF (fun f => { f with phase := 0x22, ready := false }); s.fin.phase = 0x22 ∧ s.fin.held = none ∧ s.fin.ready = false
      ∧ testsOpen s = false ∧ s.fin.recoverDue = [])
    ∧ 0 ∉ on.fin.recoverDue
    ∧ (let s := { serving job0 with fin := { fin0 with recoverDue := [0] } }; 0 ∈ s.fin.recoverDue ∧ (partOf s 0).epochs.st = .old
      ∧ (partOf s 0).epochs.incoming = none ∧ (partOf s 0).epochs.committed = some man0) := by decide +kernel

/-- The module before its Steward has an image, its port 0 up. -/
def booting (failed : Bool) : State :=
  { on with ccs := [], wl := [(0, port0)], stw := { on.stw with bootFailed := failed } }
/-- Image list of a release, and states of an update. -/
def images : List (Nat × Nat × Nat × Bytes) := [(1, 8, 0, sha256 (zeros 8)), (2, 8, 0, sha256 (zeros 8)), (3, 8, 0, sha256 (zeros 8))]
def updating (st : Fin 3) (done : List Nat) : State :=
  { on with stw := { on.stw with fwState := st, release := some ([], images), newRelease := some ([], images), updated := done } }
theorem witness_FirmwareAndStewards :
    (∀ b : Bool, bootWaits (booting b) = true ∧ portUp (booting b) 0 = true ∧ (booting b).stw.bootFailed = b) ∧ relFault [] = some 1
    ∧ (carrier dreq).isSome = true ∧ stewardUp (agent 1 on) = true ∧ updateReason (agent 1 on) none = some 5
    ∧ on.stw.fwState = 0 := by decide +kernel
theorem witness_FirmwareAndStewards_update : let s := updating 1 [];
    s.stw.fwState = 1 ∧ s.stw.newRelease = some ([], images) ∧ updateNext s 0 = true ∧ (ccOf s 0).image.isSome = true
    ∧ stewardUp s = true ∧ s.fin.held = none := by decide +kernel
theorem witness_FirmwareAndStewards_parks : (ccOf (updating 1 []) 0).parked = false ∧ mayPark (updating 1 []) 0 = true
    ∧ mayPark (updCc (updating 1 []) 1 (fun c => { c with parked := true })) 0 = false
    ∧ (ccOf (updCc (updating 1 []) 0 (fun c => { c with parked := true })) 0).parked = true
    ∧ updateNext (updCc (updating 1 []) 0 (fun c => { c with parked := true })) 0 = true := by decide +kernel
theorem witness_FirmwareAndStewards_image : imageFor ([], images) 0 = some (8064, 8, 0, sha256 (zeros 8))
    ∧ goodRead (sha256 (zeros 8)) 8 (zeros 8) [] = some (zeros 8) ∧ goodRead (sha256 (zeros 8)) 8 [] [] = none := by decide +kernel
theorem witness_FirmwareAndStewards_back : let s := updating 2 [0];
    s.stw.fwState = 2 ∧ s.stw.release = some ([], images) ∧ 0 ∈ s.stw.updated ∧ 0 ≠ stewardCc s := by decide +kernel
theorem witness_FirmwareAndStewards_done :
    (let s := updating 1 [0, 1025]; stewardUp s = true ∧ s.stw.die = 64 ∧ s.stw.fwState = 1 ∧ ∀ i ∈ runningCcs s, i ∈ s.stw.updated)
    ∧ (let s := updating 2 []; stewardUp s = true ∧ s.stw.die = 64 ∧ s.stw.fwState = 2 ∧ s.stw.updated = []) := by decide +kernel
theorem witness_FirmwareAndStewards_handover :
    (let s := { on with stw := { on.stw with standbyOk := false } }; s.stw.standbyOk = false)
    ∧ (let s := { on with stw := { on.stw with standbyOk := true }, ccs := [(1025, ccUp), (1041, ccUp)] }; stewardUp s = true
      ∧ s.stw.standbyOk = true ∧ stepsInFlight s = false ∧ s.fin.ioPowered = true ∧ s.fin.held = none
      ∧ (ccOf s (standbyCc s)).image.isSome = true) := by decide +kernel
theorem witness_FirmwareAndStewards_write : canWrite (agent 1 on) dreq 0x4A00 1 (leBytes 8 0) (sess 1) :=
  agent_writes _ _ _ _ _ rfl (by decide +kernel)

/-! ## Resets and sleep -/

theorem witness_ResetsAreHeldAndReleased :
    on.fin.held = none ∧ on.fin.reen = none ∧ on.fin.standby12 = true ∧ on.fin.ioPowered = true ∧ 9 < 10 ∧ (10 ≤ 10 ∧ 10 ≤ 1000000)
    ∧ 1000000 < 1000001 ∧ (onF (fun f => { f with held := some (3, 0x1013) })).fin.held = some (3, 0x1013) := by decide +kernel
theorem witness_ResetsAreHeldAndReleased_write : ∀ v : Fin 3, canWrite (agent 1 on) dreq 0x4900 3 [BitVec.ofNat 8 v] (sess 1) :=
  fun _ => agent_writes _ _ _ _ _ rfl (by decide +kernel)

theorem witness_SleepAndWake_enter :
    (let s := agent 0 on; stewardUp s = true ∧ s.fin.diaWait = false ∧ diaReason s = none ∧ stepsInFlight s = false ∧ s.fin.wakeWait = none
      ∧ (∀ d, d < 64 → (hlOf s d).st = 0))
    ∧ (let s := agent 0 (serving (regioned 0 { wave0 with busy := true })); diaReason s = none ∧ stepsInFlight s = true)
    ∧ (let s := agent 0 (onF (fun f => { f with pwr := 2 })); (diaReason s).isSome = true)
    ∧ (∀ st ∈ [ReqState.prefill, .decode], let s := agent 0 { on with reqs := [(9, req9 0 st)] }; reqOf s 9 = some (req9 0 st)) := by
  decide +kernel
theorem witness_SleepAndWake_write :
    (∀ v : Fin 3, canWrite (agent 0 (onF (fun f => { f with pwr := 2 }))) dreq 0x4900 1 [BitVec.ofNat 8 v] (sess 0))
    ∧ canWrite (agent 1 on) dreq 0x4900 1 [3#8] (sess 1) ∧ canWrite (agent 1 (onF (fun f => { f with pwr := 3 }))) dreq 0x4900 1 [0#8] (sess 1) :=
  ⟨fun _ => agent_writes _ _ _ _ _ rfl (by decide +kernel), agent_writes _ _ _ _ _ rfl (by decide +kernel), agent_writes _ _ _ _ _ rfl (by decide +kernel)⟩
/-- A request that DIAPAUSE paused in DECODE. -/
def slept : Request := { req9 0 .paused with pause := some .diapause, pausedFrom := .decode }
def asleep : State := { onF (fun f => { f with pwr := 2 }) with reqs := [(9, slept)] }
theorem witness_SleepAndWake_wake :
    asleep.fin.pwr = 2 ∧ asleep.fin.diaWait = false ∧ asleep.fin.held = none ∧ asleep.fin.heldOff = false ∧ asleep.fin.ioPowered = true
    ∧ reqOf asleep 9 = some slept ∧ slept.pause = some .diapause ∧ (wlOf asleep 15).st ≠ 7
    ∧ bitOf (obj (setObj asleep 0x4900 4 0x8000) 0x4900 4) 15 = true ∧ bitOf (obj (setObj asleep 0x4900 4 0) 0x4900 4) 15 = false := by
  decide +kernel
theorem witness_SleepAndWake_ports : ∀ n, (wlOf asleep n).withheld = [] := by intro n; rfl
theorem witness_SleepAndWake_standby :
    byOperator (sess 1) = false ∧ someSwapping (agent 1 on) = false ∧ (agent 1 on).fin.pwr ≠ 3
    ∧ (let s := onF (fun f => { f with pwr := 3 }); s.fin.pwr = 3 ∧ s.fin.eclosing = false ∧ s.fin.standby12 = true
      ∧ obj (setObj s 0x4900 2 1) 0x4900 2 = 1 ∧ obj (setObj s 0x4900 2 0) 0x4900 2 ≠ 1 ∧ s.fin.standbyCommanded = false) := by decide +kernel

/-! ## The management agent -/

/-- A segment of one 16 B CLOSE request on CAN FD from master 3. -/
def closeMsg : Bytes := [3#8] ++ zeros 15
def segCan (first last : Bool) (n : Nat) (b : Bytes) : Bytes :=
  leBytes 1 ((if first then 128 else 0) + (if last then 64 else 0) + n) ++ [3#8] ++ b
def partly : State := { on with mgmt := { Mgmt.reset with reasm := [Reassembly.mk .can 3 1 (closeMsg.take 8)] } }
theorem witness_SessionsOpenAndClose_segments :
    State.reset.fin.standby12 = false ∧ (let s := { on with mgmt := { Mgmt.reset with quarPaths := [.can] } }; DapPath.can ∈ s.mgmt.quarPaths)
    ∧ on.fin.standby12 = true ∧ .can ∉ on.mgmt.quarPaths := by decide +kernel
theorem witness_SessionsOpenAndClose_fields : segFields .can 3 [] false false = none
    ∧ segFields .can 3 (segCan true false 0 (closeMsg.take 8)) false false = some (true, false, 0, closeMsg.take 8)
    ∧ segBefore on .can 3 (true, false, 0, closeMsg.take 8) = some []
    ∧ segBefore partly .can 3 (false, true, 1, closeMsg.drop 8) = some (closeMsg.take 8)
    ∧ segFields .can 3 (segCan false true 1 (closeMsg.drop 8)) false false = some (false, true, 1, closeMsg.drop 8)
    ∧ closeMsg.take 8 ++ closeMsg.drop 8 = closeMsg.take (16 + 8 * leAt closeMsg 0xC 2) := by decide +kernel
theorem witness_SessionsOpenAndClose_whole : (closeMsg.length = 16 + 8 * leAt closeMsg 0xC 2 ∧ closeMsg.length ≤ 24592 ∧ byteAt closeMsg 0 ∈ dapServices ∧ byteAt closeMsg 1 = 0
      ∧ leAt closeMsg 0xE 2 = 0)
    ∧ reasmAt on .can 3 = none ∧ reasmAt partly .can 3 ≠ none := by decide +kernel
def openBody (role : Nat) : Bytes := leBytes 1 role ++ zeros 7 ++ zeros 8
theorem witness_SessionsOpenAndClose_listens (s : State) (service : Nat) (body : Bytes) :
    listens (agent 0 { on with parts := s.parts }) dreq service body := listens_of _ _ _ _ rfl rfl rfl
theorem witness_SessionsOpenAndClose_open :
    (∀ r : Fin 3, (openBody r).length = 16 ∧ byteAt (openBody r) 0 ≤ 2 ∧ leAt (openBody r) 1 7 = 0 ∧ sliceB (openBody r) 8 8 ∉ (agent 0 on).mgmt.locked)
    ∧ credKey (agent 0 on) 0 (zeros 8) = none ∧ ((agent 0 on).mgmt.challenges.filter (fun e => !sameOpen e dreq && e.path == dreq.path)).length < 4
    ∧ (let s := { on with mgmt := { Mgmt.reset with locked := [zeros 8] } }; zeros 8 ∈ s.mgmt.locked)
    ∧ (let s := { on with mgmt := { Mgmt.reset with creds := [(0, 0, [7#8])] } }; credKey s 0 (fpOf [7#8]) = some [7#8]) := by decide +kernel
def chal (role : Byte) : Challenge := Challenge.mk (.wenlink 0) 0 3 role (fpOf [7#8]) (zeros 32) 0
def challenged (role : Byte) : State := { on with mgmt := { Mgmt.reset with challenges := [chal role], creds := [(0, 0, [7#8])] } }
theorem witness_SessionsOpenAndClose_prove : ∀ r : Fin 2, let role : Byte := BitVec.ofNat 8 (2 * r); let s := challenged role
    s.mgmt.challenges.find? (fun e => sameOpen e dreq) = some (chal role) ∧ mgmtTime s ≤ (chal role).at_ + 1000000000
    ∧ (chal role).fp ∉ s.mgmt.locked ∧ s.mgmt.sessions.length < 8 ∧ (r = 0 → credKey s 0 (chal role).fp = some [7#8]) := by decide +kernel
theorem witness_SessionsOpenAndClose_signed (role : Byte) (cert : Bytes) :
    listens (challenged role) dreq 0x02 (cert ++ dreq.sig) ∧ dreq.sig.length = 7856 ∧ (zeros 7936).length = 7936 :=
  ⟨listens_of _ _ _ _ rfl rfl rfl, List.length_replicate .., List.length_replicate ..⟩
theorem witness_SessionsOpenAndClose_close : asks (agent 0 on) dreq 0x03 [] (sess 0) := agent_asks _ _ _ _ rfl

def readBody (ix sub : Nat) : Bytes := leBytes 2 ix ++ leBytes 1 sub ++ zeros 5
theorem witness_ObjectsReadWrittenAndAudited_asks (role : Fin 3) (service : Nat) (body : Bytes) : asks (agent role on) dreq service body (sess role) :=
  agent_asks _ _ _ _ rfl
theorem witness_ObjectsReadWrittenAndAudited_read :
    (∀ e ∈ [(0xFFFF, 255), (0x4B00, 1), (0x4401, 1), (0x4400, 6)], let b := readBody e.1 e.2
      b.length = 8 ∧ byteAt b 3 = 0 ∧ leAt b 0 2 = e.1 ∧ byteAt b 2 = e.2)
    ∧ objAt 0xFFFF 255 = none ∧ (objAt 0x4B00 1).any (fun o => mayRead o 0 && o.kind != 3) = true
    ∧ (objAt 0x4401 1).any (fun o => mayRead o 0 && o.kind == 3) = true ∧ (objAt 0x4400 6).any (fun o => mayRead o 0) = false := by decide +kernel
theorem witness_ObjectsReadWrittenAndAudited_write : canWrite (agent 1 on) dreq 0x4B00 2 (leBytes 2 10) (sess 1)
    ∧ canWrite (agent 1 on) dreq 0x4B00 2 (leBytes 2 9) (sess 1) :=
  ⟨agent_writes _ _ _ _ _ rfl (by decide +kernel), agent_writes _ _ _ _ _ rfl (by decide +kernel)⟩
theorem witness_ObjectsReadWrittenAndAudited_range : ownRow 0x4B00 2 = false ∧ plainCheck 0x4B00 2 (leBytes 2 10) true (agent 1 on) = stOk
    ∧ plainCheck 0x4B00 2 (leBytes 2 9) true (agent 1 on) = stRange := by decide +kernel
/-- One entry in the audit log, whose chain value is zero. -/
def audited : State :=
  { on with mgmt := { agentOf 1 with audit := [(leBytes 4 1 ++ zeros 60, zeros 32)] }, sec := { on.sec with idReady := true } }
theorem witness_ObjectsReadWrittenAndAudited_export : let b := leBytes 4 1 ++ leBytes 4 64
    b.length = 8 ∧ 1 ≤ leAt b 4 4 ∧ leAt b 4 4 ≤ 64 ∧ (sess 1).role ≠ 0 ∧ auditAt (agent 1 on) (leAt b 0 4) = none
    ∧ auditAt audited (leAt b 0 4) = some 0 ∧ audited.sec.idReady = true
    ∧ ((audited.mgmt.audit.drop 0).take 64).getLast? = some (leBytes 4 1 ++ zeros 60, zeros 32) := by decide +kernel
theorem witness_ObjectsReadWrittenAndAudited_ack :
    (∀ h ∈ [zeros 32, 1#8 :: zeros 31], let b := leBytes 4 1 ++ zeros 4 ++ h; b.length = 40 ∧ leAt b 4 4 = 0 ∧ auditAt audited (leAt b 0 4) = some 0
      ∧ (sliceB b 8 32 = zeros 32) = (h = zeros 32))
    ∧ audited.mgmt.audit[0]? = some (leBytes 4 1 ++ zeros 60, zeros 32) ∧ audited.mgmt.storeFail = false ∧ (sess 1).role = 1 := by decide +kernel
theorem witness_ObjectsReadWrittenAndAudited_acks (body : Bytes) : asks audited dreq 0x21 (body ++ dreq.sig) (sess 1) :=
  ⟨listens_of _ _ _ _ rfl rfl rfl, by simp [sessionFor, audited, agentOf, sess, dreq], rfl⟩

/-! ## Security -/

/-- A publisher certificate of key 0, by the installer whose key is [7], with a signature of zeros. -/
def pubCert : Bytes :=
  leBytes 4 0x54524543 ++ [1#8, 0, 4, 0] ++ zeros 8 ++ zeros 32 ++ fpOf [7#8] ++ zeros 24 ++ zeros 7856
theorem witness_SecurityObjectsAndDebug :
    (∀ c, canWrite (agent 1 on) dreq 0x4E10 8 c (sess 1)) ∧ (∀ fp, canWrite (agent 1 on) dreq 0x5304 8 fp (sess 1))
    ∧ (∀ n, canWrite (agent 1 on) dreq 0x4E20 1 n (sess 1)) ∧ ∀ v, canWrite (agent 2 on) dreq 0x4E00 4 [v] (sess 2) :=
  ⟨fun _ => agent_writes _ _ _ _ _ rfl (by decide +kernel), fun _ => agent_writes _ _ _ _ _ rfl (by decide +kernel),
   fun _ => agent_writes _ _ _ _ _ rfl (by decide +kernel), fun _ => agent_writes _ _ _ _ _ rfl (by decide +kernel)⟩
theorem witness_SecurityObjectsAndDebug_cert : pubCert.length = 7936 ∧ leNat pubCert ≠ 0 ∧ publisherOk (agent 1 on) pubCert = false
    ∧ [0#8].length ≠ 7936 ∧ cIssuer pubCert = fpOf [7#8] := by decide +kernel
theorem witness_SecurityObjectsAndDebug_zero : (zeros 7936).length = 7936 := List.length_replicate ..
/-- With a signature that verifies, the certificate is good: the free verification decides. -/
theorem witness_SecurityObjectsAndDebug_publisher (h : Config.sigVerify 128 [7#8] (sliceB pubCert 0 80) (sliceB pubCert 80 7856) = true) :
    publisherOk { on with mgmt := { agentOf 1 with creds := [(0, 1, [7#8])] } } pubCert = true := by
  have e : certOk 4 [7#8] pubCert = true := by
    rw [certOk, h]; decide +kernel
  have i : cIssuer pubCert = fpOf [7#8] := by decide +kernel
  simp [publisherOk, e, i]
theorem witness_SecurityObjectsAndDebug_kept : let s := { agent 1 on with sec := { on.sec with certs := [(7, pubCert)] } }
    lookupN s.sec.certs 7 = some pubCert := rfl
theorem witness_SecurityObjectsAndDebug_fp : fpOf (cKey pubCert) = fpOf (zeros 32) ∧ (fpOf (zeros 32)).length = 8 ∧ leNat (fpOf (zeros 32)) ≠ 0
    ∧ leNat (zeros 8) = 0 ∧ fpOf (cKey pubCert) ≠ 1#8 :: zeros 7 ∧ lookupN (agent 1 on).sec.certs 7 = none ∧ [1#8].length ≠ 8 := by decide +kernel
theorem witness_SecurityObjectsAndDebug_quote :
    (zeros 32).length = 32 ∧ (let s := { on with sec := { on.sec with idReady := true } }; s.sec.idReady = true ∧ s.sec.quoteSt ≠ 1)
    ∧ on.sec.idReady = false ∧ (let s := { on with sec := { on.sec with quoteSt := 1, nonce := zeros 32 } }; s.sec.quoteSt = 1 ∧ s.sec.nonce.length = 32)
    ∧ (let s := { on with sec := { on.sec with makerEpoch := some 5 } }; makerEpoch s ≤ (64 : Byte).toNat ∧ (4 : Byte).toNat < makerEpoch s)
    ∧ 64 < (65 : Byte).toNat := by decide +kernel

/-- A maker's session without a serial number in its certificate. -/
def noSerial : Session := { sess 2 with serial := false }
def withSec (f : Security → Security) : State := agent 2 { on with sec := f { on.sec with idReady := true } }
theorem witness_SecurityObjectsAndDebug_debug :
    (∀ f, canWrite (withSec f) dreq 0x4E30 1 [1#8] (sess 2)) ∧ (∀ f v, canWrite (withSec f) dreq 0x4E30 2 [v] (sess 2))
    ∧ (∀ f v, canWrite (withSec f) dreq 0x4E30 4 v (sess 2))
    ∧ canWrite { on with mgmt := { Mgmt.reset with sessions := [noSerial] } } dreq 0x4E30 1 [1#8] noSerial :=
  ⟨fun _ => agent_writes _ _ _ _ _ rfl (by decide +kernel), fun _ _ => agent_writes _ _ _ _ _ rfl (by decide +kernel),
   fun _ _ => agent_writes _ _ _ _ _ rfl (by decide +kernel), sess_writes _ _ _ _ _ rfl ⟨rfl, rfl, rfl, rfl⟩ rfl (by decide +kernel)⟩
theorem witness_SecurityObjectsAndDebug_debug_state :
    noSerial.serial = false ∧ (sess 2).serial = true ∧ debugRefused (withSec (fun q => { q with idReady := false })) = true
    ∧ debugRefused (withSec id) = false ∧ (withSec id).sec.debugOpen = false ∧ (withSec (fun q => { q with debugOpen := true })).sec.debugOpen = true
    ∧ debugRefused (withSec (fun q => { q with debugOpen := true })) = false
    ∧ (∀ op ∈ [1#8, 2#8], let v := zeros 12 ++ [op] ++ zeros 3; v.length = 16 ∧ (byteAt v 12 = 1 ∨ byteAt v 12 = 2) ∧ leAt v 13 3 = 0) := by
  decide +kernel

/-! ## Wenlink -/

/-- Port 0 in a state, with more. -/
def port (st : Fin 8) (f : WlState → WlState) : State := { on with wl := [(0, f { WlState.reset with st := st })] }
theorem witness_WenlinkPortsChangeState_train :
    portAlive State.reset 0 = false ∧ 2 ≤ (wlOf (port 7 id) 0).st.val ∧ portAlive on 0 = true ∧ (wlOf (port 1 id) 0).st.val < 2
    ∧ laneCount 0x07 < 4 ∧ 4 ≤ laneCount 0x0F ∧ 4 ≤ laneCount 0xFF ∧ (wlOf (port 4 id) 0).st ≠ 2 ∧ (wlOf (port 4 id) 0).st ≠ 3
    ∧ (wlOf (port 2 id) 0).st = 2 ∧ (wlOf (port 3 id) 0).st = 3 ∧ (wlOf (port 2 (fun w => { w with gen := 1 })) 0).gen.val ≤ 1
    ∧ 2 ≤ (wlOf (port 2 (fun w => { w with gen := 2 })) 0).gen.val := by decide +kernel
def capBlock (gen : Byte) : Bytes := leBytes 4 0x50414357 ++ [2#8, gen, 0, 0] ++ zeros 24 ++ leBytes 8 9 ++ zeros 24
theorem witness_WenlinkPortsChangeState_config :
    (wlOf (port 5 id) 0).st ≠ 4 ∧ (wlOf (port 4 id) 0).st = 4 ∧ capabilityOk (capBlock 0) = false ∧ capabilityOk (capBlock 3) = true
    ∧ leAt (capBlock 3) 0x20 8 = 9 := by decide +kernel
theorem witness_WenlinkPortsChangeState_time : timeKept (port 4 (fun w => { w with lastHostTime := some 9 })) 0 9 := by
  intro old h; simp [wlOf, port, getN, lookupN] at h; subst h; decide
theorem witness_WenlinkPortsChangeState_states :
    (wlOf on 0).st = 0 ∧ (wlOf (port 7 id) 0).st = 7 ∧ ((wlOf (port 5 id) 0).st ≠ 0 ∧ (wlOf (port 5 id) 0).st ≠ 7)
    ∧ (wlOf (port 5 (fun w => { w with tapsWarm := true })) 0).tapsWarm = true ∧ (wlOf (port 5 id) 0).tapsWarm = false
    ∧ (wlOf (port 7 (fun w => { w with held := true })) 0).held = true ∧ (wlOf (port 7 id) 0).held = false
    ∧ (wlOf (port 6 id) 0).st = 6 ∧ (recent on 60 (wlOf (port 5 id) 0).retrainTimes).length < 2
    ∧ (let s := port 5 (fun w => { w with tapsWarm := true, retrainTimes := [0, 0] }); (wlOf s 0).tapsWarm = true
      ∧ 2 ≤ (recent s 60 (wlOf s 0).retrainTimes).length) := by decide +kernel
theorem witness_WenlinkPortsChangeState_release : ∀ v, canWrite (agent 1 (port 7 id)) dreq 0x4D00 5 [v] (sess 1) :=
  fun _ => agent_writes _ _ _ _ _ rfl (by decide +kernel)
theorem witness_WenlinkPortsChangeState_ports : 15 < (16 : Byte).toNat ∧ (15 : Byte).toNat ≤ 15 ∧ (wlOf (agent 1 (port 7 id)) (0 : Byte).toNat).st = 7
    ∧ (wlOf (agent 1 (port 7 id)) (15 : Byte).toNat).st ≠ 7 := by decide +kernel

/-- A flit without its CRC: kind, number, class, acknowledged number, payload; and with a CRC field. -/
def flitHead (kind seq cls ack : Nat) (payload : Bytes) : Bytes :=
  leBytes 4 (kind * 2 ^ 28 + seq * 2 ^ 16 + cls * 2 ^ 12 + ack) ++ padTo 248 payload
def flitWith (b : Bytes) (crc : Nat) : Bytes := b ++ leBytes 4 crc
def flit (kind seq cls ack : Nat) (payload : Bytes) : Bytes :=
  let b := flitHead kind seq cls ack payload
  flitWith b (crc32 b).toNat
theorem flitCrc_with (b : Bytes) (x : Nat) (h : b.length = 252) (hx : x < 2 ^ 32) : flitCrc (flitWith b x) = (x == (crc32 b).toNat) := by
  have e : leAt (b ++ leBytes 4 x) 252 4 = x := by
    have := leAt_append b 4 x [] (by simpa using hx)
    rwa [List.append_nil, h] at this
  rw [flitCrc, flitWith, e, ← h, List.take_left]
  simp [h]
/-- Every flit of that form has a good CRC; with another CRC it is bad. -/
theorem flit_good (kind seq cls ack : Nat) (p : Bytes) (h : p.length ≤ 248) : flitCrc (flit kind seq cls ack p) = true := by
  have l : (flitHead kind seq cls ack p).length = 252 := by
    simp only [flitHead, padTo, List.length_append, leBytes_length, zeros_length]; omega
  have e : (crc32 (flitHead kind seq cls ack p)).toNat < 2 ^ 32 := (crc32 (flitHead kind seq cls ack p)).isLt
  rw [flit, flitCrc_with _ _ l e]; simp
theorem flit_bad : ∃ f : Bytes, f.length = 256 ∧ flitCrc f = false := by
  let b := zeros 252
  have l : b.length = 252 := zeros_length 252
  refine ⟨flitWith b (if (crc32 b).toNat = 0 then 1 else 0), by simp [flitWith, l], ?_⟩
  rw [flitCrc_with _ _ l (by split <;> decide)]
  split <;> simp_all
  omega
/-- A CREDITS message of 24 B that fills one flit. -/
def credits : Bytes := leBytes 1 0x81 ++ zeros 15
theorem witness_WenlinkFlitsArrive : let s := port 5 (fun w => { w with rxSeq := 4095, rx := [] });
    [0#8].length ≠ 256 ∧ (flit 1 4095 0 0 credits).length = 256 ∧ (wlOf (port 3 id) 0).st ≠ 4 ∧ (wlOf (port 3 id) 0).st ≠ 5
    ∧ flKind (flit 2 0 0 7 []) = 2
    ∧ (let f := flit 1 4094 0 0 credits; flKind f = 1 ∧ flSeq f ≠ (wlOf s 0).rxSeq.toNat)
    ∧ (let f := flit 1 4095 0 0 credits; flKind f = 1 ∧ flSeq f = (wlOf s 0).rxSeq.toNat) := by decide +kernel
theorem witness_WenlinkFlitsArrive_messages :
    (let rx := flPayload (flit 1 4095 0 0 (leBytes 4 1 ++ leBytes 4 4096)); leAt rx 4 4 ≤ 4096 ∧ rx.length < alignUp (16 + leAt rx 4 4) 248)
    ∧ (let rx := flPayload (flit 1 4095 0 0 credits); leAt rx 4 4 ≤ 4096 ∧ alignUp (16 + leAt rx 4 4) 248 ≤ rx.length ∧ messageOk rx = true
      ∧ (wlOf (port 5 id) 0).rate.2 < 65536) := by decide +kernel
theorem witness_WenlinkFlitsArrive_replays :
    (wlOf (port 5 id) 0).unacked = [] ∧ (wlOf (port 4 (fun w => { w with unacked := [(0, [])] })) 0).unacked ≠ []
    ∧ (let w := wlOf (port 5 (fun w => { w with unacked := [(0, [])], replays := 6 })) 0; w.st = 5 ∧ w.replays < 7 ∧ w.replayTimes.length < 1024)
    ∧ (let w := wlOf (port 5 (fun w => { w with unacked := [(0, [])], replays := 7 })) 0; w.unacked ≠ [] ∧ 7 ≤ w.replays ∧ w.tapsWarm = false) := by
  decide +kernel
/-- Port 0 with its queues and one outstanding read, TAG 0xFFFF. -/
def reading (len : Nat) (why : ReadFor) (r : Request) : State :=
  { hosted [(65535, r)] with wl := [(0, { port0 with reads := [(0xFFFF, 0x1000, len, why)] })] }
theorem witness_WenlinkTransactions_reads :
    (wlOf (port 4 id) 0).st ≠ 5 ∧ (wlOf (hosted []) 0).st = 5 ∧ readAt (hosted []) 0 0xFFFF = none
    ∧ (∀ why ∈ [ReadFor.entry 1, .prompt 65535, .maskBits 65535, .stopRec 65535], let s := reading 128 why (req9 0 .queued)
        (wlOf s 0).st = 5 ∧ readAt s 0 0xFFFF = some (0xFFFF, 0x1000, 128, why) ∧ (zeros 128).length = 128
        ∧ reqOf s 65535 = some (req9 0 .queued) ∧ reqFinal (req9 0 .queued) = false ∧ queueAt s 1 = some (queue 1)) := by decide +kernel
theorem witness_WenlinkTransactions_doorbell :
    (let s := { hosted [] with fin := { fin0 with pwr := 2 } }; (wlOf s 0).st = 5 ∧ s.fin.pwr = 2)
    ∧ (hosted []).fin.pwr ≠ 2 ∧ (2 : BitVec 16).toNat / 4096 = 0 ∧ queueAt (hosted []) 4095 = none
    ∧ queueAt (hosted []) 1 = some (queue 1) ∧ doorbellBad (queue 1) 22 = true ∧ doorbellBad (queue 1) 21 = false ∧ (queue 1).kind = 1
    ∧ queueAt (hosted []) 2 = some (queue 2) ∧ doorbellBad (queue 2) 7 = true ∧ doorbellBad (queue 2) 6 = false ∧ (queue 2).kind ≠ 1 := by
  decide +kernel
theorem witness_WenlinkTransactions_time : timeKept (hosted []) 0 0 := by
  intro old h; simp [wlOf, hosted, port0, getN, lookupN, WlState.reset] at h
theorem witness_WenlinkTransactions_stamp : let s := port 5 (fun w => { w with lastHostTime := some 9 })
    (wlOf s 0).st = 5 ∧ (wlOf s 0).lastHostTime = some 9 ∧ (8 : W64).toNat < (9 : W64).toNat := by decide +kernel
def qcreateB (q kind entries : Nat) : Bytes := leBytes 2 q ++ leBytes 1 kind ++ [0#8] ++ leBytes 4 entries ++ zeros 24
theorem witness_WenlinkTransactions_queues :
    [0#8].length ≠ 32 ∧ (qcreateB 255 1 65536).length = 32 ∧ qcreateOk 0 (qcreateB 256 1 64) = false ∧ qcreateOk 0 (qcreateB 255 1 65536) = true
    ∧ qcreateOk 0 (qcreateB 1 1 64) = true ∧ queueAt (hosted []) 1 ≠ none ∧ queueAt (hosted []) 255 = none
    ∧ windowOpen (hosted []) 0 0 = true ∧ windowOpen (port 5 id) 0 0 = false
    ∧ [0#8].length ≠ 8 ∧ (leBytes 8 1).length = 8 ∧ leAt (leBytes 8 4095) 0 2 = 4095 ∧ lookupN (wlOf (hosted []) 0).queues 4095 = none
    ∧ lookupN (wlOf (hosted []) 0).queues 2 = some (queue 2) ∧ 2 / 4096 = 0 ∧ (queue 2).head ≠ (queue 2).tail
    ∧ queueNamed (hosted [(0, req9 0 .decode)]) 2 = true := by decide +kernel
theorem witness_WenlinkTransactions_delete :
    let s := { hosted [] with wl := [(0, { port0 with queues := [(2, { queue 2 with head := 6 })] })] }
    lookupN (wlOf s 0).queues 2 = some { queue 2 with head := 6 } ∧ queueNamed s 2 = false := by decide +kernel
theorem witness_WenlinkTransactions_area :
    (wlOf (hosted []) 0).st = 5 ∧ (wlOf (hosted []) 0).images = [] ∧ (1 : W64).toNat % 4096 ≠ 0 ∧ (4096 : W64).toNat % 4096 = 0 ∧ (0 : W64).toNat % 4096 = 0
    ∧ (0 : W64) = 0 ∧ (4096 : W64) ≠ 0
    ∧ (let s := port 5 (fun w => { w with area := some (4096, 4096), images := [(0, 0, 160)] }); (wlOf s 0).st = 5 ∧ (wlOf s 0).images ≠ []
      ∧ (wlOf s 0).area ≠ some (8192, 4096)) := by decide +kernel

/-! ## Heliostat -/

/-- The Heliostat port of site 0 in a state, with more, in a state that runs a job. -/
def hlPort (j : Job) (st : Fin 8) (f : HlState → HlState) : State :=
  { serving j with sites := [(0, { site0 with hl := f { HlState.reset with st := st } })] }
theorem witness_HeliostatPortsChangeState_train :
    hlAlive State.reset 0 = false ∧ 2 ≤ (hlOf (hlPort job0 7 id) 0).st.val ∧ hlAlive (hlPort job0 1 id) 0 = true
    ∧ (hlOf (hlPort job0 1 id) 0).st.val < 2 ∧ laneCount 0x70 < 4 ∧ 4 ≤ laneCount 0xF0 ∧ (hlOf (hlPort job0 4 id) 0).st ≠ 2
    ∧ hlAlive (hlPort job0 2 id) 0 = true ∧ (hlOf (hlPort job0 2 id) 0).st = 2
    ∧ (hlOf (hlPort job0 2 (fun h => { h with gen := 1 })) 0).gen.val ≤ 1 ∧ 2 ≤ (hlOf (hlPort job0 2 (fun h => { h with gen := 2 })) 0).gen.val := by
  decide +kernel
/-- A hello with an IDREV, a firmware digest and flags. -/
def hello (idrev : Nat) (fw : Bytes) (flags : Nat) : Bytes :=
  leBytes 4 0x4F4C4548 ++ [1#8] ++ leBytes 1 flags ++ leBytes 2 0 ++ leBytes 8 idrev ++ zeros 16 ++ fw ++ zeros 40 ++ zeros 24
theorem witness_HeliostatPortsChangeState_hello :
    ((hlOf (hlPort job0 6 id) 0).st ≠ 3 ∧ (hlOf (hlPort job0 6 id) 0).st ≠ 4 ∧ (hlOf (hlPort job0 6 id) 0).st ≠ 5)
    ∧ (hlOf (hlPort job0 3 id) 0).st = 3 ∧ (hlOf (hlPort job0 4 id) 0).st = 4 ∧ (hlOf (hlPort job0 5 id) 0).st = 5
    ∧ helloForm [] = false ∧ helloForm (hello 7 (zeros 32) 15) = true ∧ helloFlagsOf (hello 7 (zeros 32) 15) % 8 ≠ 0
    ∧ helloFlagsOf (hello 7 (zeros 32) 8) % 8 = 0 ∧ (hlPort job0 3 id).sec.idReady = false
    ∧ hopsCross (hlPort job0 5 id) 0 = false ∧ hopsCross (hlPort job0 5 (fun h => { h with sentStep := some 3 })) 0 = true := by decide +kernel
/-- A hello names this module's version where it carries IDREV and the firmware digest, whatever they are, and another digest is another
version. -/
theorem witness_HeliostatPortsChangeState_same (idrev : Nat) :
    sliceB (peerFields (hello idrev (zeros 32) 0)) 16 40 = leBytes 8 idrev ++ zeros 32
    ∧ sliceB (peerFields (hello idrev (1#8 :: zeros 31) 0)) 16 40 ≠ leBytes 8 idrev ++ zeros 32 := by
  constructor <;> simp [sliceB, peerFields, hello, leBytes, zeros, List.replicate]
theorem witness_HeliostatPortsChangeState_states :
    (hlOf (hlPort job0 0 id) 0).st = 0 ∧ (hlOf (hlPort job0 7 id) 0).st = 7 ∧ ((hlOf (hlPort job0 5 id) 0).st ≠ 0 ∧ (hlOf (hlPort job0 5 id) 0).st ≠ 7)
    ∧ (hlOf (hlPort job0 5 (fun h => { h with tapsWarm := true })) 0).tapsWarm = true ∧ (hlOf (hlPort job0 5 id) 0).tapsWarm = false
    ∧ (hlOf (hlPort job0 7 (fun h => { h with held := true })) 0).held = true ∧ (hlOf (hlPort job0 7 id) 0).held = false
    ∧ (hlOf (hlPort job0 6 id) 0).st = 6 ∧ (recent on 60 (hlOf (hlPort job0 5 id) 0).retrainTimes).length < 2
    ∧ (let s := hlPort job0 4 (fun h => { h with tapsWarm := true, retrainTimes := [0, 0] }); (hlOf s 0).st = 4 ∧ (hlOf s 0).tapsWarm = true
      ∧ 2 ≤ (recent s 60 (hlOf s 0).retrainTimes).length) := by decide +kernel
theorem witness_HeliostatPortsChangeState_release : ∀ v, canWrite (agent 1 (hlPort job0 7 id)) dreq 0x4D80 4 [v] (sess 1) :=
  fun _ => agent_writes _ _ _ _ _ rfl (by decide +kernel)
theorem witness_HeliostatPortsChangeState_ports : 63 < (64 : Byte).toNat ∧ (63 : Byte).toNat ≤ 63 ∧ (hlOf (agent 1 (hlPort job0 7 id)) (0 : Byte).toNat).st = 7
    ∧ (hlOf (agent 1 (hlPort job0 7 id)) (63 : Byte).toNat).st ≠ 7 := by decide +kernel

theorem witness_HeliostatFlitsAndHops_flits : let s := hlPort job0 4 (fun h => { h with rxSeq := 4095 })
    ((hlOf (hlPort job0 2 id) 0).st ≠ 3 ∧ (hlOf (hlPort job0 2 id) 0).st ≠ 4 ∧ (hlOf (hlPort job0 2 id) 0).st ≠ 5) ∧ (hlOf s 0).st = 4
    ∧ 3 < flKind (flit 4 0 0 0 []) ∧ 3 < flClass (flit 1 0 4 0 []) ∧ (flKind (flit 2 0 3 7 []) = 2 ∧ flClass (flit 2 0 3 7 []) ≤ 3)
    ∧ (let f := flit 1 4094 3 0 []; flKind f = 1 ∧ flClass f ≤ 3 ∧ flSeq f ≠ (hlOf s 0).rxSeq.toNat)
    ∧ (let f := flit 1 4095 0 0 []; flSeq f = (hlOf s 0).rxSeq.toNat ∧ hlClassFault s 0 (flClass f) = none)
    ∧ (let f := flit 1 4095 2 0 []; flSeq f = (hlOf s 0).rxSeq.toNat ∧ hlClassFault s 0 (flClass f) = some 2)
    ∧ (flit 1 0 0 0 []).length = 256 := by decide +kernel
theorem witness_HeliostatFlitsAndHops_replays :
    (hlOf (hlPort job0 5 id) 0).unacked = [] ∧ (hlOf (hlPort job0 3 (fun h => { h with unacked := [(0, 0, [])] })) 0).unacked ≠ []
    ∧ (let h := hlOf (hlPort job0 5 (fun h => { h with unacked := [(0, 0, [])], replays := 6 })) 0; h.st = 5 ∧ h.replays < 7 ∧ h.replayTimes.length < 1024)
    ∧ (let h := hlOf (hlPort job0 4 (fun h => { h with unacked := [(0, 0, [])], replays := 7 })) 0; h.st = 4 ∧ 7 ≤ h.replays ∧ h.tapsWarm = false) := by
  decide +kernel
def busy2 : Job := regioned 2 { wave0 with busy := true }
theorem witness_HeliostatFlitsAndHops_handoff :
    hopOn on 0 0 = false ∧ hopOn (hlPort job0 5 id) 0 0 = true
    ∧ (hlOf (hlPort job0 5 (fun h => { h with ackedStep := some 3 })) 0).ackedStep = some 3 ∧ (hlOf (hlPort job0 5 id) 0).ackedStep ≠ some 3
    ∧ (regionRun (hlPort (regioned 0 wave0) 5 id) 0 0).busy = false ∧ waveAt (regionRun (hlPort (regioned 0 wave0) 5 id) 0 0) = true
    ∧ (regionRun (hlPort job0 5 id) 0 0).busy = false ∧ waveAt (regionRun (hlPort job0 5 id) 0 0) = false := by decide +kernel
theorem witness_HeliostatFlitsAndHops_ack :
    jobOf on 0 = none
    ∧ (let s := hlPort busy2 5 (fun h => { h with sentStep := some 3 }); let x := regionRun s 0 (hopRegion busy2)
      jobOf s 0 = some busy2 ∧ hopOn s 0 0 = true ∧ (hlOf s 0).sentStep = some 3 ∧ x.busy = true ∧ x.stepNum = 3 ∧ x.prefill = []
      ∧ (x.decode.map (fun e => e.1)).Nodup ∧ isBino s 0 = false ∧ (hlOf s 0).sentStep ≠ some 4)
    ∧ (let s := hlPort job0 5 (fun h => { h with sentStep := some 3 }); jobOf s 0 = some job0 ∧ hopOn s 0 0 = true
      ∧ (hlOf s 0).sentStep = some 3 ∧ (regionRun s 0 (hopRegion job0)).busy = false) := by decide +kernel

end Sys2Proof.Tests
end

section
/-! PROOF. Register messages (R6, R168 to R170): what a read and a write of a register do in each case, and what a write leaves in
the registers of a core. -/

namespace Sys2Proof.Machine

/-! Bits of a register under a mask (R6). -/

theorem bitOf_eq_testBit (x i : Nat) : bitOf x i = x.testBit i := by
  rw [bitOf, Nat.testBit_eq_decide_div_mod_eq, beq_eq_decide]

/-- A masked write takes the bits of the mask from the value written and keeps the others. -/
theorem bitOf_maskBits (old v : Nat) {mask : Nat} (hm : mask < 2 ^ 64) {b : Nat} (hb : b < 64) :
    bitOf (maskBits old v mask % 2 ^ 64) b = if bitOf mask b then bitOf v b else bitOf old b := by
  have hc : (all64 - mask).testBit b = !mask.testBit b := by
    have e : all64 - mask = 2 ^ 64 - (mask + 1) := by unfold all64; omega
    rw [e, Nat.testBit_two_pow_sub_succ hm]; simp [hb]
  simp only [bitOf_eq_testBit, maskBits, Nat.testBit_mod_two_pow, Nat.testBit_or, Nat.testBit_and, hc, hb]
  cases mask.testBit b <;> simp

/-! Frames of the updates that a register write makes. -/

theorem onlyCore_updCore (s : State) (c : Nat) (f : CoreState → CoreState) : onlyCore s (updCore s c f) c :=
  ⟨rfl, fun _ h => coreOf_updCore_ne s c f h⟩
theorem onlyCore_setCreg (s : State) (c off v : Nat) : onlyCore s (setCreg s c off v) c := onlyCore_updCore ..
theorem onlyCore_setSem (s : State) (c n v : Nat) : onlyCore s (setSem s c n v) c := onlyCore_updCore ..

/-- The messages in flight and the events raised show in no register. -/
@[simp] theorem regRead_landCtrl (s : State) (m : CtrlMsg) (r : RegSpace) (off : Nat) :
    regRead (landCtrl s m) r off = regRead s r off := by cases r <;> rfl
theorem regRead_regError (s : State) (m : CtrlMsg) (code : Nat) (r : RegSpace) (off : Nat) :
    regRead (regError s m code) r off = regRead s r off := by cases r <;> rfl
@[simp] theorem writable_landCtrl (s : State) (m : CtrlMsg) (r : RegSpace) (off : Nat) (q : Requester) (urgent : Bool) (i : RegInfo) :
    writable (landCtrl s m) r off q urgent i = writable s r off q urgent i := rfl

/-- A claim touches its control core alone. -/
theorem claimAt_frame (s : State) (i : Nat) : claimAt s i = { s with ccs := (claimAt s i).ccs } := by
  unfold claimAt; split <;> rfl
theorem ccOf_claimAt_landCtrl (s : State) (m : CtrlMsg) (i : Nat) : ccOf (claimAt (landCtrl s m) i) i = ccOf (claimAt s i) i := by
  unfold claimAt
  rw [ccOf_landCtrl]
  cases claimValue (ccOf s i).icu with
  | none => rfl
  | some x => simp only [ccOf_updCc_self, ccOf_landCtrl]

/-! Answers to a register message (R167 to R170). -/

/-- An answer carries the type and the ARG that it was made with. -/
theorem answerTo_fields (m : CtrlMsg) {type len arg : Nat} (ht : type < 16) (hl : len < 4) (ha : arg < 256) (rest : List W32) :
    mType (answerTo m type len arg rest) = type ∧ mArg (answerTo m type len arg rest) = arg := by
  have hd : mSrcDie m < 2 ^ 7 := bitsOf_lt ..
  have hk : mSrcCluster m < 2 ^ 4 := bitsOf_lt ..
  have hc : mSrcCore m < 2 ^ 4 := bitsOf_lt ..
  have hw : msgWord (answerTo m type len arg rest) 0 = type * 2 ^ 28 + mSrcDie m * 2 ^ 21 + mSrcCluster m * 2 ^ 17
      + mSrcCore m * 2 ^ 13 + (if mFromCc m then 2 ^ 12 else 0) + len * 2 ^ 10 + arg := by
    have e : msgWord (answerTo m type len arg rest) 0
        = (msgHeader type (mSrcDie m) (mSrcCluster m) (mSrcCore m) (mFromCc m) len false false arg).toNat := rfl
    rw [e, msgHeader, BitVec.toNat_ofNat]
    cases mFromCc m <;> simp <;> omega
  rw [mType, mArg, hw, bitsOf, bitsOf]
  split <;> omega

/-- An access that the network refuses changes no register and no memory: its ERR and one event are all that it leaves. -/
theorem regError_effect (s : State) (m : CtrlMsg) {code : Nat} (h : code < 256) :
    (∀ q o, regRead (regError s m code) q o = regRead s q o) ∧ memoriesKept s (regError s m code)
    ∧ ∃ a e, (regError s m code).ctrl = s.ctrl ++ [a] ∧ mType a = 3 ∧ mArg a = code
      ∧ (regError s m code).events = s.events ++ [e] ∧ e.code = 0x3010#16 := by
  obtain ⟨ht, ha⟩ := answerTo_fields m (type := 3) (len := 3) (by decide) (by decide) h
    [BitVec.ofNat 32 (mTag m), BitVec.ofNat 32 (msgWord m 2 / 64)]
  exact ⟨regRead_regError s m code, ⟨fun _ => rfl, fun _ => rfl⟩, _, _, rfl, ht, ha, rfl, rfl⟩

/-! The cases of a register message that lands at a register of the map: one equation each. -/

theorem exec_regRd (m : CtrlMsg) (s : State) : exec (.regRd m) s = execRegRd m s := rfl
theorem exec_regWr (m : CtrlMsg) (s : State) : exec (.regWr m) s = execRegWr m s := rfl

section
variable {m : CtrlMsg} {s : State} {r : RegSpace} {i : RegInfo} (hr : msgSpace m = .inl r) (hi : regInfo r (msgWord m 2) = some i)
include hr hi

/-- A read away from ICU_CLAIM is answered with the half that it asks for, and takes nothing. -/
theorem exec_regRd_half (hl : lands s m 4) (hw : bitOf (mArg m) 3 = true → i.wide = true)
    (hc : ∀ cc, regIcu r (msgWord m 2) ≠ some (cc, 0x200)) :
    exec (.regRd m) s = .next (sendCtrl (landCtrl s m) (answerTo m 6 2 (if bitOf (mArg m) 3 then 8 else 0)
      [BitVec.ofNat 32 (if bitOf (mArg m) 3 then regRead s r (msgWord m 2) / 2 ^ 32 else regRead s r (msgWord m 2))])) := by
  have hn : (bitOf (mArg m) 3 && !i.wide) = false := by simpa using hw
  rw [exec_regRd, execRegRd]
  simp only [hl.1, landing_ok _ hl, hr, hi, hn, regRead_landCtrl]
  cases hx : regIcu r (msgWord m 2) with
  | none => rfl
  | some x =>
    have h2 : x.2 ≠ 0x200 := fun h => hc x.1 (by rw [hx, ← h])
    simp [h2]

/-- A read of ICU_CLAIM takes the source that it reads. -/
theorem exec_regRd_claim (hl : lands s m 4) (hh : bitOf (mArg m) 3 = false) {cc : Nat}
    (hc : regIcu r (msgWord m 2) = some (cc, 0x200)) :
    ∃ a, exec (.regRd m) s = .next (sendCtrl (claimAt (landCtrl s m) cc) a) := by
  rw [exec_regRd, execRegRd]
  simp only [hl.1, landing_ok _ hl, hr, hi, hh, hc]
  exact ⟨_, rfl⟩

/-- A 32-bit register has no high half: zero, with the flag. -/
theorem exec_regWr_noHalf (hl : lands s m 5) (hh : bitOf (mArg m) 3 = true) (hw : i.wide = false) :
    exec (.regWr m) s = .next (sendCtrl (landCtrl s m) (answerTo m 6 2 136 [0#32])) := by
  rw [exec_regWr, execRegWr]
  simp [hl.1, landing_ok _ hl, hr, hi, hh, hw]

/-- A write of a register that nobody writes is ignored. -/
theorem exec_regWr_readOnly (hl : lands s m 5) (hw : bitOf (mArg m) 3 = true → i.wide = true) (ho : i.readOnly = true) :
    exec (.regWr m) s = .next (landCtrl s m) := by
  have hn : (bitOf (mArg m) 3 && !i.wide) = false := by simpa using hw
  rw [exec_regWr, execRegWr]
  simp only [hl.1, landing_ok _ hl, hr, hi, hn, ho]
  rfl

/-- A requester that may set and clear no bit is answered ACCESS. -/
theorem exec_regWr_access (hl : lands s m 5) (hw : bitOf (mArg m) 3 = true → i.wide = true) (ho : i.readOnly = false)
    (hm : writable s r (msgWord m 2) (requester m) (mUrgent m) i ||| clearable r (requester m) i = 0) :
    exec (.regWr m) s = .next (regError (landCtrl s m) m 8) := by
  have hn : (bitOf (mArg m) 3 && !i.wide) = false := by simpa using hw
  rw [exec_regWr, execRegWr]
  simp only [hl.1, landing_ok _ hl, hr, hi, hn, ho, writable_landCtrl, hm]
  rfl

section
variable (hl : lands s m 5) (ho : i.readOnly = false)
  (hm : writable s r (msgWord m 2) (requester m) (mUrgent m) i ||| clearable r (requester m) i ≠ 0)
include hl ho hm

/-- A 32-bit register is written when the message lands. -/
theorem exec_regWr_narrow (hh : bitOf (mArg m) 3 = false) (hw : i.wide = false) :
    exec (.regWr m) s = .next (regWrite (landCtrl s m) r (msgWord m 2) (msgWord m 3)
      (writable s r (msgWord m 2) (requester m) (mUrgent m) i) (clearable r (requester m) i)) := by
  rw [exec_regWr, execRegWr]
  simp only [hl.1, landing_ok _ hl, hr, hi, hh, hw, ho, writable_landCtrl, hm]
  rfl

/-- The low half of a 64-bit register is held for its requester. -/
theorem exec_regWr_low (hh : bitOf (mArg m) 3 = false) (hw : i.wide = true) :
    ∃ l, exec (.regWr m) s = .next { landCtrl s m with lowHalf := l }
      ∧ ((halfKey m).1, (halfKey m).2, msgWord m 2, BitVec.ofNat 32 (msgWord m 3)) ∈ l := by
  rw [exec_regWr, execRegWr]
  simp only [hl.1, landing_ok _ hl, hr, hi, hh, hw, ho, writable_landCtrl, hm]
  exact ⟨_, rfl, by simp⟩

/-- The high half writes the 64-bit register, with the low half that is held for the requester. -/
theorem exec_regWr_high (hh : bitOf (mArg m) 3 = true) (hw : i.wide = true) {low : W32}
    (hf : s.lowHalf.find? (fun e => e.1 == (halfKey m).1 && e.2.1 == (halfKey m).2 && e.2.2.1 == msgWord m 2)
      = some ((halfKey m).1, (halfKey m).2, msgWord m 2, low)) :
    ∃ l, exec (.regWr m) s = .next (regWrite { landCtrl s m with lowHalf := l } r (msgWord m 2)
      (msgWord m 3 * 2 ^ 32 + low.toNat) (writable s r (msgWord m 2) (requester m) (mUrgent m) i) (clearable r (requester m) i)) := by
  rw [exec_regWr, execRegWr]
  simp only [hl.1, landing_ok _ hl, hr, hi, hh, hw, ho, writable_landCtrl, hm, landCtrl_lowHalf, hf]
  exact ⟨_, rfl⟩

end
end

/-! What a write does in a core's registers: one equation for each kind of register. -/

/-- A register with no rule of its own takes the masked value. -/
theorem regWrite_core_plain (s : State) (c v mask w1c : Nat) {off : Nat} (h20 : off ≠ 0x20) (h50 : off ≠ 0x50) (h320 : off ≠ 0x320)
    (hs : off < 0x100 ∨ 0x200 ≤ off) (hr : off < 0x400) :
    regWrite s (.core c) off v mask w1c = setCreg s c off (maskBits (creg s c off) v mask) := by
  have hsem : (decide (0x100 ≤ off) && decide (off < 0x200)) = false := by simp; omega
  have h8 : ¬ 0x800 ≤ off := by omega
  have h4 : ¬ 0x400 ≤ off := by omega
  simp [regWrite, coreWrite, h20, h50, h320, hsem, h8, h4]

/-- A semaphore takes the low 16 bits, unless the sequencer runs (R141). -/
theorem regWrite_core_sem (s : State) (c v mask w1c : Nat) {n : Nat} (h : n < 32) :
    regWrite s (.core c) (0x100 + 8 * n) v mask w1c = if (coreOf s c).run then s else setSem s c n (v % 65536) := by
  have h20 : 0x100 + 8 * n ≠ 0x20 := by omega
  have h50 : 0x100 + 8 * n ≠ 0x50 := by omega
  have hsem : (decide (0x100 ≤ 0x100 + 8 * n) && decide (0x100 + 8 * n < 0x200)) = true := by simp; omega
  have hn : (0x100 + 8 * n - 0x100) / 8 = n := by omega
  simp only [regWrite, coreWrite, h20, h50, hsem, hn, if_false, if_true]

/-- A running sequencer ignores a write of SEQ_RESUME (R141). -/
theorem regWrite_core_resume_running (s : State) (c v mask w1c : Nat) (h : (coreOf s c).run = true) :
    regWrite s (.core c) 0x50 v mask w1c = s := by simp [regWrite, coreWrite, h]

/-- A write of SEQ_CTRL that neither runs nor halts sets BASE alone (log entry 46). -/
theorem regWrite_core_base (s : State) (c v mask w1c : Nat) (hrun : bitOf v 31 = false) (hhalt : bitOf v 30 = false) :
    regWrite s (.core c) 0x20 v mask w1c = updCore s c (fun t => { t with base := BitVec.ofNat 17 (bitsOf v 20 4) }) := by
  simp [regWrite, coreWrite, hrun, hhalt]

/-- QACT_THETA is written between jobs alone (R82). -/
theorem regWrite_core_theta (s : State) (c v mask w1c : Nat) :
    regWrite s (.core c) 0x320 v mask w1c = if betweenJobs s c then setCreg s c 0x320 (v % 2 ^ 32) else s := by
  simp [regWrite, coreWrite]

/-- A core's counters and plain registers under a masked write: masked bits are written, every other bit, register and unit stays. -/
theorem regWrite_core_masked (s : State) (c v w1c : Nat) {mask off : Nat} (hm : mask < 2 ^ 64)
    (hoff : off ∈ [0x30, 0x38, 0x200, 0x208, 0x210, 0x300, 0x308, 0x310, 0x318, 0x340, 0x348, 0x350, 0x358, 0x360, 0x370, 0x378, 0x380]) :
    (∀ b, b < 64 → bitOf (creg (regWrite s (.core c) off v mask w1c) c off) b
      = if bitOf mask b then bitOf v b else bitOf (creg s c off) b)
    ∧ (∀ o, o ≠ off → creg (regWrite s (.core c) off v mask w1c) c o = creg s c o)
    ∧ onlyCore s (regWrite s (.core c) off v mask w1c) c := by
  have hplain : off ≠ 0x20 ∧ off ≠ 0x50 ∧ off ≠ 0x320 ∧ (off < 0x100 ∨ 0x200 ≤ off) ∧ off < 0x400 := by
    revert off; decide
  obtain ⟨h20, h50, h320, hs, hr⟩ := hplain
  rw [regWrite_core_plain s c v mask w1c h20 h50 h320 hs hr]
  refine ⟨fun b hb => ?_, fun o ho => creg_setCreg_off s c off _ ho, onlyCore_setCreg ..⟩
  rw [creg_setCreg_self, bitOf_maskBits _ _ hm hb]

/-- Settles O28: each clause is the equation of its case, of the message or of the register written. -/
theorem registerMessagesAct : Obligations.RegisterMessagesAct := by
  unfold Obligations.RegisterMessagesAct
  refine ⟨fun m s r i => ?_, fun s c v mask w1c hm => ⟨fun off ho => ?_, fun n hn => ⟨fun hrun => ?_, fun hrun => ?_⟩,
    regWrite_core_resume_running s c v mask w1c, fun hrun hhalt => ?_, fun hj => ?_, fun hj => ?_⟩⟩
  · intro off high mask w1c hr hi
    refine ⟨fun hl hw hc => ?_, fun cc hc hl hh => ?_, exec_regWr_noHalf hr hi, exec_regWr_readOnly hr hi,
      fun hl hw ho hm => ?_, fun hl hh hw ho hm => exec_regWr_narrow hr hi hl ho hm hh hw, fun hl hh hw ho hm => ?_,
      fun low hl hh hw ho hm hf => ?_⟩
    · exact exec_regRd_half hr hi hl hw hc
    · obtain ⟨a, ha⟩ := exec_regRd_claim hr hi hl hh hc
      refine ⟨_, ha, ccOf_claimAt_landCtrl s m cc, ?_⟩
      rw [claimAt_frame]
      exact ⟨fun _ => rfl, fun _ => rfl⟩
    · obtain ⟨hreg, hmem, hans⟩ := regError_effect (landCtrl s m) m (code := 8) (by decide)
      exact ⟨_, exec_regWr_access hr hi hl hw ho hm, fun q o => (hreg q o).trans (regRead_landCtrl ..), hmem, hans⟩
    · obtain ⟨l, he, hmem⟩ := exec_regWr_low hr hi hl ho hm hh hw
      exact ⟨_, he, rfl, hmem⟩
    · obtain ⟨l, he⟩ := exec_regWr_high hr hi hl ho hm hh hw hf
      exact ⟨_, he, rfl⟩
  · exact regWrite_core_masked s c v w1c hm ho
  · rw [regWrite_core_sem s c v mask w1c hn, if_pos hrun]
  · rw [regWrite_core_sem s c v mask w1c hn, if_neg (by simp [hrun])]
    refine ⟨?_, fun k hk => semOf_setSem_num s c n _ hk, onlyCore_setSem ..⟩
    rw [semOf_setSem_self]
    exact Nat.mod_mod v 65536
  · rw [regWrite_core_base s c v mask w1c hrun hhalt]
    exact ⟨onlyCore_updCore .., coreOf_updCore_self ..⟩
  · rw [regWrite_core_theta, if_neg (by simp [hj])]
  · rw [regWrite_core_theta, if_pos hj, creg_setCreg_self]
    omega

end Sys2Proof.Machine
end

section
/-! PROOF. Frames of the operations that partitions, jobs and their steps share: which parts of the state each one leaves as it was. -/

namespace Sys2Proof.Machine

/-! Folds over the state. -/

/-- A fold keeps what every one of its steps keeps. -/
theorem foldl_keeps {α β : Type} (g : State → β) (f : State → α → State) :
    ∀ (l : List α) (s : State), (∀ t, ∀ a ∈ l, g (f t a) = g t) → g (l.foldl f s) = g s
  | [], _, _ => rfl
  | a :: l, s, h => (foldl_keeps g f l (f s a) (fun t b hb => h t b (by simp [hb]))).trans (h s a (by simp))

/-- What the step for one element brings about, and the steps for others keep, holds after a fold over a list with that element. -/
theorem foldl_sets {α β : Type} (g : State → β) (f : State → α → State) (P : β → Prop) {a : α}
    (ha : ∀ t, P (g (f t a))) (hb : ∀ t b, b ≠ a → g (f t b) = g t) :
    ∀ (l : List α) (s : State), P (g s) ∨ a ∈ l → P (g (l.foldl f s))
  | [], _, h => by simpa using h
  | b :: l, s, h => by
    refine foldl_sets g f P ha hb l (f s b) ?_
    by_cases e : b = a
    · exact .inl (e ▸ ha s)
    · rw [hb s b e]
      exact h.imp_right (fun h => (List.mem_cons.1 h).resolve_left (Ne.symm e))

/-- A relation of states that a fold's steps respect holds from its start to its end. -/
theorem foldl_rel {α : Type} {R : State → State → Prop} (refl : ∀ s, R s s) (trans : ∀ {s t u}, R s t → R t u → R s u)
    {f : State → α → State} (h : ∀ s a, R s (f s a)) : ∀ (l : List α) (s : State), R s (l.foldl f s)
  | [], s => refl s
  | a :: l, s => trans (h s a) (foldl_rel refl trans h l (f s a))

/-! Memories. -/

theorem memoriesKept_refl (s : State) : memoriesKept s s := ⟨fun _ => rfl, fun _ => rfl⟩
theorem memoriesKept_trans {s t u : State} (h : memoriesKept s t) (g : memoriesKept t u) : memoriesKept s u :=
  ⟨fun c => (g.1 c).trans (h.1 c), fun k => (g.2 k).trans (h.2 k)⟩
/-- Where neither the cores nor the clusters differ, no memory differs. -/
theorem memoriesKept_of_eq {s t : State} (hc : t.cores = s.cores) (hk : t.clusters = s.clusters) : memoriesKept s t :=
  ⟨fun c => by simp [coreOf, hc], fun k => by simp [clOf, hk]⟩
theorem memoriesKept_updCl (s : State) (k : Nat) {f : ClusterState → ClusterState} (h : ∀ v, (f v).vault = v.vault) :
    memoriesKept s (updCl s k f) :=
  ⟨fun _ => rfl, fun j => by rw [clOf_updCl]; split <;> simp_all⟩
theorem memoriesKept_updCore (s : State) (c : Nat) {f : CoreState → CoreState} (h : ∀ v, (f v).spad = v.spad) :
    memoriesKept s (updCore s c f) :=
  ⟨fun d => by rw [coreOf_updCore]; split <;> simp_all, fun _ => rfl⟩

theorem memoriesKept_bumpC (s : State) (c off hi lo n : Nat) : memoriesKept s (bumpC s c off hi lo n) := by
  unfold bumpC; split
  · exact memoriesKept_refl s
  · exact memoriesKept_updCore s c (fun _ => rfl)

/-! Units: operations that change cores, routers, clusters and the count of free values alone. -/

def onlyUnits (s t : State) : Prop := t = { s with cores := t.cores, routers := t.routers, clusters := t.clusters, free := t.free }
theorem onlyUnits_refl (s : State) : onlyUnits s s := rfl
theorem onlyUnits_trans {s t u : State} (h : onlyUnits s t) (g : onlyUnits t u) : onlyUnits s u := by
  unfold onlyUnits at *; rw [g, h]
theorem onlyUnits_foldl {α : Type} {f : State → α → State} (h : ∀ s a, onlyUnits s (f s a)) (l : List α) (s : State) :
    onlyUnits s (l.foldl f s) := foldl_rel onlyUnits_refl onlyUnits_trans h l s
theorem onlyUnits_updCore (s : State) (c : Nat) (f : CoreState → CoreState) : onlyUnits s (updCore s c f) := rfl
theorem onlyUnits_updCl (s : State) (k : Nat) (f : ClusterState → ClusterState) : onlyUnits s (updCl s k f) := rfl
theorem onlyUnits_updRouter (s : State) (r : Nat) (f : RouterState → RouterState) : onlyUnits s (updRouter s r f) := rfl
theorem onlyUnits_bumpC (s : State) (c off hi lo n : Nat) : onlyUnits s (bumpC s c off hi lo n) := by
  unfold bumpC; split <;> rfl
theorem onlyUnits.parts_eq {s t : State} (h : onlyUnits s t) : t.parts = s.parts := by rw [h]
theorem onlyUnits.objs_eq {s t : State} (h : onlyUnits s t) : t.objs = s.objs := by rw [h]

/-- Background traffic of a vault counts in its cluster alone, and its vault stays as it is (R132, R150). -/
theorem vaultPass_frame (s : State) (k a n : Nat) : onlyGrants s (vaultPass s k a n) k := by
  unfold vaultPass vaultWork
  split
  · exact onlyGrants_refl s k
  · refine onlyGrants_trans (t := bumpK s k 0x10 63 32 (burstsOf a n)) ?_ (onlyGrants_free (onlyGrants_setKreg ..) _)
    unfold bumpK; split
    · exact onlyGrants_refl s k
    · exact onlyGrants_setKreg ..
theorem onlyGrants.units {s t : State} {k : Nat} (h : onlyGrants s t k) : onlyUnits s t := by
  unfold onlyUnits; rw [h.1]
theorem onlyUnits_vaultPass (s : State) (k a n : Nat) : onlyUnits s (vaultPass s k a n) := (vaultPass_frame s k a n).units

/-! Books: operations that change clusters, the queues toward the host, partitions, events and the count of free values alone. -/

def onlyBooks (s t : State) : Prop :=
  t = { s with clusters := t.clusters, wl := t.wl, parts := t.parts, events := t.events, free := t.free }
theorem onlyBooks_refl (s : State) : onlyBooks s s := rfl
theorem onlyBooks_trans {s t u : State} (h : onlyBooks s t) (g : onlyBooks t u) : onlyBooks s u := by
  unfold onlyBooks at *; rw [g, h]
theorem onlyBooks_foldl {α : Type} {f : State → α → State} (h : ∀ s a, onlyBooks s (f s a)) (l : List α) (s : State) :
    onlyBooks s (l.foldl f s) := foldl_rel onlyBooks_refl onlyBooks_trans h l s
theorem onlyBooks_updCl (s : State) (k : Nat) (f : ClusterState → ClusterState) : onlyBooks s (updCl s k f) := rfl
theorem onlyBooks_updWl (s : State) (n : Nat) (f : WlState → WlState) : onlyBooks s (updWl s n f) := rfl
theorem onlyBooks_updJob (s : State) (p : Nat) (f : Job → Job) : onlyBooks s (updJob s p f) := rfl
theorem onlyBooks_stwEvent (s : State) (code sev : Nat) (p req : Option Nat) (d : Bytes) : onlyBooks s (stwEvent s code sev p req d) := rfl
theorem onlyBooks_queueWrite (s : State) (q units : Nat) (b : Bytes) : onlyBooks s (queueWrite s q units b) := by
  unfold onlyBooks; rw [queueWrite_frame]
theorem onlyBooks_vaultPass (s : State) (k a n : Nat) : onlyBooks s (vaultPass s k a n) := by
  unfold onlyBooks; rw [(vaultPass_frame s k a n).1]

/-! Definitions and jobs of the partitions. -/

/-- Every partition has the definition and the job that it had. -/
def jobsKept (s t : State) : Prop := ∀ q, (partOf t q).pdef = (partOf s q).pdef ∧ (partOf t q).job = (partOf s q).job
theorem jobsKept_refl (s : State) : jobsKept s s := fun _ => ⟨rfl, rfl⟩
theorem jobsKept_trans {s t u : State} (h : jobsKept s t) (g : jobsKept t u) : jobsKept s u :=
  fun q => ⟨(g q).1.trans (h q).1, (g q).2.trans (h q).2⟩
theorem jobsKept_of_parts {s t : State} (h : t.parts = s.parts) : jobsKept s t := fun q => by simp [partOf, h]
theorem jobsKept_updPart (s : State) (p : Nat) {f : PartState → PartState} (hd : ∀ v, (f v).pdef = v.pdef)
    (hj : ∀ v, (f v).job = v.job) : jobsKept s (updPart s p f) := fun q => by
  rw [partOf_updPart]; split <;> simp_all
theorem jobsKept.job {s t : State} (h : jobsKept s t) (q : Nat) : jobOf t q = jobOf s q := (h q).2
theorem jobsKept.def {s t : State} (h : jobsKept s t) (q : Nat) : partDef t q = partDef s q := congrArg _ (h q).1

/-- The books are kept, with every partition's definition and job. -/
def onlyRecords (s t : State) : Prop := onlyBooks s t ∧ jobsKept s t
theorem onlyRecords_refl (s : State) : onlyRecords s s := ⟨onlyBooks_refl s, jobsKept_refl s⟩
theorem onlyRecords_trans {s t u : State} (h : onlyRecords s t) (g : onlyRecords t u) : onlyRecords s u :=
  ⟨onlyBooks_trans h.1 g.1, jobsKept_trans h.2 g.2⟩
theorem onlyRecords_foldl {α : Type} {f : State → α → State} (h : ∀ s a, onlyRecords s (f s a)) (l : List α) (s : State) :
    onlyRecords s (l.foldl f s) := foldl_rel onlyRecords_refl onlyRecords_trans h l s
theorem onlyRecords_updPart (s : State) (p : Nat) {f : PartState → PartState} (hd : ∀ v, (f v).pdef = v.pdef)
    (hj : ∀ v, (f v).job = v.job) : onlyRecords s (updPart s p f) := ⟨rfl, jobsKept_updPart s p hd hj⟩
theorem onlyRecords_updCl (s : State) (k : Nat) (f : ClusterState → ClusterState) : onlyRecords s (updCl s k f) :=
  ⟨rfl, jobsKept_refl s⟩
theorem onlyRecords_stwEvent (s : State) (code sev : Nat) (p req : Option Nat) (d : Bytes) :
    onlyRecords s (stwEvent s code sev p req d) := ⟨rfl, jobsKept_refl s⟩
theorem onlyRecords_queueWrite (s : State) (q units : Nat) (b : Bytes) : onlyRecords s (queueWrite s q units b) :=
  ⟨onlyBooks_queueWrite .., jobsKept_of_parts (by rw [queueWrite_frame])⟩
theorem onlyRecords_vaultPass (s : State) (k a n : Nat) : onlyRecords s (vaultPass s k a n) :=
  ⟨onlyBooks_vaultPass .., jobsKept_of_parts (onlyUnits_vaultPass s k a n).parts_eq⟩

/-! The Logbook (R390, R391). -/

theorem logPost_frame (s : State) (q : Nat) (b : Bytes) : onlyRecords s (logPost s q b) := by
  unfold logPost
  cases queueAt s q with
  | none => exact onlyRecords_refl s
  | some w =>
    refine onlyRecords_trans (t := if logPad w (b.length / 32) = 0 then s else queueWrite s q _ _) ?_ (onlyRecords_queueWrite ..)
    split
    · exact onlyRecords_refl s
    · exact onlyRecords_queueWrite ..
theorem logStall_frame (s : State) (p : Nat) : onlyRecords s (logStall s p) := by
  unfold logStall; split
  · exact onlyRecords_refl s
  · refine onlyRecords_trans ?_ (onlyRecords_stwEvent ..)
    exact onlyRecords_updPart s p (fun _ => rfl) (fun _ => rfl)
/-- A record of the Logbook changes no job. -/
theorem logInput_frame (s : State) (p type flags : Nat) (req index : Option Nat) (payload : Bytes) :
    onlyRecords s (logInput s p type flags req index payload) := by
  unfold logInput
  split
  · dsimp only
    split
    · refine onlyRecords_trans ?_ (logPost_frame ..)
      exact onlyRecords_updPart s p (fun _ => rfl) (fun _ => rfl)
    · refine onlyRecords_trans ?_ (logStall_frame ..)
      refine onlyRecords_trans (t := updPart s p _) ?_ (onlyRecords_updPart _ p (fun _ => rfl) (fun _ => rfl))
      exact onlyRecords_updPart s p (fun _ => rfl) (fun _ => rfl)
  · exact onlyRecords_refl s

/-- Reads of host memory are messages of their port, and change no other part (R525, R526). -/
theorem hostFetch_frame (s : State) (n addr len got : Nat) : hostFetch s n addr len got = { s with wl := (hostFetch s n addr len got).wl } :=
  foldl_rel (R := fun s t => t = { s with wl := t.wl }) (fun _ => rfl) (fun h g => by rw [g, h]) (fun _ _ => rfl) _ s

/-- θ_next of a partition is one of its records (R76). -/
theorem setTheta_frame (s : State) (p : Nat) (theta : F32) (warm : Bool) : onlyRecords s (setTheta s p theta warm) := by
  unfold setTheta
  dsimp only
  split
  · exact onlyRecords_updPart s p (fun _ => rfl) (fun _ => rfl)
  · refine onlyRecords_trans ?_ (onlyRecords_stwEvent ..)
    exact onlyRecords_updPart s p (fun _ => rfl) (fun _ => rfl)
theorem setTheta_memories (s : State) (p : Nat) (theta : F32) (warm : Bool) : memoriesKept s (setTheta s p theta warm) := by
  unfold setTheta; simp only; split <;> exact memoriesKept_refl s

/-- Dropping the epochs of a partition empties the directories of its vaults, and leaves what the vaults hold (R324). -/
theorem dropEpochs_frame (s : State) (p : Nat) : onlyRecords s (dropEpochs s p) ∧ memoriesKept s (dropEpochs s p) := by
  unfold dropEpochs setEpochs
  constructor
  · refine onlyRecords_trans (onlyRecords_foldl (fun t k => ?_) (partClusters s p) s)
      (onlyRecords_updPart _ p (fun _ => rfl) (fun _ => rfl))
    split
    · exact onlyRecords_refl t
    · exact onlyRecords_updCl ..
  · refine memoriesKept_trans (foldl_rel memoriesKept_refl memoriesKept_trans (fun t k => ?_) (partClusters s p) s)
      (memoriesKept_of_eq rfl rfl)
    split
    · exact memoriesKept_refl t
    · exact memoriesKept_updCl t k (fun _ => rfl)

end Sys2Proof.Machine
end

section
/-! PROOF. Steps of a region (R40, R249 to R251, R276, R357): how REGION_STEP begins a step, fills the wavefronts of the embedding
share, and ends a step whose parts have reported. -/

namespace Sys2Proof.Machine

/-! The run of a region. -/

theorem jobOf_of_parts {s t : State} (h : t.parts = s.parts) (p : Nat) : jobOf t p = jobOf s p := by simp [jobOf, partOf, h]
/-- The runs of a partition's regions stand in its job. -/
theorem regionRun_of_job {s t : State} {p : Nat} (h : jobOf t p = jobOf s p) (r : Nat) : regionRun t p r = regionRun s p r := by
  unfold regionRun; rw [h]
theorem regionRun_of_parts {s t : State} (h : t.parts = s.parts) (p r : Nat) : regionRun t p r = regionRun s p r :=
  regionRun_of_job (jobOf_of_parts h p) r

theorem regionRun_job {s : State} {p : Nat} {j : Job} (h : jobOf s p = some j) (r : Nat) :
    regionRun s p r = getN regionRunZero j.regions r := by unfold regionRun; rw [h]

section
variable {s : State} {p : Nat} {j : Job} (hj : jobOf s p = some j)
include hj

theorem jobOf_updRegion (r : Nat) (f : RegionRun → RegionRun) :
    jobOf (updRegion s p r f) p = some { j with regions := updN regionRunZero j.regions r f } := by
  simp [updRegion, hj]
/-- An update of a region changes its run, and no other region's. -/
theorem regionRun_updRegion_self (r : Nat) (f : RegionRun → RegionRun) : regionRun (updRegion s p r f) p r = f (regionRun s p r) := by
  rw [regionRun_job (jobOf_updRegion hj r f), regionRun_job hj, getN_updN_self]
theorem regionRun_updRegion_ne {r q : Nat} (h : q ≠ r) (f : RegionRun → RegionRun) :
    regionRun (updRegion s p r f) p q = regionRun s p q := by
  rw [regionRun_job (jobOf_updRegion hj r f), regionRun_job hj, getN_updN_ne _ _ h]
end
theorem memoriesKept_updRegion (s : State) (p r : Nat) (f : RegionRun → RegionRun) : memoriesKept s (updRegion s p r f) :=
  memoriesKept_of_eq rfl rfl

/-! The arrays of a row (R249, R250). -/

/-- Writing the rows of a region changes cores and clusters alone. -/
theorem writeRows_frame (s : State) (p r : Nat) (j : Job) : onlyUnits s (writeRows s p r j) := by
  unfold writeRows
  dsimp only
  split
  · exact onlyUnits_refl s
  · refine onlyUnits_foldl (fun t a => ?_) _ s
    split
    · exact onlyUnits_refl t
    · split
      · exact onlyUnits_updCl ..
      · exact onlyUnits_updCore ..

/-- Where the layout has one array for the region, and its row has segments, that array is all that is written. -/
theorem writeRows_single {s : State} {p r : Nat} {j : Job} {f : LayoutFile} {a : ArrayPlace} (hf : j.file = some f)
    (ha : f.body.arrays.filter (fun a => a.region == r) = [a]) (hr : (waveRow (regionRun s p r) a.prefill a.row).1 ≠ []) :
    let row := waveRow (regionRun s p r) a.prefill a.row; let c := fileCore s p f j.detour (a.rx, a.ry)
    let b := rowArray s a.what row.1 row.2
    writeRows s p r j = if a.what = .sampling then vaultWrite s (clusterOf c) a.off b else spadWrite s c a.off b := by
  simp [writeRows, hf, ha, hr]

/-! A step begins (R276). -/

/-- A region that begins its step has its rows written; of its run only the step's own marks are set, and no other region's run
differs. -/
theorem beginStep_effect {s : State} {p : Nat} {j : Job} (hj : jobOf s p = some j) (r : Nat) (k : Job) :
    regionRun (beginStep s p r k) p r = { regionRun s p r with
        busy := true, startAt := s.units, replays := 0, trips := 0, trapped := [], lastFault := none, nfSeen := false }
    ∧ (∀ q, q ≠ r → regionRun (beginStep s p r k) p q = regionRun s p q)
    ∧ memoriesKept (writeRows s p r k) (beginStep s p r k)
    ∧ ∃ l, jobOf (beginStep s p r k) p = some { j with regions := l } := by
  have hp := (writeRows_frame s p r k).parts_eq
  have hw : jobOf (writeRows s p r k) p = some j := (jobOf_of_parts hp p).trans hj
  have run := regionRun_of_parts hp p
  unfold beginStep
  refine ⟨?_, fun q hq => ?_, memoriesKept_updRegion .., _, jobOf_updRegion hw r _⟩
  · rw [regionRun_updRegion_self hw, run]
  · rw [regionRun_updRegion_ne hw hq, run]

/-- The bank's semaphore changes no partition and no memory (R323). -/
theorem signalSem_units (s : State) (c n count : Nat) (by_ : Option (Nat × Nat)) :
    (signalSem s c n count by_).1.parts = s.parts ∧ memoriesKept s (signalSem s c n count by_).1 := by
  refine ⟨?_, fun d => by rw [signalSem_core], fun k => ?_⟩
  all_goals unfold signalSem; split <;> simp
theorem signalBank_frame (s : State) (p : Nat) (j : Job) (h : Nat) :
    (signalBank s p j h).parts = s.parts ∧ memoriesKept s (signalBank s p j h) := by
  unfold signalBank
  split
  · split
    · exact ⟨foldl_keeps State.parts _ _ s (fun t c _ => (signalSem_units t c _ _ _).1),
        foldl_rel memoriesKept_refl memoriesKept_trans (fun t c => (signalSem_units t c _ _ _).2) _ s⟩
    · exact ⟨rfl, memoriesKept_refl s⟩
  · exact ⟨rfl, memoriesKept_refl s⟩
/-- Marking the draws of a wavefront changes requests alone. -/
theorem markDraws_frame (s : State) (w : Wave) : markDraws s w = { s with reqs := (markDraws s w).reqs } := by
  have upd : ∀ (t : State) (h : Nat) (f : Request → Request), updReq t h f = { t with reqs := (updReq t h f).reqs } := fun t h f => by
    unfold updReq; split <;> rfl
  have fold : ∀ (l : List Segment) (f : Segment → Request → Request) (t : State),
      l.foldl (fun s e => updReq s e.slot (f e)) t = { t with reqs := (l.foldl (fun s e => updReq s e.slot (f e)) t).reqs } := fun l f t =>
    foldl_rel (R := fun s t => t = { s with reqs := t.reqs }) (fun _ => rfl) (fun h g => by rw [g, h]) (fun s e => upd s e.slot (f e)) l t
  unfold markDraws
  dsimp only
  rw [fold w.prefill, fold w.decode]

/-! A step ends (R357). -/

/-- Abandoned shadow recomputations leave every memory as it is (R107). -/
theorem skipShadows_frame (s : State) (cs : List Nat) : onlyUnits s (skipShadows s cs) ∧ memoriesKept s (skipShadows s cs) := by
  unfold skipShadows
  refine ⟨onlyUnits_foldl (fun t c => ?_) cs s, foldl_rel memoriesKept_refl memoriesKept_trans (fun t c => ?_) cs s⟩
  all_goals split
  · exact onlyUnits_trans (onlyUnits_updCore ..) (onlyUnits_bumpC ..)
  · exact onlyUnits_refl t
  · refine memoriesKept_trans ?_ (memoriesKept_bumpC ..)
    exact memoriesKept_updCore t c (fun _ => rfl)
  · exact memoriesKept_refl t

/-- The end of a step at a region, in a job that is not a Binocular one: its run is idle with no wavefront, other regions' runs and
every memory are as they were. -/
theorem endStep_effect {s : State} {p : Nat} {j : Job} (hj : jobOf s p = some j) (hb : isBino s p = false) (r : Nat) (quiet : Bool)
    (k : Job) : let t := endStep s p r quiet k
    (regionRun t p r).busy = false ∧ waveAt (regionRun t p r) = false ∧ (∀ q, q ≠ r → regionRun t p q = regionRun s p q)
    ∧ memoriesKept s t ∧ ∃ j', jobOf t p = some j' := by
  obtain ⟨hu, hm⟩ := skipShadows_frame s (regionCores s p r)
  have hk : jobOf (skipShadows s (regionCores s p r)) p = some j := (jobOf_of_parts hu.parts_eq p).trans hj
  have bino : ∀ f, isBino (updRegion (skipShadows s (regionCores s p r)) p r f) p = false := fun f => by
    rw [← hb]; exact congrArg (fun o => getN _ o _ == p && getN _ o _ != 0xFF) hu.objs_eq
  intro t
  have ht : t = updRegion (skipShadows s (regionCores s p r)) p r (fun x => { x with
      busy := false, decode := [], prefill := [], pads := 0, replays := 0, trips := 0, trapped := [], lastFault := none }) := by
    simp only [t, endStep, bino]; simp
  rw [ht]
  refine ⟨?_, ?_, fun q hq => ?_, memoriesKept_trans hm (memoriesKept_updRegion ..), _, jobOf_updRegion hk r _⟩
  · rw [regionRun_updRegion_self hk]
  · rw [regionRun_updRegion_self hk]; rfl
  · rw [regionRun_updRegion_ne hk hq, regionRun_of_parts hu.parts_eq]

/-- A wavefront goes on to the next region, where that one is free. -/
theorem finishStep_next {s : State} {p r : Nat} {j : Job} (hj : jobOf s p = some j) (hb : isBino s p = false)
    (hw : waveAt (regionRun s p r) = true) (hk : kindAt j r ≠ 2) (hl : lastRegion j r = false)
    (hn : (regionRun s p (r + 1)).busy = false) (hv : waveAt (regionRun s p (r + 1)) = false) :
    let x := regionRun s p r; let t := finishStep s p r j
    (regionRun t p r).busy = false ∧ waveAt (regionRun t p r) = false
    ∧ regionRun t p (r + 1) = { regionRun s p (r + 1) with
        decode := x.decode, prefill := x.prefill, pads := x.pads, stepNum := x.stepNum }
    ∧ memoriesKept s t := by
  obtain ⟨hidle, hempty, hother, hm, j', hj'⟩ := endStep_effect hj hb r false j
  intro x t
  have ht : t = updRegion (endStep s p r false j) p (r + 1) (fun y => { y with
      decode := x.decode, prefill := x.prefill, pads := x.pads, stepNum := x.stepNum }) := by
    simp [t, x, finishStep, hw, hk, hl, hn, hv]
  have hne : r ≠ r + 1 := by omega
  rw [ht]
  refine ⟨?_, ?_, ?_, memoriesKept_trans hm (memoriesKept_updRegion ..)⟩
  · rw [regionRun_updRegion_ne hj' hne]; exact hidle
  · rw [regionRun_updRegion_ne hj' hne]; exact hempty
  · rw [regionRun_updRegion_self hj', hother _ (Ne.symm hne)]

/-! REGION_STEP. -/

/-- Conditions under which an idle region may begin a step: its partition's epoch is whole and not swapping, no reset is held, and the
Steward runs. -/
def mayStart (s : State) (p : Nat) : Prop :=
  (partOf s p).epochs.missing = [] ∧ (partOf s p).epochs.st ≠ .swapping ∧ s.fin.held = none ∧ stewardUp s = true

section
variable {p : PartId} {s : State} {j : Job} {region : Nat} (hj : jobOf s p = some j) (hs : jobServes s p = true)
  (hr : region < (jobRegions j).length)
include hj hs hr

theorem exec_regionStep_idle (hi : (regionRun s p region).busy = false) (hm : mayStart s p) :
    exec (.regionStep p region) s = .next (startStep s p region j) := by
  have e : exec (.regionStep p region) s = execRegionStep p region s := rfl
  obtain ⟨h1, h2, h3, h4⟩ := hm
  simp [e, execRegionStep, hj, hs, hr, hi, h1, h2, h3, h4]
theorem exec_regionStep_busy (hb : (regionRun s p region).busy = true) : exec (.regionStep p region) s
    = .next (if stepDone s p region j then finishStep s p region j else s) := by
  have e : exec (.regionStep p region) s = execRegionStep p region s := rfl
  simp [e, execRegionStep, hj, hs, hr, hb]
end

/-- A wavefront that stands at a region begins its step, at the head once the commits of the step before have landed. -/
theorem startStep_wave {s : State} {p r : Nat} {j : Job} (hw : waveAt (regionRun s p r) = true)
    (hc : kindAt j r = 2 → commitsOut s p r = false) : startStep s p r j = beginStep s p r j := by
  have h : ¬ (kindAt j r = 2 ∧ commitsOut s p r = true) := fun ⟨h1, h2⟩ => by simp [hc h1] at h2
  simp [startStep, hw, h]

/-- The embedding share with wavefronts that the Steward has filled, of which e is the first segment: they stand at region 0 under
the job's next step number (R276). -/
def filledWith (s : State) (p : Nat) (j : Job) (w : Wave) (e : Segment) : State :=
  updJob (updRegion (markDraws (signalBank s p j e.slot) w) p 0 (fun x => { x with
    decode := w.decode, prefill := w.prefill, pads := w.pads, stepNum := j.nextStep })) p
    (fun j => { j with nextStep := j.nextStep + 1 })

theorem filledWith_effect {s : State} {p : Nat} {j : Job} (hj : jobOf s p = some j) (w : Wave) (e : Segment) :
    let t := filledWith s p j w e
    regionRun t p 0 = { regionRun s p 0 with decode := w.decode, prefill := w.prefill, pads := w.pads, stepNum := j.nextStep }
    ∧ (∃ l, jobOf t p = some { j with regions := l, nextStep := j.nextStep + 1 }) ∧ memoriesKept s t := by
  intro t
  obtain ⟨hp, hm⟩ := signalBank_frame s p j e.slot
  have hd := markDraws_frame (signalBank s p j e.slot) w
  have hdj : jobOf (markDraws (signalBank s p j e.slot) w) p = some j := by
    rw [← hj]; refine jobOf_of_parts ?_ p; rw [hd]; exact hp
  have ht : jobOf t p = some { j with
      nextStep := j.nextStep + 1
      regions := updN regionRunZero j.regions 0 (fun x => { x with
        decode := w.decode, prefill := w.prefill, pads := w.pads, stepNum := j.nextStep }) } := by
    simp only [t, filledWith, jobOf_updJob_self, jobOf_updRegion hdj, Option.map_some]
  refine ⟨?_, ⟨_, ht⟩, memoriesKept_trans hm ?_⟩
  · rw [regionRun_job ht, regionRun_job hj]; dsimp only; rw [getN_updN_self]
  · refine memoriesKept_of_eq (s := signalBank s p j e.slot) ?_ ?_ <;> simp only [t, filledWith] <;> rw [hd] <;> rfl

/-- At the embedding share the Steward fills the wavefronts, and the step begins. -/
theorem startStep_fill {s : State} {p : Nat} {j : Job} (hw : waveAt (regionRun s p 0) = false)
    (hk : kindAt j 0 = 0) (h1 : j.kind = 1) (ha : s.stw.admissionStopped = false)
    (hv : (fillWave s p j).decode ++ (fillWave s p j).prefill ≠ []) :
    ∃ e, startStep s p 0 j = beginStep (filledWith s p j (fillWave s p j) e) p 0 j := by
  obtain ⟨e, l, he⟩ := List.exists_cons_of_ne_nil hv
  exact ⟨e, by simp [startStep, hw, hk, h1, ha, he, filledWith]⟩

/-- Settles O29: each clause is the effect of its branch of REGION_STEP. -/
theorem regionStepsAdvance : Obligations.RegionStepsAdvance := by
  unfold Obligations.RegionStepsAdvance
  intro p region s j hj hs hr x e
  refine ⟨fun hi h1 h2 h3 h4 hw hc => ?_, fun f a hf ha hrow => ?_, fun hi h1 h2 h3 h4 hw h0 hk hkind ha => ?_,
    fun hb hd => ?_, fun hb hd hw hk hl hbino hn hv => ?_⟩
  · rw [answers, exec_regionStep_idle hj hs hr hi ⟨h1, h2, h3, h4⟩, startStep_wave hw hc]
    obtain ⟨hrun, hother, hkept, -⟩ := beginStep_effect hj region j
    exact ⟨_, rfl, hrun, hother, hkept⟩
  · simp only [writeRows_single hf ha hrow]
    split
    · exact ⟨vaultRead_vaultWrite .., wroteVault_vaultWrite ..⟩
    · exact ⟨spadRead_spadWrite .., onlyCore_updCore .., (wroteSpad_spadWrite ..).2.2.2⟩
  · subst h0
    intro v hne
    obtain ⟨first, hstart⟩ := startStep_fill hw hk hkind ha hne
    obtain ⟨hfill, ⟨l, hj1⟩, hm⟩ := filledWith_effect hj v first
    obtain ⟨hrun, -, hkept, l', hj2⟩ := beginStep_effect hj1 0 j
    rw [answers, exec_regionStep_idle hj hs hr hi ⟨h1, h2, h3, h4⟩, hstart]
    rw [hfill] at hrun
    exact ⟨_, rfl, congrArg RegionRun.busy hrun, congrArg RegionRun.stepNum hrun, congrArg RegionRun.decode hrun,
      congrArg RegionRun.prefill hrun, congrArg RegionRun.pads hrun, ⟨_, hj2, rfl⟩, _, hm, congrArg RegionRun.decode hfill,
      congrArg RegionRun.prefill hfill, hkept⟩
  · rw [leaves, exec_regionStep_busy hj hs hr hb, hd]; rfl
  · rw [answers, exec_regionStep_busy hj hs hr hb, hd]
    exact ⟨_, rfl, finishStep_next hj hbino hw hk hl hn hv⟩

end Sys2Proof.Machine
end

section
/-! PROOF. Writes of objects at the management agent (R496 to R500): what a write that the agent can take comes to, after its
signature and its object's own rules. -/

namespace Sys2Proof.Machine

/-- Nothing but the agent's own state and the events differs. -/
def onlyAgent (s t : State) : Prop := t = { s with mgmt := t.mgmt, events := t.events }
theorem onlyAgent_refl (s : State) : onlyAgent s s := rfl
theorem onlyAgent_trans {s t u : State} (h : onlyAgent s t) (g : onlyAgent t u) : onlyAgent s u := by
  unfold onlyAgent at *; rw [g, h]
theorem onlyAgent_updMgmt (s : State) (f : Mgmt → Mgmt) : onlyAgent s (updMgmt s f) := rfl
theorem onlyAgent_agentEvent (s : State) (code sev : Nat) (d : Bytes) : onlyAgent s (agentEvent s code sev d) := rfl
theorem onlyAgent_auditPush (s : State) (entry : Nat → Bytes) : onlyAgent s (auditPush s entry) := rfl
theorem onlyAgent_respond (s : State) (r : DapReq) (status : Nat) (b : Bytes) : onlyAgent s (respond s r status b) := rfl

/-- An audit entry, with what the filling log brings about, is of the agent alone. -/
theorem auditRecord_frame (s : State) (role result path : Nat) (fp : Bytes) (ix sub : Nat) (old new : Bytes) :
    onlyAgent s (auditRecord s role result path fp ix sub old new) := by
  unfold auditRecord
  split
  · rfl
  · extract_lets flags s1 n s2 s3 prev s4
    have h2 : onlyAgent s1 s2 := by
      simp only [s2]; split
      · exact onlyAgent_trans (onlyAgent_updMgmt ..) (onlyAgent_agentEvent ..)
      · exact onlyAgent_refl s1
    have h3 : onlyAgent s2 s3 := by
      simp only [s3]; split
      · exact onlyAgent_agentEvent ..
      · exact onlyAgent_refl s2
    have hs3 : onlyAgent s s3 := onlyAgent_trans (onlyAgent_auditPush s _) (onlyAgent_trans h2 h3)
    split
    · exact onlyAgent_trans hs3 (onlyAgent_trans (onlyAgent_auditPush s3 _) (onlyAgent_updMgmt ..))
    · exact hs3
theorem recordWrite_frame (s : State) (role result path : Nat) (fp : Bytes) (ix sub : Nat) (old new : Bytes) :
    onlyAgent s (recordWrite s role result path fp ix sub old new).1 := by
  unfold recordWrite; split
  · exact onlyAgent_agentEvent ..
  · exact auditRecord_frame ..
/-- The write of an entry goes through while the parameter store works. -/
theorem recordWrite_ok {s : State} (h : s.mgmt.storeFail = false) (role result path : Nat) (fp : Bytes) (ix sub : Nat) (old new : Bytes) :
    (recordWrite s role result path fp ix sub old new).2 = true := by simp [recordWrite, h]

/-- A refused write is recorded and answered with its status, and nothing else happens. -/
theorem refuseWrite_effect {s : State} (h : s.mgmt.storeFail = false) (r : DapReq) (role : Nat) (fp : Bytes) (ix sub : Nat)
    (old new : Bytes) (status : Nat) : onlyAgent s (refuseWrite s r role fp ix sub old new status)
      ∧ answered (refuseWrite s r role fp ix sub old new status) r status [] := by
  refine ⟨onlyAgent_trans (recordWrite_frame ..) (onlyAgent_respond ..), ?_⟩
  simp only [refuseWrite, recordWrite_ok h]
  exact (respond_frame ..).1

/-! A request that the agent hears. -/

section
variable {s : State} {r : DapReq} {service : Nat} {body : Bytes} (h : listens s r service body)
include h

theorem dapHear_listens : dapHear s r service body = some (taken s r service body) := by
  obtain ⟨h1, h2, -⟩ := h
  simp only [dapHear, h1, h2]; rfl

/-- A heard request changes, of the agent's state, the inbox, the service in hand and the counts of requests alone. -/
theorem heard_frame : heard s r service body = { s with mgmt := { s.mgmt with
    serving := BitVec.ofNat 8 service, inbox := (heard s r service body).mgmt.inbox, times := (heard s r service body).mgmt.times
    excess := (heard s r service body).mgmt.excess } } := by
  obtain ⟨-, -, h3⟩ := h
  have hn : ¬ 256 < (noteTime (taken s r service body) 2 r.path 1).2 := fun hc => by simp [countRequest, hc] at h3
  have he : heard s r service body
      = updMgmt (noteTime (taken s r service body) 2 r.path 1).1 (fun m => { m with excess := delN m.excess (pathKey r.path) }) := by
    simp only [heard, countRequest, hn, if_false]
  rw [he]; rfl
end

/-- A signed request that is the next of an open session: its signature decides (R496). -/
theorem dapSigned_next {s : State} {r : DapReq} {service : Nat} {body : Bytes} {se : Session} (hl : listens s r service (body ++ r.sig))
    (hsig : r.sig.length = 7856) (hse : sessionFor s r = some se) (hseq : r.seq = se.seq + 1)
    (refuse : State → Nat → Bytes → Nat → State) (k : Session → State → State) :
    dapSigned s r service body refuse k = if signedOk se r service body then k se (asked s r service (body ++ r.sig))
      else refuse (badSig (heard s r service (body ++ r.sig)) r.path se.fp) se.role.val se.fp stSignature := by
  have hse' : sessionFor (heard s r service (body ++ r.sig)) r = some se := by
    rw [heard_frame hl]; exact hse
  have hq : (countRequest (taken s r service (body ++ r.sig)) r.path).2 = false := hl.2.2
  have hc : (countRequest (taken s r service (body ++ r.sig)) r.path).1 = heard s r service (body ++ r.sig) := rfl
  simp only [dapSigned, dapHear_listens hl, hq, hc, hsig, hse', hseq]
  cases signedOk se r service body <;> simp [asked]

/-! A write that the agent can take. -/

section
variable {s : State} {r : DapReq} {ix sub : Nat} {value : Bytes} {se : Session} (h : canWrite s r ix sub value se)
include h

/-- The state in which the object's own rules are asked: the request has been heard, and is the session's last. -/
theorem asked_frame : let a := asked s r 0x11 (writeBody ix sub value ++ r.sig)
    onlyAgent s a ∧ a.mgmt.storeFail = false := by
  obtain ⟨hl, -, -, -, -, -, hs, -⟩ := h
  have hh := heard_frame hl
  refine ⟨onlyAgent_trans (t := heard s r 0x11 (writeBody ix sub value ++ r.sig)) ?_ rfl, ?_⟩
  · unfold onlyAgent; rw [hh]
  · have : (asked s r 0x11 (writeBody ix sub value ++ r.sig)).mgmt.storeFail
        = (heard s r 0x11 (writeBody ix sub value ++ r.sig)).mgmt.storeFail := rfl
    rw [this, hh]; exact hs

/-- The granted state differs from the one before in the agent's state and the events, and OK is its last answer. -/
theorem granted_effect : onlyAgent s (granted s r ix sub value se) ∧ answered (granted s r ix sub value se) r stOk [] :=
  ⟨onlyAgent_trans (asked_frame h).1 (onlyAgent_trans (recordWrite_frame ..) (onlyAgent_respond ..)), (respond_frame ..).1⟩

/-- What the write comes to: with a bad signature a refusal; with a good one what the object's own rules decide (R498). -/
theorem dapWrite_cases (check : Session → State → Nat) (apply : Session → State → State) :
    let a := asked s r 0x11 (writeBody ix sub value ++ r.sig)
    dapWrite s r ix sub value check apply = if signedOk se r 0x11 (writeBody ix sub value) then
        if check se a = stAccess then refuseWrite (badAccess a r.path se.fp) r se.role.val se.fp ix sub (oldValue s ix sub) value stAccess
        else if check se a ≠ stOk then refuseWrite a r se.role.val se.fp ix sub (oldValue s ix sub) value (check se a)
        else apply se (granted s r ix sub value se)
      else refuseWrite (badSig (heard s r 0x11 (writeBody ix sub value ++ r.sig)) r.path se.fp) r se.role.val se.fp ix sub
        (oldValue s ix sub) value stSignature := by
  obtain ⟨-, hstore⟩ := asked_frame h
  obtain ⟨hl, hsig, hse, hseq, hov, haud, -, o, ho, hw⟩ := h
  intro a
  have hh := heard_frame hl
  have ha : a.mgmt.overflow = none := by
    rw [← hov]; exact congrArg (fun t => t.mgmt.overflow) hh
  have hcount : auditCount a = auditCount s := congrArg (fun t => t.mgmt.audit.length) hh
  have hroom : (se.role.val == 0 && decide (4032 ≤ auditCount a)) = false := by
    rw [hcount, Bool.and_eq_false_iff, beq_eq_false_iff_ne, decide_eq_false_iff_not]
    by_cases hr : se.role = 0
    · exact .inr (Nat.not_le.2 (haud hr))
    · exact .inl (fun e => hr (Fin.ext e))
  rw [dapWrite, dapWriteRaw, dapSigned_next hl hsig hse hseq]
  refine if_congr Iff.rfl ?_ rfl
  simp only [a] at ha hroom
  have hold : oldValue s ix sub = objBytes s ix sub := by simp [oldValue, ho]
  have hgrant : granted s r ix sub value se
      = respond (recordWrite a se.role.val stOk (pathCode r.path) se.fp ix sub (oldValue s ix sub) value).1 r stOk [] := rfl
  simp only [hgrant, hold, a, ha, hroom, ho, hw, recordWrite_ok hstore, if_true, Option.isSome_none, Bool.or_self, Bool.false_eq_true,
    if_false]

/-- A write is settled by its signature, and with a good one by what the object's own rules say of it. -/
theorem writes_of {i : Instr} {check : Session → State → Nat} {apply : Session → State → State} {P : State → State → Prop}
    (hi : exec i s = .next (dapWrite s r ix sub value check apply))
    (hok : check se (asked s r 0x11 (writeBody ix sub value ++ r.sig)) = stOk →
      P (granted s r ix sub value se) (apply se (granted s r ix sub value se)))
    (hacc : check se (asked s r 0x11 (writeBody ix sub value ++ r.sig)) ≠ stAccess)
    (hno : ∀ st t, check se (asked s r 0x11 (writeBody ix sub value ++ r.sig)) = st → st ≠ stOk → onlyAgent s t →
      answered t r st [] → P (granted s r ix sub value se) t) : writes i s r ix sub value se P := by
  obtain ⟨hasked, hstore⟩ := asked_frame h
  refine ⟨_, hi, fun hg => ?_, fun hg => ?_⟩
  all_goals rw [dapWrite_cases h, hg]
  · rw [if_pos rfl, if_neg hacc]
    split
    · next hst =>
      obtain ⟨hf, ha⟩ := refuseWrite_effect hstore r se.role.val se.fp ix sub (oldValue s ix sub) value
        (check se (asked s r 0x11 (writeBody ix sub value ++ r.sig)))
      exact hno _ _ rfl hst (onlyAgent_trans hasked hf) ha
    · next hst => exact hok (not_not.1 hst)
  · rfl
end

end Sys2Proof.Machine
end

section
/-! PROOF. Partitions (R26 to R29, R512, R565): PART_DEF and its refusals, the sites of a new partition, and the clearing of sites and
of partitions. -/

namespace Sys2Proof.Machine

/-! Membership of sites (R29, R180). -/

/-- Nothing but sites and routers differs. -/
def onlySites (s t : State) : Prop := t = { s with sites := t.sites, routers := t.routers }
theorem onlySites_refl (s : State) : onlySites s s := rfl
theorem onlySites_trans {s t u : State} (h : onlySites s t) (g : onlySites t u) : onlySites s u := by
  unfold onlySites at *; rw [g, h]
theorem onlySites_foldl {α : Type} {f : State → α → State} (h : ∀ s a, onlySites s (f s a)) (l : List α) (s : State) :
    onlySites s (l.foldl f s) := foldl_rel onlySites_refl onlySites_trans h l s
theorem onlySites_updSite (s : State) (d : Nat) (f : SiteState → SiteState) : onlySites s (updSite s d f) := rfl
theorem onlySites_setDreg (s : State) (d off v : Nat) : onlySites s (setDreg s d off v) := rfl
theorem onlySites_setRreg (s : State) (r off v : Nat) : onlySites s (setRreg s r off v) := rfl

theorem writeMember_frame (s : State) (d p gen : Nat) : onlySites s (writeMember s d p gen) := by
  unfold writeMember
  exact onlySites_trans (onlySites_setDreg s d 0x100 _) (onlySites_foldl (fun t c => onlySites_setRreg t c _ _) _ _)
theorem clearMember_frame (s : State) (d gen : Nat) : onlySites s (clearMember s d gen) := by
  unfold clearMember
  exact onlySites_trans (onlySites_setDreg s d 0x100 _) (onlySites_foldl (fun t c => onlySites_setRreg t c _ _) _ _)
theorem joinSite_frame (s : State) (d : Nat) (p : PartId) : onlySites s (joinSite s d p) := by
  unfold joinSite
  extract_lets t
  exact onlySites_trans (t := t) (writeMember_frame ..) (onlySites_updSite t d _)

/-- The membership that SITE_PART is written with. -/
theorem siteSt_writeMember (s : State) (d p gen : Nat) (e : Nat) :
    siteSt (writeMember s d p gen) e = siteSt (setDreg s d 0x100 (2 ^ 31 + p * 2 ^ 16 + gen % 65536)) e :=
  foldl_keeps (fun t => siteSt t e) _ _ _ (fun _ _ _ => rfl)

/-- A site that joins a partition is a member of it, waits no more, and is the only site that differs (R28, R29). -/
theorem joinSite_effect (s : State) (d : Nat) (p : PartId) : sitePart (joinSite s d p) d = some p.val
    ∧ (siteSt (joinSite s d p) d).joining = none ∧ (siteSt (joinSite s d p) d).lastPart = some p
    ∧ ∀ e, e ≠ d → siteSt (joinSite s d p) e = siteSt s e := by
  refine ⟨?_, by simp [joinSite], by simp [joinSite], fun e he => ?_⟩
  · have hp := p.isLt
    have hr : dreg (joinSite s d p) d 0x100 = 2 ^ 31 + p.val * 2 ^ 16 + (siteGen s d + 1) % 65536 := by
      have : dreg (joinSite s d p) d 0x100 = dreg (writeMember s d p.val (siteGen s d + 1)) d 0x100 := by
        simp [joinSite, dreg]
      rw [this, dreg, siteSt_writeMember]
      refine (dreg_setDreg_self s d 0x100 _).trans ?_
      omega
    have hb : bitOf (2 ^ 31 + p.val * 2 ^ 16 + (siteGen s d + 1) % 65536) 31 = true := by simp [bitOf]; omega
    rw [sitePart, hr]
    simp only [hb, if_true, bitsOf]
    rw [Option.some.injEq]; omega
  · simp only [joinSite]
    rw [siteSt_updSite_ne _ _ _ he, siteSt_writeMember]
    exact siteSt_updSite_ne _ _ _ he

/-- A site's membership stands in its own state. -/
theorem sitePart_of_siteSt {s t : State} {d : Nat} (h : siteSt t d = siteSt s d) : sitePart t d = sitePart s d := by
  unfold sitePart dreg; rw [h]

/-! PART_DEF (R26, R512). -/

/-- What the forming of a partition leaves: the agent's state, every memory, and every partition's definition. -/
def definitionsKept (s t : State) : Prop := t.mgmt = s.mgmt ∧ memoriesKept s t ∧ ∀ q, partDef t q = partDef s q
theorem definitionsKept_trans {s t u : State} (h : definitionsKept s t) (g : definitionsKept t u) : definitionsKept s u :=
  ⟨g.1.trans h.1, memoriesKept_trans h.2.1 g.2.1, fun q => (g.2.2 q).trans (h.2.2 q)⟩
theorem onlySites.definitions {s t : State} (h : onlySites s t) : definitionsKept s t := by
  rw [h]; exact ⟨rfl, ⟨fun _ => rfl, fun _ => rfl⟩, fun _ => rfl⟩
theorem onlyRecords.definitions {s t : State} (h : onlyRecords s t) (hm : memoriesKept s t) : definitionsKept s t :=
  ⟨by rw [h.1], hm, h.2.def⟩
theorem onlyRecords.sites_eq {s t : State} (h : onlyRecords s t) : t.sites = s.sites := by rw [h.1]

/-- A partition returns to its seeds (R76, R277, R309, R324). -/
theorem seedPart_frame (s : State) (p : Nat) : onlyRecords s (seedPart s p) ∧ memoriesKept s (seedPart s p) := by
  unfold seedPart
  exact ⟨onlyRecords_trans (setTheta_frame s p _ _) (onlyRecords_updPart _ p (fun _ => rfl) (fun _ => rfl)),
    memoriesKept_trans (setTheta_memories s p _ _) (memoriesKept_of_eq rfl rfl)⟩

/-- A site that comes to a partition: it waits to be cleared, or joins at once. -/
def admitSite (p : PartId) (clear : List Nat) (s : State) (d : Nat) : State :=
  if clear.contains d then updSite s d (fun t => { t with joining := some (some p) }) else joinSite s d p
theorem admitSite_frame (p : PartId) (clear : List Nat) (s : State) (d : Nat) : onlySites s (admitSite p clear s d) := by
  unfold admitSite; split
  · exact onlySites_updSite ..
  · exact joinSite_frame ..
theorem siteSt_admitSite_ne (p : PartId) (clear : List Nat) (s : State) {d e : Nat} (h : e ≠ d) :
    siteSt (admitSite p clear s d) e = siteSt s e := by
  unfold admitSite; split
  · exact siteSt_updSite_ne _ _ _ h
  · exact (joinSite_effect s d p).2.2.2 e h

/-- Sites that are dropped, with the epochs where some are cleared: what follows the sites of an accepted PART_DEF. -/
theorem reseed_frame (s : State) (p : Nat) (drop : Bool) : let t := seedPart (if drop then dropEpochs s p else s) p
    onlyRecords s t ∧ memoriesKept s t := by
  have hd : onlyRecords s (if drop then dropEpochs s p else s) ∧ memoriesKept s (if drop then dropEpochs s p else s) := by
    split
    · exact dropEpochs_frame s p
    · exact ⟨onlyRecords_refl s, memoriesKept_refl s⟩
  exact ⟨onlyRecords_trans hd.1 (seedPart_frame ..).1, memoriesKept_trans hd.2 (seedPart_frame ..).2⟩

/-- An accepted PART_DEF keeps everything that forming a partition leaves, once its word stands. -/
theorem applyPartDef_frame (s : State) (p : PartId) (v : Nat) :
    definitionsKept (updPart s p.val (fun t => { t with pdef := BitVec.ofNat 64 v })) (applyPartDef s p v) := by
  unfold applyPartDef
  extract_lets old was s1 now leave come clear s2 s3 s4 s5
  have member : ∀ (t : State) (d g : Nat), onlySites t (if sitePart t d = some p.val then writeMember t d p.val g else t) :=
    fun t d g => by
      split
      · exact writeMember_frame ..
      · exact onlySites_refl t
  split
  · exact (onlySites_foldl (fun t d => member t d _) now s1).definitions
  · have h2 : onlySites s1 s2 := onlySites_foldl (fun t d => by
      extract_lets t'
      refine onlySites_trans (t := t') rfl ?_
      split
      · exact clearMember_frame ..
      · exact onlySites_refl t') leave s1
    have h3 : onlySites s2 s3 := onlySites_foldl (fun t d => member t d _) _ s2
    have h4 : onlySites s3 s4 := onlySites_foldl (fun t d => admitSite_frame p clear t d) come s3
    obtain ⟨h5, hm⟩ := reseed_frame s4 p.val (v ≠ 0 && (!leave.isEmpty || !clear.isEmpty))
    exact definitionsKept_trans (onlySites_trans h2 (onlySites_trans h3 h4)).definitions (h5.definitions hm)

/-- The definition that an accepted PART_DEF leaves. -/
theorem partDef_applyPartDef (s : State) (p : PartId) (v : W64) (q : Nat) :
    partDef (applyPartDef s p v.toNat) q = if q = p.val then v.toNat else partDef s q := by
  rw [(applyPartDef_frame s p v.toNat).2.2 q, partDef, partOf_updPart]
  split <;> simp [partDef]

/-- The sites of a partition that had none, each waiting to be cleared or joined. -/
def admitted (s : State) (p : PartId) (v : Nat) : State :=
  (pdSites v).foldl (admitSite p ((pdSites v).filter (fun d => (siteSt s d).lastPart != some p)))
    (updPart s p.val (fun t => { t with pdef := BitVec.ofNat 64 v }))

/-- A partition that had no sites admits those of its definition, and returns to its seeds. -/
theorem applyPartDef_new {s : State} {p : PartId} {v : W64} (h0 : partDef s p = 0) (hv : pdValid v.toNat = true) :
    ∃ drop : Bool, applyPartDef s p v.toNat
      = seedPart (if drop then dropEpochs (admitted s p v.toNat) p.val else admitted s p v.toNat) p.val := by
  have hwas : partSites s p.val = [] := by rw [partSites, h0]; rfl
  have hnow : partSites (updPart s p.val (fun t => { t with pdef := v })) p.val = pdSites v.toNat := by simp [partSites, partDef]
  have hother : pdValid 0 = false := rfl
  simp only [applyPartDef, admitted, h0, hv, hwas, hother, BitVec.ofNat_toNat, BitVec.setWidth_eq, hnow, siteSt_updPart,
    List.filter_nil, List.foldl_nil, List.contains_nil, Bool.not_false, List.filter_true, List.filter_false]
  rw [if_neg (by simp)]
  exact ⟨_, rfl⟩

/-- Each of those sites that the partition held last joins at once, each other one waits to be cleared, and no other site differs
(R27 to R29). -/
theorem applyPartDef_sites {s : State} {p : PartId} {v : W64} (h0 : partDef s p = 0) (hv : pdValid v.toNat = true) :
    let t := applyPartDef s p v.toNat
    (∀ d ∈ pdSites v.toNat, (siteSt s d).lastPart = some p → sitePart t d = some p.val ∧ (siteSt t d).joining = none)
    ∧ (∀ d ∈ pdSites v.toNat, (siteSt s d).lastPart ≠ some p → (siteSt t d).joining = some (some p))
    ∧ ∀ d, d ∉ pdSites v.toNat → siteSt t d = siteSt s d := by
  intro t
  obtain ⟨drop, ht⟩ := applyPartDef_new h0 hv
  have hsites : ∀ d, siteSt t d = siteSt (admitted s p v.toNat) d := fun d => by
    simp only [t, ht, siteSt, (reseed_frame _ p.val drop).1.sites_eq]
  have hpart : ∀ d, sitePart t d = sitePart (admitted s p v.toNat) d := fun d => sitePart_of_siteSt (hsites d)
  refine ⟨fun d hd hl => ?_, fun d hd hl => ?_, fun d hd => ?_⟩
  · rw [hpart, hsites]
    refine foldl_sets (fun t => (sitePart t d, (siteSt t d).joining)) _ (fun x => x.1 = some p.val ∧ x.2 = none) (a := d)
      (fun t => ?_) (fun t e he => ?_) _ _ (.inr hd)
    · rw [admitSite, if_neg (by simp [hl])]
      exact ⟨(joinSite_effect t d p).1, (joinSite_effect t d p).2.1⟩
    · have hne := siteSt_admitSite_ne p ((pdSites v.toNat).filter (fun d => (siteSt s d).lastPart != some p)) t (Ne.symm he)
      rw [sitePart_of_siteSt hne, hne]
  · rw [hsites]
    refine foldl_sets (fun t => (siteSt t d).joining) _ (fun x => x = some (some p)) (a := d)
      (fun t => ?_) (fun t e he => ?_) _ _ (.inr hd)
    · rw [admitSite, if_pos (by simp [hl, hd])]; simp
    · simp only [siteSt_admitSite_ne p _ t (Ne.symm he)]
  · rw [hsites]
    exact foldl_keeps (fun t => siteSt t d) _ _ _ (fun t e he => siteSt_admitSite_ne p _ t (fun h => hd (h ▸ he)))

/-! Clearing (R28, R565). -/

/-- Nothing but clusters and the count of free values differs. -/
def onlyClusters (s t : State) : Prop := t = { s with clusters := t.clusters, free := t.free }
theorem onlyClusters_refl (s : State) : onlyClusters s s := rfl
theorem onlyClusters_trans {s t u : State} (h : onlyClusters s t) (g : onlyClusters t u) : onlyClusters s u := by
  unfold onlyClusters at *; rw [g, h]
theorem onlyClusters_foldl {α : Type} {f : State → α → State} (h : ∀ s a, onlyClusters s (f s a)) (l : List α) (s : State) :
    onlyClusters s (l.foldl f s) := foldl_rel onlyClusters_refl onlyClusters_trans h l s
theorem onlyClusters_updCl (s : State) (k : Nat) (f : ClusterState → ClusterState) : onlyClusters s (updCl s k f) := rfl
theorem onlyClusters_vaultPass (s : State) (k a n : Nat) : onlyClusters s (vaultPass s k a n) := (vaultPass_frame s k a n).1

theorem onlyClusters.cores_eq {s t : State} (h : onlyClusters s t) : t.cores = s.cores := by rw [h]
theorem onlyClusters.parts_eq {s t : State} (h : onlyClusters s t) : t.parts = s.parts := by rw [h]

/-- The scratchpads of a list of cores are cleared. -/
def clearSpads (s : State) (cs : List Nat) : State :=
  cs.foldl (fun s c => if (coreOf s c).spad = Mem.empty then s else updCore s c (fun v => { v with spad := Mem.empty })) s
/-- The vaults of clusters of a site are cleared, written and read back, with their directories and extents. -/
def clearVaults (s : State) (d : Nat) (ks : List Nat) : State :=
  ks.foldl (fun s k =>
    let s := updCl s (d * 16 + k) (fun c => { c with vault := Mem.empty, shards := [], extents := [], wroteBack := [] })
    vaultPass (vaultPass s (d * 16 + k) 0 Config.vaultCap) (d * 16 + k) 0 Config.vaultCap) s

/-- Their scratchpads are empty then, and no other core's scratchpad differs. -/
theorem clearSpads_effect (s : State) (cs : List Nat) : clearSpads s cs = { s with cores := (clearSpads s cs).cores }
    ∧ (∀ c ∈ cs, (coreOf (clearSpads s cs) c).spad = Mem.empty)
    ∧ ∀ c, c ∉ cs → (coreOf (clearSpads s cs) c).spad = (coreOf s c).spad := by
  unfold clearSpads
  refine ⟨foldl_rel (R := fun s t => t = { s with cores := t.cores }) (fun _ => rfl) (fun h g => by rw [g, h]) (fun t c => ?_) cs s,
    fun c hc => ?_, fun c hc => ?_⟩
  · split <;> rfl
  · refine foldl_sets (fun t => (coreOf t c).spad) _ (· = Mem.empty) (a := c) (fun t => ?_) (fun t b hb => ?_) cs s (.inr hc)
    · split
      · assumption
      · simp
    · split
      · rfl
      · rw [coreOf_updCore_ne _ _ _ (Ne.symm hb)]
  · refine foldl_keeps (fun t => (coreOf t c).spad) _ cs s (fun t b hb => ?_)
    split
    · rfl
    · rw [coreOf_updCore_ne _ _ _ (fun h : c = b => hc (h ▸ hb))]

theorem clearSpads_clusters (s : State) (cs : List Nat) : (clearSpads s cs).clusters = s.clusters := by rw [(clearSpads_effect s cs).1]
theorem clearSpads_parts (s : State) (cs : List Nat) : (clearSpads s cs).parts = s.parts := by rw [(clearSpads_effect s cs).1]

/-- One vault is cleared: it is empty, and no other cluster differs. -/
theorem clearVault_effect (s : State) (k : Nat) {f : ClusterState → ClusterState} (hf : ∀ c, (f c).vault = Mem.empty) (n : Nat) :
    let t := vaultPass (vaultPass (updCl s k f) k 0 n) k 0 n
    (clOf t k).vault = Mem.empty ∧ (∀ j, j ≠ k → clOf t j = clOf s j) ∧ onlyClusters s t := by
  obtain ⟨hfree, hother, hvault⟩ := onlyGrants_trans (vaultPass_frame (updCl s k f) k 0 n) (vaultPass_frame _ k 0 n)
  refine ⟨?_, fun j hj => ?_, onlyClusters_trans (onlyClusters_updCl s k f) hfree⟩
  · rw [hvault, clOf_updCl_self, hf]
  · rw [hother j hj, clOf_updCl_ne _ _ _ hj]
theorem clearVaults_effect (s : State) (d : Nat) (ks : List Nat) :
    (∀ k ∈ ks, (clOf (clearVaults s d ks) (d * 16 + k)).vault = Mem.empty)
    ∧ (∀ j, (∀ k ∈ ks, j ≠ d * 16 + k) → clOf (clearVaults s d ks) j = clOf s j) ∧ onlyClusters s (clearVaults s d ks) := by
  have one := fun (t : State) (k : Nat) => clearVault_effect t (d * 16 + k)
    (f := fun c => { c with vault := Mem.empty, shards := [], extents := [], wroteBack := [] }) (fun _ => rfl) Config.vaultCap
  unfold clearVaults
  refine ⟨fun k hk => ?_, fun j hj => ?_, onlyClusters_foldl (fun t k => (one t k).2.2) ks s⟩
  · refine foldl_sets (fun t => (clOf t (d * 16 + k)).vault) _ (· = Mem.empty) (a := k) (fun t => (one t k).1) (fun t b hb => ?_) ks s
      (.inr hk)
    exact congrArg _ ((one t b).2.1 _ (by omega))
  · exact foldl_keeps (fun t => clOf t j) _ ks s (fun t k hk => (one t k).2.1 _ (hj k hk))

/-- SITE_CLEAR_DONE of a powered site that waits: its memories are cleared, and it joins. -/
theorem exec_siteClearDone {s : State} {site : SiteId} {p : PartId} (hj : (siteSt s site).joining = some (some p))
    (hp : (siteSt s site).powered = true) : exec (.siteClearDone site) s
      = .next (joinSite (clearVaults (clearSpads s (siteCores site)) site (List.range 16)) site p) := by
  have e : exec (.siteClearDone site) s = execSiteClearDone site s := rfl
  rw [e, execSiteClearDone]
  simp only [hj, hp, Bool.not_true, Bool.false_eq_true, if_false]
  rfl

/-- Clearing cache areas touches clusters alone (R565). -/
theorem clearCache_frame (s : State) (p : Nat) (d : SweepDesc) : onlyClusters s (clearCache s p d) := by
  unfold clearCache clearAreas
  refine onlyClusters_trans (onlyClusters_foldl (fun t k => ?_) (partClusters s p) s)
    (onlyClusters_foldl (fun t k => onlyClusters_updCl t k _) _ _)
  extract_lets t'
  exact onlyClusters_trans (t := t') (onlyClusters_updCl ..)
    (onlyClusters_trans (onlyClusters_vaultPass ..) (onlyClusters_vaultPass ..))

/-- PARTITION_CLEAR_DONE of a partition that is being cleared: its cores' scratchpads and its clusters are cleared, and a waiting
start becomes the job. -/
theorem exec_partitionClearDone {s : State} {p : PartId} (hc : (partOf s p).clearing = true) :
    ∃ t, exec (.partitionClearDone p) s = .next (updPart t p (fun t => { t with
      clearing := false, clearDesc := [], job := t.waitingJob, waitingJob := none }))
    ∧ onlyClusters (clearSpads s (partCores s p)) t := by
  have e : exec (.partitionClearDone p) s = execPartitionClearDone p s := rfl
  refine ⟨(partOf (clearSpads s (partCores s p)) p).clearDesc.foldl (fun s d => clearCache s p d) (clearSpads s (partCores s p)),
    ?_, onlyClusters_foldl (fun t d => clearCache_frame t p d) _ _⟩
  rw [e, execPartitionClearDone]
  simp only [hc, Bool.not_true, Bool.false_eq_true, if_false]
  rfl

/-! The obligation. -/

/-- A job of another partition holds a site. -/
def heldElsewhere (s : State) (p d : Nat) : Bool :=
  match sitePart s d with | some q => q != p && (jobOf s q).isSome | none => false
theorem heldElsewhere_iff (s : State) (p d : Nat) :
    heldElsewhere s p d = true ↔ ∃ q, sitePart s d = some q ∧ q ≠ p ∧ jobOf s q ≠ none := by
  unfold heldElsewhere
  cases sitePart s d with
  | none => simp
  | some q => simp [Option.isSome_iff_ne_none]

/-- What PART_DEF asks of a write before it takes it (R26, R27, R511, R512). -/
def partDefCheck (s : State) (p : PartId) (v : W64) : Nat :=
  if !partDefOk s p.val v.toNat then stRange
  else if partHeld s p.val || (pdSites v.toNat).any (heldElsewhere s p.val) then stState else stOk

theorem exec_partDef (req : DapReq) (p : PartId) (v : W64) (s : State) : exec (.partDef req p v) s
    = .next (dapWrite s req 0x5000 (p.val + 1) (leBytes 8 v.toNat) (fun _ s => partDefCheck s p v)
      (fun _ s => applyPartDef s p v.toNat)) := rfl

/-- What the agent does for a request changes no partition and no site, so that nothing PART_DEF asks for differs. -/
theorem partDefCheck_agent {s t : State} (h : onlyAgent s t) (p : PartId) (v : W64) : partDefCheck t p v = partDefCheck s p v := by
  rw [h]; rfl
theorem onlyAgent.parts_eq {s t : State} (h : onlyAgent s t) : t.parts = s.parts := by rw [h]
theorem onlyAgent.sites_eq {s t : State} (h : onlyAgent s t) : t.sites = s.sites := by rw [h]
theorem onlyAgent.siteSt_eq {s t : State} (h : onlyAgent s t) (d : Nat) : siteSt t d = siteSt s d := by simp [siteSt, h.sites_eq]
theorem onlyAgent.partDef_eq {s t : State} (h : onlyAgent s t) (q : Nat) : partDef t q = partDef s q := by
  simp [partDef, partOf, h.parts_eq]
theorem onlyAgent.memories {s t : State} (h : onlyAgent s t) : memoriesKept s t := by
  rw [h]; exact memoriesKept_of_eq rfl rfl

section
variable {s : State} {p : PartId} {v : W64}

/-- A job on the partition holds it; one on a site is the partition's own or holds the site elsewhere. -/
theorem held_of_running (hr : jobOf s p ≠ none ∨ ∃ d ∈ pdSites v.toNat, ∃ q, sitePart s d = some q ∧ jobOf s q ≠ none) :
    partHeld s p.val = true ∨ ∃ d ∈ pdSites v.toNat, heldElsewhere s p.val d = true := by
  by_cases hp : jobOf s p = none
  · obtain ⟨d, hd, q, hq, hj⟩ := hr.resolve_left (not_not.2 hp)
    exact .inr ⟨d, hd, (heldElsewhere_iff ..).2 ⟨q, hq, fun e => hj (e ▸ hp), hj⟩⟩
  · exact .inl (by simp [partHeld, Option.isSome_iff_ne_none.2 hp])
theorem partDefCheck_not_access : partDefCheck s p v ≠ stAccess := by
  unfold partDefCheck; split
  · decide
  · split <;> decide
theorem partDefCheck_range (h : partDefOk s p v.toNat = false) : partDefCheck s p v = stRange := by simp [partDefCheck, h]

variable (h : partDefOk s p v.toNat = true)
include h

/-- What holds the partition as it is refuses the write, and so does a job of another partition on one of the sites. -/
theorem partDefCheck_state (hb : partHeld s p.val = true ∨ ∃ d ∈ pdSites v.toNat, heldElsewhere s p.val d = true) :
    partDefCheck s p v = stState := by
  rw [← List.any_eq_true, ← Bool.or_eq_true] at hb
  simp only [partDefCheck, h, hb]
  rfl
/-- With no job on them, and nothing else that holds the partition as it is, the write is taken. -/
theorem partDefCheck_ok (hh : partHeld s p = false)
    (hf : ∀ d ∈ pdSites v.toNat, ∀ q, sitePart s d = some q → q = p.val ∨ jobOf s q = none) : partDefCheck s p v = stOk := by
  have hb : (pdSites v.toNat).any (heldElsewhere s p.val) = false := by
    rw [List.any_eq_false]
    intro d hd hx
    obtain ⟨q, hq, hne, hj⟩ := (heldElsewhere_iff ..).1 hx
    exact (hf d hd q hq).elim hne hj
  simp [partDefCheck, h, hh, hb]
end

/-- An accepted PART_DEF leaves the agent's answer. -/
theorem answered_applyPartDef {s : State} {r : DapReq} {status : Nat} {b : Bytes} (h : answered s r status b) (p : PartId) (v : Nat) :
    answered (applyPartDef s p v) r status b := by
  rw [answered, (applyPartDef_frame s p v).1]; exact h

theorem writes_mono {i : Instr} {s : State} {r : DapReq} {ix sub : Nat} {value : Bytes} {se : Session} {P Q : State → State → Prop}
    (h : writes i s r ix sub value se P) (hpq : ∀ w t, P w t → Q w t) : writes i s r ix sub value se Q := by
  obtain ⟨t, he, hgood, hbad⟩ := h
  exact ⟨t, he, fun hg => hpq _ _ (hgood hg), hbad⟩

section
variable {req : DapReq} {p : PartId} {v : W64} {se : Session} {s : State}
  (hw : canWrite s req 0x5000 (p.val + 1) (leBytes 8 v.toNat) se)
include hw

/-- A PART_DEF that its check refuses answers the status, and neither partitions nor sites differ. -/
theorem writes_partDef_refused {st : Nat} (hst : partDefCheck s p v = st) (hne : st ≠ stOk) :
    writes (.partDef req p v) s req 0x5000 (p.val + 1) (leBytes 8 v.toNat) se
      (fun _ t => t.parts = s.parts ∧ t.sites = s.sites ∧ answered t req st []) := by
  have hask := partDefCheck_agent (asked_frame hw).1 p v
  refine writes_of hw (exec_partDef ..) (fun hok => ?_) partDefCheck_not_access (fun st' t hst' _ ht ha => ?_)
  · exact absurd (hst.symm.trans (hask.symm.trans hok)) hne
  · have e : st' = st := hst'.symm.trans (hask.trans hst)
    exact ⟨ht.parts_eq, ht.sites_eq, e ▸ ha⟩
/-- One that its check takes has its effect on the granted state. -/
theorem writes_partDef_taken {P : State → State → Prop} (hst : partDefCheck s p v = stOk)
    (hP : P (granted s req 0x5000 (p.val + 1) (leBytes 8 v.toNat) se)
      (applyPartDef (granted s req 0x5000 (p.val + 1) (leBytes 8 v.toNat) se) p v.toNat)) :
    writes (.partDef req p v) s req 0x5000 (p.val + 1) (leBytes 8 v.toNat) se P := by
  have hask := partDefCheck_agent (asked_frame hw).1 p v
  refine writes_of hw (exec_partDef ..) (fun _ => hP) partDefCheck_not_access (fun st t hst' hne _ _ => ?_)
  exact absurd (hst'.symm.trans (hask.trans hst)) hne
end

/-- Settles O33: PART_DEF by the cases of its check, and the effect of the clearings. -/
theorem partitionsFormAndClear : Obligations.PartitionsFormAndClear := by
  unfold Obligations.PartitionsFormAndClear
  refine ⟨fun req p v se s hw => ?_, fun req p v se s hw hok hheld hfree h0 hv => ?_, fun site p s hj hp => ?_, fun p s hc => ?_⟩
  · intro run
    cases hok : partDefOk s p v.toNat with
    | false => exact writes_mono (writes_partDef_refused hw (partDefCheck_range hok) (by decide)) (fun _ t ht => by simp [ht])
    | true =>
      by_cases hheld : partHeld s p.val = true ∨ ∃ d ∈ pdSites v.toNat, heldElsewhere s p.val d = true
      · refine writes_mono (writes_partDef_refused hw (partDefCheck_state hok hheld) (by decide)) (fun _ t ht => ?_)
        refine ⟨by simp, fun _ _ => ht, fun _ hnot hrun => ?_⟩
        have hfree := partDefCheck_ok hok hnot (fun d hd q hq => .inr (not_not.1 (fun hj => hrun (.inr ⟨d, hd, q, hq, hj⟩))))
        exact absurd (hfree.symm.trans (partDefCheck_state hok hheld)) (by decide)
      · have hrun : ¬ run := fun hrun => hheld (held_of_running hrun)
        obtain ⟨hg, hans⟩ := granted_effect hw
        have hst : partDefCheck s p v = stOk := by
          rw [not_or, ← List.any_eq_true] at hheld
          simp [partDefCheck, hok, hheld]
        refine writes_partDef_taken hw hst ⟨by simp, fun _ hr => absurd hr hrun, fun _ _ _ => ⟨?_, answered_applyPartDef hans p _, ?_⟩⟩
        · rw [partDef_applyPartDef, if_pos rfl]
        · intro q hq
          rw [partDef_applyPartDef, if_neg hq, hg.partDef_eq]
  · obtain ⟨hg, -⟩ := granted_effect hw
    refine writes_partDef_taken hw (partDefCheck_ok hok hheld hfree) ?_
    have h0' := (hg.partDef_eq p).trans h0
    obtain ⟨hjoin, hwait, hother⟩ := applyPartDef_sites h0' hv
    refine ⟨by rw [partDef_applyPartDef, if_pos rfl], fun d hd hl => ?_, fun d hd hl => ?_, fun d hd => ?_, ?_⟩
    · exact hjoin d hd (by rw [hg.siteSt_eq]; exact hl)
    · exact hwait d hd (by rw [hg.siteSt_eq]; exact hl)
    · rw [hother d hd, hg.siteSt_eq]
    · exact memoriesKept_trans hg.memories
        (memoriesKept_trans (memoriesKept_of_eq rfl rfl) (applyPartDef_frame _ p v.toNat).2.1)
  · obtain ⟨-, hclear, hkept⟩ := clearSpads_effect s (siteCores site)
    obtain ⟨hempty, hother, hcl⟩ := clearVaults_effect (clearSpads s (siteCores site)) site (List.range 16)
    generalize hcleared : clearVaults (clearSpads s (siteCores site)) site (List.range 16) = u at hempty hother hcl
    obtain ⟨hpart, hjoin, hlast, -⟩ := joinSite_effect u site p
    obtain ⟨-, ⟨hspad, hvault⟩, -⟩ := (joinSite_frame u site p).definitions
    have hcores : ∀ c, (coreOf u c).spad = (coreOf (clearSpads s (siteCores site)) c).spad := fun c => by
      simp only [coreOf, hcl.cores_eq]
    refine ⟨_, (exec_siteClearDone hj hp).trans (by rw [hcleared]), hpart, hjoin, hlast, fun c hc => ?_, fun k hk => ?_, fun c hc => ?_,
      fun k hk => ?_⟩
    · rw [hspad, hcores, hclear c hc]
    · rw [hvault, hempty k (List.mem_range.2 hk)]
    · rw [hspad, hcores, hkept c hc]
    · rw [hvault, hother k (fun i hi e => hk (by have := List.mem_range.1 hi; omega))]
      simp only [clOf, clearSpads_clusters]
  · obtain ⟨-, hclear, hkept⟩ := clearSpads_effect s (partCores s p)
    obtain ⟨t, he, ht⟩ := exec_partitionClearDone hc
    have hp : partOf t p = partOf s p := by simp only [partOf, ht.parts_eq, clearSpads_parts]
    have hcores : ∀ c, (coreOf t c).spad = (coreOf (clearSpads s (partCores s p)) c).spad := fun c => by
      simp only [coreOf, ht.cores_eq]
    refine ⟨_, he, ?_, ?_, ?_, fun c hc => ?_, fun c hc => ?_⟩
    · simp
    · simp [hp]
    · simp
    · rw [coreOf_updPart, hcores, hclear c hc]
    · rw [coreOf_updPart, hcores, hkept c hc]

end Sys2Proof.Machine
end

section
/-! PROOF. The end of a job (R76, R267, R565): whatever ends it, its partition has no job and is to be cleared, and its requests are
final. -/

namespace Sys2Proof.Machine

/-! Requests go on toward their ends. -/

/-- Every scratchpad is as it was; a request that is there was there, of the same partition, and is final if it was. -/
def requestsSettle (s t : State) : Prop :=
  spadsKept s t ∧ ∀ h r', reqOf t h = some r' → ∃ r, reqOf s h = some r ∧ r'.part = r.part ∧ (reqFinal r = true → reqFinal r' = true)
theorem requestsSettle_refl (s : State) : requestsSettle s s := ⟨fun _ => rfl, fun _ r h => ⟨r, h, rfl, id⟩⟩
theorem requestsSettle_trans {s t u : State} (h : requestsSettle s t) (g : requestsSettle t u) : requestsSettle s u := by
  refine ⟨fun c => (g.1 c).trans (h.1 c), fun k r'' hr'' => ?_⟩
  obtain ⟨r', hr', hp', hf'⟩ := g.2 k r'' hr''
  obtain ⟨r, hr, hp, hf⟩ := h.2 k r' hr'
  exact ⟨r, hr, hp'.trans hp, hf' ∘ hf⟩
theorem requestsSettle_foldl {α : Type} {f : State → α → State} (h : ∀ s a, requestsSettle s (f s a)) (l : List α) (s : State) :
    requestsSettle s (l.foldl f s) := foldl_rel requestsSettle_refl requestsSettle_trans h l s
theorem requestsSettle_of_reqs {s t : State} (hs : spadsKept s t) (hr : t.reqs = s.reqs) : requestsSettle s t :=
  ⟨hs, fun h r' h' => ⟨r', by rw [← h', reqOf, reqOf, hr], rfl, id⟩⟩
theorem requestsSettle_of_eq {s t : State} (hc : t.cores = s.cores) (hr : t.reqs = s.reqs) : requestsSettle s t :=
  requestsSettle_of_reqs (fun c => by simp only [coreOf, hc]) hr
theorem onlyBooks.settle {s t : State} (h : onlyBooks s t) : requestsSettle s t :=
  requestsSettle_of_eq (by rw [h]) (by rw [h])
theorem onlyRecords.settle {s t : State} (h : onlyRecords s t) : requestsSettle s t := h.1.settle

/-- A request that is replaced by one of its partition, final if it was. -/
theorem requestsSettle_setReq {s : State} {h : Nat} {r v : Request} (hr : reqOf s h = some r) (hp : v.part = r.part)
    (hf : reqFinal r = true → reqFinal v = true) : requestsSettle s (setReq s h v) := by
  refine ⟨fun _ => rfl, fun k r' h' => ?_⟩
  rw [reqOf_setReq] at h'
  split at h'
  · next e => subst e; cases h'; exact ⟨r, hr, hp, hf⟩
  · exact ⟨r', h', rfl, id⟩
/-- A request that leaves the table. -/
theorem requestsSettle_delReq (s : State) (h : Nat) : requestsSettle s { s with reqs := delN s.reqs h } := by
  refine ⟨fun _ => rfl, fun k r' h' => ?_⟩
  simp only [reqOf] at h' ⊢
  by_cases e : k = h
  · subst e; simp at h'
  · exact ⟨r', by rwa [lookupN_delN_ne e] at h', rfl, id⟩

/-! Operations at the end of a request (R247, R270, R293, R385). -/

theorem foldReq_settle (s : State) (h type : Nat) (payload : Bytes) : requestsSettle s (foldReq s h type payload) := by
  unfold foldReq updReq
  split
  · next r hr => exact requestsSettle_setReq hr rfl id
  · exact requestsSettle_refl s
theorem foldEnd_settle (s : State) (h reason stop : Nat) : requestsSettle s (foldEnd s h reason stop) := by
  unfold foldEnd
  split
  · next r hr =>
    refine requestsSettle_trans ?_ (foldReq_settle ..)
    split
    · exact requestsSettle_setReq hr rfl id
    · exact requestsSettle_refl s
  · exact requestsSettle_refl s
theorem freeExtents_frame (s : State) (d : Option SweepDesc) (ks : List Nat) (h : Nat) : onlyBooks s (freeExtents s d ks h) := by
  unfold freeExtents
  refine onlyBooks_foldl (fun t k => ?_) ks s
  extract_lets mine t'
  have ht : onlyBooks t t' := rfl
  split
  · exact ht
  · exact onlyBooks_trans ht (onlyBooks_foldl (fun u e => onlyBooks_updCl u k _) _ t')
theorem dropExtents_frame (s : State) (p h : Nat) : onlyBooks s (dropExtents s p h) :=
  onlyBooks_trans (freeExtents_frame ..) (freeExtents_frame ..)
theorem dropShards_frame (s : State) (p : Nat) (digest : Bytes) : onlyBooks s (dropShards s p digest) := by
  refine onlyBooks_foldl (fun t k => ?_) _ s
  split
  · exact onlyBooks_updCl ..
  · exact onlyBooks_refl t
theorem retireCheck_frame (s : State) (p : Nat) : onlyBooks s (retireCheck s p) := by
  unfold retireCheck
  split
  · exact onlyBooks_refl s
  · split
    · exact onlyBooks_refl s
    · extract_lets base s1 s2 s3
      have h1 : onlyBooks s s1 := by
        simp only [s1]; split
        · exact onlyBooks_refl s
        · exact dropShards_frame ..
      exact onlyBooks_trans h1 (onlyBooks_trans (t := s2) rfl (onlyBooks_trans (logInput_frame ..).1 (onlyBooks_stwEvent ..)))
theorem noteDraft_settle (s : State) (p : Nat) (digest : Bytes) : requestsSettle s (noteDraft s p digest) := by
  unfold noteDraft
  refine requestsSettle_trans (requestsSettle_foldl (fun t h => ?_) (partReqs s p) s) (logInput_frame ..).settle
  split
  · split
    · exact foldReq_settle ..
    · exact requestsSettle_refl t
  · exact requestsSettle_refl t
theorem draftCheck_settle (s : State) (p : Nat) : requestsSettle s (draftCheck s p) := by
  unfold draftCheck
  split
  · split
    · unfold unloadDraft
      extract_lets s1 s2 s3
      have h3 : onlyBooks s s3 := onlyBooks_trans (t := s1) rfl
        (onlyBooks_trans (onlyBooks_foldl (fun t h => freeExtents_frame ..) _ s1) (onlyBooks_updJob s2 p _))
      split
      · exact requestsSettle_trans h3.settle (noteDraft_settle ..)
      · exact h3.settle
    · exact requestsSettle_refl s
  · exact requestsSettle_refl s

/-- Held records that are posted take the entries of requests in a final state with them (R293). -/
theorem flushRecs_settle (n : Nat) : ∀ (l : List (BitVec 16 × Option Nat × Bytes)) (s : State) kept, requestsSettle s (flushRecs l s n kept)
  | [], s, kept => (onlyBooks_updWl s n _).settle
  | e :: t, s, kept => by
    unfold flushRecs
    extract_lets ringEmpty s1 s2
    split
    · refine requestsSettle_trans (onlyBooks_queueWrite s e.1.toNat 1 e.2.2).settle (requestsSettle_trans (t := s2) ?_ (flushRecs_settle n t s2 kept))
      simp only [s2]
      split
      · split
        · split
          · exact requestsSettle_delReq ..
          · exact requestsSettle_refl s1
        · exact requestsSettle_refl s1
      · exact requestsSettle_refl s1
    · exact flushRecs_settle n t s _
theorem postRec_settle (s : State) (q : Nat) (slot : Option Nat) (bs : Bytes) : requestsSettle s (postRec s q slot bs) := by
  unfold postRec flushHeld
  exact requestsSettle_trans (onlyBooks_updWl s _ _).settle (flushRecs_settle ..)

/-- A request in its final state, with nothing of it in flight. -/
def ended (r : Request) (st : ReqState) : Request :=
  { r with st := st, cancel := none, pause := none, parked := none, inFlight := false, cycle := none }

/-- After the request's own entry, the rest of its end ends no request twice. -/
theorem endRequest_live {s : State} {h : Nat} {r : Request} (hr : reqOf s h = some r) (hf : reqFinal r = false) (st : ReqState)
    (reason stop answer event : Nat) : requestsSettle (setReq s h (ended r st)) (endRequest s h st reason stop answer event) := by
  unfold endRequest
  split
  · next hn => simp [hr] at hn
  · next r' hr' =>
    obtain rfl : r = r' := by rw [hr] at hr'; exact Option.some.inj hr'
    rw [if_neg (by simp [hf])]
    extract_lets p s1 s2 s3 s4
    have h2 : onlyBooks s1 s2 := by
      refine onlyBooks_trans (t := if r.fetching = 0 then s1 else dropReads s1 h) ?_ (onlyBooks_updJob ..)
      split
      · exact onlyBooks_refl s1
      · rfl
    have h3 : requestsSettle s2 s3 :=
      requestsSettle_trans (foldEnd_settle s2 h reason stop)
        (requestsSettle_trans (dropExtents_frame (foldEnd s2 h reason stop) p h).settle (requestsSettle_of_eq rfl rfl))
    have h4 : onlyBooks s3 s4 := by
      simp only [s4]; split
      · exact onlyBooks_stwEvent ..
      · exact onlyBooks_refl s3
    have hs4 : requestsSettle s1 s4 := requestsSettle_trans h2.settle (requestsSettle_trans h3 h4.settle)
    split
    · exact requestsSettle_trans hs4 (requestsSettle_trans (postRec_settle ..)
        (requestsSettle_trans (retireCheck_frame ..).settle (draftCheck_settle ..)))
    · exact hs4

/-- A request that is failed is final, and no other request goes back. -/
theorem endRequest_failed (s : State) (h reason stop answer event : Nat) :
    requestsSettle s (endRequest s h .failed reason stop answer event)
    ∧ ∀ r', reqOf (endRequest s h .failed reason stop answer event) h = some r' → reqFinal r' = true := by
  cases hr : reqOf s h with
  | none =>
    have e : endRequest s h .failed reason stop answer event = s := by simp [endRequest, hr]
    rw [e]; exact ⟨requestsSettle_refl s, fun r' h' => by simp [hr] at h'⟩
  | some r =>
    cases hf : reqFinal r with
    | true =>
      have e : endRequest s h .failed reason stop answer event = s := by simp [endRequest, hr, hf]
      rw [e]; exact ⟨requestsSettle_refl s, fun r' h' => by rw [hr] at h'; cases h'; exact hf⟩
    | false =>
      have hl := endRequest_live hr hf .failed reason stop answer event
      refine ⟨requestsSettle_trans (requestsSettle_setReq (v := ended r .failed) hr rfl (fun _ => rfl)) hl, fun r' h' => ?_⟩
      obtain ⟨r0, h0, -, hfin⟩ := hl.2 h r' h'
      simp only [reqOf_setReq, if_true, Option.some.injEq] at h0
      exact hfin (h0 ▸ rfl)
/-- So is every request of a list. -/
theorem endRequests_failed (reason event : Nat) : ∀ (l : List Nat) (s : State),
    let t := l.foldl (fun s h => endRequest s h .failed reason 0 0 event) s
    requestsSettle s t ∧ ∀ h ∈ l, ∀ r', reqOf t h = some r' → reqFinal r' = true
  | [], s => ⟨requestsSettle_refl s, fun _ h => by simp at h⟩
  | k :: l, s => by
    obtain ⟨h1, hk⟩ := endRequest_failed s k reason 0 0 event
    obtain ⟨h2, hl⟩ := endRequests_failed reason event l (endRequest s k .failed reason 0 0 event)
    refine ⟨requestsSettle_trans h1 h2, fun h hh r' h' => ?_⟩
    rcases List.mem_cons.1 hh with rfl | hm
    · obtain ⟨r, hr, -, hfin⟩ := h2.2 h r' h'
      exact hfin (hk r hr)
    · exact hl h hm r' h'

/-- The requests of a partition stand in its list. -/
theorem mem_partReqs {s : State} {h p : Nat} {r : Request} (hr : reqOf s h = some r) (hp : r.part.val = p) : h ∈ partReqs s p := by
  have mem : ∀ m : List (Nat × Request), lookupN m h = some r → (h, r) ∈ m := by
    intro m
    induction m with
    | nil => simp
    | cons e m ih =>
      obtain ⟨k, v⟩ := e
      simp only [lookupN, List.mem_cons, Prod.mk.injEq]
      split
      · next e => intro hv; exact .inl ⟨e, (Option.some.inj hv).symm⟩
      · exact fun hv => .inr (ih hv)
  exact List.mem_map.2 ⟨(h, r), List.mem_filter.2 ⟨mem _ hr, by simp [hp]⟩, rfl⟩

/-! Operations at the end of a job (R141, R267, R545). -/

theorem requestsSettle_setCore (s : State) (c : Nat) {v : CoreState} (hv : v.spad = (coreOf s c).spad) :
    requestsSettle s (setCore s c v) := by
  refine requestsSettle_of_reqs (fun d => ?_) rfl
  rw [coreOf_setCore]
  split
  · next e => rw [hv, e]
  · rfl
theorem drainEnd_settle (s : State) (c : Nat) : requestsSettle s (drainEnd s c) := by
  unfold drainEnd
  extract_lets v empty
  split
  · refine requestsSettle_trans (t := setCore s c _) ?_ (requestsSettle_of_eq (doorbellAt_cores ..) rfl)
    exact requestsSettle_setCore s c rfl
  · exact requestsSettle_refl s
theorem haltPart_settle (s : State) (p : Nat) : requestsSettle s (haltPart s p) := by
  refine requestsSettle_foldl (fun t c => ?_) _ s
  unfold haltSeq
  extract_lets v
  split
  · refine requestsSettle_trans ?_ (drainEnd_settle ..)
    exact requestsSettle_setCore t c rfl
  · exact requestsSettle_refl t
theorem endHops_settle (s : State) (p : Nat) : requestsSettle s (endHops s p) := by
  refine requestsSettle_foldl (fun t d => ?_) _ s
  extract_lets h t'
  have ht : requestsSettle t t' := by
    simp only [t']; split
    · exact requestsSettle_of_eq rfl rfl
    · exact requestsSettle_refl t
  split
  · exact requestsSettle_trans ht (requestsSettle_of_eq rfl rfl)
  · exact ht
theorem adjustTheta_settle (s : State) (p : Nat) (j : Job) : requestsSettle s (adjustTheta s p j) := by
  unfold adjustTheta
  extract_lets sum n o u th x lo hi
  split
  · exact requestsSettle_refl s
  · exact (setTheta_frame ..).settle

/-- A job that is no Instar job ends with its requests, and its partition's record of it comes last. -/
theorem endJob_shape {s : State} {p : Nat} {j : Job} (hj : jobOf s p = some j) (hi : j.instar = none) (reason event : Nat) :
    ∃ u f, endJob s p reason event = updPart u p f
      ∧ requestsSettle ((partReqs s p).foldl (fun s h => endRequest s h .failed reason 0 0 event) s) u
      ∧ ∀ v, (f v).job = none ∧ (f v).clearing = true ∧ (f v).lastLayout = j.digest := by
  unfold endJob
  split
  · next hn => simp [hj] at hn
  · next j' hj' =>
    obtain rfl : j = j' := by rw [hj] at hj'; exact Option.some.inj hj'
    extract_lets s1 s2 b s3 s4 s5 s6 s7
    have h3 : requestsSettle s2 s3 := by
      simp only [s3]; split
      · next i e => rw [hi] at e; cases e
      · exact requestsSettle_of_eq rfl rfl
    have h5 : requestsSettle s4 s5 := by
      simp only [s5]; split
      · exact adjustTheta_settle ..
      · exact requestsSettle_refl s4
    have h6 : requestsSettle s5 s6 := by
      simp only [s6]; split
      · exact requestsSettle_of_eq rfl rfl
      · exact requestsSettle_refl s5
    refine ⟨s7, _, rfl, ?_, fun _ => ⟨rfl, rfl, rfl⟩⟩
    exact requestsSettle_trans (haltPart_settle ..) (requestsSettle_trans h3 (requestsSettle_trans (logInput_frame ..).settle
      (requestsSettle_trans h5 (requestsSettle_trans h6 (endHops_settle ..)))))

/-- What an ended job leaves (R76, R267, R565): its partition has no job and is to be cleared, its layout is the last one, every request
of it is final, and every scratchpad is as it was. -/
theorem endJob_effect {s : State} {p : Nat} {j : Job} (hj : jobOf s p = some j) (hi : j.instar = none) (reason event : Nat) :
    let t := endJob s p reason event
    jobOf t p = none ∧ (partOf t p).clearing = true ∧ (partOf t p).lastLayout = j.digest
    ∧ (∀ h r, reqOf t h = some r → r.part.val = p → reqFinal r = true) ∧ spadsKept s t := by
  obtain ⟨u, f, e, hu, hf⟩ := endJob_shape hj hi reason event
  obtain ⟨hl, hfin⟩ := endRequests_failed reason event (partReqs s p) s
  intro t
  obtain ⟨hjob, hclear, hlast⟩ := hf (partOf u p)
  have hp : partOf t p = f (partOf u p) := by simp only [t, e, partOf_updPart_self]
  have ht := requestsSettle_trans hu (requestsSettle_of_eq (t := t) (by rw [show t = _ from e]; rfl) (by rw [show t = _ from e]; rfl))
  refine ⟨by rw [jobOf, hp, hjob], by rw [hp, hclear], by rw [hp, hlast], fun h r hr hpart => ?_, (requestsSettle_trans hl ht).1⟩
  obtain ⟨r1, hr1, hp1, hf1⟩ := ht.2 h r hr
  obtain ⟨r0, hr0, hp0, -⟩ := hl.2 h r1 hr1
  exact hf1 (hfin h (mem_partReqs hr0 (by rw [← hp0, ← hp1, hpart])) r1 hr1)

end Sys2Proof.Machine
end

section
/-! PROOF. JOB_LOAD (R39, R228, R266): a start whose file does not come or a check refuses is dropped, with its event; a layout that
passes runs, and what placing it changes leaves the job's layout as it was loaded. -/

namespace Sys2Proof.Machine

/-! What a job runs. -/

/-- A job's marks of having been loaded: that it runs and has started, its layout with its digest, and its regions. -/
def programOf (s : State) (p : Nat) : Option (Bool × Option LayoutFile × Bytes × Bool × NMap RegionRun) :=
  (jobOf s p).map (fun j => (j.running, j.file, j.digest, j.started, j.regions))

/-- A partition's job runs what it ran, and no object has another value. -/
def programKept (p : Nat) (s t : State) : Prop := t.objs = s.objs ∧ programOf t p = programOf s p
theorem programKept_refl (p : Nat) (s : State) : programKept p s s := ⟨rfl, rfl⟩
theorem programKept_trans {p : Nat} {s t u : State} (h : programKept p s t) (g : programKept p t u) : programKept p s u :=
  ⟨g.1.trans h.1, g.2.trans h.2⟩
theorem programKept_foldl {p : Nat} {α : Type} {f : State → α → State} (h : ∀ s a, programKept p s (f s a)) (l : List α) (s : State) :
    programKept p s (l.foldl f s) := foldl_rel (programKept_refl p) programKept_trans h l s
theorem programKept_of_parts {p : Nat} {s t : State} (ho : t.objs = s.objs) (hp : t.parts = s.parts) : programKept p s t :=
  ⟨ho, by rw [programOf, programOf, jobOf_of_parts hp]⟩
theorem onlyUnits.program {s t : State} (h : onlyUnits s t) (p : Nat) : programKept p s t := programKept_of_parts h.objs_eq h.parts_eq
theorem onlyRecords.program {s t : State} (h : onlyRecords s t) (p : Nat) : programKept p s t :=
  ⟨by rw [h.1], by rw [programOf, programOf, h.2.job]⟩
theorem programKept_updJob (s : State) (p : Nat) {f : Job → Job}
    (h : ∀ j, ((f j).running, (f j).file, (f j).digest, (f j).started, (f j).regions) = (j.running, j.file, j.digest, j.started, j.regions)) :
    programKept p s (updJob s p f) :=
  ⟨rfl, by simp only [programOf, jobOf_updJob_self, Option.map_map, Function.comp_def, h]⟩
theorem programKept_foldReq (p : Nat) (s : State) (h type : Nat) (payload : Bytes) : programKept p s (foldReq s h type payload) := by
  unfold foldReq updReq
  split
  · exact programKept_of_parts rfl rfl
  · exact programKept_refl p s

/-! Shards follow the placement (R230). -/

theorem shardGone_frame (s : State) (p : Nat) (digest : Bytes) (index : Nat) : onlyRecords s (shardGone s p digest index) := by
  unfold shardGone
  extract_lets _
  split
  · exact onlyRecords_updPart s p (fun _ => rfl) (fun _ => rfl)
  · exact onlyRecords_updPart s p (fun _ => rfl) (fun _ => rfl)
theorem moveShard_frame (s : State) (p : Nat) (m : Manifest) (bank : Nat) (copies : List ShardPlace) (o x : ShardPlace) :
    onlyRecords s (moveShard s p m bank copies o x) := by
  unfold moveShard
  extract_lets k k'
  split
  · exact onlyRecords_refl s
  · extract_lets
    split
    · refine onlyRecords_trans ?_ (onlyRecords_updCl ..)
      refine onlyRecords_trans ?_ (onlyRecords_vaultPass ..)
      exact onlyRecords_updCl ..
    · split
      · exact onlyRecords_refl s
      · exact shardGone_frame ..
theorem moveShards_frame (s : State) (p : Nat) (m : Manifest) (bank : Nat) (copies old new : List ShardPlace) :
    onlyRecords s (moveShards s p m bank copies old new) := by
  refine onlyRecords_foldl (fun t x => ?_) new s
  split
  · exact onlyRecords_refl t
  · split
    · exact onlyRecords_refl t
    · exact moveShard_frame ..

/-- A placement that comes into force moves shards and is noted; the job runs what it ran. -/
theorem setPlacement_program (s : State) (p : Nat) (f : LayoutFile) (n : Nat) : programKept p s (setPlacement s p f n) := by
  unfold setPlacement
  split
  · exact programKept_refl p s
  · split
    · exact programKept_refl p s
    · extract_lets bits old new e s1 s2 s3 s4 pay s5 s6
      have h1 : onlyRecords s s1 := by
        simp only [s1]; split
        · exact moveShards_frame ..
        · exact onlyRecords_refl s
      have h2 : onlyRecords s1 s2 := by
        simp only [s2]; split
        · exact moveShards_frame ..
        · exact onlyRecords_refl s1
      have h3 : onlyRecords s2 s3 := by
        simp only [s3]; split
        · exact moveShards_frame ..
        · exact onlyRecords_refl s2
      have h5 : programKept p s3 s5 :=
        programKept_trans (t := s4) (programKept_updJob s3 p (fun _ => rfl)) (programKept_updJob s4 p (fun _ => rfl))
      have h6 : programKept p s5 s6 := by
        simp only [s6]; split
        · exact programKept_foldl (fun _ _ => programKept_foldReq ..) _ s5
        · exact programKept_refl p s5
      exact programKept_trans ((onlyRecords_trans h1 (onlyRecords_trans h2 h3)).program p)
        (programKept_trans h5 (programKept_trans h6 ((logInput_frame ..).program p)))

/-! A layout is placed (R141, R224, R266). -/

theorem onlyClusters.units {s t : State} (h : onlyClusters s t) : onlyUnits s t := by unfold onlyUnits; rw [h]
theorem emptySlots_frame (s : State) (p : Nat) (d : SweepDesc) : onlyUnits s (emptySlots s p d) := by
  unfold emptySlots
  split
  · exact onlyUnits_refl s
  · exact onlyUnits_foldl (fun t c => onlyUnits_updCl ..) _ s
theorem placeCode_frame (s : State) (p : Nat) (f : LayoutFile) (n : Nat) : onlyUnits s (placeCode s p f n) := by
  unfold placeCode
  extract_lets s1 s2 s3
  have h1 : onlyUnits s s1 := onlyUnits_foldl (fun t e => onlyUnits_updRouter ..) _ s
  have h2 : onlyUnits s1 s2 := onlyUnits_foldl (fun t e => onlyUnits_updCore ..) _ s1
  have h3 : onlyUnits s2 s3 := onlyUnits_foldl (fun t e => onlyUnits_updCore ..) _ s2
  refine onlyUnits_trans (onlyUnits_trans h1 (onlyUnits_trans h2 h3)) (onlyUnits_foldl (fun t e => ?_) _ s3)
  refine onlyUnits_foldl (fun u c => ?_) _ t
  split
  · exact onlyUnits_refl u
  · exact onlyUnits_updCore ..
theorem epochDescs_frame (s : State) (p : Nat) (m : Manifest) (bank : Nat) (xs : List ShardPlace) :
    onlyUnits s (epochDescs s p m bank xs) := by
  refine onlyUnits_foldl (fun t x => ?_) xs s
  split
  · exact onlyUnits_foldl (fun u e => onlyUnits_updCore ..) _ t
  · exact onlyUnits_refl t
/-- Placing a job's layout writes cores, routers and clusters alone. -/
theorem placeJob_frame (s : State) (p : Nat) : onlyUnits s (placeJob s p) := by
  unfold placeJob
  split
  · exact onlyUnits_refl s
  next j _ =>
  split
  · exact onlyUnits_refl s
  · next f _ =>
      extract_lets n s1 s2 s3 s4 e xs s5
      have h1 : onlyUnits s s1 := onlyUnits_foldl (fun t c => by
        split
        · split
          · exact onlyUnits_refl t
          · exact onlyUnits_updCore ..
        · exact onlyUnits_trans (onlyUnits_updCore t c (coreForJob j f)) (onlyUnits_updRouter ..)) _ s
      have h2 : onlyUnits s1 s2 := onlyUnits_trans (clearCache_frame s1 p f.body.sweep).units (emptySlots_frame ..)
      have h3 : onlyUnits s2 s3 := onlyUnits_foldl (fun t e => by
        split
        · exact rfl
        · exact onlyUnits_refl t) _ s2
      have h5 : onlyUnits s4 s5 := by
        simp only [s5]; split
        · exact epochDescs_frame ..
        · exact onlyUnits_refl s4
      refine onlyUnits_trans h1 (onlyUnits_trans h2 (onlyUnits_trans h3 (onlyUnits_trans (placeCode_frame ..) (onlyUnits_trans h5 ?_))))
      split
      · exact epochDescs_frame ..
      · exact onlyUnits_refl s5
/-- Starting its streams sets sequencers alone. -/
theorem startStreams_frame (s : State) (p : Nat) : onlyUnits s (startStreams s p) := by
  unfold startStreams
  split
  · exact onlyUnits_refl s
  · split
    · exact onlyUnits_refl s
    · refine onlyUnits_foldl (fun t e => ?_) _ s
      extract_lets c
      split
      · exact onlyUnits_refl t
      · refine onlyUnits_trans (t := clearErr t c) ?_ (onlyUnits_updCore ..)
        unfold clearErr; split
        · exact onlyUnits_refl t
        · exact onlyUnits_updCore ..

/-! A job that passes runs (R266). -/

theorem keepEpochs_frame (s : State) (p : Nat) (program : Bytes) : onlyRecords s (keepEpochs s p program) := by
  unfold keepEpochs
  split
  · split
    · exact onlyRecords_refl s
    · exact (dropEpochs_frame s p).1
  · split
    · exact onlyRecords_refl s
    · exact (dropEpochs_frame s p).1
  · exact onlyRecords_refl s
theorem isBino_of_objs {s t : State} (h : t.objs = s.objs) (p : Nat) : isBino t p = isBino s p := by simp [isBino, obj, h]

/-- A serving job runs its layout, with its digest and its regions as they start. -/
theorem runJob_program {s : State} {p : Nat} {j : Job} (hj : jobOf s p = some j) (f : LayoutFile) (inst : Option (Instar × Bytes)) :
    (runJob s p f inst).objs = s.objs
    ∧ programOf (runJob s p f inst) p = some (true, some f, sha256 f.bytes, true, startRegions s p (sha256 f.bytes) f) := by
  unfold runJob
  split
  · next hn => simp [hj] at hn
  · extract_lets program theta e epoch n chain s1 desc s2 s3
    have h1 : programOf s1 p = some (true, some f, program, true, startRegions s p program f) := by
      simp [s1, programOf, hj]
    have h3 : programKept p s1 s3 := programKept_trans (t := s2) ((logInput_frame ..).program p)
      (programKept_trans (setPlacement_program s2 p f n) ((placeJob_frame ..).program p))
    split
    · exact ⟨h3.1, h3.2.trans h1⟩
    · have h := programKept_trans h3 ((startStreams_frame s3 p).program p)
      exact ⟨h.1, h.2.trans h1⟩

end Sys2Proof.Machine
end

section
/-! PROOF. The outcomes of JOB_LOAD (R39, R228, R266). -/

namespace Sys2Proof.Machine

/-! A start that is dropped. -/

/-- A dropped start leaves its partition without a job, and every memory as it was. -/
theorem dropJob_effect (s : State) (p : Nat) : jobOf (dropJob s p) p = none ∧ memoriesKept s (dropJob s p) :=
  ⟨by simp [dropJob, jobOf], memoriesKept_of_eq rfl rfl⟩
theorem hostFetch_memories (s : State) (n addr len got : Nat) : memoriesKept s (hostFetch s n addr len got) :=
  memoriesKept_of_eq (by rw [hostFetch_frame]) (by rw [hostFetch_frame])
theorem hostFetch_events (s : State) (n addr len got : Nat) : (hostFetch s n addr len got).events = s.events := by rw [hostFetch_frame]
theorem hostFetch_parts (s : State) (n addr len got : Nat) : (hostFetch s n addr len got).parts = s.parts := by rw [hostFetch_frame]
theorem hostFetch_objs (s : State) (n addr len got : Nat) : (hostFetch s n addr len got).objs = s.objs := by rw [hostFetch_frame]

/-- A start is dropped with the one event that tells why. -/
def droppedWith (s t : State) (p : Nat) (code : BitVec 16) (detail : Bytes) : Prop :=
  jobOf t p = none ∧ ∃ e, t.events = s.events ++ [e] ∧ e.code = code ∧ e.detail = detail
theorem droppedWith_stwEvent (s : State) (p code sev : Nat) (q req : Option Nat) (d : Bytes) :
    droppedWith s (stwEvent (dropJob s p) code sev q req d) p (BitVec.ofNat 16 code) (sliceB d 0 16) := by
  refine ⟨(dropJob_effect s p).1, ?_⟩
  obtain ⟨e, he, hc, -, -, -, -, -, hd⟩ := emit_events (dropJob s p) _ _
  exact ⟨_, he, hc, hd⟩

/-! The checks of a layout, in their order. -/

section
variable {s : State} {p : Nat} {f : LayoutFile} {digest : Bytes} {instar : Bool} (k : State → State)

theorem checkLayout_fault {off : Nat} (h : layoutFault s p f instar = some off) :
    checkLayout s p f digest instar k = layoutMalformed (dropJob s p) (some p) off 0 := by
  simp only [checkLayout, checkFile, h]
theorem checkLayout_digest (h : layoutFault s p f instar = none) (hd : sha256 f.bytes ≠ digest) :
    checkLayout s p f digest instar k = layoutReject (dropJob s p) p 9 := by
  simp only [checkLayout, checkFile, h, if_pos hd]
theorem checkLayout_reason (h : layoutFault s p f instar = none) (hd : sha256 f.bytes = digest) {r : Nat}
    (hr : loadReason s p f = some r) (h8 : r ≠ 8) : checkLayout s p f digest instar k = layoutReject (dropJob s p) p r := by
  simp only [checkLayout, checkFile, h, hd, ne_eq, not_true, if_false, hr]
theorem checkLayout_passes (h : layoutFault s p f instar = none) (hd : sha256 f.bytes = digest) (hr : loadReason s p f = none) :
    checkLayout s p f digest instar k = k s := by
  simp only [checkLayout, checkFile, h, hd, ne_eq, not_true, if_false, hr]
end

/-- The checks read no queue toward the host. -/
theorem layoutFault_hostFetch (s : State) (n addr len got p : Nat) (f : LayoutFile) (b : Bool) :
    layoutFault (hostFetch s n addr len got) p f b = layoutFault s p f b := by rw [hostFetch_frame]; rfl
theorem loadReason_hostFetch (s : State) (n addr len got p : Nat) (f : LayoutFile) :
    loadReason (hostFetch s n addr len got) p f = loadReason s p f := by rw [hostFetch_frame]; rfl

/-! The command. -/

/-- What a loading job's file is read as: the reads of its descriptor's layout, with as many bytes as came. -/
def layoutRead (s : State) (j : Job) (got : Nat) : State := hostFetch s j.port.val (leAt j.desc 0x10 8) (leAt j.desc 0x18 8) got

/-- A serving job that passed its checks runs; a Binocular one waits for its peer. -/
def serveLayout (s : State) (p : Nat) (f : LayoutFile) : State :=
  let s := runJob (keepEpochs s p (sha256 f.bytes)) p f none
  if isBino s p then pairJob s p else s
/-- In a mode that is not Binocular it runs that layout, with its digest and its regions. -/
theorem serveLayout_effect {s : State} {p : Nat} {j : Job} (hj : jobOf s p = some j) (hb : isBino s p = false) (f : LayoutFile) :
    ∃ j', jobOf (serveLayout s p f) p = some j' ∧ j'.running = true ∧ j'.file = some f ∧ j'.digest = sha256 f.bytes
      ∧ j'.started = true ∧ j'.regions.length = f.body.regions.length := by
  have hk := keepEpochs_frame s p (sha256 f.bytes)
  obtain ⟨ho, hprog⟩ := runJob_program ((hk.2.job p).trans hj) f none
  have e : serveLayout s p f = runJob (keepEpochs s p (sha256 f.bytes)) p f none := by
    simp only [serveLayout]
    rw [isBino_of_objs ho, isBino_of_objs (hk.program p).1, hb]; rfl
  rw [e]
  obtain ⟨j', hj', h⟩ := Option.map_eq_some_iff.1 hprog
  simp only [Prod.mk.injEq] at h
  obtain ⟨hrun, hfile, hdig, hstart, hreg⟩ := h
  exact ⟨j', hj', hrun, hfile, hdig, hstart, by simp [hreg, startRegions]⟩

theorem layoutRead_dropped (s : State) (j : Job) (got p : Nat) :
    jobOf (dropJob (layoutRead s j got) p) p = none ∧ memoriesKept s (dropJob (layoutRead s j got) p) :=
  ⟨(dropJob_effect ..).1, memoriesKept_trans (hostFetch_memories ..) (dropJob_effect ..).2⟩
theorem droppedWith_layoutRead (s : State) (j : Job) (got p code sev : Nat) (q req : Option Nat) (d : Bytes) :
    droppedWith s (stwEvent (dropJob (layoutRead s j got) p) code sev q req d) p (BitVec.ofNat 16 code) (sliceB d 0 16) := by
  have h := droppedWith_stwEvent (layoutRead s j got) p code sev q req d
  rwa [droppedWith, show (layoutRead s j got).events = s.events from hostFetch_events ..] at h

section
variable {s : State} {p : PartId} {j : Job} (hj : jobOf s p = some j) (hr : j.running = false)
include hj hr

theorem jobLoad_without_file (a : Option Bytes) (g : Option LayoutFile) (c : Option Bytes) :
    exec (.jobLoad p none a g c) s = .next (dropJob (layoutRead s j 0) p) := by
  show execJobLoad p none a g c s = _
  simp [execJobLoad, hj, hr, fetchFile, layoutRead]
theorem jobLoad_of_wrong_length {f : LayoutFile} (h : f.bytes.length ≠ leAt j.desc 0x18 8) (a : Option Bytes) (g : Option LayoutFile)
    (c : Option Bytes) : exec (.jobLoad p (some f) a g c) s = .next (dropJob (layoutRead s j f.bytes.length) p) := by
  show execJobLoad p (some f) a g c s = _
  simp [execJobLoad, hj, hr, fetchFile, layoutRead, h]

/-- A file of the right length goes to the checks; a serving job that passes them runs. -/
theorem jobLoad_checks {f : LayoutFile} (h : f.bytes.length = leAt j.desc 0x18 8) (a : Option Bytes) (g : Option LayoutFile)
    (c : Option Bytes) : ∃ k : State → State,
      exec (.jobLoad p (some f) a g c) s = .next (checkLayout (layoutRead s j f.bytes.length) p f (jdDigest j.desc) false k)
      ∧ (j.kind = 1 → ∀ t, k t = serveLayout t p f) := by
  apply Exists.intro
  refine ⟨?_, fun hk t => ?_⟩
  · show execJobLoad p (some f) a g c s = _
    simp only [execJobLoad, hj, hr, fetchFile, h, layoutRead, Bool.false_eq_true, if_false, ne_eq, not_true]
    rfl
  · simp [hk, serveLayout]
end

/-! The obligation. -/

/-- Settles O35: the file is checked in the order of R39, and each check that fails drops the start with its event; what runs a serving
layout leaves the job's marks of it, and an ended job's requests are final. -/
theorem jobsLoadOrAreRefusedAndLeaveNothing : Obligations.JobsLoadOrAreRefusedAndLeaveNothing := by
  refine ⟨fun p s j hj hr => ⟨⟨_, jobLoad_without_file hj hr _ _ _, layoutRead_dropped ..⟩, fun f => ⟨fun hlen =>
    ⟨_, jobLoad_of_wrong_length hj hr hlen _ _ _, layoutRead_dropped ..⟩, fun hlen => ?_⟩⟩, fun s p reason event j hj hi =>
    endJob_effect hj hi reason event⟩
  obtain ⟨k, hexec, hk⟩ := jobLoad_checks hj hr hlen none none none
  have fault : layoutFault (layoutRead s j f.bytes.length) p f false = layoutFault s p f false := layoutFault_hostFetch ..
  have reason : loadReason (layoutRead s j f.bytes.length) p f = loadReason s p f := loadReason_hostFetch ..
  refine ⟨fun off h => ⟨_, hexec, ?_⟩, fun h => ⟨fun hd => ⟨_, hexec, ?_⟩, fun hd r hreason h8 _ => ⟨_, hexec, ?_⟩,
    fun hd hreason h1 hb => ⟨_, hexec, ?_⟩⟩⟩
  · rw [checkLayout_fault k (fault.trans h)]
    exact droppedWith_layoutRead ..
  · rw [checkLayout_digest k (fault.trans h) hd]
    exact droppedWith_layoutRead ..
  · rw [checkLayout_reason k (fault.trans h) hd (reason.trans hreason) h8]
    exact droppedWith_layoutRead ..
  · rw [checkLayout_passes k (fault.trans h) hd (reason.trans hreason), hk h1]
    exact serveLayout_effect ((jobOf_of_parts (hostFetch_parts ..) p).trans hj) ((isBino_of_objs (hostFetch_objs ..) p).trans hb) f

end Sys2Proof.Machine
end

section
/-! PROOF. Byte strings and memories in pieces: chunks of a list, a number read in two parts, and a row of writes to one memory. -/

namespace Sys2Proof.Machine

/-! Chunks. -/

theorem chunksOf_length {α : Type} {n : Nat} (hn : 0 < n) :
    ∀ (fuel : Nat) (l : List α), l.length ≤ fuel * n → (chunksOf n fuel l).length = ceilDiv l.length n
  | 0, l, h => by
    obtain rfl : l = [] := List.length_eq_zero_iff.1 (by omega)
    exact (Nat.div_eq_of_lt (by simp; omega)).symm
  | _ + 1, [], _ => (Nat.div_eq_of_lt (by simp; omega)).symm
  | fuel + 1, x :: t, h => by
    have hd : ((x :: t).drop n).length = (x :: t).length - n := List.length_drop
    have ih := chunksOf_length hn fuel ((x :: t).drop n) (by rw [Nat.succ_mul] at h; omega)
    simp only [chunksOf, List.length_cons, ih, hd, ceilDiv]
    by_cases hle : t.length + 1 ≤ n
    · rw [Nat.sub_eq_zero_of_le hle, Nat.div_eq_of_lt (by omega), Nat.div_eq_of_lt_le (k := 1) (by omega) (by omega)]
    · have e : t.length + 1 + n - 1 = (t.length + 1 - n + n - 1) + n := by omega
      rw [e, Nat.add_div_right _ hn]

/-- A list is cut into as many chunks as it takes to hold it. -/
theorem chunks_length {α : Type} {n : Nat} (hn : 0 < n) (l : List α) : (chunks n l).length = ceilDiv l.length n :=
  chunksOf_length hn _ l (by rw [Nat.succ_mul]; exact (Nat.lt_div_mul_add hn).le)

/-! Bytes of a read, in parts. -/

theorem cellsRead_add (cs : List Host.Cell) : ∀ (a k n : Nat), cellsRead cs a (k + n) = cellsRead cs a k ++ cellsRead cs (a + k) n
  | _, 0, _ => by simp [cellsRead]
  | a, k + 1, n => by
    rw [Nat.add_right_comm k 1 n, cellsRead, cellsRead, cellsRead_add cs (a + 1) k n, Nat.add_right_comm a 1 k]
    rfl
theorem memRead_add (m : Mem) (a k n : Nat) : memRead m a (k + n) = memRead m a k ++ memRead m (a + k) n := cellsRead_add ..

/-- The number in the first bytes of a read, and in bytes further on. -/
theorem leAt_memRead (m : Mem) (a : Nat) {off k n : Nat} (h : off + k ≤ n) :
    leAt (memRead m a n) off k = leNat (memRead m (a + off) k) := by
  obtain ⟨r, rfl⟩ := Nat.exists_eq_add_of_le h
  rw [leAt, Nat.add_assoc, memRead_add, List.drop_left' (memRead_length ..), memRead_add, List.take_left' (memRead_length ..)]

theorem leNat_append : ∀ (x y : Bytes), leNat (x ++ y) = leNat x + 256 ^ x.length * leNat y
  | [], y => by simp [leNat]
  | b :: t, y => by
    rw [List.cons_append, leNat, leNat, leNat_append t y, List.length_cons, Nat.pow_succ]
    ring

/-- An FP32 operand that takes a granule is its low half. -/
theorem f32_of_granule (s : State) (c a : Nat) : BitVec.ofNat 32 (leNat (spadRead s c a 8)) = f32At s c a := by
  have h : spadRead s c a 8 = spadRead s c a 4 ++ spadRead s c (a + 4) 4 := memRead_add _ a 4 4
  have l : (spadRead s c a 4).length = 4 := memRead_length ..
  apply BitVec.eq_of_toNat_eq
  rw [f32At, h, leNat_append, l, BitVec.toNat_ofNat, BitVec.toNat_ofNat, show 256 ^ 4 = 2 ^ 32 by decide, Nat.add_mul_mod_self_left]

/-- n FP32 values are n. -/
@[simp] theorem spadF32_length (s : State) (c a n : Nat) : (spadF32 s c a n).length = n := by
  have h : (spadRead s c a (4 * n)).length = 4 * n := memRead_length ..
  simp only [spadF32, List.length_map, chunks_length (n := 4) (by decide), h, ceilDiv]
  omega
/-- They are those of the bytes they are read from. -/
theorem spadF32_congr {s t : State} {c a n : Nat} (h : spadRead t c a (4 * n) = spadRead s c a (4 * n)) :
    spadF32 t c a n = spadF32 s c a n := by rw [spadF32, spadF32, h]

/-! A row of writes to one memory. -/

/-- Byte strings written to their addresses, one after another. -/
def memWrites (m : Mem) (ps : List (Nat × Bytes)) : Mem := ps.foldl (fun m p => memWrite m p.1 p.2) m

/-- The bytes of a write lie in [lo, lo + n). -/
def writeIn (lo n : Nat) (p : Nat × Bytes) : Prop := lo ≤ p.1 ∧ p.1 + p.2.length ≤ lo + n

/-- A range that shares no byte with another is not touched by a write in that one. -/
theorem memRead_memWrite_in (m : Mem) {a n lo len x k : Nat} {p : Nat × Bytes} (h : apart a n lo len = true) (hp : writeIn lo len p)
    (hx : a ≤ x) (hk : x + k ≤ a + n) : memRead (memWrite m p.1 p.2) x k = memRead m x k := by
  obtain ⟨h1, h2⟩ := hp
  simp only [apart, Bool.or_eq_true, decide_eq_true_eq, beq_iff_eq] at h
  by_cases hz : p.2.length = 0
  · rw [List.length_eq_zero_iff.1 hz]; rfl
  · by_cases hk0 : k = 0
    · rw [hk0]; rfl
    · exact memRead_memWrite_apart m p.1 p.2 x k (by omega)

theorem sameOutside_memWrite_in (m : Mem) {lo n : Nat} {p : Nat × Bytes} (hp : writeIn lo n p) :
    sameOutside m (memWrite m p.1 p.2) lo n := by
  obtain ⟨h1, h2⟩ := hp
  obtain ⟨hb, hq⟩ := sameOutside_memWrite m p.1 p.2
  exact ⟨fun a ha => hb a (by omega), fun g hg => hq g (by omega)⟩

/-- Writes in a range differ from what was there in that range alone. -/
theorem sameOutside_memWrites {lo n : Nat} : ∀ (ps : List (Nat × Bytes)) (m : Mem), (∀ p ∈ ps, writeIn lo n p) →
    sameOutside m (memWrites m ps) lo n
  | [], m, _ => sameOutside_refl m lo n
  | p :: ps, m, h => sameOutside_trans (sameOutside_memWrite_in m (h p (by simp)))
      (sameOutside_memWrites ps (memWrite m p.1 p.2) (fun q hq => h q (by simp [hq])))

theorem memRead_memWrites_apart {x k : Nat} : ∀ (ps : List (Nat × Bytes)) (m : Mem),
    (∀ p ∈ ps, x + k ≤ p.1 ∨ p.1 + p.2.length ≤ x) → memRead (memWrites m ps) x k = memRead m x k
  | [], _, _ => rfl
  | p :: ps, m, h => (memRead_memWrites_apart ps (memWrite m p.1 p.2) (fun q hq => h q (by simp [hq]))).trans
      (memRead_memWrite_apart m p.1 p.2 x k (h p (by simp)))

/-- Where each write ends before the next ones begin, every one of them stands. -/
theorem memRead_memWrites : ∀ {ps : List (Nat × Bytes)} (m : Mem), ps.Pairwise (fun p q => p.1 + p.2.length ≤ q.1) →
    ∀ p ∈ ps, memRead (memWrites m ps) p.1 p.2.length = p.2
  | p :: ps, m, h, q, hq => by
    obtain ⟨hp, ht⟩ := List.pairwise_cons.1 h
    rcases List.mem_cons.1 hq with rfl | hq
    · exact (memRead_memWrites_apart ps (memWrite m q.1 q.2) (fun r hr => .inl (hp r hr))).trans (memRead_memWrite m q.1 q.2)
    · exact memRead_memWrites (memWrite m p.1 p.2) ht q hq

end Sys2Proof.Machine
end

section
/-! PROOF. STREAM and XSTREAM (R66, R119, R190, R191, R200): what the stream engine leaves unchanged, one step of decoding for each
case, and the whole tensor that a good stream puts into the FIFO. -/

namespace Sys2Proof.Machine

/-! What the stream engine leaves unchanged. -/

/-- No memory and no other core differs, and the core's contract level is kept. -/
structure OnlyDecodes (c : Nat) (s t : State) : Prop where
  memories : memoriesKept s t
  others   : ∀ k, k ≠ c → coreOf t k = coreOf s k
  level    : coreLevel t c = coreLevel s c
theorem OnlyDecodes.refl (c : Nat) (s : State) : OnlyDecodes c s s := ⟨memoriesKept_refl s, fun _ _ => rfl, rfl⟩
theorem OnlyDecodes.trans {c : Nat} {s t u : State} (h : OnlyDecodes c s t) (g : OnlyDecodes c t u) : OnlyDecodes c s u :=
  ⟨memoriesKept_trans h.memories g.memories, fun k hk => (g.others k hk).trans (h.others k hk), g.level.trans h.level⟩
/-- The SE's state and the FIFO are no memory and no register. -/
theorem onlyDecodes_updCore (s : State) (c : Nat) {f : CoreState → CoreState} (hm : ∀ v, (f v).spad = v.spad)
    (hr : ∀ v, (f v).regs = v.regs) : OnlyDecodes c s (updCore s c f) :=
  ⟨memoriesKept_updCore s c hm, fun _ hk => coreOf_updCore_ne s c f hk, by simp [coreLevel, creg, hr]⟩

theorem OnlyDecodes.srcMem {c : Nat} {s t : State} (h : OnlyDecodes c s t) (src : Nat) : srcMem t c src = srcMem s c src := by
  simp only [Machine.srcMem, h.memories.1, h.memories.2]
theorem OnlyDecodes.spadRead {c : Nat} {s t : State} (h : OnlyDecodes c s t) (a n : Nat) : spadRead t c a n = spadRead s c a n := by
  simp only [Machine.spadRead, h.memories.1]
theorem OnlyDecodes.readable {c : Nat} {s t : State} (h : OnlyDecodes c s t) (g n : Nat) : readable t c g n = readable s c g n := by
  simp only [Machine.readable, spadPoisoned, h.memories.1]
theorem OnlyDecodes.stripeFault {c : Nat} {s t : State} (h : OnlyDecodes c s t) (d j a : Nat) :
    stripeFault t c d j a = stripeFault s c d j a := by
  simp only [Machine.stripeFault, h.srcMem, h.level]
theorem OnlyDecodes.streamGood {c : Nat} {s t : State} (h : OnlyDecodes c s t) (d : Nat) : streamGood t c d ↔ streamGood s c d := by
  simp only [Machine.streamGood, h.srcMem, h.stripeFault]

/-! Counts and reports of what is read (R147, R352). -/

/-- Beyond that, the FIFO is kept. -/
structure OnlyCounts (c : Nat) (s t : State) : Prop extends OnlyDecodes c s t where
  fifo : (coreOf t c).fifo = (coreOf s c).fifo
theorem OnlyCounts.refl (c : Nat) (s : State) : OnlyCounts c s s := ⟨OnlyDecodes.refl c s, rfl⟩
theorem OnlyCounts.trans {c : Nat} {s t u : State} (h : OnlyCounts c s t) (g : OnlyCounts c t u) : OnlyCounts c s u :=
  ⟨h.toOnlyDecodes.trans g.toOnlyDecodes, g.fifo.trans h.fifo⟩
theorem onlyCounts_of_eq {c : Nat} {s t : State} (hc : t.cores = s.cores) (hk : t.clusters = s.clusters) : OnlyCounts c s t :=
  ⟨⟨memoriesKept_of_eq hc hk, fun k _ => by simp [coreOf, hc], by simp [coreLevel, creg, coreOf, hc]⟩, by simp [coreOf, hc]⟩
theorem onlyCounts_setCreg (s : State) (c v : Nat) {off : Nat} (h : off ≠ 0x40) : OnlyCounts c s (setCreg s c off v) :=
  ⟨⟨memoriesKept_updCore s c (fun _ => rfl), fun _ hk => coreOf_updCore_ne _ _ _ hk,
    by rw [coreLevel, creg_setCreg_off _ _ _ _ (Ne.symm h)]; rfl⟩, by simp [setCreg]⟩
theorem onlyCounts_bumpC (s : State) (c hi lo n : Nat) {off : Nat} (h : off ≠ 0x40) : OnlyCounts c s (bumpC s c off hi lo n) := by
  unfold bumpC; split
  · exact OnlyCounts.refl c s
  · exact onlyCounts_setCreg s c _ h
theorem onlyCounts_bumpK (s : State) (c k off hi lo n : Nat) : OnlyCounts c s (bumpK s k off hi lo n) := by
  unfold bumpK; split
  · exact OnlyCounts.refl c s
  · exact ⟨⟨memoriesKept_updCl s k (fun _ => rfl), fun _ _ => rfl, rfl⟩, rfl⟩
theorem onlyCounts_report (s : State) (c code sev unit rep i n tag : Nat) (d : Bytes) :
    OnlyCounts c s (doorbellAt (raise s code sev unit rep d) i n tag) := onlyCounts_of_eq (doorbellAt_cores ..) (doorbellAt_clusters ..)

theorem onlyCounts_starved (s : State) (c : Nat) : OnlyCounts c s (starved s c) :=
  OnlyCounts.trans (onlyCounts_setCreg s c (bumpField (creg s c 0x210) 31 0 (Config.freeWord s.free).toNat) (off := 0x210) (by decide))
    (onlyCounts_of_eq rfl rfl)

theorem ite_onlyCounts {c : Nat} {s t u : State} {p : Prop} [Decidable p] (ht : OnlyCounts c s t) (hu : OnlyCounts c s u) :
    OnlyCounts c s (if p then t else u) := by split <;> assumption

/-- A read in which the code saw nothing uncorrectable is counted and reported at most. -/
theorem onlyCounts_srcEcc (s : State) (c src a n : Nat) {e : EccObs} (h : e.ue = []) : OnlyCounts c s (srcEcc s c src a n e) := by
  unfold srcEcc vaultEcc spadEcc
  simp only [h, List.filter_nil, List.isEmpty_nil, if_true]
  split
  · have b := OnlyCounts.trans (OnlyCounts.trans (onlyCounts_bumpK s c (clusterOf c) 0x30 63 32 e.ce1)
      (onlyCounts_bumpK _ c (clusterOf c) 0x30 31 16 e.ce2)) (onlyCounts_bumpK _ c (clusterOf c) 0x30 15 0 ([] : List Nat).length)
    exact ite_onlyCounts b (OnlyCounts.trans b (onlyCounts_report ..))
  · have b := OnlyCounts.trans (OnlyCounts.trans (onlyCounts_bumpC s c 63 32 e.ce1 (off := 0x380) (by decide))
      (onlyCounts_bumpC _ c 31 16 e.ce2 (off := 0x380) (by decide)))
      (onlyCounts_bumpC _ c 15 0 ([] : List Nat).length (off := 0x380) (by decide))
    exact ite_onlyCounts b (OnlyCounts.trans b (onlyCounts_report ..))
theorem onlyCounts_streamRead (s : State) (c src a n : Nat) (first : Bool) {e : EccObs} (h : e.ue = []) :
    OnlyCounts c s (streamRead s c src a n first e) := by
  have hs := onlyCounts_srcEcc s c src a n h
  exact ite_onlyCounts (OnlyCounts.trans hs (onlyCounts_bumpC _ _ _ _ _ (by decide))) hs

/-! The output FIFO (R119). -/

@[simp] theorem onLast_concat (f : StreamTensor → StreamTensor) (l : List StreamTensor) (x : StreamTensor) :
    onLast f (l ++ [x]) = l ++ [f x] := by simp [onLast]
theorem fifoBlocks_concat {v : CoreState} {l : List StreamTensor} {x : StreamTensor} (h : v.fifo = l ++ [x]) :
    fifoBlocks v = (l.map tensorBlocks).sum + tensorBlocks x := by simp [fifoBlocks, h]

/-- The blocks of a tensor of stripes. -/
theorem tensorBlocks_stripes {x : StreamTensor} (h : x.bf16 = false) : tensorBlocks x = x.blocks.length := by simp [tensorBlocks, h]

/-! One step of decoding. -/

/-- The BF16 values of a byte string. -/
def bf16s (b : Bytes) : List BF16 := (chunks 2 b).map (fun x => BitVec.ofNat 16 (leNat x))

/-- Blocks, or values, join the tensor that the SE is putting into the FIFO, and the run goes on as r. -/
def joinBlocks (r : SeRun) (bs : List StreamBlock) (v : CoreState) : CoreState :=
  { v with se := some r, fifo := onLast (fun t => { t with blocks := t.blocks ++ bs }) v.fifo }
def joinValues (r : SeRun) (xs : List BF16) (v : CoreState) : CoreState :=
  { v with se := some r, fifo := onLast (fun t => { t with values := t.values ++ xs }) v.fifo }
theorem onlyDecodes_joinBlocks (s : State) (c : Nat) (r : SeRun) (bs : List StreamBlock) :
    OnlyDecodes c s (updCore s c (joinBlocks r bs)) :=
  onlyDecodes_updCore s c (fun _ => rfl) (fun _ => rfl)
theorem onlyDecodes_joinValues (s : State) (c : Nat) (r : SeRun) (xs : List BF16) :
    OnlyDecodes c s (updCore s c (joinValues r xs)) :=
  onlyDecodes_updCore s c (fun _ => rfl) (fun _ => rfl)

section
variable {c index opc fuel : Nat} {ecc : EccObs} {r : SeRun} {s : State}

/-- After the last stripe the tensor is whole, and the SE is free. -/
theorem decodeOn_end (h : sdCount r.desc.toNat ≤ r.stripe) : decodeOn c index opc (fuel + 1) ecc r s
    = .done (updCore s c (fun v => { v with se := none, fifo := onLast (fun t => { t with whole := true }) v.fifo })) := by
  simp [decodeOn, h]

/-- While the FIFO is full the stream stands. -/
theorem decodeOn_full (h : r.stripe < sdCount r.desc.toNat) (hf : 64 ≤ fifoBlocks (coreOf s c)) :
    decodeOn c index opc (fuel + 1) ecc r s = .wait (updCore s c (fun v => { v with se := some r })) := by
  simp [decodeOn, Nat.not_le.2 h, Nat.sub_eq_zero_of_le hf]

/-- BF16 values that the FIFO has room for join the tensor together. -/
theorem decodeOn_values (h : r.stripe < sdCount r.desc.toNat) (hk : sdKind r.desc.toNat = 1) (he : ecc.ue = [])
    (hroom : fifoBlocks (coreOf s c) + (sdCount r.desc.toNat - r.stripe) ≤ 64)
    (hcap : r.addr + 64 * (sdCount r.desc.toNat - r.stripe) ≤ srcCap (sdSrc r.desc.toNat))
    (hp : memPoisoned (srcMem s c (sdSrc r.desc.toNat)) r.addr (64 * (sdCount r.desc.toNat - r.stripe)) = false) :
    ∃ t r', OnlyCounts c s t ∧ r'.desc = r.desc ∧ r'.stripe = sdCount r.desc.toNat ∧
      decodeOn c index opc (fuel + 1) ecc r s = decodeOn c index opc fuel { ecc with ce1 := 0, ce2 := 0 } r'
        (updCore t c (joinValues r' (bf16s
          (memRead (srcMem s c (sdSrc r.desc.toNat)) r.addr (64 * (sdCount r.desc.toNat - r.stripe)))))) := by
  have hmin : min (64 - fifoBlocks (coreOf s c)) (sdCount r.desc.toNat - r.stripe) = sdCount r.desc.toNat - r.stripe := by omega
  have hz : ¬ 64 - fifoBlocks (coreOf s c) = 0 := by omega
  have hc := onlyCounts_streamRead s c (sdSrc r.desc.toNat) r.addr (64 * (sdCount r.desc.toNat - r.stripe)) (r.stripe = 0) he
  refine ⟨_, { r with stripe := r.stripe + (sdCount r.desc.toNat - r.stripe), addr := r.addr + 64 * (sdCount r.desc.toNat - r.stripe) },
    hc, rfl, by simp only; omega, ?_⟩
  rw [decodeOn]
  simp only [Nat.not_le.2 h, hz, hk, hmin, Nat.not_lt.2 hcap, hc.srcMem, hp, if_false, if_true, Bool.false_eq_true]
  rfl

/-- A good stripe that the FIFO has room for joins the tensor whole. -/
theorem decodeOn_stripe (h : r.stripe < sdCount r.desc.toNat) (hk : sdKind r.desc.toNat = 0) (he : ecc.ue = []) (hs : r.sent = 0)
    (hgood : stripeFault s c r.desc.toNat r.stripe r.addr = none)
    (hne : stripeDecoded (srcMem s c (sdSrc r.desc.toNat)) r.addr ≠ [])
    (hroom : fifoBlocks (coreOf s c) + (stripeDecoded (srcMem s c (sdSrc r.desc.toNat)) r.addr).length ≤ 64) :
    ∃ t r', OnlyCounts c s t ∧ r'.desc = r.desc ∧ r'.stripe = r.stripe + 1 ∧ r'.sent = 0
      ∧ r'.addr = r.addr + imageSize (srcMem s c (sdSrc r.desc.toNat)) r.addr ∧
      decodeOn c index opc (fuel + 1) ecc r s = decodeOn c index opc fuel { ecc with ce1 := 0, ce2 := 0 } r'
        (updCore t c (joinBlocks r' (stripeDecoded (srcMem s c (sdSrc r.desc.toNat)) r.addr))) := by
  have hlen := List.length_pos_iff.2 hne
  have hz : ¬ 64 - fifoBlocks (coreOf s c) = 0 := by omega
  have hc := onlyCounts_streamRead s c (sdSrc r.desc.toNat) r.addr
    (max (imageSize (srcMem s c (sdSrc r.desc.toNat)) r.addr) 64) (r.stripe = 0) he
  have htake : (stripeDecoded (srcMem s c (sdSrc r.desc.toNat)) r.addr).take (64 - fifoBlocks (coreOf s c))
      = stripeDecoded (srcMem s c (sdSrc r.desc.toNat)) r.addr := List.take_of_length_le (by omega)
  refine ⟨_, { r with stripe := r.stripe + 1, addr := r.addr + imageSize (srcMem s c (sdSrc r.desc.toNat)) r.addr, sent := 0 },
    hc, rfl, rfl, rfl, rfl, ?_⟩
  rw [decodeOn]
  simp only [Nat.not_le.2 h, hz, hk, hs, hc.srcMem, hc.stripeFault, hgood, htake, List.drop_zero, Nat.zero_add, Nat.le_refl,
    if_false, if_true, Nat.zero_ne_one]
  rfl
end

/-! A whole stream. -/

/-- The command is done, the tensor has joined the FIFO, and the SE is free. -/
def decodesTo (c : Nat) (e : EngRes) (s : State) (l : List StreamTensor) : Prop :=
  ∃ t, e = .done t ∧ OnlyDecodes c s t ∧ (coreOf t c).fifo = l ∧ (coreOf t c).se = none

theorem decodesTo_end {c index opc fuel : Nat} {ecc : EccObs} {r : SeRun} {s : State} {l : List StreamTensor} {x : StreamTensor}
    (h : sdCount r.desc.toNat ≤ r.stripe) (hf : (coreOf s c).fifo = l ++ [x]) :
    decodesTo c (decodeOn c index opc (fuel + 1) ecc r s) s (l ++ [{ x with whole := true }]) :=
  ⟨_, decodeOn_end h, onlyDecodes_updCore s c (fun _ => rfl) (fun _ => rfl), by simp [hf], by simp⟩

theorem decodesTo_mono {c : Nat} {e : EngRes} {s t : State} {l : List StreamTensor} (h : OnlyDecodes c s t) (g : decodesTo c e t l) :
    decodesTo c e s l := by
  obtain ⟨u, he, hu, hl⟩ := g
  exact ⟨u, he, OnlyDecodes.trans h hu, hl⟩

/-- The blocks of n consecutive stripes. -/
def stripesDecoded (m : Mem) (n a : Nat) : List StreamBlock := (imageList m n a).flatMap (fun e => stripeDecoded m e.1)
theorem stripesDecoded_succ (m : Mem) (n a : Nat) :
    stripesDecoded m (n + 1) a = stripeDecoded m a ++ stripesDecoded m n (a + imageSize m a) := rfl

/-- The SE stands before the last n stripes of run r; they are good, and the FIFO, whose last tensor is x, has room for them. -/
structure StripesToCome (c : Nat) (m : Mem) (l : List StreamTensor) (s : State) (r : SeRun) (x : StreamTensor) (n : Nat) : Prop where
  kind   : sdKind r.desc.toNat = 0
  unsent : r.sent = 0
  mem    : srcMem s c (sdSrc r.desc.toNat) = m
  count  : sdCount r.desc.toNat = r.stripe + n
  fifo   : (coreOf s c).fifo = l ++ [x]
  narrow : x.bf16 = false
  good   : ∀ i e, (imageList m n r.addr)[i]? = some e →
    stripeFault s c r.desc.toNat (r.stripe + i) e.1 = none ∧ stripeDecoded m e.1 ≠ []
  room   : (l.map tensorBlocks).sum + x.blocks.length + (stripesDecoded m n r.addr).length ≤ 64

/-- The first of them joins the tensor, and the others are still to come. -/
theorem StripesToCome.step {c index opc fuel n : Nat} {m : Mem} {l : List StreamTensor} {s : State} {r : SeRun} {x : StreamTensor}
    (h : StripesToCome c m l s r x (n + 1)) {ecc : EccObs} (he : ecc.ue = []) :
    ∃ t r', OnlyDecodes c s t ∧ r'.addr = r.addr + imageSize m r.addr
      ∧ StripesToCome c m l t r' { x with blocks := x.blocks ++ stripeDecoded m r.addr } n
      ∧ decodeOn c index opc (fuel + 1) ecc r s = decodeOn c index opc fuel { ecc with ce1 := 0, ce2 := 0 } r' t := by
  have hroom := h.room
  have hcount := h.count
  rw [stripesDecoded_succ, List.length_append] at hroom
  obtain ⟨hg0, hne⟩ := h.good 0 _ rfl
  have hb := fifoBlocks_concat h.fifo
  rw [tensorBlocks_stripes h.narrow] at hb
  obtain ⟨t, r', hc, hd', hst, hs', ha', heq⟩ := decodeOn_stripe (index := index) (opc := opc) (fuel := fuel)
    (by omega) h.kind he h.unsent hg0 (h.mem ▸ hne) (by rw [h.mem, hb]; omega)
  rw [h.mem] at ha' heq
  have hu := hc.toOnlyDecodes.trans (onlyDecodes_joinBlocks t c r' (stripeDecoded m r.addr))
  refine ⟨_, r', hu, ha', ⟨by rw [hd']; exact h.kind, hs', by rw [hu.srcMem, hd', h.mem], by rw [hd']; omega,
    by simp [joinBlocks, hc.fifo, h.fifo], h.narrow, fun i e hi => ?_, ?_⟩, heq⟩
  · rw [hu.stripeFault, hd', hst, Nat.add_assoc, Nat.add_comm 1]
    exact h.good (i + 1) e (by rwa [ha'] at hi)
  · rw [ha']; simp only [List.length_append]; omega

/-- Good stripes that the FIFO has room for are decoded one after another, to the end of the stream. -/
theorem decodeOn_stripes {c index opc : Nat} {m : Mem} {l : List StreamTensor} (n : Nat) :
    ∀ (fuel : Nat) (ecc : EccObs) (s : State) (r : SeRun) (x : StreamTensor),
      StripesToCome c m l s r x n → ecc.ue = [] → n ≤ fuel →
      decodesTo c (decodeOn c index opc (fuel + 1) ecc r s) s
        (l ++ [{ x with whole := true, blocks := x.blocks ++ stripesDecoded m n r.addr }]) := by
  induction n with
  | zero =>
    intro fuel ecc s r x h _ _
    simpa [stripesDecoded, imageList] using decodesTo_end (index := index) (opc := opc) (fuel := fuel) (ecc := ecc) h.count.le h.fifo
  | succ n ih =>
    intro fuel ecc s r x h he hn
    obtain ⟨fuel, rfl⟩ : ∃ f, fuel = f + 1 := ⟨fuel - 1, by omega⟩
    obtain ⟨t, r', hu, ha', h', heq⟩ := h.step (index := index) (opc := opc) (fuel := fuel + 1) he
    have := ih fuel { ecc with ce1 := 0, ce2 := 0 } t r' _ h' he (by omega)
    rw [ha'] at this
    rw [heq, stripesDecoded_succ]
    simpa only [List.append_assoc] using decodesTo_mono hu this

theorem imageList_length (m : Mem) : ∀ (n a : Nat), (imageList m n a).length = n
  | 0, _ => rfl
  | n + 1, a => by simp [imageList, imageList_length m n]

/-- So a good stream brings at least one block for each of its stripes or units. -/
theorem length_le_flatMap {α β : Type} {f : α → List β} : ∀ {l : List α}, (∀ a ∈ l, f a ≠ []) →
    l.length ≤ (l.flatMap f).length
  | [], _ => by simp
  | a :: l, h => by
    have ha := List.length_pos_iff.2 (h a (by simp))
    have ih := length_le_flatMap (f := f) (l := l) (fun b hb => h b (by simp [hb]))
    simp only [List.flatMap_cons, List.length_append, List.length_cons]; omega

/-- What the check of a stream descriptor leaves. -/
theorem sdError_none {d : Nat} (h : sdError d = none) : 0 < sdCount d ∧ (sdKind d = 0 ∨ sdKind d = 1) := by
  unfold sdError at h
  split at h
  · cases h
  · split at h
    · cases h
    · next h2 => simp at h2; omega

/-- The run that a stream begins with, and the empty tensor that joins the FIFO for it. -/
def firstRun (tensor d : Nat) : SeRun := { desc := BitVec.ofNat 128 d, tensor := tensor, stripe := 0, addr := sdBase d, sent := 0 }
def emptyTensor (d : Nat) : StreamTensor := { tscale := sdTscale d, bf16 := sdKind d == 1, blocks := [], values := [], whole := false }
def begun (s : State) (c tensor d : Nat) : State :=
  updCore s c (fun v => { v with se := some (firstRun tensor d), fifo := v.fifo ++ [emptyTensor d] })
theorem beginStream_ok {d : Nat} (h : sdError d = none) (s : State) (c tensor : Nat) (k : SeRun → State → EngRes) :
    beginStream s c tensor d k = k (firstRun tensor d) (begun s c tensor d) := by
  simp only [beginStream, h]; rfl

/-- The blocks of a tensor of BF16 units are its units. -/
theorem tensorBlocks_units {m : Mem} {d : Nat} (hk : sdKind d = 1) : tensorBlocks (streamTensor m d) = sdCount d := by
  have h : (chunks 2 (memRead m (sdBase d) (64 * sdCount d))).length = 32 * sdCount d := by
    rw [chunks_length (by decide), memRead_length, ceilDiv]; omega
  simp [tensorBlocks, streamTensor, hk, h]

theorem firstRun_desc {d : Nat} (hd : d < 2 ^ 128) (tensor : Nat) : (firstRun tensor d).desc.toNat = d := Nat.mod_eq_of_lt hd
theorem onlyDecodes_begun (s : State) (c tensor d : Nat) : OnlyDecodes c s (begun s c tensor d) :=
  onlyDecodes_updCore s c (fun _ => rfl) (fun _ => rfl)
theorem begun_fifo (s : State) (c tensor d : Nat) : (coreOf (begun s c tensor d) c).fifo = (coreOf s c).fifo ++ [emptyTensor d] := by
  simp [begun]

section
variable {s : State} {c d : Nat} (hg : streamGood s c d) (hd : d < 2 ^ 128)
  (hroom : fifoBlocks (coreOf s c) + tensorBlocks (streamTensor (srcMem s c (sdSrc d)) d) ≤ 64)
  (index opc tensor : Nat) {ecc : EccObs} (he : ecc.ue = [])
include hg hd hroom he

theorem decodeOn_good_stripes (hk : sdKind d = 0) :
    decodesTo c (decodeOn c index opc decodeFuel ecc (firstRun tensor d) (begun s c tensor d)) (begun s c tensor d)
      ((coreOf s c).fifo ++ [streamTensor (srcMem s c (sdSrc d)) d]) := by
  obtain ⟨-, -, -, hstr⟩ := hg
  have hD := firstRun_desc hd tensor
  have hu := onlyDecodes_begun s c tensor d
  have hlen : sdCount d ≤ (stripesDecoded (srcMem s c (sdSrc d)) (sdCount d) (sdBase d)).length := by
    refine (imageList_length _ _ _).symm.trans_le (length_le_flatMap (fun e hmem => ?_))
    obtain ⟨j, hj⟩ := List.mem_iff_getElem?.1 hmem
    exact (hstr hk j e hj).2
  have hblocks : tensorBlocks (streamTensor (srcMem s c (sdSrc d)) d)
      = (stripesDecoded (srcMem s c (sdSrc d)) (sdCount d) (sdBase d)).length := by
    simp [tensorBlocks, streamTensor, hk, stripesDecoded]
  rw [hblocks] at hroom
  have start : StripesToCome c (srcMem s c (sdSrc d)) (coreOf s c).fifo (begun s c tensor d) (firstRun tensor d) (emptyTensor d)
      (sdCount d) :=
    ⟨by rw [hD]; exact hk, rfl, by rw [hD, hu.srcMem], by rw [hD]; exact (Nat.zero_add _).symm, begun_fifo .., by simp [emptyTensor, hk],
      fun i e hi => by rw [hD, hu.stripeFault]; simpa [firstRun] using hstr hk i e hi, by
        rw [fifoBlocks] at hroom; simpa [emptyTensor, firstRun] using hroom⟩
  rw [fifoBlocks] at hroom
  simpa [emptyTensor, streamTensor, firstRun, hk, decodeFuel, stripesDecoded] using
    decodeOn_stripes (index := index) (opc := opc) (sdCount d) 65 ecc _ _ _ start he (by omega)

theorem decodeOn_good_units (hk : sdKind d = 1) :
    decodesTo c (decodeOn c index opc decodeFuel ecc (firstRun tensor d) (begun s c tensor d)) (begun s c tensor d)
      ((coreOf s c).fifo ++ [streamTensor (srcMem s c (sdSrc d)) d]) := by
  obtain ⟨herr, hcap, hpois, -⟩ := hg
  have hD := firstRun_desc hd tensor
  have hu := onlyDecodes_begun s c tensor d
  have hf := begun_fifo s c tensor d
  have hl : streamLength (srcMem s c (sdSrc d)) d = 64 * sdCount d := by simp [streamLength, hk]
  have hb : fifoBlocks (coreOf (begun s c tensor d) c) = fifoBlocks (coreOf s c) := by
    rw [fifoBlocks_concat hf]; simp [fifoBlocks, tensorBlocks, emptyTensor, hk]
  rw [tensorBlocks_units hk] at hroom
  rw [hl] at hcap hpois
  obtain ⟨t, r', hc, hd', hst, heq⟩ := decodeOn_values (c := c) (index := index) (opc := opc) (fuel := 65) (ecc := ecc)
    (r := firstRun tensor d) (s := begun s c tensor d) (by rw [hD]; exact (sdError_none herr).1) (by rw [hD]; exact hk) he
    (by rw [hD, hb]; exact hroom) (by rw [hD]; exact hcap) (by rw [hD, hu.srcMem]; exact hpois)
  rw [hD, hu.srcMem] at heq
  rw [hD] at hst
  have hfifo : (coreOf (updCore t c (joinValues r' (bf16s (memRead (srcMem s c (sdSrc d)) (sdBase d) (64 * sdCount d))))) c).fifo
      = (coreOf s c).fifo ++ [{ emptyTensor d with values := bf16s (memRead (srcMem s c (sdSrc d)) (sdBase d) (64 * sdCount d)) }] := by
    simp [joinValues, hc.fifo, hf, emptyTensor]
  have hend := decodesTo_end (index := index) (opc := opc) (fuel := 64) (ecc := { ecc with ce1 := 0, ce2 := 0 }) (r := r')
    (by rw [hd', hD, hst]) hfifo
  have := decodesTo_mono (hc.toOnlyDecodes.trans (onlyDecodes_joinValues t c r' _)) hend
  rw [show decodeFuel = 65 + 1 from rfl, heq]
  simpa [emptyTensor, streamTensor, firstRun, hk, bf16s] using this

/-- A good stream that the FIFO has room for is decoded whole (R66, R119, R191). -/
theorem decodeOn_good : decodesTo c (decodeOn c index opc decodeFuel ecc (firstRun tensor d) (begun s c tensor d)) s
    ((coreOf s c).fifo ++ [streamTensor (srcMem s c (sdSrc d)) d]) := by
  refine decodesTo_mono (onlyDecodes_begun s c tensor d) ?_
  rcases (sdError_none hg.1).2 with hk | hk
  · exact decodeOn_good_stripes hg hd hroom index opc tensor he hk
  · exact decodeOn_good_units hg hd hroom index opc tensor he hk
end

/-! The commands. -/

theorem descAt_lt (s : State) (c g : Nat) : descAt s c g 16 < 2 ^ 128 := by
  have h := leNat_lt (spadRead s c (8 * g) 16)
  rwa [show (spadRead s c (8 * g) 16).length = 16 from memRead_length ..] at h

/-- A command that stands at the head of its queue. -/
theorem engAt_iff (s : State) (c q o : Nat) (i : Issued) : engAt s c q o i = true ↔ coreOn s c = true
    ∧ (∃ l, queueOf (coreOf s c) q = i :: l) ∧ wOpc i.word.toNat = o ∧ wordIllegal i.word.toNat = false := by
  simp only [engAt, Bool.and_eq_true, beq_iff_eq, Bool.not_eq_true', List.head?_eq_some_iff, and_assoc]
/-- A body that has done part of its work leaves the command where it is. -/
theorem runEngine_wait {s t : State} {c q opc : Nat} {body : State → Issued → Nat → EngRes} {i : Issued}
    (h : engAt s c q opc i = true) (hb : body s i i.word.toNat = .wait t) : runEngine s c q opc body = t := by
  obtain ⟨h1, ⟨l, h2⟩, h3, h4⟩ := (engAt_iff ..).1 h
  simp [runEngine, h1, h2, h3, h4, hb]

/-- The cycles in which a stream starved are counted in one register, and change nothing that it reads. -/
theorem starved_frame (s : State) (c : Nat) : coreOf (starved s c) c = { coreOf s c with regs := (coreOf (starved s c) c).regs } := by
  have h := coreOf_updCore_self s c (fun t => { t with
    regs := putN t.regs 0x210 (BitVec.ofNat 64 (bumpField (creg s c 0x210) 31 0 (Config.freeWord s.free).toNat)) })
  exact h.trans (congrArg (fun v : CoreState => { coreOf s c with regs := v.regs }) h.symm)
theorem starved_se (s : State) (c : Nat) : (coreOf (starved s c) c).se = (coreOf s c).se := by rw [starved_frame]
theorem starved_seqe (s : State) (c : Nat) : (coreOf (starved s c) c).seqe = (coreOf s c).seqe := by rw [starved_frame]
theorem descOk_starved (s : State) (c g size reserved : Nat) : descOk (starved s c) c g size reserved = descOk s c g size reserved := by
  simp only [descOk, (onlyCounts_starved s c).readable, (onlyCounts_starved s c).spadRead]
theorem descAt_starved (s : State) (c g size : Nat) : descAt (starved s c) c g size = descAt s c g size := by
  simp only [descAt, (onlyCounts_starved s c).spadRead]
theorem fifoBlocks_starved (s : State) (c : Nat) : fifoBlocks (coreOf (starved s c) c) = fifoBlocks (coreOf s c) := by
  simp only [fifoBlocks, (onlyCounts_starved s c).fifo]

/-- STREAM of a good stream that the FIFO has room for (R190, R191). -/
theorem streamBody_decodes {s : State} {c : Nat} {i : Issued} {w : Nat} {ecc : EccObs} (hd : descOk s c (wA w) 16 0 = true)
    (hm : wMod w = 0) (he : ecc.ue = []) (hse : (coreOf s c).se = none) (hg : streamGood s c (descAt s c (wA w) 16))
    (hroom : fifoBlocks (coreOf s c)
      + tensorBlocks (streamTensor (srcMem s c (sdSrc (descAt s c (wA w) 16))) (descAt s c (wA w) 16)) ≤ 64) :
    decodesTo c (streamBody c ecc s i w) s
      ((coreOf s c).fifo ++ [streamTensor (srcMem s c (sdSrc (descAt s c (wA w) 16))) (descAt s c (wA w) 16)]) := by
  obtain ⟨hu, hf⟩ := onlyCounts_starved s c
  have h := decodeOn_good ((hu.streamGood _).2 hg) (descAt_lt s c (wA w))
    (by rw [fifoBlocks_starved, hu.srcMem]; exact hroom) i.index.toNat 0x10 0 he
  rw [hu.srcMem, hf] at h
  refine decodesTo_mono hu ?_
  simp only [streamBody, starved_se, hse, opDesc_ok _ _ _ _ _ _ ((descOk_starved ..).trans hd), descAt_starved, hm, if_true,
    beginStream_ok hg.1]
  exact h

/-- STREAM with MOD[0] = 1 copies the raw images to scratchpad (R190). -/
theorem streamBody_copies {s : State} {c : Nat} {i : Issued} {w : Nat} {ecc : EccObs} (hd : descOk s c (wA w) 16 0 = true)
    (hm : wMod w = 1) (he : ecc.ue = []) (hse : (coreOf s c).se = none) (hb : (sweepBusy s c && coreGranted s c 1) = false)
    {d : Nat} (hdesc : descAt s c (wA w) 16 = d) {m : Mem} (hmem : srcMem s c (sdSrc d) = m) (herr : sdError d = none)
    (hcap : sdBase d + streamLength m d ≤ srcCap (sdSrc d)) (hp : memPoisoned m (sdBase d) (streamLength m d) = false)
    (hin : inSpad (wB w) (streamLength m d) = true) :
    ∃ t, OnlyCounts c s t
      ∧ streamBody c ecc s i w = .done (spadWrite t c (8 * wB w) (memRead m (sdBase d) (streamLength m d))) := by
  have hu := onlyCounts_starved s c
  have hover : spadOver (wB w) (streamLength m d) = false := by simpa [spadOver, inSpad] using hin
  have hc : OnlyCounts c (starved s c) (if sdSrc d = 0
      then bumpC (srcEcc (starved s c) c (sdSrc d) (sdBase d) (streamLength m d) ecc) c 0x210 63 32 (burstsOf (sdBase d) (streamLength m d))
      else srcEcc (starved s c) c (sdSrc d) (sdBase d) (streamLength m d) ecc) := by
    have h := onlyCounts_srcEcc (starved s c) c (sdSrc d) (sdBase d) (streamLength m d) he
    exact ite_onlyCounts (OnlyCounts.trans h (onlyCounts_bumpC _ _ _ _ _ (by decide))) h
  refine ⟨_, OnlyCounts.trans hu hc, ?_⟩
  have hbusy : (sweepBusy (starved s c) c && coreGranted (starved s c) c 1) = false := hb
  simp only [streamBody, starved_se, hse, opDesc_ok _ _ _ _ _ _ ((descOk_starved ..).trans hd), descAt_starved, hdesc, hm, hbusy,
    copyStream, herr, hu.srcMem, hmem, Nat.not_lt.2 hcap, hover, hc.srcMem, hp, if_false, Nat.one_ne_zero, Bool.false_eq_true]

/-! XSTREAM (R200, R201). -/

/-- A cursor's entry that can be read is taken. -/
theorem cursorEntry_ok {s : State} {c x : Nat} (h : cursorOk s c x = true) (k : Nat × Nat → EngRes) :
    cursorEntry s c x k = k (cursorAt s c x) := by
  simp only [cursorOk, Bool.and_eq_true, decide_eq_true_eq] at h
  rw [cursorEntry, if_neg (Nat.not_le.2 h.1), opRead_ok _ _ _ _ _ _ h.2]
  rfl

section
variable {c w x index : Nat} {ecc : EccObs} {s : State}

/-- The tensors of an XSTREAM from tensor j on, one stream after another. -/
theorem xstreamOn_good {g : Nat → Nat} (hg : ∀ j, g j = wA w + 2 * (x * wN w + j)) (he : ecc.ue = []) (n : Nat) :
    ∀ (j fuel : Nat) (s : State), wN w = j + n + 1 → n ≤ fuel →
      (∀ k, k < wN w → readable s c (g k) 16 = true ∧ streamGood s c (descAt s c (g k) 16)) →
      let xs := (List.range' j (n + 1)).map (fun k => streamTensor (srcMem s c (sdSrc (descAt s c (g k) 16))) (descAt s c (g k) 16))
      fifoBlocks (coreOf s c) + (xs.map tensorBlocks).sum ≤ 64 →
      decodesTo c (xstreamDesc s c w x j (fun d => beginStream s c j d (xstreamOn c index w ecc x fuel))) s ((coreOf s c).fifo ++ xs) := by
  induction n with
  | zero =>
    intro j fuel s hn _ hgood
    obtain ⟨hr, hgj⟩ := hgood j (by omega)
    intro xs hroom
    have h := decodeOn_good hgj (descAt_lt ..) (by simpa [xs] using hroom) index 0x63 j he
    rw [xstreamDesc, ← hg, opRead_ok _ _ _ _ _ _ hr]
    show decodesTo c (beginStream s c j (descAt s c (g j) 16) _) s _
    rw [beginStream_ok hgj.1]
    obtain ⟨t, ht, hl⟩ := h
    have hlast : wN w ≤ (firstRun j (descAt s c (g j) 16)).tensor + 1 := hn.le
    cases fuel with
    | zero => exact ⟨t, ht, hl⟩
    | succ f => exact ⟨t, by simp only [xstreamOn, ht, hlast, if_true], hl⟩
  | succ n ih =>
    intro j fuel s hn hf hgood
    obtain ⟨hr, hgj⟩ := hgood j (by omega)
    intro xs hroom
    obtain ⟨f, rfl⟩ : ∃ f, fuel = f + 1 := ⟨fuel - 1, by omega⟩
    have hxs : xs = streamTensor (srcMem s c (sdSrc (descAt s c (g j) 16))) (descAt s c (g j) 16)
        :: (List.range' (j + 1) (n + 1)).map (fun k => streamTensor (srcMem s c (sdSrc (descAt s c (g k) 16))) (descAt s c (g k) 16)) := by
      simp only [xs, List.range'_succ, List.map_cons]
    rw [hxs, List.map_cons, List.sum_cons] at hroom
    obtain ⟨t, ht, hu, hfifo, -⟩ := decodeOn_good hgj (descAt_lt ..) (by omega) index 0x63 j he
    have hdesc : ∀ k, descAt t c (g k) 16 = descAt s c (g k) 16 := fun k => by simp only [descAt, hu.spadRead]
    have := ih (j + 1) f t (by omega) (by omega) (fun k hk => by
        rw [hu.readable, hdesc, hu.streamGood]; exact hgood k hk)
      (by
        simp only [hdesc, hu.srcMem, fifoBlocks, hfifo, List.map_append, List.sum_append, List.map_cons, List.map_nil, List.sum_cons,
          List.sum_nil] at hroom ⊢
        omega)
    rw [xstreamDesc, ← hg, opRead_ok _ _ _ _ _ _ hr]
    show decodesTo c (beginStream s c j (descAt s c (g j) 16) _) s _
    have hlast : ¬ wN w ≤ (firstRun j (descAt s c (g j) 16)).tensor + 1 := by simp only [firstRun]; omega
    rw [beginStream_ok hgj.1, xstreamOn, ht, hxs]
    simp only [hlast, if_false]
    simpa [hdesc, hu.srcMem, hfifo, show (firstRun j (descAt s c (g j) 16)).tensor = j from rfl] using decodesTo_mono hu this

/-- XSTREAM of good streams that the FIFO has room for. -/
theorem xstreamBody_decodes {i : Issued} (h1 : 1 ≤ wN w) (h8 : wN w ≤ 8) (ha : 8 * wA w % 16 = 0) (he : ecc.ue = [])
    (hse : (coreOf s c).se = none) (hc : cursorOk s c i.xcur.toNat = true) {g : Nat → Nat}
    (hg : ∀ j, g j = wA w + 2 * ((cursorAt s c i.xcur.toNat).1 * wN w + j))
    (hgood : ∀ j, j < wN w → readable s c (g j) 16 = true ∧ streamGood s c (descAt s c (g j) 16)) :
    let xs := (List.range (wN w)).map (fun j => streamTensor (srcMem s c (sdSrc (descAt s c (g j) 16))) (descAt s c (g j) 16))
    fifoBlocks (coreOf s c) + (xs.map tensorBlocks).sum ≤ 64 →
    decodesTo c (xstreamBody c ecc s i w) s ((coreOf s c).fifo ++ xs) := by
  intro xs hroom
  obtain ⟨hu, hf⟩ := onlyCounts_starved s c
  have hn : wN w - 1 + 1 = wN w := by omega
  have hcur : cursorAt (starved s c) c i.xcur.toNat = cursorAt s c i.xcur.toNat := by simp only [cursorAt, hu.spadRead]
  have hcok : cursorOk (starved s c) c i.xcur.toNat = true := by simpa only [cursorOk, hu.readable] using hc
  have h := xstreamOn_good (c := c) (w := w) (x := (cursorAt s c i.xcur.toNat).1) (index := i.index.toNat) hg he (wN w - 1) 0 8
    (starved s c) (by omega) (by omega) (fun k hk => by
      rw [hu.readable, descAt_starved, hu.streamGood]; exact hgood k hk)
  simp only [hn, ← List.range_eq_range', descAt_starved, hu.srcMem, fifoBlocks_starved, hf] at h
  refine decodesTo_mono hu ?_
  have hrange : (decide (wN w = 0) || decide (8 < wN w)) = false := by simp; omega
  simp only [xstreamBody, hrange, ha, cursorEntry_ok hcok, hcur, starved_se, hse, Bool.false_eq_true, if_false, ne_eq, not_true]
  exact h hroom
end

/-- Settles O13: a decoded stream is a run of the decoding steps that the FIFO has room for; a copy is one write of the scratchpad; a
full FIFO is the step that waits. -/
theorem streamsDecode : Obligations.StreamsDecode := by
  intro c s i ecc w
  refine ⟨?_, ?_, ?_, ?_⟩
  · intro h hd hm he hse d x hg hroom
    obtain ⟨t, ht, hu, hfifo, hnone⟩ := streamBody_decodes (i := i) hd hm he hse hg hroom
    exact ⟨t, congrArg Host.Outcome.next (runEngine_done h ht), hfifo, hnone, hu.memories, hu.others⟩
  · intro h hd hm he hse hb d m n herr hcap hp hin
    obtain ⟨t, hu, ht⟩ := streamBody_copies (i := i) hd hm he hse hb rfl rfl herr hcap hp hin
    have hlen : (memRead m (sdBase d) n).length = n := memRead_length ..
    obtain ⟨-, -, hcore, hout⟩ := wroteSpad_spadWrite t c.val (8 * wB w) (memRead m (sdBase d) n)
    have hread := spadRead_spadWrite t c.val (8 * wB w) (memRead m (sdBase d) n)
    rw [hlen] at hout hread
    rw [hu.memories.1] at hout
    exact ⟨_, congrArg Host.Outcome.next (runEngine_done h ht), hread, hout,
      (congrArg CoreState.fifo hcore).trans hu.fifo, hu.memories.2⟩
  · intro h h1 h8 ha he hse hc g d xs hgood hroom
    obtain ⟨t, ht, hu, hfifo, hnone⟩ := xstreamBody_decodes (i := i) h1 h8 ha he hse hc (g := g) (fun _ => rfl) hgood hroom
    exact ⟨t, congrArg Host.Outcome.next (runEngine_done h ht), hfifo, hnone, hu.memories, hu.others⟩
  · intro r h hse hlt hfull
    have hb : streamBody c.val ecc s i i.word.toNat = .wait (updCore (starved s c) c (fun v => { v with se := some r })) := by
      simp only [streamBody, starved_se, hse]
      exact decodeOn_full hlt (by rw [fifoBlocks_starved]; exact hfull)
    have hu := onlyCounts_starved s c.val
    refine ⟨_, congrArg Host.Outcome.next (runEngine_wait h hb), ?_, ?_, ?_,
      memoriesKept_trans hu.memories (memoriesKept_updCore _ _ (fun _ => rfl))⟩
    · simpa using hu.fifo
    · simpa using starved_seqe s c.val
    · simp

end Sys2Proof.Machine
end

section
/-! PROOF. Sizes of encoded blocks, stripes and units (R50 to R52, R61 to R63, R71, R72, R83): an image is no longer than the slot that
R72 reckons for it. -/

namespace Sys2Proof.Machine

/-! Blocks. -/

/-- An encoded block has the format asked for, and a lane entry for each kept position. -/
theorem encodeBlock_fmt_lane (fmt : Nat) (s : F32) (vals : List F32) (kept dropped : List Nat) (k : Nat → Option Nat) :
    (encodeBlock fmt s vals kept dropped k).fmt = fmt
    ∧ (encodeBlock fmt s vals kept dropped k).lane.length = ((List.range 32).filter kept.contains).length := by
  unfold encodeBlock
  dsimp only
  split
  · exact ⟨rfl, List.length_map ..⟩
  · split <;> exact ⟨rfl, List.length_map ..⟩

@[simp] theorem encPayload_length (b : EncBlock) : (encPayload b).length = fmtBytes b.fmt := leBytes_length ..

theorem encodeStripe_length (fmt : Nat) (s : F32) (vals : List F32) (kept dropped : List Nat) (k : Nat → Option Nat) :
    (encodeStripe fmt s vals kept dropped k).length = ceilDiv vals.length 32 := by
  rw [encodeStripe, List.length_mapIdx, chunks_length (by decide)]
theorem encodeStripe_fmt {fmt : Nat} {s : F32} {vals : List F32} {kept dropped : List Nat} {k : Nat → Option Nat} {b : EncBlock}
    (h : b ∈ encodeStripe fmt s vals kept dropped k) : b.fmt = fmt := by
  obtain ⟨j, hj, rfl⟩ := List.mem_mapIdx.1 h
  exact (encodeBlock_fmt_lane ..).1

theorem sum_map_const {α : Type} {f : α → Nat} {n : Nat} : ∀ {l : List α}, (∀ a ∈ l, f a = n) → (l.map f).sum = l.length * n
  | [], _ => by simp
  | a :: l, h => by
    rw [List.map_cons, List.sum_cons, h a (by simp), sum_map_const (fun b hb => h b (by simp [hb])), List.length_cons]
    ring

theorem payloads_length {fmt : Nat} {bs : List EncBlock} (h : ∀ b ∈ bs, b.fmt = fmt) :
    (bs.flatMap encPayload).length = bs.length * fmtBytes fmt := by
  rw [List.length_flatMap]
  exact sum_map_const (fun b hb => by rw [encPayload_length, h b hb])
theorem headers_length (bs : List EncBlock) : (bs.flatMap (fun b => leBytes 2 (encHeader b))).length = 2 * bs.length := by
  rw [List.length_flatMap, sum_map_const (n := 2) (fun b _ => leBytes_length ..), Nat.mul_comm]

/-! Lane entries of a stripe. -/

/-- Counted by a key, the elements with a key below n are counted once each. -/
theorem sum_filter_eq {α : Type} (f : α → Nat) (l : List α) (n : Nat) :
    ((List.range n).map (fun j => (l.filter (fun e => f e == j)).length)).sum = (l.filter (fun e => decide (f e < n))).length := by
  induction n with
  | zero => simp
  | succ n ih =>
    rw [List.range_succ, List.map_append, List.sum_append, ih]
    clear ih
    induction l with
    | nil => rfl
    | cons a l ih =>
      simp only [List.map_cons, List.map_nil, List.sum_cons, List.sum_nil, Nat.add_zero, Nat.lt_add_one_iff] at ih ⊢
      by_cases h1 : f a < n
      · simp [h1, Nat.ne_of_lt h1, Nat.le_of_lt h1]; omega
      · by_cases h2 : f a = n
        · simp [h2]; omega
        · simpa [h1, h2, show ¬ f a ≤ n by omega] using ih

theorem filter_contains_length_le {l : List Nat} (h : l.Nodup) (k : List Nat) : (l.filter k.contains).length ≤ k.length :=
  (List.subperm_of_subset (h.filter _) (fun x hx => by simpa using (List.mem_filter.1 hx).2)).length_le

/-- A stripe has at most one lane entry for each position kept. -/
theorem encodeStripe_lanes_le (fmt : Nat) (s : F32) (vals : List F32) (kept dropped : List Nat) (k : Nat → Option Nat) :
    ((encodeStripe fmt s vals kept dropped k).map (fun b => b.lane.length)).sum ≤ kept.length := by
  have hblock : ∀ p ∈ (chunks 32 vals).zipIdx, (encodeBlock fmt s p.1 ((kept.filter (fun e => e / 32 == p.2)).map (· % 32))
      ((dropped.filter (fun e => e / 32 == p.2)).map (· % 32)) (fun q => k (32 * p.2 + q))).lane.length
        ≤ (kept.filter (fun e => e / 32 == p.2)).length := fun p _ => by
    rw [(encodeBlock_fmt_lane ..).2]
    exact (filter_contains_length_le List.nodup_range _).trans (List.length_map ..).le
  have hidx : (chunks 32 vals).zipIdx.map (fun p => (kept.filter (fun e => e / 32 == p.2)).length)
      = (List.range (chunks 32 vals).length).map (fun j => (kept.filter (fun e => e / 32 == j)).length) := by
    rw [List.range_eq_range', ← List.zipIdx_map_snd 0 (chunks 32 vals), List.map_map]; rfl
  rw [encodeStripe, List.mapIdx_eq_zipIdx_map, List.map_map]
  refine (List.sum_le_sum hblock).trans ?_
  rw [hidx, sum_filter_eq]
  exact List.length_filter_le ..

/-! Stripe images (R61, R63). -/

@[simp] theorem padTo_length (n : Nat) (b : Bytes) : (padTo n b).length = max n b.length := by
  simp only [padTo, List.length_append, zeros_length]; omega
theorem le_alignUp (n : Nat) {d : Nat} (hd : 0 < d) : n ≤ alignUp n d := by
  have h := Nat.div_add_mod (n + d - 1) d
  have g := Nat.mod_lt (n + d - 1) hd
  have c : (n + d - 1) / d * d = d * ((n + d - 1) / d) := Nat.mul_comm ..
  simp only [alignUp, ceilDiv, c]; omega
theorem alignUp_mono {m n : Nat} (d : Nat) (h : m ≤ n) : alignUp m d ≤ alignUp n d :=
  Nat.mul_le_mul_right d (Nat.div_le_div_right (by omega))

theorem laneBytes_length (index : Nat) (bs : List EncBlock) :
    ((bs.mapIdx (fun j b => b.lane.map (fun e => e.1 * 2 ^ 27 + (index * 64 + j) % 2048 * 2 ^ 16 + e.2.toNat))).flatten.flatMap
      (leBytes 4)).length = 4 * (bs.map (fun b => b.lane.length)).sum := by
  have hw : bs.zipIdx.map (fun p => p.1.lane.length) = bs.map (fun b => b.lane.length) := by
    conv_rhs => rw [← List.zipIdx_map_fst 0 bs, List.map_map]
    rfl
  rw [List.length_flatMap, sum_map_const (n := 4) (fun _ _ => leBytes_length ..), List.length_flatten, List.mapIdx_eq_zipIdx_map,
    List.map_map, ← hw, Nat.mul_comm]
  simp only [Function.comp_def, List.length_map]

/-- A stripe image takes descriptor, headers, payloads and its lane capacity, padded to 64 bytes. -/
theorem stripeImage_length_le {fmt : Nat} {i : StripeInfo} {bs : List EncBlock} (h : ∀ b ∈ bs, b.fmt = fmt)
    (hl : (bs.map (fun b => b.lane.length)).sum ≤ i.lcap) :
    (stripeImage i bs).length ≤ alignUp (16 + alignUp (2 * bs.length) 16 + fmtBytes fmt * bs.length + 4 * i.lcap) 64 := by
  have hh := le_alignUp (2 * bs.length) (d := 16) (by decide)
  unfold stripeImage
  simp only [padTo_length, List.length_append, leBytes_length, headers_length, payloads_length h, Nat.max_eq_left hh,
    laneBytes_length, Nat.max_eq_left (show 4 * (bs.map (fun b => b.lane.length)).sum ≤ 4 * i.lcap by omega),
    Nat.max_eq_left (le_alignUp _ (d := 64) (by decide)), Nat.mul_comm bs.length]
  exact Nat.le_refl _

/-- The image of a stripe whose kept positions its lane holds. -/
theorem stripeImage_encodeStripe_le (fmt : Nat) (s : F32) (vals : List F32) {kept : List Nat} (dropped : List Nat) (k : Nat → Option Nat)
    {i : StripeInfo} (hl : kept.length ≤ i.lcap) : (stripeImage i (encodeStripe fmt s vals kept dropped k)).length
      ≤ alignUp (16 + alignUp (2 * ceilDiv vals.length 32) 16 + fmtBytes fmt * ceilDiv vals.length 32 + 4 * i.lcap) 64 := by
  have h := stripeImage_length_le (i := i) (fun b hb => encodeStripe_fmt hb)
    ((encodeStripe_lanes_le fmt s vals kept dropped k).trans hl)
  rwa [encodeStripe_length] at h

/-! QACT's stripes (R71, R72). -/

theorem narrow_le_qactSlot {fmt : Nat} (h : fmt ≠ 3) (policy olCap n : Nat) :
    alignUp (16 + alignUp (2 * n) 16 + fmtBytes 0 * n + 4 * olCap) 64 ≤ qactSlot fmt policy olCap n := by
  by_cases hp : policy = 0
  · simpa [qactSlot, h, hp] using alignUp_mono 64 (by simp [fmtBytes, fmtWidth]; omega)
  · simp [qactSlot, h, hp]

/-- A stripe is encoded within the slot of R72, or traps: at N4 under the policy TRAP. -/
theorem qactStripe_cases (fmt : Nat) (s theta : F32) (olCap policy index : Nat) (vals : List F32) (k : Nat → Option Nat) :
    ((qactStripe fmt s theta olCap policy index vals k).image = none ∧ fmt ≠ 3 ∧ policy = 2)
    ∨ ∃ img, (qactStripe fmt s theta olCap policy index vals k).image = some img
        ∧ img.length ≤ qactSlot fmt policy olCap (ceilDiv vals.length 32) := by
  unfold qactStripe
  dsimp only
  split
  · next h3 =>
    refine .inr ⟨_, rfl, (stripeImage_encodeStripe_le 3 s vals [] k (Nat.zero_le _)).trans ?_⟩
    simp [qactSlot, h3]
  · next h3 =>
    split
    · next hov =>
      simp only [Bool.not_or, Bool.and_eq_true, Bool.not_eq_true', decide_eq_false_iff_not, Nat.not_lt] at hov
      exact .inr ⟨_, rfl, (stripeImage_encodeStripe_le 0 s vals [] k (by rw [List.length_map]; exact hov.2)).trans
        (narrow_le_qactSlot h3 policy olCap _)⟩
    · split
      · next hp =>
        refine .inr ⟨_, rfl, (stripeImage_encodeStripe_le 3 s vals [] k (Nat.zero_le _)).trans ?_⟩
        simp [qactSlot, h3, hp]
      · split
        · next hp => exact .inl ⟨rfl, h3, hp⟩
        · exact .inr ⟨_, rfl, (stripeImage_encodeStripe_le 0 s vals _ k (by simp)).trans (narrow_le_qactSlot h3 policy olCap _)⟩

/-! Units (R83). -/

/-- A unit of 512 values takes its bytes. -/
theorem encodeUnit_length (fmt : Nat) (s : F32) {vals : List F32} (h : vals.length = 512) :
    (encodeUnit fmt s vals).1.length = unitBytes fmt := by
  have hl : (encodeStripe fmt s vals [] [] (fun _ => none)).length = 16 := by rw [encodeStripe_length, h]; rfl
  simp only [encodeUnit, List.length_append, headers_length, payloads_length (fun b hb => encodeStripe_fmt hb), hl, unitBytes]

end Sys2Proof.Machine
end

section
/-! PROOF. QACT and QENT (R67 to R73, R83, R84, R194, R195): both are a row of writes whose bytes are functions of the scratchpad as it
stood, since no write reaches what is still to be read. -/

namespace Sys2Proof.Machine

/-! Frames. -/

theorem onlyCore_refl (s : State) (c : Nat) : onlyCore s s c := ⟨rfl, fun _ _ => rfl⟩
theorem onlyCore_trans {s t u : State} {c : Nat} (h : onlyCore s t c) (g : onlyCore t u c) : onlyCore s u c :=
  ⟨by rw [g.1, h.1], fun d hd => (g.2 d hd).trans (h.2 d hd)⟩
theorem onlyCore_bumpC (s : State) (c off hi lo n : Nat) : onlyCore s (bumpC s c off hi lo n) c := by
  unfold bumpC; split
  · exact onlyCore_refl s c
  · exact onlyCore_setCreg ..
theorem bumpC_spad (s : State) (c off hi lo n : Nat) : (coreOf (bumpC s c off hi lo n) c).spad = (coreOf s c).spad :=
  (memoriesKept_bumpC s c off hi lo n).1 c
theorem creg_bumpC_off (s : State) (c hi lo n : Nat) {off o : Nat} (h : o ≠ off) : creg (bumpC s c off hi lo n) c o = creg s c o := by
  unfold bumpC; split
  · rfl
  · exact creg_setCreg_off _ _ _ _ h

/-- A write in one range leaves the FP32 values of a range apart from it. -/
theorem spadF32_memWrite {s t : State} {c a n lo len x k : Nat} {p : Nat × Bytes}
    (ht : (coreOf t c).spad = memWrite (coreOf s c).spad p.1 p.2) (h : apart a n lo len = true) (hp : writeIn lo len p)
    (hx : a ≤ x) (hk : x + 4 * k ≤ a + n) : spadF32 t c x k = spadF32 s c x k :=
  spadF32_congr (by rw [spadRead, ht, memRead_memWrite_in _ h hp hx hk]; rfl)

/-! QENT (R83, R84, R195). -/

/-- The write of unit u. -/
def qentWrite (s : State) (c w fmt : Nat) (sc : F32) (u : Nat) : Nat × Bytes :=
  (8 * wD w + u * unitBytes fmt, (encodeUnit fmt sc (spadF32 s c (8 * wA w + 2048 * u) 512)).1)
theorem qentWrite_length (s : State) (c w fmt : Nat) (sc : F32) (u : Nat) : (qentWrite s c w fmt sc u).2.length = unitBytes fmt :=
  encodeUnit_length fmt sc (spadF32_length ..)
theorem qentWrite_in (s : State) (c w fmt : Nat) (sc : F32) {u n : Nat} (h : u < n) :
    writeIn (8 * wD w) (unitBytes fmt * n) (qentWrite s c w fmt sc u) := by
  have e := Nat.mul_le_mul_right (unitBytes fmt) (show u + 1 ≤ n from h)
  rw [Nat.succ_mul, Nat.mul_comm n] at e
  refine ⟨Nat.le_add_right .., ?_⟩
  rw [qentWrite_length, qentWrite]; omega

/-- One unit is written and counted. -/
def qentStep (s : State) (c w fmt : Nat) (sc : F32) (u : Nat) : State :=
  let r := encodeUnit fmt sc (spadF32 s c (8 * wA w + 2048 * u) 512)
  bumpC (bumpC (spadWrite s c (8 * wD w + u * unitBytes fmt) r.1) c 0x300 63 32 r.2.2) c 0x300 31 0 r.2.1
theorem qentUnits_cons (s : State) (c w fmt : Nat) (sc : F32) (u : Nat) (us : List Nat) :
    qentUnits c w fmt sc (u :: us) s = qentUnits c w fmt sc us (qentStep s c w fmt sc u) := by
  have e : 8 * (wA w + 256 * u) = 8 * wA w + 2048 * u := by omega
  simp only [qentUnits, e, qentStep]
theorem qentStep_effect (s : State) (c w fmt : Nat) (sc : F32) (u : Nat) : onlyCore s (qentStep s c w fmt sc u) c
    ∧ (coreOf (qentStep s c w fmt sc u) c).spad
      = memWrite (coreOf s c).spad (qentWrite s c w fmt sc u).1 (qentWrite s c w fmt sc u).2 := by
  refine ⟨onlyCore_trans (onlyCore_trans (onlyCore_updCore ..) (onlyCore_bumpC ..)) (onlyCore_bumpC ..), ?_⟩
  rw [qentStep, bumpC_spad, bumpC_spad]
  simp [spadWrite, qentWrite]

/-- The units of a QENT stand encoded, each at its place, as their values were before it. -/
theorem qentUnits_effect {c w fmt n : Nat} (sc : F32) (ha : apart (8 * wA w) (2048 * n) (8 * wD w) (unitBytes fmt * n) = true) :
    ∀ (us : List Nat) (s : State), (∀ u ∈ us, u < n) → onlyCore s (qentUnits c w fmt sc us s) c
      ∧ (coreOf (qentUnits c w fmt sc us s) c).spad = memWrites (coreOf s c).spad (us.map (qentWrite s c w fmt sc))
  | [], s, _ => ⟨onlyCore_refl s c, rfl⟩
  | u :: us, s, h => by
    obtain ⟨hcore, hspad⟩ := qentStep_effect s c w fmt sc u
    have hlater : us.map (qentWrite (qentStep s c w fmt sc u) c w fmt sc) = us.map (qentWrite s c w fmt sc) :=
      List.map_congr_left (fun v hv => by
        have hv' := h v (by simp [hv])
        rw [qentWrite, qentWrite, spadF32_memWrite hspad ha (qentWrite_in s c w fmt sc (h u (by simp))) (by omega) (by omega)])
    obtain ⟨g, gm⟩ := qentUnits_effect sc ha us (qentStep s c w fmt sc u) (fun v hv => h v (by simp [hv]))
    rw [qentUnits_cons]
    exact ⟨onlyCore_trans hcore g, by rw [gm, hspad, hlater]; rfl⟩

/-- QENT encodes its units under the scale at C (R195). -/
theorem qentBody_encodes {s : State} {c w : Nat} {i : Issued} (hlev : coreLevel s c ≠ 2) (hC : readable s c (wC w) 8 = true)
    (hsc : scaleOk (f32At s c (8 * wC w)) = true) (hA : readable s c (wA w) (2048 * wN w) = true)
    (hD : inSpad (wD w) (unitBytes (if wMod w = 1 then 3 else 0) * wN w) = true) :
    qentBody c s i w
      = .done (qentUnits c w (if wMod w = 1 then 3 else 0) (f32At s c (8 * wC w)) (List.range (wN w)) s) := by
  simp [qentBody, hlev, opRead_ok _ _ _ _ _ _ hC, f32_of_granule, hsc, opRead_ok _ _ _ _ _ _ hA, opRoom_ok _ _ _ _ _ hD]

/-- Each unit of a QENT is where its number puts it. -/
theorem qentWrites_pairwise (s : State) (c w fmt : Nat) (sc : F32) (n : Nat) :
    ((List.range n).map (qentWrite s c w fmt sc)).Pairwise (fun p q => p.1 + p.2.length ≤ q.1) := by
  rw [List.pairwise_map]
  refine List.pairwise_lt_range.imp (fun {u v} h => ?_)
  have e := Nat.mul_le_mul_right (unitBytes fmt) (show u + 1 ≤ v from h)
  rw [Nat.succ_mul] at e
  rw [qentWrite_length, qentWrite, qentWrite]; omega

/-! QACT (R70 to R73, R194). -/

/-- The values of a stripe of a token. -/
def qactVals (s : State) (c d : Nat) (k : Nat × Nat) : List F32 :=
  spadF32 s c (8 * (qdSrc d + k.1 * ceilDiv (qdNval d) 2) + 8192 * k.2) (min 2048 (qdNval d - 2048 * k.2))
/-- The format of a stripe of a token, and the stripe encoded; `rnd` is the stochastic word of an element. -/
def qactFmt (w : Nat) (trapped : List Nat) (k : Nat × Nat) : Nat := if wMod w % 4 = 1 || trapped.contains k.1 then 3 else 0
def qactOut (s : State) (c w d : Nat) (trapped : List Nat) (rnd : Nat → Option Nat) (k : Nat × Nat) : QactOut :=
  qactStripe (qactFmt w trapped k) (qdS d) (coreTheta s c) (qdCap d) (wMod w / 4 % 4) k.2 (qactVals s c d k)
    (fun e => rnd (k.1 * qdNval d + 2048 * k.2 + e))
/-- The number of a stripe in the command, and the write of its image at its slot. -/
def qactIdx (d : Nat) (k : Nat × Nat) : Nat := k.1 * ceilDiv (qdNval d) 2048 + k.2
def qactWrite (s : State) (c w d : Nat) (trapped : List Nat) (rnd : Nat → Option Nat) (k : Nat × Nat) : Nat × Bytes :=
  (8 * qdDst d + qactIdx d k * 64 * qdSlot d, (qactOut s c w d trapped rnd k).image.getD [])

theorem mem_qactItems {d : Nat} {k : Nat × Nat} : k ∈ qactItems d ↔ k.1 < qdTokens d ∧ k.2 < ceilDiv (qdNval d) 2048 := by
  obtain ⟨t, i⟩ := k
  simp [qactItems]
/-- Stripes are taken in the order of their numbers. -/
theorem qactItems_pairwise (d : Nat) : (qactItems d).Pairwise (fun a b => qactIdx d a < qactIdx d b) := by
  rw [qactItems, List.pairwise_flatMap]
  refine ⟨fun t _ => ?_, List.pairwise_lt_range.imp (fun {t u} h => fun a ha b hb => ?_)⟩
  · rw [List.pairwise_map]
    exact List.pairwise_lt_range.imp (fun h => Nat.add_lt_add_left h _)
  · simp only [List.mem_map, List.mem_range] at ha hb
    obtain ⟨i, hi, rfl⟩ := ha
    obtain ⟨j, -, rfl⟩ := hb
    have e := Nat.mul_le_mul_right (ceilDiv (qdNval d) 2048) (show t + 1 ≤ u from h)
    rw [Nat.succ_mul] at e
    simp only [qactIdx]; omega
theorem qactIdx_lt {d : Nat} {k : Nat × Nat} (h : k ∈ qactItems d) : qactIdx d k < ceilDiv (qdNval d) 2048 * qdTokens d := by
  obtain ⟨ht, hi⟩ := mem_qactItems.1 h
  have e := Nat.mul_le_mul_right (ceilDiv (qdNval d) 2048) (show k.1 + 1 ≤ qdTokens d from ht)
  rw [Nat.succ_mul, Nat.mul_comm (qdTokens d)] at e
  simp only [qactIdx]; omega

/-- Nothing but the core and the partitions' counts differs, and not the core's θ. -/
structure OnlyQuantises (c : Nat) (s t : State) : Prop where
  frame  : t = { s with cores := t.cores, parts := t.parts }
  others : ∀ k, k ≠ c → coreOf t k = coreOf s k
  theta  : coreTheta t c = coreTheta s c
theorem OnlyQuantises.refl (c : Nat) (s : State) : OnlyQuantises c s s := ⟨rfl, fun _ _ => rfl, rfl⟩
theorem OnlyQuantises.trans {c : Nat} {s t u : State} (h : OnlyQuantises c s t) (g : OnlyQuantises c t u) : OnlyQuantises c s u :=
  ⟨by rw [g.frame, h.frame], fun k hk => (g.others k hk).trans (h.others k hk), g.theta.trans h.theta⟩
theorem OnlyQuantises.clusters_eq {c : Nat} {s t : State} (h : OnlyQuantises c s t) : t.clusters = s.clusters := by rw [h.frame]
theorem OnlyQuantises.events_eq {c : Nat} {s t : State} (h : OnlyQuantises c s t) : t.events = s.events := by rw [h.frame]
theorem onlyQuantises_of_core {c : Nat} {s t : State} (h : onlyCore s t c) (hr : creg t c 0x320 = creg s c 0x320) :
    OnlyQuantises c s t := ⟨by rw [h.1], h.2, by rw [coreTheta, hr]; rfl⟩
theorem onlyQuantises_bumpC (s : State) (c hi lo n : Nat) {off : Nat} (h : 0x320 ≠ off) : OnlyQuantises c s (bumpC s c off hi lo n) :=
  onlyQuantises_of_core (onlyCore_bumpC ..) (creg_bumpC_off s c hi lo n h)
theorem onlyQuantises_spadWrite (s : State) (c a : Nat) (b : Bytes) : OnlyQuantises c s (spadWrite s c a b) :=
  onlyQuantises_of_core (onlyCore_updCore ..) (by simp [creg, spadWrite])

/-- The counters of NF_CNT and the job's lane use are all that counting a stripe changes (R76, R78 to R81). -/
theorem countStripe_frame (s : State) (c cap : Nat) (o : QactOut) :
    OnlyQuantises c s (countStripe s c cap o) ∧ (coreOf (countStripe s c cap o) c).spad = (coreOf s c).spad := by
  have step : ∀ (t : State) (off hi lo n : Nat), 0x320 ≠ off → (OnlyQuantises c s t ∧ (coreOf t c).spad = (coreOf s c).spad) →
      OnlyQuantises c s (bumpC t c off hi lo n) ∧ (coreOf (bumpC t c off hi lo n) c).spad = (coreOf s c).spad :=
    fun t off hi lo n h g => ⟨OnlyQuantises.trans g.1 (onlyQuantises_bumpC t c hi lo n h), (bumpC_spad ..).trans g.2⟩
  have counted := step _ 0x318 31 0 o.lanes (by decide) (step _ 0x318 63 32 o.stripes (by decide)
    (step _ 0x310 63 32 (if o.image.isNone then 1 else 0) (by decide) (step _ 0x308 31 0 o.clip (by decide)
    (step _ 0x308 63 32 o.widen (by decide) (step _ 0x300 31 0 o.sat (by decide) (step s 0x300 63 32 o.under (by decide)
    ⟨OnlyQuantises.refl c s, rfl⟩))))))
  unfold countStripe
  dsimp only
  split
  · split
    · exact ⟨OnlyQuantises.trans counted.1 ⟨rfl, fun _ _ => rfl, rfl⟩, counted.2⟩
    · exact counted
  · exact counted

theorem qactOut_congr {s t : State} {c d : Nat} (hq : coreTheta t c = coreTheta s c) {k : Nat × Nat}
    (hv : qactVals t c d k = qactVals s c d k) (w : Nat) (trapped : List Nat) (rnd : Nat → Option Nat) :
    qactOut t c w d trapped rnd k = qactOut s c w d trapped rnd k := by
  rw [qactOut, qactOut, hq, hv]

/-- One stripe is counted and written. -/
def qactStep (s : State) (c w d : Nat) (trapped : List Nat) (rnd : Nat → Option Nat) (k : Nat × Nat) : State :=
  spadWrite (countStripe s c (qdCap d) (qactOut s c w d trapped rnd k)) c (qactWrite s c w d trapped rnd k).1
    (qactWrite s c w d trapped rnd k).2
theorem qactStep_effect (s : State) (c w d : Nat) (trapped : List Nat) (rnd : Nat → Option Nat) (k : Nat × Nat) :
    OnlyQuantises c s (qactStep s c w d trapped rnd k)
    ∧ (coreOf (qactStep s c w d trapped rnd k) c).spad
      = memWrite (coreOf s c).spad (qactWrite s c w d trapped rnd k).1 (qactWrite s c w d trapped rnd k).2 := by
  obtain ⟨hq, hm⟩ := countStripe_frame s c (qdCap d) (qactOut s c w d trapped rnd k)
  refine ⟨hq.trans (onlyQuantises_spadWrite ..), ?_⟩
  simp [qactStep, spadWrite, hm]

/-- The bytes that a QACT reads lie in its source. -/
theorem qactVals_in_source {d : Nat} {k : Nat × Nat} (h : k ∈ qactItems d) :
    8 * (qdSrc d + k.1 * ceilDiv (qdNval d) 2) + 8192 * k.2 + 4 * min 2048 (qdNval d - 2048 * k.2)
      ≤ 8 * qdSrc d + 8 * ceilDiv (qdNval d) 2 * qdTokens d := by
  obtain ⟨ht, hi⟩ := mem_qactItems.1 h
  have e := Nat.mul_le_mul_right (ceilDiv (qdNval d) 2) (show k.1 + 1 ≤ qdTokens d from ht)
  rw [Nat.succ_mul, Nat.mul_comm (qdTokens d)] at e
  rw [Nat.mul_assoc]
  simp only [ceilDiv] at *
  omega

section
variable {c w d : Nat} {trapped : List Nat} {seed : W64} {stream free : Nat} {rnd : Nat → Option Nat}
  (hrnd : roundWord (wMod w / 16) seed stream free = rnd)
include hrnd

/-- The image of a stripe goes to its slot, and the next stripes are taken. -/
theorem qactStripes_cons_image {s : State} {k : Nat × Nat} (index : Nat) (rest : List (Nat × Nat))
    (h : (qactOut s c w d trapped rnd k).image ≠ none) : qactStripes c w d index seed stream free trapped (k :: rest) s
      = qactStripes c w d index seed stream free trapped rest (qactStep s c w d trapped rnd k) := by
  subst hrnd
  obtain ⟨t, i⟩ := k
  rw [qactStripes]
  split
  · next e => exact absurd e h
  · next img e =>
    have hw : (qactWrite s c w d trapped (roundWord (wMod w / 16) seed stream free) (t, i)).2 = img := congrArg (Option.getD · []) e
    rw [qactStep, hw]
    rfl

/-- A stripe with no image traps (R73). -/
theorem qactStripes_cons_trap {s : State} {k : Nat × Nat} (index : Nat) (rest : List (Nat × Nat))
    (h : (qactOut s c w d trapped rnd k).image = none) :
    ∃ t, (OnlyQuantises c s t) ∧ qactStripes c w d index seed stream free trapped (k :: rest) s
      = .left (outlierTrap t c index k.1 k.2) := by
  subst hrnd
  obtain ⟨t, i⟩ := k
  refine ⟨_, (countStripe_frame s c (qdCap d)
    (qactOut s c w d trapped (roundWord (wMod w / 16) seed stream free) (t, i))).1, ?_⟩
  rw [qactStripes]
  split
  · rfl
  · next e => exact absurd (h.symm.trans e) (by simp)

variable {lo len : Nat} (ha : apart (8 * qdSrc d) (8 * ceilDiv (qdNval d) 2 * qdTokens d) lo len = true)
include ha

/-- Stripes whose images stay clear of the source are written one after another, and those that follow them read what they would have
read before. -/
theorem qactStripes_append (index : Nat) (post : List (Nat × Nat)) : ∀ (pre : List (Nat × Nat)) (s : State),
    (∀ k ∈ pre ++ post, k ∈ qactItems d) →
    (∀ k ∈ pre, (qactOut s c w d trapped rnd k).image ≠ none
      ∧ writeIn lo len (qactWrite s c w d trapped rnd k)) →
    ∃ t, qactStripes c w d index seed stream free trapped (pre ++ post) s = qactStripes c w d index seed stream free trapped post t
      ∧ OnlyQuantises c s t
      ∧ (coreOf t c).spad
          = memWrites (coreOf s c).spad (pre.map (qactWrite s c w d trapped rnd))
      ∧ ∀ k ∈ post, qactOut t c w d trapped rnd k
          = qactOut s c w d trapped rnd k
  | [], s, _, _ => ⟨s, rfl, OnlyQuantises.refl c s, rfl, fun _ _ => rfl⟩
  | k :: pre, s, hmem, h => by
    obtain ⟨hne, hin⟩ := h k (by simp)
    obtain ⟨hq, hspad⟩ := qactStep_effect s c w d trapped rnd k
    have hlater : ∀ k' ∈ pre ++ post, k' ∈ qactItems d := fun k' hk' => hmem k' (List.mem_cons_of_mem k hk')
    have hout : ∀ k' ∈ pre ++ post, qactOut (qactStep s c w d trapped rnd k) c w d trapped rnd k' = qactOut s c w d trapped rnd k' :=
      fun k' hk' => qactOut_congr hq.theta
        (spadF32_memWrite hspad ha hin (by omega) (qactVals_in_source (hlater k' hk'))) w trapped rnd
    have hwrite : ∀ k' ∈ pre, qactWrite (qactStep s c w d trapped rnd k) c w d trapped rnd k' = qactWrite s c w d trapped rnd k' :=
      fun k' hk' => by rw [qactWrite, qactWrite, hout k' (List.mem_append_left _ hk')]
    obtain ⟨t, hrun, ht, htm, hto⟩ := qactStripes_append index post pre (qactStep s c w d trapped rnd k) hlater (fun k' hk' => by
      rw [hout k' (List.mem_append_left _ hk'), hwrite k' hk']
      exact h k' (by simp [hk']))
    refine ⟨t, ?_, hq.trans ht, ?_, fun k' hk' => (hto k' hk').trans (hout k' (List.mem_append_right _ hk'))⟩
    · rw [List.cons_append, qactStripes_cons_image hrnd index (pre ++ post) hne, hrun]
    · rw [htm, List.map_congr_left hwrite, hspad]; rfl
end

/-! Slots (R72). -/

/-- The write of stripe k reaches no further than j slots from its own. -/
theorem qactWrite_in {s : State} {c w d : Nat} {trapped : List Nat} {rnd : Nat → Option Nat} {k : Nat × Nat} (j : Nat)
    (hlen : (qactWrite s c w d trapped rnd k).2.length ≤ j * (64 * qdSlot d))
    (hidx : qactIdx d k + j ≤ ceilDiv (qdNval d) 2048 * qdTokens d) :
    writeIn (8 * qdDst d) (64 * qdSlot d * ceilDiv (qdNval d) 2048 * qdTokens d) (qactWrite s c w d trapped rnd k) := by
  have e := Nat.mul_le_mul_right (64 * qdSlot d) hidx
  rw [Nat.add_mul] at e
  have ep : (qactWrite s c w d trapped rnd k).1 = 8 * qdDst d + qactIdx d k * (64 * qdSlot d) := by rw [qactWrite, Nat.mul_assoc]
  refine ⟨by rw [ep]; exact Nat.le_add_right .., ?_⟩
  rw [ep, Nat.mul_assoc, Nat.mul_comm (64 * qdSlot d)]
  omega

/-- Images that keep to their slots follow one another. -/
theorem qactWrites_pairwise {s : State} {c w d : Nat} {trapped : List Nat} {rnd : Nat → Option Nat}
    (h : ∀ k ∈ qactItems d, (qactWrite s c w d trapped rnd k).2.length ≤ 64 * qdSlot d) :
    ((qactItems d).map (qactWrite s c w d trapped rnd)).Pairwise (fun p q => p.1 + p.2.length ≤ q.1) := by
  rw [List.pairwise_map]
  refine (qactItems_pairwise d).imp_of_mem (fun {a b} ha _ hab => ?_)
  have hlen := h a ha
  have e := Nat.mul_le_mul_right (64 * qdSlot d) (show qactIdx d a + 1 ≤ qactIdx d b from hab)
  rw [Nat.succ_mul, ← Nat.mul_assoc, ← Nat.mul_assoc (qactIdx d b)] at e
  simp only [qactWrite] at hlen ⊢
  omega

/-- What the check of a QACT descriptor leaves (R72): the slot takes the largest image of the command's format. -/
theorem qdError_none {s : State} {c w d : Nat} (h : qdError s c w d = none) :
    qactSlot (if wMod w % 4 = 1 then 3 else 0) (wMod w / 4 % 4) (qdCap d) (min 64 (ceilDiv (qdNval d) 32)) ≤ 64 * qdSlot d := by
  unfold qdError at h
  dsimp only at h
  generalize (if wMod w % 4 = 1 then 3 else 0) = fmt at h ⊢
  split at h
  · cases h
  · split at h
    · cases h
    · split at h
      · cases h
      · split at h
        · cases h
        · next hn => exact Nat.not_lt.1 hn

/-- Under TRAP an image takes at most two slots of N4, also where its token is quantised at E8 (R73). -/
theorem qactSlot_le_two {fmt n m : Nat} (hf : fmt = 0 ∨ fmt = 3) (olCap : Nat) (h : n ≤ m) :
    qactSlot fmt 2 olCap n ≤ 2 * qactSlot 0 2 olCap m := by
  rcases hf with rfl | rfl <;> simp [qactSlot, fmtBytes, fmtWidth, alignUp, ceilDiv] <;> omega

/-- A stripe of the command traps, at N4 under TRAP, or its image takes at most the slot of R72. -/
theorem qactOut_cases (s : State) (c w d : Nat) (trapped : List Nat) (rnd : Nat → Option Nat) (k : Nat × Nat) :
    ((qactOut s c w d trapped rnd k).image = none ∧ qactFmt w trapped k ≠ 3 ∧ wMod w / 4 % 4 = 2)
    ∨ ∃ img, (qactOut s c w d trapped rnd k).image = some img ∧ img.length
        ≤ qactSlot (qactFmt w trapped k) (wMod w / 4 % 4) (qdCap d) (ceilDiv (qactVals s c d k).length 32) := qactStripe_cases ..

/-- Where a stripe traps, every image of the command takes at most two slots. -/
theorem qactWrite_length_le {s : State} {c w d : Nat} {trapped : List Nat} {rnd : Nat → Option Nat} {j : Nat × Nat}
    (herr : qdError s c w d = none) (hj : (qactOut s c w d trapped rnd j).image = none) (k : Nat × Nat) :
    (qactWrite s c w d trapped rnd k).2.length ≤ 2 * (64 * qdSlot d) := by
  obtain ⟨-, hfmt, hpol⟩ | ⟨img, himg, -⟩ := qactOut_cases s c w d trapped rnd j
  · have hm : ¬ wMod w % 4 = 1 := fun h => hfmt (by simp [qactFmt, h])
    have hslot := qdError_none herr
    rw [hpol, if_neg hm] at hslot
    obtain ⟨hk, -, -⟩ | ⟨img, himg, hlen⟩ := qactOut_cases s c w d trapped rnd k
    · rw [qactWrite, hk]; exact Nat.zero_le _
    · rw [hpol] at hlen
      have hv : (qactVals s c d k).length = min 2048 (qdNval d - 2048 * k.2) := spadF32_length ..
      have htwo := qactSlot_le_two (fmt := qactFmt w trapped k) (by rw [qactFmt]; split <;> simp) (qdCap d)
        (show ceilDiv (qactVals s c d k).length 32 ≤ min 64 (ceilDiv (qdNval d) 32) by rw [hv]; simp only [ceilDiv]; omega)
      rw [qactWrite, himg]
      exact hlen.trans (htwo.trans (by omega))
  · exact absurd (hj.symm.trans himg) (by simp)

/-! The command. -/

/-- A body that leaves the engine leaves its queue too, and END and HALT may finish. -/
theorem runEngine_left {s t : State} {c q opc : Nat} {body : State → Issued → Nat → EngRes} {i : Issued}
    (h : engAt s c q opc i = true) (hb : body s i i.word.toNat = .left t) : runEngine s c q opc body = drainEnd (popEngine t c q) c := by
  obtain ⟨h1, ⟨l, h2⟩, h3, h4⟩ := (engAt_iff ..).1 h
  simp [runEngine, h1, h2, h3, h4, hb]

/-- A trap raises OUTLIER_TRAP, discards the VEQ and stops issue (R73). -/
theorem outlierTrap_core (s : State) (c index token stripe : Nat) : (coreOf (outlierTrap s c index token stripe) c).veq = []
    ∧ (coreOf (outlierTrap s c index token stripe) c).run = false := by
  unfold outlierTrap
  exact ⟨congrArg CoreState.veq (coreOf_updCore_self ..), congrArg CoreState.run (coreOf_updCore_self ..)⟩
theorem outlierTrap_events (s : State) (c index token stripe : Nat) :
    ∃ e, (outlierTrap s c index token stripe).events = s.events ++ [e] ∧ e.code = 0x5020#16 := by
  unfold outlierTrap
  dsimp only
  rw [updCore_events, doorbellAt_events]
  exact (emit_events _ _ _).imp fun _ ⟨he, hcode, _⟩ => ⟨he, hcode⟩

/-- END and HALT raise no event, and start nothing. -/
theorem drainEnd_stopped {s : State} {c : Nat} (h : (coreOf s c).run = false) : (coreOf (drainEnd s c) c).veq = (coreOf s c).veq
    ∧ (coreOf (drainEnd s c) c).run = false ∧ (drainEnd s c).events = s.events := by
  have hev : (drainEnd s c).events = s.events := by
    unfold drainEnd
    dsimp only
    split
    · rw [doorbellAt_events, setCore_events]
    · rfl
  obtain e | ⟨-, -, -, -, e⟩ := drainEnd_core s c
  · exact ⟨by rw [e], by rw [e, h], hev⟩
  · exact ⟨by rw [e], by rw [e], hev⟩

/-- The end of the command leaves it so. -/
theorem outlierTrap_effect (s : State) (c index token stripe : Nat) :
    let t := drainEnd (popEngine (outlierTrap s c index token stripe) c 2) c
    (coreOf t c).veq = [] ∧ (coreOf t c).run = false ∧ ∃ e, t.events = s.events ++ [e] ∧ e.code = 0x5020#16 := by
  obtain ⟨hveq, hrun⟩ := outlierTrap_core s c index token stripe
  obtain ⟨e, he, hcode⟩ := outlierTrap_events s c index token stripe
  obtain ⟨hpop, -, hcore, -⟩ := popEngine_frame (outlierTrap s c index token stripe) c 2
  have hpe : (popEngine (outlierTrap s c index token stripe) c 2).events = s.events ++ [e] := (congrArg State.events hpop).trans he
  obtain ⟨dveq, drun, dev⟩ := drainEnd_stopped (s := popEngine (outlierTrap s c index token stripe) c 2) (c := c) (by
    rw [hcore]; exact hrun)
  refine ⟨dveq.trans ?_, drun, e, dev.trans hpe, hcode⟩
  rw [hcore]
  show (queueOf (coreOf (outlierTrap s c index token stripe) c) 2).drop 1 = []
  rw [show queueOf (coreOf (outlierTrap s c index token stripe) c) 2 = (coreOf (outlierTrap s c index token stripe) c).veq from rfl, hveq]
  rfl

/-- The word that a stochastic rounding of QACT draws for an element (R69, R207). -/
def qactRnd (s : State) (c w d : Nat) : Nat → Option Nat := roundWord (wMod w / 16)
  (BitVec.ofNat 64 (leNat (spadRead s c (8 * qdSeed d) 8))) (leNat (spadRead s c (8 * qdSeed d + 8) 2)) s.free

section
variable {s : State} {c w d : Nat} {i : Issued} (hd : descOk s c (wA w) 32 121 = true) (hdesc : descAt s c (wA w) 32 = d)
  (herr : qdError s c w d = none) (hsrc : readable s c (qdSrc d) (8 * ceilDiv (qdNval d) 2 * qdTokens d) = true)
  (hdst : inSpad (qdDst d) (64 * qdSlot d * ceilDiv (qdNval d) 2048 * qdTokens d) = true)
  (hseed : wMod w / 16 = 1 → readable s c (qdSeed d) 16 = true)
include hd hdesc herr hsrc hdst hseed

/-- A good QACT quantises its stripes; entropy that it draws counts as taken. -/
theorem qactBody_runs : ∃ seed stream free n, roundWord (wMod w / 16) seed stream free = qactRnd s c w d
    ∧ qactBody c s i w = qactStripes c w d i.index.toNat seed stream free (trappedTokens s c) (qactItems d) { s with free := n } := by
  by_cases h1 : wMod w / 16 = 1
  · refine ⟨BitVec.ofNat 64 (leAt (spadRead s c (8 * qdSeed d) 16) 0 8), leAt (spadRead s c (8 * qdSeed d) 16) 8 2, 0, s.free, ?_, ?_⟩
    · funext e
      simp only [qactRnd, roundWord, h1, Nat.one_ne_zero, if_false, if_true, spadRead, leAt_memRead _ _ (show 0 + 8 ≤ 16 by decide),
        leAt_memRead _ _ (show 8 + 2 ≤ 16 by decide), Nat.add_zero]
    · simp only [qactBody, opDesc_ok _ _ _ _ _ _ hd, hdesc, herr, opRead_ok _ _ _ _ _ _ hsrc, opRoom_ok _ _ _ _ _ hdst, h1, if_true,
        opRead_ok _ _ _ _ _ _ (hseed h1)]
  · refine ⟨0, 0, s.free, if wMod w / 16 = 2 then s.free + qdNval d * qdTokens d else s.free, ?_, ?_⟩
    · funext e; simp only [qactRnd, roundWord, h1, if_false]
    · simp only [qactBody, opDesc_ok _ _ _ _ _ _ hd, hdesc, herr, opRead_ok _ _ _ _ _ _ hsrc, opRoom_ok _ _ _ _ _ hdst, h1, if_false]
      split <;> rfl

variable (ha : apart (8 * qdSrc d) (8 * ceilDiv (qdNval d) 2 * qdTokens d) (8 * qdDst d)
  (64 * qdSlot d * ceilDiv (qdNval d) 2048 * qdTokens d) = true)
include ha

/-- Where every image keeps to its slot the command is done: the images are written as the values stood before it. -/
theorem qactBody_done (h : ∀ k ∈ qactItems d, ∃ img, (qactOut s c w d (trappedTokens s c) (qactRnd s c w d) k).image = some img
    ∧ img.length ≤ 64 * qdSlot d) :
    ∃ t, qactBody c s i w = .done t ∧ (∀ k, k ≠ c → coreOf t k = coreOf s k) ∧ t.clusters = s.clusters
      ∧ (coreOf t c).spad
        = memWrites (coreOf s c).spad ((qactItems d).map (qactWrite s c w d (trappedTokens s c) (qactRnd s c w d))) := by
  obtain ⟨seed, stream, free, n, hrnd, hbody⟩ := qactBody_runs (i := i) hd hdesc herr hsrc hdst hseed
  obtain ⟨t, hrun, hq, hspad, -⟩ := qactStripes_append (c := c) (w := w) (trapped := trappedTokens s c) hrnd ha i.index.toNat []
    (qactItems d) { s with free := n } (fun k hk => by simpa using hk) (fun k hk => by
      obtain ⟨img, himg, hlen⟩ := h k hk
      have himg' : (qactOut { s with free := n } c w d (trappedTokens s c) (qactRnd s c w d) k).image = some img := himg
      exact ⟨by rw [himg']; simp, qactWrite_in 1 (by rw [qactWrite, himg']; simpa using hlen) (qactIdx_lt hk)⟩)
  rw [List.append_nil] at hrun
  exact ⟨t, hbody.trans hrun, hq.others, hq.clusters_eq, hspad⟩

/-- Where a stripe traps the first such stripe ends the command: the images before it reach no value that it reads (R73). -/
theorem qactBody_traps {k : Nat × Nat} (hk : k ∈ qactItems d)
    (h : (qactOut s c w d (trappedTokens s c) (qactRnd s c w d) k).image = none) :
    ∃ t, ∃ k' : Nat × Nat, t.events = s.events ∧ qactBody c s i w = .left (outlierTrap t c i.index.toNat k'.1 k'.2) := by
  obtain ⟨seed, stream, free, n, hrnd, hbody⟩ := qactBody_runs (i := i) hd hdesc herr hsrc hdst hseed
  obtain ⟨j, hj⟩ := Option.isSome_iff_exists.1 (List.find?_isSome (p := fun k =>
    (qactOut s c w d (trappedTokens s c) (qactRnd s c w d) k).image.isNone).2 ⟨k, hk, Option.isNone_iff_eq_none.2 h⟩)
  obtain ⟨hnone, pre, post, hsplit, hpre⟩ := List.find?_eq_some_iff_append.1 hj
  rw [Option.isNone_iff_eq_none] at hnone
  have hmem : ∀ x ∈ pre ++ j :: post, x ∈ qactItems d := fun x hx => hsplit ▸ hx
  have hord := hsplit ▸ qactItems_pairwise d
  obtain ⟨t, hrun, hq, -, hout⟩ := qactStripes_append (c := c) (w := w) (trapped := trappedTokens s c) hrnd ha i.index.toNat (j :: post)
    pre { s with free := n } hmem (fun x hx => by
      have hx' : qactIdx d x < qactIdx d j := (List.pairwise_append.1 hord).2.2 x hx j (by simp)
      have hj' := qactIdx_lt (hmem j (by simp))
      have hsome := hpre x hx
      refine ⟨fun e => ?_, qactWrite_in 2 (qactWrite_length_le (s := s) herr hnone x) (by omega)⟩
      rw [show (qactOut s c w d (trappedTokens s c) (qactRnd s c w d) x).image = none from e] at hsome
      cases hsome)
  have htrap : (qactOut t c w d (trappedTokens s c) (qactRnd s c w d) j).image = none := by
    rw [hout j (by simp)]; exact hnone
  obtain ⟨u, hu, hleft⟩ := qactStripes_cons_trap hrnd i.index.toNat post htrap
  rw [hsplit, hrun, hleft] at hbody
  exact ⟨u, j, hu.events_eq.trans hq.events_eq, hbody⟩
end

/-- Settles O16: the images of a QACT and the units of a QENT are a row of writes in their range, one after another; the first stripe of a
QACT that has no image leaves the engine with the trap. -/
theorem quantisersEncode : Obligations.QuantisersEncode := by
  intro c s i w
  refine ⟨?_, ?_⟩
  · intro h hd d nval ns enc herr hsrc hdst hseed ha
    refine ⟨fun himg => ?_, fun ⟨k, hk, hnone⟩ => ?_⟩
    · obtain ⟨t, hbody, hother, hcl, hspad⟩ := qactBody_done (i := i) hd rfl herr hsrc hdst hseed ha himg
      have hlen : ∀ k ∈ qactItems d,
          (qactWrite s c w d (trappedTokens s c) (qactRnd s c w d) k).2.length ≤ 64 * qdSlot d := fun k hk => by
        obtain ⟨img, e, hl⟩ := himg k hk
        rw [qactWrite, show (qactOut s c w d (trappedTokens s c) (qactRnd s c w d) k).image = some img from e]
        exact hl
      refine ⟨t, congrArg Host.Outcome.next (runEngine_done h hbody), fun k hk img e => ?_, ?_, hother, hcl⟩
      · have hread := memRead_memWrites (coreOf s c).spad (qactWrites_pairwise hlen) _ (List.mem_map_of_mem hk)
        rw [← hspad, qactWrite, show (qactOut s c w d (trappedTokens s c) (qactRnd s c w d) k).image = some img from e] at hread
        exact hread
      · rw [hspad]
        refine sameOutside_memWrites _ _ (fun p hp => ?_)
        obtain ⟨k, hk, rfl⟩ := List.mem_map.1 hp
        exact qactWrite_in 1 ((hlen k hk).trans (Nat.one_mul _).ge) (qactIdx_lt hk)
    · obtain ⟨t, k', hev, hbody⟩ := qactBody_traps (i := i) hd rfl herr hsrc hdst hseed ha hk hnone
      obtain ⟨hveq, hrun, e, he, hcode⟩ := outlierTrap_effect t c i.index.toNat k'.1 k'.2
      exact ⟨_, congrArg Host.Outcome.next (runEngine_left h hbody), hveq, hrun, e, by rw [he, hev], hcode⟩
  · intro h hlev hC hsc hA fmt hD ha
    have hbody := qentBody_encodes (i := i) hlev hC hsc hA hD
    obtain ⟨⟨hframe, hother⟩, hspad⟩ := qentUnits_effect (f32At s c (8 * wC w)) ha (List.range (wN w)) s
      (fun u hu => List.mem_range.1 hu)
    refine ⟨_, congrArg Host.Outcome.next (runEngine_done h hbody), fun u hu => ?_, ?_, hother, hframe⟩
    · have hread := memRead_memWrites (coreOf s c).spad (qentWrites_pairwise s c w fmt (f32At s c (8 * wC w)) (wN w)) _
        (List.mem_map_of_mem (List.mem_range.2 hu))
      rw [← hspad] at hread
      exact hread
    · rw [hspad]
      refine sameOutside_memWrites _ _ (fun p hp => ?_)
      obtain ⟨u, hu, rfl⟩ := List.mem_map.1 hp
      exact qentWrite_in s c w fmt _ (List.mem_range.1 hu)

end Sys2Proof.Machine
end

section
/-! PROOF. MMA and MMA.T (R88 to R95, R100, R191 to R193): the outputs of a command are a row of writes, one for each token, whose
bytes are functions of the scratchpad as it stood; its counters, reports and samples touch no memory. -/

namespace Sys2Proof.Machine

/-! FP32 values of a byte string. -/

theorem chunksOf_fuel {α : Type} {n : Nat} (hn : 0 < n) : ∀ (f g : Nat) (l : List α), l.length ≤ f * n → l.length ≤ g * n →
    chunksOf n f l = chunksOf n g l
  | 0, g, l, hf, _ => by
    obtain rfl : l = [] := List.length_eq_zero_iff.1 (by omega)
    cases g <;> rfl
  | f + 1, 0, l, _, hg => by
    obtain rfl : l = [] := List.length_eq_zero_iff.1 (by omega)
    rfl
  | _ + 1, _ + 1, [], _, _ => rfl
  | f + 1, g + 1, x :: t, hf, hg => by
    have hd : ((x :: t).drop n).length = (x :: t).length - n := List.length_drop
    rw [Nat.succ_mul] at hf hg
    simp only [chunksOf, chunksOf_fuel hn f g ((x :: t).drop n) (by omega) (by omega)]

/-- The first chunk of a list that begins with n values, and the chunks of the rest. -/
theorem chunks_append {α : Type} {n : Nat} (hn : 0 < n) {l m : List α} (h : l.length = n) : chunks n (l ++ m) = l :: chunks n m := by
  obtain ⟨x, t, rfl⟩ := List.exists_cons_of_length_pos (l := l) (by omega)
  have hfuel : ∀ k, k ≤ (k / n + 1) * n := fun k => by rw [Nat.succ_mul]; exact (Nat.lt_div_mul_add hn).le
  rw [chunks, chunksOf_fuel hn _ ((m.length / n + 1) + 1) _ (hfuel _)
    (by rw [List.length_append, h, Nat.succ_mul]; have := hfuel m.length; omega)]
  show List.take n (x :: t ++ m) :: chunksOf n _ (List.drop n (x :: t ++ m)) = _
  rw [List.take_left' h, List.drop_left' h]
  rfl

/-- The FP32 values from a byte address on, one by one. -/
theorem spadF32_succ (s : State) (c a n : Nat) : spadF32 s c a (n + 1) = f32At s c a :: spadF32 s c (a + 4) n := by
  have e : spadRead s c a (4 * (n + 1)) = spadRead s c a 4 ++ spadRead s c (a + 4) (4 * n) := by
    rw [Nat.mul_succ, Nat.add_comm]; exact memRead_add ..
  have hl : (spadRead s c a 4).length = 4 := memRead_length ..
  rw [spadF32, e, chunks_append (by decide) hl]
  rfl
theorem spadF32_eq (s : State) (c : Nat) : ∀ (n a : Nat), spadF32 s c a n = (List.range n).map (fun r => f32At s c (a + 4 * r))
  | 0, _ => rfl
  | n + 1, a => by
    rw [spadF32_succ, spadF32_eq s c n, List.range_succ_eq_map, List.map_cons, List.map_map]
    congr 1
    exact List.map_congr_left (fun r _ => congrArg (f32At s c) (by rw [Nat.succ_eq_add_one]; omega))

theorem f32Bytes_append (xs ys : List F32) : f32Bytes (xs ++ ys) = f32Bytes xs ++ f32Bytes ys := List.flatMap_append ..
@[simp] theorem f32Bytes_length (xs : List F32) : (f32Bytes xs).length = 4 * xs.length := by
  rw [f32Bytes, List.length_flatMap, sum_map_const (fun x _ => leBytes_length 4 x.toNat), Nat.mul_comm]
/-- A value stands at its place in the bytes of a list. -/
theorem leAt_f32Bytes {xs : List F32} {r : Nat} {y : F32} (h : xs[r]? = some y) : leAt (f32Bytes xs) (4 * r) 4 = y.toNat := by
  obtain ⟨hr, hy⟩ := List.getElem?_eq_some_iff.1 h
  have hsplit : xs = xs.take r ++ [y] ++ xs.drop (r + 1) := by
    rw [← hy, List.append_assoc, List.singleton_append, List.cons_getElem_drop_succ, List.take_append_drop]
  have hlen : (f32Bytes (xs.take r)).length = 4 * r := by rw [f32Bytes_length, List.length_take_of_le hr.le]
  rw [hsplit, f32Bytes_append, f32Bytes_append, ← hlen, show f32Bytes [y] = leBytes 4 y.toNat by simp [f32Bytes]]
  exact leAt_append _ 4 _ _ y.isLt
theorem f32At_of_read {s : State} {c a r n : Nat} {xs : List F32} {y : F32} (h : spadRead s c a n = f32Bytes xs) (hr : 4 * r + 4 ≤ n)
    (hy : xs[r]? = some y) : f32At s c (a + 4 * r) = y := by
  rw [f32At, spadRead, ← leAt_memRead _ a hr, show memRead (coreOf s c).spad a n = f32Bytes xs from h, leAt_f32Bytes hy]
  exact BitVec.ofNat_toNat ..

/-! Outputs of the MEs. -/

theorem faultOutputs_length (silent : List (Nat × W32)) (base : Nat) (ys : List F32) :
    (faultOutputs silent base ys).length = ys.length := List.length_mapIdx ..
/-- An output of the k-th token after its silent faults. -/
theorem faultOutputs_getElem? (silent : List (Nat × W32)) (count k : Nat) (ys : List F32) (r : Nat) :
    (faultOutputs silent (count * k) ys)[r]? = ys[r]?.map (faulted silent count k r) := List.getElem?_mapIdx ..

/-- A byte that lies in none of the writes of a row is as it was. -/
theorem memByte_memWrites_apart {a : Nat} : ∀ (ps : List (Nat × Bytes)) (m : Mem),
    (∀ p ∈ ps, a < p.1 ∨ p.1 + p.2.length ≤ a) → memByte (memWrites m ps) a = memByte m a
  | [], _, _ => rfl
  | p :: ps, m, h => (memByte_memWrites_apart ps (memWrite m p.1 p.2) (fun q hq => h q (by simp [hq]))).trans
      ((sameOutside_memWrite m p.1 p.2).1 a (h p (by simp)))

/-- Output r of token k, silent faults aside (R88, R93, R95). -/
def mmaValue (tr : Bool) (s : State) (c w d : Nat) (x : StreamTensor) (k r : Nat) : F32 × Bool :=
  if tr then mmaTOut x (bitOf (wMod w) 1) (mdNblk d) (mdRows d) r (gradGroups s c d k)
  else mmaOut x (bitOf (wMod w) 1) (mdSa d) (mdRows d) (mdNblk d) r (actBlocks s c d k)
/-- What the n-th token of the set, token k, leaves at its place, and its write. -/
def mmaResult (tr : Bool) (s : State) (c w d : Nat) (x : StreamTensor) (silent : List (Nat × W32)) (k n : Nat) : List F32 :=
  outBytes (bitOf (wMod w) 0) (spadF32 s c (outAddr d k) (outCount tr d))
    (faultOutputs silent (outCount tr d * n) ((List.range (outCount tr d)).map (fun r => (mmaValue tr s c w d x k r).1)))
    (outCount tr d % 2 = 1)
def mmaWrite (tr : Bool) (s : State) (c w d : Nat) (x : StreamTensor) (silent : List (Nat × W32)) (k n : Nat) : Nat × Bytes :=
  (outAddr d k, f32Bytes (mmaResult tr s c w d x silent k n))

/-- Bytes of a token's outputs at its place (R192). -/
def outSpan (tr : Bool) (d : Nat) : Nat := 4 * (outCount tr d + outCount tr d % 2)

section
variable (tr : Bool) (s : State) (c w d : Nat) (x : StreamTensor) (silent : List (Nat × W32)) (k n : Nat)

theorem mmaWrite_length : (mmaWrite tr s c w d x silent k n).2.length = outSpan tr d := by
  rw [mmaWrite, f32Bytes_length, outSpan, mmaResult, outBytes, List.length_append]
  rcases Nat.mod_two_eq_zero_or_one (outCount tr d) with h | h <;> cases bitOf (wMod w) 0 <;>
    simp [h, faultOutputs_length]

/-- The output at place r of what a token leaves: added to what stood there under ACC (R89). -/
theorem mmaResult_getElem? {r : Nat} (hr : r < outCount tr d) : (mmaResult tr s c w d x silent k n)[r]? = some
    (let y := faulted silent (outCount tr d) n r (mmaValue tr s c w d x k r).1
     if bitOf (wMod w) 0 then add32 (f32At s c (outAddr d k + 4 * r)) y else y) := by
  have hy := faultOutputs_getElem? silent (outCount tr d) n
    ((List.range (outCount tr d)).map (fun r => (mmaValue tr s c w d x k r).1)) r
  rw [List.getElem?_map, List.getElem?_range hr, Option.map_some, Option.map_some] at hy
  rw [mmaResult, outBytes, spadF32_eq, List.getElem?_append_left (by split <;> simp [faultOutputs_length, hr])]
  cases bitOf (wMod w) 0
  · exact hy
  · simp only [if_true, List.getElem?_zipWith, List.getElem?_map, List.getElem?_range hr, Option.map_some, hy]
end

/-! Operands of a token. -/

/-- The activations of a token lie in its span. -/
theorem mmaValue_congr {tr : Bool} {s t : State} {c d k : Nat}
    (h : ∀ a n, actAddr tr d k ≤ a → a + n ≤ actAddr tr d k + actSpan tr d → spadRead t c a n = spadRead s c a n)
    (w : Nat) (x : StreamTensor) : mmaValue tr t c w d x k = mmaValue tr s c w d x k := by
  funext r
  cases tr with
  | true =>
    have hg : gradGroups t c d k = gradGroups s c d k := by
      rw [gradGroups, gradGroups, h _ _ (Nat.le_refl _) (by simp [actSpan])]
    simp [mmaValue, hg]
  | false =>
    have ha : actBlocks t c d k = actBlocks s c d k := by
      simp only [actBlocks]
      split
      · next hn =>
        refine congrArg List.flatten (List.map_congr_left (fun i hi => ?_))
        have hi' := Nat.mul_le_mul_right (mdAslot d * 64) (Nat.succ_le_of_lt (List.mem_range.1 hi))
        have e : 64 * mdAslot d * ceilDiv (mdNblk d) 64 = ceilDiv (mdNblk d) 64 * (mdAslot d * 64) := by ring
        rw [Nat.succ_mul] at hi'
        rw [h _ _ (Nat.le_add_right ..) (by simp only [actSpan, hn, if_true, Bool.false_eq_true, if_false, e]; rw [Nat.mul_assoc i]; omega)]
      · next hn =>
        split
        · next h2 =>
          rw [h _ _ (Nat.le_refl _) (by simp [actSpan, h2])]
        · next h2 =>
          rw [h _ _ (Nat.le_refl _) (by simp [actSpan, hn, h2])]
    simp [mmaValue, ha]

/-- What a token leaves depends on its operands and on what stood at its place. -/
theorem mmaWrite_congr {tr : Bool} {s t : State} {c d k : Nat}
    (h : ∀ a n, actAddr tr d k ≤ a → a + n ≤ actAddr tr d k + actSpan tr d → spadRead t c a n = spadRead s c a n)
    (ho : spadRead t c (outAddr d k) (4 * outCount tr d) = spadRead s c (outAddr d k) (4 * outCount tr d))
    (w : Nat) (x : StreamTensor) (silent : List (Nat × W32)) (n : Nat) :
    mmaWrite tr t c w d x silent k n = mmaWrite tr s c w d x silent k n := by
  rw [mmaWrite, mmaWrite, mmaResult, mmaResult, mmaValue_congr h, spadF32_congr ho]

/-! The tokens of a set, one after another. -/

theorem apart_comm (a n b m : Nat) : apart a n b m = apart b m a n := by
  rw [Bool.eq_iff_iff]; simp only [apart, Bool.or_eq_true, decide_eq_true_eq, beq_iff_eq]; omega

/-- One token is computed and written; then come the others. -/
theorem mmaTokens_cons (tr : Bool) (c w d : Nat) (x : StreamTensor) (silent : List (Nat × W32)) (k : Nat) (ks : List Nat) (s : State)
    {m : MmaSum} {n : Nat} (hm : m.outs.length = outCount tr d * n) : ∃ m' : MmaSum, m'.outs.length = outCount tr d * (n + 1)
      ∧ mmaTokens tr c w d x silent (k :: ks) s m = mmaTokens tr c w d x silent ks
          (spadWrite s c (mmaWrite tr s c w d x silent k n).1 (mmaWrite tr s c w d x silent k n).2) m' := by
  have hr : ∀ y : Nat → F32 × Bool, ((List.range (outCount tr d)).map y).map (fun y => y.1) = (List.range (outCount tr d)).map (fun r => (y r).1) :=
    fun y => List.map_map ..
  cases tr <;>
    refine ⟨_, ?_, by simp only [mmaTokens, hr, hm, Bool.false_eq_true, if_false, if_true, mmaWrite, mmaResult, mmaValue]; rfl⟩ <;>
    simp [faultOutputs_length, hm, Nat.mul_succ]

/-- Where no token's outputs lie in another token's operands or outputs, all the outputs are those of the state before. -/
theorem mmaTokens_effect (tr : Bool) (c w d : Nat) (x : StreamTensor) (silent : List (Nat × W32)) : ∀ (ks : List Nat) (s : State)
    (m : MmaSum) (n : Nat), m.outs.length = outCount tr d * n → ks.Nodup →
    (∀ k ∈ ks, ∀ u ∈ ks, apart (outAddr d k) (outSpan tr d) (actAddr tr d u) (actSpan tr d) = true
      ∧ (k ≠ u → apart (outAddr d k) (outSpan tr d) (outAddr d u) (outSpan tr d) = true)) →
    onlyCore s (mmaTokens tr c w d x silent ks s m).1 c
    ∧ coreOf (mmaTokens tr c w d x silent ks s m).1 c = { coreOf s c with
        spad := memWrites (coreOf s c).spad ((ks.zipIdx n).map (fun e => mmaWrite tr s c w d x silent e.1 e.2)) }
  | [], s, m, n, _, _, _ => ⟨onlyCore_refl s c, rfl⟩
  | k :: ks, s, m, n, hm, hd, ha => by
    obtain ⟨hk, hks⟩ := List.nodup_cons.1 hd
    obtain ⟨m', hm', e⟩ := mmaTokens_cons tr c w d x silent k ks s hm
    have hlen := mmaWrite_length tr s c w d x silent k n
    generalize hp : mmaWrite tr s c w d x silent k n = p at e hlen
    have hin : writeIn (outAddr d k) (outSpan tr d) p := ⟨by rw [← hp]; exact Nat.le_refl _, by rw [hlen, ← hp]; exact Nat.le_refl _⟩
    have hspad : (coreOf (spadWrite s c p.1 p.2) c).spad = memWrite (coreOf s c).spad p.1 p.2 := by simp [spadWrite]
    have hlater : (ks.zipIdx (n + 1)).map (fun e => mmaWrite tr (spadWrite s c p.1 p.2) c w d x silent e.1 e.2)
        = (ks.zipIdx (n + 1)).map (fun e => mmaWrite tr s c w d x silent e.1 e.2) := List.map_congr_left (fun q hq => by
      have hu : q.1 ∈ ks := List.fst_mem_of_mem_zipIdx hq
      obtain ⟨h1, h2⟩ := ha k (by simp) q.1 (by simp [hu])
      have h2 := h2 (fun e => hk (e ▸ hu))
      rw [apart_comm] at h1 h2
      refine mmaWrite_congr (fun a j h3 h4 => ?_) ?_ w x silent q.2
      · rw [spadRead, hspad]; exact memRead_memWrite_in _ h1 hin h3 h4
      · rw [spadRead, hspad]; exact memRead_memWrite_in _ h2 hin (Nat.le_refl _) (by simp only [outSpan]; omega))
    obtain ⟨g1, g2⟩ := mmaTokens_effect tr c w d x silent ks (spadWrite s c p.1 p.2) m' (n + 1) hm' hks
      (fun a ha' b hb => ha a (by simp [ha']) b (by simp [hb]))
    rw [e, List.zipIdx_cons, List.map_cons, hp]
    refine ⟨onlyCore_trans (onlyCore_updCore ..) g1, ?_⟩
    rw [g2, hlater, hspad]
    simp [spadWrite, memWrites]

/-! Grants (R216 to R219). -/

/-- Whoever holds a grant of a cluster keeps it, and the budget in force there is as it was. -/
def grantsKept (k : Nat) (s t : State) : Prop := (∀ g ∈ (clOf s k).grants, g ∈ (clOf t k).grants) ∧ inForce t k = inForce s k
theorem grantsKept_refl (k : Nat) (s : State) : grantsKept k s s := ⟨fun _ h => h, rfl⟩
theorem grantsKept_trans {k : Nat} {s t u : State} (h : grantsKept k s t) (g : grantsKept k t u) : grantsKept k s u :=
  ⟨fun x hx => g.1 x (h.1 x hx), g.2.trans h.2⟩
theorem grantsKept_setKreg (s : State) (k v : Nat) {off : Nat} (h : off ≠ 0x18) (g : off ≠ 0x20) : grantsKept k s (setKreg s k off v) :=
  ⟨fun x hx => by simpa [setKreg] using hx,
    by simp only [inForce, shareField, kreg_setKreg_off _ _ _ _ (Ne.symm h), kreg_setKreg_off _ _ _ _ (Ne.symm g)]⟩
theorem grantsKept_setCl (s : State) (k : Nat) {v : ClusterState} (hg : ∀ g ∈ (clOf s k).grants, g ∈ v.grants)
    (hr : v.regs = (clOf s k).regs) : grantsKept k s (setCl s k v) :=
  ⟨fun x hx => by simpa using hg x hx, by simp [inForce, shareField, kreg, hr]⟩
theorem giveGrants_keeps (k : Nat) : ∀ (n : Nat) (s : State), grantsKept k s (giveGrants n s k)
  | 0, s => grantsKept_refl k s
  | n + 1, s => by
    simp only [giveGrants]
    split
    · exact grantsKept_refl k s
    · split
      · exact grantsKept_refl k s
      · next m _ =>
        have hgive : grantsKept k s (setCl s k { clOf s k with
            grants := (clOf s k).grants ++ [m], waiting := (clOf s k).waiting.erase m, rr := (m.1 + 1) % 64 }) :=
          grantsKept_setCl s k (fun g hg => List.mem_append_left _ hg) rfl
        refine grantsKept_trans ?_ (grantsKept_trans (t := bumpFreeK _ k 0x28 63 32)
          (grantsKept_setKreg _ k _ (off := 0x28) (by decide) (by decide)) (giveGrants_keeps k n _))
        split
        · exact grantsKept_trans hgive (grantsKept_setKreg _ k _ (off := 0x28) (by decide) (by decide))
        · exact hgive
theorem regrant_keeps (s : State) (k : Nat) : grantsKept k s (regrant s k) := by
  unfold regrant; split
  · exact giveGrants_keeps k 64 s
  · exact grantsKept_refl k s
theorem requestGrant_keeps (s : State) (k me : Nat) (cls : GrantClass) : grantsKept k s (requestGrant s k me cls) := by
  unfold requestGrant
  dsimp only
  split
  · exact regrant_keeps s k
  · exact grantsKept_trans (t := setCl s k { clOf s k with
      waiting := (clOf s k).waiting.filter (fun g => g.1 != me) ++ [(me, cls)] })
      (grantsKept_setCl s k (fun _ h => h) rfl) (regrant_keeps _ k)

/-- Requests for grants touch the cluster of the core alone, and take no grant away. -/
theorem coreRequests_frame (s : State) (c : Nat) (cls : GrantClass) : onlyGrants s (coreRequests s c cls) (clusterOf c)
    ∧ grantsKept (clusterOf c) s (coreRequests s c cls) :=
  ⟨foldl_rel (R := fun s t => onlyGrants s t (clusterOf c)) (onlyGrants_refl · _) onlyGrants_trans
      (fun t m => requestGrant_frame t (clusterOf c) (coreIn c * 4 + m) cls) _ s,
    foldl_rel (R := grantsKept (clusterOf c)) (grantsKept_refl _) grantsKept_trans
      (fun t m => requestGrant_keeps t (clusterOf c) (coreIn c * 4 + m) cls) _ s⟩
theorem coreGranted_coreRequests {s : State} {c : Nat} {cls : GrantClass} (h : coreGranted s c cls = true) (cls' : GrantClass) :
    coreGranted (coreRequests s c cls') c cls = true := by
  obtain ⟨hg, hf⟩ := (coreRequests_frame s c cls').2
  simp only [coreGranted, Bool.and_eq_true, List.any_eq_true, hf] at h ⊢
  obtain ⟨⟨g, hm, hc⟩, hb⟩ := h
  exact ⟨⟨g, hg g hm, hc⟩, hb⟩

/-! What the command does beside its outputs. -/

theorem onlyGrants.cores_eq {s t : State} {k : Nat} (h : onlyGrants s t k) : t.cores = s.cores := by rw [h.1]
theorem onlyGrants.vaults {s t : State} {k : Nat} (h : onlyGrants s t k) (j : Nat) : (clOf t j).vault = (clOf s j).vault := by
  by_cases e : j = k
  · rw [e]; exact h.2.2
  · rw [h.2.1 j e]
theorem onlyGrants.counts {s t : State} {k : Nat} (h : onlyGrants s t k) (c : Nat) : OnlyCounts c s t := by
  have hc : ∀ x, coreOf t x = coreOf s x := fun x => by simp [coreOf, h.cores_eq]
  exact ⟨⟨⟨fun x => by rw [hc], h.vaults⟩, fun x _ => hc x, by simp [coreLevel, creg, hc]⟩, by rw [hc]⟩
theorem onlyCounts_updCore (s : State) (c : Nat) {f : CoreState → CoreState} (hm : ∀ v, (f v).spad = v.spad)
    (hr : ∀ v, (f v).regs = v.regs) (hf : ∀ v, (f v).fifo = v.fifo) : OnlyCounts c s (updCore s c f) :=
  ⟨onlyDecodes_updCore s c hm hr, by simp [hf]⟩

/-- What the code saw while a command read a scratchpad, nothing uncorrectable, is counted and reported. -/
theorem onlyCounts_spadEcc (s : State) (c a n : Nat) {e : EccObs} (h : e.ue = []) : OnlyCounts c s (spadEcc s c a n e) := by
  have b := OnlyCounts.trans (OnlyCounts.trans (onlyCounts_bumpC s c 63 32 e.ce1 (off := 0x380) (by decide))
    (onlyCounts_bumpC _ c 31 16 e.ce2 (off := 0x380) (by decide)))
    (onlyCounts_bumpC _ c 15 0 ([] : List Nat).length (off := 0x380) (by decide))
  simp only [spadEcc, h, List.filter_nil, List.isEmpty_nil, if_true]
  exact ite_onlyCounts b (OnlyCounts.trans b (onlyCounts_report ..))
@[simp] theorem bumpC_me (s : State) (c off hi lo n d : Nat) : (coreOf (bumpC s c off hi lo n) d).me = (coreOf s d).me := by
  unfold bumpC; split
  · rfl
  · rw [setCreg, coreOf_updCore]; split
    · next h => rw [h]
    · rfl
theorem spadEcc_me (s : State) (c a n : Nat) {e : EccObs} (h : e.ue = []) : (coreOf (spadEcc s c a n e) c).me = (coreOf s c).me := by
  simp only [spadEcc, h, List.filter_nil, List.isEmpty_nil, if_true]
  split <;> simp
theorem onlyCounts_countNonFinite (s : State) (c index opc nf ov : Nat) : OnlyCounts c s (countNonFinite s c index opc nf ov) := by
  have b := OnlyCounts.trans (onlyCounts_bumpC s c 63 32 nf (off := 0x358) (by decide))
    (onlyCounts_bumpC _ c 31 0 ov (off := 0x358) (by decide))
  simp only [countNonFinite]
  refine ite_onlyCounts (OnlyCounts.refl c s) (ite_onlyCounts b (b.trans ?_))
  split
  · exact onlyCounts_of_eq rfl rfl
  · exact (onlyCounts_updCore _ c (f := fun v => { v with nfSeen := true }) (fun _ => rfl) (fun _ => rfl) (fun _ => rfl)).trans
      (onlyCounts_of_eq rfl rfl)
/-- A sampled tile is noted at its core (R99). -/
theorem onlyCounts_sampleTile (s : State) (c : Nat) (tile : DupTile) (shadow : Option ShdTile) :
    OnlyCounts c s (sampleTile s c tile shadow) := by
  have hdup := (onlyCounts_updCore s c (f := fun v => { v with dupTaken := true, dupTile := some tile }) (fun _ => rfl)
    (fun _ => rfl) (fun _ => rfl)).trans (onlyCounts_bumpC _ c 63 32 1 (off := 0x340) (by decide))
  have hshd : ∀ t, OnlyCounts c t (updCore t c (fun v => { v with shdTaken := true, shdTile := shadow })) := fun t =>
    onlyCounts_updCore t c (fun _ => rfl) (fun _ => rfl) (fun _ => rfl)
  unfold sampleTile
  dsimp only
  split
  · exact OnlyCounts.refl c s
  · split
    · exact OnlyCounts.refl c s
    · refine ite_onlyCounts (OnlyCounts.trans ?_ (hshd _)) ?_ <;> exact ite_onlyCounts hdup (OnlyCounts.refl c s)

/-! The command. -/

/-- The tokens that MOD names are computed (R192). -/
theorem tokenSet_ok {s : State} {c w d x : Nat} (h : tokensOk s c w d x = true) (k : List Nat → EngRes) :
    tokenSet s c w d x k = k (tokensOf s c w d x) := by
  unfold tokensOk at h
  unfold tokenSet tokensOf
  split
  · next hm => rw [if_pos hm] at h; exact cursorEntry_ok h _
  · next hm =>
    rw [if_neg hm] at h
    split
    · next hn => rw [if_pos hn] at h; exact opRead_ok _ _ _ _ _ _ h
    · rfl
theorem tokensOf_pairwise (s : State) (c w d x : Nat) : (tokensOf s c w d x).Pairwise (· < ·) := by
  unfold tokensOf
  dsimp only
  split
  · exact List.pairwise_lt_range.filter _
  · split
    · exact List.pairwise_lt_range.filter _
    · exact List.pairwise_lt_range

theorem OnlyDecodes.tokens {c : Nat} {s t : State} (h : OnlyDecodes c s t) (w d x : Nat) :
    tokensOf t c w d x = tokensOf s c w d x ∧ tokensOk t c w d x = tokensOk s c w d x := by
  simp only [tokensOf, tokensOk, cursorAt, cursorOk, descAt, h.spadRead, h.readable, and_self]
theorem OnlyDecodes.spadPoisoned {c : Nat} {s t : State} (h : OnlyDecodes c s t) (a n : Nat) :
    spadPoisoned t c a n = spadPoisoned s c a n := by simp only [Machine.spadPoisoned, h.memories.1]
theorem OnlyDecodes.mmaWrite {c : Nat} {s t : State} (h : OnlyDecodes c s t) (tr : Bool) (w d : Nat) (x : StreamTensor)
    (silent : List (Nat × W32)) (k n : Nat) : mmaWrite tr t c w d x silent k n = mmaWrite tr s c w d x silent k n :=
  mmaWrite_congr (fun a n _ _ => h.spadRead a n) (h.spadRead ..) w x silent n

/-- The state in which the MEs have a whole tensor: it has left the FIFO. -/
def tensorTaken (s : State) (c : Nat) : State := updCore s c (fun v => { v with me := none, fifo := v.fifo.drop 1 })

section
variable {tr : Bool} {s : State} {c : Nat} {i : Issued} {d : Nat} {x : StreamTensor} {ecc : EccObs} (silent : List (Nat × W32))
  (hr : matrixReady tr s c i d x)
include hr

/-- A command that stands ready takes its tensor and computes its outputs, in a state with the same memories. -/
theorem mmaBody_takes (he : ecc.ue = []) : ∃ u, OnlyCounts c s u ∧ mmaBody tr c ecc silent s i i.word.toNat
    = mmaOutputs tr c silent i.index.toNat i.word.toNat d i.xcur.toNat x (tensorTaken u c) := by
  obtain ⟨hg, hd, hdesc, hx, hw, hme, herr, hp, hb, -⟩ := hr
  obtain ⟨l, hl⟩ := List.head?_eq_some_iff.1 hx
  have hq := ((coreRequests_frame s c 0).1.counts c).trans (onlyCounts_spadEcc (coreRequests s c 0) c 0 Config.spadSize he)
  have hme' : (coreOf (spadEcc (coreRequests s c 0) c 0 Config.spadSize ecc) c).me = none := by
    rw [spadEcc_me _ _ _ _ he, coreOf, (coreRequests_frame s c 0).1.cores_eq]; exact hme
  refine ⟨_, hq, ?_⟩
  generalize hu : spadEcc (coreRequests s c 0) c 0 Config.spadSize ecc = u at hq hme' ⊢
  have hd' : descOk u c (wA i.word.toNat) 32 95 = true := by
    simp only [descOk, hq.readable, hq.spadRead] at hd ⊢
    exact hd
  have hda : descAt u c (wA i.word.toNat) 32 = d := by rw [hdesc, descAt, descAt, hq.spadRead]
  have herr' : mdError u c tr (bitOf (wMod i.word.toNat) 1) d = none := by
    simp only [mdError, hq.level] at herr ⊢
    exact herr
  simp only [mmaBody, hl, hw, coreGranted_coreRequests hg 0, hu, hme', opDesc_ok _ _ _ _ _ _ hd', hda, herr', hp]
  simp [mmaTake, hme', hb, hw, tensorTaken]

/-- The outputs of the tokens are formed, and beside them only counts, reports and samples differ. -/
theorem mmaOutputs_done {u : State} (hu : OnlyDecodes c s u) : ∃ t, mmaOutputs tr c silent i.index.toNat i.word.toNat d i.xcur.toNat x u
      = .done t
    ∧ OnlyCounts c (mmaTokens tr c i.word.toNat d x silent (tokensOf s c i.word.toNat d i.xcur.toNat) u MmaSum.none).1 t := by
  obtain ⟨-, -, -, -, -, -, -, -, -, hts, hact, hout, hpoison, -⟩ := hr
  obtain ⟨htokens, hok⟩ := hu.tokens i.word.toNat d i.xcur.toNat
  rw [← hok] at hts
  have hclean : (tokensOf s c i.word.toNat d i.xcur.toNat).any (fun t => spadPoisoned u c (actAddr tr d t) (actSpan tr d)
      || (bitOf (wMod i.word.toNat) 0 && spadPoisoned u c (outAddr d t) (4 * (outCount tr d + outCount tr d % 2)))) = false := by
    rw [List.any_eq_false]
    intro k hk
    obtain ⟨h1, h2⟩ := hpoison k hk
    rw [hu.spadPoisoned, hu.spadPoisoned, h1]
    simpa using h2
  have hrange : (decide (Config.spadSize < actAddr tr d (mdTokens d - 1) + actSpan tr d)
      || decide (Config.spadSize < outAddr d (mdTokens d - 1) + 4 * (outCount tr d + outCount tr d % 2))) = false := by
    simp [hact, hout]
  refine ⟨_, by simp only [mmaOutputs, tokenSet_ok hts, htokens, hrange, hclean, Bool.false_eq_true, if_false]; rfl, ?_⟩
  exact (onlyCounts_countNonFinite ..).trans (onlyCounts_sampleTile ..)

/-- The state that a matrix command completes in: the tensor is gone, and the outputs of its tokens are all that is written. -/
theorem mmaBody_done (he : ecc.ue = []) : ∃ t, mmaBody tr c ecc silent s i i.word.toNat = .done t
    ∧ (coreOf t c).fifo = (coreOf s c).fifo.drop 1
    ∧ (coreOf t c).spad = memWrites (coreOf s c).spad ((tokensOf s c i.word.toNat d i.xcur.toNat).zipIdx.map
        (fun e => mmaWrite tr s c i.word.toNat d x silent e.1 e.2))
    ∧ (∀ k, k ≠ c → coreOf t k = coreOf s k) ∧ ∀ k, (clOf t k).vault = (clOf s k).vault := by
  obtain ⟨u, hu, hbody⟩ := mmaBody_takes silent hr he
  have htaken : OnlyDecodes c s (tensorTaken u c) :=
    hu.toOnlyDecodes.trans (onlyDecodes_updCore u c (fun _ => rfl) (fun _ => rfl))
  obtain ⟨t, ht, hcount⟩ := mmaOutputs_done silent hr htaken
  obtain ⟨-, -, -, -, -, -, -, -, -, -, -, -, -, hapart⟩ := hr
  obtain ⟨hcore, heq⟩ := mmaTokens_effect tr c i.word.toNat d x silent (tokensOf s c i.word.toNat d i.xcur.toNat)
    (tensorTaken u c) MmaSum.none 0 rfl ((tokensOf_pairwise ..).imp Nat.ne_of_lt) hapart
  refine ⟨t, hbody.trans ht, ?_, ?_, fun k hk => ?_, fun k => ?_⟩
  · rw [hcount.fifo, heq, ← hu.fifo]; simp [tensorTaken]
  · rw [hcount.memories.1, heq, htaken.memories.1]
    simp only [htaken.mmaWrite]
  · rw [hcount.others k hk, hcore.2 k hk, htaken.others k hk]
  · rw [hcount.memories.2, ← htaken.memories.2, clOf, hcore.1]; rfl
end

/-- The outputs of the tokens stand in the order of the tokens. -/
theorem mmaWrites_pairwise {tr : Bool} {d : Nat} {ts : List Nat} (hts : ts.Pairwise (· < ·)) (h0 : outCount tr d ≠ 0)
    (ha : ∀ k ∈ ts, ∀ u ∈ ts, k ≠ u → apart (outAddr d k) (outSpan tr d) (outAddr d u) (outSpan tr d) = true)
    (s : State) (c w : Nat) (x : StreamTensor) (silent : List (Nat × W32)) :
    (ts.zipIdx.map (fun e => mmaWrite tr s c w d x silent e.1 e.2)).Pairwise (fun p q => p.1 + p.2.length ≤ q.1) := by
  have hfst : (ts.zipIdx.map Prod.fst).Pairwise (· < ·) := by rwa [List.zipIdx_map_fst]
  rw [List.pairwise_map] at hfst ⊢
  refine hfst.imp_of_mem (fun {e f} he hf hlt => ?_)
  have h := ha e.1 (List.fst_mem_of_mem_zipIdx he) f.1 (List.fst_mem_of_mem_zipIdx hf) (Nat.ne_of_lt hlt)
  have hle : outAddr d e.1 ≤ outAddr d f.1 := by
    unfold outAddr
    have := Nat.mul_le_mul_right (mdPitch d) hlt.le
    omega
  have hs : outSpan tr d ≠ 0 := by simp only [outSpan]; omega
  simp only [apart, Bool.or_eq_true, decide_eq_true_eq, beq_iff_eq] at h
  rw [mmaWrite_length]
  simp only [mmaWrite]
  omega

/-- A matrix command that stands ready completes with every output in its place and nothing else of a memory changed. -/
theorem matrix_completes {tr : Bool} {s : State} {c : Nat} {i : Issued} {d : Nat} {x : StreamTensor} {ecc : EccObs}
    (silent : List (Nat × W32)) (he : ecc.ue = []) (hr : matrixReady tr s c i d x) :
    let w := i.word.toNat; let ts := tokensOf s c w d i.xcur.toNat
    ∃ t, mmaBody tr c ecc silent s i w = .done t ∧ (coreOf t c).fifo = (coreOf s c).fifo.drop 1
      ∧ (∀ n k, ts[n]? = some k → ∀ r, r < outCount tr d →
          let y := faulted silent (outCount tr d) n r (mmaValue tr s c w d x k r).1
          f32At t c (outAddr d k + 4 * r) = if bitOf (wMod w) 0 then add32 (f32At s c (outAddr d k + 4 * r)) y else y)
      ∧ (∀ a, (∀ k ∈ ts, a < outAddr d k ∨ outAddr d k + outSpan tr d ≤ a) →
          memByte (coreOf t c).spad a = memByte (coreOf s c).spad a)
      ∧ (∀ k, k ≠ c → coreOf t k = coreOf s k) ∧ ∀ k, (clOf t k).vault = (clOf s k).vault := by
  obtain ⟨t, hbody, hfifo, hspad, hother, hvault⟩ := mmaBody_done silent hr he
  obtain ⟨-, -, -, -, -, -, -, -, -, -, -, -, -, hapart⟩ := hr
  refine ⟨t, hbody, hfifo, fun n k hk r hrow => ?_, fun a ha => ?_, hother, hvault⟩
  · have hread := memRead_memWrites (coreOf s c).spad (mmaWrites_pairwise (tokensOf_pairwise ..) (by omega)
      (fun k hk u hu => (hapart k hk u hu).2) s c i.word.toNat x silent) _
      (List.mem_map_of_mem (List.mk_mem_zipIdx_iff_getElem?.2 hk))
    rw [← hspad, mmaWrite_length] at hread
    exact f32At_of_read hread (by simp only [outSpan]; omega) (mmaResult_getElem? tr s c i.word.toNat d x silent k n hrow)
  · rw [hspad]
    refine memByte_memWrites_apart _ _ (fun p hp => ?_)
    obtain ⟨e, hm, rfl⟩ := List.mem_map.1 hp
    rw [mmaWrite_length]
    exact ha e.1 (List.fst_mem_of_mem_zipIdx hm)

/-- Settles O14: a matrix command that stands ready writes the outputs of its tokens, one after another and each in its place. -/
theorem matrixProducts : Obligations.MatrixProducts := by
  intro c s i d x ecc silent he w ref acc ts
  refine ⟨fun h hr => ?_, fun h hr => ?_⟩
  · obtain ⟨t, hbody, hfifo, hout, hrest, hother, hvault⟩ := matrix_completes silent he hr
    exact ⟨t, congrArg Host.Outcome.next (runEngine_done h hbody), hfifo, hout, hrest, hother, hvault⟩
  · obtain ⟨t, hbody, hfifo, hout, hrest, hother, hvault⟩ := matrix_completes silent he hr
    have hspan : outSpan true d = 128 * mdNblk d := by simp only [outSpan, outCount, if_true]; omega
    rw [hspan] at hrest
    exact ⟨t, congrArg Host.Outcome.next (runEngine_done h hbody), hfifo, hout, hrest, hother, hvault⟩

end Sys2Proof.Machine
end

section
/-! PROOF. DUP_COMPARE (R100 to R102): the partner asks for grants, and the first comparison ends the tile or opens a case. -/

namespace Sys2Proof.Machine

/-! Counters of a core. -/

theorem creg_lt (s : State) (c off : Nat) : creg s c off < 2 ^ 64 := BitVec.isLt _
/-- A field write stays in the register's 64 bits. -/
theorem setBits_lt {x hi lo : Nat} (hx : x < 2 ^ 64) (h : lo ≤ hi) (hh : hi < 64) (v : Nat) : setBits x hi lo v < 2 ^ 64 := by
  have hw : 2 ^ 64 = 2 ^ (64 - (hi + 1)) * 2 ^ (hi + 1) := by rw [← Nat.pow_add]; congr 1; omega
  rw [hw] at hx ⊢
  rw [← Nat.div_lt_iff_lt_mul (Nat.two_pow_pos _)] at hx ⊢
  rwa [setBits_above x v h]
/-- A counter that counts reads as its field's new value. -/
theorem creg_bumpC_self (s : State) (c off : Nat) {hi lo n : Nat} (h : lo ≤ hi) (hh : hi < 64) (hn : n ≠ 0) :
    creg (bumpC s c off hi lo n) c off = bumpField (creg s c off) hi lo n := by
  rw [bumpC, if_neg hn, creg_setCreg_self, bumpField, Nat.mod_eq_of_lt (setBits_lt (creg_lt ..) h hh _)]

/-- A core that requests grants differs in nothing of its own, nor does any other. -/
theorem coreOf_coreRequests (s : State) (c : Nat) (cls : GrantClass) (d : Nat) : coreOf (coreRequests s c cls) d = coreOf s d := by
  simp [coreOf, (coreRequests_frame s c cls).1.cores_eq]
theorem coreRequests_memories (s : State) (c : Nat) (cls : GrantClass) : memoriesKept s (coreRequests s c cls) :=
  ((coreRequests_frame s c cls).1.counts c).memories
theorem coreRequests_parts (s : State) (c : Nat) (cls : GrantClass) : (coreRequests s c cls).parts = s.parts := by
  rw [(coreRequests_frame s c cls).1.1]
theorem coreRequests_events (s : State) (c : Nat) (cls : GrantClass) : (coreRequests s c cls).events = s.events := by
  rw [(coreRequests_frame s c cls).1.1]

/-! The comparison. -/

section
variable {p : PartId} {owner partner : CoreId} {x : DupTile} {s : State} {j : Job} {r : Nat} (hj : jobOf s p = some j)
  (hnew : ∀ d ∈ j.dups, d.owner ≠ owner) (hr : regionOfCore s p owner j = some r) (hrun : j.running = true) (hfr : j.frozen = false)
  (hre : j.restarting = false) (hb : (regionRun s p r).busy = true) (hx : (coreOf s owner).dupTile = some x)
  (hp : (owner.val, partner.val) ∈ partnersOf s p j) (hg : coreGranted s partner 0 = true)
include hj hnew hr hrun hfr hre hb hx hp hg

/-- With no case open for the owner's tile, the comparison is the first one. -/
theorem exec_dupCompare_first (silent silent1 : List (Nat × W32)) : exec (.dupCompare p owner partner x.index silent silent1) s
    = .next (dupFirst (coreRequests s partner 0) p r owner partner x (faultOutputs silent 0 x.right)) := by
  have e : exec (.dupCompare p owner partner x.index silent silent1) s = execDupCompare p owner partner x.index silent silent1 s := rfl
  have hcase : j.dups.find? (fun d => d.owner == owner) = none :=
    List.find?_eq_none.2 (fun d hd => by simpa using hnew d hd)
  rw [e, execDupCompare]
  simp [hj, hx, hr, hcase, hp, hrun, hfr, hre, hb, coreGranted_coreRequests hg 0]
end

/-- A mismatch is counted and reported at the partner, and touches nothing else (R100, R101). -/
theorem dupMismatch_effect (s : State) (p owner partner index : Nat) (step : W64) : let t := dupMismatch s p owner partner index step
    (∃ e, t.events = s.events ++ [e] ∧ e.code = 0x5030#16) ∧ creg t partner 0x340 = bumpField (creg s partner 0x340) 31 0 1
    ∧ t.parts = s.parts ∧ memoriesKept s t := by
  intro t
  have hcores : t.cores = (bumpC s partner 0x340 31 0 1).cores := doorbellAt_cores ..
  have hclusters : t.clusters = (bumpC s partner 0x340 31 0 1).clusters := doorbellAt_clusters ..
  have hunits := onlyUnits_bumpC s partner 0x340 31 0 1
  refine ⟨?_, ?_, ?_, memoriesKept_trans (memoriesKept_bumpC ..) (memoriesKept_of_eq hcores hclusters)⟩
  · have hevents : t.events = (emit (bumpC s partner 0x340 31 0 1) _ _).events := doorbellAt_events ..
    obtain ⟨e, he, hcode, -⟩ := emit_events (bumpC s partner 0x340 31 0 1) (clusterOf partner)
      { ev 0x5030 1 (coreUnit partner 0 0) (clusterOf partner)
          (leBytes 2 (coreSrc owner) ++ leBytes 2 (coreSrc partner) ++ leBytes 4 index ++ leBytes 8 step.toNat) with
        job := (jobOf (bumpC s partner 0x340 31 0 1) p).map (fun j => (j.number, BitVec.ofNat 32 j.nextStep.toNat)) }
    refine ⟨e, ?_, hcode⟩
    rw [hevents, he, hunits]
  · rw [← creg_bumpC_self s partner 0x340 (by decide) (by decide) (by decide)]
    simp only [creg, coreOf, hcores]
  · have hparts : t.parts = (bumpC s partner 0x340 31 0 1).parts := doorbellAt_parts ..
    rw [hparts, hunits.parts_eq]

/-- Settles O30: a clean comparison clears the owner's tile; a mismatch is counted, reported and opens its case before the step
fails. -/
theorem duplicatesCompare : Obligations.DuplicatesCompare := by
  intro p owner partner x silent silent1 s j r hj hnew hr hrun hfr hre hb hx hp hg b
  have hexec := exec_dupCompare_first hj hnew hr hrun hfr hre hb hx hp hg silent silent1
  have hcores := coreOf_coreRequests s partner 0
  have hparts := coreRequests_parts s partner 0
  have hevents := coreRequests_events s partner 0
  have hmem := coreRequests_memories s partner 0
  generalize coreRequests s partner 0 = u at hexec hcores hparts hevents hmem
  have hjob : jobOf u p = some j := (jobOf_of_parts hparts p).trans hj
  refine ⟨fun heq => ?_, fun hne => ?_⟩
  · rw [dupFirst, if_pos (by simpa [sameBits] using heq)] at hexec
    refine ⟨_, hexec, ?_, fun c hc => ?_, hjob, memoriesKept_trans hmem (memoriesKept_updCore _ _ (fun _ => rfl))⟩
    · rw [coreOf_updCore_self, hcores]
    · rw [coreOf_updCore_ne _ _ _ hc, hcores]
  · have hstep : (regionRun u p r).stepNum = (regionRun s p r).stepNum := by rw [regionRun_of_parts hparts]
    have hreg : creg u partner 0x340 = creg s partner 0x340 := by simp only [creg, hcores]
    obtain ⟨⟨e, he, hcode⟩, hcount, hparts', hkept⟩ := dupMismatch_effect u p owner partner x.index.toNat (regionRun s p r).stepNum
    rw [dupFirst, if_neg (by simpa [sameBits] using hne), hstep] at hexec
    refine ⟨_, hexec, ⟨e, he.trans (by rw [hevents]), hcode⟩, hcount.trans (by rw [hreg]), ?_,
      memoriesKept_trans hmem (memoriesKept_trans hkept (memoriesKept_of_eq rfl rfl))⟩
    rw [jobOf_updJob_self, jobOf_of_parts hparts', hjob]
    exact ⟨_, rfl, rfl⟩

end Sys2Proof.Machine
end

section
/-! PROOF. MARGIN_REMOVE and SHADOW_CHECK_DONE (R106 to R109): the margin of a rail with one core that holds a step, and the end of a
shadow recomputation by what it finds. -/

namespace Sys2Proof.Machine

/-! Fields of a register. -/

/-- A register's 64 bits hold every field below bit 64. -/
theorem bitsOf_mod (x : Nat) {hi lo : Nat} (h : hi < 64) : bitsOf (x % 2 ^ 64) hi lo = bitsOf x hi lo := by
  by_cases hl : lo ≤ hi
  · have hw : 2 ^ 64 = 2 ^ lo * 2 ^ (64 - lo) := by rw [← Nat.pow_add]; congr 1; omega
    rw [bitsOf, bitsOf, hw, Nat.mod_mul_right_div_self, Nat.mod_mod_of_dvd _ (Nat.pow_dvd_pow 2 (by omega))]
  · simp [bitsOf, show hi + 1 - lo = 0 by omega, Nat.mod_one]

/-! CHK_STATE (R116). -/

theorem creg_setChk (s : State) (c hi lo v : Nat) : creg (setChk s c hi lo v) c 0x360
    = setBits (creg s c 0x360) hi lo (min v (2 ^ (hi + 1 - lo) - 1)) % 2 ^ 64 := creg_setCreg_self ..
theorem onlyCore_setChk (s : State) (c hi lo v : Nat) : onlyCore s (setChk s c hi lo v) c := onlyCore_setCreg ..
theorem creg_setChk_off (s : State) (c hi lo v : Nat) {off : Nat} (h : off ≠ 0x360) : creg (setChk s c hi lo v) c off = creg s c off :=
  creg_setCreg_off _ _ _ _ h

/-- A core whose margin steps are gone: MARGIN reads 0, and a suspect core is normal again (R106). -/
def chkCleared (s : State) (c : Nat) : State :=
  let s := setChk s c 25 24 0
  if bitsOf (creg s c 0x360) 27 26 = 1 then setChk s c 27 26 0 else s
theorem chkCleared_effect (s : State) (c : Nat) : let t := chkCleared s c
    onlyCore s t c ∧ coreOf t c = { coreOf s c with regs := (coreOf t c).regs } ∧ bitsOf (creg t c 0x360) 25 24 = 0
    ∧ ∀ off, off ≠ 0x360 → creg t c off = creg s c off := by
  have hmargin : bitsOf (creg (setChk s c 25 24 0) c 0x360) 25 24 = 0 := by
    rw [creg_setChk, bitsOf_mod _ (by decide), bitsOf_setBits _ _ (by decide)]; rfl
  have hcore : ∀ (u : State) (hi lo : Nat), coreOf (setChk u c hi lo 0) c
      = { coreOf u c with regs := (coreOf (setChk u c hi lo 0) c).regs } := fun u hi lo => by
    rw [setChk, setCreg, coreOf_updCore_self]
  intro t
  simp only [t, chkCleared]
  split
  · refine ⟨onlyCore_trans (onlyCore_setChk ..) (onlyCore_setChk ..), ?_, ?_, fun off h => ?_⟩
    · rw [hcore, hcore s]
    · rw [creg_setChk, bitsOf_mod _ (by decide), bitsOf_setBits_below _ _ (by decide) (by decide), hmargin]
    · rw [creg_setChk_off _ _ _ _ _ h, creg_setChk_off _ _ _ _ _ h]
  · exact ⟨onlyCore_setChk .., hcore s 25 24, hmargin, fun off h => creg_setChk_off _ _ _ _ _ h⟩

/-! MARGIN_REMOVE. -/

theorem memoriesKept_setKreg (s : State) (k off v : Nat) : memoriesKept s (setKreg s k off v) := memoriesKept_updCl s k (fun _ => rfl)
/-- The margin of a rail changes registers of its cluster alone. -/
theorem setMarginField_effect (s : State) (k v : Nat) : let t := setMarginField s k v
    onlyCluster s t k ∧ (∀ j, (clOf t j).vault = (clOf s j).vault) ∧ bitsOf (kreg t k 0x50) 12 8 = v % 2 ^ 5 := by
  refine ⟨⟨rfl, fun j h => ?_⟩, fun j => ?_, ?_⟩
  · rw [setMarginField, setTarget, setKreg, clOf_updCl_ne _ _ _ h, setKreg, clOf_updCl_ne _ _ _ h]
  · exact (memoriesKept_trans (memoriesKept_setKreg ..) (memoriesKept_setKreg ..)).2 j
  · rw [setMarginField, setTarget, kreg_setKreg_off _ _ _ _ (by decide), kreg_setKreg_self, bitsOf_mod _ (by decide),
      bitsOf_setBits _ _ (by decide)]

/-- A core has given up its rail step, and the rail's margin goes with the last one (R106). -/
def railRemoved (s : State) (c : Nat) : State :=
  let s := setCore s c { coreOf s c with railSteps := 0 }
  if (coresOf (clusterOf c)).all (fun x => (coreOf s x).railSteps == 0) then setMarginField s (clusterOf c) 0 else s

section
variable {c : CoreId} {s : State}

/-- A core that holds a rail step alone gives it up once its rail is quiet. -/
theorem exec_marginRemove_rail (hr : (coreOf s c).railSteps ≠ 0) (hs : (coreOf s c).swallowSteps = 0)
    (hq : quiet s (coresOf (clusterOf c)) = true) : exec (.marginRemove c) s = .next (chkCleared (railRemoved s c) c) := by
  have e : exec (.marginRemove c) s = execMarginRemove c s := rfl
  rw [e, execMarginRemove]
  simp [hr, hs, hq, railRemoved, chkCleared]
theorem marginRemove_leaves (hr : (coreOf s c).railSteps = 0 ∨ quiet s (coresOf (clusterOf c)) = false)
    (hs : (coreOf s c).swallowSteps = 0 ∨ quiet s (siteCores (siteOf c)) = false) : leaves (.marginRemove c) s := by
  have e : exec (.marginRemove c) s = execMarginRemove c s := rfl
  have hrail : ((coreOf s c).railSteps != 0 && quiet s (coresOf (clusterOf c))) = false := by
    rcases hr with h | h <;> simp [h]
  have hswallow : ((coreOf s c).swallowSteps != 0 && quiet s (siteCores (siteOf c))) = false := by
    rcases hs with h | h <;> simp [h]
  rw [leaves, e, execMarginRemove]
  simp [hrail, hswallow]
end

theorem railRemoved_effect (s : State) (c : Nat) : let t := railRemoved s c; let k := clusterOf c
    coreOf t c = { coreOf s c with railSteps := 0 } ∧ (∀ d, d ≠ c → coreOf t d = coreOf s d)
    ∧ (∀ j, (clOf t j).vault = (clOf s j).vault)
    ∧ ((∃ d ∈ coresOf k, d ≠ c ∧ (coreOf s d).railSteps ≠ 0) → t.clusters = s.clusters)
    ∧ ((∀ d ∈ coresOf k, d ≠ c → (coreOf s d).railSteps = 0) → bitsOf (kreg t k 0x50) 12 8 = 0) := by
  have hother : ∀ d, (coreOf (setCore s c { coreOf s c with railSteps := 0 }) d).railSteps
      = if d = c then 0 else (coreOf s d).railSteps := fun d => by rw [coreOf_setCore]; split <;> rfl
  obtain ⟨⟨hframe, -⟩, hvault, hfield⟩ := setMarginField_effect (setCore s c { coreOf s c with railSteps := 0 }) (clusterOf c) 0
  have hcores : ∀ d, coreOf (setMarginField (setCore s c { coreOf s c with railSteps := 0 }) (clusterOf c) 0) d
      = coreOf (setCore s c { coreOf s c with railSteps := 0 }) d := fun _ => rfl
  intro t k
  simp only [t, k, railRemoved, List.all_eq_true, beq_iff_eq, hother]
  split
  · next hall =>
    refine ⟨by rw [hcores, coreOf_setCore_self], fun d hd => by rw [hcores, coreOf_setCore_ne _ _ _ hd], hvault,
      fun ⟨d, hd, hne, hheld⟩ => absurd (hall d hd) (by simp [hne, hheld]), fun _ => hfield⟩
  · next hall =>
    refine ⟨coreOf_setCore_self .., fun d hd => coreOf_setCore_ne _ _ _ hd, fun _ => rfl, fun _ => rfl,
      fun hnone => absurd (fun d hd => ?_) hall⟩
    split
    · rfl
    · next hne => exact hnone d hd hne

/-! SHADOW_CHECK_DONE. -/

/-- The tile of a recomputation that ends is gone, and counted. -/
def shadowEnded (s : State) (c : Nat) : State := bumpC (updCore s c (fun v => { v with shdTile := none })) c 0x348 63 32 1
theorem onlyCore_shadowEnded (s : State) (c : Nat) : onlyCore s (shadowEnded s c) c :=
  onlyCore_trans (onlyCore_updCore ..) (onlyCore_bumpC ..)
@[simp] theorem bumpC_shdTile (s : State) (c off hi lo n d : Nat) : (coreOf (bumpC s c off hi lo n) d).shdTile = (coreOf s d).shdTile := by
  unfold bumpC; split
  · rfl
  · rw [setCreg, coreOf_updCore]; split
    · next h => rw [h]
    · rfl
theorem memoriesKept_shadowEnded (s : State) (c : Nat) : memoriesKept s (shadowEnded s c) :=
  memoriesKept_trans (memoriesKept_updCore s c (f := fun v => { v with shdTile := none }) (fun _ => rfl)) (memoriesKept_bumpC ..)
/-- The floor of the deviation is an object (R108). -/
theorem deviation_of_objs {s t : State} (h : t.objs = s.objs) (narrow ref : List F32) : deviation t narrow ref = deviation s narrow ref := by
  unfold deviation obj; rw [h]
theorem coreRequests_objs (s : State) (c : Nat) (cls : GrantClass) : (coreRequests s c cls).objs = s.objs := by
  rw [(coreRequests_frame s c cls).1.1]

section
variable {c : CoreId} {region : Nat} {s : State} {p : PartId} {x : ShdTile} (hp : corePart s c = some p.val)
  (hx : (coreOf s c).shdTile = some x) (hb : (regionRun s p region).busy = true) (hc : c.val ∈ regionCores s p region)
include hp hx hb hc

theorem exec_shadowCheckDone_abandoned : exec (.shadowCheckDone c region none) s = .next (skipShadows s [c]) := by
  have e : exec (.shadowCheckDone c region none) s = execShadowCheckDone c region none s := rfl
  rw [e, execShadowCheckDone]
  simp [hp, hx, hb, hc]

theorem exec_shadowCheckDone_deviates {src pitch : BitVec 18} {d : F32} (hg : coreGranted s c 2 = true)
    (hd : deviation s x.narrow (shadowOutputs s c x src.toNat pitch.toNat) = some d) :
    exec (.shadowCheckDone c region (some (src, pitch))) s
      = .next (qualityCheck (shadowEnded (coreRequests s c 2) c) p c region (toRat32 d)) := by
  have e : exec (.shadowCheckDone c region (some (src, pitch))) s = execShadowCheckDone c region (some (src, pitch)) s := rfl
  have hout : shadowOutputs (coreRequests s c 2) c x src.toNat pitch.toNat = shadowOutputs s c x src.toNat pitch.toNat := by
    simp only [shadowOutputs, spadRead, coreOf_coreRequests]
  have hobjs := coreRequests_objs s c 2
  have hg' := coreGranted_coreRequests hg 2
  rw [e, execShadowCheckDone]
  generalize coreRequests s c 2 = u at hout hobjs hg' ⊢
  have hended : (shadowEnded u c).objs = s.objs := by rw [(onlyCore_shadowEnded u c).1]; exact hobjs
  have hdev := deviation_of_objs hended
  rw [← hout, ← hdev] at hd
  have hdue : ¬ ((!(regionRun s p region).busy || !(regionCores s p region).contains c.val) = true) := by simp [hb, hc]
  have hgranted : ¬ ((!coreGranted u c 2) = true) := by simp [hg']
  rw [hp, hx]
  dsimp only
  rw [shadowEnded] at hd ⊢
  rw [if_neg hdue, if_neg hgranted, hd]
end

/-- A deviation beyond the threshold is counted and reported at its core (R109). -/
def deviationReported (s : State) (c sev : Nat) : State :=
  doorbellAt (raise (bumpC s c 0x348 31 0 1) 0x5033 sev (coreUnit c 0 0) (clusterOf c) []) (clusterOf c) (0x20 + coreIn c) 0x5033
theorem deviationReported_effect (s : State) (c sev : Nat) : let t := deviationReported s c sev
    (coreOf t c).shdTile = (coreOf s c).shdTile ∧ memoriesKept s t ∧ ∃ e, t.events = s.events ++ [e] ∧ e.code = 0x5033#16 := by
  intro t
  refine ⟨?_, memoriesKept_trans (memoriesKept_bumpC ..) (memoriesKept_of_eq (doorbellAt_cores ..) (doorbellAt_clusters ..)), ?_⟩
  · simp [t, deviationReported]
  · obtain ⟨e, he, hcode, -⟩ := emit_events (bumpC s c 0x348 31 0 1) (clusterOf c) (ev 0x5033 sev (coreUnit c 0 0) (clusterOf c) [])
    refine ⟨e, (doorbellAt_events ..).trans ?_, hcode⟩
    rw [raise, he, onlyUnits_bumpC s c 0x348 31 0 1]

/-- A deviation within the threshold moves the region's mean; one beyond it is counted and reported. Either way no memory differs and
the core has no tile. -/
theorem qualityCheck_effect {s : State} {p c r : Nat} {j : Job} (hj : jobOf s p = some j) (delta : Rat) :
    let t := qualityCheck s p c r delta; let y := regionRun s p r
    (coreOf t c).shdTile = (coreOf s c).shdTile ∧ memoriesKept s t
    ∧ (delta ≤ qualT s y.qualM →
        (regionRun t p r).qualM = y.qualM + (delta - y.qualM) / 64 ∧ (regionRun t p r).qualN = y.qualN + 1)
    ∧ (qualT s y.qualM < delta → ∃ e es, t.events = s.events ++ e :: es ∧ e.code = 0x5033#16) := by
  intro t y
  by_cases h : delta ≤ qualT s y.qualM
  · have ht : t = updRegion s p r (fun x => { x with qualM := x.qualM + (delta - x.qualM) / 64, qualN := x.qualN + 1 }) := by
      simp only [t, qualityCheck]; exact if_pos h
    refine ⟨by rw [ht]; rfl, by rw [ht]; exact memoriesKept_updRegion .., fun _ => ?_, fun g => absurd h (not_le.2 g)⟩
    rw [ht, regionRun_updRegion_self hj]
    exact ⟨rfl, rfl⟩
  · have ht : t = let u := deviationReported s c (if y.qualN < 256 then 0 else 1); let ts := recent u 1 y.qualTimes ++ [u.units]
        if ts.length < 16 then updRegion u p r (fun x => { x with qualTimes := ts })
        else raise (updRegion u p r (fun x => { x with qualTimes := [] })) 0x5034 1 (coreUnit c 0 0) (clusterOf c) [] := by
      simp only [t, qualityCheck]; exact if_neg h
    obtain ⟨htile, hmem, e, he, hcode⟩ := deviationReported_effect s c (if y.qualN < 256 then 0 else 1)
    generalize deviationReported s c (if y.qualN < 256 then 0 else 1) = u at ht htile hmem he
    rw [ht]
    dsimp only
    split
    · exact ⟨htile, memoriesKept_trans hmem (memoriesKept_updRegion ..), fun g => absurd g h, fun _ => ⟨e, [], he, hcode⟩⟩
    · refine ⟨htile, memoriesKept_trans hmem (memoriesKept_of_eq rfl rfl), fun g => absurd g h, fun _ => ?_⟩
      obtain ⟨f, hf, -⟩ := emit_events (updRegion u p r (fun x => { x with qualTimes := [] })) (clusterOf c)
        (ev 0x5034 1 (coreUnit c 0 0) (clusterOf c) [])
      refine ⟨e, [f], hf.trans ?_, hcode⟩
      show u.events ++ [f] = _
      rw [he, List.append_assoc]; rfl

/-- Settles O31: a rail step goes with the quiet of its rail, its margin with the last holder; a recomputation ends abandoned, or by its
deviation. -/
theorem marginsAndShadowChecks : Obligations.MarginsAndShadowChecks := by
  refine ⟨?_, ?_, ?_⟩
  · intro c s v k hr hs hq
    obtain ⟨hcore, hother, hvault, hheld, hlast⟩ := railRemoved_effect s c
    obtain ⟨⟨hframe, hothers⟩, hregs, hmargin, hoff⟩ := chkCleared_effect (railRemoved s c) c
    have hcl : (chkCleared (railRemoved s c) c).clusters = (railRemoved s c).clusters := by rw [hframe]
    refine ⟨_, exec_marginRemove_rail hr hs hq, by rw [hregs, hcore], hmargin, fun off h => ?_,
      fun d hd => (hothers d hd).trans (hother d hd), fun h => hcl.trans (hheld h), fun h => ?_, fun d => ?_, fun j => ?_⟩
    · rw [hoff off h, creg, creg, hcore]
    · rw [← hlast h, kreg, kreg, clOf, clOf, hcl]
    · by_cases hd : d = c
      · rw [hd, hregs, hcore]
      · rw [hothers d hd, hother d hd]
    · rw [clOf, hcl]; exact hvault j
  · intro c s v hr hs
    exact marginRemove_leaves hr hs
  · intro c region s p x hp hx hb hc y
    refine ⟨?_, ?_⟩
    · refine ⟨_, exec_shadowCheckDone_abandoned hp hx hb hc, ?_⟩
      have hskip : skipShadows s [c.val] = bumpC (updCore s c (fun v => { v with shdTile := none })) c 0x350 63 32 1 := by
        simp [skipShadows, hx]
      rw [hskip]
      refine ⟨onlyCore_trans (onlyCore_updCore ..) (onlyCore_bumpC ..), by simp, ?_⟩
      rw [creg_bumpC_self _ _ _ (by decide) (by decide) (by decide)]
      simp [creg]
    · intro src pitch d hg hd
      refine ⟨_, exec_shadowCheckDone_deviates hp hx hb hc hg hd, ?_⟩
      have hparts := coreRequests_parts s c 2
      have hobjs := coreRequests_objs s c 2
      have hevents := coreRequests_events s c 2
      have hmem := coreRequests_memories s c 2
      generalize coreRequests s c 2 = u at hparts hobjs hevents hmem
      have hended := (onlyCore_shadowEnded u c).1
      have hkept := memoriesKept_shadowEnded u c
      have htile : (coreOf (shadowEnded u c) c).shdTile = none := by simp [shadowEnded]
      generalize shadowEnded u c = v at hended hkept htile
      obtain ⟨j, hj⟩ : ∃ j, jobOf s p = some j := by
        cases hj : jobOf s p with
        | none => simp [regionCores, hj] at hc
        | some j => exact ⟨j, rfl⟩
      have hvparts : v.parts = s.parts := by rw [hended]; exact hparts
      have hvobjs : v.objs = s.objs := by rw [hended]; exact hobjs
      have hvevents : v.events = s.events := by rw [hended]; exact hevents
      obtain ⟨h1, h2, h3, h4⟩ := qualityCheck_effect (c := c) (r := region) ((jobOf_of_parts hvparts p).trans hj) (toRat32 d)
      have hrun : regionRun v p region = y := regionRun_of_parts hvparts p region
      have hq : qualT v y.qualM = qualT s y.qualM := by simp only [qualT, obj, hvobjs]
      rw [hrun, hq] at h3 h4
      rw [hvevents] at h4
      exact ⟨h1.trans htile, memoriesKept_trans hmem (memoriesKept_trans hkept h2), h3, h4⟩

end Sys2Proof.Machine
end

section
/-! PROOF. The patrol of a vault (R150, R352): a pass is background traffic of the vault's port, so it takes a free value (log entry 7),
and the statement that nothing but the cluster differs fails. -/

namespace Sys2Proof.Machine

@[simp] theorem bumpK_free (s : State) (k off hi lo n : Nat) : (bumpK s k off hi lo n).free = s.free := by
  unfold bumpK; split <;> rfl

/-- A pass over some bytes of a vault takes one free value, for how long its bursts waited. -/
theorem vaultPass_free (s : State) (k a : Nat) {n : Nat} (h : burstsOf a n ≠ 0) : (vaultPass s k a n).free = s.free + 1 := by
  simp [vaultPass, vaultWork, h, peakFreeK]

/-- So does a patrol that finds nothing but what the code corrects. -/
theorem patrol_free {cl : ClusterId} {ecc : EccObs} {s t : State} (hp : (siteSt s (cl / 16)).powered = true)
    (hr : (clOf s cl).selfRetain = false) (hc : (clOf s cl).clocksOff = false) (hue : ecc.ue = []) (h2 : ecc.ce2 = 0)
    (he : exec (.patrol cl ecc) s = .next t) : t.free = s.free + 1 := by
  have hb : burstsOf 0 Config.vaultCap ≠ 0 := by decide
  have e : exec (.patrol cl ecc) s = execPatrol cl ecc s := rfl
  rw [e, execPatrol] at he
  simp only [hp, hr, hc, hue, h2, Bool.not_true, Bool.or_self, Bool.false_eq_true, if_false, if_true, List.filter_nil,
    List.isEmpty_nil, Host.Outcome.next.injEq] at he
  rw [← he, vaultPass_free _ _ _ hb]
  simp

/-- The state after reset with site 0 powered: cluster 0 can be patrolled. -/
def patrolled : State := { State.reset with sites := [(0, { SiteState.reset with powered := true })] }

/-- Refutes O45: a patrol that finds nothing changes more than its cluster, since the wait of its bursts at the vault's port takes a
free value, and the count of free values taken moves (log entry 7). -/
theorem not_fencesAndRecords : ¬ Obligations.FencesAndRecords := by
  intro h
  obtain ⟨-, -, -, hpatrol, -⟩ := h
  have hpowered : (siteSt patrolled (((0 : ClusterId) : Nat) / 16)).powered = true := rfl
  have hretain : (clOf patrolled (0 : ClusterId)).selfRetain = false := rfl
  have hclocks : (clOf patrolled (0 : ClusterId)).clocksOff = false := rfl
  obtain ⟨-, hruns⟩ := hpatrol 0 { ce1 := 0, ce2 := 0, ue := [] } patrolled
  obtain ⟨t, hexec, ⟨hframe, -⟩, -⟩ := (hruns hpowered hretain hclocks).1 rfl rfl
  have hmoves : t.free = patrolled.free + 1 := patrol_free hpowered hretain hclocks rfl rfl hexec
  have hstays : t.free = patrolled.free := by rw [hframe]
  omega

end Sys2Proof.Machine
end

section
/-! PROOF. The transfer commands of a core (R118, R129, R135, R157, R183, R202, R205): packets join the local input buffer in address
order for as long as it takes them, and the command goes on from where it stands. -/

namespace Sys2Proof.Machine

/-! Heads. -/

/-- The operation of a head whose fields below it fit their places (R157). -/
theorem hOp_mkHead {op src nbody ctsem mask tree : Nat} (ho : op < 64) (hs : src < 2 ^ 15) (hn : nbody < 2 ^ 5) (hc : ctsem < 2 ^ 5)
    (hm : mask < 2 ^ 15) (ht : tree < 2 ^ 14) (addr tid : Nat) (ctv : Bool) :
    hOp (mkHead addr op src nbody ctv ctsem tid mask tree).toNat = op := by
  have hlow : src * 2 ^ 433 + nbody * 2 ^ 428 + (if ctv then 2 ^ 427 else 0) + ctsem * 2 ^ 422 + tid % 65536 * 2 ^ 406 + mask * 2 ^ 390
      + tree * 2 ^ 384 < 2 ^ 450 := by split <;> omega
  have hw : addr * 2 ^ 456 + op * 2 ^ 450 + src * 2 ^ 433 + nbody * 2 ^ 428 + (if ctv then 2 ^ 427 else 0) + ctsem * 2 ^ 422
      + tid % 65536 * 2 ^ 406 + mask * 2 ^ 390 + tree * 2 ^ 384 = (src * 2 ^ 433 + nbody * 2 ^ 428 + (if ctv then 2 ^ 427 else 0)
      + ctsem * 2 ^ 422 + tid % 65536 * 2 ^ 406 + mask * 2 ^ 390 + tree * 2 ^ 384) + 2 ^ 450 * (addr * 64 + op) := by omega
  rw [mkHead, hOp, bitsOf, BitVec.toNat_ofNat, hw, show 512 = 450 + 62 from rfl, pow_add 2 450 62, Nat.mod_mul_right_div_self,
    Nat.add_mul_div_left _ _ (Nat.two_pow_pos _), Nat.div_eq_of_lt hlow, Nat.mod_mod_of_dvd _ (Nat.pow_dvd_pow 2 (by decide))]
  omega

theorem siteOf_lt (c : CoreId) : siteOf c < 64 := by have := c.isLt; unfold siteOf coreY coreX; omega
theorem coreSrc_lt (c : CoreId) : coreSrc c < 2 ^ 15 := by
  have h1 := siteOf_lt c; have h2 := clusterIn_lt c; have h3 := coreIn_lt c
  unfold coreSrc; omega
theorem lastMask_lt (n : Nat) : lastMask n < 2 ^ 15 := by
  unfold lastMask
  dsimp only
  split
  · decide
  · calc 2 ^ (ceilDiv n 8 % 8) - 1 < 2 ^ (ceilDiv n 8 % 8) := Nat.sub_lt (Nat.two_pow_pos _) Nat.one_pos
      _ ≤ 2 ^ 15 := Nat.pow_le_pow_right (by decide) (by omega)
theorem hOp_dataPacket {op n ctsem tree : Nat} (ho : op < 64) (hn : n ≤ 1024) (hc : ctsem < 2 ^ 5) (ht : tree < 2 ^ 14) (s : State)
    (c : CoreId) (addr a tid : Nat) (ctv : Bool) : hOp (pHead (dataPacket s c op addr a n ctv ctsem tid tree)) = op :=
  hOp_mkHead ho (coreSrc_lt c) (by unfold ceilDiv; omega) hc (lastMask_lt n) ht addr tid ctv
/-- A packet's bytes are those of the scratchpad, which the mesh does not hold. -/
theorem dataPacket_of_mesh {s t : State} (h : onlyMesh s t) (c op addr a n : Nat) (ctv : Bool) (ctsem tid tree : Nat) :
    dataPacket t c op addr a n ctv ctsem tid tree = dataPacket s c op addr a n ctv ctsem tid tree := by
  have e : spadRead t c a n = spadRead s c a n := by rw [spadRead, (onlyMesh_memories h).1]; rfl
  rw [dataPacket, e]; rfl

theorem onlyMesh.cores_eq {s t : State} (h : onlyMesh s t) : t.cores = s.cores := by rw [h]
theorem onlyMesh.coreOf_eq {s t : State} (h : onlyMesh s t) (c : Nat) : coreOf t c = coreOf s c := by simp [coreOf, h.cores_eq]

/-! Packets at the local port. -/

/-- A packet that joins a buffer leaves it open until its last flit is in (R156). -/
theorem openHop_after {s t : State} {c vc n : Nat} {pkt : Packet} (hm : t.mesh = s.mesh ++ [Hop.mk c 0 vc pkt n 0 false])
    (h : openHop t c 0 (bufOf vc (hOp (pHead pkt))) = none) : flitsOf pkt ≤ n := by
  rw [openHop, hm, List.find?_eq_none] at h
  have := h _ (List.mem_append_right _ (List.mem_singleton_self _))
  simp only [inBuf, hopBuf, behind, beq_self_eq_true, Bool.and_self, Bool.true_and, bne_iff_ne, ne_eq, not_not, Nat.sub_zero] at this
  omega

section
variable {c op : Nat} {x : Transfer} {span : Nat → Nat} {pkt : State → Nat → Nat → Packet} {s₀ : State}

theorem injectFrom_ge : ∀ (fuel : Nat) (s : State) (a : Nat), a ≤ (injectFrom c x span pkt fuel s a).2
  | 0, _, _ => Nat.le_refl _
  | fuel + 1, s, a => by
    unfold injectFrom
    split
    · exact Nat.le_refl _
    · split
      · exact Nat.le_refl _
      · exact Nat.le_trans (Nat.le_add_right ..) (injectFrom_ge fuel _ _)

/-- Where the buffer takes a packet, the first one joins it. -/
theorem injectFrom_begins {s : State} {a : Nat} (ho : hOp (pHead (pkt s a (span a))) = op) (ha : a < x.size)
    (hr : 0 < roomIn s c 0 (bufOf x.vc op)) (hf : openHop s c 0 (bufOf x.vc op) = none) (fuel : Nat) :
    ∃ t, injectFrom c x span pkt (fuel + 1) s a = injectFrom c x span pkt fuel t (a + span a) := by
  have hin : inject s c x.vc (pkt s a (span a))
      = some (putFlits s c 0 x.vc (pkt s a (span a)) (min (flitsOf (pkt s a (span a))) (roomIn s c 0 (bufOf x.vc op))) true) := by
    simp [inject, ho, hf, Nat.ne_of_gt hr]
  exact ⟨_, by rw [injectFrom, if_neg (Nat.not_le.2 ha), hin]⟩

variable (hop : ∀ t a, hOp (pHead (pkt t a (span a))) = op)
  (hsame : ∀ t, onlyMesh s₀ t → ∀ a, pkt t a (span a) = pkt s₀ a (span a))
include hop hsame

/-- Packets join the mesh in address order, each but the last with all its flits; a first one joins only where no other is on its way
in. -/
theorem injectFrom_sends : ∀ (fuel : Nat) (s : State) (a : Nat), onlyMesh s₀ s →
    ∃ hs, let r := injectFrom c x span pkt fuel s a
      onlyMesh s₀ r.1 ∧ r.1.mesh = s.mesh ++ hs ∧ sendsFrom c x.vc span (fun a => pkt s₀ a (span a)) a hs r.2
      ∧ (hs ≠ [] → openHop s c 0 (bufOf x.vc op) = none)
  | 0, s, a, h => ⟨[], h, by simp [injectFrom], rfl, fun e => absurd rfl e⟩
  | fuel + 1, s, a, h => by
    unfold injectFrom
    split
    · exact ⟨[], h, by simp, rfl, fun e => absurd rfl e⟩
    · split
      · exact ⟨[], h, by simp, rfl, fun e => absurd rfl e⟩
      · next t hin =>
        obtain ⟨hroom, hfree, hmesh, honly⟩ := inject_some hin
        rw [hop] at hroom hfree hmesh
        obtain ⟨hs, h1, h2, h3, h4⟩ := injectFrom_sends fuel t (a + span a) (onlyMesh_trans h honly)
        have hflits : 0 < flitsOf (pkt s a (span a)) := by unfold flitsOf; omega
        refine ⟨Hop.mk c 0 x.vc (pkt s a (span a)) (min (flitsOf (pkt s a (span a))) (roomIn s c 0 (bufOf x.vc op))) 0 false :: hs, h1,
          ?_, ⟨rfl, rfl, rfl, hsame s h a, rfl, rfl, ?_, ?_, fun hne => ?_, h3⟩, fun _ => hfree⟩
        · rw [h2, hmesh, List.append_assoc]; rfl
        · exact Nat.lt_min.2 ⟨hflits, hroom⟩
        · exact Nat.min_le_left ..
        · have hwhole := openHop_after hmesh (by rw [hop]; exact h4 hne)
          exact Nat.le_antisymm (Nat.min_le_left ..) hwhole
end

/-! A transfer. -/

/-- What a transfer leaves: its transaction stands at the position that it has reached, and nothing but that and the mesh differs. -/
structure Sent (c opc : Nat) (s t : State) (pos : Nat) : Prop where
  txn      : ∃ y ∈ (coreOf t c).te, y.tid.toNat = sendTid s c opc ∧ y.opc.toNat = opc ∧ y.sent = pos
  teq      : (coreOf t c).teq = (coreOf s c).teq
  memories : memoriesKept s t
  others   : ∀ d, d ≠ c → coreOf t d = coreOf s d

/-- The transaction that a transfer goes on with. -/
def ownTxn (s : State) (c : Nat) (i : Issued) (w : Nat) (x : Transfer) : TeTxn :=
  (underWay s c x.opc).getD {
    tid := (coreOf s c).nextTid, index := i.index, opc := BitVec.ofNat 8 x.opc, token := (ownToken w).map (Fin.ofNat 32), sent := 0
    remaining := x.total, dst := x.dst, src := x.src, size := x.size }
/-- The core once its transfer has reached a position. -/
def txnMoved (s : State) (c : Nat) (i : Issued) (w : Nat) (x : Transfer) (pos : Nat) (v : CoreState) : CoreState :=
  if (underWay s c x.opc).isSome then
    { v with te := v.te.map (fun u => if u = ownTxn s c i w x then { ownTxn s c i w x with sent := pos } else u) }
  else { v with te := v.te ++ [{ ownTxn s c i w x with sent := pos }], nextTid := v.nextTid + 1 }

section
variable (s : State) (c : Nat) (i : Issued) (w : Nat) (x : Transfer)

theorem ownTxn_fields (ho : x.opc < 256) : (ownTxn s c i w x).sent = sendPos s c x.opc
    ∧ (ownTxn s c i w x).tid.toNat = sendTid s c x.opc ∧ (ownTxn s c i w x).opc.toNat = x.opc := by
  unfold ownTxn sendPos sendTid
  cases h : underWay s c x.opc with
  | none => exact ⟨rfl, rfl, by simp; omega⟩
  | some t =>
    have hp := List.find?_some h
    simp only [Bool.and_eq_true, beq_iff_eq] at hp
    exact ⟨rfl, rfl, hp.2⟩

theorem txnMoved_effect (pos : Nat) : let v := txnMoved s c i w x pos (coreOf s c)
    { ownTxn s c i w x with sent := pos } ∈ v.te ∧ v = { coreOf s c with te := v.te, nextTid := v.nextTid } := by
  unfold txnMoved
  split
  · next h =>
    obtain ⟨t, ht⟩ := Option.isSome_iff_exists.1 h
    have hown : ownTxn s c i w x = t := by rw [ownTxn, ht]; rfl
    have hmem : t ∈ (coreOf s c).te := List.mem_of_find?_eq_some ht
    exact ⟨List.mem_map.2 ⟨t, hmem, by rw [hown, if_pos rfl]⟩, rfl⟩
  · exact ⟨List.mem_append_right _ (List.mem_singleton_self _), rfl⟩
end

/-- A transfer by its transaction: it holds with no packet to send and a READ behind another READ; it leaves the engine once all is sent. -/
theorem runTransfer_eq (s : State) (c : Nat) (i : Issued) (w : Nat) (x : Transfer) (span : Nat → Nat)
    (pkt : Nat → State → Nat → Nat → Packet) : runTransfer s c i w x span pkt =
      let r := injectFrom c x span (pkt (ownTxn s c i w x).tid.toNat) x.size s (ownTxn s c i w x).sent
      let t := updCore r.1 c (txnMoved s c i w x r.2)
      if x.size = 0 then .done s
      else if r.2 = (ownTxn s c i w x).sent
          || (x.opc == 0x71 && (underWay s c x.opc).isNone && (coreOf s c).te.any (fun t => t.opc == 0x71#8)) then .hold
      else if x.size ≤ r.2 && x.opc ≠ 0x71 then .left t else .wait t := rfl

section
variable {s : State} {c op : Nat} {i : Issued} {w : Nat} {x : Transfer} {span : Nat → Nat} {pkt : Nat → State → Nat → Nat → Packet}
  (hready : transferReady s c x.vc op x.opc x.size = true) (ho : x.opc < 256) (hspan : ∀ a, a < x.size → 0 < span a)
  (hop : ∀ tid t a, hOp (pHead (pkt tid t a (span a))) = op)
  (hsame : ∀ tid t, onlyMesh s t → ∀ a, pkt tid t a (span a) = pkt tid s a (span a))
include hready ho hspan hop hsame

/-- A transfer that is ready goes on: it leaves the engine with its last packet, a READ waits for its data (R118, R202). -/
theorem runTransfer_sends : ∃ t hs pos,
    runTransfer s c i w x span pkt = (if x.size ≤ pos ∧ x.opc ≠ 0x71 then .left t else .wait t)
    ∧ hs ≠ [] ∧ t.mesh = s.mesh ++ hs
    ∧ sendsFrom c x.vc span (fun a => pkt (sendTid s c x.opc) s a (span a)) (sendPos s c x.opc) hs pos ∧ Sent c x.opc s t pos := by
  simp only [transferReady, Bool.and_eq_true, decide_eq_true_eq, Option.isNone_iff_eq_none] at hready
  obtain ⟨⟨⟨hroom, hfree⟩, hpos⟩, hread⟩ := hready
  obtain ⟨hsent, htid, hopc⟩ := ownTxn_fields s c i w x ho
  obtain ⟨f, hf⟩ := Nat.exists_eq_succ_of_ne_zero (show x.size ≠ 0 by omega)
  obtain ⟨hs, honly, hmesh, hsends, -⟩ := injectFrom_sends (c := c) (x := x) (hop (sendTid s c x.opc)) (hsame (sendTid s c x.opc))
    x.size s (sendPos s c x.opc) (onlyMesh_refl s)
  obtain ⟨u, hu⟩ := injectFrom_begins (c := c) (x := x) (hop (sendTid s c x.opc) s (sendPos s c x.opc)) hpos hroom hfree f
  have hmoves : (injectFrom c x span (pkt (sendTid s c x.opc)) x.size s (sendPos s c x.opc)).2 ≠ sendPos s c x.opc := by
    have h1 := injectFrom_ge (c := c) (x := x) (span := span) (pkt := pkt (sendTid s c x.opc)) f u (sendPos s c x.opc + span (sendPos s c x.opc))
    have h2 := hspan _ hpos
    rw [hf, Nat.succ_eq_add_one, hu]
    omega
  have hne : hs ≠ [] := by
    rintro rfl
    exact hmoves hsends.symm
  have hrun := runTransfer_eq s c i w x span pkt
  have hheld : (x.opc == 0x71 && (underWay s c x.opc).isNone && (coreOf s c).te.any (fun t => t.opc == 0x71#8)) = false := by
    rw [bne] at hread
    rw [← Option.not_isSome]
    generalize (x.opc == 0x71) = isRead, (underWay s c x.opc).isSome = begun, List.any _ _ = another at hread ⊢
    revert hread
    revert isRead begun another
    decide
  rw [htid, hsent] at hrun
  generalize injectFrom c x span (pkt (sendTid s c x.opc)) x.size s (sendPos s c x.opc) = r at *
  have hgoes : runTransfer s c i w x span pkt = if x.size ≤ r.2 ∧ x.opc ≠ 0x71
      then .left (updCore r.1 c (txnMoved s c i w x r.2)) else .wait (updCore r.1 c (txnMoved s c i w x r.2)) := by
    rw [hrun]
    simp [show x.size ≠ 0 by omega, hmoves, hheld]
  have hcore := honly.coreOf_eq c
  obtain ⟨hmem, hframe⟩ := txnMoved_effect s c i w x r.2
  refine ⟨_, hs, r.2, hgoes, hne, hmesh, hsends, ⟨{ ownTxn s c i w x with sent := r.2 }, ?_, htid, hopc, rfl⟩, ?_, ?_, fun d hd => ?_⟩
  · rw [coreOf_updCore_self, hcore]; exact hmem
  · rw [coreOf_updCore_self, hcore, hframe]
  · refine memoriesKept_trans (onlyMesh_memories honly) ⟨fun d => ?_, fun _ => rfl⟩
    by_cases hd : d = c
    · rw [hd, coreOf_updCore_self, hcore, hframe]
    · rw [coreOf_updCore_ne _ _ _ hd]
  · rw [coreOf_updCore_ne _ _ _ hd, honly.coreOf_eq]
end

/-! The command that a transfer serves. -/

/-- Stopping a sequencer changes no memory and no queue. -/
theorem drainEnd_frame (s : State) (c : Nat) : (drainEnd s c).mesh = s.mesh ∧ memoriesKept s (drainEnd s c)
    ∧ (∀ d, d ≠ c → coreOf (drainEnd s c) d = coreOf s d) ∧ (coreOf (drainEnd s c) c).te = (coreOf s c).te
    ∧ (coreOf (drainEnd s c) c).teq = (coreOf s c).teq := by
  unfold drainEnd
  simp only
  split
  · refine ⟨by simp, ⟨fun d => ?_, fun k => ?_⟩, fun d hd => ?_, by simp, by simp⟩
    · rw [coreOf_doorbellAt, coreOf_setCore]
      split
      · next h => rw [h]
      · rfl
    · simp [clOf]
    · rw [coreOf_doorbellAt, coreOf_setCore_ne _ _ _ hd]
  · exact ⟨rfl, memoriesKept_refl s, fun _ _ => rfl, rfl, rfl⟩

/-- A command that leaves the head of its TEQ leaves the rest of the queue and what its transfer has become. -/
theorem popTeq_frame (s : State) (c : Nat) : let t := drainEnd (popEngine s c 4) c
    t.mesh = s.mesh ∧ memoriesKept s t ∧ (∀ d, d ≠ c → coreOf t d = coreOf s d) ∧ (coreOf t c).te = (coreOf s c).te
    ∧ (coreOf t c).teq = (coreOf s c).teq.drop 1 := by
  obtain ⟨hpop, hothers, hcore, -⟩ := popEngine_frame s c 4
  obtain ⟨dmesh, dmem, dothers, dte, dteq⟩ := drainEnd_frame (popEngine s c 4) c
  refine ⟨dmesh.trans (by rw [hpop]), memoriesKept_trans ⟨fun d => ?_, fun k => ?_⟩ dmem,
    fun d hd => (dothers d hd).trans (hothers d hd), dte.trans ?_, dteq.trans ?_⟩
  · by_cases hd : d = c
    · rw [hd, hcore]; exact setQueue_spad ..
    · rw [hothers d hd]
  · rw [hpop]; rfl
  · rw [hcore]; exact setQueue_te ..
  · rw [hcore]; rfl

/-- A command whose body is a transfer that is ready transfers. -/
theorem transfers_of_body {instr : Instr} {s : State} {c op : Nat} {i : Issued} {x : Transfer} {span : Nat → Nat}
    {pkt : Nat → State → Nat → Nat → Packet} {body : State → Issued → Nat → EngRes}
    (hexec : exec instr s = .next (runEngine s c 4 x.opc body)) (hat : engAt s c 4 x.opc i = true)
    (hbody : body s i i.word.toNat = runTransfer s c i i.word.toNat x span pkt)
    (hready : transferReady s c x.vc op x.opc x.size = true) (ho : x.opc < 256) (hspan : ∀ a, a < x.size → 0 < span a)
    (hop : ∀ tid t a, hOp (pHead (pkt tid t a (span a))) = op)
    (hsame : ∀ tid t, onlyMesh s t → ∀ a, pkt tid t a (span a) = pkt tid s a (span a)) :
    transfers instr s c x.vc x.opc x.size span (fun tid a => pkt tid s a (span a)) := by
  obtain ⟨t, hs, pos, hrun, hne, hmesh, hsends, hsent⟩ := runTransfer_sends (i := i) (w := i.word.toNat) hready ho hspan hop hsame
  obtain ⟨htxn, hteq, hmem, hothers⟩ := hsent
  rw [hrun] at hbody
  by_cases hall : x.size ≤ pos ∧ x.opc ≠ 0x71
  · rw [if_pos hall] at hbody
    obtain ⟨pmesh, pmem, pothers, pte, pteq⟩ := popTeq_frame t c
    refine ⟨_, hs, pos, hexec.trans (congrArg _ (runEngine_left hat hbody)), hne, pmesh.trans hmesh, hsends, ?_, ?_,
      memoriesKept_trans hmem pmem, fun d hd => (pothers d hd).trans (hothers d hd)⟩
    · rwa [pte]
    · rw [pteq, hteq, if_pos hall]
  · rw [if_neg hall] at hbody
    exact ⟨t, hs, pos, hexec.trans (congrArg _ (runEngine_wait hat hbody)), hne, hmesh, hsends, htxn, by rw [hteq, if_neg hall], hmem,
      hothers⟩

/-- A command that cannot start yet leaves the state as it is. -/
theorem runEngine_hold {s : State} {c q opc : Nat} {body : State → Issued → Nat → EngRes} {i : Issued}
    (h : engAt s c q opc i = true) (hb : body s i i.word.toNat = .hold) : runEngine s c q opc body = s := by
  obtain ⟨h1, ⟨l, h2⟩, h3, h4⟩ := (engAt_iff ..).1 h
  simp [runEngine, h1, h2, h3, h4, hb]

/-! What the commands' bodies come to. -/

theorem wCtsem_lt (w : Nat) : wCtsem w < 2 ^ 5 := bitsOf_lt ..
theorem treeField_lt (w : Nat) : wMod w / 4 < 2 ^ 14 := by
  have h : wMod w < 2 ^ 16 := bitsOf_lt ..
  omega
theorem kiloSpan_pos {n a : Nat} (h : a < n) : 0 < kiloSpan n a := Nat.lt_min.2 ⟨by decide, Nat.sub_pos_of_lt h⟩
theorem burstSpan_pos (off : Nat) {n a : Nat} (h : a < n) : 0 < burstSpan off n a :=
  Nat.lt_min.2 ⟨Nat.sub_pos_of_lt (Nat.mod_lt _ (by decide)), Nat.sub_pos_of_lt h⟩
theorem kiloSpan_le (n a : Nat) : kiloSpan n a ≤ 1024 := Nat.min_le_left ..
theorem burstSpan_le (off n a : Nat) : burstSpan off n a ≤ 256 := Nat.le_trans (Nat.min_le_left ..) (Nat.sub_le ..)

/-- Bytes of a SEND's packet at a position (R135, log entry 122). -/
def sendSpan (a n : Nat) : Nat → Nat := if aSpace a = 1 then burstSpan (aOff a) n else kiloSpan n
theorem sendSpan_apply (a n at_ : Nat) : sendSpan a n at_ = if aSpace a = 1 then burstSpan (aOff a) n at_ else kiloSpan n at_ := by
  unfold sendSpan; split <;> rfl
theorem sendSpan_pos (a : Nat) {n at_ : Nat} (h : at_ < n) : 0 < sendSpan a n at_ := by
  unfold sendSpan; split
  · exact burstSpan_pos _ h
  · exact kiloSpan_pos h
theorem sendSpan_le (a n at_ : Nat) : sendSpan a n at_ ≤ 1024 := by
  unfold sendSpan; split
  · exact Nat.le_trans (burstSpan_le ..) (by decide)
  · exact kiloSpan_le ..

theorem treeVcBad_of {w : Nat} (h : wMod w % 4 = 1 ∨ wMod w % 4 = 2) : treeVcBad w = false := by
  rcases h with h | h <;> simp [treeVcBad, h]
theorem spadOver_of_inSpad {g n : Nat} (h : inSpad g n = true) : spadOver g n = false := by
  simp only [inSpad, decide_eq_true_eq] at h
  simp [spadOver, h]

section
variable {s : State} {c : CoreId} {i : Issued}

theorem send_transfers (hat : engAt s c 4 0x70 i = true) : let w := i.word.toNat; let n := 8 * gN w; let vc := wMod w % 4
    let a := gAddr w; sourceError a 1 vc (coreLevel s c == 2) = none → clusterVault c a = false → readable s c (wA w) n = true →
    transferReady s c vc 1 0x70 n = true →
    transfers (.send c) s c vc 0x70 n (sendSpan a n) (fun tid at_ => dataPacket s c 1 (a + at_) (8 * wA w + at_) (sendSpan a n at_)
        (ctdToken w n (at_ + sendSpan a n at_)) (wCtsem w) tid 0) := by
  intro w n vc a hsrc hvault hread hready
  have hbody : sendBody c s i w = runTransfer s c i w { op := opWrite, vc, opc := 0x70, size := n, total := n, dst := 0, src := 0 }
      (sendSpan a n) (fun tid s at_ k =>
        dataPacket s c opWrite (a + at_) (8 * wA w + at_) k (ctdToken w n (at_ + k)) (wCtsem w) tid 0) := by
    rw [sendBody, show sourceError (gAddr w) opWrite (wMod w % 4) (coreLevel s c == 2) = none from hsrc]
    simp only
    rw [opRead_ok _ _ _ _ _ _ hread, if_neg (by rw [hvault]; decide)]
    rfl
  exact transfers_of_body rfl hat hbody hready (show 0x70 < 256 by decide) (fun _ => sendSpan_pos a)
    (fun tid t at_ => hOp_dataPacket (by decide) (sendSpan_le ..) (wCtsem_lt w) (by decide) ..)
    (fun tid t h at_ => dataPacket_of_mesh h ..)

theorem mcast_transfers (hat : engAt s c 4 0x72 i = true) : let w := i.word.toNat; let n := 8 * gN w; let vc := wMod w % 4
    (vc = 1 ∨ vc = 2) → readable s c (wA w) n = true → transferReady s c vc 4 0x72 n = true →
    transfers (.mcast c) s c vc 0x72 n (kiloSpan n) (fun tid at_ => dataPacket s c 4 (gAddr w + at_) (8 * wA w + at_) (kiloSpan n at_)
        (ctdToken w n (at_ + kiloSpan n at_)) (wCtsem w) tid (wMod w / 4)) := by
  intro w n vc hvc hread hready
  have hbody : mcastBody c s i w = runTransfer s c i w
      { op := opMcast, vc, opc := 0x72, size := n, total := ceilDiv n 1024, dst := 0, src := wMod w / 4 } (kiloSpan n)
      (fun tid s at_ k =>
        dataPacket s c opMcast (gAddr w + at_) (8 * wA w + at_) k (ctdToken w n (at_ + k)) (wCtsem w) tid (wMod w / 4)) := by
    rw [mcastBody, if_neg (by rw [treeVcBad_of hvc]; decide)]
    exact opRead_ok _ _ _ _ _ _ hread
  exact transfers_of_body rfl hat hbody hready (show 0x72 < 256 by decide) (fun _ => kiloSpan_pos)
    (fun tid t at_ => hOp_dataPacket (by decide) (kiloSpan_le ..) (wCtsem_lt w) (treeField_lt w) ..)
    (fun tid t h at_ => dataPacket_of_mesh h ..)

theorem reduce_transfers (hat : engAt s c 4 0x73 i = true) : let w := i.word.toNat; let n := 8 * gN w; let vc := wMod w % 4
    (vc = 1 ∨ vc = 2) → (coreOf s c).dupTile = none → sourceError (gAddr w) 5 vc (coreLevel s c == 2) = none → gN w % 8 = 0 →
    readable s c (wA w) n = true → transferReady s c vc 5 0x73 n = true →
    transfers (.reduce c) s c vc 0x73 n (kiloSpan n) (fun tid at_ => dataPacket s c 5 (gAddr w + at_) (8 * wA w + at_) (kiloSpan n at_)
        (ctdToken w n (at_ + kiloSpan n at_)) (wCtsem w) tid (wMod w / 4)) := by
  intro w n vc hvc hdup hsrc hflits hread hready
  have hbody : reduceBody c s i w = runTransfer s c i w
      { op := opReduce, vc, opc := 0x73, size := n, total := n, dst := 0, src := wMod w / 4 } (kiloSpan n)
      (fun tid s at_ k =>
        dataPacket s c opReduce (gAddr w + at_) (8 * wA w + at_) k (ctdToken w n (at_ + k)) (wCtsem w) tid (wMod w / 4)) := by
    rw [reduceBody, if_neg (by rw [treeVcBad_of hvc]; decide), if_neg (by rw [hdup]; decide),
      show sourceError (gAddr w) opReduce (wMod w % 4) (coreLevel s c == 2) = none from hsrc]
    simp only
    rw [if_neg (not_not.2 hflits)]
    exact opRead_ok _ _ _ _ _ _ hread
  exact transfers_of_body rfl hat hbody hready (show 0x73 < 256 by decide) (fun _ => kiloSpan_pos)
    (fun tid t at_ => hOp_dataPacket (by decide) (kiloSpan_le ..) (wCtsem_lt w) (treeField_lt w) ..)
    (fun tid t h at_ => dataPacket_of_mesh h ..)

theorem reduce_holds (hat : engAt s c 4 0x73 i = true) (hvc : wMod i.word.toNat % 4 = 1 ∨ wMod i.word.toNat % 4 = 2)
    (hdup : (coreOf s c).dupTile.isSome = true) : leaves (.reduce c) s := by
  have hbody : reduceBody c s i i.word.toNat = .hold := by
    rw [reduceBody, if_neg (by rw [treeVcBad_of hvc]; decide), if_pos hdup]
  have hexec : exec (.reduce c) s = .next (runEngine s c 4 0x73 (reduceBody c)) := rfl
  rw [leaves, hexec, runEngine_hold hat hbody]

theorem inl_transfers (hat : engAt s c 4 0x75 i = true) : let w := i.word.toNat; let n := 8 * gN w; coreLevel s c = 2 → gN w ≤ 8 →
    sourceError (gAddr w) 6 3 true = none → readable s c (wA w) n = true → transferReady s c 3 6 0x75 1 = true →
    transfers (.inl c) s c 3 0x75 1 (fun _ => 1)
      (fun tid _ => dataPacket s c 6 (gAddr w) (8 * wA w) n (wCtv w && wCtd w) (wCtsem w) tid 0) := by
  intro w n hlevel hsize hsrc hread hready
  have hbody : inlBody c s i w = runTransfer s c i w
      { op := opInline, vc := 3, opc := 0x75, size := 1, total := n, dst := 0, src := 0 } (fun _ => 1)
      (fun tid s _ _ => dataPacket s c opInline (gAddr w) (8 * wA w) n (wCtv w && wCtd w) (wCtsem w) tid 0) := by
    rw [inlBody, if_neg (not_not.2 hlevel), if_neg (Nat.not_lt.2 hsize), show sourceError (gAddr w) opInline 3 true = none from hsrc]
    exact opRead_ok _ _ _ _ _ _ hread
  exact transfers_of_body rfl hat hbody hready (show 0x75 < 256 by decide) (fun _ _ => Nat.one_pos)
    (fun tid t at_ => hOp_dataPacket (by decide) (by omega) (wCtsem_lt w) (by decide) ..)
    (fun tid t h at_ => dataPacket_of_mesh h ..)

theorem commit_transfers (hat : engAt s c 4 0x84 i = true) : let w := i.word.toNat; gN w = 4 →
    sourceError (gAddr w) 1 0 (coreLevel s c == 2) = none → readable s c (wA w) 32 = true → transferReady s c 0 1 0x84 32 = true →
    transfers (.commit c) s c 0 0x84 32 (fun _ => 32) (fun tid _ => dataPacket s c 1 (gAddr w) (8 * wA w) 32 false 0 tid 0) := by
  intro w hsize hsrc hread hready
  have hbody : commitBody c s i w = runTransfer s c i w
      { op := opWrite, vc := 0, opc := 0x84, size := 32, total := 32, dst := 0, src := 0 } (fun _ => 32)
      (fun tid s _ _ => dataPacket s c opWrite (gAddr w) (8 * wA w) 32 false 0 tid 0) := by
    rw [commitBody, if_neg (not_not.2 hsize), show sourceError (gAddr w) opWrite 0 (coreLevel s c == 2) = none from hsrc]
    exact opRead_ok _ _ _ _ _ _ hread
  exact transfers_of_body rfl hat hbody hready (show 0x84 < 256 by decide) (fun _ _ => by decide)
    (fun tid t at_ => hOp_dataPacket (by decide) (by decide) (by decide) (by decide) ..)
    (fun tid t h at_ => dataPacket_of_mesh h ..)

/-- A READ of memory that its TE reaches over the mesh sends requests, which carry no body (R118, R135). -/
theorem read_transfers (hat : engAt s c 4 0x71 i = true) : let w := i.word.toNat; let n := 8 * gN w; let a := gAddr w
    let span := burstSpan (aOff a) n
    sourceError a 2 0 (coreLevel s c == 2) = none → clusterVault c a = false → inSpad (wA w) n = true →
    transferReady s c 0 2 0x71 n = true → transfers (.read c) s c 0 0x71 n span (fun tid at_ =>
      Packet.mk (mkHead (a + at_) 2 (coreSrc c) 0 false 0 tid (span at_ / 8 - 1) 0) [] []) := by
  intro w n a span hsrc hvault hin hready
  have hbody : readBody c s i w = runTransfer s c i w
      { op := opReadReq, vc := 0, opc := 0x71, size := n, total := n, dst := 8 * wA w, src := aOff a } span (fun tid _ at_ k =>
        { head := mkHead (a + at_) opReadReq (coreSrc c) 0 false 0 tid (k / 8 - 1) 0, body := [], poison := [] }) := by
    rw [readBody, show sourceError (gAddr w) opReadReq 0 (coreLevel s c == 2) = none from hsrc]
    simp only
    rw [if_neg (by rw [spadOver_of_inSpad hin]; decide), if_neg (by rw [hvault]; decide)]
  have hmask : ∀ at_, span at_ / 8 - 1 < 2 ^ 15 := fun at_ => by
    have : span at_ ≤ 256 := burstSpan_le (aOff a) n at_
    omega
  exact transfers_of_body rfl hat hbody hready (show 0x71 < 256 by decide) (fun _ => burstSpan_pos _)
    (fun tid t at_ => hOp_mkHead (by decide) (coreSrc_lt c) (by decide) (by decide) (hmask at_) (by decide) ..) (fun _ _ _ _ => rfl)

/-- A READ of its own cluster's vault takes the bytes at once (R132). -/
theorem read_ownVault (hat : engAt s c 4 0x71 i = true) : let w := i.word.toNat; let n := 8 * gN w; let a := gAddr w
    sourceError a 2 0 (coreLevel s c == 2) = none → clusterVault c a = true → destError a n false = none → inSpad (wA w) n = true →
    memPoisoned (clOf s (clusterOf c)).vault (aOff a) n = false →
    completes (.read c) s c 4 0x71 i (fun t => wroteSpad s t c (8 * wA w) n
      ∧ spadRead t c (8 * wA w) n = vaultRead s (clusterOf c) (aOff a) n) := by
  intro w n a hsrc hvault hdest hin hpois
  have hbody : readBody c s i w = .done (spadWrite s c (8 * wA w) (vaultRead s (clusterOf c) (aOff a) n)) := by
    rw [readBody, show sourceError (gAddr w) opReadReq 0 (coreLevel s c == 2) = none from hsrc]
    simp only
    rw [if_neg (by rw [spadOver_of_inSpad hin]; decide), if_pos hvault, localVault, hdest]
    simp only
    rw [if_neg (by rw [hpois]; decide)]
  have hlen : (vaultRead s (clusterOf c) (aOff a) n).length = n := memRead_length ..
  have hwrote := wroteSpad_spadWrite s c (8 * wA w) (vaultRead s (clusterOf c) (aOff a) n)
  have hreads := spadRead_spadWrite s c (8 * wA w) (vaultRead s (clusterOf c) (aOff a) n)
  rw [hlen] at hwrote hreads
  exact ⟨_, congrArg Host.Outcome.next (runEngine_done hat hbody), hwrote, hreads⟩

theorem signalR_sends (hat : engAt s c 4 0x74 i = true) (hte : (coreOf s c).te = []) : let w := i.word.toNat; bitsOf w 63 57 < 80 →
    completes (.signalR c) s c 4 0x74 i (fun t => t = { s with ctrl := s.ctrl ++ [{ words := [
      msgHeader 1 (bitsOf w 63 57) (bitsOf w 56 53) (bitsOf w 52 49) false 2 false false (bitsOf w 95 91),
      coreSource c i.index.toNat, BitVec.ofNat 32 (bitsOf w 79 64)] }] }) := by
  intro w hdie
  have hbody : signalRBody c s i w = .done (sendCtrl s { words := [
      msgHeader 1 (bitsOf w 63 57) (bitsOf w 56 53) (bitsOf w 52 49) false 2 false false (bitsOf w 95 91),
      coreSource c i.index.toNat, BitVec.ofNat 32 (bitsOf w 79 64)] }) := by
    rw [signalRBody, if_neg (by rw [hte]; decide), if_neg (Nat.not_le.2 hdie)]
  exact ⟨_, congrArg Host.Outcome.next (runEngine_done hat hbody), rfl⟩

theorem signalR_holds (hat : engAt s c 4 0x74 i = true) (hte : (coreOf s c).te ≠ []) : leaves (.signalR c) s := by
  have hbody : signalRBody c s i i.word.toNat = .hold := by
    rw [signalRBody, if_pos (by simpa using hte)]
  have hexec : exec (.signalR c) s = .next (runEngine s c 4 0x74 (signalRBody c)) := rfl
  rw [leaves, hexec, runEngine_hold hat hbody]
end

/-- Settles O20: each command's body comes to a transfer that is ready, which puts its packets at the local port in address order; a
READ of the own vault and a SIGNAL.R are complete at once, and a SIGNAL.R or REDUCE that has to wait holds. -/
theorem transfersAndRemoteSignals : Obligations.TransfersAndRemoteSignals := by
  refine ⟨fun c s i => ?_, fun c s i => ?_⟩
  · intro w n vc a part span
    have hspan : span = sendSpan a n := funext (fun at_ => (sendSpan_apply a n at_).symm)
    rw [hspan]
    exact ⟨send_transfers, mcast_transfers, reduce_transfers, reduce_holds, inl_transfers, commit_transfers⟩
  · exact ⟨read_transfers, read_ownVault, signalR_sends, signalR_holds⟩

end Sys2Proof.Machine
end

section
/-! PROOF. The sequencer's issue (R117, R121, R201), its start, halt and resume (R141, R209, R373), grants given back (R216) and
gated engines (R455). -/

namespace Sys2Proof.Machine

/-! Rows and queues of a sequencer that goes on (R117, R121). -/

/-- A row that is held is of the number asked for. -/
@[simp] theorem heldRow_row (v : CoreState) (r : Nat) : (heldRow v r).row = r := by
  unfold heldRow
  cases h : v.rows.find? (fun x => x.row == r) with
  | none => rfl
  | some x => simpa using List.find?_some h

/-- A sequencer that goes on at a command holds its row and the next. -/
theorem advance_rows (v : CoreState) :
    (advance v).rows.map (fun x => x.row) = [cmdAddr (advance v) / 256, cmdAddr (advance v) / 256 + 1] := by
  simp [advance, goTo, fetchAhead, cmdAddr]

/-- What a sequencer fetches does not depend on the engine queues. -/
theorem advance_setQueue (v : CoreState) (q : Nat) (l : List Issued) : advance (setQueue v q l) = setQueue (advance v) q l := by
  unfold setQueue
  split
  · rfl
  · split
    · rfl
    · split
      · rfl
      · split <;> rfl

theorem opQueue_le {o q : Nat} (h : opQueue o = some q) : q ≤ 4 := by
  unfold opQueue at h
  split_ifs at h <;> simp_all <;> omega

/-! SEQUENCER_ISSUE (R117, R201). -/

/-- The next command as it stands in its engine's queue. -/
def issuedNow (s : State) (c : Nat) : Issued :=
  { word := BitVec.ofNat 128 (nextWord s c), index := (coreOf s c).cmdIndex, xcur := BitVec.ofNat 64 (creg s c 0x48) }

/-- An engine command joins its queue, unless that holds eight. -/
theorem exec_sequencerIssue {c : CoreId} {s : State} {q : Nat} (hlive : seqLive s c = true) (hfetch : fetchFault s c = none)
    (hq : opQueue (wOpc (nextWord s c)) = some q) (h1 : 1 ≤ q) : exec (.sequencerIssue c) s = .next (
      if 8 ≤ (queueOf (coreOf s c) q).length then s
      else setCore s c (advance (setQueue (coreOf s c) q (queueOf (coreOf s c) q ++ [issuedNow s c])))) := by
  obtain ⟨n, rfl⟩ : ∃ n, q = n + 1 := ⟨q - 1, by omega⟩
  have hexec : exec (.sequencerIssue c) s = execSequencerIssue c s := rfl
  rw [hexec, execSequencerIssue]
  simp only [hlive, hfetch, hq]
  rfl

/-- Settles O7: the command joins the end of its queue, and the sequencer goes on at the next one. -/
theorem issueFillsItsQueue : Obligations.IssueFillsItsQueue := by
  intro c s q hlive hfetch hq h1
  have hexec := exec_sequencerIssue hlive hfetch hq h1
  refine ⟨fun hfull => by rw [leaves, hexec, if_pos hfull], fun hroom => ⟨_, by rw [hexec, if_neg (Nat.not_le.2 hroom)], ?_⟩⟩
  have hself := queueOf_setQueue_self (advance (coreOf s c)) (queueOf (coreOf s c) q ++ [issuedNow s c]) h1 (opQueue_le hq)
  rw [advance_setQueue]
  beta_reduce
  rw [coreOf_setCore_self, hself]
  refine ⟨onlyCore_updCore s c (fun _ => _), rfl, rfl, ?_, ?_⟩
  · rw [setQueue_frame]; rfl
  · rw [← advance_setQueue]; exact advance_rows _

/-! Start, halt and resume (R141, R209, R373). -/

theorem creg_startSeq (s : State) (c : Nat) (base : Option (BitVec 17)) (index off : Nat) : creg (startSeq s c base index) c off = creg s c off := by
  simp [startSeq, creg, goTo, fetchAhead]

/-- A start after writes of registers: the core goes on at the index of the window at BASE, and has its registers. -/
theorem coreOf_startSeq {s t : State} {c : Nat} (h : coreOf t c = { coreOf s c with regs := (coreOf t c).regs })
    (base : Option (BitVec 17)) (index : Nat) : coreOf (startSeq t c base index) c = goTo { coreOf s c with
      regs := (coreOf (startSeq t c base index) c).regs, run := true, ending := false, halting := false
      base := base.getD (coreOf s c).base, window := base.getD (coreOf s c).base, rows := [] } (BitVec.ofNat 32 index) := by
  have hstart : coreOf (startSeq t c base index) c = goTo { coreOf t c with
      run := true, ending := false, halting := false, base := base.getD (coreOf t c).base, window := base.getD (coreOf t c).base
      rows := [] } (BitVec.ofNat 32 index) := coreOf_updCore_self ..
  rw [hstart, h]
  rfl

/-- SEQ_ERR is zero before a start, and no other register differs (R209). -/
theorem clearErr_effect (s : State) (c : Nat) : onlyCore s (clearErr s c) c ∧ creg (clearErr s c) c 0x30 = 0
    ∧ (∀ off, off ≠ 0x30 → creg (clearErr s c) c off = creg s c off)
    ∧ coreOf (clearErr s c) c = { coreOf s c with regs := (coreOf (clearErr s c) c).regs } := by
  unfold clearErr
  split
  · next h => exact ⟨onlyCore_refl s c, h, fun _ _ => rfl, rfl⟩
  · exact ⟨onlyCore_setCreg .., creg_setCreg_self .., fun off h => creg_setCreg_off _ _ _ _ h, by simp [setCreg]⟩

theorem onlyCore_startSeq (s : State) (c : Nat) (base : Option (BitVec 17)) (index : Nat) : onlyCore s (startSeq s c base index) c :=
  onlyCore_updCore ..

theorem seqRun_starts {c : CoreId} {s : State} {base : BitVec 17} (hon : coreOn s c = true) (hb : base.toNat * 16 < Config.spadSize) :
    answers (.seqRun c base) s (fun t => onlyCore s t c ∧ creg t c 0x30 = 0 ∧ (∀ off, off ≠ 0x30 → creg t c off = creg s c off)
      ∧ coreOf t c = goTo { coreOf s c with
          regs := (coreOf t c).regs, run := true, ending := false, halting := false, base := base, window := base, rows := [] } 0) := by
  obtain ⟨hframe, herr, hregs, hcore⟩ := clearErr_effect s c
  have hexec : exec (.seqRun c base) s = .next (startSeq (clearErr s c) c (some base) 0) := by
    have hdef : exec (.seqRun c base) s = execSeqRun c base s := rfl
    rw [hdef, execSeqRun, if_neg (by simp [hon, Nat.not_le.2 hb])]
  refine ⟨_, hexec, onlyCore_trans hframe (onlyCore_startSeq ..), (creg_startSeq ..).trans herr,
    fun off h => (creg_startSeq ..).trans (hregs off h), coreOf_startSeq hcore (some base) 0⟩

theorem seqResume_starts {c : CoreId} {s : State} {index : BitVec 17} (hon : coreOn s c = true) (hrun : (coreOf s c).run = false) :
    answers (.seqResume c index) s (fun t => onlyCore s t c ∧ creg t c 0x50 = index.toNat ∧ creg t c 0x30 = 0
      ∧ coreOf t c = goTo { coreOf s c with
          regs := (coreOf t c).regs, run := true, ending := false, halting := false, window := (coreOf s c).base, rows := [] }
          (BitVec.ofNat 32 index.toNat)) := by
  obtain ⟨hframe, herr, -, hcore⟩ := clearErr_effect s c
  have hexec : exec (.seqResume c index) s = .next (startSeq (setCreg (clearErr s c) c 0x50 index.toNat) c none index.toNat) := by
    have hdef : exec (.seqResume c index) s = execSeqResume c index s := rfl
    rw [hdef, execSeqResume, if_neg (by simp [hon, hrun])]
  have hset : coreOf (setCreg (clearErr s c) c 0x50 index.toNat) c
      = { coreOf s c with regs := (coreOf (setCreg (clearErr s c) c 0x50 index.toNat) c).regs } := by
    rw [setCreg, coreOf_updCore_self, hcore]
  refine ⟨_, hexec, onlyCore_trans hframe (onlyCore_trans (onlyCore_setCreg ..) (onlyCore_startSeq ..)), ?_, ?_,
    coreOf_startSeq hset none index.toNat⟩
  · rw [creg_startSeq, creg_setCreg_self, Nat.mod_eq_of_lt (by omega)]
  · rw [creg_startSeq, creg_setCreg_off _ _ _ _ (by decide), herr]

/-- A halt of a running sequencer is noted, and ends it once its queues are empty. -/
theorem exec_seqHalt {c : CoreId} {s : State} (hrun : (coreOf s c).run = true) (hstate : (coreOf s c).seqState ≠ .errored) :
    exec (.seqHalt c) s = .next (drainEnd (setCore s c { coreOf s c with halting := true }) c) := by
  have hdef : exec (.seqHalt c) s = .next (haltSeq s c) := rfl
  rw [hdef, haltSeq, if_pos (by simp [hrun, hstate])]

/-- With commands left in a queue it goes on to the end of them. -/
theorem seqHalt_waits {c : CoreId} {s : State} (hrun : (coreOf s c).run = true) (hstate : (coreOf s c).seqState ≠ .errored)
    (hq : (coreOf s c).meq ≠ [] ∨ (coreOf s c).veq ≠ [] ∨ (coreOf s c).seqe ≠ [] ∨ (coreOf s c).teq ≠ []) :
    answers (.seqHalt c) s (fun t => coreBecomes s t c { coreOf s c with halting := true }) := by
  refine ⟨_, exec_seqHalt hrun hstate, ?_⟩
  rcases drainEnd_core (setCore s c { coreOf s c with halting := true }) c with h | ⟨h1, h2, h3, h4, -⟩
  · rw [h]
    exact ⟨onlyCore_updCore s c (fun _ => _), coreOf_setCore_self ..⟩
  · simp only [coreOf_setCore_self] at h1 h2 h3 h4
    exact absurd hq (by simp [h1, h2, h3, h4])

/-- With empty queues and no transfer under way RUN reads 0. -/
theorem seqHalt_stops {c : CoreId} {s : State} (hrun : (coreOf s c).run = true) (hstate : (coreOf s c).seqState ≠ .errored)
    (hm : (coreOf s c).meq = []) (hv : (coreOf s c).veq = []) (hs : (coreOf s c).seqe = []) (ht : (coreOf s c).teq = [])
    (hte : (coreOf s c).te = []) : answers (.seqHalt c) s (fun t => (coreOf t c).run = false ∧ (coreOf t c).seqState = .stopped
      ∧ (coreOf t c).halting = false ∧ (∀ d, d ≠ c.val → coreOf t d = coreOf s d) ∧ t = { s with cores := t.cores, ccs := t.ccs }) := by
  have hdrain : drainEnd (setCore s c { coreOf s c with halting := true }) c = doorbellAt (setCore (setCore s c
      { coreOf s c with halting := true }) c { coreOf s c with run := false, ending := false, halting := false, seqState := .stopped })
      (clusterOf c) (0x10 + coreIn c) 0 := by
    simp [drainEnd, hm, hv, hs, ht, hte]
  refine ⟨_, (exec_seqHalt hrun hstate).trans (congrArg _ hdrain), ?_, ?_, ?_, fun d hd => ?_, rfl⟩
  · simp
  · simp
  · simp
  · rw [coreOf_doorbellAt, coreOf_setCore_ne _ _ _ hd, coreOf_setCore_ne _ _ _ hd]

/-! Grants and clocks (R216, R455). -/

/-- Where no ME waits, no grant is given. -/
theorem regrant_idle {s : State} {k : Nat} (h : (clOf s k).waiting = []) : regrant s k = s := by
  unfold regrant
  split
  · simp [giveGrants, nextGrant, sortBy, h]
  · rfl

/-- An ME with nothing left to multiply gives its grant back, and where no other ME waits that is all. -/
theorem grantRelease_gives {cl : ClusterId} {me : Fin 64} {g : Nat × GrantClass} {s : State}
    (hg : (clOf s cl).grants.find? (fun x => x.1 == me.val) = some g) (hforce : (clOf s cl).grants.length ≤ inForce s cl)
    (hw : (clOf s cl).waiting = []) (hp : pairReady s (coreAt (cl.val / 16) (cl.val % 16) (me.val / 4)) g.2 = false) :
    answers (.grantRelease cl me) s (fun t => onlyCluster s t cl ∧ clOf t cl = { clOf s cl with grants := (clOf s cl).grants.erase g }) := by
  have hpair : ∀ f, pairReady (updCl s cl f) (coreAt (cl.val / 16) (cl.val % 16) (me.val / 4)) g.2 = false := fun _ => hp
  have hexec : exec (.grantRelease cl me) s = .next (updCl s cl (fun c => { c with grants := c.grants.erase g })) := by
    have hdef : exec (.grantRelease cl me) s = execGrantRelease cl me s := rfl
    rw [hdef, execGrantRelease]
    simp only [hg, if_neg (Nat.not_lt.2 hforce), hpair]
    rw [if_neg (by decide), regrant_idle (by simp [hw])]
  exact ⟨_, hexec, ⟨rfl, fun _ hd => clOf_updCl_ne _ _ _ hd⟩, clOf_updCl_self ..⟩

theorem engineClockGate_gates {c : CoreId} {s : State} (hm : (coreOf s c).meq = []) (hv : (coreOf s c).veq = [])
    (hs : (coreOf s c).seqe = []) (ht : (coreOf s c).teq = []) (hidle : (coreOf s c).seqState ≠ .running) (hsw : sweepBusy s c = false) :
    answers (.engineClockGate c) s (fun t => coreBecomes s t c { coreOf s c with gated := true }) := by
  have hexec : exec (.engineClockGate c) s = .next (setCore s c { coreOf s c with gated := true }) := by
    have hdef : exec (.engineClockGate c) s = execEngineClockGate c s := rfl
    rw [hdef, execEngineClockGate]
    simp [hm, hv, hs, ht, hidle, hsw]
  exact ⟨_, hexec, onlyCore_updCore s c (fun _ => _), coreOf_setCore_self ..⟩

/-- Settles O10: what a start, a halt and a resume leave, and a window or a running sequencer that refuses them; a released grant and
gated engines. -/
theorem sequencersRunAndGatesClose : Obligations.SequencersRunAndGatesClose := by
  refine ⟨fun c s => ⟨fun base => seqRun_starts, fun base hb => ?_, seqHalt_waits, seqHalt_stops, fun index => seqResume_starts,
    fun index hrun => ?_⟩, fun cl me g s => grantRelease_gives, fun c s => engineClockGate_gates⟩
  · have hdef : exec (.seqRun c base) s = execSeqRun c base s := rfl
    rw [leaves, hdef, execSeqRun, if_pos (by simp [hb])]
  · have hdef : exec (.seqResume c index) s = execSeqResume c index s := rfl
    rw [leaves, hdef, execSeqResume, if_pos (by simp [hrun])]

end Sys2Proof.Machine
end

section
/-! PROOF. Complete and failing commands (R118, R128, R183, R188 to R190, R209): what retirement and a failure leave of a core. -/

namespace Sys2Proof.Machine

/-! Tokens (R128, R183). -/

/-- A completion token that fits is one more on its semaphore; a command without a token signals nothing. -/
def tokenSignalled (s : State) (c : Nat) (token : Option Nat) : State :=
  match token with
  | none => s
  | some n => setSem s c n (semOf s c n + 1)

theorem finishToken_fits {s : State} {c : Nat} {token : Option Nat} (h : ∀ n, token = some n → semOf s c n < 0xFFFF) (q index opc : Nat) :
    finishToken s c q index opc token = tokenSignalled s c token := by
  cases token with
  | none => rfl
  | some n => exact finishToken_some s c q index opc n (h n rfl)

/-- It changes one semaphore of its core alone. -/
theorem tokenSignalled_effect {s : State} {c : Nat} {token : Option Nat} (h : ∀ n, token = some n → semOf s c n < 0xFFFF) :
    coreBecomes s (tokenSignalled s c token) c { coreOf s c with sem := (coreOf (tokenSignalled s c token) c).sem }
    ∧ ∀ n, semOf (tokenSignalled s c token) c n = semOf s c n + (if token = some n then 1 else 0) := by
  cases token with
  | none => exact ⟨⟨onlyCore_refl s c, rfl⟩, fun _ => rfl⟩
  | some m =>
    have hm := h m rfl
    refine ⟨⟨onlyCore_setSem .., by simp [tokenSignalled, setSem]⟩, fun n => ?_⟩
    by_cases hn : n = m
    · rw [hn, tokenSignalled, semOf_setSem_self, if_pos rfl, Nat.mod_eq_of_lt (by omega)]
    · rw [tokenSignalled, semOf_setSem_num _ _ _ _ hn, if_neg (by simpa using Ne.symm hn)]
      rfl

/-! END and HALT finish (R141, R190). -/

/-- Whether or not they finish, the queues, the semaphores, the scratchpad and the registers are those of the core before. -/
theorem drainEnd_keeps (s : State) (c : Nat) : coreOf (drainEnd s c) c = { coreOf s c with
    run := (coreOf (drainEnd s c) c).run, ending := (coreOf (drainEnd s c) c).ending, halting := (coreOf (drainEnd s c) c).halting
    seqState := (coreOf (drainEnd s c) c).seqState } := by
  rcases drainEnd_core s c with h | ⟨-, -, -, -, h⟩
  · rw [h]
  · rw [h]

/-! Retirement (R118, R128, R183, R190). -/

/-- The core when a command has left the head of its queue and signalled its token, before END and HALT are looked at. -/
def poppedAndSignalled (s : State) (c q : Nat) (i : Issued) : State := tokenSignalled (popEngine s c q) c (ownToken i.word.toNat)

section
variable {s : State} {c q o : Nat} {i : Issued} (hfit : ∀ n, ownToken i.word.toNat = some n → semOf s c n < 0xFFFF)

theorem semOf_popEngine (s : State) (c q n : Nat) : semOf (popEngine s c q) c n = semOf s c n := by
  obtain ⟨-, -, hcore, -⟩ := popEngine_frame s c q
  rw [semOf, hcore, semOf, setQueue_sem]

include hfit

theorem retired_eq : retired s c q o i = drainEnd (poppedAndSignalled s c q i) c := by
  rw [retired, settled, finishToken_fits (fun n hn => by rw [semOf_popEngine]; exact hfit n hn), poppedAndSignalled]

/-- Only the core differs, and of it the queue, a semaphore and the banks' counters. -/
theorem poppedAndSignalled_effect : let t := poppedAndSignalled s c q i
    t = { s with cores := t.cores, free := t.free } ∧ (∀ d, d ≠ c → coreOf t d = coreOf s d)
    ∧ coreOf t c = setQueue { coreOf s c with sem := (coreOf t c).sem, regs := (coreOf t c).regs } q ((queueOf (coreOf s c) q).drop 1)
    ∧ (∀ n, semOf t c n = semOf s c n + (if ownToken i.word.toNat = some n then 1 else 0))
    ∧ ∀ off, off ≠ 0x200 → off ≠ 0x208 → creg t c off = creg s c off := by
  obtain ⟨hpop, hothers, hcore, hregs⟩ := popEngine_frame s c q
  obtain ⟨⟨⟨hsig, hrest⟩, htok⟩, hsem⟩ := tokenSignalled_effect (s := popEngine s c q) (c := c) (token := ownToken i.word.toNat)
    (fun n hn => by rw [semOf_popEngine]; exact hfit n hn)
  have hreg : (coreOf (poppedAndSignalled s c q i) c).regs = (coreOf (popEngine s c q) c).regs := by
    rw [poppedAndSignalled, htok]
  refine ⟨?_, fun d hd => (hrest d hd).trans (hothers d hd), ?_, fun n => (hsem n).trans (by rw [semOf_popEngine]), fun off h1 h2 => ?_⟩
  · rw [poppedAndSignalled, hsig, hpop]
  · rw [poppedAndSignalled, htok, hcore]
    unfold setQueue
    split
    · rfl
    · split
      · rfl
      · split
        · rfl
        · split <;> rfl
  · rw [creg, hreg]; exact hregs off h1 h2

/-- A retired command has left its queue, its token is signalled, and every other semaphore, the scratchpad and every register but the
banks' counters are kept. -/
theorem retired_effect (h1 : 1 ≤ q) (h4 : q ≤ 4) {rest : List Issued} (hq : queueOf (coreOf s c) q = i :: rest) :
    let t := retired s c q o i
    queueOf (coreOf t c) q = rest
    ∧ (∀ n, semOf t c n = semOf s c n + (if ownToken i.word.toNat = some n then 1 else 0))
    ∧ (coreOf t c).spad = (coreOf s c).spad
    ∧ (∀ off, off ≠ 0x200 → off ≠ 0x208 → creg t c off = creg s c off)
    ∧ (∀ d, d ≠ c → coreOf t d = coreOf s d)
    ∧ ((coreOf s c).ending = false → (coreOf s c).halting = false →
        t = { s with cores := t.cores, free := t.free }
        ∧ coreOf t c = setQueue { coreOf s c with sem := (coreOf t c).sem, regs := (coreOf t c).regs } q rest) := by
  obtain ⟨hframe, hothers, hcore, hsem, hregs⟩ := poppedAndSignalled_effect hfit (q := q)
  obtain ⟨-, -, dothers, -, -⟩ := drainEnd_frame (poppedAndSignalled s c q i) c
  have hdrop : (queueOf (coreOf s c) q).drop 1 = rest := by rw [hq]; rfl
  rw [hdrop] at hcore
  have hdrain := drainEnd_keeps (poppedAndSignalled s c q i) c
  rw [retired_eq hfit]
  refine ⟨?_, fun n => ?_, ?_, fun off h h' => ?_, fun d hd => (dothers d hd).trans (hothers d hd), fun he hh => ?_⟩
  · rw [hdrain]
    exact (congrArg (queueOf · q) hcore).trans (queueOf_setQueue_self _ _ h1 h4)
  · rw [semOf, hdrain]; exact hsem n
  · rw [hdrain, hcore]; exact setQueue_spad ..
  · rw [creg, hdrain]; exact hregs off h h'
  · have hflags : (coreOf (poppedAndSignalled s c q i) c).ending = false ∧ (coreOf (poppedAndSignalled s c q i) c).halting = false := by
      rw [hcore, setQueue_frame]; exact ⟨he, hh⟩
    rw [drainEnd_idle _ _ hflags.1 hflags.2]
    exact ⟨hframe, hcore⟩
end

/-- The sequencer's own complete command signals its token and, while the sequencer neither ends nor halts, does nothing else. -/
theorem settled_effect {s : State} {c o index : Nat} {token : Option Nat} (hfit : ∀ n, token = some n → semOf s c n < 0xFFFF)
    (he : (coreOf s c).ending = false) (hh : (coreOf s c).halting = false) : let t := settled s c 0 o index token
    coreBecomes s t c { coreOf s c with sem := (coreOf t c).sem }
    ∧ ∀ n, semOf t c n = semOf s c n + (if token = some n then 1 else 0) := by
  obtain ⟨hbecomes, hsem⟩ := tokenSignalled_effect hfit
  have hcore := hbecomes.2
  have hflags : (coreOf (tokenSignalled s c token) c).ending = false ∧ (coreOf (tokenSignalled s c token) c).halting = false := by
    rw [hcore]; exact ⟨he, hh⟩
  have hsettled : settled s c 0 o index token = tokenSignalled s c token := by
    rw [settled, finishToken_fits hfit, drainEnd_idle _ _ hflags.1 hflags.2]
  rw [hsettled]
  exact ⟨hbecomes, hsem⟩

/-! Failures (R188, R189, R209). -/

/-- The core whose command has failed: the queue discarded, what its engine had begun given up, the sequencer stopped. -/
def stoppedBy (v : CoreState) (q : Nat) : CoreState :=
  { setQueue (abandon v q) q [] with run := false, ending := false, halting := false, seqState := .errored }

/-- The record of a failure: event 0x5041 with the SEQ_ERR value (R188). -/
def failureEvent (c q index code o operand : Nat) : EventRec :=
  { ev 0x5041 2 (coreUnit c 8 0) (clusterOf c) (leBytes 8 (seqErrWord index code q o operand)) with
    opc := some (BitVec.ofNat 8 o, BitVec.ofNat 32 index) }

/-- Where the core's site is in no partition, no job ends with the failure. -/
theorem failCommand_noPart {s : State} {c : Nat} (h : corePart s c = none) (q index code o operand : Nat) :
    failCommand s c q index code o operand = doorbellAt (emit (setCreg (updCore s c (stoppedBy · q)) c 0x30
      (seqErrWord index code q o operand)) (clusterOf c) (failureEvent c q index code o operand)) (clusterOf c) (0x10 + coreIn c) 3 := by
  unfold failCommand
  simp only
  split
  · split
    · next hp => exact absurd (hp.symm.trans h) (by simp)
    · rfl
  · rfl

theorem failCommand_effect {s : State} {c : Nat} (h : corePart s c = none) (q index code o operand : Nat) :
    let t := failCommand s c q index code o operand
    coreOf t c = { stoppedBy (coreOf s c) q with regs := (coreOf t c).regs }
    ∧ creg t c 0x30 = seqErrWord index code q o operand % 2 ^ 64
    ∧ (∀ off, off ≠ 0x30 → creg t c off = creg s c off)
    ∧ (∀ d, d ≠ c → coreOf t d = coreOf s d)
    ∧ ∃ e, t.events = s.events ++ [e] ∧ e.code = 0x5041#16
        ∧ e.detail = leBytes 8 (seqErrWord index code q o operand) ++ zeros 8 := by
  rw [failCommand_noPart h]
  have hregs : (stoppedBy (coreOf s c) q).regs = (coreOf s c).regs := by
    rw [stoppedBy, setQueue_regs, abandon_frame]
  refine ⟨by simp [setCreg], by simp [creg, setCreg], fun off hoff => ?_, fun d hd => ?_, ?_⟩
  · simp [creg, setCreg, getN_putN_ne _ _ hoff, hregs]
  · simp [setCreg, coreOf_updCore_ne _ _ _ hd]
  · obtain ⟨x, hx, hcode, -, -, -, -, -, hdetail⟩ := emit_events (setCreg (updCore s c (stoppedBy · q)) c 0x30
      (seqErrWord index code q o operand)) (clusterOf c) (failureEvent c q index code o operand)
    refine ⟨x, by rw [doorbellAt_events, hx]; rfl, hcode, hdetail.trans ?_⟩
    simp [failureEvent, ev, sliceB, zeros]

/-- Settles O11: retirement and the sequencer's own completion by their tokens, a failure by the core that it stops and its record. -/
theorem commandsRetireOrStopTheirCore : Obligations.CommandsRetireOrStopTheirCore := by
  refine ⟨⟨fun s c q o i rest h1 h4 hq hfit => retired_effect hfit h1 h4 hq,
    fun s c o index token hfit he hh => settled_effect hfit he hh⟩, fun c s q code o operand index h1 h4 hpart => ?_⟩
  exact failCommand_effect hpart q index code o operand

end Sys2Proof.Machine
end

section
/-! PROOF. WRITE and INLINE at their destination (R128, R157, R158, R234): the packet leaves its buffer, its granules are written, and
the tokens that follow touch no memory. -/

namespace Sys2Proof.Machine

/-! The last flits leave the mesh (R156, R159). -/

@[simp] theorem linkEnd_local (r : Nat) : linkEnd r 0 = none := by simp [linkEnd]
@[simp] theorem bumpR_mesh (s : State) (r off hi lo n : Nat) : (bumpR s r off hi lo n).mesh = s.mesh := by
  unfold bumpR; split <;> rfl
@[simp] theorem countStalls_mesh (s : State) (r p vc n : Nat) : (countStalls s r p vc n).mesh = s.mesh := by simp [countStalls]
@[simp] theorem putOut_local_mesh (s : State) (r i vc : Nat) (pkt : Packet) (n : Nat) (first : Bool) :
    (putOut s r i vc pkt n first 0).mesh = s.mesh := by simp [putOut, countFlits]

/-- A buffer with no packet coming in has none after one has left. -/
theorem openHop_erase {s t : State} {h : Hop} (ht : t.mesh = s.mesh.erase h) {r p b : Nat} (hs : openHop s r p b = none) :
    openHop t r p b = none := by
  simp only [openHop, List.find?_eq_none, ht] at hs ⊢
  exact fun x hx => hs x (List.mem_of_mem_erase hx)

/-- All that was left of a packet leaves its buffer, and no flits come in behind it. -/
theorem takeFlits_whole {s : State} {h : Hop} {n : Nat} (hr : noRefill s h) (hn : flitsOf h.pkt ≤ h.gone + n) :
    (takeFlits s h n).mesh = s.mesh.erase h := by
  by_cases hp : h.port = 0
  · unfold takeFlits
    simp only [if_pos hp, if_pos hn]
    have hopen := openHop_erase (s := s) (t := queueDepth { s with mesh := s.mesh.erase h } h.router h.port h.vc (-(n : Int))) rfl (hr hp)
    rw [refill, hopen]
    rfl
  · rw [takeFlits_mesh s h n hp, if_pos hn]

theorem sendFlits_local_mesh {s : State} {h : Hop} {n : Nat} (hr : noRefill s h) (hn : flitsOf h.pkt ≤ h.gone + n) :
    (sendFlits s h [0] n).mesh = s.mesh.erase h := by
  have hstall : noRefill (countStalls s h.router 0 h.vc n) h := fun hp => by
    have := hr hp
    simpa [openHop] using this
  simp only [sendFlits, List.foldl_cons, List.foldl_nil, putOut_local_mesh]
  rw [takeFlits_whole hstall hn, countStalls_mesh]

/-- An arrived packet is the one named. -/
theorem arrived_pkt {s : State} {r vc : Nat} {pkt : Packet} {h : Hop} (ha : arrived s r vc pkt = some h) : h.pkt = pkt := by
  unfold arrived at ha
  split at ha
  · have := List.find?_some ha
    simp only [Bool.and_eq_true, beq_iff_eq] at this
    exact this.1.2
  · cases ha

/-! Granules of a body (R157). -/

/-- Every granule that a packet writes lies in its body. -/
theorem bodyGranules_lt {p : Packet} {g : Nat} (h : g ∈ bodyGranules p) : g < 8 * hNbody (pHead p) := by
  unfold bodyGranules at h
  simp only at h
  split at h
  · cases h
  · simp only [List.mem_append, List.mem_range, List.mem_map, List.mem_filter] at h
    rcases h with h | ⟨i, ⟨hi, -⟩, rfl⟩ <;> omega
theorem inlineGranules_lt {p : Packet} {g : Nat} (h : g ∈ inlineGranules p) : g < 8 * hNbody (pHead p) := by
  unfold inlineGranules at h
  split at h
  · simpa using h
  · exact bodyGranules_lt h

theorem pktOk_length {p : Packet} (h : pktOk p = true) : p.body.length = 64 * hNbody (pHead p) := by
  simp only [pktOk, Bool.and_eq_true, decide_eq_true_eq] at h
  exact h.1.2

/-- The granules written lose their poison, and no other granule does. -/
theorem writeGranules_poison {a : Nat} (ha : a % 8 = 0) (b : Bytes) (q : Nat) : ∀ (gs : List Nat) (m : Mem),
    q ∈ (writeGranules m a b gs).poison ↔ q ∈ m.poison ∧ ¬ (a / 8 ≤ q ∧ q - a / 8 ∈ gs)
  | [], m => by simp [writeGranules]
  | g :: gs, m => by
    have hstep : writeGranules m a b (g :: gs) = writeGranules (memWrite m (a + 8 * g) (sliceB b (8 * g) 8)) a b gs := rfl
    rw [hstep, writeGranules_poison ha b q gs, memWrite_poison, sliceB_length, List.mem_cons]
    have hq : (8 ≠ 0 ∧ a + 8 * g < 8 * q + 8 ∧ 8 * q < a + 8 * g + 8) ↔ a / 8 ≤ q ∧ q - a / 8 = g := by omega
    rw [hq]
    tauto

/-- Granules of the body that land with no poison stand at their places, and no other memory differs. -/
theorem landBytes_landed {s : State} {a cap : Nat} {b : Bytes} {gs : List Nat} {m : MeshMem} (hm : meshMem a = some (m, cap))
    (ha : aOff a % 8 = 0) (hb : ∀ g ∈ gs, 8 * g + 8 ≤ b.length) : landedIn s (landBytes s a b gs []) m (aOff a) b gs := by
  obtain ⟨hself, hothers⟩ := landBytes_mem s a cap b gs m hm
  refine ⟨⟨fun x => ?_, fun q => ?_⟩, hothers⟩
  · rw [hself, memByte_memPoison]; exact memByte_writeGranules b (aOff a) x gs _ hb
  · rw [hself]; exact writeGranules_poison ha b q gs _

/-- An access that the destination takes begins on a granule (R123). -/
theorem destError_aligned {a n : Nat} {burst : Bool} (h : destError a n burst = none) : aOff a % 8 = 0 := by
  unfold destError at h
  by_contra hne
  split_ifs at h
  split at h
  · cases h
  · split_ifs at h

/-! What follows the bytes: tokens and transfers (R128, R252). -/

/-- No memory that the mesh carries and no packet in it differs, and no semaphore has reached n. -/
structure LandsOn (n : Nat) (s t : State) : Prop where
  mesh : t.mesh = s.mesh
  mems : ∀ m, memOf t m = memOf s m
  sems : ∀ c k, semOf t c k < n

theorem LandsOn.trans {n k : Nat} {s t u : State} (h : LandsOn n s t) (g : LandsOn k t u) : LandsOn k s u :=
  ⟨g.mesh.trans h.mesh, fun m => (g.mems m).trans (h.mems m), g.sems⟩
theorem LandsOn.mono {n k : Nat} {s t : State} (h : LandsOn n s t) (hn : n ≤ k) : LandsOn k s t :=
  ⟨h.mesh, h.mems, fun c m => Nat.lt_of_lt_of_le (h.sems c m) hn⟩
/-- Semaphores below n, and a step that touches neither them nor a memory. -/
theorem landsOn_refl {n : Nat} {s : State} (h : ∀ c k, semOf s c k < n) : LandsOn n s s := ⟨rfl, fun _ => rfl, h⟩
theorem landsOn_parts {n : Nat} {s : State} (h : ∀ c k, semOf s c k < n) (p : Nat) (f : Job → Job) : LandsOn n s (updJob s p f) :=
  ⟨rfl, fun m => by cases m <;> rfl, h⟩

theorem landsOn_updCore {n : Nat} {s : State} (h : ∀ c k, semOf s c k < n) (c : Nat) {f : CoreState → CoreState}
    (hm : ∀ v, (f v).spad = v.spad) (hs : ∀ v, (f v).sem = v.sem) : LandsOn n s (updCore s c f) := by
  refine ⟨rfl, fun m => ?_, fun d k => ?_⟩
  · cases m with
    | spad d =>
      simp only [memOf, coreOf_updCore]
      split
      · next e => rw [hm, e]
      · rfl
    | vault k => rfl
    | cc i => rfl
  · have hd := h d k
    simp only [semOf, coreOf_updCore] at hd ⊢
    split
    · next e => rw [hs, ← e]; exact hd
    · exact hd

theorem landsOn_drainEnd {n : Nat} {s : State} (h : ∀ c k, semOf s c k < n) (c : Nat) : LandsOn n s (drainEnd s c) := by
  obtain ⟨hmesh, ⟨hspad, hvault⟩, hothers, -, -⟩ := drainEnd_frame s c
  refine ⟨hmesh, fun m => ?_, fun d k => ?_⟩
  · cases m with
    | spad d => exact hspad d
    | vault k => exact hvault k
    | cc i =>
      unfold drainEnd
      simp only [memOf]
      split
      · obtain ⟨-, hcc, hown⟩ := doorbellAt_frame (setCore s c { coreOf s c with run := false, ending := false, halting := false
                                                                                 seqState := .stopped }) (clusterOf c) (0x10 + coreIn c) 0
        by_cases hi : i = clusterOf c
        · rw [hi, hown, ccDeliver_mem]; rfl
        · rw [hcc i hi]; rfl
      · rfl
  · have hd := h d k
    by_cases e : d = c
    · rw [e, semOf, drainEnd_keeps, ← e]; exact hd
    · rw [semOf, hothers d e]; exact hd

/-- A count that fits leaves no semaphore higher than one more. -/
theorem landsOn_setSem {n : Nat} {s : State} (h : ∀ c k, semOf s c k < n) (c k : Nat) :
    LandsOn (n + 1) s (setSem s c k (semOf s c k + 1)) := by
  refine ⟨rfl, fun m => ?_, fun d j => ?_⟩
  · cases m with
    | spad d =>
      simp only [memOf, setSem, coreOf_updCore]
      split
      · next e => rw [e]
      · rfl
    | vault k => rfl
    | cc i => rfl
  · by_cases hd : d = c
    · subst hd
      by_cases hj : j = k
      · subst hj
        rw [semOf_setSem_self]
        have := h d j
        exact Nat.lt_of_le_of_lt (Nat.mod_le _ _) (by omega)
      · rw [semOf_setSem_num _ _ _ _ hj]; exact Nat.lt_succ_of_lt (h d j)
    · rw [semOf_setSem_ne _ _ _ _ _ hd]; exact Nat.lt_succ_of_lt (h d j)

theorem landsOn_finishToken {n : Nat} (hn : n ≤ 0xFFFF) {s : State} (h : ∀ c k, semOf s c k < n) (c q index opc : Nat)
    (token : Option Nat) : LandsOn (n + 1) s (finishToken s c q index opc token) := by
  rw [finishToken_fits (fun k _ => Nat.lt_of_lt_of_le (h c k) hn)]
  cases token with
  | none => exact (landsOn_refl h).mono (Nat.le_succ n)
  | some k => exact landsOn_setSem h c k

/-- The token that a packet's head carries for its destination. -/
theorem landsOn_headToken {n : Nat} (hn : n ≤ 0xFFFF) {s : State} (h : ∀ c k, semOf s c k < n) (pkt : Packet) :
    LandsOn (n + 1) s (headToken s pkt) := by
  unfold headToken
  simp only
  split
  · have hfit := h (addrCore (hAddr (pHead pkt))) (hCtsem (pHead pkt))
    rw [deliverToken, signalSem_fits _ _ _ _ _ (by omega)]
    exact landsOn_setSem h ..
  · exact (landsOn_refl h).mono (Nat.le_succ n)

/-- Bytes of a transfer that have landed: it goes on, or is complete and signals its token. -/
theorem landsOn_landed {n : Nat} (hn : n ≤ 0xFFFF) {s : State} (h : ∀ c k, semOf s c k < n) (src tid k : Nat) :
    LandsOn (n + 1) s (landed s src tid k) := by
  have hsame := (landsOn_refl h).mono (Nat.le_succ n)
  unfold landed
  simp only
  split
  · exact hsame
  · split
    · exact hsame
    · next t _ =>
      split
      · refine LandsOn.mono (n := n) ?_ (Nat.le_succ n)
        exact landsOn_updCore h _ (fun _ => rfl) (fun _ => rfl)
      · have hleft := landsOn_updCore h (sourceCore src) (f := fun v => { v with
          te := v.te.erase t, teq := if t.opc == 0x71#8 then v.teq.drop 1 else v.teq }) (fun _ => rfl) (fun _ => rfl)
        have htoken := hleft.trans (landsOn_finishToken hn hleft.sems (sourceCore src) 4 t.index.toNat t.opc.toNat (t.token.map Fin.val))
        exact htoken.trans (landsOn_drainEnd htoken.sems (sourceCore src))

/-- Bytes of a sweep that have landed: its books go on, and a whole result lands for the SWEEP that asked for it. -/
theorem landsOn_sweepLanded {n : Nat} (hn : n ≤ 0xFFFF) {s : State} (h : ∀ c k, semOf s c k < n) (src tid k : Nat) :
    LandsOn (n + 1) s (sweepLanded s src tid k) := by
  have hsame := (landsOn_refl h).mono (Nat.le_succ n)
  have hbooks : ∀ p f, LandsOn (n + 1) s (updJob s p f) := fun p f => (landsOn_parts h p f).mono (Nat.le_succ n)
  have hresult : ∀ t src tid, LandsOn n s t → LandsOn (n + 1) s (landed t src tid k) := fun t src tid ht =>
    ht.trans (landsOn_landed hn ht.sems src tid k)
  unfold sweepLanded
  simp only
  split
  · exact hsame
  · split
    · exact hsame
    · split
      · split
        · exact hbooks ..
        · exact hbooks ..
      · split
        · apply hresult
          split
          · exact landsOn_parts h ..
          · exact landsOn_parts h ..
        · exact hsame

/-- Bytes that land touch no packet and no semaphore. -/
theorem landBytes_keeps (s : State) (a : Nat) (b : Bytes) (gs poison : List Nat) :
    (landBytes s a b gs poison).mesh = s.mesh ∧ ∀ c k, semOf (landBytes s a b gs poison) c k = semOf s c k := by
  have hset : ∀ (m : MeshMem) v, (setMem s m v).mesh = s.mesh ∧ ∀ c k, semOf (setMem s m v) c k = semOf s c k := fun m v => by
    refine ⟨by cases m <;> rfl, fun c k => ?_⟩
    cases m with
    | spad d =>
      simp only [semOf, setMem, coreOf_updCore]
      split
      · next e => rw [e]
      · rfl
    | vault k => rfl
    | cc i => rfl
  have hburst : ∀ (t : State) (m : MeshMem), (backgroundBurst t m).mesh = t.mesh ∧ ∀ c k, semOf (backgroundBurst t m) c k = semOf t c k :=
    fun t m => by cases m <;> exact ⟨rfl, fun _ _ => rfl⟩
  unfold landBytes
  split
  · exact ⟨rfl, fun _ _ => rfl⟩
  · next m _ => exact ⟨(hburst ..).1.trans (hset ..).1, fun c k => ((hburst ..).2 c k).trans ((hset ..).2 c k)⟩

/-- A packet with no poison lands: its granules stand in the memory that it addresses, and nothing that follows changes a memory. -/
theorem landData_landed {s : State} {pkt : Packet} {gs : List Nat} {m : MeshMem} {cap : Nat}
    (hm : meshMem (hAddr (pHead pkt)) = some (m, cap)) (hp : pkt.poison = []) (hsem : roomySems s)
    (ha : aOff (hAddr (pHead pkt)) % 8 = 0) (hb : ∀ g ∈ gs, 8 * g + 8 ≤ pkt.body.length) :
    (landData s pkt gs).mesh = s.mesh ∧ landedIn s (landData s pkt gs) m (aOff (hAddr (pHead pkt))) pkt.body gs := by
  obtain ⟨hmesh, hsems⟩ := landBytes_keeps s (hAddr (pHead pkt)) pkt.body gs []
  obtain ⟨⟨hbytes, hpois⟩, hothers⟩ := landBytes_landed (s := s) hm ha hb
  have hroomy : ∀ c k, semOf (landBytes s (hAddr (pHead pkt)) pkt.body gs []) c k < 0xFFFD := fun c k => by rw [hsems]; exact hsem c k
  have hhead := landsOn_headToken (by decide) hroomy pkt
  have hsource := hhead.trans (landsOn_landed (by decide) hhead.sems (hSrc (pHead pkt)) (hTid (pHead pkt)) (8 * gs.length))
  have hall := hsource.trans (landsOn_sweepLanded (by decide) hsource.sems (hSrc (pHead pkt)) (hTid (pHead pkt)) (8 * gs.length))
  have hdata : landData s pkt gs = sweepLanded (landed (headToken (landBytes s (hAddr (pHead pkt)) pkt.body gs []) pkt)
      (hSrc (pHead pkt)) (hTid (pHead pkt)) (8 * gs.length)) (hSrc (pHead pkt)) (hTid (pHead pkt)) (8 * gs.length) := by
    simp [landData, landPoison, hp]
  rw [hdata]
  refine ⟨hall.mesh.trans hmesh, ⟨fun x => ?_, fun q => ?_⟩, fun x hx => (hall.mems x).trans (hothers x hx)⟩
  · rw [hall.mems]; exact hbytes x
  · rw [hall.mems]; exact hpois q

/-! The commands. -/

theorem landedIn_of_onlyMesh {s u t : State} {m : MeshMem} {off : Nat} {b : Bytes} {gs : List Nat} (h : onlyMesh s u)
    (g : landedIn u t m off b gs) : landedIn s t m off b gs := by
  have hmem : ∀ x, memOf u x = memOf s x := fun x => by rw [h]; cases x <;> rfl
  obtain ⟨hself, hothers⟩ := g
  exact ⟨hmem m ▸ hself, fun x hx => (hothers x hx).trans (hmem x)⟩

/-- The data of an arrived packet land in the state that its last flits have left. -/
theorem landsAt_landData {s : State} {r vc op n : Nat} {pkt : Packet} {h : Hop} {gs : List Nat} {m : MeshMem} {cap : Nat}
    (hl : landsAt s r vc op n true pkt h) (hm : meshMem (hAddr (pHead pkt)) = some (m, cap)) (hp : pkt.poison = [])
    (hsem : roomySems s) (hr : noRefill s h) (hb : ∀ g ∈ gs, g < 8 * hNbody (pHead pkt)) :
    (landData (sendFlits s h [0] (quota s h)) pkt gs).mesh = s.mesh.erase h
    ∧ landedIn s (landData (sendFlits s h [0] (quota s h)) pkt gs) m (aOff (hAddr (pHead pkt))) pkt.body gs := by
  obtain ⟨hok, -, harr, -, -, hdest, -, hwhole⟩ := hl
  have hsent := sendFlits_frame s h [0] (quota s h)
  have hroomy : roomySems (sendFlits s h [0] (quota s h)) := fun c k => by rw [hsent]; exact hsem c k
  have hlen := pktOk_length hok
  obtain ⟨hmesh, hland⟩ := landData_landed hm hp hroomy (destError_aligned hdest) (fun g hg => by have := hb g hg; omega)
  have hleft := sendFlits_local_mesh hr ((arrived_pkt harr).symm ▸ hwhole)
  exact ⟨hmesh.trans hleft, landedIn_of_onlyMesh hsent hland⟩

/-- Settles O24: a WRITE and an INLINE that land write the granules that their masks enable. -/
theorem packetsLand : Obligations.PacketsLand := by
  intro r vc pkt h m cap s x hm hp hsem hr
  refine ⟨fun hl hc => ?_, fun hl => ?_⟩
  · obtain ⟨hmesh, hland⟩ := landsAt_landData hl hm hp hsem hr (fun g => bodyGranules_lt)
    have hexec : exec (.write r vc pkt) s = .next (landData (sendFlits s h [0] (quota s h)) pkt (bodyGranules pkt)) := by
      have hdef : exec (.write r vc pkt) s = execWrite r vc pkt s := rfl
      rw [hdef, execWrite]
      simp only [hl.1, hc]
      exact congrArg Host.Outcome.next (takePacket_lands (fun t => landData t pkt (bodyGranules pkt)) hl)
    exact ⟨_, hexec, hmesh, hland⟩
  · obtain ⟨hmesh, hland⟩ := landsAt_landData hl hm hp hsem hr (fun g => inlineGranules_lt)
    have hexec : exec (.inline r vc pkt) s = .next (landData (sendFlits s h [0] (quota s h)) pkt (inlineGranules pkt)) := by
      have hdef : exec (.inline r vc pkt) s = execInline r vc pkt s := rfl
      rw [hdef, execInline]
      simp only [hl.1]
      exact congrArg Host.Outcome.next (takePacket_lands (fun t => landData t pkt (inlineGranules pkt)) hl)
    exact ⟨_, hexec, hmesh, hland⟩

end Sys2Proof.Machine
end

section
/-! PROOF. MCAST_FORWARD where two packets of one tree are under way at a router (R162): a delivery on the local port is taken off the
wait that the tree began first. -/

namespace Sys2Proof.Machine

/-! Router 0 of a partition of site 0, with tree 9 from port 2 to its own core and to port 3. -/

/-- A packet of the tree with one body flit, of the command with an identifier. -/
def treePacket (tid : Nat) : Packet := { head := mkHead 0 4 0 1 false 0 tid 0xFF 9, body := zeros 64, poison := [] }

/-- The packet of command 5 stands whole at port 2, on VC1. -/
def secondHop : Hop := { router := 0, port := 2, vc := 1, pkt := treePacket 5, here := 2, gone := 0, drop := false }

/-- The router of the tree, where the packet of command 4, whose last flits are still behind on another channel, waits for both ports. -/
def treeRouter : RouterState := { RouterState.reset with
  regs := [(0x4D0, BitVec.ofNat 64 (2 ^ 63)), (0x848, BitVec.ofNat 64 (2 ^ 31 + 4 * 2 ^ 24 + 9 * 2 ^ 19))]
  ackWait := [{ tree := 9, inPort := 2, waiting := [0, 3], partialSt := false, head := (treePacket 4).head }] }

def twoPackets : State := { State.reset with routers := [(0, treeRouter)], mesh := [secondHop] }

/-- Nothing holds the packet: it stands at the head of its buffer, no port stops it, and it has the choice of both outputs. -/
theorem twoPackets_ready : let x := pHead (treePacket 5); let v := mcEntry twoPackets 0 (hTree x); let ups := (mcOut v).filter (· ≠ 0)
    (pktOk (treePacket 5) = true ∧ hOp x = 4 ∧ headHop twoPackets 0 2 1 (treePacket 5) = some secondHop)
    ∧ (bitOf v 31 = true ∧ bitOf v 30 = false ∧ 2 ∈ mcIn v ∧ mcOut v ≠ [] ∧ ∀ p ∈ mcOut v, portStop twoPackets 0 2 p 1 x = none)
    ∧ (ups ≠ [] ∧ ∀ p ∈ ups, linkEnd 0 p = some (128, 1))
    ∧ (wins twoPackets secondHop = true ∧ flitsOf (treePacket 5) ≤ quota twoPackets secondHop)
    ∧ destError (treeAddr 0 x) (extentOf (bodyGranules (treePacket 5))) false = none := by decide +kernel

/-- The wait that command 5 is left with once its own local delivery is taken off: for port 3 alone. -/
def secondWait : AckWait := let x := pHead (treePacket 5)
  { tree := hTree x, inPort := 2, waiting := (mcOut (mcEntry twoPackets 0 (hTree x))).filter (· ≠ 0), partialSt := false
    head := (treePacket 5).head }

/-- A state that an outcome goes on with has the wait of command 5 for port 3 alone. -/
def hasSecondWait (o : Out) : Bool :=
  match o with
  | .next t => (routerOf t 0).ackWait.contains secondWait
  | _ => false

/-- The packet's delivery at the core is taken off the wait of command 4, and command 5 waits for both ports still. -/
theorem mcastForward_without_secondWait : hasSecondWait (exec (.mcastForward 0 2 1 (treePacket 5)) twoPackets) = false := by decide +kernel

/-- Refutes O25: with a packet of the same tree already waiting for the local port, the wait of a packet that has gone on and landed
still names the local port, since its delivery there counts for the earlier packet. -/
theorem not_readsAreAnsweredAndMulticastsSpread : ¬ Obligations.ReadsAreAnsweredAndMulticastsSpread := by
  rintro ⟨-, hspread, -⟩
  obtain ⟨⟨hok, hop, hhead⟩, ⟨hvalid, hmcast, hin, hout, hstop⟩, ⟨hups, hlinks⟩, ⟨hwins, hquota⟩, hdest⟩ := twoPackets_ready
  have hroomy : roomySems twoPackets := fun _ _ => show 0 < 0xFFFD by decide
  have hrefill : noRefill twoPackets secondHop := fun h => absurd h (by decide)
  obtain ⟨t, hexec, -, -, -, -, -, -, hwait⟩ := hspread 0 2 1 (treePacket 5) secondHop twoPackets (fun _ => (128, 1)) hok hop hhead rfl
    rfl hrefill hvalid hmcast hin hout rfl hroomy hstop hlinks hwins hquota (fun _ => ⟨by decide, hdest⟩) (fun h => absurd h hups)
  have hmem : secondWait ∈ (routerOf t 0).ackWait := hwait hups
  have hnot := mcastForward_without_secondWait
  rw [hexec] at hnot
  exact absurd hmem (by simpa [hasSecondWait] using hnot)

end Sys2Proof.Machine
end

section
/-! PROOF. Control messages as they land (R127, R129, R167 to R171, R188), and the interrupt controller's own events (R474 to R477). -/

namespace Sys2Proof.Machine

/-! Sources of an interrupt controller (R474, R477). -/

/-- A source whose word is written has that word, where it fits. -/
theorem srcOf_put {i j : Icu} {n w : Nat} (h : j.src = putN i.src n (BitVec.ofNat 64 w)) (hw : w < 2 ^ 64) : srcOf j n = w := by
  rw [srcOf, h, getN_putN_self, BitVec.toNat_ofNat, Nat.mod_eq_of_lt hw]
/-- Every other source keeps its word. -/
theorem srcOf_put_ne {i j : Icu} {n k : Nat} {w : W64} (h : j.src = putN i.src n w) (hk : k ≠ n) : srcOf j k = srcOf i k := by
  rw [srcOf, h, getN_putN_ne _ _ hk, srcOf]
theorem srcOf_congr {i j : Icu} (h : j.src = i.src) (n : Nat) : srcOf j n = srcOf i n := by simp [srcOf, h]

@[simp] theorem settleGroup_src (i : Icu) (g : Nat) : (settleGroup i g).src = i.src := by
  unfold settleGroup; split <;> rfl

/-- A cleared source is not pending and counts nothing, and keeps its group and enable; no other source differs. -/
theorem clearSource_effect (i : Icu) (n : Nat) : let j := clearSource i n
    srcPending j n = false ∧ bitsOf (srcOf j n) 47 32 = 0 ∧ bitsOf (srcOf j n) 31 1 = bitsOf (srcOf i n) 31 1
    ∧ ∀ k, k ≠ n → srcOf j k = srcOf i k := by
  have hsrc : (clearSource i n).src = putN i.src n (BitVec.ofNat 64 (bitsOf (srcOf i n) 63 48 * 2 ^ 48 + bitsOf (srcOf i n) 31 1 * 2)) :=
    settleGroup_src ..
  have htag := bitsOf_lt (srcOf i n) 63 48
  have hlow := bitsOf_lt (srcOf i n) 31 1
  have hword := srcOf_put hsrc (by omega)
  refine ⟨?_, ?_, ?_, fun k hk => srcOf_put_ne hsrc hk⟩
  · rw [srcPending, hword, bitOf, beq_eq_false_iff_ne]; omega
  · rw [hword, bitsOf]; omega
  · rw [hword]
    generalize bitsOf (srcOf i n) 31 1 = x at *
    rw [bitsOf]; omega

/-- The word that a write of ICU_SRC leaves of a source: its group and its enable are those written. -/
def srcWritten (old v : Nat) : Nat := setBits (setBits old 7 4 (bitsOf v 7 4)) 1 1 (if bitOf v 1 then 1 else 0)

theorem srcWritten_fields (old v : Nat) : bitsOf (srcWritten old v) 7 4 = bitsOf v 7 4 ∧ bitOf (srcWritten old v) 1 = bitOf v 1
    ∧ bitOf (srcWritten old v) 0 = bitOf old 0 := by
  have hbit : ∀ x i, bitOf x i = (bitsOf x i i == 1) := fun x i => by simp [bitOf, bitsOf]
  refine ⟨?_, ?_, ?_⟩
  · rw [srcWritten, bitsOf_setBits_above _ _ (by decide) (by decide), bitsOf_setBits _ _ (by decide), bitsOf, Nat.mod_mod]
  · rw [srcWritten, hbit, bitsOf_setBits _ _ (by decide)]
    cases bitOf v 1 <;> rfl
  · rw [srcWritten, hbit, bitsOf_setBits_below _ _ (by decide) (by decide), bitsOf_setBits_below _ _ (by decide) (by decide), ← hbit]

/-- Sources 1 to 3 take no group and no enable from a write; every other one has its word written after a clearing. -/
theorem icuSrcWrite_src {i c : Icu} {n v : Nat} (hc : (if bitOf v 0 then clearSource i n else i) = c) (now : Nat) : (icuSrcWrite i now n v).src
      = if 1 ≤ n ∧ n ≤ 3 then c.src else putN c.src n (BitVec.ofNat 64 (srcWritten (srcOf c n) v)) := by
  unfold icuSrcWrite
  simp only [hc]
  split
  · rfl
  · rw [settleGroup_src, settleGroup_src, apply_ite Icu.src, countGroup_src, ite_self]
    rfl

/-- A write of ICU_SRC clears PENDING where it writes 1 to it, and sets group and enable of every source but 1 to 3. -/
theorem icuSrcWrite_effect (i : Icu) (now n v : Nat) : let j := icuSrcWrite i now n v
    (bitOf v 0 = true → srcPending j n = false)
    ∧ (¬ (1 ≤ n ∧ n ≤ 3) → srcGroup j n = bitsOf v 7 4 ∧ srcEnabled j n = bitOf v 1)
    ∧ ∀ k, k ≠ n → srcOf j k = srcOf i k := by
  obtain ⟨c, hc⟩ : ∃ c, (if bitOf v 0 then clearSource i n else i) = c := ⟨_, rfl⟩
  have hsrc := icuSrcWrite_src hc now
  have hpending : bitOf v 0 = true → srcPending c n = false := fun hv => by
    rw [if_pos hv] at hc; rw [← hc]; exact (clearSource_effect i n).1
  have hothers : ∀ k, k ≠ n → srcOf c k = srcOf i k := fun k hk => by
    rw [← hc]
    split
    · exact (clearSource_effect i n).2.2.2 k hk
    · rfl
  by_cases hn : 1 ≤ n ∧ n ≤ 3
  · rw [if_pos hn] at hsrc
    exact ⟨fun hv => by rw [srcPending, srcOf_congr hsrc]; exact hpending hv, fun h => absurd hn h,
      fun k hk => (srcOf_congr hsrc k).trans (hothers k hk)⟩
  · rw [if_neg hn] at hsrc
    have hword : srcOf (icuSrcWrite i now n v) n = srcWritten (srcOf c n) v :=
      srcOf_put hsrc (setBits_lt (setBits_lt (BitVec.isLt _) (by decide) (by decide) _) (by decide) (by decide) _)
    obtain ⟨hgroup, henable, hpend⟩ := srcWritten_fields (srcOf c n) v
    refine ⟨fun hv => ?_, fun _ => ⟨?_, ?_⟩, fun k hk => (srcOf_put_ne hsrc hk).trans (hothers k hk)⟩
    · rw [srcPending, hword, hpend]; exact hpending hv
    · rw [srcGroup, if_neg hn, hword, hgroup]
    · have hfixed : (decide (1 ≤ n) && decide (n ≤ 3)) = false := by simpa using hn
      rw [srcEnabled, hfixed, hword, henable, Bool.false_or]

/-! Doorbells of messages (R170, R474, R479). -/

/-- The grant arbiter acts on the Finder's doorbells, and touches no control core. -/
theorem finderBell_effect (s : State) (i n tag : Nat) : (finderBell s i n tag).ctrl = s.ctrl
    ∧ (∀ j, ccOf (finderBell s i n tag) j = ccOf (doorbellAt s i n tag) j) ∧ memoriesKept s (finderBell s i n tag) := by
  have hbell : memoriesKept s (doorbellAt s i n tag) := memoriesKept_of_eq (doorbellAt_cores ..) (doorbellAt_clusters ..)
  unfold finderBell
  split
  · obtain ⟨hframe, hothers, hvault⟩ := arbiterDoorbell_frame (doorbellAt s i n tag) i n tag
    refine ⟨by rw [hframe]; rfl, fun j => by rw [hframe]; rfl, memoriesKept_trans hbell ⟨fun c => by rw [hframe]; rfl, fun k => ?_⟩⟩
    by_cases hk : k = i
    · rw [hk]; exact hvault
    · rw [hothers k hk]
  · exact ⟨rfl, fun _ => rfl, hbell⟩

theorem messageBell_effect (s : State) (m : CtrlMsg) (i : Nat) :
    (messageBell s m i).ctrl = s.ctrl ∧ memoriesKept s (messageBell s m i)
    ∧ (∀ j, ccOf (messageBell s m i) j = ccOf (doorbellAt s i (msgWord m 2 % 1024) (bitsOf (msgWord m 2) 31 16)) j) := by
  unfold messageBell
  simp only
  split
  · obtain ⟨hctrl, hcc, hmem⟩ := finderBell_effect s i (msgWord m 2 % 1024) (bitsOf (msgWord m 2) 31 16)
    exact ⟨hctrl, hmem, hcc⟩
  · exact ⟨rfl, memoriesKept_of_eq (doorbellAt_cores ..) (doorbellAt_clusters ..), fun _ => rfl⟩

/-- The source of a message's doorbell is pending with its TAG and counted; no other source and no other control core differs. -/
theorem messageBell_source (s : State) (m : CtrlMsg) (i : Nat) : let t := messageBell s m i; let src := msgWord m 2 % 1024
    srcPending (ccOf t i).icu src = true ∧ bitsOf (srcOf (ccOf t i).icu src) 63 48 = bitsOf (msgWord m 2) 31 16
    ∧ bitsOf (srcOf (ccOf t i).icu src) 47 32 = min (bitsOf (srcOf (ccOf s i).icu src) 47 32 + 1) 0xFFFF
    ∧ (∀ k, k ≠ src → srcOf (ccOf t i).icu k = srcOf (ccOf s i).icu k) ∧ ∀ j, j ≠ i → ccOf t j = ccOf s j := by
  obtain ⟨-, -, hcc⟩ := messageBell_effect s m i
  obtain ⟨-, hothers, hown⟩ := doorbellAt_frame s i (msgWord m 2 % 1024) (bitsOf (msgWord m 2) 31 16)
  obtain ⟨hpending, htag, hcount⟩ := srcOf_icuMessage (ccOf s i).icu s.units (msgWord m 2 % 1024) (bitsOf (msgWord m 2) 31 16)
  have htag := htag.trans (Nat.mod_eq_of_lt (bitsOf_lt (msgWord m 2) 31 16))
  have hicu : (ccOf (messageBell s m i) i).icu
      = icuMessage (ccOf s i).icu s.units (msgWord m 2 % 1024) (bitsOf (msgWord m 2) 31 16) := by
    rw [hcc, hown, ccDeliver_icu]
  simp only
  rw [hicu]
  exact ⟨hpending, htag, hcount, fun k hk => srcOf_put_ne (icuMessage_src ..) hk, fun j hj => (hcc j).trans (hothers j hj)⟩

/-! Messages that land (R168 to R171). -/

section
variable {m : CtrlMsg} {s : State}

theorem exec_ctrlSignal (hl : lands s m 1) (hd : mDie m < 64) (hcc : mToCc m = false) (hb : mBcast m = false)
    (hfit : semOf s (coreAt (mDie m) (mCluster m) (mCore m)) (mArg m % 32) + msgWord m 2 % 65536 ≤ 0xFFFF) :
    exec (.ctrlSignal m) s = .next (setSem (landCtrl s m) (coreAt (mDie m) (mCluster m) (mCore m)) (mArg m % 32)
      (semOf s (coreAt (mDie m) (mCluster m) (mCore m)) (mArg m % 32) + msgWord m 2 % 65536)) := by
  have hdef : exec (.ctrlSignal m) s = execCtrlSignal m s := rfl
  rw [hdef, execCtrlSignal, if_neg (by simp [hl.1]), landing_ok _ hl, if_neg (by simp [hcc, hb, hd])]
  simp only
  rw [signalSem_fits (landCtrl s m) _ _ _ _ hfit]
  rfl

/-- A SIGNAL that fits adds its count to one semaphore (R127, R129). -/
theorem ctrlSignal_adds (hl : lands s m 1) (hd : mDie m < 64) (hcc : mToCc m = false) (hb : mBcast m = false) :
    let c := coreAt (mDie m) (mCluster m) (mCore m); let sem := mArg m % 32; let n := msgWord m 2 % 65536
    semOf s c sem + n ≤ 0xFFFF → answers (.ctrlSignal m) s (fun t => t = { s with cores := t.cores, ctrl := s.ctrl.erase m }
        ∧ (∀ d, d ≠ c → coreOf t d = coreOf s d) ∧ coreOf t c = { coreOf s c with sem := (coreOf t c).sem }
        ∧ semOf t c sem = semOf s c sem + n ∧ ∀ k, k ≠ sem → semOf t c k = semOf s c k) := by
  intro c sem n hfit
  refine ⟨_, exec_ctrlSignal hl hd hcc hb hfit, rfl, fun d hne => coreOf_updCore_ne (landCtrl s m) _ _ hne, ?_, ?_, fun k hk =>
    semOf_setSem_num (landCtrl s m) _ _ _ hk⟩
  · exact (coreOf_updCore_self (landCtrl s m) c _).trans (by simp [setSem, c])
  · exact (semOf_setSem_self (landCtrl s m) ..).trans (Nat.mod_eq_of_lt (Nat.lt_of_le_of_lt hfit (by decide)))

/-- A DOORBELL rings at one control core; a BCAST goes on to every other as a copy of its own (R169). -/
theorem exec_icuDoorbell {cc : CcId} (hl : lands s m 2)
    (hto : mBcast m = true ∨ ccAt (mDie m) (mCluster m) (mCore m) = some cc.val ∧ (mToCc m = true ∨ 64 ≤ mDie m)) :
    exec (.icuDoorbell cc m) s
      = .next (messageBell { s with ctrl := s.ctrl.erase m ++ (if mBcast m then bcastCopies m cc else []) } m cc) := by
  have hdef : exec (.icuDoorbell cc m) s = execIcuDoorbell cc m s := rfl
  rw [hdef, execIcuDoorbell, if_neg (by simp [hl.1]), landing_ok _ hl]
  cases hb : mBcast m with
  | true => rfl
  | false =>
    rw [hb] at hto
    obtain ⟨hat, hcc⟩ := hto.resolve_left (by decide)
    rw [if_neg (by decide), if_pos (by simp [hat, hcc]), if_neg (by decide), List.append_nil]
    rfl

theorem icuDoorbell_rings {cc : CcId} (hl : lands s m 2)
    (hto : mBcast m = true ∨ ccAt (mDie m) (mCluster m) (mCore m) = some cc.val ∧ (mToCc m = true ∨ 64 ≤ mDie m)) :
    let src := msgWord m 2 % 1024
    answers (.icuDoorbell cc m) s (fun t => t.ctrl = s.ctrl.erase m ++ (if mBcast m then bcastCopies m cc else [])
        ∧ srcPending (ccOf t cc).icu src = true
        ∧ bitsOf (srcOf (ccOf t cc).icu src) 63 48 = bitsOf (msgWord m 2) 31 16
        ∧ bitsOf (srcOf (ccOf t cc).icu src) 47 32 = min (bitsOf (srcOf (ccOf s cc).icu src) 47 32 + 1) 0xFFFF
        ∧ (∀ k, k ≠ src → srcOf (ccOf t cc).icu k = srcOf (ccOf s cc).icu k)
        ∧ (∀ i, i ≠ cc.val → ccOf t i = ccOf s i) ∧ memoriesKept s t) := by
  intro src
  obtain ⟨hctrl, hmem, -⟩ := messageBell_effect { s with ctrl := s.ctrl.erase m ++ (if mBcast m then bcastCopies m cc else []) } m cc
  obtain ⟨hpending, htag, hcount, hsources, hothers⟩ :=
    messageBell_source { s with ctrl := s.ctrl.erase m ++ (if mBcast m then bcastCopies m cc else []) } m cc
  exact ⟨_, exec_icuDoorbell hl hto, hctrl, hpending, htag, hcount, hsources, hothers, hmem⟩

/-- An ERR traps the control core that it is for (R472). -/
theorem err_traps {i : Nat} (hl : lands s m 3) (hto : mToCc m = true ∨ 64 ≤ mDie m)
    (hat : ccAt (mDie m) (mCluster m) (mCore m) = some i) :
    answers (.err m) s (fun t => t = { s with ctrl := s.ctrl.erase m, ccs := t.ccs } ∧ (∀ k, k ≠ i → ccOf t k = ccOf s k)
      ∧ ccOf t i = { ccOf s i with ccerr := BitVec.ofNat 8 (mArg m), mie := false, trap := some .access }) := by
  have hexec : exec (.err m) s = .next (updCc (landCtrl s m) i (fun c => ccFault c (mArg m))) := by
    have hdef : exec (.err m) s = execErr m s := rfl
    rw [hdef, execErr, if_neg (by simp [hl.1]), landing_ok _ hl, if_pos (by simpa using hto), hat]
  exact ⟨_, hexec, rfl, fun k hk => ccOf_updCc_ne (landCtrl s m) _ _ hk, ccOf_updCc_self (landCtrl s m) ..⟩

/-- An ERR at a core fails the transfer of its TID (R167, R188). -/
theorem exec_err_transfer {x : TeTxn} (hl : lands s m 3) (hd : mDie m < 64) (hcc : mToCc m = false)
    (hx : (coreOf s (coreAt (mDie m) (mCluster m) (mCore m))).te.find? (fun u => u.tid.toNat == msgWord m 2 % 65536) = some x) :
    exec (.err m) s = .next (transferFails (landCtrl s m) (coreAt (mDie m) (mCluster m) (mCore m)) x (mArg m)) := by
  have hdef : exec (.err m) s = execErr m s := rfl
  rw [hdef, execErr, if_neg (by simp [hl.1]), landing_ok _ hl, if_neg (by simp [hcc, hd])]
  simp only [coreOf_landCtrl, hx]

theorem exec_regRsp (hl : lands s m 6) : exec (.regRsp m) s = .next (landCtrl s m) := by
  have hdef : exec (.regRsp m) s = execRegRsp m s := rfl
  rw [hdef, execRegRsp, if_neg (by simp [hl.1]), landing_ok _ hl]; rfl
theorem exec_mgmt (hl : lands s m 7) : exec (.mgmt m) s = .next (landCtrl s m) := by
  have hdef : exec (.mgmt m) s = execMgmt m s := rfl
  rw [hdef, execMgmt, if_neg (by simp [hl.1]), landing_ok _ hl]; rfl

/-! Messages that the network does not deliver (R170, R171). -/

theorem landing_dropped (hdrop : msgDropped s m = true) (type : Nat) (k : State → State) :
    landing s m type k = dropMessage (landCtrl s m) m := by
  rw [landing, if_pos hdrop]

theorem raise_appends (s : State) (code sev unit rep : Nat) (d : Bytes) :
    ∃ e, (raise s code sev unit rep d).events = s.events ++ [e] ∧ e.code = BitVec.ofNat 16 code := ⟨_, rfl, rfl⟩

/-- A dropped message leaves the network, and its count and one event are all that it brings. -/
theorem dropMessage_effect (s : State) (m : CtrlMsg) : let t := dropMessage (landCtrl s m) m
    t.ctrl = s.ctrl.erase m ∧ memoriesKept s t ∧ ∃ e, t.events = s.events ++ [e] ∧ e.code = 0x3030#16 := by
  have hframe := dropMessage_frame (landCtrl s m) m
  refine ⟨by rw [hframe]; rfl, memoriesKept_of_eq (by rw [hframe]; rfl) (by rw [hframe]; rfl), ?_⟩
  unfold dropMessage
  split
  · exact raise_appends ..
  · exact raise_appends (bumpR (landCtrl s m) _ _ _ _ 1) ..

theorem dropped_reported (hok : msgOk m = true) (hdrop : msgDropped s m = true) (cc : CcId) :
    ∀ i ∈ [Instr.ctrlSignal m, .icuDoorbell cc m, .err m, .regRd m, .regWr m, .regRsp m, .mgmt m],
      exec i s = .next (dropMessage (landCtrl s m) m) := by
  have hdefs : ∀ (name : String) type k, (if (!msgOk m) = true then (.fault (.illFormed name) : Out) else .next (landing s m type k))
      = .next (dropMessage (landCtrl s m) m) := fun name type k => by
    rw [if_neg (by simp [hok]), landing_dropped hdrop]
  intro i hi
  simp only [List.mem_cons, List.not_mem_nil, or_false] at hi
  rcases hi with rfl | rfl | rfl | rfl | rfl | rfl | rfl
  all_goals exact hdefs ..
end

/-! Events of an interrupt controller (R475 to R477). -/

theorem mem_insertBy {α : Type} (lt : α → α → Bool) (x : α) : ∀ l : List α, ∀ y, y ∈ insertBy lt x l ↔ y = x ∨ y ∈ l
  | [], y => by simp [insertBy]
  | z :: t, y => by
    unfold insertBy
    split
    · simp
    · simp only [List.mem_cons, mem_insertBy lt x t y]; tauto

/-- A group whose batch has run out of time is ready, and no group is ready no longer. -/
theorem icuGroupTimeout_ready {cc : CcId} {g : Fin 16} {s : State} (hp : groupPending (ccOf s cc).icu g ≠ [])
    (hb : getN 0 (ccOf s cc).icu.batch g ≠ 0) : answers (.icuGroupTimeout cc g) s (fun t => g.val ∈ (ccOf t cc).icu.ready
      ∧ (∀ h, h ∈ (ccOf s cc).icu.ready → h ∈ (ccOf t cc).icu.ready) ∧ (ccOf t cc).icu.src = (ccOf s cc).icu.src
      ∧ (∀ i, i ≠ cc.val → ccOf t i = ccOf s i) ∧ t = { s with ccs := t.ccs }) := by
  refine ⟨_, rfl, ?_⟩
  beta_reduce
  rw [ccOf_updCc_self]
  have hothers : ∀ f i, i ≠ cc.val → ccOf (updCc s cc.val f) i = ccOf s i := fun _ _ hi => ccOf_updCc_ne _ _ _ hi
  by_cases hr : g.val ∈ (ccOf s cc).icu.ready
  · rw [if_pos (by simp [hr])]
    exact ⟨hr, fun _ h => h, rfl, hothers _, rfl⟩
  · rw [if_neg (by simp [hr, hp, hb]), ccDeliver_icu]
    exact ⟨(mem_insertBy ..).2 (.inl rfl), fun h hh => (mem_insertBy ..).2 (.inr hh), rfl, hothers _, rfl⟩

/-- A control core whose handler has ended, with the wait and the enables that a value leaves it (log entry 16). -/
def handlerEnded (f : Nat) (c : CcState) : CcState :=
  ccDeliver { c with wfi := bitOf f 0, mie := bitOf f 1, meie := bitOf f 2, trap := none }

/-- A claim that finds no source ends the handler, and leaves the interrupt controller as it is (log entry 16). -/
theorem icuClaim_none {cc : CcId} {s : State} (hc : claimValue (ccOf s cc).icu = none) :
    answers (.icuClaim cc) s (fun t => (ccOf t cc).icu = (ccOf s cc).icu ∧ (ccOf t cc).mem = (ccOf s cc).mem
      ∧ (∀ i, i ≠ cc.val → ccOf t i = ccOf s i) ∧ t = { s with ccs := t.ccs, free := t.free }) := by
  have hexec : exec (.icuClaim cc) s
      = .next { updCc s cc (handlerEnded (Config.freeWord s.free).toNat) with free := s.free + 1 } := by
    have hdef : exec (.icuClaim cc) s = execIcuClaim cc s := rfl
    rw [hdef, execIcuClaim, hc]; rfl
  refine ⟨_, hexec, ?_⟩
  have hcc : ∀ (f : CcState → CcState) (n i : Nat), ccOf { updCc s cc.val f with free := n } i = ccOf (updCc s cc.val f) i := fun _ _ _ => rfl
  beta_reduce
  rw [hcc, ccOf_updCc_self]
  exact ⟨ccDeliver_icu _, ccDeliver_mem _, fun i hi => ccOf_updCc_ne s cc.val _ hi, rfl⟩

/-- A claim takes its source: PENDING and COUNT are cleared (R477). -/
theorem icuClaim_some {cc : CcId} {s : State} {g n : Nat} (hc : claimValue (ccOf s cc).icu = some (g, n)) :
    answers (.icuClaim cc) s (fun t => srcPending (ccOf t cc).icu n = false ∧ bitsOf (srcOf (ccOf t cc).icu n) 47 32 = 0
      ∧ bitsOf (srcOf (ccOf t cc).icu n) 31 1 = bitsOf (srcOf (ccOf s cc).icu n) 31 1
      ∧ (∀ k, k ≠ n → srcOf (ccOf t cc).icu k = srcOf (ccOf s cc).icu k)
      ∧ (∀ i, i ≠ cc.val → ccOf t i = ccOf s i) ∧ t = { s with ccs := t.ccs }) := by
  have hexec : exec (.icuClaim cc) s = .next (updCc s cc (fun c => { c with icu := clearSource c.icu n })) := by
    have hdef : exec (.icuClaim cc) s = execIcuClaim cc s := rfl
    rw [hdef, execIcuClaim, hc]
    simp only [claimAt, hc]
  obtain ⟨hpending, hcount, hfields, hsources⟩ := clearSource_effect (ccOf s cc).icu n
  refine ⟨_, hexec, ?_⟩
  beta_reduce
  rw [ccOf_updCc_self]
  exact ⟨hpending, hcount, hfields, hsources, fun i hi => ccOf_updCc_ne _ _ _ hi, rfl⟩

theorem icuSrcWrite_writes (cc : CcId) (n : Fin 1024) (v : W64) (s : State) :
    answers (.icuSrcWrite cc n v) s (fun t => t = { s with ccs := t.ccs } ∧ (∀ i, i ≠ cc.val → ccOf t i = ccOf s i)
      ∧ (bitOf v.toNat 0 = true → srcPending (ccOf t cc).icu n = false)
      ∧ (¬ (1 ≤ n.val ∧ n.val ≤ 3) → srcGroup (ccOf t cc).icu n = bitsOf v.toNat 7 4 ∧ srcEnabled (ccOf t cc).icu n = bitOf v.toNat 1)
      ∧ ∀ k, k ≠ n.val → srcOf (ccOf t cc).icu k = srcOf (ccOf s cc).icu k) := by
  refine ⟨_, rfl, rfl, fun i hi => ccOf_updCc_ne _ _ _ hi, ?_⟩
  rw [ccOf_updCc_self, ccDeliver_icu]
  exact icuSrcWrite_effect (ccOf s cc).icu s.units n.val v.toNat

/-- Settles O27: a message by its type once it lands, or as dropped; an interrupt controller by what each row writes of it. -/
theorem controlMessagesAndInterrupts : Obligations.ControlMessagesAndInterrupts := by
  refine ⟨fun m s => ⟨ctrlSignal_adds, fun cc => icuDoorbell_rings, fun i => err_traps, fun x => exec_err_transfer, exec_regRsp, exec_mgmt,
    fun hok hdrop cc i hi => ⟨_, dropped_reported hok hdrop cc i hi, dropMessage_effect s m⟩⟩, fun cc s =>
    ⟨fun g => icuGroupTimeout_ready, icuClaim_none, fun g n => icuClaim_some, fun n v => icuSrcWrite_writes cc n v s⟩⟩

end Sys2Proof.Machine
end

section
/-! PROOF. Operands that no wire can carry fault by name, and no command is refused (R157, R168, R271; log entry 6). -/

namespace Sys2Proof.Machine

/-! No command is refused. -/

/-- The outcome is a next state or a fault. -/
def notRefused (o : Out) : Prop := ∀ r, o ≠ .refused r

theorem notRefused_next (t : State) : notRefused (.next t) := nofun
/-- A row that checks its operands' form first. -/
theorem notRefused_checked {c : Prop} {_ : Decidable c} {f : Fault} {t : State} : notRefused (if c then .fault f else .next t) := by
  split <;> nofun

theorem specStep_notRefused {h : Slot} {ds : List SpecDraw} {probe due : Bool} {d : Nat} {r : Request} {s : State} {form : String} :
    notRefused (specStep h ds probe due d r s form) := by
  unfold specStep
  cases r.cycle with
  | some x =>
    dsimp only
    split
    · exact notRefused_next s
    · exact notRefused_checked
  | none =>
    dsimp only
    split
    · exact notRefused_next s
    · exact notRefused_checked
theorem execSpecCycle_notRefused (h : Slot) (ds : List SpecDraw) (s : State) : notRefused (execSpecCycle h ds s) := by
  unfold execSpecCycle
  split
  · exact notRefused_next s
  · exact specStep_notRefused
theorem execSpecProbe_notRefused (h : Slot) (ds : List SpecDraw) (s : State) : notRefused (execSpecProbe h ds s) := by
  unfold execSpecProbe
  split
  · exact notRefused_next s
  · exact specStep_notRefused

/-- The rows that check a form answer its fault or a next state, the draws' rows by their step, and every other row a next state. -/
theorem exec_notRefused (i : Instr) (s : State) : notRefused (exec i s) := by
  cases i with
  | specCycle h ds => exact execSpecCycle_notRefused h ds s
  | specProbe h ds => exact execSpecProbe_notRefused h ds s
  | packetRoute | write | readReq | readRsp | inline | mcastForward => exact notRefused_checked
  | ctrlSignal | icuDoorbell | err | regRd | regWr | regRsp | mgmt => exact notRefused_checked
  | submit | cancel | mask | continueReq | release | batch | replay | replayResume => exact notRefused_checked
  | siteGroupEnergise | wlFlit | qcreate | qdelete | hlFlit | publisherCert | publisherFp => exact notRefused_checked
  | _ => exact notRefused_next _

/-! A wrong number of draws (R300, R308). -/

/-- A verified cycle ends on one draw for each proposal and one more. -/
theorem specStep_ends_fault {h : Slot} {ds : List SpecDraw} {due : Bool} {d : Nat} {r : Request} {x : SpecRun} (s : State)
    (form : String) (hx : r.cycle = some x) (hv : x.verified = true) (hn : ds.length ≠ x.props.length + 1) :
    specStep h ds x.probe due d r s form = .fault (.illFormed form) := by
  simp [specStep, hx, hv, hn]
/-- A cycle that is due begins on one draw for each token of its length and one more. -/
theorem specStep_begins_fault {h : Slot} {ds : List SpecDraw} {probe : Bool} {d : Nat} {r : Request} (s : State) (form : String)
    (hx : r.cycle = none) (hn : ds.length ≠ d + 1) : specStep h ds probe true d r s form = .fault (.illFormed form) := by
  simp [specStep, hx, hn]

theorem cycle_none_of_maySpeculate {s : State} {r : Request} (h : maySpeculate s r = true) : r.cycle = none := by
  simp only [maySpeculate, Bool.and_eq_true, Option.isNone_iff_eq_none] at h
  exact h.1.1.1.2

section
variable {h : Slot} {ds : List SpecDraw} {r : Request} {s : State} (hr : reqOf s h = some r)
include hr

theorem exec_specCycle_of_request : exec (.specCycle h ds) s
    = specStep h ds false (maySpeculate s r && !r.specOff) (min r.specD (draftCap s r)) r s "SPEC_CYCLE" := by
  have hdef : exec (.specCycle h ds) s = execSpecCycle h ds s := rfl
  rw [hdef, execSpecCycle, hr]
theorem exec_specProbe_of_request : exec (.specProbe h ds) s
    = specStep h ds true (maySpeculate s r && r.specOff && decide (256 ≤ r.specWait)) (min 2 (draftCap s r)) r s "SPEC_PROBE" := by
  have hdef : exec (.specProbe h ds) s = execSpecProbe h ds s := rfl
  rw [hdef, execSpecProbe, hr]

theorem spec_ends_fault {x : SpecRun} (hx : r.cycle = some x) (hv : x.verified = true) (hn : ds.length ≠ x.props.length + 1) :
    (x.probe = false → exec (.specCycle h ds) s = .fault (.illFormed "SPEC_CYCLE"))
    ∧ (x.probe = true → exec (.specProbe h ds) s = .fault (.illFormed "SPEC_PROBE")) := by
  refine ⟨fun hp => ?_, fun hp => ?_⟩
  · rw [exec_specCycle_of_request hr, ← hp]; exact specStep_ends_fault s _ hx hv hn
  · rw [exec_specProbe_of_request hr, ← hp]; exact specStep_ends_fault s _ hx hv hn

theorem spec_begins_fault (hm : maySpeculate s r = true) :
    (r.specOff = false → ds.length ≠ min r.specD (draftCap s r) + 1 → exec (.specCycle h ds) s = .fault (.illFormed "SPEC_CYCLE"))
    ∧ (r.specOff = true → 256 ≤ r.specWait → ds.length ≠ min 2 (draftCap s r) + 1 →
        exec (.specProbe h ds) s = .fault (.illFormed "SPEC_PROBE")) := by
  have hx := cycle_none_of_maySpeculate hm
  refine ⟨fun hoff hn => ?_, fun hoff hw hn => ?_⟩
  · rw [exec_specCycle_of_request hr, hm, hoff]; exact specStep_begins_fault s _ hx hn
  · rw [exec_specProbe_of_request hr, hm, hoff, decide_eq_true hw]; exact specStep_begins_fault s _ hx hn
end

/-- Settles O6: each row answers its fault on the form that it checks, and none is refused. -/
theorem illFormedTermsFault : Obligations.IllFormedTermsFault := by
  refine ⟨fun i s => exec_notRefused i s, fun r p vc pkt ecc s hbad => ?_, fun cc m s hbad => ?_, fun q ix e a b l ts s => ?_,
    fun h ds r x s hr hx hv hn => spec_ends_fault hr hx hv hn, fun h ds r s hr hm => spec_begins_fault hr hm⟩
  · have hform : (!pktOk pkt) = true := by rw [hbad]; rfl
    exact ⟨if_pos hform, if_pos hform, if_pos hform, if_pos hform, if_pos hform, if_pos hform⟩
  · have hform : (!msgOk m) = true := by rw [hbad]; rfl
    exact ⟨if_pos hform, if_pos hform, if_pos hform, if_pos hform, if_pos hform, if_pos hform, if_pos hform⟩
  · refine ⟨fun h => if_pos (by simp [h]), fun h => if_pos (by simp [h]), fun h => if_pos ?_, fun h => if_pos ?_,
      fun h => if_pos (by simp [h]), fun h => if_pos ?_, fun h => if_pos ?_, fun h => if_pos ?_⟩
    · simpa [Option.any_eq_true] using h
    · simpa [Option.any_eq_true] using h
    · simpa [Option.any_eq_true, or_assoc] using h
    · simpa [Option.any_eq_true] using h
    · simpa [Option.any_eq_true, or_assoc] using h

end Sys2Proof.Machine
end

section
/-! PROOF. How a packet goes one hop on: links, credits and the flits that an output takes (R152, R156, R159). -/

namespace Sys2Proof.Machine

/-! Links. -/

theorem edgeCore_lt (d : Nat) {e : Nat} (he : e < 2) : (edgeCore d e).1 < 16384 := by
  unfold edgeCore
  split_ifs <;> simp only <;> omega
theorem edgeAt_ge {c p r : Nat} (h : edgeAt c p = some r) : 16384 ≤ r := by
  obtain ⟨de, -, hde⟩ := List.exists_of_findSome?_eq_some h
  split at hde
  · cases hde; unfold edgeRouter; omega
  · cases hde

/-- No link leads a router back to itself. -/
theorem linkEnd_ne {r p : Nat} {e : Nat × Nat} (h : linkEnd r p = some e) : e.1 ≠ r := by
  by_cases hr : 16384 ≤ r
  · rw [linkEnd, if_pos hr] at h
    split at h
    · cases h
      exact Nat.ne_of_lt (Nat.lt_of_lt_of_le (edgeCore_lt _ (Nat.mod_lt _ (by decide))) hr)
    · cases h
  · have hedge : ∀ {k}, (edgeAt r k).map (·, 1) = some e → e.1 ≠ r := fun hk => by
      obtain ⟨q, hq, rfl⟩ := Option.map_eq_some_iff.1 hk
      exact Nat.ne_of_gt (Nat.lt_of_lt_of_le (Nat.not_le.1 hr) (edgeAt_ge hq))
    have hcore : ∀ {c : Prop} [Decidable c] {q : Nat × Nat} {k}, (if c then some q else (edgeAt r k).map (·, 1)) = some e →
        (c → q.1 ≠ r) → e.1 ≠ r := fun hk hq => by
      split at hk
      · next hc => cases hk; exact hq hc
      · exact hedge hk
    rw [linkEnd, if_neg hr] at h
    dsimp only at h
    by_cases h1 : p = 1
    · rw [if_pos h1] at h; exact hcore h (fun hy => by unfold coreY at hy; dsimp only; omega)
    rw [if_neg h1] at h
    by_cases h2 : p = 2
    · rw [if_pos h2] at h; exact hcore h (fun _ => by dsimp only; omega)
    rw [if_neg h2] at h
    by_cases h3 : p = 3
    · rw [if_pos h3] at h; exact hcore h (fun _ => by dsimp only; omega)
    rw [if_neg h3] at h
    by_cases h4 : p = 4
    · rw [if_pos h4] at h; exact hcore h (fun hx => by unfold coreX at hx; dsimp only; omega)
    · rw [if_neg h4] at h; cases h

/-! What moving flits leaves of a router: its registers count, and credits go back over the input's link (R156, R174 to R177). -/

/-- Of every router only the registers differ. -/
structure OnlyRegs (s t : State) : Prop where
  router : ∀ r, routerOf t r = { routerOf s r with regs := (routerOf t r).regs }

theorem OnlyRegs.credits {s t : State} (h : OnlyRegs s t) (r : Nat) : (routerOf t r).creditsUsed = (routerOf s r).creditsUsed := by
  rw [h.router]
theorem OnlyRegs.syncs {s t : State} (h : OnlyRegs s t) (r : Nat) : (routerOf t r).syncTimes = (routerOf s r).syncTimes := by
  rw [h.router]
theorem onlyRegs_of_routers {s t : State} (h : t.routers = s.routers) : OnlyRegs s t := ⟨fun r => by simp [routerOf, h]⟩
theorem OnlyRegs.trans {s t u : State} (h : OnlyRegs s t) (g : OnlyRegs t u) : OnlyRegs s u := ⟨fun r => by rw [g.router, h.router]⟩
theorem onlyRegs_setRreg (s : State) (r off v : Nat) : OnlyRegs s (setRreg s r off v) := by
  refine ⟨fun x => ?_⟩
  rw [setRreg, routerOf_updRouter]
  split
  · next e => rw [e]
  · rfl
theorem onlyRegs_bumpR (s : State) (r off hi lo n : Nat) : OnlyRegs s (bumpR s r off hi lo n) := by
  unfold bumpR
  split
  · exact onlyRegs_of_routers rfl
  · exact onlyRegs_setRreg ..
theorem onlyRegs_queueDepth (s : State) (r p vc : Nat) (n : Int) : OnlyRegs s (queueDepth s r p vc n) := onlyRegs_setRreg ..
theorem onlyRegs_moved (s : State) (m : List Hop) (r p vc : Nat) (n : Int) : OnlyRegs s (queueDepth { s with mesh := m } r p vc n) :=
  OnlyRegs.trans (t := { s with mesh := m }) (onlyRegs_of_routers rfl) (onlyRegs_queueDepth ..)
theorem onlyRegs_putFlits (s : State) (r p vc : Nat) (pkt : Packet) (n : Nat) (first : Bool) :
    OnlyRegs s (putFlits s r p vc pkt n first) := onlyRegs_moved ..
theorem onlyRegs_refill (s : State) (r b : Nat) : OnlyRegs s (refill s r b) := by
  unfold refill
  split
  · exact onlyRegs_putFlits ..
  · exact onlyRegs_of_routers rfl
theorem onlyRegs_countStalls (s : State) (r p vc n : Nat) : OnlyRegs s (countStalls s r p vc n) :=
  (onlyRegs_bumpR ..).trans (onlyRegs_bumpR ..)

/-- Credits go back to the router behind the input port, and so not to the packet's own router. -/
theorem creditBack_own (s : State) (h : Hop) (n : Nat) :
    (routerOf (creditBack s h n) h.router).creditsUsed = (routerOf s h.router).creditsUsed := by
  unfold creditBack
  split
  · next e he => rw [routerOf_updRouter_ne _ _ _ (linkEnd_ne he).symm]
  · rfl
theorem creditBack_syncs (s : State) (h : Hop) (n r : Nat) :
    (routerOf (creditBack s h n) r).syncTimes = (routerOf s r).syncTimes := by
  unfold creditBack
  split
  · rw [routerOf_updRouter]
    split
    · next e => rw [e]
    · rfl
  · rfl
theorem takeFlits_own (s : State) (h : Hop) (n : Nat) :
    (routerOf (takeFlits s h n) h.router).creditsUsed = (routerOf s h.router).creditsUsed := by
  unfold takeFlits
  dsimp only
  split
  · exact ((onlyRegs_moved ..).trans (onlyRegs_refill ..)).credits _
  · exact (creditBack_own ..).trans ((onlyRegs_moved ..).credits _)
theorem takeFlits_syncs (s : State) (h : Hop) (n r : Nat) :
    (routerOf (takeFlits s h n) r).syncTimes = (routerOf s r).syncTimes := by
  unfold takeFlits
  dsimp only
  split
  · exact ((onlyRegs_moved ..).trans (onlyRegs_refill ..)).syncs _
  · exact (creditBack_syncs ..).trans ((onlyRegs_moved ..).syncs _)

/-! Flits that leave a buffer, and those that an output takes. -/

theorem noRefill_of_mesh {s t : State} {h : Hop} (ht : t.mesh = s.mesh) (hr : noRefill s h) : noRefill t h := fun hp => by
  have := hr hp
  rwa [openHop, ← ht] at this
theorem mem_of_mem_replace {α : Type} [BEq α] {a b x : α} : ∀ {l : List α}, x ∈ l.replace a b → x ∈ l ∨ x = b
  | [], h => by cases h
  | y :: l, h => by
    rw [List.replace_cons] at h
    split at h
    · exact (List.mem_cons.1 h).symm.imp_left (List.mem_cons_of_mem y)
    · rcases List.mem_cons.1 h with h | h
      · exact .inl (h ▸ List.mem_cons_self)
      · exact (mem_of_mem_replace h).imp_left (List.mem_cons_of_mem y)
theorem openHop_replace {s t : State} {h h' : Hop} (ht : t.mesh = s.mesh.replace h h') {r p b : Nat} (hs : openHop s r p b = none)
    (hnew : inBuf r p b h' = true → behind h' = 0) : openHop t r p b = none := by
  simp only [openHop, List.find?_eq_none, ht] at hs ⊢
  intro x hx
  rcases mem_of_mem_replace hx with hx | rfl
  · exact hs x hx
  · simpa using hnew

/-- Flits of a packet leave its buffer, and no flits come in behind it. -/
theorem takeFlits_mesh_of_noRefill {s : State} {h : Hop} {n : Nat} (hr : noRefill s h) (hm : h ∈ s.mesh) (hn : n ≤ h.here) :
    (takeFlits s h n).mesh = if flitsOf h.pkt ≤ h.gone + n then s.mesh.erase h
      else s.mesh.replace h { h with here := h.here - n, gone := h.gone + n } := by
  by_cases hall : flitsOf h.pkt ≤ h.gone + n
  · rw [takeFlits_whole hr hall, if_pos hall]
  · by_cases hp : h.port = 0
    · have hclosed := hr hp
      have hlast : behind h = 0 := by
        have := List.find?_eq_none.1 hclosed h hm
        simpa [inBuf, hp] using this
      have hopen : openHop (queueDepth { s with mesh := s.mesh.replace h { h with here := h.here - n, gone := h.gone + n } } h.router
          h.port h.vc (-(n : Int))) h.router 0 (hopBuf h) = none :=
        openHop_replace (s := s) rfl hclosed (fun _ => by simp only [behind] at hlast ⊢; omega)
      unfold takeFlits
      simp only [if_pos hp, if_neg hall]
      rw [refill, hopen]
      rfl
    · rw [takeFlits_mesh s h n hp]

/-- The head of a packet goes out over a link: it stands last in the mesh, and its flits take credits of the output. -/
theorem putOut_linked {r p : Nat} {e : Nat × Nat} (he : linkEnd r p = some e) (s : State) (i vc : Nat) (pkt : Packet) (n : Nat) :
    (putOut s r i vc pkt n true p).mesh = s.mesh ++ [Hop.mk e.1 e.2 vc pkt n 0 false]
    ∧ getN 0 (routerOf (putOut s r i vc pkt n true p) r).creditsUsed (5 * p + bufOf vc (hOp (pHead pkt)))
      = getN 0 (routerOf s r).creditsUsed (5 * p + bufOf vc (hOp (pHead pkt))) + n := by
  have hcount : OnlyRegs s (countFlits s r p vc n) := onlyRegs_bumpR ..
  unfold putOut
  simp only [he]
  refine ⟨by rw [putFlits_head]; simp [countFlits], ?_⟩
  rw [(onlyRegs_putFlits ..).credits, routerOf_updRouter_self, getN_updN_self, routerOf_updRouter_self]
  exact congrArg (fun m => getN 0 m _ + n) (hcount.credits r)

/-! What an output lets go (R159). -/

/-- No more flits go than stand ready. -/
theorem quota_le_ready {s : State} {h : Hop} (hready : 1 ≤ flitsReady s h) : quota s h ≤ flitsReady s h := by
  refine List.foldlRecOn (motive := (· ≤ flitsReady s h)) (outsOf s h) _ (Nat.le_refl _) (fun n hn p _ => ?_)
  dsimp only
  split
  · split
    · exact hready
    · omega
  · split
    · omega
    · split <;> omega

theorem ready_of_wins {s : State} {h : Hop} (hw : wins s h = true) : 1 ≤ flitsReady s h := by
  simp only [wins, hopReady, Bool.and_eq_true, decide_eq_true_eq] at hw
  exact hw.1.2.1

end Sys2Proof.Machine
end

section
/-! PROOF. PACKET_ROUTE: a packet goes one hop on, waits or is refused, and the choice of an output (R152, R156, R159, R163, R166). -/

namespace Sys2Proof.Machine

/-! The packet that a command names. -/

/-- The packet at the head of a buffer is one in the mesh with the router, port, channel and packet that name it. -/
theorem headHop_some {s : State} {r p vc : Nat} {pkt : Packet} {h : Hop} (hh : headHop s r p vc pkt = some h) :
    h ∈ s.mesh ∧ h.router = r ∧ h.port = p ∧ h.vc = vc ∧ h.pkt = pkt := by
  have hnamed := List.find?_some hh
  simp only [Bool.and_eq_true, beq_iff_eq] at hnamed
  obtain ⟨⟨⟨⟨hr, hp⟩, hv⟩, hk⟩, -⟩ := hnamed
  exact ⟨List.mem_of_find?_eq_some hh, hr, hp, hv, hk⟩

/-! Flits that go over a link. -/

/-- With no uncorrectable error the code counts and may report, and the packet is as it was (R352). -/
theorem routerEcc_corrected {e : EccObs} (he : e.ue = []) (s : State) (h : Hop) : (routerEcc s h e).2 = h
    ∧ (routerEcc s h e).1.mesh = s.mesh ∧ OnlyRegs s (routerEcc s h e).1 ∧ memoriesKept s (routerEcc s h e).1 := by
  have hcounts : ∀ n k, OnlyRegs s (bumpR (bumpR s h.router 0x4D8 63 32 n) h.router 0x4D8 31 16 k)
      ∧ memoriesKept s (bumpR (bumpR s h.router 0x4D8 63 32 n) h.router 0x4D8 31 16 k) := fun n k =>
    ⟨(onlyRegs_bumpR ..).trans (onlyRegs_bumpR ..), onlyMesh_memories (onlyMesh_trans (onlyMesh_bumpR ..) (onlyMesh_bumpR ..))⟩
  unfold routerEcc
  simp only [he, List.isEmpty_nil, if_true]
  refine ⟨trivial, ?_⟩
  split
  · exact ⟨by simp, hcounts _ _⟩
  · obtain ⟨hregs, hmem⟩ := hcounts (e.ce1 + e.ce2) (([] : List Nat).map (· / 8)).eraseDups.length
    exact ⟨by simp, hregs.trans (onlyRegs_of_routers rfl), memoriesKept_trans hmem (memoriesKept_of_eq rfl rfl)⟩

/-- A packet's head and the flits behind it that are ready go over one link. -/
theorem sendFlits_linked {s : State} {h : Hop} {n p : Nat} {e : Nat × Nat} (he : linkEnd h.router p = some e) (hg : h.gone = 0)
    (hr : noRefill s h) (hm : h ∈ s.mesh) (hn : n ≤ h.here) :
    (sendFlits s h [p] n).mesh = (if flitsOf h.pkt ≤ n then s.mesh.erase h else s.mesh.replace h { h with here := h.here - n, gone := n })
      ++ [Hop.mk e.1 e.2 h.vc h.pkt n 0 false]
    ∧ getN 0 (routerOf (sendFlits s h [p] n) h.router).creditsUsed (5 * p + hopBuf h)
      = getN 0 (routerOf s h.router).creditsUsed (5 * p + hopBuf h) + n := by
  have hstall := countStalls_mesh s h.router p h.vc n
  have hleft := takeFlits_mesh_of_noRefill (noRefill_of_mesh hstall hr) (hstall ▸ hm) hn
  have hcredits := (takeFlits_own (countStalls s h.router p h.vc n) h n).trans ((onlyRegs_countStalls ..).credits _)
  obtain ⟨hmesh, hused⟩ := putOut_linked he (takeFlits (countStalls s h.router p h.vc n) h n) h.port h.vc h.pkt n
  simp only [sendFlits, List.foldl_cons, List.foldl_nil, hg, decide_true]
  rw [hleft, hstall, hg, Nat.zero_add] at hmesh
  rw [hcredits] at hused
  exact ⟨hmesh, hused⟩

/-! It goes on, waits or is stopped. -/

section
variable {r : RouterId} {inPort : PortIx} {vc : Vc} {pkt : Packet} {h : Hop} {s : State}
  (hok : pktOk pkt = true) (hh : headHop s r inPort vc pkt = some h) (hd : h.drop = false) (h4 : hOp (pHead pkt) ≠ 4)
  (h5 : hOp (pHead pkt) ≠ 5) (hp : routePort r (destRouter s (pHead pkt)) ≠ 0) (ecc : EccObs)
include hok hh hd h4 h5 hp

theorem exec_packetRoute_stopped {e : Nat × Nat}
    (hs : portStop s r inPort (routePort r (destRouter s (pHead pkt))) vc (pHead pkt) = some e) :
    exec (.packetRoute r inPort vc pkt ecc) s
      = .next (refusePacket (cutBelow s h (routePort r (destRouter s (pHead pkt)))) h e.1 e.2) := by
  have hdef : exec (.packetRoute r inPort vc pkt ecc) s = execPacketRoute r inPort vc pkt ecc s := rfl
  simp [hdef, execPacketRoute, hok, hh, hd, opMcast, opReduce, h4, h5, hp, hs]
theorem exec_packetRoute_waits (hs : portStop s r inPort (routePort r (destRouter s (pHead pkt))) vc (pHead pkt) = none)
    (hw : wins s h = false) :
    exec (.packetRoute r inPort vc pkt ecc) s = .next (creditStall s h (routePort r (destRouter s (pHead pkt)))) := by
  have hdef : exec (.packetRoute r inPort vc pkt ecc) s = execPacketRoute r inPort vc pkt ecc s := rfl
  simp [hdef, execPacketRoute, hok, hh, hd, opMcast, opReduce, h4, h5, hp, hs, hw]
theorem exec_packetRoute_goes (hs : portStop s r inPort (routePort r (destRouter s (pHead pkt))) vc (pHead pkt) = none)
    (hw : wins s h = true) :
    exec (.packetRoute r inPort vc pkt ecc) s = .next (sendFlits (routerEcc s h ecc).1 (routerEcc s h ecc).2
      [routePort r (destRouter s (pHead pkt))] (quota s h)) := by
  have hdef : exec (.packetRoute r inPort vc pkt ecc) s = execPacketRoute r inPort vc pkt ecc s := rfl
  simp [hdef, execPacketRoute, hok, hh, hd, opMcast, opReduce, h4, h5, hp, hs, hw]

/-- It goes over the link of dimension order, as many of its flits as the output lets go. -/
theorem packetRoute_hops {e : Nat × Nat} (hue : ecc.ue = [])
    (hs : portStop s r inPort (routePort r (destRouter s (pHead pkt))) vc (pHead pkt) = none) (hw : wins s h = true)
    (he : linkEnd r (routePort r (destRouter s (pHead pkt))) = some e) (hg : h.gone = 0) (hr : noRefill s h) :
    let p := routePort r (destRouter s (pHead pkt)); let b := bufOf vc (hOp (pHead pkt)); let n := quota s h
    answers (.packetRoute r inPort vc pkt ecc) s (fun t =>
      t.mesh = (if flitsOf pkt ≤ n then s.mesh.erase h else s.mesh.replace h { h with here := h.here - n, gone := n })
        ++ [Hop.mk e.1 e.2 vc pkt n 0 false]
      ∧ getN 0 (routerOf t r).creditsUsed (5 * p + b) = getN 0 (routerOf s r).creditsUsed (5 * p + b) + n ∧ memoriesKept s t) := by
  intro p b n
  obtain ⟨hm, hrouter, -, hvc, hpkt⟩ := headHop_some hh
  obtain ⟨hecc, hmesh, hregs, hmem⟩ := routerEcc_corrected hue s h
  have hlink : linkEnd h.router p = some e := hrouter.symm ▸ he
  have hready : flitsReady s h = h.here := by simp [flitsReady, opReduce, hpkt, h5]
  have hn : n ≤ h.here := hready ▸ quota_le_ready (ready_of_wins hw)
  obtain ⟨hsent, hused⟩ := sendFlits_linked (s := (routerEcc s h ecc).1) (n := n) hlink hg (noRefill_of_mesh hmesh hr)
    (hmesh ▸ hm) hn
  rw [hregs.credits, hrouter] at hused
  rw [hmesh] at hsent
  refine ⟨_, exec_packetRoute_goes hok hh hd h4 h5 hp ecc hs hw, ?_⟩
  beta_reduce
  rw [hecc]
  refine ⟨?_, ?_, memoriesKept_trans hmem (onlyMesh_memories (sendFlits_frame ..))⟩
  · rw [hsent, hpkt, hvc]
  · simpa only [hopBuf, hvc, hpkt] using hused
end

/-! It is refused (R163, R166, R167). -/

/-- The codes of a port that stops a packet. -/
theorem portStop_code {s : State} {r inPort p vc x : Nat} {e : Nat × Nat} (hs : portStop s r inPort p vc x = some e) :
    e.2 = 0x06 ∨ e.2 = 0x07 := by
  unfold portStop at hs
  split at hs
  · cases hs; exact .inl rfl
  · split_ifs at hs <;> cases hs <;> exact .inr rfl

theorem cutAt_frame : ∀ (n : Nat) (s : State) (r p b : Nat), onlyMesh s (cutAt n s r p b)
  | 0, s, _, _, _ => onlyMesh_refl s
  | n + 1, s, r, p, b => by
    have hfar : ∀ (t : State) (q : Nat),
        onlyMesh t (match linkEnd r q with | some e => cutAt n t e.1 e.2 b | none => t) := fun t q => by
      split
      · exact cutAt_frame n t _ _ b
      · exact onlyMesh_refl t
    unfold cutAt
    split
    · exact onlyMesh_refl s
    · exact onlyMesh_trans (onlyMesh_foldl _ hfar _ s) rfl
theorem cutBelow_frame (s : State) (h : Hop) (p : Nat) : onlyMesh s (cutBelow s h p) := by
  unfold cutBelow
  split
  · exact onlyMesh_refl s
  · split
    · exact cutAt_frame ..
    · exact onlyMesh_refl s

theorem routerBell_frame (s : State) (r p : Nat) : routerBell s r p = { s with ccs := (routerBell s r p).ccs } := by
  unfold routerBell
  split
  · exact (doorbellAt_frame ..).1
  · rfl
theorem errEvent_frame (s : State) (r p code : Nat) : errEvent s r p code = { s with events := (errEvent s r p code).events } := by
  unfold errEvent
  dsimp only
  split_ifs <;> rfl

/-- The error message of a packet that a port stops is one of type ERR with the code (R167, R168). -/
theorem errMessage_sends (s : State) (pkt : Packet) {code : Nat} (hc : code < 256) :
    memoriesKept s (errMessage s pkt code) ∧ ∃ m, (errMessage s pkt code).ctrl = s.ctrl ++ [m] ∧ mType m = 3 ∧ mArg m = code := by
  have hsrc : hSrc (pHead pkt) < 2 ^ 15 := bitsOf_lt ..
  refine ⟨memoriesKept_of_eq rfl rfl, _, rfl, ?_, ?_⟩
  · simp only [mType, msgWord, msgHeader, bitsOf, srcDie, srcCluster, srcCore, List.getD_cons_zero, BitVec.toNat_ofNat]
    simp only [Bool.false_eq_true, if_false]
    omega
  · simp only [mArg, msgWord, msgHeader, bitsOf, srcDie, srcCluster, srcCore, List.getD_cons_zero, BitVec.toNat_ofNat]
    simp only [Bool.false_eq_true, if_false]
    omega

/-- A refusal sends its error message, and touches no memory. -/
theorem answerRefusal_sends (s : State) (r p : Nat) (pkt : Packet) {code : Nat} (hc : code < 256) :
    memoriesKept s (answerRefusal s r p code pkt)
    ∧ ∃ m, (answerRefusal s r p code pkt).ctrl = s.ctrl ++ [m] ∧ mType m = 3 ∧ mArg m = code := by
  have hcount : ∀ (t : State) (c : Prop) [Decidable c] hi lo,
      onlyMesh t (if c then bumpR t r (0x4A0 + 8 * p) hi lo 1 else t) := fun t c _ hi lo => by
    split
    · exact onlyMesh_bumpR ..
    · exact onlyMesh_refl t
  have hcounts := onlyMesh_trans (hcount s (code = 0x06) 63 32) (hcount _ (code = 0x07) 31 16)
  unfold answerRefusal
  dsimp only
  generalize (if code = 0x07 then bumpR _ r (0x4A0 + 8 * p) 31 16 1 else _) = u at *
  obtain ⟨hmem, m, hctrl, htype, harg⟩ := errMessage_sends u pkt hc
  rw [routerBell_frame, errEvent_frame]
  refine ⟨memoriesKept_trans (onlyMesh_memories hcounts) (memoriesKept_trans hmem (memoriesKept_of_eq rfl rfl)), m, ?_, htype, harg⟩
  exact hctrl.trans (by rw [hcounts])

theorem refusePacket_sends (s : State) (h : Hop) (p : Nat) {code : Nat} (hc : code < 256) :
    memoriesKept s (refusePacket s h p code)
    ∧ ∃ m, (refusePacket s h p code).ctrl = s.ctrl ++ [m] ∧ mType m = 3 ∧ mArg m = code := by
  obtain ⟨hmem, m, hctrl, hm⟩ := answerRefusal_sends (discard s h) h.router p h.pkt hc
  exact ⟨memoriesKept_trans (onlyMesh_memories (discard_frame s h)) hmem, m, hctrl.trans (by rw [discard_frame s h]), hm⟩

/-! The choice of an output (R159). -/

/-- VC0 is served when its floor is due, else the highest of VC3, VC1 and VC2 that is ready, else VC0. -/
theorem outPick_order (s : State) (r p : Nat) :
    (∀ h, channelPick s r p 0 = some h → floorDue s r p = true → outPick s r p = some h)
    ∧ (floorDue s r p = false ∨ channelPick s r p 0 = none →
        (∀ h, channelPick s r p 3 = some h → outPick s r p = some h)
        ∧ (∀ h, channelPick s r p 3 = none → channelPick s r p 1 = some h → outPick s r p = some h)
        ∧ (∀ h, channelPick s r p 3 = none → channelPick s r p 1 = none → channelPick s r p 2 = some h → outPick s r p = some h))
    ∧ (∀ h, channelPick s r p 3 = none → channelPick s r p 1 = none → channelPick s r p 2 = none → channelPick s r p 0 = some h →
        outPick s r p = some h) := by
  have hupper : ∀ h, floorDue s r p = false ∨ channelPick s r p 0 = none → upperPick s r p = some h → outPick s r p = some h := by
    intro h hfloor hu
    unfold outPick
    rcases hfloor with hf | h0
    · split
      · simp [hf, hu]
      · exact hu
    · rw [h0]; exact hu
  refine ⟨fun h h0 hf => by simp [outPick, h0, hf], fun hfloor => ⟨fun h h3 => hupper h hfloor ?_, fun h h3 h1 => hupper h hfloor ?_,
    fun h h3 h1 h2 => hupper h hfloor ?_⟩, fun h h3 h1 h2 h0 => ?_⟩
  · simp [upperPick, h3]
  · simp [upperPick, h3, h1]
  · simp [upperPick, h3, h1, h2]
  · simp [outPick, upperPick, h0, h1, h2, h3]

/-- Settles O23: a packet whose output chooses it goes on, one that no output chooses waits, and one that a port stops is answered. -/
theorem packetsHop : Obligations.PacketsHop := by
  refine ⟨?_, outPick_order⟩
  intro r inPort vc pkt ecc h s p b n hok hh hd h4 h5 hp hue
  refine ⟨fun e hs hw he hg hr => ?_, fun hs hw => ?_, fun e hs => ?_⟩
  · exact packetRoute_hops hok hh hd h4 h5 hp ecc hue hs hw he hg hr
  · refine ⟨_, exec_packetRoute_waits hok hh hd h4 h5 hp ecc hs hw, ?_, onlyMesh_memories (creditStall_frame ..)⟩
    unfold creditStall
    split
    · exact bumpR_mesh ..
    · rfl
  · have hcode : e.2 < 256 := by rcases portStop_code hs with hc | hc <;> omega
    have hcut := cutBelow_frame s h p
    obtain ⟨hmem, m, hctrl, hm⟩ := refusePacket_sends (cutBelow s h p) h e.1 hcode
    exact ⟨_, exec_packetRoute_stopped hok hh hd h4 h5 hp ecc hs, memoriesKept_trans (onlyMesh_memories hcut) hmem, m,
      hctrl.trans (by rw [hcut]), hm⟩

end Sys2Proof.Machine
end

section
/-! PROOF. REDUCE_COMBINE: the contributions leave their buffers, and their sum goes on, lands or joins a sweep (R153, R164, R165, R202,
R257). -/

namespace Sys2Proof.Machine

/-! The contributions. -/

/-- Every contribution of an entry is a REDUCE packet of its tree. -/
theorem reduceHeads_tree {s : State} {r tree : Nat} {ports : List Nat} {hs : List Hop} (hheads : reduceHeads s r tree ports = hs.map some)
    {g : Hop} (hg : g ∈ hs) : hTree (pHead g.pkt) = tree := by
  have hmem : some g ∈ reduceHeads s r tree ports := hheads ▸ List.mem_map_of_mem hg
  obtain ⟨p, -, hp⟩ := List.mem_map.1 hmem
  have hfound := List.find?_some (Option.filter_eq_some_iff.1 hp).1
  simp only [Bool.and_eq_true, beq_iff_eq] at hfound
  exact hfound.2

theorem exec_reduceCombine {r : RouterId} {tree : Fin 64} {s : State} {h0 : Hop} {hs : List Hop}
    (hvalid : bitOf (mcEntry s r tree) 31 = true) (hreduce : bitOf (mcEntry s r tree) 30 = true)
    (hheads : reduceHeads s r tree (mcIn (mcEntry s r tree)) = (h0 :: hs).map some)
    (hhere : ∀ h ∈ reduceHere s r tree, h.drop = false ∧ h.port ∈ mcIn (mcEntry s r tree)) :
    exec (.reduceCombine r tree) s = .next (combine s r (h0 :: hs) h0) := by
  have hdef : exec (.reduceCombine r tree) s = execReduceCombine r tree s := rfl
  have hgone : (reduceHere s r tree).filter (fun h => h.drop) = [] :=
    List.filter_eq_nil_iff.2 (fun h hh => by simp [(hhere h hh).1])
  have hstray : (reduceHere s r tree).filter (fun h => !h.drop && (!bitOf (mcEntry s r tree) 31 || !bitOf (mcEntry s r tree) 30
      || !(mcIn (mcEntry s r tree)).contains h.port)) = [] :=
    List.filter_eq_nil_iff.2 (fun h hh => by simp [hvalid, hreduce, (hhere h hh).2])
  simp only [hdef, execReduceCombine, hgone, hstray, hheads]
  simp

/-- A contribution has the length and the channel of the first, is not poisoned, has all its flits to send and no others behind them,
and nothing stops it at the entry's output (R164, R165). -/
structure Contributes (s : State) (r out : Nat) (h0 h : Hop) : Prop where
  nbody  : hNbody (pHead h.pkt) = hNbody (pHead h0.pkt)
  vc     : h.vc = h0.vc
  clean  : h.pkt.poison = []
  whole  : h.gone = 0
  closed : noRefill s h
  passes : portStop s r h.port out h.vc (pHead h.pkt) = none

/-- The contributions leave their buffers and their sum goes out. -/
def combined (s : State) (r out : Nat) (hs : List Hop) (h0 : Hop) : State :=
  putOut (hs.foldl (takeFlits · · (quota s h0)) (countStalls s r out h0.vc (quota s h0))) r h0.port h0.vc (reducePacket hs)
    (quota s h0) true out

section
variable {s : State} {r : Nat} {h0 : Hop} {hs : List Hop}

theorem combined_frame (out : Nat) : onlyMesh s (combined s r out hs h0) :=
  onlyMesh_trans (countStalls_frame ..) (onlyMesh_trans (onlyMesh_foldl _ (fun t h => takeFlits_frame t h _) hs _) (putOut_frame ..))

/-- Whole packets leave the mesh one after another. -/
theorem takeAll_mesh {n : Nat} : ∀ {hs : List Hop} {s : State}, (∀ h ∈ hs, noRefill s h ∧ flitsOf h.pkt ≤ h.gone + n) →
    (hs.foldl (takeFlits · · n) s).mesh = hs.foldl List.erase s.mesh
  | [], _, _ => rfl
  | h :: hs, s, hall => by
    have hleft := takeFlits_whole (hall h List.mem_cons_self).1 (hall h List.mem_cons_self).2
    rw [List.foldl_cons, List.foldl_cons, takeAll_mesh (fun g hg => ?_), hleft]
    obtain ⟨hr, hn⟩ := hall g (List.mem_cons_of_mem h hg)
    exact ⟨fun hp => openHop_erase hleft (hr hp), hn⟩

variable {out : Nat} (hall : ∀ h ∈ hs, Contributes s r out h0 h) (hwhole : flitsOf h0.pkt ≤ quota s h0)
include hall hwhole

theorem taken_mesh : (hs.foldl (takeFlits · · (quota s h0)) (countStalls s r out h0.vc (quota s h0))).mesh
    = hs.foldl List.erase s.mesh := by
  have hstall := countStalls_mesh s r out h0.vc (quota s h0)
  rw [takeAll_mesh (fun h hh => ⟨noRefill_of_mesh hstall (hall h hh).closed, ?_⟩), hstall]
  have hlength := (hall h hh).nbody
  unfold flitsOf at hwhole ⊢
  omega
theorem combined_mesh_local (hl : out = 0) : (combined s r out hs h0).mesh = hs.foldl List.erase s.mesh := by
  subst hl
  rw [combined, putOut_local_mesh, taken_mesh hall hwhole]
theorem combined_mesh_linked {e : Nat × Nat} (he : linkEnd r out = some e) : (combined s r out hs h0).mesh
    = hs.foldl List.erase s.mesh ++ [Hop.mk e.1 e.2 h0.vc (reducePacket hs) (quota s h0) 0 false] := by
  rw [combined, (putOut_linked he ..).1, taken_mesh hall hwhole]
end

/-- Contributions that agree, that nothing stops and that the output chooses are combined; at the root their sum lands. -/
theorem combine_goes {s : State} {r : Nat} {h0 : Hop} {hs : List Hop} {out : Nat}
    (hout : (mcOut (mcEntry s r (hTree (pHead h0.pkt)))).headD 0 = out)
    (hall : ∀ h ∈ h0 :: hs, Contributes s r out h0 h)
    (hdest : out = 0 → destError (treeAddr r (pHead h0.pkt)) (extentOf (bodyGranules (reducePacket (h0 :: hs)))) false = none)
    (hw : wins s h0 = true) (hwhole : flitsOf h0.pkt ≤ quota s h0) :
    combine s r (h0 :: hs) h0 = if out = 0 then reduceLocal (combined s r out (h0 :: hs) h0) r (reducePacket (h0 :: hs))
      else combined s r out (h0 :: hs) h0 := by
  have hhead : pHead (reducePacket (h0 :: hs)) = pHead h0.pkt := rfl
  have hagree : (h0 :: hs).any (fun h => decide (hNbody (pHead h.pkt) ≠ hNbody (pHead h0.pkt)) || h.vc ≠ h0.vc) = false := by
    rw [List.any_eq_false]
    exact fun h hh => by simp [(hall h hh).nbody, (hall h hh).vc]
  have hpass : (h0 :: hs).findSome? (fun h => portStop s r h.port out h.vc (pHead h.pkt)) = none :=
    List.findSome?_eq_none_iff.2 (fun h hh => (hall h hh).passes)
  have hg := (hall h0 List.mem_cons_self).whole
  have hsum : flitsOf (reducePacket (h0 :: hs)) ≤ quota s h0 := hwhole
  unfold combine
  simp only [hhead, hout, hagree, hpass, hg, hw, combined]
  by_cases h : out = 0
  · simp [h, hdest h, hsum]
  · simp [h]

/-! The sum of the contributions. -/

theorem reducePacket_poison {hs : List Hop} (h : ∀ g ∈ hs, g.pkt.poison = []) : (reducePacket hs).poison = [] := by
  have hnone : hs.flatMap (fun g => g.pkt.poison) = [] := List.flatMap_eq_nil_iff.2 h
  simp [reducePacket, hnone]

/-! Bytes that land, whatever the length of the body: granules past its end are zero. -/

theorem getD_zeros (b : Bytes) (k i : Nat) : (b ++ zeros k).getD i 0#8 = b.getD i 0#8 := by
  simp only [List.getD_eq_getElem?_getD, List.getElem?_append, zeros, List.getElem?_replicate]
  split
  · rfl
  · rw [List.getElem?_eq_none (by omega)]
    split <;> rfl
theorem getD_sliceB (b : Bytes) (off n i : Nat) : (sliceB b off n).getD i 0#8 = if i < n then b.getD (off + i) 0#8 else 0#8 := by
  simp only [sliceB, List.getD_eq_getElem?_getD, List.getElem?_append, List.getElem?_replicate, List.length_take, List.length_drop,
    List.getElem?_take, List.getElem?_drop]
  by_cases hn : i < n
  · by_cases hb : off + i < b.length
    · rw [if_pos (by omega), if_pos hn, if_pos hn]
    · rw [if_neg (by omega), if_pos hn, List.getElem?_eq_none (l := b) (by omega)]
      split <;> rfl
  · rw [if_neg (by omega), if_neg hn]
    split <;> rfl
theorem sliceB_zeros (b : Bytes) (k off n : Nat) : sliceB (b ++ zeros k) off n = sliceB b off n := by
  refine List.ext_getElem (by simp) (fun i h1 h2 => ?_)
  have h := getD_sliceB (b ++ zeros k) off n i
  rw [getD_zeros, ← getD_sliceB] at h
  rwa [List.getD_eq_getElem _ _ h1, List.getD_eq_getElem _ _ h2] at h

/-- Granules of a body stand in the memory that an address names, and nothing else of the memories differs. -/
theorem landBytes_landedIn {s : State} {a cap : Nat} {m : MeshMem} (hm : meshMem a = some (m, cap)) (ha : aOff a % 8 = 0) (b : Bytes)
    (gs : List Nat) : landedIn s (landBytes s a b gs []) m (aOff a) b gs := by
  have hlong : ∀ g ∈ gs, 8 * g + 8 ≤ (b ++ zeros (8 * gs.sum + 8)).length := fun g hg => by
    have := List.single_le_sum (fun x _ => Nat.zero_le x) g hg
    simp only [List.length_append, zeros_length]
    omega
  have hbytes : landBytes s a (b ++ zeros (8 * gs.sum + 8)) gs [] = landBytes s a b gs [] := by
    simp only [landBytes, writeGranules, sliceB_zeros]
  obtain ⟨⟨hself, hpois⟩, hothers⟩ := landBytes_landed (s := s) hm ha hlong
  rw [hbytes] at hself hpois hothers
  exact ⟨⟨fun x => by rw [hself x, getD_zeros], hpois⟩, hothers⟩

/-! The address of a tree packet at a router's own core. -/

theorem treeAddr_mem {r : Nat} (hr : r < 16384) (x : Nat) :
    meshMem (treeAddr r x) = some (.spad r, Config.spadSize) ∧ aOff (treeAddr r x) = aOff (hAddr x) := by
  have hsite : siteOf r < 64 := by unfold siteOf coreY coreX; omega
  have hcl := clusterIn_lt r
  have hco := coreIn_lt r
  have hoff : aOff (hAddr x) < 2 ^ 38 := bitsOf_lt ..
  have hdie : aDie (treeAddr r x) = siteOf r := by simp only [aDie, treeAddr, mkAddr, bitsOf]; omega
  have hspace : aSpace (treeAddr r x) = 0 := by simp only [aSpace, treeAddr, mkAddr, bitsOf]; omega
  have hcluster : aCluster (treeAddr r x) = clusterIn r := by simp only [aCluster, treeAddr, mkAddr, bitsOf]; omega
  have hcore : aCore (treeAddr r x) = coreIn r := by simp only [aCore, treeAddr, mkAddr, bitsOf]; omega
  refine ⟨?_, by simp only [aOff, treeAddr, mkAddr, bitsOf] at hoff ⊢; omega⟩
  simp [meshMem, hdie, hspace, hcluster, hcore, hsite, coreAt_parts]

end Sys2Proof.Machine
end

section
/-! PROOF. The root of a reduction: its sum lands, its token is signalled, and the REDUCE commands of the tree are complete (R164, R202,
R257). -/

namespace Sys2Proof.Machine

/-! What the completion of a transfer touches. -/

/-- No memory that the mesh carries and no packet in it differs, and no core but one. -/
structure AtCore (c : Nat) (s t : State) : Prop where
  mesh   : t.mesh = s.mesh
  mems   : ∀ m, memOf t m = memOf s m
  others : ∀ d, d ≠ c → coreOf t d = coreOf s d

theorem atCore_refl (c : Nat) (s : State) : AtCore c s s := ⟨rfl, fun _ => rfl, fun _ _ => rfl⟩
theorem AtCore.trans {c : Nat} {s t u : State} (h : AtCore c s t) (g : AtCore c t u) : AtCore c s u :=
  ⟨g.mesh.trans h.mesh, fun m => (g.mems m).trans (h.mems m), fun d hd => (g.others d hd).trans (h.others d hd)⟩

theorem semOf_lt (s : State) (c k : Nat) : semOf s c k < 0x10000 := BitVec.isLt _
theorem LandsOn.atCore {n c : Nat} {s t : State} (h : LandsOn n s t) (ho : ∀ d, d ≠ c → coreOf t d = coreOf s d) : AtCore c s t :=
  ⟨h.mesh, h.mems, ho⟩
theorem atCore_updCore (s : State) (c : Nat) {f : CoreState → CoreState} (hm : ∀ v, (f v).spad = v.spad) (hs : ∀ v, (f v).sem = v.sem) :
    AtCore c s (updCore s c f) := (landsOn_updCore (semOf_lt s) c hm hs).atCore (fun _ hd => coreOf_updCore_ne _ _ _ hd)
theorem atCore_drainEnd (s : State) (c : Nat) : AtCore c s (drainEnd s c) :=
  (landsOn_drainEnd (semOf_lt s) c).atCore (drainEnd_frame s c).2.2.1
theorem atCore_finishToken {s : State} {c : Nat} (hfit : ∀ m, semOf s c m < 0xFFFF) (q index opc : Nat) (token : Option Nat) :
    AtCore c s (finishToken s c q index opc token) := by
  rw [finishToken_fits (fun m _ => hfit m)]
  cases token with
  | none => exact atCore_refl c s
  | some m => exact (landsOn_setSem (semOf_lt s) c m).atCore (fun _ hd => coreOf_updCore_ne _ _ _ hd)

/-- Bytes of a transfer that have landed touch its source's core, where there is room for its token. -/
theorem landed_atCore {s : State} {src : Nat} (hfit : ∀ m, semOf s (sourceCore src) m < 0xFFFF) (tid k : Nat) :
    AtCore (sourceCore src) s (landed s src tid k) := by
  unfold landed
  simp only
  split
  · exact atCore_refl _ s
  · split
    · exact atCore_refl _ s
    · split
      · exact atCore_updCore s _ (fun _ => rfl) (fun _ => rfl)
      · refine ((atCore_updCore s _ ?_ ?_).trans (atCore_finishToken (fun m => ?_) ..)).trans (atCore_drainEnd ..)
        · exact fun _ => rfl
        · exact fun _ => rfl
        · have := hfit m
          simpa [semOf] using this

/-! The REDUCE commands of a tree. -/

theorem sourceCore_coreSrc {c : Nat} : sourceCore (coreSrc c) = c := by
  have hcl := clusterIn_lt c
  have hco := coreIn_lt c
  have hdie : srcDie (coreSrc c) = siteOf c := by unfold srcDie coreSrc; omega
  have hcluster : srcCluster (coreSrc c) = clusterIn c := by unfold srcCluster coreSrc; omega
  have hcore : srcCore (coreSrc c) = coreIn c := by unfold srcCore coreSrc; omega
  rw [sourceCore, hdie, hcluster, hcore, coreAt_parts]

/-- A core's REDUCE command of the tree takes the n bytes that its reduction has landed. -/
def reduceLandedAt (root tree n : Nat) (s : State) (e : Nat × CoreState) : State :=
  if corePart s e.1 = corePart s root then
    match (coreOf s e.1).te.find? (fun t => t.opc == 0x73#8 && t.src == tree) with
    | some t => landed s (coreSrc e.1) t.tid.toNat n
    | none => s
  else s

theorem reduceLanded_eq (s : State) (root tree n : Nat) : reduceLanded s root tree n = s.cores.foldl (reduceLandedAt root tree n) s := rfl
theorem reduceLandedAt_atCore {s : State} {e : Nat × CoreState} (hfit : ∀ m, semOf s e.1 m < 0xFFFF) (root tree n : Nat) :
    AtCore e.1 s (reduceLandedAt root tree n s e) := by
  unfold reduceLandedAt
  split
  · split
    · have h := landed_atCore (s := s) (src := coreSrc e.1) (by rwa [sourceCore_coreSrc])
      rw [sourceCore_coreSrc] at h
      exact h ..
    · exact atCore_refl ..
  · exact atCore_refl ..

/-- One token for each of the cores, which are all different, fits. -/
theorem reduceLandedAt_all (root tree n : Nat) : ∀ (l : List (Nat × CoreState)) (s : State), l.Pairwise (fun a b => a.1 < b.1) →
    (∀ e ∈ l, ∀ m, semOf s e.1 m < 0xFFFF) → let t := l.foldl (reduceLandedAt root tree n) s
    t.mesh = s.mesh ∧ ∀ m, memOf t m = memOf s m
  | [], _, _, _ => ⟨rfl, fun _ => rfl⟩
  | e :: l, s, hl, hfit => by
    obtain ⟨hlt, hl⟩ := List.pairwise_cons.1 hl
    have hfirst := reduceLandedAt_atCore (hfit e List.mem_cons_self) root tree n
    obtain ⟨hmesh, hmems⟩ := reduceLandedAt_all root tree n l (reduceLandedAt root tree n s e) hl (fun f hf m => by
      rw [semOf, hfirst.others _ (Nat.ne_of_gt (hlt f hf))]
      exact hfit f (List.mem_cons_of_mem e hf) m)
    exact ⟨hmesh.trans hfirst.mesh, fun m => (hmems m).trans (hfirst.mems m)⟩
theorem reduceLanded_quiet {s : State} (hk : keysRise s.cores = true) (hfit : ∀ c m, semOf s c m < 0xFFFF) (root tree n : Nat) :
    (reduceLanded s root tree n).mesh = s.mesh ∧ ∀ m, memOf (reduceLanded s root tree n) m = memOf s m := by
  rw [reduceLanded_eq]
  exact reduceLandedAt_all root tree n s.cores s ((keysRise_iff _).1 hk) (fun e _ m => hfit e.1 m)

/-! The sum at the root. -/

/-- The token of the sum's head. -/
theorem landsOn_deliverToken {n : Nat} (hn : n ≤ 0xFFFF) {s : State} (h : ∀ c k, semOf s c k < n) (c k : Nat) (by_ : Option (Nat × Nat)) :
    LandsOn (n + 1) s (deliverToken s c k by_) ∧ (keysRise s.cores = true → keysRise (deliverToken s c k by_).cores = true) := by
  have hfit := h c k
  rw [deliverToken, signalSem_fits _ _ _ _ _ (by omega)]
  exact ⟨landsOn_setSem h c k, fun hk => keysRise_putN hk ..⟩

theorem landBytes_keysRise {s : State} {a cap r : Nat} (hm : meshMem a = some (.spad r, cap)) (hk : keysRise s.cores = true) (b : Bytes)
    (gs p : List Nat) : keysRise (landBytes s a b gs p).cores = true := by
  rw [landBytes, hm]
  exact keysRise_putN hk ..

/-- The sums of a sweep do not depend on packets and routers. -/
theorem sweepGathered_of_onlyMesh {s u : State} (h : onlyMesh s u) (r tree : Nat) (b : Bytes) (bad : Bool) :
    sweepGathered u r tree b bad = (sweepGathered s r tree b bad).map (fun v => { v with mesh := u.mesh, routers := u.routers }) := by
  have hrun : runJobAt u r = runJobAt s r := by rw [h]; rfl
  unfold sweepGathered
  rw [hrun]
  cases runJobAt s r with
  | none => rfl
  | some x =>
    obtain ⟨p, j⟩ := x
    simp only [Option.map_map]
    have hhub : ∀ draft, isHubOf u p j draft r = isHubOf s p j draft r := fun draft => by rw [h]; rfl
    simp only [hhub]
    congr 1
    funext w
    rw [Function.comp_apply, h]
    rfl

/-- A gathered sum changes sweeps alone. -/
theorem sweepGathered_frame {s v : State} {r tree : Nat} {b : Bytes} {bad : Bool} (h : sweepGathered s r tree b bad = some v) :
    v = { s with parts := v.parts } := by
  unfold sweepGathered at h
  split at h
  · cases h
  · obtain ⟨w, -, rfl⟩ := Option.map_eq_some_iff.1 h
    rfl

/-- A sum that no sweep gathers lands in the root's scratchpad, and nothing that follows changes a memory. -/
theorem reduceLocal_lands {s : State} {r : Nat} {sum : Packet} (hr : r < 16384) (hsem : roomySems s) (hk : keysRise s.cores = true)
    (hp : sum.poison = []) (hdest : destError (treeAddr r (pHead sum)) (extentOf (bodyGranules sum)) false = none)
    (hg : sweepGathered s r (hTree (pHead sum)) (sliceB sum.body 0 (8 * (bodyGranules sum).length)) false = none) :
    (reduceLocal s r sum).mesh = s.mesh
    ∧ landedIn s (reduceLocal s r sum) (.spad r) (aOff (hAddr (pHead sum))) sum.body (bodyGranules sum) := by
  obtain ⟨hmem, hoff⟩ := treeAddr_mem hr (pHead sum)
  obtain ⟨⟨hbytes, hpois⟩, hothers⟩ := landBytes_landedIn (s := s) hmem (destError_aligned hdest) sum.body (bodyGranules sum)
  obtain ⟨hmesh, hsems⟩ := landBytes_keeps s (treeAddr r (pHead sum)) sum.body (bodyGranules sum) []
  have hland : ∀ c m, semOf (landBytes s (treeAddr r (pHead sum)) sum.body (bodyGranules sum) []) c m < 0xFFFD := fun c m => by
    rw [hsems]; exact hsem c m
  have hrise := landBytes_keysRise hmem hk sum.body (bodyGranules sum) []
  rw [hoff] at hbytes hpois
  have hlocal : ∃ u, reduceLocal s r sum = reduceLanded u r (hTree (pHead sum)) (8 * (bodyGranules sum).length)
      ∧ LandsOn 0xFFFE (landBytes s (treeAddr r (pHead sum)) sum.body (bodyGranules sum) []) u ∧ keysRise u.cores = true := by
    simp only [reduceLocal, landPoison, hp, List.filter_nil, List.isEmpty_nil, Bool.not_true, hg]
    refine ⟨_, rfl, ?_⟩
    split
    · obtain ⟨htoken, hkeys⟩ := landsOn_deliverToken (by decide) hland r (hCtsem (pHead sum)) _
      exact ⟨htoken, hkeys hrise⟩
    · exact ⟨(landsOn_refl hland).mono (by decide), hrise⟩
  obtain ⟨u, hu, hon, hkeys⟩ := hlocal
  obtain ⟨hquiet, hkept⟩ := reduceLanded_quiet hkeys (fun c m => Nat.lt_of_lt_of_le (hon.sems c m) (by decide)) r (hTree (pHead sum))
    (8 * (bodyGranules sum).length)
  rw [hu]
  have hall : ∀ m, memOf (reduceLanded u r (hTree (pHead sum)) (8 * (bodyGranules sum).length)) m
      = memOf (landBytes s (treeAddr r (pHead sum)) sum.body (bodyGranules sum) []) m := fun m => (hkept m).trans (hon.mems m)
  refine ⟨hquiet.trans (hon.mesh.trans hmesh), ⟨fun x => ?_, fun q => ?_⟩, fun x hx => (hall x).trans (hothers x hx)⟩
  · rw [hall]; exact hbytes x
  · rw [hall]; exact hpois q

/-! The command. -/

section
variable {r : RouterId} {tree : Fin 64} {s : State} {h0 : Hop} {hs : List Hop} {out : Nat}
  (hvalid : bitOf (mcEntry s r tree) 31 = true) (hreduce : bitOf (mcEntry s r tree) 30 = true)
  (hheads : reduceHeads s r tree (mcIn (mcEntry s r tree)) = (h0 :: hs).map some)
  (hhere : ∀ h ∈ reduceHere s r tree, h.drop = false ∧ h.port ∈ mcIn (mcEntry s r tree))
  (hout : (mcOut (mcEntry s r tree)).headD 0 = out) (hall : ∀ h ∈ h0 :: hs, Contributes s r out h0 h)
  (hw : wins s h0 = true) (hwhole : flitsOf h0.pkt ≤ quota s h0)
include hvalid hreduce hheads hhere hout hall hw hwhole

/-- Over a link the sum stands last in the mesh. -/
theorem reduceCombine_sends {e : Nat × Nat} (hne : out ≠ 0) (he : linkEnd r out = some e) : answers (.reduceCombine r tree) s (fun t =>
    t.mesh = (h0 :: hs).foldl List.erase s.mesh ++ [Hop.mk e.1 e.2 h0.vc (reducePacket (h0 :: hs)) (quota s h0) 0 false]
    ∧ memoriesKept s t) := by
  have hexec := exec_reduceCombine hvalid hreduce hheads hhere
  rw [combine_goes (reduceHeads_tree hheads List.mem_cons_self ▸ hout) hall (fun h => absurd h hne) hw hwhole, if_neg hne] at hexec
  exact ⟨_, hexec, combined_mesh_linked hall hwhole he, onlyMesh_memories (combined_frame out)⟩

variable (hl : out = 0)
  (hdest : destError (treeAddr r (pHead (reducePacket (h0 :: hs)))) (extentOf (bodyGranules (reducePacket (h0 :: hs)))) false = none)
include hl hdest

theorem exec_reduceCombine_local : exec (.reduceCombine r tree) s
    = .next (reduceLocal (combined s r out (h0 :: hs) h0) r (reducePacket (h0 :: hs))) := by
  have hexec := exec_reduceCombine hvalid hreduce hheads hhere
  rwa [combine_goes (reduceHeads_tree hheads List.mem_cons_self ▸ hout) hall (fun _ => hdest) hw hwhole, if_pos hl] at hexec

/-- At the root a sum that no sweep gathers lands in the core's scratchpad. -/
theorem reduceCombine_lands (hr : r.val < 16384) (hsem : roomySems s) (hk : keysRise s.cores = true) : let sum := reducePacket (h0 :: hs)
    let x := pHead sum; let gs := bodyGranules sum
    sweepGathered s r (hTree x) (sliceB sum.body 0 (8 * gs.length)) false = none →
    answers (.reduceCombine r tree) s (fun t => t.mesh = (h0 :: hs).foldl List.erase s.mesh
      ∧ wroteGranules (coreOf s r).spad (coreOf t r).spad (aOff (hAddr x)) sum.body gs
      ∧ (∀ d, d ≠ r.val → (coreOf t d).spad = (coreOf s d).spad) ∧ ∀ k, (clOf t k).vault = (clOf s k).vault) := by
  intro sum x gs hgather
  have hframe : onlyMesh s (combined s r out (h0 :: hs) h0) := combined_frame out
  have hfree : sweepGathered (combined s r out (h0 :: hs) h0) r (hTree x) (sliceB sum.body 0 (8 * gs.length)) false = none := by
    rw [sweepGathered_of_onlyMesh hframe, hgather]; rfl
  obtain ⟨hmesh, hland⟩ := reduceLocal_lands (s := combined s r out (h0 :: hs) h0) (sum := sum) hr
    (fun c m => by rw [semOf, hframe.coreOf_eq]; exact hsem c m) (by rw [hframe.cores_eq]; exact hk)
    (reducePacket_poison (fun h hh => (hall h hh).clean)) hdest hfree
  obtain ⟨hwrote, hothers⟩ := landedIn_of_onlyMesh hframe hland
  refine ⟨_, exec_reduceCombine_local hvalid hreduce hheads hhere hout hall hw hwhole hl hdest,
    hmesh.trans (combined_mesh_local hall hwhole hl), hwrote, fun d hd => hothers (.spad d) (fun h => hd (MeshMem.spad.inj h)),
    fun k => hothers (.vault k) nofun⟩

/-- At the hub the sum joins the sums of the sweep that it is for (R257). -/
theorem reduceCombine_gathers {u : State} : let sum := reducePacket (h0 :: hs); let x := pHead sum; let gs := bodyGranules sum
    sweepGathered s r (hTree x) (sliceB sum.body 0 (8 * gs.length)) false = some u →
    answers (.reduceCombine r tree) s (fun t => t.mesh = (h0 :: hs).foldl List.erase s.mesh ∧ t.parts = u.parts ∧ memoriesKept s t) := by
  intro sum x gs hgather
  have hframe : onlyMesh s (combined s r out (h0 :: hs) h0) := combined_frame out
  have hlocal : reduceLocal (combined s r out (h0 :: hs) h0) r sum
      = { u with mesh := (combined s r out (h0 :: hs) h0).mesh, routers := (combined s r out (h0 :: hs) h0).routers } := by
    have hclean : sum.poison = [] := reducePacket_poison (fun h hh => (hall h hh).clean)
    have hjoins := sweepGathered_of_onlyMesh hframe r (hTree x) (sliceB sum.body 0 (8 * gs.length)) false
    rw [hgather] at hjoins
    simp only [reduceLocal, landPoison, hclean, List.filter_nil, List.isEmpty_nil, Bool.not_true]
    rw [hjoins]
    rfl
  refine ⟨_, exec_reduceCombine_local hvalid hreduce hheads hhere hout hall hw hwhole hl hdest, ?_⟩
  beta_reduce
  rw [hlocal]
  refine ⟨combined_mesh_local hall hwhole hl, rfl, ?_⟩
  rw [sweepGathered_frame hgather]
  exact memoriesKept_of_eq rfl rfl
end

end Sys2Proof.Machine
end

section
/-! PROOF. LINK_RESYNC: both senders of a link count as used the flits that stand behind them (R155, R355). -/

namespace Sys2Proof.Machine

/-! Flits in a buffer (R156). -/

/-- A packet that stands in its own place with no more flits adds none to any buffer. -/
theorem flits_replace_le {f : Hop → Bool} {h h' : Hop} (hin : f h' = f h) (hle : h'.here ≤ h.here) : ∀ l : List Hop,
    (((l.replace h h').filter f).map (fun x => x.here)).sum ≤ ((l.filter f).map (fun x => x.here)).sum
  | [] => Nat.le_refl _
  | x :: l => by
    rw [List.replace_cons]
    by_cases hx : x = h
    · subst hx
      rw [beq_self_eq_true]
      simp only [List.filter_cons, hin]
      split
      · simpa using hle
      · exact Nat.le_refl _
    · rw [beq_false_of_ne (Ne.symm hx)]
      simp only [List.filter_cons]
      split
      · simpa using flits_replace_le hin hle l
      · exact flits_replace_le hin hle l
theorem flitsIn_replace_le {s t : State} {h h' : Hop} (ht : t.mesh = s.mesh.replace h h') (hin : ∀ r p b, inBuf r p b h' = inBuf r p b h)
    (hle : h'.here ≤ h.here) (r p b : Nat) : flitsIn t r p b ≤ flitsIn s r p b := by
  rw [flitsIn, ht]; exact flits_replace_le (hin r p b) hle s.mesh
theorem flitsIn_erase_le {s t : State} {h : Hop} (ht : t.mesh = s.mesh.erase h) (r p b : Nat) : flitsIn t r p b ≤ flitsIn s r p b := by
  rw [flitsIn, ht]
  exact ((List.erase_sublist.filter _).map _).sum_le_sum (fun _ _ => Nat.zero_le _)
theorem flitsIn_of_mesh {s t : State} (h : t.mesh = s.mesh) (r p b : Nat) : flitsIn t r p b = flitsIn s r p b := by
  rw [flitsIn, h]; rfl

/-! The flit that is lost with its word. -/

/-- It leaves its buffer, and its packet's others are to leave; nothing joins a buffer, and no resynchronisation is forgotten. -/
theorem loseFlit_effect (s : State) (r : Nat) {p : Nat} (hp : p ≠ 0) (lost : Option (Vc × Packet)) : onlyMesh s (loseFlit s r p lost)
    ∧ (lost = none → loseFlit s r p lost = s) ∧ (∀ q i b, flitsIn (loseFlit s r p lost) q i b ≤ flitsIn s q i b)
    ∧ ∀ q, (routerOf (loseFlit s r p lost) q).syncTimes = (routerOf s q).syncTimes := by
  have hsame : onlyMesh s s ∧ (lost = none → s = s) ∧ (∀ q i b, flitsIn s q i b ≤ flitsIn s q i b)
      ∧ ∀ q, (routerOf s q).syncTimes = (routerOf s q).syncTimes :=
    ⟨onlyMesh_refl s, fun _ => rfl, fun _ _ _ => Nat.le_refl _, fun _ => rfl⟩
  unfold loseFlit
  split
  · exact hsame
  · next f =>
    split
    · exact hsame
    · next h hh =>
      have hport : h.port ≠ 0 := by
        have hfound := List.find?_some hh
        simp only [Bool.and_eq_true, beq_iff_eq] at hfound
        rw [hfound.1.1.1.2]; exact hp
      have hmesh := takeFlits_mesh { s with mesh := s.mesh.replace h { h with drop := true } } { h with drop := true } 1 hport
      have hmarked := flitsIn_replace_le (s := s) (t := { s with mesh := s.mesh.replace h { h with drop := true } }) rfl
        (fun _ _ _ => rfl) (Nat.le_refl _)
      refine ⟨onlyMesh_trans (t := { s with mesh := s.mesh.replace h { h with drop := true } }) rfl (takeFlits_frame ..), nofun,
        fun q i b => Nat.le_trans ?_ (hmarked q i b), fun q => takeFlits_syncs ..⟩
      split at hmesh
      · exact flitsIn_erase_le hmesh q i b
      · exact flitsIn_replace_le hmesh (fun _ _ _ => rfl) (Nat.sub_le ..) q i b

/-! The credits that the words name. -/

theorem bufSize_le (r b : Nat) : bufSize r b ≤ 64 := by unfold bufSize; split_ifs <;> decide
/-- A resynchronisation word carries the free flits of its buffer. -/
theorem sbFree_resyncWord {b free : Nat} (hb : b < 5) (hf : free < 256) : sbFree (resyncWord b free) = free := by
  unfold sbFree resyncWord bitsOf
  obtain rfl | rfl | rfl | rfl | rfl : b = 0 ∨ b = 1 ∨ b = 2 ∨ b = 3 ∨ b = 4 := by omega
  all_goals omega

theorem getN_foldl_putN (g : Nat → Nat) (k : Nat) (m : List (Nat × Nat)) {b : Nat} : ∀ {n : Nat}, b < n →
    getN 0 ((List.range n).foldl (fun m b => putN m (k + b) (g b)) m) (k + b) = g b
  | n + 1, hb => by
    rw [List.range_succ, List.foldl_append, List.foldl_cons, List.foldl_nil]
    by_cases h : b = n
    · rw [h, getN_putN_self]
    · rw [getN_putN_ne _ _ (by omega), getN_foldl_putN g k m (by omega)]

theorem takeCredits_frame (s : State) (r p : Nat) : onlyMesh s (takeCredits s r p) ∧ (takeCredits s r p).mesh = s.mesh := by
  unfold takeCredits
  split
  · exact ⟨onlyMesh_refl s, rfl⟩
  · exact ⟨onlyMesh_updRouter .., rfl⟩
theorem takeCredits_syncs (s : State) (r p q : Nat) : (routerOf (takeCredits s r p) q).syncTimes = (routerOf s q).syncTimes := by
  unfold takeCredits
  split
  · rfl
  · rw [routerOf_updRouter]
    split
    · next e => rw [e]
    · rfl
theorem takeCredits_other (s : State) (p : Nat) {r q : Nat} (hq : q ≠ r) : routerOf (takeCredits s r p) q = routerOf s q := by
  unfold takeCredits
  split
  · rfl
  · exact routerOf_updRouter_ne _ _ _ hq

/-- The sender counts as used what stands in each buffer behind its output. -/
theorem takeCredits_used {s : State} {r p b : Nat} {e : Nat × Nat} (he : linkEnd r p = some e) (hb : b < 5)
    (hfit : flitsIn s e.1 e.2 b ≤ bufSize e.1 b) :
    getN 0 (routerOf (takeCredits s r p) r).creditsUsed (5 * p + b) = flitsIn s e.1 e.2 b := by
  have hsize := bufSize_le e.1 b
  have hroom : roomIn s e.1 e.2 b = bufSize e.1 b - flitsIn s e.1 e.2 b := rfl
  unfold takeCredits
  simp only [he, routerOf_updRouter_self]
  rw [getN_foldl_putN (fun b => bufSize e.1 b - sbFree (resyncWord b (roomIn s e.1 e.2 b))) (5 * p) _ hb,
    sbFree_resyncWord hb (by omega)]
  omega

/-! Both ends of the link. -/

/-- The link's words: both ends' counts are taken again, the event is raised, and no packet and no memory changes. -/
theorem resyncLink_effect {s : State} {r p : Nat} {e : Nat × Nat} (he : linkEnd r p = some e)
    (hfit : ∀ q i b, flitsIn s q i b ≤ bufSize q b) : let t := resyncLink s r p e
    (t.mesh = s.mesh ∧ memoriesKept s t ∧ t.units = s.units ∧ ∃ x, t.events = s.events ++ [x] ∧ x.code = 0x3031#16)
    ∧ (∀ q, (routerOf t q).syncTimes = (routerOf s q).syncTimes)
    ∧ (∀ b, b < 5 → getN 0 (routerOf t r).creditsUsed (5 * p + b) = flitsIn s e.1 e.2 b)
    ∧ (linkEnd e.1 e.2 = some (r, p) → ∀ b, b < 5 → getN 0 (routerOf t e.1).creditsUsed (5 * e.2 + b) = flitsIn s r p b) := by
  obtain ⟨hnear, hnearMesh⟩ := takeCredits_frame s r p
  obtain ⟨hfar, hfarMesh⟩ := takeCredits_frame (takeCredits s r p) e.1 e.2
  generalize ha : takeCredits (takeCredits s r p) e.1 e.2 = a at hfar hfarMesh
  generalize hc : bumpR (bumpR a r 0x4D8 15 0 1) e.1 0x4D8 15 0 1 = c
  have hcounted : OnlyRegs a c := hc ▸ (onlyRegs_bumpR ..).trans (onlyRegs_bumpR ..)
  have hcMesh : c.mesh = a.mesh := by rw [← hc, bumpR_mesh, bumpR_mesh]
  have hframe : onlyMesh s c :=
    onlyMesh_trans hnear (onlyMesh_trans hfar (hc ▸ onlyMesh_trans (onlyMesh_bumpR ..) (onlyMesh_bumpR ..)))
  have ht : resyncLink s r p e = routerBell (raise c 0x3031 1 (linkUnit r p) (routerRep r) []) r p := by
    rw [← hc, ← ha]; rfl
  have hrouters : ∀ q, routerOf (resyncLink s r p e) q = routerOf c q := fun q => by rw [ht, routerBell_frame]; rfl
  dsimp only
  simp only [hrouters]
  refine ⟨⟨?_, ?_, ?_, ?_⟩, fun q => ?_, fun b hb => ?_, fun hback b hb => ?_⟩
  · rw [ht, routerBell_frame]; exact hcMesh.trans (hfarMesh.trans hnearMesh)
  · rw [ht, routerBell_frame]; exact memoriesKept_trans (onlyMesh_memories hframe) (memoriesKept_of_eq rfl rfl)
  · rw [ht, routerBell_frame]; exact (congrArg State.units hframe :)
  · obtain ⟨x, hx, hcode⟩ := raise_appends c 0x3031 1 (linkUnit r p) (routerRep r) []
    refine ⟨x, ?_, hcode⟩
    rw [ht, routerBell_frame]
    exact hx.trans (by rw [hframe])
  · rw [hcounted.syncs, ← ha, takeCredits_syncs, takeCredits_syncs]
  · rw [hcounted.credits, ← ha, takeCredits_other _ _ (linkEnd_ne he).symm]
    exact takeCredits_used he hb (hfit ..)
  · have hsame := flitsIn_of_mesh hnearMesh r p b
    rw [hcounted.credits, ← ha, takeCredits_used hback hb (hsame ▸ hfit ..)]
    exact hsame

/-- A word with an error resynchronises its link, where the third within 1 s does not fence it. -/
theorem exec_linkResync {r : RouterId} {port : PortIx} {word : BitVec 24} {bad : Bool} {lost : Option (Vc × Packet)} {e : Nat × Nat}
    {s u : State} (he : linkEnd r port = some e) (hbad : bad = true ∨ sbBad word.toNat = true)
    (hu : u = resyncLink (loseFlit s r port lost) r port e)
    (hfew : ((routerOf u r).syncTimes.filter (fun t => t.1 == port.val && decide (u.units < t.2 + unitsPerSec))).length < 2) :
    exec (.linkResync r ⟨port, word, bad, lost⟩) s
      = .next (updRouter u r (fun t => { t with syncTimes := t.syncTimes ++ [(port.val, u.units)] })) := by
  have hdef : exec (.linkResync r ⟨port, word, bad, lost⟩) s = execLinkResync r ⟨port, word, bad, lost⟩ s := rfl
  have hcounts : (!bad && !sbBad word.toNat) = false := by rcases hbad with h | h <;> simp [h]
  have hthird : ¬ 3 ≤ ((routerOf u r).syncTimes ++ [(port.val, u.units)] |>.filter
      (fun t => t.1 == port.val && decide (u.units < t.2 + unitsPerSec))).length := by
    rw [List.filter_append, List.length_append]
    have := List.length_filter_le (fun t : Nat × Nat => t.1 == port.val && decide (u.units < t.2 + unitsPerSec)) [(port.val, u.units)]
    simp only [List.length_singleton] at this
    omega
  rw [hdef, execLinkResync]
  simp only [he, hcounts, ← hu, routerOf_updRouter_self, updRouter_units, if_neg hthird]
  rfl

theorem linkResync_resynchronises {r : RouterId} {port : PortIx} {word : BitVec 24} {bad : Bool} {lost : Option (Vc × Packet)}
    {e : Nat × Nat} {s : State} (he : linkEnd r port = some e) (hbad : bad = true ∨ sbBad word.toNat = true)
    (hfew : ((routerOf s r).syncTimes.filter (fun t => t.1 == port.val && decide (s.units < t.2 + unitsPerSec))).length < 2)
    (hfit : ∀ q i b, flitsIn s q i b ≤ bufSize q b) :
    answers (.linkResync r ⟨port, word, bad, lost⟩) s (fun t => memoriesKept s t
      ∧ (lost = none → t.mesh = s.mesh)
      ∧ (∀ b, b < 5 → getN 0 (routerOf t r).creditsUsed (5 * port + b) = flitsIn t e.1 e.2 b)
      ∧ (linkEnd e.1 e.2 = some (r.val, port.val) →
          ∀ b, b < 5 → getN 0 (routerOf t e.1).creditsUsed (5 * e.2 + b) = flitsIn t r port b)
      ∧ ∃ x xs, t.events = s.events ++ x :: xs ∧ x.code = 0x3031#16) := by
  have hport : port.val ≠ 0 := fun h => by rw [h, linkEnd_local] at he; cases he
  obtain ⟨hlose, hnone, hless, hsyncs⟩ := loseFlit_effect s r hport lost
  obtain ⟨⟨hmesh, hmem, hunits, x, hx, hcode⟩, hkept, hnear, hfar⟩ :=
    resyncLink_effect he (fun q i b => Nat.le_trans (hless q i b) (hfit q i b))
  generalize hu : resyncLink (loseFlit s r port lost) r port e = u at *
  have hnow : u.units = s.units := hunits.trans (by rw [hlose])
  refine ⟨_, exec_linkResync he hbad hu.symm (by rw [hkept, hsyncs, hnow]; exact hfew), memoriesKept_trans (onlyMesh_memories hlose)
    (memoriesKept_trans hmem (onlyMesh_memories (onlyMesh_updRouter ..))), fun hn => ?_, fun b hb => ?_, fun hback b hb => ?_, x, [],
    hx.trans (by rw [hlose]), hcode⟩
  · exact hmesh.trans (by rw [hnone hn])
  · rw [routerOf_updRouter_self]
    exact (hnear b hb).trans (flitsIn_of_mesh hmesh ..).symm
  · rw [routerOf_updRouter_ne _ _ _ (linkEnd_ne he)]
    exact (hfar hback b hb).trans (flitsIn_of_mesh hmesh ..).symm

/-- Settles O26: contributions that the output chooses leave together, and their sum goes on, lands or is gathered; an uncorrectable
word takes the credits of both ends of its link again. -/
theorem reductionsCombineAndLinksResynchronise : Obligations.ReductionsCombineAndLinksResynchronise := by
  refine ⟨?_, fun r port word bad lost e s he => ⟨fun hb hw => ?_, fun hbad hfew hfit => linkResync_resynchronises he hbad hfew hfit⟩⟩
  · intro r tree s hs h0 v out sum hvalid hreduce hheads hfirst heach hw hwhole hk hhere
    obtain ⟨t, rfl⟩ := List.head?_eq_some_iff.1 hfirst
    have hall : ∀ h ∈ h0 :: t, Contributes s r out h0 h := fun h hh => by
      obtain ⟨hbody, hvc, hclean, hgone, hclosed, hpass⟩ := heach h hh
      exact ⟨hbody, hvc, hclean, hgone, hclosed, hpass⟩
    exact ⟨fun e hne he => reduceCombine_sends hvalid hreduce hheads hhere rfl hall hw hwhole hne he,
      fun hl hr hsem hdest hg => reduceCombine_lands hvalid hreduce hheads hhere rfl hall hw hwhole hl hdest hr hsem hk hg,
      fun u hl _ hdest hg => reduceCombine_gathers hvalid hreduce hheads hhere rfl hall hw hwhole hl hdest hg⟩
  · have hdef : exec (.linkResync r ⟨port, word, bad, lost⟩) s = execLinkResync r ⟨port, word, bad, lost⟩ s := rfl
    rw [leaves, hdef, execLinkResync]
    simp [he, hb, hw]

end Sys2Proof.Machine
end

section
/-! PROOF. The sequencer's own commands (R127, R183, R190, R200, R201, R210, R212): each body as it completes, and what the core and its
semaphores and registers are after it. -/

namespace Sys2Proof.Machine

/-! A command that the sequencer looks at (R183, R188). -/

/-- A legal command of the opcode that the sequencer looks at. -/
theorem seqAt_iff (s : State) (c o : Nat) : seqAt s c o = true ↔ seqLive s c = true ∧ fetchFault s c = none
    ∧ wOpc (nextWord s c) = o ∧ wordIllegal (nextWord s c) = false := by
  simp only [seqAt, Bool.and_eq_true, beq_iff_eq, Bool.not_eq_true', Option.isNone_iff_eq_none, and_assoc]

section
variable {s t : State} {c o : Nat} {body : State → Nat → EngRes} (h : seqAt s c o = true)
include h

/-- What a sequencer command's body comes to is what running it comes to. -/
theorem runSeq_eq : runSeq s c o body = match body s (nextWord s c) with
    | .hold => s
    | .wait t => t
    | .left t => t
    | .fail t code operand => failCommand t c 0 (coreOf s c).cmdIndex.toNat code o operand
    | .done t => settled t c 0 o (coreOf s c).cmdIndex.toNat (ownToken (nextWord s c)) := by
  obtain ⟨hlive, hfetch, hopc, hlegal⟩ := (seqAt_iff ..).1 h
  simp only [runSeq, hlive, hfetch, hopc, hlegal, Bool.not_true, Bool.false_eq_true, if_false, Option.isSome_none, ne_eq, not_true]
    <;> rfl

/-- A body that is done completes its command. -/
theorem seqCompletes_of_body {instr : Instr} {P : State → Prop} (hexec : exec instr s = .next (runSeq s c o body))
    (hb : body s (nextWord s c) = .done t) (hP : P t) : seqCompletes instr s c o P :=
  ⟨t, by rw [hexec, runSeq_eq h, hb], hP⟩

/-- A body that fails records the failure of its command. -/
theorem runSeq_fails {instr : Instr} {code operand : Nat} (hexec : exec instr s = .next (runSeq s c o body))
    (hb : body s (nextWord s c) = .fail t code operand) :
    exec instr s = .next (failCommand t c 0 (coreOf s c).cmdIndex.toNat code o operand) := by
  rw [hexec, runSeq_eq h, hb]
end

/-! The core that a sequencer command leaves. -/

/-- The sequencer goes on, and nothing but its core differs. -/
theorem coreBecomes_advance (s : State) (c : Nat) : coreBecomes s (updCore s c advance) c (passed (coreOf s c)) :=
  ⟨onlyCore_updCore .., coreOf_updCore_self ..⟩

/-- A semaphore is set, the sequencer goes on, and nothing but its core differs. -/
theorem coreBecomes_setSem (s : State) (c n : Nat) {x : Nat} (hx : x ≤ 0xFFFF) : let t := updCore (setSem s c n x) c advance
    coreBecomes s t c { passed (coreOf s c) with sem := (coreOf t c).sem } ∧ semOf t c n = x
      ∧ ∀ m, m ≠ n → semOf t c m = semOf s c m := by
  have hsem : ∀ m, semOf (updCore (setSem s c n x) c advance) c m = semOf (setSem s c n x) c m := fun m => by
    rw [semOf, coreOf_updCore_self]; rfl
  refine ⟨⟨onlyCore_trans (onlyCore_setSem ..) (onlyCore_updCore ..), ?_⟩, ?_, fun m hm => ?_⟩
  · rw [coreOf_updCore_self, setSem, coreOf_updCore_self]; rfl
  · rw [hsem, semOf_setSem_self, Nat.mod_eq_of_lt (by omega)]
  · rw [hsem, semOf_setSem_num _ _ _ _ hm]

theorem semOf_le (s : State) (c n : Nat) : semOf s c n ≤ 0xFFFF := by
  have := (getN 0#16 (coreOf s c).sem n).isLt
  rw [semOf]; omega

/-! NOP, WAIT, SIGNAL, FENCE and JUMP (R127, R190). -/

section
variable {c : CoreId} {s : State}

theorem nop_passes (h : seqAt s c 0x00 = true) :
    seqCompletes (.nop c) s c 0x00 (fun t => coreBecomes s t c (passed (coreOf s c))) :=
  seqCompletes_of_body h (body := fun s _ => .done (updCore s c advance)) rfl rfl (coreBecomes_advance s c)

/-- What WAIT comes to. -/
def waitBody (c : Nat) (s : State) (w : Nat) : EngRes :=
  if bitsOf w 79 64 ≤ semOf s c (bitsOf w 95 91)
  then .done (updCore (setSem s c (bitsOf w 95 91) (semOf s c (bitsOf w 95 91) - bitsOf w 79 64)) c advance)
  else .wait (updCore s c (fun v => { v with seqState := .waiting (Fin.ofNat 32 (bitsOf w 95 91)) }))
theorem exec_wait (c : CoreId) (s : State) : exec (.wait c) s = .next (runSeq s c 0x01 (waitBody c)) := rfl

theorem wait_passes (h : seqAt s c 0x01 = true) (hn : bitsOf (nextWord s c) 79 64 ≤ semOf s c (bitsOf (nextWord s c) 95 91)) :
    seqCompletes (.wait c) s c 0x01 (fun t => coreBecomes s t c { passed (coreOf s c) with sem := (coreOf t c).sem }
      ∧ semOf t c (bitsOf (nextWord s c) 95 91) = semOf s c (bitsOf (nextWord s c) 95 91) - bitsOf (nextWord s c) 79 64
      ∧ ∀ m, m ≠ bitsOf (nextWord s c) 95 91 → semOf t c m = semOf s c m) :=
  seqCompletes_of_body h (exec_wait c s) (if_pos hn) (coreBecomes_setSem s c _ (Nat.le_trans (Nat.sub_le ..) (semOf_le ..)))

theorem wait_waits (h : seqAt s c 0x01 = true) (hn : semOf s c (bitsOf (nextWord s c) 95 91) < bitsOf (nextWord s c) 79 64) :
    answers (.wait c) s (fun t => coreBecomes s t c
      { coreOf s c with seqState := .waiting (Fin.ofNat 32 (bitsOf (nextWord s c) 95 91)) }) := by
  have hbody : waitBody c s (nextWord s c) = .wait (updCore s c (fun v => { v with
      seqState := .waiting (Fin.ofNat 32 (bitsOf (nextWord s c) 95 91)) })) := if_neg (Nat.not_le.2 hn)
  exact ⟨_, by rw [exec_wait, runSeq_eq h, hbody], onlyCore_updCore .., coreOf_updCore_self ..⟩

/-- What SIGNAL comes to. -/
def signalBody (c : Nat) (s : State) (w : Nat) : EngRes :=
  let r := signalSem s c (bitsOf w 95 91) (bitsOf w 79 64) (some (0x02, (coreOf s c).cmdIndex.toNat))
  if r.2 then .fail r.1 eSemOverflow 0 else .done (updCore r.1 c advance)
theorem exec_signal (c : CoreId) (s : State) : exec (.signal c) s = .next (runSeq s c 0x02 (signalBody c)) := rfl

theorem signal_adds (h : seqAt s c 0x02 = true)
    (hn : semOf s c (bitsOf (nextWord s c) 95 91) + bitsOf (nextWord s c) 79 64 ≤ 0xFFFF) :
    seqCompletes (.signal c) s c 0x02 (fun t => coreBecomes s t c { passed (coreOf s c) with sem := (coreOf t c).sem }
      ∧ semOf t c (bitsOf (nextWord s c) 95 91) = semOf s c (bitsOf (nextWord s c) 95 91) + bitsOf (nextWord s c) 79 64
      ∧ ∀ m, m ≠ bitsOf (nextWord s c) 95 91 → semOf t c m = semOf s c m) :=
  seqCompletes_of_body h (exec_signal c s) (by simp only [signalBody, signalSem_fits _ _ _ _ _ hn]; rfl) (coreBecomes_setSem s c _ hn)

/-- The queues that a FENCE names are empty, and for the TEQ no transfer is under way. -/
def fenceClear (v : CoreState) (w : Nat) : Bool :=
  (!bitOf w 92 || v.meq.isEmpty) && (!bitOf w 93 || v.veq.isEmpty) && (!bitOf w 94 || v.seqe.isEmpty)
    && (!bitOf w 95 || v.teq.isEmpty) && (!bitOf w 95 || v.te.isEmpty)
theorem exec_fence (c : CoreId) (s : State) : exec (.fence c) s = .next (runSeq s c 0x03 (fun s w =>
    if fenceClear (coreOf s c) w then .done (updCore s c advance) else .hold)) := rfl
theorem fenceClear_iff (v : CoreState) (w : Nat) : fenceClear v w = true ↔ (bitOf w 92 = true → v.meq = [])
    ∧ (bitOf w 93 = true → v.veq = []) ∧ (bitOf w 94 = true → v.seqe = []) ∧ (bitOf w 95 = true → v.teq = [] ∧ v.te = []) := by
  simp only [fenceClear, Bool.and_eq_true, Bool.or_eq_true, Bool.not_eq_true', List.isEmpty_iff, ← imp_iff_not_or, and_assoc,
    ← Bool.not_eq_true, ← imp_and]

theorem fence_passes (h : seqAt s c 0x03 = true) (hq : fenceClear (coreOf s c) (nextWord s c) = true) :
    seqCompletes (.fence c) s c 0x03 (fun t => coreBecomes s t c (passed (coreOf s c))) :=
  seqCompletes_of_body h (exec_fence c s) (if_pos hq) (coreBecomes_advance s c)

theorem fence_holds (h : seqAt s c 0x03 = true) (hq : ¬ fenceClear (coreOf s c) (nextWord s c) = true) : leaves (.fence c) s := by
  rw [leaves, exec_fence, runSeq_eq h, if_neg hq]

/-- What JUMP comes to. -/
def jumpBody (c : Nat) (s : State) (w : Nat) : EngRes :=
  if !bitOf w 78 || semOf s c (bitsOf w 77 73) = 0 then jumpTo s c (bitsOf w 95 79)
  else .done (updCore (setSem s c (bitsOf w 77 73) (semOf s c (bitsOf w 77 73) - 1)) c advance)
theorem exec_jump (c : CoreId) (s : State) : exec (.jump c) s = .next (runSeq s c 0x04 (jumpBody c)) := rfl

theorem jump_goes (h : seqAt s c 0x04 = true) (hn : bitOf (nextWord s c) 78 = false ∨ semOf s c (bitsOf (nextWord s c) 77 73) = 0)
    (hin : (coreOf s c).window.toNat * 16 + bitsOf (nextWord s c) 95 79 * 16 < Config.spadSize) :
    seqCompletes (.jump c) s c 0x04 (fun t =>
      coreBecomes s t c (goTo (coreOf s c) (BitVec.ofNat 32 (bitsOf (nextWord s c) 95 79)))) := by
  have hbody : jumpBody c s (nextWord s c)
      = .done (updCore s c (fun v => goTo v (BitVec.ofNat 32 (bitsOf (nextWord s c) 95 79)))) := by
    rw [jumpBody, if_pos (by simpa using hn), jumpTo, if_neg (Nat.not_le.2 hin)]
  exact seqCompletes_of_body h (exec_jump c s) hbody ⟨onlyCore_updCore .., coreOf_updCore_self ..⟩

theorem jump_takes (h : seqAt s c 0x04 = true) (hb : bitOf (nextWord s c) 78 = true)
    (hn : 0 < semOf s c (bitsOf (nextWord s c) 77 73)) :
    seqCompletes (.jump c) s c 0x04 (fun t => coreBecomes s t c { passed (coreOf s c) with sem := (coreOf t c).sem }
      ∧ semOf t c (bitsOf (nextWord s c) 77 73) = semOf s c (bitsOf (nextWord s c) 77 73) - 1
      ∧ ∀ m, m ≠ bitsOf (nextWord s c) 77 73 → semOf t c m = semOf s c m) :=
  seqCompletes_of_body h (exec_jump c s) (by rw [jumpBody, if_neg (by simp [hb, Nat.ne_of_gt hn])])
    (coreBecomes_setSem s c _ (Nat.le_trans (Nat.sub_le ..) (semOf_le ..)))
end

/-- Settles O8: each command completes with its own core gone on, or with its semaphore set besides; a WAIT that lacks its count waits,
and a FENCE with work before it holds. -/
theorem sequencerCommandsAct : Obligations.SequencerCommandsAct := by
  intro c s v w sem n jsem target
  refine ⟨nop_passes, wait_passes, wait_waits, signal_adds, fun h hm hv hs ht => fence_passes h ((fenceClear_iff ..).2 ⟨hm, hv, hs, ht⟩),
    fun h hbusy => fence_holds h (fun hclear => ?_), jump_goes, jump_takes⟩
  obtain ⟨hm, hv, hs, ht⟩ := (fenceClear_iff ..).1 hclear
  rcases hbusy with ⟨hb, hq⟩ | ⟨hb, hq⟩ | ⟨hb, hq⟩ | ⟨hb, hq⟩
  · exact hq (hm hb)
  · exact hq (hv hb)
  · exact hq (hs hb)
  · exact hq.elim (fun h => h (ht hb).1) (fun h => h (ht hb).2)

end Sys2Proof.Machine
end

section
/-! PROOF. STEP, END, XSEL and XNEXT (R189, R190, R200, R201, R210, R212): step number, stop of issue and expert cursor. -/

namespace Sys2Proof.Machine

/-! Registers of a core that goes on. -/

/-- Going on changes no register and no semaphore. -/
theorem creg_advance (s : State) (c off : Nat) : creg (updCore s c advance) c off = creg s c off := by
  rw [creg, coreOf_updCore_self]; rfl
theorem semOf_advance (s : State) (c n : Nat) : semOf (updCore s c advance) c n = semOf s c n := by
  rw [semOf, coreOf_updCore_self]; rfl
theorem creg_setSem (s : State) (c n v off : Nat) : creg (setSem s c n v) c off = creg s c off := by simp [creg, setSem]
theorem semOf_setCreg (s : State) (c off v n : Nat) : semOf (setCreg s c off v) c n = semOf s c n := by simp [semOf, setCreg]

/-! STEP and END (R190, R210). -/

section
variable {c : CoreId} {s : State}

/-- The core after a STEP: the marks of the step that ends are gone (R91, R99). -/
def stepped (v : CoreState) : CoreState := { advance v with nfSeen := false, dupTaken := false, shdTaken := false }

theorem step_counts (h : seqAt s c 0x05 = true) : seqCompletes (.step c) s c 0x05 (fun t => onlyCore s t c
    ∧ creg t c 0x38 = (creg s c 0x38 + 1) % 2 ^ 64 ∧ (∀ off, off ≠ 0x38 → creg t c off = creg s c off)
    ∧ coreOf t c = { passed (coreOf s c) with regs := (coreOf t c).regs, nfSeen := false, dupTaken := false, shdTaken := false }) := by
  have hexec : exec (.step c) s
      = .next (runSeq s c 0x05 (fun s _ => .done (updCore (setCreg s c 0x38 (stepNum s c + 1)) c stepped))) := rfl
  have hregs : ∀ off, creg (updCore (setCreg s c 0x38 (stepNum s c + 1)) c stepped) c off
      = creg (setCreg s c 0x38 (stepNum s c + 1)) c off := fun off => by rw [creg, coreOf_updCore_self]; rfl
  refine seqCompletes_of_body h hexec rfl ⟨onlyCore_trans (onlyCore_setCreg ..) (onlyCore_updCore ..), ?_, fun off hoff => ?_, ?_⟩
  · rw [hregs, creg_setCreg_self]; rfl
  · rw [hregs, creg_setCreg_off _ _ _ _ hoff]
  · rw [coreOf_updCore_self, setCreg, coreOf_updCore_self]; rfl

theorem endCmd_ends (h : seqAt s c 0x06 = true) :
    seqCompletes (.endCmd c) s c 0x06 (fun t => coreBecomes s t c { passed (coreOf s c) with ending := true }) :=
  seqCompletes_of_body h (body := fun s _ => .done (updCore s c (fun v => { advance v with ending := true }))) rfl rfl
    ⟨onlyCore_updCore .., coreOf_updCore_self ..⟩
end

/-- With commands left in a queue, END waits for the end of them. -/
theorem drainEnd_waits {s : State} {c : Nat} (hq : (coreOf s c).meq ≠ [] ∨ (coreOf s c).veq ≠ [] ∨ (coreOf s c).seqe ≠ []
    ∨ (coreOf s c).teq ≠ []) : drainEnd s c = s := by
  rcases drainEnd_core s c with h | ⟨h1, h2, h3, h4, -⟩
  · exact h
  · exact absurd hq (by simp [h1, h2, h3, h4])

/-- With every queue empty, END stops the sequencer and signals the control core. -/
theorem drainEnd_ends {s : State} {c : Nat} (he : (coreOf s c).ending = true) (hm : (coreOf s c).meq = []) (hv : (coreOf s c).veq = [])
    (hs : (coreOf s c).seqe = []) (ht : (coreOf s c).teq = []) : drainEnd s c = doorbellAt (setCore s c { coreOf s c with
      run := false, ending := false, halting := false, seqState := .stopped }) (clusterOf c) (0x10 + coreIn c) 0 := by
  simp [drainEnd, he, hm, hv, hs, ht]

/-! XSEL and XNEXT (R189, R200, R201, R212). -/

/-- A table, a count and a position fit the cursor's register. -/
theorem xcurWord_lt {g n k : Nat} (hg : g < 2 ^ 18) (hn : n < 2 ^ 12) (hk : k < 2 ^ 12) : xcurWord g n k < 2 ^ 64 := by
  unfold xcurWord; omega

/-- A span that does not lie in the scratchpad reaches past its end. -/
theorem spadOver_of_not_inSpad {g len : Nat} (h : inSpad g len = false) : spadOver g len = true := by
  simp only [inSpad, decide_eq_false_iff_not, Nat.not_le] at h
  simp only [spadOver, decide_eq_true_eq, h]

section
variable {c : CoreId} {s : State}

/-- What XSEL comes to, once it has the entry count n of its table. -/
def xselFrom (c : Nat) (s : State) (w n : Nat) : EngRes :=
  if spadOver (bitsOf w 95 78) (8 * (1 + 5 * n)) then .fail s eSpadRange 1
  else
    let r := signalSem (setCreg s c 0x48 (xcurWord (bitsOf w 95 78) n 0)) c (bitsOf w 77 73) n (some (0x61, (coreOf s c).cmdIndex.toNat))
    if r.2 then .fail r.1 eSemOverflow 0 else .done (updCore r.1 c advance)
theorem exec_xsel (c : CoreId) (s : State) : exec (.xsel c) s = .next (runSeq s c 0x61 (fun s w =>
    opRead s c (bitsOf w 95 78) 8 1 (fun b => xselFrom c s w (leNat b % 2 ^ 12)))) := rfl

/-- XSEL of a table that lies in the scratchpad puts the cursor at its first entry and signals the entry count. -/
theorem xsel_selects (h : seqAt s c 0x61 = true) : let g := bitsOf (nextWord s c) 95 78; let sem := bitsOf (nextWord s c) 77 73
    let n := leNat (spadRead s c (8 * g) 8) % 4096
    readable s c g 8 = true → inSpad g (8 * (1 + 5 * n)) = true → semOf s c sem + n ≤ 0xFFFF →
    seqCompletes (.xsel c) s c 0x61 (fun t => onlyCore s t c
      ∧ coreOf t c = { passed (coreOf s c) with regs := (coreOf t c).regs, sem := (coreOf t c).sem }
      ∧ creg t c 0x48 = g * 2 ^ 46 + n * 2 ^ 34 ∧ (∀ off, off ≠ 0x48 → creg t c off = creg s c off)
      ∧ semOf t c sem = semOf s c sem + n ∧ ∀ m, m ≠ sem → semOf t c m = semOf s c m) := by
  intro g sem n hread hin hfit
  have hfit' : semOf (setCreg s c 0x48 (xcurWord g n 0)) c sem + n ≤ 0xFFFF := by rw [semOf_setCreg]; exact hfit
  have hbody : xselFrom c s (nextWord s c) n
      = .done (updCore (setSem (setCreg s c 0x48 (xcurWord g n 0)) c sem (semOf s c sem + n)) c advance) := by
    rw [xselFrom, if_neg (by rw [spadOver_of_inSpad hin]; decide), signalSem_fits _ _ _ _ _ hfit', semOf_setCreg]
    rfl
  obtain ⟨⟨hframe, hcore⟩, hsem, hsems⟩ := coreBecomes_setSem (setCreg s c 0x48 (xcurWord g n 0)) c sem hfit
  refine seqCompletes_of_body h (exec_xsel c s) ((opRead_ok _ _ _ _ _ _ hread).trans hbody)
    ⟨onlyCore_trans (onlyCore_setCreg ..) hframe, ?_, ?_, fun off hoff => ?_, hsem, fun m hm => (hsems m hm).trans (semOf_setCreg ..)⟩
  · rw [coreOf_updCore_self, setSem, coreOf_updCore_self, setCreg, coreOf_updCore_self]; rfl
  · have hlt : xcurWord g n 0 < 2 ^ 64 := xcurWord_lt (bitsOf_lt ..) (Nat.mod_lt _ (by decide)) (by decide)
    rw [creg_advance, creg_setSem, creg_setCreg_self, Nat.mod_eq_of_lt hlt, xcurWord, Nat.zero_mul, Nat.add_zero]
  · rw [creg_advance, creg_setSem, creg_setCreg_off _ _ _ _ hoff]

/-- One whose table reaches past the end fails. -/
theorem xsel_fails (h : seqAt s c 0x61 = true) : let g := bitsOf (nextWord s c) 95 78; let n := leNat (spadRead s c (8 * g) 8) % 4096
    readable s c g 8 = true → inSpad g (8 * (1 + 5 * n)) = false →
    exec (.xsel c) s = .next (failCommand s c 0 (coreOf s c).cmdIndex.toNat 0x21 0x61 1) := by
  intro g n hread hin
  have hover : spadOver g (8 * (1 + 5 * n)) = true := spadOver_of_not_inSpad hin
  have hbody : xselFrom c s (nextWord s c) n = .fail s eSpadRange 1 := by rw [xselFrom, if_pos hover]
  exact runSeq_fails h (exec_xsel c s) ((opRead_ok _ _ _ _ _ _ hread).trans hbody)

theorem exec_xnext (c : CoreId) (s : State) : exec (.xnext c) s = .next (runSeq s c 0x62 (fun s _ =>
    if xCount (creg s c 0x48) ≤ xPos (creg s c 0x48) then .fail s eDesc 0
    else .done (updCore (setCreg s c 0x48 (xcurWord (xTable (creg s c 0x48)) (xCount (creg s c 0x48)) (xPos (creg s c 0x48) + 1)))
      c advance))) := rfl

theorem xnext_goesOn (h : seqAt s c 0x62 = true) : let x := creg s c 0x48
    xPos x < xCount x → seqCompletes (.xnext c) s c 0x62 (fun t => onlyCore s t c
      ∧ coreOf t c = { passed (coreOf s c) with regs := (coreOf t c).regs }
      ∧ creg t c 0x48 = xTable x * 2 ^ 46 + xCount x * 2 ^ 34 + (xPos x + 1) * 2 ^ 22
      ∧ ∀ off, off ≠ 0x48 → creg t c off = creg s c off) := by
  intro x hpos
  have hcount : xCount x < 2 ^ 12 := bitsOf_lt ..
  have hlt : xcurWord (xTable x) (xCount x) (xPos x + 1) < 2 ^ 64 := xcurWord_lt (bitsOf_lt ..) hcount (by omega)
  refine seqCompletes_of_body h (exec_xnext c s) (if_neg (Nat.not_le.2 hpos))
    ⟨onlyCore_trans (onlyCore_setCreg ..) (onlyCore_updCore ..), ?_, ?_, fun off hoff => ?_⟩
  · rw [coreOf_updCore_self, setCreg, coreOf_updCore_self]; rfl
  · rw [creg_advance, creg_setCreg_self, Nat.mod_eq_of_lt hlt, xcurWord]
  · rw [creg_advance, creg_setCreg_off _ _ _ _ hoff]

theorem xnext_fails (h : seqAt s c 0x62 = true) (hpos : xCount (creg s c 0x48) ≤ xPos (creg s c 0x48)) :
    exec (.xnext c) s = .next (failCommand s c 0 (coreOf s c).cmdIndex.toNat 0x26 0x62 0) :=
  runSeq_fails h (exec_xnext c s) (if_pos hpos)
end

/-- Settles O9: STEP and END by the core that they leave, the end of END by its queues, XSEL and XNEXT by the cursor's register. -/
theorem stepsCountAndEndsStop : Obligations.StepsCountAndEndsStop := by
  refine ⟨fun c s => ⟨step_counts, endCmd_ends, fun _ hq _ => drainEnd_waits hq, fun he hm hv hs ht => ?_⟩,
    fun c s => ⟨xsel_selects, xsel_fails, xnext_goesOn, xnext_fails⟩⟩
  obtain ⟨hframe, hothers, hcc⟩ := doorbellAt_frame (setCore s c { coreOf s c with
    run := false, ending := false, halting := false, seqState := .stopped }) (clusterOf c) (0x10 + coreIn c) 0
  rw [drainEnd_ends he hm hv hs ht]
  refine ⟨by simp, fun d hd => by simp [coreOf_setCore_ne _ _ _ hd], rfl, hothers, ?_, ?_⟩
  · rw [hcc, ccDeliver_icu]; rfl
  · rw [hcc, ccDeliver_mem]; rfl

end Sys2Proof.Machine
end

section
/-! PROOF. Results in a core's scratchpad (R85, R123): a string of equal pieces as it is read and written, the padding of a last
half granule, and the vectors that a command takes. The commands of the VE and of the samplers are settled with these. -/

namespace Sys2Proof.Machine

/-! Strings of equal pieces. -/

theorem chunks_flatMap {α β : Type} {n : Nat} (hn : 0 < n) (f : α → List β) :
    ∀ l : List α, (∀ x ∈ l, (f x).length = n) → chunks n (l.flatMap f) = l.map f
  | [], _ => rfl
  | x :: l, h => by
    rw [List.flatMap_cons, chunks_append hn (h x (by simp)), chunks_flatMap hn f l (fun y hy => h y (by simp [hy])), List.map_cons]

/-- A read is the reads of its pieces. -/
theorem spadRead_flatMap (s : State) (c a k : Nat) :
    ∀ n, spadRead s c a (k * n) = (List.range n).flatMap (fun j => spadRead s c (a + k * j) k)
  | 0 => rfl
  | n + 1 => by
    rw [List.range_succ, List.flatMap_append, ← spadRead_flatMap s c a k n, List.flatMap_singleton, Nat.mul_succ]
    exact memRead_add ..
theorem chunks_spadRead (s : State) (c a n : Nat) {k : Nat} (hk : 0 < k) :
    chunks k (spadRead s c a (k * n)) = (List.range n).map (fun j => spadRead s c (a + k * j) k) := by
  rw [spadRead_flatMap]
  exact chunks_flatMap hk _ _ (fun _ _ => memRead_length ..)

/-- Where a read is a string of pieces, each of them stands at its place. -/
theorem spadRead_piece {t : State} {c a n k j : Nat} {f : Nat → Bytes} (hk : 0 < k)
    (h : spadRead t c a (k * n) = (List.range n).flatMap f) (hf : ∀ j, (f j).length = k) (hj : j < n) : spadRead t c (a + k * j) k = f j := by
  have hpieces := congrArg (chunks k) h
  rw [chunks_spadRead t c a n hk, chunks_flatMap hk f _ (fun j _ => hf j)] at hpieces
  exact List.map_inj_left.1 hpieces j (List.mem_range.2 hj)

/-- A slice of a read is a read of its own. -/
theorem sliceB_spadRead (s : State) (c a : Nat) {off k n : Nat} (h : off + k ≤ n) :
    sliceB (spadRead s c a n) off k = spadRead s c (a + off) k := by
  obtain ⟨r, rfl⟩ := Nat.exists_eq_add_of_le h
  have htake : ((spadRead s c a (off + k + r)).drop off).take k = spadRead s c (a + off) k := by
    rw [spadRead, Nat.add_assoc, memRead_add, List.drop_left' (memRead_length ..), memRead_add, List.take_left' (memRead_length ..)]
    rfl
  have hlen : (spadRead s c (a + off) k).length = k := memRead_length ..
  rw [sliceB, htake, hlen, Nat.sub_self, List.replicate_zero, List.append_nil]

theorem flatMap_range_length {f : Nat → Bytes} {k : Nat} (hf : ∀ j, (f j).length = k) (n : Nat) :
    ((List.range n).flatMap f).length = k * n := by
  rw [List.length_flatMap, sum_map_const (fun j _ => hf j), List.length_range, Nat.mul_comm]

theorem toF32s_spadRead (s : State) (c a n : Nat) :
    toF32s (spadRead s c a (4 * n)) = (List.range n).map (fun j => f32At s c (a + 4 * j)) := spadF32_eq s c n a
theorem toF32s_f32Bytes (ys : List F32) : toF32s (f32Bytes ys) = ys := by
  have hback : ∀ y : F32, BitVec.ofNat 32 (leNat (leBytes 4 y.toNat)) = y := fun y => by
    rw [leNat_leBytes, Nat.mod_eq_of_lt (show y.toNat < 256 ^ 4 from y.isLt), BitVec.ofNat_toNat, BitVec.setWidth_eq]
  rw [toF32s, f32Bytes, chunks_flatMap (by decide) _ _ (fun y _ => leBytes_length 4 y.toNat), List.map_map]
  exact (List.map_congr_left (fun y _ => hback y)).trans (List.map_id' ys)

/-! Writes. -/

theorem sameOutside_widen {m k : Mem} {lo n lo' n' : Nat} (h : sameOutside m k lo n) (hlo : lo' ≤ lo) (hn : lo + n ≤ lo' + n') :
    sameOutside m k lo' n' := by
  obtain ⟨hb, hp⟩ := h
  exact ⟨fun a ha => hb a (by omega), fun g hg => hp g (by omega)⟩
theorem wroteSpad_widen {s t : State} {c lo n lo' n' : Nat} (h : wroteSpad s t c lo n) (hlo : lo' ≤ lo) (hn : lo + n ≤ lo' + n') :
    wroteSpad s t c lo' n' := by
  obtain ⟨hframe, hother, hcore, hspad⟩ := h
  exact ⟨hframe, hother, hcore, sameOutside_widen hspad hlo hn⟩
theorem wroteSpad_refl (s : State) (c lo n : Nat) : wroteSpad s s c lo n := ⟨rfl, fun _ _ => rfl, rfl, sameOutside_refl ..⟩
theorem wroteSpad_trans {s t u : State} {c lo n : Nat} (h : wroteSpad s t c lo n) (g : wroteSpad t u c lo n) : wroteSpad s u c lo n := by
  obtain ⟨hframe, hother, hcore, hspad⟩ := h
  obtain ⟨gframe, gother, gcore, gspad⟩ := g
  refine ⟨?_, fun d hd => (gother d hd).trans (hother d hd), ?_, sameOutside_trans hspad gspad⟩
  · rw [gframe, hframe]
  · rw [gcore, hcore]

/-- A read apart from the range that was written answers as before. -/
theorem spadRead_of_wroteSpad {s t : State} {c lo n x k : Nat} (h : wroteSpad s t c lo n) (ha : x + k ≤ lo ∨ lo + n ≤ x) :
    spadRead t c x k = spadRead s c x k := by
  obtain ⟨-, -, -, hbytes, -⟩ := h
  exact cellsRead_congr (fun b hb hk => hbytes b (by omega))
/-- Granules apart from those that were written may be read where they could be. -/
theorem readable_of_wroteSpad {s t : State} {c lo n g k : Nat} (h : wroteSpad s t c (8 * lo) (8 * n))
    (ha : 8 * g + k ≤ 8 * lo ∨ 8 * lo + 8 * n ≤ 8 * g) : readable t c g k = readable s c g k := by
  obtain ⟨-, -, -, -, hpoison⟩ := h
  have hsame : spadPoisoned t c (8 * g) k = spadPoisoned s c (8 * g) k := by
    rw [spadPoisoned, spadPoisoned, Bool.eq_iff_iff, memPoisoned, memPoisoned, List.any_eq_true, List.any_eq_true]
    refine exists_congr (fun p => ?_)
    rw [List.contains_iff_mem, mem_granules]
    exact and_congr_left (fun ⟨hk, hlo, hhi⟩ => hpoison p (by omega))
  rw [readable, readable, hsame]

/-- A padded write is a write of whole granules that begin with its bytes. -/
theorem spadWritePadded_eq (s : State) (c a : Nat) (b : Bytes) : ∃ m pad, (b ++ pad).length = 8 * ceilDiv b.length 8
    ∧ spadWritePadded s c a b = spadWrite { s with free := m } c a (b ++ pad) := by
  by_cases h : b.length % 8 = 0
  · refine ⟨s.free, [], ?_, ?_⟩
    · rw [List.append_nil, ceilDiv]; omega
    · rw [spadWritePadded, if_pos h, List.append_nil]
  · refine ⟨s.free + (8 - b.length % 8), (freeBytes s (8 - b.length % 8)).1, ?_, ?_⟩
    · rw [List.length_append, freeBytes_length, ceilDiv]; omega
    · rw [spadWritePadded, if_neg h]; rfl
theorem wroteSpad_spadWritePadded (s : State) (c a : Nat) (b : Bytes) :
    wroteSpad s (spadWritePadded s c a b) c a (8 * ceilDiv b.length 8) := by
  obtain ⟨m, pad, hlen, heq⟩ := spadWritePadded_eq s c a b
  rw [heq, ← hlen]
  exact wroteSpad_spadWrite { s with free := m } c a (b ++ pad)
theorem spadRead_spadWritePadded (s : State) (c a : Nat) (b : Bytes) : spadRead (spadWritePadded s c a b) c a b.length = b := by
  obtain ⟨m, pad, -, heq⟩ := spadWritePadded_eq s c a b
  have hread := spadRead_spadWrite { s with free := m } c a (b ++ pad)
  rw [List.length_append, spadRead, memRead_add] at hread
  rw [heq]
  exact List.append_inj_left hread (memRead_length ..)

/-! Commands of an engine. -/

/-- A body that fails records the failure of its command. -/
theorem runEngine_fail {s t : State} {c q opc code operand : Nat} {body : State → Issued → Nat → EngRes} {i : Issued}
    (h : engAt s c q opc i = true) (hb : body s i i.word.toNat = .fail t code operand) :
    runEngine s c q opc body = failCommand t c q i.index.toNat code opc operand := by
  obtain ⟨h1, ⟨l, h2⟩, h3, h4⟩ := (engAt_iff ..).1 h
  simp [runEngine, h1, h2, h3, h4, hb]

/-- A body that is done completes its command. -/
theorem completes_of_body {instr : Instr} {s t : State} {c q o : Nat} {i : Issued} {body : State → Issued → Nat → EngRes}
    {P : State → Prop} (h : engAt s c q o i = true) (hexec : exec instr s = .next (runEngine s c q o body))
    (hb : body s i i.word.toNat = .done t) (hP : P t) : completes instr s c q o i P :=
  ⟨t, by rw [hexec, runEngine_done h hb], hP⟩

/-- A command whose result is n pieces of k bytes at a granule leaves them there, and writes no other granule. -/
theorem completes_pieces {instr : Instr} {s : State} {c q o m g n k : Nat} {i : Issued} {body : State → Issued → Nat → EngRes}
    {f : Nat → Bytes} {P : State → Prop} (h : engAt s c q o i = true) (hexec : exec instr s = .next (runEngine s c q o body))
    (hb : body s i i.word.toNat = .done (spadWritePadded { s with free := m } c (8 * g) ((List.range n).flatMap f)))
    (hk : 0 < k) (hf : ∀ j, (f j).length = k) (hP : ∀ t, (∀ j, j < n → spadRead t c (8 * g + k * j) k = f j) → P t) :
    completes instr s c q o i (fun t => wroteSpad s t c (8 * g) (8 * ceilDiv (k * n) 8) ∧ P t) := by
  have hlen := flatMap_range_length hf n
  have hwrote := wroteSpad_spadWritePadded { s with free := m } c (8 * g) ((List.range n).flatMap f)
  have hread := spadRead_spadWritePadded { s with free := m } c (8 * g) ((List.range n).flatMap f)
  rw [hlen] at hwrote hread
  exact completes_of_body h hexec hb ⟨hwrote, hP _ (fun j hj => spadRead_piece hk hread hf hj)⟩

/-- One whose result is a byte string of whole granules leaves it at its granule. -/
theorem completes_bytes {instr : Instr} {s : State} {c q o a : Nat} {i : Issued} {body : State → Issued → Nat → EngRes}
    {b : Bytes} (h : engAt s c q o i = true) (hexec : exec instr s = .next (runEngine s c q o body))
    (hb : body s i i.word.toNat = .done (spadWrite s c a b)) :
    completes instr s c q o i (fun t => wroteSpad s t c a b.length ∧ spadRead t c a b.length = b) :=
  completes_of_body h hexec hb ⟨wroteSpad_spadWrite .., spadRead_spadWrite ..⟩

/-- Granules of n FP32 values and of n BF16 values. -/
theorem ceilDiv_four_mul (n : Nat) : ceilDiv (4 * n) 8 = ceilDiv n 2 := by unfold ceilDiv; omega
theorem ceilDiv_two_mul (n : Nat) : ceilDiv (2 * n) 8 = ceilDiv n 4 := by unfold ceilDiv; omega

/-- n FP32 values written, padded, stand there. -/
theorem spadWritePadded_f32s (s : State) (c a : Nat) {n : Nat} {ys : List F32} (hn : ys.length = n) :
    let t := spadWritePadded s c a (f32Bytes ys)
    wroteSpad s t c a (8 * ceilDiv n 2) ∧ (List.range n).map (fun j => f32At t c (a + 4 * j)) = ys := by
  intro t
  have hlen : (f32Bytes ys).length = 4 * n := by rw [f32Bytes_length, hn]
  have hwrote := wroteSpad_spadWritePadded s c a (f32Bytes ys)
  have hread := spadRead_spadWritePadded s c a (f32Bytes ys)
  rw [hlen] at hwrote hread
  rw [← ceilDiv_four_mul]
  exact ⟨hwrote, by rw [← toF32s_spadRead, hread, toF32s_f32Bytes]⟩

/-- A command whose result is n FP32 values at a granule. -/
theorem completes_f32s {instr : Instr} {s : State} {c q o g n : Nat} {i : Issued} {body : State → Issued → Nat → EngRes}
    {ys : List F32} (h : engAt s c q o i = true) (hexec : exec instr s = .next (runEngine s c q o body)) (hn : ys.length = n)
    (hb : body s i i.word.toNat = .done (spadWritePadded s c (8 * g) (f32Bytes ys))) :
    completes instr s c q o i (fun t => wroteSpad s t c (8 * g) (8 * ceilDiv n 2)
      ∧ (List.range n).map (fun j => f32At t c (8 * g + 4 * j)) = ys) :=
  completes_of_body h hexec hb (spadWritePadded_f32s s c (8 * g) hn)

/-- One whose FP32 values are given element by element. -/
theorem completes_f32s_range {instr : Instr} {s : State} {c q o g n : Nat} {i : Issued} {body : State → Issued → Nat → EngRes}
    {y : Nat → F32} (h : engAt s c q o i = true) (hexec : exec instr s = .next (runEngine s c q o body))
    (hb : body s i i.word.toNat = .done (spadWritePadded s c (8 * g) (f32Bytes ((List.range n).map y)))) :
    completes instr s c q o i (fun t => wroteSpad s t c (8 * g) (8 * ceilDiv n 2) ∧ ∀ j, j < n → f32At t c (8 * g + 4 * j) = y j) := by
  obtain ⟨t, hrun, hwrote, hvals⟩ := completes_f32s h hexec (by rw [List.length_map, List.length_range]) hb
  exact ⟨t, hrun, hwrote, fun j hj => List.map_inj_left.1 hvals j (List.mem_range.2 hj)⟩

/-- Granules of one row of a table. -/
theorem apart_row {a b h slots k n : Nat} (ha : apart (8 * a) (8 * h * slots) (8 * b) (8 * h) = true) (hk : k < slots) (hn : n ≤ 8 * h) :
    8 * (a + k * h) + n ≤ 8 * b ∨ 8 * b + 8 * h ≤ 8 * (a + k * h) := by
  have hrow : (k + 1) * h ≤ slots * h := Nat.mul_le_mul_right h hk
  rw [Nat.succ_mul] at hrow
  have hlen : 8 * h * slots = 8 * (slots * h) := by rw [Nat.mul_assoc, Nat.mul_comm h]
  simp only [apart, hlen, Bool.or_eq_true, decide_eq_true_eq, beq_iff_eq] at ha
  omega

/-- Operands of a vector command that may be read are, element by element. -/
theorem vecOperand_ok (s : State) (c g n operand : Nat) (used scalar : Bool) (k : List F32 → EngRes)
    (h : operandOk s c g n used scalar = true) :
    vecOperand s c g n operand used scalar k = k ((List.range n).map (fun j => operandAt s c g j used scalar)) := by
  have hsame : ∀ x : F32, List.replicate n x = (List.range n).map (fun _ => x) := fun x => by
    rw [List.map_const', List.length_range]
  have hgranule : ∀ x : F32, (0 < n → x = f32At s c (8 * g)) →
      List.replicate n x = (List.range n).map (fun _ => f32At s c (8 * g)) := fun x hx => by
    rw [hsame]
    exact List.map_congr_left (fun j hj => hx (Nat.zero_lt_of_lt (List.mem_range.1 hj)))
  cases used with
  | false => exact congrArg k (hsame 0#32)
  | true =>
    cases scalar with
    | false =>
      refine Eq.trans (opRead_ok s c g (4 * n) operand (fun b => k (toF32s b)) h) (congrArg k ?_)
      exact toF32s_spadRead ..
    | true =>
      refine Eq.trans (opRead_ok s c g (if n = 0 then 0 else 8) operand
        (fun b => k (List.replicate n (BitVec.ofNat 32 (leNat b)))) h) (congrArg k (hgranule _ (fun hn => ?_)))
      rw [if_neg (Nat.ne_of_gt hn), f32_of_granule]

end Sys2Proof.Machine
end

section
/-! PROOF. VOP, VRED, VCVT, VNORM and ROPE (R85, R97, R98, R196 to R198, R242): each body on operands that may be read. -/

namespace Sys2Proof.Machine

section
variable {c : CoreId} {s : State} {i : Issued}

/-- A vector that may be read is an operand that may be. -/
theorem operandOk_vector {s : State} {c g n : Nat} (h : readable s c g (4 * n) = true) : operandOk s c g n true false = true := h

theorem leNat_leBytes_of_bitVec32 (x : F32) : leNat (leBytes 8 x.toNat) = x.toNat := by
  rw [leNat_leBytes]; exact Nat.mod_eq_of_lt (Nat.lt_trans x.isLt (by decide))

/-! VOP and VNORM: operands that may be scalars. -/

theorem vop_computes (h : engAt s c 2 0x40 i = true) : let w := i.word.toNat; let n := wN w; let m := wMod w
    let code := m % 64; let two := decide (2 ≤ vopArity code); let three := decide (3 ≤ vopArity code)
    operandOk s c (wA w) n true false = true → operandOk s c (wB w) n two (bitOf m 6) = true →
    operandOk s c (wC w) n three (bitOf m 7) = true → inSpad (wD w) (4 * n) = true →
    completes (.vop c) s c 2 0x40 i (fun t => wroteSpad s t c (8 * wD w) (8 * ceilDiv n 2)
      ∧ ∀ j, j < n → f32At t c (8 * wD w + 4 * j) = vopFun code (operandAt s c (wA w) j true false)
          (operandAt s c (wB w) j two (bitOf m 6)) (operandAt s c (wC w) j three (bitOf m 7))) := by
  intro w n m code two three hA hB hC hD
  refine completes_f32s_range (body := vopBody c) h rfl ?_
  rw [vopBody, vecOperand_ok _ _ _ _ _ _ _ _ hA, vecOperand_ok _ _ _ _ _ _ _ _ hB, vecOperand_ok _ _ _ _ _ _ _ _ hC,
    opRoom_ok _ _ _ _ _ hD, List.zip_map', List.zip_map', List.map_map]
  rfl

theorem vnorm_computes (h : engAt s c 2 0x43 i = true) : let w := i.word.toNat; let n := wN w; let m := wMod w
    readable s c (wA w) (4 * n) = true → operandOk s c (wB w) n true (bitOf m 6) = true →
    readable s c (wC w) 8 = true → inSpad (wD w) (4 * n) = true →
    completes (.vnorm c) s c 2 0x43 i (fun t => wroteSpad s t c (8 * wD w) (8 * ceilDiv n 2)
      ∧ (List.range n).map (fun j => f32At t c (8 * wD w + 4 * j))
          = vnorm ((List.range n).map (fun j => f32At s c (8 * wA w + 4 * j)))
              ((List.range n).map (fun j => operandAt s c (wB w) j true (bitOf m 6))) (f32At s c (8 * wC w))) := by
  intro w n m hA hB hC hD
  have hbody : vnormBody c s i w = .done (spadWritePadded s c (8 * wD w)
      (f32Bytes (vnorm ((List.range n).map (fun j => f32At s c (8 * wA w + 4 * j)))
        ((List.range n).map (fun j => operandAt s c (wB w) j true (bitOf m 6))) (f32At s c (8 * wC w))))) := by
    rw [vnormBody, vecOperand_ok _ _ _ _ _ _ _ _ (operandOk_vector hA), vecOperand_ok _ _ _ _ _ _ _ _ hB, opRead_ok _ _ _ _ _ _ hC,
      opRoom_ok _ _ _ _ _ hD, f32_of_granule]
    rfl
  exact completes_f32s h rfl (by simp [vnorm]) hbody

/-! VRED. -/

/-- The result of a reduction (R97). -/
def vredValue (m : Nat) (xs : List F32) : F32 := if m % 4 = 0 then sum32 xs else if m % 4 = 1 then sumsq32 xs else maxv32 xs

theorem vred_reduces (h : engAt s c 2 0x41 i = true) : let w := i.word.toNat; let n := wN w; let m := wMod w
    readable s c (wA w) (4 * n) = true → inSpad (wD w) 8 = true →
    completes (.vred c) s c 2 0x41 i (fun t => wroteSpad s t c (8 * wD w) 8
      ∧ let xs := (List.range n).map (fun j => f32At s c (8 * wA w + 4 * j))
        leNat (spadRead t c (8 * wD w) 8)
          = (if m % 4 = 0 then sum32 xs else if m % 4 = 1 then sumsq32 xs else maxv32 xs).toNat) := by
  intro w n m hA hD
  let r := vredValue m ((List.range n).map (fun j => f32At s c (8 * wA w + 4 * j)))
  have hbody : vredBody c s i w = .done (spadWrite s c (8 * wD w) (leBytes 8 r.toNat)) := by
    rw [vredBody, vecOperand_ok _ _ _ _ _ _ _ _ (operandOk_vector hA), opRoom_ok _ _ _ _ _ hD]
    rfl
  obtain ⟨t, hrun, hwrote, hread⟩ := completes_bytes (instr := .vred c) h rfl hbody
  rw [leBytes_length] at hwrote hread
  exact ⟨t, hrun, hwrote, by rw [hread, leNat_leBytes_of_bitVec32]; rfl⟩

/-! VCVT. -/

theorem vcvt_widens (h : engAt s c 2 0x42 i = true) : let w := i.word.toNat; let n := wN w; let m := wMod w
    m % 4 = 1 → readable s c (wA w) (2 * n) = true → inSpad (wD w) (4 * n) = true →
    completes (.vcvt c) s c 2 0x42 i (fun t => wroteSpad s t c (8 * wD w) (8 * ceilDiv n 2)
      ∧ ∀ j, j < n → f32At t c (8 * wD w + 4 * j)
          = canon32 (ofBf16 (BitVec.ofNat 16 (leNat (spadRead s c (8 * wA w + 2 * j) 2))))) := by
  intro w n m hm hA hD
  refine completes_f32s_range (body := vcvtBody c) h rfl ?_
  rw [vcvtBody, if_pos hm, opRead_ok _ _ _ _ _ _ hA, opRoom_ok _ _ _ _ _ hD, chunks_spadRead _ _ _ _ (by decide), List.flatMap_map,
    f32Bytes, List.flatMap_map]

/-- Value e as VCVT rounds it (R69, R85). -/
def narrowed (mode : Nat) (seed : W64) (stream free e : Nat) (x : F32) : BF16 :=
  match roundWord mode seed stream free e with
  | none => toBf16 x
  | some k => toBf16Stoch x k
theorem narrowed_nearest (seed : W64) (stream free e : Nat) (x : F32) : narrowed 0 seed stream free e x = toBf16 x := rfl
theorem narrowed_seeded (seed : W64) (stream free e : Nat) (x : F32) :
    narrowed 1 seed stream free e x = toBf16Stoch x (stochK seed stream e) := rfl
theorem narrowed_free (seed : W64) (stream free e : Nat) (x : F32) :
    ∃ k, k < 65536 ∧ narrowed 2 seed stream free e x = toBf16Stoch x k :=
  ⟨(Config.freeWord (free + e)).toNat / 65536, Nat.div_lt_of_lt_mul (Config.freeWord (free + e)).isLt, rfl⟩

/-- The bytes of the values that VCVT rounds are theirs one by one. -/
theorem narrowed_pieces (s : State) (c a n mode : Nat) (seed : W64) (stream free : Nat) :
    ((toF32s (spadRead s c a (4 * n))).mapIdx (narrowed mode seed stream free)).flatMap (fun x => leBytes 2 x.toNat)
    = (List.range n).flatMap (fun e => leBytes 2 (narrowed mode seed stream free e (f32At s c (a + 4 * e))).toNat) := by
  have hidx : (toF32s (spadRead s c a (4 * n))).mapIdx (narrowed mode seed stream free)
      = (List.range n).map (fun e => narrowed mode seed stream free e (f32At s c (a + 4 * e))) := by
    rw [toF32s_spadRead]
    exact List.ext_getElem (by simp) (fun e h1 h2 => by simp)
  rw [hidx, List.flatMap_map]

theorem vcvt_narrows (h : engAt s c 2 0x42 i = true) : let w := i.word.toNat; let n := wN w; let m := wMod w
    m % 4 = 0 → readable s c (wA w) (4 * n) = true → inSpad (wD w) (2 * n) = true →
    (m / 4 % 4 = 1 → readable s c (wC w) 16 = true) →
    completes (.vcvt c) s c 2 0x42 i (fun t => wroteSpad s t c (8 * wD w) (8 * ceilDiv n 4)
      ∧ ∀ j, j < n → let x := f32At s c (8 * wA w + 4 * j); let y := leNat (spadRead t c (8 * wD w + 2 * j) 2)
        (m / 4 % 4 = 0 → y = (toBf16 x).toNat)
        ∧ (m / 4 % 4 = 1 → y = (toBf16Stoch x (stochK (BitVec.ofNat 64 (leNat (spadRead s c (8 * wC w) 8)))
            (leNat (spadRead s c (8 * wC w + 8) 2)) j)).toNat)
        ∧ (m / 4 % 4 = 2 → ∃ k, k < 65536 ∧ y = (toBf16Stoch x k).toNat)) := by
  intro w n m hm hA hD hC
  let seed := BitVec.ofNat 64 (leNat (spadRead s c (8 * wC w) 8))
  let stream := leNat (spadRead s c (8 * wC w + 8) 2)
  have hval : ∀ (t : State) (j : Nat) (y : BF16), spadRead t c (8 * wD w + 2 * j) 2 = leBytes 2 y.toNat →
      leNat (spadRead t c (8 * wD w + 2 * j) 2) = y.toNat := fun t j y hy => by
    rw [hy, leNat_leBytes]; exact Nat.mod_eq_of_lt y.isLt
  have hm1 : ¬ m % 4 = 1 := by omega
  rw [← ceilDiv_two_mul]
  by_cases hmode : m / 4 % 4 = 1
  · have hbody : vcvtBody c s i w = .done (spadWritePadded s c (8 * wD w)
        ((List.range n).flatMap (fun e => leBytes 2 (narrowed 1 seed stream 0 e (f32At s c (8 * wA w + 4 * e))).toNat))) := by
      rw [vcvtBody, if_neg hm1, opRead_ok _ _ _ _ _ _ hA, opRoom_ok _ _ _ _ _ hD, if_pos hmode, opRead_ok _ _ _ _ _ _ (hC hmode), hmode,
        spadRead, spadRead, leAt_memRead _ _ (by decide), leAt_memRead _ _ (by decide), ← narrowed_pieces]
      rfl
    refine completes_pieces (m := s.free) h rfl hbody (by decide) (fun _ => leBytes_length ..) (fun t ht j hj => ⟨?_, ?_, ?_⟩)
    · exact fun h0 => absurd (hmode.symm.trans h0) (by decide)
    · exact fun _ => (hval t j _ (ht j hj)).trans (congrArg BitVec.toNat (narrowed_seeded ..))
    · exact fun h2 => absurd (hmode.symm.trans h2) (by decide)
  · have hbody : vcvtBody c s i w = .done (spadWritePadded { s with free := if m / 4 % 4 = 2 then s.free + n else s.free } c (8 * wD w)
        ((List.range n).flatMap (fun e => leBytes 2 (narrowed (m / 4 % 4) 0 0 s.free e (f32At s c (8 * wA w + 4 * e))).toNat))) := by
      rw [vcvtBody, if_neg hm1, opRead_ok _ _ _ _ _ _ hA, opRoom_ok _ _ _ _ _ hD, if_neg hmode, ← narrowed_pieces]
      by_cases h2 : m / 4 % 4 = 2
      · rw [if_pos h2, if_pos h2]; rfl
      · rw [if_neg h2, if_neg h2]; rfl
    refine completes_pieces h rfl hbody (by decide) (fun _ => leBytes_length ..) (fun t ht j hj => ⟨fun h0 => ?_, ?_, fun h2 => ?_⟩)
    · rw [hval t j _ (ht j hj), h0, narrowed_nearest]
    · exact fun h1 => absurd h1 hmode
    · obtain ⟨k, hk, heq⟩ := narrowed_free 0 0 s.free j (f32At s c (8 * wA w + 4 * j))
      exact ⟨k, hk, by rw [hval t j _ (ht j hj), h2, heq]⟩

/-! ROPE. -/

theorem ropeVector_length (pos : Nat) (freqs xs : List F32) : (ropeVector pos freqs xs).length = 64 := by
  simp [ropeVector, List.length_flatten, Function.comp_def]

theorem rope_rotates (h : engAt s c 2 0x44 i = true) : let w := i.word.toNat; let n := wN w
    readable s c (wA w) (256 * n) = true → readable s c (wB w) (4 * n) = true →
    readable s c (wC w) 128 = true → inSpad (wD w) (256 * n) = true →
    completes (.rope c) s c 2 0x44 i (fun t => wroteSpad s t c (8 * wD w) (256 * n)
      ∧ ∀ k, k < n → (List.range 64).map (fun j => f32At t c (8 * wD w + 256 * k + 4 * j))
          = ropeVector (leNat (spadRead s c (8 * wB w + 4 * k) 4)) ((List.range 32).map (fun j => f32At s c (8 * wC w + 4 * j)))
              ((List.range 64).map (fun j => f32At s c (8 * wA w + 256 * k + 4 * j)))) := by
  intro w n hA hB hC hD
  let rotated := fun k => ropeVector (leNat (spadRead s c (8 * wB w + 4 * k) 4))
    ((List.range 32).map (fun j => f32At s c (8 * wC w + 4 * j))) ((List.range 64).map (fun j => f32At s c (8 * wA w + 256 * k + 4 * j)))
  have hlen : ∀ k, (f32Bytes (rotated k)).length = 256 := fun k => by rw [f32Bytes_length, ropeVector_length]
  have hpiece : ∀ k ∈ List.range n, f32Bytes (ropeVector (leAt (spadRead s c (8 * wB w) (4 * n)) (4 * k) 4)
      (toF32s (spadRead s c (8 * wC w) 128)) (toF32s (sliceB (spadRead s c (8 * wA w) (256 * n)) (256 * k) 256)))
      = f32Bytes (rotated k) := fun k hk => by
    have hkn : k < n := List.mem_range.1 hk
    rw [sliceB_spadRead s c (8 * wA w) (by omega), spadRead, leAt_memRead _ _ (by omega), toF32s_spadRead s c (8 * wC w) 32,
      toF32s_spadRead s c _ 64]
    rfl
  have hbody : ropeBody c s i w = .done (spadWrite s c (8 * wD w) ((List.range n).flatMap (fun k => f32Bytes (rotated k)))) := by
    rw [ropeBody, opRead_ok _ _ _ _ _ _ hA, opRead_ok _ _ _ _ _ _ hB, opRead_ok _ _ _ _ _ _ hC, opRoom_ok _ _ _ _ _ hD]
    exact congrArg (fun b => EngRes.done (spadWrite s c (8 * wD w) b)) (List.flatMap_congr hpiece)
  obtain ⟨t, hrun, hwrote, hread⟩ := completes_bytes (instr := .rope c) h rfl hbody
  rw [flatMap_range_length hlen] at hwrote hread
  refine ⟨t, hrun, hwrote, fun k hk => ?_⟩
  rw [← toF32s_spadRead t c _ 64, spadRead_piece (by decide) hread hlen hk, toF32s_f32Bytes]

end

/-- Settles O15. -/
theorem vectorCommandsCompute : Obligations.VectorCommandsCompute :=
  fun _ _ _ => ⟨vop_computes, vred_reduces, vcvt_widens, vcvt_narrows, vnorm_computes, rope_rotates⟩

end Sys2Proof.Machine
end

section
/-! PROOF. RAND.C, RAND.H, TREAD and REDUCE.U (R207): results of given length, and the sum of the slots as it grows. -/

namespace Sys2Proof.Machine

section
variable {c : CoreId} {s : State} {i : Issued}

/-! RAND.C, RAND.H and TREAD. -/

theorem randC_generates (h : engAt s c 2 0xA0 i = true) : let w := i.word.toNat; let n := wN w
    readable s c (wC w) 16 = true → inSpad (wD w) (4 * n) = true →
    completes (.randC c) s c 2 0xA0 i (fun t => wroteSpad s t c (8 * wD w) (8 * ceilDiv n 2)
      ∧ ∀ j, j < n → leNat (spadRead t c (8 * wD w + 4 * j) 4)
          = (philox (BitVec.ofNat 64 (leNat (spadRead s c (8 * wC w) 8))) 0x05000000#32
              (BitVec.ofNat 32 (leNat (spadRead s c (8 * wC w + 8) 2))) (BitVec.ofNat 64 j)).toNat) := by
  intro w n hC hD
  let word := fun j => philox (BitVec.ofNat 64 (leNat (spadRead s c (8 * wC w) 8))) 0x05000000#32
    (BitVec.ofNat 32 (leNat (spadRead s c (8 * wC w + 8) 2))) (BitVec.ofNat 64 j)
  have hbody : randCBody c s i w
      = .done (spadWritePadded s c (8 * wD w) ((List.range n).flatMap (fun j => leBytes 4 (word j).toNat))) := by
    rw [randCBody, opRead_ok _ _ _ _ _ _ hC, opRoom_ok _ _ _ _ _ hD, spadRead, leAt_memRead _ _ (by decide), leAt_memRead _ _ (by decide)]
    rfl
  rw [← ceilDiv_four_mul]
  refine completes_pieces (m := s.free) h rfl hbody (by decide) (fun _ => leBytes_length ..) (fun t ht j hj => ?_)
  rw [ht j hj, leNat_leBytes]
  exact Nat.mod_eq_of_lt (word j).isLt

theorem randH_draws (h : engAt s c 2 0xA1 i = true) : let w := i.word.toNat; let n := wN w
    inSpad (wD w) (4 * n) = true →
    completes (.randH c) s c 2 0xA1 i (fun t => wroteSpad s t c (8 * wD w) (8 * ceilDiv n 2)) := by
  intro w n hD
  have hbody : randHBody c s i w = .done (spadWritePadded { s with free := s.free + 4 * n } c (8 * wD w) (freeBytes s (4 * n)).1) := by
    rw [randHBody, opRoom_ok _ _ _ _ _ hD]
    rfl
  have hwrote := wroteSpad_spadWritePadded { s with free := s.free + 4 * n } c (8 * wD w) (freeBytes s (4 * n)).1
  rw [freeBytes_length, ceilDiv_four_mul] at hwrote
  exact completes_of_body h rfl hbody hwrote

theorem tread_reads (h : engAt s c 4 0xA2 i = true) : let w := i.word.toNat
    inSpad (wA w) 8 = true → completes (.tread c) s c 4 0xA2 i (fun t => wroteSpad s t c (8 * wA w) 8
      ∧ leNat (spadRead t c (8 * wA w) 8) = localTime s (clusterOf c) % 2 ^ 64) := by
  intro w hA
  have hbody : treadBody c s i w = .done (spadWrite s c (8 * wA w) (leBytes 8 (localTime s (clusterOf c)))) := opRoom_ok _ _ _ _ _ hA
  obtain ⟨t, hrun, hwrote, hread⟩ := completes_bytes (instr := .tread c) h rfl hbody
  rw [leBytes_length] at hwrote hread
  exact ⟨t, hrun, hwrote, by rw [hread, leNat_leBytes]; rfl⟩
end

/-! REDUCE.U. -/

section
variable {c w : Nat} {s u : State}

/-- Element j of the sum of the first k slots (R207). -/
def slotSum (s : State) (c w j k : Nat) : F32 :=
  (List.range k).foldl (fun acc k => add32 acc (f32At s c (8 * (wA w + k * ceilDiv (wN w) 2) + 4 * j))) 0#32
theorem slotSum_succ (s : State) (c w j k : Nat) :
    slotSum s c w j (k + 1) = add32 (slotSum s c w j k) (f32At s c (8 * (wA w + k * ceilDiv (wN w) 2) + 4 * j)) := by
  rw [slotSum, List.range_succ, List.foldl_append]
  rfl

/-- The slots that the core's REDUCE.U has added; nothing else differs. -/
def withSlots (s : State) (c : Nat) (l : Option (List Nat)) : State := updCore s c (fun v => { v with reduceDone := l })
@[simp] theorem coreOf_withSlots (s : State) (c : Nat) (l : Option (List Nat)) :
    coreOf (withSlots s c l) c = { coreOf s c with reduceDone := l } := coreOf_updCore_self ..
theorem spadRead_withSlots (s : State) (c : Nat) (l : Option (List Nat)) (a n : Nat) :
    spadRead (withSlots s c l) c a n = spadRead s c a n := by rw [spadRead, coreOf_withSlots]; rfl
theorem wroteSpad_withSlots {lo n : Nat} {l : Option (List Nat)} (h : wroteSpad (withSlots s c l) u c lo n) (l' : Option (List Nat)) :
    wroteSpad (withSlots s c l') (withSlots u c l') c lo n := by
  obtain ⟨hframe, hother, hcore, hspad⟩ := h
  rw [coreOf_withSlots] at hcore hspad
  refine ⟨?_, fun d hd => ?_, ?_, ?_⟩
  · exact congrArg (fun x : State => { x with cores := (withSlots u c l').cores }) hframe
  · rw [withSlots, withSlots, coreOf_updCore_ne _ _ _ hd, coreOf_updCore_ne _ _ _ hd, hother d hd, withSlots, coreOf_updCore_ne _ _ _ hd]
  · rw [coreOf_withSlots, coreOf_withSlots, hcore]
  · rw [coreOf_withSlots, coreOf_withSlots]
    exact hspad
/-- With none under way, no slots is what the core has. -/
theorem wroteSpad_of_withSlots_none {lo n : Nat} (hnone : (coreOf s c).reduceDone = none) (h : wroteSpad (withSlots s c none) u c lo n) :
    wroteSpad s u c lo n := by
  have hcore : coreOf (withSlots s c none) c = coreOf s c := by rw [coreOf_withSlots, ← hnone]
  obtain ⟨hframe, hother, hmine, hspad⟩ := h
  rw [hcore] at hmine hspad
  exact ⟨hframe, fun d hd => (hother d hd).trans (coreOf_updCore_ne _ _ _ hd), hmine, hspad⟩

/-- The first k slots are added. -/
def slotsAdded (s u : State) (c w k : Nat) : Prop :=
  wroteSpad (withSlots s c (some (List.range k))) u c (8 * wD w) (8 * ceilDiv (wN w) 2)
    ∧ (List.range (wN w)).map (fun j => f32At u c (8 * wD w + 4 * j)) = (List.range (wN w)).map (fun j => slotSum s c w j k)

theorem zeros_eq_f32Bytes (n : Nat) : zeros (4 * n) = f32Bytes ((List.range n).map (fun _ => 0#32)) := by
  rw [List.map_const', List.length_range]
  induction n with
  | zero => rfl
  | succ n ih => rw [List.replicate_succ', f32Bytes_append, ← ih, Nat.mul_succ, zeros, ← List.replicate_append_replicate]; rfl

/-- D starts at +0.0. -/
theorem slotsAdded_start (s : State) (c w : Nat) :
    slotsAdded s (spadWritePadded (withSlots s c (some [])) c (8 * wD w) (zeros (4 * wN w))) c w 0 := by
  rw [zeros_eq_f32Bytes]
  exact spadWritePadded_f32s _ _ _ (by rw [List.length_map, List.length_range])

theorem semOf_slotsAdded {k : Nat} (h : slotsAdded s u c w k) (m : Nat) : semOf u c m = semOf s c m := by
  obtain ⟨⟨-, -, hcore, -⟩, -⟩ := h
  rw [semOf, hcore, coreOf_withSlots]
  rfl

/-- Where the slots before it are added, the next slot that is ready is. -/
theorem readySlot_next {k slots first : Nat} (hk : k < slots) (hsem : 1 ≤ semOf u c (first + k)) :
    readySlot u c first slots (List.range k) = some k := by
  rw [readySlot, List.find?_range_eq_some]
  exact ⟨by simp [hsem], by simpa using hk, fun j hj => by simp [hj]⟩

/-- The state with slot k added after the first k. -/
def addSlot (u : State) (c w k : Nat) : State :=
  let v := withSlots u c (some (List.range k ++ [k]))
  spadWritePadded v c (8 * wD w) (f32Bytes (List.zipWith add32 (spadF32 v c (8 * wD w) (wN w))
    (toF32s (spadRead u c (8 * (wA w + k * ceilDiv (wN w) 2)) (4 * wN w)))))

/-- One slot more. -/
theorem slotsAdded_next {k slots : Nat} (h : slotsAdded s u c w k) (hk : k < slots)
    (ha : apart (8 * wA w) (8 * ceilDiv (wN w) 2 * slots) (8 * wD w) (8 * ceilDiv (wN w) 2) = true) :
    slotsAdded s (addSlot u c w k) c w (k + 1) := by
  obtain ⟨hwrote, hvals⟩ := h
  have hrow := apart_row ha hk (show 4 * wN w ≤ 8 * ceilDiv (wN w) 2 by unfold ceilDiv; omega)
  have hslot : spadRead u c (8 * (wA w + k * ceilDiv (wN w) 2)) (4 * wN w) = spadRead s c (8 * (wA w + k * ceilDiv (wN w) 2)) (4 * wN w) := by
    rw [spadRead_of_wroteSpad hwrote hrow, spadRead_withSlots]
  have hsum : List.zipWith add32 (spadF32 (withSlots u c (some (List.range k ++ [k]))) c (8 * wD w) (wN w))
        (toF32s (spadRead u c (8 * (wA w + k * ceilDiv (wN w) 2)) (4 * wN w)))
      = (List.range (wN w)).map (fun j => slotSum s c w j (k + 1)) := by
    rw [hslot, spadF32_congr (spadRead_withSlots ..), spadF32_eq, hvals, toF32s_spadRead, List.zipWith_map, List.zipWith_self]
    exact List.map_congr_left (fun j _ => (slotSum_succ s c w j k).symm)
  obtain ⟨hnew, hread⟩ := spadWritePadded_f32s (withSlots u c (some (List.range k ++ [k]))) c (8 * wD w) (n := wN w)
    (ys := (List.range (wN w)).map (fun j => slotSum s c w j (k + 1))) (by rw [List.length_map, List.length_range])
  rw [addSlot, hsum, slotsAdded, List.range_succ]
  exact ⟨wroteSpad_trans (wroteSpad_withSlots hwrote _) hnew, hread⟩

/-- REDUCE.U adds a slot that is ready and may be read, and goes on. -/
theorem addSlots_succ {k : Nat} (fuel : Nat) (hdone : ((coreOf u c).reduceDone).getD [] = List.range k)
    (hnext : readySlot u c (wMod w % 32) (wMod w / 32 + 1) (List.range k) = some k)
    (hread : readable u c (wA w + k * ceilDiv (wN w) 2) (4 * wN w) = true) :
    addSlots c w (fuel + 1) u = addSlots c w fuel (addSlot u c w k) := by
  rw [addSlots, hdone, hnext]
  exact opRead_ok u c _ _ 1 (fun b => addSlots c w fuel (spadWritePadded (withSlots u c (some (List.range k ++ [k]))) c (8 * wD w)
    (f32Bytes (List.zipWith add32 (spadF32 (withSlots u c (some (List.range k ++ [k]))) c (8 * wD w) (wN w)) (toF32s b))))) hread

/-- With every slot ready and readable, all that are left are added. -/
theorem addSlots_adds
    (hready : ∀ k, k < wMod w / 32 + 1 →
      1 ≤ semOf s c (wMod w % 32 + k) ∧ readable s c (wA w + k * ceilDiv (wN w) 2) (4 * wN w) = true)
    (ha : apart (8 * wA w) (8 * ceilDiv (wN w) 2 * (wMod w / 32 + 1)) (8 * wD w) (8 * ceilDiv (wN w) 2) = true) (fuel : Nat) :
    ∀ (k : Nat) (u : State), k + fuel = wMod w / 32 + 1 → slotsAdded s u c w k →
      ∃ v, addSlots c w fuel u = .done (withSlots v c none) ∧ slotsAdded s v c w (wMod w / 32 + 1) := by
  induction fuel with
  | zero => exact fun k u hk h => ⟨u, rfl, hk ▸ h⟩
  | succ fuel ih =>
    intro k u hk h
    have hlt : k < wMod w / 32 + 1 := by omega
    obtain ⟨hsem, hread⟩ := hready k hlt
    obtain ⟨hwrote, -⟩ := id h
    have hdone : ((coreOf u c).reduceDone).getD [] = List.range k := by
      obtain ⟨-, -, hcore, -⟩ := hwrote
      rw [hcore, coreOf_withSlots]
      rfl
    have hrow := apart_row ha hlt (show 4 * wN w ≤ 8 * ceilDiv (wN w) 2 by unfold ceilDiv; omega)
    have hreadable : readable u c (wA w + k * ceilDiv (wN w) 2) (4 * wN w) = true := by
      rw [readable_of_wroteSpad hwrote hrow, readable, spadPoisoned, coreOf_withSlots]
      exact hread
    rw [addSlots_succ fuel hdone (readySlot_next hlt (by rwa [semOf_slotsAdded h])) hreadable]
    exact ih (k + 1) _ (by omega) (slotsAdded_next h hlt ha)
end

section
variable {c : CoreId} {s : State} {i : Issued}

/-- With none under way and room for its slots and its result, it starts. -/
theorem reduceUBody_starts {w : Nat} (hslots : wMod w % 32 + (wMod w / 32 + 1) ≤ 32)
    (hA : inSpad (wA w) (8 * ceilDiv (wN w) 2 * (wMod w / 32 + 1)) = true) (hD : inSpad (wD w) (4 * wN w) = true)
    (hnone : (coreOf s c).reduceDone = none) :
    reduceUBody c s i w = addSlots c w (wMod w / 32 + 1) (spadWritePadded (withSlots s c (some [])) c (8 * wD w) (zeros (4 * wN w))) := by
  rw [reduceUBody, if_neg (by omega), if_neg (by rw [spadOver_of_inSpad hA]; decide), opRoom_ok _ _ _ _ _ hD, hnone]
  rfl

theorem reduceU_waits (h : engAt s c 2 0xA3 i = true) : let w := i.word.toNat; let slots := wMod w / 32 + 1
    wMod w % 32 + slots ≤ 32 → inSpad (wA w) (8 * ceilDiv (wN w) 2 * slots) = true → inSpad (wD w) (4 * wN w) = true →
    (coreOf s c).reduceDone = none → (∀ k, k < slots → semOf s c (wMod w % 32 + k) = 0) →
    answers (.reduceU c) s (fun t => wroteSpad (withSlots s c (some [])) t c (8 * wD w) (8 * ceilDiv (wN w) 2)
      ∧ ∀ j, j < wN w → f32At t c (8 * wD w + 4 * j) = 0#32) := by
  intro w slots hfit hA hD hnone hsem
  obtain ⟨hwrote, hvals⟩ := slotsAdded_start s c w
  have hidle : readySlot (spadWritePadded (withSlots s c (some [])) c (8 * wD w) (zeros (4 * wN w))) c (wMod w % 32) slots [] = none := by
    rw [readySlot, List.find?_eq_none]
    intro k hk
    rw [semOf_slotsAdded ⟨hwrote, hvals⟩, hsem k (List.mem_range.1 hk)]
    simp
  have hbody : reduceUBody c s i w = .wait (spadWritePadded (withSlots s c (some [])) c (8 * wD w) (zeros (4 * wN w))) := by
    have hdone : ((coreOf (spadWritePadded (withSlots s c (some [])) c (8 * wD w) (zeros (4 * wN w))) c).reduceDone).getD [] = [] := by
      obtain ⟨-, -, hcore, -⟩ := hwrote
      rw [hcore, coreOf_withSlots]
      rfl
    rw [reduceUBody_starts hfit hA hD hnone, addSlots, hdone, hidle]
  exact ⟨_, congrArg Host.Outcome.next (runEngine_wait h hbody), hwrote, fun j hj => List.map_inj_left.1 hvals j (List.mem_range.2 hj)⟩

theorem reduceU_sums (h : engAt s c 2 0xA3 i = true) : let w := i.word.toNat; let n := wN w; let slots := wMod w / 32 + 1
    wMod w % 32 + slots ≤ 32 → inSpad (wA w) (8 * ceilDiv n 2 * slots) = true → inSpad (wD w) (4 * n) = true →
    (coreOf s c).reduceDone = none →
    (∀ k, k < slots → 1 ≤ semOf s c (wMod w % 32 + k) ∧ readable s c (wA w + k * ceilDiv n 2) (4 * n) = true) →
    apart (8 * wA w) (8 * ceilDiv n 2 * slots) (8 * wD w) (8 * ceilDiv n 2) = true →
    completes (.reduceU c) s c 2 0xA3 i (fun t => wroteSpad s t c (8 * wD w) (8 * ceilDiv n 2)
      ∧ ∀ j, j < n → f32At t c (8 * wD w + 4 * j) = slotSum s c w j slots) := by
  intro w n slots hfit hA hD hnone hready ha
  obtain ⟨v, hv, hwrote, hvals⟩ := addSlots_adds hready ha slots 0 _ (Nat.zero_add _) (slotsAdded_start s c w)
  have hbody : reduceUBody c s i w = .done (withSlots v c none) := (reduceUBody_starts hfit hA hD hnone).trans hv
  refine completes_of_body h rfl hbody ⟨wroteSpad_of_withSlots_none hnone (wroteSpad_withSlots hwrote none), fun j hj => ?_⟩
  have hsame : f32At (withSlots v c none) c (8 * wD w + 4 * j) = f32At v c (8 * wD w + 4 * j) := by
    rw [f32At, spadRead_withSlots, f32At]
  rw [hsame]
  exact List.map_inj_left.1 hvals j (List.mem_range.2 hj)

theorem reduceU_fails (h : engAt s c 2 0xA3 i = true) (hover : 32 < wMod i.word.toNat % 32 + (wMod i.word.toNat / 32 + 1)) :
    exec (.reduceU c) s = .next (failCommand s c 2 i.index.toNat 0x26 0xA3 6) := by
  have hbody : reduceUBody c s i i.word.toNat = .fail s eDesc 6 := by
    rw [reduceUBody, if_pos (by omega)]
  exact congrArg Host.Outcome.next (runEngine_fail h hbody)
end

/-- Settles O17. -/
theorem generatorTimeAndSlotSums : Obligations.GeneratorTimeAndSlotSums :=
  ⟨fun _ _ _ => ⟨randC_generates, randH_draws, tread_reads⟩, fun _ _ _ h =>
    ⟨fun hfit hA hD hnone => ⟨reduceU_waits h hfit hA hD hnone, reduceU_sums h hfit hA hD hnone⟩, reduceU_fails h⟩⟩

end Sys2Proof.Machine
end

section
/-! PROOF. SAMPLE.K, SAMPLE.M, SAMPLE.D and STOPCHK (R203 to R205, R279, R284, R304): candidate lists as they are read and
written, and the records that a draw leaves. -/

namespace Sys2Proof.Machine

/-! Candidate lists. -/

/-- Bytes of a range that may be read may be read. -/
theorem readable_part {s : State} {c g n g' n' : Nat} (h : readable s c g n = true) (hg : g ≤ g') (hn : 8 * g' + n' ≤ 8 * g + n) :
    readable s c g' n' = true := by
  simp only [readable, inSpad, spadPoisoned, memPoisoned, Bool.and_eq_true, decide_eq_true_eq, Bool.not_eq_true', List.any_eq_false,
    List.contains_iff_mem, mem_granules] at h ⊢
  obtain ⟨hin, hpoison⟩ := h
  exact ⟨by omega, fun p hp hmem => hpoison p hp (by omega)⟩

@[simp] theorem candBytes_length (l : List (F32 × Nat)) : (candBytes l).length = 8 + 8 * l.length := by
  rw [candBytes, List.length_append, leBytes_length, List.length_flatMap, sum_map_const (fun _ _ => leBytes_length ..), Nat.mul_comm]

/-- A candidate list that may be read is. -/
theorem opCands_ok (s : State) (c g operand : Nat) (k : List (F32 × Nat) → EngRes) : let n := leNat (spadRead s c (8 * g) 8) % 2 ^ 11
    n ≤ 1024 → readable s c g (8 + 8 * n) = true → opCands s c g operand k = k (candList n (spadRead s c (8 * g + 8) (8 * n))) := by
  intro n hn hread
  have hhead : readable s c g 8 = true := readable_part hread (Nat.le_refl g) (by omega)
  have hrest : readable s c (g + 1) (8 * n) = true := readable_part hread (Nat.le_succ g) (by omega)
  rw [opCands, opRead_ok _ _ _ _ _ _ hhead]
  exact (if_neg (Nat.not_lt.2 hn)).trans (opRead_ok _ _ _ _ _ _ hrest)

section
variable {c : CoreId} {s : State} {i : Issued}

/-! SAMPLE.K and SAMPLE.M: a candidate list at D. -/

/-- A command whose result is a candidate list. -/
theorem completes_cands {instr : Instr} {c : Nat} {q o a : Nat} {body : State → Issued → Nat → EngRes} {l : List (F32 × Nat)}
    (h : engAt s c q o i = true) (hexec : exec instr s = .next (runEngine s c q o body))
    (hb : body s i i.word.toNat = .done (spadWrite s c a (candBytes l))) :
    completes instr s c q o i (fun t => wroteSpad s t c a (8 + 8 * l.length) ∧ spadRead t c a (8 + 8 * l.length) = candBytes l) := by
  rw [← candBytes_length]
  exact completes_bytes h hexec hb

/-- The count of a token that a request's draw takes; none for a slot without a request (R304). -/
def drawCount (q : Option Request) (rec : Bytes) (id : Nat) : Nat :=
  match q with | some r => countAt r (srPosition rec) id | none => 0

theorem sampleK_keeps (h : engAt s c 2 0x80 i = true) : let w := i.word.toNat
    readable s c (wA w) (4 * wN w) = true → readable s c (wB w) 64 = true → readable s c (wC w) 8 = true →
    let rec_ := spadRead s c (8 * wB w) 64; let q := reqOf s (srSlot rec_)
    1 ≤ srTopK rec_ → srTopK rec_ ≤ 1024 →
    let l := sampleK rec_ (q.bind (fun r => maskAt r (srPosition rec_))) (drawCount q rec_)
      (leNat (spadRead s c (8 * wC w) 8) % 2 ^ 18) ((List.range (wN w)).map (fun j => f32At s c (8 * wA w + 4 * j)))
    inSpad (wD w) (8 + 8 * l.length) = true →
    completes (.sampleK c) s c 2 0x80 i (fun t => wroteSpad s t c (8 * wD w) (8 + 8 * l.length)
      ∧ spadRead t c (8 * wD w) (8 + 8 * l.length) = candBytes l) := by
  intro w hA hB hC rec_ q hmin hmax l hD
  have hk : ¬ (srTopK rec_ = 0 || 1024 < srTopK rec_) = true := by simp only [Bool.or_eq_true, decide_eq_true_eq]; omega
  have hbody : sampleKBody c s i w = .done (spadWrite s c (8 * wD w) (candBytes l)) := by
    rw [sampleKBody, vecOperand_ok _ _ _ _ _ _ _ _ (operandOk_vector hA), opRead_ok _ _ _ _ _ _ hB, opRead_ok _ _ _ _ _ _ hC, if_neg hk]
    exact opRoom_ok _ _ _ _ _ hD
  exact completes_cands h rfl hbody

theorem sampleM_merges (h : engAt s c 2 0x81 i = true) : let w := i.word.toNat
    wN w ≤ 1024 → let na := leNat (spadRead s c (8 * wA w) 8) % 2 ^ 11; let nb := leNat (spadRead s c (8 * wB w) 8) % 2 ^ 11
    na ≤ 1024 → nb ≤ 1024 → readable s c (wA w) (8 + 8 * na) = true → readable s c (wB w) (8 + 8 * nb) = true →
    let l := topK (wN w) (candList na (spadRead s c (8 * wA w + 8) (8 * na)) ++ candList nb (spadRead s c (8 * wB w + 8) (8 * nb)))
    inSpad (wD w) (8 + 8 * l.length) = true →
    completes (.sampleM c) s c 2 0x81 i (fun t => wroteSpad s t c (8 * wD w) (8 + 8 * l.length)
      ∧ spadRead t c (8 * wD w) (8 + 8 * l.length) = candBytes l) := by
  intro w hn na nb hna hnb hA hB l hD
  have hbody : sampleMBody c s i w = .done (spadWrite s c (8 * wD w) (candBytes l)) := by
    rw [sampleMBody, opCands_ok _ _ _ _ _ hna hA, opCands_ok _ _ _ _ _ hnb hB, if_neg (Nat.not_lt.2 hn)]
    exact opRoom_ok _ _ _ _ _ hD
  exact completes_cands h rfl hbody

/-! SAMPLE.D. -/

@[simp] theorem drawResult_length (id : Nat) (p : F32) (rec : Bytes) : (drawResult id p rec).length = 32 := by
  simp [drawResult]

theorem sampleD_draws (h : engAt s c 2 0x82 i = true) : let w := i.word.toNat; let na := leNat (spadRead s c (8 * wA w) 8) % 2 ^ 11
    na ≤ 1024 → readable s c (wA w) (8 + 8 * na) = true → readable s c (wB w) 64 = true → inSpad (wD w) 32 = true →
    let rec_ := spadRead s c (8 * wB w) 64
    completes (.sampleD c) s c 2 0x82 i (fun t => wroteSpad s t c (8 * wD w) 32
      ∧ ∀ r, drawToken (srTemp rec_) (srTopP rec_) (srMinP rec_) (drawWord rec_)
          (candList na (spadRead s c (8 * wA w + 8) (8 * na))) = some r →
          spadRead t c (8 * wD w) 32 = drawResult r.1 r.2 rec_) := by
  intro w na hna hA hB hD rec_
  cases hdraw : drawToken (srTemp rec_) (srTopP rec_) (srMinP rec_) (drawWord rec_) (candList na (spadRead s c (8 * wA w + 8) (8 * na))) with
  | some r =>
    have hbody : sampleDBody c s i w = .done (spadWrite s c (8 * wD w) (drawResult r.1 r.2 rec_)) := by
      rw [sampleDBody, opCands_ok _ _ _ _ _ hna hA, opRead_ok _ _ _ _ _ _ hB, opRoom_ok _ _ _ _ _ hD, hdraw]
    obtain ⟨t, hrun, hwrote, hread⟩ := completes_bytes (instr := .sampleD c) h rfl hbody
    rw [drawResult_length] at hwrote hread
    exact ⟨t, hrun, hwrote, fun r' hr => by rw [hread, Option.some.inj hr]⟩
  | none =>
    have hbody : sampleDBody c s i w = .done (spadWrite (takeFree s 2).2 c (8 * wD w)
        (drawResult ((Config.freeWord s.free).toNat % 2 ^ 18) (Config.freeWord (s.free + 1)) rec_)) := by
      rw [sampleDBody, opCands_ok _ _ _ _ _ hna hA, opRead_ok _ _ _ _ _ _ hB, opRoom_ok _ _ _ _ _ hD, hdraw]
    have hwrote := wroteSpad_spadWrite (takeFree s 2).2 c (8 * wD w)
      (drawResult ((Config.freeWord s.free).toNat % 2 ^ 18) (Config.freeWord (s.free + 1)) rec_)
    rw [drawResult_length] at hwrote
    exact completes_of_body h rfl hbody ⟨hwrote, fun r hr => nomatch hr⟩

/-! STOPCHK. -/

/-- The tokens of a request's generation before its draw; none for a slot without a request (R284, R304). -/
def tokensBefore (q : Option Request) (res : Bytes) : List Nat :=
  match q with | some r => genTokens r ++ proposed r (drawAhead r (leAt res 8 8)) | none => []

theorem stopchk_codes (h : engAt s c 2 0x83 i = true) : let w := i.word.toNat
    readable s c (wA w) 32 = true → readable s c (wB w) 576 = true → inSpad (wD w) 8 = true →
    let res := spadRead s c (8 * wA w) 32
    completes (.stopchk c) s c 2 0x83 i (fun t => wroteSpad s t c (8 * wD w) 8
      ∧ spadRead t c (8 * wD w) 8 = leBytes 8 (stopCode (spadRead s c (8 * wB w) 576) (tokensBefore (reqOf s (leAt res 16 4)) res)
          (leAt res 0 4 % 2 ^ 18) (leAt res 8 8))) := by
  intro w hA hB hD res
  have hbody : stopchkBody c s i w = .done (spadWrite s c (8 * wD w) (leBytes 8 (stopCode (spadRead s c (8 * wB w) 576)
      (tokensBefore (reqOf s (leAt res 16 4)) res) (leAt res 0 4 % 2 ^ 18) (leAt res 8 8)))) := by
    rw [stopchkBody, opRead_ok _ _ _ _ _ _ hA, opRead_ok _ _ _ _ _ _ hB]
    exact opRoom_ok _ _ _ _ _ hD
  obtain ⟨t, hrun, hwrote, hread⟩ := completes_bytes (instr := .stopchk c) h rfl hbody
  rw [leBytes_length] at hwrote hread
  exact ⟨t, hrun, hwrote, hread⟩
end

/-- A token of the vocabulary among the stop tokens stops, whatever else holds. -/
theorem stopCode_of_stopToken {stop : Bytes} {gen : List Nat} {id q k : Nat} (hk : k < 8) (hid : leAt stop (4 * k) 4 = id)
    (hempty : id ≠ 0xFFFFFFFF) (hnone : id ≠ 0x3FFFF) : stopCode stop gen id q = 1 := by
  have hany : (List.range 8).any (fun i => leAt stop (4 * i) 4 != 0xFFFFFFFF && leAt stop (4 * i) 4 == id) = true :=
    List.any_eq_true.2 ⟨k, List.mem_range.2 hk, by rw [hid]; simpa using hempty⟩
  have hvoc : (id != 0x3FFFF) = true := by simpa using hnone
  exact if_pos (by rw [hvoc, hany]; rfl)

/-- Settles O19. -/
theorem samplingDrawsAndStops : Obligations.SamplingDrawsAndStops :=
  ⟨fun _ _ _ => ⟨sampleK_keeps, sampleM_merges, sampleD_draws⟩, fun _ _ _ h => stopchk_codes h,
    fun _ _ _ _ _ hk hid hempty hnone => stopCode_of_stopToken hk hid hempty hnone⟩

end Sys2Proof.Machine
end

section
/-! PROOF. PLATE.FOLD (R206, R384): the length of a digest, and the chain of a request as a token extends it. -/

namespace Sys2Proof.Machine

/-! The digest (R15) has 32 bytes. -/

/-- Steps that keep the number of words keep it. -/
theorem foldl_length {α : Type} {f : List W32 → α → List W32} (h : ∀ l x, (f l x).length = l.length) :
    ∀ (xs : List α) (l : List W32), (xs.foldl f l).length = l.length
  | [], _ => rfl
  | x :: xs, l => (foldl_length h xs (f l x)).trans (h l x)
theorem shaRound_length (h : List W32) (kw : W32 × W32) : (shaRound h kw).length = h.length := by
  unfold shaRound
  split
  · rfl
  · rfl
theorem shaBlock_length (h : List W32) (block : Bytes) : (shaBlock h block).length = h.length := by
  rw [shaBlock, List.length_zipWith, foldl_length shaRound_length, Nat.min_self]
theorem sha256_length (m : Bytes) : (sha256 m).length = 32 := by
  have hword : ∀ x : W32, (beBytes 4 x.toNat).length = 4 := fun x => by rw [beBytes, List.length_reverse, leBytes_length]
  rw [sha256, List.length_flatMap, sum_map_const (fun x _ => hword x), foldl_length shaBlock_length]
  rfl

section
variable {c : CoreId} {s : State} {i : Issued}

/-- Channel 1 adds to the absorber of its cluster. -/
theorem plateFold_absorbs (h : engAt s c 4 0x90 i = true) : let w := i.word.toNat; let ch := wMod w % 2
    let b := spadRead s c (8 * wA w) (8 * wN w)
    mayFold s c ch = true → ch = 1 → readable s c (wA w) (8 * wN w) = true →
    completes (.plateFold c) s c 4 0x90 i (fun t => onlyCluster s t (clusterOf c)
      ∧ clOf t (clusterOf c) = { clOf s (clusterOf c) with absorb1 := (clOf s (clusterOf c)).absorb1 ++ b }) := by
  intro w ch b hmay hch hA
  have hbody : plateFoldBody c s i w = .done (updCl s (clusterOf c) (fun k => { k with absorb1 := k.absorb1 ++ b })) := by
    rw [plateFoldBody, hmay, opRead_ok _ _ _ _ _ _ hA]
    exact if_pos hch
  exact completes_of_body h rfl hbody ⟨⟨rfl, fun d hd => clOf_updCl_ne _ _ _ hd⟩, clOf_updCl_self ..⟩

/-- A token not yet folded extends the chain of its request. -/
theorem absorbToken_extends {b : Bytes} {r : Request} (hreq : reqOf s (leAt b 4 4) = some r) (hlive : reqFinal r = false)
    (hnew : r.folded ≤ leAt b 0x0C 4) : let chain := sha256 (r.chain ++ zeroAt b 4 4)
    absorbToken s b = (setReq s (leAt b 4 4) { r with chain := chain, folded := r.folded + 1 }, some chain) := by
  simp [absorbToken, hreq, hlive, Nat.not_lt.2 hnew]

/-- Channel 0 extends the chain of the record's request. -/
theorem plateFold_chains (h : engAt s c 4 0x90 i = true) {r : Request} : let w := i.word.toNat; let ch := wMod w % 2
    let b := spadRead s c (8 * wA w) (8 * wN w)
    mayFold s c ch = true → ch = 0 → wN w ≠ 0 → readable s c (wA w) (8 * wN w) = true → inSpad (wA w + wN w) 32 = true →
    reqOf s (leAt b 4 4) = some r → reqFinal r = false → r.folded ≤ leAt b 0x0C 4 →
    completes (.plateFold c) s c 4 0x90 i (fun t =>
      let chain := sha256 (r.chain ++ (sliceB b 0 4 ++ zeros 4 ++ b.drop 8))
      reqOf t (leAt b 4 4) = some { r with chain := chain, folded := r.folded + 1 }
      ∧ spadRead t c (8 * (wA w + wN w)) 32 = chain
      ∧ sameOutside (coreOf s c).spad (coreOf t c).spad (8 * (wA w + wN w)) 32
      ∧ t = { s with cores := t.cores, reqs := t.reqs }
      ∧ (∀ h, h ≠ leAt b 4 4 → reqOf t h = reqOf s h) ∧ ∀ d, d ≠ c.val → coreOf t d = coreOf s d) := by
  intro w ch b hmay hch hn hA hroom hreq hlive hnew
  let chain := sha256 (r.chain ++ (sliceB b 0 4 ++ zeros 4 ++ b.drop 8))
  let s1 := setReq s (leAt b 4 4) { r with chain := chain, folded := r.folded + 1 }
  have hlen : chain.length = 32 := sha256_length _
  have hbody : plateFoldBody c s i w = .done (spadWrite s1 c (8 * (wA w + wN w)) chain) := by
    rw [plateFoldBody, hmay, opRead_ok _ _ _ _ _ _ hA]
    have hch1 : ¬ ch = 1 := by rw [hch]; decide
    have hn8 : ¬ 8 * wN w = 0 := by omega
    refine (if_neg hch1).trans ((if_neg hn8).trans ?_)
    rw [opRoom_ok _ _ _ _ _ hroom, absorbToken_extends hreq hlive hnew, ← Nat.mul_add]
    rfl
  obtain ⟨hframe, hother, hcore, hspad⟩ := wroteSpad_spadWrite s1 c (8 * (wA w + wN w)) chain
  have hread := spadRead_spadWrite s1 c (8 * (wA w + wN w)) chain
  rw [hlen] at hspad hread
  refine completes_of_body h rfl hbody ⟨?_, hread, hspad, rfl, fun x hx => ?_, hother⟩
  · exact (reqOf_setReq ..).trans (if_pos rfl)
  · exact (reqOf_setReq ..).trans (if_neg hx)

/-- A core that the layout does not name may not fold. -/
theorem plateFold_fails (h : engAt s c 4 0x90 i = true) (hmay : mayFold s c (wMod i.word.toNat % 2) = false) :
    exec (.plateFold c) s = .next (failCommand s c 4 i.index.toNat 0x26 0x90 0) := by
  have hbody : plateFoldBody c s i i.word.toNat = .fail s eDesc 0 := by rw [plateFoldBody, hmay]; rfl
  exact congrArg Host.Outcome.next (runEngine_fail h hbody)
end

/-- Settles O21. -/
theorem plateFolds : Obligations.PlateFolds :=
  fun _ _ _ h => ⟨plateFold_absorbs h, fun _ => plateFold_chains h, plateFold_fails h⟩

end Sys2Proof.Machine
end

section
/-! PROOF. GATE and XACC (R200, R201): the sizes of choices and records, the records as a row of writes, and the rows that XACC has
added to. -/

namespace Sys2Proof.Machine

/-! Sizes of choices and records. -/

@[simp] theorem insertBy_length {α : Type} (lt : α → α → Bool) (x : α) : ∀ l : List α, (insertBy lt x l).length = l.length + 1
  | [] => rfl
  | y :: t => by
    unfold insertBy
    split
    · rfl
    · rw [List.length_cons, insertBy_length lt x t, List.length_cons]
@[simp] theorem sortBy_length {α : Type} (lt : α → α → Bool) (l : List α) : (sortBy lt l).length = l.length := by
  have hgrow : ∀ (l acc : List α), (l.foldl (fun acc x => insertBy lt x acc) acc).length = acc.length + l.length := by
    intro l
    induction l with
    | nil => exact fun _ => rfl
    | cons x l ih => intro acc; rw [List.foldl_cons, ih, insertBy_length, List.length_cons]; omega
  exact (hgrow l []).trans (Nat.zero_add _)
theorem topK_length_le (k : Nat) (l : List (F32 × Nat)) : (topK k l).length ≤ k := List.length_take_le ..

/-- A token chooses no more experts than its descriptor names. -/
theorem gateToken_length_le (d : Nat) (scores : List F32) (variant : Nat) : (gateToken d scores variant).length ≤ gdKr d + gdKp d := by
  have hrouted := topK_length_le (gdKr d) ((scores.take (gdNr d)).mapIdx (fun e x => (x, e)))
  have hown : (if variant = 0xFF then [] else
      topK (gdKp d) (((scores.drop (gdNr d)).take (gdNp d)).mapIdx (fun j x => (x, 0x400 + 32 * variant + j)))).length ≤ gdKp d := by
    split
    · exact Nat.zero_le _
    · exact topK_length_le ..
  simp only [gateToken, List.length_zipWith, List.length_map, sortBy_length, List.length_append, Nat.min_self]
  omega
theorem gateRecord_length (l : List (F32 × Nat)) : (gateRecord l).length = 8 + 8 * l.length := candBytes_length l

/-! A row of writes to a core's scratchpad. -/

/-- Writes to a scratchpad, one after another. -/
def spadWrites (s : State) (c : Nat) (ps : List (Nat × Bytes)) : State := ps.foldl (fun s p => spadWrite s c p.1 p.2) s
theorem spadWrites_effect (c : Nat) : ∀ (ps : List (Nat × Bytes)) (s : State), onlyCore s (spadWrites s c ps) c
    ∧ coreOf (spadWrites s c ps) c = { coreOf s c with spad := memWrites (coreOf s c).spad ps }
  | [], s => ⟨onlyCore_refl s c, rfl⟩
  | p :: ps, s => by
    obtain ⟨hframe, hcore⟩ := spadWrites_effect c ps (spadWrite s c p.1 p.2)
    refine ⟨onlyCore_trans (onlyCore_updCore ..) hframe, hcore.trans ?_⟩
    rw [spadWrite, coreOf_updCore_self]
    rfl

/-! GATE (R200). -/

section
variable {c : CoreId} {s : State} {i : Issued}

/-- The choice of token k, and the writes of all records. -/
def gateChoice (s : State) (c d k : Nat) : List (F32 × Nat) :=
  gateToken d (spadF32 s c (8 * (gdScores d + k * gdPitch d)) (gdNr d + gdNp d)) (leNat (spadRead s c (8 * gdVariants d + k) 1))
def gateWrite (s : State) (c d k : Nat) : Nat × Bytes := (8 * (gdRec d + 16 * k), gateRecord (gateChoice s c d k))
def gateWrites (s : State) (c d : Nat) : List (Nat × Bytes) := (List.range (gdTokens d)).map (gateWrite s c d)

theorem gateWrite_length_le {d : Nat} (hk : gdKr d + gdKp d ≤ 15) (s : State) (c k : Nat) : (gateWrite s c d k).2.length ≤ 128 := by
  have hchoice : (gateChoice s c d k).length ≤ gdKr d + gdKp d := gateToken_length_le ..
  rw [gateWrite, gateRecord_length]
  omega
theorem gateWrites_pairwise {d : Nat} (hk : gdKr d + gdKp d ≤ 15) (s : State) (c : Nat) :
    (gateWrites s c d).Pairwise (fun p q => p.1 + p.2.length ≤ q.1) := by
  rw [gateWrites, List.pairwise_map]
  refine List.pairwise_lt_range.imp (fun {j k} hjk => ?_)
  have hlen := gateWrite_length_le hk s c j
  show 8 * (gdRec d + 16 * j) + (gateWrite s c d j).2.length ≤ 8 * (gdRec d + 16 * k)
  omega

/-- GATE writes the records and the union table. -/
theorem gateBody_writes {w : Nat} (hdesc : descOk s c (wA w) 32 125 = true) : let d := descAt s c (wA w) 32; let toks := gdTokens d
    1 ≤ gdNr d → gdNr d ≤ 1024 → gdNp d ≤ 32 → 1 ≤ toks → toks ≤ 256 → 1 ≤ gdKr d → gdKr d + gdKp d ≤ 15 → gdNorm d ≠ 3 →
    readable s c (gdScores d) (8 * gdPitch d * (toks - 1) + 4 * (gdNr d + gdNp d)) = true → readable s c (gdVariants d) toks = true →
    let u := gateUnion ((List.range toks).map (gateChoice s c d))
    inSpad (gdRec d) (128 * toks) = true → inSpad (gdUnion d) u.length = true →
    gateBody c s i w = .done (spadWrite (spadWrites s c (gateWrites s c d)) c (8 * gdUnion d) u) := by
  intro d toks hnr hnr' hnp htoks htoks' hkr hk hnorm hscores hvariants u hrec hunion
  have hok : ¬ (gdNr d = 0 || 1024 < gdNr d || 32 < gdNp d || toks = 0 || 256 < toks || gdKr d = 0 || 15 < gdKr d + gdKp d
      || gdNorm d = 3) = true := by
    simp only [Bool.or_eq_true, decide_eq_true_eq]; omega
  have hchoices : (List.range toks).map (fun t => gateToken d (spadF32 s c (8 * (gdScores d + t * gdPitch d)) (gdNr d + gdNp d))
      (byteAt (spadRead s c (8 * gdVariants d) toks) t)) = (List.range toks).map (gateChoice s c d) :=
    List.map_congr_left (fun k hk => by
      rw [byteAt, spadRead, leAt_memRead _ _ (Nat.succ_le_of_lt (List.mem_range.1 hk))]
      rfl)
  have hrecords : (((List.range toks).map (gateChoice s c d)).zip (List.range toks)).foldl
      (fun s e => spadWrite s c (8 * (gdRec d + 16 * e.2)) (gateRecord e.1)) s = spadWrites s c (gateWrites s c d) := by
    have hzip := List.zip_map' (f := gateChoice s c d) (g := id) (l := List.range toks)
    rw [List.map_id] at hzip
    rw [hzip, List.foldl_map, spadWrites, gateWrites, List.foldl_map]
    rfl
  rw [gateBody, opDesc_ok _ _ _ _ _ _ hdesc]
  refine (if_neg hok).trans ?_
  rw [opRead_ok _ _ _ _ _ _ hscores, opRead_ok _ _ _ _ _ _ hvariants, hchoices, opRoom_ok _ _ _ _ _ hrec, opRoom_ok _ _ _ _ _ hunion]
  exact congrArg (fun x => EngRes.done (spadWrite x c (8 * gdUnion d) u)) hrecords

theorem gate_chooses (h : engAt s c 2 0x60 i = true) : let w := i.word.toNat
    descOk s c (wA w) 32 125 = true → let d := descAt s c (wA w) 32; let toks := gdTokens d
    1 ≤ gdNr d → gdNr d ≤ 1024 → gdNp d ≤ 32 → 1 ≤ toks → toks ≤ 256 → 1 ≤ gdKr d → gdKr d + gdKp d ≤ 15 → gdNorm d ≠ 3 →
    readable s c (gdScores d) (8 * gdPitch d * (toks - 1) + 4 * (gdNr d + gdNp d)) = true →
    readable s c (gdVariants d) toks = true →
    let u := gateUnion ((List.range toks).map (gateChoice s c d))
    inSpad (gdRec d) (128 * toks) = true → inSpad (gdUnion d) u.length = true →
    apart (8 * gdRec d) (128 * toks) (8 * gdUnion d) u.length = true →
    completes (.gate c) s c 2 0x60 i (fun t =>
      (∀ k, k < toks → spadRead t c (8 * gdRec d + 128 * k) (gateRecord (gateChoice s c d k)).length = gateRecord (gateChoice s c d k))
      ∧ spadRead t c (8 * gdUnion d) u.length = u
      ∧ (∀ k, k ≠ c.val → coreOf t k = coreOf s k) ∧ t = { s with cores := t.cores }
      ∧ coreOf t c = { coreOf s c with spad := (coreOf t c).spad }
      ∧ ∀ a, (a < 8 * gdRec d ∨ 8 * gdRec d + 128 * toks ≤ a) → (a < 8 * gdUnion d ∨ 8 * gdUnion d + u.length ≤ a) →
          memByte (coreOf t c).spad a = memByte (coreOf s c).spad a) := by
  intro w hdesc d toks hnr hnr' hnp htoks htoks' hkr hk hnorm hscores hvariants u hrec hunion ha
  let t0 := spadWrites s c (gateWrites s c d)
  obtain ⟨hrframe, hrcore⟩ := spadWrites_effect c (gateWrites s c d) s
  obtain ⟨htframe, htother⟩ := onlyCore_trans hrframe (onlyCore_updCore t0 c (fun v => { v with spad := memWrite v.spad (8 * gdUnion d) u }))
  have hspad : (coreOf (spadWrite t0 c (8 * gdUnion d) u) c).spad
      = memWrite (memWrites (coreOf s c).spad (gateWrites s c d)) (8 * gdUnion d) u := by
    rw [spadWrite, coreOf_updCore_self, hrcore]
  have hat : ∀ k, 8 * gdRec d + 128 * k = (gateWrite s c d k).1 := fun k => by rw [gateWrite]; omega
  have hlen := gateWrite_length_le hk s c
  have hbody := gateBody_writes (i := i) hdesc hnr hnr' hnp htoks htoks' hkr hk hnorm hscores hvariants hrec hunion
  refine completes_of_body h rfl hbody ⟨fun k hkt => ?_, spadRead_spadWrite .., htother, htframe, ?_, fun a har hau => ?_⟩
  · have hin : 8 * gdRec d + 128 * k + (gateRecord (gateChoice s c d k)).length ≤ 8 * gdRec d + 128 * toks := by
      have : (gateRecord (gateChoice s c d k)).length ≤ 128 := hlen k
      omega
    rw [spadRead, hspad, memRead_memWrite_in (p := (8 * gdUnion d, u)) _ ha ⟨Nat.le_refl _, Nat.le_refl _⟩ (Nat.le_add_right ..) hin, hat]
    exact memRead_memWrites _ (gateWrites_pairwise hk s c) _ (List.mem_map_of_mem (List.mem_range.2 hkt))
  · rw [spadWrite, coreOf_updCore_self, hrcore]
  · rw [hspad, (sameOutside_memWrite _ (8 * gdUnion d) u).1 a hau]
    refine memByte_memWrites_apart _ _ (fun p hp => ?_)
    obtain ⟨k, hkt, rfl⟩ := List.mem_map.1 hp
    have hkt' := List.mem_range.1 hkt
    have := hlen k
    rw [← hat]
    omega
end

end Sys2Proof.Machine
end

section
/-! PROOF. XACC (R200, R201): the rows of the accumulator, each token of the cursor's bitmap adding to its own. -/

namespace Sys2Proof.Machine

/-- What an expert of weight g adds to an element; none adds nothing. -/
def xaccValue (g : Option F32) (old y : F32) : F32 := match g with | some g => add32 old (mul32 g y) | none => old

section
variable {c w x m : Nat} {s u : State} {weight : Nat → Option F32}

/-- The weight that a token's record gives the expert. -/
def xaccWeight (s : State) (c w x k : Nat) : Option F32 := recordWeight (spadRead s c (8 * wB w + 128 * k) 128) x

/-- A token that chose the expert adds to its row. -/
def xaccStep (c w : Nat) (weight : Nat → Option F32) (s : State) (k : Nat) : State :=
  match weight k with
  | none => s
  | some g => spadWritePadded s c (8 * wD w + 8 * ceilDiv (wN w) 2 * k) (f32Bytes (List.zipWith (fun d y => add32 d (mul32 g y))
      (spadF32 s c (8 * wD w + 8 * ceilDiv (wN w) 2 * k) (wN w)) (spadF32 s c (8 * wA w + 8 * ceilDiv (wN w) 2 * k) (wN w))))

/-- The tokens of a list have added to their rows, of m. -/
def xaccAdded (weight : Nat → Option F32) (s u : State) (c w m : Nat) (l : List Nat) : Prop :=
  wroteSpad s u c (8 * wD w) (8 * ceilDiv (wN w) 2 * m)
    ∧ ∀ k j, j < wN w → f32At u c (8 * wD w + 8 * ceilDiv (wN w) 2 * k + 4 * j)
        = xaccValue (if k ∈ l then weight k else none) (f32At s c (8 * wD w + 8 * ceilDiv (wN w) 2 * k + 4 * j))
            (f32At s c (8 * wA w + 8 * ceilDiv (wN w) 2 * k + 4 * j))

/-- A read in a range apart from what was written answers as before. -/
theorem spadRead_of_apart {a n lo len y k : Nat} (h : wroteSpad s u c lo len) (ha : apart a n lo len = true) (hy : a ≤ y)
    (hk : y + k ≤ a + n) : spadRead u c y k = spadRead s c y k := by
  obtain ⟨-, -, -, hbytes, -⟩ := h
  simp only [apart, Bool.or_eq_true, decide_eq_true_eq, beq_iff_eq] at ha
  exact cellsRead_congr (fun b hb hk => hbytes b (by omega))

/-- The elements of a row lie in it, and rows do not meet. -/
theorem element_in_row {n j : Nat} (hj : j < n) : 4 * j + 4 ≤ 8 * ceilDiv n 2 := by unfold ceilDiv; omega
theorem row_le (row : Nat) {k m : Nat} (h : k < m) : row * k + row ≤ row * m := by
  rw [← Nat.mul_succ]; exact Nat.mul_le_mul_left row h

/-- Where the token did not choose the expert, its row is as it was. -/
theorem xaccAdded_none {l : List Nat} {k : Nat} (h : xaccAdded weight s u c w m l) (hg : weight k = none) :
    xaccAdded weight s u c w m (l ++ [k]) := by
  obtain ⟨hwrote, hvals⟩ := h
  refine ⟨hwrote, fun k' j hj => (hvals k' j hj).trans ?_⟩
  by_cases hk' : k' = k
  · subst hk'; simp [hg]
  · simp [hk']

/-- Where it did, its row takes what the weight gives. -/
theorem xaccAdded_some {l : List Nat} {k : Nat} {g : F32} (h : xaccAdded weight s u c w m l) (hk : k < m) (hnew : k ∉ l)
    (ha : apart (8 * wA w) (8 * ceilDiv (wN w) 2 * m) (8 * wD w) (8 * ceilDiv (wN w) 2 * m) = true) (hg : weight k = some g) :
    xaccAdded weight s (spadWritePadded u c (8 * wD w + 8 * ceilDiv (wN w) 2 * k) (f32Bytes (List.zipWith (fun d y => add32 d (mul32 g y))
      (spadF32 u c (8 * wD w + 8 * ceilDiv (wN w) 2 * k) (wN w)) (spadF32 u c (8 * wA w + 8 * ceilDiv (wN w) 2 * k) (wN w)))))
      c w m (l ++ [k]) := by
  obtain ⟨hwrote, hvals⟩ := h
  have hrow := row_le (8 * ceilDiv (wN w) 2) hk
  rw [spadF32_eq, spadF32_eq, List.zipWith_map, List.zipWith_self]
  obtain ⟨hadd, hread⟩ := spadWritePadded_f32s u c (8 * wD w + 8 * ceilDiv (wN w) 2 * k) (n := wN w)
    (ys := (List.range (wN w)).map (fun j => add32 (f32At u c (8 * wD w + 8 * ceilDiv (wN w) 2 * k + 4 * j))
      (mul32 g (f32At u c (8 * wA w + 8 * ceilDiv (wN w) 2 * k + 4 * j))))) (by rw [List.length_map, List.length_range])
  refine ⟨wroteSpad_trans hwrote (wroteSpad_widen hadd (by omega) (by omega)), fun k' j hj => ?_⟩
  have hel := element_in_row hj
  by_cases hk' : k' = k
  · subst hk'
    have hold := hvals k' j hj
    rw [if_neg hnew] at hold
    have hA : f32At u c (8 * wA w + 8 * ceilDiv (wN w) 2 * k' + 4 * j) = f32At s c (8 * wA w + 8 * ceilDiv (wN w) 2 * k' + 4 * j) := by
      rw [f32At, spadRead_of_apart hwrote ha (by omega) (by omega), f32At]
    rw [List.map_inj_left.1 hread j (List.mem_range.2 hj), hold, hA, if_pos (by simp), hg]
    rfl
  · have hother : 8 * ceilDiv (wN w) 2 * k' + 8 * ceilDiv (wN w) 2 ≤ 8 * ceilDiv (wN w) 2 * k
        ∨ 8 * ceilDiv (wN w) 2 * k + 8 * ceilDiv (wN w) 2 ≤ 8 * ceilDiv (wN w) 2 * k' :=
      (Nat.lt_or_gt_of_ne hk').imp (row_le _) (row_le _)
    rw [f32At, spadRead_of_wroteSpad hadd (by omega), ← f32At, hvals k' j hj]
    simp [hk']

/-- Tokens without repetition add one after another. -/
theorem xaccAdded_foldl (ha : apart (8 * wA w) (8 * ceilDiv (wN w) 2 * m) (8 * wD w) (8 * ceilDiv (wN w) 2 * m) = true) :
    ∀ (ks l : List Nat) (u : State), xaccAdded weight s u c w m l → (l ++ ks).Nodup → (∀ k ∈ ks, k < m) →
      xaccAdded weight s (ks.foldl (xaccStep c w weight) u) c w m (l ++ ks)
  | [], l, u, h, _, _ => by rw [List.append_nil]; exact h
  | k :: ks, l, u, h, hnodup, hm => by
    have hk : k < m := hm k (by simp)
    have hnew : k ∉ l := fun hkl => by simpa [hkl] using (List.nodup_append.1 hnodup).2.2 k hkl k
    have hstep : xaccAdded weight s (xaccStep c w weight u k) c w m (l ++ [k]) := by
      unfold xaccStep
      split
      next hg => exact xaccAdded_none h hg
      next g hg => exact xaccAdded_some h hk hnew ha hg
    have hrest := xaccAdded_foldl ha ks (l ++ [k]) _ hstep (by rwa [List.append_cons] at hnodup) (fun k' hk' => hm k' (by simp [hk']))
    rwa [← List.append_cons] at hrest

theorem xaccAdded_start (weight : Nat → Option F32) (s : State) (c w m : Nat) : xaccAdded weight s s c w m [] :=
  ⟨wroteSpad_refl .., fun _ _ _ => rfl⟩
end

/-! The tokens of a bitmap. -/

/-- The tokens whose bits are set (R200). -/
def bitmapTokens (bits : Nat) : List Nat := (List.range 256).filter (fun t => bitOf bits t)
theorem mem_bitmapTokens (bits k : Nat) : k ∈ bitmapTokens bits ↔ k < 256 ∧ bitOf bits k = true := by
  rw [bitmapTokens, List.mem_filter, List.mem_range]
theorem bitmapTokens_lt {bits m k : Nat} (h : bits < 2 ^ m) (hk : k ∈ bitmapTokens bits) : k < m := by
  have hbit := ((mem_bitmapTokens ..).1 hk).2
  rw [bitOf_eq_testBit] at hbit
  by_contra hge
  rw [Nat.testBit_lt_two_pow (Nat.lt_of_lt_of_le h (Nat.pow_le_pow_right (by decide) (Nat.le_of_not_lt hge)))] at hbit
  exact absurd hbit (by decide)

/-- The highest of a list is at least each of them, and one of them. -/
theorem le_foldl_max : ∀ (l : List Nat) (a : Nat), a ≤ l.foldl max a ∧ ∀ k ∈ l, k ≤ l.foldl max a
  | [], a => ⟨Nat.le_refl a, fun _ hk => absurd hk List.not_mem_nil⟩
  | x :: l, a => by
    obtain ⟨hstart, hall⟩ := le_foldl_max l (max a x)
    refine ⟨(Nat.le_max_left a x).trans hstart, fun k hk => ?_⟩
    rcases List.mem_cons.1 hk with rfl | hk
    · exact (Nat.le_max_right a k).trans hstart
    · exact hall k hk
theorem foldl_max_lt {m : Nat} : ∀ (l : List Nat) (a : Nat), a < m → (∀ k ∈ l, k < m) → l.foldl max a < m
  | [], _, ha, _ => ha
  | x :: l, a, ha, h => foldl_max_lt l (max a x) (Nat.max_lt.2 ⟨ha, h x (by simp)⟩) (fun k hk => h k (by simp [hk]))

section
variable {c : CoreId} {s : State} {i : Issued}

/-- XACC adds, for the tokens of the cursor's bitmap, as their records stand. -/
theorem xaccBody_adds {w m : Nat} (hcur : cursorOk s c i.xcur.toNat = true) : let x := (cursorAt s c i.xcur.toNat).1
    let bits := (cursorAt s c i.xcur.toNat).2; bits < 2 ^ m → let row := 8 * ceilDiv (wN w) 2
    readable s c (wB w) (128 * m) = true → readable s c (wA w) (row * m) = true → readable s c (wD w) (row * m) = true →
    xaccBody c s i w = .done ((bitmapTokens bits).foldl (xaccStep c w (xaccWeight s c w x)) s) := by
  intro x bits hbits row hB hA hD
  let toks := bitmapTokens bits
  let top := toks.foldl max 0
  have htop : ∀ k ∈ toks, k ≤ top ∧ top < m := fun k hk => ⟨(le_foldl_max toks 0).2 k hk,
    foldl_max_lt toks 0 (Nat.zero_lt_of_lt (bitmapTokens_lt hbits hk)) (fun _ => bitmapTokens_lt hbits)⟩
  have hspan : ∀ {len total : Nat}, (top < m → len ≤ total) → (if toks.isEmpty then 0 else len) ≤ total := fun {len total} hlen => by
    split
    next => exact Nat.zero_le _
    next he =>
      obtain ⟨k, hk⟩ := List.isEmpty_eq_false_iff_exists_mem.1 (Bool.eq_false_iff.2 he)
      exact hlen (htop k hk).2
  have hB' : readable s c (wB w) (if toks.isEmpty then 0 else 128 * (top + 1)) = true :=
    readable_part hB (Nat.le_refl _) (Nat.add_le_add_left (hspan (fun h => by omega)) _)
  have hrow : (if toks.isEmpty then 0 else row * top + 4 * wN w) ≤ row * m :=
    hspan (fun h => (Nat.add_le_add_left (show 4 * wN w ≤ row by simp only [row, ceilDiv]; omega) _).trans (row_le row h))
  have hA' := readable_part hA (Nat.le_refl _) (Nat.add_le_add_left hrow _)
  have hD' := readable_part hD (Nat.le_refl _) (Nat.add_le_add_left hrow _)
  rw [xaccBody, cursorEntry_ok hcur]
  refine (opRead_ok _ _ _ _ _ _ hB').trans ((opRead_ok _ _ _ _ _ _ hA').trans ((opRead_ok _ _ _ _ _ _ hD').trans ?_))
  refine congrArg EngRes.done (List.foldl_ext _ _ _ (fun u k hk => ?_))
  have hne : toks.isEmpty = false := List.isEmpty_eq_false_iff_exists_mem.2 ⟨k, hk⟩
  have hle : 128 * k + 128 ≤ if toks.isEmpty then 0 else 128 * (top + 1) := by
    have := (htop k hk).1
    rw [hne]
    show 128 * k + 128 ≤ 128 * (top + 1)
    omega
  rw [sliceB_spadRead s c (8 * wB w) hle]
  rfl

theorem xacc_accumulates (h : engAt s c 2 0x64 i = true) {m : Nat} : let w := i.word.toNat
    cursorOk s c i.xcur.toNat = true → let x := (cursorAt s c i.xcur.toNat).1; let bits := (cursorAt s c i.xcur.toNat).2
    bits < 2 ^ m → let n := wN w; let row := 8 * ceilDiv n 2
    readable s c (wB w) (128 * m) = true → readable s c (wA w) (row * m) = true → readable s c (wD w) (row * m) = true →
    apart (8 * wA w) (row * m) (8 * wD w) (row * m) = true →
    completes (.xacc c) s c 2 0x64 i (fun t => wroteSpad s t c (8 * wD w) (row * m)
      ∧ ∀ k, k < 256 → ∀ j, j < n → f32At t c (8 * wD w + row * k + 4 * j)
          = xaccValue (if bitOf bits k then recordWeight (spadRead s c (8 * wB w + 128 * k) 128) x else none)
              (f32At s c (8 * wD w + row * k + 4 * j)) (f32At s c (8 * wA w + row * k + 4 * j))) := by
  intro w hcur x bits hbits n row hB hA hD ha
  obtain ⟨hwrote, hvals⟩ := xaccAdded_foldl (weight := xaccWeight s c w x) ha (bitmapTokens bits) [] s (xaccAdded_start _ s c w m)
    (List.nodup_range.filter _) (fun k hk => bitmapTokens_lt hbits hk)
  refine completes_of_body h rfl (xaccBody_adds hcur hbits hB hA hD) ⟨hwrote, fun k hk j hj => ?_⟩
  rw [hvals k j hj]
  congr 1
  exact if_congr (by rw [List.nil_append, mem_bitmapTokens]; simp [hk]) rfl rfl
end

/-- Settles O18. -/
theorem expertsChosenAndAccumulated : Obligations.ExpertsChosenAndAccumulated :=
  fun _ _ _ => ⟨gate_chooses, fun _ h => xacc_accumulates h⟩

end Sys2Proof.Machine
end

section
/-! PROOF. Packets of a sweep (R157, R199, R252 to R257): on VC2 a packet's buffer does not depend on its operation, so that
packets join it one behind another whatever their heads hold; and what the steps of a sweep leave as it is. -/

namespace Sys2Proof.Machine

/-! What the steps of a sweep keep. -/

/-- Memories, partitions and requests are as they were. -/
structure SweepKept (s t : State) : Prop where
  memories : memoriesKept s t
  parts    : t.parts = s.parts
  reqs     : t.reqs = s.reqs
theorem SweepKept.refl (s : State) : SweepKept s s := ⟨memoriesKept_refl s, rfl, rfl⟩
theorem SweepKept.trans {s t u : State} (h : SweepKept s t) (g : SweepKept t u) : SweepKept s u :=
  ⟨memoriesKept_trans h.memories g.memories, g.parts.trans h.parts, g.reqs.trans h.reqs⟩
theorem onlyMesh.sweepKept {s t : State} (h : onlyMesh s t) : SweepKept s t := ⟨onlyMesh_memories h, by rw [h], by rw [h]⟩

/-- So is the mesh: the step only counts, reports or asks for grants. -/
structure SweepCounted (s t : State) : Prop extends SweepKept s t where
  mesh : t.mesh = s.mesh
theorem SweepCounted.refl (s : State) : SweepCounted s s := ⟨SweepKept.refl s, rfl⟩
theorem SweepCounted.trans {s t u : State} (h : SweepCounted s t) (g : SweepCounted t u) : SweepCounted s u :=
  ⟨h.toSweepKept.trans g.toSweepKept, g.mesh.trans h.mesh⟩
theorem sweepCounted_updCore (s : State) (c : Nat) {f : CoreState → CoreState} (h : ∀ v, (f v).spad = v.spad) :
    SweepCounted s (updCore s c f) := ⟨⟨memoriesKept_updCore s c h, rfl, rfl⟩, rfl⟩
theorem sweepCounted_bumpC (s : State) (c off hi lo n : Nat) : SweepCounted s (bumpC s c off hi lo n) := by
  unfold bumpC
  split
  · exact SweepCounted.refl s
  · exact sweepCounted_updCore s c (fun _ => rfl)
theorem sweepCounted_coreRequests (s : State) (c : Nat) (cls : GrantClass) : SweepCounted s (coreRequests s c cls) := by
  refine ⟨⟨coreRequests_memories .., coreRequests_parts .., ?_⟩, ?_⟩ <;> rw [(coreRequests_frame s c cls).1.1]

/-! Packets on VC2. -/

theorem bufOf_vc2 (op : Nat) : bufOf 2 op = 3 := rfl
theorem openHop_congr {s t : State} (h : t.mesh = s.mesh) (r p b : Nat) : openHop t r p b = openHop s r p b := by
  rw [openHop, h]; rfl

/-- A packet joins VC2's buffer before those that follow it; they follow only where it is in whole. -/
theorem sendsFrom_cons {s t u : State} {c a b : Nat} {span : Nat → Nat} {pkt : Nat → Packet} {hs : List Hop}
    (hin : inject s c 2 (pkt a) = some t) (hmesh : u.mesh = t.mesh) (hrest : sendsFrom c 2 span pkt (a + span a) hs b)
    (hfree : hs ≠ [] → openHop u c 0 3 = none) :
    ∃ h, t.mesh = s.mesh ++ [h] ∧ sendsFrom c 2 span pkt a (h :: hs) b ∧ openHop s c 0 3 = none := by
  obtain ⟨hroom, hopen, hjoin, -⟩ := inject_some hin
  rw [bufOf_vc2] at hroom hopen hjoin
  have hflits : 0 < flitsOf (pkt a) := by unfold flitsOf; omega
  refine ⟨_, hjoin, ⟨rfl, rfl, rfl, rfl, rfl, rfl, Nat.lt_min.2 ⟨hflits, hroom⟩, Nat.min_le_left .., fun hne => ?_, hrest⟩, hopen⟩
  exact Nat.le_antisymm (Nat.min_le_left ..) (openHop_after hjoin (by rw [bufOf_vc2, ← openHop_congr hmesh, hfree hne]))

section
variable {c : Nat} {x : Transfer} {span : Nat → Nat} {pkt : State → Nat → Nat → Packet} {s₀ : State}
  (hvc : x.vc = 2) (hsame : ∀ t, onlyMesh s₀ t → ∀ a, pkt t a (span a) = pkt s₀ a (span a))
include hvc hsame

/-- Packets of a transfer on VC2 join the mesh in address order. -/
theorem injectFrom_sends_vc2 : ∀ (fuel : Nat) (s : State) (a : Nat), onlyMesh s₀ s →
    ∃ hs, let r := injectFrom c x span pkt fuel s a
      onlyMesh s₀ r.1 ∧ r.1.mesh = s.mesh ++ hs ∧ sendsFrom c 2 span (fun a => pkt s₀ a (span a)) a hs r.2
      ∧ (hs ≠ [] → openHop s c 0 3 = none)
  | 0, s, a, h => ⟨[], h, (List.append_nil _).symm, rfl, fun e => absurd rfl e⟩
  | fuel + 1, s, a, h => by
    unfold injectFrom
    split
    · exact ⟨[], h, (List.append_nil _).symm, rfl, fun e => absurd rfl e⟩
    · split
      · exact ⟨[], h, (List.append_nil _).symm, rfl, fun e => absurd rfl e⟩
      · next t hin =>
        rw [hvc] at hin
        obtain ⟨-, -, -, honly⟩ := inject_some hin
        obtain ⟨hs, honly', hmesh, hsends, hfree⟩ := injectFrom_sends_vc2 fuel t (a + span a) (onlyMesh_trans h honly)
        rw [hsame s h] at hin
        obtain ⟨g, hjoin, hall, hopen⟩ := sendsFrom_cons (pkt := fun a => pkt s₀ a (span a)) hin rfl hsends hfree
        exact ⟨g :: hs, honly', by rw [hmesh, hjoin, List.append_assoc]; rfl, hall, fun _ => hopen⟩
end

/-- A transfer that goes on changes no partition. -/
theorem injectFrom_onlyMesh (c : Nat) (x : Transfer) (span : Nat → Nat) (pkt : State → Nat → Nat → Packet) :
    ∀ (fuel : Nat) (s : State) (a : Nat), onlyMesh s (injectFrom c x span pkt fuel s a).1
  | 0, s, _ => onlyMesh_refl s
  | fuel + 1, s, a => by
    unfold injectFrom
    split
    · exact onlyMesh_refl s
    · split
      · exact onlyMesh_refl s
      · next t hin =>
        obtain ⟨-, -, -, honly⟩ := inject_some hin
        exact onlyMesh_trans honly (injectFrom_onlyMesh c x span pkt fuel t _)
theorem runTransfer_parts {s t : State} {c : Nat} {i : Issued} {w : Nat} {x : Transfer} {span : Nat → Nat}
    {pkt : Nat → State → Nat → Nat → Packet} (h : runTransfer s c i w x span pkt = .left t ∨ runTransfer s c i w x span pkt = .wait t) :
    t.parts = s.parts := by
  have honly := injectFrom_onlyMesh c x span (pkt (ownTxn s c i w x).tid.toNat) x.size s (ownTxn s c i w x).sent
  rw [runTransfer_eq] at h
  dsimp only at h
  generalize injectFrom c x span (pkt (ownTxn s c i w x).tid.toNat) x.size s (ownTxn s c i w x).sent = r at h honly
  have ht : t = updCore r.1 c (txnMoved s c i w x r.2) := by
    split at h
    · simp at h
    · split at h
      · simp at h
      · split at h <;> simpa [eq_comm] using h
  rw [ht, updCore_parts, honly.sweepKept.parts]

/-! Heads of packets that carry bytes of no command. -/

theorem hOp_bytesPacket {op : Nat} {b : Bytes} (ho : op < 64) (hb : b.length ≤ 1024) (c : CoreId) (addr tid : Nat) (poison : List Nat) :
    hOp (pHead (bytesPacket c op addr b poison none tid 0)) = op :=
  hOp_mkHead ho (coreSrc_lt c) (by unfold ceilDiv; omega) (by decide) (lastMask_lt _) (by decide) addr tid _

/-! The runs of a job. -/

/-- The job of a core's partition. -/
theorem runJobAt_eq {s : State} {c p : Nat} {j : Job} (h : runJobAt s c = some (p, j)) : corePart s c = some p ∧ jobOf s p = some j := by
  obtain ⟨p', hp, hp'⟩ := Option.bind_eq_some_iff.1 h
  obtain ⟨j', hj', heq⟩ := Option.map_eq_some_iff.1 hp'
  obtain ⟨rfl, rfl⟩ := Prod.mk.inj heq
  exact ⟨hp, hj'⟩

theorem mem_replace_self {α : Type} [BEq α] [LawfulBEq α] {a b : α} : ∀ {l : List α}, a ∈ l → b ∈ l.replace a b
  | x :: l, h => by
    rw [List.replace_cons]
    split
    · exact List.mem_cons_self ..
    · next hne =>
      rcases List.mem_cons.1 h with rfl | h
      · simp at hne
      · exact List.mem_cons_of_mem x (mem_replace_self h)
theorem jobOf_putSweep {s : State} {p : Nat} {j : Job} (h : jobOf s p = some j) (w v : SweepRun) :
    jobOf (putSweep s p w v) p = some { j with sweeps := j.sweeps.replace w v } := by
  rw [putSweep, jobOf_updJob_self, h]; rfl

end Sys2Proof.Machine
end

section
/-! PROOF. SWEEP (R199, R249, R252): its contents go to the hub's inbox as a transfer, and the slot is the sweep's from then on. -/

namespace Sys2Proof.Machine

section
variable {s : State} {c : CoreId} {i : Issued} {w p : Nat} {j : Job} {e : SweepDesc × (Nat × Nat → Nat)}

/-- The inbox slot of a SWEEP: that of the run it has opened, or else a free one. -/
def sweepSlot (s : State) (c : Nat) (j : Job) (draft : Bool) : Option Nat :=
  match openSweep s c j with
  | some v => v.slot.map Fin.val
  | none => freeInbox j draft

/-- The state once packets have left: a SWEEP that begins opens its run. -/
def sweepOpened (s : State) (c p : Nat) (j : Job) (e : SweepDesc × (Nat × Nat → Nat)) (v : SweepRun) (t : State) : State :=
  if (openSweep s c j).isSome then t else hubPeak (updJob t p (fun j => { j with sweeps := j.sweeps ++ [v] })) (hubCore e)

/-- The hub's peak is a register of its own. -/
theorem hubPeak_frame (s : State) (c : Nat) : SweepCounted s (hubPeak s c) ∧ ∀ d, (coreOf (hubPeak s c) d).teq = (coreOf s d).teq := by
  have hset : ∀ v, SweepCounted s (setCreg s c 0x378 v) ∧ ∀ d, (coreOf (setCreg s c 0x378 v) d).teq = (coreOf s d).teq := fun v => by
    refine ⟨sweepCounted_updCore s c (fun _ => rfl), fun d => ?_⟩
    rw [setCreg, coreOf_updCore]
    split
    · next h => rw [h]
    · rfl
  unfold hubPeak
  split
  · split
    · exact hset _
    · exact ⟨SweepCounted.refl s, fun _ => rfl⟩
  · exact ⟨SweepCounted.refl s, fun _ => rfl⟩

theorem sweepOpened_effect {t : State} (hj : jobOf t p = some j) (v : SweepRun) : let u := sweepOpened s c p j e v t
    u.mesh = t.mesh ∧ memoriesKept t u ∧ (∀ d, (coreOf u d).teq = (coreOf t d).teq)
    ∧ ∃ j', jobOf u p = some j' ∧ j'.sweeps = (if (openSweep s c j).isSome then j.sweeps else j.sweeps ++ [v]) := by
  intro u
  by_cases h : (openSweep s c j).isSome = true
  · have hu : u = t := if_pos h
    rw [hu, if_pos h]
    exact ⟨rfl, memoriesKept_refl t, fun _ => rfl, j, hj, rfl⟩
  · have hu : u = hubPeak (updJob t p (fun j => { j with sweeps := j.sweeps ++ [v] })) (hubCore e) := if_neg h
    obtain ⟨hcounted, hteq⟩ := hubPeak_frame (updJob t p (fun j => { j with sweeps := j.sweeps ++ [v] })) (hubCore e)
    rw [hu, if_neg h]
    refine ⟨hcounted.mesh, hcounted.memories, hteq, { j with sweeps := j.sweeps ++ [v] }, (jobOf_of_parts hcounted.parts p).trans ?_, rfl⟩
    rw [jobOf_updJob_self, hj]
    rfl

/-- The packets of a SWEEP to slot n of the hub. -/
def sweepPkt (c n : Nat) (e : SweepDesc × (Nat × Nat → Nat)) (b : Bytes) (tid at_ k : Nat) : Packet :=
  bytesPacket c opWrite (spadAddr (hubCore e) (e.1.inboxOff + n * e.1.slotBytes) + at_) (sliceB b at_ k) [] none tid 0

/-- What the sending of packets comes to, with another state left. -/
def sentAs (f : State → State) : EngRes → EngRes
  | .left t => .left (f t)
  | .wait t => .wait (f t)
  | r => r

theorem sendSweep_eq {d n : Nat} {b : Bytes} (hn : sweepSlot s c j (draftTree j (sdTree d)) = some n) :
    sendSweep s c p j e i w d b
    = sentAs (sweepOpened s c p j e (newSweep s c i w d b.length n (draftTree j (sdTree d))))
        (runTransfer s c i 0 { op := opWrite, vc := 2, opc := 0x50, size := b.length
                               total := b.length + sdTokens d * sdHeads d * resultBytes, dst := 0, src := 0 }
          (kiloSpan b.length) (fun tid _ at_ k => sweepPkt c n e b tid at_ k)) := by
  cases hopen : openSweep s c j with
  | none =>
    have hopens : sweepOpened s c p j e (newSweep s c i w d b.length n (draftTree j (sdTree d))) = fun t =>
        hubPeak (updJob t p (fun j' => { j' with sweeps := j'.sweeps ++ [newSweep s c i w d b.length n (draftTree j (sdTree d))] }))
          (hubCore e) := funext (fun t => if_neg (by rw [hopen]; decide))
    simp only [sweepSlot, hopen] at hn
    simp only [sendSweep, hopen, hn, hopens]
    rfl
  | some v =>
    have hopens : sweepOpened s c p j e (newSweep s c i w d b.length n (draftTree j (sdTree d))) = id :=
      funext (fun t => if_pos (by rw [hopen]; rfl))
    simp only [sweepSlot, hopen] at hn
    simp only [sendSweep, hopen, hn, hopens]
    rfl

/-- With all slots in use it holds (R252). -/
theorem sendSweep_holds {d : Nat} {b : Bytes} (hopen : openSweep s c j = none) (hfull : freeInbox j (draftTree j (sdTree d)) = none) :
    sendSweep s c p j e i w d b = .hold := by
  simp only [sendSweep, hopen, hfull]

/-- A SWEEP of a running job whose descriptor is in order sends its queries, entries, lengths and handles. -/
theorem sweepBody_sends : let d := descAt s c (wA w) 32; let n := sdTokens d; let units := n * sdHeads d
    let qs := units * 544 + n * entryBytes (cacheFmt e.1); let ls := 8 * ceilDiv n 2 + 8 * n
    coreLevel s c ≠ 2 → descOk s c (wA w) 32 173 = true →
    runJobAt s c = some (p, j) → sweepSection s p j (draftTree j (sdTree d)) = some e →
    sdTree d ≤ 56 → 1 ≤ sdHeads d → sdHeads d ≤ 64 → 1 ≤ n → n ≤ 256 →
    readable s c (sdQaddr d) qs = true → readable s c (sdLens d) ls = true → inSpad (sdRdst d) (units * 2048) = true →
    sweepBody c s i w = sendSweep s c p j e i w d (spadRead s c (8 * sdQaddr d) qs ++ spadRead s c (8 * sdLens d) ls) := by
  intro d n units qs ls hlev hdesc hjob hsec htree hheads hheads' hn hn' hQ hL hR
  have hok : ¬ (56 < sdTree d || sdHeads d = 0 || 64 < sdHeads d || sdTokens d = 0 || 256 < sdTokens d) = true := by
    simp only [Bool.or_eq_true, decide_eq_true_eq]; omega
  have hover : spadOver (sdRdst d) (units * resultBytes) = false := spadOver_of_inSpad hR
  rw [sweepBody, if_neg hlev, opDesc_ok _ _ _ _ _ _ hdesc]
  refine (if_neg hok).trans ?_
  simp only [hjob, Option.bind_some, d, hsec, Option.map_some]
  rw [opRead_ok _ _ _ _ _ _ hQ, opRead_ok _ _ _ _ _ _ hL]
  exact if_neg (by rw [hover]; decide)

/-- A command that leaves its TEQ changes no partition. -/
theorem drainEnd_parts (s : State) (c : Nat) : (drainEnd s c).parts = s.parts := by
  unfold drainEnd
  simp only
  split
  · rw [doorbellAt_parts, setCore_parts]
  · rfl
theorem popTeq_parts (s : State) (c : Nat) : (drainEnd (popEngine s c 4) c).parts = s.parts := by
  rw [drainEnd_parts, (popEngine_frame s c 4).1]

/-- With a slot and room, packets of it leave, and its run stands in the job. -/
theorem sweep_sends (h : engAt s c 4 0x50 i = true) {d slot size : Nat} {b : Bytes} (hb : b.length = size)
    (hbody : sweepBody c s i i.word.toNat = sendSweep s c p j e i i.word.toNat d b) (hjob : runJobAt s c = some (p, j))
    (hslot : sweepSlot s c j (draftTree j (sdTree d)) = some slot) (hready : transferReady s c 2 1 0x50 size = true) :
    ∃ t hs pos, exec (.sweep c) s = .next t ∧ hs ≠ [] ∧ t.mesh = s.mesh ++ hs
      ∧ sendsFrom c 2 (kiloSpan size) (fun at_ => sweepPkt c slot e b (sendTid s c 0x50) at_ (kiloSpan size at_)) (sendPos s c 0x50) hs pos
      ∧ (coreOf t c).teq = (if size ≤ pos then (coreOf s c).teq.drop 1 else (coreOf s c).teq) ∧ memoriesKept s t
      ∧ ∃ j', jobOf t p = some j' ∧ j'.sweeps = (if (openSweep s c j).isSome then j.sweeps
          else j.sweeps ++ [newSweep s c i i.word.toNat d size slot (draftTree j (sdTree d))]) := by
  subst hb
  obtain ⟨-, hj⟩ := runJobAt_eq hjob
  let x : Transfer := { op := opWrite, vc := 2, opc := 0x50, size := b.length
                        total := b.length + sdTokens d * sdHeads d * resultBytes, dst := 0, src := 0 }
  obtain ⟨t, hs, pos, hrun, hne, hmesh, hsends, hsent⟩ := runTransfer_sends (i := i) (w := 0) (x := x) (span := kiloSpan b.length)
    (pkt := fun tid _ at_ k => sweepPkt c slot e b tid at_ k) hready (show 0x50 < 256 by decide)
    (fun a ha => by unfold kiloSpan; have : a < b.length := ha; omega)
    (fun tid _ a => hOp_bytesPacket (by decide) (by rw [sliceB_length]; exact Nat.min_le_left ..) ..) (fun _ _ _ _ => rfl)
  obtain ⟨-, hteq, hmem, -⟩ := hsent
  have hparts : t.parts = s.parts := by
    refine runTransfer_parts (c := c.val) (i := i) (w := 0) (x := x) (span := kiloSpan b.length)
      (pkt := fun tid _ at_ k => sweepPkt c slot e b tid at_ k) ?_
    rw [hrun]
    split
    · exact .inl rfl
    · exact .inr rfl
  obtain ⟨umesh, umem, uteq, j', hj', hsweeps⟩ := sweepOpened_effect (s := s) (c := c) (e := e) ((jobOf_of_parts hparts p).trans hj)
    (newSweep s c i i.word.toNat d b.length slot (draftTree j (sdTree d)))
  rw [sendSweep_eq hslot, show runTransfer s c i 0 x _ _ = _ from hrun] at hbody
  by_cases hall : b.length ≤ pos
  · rw [if_pos ⟨hall, show (0x50 : Nat) ≠ 0x71 by decide⟩] at hbody
    obtain ⟨pmesh, pmem, -, -, pteq⟩ := popTeq_frame (sweepOpened s c p j e
      (newSweep s c i i.word.toNat d b.length slot (draftTree j (sdTree d))) t) c
    refine ⟨_, hs, pos, congrArg Host.Outcome.next (runEngine_left h hbody), hne, pmesh.trans (umesh.trans hmesh), hsends, ?_,
      memoriesKept_trans (memoriesKept_trans hmem umem) pmem, j', (jobOf_of_parts (popTeq_parts ..) p).trans hj', hsweeps⟩
    rw [pteq, uteq, hteq, if_pos hall]
  · rw [if_neg (fun hpos => hall hpos.1)] at hbody
    refine ⟨_, hs, pos, congrArg Host.Outcome.next (runEngine_wait h hbody), hne, umesh.trans hmesh, hsends, ?_,
      memoriesKept_trans hmem umem, j', hj', hsweeps⟩
    rw [uteq, hteq, if_neg hall]
end

end Sys2Proof.Machine
end

section
/-! PROOF. HUB_SWEEP_TAKE and SWEEP_RESULT (R252, R253, R257): the hub's packets join its VC2 buffer, and the sweep stands at the
position reached. -/

namespace Sys2Proof.Machine

/-- Bytes and poison of a scratchpad are those of its memory. -/
theorem spadRead_of_memories {s t : State} (h : memoriesKept s t) (c a n : Nat) : spadRead t c a n = spadRead s c a n := by
  rw [spadRead, h.1 c]; rfl
theorem spadPoisonIn_of_memories {s t : State} (h : memoriesKept s t) (c a n : Nat) : spadPoisonIn t c a n = spadPoisonIn s c a n := by
  rw [spadPoisonIn, h.1 c]; rfl

section
variable {s t : State} {p : Nat} {j : Job} {e : SweepDesc × (Nat × Nat → Nat)} {w : SweepRun}

/-! The multicast. -/

/-- A packet of the multicast of a sweep from its slot. -/
def spreadPkt (s : State) (e : SweepDesc × (Nat × Nat → Nat)) (w : SweepRun) (slot : Option Nat) (at_ k : Nat) : Packet :=
  let a := e.1.inboxOff + slot.getD 0 * e.1.slotBytes
  bytesPacket (hubCore e) opMcast (spadAddr (hubCore e) (a + at_)) (spadRead s (hubCore e) (a + at_) k)
    (spadPoisonIn s (hubCore e) (a + at_) k) none w.mcTid.toNat (w.tree + 2 * w.reach)
theorem spreadPkt_of_memories (h : memoriesKept s t) (e : SweepDesc × (Nat × Nat → Nat)) (w : SweepRun) (slot : Option Nat)
    (at_ k : Nat) : spreadPkt t e w slot at_ k = spreadPkt s e w slot at_ k := by
  simp only [spreadPkt, spadRead_of_memories h, spadPoisonIn_of_memories h]

theorem spreadSweep_sends (hj : jobOf s p = some j) (hw : w ∈ j.sweeps) : ∃ j' v hs, let t := spreadSweep s p e w
    jobOf t p = some j' ∧ j'.sweeps.length = j.sweeps.length ∧ v ∈ j'.sweeps ∧ v = { w with mcSent := v.mcSent }
    ∧ t.mesh = s.mesh ++ hs
    ∧ sendsFrom (hubCore e) 2 (kiloSpan w.size) (fun a => spreadPkt s e w (w.slot.map Fin.val) a (kiloSpan w.size a)) w.mcSent hs v.mcSent
    ∧ memoriesKept s t := by
  obtain ⟨hs, honly, hmesh, hsends, -⟩ := injectFrom_sends_vc2 (c := hubCore e) (span := kiloSpan w.size)
    (x := { op := opMcast, vc := 2, opc := 0x50, size := w.size, total := 0, dst := 0, src := 0 }) 
    (pkt := fun s at_ k => spreadPkt s e w (w.slot.map Fin.val) at_ k)
    rfl (fun t ht a => spreadPkt_of_memories (onlyMesh_memories ht) ..) w.size s w.mcSent (onlyMesh_refl s)
  have hkept := honly.sweepKept
  refine ⟨_, _, hs, jobOf_putSweep ((jobOf_of_parts hkept.parts p).trans hj) w _, List.length_replace .., mem_replace_self hw, rfl, hmesh,
    hsends, ?_⟩
  exact memoriesKept_trans hkept.memories (memoriesKept_of_eq rfl rfl)

/-- A sweep of the job that is next at its hub. -/
theorem mem_of_hubNext (h : hubNext j = some w) : w ∈ j.sweeps := by
  rcases Option.or_eq_some_iff.1 h with h | ⟨-, h⟩
  · exact List.mem_of_find?_eq_some h
  · exact List.mem_of_find?_eq_some h

/-- The state once the hub has taken a sweep (R253). -/
def sweepTaken (s : State) (p : Nat) (e : SweepDesc × (Nat × Nat → Nat)) (w : SweepRun) : State :=
  bumpC (updCore (putSweep s p w (takeSweep s e w)) (hubCore e) (fun v => { v with nextTid := v.nextTid + 1 })) (hubCore e) 0x378 63 32 1

theorem exec_hubSweepTake {p : PartId} (hj : jobOf s p = some j) (hnext : hubNext j = some w)
    (hsec : sweepSection s p j w.draft = some e) (hon : coreOn s (hubCore e) = true) : exec (.hubSweepTake p) s
      = .next (if w.taken then spreadSweep s p e w else spreadSweep (sweepTaken s p e w) p e (takeSweep s e w)) := by
  show execHubSweepTake p s = _
  simp only [execHubSweepTake, hj, Option.bind_some, hnext, hsec, Option.map_some, hon, Bool.not_true, Bool.false_eq_true, if_false]
  rfl

/-- The hub takes the sweep that is next, and multicasts it. -/
theorem hubSweepTake_spreads {p : PartId} (hj : jobOf s p = some j) (hnext : hubNext j = some w)
    (hsec : sweepSection s p j w.draft = some e) (hon : coreOn s (hubCore e) = true) :
    let w0 := if w.taken then w else takeSweep s e w
    answers (.hubSweepTake p) s (fun t => ∃ j' v hs, jobOf t p = some j' ∧ j'.sweeps.length = j.sweeps.length ∧ v ∈ j'.sweeps
      ∧ v = { w0 with mcSent := v.mcSent } ∧ t.mesh = s.mesh ++ hs
      ∧ sendsFrom (hubCore e) 2 (kiloSpan w0.size) (fun a => spreadPkt s e w0 (w.slot.map Fin.val) a (kiloSpan w0.size a)) w0.mcSent hs v.mcSent
      ∧ memoriesKept s t) := by
  intro w0
  have hexec := exec_hubSweepTake hj hnext hsec hon
  have hmem := mem_of_hubNext hnext
  by_cases htaken : w.taken = true
  · rw [if_pos htaken] at hexec
    rw [show w0 = w from if_pos htaken]
    exact ⟨_, hexec, spreadSweep_sends hj hmem⟩
  · rw [if_neg htaken] at hexec
    rw [show w0 = takeSweep s e w from if_neg htaken]
    have hcounted : SweepCounted (putSweep s p w (takeSweep s e w)) (sweepTaken s p e w) :=
      (sweepCounted_updCore _ (hubCore e) (f := fun v => { v with nextTid := v.nextTid + 1 }) (fun _ => rfl)).trans (sweepCounted_bumpC ..)
    have hput : memoriesKept s (putSweep s p w (takeSweep s e w)) := memoriesKept_of_eq rfl rfl
    have hkept := memoriesKept_trans hput hcounted.memories
    obtain ⟨j', v, hs, hj', hlen, hv, hv', hmesh, hsends, hmems⟩ := spreadSweep_sends (e := e)
      ((jobOf_of_parts hcounted.parts p).trans (jobOf_putSweep hj w (takeSweep s e w))) (mem_replace_self hmem)
    simp only [spreadPkt_of_memories hkept] at hsends
    exact ⟨_, hexec, j', v, hs, hj', hlen.trans (List.length_replace ..), hv, hv', hmesh.trans (congrArg (· ++ hs) hcounted.mesh), hsends,
      memoriesKept_trans hkept hmems⟩

/-! The results. -/

/-- A packet of the results of a sweep, with identifier tid. -/
def resultPkt (s : State) (e : SweepDesc × (Nat × Nat → Nat)) (w : SweepRun) (tid : BitVec 16) (at_ k : Nat) : Packet :=
  bytesPacket (hubCore e) opWrite (spadAddr w.owner.val (8 * w.rdst + at_))
    (sliceB (f32Bytes (unitResult (lrSk (layerRecord s (hubCore e) e.1 w.layer)) w (at_ / resultBytes))) (at_ % resultBytes) k)
    (if (gatherOf w (at_ / resultBytes)).2 then List.range (k / 8) else [])
    (if at_ + k = resultBytes * sweepUnits w then w.token.map Fin.val else none) tid.toNat 0
theorem resultPkt_of_memories (h : memoriesKept s t) (e : SweepDesc × (Nat × Nat → Nat)) (w : SweepRun) (tid : BitVec 16) (at_ k : Nat) :
    resultPkt t e w tid at_ k = resultPkt s e w tid at_ k := by
  simp only [resultPkt, layerRecord, spadRead_of_memories h]

theorem sendResults_sends (hj : jobOf s p = some j) (hw : w ∈ j.sweeps) (tid : BitVec 16) : ∃ j' v hs,
    let t := sendResults s p (hubCore e) e.1 w tid; let size := resultBytes * sweepUnits w
    jobOf t p = some j' ∧ v ∈ j'.sweeps ∧ v = { w with resTid := some tid, resSent := v.resSent } ∧ t.mesh = s.mesh ++ hs
    ∧ sendsFrom (hubCore e) 2 (kiloSpan size) (fun a => resultPkt s e w tid a (kiloSpan size a)) w.resSent hs v.resSent
    ∧ memoriesKept s t := by
  obtain ⟨hs, honly, hmesh, hsends, -⟩ := injectFrom_sends_vc2 (c := hubCore e) (span := kiloSpan (resultBytes * sweepUnits w))
    (x := { op := opWrite, vc := 2, opc := 0x50, size := resultBytes * sweepUnits w, total := 0, dst := 0, src := 0 })
    (pkt := fun _ at_ k => resultPkt s e w tid at_ k) rfl (fun _ _ _ => rfl) (resultBytes * sweepUnits w) s w.resSent (onlyMesh_refl s)
  have hkept := honly.sweepKept
  exact ⟨_, _, hs, jobOf_putSweep ((jobOf_of_parts hkept.parts p).trans hj) w _, mem_replace_self hw, rfl, hmesh, hsends,
    memoriesKept_trans hkept.memories (memoriesKept_of_eq rfl rfl)⟩

/-- The runs of a region change no sweep of a job. -/
theorem updRegion_sweeps (hj : jobOf s p = some j) (q r : Nat) (f : RegionRun → RegionRun) :
    ∃ j', jobOf (updRegion s q r f) p = some j' ∧ j'.sweeps = j.sweeps := by
  by_cases hq : p = q
  · subst hq
    exact ⟨_, jobOf_updRegion hj r f, rfl⟩
  · exact ⟨j, (jobOf_updJob_ne s q _ hq).trans hj, rfl⟩

/-- Counting non-finite results changes no memory and no packet; of a job it changes its regions alone. -/
theorem countNonFinite_frame (s : State) (c index opc nf ov : Nat) (hj : jobOf s p = some j) : let t := countNonFinite s c index opc nf ov
    memoriesKept s t ∧ t.mesh = s.mesh ∧ ∃ j', jobOf t p = some j' ∧ j'.sweeps = j.sweeps := by
  intro t
  have hb : SweepCounted s (bumpC (bumpC s c 0x358 63 32 nf) c 0x358 31 0 ov) :=
    (sweepCounted_bumpC ..).trans (sweepCounted_bumpC ..)
  have hjb := (jobOf_of_parts hb.parts p).trans hj
  refine ⟨(onlyCounts_countNonFinite s c index opc nf ov).memories, ?_⟩
  by_cases hnone : nf = 0
  · rw [show t = s from if_pos hnone]
    exact ⟨rfl, j, hj, rfl⟩
  · simp only [t, countNonFinite, if_neg hnone]
    cases regionOf (bumpC (bumpC s c 0x358 63 32 nf) c 0x358 31 0 ov) c with
    | none =>
      dsimp only
      split
      · exact ⟨hb.mesh, j, hjb, rfl⟩
      · exact ⟨hb.mesh, j, hjb, rfl⟩
    | some pr =>
      dsimp only
      split
      · exact ⟨hb.mesh, j, hjb, rfl⟩
      · exact ⟨hb.mesh, updRegion_sweeps hjb pr.1 pr.2 _⟩

/-- The state once the hub has formed the results: they have an identifier, and non-finite ones are counted (R91, R257). -/
def resultsFormed (s : State) (e : SweepDesc × (Nat × Nat → Nat)) (w : SweepRun) : State :=
  countNonFinite (updCore s (hubCore e) (fun v => { v with nextTid := v.nextTid + 1 })) (hubCore e) w.index.toNat 0x50
    (((List.range (sweepUnits w)).flatMap (unitResult (lrSk (layerRecord s (hubCore e) e.1 w.layer)) w)).filter
      (fun x => !isFinite32 x)).length 0

theorem exec_sweepResult {p : PartId} (hj : jobOf s p = some j) (hnext : resultNext j = some w)
    (hsec : sweepSection s p j w.draft = some e) (hon : coreOn s (hubCore e) = true) : exec (.sweepResult p) s
      = .next (sendResults (if w.resTid.isSome then s else resultsFormed s e w) p (hubCore e) e.1 w
          (w.resTid.getD (coreOf s (hubCore e)).nextTid)) := by
  show execSweepResult p s = _
  simp only [execSweepResult, hj, Option.bind_some, hnext, hsec, Option.map_some, hon, Bool.not_true, Bool.false_eq_true, if_false]
  cases w.resTid <;> rfl

theorem sweepResult_sends {p : PartId} (hj : jobOf s p = some j) (hnext : resultNext j = some w)
    (hsec : sweepSection s p j w.draft = some e) (hon : coreOn s (hubCore e) = true) :
    let size := resultBytes * sweepUnits w; let tid := w.resTid.getD (coreOf s (hubCore e)).nextTid
    answers (.sweepResult p) s (fun t => ∃ j' v hs, jobOf t p = some j' ∧ v ∈ j'.sweeps
      ∧ v = { w with resTid := some tid, resSent := v.resSent } ∧ t.mesh = s.mesh ++ hs
      ∧ sendsFrom (hubCore e) 2 (kiloSpan size) (fun a => resultPkt s e w tid a (kiloSpan size a)) w.resSent hs v.resSent
      ∧ memoriesKept s t) := by
  intro size tid
  have hexec := exec_sweepResult hj hnext hsec hon
  have hmem : w ∈ j.sweeps := List.mem_of_find?_eq_some hnext
  by_cases hbegun : w.resTid.isSome = true
  · rw [if_pos hbegun] at hexec
    exact ⟨_, hexec, sendResults_sends hj hmem tid⟩
  · rw [if_neg hbegun] at hexec
    have hcounted := sweepCounted_updCore s (hubCore e) (f := fun v => { v with nextTid := v.nextTid + 1 }) (fun _ => rfl)
    obtain ⟨hmems, hmesh, j1, hj1, hsweeps⟩ := countNonFinite_frame (updCore s (hubCore e) (fun v => { v with nextTid := v.nextTid + 1 }))
      (hubCore e) w.index.toNat 0x50 (((List.range (sweepUnits w)).flatMap (unitResult (lrSk (layerRecord s (hubCore e) e.1 w.layer)) w)).filter
        (fun x => !isFinite32 x)).length 0 ((jobOf_of_parts hcounted.parts p).trans hj)
    have hkept : memoriesKept s (resultsFormed s e w) := memoriesKept_trans hcounted.memories hmems
    obtain ⟨j', v, hs, hj', hv, hv', tmesh, hsends, tmems⟩ := sendResults_sends (s := resultsFormed s e w) (e := e) hj1 (hsweeps ▸ hmem) tid
    simp only [resultPkt_of_memories hkept] at hsends
    exact ⟨_, hexec, j', v, hs, hj', hv, hv', tmesh.trans (congrArg (· ++ hs) (hmesh.trans hcounted.mesh)), hsends,
      memoriesKept_trans hkept tmems⟩
end
end Sys2Proof.Machine
end

section
/-! PROOF. SWEEP_SERVICE (R254, R255, R258): contributions are functions of the memories and requests, which the sending of packets
and the counting leave as they are, and go out one behind another. -/

namespace Sys2Proof.Machine

/-! Contributions. -/

section
variable {s t : State} (h : SweepKept s t)
include h

theorem SweepKept.vaultRead_eq (k a n : Nat) : vaultRead t k a n = vaultRead s k a n := by
  rw [vaultRead, h.memories.2 k]; rfl
theorem SweepKept.reqOf_eq (x : Nat) : reqOf t x = reqOf s x := by rw [reqOf, h.reqs]; rfl
theorem SweepKept.tokenPages_eq (d : SweepDesc) (phys : Nat × Nat → Nat) (c layer x len : Nat) :
    tokenPages t d phys c layer x len = tokenPages s d phys c layer x len := by
  simp only [tokenPages, slotFrame, slotReq, slotReserved, h.vaultRead_eq, h.reqOf_eq]

/-- A contribution depends on the memories and on the requests alone. -/
theorem SweepKept.contribution_eq (d : SweepDesc) (phys : Nat × Nat → Nat) (c : Nat) (w : SweepRun) (x k : Nat) :
    contribution t d phys c w x k = contribution s d phys c w x k := by
  simp only [contribution, layerRecord, pageEntries, spadRead_of_memories h.memories, h.vaultRead_eq, h.tokenPages_eq, h.memories.2]

theorem sweepKept_vaultWrite (k a : Nat) (b : Bytes) : SweepKept (vaultWrite s k a b) (vaultWrite t k a b) := by
  refine ⟨⟨h.memories.1, fun j => ?_⟩, h.parts, h.reqs⟩
  rw [vaultWrite, vaultWrite, clOf_updCl, clOf_updCl]
  split
  · rw [h.memories.2]
  · exact h.memories.2 j
end

/-- The entry of a token, where the core holds its page (R254 step 1). -/
def writeEntry (d : SweepDesc) (phys : Nat × Nat → Nat) (c : Nat) (w : SweepRun) (s : State) (t : Nat) : State :=
  if !realToken w t then s
  else
    match (tokenPages s d phys c w.layer (w.handles.getD t 0) (w.lens.getD t 0 - 1 + 1)).find? (fun g => g.1 == (w.lens.getD t 0 - 1) / 32) with
    | some g => vaultWrite s (clusterOf c) (g.2 + (w.lens.getD t 0 - 1) % 32 * entryBytes (cacheFmt d)) (w.entries.getD t [])
    | none => s
theorem writeEntries_eq (s : State) (d : SweepDesc) (phys : Nat × Nat → Nat) (c : Nat) (w : SweepRun) :
    writeEntries s d phys c w = (List.range w.tokens).foldl (writeEntry d phys c w) s := rfl

theorem writeEntry_cases (d : SweepDesc) (phys : Nat × Nat → Nat) (c : Nat) (w : SweepRun) (s : State) (t : Nat) :
    writeEntry d phys c w s t = s ∨ ∃ k a b, writeEntry d phys c w s t = vaultWrite s k a b := by
  unfold writeEntry
  split
  · exact .inl rfl
  · split
    · exact .inr ⟨_, _, _, rfl⟩
    · exact .inl rfl

/-- Entries are written alike where memories and requests are. -/
theorem SweepKept.writeEntries_kept {s t : State} (h : SweepKept s t) (d : SweepDesc) (phys : Nat × Nat → Nat) (c : Nat) (w : SweepRun) :
    SweepKept (writeEntries s d phys c w) (writeEntries t d phys c w) := by
  have hstep : ∀ {s t : State}, SweepKept s t → ∀ k, SweepKept (writeEntry d phys c w s k) (writeEntry d phys c w t k) := fun {s t} h k => by
    unfold writeEntry
    rw [h.tokenPages_eq]
    split
    · exact h
    · split
      · exact sweepKept_vaultWrite h ..
      · exact h
  have hall : ∀ (l : List Nat) {s t : State}, SweepKept s t →
      SweepKept (l.foldl (writeEntry d phys c w) s) (l.foldl (writeEntry d phys c w) t) := by
    intro l
    induction l with
    | nil => exact fun h => h
    | cons k l ih => exact fun h => ih (hstep h k)
  exact hall _ h

/-- They change vaults alone. -/
theorem writeEntries_frame (s : State) (d : SweepDesc) (phys : Nat × Nat → Nat) (c : Nat) (w : SweepRun) :
    (writeEntries s d phys c w).cores = s.cores ∧ (writeEntries s d phys c w).parts = s.parts
    ∧ (writeEntries s d phys c w).mesh = s.mesh := by
  have hkeeps := foldl_keeps (fun s : State => (s.cores, s.parts, s.mesh)) (writeEntry d phys c w) (List.range w.tokens) s
    (fun t k _ => by
      rcases writeEntry_cases d phys c w t k with h | ⟨_, _, _, h⟩
      · rw [h]
      · rw [h]; rfl)
  rw [← writeEntries_eq] at hkeeps
  simpa only [Prod.mk.injEq] using hkeeps

/-! The packets of a contribution. -/

/-- Packet k of a service, with identifier tid: half of a unit's contribution. -/
def servePkt (s : State) (c : Nat) (x : SweepDesc × (Nat × Nat → Nat)) (w : SweepRun) (tid : BitVec 16) (k : Nat) : Packet :=
  let u := contribution s x.1 x.2 c w (k / 2 / w.heads) (k / 2 % w.heads)
  let b := sliceB (contribValues u) (1024 * (k % 2)) 1024
  bytesPacket c opReduce (spadAddr (hubCore x) x.1.inboxOff) b (if w.poisoned || u.bad then List.range (b.length / 8) else []) none
    tid.toNat (w.tree + 2 * w.reach + 1)
theorem SweepKept.servePkt_eq {s t : State} (h : SweepKept s t) (c : Nat) (x : SweepDesc × (Nat × Nat → Nat)) (w : SweepRun)
    (tid : BitVec 16) (k : Nat) : servePkt t c x w tid k = servePkt s c x w tid k := by
  simp only [servePkt, h.contribution_eq]

/-- What a packet that has left counts: a unit's first half its pages, its second half the identifier. -/
def packetCounted (t : State) (c : Nat) (w : SweepRun) (k : Nat) (u : UnitSum) : State :=
  if k % 2 = 0 then countUnit t c w (k / 2) u else updCore t c (fun v => { v with nextTid := v.nextTid + 1 })

@[simp] theorem bumpC_nextTid (s : State) (c off hi lo n d : Nat) :
    (coreOf (bumpC s c off hi lo n) d).nextTid = (coreOf s d).nextTid := by
  unfold bumpC
  split
  · rfl
  · rw [setCreg, coreOf_updCore]
    split
    · next h => rw [h]
    · rfl
theorem countUnit_frame (s : State) (c : Nat) (w : SweepRun) (n : Nat) (u : UnitSum) :
    SweepCounted s (countUnit s c w n u) ∧ (coreOf (countUnit s c w n u) c).nextTid = (coreOf s c).nextTid := by
  have hbumps : SweepCounted s (bumpC (bumpC (bumpC (bumpC (bumpC s c 0x370 63 32 u.pages) c 0x370 31 16 u.held) c 0x300 63 32 u.under)
      c 0x300 31 0 u.sat) c 0x210 63 32 u.bursts) :=
    ((((sweepCounted_bumpC ..).trans (sweepCounted_bumpC ..)).trans (sweepCounted_bumpC ..)).trans (sweepCounted_bumpC ..)).trans
      (sweepCounted_bumpC ..)
  unfold countUnit
  dsimp only
  split
  · exact ⟨hbumps, by simp⟩
  · exact ⟨hbumps.trans ⟨⟨memoriesKept_of_eq rfl rfl, rfl, rfl⟩, rfl⟩, by simp⟩

/-- The identifier goes up with a unit's second half. -/
theorem packetCounted_frame (t : State) (c : Nat) (w : SweepRun) (k : Nat) (u : UnitSum) : let v := packetCounted t c w k u
    SweepCounted t v ∧ (coreOf v c).nextTid = (coreOf t c).nextTid + BitVec.ofNat 16 (k % 2) := by
  intro v
  rcases Nat.mod_two_eq_zero_or_one k with hk | hk
  · obtain ⟨hcounted, htid⟩ := countUnit_frame t c w (k / 2) u
    rw [show v = countUnit t c w (k / 2) u from if_pos hk, hk]
    exact ⟨hcounted, htid.trans (BitVec.add_zero _).symm⟩
  · rw [show v = updCore t c (fun v => { v with nextTid := v.nextTid + 1 }) from if_neg (by omega), hk]
    exact ⟨sweepCounted_updCore t c (fun _ => rfl), by rw [coreOf_updCore_self]; rfl⟩

section
variable {c : Nat} {x : SweepDesc × (Nat × Nat → Nat)} {w : SweepRun} {s t : State}

/-- The run once a packet has left (R256). -/
def packetSent (c : Nat) (w : SweepRun) (k : Nat) (u : UnitSum) : SweepRun :=
  { w with sent := putN w.sent c (k + 1), clamped := if u.held = 0 then w.clamped else (w.clamped ++ [c]).eraseDups }

/-- A service that has packets left goes on behind the one that the buffer takes, and else stops. -/
theorem serveOn_succ (fuel : Nat) (hmore : ¬ 2 * sweepUnits w ≤ getN 0 w.sent c) : let k := getN 0 w.sent c
    let u := contribution s x.1 x.2 c w (k / 2 / w.heads) (k / 2 % w.heads)
    serveOn c x (fuel + 1) w s = ((inject s c 2 (servePkt s c x w (coreOf s c).nextTid k)).map
      (fun t => serveOn c x fuel (packetSent c w k u) (packetCounted t c w k u))).getD (w, s) := by
  intro k u
  refine (if_neg hmore).trans ?_
  cases hin : inject s c 2 (servePkt s c x w (coreOf s c).nextTid k) with
  | none => simp only [servePkt] at hin; simp only [k] at hin; rw [hin]; rfl
  | some t => simp only [servePkt] at hin; simp only [k] at hin; rw [hin]; rfl

/-- The run of a service that has sent some packets. -/
def servedRun (w : SweepRun) (sent : NMap Nat) (clamped : List Nat) : SweepRun := { w with sent := sent, clamped := clamped }

/-- Packets of a service have joined the mesh in order, each pair under an identifier of its own; nothing else that a contribution
depends on has changed since s₁. -/
def serves (s₁ : State) (c : Nat) (x : SweepDesc × (Nat × Nat → Nat)) (w : SweepRun) (tid : BitVec 16) (k₀ : Nat) (sent : NMap Nat)
    (s : State) (r : SweepRun × State) : Prop :=
  ∃ sent' clamped' hs, r.1 = servedRun w sent' clamped' ∧ SweepKept s₁ r.2 ∧ r.2.mesh = s.mesh ++ hs
    ∧ sendsFrom c 2 (fun _ => 1) (fun k => servePkt s₁ c x w (tid + BitVec.ofNat 16 (k / 2 - k₀ / 2)) k) (getN 0 sent c) hs (getN 0 sent' c)
    ∧ (hs ≠ [] → openHop s c 0 3 = none)
theorem serveOn_sends {s₁ : State} {tid : BitVec 16} {k₀ : Nat} : ∀ (fuel : Nat) (sent : NMap Nat) (clamped : List Nat) (s : State),
    SweepKept s₁ s → k₀ ≤ getN 0 sent c → (coreOf s c).nextTid = tid + BitVec.ofNat 16 (getN 0 sent c / 2 - k₀ / 2) →
    serves s₁ c x w tid k₀ sent s (serveOn c x fuel (servedRun w sent clamped) s)
  | 0, sent, clamped, s, h, _, _ => ⟨sent, clamped, [], rfl, h, (List.append_nil _).symm, rfl, fun e => absurd rfl e⟩
  | fuel + 1, sent, clamped, s, h, hk, htid => by
    have hstop : serves s₁ c x w tid k₀ sent s (servedRun w sent clamped, s) :=
      ⟨sent, clamped, [], rfl, h, (List.append_nil _).symm, rfl, fun e => absurd rfl e⟩
    by_cases hall : 2 * sweepUnits (servedRun w sent clamped) ≤ getN 0 (servedRun w sent clamped).sent c
    · rw [show serveOn c x (fuel + 1) (servedRun w sent clamped) s = (servedRun w sent clamped, s) from if_pos hall]
      exact hstop
    · rw [serveOn_succ fuel hall]
      cases hin : inject s c 2 (servePkt s c x (servedRun w sent clamped) (coreOf s c).nextTid (getN 0 (servedRun w sent clamped).sent c)) with
      | none => exact hstop
      | some t =>
        obtain ⟨-, -, -, honly⟩ := inject_some hin
        let k := getN 0 sent c
        let u := contribution s x.1 x.2 c (servedRun w sent clamped) (k / 2 / w.heads) (k / 2 % w.heads)
        obtain ⟨hcounted, hnext⟩ := packetCounted_frame t c (servedRun w sent clamped) k u
        have hpkt : inject s c 2 (servePkt s₁ c x w (tid + BitVec.ofNat 16 (k / 2 - k₀ / 2)) k) = some t := by
          rw [← htid, ← h.servePkt_eq]
          exact hin
        have hcount : getN 0 (putN sent c (k + 1)) c = k + 1 := getN_putN_self ..
        have htid' : (coreOf (packetCounted t c (servedRun w sent clamped) k u) c).nextTid
            = tid + BitVec.ofNat 16 (getN 0 (putN sent c (k + 1)) c / 2 - k₀ / 2) := by
          have hk' : k₀ ≤ k := hk
          rw [hnext, honly.coreOf_eq, htid, BitVec.add_assoc, ← BitVec.ofNat_add, hcount]
          congr 2
          show k / 2 - k₀ / 2 + k % 2 = (k + 1) / 2 - k₀ / 2
          omega
        obtain ⟨sent', clamped', hs, hrun, hkept, hmesh, hsends, hfree⟩ := serveOn_sends fuel (putN sent c (k + 1))
          (if u.held = 0 then clamped else (clamped ++ [c]).eraseDups) (packetCounted t c (servedRun w sent clamped) k u)
          ((h.trans honly.sweepKept).trans hcounted.toSweepKept) (by rw [hcount]; exact Nat.le_succ_of_le hk) htid'
        rw [hcount] at hsends
        obtain ⟨g, hjoin, hcons, hopen⟩ := sendsFrom_cons (span := fun _ => 1)
          (pkt := fun k => servePkt s₁ c x w (tid + BitVec.ofNat 16 (k / 2 - k₀ / 2)) k) hpkt hcounted.mesh hsends hfree
        exact ⟨sent', clamped', g :: hs, hrun, hkept, by rw [← List.singleton_append, ← List.append_assoc, ← hjoin, ← hcounted.mesh]; exact hmesh,
          hcons, fun _ => hopen⟩
end

/-! The service. -/

section
variable {c p : Nat} {x : SweepDesc × (Nat × Nat → Nat)} {w : SweepRun} {s : State} {j : Job}

/-- The state at the first contribution of a service: its entries are written once (R254 step 1). -/
def entriesWritten (s : State) (c : Nat) (x : SweepDesc × (Nat × Nat → Nat)) (w : SweepRun) : State :=
  if (lookupN w.sent c).isSome then s else writeEntries s x.1 x.2 c w
theorem entriesWritten_frame (s : State) (c : Nat) (x : SweepDesc × (Nat × Nat → Nat)) (w : SweepRun) :
    (entriesWritten s c x w).cores = s.cores ∧ (entriesWritten s c x w).parts = s.parts ∧ (entriesWritten s c x w).mesh = s.mesh := by
  unfold entriesWritten
  split
  · exact ⟨rfl, rfl, rfl⟩
  · exact writeEntries_frame ..
theorem SweepKept.entriesWritten_kept {s t : State} (h : SweepKept s t) (c : Nat) (x : SweepDesc × (Nat × Nat → Nat)) (w : SweepRun) :
    SweepKept (entriesWritten s c x w) (entriesWritten t c x w) := by
  unfold entriesWritten
  split
  · exact h
  · exact h.writeEntries_kept ..

/-- The packets that a core has sent of its contribution, none at first. -/
def sentBefore (c : Nat) (w : SweepRun) : NMap Nat := if (lookupN w.sent c).isSome then w.sent else putN w.sent c 0
theorem getN_sentBefore (c : Nat) (w : SweepRun) : getN 0 (sentBefore c w) c = getN 0 w.sent c := by
  unfold sentBefore
  split
  · rfl
  · next h => rw [getN_putN_self, getN, Option.not_isSome_iff_eq_none.1 h]; rfl

/-- The run and the state that a service leaves, from those of its last packet. -/
def serviceEnded (c p : Nat) (w : SweepRun) (r : SweepRun × State) : State :=
  if 2 * sweepUnits w ≤ getN 0 r.1.sent c then
    putSweep (bumpC r.2 c 0x370 15 0 1) p w { r.1 with waiting := r.1.waiting.filter (· != c) }
  else putSweep r.2 p w r.1
theorem serveSweep_eq (s : State) (p c : Nat) (x : SweepDesc × (Nat × Nat → Nat)) (w : SweepRun) : serveSweep s p c x w
    = serviceEnded c p w (serveOn c x (2 * sweepUnits w) (servedRun w (sentBefore c w) w.clamped) (entriesWritten s c x w)) := by
  unfold serveSweep serviceEnded sentBefore entriesWritten servedRun
  by_cases h : (lookupN w.sent c).isSome = true
  · simp only [if_pos h]
  · simp only [if_neg h]

/-- The sweep takes the run of its service, and waits no more for a core that has sent all. -/
theorem serviceEnded_effect {r : SweepRun × State} {sent : NMap Nat} {clamped : List Nat} (hr : r.1 = servedRun w sent clamped)
    (hj : jobOf r.2 p = some j) (hw : w ∈ j.sweeps) : let t := serviceEnded c p w r
    ∃ j' v, jobOf t p = some j' ∧ v ∈ j'.sweeps ∧ v.sent = sent ∧ t.mesh = r.2.mesh ∧ memoriesKept r.2 t
      ∧ v.waiting = (if 2 * sweepUnits w ≤ getN 0 sent c then w.waiting.filter (· != c) else w.waiting) := by
  intro t
  have hsent : r.1.sent = sent := by rw [hr]; rfl
  have hwaiting : r.1.waiting = w.waiting := by rw [hr]; rfl
  by_cases hall : 2 * sweepUnits w ≤ getN 0 sent c
  · have ht : t = putSweep (bumpC r.2 c 0x370 15 0 1) p w { r.1 with waiting := r.1.waiting.filter (· != c) } := if_pos (by rwa [hsent])
    have hcounted := sweepCounted_bumpC r.2 c 0x370 15 0 1
    rw [ht, if_pos hall]
    exact ⟨_, _, jobOf_putSweep ((jobOf_of_parts hcounted.parts p).trans hj) .., mem_replace_self hw, hsent, hcounted.mesh,
      memoriesKept_trans hcounted.memories (memoriesKept_of_eq rfl rfl), congrArg (List.filter (· != c)) hwaiting⟩
  · have ht : t = putSweep r.2 p w r.1 := if_neg (by rwa [hsent])
    rw [ht, if_neg hall]
    exact ⟨_, _, jobOf_putSweep hj .., mem_replace_self hw, hsent, rfl, memoriesKept_of_eq rfl rfl, hwaiting⟩

theorem serveSweep_sends (hj : jobOf s p = some j) (hw : w ∈ j.sweeps) : let s₁ := entriesWritten s c x w; let k₀ := getN 0 w.sent c
    ∃ j' v hs, let t := serveSweep s p c x w
      jobOf t p = some j' ∧ v ∈ j'.sweeps ∧ t.mesh = s.mesh ++ hs
      ∧ sendsFrom c 2 (fun _ => 1) (fun k => servePkt s₁ c x w ((coreOf s c).nextTid + BitVec.ofNat 16 (k / 2 - k₀ / 2)) k) k₀ hs
          (getN 0 v.sent c)
      ∧ v.waiting = (if 2 * sweepUnits w ≤ getN 0 v.sent c then w.waiting.filter (· != c) else w.waiting) ∧ memoriesKept s₁ t := by
  intro s₁ k₀
  obtain ⟨hcores, hparts, hmesh⟩ := entriesWritten_frame s c x w
  have hcore : coreOf s₁ c = coreOf s c := by rw [coreOf, hcores]; rfl
  have hk₀ : getN 0 (sentBefore c w) c = k₀ := getN_sentBefore c w
  obtain ⟨sent, clamped, hs, hrun, hkept, rmesh, hsends, -⟩ := serveOn_sends (x := x) (w := w) (s₁ := s₁) (tid := (coreOf s c).nextTid)
    (k₀ := k₀) (2 * sweepUnits w) (sentBefore c w) w.clamped s₁ (SweepKept.refl s₁) (Nat.le_of_eq hk₀.symm)
    (by rw [hk₀, hcore, Nat.sub_self]; exact (BitVec.add_zero _).symm)
  rw [hk₀] at hsends
  obtain ⟨j', v, hj', hv, hsent, tmesh, tmem, hwait⟩ := serviceEnded_effect (c := c) hrun
    ((jobOf_of_parts (hkept.parts.trans hparts) p).trans hj) hw
  rw [← serveSweep_eq] at hj' tmesh tmem
  rw [← hsent] at hsends hwait
  exact ⟨j', v, hs, hj', hv, tmesh.trans (rmesh.trans (congrArg (· ++ hs) hmesh)), hsends, hwait, memoriesKept_trans hkept.memories tmem⟩
end

section
variable {c : CoreId} {s : State} {p : Nat} {j : Job} {x : SweepDesc × (Nat × Nat → Nat)} {w : SweepRun}

theorem readySlot_coreRequests (s : State) (c d : Nat) (cls : GrantClass) (first slots : Nat) (done : List Nat) :
    readySlot (coreRequests s c cls) d first slots done = readySlot s d first slots done := by
  have hsem : semOf (coreRequests s c cls) d = semOf s d := funext (fun n => by rw [semOf, coreOf_coreRequests]; rfl)
  rw [readySlot, hsem]
  rfl
theorem veReady_coreRequests (s : State) (c d : Nat) (cls : GrantClass) : veReady (coreRequests s c cls) d = veReady s d := by
  simp only [veReady, readySlot_coreRequests, coreOf_coreRequests]

/-- A sweep that a core has to serve is one of its job's. -/
theorem mem_of_sweepsToServe (hjob : runJobAt s c = some (p, j)) (h : (sweepsToServe s c).head? = some w) : w ∈ j.sweeps := by
  obtain ⟨hp, hj⟩ := runJobAt_eq hjob
  have hmem := List.mem_of_head? h
  simp only [sweepsToServe, hp, Option.bind_some, hj] at hmem
  exact (List.mem_filter.1 hmem).1

theorem exec_sweepService (hjob : runJobAt s c = some (p, j)) (hhead : (sweepsToServe s c).head? = some w)
    (hsec : sweepSection s p j w.draft = some x) (hon : coreOn s c = true) : exec (.sweepService c) s
      = .next (if !coreGranted (coreRequests s c 1) c 1 || veReady s c then coreRequests s c 1
          else serveSweep (coreRequests s c 1) p c x w) := by
  show execSweepService c s = _
  simp only [execSweepService, hjob, Option.bind_some, hhead, hsec, Option.map_some, hon, Bool.not_true, Bool.false_eq_true, if_false,
    veReady_coreRequests]

/-- Without a grant, or with the VE in use, a service only asks for grants. -/
theorem sweepService_asks (hjob : runJobAt s c = some (p, j)) (hhead : (sweepsToServe s c).head? = some w)
    (hsec : sweepSection s p j w.draft = some x) (hon : coreOn s c = true)
    (hbusy : coreGranted (coreRequests s c 1) c 1 = false ∨ veReady s c = true) :
    answers (.sweepService c) s (fun t => memoriesKept s t ∧ t.parts = s.parts ∧ t.mesh = s.mesh) := by
  have hexec := exec_sweepService hjob hhead hsec hon
  rw [if_pos (by simpa using hbusy)] at hexec
  have hcounted := sweepCounted_coreRequests s c 1
  exact ⟨_, hexec, hcounted.memories, hcounted.parts, hcounted.mesh⟩

/-- With a grant and the VE free it sends its contributions. -/
theorem sweepService_serves (hjob : runJobAt s c = some (p, j)) (hhead : (sweepsToServe s c).head? = some w)
    (hsec : sweepSection s p j w.draft = some x) (hon : coreOn s c = true) (hgrant : coreGranted (coreRequests s c 1) c 1 = true)
    (hidle : veReady s c = false) : let s₁ := entriesWritten s c x w; let k₀ := getN 0 w.sent c
    answers (.sweepService c) s (fun t => ∃ j' v hs, jobOf t p = some j' ∧ v ∈ j'.sweeps ∧ t.mesh = s.mesh ++ hs
      ∧ sendsFrom c 2 (fun _ => 1) (fun k => servePkt s₁ c x w ((coreOf s c).nextTid + BitVec.ofNat 16 (k / 2 - k₀ / 2)) k) k₀ hs
          (getN 0 v.sent c)
      ∧ v.waiting = (if 2 * sweepUnits w ≤ getN 0 v.sent c then w.waiting.filter (· != c.val) else w.waiting)
      ∧ (∀ k, (clOf t k).vault = (clOf s₁ k).vault) ∧ ∀ k, (coreOf t k).spad = (coreOf s k).spad) := by
  intro s₁ k₀
  have hexec := exec_sweepService hjob hhead hsec hon
  rw [if_neg (by simp [hgrant, hidle])] at hexec
  have hasked := sweepCounted_coreRequests s c 1
  have hkept : SweepKept s₁ (entriesWritten (coreRequests s c 1) c x w) := hasked.toSweepKept.entriesWritten_kept c x w
  obtain ⟨j', v, hs, hj', hv, hmesh, hsends, hwait, hmem⟩ := serveSweep_sends (c := c.val) (x := x)
    ((jobOf_of_parts hasked.parts p).trans (runJobAt_eq hjob).2) (mem_of_sweepsToServe hjob hhead)
  simp only [hkept.servePkt_eq, coreOf_coreRequests] at hsends
  obtain ⟨hspads, hvaults⟩ := memoriesKept_trans hkept.memories hmem
  obtain ⟨hcores, -, -⟩ := entriesWritten_frame s c x w
  refine ⟨_, hexec, j', v, hs, hj', hv, hmesh.trans (congrArg (· ++ hs) hasked.mesh), hsends, hwait, hvaults, fun k => (hspads k).trans ?_⟩
  rw [show coreOf s₁ k = coreOf s k by rw [coreOf, hcores]; rfl]
end

/-- Settles O22: SWEEP as a transfer, the hub's multicast and results and a core's contributions as packets that join VC2's buffer one
behind another. -/
theorem sweepsReachTheHubAndReturn : Obligations.SweepsReachTheHubAndReturn := by
  refine ⟨⟨fun c s i p j e hat hlev hdesc hjob hsec htree hheads hheads' hn hn' hQ hL hR => ⟨fun hopen hfull => ?_, fun slot hslot _ hready => ?_⟩,
    fun p s j e w hj hnext hsec hon => hubSweepTake_spreads hj hnext hsec hon⟩,
    fun c s p j x w hjob hhead hsec hon => ⟨sweepService_asks hjob hhead hsec hon, sweepService_serves hjob hhead hsec hon⟩,
    fun p s j e w hj hnext hsec hon => sweepResult_sends hj hnext hsec hon⟩
  · have hbody := (sweepBody_sends (i := i) hlev hdesc hjob hsec htree hheads hheads' hn hn' hQ hL hR).trans (sendSweep_holds hopen hfull)
    exact congrArg Host.Outcome.next (runEngine_hold hat hbody)
  · have hbody := sweepBody_sends (i := i) hlev hdesc hjob hsec htree hheads hheads' hn hn' hQ hL hR
    exact sweep_sends hat (by rw [List.length_append, spadRead, spadRead, memRead_length, memRead_length]) hbody hjob hslot hready

end Sys2Proof.Machine
end

section
/-! PROOF. What messages and records toward the host leave of the ports (R523, R525, R528, R533): the parked images, what has been sent
before, and every queue that they do not write. -/

namespace Sys2Proof.Machine

/-! Messages (R525). -/

/-- Every port has its parked images, and what it had sent, with what it has sent since. -/
structure PortsPost (s t : State) : Prop where
  images : ∀ n, (wlOf t n).images = (wlOf s n).images
  sent : ∀ n, (wlOf s n).out <+: (wlOf t n).out

theorem portsPost_refl (s : State) : PortsPost s s := ⟨fun _ => rfl, fun _ => List.prefix_refl _⟩
theorem PortsPost.trans {s t u : State} (h : PortsPost s t) (g : PortsPost t u) : PortsPost s u :=
  ⟨fun n => (g.images n).trans (h.images n), fun n => (h.sent n).trans (g.sent n)⟩
theorem portsPost_of_wl {s t : State} (h : t.wl = s.wl) : PortsPost s t :=
  ⟨fun n => by rw [wlOf, h, wlOf], fun n => by rw [wlOf, wlOf, h]⟩
theorem portsPost_updWl (s : State) (n : Nat) {f : WlState → WlState} (hi : ∀ v, (f v).images = v.images)
    (ho : ∀ v, v.out <+: (f v).out) : PortsPost s (updWl s n f) := by
  constructor <;> intro k <;> rw [wlOf_updWl] <;> split
  · next e => rw [hi, e]
  · rfl
  · next e => rw [e]; exact ho _
  · exact List.prefix_refl _

theorem portsPost_wlPost (s : State) (n : Nat) (m : HostMsg) : PortsPost s (wlPost s n m) :=
  portsPost_updWl s n (fun _ => rfl) (fun _ => List.prefix_append ..)
theorem portsPost_hostWrite (s : State) (n addr : Nat) (b : Bytes) : PortsPost s (hostWrite s n addr b) :=
  foldl_rel portsPost_refl PortsPost.trans (fun t m => portsPost_wlPost t n m) _ s
theorem queues_hostWrite (s : State) (n addr : Nat) (b : Bytes) (k : Nat) :
    (wlOf (hostWrite s n addr b) k).queues = (wlOf s k).queues :=
  foldl_keeps (fun t => (wlOf t k).queues) _ _ s (fun t m _ => by
    rw [wlPost, wlOf_updWl]
    split
    · next e => rw [e]
    · rfl)

theorem chunks_single {α : Type} {n : Nat} {l : List α} (h0 : l ≠ []) (hn : l.length < n) : chunks n l = [l] := by
  obtain ⟨x, t, rfl⟩ := List.exists_cons_of_ne_nil h0
  rw [chunks, Nat.div_eq_of_lt hn, chunksOf, List.take_of_length_le hn.le, chunksOf]
  exact List.cons_ne_nil x t

/-- A short host write is one message. -/
theorem hostWrite_single (s : State) (n addr : Nat) {b : Bytes} (h0 : b ≠ []) (hn : b.length < 4096) :
    hostWrite s n addr b = wlPost s n (.mwr (BitVec.ofNat 64 addr) b) := by
  rw [hostWrite, chunks_single h0 hn]; rfl

/-! Queues (R528). -/

theorem portsPost_queueWrite (s : State) (q units : Nat) (b : Bytes) : PortsPost s (queueWrite s q units b) := by
  unfold queueWrite
  split
  · exact portsPost_refl s
  · exact PortsPost.trans (portsPost_hostWrite ..)
      (PortsPost.trans (portsPost_hostWrite ..) (portsPost_updWl _ _ (fun _ => rfl) (fun _ => List.prefix_refl _)))

/-- A queue's tail goes on by the entries written. -/
theorem queueAt_queueWrite_self {s : State} {q : Nat} {w : WlQueue} (h : queueAt s q = some w) (units : Nat) (b : Bytes) :
    queueAt (queueWrite s q units b) q = some { w with tail := w.tail + BitVec.ofNat 32 units } := by
  simp only [queueWrite, h]
  rw [queueAt, wlOf_updWl_self, lookupN_putN_self]
theorem queueAt_queueWrite_ne (s : State) {q k : Nat} (h : k ≠ q) (units : Nat) (b : Bytes) :
    queueAt (queueWrite s q units b) k = queueAt s k := by
  unfold queueWrite
  split
  · rfl
  · simp only [queueAt, wlOf_updWl]
    split
    · next e => rw [lookupN_putN_ne h, queues_hostWrite, queues_hostWrite, e]
    · rw [queues_hostWrite, queues_hostWrite]

/-- A short record is sent to the address of the queue's tail. -/
theorem queueWrite_sends {s : State} {q : Nat} {w : WlQueue} (h : queueAt s q = some w) (units : Nat) {b : Bytes} (h0 : b ≠ [])
    (hn : b.length < 4096) : HostMsg.mwr (BitVec.ofNat 64 (w.base.toNat + w.tail.toNat % w.entries.toNat * entrySize w.kind.toNat)) b
      ∈ (wlOf (queueWrite s q units b) (portOf q)).out := by
  simp only [queueWrite, h, wlOf_updWl_self]
  refine ((portsPost_hostWrite _ (portOf q) w.indexAddr.toNat _).sent (portOf q)).subset ?_
  rw [hostWrite_single _ _ _ h0 hn, (wlPost_frame ..).2.2]
  exact List.mem_append_right _ (List.mem_singleton_self _)

/-! The Logbook (R390, R391). -/

theorem portsPost_logPost (s : State) (q : Nat) (b : Bytes) : PortsPost s (logPost s q b) := by
  unfold logPost
  split
  · exact portsPost_refl s
  · refine PortsPost.trans ?_ (portsPost_queueWrite ..)
    split
    · exact portsPost_refl s
    · exact portsPost_queueWrite ..
theorem logStall_wl (s : State) (p : Nat) : (logStall s p).wl = s.wl := by
  unfold logStall; split <;> rfl
theorem portsPost_logInput (s : State) (p type flags : Nat) (req index : Option Nat) (payload : Bytes) :
    PortsPost s (logInput s p type flags req index payload) := by
  unfold logInput
  split
  · dsimp only
    split
    · exact .trans (t := updPart s p _) (portsPost_of_wl rfl) (portsPost_logPost ..)
    · exact portsPost_of_wl (logStall_wl ..)
  · exact portsPost_refl s
theorem logPause_frame (s : State) (p h : Nat) : onlyRecords s (logPause s p h) ∧ PortsPost s (logPause s p h) := by
  unfold logPause
  split
  · exact ⟨onlyRecords_trans (t := (freeBytes s 1).2) ⟨rfl, jobsKept_refl s⟩ (logInput_frame ..),
      PortsPost.trans (t := (freeBytes s 1).2) (portsPost_of_wl rfl) (portsPost_logInput ..)⟩
  · exact ⟨onlyRecords_refl s, portsPost_refl s⟩

/-! Held completion records (R533). -/

/-- Completion records that go out: no memory differs, requests at most leave the table, and no queue of another kind differs. -/
structure RecordsFlushed (s t : State) : Prop where
  memories : memoriesKept s t
  reqs : ∀ h r, reqOf t h = some r → reqOf s h = some r
  ports : PortsPost s t
  queues : ∀ q w, queueAt s q = some w → w.kind ≠ 3#8 → queueAt t q = some w

theorem recordsFlushed_refl (s : State) : RecordsFlushed s s := ⟨memoriesKept_refl s, fun _ _ => id, portsPost_refl s, fun _ _ h _ => h⟩
theorem RecordsFlushed.trans {s t u : State} (h : RecordsFlushed s t) (g : RecordsFlushed t u) : RecordsFlushed s u :=
  ⟨memoriesKept_trans h.memories g.memories, fun k r hr => h.reqs k r (g.reqs k r hr), PortsPost.trans h.ports g.ports,
    fun q w hw hk => g.queues q w (h.queues q w hw hk) hk⟩
theorem recordsFlushed_delReq (s : State) (h : Nat) : RecordsFlushed s { s with reqs := delN s.reqs h } := by
  refine ⟨memoriesKept_of_eq rfl rfl, fun k r hr => ?_, portsPost_of_wl rfl, fun _ _ hw _ => hw⟩
  simp only [reqOf] at hr ⊢
  by_cases e : k = h
  · subst e; simp at hr
  · rwa [lookupN_delN_ne e] at hr
theorem recordsFlushed_queueWrite {s : State} {q : Nat} (h : queueRoom s q 3 1 = true) (b : Bytes) :
    RecordsFlushed s (queueWrite s q 1 b) := by
  refine ⟨memoriesKept_of_eq (by rw [queueWrite_frame]) (by rw [queueWrite_frame]), fun k r hr => by rwa [queueWrite_frame] at hr,
    portsPost_queueWrite .., fun k w hw hk => ?_⟩
  have hne : k ≠ q := by
    rintro rfl
    simp only [queueRoom, hw, Bool.and_eq_true, beq_iff_eq] at h
    exact hk (BitVec.eq_of_toNat_eq h.1.2)
  rw [queueAt_queueWrite_ne s hne, hw]

theorem flushRecs_flushed (n : Nat) : ∀ (l : List (BitVec 16 × Option Nat × Bytes)) (s : State) kept,
    RecordsFlushed s (flushRecs l s n kept)
  | [], s, kept => by
    refine ⟨memoriesKept_of_eq rfl rfl, fun _ _ => id, portsPost_updWl s n (fun _ => rfl) (fun _ => List.prefix_refl _),
      fun q w hw _ => ?_⟩
    rw [← hw, flushRecs, queueAt, queueAt, wlOf_updWl]
    split
    · next e => rw [e]
    · rfl
  | e :: t, s, kept => by
    unfold flushRecs
    extract_lets ringEmpty s1 s2
    split
    · next h =>
      refine (recordsFlushed_queueWrite (Bool.and_eq_true_iff.1 h).2 e.2.2).trans (.trans (t := s2) ?_ (flushRecs_flushed n t s2 kept))
      simp only [s2]
      split
      · split
        · split
          · exact recordsFlushed_delReq ..
          · exact recordsFlushed_refl s1
        · exact recordsFlushed_refl s1
      · exact recordsFlushed_refl s1
    · exact flushRecs_flushed n t s _
theorem flushHeld_flushed (s : State) (n : Nat) : RecordsFlushed s (flushHeld s n) := flushRecs_flushed ..

end Sys2Proof.Machine
end

section
/-! PROOF. What folds, counts and Logbook records leave of the requests (R281, R307, R383), and what a replay of a job's steps does
(R359). -/

namespace Sys2Proof.Machine

/-- A request without its running Plate and its counts. -/
def bareReq (r : Request) : Request := { r with chain := [], counts := [], untracked := false }

/-- Every scratchpad is as it was, and every request, but for its running Plate and its counts. -/
structure RequestsKept (s t : State) : Prop where
  spads : spadsKept s t
  reqs : ∀ h, (reqOf t h).map bareReq = (reqOf s h).map bareReq

theorem requestsKept_refl (s : State) : RequestsKept s s := ⟨fun _ => rfl, fun _ => rfl⟩
theorem RequestsKept.trans {s t u : State} (h : RequestsKept s t) (g : RequestsKept t u) : RequestsKept s u :=
  ⟨fun c => (g.spads c).trans (h.spads c), fun k => (g.reqs k).trans (h.reqs k)⟩
theorem requestsKept_foldl {α : Type} {f : State → α → State} (h : ∀ s a, RequestsKept s (f s a)) (l : List α) (s : State) :
    RequestsKept s (l.foldl f s) := foldl_rel requestsKept_refl RequestsKept.trans h l s
theorem requestsKept_of_reqs {s t : State} (hs : spadsKept s t) (hr : t.reqs = s.reqs) : RequestsKept s t :=
  ⟨hs, fun h => by rw [reqOf, hr, reqOf]⟩
theorem requestsKept_of_eq {s t : State} (hc : t.cores = s.cores) (hr : t.reqs = s.reqs) : RequestsKept s t :=
  requestsKept_of_reqs (fun c => by simp only [coreOf, hc]) hr
theorem onlyBooks.kept {s t : State} (h : onlyBooks s t) : RequestsKept s t := requestsKept_of_eq (by rw [h]) (by rw [h])

/-- A request that was there is there. -/
theorem RequestsKept.stays {s t : State} (k : RequestsKept s t) {h : Nat} {r : Request} (hr : reqOf s h = some r) :
    ∃ x, reqOf t h = some x ∧ bareReq x = bareReq r :=
  Option.map_eq_some_iff.1 ((k.reqs h).trans (congrArg _ hr))
/-- A request that is there was there. -/
theorem RequestsKept.was {s t : State} (k : RequestsKept s t) {h : Nat} {x : Request} (hx : reqOf t h = some x) :
    ∃ r, reqOf s h = some r ∧ bareReq r = bareReq x :=
  Option.map_eq_some_iff.1 ((k.reqs h).symm.trans (congrArg _ hx))

theorem requestsKept_setReq {s : State} {h : Nat} {r v : Request} (hr : reqOf s h = some r) (hv : bareReq v = bareReq r) :
    RequestsKept s (setReq s h v) := by
  refine ⟨fun _ => rfl, fun k => ?_⟩
  rw [reqOf_setReq]
  split
  · next e => rw [e, hr, Option.map_some, hv, Option.map_some]
  · rfl
theorem requestsKept_updReq (s : State) (h : Nat) {f : Request → Request} (hf : ∀ r, bareReq (f r) = bareReq r) :
    RequestsKept s (updReq s h f) := by
  unfold updReq
  split
  · next r hr => exact requestsKept_setReq hr (hf r)
  · exact requestsKept_refl s

/-! Folds and counts (R281, R383). -/

theorem foldReq_kept (s : State) (h type : Nat) (payload : Bytes) : RequestsKept s (foldReq s h type payload) :=
  requestsKept_updReq s h (fun _ => rfl)
theorem foldMasks_kept (s : State) (h : Nat) : RequestsKept s (foldMasks s h) := by
  unfold foldMasks
  split
  · exact requestsKept_foldl (fun t m => foldReq_kept ..) _ s
  · exact requestsKept_refl s
theorem foldEnd_kept (s : State) (h reason stop : Nat) : RequestsKept s (foldEnd s h reason stop) := by
  unfold foldEnd
  split
  · next r hr =>
    refine .trans ?_ (foldReq_kept ..)
    split
    · exact requestsKept_setReq hr rfl
    · exact requestsKept_refl s
  · exact requestsKept_refl s
theorem countToken_kept (s : State) (h id : Nat) : RequestsKept s (countToken s h id) := by
  unfold countToken
  split
  · exact requestsKept_refl s
  · next r hr =>
    split
    · exact requestsKept_setReq hr rfl
    · have hmark : RequestsKept s (setReq s h { r with untracked := true }) := requestsKept_setReq hr rfl
      dsimp only
      split
      · exact hmark
      · exact hmark.trans (onlyBooks_stwEvent ..).kept

/-! Drafts (R298, R307). -/

theorem noteDraft_kept (s : State) (p : Nat) (digest : Bytes) : RequestsKept s (noteDraft s p digest) := by
  unfold noteDraft
  refine (requestsKept_foldl (fun t h => ?_) (partReqs s p) s).trans (logInput_frame ..).1.kept
  split
  · split
    · exact foldReq_kept ..
    · exact requestsKept_refl t
  · exact requestsKept_refl t
theorem unloadDraft_kept (s : State) (p : Nat) (x : Draft) : RequestsKept s (unloadDraft s p x) := by
  unfold unloadDraft
  extract_lets s1 s2 s3
  have h3 : RequestsKept s s3 := onlyBooks.kept (onlyBooks_trans (t := s1) rfl
    (onlyBooks_trans (onlyBooks_foldl (fun t h => freeExtents_frame ..) _ s1) (onlyBooks_updJob s2 p _)))
  split
  · exact h3.trans (noteDraft_kept ..)
  · exact h3
theorem draftCheck_kept (s : State) (p : Nat) : RequestsKept s (draftCheck s p) := by
  unfold draftCheck
  split
  · split
    · exact unloadDraft_kept ..
    · exact requestsKept_refl s
  · exact requestsKept_refl s

/-! A replay of a job's steps (R359, R360). -/

theorem requestsKept_setCore (s : State) (c : Nat) {v : CoreState} (hv : v.spad = (coreOf s c).spad) : RequestsKept s (setCore s c v) :=
  requestsKept_of_reqs (requestsSettle_setCore s c hv).1 rfl
theorem requestsKept_updCore (s : State) (c : Nat) {f : CoreState → CoreState} (hf : ∀ v, (f v).spad = v.spad) :
    RequestsKept s (updCore s c f) := requestsKept_setCore s c (hf _)
theorem drainEnd_kept (s : State) (c : Nat) : RequestsKept s (drainEnd s c) := by
  refine requestsKept_of_reqs (drainEnd_settle s c).1 ?_
  unfold drainEnd
  extract_lets v empty
  split
  · rw [(doorbellAt_frame ..).1]; rfl
  · rfl
theorem haltSeq_kept (s : State) (c : Nat) : RequestsKept s (haltSeq s c) := by
  unfold haltSeq
  extract_lets v
  split
  · refine .trans ?_ (drainEnd_kept ..)
    exact requestsKept_setCore s c rfl
  · exact requestsKept_refl s
theorem onlyMesh.kept {s t : State} (h : onlyMesh s t) : RequestsKept s t := requestsKept_of_eq (by rw [h]) (by rw [h])
theorem dropHops_kept (s : State) (p : Nat) (vc0 : Bool) : RequestsKept s (dropHops s p vc0) := by
  unfold dropHops
  extract_lets s1 s2
  have h1 : RequestsKept s s1 := (onlyMesh_foldl _ (fun t h => (dropHop_frame t h).1) _ s).kept
  refine h1.trans (.trans (t := s2) (requestsKept_of_eq rfl rfl) (requestsKept_foldl (fun t c => ?_) _ s2))
  split
  · exact requestsKept_refl t
  · exact (onlyMesh_updRouter ..).kept
theorem rewindCore_kept (s : State) (c step : Nat) (x : StreamImage) : RequestsKept s (rewindCore s c step x) := by
  unfold rewindCore
  extract_lets s1 s2
  have hclear : RequestsKept s2 (clearErr s2 c) := by
    unfold clearErr
    split
    · exact requestsKept_refl s2
    · exact requestsKept_updCore s2 c (fun _ => rfl)
  have h2 : RequestsKept s s2 :=
    .trans (t := s1) (requestsKept_updCore s c (fun _ => rfl)) (requestsKept_updCore s1 c (fun _ => rfl))
  have h3 : RequestsKept (clearErr s2 c) (setCreg (clearErr s2 c) c 0x50 x.first.toNat) := requestsKept_updCore _ c (fun _ => rfl)
  refine h2.trans (hclear.trans (h3.trans ?_))
  exact requestsKept_updCore _ c (fun _ => rfl)
theorem rewindRegion_kept (s : State) (p r : Nat) : RequestsKept s (rewindRegion s p r) := by
  unfold rewindRegion
  split
  · exact requestsKept_refl s
  · extract_lets cs step s1
    have h1 : RequestsKept s s1 := (onlyBooks_foldl (fun t k => onlyBooks_updCl t k _) _ s).kept
    refine h1.trans (requestsKept_foldl (fun t x => ?_) _ s1)
    dsimp only
    split
    · exact rewindCore_kept ..
    · exact requestsKept_refl t
theorem replaySteps_kept (s : State) (p : Nat) (upstream : Option Nat) : RequestsKept s (replaySteps s p upstream) := by
  unfold replaySteps
  split
  · exact requestsKept_refl s
  · extract_lets s1 live s2 s3 s4
    have h1 : RequestsKept s s1 := by
      simp only [s1]
      split
      · exact (onlyBooks_updJob ..).kept
      · exact requestsKept_refl s
    have h2 : RequestsKept s1 s2 := requestsKept_foldl (fun t r => requestsKept_foldl haltSeq_kept _ t) live s1
    have h3 : RequestsKept s2 s3 := (onlyBooks_updJob s2 p _).kept.trans (dropHops_kept ..)
    have h4 : RequestsKept s3 s4 := requestsKept_foldl (fun t r => rewindRegion_kept t p r) live s3
    exact h1.trans (h2.trans (h3.trans (h4.trans (onlyBooks_stwEvent ..).kept)))

/-! Extents and images (R246, R247, R261). -/

theorem onlyBooks_vaultWrite (s : State) (k a : Nat) (b : Bytes) : onlyBooks s (vaultWrite s k a b) := rfl
theorem placeAt_frame {d : SweepDesc} {h n len : Nat} {phys : Nat × Nat → Nat} : ∀ {l : List Nat} {s u : State},
    placeAt d h n len phys l s = some u → onlyBooks s u
  | [], _, _, e => by obtain rfl := Option.some.inj e; rfl
  | c :: t, s, u, e => by
    rw [placeAt] at e
    dsimp only at e
    split at e
    · exact placeAt_frame e
    · split at e
      · cases e
      · exact onlyBooks_trans (onlyBooks_trans (onlyBooks_updCl ..) (onlyBooks_vaultWrite ..)) (placeAt_frame e)
/-- A request's place changes clusters alone. -/
theorem placeRequest_frame {s u : State} {p h n : Nat} {r : Request} (e : placeRequest s p h r n = some u) : onlyBooks s u := by
  unfold placeRequest at e
  split at e
  · cases e
  · next j hj =>
    have main : ∀ {v}, (match sweepDesc j with
        | some d => placeExtents d h (rReq r) n (physCore s p j) s
        | none => some s) = some v → onlyBooks s v := by
      intro v hv
      split at hv
      · exact placeAt_frame hv
      · obtain rfl := Option.some.inj hv; rfl
    dsimp only at e
    split at e
    · split at e
      · obtain ⟨v, hv, hu⟩ := Option.bind_eq_some_iff.1 e
        exact onlyBooks_trans (main hv) (placeAt_frame hu)
      · exact main e
    · exact main e
theorem writeCache_frame (s : State) (p : Nat) (j : Job) (d : SweepDesc) (h n reserved len : Nat) (body : Bytes) :
    onlyBooks s (writeCache s p j d h n reserved len body) := by
  refine onlyBooks_foldl (fun t l => onlyBooks_foldl (fun u pos => ?_) _ t) _ s
  split
  · exact onlyBooks_vaultWrite ..
  · exact onlyBooks_refl u
theorem replaceExtents_frame {s u : State} {p h want : Nat} {j : Job} {d : SweepDesc} {r : Request}
    (e : replaceExtents s p j d h r want = some u) : onlyBooks s u := by
  obtain ⟨v, hv, rfl⟩ := Option.map_eq_some_iff.1 e
  exact onlyBooks_trans (dropExtents_frame ..) (onlyBooks_trans (placeRequest_frame hv) (writeCache_frame ..))

end Sys2Proof.Machine
end

section
/-! PROOF. How requests go on (R261 to R263, R275, R287, R289, R290, R368): admission, token records, caches that leave and return, the end by
time-to-live, and the restart of one request. -/

namespace Sys2Proof.Machine

theorem onlyBooks.reqOf_eq {s t : State} (h : onlyBooks s t) (k : Nat) : reqOf t k = reqOf s k := by rw [h]; rfl
theorem onlyBooks.spads {s t : State} (h : onlyBooks s t) : spadsKept s t := h.kept.spads
theorem spadsKept_trans {s t u : State} (h : spadsKept s t) (g : spadsKept t u) : spadsKept s u := fun c => (g c).trans (h c)

/-! Admission (R275). -/

/-- A request as it is admitted, with the Plate that it starts from. -/
def admittedReq (s : State) (r : Request) : Request := { r with st := .prefill, placed := true, cached := 0, chain := startChain s r }

/-- Without replayed inputs none is applied. -/
theorem applyInputs_kept {s : State} {h : Nat} {x : Request} (hx : reqOf s h = some x) (hi : x.inputs = []) :
    RequestsKept s (applyInputs s h) := by
  have heq : applyInputs s h = setReq s h { x with inputs := [] } := by simp [applyInputs, hx, hi]
  rw [heq]
  exact requestsKept_setReq hx (by rw [← hi])

/-- After the request's own entry, its admission folds, counts and records. -/
theorem admitAt_kept (s : State) (p h : Nat) {r : Request} (hi : r.inputs = []) :
    RequestsKept (setReq s h (admittedReq s r)) (admitAt s p h r) := by
  unfold admitAt
  extract_lets s1 s2 s3 s4 s5
  have h2 : RequestsKept s1 s2 := (logInput_frame ..).1.kept
  have h3 : RequestsKept s2 s3 := by
    simp only [s3]
    split
    · exact foldReq_kept ..
    · exact requestsKept_refl s2
  have h4 : RequestsKept s3 s4 := by
    simp only [s4]
    split
    · exact requestsKept_foldl (fun t i => countToken_kept ..) _ s3
    · exact requestsKept_refl s3
  have h5 : RequestsKept s4 s5 := by
    simp only [s5]
    split
    · exact requestsKept_of_eq rfl rfl
    · exact requestsKept_refl s4
  have hall : RequestsKept s1 (foldMasks s5 h) := h2.trans (h3.trans (h4.trans (h5.trans (foldMasks_kept ..))))
  obtain ⟨x, hx, hbare⟩ := hall.stays (h := h) (r := admittedReq s r) (by simp [s1, reqOf_setReq, admittedReq])
  exact hall.trans (applyInputs_kept hx ((congrArg Request.inputs hbare :).trans hi))

theorem bindLate_cores (s : State) (h : Nat) : (bindLate s h).cores = s.cores := by
  unfold bindLate
  split
  · split <;> rfl
  · rfl

section
variable {s s' : State} {p : PartId} (hserves : servesPart s p = true) (hjob : jobServes s p = true)
  (hopen : s.stw.admissionStopped = false) (hrun : inRun s = true) (hup : stewardUp s = true)
  (hs : (partReqs s p).foldl bindLate s = s')
include hserves hjob hopen hrun hup hs

/-- The first interactive request is admitted where it is placed. -/
theorem admission_admits {e : Nat × Request} {r : Request} {u : State} (hhead : (queuedOf s' p 0).head? = some e)
    (hr : r = if e.2.specD = 0 then { e.2 with specD := startDraft s' p } else e.2) (hi : e.2.inputs = [])
    (hlog : logReady s' p (admitPayload s' r).length = true) (hplace : placeRequest s' p e.1 r r.reserved = some u) :
    answers (.admission p) s (fun t => ∃ x, reqOf t e.1 = some x ∧ x.st = .prefill ∧ x.placed = true ∧ x.cached = 0
      ∧ x.desc = r.desc ∧ x.tokens = r.tokens ∧ x.specD = r.specD ∧ spadsKept s t) := by
  have htry : tryAdmit s' p e = (admitAt u p e.1 r, true) := by
    rw [tryAdmit, ← hr]
    simp [hlog, hplace]
  have hexec : exec (.admission p) s = .next (admitAt u p e.1 r) := by
    show execAdmission p s = _
    simp [execAdmission, hserves, hjob, hopen, hrun, hup, hs, hhead, htry]
  have hri : r.inputs = [] := by rw [hr]; split <;> exact hi
  have hkept := admitAt_kept u p e.1 hri
  obtain ⟨x, hx, hbare⟩ := hkept.stays (h := e.1) (r := admittedReq u r) (by simp [reqOf_setReq])
  refine ⟨_, hexec, x, hx, (congrArg Request.st hbare :), (congrArg Request.placed hbare :), (congrArg Request.cached hbare :),
    (congrArg Request.desc hbare :), (congrArg Request.tokens hbare :), (congrArg Request.specD hbare :), ?_⟩
  have hbound : s'.cores = s.cores := hs ▸ foldl_keeps State.cores _ _ s (fun t h _ => bindLate_cores t h)
  have hstart : spadsKept s s' := fun c => by simp only [coreOf, hbound]
  exact spadsKept_trans hstart (spadsKept_trans (placeRequest_frame hplace).spads hkept.spads)

theorem admission_idle (h0 : queuedOf s' p 0 = []) (h1 : queuedOf s' p 1 = []) : exec (.admission p) s = .next s' := by
  have hbulk : nextBulk s' p = none := by simp [nextBulk, h1]
  show execAdmission p s = _
  simp [execAdmission, hserves, hjob, hopen, hrun, hup, hs, h0, hbulk]
end

/-! Token records (R287). -/

/-- A token record as it is posted, with POST_TIME and SEQ. -/
def tokenEntry (s : State) (q : Nat) (w : WlQueue) (b : Bytes) : Bytes :=
  sliceB b 0 0x18 ++ leBytes 4 (localTime s (serviceCc (portOf q))) ++ leBytes 2 w.seq.toNat ++ zeros 2
/-- A queue's SEQ goes on. -/
def seqAdvanced (s : State) (q : Nat) : State :=
  updWl s (portOf q) (fun v => { v with queues := v.queues.map (fun e => if e.1 = q then (e.1, { e.2 with seq := e.2.seq + 1 }) else e) })

theorem lookupN_map_at {α : Type} (i : Nat) (f : α → α) : ∀ m : List (Nat × α),
    lookupN (m.map (fun e => if e.1 = i then (e.1, f e.2) else e)) i = (lookupN m i).map f
  | [] => rfl
  | (k, v) :: t => by
    by_cases e : k = i
    · simp [lookupN, e]
    · simp [lookupN, e, Ne.symm e, lookupN_map_at i f t]
theorem queueAt_seqAdvanced {s : State} {q : Nat} {w : WlQueue} (h : queueAt s q = some w) :
    queueAt (seqAdvanced s q) q = some { w with seq := w.seq + 1 } := by
  rw [queueAt, seqAdvanced, wlOf_updWl_self]
  exact (lookupN_map_at q (fun w => { w with seq := w.seq + 1 }) _).trans (congrArg _ h)

section
variable {s : State} {h : Slot} {r : Request} {b : Bytes} {rest : List Bytes} {w : WlQueue}
  (hr : reqOf s h = some r) (hring : r.ring = b :: rest) (hroom : queueRoom s (rTq r) 2 1 = true) (hq : queueAt s (rTq r) = some w)
include hr hring hroom hq

/-- The state with the record in its queue and off its ring, before held completion records go out behind it. -/
theorem exec_tokenPost : exec (.tokenPost h) s = .next (flushHeld
    (setReq (seqAdvanced (queueWrite s (rTq r) 1 (tokenEntry s (rTq r) w b)) (rTq r)) h { r with ring := rest }) (portOf (rCq r))) := by
  show Host.Outcome.next (postToken s h) = _
  simp only [postToken, hr, hring, hroom, hq, Bool.not_true, Bool.false_eq_true, if_false]
  rfl

theorem tokenPost_posts : answers (.tokenPost h) s (fun t => (∀ x, reqOf t h = some x → x.ring = rest) ∧ memoriesKept s t
    ∧ (∃ w', queueAt t (rTq r) = some w' ∧ w'.tail = w.tail + 1 ∧ w'.seq = w.seq + 1)
    ∧ HostMsg.mwr (BitVec.ofNat 64 (w.base.toNat + w.tail.toNat % w.entries.toNat * 32)) (tokenEntry s (rTq r) w b)
        ∈ (wlOf t (portOf (rTq r))).out) := by
  have hkind : w.kind.toNat = 2 := by
    simp only [queueRoom, hq, Bool.and_eq_true, beq_iff_eq] at hroom
    exact hroom.1.2
  have hlen : (tokenEntry s (rTq r) w b).length = 32 := by simp [tokenEntry]
  have hsent := queueWrite_sends hq 1 (b := tokenEntry s (rTq r) w b) (List.ne_nil_of_length_pos (by omega)) (by omega)
  rw [hkind] at hsent
  refine ⟨_, exec_tokenPost hr hring hroom hq, ?_⟩
  have hqueue := queueAt_seqAdvanced (queueAt_queueWrite_self hq 1 (tokenEntry s (rTq r) w b))
  have hwrite := queueWrite_frame s (rTq r) 1 (tokenEntry s (rTq r) w b)
  generalize queueWrite s (rTq r) 1 (tokenEntry s (rTq r) w b) = s1 at hqueue hsent hwrite ⊢
  have hflush := flushHeld_flushed (setReq (seqAdvanced s1 (rTq r)) h { r with ring := rest }) (portOf (rCq r))
  have hadv : PortsPost s1 (seqAdvanced s1 (rTq r)) := portsPost_updWl s1 _ (fun _ => rfl) (fun _ => List.prefix_refl _)
  refine ⟨fun x hx => ?_, memoriesKept_trans ?_ hflush.memories, ⟨_, hflush.queues _ _ hqueue ?_, rfl, rfl⟩, ?_⟩
  · have hx' := hflush.reqs h x hx
    rw [reqOf_setReq, if_pos rfl] at hx'
    rw [← Option.some.inj hx']
  · exact memoriesKept_of_eq (congrArg State.cores hwrite :) (congrArg State.clusters hwrite :)
  · intro e
    rw [show w.kind = 3#8 from e] at hkind
    cases hkind
  · exact (hflush.ports.sent _).subset ((hadv.sent _).subset hsent)
end

/-! The Cocoon store (R261, R289). -/

theorem freeExtents_wl (s : State) (d : Option SweepDesc) (ks : List Nat) (h : Nat) : (freeExtents s d ks h).wl = s.wl := by
  refine foldl_keeps State.wl _ ks s (fun t k _ => ?_)
  dsimp only
  split
  · rfl
  · exact foldl_keeps State.wl _ _ _ (fun _ _ _ => rfl)
theorem dropExtents_wl (s : State) (p h : Nat) : (dropExtents s p h).wl = s.wl :=
  (freeExtents_wl ..).trans (freeExtents_wl ..)

/-- The image of a request has been sent to an offset of its port's parking area. -/
def imageSent (s : State) (h : Slot) (r : Request) (j : Job) (d : SweepDesc) (base o : Nat) : State :=
  updWl (hostWrite s (portOf (rTq r)) (base + o) (cocoonImage s r.part j d h r)) (portOf (rTq r))
    (fun w => { w with images := w.images ++ [(h, o, cocoonBytes d r.cached)] })

section
variable {s : State} {h : Slot} {r : Request} {j : Job} {d : SweepDesc} (hr : reqOf s h = some r) (hj : jobOf s r.part = some j)
  (hd : sweepDesc j = some d)

section
variable (hst : r.st = .paused) (hplaced : r.placed = true) (hparked : r.parked = none) (hcached : r.cached ≠ 0)
  (hpause : r.pause ≠ some .diapause)
include hr hj hd hst hplaced hparked hcached hpause

theorem park_sends {a : W64 × W64} {o : Nat} (hup : portUp s (portOf (rTq r)) = true) (ha : (wlOf s (portOf (rTq r))).area = some a)
    (ho : parkPlace (wlOf s (portOf (rTq r))).images a.2.toNat (cocoonBytes d r.cached) = some o) :
    answers (.park h) s (fun t => reqOf t h = some { r with parked := some (cocoonBytes d r.cached), placed := false } ∧ spadsKept s t
      ∧ (wlOf t (portOf (rTq r))).images = (wlOf s (portOf (rTq r))).images ++ [(h, o, cocoonBytes d r.cached)]) := by
  have hexec : exec (.park h) s = .next (logPause (setReq (dropExtents (imageSent s h r j d a.1.toNat o) r.part h) h
      { r with parked := some (cocoonBytes d r.cached), placed := false }) r.part h) := by
    show execPark h s = _
    simp [execPark, hr, hj, hd, hst, hplaced, hparked, hcached, hpause, hup, ha, ho, imageSent]
  refine ⟨_, hexec, ?_⟩
  have himages : (wlOf (imageSent s h r j d a.1.toNat o) (portOf (rTq r))).images
      = (wlOf s (portOf (rTq r))).images ++ [(h, o, cocoonBytes d r.cached)] := by
    rw [imageSent, wlOf_updWl_self, (portsPost_hostWrite ..).images]
  have hsent : onlyBooks s (imageSent s h r j d a.1.toNat o) := by
    refine onlyBooks_trans ?_ (onlyBooks_updWl ..)
    unfold onlyBooks
    rw [(hostWrite_frame ..).1]
  generalize imageSent s h r j d a.1.toNat o = s1 at *
  obtain ⟨hlog, hports⟩ := logPause_frame (setReq (dropExtents s1 r.part h) h
    { r with parked := some (cocoonBytes d r.cached), placed := false }) r.part h
  refine ⟨?_, ?_, ?_⟩
  · rw [hlog.1.reqOf_eq, reqOf_setReq, if_pos rfl]
  · exact spadsKept_trans (onlyBooks_trans hsent (dropExtents_frame s1 r.part h)).spads hlog.1.spads
  · rw [hports.images, wlOf_setReq, wlOf, dropExtents_wl]
    exact himages

theorem park_unavailable (hno : portUp s (portOf (rTq r)) = false ∨ (wlOf s (portOf (rTq r))).area = none) :
    answers (.park h) s (fun t => t = { s with events := t.events } ∧ ∃ e, t.events = s.events ++ [e] ∧ e.code = 0x6035#16) := by
  have hexec : exec (.park h) s = .next (stwEvent s 0x6035 1 (some r.part) (some (rReq r)) []) := by
    show execPark h s = _
    rcases hno with hno | hno <;> simp [execPark, hr, hj, hd, hst, hplaced, hparked, hcached, hpause, hno]
  exact ⟨_, hexec, rfl, _, rfl, rfl⟩
end

/-! Import (R262, R263). -/

/-- A resuming request with its cache in place. -/
def imported (r : Request) (cached : Nat) : Request :=
  let x := { r with placed := true, reserved := leAt r.stop 0x2C 4, cached := cached, parked := none }
  { x with st := resumeState x }

theorem reqOf_setReq_dropImage {s u : State} {h : Slot} {v : Request} (hu : onlyBooks s u) :
    reqOf (setReq (dropImage u h) h v) h = some v ∧ spadsKept s (setReq (dropImage u h) h v) :=
  ⟨by rw [reqOf_setReq, if_pos rfl], hu.spads⟩

section
variable (hst : r.st = .resuming) (hserves : jobServes s r.part = true)
include hr hj hd hst hserves

theorem cocoonImport_stands (b : Option Bytes) (hplaced : r.placed = true) (hwant : leAt r.stop 0x2C 4 = r.reserved) :
    answers (.cocoonImport h b) s (fun t => reqOf t h = some (imported r r.cached) ∧ memoriesKept s t) := by
  have hexec : exec (.cocoonImport h b) s = .next (setReq (dropImage s h) h (imported r r.cached)) := by
    show execCocoonImport h b s = _
    simp [execCocoonImport, hr, hj, hd, hst, hserves, hplaced, hwant, imported]
  exact ⟨_, hexec, (reqOf_setReq_dropImage (onlyBooks_refl s)).1, memoriesKept_of_eq rfl rfl⟩

theorem cocoonImport_replaced (b : Option Bytes) {u : State} (hplaced : r.placed = true) (hwant : leAt r.stop 0x2C 4 ≠ r.reserved)
    (hu : replaceExtents s r.part j d h r (leAt r.stop 0x2C 4) = some u) :
    answers (.cocoonImport h b) s (fun t => reqOf t h = some (imported r r.cached) ∧ spadsKept s t) := by
  have hexec : exec (.cocoonImport h b) s = .next (setReq (dropImage u h) h (imported r r.cached)) := by
    show execCocoonImport h b s = _
    simp [execCocoonImport, hr, hj, hd, hst, hserves, hplaced, hwant, hu, imported]
  exact ⟨_, hexec, reqOf_setReq_dropImage (replaceExtents_frame hu)⟩

section
variable {u : State} (hplaced : r.placed = false) (hu : placeRequest s r.part h r (leAt r.stop 0x2C 4) = some u)
include hplaced hu

theorem cocoonImport_recomputes : answers (.cocoonImport h none) s (fun t => reqOf t h = some (imported r 0) ∧ spadsKept s t) := by
  have hexec : exec (.cocoonImport h none) s = .next (setReq (dropImage u h) h (imported r 0)) := by
    show execCocoonImport h none s = _
    simp [execCocoonImport, hr, hj, hd, hst, hserves, hplaced, hu, imported]
  exact ⟨_, hexec, reqOf_setReq_dropImage (placeRequest_frame hu)⟩

theorem cocoonImport_from_image {b : Bytes} (hparked : r.parked.isSome = true) (hheld : imageHeld s h = true)
    (hgood : cocoonFault j d r b = none) :
    answers (.cocoonImport h (some b)) s (fun t => reqOf t h = some (imported r (leAt b 8 4)) ∧ spadsKept s t) := by
  have hexec : exec (.cocoonImport h (some b)) s = .next (setReq (dropImage (writeCache u r.part j d h (rReq r) (leAt r.stop 0x2C 4)
      (leAt b 8 4) (b.drop 0x80)) h) h (imported r (leAt b 8 4))) := by
    show execCocoonImport h (some b) s = _
    simp [execCocoonImport, hr, hj, hd, hst, hserves, hplaced, hu, hparked, hheld, hgood, imported]
  exact ⟨_, hexec, reqOf_setReq_dropImage (onlyBooks_trans (placeRequest_frame hu) (writeCache_frame ..))⟩
end
end
end

/-! Time to live (R290). -/

/-- A request that ends has the state it ends in, where its entry is still there, and no scratchpad differs. -/
theorem endRequest_ends {s : State} {h : Nat} {r : Request} (hr : reqOf s h = some r) (hf : reqFinal r = false) (st : ReqState)
    (reason stop answer event : Nat) : endedAs (endRequest s h st reason stop answer event) h st
      ∧ spadsKept s (endRequest s h st reason stop answer event) := by
  refine ⟨?_, (endRequest_live hr hf st reason stop answer event).1⟩
  unfold endRequest
  rw [hr]
  dsimp -zeta only
  rw [if_neg (by simp [hf])]
  extract_lets p s1 s2 s3 s4
  have h2 : RequestsKept s1 s2 := by
    refine onlyBooks.kept (onlyBooks_trans (t := if r.fetching = 0 then s1 else dropReads s1 h) ?_ (onlyBooks_updJob ..))
    split
    · exact onlyBooks_refl s1
    · rfl
  have h3 : RequestsKept s2 s3 :=
    (foldEnd_kept s2 h reason stop).trans (.trans (dropExtents_frame (foldEnd s2 h reason stop) p h).kept (requestsKept_of_eq rfl rfl))
  have h4 : RequestsKept s3 s4 := by
    simp only [s4]; split
    · exact (onlyBooks_stwEvent ..).kept
    · exact requestsKept_refl s3
  obtain ⟨x, hx, hbare⟩ := (h2.trans (h3.trans h4)).stays (h := h) (r := ended r st) (by simp [s1, reqOf_setReq, ended])
  rw [hx]
  intro y hy
  obtain ⟨z, hz, hzy⟩ := ((retireCheck_frame _ p).kept.trans (draftCheck_kept _ p)).was hy
  have hzx := (flushHeld_flushed _ _).reqs h z hz
  rw [reqOf_updWl, hx] at hzx
  obtain rfl := Option.some.inj hzx
  exact (congrArg Request.st (hzy.symm.trans hbare) :)

theorem ttlExpire_ends {s : State} {h : Slot} {r : Request} (hr : reqOf s h = some r) (hst : r.st = .paused)
    (hpause : r.pause ≠ some .diapause) (hlog : logReady s r.part 2 = true) :
    answers (.ttlExpire h) s (fun t => endedAs t h .cancelled ∧ spadsKept s t) := by
  have hexec : exec (.ttlExpire h) s = .next (expireReq s h) := by
    show execTtlExpire h s = _
    simp [execTtlExpire, hr, hst, hpause, hlog]
  have hexpire : ∃ u, onlyBooks s u ∧ expireReq s h = endRequest u h .cancelled 3 0 0 0 := by
    simp only [expireReq, hr]
    exact ⟨_, onlyBooks_trans (onlyBooks_stwEvent ..) (logInput_frame ..).1, rfl⟩
  obtain ⟨u, hu, heq⟩ := hexpire
  obtain ⟨hended, hspads⟩ := endRequest_ends ((hu.reqOf_eq h).trans hr) (by simp [reqFinal, hst]) .cancelled 3 0 0 0
  exact ⟨_, hexec, heq ▸ hended, heq ▸ spadsKept_trans hu.spads hspads⟩

/-! The restart of a request (R368). -/

/-- A request that has lost its cache and is to resume. -/
def restartedReq (r : Request) : Request :=
  { r with st := if r.st = .paused then .paused else .resuming, resumes := r.resumes + 1, placed := false, cached := 0
           inFlight := false, cycle := none }

/-- After the request's own entry, its restart may unload a draft and replay the step in flight. -/
theorem requestRestart_kept {s : State} {h : Nat} {r : Request} (hr : reqOf s h = some r) (hf : reqFinal r = false) (hq : r.st ≠ .queued)
    (hp : r.parked = none) : ∃ u, onlyBooks s u ∧ RequestsKept (updReq u h restartedReq) (requestRestart s h) := by
  refine ⟨dropExtents (dropTokens s r.part h) r.part h, onlyBooks_trans (onlyBooks_updJob ..) (dropExtents_frame ..), ?_⟩
  unfold requestRestart
  rw [hr]
  dsimp -zeta only
  extract_lets p inFlight s1 s2 s3
  rw [if_neg (by simp [hf, hq, hp])]
  have h3 : RequestsKept s2 s3 := draftCheck_kept ..
  split
  · exact h3.trans (replaySteps_kept ..)
  · exact h3

theorem requestRestart_resumes {s : State} {h : Slot} {r : Request} (hr : reqOf s h = some r) (hf : reqFinal r = false)
    (hq : r.st ≠ .queued) (hp : r.parked = none) :
    answers (.requestRestart h) s (fun t => spadsKept s t ∧ ∃ x, reqOf t h = some x
      ∧ x.st = (if r.st = .paused then .paused else .resuming) ∧ x.resumes = r.resumes + 1 ∧ x.placed = false ∧ x.cached = 0
      ∧ x.inFlight = false ∧ x.cycle = none ∧ x.tokens = r.tokens ∧ x.desc = r.desc) := by
  obtain ⟨u, hu, hkept⟩ := requestRestart_kept hr hf hq hp
  have hentry : reqOf (updReq u h restartedReq) h = some (restartedReq r) := by
    rw [reqOf_updReq_self, hu.reqOf_eq, hr, Option.map_some]
  have hspads : spadsKept u (updReq u h restartedReq) := fun c => by rw [coreOf_updReq]
  obtain ⟨x, hx, hbare⟩ := hkept.stays hentry
  exact ⟨_, rfl, spadsKept_trans hu.spads (spadsKept_trans hspads hkept.spads), x, hx, (congrArg Request.st hbare :),
    (congrArg Request.resumes hbare :), (congrArg Request.placed hbare :), (congrArg Request.cached hbare :),
    (congrArg Request.inFlight hbare :), (congrArg Request.cycle hbare :), (congrArg Request.tokens hbare :),
    (congrArg Request.desc hbare :)⟩

/-- Settles O38: a request is admitted, resumed or restarted by its own entry, which no fold, record or replay after it changes but in its
running Plate and its counts; a token record is sent with its queue's tail and SEQ, and what is sent behind it leaves that queue. -/
theorem requestsProgress : Obligations.RequestsProgress := by
  unfold Obligations.RequestsProgress
  refine ⟨fun p s hserves hjob hopen hrun hup => ⟨?_, fun h0 h1 => admission_idle hserves hjob hopen hrun hup rfl h0 h1⟩,
    fun h s r b rest w hr hring hroom hq => tokenPost_posts hr hring hroom hq,
    fun h s r j d hr hj hd hst hplaced hparked hcached hpause => ⟨fun a o hup ha ho => ?_, fun hno => ?_⟩,
    fun h s r j d hr hj hd hst hserves => ⟨fun b hplaced hwant => ?_, fun b u hplaced hwant hu => ?_, fun u hplaced hu => ⟨?_, ?_⟩⟩,
    fun h s r hr hst hpause hlog => ttlExpire_ends hr hst hpause hlog,
    fun h s r hr hf hq hp => requestRestart_resumes hr hf hq hp⟩
  · intro e u r hhead hi hlog hplace
    exact admission_admits hserves hjob hopen hrun hup rfl hhead rfl hi hlog hplace
  · exact park_sends hr hj hd hst hplaced hparked hcached hpause hup ha ho
  · exact park_unavailable hr hj hd hst hplaced hparked hcached hpause hno
  · exact cocoonImport_stands hr hj hd hst hserves b hplaced hwant
  · exact cocoonImport_replaced hr hj hd hst hserves b hplaced hwant hu
  · exact cocoonImport_recomputes hr hj hd hst hserves hplaced hu
  · exact fun b hparked hheld hgood => cocoonImport_from_image hr hj hd hst hserves hplaced hu hparked hheld hgood

end Sys2Proof.Machine
end

section
/-! PROOF. SHARE_UPDATE (R277, R278): a period moves the share of one partition by the partition's own requests and share, so that
one update moves every partition that serves once. -/

namespace Sys2Proof.Machine

/-! The share of a period. -/

/-- A share moves toward its target by two steps at most. -/
def shareToward (k target : Nat) : Nat := if k + 2 < target then k + 2 else if target + 2 < k then k - 2 else target
theorem shareToward_le (k target : Nat) : shareToward k target ≤ k + 2 := by unfold shareToward; split_ifs <;> omega
theorem le_shareToward (k target : Nat) : k ≤ shareToward k target + 2 := by unfold shareToward; split_ifs <;> omega
theorem shareToward_near {k target : Nat} (h : k ≤ target + 2) (g : target ≤ k + 2) : shareToward k target = target := by
  rw [shareToward, if_neg (by omega), if_neg (by omega)]

/-- The tokens of a partition that wait for their prefill. -/
def shareWait (s : State) (p : Nat) : Nat :=
  ((s.reqs.filter (fun e => e.2.part.val == p)).map (fun e =>
    if e.2.st = .prefill then rLength e.2 - e.2.cached
    else if e.2.st = .queued && e.2.fetching == 0 && epochServes s p e.2.epoch then rPromptLen e.2 else 0)).sum
/-- The share that they and the requests in DECODE call for. -/
def shareTarget (s : State) (wait decodes : Nat) : Nat :=
  if wait = 0 then 0 else if decodes = 0 then obj s 0x5200 6 else rneDiv (16 * wait) (wait + obj s 0x5200 7 * decodes)
/-- The share of a partition after a period. -/
def movedShare (s : State) (p : Nat) : Nat :=
  min (obj s 0x5200 6) (shareToward (shareK s p) (shareTarget s (shareWait s p) (decoding s p)))
/-- It is SHARE_MAX or a step toward the target. -/
theorem movedShare_choice (s : State) (p : Nat) : movedShare s p = obj s 0x5200 6
    ∨ movedShare s p = shareToward (shareK s p) (shareTarget s (shareWait s p) (decoding s p)) := min_choice _ _

theorem sharePeriod_share (s : State) (p : Nat) : (partOf (sharePeriod s p) p).share = some (movedShare s p) := by
  have hd : ((s.reqs.filter (fun e => e.2.part.val == p)).filter (fun e => e.2.st == .decode)).length = decoding s p := by
    rw [List.filter_filter, decoding]
    simp only [Bool.and_comm]
  rw [movedShare, ← hd, sharePeriod, partOf_updPart_self]
  rfl
theorem sharePeriod_ne (s : State) {p q : Nat} (h : q ≠ p) : partOf (sharePeriod s p) q = partOf s q := partOf_updPart_ne _ _ _ h
theorem sharePeriod_job (s : State) (p q : Nat) : jobOf (sharePeriod s p) q = jobOf s q := by
  rw [jobOf, sharePeriod, partOf_updPart, jobOf]
  split
  · next e => rw [e]
  · rfl

/-- What a period reads of the state: tables that no period writes, and the partition's own record. -/
theorem movedShare_congr {s t : State} {p : Nat} (h : t = { s with parts := t.parts }) (hp : partOf t p = partOf s p) :
    movedShare t p = movedShare s p := by
  obtain ⟨parts, rfl⟩ : ∃ parts, t = { s with parts := parts } := ⟨_, h⟩
  have hserve : ∀ d, epochServes { s with parts := parts } p d = epochServes s p d := fun d => by simp only [epochServes, hp]
  have hwait : shareWait { s with parts := parts } p = shareWait s p := by simp only [shareWait, hserve]
  have hk : shareK { s with parts := parts } p = shareK s p := by rw [shareK, shareK, hp]; rfl
  rw [movedShare, hwait, hk]
  rfl

/-! An update. -/

/-- A period of a partition that serves. -/
def shareStep (s : State) (p : Nat) : State := if servesPart s p then sharePeriod s p else s

theorem shareStep_frame (s : State) (p : Nat) : shareStep s p = { s with parts := (shareStep s p).parts } := by
  unfold shareStep; split <;> rfl
theorem shareStep_job (s : State) (p q : Nat) : jobOf (shareStep s p) q = jobOf s q := by
  unfold shareStep; split
  · exact sharePeriod_job s p q
  · rfl
theorem shareStep_serves (s : State) (p q : Nat) : servesPart (shareStep s p) q = servesPart s q := by
  simp only [servesPart, shareStep_job]
theorem shareStep_ne (s : State) {p q : Nat} (h : q ≠ p) : partOf (shareStep s p) q = partOf s q := by
  unfold shareStep; split
  · exact sharePeriod_ne s h
  · rfl
theorem shareStep_idle {s : State} {p : Nat} (h : servesPart s p = false) : shareStep s p = s := by simp [shareStep, h]

theorem shareSteps_frame (l : List Nat) (s : State) : l.foldl shareStep s = { s with parts := (l.foldl shareStep s).parts } :=
  foldl_rel (R := fun s t => t = { s with parts := t.parts }) (fun _ => rfl) (fun h g => by rw [g, h]) shareStep_frame l s
/-- A partition that has no turn, or does not serve, is as it was. -/
theorem shareSteps_kept {q : Nat} : ∀ (l : List Nat) (s : State), q ∉ l ∨ servesPart s q = false →
    partOf (l.foldl shareStep s) q = partOf s q
  | [], _, _ => rfl
  | p :: l, s, h => by
    have hrest : q ∉ l ∨ servesPart (shareStep s p) q = false := by
      rw [shareStep_serves]
      exact h.imp_left (fun h hq => h (List.mem_cons_of_mem _ hq))
    refine (shareSteps_kept l _ hrest).trans ?_
    by_cases e : q = p
    · subst e
      rw [shareStep_idle (h.resolve_left (fun h => h List.mem_cons_self))]
    · exact shareStep_ne s e
/-- A partition that serves has one turn, and its share moves by what stood before the update. -/
theorem shareSteps_moved {q : Nat} : ∀ (l : List Nat) (s : State), l.Nodup → q ∈ l → servesPart s q = true →
    (partOf (l.foldl shareStep s) q).share = some (movedShare s q)
  | [], _, _, hq, _ => absurd hq List.not_mem_nil
  | p :: l, s, hnd, hq, hs => by
    obtain ⟨hp, hnd⟩ := List.nodup_cons.1 hnd
    rw [List.foldl_cons]
    by_cases e : q = p
    · subst e
      rw [shareSteps_kept l _ (.inl hp), shareStep, if_pos hs, sharePeriod_share]
    · have hmoved := shareSteps_moved l _ hnd ((List.mem_cons.1 hq).resolve_left e) ((shareStep_serves s p q).trans hs)
      rw [hmoved, movedShare_congr (shareStep_frame s p) (shareStep_ne s e)]

theorem keysRise_nodup {α : Type} {m : List (Nat × α)} (h : keysRise m = true) : (m.map (fun e => e.1)).Nodup :=
  List.pairwise_map.2 (((keysRise_iff m).1 h).imp (fun h => Nat.ne_of_lt h))

/-- The state after an update. -/
def shared (s : State) : State :=
  if obj s 0x5200 4 = 0 || !stewardUp s then s else (s.parts.map (fun e => e.1)).foldl shareStep s
theorem exec_shareUpdate (s : State) : exec .shareUpdate s = .next (shared s) := rfl
theorem shared_still {s : State} (h : obj s 0x5200 4 = 0 ∨ stewardUp s = false) : shared s = s := by
  rcases h with h | h <;> simp [shared, h]
theorem shared_moves {s : State} (h : obj s 0x5200 4 ≠ 0) (hup : stewardUp s = true) :
    shared s = (s.parts.map (fun e => e.1)).foldl shareStep s := by simp [shared, h, hup]
theorem shared_frame (s : State) : shared s = { s with parts := (shared s).parts } := by
  unfold shared; split
  · rfl
  · exact shareSteps_frame _ s

/-- Settles O32: with keys that rise every partition that serves has one period, which moves its share toward the target by at most two
and not above SHARE_MAX. -/
theorem shareMovesByTwo : Obligations.ShareMovesByTwo := by
  unfold Obligations.ShareMovesByTwo
  refine fun s => ⟨shared s, exec_shareUpdate s, shared_frame s, shared_still, fun hmode hup hkeys => ?_⟩
  rw [shared_moves hmode hup]
  refine ⟨fun p hp hserves => ⟨movedShare s p, shareSteps_moved _ s (keysRise_nodup hkeys) hp hserves, Nat.min_le_left .., ?_, ?_, ?_⟩,
    fun p hidle => shareSteps_kept _ s (.inr hidle)⟩
  · exact (Nat.min_le_right ..).trans (shareToward_le ..)
  · rcases movedShare_choice s p with h | h
    · exact .inr h
    · exact .inl (h ▸ le_shareToward ..)
  · rintro w d rfl rfl target hlow hhigh
    exact congrArg (min (obj s 0x5200 6)) (shareToward_near hlow hhigh)

end Sys2Proof.Machine
end

section
/-! PROOF. JOB_START and JOB_END (R266, R267, R513, R565): the descriptor is one read of the host, a good one makes its partition's job,
and whatever job ends leaves its partition without one. -/

namespace Sys2Proof.Machine

/-! The descriptor's read (R525, R526). -/

/-- Data that one message can carry are one read. -/
theorem hostFetch_single (s : State) (n addr : Nat) {len : Nat} (hlen : len ≤ 4096) (got : Nat) :
    ∃ tag, (wlOf (hostFetch s n addr len got) n).out = (wlOf s n).out ++ [.mrd tag (BitVec.ofNat 64 addr) len] := by
  have hone : max 1 (ceilDiv (min len got) 4096) = 1 := by
    have : min len got ≤ 4096 := (Nat.min_le_left ..).trans hlen
    unfold ceilDiv; omega
  refine ⟨freeTag ((wlOf s n).reads.map (fun r => r.1)) ((wlOf s n).reads.length + 1) (wlOf s n).nextTag, ?_⟩
  rw [hostFetch, hone, List.range_one, List.foldl_cons, List.foldl_nil, (wlPost_frame ..).2.2, wlOf_updWl_self]
  simp [Nat.min_eq_right hlen]

/-! A start (R266, R513). -/

/-- The next free job number goes on where the start takes it. -/
def numbered (s : State) (d : Bytes) : State :=
  if jdJob d = 0 then updStw s (fun t => { t with nextJob := BitVec.ofNat 32 (jobNumber s d + 1) }) else s
/-- The job that a good descriptor names. -/
def startedJob (s : State) (n : WlPort) (addr : W64) (d : Bytes) : Job := newJob (numbered s d) n (jobNumber s d) addr d
/-- A partition with the job: waiting while the partition is being cleared. -/
def withJob (j : Job) (v : PartState) : PartState :=
  if v.clearing then { v with waitingJob := some j } else { v with job := some j }

theorem numbered_frame (s : State) (d : Bytes) : numbered s d = { s with stw := (numbered s d).stw } := by
  unfold numbered; split <;> rfl
theorem numbered_partOf (s : State) (d : Bytes) (q : Nat) : partOf (numbered s d) q = partOf s q := by rw [numbered_frame]; rfl

/-- A good descriptor of an idle partition that the port may use makes its job. -/
theorem startJob_good {s : State} {n : WlPort} (addr : W64) {d : Bytes} (hd : jobDescFault d = none)
    (hw : windowOk s (jdPart d) n = true) (hj : jobOf s (jdPart d) = none) (hq : (partOf s (jdPart d)).waitingJob = none) :
    startJob s n addr d = updPart (numbered s d) (jdPart d) (withJob (startedJob s n addr d)) := by
  simp only [startJob, hd, hw, hj, hq, Bool.not_true, Bool.false_eq_true, if_false, Option.isSome_none, Bool.or_self]
  rfl

/-- What a start reads are the partitions, their sites and the Steward's next job number. -/
theorem windowOk_congr {s t : State} (hp : t.parts = s.parts) (hs : t.sites = s.sites) (p n : Nat) : windowOk t p n = windowOk s p n := by
  simp only [windowOk, partDef, partOf, hp, hs]
theorem jobNumber_congr {s t : State} (hp : t.parts = s.parts) (hs : t.stw = s.stw) (d : Bytes) : jobNumber t d = jobNumber s d := by
  simp only [jobNumber, hp, hs]

/-- What the agent does for a request leaves the host's write as it is decided (R454, R513, R564). -/
theorem hostWriteState_agent {s t : State} (h : onlyAgent s t) (r : DapReq) : hostWriteState t r = hostWriteState s r := by
  rw [h]; rfl

theorem exec_jobStart {req : DapReq} {n : WlPort} (hn : carrier req = some n) (addr : W64) (d : Bytes) (s : State) :
    exec (.jobStart req addr (some d)) s = .next (dapWrite s req 0x5100 1 (leBytes 8 addr.toNat) (fun _ s => hostWriteState s req)
      (fun _ s => startJob (hostFetch s n.val addr.toNat 64 d.length) n addr d)) := by
  show execJobStart req addr (some d) s = _
  simp only [execJobStart, hn]

/-- A start on a state whose last answer is OK. -/
theorem startJob_starts {w : State} {req : DapReq} {n : WlPort} {addr : W64} {d : Bytes} (hans : answered w req stOk [])
    (hd : jobDescFault d = none) (hw : windowOk w (jdPart d) n = true) (hj : jobOf w (jdPart d) = none)
    (hq : (partOf w (jdPart d)).waitingJob = none) :
    let t := startJob (hostFetch w n.val addr.toNat 64 d.length) n addr d
    (∃ j, (if (partOf w (jdPart d)).clearing then (partOf t (jdPart d)).waitingJob else jobOf t (jdPart d)) = some j
        ∧ j.number.toNat = jobNumber w d % 2 ^ 32 ∧ j.desc = d ∧ j.descAddr = addr ∧ j.port = n ∧ j.running = false
        ∧ j.digest = jdDigest d)
      ∧ (∃ tag, (wlOf t n).out = (wlOf w n).out ++ [.mrd tag addr 64]) ∧ answered t req stOk []
      ∧ memoriesKept w t ∧ ∀ q, q ≠ jdPart d → partOf t q = partOf w q := by
  obtain ⟨tag, htag⟩ := hostFetch_single w n addr.toNat (len := 64) (by omega) d.length
  have hframe := hostFetch_frame w n addr.toNat 64 d.length
  generalize hostFetch w n addr.toNat 64 d.length = u at htag hframe ⊢
  have hparts : u.parts = w.parts := by rw [hframe]
  have hpart : ∀ q, partOf u q = partOf w q := fun q => by rw [partOf, hparts, partOf]
  have hstart := startJob_good (s := u) (n := n) addr hd ((windowOk_congr hparts (by rw [hframe]) _ _).trans hw)
    ((congrArg PartState.job (hpart _)).trans hj) ((congrArg PartState.waitingJob (hpart _)).trans hq)
  have hnum := numbered_frame u d
  intro t
  have ht : t = { w with wl := u.wl, stw := t.stw, parts := t.parts } := by
    simp only [t, hstart, updPart, setPart]
    rw [hnum, hframe]
  have hself : partOf t (jdPart d) = withJob (startedJob u n addr d) (partOf w (jdPart d)) := by
    simp only [t, hstart, partOf_updPart_self, numbered_partOf, hpart]
  refine ⟨⟨startedJob u n addr d, ?_, ?_, rfl, rfl, rfl, rfl, rfl⟩, ⟨tag, ?_⟩, ?_, ?_, fun q hne => ?_⟩
  · rw [jobOf, hself, withJob]
    split <;> rfl
  · rw [← jobNumber_congr hparts (by rw [hframe])]
    exact BitVec.toNat_ofNat ..
  · rw [ht]
    exact htag.trans (by rw [BitVec.ofNat_toNat, BitVec.setWidth_eq])
  · rw [ht]; exact hans
  · rw [ht]; exact memoriesKept_of_eq rfl rfl
  · simp only [t, hstart, partOf_updPart_ne _ _ _ hne, numbered_partOf, hpart]

/-! An end (R267, R565). -/

/-- Whatever job ends, its partition's record of it comes last. -/
theorem endJob_updPart {s : State} {p : Nat} {j : Job} (hj : jobOf s p = some j) (reason event : Nat) :
    ∃ u f, endJob s p reason event = updPart u p f
      ∧ ∀ v, (f v).job = none ∧ (f v).clearing = true ∧ (f v).lastLayout = j.digest := by
  unfold endJob
  rw [hj]
  exact ⟨_, _, rfl, fun _ => ⟨rfl, rfl, rfl⟩⟩
theorem endJob_cleared {s : State} {p : Nat} {j : Job} (hj : jobOf s p = some j) (reason event : Nat) :
    jobOf (endJob s p reason event) p = none ∧ (partOf (endJob s p reason event) p).clearing = true
      ∧ (partOf (endJob s p reason event) p).lastLayout = j.digest := by
  obtain ⟨u, f, he, hf⟩ := endJob_updPart hj reason event
  rw [jobOf, he, partOf_updPart_self]
  exact hf _

/-- What JOB_END asks of a write before it takes it. -/
def jobEndCheck (s : State) (p : Nat) : Nat :=
  if 15 < p then stRange else if (jobOf s p).isNone || !stewardUp s then stState else stOk
theorem exec_jobEnd (req : DapReq) (p : PartId) (s : State) : exec (.jobEnd req (BitVec.ofNat 8 p)) s
    = .next (dapWrite s req 0x5100 2 (leBytes 1 p) (fun _ s => jobEndCheck s p) (fun _ s => endJob s p 7 0)) := by
  have hp : (BitVec.ofNat 8 p.val).toNat = p.val := Nat.mod_eq_of_lt (p.isLt.trans (by decide))
  show execJobEnd req (BitVec.ofNat 8 p.val) s = _
  simp only [execJobEnd, hp]
  rfl
theorem jobEndCheck_agent {s t : State} (h : onlyAgent s t) (p : Nat) : jobEndCheck t p = jobEndCheck s p := by rw [h]; rfl
theorem jobEndCheck_ok {s : State} {p : PartId} {j : Job} (hj : jobOf s p = some j) (hup : stewardUp s = true) :
    jobEndCheck s p = stOk := by
  simp [jobEndCheck, hj, hup, Nat.not_lt.2 (Nat.le_of_lt_succ p.isLt)]

/-- A write that its object's own rules take has its effect on the granted state. -/
theorem writes_taken {i : Instr} {s : State} {r : DapReq} {ix sub : Nat} {value : Bytes} {se : Session}
    (hw : canWrite s r ix sub value se) {check : State → Nat} {apply : State → State} {P : State → State → Prop}
    (hi : exec i s = .next (dapWrite s r ix sub value (fun _ => check) (fun _ => apply)))
    (hagent : ∀ {t}, onlyAgent s t → check t = check s) (hok : check s = stOk)
    (hP : P (granted s r ix sub value se) (apply (granted s r ix sub value se))) : writes i s r ix sub value se P := by
  have hask := (hagent (asked_frame hw).1).trans hok
  refine writes_of hw hi (fun _ => hP) (by rw [hask]; decide) (fun st t hst hne _ _ => ?_)
  exact absurd (hst.symm.trans hask) hne

/-- Settles O34: on the granted state, which differs in the agent's part alone, a start is its read and its partition's new job, and an end
leaves its partition's record last. -/
theorem jobsStartAndEnd : Obligations.JobsStartAndEnd := by
  unfold Obligations.JobsStartAndEnd
  refine ⟨fun req addr d se n s hw hhost hn hd hwin hj hq => ?_, fun req p se j s hw hj hup => ?_⟩
  · obtain ⟨hg, hans⟩ := granted_effect hw
    refine writes_taken hw (exec_jobStart hn addr d s) (fun h => hostWriteState_agent h req) hhost ?_
    generalize granted s req 0x5100 1 (leBytes 8 addr.toNat) se = w at hg hans ⊢
    have hpart : ∀ q, partOf w q = partOf s q := fun q => by rw [partOf, hg.parts_eq, partOf]
    have hnum : jobNumber w d = jobNumber s d := jobNumber_congr hg.parts_eq (by rw [hg]) d
    have hstart := startJob_starts (addr := addr) hans hd ((windowOk_congr hg.parts_eq hg.sites_eq _ _).trans hwin)
      ((congrArg PartState.job (hpart _)).trans hj) ((congrArg PartState.waitingJob (hpart _)).trans hq)
    simp only [hpart, hnum] at hstart
    obtain ⟨hjob, hread, hanswer, hmem, hother⟩ := hstart
    exact ⟨hjob, hread, hanswer, memoriesKept_trans hg.memories hmem, hother⟩
  · obtain ⟨hg, -⟩ := granted_effect hw
    refine writes_taken hw (exec_jobEnd req p s) (fun h => jobEndCheck_agent h p) (jobEndCheck_ok hj hup) ⟨rfl, ?_⟩
    refine endJob_cleared (Eq.trans ?_ hj) 7 0
    rw [jobOf, partOf, hg.parts_eq]; rfl

end Sys2Proof.Machine
end

section
/-! PROOF. What the Steward's books and records leave of the queues and the live requests (R287, R293, R390, R391, R528): no entry is taken
from a queue but by the command that stands in it. -/

namespace Sys2Proof.Machine

/-! Heads of queues (R528). -/

/-- Every queue has the head that it had. -/
structure HeadsKept (s t : State) : Prop where
  head : ∀ q, (queueAt t q).map WlQueue.head = (queueAt s q).map WlQueue.head

theorem headsKept_refl (s : State) : HeadsKept s s := ⟨fun _ => rfl⟩
theorem HeadsKept.trans {s t u : State} (h : HeadsKept s t) (g : HeadsKept t u) : HeadsKept s u :=
  ⟨fun q => (g.head q).trans (h.head q)⟩
theorem headsKept_foldl {α : Type} {f : State → α → State} (h : ∀ s a, HeadsKept s (f s a)) (l : List α) (s : State) :
    HeadsKept s (l.foldl f s) := foldl_rel headsKept_refl HeadsKept.trans h l s
theorem headsKept_of_queues {s t : State} (h : ∀ n, (wlOf t n).queues = (wlOf s n).queues) : HeadsKept s t :=
  ⟨fun q => by rw [queueAt, h, queueAt]⟩
theorem headsKept_of_wl {s t : State} (h : t.wl = s.wl) : HeadsKept s t := headsKept_of_queues (fun n => by rw [wlOf, h, wlOf])
theorem headsKept_updWl (s : State) (n : Nat) {f : WlState → WlState} (hf : ∀ v, (f v).queues = v.queues) :
    HeadsKept s (updWl s n f) := headsKept_of_queues (fun k => by
  rw [wlOf_updWl]
  split
  · next e => rw [hf, e]
  · rfl)
theorem queues_map {f : Nat × WlState → Nat × WlState} (hk : ∀ e, (f e).1 = e.1) (hf : ∀ e, (f e).2.queues = e.2.queues) (n : Nat) :
    ∀ m : List (Nat × WlState), (lookupN (m.map f) n).map WlState.queues = (lookupN m n).map WlState.queues
  | [] => rfl
  | e :: t => by
    rw [List.map_cons, lookupN, lookupN, hk]
    split
    · exact congrArg some (hf e)
    · exact queues_map hk hf n t
/-- What is done to every port alike, and to no queue. -/
theorem headsKept_ports (s : State) {f : Nat × WlState → Nat × WlState} (hk : ∀ e, (f e).1 = e.1) (hf : ∀ e, (f e).2.queues = e.2.queues) :
    HeadsKept s { s with wl := s.wl.map f } := headsKept_of_queues (fun n => by
  rw [wlOf, wlOf, getN, getN, ← Option.getD_map WlState.queues, ← Option.getD_map WlState.queues, queues_map hk hf])

/-- Entries written to a queue move its tail. -/
theorem headsKept_queueWrite (s : State) (q units : Nat) (b : Bytes) : HeadsKept s (queueWrite s q units b) := by
  refine ⟨fun k => ?_⟩
  by_cases e : k = q
  · subst e
    cases hw : queueAt s k with
    | none => simp only [queueWrite, hw]
    | some w => rw [queueAt_queueWrite_self hw]; rfl
  · rw [queueAt_queueWrite_ne s e]

/-! Books of the Steward (R390, R391). -/

/-- Nothing but the queues toward the host, their heads aside, the partitions and the events differs. -/
structure OnlyMail (s t : State) : Prop where
  frame : t = { s with wl := t.wl, parts := t.parts, events := t.events }
  heads : HeadsKept s t

theorem onlyMail_refl (s : State) : OnlyMail s s := ⟨rfl, headsKept_refl s⟩
theorem OnlyMail.trans {s t u : State} (h : OnlyMail s t) (g : OnlyMail t u) : OnlyMail s u :=
  ⟨by rw [g.frame, h.frame], HeadsKept.trans h.heads g.heads⟩
theorem OnlyMail.reqOf_eq {s t : State} (h : OnlyMail s t) (k : Nat) : reqOf t k = reqOf s k := by rw [h.frame]; rfl
theorem OnlyMail.memories {s t : State} (h : OnlyMail s t) : memoriesKept s t :=
  memoriesKept_of_eq (by rw [h.frame]) (by rw [h.frame])

theorem onlyMail_updPart (s : State) (p : Nat) (f : PartState → PartState) : OnlyMail s (updPart s p f) := ⟨rfl, headsKept_of_wl rfl⟩
theorem onlyMail_stwEvent (s : State) (code sev : Nat) (p req : Option Nat) (d : Bytes) : OnlyMail s (stwEvent s code sev p req d) :=
  ⟨rfl, headsKept_of_wl rfl⟩
theorem onlyMail_queueWrite (s : State) (q units : Nat) (b : Bytes) : OnlyMail s (queueWrite s q units b) :=
  ⟨by rw [queueWrite_frame], headsKept_queueWrite ..⟩
theorem onlyMail_logPost (s : State) (q : Nat) (b : Bytes) : OnlyMail s (logPost s q b) := by
  unfold logPost
  split
  · exact onlyMail_refl s
  · refine OnlyMail.trans ?_ (onlyMail_queueWrite ..)
    split
    · exact onlyMail_refl s
    · exact onlyMail_queueWrite ..
theorem onlyMail_logStall (s : State) (p : Nat) : OnlyMail s (logStall s p) := by
  unfold logStall
  split
  · exact onlyMail_refl s
  · exact (onlyMail_updPart ..).trans (onlyMail_stwEvent ..)
theorem onlyMail_logInput (s : State) (p type flags : Nat) (req index : Option Nat) (payload : Bytes) :
    OnlyMail s (logInput s p type flags req index payload) := by
  unfold logInput
  split
  · dsimp only
    split
    · exact (onlyMail_updPart ..).trans (onlyMail_logPost ..)
    · exact (onlyMail_updPart ..).trans ((onlyMail_updPart ..).trans (onlyMail_logStall ..))
  · exact onlyMail_refl s

/-! Completion records (R293, R533). -/

/-- Records that are posted: no partition and no head of a queue differs, and a request that is live stays as it is. -/
structure RecordsPosted (s t : State) : Prop where
  parts : t.parts = s.parts
  heads : HeadsKept s t
  live : ∀ h r, reqOf s h = some r → reqFinal r = false → reqOf t h = some r

theorem recordsPosted_refl (s : State) : RecordsPosted s s := ⟨rfl, headsKept_refl s, fun _ _ h _ => h⟩
theorem RecordsPosted.trans {s t u : State} (h : RecordsPosted s t) (g : RecordsPosted t u) : RecordsPosted s u :=
  ⟨g.parts.trans h.parts, HeadsKept.trans h.heads g.heads, fun k r hr hf => g.live k r (h.live k r hr hf) hf⟩
theorem recordsPosted_updWl (s : State) (n : Nat) {f : WlState → WlState} (hf : ∀ v, (f v).queues = v.queues) :
    RecordsPosted s (updWl s n f) := ⟨rfl, headsKept_updWl s n hf, fun _ _ h _ => h⟩
theorem recordsPosted_queueWrite (s : State) (q units : Nat) (b : Bytes) : RecordsPosted s (queueWrite s q units b) :=
  ⟨by rw [queueWrite_frame], headsKept_queueWrite .., fun k r h _ => by rw [queueWrite_frame]; exact h⟩
theorem recordsPosted_delReq {s : State} {h : Nat} {r : Request} (hr : reqOf s h = some r) (hf : reqFinal r = true) :
    RecordsPosted s { s with reqs := delN s.reqs h } := by
  refine ⟨rfl, headsKept_of_wl rfl, fun k x hx hlive => ?_⟩
  have hne : k ≠ h := by
    rintro rfl
    obtain rfl := Option.some.inj (hr.symm.trans hx)
    rw [hf] at hlive
    cases hlive
  exact (lookupN_delN_ne hne _).trans hx

theorem flushRecs_posted (n : Nat) : ∀ (l : List (BitVec 16 × Option Nat × Bytes)) (s : State) kept,
    RecordsPosted s (flushRecs l s n kept)
  | [], s, kept => recordsPosted_updWl s n (fun _ => rfl)
  | e :: t, s, kept => by
    unfold flushRecs
    extract_lets ringEmpty s1 s2
    split
    · refine (recordsPosted_queueWrite s e.1.toNat 1 e.2.2).trans (.trans (t := s2) ?_ (flushRecs_posted n t s2 kept))
      simp only [s2]
      split
      · split
        · next r hr =>
          split
          · next hf => exact recordsPosted_delReq hr hf
          · exact recordsPosted_refl s1
        · exact recordsPosted_refl s1
      · exact recordsPosted_refl s1
    · exact flushRecs_posted n t s _
theorem postRec_posted (s : State) (q : Nat) (slot : Option Nat) (b : Bytes) : RecordsPosted s (postRec s q slot b) := by
  unfold postRec flushHeld
  refine .trans ?_ (flushRecs_posted ..)
  exact recordsPosted_updWl s (portOf q) (fun _ => rfl)
theorem postRec_memories (s : State) (q : Nat) (slot : Option Nat) (b : Bytes) : memoriesKept s (postRec s q slot b) :=
  memoriesKept_trans (memoriesKept_of_eq rfl rfl) (flushHeld_flushed ..).memories

/-- An answer is a record like another (R273). -/
theorem answerCmd_posted (s : State) (q : Nat) (e : Bytes) (code : Nat) :
    RecordsPosted s (answerCmd s q e code) ∧ memoriesKept s (answerCmd s q e code) := by
  unfold answerCmd postAnswer
  extract_lets r named cmdPart
  split
  · exact ⟨postRec_posted .., postRec_memories ..⟩
  · split
    · exact ⟨postRec_posted .., postRec_memories ..⟩
    · exact ⟨recordsPosted_refl s, memoriesKept_refl s⟩

/-! Ends of requests (R247, R270, R293). -/

theorem foldReq_heads (s : State) (h type : Nat) (payload : Bytes) : HeadsKept s (foldReq s h type payload) :=
  headsKept_of_wl (updReq_wl ..)
theorem foldEnd_heads (s : State) (h reason stop : Nat) : HeadsKept s (foldEnd s h reason stop) := by
  unfold foldEnd
  split
  · refine HeadsKept.trans ?_ (foldReq_heads ..)
    split
    · exact headsKept_of_wl rfl
    · exact headsKept_refl s
  · exact headsKept_refl s
theorem dropShards_wl (s : State) (p : Nat) (digest : Bytes) : (dropShards s p digest).wl = s.wl :=
  foldl_keeps State.wl _ _ s (fun t k _ => by split <;> rfl)
theorem retireCheck_heads (s : State) (p : Nat) : HeadsKept s (retireCheck s p) := by
  unfold retireCheck
  split
  · exact headsKept_refl s
  · split
    · exact headsKept_refl s
    · extract_lets base s1 s2 s3
      have h1 : HeadsKept s s1 := by
        simp only [s1]; split
        · exact headsKept_refl s
        · exact headsKept_of_wl (dropShards_wl ..)
      exact HeadsKept.trans h1 ((onlyMail_updPart ..).trans ((onlyMail_logInput ..).trans (onlyMail_stwEvent ..))).heads
theorem noteDraft_heads (s : State) (p : Nat) (digest : Bytes) : HeadsKept s (noteDraft s p digest) := by
  unfold noteDraft
  refine HeadsKept.trans (headsKept_foldl (fun t h => ?_) (partReqs s p) s) (onlyMail_logInput ..).heads
  split
  · split
    · exact foldReq_heads ..
    · exact headsKept_refl t
  · exact headsKept_refl t
theorem draftCheck_heads (s : State) (p : Nat) : HeadsKept s (draftCheck s p) := by
  unfold draftCheck
  split
  · split
    · unfold unloadDraft
      extract_lets s1 s2 s3
      have h3 : HeadsKept s s3 := headsKept_of_wl
        ((foldl_keeps State.wl _ (partReqs s1 p) s1 (fun t h _ => freeExtents_wl ..)).trans rfl)
      split
      · exact HeadsKept.trans h3 (noteDraft_heads ..)
      · exact h3
    · exact headsKept_refl s
  · exact headsKept_refl s
theorem endRequest_heads (s : State) (h : Nat) (st : ReqState) (reason stop answer event : Nat) :
    HeadsKept s (endRequest s h st reason stop answer event) := by
  unfold endRequest
  split
  · exact headsKept_refl s
  · next r _ =>
    split
    · exact headsKept_refl s
    · extract_lets p s1 s2 s3 s4
      have h1 : HeadsKept s s1 := headsKept_of_wl rfl
      have h2 : HeadsKept s1 s2 := by
        refine HeadsKept.trans (t := if r.fetching = 0 then s1 else dropReads s1 h) ?_ (headsKept_of_wl rfl)
        split
        · exact headsKept_refl s1
        · exact headsKept_ports s1 (fun _ => rfl) (fun _ => rfl)
      have h3 : HeadsKept s2 s3 := HeadsKept.trans (foldEnd_heads s2 h reason stop)
        (HeadsKept.trans (headsKept_of_wl (dropExtents_wl (foldEnd s2 h reason stop) p h)) (headsKept_ports _ (fun _ => rfl) (fun _ => rfl)))
      have h4 : HeadsKept s3 s4 := by
        simp only [s4]; split
        · exact (onlyMail_stwEvent ..).heads
        · exact headsKept_refl s3
      have hs4 : HeadsKept s s4 := HeadsKept.trans h1 (HeadsKept.trans h2 (HeadsKept.trans h3 h4))
      split
      · exact HeadsKept.trans hs4 (HeadsKept.trans (postRec_posted ..).heads
          (HeadsKept.trans (retireCheck_heads ..) (draftCheck_heads ..)))
      · exact hs4

end Sys2Proof.Machine
end

section
/-! PROOF. SUBMIT, CANCEL, MASK, CONTINUE and RELEASE (R268, R271 to R274, R280, R285, R292): a command is refused or taken from its queue,
its effect is on its own request, and its answer leaves a live request as it is. -/

namespace Sys2Proof.Machine

/-! An entry is taken (R528). -/

theorem queues_hostRead (s : State) (n addr len : Nat) (why : ReadFor) (k : Nat) :
    (wlOf (hostRead s n addr len why) k).queues = (wlOf s k).queues := by
  rw [hostRead, wlPost, wlOf_updWl, wlOf_updWl_self, wlOf_updWl]
  split
  · next e => rw [e]
  · rfl
theorem headsKept_hostRead (s : State) (n addr len : Nat) (why : ReadFor) : HeadsKept s (hostRead s n addr len why) :=
  headsKept_of_queues (queues_hostRead s n addr len why)

theorem fetchEntry_frame (s : State) (q : Nat) : fetchEntry s q = { s with wl := (fetchEntry s q).wl }
    ∧ ∀ k, (wlOf (fetchEntry s q) k).queues = (wlOf s k).queues := by
  unfold fetchEntry
  split
  · exact ⟨rfl, fun _ => rfl⟩
  · exact ⟨hostRead_frame .., queues_hostRead s _ _ _ _⟩
/-- The Steward's read of the next entry is of the ports alone. -/
theorem takeCmd_frame (s : State) (q : Nat) : takeCmd s q = { s with wl := (takeCmd s q).wl } := by
  unfold takeCmd
  split
  · rfl
  · extract_lets head s1 s2
    have h2 : s2 = { s with wl := s2.wl } := (hostWrite_frame s1 _ _ _).1
    split
    · exact h2
    · rw [(fetchEntry_frame s2 q).1, h2]
/-- A queue whose head has gone on past an entry. -/
def headTaken (s : State) (q : Nat) (w : WlQueue) : State :=
  updWl s (portOf q) (fun v => { v with queues := putN v.queues q { w with head := w.head + 1, ready := false } })
theorem takeCmd_queues {s : State} {q : Nat} {w : WlQueue} (h : queueAt s q = some w) (k : Nat) :
    (wlOf (takeCmd s q) k).queues = (wlOf (headTaken s q w) k).queues := by
  simp only [takeCmd, h]
  split
  · exact queues_hostWrite (headTaken s q w) ..
  · exact ((fetchEntry_frame ..).2 k).trans (queues_hostWrite (headTaken s q w) ..)
theorem takeCmd_head {s : State} {q : Nat} {w : WlQueue} (h : queueAt s q = some w) :
    queueAt (takeCmd s q) q = some { w with head := w.head + 1, ready := false } := by
  rw [queueAt, takeCmd_queues h, headTaken, wlOf_updWl_self, lookupN_putN_self]

section
variable {s : State} {q : BitVec 16} {index : W32} {e : Bytes} {opc payload : Nat} (hr : hostReady s q index e opc payload)
include hr

/-- What follows the taking of an entry moves no head. -/
theorem hostReady_headMoved {t : State} (h : HeadsKept (takeCmd s q.toNat) t) : headMoved s t q := by
  obtain ⟨-, -, hdue, -⟩ := hr
  cases hw : queueAt s q.toNat with
  | none => simp [cmdDue, hw] at hdue
  | some w =>
    have hhead := h.head q.toNat
    rw [takeCmd_head hw, Option.map_some] at hhead
    obtain ⟨w', hw', he⟩ := Option.map_eq_some_iff.1 hhead
    exact ⟨w, w', hw, hw', he⟩
theorem hostReady_form : entryForm e opc = true ∧ opcBad e opc = false := by
  obtain ⟨hlen, hopc, -, -⟩ := hr
  simp [entryForm, opcBad, hlen, hopc]
theorem hostCmd_refused {refusal : State → Option Nat} {code : Nat} (h : refusal s = some code) (apply : State → State) :
    hostCmd s q index e payload refusal apply = refuseCmd s q.toNat index.toNat e code := by
  obtain ⟨-, -, hdue, -⟩ := hr
  simp [hostCmd, hdue, h]
theorem hostCmd_taken {refusal : State → Option Nat} (h : refusal s = none) (apply : State → State) :
    hostCmd s q index e payload refusal apply = apply (takeCmd s q.toNat) := by
  obtain ⟨-, -, hdue, hlog⟩ := hr
  simp [hostCmd, hdue, h, hlog]
end

/-- The state behind a taken entry has the requests, the partitions and the memories of the one before. -/
theorem takeCmd_reqOf (s : State) (q h : Nat) : reqOf (takeCmd s q) h = reqOf s h := by rw [takeCmd_frame]; rfl
theorem takeCmd_memories (s : State) (q : Nat) : memoriesKept s (takeCmd s q) :=
  memoriesKept_of_eq (by rw [takeCmd_frame]) (by rw [takeCmd_frame])
theorem takeCmd_parts (s : State) (q : Nat) : (takeCmd s q).parts = s.parts := by rw [takeCmd_frame]

/-! SUBMIT (R268, R272 to R274). -/

/-- The reads of a request's inputs are of the ports alone. -/
theorem startReads_frame (s : State) (h : Nat) (r : Request) : startReads s h r = { s with wl := (startReads s h r).wl }
    ∧ HeadsKept s (startReads s h r) := by
  unfold startReads
  extract_lets slot s1 s2
  have h1 : s1 = { s with wl := s1.wl } ∧ HeadsKept s s1 := ⟨hostRead_frame .., headsKept_hostRead ..⟩
  have h2 : s2 = { s with wl := s2.wl } ∧ HeadsKept s s2 := by
    simp only [s2]; split
    · exact ⟨by rw [readMask, hostRead_frame, h1.1], h1.2.trans (headsKept_hostRead ..)⟩
    · exact h1
  split
  · exact ⟨by rw [hostRead_frame, h2.1], h2.2.trans (headsKept_hostRead ..)⟩
  · exact h2

/-- A submitted request as it is entered in the table. -/
def submitted (s : State) (q : Nat) (e : Bytes) : State :=
  startReads (addRequest s (freeSlot s) (newRequest s q e)) (freeSlot s) (newRequest s q e)
theorem submitted_effect (s : State) (q : Nat) (e : Bytes) : reqOf (submitted s q e) (freeSlot s) = some (newRequest s q e)
    ∧ HeadsKept s (submitted s q e) ∧ memoriesKept s (submitted s q e) ∧ (submitted s q e).parts = s.parts := by
  obtain ⟨hframe, hheads⟩ := startReads_frame (addRequest s (freeSlot s) (newRequest s q e)) (freeSlot s) (newRequest s q e)
  rw [submitted]
  have hadd : HeadsKept s (addRequest s (freeSlot s) (newRequest s q e)) := headsKept_of_wl rfl
  refine ⟨?_, hadd.trans hheads, ?_, ?_⟩
  · rw [hframe]
    exact (reqOf_setReq ..).trans (if_pos rfl)
  · rw [hframe]; exact memoriesKept_of_eq rfl rfl
  · rw [hframe]; rfl

/-- An accepted SUBMIT names a partition of the module. -/
theorem submitRefusal_part {q : Nat} {e : Bytes} {s : State} (h : submitRefusal q e s = none) : cPart e ≤ 15 := by
  have hok : submitOk s e = true := by
    by_contra hbad
    simp [submitRefusal, firstOf, hbad] at h
  simp only [submitOk, Bool.and_eq_true, decide_eq_true_eq, and_assoc] at hok
  obtain ⟨-, hpart, -⟩ := hok
  exact hpart

section
variable {s : State} {q : BitVec 16} {index : W32} {e : Bytes} (hr : hostReady s q index e 1 0)
include hr

theorem exec_submit : exec (.submit q index e) s = .next (hostCmd s q index e 0 (submitRefusal q.toNat e)
    (fun s => answerCmd (submitted s q.toNat e) q.toNat e 1)) := by
  obtain ⟨hform, hopc⟩ := hostReady_form hr
  show execSubmit q index e s = _
  simp only [execSubmit, hform, hopc, Bool.not_true, Bool.false_eq_true, if_false]
  rfl
theorem submit_queues (h : submitRefusal q.toNat e s = none) : answers (.submit q index e) s (fun t => headMoved s t q ∧ memoriesKept s t
    ∧ t.parts = s.parts ∧ ∃ r, reqOf t (freeSlot s) = some r ∧ r.st = .queued ∧ r.desc = e ∧ r.part.val = cPart e ∧ r.tokens = []
      ∧ r.epoch = (bindEpoch s (cPart e)).1 ∧ 0 < r.fetching) := by
  have hpart := submitRefusal_part h
  obtain ⟨hreq, hheads, hmem, hparts⟩ := submitted_effect (takeCmd s q.toNat) q.toNat e
  obtain ⟨hposted, hmem'⟩ := answerCmd_posted (submitted (takeCmd s q.toNat) q.toNat e) q.toNat e 1
  have hslot : freeSlot (takeCmd s q.toNat) = freeSlot s := by rw [takeCmd_frame]; rfl
  have hbind : bindEpoch (takeCmd s q.toNat) (cPart e) = bindEpoch s (cPart e) := by rw [takeCmd_frame]; rfl
  rw [hslot] at hreq
  refine ⟨_, (exec_submit hr).trans (by rw [hostCmd_taken hr h]), hostReady_headMoved hr (hheads.trans hposted.heads),
    memoriesKept_trans (takeCmd_memories ..) (memoriesKept_trans hmem hmem'), hposted.parts.trans (hparts.trans (takeCmd_parts ..)),
    newRequest (takeCmd s q.toNat) q.toNat e, hposted.live _ _ hreq rfl, rfl, ?_, ?_, rfl, congrArg Prod.fst hbind, ?_⟩
  · have hlen : e.length = 128 := hr.1
    simp [newRequest, sliceB, hlen]
  · exact Nat.mod_eq_of_lt (Nat.lt_succ_of_le hpart)
  · simp only [newRequest]; omega
end

/-! Commands that name a request (R271, R273). -/

section
variable {s : State} {e : Bytes} {h : Nat} {r : Request} (hn : names s e h r)
include hn

theorem names_refusal {bad : Bool} (hb : bad = false) (k : Nat → Request → Option Nat) : namedRefusal e bad s k = k h r := by
  obtain ⟨hpart, hserves, hfind, -⟩ := hn
  simp [namedRefusal, hb, Nat.not_lt.2 hpart, hserves, hfind]
/-- The request is the one that the command finds behind its entry. -/
theorem names_withReq (q : Nat) (k : Nat → Request → State) : withReq (takeCmd s q) e k = k h r := by
  obtain ⟨-, -, hfind, -⟩ := hn
  have hfind' : findReq (takeCmd s q) (cPart e) (cReq e) = some (h, r) := by rw [takeCmd_frame]; exact hfind
  simp only [withReq, hfind']
theorem names_reqOf (q : Nat) : reqOf (takeCmd s q) h = some r := by
  obtain ⟨-, -, -, hreq⟩ := hn
  exact (takeCmd_reqOf ..).trans hreq
end

/-! CANCEL (R285). -/

/-- A cancel that waits stands in its request. -/
theorem applyCancel_waits {s : State} {h : Nat} {r : Request} (hr : reqOf s h = some r)
    (hw : r.st = .decode ∨ s.fin.held.isSome = true) (hc : r.cancel = none) (q cq : BitVec 16) :
    applyCancel s h q cq = setReq s h { r with cancel := some (q, cq) } := by
  have hcond : (s.fin.held.isSome || r.st = .decode || (r.st = .prefill && prefilling s h r)) = true := by
    rcases hw with hw | hw <;> simp [hw]
  simp only [applyCancel, hr, hcond, hc, if_true, Option.isSome_none, Bool.false_eq_true, if_false]
/-- One that need not wait ends it, behind its record in the Logbook. -/
theorem applyCancel_ends {s : State} {h : Nat} {r : Request} (hr : reqOf s h = some r) (hheld : s.fin.held = none) (hd : r.st ≠ .decode)
    (hp : r.st = .prefill → prefilling s h r = false) (q cq : BitVec 16) :
    ∃ u, OnlyMail s u ∧ applyCancel s h q cq = endRequest u h .cancelled 2 0 1 0 := by
  have hcond : (s.fin.held.isSome || r.st = .decode || (r.st = .prefill && prefilling s h r)) = false := by
    by_cases hst : r.st = .prefill <;> simp [hheld, hd, hst, hp]
  refine ⟨logInput s r.part.val 0x04 0 (some (rReq r)) (some r.tokens.length) [1#8, 0#8], onlyMail_logInput .., ?_⟩
  simp only [applyCancel, hr, hcond, Bool.false_eq_true, if_false, cancelNow]

/-- A request that is live ends in a state, behind its record. -/
theorem endRequest_behind {s u : State} {h : Nat} {r : Request} (hr : reqOf s h = some r) (hf : reqFinal r = false) (hu : OnlyMail s u)
    (st : ReqState) (reason stop answer event : Nat) : let t := endRequest u h st reason stop answer event
    HeadsKept s t ∧ endedAs t h st ∧ spadsKept s t := by
  obtain ⟨hended, hspads⟩ := endRequest_ends ((hu.reqOf_eq h).trans hr) hf st reason stop answer event
  exact ⟨hu.heads.trans (endRequest_heads ..), hended, spadsKept_trans hu.memories.1 hspads⟩

section
variable {s : State} {q : BitVec 16} {index : W32} {e : Bytes} {h : Nat} {r : Request} (hn : names s e h r)
include hn

section
variable (hr : hostReady s q index e 2 2) (hz : zeroBut e [(0, 1), (2, 1), (4, 4), (0x32, 2)] = true)
include hr hz

theorem exec_cancel : exec (.cancel q index e) s = .next (if reqFinal r then answerCmd (takeCmd s q.toNat) q.toNat e 2
    else if r.cancel.isSome then answerCmd (takeCmd s q.toNat) q.toNat e 1
    else applyCancel (takeCmd s q.toNat) h q (BitVec.ofNat 16 (cCq e))) := by
  obtain ⟨hform, hopc⟩ := hostReady_form hr
  have hbad : (opcBad e 2 || !zeroBut e [(0, 1), (2, 1), (4, 4), (0x32, 2)]) = false := by simp [hopc, hz]
  show execCancel q index e s = _
  simp only [execCancel, hform, Bool.not_true, Bool.false_eq_true, if_false]
  rw [hostCmd_taken hr (names_refusal hn hbad _), names_withReq hn]
theorem cancel_waits (hf : reqFinal r = false) (hw : r.st = .decode ∨ s.fin.held.isSome = true) (hc : r.cancel = none) :
    answers (.cancel q index e) s (fun t => headMoved s t q ∧ memoriesKept s t ∧ t.parts = s.parts
      ∧ reqOf t h = some { r with cancel := some (q, BitVec.ofNat 16 (cCq e)) }) := by
  have hw' : r.st = .decode ∨ (takeCmd s q.toNat).fin.held.isSome = true := by rw [takeCmd_frame]; exact hw
  refine ⟨setReq (takeCmd s q.toNat) h { r with cancel := some (q, BitVec.ofNat 16 (cCq e)) }, ?_, ?_, ?_, ?_, ?_⟩
  · rw [exec_cancel hn hr hz, hf, hc, applyCancel_waits (names_reqOf hn q.toNat) hw' hc]
    rfl
  · exact hostReady_headMoved hr (headsKept_of_wl rfl)
  · exact memoriesKept_trans (takeCmd_memories ..) (memoriesKept_of_eq rfl rfl)
  · exact takeCmd_parts ..
  · exact (reqOf_setReq ..).trans (if_pos rfl)
theorem cancel_ends (hf : reqFinal r = false) (hheld : s.fin.held = none) (hc : r.cancel = none) (hd : r.st ≠ .decode)
    (hp : r.st = .prefill → prefilling s h r = false) :
    answers (.cancel q index e) s (fun t => headMoved s t q ∧ endedAs t h .cancelled ∧ spadsKept s t) := by
  have hreq := names_reqOf hn q.toNat
  have hheld' : (takeCmd s q.toNat).fin.held = none := by rw [takeCmd_frame]; exact hheld
  have hp' : r.st = .prefill → prefilling (takeCmd s q.toNat) h r = false := by rw [takeCmd_frame]; exact hp
  obtain ⟨u, hu, hcancel⟩ := applyCancel_ends hreq hheld' hd hp' q (BitVec.ofNat 16 (cCq e))
  obtain ⟨hheads, hended, hspads⟩ := endRequest_behind hreq hf hu .cancelled 2 0 1 0
  refine ⟨_, ?_, hostReady_headMoved hr hheads, hended, spadsKept_trans (takeCmd_memories ..).1 hspads⟩
  rw [exec_cancel hn hr hz, hf, hc, hcancel]
  rfl
end

/-! RELEASE (R270, R271). -/

section
variable (hr : hostReady s q index e 5 0) (hz : zeroBut e [(0, 1), (2, 1), (4, 4), (0x32, 2)] = true)
include hr hz

theorem exec_release : exec (.release q index e) s = .next (if keepPaused r then applyRelease (takeCmd s q.toNat) h
    else refuseCmd s q.toNat index.toNat e 0x18) := by
  obtain ⟨hform, hopc⟩ := hostReady_form hr
  have hbad : (opcBad e 5 || !zeroBut e [(0, 1), (2, 1), (4, 4), (0x32, 2)]) = false := by simp [hopc, hz]
  have hrefusal := names_refusal hn hbad (fun _ r => if keepPaused r then none else some 0x18)
  show execRelease q index e s = _
  simp only [execRelease, hform, Bool.not_true, Bool.false_eq_true, if_false]
  cases hk : keepPaused r with
  | true => rw [hostCmd_taken hr (hrefusal.trans (by rw [hk]; rfl)), names_withReq hn]; rfl
  | false => rw [hostCmd_refused hr (hrefusal.trans (by rw [hk]; rfl))]; rfl
theorem release_ends (hk : keepPaused r = true) :
    answers (.release q index e) s (fun t => headMoved s t q ∧ endedAs t h .done ∧ spadsKept s t) := by
  have hreq := names_reqOf hn q.toNat
  have hf : reqFinal r = false := by
    simp only [keepPaused, Bool.and_eq_true, beq_iff_eq] at hk
    simp [reqFinal, hk.1.2]
  obtain ⟨hheads, hended, hspads⟩ := endRequest_behind hreq hf (onlyMail_logInput (takeCmd s q.toNat) r.part.val 0x06 0 (some (rReq r))
    (some r.tokens.length) []) .done 8 0 0 0
  refine ⟨_, ?_, hostReady_headMoved hr hheads, hended, spadsKept_trans (takeCmd_memories ..).1 hspads⟩
  rw [exec_release hn hr hz, hk, applyRelease, hreq]
  rfl
end
end

end Sys2Proof.Machine
end

section
/-! PROOF. MASK and CONTINUE (R280, R292): both change their own request first, and what they record, fold and count behind it leaves every
request but in its running Plate and its counts. -/

namespace Sys2Proof.Machine

/-! Inputs as they are recorded (R281, R383, R390). -/

/-- No memory, no head of a queue and no request differs, but a request's running Plate and its counts. -/
structure InputRecorded (s t : State) : Prop where
  kept : RequestsKept s t
  memories : memoriesKept s t
  heads : HeadsKept s t

theorem inputRecorded_refl (s : State) : InputRecorded s s := ⟨requestsKept_refl s, memoriesKept_refl s, headsKept_refl s⟩
theorem InputRecorded.trans {s t u : State} (h : InputRecorded s t) (g : InputRecorded t u) : InputRecorded s u :=
  ⟨h.kept.trans g.kept, memoriesKept_trans h.memories g.memories, h.heads.trans g.heads⟩
theorem inputRecorded_foldl {α : Type} {f : State → α → State} (h : ∀ s a, InputRecorded s (f s a)) (l : List α) (s : State) :
    InputRecorded s (l.foldl f s) := foldl_rel inputRecorded_refl InputRecorded.trans h l s
theorem OnlyMail.recorded {s t : State} (h : OnlyMail s t) : InputRecorded s t :=
  ⟨requestsKept_of_eq (by rw [h.frame]) (by rw [h.frame]), h.memories, h.heads⟩

theorem foldReq_recorded (s : State) (h type : Nat) (payload : Bytes) : InputRecorded s (foldReq s h type payload) :=
  ⟨foldReq_kept .., memoriesKept_of_eq (updReq_cores ..) (updReq_clusters ..), foldReq_heads ..⟩
theorem countToken_recorded (s : State) (h id : Nat) : InputRecorded s (countToken s h id) := by
  have hframe : (countToken s h id).cores = s.cores ∧ (countToken s h id).clusters = s.clusters ∧ (countToken s h id).wl = s.wl := by
    unfold countToken
    split
    · exact ⟨rfl, rfl, rfl⟩
    · split
      · exact ⟨rfl, rfl, rfl⟩
      · dsimp only
        split <;> exact ⟨rfl, rfl, rfl⟩
  obtain ⟨hcores, hclusters, hwl⟩ := hframe
  exact ⟨countToken_kept .., memoriesKept_of_eq hcores hclusters, headsKept_of_wl hwl⟩

/-- A live request stays as its input has left it while the input is recorded and answered. -/
theorem answerCmd_recorded {s t : State} (hst : InputRecorded s t) {h : Nat} {r : Request} (hr : reqOf s h = some r)
    (hf : reqFinal r = false) (q : Nat) (e : Bytes) (code : Nat) : HeadsKept s (answerCmd t q e code)
      ∧ memoriesKept s (answerCmd t q e code) ∧ ∃ x, reqOf (answerCmd t q e code) h = some x ∧ bareReq x = bareReq r := by
  obtain ⟨hposted, hmem⟩ := answerCmd_posted t q e code
  obtain ⟨x, hx, hbare⟩ := hst.kept.stays hr
  have hst' : x.st = r.st := (congrArg Request.st hbare :)
  have hlive : reqFinal x = false := by rw [← hf, reqFinal, hst', reqFinal]
  exact ⟨hst.heads.trans hposted.heads, memoriesKept_trans hst.memories hmem, x, hposted.live h x hx hlive, hbare⟩

/-! MASK (R280, R303). -/

/-- A request with one more mask, which bounds the cycle in flight. -/
def maskedReq (r : Request) (at_ : Nat) (bitmap : Bytes) : Request :=
  { r with
    masks := insertBy (fun (a b : Nat × Bytes) => decide (a.1 < b.1)) (at_, bitmap) r.masks
    cycle := r.cycle.map (fun x => { x with limit := some (match x.limit with | some n => min n at_ | none => at_) }) }

theorem applyMask_recorded {s : State} {h : Nat} {r : Request} (hr : reqOf s h = some r) (at_ : Nat) (bitmap : Bytes) :
    InputRecorded (setReq s h (maskedReq r at_ bitmap)) (applyMask s h at_ bitmap) := by
  unfold applyMask
  rw [hr]
  dsimp -zeta only
  extract_lets s1 s2
  have h2 : InputRecorded s1 s2 := (onlyMail_logInput ..).recorded
  split
  · exact h2.trans (foldReq_recorded ..)
  · exact h2

/-! CONTINUE (R292). -/

/-- A request that resumes with appended tokens. -/
def continuedReq (maxNew base : Nat) (tokens : List W32) (r : Request) : Request :=
  { r with
    appended := r.appended ++ tokens.map (fun t => (r.tokens.length, t)), st := .resuming, pause := none, genBase := base
    genStart := r.tokens.length, maxNew := maxNew, stop := stopFields r.stop maxNew (reservedFor (base + maxNew)) base }

/-- The input is recorded and folded before the request's own change, and its tokens are counted behind it. -/
theorem applyContinue_recorded {s : State} {h : Nat} {r : Request} (hr : reqOf s h = some r) (entry : Bytes) (tokens : List W32) :
    ∃ v y, bareReq y = bareReq r ∧ reqOf v h = some (continuedReq (leAt entry 0x14 4) (rLength r + tokens.length) tokens y)
      ∧ HeadsKept s v ∧ memoriesKept s v ∧ InputRecorded v (applyContinue s h entry tokens) := by
  unfold applyContinue
  rw [hr]
  dsimp -zeta only
  extract_lets bytes maxNew base s1 s2 s3
  have h2 : InputRecorded s s2 := (onlyMail_logInput ..).recorded.trans (foldReq_recorded s1 ..)
  obtain ⟨y, hy, hbare⟩ := h2.kept.stays hr
  have hheads : HeadsKept s2 s3 := headsKept_of_wl (updReq_wl ..)
  have hmem : memoriesKept s2 s3 := memoriesKept_of_eq (updReq_cores ..) (updReq_clusters ..)
  refine ⟨s3, y, hbare, ?_, h2.heads.trans hheads, memoriesKept_trans h2.memories hmem, ?_⟩
  · simp only [s3, reqOf_updReq_self, hy]
    rfl
  · split
    · exact inputRecorded_foldl (fun t x => countToken_recorded ..) tokens s3
    · exact inputRecorded_refl s3

section
variable {s : State} {q : BitVec 16} {index : W32} {e : Bytes} {h : Nat} {r : Request} (hn : names s e h r)
include hn

section
variable {bm : Bytes} (hr : hostReady s q index e 3 24580) (hlen : bm.length = 24576) (hf : reqFinal r = false)
  (hat : nextIndex r ≤ leAt e 8 4) (hz : zeroBut e [(0, 1), (2, 1), (4, 4), (8, 4), (0x20, 8), (0x32, 2)] = true)
include hr hlen hf hat hz

theorem exec_mask : exec (.mask q index e (some bm)) s
    = .next (answerCmd (applyMask (takeCmd s q.toNat) h (leAt e 8 4) bm) q.toNat e 1) := by
  obtain ⟨hform, hopc⟩ := hostReady_form hr
  have hbad : (opcBad e 3 || !zeroBut e [(0, 1), (2, 1), (4, 4), (8, 4), (0x20, 8), (0x32, 2)]) = false := by simp [hopc, hz]
  show execMask q index e (some bm) s = _
  rw [execMask, if_neg (by simp [hform, hlen]), hostCmd_taken hr ((names_refusal hn hbad _).trans (by simp [hf, Nat.not_lt.2 hat])),
    names_withReq hn]
  rfl
theorem mask_stands : answers (.mask q index e (some bm)) s (fun t => headMoved s t q ∧ memoriesKept s t ∧ ∃ x, reqOf t h = some x
    ∧ x.masks = insertBy (fun (a b : Nat × Bytes) => decide (a.1 < b.1)) (leAt e 8 4, bm) r.masks ∧ x.st = r.st ∧ x.tokens = r.tokens
    ∧ x.cycle = r.cycle.map (fun y => { y with limit := some (match y.limit with | some n => min n (leAt e 8 4) | none => leAt e 8 4) })) := by
  obtain ⟨hheads, hmem, x, hx, hbare⟩ := answerCmd_recorded (applyMask_recorded (names_reqOf hn q.toNat) (leAt e 8 4) bm)
    ((reqOf_setReq ..).trans (if_pos rfl)) hf q.toNat e 1
  have hset : HeadsKept (takeCmd s q.toNat) (setReq (takeCmd s q.toNat) h (maskedReq r (leAt e 8 4) bm)) := headsKept_of_wl rfl
  exact ⟨_, exec_mask hn hr hlen hf hat hz, hostReady_headMoved hr (hset.trans hheads),
    memoriesKept_trans (takeCmd_memories ..) (memoriesKept_trans (memoriesKept_of_eq rfl rfl) hmem), x, hx,
    (congrArg Request.masks hbare :), (congrArg Request.st hbare :), (congrArg Request.tokens hbare :), (congrArg Request.cycle hbare :)⟩
end

section
variable {b : Bytes} (hr : hostReady s q index e 4 (128 + 4 * leAt e 0x10 4)) (hlen : b.length = 4 * leAt e 0x10 4)
  (hm1 : 1 ≤ leAt e 0x14 4) (hm2 : leAt e 0x14 4 ≤ 4194304) (hk : keepPaused r = true)
  (hfits : lengthOk s (cPart e) (rLength r + leAt e 0x10 4 + leAt e 0x14 4) = true)
  (hz : zeroBut e [(0, 1), (2, 1), (4, 4), (0x10, 4), (0x14, 4), (0x18, 8), (0x32, 2)] = true)
include hr hlen hm1 hm2 hk hfits hz

theorem exec_continueReq : exec (.continueReq q index e (some b)) s
    = .next (answerCmd (applyContinue (takeCmd s q.toNat) h e (wordsOf b)) q.toNat e 1) := by
  obtain ⟨hform, hopc⟩ := hostReady_form hr
  have hbad : (opcBad e 4 || !zeroBut e [(0, 1), (2, 1), (4, 4), (0x10, 4), (0x14, 4), (0x18, 8), (0x32, 2)]
      || leAt e 0x14 4 == 0 || decide (4194304 < leAt e 0x14 4)) = false := by
    simp [hopc, hz, Nat.one_le_iff_ne_zero.1 hm1, Nat.not_lt.2 hm2]
  show execContinueReq q index e (some b) s = _
  dsimp only [execContinueReq]
  rw [if_neg (by simp [hform, hlen]), hostCmd_taken hr ((names_refusal hn hbad _).trans (by simp [hk, hfits])), names_withReq hn]
  rfl
theorem continue_resumes : answers (.continueReq q index e (some b)) s (fun t => headMoved s t q ∧ memoriesKept s t
    ∧ ∃ x, reqOf t h = some x ∧ x.st = .resuming ∧ x.pause = none ∧ x.maxNew = leAt e 0x14 4
      ∧ x.genBase = rLength r + (wordsOf b).length ∧ x.tokens = r.tokens
      ∧ x.appended = r.appended ++ (wordsOf b).map (fun t => (r.tokens.length, t))) := by
  obtain ⟨v, y, hybare, hset, hheads, hmem, hinput⟩ := applyContinue_recorded (names_reqOf hn q.toNat) e (wordsOf b)
  obtain ⟨hheads', hmem', x, hx, hxbare⟩ := answerCmd_recorded hinput hset rfl q.toNat e 1
  have hbare : bareReq x = continuedReq (leAt e 0x14 4) (rLength r + (wordsOf b).length) (wordsOf b) (bareReq r) :=
    hxbare.trans (congrArg (continuedReq _ _ _) hybare)
  exact ⟨_, exec_continueReq hn hr hlen hm1 hm2 hk hfits hz, hostReady_headMoved hr (hheads.trans hheads'),
    memoriesKept_trans (takeCmd_memories ..) (memoriesKept_trans hmem hmem'), x, hx,
    (congrArg Request.st hbare :), (congrArg Request.pause hbare :), (congrArg Request.maxNew hbare :),
    (congrArg Request.genBase hbare :), (congrArg Request.tokens hbare :), (congrArg Request.appended hbare :)⟩
end
end

/-- Settles O36: a ready command is refused with its code or taken from its queue; a request that it enters or changes is live, so that its
answer leaves it as it is, and one that it ends has its final state. -/
theorem hostCommandsOnRequests : Obligations.HostCommandsOnRequests := by
  unfold Obligations.HostCommandsOnRequests
  refine ⟨fun q index e s hr => ⟨fun code hc => ?_, submit_queues hr⟩,
    fun q index e s h r hn => ⟨fun hr hz => ⟨fun hf => ?_, fun hf hc => ?_, fun hf hw hc => ?_, fun hf hheld hc hd hp => ?_⟩,
      fun hr hz => ⟨release_ends hn hr hz, fun hk => ?_⟩, fun bm hr hlen hf hat hz => mask_stands hn hr hlen hf hat hz,
      fun b hr hlen hm1 hm2 hk hfits hz => continue_resumes hn hr hlen hm1 hm2 hk hfits hz⟩⟩
  · rw [exec_submit hr, hostCmd_refused hr hc]
  · rw [exec_cancel hn hr hz, if_pos hf]
  · rw [exec_cancel hn hr hz, if_neg (by simp [hf]), if_pos hc]
  · exact cancel_waits hn hr hz hf hw hc
  · exact cancel_ends hn hr hz hf hheld hc hd hp
  · rw [exec_release hn hr hz, if_neg (by simp [hk])]

end Sys2Proof.Machine
end

section
/-! PROOF. What the Steward does at a commit point (R285 to R288, R298, R392) leaves of the partitions' acceptance estimates and of the
committed tokens. -/

namespace Sys2Proof.Machine

/-! Acceptance estimates (R309). -/

/-- Every partition has the acceptance estimate that it had, over the cycles that it had. -/
structure EstimatesKept (s t : State) : Prop where
  kept : ∀ q, (partOf t q).accept = (partOf s q).accept ∧ (partOf t q).acceptCycles = (partOf s q).acceptCycles

theorem estimatesKept_refl (s : State) : EstimatesKept s s := ⟨fun _ => ⟨rfl, rfl⟩⟩
theorem EstimatesKept.trans {s t u : State} (h : EstimatesKept s t) (g : EstimatesKept t u) : EstimatesKept s u :=
  ⟨fun q => ⟨(g.kept q).1.trans (h.kept q).1, (g.kept q).2.trans (h.kept q).2⟩⟩
theorem estimatesKept_of_parts {s t : State} (h : t.parts = s.parts) : EstimatesKept s t := ⟨fun q => by simp only [partOf, h, and_self]⟩
theorem estimatesKept_updPart (s : State) (p : Nat) {f : PartState → PartState}
    (hf : ∀ v, (f v).accept = v.accept ∧ (f v).acceptCycles = v.acceptCycles) : EstimatesKept s (updPart s p f) := by
  refine ⟨fun q => ?_⟩
  rw [partOf_updPart]
  split
  · next e => rw [e]; exact hf _
  · exact ⟨rfl, rfl⟩
theorem estimatesKept_updJob (s : State) (p : Nat) (f : Job → Job) : EstimatesKept s (updJob s p f) :=
  estimatesKept_updPart s p (fun _ => ⟨rfl, rfl⟩)

theorem stwEvent_estimates (s : State) (code sev : Nat) (p req : Option Nat) (d : Bytes) : EstimatesKept s (stwEvent s code sev p req d) :=
  estimatesKept_of_parts rfl
theorem logPost_parts (s : State) (q : Nat) (b : Bytes) : (logPost s q b).parts = s.parts := by
  unfold logPost
  split
  · rfl
  · dsimp only
    rw [queueWrite_frame]
    split
    · rfl
    · rw [queueWrite_frame]
theorem logStall_estimates (s : State) (p : Nat) : EstimatesKept s (logStall s p) := by
  unfold logStall
  split
  · exact estimatesKept_refl s
  · refine .trans ?_ (stwEvent_estimates ..)
    exact estimatesKept_updPart s p (fun _ => ⟨rfl, rfl⟩)
theorem logInput_estimates (s : State) (p type flags : Nat) (req index : Option Nat) (payload : Bytes) :
    EstimatesKept s (logInput s p type flags req index payload) := by
  unfold logInput
  split
  · extract_lets bs s1
    have h1 : EstimatesKept s s1 := estimatesKept_updPart s p (fun _ => ⟨rfl, rfl⟩)
    split
    · exact h1.trans (estimatesKept_of_parts (logPost_parts ..))
    · refine h1.trans (.trans ?_ (logStall_estimates ..))
      exact estimatesKept_updPart s1 p (fun _ => ⟨rfl, rfl⟩)
  · exact estimatesKept_refl s

/-! Fields of requests. -/

/-- Every scratchpad and every acceptance estimate is as it was; a request that is there was there, with the same value of a field. -/
structure FieldKept {α : Type} (g : Request → α) (s t : State) : Prop where
  spads : spadsKept s t
  estimates : EstimatesKept s t
  field : ∀ h y, reqOf t h = some y → ∃ r, reqOf s h = some r ∧ g y = g r

section
variable {α : Type} {g : Request → α}

theorem fieldKept_refl (s : State) : FieldKept g s s := ⟨fun _ => rfl, estimatesKept_refl s, fun _ y hy => ⟨y, hy, rfl⟩⟩
theorem FieldKept.trans {s t u : State} (h : FieldKept g s t) (k : FieldKept g t u) : FieldKept g s u := by
  refine ⟨spadsKept_trans h.spads k.spads, h.estimates.trans k.estimates, fun i z hz => ?_⟩
  obtain ⟨y, hy, hzy⟩ := k.field i z hz
  obtain ⟨r, hr, hyr⟩ := h.field i y hy
  exact ⟨r, hr, hzy.trans hyr⟩
theorem fieldKept_foldl {β : Type} {f : State → β → State} (h : ∀ s a, FieldKept g s (f s a)) (l : List β) (s : State) :
    FieldKept g s (l.foldl f s) := foldl_rel fieldKept_refl FieldKept.trans h l s
theorem fieldKept_of_eq {s t : State} (hc : t.cores = s.cores) (hr : t.reqs = s.reqs) (hp : EstimatesKept s t) : FieldKept g s t :=
  ⟨fun c => by simp only [coreOf, hc], hp, fun h y hy => ⟨y, by rw [← hy, reqOf, reqOf, hr], rfl⟩⟩
theorem onlyBooks.field {s t : State} (h : onlyBooks s t) (hp : EstimatesKept s t) : FieldKept g s t :=
  fieldKept_of_eq (by rw [h]) (by rw [h]) hp
theorem fieldKept_setReq {s : State} {h : Nat} {r v : Request} (hr : reqOf s h = some r) (hv : g v = g r) :
    FieldKept g s (setReq s h v) := by
  refine ⟨fun _ => rfl, estimatesKept_of_parts rfl, fun k y hy => ?_⟩
  rw [reqOf_setReq] at hy
  split at hy
  · next e =>
    obtain rfl := Option.some.inj hy
    exact ⟨r, by rw [e, hr], hv⟩
  · exact ⟨y, hy, rfl⟩
theorem fieldKept_updReq (s : State) (h : Nat) {f : Request → Request} (hf : ∀ r, g (f r) = g r) : FieldKept g s (updReq s h f) := by
  unfold updReq
  split
  · next r hr => exact fieldKept_setReq hr (hf r)
  · exact fieldKept_refl s

/-- A field that neither the running Plate nor the counts are a part of. -/
theorem RequestsKept.field {s t : State} (h : RequestsKept s t) (hp : EstimatesKept s t) (hg : ∀ r, g (bareReq r) = g r) :
    FieldKept g s t := by
  refine ⟨h.spads, hp, fun k y hy => ?_⟩
  obtain ⟨r, hr, hry⟩ := h.was hy
  exact ⟨r, hr, by rw [← hg y, ← hg r, hry]⟩
end

/-! Committed tokens. -/

/-- No request has other committed tokens. -/
abbrev TokensKept : State → State → Prop := FieldKept Request.tokens

theorem tokensKept_setReq {s : State} {h : Nat} {r v : Request} (hr : reqOf s h = some r) (hv : v.tokens = r.tokens) :
    TokensKept s (setReq s h v) := fieldKept_setReq hr hv
theorem RequestsKept.tokens {s t : State} (h : RequestsKept s t) (hp : t.parts = s.parts) : TokensKept s t :=
  h.field (estimatesKept_of_parts hp) (fun _ => rfl)
theorem stwEvent_tokens (s : State) (code sev : Nat) (p req : Option Nat) (d : Bytes) : TokensKept s (stwEvent s code sev p req d) :=
  fieldKept_of_eq rfl rfl (stwEvent_estimates ..)
theorem logStall_tokens (s : State) (p : Nat) : TokensKept s (logStall s p) := (logStall_frame ..).1.field (logStall_estimates ..)
theorem logInput_tokens (s : State) (p type flags : Nat) (req index : Option Nat) (payload : Bytes) :
    TokensKept s (logInput s p type flags req index payload) := (logInput_frame ..).1.field (logInput_estimates ..)
theorem logPause_tokens (s : State) (p h : Nat) : TokensKept s (logPause s p h) := by
  refine (logPause_frame ..).1.1.field ?_
  unfold logPause
  split
  · exact EstimatesKept.trans (t := (freeBytes s 1).2) (estimatesKept_of_parts rfl) (logInput_estimates ..)
  · exact estimatesKept_refl s

theorem foldReq_parts (s : State) (h type : Nat) (payload : Bytes) : (foldReq s h type payload).parts = s.parts := by
  unfold foldReq updReq
  split <;> rfl
theorem foldReq_tokens (s : State) (h type : Nat) (payload : Bytes) : TokensKept s (foldReq s h type payload) :=
  (foldReq_kept ..).tokens (foldReq_parts ..)
theorem foldEnd_tokens (s : State) (h reason stop : Nat) : TokensKept s (foldEnd s h reason stop) := by
  unfold foldEnd
  split
  · next r hr =>
    refine .trans ?_ (foldReq_tokens ..)
    split
    · exact tokensKept_setReq hr rfl
    · exact fieldKept_refl s
  · exact fieldKept_refl s
theorem foldMasks_tokens (s : State) (h : Nat) : TokensKept s (foldMasks s h) := by
  unfold foldMasks
  split
  · exact fieldKept_foldl (fun t m => foldReq_tokens ..) _ s
  · exact fieldKept_refl s
theorem countToken_tokens (s : State) (h id : Nat) : TokensKept s (countToken s h id) := by
  refine (countToken_kept ..).tokens ?_
  unfold countToken
  split
  · rfl
  · split
    · rfl
    · dsimp only
      split <;> rfl

/-! Ends of requests (R270, R293), and of drafts (R298, R307). -/

theorem freeExtents_clusters (s : State) (d : Option SweepDesc) (ks : List Nat) (h : Nat) : onlyClusters s (freeExtents s d ks h) := by
  unfold freeExtents
  refine onlyClusters_foldl (fun t k => ?_) ks s
  extract_lets mine t'
  have ht : onlyClusters t t' := rfl
  split
  · exact ht
  · exact onlyClusters_trans ht (onlyClusters_foldl (fun u e => onlyClusters_updCl u k _) _ t')
theorem dropExtents_clusters (s : State) (p h : Nat) : onlyClusters s (dropExtents s p h) :=
  onlyClusters_trans (freeExtents_clusters ..) (freeExtents_clusters ..)
theorem dropShards_parts (s : State) (p : Nat) (digest : Bytes) : (dropShards s p digest).parts = s.parts :=
  foldl_keeps State.parts _ _ s (fun t k _ => by split <;> rfl)
theorem noteDraft_records (s : State) (p : Nat) (digest : Bytes) : EstimatesKept s (noteDraft s p digest)
    ∧ jobsKept s (noteDraft s p digest) := by
  unfold noteDraft
  extract_lets pay s1
  have h1 : s1.parts = s.parts := foldl_keeps State.parts _ (partReqs s p) s (fun t h _ => by
    split
    · split
      · exact foldReq_parts ..
      · rfl
    · rfl)
  exact ⟨(estimatesKept_of_parts h1).trans (logInput_estimates ..), jobsKept_trans (jobsKept_of_parts h1) (logInput_frame ..).2⟩
theorem unloadDraft_estimates (s : State) (p : Nat) (x : Draft) : EstimatesKept s (unloadDraft s p x) := by
  unfold unloadDraft
  extract_lets s1 s2 s3
  have h1 : EstimatesKept s s1 := estimatesKept_updPart s p (fun _ => ⟨rfl, rfl⟩)
  have h2 : onlyClusters s1 s2 := onlyClusters_foldl (fun t h => freeExtents_clusters ..) _ s1
  have h3 : EstimatesKept s s3 :=
    h1.trans ((estimatesKept_of_parts h2.parts_eq).trans (estimatesKept_updJob s2 p _))
  split
  · exact h3.trans (noteDraft_records ..).1
  · exact h3
theorem draftCheck_estimates (s : State) (p : Nat) : EstimatesKept s (draftCheck s p) := by
  unfold draftCheck
  split
  · split
    · exact unloadDraft_estimates ..
    · exact estimatesKept_refl s
  · exact estimatesKept_refl s
theorem retireCheck_estimates (s : State) (p : Nat) : EstimatesKept s (retireCheck s p) := by
  unfold retireCheck
  split
  · exact estimatesKept_refl s
  · split
    · exact estimatesKept_refl s
    · extract_lets base s1 s2 s3
      have h1 : EstimatesKept s s1 := by
        simp only [s1]; split
        · exact estimatesKept_refl s
        · exact estimatesKept_of_parts (dropShards_parts ..)
      have h2 : EstimatesKept s1 s2 := estimatesKept_updPart s1 p (fun _ => ⟨rfl, rfl⟩)
      have h3 : EstimatesKept s2 s3 := logInput_estimates ..
      exact h1.trans (h2.trans (h3.trans (stwEvent_estimates ..)))

theorem postRec_tokens (s : State) (q : Nat) (slot : Option Nat) (b : Bytes) : TokensKept s (postRec s q slot b) :=
  ⟨(postRec_memories ..).1, estimatesKept_of_parts (postRec_posted ..).parts,
    fun h y hy => ⟨y, (flushHeld_flushed (updWl s (portOf q) _) _).reqs h y hy, rfl⟩⟩
theorem endRequest_tokens (s : State) (h : Nat) (st : ReqState) (reason stop answer event : Nat) :
    TokensKept s (endRequest s h st reason stop answer event) := by
  unfold endRequest
  split
  · exact fieldKept_refl s
  · next r hr =>
    split
    · exact fieldKept_refl s
    · extract_lets p s1 s2 s3 s4
      have h1 : TokensKept s s1 := tokensKept_setReq hr rfl
      have h2 : TokensKept s1 s2 := by
        refine .trans (t := if r.fetching = 0 then s1 else dropReads s1 h) ?_ (fieldKept_of_eq rfl rfl (estimatesKept_updJob ..))
        split
        · exact fieldKept_refl s1
        · exact fieldKept_of_eq rfl rfl (estimatesKept_of_parts rfl)
      have hdrop := dropExtents_clusters (foldEnd s2 h reason stop) p h
      have h3 : TokensKept s2 s3 := (foldEnd_tokens s2 h reason stop).trans
        (.trans ((dropExtents_frame ..).field (estimatesKept_of_parts hdrop.parts_eq)) (fieldKept_of_eq rfl rfl (estimatesKept_of_parts rfl)))
      have h4 : TokensKept s3 s4 := by
        simp only [s4]; split
        · exact stwEvent_tokens ..
        · exact fieldKept_refl s3
      have hs4 : TokensKept s s4 := h1.trans (h2.trans (h3.trans h4))
      split
      · exact hs4.trans (.trans (postRec_tokens ..) (.trans ((retireCheck_frame ..).field (retireCheck_estimates ..))
          ((draftCheck_kept ..).field (draftCheck_estimates ..) (fun _ => rfl))))
      · exact hs4
theorem keepStop_tokens (s : State) (h stop answer : Nat) : TokensKept s (keepStop s h stop answer) := by
  unfold keepStop
  split
  · exact fieldKept_refl s
  · next r hr =>
    extract_lets s1 s2
    have h1 : TokensKept s s1 := tokensKept_setReq hr rfl
    have h2 : TokensKept s s2 := h1.trans (foldEnd_tokens ..)
    split
    · exact h2.trans (postRec_tokens ..)
    · exact h2
theorem cancelNow_tokens (s : State) (h : Nat) : TokensKept s (cancelNow s h) := by
  unfold cancelNow
  split
  · exact fieldKept_refl s
  · exact (logInput_tokens ..).trans (endRequest_tokens ..)

/-! Inputs (R280, R285, R290, R292, R392). -/

theorem applyMask_tokens (s : State) (h at_ : Nat) (bitmap : Bytes) : TokensKept s (applyMask s h at_ bitmap) := by
  unfold applyMask
  split
  · exact fieldKept_refl s
  · next r hr =>
    extract_lets s1 s2
    have h1 : TokensKept s s1 := tokensKept_setReq hr rfl
    have h2 : TokensKept s s2 := h1.trans (logInput_tokens ..)
    split
    · exact h2.trans (foldReq_tokens ..)
    · exact h2
theorem applyCancel_tokens (s : State) (h : Nat) (q cq : BitVec 16) : TokensKept s (applyCancel s h q cq) := by
  unfold applyCancel
  split
  · exact fieldKept_refl s
  · next r hr =>
    split
    · split
      · exact fieldKept_refl s
      · exact tokensKept_setReq hr rfl
    · exact cancelNow_tokens ..
theorem expireReq_tokens (s : State) (h : Nat) : TokensKept s (expireReq s h) := by
  unfold expireReq
  split
  · exact fieldKept_refl s
  · exact (stwEvent_tokens ..).trans ((logInput_tokens ..).trans (endRequest_tokens ..))
theorem applyContinue_tokens (s : State) (h : Nat) (entry : Bytes) (tokens : List W32) : TokensKept s (applyContinue s h entry tokens) := by
  unfold applyContinue
  split
  · exact fieldKept_refl s
  · extract_lets bytes maxNew base s1 s2 s3
    have h2 : TokensKept s s2 := (logInput_tokens ..).trans (foldReq_tokens s1 ..)
    have h3 : TokensKept s s3 := h2.trans (fieldKept_updReq s2 h (fun _ => rfl))
    split
    · exact h3.trans (fieldKept_foldl (fun t x => countToken_tokens ..) tokens s3)
    · exact h3
theorem applyRelease_tokens (s : State) (h : Nat) : TokensKept s (applyRelease s h) := by
  unfold applyRelease
  split
  · exact fieldKept_refl s
  · exact (logInput_tokens ..).trans (endRequest_tokens ..)
theorem applyInput_tokens (s : State) (h type : Nat) (payload : Bytes) : TokensKept s (applyInput s h type payload) := by
  unfold applyInput
  split
  · exact applyMask_tokens ..
  · split
    · split
      · exact expireReq_tokens ..
      · exact applyCancel_tokens ..
    · split
      · exact applyContinue_tokens ..
      · split
        · exact applyRelease_tokens ..
        · exact fieldKept_refl s
theorem applyInputs_tokens (s : State) (h : Nat) : TokensKept s (applyInputs s h) := by
  unfold applyInputs
  split
  · exact fieldKept_refl s
  · next r hr =>
    extract_lets due s1
    have h1 : TokensKept s s1 := tokensKept_setReq hr rfl
    exact h1.trans (fieldKept_foldl (fun t e => applyInput_tokens ..) _ s1)

/-! The decision of a commit point (R285, R288, R292, R463). -/

theorem commitDecide_tokens (s : State) (h stop : Nat) : TokensKept s (commitDecide s h stop) := by
  unfold commitDecide
  split
  · exact fieldKept_refl s
  · next r hr =>
    extract_lets p index can s1 s2 answer s3 s4 s5
    have h1 : TokensKept s s1 := by
      simp only [s1]; split
      · exact logStall_tokens ..
      · exact fieldKept_refl s
    split
    · have h2 : TokensKept s1 s2 := by
        simp only [s2]; split
        · exact logInput_tokens ..
        · exact fieldKept_refl s1
      split
      · exact h1.trans (h2.trans (keepStop_tokens ..))
      · exact h1.trans (h2.trans (endRequest_tokens ..))
    · split
      · exact h1.trans ((logInput_tokens ..).trans (endRequest_tokens ..))
      · split
        · exact h1
        · have hr1 : reqOf s1 h = some r := by
            simp only [s1]; split
            · exact ((logStall_frame s p).1.reqOf_eq h).trans hr
            · exact hr
          have h4 : TokensKept s1 s4 := tokensKept_setReq hr1 rfl
          have h5 : TokensKept s4 s5 := by
            simp only [s5]; split
            · exact fieldKept_refl s4
            · exact stwEvent_tokens ..
          exact h1.trans (h4.trans (h5.trans (logPause_tokens ..)))
theorem heldCancels_tokens (s : State) : TokensKept s (heldCancels s) := fieldKept_foldl (fun _ _ => cancelNow_tokens ..) _ s

end Sys2Proof.Machine
end

section
/-! PROOF. The commits of a cycle (R301 to R303, R308, R309): each commits one token more, and only the end of the cycle counts in the
acceptance estimate. -/

namespace Sys2Proof.Machine

/-! Tokens that one request commits. -/

/-- Every scratchpad and every acceptance estimate is as it was, and the request of a slot, if it is still there, has some more tokens. -/
structure TokensAdded (s t : State) (h : Nat) (ts : List (BitVec 18)) : Prop where
  spads : spadsKept s t
  estimates : EstimatesKept s t
  tokens : ∀ y, reqOf t h = some y → ∃ r, reqOf s h = some r ∧ y.tokens = r.tokens ++ ts

theorem TokensKept.added {s t : State} (k : TokensKept s t) (h : Nat) : TokensAdded s t h [] :=
  ⟨k.spads, k.estimates, fun y hy => by simpa using k.field h y hy⟩
theorem TokensAdded.trans {s t u : State} {h : Nat} {xs ys : List (BitVec 18)} (a : TokensAdded s t h xs) (b : TokensAdded t u h ys) :
    TokensAdded s u h (xs ++ ys) := by
  refine ⟨spadsKept_trans a.spads b.spads, a.estimates.trans b.estimates, fun z hz => ?_⟩
  obtain ⟨y, hy, hzy⟩ := b.tokens z hz
  obtain ⟨r, hr, hyr⟩ := a.tokens y hy
  exact ⟨r, hr, by rw [hzy, hyr, List.append_assoc]⟩
theorem TokensAdded.after {s t u : State} {h : Nat} {ts : List (BitVec 18)} (k : TokensKept s t) (a : TokensAdded t u h ts) :
    TokensAdded s u h ts := (k.added h).trans a
theorem TokensAdded.then {s t u : State} {h : Nat} {ts : List (BitVec 18)} (a : TokensAdded s t h ts) (k : TokensKept t u) :
    TokensAdded s u h ts := by
  have hadd := a.trans (k.added h)
  rwa [List.append_nil] at hadd
theorem tokensAdded_setReq {s : State} {h : Nat} {r v : Request} {ts : List (BitVec 18)} (hr : reqOf s h = some r)
    (hv : v.tokens = r.tokens ++ ts) : TokensAdded s (setReq s h v) h ts := by
  refine ⟨fun _ => rfl, estimatesKept_of_parts rfl, fun y hy => ⟨r, hr, ?_⟩⟩
  rw [reqOf_setReq, if_pos rfl] at hy
  rw [← Option.some.inj hy, hv]

/-! One commit (R287). -/

/-- The commit point of a record commits the token of its word. -/
theorem commitPoint_adds {s : State} {h : Nat} {r : Request} (hr : reqOf s h = some r) (bs : Bytes) :
    TokensAdded s (commitPoint s h bs) h [BitVec.ofNat 18 (leAt bs 8 4 % 2 ^ 18)] := by
  unfold commitPoint
  rw [hr]
  dsimp -zeta only
  extract_lets word id step s1 s2 s3 s4
  have h1 : TokensAdded s s1 h [BitVec.ofNat 18 id] := tokensAdded_setReq hr rfl
  have h2 : TokensKept s1 s2 := fieldKept_of_eq rfl rfl (estimatesKept_of_parts rfl)
  have h3 : TokensKept s2 s3 := by
    simp only [s3]; split
    · exact fieldKept_refl s2
    · exact countToken_tokens ..
  have h4 : TokensAdded s s4 h [BitVec.ofNat 18 id] :=
    h1.then (h2.trans (h3.trans ((commitDecide_tokens ..).trans (heldCancels_tokens _))))
  split
  · split
    · exact h4
    · exact h4.then ((foldMasks_tokens ..).trans (applyInputs_tokens ..))
  · exact h4

theorem leAt_append_mod (b : Bytes) (n v : Nat) (rest : Bytes) : leAt (b ++ leBytes n v ++ rest) b.length n = v % 256 ^ n := by
  rw [leAt, List.append_assoc, List.drop_left, List.take_append_of_le_length (by simp), List.take_of_length_le (by simp), leNat_leBytes]
/-- The word of a token record (R287) spells its token in its low bits. -/
theorem tokenWord_spells (t : BitVec 18) (stop : Nat) (ends untracked : Bool) (a b rest : Bytes) (ha : a.length = 4) (hb : b.length = 4) :
    let word := t.toNat + stop * 2 ^ 18 + (if ends then 2 ^ 21 else 0) + (if untracked then 2 ^ 22 else 0)
    BitVec.ofNat 18 (leAt (a ++ b ++ leBytes 4 word ++ rest) 8 4 % 2 ^ 18) = t := by
  intro word
  have hat : leAt (a ++ b ++ leBytes 4 word ++ rest) 8 4 = word % 256 ^ 4 := by
    have h8 : (a ++ b).length = 8 := by simp [ha, hb]
    rw [← h8, leAt_append_mod]
  have hlow : word % 2 ^ 18 = t.toNat := by
    have ht := t.isLt
    simp only [word]
    split <;> split <;> omega
  rw [hat, Nat.mod_mod_of_dvd _ (by decide), hlow, BitVec.ofNat_toNat, BitVec.setWidth_eq]

theorem commitToken_adds {s : State} {h : Nat} {r : Request} (hr : reqOf s h = some r) (t : BitVec 18 × F32) :
    TokensAdded s (commitToken s h t) h [t.1] := by
  unfold commitToken
  rw [hr]
  dsimp -zeta only
  extract_lets stop word head chain s1 s2
  have h1 : TokensKept s s1 := tokensKept_setReq hr rfl
  have h2 : TokensAdded s1 s2 h [t.1] := by
    have hadds := commitPoint_adds (s := s1) ((reqOf_setReq ..).trans (if_pos rfl))
      (head ++ sliceB chain 0 4 ++ leBytes 4 (headStep s1 r.part.val).toNat ++ zeros 8)
    have hword := tokenWord_spells t.1 stop (decide (stop ≠ 0)) r.untracked (leBytes 4 (rReq r)) (leBytes 4 r.tokens.length)
      (leBytes 4 t.2.toNat ++ sliceB chain 0 4 ++ leBytes 4 (headStep s1 r.part.val).toNat ++ zeros 8)
      (leBytes_length ..) (leBytes_length ..)
    simp only [decide_eq_true_eq, ← List.append_assoc] at hword
    rwa [hword] at hadds
  exact .after h1 (h2.then (fieldKept_updReq s2 h (fun _ => rfl)))

/-! The commits of a cycle (R301, R303). -/

theorem commitTokens_gone {s : State} {h : Nat} (hr : reqOf s h = none) (ts : List (BitVec 18 × F32)) (limit : Option Nat) :
    commitTokens ts limit s h = s := by
  cases ts with
  | nil => rfl
  | cons t rest => rw [commitTokens, hr]
/-- A cycle may go on committing for a request. -/
def mayCommit (limit : Option Nat) (r : Request) : Bool :=
  (r.st = .decode || (r.st = .paused && r.pause = some .backpressure))
    && (match limit with | some n => decide (r.tokens.length < n) | none => true)
theorem commitTokens_cons {s : State} {h : Nat} {r : Request} (hr : reqOf s h = some r) (t : BitVec 18 × F32)
    (rest : List (BitVec 18 × F32)) (limit : Option Nat) :
    commitTokens (t :: rest) limit s h = if mayCommit limit r then commitTokens rest limit (commitToken s h t) h else s := by
  rw [commitTokens, hr]; rfl
theorem mayCommit_limit {r : Request} {n : Nat} (h : mayCommit (some n) r = true) : r.tokens.length < n := by
  simp only [mayCommit, Bool.and_eq_true, decide_eq_true_eq] at h
  exact h.2

/-- A cycle commits the first k of its tokens: at least one for a request in DECODE without a limit, and none from its limit on. -/
structure CommitsFirst (ts : List (BitVec 18)) (limit : Option Nat) (r : Request) (k : Nat) : Prop where
  le : k ≤ ts.length
  decoding : r.st = .decode → limit = none → ts ≠ [] → 1 ≤ k
  limited : ∀ n, limit = some n → r.tokens.length ≤ n → r.tokens.length + k ≤ n

theorem commitTokens_adds : ∀ (ts : List (BitVec 18 × F32)) (limit : Option Nat) (s : State) (h : Nat) (r : Request),
    reqOf s h = some r → ∃ k, CommitsFirst (ts.map (fun e => e.1)) limit r k
      ∧ TokensAdded s (commitTokens ts limit s h) h ((ts.map (fun e => e.1)).take k)
  | [], limit, s, h, r, _ => ⟨0, ⟨Nat.le_refl 0, fun _ _ h => absurd rfl h, fun _ _ h => h⟩, TokensKept.added (fieldKept_refl s) h⟩
  | t :: rest, limit, s, h, r, hr => by
    rw [commitTokens_cons hr]
    cases hm : mayCommit limit r with
    | false =>
      refine ⟨0, ⟨Nat.zero_le _, fun hst hl _ => ?_, fun _ _ h => h⟩, TokensKept.added (fieldKept_refl s) h⟩
      simp [mayCommit, hst, hl] at hm
    | true =>
      have hadd := commitToken_adds hr t
      have hfirst : ∀ n, limit = some n → r.tokens.length + 1 ≤ n := fun n hn => mayCommit_limit (hn ▸ hm)
      rw [if_pos rfl]
      cases hr1 : reqOf (commitToken s h t) h with
      | none =>
        rw [commitTokens_gone hr1]
        exact ⟨1, ⟨by simp, fun _ _ _ => Nat.le_refl 1, fun n hn _ => hfirst n hn⟩, hadd⟩
      | some r1 =>
        obtain ⟨k, hk, hmore⟩ := commitTokens_adds rest limit _ h r1 hr1
        have hlen : r1.tokens.length = r.tokens.length + 1 := by
          obtain ⟨r0, hr0, htok⟩ := hadd.tokens r1 hr1
          obtain rfl := Option.some.inj (hr0.symm.trans hr)
          simp [htok]
        refine ⟨k + 1, ⟨Nat.succ_le_succ hk.le, fun _ _ _ => Nat.le_add_left 1 k, fun n hn _ => ?_⟩, hadd.trans hmore⟩
        have hlim := hk.limited n hn (hlen ▸ hfirst n hn)
        omega

/-! What a verification commits (R301, R304, R306). -/

theorem distTokens_ne_nil (r : Request) (h free j : Nat) (props : List (Option (BitVec 18) × KeptList)) {draws : List SpecDraw}
    (hd : draws ≠ []) : (distTokens r h free j props draws).1 ≠ [] := by
  obtain ⟨m, ms, rfl⟩ := List.exists_cons_of_ne_nil hd
  cases props with
  | nil => exact List.cons_ne_nil _ _
  | cons d rest =>
    unfold distTokens
    extract_lets pos draw p
    split
    · exact List.cons_ne_nil _ _
    · split
      · exact List.cons_ne_nil _ _
      · split <;> exact List.cons_ne_nil _ _
theorem exactTokens_ne_nil (r : Request) (h free j : Nat) (props : List (Option (BitVec 18) × KeptList)) {draws : List SpecDraw}
    (hd : draws ≠ []) : (exactTokens r h free j props draws).1 ≠ [] := by
  obtain ⟨m, ms, rfl⟩ := List.exists_cons_of_ne_nil hd
  cases props with
  | nil => exact List.cons_ne_nil _ _
  | cons d rest =>
    unfold exactTokens
    dsimp only
    split <;> exact List.cons_ne_nil _ _
/-- The main model's first draw, or what stands for it, is there to be committed. -/
theorem verified_ne_nil (s : State) (h : Nat) (r : Request) (x : SpecRun) {draws : List SpecDraw} (hd : draws ≠ []) :
    (verified s h r x draws).1 ≠ [] := by
  unfold verified
  extract_lets dist
  split
  · exact distTokens_ne_nil _ _ _ _ _ hd
  · exact exactTokens_ne_nil _ _ _ _ _ hd

/-! The end of a cycle (R301, R308, R309). -/

/-- What a cycle's end leaves to its controller: the tokens and the cycle. -/
def runOf (r : Request) : List (BitVec 18) × Option SpecRun := (r.tokens, r.cycle)

theorem controlDraft_run (s : State) (h d k : Nat) : FieldKept runOf s (controlDraft s h d k) := by
  unfold controlDraft
  split
  · exact fieldKept_refl s
  · next r hr =>
    split
    · exact fieldKept_setReq hr rfl
    · split
      · exact fieldKept_setReq hr rfl
      · extract_lets z s1
        have h1 : FieldKept runOf s s1 := fieldKept_setReq hr rfl
        split
        · exact h1.trans (fieldKept_of_eq rfl rfl (stwEvent_estimates ..))
        · exact h1
theorem draftCheck_run (s : State) (p : Nat) : FieldKept runOf s (draftCheck s p) :=
  (draftCheck_kept ..).field (draftCheck_estimates ..) (fun _ => rfl)

/-- The state once a cycle's tokens are committed and it is no longer in flight. -/
def cycleClosed (s : State) (h : Nat) (r : Request) (x : SpecRun) (draws : List SpecDraw) : State :=
  updReq (commitTokens (verified s h r x draws).1 x.limit (takeFree s (2 * draws.length)).2 h) h
    (fun r => { r with cycle := none, inFlight := false })

/-- It counts in the estimate, and what follows changes neither the estimate nor the request's tokens and cycle. -/
theorem endCycle_counts (s : State) (h : Nat) (r : Request) (x : SpecRun) (draws : List SpecDraw) :
    FieldKept runOf (estimate (cycleClosed s h r x draws) r.part x.props.length (verified s h r x draws).2)
      (endCycle s h r x draws) := by
  unfold endCycle
  extract_lets p d t s1 s2 s3 s4
  have h4 : FieldKept runOf s3 s4 := by
    simp only [s4]; split
    · exact controlDraft_run ..
    · split
      · exact fieldKept_updReq s3 h (fun _ => rfl)
      · refine .trans ?_ (controlDraft_run ..)
        exact fieldKept_updReq s3 h (fun _ => rfl)
  exact h4.trans (draftCheck_run ..)
theorem estimate_counts (s : State) (p d k : Nat) :
    (partOf (estimate s p d k) p).acceptCycles = (partOf s p).acceptCycles + 1 := by
  rw [estimate, partOf_updPart_self]

theorem cycleClosed_commits {s : State} {h : Nat} {r : Request} (hr : reqOf s h = some r) (x : SpecRun) (draws : List SpecDraw) :
    let ts := (verified s h r x draws).1.map (fun e => e.1)
    ∃ k, CommitsFirst ts x.limit r k ∧ TokensAdded s (cycleClosed s h r x draws) h (ts.take k)
      ∧ ∀ y, reqOf (cycleClosed s h r x draws) h = some y → y.cycle = none := by
  obtain ⟨k, hk, hadd⟩ := commitTokens_adds (verified s h r x draws).1 x.limit (takeFree s (2 * draws.length)).2 h r hr
  have hfree : TokensKept s (takeFree s (2 * draws.length)).2 := fieldKept_of_eq rfl rfl (estimatesKept_of_parts rfl)
  refine ⟨k, hk, .after hfree (hadd.then (fieldKept_updReq _ h (fun _ => rfl))), fun y hy => ?_⟩
  rw [cycleClosed, reqOf_updReq_self] at hy
  obtain ⟨v, -, rfl⟩ := Option.map_eq_some_iff.1 hy
  rfl

/-- The end of a cycle on its draws. -/
theorem endCycle_commits {s : State} {h : Nat} {r : Request} (hr : reqOf s h = some r) {x : SpecRun} {draws : List SpecDraw}
    (hd : draws.length = x.props.length + 1) :
    let ts := (verified s h r x draws).1.map (fun e => e.1); let t := endCycle s h r x draws
    spadsKept s t ∧ (partOf t r.part).acceptCycles = (partOf s r.part).acceptCycles + 1
      ∧ ∀ y, reqOf t h = some y → y.cycle = none ∧ ∃ k, k ≤ ts.length ∧ y.tokens = r.tokens ++ ts.take k
        ∧ (r.st = .decode → x.limit = none → 1 ≤ k) ∧ ∀ n, x.limit = some n → r.tokens.length ≤ n → r.tokens.length + k ≤ n := by
  intro ts t
  obtain ⟨k, hk, hadd, hcycle⟩ := cycleClosed_commits hr x draws
  have hcount := endCycle_counts s h r x draws
  refine ⟨spadsKept_trans hadd.spads hcount.spads, ?_, fun y hy => ?_⟩
  · rw [(hcount.estimates.kept r.part).2, estimate_counts, (hadd.estimates.kept r.part).2]
  · obtain ⟨v, hv, hrun⟩ := hcount.field h y hy
    obtain ⟨htokens, hcyc⟩ : y.tokens = v.tokens ∧ y.cycle = v.cycle := Prod.mk.inj hrun
    obtain ⟨r0, hr0, hvr⟩ := hadd.tokens v hv
    obtain rfl := Option.some.inj (hr0.symm.trans hr)
    have hdraws : draws ≠ [] := List.ne_nil_of_length_pos (by omega)
    exact ⟨hcyc.trans (hcycle v hv), k, hk.le, htokens.trans hvr,
      fun hst hl => hk.decoding hst hl (by simpa using verified_ne_nil s h r0 x hdraws), hk.limited⟩

end Sys2Proof.Machine
end

section
/-! PROOF. DRAFT_LOAD, DRAFT_UNLOAD, SPEC_CYCLE and SPEC_PROBE (R297, R298, R300 to R309): the draft of a partition is a part of its job,
and a cycle is a part of its request. -/

namespace Sys2Proof.Machine

/-! The draft of a job (R298). -/

theorem draftOf_of_jobs {s t : State} (h : jobsKept s t) (p : Nat) : draftOf t p = draftOf s p := by rw [draftOf, h.job, draftOf]
theorem draftOf_updJob {s : State} {p : Nat} {j : Job} (hj : jobOf s p = some j) (f : Job → Job) :
    draftOf (updJob s p f) p = (f j).draft := by rw [draftOf, jobOf_updJob_self, hj]; rfl
theorem jobOf_of_draftOf {s : State} {p : Nat} {x : Draft} (h : draftOf s p = some x) : ∃ j, jobOf s p = some j ∧ j.draft = some x :=
  Option.bind_eq_some_iff.1 h

/-! An unload (R298). -/

theorem unloadDraft_draft (s : State) (p : Nat) (x : Draft) : draftOf (unloadDraft s p x) p = none := by
  unfold unloadDraft
  extract_lets s1 s2 s3
  have h3 : draftOf s3 p = none := by
    simp only [s3, draftOf, jobOf_updJob_self]
    cases jobOf s2 p <;> rfl
  split
  · exact (draftOf_of_jobs (noteDraft_records ..).2 p).trans h3
  · exact h3

/-- A verification cycle of the partition is in flight. -/
def cycling (s : State) (p : Nat) : Bool := s.reqs.any (fun e => e.2.part.val == p && e.2.cycle.isSome)

theorem draftCheck_draft {s : State} {p : Nat} {x : Draft} (h : draftOf s p = some x) (hl : x.leaving = true) :
    draftOf (draftCheck s p) p = if cycling s p then some x else none := by
  have hdef : draftCheck s p = if !cycling s p then unloadDraft s p x else s := by
    unfold draftCheck
    rw [show (jobOf s p).bind (fun j => j.draft) = some x from h]
    dsimp only
    rw [hl, Bool.true_and]
    rfl
  rw [hdef]
  cases cycling s p with
  | true => exact h
  | false => exact unloadDraft_draft ..
theorem leaveDraft_leaves {s : State} {p : Nat} {x : Draft} (h : draftOf s p = some x) : spadsKept s (leaveDraft s p x)
    ∧ draftOf (leaveDraft s p x) p = if cycling s p then some { x with leaving := true } else none := by
  obtain ⟨j, hj, -⟩ := jobOf_of_draftOf h
  refine ⟨(draftCheck_kept (updJob s p _) p).spads, draftCheck_draft ?_ rfl⟩
  exact draftOf_updJob hj _

/-- What DRAFT_UNLOAD asks of a write before it takes it. -/
def draftUnloadCheck (s : State) (p : Nat) : Nat :=
  if 15 < p then stRange else if (draftOf s p).isNone || !stewardUp s then stState else stOk
theorem exec_draftUnload (req : DapReq) (p : PartId) (s : State) : exec (.draftUnload req (BitVec.ofNat 8 p)) s
    = .next (dapWrite s req 0x5110 2 (leBytes 1 p) (fun _ s => draftUnloadCheck s p)
      (fun _ s => match draftOf s p with | some x => leaveDraft s p x | none => s)) := by
  have hp : (BitVec.ofNat 8 p.val).toNat = p.val := Nat.mod_eq_of_lt (p.isLt.trans (by decide))
  show execDraftUnload req (BitVec.ofNat 8 p.val) s = _
  simp only [execDraftUnload, hp]
  rfl
theorem writes_draftUnload {req : DapReq} {p : PartId} {x : Draft} {se : Session} {s : State}
    (hw : canWrite s req 0x5110 2 (leBytes 1 p) se) (hx : draftOf s p = some x) (hup : stewardUp s = true) :
    writes (.draftUnload req (BitVec.ofNat 8 p)) s req 0x5110 2 (leBytes 1 p) se (fun _ t => spadsKept s t
      ∧ draftOf t p = if cycling s p then some { x with leaving := true } else none) := by
  obtain ⟨hg, -⟩ := granted_effect hw
  refine writes_taken hw (exec_draftUnload req p s) (fun h => by rw [h]; rfl) ?_ ?_
  · simp [draftUnloadCheck, hx, hup, Nat.not_lt.2 (Nat.le_of_lt_succ p.isLt)]
  · generalize granted s req 0x5110 2 (leBytes 1 p) se = w at hg ⊢
    have hdraft : draftOf w p = some x := (draftOf_of_jobs (jobsKept_of_parts hg.parts_eq) p).trans hx
    have hcyc : cycling w p = cycling s p := by rw [hg]; rfl
    obtain ⟨hspads, hleft⟩ := leaveDraft_leaves hdraft
    simp only [hdraft]
    exact ⟨spadsKept_trans hg.memories.1 hspads, hcyc ▸ hleft⟩

/-! A load (R297, R298, R307, R309, R513). -/

/-- A draft as it is loaded. -/
def loadedDraft (s : State) (p : Nat) (f : LayoutFile) (dist : Bool) : Draft :=
  { dist := dist, digest := sha256 f.bytes, file := f, detour := (choosePlacement s p f).getD 0, leaving := false }

theorem clearAreas_frame (s : State) (p : Nat) (d : SweepDesc) : onlyClusters s (clearAreas s p d) := by
  refine onlyClusters_foldl (fun t k => ?_) (partClusters s p) s
  extract_lets t'
  exact onlyClusters_trans (t := t') (onlyClusters_updCl ..)
    (onlyClusters_trans (onlyClusters_vaultPass ..) (onlyClusters_vaultPass ..))
theorem placeDraft_frame (s : State) (p : Nat) (x : Draft) : onlyUnits s (placeDraft s p x) := by
  unfold placeDraft
  exact onlyUnits_trans (placeCode_frame ..) (onlyUnits_trans (clearAreas_frame ..).units (emptySlots_frame ..))
theorem placeAt_clusters {d : SweepDesc} {h n len : Nat} {phys : Nat × Nat → Nat} : ∀ {l : List Nat} {s u : State},
    placeAt d h n len phys l s = some u → onlyClusters s u
  | [], _, _, e => by obtain rfl := Option.some.inj e; rfl
  | c :: t, s, u, e => by
    rw [placeAt] at e
    dsimp only at e
    split at e
    · exact placeAt_clusters e
    · split at e
      · cases e
      · exact onlyClusters_trans (t := vaultWrite (updCl s (clusterOf c) _) ..) rfl (placeAt_clusters e)
theorem placeDraftExtents_frame (s : State) (p : Nat) (x : Draft) : onlyClusters s (placeDraftExtents s p x) := by
  refine onlyClusters_foldl (fun t h => ?_) (partReqs s p) s
  split
  · split
    · exact onlyClusters_refl t
    · next r _ _ =>
      cases hu : placeExtents x.file.body.sweep (draftSlot h) (rReq r) r.reserved (fileCore t p x.file x.detour) t with
      | none => exact onlyClusters_refl t
      | some u => exact placeAt_clusters hu
  · exact onlyClusters_refl t

/-- What follows the partition's own record of a loaded draft changes neither that record nor the estimate. -/
theorem loadDraft_loads {s : State} {p : Nat} {j : Job} (hj : jobOf s p = some j) (f : LayoutFile) (dist : Bool) :
    draftOf (loadDraft s p f dist) p = some (loadedDraft s p f dist) ∧ (partOf (loadDraft s p f dist) p).acceptCycles = 0
      ∧ (partOf (loadDraft s p f dist) p).accept = some (BitVec.ofNat 32 (obj s 0x5110 6)) := by
  unfold loadDraft
  extract_lets x s1 s2 s3
  have h1 : draftOf s1 p = some x := draftOf_updJob hj _
  have hjobs2 : jobsKept s1 s2 := jobsKept_updPart s1 p (fun _ => rfl) (fun _ => rfl)
  have h2 : draftOf s2 p = some x := (draftOf_of_jobs hjobs2 p).trans h1
  have hpart : (partOf s2 p).acceptCycles = 0 ∧ (partOf s2 p).accept = some (BitVec.ofNat 32 (obj s 0x5110 6)) := by
    rw [partOf_updPart_self]
    exact ⟨rfl, rfl⟩
  have hparts : s3.parts = s2.parts := (placeDraftExtents_frame (placeDraft s2 p x) p x).parts_eq.trans (placeDraft_frame s2 p x).parts_eq
  have hrest : ∀ t, EstimatesKept s3 t → jobsKept s3 t → draftOf t p = some x ∧ (partOf t p).acceptCycles = 0
      ∧ (partOf t p).accept = some (BitVec.ofNat 32 (obj s 0x5110 6)) := fun t he hjobs => by
    obtain ⟨ha, hc⟩ := ((estimatesKept_of_parts hparts).trans he).kept p
    exact ⟨(draftOf_of_jobs (jobsKept_trans (jobsKept_of_parts hparts) hjobs) p).trans h2, hc.trans hpart.1, ha.trans hpart.2⟩
  split
  · exact hrest _ (noteDraft_records ..).1 (noteDraft_records ..).2
  · exact hrest _ (estimatesKept_refl s3) (jobsKept_refl s3)

/-- The draft of a descriptor passes every check over a port, beside a job with its layout. -/
structure DraftPasses (s : State) (n : WlPort) (d : Bytes) (f main : LayoutFile) (j : Job) : Prop where
  form : draftDescFault d = none
  window : windowOk s (byteAt d 4) n = true
  serves : servesPart s (byteAt d 4) = true
  free : draftOf s (byteAt d 4) = none
  digest : layoutDigest s (byteAt d 4) = sliceB d 0x40 32
  job : jobOf s (byteAt d 4) = some j
  layout : j.file = some main
  length : f.bytes.length = leAt d 0x10 8
  whole : layoutFault s (byteAt d 4) f false = none
  sum : sha256 f.bytes = sliceB d 0x20 32
  reason : loadReason s (byteAt d 4) f = none
  fits : draftFits main j.detour f ((choosePlacement s (byteAt d 4) f).getD 0) = true

/-- The checks read neither the agent's state nor the queues toward the host. -/
theorem DraftPasses.of_frame {s t : State} {n : WlPort} {d : Bytes} {f main : LayoutFile} {j : Job} (h : DraftPasses s n d f main j)
    (hf : t = { s with mgmt := t.mgmt, events := t.events, wl := t.wl }) : DraftPasses t n d f main j := by
  obtain ⟨m, e, w, rfl⟩ : ∃ m e w, t = { s with mgmt := m, events := e, wl := w } := ⟨_, _, _, hf⟩
  exact ⟨h.form, h.window, h.serves, h.free, h.digest, h.job, h.layout, h.length, h.whole, h.sum, h.reason, h.fits⟩

theorem fetchFile_whole {f : LayoutFile} {len : Nat} (h : f.bytes.length = len) (s : State) (n addr : Nat) (drop : State → State)
    (k : State → LayoutFile → State) : fetchFile s n addr len (some f) drop k = k (hostFetch s n addr len f.bytes.length) f :=
  if_neg (not_not.2 h)
theorem checkFile_passes {s : State} {p : Nat} {f : LayoutFile} {digest : Bytes} {instar : Bool} (h : layoutFault s p f instar = none)
    (hd : sha256 f.bytes = digest) (hr : loadReason s p f = none) (drop k : State → State) :
    checkFile s p f digest instar drop k = k s := by
  simp only [checkFile, h, hd, ne_eq, not_true, if_false, hr]

/-- A descriptor whose draft passes every check loads it, after the reads of its layout. -/
theorem startDraftLoad_loads {s : State} {n : WlPort} {d : Bytes} {f main : LayoutFile} {j : Job} (h : DraftPasses s n d f main j) :
    startDraftLoad s n d (some f)
      = loadDraft (hostFetch s n (leAt d 8 8) (leAt d 0x10 8) f.bytes.length) (byteAt d 4) f (ddMode d == 1) := by
  have hu : DraftPasses (hostFetch s n (leAt d 8 8) (leAt d 0x10 8) f.bytes.length) n d f main j := h.of_frame (by rw [hostFetch_frame])
  have hbusy : (!servesPart s (byteAt d 4) || (draftOf s (byteAt d 4)).isSome || decide (layoutDigest s (byteAt d 4) ≠ sliceB d 0x40 32))
      = false := by simp [h.serves, h.free, h.digest]
  simp only [startDraftLoad, h.form, h.window, hbusy, fetchFile_whole h.length, checkFile_passes hu.whole hu.sum hu.reason, hu.job,
    hu.layout, hu.fits, Option.bind_some, Option.map_some, Bool.not_true, Bool.false_eq_true, if_false]

theorem exec_draftLoad {req : DapReq} {n : WlPort} (hn : carrier req = some n) (addr : W64) (d : Bytes) (f : LayoutFile) (s : State) :
    exec (.draftLoad req addr (some d) (some f)) s = .next (dapWrite s req 0x5110 1 (leBytes 8 addr.toNat)
      (fun _ s => hostWriteState s req) (fun _ s => startDraftLoad (hostFetch s n.val addr.toNat 128 d.length) n d (some f))) := by
  show execDraftLoad req addr (some d) (some f) s = _
  simp only [execDraftLoad, hn]

theorem writes_draftLoad {req : DapReq} {addr : W64} {d : Bytes} {f main : LayoutFile} {j : Job} {se : Session} {n : WlPort} {s : State}
    (hw : canWrite s req 0x5110 1 (leBytes 8 addr.toNat) se) (hhost : hostWriteState s req = stOk) (hn : carrier req = some n)
    (h : DraftPasses s n d f main j) :
    writes (.draftLoad req addr (some d) (some f)) s req 0x5110 1 (leBytes 8 addr.toNat) se (fun _ t =>
      draftOf t (byteAt d 4) = some (loadedDraft s (byteAt d 4) f (ddMode d == 1)) ∧ (partOf t (byteAt d 4)).acceptCycles = 0
        ∧ (partOf t (byteAt d 4)).accept = some (BitVec.ofNat 32 (obj s 0x5110 6))) := by
  obtain ⟨hg, -⟩ := granted_effect hw
  refine writes_taken hw (exec_draftLoad hn addr d f s) (fun h => hostWriteState_agent h req) hhost ?_
  generalize granted s req 0x5110 1 (leBytes 8 addr.toNat) se = w at hg ⊢
  have hread : hostFetch w n addr.toNat 128 d.length
      = { s with mgmt := w.mgmt, events := w.events, wl := (hostFetch w n addr.toNat 128 d.length).wl } := by
    rw [hostFetch_frame, hg]
  generalize hostFetch w n addr.toNat 128 d.length = v at hread ⊢
  obtain ⟨q, rfl⟩ : ∃ q, v = { s with mgmt := w.mgmt, events := w.events, wl := q } := ⟨_, hread⟩
  have hpass := h.of_frame (t := { s with mgmt := w.mgmt, events := w.events, wl := q }) rfl
  rw [startDraftLoad_loads hpass]
  have hfetch := hostFetch_frame { s with mgmt := w.mgmt, events := w.events, wl := q } n (leAt d 8 8) (leAt d 0x10 8) f.bytes.length
  rw [hfetch]
  exact loadDraft_loads (s := { s with mgmt := w.mgmt, events := w.events, wl := _ }) h.job f (ddMode d == 1)

/-! A cycle begins (R301). -/

theorem draftSteps_length (dist : Bool) (h q : Nat) : ∀ (ds : List SpecDraw) (r : Request) (x : SpecRun),
    (draftSteps dist h q ds r x).props.length = x.props.length + ds.length
  | [], _, _ => rfl
  | d :: rest, r, x => by
    rw [draftSteps, draftSteps_length dist h q rest]
    simp only [List.length_append, List.length_cons, List.length_nil]
    omega

/-- A request's cycle once its draft has run its steps. -/
def begunCycle (h : Nat) (r : Request) (x : Draft) (probe : Bool) (draws : List SpecDraw) : SpecRun :=
  draftSteps x.dist h (rLength r) draws.dropLast r { probe := probe, props := [], limit := none, verified := false }

theorem begunCycle_length (h : Nat) (r : Request) (x : Draft) (probe : Bool) (draws : List SpecDraw) :
    (begunCycle h r x probe draws).props.length = draws.length - 1 := by
  rw [begunCycle, draftSteps_length, List.length_dropLast, List.length_nil, Nat.zero_add]
theorem startCycle_begins {s : State} {r : Request} {x : Draft} (hx : draftOf s r.part = some x) (h : Nat) (probe : Bool)
    (draws : List SpecDraw) : startCycle s h r probe draws = setReq s h { r with cycle := some (begunCycle h r x probe draws) } := by
  simp only [startCycle, hx]
  rfl
/-- Nothing but the request differs, and it but in its cycle. -/
theorem startCycle_effect {s : State} {r : Request} {x : Draft} (hx : draftOf s r.part = some x) (h : Nat) (probe : Bool)
    (draws : List SpecDraw) : let t := startCycle s h r probe draws
    onlyRequest s t h ∧ ∃ y, reqOf t h = some { r with cycle := some y } ∧ y = begunCycle h r x probe draws
      ∧ y.props.length = draws.length - 1 := by
  rw [startCycle_begins hx]
  exact ⟨⟨rfl, fun g hg => (reqOf_setReq ..).trans (if_neg hg)⟩, _, (reqOf_setReq ..).trans (if_pos rfl), rfl, begunCycle_length ..⟩

/-! The steps of a cycle (R300, R308). -/

section
variable {h : Slot} {draws : List SpecDraw} {r : Request} {s : State} {form : String}

theorem specStep_begins (hx : r.cycle = none) {d : Nat} (hd : draws.length = d + 1) (probe : Bool) :
    specStep h draws probe true d r s form = .next (startCycle s h r probe draws) := by simp [specStep, hx, hd]
theorem specStep_idle (hx : r.cycle = none) (probe : Bool) (d : Nat) : specStep h draws probe false d r s form = .next s := by
  simp [specStep, hx]

section
variable {x : SpecRun} (hx : r.cycle = some x)
include hx

theorem specStep_ends (hv : x.verified = true) (hd : draws.length = x.props.length + 1) (due : Bool) (d : Nat) :
    specStep h draws x.probe due d r s form = .next (endCycle s h r x draws) := by simp [specStep, hx, hv, hd]
theorem specStep_waits {probe : Bool} (hw : x.verified = false ∨ x.probe ≠ probe) (due : Bool) (d : Nat) :
    specStep h draws probe due d r s form = .next s := by
  rcases hw with hw | hw <;> simp [specStep, hx, hw]
end
end

section
variable {h : Slot} {draws : List SpecDraw} {s : State} {r : Request} (hr : reqOf s h = some r)
include hr

/-- A request for which a cycle may run begins one of the kind that is due, and none of the other. -/
theorem cycle_begins {x : Draft} (hx : draftOf s r.part = some x) (hm : maySpeculate s r = true) :
    let begun := fun (probe : Bool) (t : State) => onlyRequest s t h ∧ ∃ y, reqOf t h = some { r with cycle := some y }
      ∧ y = begunCycle h r x probe draws ∧ y.props.length = draws.length - 1
    (r.specOff = false → draws.length = min r.specD (draftCap s r) + 1 → answers (.specCycle h draws) s (begun false))
    ∧ (r.specOff = true → 256 ≤ r.specWait → draws.length = min 2 (draftCap s r) + 1 → answers (.specProbe h draws) s (begun true))
    ∧ (r.specOff = true → leaves (.specCycle h draws) s)
    ∧ (r.specOff = false ∨ r.specWait < 256 → leaves (.specProbe h draws) s) := by
  have hnone := cycle_none_of_maySpeculate hm
  refine ⟨fun hoff hd => ⟨_, ?_, startCycle_effect hx h false draws⟩, fun hoff hw hd => ⟨_, ?_, startCycle_effect hx h true draws⟩,
    fun hoff => ?_, fun hno => ?_⟩
  · rw [exec_specCycle_of_request hr, hm, hoff]
    exact specStep_begins hnone hd false
  · rw [exec_specProbe_of_request hr, hm, hoff, decide_eq_true hw]
    exact specStep_begins hnone hd true
  · rw [leaves, exec_specCycle_of_request hr, hm, hoff]
    exact specStep_idle hnone ..
  · have hdue : (maySpeculate s r && r.specOff && decide (256 ≤ r.specWait)) = false := by
      rcases hno with hno | hno
      · simp [hno]
      · simp [Nat.not_le.2 hno]
    rw [leaves, exec_specProbe_of_request hr, hdue]
    exact specStep_idle hnone ..

/-- A cycle in flight ends by the command of its kind once it is verified, and waits otherwise. -/
theorem cycle_ends {x : SpecRun} (hx : r.cycle = some x) {ended : State → Prop}
    (hend : draws.length = x.props.length + 1 → ended (endCycle s h r x draws)) :
    (x.verified = true → draws.length = x.props.length + 1 →
      (x.probe = false → answers (.specCycle h draws) s ended) ∧ (x.probe = true → answers (.specProbe h draws) s ended))
    ∧ (x.verified = false ∨ x.probe = true → leaves (.specCycle h draws) s)
    ∧ (x.verified = false ∨ x.probe = false → leaves (.specProbe h draws) s) := by
  refine ⟨fun hv hd => ⟨fun hp => ⟨_, ?_, hend hd⟩, fun hp => ⟨_, ?_, hend hd⟩⟩, fun hw => ?_, fun hw => ?_⟩
  · rw [exec_specCycle_of_request hr, ← hp]
    exact specStep_ends hx hv hd ..
  · rw [exec_specProbe_of_request hr, ← hp]
    exact specStep_ends hx hv hd ..
  · rw [leaves, exec_specCycle_of_request hr]
    exact specStep_waits hx (hw.imp_right (by simp [·])) ..
  · rw [leaves, exec_specProbe_of_request hr]
    exact specStep_waits hx (hw.imp_right (by simp [·])) ..
end

/-- Settles O39: a loaded draft and its estimate stand in the partition's record, which nothing after them in the load touches; a cycle
begins in its request alone, and its end adds the committed tokens one by one before it counts in the estimate. -/
theorem draftsAndCycles : Obligations.DraftsAndCycles := by
  unfold Obligations.DraftsAndCycles
  refine ⟨fun req addr d f main j se n s => ?_, fun req p x se s hw hx hup => writes_draftUnload hw hx hup,
    fun h draws s r x hr hx hm => cycle_begins hr hx hm, fun h draws s r x hr hx => cycle_ends hr hx (fun hd => endCycle_commits hr hd)⟩
  intro p hw hhost hn hform hwin hserves hfree hdig hjob hfile hlen hwhole hsum hreason hfits
  exact writes_draftLoad hw hhost hn ⟨hform, hwin, hserves, hfree, hdig, hjob, hfile, hlen, hwhole, hsum, hreason, hfits⟩

end Sys2Proof.Machine
end

section
/-! PROOF. The Migration chain (R319 to R321): what a look at its links, a message on its ports and a forwarded manifest leave of the
state. -/

namespace Sys2Proof.Machine

/-! Messages on Heliostat ports (R320, R541, R543). -/

/-- Nothing but sites, events and the count of free values differs. -/
def onlyPorts (s t : State) : Prop := t = { s with sites := t.sites, events := t.events, free := t.free }
theorem onlyPorts_refl (s : State) : onlyPorts s s := rfl
theorem onlyPorts_trans {s t u : State} (h : onlyPorts s t) (g : onlyPorts t u) : onlyPorts s u := by
  unfold onlyPorts at *; rw [g, h]
theorem onlyPorts_foldl {α : Type} {f : State → α → State} (h : ∀ s a, onlyPorts s (f s a)) (l : List α) (s : State) :
    onlyPorts s (l.foldl f s) := foldl_rel onlyPorts_refl onlyPorts_trans h l s
theorem onlyPorts_updHl (s : State) (d : Nat) (f : HlState → HlState) : onlyPorts s (updHl s d f) := rfl

theorem hlSend_frame (s : State) (d cls : Nat) (msg : Bytes) : onlyPorts s (hlSend s d cls msg) := by
  unfold hlSend
  split
  · exact onlyPorts_refl s
  · exact onlyPorts_updHl ..
theorem sendHello_frame (s : State) (d : Nat) : onlyPorts s (sendHello s d) :=
  onlyPorts_trans (t := updHl (freeBytes s 32).2 d _) rfl (hlSend_frame ..)
theorem setChainStall_frame (s : State) : onlyPorts s (setChainStall s) := by
  refine onlyPorts_foldl (fun t d => ?_) _ s
  split
  · exact onlyPorts_refl t
  · exact onlyPorts_updHl ..

/-! What the Steward keeps of a load (R320, R321). -/

/-- But for sites, events and free values, only the staging and the state of the chain differ. -/
def onlyChain (s t : State) : Prop := t = { s with
  sites := t.sites, events := t.events, free := t.free
  stw := { s.stw with staged := t.stw.staged, chainState := t.stw.chainState, chainDone := t.stw.chainDone } }
theorem onlyChain_refl (s : State) : onlyChain s s := rfl
theorem onlyChain_trans {s t u : State} (h : onlyChain s t) (g : onlyChain t u) : onlyChain s u := by
  unfold onlyChain at *; rw [g, h]
theorem onlyPorts.chain {s t : State} (h : onlyPorts s t) : onlyChain s t := by unfold onlyChain; rw [h]
theorem onlyChain_updStw (s : State) {f : Steward → Steward} (h : f s.stw = { s.stw with
    staged := (f s.stw).staged, chainState := (f s.stw).chainState, chainDone := (f s.stw).chainDone }) : onlyChain s (updStw s f) :=
  congrArg (fun v : Steward => ({ s with stw := v } : State)) h
theorem onlyChain_stwEvent (s : State) (code sev : Nat) (p req : Option Nat) (d : Bytes) : onlyChain s (stwEvent s code sev p req d) := rfl
theorem onlyChain.parts_eq {s t : State} (h : onlyChain s t) : t.parts = s.parts := by rw [h]
theorem onlyChain.chainMan_eq {s t : State} (h : onlyChain s t) : t.stw.chainMan = s.stw.chainMan := by rw [h]
theorem onlyChain.memories {s t : State} (h : onlyChain s t) : memoriesKept s t := by rw [h]; exact memoriesKept_of_eq rfl rfl

theorem chainLook_frame (s : State) : onlyChain s (chainLook s) := by
  unfold chainLook
  split
  · exact onlyChain_refl s
  · split
    · exact onlyChain_refl s
    · split
      · exact onlyChain_refl s
      · extract_lets t
        have ht : onlyChain s t := onlyChain_trans (onlyChain_updStw s rfl) (onlyChain_stwEvent ..)
        refine onlyChain_trans ht (onlyPorts_foldl (fun u e => ?_) _ t).chain
        split
        · exact hlSend_frame ..
        · exact onlyPorts_refl u
    · exact onlyChain_trans (onlyChain_updStw s rfl) (onlyChain_stwEvent ..)
theorem forwardManifest_frame (s : State) (b : Bytes) : onlyChain s (forwardManifest s b) := by
  unfold forwardManifest
  split
  · exact onlyChain_refl s
  · extract_lets t
    have ht : onlyChain s t := onlyChain_trans (onlyChain_updStw s rfl) (chainLook_frame _)
    split
    · exact onlyChain_trans ht (hlSend_frame ..).chain
    · exact ht

end Sys2Proof.Machine
end

section
/-! PROOF. MOULT_START, MOULT_ABORT, MOULT_TIMEOUT and DRAIN_SWAP (R325 to R327, R330): a Moult is a part of its partition's epochs, from
the descriptor that begins it to its end. -/

namespace Sys2Proof.Machine

/-! Epochs of a partition. -/

@[simp] theorem epochs_setEpochs (s : State) (p : Nat) (f : Epochs → Epochs) :
    (partOf (setEpochs s p f) p).epochs = f (partOf s p).epochs := by simp [setEpochs]
@[simp] theorem partOf_stwEvent (s : State) (code sev : Nat) (q req : Option Nat) (d : Bytes) (p : Nat) :
    partOf (stwEvent s code sev q req d) p = partOf s p := rfl

/-! A Moult begins (R325 to R327). -/

/-- Only a descriptor of a repair gives a Moult that repairs. -/
theorem moultKind_eq_repair (mode kind banks : Nat) : moultKind mode kind banks = 2 ↔ mode = 2 := by
  unfold moultKind
  refine ⟨fun h => ?_, fun h => if_pos h⟩
  by_contra hmode
  rw [if_neg hmode] at h
  split at h
  · cases h
  · split at h
    · cases h
    · split at h <;> cases h

/-- A begun Moult is its partition's, of its manifest, since now; but for a repair, its epoch is the incoming one. -/
theorem beginMoult_begins (s : State) (p : Nat) (m : Manifest) (mode : Nat) (chain : Bool) : let t := beginMoult s p m mode chain
    memoriesKept s t ∧ (partOf t p).epochs.committed = (partOf s p).epochs.committed
    ∧ (mode ≠ 2 → (partOf t p).epochs.incoming = some m)
    ∧ ∃ x, (partOf t p).epochs.moult = some x ∧ x.man = m ∧ x.chain = chain ∧ x.started = s.units
      ∧ (m.shards = [] → x.passed = []) := by
  simp only [beginMoult, partOf_stwEvent, epochs_setEpochs]
  exact ⟨memoriesKept_of_eq rfl rfl, trivial, fun hmode => if_neg (mt (moultKind_eq_repair ..).1 hmode), _, rfl, rfl, rfl, rfl,
    fun hm => by simp [hm]⟩

/-- A Moult by the descriptor may begin on its partition, over a port. -/
structure MoultMayBegin (s : State) (n : WlPort) (d : Bytes) : Prop where
  form : moultDescOk d = true
  window : windowOk s (byteAt d 4) n = true
  serves : servingJob s (byteAt d 4) = true
  free : (partOf s (byteAt d 4)).epochs.moult = none
  settled : (partOf s (byteAt d 4)).epochs.retiring = none

/-- What it asks of the state is neither the agent's nor of the queues toward the host. -/
theorem MoultMayBegin.of_frame {s t : State} {n : WlPort} {d : Bytes} (h : MoultMayBegin s n d)
    (hf : t = { s with mgmt := t.mgmt, events := t.events, wl := t.wl }) : MoultMayBegin t n d := by
  obtain ⟨m, e, w, rfl⟩ : ∃ m e w, t = { s with mgmt := m, events := e, wl := w } := ⟨_, _, _, hf⟩
  exact ⟨h.form, h.window, h.serves, h.free, h.settled⟩
theorem MoultMayBegin.hostFetch {s : State} {n : WlPort} {d : Bytes} (h : MoultMayBegin s n d) (m addr len got : Nat) :
    MoultMayBegin (hostFetch s m addr len got) n d := h.of_frame (by rw [hostFetch_frame])
theorem MoultMayBegin.length {s : State} {n : WlPort} {d : Bytes} (h : MoultMayBegin s n d) : d.length = 128 := by
  have hform := h.form
  simp only [moultDescOk, Bool.and_eq_true, beq_iff_eq] at hform
  omega

section
variable {s : State} {n : WlPort} {d : Bytes} (h : MoultMayBegin s n d)
include h

/-- A descriptor for the chain begins a Moult that waits for its manifest, while no manifest has come (R320, R325). -/
theorem startMoult_awaits (hchain : mdChain d = true) (hman : s.stw.chainMan = none) (manifest : Option Bytes) :
    startMoult s n d manifest = beginMoult s (byteAt d 4) (awaited s (byteAt d 4) (mdEpoch d)) (mdMode d) true := by
  simp [startMoult, h.form, h.window, h.serves, h.free, h.settled, hchain, hman]

/-- Otherwise a manifest that cannot be read refuses it. -/
theorem startMoult_unread (hchain : mdChain d = false) :
    startMoult s n d none = moultRefused (hostFetch s n (leAt d 8 8) (leAt d 0x10 8) 0) (byteAt d 4) 8 := by
  simp [startMoult, h.form, h.window, h.serves, h.free, h.settled, hchain]

/-- One that is read decides by the reasons that it gives (R326). -/
theorem startMoult_read (hchain : mdChain d = false) {b : Bytes} (hb : manifestForm b = true) (hlen : b.length = leAt d 0x10 8) :
    let u := hostFetch s n (leAt d 8 8) (leAt d 0x10 8) b.length
    let reason := manifestReason s (byteAt d 4) (parseManifest b) (manifestAuth s b) (mdMode d == 2) (mdEpoch d)
    (∀ r, reason = some r → startMoult s n d (some b) = moultRefused u (byteAt d 4) r)
    ∧ (reason = none →
      startMoult s n d (some b) = forwardManifest (beginMoult u (byteAt d 4) (parseManifest b) (mdMode d) false) b) := by
  intro u reason
  have hreason : manifestReason u (byteAt d 4) (parseManifest b) (manifestAuth u b) (mdMode d == 2) (mdEpoch d) = reason := by
    simp only [u]
    rw [hostFetch_frame]
    rfl
  simp only [u, ← hlen] at hreason ⊢
  constructor
  · intro r hr
    simp [startMoult, h.form, h.window, h.serves, h.free, h.settled, hchain, hb, ← hlen, hreason.trans hr]
  · intro hr
    simp [startMoult, h.form, h.window, h.serves, h.free, h.settled, hchain, hb, ← hlen, hreason.trans hr]
end

theorem exec_moultStart {req : DapReq} {n : WlPort} (hn : carrier req = some n) (addr : W64) (d : Bytes) (manifest : Option Bytes)
    (s : State) : exec (.moultStart req addr (some d) manifest) s = .next (dapWrite s req 0x5300 1 (leBytes 8 addr.toNat)
      (fun _ s => hostWriteState s req) (fun _ s => startMoult (hostFetch s n.val addr.toNat 128 d.length) n d manifest)) := by
  show execMoultStart req addr (some d) manifest s = _
  simp only [execMoultStart, hn]

section
variable {req : DapReq} {addr : W64} {d : Bytes} {se : Session} {n : WlPort} {s : State}
  (hw : canWrite s req 0x5300 1 (leBytes 8 addr.toNat) se) (hhost : hostWriteState s req = stOk) (hn : carrier req = some n)
  (h : MoultMayBegin s n d)
include hw hhost hn h

/-- A start that the agent grants is decided after the read of its descriptor, on a state in which the Moult may begin as before. -/
theorem writes_moultStart {manifest : Option Bytes} {P : State → State → Prop}
    (hP : ∀ w, onlyAgent s w → MoultMayBegin (hostFetch w n addr.toNat 128 128) n d →
      P w (startMoult (hostFetch w n addr.toNat 128 128) n d manifest)) :
    writes (.moultStart req addr (some d) manifest) s req 0x5300 1 (leBytes 8 addr.toNat) se P := by
  obtain ⟨hg, -⟩ := granted_effect hw
  refine writes_taken hw (exec_moultStart hn addr d manifest s) (fun h => hostWriteState_agent h req) hhost ?_
  rw [h.length]
  exact hP _ hg ((h.of_frame (by rw [hg])).hostFetch ..)

theorem writes_moultStart_chain (hchain : mdChain d = true) (hman : s.stw.chainMan = none) :
    writes (.moultStart req addr (some d) none) s req 0x5300 1 (leBytes 8 addr.toNat) se (fun _ t => memoriesKept s t
      ∧ (partOf t (byteAt d 4)).epochs.committed = (partOf s (byteAt d 4)).epochs.committed
      ∧ ∃ m, (partOf t (byteAt d 4)).epochs.moult = some m ∧ m.chain = true ∧ m.man.digest = mdEpoch d ∧ m.passed = []) := by
  refine writes_moultStart hw hhost hn h (fun w hg hmay => ?_)
  have hread := hostFetch_frame w n addr.toNat 128 128
  generalize hostFetch w n addr.toNat 128 128 = u at hread hmay ⊢
  rw [startMoult_awaits hmay hchain (by rw [hread, hg]; exact hman)]
  obtain ⟨hmem, hcom, -, x, hx, hxman, hxchain, -, hpassed⟩ := beginMoult_begins u (byteAt d 4)
    (awaited u (byteAt d 4) (mdEpoch d)) (mdMode d) true
  have hu : memoriesKept s u := memoriesKept_trans hg.memories (by rw [hread]; exact memoriesKept_of_eq rfl rfl)
  have hparts : u.parts = s.parts := by rw [hread]; exact hg.parts_eq
  refine ⟨memoriesKept_trans hu hmem, hcom.trans (by rw [partOf, hparts, partOf]), x, hx, hxchain, by rw [hxman]; rfl, hpassed rfl⟩

theorem writes_moultStart_unread (hchain : mdChain d = false) :
    writes (.moultStart req addr (some d) none) s req 0x5300 1 (leBytes 8 addr.toNat) se (fun w t =>
      t = moultRefused (hostFetch (hostFetch w n addr.toNat 128 128) n (leAt d 8 8) (leAt d 0x10 8) 0) (byteAt d 4) 8) :=
  writes_moultStart hw hhost hn h (fun _ _ hmay => startMoult_unread hmay hchain)

theorem writes_moultStart_read (hchain : mdChain d = false) {b : Bytes} (hb : manifestForm b = true) (hlen : b.length = leAt d 0x10 8) :
    writes (.moultStart req addr (some d) (some b)) s req 0x5300 1 (leBytes 8 addr.toNat) se (fun w t =>
      (∀ r, manifestReason w (byteAt d 4) (parseManifest b) (manifestAuth w b) (mdMode d == 2) (mdEpoch d) = some r →
        t = moultRefused (hostFetch (hostFetch w n addr.toNat 128 128) n (leAt d 8 8) (leAt d 0x10 8) b.length) (byteAt d 4) r)
      ∧ (manifestReason w (byteAt d 4) (parseManifest b) (manifestAuth w b) (mdMode d == 2) (mdEpoch d) = none → memoriesKept s t
        ∧ ∃ m, (partOf t (byteAt d 4)).epochs.moult = some m ∧ m.man = parseManifest b ∧ m.chain = false ∧ m.started = s.units
          ∧ (mdMode d ≠ 2 → (partOf t (byteAt d 4)).epochs.incoming = some (parseManifest b)))) := by
  refine writes_moultStart hw hhost hn h (fun w hg hmay => ?_)
  have hreason : manifestReason (hostFetch w n addr.toNat 128 128) (byteAt d 4) (parseManifest b)
        (manifestAuth (hostFetch w n addr.toNat 128 128) b) (mdMode d == 2) (mdEpoch d)
      = manifestReason w (byteAt d 4) (parseManifest b) (manifestAuth w b) (mdMode d == 2) (mdEpoch d) := by
    rw [hostFetch_frame]
    rfl
  obtain ⟨hrefused, hbegins⟩ := startMoult_read hmay hchain hb hlen
  rw [hreason] at hrefused hbegins
  refine ⟨hrefused, fun hr => ?_⟩
  rw [hbegins hr]
  have hframe : ∀ v, v = hostFetch (hostFetch w n addr.toNat 128 128) n (leAt d 8 8) (leAt d 0x10 8) b.length →
      memoriesKept s v ∧ v.units = s.units := by
    rintro v rfl
    rw [hostFetch_frame, hostFetch_frame, hg]
    exact ⟨memoriesKept_of_eq rfl rfl, rfl⟩
  generalize hostFetch (hostFetch w n addr.toNat 128 128) n (leAt d 8 8) (leAt d 0x10 8) b.length = v at hframe ⊢
  obtain ⟨hmem, hunits⟩ := hframe v rfl
  obtain ⟨hbegun, -, hincoming, x, hx, hxman, hxchain, hstarted, -⟩ := beginMoult_begins v (byteAt d 4) (parseManifest b) (mdMode d) false
  have hforward := forwardManifest_frame (beginMoult v (byteAt d 4) (parseManifest b) (mdMode d) false) b
  rw [partOf, hforward.parts_eq, ← partOf]
  exact ⟨memoriesKept_trans hmem (memoriesKept_trans hbegun hforward.memories), x, hx, hxman, hxchain, hstarted.trans hunits, hincoming⟩
end

/-! A Moult ends before its commit (R330). -/

theorem dropShards_memories (s : State) (p : Nat) (digest : Bytes) : memoriesKept s (dropShards s p digest) := by
  refine foldl_rel memoriesKept_refl memoriesKept_trans (fun t k => ?_) (partClusters s p) s
  split
  · exact memoriesKept_updCl t k (fun _ => rfl)
  · exact memoriesKept_refl t

/-- The partition has neither a Moult nor an incoming epoch any more, and the committed epoch is current as before. -/
def moultOver (s t : State) (p : Nat) : Prop := (partOf t p).epochs.moult = none
  ∧ (partOf t p).epochs.incoming = none ∧ (partOf t p).epochs.committed = (partOf s p).epochs.committed ∧ memoriesKept s t

theorem abortMoult_over {s : State} {p : Nat} {m : Moult} (hm : (partOf s p).epochs.moult = some m) : moultOver s (abortMoult s p) p := by
  unfold abortMoult
  extract_lets e
  split
  · next hn => exact absurd (hn.symm.trans hm) (by simp)
  · next x _ =>
    extract_lets s1 s2
    have h1 : memoriesKept s s1 ∧ s1.parts = s.parts := by
      simp only [s1]; split
      · exact ⟨memoriesKept_refl s, rfl⟩
      · exact ⟨dropShards_memories .., dropShards_parts ..⟩
    have h2 : memoriesKept s1 s2 ∧ s2.parts = s1.parts := by
      simp only [s2]; split
      · split
        · exact ⟨memoriesKept_of_eq rfl rfl, rfl⟩
        · exact ⟨memoriesKept_refl s1, rfl⟩
      · exact ⟨memoriesKept_refl s1, rfl⟩
    have hpart : partOf s2 p = partOf s p := by rw [partOf, h2.2.trans h1.2, partOf]
    simp only [moultOver, partOf_stwEvent, epochs_setEpochs, hpart]
    exact ⟨trivial, trivial, trivial, memoriesKept_trans (memoriesKept_trans h1.1 h2.1) (memoriesKept_of_eq rfl rfl)⟩

/-- What MOULT_ABORT asks of a write before it takes it. -/
def moultAbortCheck (s : State) (p : Nat) : Nat :=
  if 15 < p then stRange else if (partOf s p).epochs.st = .swapping || !stewardUp s then stState else stOk
theorem exec_moultAbort (req : DapReq) (p : PartId) (s : State) : exec (.moultAbort req (BitVec.ofNat 8 p)) s
    = .next (dapWrite s req 0x5300 2 (leBytes 1 p) (fun _ s => moultAbortCheck s p) (fun _ s => abortMoult s p)) := by
  have hp : (BitVec.ofNat 8 p.val).toNat = p.val := Nat.mod_eq_of_lt (p.isLt.trans (by decide))
  show execMoultAbort req (BitVec.ofNat 8 p.val) s = _
  simp only [execMoultAbort, hp]
  rfl

section
variable {s : State} {p : PartId} {m : Moult} (hm : (partOf s p).epochs.moult = some m)
include hm

theorem moultTimeout_before_swap (hst : (partOf s p).epochs.st ≠ .swapping) : answers (.moultTimeout p) s (fun t => moultOver s t p) := by
  have htimeout : timeoutMoult s p = abortMoult s p := by
    simp only [timeoutMoult, hm]
    exact if_neg hst
  exact ⟨_, rfl, htimeout ▸ abortMoult_over hm⟩

/-- During the swap the incoming epoch is the partition's, and what has not passed of it is missing (log entry 31). -/
theorem moultTimeout_in_swap (hst : (partOf s p).epochs.st = .swapping) : answers (.moultTimeout p) s (fun t =>
    (partOf t p).epochs.moult = none ∧ (partOf t p).epochs.committed = some m.man ∧ (partOf t p).epochs.st = .old ∧ memoriesKept s t
      ∧ (partOf t p).epochs.missing = (m.man.shards.map (fun x => x.1)).filter (fun i => !m.passed.contains i)) := by
  refine ⟨timeoutMoult s p, rfl, ?_⟩
  simp only [timeoutMoult, hm]
  rw [if_pos hst]
  simp only [epochIncomplete, partOf_stwEvent, epochs_setEpochs]
  exact ⟨trivial, trivial, trivial, memoriesKept_of_eq rfl rfl, trivial⟩

theorem writes_moultAbort {req : DapReq} {se : Session} (hst : (partOf s p).epochs.st ≠ .swapping)
    (hw : canWrite s req 0x5300 2 (leBytes 1 p) se) (hup : stewardUp s = true) :
    writes (.moultAbort req (BitVec.ofNat 8 p)) s req 0x5300 2 (leBytes 1 p) se (fun _ t => moultOver s t p) := by
  obtain ⟨hg, -⟩ := granted_effect hw
  refine writes_taken hw (exec_moultAbort req p s) (fun h => by rw [h]; rfl) ?_ ?_
  · simp [moultAbortCheck, hst, hup, Nat.not_lt.2 (Nat.le_of_lt_succ p.isLt)]
  · generalize granted s req 0x5300 2 (leBytes 1 p) se = w at hg ⊢
    have hpart : partOf w p = partOf s p := by rw [partOf, hg.parts_eq, partOf]
    obtain ⟨hover, hincoming, hcommitted, hmem⟩ := abortMoult_over (s := w) (p := p) ((congrArg (fun v => v.epochs.moult) hpart).trans hm)
    exact ⟨hover, hincoming, hcommitted.trans (by rw [hpart]), memoriesKept_trans hg.memories hmem⟩
end

/-! A draining Moult gives the bank over (R327). -/

/-- The requests of a partition that are bound to an epoch and not final. -/
def boundReqs (s : State) (p : PartId) (digest : Bytes) : List (Nat × Request) :=
  s.reqs.filter (fun e => e.2.part.val == p.val && !reqFinal e.2 && e.2.epoch == digest)
/-- A request runs, or waits for back-pressure alone. -/
def holdsBank (r : Request) : Bool :=
  r.st == .prefill || r.st == .decode || r.st == .resuming || (r.st == .paused && r.pause == some .backpressure)
/-- A request of the old epoch ends, with its event. -/
def endOld (p : PartId) (s : State) (e : Nat × Request) : State :=
  endRequest (stwEvent s 0x6056 0 (some p) (some (rReq e.2)) []) e.1 .failed 7 0 0 0x6056

theorem mem_boundReqs {s : State} {p : PartId} {digest : Bytes} {e : Nat × Request} :
    e ∈ boundReqs s p digest ↔ e ∈ s.reqs ∧ e.2.part = p ∧ reqFinal e.2 = false ∧ e.2.epoch = digest := by
  simp [boundReqs, Fin.ext_iff, and_assoc]
theorem holdsBank_iff {r : Request} : holdsBank r = true
    ↔ r.st = .prefill ∨ r.st = .decode ∨ r.st = .resuming ∨ (r.st = .paused ∧ r.pause = some .backpressure) := by
  simp [holdsBank, or_assoc]
/-- What holds the bank is not final. -/
theorem reqFinal_of_holdsBank {r : Request} (h : holdsBank r = true) : reqFinal r = false := by
  rcases holdsBank_iff.1 h with h | h | h | ⟨h, -⟩ <;> simp [reqFinal, h]

theorem exec_drainSwap {s : State} {p : PartId} {m : Moult} {c : Manifest} (hm : (partOf s p).epochs.moult = some m) (hmode : m.mode = 1)
    (hst : (partOf s p).epochs.st ≠ .swapping) (hc : (partOf s p).epochs.committed = some c) :
    exec (.drainSwap p) s = .next (if (boundReqs s p c.digest).any (fun e => holdsBank e.2) then s
      else setEpochs ((boundReqs s p c.digest).foldl (endOld p) s) p (fun e => { e with st := .swapping })) := by
  show execDrainSwap p s = _
  simp only [execDrainSwap, hm, hc]
  simp only [hmode, hst]
  rfl

theorem bareReq_final {x y : Request} (h : bareReq x = bareReq y) : reqFinal x = reqFinal y := by
  have hst : x.st = y.st := (congrArg Request.st h :)
  rw [reqFinal, hst, reqFinal]

/-- A request that is there after another one's end was there, but for its running Plate and its counts. -/
theorem endRequest_others (s : State) {h k : Nat} (hk : k ≠ h) (st : ReqState) (reason stop answer event : Nat) {y : Request}
    (hy : reqOf (endRequest s h st reason stop answer event) k = some y) : ∃ x, reqOf s k = some x ∧ bareReq x = bareReq y := by
  revert hy
  unfold endRequest
  split
  · exact fun hy => ⟨y, hy, rfl⟩
  next r hr =>
  split
  · exact fun hy => ⟨y, hy, rfl⟩
  extract_lets p s1 s2 s3 s4
  have h2 : RequestsKept s1 s2 := by
    refine onlyBooks.kept (onlyBooks_trans (t := if r.fetching = 0 then s1 else dropReads s1 h) ?_ (onlyBooks_updJob ..))
    split
    · exact onlyBooks_refl s1
    · rfl
  have h3 : RequestsKept s2 s3 :=
    (foldEnd_kept s2 h reason stop).trans (.trans (dropExtents_frame (foldEnd s2 h reason stop) p h).kept (requestsKept_of_eq rfl rfl))
  have h4 : RequestsKept s3 s4 := by
    simp only [s4]; split
    · exact (onlyBooks_stwEvent ..).kept
    · exact requestsKept_refl s3
  have hwas : ∀ z, reqOf s4 k = some z → ∃ x, reqOf s k = some x ∧ bareReq x = bareReq z := fun z hz => by
    obtain ⟨x, hx, hxz⟩ := (h2.trans (h3.trans h4)).was hz
    exact ⟨x, by rwa [reqOf_setReq, if_neg hk] at hx, hxz⟩
  intro hy
  split at hy
  · obtain ⟨z, hz, hzy⟩ := ((retireCheck_frame _ p).kept.trans (draftCheck_kept _ p)).was hy
    obtain ⟨x, hx, hxz⟩ := hwas z ((flushHeld_flushed (updWl s4 _ _) _).reqs k z hz)
    exact ⟨x, hx, hxz.trans hzy⟩
  · exact hwas y hy

/-- What is left of the requests once some of the old epoch have ended: final, or of another slot and there before. -/
theorem endOlds_leave (p : PartId) : ∀ (l : List (Nat × Request)) (s : State), spadsKept s (l.foldl (endOld p) s)
    ∧ ∀ k y, reqOf (l.foldl (endOld p) s) k = some y →
      reqFinal y = true ∨ (∀ e ∈ l, e.1 ≠ k) ∧ ∃ x, reqOf s k = some x ∧ bareReq x = bareReq y
  | [], s => ⟨fun _ => rfl, fun k y hy => .inr ⟨fun _ h => by simp at h, y, hy, rfl⟩⟩
  | e :: l, s => by
    obtain ⟨hspads, hleft⟩ := endOlds_leave p l (endOld p s e)
    obtain ⟨⟨hown, -⟩, hfinal⟩ := endRequest_failed (stwEvent s 0x6056 0 (some p) (some (rReq e.2)) []) e.1 7 0 0 0x6056
    refine ⟨spadsKept_trans (t := endOld p s e) hown hspads, fun k y hy => ?_⟩
    obtain hy | ⟨hnot, x, hx, hxy⟩ := hleft k y hy
    · exact .inl hy
    by_cases hk : k = e.1
    · subst hk
      exact .inl ((bareReq_final hxy).symm.trans (hfinal x hx))
    · obtain ⟨z, hz, hzx⟩ := endRequest_others _ hk .failed 7 0 0 0x6056 hx
      refine .inr ⟨fun f hf => ?_, z, hz, hzx.trans hxy⟩
      obtain rfl | hf := List.mem_cons.1 hf
      · exact Ne.symm hk
      · exact hnot f hf

theorem mem_of_lookupN {α : Type} {i : Nat} {v : α} : ∀ {m : List (Nat × α)}, lookupN m i = some v → (i, v) ∈ m
  | (k, w) :: m, h => by
    rw [lookupN] at h
    split at h
    · next e => simp [e, Option.some.inj h]
    · exact List.mem_cons_of_mem _ (mem_of_lookupN h)

section
variable {s : State} {p : PartId} {m : Moult} {c : Manifest} (hm : (partOf s p).epochs.moult = some m) (hmode : m.mode = 1)
  (hst : (partOf s p).epochs.st ≠ .swapping) (hc : (partOf s p).epochs.committed = some c)
include hm hmode hst hc

/-- While none of the old epoch's requests holds the bank, it is given over, and the others of that epoch end. -/
theorem drainSwap_swaps (hfree : ∀ e ∈ s.reqs, e.2.part = p → e.2.epoch = c.digest → ¬ holdsBank e.2 = true) :
    answers (.drainSwap p) s (fun t => (partOf t p).epochs.st = .swapping ∧ spadsKept s t
      ∧ ∀ h x, reqOf t h = some x → x.part = p → x.epoch = c.digest → reqFinal x = true) := by
  have hnone : ¬ (boundReqs s p c.digest).any (fun e => holdsBank e.2) = true := by
    rw [List.any_eq_true]
    rintro ⟨e, he, hold⟩
    obtain ⟨hreq, hpart, -, hepoch⟩ := mem_boundReqs.1 he
    exact hfree e hreq hpart hepoch hold
  obtain ⟨hspads, hleft⟩ := endOlds_leave p (boundReqs s p c.digest) s
  refine ⟨_, (exec_drainSwap hm hmode hst hc).trans (congrArg _ (if_neg hnone)), by rw [epochs_setEpochs], hspads, fun h y hy hpart hepoch => ?_⟩
  obtain hy | ⟨hnot, x, hx, hxy⟩ := hleft h y hy
  · exact hy
  by_contra hlive
  have hbound : (h, x) ∈ boundReqs s p c.digest := mem_boundReqs.2 ⟨mem_of_lookupN hx,
    (congrArg Request.part hxy :).trans hpart, (bareReq_final hxy).trans (Bool.eq_false_iff.2 hlive), (congrArg Request.epoch hxy :).trans hepoch⟩
  exact hnot (h, x) hbound rfl

/-- While one does, nothing happens. -/
theorem drainSwap_waits {e : Nat × Request} (he : e ∈ s.reqs) (hpart : e.2.part = p) (hepoch : e.2.epoch = c.digest)
    (hold : holdsBank e.2 = true) : leaves (.drainSwap p) s := by
  rw [leaves, exec_drainSwap hm hmode hst hc]
  exact congrArg _ (if_pos (List.any_eq_true.2 ⟨e, mem_boundReqs.2 ⟨he, hpart, reqFinal_of_holdsBank hold, hepoch⟩, hold⟩))
end

/-- Settles O40: a start is decided on the granted state, which differs in the agent's part alone; an abort and a timeout are what they
leave of the epochs; and a swap ends the requests of the old epoch one by one, none of which comes back. -/
theorem moultsBeginAndEnd : Obligations.MoultsBeginAndEnd := by
  unfold Obligations.MoultsBeginAndEnd
  refine ⟨fun req addr d se n s => ?_, fun req p se m s => ?_, fun p m s hm hst => moultTimeout_in_swap hm hst, fun p m c s => ?_⟩
  · intro p e hw hhost hn hform hwin hserves hfree hretired
    have hmay : MoultMayBegin s n d := ⟨hform, hwin, hserves, hfree, hretired⟩
    exact ⟨fun hchain hman => writes_moultStart_chain hw hhost hn hmay hchain hman,
      fun hchain => writes_moultStart_unread hw hhost hn hmay hchain,
      fun b hchain hb hlen => writes_moultStart_read hw hhost hn hmay hchain hb hlen⟩
  · intro e hm hst kept
    exact ⟨moultTimeout_before_swap hm hst, fun hw hup => writes_moultAbort hm hst hw hup⟩
  · intro hm hmode hst hc busy
    refine ⟨fun hfree => drainSwap_swaps hm hmode hst hc (fun e he hp hd hold => hfree e he hp hd (holdsBank_iff.1 hold)), ?_⟩
    rintro ⟨e, he, hp, hd, hbusy⟩
    exact drainSwap_waits hm hmode hst hc he hp hd (holdsBank_iff.2 hbusy)

end Sys2Proof.Machine
end

section
/-! PROOF. MANIFEST_VERIFY, SHARD_ARRIVE, SCRUB_PASS and CHAIN_FENCE (R315 to R318, R320, R321, R331): what a manifest of the chain, a
shard that lands, a scrub of a vault and a fence of the chain change. -/

namespace Sys2Proof.Machine

/-! A manifest on the chain (R316, R320). -/

theorem manifestVerify_outside {s : State} (h : chainMember s = false ∨ chainFenced s = true) (b : Bytes) :
    leaves (.manifestVerify b) s := by
  have hout : (!chainMember s || chainFenced s) = true := by simpa using h
  exact congrArg Host.Outcome.next (if_pos hout)

section
variable {s : State} (hmember : chainMember s = true) (hfence : chainFenced s = false)
  (hnone : ∀ p x, (partOf s p).epochs.moult = some x → x.chain = false)
include hmember hfence hnone

/-- While no Moult waits for a manifest, one that arrives is ignored, reported, or kept and forwarded. -/
theorem exec_manifestVerify (b : Bytes) : (manifestForm b = false → exec (.manifestVerify b) s = .next s)
    ∧ (manifestForm b = true →
      (∀ r, manifestAuth s b = some r → exec (.manifestVerify b) s = .next (stwEvent s 0x8010 2 none none []))
      ∧ (manifestAuth s b = none → exec (.manifestVerify b) s
          = .next (forwardManifest (updStw s (fun t => { t with chainMan := some (parseManifest b) })) b))) := by
  have hin : ¬ (!chainMember s || chainFenced s) = true := by simp [hmember, hfence]
  show (_ → execManifestVerify b s = _) ∧ (_ → (∀ r, _ → execManifestVerify b s = _) ∧ (_ → execManifestVerify b s = _))
  unfold execManifestVerify
  rw [if_neg hin]
  extract_lets m waits drop u
  have hwaits : waits = [] := by
    refine List.filter_eq_nil_iff.2 (fun p _ => ?_)
    split
    · next x hx => simp [hnone p x hx]
    · simp
  refine ⟨fun hform => ?_, fun hform => ⟨fun r hr => ?_, fun hr => ?_⟩⟩
  · simp [hform, hwaits]
  · simp [hform, hwaits, hr]
  · simp [hform, hwaits, hr, u, m]

theorem manifestVerify_keeps {b : Bytes} (hform : manifestForm b = true) : answers (.manifestVerify b) s (fun t => memoriesKept s t
    ∧ (manifestAuth s b = none → t.stw.chainMan = some (parseManifest b))
    ∧ (manifestAuth s b ≠ none → t.stw = s.stw ∧ ∃ e, t.events = s.events ++ [e] ∧ e.code = 0x8010#16)) := by
  obtain ⟨hbad, hgood⟩ := (exec_manifestVerify hmember hfence hnone b).2 hform
  cases hauth : manifestAuth s b with
  | some r => exact ⟨_, hbad r hauth, memoriesKept_of_eq rfl rfl, by simp, fun _ => ⟨rfl, _, rfl, rfl⟩⟩
  | none =>
    have hframe := forwardManifest_frame (updStw s (fun t => { t with chainMan := some (parseManifest b) })) b
    exact ⟨_, hgood hauth, hframe.memories, fun _ => hframe.chainMan_eq, by simp⟩
end

/-! A shard lands (R230, R315, R327). -/

@[simp] theorem vaultPass_vault (s : State) (k a n j : Nat) : (clOf (vaultPass s k a n) j).vault = (clOf s j).vault :=
  (vaultPass_frame s k a n).vaults j

/-- An image at its place in a bank, for the shard or for a copy of it. -/
def putImage (p bank : Nat) (img : Bytes) (s : State) (z : ShardPlace) : State :=
  vaultPass (vaultWrite s (shardVault s p z) (bankOff z bank) img) (shardVault s p z) (bankOff z bank) img.length
/-- The writes of an image to vault k, for a list of places. -/
def imageWrites (s : State) (p bank : Nat) (img : Bytes) (zs : List ShardPlace) (k : Nat) : List (Nat × Bytes) :=
  (zs.filter (fun z => shardVault s p z == k)).map (fun z => (bankOff z bank, img))

theorem putImage_frame (p bank : Nat) (img : Bytes) (s : State) (z : ShardPlace) : onlyClusters s (putImage p bank img s z) :=
  onlyClusters_trans (t := vaultWrite s (shardVault s p z) (bankOff z bank) img) rfl (onlyClusters_vaultPass ..)
theorem shardVault_of_parts {s t : State} (h : t.parts = s.parts) (p : Nat) (z : ShardPlace) : shardVault t p z = shardVault s p z := by
  simp only [shardVault, relCore, partDef, partOf, h]
theorem copiesOf_of_parts {s t : State} (h : t.parts = s.parts) (p i : Nat) : copiesOf t p i = copiesOf s p i := by
  simp only [copiesOf, jobOf, partOf, h]

theorem putImages_frame (p bank : Nat) (img : Bytes) (zs : List ShardPlace) (s : State) :
    onlyClusters s (zs.foldl (putImage p bank img) s) := onlyClusters_foldl (putImage_frame p bank img) zs s

/-- Every vault takes the writes to it, in the order of the places. -/
theorem putImages_vault (p bank : Nat) (img : Bytes) (k : Nat) : ∀ (zs : List ShardPlace) (s : State),
    (clOf (zs.foldl (putImage p bank img) s) k).vault = memWrites (clOf s k).vault (imageWrites s p bank img zs k)
  | [], _ => rfl
  | z :: zs, s => by
    have hsame : imageWrites (putImage p bank img s z) p bank img zs k = imageWrites s p bank img zs k := by
      simp only [imageWrites, shardVault_of_parts (putImage_frame p bank img s z).parts_eq]
    have hput : (clOf (putImage p bank img s z) k).vault
        = if k = shardVault s p z then memWrite (clOf s k).vault (bankOff z bank) img else (clOf s k).vault := by
      rw [putImage, vaultPass_vault, vaultWrite, clOf_updCl]
      split
      · next e => rw [e]
      · rfl
    rw [List.foldl_cons, putImages_vault p bank img k zs, hsame, hput, imageWrites, imageWrites, List.filter_cons]
    by_cases e : shardVault s p z = k
    · simp [e, memWrites]
    · simp [e, Ne.symm e]

/-- Writes of one image to places apart from each other all stand. -/
theorem memRead_memWrites_image {img : Bytes} : ∀ {as : List Nat} (m : Mem),
    as.Pairwise (fun a b => apart a img.length b img.length = true) →
    ∀ a ∈ as, memRead (memWrites m (as.map (fun a => (a, img)))) a img.length = img
  | a :: as, m, h, x, hx => by
    obtain ⟨ha, has⟩ := List.pairwise_cons.1 h
    obtain rfl | hx := List.mem_cons.1 hx
    · by_cases hz : img.length = 0
      · rw [List.length_eq_zero_iff.1 hz]; rfl
      · refine (memRead_memWrites_apart _ (memWrite m x img) (fun q hq => ?_)).trans (memRead_memWrite m x img)
        obtain ⟨b, hb, rfl⟩ := List.mem_map.1 hq
        have hapart := ha b hb
        simp only [apart, Bool.or_eq_true, decide_eq_true_eq, beq_iff_eq] at hapart
        dsimp only
        omega
    · exact memRead_memWrites_image (memWrite m a img) has x hx

/-- Descriptors are written to scratchpads. -/
theorem writeDescs_frame (s : State) (p bank : Nat) (x : ShardPlace) :
    (writeDescs s p bank x).clusters = s.clusters ∧ (writeDescs s p bank x).parts = s.parts :=
  ⟨foldl_keeps State.clusters _ _ s (fun _ _ _ => rfl), foldl_keeps State.parts _ _ s (fun _ _ _ => rfl)⟩

/-- A shard that lands is written to its own place and to those of its copies, and no partition's record differs. -/
theorem landShard_lands (s : State) (p : Nat) (epoch : Bytes) (bank : Nat) (y : ShardPlace) (img sum : Bytes) :
    let t := landShard s p epoch bank y img sum
    t.parts = s.parts
    ∧ ∀ k, (clOf t k).vault = memWrites (clOf s k).vault (imageWrites s p bank img (y :: copiesOf s p y.index) k) := by
  unfold landShard
  extract_lets k off s1 s2 s3
  obtain ⟨hdescs, hparts⟩ := writeDescs_frame s3 p bank y
  have h1 : s1 = [y].foldl (putImage p bank img) s := rfl
  have h3 : s3 = (copiesOf s p y.index).foldl (putImage p bank img) s2 := by
    rw [← copiesOf_of_parts (t := s2) (putImage_frame p bank img s y).parts_eq]
    rfl
  have hparts2 : s2.parts = s.parts := (putImage_frame p bank img s y).parts_eq
  refine ⟨hparts.trans (h3 ▸ (putImages_frame p bank img _ s2).parts_eq.trans hparts2), fun j => ?_⟩
  have hmem2 : memoriesKept s1 s2 := memoriesKept_updCl s1 k (fun _ => rfl)
  have hwrites2 : imageWrites s2 p bank img (copiesOf s p y.index) j = imageWrites s p bank img (copiesOf s p y.index) j := by
    simp only [imageWrites, shardVault_of_parts hparts2]
  rw [clOf, hdescs, ← clOf, h3, putImages_vault, hmem2.2, h1, putImages_vault, hwrites2]
  simp only [imageWrites, memWrites, ← List.foldl_append, ← List.map_append, ← List.filter_append, List.singleton_append]

/-- Places that share no byte of a vault. -/
def placesApart (s : State) (p bank n : Nat) (ys : List ShardPlace) : Prop :=
  ys.Pairwise (fun a b => shardVault s p a = shardVault s p b → apart (bankOff a bank) n (bankOff b bank) n = true)

theorem landShard_reads {s : State} {p bank : Nat} {y : ShardPlace} {img : Bytes}
    (h : placesApart s p bank img.length (y :: copiesOf s p y.index)) (epoch sum : Bytes) :
    let t := landShard s p epoch bank y img sum
    (∀ z ∈ y :: copiesOf s p y.index, vaultRead t (shardVault s p z) (bankOff z bank) img.length = img)
    ∧ ∀ k, k ∉ (y :: copiesOf s p y.index).map (shardVault s p) → (clOf t k).vault = (clOf s k).vault := by
  obtain ⟨-, hvault⟩ := landShard_lands s p epoch bank y img sum
  refine ⟨fun z hz => ?_, fun k hk => ?_⟩
  · have hrow : imageWrites s p bank img (y :: copiesOf s p y.index) (shardVault s p z)
        = (((y :: copiesOf s p y.index).filter (fun x => shardVault s p x == shardVault s p z)).map (fun x => bankOff x bank)).map
          (fun a => (a, img)) := by rw [List.map_map]; rfl
    rw [vaultRead, hvault, hrow]
    refine memRead_memWrites_image _ ?_ _ (List.mem_map.2 ⟨z, List.mem_filter.2 ⟨hz, by simp⟩, rfl⟩)
    rw [List.pairwise_map, List.pairwise_filter]
    refine h.imp (fun hab ha hb => hab ?_)
    rw [beq_iff_eq] at ha hb
    exact ha.trans hb.symm
  · have hnone : imageWrites s p bank img (y :: copiesOf s p y.index) k = [] := by
      rw [imageWrites, List.map_eq_nil_iff, List.filter_eq_nil_iff]
      intro z hz e
      exact hk (List.mem_map.2 ⟨z, hz, beq_iff_eq.1 e⟩)
    rw [hvault, hnone]
    rfl

theorem shardPlace_index {s : State} {p i : Nat} {y : ShardPlace} (h : shardPlace s p i = some y) : y.index = i := by
  obtain ⟨j, -, hj⟩ := Option.bind_eq_some_iff.1 h
  obtain ⟨f, -, hf⟩ := Option.bind_eq_some_iff.1 hj
  simpa using List.find?_some hf

theorem exec_shardArrive {s : State} (h : chainMember s = false) (p : PartId) (epoch : Bytes) (index : Nat) (img : Bytes) :
    exec (.shardArrive (some p) epoch index img) s = .next (takeShard s p epoch index img) := by
  show execShardArrive (some p) epoch index img s = _
  simp [execShardArrive, h]

/-- The bank that a Moult's shards are written to. -/
def moultBank (s : State) (p : Nat) (m : Moult) : Nat := if m.mode = 2 then (partOf s p).epochs.comBank else (partOf s p).epochs.incBank
/-- A Moult with one more shard that has passed. -/
def withShard (m : Moult) (index : Nat) (img : Bytes) : Moult :=
  { m with passed := m.passed ++ [index], landed := m.landed ++ [(index, sha256 img)] }

section
variable {s : State} {p index len : Nat} {img sum : Bytes} {m : Moult} {y : ShardPlace} (hm : (partOf s p).epochs.moult = some m)
  (hmode : m.mode ≠ 1) (hnew : index ∉ m.passed) (hfind : m.man.shards.find? (fun x => x.1 == index) = some (index, len, sum))
  (hplace : shardPlace s p index = some y)
include hm hmode hnew hfind hplace

theorem takeShard_rejects {f : Nat × Nat} (hf : shardFault (digestMode s) y len sum img = some f) :
    takeShard s p m.man.digest index img = rejectShard s (shardVault s p y) index y img f := by
  simp [takeShard, hm, hmode, hnew, hfind, hplace, hf]

theorem takeShard_lands (hgood : shardFault (digestMode s) y len sum img = none)
    (hmore : ∃ x ∈ m.man.shards, x.1 ≠ index ∧ x.1 ∉ m.passed) : takeShard s p m.man.digest index img
      = setEpochs (landShard s p m.man.digest (moultBank s p m) y img sum) p (fun e => { e with moult := some (withShard m index img) }) := by
  have hopen : ¬ m.man.shards.all (fun x => (m.passed ++ [index]).contains x.1) = true := by
    obtain ⟨x, hx, hne, hnot⟩ := hmore
    rw [List.all_eq_true]
    intro hall
    simpa [hne, hnot] using hall x hx
  simp only [takeShard, hm, hfind, hplace, hgood]
  rw [if_neg (by simp [hmode, hnew])]
  exact if_neg hopen

/-- A shard that passes, of a Moult that waits for others too, lies in its vault and in those of its copies, and counts as passed. -/
theorem takeShard_effect (hgood : shardFault (digestMode s) y len sum img = none)
    (hmore : ∃ x ∈ m.man.shards, x.1 ≠ index ∧ x.1 ∉ m.passed)
    (hapart : placesApart s p (moultBank s p m) img.length (y :: copiesOf s p index)) :
    let t := takeShard s p m.man.digest index img
    (∀ z ∈ y :: copiesOf s p index, vaultRead t (shardVault s p z) (bankOff z (moultBank s p m)) img.length = img)
    ∧ (∀ k, k ∉ (y :: copiesOf s p index).map (shardVault s p) → (clOf t k).vault = (clOf s k).vault)
    ∧ ∃ m', (partOf t p).epochs.moult = some m' ∧ m'.passed = m.passed ++ [index] ∧ m'.man = m.man := by
  obtain rfl := shardPlace_index hplace
  obtain ⟨hreads, hkept⟩ := landShard_reads hapart m.man.digest sum
  rw [takeShard_lands hm hmode hnew hfind hplace hgood hmore]
  exact ⟨hreads, hkept, withShard m y.index img, by rw [epochs_setEpochs], rfl, rfl⟩
end

theorem placesApart_of_getElem? {s : State} {p bank n : Nat} {ys : List ShardPlace}
    (h : ∀ (i j : Nat) a b, ys[i]? = some a → ys[j]? = some b → i ≠ j → shardVault s p a = shardVault s p b →
      apart (bankOff a bank) n (bankOff b bank) n = true) : placesApart s p bank n ys :=
  List.pairwise_iff_getElem.2 (fun i j hi hj hij =>
    h i j _ _ (List.getElem?_eq_getElem hi) (List.getElem?_eq_getElem hj) (Nat.ne_of_lt hij))

/-! A scrub of a vault (R318). -/

/-- A shard as the directory lists it: its epoch, index, offset, length, digest, and the time of its last good check. -/
abbrev DirEntry := Bytes × Nat × Nat × Nat × Bytes × Nat
/-- The entry of a shard that has been found whole at a time. -/
def dated (e : DirEntry) (now : Nat) : DirEntry := (e.1, e.2.1, e.2.2.1, e.2.2.2.1, e.2.2.2.2.1, now)
/-- One shard is read and digested again. -/
def scrubShard (k p : Nat) (s : State) (e : DirEntry) : State :=
  let s := vaultPass s k e.2.2.1 e.2.2.2.1
  if shardWhole s k e then
    updCl s k (fun c => { c with shards := c.shards.map (fun x => if x = e then dated e s.units else x) })
  else corruptShard s p k e

theorem exec_scrubPass {cl : ClusterId} {p : Nat} {s : State} (hmode : digestMode s = true) (hpower : (siteSt s (cl.val / 16)).powered = true)
    (hretain : (clOf s cl).selfRetain = false) (hclocks : (clOf s cl).clocksOff = false) (hpart : sitePart s (cl.val / 16) = some p) :
    exec (.scrubPass cl) s = .next ((clOf s cl).shards.foldl (scrubShard cl p) s) := by
  show execScrubPass cl s = _
  simp only [execScrubPass, hmode, hpower, hretain, hclocks, hpart]
  rfl
theorem scrubPass_leaves {cl : ClusterId} {s : State} (h : digestMode s = false ∨ (siteSt s (cl.val / 16)).powered = false
    ∨ (clOf s cl).selfRetain = true ∨ (clOf s cl).clocksOff = true) : leaves (.scrubPass cl) s := by
  refine congrArg Host.Outcome.next (if_pos ?_)
  simpa [or_assoc] using h

/-- An epoch is still coming in on a partition: it is incoming, and not the committed one. -/
def comingIn (s : State) (p : Nat) (digest : Bytes) : Bool :=
  (partOf s p).epochs.incoming.any (fun m => m.digest == digest) && !(partOf s p).epochs.committed.any (fun m => m.digest == digest)

/-- No memory differs, nor what is coming in; what was missing is, and no more has passed than had. -/
structure Scrubbed (p : Nat) (s t : State) : Prop where
  memories : memoriesKept s t
  units : t.units = s.units
  coming : ∀ d, comingIn t p d = comingIn s p d
  missing : ∀ i ∈ (partOf s p).epochs.missing, i ∈ (partOf t p).epochs.missing
  passed : ∀ m', (partOf t p).epochs.moult = some m' → ∃ m, (partOf s p).epochs.moult = some m ∧ ∀ i ∈ m'.passed, i ∈ m.passed

theorem scrubbed_refl (p : Nat) (s : State) : Scrubbed p s s :=
  ⟨memoriesKept_refl s, rfl, fun _ => rfl, fun _ => id, fun m hm => ⟨m, hm, fun _ => id⟩⟩
theorem Scrubbed.trans {p : Nat} {s t u : State} (h : Scrubbed p s t) (g : Scrubbed p t u) : Scrubbed p s u := by
  refine ⟨memoriesKept_trans h.memories g.memories, g.units.trans h.units, fun d => (g.coming d).trans (h.coming d),
    fun i hi => g.missing i (h.missing i hi), fun m'' hm'' => ?_⟩
  obtain ⟨m', hm', hsub'⟩ := g.passed m'' hm''
  obtain ⟨m, hm, hsub⟩ := h.passed m' hm'
  exact ⟨m, hm, fun i hi => hsub i (hsub' i hi)⟩
theorem scrubbed_of_parts {p : Nat} {s t : State} (hm : memoriesKept s t) (hu : t.units = s.units) (hp : t.parts = s.parts) :
    Scrubbed p s t := by
  have hpart : partOf t p = partOf s p := by rw [partOf, hp, partOf]
  exact ⟨hm, hu, fun d => by rw [comingIn, hpart, comingIn], fun i hi => hpart ▸ hi, fun m hm => ⟨m, hpart ▸ hm, fun _ => id⟩⟩

theorem shardWhole_of_memories {s t : State} (h : memoriesKept s t) (k : Nat) (e : DirEntry) : shardWhole t k e = shardWhole s k e := by
  simp only [shardWhole, vaultRead, h.2 k]

/-- A lost shard of an epoch that is coming in has not passed any more; any other is missing. -/
theorem shardGone_effect (s : State) (p : Nat) (digest : Bytes) (index : Nat) : let t := shardGone s p digest index
    Scrubbed p s t ∧ t.clusters = s.clusters ∧ (comingIn s p digest = false → index ∈ (partOf t p).epochs.missing)
    ∧ (comingIn s p digest = true → ∀ m, (partOf t p).epochs.moult = some m → index ∉ m.passed) := by
  cases hcoming : comingIn s p digest with
  | true =>
    have ht : shardGone s p digest index = setEpochs s p (fun e => { e with
        moult := e.moult.map (fun t => { t with passed := t.passed.filter (· != index) }) }) := if_pos hcoming
    have hfewer : ∀ m', (partOf (shardGone s p digest index) p).epochs.moult = some m' →
        ∃ m, (partOf s p).epochs.moult = some m ∧ m'.passed = m.passed.filter (· != index) := fun m' hm' => by
      rw [ht, epochs_setEpochs] at hm'
      obtain ⟨m, hm, rfl⟩ := Option.map_eq_some_iff.1 hm'
      exact ⟨m, hm, rfl⟩
    refine ⟨⟨ht ▸ memoriesKept_of_eq rfl rfl, ht ▸ rfl, fun d => ?_, fun i hi => ?_, fun m' hm' => ?_⟩, ht ▸ rfl, by simp, fun _ m' hm' => ?_⟩
    · simp only [comingIn, ht, epochs_setEpochs]
    · rw [ht, epochs_setEpochs]; exact hi
    · obtain ⟨m, hm, hpassed⟩ := hfewer m' hm'
      exact ⟨m, hm, fun i hi => (List.mem_filter.1 (hpassed ▸ hi)).1⟩
    · obtain ⟨m, -, hpassed⟩ := hfewer m' hm'
      simp [hpassed]
  | false =>
    have ht : shardGone s p digest index = markMissing s p index := if_neg (Bool.eq_false_iff.1 hcoming)
    have hlisted : ∀ i, i ∈ (partOf (shardGone s p digest index) p).epochs.missing
        ↔ i = index ∨ i ∈ (partOf s p).epochs.missing := fun i => by
      rw [ht, markMissing, partOf_updPart_self]
      dsimp only
      split
      · next hin =>
        refine ⟨.inr, ?_⟩
        rintro (rfl | hi)
        · exact List.contains_iff_mem.1 hin
        · exact hi
      · exact mem_insertBy ..
    have hmoult : (partOf (shardGone s p digest index) p).epochs.moult = (partOf s p).epochs.moult := by
      rw [ht, markMissing, partOf_updPart_self]
    refine ⟨⟨ht ▸ memoriesKept_of_eq rfl rfl, ht ▸ rfl, fun d => ?_, fun i hi => (hlisted i).2 (.inr hi), fun m hm => ?_⟩, ht ▸ rfl,
      fun _ => (hlisted index).2 (.inl rfl), by simp⟩
    · simp only [comingIn, ht, markMissing, partOf_updPart_self]
    · exact ⟨m, hmoult ▸ hm, fun _ => id⟩

/-- A corrupt shard leaves the directory, and is lost. -/
theorem corruptShard_effect (s : State) (p k : Nat) (e : DirEntry) : let t := corruptShard s p k e
    Scrubbed p s t ∧ (clOf t k).shards = (clOf s k).shards.filter (· != e)
    ∧ (comingIn s p e.1 = false → e.2.1 ∈ (partOf t p).epochs.missing)
    ∧ (comingIn s p e.1 = true → ∀ m, (partOf t p).epochs.moult = some m → e.2.1 ∉ m.passed) := by
  unfold corruptShard
  extract_lets good s1 s2
  obtain ⟨hscrub, hclusters, hmissing, hpassed⟩ := shardGone_effect s2 p e.1 e.2.1
  have hmem : memoriesKept s1 s2 := memoriesKept_updCl s1 k (fun _ => rfl)
  have h2 : Scrubbed p s s2 := scrubbed_of_parts (memoriesKept_trans (memoriesKept_of_eq rfl rfl) hmem) rfl rfl
  rw [h2.coming] at hmissing hpassed
  refine ⟨h2.trans hscrub, ?_, hmissing, hpassed⟩
  rw [clOf, hclusters, ← clOf, clOf_updCl_self]
  rfl

theorem vaultPass_shards (s : State) (k a n : Nat) : (clOf (vaultPass s k a n) k).shards = (clOf s k).shards := by
  have hwork : ∀ t off hi lo, (clOf (peakFreeK t k off hi lo) k).shards = (clOf t k).shards := fun t off hi lo => by
    show (clOf (setKreg t k off _) k).shards = _
    rw [setKreg, clOf_updCl_self]
  unfold vaultPass vaultWork
  split
  · rfl
  · rw [hwork, bumpK]
    split
    · rfl
    · rw [setKreg, clOf_updCl_self]

/-- A shard that is whole is dated; one that is not leaves the directory, and is lost. -/
theorem scrubShard_effect (k p : Nat) (s : State) (e : DirEntry) : let t := scrubShard k p s e
    Scrubbed p s t
    ∧ (shardWhole s k e = true → (clOf t k).shards = (clOf s k).shards.map (fun x => if x = e then dated e s.units else x))
    ∧ (shardWhole s k e = false → (clOf t k).shards = (clOf s k).shards.filter (· != e)
      ∧ (comingIn s p e.1 = false → e.2.1 ∈ (partOf t p).epochs.missing)
      ∧ (comingIn s p e.1 = true → ∀ m, (partOf t p).epochs.moult = some m → e.2.1 ∉ m.passed)) := by
  unfold scrubShard
  extract_lets u t
  have hpass : onlyClusters s u := onlyClusters_vaultPass ..
  have hu : Scrubbed p s u := scrubbed_of_parts ⟨fun c => by rw [coreOf, hpass.cores_eq, coreOf], fun j => vaultPass_vault ..⟩
    (by rw [hpass]) hpass.parts_eq
  have hshards : (clOf u k).shards = (clOf s k).shards := vaultPass_shards ..
  simp only [t, shardWhole_of_memories hu.memories]
  cases shardWhole s k e with
  | true =>
    have hmem : memoriesKept u (updCl u k (fun c => { c with shards := c.shards.map (fun x => if x = e then dated e u.units else x) })) :=
      memoriesKept_updCl u k (fun _ => rfl)
    refine ⟨hu.trans (scrubbed_of_parts hmem rfl rfl), fun _ => ?_, by simp⟩
    rw [if_pos rfl, clOf_updCl_self, ← hshards, ← hu.units]
  | false =>
    obtain ⟨hscrub, hgone, hmissing, hpassed⟩ := corruptShard_effect u p k e
    rw [hu.coming] at hmissing hpassed
    exact ⟨hu.trans hscrub, by simp, fun _ => ⟨hgone.trans (by rw [hshards]), hmissing, hpassed⟩⟩

/-- What one element of a list brings about, where what comes before it keeps what that needs, and what comes after keeps it, stands. -/
theorem foldl_brings {α : Type} {f : State → α → State} {P Q : State → Prop} {a : α} (hneeds : ∀ t b, Q t → Q (f t b))
    (hbrings : ∀ t, Q t → P (f t a)) (hkeeps : ∀ t b, P t → P (f t b)) (l : List α) (ha : a ∈ l) :
    ∀ s, Q s → P (l.foldl f s) := by
  induction l with
  | nil => exact absurd ha List.not_mem_nil
  | cons b l ih =>
    intro s hs
    rcases List.mem_cons.1 ha with hab | ha
    · exact List.foldlRecOn l f (hab ▸ hbrings s hs) (fun t ht c _ => hkeeps t c ht)
    · exact ih ha (f s b) (hneeds s b hs)

section
variable {s : State} {k p : Nat}

/-- A whole shard stays in the directory, dated or as it is. -/
theorem scrubShard_keeps_whole {x : DirEntry} (hx : x ∈ (clOf s k).shards) (hwhole : shardWhole s k x = true) (e : DirEntry) :
    x ∈ (clOf (scrubShard k p s e) k).shards ∨ dated x s.units ∈ (clOf (scrubShard k p s e) k).shards := by
  obtain ⟨-, hdated, hlost⟩ := scrubShard_effect k p s e
  cases he : shardWhole s k e with
  | true =>
    rw [hdated he]
    by_cases hxe : x = e
    · exact .inr (List.mem_map.2 ⟨x, hx, by rw [if_pos hxe, hxe]⟩)
    · exact .inl (List.mem_map.2 ⟨x, hx, if_neg hxe⟩)
  | false =>
    rw [(hlost he).1]
    refine .inl (List.mem_filter.2 ⟨hx, bne_iff_ne.2 ?_⟩)
    rintro rfl
    exact absurd (he.symm.trans hwhole) (by decide)

/-- One that is not whole and has left the directory does not come back. -/
theorem scrubShard_keeps_out {x : DirEntry} (hx : x ∉ (clOf s k).shards) (hbad : shardWhole s k x = false) (e : DirEntry) :
    x ∉ (clOf (scrubShard k p s e) k).shards := by
  obtain ⟨-, hdated, hlost⟩ := scrubShard_effect k p s e
  cases he : shardWhole s k e with
  | true =>
    rw [hdated he, List.mem_map]
    rintro ⟨z, hz, hzx⟩
    split at hzx
    · have : shardWhole s k x = shardWhole s k e := hzx ▸ rfl
      exact absurd (hbad.symm.trans (this.trans he)) (by decide)
    · exact hx (hzx ▸ hz)
  | false =>
    rw [(hlost he).1]
    exact fun h => hx (List.mem_filter.1 h).1

theorem scrubbed_scrubShard (e : DirEntry) : Scrubbed p s (scrubShard k p s e) := (scrubShard_effect k p s e).1

theorem scrub_dates {e : DirEntry} {l : List DirEntry} (hl : e ∈ l) (he : e ∈ (clOf s k).shards) (hwhole : shardWhole s k e = true) :
    dated e s.units ∈ (clOf (l.foldl (scrubShard k p) s) k).shards := by
  have hstays : ∀ t, Scrubbed p s t → dated e s.units ∈ (clOf t k).shards → ∀ b,
      dated e s.units ∈ (clOf (scrubShard k p t b) k).shards := fun t ht h b => by
    have hd : shardWhole t k (dated e s.units) = true := (shardWhole_of_memories ht.memories k e).trans hwhole
    rcases scrubShard_keeps_whole (p := p) h hd b with h | h
    · exact h
    · rw [ht.units] at h; exact h
  refine (foldl_brings (f := scrubShard k p) (a := e) (P := fun t => Scrubbed p s t ∧ dated e s.units ∈ (clOf t k).shards)
    (Q := fun t => Scrubbed p s t ∧ (e ∈ (clOf t k).shards ∨ dated e s.units ∈ (clOf t k).shards)) ?_ ?_ ?_ l hl s
    ⟨scrubbed_refl p s, .inl he⟩).2
  · rintro t b ⟨ht, h | h⟩
    · refine ⟨ht.trans (scrubbed_scrubShard b), ?_⟩
      have := scrubShard_keeps_whole (p := p) h ((shardWhole_of_memories ht.memories k e).trans hwhole) b
      rwa [ht.units] at this
    · exact ⟨ht.trans (scrubbed_scrubShard b), .inr (hstays t ht h b)⟩
  · rintro t ⟨ht, h | h⟩
    · refine ⟨ht.trans (scrubbed_scrubShard e), ?_⟩
      rw [(scrubShard_effect k p t e).2.1 ((shardWhole_of_memories ht.memories k e).trans hwhole), ← ht.units]
      exact List.mem_map.2 ⟨e, h, if_pos rfl⟩
    · exact ⟨ht.trans (scrubbed_scrubShard e), hstays t ht h e⟩
  · rintro t b ⟨ht, h⟩
    exact ⟨ht.trans (scrubbed_scrubShard b), hstays t ht h b⟩

theorem scrub_loses {e : DirEntry} {l : List DirEntry} (hl : e ∈ l) (hbad : shardWhole s k e = false) :
    let t := l.foldl (scrubShard k p) s
    e ∉ (clOf t k).shards ∧ (comingIn s p e.1 = false → e.2.1 ∈ (partOf t p).epochs.missing)
    ∧ (comingIn s p e.1 = true → ∀ m, (partOf t p).epochs.moult = some m → e.2.1 ∉ m.passed) := by
  refine (foldl_brings (f := scrubShard k p) (a := e) (Q := Scrubbed p s) (P := fun t => Scrubbed p s t ∧ e ∉ (clOf t k).shards
    ∧ (comingIn s p e.1 = false → e.2.1 ∈ (partOf t p).epochs.missing)
    ∧ (comingIn s p e.1 = true → ∀ m, (partOf t p).epochs.moult = some m → e.2.1 ∉ m.passed)) ?_ ?_ ?_ l hl s (scrubbed_refl p s)).2
  · exact fun t b ht => ht.trans (scrubbed_scrubShard b)
  · intro t ht
    obtain ⟨hstep, -, hlost⟩ := scrubShard_effect k p t e
    obtain ⟨hgone, hmissing, hpassed⟩ := hlost ((shardWhole_of_memories ht.memories k e).trans hbad)
    rw [ht.coming] at hmissing hpassed
    exact ⟨ht.trans hstep, by simp [hgone], hmissing, hpassed⟩
  · rintro t b ⟨ht, hout, hmissing, hpassed⟩
    have hstep : Scrubbed p t (scrubShard k p t b) := scrubbed_scrubShard b
    refine ⟨ht.trans hstep, scrubShard_keeps_out hout ((shardWhole_of_memories ht.memories k e).trans hbad) b,
      fun hc => hstep.missing _ (hmissing hc), fun hc m' hm' => ?_⟩
    obtain ⟨m, hm, hsub⟩ := hstep.passed m' hm'
    exact fun hi => hpassed hc m hm (hsub _ hi)
end

/-! A fence of the chain (R321). -/

theorem writes_chainFence {req : DapReq} {v : Byte} {se : Session} {s : State} (hw : canWrite s req 0x5310 8 (leBytes 1 v.toNat) se)
    (hv : v.toNat ≤ 1) : writes (.chainFence req v) s req 0x5310 8 (leBytes 1 v.toNat) se (fun _ t => obj t 0x5310 8 = v.toNat
      ∧ memoriesKept s t ∧ (v = 1 → t.stw.staged = [] ∧ t.stw.chainState = 0)) := by
  obtain ⟨hg, -⟩ := granted_effect hw
  refine writes_taken hw rfl (fun _ => rfl) (if_neg (Nat.not_lt.2 hv)) ?_
  generalize granted s req 0x5310 8 (leBytes 1 v.toNat) se = w at hg ⊢
  extract_lets u1 u2 ports
  have h2 : u2.objs = u1.objs ∧ memoriesKept w u2 ∧ (v = 1 → u2.stw.staged = [] ∧ u2.stw.chainState = 0) := by
    simp only [u2]; split
    · exact ⟨rfl, memoriesKept_of_eq rfl rfl, fun _ => ⟨rfl, rfl⟩⟩
    · next hne => exact ⟨rfl, memoriesKept_of_eq rfl rfl, fun h => absurd h hne⟩
  have hsent : onlyPorts u2 (setChainStall (ports.foldl sendHello u2)) :=
    onlyPorts_trans (onlyPorts_foldl sendHello_frame ports u2) (setChainStall_frame _)
  obtain ⟨hobjs, hmem, hstaged⟩ := h2
  refine ⟨?_, memoriesKept_trans hg.memories (memoriesKept_trans hmem hsent.chain.memories), ?_⟩
  · have : (setChainStall (ports.foldl sendHello u2)).objs = (setObj w 0x5310 8 v.toNat).objs := by rw [hsent]; exact hobjs
    rw [obj, this]
    exact obj_setObj_self ..
  · rw [hsent]; exact hstaged

/-- Settles O41: a manifest by its three outcomes; a shard by its check, and one that passes by the writes to its places, which stand
apart; a scrub by its shards one after another, of which none undoes another's; and a fence by what it writes before its messages. -/
theorem shardsLandAndAreScrubbed : Obligations.ShardsLandAndAreScrubbed := by
  unfold Obligations.ShardsLandAndAreScrubbed
  refine ⟨fun b s => ⟨fun hout => manifestVerify_outside hout b, fun hmember hfence hnone => ?_⟩,
    fun p epoch img sum index len m y s => ?_, fun cl p s => ?_, fun req v se s hw hv => writes_chainFence hw hv⟩
  · exact ⟨fun hform => (exec_manifestVerify hmember hfence hnone b).1 hform, fun hform => manifestVerify_keeps hmember hfence hnone hform⟩
  · intro hchain hm hepoch hmode hnew hfind hplace bank
    subst hepoch
    refine ⟨fun f hf => ?_, ?_⟩
    · rw [exec_shardArrive hchain, takeShard_rejects hm hmode hnew hfind hplace hf]
    · intro hgood hmore ys hapart
      refine ⟨_, exec_shardArrive hchain .., ?_⟩
      exact takeShard_effect hm hmode hnew hfind hplace hgood hmore (placesApart_of_getElem? hapart)
  · refine ⟨fun hmode => scrubPass_leaves (.inl hmode), fun hoff => scrubPass_leaves (.inr hoff), ?_⟩
    intro hmode hpower hretain hclocks hpart e' coming
    have hall : Scrubbed p s ((clOf s cl).shards.foldl (scrubShard cl p) s) :=
      foldl_rel (scrubbed_refl p) Scrubbed.trans (fun _ e => scrubbed_scrubShard e) _ s
    exact ⟨_, exec_scrubPass hmode hpower hretain hclocks hpart, hall.memories, fun e he =>
      ⟨fun hwhole => scrub_dates he he hwhole, fun hbad => scrub_loses he hbad⟩⟩

end Sys2Proof.Machine
end

section
/-! PROOF. SITE_GROUP_ENERGISE of the last group (R458) in a state whose table of sites lists a powered site that the module does not have:
the numbers of its clusters are those of the I/O dies' control cores (R471), and the active Steward starts again in its ROM. -/

namespace Sys2Proof.Machine

/-- Every group but the last is on, and the Steward runs its image; beside the module's own sites, 0 to 63, the table lists site 64. -/
def beyondSites : State := { State.reset with
  sites := [(64, { SiteState.reset with powered := true })], ccs := [(1025, { CcState.reset with image := some [] })]
  fin := { Finder.reset with ioPowered := true, phase := 0x1E } }

/-- In the state that an outcome goes on with: whether the Steward runs, and the phase of Eclosion. -/
def stewardAndPhase (o : Out) : Option (Bool × Byte) :=
  match o with
  | .next t => some (stewardUp t, t.fin.phase)
  | _ => none

/-- With the last group on, cluster 1 of site 64 starts as control core 1025, the Steward's, and no image is loaded. -/
theorem lastGroup_stops_steward : stewardUp beyondSites = true
    ∧ stewardAndPhase (exec (.siteGroupEnergise 15 (List.replicate 4 .ok)) beyondSites) = some (false, 0x21) := by decide +kernel

/-- Refutes O49: the phase after the last group is that of a Steward that no longer runs, though it ran before the group came on; the
statement takes any table of sites, and a powered site 64 in it makes the start of its clusters a restart of the Steward. -/
theorem not_eclosionProceeds : ¬ Obligations.EclosionProceeds := by
  rintro ⟨-, -, hgroups, -⟩
  have hfenced : ∀ d ∈ groupSites (15 : Fin 16), siteFenced beyondSites d = false := by decide +kernel
  obtain ⟨t, hexec, -, hphase⟩ := (hgroups 15 (List.replicate 4 .ok) beyondSites).2 rfl rfl rfl rfl hfenced
  obtain ⟨hup, hstops⟩ := lastGroup_stops_steward
  rw [hexec] at hstops
  have hafter : t.fin.phase = 0x21 := congrArg Prod.snd (Option.some.inj hstops)
  rw [hafter, if_pos rfl, if_pos hup] at hphase
  exact absurd hphase (by decide)

end Sys2Proof.Machine
end

section
/-! PROOF. A step and the command at the front of the queue. -/

namespace Sys2Proof.Machine

/-- Settles O1. -/
theorem stepRunsFront : Obligations.StepRunsFront := fun _ _ _ => rfl

end Sys2Proof.Machine
end

section
/-! PROOF. What every command keeps: the commands that wait, and the canonical form of every memory (log entries 1, 2). One lemma for
each operation of the model that answers a state, through the states that it is made of. -/

namespace Sys2Proof.Machine

/-- The commands that wait are cmds, and every memory is in its canonical form, where that is asked. -/
structure Sound (cmds : List Instr) (asked : Prop) (s : State) : Prop where
  pending : s.pending = cmds
  canonical : asked → MemoriesCanonical s

/-- The state, where there is one, is sound. -/
def SoundOpt (cmds : List Instr) (asked : Prop) (o : Option State) : Prop := ∀ t, o = some t → Sound cmds asked t

section
variable {cmds : List Instr} {asked : Prop} {s t : State}

/-! Outcomes. -/

theorem Sound.some (h : Sound cmds asked s) : SoundOpt cmds asked (some s) := fun _ e => Option.some.inj e ▸ h
theorem SoundOpt.none : SoundOpt cmds asked none := fun _ e => nomatch e
theorem SoundOpt.getD {o : Option State} (h : SoundOpt cmds asked o) (hs : Sound cmds asked s) : Sound cmds asked (o.getD s) := by
  cases o with
  | none => exact hs
  | some t => exact h t rfl
theorem SoundOpt.map {o : Option State} {f : State → State} (h : SoundOpt cmds asked o)
    (hf : ∀ {t}, Sound cmds asked t → Sound cmds asked (f t)) : SoundOpt cmds asked (o.map f) := by
  cases o with
  | none => exact SoundOpt.none
  | some t => exact (hf (h t rfl)).some
theorem SoundOpt.bind {o : Option State} {f : State → Option State} (h : SoundOpt cmds asked o)
    (hf : ∀ {t}, Sound cmds asked t → SoundOpt cmds asked (f t)) : SoundOpt cmds asked (o.bind f) := by
  cases o with
  | none => exact SoundOpt.none
  | some t => exact hf (h t rfl)

/-! States in general. -/

/-- A state with the same waiting commands, cores, clusters and control cores. -/
theorem Sound.congr (h : Sound cmds asked s) (hp : t.pending = s.pending) (hc : t.cores = s.cores) (hk : t.clusters = s.clusters)
    (hi : t.ccs = s.ccs) : Sound cmds asked t := ⟨hp.trans h.pending, fun g => (h.canonical g).congr hc hk hi⟩
theorem Sound.ite {c : Prop} [Decidable c] (h : Sound cmds asked s)
    (g : Sound cmds asked t) : Sound cmds asked (if c then s else t) := by
  split <;> assumption
theorem SoundOpt.ite {c : Prop} [Decidable c] {o p : Option State} (h : SoundOpt cmds asked o) (g : SoundOpt cmds asked p) :
    SoundOpt cmds asked (if c then o else p) := by split <;> assumption
theorem Sound.foldl {α : Type} {f : State → α → State} {l : List α} (h : Sound cmds asked s)
    (hf : ∀ {t} a, Sound cmds asked t → Sound cmds asked (f t a)) : Sound cmds asked (l.foldl f s) := by
  induction l generalizing s with
  | nil => exact h
  | cons a l ih => exact ih (hf a h)
theorem Sound.spad (h : Sound cmds asked s) {c : Nat} : asked → (coreOf s c).spad.wf = true := fun g => (h.canonical g).1 c
theorem Sound.vault (h : Sound cmds asked s) {k : Nat} : asked → (clOf s k).vault.wf = true := fun g => (h.canonical g).2.1 k
theorem Sound.mem (h : Sound cmds asked s) {i : Nat} : asked → (ccOf s i).mem.wf = true := fun g => (h.canonical g).2.2 i

/-! Tables of which entries are removed or replaced. -/

theorem lookupN_filter_key {α : Type} (p : Nat → Bool) (i : Nat) : ∀ m : List (Nat × α),
    lookupN (m.filter (fun e => p e.1)) i = if p i then lookupN m i else none
  | [] => by simp
  | (k, v) :: m => by
    have ih := lookupN_filter_key p i m
    by_cases hk : p k
    · by_cases e : i = k
      · subst e; simp [hk, lookupN]
      · simp [hk, lookupN, e, ih]
    · by_cases e : i = k
      · subst e; simp [hk, ih]
      · simp [hk, lookupN, e, ih]
theorem lookupN_map_entry {α : Type} {f : Nat × α → Nat × α} (hf : ∀ e, (f e).1 = e.1) (i : Nat) : ∀ m : List (Nat × α),
    lookupN (m.map f) i = (lookupN m i).map (fun v => (f (i, v)).2)
  | [] => rfl
  | (k, v) :: m => by
    have ih := lookupN_map_entry hf i m
    by_cases e : i = k
    · subst e; simp [lookupN, hf]
    · simp [lookupN, hf, e, ih]
/-- What the default and an entry meet, the entry meets once others are removed; so where each entry is replaced by one that meets it. -/
theorem getN_filter_key {α : Type} (q : α → Prop) {d : α} (p : Nat → Bool) (hd : q d) {m : List (Nat × α)} {i : Nat}
    (h : q (getN d m i)) :
    q (getN d (m.filter (fun e => p e.1)) i) := by
  simp only [getN, lookupN_filter_key p i m]
  split
  · exact h
  · exact hd
theorem getN_map_entry {α : Type} (q : α → Prop) {d : α} {f : Nat × α → Nat × α} (hf : ∀ e, (f e).1 = e.1)
    (hq : ∀ e, q e.2 → q (f e).2)
    (hd : q d) {m : List (Nat × α)} {i : Nat} (h : q (getN d m i)) : q (getN d (m.map f) i) := by
  simp only [getN, lookupN_map_entry hf i m] at h ⊢
  cases e : lookupN m i with
  | none => exact hd
  | some v => rw [e] at h; exact hq (i, v) h
def spadWf (v : CoreState) : Prop := v.spad.wf = true
def vaultWf (v : ClusterState) : Prop := v.vault.wf = true
def memWf (v : CcState) : Prop := v.mem.wf = true
theorem spadWf_reset : spadWf CoreState.reset := rfl
theorem vaultWf_reset : vaultWf ClusterState.reset := rfl
theorem memWf_reset : memWf CcState.reset := rfl
/-- A state whose memories are in their canonical form where those of a sound one are. -/
theorem Sound.tables (h : Sound cmds asked s) (hp : t.pending = s.pending) (hc : ∀ c, spadWf (coreOf s c) → spadWf (coreOf t c))
    (hk : ∀ k, vaultWf (clOf s k) → vaultWf (clOf t k)) (hi : ∀ i, memWf (ccOf s i) → memWf (ccOf t i)) : Sound cmds asked t :=
  ⟨hp.trans h.pending, fun g => ⟨fun c => hc c (h.spad g), fun k => hk k (h.vault g), fun i => hi i (h.mem g)⟩⟩

/-! Parts of the state. -/

theorem cellsWf_filter (p : Host.Cell → Bool) {cs : List Host.Cell} (h : cellsWf cs = true) : cellsWf (cs.filter p) = true := by
  simp only [cellsWf, Bool.and_eq_true, keysRise_iff, List.all_eq_true] at h ⊢
  exact ⟨h.1.filter p, fun x hx => h.2 x (List.mem_filter.1 hx).1⟩
theorem wf_memZero {m : Mem} (h : m.wf = true) (a n : Nat) : (memZero m a n).wf = true := cellsWf_filter _ h

theorem Sound.setCoreMem {c : Nat} {v : CoreState} (h : Sound cmds asked s) (hv : asked → v.spad.wf = true) :
    Sound cmds asked (setCore s c v) := ⟨h.pending, fun g => (h.canonical g).setCore c (hv g)⟩
theorem Sound.setClMem {k : Nat} {v : ClusterState} (h : Sound cmds asked s) (hv : asked → v.vault.wf = true) :
    Sound cmds asked (setCl s k v) := ⟨h.pending, fun g => (h.canonical g).setCl k (hv g)⟩
theorem Sound.setCcMem {i : Nat} {v : CcState} (h : Sound cmds asked s) (hv : asked → v.mem.wf = true) :
    Sound cmds asked (setCc s i v) := ⟨h.pending, fun g => (h.canonical g).setCc i (hv g)⟩
theorem Sound.updCoreWf {c : Nat} {f : CoreState → CoreState} (h : Sound cmds asked s)
    (hf : ∀ v, v.spad.wf = true → (f v).spad.wf = true) :
    Sound cmds asked (Machine.updCore s c f) :=
  h.setCoreMem fun g => hf _ (h.spad g)
theorem Sound.updClWf {k : Nat} {f : ClusterState → ClusterState} (h : Sound cmds asked s)
    (hf : ∀ v, v.vault.wf = true → (f v).vault.wf = true) :
    Sound cmds asked (Machine.updCl s k f) :=
  h.setClMem fun g => hf _ (h.vault g)
theorem Sound.updCcWf {i : Nat} {f : CcState → CcState} (h : Sound cmds asked s)
    (hf : ∀ v, v.mem.wf = true → (f v).mem.wf = true) : Sound cmds asked (Machine.updCc s i f) := h.setCcMem fun g => hf _ (h.mem g)
/-- A core that changes, but for its scratchpad; so for a cluster and its vault, a control core and its memory. -/
theorem Sound.setCore {c : Nat} {v : CoreState} (h : Sound cmds asked s) (hv : v.spad = (coreOf s c).spad := by rfl) :
    Sound cmds asked (setCore s c v) := h.setCoreMem (hv ▸ h.spad)
theorem Sound.setCl {k : Nat} {v : ClusterState} (h : Sound cmds asked s) (hv : v.vault = (clOf s k).vault := by rfl) :
    Sound cmds asked (setCl s k v) := h.setClMem (hv ▸ h.vault)
theorem Sound.setCc {i : Nat} {v : CcState} (h : Sound cmds asked s) (hv : v.mem = (ccOf s i).mem := by rfl) :
    Sound cmds asked (setCc s i v) := h.setCcMem (hv ▸ h.mem)
theorem Sound.updCore {c : Nat} {f : CoreState → CoreState} (h : Sound cmds asked s)
    (hf : ∀ v, (f v).spad = v.spad := by intro; rfl) :
    Sound cmds asked (updCore s c f) := h.setCore (hf _)
theorem Sound.updCl {k : Nat} {f : ClusterState → ClusterState} (h : Sound cmds asked s) (hf : ∀ v, (f v).vault = v.vault :=
  by intro; rfl) :
    Sound cmds asked (updCl s k f) := h.setCl (hf _)
theorem Sound.updCc {i : Nat} {f : CcState → CcState} (h : Sound cmds asked s) (hf : ∀ v, (f v).mem = v.mem := by intro; rfl) :
    Sound cmds asked (updCc s i f) := h.setCc (hf _)

/-! Ops. -/

theorem Sound.setRouter {r : Nat} {v : RouterState} (hs : Sound cmds asked s) :
    Sound cmds asked (Machine.setRouter s r v) := hs.congr rfl rfl rfl rfl
theorem Sound.updRouter {r : Nat} {f : RouterState → RouterState} (hs : Sound cmds asked s) :
    Sound cmds asked (Machine.updRouter s r f) := hs.setRouter
theorem Sound.setSite {d : Nat} {v : SiteState} (hs : Sound cmds asked s) : Sound cmds asked (Machine.setSite s d v) :=
  hs.congr rfl rfl rfl rfl
theorem Sound.updSite {d : Nat} {f : SiteState → SiteState} (hs : Sound cmds asked s) :
    Sound cmds asked (Machine.updSite s d f) := hs.setSite
theorem Sound.setWl {n : Nat} {v : WlState}
    (hs : Sound cmds asked s) : Sound cmds asked (Machine.setWl s n v) := hs.congr rfl rfl rfl rfl
theorem Sound.updWl {n : Nat} {f : WlState → WlState} (hs : Sound cmds asked s) :
    Sound cmds asked (Machine.updWl s n f) := hs.setWl
theorem Sound.setPart {p : Nat} {v : PartState} (hs : Sound cmds asked s) : Sound cmds asked (Machine.setPart s p v) :=
  hs.congr rfl rfl rfl rfl
theorem Sound.updPart {p : Nat} {f : PartState → PartState} (hs : Sound cmds asked s) :
    Sound cmds asked (Machine.updPart s p f) := hs.setPart
theorem Sound.setReq {h : Nat} {v : Request}
    (hs : Sound cmds asked s) : Sound cmds asked (Machine.setReq s h v) := hs.congr rfl rfl rfl rfl
theorem Sound.updReq {h : Nat} {f : Request → Request} (hs : Sound cmds asked s) :
    Sound cmds asked (Machine.updReq s h f) := by
  unfold Machine.updReq
  split
  · exact hs.setReq
  · exact hs
theorem Sound.updHl {d : Nat} {f : HlState → HlState} (hs : Sound cmds asked s) :
    Sound cmds asked (Machine.updHl s d f) := hs.updSite
theorem Sound.updFin {f : Finder → Finder}
    (hs : Sound cmds asked s) : Sound cmds asked (Machine.updFin s f) := hs.congr rfl rfl rfl rfl
theorem Sound.updStw {f : Steward → Steward}
    (hs : Sound cmds asked s) : Sound cmds asked (Machine.updStw s f) := hs.congr rfl rfl rfl rfl
theorem Sound.updMgmt {f : Mgmt → Mgmt}
    (hs : Sound cmds asked s) : Sound cmds asked (Machine.updMgmt s f) := hs.congr rfl rfl rfl rfl
theorem Sound.updSec {f : Security → Security}
    (hs : Sound cmds asked s) : Sound cmds asked (Machine.updSec s f) := hs.congr rfl rfl rfl rfl
theorem Sound.updJob {p : Nat} {f : Job → Job} (hs : Sound cmds asked s) : Sound cmds asked (Machine.updJob s p f) := hs.updPart
theorem Sound.spadWrite {c a : Nat} {b : Bytes} (hs : Sound cmds asked s) : Sound cmds asked (Machine.spadWrite s c a b) :=
  hs.setCoreMem (fun g => wf_memWrite (hs.spad g) ..)
theorem Sound.vaultWrite {k a : Nat} {b : Bytes} (hs : Sound cmds asked s) : Sound cmds asked (Machine.vaultWrite s k a b) :=
  hs.setClMem (fun g => wf_memWrite (hs.vault g) ..)
theorem Sound.setCreg {c off v : Nat} (hs : Sound cmds asked s) : Sound cmds asked (Machine.setCreg s c off v) := hs.updCore
theorem Sound.setKreg {k off v : Nat} (hs : Sound cmds asked s) : Sound cmds asked (Machine.setKreg s k off v) := hs.updCl
theorem Sound.setRreg {r off v : Nat} (hs : Sound cmds asked s) : Sound cmds asked (Machine.setRreg s r off v) := hs.updRouter
theorem Sound.setDreg {d off v : Nat} (hs : Sound cmds asked s) : Sound cmds asked (Machine.setDreg s d off v) := hs.updSite
theorem Sound.setIreg {die off v : Nat} (hs : Sound cmds asked s) : Sound cmds asked (Machine.setIreg s die off v) :=
  hs.congr rfl rfl rfl rfl
theorem Sound.bumpC {c off hi lo n : Nat} (hs : Sound cmds asked s) : Sound cmds asked (Machine.bumpC s c off hi lo n) :=
  Sound.ite hs hs.setCreg
theorem Sound.bumpK {k off hi lo n : Nat} (hs : Sound cmds asked s) : Sound cmds asked (Machine.bumpK s k off hi lo n) :=
  Sound.ite hs hs.setKreg
theorem Sound.bumpR {r off hi lo n : Nat} (hs : Sound cmds asked s) : Sound cmds asked (Machine.bumpR s r off hi lo n) :=
  Sound.ite hs hs.setRreg
theorem Sound.bumpFreeC {c off hi lo : Nat} (hs : Sound cmds asked s) :
    Sound cmds asked (Machine.bumpFreeC s c off hi lo) := by
  unfold Machine.bumpFreeC
  extract_lets _ s1
  have h1 : Sound cmds asked s1 := hs.setCreg
  exact h1.congr rfl rfl rfl rfl
theorem Sound.bumpFreeK {k off hi lo : Nat} (hs : Sound cmds asked s) :
    Sound cmds asked (Machine.bumpFreeK s k off hi lo) := by
  unfold Machine.bumpFreeK
  extract_lets _ s1
  have h1 : Sound cmds asked s1 := hs.setKreg
  exact h1.congr rfl rfl rfl rfl
theorem Sound.peakFreeK {k off hi lo : Nat} (hs : Sound cmds asked s) :
    Sound cmds asked (Machine.peakFreeK s k off hi lo) := by
  unfold Machine.peakFreeK
  extract_lets _ s1
  have h1 : Sound cmds asked s1 := hs.setKreg
  exact h1.congr rfl rfl rfl rfl
theorem Sound.vaultWork {k bursts : Nat} (hs : Sound cmds asked s) : Sound cmds asked (Machine.vaultWork s k bursts) :=
  Sound.ite hs hs.bumpK.peakFreeK
theorem Sound.vaultPass {k a n : Nat} (hs : Sound cmds asked s) : Sound cmds asked (Machine.vaultPass s k a n) := hs.vaultWork
theorem Sound.setObj {ix sub v : Nat}
    (hs : Sound cmds asked s) : Sound cmds asked (Machine.setObj s ix sub v) := hs.congr rfl rfl rfl rfl
theorem Sound.takeFree {n : Nat} (hs : Sound cmds asked s) : Sound cmds asked (Machine.takeFree s n).2 := hs.congr rfl rfl rfl rfl
theorem Sound.freeBytes {n : Nat} (hs : Sound cmds asked s) : Sound cmds asked (Machine.freeBytes s n).2 := hs.takeFree
theorem Sound.emit {rep : Nat} {e : EventRec} (hs : Sound cmds asked s) : Sound cmds asked (Machine.emit s rep e) := by
  unfold Machine.emit
  extract_lets _ _ _ _ _ _ _
  exact hs.congr rfl rfl rfl rfl
theorem Sound.raise {code sev unit rep : Nat} {detail : Bytes} (hs : Sound cmds asked s) :
    Sound cmds asked (Machine.raise s code sev unit rep detail) := hs.emit
theorem Sound.sendCtrl {m : CtrlMsg} (hs : Sound cmds asked s) : Sound cmds asked (Machine.sendCtrl s m) := hs.congr rfl rfl rfl rfl
theorem Sound.landCtrl {m : CtrlMsg} (hs : Sound cmds asked s) : Sound cmds asked (Machine.landCtrl s m) := hs.congr rfl rfl rfl rfl
theorem Sound.setShare {k v : Nat} (hs : Sound cmds asked s) : Sound cmds asked (Machine.setShare s k v) := hs.setKreg
theorem Sound.giveGrants {n k : Nat} (hs : Sound cmds asked s) : Sound cmds asked (Machine.giveGrants n s k) := by
  induction n generalizing s with
  | zero => exact hs
  | succ n ih =>
    unfold Machine.giveGrants
    refine Sound.ite hs ?_
    split
    · exact hs
    · exact ih (Sound.ite hs.setCl.setKreg hs.setCl).bumpFreeK
theorem Sound.regrant {k : Nat} (hs : Sound cmds asked s) : Sound cmds asked (Machine.regrant s k) := Sound.ite hs.giveGrants hs
theorem Sound.requestGrant {k me : Nat} {cls : GrantClass} (hs : Sound cmds asked s) :
    Sound cmds asked (Machine.requestGrant s k me cls) := by
  unfold Machine.requestGrant
  extract_lets _
  exact Sound.ite hs.regrant hs.setCl.regrant
theorem Sound.arbiterShare {k n tag : Nat} (hs : Sound cmds asked s) :
    Sound cmds asked (Machine.arbiterShare s k n tag) := by
  unfold Machine.arbiterShare
  extract_lets _ s1 s2 s3 s4
  have h1 : Sound cmds asked s1 := hs.updCl
  have h2 : Sound cmds asked s2 := hs.updCl
  have h3 : Sound cmds asked s3 := hs.updCl
  have h4 : Sound cmds asked s4 := hs.updCl
  refine Sound.ite ?_ ?_
  · exact hs.setShare
  · exact Sound.ite (Sound.ite hs h1.setShare) (Sound.ite h2.setShare (Sound.ite h3.setShare (Sound.ite h4.setShare hs)))
theorem Sound.arbiterDoorbell {k n tag : Nat} (hs : Sound cmds asked s) :
    Sound cmds asked (Machine.arbiterDoorbell s k n tag) := Sound.ite hs.arbiterShare.regrant hs
theorem Sound.doorbellAt {i n tag : Nat} (hs : Sound cmds asked s) : Sound cmds asked (Machine.doorbellAt s i n tag) :=
  hs.updCc (fun _ => by simp)
theorem Sound.finderBell {i n tag : Nat} (hs : Sound cmds asked s) : Sound cmds asked (Machine.finderBell s i n tag) :=
  Sound.ite hs.doorbellAt.arbiterDoorbell hs.doorbellAt
theorem Sound.finderBroadcast {n tag : Nat} {ccs : List Nat} (hs : Sound cmds asked s) :
    Sound cmds asked (Machine.finderBroadcast s n tag ccs) := hs.congr rfl rfl rfl rfl
theorem Sound.setSem {c n v : Nat} (hs : Sound cmds asked s) : Sound cmds asked (Machine.setSem s c n v) := hs.updCore
theorem Sound.signalSem {c n count : Nat} {by_ : Option (Nat × Nat)} (hs : Sound cmds asked s) :
    Sound cmds asked (Machine.signalSem s c n count by_).1 := by
  unfold Machine.signalSem
  split
  · exact hs.setSem
  · exact hs.setSem.emit.doorbellAt

/-! Banks. -/

theorem Sound.bankTraffic {c : Nat} (hs : Sound cmds asked s) : Sound cmds asked (Machine.bankTraffic s c) := by
  unfold Machine.bankTraffic
  extract_lets _ _ _ s1
  have h1 : Sound cmds asked s1 := hs.setCreg.setCreg
  exact h1.congr rfl rfl rfl rfl

/-! Cache. -/

theorem Sound.placeAt {d : SweepDesc} {h n len : Nat} {phys : Nat × Nat → Nat} {l : List Nat} (hs : Sound cmds asked s) :
    SoundOpt cmds asked (Machine.placeAt d h n len phys l s) := by
  induction l generalizing s with
  | nil => exact hs.some
  | cons c l ih =>
    unfold Machine.placeAt
    refine SoundOpt.ite (ih hs) ?_
    extract_lets count
    split
    · exact SoundOpt.none
    · exact ih hs.updCl.vaultWrite
theorem Sound.placeExtents {d : SweepDesc} {h n len : Nat} {phys : Nat × Nat → Nat} (hs : Sound cmds asked s) :
    SoundOpt cmds asked (Machine.placeExtents d h n len phys s) := hs.placeAt
theorem Sound.freeExtents {d : Option SweepDesc} {clusters : List Nat} {h : Nat} (hs : Sound cmds asked s) :
    Sound cmds asked (Machine.freeExtents s d clusters h) := by
  unfold Machine.freeExtents
  refine hs.foldl fun _ ht => ?_
  extract_lets _ s2
  have h2 : Sound cmds asked s2 := ht.updCl
  split
  · exact h2
  · exact h2.foldl (fun _ ht2 => ht2.vaultWrite)
theorem Sound.writeCache {p : Nat} {j : Job} {d : SweepDesc} {h n reserved len : Nat} {body : Bytes}
    (hs : Sound cmds asked s) :
    Sound cmds asked (Machine.writeCache s p j d h n reserved len body) := by
  unfold Machine.writeCache
  extract_lets _
  refine hs.foldl fun _ ht => ?_
  refine ht.foldl fun _ ht1 => ?_
  split
  · exact ht1.vaultWrite
  · exact ht1

/-! Serving. -/

theorem Sound.updRegion {p r : Nat} {f : RegionRun → RegionRun} (hs : Sound cmds asked s) :
    Sound cmds asked (Machine.updRegion s p r f) := hs.updJob
theorem Sound.stwEvent {code sev : Nat} {p : Option Nat} {req : Option Nat} {detail : Bytes} (hs : Sound cmds asked s) :
    Sound cmds asked (Machine.stwEvent s code sev p req detail) := by
  unfold Machine.stwEvent
  extract_lets _ _
  exact hs.emit
theorem Sound.portEvent {n code sev : Nat} {detail : Bytes} (hs : Sound cmds asked s) :
    Sound cmds asked (Machine.portEvent s n code sev detail) := hs.raise
theorem Sound.finderEvent {code sev unit : Nat} {detail : Bytes} (hs : Sound cmds asked s) :
    Sound cmds asked (Machine.finderEvent s code sev unit detail) := hs.raise
theorem Sound.wlPost {n : Nat} {m : HostMsg} (hs : Sound cmds asked s) : Sound cmds asked (Machine.wlPost s n m) := hs.updWl
theorem Sound.hostWrite {n addr : Nat} {b : Bytes} (hs : Sound cmds asked s) :
    Sound cmds asked (Machine.hostWrite s n addr b) := hs.foldl (fun _ ht => ht.wlPost)
theorem Sound.hostRead {n addr len : Nat} {why : ReadFor} (hs : Sound cmds asked s) :
    Sound cmds asked (Machine.hostRead s n addr len why) := by
  unfold Machine.hostRead
  extract_lets _ _
  exact hs.updWl.wlPost
theorem Sound.hostFetch {n addr len got : Nat} (hs : Sound cmds asked s) :
    Sound cmds asked (Machine.hostFetch s n addr len got) := hs.foldl (fun _ ht => ht.updWl.wlPost)
theorem Sound.queueWrite {q units : Nat} {b : Bytes} (hs : Sound cmds asked s) :
    Sound cmds asked (Machine.queueWrite s q units b) := by
  unfold Machine.queueWrite
  split
  · exact hs
  · extract_lets _ _ s1 s2
    have h1 : Sound cmds asked s1 := hs.hostWrite
    have h2 : Sound cmds asked s2 := h1.hostWrite
    exact h2.updWl
theorem Sound.logPost {q : Nat} {bs : Bytes} (hs : Sound cmds asked s) : Sound cmds asked (Machine.logPost s q bs) := by
  unfold Machine.logPost
  split
  · exact hs
  · extract_lets _ _ s1
    have h1 : Sound cmds asked s1 := Sound.ite hs hs.queueWrite
    exact h1.queueWrite
theorem Sound.logFlush {l : List Bytes} {p k : Nat} (hs : Sound cmds asked s) : Sound cmds asked (Machine.logFlush l s p k) := by
  induction l generalizing s with
  | nil => exact hs.updPart
  | cons b l ih => exact Sound.ite (ih hs.logPost) hs.updPart
theorem Sound.logStall {p : Nat}
    (hs : Sound cmds asked s) : Sound cmds asked (Machine.logStall s p) := Sound.ite hs hs.updPart.stwEvent
theorem Sound.logInput {p type flags : Nat} {req index : Option Nat} {payload : Bytes} (hs : Sound cmds asked s) :
    Sound cmds asked (Machine.logInput s p type flags req index payload) := by
  unfold Machine.logInput
  split
  · extract_lets _ s1
    have h1 : Sound cmds asked s1 := hs.updPart
    exact Sound.ite h1.logPost h1.updPart.logStall
  · exact hs
theorem Sound.logPause {p h : Nat} (hs : Sound cmds asked s) : Sound cmds asked (Machine.logPause s p h) := by
  unfold Machine.logPause
  split
  · extract_lets _
    exact hs.freeBytes.logInput
  · exact hs
theorem Sound.foldReq {h type : Nat} {payload : Bytes} (hs : Sound cmds asked s) :
    Sound cmds asked (Machine.foldReq s h type payload) := hs.updReq
theorem Sound.foldJob {p type : Nat} {payload : Bytes} (hs : Sound cmds asked s) :
    Sound cmds asked (Machine.foldJob s p type payload) := hs.updJob
theorem Sound.flushRecs {l kept : List (BitVec 16 × Option Nat × Bytes)} {n : Nat} (hs : Sound cmds asked s) :
    Sound cmds asked (Machine.flushRecs l s n kept) := by
  induction l generalizing s kept with
  | nil => exact hs.updWl
  | cons e l ih =>
    unfold Machine.flushRecs
    refine Sound.ite (ih ?_) (ih hs)
    have hq := hs.queueWrite (q := e.1.toNat) (units := 1) (b := e.2.2)
    split
    · split
      · exact Sound.ite (hq.congr rfl rfl rfl rfl) hq
      · exact hq
    · exact hq
theorem Sound.flushHeld {n : Nat} (hs : Sound cmds asked s) : Sound cmds asked (Machine.flushHeld s n) := hs.flushRecs
theorem Sound.postRec {q : Nat} {slot : Option Nat} {bs : Bytes} (hs : Sound cmds asked s) :
    Sound cmds asked (Machine.postRec s q slot bs) := by
  unfold Machine.postRec
  extract_lets _
  exact hs.updWl.flushHeld
theorem Sound.postAnswer {cmdQueue cq part : Nat} {bs : Bytes} (hs : Sound cmds asked s) :
    Sound cmds asked (Machine.postAnswer s cmdQueue cq part bs) := by
  unfold Machine.postAnswer
  extract_lets _ _
  refine Sound.ite ?_ ?_
  · exact hs.postRec
  · split
    · exact hs.postRec
    · exact hs
theorem Sound.foldEnd {h reason stop : Nat} (hs : Sound cmds asked s) :
    Sound cmds asked (Machine.foldEnd s h reason stop) := by
  unfold Machine.foldEnd
  split
  · extract_lets s1
    have h1 : Sound cmds asked s1 := Sound.ite hs.setReq hs
    exact h1.foldReq
  · exact hs
theorem Sound.dropImage {h : Nat} (hs : Sound cmds asked s) : Sound cmds asked (Machine.dropImage s h) := hs.congr rfl rfl rfl rfl
theorem Sound.dropExtents {p h : Nat} (hs : Sound cmds asked s) : Sound cmds asked (Machine.dropExtents s p h) := by
  unfold Machine.dropExtents
  extract_lets s1
  have h1 : Sound cmds asked s1 := hs.freeExtents
  exact h1.freeExtents
theorem Sound.dropReads {h : Nat} (hs : Sound cmds asked s) : Sound cmds asked (Machine.dropReads s h) := by
  unfold Machine.dropReads
  extract_lets _
  exact hs.congr rfl rfl rfl rfl
theorem Sound.dropShards {p : Nat} {digest : Bytes} (hs : Sound cmds asked s) :
    Sound cmds asked (Machine.dropShards s p digest) := hs.foldl (fun _ ht => (Sound.ite ht.updCl ht))
theorem Sound.retireCheck {p : Nat} (hs : Sound cmds asked s) : Sound cmds asked (Machine.retireCheck s p) := by
  unfold Machine.retireCheck
  split
  · exact hs
  · exact Sound.ite hs (Sound.ite hs hs.dropShards).updPart.logInput.stwEvent
theorem Sound.noteDraft {p : Nat} {digest : Bytes} (hs : Sound cmds asked s) :
    Sound cmds asked (Machine.noteDraft s p digest) := by
  unfold Machine.noteDraft
  extract_lets _ s1
  have h1 : Sound cmds asked s1 := by
    simp only [s1]
    refine hs.foldl fun _ ht1 => ?_
    split
    · exact Sound.ite ht1.foldReq ht1
    · exact ht1
  exact h1.logInput
theorem Sound.unloadDraft {p : Nat} {x : Draft} (hs : Sound cmds asked s) :
    Sound cmds asked (Machine.unloadDraft s p x) := by
  unfold Machine.unloadDraft
  extract_lets s1 s2 s4
  have h1 : Sound cmds asked s1 := hs.updPart
  have h2 : Sound cmds asked s2 := h1.foldl (fun _ ht2 => ht2.freeExtents)
  have h4 : Sound cmds asked s4 := h2.updJob
  exact Sound.ite h4.noteDraft h4
theorem Sound.draftCheck {p : Nat} (hs : Sound cmds asked s) : Sound cmds asked (Machine.draftCheck s p) := by
  unfold Machine.draftCheck
  split
  · exact Sound.ite hs.unloadDraft hs
  · exact hs
theorem Sound.leaveDraft {p : Nat} {x : Draft} (hs : Sound cmds asked s) : Sound cmds asked (Machine.leaveDraft s p x) :=
  hs.updJob.draftCheck
theorem Sound.dropTokens {p h : Nat} (hs : Sound cmds asked s) : Sound cmds asked (Machine.dropTokens s p h) := hs.updJob
theorem Sound.endRequest {h : Nat} {st : ReqState} {reason stop answer event : Nat} (hs : Sound cmds asked s) :
    Sound cmds asked (Machine.endRequest s h st reason stop answer event) := by
  unfold Machine.endRequest
  split
  · exact hs
  · refine Sound.ite ?_ ?_
    · exact hs
    · extract_lets _ s1 s2 s3 s4
      have h1 : Sound cmds asked s1 := hs.setReq
      have h2 : Sound cmds asked s2 := (Sound.ite h1 h1.dropReads).dropTokens
      have h3 : Sound cmds asked s3 := h2.foldEnd.dropExtents.dropImage
      have h4 : Sound cmds asked s4 := Sound.ite h3.stwEvent h3
      split
      · exact h4.postRec.retireCheck.draftCheck
      · exact h4
theorem Sound.keepStop {h stop answer : Nat} (hs : Sound cmds asked s) :
    Sound cmds asked (Machine.keepStop s h stop answer) := by
  unfold Machine.keepStop
  split
  · exact hs
  · extract_lets s1 s2
    have h1 : Sound cmds asked s1 := hs.setReq
    have h2 : Sound cmds asked s2 := h1.foldEnd
    split
    · exact h2.postRec
    · exact h2
theorem Sound.countToken {h : Nat} {id : Nat} (hs : Sound cmds asked s) : Sound cmds asked (Machine.countToken s h id) := by
  unfold Machine.countToken
  split
  · exact hs
  · exact Sound.ite hs.setReq (Sound.ite hs.setReq hs.setReq.stwEvent)
theorem Sound.foldMask {h at_ : Nat} {bitmap : Bytes} (hs : Sound cmds asked s) :
    Sound cmds asked (Machine.foldMask s h at_ bitmap) := hs.foldReq
theorem Sound.foldMasks {h : Nat} (hs : Sound cmds asked s) : Sound cmds asked (Machine.foldMasks s h) := by
  unfold Machine.foldMasks
  split
  · exact hs.foldl (fun _ ht => ht.foldMask)
  · exact hs
theorem Sound.applyMask {h at_ : Nat} {bitmap : Bytes} (hs : Sound cmds asked s) :
    Sound cmds asked (Machine.applyMask s h at_ bitmap) := by
  unfold Machine.applyMask
  split
  · exact hs
  · extract_lets s1 s2
    have h1 : Sound cmds asked s1 := hs.setReq
    have h2 : Sound cmds asked s2 := h1.logInput
    exact Sound.ite h2.foldMask h2
theorem Sound.cancelNow {h : Nat} (hs : Sound cmds asked s) : Sound cmds asked (Machine.cancelNow s h) := by
  unfold Machine.cancelNow
  split
  · exact hs
  · extract_lets s1
    have h1 : Sound cmds asked s1 := hs.logInput
    exact h1.endRequest
theorem Sound.applyCancel {h : Nat} {q cq : BitVec 16} (hs : Sound cmds asked s) :
    Sound cmds asked (Machine.applyCancel s h q cq) := by
  unfold Machine.applyCancel
  split
  · exact hs
  · exact Sound.ite (Sound.ite hs hs.setReq) hs.cancelNow
theorem Sound.expireReq {h : Nat} (hs : Sound cmds asked s) : Sound cmds asked (Machine.expireReq s h) := by
  unfold Machine.expireReq
  split
  · exact hs
  · extract_lets s1 s2
    have h1 : Sound cmds asked s1 := hs.stwEvent
    have h2 : Sound cmds asked s2 := h1.logInput
    exact h2.endRequest
theorem Sound.applyContinue {h : Nat} {entry : Bytes} {tokens : List W32} (hs : Sound cmds asked s) :
    Sound cmds asked (Machine.applyContinue s h entry tokens) := by
  unfold Machine.applyContinue
  split
  · exact hs
  · extract_lets _ _ _ s1 s2 s3
    have h1 : Sound cmds asked s1 := hs.logInput
    have h2 : Sound cmds asked s2 := h1.foldReq
    have h3 : Sound cmds asked s3 := h2.updReq
    exact Sound.ite (h3.foldl (fun _ ht3 => ht3.countToken)) h3
theorem Sound.applyRelease {h : Nat} (hs : Sound cmds asked s) : Sound cmds asked (Machine.applyRelease s h) := by
  unfold Machine.applyRelease
  split
  · exact hs
  · exact hs.logInput.endRequest
theorem Sound.applyInput {h type : Nat} {payload : Bytes} (hs : Sound cmds asked s) :
    Sound cmds asked (Machine.applyInput s h type payload) := by
  unfold Machine.applyInput
  refine Sound.ite ?_ ?_
  · exact hs.applyMask
  · exact Sound.ite (Sound.ite hs.expireReq hs.applyCancel) (Sound.ite hs.applyContinue (Sound.ite hs.applyRelease hs))
theorem Sound.applyInputs {h : Nat} (hs : Sound cmds asked s) : Sound cmds asked (Machine.applyInputs s h) := by
  unfold Machine.applyInputs
  split
  · exact hs
  · extract_lets _ s1
    have h1 : Sound cmds asked s1 := hs.setReq
    exact h1.foldl (fun _ ht1 => ht1.applyInput)
theorem Sound.commitDecide {h stop : Nat} (hs : Sound cmds asked s) : Sound cmds asked (Machine.commitDecide s h stop) := by
  unfold Machine.commitDecide
  split
  · exact hs
  · extract_lets _ _ _ s1 s2 _ s3 s4 s5
    have h1 : Sound cmds asked s1 := Sound.ite hs.logStall hs
    have h2 : Sound cmds asked s2 := Sound.ite h1.logInput h1
    have h3 : Sound cmds asked s3 := h1.logInput
    have h4 : Sound cmds asked s4 := h1.setReq
    have h5 : Sound cmds asked s5 := Sound.ite h4 h4.stwEvent
    exact Sound.ite (Sound.ite h2.keepStop h2.endRequest) (Sound.ite h3.endRequest (Sound.ite h1 h5.logPause))
theorem Sound.heldCancels (hs : Sound cmds asked s) : Sound cmds asked (Machine.heldCancels s) := hs.foldl (fun _ ht => ht.cancelNow)
theorem Sound.commitPoint {h : Nat} {bs : Bytes} (hs : Sound cmds asked s) :
    Sound cmds asked (Machine.commitPoint s h bs) := by
  unfold Machine.commitPoint
  split
  · exact hs
  · extract_lets _ _ _ s1 s2 s3 s4
    have h1 : Sound cmds asked s1 := hs.setReq
    have h2 : Sound cmds asked s2 := h1.updStw
    have h3 : Sound cmds asked s3 := Sound.ite h2 h2.countToken
    have h4 : Sound cmds asked s4 := h3.commitDecide.heldCancels
    split
    · exact Sound.ite h4 h4.foldMasks.applyInputs
    · exact h4
theorem Sound.drainEnd {c : Nat} (hs : Sound cmds asked s) : Sound cmds asked (Machine.drainEnd s c) := by
  unfold Machine.drainEnd
  extract_lets _ _
  exact Sound.ite hs.setCore.doorbellAt hs
theorem Sound.haltSeq {c : Nat} (hs : Sound cmds asked s) : Sound cmds asked (Machine.haltSeq s c) := by
  unfold Machine.haltSeq
  extract_lets _
  exact Sound.ite hs.setCore.drainEnd hs
theorem Sound.haltPart {p : Nat}
    (hs : Sound cmds asked s) : Sound cmds asked (Machine.haltPart s p) := hs.foldl (fun _ ht => ht.haltSeq)
theorem Sound.setTheta {p : Nat} {theta : F32} {warm : Bool} (hs : Sound cmds asked s) :
    Sound cmds asked (Machine.setTheta s p theta warm) := by
  unfold Machine.setTheta
  extract_lets _ s1
  have h1 : Sound cmds asked s1 := hs.updPart
  exact Sound.ite h1 h1.stwEvent
theorem Sound.adjustTheta {p : Nat} {j : Job} (hs : Sound cmds asked s) : Sound cmds asked (Machine.adjustTheta s p j) := by
  unfold Machine.adjustTheta
  extract_lets _ _ _ _ _ _ _ _
  exact Sound.ite hs hs.setTheta
theorem Sound.instarEnd {p : Nat} {i : Instar} {done : Bool} {event : Nat} (hs : Sound cmds asked s) :
    Sound cmds asked (Machine.instarEnd s p i done event) := by
  unfold Machine.instarEnd
  extract_lets _ _ s1
  have h1 : Sound cmds asked s1 := hs.stwEvent
  exact h1.postRec
theorem Sound.hlEvent {d code sev : Nat} {detail : Bytes} (hs : Sound cmds asked s) :
    Sound cmds asked (Machine.hlEvent s d code sev detail) := hs.raise
theorem Sound.hlUp {d st : Nat} (hs : Sound cmds asked s) : Sound cmds asked (Machine.hlUp s d st) := hs.updHl.hlEvent
theorem Sound.endHops {p : Nat} (hs : Sound cmds asked s) : Sound cmds asked (Machine.endHops s p) :=
  hs.foldl (fun _ ht => (Sound.ite (Sound.ite ht.updHl ht).hlUp.hlEvent (Sound.ite ht.updHl ht)))
theorem Sound.endJob {p reason event : Nat} (hs : Sound cmds asked s) :
    Sound cmds asked (Machine.endJob s p reason event) := by
  unfold Machine.endJob
  split
  · exact hs
  · extract_lets s1 s3 _ s4 s5 s6 s7 s8
    have h1 : Sound cmds asked s1 := hs.foldl (fun _ ht1 => ht1.endRequest)
    have h3 : Sound cmds asked s3 := h1.haltPart
    have h4 : Sound cmds asked s4 := by
      simp only [s4]
      split
      · exact h3.foldJob.instarEnd
      · exact h3.freeBytes.foldJob
    have h5 : Sound cmds asked s5 := h4.logInput
    have h6 : Sound cmds asked s6 := Sound.ite h5.adjustTheta h5
    have h7 : Sound cmds asked s7 := Sound.ite (h6.congr rfl rfl rfl rfl) h6
    have h8 : Sound cmds asked s8 := h7.endHops
    exact h8.updPart
theorem Sound.programEnd {p : Nat} (hs : Sound cmds asked s) : Sound cmds asked (Machine.programEnd s p) := hs.endJob

/-! CoreOps. -/

theorem Sound.failCommand {c queue index code opc operand : Nat} (hs : Sound cmds asked s) :
    Sound cmds asked (Machine.failCommand s c queue index code opc operand) := by
  unfold Machine.failCommand
  extract_lets _ s1 s2 _ _ s3
  have h1 : Sound cmds asked s1 := hs.updCore (fun _ => by simp)
  have h2 : Sound cmds asked s2 := h1.setCreg
  have h3 : Sound cmds asked s3 := h2.emit.doorbellAt
  refine Sound.ite ?_ ?_
  · split
    · exact h3.programEnd
    · exact h3
  · exact h3
theorem Sound.finishToken {c queue index opc : Nat} {token : Option Nat} (hs : Sound cmds asked s) :
    Sound cmds asked (Machine.finishToken s c queue index opc token) := by
  unfold Machine.finishToken
  split
  · exact hs
  · extract_lets _
    exact Sound.ite hs.signalSem.failCommand hs.signalSem
theorem Sound.popEngine {c queue : Nat} (hs : Sound cmds asked s) : Sound cmds asked (Machine.popEngine s c queue) :=
  (hs.updCore (fun _ => by simp)).bankTraffic

/-- The state that an engine's command leaves is sound. -/
inductive SoundRes (cmds : List Instr) (asked : Prop) : EngRes → Prop
  | done {s : State} (h : Sound cmds asked s) : SoundRes cmds asked (.done s)
  | left {s : State} (h : Sound cmds asked s) : SoundRes cmds asked (.left s)
  | fail {s : State} {code operand : Nat} (h : Sound cmds asked s) : SoundRes cmds asked (.fail s code operand)
  | wait {s : State} (h : Sound cmds asked s) : SoundRes cmds asked (.wait s)
  | hold : SoundRes cmds asked .hold
theorem Sound.done (h : Sound cmds asked s) : SoundRes cmds asked (.done s) := SoundRes.done h
theorem Sound.left (h : Sound cmds asked s) : SoundRes cmds asked (.left s) := SoundRes.left h
theorem Sound.fail {code operand : Nat} (h : Sound cmds asked s) : SoundRes cmds asked (.fail s code operand) := SoundRes.fail h
theorem Sound.wait (h : Sound cmds asked s) : SoundRes cmds asked (.wait s) := SoundRes.wait h
theorem SoundRes.ite {c : Prop} [Decidable c] {o p : EngRes} (h : SoundRes cmds asked o) (g : SoundRes cmds asked p) :
    SoundRes cmds asked (if c then o else p) := by split <;> assumption

theorem Sound.runEngine {c queue opc : Nat} {body : State → Issued → Nat → EngRes} (hs : Sound cmds asked s)
    (hbody : ∀ {t} a1 a2, Sound cmds asked t → SoundRes cmds asked (body t a1 a2)) :
    Sound cmds asked (Machine.runEngine s c queue opc body) := by
  unfold Machine.runEngine
  split
  · exact hs
  · next i _ _ =>
    extract_lets w
    have hr : SoundRes cmds asked (body s i w) := hbody _ _ hs
    refine Sound.ite hs (Sound.ite hs.failCommand ?_)
    generalize body s i w = r at hr
    cases hr with
    | hold => exact hs
    | wait ht => exact ht
    | fail ht => exact ht.failCommand
    | left ht => exact ht.popEngine.drainEnd
    | done ht => exact ht.popEngine.finishToken.drainEnd
theorem Sound.opRead {c g n operand : Nat} {k : Bytes → EngRes}
    (hs : Sound cmds asked s) (hk : ∀ a, SoundRes cmds asked (k a)) :
    SoundRes cmds asked (Machine.opRead s c g n operand k) := SoundRes.ite hs.fail (SoundRes.ite hs.fail (hk _))
theorem Sound.opRoom {g n operand : Nat} {k : EngRes} (hs : Sound cmds asked s) (hk : SoundRes cmds asked k) :
    SoundRes cmds asked (Machine.opRoom s g n operand k) := SoundRes.ite hs.fail hk
theorem Sound.opDesc {c g size reserved : Nat} {k : Nat → EngRes}
    (hs : Sound cmds asked s) (hk : ∀ a, SoundRes cmds asked (k a)) :
    SoundRes cmds asked (Machine.opDesc s c g size reserved k) :=
  SoundRes.ite hs.fail (hs.opRead (fun _ => (SoundRes.ite hs.fail (hk _))))
theorem Sound.spadWritePadded {c a : Nat} {b : Bytes} (hs : Sound cmds asked s) :
    Sound cmds asked (Machine.spadWritePadded s c a b) := Sound.ite hs.spadWrite hs.freeBytes.spadWrite
theorem Sound.vaultEcc {k a n : Nat} {e : EccObs} (hs : Sound cmds asked s) :
    Sound cmds asked (Machine.vaultEcc s k a n e) := by
  unfold Machine.vaultEcc
  extract_lets _ s1 s2 s3
  have h1 : Sound cmds asked s1 := hs.bumpK.bumpK.bumpK
  have h2 : Sound cmds asked s2 := Sound.ite h1 h1.raise.doorbellAt
  have h3 : Sound cmds asked s3 := h2.updClWf (fun _ hm => wf_memPoison hm _)
  exact Sound.ite h2 h3.raise.doorbellAt
theorem Sound.spadEcc {c a n : Nat} {e : EccObs} (hs : Sound cmds asked s) :
    Sound cmds asked (Machine.spadEcc s c a n e) := by
  unfold Machine.spadEcc
  extract_lets _ _ s1 s2 s3
  have h1 : Sound cmds asked s1 := hs.bumpC.bumpC.bumpC
  have h2 : Sound cmds asked s2 := Sound.ite h1 h1.raise.doorbellAt
  have h3 : Sound cmds asked s3 := h2.updCoreWf (fun _ hm => wf_memPoison hm _)
  exact Sound.ite h2 h3.raise.doorbellAt
theorem Sound.coreRequests {c : Nat} {cls : GrantClass} (hs : Sound cmds asked s) :
    Sound cmds asked (Machine.coreRequests s c cls) := hs.foldl (fun _ ht => ht.requestGrant)
theorem Sound.countNonFinite {c index opc nonfinite overflow : Nat} (hs : Sound cmds asked s) :
    Sound cmds asked (Machine.countNonFinite s c index opc nonfinite overflow) := by
  unfold Machine.countNonFinite
  refine Sound.ite ?_ ?_
  · exact hs
  · extract_lets s1 _ s2 _
    have h1 : Sound cmds asked s1 := hs.bumpC.bumpC
    have h2 : Sound cmds asked s2 := by
      simp only [s2]
      split
      · exact h1.updRegion
      · exact h1.updCore
    exact Sound.ite h1 h2.emit

/-! SeqCmds. -/

theorem Sound.runSeq {c opc : Nat} {body : State → Nat → EngRes} (hs : Sound cmds asked s)
    (hbody : ∀ {t} a1, Sound cmds asked t → SoundRes cmds asked (body t a1)) : Sound cmds asked (Machine.runSeq s c opc body) := by
  unfold Machine.runSeq
  extract_lets ix w
  have hr : SoundRes cmds asked (body s w) := hbody _ hs
  refine Sound.ite hs (Sound.ite hs (Sound.ite hs (Sound.ite hs.failCommand ?_)))
  generalize body s w = r at hr
  cases hr with
  | hold => exact hs
  | wait ht => exact ht
  | fail ht => exact ht.failCommand
  | left ht => exact ht
  | done ht => exact ht.finishToken.drainEnd

/-- The next state of an outcome, if there is one, is sound. -/
inductive SoundOut (cmds : List Instr) (asked : Prop) : Out → Prop
  | next {s : State} (h : Sound cmds asked s) : SoundOut cmds asked (.next s)
  | fault (f : Fault) : SoundOut cmds asked (.fault f)
theorem Sound.next (h : Sound cmds asked s) : SoundOut cmds asked (.next s) := SoundOut.next h
theorem SoundOut.sound (h : SoundOut cmds asked (.next s)) : Sound cmds asked s := by
  cases h with
  | next h => exact h
theorem SoundOut.ite {c : Prop} [Decidable c] {o p : Out} (h : SoundOut cmds asked o) (g : SoundOut cmds asked p) :
    SoundOut cmds asked (if c then o else p) := by split <;> assumption

theorem Sound.execSequencerIssue {c : CoreId} (hs : Sound cmds asked s) : SoundOut cmds asked (Machine.execSequencerIssue c s) := by
  unfold Machine.execSequencerIssue
  extract_lets c v w i
  refine Sound.next (Sound.ite hs ?_)
  split
  · exact hs.failCommand
  · split
    · exact hs.failCommand
    · exact hs
    · exact Sound.ite hs (hs.setCore (setQueue_spad ..))
theorem Sound.execNop {c : CoreId} (hs : Sound cmds asked s) : SoundOut cmds asked (Machine.execNop c s) :=
  (hs.runSeq (fun _ ht => ht.updCore.done)).next
theorem Sound.execWait {c : CoreId} (hs : Sound cmds asked s) : SoundOut cmds asked (Machine.execWait c s) :=
  (hs.runSeq (fun _ ht => (SoundRes.ite ht.setSem.updCore.done ht.updCore.wait))).next
theorem Sound.execSignal {c : CoreId} (hs : Sound cmds asked s) : SoundOut cmds asked (Machine.execSignal c s) :=
  (hs.runSeq (fun _ ht => (SoundRes.ite ht.signalSem.fail ht.signalSem.updCore.done))).next
theorem Sound.execFence {c : CoreId} (hs : Sound cmds asked s) : SoundOut cmds asked (Machine.execFence c s) :=
  (hs.runSeq (fun _ ht => (SoundRes.ite ht.updCore.done SoundRes.hold))).next
theorem Sound.jumpTo {c target : Nat} (hs : Sound cmds asked s) : SoundRes cmds asked (Machine.jumpTo s c target) :=
  SoundRes.ite hs.fail hs.updCore.done
theorem Sound.execJump {c : CoreId} (hs : Sound cmds asked s) : SoundOut cmds asked (Machine.execJump c s) :=
  (hs.runSeq (fun _ ht => (SoundRes.ite ht.jumpTo ht.setSem.updCore.done))).next
theorem Sound.execStep {c : CoreId} (hs : Sound cmds asked s) : SoundOut cmds asked (Machine.execStep c s) :=
  (hs.runSeq (fun _ ht => ht.setCreg.updCore.done)).next
theorem Sound.execEndCmd {c : CoreId} (hs : Sound cmds asked s) : SoundOut cmds asked (Machine.execEndCmd c s) :=
  (hs.runSeq (fun _ ht => ht.updCore.done)).next
theorem Sound.execXsel {c : CoreId} (hs : Sound cmds asked s) : SoundOut cmds asked (Machine.execXsel c s) := by
  unfold Machine.execXsel
  refine Sound.next ?_
  refine hs.runSeq (fun _ ht => ?_)
  extract_lets _
  refine ht.opRead (fun _ => ?_)
  extract_lets _ _
  exact SoundRes.ite ht.fail (SoundRes.ite ht.setCreg.signalSem.fail ht.setCreg.signalSem.updCore.done)
theorem Sound.execXnext {c : CoreId} (hs : Sound cmds asked s) : SoundOut cmds asked (Machine.execXnext c s) :=
  (hs.runSeq (fun _ ht => (SoundRes.ite ht.fail ht.setCreg.updCore.done))).next
theorem Sound.startSeq {c : Nat} {base : Option (BitVec 17)} {index : Nat} (hs : Sound cmds asked s) :
    Sound cmds asked (Machine.startSeq s c base index) := hs.updCore
theorem Sound.clearErr {c : Nat} (hs : Sound cmds asked s) : Sound cmds asked (Machine.clearErr s c) := Sound.ite hs hs.setCreg
theorem Sound.execSeqRun {c : CoreId} {base : BitVec 17} (hs : Sound cmds asked s) :
    SoundOut cmds asked (Machine.execSeqRun c base s) := (Sound.ite hs hs.clearErr.startSeq).next
theorem Sound.execSeqHalt {c : CoreId} (hs : Sound cmds asked s) : SoundOut cmds asked (Machine.execSeqHalt c s) := hs.haltSeq.next
theorem Sound.execSeqResume {c : CoreId} {index : BitVec 17} (hs : Sound cmds asked s) :
    SoundOut cmds asked (Machine.execSeqResume c index s) := (Sound.ite hs hs.clearErr.setCreg.startSeq).next
theorem Sound.execGrantRelease {cl : ClusterId} {me : Fin 64} (hs : Sound cmds asked s) :
    SoundOut cmds asked (Machine.execGrantRelease cl me s) := by
  unfold Machine.execGrantRelease
  extract_lets _ _ s1 _
  have h1 : Sound cmds asked s1 := Sound.ite hs.bumpK hs
  refine Sound.next ?_
  split
  · exact hs
  · extract_lets s2
    have h2 : Sound cmds asked s2 := h1.updCl
    exact Sound.ite h2.requestGrant h2.regrant
theorem Sound.execEngineClockGate {c : CoreId} (hs : Sound cmds asked s) :
    SoundOut cmds asked (Machine.execEngineClockGate c s) := by
  unfold Machine.execEngineClockGate
  extract_lets _
  exact (Sound.ite hs.setCore hs).next

/-! Fences. -/

theorem Sound.setLinkDown {r p : Nat} {down : Bool} (hs : Sound cmds asked s) :
    Sound cmds asked (Machine.setLinkDown s r p down) := by
  unfold Machine.setLinkDown
  extract_lets _
  exact hs.setRreg
theorem Sound.bothEnds {r p : Nat} {down : Bool} (hs : Sound cmds asked s) :
    Sound cmds asked (Machine.bothEnds s r p down) := by
  unfold Machine.bothEnds
  extract_lets s1
  have h1 : Sound cmds asked s1 := hs.setLinkDown
  split
  · exact h1.setLinkDown
  · exact h1
theorem Sound.noteFence {u cause : Nat} (hs : Sound cmds asked s) : Sound cmds asked (Machine.noteFence s u cause) := by
  unfold Machine.noteFence
  extract_lets _ _ _ s1 s2
  have h1 : Sound cmds asked s1 := Sound.ite hs.updStw hs
  have h2 : Sound cmds asked s2 := h1.raise
  exact Sound.ite h2.finderBroadcast h2
theorem Sound.setFenceBit {k bit : Nat} (hs : Sound cmds asked s) : Sound cmds asked (Machine.setFenceBit s k bit) := hs.setKreg
theorem Sound.closeCore {c : Nat} (hs : Sound cmds asked s) : Sound cmds asked (Machine.closeCore s c) := by
  unfold Machine.closeCore
  extract_lets s1
  have h1 : Sound cmds asked s1 := hs.haltSeq
  exact h1.setRreg.setFenceBit
theorem Sound.fenceSite {d cause : Nat} (hs : Sound cmds asked s) : Sound cmds asked (Machine.fenceSite s d cause) :=
  Sound.ite hs ((hs.noteFence.foldl (fun _ ht => ht.setFenceBit)).foldl (fun _ ht1 => ht1.bothEnds))
theorem Sound.fenceCluster {k cause : Nat} (hs : Sound cmds asked s) :
    Sound cmds asked (Machine.fenceCluster s k cause) := by
  unfold Machine.fenceCluster
  refine Sound.ite ?_ ?_
  · exact hs
  · refine Sound.ite ?_ ?_
    · exact hs.fenceSite
    · extract_lets s1 s2
      have h1 : Sound cmds asked s1 := hs.noteFence
      have h2 : Sound cmds asked s2 := h1.setFenceBit.foldl (fun _ ht2 => ht2.closeCore)
      exact Sound.ite h2.fenceSite h2
theorem Sound.fenceCore {c cause : Nat} (hs : Sound cmds asked s) : Sound cmds asked (Machine.fenceCore s c cause) := by
  unfold Machine.fenceCore
  extract_lets _ s1
  have h1 : Sound cmds asked s1 := hs.noteFence.closeCore
  exact Sound.ite hs (Sound.ite hs.fenceSite (Sound.ite h1.fenceCluster h1))
theorem Sound.fenceLink {r p cause : Nat} (hs : Sound cmds asked s) : Sound cmds asked (Machine.fenceLink s r p cause) := by
  unfold Machine.fenceLink
  extract_lets _
  exact Sound.ite hs (Sound.ite hs.fenceSite hs.noteFence.bothEnds)
theorem Sound.fenceUnit {u cause : Nat} (hs : Sound cmds asked s) : Sound cmds asked (Machine.fenceUnit s u cause) := by
  unfold Machine.fenceUnit
  extract_lets _
  refine Sound.ite ?_ ?_
  · exact hs
  · exact Sound.ite hs.fenceLink (Sound.ite hs.fenceCore (Sound.ite hs.fenceCluster (Sound.ite hs.fenceSite hs)))

/-! StreamCmds. -/

theorem Sound.srcEcc {c src a n : Nat} {e : EccObs} (hs : Sound cmds asked s) :
    Sound cmds asked (Machine.srcEcc s c src a n e) := Sound.ite hs.vaultEcc hs.spadEcc
theorem Sound.formatFault {c index opc reason : Nat} (hs : Sound cmds asked s) :
    Sound cmds asked (Machine.formatFault s c index opc reason) := by
  unfold Machine.formatFault
  extract_lets s1 _
  have h1 : Sound cmds asked s1 := hs.bumpC
  exact h1.emit.doorbellAt
theorem Sound.streamRead {c src a n : Nat} {first : Bool} {ecc : EccObs} (hs : Sound cmds asked s) :
    Sound cmds asked (Machine.streamRead s c src a n first ecc) := by
  unfold Machine.streamRead
  extract_lets s1
  have h1 : Sound cmds asked s1 := hs.srcEcc
  exact Sound.ite h1.bumpC h1
theorem Sound.decodeOn {c index opc fuel : Nat} {ecc : EccObs} {r : SeRun} (hs : Sound cmds asked s) :
    SoundRes cmds asked (Machine.decodeOn c index opc fuel ecc r s) := by
  induction fuel generalizing s ecc r with
  | zero => exact hs.updCore.wait
  | succ fuel ih =>
    unfold Machine.decodeOn
    extract_lets d src room keep n t _ _ _ size u
    have hkeep : ∀ {t r}, Sound cmds asked t → Sound cmds asked (keep t r) := fun ht => ht.updCore
    have ht : Sound cmds asked t := hs.streamRead
    have hu : Sound cmds asked u := Sound.ite hs.streamRead hs
    refine SoundRes.ite hs.updCore.done (SoundRes.ite (hkeep hs).wait (SoundRes.ite ?_ ?_))
    · exact SoundRes.ite (hkeep hs).fail (SoundRes.ite (hkeep ht).fail (ih ht.updCore))
    · split
      · exact (hkeep (Sound.ite hu.formatFault hu)).fail
      · exact ih hu.updCore
theorem Sound.beginStream {c tensor d : Nat} {k : SeRun → State → EngRes}
    (hs : Sound cmds asked s) (hk : ∀ {t1} a, Sound cmds asked t1 → SoundRes cmds asked (k a t1)) :
    SoundRes cmds asked (Machine.beginStream s c tensor d k) := by
  unfold Machine.beginStream
  split
  · exact hs.fail
  · extract_lets _
    exact hk _ hs.updCore
theorem Sound.starved {c : Nat} (hs : Sound cmds asked s) : Sound cmds asked (Machine.starved s c) := hs.bumpFreeC
theorem Sound.copyStream {c : Nat} {d g : Nat} {ecc : EccObs} (hs : Sound cmds asked s) :
    SoundRes cmds asked (Machine.copyStream s c d g ecc) := by
  unfold Machine.copyStream
  split
  · exact hs.fail
  · extract_lets _ _ s1 s2
    have h1 : Sound cmds asked s1 := hs.srcEcc
    have h2 : Sound cmds asked s2 := Sound.ite h1.bumpC h1
    exact SoundRes.ite hs.fail (SoundRes.ite hs.fail (SoundRes.ite h2.fail h2.spadWrite.done))
theorem Sound.streamBody {c : Nat} {ecc : EccObs} {i : Issued} {w : Nat} (hs : Sound cmds asked s) :
    SoundRes cmds asked (Machine.streamBody c ecc s i w) := by
  unfold Machine.streamBody
  extract_lets s1
  have h1 : Sound cmds asked s1 := hs.starved
  split
  · exact h1.decodeOn
  · exact h1.opDesc (fun _ => (SoundRes.ite (h1.beginStream (fun _ ht1 => ht1.decodeOn)) (SoundRes.ite h1.wait h1.copyStream)))
theorem Sound.execStream {c : CoreId} {ecc : EccObs} (hs : Sound cmds asked s) :
    SoundOut cmds asked (Machine.execStream c ecc s) := (hs.runEngine (fun _ _ ht => ht.streamBody)).next
theorem Sound.cursorEntry {c : Nat} {x : Nat} {k : Nat × Nat → EngRes}
    (hs : Sound cmds asked s) (hk : ∀ a, SoundRes cmds asked (k a)) :
    SoundRes cmds asked (Machine.cursorEntry s c x k) := SoundRes.ite hs.fail (hs.opRead (fun _ => (hk _)))
theorem Sound.xstreamDesc {c w x j : Nat} {k : Nat → EngRes} (hs : Sound cmds asked s) (hk : ∀ a, SoundRes cmds asked (k a)) :
    SoundRes cmds asked (Machine.xstreamDesc s c w x j k) := hs.opRead (fun _ => (hk _))
theorem Sound.xstreamOn {c index w : Nat} {ecc : EccObs} {x fuel : Nat} {r : SeRun} (hs : Sound cmds asked s) :
    SoundRes cmds asked (Machine.xstreamOn c index w ecc x fuel r s) := by
  induction fuel generalizing s r with
  | zero => exact hs.decodeOn
  | succ fuel ih =>
    have hd : SoundRes cmds asked (Machine.decodeOn c index 0x63 decodeFuel ecc r s) := hs.decodeOn
    unfold Machine.xstreamOn
    split
    · next t e =>
      rw [e] at hd
      cases hd with
      | done ht => exact SoundRes.ite ht.done (ht.xstreamDesc fun _ => ht.beginStream fun _ hu => ih hu)
    · exact hd
theorem Sound.xstreamBody {c : Nat} {ecc : EccObs} {i : Issued} {w : Nat} (hs : Sound cmds asked s) :
    SoundRes cmds asked (Machine.xstreamBody c ecc s i w) := by
  unfold Machine.xstreamBody
  extract_lets _ s1
  have h1 : Sound cmds asked s1 := hs.starved
  refine SoundRes.ite ?_ ?_
  · exact h1.fail
  · refine SoundRes.ite ?_ ?_
    · exact h1.fail
    · refine h1.cursorEntry (fun _ => ?_)
      split
      · exact h1.xstreamOn
      · exact h1.xstreamDesc (fun _ => h1.beginStream (fun _ ht1 => ht1.xstreamOn))
theorem Sound.execXstream {c : CoreId} {ecc : EccObs} (hs : Sound cmds asked s) :
    SoundOut cmds asked (Machine.execXstream c ecc s) := (hs.runEngine (fun _ _ ht => ht.xstreamBody)).next
theorem Sound.loadBody {c : Nat} {ecc : EccObs} {i : Issued} {w : Nat} (hs : Sound cmds asked s) :
    SoundRes cmds asked (Machine.loadBody c ecc s i w) := by
  unfold Machine.loadBody
  extract_lets _ _ _ s1
  have h1 : Sound cmds asked s1 := hs.vaultEcc
  exact SoundRes.ite hs.fail (SoundRes.ite hs.fail (SoundRes.ite hs.fail (SoundRes.ite h1.fail h1.spadWrite.done)))
theorem Sound.execLoad {c : CoreId} {ecc : EccObs} (hs : Sound cmds asked s) :
    SoundOut cmds asked (Machine.execLoad c ecc s) := (hs.runEngine (fun _ _ ht => ht.loadBody)).next
theorem Sound.storeBody {c : Nat} {i : Issued} {w : Nat} (hs : Sound cmds asked s) :
    SoundRes cmds asked (Machine.storeBody c s i w) := by
  unfold Machine.storeBody
  extract_lets _ _
  exact SoundRes.ite hs.fail (SoundRes.ite hs.fail (hs.opRead (fun _ => hs.vaultWrite.done)))
theorem Sound.execStore {c : CoreId} (hs : Sound cmds asked s) : SoundOut cmds asked (Machine.execStore c s) :=
  (hs.runEngine (fun _ _ ht => ht.storeBody)).next

/-! VectorCmds. -/

theorem Sound.countStripe {c cap : Nat} {o : QactOut} (hs : Sound cmds asked s) :
    Sound cmds asked (Machine.countStripe s c cap o) := by
  unfold Machine.countStripe
  extract_lets s1 s2 s3 s4
  have h1 : Sound cmds asked s1 := hs.bumpC.bumpC
  have h2 : Sound cmds asked s2 := h1.bumpC.bumpC
  have h3 : Sound cmds asked s3 := h2.bumpC
  have h4 : Sound cmds asked s4 := h3.bumpC.bumpC
  split
  · exact Sound.ite h4.updJob h4
  · exact h4
theorem Sound.outlierTrap {c index token stripe : Nat} (hs : Sound cmds asked s) :
    Sound cmds asked (Machine.outlierTrap s c index token stripe) := by
  unfold Machine.outlierTrap
  extract_lets _ _ _ s1 s2
  have h1 : Sound cmds asked s1 := hs.emit
  have h2 : Sound cmds asked s2 := h1.doorbellAt
  exact h2.updCore
theorem Sound.qactStripes {c w d index : Nat} {seed : W64} {stream free : Nat} {trapped : List Nat} {l : List (Nat × Nat)}
    (hs : Sound cmds asked s) : SoundRes cmds asked (Machine.qactStripes c w d index seed stream free trapped l s) := by
  induction l generalizing s with
  | nil => exact hs.done
  | cons e l ih =>
    unfold Machine.qactStripes
    extract_lets nval n vals fmt o t
    have ht : Sound cmds asked t := hs.countStripe
    split
    · exact ht.outlierTrap.left
    · exact ih ht.spadWrite
theorem Sound.qactBody {c : Nat} {i : Issued} {w : Nat} (hs : Sound cmds asked s) :
    SoundRes cmds asked (Machine.qactBody c s i w) := by
  unfold Machine.qactBody
  refine hs.opDesc (fun _ => ?_)
  split
  · exact hs.fail
  · extract_lets _ _ _
    refine hs.opRead (fun _ => ?_)
    refine hs.opRoom ?_
    exact SoundRes.ite (hs.opRead (fun _ => hs.qactStripes)) (Sound.qactStripes (Sound.ite (hs.congr rfl rfl rfl rfl) hs))
theorem Sound.execQact {c : CoreId} (hs : Sound cmds asked s) : SoundOut cmds asked (Machine.execQact c s) :=
  (hs.runEngine (fun _ _ ht => ht.qactBody)).next
theorem Sound.qentUnits {c w fmt : Nat} {sc : F32} {l : List Nat} (hs : Sound cmds asked s) :
    Sound cmds asked (Machine.qentUnits c w fmt sc l s) := by
  induction l generalizing s with
  | nil => exact hs
  | cons u l ih => exact ih hs.spadWrite.bumpC.bumpC
theorem Sound.qentBody {c : Nat} {i : Issued} {w : Nat} (hs : Sound cmds asked s) :
    SoundRes cmds asked (Machine.qentBody c s i w) := by
  unfold Machine.qentBody
  extract_lets _
  refine SoundRes.ite ?_ ?_
  · exact hs.fail
  · exact hs.opRead (fun _ => (SoundRes.ite hs.fail (hs.opRead (fun _ => hs.opRoom hs.qentUnits.done))))
theorem Sound.execQent {c : CoreId} (hs : Sound cmds asked s) : SoundOut cmds asked (Machine.execQent c s) :=
  (hs.runEngine (fun _ _ ht => ht.qentBody)).next
theorem Sound.vecOperand {c g n operand : Nat} {used scalar : Bool} {k : List F32 → EngRes}
    (hs : Sound cmds asked s) (hk : ∀ a, SoundRes cmds asked (k a)) :
    SoundRes cmds asked (Machine.vecOperand s c g n operand used scalar k) :=
  SoundRes.ite (hk _) (SoundRes.ite (hs.opRead (fun _ => (hk _))) (hs.opRead (fun _ => (hk _))))
theorem Sound.vopBody {c : Nat} {i : Issued} {w : Nat} (hs : Sound cmds asked s) :
    SoundRes cmds asked (Machine.vopBody c s i w) := by
  unfold Machine.vopBody
  extract_lets _ _
  exact hs.vecOperand (fun _ => hs.vecOperand (fun _ => hs.vecOperand (fun _ => hs.opRoom hs.spadWritePadded.done)))
theorem Sound.execVop {c : CoreId} (hs : Sound cmds asked s) : SoundOut cmds asked (Machine.execVop c s) :=
  (hs.runEngine (fun _ _ ht => ht.vopBody)).next
theorem Sound.vredBody {c : Nat} {i : Issued} {w : Nat} (hs : Sound cmds asked s) :
    SoundRes cmds asked (Machine.vredBody c s i w) := hs.vecOperand (fun _ => hs.opRoom hs.spadWrite.done)
theorem Sound.execVred {c : CoreId} (hs : Sound cmds asked s) : SoundOut cmds asked (Machine.execVred c s) :=
  (hs.runEngine (fun _ _ ht => ht.vredBody)).next
theorem Sound.vcvtBody {c : Nat} {i : Issued} {w : Nat} (hs : Sound cmds asked s) :
    SoundRes cmds asked (Machine.vcvtBody c s i w) := by
  unfold Machine.vcvtBody
  extract_lets _ _
  refine SoundRes.ite ?_ ?_
  · exact hs.opRead (fun _ => hs.opRoom hs.spadWritePadded.done)
  · refine hs.opRead (fun _ => ?_)
    refine hs.opRoom ?_
    extract_lets _
    refine SoundRes.ite ?_ ?_
    · exact hs.opRead (fun _ => hs.spadWritePadded.done)
    · exact Sound.done (Sound.spadWritePadded (Sound.ite (hs.congr rfl rfl rfl rfl) hs))
theorem Sound.execVcvt {c : CoreId} (hs : Sound cmds asked s) : SoundOut cmds asked (Machine.execVcvt c s) :=
  (hs.runEngine (fun _ _ ht => ht.vcvtBody)).next
theorem Sound.vnormBody {c : Nat} {i : Issued} {w : Nat} (hs : Sound cmds asked s) :
    SoundRes cmds asked (Machine.vnormBody c s i w) := by
  unfold Machine.vnormBody
  extract_lets _
  exact hs.vecOperand (fun _ => hs.vecOperand (fun _ => hs.opRead (fun _ => hs.opRoom hs.spadWritePadded.done)))
theorem Sound.execVnorm {c : CoreId} (hs : Sound cmds asked s) : SoundOut cmds asked (Machine.execVnorm c s) :=
  (hs.runEngine (fun _ _ ht => ht.vnormBody)).next
theorem Sound.ropeBody {c : Nat} {i : Issued} {w : Nat} (hs : Sound cmds asked s) :
    SoundRes cmds asked (Machine.ropeBody c s i w) := by
  unfold Machine.ropeBody
  extract_lets _
  exact hs.opRead (fun _ => hs.opRead (fun _ => hs.opRead (fun _ => hs.opRoom hs.spadWrite.done)))
theorem Sound.execRope {c : CoreId} (hs : Sound cmds asked s) : SoundOut cmds asked (Machine.execRope c s) :=
  (hs.runEngine (fun _ _ ht => ht.ropeBody)).next
theorem Sound.randCBody {c : Nat} {i : Issued} {w : Nat} (hs : Sound cmds asked s) :
    SoundRes cmds asked (Machine.randCBody c s i w) := by
  unfold Machine.randCBody
  extract_lets _
  exact hs.opRead (fun _ => hs.opRoom hs.spadWritePadded.done)
theorem Sound.execRandC {c : CoreId} (hs : Sound cmds asked s) : SoundOut cmds asked (Machine.execRandC c s) :=
  (hs.runEngine (fun _ _ ht => ht.randCBody)).next
theorem Sound.randHBody {c : Nat} {i : Issued} {w : Nat} (hs : Sound cmds asked s) :
    SoundRes cmds asked (Machine.randHBody c s i w) := by
  unfold Machine.randHBody
  extract_lets _ _
  exact hs.opRoom hs.freeBytes.spadWritePadded.done
theorem Sound.execRandH {c : CoreId} (hs : Sound cmds asked s) : SoundOut cmds asked (Machine.execRandH c s) :=
  (hs.runEngine (fun _ _ ht => ht.randHBody)).next
theorem Sound.addSlots {c w n : Nat} (hs : Sound cmds asked s) : SoundRes cmds asked (Machine.addSlots c w n s) := by
  induction n generalizing s with
  | zero => exact hs.updCore.done
  | succ n ih =>
    unfold Machine.addSlots
    extract_lets n done
    split
    · exact hs.wait
    · exact hs.opRead (fun _ => ih hs.updCore.spadWritePadded)
theorem Sound.reduceUBody {c : Nat} {i : Issued} {w : Nat} (hs : Sound cmds asked s) :
    SoundRes cmds asked (Machine.reduceUBody c s i w) := by
  unfold Machine.reduceUBody
  extract_lets _ _
  refine SoundRes.ite ?_ ?_
  · exact hs.fail
  · refine SoundRes.ite ?_ ?_
    · exact hs.fail
    · refine hs.opRoom ?_
      split
      · exact hs.addSlots
      · exact hs.updCore.spadWritePadded.addSlots
theorem Sound.execReduceU {c : CoreId} (hs : Sound cmds asked s) : SoundOut cmds asked (Machine.execReduceU c s) :=
  (hs.runEngine (fun _ _ ht => ht.reduceUBody)).next

/-! ExpertCmds. -/

theorem Sound.gateBody {c : Nat} {i : Issued} {w : Nat} (hs : Sound cmds asked s) :
    SoundRes cmds asked (Machine.gateBody c s i w) := by
  unfold Machine.gateBody
  refine hs.opDesc (fun _ => ?_)
  extract_lets _
  refine SoundRes.ite ?_ ?_
  · exact hs.fail
  · exact hs.opRead (fun _ => hs.opRead (fun _ => hs.opRoom (hs.opRoom (hs.foldl (fun _ ht => ht.spadWrite)).spadWrite.done)))
theorem Sound.execGate {c : CoreId} (hs : Sound cmds asked s) : SoundOut cmds asked (Machine.execGate c s) :=
  (hs.runEngine (fun _ _ ht => ht.gateBody)).next
theorem Sound.xaccBody {c : Nat} {i : Issued} {w : Nat} (hs : Sound cmds asked s) :
    SoundRes cmds asked (Machine.xaccBody c s i w) := by
  unfold Machine.xaccBody
  refine hs.cursorEntry (fun _ => ?_)
  extract_lets _ _ _ _
  refine hs.opRead (fun _ => ?_)
  refine hs.opRead (fun _ => ?_)
  refine hs.opRead (fun _ => ?_)
  refine Sound.done ?_
  refine hs.foldl fun _ ht => ?_
  split
  · exact ht
  · extract_lets _ _
    exact ht.spadWritePadded
theorem Sound.execXacc {c : CoreId} (hs : Sound cmds asked s) : SoundOut cmds asked (Machine.execXacc c s) :=
  (hs.runEngine (fun _ _ ht => ht.xaccBody)).next

/-! SamplingCmds. -/

theorem Sound.opCands {c g operand : Nat} {k : List (F32 × Nat) → EngRes}
    (hs : Sound cmds asked s) (hk : ∀ a, SoundRes cmds asked (k a)) :
    SoundRes cmds asked (Machine.opCands s c g operand k) :=
  hs.opRead (fun _ => (SoundRes.ite hs.fail (hs.opRead (fun _ => (hk _)))))
theorem Sound.sampleKBody {c : Nat} {i : Issued} {w : Nat} (hs : Sound cmds asked s) :
    SoundRes cmds asked (Machine.sampleKBody c s i w) := by
  unfold Machine.sampleKBody
  refine hs.vecOperand (fun _ => ?_)
  exact hs.opRead (fun _ => hs.opRead (fun _ => (SoundRes.ite hs.fail (hs.opRoom hs.spadWrite.done))))
theorem Sound.execSampleK {c : CoreId} (hs : Sound cmds asked s) : SoundOut cmds asked (Machine.execSampleK c s) :=
  (hs.runEngine (fun _ _ ht => ht.sampleKBody)).next
theorem Sound.sampleMBody {c : Nat} {i : Issued} {w : Nat} (hs : Sound cmds asked s) :
    SoundRes cmds asked (Machine.sampleMBody c s i w) :=
  hs.opCands (fun _ => hs.opCands (fun _ => (SoundRes.ite hs.fail (hs.opRoom hs.spadWrite.done))))
theorem Sound.execSampleM {c : CoreId} (hs : Sound cmds asked s) : SoundOut cmds asked (Machine.execSampleM c s) :=
  (hs.runEngine (fun _ _ ht => ht.sampleMBody)).next
theorem Sound.sampleDBody {c : Nat} {i : Issued} {w : Nat} (hs : Sound cmds asked s) :
    SoundRes cmds asked (Machine.sampleDBody c s i w) := by
  unfold Machine.sampleDBody
  refine hs.opCands (fun _ => ?_)
  refine hs.opRead (fun _ => ?_)
  refine hs.opRoom ?_
  split
  · exact hs.spadWrite.done
  · extract_lets _
    exact hs.takeFree.spadWrite.done
theorem Sound.execSampleD {c : CoreId} (hs : Sound cmds asked s) : SoundOut cmds asked (Machine.execSampleD c s) :=
  (hs.runEngine (fun _ _ ht => ht.sampleDBody)).next
theorem Sound.stopchkBody {c : Nat} {i : Issued} {w : Nat} (hs : Sound cmds asked s) :
    SoundRes cmds asked (Machine.stopchkBody c s i w) := by
  unfold Machine.stopchkBody
  refine hs.opRead fun _ => hs.opRead fun _ => ?_
  exact hs.opRoom hs.spadWrite.done
theorem Sound.execStopchk {c : CoreId} (hs : Sound cmds asked s) : SoundOut cmds asked (Machine.execStopchk c s) :=
  (hs.runEngine (fun _ _ ht => ht.stopchkBody)).next

/-! Mesh. -/

theorem Sound.queueDepth {r p vc : Nat} {n : Int} (hs : Sound cmds asked s) :
    Sound cmds asked (Machine.queueDepth s r p vc n) := by
  unfold Machine.queueDepth
  extract_lets _ _ _ _
  exact hs.setRreg
theorem Sound.putFlits {r p vc : Nat} {pkt : Packet} {n : Nat} {first : Bool} (hs : Sound cmds asked s) :
    Sound cmds asked (Machine.putFlits s r p vc pkt n first) := by
  unfold Machine.putFlits
  extract_lets _
  exact Sound.queueDepth (hs.congr rfl rfl rfl rfl)
theorem Sound.refill {r b : Nat} (hs : Sound cmds asked s) : Sound cmds asked (Machine.refill s r b) := by
  unfold Machine.refill
  split
  · exact hs.putFlits
  · exact hs
theorem Sound.creditBack {h : Hop} {n : Nat} (hs : Sound cmds asked s) : Sound cmds asked (Machine.creditBack s h n) := by
  unfold Machine.creditBack
  split
  · exact hs.updRouter
  · exact hs
theorem Sound.takeFlits {h : Hop} {n : Nat} (hs : Sound cmds asked s) : Sound cmds asked (Machine.takeFlits s h n) := by
  unfold Machine.takeFlits
  extract_lets _ _ s1
  have h1 : Sound cmds asked s1 := Sound.queueDepth (hs.congr rfl rfl rfl rfl)
  exact Sound.ite h1.refill h1.creditBack
theorem Sound.dropHop {h : Hop} (hs : Sound cmds asked s) : Sound cmds asked (Machine.dropHop s h) :=
  Sound.creditBack (Sound.queueDepth (hs.congr rfl rfl rfl rfl))
theorem Sound.inject {r vc : Nat} {pkt : Packet} (hs : Sound cmds asked s) :
    SoundOpt cmds asked (Machine.inject s r vc pkt) := by
  unfold Machine.inject
  extract_lets _
  exact SoundOpt.ite SoundOpt.none hs.putFlits.some
theorem Sound.discard {h : Hop} (hs : Sound cmds asked s) : Sound cmds asked (Machine.discard s h) := by
  unfold Machine.discard
  extract_lets _
  exact Sound.takeFlits (hs.congr rfl rfl rfl rfl)
theorem Sound.errMessage {p : Packet} {code : Nat} (hs : Sound cmds asked s) :
    Sound cmds asked (Machine.errMessage s p code) := by
  unfold Machine.errMessage
  extract_lets _ _
  exact hs.sendCtrl
theorem Sound.errEvent {r p code : Nat} (hs : Sound cmds asked s) : Sound cmds asked (Machine.errEvent s r p code) := by
  unfold Machine.errEvent
  extract_lets _
  exact Sound.ite hs.raise (Sound.ite hs.raise (Sound.ite hs.raise (Sound.ite hs hs.raise)))
theorem Sound.routerBell {r p : Nat}
    (hs : Sound cmds asked s) : Sound cmds asked (Machine.routerBell s r p) := Sound.ite hs.doorbellAt hs
theorem Sound.answerRefusal {r p code : Nat} {pkt : Packet} (hs : Sound cmds asked s) :
    Sound cmds asked (Machine.answerRefusal s r p code pkt) := by
  unfold Machine.answerRefusal
  extract_lets s1 s2
  have h1 : Sound cmds asked s1 := Sound.ite hs.bumpR hs
  have h2 : Sound cmds asked s2 := Sound.ite h1.bumpR h1
  exact h2.errMessage.errEvent.routerBell
theorem Sound.refusePacket {h : Hop} {p code : Nat} (hs : Sound cmds asked s) :
    Sound cmds asked (Machine.refusePacket s h p code) := hs.discard.answerRefusal
theorem Sound.cutAt {n r p b : Nat} (hs : Sound cmds asked s) : Sound cmds asked (Machine.cutAt n s r p b) := by
  induction n generalizing s r p with
  | zero => exact hs
  | succ n ih =>
    unfold Machine.cutAt
    split
    · exact hs
    · refine Sound.congr (Sound.foldl hs fun {t} q ht => ?_) rfl rfl rfl rfl
      split
      · exact ih ht
      · exact ht
theorem Sound.cutBelow {h : Hop} {p : Nat} (hs : Sound cmds asked s) : Sound cmds asked (Machine.cutBelow s h p) := by
  unfold Machine.cutBelow
  refine Sound.ite ?_ ?_
  · exact hs
  · split
    · exact hs.cutAt
    · exact hs
theorem Sound.countFlits {r p vc n : Nat} (hs : Sound cmds asked s) : Sound cmds asked (Machine.countFlits s r p vc n) := hs.bumpR
theorem Sound.countStalls {r p vc n : Nat} (hs : Sound cmds asked s) :
    Sound cmds asked (Machine.countStalls s r p vc n) := by
  unfold Machine.countStalls
  extract_lets _ _ _
  exact hs.bumpR.bumpR
theorem Sound.putOut {r inPort vc : Nat} {pkt : Packet} {n : Nat} {first : Bool} {p : Nat} (hs : Sound cmds asked s) :
    Sound cmds asked (Machine.putOut s r inPort vc pkt n first p) := by
  unfold Machine.putOut
  extract_lets s1 _ s2
  have h1 : Sound cmds asked s1 := hs.countFlits.updRouter
  have h2 : Sound cmds asked s2 := h1.updRouter
  split
  · exact h1
  · exact h2.putFlits
theorem Sound.sendFlits {h : Hop} {outs : List Nat} {n : Nat} (hs : Sound cmds asked s) :
    Sound cmds asked (Machine.sendFlits s h outs n) := by
  unfold Machine.sendFlits
  extract_lets s1
  have h1 : Sound cmds asked s1 := hs.foldl (fun _ ht1 => ht1.countStalls)
  exact h1.takeFlits.foldl (fun _ ht2 => ht2.putOut)
theorem Sound.creditStall {h : Hop} {p : Nat} (hs : Sound cmds asked s) : Sound cmds asked (Machine.creditStall s h p) :=
  Sound.ite hs.bumpR hs
theorem Sound.routerEcc {h : Hop} {e : EccObs} (hs : Sound cmds asked s) : Sound cmds asked (Machine.routerEcc s h e).1 := by
  unfold Machine.routerEcc
  extract_lets r p off flits s1 s2 s3 s4 n s5 h'
  have h2 : Sound cmds asked s2 := Sound.ite hs.bumpR.bumpR hs.bumpR.bumpR.raise
  have h4 : Sound cmds asked s4 := h2.raise.routerBell.updRouter
  split
  · exact h2
  · exact (Sound.ite h4.fenceLink h4).congr rfl rfl rfl rfl

/-! Inbox. -/

theorem Sound.landed {src tid n : Nat} (hs : Sound cmds asked s) : Sound cmds asked (Machine.landed s src tid n) := by
  unfold Machine.landed
  refine Sound.ite ?_ ?_
  · exact hs
  · extract_lets _
    split
    · exact hs
    · exact Sound.ite hs.updCore hs.updCore.finishToken.drainEnd
theorem Sound.putSweep {p : Nat} {w w' : SweepRun} (hs : Sound cmds asked s) :
    Sound cmds asked (Machine.putSweep s p w w') := hs.updJob
theorem Sound.sweepLanded {src tid n : Nat} (hs : Sound cmds asked s) :
    Sound cmds asked (Machine.sweepLanded s src tid n) := by
  unfold Machine.sweepLanded
  extract_lets _
  refine Sound.ite ?_ ?_
  · exact hs
  · split
    · exact hs
    · split
      · extract_lets _
        exact Sound.ite hs.updJob hs.putSweep
      · split
        · extract_lets _ s1
          have h1 : Sound cmds asked s1 := Sound.ite hs.updJob hs.putSweep
          exact h1.landed
        · exact hs
theorem Sound.sweepAcked {r tid : Nat} (hs : Sound cmds asked s) : Sound cmds asked (Machine.sweepAcked s r tid) := by
  unfold Machine.sweepAcked
  split
  · exact hs
  · split
    · exact hs.putSweep
    · exact hs
theorem Sound.sweepReceived {r src tid n : Nat}
    (hs : Sound cmds asked s) : SoundOpt cmds asked (Machine.sweepReceived s r src tid n) := by
  unfold Machine.sweepReceived
  split
  · exact SoundOpt.none
  · intro t e
    obtain ⟨w, -, rfl⟩ := Option.map_eq_some_iff.mp e
    exact hs.putSweep
theorem Sound.sweepGathered {r tree : Nat} {body : Bytes} {bad : Bool} (hs : Sound cmds asked s) :
    SoundOpt cmds asked (Machine.sweepGathered s r tree body bad) := by
  unfold Machine.sweepGathered
  split
  · exact SoundOpt.none
  · intro t e
    obtain ⟨w, -, rfl⟩ := Option.map_eq_some_iff.mp e
    exact hs.putSweep

/-! Fabric. -/

theorem Sound.execPacketRoute {r : RouterId} {inPort : PortIx} {vc : Vc} {pkt : Packet} {ecc : EccObs}
    (hs : Sound cmds asked s) :
    SoundOut cmds asked (Machine.execPacketRoute r inPort vc pkt ecc s) := by
  unfold Machine.execPacketRoute
  extract_lets _ _
  refine SoundOut.ite ?_ ?_
  · exact SoundOut.fault _
  · refine Sound.next ?_
    split
    · exact hs
    · refine Sound.ite ?_ ?_
      · exact hs
      · refine Sound.ite ?_ ?_
        · exact hs.takeFlits
        · split
          · exact hs.cutBelow.refusePacket
          · exact Sound.ite hs.creditStall hs.routerEcc.sendFlits
theorem Sound.transferFails {c : Nat} {t : TeTxn} {code : Nat} (hs : Sound cmds asked s) :
    Sound cmds asked (Machine.transferFails s c t code) := hs.updCore.failCommand
theorem Sound.setMem {m : MeshMem} {v : Mem} (hs : Sound cmds asked s) (hv : asked → v.wf = true) :
    Sound cmds asked (Machine.setMem s m v) := by
  cases m with
  | spad c => exact hs.setCoreMem hv
  | vault k => exact hs.setClMem hv
  | cc i => exact hs.setCcMem hv
theorem Sound.backgroundBurst {m : MeshMem} (hs : Sound cmds asked s) : Sound cmds asked (Machine.backgroundBurst s m) := by
  unfold Machine.backgroundBurst
  split
  · exact hs.vaultWork
  · exact hs
theorem Sound.landBytes {a : Nat} {b : Bytes} {gs poison : List Nat} (hs : Sound cmds asked s) :
    Sound cmds asked (Machine.landBytes s a b gs poison) := by
  unfold Machine.landBytes
  split
  · exact hs
  · exact (hs.setMem fun g => wf_memPoison (wf_writeGranules b _ gs _ ((hs.canonical g).memOf _)) _).backgroundBurst
theorem Sound.takePacket {r vc op : Nat} {pkt : Packet} {refused : Option Nat} {k : State → State}
    (hs : Sound cmds asked s) (hk : ∀ {t}, Sound cmds asked t → Sound cmds asked (k t)) :
    Sound cmds asked (Machine.takePacket s r vc op pkt refused k) := by
  unfold Machine.takePacket
  refine Sound.ite ?_ ?_
  · exact hs
  · split
    · exact hs
    · refine Sound.ite ?_ ?_
      · exact hs.takeFlits
      · split
        · exact hs.refusePacket
        · split
          · exact hs.refusePacket
          · exact Sound.ite hs (Sound.ite (hk hs.sendFlits) hs.sendFlits)
theorem Sound.deliverToken {c sem : Nat} {by_ : Option (Nat × Nat)} (hs : Sound cmds asked s) :
    Sound cmds asked (Machine.deliverToken s c sem by_) := by
  unfold Machine.deliverToken
  extract_lets _
  exact Sound.ite hs.signalSem.failCommand hs.signalSem
theorem Sound.headToken {pkt : Packet} (hs : Sound cmds asked s) : Sound cmds asked (Machine.headToken s pkt) := by
  unfold Machine.headToken
  extract_lets _
  exact Sound.ite hs.deliverToken hs
theorem Sound.landData {pkt : Packet} {gs : List Nat} (hs : Sound cmds asked s) :
    Sound cmds asked (Machine.landData s pkt gs) := by
  unfold Machine.landData
  extract_lets _ _ s1
  have h1 : Sound cmds asked s1 := hs.landBytes
  exact Sound.ite h1.headToken.landed.sweepLanded h1.errMessage
theorem Sound.landCommit {p : Nat} {pkt : Packet} (hs : Sound cmds asked s) :
    Sound cmds asked (Machine.landCommit s p pkt) := by
  unfold Machine.landCommit
  extract_lets _ _ _ s1
  have h1 : Sound cmds asked s1 := hs.landData
  split
  · exact Sound.ite (Sound.ite h1 h1.commitPoint) hs.landed
  · exact hs.landed
theorem Sound.execWrite {r : RouterId} {vc : Vc} {pkt : Packet} (hs : Sound cmds asked s) :
    SoundOut cmds asked (Machine.execWrite r vc pkt s) := by
  unfold Machine.execWrite
  extract_lets _
  refine SoundOut.ite ?_ ?_
  · exact SoundOut.fault _
  · refine Sound.next ?_
    refine hs.takePacket (fun ht => ?_)
    split
    · exact ht.landCommit
    · exact ht.landData
theorem Sound.execReadReq {r : RouterId} {vc : Vc} {pkt : Packet} (hs : Sound cmds asked s) :
    SoundOut cmds asked (Machine.execReadReq r vc pkt s) := by
  unfold Machine.execReadReq
  extract_lets _ _
  refine SoundOut.ite ?_ ?_
  · exact SoundOut.fault _
  · refine Sound.next ?_
    refine hs.takePacket (fun ht => ?_)
    split
    · exact ht
    · extract_lets s2
      have h2 : Sound cmds asked s2 := ht.backgroundBurst
      exact Sound.ite h2.errMessage (h2.inject.getD h2)
theorem Sound.execReadRsp {r : RouterId} {vc : Vc} {pkt : Packet} (hs : Sound cmds asked s) :
    SoundOut cmds asked (Machine.execReadRsp r vc pkt s) := by
  unfold Machine.execReadRsp
  extract_lets _ _
  refine SoundOut.ite ?_ ?_
  · exact SoundOut.fault _
  · refine Sound.next ?_
    refine hs.takePacket (fun ht => ?_)
    refine Sound.ite ?_ ?_
    · exact ht
    · split
      · exact ht
      · extract_lets _ _
        exact Sound.ite ht.transferFails ht.spadWrite.landed
theorem Sound.execInline {r : RouterId} {vc : Vc} {pkt : Packet} (hs : Sound cmds asked s) :
    SoundOut cmds asked (Machine.execInline r vc pkt s) :=
  SoundOut.ite (SoundOut.fault _) (hs.takePacket (fun ht => ht.landData)).next
theorem Sound.prune {r tree : Nat} {pkt : Packet} (hs : Sound cmds asked s) :
    Sound cmds asked (Machine.prune s r tree pkt) := by
  unfold Machine.prune
  extract_lets _ s1
  have h1 : Sound cmds asked s1 := hs.bumpR.errEvent.routerBell
  exact Sound.ite h1 h1.setRreg.errMessage
theorem Sound.sendToken {r inPort tree : Nat} {part : Bool} {head : BitVec 512} (hs : Sound cmds asked s) :
    Sound cmds asked (Machine.sendToken s r inPort tree part head) := by
  unfold Machine.sendToken
  refine Sound.ite ?_ ?_
  · extract_lets s1
    have h1 : Sound cmds asked s1 := hs.sweepAcked
    refine Sound.ite ?_ ?_
    · split
      · exact h1.transferFails
      · exact h1
    · exact h1.landed
  · split
    · exact hs.congr rfl rfl rfl rfl
    · exact hs
theorem Sound.portDone {r tree port : Nat} {part : Bool} (hs : Sound cmds asked s) :
    Sound cmds asked (Machine.portDone s r tree port part) := by
  unfold Machine.portDone
  split
  · exact hs
  · extract_lets _
    exact Sound.ite hs.updRouter.sendToken hs.updRouter
theorem Sound.mcastHead {h : Hop} {outs : List Nat} (hs : Sound cmds asked s) :
    Sound cmds asked (Machine.mcastHead s h outs) := by
  unfold Machine.mcastHead
  extract_lets _ _ _ _ s1
  have h1 : Sound cmds asked s1 := hs.foldl (fun _ ht1 => (Sound.ite ht1.prune ht1.answerRefusal))
  exact Sound.ite h1.sendToken.discard h1.updRouter
theorem Sound.mcastLocal {r : Nat} {pkt : Packet} (hs : Sound cmds asked s) : Sound cmds asked (Machine.mcastLocal s r pkt) := by
  unfold Machine.mcastLocal
  refine Sound.ite hs.prune.portDone ?_
  split
  · exact hs.errMessage.errEvent.routerBell.portDone
  · extract_lets bad s1 s2 s3
    have h1 : Sound cmds asked s1 := by
      simp only [s1]
      split
      · next t e => exact hs.sweepReceived t e
      · exact hs.landBytes
    have h2 : Sound cmds asked s2 := Sound.ite h1 h1.errMessage
    have h3 : Sound cmds asked s3 := Sound.ite h2.deliverToken h2
    exact h3.portDone
theorem Sound.execMcastForward {r : RouterId} {inPort : PortIx} {vc : Vc} {pkt : Packet} (hs : Sound cmds asked s) :
    SoundOut cmds asked (Machine.execMcastForward r inPort vc pkt s) := by
  unfold Machine.execMcastForward
  extract_lets _ _
  refine SoundOut.ite ?_ ?_
  · exact SoundOut.fault _
  · refine Sound.next ?_
    refine Sound.ite ?_ ?_
    · exact hs
    · split
      · exact hs
      · extract_lets _ _ s1 s2
        have h1 : Sound cmds asked s1 := Sound.ite hs.mcastHead hs
        have h2 : Sound cmds asked s2 := h1.sendFlits
        refine Sound.ite ?_ ?_
        · exact hs.takeFlits
        · refine Sound.ite ?_ ?_
          · exact hs.refusePacket
          · exact Sound.ite hs.mcastHead (Sound.ite (hs.foldl (fun _ ht2 => ht2.creditStall)) (Sound.ite h2.mcastLocal h2))
theorem Sound.execAckToken {r : RouterId} {fromPort : PortIx} {tree : Fin 64} {partialSt : Bool} (hs : Sound cmds asked s) :
    SoundOut cmds asked (Machine.execAckToken r fromPort tree partialSt s) := by
  unfold Machine.execAckToken
  extract_lets _
  exact Sound.next (Sound.ite hs (Sound.portDone (hs.congr rfl rfl rfl rfl)))
theorem Sound.reduceLanded {root tree : Nat} {n : Nat} (hs : Sound cmds asked s) :
    Sound cmds asked (Machine.reduceLanded s root tree n) := by
  unfold Machine.reduceLanded
  refine hs.foldl fun _ ht => ?_
  refine Sound.ite ?_ ?_
  · split
    · exact ht.landed
    · exact ht
  · exact ht
theorem Sound.reduceLocal {r : Nat} {sum : Packet} (hs : Sound cmds asked s) :
    Sound cmds asked (Machine.reduceLocal s r sum) := by
  unfold Machine.reduceLocal
  extract_lets _ _ _ s1 s2
  have h1 : Sound cmds asked s1 := hs.landBytes
  have h2 : Sound cmds asked s2 := Sound.ite h1.deliverToken h1
  split
  · next s3 e =>
      have h3 : Sound cmds asked s3 := hs.sweepGathered _ e
      exact h3
  · exact h2.reduceLanded
theorem Sound.refuseAll {hops : List Hop} {p : Hop → Nat} {code : Nat} (hs : Sound cmds asked s) :
    Sound cmds asked (Machine.refuseAll s hops p code) := hs.foldl (fun _ ht => ht.refusePacket)
theorem Sound.combine {r : Nat} {hops : List Hop} {h0 : Hop} (hs : Sound cmds asked s) :
    Sound cmds asked (Machine.combine s r hops h0) := by
  unfold Machine.combine
  extract_lets _ _ _ _ s1 s2 s4
  have h1 : Sound cmds asked s1 := hs.countStalls
  have h2 : Sound cmds asked s2 := h1.foldl (fun _ ht2 => ht2.takeFlits)
  have h4 : Sound cmds asked s4 := h2.putOut
  refine Sound.ite ?_ ?_
  · exact hs.refuseAll
  · split
    · exact hs.refuseAll
    · split
      · exact hs.refuseAll
      · exact Sound.ite hs.creditStall (Sound.ite h4.reduceLocal h4)
theorem Sound.execReduceCombine {r : RouterId} {tree : Fin 64} (hs : Sound cmds asked s) :
    SoundOut cmds asked (Machine.execReduceCombine r tree s) := by
  unfold Machine.execReduceCombine
  extract_lets _ _ _ _ _
  refine Sound.next ?_
  refine Sound.ite ?_ ?_
  · exact hs.foldl (fun _ ht => ht.takeFlits)
  · refine Sound.ite ?_ ?_
    · exact hs.refuseAll
    · split
      · exact hs
      · exact Sound.ite hs.combine hs
theorem Sound.takeCredits {r p : Nat} (hs : Sound cmds asked s) : Sound cmds asked (Machine.takeCredits s r p) := by
  unfold Machine.takeCredits
  split
  · exact hs
  · exact hs.updRouter
theorem Sound.loseFlit {r p : Nat} {lost : Option (Vc × Packet)} (hs : Sound cmds asked s) :
    Sound cmds asked (Machine.loseFlit s r p lost) := by
  unfold Machine.loseFlit
  split
  · exact hs
  · split
    · exact hs
    · extract_lets _
      exact Sound.takeFlits (hs.congr rfl rfl rfl rfl)
theorem Sound.resyncLink {r p : Nat} {e : Nat × Nat} (hs : Sound cmds asked s) :
    Sound cmds asked (Machine.resyncLink s r p e) := by
  unfold Machine.resyncLink
  extract_lets s1 s2
  have h1 : Sound cmds asked s1 := hs.takeCredits.takeCredits
  have h2 : Sound cmds asked s2 := h1.bumpR.bumpR
  exact h2.raise.routerBell
theorem Sound.execLinkResync {r : RouterId} {sb : Sideband} (hs : Sound cmds asked s) :
    SoundOut cmds asked (Machine.execLinkResync r sb s) := by
  unfold Machine.execLinkResync
  refine Sound.next ?_
  split
  · exact hs
  · exact Sound.ite hs (Sound.ite hs.loseFlit.resyncLink.updRouter.fenceLink hs.loseFlit.resyncLink.updRouter)

/-! Transfers. -/

theorem Sound.injectFrom {c : Nat} {x : Transfer} {span : Nat → Nat} {pkt : State → Nat → Nat → Packet} {n at_ : Nat}
    (hs : Sound cmds asked s) : Sound cmds asked (Machine.injectFrom c x span pkt n s at_).1 := by
  induction n generalizing s at_ with
  | zero => exact hs
  | succ n ih =>
    unfold Machine.injectFrom
    split
    · exact hs
    · split
      · exact hs
      · next t e => exact ih (hs.inject _ e)
theorem Sound.runTransfer {c : Nat} {i : Issued} {w : Nat} {x : Transfer} {span : Nat → Nat}
    {pkt : Nat → State → Nat → Nat → Packet}
    (hs : Sound cmds asked s) : SoundRes cmds asked (Machine.runTransfer s c i w x span pkt) := by
  unfold Machine.runTransfer
  extract_lets v mine t r t' u
  have hr : Sound cmds asked r.1 := hs.injectFrom
  have hu : Sound cmds asked u := hr.updCore fun _ => by split <;> rfl
  exact SoundRes.ite hs.done (SoundRes.ite SoundRes.hold (SoundRes.ite hu.left hu.wait))
theorem Sound.sourceFail {c code : Nat}
    (hs : Sound cmds asked s) : SoundRes cmds asked (Machine.sourceFail s c code) := hs.errEvent.fail
theorem Sound.localVault {c a n : Nat} {k : EngRes} (hs : Sound cmds asked s) (hk : SoundRes cmds asked k) :
    SoundRes cmds asked (Machine.localVault s c a n k) := by
  unfold Machine.localVault
  split
  · exact hs.sourceFail
  · exact hk
theorem Sound.sendBody {c : Nat} {i : Issued} {w : Nat} (hs : Sound cmds asked s) :
    SoundRes cmds asked (Machine.sendBody c s i w) := by
  unfold Machine.sendBody
  extract_lets _ _ _ _
  split
  · exact hs.sourceFail
  · refine hs.opRead (fun _ => ?_)
    exact SoundRes.ite (hs.localVault (Sound.ite hs.vaultWrite.deliverToken hs.vaultWrite).done) hs.runTransfer
theorem Sound.execSend {c : CoreId} (hs : Sound cmds asked s) : SoundOut cmds asked (Machine.execSend c s) :=
  (hs.runEngine (fun _ _ ht => ht.sendBody)).next
theorem Sound.readBody {c : Nat} {i : Issued} {w : Nat} (hs : Sound cmds asked s) :
    SoundRes cmds asked (Machine.readBody c s i w) := by
  unfold Machine.readBody
  extract_lets _ _ _
  split
  · exact hs.sourceFail
  · exact SoundRes.ite hs.fail (SoundRes.ite (hs.localVault (SoundRes.ite hs.fail hs.spadWrite.done)) hs.runTransfer)
theorem Sound.execRead {c : CoreId} (hs : Sound cmds asked s) : SoundOut cmds asked (Machine.execRead c s) :=
  (hs.runEngine (fun _ _ ht => ht.readBody)).next
theorem Sound.mcastBody {c : Nat} {i : Issued} {w : Nat} (hs : Sound cmds asked s) :
    SoundRes cmds asked (Machine.mcastBody c s i w) := by
  unfold Machine.mcastBody
  extract_lets _ _
  exact SoundRes.ite hs.sourceFail (hs.opRead (fun _ => hs.runTransfer))
theorem Sound.execMcast {c : CoreId} (hs : Sound cmds asked s) : SoundOut cmds asked (Machine.execMcast c s) :=
  (hs.runEngine (fun _ _ ht => ht.mcastBody)).next
theorem Sound.reduceBody {c : Nat} {i : Issued} {w : Nat} (hs : Sound cmds asked s) :
    SoundRes cmds asked (Machine.reduceBody c s i w) := by
  unfold Machine.reduceBody
  extract_lets _ _
  refine SoundRes.ite ?_ ?_
  · exact hs.sourceFail
  · refine SoundRes.ite ?_ ?_
    · exact SoundRes.hold
    · split
      · exact hs.sourceFail
      · exact SoundRes.ite hs.fail (hs.opRead (fun _ => hs.runTransfer))
theorem Sound.execReduce {c : CoreId} (hs : Sound cmds asked s) : SoundOut cmds asked (Machine.execReduce c s) :=
  (hs.runEngine (fun _ _ ht => ht.reduceBody)).next
theorem Sound.signalRBody {c : Nat} {i : Issued} {w : Nat} (hs : Sound cmds asked s) :
    SoundRes cmds asked (Machine.signalRBody c s i w) := by
  unfold Machine.signalRBody
  extract_lets _
  exact SoundRes.ite SoundRes.hold (SoundRes.ite hs.sourceFail hs.sendCtrl.done)
theorem Sound.execSignalR {c : CoreId} (hs : Sound cmds asked s) : SoundOut cmds asked (Machine.execSignalR c s) :=
  (hs.runEngine (fun _ _ ht => ht.signalRBody)).next
theorem Sound.inlBody {c : Nat} {i : Issued} {w : Nat} (hs : Sound cmds asked s) :
    SoundRes cmds asked (Machine.inlBody c s i w) := by
  unfold Machine.inlBody
  extract_lets _
  refine SoundRes.ite ?_ ?_
  · exact hs.fail
  · refine SoundRes.ite ?_ ?_
    · exact hs.fail
    · split
      · exact hs.sourceFail
      · exact hs.opRead (fun _ => hs.runTransfer)
theorem Sound.execInl {c : CoreId} (hs : Sound cmds asked s) : SoundOut cmds asked (Machine.execInl c s) :=
  (hs.runEngine (fun _ _ ht => ht.inlBody)).next
theorem Sound.commitBody {c : Nat} {i : Issued} {w : Nat} (hs : Sound cmds asked s) :
    SoundRes cmds asked (Machine.commitBody c s i w) := by
  unfold Machine.commitBody
  refine SoundRes.ite ?_ ?_
  · exact hs.fail
  · split
    · exact hs.sourceFail
    · exact hs.opRead (fun _ => hs.runTransfer)
theorem Sound.execCommit {c : CoreId} (hs : Sound cmds asked s) : SoundOut cmds asked (Machine.execCommit c s) :=
  (hs.runEngine (fun _ _ ht => ht.commitBody)).next
theorem Sound.absorbToken {b : Bytes} (hs : Sound cmds asked s) : Sound cmds asked (Machine.absorbToken s b).1 := by
  unfold Machine.absorbToken
  extract_lets h
  split
  · exact hs
  · split
    · exact hs
    · split
      · exact hs
      · exact hs.setReq
theorem Sound.plateFoldBody {c : Nat} {i : Issued} {w : Nat} (hs : Sound cmds asked s) :
    SoundRes cmds asked (Machine.plateFoldBody c s i w) := by
  unfold Machine.plateFoldBody
  extract_lets _ _
  refine SoundRes.ite ?_ ?_
  · exact hs.fail
  · refine hs.opRead (fun _ => ?_)
    refine SoundRes.ite ?_ ?_
    · exact hs.updCl.done
    · refine SoundRes.ite ?_ ?_
      · exact hs.done
      · refine hs.opRoom ?_
        extract_lets _
        split
        · exact hs.absorbToken.spadWrite.done
        · exact hs.absorbToken.done
theorem Sound.execPlateFold {c : CoreId} (hs : Sound cmds asked s) : SoundOut cmds asked (Machine.execPlateFold c s) :=
  (hs.runEngine (fun _ _ ht => ht.plateFoldBody)).next
theorem Sound.treadBody {c : Nat} {i : Issued} {w : Nat} (hs : Sound cmds asked s) :
    SoundRes cmds asked (Machine.treadBody c s i w) := hs.opRoom hs.spadWrite.done
theorem Sound.execTread {c : CoreId} (hs : Sound cmds asked s) : SoundOut cmds asked (Machine.execTread c s) :=
  (hs.runEngine (fun _ _ ht => ht.treadBody)).next

/-! Sweeps. -/

theorem Sound.hubPeak {c : Nat} (hs : Sound cmds asked s) : Sound cmds asked (Machine.hubPeak s c) := by
  unfold Machine.hubPeak
  split
  · exact Sound.ite hs.setCreg hs
  · exact hs
theorem Sound.sendSweep {c p : Nat} {j : Job} {e : SweepDesc × (Nat × Nat → Nat)} {i : Issued} {w d : Nat} {b : Bytes}
    (hs : Sound cmds asked s) : SoundRes cmds asked (Machine.sendSweep s c p j e i w d b) := by
  unfold Machine.sendSweep
  extract_lets old draft
  split
  · exact SoundRes.hold
  · next n _ =>
    extract_lets base keep
    have hkeep : ∀ {t}, Sound cmds asked t → Sound cmds asked (keep t) := fun ht => Sound.ite ht ht.updJob.hubPeak
    have hr := hs.runTransfer (c := c) (i := i) (w := 0) (span := kiloSpan b.length)
      (x := { op := opWrite, vc := 2, opc := 0x50, size := b.length
              total := b.length + sdTokens d * sdHeads d * resultBytes, dst := 0, src := 0 })
      (pkt := fun tid _ at_ k => bytesPacket c opWrite (base + at_) (sliceB b at_ k) [] none tid 0)
    generalize Machine.runTransfer s c i 0 _ _ _ = r at hr
    cases hr with
    | left ht => exact (hkeep ht).left
    | wait ht => exact (hkeep ht).wait
    | done ht => exact ht.done
    | fail ht => exact ht.fail
    | hold => exact SoundRes.hold
theorem Sound.sweepBody {c : Nat} {i : Issued} {w : Nat} (hs : Sound cmds asked s) :
    SoundRes cmds asked (Machine.sweepBody c s i w) := by
  unfold Machine.sweepBody
  refine SoundRes.ite ?_ ?_
  · exact hs.fail
  · refine hs.opDesc (fun _ => ?_)
    refine SoundRes.ite ?_ ?_
    · exact hs.fail
    · split
      · exact SoundRes.hold
      · extract_lets _ _
        exact hs.opRead (fun _ => hs.opRead (fun _ => (SoundRes.ite hs.fail hs.sendSweep)))
theorem Sound.execSweep {c : CoreId} (hs : Sound cmds asked s) : SoundOut cmds asked (Machine.execSweep c s) :=
  (hs.runEngine (fun _ _ ht => ht.sweepBody)).next
theorem Sound.spreadSweep {p : Nat} {x : SweepDesc × (Nat × Nat → Nat)} {w : SweepRun} (hs : Sound cmds asked s) :
    Sound cmds asked (Machine.spreadSweep s p x w) := by
  unfold Machine.spreadSweep
  extract_lets _ _ _
  exact hs.injectFrom.putSweep
theorem Sound.execHubSweepTake {p : PartId} (hs : Sound cmds asked s) : SoundOut cmds asked (Machine.execHubSweepTake p s) := by
  unfold Machine.execHubSweepTake
  refine Sound.next ?_
  split
  · exact hs
  · exact Sound.ite hs (Sound.ite hs.spreadSweep hs.putSweep.updCore.bumpC.spreadSweep)
theorem Sound.writeEntries {d : SweepDesc} {phys : Nat × Nat → Nat} {c : Nat} {w : SweepRun} (hs : Sound cmds asked s) :
    Sound cmds asked (Machine.writeEntries s d phys c w) := by
  unfold Machine.writeEntries
  refine hs.foldl fun _ ht => ?_
  refine Sound.ite ?_ ?_
  · exact ht
  · extract_lets _ _
    split
    · exact ht.vaultWrite
    · exact ht
theorem Sound.countUnit {c : Nat} {w : SweepRun} {n : Nat} {u : UnitSum} (hs : Sound cmds asked s) :
    Sound cmds asked (Machine.countUnit s c w n u) := by
  unfold Machine.countUnit
  extract_lets s1 s2 s3
  have h1 : Sound cmds asked s1 := hs.bumpC.bumpC
  have h2 : Sound cmds asked s2 := h1.bumpC.bumpC
  have h3 : Sound cmds asked s3 := h2.bumpC
  exact Sound.ite h3 h3.raise
theorem Sound.serveOn {c : Nat} {x : SweepDesc × (Nat × Nat → Nat)} {n : Nat} {w : SweepRun} (hs : Sound cmds asked s) :
    Sound cmds asked (Machine.serveOn c x n w s).2 := by
  induction n generalizing s w with
  | zero => exact hs
  | succ n ih =>
    unfold Machine.serveOn
    extract_lets k m u b bad pkt
    split
    · exact hs
    · split
      · exact hs
      · next t e => exact ih (Sound.ite (hs.inject _ e).countUnit (hs.inject _ e).updCore)
theorem Sound.serveSweep {p c : Nat} {x : SweepDesc × (Nat × Nat → Nat)} {w : SweepRun} (hs : Sound cmds asked s) :
    Sound cmds asked (Machine.serveSweep s p c x w) := by
  unfold Machine.serveSweep
  extract_lets _ s1 _ _ _
  have h1 : Sound cmds asked s1 := Sound.ite hs hs.writeEntries
  exact Sound.ite h1.serveOn.bumpC.putSweep h1.serveOn.putSweep
theorem Sound.execSweepService {c : CoreId} (hs : Sound cmds asked s) : SoundOut cmds asked (Machine.execSweepService c s) := by
  unfold Machine.execSweepService
  extract_lets _ s1
  have h1 : Sound cmds asked s1 := hs.coreRequests
  refine Sound.next ?_
  split
  · exact hs
  · exact Sound.ite hs (Sound.ite h1 h1.serveSweep)
theorem Sound.sendResults {p hub : Nat} {d : SweepDesc} {w : SweepRun} {tid : BitVec 16} (hs : Sound cmds asked s) :
    Sound cmds asked (Machine.sendResults s p hub d w tid) := by
  unfold Machine.sendResults
  extract_lets _ _ _
  exact hs.injectFrom.putSweep
theorem Sound.execSweepResult {p : PartId} (hs : Sound cmds asked s) : SoundOut cmds asked (Machine.execSweepResult p s) := by
  unfold Machine.execSweepResult
  refine Sound.next ?_
  split
  · exact hs
  · extract_lets _ _ _ _ s1
    have h1 : Sound cmds asked s1 := hs.updCore.countNonFinite
    refine Sound.ite ?_ ?_
    · exact hs
    · split
      · exact hs.sendResults
      · exact h1.sendResults

/-! Regs. -/

theorem Sound.claimAt {i : Nat} (hs : Sound cmds asked s) : Sound cmds asked (Machine.claimAt s i) := by
  unfold Machine.claimAt
  split
  · exact hs.updCc
  · exact hs
theorem Sound.setSwallow {d v : Nat} (hs : Sound cmds asked s) : Sound cmds asked (Machine.setSwallow s d v) := by
  unfold Machine.setSwallow
  extract_lets _ s1 _
  have h1 : Sound cmds asked s1 := hs.setDreg
  exact Sound.ite h1.setDreg h1
theorem Sound.icuWrite {i off v mask w1c : Nat} (hs : Sound cmds asked s) :
    Sound cmds asked (Machine.icuWrite s i off v mask w1c) :=
  Sound.ite hs.doorbellAt (Sound.ite hs.updCc (Sound.ite (hs.updCc (fun _ => by simp)) hs))
theorem Sound.coreWrite {c off v mask w1c : Nat} (hs : Sound cmds asked s) :
    Sound cmds asked (Machine.coreWrite s c off v mask w1c) := by
  unfold Machine.coreWrite
  extract_lets _ s1 s2 _ s3 _
  have h1 : Sound cmds asked s1 := hs.updCore
  have h2 : Sound cmds asked s2 := hs.setCreg
  have h3 : Sound cmds asked s3 := Sound.ite hs.setRreg hs
  refine Sound.ite ?_ ?_
  · exact Sound.ite (Sound.ite hs hs.startSeq) (Sound.ite h1.haltSeq h1)
  · refine Sound.ite ?_ ?_
    · exact Sound.ite hs (Sound.ite h2.startSeq h2)
    · refine Sound.ite ?_ ?_
      · exact Sound.ite hs hs.setSem
      · exact Sound.ite (Sound.ite hs.setCreg hs) (Sound.ite h3.setRreg (Sound.ite hs.setRreg hs.setCreg))
theorem Sound.clusterWrite {k off v mask w1c : Nat} (hs : Sound cmds asked s) :
    Sound cmds asked (Machine.clusterWrite s k off v mask w1c) := by
  unfold Machine.clusterWrite
  extract_lets _ s1 s2 _ _ s3 _
  have h1 : Sound cmds asked s1 := Sound.ite hs.setKreg hs
  have h2 : Sound cmds asked s2 := h1.updCl
  have h3 : Sound cmds asked s3 := hs.setKreg
  refine Sound.ite ?_ ?_
  · exact hs.icuWrite
  · refine Sound.ite ?_ ?_
    · exact Sound.ite hs hs.setKreg.regrant
    · exact Sound.ite (Sound.ite h1.regrant h2.setShare.regrant) (Sound.ite hs.setKreg h3.setKreg)
theorem Sound.dieWrite {d off v mask : Nat} (hs : Sound cmds asked s) :
    Sound cmds asked (Machine.dieWrite s d off v mask) := Sound.ite hs.setSwallow hs.setDreg
theorem Sound.setPwrState {v : Nat} (hs : Sound cmds asked s) : Sound cmds asked (Machine.setPwrState s v) := hs.updFin
theorem Sound.ioWrite {d off v mask w1c : Nat} (hs : Sound cmds asked s) :
    Sound cmds asked (Machine.ioWrite s d off v mask w1c) :=
  Sound.ite hs.updWl (Sound.ite hs.icuWrite (Sound.ite hs.setRreg.setRreg (Sound.ite hs.setPwrState hs.setIreg)))
theorem Sound.regWrite {r : RegSpace} {off v mask w1c : Nat} (hs : Sound cmds asked s) :
    Sound cmds asked (Machine.regWrite s r off v mask w1c) := by
  unfold Machine.regWrite
  split
  · exact hs.coreWrite
  · exact hs.clusterWrite
  · exact hs.dieWrite
  · exact hs.ioWrite

/-! PowerOps. -/

theorem Sound.takeCal (hs : Sound cmds asked s) : Sound cmds asked (Machine.takeCal s) := hs.congr rfl rfl rfl rfl
theorem Sound.setSiteState {d v : Nat} (hs : Sound cmds asked s) : Sound cmds asked (Machine.setSiteState s d v) := hs.setIreg
theorem Sound.swallowCap {d v : Nat} (hs : Sound cmds asked s) : Sound cmds asked (Machine.swallowCap s d v) := hs.setSwallow
theorem Sound.swallowMargin {d v : Nat} (hs : Sound cmds asked s) : Sound cmds asked (Machine.swallowMargin s d v) := hs.setSwallow
theorem Sound.swallowDroop {d v : Nat} (hs : Sound cmds asked s) : Sound cmds asked (Machine.swallowDroop s d v) := hs.setSwallow
theorem Sound.writeShare {k v : Nat} (hs : Sound cmds asked s) : Sound cmds asked (Machine.writeShare s k v) := by
  unfold Machine.writeShare
  extract_lets s1
  have h1 : Sound cmds asked s1 := hs.updCl
  exact h1.setShare.regrant
theorem Sound.divideOver {ks : List Nat} (hs : Sound cmds asked s) : Sound cmds asked (Machine.divideOver s ks) := by
  unfold Machine.divideOver
  extract_lets _ _
  exact hs.foldl (fun _ ht => ht.writeShare)
theorem Sound.divideCap (hs : Sound cmds asked s) : Sound cmds asked (Machine.divideCap s) := hs.divideOver.updFin
theorem Sound.setTarget {k : Nat} (hs : Sound cmds asked s) : Sound cmds asked (Machine.setTarget s k) := by
  unfold Machine.setTarget
  extract_lets _
  exact hs.setKreg
theorem Sound.setMarginField {k v : Nat}
    (hs : Sound cmds asked s) : Sound cmds asked (Machine.setMarginField s k v) := hs.setKreg.setTarget
theorem Sound.swallowStep {d n : Nat}
    (hs : Sound cmds asked s) : Sound cmds asked (Machine.swallowStep s d n) := hs.updSite.swallowMargin
theorem Sound.raiseSwallow {d : Nat} (hs : Sound cmds asked s) : Sound cmds asked (Machine.raiseSwallow s d) := hs.swallowStep
theorem Sound.countThrottled {units : Nat} (hs : Sound cmds asked s) :
    Sound cmds asked (Machine.countThrottled s units) := by
  unfold Machine.countThrottled
  extract_lets _ _
  exact hs.foldl (fun _ ht => ht.setDreg)
theorem Sound.recouple (hs : Sound cmds asked s) : Sound cmds asked (Machine.recouple s) := hs.foldl (fun _ ht => ht.setDreg)
theorem Sound.setMeridian {d : Nat} {locked fencedBit : Bool} (hs : Sound cmds asked s) :
    Sound cmds asked (Machine.setMeridian s d locked fencedBit) := hs.setDreg
theorem Sound.severLink {e : Nat × Nat} (hs : Sound cmds asked s) : Sound cmds asked (Machine.severLink s e) :=
  Sound.ite hs (hs.foldl (fun _ ht => ht.cutAt)).takeCredits
theorem Sound.darkSite {d : Nat} (hs : Sound cmds asked s) : Sound cmds asked (Machine.darkSite s d) := by
  unfold Machine.darkSite
  refine Sound.updSite (Sound.foldl (hs.tables rfl (fun _ => ?_) (fun _ => ?_) fun _ => ?_) fun _ ht => ht.severLink)
  · exact getN_filter_key spadWf (fun i => siteOf i != d) spadWf_reset
  · exact getN_map_entry vaultWf (fun e => by split <;> rfl) (fun e he => by split <;> [exact rfl; exact he]) vaultWf_reset
  · exact getN_filter_key memWf (fun i => !(decide (i < 1024) && i / 16 == d)) memWf_reset
theorem Sound.openSite {d state : Nat} (hs : Sound cmds asked s) : Sound cmds asked (Machine.openSite s d state) := by
  unfold Machine.openSite
  extract_lets s1 _
  have h1 : Sound cmds asked s1 := hs.darkSite
  exact h1.setIreg.recouple
theorem Sound.energiseSite {d : Nat} (hs : Sound cmds asked s) : Sound cmds asked (Machine.energiseSite s d) := by
  unfold Machine.energiseSite
  extract_lets s1 s2
  have h1 : Sound cmds asked s1 := hs.updSite
  have h2 : Sound cmds asked s2 := h1.setMeridian
  exact h2.foldl (fun _ ht2 => ht2.setKreg.setKreg)
theorem Sound.resetCompute (hs : Sound cmds asked s) : Sound cmds asked (Machine.resetCompute s) := by
  unfold Machine.resetCompute
  refine Sound.foldl (hs.tables rfl (fun _ _ => ?_) (fun _ => ?_) fun _ => ?_) fun _ ht => ht.severLink
  · exact rfl
  · refine getN_map_entry vaultWf ?_ ?_ vaultWf_reset
    · exact fun _ => rfl
    · exact fun _ he => he
  · exact getN_filter_key memWf (fun i => decide (1024 ≤ i)) memWf_reset
theorem Sound.retainVaults {on : Bool} (hs : Sound cmds asked s) : Sound cmds asked (Machine.retainVaults s on) :=
  hs.tables rfl (fun _ h => h) (fun _ => by
    refine getN_map_entry vaultWf ?_ ?_ vaultWf_reset
    · exact fun _ => rfl
    · exact fun _ he => he) fun _ h => h
theorem Sound.setMainIn (hs : Sound cmds asked s) : Sound cmds asked (Machine.setMainIn s) := hs.setIreg
theorem Sound.noteInput {mv : Nat} (hs : Sound cmds asked s) : Sound cmds asked (Machine.noteInput s mv) := by
  unfold Machine.noteInput
  extract_lets _
  exact hs.setIreg
theorem Sound.setCoolantIn (hs : Sound cmds asked s) : Sound cmds asked (Machine.setCoolantIn s) := by
  unfold Machine.setCoolantIn
  extract_lets _
  exact hs.setIreg
theorem Sound.setThermEst (hs : Sound cmds asked s) : Sound cmds asked (Machine.setThermEst s) := by
  unfold Machine.setThermEst
  extract_lets _
  exact hs.setIreg

/-! Dictionary. -/

theorem Sound.scalarWrite {ix sub v : Nat} (hs : Sound cmds asked s) :
    Sound cmds asked (Machine.scalarWrite s ix sub v) := by
  unfold Machine.scalarWrite
  extract_lets s1
  have h1 : Sound cmds asked s1 := hs.setObj
  exact Sound.ite h1.setObj (Sound.ite h1.setObj (Sound.ite h1.setObj h1))

/-! Certs. -/

theorem Sound.mailImage {i : Nat} (hs : Sound cmds asked s) : Sound cmds asked (Machine.mailImage s i) := by
  unfold Machine.mailImage
  split
  · exact hs.updCc.doorbellAt
  · exact hs
theorem Sound.reloadAll (hs : Sound cmds asked s) : Sound cmds asked (Machine.reloadAll s) := hs.foldl (fun _ ht => ht.mailImage)

/-! WlOps. -/

theorem Sound.agentEvent {code sev : Nat} {detail : Bytes} (hs : Sound cmds asked s) :
    Sound cmds asked (Machine.agentEvent s code sev detail) := hs.finderEvent
theorem Sound.closeDebug (hs : Sound cmds asked s) : Sound cmds asked (Machine.closeDebug s) := Sound.ite hs hs.updSec.reloadAll.agentEvent
theorem Sound.closeSessions {f : Session → Bool} (hs : Sound cmds asked s) :
    Sound cmds asked (Machine.closeSessions s f) := by
  unfold Machine.closeSessions
  extract_lets _ s1
  have h1 : Sound cmds asked s1 := hs.updMgmt
  exact Sound.ite h1.closeDebug h1
theorem Sound.wlState {n st : Nat} (hs : Sound cmds asked s) : Sound cmds asked (Machine.wlState s n st) := hs.updWl.doorbellAt
theorem Sound.dropQueues {n : Nat} (hs : Sound cmds asked s) : Sound cmds asked (Machine.dropQueues s n) := hs.updWl
theorem Sound.closePort {n : Nat} (hs : Sound cmds asked s) : Sound cmds asked (Machine.closePort s n) := hs.closeSessions
theorem Sound.wlGoDown {n : Nat} (hs : Sound cmds asked s) : Sound cmds asked (Machine.wlGoDown s n) := by
  unfold Machine.wlGoDown
  extract_lets s1
  have h1 : Sound cmds asked s1 := hs.updWl
  exact h1.wlState.closePort.portEvent
theorem Sound.wlQuarantine {n : Nat} (hs : Sound cmds asked s) : Sound cmds asked (Machine.wlQuarantine s n) :=
  Sound.ite hs hs.updWl.wlState.closePort.portEvent.dropQueues
theorem Sound.wlCount {n counter : Nat} (hs : Sound cmds asked s) : Sound cmds asked (Machine.wlCount s n counter) := hs.updWl
theorem Sound.wlViolation {n counter : Nat} {event : Bool} (hs : Sound cmds asked s) :
    Sound cmds asked (Machine.wlViolation s n counter event) := by
  unfold Machine.wlViolation
  extract_lets _ s1 s2 s3
  have h1 : Sound cmds asked s1 := hs.wlCount.updWl
  have h2 : Sound cmds asked s2 := h1.doorbellAt
  have h3 : Sound cmds asked s3 := Sound.ite h2.portEvent h2
  exact Sound.ite h3.wlQuarantine h3
theorem Sound.wlRetrainNow {n : Nat} (hs : Sound cmds asked s) : Sound cmds asked (Machine.wlRetrainNow s n) := by
  unfold Machine.wlRetrainNow
  extract_lets _ s1 s2 _ s3 s4
  have h1 : Sound cmds asked s1 := hs.updWl
  have h2 : Sound cmds asked s2 := h1.wlState.portEvent
  have h3 : Sound cmds asked s3 := h2.wlCount.updWl
  have h4 : Sound cmds asked s4 := h3.doorbellAt
  exact Sound.ite h2 (Sound.ite h4.wlQuarantine h4)

/-! Dap. -/

theorem Sound.respond {r : DapReq} {status : Nat} {body : Bytes} (hs : Sound cmds asked s) :
    Sound cmds asked (Machine.respond s r status body) := hs.updMgmt
theorem Sound.sendEvents {record : Bytes} (hs : Sound cmds asked s) : Sound cmds asked (Machine.sendEvents s record) := hs.updMgmt
theorem Sound.bumpPath {p : DapPath} {counter : Nat} (hs : Sound cmds asked s) :
    Sound cmds asked (Machine.bumpPath s p counter) := by
  unfold Machine.bumpPath
  extract_lets s1
  have h1 : Sound cmds asked s1 := by
    simp only [s1]
    split
    · exact hs.wlCount.wlViolation
    · exact hs
  exact h1.updMgmt
theorem Sound.quarPath {p : DapPath} (hs : Sound cmds asked s) : Sound cmds asked (Machine.quarPath s p) :=
  Sound.ite hs hs.updMgmt.agentEvent
theorem Sound.noteTime {kind : Nat} {p : DapPath} {sec : Nat} (hs : Sound cmds asked s) :
    Sound cmds asked (Machine.noteTime s kind p sec).1 :=
  by
  unfold Machine.noteTime
  dsimp only
  exact hs.updMgmt
theorem Sound.malformed {p : DapPath} (hs : Sound cmds asked s) : Sound cmds asked (Machine.malformed s p) := by
  unfold Machine.malformed
  extract_lets _
  exact Sound.ite hs.bumpPath.agentEvent.noteTime.quarPath hs.bumpPath.agentEvent.noteTime
theorem Sound.unknownAuth {p : DapPath} (hs : Sound cmds asked s) : Sound cmds asked (Machine.unknownAuth s p) := by
  unfold Machine.unknownAuth
  extract_lets _
  exact Sound.ite hs.bumpPath.agentEvent.noteTime.quarPath hs.bumpPath.agentEvent.noteTime
theorem Sound.lockCred {fp : Bytes} (hs : Sound cmds asked s) : Sound cmds asked (Machine.lockCred s fp) :=
  Sound.ite hs hs.updMgmt.closeSessions.agentEvent
theorem Sound.badSig {p : DapPath} {fp : Bytes} (hs : Sound cmds asked s) : Sound cmds asked (Machine.badSig s p fp) := by
  unfold Machine.badSig
  extract_lets s1 _ s2
  have h1 : Sound cmds asked s1 := hs.bumpPath.agentEvent
  have h2 : Sound cmds asked s2 := h1.updMgmt
  exact Sound.ite h2.lockCred h2
theorem Sound.badAccess {p : DapPath} {fp : Bytes} (hs : Sound cmds asked s) :
    Sound cmds asked (Machine.badAccess s p fp) := by
  unfold Machine.badAccess
  extract_lets s1 _ s2
  have h1 : Sound cmds asked s1 := hs.bumpPath.agentEvent
  have h2 : Sound cmds asked s2 := h1.updMgmt
  exact Sound.ite h2.lockCred h2
theorem Sound.rateExcess {p : DapPath} (hs : Sound cmds asked s) : Sound cmds asked (Machine.rateExcess s p) := by
  unfold Machine.rateExcess
  extract_lets _ s1 _ s2 _ s3
  have h1 : Sound cmds asked s1 := hs.bumpPath
  have h2 : Sound cmds asked s2 := Sound.ite h1 h1.updMgmt.agentEvent
  have h3 : Sound cmds asked s3 := h2.updMgmt
  exact Sound.ite h3.quarPath h3
theorem Sound.countRequest {p : DapPath} (hs : Sound cmds asked s) : Sound cmds asked (Machine.countRequest s p).1 := by
  unfold Machine.countRequest
  extract_lets n
  have hn : Sound cmds asked n.1 := hs.noteTime
  split
  · exact hn.rateExcess
  · dsimp only
    exact hn.updMgmt
theorem Sound.auditPush {entry : Nat → Bytes} (hs : Sound cmds asked s) : Sound cmds asked (Machine.auditPush s entry) := by
  unfold Machine.auditPush
  extract_lets _ _ _
  exact hs.updMgmt
theorem Sound.auditRecord {role result path : Nat} {fp : Bytes} {ix sub : Nat} {old new : Bytes} (hs : Sound cmds asked s) :
    Sound cmds asked (Machine.auditRecord s role result path fp ix sub old new) := by
  unfold Machine.auditRecord
  split
  · extract_lets _ _
    exact hs.updMgmt
  · extract_lets _ s1 _ s2 s3 _ s4
    have h1 : Sound cmds asked s1 := hs.auditPush
    have h2 : Sound cmds asked s2 := Sound.ite h1.updMgmt.agentEvent h1
    have h3 : Sound cmds asked s3 := Sound.ite h2.agentEvent h2
    have h4 : Sound cmds asked s4 := h3.auditPush
    exact Sound.ite h4.updMgmt h3
theorem Sound.dapHear {r : DapReq} {service : Nat} {body : Bytes} (hs : Sound cmds asked s) :
    SoundOpt cmds asked (Machine.dapHear s r service body) := SoundOpt.ite SoundOpt.none hs.updMgmt.some
theorem Sound.touch {r : DapReq} (hs : Sound cmds asked s) : Sound cmds asked (Machine.touch s r) := hs.updMgmt
theorem Sound.recordWrite {role result path : Nat} {fp : Bytes} {ix sub : Nat} {old new : Bytes} (hs : Sound cmds asked s) :
    Sound cmds asked (Machine.recordWrite s role result path fp ix sub old new).1 := by
  unfold Machine.recordWrite
  split
  · exact hs.agentEvent
  · exact hs.auditRecord
theorem Sound.refuseWrite {r : DapReq} {role : Nat} {fp : Bytes} {ix sub : Nat} {old new : Bytes} {status : Nat}
    (hs : Sound cmds asked s) :
    Sound cmds asked (Machine.refuseWrite s r role fp ix sub old new status) := by
  unfold Machine.refuseWrite
  extract_lets _
  exact hs.recordWrite.respond
theorem Sound.badMessage {r : DapReq} (hs : Sound cmds asked s) : Sound cmds asked (Machine.badMessage s r) := hs.malformed.respond
theorem Sound.badBody {r : DapReq} {service : Nat} {body : Bytes} (hs : Sound cmds asked s) :
    Sound cmds asked (Machine.badBody s r service body) := by
  unfold Machine.badBody
  split
  · exact hs
  · next s1 e =>
      have h1 : Sound cmds asked s1 := hs.dapHear _ e
      extract_lets _
      exact Sound.ite h1.countRequest.respond h1.countRequest.badMessage
/-- What a request does with its session keeps a sound state sound. -/
structure SoundApply (cmds : List Instr) (asked : Prop) (apply : Session → State → State) : Prop where
  keeps : ∀ {t} e, Sound cmds asked t → Sound cmds asked (apply e t)
theorem Sound.dapSigned {r : DapReq} {service : Nat} {body : Bytes} {refuse : State → Nat → Bytes → Nat → State}
    {k : Session → State → State}
    (hs : Sound cmds asked s) (hrefuse : ∀ {t} a1 a2 a3, Sound cmds asked t → Sound cmds asked (refuse t a1 a2 a3))
    (hk : SoundApply cmds asked k) :
    Sound cmds asked (Machine.dapSigned s r service body refuse k) := by
  unfold Machine.dapSigned
  split
  · exact hs
  · next s1 e =>
      have h1 : Sound cmds asked s1 := hs.dapHear _ e
      extract_lets _
      refine Sound.ite ?_ ?_
      · exact h1.countRequest.respond
      · refine Sound.ite ?_ ?_
        · exact h1.countRequest.badMessage
        · split
          · exact hrefuse _ _ _ h1.countRequest.unknownAuth
          · refine Sound.ite ?_ ?_
            · exact hrefuse _ _ _ h1.countRequest.badSig
            · exact Sound.ite (hrefuse _ _ _ h1.countRequest.closeSessions.badSig) (hk.keeps _ h1.countRequest.touch)
theorem Sound.dapWriteRaw {r : DapReq} {body : Bytes} {ix sub : Nat} {value : Bytes} {check : Session → State → Nat}
    {apply : Session → State → State}
    (hs : Sound cmds asked s) (happly : SoundApply cmds asked apply) :
    Sound cmds asked (Machine.dapWriteRaw s r body ix sub value check apply) := by
  unfold Machine.dapWriteRaw
  extract_lets _
  refine hs.dapSigned (fun _ _ _ ht => ht.refuseWrite) ⟨fun _ ht1 => ?_⟩
  extract_lets _ _ _
  refine Sound.ite ?_ ?_
  · exact ht1.refuseWrite
  · split
    · exact ht1.refuseWrite
    · extract_lets _
      refine Sound.ite ?_ ?_
      · exact ht1.badAccess.refuseWrite
      · exact Sound.ite ht1.refuseWrite (Sound.ite (happly.keeps _ ht1.recordWrite.respond) ht1.recordWrite.respond)
theorem Sound.dapWrite {r : DapReq} {ix sub : Nat} {value : Bytes} {check : Session → State → Nat} {apply : Session → State → State}
    (hs : Sound cmds asked s) (happly : SoundApply cmds asked apply) :
    Sound cmds asked (Machine.dapWrite s r ix sub value check apply) := hs.dapWriteRaw happly
theorem Sound.dapRequest {r : DapReq} {service : Nat} {body : Bytes} {k : Session → State → State}
    (hs : Sound cmds asked s) (hk : SoundApply cmds asked k) :
    Sound cmds asked (Machine.dapRequest s r service body k) := by
  unfold Machine.dapRequest
  split
  · exact hs
  · next s1 e =>
      have h1 : Sound cmds asked s1 := hs.dapHear _ e
      extract_lets _
      refine Sound.ite ?_ ?_
      · exact h1.countRequest.respond
      · split
        · exact h1.countRequest.unknownAuth.respond
        · exact Sound.ite h1.countRequest.closeSessions.badSig.respond (hk.keeps _ h1.countRequest.touch)

/-! HlOps. -/

theorem Sound.hlSend {d cls : Nat} {msg : Bytes} (hs : Sound cmds asked s) :
    Sound cmds asked (Machine.hlSend s d cls msg) := Sound.ite hs hs.updHl
theorem Sound.sendHello {d : Nat} (hs : Sound cmds asked s) : Sound cmds asked (Machine.sendHello s d) := by
  unfold Machine.sendHello
  extract_lets _ _
  exact hs.freeBytes.updHl.hlSend
theorem Sound.chainLook (hs : Sound cmds asked s) : Sound cmds asked (Machine.chainLook s) := by
  unfold Machine.chainLook
  refine Sound.ite ?_ ?_
  · exact hs
  · split
    · exact hs
    · refine Sound.ite ?_ ?_
      · exact hs
      · extract_lets s1
        have h1 : Sound cmds asked s1 := hs.updStw.stwEvent
        refine h1.foldl fun _ ht1 => ?_
        split
        · exact ht1.hlSend
        · exact ht1
    · exact hs.updStw.stwEvent
theorem Sound.forwardShard {epoch : Bytes} {index : Nat} {image : Bytes} (hs : Sound cmds asked s) :
    Sound cmds asked (Machine.forwardShard s epoch index image) := by
  unfold Machine.forwardShard
  refine Sound.ite ?_ ?_
  · exact hs
  · extract_lets s1
    have h1 : Sound cmds asked s1 := hs.updStw.chainLook
    split
    · exact h1.hlSend
    · exact h1
theorem Sound.forwardManifest {bytes : Bytes} (hs : Sound cmds asked s) :
    Sound cmds asked (Machine.forwardManifest s bytes) := by
  unfold Machine.forwardManifest
  refine Sound.ite ?_ ?_
  · exact hs
  · extract_lets s1
    have h1 : Sound cmds asked s1 := hs.updStw.chainLook
    split
    · exact h1.hlSend
    · exact h1
theorem Sound.chainAcked {d : Nat} (hs : Sound cmds asked s) : Sound cmds asked (Machine.chainAcked s d) :=
  Sound.ite hs (Sound.ite hs.updStw.updStw hs.updStw)
theorem Sound.setChainStall (hs : Sound cmds asked s) : Sound cmds asked (Machine.setChainStall s) := by
  unfold Machine.setChainStall
  extract_lets _
  exact hs.foldl (fun _ ht => (Sound.ite ht ht.updHl))

/-! CtrlNet. -/

theorem Sound.dropMessage {m : CtrlMsg} (hs : Sound cmds asked s) : Sound cmds asked (Machine.dropMessage s m) :=
  Sound.ite hs.raise hs.bumpR.raise
theorem Sound.landing {m : CtrlMsg} {type : Nat} {k : State → State}
    (hs : Sound cmds asked s) (hk : ∀ {t}, Sound cmds asked t → Sound cmds asked (k t)) :
    Sound cmds asked (Machine.landing s m type k) := Sound.ite hs.landCtrl.dropMessage (Sound.ite hs (hk hs.landCtrl))
theorem Sound.execCtrlSignal {m : CtrlMsg} (hs : Sound cmds asked s) : SoundOut cmds asked (Machine.execCtrlSignal m s) := by
  unfold Machine.execCtrlSignal
  refine SoundOut.ite ?_ ?_
  · exact SoundOut.fault _
  · exact (hs.landing (fun ht => (Sound.ite ht (Sound.ite ht.signalSem.failCommand ht.signalSem)))).next
theorem Sound.messageBell {m : CtrlMsg} {i : Nat} (hs : Sound cmds asked s) :
    Sound cmds asked (Machine.messageBell s m i) := by
  unfold Machine.messageBell
  extract_lets _ _
  exact Sound.ite hs.finderBell hs.doorbellAt
theorem Sound.execIcuDoorbell {cc : CcId} {m : CtrlMsg} (hs : Sound cmds asked s) :
    SoundOut cmds asked (Machine.execIcuDoorbell cc m s) := by
  unfold Machine.execIcuDoorbell
  refine SoundOut.ite ?_ ?_
  · exact SoundOut.fault _
  · refine Sound.next ?_
    exact hs.landing (fun ht => (Sound.ite (Sound.messageBell (ht.congr rfl rfl rfl rfl)) (Sound.ite ht.messageBell ht)))
theorem Sound.execErr {m : CtrlMsg} (hs : Sound cmds asked s) : SoundOut cmds asked (Machine.execErr m s) := by
  unfold Machine.execErr
  refine SoundOut.ite ?_ ?_
  · exact SoundOut.fault _
  · refine Sound.next ?_
    refine hs.landing (fun ht => ?_)
    refine Sound.ite ?_ ?_
    · split
      · exact ht.updCc
      · exact ht
    · extract_lets _
      split
      · exact ht.transferFails
      · exact ht
theorem Sound.regError {m : CtrlMsg} {code : Nat} (hs : Sound cmds asked s) :
    Sound cmds asked (Machine.regError s m code) := by
  unfold Machine.regError
  extract_lets s1
  have h1 : Sound cmds asked s1 := hs.sendCtrl
  exact h1.raise
theorem Sound.execRegRd {m : CtrlMsg} (hs : Sound cmds asked s) : SoundOut cmds asked (Machine.execRegRd m s) := by
  unfold Machine.execRegRd
  extract_lets _ _
  refine SoundOut.ite ?_ ?_
  · exact SoundOut.fault _
  · refine Sound.next ?_
    refine hs.landing (fun ht => ?_)
    split
    · exact ht.regError
    · split
      · exact ht.regError
      · refine Sound.ite ?_ ?_
        · exact ht.sendCtrl
        · extract_lets _ _ s2
          have h2 : Sound cmds asked s2 := by
            simp only [s2]
            split
            · exact Sound.ite ht.claimAt ht
            · exact ht
          exact h2.sendCtrl
theorem Sound.execRegWr {m : CtrlMsg} (hs : Sound cmds asked s) : SoundOut cmds asked (Machine.execRegWr m s) := by
  unfold Machine.execRegWr
  extract_lets _ _ _ _ _
  refine SoundOut.ite ?_ ?_
  · exact SoundOut.fault _
  · refine Sound.next ?_
    refine hs.landing (fun ht => ?_)
    split
    · exact ht.regError
    · split
      · exact ht.regError
      · extract_lets _ _ _
        refine Sound.ite ?_ ?_
        · exact ht.sendCtrl
        · refine Sound.ite ?_ ?_
          · exact ht
          · refine Sound.ite ?_ ?_
            · exact ht.regError
            · exact Sound.ite ht.regWrite (Sound.ite (ht.congr rfl rfl rfl rfl) (Sound.regWrite (ht.congr rfl rfl rfl rfl)))
theorem Sound.execRegRsp {m : CtrlMsg} (hs : Sound cmds asked s) : SoundOut cmds asked (Machine.execRegRsp m s) :=
  SoundOut.ite (SoundOut.fault _) (hs.landing (fun ht => ht)).next
theorem Sound.execMgmt {m : CtrlMsg} (hs : Sound cmds asked s) : SoundOut cmds asked (Machine.execMgmt m s) :=
  SoundOut.ite (SoundOut.fault _) (hs.landing (fun ht => ht)).next
theorem Sound.execIcuGroupTimeout {cc : CcId} {g : Fin 16} (hs : Sound cmds asked s) :
    SoundOut cmds asked (Machine.execIcuGroupTimeout cc g s) := (hs.updCc fun _ => by split <;> simp).next
theorem Sound.execIcuClaim {cc : CcId} (hs : Sound cmds asked s) : SoundOut cmds asked (Machine.execIcuClaim cc s) := by
  unfold Machine.execIcuClaim
  refine Sound.next ?_
  split
  · exact hs.claimAt
  · extract_lets _ s1
    have h1 : Sound cmds asked s1 := hs.updCc (fun _ => by simp)
    exact h1.congr rfl rfl rfl rfl
theorem Sound.execIcuSrcWrite {cc : CcId} {n : Fin 1024} {value : W64} (hs : Sound cmds asked s) :
    SoundOut cmds asked (Machine.execIcuSrcWrite cc n value s) := (hs.updCc (fun _ => by simp)).next

/-! Layouts. -/

theorem Sound.clearAreas {p : Nat} {d : SweepDesc} (hs : Sound cmds asked s) : Sound cmds asked (Machine.clearAreas s p d) :=
  hs.foldl (fun _ ht => (ht.updClWf fun _ hv => wf_memZero (wf_memZero hv ..) ..).vaultPass.vaultPass)
theorem Sound.clearCache {p : Nat} {d : SweepDesc} (hs : Sound cmds asked s) :
    Sound cmds asked (Machine.clearCache s p d) := hs.clearAreas.foldl (fun _ ht => ht.updCl)
theorem Sound.emptySlots {p : Nat} {d : SweepDesc} (hs : Sound cmds asked s) :
    Sound cmds asked (Machine.emptySlots s p d) := Sound.ite hs (hs.foldl (fun _ ht => ht.vaultWrite))
theorem Sound.dropHops {p : Nat} {vc0 : Bool} (hs : Sound cmds asked s) : Sound cmds asked (Machine.dropHops s p vc0) := by
  unfold Machine.dropHops
  extract_lets s1 s3
  have h1 : Sound cmds asked s1 := hs.foldl (fun _ ht1 => ht1.dropHop)
  have h3 : Sound cmds asked s3 := h1.congr rfl rfl rfl rfl
  exact h3.foldl (fun _ ht3 => (Sound.ite ht3 ht3.updRouter))
theorem Sound.writeDescs {p bank : Nat} {x : ShardPlace} (hs : Sound cmds asked s) :
    Sound cmds asked (Machine.writeDescs s p bank x) := by
  unfold Machine.writeDescs
  extract_lets _ _ _
  exact hs.foldl (fun _ ht => ht.spadWrite)
theorem Sound.epochDescs {p : Nat} {m : Manifest} {bank : Nat} {xs : List ShardPlace} (hs : Sound cmds asked s) :
    Sound cmds asked (Machine.epochDescs s p m bank xs) := hs.foldl (fun _ ht => (Sound.ite ht.writeDescs ht))
theorem Sound.placeCode {p : Nat} {f : LayoutFile} {n : Nat} (hs : Sound cmds asked s) :
    Sound cmds asked (Machine.placeCode s p f n) := by
  unfold Machine.placeCode
  extract_lets s1 s3 s5
  have h1 : Sound cmds asked s1 := hs.foldl (fun _ ht1 => ht1.setRreg)
  have h3 : Sound cmds asked s3 := h1.foldl (fun _ ht3 => ht3.spadWrite)
  have h5 : Sound cmds asked s5 := h3.foldl (fun _ ht5 => ht5.spadWrite)
  exact h5.foldl (fun _ ht6 => ht6.foldl (fun _ ht7 => (Sound.ite ht7 ht7.spadWrite)))
theorem Sound.placeJob {p : Nat} (hs : Sound cmds asked s) : Sound cmds asked (Machine.placeJob s p) := by
  unfold Machine.placeJob
  split
  · exact hs
  · split
    · exact hs
    · extract_lets _ s1 s3 s4 s6 _ _ s7
      have h1 : Sound cmds asked s1 :=
        hs.foldl (fun _ ht1 => (Sound.ite (Sound.ite ht1 ht1.updCore) (ht1.updCoreWf (fun _ _ => rfl)).updRouter))
      have h3 : Sound cmds asked s3 := h1.clearCache.emptySlots
      have h4 : Sound cmds asked s4 := by
        simp only [s4]
        refine h3.foldl fun _ ht4 => ?_
        split
        · exact ht4.setKreg.setKreg.updCl
        · exact ht4
      have h6 : Sound cmds asked s6 := h4.placeCode
      have h7 : Sound cmds asked s7 := by
        simp only [s7]
        split
        · exact h6.epochDescs
        · exact h6
      split
      · exact h7.epochDescs
      · exact h7
theorem Sound.placeDraft {p : Nat} {x : Draft} (hs : Sound cmds asked s) : Sound cmds asked (Machine.placeDraft s p x) :=
  hs.placeCode.clearAreas.emptySlots
theorem Sound.startStreams {p : Nat} (hs : Sound cmds asked s) : Sound cmds asked (Machine.startStreams s p) := by
  unfold Machine.startStreams
  split
  · exact hs
  · split
    · exact hs
    · exact hs.foldl (fun _ ht => (Sound.ite ht ht.clearErr.startSeq))

/-! Weights. -/

theorem Sound.rejectShard {k index : Nat} {x : ShardPlace} {img : Bytes} {f : Nat × Nat} (hs : Sound cmds asked s) :
    Sound cmds asked (Machine.rejectShard s k index x img f) := by
  unfold Machine.rejectShard
  extract_lets s1
  have h1 : Sound cmds asked s1 := Sound.ite (hs.foldl (fun _ ht1 => ht1.raise)) hs
  exact h1.raise
theorem Sound.landShard {p : Nat} {epoch : Bytes} {bank : Nat} {x : ShardPlace} {img sum : Bytes} (hs : Sound cmds asked s) :
    Sound cmds asked (Machine.landShard s p epoch bank x img sum) := by
  unfold Machine.landShard
  extract_lets _ _ s1 s2 s3
  have h1 : Sound cmds asked s1 := hs.vaultWrite.vaultPass
  have h2 : Sound cmds asked s2 := h1.updCl
  have h3 : Sound cmds asked s3 := h2.foldl (fun _ ht3 => ht3.vaultWrite.vaultPass)
  exact h3.writeDescs
theorem Sound.markMissing {p index : Nat} (hs : Sound cmds asked s) : Sound cmds asked (Machine.markMissing s p index) := hs.updPart
theorem Sound.setEpochs {p : Nat} {f : Epochs → Epochs} (hs : Sound cmds asked s) :
    Sound cmds asked (Machine.setEpochs s p f) := hs.updPart
theorem Sound.shardGone {p : Nat} {digest : Bytes} {index : Nat} (hs : Sound cmds asked s) :
    Sound cmds asked (Machine.shardGone s p digest index) := by
  unfold Machine.shardGone
  extract_lets _
  exact Sound.ite hs.setEpochs hs.markMissing
theorem Sound.dropEpochs {p : Nat} (hs : Sound cmds asked s) : Sound cmds asked (Machine.dropEpochs s p) := by
  unfold Machine.dropEpochs
  extract_lets s1
  have h1 : Sound cmds asked s1 := hs.foldl (fun _ ht1 => (Sound.ite ht1 ht1.updCl))
  exact h1.setEpochs
theorem Sound.rebind {p : Nat} {old new : Bytes} {bank : Nat} (hs : Sound cmds asked s) :
    Sound cmds asked (Machine.rebind s p old new bank) := hs.congr rfl rfl rfl rfl
theorem Sound.abortMoult {p : Nat} (hs : Sound cmds asked s) : Sound cmds asked (Machine.abortMoult s p) := by
  unfold Machine.abortMoult
  extract_lets _
  split
  · exact hs
  · extract_lets s1 s2
    have h1 : Sound cmds asked s1 := Sound.ite hs hs.dropShards
    have h2 : Sound cmds asked s2 := by
      simp only [s2]
      split
      · exact Sound.ite h1.rebind h1
      · exact h1
    exact h2.setEpochs.stwEvent
theorem Sound.corruptShard {p k : Nat} {e : Bytes × Nat × Nat × Nat × Bytes × Nat} (hs : Sound cmds asked s) :
    Sound cmds asked (Machine.corruptShard s p k e) := by
  unfold Machine.corruptShard
  extract_lets _ s1 s2
  have h1 : Sound cmds asked s1 := hs.raise
  have h2 : Sound cmds asked s2 := h1.updCl
  exact h2.shardGone
theorem Sound.epochIncomplete {p : Nat} (hs : Sound cmds asked s) : Sound cmds asked (Machine.epochIncomplete s p) := by
  unfold Machine.epochIncomplete
  extract_lets _
  exact hs.stwEvent
theorem Sound.timeoutMoult {p : Nat} (hs : Sound cmds asked s) : Sound cmds asked (Machine.timeoutMoult s p) := by
  unfold Machine.timeoutMoult
  extract_lets _
  split
  · exact hs
  · exact Sound.ite hs.setEpochs.epochIncomplete hs.abortMoult
theorem Sound.extendEpoch {p : Nat} {m : Manifest} {old : Manifest} {oldBank bank : Nat} (hs : Sound cmds asked s) :
    Sound cmds asked (Machine.extendEpoch s p m old oldBank bank) := by
  unfold Machine.extendEpoch
  split
  · exact hs
  · refine hs.foldl fun _ ht => ?_
    extract_lets k shared
    clear_value shared
    refine Sound.ite ht ?_
    split
    · exact ht.updCl
    · split
      · exact ht.vaultWrite.vaultPass.updCl.writeDescs
      · exact ht
theorem Sound.commitMoult {p : Nat} {m : Moult} (hs : Sound cmds asked s) :
    Sound cmds asked (Machine.commitMoult s p m) := by
  unfold Machine.commitMoult
  extract_lets _ s1 _ s2 s3 s4
  have h1 : Sound cmds asked s1 := by
    simp only [s1]
    split
    · exact Sound.ite hs.extendEpoch hs
    · exact hs
  have h2 : Sound cmds asked s2 := h1.setEpochs
  have h3 : Sound cmds asked s3 := h2.stwEvent
  have h4 : Sound cmds asked s4 := h3.logInput
  exact Sound.ite h4 (Sound.ite h4.setEpochs h4.retireCheck)
theorem Sound.reverify {p : Nat} (hs : Sound cmds asked s) : Sound cmds asked (Machine.reverify s p) :=
  hs.foldl (fun _ ht => ht.foldl (fun _ ht1 => ht1.vaultPass))
theorem Sound.recoverEpochs {p : Nat} (hs : Sound cmds asked s) : Sound cmds asked (Machine.recoverEpochs s p) := by
  unfold Machine.recoverEpochs
  extract_lets s1 _ _ _ s2 s3 s4 _ s5 s6
  have h1 : Sound cmds asked s1 := hs.reverify
  have h2 : Sound cmds asked s2 := by
    simp only [s2]
    split
    · exact Sound.ite h1 h1.setEpochs
    · exact h1
  have h3 : Sound cmds asked s3 := h2.setEpochs
  have h4 : Sound cmds asked s4 := by
    simp only [s4]
    split
    · exact h1.dropShards
    · exact h1
  have h5 : Sound cmds asked s5 := h4.setEpochs
  have h6 : Sound cmds asked s6 := Sound.ite h5.stwEvent h5
  split
  · exact Sound.ite h3 h3.epochIncomplete
  · exact Sound.ite h6.epochIncomplete h6

/-! Restart. -/

theorem Sound.freeze {p reason : Nat} {step : W64} {region : Nat} (hs : Sound cmds asked s) :
    Sound cmds asked (Machine.freeze s p reason step region) := by
  unfold Machine.freeze
  split
  · exact hs
  · exact Sound.ite hs (Sound.stwEvent (hs.updJob.haltPart.congr rfl rfl rfl rfl))
theorem Sound.moveShard {p : Nat} {m : Manifest} {bank : Nat} {copies : List ShardPlace} {o x : ShardPlace}
    (hs : Sound cmds asked s) :
    Sound cmds asked (Machine.moveShard s p m bank copies o x) := by
  unfold Machine.moveShard
  extract_lets _ _ _
  split
  · exact hs
  · extract_lets _ _
    split
    · extract_lets s1
      have h1 : Sound cmds asked s1 := hs.vaultWrite.vaultPass
      exact h1.updCl
    · exact Sound.ite hs hs.shardGone
theorem Sound.moveShards {p : Nat} {m : Manifest} {bank : Nat} {copies old new : List ShardPlace} (hs : Sound cmds asked s) :
    Sound cmds asked (Machine.moveShards s p m bank copies old new) := by
  unfold Machine.moveShards
  refine hs.foldl fun _ ht => ?_
  split
  · exact ht
  · exact Sound.ite ht ht.moveShard
theorem Sound.setPlacement {p : Nat} {f : LayoutFile} {n : Nat} (hs : Sound cmds asked s) :
    Sound cmds asked (Machine.setPlacement s p f n) := by
  unfold Machine.setPlacement
  split
  · exact hs
  · refine Sound.ite ?_ ?_
    · exact hs
    · extract_lets _ _ _ _ s1 s2 s3 s4 _ s5 s6
      have h1 : Sound cmds asked s1 := by
        simp only [s1]
        split
        · exact hs.moveShards
        · exact hs
      have h2 : Sound cmds asked s2 := by
        simp only [s2]
        split
        · exact h1.moveShards
        · exact h1
      have h3 : Sound cmds asked s3 := by
        simp only [s3]
        split
        · exact h2.moveShards
        · exact h2
      have h4 : Sound cmds asked s4 := h3.updJob
      have h5 : Sound cmds asked s5 := h4.foldJob
      have h6 : Sound cmds asked s6 := Sound.ite (h5.foldl (fun _ ht6 => ht6.foldReq)) h5
      exact h6.logInput
theorem Sound.restartBegin {p cause : Nat} (hs : Sound cmds asked s) :
    Sound cmds asked (Machine.restartBegin s p cause) := by
  unfold Machine.restartBegin
  split
  · exact hs
  · split
    · exact hs
    · refine Sound.ite ?_ ?_
      · exact hs
      · refine Sound.ite ?_ ?_
        · exact hs.updJob
        · refine Sound.ite ?_ ?_
          · exact hs.hlSend.freeze
          · refine Sound.ite ?_ ?_
            · exact hs.stwEvent.endJob
            · refine Sound.ite ?_ ?_
              · exact hs.endJob
              · extract_lets s1 s2 s3
                have h1 : Sound cmds asked s1 := hs.haltPart.dropHops
                have h2 : Sound cmds asked s2 := h1.stwEvent
                have h3 : Sound cmds asked s3 := Sound.ite hs h2.updJob
                split
                · exact h3.stwEvent.endJob
                · exact h3.setPlacement
theorem Sound.instarRestart {p : Nat} (hs : Sound cmds asked s) : Sound cmds asked (Machine.instarRestart s p) := by
  unfold Machine.instarRestart
  split
  · exact hs
  · extract_lets s1
    have h1 : Sound cmds asked s1 := hs.updJob
    exact h1.stwEvent
theorem Sound.replaceDraft {p : Nat} (hs : Sound cmds asked s) : Sound cmds asked (Machine.replaceDraft s p) := by
  unfold Machine.replaceDraft
  split
  · exact hs
  · split
    · exact hs.unloadDraft
    · extract_lets _
      exact hs.updJob.placeDraft
theorem Sound.restartFinish {p : Nat} (hs : Sound cmds asked s) : Sound cmds asked (Machine.restartFinish s p) := by
  unfold Machine.restartFinish
  split
  · exact hs
  · refine Sound.ite ?_ ?_
    · exact hs
    · extract_lets s1 s2 _ s3
      have h1 : Sound cmds asked s1 := hs.placeJob.replaceDraft
      have h2 : Sound cmds asked s2 := h1.congr rfl rfl rfl rfl
      have h3 : Sound cmds asked s3 := h2.updJob
      exact h3.instarRestart.startStreams
theorem Sound.fenceAnswer {cause : Nat} (hs : Sound cmds asked s) : Sound cmds asked (Machine.fenceAnswer s cause) :=
  hs.foldl (fun _ ht => (Sound.ite ht.restartBegin ht))
theorem Sound.fenceAll {u cause : Nat}
    (hs : Sound cmds asked s) : Sound cmds asked (Machine.fenceAll s u cause) := hs.fenceUnit.fenceAnswer
theorem Sound.rewindCore {c step : Nat} {x : StreamImage} (hs : Sound cmds asked s) :
    Sound cmds asked (Machine.rewindCore s c step x) := by
  unfold Machine.rewindCore
  extract_lets s1 s2
  have h1 : Sound cmds asked s1 := hs.updCore
  have h2 : Sound cmds asked s2 := h1.setCreg
  exact h2.clearErr.setCreg.startSeq
theorem Sound.rewindRegion {p r : Nat} (hs : Sound cmds asked s) : Sound cmds asked (Machine.rewindRegion s p r) := by
  unfold Machine.rewindRegion
  split
  · exact hs
  · extract_lets _ _ s1
    have h1 : Sound cmds asked s1 := hs.foldl (fun _ ht1 => ht1.updCl)
    exact h1.foldl (fun _ ht2 => (Sound.ite ht2.rewindCore ht2))
theorem Sound.replaySteps {p : Nat} {upstream : Option Nat} (hs : Sound cmds asked s) :
    Sound cmds asked (Machine.replaySteps s p upstream) := by
  unfold Machine.replaySteps
  split
  · exact hs
  · extract_lets s1 _ s2 s5 s6
    have h1 : Sound cmds asked s1 := by
      simp only [s1]
      split
      · exact hs.updRegion
      · exact hs
    have h2 : Sound cmds asked s2 := h1.foldl (fun _ ht2 => ht2.foldl (fun _ ht3 => ht3.haltSeq))
    have h5 : Sound cmds asked s5 := h2.updJob.dropHops
    have h6 : Sound cmds asked s6 := h5.foldl (fun _ ht6 => ht6.rewindRegion)
    exact h6.stwEvent
theorem Sound.failStep {p region code : Nat} {unit : W32} {upstream : Option Nat} (hs : Sound cmds asked s) :
    Sound cmds asked (Machine.failStep s p region code unit upstream) := by
  unfold Machine.failStep
  extract_lets _ s1
  have h1 : Sound cmds asked s1 := Sound.ite hs hs.fenceUnit
  exact Sound.ite h1.restartBegin hs.updRegion.replaySteps
theorem Sound.requestRestart {h : Nat} (hs : Sound cmds asked s) : Sound cmds asked (Machine.requestRestart s h) := by
  unfold Machine.requestRestart
  split
  · exact hs
  · extract_lets _ _ s1 s2 s3
    have h1 : Sound cmds asked s1 := hs.dropTokens.dropExtents
    have h2 : Sound cmds asked s2 := h1.updReq
    have h3 : Sound cmds asked s3 := h2.draftCheck
    exact Sound.ite hs (Sound.ite h3.replaySteps h3)
theorem Sound.retireFrame {c base frame : Nat} (hs : Sound cmds asked s) :
    Sound cmds asked (Machine.retireFrame s c base frame) :=
  Sound.ite hs.fenceAll (hs.updStw.raise.foldl (fun _ ht => ht.requestRestart))
theorem Sound.vaultRepeat {k a : Nat} {instarState : Bool} (hs : Sound cmds asked s) :
    Sound cmds asked (Machine.vaultRepeat s k a instarState) := by
  unfold Machine.vaultRepeat
  extract_lets _ s1
  have h1 : Sound cmds asked s1 := hs.updCl
  refine Sound.ite ?_ ?_
  · exact hs.fenceAll
  · split
    · exact h1
    · split
      · exact h1.foldl (fun _ ht1 => ht1.corruptShard)
      · refine Sound.ite ?_ ?_
        · exact h1.restartBegin
        · split
          · exact h1.retireFrame
          · exact h1.foldl (fun _ ht2 => ht2.requestRestart)
          · exact h1.restartBegin
theorem Sound.windowEvents {old s : State} (hs1 : Sound cmds asked s) : Sound cmds asked (Machine.windowEvents old s) :=
  hs1.foldl (fun _ ht => ht.foldl (fun _ ht1 => (Sound.ite ht1.stwEvent ht1)))

/-! Instar. -/

theorem Sound.countExport {p : Nat} {f : LayoutFile} {ts : List Trained} {x : InstarSection} (hs : Sound cmds asked s) :
    Sound cmds asked (Machine.countExport s p f ts x) := by
  unfold Machine.countExport
  refine hs.foldl fun _ ht => ?_
  split
  · exact ht
  · exact ht.foldl (fun _ ht1 => ht1.bumpC.bumpC)
theorem Sound.setInstar {p : Nat} {i : Instar} (hs : Sound cmds asked s) : Sound cmds asked (Machine.setInstar s p i) := hs.updJob
theorem Sound.exportNow {p : Nat} (hs : Sound cmds asked s) : Sound cmds asked (Machine.exportNow s p) := by
  unfold Machine.exportNow
  split
  · split
    · exact hs
    · extract_lets _ _ s1 s2 s3 s4
      have h1 : Sound cmds asked s1 := hs.setInstar
      have h2 : Sound cmds asked s2 := h1.hostWrite
      have h3 : Sound cmds asked s3 := by
        simp only [s3]
        split
        · exact h2.countExport
        · exact h2
      have h4 : Sound cmds asked s4 := h3.setInstar
      exact Sound.ite h1 h4.stwEvent
  · exact hs
theorem Sound.execInstarBatchDone {p : PartId} {losses : List F32} {grads : List F32} (hs : Sound cmds asked s) :
    SoundOut cmds asked (Machine.execInstarBatchDone p losses grads s) := by
  unfold Machine.execInstarBatchDone
  extract_lets _ _
  refine Sound.next ?_
  split
  · split
    · exact hs
    · refine Sound.ite ?_ ?_
      · exact hs
      · extract_lets _ _ _ s1 s2 s3 s4 s5
        have h1 : Sound cmds asked s1 := hs.setInstar
        have h2 : Sound cmds asked s2 := Sound.ite h1.stwEvent h1
        have h3 : Sound cmds asked s3 := h2.foldJob
        have h4 : Sound cmds asked s4 := Sound.ite h3.foldJob h3
        have h5 : Sound cmds asked s5 := h4.postRec
        exact Sound.ite h5.exportNow h5
  · exact hs
theorem Sound.execCheckpoint {p : PartId} (hs : Sound cmds asked s) : SoundOut cmds asked (Machine.execCheckpoint p s) := by
  unfold Machine.execCheckpoint
  extract_lets _
  refine Sound.next ?_
  split
  · refine Sound.ite ?_ ?_
    · exact hs
    · extract_lets _ _ _ s1 _ s2 s3
      have h1 : Sound cmds asked s1 := hs.hostWrite
      have h2 : Sound cmds asked s2 := h1.setInstar
      have h3 : Sound cmds asked s3 := h2.stwEvent
      exact Sound.ite hs.endJob (Sound.ite h3.exportNow.endJob h3)
  · exact hs
theorem Sound.execInstarExport {req : DapReq} {value : Byte} (hs : Sound cmds asked s) :
    SoundOut cmds asked (Machine.execInstarExport req value s) := by
  unfold Machine.execInstarExport
  extract_lets _
  refine Sound.next ?_
  refine hs.dapWrite ⟨fun _ ht => ?_⟩
  split
  · exact Sound.ite ht.exportNow ht.setInstar
  · exact ht

/-! Jobs. -/

theorem Sound.writeMember {d p gen : Nat} (hs : Sound cmds asked s) : Sound cmds asked (Machine.writeMember s d p gen) := by
  unfold Machine.writeMember
  extract_lets _
  exact hs.setDreg.foldl (fun _ ht => ht.setRreg)
theorem Sound.clearMember {d gen : Nat} (hs : Sound cmds asked s) : Sound cmds asked (Machine.clearMember s d gen) :=
  hs.setDreg.foldl (fun _ ht => ht.setRreg)
theorem Sound.joinSite {d : Nat} {p : PartId} (hs : Sound cmds asked s) : Sound cmds asked (Machine.joinSite s d p) := by
  unfold Machine.joinSite
  extract_lets s1
  have h1 : Sound cmds asked s1 := hs.writeMember
  exact h1.updSite
theorem Sound.seedPart {p : Nat} (hs : Sound cmds asked s) : Sound cmds asked (Machine.seedPart s p) := by
  unfold Machine.seedPart
  extract_lets s1
  have h1 : Sound cmds asked s1 := hs.setTheta
  exact h1.updPart
theorem Sound.applyPartDef {p : PartId} {v : Nat} (hs : Sound cmds asked s) :
    Sound cmds asked (Machine.applyPartDef s p v) := by
  unfold Machine.applyPartDef
  extract_lets _ _ s1 _ _ _ _ s2 s4 s6 s8
  have h1 : Sound cmds asked s1 := hs.updPart
  have h2 : Sound cmds asked s2 := h1.foldl (fun _ ht2 => (Sound.ite ht2.updSite.clearMember ht2.updSite))
  have h4 : Sound cmds asked s4 := h2.foldl (fun _ ht4 => (Sound.ite ht4.writeMember ht4))
  have h6 : Sound cmds asked s6 := h4.foldl (fun _ ht6 => (Sound.ite ht6.updSite ht6.joinSite))
  have h8 : Sound cmds asked s8 := Sound.ite h6.dropEpochs h6
  exact Sound.ite (h1.foldl (fun _ ht8 => (Sound.ite ht8.writeMember ht8))) h8.seedPart
theorem Sound.execPartDef {req : DapReq} {p : PartId} {value : W64} (hs : Sound cmds asked s) :
    SoundOut cmds asked (Machine.execPartDef req p value s) := (hs.dapWrite ⟨fun _ ht => ht.applyPartDef⟩).next
theorem Sound.execSiteClearDone {site : SiteId} (hs : Sound cmds asked s) :
    SoundOut cmds asked (Machine.execSiteClearDone site s) := by
  unfold Machine.execSiteClearDone
  extract_lets _ s1 s3
  have h1 : Sound cmds asked s1 := hs.foldl (fun _ ht1 => (Sound.ite ht1 (ht1.updCoreWf (fun _ _ => rfl))))
  have h3 : Sound cmds asked s3 := h1.foldl (fun _ ht3 => (ht3.updClWf (fun _ _ => rfl)).vaultPass.vaultPass)
  refine Sound.next ?_
  split
  · exact Sound.ite hs h3.joinSite
  · exact hs
theorem Sound.layoutReject {p reason : Nat} (hs : Sound cmds asked s) :
    Sound cmds asked (Machine.layoutReject s p reason) := hs.stwEvent
theorem Sound.layoutMalformed {p : Option Nat} {off kind : Nat} (hs : Sound cmds asked s) :
    Sound cmds asked (Machine.layoutMalformed s p off kind) := hs.stwEvent
theorem Sound.startJob {n : WlPort} {addr : W64} {d : Bytes} (hs : Sound cmds asked s) :
    Sound cmds asked (Machine.startJob s n addr d) := by
  unfold Machine.startJob
  split
  · exact hs.layoutMalformed
  · extract_lets _ _ s1 _
    have h1 : Sound cmds asked s1 := Sound.ite hs.updStw hs
    exact Sound.ite hs.layoutReject (Sound.ite hs.layoutReject h1.updPart)
theorem Sound.execJobStart {req : DapReq} {addr : W64} {desc : Option Bytes} (hs : Sound cmds asked s) :
    SoundOut cmds asked (Machine.execJobStart req addr desc s) := by
  unfold Machine.execJobStart
  refine Sound.next ?_
  refine hs.dapWrite ⟨fun _ ht => ?_⟩
  split
  · exact ht.hostFetch.startJob
  · exact ht.hostFetch
  · exact ht
theorem Sound.execPartitionClearDone {p : PartId} (hs : Sound cmds asked s) :
    SoundOut cmds asked (Machine.execPartitionClearDone p s) := by
  unfold Machine.execPartitionClearDone
  extract_lets _ s1 s3
  have h1 : Sound cmds asked s1 := hs.foldl (fun _ ht1 => (Sound.ite ht1 (ht1.updCoreWf (fun _ _ => rfl))))
  have h3 : Sound cmds asked s3 := h1.foldl (fun _ ht3 => ht3.clearCache)
  exact (Sound.ite hs h3.updPart).next
theorem Sound.dropJob {p : Nat} (hs : Sound cmds asked s) : Sound cmds asked (Machine.dropJob s p) := hs.updPart
theorem Sound.runJob {p : Nat} {f : LayoutFile} {inst : Option (Instar × Bytes)} (hs : Sound cmds asked s) :
    Sound cmds asked (Machine.runJob s p f inst) := by
  unfold Machine.runJob
  split
  · exact hs
  · extract_lets _ _ _ _ _ _ s1 _ s2 s3
    have h1 : Sound cmds asked s1 := hs.updJob
    have h2 : Sound cmds asked s2 := h1.logInput
    have h3 : Sound cmds asked s3 := h2.setPlacement.placeJob
    exact Sound.ite h3 h3.startStreams
theorem Sound.pairJob {p : Nat} (hs : Sound cmds asked s) : Sound cmds asked (Machine.pairJob s p) := by
  unfold Machine.pairJob
  split
  · exact hs
  · extract_lets _
    exact Sound.ite hs.stwEvent.endJob hs.updJob.hlSend
theorem Sound.keepEpochs {p : Nat} {program : Bytes} (hs : Sound cmds asked s) :
    Sound cmds asked (Machine.keepEpochs s p program) := by
  unfold Machine.keepEpochs
  split
  · exact Sound.ite hs hs.dropEpochs
  · exact Sound.ite hs hs.dropEpochs
  · exact hs
theorem Sound.checkFile {p : Nat} {f : LayoutFile} {digest : Bytes} {instar : Bool} {drop k : State → State}
    (hs : Sound cmds asked s) (hdrop : ∀ {t}, Sound cmds asked t → Sound cmds asked (drop t))
    (hk : ∀ {t}, Sound cmds asked t → Sound cmds asked (k t)) :
    Sound cmds asked (Machine.checkFile s p f digest instar drop k) := by
  unfold Machine.checkFile
  split
  · exact (hdrop hs).layoutMalformed
  · refine Sound.ite ?_ ?_
    · exact (hdrop hs).layoutReject
    · split
      · exact (hdrop hs).layoutReject.stwEvent
      · exact (hdrop hs).layoutReject
      · exact hk hs
theorem Sound.fetchFile {n addr len : Nat} {file : Option LayoutFile} {drop : State → State} {k : State → LayoutFile → State}
    (hs : Sound cmds asked s) (hdrop : ∀ {t}, Sound cmds asked t → Sound cmds asked (drop t))
    (hk : ∀ {t} a1, Sound cmds asked t → Sound cmds asked (k t a1)) :
    Sound cmds asked (Machine.fetchFile s n addr len file drop k) := by
  unfold Machine.fetchFile
  split
  · exact hdrop hs.hostFetch
  · extract_lets s1
    have h1 : Sound cmds asked s1 := hs.hostFetch
    exact Sound.ite (hdrop h1) (hk _ h1)
theorem Sound.checkLayout {p : Nat} {f : LayoutFile} {digest : Bytes} {instar : Bool} {k : State → State}
    (hs : Sound cmds asked s) (hk : ∀ {t}, Sound cmds asked t → Sound cmds asked (k t)) :
    Sound cmds asked (Machine.checkLayout s p f digest instar k) := hs.checkFile (fun ht => ht.dropJob) (hk)
theorem Sound.execJobLoad {p : PartId} {file : Option LayoutFile} {instarDesc : Option Bytes} {instarFile : Option LayoutFile}
    {checkpoint : Option Bytes}
    (hs : Sound cmds asked s) :
    SoundOut cmds asked (Machine.execJobLoad p file instarDesc instarFile checkpoint s) := by
  unfold Machine.execJobLoad
  extract_lets _
  refine Sound.next ?_
  split
  · exact hs
  · refine Sound.ite ?_ ?_
    · exact hs
    · extract_lets _
      refine hs.fetchFile (fun ht => ht.dropJob) (fun _ ht1 => ?_)
      refine ht1.checkLayout (fun ht2 => ?_)
      refine Sound.ite ?_ ?_
      · extract_lets s4
        have h4 : Sound cmds asked s4 := ht2.keepEpochs.runJob
        exact Sound.ite h4.pairJob h4
      · split
        · exact ht2.hostFetch.dropJob
        · extract_lets s5
          have h5 : Sound cmds asked s5 := ht2.hostFetch
          refine Sound.ite ?_ ?_
          · exact h5.dropJob.layoutReject
          · refine h5.fetchFile (fun ht5 => ht5.dropJob) (fun _ ht6 => ?_)
            refine ht6.checkLayout (fun ht7 => ?_)
            refine Sound.ite ?_ ?_
            · exact ht7.dropJob.layoutReject
            · extract_lets s9
              have h9 : Sound cmds asked s9 := Sound.ite ht7.hostFetch ht7
              split
              · exact h9.dropJob.layoutReject
              · split
                · exact h9.runJob.stwEvent
                · exact h9.dropJob
theorem Sound.execJobEnd {req : DapReq} {value : Byte} (hs : Sound cmds asked s) :
    SoundOut cmds asked (Machine.execJobEnd req value s) := by
  unfold Machine.execJobEnd
  extract_lets _
  exact (hs.dapWrite ⟨fun _ ht => ht.endJob⟩).next

/-! FaultCmds. -/

theorem Sound.repeatAnswer {p : Nat} {f : FaultReport} {g : Fin 6 × Nat} (hs : Sound cmds asked s) :
    Sound cmds asked (Machine.repeatAnswer s p f g) := by
  unfold Machine.repeatAnswer
  extract_lets _
  exact Sound.ite hs.fenceAll (Sound.ite hs.restartBegin hs.vaultRepeat)
theorem Sound.execStepReplay {p : PartId} {f : FaultReport} (hs : Sound cmds asked s) :
    SoundOut cmds asked (Machine.execStepReplay p f s) := by
  unfold Machine.execStepReplay
  extract_lets _ _ _ _ s1
  have h1 : Sound cmds asked s1 := hs.updRegion
  refine Sound.next ?_
  split
  · exact hs
  · refine Sound.ite ?_ ?_
    · exact hs
    · refine Sound.ite ?_ ?_
      · exact hs.restartBegin
      · split
        · refine Sound.ite ?_ ?_
          · extract_lets s2
            have h2 : Sound cmds asked s2 := h1.repeatAnswer
            split
            · exact Sound.ite h2 h2.failStep
            · exact h2
          · exact h1.failStep
        · exact h1.failStep
theorem Sound.execStepWatchdog {p : PartId} {region : Nat} (hs : Sound cmds asked s) :
    SoundOut cmds asked (Machine.execStepWatchdog p region s) := by
  unfold Machine.execStepWatchdog
  extract_lets _ _ _ s1 s2 s3
  have h1 : Sound cmds asked s1 := hs.stwEvent
  have h2 : Sound cmds asked s2 := h1.updJob
  have h3 : Sound cmds asked s3 := h2.updFin
  refine Sound.next ?_
  split
  · exact hs
  · exact Sound.ite hs (Sound.ite h1.updRegion.replaySteps h3.restartBegin)
theorem Sound.execJobRestart {p : PartId} {cause : BitVec 16} (hs : Sound cmds asked s) :
    SoundOut cmds asked (Machine.execJobRestart p cause s) := by
  unfold Machine.execJobRestart
  extract_lets _
  refine Sound.next ?_
  split
  · exact hs
  · exact (Sound.ite hs hs.restartBegin).restartFinish
theorem Sound.execRequestRestart {h : Slot} (hs : Sound cmds asked s) :
    SoundOut cmds asked (Machine.execRequestRestart h s) := hs.requestRestart.next
theorem Sound.execUnitFenced {unit : W32} {cause : BitVec 16} (hs : Sound cmds asked s) :
    SoundOut cmds asked (Machine.execUnitFenced unit cause s) := hs.fenceAll.windowEvents.next
theorem Sound.forgetNotes {c : Nat} (hs : Sound cmds asked s) : Sound cmds asked (Machine.forgetNotes s c) := hs.updCore
theorem Sound.openCore {c : Nat} (hs : Sound cmds asked s) : Sound cmds asked (Machine.openCore s c) := by
  unfold Machine.openCore
  extract_lets _ _ _
  exact hs.setRreg.setKreg.forgetNotes
theorem Sound.openLink {c port : Nat} (hs : Sound cmds asked s) : Sound cmds asked (Machine.openLink s c port) := by
  unfold Machine.openLink
  split
  · exact hs
  · extract_lets s1
    have h1 : Sound cmds asked s1 := hs.resyncLink
    exact Sound.ite h1 h1.bothEnds
theorem Sound.returnUnit {u : Nat} (hs : Sound cmds asked s) : Sound cmds asked (Machine.returnUnit s u) := by
  unfold Machine.returnUnit
  extract_lets s1 _ _ _ s2 s3
  have h1 : Sound cmds asked s1 := hs.updStw
  have h2 : Sound cmds asked s2 := h1.setKreg
  have h3 : Sound cmds asked s3 :=
    Sound.ite h1.openLink (Sound.ite (Sound.ite h1 h1.openCore) (h2.foldl (fun _ ht3 => (Sound.ite ht3 ht3.openCore))))
  exact h3.raise
theorem Sound.execUnfence {req : DapReq} {unit : W32} {testPass : Bool} (hs : Sound cmds asked s) :
    SoundOut cmds asked (Machine.execUnfence req unit testPass s) := by
  unfold Machine.execUnfence
  extract_lets _
  exact (hs.dapWrite ⟨fun _ ht => ht.returnUnit⟩).next
theorem Sound.execPatrol {cl : ClusterId} {ecc : EccObs} (hs : Sound cmds asked s) :
    SoundOut cmds asked (Machine.execPatrol cl ecc s) := by
  unfold Machine.execPatrol
  extract_lets _ _ s1 s2 s3 s4 s5
  have h1 : Sound cmds asked s1 := hs.bumpK.bumpK.bumpK
  have h2 : Sound cmds asked s2 := h1.bumpK.bumpK
  have h3 : Sound cmds asked s3 := h2.vaultPass
  have h4 : Sound cmds asked s4 := Sound.ite h3 h3.raise
  have h5 : Sound cmds asked s5 := h4.updClWf (fun _ hm => wf_memPoison hm _)
  exact (Sound.ite hs (Sound.ite h4 (h5.foldl (fun _ ht5 => ht5.raise.vaultRepeat)))).next
theorem Sound.deliver {l : LoggedEvent} (hs : Sound cmds asked s) : Sound cmds asked (Machine.deliver s l) := by
  unfold Machine.deliver
  extract_lets _ _
  refine Sound.ite ?_ ?_
  · exact hs
  · exact hs.sendEvents.foldl (fun _ ht => ht.foldl (fun _ ht1 => (Sound.ite ht1 (Sound.ite ht1.queueWrite ht1.updWl))))
theorem Sound.execEventRecord (hs : Sound cmds asked s) : SoundOut cmds asked (Machine.execEventRecord s) := by
  unfold Machine.execEventRecord
  refine Sound.next ?_
  split
  · exact hs
  · refine Sound.ite ?_ ?_
    · exact hs
    · extract_lets s1 _ _ _ _ s2 _ _
      have h1 : Sound cmds asked s1 := hs.congr rfl rfl rfl rfl
      have h2 : Sound cmds asked s2 := h1.updStw
      exact Sound.ite h2.setObj h2.updStw.deliver
theorem Sound.execBinoHello {p : PartId} {peer : Bytes} (hs : Sound cmds asked s) :
    SoundOut cmds asked (Machine.execBinoHello p peer s) := by
  unfold Machine.execBinoHello
  extract_lets _ s1
  have h1 : Sound cmds asked s1 := hs.updJob
  refine Sound.next ?_
  split
  · exact hs
  · exact Sound.ite hs (Sound.ite hs.stwEvent.endJob (Sound.startStreams (h1.congr rfl rfl rfl rfl)))
theorem Sound.noteEqual {p region : Nat} {step : W64} (hs : Sound cmds asked s) :
    Sound cmds asked (Machine.noteEqual s p region step) := by
  unfold Machine.noteEqual
  split
  · exact hs
  · exact Sound.ite hs.updJob hs
theorem Sound.compareSub {p region : Nat} {step : W64} (hs : Sound cmds asked s) :
    Sound cmds asked (Machine.compareSub s p region step) := by
  unfold Machine.compareSub
  split
  · exact hs
  · extract_lets _ s1
    have h1 : Sound cmds asked s1 := hs.updJob
    split
    · exact Sound.ite h1.noteEqual h1.freeze
    · exact hs
theorem Sound.execSubp {p : PartId} {msg : Bytes} (hs : Sound cmds asked s) :
    SoundOut cmds asked (Machine.execSubp p msg s) := by
  unfold Machine.execSubp
  extract_lets _ _ _
  refine Sound.next ?_
  split
  · exact hs
  · exact Sound.ite hs (Sound.ite hs.freeze hs.updJob.compareSub)
theorem Sound.execBinoTimeout {p : PartId} (hs : Sound cmds asked s) : SoundOut cmds asked (Machine.execBinoTimeout p s) := by
  unfold Machine.execBinoTimeout
  extract_lets _
  refine Sound.next ?_
  split
  · exact hs
  · split
    · exact Sound.ite hs.freeze hs
    · exact hs

/-! Requests. -/

theorem Sound.fetchEntry {q : Nat} (hs : Sound cmds asked s) : Sound cmds asked (Machine.fetchEntry s q) := by
  unfold Machine.fetchEntry
  split
  · exact hs
  · exact hs.hostRead
theorem Sound.takeCmd {q : Nat} (hs : Sound cmds asked s) : Sound cmds asked (Machine.takeCmd s q) := by
  unfold Machine.takeCmd
  split
  · exact hs
  · extract_lets _ s1 s2
    have h1 : Sound cmds asked s1 := hs.updWl
    have h2 : Sound cmds asked s2 := h1.hostWrite
    exact Sound.ite h2 h2.fetchEntry
theorem Sound.answerCmd {q : Nat} {e : Bytes} {code : Nat} (hs : Sound cmds asked s) :
    Sound cmds asked (Machine.answerCmd s q e code) := by
  unfold Machine.answerCmd
  extract_lets _
  exact hs.postAnswer
theorem Sound.refuseCmd {q index : Nat} {e : Bytes} {code : Nat} (hs : Sound cmds asked s) :
    Sound cmds asked (Machine.refuseCmd s q index e code) := by
  unfold Machine.refuseCmd
  extract_lets s1 s2
  have h1 : Sound cmds asked s1 := hs.takeCmd
  have h2 : Sound cmds asked s2 := h1.stwEvent
  exact h2.answerCmd.wlViolation
/-- The effect of a host's command keeps a sound state sound. -/
structure SoundEffect (cmds : List Instr) (asked : Prop) (apply : State → State) : Prop where
  keeps : ∀ {t}, Sound cmds asked t → Sound cmds asked (apply t)
theorem Sound.hostCmd {q : BitVec 16} {index : W32} {e : Bytes} {payload : Nat} {refusal : State → Option Nat}
    {apply : State → State}
    (hs : Sound cmds asked s) (happly : SoundEffect cmds asked apply) :
    Sound cmds asked (Machine.hostCmd s q index e payload refusal apply) := by
  unfold Machine.hostCmd
  refine Sound.ite ?_ ?_
  · exact hs
  · split
    · exact hs.refuseCmd
    · exact Sound.ite hs.logStall (happly.keeps hs.takeCmd)
theorem Sound.readPrompt {h : Slot} {r : Request} (hs : Sound cmds asked s) :
    Sound cmds asked (Machine.readPrompt s h r) := by
  unfold Machine.readPrompt
  extract_lets _
  exact hs.hostRead
theorem Sound.readMask {h : Slot} {r : Request} (hs : Sound cmds asked s) : Sound cmds asked (Machine.readMask s h r) := by
  unfold Machine.readMask
  extract_lets _
  exact hs.hostRead
theorem Sound.addRequest {h : Nat} {r : Request} (hs : Sound cmds asked s) :
    Sound cmds asked (Machine.addRequest s h r) := hs.setReq.updStw
theorem Sound.startReads {h : Nat} {r : Request} (hs : Sound cmds asked s) :
    Sound cmds asked (Machine.startReads s h r) := by
  unfold Machine.startReads
  extract_lets _ s1 s2
  have h1 : Sound cmds asked s1 := hs.readPrompt
  have h2 : Sound cmds asked s2 := Sound.ite h1.readMask h1
  exact Sound.ite h2.hostRead h2
theorem Sound.inputArrived {why : ReadFor} {data : Bytes} (hs : Sound cmds asked s) :
    Sound cmds asked (Machine.inputArrived s why data) := by
  unfold Machine.inputArrived
  split
  · split
    · extract_lets _
      exact Sound.ite hs.setReq.readPrompt hs.setReq
    · exact hs
  · split
    · extract_lets _
      exact Sound.ite hs.setReq.readMask hs.setReq
    · exact hs
  · split
    · exact hs.setReq
    · exact hs
  · exact hs
  · exact hs
theorem Sound.inputFailed {why : ReadFor} (hs : Sound cmds asked s) : Sound cmds asked (Machine.inputFailed s why) := by
  unfold Machine.inputFailed
  split
  · exact hs.endRequest
  · exact hs.endRequest
  · exact hs.endRequest
  · exact hs
  · exact hs
theorem Sound.execSubmit {q : BitVec 16} {index : W32} {entry : Bytes} (hs : Sound cmds asked s) :
    SoundOut cmds asked (Machine.execSubmit q index entry s) :=
  SoundOut.ite (SoundOut.fault _) (hs.hostCmd ⟨fun ht => ht.addRequest.startReads.answerCmd⟩).next
theorem Sound.withReq {e : Bytes} {k : Nat → Request → State}
    (hs : Sound cmds asked s) (hk : ∀ a a1, Sound cmds asked (k a a1)) :
    Sound cmds asked (Machine.withReq s e k) := by
  unfold Machine.withReq
  split
  · exact hk _ _
  · exact hs
theorem Sound.execCancel {q : BitVec 16} {index : W32} {entry : Bytes} (hs : Sound cmds asked s) :
    SoundOut cmds asked (Machine.execCancel q index entry s) := by
  unfold Machine.execCancel
  refine SoundOut.ite ?_ ?_
  · exact SoundOut.fault _
  · refine Sound.next ?_
    exact hs.hostCmd ⟨fun ht => ht.withReq (fun _ _ => (Sound.ite ht.answerCmd (Sound.ite ht.answerCmd ht.applyCancel)))⟩
theorem Sound.execMask {q : BitVec 16} {index : W32} {entry : Bytes} {bitmap : Option Bytes} (hs : Sound cmds asked s) :
    SoundOut cmds asked (Machine.execMask q index entry bitmap s) :=
  SoundOut.ite (SoundOut.fault _) (hs.hostCmd ⟨fun ht => ht.withReq (fun _ _ => ht.applyMask.answerCmd)⟩).next
theorem Sound.execContinueReq {q : BitVec 16} {index : W32} {entry : Bytes} {tokens : Option Bytes}
    (hs : Sound cmds asked s) :
    SoundOut cmds asked (Machine.execContinueReq q index entry tokens s) := by
  unfold Machine.execContinueReq
  extract_lets _ _
  exact SoundOut.ite (SoundOut.fault _) (hs.hostCmd ⟨fun ht => ht.withReq (fun _ _ => ht.applyContinue.answerCmd)⟩).next
theorem Sound.execRelease {q : BitVec 16} {index : W32} {entry : Bytes} (hs : Sound cmds asked s) :
    SoundOut cmds asked (Machine.execRelease q index entry s) :=
  SoundOut.ite (SoundOut.fault _) (hs.hostCmd ⟨fun ht => ht.withReq (fun _ _ => ht.applyRelease)⟩).next
theorem Sound.execBatch {q : BitVec 16} {index : W32} {entry : Bytes} {tokens segs loss : Option Bytes}
    (hs : Sound cmds asked s) :
    SoundOut cmds asked (Machine.execBatch q index entry tokens segs loss s) := by
  unfold Machine.execBatch
  extract_lets _ _ _ _ _ _ _
  refine SoundOut.ite ?_ ?_
  · exact SoundOut.fault _
  · refine Sound.next ?_
    split
    · exact Sound.ite hs (hs.hostCmd ⟨fun ht => ht.setInstar.logInput⟩)
    · exact hs.hostCmd ⟨fun ht1 => ht1⟩
theorem Sound.replayInput {p : Nat} {b : Bytes} (hs : Sound cmds asked s) :
    Sound cmds asked (Machine.replayInput s p b) := by
  unfold Machine.replayInput
  split
  · exact hs
  · exact Sound.ite hs hs.setReq.applyInputs
theorem Sound.replayDraft {p : Nat} {b : Bytes} (hs : Sound cmds asked s) :
    Sound cmds asked (Machine.replayDraft s p b) := by
  unfold Machine.replayDraft
  split
  · exact Sound.ite hs.leaveDraft hs
  · exact hs
theorem Sound.execReplay {q : BitVec 16} {index : W32} {entry : Bytes} {record : Option Bytes} (hs : Sound cmds asked s) :
    SoundOut cmds asked (Machine.execReplay q index entry record s) := by
  unfold Machine.execReplay
  refine SoundOut.ite ?_ ?_
  · exact SoundOut.fault _
  · refine Sound.next ?_
    exact hs.hostCmd ⟨fun ht => (Sound.ite ht.addRequest (Sound.ite ht.replayInput (Sound.ite ht.replayDraft ht))).answerCmd⟩
theorem Sound.resumeRequest {h : Nat} {r : Request} {tokens : List Bytes} {chain : Bytes} (hs : Sound cmds asked s) :
    Sound cmds asked (Machine.resumeRequest s h r tokens chain) := by
  unfold Machine.resumeRequest
  extract_lets _ s1 s2 s4 _
  have h1 : Sound cmds asked s1 := hs.addRequest
  have h2 : Sound cmds asked s2 := Sound.ite (h1.foldl (fun _ ht2 => ht2.countToken)) h1
  have h4 : Sound cmds asked s4 := h2.foldl (fun _ ht4 => ht4.countToken)
  exact Sound.ite h4 (Sound.ite h4.keepStop h4.endRequest)
theorem Sound.execReplayResume {q : BitVec 16} {index : W32} {entry : Bytes} {record : Option Bytes} {tokens : List Bytes}
    (hs : Sound cmds asked s) : SoundOut cmds asked (Machine.execReplayResume q index entry record tokens s) := by
  unfold Machine.execReplayResume
  refine SoundOut.ite (SoundOut.fault _) (Sound.next ?_)
  extract_lets b r bad s1
  have h1 : Sound cmds asked s1 := by
    simp only [s1]
    clear_value s1 bad
    split
    · exact Sound.ite hs.stwEvent hs
    · exact hs
  refine h1.hostCmd ⟨fun ht => ?_⟩
  split
  · exact ht.logInput.resumeRequest.answerCmd
  · exact ht

/-! Admission. -/

theorem Sound.placeRequest {p h : Nat} {r : Request} {reserved : Nat} (hs : Sound cmds asked s) :
    SoundOpt cmds asked (Machine.placeRequest s p h r reserved) := by
  unfold Machine.placeRequest
  split
  · exact SoundOpt.none
  · extract_lets s1
    have h1 : SoundOpt cmds asked s1 := by
      simp only [s1]
      split
      · exact hs.placeExtents
      · exact hs.some
    split
    · exact SoundOpt.ite (h1.bind (fun ht1 => ht1.placeExtents)) h1
    · exact h1
theorem Sound.cacheWait {h : Nat} {r : Request} (hs : Sound cmds asked s) : Sound cmds asked (Machine.cacheWait s h r) :=
  Sound.ite hs hs.setReq.stwEvent
theorem Sound.bindLate {h : Nat} (hs : Sound cmds asked s) : Sound cmds asked (Machine.bindLate s h) := by
  unfold Machine.bindLate
  split
  · exact Sound.ite hs.setReq hs
  · exact hs
theorem Sound.admitAt {p h : Nat} {r : Request} (hs : Sound cmds asked s) : Sound cmds asked (Machine.admitAt s p h r) := by
  unfold Machine.admitAt
  extract_lets s1 s2 s3 s4 s6
  have h1 : Sound cmds asked s1 := hs.setReq
  have h2 : Sound cmds asked s2 := h1.logInput
  have h3 : Sound cmds asked s3 := by
    simp only [s3]
    split
    · exact h2.foldReq
    · exact h2
  have h4 : Sound cmds asked s4 := Sound.ite (h3.foldl (fun _ ht4 => ht4.countToken)) h3
  have h6 : Sound cmds asked s6 := Sound.ite h4.updPart h4
  exact h6.foldMasks.applyInputs
theorem Sound.tryAdmit {p : Nat} {e : Nat × Request} (hs : Sound cmds asked s) : Sound cmds asked (Machine.tryAdmit s p e).1 := by
  unfold Machine.tryAdmit
  extract_lets r
  split
  · exact hs.logStall
  · split
    · next t g => exact (hs.placeRequest _ g).admitAt
    · exact hs.cacheWait
theorem Sound.execAdmission {p : PartId} (hs : Sound cmds asked s) : SoundOut cmds asked (Machine.execAdmission p s) := by
  unfold Machine.execAdmission
  extract_lets _ s1
  have h1 : Sound cmds asked s1 := hs.foldl (fun _ ht1 => ht1.bindLate)
  refine Sound.next ?_
  refine Sound.ite ?_ ?_
  · exact hs
  · split
    · extract_lets _
      refine Sound.ite ?_ ?_
      · exact h1.tryAdmit
      · split
        · exact h1.tryAdmit.tryAdmit
        · exact h1.tryAdmit
    · split
      · exact h1.tryAdmit
      · exact h1
theorem Sound.postToken {h : Nat} (hs : Sound cmds asked s) : Sound cmds asked (Machine.postToken s h) := by
  unfold Machine.postToken
  split
  · exact hs
  · split
    · exact hs
    · extract_lets _ _
      refine Sound.ite ?_ ?_
      · exact hs
      · split
        · exact hs
        · extract_lets _ s1 s2
          have h1 : Sound cmds asked s1 := hs.queueWrite
          have h2 : Sound cmds asked s2 := h1.updWl
          exact h2.setReq.flushHeld
theorem Sound.deliverAll (hs : Sound cmds asked s) : Sound cmds asked (Machine.deliverAll s) :=
  hs.foldl (fun _ ht => ht.foldl (fun _ ht1 => ht1.postToken))
theorem Sound.execTokenPost {h : Slot}
    (hs : Sound cmds asked s) : SoundOut cmds asked (Machine.execTokenPost h s) := hs.postToken.next
theorem Sound.execPark {h : Slot} (hs : Sound cmds asked s) : SoundOut cmds asked (Machine.execPark h s) := by
  unfold Machine.execPark
  refine Sound.next ?_
  split
  · exact hs
  · extract_lets _ _
    refine Sound.ite ?_ ?_
    · exact hs
    · split
      · exact hs
      · split
        · exact hs
        · extract_lets _ _
          split
          · exact hs.stwEvent
          · extract_lets s1 s2 s3 s4
            have h1 : Sound cmds asked s1 := hs.hostWrite
            have h2 : Sound cmds asked s2 := h1.updWl
            have h3 : Sound cmds asked s3 := h2.dropExtents
            have h4 : Sound cmds asked s4 := h3.setReq
            exact h4.logPause
theorem Sound.replaceExtents {p : Nat} {j : Job} {d : SweepDesc} {h : Nat} {r : Request} {want : Nat}
    (hs : Sound cmds asked s) :
    SoundOpt cmds asked (Machine.replaceExtents s p j d h r want) := by
  unfold Machine.replaceExtents
  extract_lets _
  exact hs.dropExtents.placeRequest.map (fun ht => ht.writeCache)
theorem Sound.execCocoonImport {h : Slot} {image : Option Bytes} (hs : Sound cmds asked s) :
    SoundOut cmds asked (Machine.execCocoonImport h image s) := by
  unfold Machine.execCocoonImport
  refine Sound.next ?_
  split
  · exact hs
  · extract_lets _ _ _
    refine Sound.ite ?_ ?_
    · exact hs
    · split
      · exact hs
      · split
        · exact hs
        · refine Sound.ite ?_ ?_
          · refine Sound.ite ?_ ?_
            · exact hs.dropImage.setReq
            · split
              · next s1 e =>
                  have h1 : Sound cmds asked s1 := hs.replaceExtents _ e
                  exact h1.dropImage.setReq
              · exact hs.cacheWait
          · split
            · exact hs.cacheWait
            · next s2 e =>
                have h2 : Sound cmds asked s2 := hs.placeRequest _ e
                split
                · exact h2.dropImage.setReq
                · split
                  · extract_lets _
                    exact h2.freeBytes.stwEvent.dropImage.setReq
                  · extract_lets _
                    exact h2.writeCache.dropImage.setReq
theorem Sound.execTtlExpire {h : Slot} (hs : Sound cmds asked s) : SoundOut cmds asked (Machine.execTtlExpire h s) := by
  unfold Machine.execTtlExpire
  refine Sound.next ?_
  split
  · exact hs
  · exact Sound.ite hs (Sound.ite hs.logStall hs.expireReq)
theorem Sound.sharePeriod {p : Nat} (hs : Sound cmds asked s) : Sound cmds asked (Machine.sharePeriod s p) := by
  unfold Machine.sharePeriod
  extract_lets _ _ _ _ _ _ _ _
  exact hs.updPart
theorem Sound.execShareUpdate (hs : Sound cmds asked s) : SoundOut cmds asked (Machine.execShareUpdate s) :=
  (Sound.ite hs (hs.foldl (fun _ ht => (Sound.ite ht.sharePeriod ht)))).next

/-! HlPorts. -/

theorem Sound.hlLost {d : Nat} {crossed : Bool} (hs : Sound cmds asked s) :
    Sound cmds asked (Machine.hlLost s d crossed) := by
  unfold Machine.hlLost
  extract_lets s1 _ s2
  have h1 : Sound cmds asked s1 := by
    simp only [s1]
    split
    · exact hs.hlEvent.restartBegin
    · exact hs
  have h2 : Sound cmds asked s2 := Sound.ite h1.freeze h1
  exact h2.chainLook
theorem Sound.hlGoDown {d : Nat} (hs : Sound cmds asked s) : Sound cmds asked (Machine.hlGoDown s d) := by
  unfold Machine.hlGoDown
  extract_lets _ s1
  have h1 : Sound cmds asked s1 := hs.updHl
  exact h1.hlEvent.hlLost
theorem Sound.hlQuarantine {d : Nat} (hs : Sound cmds asked s) : Sound cmds asked (Machine.hlQuarantine s d) :=
  Sound.ite hs hs.updHl.hlEvent.hlLost
theorem Sound.hlCount {d counter : Nat} (hs : Sound cmds asked s) : Sound cmds asked (Machine.hlCount s d counter) := hs.updHl
theorem Sound.hlViolation {d counter : Nat} (hs : Sound cmds asked s) :
    Sound cmds asked (Machine.hlViolation s d counter) := by
  unfold Machine.hlViolation
  extract_lets _ s1
  have h1 : Sound cmds asked s1 := hs.hlCount.updHl.hlEvent
  exact Sound.ite h1.hlQuarantine h1
theorem Sound.bumpHlErr {d hi lo : Nat} (hs : Sound cmds asked s) : Sound cmds asked (Machine.bumpHlErr s d hi lo) := hs.setDreg
theorem Sound.hlAuthFail {d : Nat} (hs : Sound cmds asked s) : Sound cmds asked (Machine.hlAuthFail s d) := by
  unfold Machine.hlAuthFail
  extract_lets _ s1 s2 s3
  have h1 : Sound cmds asked s1 := hs.hlCount.bumpHlErr
  have h2 : Sound cmds asked s2 := h1.updHl.hlGoDown
  have h3 : Sound cmds asked s3 := h2.hlEvent
  exact Sound.ite h3.hlQuarantine h3
theorem Sound.hlRetrainNow {d : Nat} (hs : Sound cmds asked s) : Sound cmds asked (Machine.hlRetrainNow s d) := by
  unfold Machine.hlRetrainNow
  extract_lets _ s1 s2 _ s3
  have h1 : Sound cmds asked s1 := hs.updHl
  have h2 : Sound cmds asked s2 := h1.bumpHlErr.hlEvent
  have h3 : Sound cmds asked s3 := h2.hlCount.updHl
  exact Sound.ite h2 (Sound.ite h3.hlQuarantine h3)
theorem Sound.redecide {d : Nat} (hs : Sound cmds asked s) : Sound cmds asked (Machine.redecide s d) := by
  unfold Machine.redecide
  extract_lets _
  exact Sound.ite (Sound.ite hs.hlUp hs) (Sound.ite (Sound.ite hs.updHl (Sound.ite hs.updHl hs.hlUp.hlEvent)) hs)

/-! ResetOps. -/

theorem Sound.setLocal {k : Nat} (hs : Sound cmds asked s) : Sound cmds asked (Machine.setLocal s k) := by
  unfold Machine.setLocal
  extract_lets _ _
  exact hs.setKreg.regrant
theorem Sound.bootCluster {k : Nat} (hs : Sound cmds asked s) : Sound cmds asked (Machine.bootCluster s k) := by
  unfold Machine.bootCluster
  extract_lets _ s1 s2
  have h1 : Sound cmds asked s1 := hs.updCcWf (fun _ _ => rfl)
  have h2 : Sound cmds asked s2 := h1.updCl
  exact h2.setKreg.setTarget
theorem Sound.bootClusters (hs : Sound cmds asked s) : Sound cmds asked (Machine.bootClusters s) :=
  hs.foldl (fun _ ht => ht.foldl (fun _ ht1 => ht1.bootCluster))
theorem Sound.bootIo (hs : Sound cmds asked s) : Sound cmds asked (Machine.bootIo s) := hs.foldl (fun _ ht => ht.updCcWf (fun _ _ => rfl))
theorem Sound.identityCheck (hs : Sound cmds asked s) : Sound cmds asked (Machine.identityCheck s) :=
  Sound.ite hs.updSec hs.updSec.agentEvent
theorem Sound.refuseReen {d reason : Nat}
    (hs : Sound cmds asked s) : Sound cmds asked (Machine.refuseReen s d reason) := hs.finderEvent
theorem Sound.closeWindow (hs : Sound cmds asked s) : Sound cmds asked (Machine.closeWindow s) := by
  unfold Machine.closeWindow
  split
  · exact hs.finderBroadcast.updFin
  · exact hs
theorem Sound.endReen {reason state : Nat} (hs : Sound cmds asked s) :
    Sound cmds asked (Machine.endReen s reason state) := by
  unfold Machine.endReen
  split
  · exact hs
  · exact hs.closeWindow.updFin.openSite.refuseReen
theorem Sound.hlReset (hs : Sound cmds asked s) : Sound cmds asked (Machine.hlReset s) := Sound.chainLook (hs.congr rfl rfl rfl rfl)
theorem Sound.resetW (hs : Sound cmds asked s) : Sound cmds asked (Machine.resetW s) := by
  unfold Machine.resetW
  extract_lets s1
  have h1 : Sound cmds asked s1 := hs.resetCompute.retainVaults
  exact Sound.hlReset (h1.congr rfl rfl rfl rfl)
theorem Sound.loseIo (hs : Sound cmds asked s) : Sound cmds asked (Machine.loseIo s) := by
  have h1 : Sound cmds asked (Machine.closeSessions (Machine.closeDebug s) fun e => match e.path with | .wenlink _ => true | _ => false) :=
    hs.closeDebug.closeSessions
  exact h1.tables rfl (fun _ h => h) (fun _ h => h) fun _ _ => rfl
theorem Sound.resetM (hs : Sound cmds asked s) : Sound cmds asked (Machine.resetM s) := hs.resetW.loseIo
theorem Sound.resetC {siteSt : Nat} (hs : Sound cmds asked s) : Sound cmds asked (Machine.resetC s siteSt) := by
  unfold Machine.resetC
  extract_lets s1 s2 _
  have h1 : Sound cmds asked s1 := hs.resetCompute.loseIo
  have h2 : Sound cmds asked s2 := h1.foldl (fun _ ht2 => ht2.openSite)
  exact h2.congr rfl rfl rfl rfl
theorem Sound.holdReset {cls cause : Nat} {supply : Bool} (hs : Sound cmds asked s) :
    Sound cmds asked (Machine.holdReset s cls cause supply) := by
  unfold Machine.holdReset
  extract_lets _ s1 s2
  have h1 : Sound cmds asked s1 := hs.endReen
  have h2 : Sound cmds asked s2 := Sound.ite h1.resetW (Sound.ite h1.resetM h1.resetC)
  exact Sound.ite hs h2.updFin.setMainIn
theorem Sound.abortEclosion (hs : Sound cmds asked s) : Sound cmds asked (Machine.abortEclosion s) := Sound.ite hs hs.resetC

/-! PowerCmds. -/

theorem Sound.execMeridianUnlock {site : SiteId} (hs : Sound cmds asked s) :
    SoundOut cmds asked (Machine.execMeridianUnlock site s) := by
  unfold Machine.execMeridianUnlock
  extract_lets _ s1 s2 s4
  have h1 : Sound cmds asked s1 := hs.setMeridian
  have h2 : Sound cmds asked s2 := h1.foldl (fun _ ht2 => ht2.updCl)
  have h4 : Sound cmds asked s4 := h2.finderEvent
  exact (Sound.ite hs h4.fenceAll.windowEvents.recouple).next
theorem Sound.execRefclkFail (hs : Sound cmds asked s) : SoundOut cmds asked (Machine.execRefclkFail s) :=
  (Sound.ite hs hs.finderEvent.abortEclosion.holdReset).next
theorem Sound.execSagWarn {millivolts : Nat} (hs : Sound cmds asked s) :
    SoundOut cmds asked (Machine.execSagWarn millivolts s) := by
  unfold Machine.execSagWarn
  refine Sound.next ?_
  refine Sound.ite ?_ ?_
  · exact hs
  · extract_lets s1 s2
    have h1 : Sound cmds asked s1 := hs.finderBroadcast.noteInput
    have h2 : Sound cmds asked s2 := by
      simp only [s2]
      split
      · exact h1.endReen
      · exact h1
    exact h2.finderEvent.updFin.setMainIn
theorem Sound.execSagClear (hs : Sound cmds asked s) : SoundOut cmds asked (Machine.execSagClear s) :=
  (Sound.ite hs hs.finderEvent.updFin.setMainIn.divideCap).next
theorem Sound.execSagReset {millivolts : Nat} (hs : Sound cmds asked s) :
    SoundOut cmds asked (Machine.execSagReset millivolts s) := (Sound.ite hs hs.noteInput.finderEvent.abortEclosion.holdReset).next
theorem Sound.execOvervoltage {millivolts : Nat} (hs : Sound cmds asked s) :
    SoundOut cmds asked (Machine.execOvervoltage millivolts s) :=
  (Sound.ite hs hs.noteInput.finderEvent.abortEclosion.holdReset).next
theorem Sound.execInputCollapse (hs : Sound cmds asked s) : SoundOut cmds asked (Machine.execInputCollapse s) := by
  unfold Machine.execInputCollapse
  refine Sound.next ?_
  split
  · exact Sound.ite hs.finderEvent.holdReset hs
  · exact hs
theorem Sound.fallToStandby {commanded : Bool} (hs : Sound cmds asked s) :
    Sound cmds asked (Machine.fallToStandby s commanded) := by
  unfold Machine.fallToStandby
  extract_lets s1
  have h1 : Sound cmds asked s1 := hs.endReen.resetC
  exact h1.updFin.setMainIn
theorem Sound.execMainInputLoss (hs : Sound cmds asked s) : SoundOut cmds asked (Machine.execMainInputLoss s) :=
  (Sound.ite hs hs.noteInput.fallToStandby).next
theorem Sound.execShareDivide {pBase : F32} (hs : Sound cmds asked s) :
    SoundOut cmds asked (Machine.execShareDivide pBase s) := (Sound.ite hs hs.updFin.divideCap).next
theorem Sound.siteLost {d code : Nat} (hs : Sound cmds asked s) : Sound cmds asked (Machine.siteLost s d code) := by
  unfold Machine.siteLost
  extract_lets s1 s2 s3
  have h1 : Sound cmds asked s1 := hs.openSite
  have h2 : Sound cmds asked s2 := h1.setIreg
  have h3 : Sound cmds asked s3 := h2.fenceAll.windowEvents
  refine h3.foldl fun _ ht3 => ?_
  refine Sound.ite ?_ ?_
  · split
    · exact Sound.ite ht3 ht3.restartBegin
    · exact ht3
  · exact ht3
theorem Sound.tripSite {d cause : Nat}
    (hs : Sound cmds asked s) : Sound cmds asked (Machine.tripSite s d cause) := hs.finderEvent.siteLost
theorem Sound.execSiteTrip {site : SiteId} {undervoltage : Bool} (hs : Sound cmds asked s) :
    SoundOut cmds asked (Machine.execSiteTrip site undervoltage s) := by
  unfold Machine.execSiteTrip
  extract_lets _ _ s1
  have h1 : Sound cmds asked s1 := Sound.ite hs.endReen hs
  exact (Sound.ite hs h1.tripSite).next
theorem Sound.startReen {d : Nat} {probe : RampResult} (hs : Sound cmds asked s) :
    Sound cmds asked (Machine.startReen s d probe) := by
  unfold Machine.startReen
  extract_lets s1 _ s2 s3 s4 s5
  have h1 : Sound cmds asked s1 := Sound.ite hs.openSite hs
  have h2 : Sound cmds asked s2 := h1.finderBroadcast
  have h3 : Sound cmds asked s3 := h2.setSiteState.updFin
  have h4 : Sound cmds asked s4 := h3.energiseSite.setSiteState
  have h5 : Sound cmds asked s5 := h4.foldl (fun _ ht5 => ht5.bootCluster.mailImage)
  split
  · exact h3.endReen
  · exact h3.finderEvent.endReen
  · exact h3.finderEvent.endReen
  · exact h3.setSiteState.updSite
  · exact h5.updFin
theorem Sound.execReEnergise {req : DapReq} {site : Byte} {probe : RampResult} (hs : Sound cmds asked s) :
    SoundOut cmds asked (Machine.execReEnergise req site probe s) := by
  unfold Machine.execReEnergise
  extract_lets _
  refine Sound.next ?_
  refine hs.dapWrite ⟨fun _ ht => ?_⟩
  split
  · exact ht.refuseReen
  · exact ht.startReen
theorem Sound.execReenergiseWindowClose (hs : Sound cmds asked s) :
    SoundOut cmds asked (Machine.execReenergiseWindowClose s) := by
  unfold Machine.execReenergiseWindowClose
  refine Sound.next ?_
  split
  · exact hs.closeWindow.updFin
  · exact hs
theorem Sound.execReenergiseSettleTimeout (hs : Sound cmds asked s) :
    SoundOut cmds asked (Machine.execReenergiseSettleTimeout s) := by
  unfold Machine.execReenergiseSettleTimeout
  refine Sound.next ?_
  split
  · exact hs.endReen
  · exact hs
theorem Sound.reopenLink {e : Nat × Nat} (hs : Sound cmds asked s) : Sound cmds asked (Machine.reopenLink s e) := by
  unfold Machine.reopenLink
  extract_lets _
  exact Sound.ite hs hs.bothEnds
theorem Sound.liftSite {d : Nat} (hs : Sound cmds asked s) : Sound cmds asked (Machine.liftSite s d) := by
  unfold Machine.liftSite
  extract_lets _ _ s1 s2 s4
  have h1 : Sound cmds asked s1 := hs.updStw
  have h2 : Sound cmds asked s2 := h1.foldl (fun _ ht2 => ht2.setKreg)
  have h4 : Sound cmds asked s4 := h2.foldl (fun _ ht4 => ht4.setKreg.foldl (fun _ ht5 => (Sound.ite ht5 ht5.openCore)))
  exact h4.foldl (fun _ ht6 => ht6.reopenLink)
theorem Sound.execReenergiseDone {failed : List (Fin 256)} (hs : Sound cmds asked s) :
    SoundOut cmds asked (Machine.execReenergiseDone failed s) := by
  unfold Machine.execReenergiseDone
  refine Sound.next ?_
  split
  · extract_lets _ s1 s2
    have h1 : Sound cmds asked s1 := hs.updFin.liftSite
    have h2 : Sound cmds asked s2 := by
      simp only [s2]
      split
      · exact h1.joinSite
      · exact h1.updSite
    exact Sound.ite (hs.foldl (fun _ ht2 => ht2.raise)).endReen h2.setSiteState.finderEvent.recouple
  · exact hs
theorem Sound.loseCluster {k : Nat} {dark : Bool} (hs : Sound cmds asked s) : Sound cmds asked (Machine.loseCluster s k dark) := by
  unfold Machine.loseCluster
  extract_lets d s1 v s2 s3 code old s4
  have h2 : Sound cmds asked s2 := hs.updCl.setKreg
  have h3 : Sound cmds asked s3 := by
    refine Sound.ite h2 (Sound.foldl (h2.tables rfl (fun _ => ?_) (fun _ h => h) fun _ => ?_) fun _ ht => ht.severLink)
    · exact getN_filter_key spadWf (fun i => clusterOf i != k) spadWf_reset
    · exact getN_filter_key memWf (fun i => i != k) memWf_reset
  have h4 : Sound cmds asked s4 := h3.finderEvent.fenceAll.windowEvents
  exact Sound.ite h4 (h4.foldl fun _ ht => ht.bothEnds)
theorem Sound.execPhaseLost {cl : ClusterId} {phases : List (Fin 4)} {cause : Fin 3} (hs : Sound cmds asked s) :
    SoundOut cmds asked (Machine.execPhaseLost cl phases cause s) := by
  unfold Machine.execPhaseLost
  extract_lets _ _ _ _ _ s1 s2
  have h1 : Sound cmds asked s1 := hs.setKreg
  have h2 : Sound cmds asked s2 := h1.doorbellAt
  exact (Sound.ite hs (Sound.ite h2.setLocal.raise (Sound.ite h2.loseCluster (Sound.ite h2 h2.loseCluster)))).next
theorem Sound.execDroopResponse {cl : ClusterId} {obs : DroopObs} (hs : Sound cmds asked s) :
    SoundOut cmds asked (Machine.execDroopResponse cl obs s) := by
  unfold Machine.execDroopResponse
  extract_lets _ _ _ _
  refine Sound.next ?_
  refine Sound.ite ?_ ?_
  · exact hs
  · split
    · exact hs.setKreg.swallowDroop.doorbellAt
    · exact hs.setKreg.swallowDroop.doorbellAt
    · exact hs.setKreg.doorbellAt
    · exact hs.swallowDroop
theorem Sound.execAvsUpdate {cl : ClusterId} {slackMin : Byte} (hs : Sound cmds asked s) :
    SoundOut cmds asked (Machine.execAvsUpdate cl slackMin s) := by
  unfold Machine.execAvsUpdate
  extract_lets _ _ _ s1 s2 _ _ _ s3
  have h1 : Sound cmds asked s1 := hs.updCl
  have h2 : Sound cmds asked s2 := h1.setKreg.setTarget
  have h3 : Sound cmds asked s3 := h2.setKreg
  exact (Sound.ite hs (Sound.ite h3.raise.raiseSwallow.doorbellAt h3)).next

/-! MatrixCmds. -/

theorem Sound.tokenSet {c w d xcur : Nat} {k : List Nat → EngRes}
    (hs : Sound cmds asked s) (hk : ∀ a, SoundRes cmds asked (k a)) :
    SoundRes cmds asked (Machine.tokenSet s c w d xcur k) := by
  unfold Machine.tokenSet
  extract_lets _
  exact SoundRes.ite (hs.cursorEntry (fun _ => (hk _))) (SoundRes.ite (hs.opRead (fun _ => (hk _))) (hk _))
theorem Sound.mmaTokens {transposed : Bool} {c w d : Nat} {tensor : StreamTensor} {silent : List (Nat × W32)} {l : List Nat}
    {n : MmaSum}
    (hs : Sound cmds asked s) : Sound cmds asked (Machine.mmaTokens transposed c w d tensor silent l s n).1 := by
  induction l generalizing s n with
  | nil => exact hs
  | cons t l ih => exact ih hs.spadWrite
theorem Sound.sampleTile {c : Nat} {tile : DupTile} {shadow : Option ShdTile} (hs : Sound cmds asked s) :
    Sound cmds asked (Machine.sampleTile s c tile shadow) := by
  unfold Machine.sampleTile
  extract_lets _ _ _ _
  split
  · exact hs
  · split
    · exact hs
    · extract_lets _ s1
      have h1 : Sound cmds asked s1 := Sound.ite hs.updCore.bumpC hs
      exact Sound.ite h1.updCore h1
theorem Sound.mmaOutputs {transposed : Bool} {c : Nat} {silent : List (Nat × W32)} {index w d xcur : Nat} {tensor : StreamTensor}
    (hs : Sound cmds asked s) :
    SoundRes cmds asked (Machine.mmaOutputs transposed c silent index w d xcur tensor s) := by
  unfold Machine.mmaOutputs
  extract_lets _ _ _
  exact hs.tokenSet (fun _ => (SoundRes.ite hs.fail (SoundRes.ite hs.fail hs.mmaTokens.countNonFinite.sampleTile.done)))
theorem Sound.mmaTake {transposed : Bool} {c : Nat} {silent : List (Nat × W32)} {i : Issued} {w d : Nat} {head : StreamTensor}
    (hs : Sound cmds asked s) :
    SoundRes cmds asked (Machine.mmaTake transposed c silent i w d head s) := by
  unfold Machine.mmaTake
  extract_lets _ _ _ s1
  have h1 : Sound cmds asked s1 := hs.updCore
  exact SoundRes.ite h1.fail (SoundRes.ite h1.wait h1.mmaOutputs)
theorem Sound.mmaBody {transposed : Bool} {c : Nat} {ecc : EccObs} {silent : List (Nat × W32)} {i : Issued} {w : Nat}
    (hs : Sound cmds asked s) :
    SoundRes cmds asked (Machine.mmaBody transposed c ecc silent s i w) := by
  unfold Machine.mmaBody
  split
  · exact SoundRes.hold
  · refine SoundRes.ite ?_ ?_
    · exact SoundRes.hold
    · extract_lets s1 s2
      have h1 : Sound cmds asked s1 := hs.coreRequests
      have h2 : Sound cmds asked s2 := h1.spadEcc
      refine SoundRes.ite ?_ ?_
      · exact h1.wait
      · split
        · exact h2.mmaTake
        · refine h2.opDesc (fun _ => ?_)
          split
          · exact h2.fail
          · exact SoundRes.ite h2.fail h2.mmaTake
theorem Sound.execMma {c : CoreId} {obs : MmaObs} (hs : Sound cmds asked s) :
    SoundOut cmds asked (Machine.execMma c obs s) := (hs.runEngine (fun _ _ ht => ht.mmaBody)).next
theorem Sound.execMmaT {c : CoreId} {obs : MmaObs} (hs : Sound cmds asked s) :
    SoundOut cmds asked (Machine.execMmaT c obs s) := (hs.runEngine (fun _ _ ht => ht.mmaBody)).next

/-! WeightCmds. -/

theorem Sound.moultRefused {p reason : Nat} (hs : Sound cmds asked s) :
    Sound cmds asked (Machine.moultRefused s p reason) := by
  unfold Machine.moultRefused
  extract_lets s1
  have h1 : Sound cmds asked s1 := hs.stwEvent
  exact Sound.ite h1.stwEvent h1
theorem Sound.beginMoult {p : Nat} {m : Manifest} {mode : Nat} {chain : Bool} (hs : Sound cmds asked s) :
    Sound cmds asked (Machine.beginMoult s p m mode chain) := by
  unfold Machine.beginMoult
  extract_lets _ _ _ _ _ s1
  have h1 : Sound cmds asked s1 := hs.setEpochs
  exact h1.stwEvent
theorem Sound.startMoult {n : WlPort} {d : Bytes} {manifest : Option Bytes} (hs : Sound cmds asked s) :
    Sound cmds asked (Machine.startMoult s n d manifest) := by
  unfold Machine.startMoult
  extract_lets _ _ _ s1
  have h1 : Sound cmds asked s1 := hs.hostFetch
  refine Sound.ite ?_ ?_
  · exact hs.moultRefused
  · refine Sound.ite ?_ ?_
    · exact hs.moultRefused
    · refine Sound.ite ?_ ?_
      · split
        · refine Sound.ite ?_ ?_
          · exact hs.beginMoult
          · split
            · exact hs.moultRefused
            · exact hs.beginMoult
        · exact hs.beginMoult
      · split
        · exact h1.moultRefused
        · refine Sound.ite ?_ ?_
          · exact h1.moultRefused
          · refine Sound.ite ?_ ?_
            · exact h1.moultRefused
            · extract_lets _
              split
              · exact h1.moultRefused
              · exact h1.beginMoult.forwardManifest
theorem Sound.execMoultStart {req : DapReq} {addr : W64} {desc : Option Bytes} {manifest : Option Bytes}
    (hs : Sound cmds asked s) :
    SoundOut cmds asked (Machine.execMoultStart req addr desc manifest s) := by
  unfold Machine.execMoultStart
  refine Sound.next ?_
  refine hs.dapWrite ⟨fun _ ht => ?_⟩
  split
  · exact ht.hostFetch.startMoult
  · exact ht.hostFetch.stwEvent
  · exact ht
theorem Sound.execMoultAbort {req : DapReq} {value : Byte} (hs : Sound cmds asked s) :
    SoundOut cmds asked (Machine.execMoultAbort req value s) := by
  unfold Machine.execMoultAbort
  extract_lets _
  exact (hs.dapWrite ⟨fun _ ht => ht.abortMoult⟩).next
theorem Sound.execMoultTimeout {p : PartId} (hs : Sound cmds asked s) : SoundOut cmds asked (Machine.execMoultTimeout p s) :=
  hs.timeoutMoult.next
theorem Sound.execManifestVerify {manifest : Bytes} (hs : Sound cmds asked s) :
    SoundOut cmds asked (Machine.execManifestVerify manifest s) := by
  unfold Machine.execManifestVerify
  refine Sound.next ?_
  refine Sound.ite ?_ ?_
  · exact hs
  · extract_lets _ _ _ s1
    have h1 : Sound cmds asked s1 := hs.updStw.forwardManifest
    refine Sound.ite ?_ ?_
    · exact hs.foldl (fun _ ht1 => ht1.setEpochs.moultRefused)
    · split
      · exact Sound.ite hs.stwEvent (hs.foldl (fun _ ht2 => ht2.setEpochs.moultRefused))
      · refine h1.foldl fun _ ht3 => ?_
        split
        · exact ht3
        · split
          · exact ht3.setEpochs.moultRefused
          · extract_lets _ _ _
            exact ht3.setEpochs
theorem Sound.moultFull {p : Nat} {m : Moult} (hs : Sound cmds asked s) : Sound cmds asked (Machine.moultFull s p m) :=
  Sound.ite hs.stwEvent.setEpochs.timeoutMoult (Sound.ite hs.setEpochs.restartBegin hs.commitMoult)
theorem Sound.takeShard {p : Nat} {epoch : Bytes} {index : Nat} {img : Bytes} (hs : Sound cmds asked s) :
    Sound cmds asked (Machine.takeShard s p epoch index img) := by
  unfold Machine.takeShard
  extract_lets _
  split
  · exact hs
  · refine Sound.ite ?_ ?_
    · exact hs
    · split
      · split
        · exact hs.rejectShard
        · extract_lets _ s1 _ s2
          have h1 : Sound cmds asked s1 := hs.landShard
          have h2 : Sound cmds asked s2 := h1.setEpochs
          exact Sound.ite h2.moultFull h2
      · exact hs
theorem Sound.execShardArrive {p : Option PartId} {epoch : Bytes} {index : Nat} {image : Bytes} (hs : Sound cmds asked s) :
    SoundOut cmds asked (Machine.execShardArrive p epoch index image s) := by
  unfold Machine.execShardArrive
  refine Sound.next ?_
  extract_lets _ s1 s2
  have h1 : Sound cmds asked s1 := Sound.ite hs.stwEvent hs
  have h2 : Sound cmds asked s2 := Sound.ite h1.forwardShard.setChainStall h1
  split
  · exact h2.takeShard
  · exact h2
theorem Sound.execDrainSwap {p : PartId} (hs : Sound cmds asked s) : SoundOut cmds asked (Machine.execDrainSwap p s) := by
  unfold Machine.execDrainSwap
  extract_lets _ _ _ _ s1
  have h1 : Sound cmds asked s1 := hs.foldl (fun _ ht1 => ht1.stwEvent.endRequest)
  refine Sound.next ?_
  split
  · exact hs
  · exact Sound.ite hs h1.setEpochs
theorem Sound.execScrubPass {cl : ClusterId} (hs : Sound cmds asked s) : SoundOut cmds asked (Machine.execScrubPass cl s) := by
  unfold Machine.execScrubPass
  extract_lets _
  refine Sound.next ?_
  refine Sound.ite ?_ ?_
  · exact hs
  · split
    · exact hs
    · exact hs.foldl (fun _ ht => (Sound.ite ht.vaultPass.updCl ht.vaultPass.corruptShard))
theorem Sound.execChainFence {req : DapReq} {value : Byte} (hs : Sound cmds asked s) :
    SoundOut cmds asked (Machine.execChainFence req value s) := by
  unfold Machine.execChainFence
  refine Sound.next ?_
  exact hs.dapWrite ⟨fun _ ht => ((Sound.ite ht.setObj.updStw ht.setObj).foldl (fun _ ht1 => ht1.sendHello)).setChainStall⟩
theorem Sound.execEpochRecovery {p : PartId} (hs : Sound cmds asked s) :
    SoundOut cmds asked (Machine.execEpochRecovery p s) := (Sound.ite hs hs.updFin.recoverEpochs).next

/-! Spec. -/

theorem Sound.placeDraftExtents {p : Nat} {x : Draft} (hs : Sound cmds asked s) :
    Sound cmds asked (Machine.placeDraftExtents s p x) := by
  unfold Machine.placeDraftExtents
  refine hs.foldl fun _ ht => ?_
  split
  · exact Sound.ite ht (ht.placeExtents.getD ht)
  · exact ht
theorem Sound.loadDraft {p : Nat} {f : LayoutFile} {dist : Bool} (hs : Sound cmds asked s) :
    Sound cmds asked (Machine.loadDraft s p f dist) := by
  unfold Machine.loadDraft
  extract_lets _ s1 s2 s3
  have h1 : Sound cmds asked s1 := hs.updJob
  have h2 : Sound cmds asked s2 := h1.updPart
  have h3 : Sound cmds asked s3 := h2.placeDraft.placeDraftExtents
  exact Sound.ite h3.noteDraft h3
theorem Sound.startDraftLoad {n : WlPort} {d : Bytes} {file : Option LayoutFile} (hs : Sound cmds asked s) :
    Sound cmds asked (Machine.startDraftLoad s n d file) := by
  unfold Machine.startDraftLoad
  split
  · exact hs.layoutMalformed
  · extract_lets _
    refine Sound.ite ?_ ?_
    · exact hs.layoutReject
    · refine Sound.ite ?_ ?_
      · exact hs.layoutReject
      · refine hs.fetchFile (fun ht => ht) (fun _ ht1 => ?_)
        refine ht1.checkFile (fun ht2 => ht2) (fun ht3 => ?_)
        split
        · exact ht3
        · exact Sound.ite ht3.layoutReject ht3.loadDraft
theorem Sound.execDraftLoad {req : DapReq} {addr : W64} {desc : Option Bytes} {file : Option LayoutFile}
    (hs : Sound cmds asked s) :
    SoundOut cmds asked (Machine.execDraftLoad req addr desc file s) := by
  unfold Machine.execDraftLoad
  refine Sound.next ?_
  refine hs.dapWrite ⟨fun _ ht => ?_⟩
  split
  · exact ht.hostFetch.startDraftLoad
  · exact ht.hostFetch
  · exact ht
theorem Sound.execDraftUnload {req : DapReq} {value : Byte} (hs : Sound cmds asked s) :
    SoundOut cmds asked (Machine.execDraftUnload req value s) := by
  unfold Machine.execDraftUnload
  extract_lets _
  refine Sound.next ?_
  refine hs.dapWrite ⟨fun _ ht => ?_⟩
  split
  · exact ht.leaveDraft
  · exact ht
theorem Sound.startCycle {h : Nat} {r : Request} {probe : Bool} {draws : List SpecDraw} (hs : Sound cmds asked s) :
    Sound cmds asked (Machine.startCycle s h r probe draws) := by
  unfold Machine.startCycle
  extract_lets _ _
  exact hs.setReq
theorem Sound.commitToken {h : Nat} {t : BitVec 18 × F32} (hs : Sound cmds asked s) :
    Sound cmds asked (Machine.commitToken s h t) := by
  unfold Machine.commitToken
  split
  · exact hs
  · extract_lets _ _ _ _ s1 s2
    have h1 : Sound cmds asked s1 := hs.setReq
    have h2 : Sound cmds asked s2 := h1.commitPoint
    exact h2.updReq
theorem Sound.commitTokens {l : List (BitVec 18 × F32)} {limit : Option Nat} {h : Nat} (hs : Sound cmds asked s) :
    Sound cmds asked (Machine.commitTokens l limit s h) := by
  induction l generalizing s with
  | nil => exact hs
  | cons t l ih =>
    unfold Machine.commitTokens
    split
    · exact hs
    · exact Sound.ite (ih hs.commitToken) hs
theorem Sound.controlDraft {h d k : Nat} (hs : Sound cmds asked s) : Sound cmds asked (Machine.controlDraft s h d k) := by
  unfold Machine.controlDraft
  split
  · exact hs
  · exact Sound.ite hs.setReq (Sound.ite hs.setReq (Sound.ite hs.setReq.stwEvent hs.setReq))
theorem Sound.estimate {p d k : Nat} (hs : Sound cmds asked s) : Sound cmds asked (Machine.estimate s p d k) := by
  unfold Machine.estimate
  extract_lets _ _
  exact hs.updPart
theorem Sound.endCycle {h : Nat} {r : Request} {x : SpecRun} {draws : List SpecDraw} (hs : Sound cmds asked s) :
    Sound cmds asked (Machine.endCycle s h r x draws) := by
  unfold Machine.endCycle
  extract_lets _ _ _ s1 s2 s3 s4
  have h1 : Sound cmds asked s1 := hs.takeFree.commitTokens
  have h2 : Sound cmds asked s2 := h1.updReq
  have h3 : Sound cmds asked s3 := h2.estimate
  have h4 : Sound cmds asked s4 := Sound.ite h3.controlDraft (Sound.ite h3.updReq h3.updReq.controlDraft)
  exact h4.draftCheck
theorem Sound.specStep {h : Slot} {draws : List SpecDraw} {probe due : Bool} {d : Nat} {r : Request} {form : String}
    (hs : Sound cmds asked s) :
    SoundOut cmds asked (Machine.specStep h draws probe due d r s form) := by
  unfold Machine.specStep
  split
  · exact SoundOut.ite hs.next (SoundOut.ite (SoundOut.fault _) hs.endCycle.next)
  · exact SoundOut.ite hs.next (SoundOut.ite (SoundOut.fault _) hs.startCycle.next)
theorem Sound.execSpecCycle {h : Slot} {draws : List SpecDraw} (hs : Sound cmds asked s) :
    SoundOut cmds asked (Machine.execSpecCycle h draws s) := by
  unfold Machine.execSpecCycle
  split
  · exact hs.next
  · exact hs.specStep
theorem Sound.execSpecProbe {h : Slot} {draws : List SpecDraw} (hs : Sound cmds asked s) :
    SoundOut cmds asked (Machine.execSpecProbe h draws s) := by
  unfold Machine.execSpecProbe
  split
  · exact hs.next
  · exact hs.specStep

/-! Steps. -/

theorem Sound.markDraws {w : Wave} (hs : Sound cmds asked s) : Sound cmds asked (Machine.markDraws s w) := by
  unfold Machine.markDraws
  extract_lets s1
  have h1 : Sound cmds asked s1 := hs.foldl (fun _ ht1 => ht1.updReq)
  exact h1.foldl (fun _ ht2 => ht2.updReq)
theorem Sound.signalBank {p : Nat} {j : Job} {h : Nat} (hs : Sound cmds asked s) :
    Sound cmds asked (Machine.signalBank s p j h) := by
  unfold Machine.signalBank
  split
  · exact Sound.ite (hs.foldl (fun _ ht => ht.signalSem)) hs
  · exact hs
theorem Sound.writeRows {p r : Nat} {j : Job} (hs : Sound cmds asked s) : Sound cmds asked (Machine.writeRows s p r j) := by
  unfold Machine.writeRows
  extract_lets _
  split
  · exact hs
  · exact hs.foldl (fun _ ht => (Sound.ite ht (Sound.ite ht.vaultWrite ht.spadWrite)))
theorem Sound.beginStep {p r : Nat} {j : Job} (hs : Sound cmds asked s) : Sound cmds asked (Machine.beginStep s p r j) :=
  hs.writeRows.updRegion
theorem Sound.startStep {p r : Nat} {j : Job} (hs : Sound cmds asked s) : Sound cmds asked (Machine.startStep s p r j) := by
  unfold Machine.startStep
  extract_lets _ _
  refine Sound.ite ?_ ?_
  · exact Sound.ite hs hs.beginStep
  · refine Sound.ite ?_ ?_
    · exact hs
    · split
      · exact hs
      · extract_lets s1 s2
        have h1 : Sound cmds asked s1 := hs.signalBank.markDraws
        have h2 : Sound cmds asked s2 := h1.updRegion
        exact h2.updJob.beginStep
theorem Sound.subPlate {p r : Nat} {j : Job} (hs : Sound cmds asked s) : Sound cmds asked (Machine.subPlate s p r j) := by
  unfold Machine.subPlate
  extract_lets _ _ _ _ s1 s3
  have h1 : Sound cmds asked s1 := hs.foldl (fun _ ht1 => ht1.updCl)
  have h3 : Sound cmds asked s3 := h1.updJob
  exact h3.hlSend.compareSub
theorem Sound.skipShadows {cs : List Nat} (hs : Sound cmds asked s) : Sound cmds asked (Machine.skipShadows s cs) :=
  hs.foldl (fun _ ht => (Sound.ite ht.updCore.bumpC ht))
theorem Sound.finishPrefill {h n : Nat} (hs : Sound cmds asked s) : Sound cmds asked (Machine.finishPrefill s h n) := by
  unfold Machine.finishPrefill
  split
  · exact hs
  · extract_lets _ s1
    have h1 : Sound cmds asked s1 := hs.setReq
    exact Sound.ite (Sound.ite h1.cancelNow h1.logStall) h1
theorem Sound.finishWave {x : RegionRun} (hs : Sound cmds asked s) : Sound cmds asked (Machine.finishWave s x) := by
  unfold Machine.finishWave
  extract_lets s1
  have h1 : Sound cmds asked s1 := hs.foldl (fun _ ht1 => ht1.updReq)
  exact h1.foldl (fun _ ht2 => ht2.finishPrefill)
theorem Sound.endStep {p r : Nat} {quiet : Bool} {j : Job} (hs : Sound cmds asked s) :
    Sound cmds asked (Machine.endStep s p r quiet j) := by
  unfold Machine.endStep
  extract_lets s1 s2
  have h1 : Sound cmds asked s1 := hs.skipShadows
  have h2 : Sound cmds asked s2 := h1.updRegion
  exact Sound.ite h2 (Sound.ite h2.subPlate h2)
theorem Sound.finishStep {p r : Nat} {j : Job} (hs : Sound cmds asked s) :
    Sound cmds asked (Machine.finishStep s p r j) := by
  unfold Machine.finishStep
  extract_lets _ _
  refine Sound.ite ?_ ?_
  · exact hs.endStep
  · refine Sound.ite ?_ ?_
    · exact hs.endStep.finishWave
    · refine Sound.ite ?_ ?_
      · split
        · exact hs
        · exact Sound.ite hs hs.hlSend.updHl
      · exact Sound.ite hs hs.endStep.updRegion
theorem Sound.execRegionStep {p : PartId} {region : Nat} (hs : Sound cmds asked s) :
    SoundOut cmds asked (Machine.execRegionStep p region s) := by
  unfold Machine.execRegionStep
  extract_lets _ _
  refine Sound.next ?_
  split
  · exact hs
  · exact Sound.ite hs (Sound.ite (Sound.ite hs.finishStep hs) (Sound.ite hs hs.startStep))
theorem Sound.setChk {c hi lo v : Nat} (hs : Sound cmds asked s) : Sound cmds asked (Machine.setChk s c hi lo v) := hs.setCreg
theorem Sound.testCore {c : Nat} (hs : Sound cmds asked s) : Sound cmds asked (Machine.testCore s c) := by
  unfold Machine.testCore
  extract_lets s1
  have h1 : Sound cmds asked s1 := hs.updCore.setChk
  exact h1.updFin
theorem Sound.marginStep {c : Nat} (hs : Sound cmds asked s) : Sound cmds asked (Machine.marginStep s c) := by
  unfold Machine.marginStep
  extract_lets _
  exact Sound.ite hs.updCore.setMarginField.setChk hs.updCore.raiseSwallow.setChk
theorem Sound.suspectCore {c : Nat} (hs : Sound cmds asked s) : Sound cmds asked (Machine.suspectCore s c) := by
  unfold Machine.suspectCore
  extract_lets s1 _ s2 s3
  have h1 : Sound cmds asked s1 := hs.raise
  have h2 : Sound cmds asked s2 := h1.updCore.setChk.marginStep
  have h3 : Sound cmds asked s3 := h2.doorbellAt
  exact Sound.ite h3.setChk.fenceAll h3.testCore
theorem Sound.noteCore {c : Nat} (hs : Sound cmds asked s) : Sound cmds asked (Machine.noteCore s c) := by
  unfold Machine.noteCore
  extract_lets _ s1
  have h1 : Sound cmds asked s1 := hs.updCore
  exact Sound.ite h1.suspectCore h1
theorem Sound.execMarginRemove {c : CoreId} (hs : Sound cmds asked s) : SoundOut cmds asked (Machine.execMarginRemove c s) := by
  unfold Machine.execMarginRemove
  extract_lets _ _ _ _ _ _ _ s1 s2 s3 _ s4
  have h1 : Sound cmds asked s1 := hs.setCore
  have h2 : Sound cmds asked s2 := Sound.ite h1.setMarginField h1
  have h3 : Sound cmds asked s3 := Sound.ite h2.swallowStep h2
  have h4 : Sound cmds asked s4 := h3.setChk
  exact (Sound.ite hs (Sound.ite h4.setChk h4)).next
theorem Sound.dupMismatch {p owner partner index : Nat} {step : W64} (hs : Sound cmds asked s) :
    Sound cmds asked (Machine.dupMismatch s p owner partner index step) := by
  unfold Machine.dupMismatch
  extract_lets s1 _ s2
  have h1 : Sound cmds asked s1 := hs.bumpC
  have h2 : Sound cmds asked s2 := h1.emit
  exact h2.doorbellAt
theorem Sound.dupClear {p : Nat} {owner : CoreId} (hs : Sound cmds asked s) :
    Sound cmds asked (Machine.dupClear s p owner) := hs.updCore.updJob
theorem Sound.replaceTile {owner : Nat} {t : DupTile} {ys : List F32} (hs : Sound cmds asked s) :
    Sound cmds asked (Machine.replaceTile s owner t ys) := by
  unfold Machine.replaceTile
  extract_lets _ _ _ _
  exact hs.foldl (fun _ ht => ht.spadWrite)
theorem Sound.replayDup {p r : Nat}
    (hs : Sound cmds asked s) : Sound cmds asked (Machine.replayDup s p r) := hs.updRegion.replaySteps
theorem Sound.dupFirst {p r : Nat} {owner partner : CoreId} {t : DupTile} {b : List F32} (hs : Sound cmds asked s) :
    Sound cmds asked (Machine.dupFirst s p r owner partner t b) := Sound.ite hs.updCore hs.dupMismatch.updJob.failStep
theorem Sound.dupSecond {p r : Nat} {d : DupCase} {partner : CoreId} {t : DupTile} {b : List F32} (hs : Sound cmds asked s) :
    Sound cmds asked (Machine.dupSecond s p r d partner t b) := by
  unfold Machine.dupSecond
  refine Sound.ite ?_ ?_
  · exact hs.dupClear.noteCore
  · extract_lets s1 s2 s3
    have h1 : Sound cmds asked s1 := hs.dupMismatch
    have h2 : Sound cmds asked s2 := h1.updJob
    have h3 : Sound cmds asked s3 := h2.suspectCore
    split
    · exact Sound.ite h3 h3.replayDup
    · exact h3
theorem Sound.dupThird {p : Nat} {d : DupCase} {second : CoreId} {t : DupTile} {a b : List F32} (hs : Sound cmds asked s) :
    Sound cmds asked (Machine.dupThird s p d second t a b) :=
  Sound.ite hs.replaceTile.dupClear (hs.dupClear.foldl (fun _ ht => ht.noteCore)).restartBegin
theorem Sound.execDupCompare {p : PartId} {owner partner : CoreId} {cmdIndex : W32} {silent silent1 : List (Nat × W32)}
    (hs : Sound cmds asked s) : SoundOut cmds asked (Machine.execDupCompare p owner partner cmdIndex silent silent1 s) := by
  unfold Machine.execDupCompare
  extract_lets p s1
  have h1 : Sound cmds asked s1 := hs.coreRequests
  refine Sound.next ?_
  split
  · split
    · exact hs
    · extract_lets case_ due b
      clear_value case_
      refine Sound.ite hs (Sound.ite h1 ?_)
      split
      · exact h1.dupFirst
      · split
        · exact h1.dupSecond
        · exact h1.dupThird
  · exact hs
theorem Sound.qualityCheck {p c r : Nat} {delta : Rat} (hs : Sound cmds asked s) :
    Sound cmds asked (Machine.qualityCheck s p c r delta) := by
  unfold Machine.qualityCheck
  extract_lets _ s1 s2 s3 _
  have h1 : Sound cmds asked s1 := hs.bumpC
  have h2 : Sound cmds asked s2 := h1.raise
  have h3 : Sound cmds asked s3 := h2.doorbellAt
  exact Sound.ite hs.updRegion (Sound.ite h3.updRegion h3.updRegion.raise)
theorem Sound.execShadowCheckDone {c : CoreId} {region : Nat} {src : Option (BitVec 18 × BitVec 18)}
    (hs : Sound cmds asked s) :
    SoundOut cmds asked (Machine.execShadowCheckDone c region src s) := by
  unfold Machine.execShadowCheckDone
  extract_lets _ s1 s2
  have h1 : Sound cmds asked s1 := hs.coreRequests
  have h2 : Sound cmds asked s2 := h1.updCore.bumpC
  refine Sound.next ?_
  split
  · refine Sound.ite ?_ ?_
    · exact hs
    · split
      · exact hs.skipShadows
      · refine Sound.ite ?_ ?_
        · exact h1
        · extract_lets _
          split
          · exact h2.bumpC
          · exact h2.qualityCheck
  · exact hs

/-! FirmwareCmds. -/

theorem Sound.execStandbyPowerOn {slotPins : BitVec 6} {resetPinLow : Bool} (hs : Sound cmds asked s) :
    SoundOut cmds asked (Machine.execStandbyPowerOn slotPins resetPinLow s) :=
  Sound.next (Sound.ite hs (Sound.updFin (hs.congr rfl rfl rfl rfl)))
theorem Sound.execEclosion {obs : EclosionObs} (hs : Sound cmds asked s) :
    SoundOut cmds asked (Machine.execEclosion obs s) := by
  unfold Machine.execEclosion
  extract_lets _ s1 s2
  have h1 : Sound cmds asked s1 := hs.updFin
  have h2 : Sound cmds asked s2 := h1.updFin.takeCal
  refine Sound.next ?_
  refine Sound.ite ?_ ?_
  · exact hs
  · split
    · exact Sound.ite h1 h1.finderEvent.updFin
    · exact h2.updSec.bootIo.identityCheck
theorem Sound.rampSite {d : Nat} {r : RampResult} (hs : Sound cmds asked s) : Sound cmds asked (Machine.rampSite s d r) := by
  unfold Machine.rampSite
  refine Sound.ite ?_ ?_
  · exact hs
  · split
    · exact hs.energiseSite.setSiteState
    · exact hs.tripSite
    · exact hs.tripSite
    · exact hs.tripSite
    · exact hs.openSite.fenceAll
theorem Sound.startTests (hs : Sound cmds asked s) : Sound cmds asked (Machine.startTests s) := by
  unfold Machine.startTests
  extract_lets _
  exact hs.updFin
theorem Sound.loadImages (hs : Sound cmds asked s) : Sound cmds asked (Machine.loadImages s) := hs.reloadAll.updFin.startTests
theorem Sound.groupsOn (hs : Sound cmds asked s) : Sound cmds asked (Machine.groupsOn s) := by
  unfold Machine.groupsOn
  extract_lets s1 s2 s4
  have h1 : Sound cmds asked s1 := hs.recouple.bootClusters
  have h2 : Sound cmds asked s2 := by
    simp only [s2]
    refine h1.foldl fun _ ht2 => ?_
    split
    · exact ht2.joinSite
    · exact ht2.updSite
  have h4 : Sound cmds asked s4 := h2.updFin
  exact Sound.ite h4.loadImages h4
theorem Sound.execSiteGroupEnergise {g : Fin 16} {results : List RampResult} (hs : Sound cmds asked s) :
    SoundOut cmds asked (Machine.execSiteGroupEnergise g results s) := by
  unfold Machine.execSiteGroupEnergise
  refine SoundOut.ite ?_ ?_
  · exact SoundOut.fault _
  · refine Sound.next ?_
    extract_lets _ s1 s3
    have h1 : Sound cmds asked s1 := hs.foldl (fun _ ht1 => ht1.rampSite)
    have h3 : Sound cmds asked s3 := h1.updFin
    exact Sound.ite hs (Sound.ite h3.groupsOn h3)
theorem Sound.enterImage {i : Nat} {digest img : Bytes}
    (hs : Sound cmds asked s) : Sound cmds asked (Machine.enterImage s i digest img) :=
  by
  have h1 := hs.updCcWf (i := i) (f := fun c => ccDeliver { c with
    image := Option.some digest, mailbox := none, parked := false, failed := false, pmpLocked := true, mem := memWrite c.mem 0 img })
    fun _ hv => (congrArg Mem.wf (ccDeliver_mem _)).trans (wf_memWrite hv ..)
  exact Sound.ite h1.setLocal h1
theorem Sound.acceptRelease {rel : Bytes} (hs : Sound cmds asked s) : Sound cmds asked (Machine.acceptRelease s rel) := by
  unfold Machine.acceptRelease
  extract_lets s1 s2
  have h1 : Sound cmds asked s1 := hs.updStw
  have h2 : Sound cmds asked s2 := h1.enterImage
  exact Sound.ite h2.loadImages h2
theorem Sound.tryPorts {served : List (WlPort × Bytes)} {l : List Nat} (hs : Sound cmds asked s) :
    Sound cmds asked (Machine.tryPorts s served l) := by
  induction l generalizing s with
  | nil => exact hs.updStw
  | cons n l ih =>
    unfold Machine.tryPorts
    split
    · exact ih hs
    · refine Sound.ite (ih hs) ?_
      split
      · exact ih hs.raise
      · exact hs.acceptRelease
theorem Sound.execFirmwareBoot {served : List (WlPort × Bytes)} (hs : Sound cmds asked s) :
    SoundOut cmds asked (Machine.execFirmwareBoot served s) := (Sound.ite hs hs.tryPorts).next
theorem Sound.execFirmwareRetry {served : List (WlPort × Bytes)} (hs : Sound cmds asked s) :
    SoundOut cmds asked (Machine.execFirmwareRetry served s) := (Sound.ite hs hs.tryPorts).next
theorem Sound.loadFails {i : Nat} (hs : Sound cmds asked s) : Sound cmds asked (Machine.loadFails s i) := by
  unfold Machine.loadFails
  extract_lets s1 _ s2 s3
  have h1 : Sound cmds asked s1 := hs.updCc
  have h2 : Sound cmds asked s2 := h1.raise
  have h3 : Sound cmds asked s3 := Sound.ite h2.updStw h2
  exact Sound.ite h1.raise.fenceAll.windowEvents (Sound.ite h3 h3.wlGoDown)
theorem Sound.execCcImageLoad {cc : CcId} {read1 read2 : Bytes} (hs : Sound cmds asked s) :
    SoundOut cmds asked (Machine.execCcImageLoad cc read1 read2 s) := by
  unfold Machine.execCcImageLoad
  extract_lets _
  refine Sound.next ?_
  split
  · exact hs
  · refine Sound.ite ?_ ?_
    · exact hs
    · split
      · exact hs.loadFails
      · extract_lets s1
        have h1 : Sound cmds asked s1 := hs.enterImage
        exact Sound.ite h1.updStw h1
theorem Sound.execPatternTestDone {c : CoreId} {pass : Bool} (hs : Sound cmds asked s) :
    SoundOut cmds asked (Machine.execPatternTestDone c pass s) := by
  unfold Machine.execPatternTestDone
  extract_lets _ s1 s2 _
  have h1 : Sound cmds asked s1 := hs.updFin
  have h2 : Sound cmds asked s2 := h1.updCore
  exact (Sound.ite hs (Sound.ite h2.setChk h2.setChk.raise.fenceAll.windowEvents)).next
theorem Sound.execReady (hs : Sound cmds asked s) : SoundOut cmds asked (Machine.execReady s) :=
  (Sound.ite hs (hs.updFin.finderEvent.foldl (fun _ ht => ht.regrant))).next
theorem Sound.updateFailed {reason : Nat}
    (hs : Sound cmds asked s) : Sound cmds asked (Machine.updateFailed s reason) := hs.stwEvent
theorem Sound.execFwUpdate {req : DapReq} {addr : W64} {rel : Option Bytes} (hs : Sound cmds asked s) :
    SoundOut cmds asked (Machine.execFwUpdate req addr rel s) := by
  unfold Machine.execFwUpdate
  refine Sound.next ?_
  refine hs.dapWrite ⟨fun _ ht => ?_⟩
  split
  · exact ht.updStw
  · exact ht.updateFailed
  · exact ht
theorem Sound.reloadCore {i : Nat} {load : State → State}
    (hs : Sound cmds asked s) (hload : ∀ {t}, Sound cmds asked t → Sound cmds asked (load t)) :
    Sound cmds asked (Machine.reloadCore s i load) := Sound.ite (Sound.ite hs.updCc hs) (hload hs)
theorem Sound.execCoreReload {cc : CcId} {read1 read2 : Bytes} (hs : Sound cmds asked s) :
    SoundOut cmds asked (Machine.execCoreReload cc read1 read2 s) := by
  unfold Machine.execCoreReload
  extract_lets _ _ _
  refine Sound.next ?_
  split
  · exact hs
  · refine Sound.ite ?_ ?_
    · exact hs
    · refine Sound.ite ?_ ?_
      · refine Sound.ite ?_ ?_
        · exact hs
        · refine hs.reloadCore (fun ht => ?_)
          extract_lets s2
          have h2 : Sound cmds asked s2 := ht.updStw
          split
          · exact h2.enterImage
          · exact h2.loadFails
      · refine Sound.ite ?_ ?_
        · exact hs
        · refine hs.reloadCore (fun ht2 => ?_)
          extract_lets s4
          have h4 : Sound cmds asked s4 := ht2.updStw
          split
          · exact h4.enterImage
          · exact h4.updStw
theorem Sound.execFwUpdateDone (hs : Sound cmds asked s) : SoundOut cmds asked (Machine.execFwUpdateDone s) := by
  unfold Machine.execFwUpdateDone
  refine Sound.next ?_
  refine Sound.ite ?_ ?_
  · exact hs
  · refine Sound.ite ?_ ?_
    · exact Sound.ite hs (hs.updStw.stwEvent.foldl (fun _ ht => ht.sendHello.redecide))
    · exact Sound.ite hs.updStw.updateFailed hs
theorem Sound.execStewardHeartbeat (hs : Sound cmds asked s) : SoundOut cmds asked (Machine.execStewardHeartbeat s) :=
  (Sound.ite hs hs.updStw).next
theorem Sound.switchSteward (hs : Sound cmds asked s) : Sound cmds asked (Machine.switchSteward s) := by
  unfold Machine.switchSteward
  extract_lets _ s1 _
  have h1 : Sound cmds asked s1 := hs.updStw
  exact h1.updStw
theorem Sound.execStewardHandover (hs : Sound cmds asked s) : SoundOut cmds asked (Machine.execStewardHandover s) :=
  (Sound.ite hs hs.switchSteward.stwEvent).next
theorem Sound.execStewardFailover (hs : Sound cmds asked s) : SoundOut cmds asked (Machine.execStewardFailover s) := by
  unfold Machine.execStewardFailover
  refine Sound.next ?_
  refine Sound.ite ?_ ?_
  · exact hs
  · extract_lets _ s1 s2 s3 _ s4
    have h1 : Sound cmds asked s1 := hs.switchSteward
    have h2 : Sound cmds asked s2 := h1.updStw
    have h3 : Sound cmds asked s3 := h2.stwEvent
    have h4 : Sound cmds asked s4 := (h3.updCcWf (fun _ _ => rfl)).mailImage
    refine h4.foldl fun _ ht4 => ?_
    split
    · exact Sound.ite ht4.replaySteps ht4
    · exact ht4

/-! WenlinkCmds. -/

theorem Sound.queueDrained {q : Nat} (hs : Sound cmds asked s) : Sound cmds asked (Machine.queueDrained s q) := by
  unfold Machine.queueDrained
  refine Sound.ite ?_ ?_
  · exact hs
  · refine hs.foldl fun _ ht => ?_
    split
    · exact ht
    · extract_lets s2
      have h2 : Sound cmds asked s2 := ht.setReq
      exact h2.logPause
theorem Sound.queueFreed {q : Nat} (hs : Sound cmds asked s) : Sound cmds asked (Machine.queueFreed s q) := by
  unfold Machine.queueFreed
  split
  · exact hs
  · refine Sound.ite ?_ ?_
    · exact hs.queueDrained
    · refine Sound.ite ?_ ?_
      · exact hs.flushHeld
      · refine Sound.ite ?_ ?_
        · extract_lets _
          refine Sound.ite ?_ ?_
          · exact hs
          · split
            · exact hs.logFlush
            · exact hs
        · exact hs
theorem Sound.portBack {n : Nat} (hs : Sound cmds asked s) : Sound cmds asked (Machine.portBack s n) :=
  hs.flushHeld.foldl (fun _ ht => ht.queueFreed)
theorem Sound.wlUp {n : Nat} (hs : Sound cmds asked s) : Sound cmds asked (Machine.wlUp s n) := hs.wlState.portEvent.portBack
theorem Sound.pairTime {t : W64}
    (hs : Sound cmds asked s) : Sound cmds asked (Machine.noteHostTime.pairTime s t) := Sound.ite hs.updStw hs
theorem Sound.noteHostTime {n : Nat} {t : W64} (hs : Sound cmds asked s) : Sound cmds asked (Machine.noteHostTime s n t) := by
  unfold Machine.noteHostTime
  split
  · exact Sound.ite hs.wlViolation hs.updWl.pairTime
  · exact hs.updWl.pairTime
theorem Sound.execWlDetect {n : WlPort} {lanes : Byte} (hs : Sound cmds asked s) :
    SoundOut cmds asked (Machine.execWlDetect n lanes s) := by
  unfold Machine.execWlDetect
  extract_lets _ s1 s2
  have h1 : Sound cmds asked s1 := hs.updWl
  have h2 : Sound cmds asked s2 := Sound.ite h1.wlState h1
  exact (Sound.ite hs (Sound.ite h1 h2.updWl.wlState)).next
theorem Sound.execWlTrain {n : WlPort} {obs : TrainObs} (hs : Sound cmds asked s) :
    SoundOut cmds asked (Machine.execWlTrain n obs s) := by
  unfold Machine.execWlTrain
  extract_lets _ s1 _ _ _ s2
  have h1 : Sound cmds asked s1 := Sound.ite hs.wlState hs
  have h2 : Sound cmds asked s2 := hs.updWl
  refine Sound.next ?_
  refine Sound.ite ?_ ?_
  · exact hs
  · split
    · exact Sound.ite hs.wlGoDown (Sound.ite h1.updWl.wlState h1.updWl.wlState.portEvent)
    · exact Sound.ite hs.wlGoDown h2.wlState
theorem Sound.execWlCapability {n : WlPort} {block : Bytes} (hs : Sound cmds asked s) :
    SoundOut cmds asked (Machine.execWlCapability n block s) := by
  unfold Machine.execWlCapability
  extract_lets _ s1 s2
  have h1 : Sound cmds asked s1 := hs.updWl
  have h2 : Sound cmds asked s2 := h1.noteHostTime
  exact (Sound.ite hs (Sound.ite hs.updWl.wlState.wlViolation (Sound.ite h2 h2.wlUp))).next
theorem Sound.execWlDown {n : WlPort} (hs : Sound cmds asked s) : SoundOut cmds asked (Machine.execWlDown n s) := by
  unfold Machine.execWlDown
  extract_lets _ s1
  have h1 : Sound cmds asked s1 := Sound.ite hs.updWl hs
  exact (Sound.ite h1 h1.wlGoDown).next
theorem Sound.retrainEnds {n : Nat} {recovered : Bool} (hs : Sound cmds asked s) :
    Sound cmds asked (Machine.retrainEnds s n recovered) := Sound.ite hs (Sound.ite hs.wlUp hs.wlGoDown)
theorem Sound.execWlRetrain {n : WlPort} {recovered : Bool} (hs : Sound cmds asked s) :
    SoundOut cmds asked (Machine.execWlRetrain n recovered s) := by
  unfold Machine.execWlRetrain
  extract_lets _
  exact (Sound.ite hs.wlRetrainNow hs).retrainEnds.next
theorem Sound.execWlTapAdapt {n : WlPort} (hs : Sound cmds asked s) : SoundOut cmds asked (Machine.execWlTapAdapt n s) := by
  unfold Machine.execWlTapAdapt
  extract_lets _
  exact (Sound.ite hs hs.updWl).next
theorem Sound.wlReplay {n : Nat} (hs : Sound cmds asked s) : Sound cmds asked (Machine.wlReplay s n) :=
  Sound.ite hs (Sound.ite hs.updWl.wlRetrainNow hs.updWl)
theorem Sound.countMessage {n : Nat} (hs : Sound cmds asked s) : Sound cmds asked (Machine.countMessage s n) := by
  unfold Machine.countMessage
  extract_lets _ _ _ _ s1 s2
  have h1 : Sound cmds asked s1 := hs.updWl
  have h2 : Sound cmds asked s2 := h1.updWl
  exact Sound.ite h1 h2.wlViolation
theorem Sound.takeMessage {n : Nat} (hs : Sound cmds asked s) : Sound cmds asked (Machine.takeMessage s n) := by
  unfold Machine.takeMessage
  extract_lets _ _ _ s1
  have h1 : Sound cmds asked s1 := hs.updWl.countMessage
  exact Sound.ite hs (Sound.ite hs.updWl.wlViolation (Sound.ite hs (Sound.ite h1 h1.wlViolation)))
theorem Sound.wlAnswer {n : Nat} {nak : Bool} (hs : Sound cmds asked s) : Sound cmds asked (Machine.wlAnswer s n nak) := hs.updWl
theorem Sound.execWlFlit {n : WlPort} {flit : Bytes} (hs : Sound cmds asked s) :
    SoundOut cmds asked (Machine.execWlFlit n flit s) := by
  unfold Machine.execWlFlit
  extract_lets _ _ s1 s2
  have h1 : Sound cmds asked s1 := hs.updWl
  have h2 : Sound cmds asked s2 := h1.updWl.wlAnswer
  refine SoundOut.ite ?_ ?_
  · exact SoundOut.fault _
  · refine Sound.next ?_
    refine Sound.ite ?_ ?_
    · exact hs
    · exact Sound.ite hs.updWl.wlAnswer (Sound.ite h1.wlReplay (Sound.ite h1 (Sound.ite h1.wlAnswer h2.takeMessage)))
theorem Sound.execWlReplayTimeout {n : WlPort} (hs : Sound cmds asked s) :
    SoundOut cmds asked (Machine.execWlReplayTimeout n s) := by
  unfold Machine.execWlReplayTimeout
  extract_lets _
  exact (Sound.ite hs hs.wlReplay).next
theorem Sound.dropRead {n : Nat} {tag : BitVec 16} (hs : Sound cmds asked s) :
    Sound cmds asked (Machine.dropRead s n tag) := hs.updWl
theorem Sound.entryRead {why : ReadFor} (hs : Sound cmds asked s) : Sound cmds asked (Machine.entryRead s why) := by
  unfold Machine.entryRead
  split
  · exact hs.updWl
  · exact hs
theorem Sound.execCpl {n : WlPort} {tag : BitVec 16} {error : Bool} {data : Bytes} (hs : Sound cmds asked s) :
    SoundOut cmds asked (Machine.execCpl n tag error data s) := by
  unfold Machine.execCpl
  extract_lets _ s1 s2
  have h1 : Sound cmds asked s1 := hs.doorbellAt
  have h2 : Sound cmds asked s2 := h1.dropRead
  refine Sound.next ?_
  refine Sound.ite ?_ ?_
  · exact hs
  · split
    · exact h1.wlViolation
    · exact Sound.ite h2.inputFailed (Sound.ite h2.inputFailed.wlViolation h2.entryRead.inputArrived)
theorem Sound.execMrdTimeout {n : WlPort} {tag : BitVec 16} (hs : Sound cmds asked s) :
    SoundOut cmds asked (Machine.execMrdTimeout n tag s) := by
  unfold Machine.execMrdTimeout
  extract_lets _
  refine Sound.next ?_
  split
  · exact hs
  · exact hs.dropRead.inputFailed.wlViolation
theorem Sound.moveIndex {q : Nat} {w : WlQueue} {index : W32} (hs : Sound cmds asked s) :
    Sound cmds asked (Machine.moveIndex s q w index) := Sound.ite (Sound.ite hs.updWl hs.updWl.fetchEntry) hs.updWl.queueFreed
theorem Sound.applyDoorbell {n : Nat} {queue : BitVec 16} {index : W32} {hostTime : W64} (hs : Sound cmds asked s) :
    Sound cmds asked (Machine.applyDoorbell s n queue index hostTime) := by
  unfold Machine.applyDoorbell
  extract_lets s1 s2
  have h1 : Sound cmds asked s1 := hs.doorbellAt
  have h2 : Sound cmds asked s2 := h1.noteHostTime
  refine Sound.ite ?_ ?_
  · exact h2
  · split
    · exact h2.wlViolation
    · exact Sound.ite h2.wlViolation h2.moveIndex
theorem Sound.execWlDoorbell {n : WlPort} {queue : BitVec 16} {index : W32} {hostTime : W64} (hs : Sound cmds asked s) :
    SoundOut cmds asked (Machine.execWlDoorbell n queue index hostTime s) := by
  unfold Machine.execWlDoorbell
  extract_lets _
  exact (Sound.ite hs (Sound.ite hs.updWl hs.applyDoorbell)).next
theorem Sound.execStamp {n : WlPort} {hostTime : W64} (hs : Sound cmds asked s) :
    SoundOut cmds asked (Machine.execStamp n hostTime s) := (Sound.ite hs hs.noteHostTime).next
theorem Sound.answerQ {n : Nat} {tag : BitVec 16} {code : Nat} (hs : Sound cmds asked s) :
    Sound cmds asked (Machine.answerQ s n tag code) := by
  unfold Machine.answerQ
  extract_lets s1
  have h1 : Sound cmds asked s1 := hs.wlPost
  exact Sound.ite h1.wlViolation h1
theorem Sound.execQcreate {n : WlPort} {tag : BitVec 16} {payload : Bytes} (hs : Sound cmds asked s) :
    SoundOut cmds asked (Machine.execQcreate n tag payload s) := by
  unfold Machine.execQcreate
  extract_lets _ _ _
  refine SoundOut.ite ?_ ?_
  · exact SoundOut.fault _
  · exact (Sound.ite hs (Sound.ite hs.answerQ (Sound.ite hs.answerQ (Sound.ite hs.answerQ hs.updWl.answerQ.queueFreed)))).next
theorem Sound.execQdelete {n : WlPort} {tag : BitVec 16} {payload : Bytes} (hs : Sound cmds asked s) :
    SoundOut cmds asked (Machine.execQdelete n tag payload s) := by
  unfold Machine.execQdelete
  extract_lets _ _
  refine SoundOut.ite ?_ ?_
  · exact SoundOut.fault _
  · refine Sound.next ?_
    refine Sound.ite ?_ ?_
    · exact hs
    · split
      · exact hs.answerQ
      · exact Sound.ite hs.answerQ (Sound.ite hs.answerQ hs.updWl.answerQ)
theorem Sound.execParkArea {n : WlPort} {tag : BitVec 16} {base length : W64} (hs : Sound cmds asked s) :
    SoundOut cmds asked (Machine.execParkArea n tag base length s) := by
  unfold Machine.execParkArea
  extract_lets _ _
  refine Sound.next ?_
  refine Sound.ite ?_ ?_
  · exact hs
  · exact Sound.ite hs.answerQ (Sound.ite (Sound.ite hs.answerQ hs.updWl.answerQ) (Sound.ite hs.answerQ hs.updWl.answerQ))
theorem Sound.wlLeaveQuarantine {n : Nat}
    (hs : Sound cmds asked s) : Sound cmds asked (Machine.wlLeaveQuarantine s n) := hs.updWl.wlState
theorem Sound.execWlQuarantineEnd {n : WlPort} (hs : Sound cmds asked s) :
    SoundOut cmds asked (Machine.execWlQuarantineEnd n s) := by
  unfold Machine.execWlQuarantineEnd
  extract_lets _
  exact (Sound.ite hs hs.wlLeaveQuarantine).next
theorem Sound.execPortRelease {req : DapReq} {port : Byte} (hs : Sound cmds asked s) :
    SoundOut cmds asked (Machine.execPortRelease req port s) := by
  unfold Machine.execPortRelease
  extract_lets _
  exact (hs.dapWrite ⟨fun _ ht => (Sound.ite ht ht.wlLeaveQuarantine)⟩).next
theorem Sound.execPortHoldExpire {n : WlPort} (hs : Sound cmds asked s) :
    SoundOut cmds asked (Machine.execPortHoldExpire n s) := (Sound.ite hs hs.dropQueues).next

/-! HeliostatCmds. -/

theorem Sound.execHlDetect {site : HlPort} {lanes : Byte} (hs : Sound cmds asked s) :
    SoundOut cmds asked (Machine.execHlDetect site lanes s) := by
  unfold Machine.execHlDetect
  extract_lets _
  exact (Sound.ite hs hs.updHl).next
theorem Sound.execHlTrain {site : HlPort} {obs : TrainObs} {peerGen : Fin 3} (hs : Sound cmds asked s) :
    SoundOut cmds asked (Machine.execHlTrain site obs peerGen s) := by
  unfold Machine.execHlTrain
  extract_lets _ _ _
  refine Sound.next ?_
  refine Sound.ite ?_ ?_
  · exact hs
  · split
    · exact Sound.ite hs.hlGoDown hs.updHl.sendHello
    · exact Sound.ite hs.hlGoDown hs.updHl
theorem Sound.execHlHello {site : HlPort} {hello chain sig : Bytes} (hs : Sound cmds asked s) :
    SoundOut cmds asked (Machine.execHlHello site hello chain sig s) := by
  unfold Machine.execHlHello
  extract_lets _ _ s1 s2
  have h1 : Sound cmds asked s1 := Sound.ite hs.hlSend hs
  have h2 : Sound cmds asked s2 := h1.updHl
  refine Sound.next ?_
  refine Sound.ite ?_ ?_
  · exact hs
  · exact Sound.ite hs.hlViolation (Sound.ite hs.hlGoDown (Sound.ite (Sound.ite h1.hlAuthFail h2.hlUp) hs.updHl.redecide))
theorem Sound.execHlDown {site : HlPort} (hs : Sound cmds asked s) : SoundOut cmds asked (Machine.execHlDown site s) := by
  unfold Machine.execHlDown
  extract_lets _
  exact (Sound.ite hs hs.hlGoDown).next
theorem Sound.execHlRetrain {site : HlPort} {recovered : Bool} (hs : Sound cmds asked s) :
    SoundOut cmds asked (Machine.execHlRetrain site recovered s) := by
  unfold Machine.execHlRetrain
  extract_lets _ s1 _
  have h1 : Sound cmds asked s1 := Sound.ite hs.hlRetrainNow hs
  exact (Sound.ite h1 (Sound.ite h1.hlUp.updHl h1.hlGoDown)).next
theorem Sound.execHlTapAdapt {site : HlPort} (hs : Sound cmds asked s) :
    SoundOut cmds asked (Machine.execHlTapAdapt site s) := by
  unfold Machine.execHlTapAdapt
  extract_lets _
  exact (Sound.ite hs hs.updHl).next
theorem Sound.hlReplay {d : Nat} (hs : Sound cmds asked s) : Sound cmds asked (Machine.hlReplay s d) :=
  Sound.ite hs (Sound.ite hs.updHl.bumpHlErr.hlRetrainNow hs.updHl.bumpHlErr)
theorem Sound.hlAnswer {d : Nat} {nak : Bool} (hs : Sound cmds asked s) : Sound cmds asked (Machine.hlAnswer s d nak) := hs.updHl
theorem Sound.execHlFlit {site : HlPort} {flit : Bytes} (hs : Sound cmds asked s) :
    SoundOut cmds asked (Machine.execHlFlit site flit s) := by
  unfold Machine.execHlFlit
  extract_lets _ _ s1 s2
  have h1 : Sound cmds asked s1 := hs.updHl.chainAcked.setChainStall
  have h2 : Sound cmds asked s2 := h1.updHl.hlAnswer
  refine SoundOut.ite ?_ ?_
  · exact SoundOut.fault _
  · refine Sound.next ?_
    refine Sound.ite ?_ ?_
    · exact hs
    · refine Sound.ite ?_ ?_
      · exact hs.bumpHlErr.hlAnswer
      · refine Sound.ite ?_ ?_
        · exact hs.hlViolation
        · refine Sound.ite ?_ ?_
          · exact h1.hlReplay
          · refine Sound.ite ?_ ?_
            · exact h1
            · refine Sound.ite ?_ ?_
              · exact h1.hlAnswer
              · split
                · exact h2.hlViolation
                · exact h2
theorem Sound.execHlReplayTimeout {site : HlPort} (hs : Sound cmds asked s) :
    SoundOut cmds asked (Machine.execHlReplayTimeout site s) := by
  unfold Machine.execHlReplayTimeout
  extract_lets _
  exact (Sound.ite hs hs.hlReplay).next
theorem Sound.execHopHandoff {site : HlPort} {p : PartId} {stepNum : W64} {rows : HopRows} (hs : Sound cmds asked s) :
    SoundOut cmds asked (Machine.execHopHandoff site p stepNum rows s) := by
  unfold Machine.execHopHandoff
  extract_lets _ _ _ _ s1
  have h1 : Sound cmds asked s1 := hs.updRegion
  exact (Sound.ite hs (Sound.ite hs.hlSend (Sound.ite hs h1.hlSend.updHl))).next
theorem Sound.execHopAck {site : HlPort} {p : PartId} {stepNum : W64} (hs : Sound cmds asked s) :
    SoundOut cmds asked (Machine.execHopAck site p stepNum s) := by
  unfold Machine.execHopAck
  extract_lets _ _
  refine Sound.next ?_
  split
  · exact hs
  · exact Sound.ite hs (Sound.ite hs.hlViolation (Sound.ite hs hs.endStep.finishWave))
theorem Sound.execHopAckTimeout {site : HlPort} {p : PartId} (hs : Sound cmds asked s) :
    SoundOut cmds asked (Machine.execHopAckTimeout site p s) := by
  unfold Machine.execHopAckTimeout
  extract_lets _ _
  refine Sound.next ?_
  split
  · exact hs
  · extract_lets _
    exact Sound.ite hs hs.updHl.failStep
theorem Sound.hlLeaveQuarantine {d : Nat} (hs : Sound cmds asked s) : Sound cmds asked (Machine.hlLeaveQuarantine s d) := hs.updHl
theorem Sound.execHlQuarantineEnd {site : HlPort} (hs : Sound cmds asked s) :
    SoundOut cmds asked (Machine.execHlQuarantineEnd site s) := by
  unfold Machine.execHlQuarantineEnd
  extract_lets _
  exact (Sound.ite hs hs.hlLeaveQuarantine).next
theorem Sound.execHlPortRelease {req : DapReq} {port : Byte} (hs : Sound cmds asked s) :
    SoundOut cmds asked (Machine.execHlPortRelease req port s) := by
  unfold Machine.execHlPortRelease
  extract_lets _
  exact (hs.dapWrite ⟨fun _ ht => (Sound.ite ht ht.hlLeaveQuarantine)⟩).next

/-! MgmtCmds. -/

theorem Sound.dropReasm {path : DapPath} {source : Nat} (hs : Sound cmds asked s) :
    Sound cmds asked (Machine.dropReasm s path source) := hs.updMgmt
theorem Sound.dapComplete {path : DapPath} {source : Nat} {data : Bytes} (hs : Sound cmds asked s) :
    Sound cmds asked (Machine.dapComplete s path source data) := by
  unfold Machine.dapComplete
  extract_lets _ _ _
  exact Sound.ite (Sound.ite hs.updMgmt.countRequest.respond hs.updMgmt.countRequest.badMessage) hs.updMgmt
theorem Sound.segJoin {path : DapPath} {source : Nat} {f : Bool × Bool × Nat × Bytes} {before : Bytes}
    (hs : Sound cmds asked s) :
    Sound cmds asked (Machine.segJoin s path source f before) := by
  unfold Machine.segJoin
  extract_lets _ s1 _
  have h1 : Sound cmds asked s1 := hs.dropReasm
  exact Sound.ite h1.malformed (Sound.ite h1.dapComplete h1.updMgmt)
theorem Sound.execDapSegment {path : DapPath} {source : Nat} {data : Bytes} {first last : Bool} (hs : Sound cmds asked s) :
    SoundOut cmds asked (Machine.execDapSegment path source data first last s) := by
  unfold Machine.execDapSegment
  refine Sound.next ?_
  refine Sound.ite ?_ ?_
  · exact hs
  · split
    · exact hs.dropReasm.malformed
    · split
      · refine Sound.ite ?_ ?_
        · exact hs.segJoin
        · split
          · exact hs
          · exact hs.malformed
      · extract_lets _
        exact Sound.ite hs.malformed.segJoin (Sound.ite hs.segJoin hs.dropReasm.malformed)
theorem Sound.execDapReassemblyTimeout {path : DapPath} {source : Nat} (hs : Sound cmds asked s) :
    SoundOut cmds asked (Machine.execDapReassemblyTimeout path source s) := by
  unfold Machine.execDapReassemblyTimeout
  refine Sound.next ?_
  split
  · exact hs.dropReasm.malformed
  · exact hs
theorem Sound.execDapOpen {req : DapReq} {body : Bytes} (hs : Sound cmds asked s) :
    SoundOut cmds asked (Machine.execDapOpen req body s) := by
  unfold Machine.execDapOpen
  refine Sound.next ?_
  refine Sound.ite ?_ ?_
  · exact hs.badBody
  · split
    · exact hs
    · next s1 e =>
        have h1 : Sound cmds asked s1 := hs.dapHear _ e
        extract_lets _ _ _ s2 _ s3
        have h2 : Sound cmds asked s2 := h1.countRequest.updMgmt
        have h3 : Sound cmds asked s3 := h2.freeBytes.updMgmt
        refine Sound.ite ?_ ?_
        · exact h1.countRequest.respond
        · refine Sound.ite ?_ ?_
          · exact h1.countRequest.respond
          · exact Sound.ite h1.countRequest.unknownAuth.respond (Sound.ite h2.rateExcess.respond h3.respond)
theorem Sound.openSession {req : DapReq} {c : Challenge} {key : Bytes} {epoch : Nat} {serial : Bool}
    (hs : Sound cmds asked s) :
    Sound cmds asked (Machine.openSession s req c key epoch serial) := Sound.ite hs.respond hs.updMgmt.respond
theorem Sound.execDapProve {req : DapReq} {cert : Bytes} (hs : Sound cmds asked s) :
    SoundOut cmds asked (Machine.execDapProve req cert s) := by
  unfold Machine.execDapProve
  refine Sound.next ?_
  split
  · exact hs
  · next s1 e =>
      have h1 : Sound cmds asked s1 := hs.dapHear _ e
      extract_lets _ s2 s3
      have h2 : Sound cmds asked s2 := h1.countRequest
      have h3 : Sound cmds asked s3 := h2.updMgmt
      refine Sound.ite ?_ ?_
      · exact h2.respond
      · split
        · exact h2.unknownAuth.respond
        · refine Sound.ite ?_ ?_
          · exact h3.badMessage
          · refine Sound.ite ?_ ?_
            · exact h3.unknownAuth.respond
            · refine Sound.ite ?_ ?_
              · exact h3.respond
              · refine Sound.ite ?_ ?_
                · exact Sound.ite h3.openSession h3.agentEvent.unknownAuth.respond
                · split
                  · exact h3.unknownAuth.respond
                  · exact Sound.ite h3.openSession h3.badSig.respond
theorem Sound.execDapClose {req : DapReq} (hs : Sound cmds asked s) : SoundOut cmds asked (Machine.execDapClose req s) :=
  (hs.dapRequest ⟨fun _ ht => ht.closeSessions.respond⟩).next
theorem Sound.execSessionIdleTimeout {session : BitVec 32} (hs : Sound cmds asked s) :
    SoundOut cmds asked (Machine.execSessionIdleTimeout session s) := hs.closeSessions.next
theorem Sound.execChallengeTimeout {path : DapPath} {source : Nat} {txn : BitVec 16} (hs : Sound cmds asked s) :
    SoundOut cmds asked (Machine.execChallengeTimeout path source txn s) := hs.updMgmt.next
theorem Sound.execCredentialUnlock {fp : Bytes} (hs : Sound cmds asked s) :
    SoundOut cmds asked (Machine.execCredentialUnlock fp s) := hs.updMgmt.next
theorem Sound.execPathQuarantineEnd {path : DapPath} (hs : Sound cmds asked s) :
    SoundOut cmds asked (Machine.execPathQuarantineEnd path s) := hs.updMgmt.next
theorem Sound.execDapRead {req : DapReq} {body : Bytes} (hs : Sound cmds asked s) :
    SoundOut cmds asked (Machine.execDapRead req body s) := by
  unfold Machine.execDapRead
  extract_lets _ _
  refine Sound.next ?_
  refine Sound.ite ?_ ?_
  · exact hs.badBody
  · refine hs.dapRequest ⟨fun _ ht => ?_⟩
    split
    · exact ht.respond
    · exact Sound.ite ht.badAccess.respond ht.respond
theorem Sound.plainApply {ix sub : Nat} {value : Bytes}
    (hs : Sound cmds asked s) : Sound cmds asked (Machine.plainApply ix sub value s) :=
  by
  unfold Machine.plainApply
  extract_lets gone s1 s2
  have h1 : Sound cmds asked s1 := hs.updMgmt
  have h2 : Sound cmds asked s2 := hs.scalarWrite
  refine Sound.ite ?_ (Sound.ite hs.updMgmt (Sound.ite hs.updSec (Sound.ite (hs.congr rfl rfl rfl rfl) (Sound.ite h2.divideCap h2))))
  clear_value gone
  split
  · exact h1.closeSessions
  · exact h1
theorem Sound.execDapWrite {req : DapReq} {body : Bytes} (hs : Sound cmds asked s) :
    SoundOut cmds asked (Machine.execDapWrite req body s) := by
  unfold Machine.execDapWrite
  extract_lets _ _ _ _ _
  exact (Sound.ite hs.badBody (Sound.ite hs (hs.dapWriteRaw ⟨fun _ ht => ht.plainApply⟩))).next
theorem Sound.execAuditExport {req : DapReq} {body : Bytes} (hs : Sound cmds asked s) :
    SoundOut cmds asked (Machine.execAuditExport req body s) := by
  unfold Machine.execAuditExport
  extract_lets _
  refine Sound.next ?_
  refine Sound.ite ?_ ?_
  · exact hs.badBody
  · refine hs.dapRequest ⟨fun _ ht => ?_⟩
    refine Sound.ite ?_ ?_
    · exact ht.badAccess.respond
    · split
      · exact ht.respond
      · exact Sound.ite ht.respond ht.respond
theorem Sound.execAuditAck {req : DapReq} {body : Bytes} (hs : Sound cmds asked s) :
    SoundOut cmds asked (Machine.execAuditAck req body s) := by
  unfold Machine.execAuditAck
  extract_lets _ _ _
  refine Sound.next ?_
  refine Sound.ite ?_ ?_
  · exact hs.badBody
  · refine hs.dapSigned (fun _ _ _ ht => ht.refuseWrite) ⟨fun _ ht1 => ?_⟩
    refine Sound.ite ?_ ?_
    · exact ht1.badAccess.refuseWrite
    · split
      · exact ht1.refuseWrite
      · exact Sound.ite ht1.refuseWrite (Sound.ite ht1.agentEvent.respond ht1.updMgmt.auditRecord.agentEvent.respond)

/-! SecurityCmds. -/

theorem Sound.execPublisherCert {req : DapReq} {n : Fin 8} {cert : Cert} (hs : Sound cmds asked s) :
    SoundOut cmds asked (Machine.execPublisherCert req n cert s) :=
  SoundOut.ite (SoundOut.fault _) (hs.dapWrite ⟨fun _ ht => ht.updSec⟩).next
theorem Sound.execPublisherFp {req : DapReq} {n : Fin 8} {fp : Bytes} (hs : Sound cmds asked s) :
    SoundOut cmds asked (Machine.execPublisherFp req n fp s) :=
  SoundOut.ite (SoundOut.fault _) (hs.dapWrite ⟨fun _ ht => ht.updSec⟩).next
theorem Sound.execQuoteRequest {req : DapReq} {nonce : Bytes} (hs : Sound cmds asked s) :
    SoundOut cmds asked (Machine.execQuoteRequest req nonce s) := (hs.dapWrite ⟨fun _ ht => ht.updSec⟩).next
theorem Sound.execQuoteIssued (hs : Sound cmds asked s) : SoundOut cmds asked (Machine.execQuoteIssued s) :=
  (Sound.ite hs hs.updSec.agentEvent).next
theorem Sound.execMakerEpochMin {req : DapReq} {value : Byte} (hs : Sound cmds asked s) :
    SoundOut cmds asked (Machine.execMakerEpochMin req value s) := by
  unfold Machine.execMakerEpochMin
  extract_lets _
  exact (hs.dapWrite ⟨fun _ ht => ht.updSec.closeSessions⟩).next
theorem Sound.clearTenants (hs : Sound cmds asked s) : Sound cmds asked (Machine.clearTenants s) := by
  have h1 :=
    hs.foldl (l := s.parts.map (fun e => e.1)) (f := fun s p => (partOf s p).clearDesc.foldl (fun s d => Machine.clearCache s p d) s)
    fun _ ht => ht.foldl fun _ hu => hu.clearCache
  refine h1.tables rfl (fun _ => getN_map_entry spadWf ?_ ?_ spadWf_reset) (fun _ h => h) fun _ h => h
  · exact fun _ => rfl
  · exact fun _ _ => rfl
theorem Sound.execDebugUnlock {req : DapReq} {value : Byte} (hs : Sound cmds asked s) :
    SoundOut cmds asked (Machine.execDebugUnlock req value s) :=
  (hs.dapWrite ⟨fun _ ht => (Sound.ite ht ht.clearTenants.updSec.agentEvent)⟩).next
theorem Sound.execDebugLock {req : DapReq} {value : Byte} (hs : Sound cmds asked s) :
    SoundOut cmds asked (Machine.execDebugLock req value s) := (hs.dapWrite ⟨fun _ ht => ht.closeDebug⟩).next
theorem Sound.dmiAnswer {value : Bytes}
    (hs : Sound cmds asked s) : Sound cmds asked (Machine.dmiAnswer s value).2 := hs.freeBytes.freeBytes
theorem Sound.execDebugDmi {req : DapReq} {value : Bytes} (hs : Sound cmds asked s) :
    SoundOut cmds asked (Machine.execDebugDmi req value s) := (hs.dapWrite ⟨fun _ ht => ht.dmiAnswer.updSec⟩).next

/-! Sleep. -/

theorem Sound.restartAll {cause : Nat} (hs : Sound cmds asked s) : Sound cmds asked (Machine.restartAll s cause) :=
  hs.foldl (fun _ ht => ht.restartBegin)
theorem Sound.afterW {cause : Nat} (hs : Sound cmds asked s) : Sound cmds asked (Machine.afterW s cause) := by
  unfold Machine.afterW
  extract_lets s1 s2
  have h1 : Sound cmds asked s1 := hs.retainVaults.bootClusters
  have h2 : Sound cmds asked s2 := Sound.ite (h1.foldl (fun _ ht2 => ht2.mailImage)) h1
  exact h2.updFin.restartAll
theorem Sound.afterM (hs : Sound cmds asked s) : Sound cmds asked (Machine.afterM s) := by
  unfold Machine.afterM
  extract_lets s1 _ s2 s3
  have h1 : Sound cmds asked s1 := hs.updFin
  have h2 : Sound cmds asked s2 := h1.updFin
  have h3 : Sound cmds asked s3 := h2.retainVaults.bootIo.identityCheck
  exact Sound.ite h1.updFin (Sound.ite h3 h3.bootClusters.updFin)
theorem Sound.afterC (hs : Sound cmds asked s) : Sound cmds asked (Machine.afterC s) := hs.updFin
theorem Sound.recordReset {cls cause : Nat} (hs : Sound cmds asked s) :
    Sound cmds asked (Machine.recordReset s cls cause) := by
  unfold Machine.recordReset
  extract_lets s1
  have h1 : Sound cmds asked s1 := hs.updFin
  exact h1.finderEvent
theorem Sound.execResetRelease (hs : Sound cmds asked s) : SoundOut cmds asked (Machine.execResetRelease s) := by
  unfold Machine.execResetRelease
  refine Sound.next ?_
  split
  · exact hs
  · extract_lets s1 s2
    have h1 : Sound cmds asked s1 := hs.updFin.setMainIn
    have h2 : Sound cmds asked s2 := h1.recordReset
    exact Sound.ite h2.afterW (Sound.ite h2.afterM h2.afterC)
theorem Sound.execResetRequestW {req : DapReq} (hs : Sound cmds asked s) :
    SoundOut cmds asked (Machine.execResetRequestW req s) := (hs.dapWrite ⟨fun _ ht => ht.holdReset⟩).next
theorem Sound.execResetRequestM {req : DapReq} (hs : Sound cmds asked s) :
    SoundOut cmds asked (Machine.execResetRequestM req s) := (hs.dapWrite ⟨fun _ ht => ht.holdReset⟩).next
theorem Sound.execResetReqN {lowUs : Nat} (hs : Sound cmds asked s) : SoundOut cmds asked (Machine.execResetReqN lowUs s) :=
  (Sound.ite hs hs.holdReset).next
theorem Sound.execBothStewardsLoss (hs : Sound cmds asked s) : SoundOut cmds asked (Machine.execBothStewardsLoss s) :=
  (Sound.ite hs hs.holdReset).next
theorem Sound.powerRefused {reason : Nat}
    (hs : Sound cmds asked s) : Sound cmds asked (Machine.powerRefused s reason) := hs.stwEvent
theorem Sound.diaPause {h : Nat} (hs : Sound cmds asked s) : Sound cmds asked (Machine.diaPause s h) := by
  unfold Machine.diaPause
  split
  · exact hs
  · exact Sound.ite hs hs.setReq.logPause
theorem Sound.setDiaPaused {on : Bool}
    (hs : Sound cmds asked s) : Sound cmds asked (Machine.setDiaPaused s on) := hs.congr rfl rfl rfl rfl
theorem Sound.diaHeliostat {d : Nat} (hs : Sound cmds asked s) : Sound cmds asked (Machine.diaHeliostat s d) := by
  unfold Machine.diaHeliostat
  extract_lets s1
  have h1 : Sound cmds asked s1 := Sound.ite hs.sendHello hs
  exact Sound.ite h1 h1.hlGoDown
theorem Sound.wakePort {n : Nat} (hs : Sound cmds asked s) : Sound cmds asked (Machine.wakePort s n) := by
  unfold Machine.wakePort
  refine Sound.ite ?_ ?_
  · exact hs
  · extract_lets _ s1 s2
    have h1 : Sound cmds asked s1 := hs.updWl
    have h2 : Sound cmds asked s2 := h1.foldl (fun _ ht2 => ht2.applyDoorbell)
    exact Sound.ite h2 h2.updWl.wlState.portEvent
theorem Sound.wakeReq {h : Nat} (hs : Sound cmds asked s) : Sound cmds asked (Machine.wakeReq s h) := by
  unfold Machine.wakeReq
  split
  · exact hs
  · exact Sound.ite hs hs.setReq.logPause
theorem Sound.wakeRestarts (hs : Sound cmds asked s) : Sound cmds asked (Machine.wakeRestarts s) := by
  unfold Machine.wakeRestarts
  refine hs.foldl fun _ ht => ?_
  split
  · exact ht.updJob.restartBegin
  · exact ht
theorem Sound.wakeNow {src : Byte} (hs : Sound cmds asked s) : Sound cmds asked (Machine.wakeNow s src) := by
  unfold Machine.wakeNow
  extract_lets s1 s2 s3 s4 s6
  have h1 : Sound cmds asked s1 := hs.updFin
  have h2 : Sound cmds asked s2 := h1.retainVaults
  have h3 : Sound cmds asked s3 := h2.updStw.setDiaPaused
  have h4 : Sound cmds asked s4 := h3.foldl (fun _ ht4 => ht4.wakePort)
  have h6 : Sound cmds asked s6 := (h4.foldl (fun _ ht6 => ht6.wakeReq)).wakeRestarts
  exact h6.finderEvent
theorem Sound.diaEnter (hs : Sound cmds asked s) : Sound cmds asked (Machine.diaEnter s) := by
  unfold Machine.diaEnter
  extract_lets s1 s2 s4 s6
  have h1 : Sound cmds asked s1 := hs.updFin
  have h2 : Sound cmds asked s2 := h1.setDiaPaused.foldl (fun _ ht2 => ht2.diaPause)
  have h4 : Sound cmds asked s4 := h2.foldl (fun _ ht4 => ht4.diaHeliostat)
  have h6 : Sound cmds asked s6 := h4.retainVaults.stwEvent
  split
  · exact h6.wakeNow
  · exact h6
theorem Sound.diaLook (hs : Sound cmds asked s) : Sound cmds asked (Machine.diaLook s) := Sound.ite hs.diaEnter hs
theorem Sound.idle (hs : Sound cmds asked s) : Sound cmds asked (Machine.idle s) :=
  Sound.ite (Sound.diaLook (hs.countThrottled.congr rfl rfl rfl rfl)) hs
theorem Sound.execDiapauseEnter {req : DapReq} (hs : Sound cmds asked s) :
    SoundOut cmds asked (Machine.execDiapauseEnter req s) := by
  unfold Machine.execDiapauseEnter
  refine Sound.next ?_
  refine hs.dapWrite ⟨fun _ ht => ?_⟩
  refine Sound.ite ?_ ?_
  · exact ht
  · split
    · exact ht.powerRefused
    · exact ht.updFin.updStw.diaLook
theorem Sound.wake {src : Byte} (hs : Sound cmds asked s) : Sound cmds asked (Machine.wake s src) :=
  Sound.ite hs.updFin (Sound.ite hs hs.wakeNow)
theorem Sound.execDiapauseWake {src : Option WlPort} {req : DapReq} (hs : Sound cmds asked s) :
    SoundOut cmds asked (Machine.execDiapauseWake src req s) := by
  unfold Machine.execDiapauseWake
  refine Sound.next ?_
  split
  · exact hs.dapWrite ⟨fun _ ht => ht.wake⟩
  · exact Sound.ite hs (Sound.ite hs.doorbellAt.wake hs.doorbellAt)
theorem Sound.execStandbyEnter {req : DapReq} (hs : Sound cmds asked s) :
    SoundOut cmds asked (Machine.execStandbyEnter req s) := by
  unfold Machine.execStandbyEnter
  extract_lets s1 _
  have h1 : Sound cmds asked s1 := hs.dapWrite ⟨fun _ ht1 => (Sound.ite ht1 (ht1.foldl (fun _ ht2 => ht2.endJob)).deliverAll.fallToStandby)⟩
  exact (Sound.ite h1.powerRefused h1).next
theorem Sound.leaveStandby (hs : Sound cmds asked s) : Sound cmds asked (Machine.leaveStandby s) := Sound.ite hs hs.updFin.recordReset
theorem Sound.execStandbyExit {req : Option DapReq} (hs : Sound cmds asked s) :
    SoundOut cmds asked (Machine.execStandbyExit req s) := by
  unfold Machine.execStandbyExit
  refine Sound.next ?_
  split
  · exact hs.dapWrite ⟨fun _ ht => ht.leaveStandby⟩
  · exact Sound.ite hs hs.leaveStandby

/-! Thermal. -/

theorem Sound.compareFlow (hs : Sound cmds asked s) : Sound cmds asked (Machine.compareFlow s) := by
  unfold Machine.compareFlow
  split
  · exact hs.updFin
  · extract_lets _
    exact hs.updFin
theorem Sound.flowReturns (hs : Sound cmds asked s) : Sound cmds asked (Machine.flowReturns s) :=
  Sound.ite hs.finderEvent.updFin.setCoolantIn hs
theorem Sound.execTraySensorRead {inlet outlet : Option (BitVec 16)} (hs : Sound cmds asked s) :
    SoundOut cmds asked (Machine.execTraySensorRead inlet outlet s) := by
  unfold Machine.execTraySensorRead
  extract_lets _ _ _ _ s1 s2 s3
  have h1 : Sound cmds asked s1 := hs.updFin
  have h2 : Sound cmds asked s2 := Sound.ite h1.finderEvent h1
  have h3 : Sound cmds asked s3 := Sound.ite h2.finderEvent h2
  exact (Sound.ite hs h3.compareFlow.setCoolantIn.flowReturns).next
theorem Sound.execFlowPulse {lowUs : Nat} (hs : Sound cmds asked s) : SoundOut cmds asked (Machine.execFlowPulse lowUs s) :=
  (Sound.ite hs hs.updFin.compareFlow.setCoolantIn.flowReturns).next
theorem Sound.execFlowLow (hs : Sound cmds asked s) : SoundOut cmds asked (Machine.execFlowLow s) :=
  (Sound.ite hs hs.finderEvent.updFin.setCoolantIn).next
theorem Sound.execFlowImplausible (hs : Sound cmds asked s) : SoundOut cmds asked (Machine.execFlowImplausible s) := by
  unfold Machine.execFlowImplausible
  refine Sound.next ?_
  split
  · exact Sound.ite hs hs.finderEvent.updFin
  · exact hs
theorem Sound.updHot {d h : Nat} {f : HotSpot → HotSpot} (hs : Sound cmds asked s) :
    Sound cmds asked (Machine.updHot s d h f) := hs.updSite
theorem Sound.episodeEvent {d h : Nat} (hs : Sound cmds asked s) : Sound cmds asked (Machine.episodeEvent s d h) := by
  unfold Machine.episodeEvent
  extract_lets _ _
  exact Sound.ite hs hs.updHot.finderEvent
theorem Sound.setThermReg {d h : Nat} (hs : Sound cmds asked s) : Sound cmds asked (Machine.setThermReg s d h) := by
  unfold Machine.setThermReg
  extract_lets _ _ _ _
  exact Sound.ite hs (Sound.ite hs.setKreg hs.setDreg)
theorem Sound.siteCap {d : Nat} (hs : Sound cmds asked s) : Sound cmds asked (Machine.siteCap s d) := by
  unfold Machine.siteCap
  extract_lets _
  exact hs.swallowCap
theorem Sound.limitSite {d : Nat} (hs : Sound cmds asked s) : Sound cmds asked (Machine.limitSite s d) := by
  unfold Machine.limitSite
  extract_lets _ _ _ _ s1 _
  have h1 : Sound cmds asked s1 := hs.updSite
  exact Sound.ite h1.updSite.finderEvent (Sound.ite h1.updSite h1)
theorem Sound.execHotspotRead {site : SiteId} {h : Fin 20} {a b : Option (BitVec 16)} (hs : Sound cmds asked s) :
    SoundOut cmds asked (Machine.execHotspotRead site h a b s) := by
  unfold Machine.execHotspotRead
  extract_lets _ _ _ s1 s2
  have h1 : Sound cmds asked s1 := hs.updHot.episodeEvent.setThermReg
  have h2 : Sound cmds asked s2 := h1.limitSite.siteCap
  exact (Sound.ite hs (Sound.ite h2 h2.divideOver)).next
theorem Sound.execRthSample (hs : Sound cmds asked s) : SoundOut cmds asked (Machine.execRthSample s) := by
  unfold Machine.execRthSample
  refine Sound.next ?_
  refine Sound.ite ?_ ?_
  · exact hs
  · extract_lets _ _ _ _ s1 s2 s3 _
    have h1 : Sound cmds asked s1 := hs.updFin
    have h2 : Sound cmds asked s2 := h1.updFin
    have h3 : Sound cmds asked s3 := h2.setThermEst.setCoolantIn
    exact Sound.ite h3.divideCap h3
theorem Sound.execAlmanacUpdate (hs : Sound cmds asked s) : SoundOut cmds asked (Machine.execAlmanacUpdate s) :=
  (hs.foldl (fun _ ht => (Sound.ite ht (ht.foldl (fun _ ht1 => ht1.updHot))))).next
theorem Sound.execLthUpdate {cl : ClusterId} (hs : Sound cmds asked s) : SoundOut cmds asked (Machine.execLthUpdate cl s) := by
  unfold Machine.execLthUpdate
  extract_lets _ _ _
  refine Sound.next ?_
  split
  · exact Sound.ite hs hs.updCl.setLocal
  · exact hs
theorem Sound.execThermtrip {site : SiteId} (hs : Sound cmds asked s) : SoundOut cmds asked (Machine.execThermtrip site s) := by
  unfold Machine.execThermtrip
  extract_lets _ _ s1
  have h1 : Sound cmds asked s1 := (Sound.ite hs.endReen hs).updSite
  exact (Sound.ite hs h1.finderEvent.siteLost).next
theorem Sound.execThermtripClear {req : DapReq} {site : Byte} (hs : Sound cmds asked s) :
    SoundOut cmds asked (Machine.execThermtripClear req site s) := by
  unfold Machine.execThermtripClear
  extract_lets _
  exact (hs.dapWrite ⟨fun _ ht => ht.updSite⟩).next
theorem Sound.siteCaps (hs : Sound cmds asked s) : Sound cmds asked (Machine.siteCaps s) := hs.foldl (fun _ ht => ht.siteCap)
theorem Sound.execCoolantStop (hs : Sound cmds asked s) : SoundOut cmds asked (Machine.execCoolantStop s) := by
  unfold Machine.execCoolantStop
  refine Sound.next ?_
  refine Sound.ite ?_ ?_
  · exact hs
  · extract_lets s1 s2 s3 s4
    have h1 : Sound cmds asked s1 := hs.endReen
    have h2 : Sound cmds asked s2 := h1.finderBroadcast.updFin
    have h3 : Sound cmds asked s3 := h2.siteCaps.finderEvent
    have h4 : Sound cmds asked s4 := h3.foldl (fun _ ht4 => ht4.restartBegin)
    exact Sound.ite h1.finderEvent.abortEclosion h4.retainVaults.setCoolantIn
theorem Sound.goCold (hs : Sound cmds asked s) : Sound cmds asked (Machine.goCold s) := hs.updFin.setThermEst
theorem Sound.execCoolantRestored (hs : Sound cmds asked s) : SoundOut cmds asked (Machine.execCoolantRestored s) := by
  unfold Machine.execCoolantRestored
  refine Sound.next ?_
  refine Sound.ite ?_ ?_
  · extract_lets s1 s2
    have h1 : Sound cmds asked s1 := hs.updFin.finderBroadcast
    have h2 : Sound cmds asked s2 := h1.siteCaps.retainVaults
    exact h2.goCold.divideCap.finderEvent.setCoolantIn
  · exact Sound.ite hs.updFin.goCold.holdReset.setCoolantIn hs
theorem Sound.execCoolantPowerdown (hs : Sound cmds asked s) : SoundOut cmds asked (Machine.execCoolantPowerdown s) := by
  unfold Machine.execCoolantPowerdown
  refine Sound.next ?_
  refine Sound.ite ?_ ?_
  · exact hs
  · extract_lets s1 s3
    have h1 : Sound cmds asked s1 := hs.foldl (fun _ ht1 => (Sound.ite ht1.openSite (Sound.ite ht1 ht1.setSiteState)))
    have h3 : Sound cmds asked s3 := h1.updFin
    exact h3.finderEvent.setCoolantIn

/-! A command and a step. -/

theorem Sound.command {i : Instr} (hs : Sound cmds asked s) : SoundOut cmds asked (Machine.exec i s) := by
  cases i with
  | standbyPowerOn => exact hs.execStandbyPowerOn
  | eclosion => exact hs.execEclosion
  | siteGroupEnergise => exact hs.execSiteGroupEnergise
  | firmwareBoot => exact hs.execFirmwareBoot
  | firmwareRetry => exact hs.execFirmwareRetry
  | ccImageLoad => exact hs.execCcImageLoad
  | patternTestDone => exact hs.execPatternTestDone
  | ready => exact hs.execReady
  | epochRecovery => exact hs.execEpochRecovery
  | sequencerIssue => exact hs.execSequencerIssue
  | nop => exact hs.execNop
  | wait => exact hs.execWait
  | signal => exact hs.execSignal
  | fence => exact hs.execFence
  | jump => exact hs.execJump
  | step => exact hs.execStep
  | endCmd => exact hs.execEndCmd
  | stream => exact hs.execStream
  | load => exact hs.execLoad
  | store => exact hs.execStore
  | mma => exact hs.execMma
  | mmaT => exact hs.execMmaT
  | qact => exact hs.execQact
  | qent => exact hs.execQent
  | vop => exact hs.execVop
  | vred => exact hs.execVred
  | vcvt => exact hs.execVcvt
  | vnorm => exact hs.execVnorm
  | rope => exact hs.execRope
  | sweep => exact hs.execSweep
  | hubSweepTake => exact hs.execHubSweepTake
  | sweepService => exact hs.execSweepService
  | sweepResult => exact hs.execSweepResult
  | gate => exact hs.execGate
  | xsel => exact hs.execXsel
  | xnext => exact hs.execXnext
  | xstream => exact hs.execXstream
  | xacc => exact hs.execXacc
  | send => exact hs.execSend
  | read => exact hs.execRead
  | mcast => exact hs.execMcast
  | reduce => exact hs.execReduce
  | signalR => exact hs.execSignalR
  | inl => exact hs.execInl
  | sampleK => exact hs.execSampleK
  | sampleM => exact hs.execSampleM
  | sampleD => exact hs.execSampleD
  | stopchk => exact hs.execStopchk
  | commit => exact hs.execCommit
  | plateFold => exact hs.execPlateFold
  | randC => exact hs.execRandC
  | randH => exact hs.execRandH
  | tread => exact hs.execTread
  | reduceU => exact hs.execReduceU
  | seqRun => exact hs.execSeqRun
  | seqHalt => exact hs.execSeqHalt
  | seqResume => exact hs.execSeqResume
  | grantRelease => exact hs.execGrantRelease
  | engineClockGate => exact hs.execEngineClockGate
  | packetRoute => exact hs.execPacketRoute
  | write => exact hs.execWrite
  | readReq => exact hs.execReadReq
  | readRsp => exact hs.execReadRsp
  | inline => exact hs.execInline
  | mcastForward => exact hs.execMcastForward
  | ackToken => exact hs.execAckToken
  | reduceCombine => exact hs.execReduceCombine
  | linkResync => exact hs.execLinkResync
  | ctrlSignal => exact hs.execCtrlSignal
  | icuDoorbell => exact hs.execIcuDoorbell
  | err => exact hs.execErr
  | regRd => exact hs.execRegRd
  | regWr => exact hs.execRegWr
  | regRsp => exact hs.execRegRsp
  | mgmt => exact hs.execMgmt
  | icuGroupTimeout => exact hs.execIcuGroupTimeout
  | icuClaim => exact hs.execIcuClaim
  | icuSrcWrite => exact hs.execIcuSrcWrite
  | regionStep => exact hs.execRegionStep
  | dupCompare => exact hs.execDupCompare
  | marginRemove => exact hs.execMarginRemove
  | shadowCheckDone => exact hs.execShadowCheckDone
  | shareUpdate => exact hs.execShareUpdate
  | partDef => exact hs.execPartDef
  | siteClearDone => exact hs.execSiteClearDone
  | partitionClearDone => exact hs.execPartitionClearDone
  | jobStart => exact hs.execJobStart
  | jobLoad => exact hs.execJobLoad
  | jobEnd => exact hs.execJobEnd
  | submit => exact hs.execSubmit
  | cancel => exact hs.execCancel
  | mask => exact hs.execMask
  | continueReq => exact hs.execContinueReq
  | release => exact hs.execRelease
  | batch => exact hs.execBatch
  | replay => exact hs.execReplay
  | replayResume => exact hs.execReplayResume
  | admission => exact hs.execAdmission
  | tokenPost => exact hs.execTokenPost
  | park => exact hs.execPark
  | cocoonImport => exact hs.execCocoonImport
  | ttlExpire => exact hs.execTtlExpire
  | draftLoad => exact hs.execDraftLoad
  | draftUnload => exact hs.execDraftUnload
  | specCycle => exact hs.execSpecCycle
  | specProbe => exact hs.execSpecProbe
  | moultStart => exact hs.execMoultStart
  | moultAbort => exact hs.execMoultAbort
  | moultTimeout => exact hs.execMoultTimeout
  | manifestVerify => exact hs.execManifestVerify
  | shardArrive => exact hs.execShardArrive
  | drainSwap => exact hs.execDrainSwap
  | scrubPass => exact hs.execScrubPass
  | chainFence => exact hs.execChainFence
  | instarBatchDone => exact hs.execInstarBatchDone
  | checkpoint => exact hs.execCheckpoint
  | instarExport => exact hs.execInstarExport
  | stepReplay => exact hs.execStepReplay
  | stepWatchdog => exact hs.execStepWatchdog
  | jobRestart => exact hs.execJobRestart
  | requestRestart => exact hs.execRequestRestart
  | unitFenced => exact hs.execUnitFenced
  | unfence => exact hs.execUnfence
  | patrol => exact hs.execPatrol
  | eventRecord => exact hs.execEventRecord
  | binoHello => exact hs.execBinoHello
  | subp => exact hs.execSubp
  | binoTimeout => exact hs.execBinoTimeout
  | meridianUnlock => exact hs.execMeridianUnlock
  | refclkFail => exact hs.execRefclkFail
  | sagWarn => exact hs.execSagWarn
  | sagClear => exact hs.execSagClear
  | sagReset => exact hs.execSagReset
  | overvoltage => exact hs.execOvervoltage
  | inputCollapse => exact hs.execInputCollapse
  | mainInputLoss => exact hs.execMainInputLoss
  | shareDivide => exact hs.execShareDivide
  | siteTrip => exact hs.execSiteTrip
  | reEnergise => exact hs.execReEnergise
  | reenergiseWindowClose => exact hs.execReenergiseWindowClose
  | reenergiseDone => exact hs.execReenergiseDone
  | phaseLost => exact hs.execPhaseLost
  | droopResponse => exact hs.execDroopResponse
  | avsUpdate => exact hs.execAvsUpdate
  | traySensorRead => exact hs.execTraySensorRead
  | flowPulse => exact hs.execFlowPulse
  | hotspotRead => exact hs.execHotspotRead
  | rthSample => exact hs.execRthSample
  | almanacUpdate => exact hs.execAlmanacUpdate
  | lthUpdate => exact hs.execLthUpdate
  | thermtrip => exact hs.execThermtrip
  | thermtripClear => exact hs.execThermtripClear
  | flowLow => exact hs.execFlowLow
  | flowImplausible => exact hs.execFlowImplausible
  | coolantStop => exact hs.execCoolantStop
  | coolantRestored => exact hs.execCoolantRestored
  | coolantPowerdown => exact hs.execCoolantPowerdown
  | resetRelease => exact hs.execResetRelease
  | resetRequestW => exact hs.execResetRequestW
  | resetRequestM => exact hs.execResetRequestM
  | resetReqN => exact hs.execResetReqN
  | diapauseEnter => exact hs.execDiapauseEnter
  | diapauseWake => exact hs.execDiapauseWake
  | standbyEnter => exact hs.execStandbyEnter
  | standbyExit => exact hs.execStandbyExit
  | fwUpdate => exact hs.execFwUpdate
  | coreReload => exact hs.execCoreReload
  | fwUpdateDone => exact hs.execFwUpdateDone
  | stewardHeartbeat => exact hs.execStewardHeartbeat
  | stewardHandover => exact hs.execStewardHandover
  | stewardFailover => exact hs.execStewardFailover
  | dapSegment => exact hs.execDapSegment
  | dapReassemblyTimeout => exact hs.execDapReassemblyTimeout
  | dapOpen => exact hs.execDapOpen
  | dapProve => exact hs.execDapProve
  | dapClose => exact hs.execDapClose
  | dapRead => exact hs.execDapRead
  | dapWrite => exact hs.execDapWrite
  | auditExport => exact hs.execAuditExport
  | auditAck => exact hs.execAuditAck
  | sessionIdleTimeout => exact hs.execSessionIdleTimeout
  | credentialUnlock => exact hs.execCredentialUnlock
  | pathQuarantineEnd => exact hs.execPathQuarantineEnd
  | wlDetect => exact hs.execWlDetect
  | wlTrain => exact hs.execWlTrain
  | wlCapability => exact hs.execWlCapability
  | wlDown => exact hs.execWlDown
  | wlRetrain => exact hs.execWlRetrain
  | wlFlit => exact hs.execWlFlit
  | wlReplayTimeout => exact hs.execWlReplayTimeout
  | wlTapAdapt => exact hs.execWlTapAdapt
  | cpl => exact hs.execCpl
  | mrdTimeout => exact hs.execMrdTimeout
  | wlDoorbell => exact hs.execWlDoorbell
  | stamp => exact hs.execStamp
  | qcreate => exact hs.execQcreate
  | qdelete => exact hs.execQdelete
  | parkArea => exact hs.execParkArea
  | wlQuarantineEnd => exact hs.execWlQuarantineEnd
  | portRelease => exact hs.execPortRelease
  | portHoldExpire => exact hs.execPortHoldExpire
  | hlDetect => exact hs.execHlDetect
  | hlTrain => exact hs.execHlTrain
  | hlHello => exact hs.execHlHello
  | hlDown => exact hs.execHlDown
  | hlRetrain => exact hs.execHlRetrain
  | hlFlit => exact hs.execHlFlit
  | hlReplayTimeout => exact hs.execHlReplayTimeout
  | hopHandoff => exact hs.execHopHandoff
  | hopAck => exact hs.execHopAck
  | hopAckTimeout => exact hs.execHopAckTimeout
  | hlQuarantineEnd => exact hs.execHlQuarantineEnd
  | hlPortRelease => exact hs.execHlPortRelease
  | publisherCert => exact hs.execPublisherCert
  | publisherFp => exact hs.execPublisherFp
  | quoteRequest => exact hs.execQuoteRequest
  | quoteIssued => exact hs.execQuoteIssued
  | makerEpochMin => exact hs.execMakerEpochMin
  | debugUnlock => exact hs.execDebugUnlock
  | debugLock => exact hs.execDebugLock
  | debugDmi => exact hs.execDebugDmi
  | challengeTimeout => exact hs.execChallengeTimeout
  | hlTapAdapt => exact hs.execHlTapAdapt
  | reenergiseSettleTimeout => exact hs.execReenergiseSettleTimeout
  | bothStewardsLoss => exact hs.execBothStewardsLoss
end

/-- Settles O3: the command's state is sound for the commands that waited. -/
theorem commandsLeaveTheQueue : Obligations.CommandsLeaveTheQueue := fun c s t h =>
  (h ▸ Sound.command (i := c) ⟨rfl, False.elim⟩ : SoundOut s.pending False (.next t)).sound.pending

/-- Settles O4: on an empty queue a step is a cycle (log entry 1), else the front command's effect. -/
theorem stepKeepsMemoriesCanonical : Obligations.StepKeepsMemoriesCanonical := by
  intro s t hs h
  unfold step at h
  split at h
  · next e => exact (Host.Outcome.next.inj h ▸ Sound.idle ⟨e, fun _ => hs⟩ : Sound [] True t).canonical trivial
  · next c rest e =>
    exact (h ▸ Sound.command (i := c) ⟨rfl, fun _ => hs.congr rfl rfl rfl⟩ : SoundOut rest True (.next t)).sound.canonical trivial

end Sys2Proof.Machine
end
section
/-! PROOF. Wenlink flits (R522 to R525): what a port's own operations change, its acknowledgements, replays and messages. -/

namespace Sys2Proof.Machine

section
variable {s t u : State} {n : Nat}

/-! What a port changes of the state. -/

theorem onlyPort_refl (s : State) (n : Nat) : onlyPort s s n := ⟨rfl, fun _ _ => rfl, fun _ _ => rfl⟩
theorem onlyPort.trans (h : onlyPort s t n) (g : onlyPort t u n) : onlyPort s u n := by
  obtain ⟨ht, hw, hc⟩ := h
  obtain ⟨hu, gw, gc⟩ := g
  exact ⟨by rw [hu, ht], fun m hm => (gw m hm).trans (hw m hm), fun i hi => (gc i hi).trans (hc i hi)⟩
theorem onlyPort_updWl (s : State) (n : Nat) (f : WlState → WlState) : onlyPort s (updWl s n f) n :=
  ⟨rfl, fun _ h => wlOf_updWl_ne _ _ _ h, fun _ _ => rfl⟩
theorem onlyPort.updWl (h : onlyPort s t n) (f : WlState → WlState) : onlyPort s (updWl t n f) n := h.trans (onlyPort_updWl t n f)
/-- A doorbell of the port's link control core. -/
theorem onlyPort_doorbellAt (s : State) (n src tag : Nat) : onlyPort s (doorbellAt s (linkCc n) src tag) n :=
  ⟨rfl, fun _ _ => rfl, fun _ h => ccOf_updCc_ne _ _ _ h⟩
theorem onlyPort.wlState (h : onlyPort s t n) (st : Nat) : onlyPort s (wlState t n st) n :=
  (h.updWl _).trans (onlyPort_doorbellAt ..)
@[simp] theorem wlOf_doorbellAt (s : State) (i src tag m : Nat) : wlOf (doorbellAt s i src tag) m = wlOf s m := rfl
@[simp] theorem wlOf_wlState (s : State) (n st : Nat) : wlOf (wlState s n st) n = { wlOf s n with st := Fin.ofNat 8 st } := by
  simp [wlState]
@[simp] theorem wlState_events (s : State) (n st : Nat) : (wlState s n st).events = s.events := rfl
@[simp] theorem wlOf_portEvent (s : State) (n code sev m : Nat) (d : Bytes) : wlOf (portEvent s n code sev d) m = wlOf s m := rfl
/-- A port's event joins the events, with its code. -/
theorem raised_portEvent (s : State) (n code sev : Nat) (d : Bytes) : raised s (portEvent s n code sev d) (BitVec.ofNat 16 code) :=
  ⟨_, rfl, _, List.mem_singleton_self _, rfl⟩
theorem raised.of_events {code : BitVec 16} (h : raised s t code) (hs : s.events = u.events) : raised u t code := by
  obtain ⟨es, he, hc⟩ := h
  exact ⟨es, hs ▸ he, hc⟩

/-! Acknowledgements and replays (R523). -/

@[simp] theorem wlAcked_st (w : WlState) (ack : Nat) : (wlAcked w ack).st = w.st := by unfold wlAcked; dsimp only; split <;> rfl
@[simp] theorem wlAcked_rxSeq (w : WlState) (ack : Nat) : (wlAcked w ack).rxSeq = w.rxSeq := by unfold wlAcked; dsimp only; split <;> rfl
@[simp] theorem wlAcked_rx (w : WlState) (ack : Nat) : (wlAcked w ack).rx = w.rx := by unfold wlAcked; dsimp only; split <;> rfl
@[simp] theorem wlAcked_rate (w : WlState) (ack : Nat) : (wlAcked w ack).rate = w.rate := by unfold wlAcked; dsimp only; split <;> rfl

/-- What an acknowledgement leaves is what it does not cover: it frees a flit, or there is none to free. -/
theorem unackedAfter_of_length {α : Type} {ack : Nat} {l : List (BitVec 12 × α)} (h : ¬ (unackedAfter ack l).length < l.length) :
    unackedAfter ack l = l := by
  unfold unackedAfter at h ⊢
  split
  · next i hi =>
    have hlt : i < l.length := (List.findIdx?_eq_some_iff_getElem.mp hi).1
    simp only [hi, List.length_drop] at h
    omega
  · rfl
@[simp] theorem wlAcked_unacked (w : WlState) (ack : Nat) : (wlAcked w ack).unacked = unackedAfter ack w.unacked := by
  unfold wlAcked
  dsimp only
  split
  · rfl
  · next h => exact (unackedAfter_of_length h).symm

/-- A replay is counted, with its time. -/
def replayCounted (s : State) (n : Nat) : State := updWl s n (fun w => { w with
  replays := w.replays + 1, replayTimes := recent s 1 w.replayTimes ++ [s.units]
  err := BitVec.ofNat 64 (bumpField w.err.toNat 31 16 1) })
theorem wlReplay_none (h : (wlOf s n).unacked = []) : wlReplay s n = s := by simp [wlReplay, h]
theorem wlReplay_some (h : (wlOf s n).unacked ≠ []) : wlReplay s n = if (wlOf s n).st = 5 ∧
      (7 ≤ (wlOf s n).replays ∨ 1024 ≤ (recent s 1 (wlOf s n).replayTimes).length)
    then wlRetrainNow (replayCounted s n) n else replayCounted s n := by
  simp [wlReplay, h, replayCounted]

/-- Entry to RETRAIN of a port whose taps are not warm (R520, R523). -/
theorem wlRetrainNow_cold (h : (wlOf s n).tapsWarm = false) :
    wlOf (wlRetrainNow s n) n
        = { wlOf s n with st := 6, err := BitVec.ofNat 64 (bumpField (wlOf s n).err.toNat 15 8 1), replays := 0, replayTimes := [] }
      ∧ raised s (wlRetrainNow s n) 0x7012 := by
  unfold wlRetrainNow
  simp only [h, Bool.not_false, if_true]
  exact ⟨by simp [h], raised_portEvent ..⟩

/-! Messages (R525). -/

/-- What the host has sent in the present millisecond, with a message more. -/
def hostCount (s : State) (w : WlState) : Nat := if w.rate.1 = s.units / (unitsPerSec / 1000) then w.rate.2 + 1 else 1

/-- A message that is not the 65,537th of its millisecond is counted on its port, and nothing else. -/
theorem countMessage_effect (h : hostCount s (wlOf s n) ≠ 65537) : onlyPort s (countMessage s n) n
    ∧ (let v := wlOf (countMessage s n) n; let w := wlOf s n
      v.rx = w.rx ∧ v.rxSeq = w.rxSeq ∧ v.lastAck = w.lastAck ∧ v.st = w.st ∧ v.unacked = w.unacked) := by
  unfold hostCount at h
  simp only [countMessage, ne_eq, h, not_false_iff, if_true]
  exact ⟨onlyPort_updWl .., by simp [wlOf_updWl_self]⟩

/-- The bytes received are looked at in UP alone. -/
theorem takeMessage_config (h : (wlOf s n).st ≠ 5) : takeMessage s n = s := by simp [takeMessage, h]

section
variable (hlen : leAt (wlOf s n).rx 4 4 ≤ 4096)
include hlen

/-- A message of which part is still to come stays among the bytes received. -/
theorem takeMessage_part (h : (wlOf s n).rx.length < alignUp (16 + leAt (wlOf s n).rx 4 4) 248) : takeMessage s n = s := by
  simp [takeMessage, Nat.not_lt.2 hlen, h]
/-- A whole message leaves the bytes received. -/
theorem takeMessage_whole (hst : (wlOf s n).st = 5) (h : alignUp (16 + leAt (wlOf s n).rx 4 4) 248 ≤ (wlOf s n).rx.length) (hok : messageOk (wlOf s n).rx = true) :
    takeMessage s n
      = countMessage (updWl s n (fun w => { w with rx := w.rx.drop (alignUp (16 + leAt (wlOf s n).rx 4 4) 248) })) n := by
  have h248 : ¬ (wlOf s n).rx.length < 248 := by
    have : 248 ≤ alignUp (16 + leAt (wlOf s n).rx 4 4) 248 := by unfold alignUp ceilDiv; omega
    omega
  simp [takeMessage, hst, Nat.not_lt.2 hlen, Nat.not_lt.2 h, h248, hok]
end
end

/-! A flit in order. -/

/-- The port has acknowledged a flit in order, and has its payload when it is UP. -/
def flitTaken (s : State) (n : Nat) (f : Bytes) : State :=
  wlAnswer (updWl (updWl s n (fun w => wlAcked w (flAck f))) n (fun w => { w with
    rxSeq := w.rxSeq + 1, rx := if (wlOf s n).st = 5 then w.rx ++ flPayload f else w.rx })) n false
theorem onlyPort_flitTaken (s : State) (n : Nat) (f : Bytes) : onlyPort s (flitTaken s n f) n := by
  unfold flitTaken wlAnswer
  exact ((onlyPort_updWl ..).updWl _).updWl _
theorem wlOf_flitTaken (s : State) (n : Nat) (f : Bytes) : let w := wlOf s n
    wlOf (flitTaken s n f) n = { wlAcked w (flAck f) with
      rxSeq := w.rxSeq + 1, lastAck := some (false, w.rxSeq), rx := if w.st = 5 then w.rx ++ flPayload f else w.rx } := by
  simp [flitTaken, wlAnswer]

section
variable (n : WlPort) (f : Bytes) (s : State)

theorem exec_wlFlit_up (hl : f.length = 256) (hst : (wlOf s n).st = 4 ∨ (wlOf s n).st = 5) : exec (.wlFlit n f) s = .next (
    if flitCrc f = false then
      wlAnswer (updWl s n (fun w => { w with err := BitVec.ofNat 64 (bumpField w.err.toNat 63 32 1) })) n true
    else if flKind f = 3 then wlReplay (updWl s n (fun w => wlAcked w (flAck f))) n
    else if flKind f ≠ 1 then updWl s n (fun w => wlAcked w (flAck f))
    else if flSeq f ≠ (wlOf s n).rxSeq.toNat then wlAnswer (updWl s n (fun w => wlAcked w (flAck f))) n true
    else takeMessage (flitTaken s n f) n) := by
  have hs : ¬ ((wlOf s n).st ≠ 5 ∧ (wlOf s n).st ≠ 4) := by grind
  simp [exec, execWlFlit, hl, hs, flitTaken]

/-- A flit in order of a port that is UP adds its payload, from which a whole message is taken. -/
theorem wlFlit_payload (hst : (wlOf s n).st = 5) (hlen : leAt ((wlOf s n).rx ++ flPayload f) 4 4 ≤ 4096) :
    let w := wlOf s n
    let rx := w.rx ++ flPayload f
    let used := alignUp (16 + leAt rx 4 4) 248
    let t := takeMessage (flitTaken s n f) n
    (rx.length < used → t = flitTaken s n f)
    ∧ (used ≤ rx.length → messageOk rx = true → (w.rate.1 = s.units / (unitsPerSec / 1000) → w.rate.2 < 65536) →
      onlyPort s t n ∧ (wlOf t n).rx = rx.drop used ∧ (wlOf t n).rxSeq = w.rxSeq + 1
        ∧ (wlOf t n).lastAck = some (false, w.rxSeq) ∧ (wlOf t n).st = 5 ∧ (wlOf t n).unacked = unackedAfter (flAck f) w.unacked) := by
  intro w rx used t
  have hu := wlOf_flitTaken s n f
  have hrx : (wlOf (flitTaken s n f) n).rx = rx := by simp [hu, hst, rx, w]
  have hust : (wlOf (flitTaken s n f) n).st = 5 := by simp [hu, hst]
  refine ⟨fun h => takeMessage_part (hrx ▸ hlen) (hrx ▸ h), fun h hok hrate => ?_⟩
  have ht : t = countMessage (updWl (flitTaken s n f) n (fun w => { w with rx := w.rx.drop used })) n := by
    have hw := takeMessage_whole (s := flitTaken s n f) (n := n) (hrx ▸ hlen) hust (hrx ▸ h) (hrx ▸ hok)
    rw [hrx] at hw
    exact hw
  let v := updWl (flitTaken s n f) n (fun w => { w with rx := w.rx.drop used })
  have hv : wlOf v n = { wlOf (flitTaken s n f) n with rx := rx.drop used } := by simp [v, hrx]
  have hcount : hostCount v (wlOf v n) ≠ 65537 := by
    have hr : (wlOf v n).rate = w.rate := by rw [hv, hu]; exact wlAcked_rate ..
    have hunits : v.units = s.units := rfl
    simp only [hostCount, hr, hunits]
    split
    · next h => have := hrate h; omega
    · decide
  obtain ⟨ho, hrx', hseq, hack, hst', hun⟩ := countMessage_effect hcount
  rw [hv, hu] at hrx' hseq hack hst' hun
  rw [ht]
  exact ⟨((onlyPort_flitTaken s n f).updWl _).trans ho, hrx', hseq, hack, hst'.trans (by simp [hst]), hun.trans (wlAcked_unacked ..)⟩
end

/-- Settles O57: a flit is answered by the branch of its CRC, kind and number (log entries 29, 101). -/
theorem wenlinkFlitsArrive : Obligations.WenlinkFlitsArrive := by
  refine ⟨fun n f s => ?_, fun n s => ?_⟩
  · intro w i
    refine ⟨fun h => ?_, fun h h4 h5 => ?_, fun h hst => ?_⟩
    · simp [i, exec, execWlFlit, h]
    · simp [i, leaves, exec, execWlFlit, h, h4, h5, w]
    have hi := exec_wlFlit_up n f s h hst
    have ho : onlyPort s (updWl s n (fun w => wlAcked w (flAck f))) n := onlyPort_updWl ..
    refine ⟨fun hc => ⟨_, hi, ?_⟩, fun hc hk => ⟨_, hi, ?_⟩, fun hc hk hq => ⟨_, hi, ?_⟩, fun hc hk hq => ?_⟩
    · rw [if_pos hc]
      exact ⟨(onlyPort_updWl ..).updWl _, by simp [wlAnswer, w]⟩
    · rw [if_neg (by simp [hc]), if_neg (by simp [hk]), if_pos (by simp [hk])]
      exact ⟨ho, by simp [w], by simp [w]⟩
    · rw [if_neg (by simp [hc]), if_neg (by simp [hk]), if_neg (by simp [hk]), if_pos hq]
      exact ⟨ho.updWl _, by simp [wlAnswer, w]⟩
    · rw [if_neg (by simp [hc]), if_neg (by simp [hk]), if_neg (by simp [hk]), if_neg (not_not.2 hq)] at hi
      have hu := wlOf_flitTaken s n f
      refine ⟨fun h4 => ⟨_, hi, ?_⟩, fun h5 => ?_⟩
      · rw [takeMessage_config (by simp [hu, show (wlOf s n).st = 4 from h4])]
        refine ⟨onlyPort_flitTaken .., ?_⟩
        simp [hu, show (wlOf s n).st = 4 from h4, w]
      · intro rx hlen used
        obtain ⟨hpart, hwhole⟩ := wlFlit_payload n f s h5 hlen
        refine ⟨fun h => ⟨_, hi, ?_⟩, fun h hok hrate => ⟨_, hi, hwhole h hok hrate⟩⟩
        rw [hpart h]
        refine ⟨onlyPort_flitTaken .., ?_⟩
        simp [hu, show (wlOf s n).st = 5 from h5, w, rx]
  · intro w
    have hi (h : w.st = 4 ∨ w.st = 5) : exec (.wlReplayTimeout n) s = .next (wlReplay s n) := by
      have hs : ¬ ((wlOf s n).st ≠ 5 ∧ (wlOf s n).st ≠ 4) := by grind
      simp [exec, execWlReplayTimeout, hs]
    refine ⟨fun h => ?_, fun hu h => ⟨_, hi (h.imp_right And.left), ?_⟩, fun hu h5 h7 hcold => ⟨_, hi (.inr h5), ?_⟩⟩
    · by_cases hst : w.st = 4 ∨ w.st = 5
      · exact (hi hst).trans (congrArg _ (wlReplay_none (h.resolve_left (by grind))))
      · have hs : (wlOf s n).st ≠ 5 ∧ (wlOf s n).st ≠ 4 := by grind
        simp [leaves, exec, execWlReplayTimeout, hs]
    · rw [wlReplay_some hu, if_neg (by grind)]
      exact ⟨onlyPort_updWl .., by simp [replayCounted, w]⟩
    · rw [wlReplay_some hu, if_pos ⟨h5, .inl h7⟩]
      obtain ⟨hw, he⟩ := wlRetrainNow_cold (s := replayCounted s n) (n := n) (by simpa [replayCounted] using hcold)
      rw [hw]
      exact ⟨rfl, rfl, by simp [replayCounted, w], he.of_events rfl⟩

end Sys2Proof.Machine
end

section
/-! PROOF. States of the Wenlink ports (R519 to R522, R533, R535): the ways in which a port changes its state, and what stands in its
queues when it carries traffic again. -/

namespace Sys2Proof.Machine

section
variable {o s t u : State} {n : Nat} {code : BitVec 16}

/-! Events. -/

theorem raised.later (h : raised s t code) (g : t.events <+: u.events) : raised s u code := by
  obtain ⟨es, he, hc⟩ := h
  obtain ⟨fs, hf⟩ := g
  exact ⟨es ++ fs, by rw [← hf, he, List.append_assoc], hc.imp fun _ h => ⟨List.mem_append_left _ h.1, h.2⟩⟩
theorem raised.after (h : s.events <+: t.events) (g : raised t u code) : raised s u code := by
  obtain ⟨es, he⟩ := h
  obtain ⟨fs, hf, hc⟩ := g
  exact ⟨es ++ fs, by rw [hf, ← he, List.append_assoc], hc.imp fun _ h => ⟨List.mem_append_right _ h.1, h.2⟩⟩
theorem raised.earlier (h : raised s t code) : s.events <+: t.events := by
  obtain ⟨es, he, -⟩ := h
  exact ⟨es, he.symm⟩
theorem events_emit (s : State) (rep : Nat) (e : EventRec) : s.events <+: (emit s rep e).events := List.prefix_append ..
theorem events_portEvent (s : State) (n code sev : Nat) (d : Bytes) : s.events <+: (portEvent s n code sev d).events := events_emit ..

/-! Traffic: what the queues of a port do leaves its link as it is. -/

/-- A port's link: its state, what its partner told of itself, and its violations. -/
def linkPart (w : WlState) : Fin 8 × Fin 4 × Byte × W64 × W64 × Option W64 × NMap W32 :=
  (w.st, w.gen, w.partnerGen, w.bootAddr, w.bootLen, w.lastHostTime, w.viols)
/-- Every port of s has the link that it had in o, and events have only been added. -/
structure Traffic (o s : State) : Prop where
  link : ∀ m, linkPart (wlOf s m) = linkPart (wlOf o m)
  events : o.events <+: s.events
theorem traffic_refl (s : State) : Traffic s s := ⟨fun _ => rfl, List.prefix_refl _⟩
theorem Traffic.congr (hs : Traffic o s) (hw : t.wl = s.wl) (he : t.events = s.events) : Traffic o t :=
  ⟨fun m => by rw [wlOf, hw]; exact hs.link m, he ▸ hs.events⟩
theorem Traffic.ite {c : Prop} [Decidable c] (hs : Traffic o s) (ht : Traffic o t) : Traffic o (if c then s else t) := by
  split
  · exact hs
  · exact ht
theorem Traffic.foldl {α : Type} {f : State → α → State} (hf : ∀ {t : State} (a : α), Traffic o t → Traffic o (f t a)) {l : List α}
    (hs : Traffic o s) : Traffic o (l.foldl f s) := by
  induction l generalizing s with
  | nil => exact hs
  | cons a l ih => exact ih (hf a hs)
theorem Traffic.updWl {f : WlState → WlState} (hs : Traffic o s) (hf : ∀ w, linkPart (f w) = linkPart w := by exact fun _ => rfl) :
    Traffic o (Machine.updWl s n f) := by
  refine ⟨fun m => ?_, hs.events⟩
  rw [wlOf_updWl]
  split
  · next e => rw [hf, ← e, hs.link]
  · exact hs.link m
theorem Traffic.emit {rep : Nat} {e : EventRec} (hs : Traffic o s) : Traffic o (Machine.emit s rep e) :=
  ⟨hs.link, hs.events.trans (events_emit ..)⟩
theorem Traffic.freeBytes {k : Nat} (hs : Traffic o s) : Traffic o (Machine.freeBytes s k).2 := hs.congr rfl rfl
theorem Traffic.setPart {p : Nat} {v : PartState} (hs : Traffic o s) : Traffic o (Machine.setPart s p v) := hs.congr rfl rfl
theorem Traffic.updPart {p : Nat} {f : PartState → PartState} (hs : Traffic o s) :
    Traffic o (Machine.updPart s p f) := hs.setPart
theorem Traffic.setReq {h : Nat} {v : Request} (hs : Traffic o s) : Traffic o (Machine.setReq s h v) := hs.congr rfl rfl
theorem Traffic.stwEvent {code sev : Nat} {p : Option Nat} {req : Option Nat} {detail : Bytes} (hs : Traffic o s) :
    Traffic o (Machine.stwEvent s code sev p req detail) := by
  unfold Machine.stwEvent
  extract_lets _ _
  exact hs.emit
theorem Traffic.wlPost {n : Nat} {m : HostMsg} (hs : Traffic o s) : Traffic o (Machine.wlPost s n m) := hs.updWl
theorem Traffic.hostWrite {n addr : Nat} {b : Bytes} (hs : Traffic o s) : Traffic o (Machine.hostWrite s n addr b) :=
  hs.foldl (fun _ ht => ht.wlPost)
theorem Traffic.queueWrite {q units : Nat} {b : Bytes} (hs : Traffic o s) :
    Traffic o (Machine.queueWrite s q units b) := by
  unfold Machine.queueWrite
  split
  · exact hs
  · extract_lets _ _ s1 s2
    have h1 : Traffic o s1 := hs.hostWrite
    have h2 : Traffic o s2 := h1.hostWrite
    exact h2.updWl
theorem Traffic.logPost {q : Nat} {bs : Bytes} (hs : Traffic o s) : Traffic o (Machine.logPost s q bs) := by
  unfold Machine.logPost
  split
  · exact hs
  · extract_lets _ _ s1
    have h1 : Traffic o s1 := Traffic.ite hs hs.queueWrite
    exact h1.queueWrite
theorem Traffic.logStall {p : Nat} (hs : Traffic o s) : Traffic o (Machine.logStall s p) := Traffic.ite hs hs.updPart.stwEvent
theorem Traffic.logInput {p type flags : Nat} {req index : Option Nat} {payload : Bytes} (hs : Traffic o s) :
    Traffic o (Machine.logInput s p type flags req index payload) := by
  unfold Machine.logInput
  split
  · extract_lets _ s1
    have h1 : Traffic o s1 := hs.updPart
    exact Traffic.ite h1.logPost h1.updPart.logStall
  · exact hs
theorem Traffic.logPause {p h : Nat} (hs : Traffic o s) : Traffic o (Machine.logPause s p h) := by
  unfold Machine.logPause
  split
  · extract_lets _
    exact hs.freeBytes.logInput
  · exact hs
theorem Traffic.logFlush {p q : Nat} : ∀ {l : List Bytes} {s : State}, Traffic o s → Traffic o (Machine.logFlush l s p q)
  | [], _, hs => hs.updPart
  | _ :: _, _, hs => by
    unfold Machine.logFlush
    split
    · exact hs.logPost.logFlush
    · exact hs.updPart
theorem Traffic.flushRecs {n : Nat} : ∀ {l : List (BitVec 16 × Option Nat × Bytes)} {s : State}
    {kept : List (BitVec 16 × Option Nat × Bytes)}, Traffic o s → Traffic o (Machine.flushRecs l s n kept)
  | [], _, _, hs => hs.updWl
  | _ :: _, _, _, hs => by
    unfold Machine.flushRecs
    extract_lets _ s1 s2
    have h1 : Traffic o s1 := hs.queueWrite
    have h2 : Traffic o s2 := by
      simp only [s2]
      split
      · split
        · exact Traffic.ite (h1.congr rfl rfl) h1
        · exact h1
      · exact h1
    split
    · exact h2.flushRecs
    · exact hs.flushRecs
theorem Traffic.flushHeld {n : Nat} (hs : Traffic o s) : Traffic o (Machine.flushHeld s n) := hs.flushRecs
theorem Traffic.queueDrained {q : Nat} (hs : Traffic o s) : Traffic o (Machine.queueDrained s q) := by
  unfold Machine.queueDrained
  refine Traffic.ite ?_ ?_
  · exact hs
  · refine hs.foldl fun _ ht => ?_
    split
    · exact ht
    · extract_lets s2
      have h2 : Traffic o s2 := ht.setReq
      exact h2.logPause
theorem Traffic.queueFreed {q : Nat} (hs : Traffic o s) : Traffic o (Machine.queueFreed s q) := by
  unfold Machine.queueFreed
  split
  · exact hs
  · refine Traffic.ite ?_ ?_
    · exact hs.queueDrained
    · refine Traffic.ite ?_ ?_
      · exact hs.flushHeld
      · refine Traffic.ite ?_ ?_
        · extract_lets _
          refine Traffic.ite ?_ ?_
          · exact hs
          · split
            · exact hs.logFlush
            · exact hs
        · exact hs
theorem Traffic.portBack {n : Nat} (hs : Traffic o s) : Traffic o (Machine.portBack s n) :=
  hs.flushHeld.foldl (fun _ ht => ht.queueFreed)
end

/-! Sessions close. -/

section
variable {s t : State} {n : Nat}

theorem mailImage_frame (s : State) (i : Nat) : mailImage s i = { s with ccs := (mailImage s i).ccs } := by
  unfold mailImage
  split <;> rfl
theorem reloadAll_frame (s : State) : reloadAll s = { s with ccs := (reloadAll s).ccs } :=
  foldl_rel (R := fun s t => t = { s with ccs := t.ccs }) (fun _ => rfl) (fun h g => by rw [g, h]) mailImage_frame _ s
/-- Debug closes: the control cores take their images afresh, and an event says so. -/
theorem closeDebug_frame (s : State) : closeDebug s
      = { s with ccs := (closeDebug s).ccs, sec := (closeDebug s).sec, events := (closeDebug s).events }
    ∧ s.events <+: (closeDebug s).events := by
  unfold closeDebug
  split
  · exact ⟨rfl, List.prefix_refl _⟩
  · have h := reloadAll_frame (updSec s (fun q => { q with debugOpen := false, debugBy := none }))
    generalize reloadAll _ = u at h
    refine ⟨by unfold agentEvent finderEvent raise emit; rw [h]; rfl, ?_⟩
    have he : u.events = s.events := by rw [h]; rfl
    rw [← he]
    exact events_emit ..
/-- What the end of sessions changes. -/
structure Closes (s t : State) (f : Session → Bool) : Prop where
  frame : t = { s with ccs := t.ccs, sec := t.sec, mgmt := t.mgmt, events := t.events }
  sessions : t.mgmt.sessions = s.mgmt.sessions.filter (fun e => !f e)
  events : s.events <+: t.events
theorem closeSessions_effect (s : State) (f : Session → Bool) : Closes s (closeSessions s f) f := by
  unfold closeSessions
  extract_lets debug s1
  split
  · obtain ⟨h, he⟩ := closeDebug_frame s1
    generalize closeDebug s1 = u at h he
    exact ⟨by rw [h]; rfl, by rw [h]; rfl, he⟩
  · exact ⟨rfl, rfl, List.prefix_refl _⟩
/-- The sessions of a Wenlink port. -/
def carriedOn (n : Nat) (e : Session) : Bool := e.path == .wenlink (Fin.ofNat 16 n)
theorem closePort_effect (s : State) (n : Nat) : Closes s (closePort s n) (carriedOn n) := closeSessions_effect ..
theorem Closes.wl {f : Session → Bool} (h : Closes s t f) (m : Nat) : wlOf t m = wlOf s m := by
  obtain ⟨hf, -, -⟩ := h
  rw [wlOf, hf, wlOf]
@[simp] theorem wlOf_closePort (s : State) (n m : Nat) : wlOf (closePort s n) m = wlOf s m := (closePort_effect s n).wl m
theorem events_closePort (s : State) (n : Nat) : s.events <+: (closePort s n).events := (closePort_effect s n).events
theorem Closes.none_left {n : WlPort} (h : Closes s t (carriedOn n)) : ∀ e ∈ t.mgmt.sessions, e.path ≠ .wenlink n := by
  obtain ⟨-, hs, -⟩ := h
  intro e he hp
  rw [hs, List.mem_filter] at he
  simp [carriedOn, hp] at he

/-! DOWN, quarantine, violations, RETRAIN and UP. -/

theorem wlOf_wlGoDown (s : State) (n : Nat) : wlOf (wlGoDown s n) n = { wlLinkReset (wlOf s n) with
    st := 0, tapsWarm := false, updates := 0, partnerGen := 0, bootAddr := 0, bootLen := 0 } := by
  simp only [wlGoDown, wlOf_portEvent, wlOf_closePort, wlOf_wlState, wlOf_updWl_self]
  rfl
theorem wlGoDown_wentDown (s : State) (n : WlPort) : wentDown s (wlGoDown s n) n := by
  have hw := wlOf_wlGoDown s n
  refine ⟨by rw [hw], by rw [hw]; rfl, by rw [hw], by rw [hw]; rfl, (closePort_effect ..).none_left, ?_⟩
  have hr (u : State) : raised u (portEvent (closePort u n) n 0x7011 1 []) 0x7011 :=
    raised.after (events_closePort u n) (raised_portEvent _ n 0x7011 1 [])
  exact (hr _).of_events rfl
/-- Only what a port keeps of its own is asked of the state before. -/
theorem wentDown.of_events {n : WlPort} {u : State} (h : wentDown t u n) (he : s.events <+: t.events) : wentDown s u n := by
  obtain ⟨hst, hl, ht, hu, hm, hr⟩ := h
  exact ⟨hst, hl, ht, hu, hm, hr.after he⟩

theorem wlQuarantine_self (h : (wlOf s n).st = 7) : wlQuarantine s n = s := by rw [wlQuarantine, if_pos h]
theorem wlQuarantine_effect (h : (wlOf s n).st ≠ 7) : let t := wlQuarantine s n
    (wlOf t n).st = 7 ∧ (wlOf t n).queues = [] ∧ (wlOf t n).viols = (wlOf s n).viols ∧ raised s t 0x7021 := by
  have hr (u : State) : raised u (portEvent (closePort u n) n 0x7021 2 []) 0x7021 :=
    raised.after (events_closePort u n) (raised_portEvent _ n 0x7021 2 [])
  simp only [wlQuarantine, if_neg h]
  refine ⟨?_, ?_, ?_, (hr _).of_events rfl⟩ <;> simp [dropQueues, wlLinkReset]
theorem events_wlQuarantine (s : State) (n : Nat) : s.events <+: (wlQuarantine s n).events := by
  by_cases h : (wlOf s n).st = 7
  · rw [wlQuarantine_self h]
  · obtain ⟨-, -, -, hr⟩ := wlQuarantine_effect h
    exact hr.earlier
theorem wlQuarantine_viols (s : State) (n : Nat) : (wlOf (wlQuarantine s n) n).viols = (wlOf s n).viols := by
  by_cases h : (wlOf s n).st = 7
  · rw [wlQuarantine_self h]
  · exact (wlQuarantine_effect h).2.2.1
theorem wlQuarantine_st (s : State) (n : Nat) : (wlOf (wlQuarantine s n) n).st = 7 := by
  by_cases h : (wlOf s n).st = 7
  · rw [wlQuarantine_self h, h]
  · exact (wlQuarantine_effect h).1

theorem wlCount_counted (s : State) (n k : Nat) : wlCounted s (wlCount s n k) n k := by
  simp [wlCounted, wlCount]
theorem wlCounted.viols {k : Nat} {u : State} (h : wlCounted s t n k) (hv : (wlOf u n).viols = (wlOf t n).viols) : wlCounted s u n k := by
  unfold wlCounted at h ⊢
  rw [hv, h]
/-- A port whose violation has been counted and reported. -/
def violationSeen (s : State) (n k : Nat) (event : Bool) : State :=
  let t := doorbellAt (updWl (wlCount s n k) n (fun w => { w with violTimes := wlWindow s n ++ [s.units] })) (linkCc n) 0x046 k
  if event then portEvent t n 0x7020 1 [] else t
theorem wlViolation_eq (s : State) (n k : Nat) (event : Bool) : wlViolation s n k event
    = if obj (violationSeen s n k event) 0x4D00 2 ≤ (wlWindow s n ++ [s.units]).length then wlQuarantine (violationSeen s n k event) n
      else violationSeen s n k event := rfl
theorem wlOf_violationSeen (s : State) (n k : Nat) (event : Bool) :
    wlOf (violationSeen s n k event) n = { wlOf (wlCount s n k) n with violTimes := wlWindow s n ++ [s.units] } := by
  cases event <;> simp [violationSeen]
theorem raised_violationSeen (s : State) (n k : Nat) : raised s (violationSeen s n k true) 0x7020 :=
  (raised_portEvent _ n 0x7020 1 []).of_events rfl
/-- A violation is counted, is reported where the table says so, and leaves the port's state or ends in quarantine. -/
theorem wlViolation_effect (s : State) (n k : Nat) (event : Bool) : let t := wlViolation s n k event
    wlCounted s t n k ∧ ((wlOf t n).st = (wlOf s n).st ∨ (wlOf t n).st = 7) ∧ (event = true → raised s t 0x7020) := by
  have hw := wlOf_violationSeen s n k event
  have hc : wlCounted s (violationSeen s n k event) n k := (wlCount_counted s n k).viols (by rw [hw])
  have hst : (wlOf (violationSeen s n k event) n).st = (wlOf s n).st := by simp [hw, wlCount]
  have hr : event = true → raised s (violationSeen s n k event) 0x7020 := fun h => h ▸ raised_violationSeen s n k
  rw [wlViolation_eq]
  split
  · exact ⟨hc.viols (wlQuarantine_viols ..), .inr (wlQuarantine_st ..), fun h => (hr h).later (events_wlQuarantine ..)⟩
  · exact ⟨hc, .inl hst, hr⟩

/-- A port that has entered RETRAIN, and one whose RETRAIN has been counted as a violation. -/
def retraining (s : State) (n : Nat) : State :=
  portEvent (wlState (updWl s n fun w => { w with
    err := BitVec.ofNat 64 (bumpField w.err.toNat 15 8 1), replays := 0, replayTimes := [] }) n 6) n 0x7012 0 []
def retrainCounted (s : State) (n : Nat) : State :=
  doorbellAt (updWl (wlCount s n 7) n fun w => { w with retrainTimes := recent s 60 (wlOf s n).retrainTimes ++ [s.units] }) (linkCc n) 0x046 7
theorem wlRetrainNow_eq (h : (wlOf s n).tapsWarm = true) : wlRetrainNow s n = let t := retrainCounted (retraining s n) n
    if 3 ≤ (recent (retraining s n) 60 (wlOf (retraining s n) n).retrainTimes ++ [s.units]).length then wlQuarantine t n else t := by
  simp only [wlRetrainNow, h]
  rfl
theorem wlOf_retraining (s : State) (n : Nat) : wlOf (retraining s n) n = { wlOf s n with
    st := 6, err := BitVec.ofNat 64 (bumpField (wlOf s n).err.toNat 15 8 1), replays := 0, replayTimes := [] } := by
  simp [retraining]
theorem raised_retraining (s : State) (n : Nat) : raised s (retraining s n) 0x7012 :=
  (raised_portEvent _ n 0x7012 0 []).of_events rfl
theorem wlOf_retrainCounted (s : State) (n : Nat) : wlOf (retrainCounted s n) n
    = { wlOf (wlCount s n 7) n with retrainTimes := recent s 60 (wlOf s n).retrainTimes ++ [s.units] } := by
  simp [retrainCounted]
theorem retrainCounted_counted (h : (wlOf s n).viols = (wlOf t n).viols) : wlCounted t (retrainCounted s n) n 7 := by
  simp [wlCounted, wlOf_retrainCounted, wlCount, h]
/-- Entry to RETRAIN with WARM taps counts, and the third in a minute is a quarantine. -/
theorem wlRetrainNow_warm (h : (wlOf s n).tapsWarm = true) : let t := wlRetrainNow s n
    wlCounted s t n 7 ∧ raised s t 0x7012 ∧ ((recent s 60 (wlOf s n).retrainTimes).length < 2 → (wlOf t n).st = 6)
      ∧ (2 ≤ (recent s 60 (wlOf s n).retrainTimes).length → (wlOf t n).st = 7 ∧ (wlOf t n).queues = [] ∧ raised s t 0x7021) := by
  have hw := wlOf_retraining s n
  have hlen : (recent (retraining s n) 60 (wlOf (retraining s n) n).retrainTimes ++ [s.units]).length
      = (recent s 60 (wlOf s n).retrainTimes).length + 1 := by
    rw [hw, List.length_append]
    rfl
  have hc : wlCounted s (retrainCounted (retraining s n) n) n 7 := retrainCounted_counted (by rw [hw])
  have hst : (wlOf (retrainCounted (retraining s n) n) n).st = 6 := by
    rw [wlOf_retrainCounted]
    simp [wlCount, hw]
  have hr : raised s (retrainCounted (retraining s n) n) 0x7012 := (raised_retraining s n).later (List.prefix_refl _)
  rw [wlRetrainNow_eq h, hlen]
  dsimp only
  split
  · have h7 : (wlOf (retrainCounted (retraining s n) n) n).st ≠ 7 := by rw [hst]; decide
    obtain ⟨q, hq, hv, hqr⟩ := wlQuarantine_effect h7
    refine ⟨hc.viols hv, hr.later (events_wlQuarantine ..), fun hlt => by omega, fun _ => ⟨q, hq, hqr.after hr.earlier⟩⟩
  · exact ⟨hc, hr, fun _ => hst, fun h2 => by omega⟩

/-- Entry to UP: the port is UP, keeps the rest of its link, and an event says so. -/
theorem wlUp_effect (s : State) (n : Nat) : linkPart (wlOf (wlUp s n) n) = linkPart { wlOf s n with st := 5 } ∧ raised s (wlUp s n) 0x7010 := by
  have ht : Traffic (portEvent (wlState s n 5) n 0x7010 0 []) (wlUp s n) := (traffic_refl _).portBack
  refine ⟨(ht.link n).trans (by simp), raised.later ?_ ht.events⟩
  exact (raised_portEvent (wlState s n 5) n 0x7010 0 []).of_events rfl
end

end Sys2Proof.Machine
end

section
/-! PROOF. The commands of the Wenlink port states, and PORT_RELEASE. -/

namespace Sys2Proof.Machine

section
variable {s t : State} {n : WlPort}

theorem leAt_lt (b : Bytes) (off n : Nat) : leAt b off n < 256 ^ n :=
  lt_of_lt_of_le (leNat_lt _) (Nat.pow_le_pow_right (by decide) (List.length_take_le ..))

theorem trainGen_updWl {m : Nat} {f : WlState → WlState} (h : ∀ w, (f w).partnerGen = w.partnerGen) :
    trainGen (updWl s m f) m = trainGen s m := by
  simp only [trainGen, wlOf_updWl_self, h]
  rfl
@[simp] theorem trainGen_wlState (s : State) (m st : Nat) : trainGen (wlState s m st) m = trainGen s m := by
  simp only [trainGen, wlOf_wlState]
  rfl
/-- WL_DETECT of a live port that does not carry a link yet: the port is present, and trains where it has four lanes. -/
theorem wlDetect_present {lanes : Byte} (ha : portAlive s n = true) (hst : (wlOf s n).st.val < 2) :
    (laneCount lanes < 4 → answers (.wlDetect n lanes) s (fun t => onlyPort s t n ∧ wlOf t n = { wlOf s n with present := true }))
    ∧ (4 ≤ laneCount lanes → answers (.wlDetect n lanes) s (fun t => onlyPort s t n ∧ wlOf t n
      = { wlOf s n with present := true, st := 2, gen := Fin.ofNat 4 (trainGen s n), failures := 0 })) := by
  have hno : (!portAlive s n || decide (2 ≤ (wlOf s n).st.val)) = false := by simp [ha]; omega
  refine ⟨fun hl => ⟨_, rfl, ?_⟩, fun hl => ⟨_, rfl, ?_⟩⟩ <;> simp only [hno]
  · rw [if_neg (by decide), if_pos hl]
    exact ⟨onlyPort_updWl .., by simp⟩
  · rw [if_neg (by decide), if_neg (by omega)]
    split
    · exact ⟨(((onlyPort_updWl ..).wlState 1).updWl _).wlState 2, by simp [trainGen_updWl]⟩
    · exact ⟨((onlyPort_updWl ..).updWl _).wlState 2, by simp [trainGen_updWl]⟩

/-- WL_TRAIN that locks brings the port to CONFIG, on all lanes or on the low four, where an event says so. -/
theorem wlTrain_locked {lanes : Byte} (hst : (wlOf s n).st = 2 ∨ (wlOf s n).st = 3) (hl : 4 ≤ laneCount lanes) :
    answers (.wlTrain n (.locked lanes)) s (fun t => wlOf t n = { wlOf s n with
          st := 4, lanes := if lanes = 0xFF then 0xFF else 0x0F, failures := 0, unacked := [(0, sliceB (ownCapability s n) 0 248)],
          txSeq := 1, rxSeq := 0, rx := [], lastAck := none }
      ∧ (lanes = 0xFF → onlyPort s t n) ∧ (lanes ≠ 0xFF → raised s t 0x7013)) := by
  have hno : ((wlOf s n).st ≠ 2 && (wlOf s n).st ≠ 3) = false := by rcases hst with h | h <;> simp [h]
  refine ⟨_, rfl, ?_⟩
  simp only [hno]
  rw [if_neg (by decide), if_neg (by omega)]
  have hfull : (if lanes == 0xFF#8 then (0xFF : Byte) else 0x0F) = if lanes = 0xFF then 0xFF else 0x0F := by simp
  rw [hfull]
  by_cases hl : lanes = 0xFF
  · rw [if_pos (by simp [hl])]
    split
    · refine ⟨?_, fun _ => (((onlyPort_refl s n).wlState 3).updWl _).wlState 4, fun h => absurd hl h⟩
      simp
      rfl
    · refine ⟨?_, fun _ => ((onlyPort_refl s n).updWl _).wlState 4, fun h => absurd hl h⟩
      simp
  · rw [if_neg (by simpa using hl)]
    refine ⟨?_, fun h => absurd h hl, fun _ => ?_⟩
    · split
      · simp
        rfl
      · simp
    · refine (raised_portEvent _ n 0x7013 1 []).of_events ?_
      split <;> rfl

/-- WL_TRAIN that fails trains again, the second time a generation lower. -/
theorem wlTrain_failed (hst : (wlOf s n).st = 2 ∨ (wlOf s n).st = 3) (hg : 2 ≤ (wlOf s n).gen.val) :
    answers (.wlTrain n .failed) s (fun t => onlyPort s t n ∧ wlOf t n = { wlOf s n with
      st := 2, gen := if (wlOf s n).failures = 0 then (wlOf s n).gen else Fin.ofNat 4 ((wlOf s n).gen.val - 1)
      failures := if (wlOf s n).failures = 0 then 1 else 0 }) := by
  have hno : ((wlOf s n).st ≠ 2 && (wlOf s n).st ≠ 3) = false := by rcases hst with h | h <;> simp [h]
  refine ⟨_, rfl, ?_⟩
  simp only [hno]
  rw [if_neg (by decide), if_neg (by omega)]
  exact ⟨(onlyPort_updWl ..).wlState 2, by simp⟩

theorem wlTrain_down {obs : TrainObs} (hst : (wlOf s n).st = 2 ∨ (wlOf s n).st = 3)
    (h : (∃ lanes, obs = .locked lanes ∧ laneCount lanes < 4) ∨ obs = .failed ∧ (wlOf s n).gen.val ≤ 1) :
    answers (.wlTrain n obs) s (fun t => wentDown s t n) := by
  have hno : ((wlOf s n).st ≠ 2 && (wlOf s n).st ≠ 3) = false := by rcases hst with h | h <;> simp [h]
  refine ⟨wlGoDown s n, ?_, wlGoDown_wentDown s n⟩
  change Host.Outcome.next (if _ then _ else _) = _
  rw [if_neg (by rw [hno]; decide)]
  rcases h with ⟨lanes, rfl, hl⟩ | ⟨rfl, hg⟩
  · simp only [if_pos hl]
  · simp only [if_pos hg]

/-- WL_CAPABILITY with a block that is not of the form (R521) is a violation. -/
theorem wlCapability_bad {b : Bytes} (hst : (wlOf s n).st = 4) (hb : capabilityOk b = false) : answers (.wlCapability n b) s (fun t =>
    wlCounted s t n 0 ∧ ((wlOf t n).st = 1 ∨ (wlOf t n).st = 7) ∧ raised s t 0x7020) := by
  refine ⟨_, rfl, ?_⟩
  simp only [hst, hb]
  obtain ⟨hc, h7, hr⟩ := wlViolation_effect (wlState (updWl s n wlLinkReset) n 1) n 0 true
  refine ⟨?_, h7.imp_left (fun h => h.trans (by simp; rfl)), (hr rfl).of_events rfl⟩
  unfold wlCounted at hc ⊢
  simpa [wlLinkReset] using hc

theorem noteHostTime_kept {m : Nat} {x : W64} (h : timeKept s m x) :
    noteHostTime s m x = noteHostTime.pairTime (updWl s m (fun w => { w with lastHostTime := some x })) x := by
  unfold noteHostTime
  split
  · next old e => rw [if_neg (Nat.not_lt.2 (h old e))]
  · rfl
@[simp] theorem wlOf_pairTime (s : State) (x : W64) (m : Nat) : wlOf (noteHostTime.pairTime s x) m = wlOf s m := by
  unfold noteHostTime.pairTime
  split <;> rfl
@[simp] theorem pairTime_events (s : State) (x : W64) : (noteHostTime.pairTime s x).events = s.events := by
  unfold noteHostTime.pairTime
  split <;> rfl

/-- WL_CAPABILITY with a good block: what the partner tells stands in the port, which is UP. -/
theorem wlCapability_good {b : Bytes} (hst : (wlOf s n).st = 4) (hb : capabilityOk b = true)
    (ht : timeKept s n (BitVec.ofNat 64 (leAt b 0x20 8))) : answers (.wlCapability n b) s (fun t =>
        (wlOf t n).st = 5 ∧ (wlOf t n).partnerGen.toNat = byteAt b 5 ∧ (wlOf t n).bootAddr.toNat = leAt b 0x10 8
        ∧ (wlOf t n).bootLen.toNat = leAt b 0x18 8 ∧ (wlOf t n).gen.val = min (wlOf s n).gen.val (byteAt b 5)
        ∧ (wlOf t n).lastHostTime = some (BitVec.ofNat 64 (leAt b 0x20 8)) ∧ raised s t 0x7010) := by
  refine ⟨_, rfl, ?_⟩
  simp only [hst, hb]
  rw [if_neg (by decide), if_neg (by decide), noteHostTime_kept (by simpa [timeKept] using ht)]
  generalize hx : noteHostTime.pairTime _ _ = u
  have hu : wlOf u n = { wlOf s n with
      partnerGen := BitVec.ofNat 8 (byteAt b 5), bootAddr := BitVec.ofNat 64 (leAt b 0x10 8)
      bootLen := BitVec.ofNat 64 (leAt b 0x18 8), gen := Fin.ofNat 4 (min (wlOf s n).gen.val (byteAt b 5))
      lastHostTime := some (BitVec.ofNat 64 (leAt b 0x20 8)) } := by
    rw [← hx]
    simp
  have he : u.events = s.events := by rw [← hx, pairTime_events]; rfl
  rw [if_neg (by simp [hu, hst])]
  obtain ⟨hlink, hr⟩ := wlUp_effect u n
  rw [hu] at hlink
  simp only [linkPart, Prod.mk.injEq] at hlink
  obtain ⟨h5, hgen, hpg, ha, hlen, hlast, -⟩ := hlink
  have h3 : byteAt b 5 ≤ 3 := by simp [capabilityOk] at hb; omega
  refine ⟨h5, ?_, ?_, ?_, ?_, hlast, hr.of_events he⟩
  · rw [hpg, BitVec.toNat_ofNat, Nat.mod_eq_of_lt (by omega)]
  · rw [ha, BitVec.toNat_ofNat, Nat.mod_eq_of_lt ((leAt_lt b _ 8).trans_eq (by norm_num))]
  · rw [hlen, BitVec.toNat_ofNat, Nat.mod_eq_of_lt ((leAt_lt b _ 8).trans_eq (by norm_num))]
  · rw [hgen, Fin.val_ofNat, Nat.mod_eq_of_lt (by omega)]

/-- A port without a partner. -/
def absent (s : State) (m : Nat) : State := if (wlOf s m).present then updWl s m (fun w => { w with present := false }) else s
theorem exec_wlDown (n : WlPort) (s : State) : exec (.wlDown n) s = .next (let t := absent s n
    if (wlOf t n).st = 0 || (wlOf t n).st = 7 then t else wlGoDown t n) := rfl
theorem absent_effect (s : State) (m : Nat) : onlyPort s (absent s m) m ∧ wlOf (absent s m) m = { wlOf s m with present := false } := by
  unfold absent
  split
  · exact ⟨onlyPort_updWl .., by simp⟩
  · next h =>
    refine ⟨onlyPort_refl .., ?_⟩
    rw [← Bool.eq_false_iff.2 h]
theorem wlDown_down (h0 : (wlOf s n).st ≠ 0) (h7 : (wlOf s n).st ≠ 7) :
    answers (.wlDown n) s (fun t => wentDown s t n ∧ (wlOf t n).present = false) := by
  obtain ⟨ho, hw⟩ := absent_effect s n
  refine ⟨_, exec_wlDown n s, ?_⟩
  rw [if_neg (by simp [hw, h0, h7])]
  refine ⟨(wlGoDown_wentDown _ n).of_events ?_, by rw [wlOf_wlGoDown, hw]; rfl⟩
  obtain ⟨he, -⟩ := ho
  rw [he]
theorem wlDown_stays (h : (wlOf s n).st = 0 ∨ (wlOf s n).st = 7) :
    answers (.wlDown n) s (fun t => onlyPort s t n ∧ wlOf t n = { wlOf s n with present := false }) := by
  obtain ⟨ho, hw⟩ := absent_effect s n
  refine ⟨_, exec_wlDown n s, ?_⟩
  rw [if_pos (by simpa [hw] using h)]
  exact ⟨ho, hw⟩

/-- How a retrain of a port ends that is in RETRAIN. -/
def retrainOutcome (s t : State) (n : WlPort) (good : Bool) : Prop :=
  (good = true → (wlOf t n).st = 5 ∧ raised s t 0x7010) ∧ (good = false → wentDown s t n)
theorem retrainEnds_effect {good : Bool} (h : (wlOf s n).st = 6) : retrainOutcome s (retrainEnds s n good) n good := by
  unfold retrainEnds
  rw [if_neg (by simp [h])]
  refine ⟨fun hg => ?_, fun hg => ?_⟩ <;> subst hg
  · obtain ⟨hl, hr⟩ := wlUp_effect s n
    exact ⟨congrArg Prod.fst hl, hr⟩
  · exact wlGoDown_wentDown s n
theorem retrainOutcome.of_events {good : Bool} {u : State} (h : retrainOutcome t u n good) (he : s.events <+: t.events) :
    retrainOutcome s u n good := by
  obtain ⟨hup, hdown⟩ := h
  exact ⟨fun hg => (hup hg).imp_right (·.after he), fun hg => (hdown hg).of_events he⟩

theorem retrainEnds_viols {good : Bool} (h : (wlOf s n).st = 6) : (wlOf (retrainEnds s n good) n).viols = (wlOf s n).viols := by
  unfold retrainEnds
  rw [if_neg (by simp [h])]
  cases good with
  | true => exact congrArg (fun l => l.2.2.2.2.2.2) (wlUp_effect s n).1
  | false =>
    rw [if_neg (by decide), wlOf_wlGoDown]
    rfl
theorem retrainOutcome.earlier {good : Bool} (h : retrainOutcome s t n good) : s.events <+: t.events := by
  obtain ⟨hup, hdown⟩ := h
  cases good with
  | true => exact (hup rfl).2.earlier
  | false =>
    obtain ⟨-, -, -, -, -, hr⟩ := hdown rfl
    exact hr.earlier
/-- WL_RETRAIN of a port that is UP enters RETRAIN, and ends at once where the taps are not WARM or few retrains came before. -/
theorem wlRetrain_ends {good : Bool} (hst : (wlOf s n).st = 5)
    (hw : (wlOf s n).tapsWarm = false ∨ (recent s 60 (wlOf s n).retrainTimes).length < 2) :
    answers (.wlRetrain n good) s (fun t => retrainOutcome s t n good ∧ raised s t 0x7012
      ∧ ((wlOf s n).tapsWarm = true → wlCounted s t n 7)) := by
  have hnow : (wlOf (wlRetrainNow s n) n).st = 6 ∧ raised s (wlRetrainNow s n) 0x7012
      ∧ ((wlOf s n).tapsWarm = true → wlCounted s (wlRetrainNow s n) n 7) := by
    cases hwarm : (wlOf s n).tapsWarm with
    | true =>
      obtain ⟨hc, hr, h6, -⟩ := wlRetrainNow_warm hwarm
      exact ⟨h6 (by simpa [hwarm] using hw), hr, fun _ => hc⟩
    | false =>
      obtain ⟨h6, hr⟩ := wlRetrainNow_cold hwarm
      exact ⟨by rw [h6], hr, by simp⟩
  obtain ⟨h6, hr, hc⟩ := hnow
  have ho := retrainEnds_effect (good := good) h6
  refine ⟨_, rfl, ?_⟩
  rw [if_pos hst]
  exact ⟨ho.of_events hr.earlier, hr.later ho.earlier, fun h => (hc h).viols (retrainEnds_viols h6)⟩
theorem wlRetrain_quarantined {good : Bool} (hst : (wlOf s n).st = 5) (hw : (wlOf s n).tapsWarm = true)
    (hl : 2 ≤ (recent s 60 (wlOf s n).retrainTimes).length) :
    answers (.wlRetrain n good) s (fun t => (wlOf t n).st = 7
      ∧ (wlOf t n).queues = [] ∧ wlCounted s t n 7 ∧ raised s t 0x7012 ∧ raised s t 0x7021) := by
  refine ⟨_, rfl, ?_⟩
  obtain ⟨hc, hr, -, h2⟩ := wlRetrainNow_warm hw
  obtain ⟨h7, hq, hr7⟩ := h2 hl
  rw [if_pos hst, retrainEnds, if_pos (by rw [h7]; decide)]
  exact ⟨h7, hq, hc, hr, hr7⟩

/-- PORT_RELEASE takes a port out of quarantine. -/
theorem portRelease_writes {req : DapReq} {port : Byte} {se : Session} (hw : canWrite s req 0x4D00 5 [port] se) :
    writes (.portRelease req port) s req 0x4D00 5 [port] se (fun w t =>
      (15 < port.toNat → answered t req stRange [] ∧ t.wl = s.wl)
      ∧ (port.toNat ≤ 15 → (wlOf s port.toNat).st = 7 → onlyPort w t port.toNat
        ∧ wlOf t port.toNat = { wlOf s port.toNat with st := 1, held := false })
      ∧ (port.toNat ≤ 15 → (wlOf s port.toNat).st ≠ 7 → t = w)) := by
  have hb : leBytes 1 port.toNat = [port] := by
    simp [leBytes, Nat.mod_eq_of_lt port.isLt]
  have hi : exec (.portRelease req port) s = .next (dapWrite s req 0x4D00 5 [port]
      (fun _ _ => if 15 < port.toNat then stRange else stOk)
      (fun _ s => if (wlOf s port.toNat).st ≠ 7 then s else wlLeaveQuarantine s port.toNat)) := by
    rw [← hb]
    rfl
  have hg : wlOf (granted s req 0x4D00 5 [port] se) port.toNat = wlOf s port.toNat := by
    obtain ⟨h, -⟩ := granted_effect hw
    rw [wlOf, h, wlOf]
  refine writes_of hw hi (fun hok => ?_) ?_ fun st t hst hne ha hans => ?_
  · have hr : ¬ 15 < port.toNat := fun h => absurd hok (by rw [if_pos h]; decide)
    refine ⟨fun h => absurd h hr, fun _ h7 => ?_, fun _ h7 => ?_⟩
    · rw [if_neg (by rw [hg]; simpa using h7)]
      exact ⟨(onlyPort_updWl ..).wlState 1, by simp [wlLeaveQuarantine, hg]; rfl⟩
    · rw [if_pos (by rw [hg]; exact h7)]
  · split <;> decide
  · have hr : 15 < port.toNat := by
      by_contra h
      exact hne (hst ▸ if_neg h)
    rw [if_pos hr] at hst
    exact ⟨fun _ => ⟨hst ▸ hans, by rw [ha]⟩, fun h => absurd h (by omega), fun h => absurd h (by omega)⟩

end

/-- Settles O56: the port's states command by command. -/
theorem wenlinkPortsChangeState : Obligations.WenlinkPortsChangeState := by
  unfold Obligations.WenlinkPortsChangeState
  refine ⟨fun n lanes s => ⟨fun h => ?_, fun ha hst => wlDetect_present ha hst⟩, fun n obs s => ⟨fun h2 h3 => ?_, fun hst => ?_⟩,
    fun n b s => ⟨fun h => ?_, fun h => ⟨wlCapability_bad h, wlCapability_good h⟩⟩, fun n s => ?_, fun n good s => ?_,
    fun req port se s hw => portRelease_writes hw⟩
  · exact congrArg Host.Outcome.next (if_pos (by rcases h with h | h <;> simp [h]))
  · exact congrArg Host.Outcome.next (if_pos (by simp [h2, h3]))
  · refine ⟨fun lanes ho hl => ho ▸ wlTrain_locked hst hl, fun lanes ho hl => wlTrain_down hst (.inl ⟨lanes, ho, hl⟩),
      fun ho hg => wlTrain_down hst (.inr ⟨ho, hg⟩), fun ho hg => ho ▸ wlTrain_failed hst hg⟩
  · exact congrArg Host.Outcome.next (if_pos h)
  · refine ⟨wlDown_stays, wlDown_down, fun h => ?_, fun h5 ht => ⟨_, rfl, ?_⟩, fun h => ?_, fun h7 hh => ⟨_, rfl, ?_⟩, fun h => ?_,
      fun h0 => ⟨_, rfl, ?_⟩⟩
    · exact congrArg Host.Outcome.next (if_pos (by rcases h with h | h <;> simp [h]))
    · rw [if_neg (by simp [h5, ht])]
      exact ⟨onlyPort_updWl .., by simp⟩
    · exact congrArg Host.Outcome.next (if_pos (by rcases h with h | h <;> simp [h]))
    · rw [if_neg (by simp [h7, hh])]
      exact ⟨(onlyPort_updWl ..).wlState 1, by simp [wlLeaveQuarantine, hh]; rfl⟩
    · exact congrArg Host.Outcome.next (if_pos h)
    · rw [if_neg (by simp [h0])]
      exact ⟨onlyPort_updWl .., by simp [dropQueues]⟩
  · intro w i ends
    refine ⟨fun h5 h6 => ?_, fun h6 => ⟨_, rfl, ?_⟩, fun h5 hw => ?_, fun h5 hw hl => wlRetrain_quarantined h5 hw hl⟩
    · refine congrArg Host.Outcome.next ?_
      rw [if_neg h5, retrainEnds, if_pos h6]
    · rw [if_neg (by rw [h6]; decide)]
      exact retrainEnds_effect h6
    · exact wlRetrain_ends h5 hw

end Sys2Proof.Machine
end

section
/-! PROOF. What stays while a job ends, restarts, freezes or replays, and while a unit is fenced or a link is lost: the module's time,
objects and supply, the sites with the state of their ports, and every event raised before. -/

namespace Sys2Proof.Machine

/-- What such an operation never touches. -/
def fixedPart (s : State) : Nat × BitVec 6 × NMap Nat × NMap (List Nat) × Finder × Mgmt × Security × NMap W64 :=
  (s.units, s.slotId, s.objs, s.cal, s.fin, s.mgmt, s.sec, s.ioRegs)
/-- A Heliostat port without its state and what is in flight on it. -/
def hlHistory (h : HlState) : HlState :=
  { h with st := 0, draining := false, txSeq := 0, unacked := [], chainStall := false, ackedStep := none, sentStep := none }
/-- Its state. -/
def hlStanding (h : HlState) : Fin 8 × Bool := (h.st, h.draining)
/-- A site without its port. -/
def siteOwn (t : SiteState) : SiteState := { t with hl := HlState.reset }

/-- What s has kept of o. A port changes its state only where it drains in PIPELINE, and a partition without a job gets none. -/
structure Onward (o s : State) : Prop where
  fixed : fixedPart s = fixedPart o
  site : ∀ d, siteOwn (siteSt s d) = siteOwn (siteSt o d)
  history : ∀ d, hlHistory (hlOf s d) = hlHistory (hlOf o d)
  standing : ∀ d, hlStanding (hlOf o d) ≠ (5, true) → hlStanding (hlOf s d) = hlStanding (hlOf o d)
  jobless : ∀ p, jobOf o p = none → jobOf s p = none
  events : o.events <+: s.events

section
variable {o s t : State} {n : Nat}

theorem hlOf_updHl (s : State) (d e : Nat) (f : HlState → HlState) : hlOf (updHl s d f) e = if e = d then f (hlOf s d) else hlOf s e := by
  split
  · next h => rw [h, hlOf_updHl_self]
  · next h => exact hlOf_updHl_ne s d f h

theorem onward_refl (s : State) : Onward s s := ⟨rfl, fun _ => rfl, fun _ => rfl, fun _ _ => rfl, fun _ h => h, List.prefix_refl _⟩
theorem Onward.congr (hs : Onward o s) (hf : fixedPart t = fixedPart s) (ht : t.sites = s.sites) (hp : t.parts = s.parts)
    (he : t.events = s.events) : Onward o t := by
  obtain ⟨h1, h2, h3, h4, h5, h6⟩ := hs
  refine ⟨hf.trans h1, fun d => ?_, fun d => ?_, fun d => ?_, fun p h => ?_, he ▸ h6⟩
  · simpa only [siteSt, ht] using h2 d
  · simpa only [hlOf, siteSt, ht] using h3 d
  · simpa only [hlOf, siteSt, ht] using h4 d
  · simpa only [jobOf, partOf, hp] using h5 p h
theorem Onward.trans (hs : Onward o s) (ht : Onward s t) : Onward o t := by
  obtain ⟨h1, h2, h3, h4, h5, h6⟩ := hs
  obtain ⟨g1, g2, g3, g4, g5, g6⟩ := ht
  exact ⟨g1.trans h1, fun d => (g2 d).trans (h2 d), fun d => (g3 d).trans (h3 d), fun d h => (g4 d (h4 d h ▸ h)).trans (h4 d h),
    fun p h => g5 p (h5 p h), h6.trans g6⟩
theorem Onward.ite {c : Prop} [Decidable c] (hs : Onward o s) (ht : Onward o t) : Onward o (if c then s else t) := by
  split
  · exact hs
  · exact ht
theorem Onward.foldl {α : Type} {f : State → α → State} (hf : ∀ {t : State} (a : α), Onward o t → Onward o (f t a)) {l : List α}
    (hs : Onward o s) : Onward o (l.foldl f s) := by
  induction l generalizing s with
  | nil => exact hs
  | cons a l ih => exact ih (hf a hs)
theorem Onward.emit {rep : Nat} {e : EventRec} (hs : Onward o s) : Onward o (Machine.emit s rep e) := by
  obtain ⟨h1, h2, h3, h4, h5, h6⟩ := hs
  exact ⟨h1, h2, h3, h4, h5, h6.trans (events_emit ..)⟩
theorem Onward.updPart {f : PartState → PartState} (hs : Onward o s)
    (hf : ∀ v, v.job = none → (f v).job = none := by exact fun _ h => h) : Onward o (Machine.updPart s n f) := by
  obtain ⟨h1, h2, h3, h4, h5, h6⟩ := hs
  refine ⟨h1, h2, h3, h4, fun p hp => ?_, h6⟩
  rw [jobOf, partOf_updPart]
  split
  · next e => exact hf _ (h5 n (e ▸ hp))
  · exact h5 p hp
theorem Onward.updJob {f : Job → Job} (hs : Onward o s) : Onward o (Machine.updJob s n f) :=
  hs.updPart (hf := fun v h => by simp [h])
theorem Onward.updHl {f : HlState → HlState} (hs : Onward o s) (hf : ∀ h, hlHistory (f h) = hlHistory h := by exact fun _ => rfl)
    (hg : hlStanding (hlOf o n) ≠ (5, true) → hlStanding (f (hlOf s n)) = hlStanding (hlOf s n) := by exact fun _ => rfl) :
    Onward o (Machine.updHl s n f) := by
  obtain ⟨h1, h2, h3, h4, h5, h6⟩ := hs
  refine ⟨h1, fun d => ?_, fun d => ?_, fun d hd => ?_, h5, h6⟩
  · rw [Machine.updHl, siteSt_updSite]
    split
    · next e => exact e ▸ h2 n
    · exact h2 d
  · rw [hlOf_updHl]
    split
    · next e => rw [hf, ← e, h3]
    · exact h3 d
  · rw [hlOf_updHl]
    split
    · next e => exact (hg (e ▸ hd)).trans (e ▸ h4 d hd)
    · exact h4 d hd
theorem Onward.freeBytes (hs : Onward o s) : Onward o (Machine.freeBytes s n).2 := hs.congr rfl rfl rfl rfl
theorem Onward.setCore {c : Nat} {v : CoreState} (hs : Onward o s) : Onward o (Machine.setCore s c v) := hs.congr rfl rfl rfl rfl
theorem Onward.updCore {c : Nat} {f : CoreState → CoreState} (hs : Onward o s) :
    Onward o (Machine.updCore s c f) := hs.setCore
theorem Onward.setRouter {r : Nat} {v : RouterState} (hs : Onward o s) : Onward o (Machine.setRouter s r v) := hs.congr rfl rfl rfl rfl
theorem Onward.updRouter {r : Nat} {f : RouterState → RouterState} (hs : Onward o s) :
    Onward o (Machine.updRouter s r f) := hs.setRouter
theorem Onward.setCl {k : Nat} {v : ClusterState} (hs : Onward o s) : Onward o (Machine.setCl s k v) := hs.congr rfl rfl rfl rfl
theorem Onward.updCl {k : Nat} {f : ClusterState → ClusterState} (hs : Onward o s) :
    Onward o (Machine.updCl s k f) := hs.setCl
theorem Onward.setCc {i : Nat} {v : CcState} (hs : Onward o s) : Onward o (Machine.setCc s i v) := hs.congr rfl rfl rfl rfl
theorem Onward.updCc {i : Nat} {f : CcState → CcState} (hs : Onward o s) : Onward o (Machine.updCc s i f) := hs.setCc
theorem Onward.setWl {n : Nat} {v : WlState} (hs : Onward o s) : Onward o (Machine.setWl s n v) := hs.congr rfl rfl rfl rfl
theorem Onward.updWl {n : Nat} {f : WlState → WlState} (hs : Onward o s) : Onward o (Machine.updWl s n f) := hs.setWl
theorem Onward.setReq {h : Nat} {v : Request} (hs : Onward o s) : Onward o (Machine.setReq s h v) := hs.congr rfl rfl rfl rfl
theorem Onward.updReq {h : Nat} {f : Request → Request} (hs : Onward o s) : Onward o (Machine.updReq s h f) := by
  unfold Machine.updReq
  split
  · exact hs.setReq
  · exact hs
theorem Onward.updStw {f : Steward → Steward} (hs : Onward o s) : Onward o (Machine.updStw s f) := hs.congr rfl rfl rfl rfl
theorem Onward.vaultWrite {k a : Nat} {b : Bytes} (hs : Onward o s) : Onward o (Machine.vaultWrite s k a b) := hs.updCl
theorem Onward.setCreg {c off v : Nat} (hs : Onward o s) : Onward o (Machine.setCreg s c off v) := hs.updCore
theorem Onward.setKreg {k off v : Nat} (hs : Onward o s) : Onward o (Machine.setKreg s k off v) := hs.updCl
theorem Onward.setRreg {r off v : Nat} (hs : Onward o s) : Onward o (Machine.setRreg s r off v) := hs.updRouter
theorem Onward.bumpK {k off hi lo n : Nat} (hs : Onward o s) : Onward o (Machine.bumpK s k off hi lo n) := Onward.ite hs hs.setKreg
theorem Onward.peakFreeK {k off hi lo : Nat} (hs : Onward o s) : Onward o (Machine.peakFreeK s k off hi lo) := by
  unfold Machine.peakFreeK
  extract_lets _ s1
  have h1 : Onward o s1 := hs.setKreg
  exact h1.congr rfl rfl rfl rfl
theorem Onward.vaultWork {k bursts : Nat} (hs : Onward o s) : Onward o (Machine.vaultWork s k bursts) :=
  Onward.ite hs hs.bumpK.peakFreeK
theorem Onward.vaultPass {k a n : Nat} (hs : Onward o s) : Onward o (Machine.vaultPass s k a n) := hs.vaultWork
theorem Onward.raise {code sev unit rep : Nat} {detail : Bytes} (hs : Onward o s) :
    Onward o (Machine.raise s code sev unit rep detail) := hs.emit
theorem Onward.doorbellAt {i n tag : Nat} (hs : Onward o s) : Onward o (Machine.doorbellAt s i n tag) := hs.updCc
theorem Onward.finderBroadcast {n tag : Nat} {ccs : List Nat} (hs : Onward o s) :
    Onward o (Machine.finderBroadcast s n tag ccs) := hs.congr rfl rfl rfl rfl
theorem Onward.freeExtents {d : Option SweepDesc} {clusters : List Nat} {h : Nat} (hs : Onward o s) :
    Onward o (Machine.freeExtents s d clusters h) := by
  unfold Machine.freeExtents
  refine hs.foldl fun _ ht => ?_
  extract_lets _ s2
  have h2 : Onward o s2 := ht.updCl
  split
  · exact h2
  · exact h2.foldl (fun _ ht2 => ht2.vaultWrite)
theorem Onward.updRegion {p r : Nat} {f : RegionRun → RegionRun} (hs : Onward o s) :
    Onward o (Machine.updRegion s p r f) := hs.updJob
theorem Onward.stwEvent {code sev : Nat} {p : Option Nat} {req : Option Nat} {detail : Bytes} (hs : Onward o s) :
    Onward o (Machine.stwEvent s code sev p req detail) := by
  unfold Machine.stwEvent
  extract_lets _ _
  exact hs.emit
theorem Onward.wlPost {n : Nat} {m : HostMsg} (hs : Onward o s) : Onward o (Machine.wlPost s n m) := hs.updWl
theorem Onward.hostWrite {n addr : Nat} {b : Bytes} (hs : Onward o s) : Onward o (Machine.hostWrite s n addr b) :=
  hs.foldl (fun _ ht => ht.wlPost)
theorem Onward.queueWrite {q units : Nat} {b : Bytes} (hs : Onward o s) :
    Onward o (Machine.queueWrite s q units b) := by
  unfold Machine.queueWrite
  split
  · exact hs
  · extract_lets _ _ s1 s2
    have h1 : Onward o s1 := hs.hostWrite
    have h2 : Onward o s2 := h1.hostWrite
    exact h2.updWl
theorem Onward.logPost {q : Nat} {bs : Bytes} (hs : Onward o s) : Onward o (Machine.logPost s q bs) := by
  unfold Machine.logPost
  split
  · exact hs
  · extract_lets _ _ s1
    have h1 : Onward o s1 := Onward.ite hs hs.queueWrite
    exact h1.queueWrite
theorem Onward.logStall {p : Nat} (hs : Onward o s) : Onward o (Machine.logStall s p) := Onward.ite hs hs.updPart.stwEvent
theorem Onward.logInput {p type flags : Nat} {req index : Option Nat} {payload : Bytes} (hs : Onward o s) :
    Onward o (Machine.logInput s p type flags req index payload) := by
  unfold Machine.logInput
  split
  · extract_lets _ s1
    have h1 : Onward o s1 := hs.updPart
    exact Onward.ite h1.logPost h1.updPart.logStall
  · exact hs
theorem Onward.foldReq {h type : Nat} {payload : Bytes} (hs : Onward o s) :
    Onward o (Machine.foldReq s h type payload) := hs.updReq
theorem Onward.foldJob {p type : Nat} {payload : Bytes} (hs : Onward o s) :
    Onward o (Machine.foldJob s p type payload) := hs.updJob
theorem Onward.flushRecs : ∀ {l : List (BitVec 16 × Option Nat × Bytes)} {s : State}
    {kept : List (BitVec 16 × Option Nat × Bytes)}, Onward o s → Onward o (Machine.flushRecs l s n kept)
  | [], _, _, hs => hs.updWl
  | _ :: _, _, _, hs => by
    unfold Machine.flushRecs
    extract_lets _ s1 s2
    have h1 : Onward o s1 := hs.queueWrite
    have h2 : Onward o s2 := by
      simp only [s2]
      split
      · split
        · exact Onward.ite (h1.congr rfl rfl rfl rfl) h1
        · exact h1
      · exact h1
    split
    · exact h2.flushRecs
    · exact hs.flushRecs
theorem Onward.flushHeld {n : Nat} (hs : Onward o s) : Onward o (Machine.flushHeld s n) := hs.flushRecs
theorem Onward.postRec {q : Nat} {slot : Option Nat} {bs : Bytes} (hs : Onward o s) :
    Onward o (Machine.postRec s q slot bs) := by
  unfold Machine.postRec
  extract_lets _
  exact hs.updWl.flushHeld
theorem Onward.foldEnd {h reason stop : Nat} (hs : Onward o s) : Onward o (Machine.foldEnd s h reason stop) := by
  unfold Machine.foldEnd
  split
  · extract_lets s1
    have h1 : Onward o s1 := Onward.ite hs.setReq hs
    exact h1.foldReq
  · exact hs
theorem Onward.dropImage {h : Nat} (hs : Onward o s) : Onward o (Machine.dropImage s h) := hs.congr rfl rfl rfl rfl
theorem Onward.dropExtents {p h : Nat} (hs : Onward o s) : Onward o (Machine.dropExtents s p h) := by
  unfold Machine.dropExtents
  extract_lets s1
  have h1 : Onward o s1 := hs.freeExtents
  exact h1.freeExtents
theorem Onward.dropReads {h : Nat} (hs : Onward o s) : Onward o (Machine.dropReads s h) := by
  unfold Machine.dropReads
  extract_lets _
  exact hs.congr rfl rfl rfl rfl
theorem Onward.dropShards {p : Nat} {digest : Bytes} (hs : Onward o s) :
    Onward o (Machine.dropShards s p digest) := hs.foldl (fun _ ht => (Onward.ite ht.updCl ht))
theorem Onward.retireCheck {p : Nat} (hs : Onward o s) : Onward o (Machine.retireCheck s p) := by
  unfold Machine.retireCheck
  split
  · exact hs
  · exact Onward.ite hs (Onward.ite hs hs.dropShards).updPart.logInput.stwEvent
theorem Onward.noteDraft {p : Nat} {digest : Bytes} (hs : Onward o s) : Onward o (Machine.noteDraft s p digest) := by
  unfold Machine.noteDraft
  extract_lets _ s1
  have h1 : Onward o s1 := by
    simp only [s1]
    refine hs.foldl fun _ ht1 => ?_
    split
    · exact Onward.ite ht1.foldReq ht1
    · exact ht1
  exact h1.logInput
theorem Onward.unloadDraft {p : Nat} {x : Draft} (hs : Onward o s) : Onward o (Machine.unloadDraft s p x) := by
  unfold Machine.unloadDraft
  extract_lets s1 s2 s4
  have h1 : Onward o s1 := hs.updPart
  have h2 : Onward o s2 := h1.foldl (fun _ ht2 => ht2.freeExtents)
  have h4 : Onward o s4 := h2.updJob
  exact Onward.ite h4.noteDraft h4
theorem Onward.draftCheck {p : Nat} (hs : Onward o s) : Onward o (Machine.draftCheck s p) := by
  unfold Machine.draftCheck
  split
  · exact Onward.ite hs.unloadDraft hs
  · exact hs
theorem Onward.dropTokens {p h : Nat} (hs : Onward o s) : Onward o (Machine.dropTokens s p h) := hs.updJob
theorem Onward.endRequest {h : Nat} {st : ReqState} {reason stop answer event : Nat} (hs : Onward o s) :
    Onward o (Machine.endRequest s h st reason stop answer event) := by
  unfold Machine.endRequest
  split
  · exact hs
  · refine Onward.ite ?_ ?_
    · exact hs
    · extract_lets _ s1 s2 s3 s4
      have h1 : Onward o s1 := hs.setReq
      have h2 : Onward o s2 := (Onward.ite h1 h1.dropReads).dropTokens
      have h3 : Onward o s3 := h2.foldEnd.dropExtents.dropImage
      have h4 : Onward o s4 := Onward.ite h3.stwEvent h3
      split
      · exact h4.postRec.retireCheck.draftCheck
      · exact h4
theorem Onward.drainEnd {c : Nat} (hs : Onward o s) : Onward o (Machine.drainEnd s c) := by
  unfold Machine.drainEnd
  extract_lets _ _
  exact Onward.ite hs.setCore.doorbellAt hs
theorem Onward.haltSeq {c : Nat} (hs : Onward o s) : Onward o (Machine.haltSeq s c) := by
  unfold Machine.haltSeq
  extract_lets _
  exact Onward.ite hs.setCore.drainEnd hs
theorem Onward.haltPart {p : Nat} (hs : Onward o s) : Onward o (Machine.haltPart s p) := hs.foldl (fun _ ht => ht.haltSeq)
theorem Onward.setTheta {p : Nat} {theta : F32} {warm : Bool} (hs : Onward o s) :
    Onward o (Machine.setTheta s p theta warm) := by
  unfold Machine.setTheta
  extract_lets _ s1
  have h1 : Onward o s1 := hs.updPart
  exact Onward.ite h1 h1.stwEvent
theorem Onward.adjustTheta {p : Nat} {j : Job} (hs : Onward o s) : Onward o (Machine.adjustTheta s p j) := by
  unfold Machine.adjustTheta
  extract_lets _ _ _ _ _ _ _ _
  exact Onward.ite hs hs.setTheta
theorem Onward.instarEnd {p : Nat} {i : Instar} {done : Bool} {event : Nat} (hs : Onward o s) :
    Onward o (Machine.instarEnd s p i done event) := by
  unfold Machine.instarEnd
  extract_lets _ _ s1
  have h1 : Onward o s1 := hs.stwEvent
  exact h1.postRec
theorem Onward.hlEvent {d code sev : Nat} {detail : Bytes} (hs : Onward o s) :
    Onward o (Machine.hlEvent s d code sev detail) := hs.raise
/-- A port that drains in PIPELINE leaves it, and no other does. -/
theorem Onward.hlUp {st : Nat} (hs : Onward o s) (h : hlStanding (hlOf s n) = (5, true)) : Onward o (Machine.hlUp s n st) :=
  (hs.updHl (hg := fun hd => absurd ((hs.standing n hd).symm.trans h) hd)).hlEvent
theorem Onward.endHops {p : Nat} (hs : Onward o s) : Onward o (Machine.endHops s p) := by
  unfold Machine.endHops
  refine hs.foldl fun d ht => ?_
  extract_lets h s2
  have h2 : Onward o s2 := Onward.ite ht.updHl ht
  split
  · next hc =>
    refine (h2.hlUp ?_).hlEvent
    have hh : hlStanding (hlOf s2 d) = hlStanding h := by
      simp only [s2]
      split
      · simp [hlStanding, h]
      · rfl
    rw [hh]
    simpa [hlStanding, and_comm] using hc
  · exact h2
theorem Onward.endJob {p reason event : Nat} (hs : Onward o s) : Onward o (Machine.endJob s p reason event) := by
  unfold Machine.endJob
  split
  · exact hs
  · extract_lets s1 s3 _ s4 s5 s6 s7 s8
    have h1 : Onward o s1 := hs.foldl (fun _ ht1 => ht1.endRequest)
    have h3 : Onward o s3 := h1.haltPart
    have h4 : Onward o s4 := by
      simp only [s4]
      split
      · exact h3.foldJob.instarEnd
      · exact h3.freeBytes.foldJob
    have h5 : Onward o s5 := h4.logInput
    have h6 : Onward o s6 := Onward.ite h5.adjustTheta h5
    have h7 : Onward o s7 := Onward.ite (h6.congr rfl rfl rfl rfl) h6
    have h8 : Onward o s8 := h7.endHops
    exact h8.updPart (hf := fun _ _ => rfl)
theorem Onward.startSeq {c : Nat} {base : Option (BitVec 17)} {index : Nat} (hs : Onward o s) :
    Onward o (Machine.startSeq s c base index) := hs.updCore
theorem Onward.clearErr {c : Nat} (hs : Onward o s) : Onward o (Machine.clearErr s c) := Onward.ite hs hs.setCreg
theorem Onward.setLinkDown {r p : Nat} {down : Bool} (hs : Onward o s) :
    Onward o (Machine.setLinkDown s r p down) := by
  unfold Machine.setLinkDown
  extract_lets _
  exact hs.setRreg
theorem Onward.bothEnds {r p : Nat} {down : Bool} (hs : Onward o s) : Onward o (Machine.bothEnds s r p down) := by
  unfold Machine.bothEnds
  extract_lets s1
  have h1 : Onward o s1 := hs.setLinkDown
  split
  · exact h1.setLinkDown
  · exact h1
theorem Onward.noteFence {u cause : Nat} (hs : Onward o s) : Onward o (Machine.noteFence s u cause) := by
  unfold Machine.noteFence
  extract_lets _ _ _ s1 s2
  have h1 : Onward o s1 := Onward.ite hs.updStw hs
  have h2 : Onward o s2 := h1.raise
  exact Onward.ite h2.finderBroadcast h2
theorem Onward.setFenceBit {k bit : Nat} (hs : Onward o s) : Onward o (Machine.setFenceBit s k bit) := hs.setKreg
theorem Onward.closeCore {c : Nat} (hs : Onward o s) : Onward o (Machine.closeCore s c) := by
  unfold Machine.closeCore
  extract_lets s1
  have h1 : Onward o s1 := hs.haltSeq
  exact h1.setRreg.setFenceBit
theorem Onward.fenceSite {d cause : Nat} (hs : Onward o s) : Onward o (Machine.fenceSite s d cause) :=
  Onward.ite hs ((hs.noteFence.foldl (fun _ ht => ht.setFenceBit)).foldl (fun _ ht1 => ht1.bothEnds))
theorem Onward.fenceCluster {k cause : Nat} (hs : Onward o s) : Onward o (Machine.fenceCluster s k cause) := by
  unfold Machine.fenceCluster
  refine Onward.ite ?_ ?_
  · exact hs
  · refine Onward.ite ?_ ?_
    · exact hs.fenceSite
    · extract_lets s1 s2
      have h1 : Onward o s1 := hs.noteFence
      have h2 : Onward o s2 := h1.setFenceBit.foldl (fun _ ht2 => ht2.closeCore)
      exact Onward.ite h2.fenceSite h2
theorem Onward.fenceCore {c cause : Nat} (hs : Onward o s) : Onward o (Machine.fenceCore s c cause) := by
  unfold Machine.fenceCore
  extract_lets _ s1
  have h1 : Onward o s1 := hs.noteFence.closeCore
  exact Onward.ite hs (Onward.ite hs.fenceSite (Onward.ite h1.fenceCluster h1))
theorem Onward.fenceLink {r p cause : Nat} (hs : Onward o s) : Onward o (Machine.fenceLink s r p cause) := by
  unfold Machine.fenceLink
  extract_lets _
  exact Onward.ite hs (Onward.ite hs.fenceSite hs.noteFence.bothEnds)
theorem Onward.fenceUnit {u cause : Nat} (hs : Onward o s) : Onward o (Machine.fenceUnit s u cause) := by
  unfold Machine.fenceUnit
  extract_lets _
  refine Onward.ite ?_ ?_
  · exact hs
  · exact Onward.ite hs.fenceLink (Onward.ite hs.fenceCore (Onward.ite hs.fenceCluster (Onward.ite hs.fenceSite hs)))
theorem Onward.queueDepth {r p vc : Nat} {n : Int} (hs : Onward o s) : Onward o (Machine.queueDepth s r p vc n) := by
  unfold Machine.queueDepth
  extract_lets _ _ _ _
  exact hs.setRreg
theorem Onward.creditBack {h : Hop} {n : Nat} (hs : Onward o s) : Onward o (Machine.creditBack s h n) := by
  unfold Machine.creditBack
  split
  · exact hs.updRouter
  · exact hs
theorem Onward.dropHop {h : Hop} (hs : Onward o s) : Onward o (Machine.dropHop s h) :=
  Onward.creditBack (Onward.queueDepth (hs.congr rfl rfl rfl rfl))
theorem Onward.hlSend {d cls : Nat} {msg : Bytes} (hs : Onward o s) : Onward o (Machine.hlSend s d cls msg) := Onward.ite hs hs.updHl
theorem Onward.chainLook (hs : Onward o s) : Onward o (Machine.chainLook s) := by
  unfold Machine.chainLook
  refine Onward.ite ?_ ?_
  · exact hs
  · split
    · exact hs
    · refine Onward.ite ?_ ?_
      · exact hs
      · extract_lets s1
        have h1 : Onward o s1 := hs.updStw.stwEvent
        refine h1.foldl fun _ ht1 => ?_
        split
        · exact ht1.hlSend
        · exact ht1
    · exact hs.updStw.stwEvent
theorem Onward.dropHops {p : Nat} {vc0 : Bool} (hs : Onward o s) : Onward o (Machine.dropHops s p vc0) := by
  unfold Machine.dropHops
  extract_lets s1 s3
  have h1 : Onward o s1 := hs.foldl (fun _ ht1 => ht1.dropHop)
  have h3 : Onward o s3 := h1.congr rfl rfl rfl rfl
  exact h3.foldl (fun _ ht3 => (Onward.ite ht3 ht3.updRouter))
theorem Onward.markMissing {p index : Nat} (hs : Onward o s) : Onward o (Machine.markMissing s p index) := hs.updPart
theorem Onward.setEpochs {p : Nat} {f : Epochs → Epochs} (hs : Onward o s) : Onward o (Machine.setEpochs s p f) := hs.updPart
theorem Onward.shardGone {p : Nat} {digest : Bytes} {index : Nat} (hs : Onward o s) :
    Onward o (Machine.shardGone s p digest index) := by
  unfold Machine.shardGone
  extract_lets _
  exact Onward.ite hs.setEpochs hs.markMissing
theorem Onward.freeze {p reason : Nat} {step : W64} {region : Nat} (hs : Onward o s) :
    Onward o (Machine.freeze s p reason step region) := by
  unfold Machine.freeze
  split
  · exact hs
  · exact Onward.ite hs (Onward.stwEvent (hs.updJob.haltPart.congr rfl rfl rfl rfl))
theorem Onward.moveShard {p : Nat} {m : Manifest} {bank : Nat} {copies : List ShardPlace} {pl x : ShardPlace}
    (hs : Onward o s) :
    Onward o (Machine.moveShard s p m bank copies pl x) := by
  unfold Machine.moveShard
  extract_lets _ _ _
  split
  · exact hs
  · extract_lets _ _
    split
    · extract_lets s1
      have h1 : Onward o s1 := hs.vaultWrite.vaultPass
      exact h1.updCl
    · exact Onward.ite hs hs.shardGone
theorem Onward.moveShards {p : Nat} {m : Manifest} {bank : Nat} {copies old new : List ShardPlace} (hs : Onward o s) :
    Onward o (Machine.moveShards s p m bank copies old new) := by
  unfold Machine.moveShards
  refine hs.foldl fun _ ht => ?_
  split
  · exact ht
  · exact Onward.ite ht ht.moveShard
theorem Onward.setPlacement {p : Nat} {f : LayoutFile} {n : Nat} (hs : Onward o s) :
    Onward o (Machine.setPlacement s p f n) := by
  unfold Machine.setPlacement
  split
  · exact hs
  · refine Onward.ite ?_ ?_
    · exact hs
    · extract_lets _ _ _ _ s1 s2 s3 s4 _ s5 s6
      have h1 : Onward o s1 := by
        simp only [s1]
        split
        · exact hs.moveShards
        · exact hs
      have h2 : Onward o s2 := by
        simp only [s2]
        split
        · exact h1.moveShards
        · exact h1
      have h3 : Onward o s3 := by
        simp only [s3]
        split
        · exact h2.moveShards
        · exact h2
      have h4 : Onward o s4 := h3.updJob
      have h5 : Onward o s5 := h4.foldJob
      have h6 : Onward o s6 := Onward.ite (h5.foldl (fun _ ht6 => ht6.foldReq)) h5
      exact h6.logInput
theorem Onward.restartBegin {p cause : Nat} (hs : Onward o s) : Onward o (Machine.restartBegin s p cause) := by
  unfold Machine.restartBegin
  split
  · exact hs
  · split
    · exact hs
    · refine Onward.ite ?_ ?_
      · exact hs
      · refine Onward.ite ?_ ?_
        · exact hs.updJob
        · refine Onward.ite ?_ ?_
          · exact hs.hlSend.freeze
          · refine Onward.ite ?_ ?_
            · exact hs.stwEvent.endJob
            · refine Onward.ite ?_ ?_
              · exact hs.endJob
              · extract_lets s1 s2 s3
                have h1 : Onward o s1 := hs.haltPart.dropHops
                have h2 : Onward o s2 := h1.stwEvent
                have h3 : Onward o s3 := Onward.ite hs h2.updJob
                split
                · exact h3.stwEvent.endJob
                · exact h3.setPlacement
theorem Onward.fenceAnswer {cause : Nat} (hs : Onward o s) : Onward o (Machine.fenceAnswer s cause) :=
  hs.foldl (fun _ ht => (Onward.ite ht.restartBegin ht))
theorem Onward.fenceAll {u cause : Nat} (hs : Onward o s) : Onward o (Machine.fenceAll s u cause) := hs.fenceUnit.fenceAnswer
theorem Onward.rewindCore {c step : Nat} {x : StreamImage} (hs : Onward o s) :
    Onward o (Machine.rewindCore s c step x) := by
  unfold Machine.rewindCore
  extract_lets s1 s2
  have h1 : Onward o s1 := hs.updCore
  have h2 : Onward o s2 := h1.setCreg
  exact h2.clearErr.setCreg.startSeq
theorem Onward.rewindRegion {p r : Nat} (hs : Onward o s) : Onward o (Machine.rewindRegion s p r) := by
  unfold Machine.rewindRegion
  split
  · exact hs
  · extract_lets _ _ s1
    have h1 : Onward o s1 := hs.foldl (fun _ ht1 => ht1.updCl)
    exact h1.foldl (fun _ ht2 => (Onward.ite ht2.rewindCore ht2))
theorem Onward.replaySteps {p : Nat} {upstream : Option Nat} (hs : Onward o s) :
    Onward o (Machine.replaySteps s p upstream) := by
  unfold Machine.replaySteps
  split
  · exact hs
  · extract_lets s1 _ s2 s5 s6
    have h1 : Onward o s1 := by
      simp only [s1]
      split
      · exact hs.updRegion
      · exact hs
    have h2 : Onward o s2 := h1.foldl (fun _ ht2 => ht2.foldl (fun _ ht3 => ht3.haltSeq))
    have h5 : Onward o s5 := h2.updJob.dropHops
    have h6 : Onward o s6 := h5.foldl (fun _ ht6 => ht6.rewindRegion)
    exact h6.stwEvent
theorem Onward.failStep {p region code : Nat} {unit : W32} {upstream : Option Nat} (hs : Onward o s) :
    Onward o (Machine.failStep s p region code unit upstream) := by
  unfold Machine.failStep
  extract_lets _ s1
  have h1 : Onward o s1 := Onward.ite hs hs.fenceUnit
  exact Onward.ite h1.restartBegin hs.updRegion.replaySteps
theorem Onward.requestRestart {h : Nat} (hs : Onward o s) : Onward o (Machine.requestRestart s h) := by
  unfold Machine.requestRestart
  split
  · exact hs
  · extract_lets _ _ s1 s2 s3
    have h1 : Onward o s1 := hs.dropTokens.dropExtents
    have h2 : Onward o s2 := h1.updReq
    have h3 : Onward o s3 := h2.draftCheck
    exact Onward.ite hs (Onward.ite h3.replaySteps h3)
theorem Onward.hlLost {d : Nat} {crossed : Bool} (hs : Onward o s) : Onward o (Machine.hlLost s d crossed) := by
  unfold Machine.hlLost
  extract_lets s1 _ s2
  have h1 : Onward o s1 := by
    simp only [s1]
    split
    · exact hs.hlEvent.restartBegin
    · exact hs
  have h2 : Onward o s2 := Onward.ite h1.freeze h1
  exact h2.chainLook

end

end Sys2Proof.Machine
end

section
/-! PROOF. States of the Heliostat ports (R540, R541, R543, R545, R549): the ways in which a port changes its state. -/

namespace Sys2Proof.Machine

section
variable {s t u : State} {d : Nat} {code : BitVec 16}

/-! What a port changes of the state. -/

theorem onlySite_refl (s : State) (d : Nat) : onlySite s s d := ⟨rfl, fun _ _ => rfl⟩
theorem onlySite.trans (h : onlySite s t d) (g : onlySite t u d) : onlySite s u d := by
  obtain ⟨ht, hs⟩ := h
  obtain ⟨hu, gs⟩ := g
  exact ⟨by rw [hu, ht], fun e he => (gs e he).trans (hs e he)⟩
theorem onlySite_updSite (s : State) (d : Nat) (f : SiteState → SiteState) : onlySite s (updSite s d f) d :=
  ⟨rfl, fun _ h => siteSt_updSite_ne _ _ _ h⟩
theorem onlyHl_refl (s : State) (d : Nat) : onlyHl s s d := ⟨onlySite_refl s d, rfl⟩
theorem onlyHl.trans (h : onlyHl s t d) (g : onlyHl t u d) : onlyHl s u d := by
  obtain ⟨hs, ht⟩ := h
  obtain ⟨gs, gu⟩ := g
  exact ⟨hs.trans gs, by rw [gu, ht]⟩
theorem onlyHl_updHl (s : State) (d : Nat) (f : HlState → HlState) : onlyHl s (updHl s d f) d :=
  ⟨onlySite_updSite .., by rw [hlOf_updHl_self, updHl, siteSt_updSite_self]; rfl⟩
@[simp] theorem hlOf_hlEvent (s : State) (d e code sev : Nat) (b : Bytes) : hlOf (hlEvent s d code sev b) e = hlOf s e := rfl
theorem events_hlEvent (s : State) (d code sev : Nat) (b : Bytes) : s.events <+: (hlEvent s d code sev b).events := events_emit ..
/-- A port's event joins the events, with its code. -/
theorem raised_hlEvent (s : State) (d code sev : Nat) (b : Bytes) : raised s (hlEvent s d code sev b) (BitVec.ofNat 16 code) :=
  ⟨_, rfl, _, List.mem_singleton_self _, rfl⟩
@[simp] theorem hlOf_setDreg (s : State) (d e off v : Nat) : hlOf (setDreg s d off v) e = hlOf s e := by
  rw [hlOf, setDreg, siteSt_updSite]
  split
  · next h => rw [h, hlOf]
  · rfl
@[simp] theorem hlOf_bumpHlErr (s : State) (d e hi lo : Nat) : hlOf (bumpHlErr s d hi lo) e = hlOf s e := hlOf_setDreg ..

/-! DOWN and quarantine. -/

/-- What hlLost leaves of its own port. -/
theorem hlLost_effect {crossed : Bool} (h : hlStanding (hlOf s d) ≠ (5, true)) : let t := hlLost s d crossed
    hlHistory (hlOf t d) = hlHistory (hlOf s d) ∧ (hlOf t d).st = (hlOf s d).st ∧ s.events <+: t.events := by
  have hk : Onward s (hlLost s d crossed) := (onward_refl s).hlLost
  exact ⟨hk.history d, congrArg Prod.fst (hk.standing d h), hk.events⟩

theorem hlGoDown_effect (s : State) (d : Nat) : let t := hlGoDown s d
    hlHistory (hlOf t d) = hlHistory (hlLinkReset (hlOf s d)) ∧ (hlOf t d).st = 0 ∧ raised s t 0x7031 := by
  obtain ⟨hh, hst, he⟩ := hlLost_effect (s := hlEvent (updHl s d (fun h => { hlLinkReset h with st := 0 })) d 0x7031 1 []) (d := d)
    (crossed := hopsCross s d) (by simp [hlStanding])
  simp only [hlOf_hlEvent, hlOf_updHl_self] at hh hst
  refine ⟨hh, hst, raised.later ?_ he⟩
  exact (raised_hlEvent _ d 0x7031 1 []).of_events rfl
theorem hlGoDown_wentDown (s : State) (d : Nat) : hlWentDown s (hlGoDown s d) d := by
  obtain ⟨hh, hst, hr⟩ := hlGoDown_effect s d
  exact ⟨hst, congrArg HlState.lanes hh, congrArg HlState.peer hh, congrArg HlState.tapsWarm hh, hr⟩
theorem hlWentDown.of_events (h : hlWentDown t u d) (he : s.events <+: t.events) : hlWentDown s u d := by
  obtain ⟨hst, hl, hp, ht, hr⟩ := h
  exact ⟨hst, hl, hp, ht, hr.after he⟩

theorem hlQuarantine_self (h : (hlOf s d).st = 7) : hlQuarantine s d = s := by rw [hlQuarantine, if_pos h]
theorem hlQuarantine_effect (h : (hlOf s d).st ≠ 7) : let t := hlQuarantine s d
    (hlOf t d).st = 7 ∧ (hlOf t d).viols = (hlOf s d).viols ∧ raised s t 0x7035 := by
  have hk (v : State) (hv : (hlOf v d).st = 7) : let t := hlLost (hlEvent v d 0x7035 2 []) d (hopsCross s d)
      (hlOf t d).st = 7 ∧ (hlOf t d).viols = (hlOf v d).viols ∧ raised v t 0x7035 := by
    obtain ⟨hh, hst, he⟩ := hlLost_effect (s := hlEvent v d 0x7035 2 []) (d := d) (crossed := hopsCross s d) (by simp [hlStanding, hv])
    exact ⟨hst.trans hv, (congrArg HlState.viols hh :), (raised_hlEvent v d 0x7035 2 []).later he⟩
  simp only [hlQuarantine, if_neg h]
  refine (hk _ ?_).imp_right fun ⟨hv, hr⟩ => ⟨hv.trans ?_, hr.of_events rfl⟩ <;> rw [hlOf_updHl_self]
  rfl
theorem events_hlQuarantine (s : State) (d : Nat) : s.events <+: (hlQuarantine s d).events := by
  by_cases h : (hlOf s d).st = 7
  · rw [hlQuarantine_self h]
  · exact (hlQuarantine_effect h).2.2.earlier
theorem hlQuarantine_viols (s : State) (d : Nat) : (hlOf (hlQuarantine s d) d).viols = (hlOf s d).viols := by
  by_cases h : (hlOf s d).st = 7
  · rw [hlQuarantine_self h]
  · exact (hlQuarantine_effect h).2.1

/-! Violations. -/

theorem hlCount_counted (s : State) (d k : Nat) : hlCounted s (hlCount s d k) d k := by
  simp [hlCounted, hlCount]
theorem hlCounted.viols {k : Nat} (h : hlCounted s t d k) (hv : (hlOf u d).viols = (hlOf t d).viols) : hlCounted s u d k := by
  unfold hlCounted at h ⊢
  rw [hv, h]
theorem hlCounted.of_viols {k : Nat} (h : hlCounted t u d k) (hv : (hlOf t d).viols = (hlOf s d).viols) : hlCounted s u d k := by
  unfold hlCounted at h ⊢
  rw [h, hv]
/-- A port whose violation has been counted and reported. -/
def hlViolationSeen (s : State) (d k : Nat) : State :=
  hlEvent (updHl (hlCount s d k) d (fun h => { h with violTimes := hlWindow s d ++ [s.units] })) d 0x7034 1 []
theorem hlViolation_eq (s : State) (d k : Nat) : hlViolation s d k
    = if obj (hlViolationSeen s d k) 0x4D80 2 ≤ (hlWindow s d ++ [s.units]).length then hlQuarantine (hlViolationSeen s d k) d
      else hlViolationSeen s d k := rfl
theorem hlViolation_effect (s : State) (d k : Nat) : hlCounted s (hlViolation s d k) d k ∧ raised s (hlViolation s d k) 0x7034 := by
  have hc : hlCounted s (hlViolationSeen s d k) d k := (hlCount_counted s d k).viols (by simp [hlViolationSeen])
  have hr : raised s (hlViolationSeen s d k) 0x7034 := (raised_hlEvent _ d 0x7034 1 []).of_events rfl
  rw [hlViolation_eq]
  split
  · exact ⟨hc.viols (hlQuarantine_viols ..), hr.later (events_hlQuarantine ..)⟩
  · exact ⟨hc, hr⟩

/-! RETRAIN. -/

/-- A port that has entered RETRAIN, and one whose RETRAIN has been counted as a violation. -/
def hlRetraining (s : State) (d : Nat) : State :=
  hlEvent (bumpHlErr (updHl s d (fun h => { h with before := h.st, st := 6, replays := 0, replayTimes := [] })) d 15 8) d 0x7032 0 []
def hlRetrainCounted (s : State) (d : Nat) : State :=
  updHl (hlCount s d 5) d (fun h => { h with retrainTimes := recent s 60 (hlOf s d).retrainTimes ++ [s.units] })
theorem hlOf_hlRetraining (s : State) (d : Nat) : hlOf (hlRetraining s d) d
    = { hlOf s d with before := (hlOf s d).st, st := 6, replays := 0, replayTimes := [] } := by simp [hlRetraining]
theorem raised_hlRetraining (s : State) (d : Nat) : raised s (hlRetraining s d) 0x7032 := (raised_hlEvent _ d 0x7032 0 []).of_events rfl
theorem hlRetrainNow_cold (h : (hlOf s d).tapsWarm = false) : hlRetrainNow s d = hlRetraining s d := by
  simp only [hlRetrainNow, h]
  rfl
theorem hlRetrainNow_eq (h : (hlOf s d).tapsWarm = true) : hlRetrainNow s d = let t := hlRetrainCounted (hlRetraining s d) d
    if 3 ≤ (recent (hlRetraining s d) 60 (hlOf (hlRetraining s d) d).retrainTimes ++ [s.units]).length then hlQuarantine t d else t := by
  simp only [hlRetrainNow, h]
  rfl
theorem hlOf_hlRetrainCounted (s : State) (d : Nat) : hlOf (hlRetrainCounted s d) d
    = { hlOf (hlCount s d 5) d with retrainTimes := recent s 60 (hlOf s d).retrainTimes ++ [s.units] } := by simp [hlRetrainCounted]

/-- Entry to RETRAIN with WARM taps counts, and the third in a minute is a quarantine. -/
theorem hlRetrainNow_warm (h : (hlOf s d).tapsWarm = true) : let t := hlRetrainNow s d
    hlCounted s t d 5 ∧ raised s t 0x7032
      ∧ ((recent s 60 (hlOf s d).retrainTimes).length < 2 → (hlOf t d).st = 6 ∧ (hlOf t d).before = (hlOf s d).st
        ∧ (hlOf t d).draining = (hlOf s d).draining)
      ∧ (2 ≤ (recent s 60 (hlOf s d).retrainTimes).length → (hlOf t d).st = 7 ∧ raised s t 0x7035) := by
  have hw := hlOf_hlRetraining s d
  have hlen : (recent (hlRetraining s d) 60 (hlOf (hlRetraining s d) d).retrainTimes ++ [s.units]).length
      = (recent s 60 (hlOf s d).retrainTimes).length + 1 := by
    rw [hw, List.length_append]
    rfl
  have hv : hlOf (hlRetrainCounted (hlRetraining s d) d) d = { hlOf (hlCount (hlRetraining s d) d 5) d with
      retrainTimes := recent (hlRetraining s d) 60 (hlOf (hlRetraining s d) d).retrainTimes ++ [s.units] } := hlOf_hlRetrainCounted ..
  have hc : hlCounted s (hlRetrainCounted (hlRetraining s d) d) d 5 :=
    ((hlCount_counted (hlRetraining s d) d 5).viols (by rw [hv])).of_viols (by rw [hw])
  have hst : (hlOf (hlRetrainCounted (hlRetraining s d) d) d).st = 6 := by rw [hv]; simp [hlCount, hw]
  have hr : raised s (hlRetrainCounted (hlRetraining s d) d) 0x7032 := (raised_hlRetraining s d).later (List.prefix_refl _)
  rw [hlRetrainNow_eq h, hlen]
  dsimp only
  split
  · have h7 : (hlOf (hlRetrainCounted (hlRetraining s d) d) d).st ≠ 7 := by rw [hst]; decide
    obtain ⟨hq, hv, hqr⟩ := hlQuarantine_effect h7
    exact ⟨hc.viols hv, hr.later (events_hlQuarantine ..), fun hlt => by omega, fun _ => ⟨hq, hqr.after hr.earlier⟩⟩
  · refine ⟨hc, hr, fun _ => ⟨hst, ?_, ?_⟩, fun h2 => by omega⟩ <;> rw [hv] <;> simp [hlCount, hw]

/-! A link that carries traffic, and one that fails its authentication. -/

theorem hlUp_effect (s : State) (d st : Nat) : hlOf (hlUp s d st) d = { hlOf s d with st := Fin.ofNat 8 st, draining := false }
    ∧ raised s (hlUp s d st) 0x7030 := ⟨by simp [hlUp], (raised_hlEvent _ d 0x7030 0 _).of_events rfl⟩

/-- A port whose failed authentication has been counted, and that has gone DOWN. -/
def hlRefused (s : State) (d : Nat) : State :=
  hlGoDown (updHl (bumpHlErr (hlCount s d 1) d 7 0) d
    (fun h => { h with authTimes := recent s 60 (hlOf s d).authTimes ++ [s.units] })) d
theorem hlAuthFail_eq (s : State) (d : Nat) : hlAuthFail s d = let t := hlEvent (hlRefused s d) d 0x8040 2 []
    if 3 ≤ (recent s 60 (hlOf s d).authTimes ++ [s.units]).length then hlQuarantine t d else t := rfl
theorem hlRefused_effect (s : State) (d : Nat) : let t := hlRefused s d
    hlCounted s t d 1 ∧ (hlOf t d).st = 0 ∧ raised s t 0x7031 := by
  obtain ⟨hh, hst, hr⟩ := hlGoDown_effect (updHl (bumpHlErr (hlCount s d 1) d 7 0) d
    (fun h => { h with authTimes := recent s 60 (hlOf s d).authTimes ++ [s.units] })) d
  refine ⟨(hlCount_counted s d 1).viols ((congrArg HlState.viols hh :).trans ?_), hst, hr.of_events rfl⟩
  simp [hlHistory, hlLinkReset]
/-- Three failed authentications in a minute are a quarantine, and fewer are DOWN. -/
theorem hlAuthFail_effect (s : State) (d : Nat) : let t := hlAuthFail s d
    hlCounted s t d 1 ∧ raised s t 0x8040 ∧ raised s t 0x7031
      ∧ (hlOf t d).st = if (recent s 60 (hlOf s d).authTimes).length < 2 then 0 else 7 := by
  obtain ⟨hc, hst, hr⟩ := hlRefused_effect s d
  have h8 : raised s (hlEvent (hlRefused s d) d 0x8040 2 []) 0x8040 := (raised_hlEvent _ d 0x8040 2 []).after hr.earlier
  have h7 := hr.later (events_hlEvent (hlRefused s d) d 0x8040 2 [])
  have hc8 : hlCounted s (hlEvent (hlRefused s d) d 0x8040 2 []) d 1 := hc.viols (by simp)
  rw [hlAuthFail_eq, List.length_append, List.length_singleton]
  dsimp only
  split
  · obtain ⟨hq, hv, -⟩ := hlQuarantine_effect (s := hlEvent (hlRefused s d) d 0x8040 2 []) (d := d) (by simp [hst])
    exact ⟨hc8.viols hv, h8.later (events_hlQuarantine ..), h7.later (events_hlQuarantine ..), by rw [hq, if_neg (by omega)]⟩
  · exact ⟨hc8, h8, h7, by rw [if_pos (by omega)]; exact hst⟩
end

end Sys2Proof.Machine
end

section
/-! PROOF. The commands of the Heliostat port states, and HL_PORT_RELEASE. -/

namespace Sys2Proof.Machine

section
variable {s t u : State} {d : HlPort} {n : Nat}

/-! Messages. -/

/-- A message that a port carries joins the flits that wait for their acknowledgement. -/
def messageWaits (h h' : HlState) (cls : Nat) : Prop := ∃ l, l ≠ [] ∧ h'.unacked = h.unacked ++ l ∧ ∀ e ∈ l, e.2.1 = cls
/-- The flits of a message on a port. -/
def sentOn (h : HlState) (cls : Nat) (msg : Bytes) : HlState :=
  let ps := chunks 248 msg
  { h with
    unacked := h.unacked ++ ps.mapIdx (fun i b => (h.txSeq + BitVec.ofNat 12 i, cls, sliceB b 0 248))
    txSeq := h.txSeq + BitVec.ofNat 12 ps.length }
theorem hlSend_carried {n cls : Nat} (h : hlCarries s n cls = true) (msg : Bytes) :
    hlSend s n cls msg = updHl s n (fun h => sentOn h cls msg) := by
  rw [hlSend, if_neg (by simp [h])]
  rfl
theorem sentOn_waits (h : HlState) (cls : Nat) {msg : Bytes} (hm : msg ≠ []) : messageWaits h (sentOn h cls msg) cls := by
  refine ⟨_, fun e => ?_, rfl, fun e he => ?_⟩
  · rw [List.mapIdx_eq_nil_iff] at e
    obtain ⟨a, l, rfl⟩ := List.exists_cons_of_ne_nil hm
    simp [chunks, chunksOf] at e
  · obtain ⟨i, hi, rfl⟩ := List.mem_mapIdx.1 he
    rfl
theorem helloBytes_congr (h : onlyPorts s t) (n : Nat) (c : Bytes) : helloBytes t n c = helloBytes s n c := by
  rw [h]
  rfl
/-- What a message changes at most: the flits of its port. -/
theorem hlSend_effect (s : State) (n cls : Nat) (msg : Bytes) : onlyHl s (hlSend s n cls msg) n
    ∧ ∃ l x, hlOf (hlSend s n cls msg) n = { hlOf s n with unacked := l, txSeq := x } := by
  unfold hlSend
  split
  · exact ⟨onlyHl_refl s n, _, _, rfl⟩
  · exact ⟨onlyHl_updHl .., _, _, hlOf_updHl_self ..⟩
theorem onlyHl.sites_eq (h : onlyHl s t n) : t = { s with sites := t.sites } := by
  obtain ⟨⟨h, -⟩, -⟩ := h
  exact h
theorem sendHello_sites (s : State) (n : Nat) : sendHello s n = { s with sites := (sendHello s n).sites, free := (sendHello s n).free } := by
  unfold sendHello
  obtain ⟨h, -⟩ := hlSend_effect (updHl (freeBytes s 32).2 n (fun h => { h with own := helloBytes (freeBytes s 32).2 n (freeBytes s 32).1 })) n 0
    (helloBytes (freeBytes s 32).2 n (freeBytes s 32).1)
  rw [h.sites_eq]
  rfl

/-- A hello, where the port carries it, waits on the port as the last that the module sent. -/
theorem hlOf_sendHello {n : Nat} (h : (hlOf s n).st = 3 ∨ (hlOf s n).st = 4 ∨ (hlOf s n).st = 5) :
    let b := helloBytes s n (freeBytes s 32).1
    hlOf (sendHello s n) n = sentOn { hlOf s n with own := b } 0 b := by
  have hb : helloBytes (freeBytes s 32).2 n (freeBytes s 32).1 = helloBytes s n (freeBytes s 32).1 :=
    helloBytes_congr (s := s) (t := (freeBytes s 32).2) rfl _ _
  have hv : hlOf (freeBytes s 32).2 n = hlOf s n := rfl
  simp only [sendHello, hb]
  rw [hlSend_carried (by simpa [hlCarries, hv, or_assoc] using h), hlOf_updHl_self, hlOf_updHl_self, hv]
theorem helloBytes_ne_nil (s : State) (n : Nat) (c : Bytes) : helloBytes s n c ≠ [] := by simp [helloBytes, leBytes]

/-! Bring-up. -/

theorem hlTrain_locked {lanes : Byte} {g : Fin 3} (ha : hlAlive s d = true) (hst : (hlOf s d).st = 2) (hl : 4 ≤ laneCount lanes) :
    answers (.hlTrain d (.locked lanes) g) s (fun t => (hlOf t d).st = 3 ∧ (hlOf t d).lanes = (if lanes = 0xFF then 0xFF else 0x0F)
      ∧ (hlOf t d).gen.val = (if g = 0 then (hlOf s d).gen.val else min (hlOf s d).gen.val g.val)
      ∧ (hlOf t d).own = helloBytes s d (freeBytes s 32).1 ∧ messageWaits (hlOf s d) (hlOf t d) 0
      ∧ t = { s with sites := t.sites, free := t.free }) := by
  refine ⟨sendHello (updHl s d (fun h => { h with
      st := 3, gen := Fin.ofNat 3 (if g = 0 then (hlOf s d).gen.val else min (hlOf s d).gen.val g.val)
      lanes := if lanes = 0xFF then 0xFF else 0x0F, failures := 0 })) d, ?_, ?_⟩
  · exact congrArg Host.Outcome.next ((if_neg (by simp [ha, hst])).trans (if_neg (by omega)))
  have hgen : (if g = 0 then (hlOf s d).gen.val else min (hlOf s d).gen.val g.val) < 3 := by split <;> omega
  generalize (if g = 0 then (hlOf s d).gen.val else min (hlOf s d).gen.val g.val) = gen at hgen ⊢
  generalize hu : updHl s d _ = u
  have hw : hlOf u d = { hlOf s d with st := 3, gen := Fin.ofNat 3 gen, lanes := if lanes = 0xFF then 0xFF else 0x0F, failures := 0 } := by
    rw [← hu, hlOf_updHl_self]
  have hf : onlyPorts s u := by rw [← hu]; rfl
  have hs := hlOf_sendHello (s := u) (n := d) (.inl (by rw [hw]))
  have hfree : (freeBytes u 32).1 = (freeBytes s 32).1 := by rw [← hu]; rfl
  rw [helloBytes_congr hf, hfree, hw] at hs
  dsimp only
  rw [hs]
  refine ⟨rfl, rfl, Nat.mod_eq_of_lt hgen, rfl, sentOn_waits _ 0 (helloBytes_ne_nil s d _), ?_⟩
  rw [sendHello_sites, ← hu]
  rfl
theorem hlTrain_failed {g : Fin 3} (ha : hlAlive s d = true) (hst : (hlOf s d).st = 2) (hg : 2 ≤ (hlOf s d).gen.val) :
    answers (.hlTrain d .failed g) s (fun t => onlyHl s t d ∧ hlOf t d = { hlOf s d with gen := 1, failures := 0 }) :=
  ⟨_, congrArg Host.Outcome.next ((if_neg (by simp [ha, hst])).trans (if_neg (by omega))), onlyHl_updHl .., hlOf_updHl_self ..⟩
theorem hlTrain_down {obs : TrainObs} {g : Fin 3} (ha : hlAlive s d = true) (hst : (hlOf s d).st = 2)
    (h : (∃ lanes, obs = .locked lanes ∧ laneCount lanes < 4) ∨ obs = .failed ∧ (hlOf s d).gen.val ≤ 1) :
    answers (.hlTrain d obs g) s (fun t => hlWentDown s t d) := by
  refine ⟨hlGoDown s d, congrArg Host.Outcome.next ((if_neg (by simp [ha, hst])).trans ?_), hlGoDown_wentDown s d⟩
  rcases h with ⟨lanes, rfl, hl⟩ | ⟨rfl, hg⟩
  · exact if_pos hl
  · exact if_pos hg

/-! Authentication. -/

/-- The peer that a hello names has this module's version. -/
def helloSame (s : State) (b : Bytes) : Bool :=
  sliceB (peerFields b) 16 40 == leBytes 8 Config.idrev.toNat ++ sliceB (fwDigest s) 0 32
theorem sameVersion_peer {n : Nat} {b : Bytes} : sameVersion (updHl s n (fun h => { h with peer := peerFields b })) n = helloSame s b := by
  rw [sameVersion, hlOf_updHl_self]
  rfl

/-- The first hello of a peer that verifies brings the link up, in PIPELINE where the versions agree. -/
theorem hlHello_up {v : State} {n : Nat} {b : Bytes} (hv : onlyHl s v n) :
    let t := hlUp (updHl v n (fun h => { h with peer := peerFields b })) n
      (if sameVersion (updHl v n (fun h => { h with peer := peerFields b })) n then 5 else 4)
    (hlOf t n).st = (if helloSame s b then 5 else 4) ∧ (hlOf t n).peer = peerFields b ∧ raised s t 0x7030 := by
  have hs : helloSame v b = helloSame s b := by
    rw [hv.sites_eq]
    rfl
  obtain ⟨hw, hr⟩ := hlUp_effect (updHl v n (fun h => { h with peer := peerFields b })) n
    (if sameVersion (updHl v n (fun h => { h with peer := peerFields b })) n then 5 else 4)
  rw [sameVersion_peer, hs] at hw hr ⊢
  dsimp only
  rw [hw]
  refine ⟨by dsimp only; split <;> rfl, by rw [hlOf_updHl_self], hr.of_events ?_⟩
  rw [hv.sites_eq]
  rfl

/-- A hello whose form and flags are good, by the port's state. -/
theorem exec_hlHello_good {b chain sig : Bytes} (hst : (hlOf s d).st = 3 ∨ (hlOf s d).st = 4 ∨ (hlOf s d).st = 5)
    (hb : helloForm b = true) (hf : helloFlagsOf b % 8 = 0) : exec (.hlHello d b chain sig) s = .next (
      if (hlOf s d).st = 3 then
        let v := if s.sec.idReady then hlSend s d 0 (ownChain s ++ identSign (hlauTag ++ b ++ (hlOf s d).own)) else s
        if !v.sec.idReady || !peerAuthentic v d b chain sig then hlAuthFail v d
        else hlUp (updHl v d (fun h => { h with peer := peerFields b })) d
          (if sameVersion (updHl v d (fun h => { h with peer := peerFields b })) d then 5 else 4)
      else redecide (updHl s d (fun h => { h with peer := peerFields b })) d) := by
  have hno : ((hlOf s d).st ≠ 3 && (hlOf s d).st ≠ 4 && (hlOf s d).st ≠ 5) = false := by rcases hst with h | h | h <;> simp [h]
  refine congrArg Host.Outcome.next ((if_neg (by rw [hno]; decide)).trans ((if_neg (by simp [hb])).trans (if_neg (by simp [hf]))))

/-- The first hello of a peer: the link comes up, or the authentication has failed. -/
theorem hlHello_first {b chain sig : Bytes} (hst : (hlOf s d).st = 3) (hb : helloForm b = true) (hf : helloFlagsOf b % 8 = 0) :
    ∃ t, exec (.hlHello d b chain sig) s = .next t
      ∧ (s.sec.idReady = true → peerAuthentic s d b chain sig = true → (hlOf t d).st = (if helloSame s b then 5 else 4)
        ∧ (hlOf t d).peer = peerFields b ∧ raised s t 0x7030)
      ∧ (s.sec.idReady = false ∨ peerAuthentic s d b chain sig = false → hlCounted s t d 1 ∧ raised s t 0x8040 ∧ raised s t 0x7031
        ∧ (hlOf t d).st = (if (recent s 60 (hlOf s d).authTimes).length < 2 then 0 else 7)) := by
  rw [exec_hlHello_good (.inl hst) hb hf, if_pos hst]
  refine ⟨_, rfl, ?_⟩
  generalize hv : (if s.sec.idReady then hlSend s d 0 (ownChain s ++ identSign (hlauTag ++ b ++ (hlOf s d).own)) else s) = v
  have hk : onlyHl s v d ∧ ∃ l x, hlOf v d = { hlOf s d with unacked := l, txSeq := x } := by
    rw [← hv]
    split
    · exact hlSend_effect ..
    · exact ⟨onlyHl_refl s d, _, _, rfl⟩
  obtain ⟨ho, l, x, hw⟩ := hk
  have hsec : v.sec.idReady = s.sec.idReady := by rw [ho.sites_eq]
  have hau : peerAuthentic v d b chain sig = peerAuthentic s d b chain sig := by simp [peerAuthentic, hw]
  have hev : v.events = s.events := by rw [ho.sites_eq]
  have hts : recent v 60 (hlOf v d).authTimes = recent s 60 (hlOf s d).authTimes := by rw [hw, ho.sites_eq]; rfl
  simp only [hsec, hau]
  refine ⟨fun h1 h2 => ?_, fun h => ?_⟩
  · rw [if_neg (by simp [h1, h2])]
    exact hlHello_up ho
  · rw [if_pos (by simpa using h)]
    obtain ⟨hc, h8, h7, hst⟩ := hlAuthFail_effect v d
    exact ⟨hc.of_viols (by rw [hw]), h8.of_events hev, h7.of_events hev, by rw [hst, hts]⟩

theorem sitePart_updHl (s : State) (n e : Nat) (f : HlState → HlState) : sitePart (updHl s n f) e = sitePart s e := by
  have h : dreg (updHl s n f) e 0x100 = dreg s e 0x100 := by
    rw [dreg, updHl, siteSt_updSite]
    split
    · next h => rw [h, dreg]
    · rfl
  simp only [sitePart, h]

/-- A later hello decides the link's state again. -/
theorem redecide_transit {b : Bytes} (hst : (hlOf s n).st = 4) : let t := redecide (updHl s n (fun h => { h with peer := peerFields b })) n
    (hlOf t n).st = (if helloSame s b then 5 else 4) ∧ (hlOf t n).peer = peerFields b ∧ (helloSame s b = true → raised s t 0x7030) := by
  have h4 : (hlOf (updHl s n (fun h => { h with peer := peerFields b })) n).st = 4 := by rw [hlOf_updHl_self]; exact hst
  simp only [redecide, h4, if_true, sameVersion_peer]
  cases helloSame s b with
  | true =>
    obtain ⟨hw, hr⟩ := hlUp_effect (updHl s n (fun h => { h with peer := peerFields b })) n 5
    exact ⟨by simp only [if_true, hw]; rfl, by simp [hw], fun _ => hr.of_events rfl⟩
  | false => exact ⟨h4, by simp, by simp⟩
theorem redecide_pipeline {b : Bytes} (hst : (hlOf s n).st = 5) : let t := redecide (updHl s n (fun h => { h with peer := peerFields b })) n
    (hlOf t n).peer = peerFields b
      ∧ (helloSame s b = true → (hlOf t n).st = 5 ∧ (hlOf t n).draining = false)
      ∧ (helloSame s b = false → hopsCross s n = true → (hlOf t n).st = 5 ∧ (hlOf t n).draining = true)
      ∧ (helloSame s b = false → hopsCross s n = false → (hlOf t n).st = 4 ∧ raised s t 0x7033) := by
  have h5 : (hlOf (updHl s n (fun h => { h with peer := peerFields b })) n).st = 5 := by rw [hlOf_updHl_self]; exact hst
  have hc : hopsCross (updHl s n (fun h => { h with peer := peerFields b })) n = hopsCross s n := by
    simp only [hopsCross, hlOf_updHl_self, sitePart_updHl]
    rfl
  simp only [redecide, h5, sameVersion_peer, hc]
  rw [if_neg (by decide), if_pos trivial]
  cases helloSame s b with
  | true => simp [hst]
  | false =>
    cases hopsCross s n with
    | true => simp [hst]
    | false =>
      obtain ⟨hw, hr⟩ := hlUp_effect (updHl s n (fun h => { h with peer := peerFields b })) n 4
      have h7 := raised_hlEvent (hlUp (updHl s n (fun h => { h with peer := peerFields b })) n 4) n 0x7033 0 []
      refine ⟨by simp [hw], by simp, by simp, fun _ _ => ⟨by simp [hw], ?_⟩⟩
      exact (h7.after hr.earlier).of_events rfl

/-! RETRAIN and release. -/

/-- How a retrain of a port ends that is in RETRAIN. -/
def hlRetrainEnds (s : State) (n : Nat) (good : Bool) : State :=
  if (hlOf s n).st ≠ 6 then s
  else if good then updHl (hlUp s n (hlOf s n).before.val) n (fun x => { x with draining := (hlOf s n).draining })
  else hlGoDown s n
theorem exec_hlRetrain (d : HlPort) (good : Bool) (s : State) : exec (.hlRetrain d good) s
    = .next (hlRetrainEnds (if (hlOf s d).st = 4 || (hlOf s d).st = 5 then hlRetrainNow s d else s) d good) := rfl
/-- It is back in the state before, or DOWN. -/
def hlRetrained (s t : State) (n : Nat) (good : Bool) (st : Fin 8) (draining : Bool) : Prop :=
  (good = true → (hlOf t n).st = st ∧ (hlOf t n).draining = draining ∧ raised s t 0x7030) ∧ (good = false → hlWentDown s t n)
theorem hlRetrainEnds_effect {good : Bool} (h : (hlOf s n).st = 6) :
    hlRetrained s (hlRetrainEnds s n good) n good (hlOf s n).before (hlOf s n).draining
      ∧ (hlOf (hlRetrainEnds s n good) n).viols = (hlOf s n).viols ∧ s.events <+: (hlRetrainEnds s n good).events := by
  unfold hlRetrainEnds
  rw [if_neg (by simp [h])]
  cases good with
  | true =>
    obtain ⟨hw, hr⟩ := hlUp_effect s n (hlOf s n).before.val
    have hst : (Fin.ofNat 8 (hlOf s n).before.val) = (hlOf s n).before := by simp
    refine ⟨⟨fun _ => ⟨?_, ?_, hr.later (List.prefix_refl _)⟩, nofun⟩, ?_, hr.earlier⟩ <;> simp [hw]
  | false =>
    obtain ⟨hh, -, hr⟩ := hlGoDown_effect s n
    exact ⟨⟨nofun, fun _ => hlGoDown_wentDown s n⟩, (congrArg HlState.viols hh :), hr.earlier⟩
theorem hlRetrained.of_events {good : Bool} {st : Fin 8} {dr : Bool} (h : hlRetrained t u n good st dr) (he : s.events <+: t.events) :
    hlRetrained s u n good st dr := by
  obtain ⟨hup, hdown⟩ := h
  refine ⟨fun hg => ?_, fun hg => (hdown hg).of_events he⟩
  obtain ⟨h1, h2, hr⟩ := hup hg
  exact ⟨h1, h2, hr.after he⟩

/-- HL_RETRAIN of a port in TRANSIT or PIPELINE ends at once where the taps are not WARM or few retrains came before. -/
theorem hlRetrain_ends {good : Bool} (hst : (hlOf s d).st = 4 ∨ (hlOf s d).st = 5)
    (hw : (hlOf s d).tapsWarm = false ∨ (recent s 60 (hlOf s d).retrainTimes).length < 2) :
    answers (.hlRetrain d good) s (fun t => hlRetrained s t d good (hlOf s d).st (hlOf s d).draining ∧ raised s t 0x7032
      ∧ ((hlOf s d).tapsWarm = true → hlCounted s t d 5)) := by
  have hnow : ((hlOf (hlRetrainNow s d) d).st = 6 ∧ (hlOf (hlRetrainNow s d) d).before = (hlOf s d).st
      ∧ (hlOf (hlRetrainNow s d) d).draining = (hlOf s d).draining) ∧ raised s (hlRetrainNow s d) 0x7032
      ∧ ((hlOf s d).tapsWarm = true → hlCounted s (hlRetrainNow s d) d 5) := by
    cases hwarm : (hlOf s d).tapsWarm with
    | true =>
      obtain ⟨hc, hr, h6, -⟩ := hlRetrainNow_warm hwarm
      exact ⟨h6 (by simpa [hwarm] using hw), hr, fun _ => hc⟩
    | false =>
      rw [hlRetrainNow_cold hwarm, hlOf_hlRetraining]
      exact ⟨⟨rfl, rfl, rfl⟩, raised_hlRetraining s d, nofun⟩
  obtain ⟨⟨h6, hb, hd⟩, hr, hc⟩ := hnow
  obtain ⟨ho, hv, he⟩ := hlRetrainEnds_effect (good := good) h6
  rw [hb, hd] at ho
  refine ⟨_, exec_hlRetrain d good s, ?_⟩
  rw [if_pos (by rcases hst with h | h <;> simp [h])]
  exact ⟨ho.of_events hr.earlier, hr.later he, fun h => (hc h).viols hv⟩
theorem hlRetrain_quarantined {good : Bool} (hst : (hlOf s d).st = 4 ∨ (hlOf s d).st = 5) (hw : (hlOf s d).tapsWarm = true)
    (hl : 2 ≤ (recent s 60 (hlOf s d).retrainTimes).length) :
    answers (.hlRetrain d good) s (fun t => (hlOf t d).st = 7 ∧ hlCounted s t d 5 ∧ raised s t 0x7032 ∧ raised s t 0x7035) := by
  refine ⟨_, exec_hlRetrain d good s, ?_⟩
  obtain ⟨hc, hr, -, h2⟩ := hlRetrainNow_warm hw
  obtain ⟨h7, hr7⟩ := h2 hl
  rw [if_pos (by rcases hst with h | h <;> simp [h]), hlRetrainEnds, if_pos (by rw [h7]; decide)]
  exact ⟨h7, hc, hr, hr7⟩

theorem hlLeaveQuarantine_effect (s : State) (n : Nat) : onlyHl s (hlLeaveQuarantine s n) n
    ∧ hlOf (hlLeaveQuarantine s n) n = { hlOf s n with st := 1, held := false } := ⟨onlyHl_updHl .., hlOf_updHl_self ..⟩

theorem leBytes_one_toNat (b : Byte) : leBytes 1 b.toNat = [b] := by simp [leBytes, Nat.mod_eq_of_lt b.isLt]
/-- HL_PORT_RELEASE takes a port out of quarantine. -/
theorem hlPortRelease_writes {req : DapReq} {port : Byte} {se : Session} (hw : canWrite s req 0x4D80 4 [port] se) :
    writes (.hlPortRelease req port) s req 0x4D80 4 [port] se (fun w t =>
      (63 < port.toNat → answered t req stRange [] ∧ t.sites = s.sites)
      ∧ (port.toNat ≤ 63 → (hlOf s port.toNat).st = 7 → onlyHl w t port.toNat
        ∧ hlOf t port.toNat = { hlOf s port.toNat with st := 1, held := false })
      ∧ (port.toNat ≤ 63 → (hlOf s port.toNat).st ≠ 7 → t = w)) := by
  have hi : exec (.hlPortRelease req port) s = .next (dapWrite s req 0x4D80 4 [port]
      (fun _ _ => if 63 < port.toNat then stRange else stOk)
      (fun _ s => if (hlOf s port.toNat).st ≠ 7 then s else hlLeaveQuarantine s port.toNat)) := by
    rw [← leBytes_one_toNat port]
    rfl
  have hg : hlOf (granted s req 0x4D80 4 [port] se) port.toNat = hlOf s port.toNat := by
    obtain ⟨h, -⟩ := granted_effect hw
    rw [hlOf, h, hlOf]
    rfl
  refine writes_of hw hi (fun hok => ?_) ?_ fun st t hst hne ha hans => ?_
  · have hr : ¬ 63 < port.toNat := fun h => absurd hok (by rw [if_pos h]; decide)
    refine ⟨fun h => absurd h hr, fun _ h7 => ?_, fun _ h7 => ?_⟩
    · rw [if_neg (by rw [hg]; simpa using h7), ← hg]
      exact hlLeaveQuarantine_effect ..
    · rw [if_pos (by rw [hg]; exact h7)]
  · split <;> decide
  · have hr : 63 < port.toNat := by
      by_contra h
      exact hne (hst ▸ if_neg h)
    rw [if_pos hr] at hst
    exact ⟨fun _ => ⟨hst ▸ hans, by rw [ha]⟩, fun h => absurd h (by omega), fun h => absurd h (by omega)⟩
end

/-- Settles O59: the port's states command by command. -/
theorem heliostatPortsChangeState : Obligations.HeliostatPortsChangeState := by
  unfold Obligations.HeliostatPortsChangeState
  refine ⟨fun d lanes s => ⟨fun h => ?_, fun ha hst hl => ?_⟩, fun d obs g s => ⟨fun h => ?_, fun ha hst => ?_⟩,
    fun d b chain sig s => ⟨fun h3 h4 h5 => ?_, fun hst => ⟨fun hb => ?_, fun hb hf => ?_, fun hb hf => ?_⟩⟩,
    fun d s => ?_, fun d good s => ?_, fun req port se s hw => hlPortRelease_writes hw⟩
  · exact congrArg Host.Outcome.next (if_pos (by rcases h with h | h | h <;> simp [h]))
  · exact ⟨_, congrArg Host.Outcome.next (if_neg (by simp [ha]; omega)), onlyHl_updHl .., hlOf_updHl_self ..⟩
  · exact congrArg Host.Outcome.next (if_pos (by rcases h with h | h <;> simp [h]))
  · exact ⟨fun lanes ho hl => ho ▸ hlTrain_locked ha hst hl, fun lanes ho hl => hlTrain_down ha hst (.inl ⟨lanes, ho, hl⟩),
      fun ho hg => hlTrain_down ha hst (.inr ⟨ho, hg⟩), fun ho hg => ho ▸ hlTrain_failed ha hst hg⟩
  · exact congrArg Host.Outcome.next (if_pos (by simp [h3, h4, h5]))
  · exact ⟨_, congrArg Host.Outcome.next ((if_neg (by rcases hst with h | h | h <;> simp [h])).trans (if_pos (by simp [hb]))),
      hlViolation_effect s d 0⟩
  · exact ⟨_, congrArg Host.Outcome.next ((if_neg (by rcases hst with h | h | h <;> simp [h])).trans
      ((if_neg (by simp [hb])).trans (if_pos hf))), hlGoDown_wentDown s d⟩
  · refine ⟨fun h3 => hlHello_first h3 hb hf, fun h4 => ?_, fun h5 => ?_⟩
    · refine ⟨_, ?_, redecide_transit h4⟩
      rw [exec_hlHello_good hst hb hf, if_neg (by rw [h4]; decide)]
    · refine ⟨_, ?_, redecide_pipeline h5⟩
      rw [exec_hlHello_good hst hb hf, if_neg (by rw [h5]; decide)]
  · refine ⟨fun h => ?_, fun h0 h7 => ?_, fun h => ?_, fun hst ht => ?_, fun h => ?_, fun h7 hh => ?_⟩
    · exact congrArg Host.Outcome.next (if_pos (by rcases h with h | h <;> simp [h]))
    · exact ⟨_, congrArg Host.Outcome.next (if_neg (by simp [h0, h7])), hlGoDown_wentDown s d⟩
    · exact congrArg Host.Outcome.next (if_pos (by rcases h with h | h <;> simp [h]))
    · exact ⟨_, congrArg Host.Outcome.next (if_neg (by rcases hst with h | h <;> simp [h, ht])), onlyHl_updHl .., hlOf_updHl_self ..⟩
    · exact congrArg Host.Outcome.next (if_pos (by rcases h with h | h <;> simp [h]))
    · obtain ⟨ho, hw⟩ := hlLeaveQuarantine_effect s d
      exact ⟨_, congrArg Host.Outcome.next (if_neg (by simp [h7, hh])), ho, hw.trans (by rw [hh])⟩
  · refine ⟨fun h4 h5 h6 => ?_, fun h6 => ⟨_, exec_hlRetrain d good s, ?_⟩, hlRetrain_ends, hlRetrain_quarantined⟩
    · rw [leaves, exec_hlRetrain, if_neg (by simp [h4, h5]), hlRetrainEnds, if_pos h6]
    · rw [if_neg (by rw [h6]; decide)]
      obtain ⟨ho, -⟩ := hlRetrainEnds_effect (good := good) h6
      exact ho

end Sys2Proof.Machine
end

section
/-! PROOF. Heliostat flits and pipeline hops (R523, R542, R544, R546 to R549). -/

namespace Sys2Proof.Machine

section
variable {s t u : State} {d n : Nat}

/-! Registers and ports of a site. -/

theorem dreg_updHl (s : State) (d e off : Nat) (f : HlState → HlState) : dreg (updHl s d f) e off = dreg s e off := by
  rw [dreg, updHl, siteSt_updSite]
  split
  · next h => rw [h, dreg]
  · rfl
theorem onlySite_updHl (s : State) (d : Nat) (f : HlState → HlState) : onlySite s (updHl s d f) d := onlySite_updSite ..
theorem onlySite_bumpHlErr (s : State) (d hi lo : Nat) : onlySite s (bumpHlErr s d hi lo) d := by
  unfold bumpHlErr setDreg
  exact onlySite_updSite ..
theorem dreg_lt (s : State) (d off : Nat) : dreg s d off < 2 ^ 64 := BitVec.isLt _
/-- A counter of the link's errors counts in its own field. -/
theorem dreg_bumpHlErr {hi lo : Nat} (h : lo ≤ hi) (hh : hi < 64) :
    dreg (bumpHlErr s d hi lo) d 0x508 = bumpField (dreg s d 0x508) hi lo 1 :=
  (dreg_setDreg_self ..).trans (Nat.mod_eq_of_lt (setBits_lt (dreg_lt ..) h hh _))

/-! Acknowledgements. -/

@[simp] theorem hlAcked_unacked (h : HlState) (ack : Nat) : (hlAcked h ack).unacked = unackedAfter ack h.unacked := by
  unfold hlAcked
  dsimp only
  split
  · rfl
  · next hl => exact (unackedAfter_of_length hl).symm
/-- An acknowledgement frees flits, and may end a replay. -/
theorem hlAcked_eq (h : HlState) (ack : Nat) : ∃ r, hlAcked h ack = { h with unacked := unackedAfter ack h.unacked, replays := r } := by
  unfold hlAcked
  dsimp only
  split
  · exact ⟨0, rfl⟩
  · next hl => exact ⟨h.replays, by rw [unackedAfter_of_length hl]⟩

theorem chainAcked_frame (s : State) (d : Nat) : chainAcked s d = { s with stw := (chainAcked s d).stw } := by
  unfold chainAcked
  split
  · rfl
  · dsimp only
    split <;> rfl
/-- The credits of the chain change the ports alone, and of a port whether it stalls. -/
theorem setChainStall_effect (s : State) : setChainStall s = { s with sites := (setChainStall s).sites }
    ∧ ∀ e, ∃ b, hlOf (setChainStall s) e = { hlOf s e with chainStall := b } := by
  refine foldl_rel (R := fun s t => t = { s with sites := t.sites } ∧ ∀ e, ∃ b, hlOf t e = { hlOf s e with chainStall := b })
    (fun s => ⟨rfl, fun e => ⟨_, rfl⟩⟩) (fun {s t u} h g => ⟨by rw [g.1, h.1], fun e => ?_⟩) (fun t k => ?_) _ s
  · obtain ⟨b, hb⟩ := h.2 e
    obtain ⟨c, hc⟩ := g.2 e
    exact ⟨c, by rw [hc, hb]⟩
  · split
    · exact ⟨rfl, fun e => ⟨_, rfl⟩⟩
    · refine ⟨rfl, fun e => ?_⟩
      rw [hlOf_updHl]
      split
      · next h => exact ⟨_, by rw [h]⟩
      · exact ⟨_, rfl⟩

/-- A port that has heard an acknowledgement. -/
def ackHeard (s : State) (d ack : Nat) : State := setChainStall (chainAcked (updHl s d (fun h => hlAcked h ack)) d)
theorem ackHeard_effect (s : State) (d ack : Nat) : ackHeard s d ack = { s with sites := (ackHeard s d ack).sites, stw := (ackHeard s d ack).stw }
    ∧ ∃ r b, hlOf (ackHeard s d ack) d = { hlOf s d with unacked := unackedAfter ack (hlOf s d).unacked, replays := r, chainStall := b } := by
  have hc := chainAcked_frame (updHl s d (fun h => hlAcked h ack)) d
  obtain ⟨hs, hb⟩ := setChainStall_effect (chainAcked (updHl s d (fun h => hlAcked h ack)) d)
  obtain ⟨b, hb⟩ := hb d
  obtain ⟨r, hr⟩ := hlAcked_eq (hlOf s d) ack
  refine ⟨by unfold ackHeard; rw [hs, hc]; rfl, r, b, ?_⟩
  have hw : hlOf (chainAcked (updHl s d (fun h => hlAcked h ack)) d) d = hlOf (updHl s d (fun h => hlAcked h ack)) d := by
    rw [hc]
    rfl
  rw [ackHeard, hb, hw, hlOf_updHl_self, hr]
theorem hlClassFault_congr (h : t = { s with sites := t.sites, stw := t.stw }) (hst : (hlOf t d).st = (hlOf s d).st) (cls : Nat) :
    hlClassFault t d cls = hlClassFault s d cls := by
  unfold hlClassFault
  rw [hst]
  rw [h]
  rfl

/-! Flits. -/

section
variable {f : Bytes} {d : HlPort} (hl : f.length = 256) (hst : (hlOf s d).st = 3 ∨ (hlOf s d).st = 4 ∨ (hlOf s d).st = 5)
include hl hst

theorem exec_hlFlit : exec (.hlFlit d f) s = .next (
    if !flitCrc f then hlAnswer (bumpHlErr s d 63 32) d true
    else if 3 < flKind f || 3 < flClass f then hlViolation s d 0
    else
      let v := ackHeard s d (flAck f)
      if flKind f = 3 then hlReplay v d
      else if flKind f ≠ 1 then v
      else if flSeq f ≠ (hlOf v d).rxSeq.toNat then hlAnswer v d true
      else
        let w := hlAnswer (updHl v d (fun h => { h with rxSeq := h.rxSeq + 1 })) d false
        match hlClassFault w d (flClass f) with
        | some k => hlViolation w d k
        | none => w) := by
  have hno : ((hlOf s d).st ≠ 3 && (hlOf s d).st ≠ 4 && (hlOf s d).st ≠ 5) = false := by rcases hst with h | h | h <;> simp [h]
  exact (if_neg (by simp [hl])).trans (congrArg Host.Outcome.next (if_neg (by rw [hno]; decide)))

theorem hlFlit_crc (hc : flitCrc f = false) : answers (.hlFlit d f) s (fun t => onlySite s t d
    ∧ hlOf t d = { hlOf s d with lastAck := some (true, (hlOf s d).rxSeq - 1) } ∧ dreg t d 0x508 = bumpField (dreg s d 0x508) 63 32 1) := by
  refine ⟨_, exec_hlFlit hl hst, ?_⟩
  rw [if_pos (by simp [hc])]
  exact ⟨(onlySite_bumpHlErr ..).trans (onlySite_updHl ..), by simp [hlAnswer], by rw [hlAnswer, dreg_updHl, dreg_bumpHlErr (by decide) (by decide)]⟩

theorem hlFlit_heard (hc : flitCrc f = true) (hk : flKind f = 2 ∨ flKind f = 1 ∧ flSeq f ≠ (hlOf s d).rxSeq.toNat) (hcl : flClass f ≤ 3) :
    answers (.hlFlit d f) s (fun t => (hlOf t d).rxSeq = (hlOf s d).rxSeq ∧ (hlOf t d).st = (hlOf s d).st
      ∧ (flKind f = 1 → (hlOf t d).lastAck = some (true, (hlOf s d).rxSeq - 1))
      ∧ (hlOf t d).unacked = unackedAfter (flAck f) (hlOf s d).unacked ∧ t = { s with sites := t.sites, stw := t.stw }) := by
  refine ⟨_, exec_hlFlit hl hst, ?_⟩
  obtain ⟨hf, r, b, hw⟩ := ackHeard_effect s d (flAck f)
  rw [if_neg (by simp [hc]), if_neg (by rcases hk with h | ⟨h, -⟩ <;> simp [h, hcl])]
  dsimp only
  generalize ackHeard s d (flAck f) = v at hf hw
  rcases hk with h | ⟨h, hq⟩
  · rw [if_neg (by omega), if_pos (by omega), hw]
    exact ⟨rfl, rfl, fun h1 => by omega, rfl, hf⟩
  · rw [if_neg (by omega), if_neg (by omega), if_pos (by rw [hw]; exact hq)]
    rw [hlAnswer, hlOf_updHl_self, hw]
    refine ⟨rfl, rfl, fun _ => rfl, rfl, ?_⟩
    conv_lhs => rw [hf]
    rfl

/-- A flit in order is acknowledged; where its class may not be carried, it is a violation too. -/
theorem hlFlit_inOrder (hc : flitCrc f = true) (hk : flKind f = 1) (hcl : flClass f ≤ 3) (hq : flSeq f = (hlOf s d).rxSeq.toNat) :
    ∃ w, exec (.hlFlit d f) s = .next (match hlClassFault s d (flClass f) with | some k => hlViolation w d k | none => w)
      ∧ (hlOf w d).rxSeq = (hlOf s d).rxSeq + 1 ∧ (hlOf w d).st = (hlOf s d).st ∧ (hlOf w d).lastAck = some (false, (hlOf s d).rxSeq)
      ∧ (hlOf w d).unacked = unackedAfter (flAck f) (hlOf s d).unacked ∧ (hlOf w d).viols = (hlOf s d).viols
      ∧ w = { s with sites := w.sites, stw := w.stw } := by
  obtain ⟨hf, r, b, hw⟩ := ackHeard_effect s d (flAck f)
  rw [exec_hlFlit hl hst, if_neg (by simp [hc]), if_neg (by simp [hk, hcl])]
  dsimp only
  generalize ackHeard s d (flAck f) = v at hf hw
  rw [if_neg (by omega), if_neg (by omega), if_neg (by rw [hw]; simpa using hq)]
  generalize hv : hlAnswer (updHl v d (fun h => { h with rxSeq := h.rxSeq + 1 })) d false = w
  have hh : hlOf w d = { hlOf s d with
      unacked := unackedAfter (flAck f) (hlOf s d).unacked, replays := r, chainStall := b
      rxSeq := (hlOf s d).rxSeq + 1, lastAck := some (false, (hlOf s d).rxSeq) } := by
    rw [← hv]
    simp [hlAnswer, hw]
  have hfw : w = { s with sites := w.sites, stw := w.stw } := by
    rw [← hv]
    conv_lhs => rw [hf]
    rfl
  rw [hlClassFault_congr hfw (by rw [hh])]
  exact ⟨w, rfl, by rw [hh], by rw [hh], by rw [hh], by rw [hh], by rw [hh], hfw⟩
end

/-! Replays. -/

/-- A port whose replay has been counted. -/
def hlReplayCounted (s : State) (d : Nat) : State :=
  bumpHlErr (updHl s d (fun h => { h with replays := h.replays + 1, replayTimes := recent s 1 h.replayTimes ++ [s.units] })) d 31 16
theorem hlReplay_some (h : (hlOf s d).unacked ≠ []) : hlReplay s d = let v := hlReplayCounted s d
    if ((hlOf v d).st = 4 || (hlOf v d).st = 5) && (8 ≤ (hlOf v d).replays || 1024 < (hlOf v d).replayTimes.length)
    then hlRetrainNow v d else v := if_neg (by simpa using h)
theorem hlReplayCounted_effect (s : State) (d : Nat) : onlySite s (hlReplayCounted s d) d
    ∧ hlOf (hlReplayCounted s d) d
      = { hlOf s d with replays := (hlOf s d).replays + 1, replayTimes := recent s 1 (hlOf s d).replayTimes ++ [s.units] }
    ∧ dreg (hlReplayCounted s d) d 0x508 = bumpField (dreg s d 0x508) 31 16 1 := by
  unfold hlReplayCounted
  exact ⟨(onlySite_updHl ..).trans (onlySite_bumpHlErr ..), by simp, by rw [dreg_bumpHlErr (by decide) (by decide), dreg_updHl]⟩
theorem hlReplay_counts (hu : (hlOf s d).unacked ≠ []) (h : (hlOf s d).st = 3 ∨ (((hlOf s d).st = 4 ∨ (hlOf s d).st = 5)
    ∧ (hlOf s d).replays < 7 ∧ (recent s 1 (hlOf s d).replayTimes).length < 1024)) : hlReplay s d = hlReplayCounted s d := by
  obtain ⟨-, hw, -⟩ := hlReplayCounted_effect s d
  rw [hlReplay_some hu]
  refine if_neg ?_
  rw [hw]
  rcases h with h | ⟨h, hr, hn⟩
  · simp [h]
  · simp only [List.length_append, List.length_singleton, Bool.and_eq_true, Bool.or_eq_true, decide_eq_true_eq]
    omega
/-- The eighth replay without progress is a retrain. -/
theorem hlReplay_retrains (hu : (hlOf s d).unacked ≠ []) (hst : (hlOf s d).st = 4 ∨ (hlOf s d).st = 5) (hr : 7 ≤ (hlOf s d).replays)
    (hc : (hlOf s d).tapsWarm = false) : let t := hlReplay s d
    (hlOf t d).st = 6 ∧ (hlOf t d).before = (hlOf s d).st ∧ (hlOf t d).replays = 0 ∧ (hlOf t d).unacked = (hlOf s d).unacked
      ∧ raised s t 0x7032 := by
  obtain ⟨-, hw, -⟩ := hlReplayCounted_effect s d
  have hn : hlReplay s d = hlRetraining (hlReplayCounted s d) d := by
    rw [hlReplay_some hu, ← hlRetrainNow_cold (by rw [hw]; exact hc)]
    refine if_pos ?_
    rw [hw]
    simp only [Bool.and_eq_true, Bool.or_eq_true, decide_eq_true_eq]
    omega
  dsimp only
  rw [hn, hlOf_hlRetraining, hw]
  exact ⟨rfl, rfl, rfl, rfl, (raised_hlRetraining _ d).of_events rfl⟩

/-! Pipeline hops. -/

/-- Steps of a wavefront end for each of its requests. -/
theorem reqOf_updReqs (f : Request → Request) : ∀ (l : List Nat) (s : State), l.Nodup → ∀ h,
    reqOf (l.foldl (fun s k => updReq s k f) s) h = if h ∈ l then (reqOf s h).map f else reqOf s h
  | [], s, _, h => by simp
  | k :: l, s, hd, h => by
    obtain ⟨hk, hd⟩ := List.nodup_cons.1 hd
    rw [List.foldl_cons, reqOf_updReqs f l _ hd, reqOf_updReq]
    by_cases e : h = k
    · subst e
      simp [hk]
    · simp [e]
theorem updReq_frame (s : State) (h : Nat) (f : Request → Request) : updReq s h f = { s with reqs := (updReq s h f).reqs } := by
  unfold updReq
  split <;> rfl
/-- A wavefront of decode segments alone changes its requests alone. -/
theorem finishWave_decode {x : RegionRun} (hp : x.prefill = []) : finishWave s x = { s with reqs := (finishWave s x).reqs }
    ∧ finishWave s x = (x.decode.map (fun e => e.slot)).foldl (fun s k => updReq s k finishDecode) s := by
  unfold finishWave
  rw [hp, List.foldl_map]
  exact ⟨foldl_rel (R := fun s t => t = { s with reqs := t.reqs }) (fun _ => rfl) (fun h g => by rw [g, h]) (fun _ _ => updReq_frame ..) _ s, rfl⟩
theorem endStep_reqs {p r : Nat} {quiet : Bool} {j : Job} (hb : isBino s p = false) : (endStep s p r quiet j).reqs = s.reqs := by
  obtain ⟨hu, -⟩ := skipShadows_frame s (regionCores s p r)
  have bino : ∀ f, isBino (updRegion (skipShadows s (regionCores s p r)) p r f) p = false := fun f => by
    rw [← hb]
    exact congrArg (fun o => getN _ o _ == p && getN _ o _ != 0xFF) hu.objs_eq
  have he : endStep s p r quiet j = updRegion (skipShadows s (regionCores s p r)) p r (fun x => { x with
      busy := false, decode := [], prefill := [], pads := 0, replays := 0, trips := 0, trapped := [], lastFault := none }) := by
    simp only [endStep, bino]
    simp
  rw [he]
  change (skipShadows s (regionCores s p r)).reqs = s.reqs
  rw [hu]

section
variable {d : HlPort} {p : PartId} {m : W64} {j : Job}

theorem hopOn_carries (h : hopOn s d p = true) : hlCarries s d 0 = true := by
  unfold hopOn hlCarries at h
  unfold hlCarries
  simp only [Bool.and_eq_true, beq_iff_eq] at h
  simp at h ⊢
  omega
theorem hopAckMsg_ne_nil (m : W64) : hopAckMsg m ≠ [] := by simp [hopAckMsg, leBytes]
/-- An acknowledgement of a hop waits on its port. -/
theorem hopAck_sent (h : hopOn s d p = true) : hlSend s d 0 (hopAckMsg m) = updHl s d (fun h => sentOn h 0 (hopAckMsg m)) :=
  hlSend_carried (hopOn_carries h) _

theorem hopOn_job (h : hopOn s d p = true) : ∃ j, jobOf s p = some j := by
  unfold hopOn at h
  split at h
  · next j hj => exact ⟨j, hj⟩
  · simp at h

/-- A handed wavefront at the first region. -/
def handed (s : State) (p : Nat) (m : W64) (ds ps : List (Slot × Nat × Nat)) : State :=
  let seg := fun (e : Slot × Nat × Nat) => Segment.mk e.1.val e.2.1 e.2.2
  updRegion s p 0 (fun x => { x with decode := ds.map seg, prefill := ps.map seg, pads := 0, stepNum := m })
/-- HOP_HANDOFF of a new step lands at the first region, and is acknowledged. -/
theorem hopHandoff_lands {ds ps : List (Slot × Nat × Nat)} (h : hopOn s d p = true) (hn : (hlOf s d).ackedStep ≠ some m)
    (hb : (regionRun s p 0).busy = false) (hw : waveAt (regionRun s p 0) = false) :
    let seg := fun (e : Slot × Nat × Nat) => Segment.mk e.1.val e.2.1 e.2.2
    answers (.hopHandoff d p m ⟨ds, ps⟩) s (fun t => messageWaits (hlOf s d) (hlOf t d) 0 ∧ (hlOf t d).ackedStep = some m
      ∧ (regionRun t p 0).stepNum = m ∧ (regionRun t p 0).decode = ds.map seg ∧ (regionRun t p 0).prefill = ps.map seg
      ∧ (regionRun t p 0).pads = 0 ∧ (∀ r, r ≠ 0 → regionRun t p r = regionRun s p r) ∧ t = { s with sites := t.sites, parts := t.parts }) := by
  intro seg
  obtain ⟨j, hj⟩ := hopOn_job h
  have hi : exec (.hopHandoff d p m ⟨ds, ps⟩) s
      = .next (updHl (hlSend (handed s p m ds ps) d 0 (hopAckMsg m)) d (fun h => { h with ackedStep := some m })) :=
    congrArg Host.Outcome.next ((if_neg (by simp [h])).trans ((if_neg hn).trans (if_neg (by simp [hb, hw]))))
  have hs : hlCarries s d 0 = true := hopOn_carries h
  have hc : hlCarries (handed s p m ds ps) d 0 = true := hs
  rw [hlSend_carried hc] at hi
  have hrun (r : Nat) : regionRun (updHl (updHl (handed s p m ds ps) d (fun h => sentOn h 0 (hopAckMsg m))) d
      (fun h => { h with ackedStep := some m })) p r = regionRun (handed s p m ds ps) p r := rfl
  refine ⟨_, hi, ?_⟩
  dsimp only
  have h0 : regionRun (handed s p m ds ps) p 0 = { regionRun s p 0 with
      decode := ds.map seg, prefill := ps.map seg, pads := 0, stepNum := m } := regionRun_updRegion_self hj 0 _
  rw [hlOf_updHl_self, hlOf_updHl_self, hrun, h0]
  exact ⟨sentOn_waits _ 0 (hopAckMsg_ne_nil m), rfl, rfl, rfl, rfl, rfl,
    fun r hr => (hrun r).trans (regionRun_updRegion_ne hj hr _), rfl⟩

/-- HOP_ACK of the last region's step ends it for its requests. -/
theorem hopAck_ends (hj : jobOf s p = some j) (h : hopOn s d p = true) (hs : (hlOf s d).sentStep = some m)
    (hb : (regionRun s p (hopRegion j)).busy = true) (hm : (regionRun s p (hopRegion j)).stepNum = m)
    (hp : (regionRun s p (hopRegion j)).prefill = []) (hd : ((regionRun s p (hopRegion j)).decode.map (fun e => e.slot)).Nodup)
    (hbino : isBino s p = false) : answers (.hopAck d p m) s (fun t => (regionRun t p (hopRegion j)).busy = false
      ∧ waveAt (regionRun t p (hopRegion j)) = false ∧ memoriesKept s t ∧ ∀ h q, reqOf s h = some q →
        reqOf t h = some (if h ∉ (regionRun s p (hopRegion j)).decode.map (fun e => e.slot) then q else match q.cycle with
          | none => { q with cached := min (q.cached + 1) (rLength q) }
          | some y => { q with cycle := some { y with verified := true } })) := by
  generalize hx : regionRun s p (hopRegion j) = x at hb hm hp hd
  have hi : exec (.hopAck d p m) s = .next (finishWave (endStep s p (hopRegion j) false j) x) := by
    refine congrArg Host.Outcome.next ?_
    simp only [hj]
    rw [if_neg (by simp [h]), if_neg (by simp [hs]), hx, if_neg (by simp [hb, hm])]
  obtain ⟨hidle, hempty, -, hmem, -⟩ := endStep_effect hj hbino (hopRegion j) false j
  obtain ⟨hf, hw⟩ := finishWave_decode (s := endStep s p (hopRegion j) false j) hp
  have hreqs : ∀ k, reqOf (endStep s p (hopRegion j) false j) k = reqOf s k := fun k => by
    rw [reqOf, endStep_reqs hbino, reqOf]
  refine ⟨_, hi, ?_, ?_, ?_, fun k q hq => ?_⟩
  · rw [regionRun_of_parts (s := endStep s p (hopRegion j) false j) (by rw [hf])]
    exact hidle
  · rw [regionRun_of_parts (s := endStep s p (hopRegion j) false j) (by rw [hf])]
    exact hempty
  · exact memoriesKept_trans hmem (memoriesKept_of_eq (by rw [hf]) (by rw [hf]))
  · rw [hw, reqOf_updReqs finishDecode _ _ hd, hreqs, hq]
    by_cases hk : k ∈ x.decode.map (fun e => e.slot)
    · rw [if_pos hk, if_neg (by simpa using hk), Option.map_some, finishDecode]
      cases q.cycle <;> rfl
    · rw [if_neg hk, if_pos hk]
end
end

/-- Settles O60: flits by their CRC, kind, class and number, and hops by what the port and the region have done. -/
theorem heliostatFlitsAndHops : Obligations.HeliostatFlitsAndHops := by
  unfold Obligations.HeliostatFlitsAndHops
  refine ⟨fun d f s => ⟨fun hl => if_pos hl, fun hl h3 h4 h5 => ?_, fun hl hst => ⟨hlFlit_crc hl hst, fun hc h => ?_, fun hc hk hcl => ?_,
    fun hc hk hcl hq => ?_, fun hc hk hcl hq => ?_⟩⟩, fun d s => ⟨fun h => ?_, fun hu h => ?_, fun hu hst hr hc => ?_⟩,
    fun d p m ds ps s => ⟨fun h => ?_, fun h => ⟨fun ha => ?_, fun hn hb => ?_, hopHandoff_lands h⟩⟩, fun d p m s => ⟨fun h => ?_, fun j hj h => ?_⟩⟩
  · exact (if_neg (by simp [hl])).trans (congrArg Host.Outcome.next (if_pos (by simp [h3, h4, h5])))
  · refine ⟨hlViolation s d 0, ?_, hlViolation_effect s d 0⟩
    rw [exec_hlFlit hl hst, if_neg (by simp [hc]), if_pos (by simpa using h)]
  · obtain ⟨t, ht, hr, hs, -, hu, hf⟩ := hlFlit_heard hl hst hc (.inl hk) hcl
    exact ⟨t, ht, hr, hs, hu, hf⟩
  · obtain ⟨t, ht, hr, -, ha, hu, hf⟩ := hlFlit_heard hl hst hc (.inr ⟨hk, hq⟩) hcl
    exact ⟨t, ht, hr, ha hk, hu, hf⟩
  · obtain ⟨w, hi, hr, hs, ha, hu, hv, hf⟩ := hlFlit_inOrder hl hst hc hk hcl hq
    refine ⟨fun hn => ⟨w, by rw [hi, hn], hr, hs, ha, hu, hf⟩, fun k hk => ⟨hlViolation w d k, by rw [hi, hk], ?_⟩⟩
    obtain ⟨hcnt, hraised⟩ := hlViolation_effect w d k
    exact ⟨hcnt.of_viols hv, hraised.of_events (by rw [hf])⟩
  · refine congrArg Host.Outcome.next ?_
    rcases h with ⟨h3, h4, h5⟩ | h
    · exact if_pos (by simp [h3, h4, h5])
    · have he : hlReplay s d = s := if_pos (by simp [h])
      rw [he, ite_self]
  · obtain ⟨ho, hw, hd⟩ := hlReplayCounted_effect s d
    refine ⟨_, (congrArg Host.Outcome.next (if_neg ?_)).trans (congrArg Host.Outcome.next (hlReplay_counts hu h)), ho, by rw [hw], by rw [hw],
      by rw [hw], hd⟩
    rcases h with h | ⟨h | h, -⟩ <;> simp [h]
  · exact ⟨_, congrArg Host.Outcome.next (if_neg (by rcases hst with h | h <;> simp [h])), hlReplay_retrains hu hst hr hc⟩
  · exact congrArg Host.Outcome.next (if_pos (by simp [h]))
  · refine ⟨_, congrArg Host.Outcome.next ((if_neg (by simp [h])).trans ((if_pos ha).trans (hopAck_sent h))), onlyHl_updHl .., ?_⟩
    dsimp only
    rw [hlOf_updHl_self]
    exact sentOn_waits _ 0 (hopAckMsg_ne_nil m)
  · refine congrArg Host.Outcome.next ((if_neg (by simp [h])).trans ((if_neg hn).trans (if_pos ?_)))
    rcases hb with hb | hb <;> simp [hb]
  · cases hj : jobOf s p with
    | none => exact ⟨congrArg Host.Outcome.next (by simp only [hj]), congrArg Host.Outcome.next (by simp only [hj])⟩
    | some j =>
      have h : hopOn s d p = false := by simpa [hj] using h
      exact ⟨congrArg Host.Outcome.next (by simp only [hj]; exact if_pos (by simp [h])),
        congrArg Host.Outcome.next (by simp only [hj]; exact if_pos (by simp [h]))⟩
  · refine ⟨fun hs => ?_, fun hs hb => ?_, fun hs hb hm hp hd hbino => hopAck_ends hj h hs hb hm hp hd hbino, fun hb => ?_, fun hb hs => ?_⟩
    · refine ⟨hlViolation s d 4, congrArg Host.Outcome.next ?_, hlViolation_effect s d 4⟩
      simp only [hj]
      exact (if_neg (by simp [h])).trans (if_pos hs)
    · refine congrArg Host.Outcome.next ?_
      simp only [hj]
      refine (if_neg (by simp [h])).trans ((if_neg (by simp [hs])).trans (if_pos ?_))
      rcases hb with hb | hb <;> simp [hb]
    · refine congrArg Host.Outcome.next ?_
      simp only [hj]
      refine if_pos ?_
      rcases hb with hb | hb <;> simp [hb]
    · refine ⟨updHl s d (fun h => { h with sentStep := none }), congrArg Host.Outcome.next ?_, onlyHl_updHl .., hlOf_updHl_self ..⟩
      simp only [hj]
      exact if_neg (by simp [h, hb, hs])

end Sys2Proof.Machine
end

section
/-! PROOF. What the management agent notes of a request that breaks a rule (R503, R535): counts, times, locks and quarantines, and
never what it holds of messages, challenges, credentials and its audit log. -/

namespace Sys2Proof.Machine

/-- The agent's state without its sessions and what it notes of violations. -/
def agentOwn (m : Mgmt) : Mgmt := { m with
  sessions := [], counters := [], times := [], sigTimes := [], accTimes := [], excess := [], quarPaths := [], locked := [], rateSecs := [] }
/-- What s has kept of o where violations were noted. -/
structure Noted (o s : State) : Prop where
  own : agentOwn s.mgmt = agentOwn o.mgmt
  events : o.events <+: s.events

section
variable {o s t : State}

theorem noted_refl (s : State) : Noted s s := ⟨rfl, List.prefix_refl _⟩
theorem Noted.congr (hs : Noted o s) (hm : t.mgmt = s.mgmt) (he : t.events = s.events) : Noted o t := by
  obtain ⟨h1, h2⟩ := hs
  exact ⟨hm ▸ h1, he ▸ h2⟩
theorem Noted.trans {u : State} (hs : Noted o s) (ht : Noted s u) : Noted o u := ⟨ht.own.trans hs.own, hs.events.trans ht.events⟩
theorem Noted.ite {c : Prop} [Decidable c] (hs : Noted o s) (ht : Noted o t) : Noted o (if c then s else t) := by
  split
  · exact hs
  · exact ht
theorem Noted.foldl {α : Type} {f : State → α → State} (hf : ∀ {t : State} (a : α), Noted o t → Noted o (f t a)) {l : List α}
    (hs : Noted o s) : Noted o (l.foldl f s) := by
  induction l generalizing s with
  | nil => exact hs
  | cons a l ih => exact ih (hf a hs)
theorem Noted.emit {rep : Nat} {e : EventRec} (hs : Noted o s) : Noted o (Machine.emit s rep e) :=
  ⟨hs.own, hs.events.trans (events_emit ..)⟩
theorem Noted.updMgmt {f : Mgmt → Mgmt} (hs : Noted o s) (hf : ∀ m, agentOwn (f m) = agentOwn m := by exact fun _ => rfl) :
    Noted o (Machine.updMgmt s f) := ⟨(hf _).trans hs.own, hs.events⟩
theorem Noted.setCc {i : Nat} {v : CcState} (hs : Noted o s) : Noted o (Machine.setCc s i v) := hs.congr rfl rfl
theorem Noted.updCc {i : Nat} {f : CcState → CcState} (hs : Noted o s) : Noted o (Machine.updCc s i f) := hs.setCc
theorem Noted.setWl {n : Nat} {v : WlState} (hs : Noted o s) : Noted o (Machine.setWl s n v) := hs.congr rfl rfl
theorem Noted.updWl {n : Nat} {f : WlState → WlState} (hs : Noted o s) : Noted o (Machine.updWl s n f) := hs.setWl
theorem Noted.updSec {f : Security → Security} (hs : Noted o s) : Noted o (Machine.updSec s f) := hs.congr rfl rfl
theorem Noted.raise {code sev unit rep : Nat} {detail : Bytes} (hs : Noted o s) :
    Noted o (Machine.raise s code sev unit rep detail) := hs.emit
theorem Noted.doorbellAt {i n tag : Nat} (hs : Noted o s) : Noted o (Machine.doorbellAt s i n tag) := hs.updCc
theorem Noted.portEvent {n code sev : Nat} {detail : Bytes} (hs : Noted o s) :
    Noted o (Machine.portEvent s n code sev detail) := hs.raise
theorem Noted.finderEvent {code sev unit : Nat} {detail : Bytes} (hs : Noted o s) :
    Noted o (Machine.finderEvent s code sev unit detail) := hs.raise
theorem Noted.mailImage {i : Nat} (hs : Noted o s) : Noted o (Machine.mailImage s i) := by
  unfold Machine.mailImage
  split
  · exact hs.updCc.doorbellAt
  · exact hs
theorem Noted.reloadAll (hs : Noted o s) : Noted o (Machine.reloadAll s) := hs.foldl (fun _ ht => ht.mailImage)
theorem Noted.agentEvent {code sev : Nat} {detail : Bytes} (hs : Noted o s) :
    Noted o (Machine.agentEvent s code sev detail) := hs.finderEvent
theorem Noted.closeDebug (hs : Noted o s) : Noted o (Machine.closeDebug s) := Noted.ite hs hs.updSec.reloadAll.agentEvent
theorem Noted.closeSessions {f : Session → Bool} (hs : Noted o s) : Noted o (Machine.closeSessions s f) := by
  unfold Machine.closeSessions
  extract_lets _ s1
  have h1 : Noted o s1 := hs.updMgmt
  exact Noted.ite h1.closeDebug h1
theorem Noted.wlState {n st : Nat} (hs : Noted o s) : Noted o (Machine.wlState s n st) := hs.updWl.doorbellAt
theorem Noted.dropQueues {n : Nat} (hs : Noted o s) : Noted o (Machine.dropQueues s n) := hs.updWl
theorem Noted.closePort {n : Nat} (hs : Noted o s) : Noted o (Machine.closePort s n) := hs.closeSessions
theorem Noted.wlQuarantine {n : Nat} (hs : Noted o s) : Noted o (Machine.wlQuarantine s n) :=
  Noted.ite hs hs.updWl.wlState.closePort.portEvent.dropQueues
theorem Noted.wlCount {n counter : Nat} (hs : Noted o s) : Noted o (Machine.wlCount s n counter) := hs.updWl
theorem Noted.wlViolation {n counter : Nat} {event : Bool} (hs : Noted o s) :
    Noted o (Machine.wlViolation s n counter event) := by
  unfold Machine.wlViolation
  extract_lets _ s1 s2 s3
  have h1 : Noted o s1 := hs.wlCount.updWl
  have h2 : Noted o s2 := h1.doorbellAt
  have h3 : Noted o s3 := Noted.ite h2.portEvent h2
  exact Noted.ite h3.wlQuarantine h3
theorem Noted.bumpPath {p : DapPath} {counter : Nat} (hs : Noted o s) : Noted o (Machine.bumpPath s p counter) := by
  unfold Machine.bumpPath
  extract_lets s1
  have h1 : Noted o s1 := by
    simp only [s1]
    split
    · exact hs.wlCount.wlViolation
    · exact hs
  exact h1.updMgmt
theorem Noted.quarPath {p : DapPath} (hs : Noted o s) : Noted o (Machine.quarPath s p) := Noted.ite hs hs.updMgmt.agentEvent
theorem Noted.noteTime {kind : Nat} {p : DapPath} {sec : Nat} (hs : Noted o s) : Noted o (Machine.noteTime s kind p sec).1 := by
  unfold Machine.noteTime
  exact ⟨hs.own, hs.events⟩
theorem Noted.malformed {p : DapPath} (hs : Noted o s) : Noted o (Machine.malformed s p) := by
  unfold Machine.malformed
  extract_lets _
  exact Noted.ite hs.bumpPath.agentEvent.noteTime.quarPath hs.bumpPath.agentEvent.noteTime
theorem Noted.unknownAuth {p : DapPath} (hs : Noted o s) : Noted o (Machine.unknownAuth s p) := by
  unfold Machine.unknownAuth
  extract_lets _
  exact Noted.ite hs.bumpPath.agentEvent.noteTime.quarPath hs.bumpPath.agentEvent.noteTime
theorem Noted.lockCred {fp : Bytes} (hs : Noted o s) : Noted o (Machine.lockCred s fp) :=
  Noted.ite hs hs.updMgmt.closeSessions.agentEvent
theorem Noted.badSig {p : DapPath} {fp : Bytes} (hs : Noted o s) : Noted o (Machine.badSig s p fp) := by
  unfold Machine.badSig
  extract_lets s1 _ s2
  have h1 : Noted o s1 := hs.bumpPath.agentEvent
  have h2 : Noted o s2 := h1.updMgmt
  exact Noted.ite h2.lockCred h2
theorem Noted.badAccess {p : DapPath} {fp : Bytes} (hs : Noted o s) : Noted o (Machine.badAccess s p fp) := by
  unfold Machine.badAccess
  extract_lets s1 _ s2
  have h1 : Noted o s1 := hs.bumpPath.agentEvent
  have h2 : Noted o s2 := h1.updMgmt
  exact Noted.ite h2.lockCred h2

end

end Sys2Proof.Machine
end

section
/-! PROOF. Segments, challenges and sessions of the management agent (R490 to R492, R495, R496, R503, R560). -/

namespace Sys2Proof.Machine

section
variable {s t u : State} {path : DapPath} {source : Nat}

/-! Segments. -/

/-- A whole message waits for its service. -/
theorem dapComplete_whole {data b : Bytes} (hb : b = if path = .can then data.take (16 + 8 * leAt data 0xC 2) else data) (hw : messageWhole b) :
    dapComplete s path source data = updMgmt s (fun m => { m with inbox := m.inbox ++ [(path, source, b)] }) := by
  obtain ⟨hlen, hmax, hserv, hkind, hend⟩ := hw
  have hn : leAt b 0xC 2 = leAt data 0xC 2 := by
    rw [hb]
    split
    · simp only [leAt, List.drop_take, List.take_take]
      rw [Nat.min_eq_left (by omega)]
    · rfl
  rw [hn] at hlen
  unfold dapComplete
  dsimp only
  rw [← hb]
  refine if_neg ?_
  simp only [Bool.or_eq_true, decide_eq_true_eq, Bool.not_eq_true', List.contains_eq_mem, not_or, decide_eq_false_iff_not, not_not]
  exact ⟨⟨⟨⟨⟨by omega, hserv⟩, hkind⟩, hend⟩, by omega⟩, hlen⟩

/-- A segment that begins a message or is the next of one joins it. -/
theorem dapSegment_joins {data : Bytes} {first last : Bool} {f : Bool × Bool × Nat × Bytes} {before : Bytes} (hs : s.fin.standby12 = true)
    (hq : path ∉ s.mgmt.quarPaths) (hf : segFields path source data first last = some f) (hb : segBefore s path source f = some before) :
    exec (.dapSegment path source data first last) s = .next (segJoin s path source f before) := by
  refine congrArg Host.Outcome.next ((if_neg (by simp [hs, hq])).trans ?_)
  rw [hf]
  dsimp only
  unfold segBefore at hb
  cases hr : reasmAt s path source with
  | none =>
    rw [hr] at hb
    dsimp only at hb ⊢
    split at hb
    · next h => cases hb; rw [if_pos h]
    · cases hb
  | some r =>
    rw [hr] at hb
    dsimp only at hb ⊢
    split at hb
    · cases hb
    · next h =>
      rw [if_neg h]
      cases path <;> simp_all

/-! Reassembly time-outs. -/

theorem reasmAt_dropReasm (s : State) (path : DapPath) (source : Nat) : reasmAt (dropReasm s path source) path source = none := by
  simp only [reasmAt, dropReasm, updMgmt, List.find?_eq_none, List.mem_filter]
  rintro x ⟨-, hx⟩ h
  rw [h] at hx
  cases hx
theorem Noted.reasm_eq (h : Noted s t) : t.mgmt.reasm = s.mgmt.reasm := (congrArg Mgmt.reasm h.own :)
theorem reasmAt_noted (h : Noted s t) : reasmAt t path source = reasmAt s path source := by simp only [reasmAt, h.reasm_eq]
theorem raised_agentEvent (s : State) (code sev : Nat) (d : Bytes) : raised s (agentEvent s code sev d) (BitVec.ofNat 16 code) :=
  ⟨_, rfl, _, List.mem_singleton_self _, rfl⟩
theorem raised.mem {code : BitVec 16} (h : raised s t code) : ∃ e ∈ t.events, e.code = code := by
  obtain ⟨es, he, e, hm, hc⟩ := h
  exact ⟨e, he ▸ List.mem_append_right _ hm, hc⟩
theorem raised_malformed (s : State) (p : DapPath) : raised s (malformed s p) 0x9010 := by
  have hb : raised s (agentEvent (bumpPath s p 0) 0x9010 0 []) 0x9010 :=
    (raised_agentEvent _ 0x9010 0 []).after (noted_refl s).bumpPath.events
  refine hb.later ?_
  have hn : Noted (agentEvent (bumpPath s p 0) 0x9010 0 []) (malformed s p) :=
    Noted.ite (noted_refl _).noteTime.quarPath (noted_refl _).noteTime
  exact hn.events
/-- A malformed segment counts on its path; on a field network nothing of the host links differs. -/
theorem malformed_field (h : path = .can ∨ path = .t1s) : (malformed s path).wl = s.wl
    ∧ (malformed s path).mgmt.counters = updN 0#32 s.mgmt.counters (4 * pathGroup path) (fun n => BitVec.ofNat 32 (satAdd32 n.toNat 1)) := by
  have hq (t : State) : (quarPath t path).wl = t.wl ∧ (quarPath t path).mgmt.counters = t.mgmt.counters := by
    unfold quarPath
    split <;> exact ⟨rfl, rfl⟩
  unfold malformed
  dsimp only
  rcases h with rfl | rfl <;>
  · split
    · obtain ⟨hw, hc⟩ := hq (noteTime (agentEvent (bumpPath s _ 0) 0x9010 0 []) 0 _ 1).1
      exact ⟨hw, hc⟩
    · exact ⟨rfl, rfl⟩

/-! Challenges. -/

theorem Noted.challenges_eq (h : Noted s t) : t.mgmt.challenges = s.mgmt.challenges := (congrArg Mgmt.challenges h.own :)
theorem answered_respond (s : State) (r : DapReq) (status : Nat) (body : Bytes) : answered (respond s r status body) r status body := by
  obtain ⟨h, -⟩ := respond_frame s r status body
  exact h

section
variable {req : DapReq} {body : Bytes} (hlen : body.length = 16) (hrole : byteAt body 0 ≤ 2) (hz : leAt body 1 7 = 0)
  (hl : listens s req 0x01 body)
include hlen hrole hz hl

/-- OPEN of a request that the agent hears, by the credential that it names. -/
theorem exec_dapOpen : let v := heard s req 0x01 body
    exec (.dapOpen req body) s = .next (
      if s.mgmt.locked.contains (sliceB body 8 8) then respond v req stLocked []
      else if byteAt body 0 < 2 && (credKey s (byteAt body 0) (sliceB body 8 8)).isNone then
        respond (unknownAuth v req.path) req stCredential []
      else
        let w := updMgmt v (fun m => { m with challenges := m.challenges.filter (fun e => !sameOpen e req) })
        if 4 ≤ (pathChallenges w req.path).length then respond (rateExcess w req.path) req stBusy []
        else
          respond (updMgmt (freeBytes w 32).2 (fun m => { m with challenges := m.challenges ++
            [{ path := req.path, source := req.source, txn := req.txn, role := BitVec.ofNat 8 (byteAt body 0), fp := sliceB body 8 8
               chal := (freeBytes w 32).1, at_ := mgmtTime w }] })) req stOk ((freeBytes w 32).1 ++ leBytes 8 Config.idrev.toNat)) := by
  intro v
  have hr : ¬ (countRequest (taken s req 0x01 body) req.path).2 = true := by
    obtain ⟨-, -, hr⟩ := hl
    rw [hr]
    decide
  refine congrArg Host.Outcome.next ((if_neg (by simp [hlen, hz]; omega)).trans ?_)
  rw [dapHear_listens hl]
  dsimp only
  exact if_neg hr

theorem dapOpen_locked (h : sliceB body 8 8 ∈ s.mgmt.locked) : answers (.dapOpen req body) s (fun t => answered t req stLocked []
    ∧ t.mgmt.challenges = s.mgmt.challenges) := by
  have hh := heard_frame hl
  refine ⟨_, (exec_dapOpen hlen hrole hz hl).trans (congrArg Host.Outcome.next (if_pos ?_)), answered_respond .., ?_⟩
  · simpa using h
  · change (heard s req 0x01 body).mgmt.challenges = _
    rw [hh]
theorem dapOpen_unknown (h : sliceB body 8 8 ∉ s.mgmt.locked) (h2 : byteAt body 0 < 2) (hk : credKey s (byteAt body 0) (sliceB body 8 8) = none) :
    answers (.dapOpen req body) s (fun t => answered t req stCredential [] ∧ t.mgmt.challenges = s.mgmt.challenges) := by
  have hh := heard_frame hl
  refine ⟨_, (exec_dapOpen hlen hrole hz hl).trans (congrArg Host.Outcome.next ((if_neg ?_).trans (if_pos ?_))), answered_respond .., ?_⟩
  · simpa using h
  · simp [h2, hk]
  · refine (noted_refl (heard s req 0x01 body)).unknownAuth.challenges_eq.trans ?_
    rw [hh]
/-- OPEN of an enrolled credential, or of a maker, answers a fresh challenge. -/
theorem dapOpen_challenges (h : sliceB body 8 8 ∉ s.mgmt.locked) (hk : byteAt body 0 < 2 → credKey s (byteAt body 0) (sliceB body 8 8) ≠ none)
    (hroom : (s.mgmt.challenges.filter (fun e => !sameOpen e req && e.path == req.path)).length < 4) :
    let c := (freeBytes s 32).1
    answers (.dapOpen req body) s (fun t => answered t req stOk (c ++ leBytes 8 Config.idrev.toNat)
      ∧ t.mgmt.challenges = s.mgmt.challenges.filter (fun e => !sameOpen e req)
        ++ [Challenge.mk req.path req.source req.txn (BitVec.ofNat 8 (byteAt body 0)) (sliceB body 8 8) c (mgmtTime s)]) := by
  have hh := heard_frame hl
  intro c
  have hi := exec_dapOpen hlen hrole hz hl
  dsimp only at hi
  generalize heard s req 0x01 body = v at hh hi
  have hch : v.mgmt.challenges = s.mgmt.challenges := by rw [hh]
  have hfree : (freeBytes v 32).1 = c := by rw [hh]; rfl
  have htime : mgmtTime v = mgmtTime s := by rw [hh]; rfl
  rw [if_neg (by simpa using h), if_neg, if_neg] at hi
  · refine ⟨_, hi, ?_, ?_⟩
    · rw [← hfree]
      exact answered_respond ..
    · rw [← hch, ← hfree, ← htime]
      rfl
  · have hp : pathChallenges (updMgmt v (fun m => { m with challenges := m.challenges.filter (fun e => !sameOpen e req) })) req.path
        = s.mgmt.challenges.filter (fun e => !sameOpen e req && e.path == req.path) := by
      rw [← hch, pathChallenges, updMgmt, List.filter_filter]
      exact List.filter_congr fun e _ => Bool.and_comm ..
    rw [hp]
    omega
  · simpa using fun h2 => hk h2
end

/-! Sessions. -/

/-- A session has been opened for a challenge, and its number answered. -/
def sessionOpened (s t : State) (req : DapReq) (c : Challenge) (key : Bytes) : Prop :=
  answered t req stOk (leBytes 4 s.mgmt.nextSession.toNat) ∧ ∃ se,
    t.mgmt.sessions = s.mgmt.sessions ++ [se] ∧ se.num = s.mgmt.nextSession ∧ se.role.val = c.role.toNat % 3 ∧ se.fp = c.fp
    ∧ se.key = key ∧ se.chal = c.chal ∧ se.path = req.path ∧ se.source = req.source ∧ se.seq = 0#32
theorem openSession_effect {req : DapReq} {c : Challenge} {key : Bytes} {epoch : Nat} {serial : Bool} (h : s.mgmt.sessions.length < 8) :
    (openSession s req c key epoch serial).mgmt.challenges = s.mgmt.challenges
      ∧ sessionOpened s (openSession s req c key epoch serial) req c key := by
  rw [openSession, if_neg (by omega)]
  exact ⟨rfl, answered_respond .., _, rfl, rfl, rfl, rfl, rfl, rfl, rfl, rfl, rfl⟩

section
variable {req : DapReq} {cert : Bytes} {c : Challenge} (hl : listens s req 0x02 (cert ++ req.sig)) (hsig : req.sig.length = 7856)
  (hc : s.mgmt.challenges.find? (fun e => sameOpen e req) = some c) (ht : mgmtTime s ≤ c.at_ + 1000000000) (hlock : c.fp ∉ s.mgmt.locked)

/-- The state in which a challenge has been consumed. -/
def consumed (s : State) (req : DapReq) (body : Bytes) : State :=
  updMgmt (heard s req 0x02 body) (fun m => { m with challenges := m.challenges.filter (fun e => !sameOpen e req) })
include hl

theorem consumed_frame : consumed s req (cert ++ req.sig) = { s with mgmt := { s.mgmt with
    challenges := s.mgmt.challenges.filter (fun e => !sameOpen e req), serving := 0x02#8
    inbox := (consumed s req (cert ++ req.sig)).mgmt.inbox, times := (consumed s req (cert ++ req.sig)).mgmt.times
    excess := (consumed s req (cert ++ req.sig)).mgmt.excess } } := by
  unfold consumed
  conv_lhs => rw [heard_frame hl]
  rfl

include hsig hc ht hlock

/-- PROVE of a challenge that stands consumes it, and its credential's or its certificate's signature decides. -/
theorem exec_dapProve (hcert : c.role ≠ 2#8 ∧ cert = [] ∨ c.role = 2#8 ∧ cert.length = 7936) : let w := consumed s req (cert ++ req.sig)
    exec (.dapProve req cert) s = .next (
      if c.role = 2#8 then
        if makerOk w cert c.fp && Config.sigVerify 128 (cKey cert) (proveBytes c req.path) req.sig then
          openSession w req c (cKey cert) (cEpoch cert) (cSerial cert == sliceB Config.serial 0 16)
        else respond (unknownAuth (agentEvent w 0x8054 1 []) req.path) req stCredential []
      else match credKey w c.role.toNat c.fp with
        | none => respond (unknownAuth w req.path) req stCredential []
        | some key =>
            if Config.sigVerify 128 key (proveBytes c req.path) req.sig then openSession w req c key 0 false
            else respond (badSig w req.path c.fp) req stSignature []) := by
  intro w
  have hr : ¬ (countRequest (taken s req 0x02 (cert ++ req.sig)) req.path).2 = true := by
    obtain ⟨-, -, hr⟩ := hl
    rw [hr]
    decide
  have hh := heard_frame hl
  have hf : (heard s req 0x02 (cert ++ req.sig)).mgmt.challenges.find? (fun e => sameOpen e req) = some c := by rw [hh]; exact hc
  have hw := consumed_frame hl
  refine congrArg Host.Outcome.next ?_
  rw [dapHear_listens hl]
  dsimp only
  rw [if_neg hr]
  change (match (heard s req 0x02 (cert ++ req.sig)).mgmt.challenges.find? (fun e => sameOpen e req) with | none => _ | some c => _) = _
  rw [hf]
  dsimp only
  change (if _ then _ else if c.at_ + 1000000000 < mgmtTime w then _ else if w.mgmt.locked.contains c.fp then _ else _) = _
  have htime : mgmtTime w = mgmtTime s := by simp only [w]; rw [hw]; rfl
  have hlocked : w.mgmt.locked = s.mgmt.locked := by simp only [w]; rw [hw]
  rw [if_neg, if_neg (by omega), if_neg (by simpa [hlocked] using hlock)]
  · rfl
  · rcases hcert with ⟨h1, h2⟩ | ⟨h1, h2⟩ <;> simp [hsig, h1, h2]

/-- PROVE of an enrolled credential. -/
theorem dapProve_enrolled {key : Bytes} (hrole : c.role ≠ 2#8) (hcert : cert = []) (hk : credKey s c.role.toNat c.fp = some key)
    (hroom : s.mgmt.sessions.length < 8) : answers (.dapProve req cert) s (fun t =>
      t.mgmt.challenges = s.mgmt.challenges.filter (fun e => !sameOpen e req)
      ∧ (Config.sigVerify 128 key (proveBytes c req.path) req.sig = true → sessionOpened s t req c key)
      ∧ (Config.sigVerify 128 key (proveBytes c req.path) req.sig = false → answered t req stSignature [])) := by
  have hi := exec_dapProve hl hsig hc ht hlock (.inl ⟨hrole, hcert⟩)
  have hw := consumed_frame hl
  dsimp only at hi
  generalize consumed s req (cert ++ req.sig) = w at hi hw
  have hkw : credKey w c.role.toNat c.fp = some key := by rw [hw]; exact hk
  rw [if_neg hrole, hkw] at hi
  dsimp only at hi
  refine ⟨_, hi, ?_⟩
  dsimp only
  cases Config.sigVerify 128 key (proveBytes c req.path) req.sig with
  | true =>
    obtain ⟨ho, hs⟩ := openSession_effect (s := w) (req := req) (c := c) (key := key) (epoch := 0) (serial := false) (by rw [hw]; exact hroom)
    refine ⟨ho.trans (by rw [hw]), fun _ => ?_, nofun⟩
    rw [hw] at hs ⊢
    exact hs
  | false => exact ⟨(noted_refl w).badSig.challenges_eq.trans (by rw [hw]), nofun, fun _ => answered_respond ..⟩
/-- PROVE of a maker's certificate. -/
theorem dapProve_maker (hrole : c.role = 2#8) (hcert : cert.length = 7936) (hroom : s.mgmt.sessions.length < 8) :
    answers (.dapProve req cert) s (fun t => t.mgmt.challenges = s.mgmt.challenges.filter (fun e => !sameOpen e req)
      ∧ (makerOk s cert c.fp = true → Config.sigVerify 128 (cKey cert) (proveBytes c req.path) req.sig = true → sessionOpened s t req c (cKey cert))
      ∧ (makerOk s cert c.fp = false → answered t req stCredential [] ∧ ∃ e ∈ t.events, e.code = 0x8054#16)) := by
  have hi := exec_dapProve hl hsig hc ht hlock (.inr ⟨hrole, hcert⟩)
  have hw := consumed_frame hl
  dsimp only at hi
  generalize consumed s req (cert ++ req.sig) = w at hi hw
  have hm : makerOk w cert c.fp = makerOk s cert c.fp := by rw [hw]; rfl
  rw [if_pos hrole, hm] at hi
  refine ⟨_, hi, ?_⟩
  split
  · next hv =>
    obtain ⟨hm, hv⟩ := Bool.and_eq_true_iff.1 hv
    obtain ⟨ho, hs⟩ := openSession_effect (s := w) (req := req) (c := c) (key := cKey cert) (epoch := cEpoch cert)
      (serial := cSerial cert == sliceB Config.serial 0 16) (by rw [hw]; exact hroom)
    refine ⟨ho.trans (by rw [hw]), fun _ _ => ?_, fun h => absurd hm (by simp [h])⟩
    rw [hw] at hs ⊢
    exact hs
  · next hv =>
    have hn : Noted (agentEvent w 0x8054 1 []) (unknownAuth (agentEvent w 0x8054 1 []) req.path) := (noted_refl _).unknownAuth
    refine ⟨hn.challenges_eq.trans ?_, fun h1 h2 => absurd (by simp [h1, h2]) hv, fun _ => ⟨answered_respond .., ?_⟩⟩
    · change w.mgmt.challenges = _
      rw [hw]
    · exact ((raised_agentEvent w 0x8054 1 []).later hn.events).mem
end

/-! CLOSE. -/

/-- A request of an open session that is its next goes on with the session. -/
theorem dapRequest_next {req : DapReq} {service : Nat} {body : Bytes} {se : Session} (ha : asks s req service body se)
    (k : Session → State → State) : dapRequest s req service body k = k se (asked s req service body) := by
  obtain ⟨hl, hse, hseq⟩ := ha
  have hh := heard_frame hl
  have hr : ¬ (countRequest (taken s req service body) req.path).2 = true := by
    obtain ⟨-, -, hr⟩ := hl
    rw [hr]
    decide
  have hse' : sessionFor (heard s req service body) req = some se := by rw [hh]; exact hse
  rw [dapRequest, dapHear_listens hl]
  dsimp only
  rw [if_neg hr]
  change (match sessionFor (heard s req service body) req with | none => _ | some se => _) = _
  rw [hse']
  exact if_neg (by simp [hseq])
theorem sessionFor_mem {req : DapReq} {se : Session} (h : sessionFor s req = some se) : se ∈ s.mgmt.sessions ∧ se.num = req.session := by
  have hp := List.find?_some h
  simp only [Bool.and_eq_true, beq_iff_eq] at hp
  exact ⟨List.mem_of_find?_eq_some h, hp.1.1⟩
theorem closeDebug_closes (s : State) : (closeDebug s).sec.debugOpen = false := by
  unfold closeDebug
  split
  · next h => simpa using h
  · have h := reloadAll_frame (updSec s (fun q => { q with debugOpen := false, debugBy := none }))
    change (reloadAll _).sec.debugOpen = false
    rw [h]
    rfl
theorem closeSessions_debug {f : Session → Bool} {n : BitVec 32} (hd : s.sec.debugBy = some n)
    (hm : ∃ e ∈ s.mgmt.sessions, e.num = n ∧ f e = true) : (closeSessions s f).sec.debugOpen = false := by
  have ha : s.mgmt.sessions.any (fun e => e.num == n && f e) = true := by
    obtain ⟨e, he, hn, hf⟩ := hm
    exact List.any_eq_true.2 ⟨e, he, by simp [hn, hf]⟩
  unfold closeSessions
  simp only [hd, ha]
  exact closeDebug_closes _
/-- What changes the sessions of one number does not show where that number is left out. -/
theorem filter_map_num (l : List Session) (n : BitVec 32) (f : Session → Session) (hf : ∀ e, (f e).num = e.num) :
    (l.map (fun e => if e.num = n then f e else e)).filter (fun e => !(e.num == n)) = l.filter (fun e => e.num != n) := by
  induction l with
  | nil => rfl
  | cons e l ih =>
    rw [List.map_cons, List.filter_cons, List.filter_cons, ih]
    by_cases h : e.num = n
    · simp [h, hf]
    · simp [h]
/-- CLOSE ends its own session, and with it debug where that session had opened it. -/
theorem dapClose_ends {req : DapReq} {se : Session} (ha : asks s req 0x03 [] se) : answers (.dapClose req) s (fun t => answered t req stOk []
    ∧ t.mgmt.sessions = s.mgmt.sessions.filter (fun e => e.num != req.session)
    ∧ (s.sec.debugBy = some req.session → t.sec.debugOpen = false)) := by
  have hi : exec (.dapClose req) s = .next (respond (closeSessions (asked s req 0x03 []) (fun e => e.num == se.num)) req stOk []) :=
    congrArg Host.Outcome.next (dapRequest_next ha _)
  obtain ⟨hl, hse, hseq⟩ := ha
  obtain ⟨hmem, hnum⟩ := sessionFor_mem hse
  have hsess : (asked s req 0x03 []).mgmt.sessions = s.mgmt.sessions.map (fun e =>
      if e.num = req.session then { e with seq := req.seq, lastAt := mgmtTime (heard s req 0x03 []) } else e) := by
    rw [asked, touch_frame]
    change (heard s req 0x03 []).mgmt.sessions.map _ = _
    rw [heard_frame hl]
  obtain ⟨-, hs, -⟩ := closeSessions_effect (asked s req 0x03 []) (fun e => e.num == se.num)
  refine ⟨_, hi, answered_respond .., ?_, fun hd => ?_⟩
  · change (closeSessions _ _).mgmt.sessions = _
    rw [hs, hsess, hnum]
    exact filter_map_num s.mgmt.sessions req.session _ fun _ => rfl
  · refine closeSessions_debug (n := req.session) ?_ ?_
    · rw [asked, touch_frame, heard_frame hl]
      exact hd
    · refine ⟨_, hsess ▸ List.mem_map_of_mem hmem, ?_⟩
      rw [if_pos hnum]
      simp [hnum]
end

/-- Settles O53: segments by their reassembly, and the services by what the agent holds. -/
theorem sessionsOpenAndClose : Obligations.SessionsOpenAndClose := by
  unfold Obligations.SessionsOpenAndClose
  refine ⟨fun path source data first last s => ⟨fun h => ?_, fun hs hq => ⟨fun hf => ?_, fun f hf before hb => ?_⟩⟩, fun path source s => ?_,
    fun req body s => ?_, fun req cert c s hl hsig hc ht hlock hroom => ?_, fun req se s ha => dapClose_ends ha, fun s => ?_⟩
  · exact congrArg Host.Outcome.next (if_pos (by rcases h with h | h <;> simp [h]))
  · refine congrArg Host.Outcome.next ((if_neg (by simp [hs, hq])).trans ?_)
    rw [hf]
  · have hi := dapSegment_joins hs hq hf hb
    refine ⟨fun hl hn => ⟨_, hi, ?_⟩, fun hl hn b hbb hw => ⟨_, hi, ?_⟩⟩
    · rw [segJoin, if_neg (by rw [if_neg (by simp [hl])]; exact Nat.not_lt.2 hn), if_neg (by simp [hl])]
      exact ⟨rfl, rfl⟩
    · rw [segJoin, if_neg (by rw [hl]; split <;> simp_all), if_pos hl, dapComplete_whole hbb hw]
      exact ⟨rfl, rfl⟩
  · refine ⟨fun h => ?_, fun h => ?_⟩
    · refine congrArg Host.Outcome.next ?_
      rw [h]
    · obtain ⟨x, hx⟩ := Option.ne_none_iff_exists'.1 h
      have hi : exec (.dapReassemblyTimeout path source) s = .next (malformed (dropReasm s path source) path) := by
        refine congrArg Host.Outcome.next ?_
        rw [hx]
      refine ⟨_, hi, ?_, (raised_malformed ..).mem, fun hp => ?_⟩
      · rw [reasmAt_noted (noted_refl _).malformed, reasmAt_dropReasm]
      · obtain ⟨hw, hc⟩ := malformed_field (s := dropReasm s path source) hp
        exact ⟨hw, by rw [hc, getN_updN_self]; rfl⟩
  · intro role fp c hlen hrole hz hl
    exact ⟨dapOpen_locked hlen hrole hz hl, dapOpen_unknown hlen hrole hz hl, dapOpen_challenges hlen hrole hz hl⟩
  · exact ⟨fun hr hcert key hk => dapProve_enrolled hl hsig hc ht hlock hr hcert hk hroom,
      fun hr hcert => dapProve_maker hl hsig hc ht hlock hr hcert hroom⟩
  · refine ⟨fun n => ⟨_, rfl, ?_⟩, fun path source txn => ⟨_, rfl, rfl⟩, fun fp => ⟨_, rfl, rfl, fun x => ?_⟩, fun path => ⟨_, rfl, rfl, fun x => ?_, ?_⟩⟩
    · obtain ⟨-, h, -⟩ := closeSessions_effect s (fun e => e.num == n)
      exact h
    · simp [updMgmt]
    · simp [updMgmt]
    · simp [updMgmt]

end Sys2Proof.Machine
end

section
/-! PROOF. READ and WRITE of objects, and the audit log's entries, exports and acknowledgements (R496, R498 to R502, R505). -/

namespace Sys2Proof.Machine

section
variable {s t : State}

/-! Fields of a message. -/

theorem leAt_field {x : Bytes} {off : Nat} (hx : x.length = off) (n v : Nat) (y : Bytes) : leAt (x ++ (leBytes n v ++ y)) off n = v % 256 ^ n := by
  rw [leAt, List.drop_left' hx, List.take_left' (leBytes_length n v), leNat_leBytes]
theorem writeBody_eq (ix sub : Nat) (value : Bytes) : writeBody ix sub value
    = leBytes 2 ix ++ (leBytes 1 sub ++ ([0#8] ++ (leBytes 4 value.length ++ (value ++ zeros (alignUp value.length 8 - value.length))))) := by
  simp [writeBody, padTo]
theorem byteAt_field {x : Bytes} {off : Nat} (hx : x.length = off) (v : Nat) (y : Bytes) : byteAt (x ++ (leBytes 1 v ++ y)) off = v % 256 :=
  leAt_field hx 1 v y

/-- A WRITE's body gives back its index, subindex and value. -/
structure WriteBody (b : Bytes) (ix sub : Nat) (value : Bytes) : Prop where
  index : leAt b 0 2 = ix
  subindex : byteAt b 2 = sub
  reserved : byteAt b 3 = 0
  size : leAt b 4 4 = value.length
  bytes : sliceB b 8 value.length = value
  length : b.length = 8 + alignUp value.length 8
  padding : (b.drop (8 + value.length)).all (· == 0#8) = true
theorem writeBody_fields {ix sub : Nat} {value : Bytes} (hix : ix < 65536) (hsub : sub < 256) (hv : value.length < 2 ^ 32) :
    WriteBody (writeBody ix sub value) ix sub value := by
  have hpad : value.length ≤ alignUp value.length 8 := by
    unfold alignUp ceilDiv
    omega
  have hz : [0#8] = leBytes 1 0 := rfl
  have hcut : writeBody ix sub value = (leBytes 2 ix ++ (leBytes 1 sub ++ ([0#8] ++ leBytes 4 value.length)))
      ++ (value ++ zeros (alignUp value.length 8 - value.length)) := by
    rw [writeBody_eq]
    simp only [List.append_assoc]
  constructor
  · rw [writeBody_eq]
    exact (leAt_field (x := []) rfl 2 ix _).trans (Nat.mod_eq_of_lt hix)
  · rw [writeBody_eq]
    exact (byteAt_field (leBytes_length 2 ix) sub _).trans (Nat.mod_eq_of_lt hsub)
  · rw [writeBody_eq, ← List.append_assoc, hz]
    exact byteAt_field (x := leBytes 2 ix ++ leBytes 1 sub) rfl 0 _
  · rw [writeBody_eq, ← List.append_assoc, ← List.append_assoc]
    exact (leAt_field (x := leBytes 2 ix ++ leBytes 1 sub ++ [0#8]) rfl 4 _ _).trans (Nat.mod_eq_of_lt hv)
  · rw [hcut, sliceB, List.drop_left' (by simp), List.take_left' rfl]
    simp
  · rw [hcut]
    simp only [List.length_append, leBytes_length, zeros_length, List.length_singleton]
    omega
  · rw [hcut, ← List.append_assoc, List.drop_left' (by simp only [List.length_append, leBytes_length, List.length_singleton])]
    simp [zeros]

/-- Every object stands at an index and subindex that a message can name. -/
theorem objRows_named : objRows.all (fun r => decide (r.ix < 65536) && decide (r.hi < 256)) = true := by decide
theorem objAt_named {ix sub role : Nat} {o : ObjRow} (ho : objAt ix sub = some o) (hw : mayWrite o role = true) : ix < 65536 ∧ sub < 256 := by
  unfold objAt at ho
  split at ho
  · obtain ⟨-, -, rfl⟩ := Option.map_eq_some_iff.1 ho
    simp [mayWrite, rightOf, num] at hw
  · have hm := List.all_eq_true.1 objRows_named o (List.mem_of_find?_eq_some ho)
    have hp := List.find?_some ho
    simp at hm hp
    omega

/-! Entries of the audit log. -/

theorem auditEntry_length (s : State) (seq role result path : Nat) (fp : Bytes) (ix sub flags : Nat) (old new : Bytes) :
    (auditEntry s seq role result path fp ix sub flags old new).length = 64 := by
  have hp : (hostPairBytes s).length = 16 := by
    unfold hostPairBytes
    split <;> simp
  simp [auditEntry, hp]

/-- The agent's state without its audit log. -/
def auditless (m : Mgmt) : Mgmt := { m with audit := [], auditSeq := 0, auditHead := none, audit90 := false, overflow := none }
/-- An entry joins the audit log; the last but one of a full log is followed by the overflow entry. -/
theorem auditRecord_joins (h : s.mgmt.overflow = none) (role result path : Nat) (fp : Bytes) (ix sub : Nat) (old new : Bytes) :
    let t := auditRecord s role result path fp ix sub old new
    auditless t.mgmt = auditless s.mgmt ∧ ∃ e, e.length = 64 ∧ let c := sha256 (auditHead s ++ e)
      (auditCount s ≠ 4094 → t.mgmt.audit = s.mgmt.audit ++ [(e, c)] ∧ t.mgmt.auditHead = some c)
      ∧ ∃ k, k ≠ [] ∧ t.mgmt.audit = s.mgmt.audit ++ k := by
  intro t
  have ht : t = auditRecord s role result path fp ix sub old new := rfl
  clear_value t
  unfold auditRecord at ht
  split at ht
  · next o ho => exact absurd (h.symm.trans ho) (Option.some_ne_none o).symm
  extract_lets flags s1 n s2 s3 prev s4 at ht
  have h2 : s2.mgmt = { s1.mgmt with audit90 := s2.mgmt.audit90 } := by
    simp only [s2]
    split <;> rfl
  have h3 : s3.mgmt = s2.mgmt := by
    simp only [s3]
    split <;> rfl
  have ha : s3.mgmt.audit = s1.mgmt.audit := by rw [h3, h2]
  have hh : s3.mgmt.auditHead = s1.mgmt.auditHead := by rw [h3, h2]
  have hl : auditless s3.mgmt = auditless s.mgmt := by
    rw [h3, h2]
    rfl
  have hn : n = auditCount s + 1 := List.length_append
  refine ⟨?_, _, auditEntry_length s (s.mgmt.auditSeq + 1).toNat role result path fp ix sub flags (auditValue old) (auditValue new),
    fun hc => ?_, ?_⟩
  · rw [ht]
    split <;> exact hl
  · rw [ht, if_neg (by omega)]
    exact ⟨ha, hh⟩
  · rw [ht]
    split
    · exact ⟨_, List.append_ne_nil_of_left_ne_nil (List.cons_ne_nil _ []) _, (congrArg (· ++ _) ha).trans (List.append_assoc ..)⟩
    · exact ⟨_, List.cons_ne_nil _ _, ha⟩

/-! READ. -/

variable {req : DapReq} {body : Bytes} {se : Session}

/-- The effect of a READ on the state in which it is the session's last request. -/
def readObject (req : DapReq) (body : Bytes) (se : Session) (u : State) : State :=
  let ix := leAt body 0 2
  let sub := byteAt body 2
  match objAt ix sub with
  | none => respond u req stNoObject []
  | some o => if !mayRead o se.role.val then respond (badAccess u req.path se.fp) req stAccess []
      else respond u req stOk (if o.kind = 3 then objPart u ix sub (leAt body 4 4) 4096 else objBytes u ix sub)
theorem exec_dapRead (ha : asks s req 0x10 body se) (hl : body.length = 8) (hr : byteAt body 3 = 0) :
    exec (.dapRead req body) s = .next (readObject req body se (asked s req 0x10 body)) :=
  congrArg Host.Outcome.next ((if_neg (by simp [hl, hr])).trans (dapRequest_next ha _))
theorem raised_badAccess (s : State) (p : DapPath) (fp : Bytes) : raised s (badAccess s p fp) 0x9011 := by
  refine raised.later (t := agentEvent (bumpPath s p 2) 0x9011 1 [])
    ((raised_agentEvent (bumpPath s p 2) 0x9011 1 []).after (noted_refl s).bumpPath.events) ?_
  exact (Noted.ite (noted_refl _).updMgmt.lockCred (noted_refl _).updMgmt).events
theorem readObject_refused {u : State} {o : ObjRow} (ho : objAt (leAt body 0 2) (byteAt body 2) = some o) (hm : mayRead o se.role.val = false) :
    answered (readObject req body se u) req stAccess [] ∧ ∃ e ∈ (readObject req body se u).events, e.code = 0x9011#16 := by
  have hr : readObject req body se u = respond (badAccess u req.path se.fp) req stAccess [] := by simp [readObject, ho, hm]
  rw [hr]
  exact ⟨answered_respond .., (raised_badAccess ..).mem⟩

/-! WRITE. -/

theorem plainCheck_ne_access (ix sub : Nat) (value : Bytes) (z : Bool) (u : State) : plainCheck ix sub value z u ≠ stAccess := by
  unfold plainCheck
  split
  · decide
  · extract_lets _ v inRange
    split
    · decide
    · split
      · decide
      · split <;> decide
theorem exec_dapWrite {ix sub : Nat} {value : Bytes} (hb : WriteBody (writeBody ix sub value) ix sub value) (hown : ownRow ix sub = false) :
    exec (.dapWrite req (writeBody ix sub value)) s
      = .next (dapWrite s req ix sub value (fun _ s => plainCheck ix sub value true s) (fun _ s => plainApply ix sub value s)) := by
  obtain ⟨hix, hsub, hres, hn, hv, hlen, hpad⟩ := hb
  change Host.Outcome.next (ite _ _ _) = _
  simp only [hix, hsub, hn, hv, hpad, hown]
  rw [if_neg (by simp [hres, hlen])]
  rfl
theorem dapWrite_writes {ix sub : Nat} {value : Bytes} (h : canWrite s req ix sub value se) (hv : value.length ≤ 16384) (hown : ownRow ix sub = false) :
    let u := asked s req 0x11 (writeBody ix sub value ++ req.sig)
    writes (.dapWrite req (writeBody ix sub value)) s req ix sub value se (fun w t =>
      (plainCheck ix sub value true u = stOk → t = plainApply ix sub value w)
      ∧ (plainCheck ix sub value true u ≠ stOk → t = refuseWrite u req se.role.val se.fp ix sub (oldValue s ix sub) value
          (plainCheck ix sub value true u))) := by
  intro u
  obtain ⟨o, ho, hw⟩ : ∃ o, objAt ix sub = some o ∧ mayWrite o se.role.val = true := by
    obtain ⟨-, -, -, -, -, -, -, ho⟩ := h
    exact ho
  obtain ⟨hix, hsub⟩ := objAt_named ho hw
  have he := exec_dapWrite (s := s) (req := req) (writeBody_fields hix hsub (hv.trans_lt (by decide))) hown
  rw [dapWrite_cases h] at he
  refine ⟨_, he, fun hg => ?_, fun hg => ?_⟩
  · rw [if_pos hg, if_neg (plainCheck_ne_access ix sub value true _)]
    exact ⟨fun hok => if_neg (not_not.2 hok), fun hno => if_pos hno⟩
  · rw [hg]
    exact if_neg Bool.false_ne_true

/-! What an accepted write leaves before its effect. -/

/-- The session of an answered request counts it. -/
theorem sessionFor_touch (hse : sessionFor s req = some se) : sessionFor (touch s req) req = some { se with seq := req.seq, lastAt := mgmtTime s } := by
  have hn := (sessionFor_mem hse).2
  have hf : ((fun e : Session => e.num == req.session && e.path == req.path && e.source == req.source) ∘ fun e : Session =>
      if e.num = req.session then { e with seq := req.seq, lastAt := mgmtTime s } else e)
      = fun e => e.num == req.session && e.path == req.path && e.source == req.source := by
    funext e
    dsimp only [Function.comp]
    split <;> rfl
  change List.find? _ (List.map _ s.mgmt.sessions) = _
  rw [List.find?_map, hf]
  change Option.map _ (sessionFor s req) = _
  rw [hse, Option.map_some, if_pos hn]

section
variable {ix sub : Nat} {value : Bytes}

/-- The state in which the entry of an accepted write has been recorded. -/
def recorded (s : State) (r : DapReq) (ix sub : Nat) (value : Bytes) (se : Session) : State :=
  auditRecord (asked s r 0x11 (writeBody ix sub value ++ r.sig)) se.role.val stOk (pathCode r.path) se.fp ix sub (oldValue s ix sub) value
theorem granted_eq (h : canWrite s req ix sub value se) : granted s req ix sub value se = respond (recorded s req ix sub value se) req stOk [] := by
  obtain ⟨-, hs⟩ := asked_frame h
  change respond (recordWrite (asked ..) ..).1 req stOk [] = _
  unfold recordWrite
  rw [hs]
  rfl
theorem mgmt_asked {b : Bytes} {service : Nat} (hl : listens s req service b) : auditless (asked s req service b).mgmt = { auditless s.mgmt with
    serving := BitVec.ofNat 8 service, inbox := (asked s req service b).mgmt.inbox, times := (asked s req service b).mgmt.times
    excess := (asked s req service b).mgmt.excess, sessions := (touch s req).mgmt.sessions } := by
  unfold asked
  rw [heard_frame hl]
  rfl
theorem granted_leaves (h : canWrite s req ix sub value se) : let w := granted s req ix sub value se
    w = { s with mgmt := w.mgmt, events := w.events }
    ∧ w.mgmt.out = s.mgmt.out ++ [{ path := req.path, source := req.source, service := 0x11#8, txn := req.txn, session := req.session
                                    seq := req.seq, status := 0, body := [] }]
    ∧ sessionFor w req = some { se with seq := req.seq, lastAt := mgmtTime s }
    ∧ (∃ e h, (auditCount s ≠ 4094 → w.mgmt.audit = s.mgmt.audit ++ [(e, h)] ∧ w.mgmt.auditHead = some h)
        ∧ h = sha256 (auditHead s ++ e) ∧ e.length = 64)
    ∧ w.mgmt.creds = s.mgmt.creds := by
  have hw := granted_eq h
  obtain ⟨ha, -⟩ := asked_frame h
  refine ⟨(granted_effect h).1, ?_⟩
  obtain ⟨hl, -, hse, -, hov, -⟩ := h
  have hm := mgmt_asked hl
  have hh := heard_frame hl
  have hov' : (asked s req 0x11 (writeBody ix sub value ++ req.sig)).mgmt.overflow = none := by
    unfold asked
    rw [hh]
    exact hov
  obtain ⟨hr, e, he, hj, -⟩ := auditRecord_joins hov' se.role.val stOk (pathCode req.path) se.fp ix sub (oldValue s ix sub) value
  have hrm : auditless (recorded s req ix sub value se).mgmt = _ := hr.trans hm
  have haud : (asked s req 0x11 (writeBody ix sub value ++ req.sig)).mgmt.audit = s.mgmt.audit := by
    unfold asked
    rw [hh]
    rfl
  have hhead : auditHead (asked s req 0x11 (writeBody ix sub value ++ req.sig)) = auditHead s := by
    unfold asked
    rw [hh]
    rfl
  rw [hw]
  refine ⟨?_, ?_, ⟨e, _, fun hc => ?_, rfl, he⟩, (congrArg Mgmt.creds hrm :)⟩
  · have ho : (recorded s req ix sub value se).mgmt.out = s.mgmt.out := (congrArg Mgmt.out hrm :)
    have hv : (recorded s req ix sub value se).mgmt.serving = 0x11#8 := (congrArg Mgmt.serving hrm :)
    change (recorded s req ix sub value se).mgmt.out ++ [_] = _
    rw [ho, hv]
    rfl
  · have hs : (recorded s req ix sub value se).mgmt.sessions = (touch s req).mgmt.sessions := (congrArg Mgmt.sessions hrm :)
    change List.find? _ (recorded s req ix sub value se).mgmt.sessions = _
    rw [hs]
    exact sessionFor_touch hse
  · rw [← hhead, ← haud]
    exact hj (by rw [auditCount, haud]; exact hc)
end

/-! The audit services. -/

theorem asked_keeps {b : Bytes} {service : Nat} (hl : listens s req service b) : let u := asked s req service b
    u.mgmt.audit = s.mgmt.audit ∧ u.mgmt.storeFail = s.mgmt.storeFail ∧ u.sec = s.sec := by
  dsimp only [asked]
  rw [heard_frame hl]
  exact ⟨rfl, rfl, rfl⟩
/-- The answer to EXPORT of count entries from place i. -/
def auditExported (s u : State) (req : DapReq) (i : Option Nat) (count : Nat) : State :=
  match i with
  | none => respond u req stRange []
  | some i => if !s.sec.idReady then respond u req stState [] else
      let es := (s.mgmt.audit.drop i).take count
      let b := es.flatMap (fun e => e.1) ++ (match es.getLast? with | some e => e.2 | none => [])
      respond u req stOk (b ++ identSign (leBytes 8 Config.idrev.toNat ++ b))
theorem exec_auditExport (ha : asks s req 0x20 body se) (hl : body.length = 8) (hpos : 1 ≤ leAt body 4 4) (hmax : leAt body 4 4 ≤ 64)
    (hr : se.role ≠ 0) : exec (.auditExport req body) s
      = .next (auditExported s (asked s req 0x20 body) req (auditAt s (leAt body 0 4)) (leAt body 4 4)) := by
  have hlisten := ha.1
  obtain ⟨hau, -, hsec⟩ := asked_keeps hlisten
  refine congrArg Host.Outcome.next ((if_neg (by simp [hl]; omega)).trans ((dapRequest_next ha _).trans ((if_neg hr).trans ?_)))
  rw [auditAt, hau, ← auditAt, hsec]
  cases auditAt s (leAt body 0 4) with
  | none => rfl
  | some i => rfl

/-- A refusal of an acknowledgement. -/
def ackRefused (u : State) (req : DapReq) (body : Bytes) (role : Nat) (fp : Bytes) (status : Nat) : State :=
  refuseWrite u req role fp 0 0 ((sliceB body 8 32).take 8) (leBytes 4 (leAt body 0 4)) status
/-- The log without the entries that an acknowledgement frees, up to place i. -/
def logFreed (u : State) (i : Nat) : State := updMgmt u (fun m => { m with audit := m.audit.drop (i + 1), overflow := none, audit90 := false })
/-- The acknowledgement joins the log that it has freed. -/
def ackRecorded (u : State) (req : DapReq) (body : Bytes) (fp : Bytes) (i : Nat) : State :=
  auditRecord (logFreed u i) 1 stOk (pathCode req.path) fp 0 0 ((sliceB body 8 32).take 8) (leBytes 4 (leAt body 0 4))
theorem ackRecorded_audit (u : State) (req : DapReq) (body : Bytes) (fp : Bytes) (i : Nat) : ∃ k, k ≠ []
    ∧ (ackRecorded u req body fp i).mgmt.audit = u.mgmt.audit.drop (i + 1) ++ k := by
  obtain ⟨-, -, -, -, h⟩ := auditRecord_joins (s := logFreed u i) rfl 1 stOk (pathCode req.path) fp 0 0 ((sliceB body 8 32).take 8)
    (leBytes 4 (leAt body 0 4))
  exact h

section
variable {i : Nat} {e : Bytes × Bytes} (ha : asks s req 0x21 (body ++ req.sig) se) (hsig : req.sig.length = 7856) (hl : body.length = 40)
  (hz : leAt body 4 4 = 0) (hr : se.role = 1) (hs : s.mgmt.storeFail = false) (hat : auditAt s (leAt body 0 4) = some i)
  (he : s.mgmt.audit[i]? = some e)
include ha hsig hl hz hr hs hat he

theorem exec_auditAck : let u := asked s req 0x21 (body ++ req.sig)
    exec (.auditAck req body) s = .next (if signedOk se req 0x21 body then
        if e.2 ≠ sliceB body 8 32 then ackRefused u req body 1 se.fp stDigest
        else respond (agentEvent (ackRecorded u req body se.fp i) 0x9022 0 []) req stOk []
      else ackRefused (badSig (heard s req 0x21 (body ++ req.sig)) req.path se.fp) req body se.role.val se.fp stSignature) := by
  intro u
  obtain ⟨hlisten, hse, hseq⟩ := ha
  obtain ⟨hau, hst, -⟩ := asked_keeps hlisten
  have hat' : auditAt u (leAt body 0 4) = some i := by rw [auditAt, hau]; exact hat
  have hlast : (u.mgmt.audit.map (fun e => e.2)).getD i [] = e.2 := by
    rw [hau]
    simp [he]
  refine congrArg Host.Outcome.next ((if_neg (by simp [hl, hz])).trans ((dapSigned_next hlisten hsig hse hseq _ _).trans
    (if_congr Iff.rfl ((if_neg (not_not.2 hr)).trans ?_) rfl)))
  change (match auditAt u (leAt body 0 4) with | none => _ | some i => _) = _
  rw [hat']
  change ite ((u.mgmt.audit.map (fun e => e.2)).getD i [] ≠ _) _ (ite (u.mgmt.storeFail = true) _ _) = _
  rw [hlast, hst, hs]
  rfl
theorem auditAck_answers : ∃ t, exec (.auditAck req body) s = .next t
      ∧ (signedOk se req 0x21 body = true → e.2 = sliceB body 8 32 → answered t req stOk []
          ∧ (∃ k, k ≠ [] ∧ t.mgmt.audit = s.mgmt.audit.drop (i + 1) ++ k) ∧ ∃ x ∈ t.events, x.code = 0x9022#16)
      ∧ (signedOk se req 0x21 body = true → e.2 ≠ sliceB body 8 32 → answered t req stDigest [])
      ∧ (signedOk se req 0x21 body = false → answered t req stSignature []) := by
  refine ⟨_, exec_auditAck ha hsig hl hz hr hs hat he, fun hg hc => ?_, fun hg hc => ?_, fun hg => ?_⟩
  · obtain ⟨hau, -⟩ := asked_keeps ha.1
    obtain ⟨k, hk, hj⟩ := ackRecorded_audit (asked s req 0x21 (body ++ req.sig)) req body se.fp i
    rw [if_pos hg, if_neg (not_not.2 hc)]
    refine ⟨answered_respond .., ⟨k, hk, ?_⟩, (raised_agentEvent (ackRecorded (asked s req 0x21 (body ++ req.sig)) req body se.fp i)
      0x9022 0 []).mem⟩
    rw [← hau, ← hj]
    rfl
  · rw [if_pos hg, if_pos hc]
    exact (refuseWrite_effect ((asked_keeps ha.1).2.1.trans hs) ..).2
  · rw [hg]
    have hb : Noted (heard s req 0x21 (body ++ req.sig)) (badSig (heard s req 0x21 (body ++ req.sig)) req.path se.fp) := (noted_refl _).badSig
    have hst : (badSig (heard s req 0x21 (body ++ req.sig)) req.path se.fp).mgmt.storeFail = false :=
      (congrArg Mgmt.storeFail hb.own :).trans ((asked_keeps ha.1).2.1.trans hs)
    exact (refuseWrite_effect hst ..).2
end
end

/-- Settles O54: a request of an open session that the agent hears comes down to its service on the heard state, a signed one to its
signature first; the entry of an accepted write joins the log before the answer. -/
theorem objectsAndGrantedWritesAreRecorded : Obligations.ObjectsAndGrantedWritesAreRecorded := by
  refine ⟨⟨fun req body se s ha hl hr => ?_, fun req ix sub value se s h hv hown => dapWrite_writes h hv hown,
    fun req body se s ha hl hpos hmax hrole => ?_,
    fun req body se s i e ha hsig hl hz hr hs hat he => auditAck_answers ha hsig hl hz hr hs hat he⟩,
    fun s r ix sub value se h => granted_leaves h⟩
  · have hx := exec_dapRead ha hl hr
    have hread : ∀ {o : ObjRow}, objAt (leAt body 0 2) (byteAt body 2) = some o → mayRead o se.role.val = true →
        exec (.dapRead req body) s = .next (respond (asked s req 0x10 body) req stOk (if o.kind = 3
          then objPart (asked s req 0x10 body) (leAt body 0 2) (byteAt body 2) (leAt body 4 4) 4096
          else objBytes (asked s req 0x10 body) (leAt body 0 2) (byteAt body 2))) := fun ho hm => by
      rw [hx]
      simp only [readObject, ho, hm]
      rfl
    refine ⟨fun ho => ?_, fun o ho => ⟨fun hm hk => ?_, fun hm hk => ?_, fun hm => ⟨_, hx, readObject_refused ho hm⟩⟩⟩
    · rw [hx]
      simp only [readObject, ho]
    · rw [hread ho hm, if_neg hk]
    · rw [hread ho hm, if_pos hk]
  · have hx := exec_auditExport ha hl hpos hmax hrole
    refine ⟨fun hat => ?_, fun i hat hid e he => ?_⟩
    · rw [hx, hat]
      rfl
    · rw [hx, hat]
      simp only [auditExported, hid, he]
      rfl

end Sys2Proof.Machine
end

section
/-! PROOF. Publishers, quotes, maker epochs and debug access (R557 to R564, R568). -/

namespace Sys2Proof.Machine

section
variable {s t : State}

/-! Violations and refusals leave what is secured as it is while debug is closed. -/

section
variable {q : Security} (hq : q.debugOpen = false) (hs : s.sec = q)
include hq hs

theorem closeDebug_shut : (closeDebug s).sec = q := by
  rw [closeDebug, if_pos (by rw [hs, hq]; rfl), hs]
theorem closeSessions_shut (f : Session → Bool) : (closeSessions s f).sec = q := by
  unfold closeSessions
  extract_lets _ u
  split
  · exact closeDebug_shut hq hs
  · exact hs
theorem wlQuarantine_shut (n : Nat) : (wlQuarantine s n).sec = q := by
  unfold wlQuarantine
  split
  · exact hs
  · exact closeSessions_shut (s := wlState (updWl s n _) n 7) hq hs _
theorem wlViolation_shut (n counter : Nat) (event : Bool) : (wlViolation s n counter event).sec = q := by
  unfold wlViolation
  extract_lets _ s1 s2 s3
  have h3 : s3.sec = q := by
    simp only [s3]
    split <;> exact hs
  split
  · exact wlQuarantine_shut hq h3 n
  · exact h3
theorem bumpPath_shut (p : DapPath) (counter : Nat) : (bumpPath s p counter).sec = q := by
  cases p with
  | wenlink n => exact wlViolation_shut (s := wlCount s n.val 8) hq hs n.val 0 false
  | can => exact hs
  | t1s => exact hs
theorem lockCred_shut (fp : Bytes) : (lockCred s fp).sec = q := by
  unfold lockCred
  split
  · exact hs
  · exact closeSessions_shut (s := updMgmt s _) hq hs _
theorem badAccess_shut (p : DapPath) (fp : Bytes) : (badAccess s p fp).sec = q := by
  have h := bumpPath_shut hq hs p 2
  unfold badAccess
  extract_lets s1 ts s2
  split
  · exact lockCred_shut (s := s2) hq h fp
  · exact h
end

/-! Writes whose object's own rules have one refusal. -/

variable {req : DapReq} {se : Session}

theorem onlyAgent_sec (h : onlyAgent s t) : t.sec = s.sec := by
  unfold onlyAgent at h
  rw [h]
section
variable {ix sub : Nat} {value : Bytes} (h : canWrite s req ix sub value se)
include h

theorem asked_sec : (asked s req 0x11 (writeBody ix sub value ++ req.sig)).sec = s.sec := onlyAgent_sec (asked_frame h).1
theorem granted_sec : (granted s req ix sub value se).sec = s.sec := onlyAgent_sec (granted_effect h).1
theorem asked_creds : (asked s req 0x11 (writeBody ix sub value ++ req.sig)).mgmt.creds = s.mgmt.creds := by
  obtain ⟨hl, -⟩ := h
  exact (congrArg Mgmt.creds (mgmt_asked hl) :)
/-- A write that p lets take effect, and that is else refused with one status. -/
theorem writes_if {i : Instr} {check : Session → State → Nat} {apply : Session → State → State} {P : State → State → Prop} {p : Prop}
    {st : Nat} (hi : exec i s = .next (dapWrite s req ix sub value check apply)) (hst : st ≠ stOk ∧ st ≠ stAccess)
    (hyes : p → check se (asked s req 0x11 (writeBody ix sub value ++ req.sig)) = stOk)
    (hno : ¬ p → check se (asked s req 0x11 (writeBody ix sub value ++ req.sig)) = st)
    (hok : p → P (granted s req ix sub value se) (apply se (granted s req ix sub value se)))
    (href : ∀ t, ¬ p → t.sec = s.sec → answered t req st [] → P (granted s req ix sub value se) t) :
    writes i s req ix sub value se P := by
  by_cases hp : p
  · exact writes_of h hi (fun _ => hok hp) (by rw [hyes hp]; decide) fun _ _ hc hne => absurd (hc.symm.trans (hyes hp)) hne
  · refine writes_of h hi (fun hc => absurd ((hno hp).symm.trans hc) hst.1) (by rw [hno hp]; exact hst.2) fun st' t hc _ hf ha => ?_
    exact href t hp (onlyAgent_sec hf) (((hno hp).symm.trans hc) ▸ ha)
end

/-! Publishers. -/

theorem publisherCert_writes {n : Fin 8} {c : Bytes} (hc : c.length = 7936) (h : canWrite s req 0x4E10 (n.val + 1) c se) :
    writes (.publisherCert req n c) s req 0x4E10 (n.val + 1) c se (fun w t =>
      (leNat c ≠ 0 → publisherOk s c = true → t = { w with sec := t.sec } ∧ lookupN t.sec.certs n.val = some c
        ∧ lookupN t.sec.fps n.val = none)
      ∧ (leNat c = 0 → lookupN t.sec.certs n.val = none ∧ lookupN t.sec.fps n.val = none)
      ∧ (leNat c ≠ 0 → publisherOk s c = false → t.sec = s.sec ∧ answered t req stRange [])) := by
  have hp : publisherOk (asked s req 0x11 (writeBody 0x4E10 (n.val + 1) c ++ req.sig)) c = publisherOk s c := by
    rw [publisherOk, asked_creds h, publisherOk]
  refine writes_if (st := stRange) (p := leNat c = 0 ∨ publisherOk s c = true) h (if_neg (not_not.2 hc)) (by decide) (fun hk => ?_) (fun hk => ?_)
    (fun hk => ?_) (fun t hk hf ha => ?_)
  · exact if_pos (by simpa [hp] using hk)
  · exact if_neg (by simpa [hp] using hk)
  · refine ⟨fun h0 _ => ⟨rfl, ?_, lookupN_delN_self ..⟩, fun h0 => ⟨?_, lookupN_delN_self ..⟩, fun h0 hno => ?_⟩
    · exact (congrArg (lookupN · n.val) (if_neg h0)).trans (lookupN_putN_self ..)
    · exact (congrArg (lookupN · n.val) (if_pos h0)).trans (lookupN_delN_self ..)
    · simp [h0, hno] at hk
  · exact ⟨fun _ ho => absurd (.inr ho) hk, fun h0 => absurd (.inl h0) hk, fun _ _ => ⟨hf, ha⟩⟩

/-- The fingerprint of publisher n is that of its certificate's key. -/
def fitsCert (s : State) (n : Nat) (fp : Bytes) : Bool :=
  match lookupN s.sec.certs n with | some c => fpOf (cKey c) == fp | none => false
theorem fitsCert_iff (s : State) (n : Nat) (fp : Bytes) : fitsCert s n fp = true ↔ ∃ c, lookupN s.sec.certs n = some c ∧ fpOf (cKey c) = fp := by
  unfold fitsCert
  split
  · next c hc => simp [hc]
  · next hc => simp [hc]
theorem publisherFp_writes {n : Fin 8} {fp : Bytes} (hl : fp.length = 8) (h : canWrite s req 0x5304 (n.val + 1) fp se) :
    writes (.publisherFp req n fp) s req 0x5304 (n.val + 1) fp se (fun w t =>
      (∀ c, lookupN s.sec.certs n.val = some c → fpOf (cKey c) = fp → leNat fp ≠ 0 → t = { w with sec := t.sec }
        ∧ lookupN t.sec.fps n.val = some fp ∧ t.sec.certs = s.sec.certs)
      ∧ (leNat fp = 0 → lookupN t.sec.fps n.val = none)
      ∧ (leNat fp ≠ 0 → (∀ c, lookupN s.sec.certs n.val = some c → fpOf (cKey c) ≠ fp) → t.sec = s.sec ∧ answered t req stRange [])) := by
  have hp : fitsCert (asked s req 0x11 (writeBody 0x5304 (n.val + 1) fp ++ req.sig)) n.val fp = fitsCert s n.val fp := by
    rw [fitsCert, asked_sec h, fitsCert]
  have hfit := fitsCert_iff s n.val fp
  have hi : exec (.publisherFp req n fp) s = .next (dapWrite s req 0x5304 (n.val + 1) fp
      (fun _ s => if leNat fp = 0 || fitsCert s n.val fp then stOk else stRange)
      (fun _ s => updSec s (fun q => { q with fps := if leNat fp = 0 then delN q.fps n.val else putN q.fps n.val fp }))) := if_neg (not_not.2 hl)
  refine writes_if (st := stRange) (p := leNat fp = 0 ∨ fitsCert s n.val fp = true) h hi (by decide) (fun hk => ?_) (fun hk => ?_)
    (fun hk => ?_) (fun t hk hf ha => ?_)
  · exact if_pos (by simpa [hp] using hk)
  · exact if_neg (by simpa [hp] using hk)
  · refine ⟨fun c hc hfp h0 => ⟨rfl, ?_, (congrArg Security.certs (granted_sec h) :)⟩, fun h0 => ?_, fun h0 hno => ?_⟩
    · exact (congrArg (lookupN · n.val) (if_neg h0)).trans (lookupN_putN_self ..)
    · exact (congrArg (lookupN · n.val) (if_pos h0)).trans (lookupN_delN_self ..)
    · obtain ⟨c, hc, he⟩ := hfit.1 (hk.resolve_left h0)
      exact absurd he (hno c hc)
  · exact ⟨fun c hc he _ => absurd (.inr (hfit.2 ⟨c, hc, he⟩)) hk, fun h0 => absurd (.inl h0) hk, fun _ _ => ⟨hf, ha⟩⟩

/-! Quotes. -/

theorem quoteRequest_writes {nonce : Bytes} (hl : nonce.length = 32) (h : canWrite s req 0x4E20 1 nonce se) :
    writes (.quoteRequest req nonce) s req 0x4E20 1 nonce se (fun w t =>
      (s.sec.idReady = true → s.sec.quoteSt ≠ 1 → t = { w with sec := { w.sec with quoteSt := 1, nonce := nonce } })
      ∧ (s.sec.idReady = false ∨ s.sec.quoteSt = 1 → t.sec = s.sec ∧ answered t req stState [])) := by
  refine writes_if (st := stState) (p := s.sec.idReady = true ∧ s.sec.quoteSt ≠ 1) h rfl (by decide) (fun hk => ?_) (fun hk => ?_)
    (fun hk => ⟨fun _ _ => rfl, fun hno => ?_⟩) (fun t hk hf ha => ⟨fun hid hq => absurd ⟨hid, hq⟩ hk, fun _ => ⟨hf, ha⟩⟩)
  · rw [asked_sec h]
    simp [hl, hk]
  · rw [asked_sec h]
    cases hid : s.sec.idReady <;> simp_all
  · rcases hno with hid | hq
    · simp [hid] at hk
    · exact absurd hq hk.2
theorem sliceB_field {x v : Bytes} {off n : Nat} (hx : x.length = off) (hv : v.length = n) (y : Bytes) : sliceB (x ++ (v ++ y)) off n = v := by
  rw [sliceB, List.drop_left' hx, List.take_left' hv]
  simp [hv]
theorem leAt_head (n v : Nat) (y : Bytes) : leAt (leBytes n v ++ y) 0 n = v % 256 ^ n := leAt_field (x := []) rfl n v y
theorem quoteFields_head (s : State) (nonce y : Bytes) : ∃ flags rest, quoteFields s nonce ++ y
    = leBytes 4 0x544F5551 ++ (leBytes 2 1 ++ (leBytes 2 flags ++ (leBytes 8 Config.idrev.toNat ++ (sliceB Config.serial 0 16
      ++ (sliceB nonce 0 32 ++ rest))))) := by
  unfold quoteFields
  simp only [List.append_assoc]
  exact ⟨_, _, rfl⟩
theorem quoteFields_magic (s : State) (nonce y : Bytes) : leAt (quoteFields s nonce ++ y) 0 4 = 0x544F5551 := by
  obtain ⟨flags, rest, h⟩ := quoteFields_head s nonce y
  rw [h, leAt_head]
  norm_num
theorem quoteFields_module (s : State) (nonce y : Bytes) : leAt (quoteFields s nonce ++ y) 8 8 = Config.idrev.toNat := by
  obtain ⟨flags, rest, h⟩ := quoteFields_head s nonce y
  rw [h, ← List.append_assoc, ← List.append_assoc, leAt_field (by simp only [List.length_append, leBytes_length])]
  exact Nat.mod_eq_of_lt Config.idrev.isLt
theorem quoteFields_nonce {nonce : Bytes} (hn : nonce.length = 32) (s : State) (y : Bytes) :
    sliceB (quoteFields s nonce ++ y) 0x20 32 = nonce := by
  obtain ⟨flags, rest, h⟩ := quoteFields_head s nonce y
  have hs : sliceB nonce 0 32 = nonce := by simp [sliceB, hn]
  rw [h, hs]
  simp only [← List.append_assoc]
  rw [List.append_assoc _ nonce rest]
  exact sliceB_field (by simp only [List.length_append, leBytes_length, sliceB_length]) hn rest
theorem quoteIssued_signs (hq : s.sec.quoteSt = 1) (hn : s.sec.nonce.length = 32) :
    answers .quoteIssued s (fun t => t = { s with sec := t.sec, events := t.events }
      ∧ t.sec.quoteSt = 2 ∧ t.sec.quote = quoteFields s s.sec.nonce ++ identSign (quoteFields s s.sec.nonce)
      ∧ leAt t.sec.quote 0 4 = 0x544F5551 ∧ leAt t.sec.quote 8 8 = Config.idrev.toNat ∧ sliceB t.sec.quote 0x20 32 = s.sec.nonce
      ∧ ∃ e, t.events = s.events ++ [e] ∧ e.code = 0x8050#16) :=
  ⟨_, congrArg Host.Outcome.next (if_neg (not_not.2 hq)), rfl, rfl, rfl, quoteFields_magic .., quoteFields_module .., quoteFields_nonce hn ..,
    _, rfl, rfl⟩

/-! Maker epochs. -/

theorem closeSessions_epoch (s : State) (f : Session → Bool) : (closeSessions s f).sec.makerEpoch = s.sec.makerEpoch := by
  unfold closeSessions
  extract_lets debug u
  split
  · unfold closeDebug
    split
    · rfl
    · change (reloadAll (updSec u _)).sec.makerEpoch = _
      rw [reloadAll_frame]
      rfl
  · rfl
theorem makerEpochMin_writes {v : Byte} (h : canWrite s req 0x4E00 4 [v] se) :
    writes (.makerEpochMin req v) s req 0x4E00 4 [v] se (fun _ t =>
      (makerEpoch s ≤ v.toNat → v.toNat ≤ 64 → t.sec.makerEpoch = some v.toNat ∧ ∀ e ∈ t.mgmt.sessions, e.role = 2 → v.toNat ≤ e.epoch)
      ∧ (v.toNat < makerEpoch s ∨ 64 < v.toNat → t.sec = s.sec ∧ answered t req stRange [])) := by
  have hm : makerEpoch (asked s req 0x11 (writeBody 0x4E00 4 [v] ++ req.sig)) = makerEpoch s := by
    rw [makerEpoch, asked_sec h, makerEpoch]
  have hi : exec (.makerEpochMin req v) s = .next (dapWrite s req 0x4E00 4 [v]
      (fun _ s => if v.toNat < makerEpoch s || 64 < v.toNat then stRange else stOk)
      (fun _ s => closeSessions (updSec s (fun q => { q with makerEpoch := some v.toNat })) (fun e => e.role == 2 && decide (e.epoch < v.toNat)))) := by
    rw [← leBytes_one_toNat v]
    rfl
  refine writes_if (st := stRange) (p := makerEpoch s ≤ v.toNat ∧ v.toNat ≤ 64) h hi (by decide) (fun hk => ?_) (fun hk => ?_)
    (fun hk => ⟨fun _ _ => ⟨closeSessions_epoch .., fun e he hr => ?_⟩, fun hno => by omega⟩)
    (fun t hk hf ha => ⟨fun hid hq => absurd ⟨hid, hq⟩ hk, fun _ => ⟨hf, ha⟩⟩)
  · rw [hm]
    exact if_neg (by simp; omega)
  · rw [hm]
    exact if_pos (by simp; omega)
  · rw [(closeSessions_effect ..).sessions, List.mem_filter] at he
    simpa [hr] using he.2

/-! Debug access. -/

theorem debugLock_writes {v : Byte} (h : canWrite s req 0x4E30 2 [v] se) :
    writes (.debugLock req v) s req 0x4E30 2 [v] se (fun w t =>
      (v = 0#8 → t.sec.debugOpen = false ∧ (s.sec.debugOpen = false → t = w) ∧ (s.sec.debugOpen = true → ∃ e ∈ t.events, e.code = 0x8052#16))
      ∧ (v ≠ 0#8 → t.sec = s.sec ∧ answered t req stRange [])) := by
  refine writes_if (st := stRange) (p := v = 0#8) h rfl (by decide) (fun hk => if_neg (not_not.2 hk)) (fun hk => if_pos hk)
    (fun hk => ⟨fun _ => ⟨closeDebug_closes _, fun hc => if_pos ?_, fun ho => ?_⟩, fun hne => absurd hk hne⟩)
    (fun t hk hf ha => ⟨fun hid => absurd hid hk, fun _ => ⟨hf, ha⟩⟩)
  · rw [granted_sec h, hc]
    rfl
  · rw [closeDebug, if_neg (by rw [granted_sec h, ho]; decide)]
    exact (raised_agentEvent _ 0x8052 0 []).mem

theorem dmiAnswer_shape (s : State) {v : Bytes} (hv : v.length = 16) : let a := (dmiAnswer s v).1
    a.length = 16 ∧ sliceB a 0 8 = sliceB v 0 8 ∧ (byteAt v 12 = 2 → sliceB a 8 4 = sliceB v 8 4) ∧ byteAt a 12 ≤ 2 := by
  intro a
  obtain ⟨data, st, hd, hst, ha⟩ : ∃ data st, data.length = 4 ∧ (byteAt v 12 = 2 → data = sliceB v 8 4)
      ∧ a = sliceB v 0 8 ++ (data ++ (leBytes 1 (st % 3) ++ zeros 3)) := by
    refine ⟨if byteAt v 12 = 1 then (freeBytes s 4).1 else sliceB v 8 4, byteAt (freeBytes (freeBytes s 4).2 1).1 0, ?_, fun h => ?_, ?_⟩
    · split
      · exact freeBytes_length s 4
      · exact sliceB_length ..
    · rw [h]
      rfl
    · simp only [a, dmiAnswer, List.append_assoc]
  rw [ha]
  refine ⟨by simp [hd], sliceB_field (x := []) rfl (sliceB_length ..) _, fun h => ?_, ?_⟩
  · rw [sliceB_field (sliceB_length ..) hd, hst h]
  · rw [← List.append_assoc, byteAt_field (by simp [hd])]
    omega
theorem debugDmi_writes {v : Bytes} (h : canWrite s req 0x4E30 4 v se) (hl : v.length = 16) (hop : byteAt v 12 = 1 ∨ byteAt v 12 = 2)
    (hz : leAt v 13 3 = 0) : writes (.debugDmi req v) s req 0x4E30 4 v se (fun w t =>
      (s.sec.debugOpen = false → answered t req stState [] ∧ t.sec = s.sec)
      ∧ (s.sec.debugOpen = true → t = { w with sec := { w.sec with dmi := t.sec.dmi }, free := t.free } ∧ t.sec.dmi.length = 16
        ∧ sliceB t.sec.dmi 0 8 = sliceB v 0 8 ∧ (byteAt v 12 = 2 → sliceB t.sec.dmi 8 4 = sliceB v 8 4) ∧ byteAt t.sec.dmi 12 ≤ 2)) := by
  have hcheck : ∀ x : Nat, (if v.length ≠ 16 || (byteAt v 12 ≠ 1 && byteAt v 12 ≠ 2) || leAt v 13 3 ≠ 0 then stRange else x) = x :=
    fun x => if_neg (by rcases hop with ho | ho <;> simp [hl, ho, hz])
  refine writes_if (st := stState) (p := s.sec.debugOpen = true) h rfl (by decide) (fun hk => (hcheck _).trans ?_) (fun hk => (hcheck _).trans ?_)
    (fun hk => ⟨fun hc => by simp [hk] at hc, fun _ => ⟨rfl, dmiAnswer_shape _ hl⟩⟩)
    (fun t hk hf ha => ⟨fun _ => ⟨ha, hf⟩, fun ho => absurd ho hk⟩)
  · rw [asked_sec h, hk]
    rfl
  · rw [asked_sec h, eq_false_of_ne_true hk]
    rfl

/-! Unlocking. -/

/-- What a debug unlock clears. -/
theorem clearTenants_clears (s : State) : (clearTenants s).reqs = [] ∧ ∀ c, (coreOf (clearTenants s) c).spad = Mem.empty := by
  refine ⟨rfl, fun c => ?_⟩
  unfold clearTenants
  extract_lets u
  have h := lookupN_map_entry (f := fun e : Nat × CoreState => (e.1, { e.2 with spad := Mem.empty })) (fun _ => rfl) c u.cores
  change (Option.getD (lookupN _ c) CoreState.reset).spad = _
  rw [h]
  cases lookupN u.cores c with
  | none => rfl
  | some v => rfl
def unlocked (s : State) (se : Session) : State :=
  agentEvent (updSec (clearTenants s) (fun q => { q with debugOpen := true, debugSince := true, debugBy := some se.num })) 0x8051 3 []
theorem unlocked_effect (s : State) (se : Session) : let t := unlocked s se
    t.sec.debugOpen = true ∧ t.sec.debugSince = true ∧ t.sec.debugBy = some se.num ∧ t.reqs = [] ∧ alertLow t = true
      ∧ (∀ c, (coreOf t c).spad = Mem.empty) ∧ ∃ e ∈ t.events, e.code = 0x8051#16 := by
  have ho : (unlocked s se).sec.debugOpen = true := rfl
  refine ⟨rfl, rfl, rfl, rfl, ?_, (clearTenants_clears s).2, (raised_agentEvent _ 0x8051 3 []).mem⟩
  simp [alertLow, ho]
theorem debugRefused_asked {ix sub : Nat} {value : Bytes} (h : canWrite s req ix sub value se) :
    debugRefused (asked s req 0x11 (writeBody ix sub value ++ req.sig)) = debugRefused s := by
  have hf := (asked_frame h).1
  unfold onlyAgent at hf
  rw [hf]
  rfl
theorem debugUnlock_writes (h : canWrite s req 0x4E30 1 [1#8] se) : writes (.debugUnlock req 1#8) s req 0x4E30 1 [1#8] se (fun w t =>
      (se.serial = false → answered t req stAccess [] ∧ (s.sec.debugOpen = false → t.sec = s.sec))
      ∧ (se.serial = true → debugRefused s = true → answered t req stState [] ∧ t.sec = s.sec)
      ∧ (se.serial = true → debugRefused s = false → s.sec.debugOpen = false → t.sec.debugOpen = true ∧ t.sec.debugSince = true
        ∧ t.sec.debugBy = some se.num ∧ t.reqs = [] ∧ alertLow t = true ∧ (∀ c, (coreOf t c).spad = Mem.empty)
        ∧ ∃ e ∈ t.events, e.code = 0x8051#16)
      ∧ (se.serial = true → debugRefused s = false → s.sec.debugOpen = true → t = w)) := by
  have hi : exec (.debugUnlock req 1#8) s = .next (dapWrite s req 0x4E30 1 [1#8]
      (fun se s => if !se.serial then stAccess else if debugRefused s then stState else stOk)
      (fun se s => if s.sec.debugOpen then s else unlocked s se)) := rfl
  cases hser : se.serial
  · obtain ⟨hask, hstore⟩ := asked_frame h
    refine ⟨_, hi, fun hg => ⟨fun _ => ?_, nofun, nofun, nofun⟩, fun hg => ?_⟩
    all_goals rw [dapWrite_cases h, hg]
    · have hb : Noted (asked s req 0x11 (writeBody 0x4E30 1 [1#8] ++ req.sig)) (badAccess (asked s req 0x11 (writeBody 0x4E30 1 [1#8] ++ req.sig))
          req.path se.fp) := (noted_refl _).badAccess
      obtain ⟨hf, ha⟩ := refuseWrite_effect ((congrArg Mgmt.storeFail hb.own :).trans hstore) req se.role.val se.fp 0x4E30 1
        (oldValue s 0x4E30 1) [1#8] stAccess
      have hst : (if !se.serial then stAccess else if debugRefused (asked s req 0x11 (writeBody 0x4E30 1 [1#8] ++ req.sig)) then stState
          else stOk) = stAccess := if_pos (by rw [hser]; rfl)
      rw [if_pos rfl, if_pos hst]
      exact ⟨ha, fun hc => (onlyAgent_sec hf).trans (badAccess_shut hc (asked_sec h) ..)⟩
    · rfl
  · refine writes_if (st := stState) (p := debugRefused s = false) h hi (by decide) (fun hk => ?_) (fun hk => ?_) (fun hk => ?_)
      (fun t hk hf ha => ⟨nofun, fun _ _ => ⟨ha, hf⟩, fun _ hd => absurd hd hk, fun _ hd => absurd hd hk⟩)
    · rw [debugRefused_asked h, hser, hk]
      rfl
    · rw [debugRefused_asked h, hser, eq_true_of_ne_false hk]
      rfl
    · rw [granted_sec h]
      refine ⟨nofun, fun _ hd => absurd (hk.symm.trans hd) Bool.false_ne_true, fun _ _ ho => ?_, fun _ _ ho => if_pos ho⟩
      rw [if_neg (by simp [ho])]
      exact unlocked_effect ..
end

/-- Settles O55: each write comes to what its object's own rules say of it; no violation or refusal opens debug. -/
theorem securityObjectsAndDebug : Obligations.SecurityObjectsAndDebug := by
  refine ⟨⟨fun req n c se s => ⟨fun hc => if_pos hc, fun hc h => publisherCert_writes hc h⟩,
      fun req n fp se s => ⟨fun hl => if_pos hl, fun hl h => publisherFp_writes hl h⟩,
      fun req nonce se s h hl => quoteRequest_writes hl h,
      fun s => ⟨fun hq => congrArg Host.Outcome.next (if_pos hq), fun hq hn => quoteIssued_signs hq hn⟩,
      fun req v se s h => makerEpochMin_writes h⟩,
    fun req se s h => debugUnlock_writes h, fun req v se s h => debugLock_writes h,
    fun req v se s h hl hop hz => debugDmi_writes h hl hop hz⟩

end Sys2Proof.Machine
end

section
/-! PROOF. Requests, holds and releases of module resets (R462, R463, R470, R488, R574). -/

namespace Sys2Proof.Machine

section
variable {s t u : State}

/-! What a reset leaves of the vaults. -/

/-- Compute has lost its cores; every vault is as it was, and of the rest the mesh, the clusters and the control cores alone differ. -/
structure ComputeLost (s t : State) : Prop where
  cores : t.cores = []
  vaults : ∀ k, (clOf t k).vault = (clOf s k).vault
  fin : t.fin = s.fin
theorem severLink_frame (s : State) (e : Nat × Nat) : onlyMesh s (severLink s e) := by
  unfold severLink
  split
  · exact onlyMesh_refl s
  · exact onlyMesh_trans (onlyMesh_foldl _ (fun t b => cutAt_frame 260 t e.1 e.2 b) _ s) (takeCredits_frame ..).1
theorem vault_map_entry {g : Nat × ClusterState → ClusterState} (hg : ∀ e, (g e).vault = e.2.vault) (m : NMap ClusterState) (k : Nat) :
    (getN ClusterState.reset (m.map (fun e => (e.1, g e))) k).vault = (getN ClusterState.reset m k).vault := by
  rw [getN, lookupN_map_entry (f := fun e => (e.1, g e)) (fun _ => rfl), getN]
  cases lookupN m k with
  | none => rfl
  | some v => exact hg (k, v)
theorem resetCompute_lost (s : State) : ComputeLost s (resetCompute s) := by
  unfold resetCompute
  generalize hv : ({ s with cores := [], routers := _, clusters := _, ccs := _, mesh := _ } : State) = v
  have hf := onlyMesh_foldl (fun s (e : Nat × RouterState) => severLink s (e.1, 1)) (fun t e => severLink_frame t (e.1, 1))
    (s.routers.filter (fun e => 16384 ≤ e.1)) v
  unfold onlyMesh at hf
  rw [hf, ← hv]
  exact ⟨rfl, fun k => vault_map_entry (g := fun e => { ClusterState.reset with
      vault := e.2.vault, selfRetain := e.2.selfRetain, shards := e.2.shards, wroteBack := e.2.wroteBack
      clocksOff := e.2.clocksOff
      regs := (e.2.regs.filter (fun r => r.1 == 0x40 || r.1 == 0x58)).map (fun r =>
        if r.1 = 0x58 then (r.1, BitVec.ofNat 64 (setBits r.2.toNat 37 28 0x2EE)) else r) }) (fun _ => rfl) s.clusters k, rfl⟩
theorem resetW_lost (s : State) : ComputeLost s (resetW s) := by
  obtain ⟨hc, hv, hf⟩ := resetCompute_lost s
  unfold resetW hlReset
  have h := chainLook_frame { (retainVaults (resetCompute s) true) with
    acks := (retainVaults (resetCompute s) true).acks.filter (fun t => 16384 ≤ t.router)
    sites := (retainVaults (resetCompute s) true).sites.map (fun e => (e.1, { e.2 with hl := HlState.reset })) }
  unfold onlyChain at h
  refine ⟨(congrArg State.cores h).trans hc, fun k => ?_, (congrArg State.fin h).trans hf⟩
  exact (congrArg (fun t => (clOf t k).vault) h).trans ((vault_map_entry (g := fun e => { e.2 with selfRetain := true }) (fun _ => rfl) _ k).trans (hv k))
theorem loseIo_loses (s : State) : (loseIo s).ccs = [] ∧ (loseIo s).wl = [] ∧ (loseIo s).reqs = [] ∧ (loseIo s).cores = s.cores
    ∧ (loseIo s).clusters = s.clusters := by
  have hd := (closeDebug_frame s).1
  have hs := (closeSessions_effect (closeDebug s) (fun e => match e.path with | .wenlink _ => true | _ => false)).frame
  have hc : (loseIo s).cores = (closeDebug s).cores := (congrArg State.cores hs :)
  have hk : (loseIo s).clusters = (closeDebug s).clusters := (congrArg State.clusters hs :)
  exact ⟨rfl, rfl, rfl, hc.trans (congrArg State.cores hd :), hk.trans (congrArg State.clusters hd :)⟩

/-! Holds. -/

/-- Class W holds the module. -/
def heldW (s t : State) : Prop := t.fin.held = some (1, 0) ∧ t.cores = [] ∧ ∀ k, (clOf t k).vault = (clOf s k).vault
/-- Class M holds the module. -/
def heldM (s t : State) : Prop := t.fin.held = some (2, 0) ∧ t.cores = [] ∧ t.ccs = [] ∧ t.wl = [] ∧ t.reqs = []
  ∧ ∀ k, (clOf t k).vault = (clOf s k).vault
section
variable (hheld : s.fin.held = none) (hreen : s.fin.reen = none)
include hheld hreen

theorem holdReset_W : heldW s (holdReset s 1 0 false) := by
  obtain ⟨hc, hv, -⟩ := resetW_lost s
  simp only [holdReset, hheld, endReen, hreen]
  exact ⟨rfl, hc, hv⟩
theorem holdReset_M : heldM s (holdReset s 2 0 false) := by
  obtain ⟨hc, hv, -⟩ := resetW_lost s
  obtain ⟨hcc, hwl, hrq, hco, hcl⟩ := loseIo_loses (resetW s)
  simp only [holdReset, hheld, endReen, hreen]
  refine ⟨rfl, hco.trans hc, hcc, hwl, hrq, fun k => ?_⟩
  exact (congrArg (fun m => (getN ClusterState.reset m k).vault) hcl).trans (hv k)
end
/-- A granted write leaves the clusters and the Finder as they were. -/
theorem granted_fin {req : DapReq} {ix sub : Nat} {value : Bytes} {se : Session} (h : canWrite s req ix sub value se) :
    (granted s req ix sub value se).fin = s.fin ∧ (granted s req ix sub value se).clusters = s.clusters := by
  have hf := (granted_effect h).1
  unfold onlyAgent at hf
  rw [hf]
  exact ⟨rfl, rfl⟩

/-! The release. -/

/-- What the record of a reset comes to in the Finder. -/
def recordPart (f : Finder) : Option (Fin 4 × BitVec 16) × Bool × Fin 4 × BitVec 16 := (f.held, f.heldSupply, f.lastClass, f.lastCause)
/-- The record of a reset stays, with the events so far. -/
structure KeepsRecord (s t : State) : Prop where
  record : recordPart t.fin = recordPart s.fin
  events : s.events <+: t.events
theorem KeepsRecord.trans (h : KeepsRecord s t) (g : KeepsRecord t u) : KeepsRecord s u :=
  ⟨g.record.trans h.record, h.events.trans g.events⟩
theorem keepsRecord_of (hf : recordPart t.fin = recordPart s.fin) (he : t.events = s.events) : KeepsRecord s t :=
  ⟨hf, he ▸ List.prefix_refl _⟩
theorem keepsRecord_foldl {α : Type} (f : State → α → State) (h : ∀ t a, KeepsRecord t (f t a)) :
    ∀ (l : List α) (s : State), KeepsRecord s (l.foldl f s)
  | [], _ => keepsRecord_of rfl rfl
  | a :: l, s => (h s a).trans (keepsRecord_foldl f h l (f s a))
theorem updFin_record (s : State) {f : Finder → Finder} (hf : ∀ v, recordPart (f v) = recordPart v) : KeepsRecord s (updFin s f) :=
  ⟨hf s.fin, List.prefix_refl _⟩
theorem Onward.record (h : Onward s t) : KeepsRecord s t := ⟨congrArg (fun x => recordPart x.2.2.2.2.1) h.fixed, h.events⟩
theorem mailImage_record (s : State) (i : Nat) : KeepsRecord s (mailImage s i) := by
  rw [mailImage_frame]
  exact keepsRecord_of rfl rfl
theorem bootCluster_record (s : State) (k : Nat) : KeepsRecord s (bootCluster s k) := keepsRecord_of rfl rfl
theorem bootClusters_record (s : State) : KeepsRecord s (bootClusters s) :=
  keepsRecord_foldl _ (fun t d => keepsRecord_foldl _ (fun u i => bootCluster_record u (16 * d + i)) (List.range 16) t) (poweredSites s) s
theorem afterW_record (s : State) (cause : Nat) : KeepsRecord s (afterW s cause) := by
  unfold afterW
  extract_lets s1 s2
  have h1 : KeepsRecord s s1 := (keepsRecord_of rfl rfl : KeepsRecord s (retainVaults s _)).trans (bootClusters_record _)
  have h2 : KeepsRecord s1 s2 := by
    simp only [s2]
    split
    · exact keepsRecord_foldl _ mailImage_record _ s1
    · exact keepsRecord_of rfl rfl
  have h3 : KeepsRecord s2 (updFin s2 (fun f => { f with recoverDue := validParts s2 })) := updFin_record s2 fun _ => rfl
  exact (h1.trans h2).trans (h3.trans (keepsRecord_foldl (fun s p => restartBegin s p cause) (fun t p => (onward_refl t).restartBegin.record) _ _))
theorem identityCheck_record (s : State) : KeepsRecord s (identityCheck s) := by
  unfold identityCheck
  split
  · exact keepsRecord_of rfl rfl
  · exact ⟨rfl, (raised_agentEvent (updSec s _) 0x8053 3 []).earlier⟩
theorem bootIo_record (s : State) : KeepsRecord s (bootIo s) :=
  keepsRecord_foldl (fun s i => updCc s (1024 + i) (fun _ => { CcState.reset with boot := s.units })) (fun _ _ => keepsRecord_of rfl rfl)
    (List.range 32) s
theorem afterM_record (s : State) : KeepsRecord s (afterM s) := by
  unfold afterM
  extract_lets s1 groups s2 s3
  have h1 : KeepsRecord s s1 := keepsRecord_of rfl rfl
  split
  · exact h1.trans (keepsRecord_of rfl rfl)
  · have h2 : KeepsRecord s1 s2 := keepsRecord_of rfl rfl
    have h3 : KeepsRecord s s3 := (h1.trans h2).trans (KeepsRecord.trans (t := retainVaults s2 s2.fin.stop) (keepsRecord_of rfl rfl)
      ((bootIo_record _).trans (identityCheck_record _)))
    split
    · exact h3
    · exact h3.trans ((bootClusters_record s3).trans (updFin_record _ fun _ => rfl))
/-- The module as its reset is released, before it starts again. -/
def releasedAs (s : State) (h : Fin 4 × BitVec 16) : State :=
  recordReset (setMainIn (updFin s (fun f => { f with held := none, heldSupply := false, resetPin := false }))) h.1.val h.2.toNat
theorem resetRelease_releases {cls : Fin 4} {cause : BitVec 16} (hh : s.fin.held = some (cls, cause)) :
    answers .resetRelease s (fun t => t.fin.held = none ∧ t.fin.heldSupply = false ∧ t.fin.lastClass = cls ∧ t.fin.lastCause = cause
      ∧ ∃ e ∈ t.events, e.code = 0x1052#16) := by
  have hx : exec .resetRelease s = .next (if cls = 1 then afterW (releasedAs s (cls, cause)) cause.toNat
      else if cls = 2 then afterM (releasedAs s (cls, cause)) else afterC (releasedAs s (cls, cause))) := by
    change Host.Outcome.next (match s.fin.held with | none => _ | some h => _) = _
    rw [hh]
    rfl
  have hr : recordPart (releasedAs s (cls, cause)).fin = (none, false, cls, cause) := by
    change (none, false, Fin.ofNat 4 cls.val, BitVec.ofNat 16 cause.toNat) = _
    simp
  have he : ∃ e ∈ (releasedAs s (cls, cause)).events, e.code = 0x1052#16 :=
    ⟨_, List.mem_append_right _ (List.mem_singleton_self _), rfl⟩
  have hkeep : ∀ {t : State}, KeepsRecord (releasedAs s (cls, cause)) t → t.fin.held = none ∧ t.fin.heldSupply = false
      ∧ t.fin.lastClass = cls ∧ t.fin.lastCause = cause ∧ ∃ e ∈ t.events, e.code = 0x1052#16 := fun hk => by
    have hp := hk.record.trans hr
    simp only [recordPart, Prod.mk.injEq] at hp
    obtain ⟨h1, h2, h3, h4⟩ := hp
    exact ⟨h1, h2, h3, h4, he.imp fun _ h => ⟨hk.events.subset h.1, h.2⟩⟩
  refine ⟨_, hx, ?_⟩
  split
  · exact hkeep (afterW_record ..)
  · split
    · exact hkeep (afterM_record _)
    · exact hkeep (keepsRecord_of rfl rfl)
end

/-- Settles O51: a hold loses what its class says and no vault; what the release starts leaves its record alone. -/
theorem resetsAreHeldAndReleased : Obligations.ResetsAreHeldAndReleased := by
  intro s classW classM
  refine ⟨fun hh => ?_, fun cls cause hh => resetRelease_releases hh, fun hheld hreen => ⟨fun req se h => ?_, fun req se h => ?_,
    fun hs low => ⟨fun hl => ?_, fun h10 h1s => ?_, fun hl => ?_⟩, fun hio => ?_⟩⟩
  · change exec .resetRelease s = .next s
    change Host.Outcome.next (match s.fin.held with | none => _ | some h => _) = _
    rw [hh]
  · refine writes_of h rfl (fun _ => ?_) (by decide) (fun st t hst hne => absurd hst.symm hne)
    obtain ⟨hf, hcl⟩ := granted_fin h
    obtain ⟨h1, h2, h3⟩ := holdReset_W (s := granted s req 0x4900 3 [1#8] se) (hf ▸ hheld) (hf ▸ hreen)
    exact ⟨h1, h2, fun k => (h3 k).trans (congrArg (fun m => (getN ClusterState.reset m k).vault) hcl)⟩
  · refine writes_of h rfl (fun _ => ?_) (by decide) (fun st t hst hne => absurd hst.symm hne)
    obtain ⟨hf, hcl⟩ := granted_fin h
    obtain ⟨h1, h2, h3, h4, h5, h6⟩ := holdReset_M (s := granted s req 0x4900 3 [2#8] se) (hf ▸ hheld) (hf ▸ hreen)
    exact ⟨h1, h2, h3, h4, h5, fun k => (h6 k).trans (congrArg (fun m => (getN ClusterState.reset m k).vault) hcl)⟩
  · exact congrArg Host.Outcome.next (if_pos (by simp [hl]))
  · refine ⟨_, congrArg Host.Outcome.next (if_neg (by simp [hs]; omega)), ?_⟩
    rw [if_pos h1s]
    exact holdReset_W hheld hreen
  · refine ⟨_, congrArg Host.Outcome.next (if_neg (by simp [hs]; omega)), ?_⟩
    rw [if_neg (by omega)]
    exact holdReset_M hheld hreen
  · exact ⟨_, congrArg Host.Outcome.next (if_neg (by simp [hio])), holdReset_M hheld hreen⟩

end Sys2Proof.Machine
end

section
/-! PROOF. What records toward the host leave of queues and memories, and what the end of a request leaves of the links. -/

namespace Sys2Proof.Machine

/-! Queues and memories. -/

/-- A queue without its tail. -/
def queueForm (w : WlQueue) : WlQueue := { w with tail := 0 }
/-- No memory and no queue of o, its tail aside, differs in s, and messages have only been added. -/
structure Mailed (o s : State) : Prop where
  cores : s.cores = o.cores
  clusters : s.clusters = o.clusters
  out : ∀ m, (wlOf o m).out <+: (wlOf s m).out
  queues : ∀ q, (queueAt s q).map queueForm = (queueAt o q).map queueForm

section
variable {o s t : State} {n : Nat}

theorem mailed_refl (s : State) : Mailed s s := ⟨rfl, rfl, fun _ => List.prefix_refl _, fun _ => rfl⟩
theorem Mailed.congr (hs : Mailed o s) (hc : t.cores = s.cores) (hk : t.clusters = s.clusters) (hw : t.wl = s.wl) : Mailed o t :=
  ⟨hc.trans hs.cores, hk.trans hs.clusters, fun m => by rw [wlOf, wlOf, hw]; exact hs.out m,
    fun q => by rw [queueAt, wlOf, hw]; exact hs.queues q⟩
theorem Mailed.ite {c : Prop} [Decidable c] (hs : Mailed o s) (ht : Mailed o t) : Mailed o (if c then s else t) := by
  split
  · exact hs
  · exact ht
theorem Mailed.foldl {α : Type} {f : State → α → State} (hf : ∀ {t : State} (a : α), Mailed o t → Mailed o (f t a)) {l : List α}
    (hs : Mailed o s) : Mailed o (l.foldl f s) := by
  induction l generalizing s with
  | nil => exact hs
  | cons a l ih => exact ih (hf a hs)
theorem Mailed.memories (hs : Mailed o s) : memoriesKept o s := memoriesKept_of_eq hs.cores hs.clusters
theorem Mailed.updWl {f : WlState → WlState} (hs : Mailed o s) (hq : ∀ w, (f w).queues = w.queues := by exact fun _ => rfl)
    (ho : ∀ w, w.out <+: (f w).out := by exact fun _ => List.prefix_refl _) : Mailed o (Machine.updWl s n f) := by
  refine ⟨hs.cores, hs.clusters, fun m => ?_, fun q => ?_⟩
  · rw [wlOf_updWl]
    split
    · next e => rw [e]; exact (hs.out n).trans (ho _)
    · exact hs.out m
  · rw [queueAt, wlOf_updWl]
    split
    · next e => rw [hq, ← e]; exact hs.queues q
    · exact hs.queues q
theorem Mailed.setPart {p : Nat} {v : PartState} (hs : Mailed o s) : Mailed o (Machine.setPart s p v) := hs.congr rfl rfl rfl
theorem Mailed.updPart {p : Nat} {f : PartState → PartState} (hs : Mailed o s) : Mailed o (Machine.updPart s p f) := hs.setPart
theorem Mailed.setReq {h : Nat} {v : Request} (hs : Mailed o s) : Mailed o (Machine.setReq s h v) := hs.congr rfl rfl rfl
theorem Mailed.freeBytes {k : Nat} (hs : Mailed o s) : Mailed o (Machine.freeBytes s k).2 := hs.congr rfl rfl rfl
theorem Mailed.stwEvent {code sev : Nat} {p : Option Nat} {req : Option Nat} {detail : Bytes} (hs : Mailed o s) :
    Mailed o (Machine.stwEvent s code sev p req detail) := hs.congr rfl rfl rfl
theorem Mailed.queueWrite {q units : Nat} {b : Bytes} (hs : Mailed o s) : Mailed o (Machine.queueWrite s q units b) := by
  have hf := queueWrite_frame s q units b
  refine ⟨(congrArg State.cores hf :).trans hs.cores, (congrArg State.clusters hf :).trans hs.clusters,
    fun m => (hs.out m).trans ((portsPost_queueWrite s q units b).sent m), fun k => ?_⟩
  by_cases e : k = q
  · subst e
    cases hw : queueAt s k with
    | none =>
      rw [Machine.queueWrite, hw]
      exact hs.queues k
    | some w =>
      rw [queueAt_queueWrite_self hw, ← hs.queues k, hw]
      rfl
  · rw [queueAt_queueWrite_ne s e]
    exact hs.queues k
theorem Mailed.logPost {q : Nat} {bs : Bytes} (hs : Mailed o s) : Mailed o (Machine.logPost s q bs) := by
  unfold Machine.logPost
  split
  · exact hs
  · extract_lets _ _ s1
    have h1 : Mailed o s1 := Mailed.ite hs hs.queueWrite
    exact h1.queueWrite
theorem Mailed.logStall {p : Nat} (hs : Mailed o s) : Mailed o (Machine.logStall s p) := Mailed.ite hs hs.updPart.stwEvent
theorem Mailed.logInput {p type flags : Nat} {req index : Option Nat} {payload : Bytes} (hs : Mailed o s) :
    Mailed o (Machine.logInput s p type flags req index payload) := by
  unfold Machine.logInput
  split
  · extract_lets _ s1
    have h1 : Mailed o s1 := hs.updPart
    exact Mailed.ite h1.logPost h1.updPart.logStall
  · exact hs
theorem Mailed.logPause {p h : Nat} (hs : Mailed o s) : Mailed o (Machine.logPause s p h) := by
  unfold Machine.logPause
  split
  · extract_lets _
    exact hs.freeBytes.logInput
  · exact hs
theorem Mailed.logFlush {p q : Nat} : ∀ {l : List Bytes} {s : State}, Mailed o s → Mailed o (Machine.logFlush l s p q)
  | [], _, hs => hs.updPart
  | _ :: _, _, hs => by
    unfold Machine.logFlush
    split
    · exact hs.logPost.logFlush
    · exact hs.updPart
theorem Mailed.flushRecs {n : Nat} : ∀ {l : List (BitVec 16 × Option Nat × Bytes)} {s : State}
    {kept : List (BitVec 16 × Option Nat × Bytes)}, Mailed o s → Mailed o (Machine.flushRecs l s n kept)
  | [], _, _, hs => hs.updWl
  | _ :: _, _, _, hs => by
    unfold Machine.flushRecs
    extract_lets _ s1 s2
    have h1 : Mailed o s1 := hs.queueWrite
    have h2 : Mailed o s2 := by
      simp only [s2]
      split
      · split
        · exact Mailed.ite (h1.congr rfl rfl rfl) h1
        · exact h1
      · exact h1
    split
    · exact h2.flushRecs
    · exact hs.flushRecs
theorem Mailed.flushHeld {n : Nat} (hs : Mailed o s) : Mailed o (Machine.flushHeld s n) := hs.flushRecs
theorem Mailed.queueDrained {q : Nat} (hs : Mailed o s) : Mailed o (Machine.queueDrained s q) := by
  unfold Machine.queueDrained
  refine Mailed.ite ?_ ?_
  · exact hs
  · refine hs.foldl fun _ ht => ?_
    split
    · exact ht
    · extract_lets s2
      have h2 : Mailed o s2 := ht.setReq
      exact h2.logPause
theorem Mailed.queueFreed {q : Nat} (hs : Mailed o s) : Mailed o (Machine.queueFreed s q) := by
  unfold Machine.queueFreed
  split
  · exact hs
  · refine Mailed.ite ?_ ?_
    · exact hs.queueDrained
    · refine Mailed.ite ?_ ?_
      · exact hs.flushHeld
      · refine Mailed.ite ?_ ?_
        · extract_lets _
          refine Mailed.ite ?_ ?_
          · exact hs
          · split
            · exact hs.logFlush
            · exact hs
        · exact hs

/-! Links. -/

theorem Traffic.ports {f : Nat × WlState → Nat × WlState} (hs : Traffic o s) (hk : ∀ e, (f e).1 = e.1)
    (hf : ∀ e, linkPart (f e).2 = linkPart e.2) : Traffic o { s with wl := s.wl.map f } := by
  refine ⟨fun m => Eq.trans ?_ (hs.link m), hs.events⟩
  rw [wlOf, wlOf, getN, getN, lookupN_map_entry hk]
  cases lookupN s.wl m with
  | none => rfl
  | some w => exact hf (m, w)
theorem Traffic.setCl {k : Nat} {v : ClusterState} (hs : Traffic o s) : Traffic o (Machine.setCl s k v) := hs.congr rfl rfl
theorem Traffic.updCl {k : Nat} {f : ClusterState → ClusterState} (hs : Traffic o s) :
    Traffic o (Machine.updCl s k f) := hs.setCl
theorem Traffic.updReq {h : Nat} {f : Request → Request} (hs : Traffic o s) : Traffic o (Machine.updReq s h f) := by
  unfold Machine.updReq
  split
  · exact hs.setReq
  · exact hs
theorem Traffic.updJob {p : Nat} {f : Job → Job} (hs : Traffic o s) : Traffic o (Machine.updJob s p f) := hs.updPart
theorem Traffic.vaultWrite {k a : Nat} {b : Bytes} (hs : Traffic o s) : Traffic o (Machine.vaultWrite s k a b) := hs.updCl
theorem Traffic.freeExtents {d : Option SweepDesc} {clusters : List Nat} {h : Nat} (hs : Traffic o s) :
    Traffic o (Machine.freeExtents s d clusters h) := by
  unfold Machine.freeExtents
  refine hs.foldl fun _ ht => ?_
  extract_lets _ s2
  have h2 : Traffic o s2 := ht.updCl
  split
  · exact h2
  · exact h2.foldl (fun _ ht2 => ht2.vaultWrite)
theorem Traffic.foldReq {h type : Nat} {payload : Bytes} (hs : Traffic o s) :
    Traffic o (Machine.foldReq s h type payload) := hs.updReq
theorem Traffic.postRec {q : Nat} {slot : Option Nat} {bs : Bytes} (hs : Traffic o s) :
    Traffic o (Machine.postRec s q slot bs) := by
  unfold Machine.postRec
  extract_lets _
  exact hs.updWl.flushHeld
theorem Traffic.foldEnd {h reason stop : Nat} (hs : Traffic o s) : Traffic o (Machine.foldEnd s h reason stop) := by
  unfold Machine.foldEnd
  split
  · extract_lets s1
    have h1 : Traffic o s1 := Traffic.ite hs.setReq hs
    exact h1.foldReq
  · exact hs
theorem Traffic.dropImage {h : Nat} (hs : Traffic o s) : Traffic o (Machine.dropImage s h) :=
  hs.ports (fun _ => rfl) fun _ => rfl
theorem Traffic.dropExtents {p h : Nat} (hs : Traffic o s) : Traffic o (Machine.dropExtents s p h) := by
  unfold Machine.dropExtents
  extract_lets s1
  have h1 : Traffic o s1 := hs.freeExtents
  exact h1.freeExtents
theorem Traffic.dropReads {h : Nat} (hs : Traffic o s) : Traffic o (Machine.dropReads s h) :=
  hs.ports (fun _ => rfl) fun _ => rfl
theorem Traffic.dropShards {p : Nat} {digest : Bytes} (hs : Traffic o s) :
    Traffic o (Machine.dropShards s p digest) := hs.foldl (fun _ ht => (Traffic.ite ht.updCl ht))
theorem Traffic.retireCheck {p : Nat} (hs : Traffic o s) : Traffic o (Machine.retireCheck s p) := by
  unfold Machine.retireCheck
  split
  · exact hs
  · exact Traffic.ite hs (Traffic.ite hs hs.dropShards).updPart.logInput.stwEvent
theorem Traffic.noteDraft {p : Nat} {digest : Bytes} (hs : Traffic o s) : Traffic o (Machine.noteDraft s p digest) := by
  unfold Machine.noteDraft
  extract_lets _ s1
  have h1 : Traffic o s1 := by
    simp only [s1]
    refine hs.foldl fun _ ht1 => ?_
    split
    · exact Traffic.ite ht1.foldReq ht1
    · exact ht1
  exact h1.logInput
theorem Traffic.unloadDraft {p : Nat} {x : Draft} (hs : Traffic o s) : Traffic o (Machine.unloadDraft s p x) := by
  unfold Machine.unloadDraft
  extract_lets s1 s2 s4
  have h1 : Traffic o s1 := hs.updPart
  have h2 : Traffic o s2 := h1.foldl (fun _ ht2 => ht2.freeExtents)
  have h4 : Traffic o s4 := h2.updJob
  exact Traffic.ite h4.noteDraft h4
theorem Traffic.draftCheck {p : Nat} (hs : Traffic o s) : Traffic o (Machine.draftCheck s p) := by
  unfold Machine.draftCheck
  split
  · exact Traffic.ite hs.unloadDraft hs
  · exact hs
theorem Traffic.dropTokens {p h : Nat} (hs : Traffic o s) : Traffic o (Machine.dropTokens s p h) := hs.updJob
theorem Traffic.endRequest {h : Nat} {st : ReqState} {reason stop answer event : Nat} (hs : Traffic o s) :
    Traffic o (Machine.endRequest s h st reason stop answer event) := by
  unfold Machine.endRequest
  split
  · exact hs
  · refine Traffic.ite ?_ ?_
    · exact hs
    · extract_lets _ s1 s2 s3 s4
      have h1 : Traffic o s1 := hs.setReq
      have h2 : Traffic o s2 := (Traffic.ite h1 h1.dropReads).dropTokens
      have h3 : Traffic o s3 := h2.foldEnd.dropExtents.dropImage
      have h4 : Traffic o s4 := Traffic.ite h3.stwEvent h3
      split
      · exact h4.postRec.retireCheck.draftCheck
      · exact h4
end

end Sys2Proof.Machine
end

section
/-! PROOF. Host reads, doorbells, host time, queues and parking areas (R464, R525 to R533, R535). -/

namespace Sys2Proof.Machine

section
variable {s t u : State} {n : WlPort} {tag : BitVec 16} {data : Bytes}

/-! Violations. -/

theorem wlQuarantine_keeps (s : State) (n : Nat) : (wlOf (wlQuarantine s n) n).out = (wlOf s n).out
    ∧ (wlOf (wlQuarantine s n) n).lastHostTime = (wlOf s n).lastHostTime := by
  by_cases h : (wlOf s n).st = 7
  · rw [wlQuarantine_self h]
    exact ⟨rfl, rfl⟩
  · simp only [wlQuarantine, if_neg h]
    constructor <;> simp [dropQueues, wlLinkReset]
theorem wlQuarantine_frame (s : State) (n : Nat) : (wlQuarantine s n).reqs = s.reqs ∧ (wlQuarantine s n).stw = s.stw := by
  by_cases h : (wlOf s n).st = 7
  · rw [wlQuarantine_self h]
    exact ⟨rfl, rfl⟩
  · have hc := (closePort_effect (wlState (updWl s n (fun w =>
      let ts := recent s 3600 w.quarTimes ++ [s.units]
      { wlLinkReset w with quarTimes := ts, held := decide (3 ≤ ts.length) })) n 7) n).frame
    rw [wlQuarantine, if_neg h]
    exact ⟨(congrArg State.reqs hc :), (congrArg State.stw hc :)⟩
/-- What a violation leaves of the port and of the module. -/
structure Violated (s t : State) (n k : Nat) : Prop where
  counted : wlCounted s t n k
  out : (wlOf t n).out = (wlOf s n).out
  host : (wlOf t n).lastHostTime = (wlOf s n).lastHostTime
  reqs : t.reqs = s.reqs
  stw : t.stw = s.stw
theorem wlViolation_violated (s : State) (n k : Nat) (event : Bool) : Violated s (wlViolation s n k event) n k := by
  have hw := wlOf_violationSeen s n k event
  have hf : (violationSeen s n k event).reqs = s.reqs ∧ (violationSeen s n k event).stw = s.stw := by cases event <;> exact ⟨rfl, rfl⟩
  have ho : (wlOf (violationSeen s n k event) n).out = (wlOf s n).out := by simp [hw, wlCount]
  have ht : (wlOf (violationSeen s n k event) n).lastHostTime = (wlOf s n).lastHostTime := by simp [hw, wlCount]
  refine ⟨(wlViolation_effect s n k event).1, ?_, ?_, ?_, ?_⟩
  all_goals rw [wlViolation_eq]; split
  · exact (wlQuarantine_keeps ..).1.trans ho
  · exact ho
  · exact (wlQuarantine_keeps ..).2.trans ht
  · exact ht
  · exact (wlQuarantine_frame ..).1.trans hf.1
  · exact hf.1
  · exact (wlQuarantine_frame ..).2.trans hf.2
  · exact hf.2
theorem wlCounted.of_viols {k m : Nat} (h : wlCounted t u m k) (hv : (wlOf t m).viols = (wlOf s m).viols) : wlCounted s u m k := by
  unfold wlCounted at h ⊢
  rw [h, hv]

/-! Completions and time-outs of host reads. -/

/-- The read of a completion has ended. -/
def readDone (s : State) (n : WlPort) (tag : BitVec 16) : State := dropRead (doorbellAt s (serviceCc n) 0x047 tag.toNat) n tag
theorem readDone_frame (s : State) (n : WlPort) (tag : BitVec 16) :
    readDone s n tag = { s with wl := (readDone s n tag).wl, ccs := (readDone s n tag).ccs } := rfl
theorem readAt_readDone (s : State) (n : WlPort) (tag : BitVec 16) : readAt (readDone s n tag) n tag = none := by
  rw [readAt, readDone, dropRead, wlOf_updWl_self, List.find?_eq_none]
  intro r hr
  simpa using (List.mem_filter.1 hr).2
theorem queueAt_readDone (s : State) (n : WlPort) (tag : BitVec 16) (q : Nat) : queueAt (readDone s n tag) q = queueAt s q := by
  rw [queueAt, readDone, dropRead, wlOf_updWl, queueAt]
  split
  · next e => rw [e]; rfl
  · rfl
section
variable {r : BitVec 16 × W64 × Nat × ReadFor} (h5 : (wlOf s n).st = 5) (hr : readAt s n tag = some r)
include h5 hr

theorem exec_cpl (e : Bool) : exec (.cpl n tag e data) s = .next (if e then inputFailed (readDone s n tag) r.2.2.2
    else if data.length ≠ r.2.2.1 then wlViolation (inputFailed (readDone s n tag) r.2.2.2) n 2 true
    else inputArrived (entryRead (readDone s n tag) r.2.2.2) r.2.2.2 data) := by
  refine congrArg Host.Outcome.next ((if_neg (not_not.2 h5)).trans ?_)
  change (match readAt s n tag with | none => _ | some r => _) = _
  rw [hr]
  rfl
theorem cpl_arrives (hl : data.length = r.2.2.1) : exec (.cpl n tag false data) s
    = .next (inputArrived (entryRead (readDone s n tag) r.2.2.2) r.2.2.2 data) :=
  (exec_cpl h5 hr false).trans (congrArg Host.Outcome.next ((if_neg Bool.false_ne_true).trans (if_neg (not_not.2 hl))))
theorem cpl_entry {q : BitVec 16} {w : WlQueue} (hq : r.2.2.2 = .entry q) (hw : queueAt s q.toNat = some w) (hl : data.length = r.2.2.1) :
    answers (.cpl n tag false data) s (fun t =>
      readAt t n tag = none ∧ queueAt t q.toNat = some { w with ready := true } ∧ t.reqs = s.reqs) := by
  refine ⟨_, cpl_arrives h5 hr hl, ?_⟩
  rw [hq]
  refine ⟨?_, ?_, rfl⟩
  · have hn := readAt_readDone s n tag
    change readAt (updWl (readDone s n tag) (portOf q.toNat) _) n tag = none
    rw [readAt, wlOf_updWl]
    split
    · next e => exact e ▸ hn
    · exact hn
  · have hq' := queueAt_readDone s n tag q.toNat
    change queueAt (updWl (readDone s n tag) (portOf q.toNat) _) q.toNat = _
    rw [queueAt, wlOf_updWl_self]
    refine (lookupN_map_at q.toNat (fun w : WlQueue => { w with ready := true }) _).trans ?_
    exact congrArg _ (hq'.trans hw)
theorem cpl_prompt {h : Slot} {x : Request} (hq : r.2.2.2 = .prompt h) (hx : reqOf s h.val = some x) (hl : data.length = r.2.2.1) :
    answers (.cpl n tag false data) s (fun t => memoriesKept s t
      ∧ ∃ y, reqOf t h.val = some y ∧ y.prompt = x.prompt ++ wordsOf data ∧ y.st = x.st
        ∧ (rPromptLen x ≤ y.prompt.length → y.fetching = x.fetching - 1 ∧ readAt t n tag = none)) := by
  refine ⟨_, cpl_arrives h5 hr hl, ?_⟩
  have hx' : reqOf (readDone s n tag) h.val = some x := hx
  rw [hq]
  simp only [inputArrived, entryRead, hx']
  split
  · next hlt =>
    refine ⟨memoriesKept_of_eq rfl rfl, _, (reqOf_setReq ..).trans (if_pos rfl), rfl, rfl, fun hle => absurd hle (Nat.not_le.2 hlt)⟩
  · exact ⟨memoriesKept_of_eq rfl rfl, _, (reqOf_setReq ..).trans (if_pos rfl), rfl, rfl, fun _ => ⟨rfl, readAt_readDone s n tag⟩⟩
theorem cpl_mask {h : Slot} {x : Request} (hq : r.2.2.2 = .maskBits h) (hx : reqOf s h.val = some x) (hl : data.length = r.2.2.1) :
    answers (.cpl n tag false data) s (fun t => memoriesKept s t
      ∧ ∃ y, reqOf t h.val = some y ∧ y.mask = some (x.mask.getD [] ++ data) ∧ y.st = x.st) := by
  refine ⟨_, cpl_arrives h5 hr hl, ?_⟩
  have hx' : reqOf (readDone s n tag) h.val = some x := hx
  rw [hq]
  simp only [inputArrived, entryRead, hx']
  split
  · exact ⟨memoriesKept_of_eq rfl rfl, _, (reqOf_setReq ..).trans (if_pos rfl), rfl, rfl⟩
  · exact ⟨memoriesKept_of_eq rfl rfl, _, (reqOf_setReq ..).trans (if_pos rfl), rfl, rfl⟩
theorem cpl_stop {h : Slot} {x : Request} (hq : r.2.2.2 = .stopRec h) (hx : reqOf s h.val = some x) (hl : data.length = r.2.2.1) :
    answers (.cpl n tag false data) s (fun t => memoriesKept s t ∧ reqOf t h.val = some { x with
      fetching := x.fetching - 1
      stop := stopFields data x.maxNew (reservedFor (rPromptLen x + x.maxNew)) (rPromptLen x) }) := by
  refine ⟨_, cpl_arrives h5 hr hl, ?_⟩
  have hx' : reqOf (readDone s n tag) h.val = some x := hx
  rw [hq]
  simp only [inputArrived, entryRead, hx']
  exact ⟨memoriesKept_of_eq rfl rfl, (reqOf_setReq ..).trans (if_pos rfl)⟩
end

theorem inputFailed_ends {why : ReadFor} {h : Slot} {x : Request} (hw : why = .prompt h ∨ why = .maskBits h ∨ why = .stopRec h)
    (hx : reqOf u h.val = some x) (hf : reqFinal x = false) : endedAs (inputFailed u why) h.val .failed
      ∧ ∀ m, linkPart (wlOf (inputFailed u why) m) = linkPart (wlOf u m) := by
  have hi : inputFailed u why = endRequest u h.val .failed 6 0 0 0 := by rcases hw with rfl | rfl | rfl <;> rfl
  rw [hi]
  exact ⟨(endRequest_ends hx hf ..).1, (traffic_refl u).endRequest.link⟩
theorem mrdTimeout_ends {r : BitVec 16 × W64 × Nat × ReadFor} (hr : readAt s n tag = some r) {h : Slot} {x : Request}
    (hw : r.2.2.2 = .prompt h ∨ r.2.2.2 = .maskBits h ∨ r.2.2.2 = .stopRec h) (hx : reqOf s h.val = some x) (hf : reqFinal x = false) :
    answers (.mrdTimeout n tag) s (fun t => endedAs t h.val .failed ∧ wlCounted s t n 3) := by
  have hi : exec (.mrdTimeout n tag) s = .next (wlViolation (inputFailed (dropRead s n tag) r.2.2.2) n 3 true) := by
    change Host.Outcome.next (match readAt s n tag with | none => _ | some r => _) = _
    rw [hr]
  obtain ⟨he, hlink⟩ := inputFailed_ends (u := dropRead s n tag) hw hx hf
  have hv := wlViolation_violated (inputFailed (dropRead s n tag) r.2.2.2) n 3 true
  refine ⟨_, hi, fun y hy => he y ?_, hv.counted.of_viols ?_⟩
  · rw [reqOf, ← hv.reqs]
    exact hy
  · refine (congrArg (fun x => x.2.2.2.2.2.2) (hlink n) :).trans ?_
    simp [dropRead, linkPart]

/-! Doorbells and host time. -/

section
variable {q : BitVec 16} {index : W32} {time : W64}

/-- The host's time has been noted with a doorbell. -/
def timeNoted (s : State) (n : WlPort) (q : BitVec 16) (time : W64) : State :=
  noteHostTime.pairTime (updWl (doorbellAt s (serviceCc n) 0x045 q.toNat) n (fun w => { w with lastHostTime := some time })) time
theorem pairTime_frame (s : State) (x : W64) : noteHostTime.pairTime s x = { s with stw := (noteHostTime.pairTime s x).stw } := by
  unfold noteHostTime.pairTime
  split <;> rfl
theorem timeNoted_frame (s : State) (n : WlPort) (q : BitVec 16) (time : W64) : timeNoted s n q time = { s with
    wl := (timeNoted s n q time).wl, ccs := (timeNoted s n q time).ccs, stw := (timeNoted s n q time).stw } := by
  rw [timeNoted, pairTime_frame]
  rfl
theorem wlOf_timeNoted (s : State) (n : WlPort) (q : BitVec 16) (time : W64) (m : Nat) :
    wlOf (timeNoted s n q time) m = if m = n then { wlOf s n with lastHostTime := some time } else wlOf s m := by
  rw [timeNoted, wlOf_pairTime, wlOf_updWl]
  rfl
theorem queueAt_timeNoted (s : State) (n : WlPort) (q : BitVec 16) (time : W64) (k : Nat) :
    queueAt (timeNoted s n q time) k = queueAt s k := by
  rw [queueAt, wlOf_timeNoted]
  split
  · next e => rw [queueAt, e]
  · rfl
theorem exec_wlDoorbell (h5 : (wlOf s n).st = 5) (hp : s.fin.pwr ≠ 2) (ht : timeKept s n time) (hn : q.toNat / 4096 = n.val) :
    exec (.wlDoorbell n q index time) s = .next (match queueAt s q.toNat with
      | none => wlViolation (timeNoted s n q time) n 1 true
      | some w => if doorbellBad w index then wlViolation (timeNoted s n q time) n 1 true
          else moveIndex (timeNoted s n q time) q.toNat w index) := by
  have hnote : noteHostTime (doorbellAt s (serviceCc n) 0x045 q.toNat) n time = timeNoted s n q time := noteHostTime_kept ht
  have hw : wlOf (timeNoted s n q time) n = { wlOf s n with lastHostTime := some time } := by rw [wlOf_timeNoted, if_pos rfl]
  have hq : lookupN (wlOf (timeNoted s n q time) n).queues q.toNat = queueAt s q.toNat := by
    rw [hw, queueAt, portOf, hn]
  refine congrArg Host.Outcome.next ((if_neg (not_not.2 h5)).trans ((if_neg hp).trans ?_))
  change (if (wlOf (noteHostTime (doorbellAt s (serviceCc n) 0x045 q.toNat) n time) n).st = 7 then _ else _) = _
  rw [hnote, if_neg (by rw [hw]; simp [h5]), hq] <;> rfl
theorem timeNoted_violated (s : State) (n : WlPort) (q : BitVec 16) (time : W64) :
    wlCounted s (wlViolation (timeNoted s n q time) n 1 true) n 1 ∧ (wlViolation (timeNoted s n q time) n 1 true).reqs = s.reqs := by
  have hv := wlViolation_violated (timeNoted s n q time) n 1 true
  refine ⟨hv.counted.of_viols ?_, hv.reqs.trans ?_⟩
  · rw [wlOf_timeNoted, if_pos rfl]
  · rw [timeNoted_frame]
theorem fetchEntry_awaited {w : WlQueue} {k : Nat} (hk : queueAt s k = some w) : entryAwaited (fetchEntry s k) k = true
    ∧ Traffic s (fetchEntry s k) := by
  rw [fetchEntry, hk]
  refine ⟨?_, (traffic_refl s).updWl.wlPost⟩
  simp [entryAwaited, hostRead, wlPost]
/-- A command queue's new tail is read for its first entry. -/
theorem moveIndex_command {w : WlQueue} (hn : portOf q.toNat = n.val) (hk : w.kind = 1) : let t := moveIndex u q.toNat w index
    queueAt t q.toNat = some { w with tail := index } ∧ (wlOf t n).lastHostTime = (wlOf u n).lastHostTime
      ∧ (index ≠ w.head → w.ready = false → entryAwaited t q.toNat = true) ∧ t.reqs = u.reqs ∧ memoriesKept u t := by
  have hq : queueAt (updWl u (portOf q.toNat) (fun v => { v with queues := putN v.queues q.toNat { w with tail := index } })) q.toNat
      = some { w with tail := index } := by
    rw [queueAt, wlOf_updWl_self, lookupN_putN_self]
  have ht : ∀ m, (wlOf (updWl u (portOf q.toNat) (fun v => { v with queues := putN v.queues q.toNat { w with tail := index } })) m).lastHostTime
      = (wlOf u m).lastHostTime := fun m => by
    rw [wlOf_updWl]
    split
    · next e => rw [e]
    · rfl
  simp only [moveIndex, if_pos hk]
  generalize hv : updWl u (portOf q.toNat) (fun v => { v with queues := putN v.queues q.toNat { w with tail := index } }) = v at hq ht
  have hvr : v.reqs = u.reqs ∧ memoriesKept u v := hv ▸ ⟨rfl, memoriesKept_of_eq rfl rfl⟩
  obtain ⟨hvr, hvm⟩ := hvr
  split
  · next hc =>
    refine ⟨hq, ht n, fun hi hr => ?_, hvr, hvm⟩
    simpa [hi, hr] using hc
  · obtain ⟨hf, hqs⟩ := fetchEntry_frame v q.toNat
    obtain ⟨ha, htr⟩ := fetchEntry_awaited hq
    refine ⟨?_, (congrArg (fun x => x.2.2.2.2.2.1) (htr.link n) :).trans (ht n), fun _ _ => ha, by rw [hf]; exact hvr, ?_⟩
    · rw [queueAt, hqs]
      exact hq
    · rw [hf]
      exact memoriesKept_trans hvm (memoriesKept_of_eq rfl rfl)
theorem Mailed.queue {w : WlQueue} {k : Nat} (h : Mailed s t) (hk : queueAt s k = some w) :
    ∃ x, queueAt t k = some x ∧ queueForm x = queueForm w := by
  have hq := h.queues k
  rw [hk] at hq
  exact Option.map_eq_some_iff.1 hq
theorem moveIndex_outbound {w : WlQueue} (hk : w.kind ≠ 1) (hu : queueAt u q.toNat = some w) : let t := moveIndex u q.toNat w index
    (∀ m, (wlOf t m).lastHostTime = (wlOf u m).lastHostTime) ∧ memoriesKept u t
      ∧ ∃ x, queueAt t q.toNat = some x ∧ x.head = index ∧ x.kind = w.kind := by
  have hq : queueAt (updWl u (portOf q.toNat) (fun v => { v with queues := putN v.queues q.toNat { w with head := index } })) q.toNat
      = some { w with head := index } := by
    rw [queueAt, wlOf_updWl_self, lookupN_putN_self]
  have htr : Traffic u (updWl u (portOf q.toNat) (fun v => { v with queues := putN v.queues q.toNat { w with head := index } })) :=
    (traffic_refl u).updWl
  simp only [moveIndex, if_neg hk]
  generalize hv : updWl u (portOf q.toNat) (fun v => { v with queues := putN v.queues q.toNat { w with head := index } }) = v at hq htr
  have hvm : memoriesKept u v := hv ▸ memoriesKept_of_eq rfl rfl
  have hm : Mailed v (queueFreed v q.toNat) := (mailed_refl v).queueFreed
  refine ⟨fun m => (congrArg (fun x => x.2.2.2.2.2.1) (htr.queueFreed.link m) :), memoriesKept_trans hvm hm.memories, ?_⟩
  obtain ⟨x, hx, hf⟩ := hm.queue hq
  exact ⟨x, hx, (congrArg WlQueue.head hf :), (congrArg WlQueue.kind hf :)⟩
end

/-- STAMP notes the host's time, and pairs it with the Steward's. -/
theorem stamp_notes {time : W64} (h5 : (wlOf s n).st = 5) (ht : timeKept s n time) : answers (.stamp n time) s (fun t =>
    t = { s with wl := t.wl, stw := t.stw } ∧ wlOf t n = { wlOf s n with lastHostTime := some time }
      ∧ t.stw.hostPair = (if stewardUp s then some (BitVec.ofNat 64 (stewardTime s), time) else s.stw.hostPair)) := by
  refine ⟨_, congrArg Host.Outcome.next ((if_neg (not_not.2 h5)).trans (noteHostTime_kept ht)), ?_, ?_, ?_⟩
  · rw [pairTime_frame]
    rfl
  · rw [wlOf_pairTime, wlOf_updWl_self]
  · unfold noteHostTime.pairTime
    by_cases hs : stewardUp s
    · rw [if_pos hs]
      exact congrArg (fun t : State => t.stw.hostPair) (if_pos hs)
    · rw [if_neg hs, if_neg (show ¬ stewardUp (updWl s n _) = true from hs)]
      rfl
theorem stamp_earlier {time old : W64} (h5 : (wlOf s n).st = 5) (ho : (wlOf s n).lastHostTime = some old) (ht : time.toNat < old.toNat) :
    answers (.stamp n time) s (fun t => wlCounted s t n 1 ∧ (wlOf t n).lastHostTime = some old ∧ t.stw.hostPair = s.stw.hostPair) := by
  have hv := wlViolation_violated s n 1 true
  refine ⟨_, congrArg Host.Outcome.next ((if_neg (not_not.2 h5)).trans ?_), hv.counted, hv.host.trans ho, congrArg Steward.hostPair hv.stw⟩
  rw [noteHostTime, ho]
  exact if_pos ht

/-! Queues and the parking area. -/

/-- The answer goes out; a refusal among BAD, IN_USE and WINDOW is counted besides. -/
theorem answerQ_stat (s : State) (m : Nat) (tag : BitVec 16) (code : Nat) :
    HostMsg.qstat tag (BitVec.ofNat 8 code) ∈ (wlOf (answerQ s m tag code) m).out := by
  have hp : HostMsg.qstat tag (BitVec.ofNat 8 code) ∈ (wlOf (wlPost s m (.qstat tag (BitVec.ofNat 8 code))) m).out := by
    simp [wlPost]
  unfold answerQ
  split
  · rw [(wlViolation_violated _ m 4 true).out]
    exact hp
  · exact hp
theorem answerQ_counted {code : Nat} (hc : code = 1 ∨ code = 2 ∨ code = 4) (s : State) (m : Nat) (tag : BitVec 16) :
    wlCounted s (answerQ s m tag code) m 4 := by
  rw [answerQ, if_pos (by rcases hc with rfl | rfl | rfl <;> rfl)]
  exact (wlViolation_violated _ m 4 true).counted.of_viols (by simp [wlPost])
theorem answerQ_post {code : Nat} (hc : code = 0 ∨ code = 3) (s : State) (m : Nat) (tag : BitVec 16) :
    answerQ s m tag code = wlPost s m (.qstat tag (BitVec.ofNat 8 code)) := by
  rcases hc with rfl | rfl <;> rfl
theorem answerQ_refuses {code : Nat} (hc : code = 1 ∨ code = 2 ∨ code = 4) {i : Instr} (hi : exec i s = .next (answerQ s n tag code)) :
    answers i s (fun t => HostMsg.qstat tag (BitVec.ofNat 8 code) ∈ (wlOf t n).out ∧ wlCounted s t n 4) :=
  ⟨_, hi, answerQ_stat .., answerQ_counted hc ..⟩
section
variable {b : Bytes}

/-- The queue that a QCREATE makes. -/
def createdQueue (b : Bytes) : WlQueue :=
  { kind := BitVec.ofNat 8 (byteAt b 2), part := BitVec.ofNat 8 (byteAt b 3)
    entries := BitVec.ofNat 32 (leAt b 4 4), base := BitVec.ofNat 64 (leAt b 8 8)
    indexAddr := BitVec.ofNat 64 (leAt b 0x10 8), head := 0, tail := 0, seq := 0, ready := false }
theorem exec_qcreate (hl : b.length = 32) (h5 : (wlOf s n).st = 5) : exec (.qcreate n tag b) s
    = .next (if !qcreateOk n b then answerQ s n tag 1 else if (queueAt s (leAt b 0 2)).isSome then answerQ s n tag 3
      else if !windowOpen s n (byteAt b 3) then answerQ s n tag 4
      else queueFreed (answerQ (updWl s n (fun v => { v with queues := putN v.queues (leAt b 0 2) (createdQueue b) })) n tag 0) (leAt b 0 2)) :=
  (if_neg (not_not.2 hl)).trans (congrArg Host.Outcome.next (if_neg (not_not.2 h5)))
theorem qcreate_makes (hl : b.length = 32) (h5 : (wlOf s n).st = 5) (hok : qcreateOk n b = true) (hq : queueAt s (leAt b 0 2) = none)
    (hw : windowOpen s n (byteAt b 3) = true) : answers (.qcreate n tag b) s (fun t => HostMsg.qstat tag 0 ∈ (wlOf t n).out ∧ memoriesKept s t
      ∧ ∃ w, queueAt t (leAt b 0 2) = some w ∧ w.kind.toNat = byteAt b 2
        ∧ w.part.toNat = byteAt b 3 ∧ w.entries.toNat = leAt b 4 4 ∧ w.base.toNat = leAt b 8 8 ∧ w.indexAddr.toNat = leAt b 0x10 8
        ∧ w.head = 0) := by
  have hx := exec_qcreate (tag := tag) hl h5
  rw [if_neg (by simp [hok]), if_neg (by simp [hq]), if_neg (by simp [hw]), answerQ_post (.inl rfl)] at hx
  have hn : portOf (leAt b 0 2) = n.val := by
    simp only [qcreateOk, Bool.and_eq_true, beq_iff_eq, and_assoc] at hok
    exact hok.1
  generalize hu : wlPost (updWl s n (fun v => { v with queues := putN v.queues (leAt b 0 2) (createdQueue b) })) n
    (.qstat tag (BitVec.ofNat 8 0)) = u at hx
  have hm : Mailed u (queueFreed u (leAt b 0 2)) := (mailed_refl u).queueFreed
  have hqu : queueAt u (leAt b 0 2) = some (createdQueue b) := by
    rw [← hu, queueAt, hn, wlPost, wlOf_updWl_self, wlOf_updWl_self]
    exact lookupN_putN_self ..
  obtain ⟨x, hxq, hf⟩ := hm.queue hqu
  have hmem : memoriesKept s u := hu ▸ memoriesKept_of_eq rfl rfl
  refine ⟨_, hx, (hm.out n).subset ?_, memoriesKept_trans hmem hm.memories, x, hxq, ?_⟩
  · rw [← hu]
    simp [wlPost]
  · simp only [queueForm, createdQueue, WlQueue.mk.injEq] at hf
    obtain ⟨hk, hp, he, hb, hi, hh, -⟩ := hf
    rw [hk, hp, he, hb, hi, hh]
    simp only [BitVec.toNat_ofNat]
    exact ⟨Nat.mod_eq_of_lt (leAt_lt b 2 1), Nat.mod_eq_of_lt (leAt_lt b 3 1), Nat.mod_eq_of_lt (leAt_lt b 4 4),
      Nat.mod_eq_of_lt (leAt_lt b 8 8), Nat.mod_eq_of_lt (leAt_lt b 0x10 8), trivial⟩
theorem exec_qdelete (hl : b.length = 8) (h5 : (wlOf s n).st = 5) : exec (.qdelete n tag b) s
    = .next (match lookupN (wlOf s n).queues (leAt b 0 2) with
      | none => answerQ s n tag 1
      | some w => if leAt b 0 2 / 4096 ≠ n then answerQ s n tag 1
          else if queueNamed s (leAt b 0 2) || w.head ≠ w.tail then answerQ s n tag 2
          else answerQ (updWl s n (fun v => { v with queues := delN v.queues (leAt b 0 2) })) n tag 0) :=
  (if_neg (not_not.2 hl)).trans (congrArg Host.Outcome.next (if_neg (not_not.2 h5)))
theorem qdelete_deletes {w : WlQueue} (hl : b.length = 8) (h5 : (wlOf s n).st = 5) (hq : lookupN (wlOf s n).queues (leAt b 0 2) = some w)
    (hn : leAt b 0 2 / 4096 = n.val) (hu : queueNamed s (leAt b 0 2) = false) (he : w.head = w.tail) :
    answers (.qdelete n tag b) s (fun t => onlyPort s t n ∧ HostMsg.qstat tag 0 ∈ (wlOf t n).out ∧ queueAt t (leAt b 0 2) = none) := by
  have hx := exec_qdelete (tag := tag) hl h5
  rw [hq] at hx
  dsimp only at hx
  rw [if_neg (not_not.2 hn), if_neg (by simp [hu, he]), answerQ_post (.inl rfl)] at hx
  refine ⟨_, hx, (onlyPort_updWl ..).updWl _, ?_, ?_⟩
  · simp [wlPost]
  · rw [queueAt, portOf, hn, wlPost, wlOf_updWl_self, wlOf_updWl_self]
    exact lookupN_delN_self ..
end
section
variable {base len : W64}

theorem exec_parkArea (h5 : (wlOf s n).st = 5) : exec (.parkArea n tag base len) s = .next (
    let inUse := !(wlOf s n).images.isEmpty
    if base.toNat % 4096 ≠ 0 || len.toNat % 4096 ≠ 0 || (len = 0 && base ≠ 0) then answerQ s n tag 1
    else if len = 0 then if inUse then answerQ s n tag 2 else answerQ (updWl s n (fun w => { w with area := none })) n tag 0
    else if inUse && (wlOf s n).area ≠ some (base, len) then answerQ s n tag 2
    else answerQ (updWl s n (fun w => { w with area := some (base, len) })) n tag 0) :=
  congrArg Host.Outcome.next (if_neg (not_not.2 h5))
theorem parkArea_set (a : Option (W64 × W64)) : let t := answerQ (updWl s n (fun w => { w with area := a })) n tag 0
    onlyPort s t n ∧ HostMsg.qstat tag 0 ∈ (wlOf t n).out ∧ (wlOf t n).area = a := by
  rw [answerQ_post (.inl rfl)]
  exact ⟨(onlyPort_updWl ..).updWl _, by simp [wlPost], by simp [wlPost]⟩
end
end

/-- Settles O58: a completion reaches what its read was for, a doorbell moves its queue, and the answers of queues and areas are their
QSTAT; what follows leaves them standing. -/
theorem wenlinkTransactions : Obligations.WenlinkTransactions := by
  refine ⟨fun n tag data s => ⟨fun h e => ?_, fun h5 hr e => ?_, fun h5 r hr => ⟨fun q w hq hw hl => cpl_entry h5 hr hq hw hl,
      fun h x hq hx hl => cpl_prompt h5 hr hq hx hl, fun h x hq hx hl => cpl_mask h5 hr hq hx hl,
      fun h x hq hx hl => cpl_stop h5 hr hq hx hl,
      fun h x hw hx hf => ⟨⟨_, exec_cpl h5 hr true, (inputFailed_ends (u := readDone s n tag) hw hx hf).1⟩, mrdTimeout_ends hr hw hx hf⟩⟩, fun hr => ?_⟩,
    fun n q index time s => ⟨fun h => congrArg Host.Outcome.next (if_pos h), fun h5 hp => ?_, fun h5 hp ht hn => ⟨fun hq => ?_, fun w hq =>
      ⟨fun hb => ?_, fun hb hk => ?_, fun hb hk => ?_⟩⟩⟩,
    fun n time s => ⟨fun h => congrArg Host.Outcome.next (if_pos h), fun h5 ht => stamp_notes h5 ht,
      fun h5 old ho ht => stamp_earlier h5 ho ht⟩,
    fun n tag b s => ⟨fun hl => if_pos hl, fun hl h => (if_neg (not_not.2 hl)).trans (congrArg Host.Outcome.next (if_pos h)),
      fun hl h5 => ⟨fun hok => ?_, fun hok hq => ?_, fun hok hq hw => ?_, fun hok hq hw => qcreate_makes hl h5 hok hq hw⟩,
      fun hl => if_pos hl, fun hl h => (if_neg (not_not.2 hl)).trans (congrArg Host.Outcome.next (if_pos h)),
      fun hl h5 => ⟨fun hq => ?_, fun w hq hn => ⟨fun hu => ?_, fun hu he => qdelete_deletes hl h5 hq hn hu he⟩⟩⟩,
    fun n tag base len s => ⟨fun h => congrArg Host.Outcome.next (if_pos h), fun h5 => ⟨fun hbad => ?_, fun h1 h2 h3 => ⟨fun hi ha => ?_, fun hi => ?_⟩⟩⟩⟩
  · exact congrArg Host.Outcome.next (if_pos h)
  · have hv := wlViolation_violated (doorbellAt s (serviceCc n) 0x047 tag.toNat) n 2 true
    refine ⟨_, congrArg Host.Outcome.next ((if_neg (not_not.2 h5)).trans ?_), hv.counted.of_viols rfl, hv.reqs⟩
    change (match readAt s n tag with | none => _ | some r => _) = _
    rw [hr]
  · change Host.Outcome.next (match readAt s n tag with | none => _ | some r => _) = _
    rw [hr]
  · exact ⟨_, congrArg Host.Outcome.next ((if_neg (not_not.2 h5)).trans (if_pos hp)), onlyPort_updWl .., wlOf_updWl_self ..⟩
  · have hx := exec_wlDoorbell (index := index) h5 hp ht hn
    rw [hq] at hx
    exact ⟨_, hx, timeNoted_violated ..⟩
  · have hx := exec_wlDoorbell (index := index) h5 hp ht hn
    rw [hq] at hx
    dsimp only at hx
    rw [if_pos hb] at hx
    exact ⟨_, hx, timeNoted_violated ..⟩
  · have hx := exec_wlDoorbell (index := index) h5 hp ht hn
    rw [hq] at hx
    dsimp only at hx
    rw [if_neg (by simp [hb])] at hx
    obtain ⟨h1, h2, h3, h4, h6⟩ := moveIndex_command (u := timeNoted s n q time) (index := index) hn hk
    refine ⟨_, hx, h1, h2.trans ?_, h3, h4.trans ?_, memoriesKept_trans ?_ h6⟩
    · rw [wlOf_timeNoted, if_pos rfl]
    · rw [timeNoted_frame]
    · rw [timeNoted_frame]
      exact memoriesKept_of_eq rfl rfl
  · have hx := exec_wlDoorbell (index := index) h5 hp ht hn
    rw [hq] at hx
    dsimp only at hx
    rw [if_neg (by simp [hb])] at hx
    obtain ⟨h1, h2, h3⟩ := moveIndex_outbound (index := index) hk ((queueAt_timeNoted s n q time q.toNat).trans hq)
    refine ⟨_, hx, (h1 n).trans ?_, memoriesKept_trans ?_ h2, h3⟩
    · rw [wlOf_timeNoted, if_pos rfl]
    · rw [timeNoted_frame]
      exact memoriesKept_of_eq rfl rfl
  · exact answerQ_refuses (.inl rfl) ((exec_qcreate hl h5).trans (congrArg Host.Outcome.next (if_pos (by simp [hok]))))
  · have hx := exec_qcreate (tag := tag) hl h5
    rw [if_neg (by simp [hok]), if_pos (Option.isSome_iff_ne_none.2 hq), answerQ_post (.inr rfl)] at hx
    exact ⟨_, hx, onlyPort_updWl .., by simp [wlPost], by simp [wlPost]⟩
  · refine answerQ_refuses (.inr (.inr rfl)) ((exec_qcreate hl h5).trans ?_)
    rw [if_neg (by simp [hok]), if_neg (by simp [hq]), if_pos (by simp [hw])]
  · refine answerQ_refuses (.inl rfl) ((exec_qdelete hl h5).trans ?_)
    rw [hq]
  · refine answerQ_refuses (.inr (.inl rfl)) ((exec_qdelete hl h5).trans ?_)
    rw [hq]
    dsimp only
    rw [if_neg (not_not.2 hn), if_pos (by simpa using hu)]
  · refine answerQ_refuses (.inl rfl) ((exec_parkArea h5).trans (congrArg Host.Outcome.next (if_pos ?_)))
    simpa [or_assoc] using hbad
  · have hin : (!(wlOf s n).images.isEmpty) = true := by simpa using hi
    have hgood : ¬ (base.toNat % 4096 ≠ 0 || len.toNat % 4096 ≠ 0 || (len = 0 && base ≠ 0)) = true := by simpa [h1, h2] using h3
    refine answerQ_refuses (.inr (.inl rfl)) ((exec_parkArea h5).trans (congrArg Host.Outcome.next ((if_neg hgood).trans ?_)))
    by_cases hz : len = 0
    · rw [if_pos hz, if_pos hin]
    · rw [if_neg hz, if_pos]
      simpa [hin] using ha.resolve_left hz
  · have hin : (!(wlOf s n).images.isEmpty) = false := by simp [hi]
    have hgood : ¬ (base.toNat % 4096 ≠ 0 || len.toNat % 4096 ≠ 0 || (len = 0 && base ≠ 0)) = true := by simpa [h1, h2] using h3
    have hx := (exec_parkArea (n := n) (tag := tag) (base := base) (len := len) h5).trans (congrArg Host.Outcome.next (if_neg hgood))
    by_cases hz : len = 0
    · rw [if_pos hz, hin, if_neg Bool.false_ne_true] at hx
      rw [if_pos hz]
      exact ⟨_, hx, parkArea_set none⟩
    · rw [if_neg hz, hin, if_neg (by simp)] at hx
      rw [if_neg hz]
      exact ⟨_, hx, parkArea_set (some (base, len))⟩

end Sys2Proof.Machine
end

section
/-! PROOF. What a replay of a job's steps leaves alone: every request, what the Steward keeps, and every job but for its sweeps (R359). -/

namespace Sys2Proof.Machine

/-- A job without what it has still to sweep. -/
def unswept (j : Job) : Job := { j with sweeps := [] }
/-- Every request of o, what its Steward keeps and every job, its sweeps aside, stand in s. -/
structure Rewound (o s : State) : Prop where
  reqs : s.reqs = o.reqs
  stw : s.stw = o.stw
  jobs : ∀ p, (jobOf s p).map unswept = (jobOf o p).map unswept
section
variable {o s t : State} {n : Nat}

theorem rewound_refl (s : State) : Rewound s s := ⟨rfl, rfl, fun _ => rfl⟩
theorem Rewound.trans {u : State} (h : Rewound o s) (g : Rewound s u) : Rewound o u :=
  ⟨g.reqs.trans h.reqs, g.stw.trans h.stw, fun p => (g.jobs p).trans (h.jobs p)⟩
theorem Rewound.congr (hs : Rewound o s) (hr : t.reqs = s.reqs) (hw : t.stw = s.stw) (hp : t.parts = s.parts) : Rewound o t :=
  ⟨hr.trans hs.reqs, hw.trans hs.stw, fun p => by rw [jobOf, partOf, hp]; exact hs.jobs p⟩
theorem Rewound.ite {c : Prop} [Decidable c] (hs : Rewound o s) (ht : Rewound o t) : Rewound o (if c then s else t) := by
  split
  · exact hs
  · exact ht
theorem Rewound.foldl {α : Type} {f : State → α → State} (hf : ∀ {t : State} (a : α), Rewound o t → Rewound o (f t a)) {l : List α}
    (hs : Rewound o s) : Rewound o (l.foldl f s) := by
  induction l generalizing s with
  | nil => exact hs
  | cons a l ih => exact ih (hf a hs)
theorem Rewound.updJob {p : Nat} {f : Job → Job} (hs : Rewound o s) (hf : ∀ j, unswept (f j) = unswept j := by exact fun _ => rfl) :
    Rewound o (Machine.updJob s p f) := by
  refine ⟨hs.reqs, hs.stw, fun q => Eq.trans ?_ (hs.jobs q)⟩
  by_cases e : q = p
  · subst e
    rw [jobOf_updJob_self]
    cases jobOf s q with
    | none => rfl
    | some j => exact congrArg some (hf j)
  · rw [jobOf_updJob_ne _ _ _ e]
theorem Rewound.setCore {c : Nat} {v : CoreState} (hs : Rewound o s) : Rewound o (Machine.setCore s c v) := hs.congr rfl rfl rfl
theorem Rewound.updCore {c : Nat} {f : CoreState → CoreState} (hs : Rewound o s) :
    Rewound o (Machine.updCore s c f) := hs.setCore
theorem Rewound.setRouter {r : Nat} {v : RouterState} (hs : Rewound o s) : Rewound o (Machine.setRouter s r v) := hs.congr rfl rfl rfl
theorem Rewound.updRouter {r : Nat} {f : RouterState → RouterState} (hs : Rewound o s) :
    Rewound o (Machine.updRouter s r f) := hs.setRouter
theorem Rewound.setCl {k : Nat} {v : ClusterState} (hs : Rewound o s) : Rewound o (Machine.setCl s k v) := hs.congr rfl rfl rfl
theorem Rewound.updCl {k : Nat} {f : ClusterState → ClusterState} (hs : Rewound o s) :
    Rewound o (Machine.updCl s k f) := hs.setCl
theorem Rewound.setCc {i : Nat} {v : CcState} (hs : Rewound o s) : Rewound o (Machine.setCc s i v) := hs.congr rfl rfl rfl
theorem Rewound.updCc {i : Nat} {f : CcState → CcState} (hs : Rewound o s) : Rewound o (Machine.updCc s i f) := hs.setCc
theorem Rewound.setCreg {c off v : Nat} (hs : Rewound o s) : Rewound o (Machine.setCreg s c off v) := hs.updCore
theorem Rewound.setRreg {r off v : Nat} (hs : Rewound o s) : Rewound o (Machine.setRreg s r off v) := hs.updRouter
theorem Rewound.emit {rep : Nat} {e : EventRec} (hs : Rewound o s) : Rewound o (Machine.emit s rep e) := by
  unfold Machine.emit
  extract_lets _ _ _ _ _ _ _
  exact hs.congr rfl rfl rfl
theorem Rewound.doorbellAt {i n tag : Nat} (hs : Rewound o s) : Rewound o (Machine.doorbellAt s i n tag) := hs.updCc
theorem Rewound.stwEvent {code sev : Nat} {p : Option Nat} {req : Option Nat} {detail : Bytes} (hs : Rewound o s) :
    Rewound o (Machine.stwEvent s code sev p req detail) := by
  unfold Machine.stwEvent
  extract_lets _ _
  exact hs.emit
theorem Rewound.drainEnd {c : Nat} (hs : Rewound o s) : Rewound o (Machine.drainEnd s c) := by
  unfold Machine.drainEnd
  extract_lets _ _
  exact Rewound.ite hs.setCore.doorbellAt hs
theorem Rewound.haltSeq {c : Nat} (hs : Rewound o s) : Rewound o (Machine.haltSeq s c) := by
  unfold Machine.haltSeq
  extract_lets _
  exact Rewound.ite hs.setCore.drainEnd hs
theorem Rewound.startSeq {c : Nat} {base : Option (BitVec 17)} {index : Nat} (hs : Rewound o s) :
    Rewound o (Machine.startSeq s c base index) := hs.updCore
theorem Rewound.clearErr {c : Nat} (hs : Rewound o s) : Rewound o (Machine.clearErr s c) := Rewound.ite hs hs.setCreg
theorem Rewound.queueDepth {r p vc : Nat} {n : Int} (hs : Rewound o s) : Rewound o (Machine.queueDepth s r p vc n) := by
  unfold Machine.queueDepth
  extract_lets _ _ _ _
  exact hs.setRreg
theorem Rewound.creditBack {h : Hop} {n : Nat} (hs : Rewound o s) : Rewound o (Machine.creditBack s h n) := by
  unfold Machine.creditBack
  split
  · exact hs.updRouter
  · exact hs
theorem Rewound.dropHop {h : Hop} (hs : Rewound o s) : Rewound o (Machine.dropHop s h) :=
  Rewound.creditBack (Rewound.queueDepth (hs.congr rfl rfl rfl))
theorem Rewound.dropHops {p : Nat} {vc0 : Bool} (hs : Rewound o s) : Rewound o (Machine.dropHops s p vc0) := by
  unfold Machine.dropHops
  extract_lets s1 s3
  have h1 : Rewound o s1 := hs.foldl (fun _ ht1 => ht1.dropHop)
  have h3 : Rewound o s3 := h1.congr rfl rfl rfl
  exact h3.foldl (fun _ ht3 => (Rewound.ite ht3 ht3.updRouter))
theorem Rewound.rewindCore {c step : Nat} {x : StreamImage} (hs : Rewound o s) :
    Rewound o (Machine.rewindCore s c step x) := by
  unfold Machine.rewindCore
  extract_lets s1 s2
  have h1 : Rewound o s1 := hs.updCore
  have h2 : Rewound o s2 := h1.setCreg
  exact h2.clearErr.setCreg.startSeq
theorem Rewound.rewindRegion {p r : Nat} (hs : Rewound o s) : Rewound o (Machine.rewindRegion s p r) := by
  unfold Machine.rewindRegion
  split
  · exact hs
  · extract_lets _ _ s1
    have h1 : Rewound o s1 := hs.foldl (fun _ ht1 => ht1.updCl)
    exact h1.foldl (fun _ ht2 => (Rewound.ite ht2.rewindCore ht2))
theorem Rewound.replaySteps {p : Nat} (hs : Rewound o s) :
    Rewound o (Machine.replaySteps s p none) := by
  unfold Machine.replaySteps
  split
  · exact hs
  · extract_lets s1 _ s2 s5 s6
    have h1 : Rewound o s1 := hs
    have h2 : Rewound o s2 := h1.foldl (fun _ ht2 => ht2.foldl (fun _ ht3 => ht3.haltSeq))
    have h5 : Rewound o s5 := h2.updJob.dropHops
    have h6 : Rewound o s6 := h5.foldl (fun _ ht6 => ht6.rewindRegion)
    exact h6.stwEvent
end

end Sys2Proof.Machine
end

section
/-! PROOF. Firmware at Eclosion and in a live update, and the Stewards (R481 to R485, R487 to R489). -/

namespace Sys2Proof.Machine

section
variable {s t : State}

/-! Images and mailboxes. -/

theorem setLocal_frame (s : State) (k : Nat) : onlyGrants s (setLocal s k) k := by
  unfold setLocal
  exact onlyGrants_trans (onlyGrants_setKreg ..) (regrant_frame ..)
/-- A core as it enters an image. -/
def ccEntered (c : CcState) (digest img : Bytes) : CcState := ccDeliver { c with
  image := some digest, mailbox := none, parked := false, failed := false, pmpLocked := true, mem := memWrite c.mem 0 img }
theorem ccEntered_fields (c : CcState) (digest img : Bytes) : (ccEntered c digest img).image = some digest
    ∧ (ccEntered c digest img).boot = c.boot ∧ (ccEntered c digest img).icu = c.icu := by
  rw [ccEntered, ccDeliver_frame]
  exact ⟨rfl, rfl, rfl⟩
theorem enterImage_frame (s : State) (i : Nat) (digest img : Bytes) : enterImage s i digest img
    = { s with
        ccs := (updCc s i (fun c => ccEntered c digest img)).ccs
        clusters := (enterImage s i digest img).clusters, free := (enterImage s i digest img).free } := by
  have he : enterImage s i digest img = if i < 1024 then setLocal (updCc s i (fun c => ccEntered c digest img)) i
      else updCc s i (fun c => ccEntered c digest img) := rfl
  rw [he]
  split
  · rw [(setLocal_frame (updCc s i (fun c => ccEntered c digest img)) i).1]
    rfl
  · rfl
theorem ccOf_enterImage (s : State) (i : Nat) (digest img : Bytes) : ccOf (enterImage s i digest img) i = ccEntered (ccOf s i) digest img := by
  rw [enterImage_frame]
  exact ccOf_updCc_self s i (fun c => ccEntered c digest img)
theorem mailImage_ccOf_ne (s : State) {i k : Nat} (h : k ≠ i) : ccOf (mailImage s i) k = ccOf s k := by
  unfold mailImage
  split
  · exact (ccOf_updCc_ne _ _ _ h).trans (ccOf_updCc_ne _ _ _ h)
  · rfl
theorem mailImages_ccOf (k : Nat) : ∀ (l : List Nat) (s : State), k ∉ l → ccOf (l.foldl mailImage s) k = ccOf s k
  | [], _, _ => rfl
  | i :: l, s, h => by
    rw [List.mem_cons, not_or] at h
    rw [List.foldl_cons, mailImages_ccOf k l (mailImage s i) h.2, mailImage_ccOf_ne s h.1]
/-- The Steward that loads the other images keeps its own. -/
theorem loadImages_steward (s : State) : (loadImages s).stw = s.stw ∧ ccOf (loadImages s) (stewardCc s) = ccOf s (stewardCc s) := by
  have hf := reloadAll_frame s
  have hc : ccOf (reloadAll s) (stewardCc s) = ccOf s (stewardCc s) := mailImages_ccOf (stewardCc s) _ s (by simp)
  unfold loadImages startTests
  generalize reloadAll s = u at hf hc
  exact ⟨(congrArg State.stw hf :), hc⟩

/-! Boot. -/

section
variable {n : WlPort} {rel : Bytes}

/-- A release from one port: accepted, or reported with the check that it fails. -/
def servedBy (s : State) (n : WlPort) (rel : Bytes) : State :=
  match relFault rel with
  | some k => updStw (raise s 0x8020 2 (dieUnit 64 12) (stewardCc s) [BitVec.ofNat 8 n.val, BitVec.ofNat 8 k]) (fun t => { t with bootFailed := true })
  | none => acceptRelease s rel
theorem tryPorts_none (s : State) : ∀ l : List Nat, n.val ∉ l → tryPorts s [(n, rel)] l = updStw s (fun t => { t with bootFailed := true })
  | [], _ => rfl
  | m :: l, h => by
    rw [List.mem_cons, not_or] at h
    rw [tryPorts]
    simp only [List.find?, beq_eq_false_iff_ne.2 h.1]
    exact tryPorts_none s l h.2
theorem tryPorts_one (hp : portUp s n = true) : ∀ l : List Nat, n.val ∈ l → l.Nodup → tryPorts s [(n, rel)] l = servedBy s n rel
  | m :: l, h, hd => by
    rw [List.nodup_cons] at hd
    rw [tryPorts]
    by_cases e : n.val = m
    · subst e
      simp only [List.find?, beq_self_eq_true, hp, servedBy]
      cases relFault rel with
      | none => rfl
      | some k => exact tryPorts_none _ l hd.1
    · simp only [List.find?, beq_eq_false_iff_ne.2 e]
      exact tryPorts_one hp l ((List.mem_cons.1 h).resolve_left e) hd.2
theorem servedBy_effect (s : State) (n : WlPort) (rel : Bytes) : let t := servedBy s n rel
    (relFault rel = none → t.stw.release = some (relDigest rel, relImages rel)
        ∧ (ccOf t (stewardCc s)).image = some (relImage rel 2).2.2.2 ∧ t.stw.bootFailed = false)
      ∧ ∀ k, relFault rel = some k → t.stw.bootFailed = true ∧ ∃ e, t.events = s.events ++ [e] ∧ e.code = 0x8020#16
        ∧ e.detail = BitVec.ofNat 8 n :: BitVec.ofNat 8 k :: zeros 14 := by
  dsimp only
  refine ⟨fun h => ?_, fun k h => ?_⟩
  · simp only [servedBy, h]
    unfold acceptRelease
    extract_lets s1 s2
    have hs2 : s2.stw = s1.stw := (congrArg State.stw (enterImage_frame ..) :)
    have himg : (ccOf s2 (stewardCc s)).image = some (relImage rel 2).2.2.2 :=
      (congrArg CcState.image (ccOf_enterImage s1 (stewardCc s) ..)).trans (ccEntered_fields ..).1
    have hcc : stewardCc s2 = stewardCc s := by
      rw [stewardCc, hs2]
      rfl
    clear_value s2
    split
    · obtain ⟨hl, hc⟩ := loadImages_steward s2
      rw [hl, hs2, ← hcc, hc, hcc]
      exact ⟨rfl, himg, rfl⟩
    · rw [hs2]
      exact ⟨rfl, himg, rfl⟩
  · simp only [servedBy, h]
    exact ⟨rfl, _, rfl, rfl, rfl⟩
section
variable (hw : bootWaits s = true) (hp : portUp s n = true)
include hw hp

theorem exec_firmwareBoot (hb : s.stw.bootFailed = false) : exec (.firmwareBoot [(n, rel)]) s = .next (servedBy s n rel) :=
  congrArg Host.Outcome.next ((if_neg (by simp [hw, hb, anyServed, hp])).trans
    (tryPorts_one hp _ (List.mem_range.2 n.isLt) List.nodup_range))
theorem exec_firmwareRetry (hb : s.stw.bootFailed = true) : exec (.firmwareRetry [(n, rel)]) s = .next (servedBy s n rel) :=
  congrArg Host.Outcome.next ((if_neg (by simp [hw, hb, anyServed, hp])).trans
    (tryPorts_one hp _ (List.mem_range.2 n.isLt) List.nodup_range))
end
end

/-! Live updates. -/

section
variable {req : DapReq} {se : Session}

/-- A granted write leaves the Steward, its reasons to refuse and the memories as they were. -/
theorem fwUpdate_writes {addr : W64} {rel : Option Bytes} (h : canWrite s req 0x4A00 1 (leBytes 8 addr.toNat) se)
    (hc : (carrier req).isSome = true) (hs : stewardUp s = true) :
    writes (.fwUpdate req addr rel) s req 0x4A00 1 (leBytes 8 addr.toNat) se (fun w t =>
      (∀ r, updateReason s rel = some r → t = updateFailed w r)
      ∧ ∀ b, rel = some b → updateReason s rel = none → t.stw.newRelease = some (relDigest b, relImages b) ∧ t.stw.fwState = 1
        ∧ t.stw.updated = [] ∧ t.stw.release = s.stw.release ∧ memoriesKept s t) := by
  have hup : stewardUp (asked s req 0x11 (writeBody 0x4A00 1 (leBytes 8 addr.toNat) ++ req.sig)) = true := by
    have hf := (asked_frame h).1
    unfold onlyAgent at hf
    rw [hf]
    exact hs
  have hg := (granted_effect h).1
  unfold onlyAgent at hg
  have hr : updateReason (granted s req 0x4A00 1 (leBytes 8 addr.toNat) se) rel = updateReason s rel := by
    rw [hg]
    rfl
  refine writes_if (st := stState) (p := True) h rfl (by decide) (fun _ => if_neg ?_) (fun hn => absurd trivial hn) (fun _ => ⟨fun r hx => ?_, fun b hb hx => ?_⟩)
    (fun t hn => absurd trivial hn)
  · rw [hup]
    simpa using Option.isSome_iff_ne_none.1 hc
  · rw [hr, hx]
  · rw [hr, hx, hb]
    refine ⟨rfl, rfl, rfl, (congrArg (fun t => t.stw.release) hg :), ?_⟩
    exact memoriesKept_of_eq (congrArg State.cores hg :) (congrArg State.clusters hg :)
end

section
variable {cc : CcId} {a b : Bytes} {r : Bytes × List (Nat × Nat × Nat × Bytes)} {m : Nat × Nat × Nat × Bytes}

/-- A core takes the new release's image, or the update begins to roll back. -/
def loadNew (i : Nat) (m : Nat × Nat × Nat × Bytes) (a b : Bytes) (s : State) : State :=
  let s := updStw s (fun t => { t with updated := t.updated ++ [i] })
  match goodRead m.2.2.2 m.2.1 a b with
  | some img => enterImage s i m.2.2.2 img
  | none => updStw s (fun t => { t with fwState := 2, updateFail := true })
/-- A core takes the old release's image again. -/
def loadOld (i : Nat) (m : Nat × Nat × Nat × Bytes) (a b : Bytes) (s : State) : State :=
  let s := updStw s (fun t => { t with updated := t.updated.filter (· != i) })
  match goodRead m.2.2.2 m.2.1 a b with
  | some img => enterImage s i m.2.2.2 img
  | none => loadFails s i
section
variable (hm : imageFor r cc = some m) (hup : stewardUp s = true) (hheld : s.fin.held = none)
include hm hup hheld

theorem exec_reloadNew (hst : s.stw.fwState = 1) (hr : s.stw.newRelease = some r) (hn : updateNext s cc = true)
    (hi : (ccOf s cc).image.isSome = true) : exec (.coreReload cc a b) s = .next (reloadCore s cc (loadNew cc m a b)) := by
  have hb : (s.stw.fwState == 2) = false := by rw [hst]; rfl
  have hg : ¬ (!stewardUp s || decide (s.stw.fwState = 0) || s.fin.held.isSome) = true := by simp [hup, hst, hheld]
  have hx : ¬ (!updateNext s cc || (ccOf s cc).image.isNone) = true := by simp [hn, Option.isSome_iff_ne_none.1 hi]
  refine congrArg Host.Outcome.next ?_
  dsimp only
  rw [hb]
  simp only [Bool.false_eq_true, if_false, hr, Option.bind_some, hm]
  rw [if_neg hg, if_neg hx]
  rfl
theorem exec_reloadOld (hst : s.stw.fwState = 2) (hr : s.stw.release = some r) (hu : cc.val ∈ s.stw.updated) (hs : cc.val ≠ stewardCc s) :
    exec (.coreReload cc a b) s = .next (reloadCore s cc (loadOld cc m a b)) := by
  have hb : (s.stw.fwState == 2) = true := by rw [hst]; rfl
  have hg : ¬ (!stewardUp s || decide (s.stw.fwState = 0) || s.fin.held.isSome) = true := by simp [hup, hst, hheld]
  have hx : ¬ (!s.stw.updated.contains cc.val || decide (cc.val = stewardCc s)) = true := by simp [hu, hs]
  refine congrArg Host.Outcome.next ?_
  dsimp only
  rw [hb]
  simp only [if_true, hr, Option.bind_some, hm]
  rw [if_neg hg, if_neg hx]
  rfl
end
theorem reloadCore_parks {load : State → State} (hi : cc.val < 1024) (hp : (ccOf s cc).parked = false) : reloadCore s cc load
    = if mayPark s cc then updCc s cc (fun c => { c with parked := true }) else s := by
  rw [reloadCore, if_pos (by simp [hi, hp])]
theorem reloadCore_loads {load : State → State} (h : cc.val < 1024 → (ccOf s cc).parked = true) : reloadCore s cc load = load s :=
  if_neg (by simpa using h)
theorem loadNew_effect : let t := loadNew cc m a b s
    t.stw.updated = s.stw.updated ++ [cc.val]
      ∧ (∀ img, goodRead m.2.2.2 m.2.1 a b = some img → (ccOf t cc).image = some m.2.2.2 ∧ (ccOf t cc).boot = (ccOf s cc).boot
          ∧ (ccOf t cc).icu = (ccOf s cc).icu ∧ t.stw.fwState = s.stw.fwState)
      ∧ (goodRead m.2.2.2 m.2.1 a b = none → t.stw.fwState = 2 ∧ t.stw.updateFail = true) := by
  dsimp only [loadNew]
  cases hg : goodRead m.2.2.2 m.2.1 a b with
  | none => exact ⟨rfl, nofun, fun _ => ⟨rfl, rfl⟩⟩
  | some img =>
    have hf : (enterImage (updStw s (fun t => { t with updated := t.updated ++ [cc.val] })) cc m.2.2.2 img).stw = _ :=
      (congrArg State.stw (enterImage_frame ..) :)
    dsimp only
    rw [hf, ccOf_enterImage]
    obtain ⟨h1, h2, h3⟩ := ccEntered_fields (ccOf s cc) m.2.2.2 img
    exact ⟨rfl, fun _ _ => ⟨h1, h2, h3, rfl⟩, nofun⟩
theorem loadOld_effect {img : Bytes} (hg : goodRead m.2.2.2 m.2.1 a b = some img) : let t := loadOld cc m a b s
    cc.val ∉ t.stw.updated ∧ (ccOf t cc).image = some m.2.2.2 ∧ (ccOf t cc).boot = (ccOf s cc).boot ∧ (ccOf t cc).icu = (ccOf s cc).icu := by
  have hf : (enterImage (updStw s (fun t => { t with updated := t.updated.filter (· != cc.val) })) cc m.2.2.2 img).stw = _ :=
    (congrArg State.stw (enterImage_frame ..) :)
  obtain ⟨h1, h2, h3⟩ := ccEntered_fields (ccOf s cc) m.2.2.2 img
  dsimp only [loadOld]
  rw [hg]
  dsimp only
  rw [hf, ccOf_enterImage]
  exact ⟨by simp [updStw], h1, h2, h3⟩
end

/-! The end of an update. -/

theorem events_hlUp (s : State) (d st : Nat) : s.events <+: (hlUp s d st).events := List.prefix_append ..
theorem redecide_frame (s : State) (d : Nat) : redecide s d = { s with sites := (redecide s d).sites, events := (redecide s d).events }
    ∧ s.events <+: (redecide s d).events := by
  unfold redecide
  extract_lets st
  split
  · split
    · exact ⟨rfl, events_hlUp ..⟩
    · exact ⟨rfl, List.prefix_refl _⟩
  · split
    · split
      · exact ⟨rfl, List.prefix_refl _⟩
      · split
        · exact ⟨rfl, List.prefix_refl _⟩
        · exact ⟨rfl, (events_hlUp s d 4).trans (List.prefix_append ..)⟩
    · exact ⟨rfl, List.prefix_refl _⟩
/-- What an announcement of a version to the peers leaves: the Steward, and the events so far. -/
theorem announce_keeps : ∀ (l : List Nat) (s : State), let t := l.foldl (fun s d => redecide (sendHello s d) d) s
    t.stw = s.stw ∧ s.events <+: t.events
  | [], s => ⟨rfl, List.prefix_refl _⟩
  | d :: l, s => by
    obtain ⟨hw, he⟩ := announce_keeps l (redecide (sendHello s d) d)
    obtain ⟨hf, hp⟩ := redecide_frame (sendHello s d) d
    have hs := sendHello_sites s d
    have hse : (sendHello s d).events = s.events := (congrArg State.events hs :)
    exact ⟨hw.trans ((congrArg State.stw hf :).trans (congrArg State.stw hs :)), (hse ▸ hp).trans he⟩
theorem fwUpdateDone_succeeds (hs : stewardUp s = true) (hd : s.stw.die = 64) (hst : s.stw.fwState = 1)
    (hall : ∀ i ∈ runningCcs s, i ∈ s.stw.updated) : answers .fwUpdateDone s (fun t => t.stw.release = s.stw.newRelease
      ∧ t.stw.newRelease = none ∧ t.stw.fwState = 0 ∧ t.stw.updated = [] ∧ ∃ e ∈ t.events, e.code = 0x9030#16) := by
  have ha : ¬ (!(runningCcs s).all (fun i => s.stw.updated.contains i)) = true := by simpa using hall
  refine ⟨_, congrArg Host.Outcome.next ((if_neg (by simp [hs, hd])).trans ((if_pos hst).trans (if_neg ha))), ?_⟩
  extract_lets u v
  obtain ⟨hw, he⟩ := announce_keeps ((List.range 64).filter (chainUp v)) v
  rw [hw]
  exact ⟨rfl, rfl, rfl, rfl, _, he.subset (List.mem_append_right _ (List.mem_singleton_self _)), rfl⟩

/-! The Stewards. -/

/-- A failover replays the steps in flight of a partition's job. -/
def replayBusy (s : State) (p : Nat) : State :=
  match jobOf s p with
  | some j => if j.running && !j.restarting && j.regions.any (fun r => r.2.busy) then replaySteps s p none else s
  | none => s
theorem replayBusy_keeps (s : State) (p : Nat) : Rewound s (replayBusy s p) ∧ s.events <+: (replayBusy s p).events := by
  unfold replayBusy
  split
  · split
    · exact ⟨(rewound_refl s).replaySteps, (onward_refl s).replaySteps.events⟩
    · exact ⟨rewound_refl s, List.prefix_refl _⟩
  · exact ⟨rewound_refl s, List.prefix_refl _⟩
theorem replayAll_keeps : ∀ (l : List Nat) (s : State), Rewound s (l.foldl replayBusy s) ∧ s.events <+: (l.foldl replayBusy s).events
  | [], s => ⟨rewound_refl s, List.prefix_refl _⟩
  | p :: l, s => by
    obtain ⟨h1, h2⟩ := replayBusy_keeps s p
    obtain ⟨h3, h4⟩ := replayAll_keeps l (replayBusy s p)
    exact ⟨h1.trans h3, h2.trans h4⟩
/-- The other Steward has become active, without a standby. -/
def failedOver (s : State) : State := stwEvent (updStw (switchSteward s) (fun t => { t with standbyOk := false })) 0x9033 3 none none []
/-- The failed core starts afresh. -/
def startedAfresh (s : State) (i : Nat) : State := mailImage (updCc s i (fun _ => { CcState.reset with boot := s.units })) i
theorem startedAfresh_keeps (s : State) (i : Nat) : (startedAfresh s i).stw = s.stw ∧ (startedAfresh s i).reqs = s.reqs
    ∧ (startedAfresh s i).events = s.events := by
  rw [startedAfresh, mailImage_frame]
  exact ⟨rfl, rfl, rfl⟩
theorem stewardFailover_effect (hio : s.fin.ioPowered = true) (hheld : s.fin.held = none) (hok : s.stw.standbyOk = true)
    (hi : (ccOf s (standbyCc s)).image.isSome = true) : answers .stewardFailover s (fun t =>
      t.stw.die = (if s.stw.die = 64 then 72 else 64) ∧ t.stw.standbyOk = false ∧ t.reqs = s.reqs ∧ ∃ e ∈ t.events, e.code = 0x9033#16) := by
  have hx : exec .stewardFailover s = .next (((startedAfresh (failedOver s) (stewardCc s)).parts.map (fun e => e.1)).foldl replayBusy
      (startedAfresh (failedOver s) (stewardCc s))) :=
    congrArg Host.Outcome.next (if_neg (by simp [hio, hheld, hok, Option.isSome_iff_ne_none.1 hi]))
  obtain ⟨hw, hr, he⟩ := startedAfresh_keeps (failedOver s) (stewardCc s)
  generalize startedAfresh (failedOver s) (stewardCc s) = v at hx hw hr he
  obtain ⟨hk, hp⟩ := replayAll_keeps (v.parts.map (fun e => e.1)) v
  have hev : ∃ e ∈ v.events, e.code = 0x9033#16 := by
    rw [he]
    exact ⟨_, List.mem_append_right _ (List.mem_singleton_self _), rfl⟩
  refine ⟨_, hx, ?_, ?_, hk.reqs.trans hr, hev.imp fun _ h => ⟨hp.subset h.1, h.2⟩⟩
  · rw [hk.stw, hw]
    rfl
  · rw [hk.stw, hw]
    rfl
end

/-- Settles O50: a core enters the image of the release that it is being brought to, and what follows leaves the Steward standing. -/
theorem firmwareAndStewards : Obligations.FirmwareAndStewards := by
  refine ⟨fun n rel s hw hp => ⟨fun hb => ⟨_, exec_firmwareBoot hw hp hb, servedBy_effect s n rel⟩,
      fun hb => ⟨⟨_, exec_firmwareRetry hw hp hb, servedBy_effect s n rel⟩, congrArg Host.Outcome.next (if_pos (by simp [hb]))⟩⟩,
    fun req addr rel se s h hc hs => fwUpdate_writes h hc hs,
    fun cc a b s => ⟨fun h0 => ?_, fun r m hm hup hheld => ⟨fun ht hi hp => ?_, fun hpark => ⟨fun hst hr hn hi => ?_,
      fun hst hr hu hne img hg => ?_⟩⟩⟩,
    fun s => ⟨fun h0 => ?_, fun hs hd hst hall => fwUpdateDone_succeeds hs hd hst hall, fun hs hd hst hu => ?_⟩,
    fun s => ⟨fun hs => ?_, fun hno => ⟨?_, ?_⟩, fun hs hok hsf => ?_, fun hio hheld hok hi => stewardFailover_effect hio hheld hok hi⟩⟩
  · change Host.Outcome.next _ = _
    refine congrArg Host.Outcome.next ?_
    dsimp only
    split
    · rfl
    · exact if_pos (by simp [h0])
  · have hx : exec (.coreReload cc a b) s = .next (if mayPark s cc then updCc s cc (fun c => { c with parked := true }) else s) := by
      rcases ht with ⟨hst, hr, hn, hi'⟩ | ⟨hst, hr, hu, hne⟩
      · rw [exec_reloadNew hm hup hheld hst hr hn hi', reloadCore_parks hi hp]
      · rw [exec_reloadOld hm hup hheld hst hr hu hne, reloadCore_parks hi hp]
    exact ⟨fun hy => hx.trans (congrArg _ (if_pos hy)), fun hy => hx.trans (congrArg _ (if_neg (by simp [hy])))⟩
  · have hx := exec_reloadNew (a := a) (b := b) hm hup hheld hst hr hn hi
    rw [reloadCore_loads hpark] at hx
    obtain ⟨h1, h2, h3⟩ := loadNew_effect (s := s) (cc := cc) (m := m) (a := a) (b := b)
    refine ⟨_, hx, h1, fun img hg => ?_, h3⟩
    rw [← hst]
    exact h2 img hg
  · have hx := exec_reloadOld (a := a) (b := b) hm hup hheld hst hr hu hne
    rw [reloadCore_loads hpark] at hx
    exact ⟨_, hx, loadOld_effect hg⟩
  · refine congrArg Host.Outcome.next ?_
    split
    · rfl
    · rw [if_neg (by simp [h0]), if_neg (by simp [h0])]
  · have hx : exec .fwUpdateDone s
        = .next (updateFailed (updStw s (fun t => { t with newRelease := none, fwState := 0, updateFail := false })) 6) :=
      congrArg Host.Outcome.next ((if_neg (by simp [hs, hd])).trans ((if_neg (by simp [hst])).trans (if_pos (by simp [hst, hu]))))
    exact ⟨_, hx, rfl, rfl, rfl, _, rfl, rfl, rfl⟩
  · exact congrArg Host.Outcome.next (if_neg (by simp [hs]))
  · exact congrArg Host.Outcome.next (if_pos (by simp [hno]))
  · exact congrArg Host.Outcome.next (if_pos (by simp [hno]))
  · exact ⟨_, congrArg Host.Outcome.next (if_neg (by simp [hs, hok, hsf])), rfl, rfl, rfl, _, rfl, rfl⟩

end Sys2Proof.Machine
end

section
/-! PROOF. Binocular hellos, sub-Plates and time-outs (R386, R387, R389). -/

namespace Sys2Proof.Machine

section
variable {s t : State} {p : PartId} {j : Job}

/-- A freeze stops the job and the pair, and says so. -/
def frozenPair (t : State) (p : Nat) : Prop :=
  t.binoState = 2 ∧ (∃ e ∈ t.events, e.code = 0x5060#16) ∧ ∃ j', jobOf t p = some j' ∧ j'.frozen = true
theorem freeze_freezes {q : Nat} (hj : jobOf s q = some j) (hf : j.frozen = false) (reason : Nat) (step : W64) (region : Nat) :
    frozenPair (freeze s q reason step region) q := by
  have hx : freeze s q reason step region = stwEvent { haltPart (updJob s q (fun j => { j with frozen := true })) q with binoState := 2 }
      0x5060 3 (some q) none (leBytes 1 reason ++ zeros 3 ++ leBytes 2 region ++ zeros 2 ++ leBytes 8 step.toNat) := by
    rw [freeze, hj]
    exact if_neg (by simp [hf])
  have hk : Rewound (updJob s q (fun j => { j with frozen := true })) (haltPart (updJob s q (fun j => { j with frozen := true })) q) :=
    (rewound_refl _).foldl fun _ h => h.haltSeq
  have hq := hk.jobs q
  rw [jobOf_updJob_self, hj] at hq
  rw [hx]
  refine ⟨rfl, ⟨_, List.mem_append_right _ (List.mem_singleton_self _), rfl⟩, ?_⟩
  obtain ⟨j', hj', he⟩ := Option.map_eq_some_iff.1 hq
  exact ⟨j', hj', (congrArg Job.frozen he :)⟩

section
variable (hj : jobOf s p = some j) (hb : isBino s p = true) (hr : j.running = true)
include hj hb hr

/-! Hellos. -/

theorem exec_binoHello {peer : Bytes} (hs : j.started = false) : exec (.binoHello p peer) s
    = .next (if !binoHelloOk s p j peer || (hlOf s (obj s 0x4500 1)).st ≠ 5 then
          endJob (stwEvent s 0x5061 2 (some p) none []) p 7 0x5061
        else startStreams { updJob s p (fun j => { j with started := true }) with binoState := 1 } p) := by
  change Host.Outcome.next (match jobOf s p with | none => _ | some j => _) = _
  rw [hj]
  exact congrArg Host.Outcome.next (if_neg (by simp [hb, hr, hs]))
theorem binoHello_starts {peer : Bytes} (hs : j.started = false) (hok : binoHelloOk s p j peer = true) (h5 : (hlOf s (obj s 0x4500 1)).st = 5) :
    answers (.binoHello p peer) s (fun t => t.binoState = 1 ∧ ∃ j', jobOf t p = some j' ∧ j'.started = true ∧ j'.running = true) := by
  refine ⟨_, (exec_binoHello hj hb hr hs).trans (congrArg _ (if_neg (by simp [hok, h5]))), ?_⟩
  have hf := startStreams_frame { updJob s p (fun j => { j with started := true }) with binoState := 1 } p
  have hp : jobOf ({ updJob s p (fun j => { j with started := true }) with binoState := 1 } : State) p = some { j with started := true } :=
    (jobOf_updJob_self ..).trans (congrArg _ hj)
  unfold onlyUnits at hf
  rw [hf]
  exact ⟨rfl, _, hp, rfl, hr⟩
theorem binoHello_ends {peer : Bytes} (hs : j.started = false) (hno : binoHelloOk s p j peer = false ∨ (hlOf s (obj s 0x4500 1)).st ≠ 5) :
    answers (.binoHello p peer) s (fun t => jobOf t p = none ∧ ∃ e ∈ t.events, e.code = 0x5061#16) := by
  refine ⟨_, (exec_binoHello hj hb hr hs).trans (congrArg _ (if_pos (by simpa using hno))), ?_, ?_⟩
  · exact (endJob_cleared (s := stwEvent s 0x5061 2 (some p) none []) hj 7 0x5061).1
  · exact ⟨_, (onward_refl (stwEvent s 0x5061 2 (some p) none [])).endJob.events.subset
      (List.mem_append_right _ (List.mem_singleton_self _)), rfl⟩

/-! Sub-Plates. -/

section
variable {msg : Bytes} (hf : j.frozen = false) (hl : msg.length = 64) (hm : leAt msg 0 4 = 0x50425553) (hz : leAt msg 0x30 16 = 0)
include hf hl hm hz

theorem exec_subp : let region := leAt msg 4 4; let step : W64 := BitVec.ofNat 64 (leAt msg 8 8)
    exec (.subp p msg) s = .next (if region = 0xFFFFFFFF then freeze s p 2 step 0xFFFF
      else compareSub (updJob s p (fun j => { j with subPeer := j.subPeer ++ [(step, region, sliceB msg 0x10 32)] })) p region step) := by
  change Host.Outcome.next (match jobOf s p with | none => _ | some j => _) = _
  rw [hj]
  exact congrArg Host.Outcome.next (if_neg (by simp [hb, hr, hf, hl, hm, hz]))
end
end

/-- The entry of a step and region. -/
def subAt (step : W64) (region : Nat) (e : W64 × Nat × Bytes) : Bool := e.1 == step && e.2.1 == region
theorem compareSub_waits {q region : Nat} {step : W64} (hj : jobOf s q = some j) (ho : j.subOwn.find? (subAt step region) = none) :
    compareSub s q region step = s := by
  rw [compareSub, hj]
  change (match j.subOwn.find? (subAt step region), j.subPeer.find? (subAt step region) with | some _, some _ => _ | _, _ => s) = s
  rw [ho]
/-- The job once both sides of a step and region have been compared. -/
def compared (step : W64) (region : Nat) (j : Job) : Job :=
  { j with subOwn := j.subOwn.filter (fun e => !subAt step region e), subPeer := j.subPeer.filter (fun e => !subAt step region e) }
theorem compareSub_compares {q region : Nat} {step : W64} {a b : W64 × Nat × Bytes} (hj : jobOf s q = some j)
    (ho : j.subOwn.find? (subAt step region) = some a) (hp : j.subPeer.find? (subAt step region) = some b) :
    compareSub s q region step = if a.2.2 = b.2.2 then noteEqual (updJob s q (compared step region)) q region step
      else freeze (updJob s q (compared step region)) q 1 step region := by
  rw [compareSub, hj]
  change (match j.subOwn.find? (subAt step region), j.subPeer.find? (subAt step region) with | some _, some _ => _ | _, _ => s) = _
  rw [ho, hp]
  rfl
end

/-- Settles O44: a comparison waits for both sides; equal ones let the head commit, and whatever else comes freezes the pair. -/
theorem pairsCompareAndFreeze : Obligations.PairsCompareAndFreeze := by
  intro p s j hj hb hr
  refine ⟨fun peer hs => ⟨fun hok h5 => binoHello_starts hj hb hr hs hok h5, fun hno => binoHello_ends hj hb hr hs hno⟩,
    fun msg hf hl hm hz => ?_, fun ho => ?_, fun ho hf => ?_⟩
  · have hx := exec_subp hj hb hr hf hl hm hz
    extract_lets region step sum f
    have hadd : jobOf (updJob s p (fun j => { j with subPeer := j.subPeer ++ [(step, region, sum)] })) p
        = some { j with subPeer := j.subPeer ++ [(step, region, sum)] } := (jobOf_updJob_self ..).trans (congrArg _ hj)
    refine ⟨fun h => ?_, fun h ho => ?_, fun h hp a ha => ?_⟩
    · obtain ⟨h1, -, h2⟩ := freeze_freezes hj hf 2 step 0xFFFF
      exact ⟨_, hx.trans (congrArg _ (if_pos h)), h1, h2⟩
    · refine ⟨_, hx.trans (congrArg _ ((if_neg h).trans (compareSub_waits hadd ho))), memoriesKept_of_eq rfl rfl, hadd⟩
    · have hpeer : (j.subPeer ++ [(step, region, sum)]).find? (subAt step region) = some (step, region, sum) := by
        rw [List.find?_append, show j.subPeer.find? (subAt step region) = none from hp]
        simp [subAt]
      have hc := hx.trans (congrArg _ ((if_neg h).trans (compareSub_compares hadd ha hpeer)))
      have hcomp : jobOf (updJob (updJob s p (fun j => { j with subPeer := j.subPeer ++ [(step, region, sum)] })) p (compared step region)) p
          = some (compared step region { j with subPeer := j.subPeer ++ [(step, region, sum)] }) :=
        (jobOf_updJob_self ..).trans (congrArg _ hadd)
      refine ⟨fun he hhead => ?_, fun hne => ?_⟩
      · rw [if_pos he, noteEqual, hcomp] at hc
        dsimp only at hc
        rw [if_pos (show headOf (compared step region { j with subPeer := j.subPeer ++ [(step, region, sum)] }) = some region from hhead)] at hc
        exact ⟨_, hc, memoriesKept_of_eq rfl rfl, _, (jobOf_updJob_self ..).trans (congrArg _ hcomp), rfl, hf⟩
      · rw [if_neg hne] at hc
        exact ⟨_, hc, freeze_freezes hcomp hf 1 step region⟩
  · change Host.Outcome.next (match jobOf s p with | none => _ | some j => _) = _
    rw [hj]
    dsimp only
    rw [ho]
  · obtain ⟨e, l, he⟩ := List.exists_cons_of_ne_nil ho
    refine ⟨_, ?_, freeze_freezes hj hf 3 e.1 e.2.1⟩
    change Host.Outcome.next (match jobOf s p with | none => _ | some j => _) = _
    rw [hj]
    dsimp only
    rw [he]
    exact congrArg Host.Outcome.next (if_pos (by simp [hb, hr]))

end Sys2Proof.Machine
end

section
/-! PROOF. What an opened converter and a new coupling leave of the module (R396, R397, R418). -/

namespace Sys2Proof.Machine

section
variable {s t u : State} {d : Nat}

/-! Couplings. -/

/-- Of the sites only their couplings differ, bits 29 to 26 of register 0x300. -/
structure Recoupled (s t : State) : Prop where
  frame : t = { s with sites := t.sites }
  site : ∀ d, siteSt t d = { siteSt s d with regs := (siteSt t d).regs }
  regs : ∀ d off, off ≠ 0x300 → dreg t d off = dreg s d off
  upper : ∀ d hi lo, 29 < lo → hi < 64 → bitsOf (dreg t d 0x300) hi lo = bitsOf (dreg s d 0x300) hi lo
theorem recoupled_refl (s : State) : Recoupled s s := ⟨rfl, fun _ => rfl, fun _ _ _ => rfl, fun _ _ _ _ _ => rfl⟩
theorem Recoupled.trans (h : Recoupled s t) (g : Recoupled t u) : Recoupled s u :=
  ⟨by rw [g.frame, h.frame], fun d => by rw [g.site d, h.site d], fun d off ho => (g.regs d off ho).trans (h.regs d off ho),
    fun d hi lo hl hh => (g.upper d hi lo hl hh).trans (h.upper d hi lo hl hh)⟩
theorem setCouplings_recoupled (s : State) (d v : Nat) : Recoupled s (setDreg s d 0x300 (setBits (dreg s d 0x300) 29 26 v)) := by
  refine ⟨rfl, fun e => ?_, fun e off ho => ?_, fun e hi lo hl hh => ?_⟩
  · by_cases he : e = d
    · rw [he, setDreg, siteSt_updSite_self]
    · rw [setDreg, siteSt_updSite_ne s d _ he]
  · by_cases he : e = d
    · rw [he, dreg_setDreg_off s d _ _ ho]
    · rw [dreg_setDreg_ne s d _ _ _ he]
  · by_cases he : e = d
    · rw [he, dreg_setDreg_self, bitsOf_mod _ hh, bitsOf_setBits_above _ _ (by decide) hl]
    · rw [dreg_setDreg_ne s d _ _ _ he]
theorem recouple_recoupled (s : State) : Recoupled s (recouple s) :=
  foldl_rel recoupled_refl Recoupled.trans (fun t d => setCouplings_recoupled t d _) _ s

/-! Converters. -/

/-- Site d's converter has opened: the site is dark, its power state is st, and nothing of another site but couplings differs. -/
structure Opened (s t : State) (d st : Nat) : Prop where
  frame : t = { s with cores := t.cores, routers := t.routers, clusters := t.clusters, ccs := t.ccs, mesh := t.mesh
                       sites := t.sites, ioRegs := t.ioRegs }
  cores : t.cores = s.cores.filter (fun e => siteOf e.1 != d)
  clusters : ∀ k, clOf t k = if k / 16 = d then clusterDark (clOf s k) else clOf s k
  off : (siteSt t d).powered = false
  latch : ∀ e, (siteSt t e).tripLatch = (siteSt s e).tripLatch
  others : ∀ e, e ≠ d → siteSt t e = { siteSt s e with regs := (siteSt t e).regs }
  power : sitePwr t d = setBits (setBits (setBits (sitePwr s d) 63 16 0) 4 4 1) 3 0 st % 2 ^ 64
  ireg : ∀ off, off ≠ sitePwrOff d → ireg t 64 off = ireg s 64 off
theorem darkSite_mesh (s : State) (d : Nat) : ∃ v, v.cores = s.cores.filter (fun e => siteOf e.1 != d)
    ∧ v.clusters = s.clusters.map (fun e => if e.1 / 16 == d then (e.1, clusterDark e.2) else e)
    ∧ v = { s with cores := v.cores, routers := v.routers, clusters := v.clusters, ccs := v.ccs, mesh := v.mesh }
    ∧ darkSite s d = updSite v d (fun t => { t with powered := false, regs := [], swallowSteps := 0, hl := HlState.reset }) := by
  unfold darkSite
  generalize hv : ({ s with cores := _, routers := _, clusters := _, ccs := _, mesh := _ } : State) = v
  have hf := onlyMesh_foldl severLink severLink_frame (facingPorts d) v
  unfold onlyMesh at hf
  refine ⟨_, ?_, ?_, ?_, rfl⟩ <;> (rw [hf, ← hv])
theorem openSite_opened (s : State) (d st : Nat) : Opened s (openSite s d st) d st := by
  obtain ⟨v, hc, hk, hf, hd⟩ := darkSite_mesh s d
  have hr := recouple_recoupled (setIreg (darkSite s d) 64 (sitePwrOff d)
    (setBits (setBits (setBits (sitePwr (darkSite s d) d) 63 16 0) 4 4 1) 3 0 st))
  change Recoupled _ (openSite s d st) at hr
  generalize openSite s d st = t at hr
  obtain ⟨hrf, hrs, -, -⟩ := hr
  have hs : ∀ e, siteSt v e = siteSt s e := fun e => by rw [hf]; rfl
  have hi : v.ioRegs = s.ioRegs := by rw [hf]
  have hm : ∀ off, Machine.ireg (darkSite s d) 64 off = Machine.ireg s 64 off := fun off => by
    rw [hd]
    change (getN (ioRegReset _) v.ioRegs _).toNat = _
    rw [hi]
    rfl
  have ht : ∀ e, siteSt t e = { siteSt (darkSite s d) e with regs := (siteSt t e).regs } := hrs
  refine ⟨?_, ?_, fun k => ?_, ?_, fun e => ?_, fun e he => ?_, ?_, fun off ho => ?_⟩
  · rw [hrf, hd, hf]
    rfl
  · rw [hrf, hd]
    exact hc
  · have : clOf t k = getN ClusterState.reset v.clusters k := by rw [hrf, hd]; rfl
    rw [this, hk, getN, lookupN_map_entry (fun e => by split <;> rfl)]
    unfold clOf getN
    cases lookupN s.clusters k with
    | none => split <;> rfl
    | some c =>
      by_cases h : k / 16 = d
      · simp [h]
      · simp [h]
  · rw [ht, hd, siteSt_updSite_self]
  · rw [ht, hd, siteSt_updSite]
    split
    · next h => rw [hs, h]
    · rw [hs]
  · rw [ht e, hd, siteSt_updSite_ne _ _ _ he, hs]
  · have : sitePwr t d = sitePwr (setIreg (darkSite s d) 64 (sitePwrOff d)
        (setBits (setBits (setBits (sitePwr (darkSite s d) d) 63 16 0) 4 4 1) 3 0 st)) d := by rw [hrf]; rfl
    rw [this, sitePwr, ireg_setIreg_self, sitePwr, hm]
    rfl
  · have : Machine.ireg t 64 off = Machine.ireg (setIreg (darkSite s d) 64 (sitePwrOff d)
        (setBits (setBits (setBits (sitePwr (darkSite s d) d) 63 16 0) 4 4 1) 3 0 st)) 64 off := by rw [hrf]; rfl
    rw [this, ireg_setIreg_ne _ _ _ _ (by omega), hm]
theorem Opened.powered {st : Nat} (h : Opened s t d st) {e : Nat} (hp : (siteSt t e).powered = true) : e ≠ d ∧ (siteSt s e).powered = true := by
  have hne : e ≠ d := fun he => absurd (hp.symm.trans (he ▸ h.off)) (by decide)
  exact ⟨hne, by rw [h.others e hne] at hp; exact hp⟩
theorem openSite_frame (s : State) (d st : Nat) : openSite s d st = { s with
    cores := (openSite s d st).cores, routers := (openSite s d st).routers, clusters := (openSite s d st).clusters
    ccs := (openSite s d st).ccs, mesh := (openSite s d st).mesh, sites := (openSite s d st).sites
    ioRegs := (openSite s d st).ioRegs } := (openSite_opened s d st).frame

/-! All converters. -/

/-- Converters have opened: no site is powered that was not, a module without cores has none, and the rest of the module is as it
was. -/
structure WentDark (s t : State) : Prop where
  frame : t = { s with cores := t.cores, routers := t.routers, clusters := t.clusters, ccs := t.ccs, mesh := t.mesh
                       sites := t.sites, ioRegs := t.ioRegs }
  cores : s.cores = [] → t.cores = []
  powered : ∀ d, (siteSt t d).powered = true → (siteSt s d).powered = true
theorem wentDark_refl (s : State) : WentDark s s := ⟨rfl, id, fun _ => id⟩
theorem WentDark.trans (h : WentDark s t) (g : WentDark t u) : WentDark s u :=
  ⟨by rw [g.frame, h.frame], fun hc => g.cores (h.cores hc), fun d hp => h.powered d (g.powered d hp)⟩
theorem Opened.dark {st : Nat} (h : Opened s t d st) : WentDark s t :=
  ⟨h.frame, fun hc => by rw [h.cores, hc]; rfl, fun _ hp => (h.powered hp).2⟩
theorem openSites_dark (st : Nat) (l : List Nat) (s : State) : WentDark s (l.foldl (fun s d => openSite s d st) s) :=
  foldl_rel wentDark_refl WentDark.trans (fun t d => (openSite_opened t d st).dark) l s
theorem openSites_off (st d : Nat) (l : List Nat) : ∀ s : State, d ∈ l → (siteSt (l.foldl (fun s d => openSite s d st) s) d).powered = false := by
  induction l with
  | nil => exact fun s hd => absurd hd List.not_mem_nil
  | cons e l ih =>
    intro s hd
    rw [List.foldl_cons]
    by_cases hl : d ∈ l
    · exact ih _ hl
    · obtain rfl : d = e := (List.mem_cons.1 hd).resolve_right hl
      have hdark := openSites_dark st l (openSite s d st)
      have ho := openSite_opened s d st
      generalize l.foldl (fun s d => openSite s d st) (openSite s d st) = t at hdark ⊢
      generalize openSite s d st = v at hdark ho
      exact Bool.eq_false_iff.2 fun hp => (ho.powered (hdark.powered d hp)).1 rfl
theorem lookupN_mem {α : Type} {i : Nat} {v : α} : ∀ {m : List (Nat × α)}, lookupN m i = some v → (i, v) ∈ m
  | (k, w) :: m, h => by
    rw [lookupN] at h
    split at h
    · next hk => rw [hk, Option.some.inj h]; exact List.mem_cons_self
    · exact List.mem_cons_of_mem _ (lookupN_mem h)
theorem mem_poweredSites (h : (siteSt s d).powered = true) : d ∈ poweredSites s := by
  cases hv : lookupN s.sites d with
  | none =>
    rw [siteSt, getN, hv] at h
    exact absurd h (by decide)
  | some v =>
    rw [siteSt, getN, hv] at h
    exact List.mem_map_of_mem (f := Prod.fst) (List.mem_filter.2 ⟨lookupN_mem hv, h⟩)
/-- With every powered site's converter open no site is powered. -/
theorem openSites_allOff (s : State) (st d : Nat) : (siteSt ((poweredSites s).foldl (fun s d => openSite s d st) s) d).powered = false := by
  refine Bool.eq_false_iff.2 fun hp => ?_
  have hd := mem_poweredSites ((openSites_dark st (poweredSites s) s).powered d hp)
  exact absurd ((openSites_off st d (poweredSites s) s hd).symm.trans hp) (by decide)
end

end Sys2Proof.Machine
end

section
/-! PROOF. The main input, and the division of the cap (R398, R409, R411 to R415, R462, R463, R468). -/

namespace Sys2Proof.Machine

section
variable {s t u : State}

/-! Shares. -/

/-- The share that the Finder wrote stays while grants are given. -/
theorem finderShare_giveGrants (j k : Nat) : ∀ (n : Nat) (s : State), (clOf (giveGrants n s k) j).finderShare = (clOf s j).finderShare
  | 0, s => rfl
  | n + 1, s => by
    by_cases hj : j = k
    · subst hj
      rw [giveGrants]
      extract_lets c
      split
      · rfl
      · split
        · rfl
        · next m _ =>
          refine (finderShare_giveGrants j j n _).trans ?_
          rw [bumpFreeK]
          change (clOf (setKreg _ j 0x28 _) j).finderShare = _
          rw [setKreg, clOf_updCl_self]
          dsimp only
          split
          · rw [setKreg, clOf_updCl_self, clOf_setCl_self]
          · rw [clOf_setCl_self]
    · rw [((giveGrants_frame k (n + 1) s).2.1 j hj)]
theorem finderShare_writeShare (s : State) (j k v : Nat) :
    (clOf (writeShare s k v) j).finderShare = if j = k then BitVec.ofNat 7 v else (clOf s j).finderShare := by
  have hr : ∀ t : State, (clOf (regrant t k) j).finderShare = (clOf t j).finderShare := fun t => by
    rw [regrant]
    split
    · exact finderShare_giveGrants j k 64 t
    · rfl
  unfold writeShare
  extract_lets t
  rw [hr, setShare, setKreg, clOf_updCl]
  by_cases hj : j = k
  · rw [if_pos hj, if_pos hj]
    exact congrArg ClusterState.finderShare (clOf_updCl_self s k fun c => { c with finderShare := BitVec.ofNat 7 v })
  · rw [if_neg hj, if_neg hj, clOf_updCl_ne _ _ _ hj]
theorem writeShare_frame (s : State) (k v : Nat) : onlyGrants s (writeShare s k v) k := by
  unfold writeShare
  extract_lets w
  have h1 : onlyGrants s w k := onlyGrants_setCl s k _ rfl
  have h2 : onlyGrants w (setShare w k (shareNow (clOf w k))) k := onlyGrants_setKreg ..
  exact onlyGrants_trans (onlyGrants_trans h1 h2) (regrant_frame ..)
theorem writeShares_frame (f : Nat → Nat) (l : List Nat) (s : State) : let t := l.foldl (fun t k => writeShare t k (f k)) s
    t = { s with clusters := t.clusters, free := t.free } ∧ memoriesKept s t := by
  refine foldl_rel (R := fun s t => t = { s with clusters := t.clusters, free := t.free } ∧ memoriesKept s t)
    (fun s => ⟨rfl, memoriesKept_refl s⟩) (fun h g => ⟨by rw [g.1, h.1], memoriesKept_trans h.2 g.2⟩) (fun t k => ?_) l s
  have hg := writeShare_frame t k (f k)
  refine ⟨hg.1, fun c => by rw [hg.1]; rfl, fun j => ?_⟩
  by_cases hj : j = k
  · rw [hj, hg.2.2]
  · rw [hg.2.1 j hj]
theorem writeShares_writes (f : Nat → Nat) (k : Nat) : ∀ (l : List Nat) (s : State), (k ∈ l ∨ (clOf s k).finderShare = BitVec.ofNat 7 (f k)) →
    (clOf (l.foldl (fun t k => writeShare t k (f k)) s) k).finderShare = BitVec.ofNat 7 (f k)
  | [], s, h => h.resolve_left List.not_mem_nil
  | e :: l, s, h => by
    rw [List.foldl_cons]
    refine writeShares_writes f k l _ ?_
    by_cases he : k = e
    · exact .inr (by rw [finderShare_writeShare, if_pos he, he])
    · refine h.imp (fun h => (List.mem_cons.1 h).resolve_left he) fun h => ?_
      rw [finderShare_writeShare, if_neg he, h]
theorem updFin_ofShares (f : Finder → Finder) (h : t = { s with clusters := t.clusters, free := t.free }) :
    updFin t f = { s with clusters := (updFin t f).clusters, free := (updFin t f).free, fin := (updFin t f).fin } := by
  rw [h]
  rfl
/-- A division writes each share, and keeps every memory. -/
theorem divideCap_divides (s : State) : (divideCap s = { s with clusters := (divideCap s).clusters, free := (divideCap s).free, fin := (divideCap s).fin })
    ∧ (divideCap s).fin = { s.fin with capLast := (divideCap s).fin.capLast } ∧ memoriesKept s (divideCap s)
    ∧ ∀ k ∈ divided s, (clOf (divideCap s) k).finderShare = BitVec.ofNat 7 (shareOf s (max 0 (capInForce s - s.fin.pBase))
        (((s.clusters.map (fun e => bitsOf (kreg s e.1 0x18) 6 0))).sum : Nat) k) := by
  obtain ⟨hf, hm⟩ := writeShares_frame (shareOf s (max 0 (capInForce s - s.fin.pBase))
    (((s.clusters.map (fun e => bitsOf (kreg s e.1 0x18) 6 0))).sum : Nat)) (divided s) s
  have hw := writeShares_writes (shareOf s (max 0 (capInForce s - s.fin.pBase))
    (((s.clusters.map (fun e => bitsOf (kreg s e.1 0x18) 6 0))).sum : Nat))
  unfold divideCap divideOver
  dsimp only at hf hm ⊢
  refine ⟨?_, ?_, hm, fun k hk => hw k (divided s) s (.inl hk)⟩
  · exact updFin_ofShares _ hf
  · exact congrArg (fun f : Finder => { f with capLast := thermalCap s }) (congrArg State.fin hf :)

/-! The register of the main input. -/

theorem bitOf_low2 (x : Nat) : bitOf x 1 = bitOf (bitsOf x 1 0) 1 := by
  unfold bitOf bitsOf
  congr 1
  omega
theorem mainIn_sag (s : State) : bitOf (ireg (setMainIn s) 64 0x1200) 1 = s.fin.sagWarn := by
  rw [setMainIn, ireg_setIreg_self, bitOf_low2, bitsOf_mod _ (by decide), bitsOf_setBits _ _ (by decide)]
  cases s.fin.sagWarn <;> cases s.fin.heldSupply <;> rfl
theorem capInForce_sagged (h : s.fin.sagWarn = false) (ho : t.objs = s.objs) (hf : t.fin = { s.fin with sagWarn := true }) :
    capInForce t = capInForce s / 2 := by
  have hobj : ∀ ix sub, obj t ix sub = obj s ix sub := fun ix sub => by rw [obj, ho, obj]
  have hcap : min (installerCap t) (min (obj t 0x4700 2 : Rat) (thermalCap t))
      = min (installerCap s) (min (obj s 0x4700 2 : Rat) (thermalCap s)) := by
    simp only [installerCap, thermalCap, inletTemp, rthDie, rthStack, hobj, hf]
  unfold capInForce
  extract_lets c c'
  rw [hf, h, if_pos rfl, if_neg (by decide)]
  exact congrArg (· / 2) hcap

/-! Class C. -/

/-- A reset of class C: no core, no request, no power on a site or an I/O die. -/
structure ClassC (t : State) : Prop where
  cores : t.cores = []
  reqs : t.reqs = []
  fin : t.fin.ready = false ∧ t.fin.ioPowered = false
  sites : ∀ d, (siteSt t d).powered = false
theorem resetC_classC (s : State) (st : Nat) : ClassC (resetC s st) := by
  obtain ⟨hc, -, -⟩ := resetCompute_lost s
  obtain ⟨-, -, hr, hlc, -⟩ := loseIo_loses (resetCompute s)
  have hready : (loseIo (resetCompute s)).fin.ready = false := rfl
  unfold resetC
  extract_lets v w
  have hd : WentDark v w := openSites_dark st (poweredSites v) v
  have hoff : ∀ d, (siteSt w d).powered = false := openSites_allOff v st
  obtain ⟨hf, hcores, -⟩ := hd
  refine ⟨hcores (hlc.trans hc), (congrArg State.reqs hf).trans hr, ⟨?_, rfl⟩, hoff⟩
  exact (congrArg (fun x : State => x.fin.ready) hf).trans hready

/-! Holds. -/

theorem resetCompute_events (s : State) : (resetCompute s).events = s.events := by
  unfold resetCompute
  generalize hv : ({ s with cores := [], routers := _, clusters := _, ccs := _, mesh := _ } : State) = v
  have hf := onlyMesh_foldl (fun s (e : Nat × RouterState) => severLink s (e.1, 1)) (fun t e => severLink_frame t (e.1, 1))
    (s.routers.filter (fun e => 16384 ≤ e.1)) v
  exact (congrArg State.events hf :).trans (by rw [← hv])
/-- The events so far stay through a reset of class W. -/
theorem resetW_events (s : State) : s.events <+: (resetW s).events := by
  rw [← resetCompute_events s]
  exact (onward_refl { retainVaults (resetCompute s) true with
    acks := (retainVaults (resetCompute s) true).acks.filter (fun t => 16384 ≤ t.router)
    sites := (retainVaults (resetCompute s) true).sites.map (fun e => (e.1, { e.2 with hl := HlState.reset })) }).chainLook.events

section
variable (hreen : s.fin.reen = none)
include hreen

theorem holdReset_holds {cls cause : Nat} {sup : Bool} (h : (match s.fin.held with | some h => h.1.val | none => 0) < cls) :
    holdReset s cls cause sup = setMainIn (updFin (if cls = 1 then resetW s else if cls = 2 then resetM s else resetC s 0) (fun f => { f with
      held := some (Fin.ofNat 4 cls, BitVec.ofNat 16 cause), heldSupply := sup || f.heldSupply })) := by
  have he : endReen s 8 0 = s := by rw [endReen, hreen]
  unfold holdReset
  extract_lets old s1 s2
  rw [if_neg (show ¬ cls ≤ old from not_le.2 h)]
  simp only [s2, s1, he]
theorem holdReset_free {cls cause : Nat} {sup : Bool} (hh : s.fin.held = none) (h : 0 < cls) :
    holdReset s cls cause sup = setMainIn (updFin (if cls = 1 then resetW s else if cls = 2 then resetM s else resetC s 0) (fun f => { f with
      held := some (Fin.ofNat 4 cls, BitVec.ofNat 16 cause), heldSupply := sup || f.heldSupply })) :=
  holdReset_holds hreen (by rw [hh]; exact h)
theorem holdReset_classW {cause : Nat} {sup : Bool} (hh : s.fin.held = none) : let t := holdReset s 1 cause sup
    t.fin.held = some (1, BitVec.ofNat 16 cause) ∧ (sup = true → t.fin.heldSupply = true) ∧ t.cores = []
      ∧ (∀ k, (clOf t k).vault = (clOf s k).vault) ∧ s.events <+: t.events := by
  obtain ⟨hc, hv, -⟩ := resetW_lost s
  rw [holdReset_free hreen hh (by decide), if_pos rfl]
  exact ⟨rfl, fun h => by rw [h]; rfl, hc, hv, resetW_events s⟩
theorem holdReset_classM {cause : Nat} {sup : Bool} (hh : s.fin.held = none) : let t := holdReset s 2 cause sup
    t.fin.held = some (2, BitVec.ofNat 16 cause) ∧ t.cores = [] ∧ t.ccs = [] ∧ t.wl = [] ∧ t.reqs = []
      ∧ ∀ k, (clOf t k).vault = (clOf s k).vault := by
  obtain ⟨hc, hv, -⟩ := resetW_lost s
  obtain ⟨hcc, hwl, hrq, hco, hcl⟩ := loseIo_loses (resetW s)
  rw [holdReset_free hreen hh (by decide), if_neg (by decide), if_pos rfl]
  exact ⟨rfl, hco.trans hc, hcc, hwl, hrq, fun k => (congrArg (fun m => (getN ClusterState.reset m k).vault) hcl).trans (hv k)⟩
theorem fallToStandby_classC (on : Bool) : ClassC (fallToStandby s on) ∧ (fallToStandby s on).fin.pwr = 3 ∧ (fallToStandby s on).fin.held = none
    ∧ (fallToStandby s on).fin.phase = 0 ∧ (fallToStandby s on).fin.standbyCommanded = on := by
  have he : endReen s 8 0 = s := by rw [endReen, hreen]
  obtain ⟨hc, hr, hf, hp⟩ := resetC_classC s 0
  rw [fallToStandby, he]
  exact ⟨⟨hc, hr, hf, hp⟩, rfl, rfl, rfl, rfl⟩
end

/-! The events of the input. -/

theorem sagWarn_halves {mv : Nat} (h12 : s.fin.standby12 = true) (hreen : s.fin.reen = none) (hs : s.fin.sagWarn = false)
    (hmv : mv < obj s 0x4700 3) : answers (.sagWarn mv) s (fun t => t.fin.sagWarn = true ∧ capInForce t = capInForce s / 2
      ∧ bitOf (ireg t 64 0x1200) 1 = true ∧ t.ctrl.length = s.ctrl.length + 1056 ∧ t.cores = s.cores ∧ t.clusters = s.clusters
      ∧ ∃ e, t.events = s.events ++ [e] ∧ e.code = 0x1010#16) := by
  have hx : exec (.sagWarn mv) s = .next (setMainIn (updFin (finderEvent (noteInput (finderBroadcast s 1 1 allCcs) mv) 0x1010 1 (moduleUnit 0) [])
      (fun f => { f with sagWarn := true }))) := by
    refine congrArg Host.Outcome.next ((if_neg (by simp [h12, hs, hmv])).trans ?_)
    change setMainIn (updFin (finderEvent (match s.fin.reen with | some (_, _, true) => _ | _ => _) _ _ _ _) _) = _
    rw [hreen]
  refine ⟨_, hx, rfl, capInForce_sagged hs rfl rfl, mainIn_sag _, ?_, rfl, rfl, _, rfl, rfl⟩
  change (s.ctrl ++ allCcs.map _).length = _
  rw [List.length_append, List.length_map, allCcs, List.length_range]
theorem sagClear_restores (hs : s.fin.sagWarn = true) : answers .sagClear s (fun t => t.fin.sagWarn = false
    ∧ bitOf (ireg t 64 0x1200) 1 = false ∧ memoriesKept s t ∧ ∃ e ∈ t.events, e.code = 0x1012#16) := by
  obtain ⟨hf, hfin, hm, -⟩ := divideCap_divides (setMainIn (updFin (finderEvent s 0x1012 0 (moduleUnit 0) []) (fun f => { f with sagWarn := false })))
  refine ⟨_, congrArg Host.Outcome.next (if_neg (by simp [hs])), ?_, ?_, hm, ?_⟩
  · rw [hfin]
    rfl
  · have hi := mainIn_sag (updFin (finderEvent s 0x1012 0 (moduleUnit 0) []) (fun f => { f with sagWarn := false }))
    rw [hf]
    exact hi
  · rw [hf]
    exact (raise_appends s 0x1012 0 (moduleUnit 0) finderId []).elim fun e he => ⟨e, he.1 ▸ List.mem_append_right _ (List.mem_singleton_self e), he.2⟩
theorem shareDivide_divides {pb : F32} (h12 : s.fin.standby12 = true) (hpb : isFinite32 pb = true) :
    let u := updFin s (fun f => { f with pBase := toRat32 pb })
    let a := max 0 (capInForce u - u.fin.pBase); let total : Nat := (u.clusters.map (fun e => bitsOf (kreg u e.1 0x18) 6 0)).sum
    answers (.shareDivide pb) s (fun t => memoriesKept s t ∧ t.fin.pBase = toRat32 pb
      ∧ ∀ k ∈ divided u, (clOf t k).finderShare = BitVec.ofNat 7 (shareOf u a total k)) := by
  intro u a total
  obtain ⟨-, hfin, hm, hd⟩ := divideCap_divides u
  refine ⟨divideCap u, congrArg Host.Outcome.next (if_neg (by simp [h12, hpb])), hm, ?_, hd⟩
  rw [hfin]
  rfl

/-! Holds by the input. -/

theorem abortEclosion_ready (h : s.fin.ready = true) : abortEclosion s = s := if_pos (by rw [h]; rfl)
section
variable (h12 : s.fin.standby12 = true) (hreen : s.fin.reen = none)
include h12 hreen

theorem sagReset_holds {mv : Nat} (hheld : s.fin.held = none) (hready : s.fin.ready = true) (hmv : mv < obj s 0x4700 4) :
    answers (.sagReset mv) s (fun t => t.fin.held = some (1, 0x1011) ∧ t.fin.heldSupply = true
      ∧ t.cores = [] ∧ (∀ k, (clOf t k).vault = (clOf s k).vault) ∧ ∃ e ∈ t.events, e.code = 0x1011#16) := by
  have hx : exec (.sagReset mv) s = .next (holdReset (finderEvent (noteInput s mv) 0x1011 3 (moduleUnit 0) []) 1 0x1011 true) :=
    congrArg Host.Outcome.next ((if_neg (by simp [h12, hmv])).trans (by rw [abortEclosion_ready]; exact hready))
  obtain ⟨h1, h2, h3, h4, h5⟩ := holdReset_classW (s := finderEvent (noteInput s mv) 0x1011 3 (moduleUnit 0) []) (cause := 0x1011) (sup := true)
    hreen hheld
  obtain ⟨e, he, hcode⟩ := raise_appends (noteInput s mv) 0x1011 3 (moduleUnit 0) finderId []
  have hin : e ∈ (finderEvent (noteInput s mv) 0x1011 3 (moduleUnit 0) []).events := by
    rw [finderEvent, he]
    exact List.mem_append_right _ (List.mem_singleton_self e)
  exact ⟨_, hx, h1, h2 rfl, h3, h4, e, h5.subset hin, hcode⟩
theorem refclkFail_holds (hheld : s.fin.held = none) (hready : s.fin.ready = true) :
    answers .refclkFail s (fun t => t.fin.held = some (2, 0x3042) ∧ t.cores = [] ∧ t.ccs = [] ∧ t.wl = [] ∧ t.reqs = []
      ∧ (∀ k, (clOf t k).vault = (clOf s k).vault)) := by
  have hx : exec .refclkFail s = .next (holdReset (finderEvent s 0x3042 3 (moduleUnit 0) []) 2 0x3042 false) :=
    congrArg Host.Outcome.next ((if_neg (by simp [h12])).trans (by rw [abortEclosion_ready]; exact hready))
  exact ⟨_, hx, holdReset_classM (s := finderEvent s 0x3042 3 (moduleUnit 0) []) hreen hheld⟩
theorem overvoltage_holds {mv : Nat} (hheld : s.fin.held = none) (hready : s.fin.ready = true) (hmv : 59000 < mv) :
    answers (.overvoltage mv) s (fun t => t.fin.held = some (3, 0x1013) ∧ t.fin.ioPowered = false ∧ t.cores = []
      ∧ ∀ d, (siteSt t d).powered = false) := by
  have hx : exec (.overvoltage mv) s = .next (holdReset (finderEvent (noteInput s mv) 0x1013 3 (moduleUnit 0) []) 3 0x1013 true) :=
    congrArg Host.Outcome.next ((if_neg (by simp [h12, hmv])).trans (by rw [abortEclosion_ready]; exact hready))
  obtain ⟨hc, -, hf, hp⟩ := resetC_classC (finderEvent (noteInput s mv) 0x1013 3 (moduleUnit 0) []) 0
  exact ⟨_, hx.trans (congrArg _ (holdReset_free (s := (finderEvent (noteInput s mv) 0x1013 3 (moduleUnit 0) [])) hreen hheld (by decide))),
    rfl, hf.2, hc, hp⟩
theorem mainInputLoss_standby : answers .mainInputLoss s (fun t => t.fin.pwr = 3 ∧ t.fin.held = none ∧ t.fin.phase = 0
    ∧ t.fin.ready = false ∧ t.cores = [] ∧ t.reqs = [] ∧ t.fin.standbyCommanded = s.fin.standbyCommanded
    ∧ ∀ d, (siteSt t d).powered = false) := by
  obtain ⟨⟨hc, hr, hf, hp⟩, h1, h2, h3, h4⟩ := fallToStandby_classC (s := noteInput s 0) hreen s.fin.standbyCommanded
  exact ⟨_, congrArg Host.Outcome.next (if_neg (by simp [h12])), h1, h2, h3, hf.1, hc, hr, h4, hp⟩
end
theorem inputCollapse_holds (hreen : s.fin.reen = none) {h : Fin 4 × BitVec 16} (hh : s.fin.held = some h) (hc : h.1 = 1 ∨ h.1 = 2) :
    answers .inputCollapse s (fun t => t.fin.held = some (3, 0x1014) ∧ ∀ d, (siteSt t d).powered = false) := by
  have hx : exec .inputCollapse s = .next (holdReset (finderEvent s 0x1014 3 (moduleUnit 0) []) 3 0x1014 false) := by
    change Host.Outcome.next (match s.fin.held with | some h => _ | none => _) = _
    rw [hh]
    exact congrArg _ (if_pos (by simpa using hc))
  have hlt : (match (finderEvent s 0x1014 3 (moduleUnit 0) []).fin.held with | some h => h.1.val | none => 0) < 3 := by
    rw [show (finderEvent s 0x1014 3 (moduleUnit 0) []).fin.held = some h from hh]
    change h.1.val < 3
    rcases hc with hc | hc <;> (rw [hc]; decide)
  exact ⟨_, hx.trans (congrArg _ (holdReset_holds (s := finderEvent s 0x1014 3 (moduleUnit 0) []) hreen hlt)), rfl, (resetC_classC _ 0).sites⟩
end

/-- Settles O46: each event of the input is its hold, its division or nothing. -/
theorem mainInputEvents : Obligations.MainInputEvents := by
  intro s h12 hreen
  refine ⟨fun mv hs => ⟨fun hmv => congrArg Host.Outcome.next (if_pos (by simp [hmv])), fun hmv => sagWarn_halves h12 hreen hs hmv⟩,
    fun hs => congrArg Host.Outcome.next (if_pos (by simp [hs])), fun hs => sagClear_restores hs, fun pb hpb => shareDivide_divides h12 hpb,
    fun pb hpb => congrArg Host.Outcome.next (if_pos (by simp [hpb])),
    fun hheld hready => ⟨fun mv hmv => sagReset_holds h12 hreen hheld hready hmv,
      fun mv hmv => congrArg Host.Outcome.next (if_pos (by simp [hmv])), refclkFail_holds h12 hreen hheld hready,
      fun mv hmv => overvoltage_holds h12 hreen hheld hready hmv, fun mv hmv => congrArg Host.Outcome.next (if_pos (by simp [hmv])), ?_⟩,
    fun c hh => hh.elim (fun hh => inputCollapse_holds hreen hh (.inl rfl)) (fun hh => inputCollapse_holds hreen hh (.inr rfl)),
    mainInputLoss_standby h12 hreen⟩
  change Host.Outcome.next (match s.fin.held with | some h => _ | none => _) = _
  rw [hheld]

end Sys2Proof.Machine
end

section
/-! PROOF. DIAPAUSE and STANDBY (R463 to R468, R470). -/

namespace Sys2Proof.Machine

section
variable {s t u : State}

theorem raised_stwEvent (s : State) (code sev : Nat) (p req : Option Nat) (d : Bytes) :
    raised s (stwEvent s code sev p req d) (BitVec.ofNat 16 code) := ⟨_, rfl, _, List.mem_singleton_self _, rfl⟩
theorem raised_finderEvent (s : State) (code sev unit : Nat) (d : Bytes) :
    raised s (finderEvent s code sev unit d) (BitVec.ofNat 16 code) := ⟨_, rfl, _, List.mem_singleton_self _, rfl⟩

/-! Requests, one after another. -/

/-- Nothing but requests and records differs. -/
def onlyPaused (s t : State) : Prop := t = { s with
  clusters := t.clusters, wl := t.wl, parts := t.parts, events := t.events, free := t.free, reqs := t.reqs }
theorem onlyPaused_refl (s : State) : onlyPaused s s := rfl
theorem onlyPaused_trans (h : onlyPaused s t) (g : onlyPaused t u) : onlyPaused s u := by
  unfold onlyPaused at *
  rw [g, h]
/-- A pass over the requests brings each from P to Q, once or more often. -/
theorem reqs_pass {f : State → Nat → State} {P Q : Request → Prop} (hne : ∀ t k h, h ≠ k → reqOf (f t k) h = reqOf t h)
    (hself : ∀ t k x, reqOf t k = some x → (P x ∨ Q x) → ∃ y, reqOf (f t k) k = some y ∧ Q y) {h : Nat} :
    ∀ (l : List Nat) (s : State) (x : Request), reqOf s h = some x → ((h ∈ l ∧ P x) ∨ Q x) → ∃ y, reqOf (l.foldl f s) h = some y ∧ Q y
  | [], s, x, hx, hp => ⟨x, hx, hp.resolve_left fun hp => List.not_mem_nil hp.1⟩
  | k :: l, s, x, hx, hp => by
    rw [List.foldl_cons]
    by_cases hk : h = k
    · subst hk
      obtain ⟨y, hy, hq⟩ := hself s h x hx (hp.imp_left And.right)
      exact reqs_pass hne hself l _ y hy (.inr hq)
    · refine reqs_pass hne hself l _ x ((hne s k h hk).trans hx) (hp.imp_left fun hp => ⟨(List.mem_cons.1 hp.1).resolve_left hk, hp.2⟩)
theorem mem_reqs {h : Nat} {r : Request} (hr : reqOf s h = some r) : h ∈ s.reqs.map (fun e => e.1) :=
  List.mem_map_of_mem (f := fun e : Nat × Request => e.1) (lookupN_mem hr)
theorem logPaused_frame (s : State) (h : Nat) (v : Request) (p : Nat) : onlyPaused s (logPause (setReq s h v) p h)
    ∧ jobsKept s (logPause (setReq s h v) p h) ∧ ∀ k, reqOf (logPause (setReq s h v) p h) k = if k = h then some v else reqOf s k := by
  obtain ⟨⟨hb, hj⟩, -⟩ := logPause_frame (setReq s h v) p h
  refine ⟨?_, hj, fun k => ?_⟩
  · unfold onlyBooks at hb
    unfold onlyPaused
    rw [hb]
    rfl
  · rw [hb.reqOf_eq, reqOf_setReq]

/-! The entry to DIAPAUSE. -/

theorem diaPause_frame (s : State) (h : Nat) : onlyPaused s (diaPause s h) ∧ ∀ k, k ≠ h → reqOf (diaPause s h) k = reqOf s k := by
  unfold diaPause
  cases hr : reqOf s h with
  | none => exact ⟨onlyPaused_refl s, fun _ _ => rfl⟩
  | some r =>
    dsimp only
    split
    · exact ⟨onlyPaused_refl s, fun _ _ => rfl⟩
    · obtain ⟨hf, -, hq⟩ := logPaused_frame s h { r with st := .paused, pausedFrom := r.st, pause := some .diapause, pausedAt := s.units } r.part.val
      exact ⟨hf, fun k hk => by rw [hq, if_neg hk]⟩
/-- Request x is r, paused in place by the entry. -/
def pausedAs (r x : Request) : Prop := x.st = .paused ∧ x.pause = some .diapause ∧ x.pausedFrom = r.st ∧ x.tokens = r.tokens
theorem diaPause_pauses {r x : Request} {h : Nat} (ha : r.st = .prefill ∨ r.st = .decode) (hx : reqOf s h = some x)
    (hp : x = r ∨ pausedAs r x) : ∃ y, reqOf (diaPause s h) h = some y ∧ pausedAs r y := by
  unfold diaPause
  rw [hx]
  dsimp only
  rcases hp with rfl | hp
  · rw [if_neg (by rcases ha with ha | ha <;> simp [ha])]
    exact ⟨_, ((logPaused_frame s h _ _).2.2 h).trans (if_pos rfl), rfl, rfl, rfl, rfl⟩
  · rw [if_pos (by simp [hp.1])]
    exact ⟨x, hx, hp⟩
theorem diaPauses_frame (l : List Nat) (s : State) : onlyPaused s (l.foldl diaPause s) :=
  foldl_rel onlyPaused_refl onlyPaused_trans (fun t h => (diaPause_frame t h).1) l s
theorem diaPauses_pause {r : Request} {h : Nat} (ha : r.st = .prefill ∨ r.st = .decode) (hr : reqOf s h = some r) :
    ∃ x, reqOf ((s.reqs.map (fun e => e.1)).foldl diaPause (setDiaPaused s true)) h = some x ∧ pausedAs r x :=
  reqs_pass (P := (· = r)) (Q := pausedAs r) (fun t k j hj => (diaPause_frame t k).2 j hj) (fun t k x hx hp => diaPause_pauses ha hx hp) _ _ r hr
    (.inl ⟨mem_reqs hr, rfl⟩)
theorem onward_fin (h : Onward s t) : t.fin = s.fin := congrArg (fun x => x.2.2.2.2.1) h.fixed
theorem hlGoDown_fin (s : State) (d : Nat) : (hlGoDown s d).fin = s.fin := by
  unfold hlGoDown
  extract_lets crossed v
  exact (onward_fin ((onward_refl (hlEvent v d 0x7031 1 [])).hlLost (d := d) (crossed := crossed))).trans rfl
theorem diaHeliostat_fin (s : State) (d : Nat) : (diaHeliostat s d).fin = s.fin := by
  unfold diaHeliostat
  extract_lets v
  have hv : v.fin = s.fin := by
    simp only [v]
    split
    · rw [sendHello_sites]
    · rfl
  split
  · exact hv
  · exact (hlGoDown_fin v d).trans hv
theorem diaHeliostats_fin (l : List Nat) (s : State) : (l.foldl diaHeliostat s).fin = s.fin :=
  foldl_rel (R := fun s t => t.fin = s.fin) (fun _ => rfl) (fun h g => g.trans h) diaHeliostat_fin l s
theorem diaHeliostat_idle (s : State) (d : Nat) (h : (hlOf s d).st = 0) : diaHeliostat s d = s := by
  have hc : chainUp s d = false := by simp [chainUp, h]
  unfold diaHeliostat
  rw [hc]
  exact if_pos (by simp [h])
theorem diaHeliostats_idle (h : ∀ d, d < 64 → (hlOf s d).st = 0) : (List.range 64).foldl diaHeliostat s = s := by
  have hgen : ∀ l : List Nat, (∀ d ∈ l, d < 64) → l.foldl diaHeliostat s = s := fun l => by
    induction l with
    | nil => exact fun _ => rfl
    | cons d l ih =>
      intro hl
      rw [List.foldl_cons, diaHeliostat_idle s d (h d (hl d List.mem_cons_self))]
      exact ih fun e he => hl e (List.mem_cons_of_mem d he)
  exact hgen _ fun d hd => List.mem_range.1 hd
/-- The module sleeps: every vault retains itself, and where the mesh links were idle every running request has paused in place. -/
structure Asleep (s t : State) : Prop where
  sleeps : t.fin.pwr = 2 ∧ t.fin.diaWait = false
  retains : ∀ e ∈ t.clusters, e.2.selfRetain = true
  told : ∃ e ∈ t.events, e.code = 0x1053#16
  requests : (∀ d, d < 64 → (hlOf s d).st = 0) → ∀ h r, reqOf s h = some r → (r.st = .prefill ∨ r.st = .decode) →
    ∃ x, reqOf t h = some x ∧ pausedAs r x
theorem diaEnter_asleep (hw : s.fin.wakeWait = none) : Asleep s (diaEnter s) := by
  unfold diaEnter
  extract_lets s1 s2 s3 s4
  have h2 : s2.fin = s1.fin ∧ s2.sites = s1.sites := by
    have hf : onlyPaused (setDiaPaused s1 true) s2 := diaPauses_frame _ _
    unfold onlyPaused at hf
    rw [hf]
    exact ⟨rfl, rfl⟩
  have h3 : s3.fin = s1.fin := (diaHeliostats_fin _ s2).trans h2.1
  have hid : (∀ d, d < 64 → (hlOf s d).st = 0) → s3 = s2 := fun hl => diaHeliostats_idle fun d hd => by
    rw [hlOf, siteSt, h2.2]
    exact hl d hd
  clear_value s3
  have h4 : s4.fin = s1.fin := h3
  have hwake : s4.fin.wakeWait = none := (congrArg Finder.wakeWait h4).trans hw
  have he : raised (retainVaults s3 true) s4 0x1053#16 := raised_stwEvent ..
  rw [hwake]
  refine ⟨⟨congrArg Finder.pwr h4, congrArg Finder.diaWait h4⟩, fun e he => ?_, he.mem, fun hl h r hr ha => ?_⟩
  · obtain ⟨c, -, hc⟩ := List.mem_map.1 (show e ∈ s3.clusters.map (fun e => (e.1, { e.2 with selfRetain := true })) from he)
    rw [← hc]
  · obtain ⟨x, hx, hp⟩ := diaPauses_pause (s := s1) ha hr
    refine ⟨x, ?_, hp⟩
    change reqOf s3 h = _
    rw [hid hl]
    exact hx

/-! The wake. -/

/-- No job waits with a restart. -/
def noRestartDue (s : State) : Prop := ∀ p j, jobOf s p = some j → j.wakeRestart = none
theorem noRestartDue_of_jobs (h : noRestartDue s) (hj : jobsKept s t) : noRestartDue t := fun p j hp => h p j ((hj p).2.symm.trans hp)
theorem wakeRestarts_idle (h : noRestartDue s) : wakeRestarts s = s := by
  have hgen : ∀ l : List Nat, l.foldl (fun s p => match (jobOf s p).bind (fun j => j.wakeRestart) with
      | some c => restartBegin (updJob s p (fun j => { j with wakeRestart := none })) p c.toNat
      | none => s) s = s := fun l => by
    induction l with
    | nil => rfl
    | cons p l ih =>
      have hn : (jobOf s p).bind (fun j => j.wakeRestart) = none := by
        cases hj : jobOf s p with
        | none => rfl
        | some j => exact h p j hj
      rw [List.foldl_cons, hn]
      exact ih
  exact hgen _
theorem jobOf_setDiaPaused (s : State) (on : Bool) (p : Nat) :
    jobOf (setDiaPaused s on) p = (jobOf s p).map (fun j => { j with diaPaused := on }) := by
  change ((lookupN (s.parts.map (fun e => (e.1, { e.2 with job := e.2.job.map (fun j => { j with diaPaused := on }) }))) p).getD PartState.reset).job = _
  rw [lookupN_map_entry (f := fun e : Nat × PartState => (e.1, { e.2 with job := e.2.job.map (fun j => { j with diaPaused := on }) })) (fun _ => rfl)]
  rw [jobOf, partOf, getN]
  cases lookupN s.parts p <;> rfl
theorem noRestartDue_setDiaPaused (h : noRestartDue s) (on : Bool) : noRestartDue (setDiaPaused s on) := fun p j hp => by
  rw [jobOf_setDiaPaused, Option.map_eq_some_iff] at hp
  obtain ⟨i, hi, rfl⟩ := hp
  exact h p i hi

/-- Nothing but ports, control cores and events differs, and no port withholds a doorbell. -/
def onlyWoken (s t : State) : Prop := t = { s with wl := t.wl, ccs := t.ccs, events := t.events } ∧ ∀ n, (wlOf t n).withheld = []
/-- A port that was UP retrains on a wake. -/
def wakeRetrains (s : State) (n : Nat) : State :=
  portEvent (wlState (updWl s n (fun w => { w with err := BitVec.ofNat 64 (bumpField w.err.toNat 15 8 1) })) n 6) n 0x7012 0 []
theorem wakeRetrains_frame (s : State) (n : Nat) : wakeRetrains s n = { s with
    wl := (wakeRetrains s n).wl, ccs := (wakeRetrains s n).ccs, events := (wakeRetrains s n).events } := rfl
theorem withheld_wakeRetrains (s : State) (n m : Nat) : (wlOf (wakeRetrains s n) m).withheld = (wlOf s m).withheld := by
  rw [wakeRetrains, wlOf_portEvent, wlState, wlOf_doorbellAt, wlOf_updWl, wlOf_updWl, wlOf_updWl]
  by_cases hm : m = n
  · simp [hm]
  · simp [hm]
theorem wakePort_woken (h : ∀ n, (wlOf s n).withheld = []) (n : Nat) : onlyWoken s (wakePort s n) := by
  have hx : wakePort s n = if (wlOf s n).st ≠ 5 then s
      else if (wlOf (updWl s n (fun w => { w with withheld := [] })) n).st ≠ 5 then updWl s n (fun w => { w with withheld := [] })
      else wakeRetrains (updWl s n (fun w => { w with withheld := [] })) n := by
    unfold wakePort
    rw [h n]
    rfl
  have hw : onlyWoken s (updWl s n (fun w => { w with withheld := [] })) := ⟨rfl, fun m => by
    rw [wlOf_updWl]
    split
    · rfl
    · exact h m⟩
  rw [hx]
  generalize updWl s n (fun w => { w with withheld := [] }) = v at hw
  obtain ⟨hf, hv⟩ := hw
  split
  · exact ⟨rfl, h⟩
  · split
    · exact ⟨hf, hv⟩
    · exact ⟨by rw [wakeRetrains_frame, hf], fun m => (withheld_wakeRetrains v n m).trans (hv m)⟩
theorem wakePorts_woken : ∀ (l : List Nat) (s : State), (∀ n, (wlOf s n).withheld = []) → onlyWoken s (l.foldl wakePort s)
  | [], s, h => ⟨rfl, h⟩
  | n :: l, s, h => by
    obtain ⟨h1, h2⟩ := wakePort_woken h n
    obtain ⟨h3, h4⟩ := wakePorts_woken l _ h2
    refine ⟨?_, h4⟩
    rw [List.foldl_cons, h3, h1]
theorem wakeReq_frame (s : State) (h : Nat) : onlyPaused s (wakeReq s h) ∧ jobsKept s (wakeReq s h)
    ∧ ∀ k, k ≠ h → reqOf (wakeReq s h) k = reqOf s k := by
  unfold wakeReq
  cases hr : reqOf s h with
  | none => exact ⟨onlyPaused_refl s, jobsKept_refl s, fun _ _ => rfl⟩
  | some r =>
    dsimp only
    split
    · exact ⟨onlyPaused_refl s, jobsKept_refl s, fun _ _ => rfl⟩
    · obtain ⟨hf, hj, hq⟩ := logPaused_frame s h { r with st := r.pausedFrom, pause := none } r.part.val
      exact ⟨hf, hj, fun k hk => by rw [hq, if_neg hk]⟩
/-- Request x is r, back in the state that the entry found. -/
def wokenAs (r x : Request) : Prop := x.st = r.pausedFrom ∧ x.pause = none ∧ x.tokens = r.tokens
theorem wakeReq_wakes {r x : Request} {h : Nat} (ha : r.pause = some .diapause) (hx : reqOf s h = some x) (hp : x = r ∨ wokenAs r x) :
    ∃ y, reqOf (wakeReq s h) h = some y ∧ wokenAs r y := by
  unfold wakeReq
  rw [hx]
  dsimp only
  rcases hp with rfl | hp
  · rw [if_neg (by simp [ha])]
    exact ⟨_, ((logPaused_frame s h _ _).2.2 h).trans (if_pos rfl), rfl, rfl, rfl⟩
  · rw [if_pos (by simp [hp.2.1])]
    exact ⟨x, hx, hp⟩
theorem wakeReqs_frame (l : List Nat) (s : State) : onlyPaused s (l.foldl wakeReq s) ∧ jobsKept s (l.foldl wakeReq s) :=
  foldl_rel (R := fun s t => onlyPaused s t ∧ jobsKept s t) (fun s => ⟨onlyPaused_refl s, jobsKept_refl s⟩)
    (fun h g => ⟨onlyPaused_trans h.1 g.1, jobsKept_trans h.2 g.2⟩) (fun t h => ⟨(wakeReq_frame t h).1, (wakeReq_frame t h).2.1⟩) l s

/-- The module is awake again, as s slept. -/
structure Awake (s : State) (src : Byte) (t : State) : Prop where
  run : t.fin.pwr = 0
  admits : t.stw.admissionStopped = false
  told : ∃ e ∈ t.events, e.code = 0x1054#16 ∧ e.detail = src :: zeros 15
  requests : ∀ h r, reqOf s h = some r → r.pause = some .diapause → ∃ x, reqOf t h = some x ∧ wokenAs r x
theorem wakeNow_awake (hw : ∀ n, (wlOf s n).withheld = []) (hr : noRestartDue s) (src : Byte) : Awake s src (wakeNow s src) := by
  unfold wakeNow
  extract_lets s1 s2 s3 s4 s5
  obtain ⟨h4, -⟩ : onlyWoken s3 s4 := wakePorts_woken _ s3 hw
  clear_value s4
  obtain ⟨hf, hj⟩ := wakeReqs_frame (s4.reqs.map (fun e => e.1)) s4
  have hn4 : noRestartDue s4 := by
    have hn3 : noRestartDue s3 := noRestartDue_setDiaPaused (s := updStw s2 (fun t => { t with admissionStopped := false })) hr false
    rw [h4]
    exact hn3
  have h5 : s5 = (s4.reqs.map (fun e => e.1)).foldl wakeReq s4 := wakeRestarts_idle (noRestartDue_of_jobs hn4 hj)
  clear_value s5
  have hst : s5.fin = s3.fin ∧ s5.stw = s3.stw := by
    unfold onlyPaused at hf
    rw [h5, hf, h4]
    exact ⟨rfl, rfl⟩
  have he : raised s5 (finderEvent s5 0x1054 0 (moduleUnit 0) [src]) 0x1054#16 := raised_finderEvent ..
  refine ⟨congrArg Finder.pwr hst.1, congrArg Steward.admissionStopped hst.2, ?_, fun h r hq hp => ?_⟩
  · exact ⟨_, List.mem_append_right _ (List.mem_singleton_self _), rfl, rfl⟩
  · have h4r : reqOf s4 h = some r := by
      rw [h4]
      exact hq
    obtain ⟨x, hx, hx2⟩ := reqs_pass (P := (· = r)) (Q := wokenAs r) (fun t k j hj => (wakeReq_frame t k).2.2 j hj)
      (fun t k x hx hp' => wakeReq_wakes hp hx hp') _ s4 r h4r (.inl ⟨mem_reqs h4r, rfl⟩)
    refine ⟨x, ?_, hx2⟩
    change reqOf s5 h = _
    rw [h5]
    exact hx
end

end Sys2Proof.Machine
end

section
/-! PROOF. DIAPAUSE and STANDBY: the commands (R463 to R468, R470). -/

namespace Sys2Proof.Machine

section
variable {s t u : State}

/-! STANDBY. -/

theorem jobOf_loseIo (s : State) (p : Nat) : jobOf (loseIo s) p = none := by
  have hp : ∀ v : State, ((lookupN (v.parts.map (fun e => (e.1, partLost v e.2))) p).getD PartState.reset).job = none := fun v => by
    rw [lookupN_map_entry (f := fun e : Nat × PartState => (e.1, partLost v e.2)) (fun _ => rfl)]
    cases lookupN v.parts p <;> rfl
  exact hp _
theorem jobOf_resetC (s : State) (st p : Nat) : jobOf (resetC s st) p = none := by
  unfold resetC
  extract_lets v w
  have hf : w.parts = v.parts := (congrArg State.parts (openSites_dark st (poweredSites v) v).frame :)
  have hj : jobOf v p = none := jobOf_loseIo _ p
  change ((lookupN (w.parts.map (fun e => (e.1, { e.2 with clearing := false, clearDesc := [] }))) p).getD PartState.reset).job = none
  rw [lookupN_map_entry (f := fun e : Nat × PartState => (e.1, { e.2 with clearing := false, clearDesc := [] })) (fun _ => rfl), hf]
  rw [jobOf, partOf, getN] at hj
  clear_value v
  cases hl : lookupN v.parts p with
  | none => rfl
  | some x => rw [hl] at hj; exact hj
theorem fallToStandby_falls (s : State) (on : Bool) : let t := fallToStandby s on
    t.fin.pwr = 3 ∧ t.fin.standbyCommanded = on ∧ (∀ p, jobOf t p = none) ∧ ∀ d, (siteSt t d).powered = false :=
  ⟨rfl, rfl, fun p => jobOf_resetC (endReen s 8 0) 0 p, (resetC_classC (endReen s 8 0) 0).sites⟩
theorem leaveStandby_begins (hp : s.fin.pwr = 3) (he : s.fin.eclosing = false) (h12 : s.fin.standby12 = true) : let t := leaveStandby s
    t.fin.eclosing = true ∧ t.fin.standbyCommanded = false ∧ t.fin.lastClass = 3 ∧ ∃ e ∈ t.events, e.code = 0x1052#16 := by
  rw [leaveStandby, if_neg (by simp [hp, he, h12])]
  exact ⟨rfl, rfl, rfl, (raised_finderEvent (updFin _ _) 0x1052 1 (moduleUnit 0) _).mem⟩

section
variable {req : DapReq} {se : Session}

/-- A granted write differs in the agent's state and the events alone. -/
theorem granted_agent {ix sub : Nat} {value : Bytes} (h : canWrite s req ix sub value se) : onlyAgent s (granted s req ix sub value se) :=
  (granted_effect h).1
theorem standbyEnter_writes (h : canWrite s req 0x4900 1 [3#8] se) (hop : byOperator se = false) (hsw : someSwapping s = false)
    (hp : s.fin.pwr ≠ 3) : writes (.standbyEnter req) s req 0x4900 1 [3#8] se (fun _ t => t.fin.pwr = 3 ∧ t.fin.standbyCommanded = true
      ∧ (∀ p, jobOf t p = none) ∧ ∀ d, (siteSt t d).powered = false) := by
  have hi : exec (.standbyEnter req) s = .next (dapWrite s req 0x4900 1 [3#8]
      (fun se s => if byOperator se then stAccess else if someSwapping s then stState else stOk)
      (fun _ s => if s.fin.pwr = 3 && !s.fin.eclosing then s
        else fallToStandby (deliverAll ((s.parts.map (fun e => e.1)).foldl (fun s p => endJob s p 7 0) s)) true)) :=
    congrArg Host.Outcome.next (if_neg (by rw [hsw]; simp))
  refine writes_if (st := stState) (p := True) h hi (by decide) (fun _ => ?_) (fun hn => absurd trivial hn) (fun _ => ?_)
    (fun t hn => absurd trivial hn)
  · have hf := (asked_frame h).1
    unfold onlyAgent at hf
    have hsw' : someSwapping (asked s req 0x11 (writeBody 0x4900 1 [3#8] ++ req.sig)) = false := by
      rw [hf]
      exact hsw
    rw [hop, hsw']
    rfl
  · have hf := granted_agent h
    unfold onlyAgent at hf
    rw [if_neg (by rw [hf]; simp [hp])]
    exact fallToStandby_falls _ true
theorem standbyExit_writes (h : canWrite s req 0x4900 1 [0#8] se) (hop : byOperator se = false) (hp : s.fin.pwr = 3)
    (he : s.fin.eclosing = false) (h12 : s.fin.standby12 = true) :
    writes (.standbyExit (some req)) s req 0x4900 1 [0#8] se (fun _ t => t.fin.eclosing = true ∧ t.fin.standbyCommanded = false
      ∧ t.fin.lastClass = 3 ∧ ∃ e ∈ t.events, e.code = 0x1052#16) := by
  refine writes_if (st := stState) (p := True) h rfl (by decide) (fun _ => if_neg (by rw [hop]; simp)) (fun hn => absurd trivial hn)
    (fun _ => ?_) (fun t hn => absurd trivial hn)
  have hf := granted_agent h
  unfold onlyAgent at hf
  have hfin : (granted s req 0x4900 1 [0#8] se).fin = s.fin := by rw [hf]
  exact leaveStandby_begins (by rw [hfin, hp]) (by rw [hfin, he]) (by rw [hfin, h12])

/-! DIAPAUSE. -/

/-- The entry has been asked for, and admission has stopped. -/
def diaAsked (s : State) : State := updStw (updFin s (fun f => { f with diaWait := true })) (fun t => { t with admissionStopped := true })
/-- What the write of DIAPAUSE comes to. -/
def diaWritten (s : State) : State :=
  if s.fin.diaWait then s else match diaReason s with | some r => powerRefused s r | none => diaLook (diaAsked s)
theorem held_of_diaReason (h : diaReason s = none) : s.fin.held = none := by
  rw [diaReason, firstOf, Option.map_eq_none_iff, List.find?_eq_none] at h
  have hr := h (powerBusy s, 5) (by simp)
  simp only [powerBusy, Bool.or_eq_true, not_or] at hr
  exact Option.not_isSome_iff_eq_none.1 hr.2
theorem diaWritten_waits (hd : s.fin.diaWait = false) (hr : diaReason s = none) (hs : stepsInFlight s = true) :
    (diaWritten s).fin.diaWait = true ∧ (diaWritten s).fin.pwr = s.fin.pwr ∧ (diaWritten s).stw.admissionStopped = true := by
  have hst : stepsInFlight (diaAsked s) = true := hs
  have hw : diaWritten s = diaAsked s := by
    rw [diaWritten, hd, hr, if_neg (by decide)]
    change diaLook (diaAsked s) = _
    rw [diaLook, hst]
    simp
  rw [hw]
  exact ⟨rfl, rfl, rfl⟩
theorem diaWritten_asleep (hd : s.fin.diaWait = false) (hr : diaReason s = none) (hs : stepsInFlight s = false) (hw : s.fin.wakeWait = none) :
    Asleep (diaAsked s) (diaWritten s) := by
  have hx : diaWritten s = diaEnter (diaAsked s) := by
    have hst : stepsInFlight (diaAsked s) = false := hs
    have hheld : (diaAsked s).fin.held = none := held_of_diaReason hr
    rw [diaWritten, hd, hr, if_neg (by decide)]
    change diaLook (diaAsked s) = _
    have hdue : (diaAsked s).fin.diaWait = true := rfl
    rw [diaLook, hst, hheld, hdue]
    exact if_pos (by decide)
  rw [hx]
  exact diaEnter_asleep (s := diaAsked s) hw
theorem diapauseEnter_writes (h : canWrite s req 0x4900 1 [2#8] se) (hs : stewardUp s = true) (hd : s.fin.diaWait = false) :
    writes (.diapauseEnter req) s req 0x4900 1 [2#8] se (fun w t => (∀ r, diaReason s = some r → t = powerRefused w r)
      ∧ (diaReason s = none → stepsInFlight s = true → t.fin.diaWait = true ∧ t.fin.pwr = s.fin.pwr ∧ t.stw.admissionStopped = true)
      ∧ (diaReason s = none → stepsInFlight s = false → s.fin.wakeWait = none → Asleep s t)) := by
  refine writes_if (st := stState) (p := True) h rfl (by decide) (fun _ => if_neg ?_) (fun hn => absurd trivial hn) (fun _ => ?_)
    (fun t hn => absurd trivial hn)
  · have hf := (asked_frame h).1
    unfold onlyAgent at hf
    have hup : stewardUp (asked s req 0x11 (writeBody 0x4900 1 [2#8] ++ req.sig)) = true := by
      rw [hf]
      exact hs
    simpa using hup
  · have hf := granted_agent h
    unfold onlyAgent at hf
    change (∀ r, diaReason s = some r → diaWritten (granted s req 0x4900 1 [2#8] se) = _) ∧ _
    generalize granted s req 0x4900 1 [2#8] se = w at hf
    have hfin : w.fin = s.fin := by rw [hf]
    have hreason : diaReason w = diaReason s := by rw [hf]; rfl
    have hsteps : stepsInFlight w = stepsInFlight s := by rw [hf]; rfl
    have hdw : w.fin.diaWait = false := by rw [hfin, hd]
    refine ⟨fun r hr => ?_, fun hr hst => ?_, fun hr hst hwake => ?_⟩
    · rw [diaWritten, hdw, hreason, hr]
      rfl
    · rw [← hfin]
      exact diaWritten_waits hdw (hreason.trans hr) (hsteps.trans hst)
    · obtain ⟨h1, h2, h3, h4⟩ := diaWritten_asleep hdw (hreason.trans hr) (hsteps.trans hst) (by rw [hfin, hwake])
      refine ⟨h1, h2, h3, fun hl k r hr => h4 (fun d hd => ?_) k r ?_⟩
      · rw [hf]
        exact hl d hd
      · rw [hf]
        exact hr
theorem wake_awake (hp : s.fin.pwr = 2) (hd : s.fin.diaWait = false) (hh : s.fin.held = none) (ho : s.fin.heldOff = false)
    (hw : ∀ n, (wlOf s n).withheld = []) (hr : noRestartDue s) (src : Byte) : Awake s src (wake s src) := by
  have hx : wake s src = wakeNow s src := by
    rw [wake, hd, if_neg (by decide)]
    exact if_neg (by simp [hp, hh, ho])
  rw [hx]
  exact wakeNow_awake hw hr src
theorem Awake.of_reqs {src : Byte} (h : Awake t src u) (hr : t.reqs = s.reqs) : Awake s src u :=
  ⟨h.run, h.admits, h.told, fun k r hk => h.requests k r (by rw [reqOf, hr]; exact hk)⟩
end
end

/-- Settles O52: a pass over the requests pauses or wakes each in place; a class C without a hold is STANDBY. -/
theorem sleepAndWake : Obligations.SleepAndWake := by
  refine ⟨fun req se s h hs hd => ?_, fun s hp hd hh ho hw hr => ?_, fun req se s h hop hsw hp => standbyEnter_writes h hop hsw hp,
    fun s hp he h12 => ⟨fun ho hc => ?_, fun ho => ?_, fun req se h hop => standbyExit_writes h hop hp he h12⟩⟩
  · obtain ⟨t, hx, hg, hb⟩ := diapauseEnter_writes h hs hd
    refine ⟨t, hx, fun hsig => ?_, hb⟩
    obtain ⟨h1, h2, h3⟩ := hg hsig
    exact ⟨h1, h2, fun hr hst hw => (h3 hr hst hw).sleeps.elim fun a b => ⟨a, b, (h3 hr hst hw).retains, (h3 hr hst hw).told, (h3 hr hst hw).requests⟩⟩
  · intro awake
    have hawake : ∀ {src : Byte} {t : State}, Awake s src t → awake src t := fun h => ⟨h.run, h.admits, h.told, h.requests⟩
    refine ⟨fun req se h => ?_, fun n req hio h7 => ⟨fun hb => ?_, fun hb => ?_⟩⟩
    · refine writes_if (st := stState) (p := True) h rfl (by decide) (fun _ => rfl) (fun hn => absurd trivial hn) (fun _ => ?_)
        (fun t hn => absurd trivial hn)
      have hf := granted_agent h
      unfold onlyAgent at hf
      generalize granted s req 0x4900 1 [0#8] se = w at hf
      have hfin : w.fin = s.fin := by rw [hf]
      refine hawake (Awake.of_reqs (t := w) (wake_awake (by rw [hfin, hp]) (by rw [hfin, hd]) (by rw [hfin, hh]) (by rw [hfin, ho]) ?_ ?_ 1) ?_)
      · rw [hf]
        exact hw
      · rw [hf]
        exact hr
      · rw [hf]
    · have hx : exec (.diapauseWake (some n) req) s = .next (wake (doorbellAt s (linkCc n.val) 0x048 0) 2) :=
        congrArg Host.Outcome.next ((if_neg (by simp [hio, h7])).trans (if_pos hb))
      refine ⟨_, hx, ?_⟩
      have hf := (doorbellAt_frame s (linkCc n.val) 0x048 0).1
      generalize doorbellAt s (linkCc n.val) 0x048 0 = w at hf
      have hfin : w.fin = s.fin := by rw [hf]
      refine hawake (Awake.of_reqs (t := w) (wake_awake (by rw [hfin, hp]) (by rw [hfin, hd]) (by rw [hfin, hh]) (by rw [hfin, ho]) ?_ ?_ 2) ?_)
      · rw [hf]
        exact hw
      · rw [hf]
        exact hr
      · rw [hf]
    · have hno : bitOf (obj (doorbellAt s (linkCc n.val) 0x048 0) 0x4900 4) n.val = false := hb
      have hx : exec (.diapauseWake (some n) req) s = .next (doorbellAt s (linkCc n.val) 0x048 0) :=
        congrArg Host.Outcome.next ((if_neg (by simp [hio, h7])).trans (if_neg (by rw [hno]; decide)))
      exact ⟨_, hx, rfl, rfl⟩
  · exact ⟨_, congrArg Host.Outcome.next (if_neg (by simp [ho, hc])), leaveStandby_begins hp he h12⟩
  · exact congrArg Host.Outcome.next (if_pos (by simp [ho]))

end Sys2Proof.Machine
end

section
/-! PROOF. BATCH, REPLAY and REPLAY_RESUME (R337, R338, R392, R393). -/

namespace Sys2Proof.Machine

section
variable {s : State} {q : BitVec 16} {index : W32} {e : Bytes}

/-! BATCH. -/

/-- The batch that an entry describes. -/
def batchOf (e tk sg bits : Bytes) : InstarBatch :=
  { number := cReq e, last := byteAt e 1 == 1
    targets := ((List.range (leAt e 0x10 4)).filter (fun t => bitOf (byteAt bits (t / 8)) (t % 8))).length
    cq := BitVec.ofNat 16 (cCq e), tokens := tk, segs := sg, loss := bits }
/-- The batch joins those that wait. -/
def batchJoins (s : State) (i : Instar) (e tk sg bits : Bytes) : State :=
  logInput (setInstar s (cPart e) { i with waiting := i.waiting ++ [batchOf e tk sg bits], nextBatch := i.nextBatch + 1 }) (cPart e) 0x0B 0 none none
    (e ++ tk ++ sg ++ bits)
theorem instarOf_setInstar {p : Nat} {i : Instar} (h : instarOf s p = some i) (v : Instar) : instarOf (setInstar s p v) p = some v := by
  rw [instarOf, setInstar, jobOf_updJob_self]
  cases hj : jobOf s p with
  | none => rw [instarOf, hj] at h; exact absurd h nofun
  | some j => rfl
theorem batchJoins_effect {i : Instar} (hi : instarOf s (cPart e) = some i) (tk sg bits : Bytes) : let t := batchJoins s i e tk sg bits
    HeadsKept s t ∧ memoriesKept s t
      ∧ instarOf t (cPart e) = some { i with waiting := i.waiting ++ [batchOf e tk sg bits], nextBatch := i.nextBatch + 1 } := by
  have hm := onlyMail_logInput (setInstar s (cPart e) { i with waiting := i.waiting ++ [batchOf e tk sg bits], nextBatch := i.nextBatch + 1 })
    (cPart e) 0x0B 0 none none (e ++ tk ++ sg ++ bits)
  have hj := (logInput_frame (setInstar s (cPart e) { i with waiting := i.waiting ++ [batchOf e tk sg bits], nextBatch := i.nextBatch + 1 })
    (cPart e) 0x0B 0 none none (e ++ tk ++ sg ++ bits)).2 (cPart e)
  have hs : instarOf (setInstar s (cPart e) _) (cPart e) = _ := instarOf_setInstar hi
    { i with waiting := i.waiting ++ [batchOf e tk sg bits], nextBatch := i.nextBatch + 1 }
  refine ⟨(headsKept_of_wl rfl : HeadsKept s (setInstar s (cPart e) _)).trans hm.heads,
    memoriesKept_trans (memoriesKept_of_eq rfl rfl : memoriesKept s (setInstar s (cPart e) _)) hm.memories, ?_⟩
  rw [← hs]
  exact congrArg (fun j : Option Job => j.bind (fun j => j.instar)) hj.2

section
variable {tk sg : Bytes} {loss : Option Bytes} {i : Instar} (hi : instarOf s (cPart e) = some i)
  (htk : tk.length = 4 * leAt e 0x10 4) (hsg : sg.length = 8 * leAt e 0x14 2) (hlb : ∀ b, loss = some b → b.length = ceilDiv (leAt e 0x10 4) 8)
include hi htk hsg hlb

/-- The loss bits of a batch: the entry's, or R338's default. -/
theorem exec_batch {bits : Bytes} (hb : bits = if leAt e 0x20 8 ≠ 0 then loss.getD [] else defaultLoss (leAt e 0x10 4) (segList sg))
    (hr : hostReady s q index e 0x10 (e ++ tk ++ sg ++ bits).length) (hn : batchRefusal e (some tk) (some sg) loss s = none) :
    exec (.batch q index e (some tk) (some sg) loss) s
      = .next (if 2 ≤ i.waiting.length then s else batchJoins (takeCmd s q.toNat) i e tk sg bits) := by
  obtain ⟨hform, -⟩ := hostReady_form hr
  have hloss : loss.any (fun b => b.length != ceilDiv (leAt e 0x10 4) 8) = false := by
    cases loss with
    | none => rfl
    | some b => simp [hlb b rfl]
  subst hb
  show execBatch q index e (some tk) (some sg) loss s = _
  simp only [execBatch, hform, Option.any_some, htk, hsg, hloss, bne_self_eq_false, Bool.or_self, Bool.not_true, Bool.false_eq_true, if_false, hi, hn,
    Option.isNone_none, Bool.true_and, decide_eq_true_eq]
  split
  · rfl
  · exact congrArg _ (hostCmd_taken hr hn _)
end

/-! REPLAY. -/

theorem newRequest_desc (s : State) (q : Nat) {d : Bytes} (h : d.length = 128) : (newRequest s q d).desc = d := by
  simp [newRequest, sliceB, h]
theorem admitRequest_fields (s : State) (q : Nat) (b : Bytes) : let r := admitRequest s q b
    r.st = .queued ∧ r.desc = admDesc b ∧ r.prompt = admPrompt b ∧ r.mask = admMask b ∧ r.fetching = 0 ∧ r.specD = admDraft b :=
  ⟨rfl, newRequest_desc s q (sliceB_length ..), rfl, rfl, rfl, rfl⟩
theorem addRequest_recorded (s : State) (h : Nat) (r : Request) : HeadsKept s (addRequest s h r) ∧ memoriesKept s (addRequest s h r)
    ∧ reqOf (addRequest s h r) h = some r :=
  ⟨headsKept_of_wl rfl, memoriesKept_of_eq rfl rfl, (reqOf_setReq ..).trans (if_pos rfl)⟩
theorem freeSlot_takeCmd (s : State) (q : Nat) : freeSlot (takeCmd s q) = freeSlot s := by
  rw [takeCmd_frame]
  rfl
theorem replay_enters {b : Bytes} (hr : hostReady s q index e 0x20 0) (hres : lgResume b = false) (ht : lgType b = 2)
    (hn : replayRefusal q.toNat e (some b) s = none) :
    answers (.replay q index e (some b)) s (fun t => headMoved s t q ∧ memoriesKept s t ∧ ∃ r, reqOf t (freeSlot s) = some r
      ∧ r.st = .queued ∧ r.desc = admDesc b ∧ r.prompt = admPrompt b ∧ r.mask = admMask b ∧ r.fetching = 0 ∧ r.specD = admDraft b) := by
  obtain ⟨hform, -⟩ := hostReady_form hr
  have hx : exec (.replay q index e (some b)) s = .next (answerCmd (addRequest (takeCmd s q.toNat) (freeSlot (takeCmd s q.toNat))
      (admitRequest (takeCmd s q.toNat) q.toNat b)) q.toNat e 1) := by
    show execReplay q index e (some b) s = _
    simp only [execReplay, hform, Option.any_some, hres, Bool.not_true, Bool.or_self, Bool.false_eq_true, if_false]
    rw [hostCmd_taken hr hn]
    simp only [Option.getD_some, ht, if_true]
  obtain ⟨hheads, hmem, hreq⟩ := addRequest_recorded (takeCmd s q.toNat) (freeSlot s) (admitRequest (takeCmd s q.toNat) q.toNat b)
  rw [freeSlot_takeCmd] at hx
  obtain ⟨hposted, hmem'⟩ := answerCmd_posted (addRequest (takeCmd s q.toNat) (freeSlot s) (admitRequest (takeCmd s q.toNat) q.toNat b)) q.toNat e 1
  exact ⟨_, hx, hostReady_headMoved hr (hheads.trans hposted.heads), memoriesKept_trans (takeCmd_memories ..) (memoriesKept_trans hmem hmem'),
    _, hposted.live _ _ hreq rfl, admitRequest_fields ..⟩

/-! REPLAY_RESUME. -/

/-- A request but for its counts. -/
def uncounted (r : Request) : Request := { r with counts := [], untracked := false }
theorem countToken_uncounted (s : State) (h id k : Nat) : (reqOf (countToken s h id) k).map uncounted = (reqOf s k).map uncounted := by
  have hset : ∀ (r v : Request), reqOf s h = some r → uncounted v = uncounted r →
      (reqOf (setReq s h v) k).map uncounted = (reqOf s k).map uncounted := fun r v hr hv => by
    rw [reqOf_setReq]
    split
    · next hk => rw [hk, hr, Option.map_some, Option.map_some, hv]
    · rfl
  unfold countToken
  split
  · rfl
  · next r hr =>
    split
    · exact hset r _ hr rfl
    · dsimp only
      split
      · exact hset r _ hr rfl
      · exact hset r _ hr rfl
/-- Counting tokens leaves requests, memories and queues as they were, but for the counts. -/
def Counted (s t : State) : Prop := InputRecorded s t ∧ ∀ k, (reqOf t k).map uncounted = (reqOf s k).map uncounted
theorem counted_refl (s : State) : Counted s s := ⟨inputRecorded_refl s, fun _ => rfl⟩
theorem Counted.trans {t u : State} (h : Counted s t) (g : Counted t u) : Counted s u := ⟨h.1.trans g.1, fun k => (g.2 k).trans (h.2 k)⟩
theorem countTokens_counted {α : Type} (h : Nat) (f : α → Nat) (l : List α) (s : State) :
    Counted s (l.foldl (fun s t => countToken s h (f t)) s) :=
  foldl_rel counted_refl Counted.trans (fun t a => ⟨countToken_recorded t h (f a), countToken_uncounted t h (f a)⟩) l s

/-- The request that a resumed replay makes of r. -/
def resumedReq (r : Request) (ts : List Bytes) (chain : Bytes) : Request :=
  { r with
    st := .resuming, chain := chain, tokens := ts.map (fun t => BitVec.ofNat 18 (leAt t 8 4))
    folded := (ts.map (fun t => BitVec.ofNat 18 (leAt t 8 4))).length, resumes := 1
    lastStep := BitVec.ofNat 64 (leAt (ts.getLast?.getD []) 0x14 4) }
theorem resumeRequest_stands {ts : List Bytes} (hst : bitsOf (leAt (ts.getLast?.getD []) 8 4) 20 18 = 0) (s : State) (h : Nat) (r : Request)
    (chain : Bytes) : let t := resumeRequest s h r ts chain
    HeadsKept s t ∧ memoriesKept s t ∧ ∃ x, reqOf t h = some x ∧ uncounted x = uncounted (resumedReq r ts chain) := by
  obtain ⟨hheads, hmem, hreq⟩ := addRequest_recorded s h (resumedReq r ts chain)
  have hc : Counted (addRequest s h (resumedReq r ts chain)) (resumeRequest s h r ts chain) := by
    unfold resumeRequest
    extract_lets ids s1 s2 s3 stop
    have h2 : Counted s1 s2 := by
      simp only [s2]
      split
      · exact countTokens_counted h BitVec.toNat r.prompt s1
      · exact counted_refl s1
    have h3 : Counted s2 s3 := countTokens_counted h BitVec.toNat _ s2
    rw [if_pos (show stop = 0 from hst)]
    exact h2.trans h3
  have hx := hc.2 h
  rw [hreq, Option.map_some, Option.map_eq_some_iff] at hx
  obtain ⟨x, hx, hu⟩ := hx
  exact ⟨hheads.trans hc.1.heads, memoriesKept_trans hmem hc.1.memories, x, hx, hu⟩
/-- An event raised before a command leaves it as due as it was. -/
theorem hostReady_ofEvents {u : State} {opc n : Nat} {r : Option Bytes} (h : u = { s with events := u.events }) (hr : hostReady s q index e opc n)
    (hn : replayRefusal q.toNat e r s = none) : hostReady u q index e opc n ∧ replayRefusal q.toNat e r u = none := by
  rw [h]
  exact ⟨hr, hn⟩
section
variable {b : Bytes} {ts : List Bytes} (hr : hostReady s q index e 0x20 (lgLen b)) (hres : lgResume b = true) (hts : ∀ t ∈ ts, t.length = 32)
  (hn : replayRefusal q.toNat e (some b) s = none)
include hr hres hts hn

theorem replayResume_formed : (!entryForm e 0x20 || (some b).any (fun b => !lgResume b) || ts.any (fun t => t.length != 32)) = false := by
  obtain ⟨hform, -⟩ := hostReady_form hr
  have hlen : ts.any (fun t => t.length != 32) = false := List.any_eq_false.2 fun t ht => by simp [hts t ht]
  simp [hform, hres, hlen]
theorem replayResume_enters {chain : Bytes} (hf : refold ts 0 (startChain s (admitRequest s q.toNat b)) = .inl chain)
    (hst : bitsOf (leAt (ts.getLast?.getD []) 8 4) 20 18 = 0) :
    answers (.replayResume q index e (some b) ts) s (fun t => headMoved s t q ∧ memoriesKept s t ∧ ∃ x, reqOf t (freeSlot s) = some x
      ∧ x.st = .resuming ∧ x.chain = chain ∧ x.tokens = ts.map (fun t => BitVec.ofNat 18 (leAt t 8 4)) ∧ x.resumes = 1) := by
  have hchain : startChain (takeCmd s q.toNat) (admitRequest s q.toNat b) = startChain s (admitRequest s q.toNat b) := by
    rw [takeCmd_frame]
    rfl
  let u := logInput (takeCmd s q.toNat) (cPart e) 0x02 1 (some (rReq (admitRequest s q.toNat b))) (some ts.length) (lgPayload b)
  have hx : exec (.replayResume q index e (some b) ts) s
      = .next (answerCmd (resumeRequest u (freeSlot u) (admitRequest s q.toNat b) ts chain) q.toNat e 1) := by
    show execReplayResume q index e (some b) ts s = _
    simp only [execReplayResume, replayResume_formed hr hres hts hn, Bool.false_eq_true, if_false, hn, Option.getD_some, hf]
    rw [hostCmd_taken hr (by simp [hn])]
    rw [hchain, hf]
  have hu : OnlyMail (takeCmd s q.toNat) u := onlyMail_logInput ..
  have hslot : freeSlot u = freeSlot s := by
    rw [← freeSlot_takeCmd s q.toNat, hu.frame]
    rfl
  rw [hslot] at hx
  obtain ⟨hheads, hmem, x, hxr, hxu⟩ := resumeRequest_stands hst u (freeSlot s) (admitRequest s q.toNat b) chain
  obtain ⟨hposted, hmem'⟩ := answerCmd_posted (resumeRequest u (freeSlot s) (admitRequest s q.toNat b) ts chain) q.toNat e 1
  have hxst : x.st = .resuming := (congrArg Request.st hxu :)
  exact ⟨_, hx, hostReady_headMoved hr ((hu.heads.trans hheads).trans hposted.heads),
    memoriesKept_trans (takeCmd_memories ..) (memoriesKept_trans hu.memories (memoriesKept_trans hmem hmem')), x,
    hposted.live _ _ hxr (by rw [reqFinal, hxst]; rfl), hxst, (congrArg Request.chain hxu :), (congrArg Request.tokens hxu :),
    (congrArg Request.resumes hxu :)⟩
theorem replayResume_refused {i : Nat} (hf : refold ts 0 (startChain s (admitRequest s q.toNat b)) = .inr i) :
    ∃ s', exec (.replayResume q index e (some b) ts) s = .next (refuseCmd s' q.toNat index.toNat e 0x10)
      ∧ s' = { s with events := s'.events } ∧ ∃ x, s'.events = s.events ++ [x] ∧ x.code = 0x6071#16 := by
  refine ⟨stwEvent s 0x6071 2 (some (cPart e)) (some (rReq (admitRequest s q.toNat b))) (leBytes 4 i), ?_, rfl, _, rfl, rfl⟩
  have hdue : cmdDue s q index = true := hr.2.2.1
  obtain ⟨hr', hn'⟩ := hostReady_ofEvents (u := stwEvent s 0x6071 2 (some (cPart e)) (some (rReq (admitRequest s q.toNat b))) (leBytes 4 i)) rfl hr hn
  show execReplayResume q index e (some b) ts s = _
  simp only [execReplayResume, replayResume_formed hr hres hts hn, Bool.false_eq_true, if_false, hn, Option.getD_some, hf, hdue, if_true]
  rw [hostCmd_refused hr' (code := 0x10)]
  rw [hn']
  exact if_pos rfl
end
end

/-- Settles O37: what is queued, resumed or refused is the entry's own, and its queue alone moves. -/
theorem batchesAndReplaysEnter : Obligations.BatchesAndReplaysEnter := by
  refine ⟨fun q index e tk sg loss s i => ?_, fun q index e b s hr hres ht hn => replay_enters hr hres ht hn,
    fun q index e b ts s => ?_⟩
  · intro n p bits hi htk hsg hlb hr hn
    have hx := exec_batch hi htk hsg hlb (bits := bits) rfl hr hn
    refine ⟨fun h2 => hx.trans (congrArg _ (if_pos h2)), fun h2 => ⟨_, hx.trans (congrArg _ (if_neg (Nat.not_le.2 h2))), ?_⟩⟩
    have hi' : instarOf (takeCmd s q.toNat) (cPart e) = some i := by
      rw [takeCmd_frame]
      exact hi
    obtain ⟨hheads, hmem, hins⟩ := batchJoins_effect hi' tk sg bits
    exact ⟨hostReady_headMoved hr hheads, memoriesKept_trans (takeCmd_memories ..) hmem, _, hins, rfl, rfl, rfl, rfl, rfl⟩
  · intro r hr hres hts hn
    exact ⟨fun chain hf hst => replayResume_enters hr hres hts hn hf hst, fun i hf => replayResume_refused hr hres hts hn hf⟩

end Sys2Proof.Machine
end

section
/-! PROOF. Instar batches, checkpoints and exports (R338 to R342, R344, R346, R383). -/

namespace Sys2Proof.Machine

section
variable {s t : State} {p : Nat} {j : Job} {i : Instar}

/-! What the steps of an Instar job leave. -/

theorem instarOf_some (hi : instarOf s p = some i) : ∃ j, jobOf s p = some j ∧ j.instar = some i := by
  rw [instarOf, Option.bind_eq_some_iff] at hi
  exact hi
theorem instarOf_of (hj : jobOf s p = some j) (hi : j.instar = some i) : instarOf s p = some i := by rw [instarOf, hj]; exact hi
theorem jobOf_setInstar (hj : jobOf s p = some j) (v : Instar) : jobOf (setInstar s p v) p = some { j with instar := some v } := by
  rw [setInstar, jobOf_updJob_self, hj]
  rfl
theorem jobOf_foldJob (hj : jobOf s p = some j) (type : Nat) (b : Bytes) :
    jobOf (foldJob s p type b) p = some { j with chain := foldChain j.chain type b } := by
  rw [foldJob, jobOf_updJob_self, hj]
  rfl
theorem memoriesKept_updPart (s : State) (p : Nat) (f : PartState → PartState) : memoriesKept s (updPart s p f) := memoriesKept_of_eq rfl rfl
theorem postRec_jobOf (s : State) (q : Nat) (slot : Option Nat) (b : Bytes) (p : Nat) : jobOf (postRec s q slot b) p = jobOf s p := by
  rw [jobOf, partOf, (postRec_posted s q slot b).parts]
  rfl

/-! INSTAR_BATCH_DONE. -/

/-- The optimiser's step, where the batch is the last of its step; what of it is skipped is said beside it. -/
def batchUpdate (b : InstarBatch) (i : Instar) : Instar × Bool := if b.last then lastUpdate i else (i, false)
/-- The Plate of the job after a batch. -/
def batchChain (c : Bytes) (b : InstarBatch) (losses : List F32) (i : Instar) : Bytes :=
  let c := foldChain c 0x20 (leBytes 4 b.number ++ leBytes 4 (sum32 losses).toNat ++ sha256 (b.tokens ++ b.segs ++ b.loss))
  if b.last then foldChain c 0x21 (leBytes 4 (i.step + 1) ++ leBytes 1 (if (batchUpdate b i).2 then 1 else 0)) else c
/-- The job after a batch. -/
def batchFolded (s : State) (p : Nat) (b : InstarBatch) (losses : List F32) (i : Instar) : State :=
  let s := setInstar s p (batchUpdate b i).1
  let s := if (batchUpdate b i).2 then stwEvent s 0x6063 1 (some p) none [] else s
  let s := foldJob s p 0x20 (leBytes 4 b.number ++ leBytes 4 (sum32 losses).toNat ++ sha256 (b.tokens ++ b.segs ++ b.loss))
  if b.last then foldJob s p 0x21 (leBytes 4 (i.step + 1) ++ leBytes 1 (if (batchUpdate b i).2 then 1 else 0)) else s
theorem batchFolded_folds (hj : jobOf s p = some j) (b : InstarBatch) (losses : List F32) (i : Instar) : memoriesKept s (batchFolded s p b losses i)
    ∧ jobOf (batchFolded s p b losses i) p = some { j with instar := some (batchUpdate b i).1, chain := batchChain j.chain b losses i } := by
  unfold batchFolded
  extract_lets s1 s2 s3
  have h1 : jobOf s1 p = some { j with instar := some (batchUpdate b i).1 } := jobOf_setInstar hj _
  have h2 : jobOf s2 p = some { j with instar := some (batchUpdate b i).1 } ∧ memoriesKept s1 s2 := by
    simp only [s2]
    split
    · exact ⟨h1, memoriesKept_of_eq rfl rfl⟩
    · exact ⟨h1, memoriesKept_refl s1⟩
  have h3 := jobOf_foldJob h2.1 0x20 (leBytes 4 b.number ++ leBytes 4 (sum32 losses).toNat ++ sha256 (b.tokens ++ b.segs ++ b.loss))
  have hm : memoriesKept s s3 := memoriesKept_trans (t := s1) (memoriesKept_updPart ..) (memoriesKept_trans h2.2 (memoriesKept_updPart ..))
  unfold batchChain
  split
  · exact ⟨memoriesKept_trans hm (memoriesKept_updPart ..), jobOf_foldJob h3 ..⟩
  · exact ⟨hm, h3⟩
theorem lastUpdate_exportDue (i : Instar) : (lastUpdate i).1.exportDue = i.exportDue := by
  unfold lastUpdate
  dsimp only
  split <;> rfl
theorem instarBatchDone_done {losses grads : List F32} {p : PartId} {b : InstarBatch} {rest : List InstarBatch} (hj : jobOf s p = some j)
    (hi : j.instar = some i) (hw : i.waiting = b :: rest) (hr : j.running = true) (hre : j.restarting = false) (hc : holdsCompute s = false)
    (hk : ckptDue s i = false) (he : i.exportDue = false) :
    let i' := { i with waiting := rest, targets := i.targets + b.targets, tensors := putGrads grads i.tensors }
    answers (.instarBatchDone p losses grads) s (fun t => memoriesKept s t
      ∧ jobOf t p = some { j with instar := some (batchUpdate b i').1, chain := batchChain j.chain b losses i' }) := by
  intro i'
  have hx : exec (.instarBatchDone p losses grads) s = .next (postRec (batchFolded s p b losses i') b.cq.toNat none
      (batchRec b (sum32 losses) (i.step + 1) (batchUpdate b i').2)) := by
    have hdue : (batchUpdate b i').1.exportDue = false := by
      unfold batchUpdate
      split
      · rw [lastUpdate_exportDue i']
        exact he
      · exact he
    change Host.Outcome.next (match jobOf s p.val, instarOf s p.val with | some j, some i => _ | _, _ => s) = _
    rw [instarOf_of hj hi, hj]
    refine congrArg _ ?_
    dsimp only
    rw [hw]
    refine (if_neg (by simp [hr, hre, hc, hk, he])).trans ?_
    exact if_neg (by rw [show (if b.last then lastUpdate i' else (i', false)) = batchUpdate b i' from rfl, hdue]; simp)
  obtain ⟨hm, hjob⟩ := batchFolded_folds hj b losses i'
  exact ⟨_, hx, memoriesKept_trans hm (postRec_memories ..), (postRec_jobOf ..).trans hjob⟩

/-! CHECKPOINT. -/

theorem instarEnd_settle (s : State) (p : Nat) (i : Instar) (done : Bool) (event : Nat) : requestsSettle s (instarEnd s p i done event) := by
  unfold instarEnd
  exact requestsSettle_trans (requestsSettle_of_eq rfl rfl : requestsSettle s (stwEvent s 0x6062 0 (some p) none [])) (postRec_settle ..)
/-- The end of a job leaves every scratchpad as it was. -/
theorem endJob_spads (s : State) (p reason event : Nat) : spadsKept s (endJob s p reason event) := by
  suffices h : requestsSettle s (endJob s p reason event) from h.1
  unfold endJob
  split
  · exact requestsSettle_refl s
  · next j hj =>
    extract_lets s1 s2 b s3 s4 s5 s6 s7
    have h1 : requestsSettle s s1 := (endRequests_failed reason event (partReqs s p) s).1
    have h3 : requestsSettle s2 s3 := by
      simp only [s3]
      split
      · exact requestsSettle_trans (requestsSettle_of_eq rfl rfl : requestsSettle s2 (foldJob s2 p 0x15 _)) (instarEnd_settle ..)
      · exact requestsSettle_of_eq rfl rfl
    have h5 : requestsSettle s4 s5 := by
      simp only [s5]
      split
      · exact adjustTheta_settle ..
      · exact requestsSettle_refl s4
    have h6 : requestsSettle s5 s6 := by
      simp only [s6]
      split
      · exact requestsSettle_of_eq rfl rfl
      · exact requestsSettle_refl s5
    have h7 : requestsSettle s6 s7 := endHops_settle ..
    have h4 : requestsSettle s3 s4 := (logInput_frame ..).settle
    have h2 : requestsSettle s1 s2 := haltPart_settle ..
    exact requestsSettle_trans h1 (requestsSettle_trans h2 (requestsSettle_trans h3 (requestsSettle_trans h4 (requestsSettle_trans h5
      (requestsSettle_trans h6 (requestsSettle_trans h7 (requestsSettle_of_eq rfl rfl)))))))
/-- Counters of cores, host writes and the Instar state are all that INSTAR_EXPORT comes to. -/
structure Exported (s t : State) : Prop where
  memories : memoriesKept s t
  job : ∀ p, (jobOf s p).isSome = (jobOf t p).isSome
theorem exported_refl (s : State) : Exported s s := ⟨memoriesKept_refl s, fun _ => rfl⟩
theorem Exported.trans {u : State} (h : Exported s t) (g : Exported t u) : Exported s u :=
  ⟨memoriesKept_trans h.memories g.memories, fun p => (h.job p).trans (g.job p)⟩
theorem exported_of_parts (hm : memoriesKept s t) (hp : t.parts = s.parts) : Exported s t := ⟨hm, fun p => by rw [jobOf, jobOf, partOf, partOf, hp]⟩
theorem setInstar_exported (s : State) (p : Nat) (v : Instar) : Exported s (setInstar s p v) := by
  refine ⟨memoriesKept_updPart .., fun q => ?_⟩
  by_cases hq : q = p
  · rw [hq, setInstar, jobOf_updJob_self, Option.isSome_map]
  · rw [setInstar, jobOf_updJob_ne _ _ _ hq]
theorem bumpC_exported (s : State) (c off hi lo n : Nat) : Exported s (bumpC s c off hi lo n) :=
  exported_of_parts (memoriesKept_bumpC ..) (onlyUnits_bumpC ..).parts_eq
theorem countExport_exported (s : State) (p : Nat) (f : LayoutFile) (ts : List Trained) (x : InstarSection) : Exported s (countExport s p f ts x) := by
  unfold countExport
  refine foldl_rel exported_refl Exported.trans (fun t e => ?_) _ s
  split
  · exact exported_refl t
  · refine foldl_rel exported_refl Exported.trans (fun u z => ?_) _ t
    exact (bumpC_exported ..).trans (bumpC_exported ..)
theorem hostWrite_exported (s : State) (n addr : Nat) (b : Bytes) : Exported s (hostWrite s n addr b) := by
  have hf := (hostWrite_frame s n addr b).1
  exact exported_of_parts (memoriesKept_of_eq (congrArg State.cores hf :) (congrArg State.clusters hf :)) (congrArg State.parts hf :)
theorem stwEvent_exported (s : State) (code sev : Nat) (p req : Option Nat) (d : Bytes) : Exported s (stwEvent s code sev p req d) :=
  exported_of_parts (memoriesKept_of_eq rfl rfl) rfl
theorem exportNow_exported (s : State) (p : Nat) : Exported s (exportNow s p) := by
  unfold exportNow
  split
  · next j i _ _ =>
    split
    · exact exported_refl s
    · next x _ =>
      extract_lets base img s1 s2 s3 s4
      have h1 : Exported s s1 := setInstar_exported ..
      split
      · exact h1
      · have h2 : Exported s1 s2 := hostWrite_exported ..
        have h3 : Exported s2 s3 := by
          simp only [s3]
          split
          · exact countExport_exported ..
          · exact exported_refl s2
        have h4 : Exported s3 s4 := setInstar_exported ..
        exact h1.trans (h2.trans (h3.trans (h4.trans (stwEvent_exported ..))))
  · exact exported_refl s
/-- The checkpoint has gone to its slot, counted and dated. -/
def checkpointed (s : State) (p : Nat) (j : Job) (i : Instar) (img : Bytes) : State :=
  let s := hostWrite s j.port.val (leAt i.desc 0x48 8 + i.ckpts % 2 * leAt i.desc 0x78 8) img
  let s := setInstar s p { i with ckpts := i.ckpts + 1, lastCkpt := some i.step,
                                  ckptBatch := match i.waiting with | b :: _ => b.number | [] => i.nextBatch, saved := i.tensors }
  stwEvent s 0x6061 0 (some p) none (zeros 4 ++ leBytes 4 i.step)
theorem checkpointed_counts (hj : jobOf s p = some j) (img : Bytes) : Exported s (checkpointed s p j i img)
    ∧ ∃ n, instarOf (checkpointed s p j i img) p = some { i with ckpts := i.ckpts + 1, lastCkpt := some i.step, ckptBatch := n, saved := i.tensors } := by
  unfold checkpointed
  extract_lets s1 s2
  have h1 : Exported s s1 := hostWrite_exported ..
  have hj1 : jobOf s1 p = some j := by
    rw [jobOf, partOf, (congrArg State.parts (hostWrite_frame s j.port.val _ img).1 :)]
    exact hj
  exact ⟨h1.trans ((setInstar_exported ..).trans (stwEvent_exported ..)), _, instarOf_of (jobOf_setInstar hj1 _) rfl⟩
theorem exec_checkpoint {p : PartId} (hj : jobOf s p = some j) (hi : j.instar = some i) (hdue : ckptDue s i = true) (hup : portUp s j.port = true) :
    let params := match j.file.bind (fun f => f.body.instar) with | some x => sectionParams x | none => 0
    let img := ckptImage (idVariant i.desc) i.step params (idDigest i.desc) i.tensors
    img.length ≤ leAt i.desc 0x78 8 → exec (.checkpoint p) s = .next (if i.step = idSteps i.desc
      then endJob (exportNow (checkpointed s p j i img) p) p 1 0 else checkpointed s p j i img) := by
  intro params img hlen
  change Host.Outcome.next (match jobOf s p.val, instarOf s p.val with | some j, some i => _ | _, _ => s) = _
  rw [instarOf_of hj hi, hj]
  exact congrArg _ ((if_neg (by rw [hdue, hup]; decide)).trans (if_neg (Nat.not_lt.2 hlen)))

/-! INSTAR_EXPORT. -/

/-- INSTAR_EXPORT as it is asked for: at once, or after the optimiser step in flight. -/
def exportAsked (s : State) (p : Nat) : State :=
  match instarOf s p with
  | some i => if i.targets = 0 then exportNow s p else setInstar s p { i with exportDue := true }
  | none => s
theorem exportAsked_some (hi : instarOf s p = some i) :
    exportAsked s p = if i.targets = 0 then exportNow s p else setInstar s p { i with exportDue := true } := by
  unfold exportAsked
  rw [hi]
theorem instarExport_writes {req : DapReq} {se : Session} {p : PartId} (h : canWrite s req 0x5120 1 (leBytes 1 p) se)
    (hi : instarOf s p = some i) (hup : stewardUp s = true) :
    writes (.instarExport req (BitVec.ofNat 8 p)) s req 0x5120 1 (leBytes 1 p) se (fun w t =>
      (i.targets = 0 → t = exportNow w p) ∧ (i.targets ≠ 0 → instarOf t p = some { i with exportDue := true } ∧ memoriesKept s t)) := by
  have hv : (BitVec.ofNat 8 p.val).toNat = p.val := by
    rw [BitVec.toNat_ofNat]
    omega
  have hx : exec (.instarExport req (BitVec.ofNat 8 p)) s = .next (dapWrite s req 0x5120 1 (leBytes 1 p)
      (fun _ s => if 15 < p.val then stRange else if (instarOf s p).isNone || !stewardUp s then stState else stOk)
      (fun _ s => exportAsked s p)) := by
    show execInstarExport req (BitVec.ofNat 8 p) s = _
    unfold execInstarExport
    rw [hv]
    rfl
  refine writes_if (st := stState) (p := True) h hx (by decide) (fun _ => (if_neg (by omega)).trans ?_) (fun hn => absurd trivial hn) (fun _ => ?_)
    (fun t hn => absurd trivial hn)
  · have hf := (asked_frame h).1
    unfold onlyAgent at hf
    have hia : instarOf (asked s req 0x11 (writeBody 0x5120 1 (leBytes 1 p) ++ req.sig)) p = some i := by
      rw [hf]
      exact hi
    have hua : stewardUp (asked s req 0x11 (writeBody 0x5120 1 (leBytes 1 p) ++ req.sig)) = true := by
      rw [hf]
      exact hup
    rw [hia, hua]
    rfl
  · have hf := granted_agent h
    unfold onlyAgent at hf
    generalize granted s req 0x5120 1 (leBytes 1 p) se = w at hf
    have hiw : instarOf w p = some i := by
      rw [hf]
      exact hi
    rw [exportAsked_some hiw]
    refine ⟨fun h0 => if_pos h0, fun h0 => ?_⟩
    rw [if_neg h0]
    obtain ⟨j, hj, -⟩ := instarOf_some hiw
    exact ⟨instarOf_of (jobOf_setInstar hj _) rfl, memoriesKept_trans (memoriesKept_of_eq (congrArg State.cores hf :) (congrArg State.clusters hf :))
      (memoriesKept_updPart ..)⟩
end

/-- Settles O42: INSTAR_BATCH_DONE, CHECKPOINT and INSTAR_EXPORT each change the job's Instar state and its Plate alone, up to the job's end. -/
theorem instarSteps : Obligations.InstarSteps := by
  refine ⟨fun p losses grads s j i b rest hj hi hw hr hre hc hk he => ?_, fun p s j i hj hi hdue hup => ?_,
    fun req p se s i h hi hup => instarExport_writes h hi hup⟩
  · intro i' chain
    obtain ⟨t, hx, hm, hjob⟩ := instarBatchDone_done (losses := losses) (grads := grads) hj hi hw hr hre hc hk he
    refine ⟨t, hx, hm, _, hjob, fun hl => ?_, fun hl => ?_⟩
    · simp only [batchUpdate, batchChain, hl, Bool.false_eq_true, if_false]
      exact ⟨rfl, rfl⟩
    · simp only [batchUpdate, batchChain, hl, if_true]
      exact ⟨rfl, rfl⟩
  · intro params hlen
    have hx := exec_checkpoint hj hi hdue hup hlen
    obtain ⟨he, hn⟩ := checkpointed_counts (i := i) hj (ckptImage (idVariant i.desc) i.step params (idDigest i.desc) i.tensors)
    refine ⟨fun hs => ⟨_, hx.trans (congrArg _ (if_neg hs)), he.memories, hn⟩, fun hs => ⟨_, hx.trans (congrArg _ (if_pos hs)), ?_⟩⟩
    have hall := he.trans (exportNow_exported _ p)
    have hsome := hall.job p
    rw [hj, Option.isSome_some] at hsome
    obtain ⟨j', hj'⟩ := Option.isSome_iff_exists.1 hsome.symm
    obtain ⟨hnone, hclear, -⟩ := endJob_cleared hj' 1 0
    exact ⟨hnone, hclear, spadsKept_trans hall.memories.1 (endJob_spads _ _ _ _)⟩

end Sys2Proof.Machine
end

section
/-! PROOF. Step replays, watchdog trips and whole-job restarts (R351, R359 to R361, R365, R367). -/

namespace Sys2Proof.Machine

section
variable {s t u : State} {p r c : Nat} {j : Job} {x : StreamImage}

/-! Sequencers that halt, and packets that are dropped. -/

/-- Nothing but cores, control cores and the mesh differs. -/
def onlyHalted (s t : State) : Prop := t = { s with cores := t.cores, ccs := t.ccs, routers := t.routers, acks := t.acks, mesh := t.mesh }
theorem onlyHalted_refl (s : State) : onlyHalted s s := rfl
theorem onlyHalted_trans (h : onlyHalted s t) (g : onlyHalted t u) : onlyHalted s u := by
  unfold onlyHalted at *
  rw [g, h]
theorem onlyHalted_foldl {α : Type} {f : State → α → State} (h : ∀ s a, onlyHalted s (f s a)) (l : List α) (s : State) :
    onlyHalted s (l.foldl f s) := foldl_rel onlyHalted_refl onlyHalted_trans h l s
theorem onlyMesh.halted (h : onlyMesh s t) : onlyHalted s t := by
  unfold onlyHalted
  rw [h]
theorem haltSeq_frame (s : State) (c : Nat) : onlyHalted s (haltSeq s c) := by
  unfold haltSeq drainEnd
  extract_lets v w empty
  split
  · split
    · rfl
    · rfl
  · exact onlyHalted_refl s
theorem haltPart_frame (s : State) (p : Nat) : onlyHalted s (haltPart s p) := onlyHalted_foldl haltSeq_frame _ s
theorem dropHops_frame (s : State) (p : Nat) (vc0 : Bool) : onlyHalted s (dropHops s p vc0) := by
  unfold dropHops
  extract_lets s1 s2
  have h1 : onlyHalted s s1 := (onlyMesh_foldl _ (fun t h => (dropHop_frame t h).1) _ s).halted
  have h2 : onlyHalted s1 s2 := rfl
  refine onlyHalted_trans (onlyHalted_trans h1 h2) (onlyHalted_foldl (fun t c => ?_) _ s2)
  split
  · exact onlyHalted_refl t
  · rfl

/-! Cores that rewind. -/

/-- The core runs from the step's first command, with its queues empty. -/
def Restarted (x : StreamImage) (v : CoreState) : Prop :=
  v.run = true ∧ v.cmdIndex = BitVec.ofNat 32 x.first.toNat ∧ v.meq = [] ∧ v.veq = [] ∧ v.seqe = [] ∧ v.teq = []
/-- Nothing but cores and clusters differs. -/
def onlyRewound (s t : State) : Prop := t = { s with cores := t.cores, clusters := t.clusters }
theorem onlyRewound_refl (s : State) : onlyRewound s s := rfl
theorem onlyRewound_trans (h : onlyRewound s t) (g : onlyRewound t u) : onlyRewound s u := by
  unfold onlyRewound at *
  rw [g, h]
theorem clearErr_onlyCore (s : State) (c : Nat) : clearErr s c = s ∨ clearErr s c = setCreg s c 0x30 0 := by
  unfold clearErr
  split
  · exact .inl rfl
  · exact .inr rfl
/-- The core as it is before it starts again. -/
def emptiedCore (x : StreamImage) (v : CoreState) : CoreState := { v with
  meq := [], veq := [], seqe := [], teq := [], fifo := [], se := none, me := none, te := [], reduceDone := none
  sem := x.replaySet.foldl (fun m e => putN m e.1.val e.2) [], nfSeen := false, dupTaken := false, shdTaken := false
  dupTile := none, shdTile := none }
theorem rewindCore_restarts (s : State) (c step : Nat) (x : StreamImage) : onlyRewound s (rewindCore s c step x)
    ∧ Restarted x (coreOf (rewindCore s c step x) c) ∧ ∀ d, d ≠ c → coreOf (rewindCore s c step x) d = coreOf s d := by
  have hx : ∃ v, onlyRewound s v ∧ (∀ d, d ≠ c → coreOf v d = coreOf s d)
      ∧ ((coreOf v c).meq = [] ∧ (coreOf v c).veq = [] ∧ (coreOf v c).seqe = [] ∧ (coreOf v c).teq = [])
      ∧ rewindCore s c step x = startSeq v c none x.first.toNat := by
    rcases clearErr_onlyCore (setCreg (updCore s c (emptiedCore x)) c 0x38 step) c with h | h
    · refine ⟨setCreg (setCreg (updCore s c (emptiedCore x)) c 0x38 step) c 0x50 x.first.toNat, rfl, fun d hd => ?_, ?_, ?_⟩
      · simp only [setCreg, coreOf_updCore_ne _ _ _ hd]
      · simp only [setCreg, coreOf_updCore_self, emptiedCore, and_self]
      · change startSeq (setCreg (clearErr (setCreg (updCore s c (emptiedCore x)) c 0x38 step) c) c 0x50 x.first.toNat) c none x.first.toNat = _
        rw [h]
    · refine ⟨setCreg (setCreg (setCreg (updCore s c (emptiedCore x)) c 0x38 step) c 0x30 0) c 0x50 x.first.toNat, rfl, fun d hd => ?_, ?_, ?_⟩
      · simp only [setCreg, coreOf_updCore_ne _ _ _ hd]
      · simp only [setCreg, coreOf_updCore_self, emptiedCore, and_self]
      · change startSeq (setCreg (clearErr (setCreg (updCore s c (emptiedCore x)) c 0x38 step) c) c 0x50 x.first.toNat) c none x.first.toNat = _
        rw [h]
  obtain ⟨v, hf, hne, ⟨h1, h2, h3, h4⟩, he⟩ := hx
  rw [he]
  refine ⟨onlyRewound_trans hf rfl, ?_, fun d hd => ?_⟩
  · rw [startSeq, coreOf_updCore_self]
    exact ⟨rfl, rfl, h1, h2, h3, h4⟩
  · rw [startSeq, coreOf_updCore_ne _ _ _ hd]
    exact hne d hd

/-- The streams of a job's placement. -/
def streamsOf (s : State) (p : Nat) : Option (List StreamImage) := (jobOf s p).bind (fun j => j.file.map (fun f => placeStreams f j.detour))
theorem streamsOf_rewound (h : onlyRewound s t) : streamsOf t p = streamsOf s p ∧ (∀ xy, relCore t p xy = relCore s p xy)
    ∧ ∀ r, regionCores t p r = regionCores s p r := by
  rw [h]
  exact ⟨rfl, fun _ => rfl, fun _ => rfl⟩
/-- A placement of one stream: a region that holds its core rewinds it, and any other leaves it. -/
theorem rewindRegion_restarts (hs : streamsOf s p = some [x]) : onlyRewound s (rewindRegion s p r)
    ∧ (relCore s p (x.rx, x.ry) ∈ regionCores s p r → Restarted x (coreOf (rewindRegion s p r) (relCore s p (x.rx, x.ry))))
    ∧ (relCore s p (x.rx, x.ry) ∉ regionCores s p r →
        coreOf (rewindRegion s p r) (relCore s p (x.rx, x.ry)) = coreOf s (relCore s p (x.rx, x.ry))) := by
  obtain ⟨v, hv, hc, hx⟩ : ∃ v, onlyRewound s v ∧ (∀ d, coreOf v d = coreOf s d)
      ∧ rewindRegion s p r = if (regionCores s p r).contains (relCore v p (x.rx, x.ry))
        then rewindCore v (relCore v p (x.rx, x.ry)) (regionRun s p r).stepNum.toNat x else v := by
    refine ⟨((regionCores s p r).map clusterOf).eraseDups.foldl (fun s k => updCl s k (fun c => { c with absorb1 := [] })) s,
      foldl_rel (f := fun s k => updCl s k (fun c => { c with absorb1 := [] })) onlyRewound_refl onlyRewound_trans (fun _ _ => rfl) _ s,
      fun d => foldl_keeps (fun t => coreOf t d) _ _ s (fun _ _ _ => rfl), ?_⟩
    unfold streamsOf at hs
    unfold rewindRegion
    rw [hs]
    rfl
  obtain ⟨-, hrel, -⟩ := streamsOf_rewound (p := p) hv
  rw [hx, hrel]
  by_cases hm : relCore s p (x.rx, x.ry) ∈ regionCores s p r
  · obtain ⟨hf, hr, -⟩ := rewindCore_restarts v (relCore s p (x.rx, x.ry)) (regionRun s p r).stepNum.toNat x
    rw [if_pos (List.contains_iff_mem.2 hm)]
    exact ⟨onlyRewound_trans hv hf, fun _ => hr, fun hn => absurd hm hn⟩
  · rw [if_neg (fun h => hm (List.contains_iff_mem.1 h))]
    exact ⟨hv, fun h => absurd h hm, fun _ => hc _⟩
theorem rewindRegions_restart : ∀ (l : List Nat) (s : State), streamsOf s p = some [x] →
    ((∃ r ∈ l, relCore s p (x.rx, x.ry) ∈ regionCores s p r) ∨ Restarted x (coreOf s (relCore s p (x.rx, x.ry)))) →
    Restarted x (coreOf (l.foldl (fun s r => rewindRegion s p r) s) (relCore s p (x.rx, x.ry)))
  | [], s, _, h => h.resolve_left fun ⟨_, hr, _⟩ => List.not_mem_nil hr
  | r :: l, s, hs, h => by
    obtain ⟨hf, hin, hout⟩ := rewindRegion_restarts (r := r) hs
    obtain ⟨hs', hrel, hreg⟩ := streamsOf_rewound (p := p) hf
    rw [List.foldl_cons, ← hrel]
    refine rewindRegions_restart l _ (hs'.trans hs) ?_
    rw [hrel]
    by_cases hm : relCore s p (x.rx, x.ry) ∈ regionCores s p r
    · exact .inr (hin hm)
    · rw [hout hm]
      refine h.imp_left fun ⟨k, hk, hc⟩ => ⟨k, (List.mem_cons.1 hk).resolve_left fun e => hm (e ▸ hc), by rw [hreg]; exact hc⟩

/-! STEP_REPLAY. -/

theorem Rewound.regionRun (h : Rewound s t) (p r : Nat) : regionRun t p r = regionRun s p r := by
  have hj := h.jobs p
  unfold Machine.regionRun
  cases hs : jobOf s p with
  | none =>
    rw [hs, Option.map_none, Option.map_eq_none_iff] at hj
    rw [hj]
  | some j =>
    rw [hs, Option.map_some, Option.map_eq_some_iff] at hj
    obtain ⟨i, hi, hu⟩ := hj
    rw [hi]
    exact (congrArg (fun j : Job => getN regionRunZero j.regions r) hu :)
/-- What a replay of a job's steps leaves: every live region's cores run again from the step's first command. -/
theorem replaySteps_restarts (hs : streamsOf s p = some [x]) (hb : (Machine.regionRun s p r).busy = true)
    (hc : relCore s p (x.rx, x.ry) ∈ regionCores s p r) :
    Restarted x (coreOf (replaySteps s p none) (relCore s p (x.rx, x.ry))) := by
  obtain ⟨j, hj, hjs⟩ : ∃ j, jobOf s p = some j ∧ j.file.map (fun f => placeStreams f j.detour) = some [x] := Option.bind_eq_some_iff.1 hs
  have hlive : r ∈ (List.range (jobRegions j).length).filter (fun r => (Machine.regionRun s p r).busy) := by
    refine List.mem_filter.2 ⟨List.mem_range.2 ?_, hb⟩
    by_contra hr
    rw [regionCores, hj] at hc
    simp [List.getD_eq_getElem?_getD, Nat.not_lt.1 hr] at hc
  have hx : ∃ v, onlyHalted (updJob s p (fun j => { j with sweeps := [] })) v
      ∧ replaySteps s p none = stwEvent (((List.range (jobRegions j).length).filter (fun r => (Machine.regionRun s p r).busy)).foldl
        (fun s r => rewindRegion s p r) v) 0x5053 0 (some p) none [] := by
    refine ⟨dropHops (updJob (((List.range (jobRegions j).length).filter (fun r => (Machine.regionRun s p r).busy)).foldl
      (fun s r => (regionCores s p r).foldl haltSeq s) s) p (fun j => { j with sweeps := [] })) p false, ?_, ?_⟩
    · have hh : onlyHalted s (((List.range (jobRegions j).length).filter (fun r => (Machine.regionRun s p r).busy)).foldl
          (fun s r => (regionCores s p r).foldl haltSeq s) s) := onlyHalted_foldl (fun t r => onlyHalted_foldl haltSeq_frame _ t) _ s
      refine onlyHalted_trans ?_ (dropHops_frame ..)
      generalize List.foldl _ s _ = w at hh
      unfold onlyHalted at hh ⊢
      rw [hh]
      rfl
    · unfold replaySteps
      rw [hj]
  obtain ⟨v, hv, hx⟩ := hx
  have hsv : streamsOf v p = some [x] := by
    rw [hv, streamsOf]
    change (jobOf (updJob s p _) p).bind _ = _
    rw [jobOf_updJob_self, hj]
    exact hjs
  have hpv : partDef v p = partDef s p := by
    rw [hv]
    change (partOf (updJob s p _) p).pdef.toNat = _
    rw [updJob, partOf_updPart_self]
    rfl
  have hrel : ∀ xy, relCore v p xy = relCore s p xy := fun xy => by rw [relCore, hpv, relCore]
  have hreg : regionCores v p r = regionCores s p r := by
    rw [regionCores, regionCores, hj, show jobOf v p = some { j with sweeps := [] } from ?_]
    · rw [show relCore v p = relCore s p from funext hrel]
      rfl
    · rw [hv]
      change jobOf (updJob s p _) p = _
      rw [jobOf_updJob_self, hj]
      rfl
  have hr := rewindRegions_restart _ v hsv (.inl ⟨r, hlive, by rw [hrel, hreg]; exact hc⟩)
  rw [hx]
  rw [hrel] at hr
  exact hr
/-- An update of a region's run leaves the placement, its streams and its cores as they were. -/
theorem updRegion_placement (hj : jobOf s p = some j) (q : Nat) (f : RegionRun → RegionRun) : streamsOf (updRegion s p q f) p = streamsOf s p
    ∧ (∀ xy, relCore (updRegion s p q f) p xy = relCore s p xy) ∧ ∀ r, regionCores (updRegion s p q f) p r = regionCores s p r := by
  have hpd : partDef (updRegion s p q f) p = partDef s p := by
    rw [partDef, updRegion, updJob, partOf_updPart_self]
    rfl
  have hrel : ∀ xy, relCore (updRegion s p q f) p xy = relCore s p xy := fun xy => by rw [relCore, hpd, relCore]
  refine ⟨?_, hrel, fun r => ?_⟩
  · rw [streamsOf, jobOf_updRegion hj, streamsOf, hj]
    rfl
  · rw [regionCores, jobOf_updRegion hj, regionCores, hj, show relCore (updRegion s p q f) p = relCore s p from funext hrel]
    rfl
/-- The region whose step a failure report names, as the failure is noted and counted. -/
def stepFailed (s : State) (p : Nat) (f : FaultReport) : State :=
  updRegion (updRegion s p f.region (fun r => { r with lastFault := faultMark f, trapped := (r.trapped ++ f.trapped).eraseDups })) p f.region
    (fun r => { r with replays := r.replays + 1 })
theorem stepReplay_replays {p : PartId} {f : FaultReport} (hj : jobOf s p = some j) (hr : j.running = true) (hf : j.frozen = false)
    (hre : j.restarting = false) (hb : (Machine.regionRun s p f.region).busy = true) (h1 : f.code ≠ 0x3020) (h2 : f.code ≠ 0x5050)
    (hg : f.granule = none) (hlt : (Machine.regionRun s p f.region).replays < obj s 0x4400 2) :
    exec (.stepReplay p f) s = .next (replaySteps (stepFailed s p f) p none) := by
  change Host.Outcome.next (match jobOf s p.val with | none => s | some j => _) = _
  rw [hj]
  refine congrArg _ ((if_neg (by simp [hr, hf, hre, hb])).trans ((if_neg ?_).trans ?_))
  · rw [Bool.or_eq_true, decide_eq_true_eq, decide_eq_true_eq]
    exact not_or.2 ⟨h1, h2⟩
  rw [hg]
  change failStep (updRegion s p.val f.region _) p.val f.region f.code.toNat f.unit none = _
  rw [failStep, regionRun_updRegion_self hj]
  exact if_neg (Nat.not_le.2 hlt)
theorem stepFailed_region {f : FaultReport} (hj : jobOf s p = some j) : Machine.regionRun (stepFailed s p f) p f.region
    = { Machine.regionRun s p f.region with lastFault := faultMark f, trapped := ((Machine.regionRun s p f.region).trapped ++ f.trapped).eraseDups
                                            replays := (Machine.regionRun s p f.region).replays + 1 } := by
  rw [stepFailed, regionRun_updRegion_self (jobOf_updRegion hj ..), regionRun_updRegion_self hj]
theorem stepFailed_placement {f : FaultReport} (hj : jobOf s p = some j) : streamsOf (stepFailed s p f) p = streamsOf s p
    ∧ (∀ xy, relCore (stepFailed s p f) p xy = relCore s p xy) ∧ ∀ r, regionCores (stepFailed s p f) p r = regionCores s p r := by
  obtain ⟨h1, h2, h3⟩ := updRegion_placement hj f.region (fun r => { r with lastFault := faultMark f, trapped := (r.trapped ++ f.trapped).eraseDups })
  obtain ⟨g1, g2, g3⟩ := updRegion_placement (jobOf_updRegion hj f.region (fun r => { r with
    lastFault := faultMark f, trapped := (r.trapped ++ f.trapped).eraseDups })) f.region (fun r => { r with replays := r.replays + 1 })
  exact ⟨g1.trans h1, fun xy => (g2 xy).trans (h2 xy), fun r => (g3 r).trans (h3 r)⟩
theorem replaySteps_raises (hj : jobOf s p = some j) (up : Option Nat) : ∃ e ∈ (replaySteps s p up).events, e.code = 0x5053#16 := by
  unfold replaySteps
  rw [hj]
  exact (raised_stwEvent _ 0x5053 0 (some p) none []).mem

/-! STEP_WATCHDOG. -/

theorem freeze_spads (s : State) (p reason : Nat) (step : W64) (region : Nat) : spadsKept s (freeze s p reason step region) := by
  unfold freeze
  split
  · exact fun _ => rfl
  · split
    · exact fun _ => rfl
    · exact (haltPart_settle (updJob s p (fun j => { j with frozen := true })) p).1
theorem foldReqs_parts (l : List Nat) (s : State) (type : Nat) (pay : Bytes) : (l.foldl (fun s h => foldReq s h type pay) s).parts = s.parts :=
  foldl_keeps State.parts _ l s (fun t h _ => foldReq_parts t h type pay)
/-- A placement in force: the job stands in it, and every request is as it was, its Plate aside. -/
theorem setPlacement_places (hj : jobOf s p = some j) (f : LayoutFile) (n : Nat) : RequestsKept s (setPlacement s p f n)
    ∧ ∃ bits chain, jobOf (setPlacement s p f n) p = some { j with detour := n, detourBits1 := bits, chain := chain } := by
  unfold setPlacement
  split
  · next hn => exact absurd (hj.symm.trans hn) nofun
  next i hi =>
  obtain rfl : j = i := Option.some.inj (hj.symm.trans hi)
  split
  · next hd => exact ⟨requestsKept_refl s, j.detourBits1, j.chain, by rw [hj, ← hd]⟩
  · extract_lets bits old new e s1 s2 s3 s4 pay s5 s6
    have h1 : onlyRecords s s1 := by
      simp only [s1]
      split
      · exact moveShards_frame ..
      · exact onlyRecords_refl s
    have h2 : onlyRecords s1 s2 := by
      simp only [s2]
      split
      · exact moveShards_frame ..
      · exact onlyRecords_refl s1
    have h3 : onlyRecords s2 s3 := by
      simp only [s3]
      split
      · exact moveShards_frame ..
      · exact onlyRecords_refl s2
    have h13 := onlyRecords_trans h1 (onlyRecords_trans h2 h3)
    have hj3 : jobOf s3 p = some j := (h13.2 p).2.trans hj
    have hj5 : jobOf s5 p = some { j with detour := n, detourBits1 := bits, chain := foldChain j.chain 0x14 pay } := by
      simp only [s5, s4, foldJob, jobOf_updJob_self, hj3]
      rfl
    have h5 : RequestsKept s3 s5 := requestsKept_of_eq rfl rfl
    have h6 : RequestsKept s5 s6 ∧ s6.parts = s5.parts := by
      simp only [s6]
      split
      · exact ⟨requestsKept_foldl (fun t h => foldReq_kept ..) _ s5, foldReqs_parts ..⟩
      · exact ⟨requestsKept_refl s5, rfl⟩
    have h7 := logInput_frame s6 p 0x0A 0 none none pay
    refine ⟨h13.1.kept.trans (h5.trans (h6.1.trans h7.1.kept)), bits, _, ((h7.2 p).2.trans ?_).trans hj5⟩
    exact jobOf_of_parts h6.2 p
theorem setPlacement_kept (s : State) (p : Nat) (f : LayoutFile) (n : Nat) : RequestsKept s (setPlacement s p f n) := by
  cases hj : jobOf s p with
  | none => rw [setPlacement, hj]; exact requestsKept_refl s
  | some j => exact (setPlacement_places hj f n).1
/-- The job of p restarts: its sequencers halt, its packets are dropped, and the restart is dated. -/
def restartDated (s : State) (p : Nat) : State :=
  updJob (stwEvent (dropHops (haltPart s p) p true) 0x5054 1 (some p) none []) p (fun j => { j with
    restarting := true, restarts := recent (stwEvent (dropHops (haltPart s p) p true) 0x5054 1 (some p) none []) 3600 j.restarts
      ++ [(stwEvent (dropHops (haltPart s p) p true) 0x5054 1 (some p) none []).units], sweeps := [], dups := [] })
theorem restartDated_kept (s : State) (p : Nat) : RequestsKept s (restartDated s p) := by
  have h1 : RequestsKept s (haltPart s p) := requestsKept_foldl haltSeq_kept _ s
  have h2 : RequestsKept s (dropHops (haltPart s p) p true) := h1.trans (dropHops_kept ..)
  exact h2.trans (requestsKept_of_eq rfl rfl)
theorem restartBegin_spads (s : State) (p cause : Nat) : spadsKept s (restartBegin s p cause) := by
  unfold restartBegin
  split
  · exact fun _ => rfl
  · split
    · exact fun _ => rfl
    · next j _ f _ =>
      split
      · exact fun _ => rfl
      · split
        · exact fun _ => rfl
        · split
          · exact spadsKept_trans (memoriesKept_of_eq (congrArg State.cores (hlSend_frame ..) :) (congrArg State.clusters (hlSend_frame ..) :)).1
              (freeze_spads _ _ _ _ _)
          · split
            · exact endJob_spads _ _ _ _
            · split
              · exact endJob_spads _ _ _ _
              · extract_lets _ _ s1
                have h1 : spadsKept s s1 := by
                  simp only [s1]
                  split
                  · exact fun _ => rfl
                  · exact (restartDated_kept s p).spads
                split
                · exact spadsKept_trans h1 (endJob_spads (stwEvent s1 0x5055 2 (some p) none []) p 5 0x5055)
                · exact spadsKept_trans h1 (setPlacement_kept ..).spads
end

end Sys2Proof.Machine
end

section
/-! PROOF. Whole-job restarts (R359 to R361, R365, R367), and the answers to failures. -/

namespace Sys2Proof.Machine

section
variable {s t u : State} {p : Nat} {j : Job} {f : LayoutFile} {n : Nat}

/-! The restart begins. -/

/-- A placement is chosen by the fences and the partition alone. -/
theorem choosePlacement_of (hk : t.clusters = s.clusters) (hp : partDef t p = partDef s p) (f : LayoutFile) :
    choosePlacement t p f = choosePlacement s p f := by
  have hrel : relCore t p = relCore s p := funext fun xy => by rw [relCore, hp, relCore]
  have hcl : ∀ k, clOf t k = clOf s k := fun k => by rw [clOf, hk, clOf]
  have hfence : anyFence t = anyFence s := funext fun c => by
    simp only [anyFence, coreFenced, clusterFenced, siteFenced, kreg, hcl]
  have hcov : coversCore t p = coversCore s p := funext fun c => funext fun v => by
    simp only [coversCore, hp, coreFenced, clusterFenced, siteFenced, kreg, hcl]
  unfold choosePlacement
  rw [hrel, hfence, hcov]
/-- The state before the restart is dated: halted, with its packets dropped. -/
theorem restartHalted_frame (s : State) (p : Nat) : onlyHalted s (dropHops (haltPart s p) p true) :=
  onlyHalted_trans (haltPart_frame s p) (dropHops_frame ..)
theorem restartDated_dates (hj : jobOf s p = some j) : (restartDated s p).fin = s.fin ∧ (restartDated s p).clusters = s.clusters
    ∧ partDef (restartDated s p) p = partDef s p ∧ (∃ e ∈ (restartDated s p).events, e.code = 0x5054#16)
    ∧ jobOf (restartDated s p) p = some { j with
        restarting := true, restarts := recent s 3600 j.restarts ++ [s.units], sweeps := [], dups := [] } := by
  have hf := restartHalted_frame s p
  have hraise := raised_stwEvent (dropHops (haltPart s p) p true) 0x5054 1 (some p) none []
  unfold restartDated
  generalize dropHops (haltPart s p) p true = v at hf hraise
  unfold onlyHalted at hf
  have hjv : jobOf v p = some j := by
    rw [hf]
    exact hj
  have hu : v.units = s.units := by rw [hf]
  refine ⟨(congrArg State.fin hf :), (congrArg State.clusters hf :), ?_, hraise.mem, ?_⟩
  · rw [partDef, updJob, partOf_updPart_self]
    change (partOf v p).pdef.toNat = _
    rw [hf]
    rfl
  · rw [jobOf_updJob_self, show jobOf (stwEvent v 0x5054 1 (some p) none []) p = some j from hjv, Option.map_some]
    simp only [recent, stwEvent, emit_units, hu]
theorem restartBegin_places (hj : jobOf s p = some j) (hfile : j.file = some f) (hr : j.running = true) (hfr : j.frozen = false)
    (hre : j.restarting = false) (hb : isBino s p = false) (hi : j.instar = none) (hd : j.diaPaused = false)
    (hn : (recent s 3600 j.restarts).length + 1 ≤ obj s 0x4400 5) (hc : choosePlacement s p f = some n) (cause : Nat) :
    restartBegin s p cause = setPlacement (restartDated s p) p f n := by
  obtain ⟨-, hk, hpd, -, -⟩ := restartDated_dates hj
  have hc' : choosePlacement (restartDated s p) p f = some n := (choosePlacement_of hk hpd f).trans hc
  have hx : restartBegin s p cause = match choosePlacement (restartDated s p) p f with
      | none => endJob (stwEvent (restartDated s p) 0x5055 2 (some p) none []) p 5 0x5055
      | some n => setPlacement (restartDated s p) p f n := by
    unfold restartBegin
    rw [hj]
    dsimp only
    rw [hfile]
    dsimp only
    rw [if_neg (by simp [hr, hfr]), hd, if_neg Bool.false_ne_true, if_neg (by simp [hb]), if_neg (by simp only [hre, Bool.not_false, Bool.true_and, decide_eq_true_eq]; exact Nat.not_lt.2 hn), instarCanRestart, hi, hre]
    rfl
  rw [hx, hc']

/-! The restart completes. -/

/-- A job but for its draft and its Plate. -/
def undrafted (j : Job) : Job := { j with draft := none, chain := [] }
/-- Requests, their Plates and counts aside, the job of p, its draft and Plate aside, the Finder and the events so far stay. -/
structure JobStands (p : Nat) (s t : State) : Prop where
  reqs : ∀ h, (reqOf t h).map bareReq = (reqOf s h).map bareReq
  job : (jobOf t p).map undrafted = (jobOf s p).map undrafted
  fin : t.fin = s.fin
  events : s.events <+: t.events
theorem jobStands_refl (p : Nat) (s : State) : JobStands p s s := ⟨fun _ => rfl, rfl, rfl, List.prefix_refl _⟩
theorem JobStands.trans (h : JobStands p s t) (g : JobStands p t u) : JobStands p s u :=
  ⟨fun k => (g.reqs k).trans (h.reqs k), g.job.trans h.job, g.fin.trans h.fin, h.events.trans g.events⟩
theorem onlyUnits.stands (h : onlyUnits s t) (p : Nat) : JobStands p s t := by
  unfold onlyUnits at h
  rw [h]
  exact ⟨fun _ => rfl, rfl, rfl, List.prefix_refl _⟩
theorem updDraft_stands (s : State) (p : Nat) (d : Option Draft) : JobStands p s (updJob s p (fun j => { j with draft := d })) := by
  refine ⟨fun _ => rfl, ?_, rfl, List.prefix_refl _⟩
  rw [jobOf_updJob_self]
  cases jobOf s p <;> rfl
theorem unloadDraft_stands (s : State) (p : Nat) (x : Draft) : JobStands p s (unloadDraft s p x) := by
  refine ⟨(unloadDraft_kept s p x).reqs, ?_, onward_fin (onward_refl s).unloadDraft, (onward_refl s).unloadDraft.events⟩
  unfold unloadDraft
  extract_lets s1 s2 s3
  have h1 : jobOf s1 p = jobOf s p := by
    rw [jobOf, partOf_updPart_self]
    rfl
  have h2 : jobOf s2 p = jobOf s1 p := jobOf_of_parts (foldl_rel (R := fun s t : State => t.parts = s.parts) (fun _ => rfl) (fun h g => g.trans h)
    (fun t h => by rw [freeExtents_clusters t (some x.file.body.sweep) (partClusters t p) (draftSlot h)]) _ s1) p
  have h3 : (jobOf s3 p).map undrafted = (jobOf s p).map undrafted := by
    rw [← h1, ← h2]
    exact (updDraft_stands s2 p none).job
  split
  · rw [← h3]
    exact congrArg _ ((noteDraft_records s3 p (zeros 32)).2 p).2
  · exact h3
theorem replaceDraft_stands (s : State) (p : Nat) : JobStands p s (replaceDraft s p) := by
  unfold replaceDraft
  split
  · exact jobStands_refl p s
  · split
    · exact unloadDraft_stands ..
    · exact (updDraft_stands ..).trans ((placeDraft_frame ..).stands p)
/-- The job of p runs again from step 0, with its requests resumed. -/
def rerunFrom (s : State) (p : Nat) : State :=
  updJob { s with reqs := s.reqs.map (fun e => if e.2.part.val = p then (e.1, resumeReq e.2) else e) } p (fun j => { j with
    restarting := false, waitHold := false, nextStep := 0, sweeps := [], dups := [], useSum := 0, useCount := 0
    regions := j.regions.map (fun e => (e.1, { regionRunZero with qualM := e.2.qualM, qualN := e.2.qualN, qualTimes := e.2.qualTimes })) })
theorem reqOf_rerunFrom (s : State) (p h : Nat) :
    reqOf (rerunFrom s p) h = (reqOf s h).map (fun r => if r.part.val = p then resumeReq r else r) := by
  change lookupN (s.reqs.map (fun e => if e.2.part.val = p then (e.1, resumeReq e.2) else e)) h = _
  rw [lookupN_map_entry (fun e => by split <;> rfl), reqOf]
  cases lookupN s.reqs h with
  | none => rfl
  | some r =>
    simp only [Option.map_some]
    split <;> rfl
theorem jobOf_rerunFrom (s : State) (p : Nat) : jobOf (rerunFrom s p) p = (jobOf s p).map (fun j => { j with
    restarting := false, waitHold := false, nextStep := 0, sweeps := [], dups := [], useSum := 0, useCount := 0
    regions := j.regions.map (fun e => (e.1, { regionRunZero with qualM := e.2.qualM, qualN := e.2.qualN, qualTimes := e.2.qualTimes })) }) :=
  jobOf_updJob_self ..
theorem bareReq_resumeReq (r : Request) : bareReq (resumeReq r) = bareReq (resumeReq (bareReq r)) := by
  unfold resumeReq
  by_cases h1 : r.st = .prefill || r.st = .decode || r.st = .resuming
  · rw [if_pos h1, if_pos (show (bareReq r).st = .prefill || (bareReq r).st = .decode || (bareReq r).st = .resuming from h1)]
    rfl
  · rw [if_neg h1, if_neg (show ¬((bareReq r).st = .prefill || (bareReq r).st = .decode || (bareReq r).st = .resuming) = true from h1)]
    by_cases h2 : r.st = .paused && r.parked.isNone
    · rw [if_pos h2, if_pos (show (bareReq r).st = .paused && (bareReq r).parked.isNone from h2)]
      rfl
    · rw [if_neg h2, if_neg (show ¬((bareReq r).st = .paused && (bareReq r).parked.isNone) = true from h2)]
      rfl
theorem resumeReq_tokens (r : Request) : (resumeReq r).tokens = r.tokens := by
  unfold resumeReq
  split
  · rfl
  · split <;> rfl
/-- A request of a restarted job resumes; another one stays. -/
def rerunReq (p : Nat) (r : Request) : Request := if r.part.val = p then resumeReq r else r
theorem rerunReq_bare {x r : Request} (p : Nat) (h : bareReq x = bareReq r) : bareReq (rerunReq p x) = bareReq (rerunReq p r) := by
  have hp : x.part = r.part := (congrArg Request.part h :)
  unfold rerunReq
  rw [hp]
  split
  · rw [bareReq_resumeReq, h, ← bareReq_resumeReq]
  · exact h
/-- What the restart brings to a job that nothing holds. -/
theorem restartFinish_reruns (hj : jobOf s p = some j) (hre : j.restarting = true) (hd : j.diaPaused = false) (hh : holdsCompute s = false)
    (hrec : p ∉ s.fin.recoverDue) (hw : j.waitHold = false) (hi : j.instar = none) : ∃ v w, JobStands p s v
      ∧ onlyUnits (rerunFrom v p) w ∧ restartFinish s p = w := by
  have hv : JobStands p s (replaceDraft (placeJob s p) p) := ((placeJob_frame s p).stands p).trans (replaceDraft_stands ..)
  have hjob := hv.job
  rw [hj, Option.map_some, Option.map_eq_some_iff] at hjob
  obtain ⟨i, hji, hu⟩ := hjob
  have hii : i.instar = none := (congrArg Job.instar hu :).trans hi
  have hrerun : instarRestart (rerunFrom (replaceDraft (placeJob s p) p) p) p = rerunFrom (replaceDraft (placeJob s p) p) p := by
    have hb : (jobOf (rerunFrom (replaceDraft (placeJob s p) p) p) p).bind (fun j => j.instar) = none := by
      rw [rerunFrom, jobOf_updJob_self]
      change ((jobOf (replaceDraft (placeJob s p) p) p).map _).bind _ = none
      rw [hji]
      exact hii
    unfold instarRestart
    rw [hb]
  refine ⟨replaceDraft (placeJob s p) p, startStreams (instarRestart (rerunFrom (replaceDraft (placeJob s p) p) p) p) p, hv, ?_, ?_⟩
  · rw [hrerun]
    exact startStreams_frame ..
  · unfold restartFinish
    rw [hj]
    exact if_neg (by simp [hre, hd, hh, hrec, hw])
theorem jobRestart_reruns {p : PartId} {cause : BitVec 16} (hj : jobOf s p = some j) (hfile : j.file = some f) (hr : j.running = true)
    (hfr : j.frozen = false) (hre : j.restarting = false) (hb : isBino s p = false) (hi : j.instar = none) (hd : j.diaPaused = false)
    (hw : j.waitHold = false) (hn : (recent s 3600 j.restarts).length + 1 ≤ obj s 0x4400 5) (hc : choosePlacement s p f = some n)
    (hh : holdsCompute s = false) (hrec : p.val ∉ s.fin.recoverDue) : answers (.jobRestart p cause) s (fun t =>
      (∃ e ∈ t.events, e.code = 0x5054#16)
      ∧ (∃ j', jobOf t p = some j' ∧ j'.restarting = false ∧ j'.running = true ∧ j'.nextStep = 0 ∧ j'.detour = n ∧ j'.sweeps = []
        ∧ j'.restarts = recent s 3600 j.restarts ++ [s.units])
      ∧ ∀ h r, reqOf s h = some r → let y := if r.part = p then resumeReq r else r
          ∃ x, reqOf t h = some x ∧ x.st = y.st ∧ x.tokens = r.tokens ∧ x.resumes = y.resumes ∧ x.placed = y.placed) := by
  obtain ⟨hfin, -, -, hev, hjd⟩ := restartDated_dates hj
  obtain ⟨hkept, bits, chain, hjp⟩ := setPlacement_places hjd f n
  have hon := (onward_refl (restartDated s p)).setPlacement (p := p.val) (f := f) (n := n)
  have hfinp : (setPlacement (restartDated s p) p f n).fin = s.fin := (onward_fin hon).trans hfin
  obtain ⟨v, w, hv, hu, hx⟩ := restartFinish_reruns hjp rfl hd (by simp only [holdsCompute, hfinp]; exact hh) (by rw [hfinp]; exact hrec) hw hi
  have hexec : exec (.jobRestart p cause) s = .next w := by
    change Host.Outcome.next (match jobOf s p.val with | none => s | some j => restartFinish _ p.val) = _
    rw [hj]
    dsimp only
    rw [if_neg (by rw [hre]; decide), restartBegin_places hj hfile hr hfr hre hb hi hd hn hc, hx]
  have hw2 := hu.stands p.val
  have hjob := hv.job
  rw [hjp, Option.map_some, Option.map_eq_some_iff] at hjob
  obtain ⟨i, hji, hui⟩ := hjob
  have hjw := hw2.job
  rw [jobOf_rerunFrom, hji, Option.map_some, Option.map_some, Option.map_eq_some_iff] at hjw
  obtain ⟨k, hk, huk⟩ := hjw
  refine ⟨w, hexec, ?_, ⟨k, hk, (congrArg Job.restarting huk :), ?_, (congrArg Job.nextStep huk :), ?_, (congrArg Job.sweeps huk :), ?_⟩, fun h r hq => ?_⟩
  · obtain ⟨e, he, hcode⟩ := hev
    exact ⟨e, hw2.events.subset (hv.events.subset (hon.events.subset he)), hcode⟩
  · exact ((congrArg Job.running huk :) : k.running = i.running).trans ((congrArg Job.running hui :).trans hr)
  · exact ((congrArg Job.detour huk :) : k.detour = i.detour).trans (congrArg Job.detour hui :)
  · exact ((congrArg Job.restarts huk :) : k.restarts = i.restarts).trans (congrArg Job.restarts hui :)
  · have hb : (reqOf v h).map bareReq = (reqOf s h).map bareReq :=
      ((hv.reqs h).trans (hkept.reqs h)).trans ((restartDated_kept s p).reqs h)
    rw [hq, Option.map_some, Option.map_eq_some_iff] at hb
    obtain ⟨x, hx, hxr⟩ := hb
    have hz := hw2.reqs h
    rw [reqOf_rerunFrom, hx, Option.map_some, Option.map_some, Option.map_eq_some_iff] at hz
    obtain ⟨z, hz, hzx⟩ := hz
    have hzr : bareReq z = bareReq (rerunReq p r) := hzx.trans (rerunReq_bare p hxr)
    have hy : (if r.part = p then resumeReq r else r) = rerunReq p r := if_congr Fin.ext_iff rfl rfl
    have htok : (rerunReq p r).tokens = r.tokens := by
      unfold rerunReq
      split
      · exact resumeReq_tokens r
      · rfl
    have hst : z.st = (rerunReq p r).st := (congrArg Request.st hzr :)
    have hrs : z.resumes = (rerunReq p r).resumes := (congrArg Request.resumes hzr :)
    have hpl : z.placed = (rerunReq p r).placed := (congrArg Request.placed hzr :)
    intro y
    refine ⟨z, hz, ?_, ((congrArg Request.tokens hzr :) : z.tokens = _).trans htok, ?_, ?_⟩
    · exact hst.trans (congrArg Request.st hy.symm)
    · exact hrs.trans (congrArg Request.resumes hy.symm)
    · exact hpl.trans (congrArg Request.placed hy.symm)
end

section
variable {s : State} {j : Job} {p : PartId} (hj : jobOf s p = some j)
include hj

theorem stepReplay_answers {f : FaultReport} (hb : (regionRun s p f.region).busy = true) : let t := replaySteps (stepFailed s p f) p none
    (regionRun t p f.region).replays = (regionRun s p f.region).replays + 1
      ∧ (regionRun t p f.region).trapped = ((regionRun s p f.region).trapped ++ f.trapped).eraseDups ∧ (regionRun t p f.region).busy = true
      ∧ (∃ e ∈ t.events, e.code = 0x5053#16) ∧ t.reqs = s.reqs ∧ spadsKept s t
      ∧ ∀ l x, j.file = some l → placeStreams l j.detour = [x] → let c := relCore s p (x.rx, x.ry)
          c ∈ regionCores s p f.region → (coreOf t c).run = true ∧ (coreOf t c).cmdIndex = BitVec.ofNat 32 x.first.toNat
            ∧ (coreOf t c).meq = [] ∧ (coreOf t c).veq = [] ∧ (coreOf t c).seqe = [] ∧ (coreOf t c).teq = [] := by
  intro t
  have hrw : Rewound (stepFailed s p f) t := (rewound_refl _).replaySteps
  have hreg : regionRun t p f.region = _ := (hrw.regionRun p f.region).trans (stepFailed_region hj)
  have hjf : jobOf (stepFailed s p f) p = some _ := jobOf_updRegion (jobOf_updRegion hj ..) ..
  refine ⟨by rw [hreg], by rw [hreg], by rw [hreg]; exact hb, replaySteps_raises hjf none, hrw.reqs, (replaySteps_kept ..).spads, fun l x hl hx => ?_⟩
  intro c hc
  obtain ⟨hs, hrel, hcores⟩ := stepFailed_placement (f := f) hj
  have hstreams : streamsOf (stepFailed s p f) p = some [x] := by rw [hs, streamsOf, hj, Option.bind_some, hl, Option.map_some, hx]
  have hgo := replaySteps_restarts (r := f.region) hstreams (by rw [stepFailed_region hj]; exact hb) (by rw [hrel, hcores]; exact hc)
  rw [hrel] at hgo
  exact hgo
theorem stepWatchdog_trips {region : Nat} (hr : j.running = true) (hfr : j.frozen = false) (hre : j.restarting = false)
    (hb : (regionRun s p region).busy = true) (hh : holdsCompute s = false) (hsag : s.fin.sagWarn = false)
    (hall : ∀ c ∈ regionCores s p region, inForce s (clusterOf c) ≠ 0) :
    answers (.stepWatchdog p region) s (fun t => (∃ e ∈ t.events, e.code = 0x5052#16) ∧ spadsKept s t
      ∧ ((regionRun s p region).trips = 0 → (regionRun t p region).trips = 1 ∧ t.reqs = s.reqs)
      ∧ ((regionRun s p region).trips ≠ 0 → ∀ c ∈ regionCores s p region, c ∈ t.fin.testsDue)) := by
  have hx : exec (.stepWatchdog p region) s = .next (if (regionRun s p region).trips = 0
      then replaySteps (updRegion (stwEvent s 0x5052 1 (some p) none (leBytes 4 region)) p region (fun r => { r with trips := 1 })) p none
      else restartBegin (updFin (updJob (stwEvent s 0x5052 1 (some p) none (leBytes 4 region)) p (fun j => { j with waitHold := true }))
        (fun f => { f with testsDue := (f.testsDue ++ regionCores s p region).eraseDups })) p 0x5052) := by
    have hany : (regionCores s p region).any (fun c => inForce s (clusterOf c) == 0) = false :=
      List.any_eq_false.2 fun c hc => by simp [hall c hc]
    change Host.Outcome.next (match jobOf s p.val with | none => s | some j => _) = _
    rw [hj]
    exact congrArg _ (if_neg (by simp only [hr, hfr, hre, hb, hh, hsag, hany]; decide))
  have hev : ∃ e ∈ (stwEvent s 0x5052 1 (some p.val) none (leBytes 4 region)).events, e.code = 0x5052#16 := (raised_stwEvent ..).mem
  have hje : jobOf (stwEvent s 0x5052 1 (some p.val) none (leBytes 4 region)) p.val = some j := hj
  refine ⟨_, hx, ?_⟩
  by_cases h0 : (regionRun s p region).trips = 0
  · rw [if_pos h0]
    have hrw := (rewound_refl (updRegion (stwEvent s 0x5052 1 (some p.val) none (leBytes 4 region)) p region (fun r => { r with trips := 1 }))).replaySteps
      (p := p.val)
    have hon := (onward_refl (updRegion (stwEvent s 0x5052 1 (some p.val) none (leBytes 4 region)) p region (fun r => { r with trips := 1 }))).replaySteps
      (p := p.val) (upstream := none)
    refine ⟨hev.imp fun e he => ⟨hon.events.subset he.1, he.2⟩, (replaySteps_kept ..).spads, fun _ => ⟨?_, hrw.reqs⟩, fun h => absurd h0 h⟩
    rw [hrw.regionRun, regionRun_updRegion_self hje]
  · rw [if_neg h0]
    have hon := (onward_refl (updFin (updJob (stwEvent s 0x5052 1 (some p.val) none (leBytes 4 region)) p (fun j => { j with waitHold := true }))
      (fun f => { f with testsDue := (f.testsDue ++ regionCores s p region).eraseDups }))).restartBegin (p := p.val) (cause := 0x5052)
    refine ⟨hev.imp fun e he => ⟨hon.events.subset he.1, he.2⟩, restartBegin_spads _ _ _, fun h => absurd h h0, fun _ c hc => ?_⟩
    rw [onward_fin hon]
    exact List.mem_eraseDups.2 (List.mem_append_right _ hc)
end

/-- Settles O43: a replay and a restart leave the requests' own standing; the rest follows the fences and the step's first command. -/
theorem failuresAreAnswered : Obligations.FailuresAreAnswered := by
  refine ⟨fun p f s j hj hr hfr hre => ?_, fun p region s j hj => ⟨fun hb => ?_, fun hr hfr hre hb hh hsag hall =>
    stepWatchdog_trips hj hr hfr hre hb hh hsag hall⟩, fun p cause s j f n hj hfile => ⟨fun hre hh => ?_, fun hr hfr hre hb hi hd hw hn hc hh hrec =>
      jobRestart_reruns hj hfile hr hfr hre hb hi hd hw hn hc hh hrec⟩⟩
  · intro r hb
    refine ⟨fun hcode => ?_, fun h1 h2 hg hlt _ => ⟨_, stepReplay_replays hj hr hfr hre hb h1 h2 hg hlt, stepReplay_answers hj hb⟩⟩
    change Host.Outcome.next (match jobOf s p.val with | none => s | some j => _) = _
    rw [hj]
    refine congrArg _ ((if_neg (by simp only [hr, hfr, hre]; rw [show (regionRun s p.val f.region).busy = true from hb]; decide)).trans (if_pos ?_))
    rw [Bool.or_eq_true, decide_eq_true_eq, decide_eq_true_eq]
    exact hcode
  · change Host.Outcome.next (match jobOf s p.val with | none => s | some j => _) = _
    rw [hj]
    exact congrArg _ (if_pos (by simp [hb]))
  · change Host.Outcome.next (match jobOf s p.val with | none => s | some j => restartFinish _ p.val) = _
    rw [hj]
    dsimp only
    rw [if_pos hre, restartFinish, hj]
    exact congrArg _ (if_pos (by simp [hh]))

end Sys2Proof.Machine
end

section
/-! PROOF. What the answers to a failure leave of every cluster's rail and fences: fences, replays, restarts and frozen jobs (R351, R418,
R425). -/

namespace Sys2Proof.Machine

/-- The clocks and the VCORE register of every cluster, its site's fence bit and every control message of o stand in s. -/
structure Railed (o s : State) : Prop where
  clocks : ∀ k, (clOf s k).clocksOff = (clOf o k).clocksOff
  vcore : ∀ k, kreg s k 0x58 = kreg o k 0x58
  fence : ∀ k, bitOf (kreg o k 0x40) 0 = true → bitOf (kreg s k 0x40) 0 = true
  ctrl : o.ctrl <+: s.ctrl

section
variable {o s t : State} {n : Nat}

theorem railed_refl (s : State) : Railed s s := ⟨fun _ => rfl, fun _ => rfl, fun _ h => h, List.prefix_refl _⟩
theorem Railed.trans {u : State} (h : Railed o s) (g : Railed s u) : Railed o u :=
  ⟨fun k => (g.clocks k).trans (h.clocks k), fun k => (g.vcore k).trans (h.vcore k), fun k hk => g.fence k (h.fence k hk),
    h.ctrl.trans g.ctrl⟩
theorem Railed.congr (hs : Railed o s) (hk : t.clusters = s.clusters) (hc : t.ctrl = s.ctrl) : Railed o t :=
  ⟨fun k => by rw [clOf, hk]; exact hs.clocks k, fun k => by rw [kreg, clOf, hk]; exact hs.vcore k,
    fun k h => by rw [kreg, clOf, hk]; exact hs.fence k h, hc ▸ hs.ctrl⟩
theorem Railed.ite {c : Prop} [Decidable c] (hs : Railed o s) (ht : Railed o t) : Railed o (if c then s else t) := by
  split
  · exact hs
  · exact ht
theorem Railed.foldl {α : Type} {f : State → α → State} (hf : ∀ {t : State} (a : α), Railed o t → Railed o (f t a)) {l : List α}
    (hs : Railed o s) : Railed o (l.foldl f s) := by
  induction l generalizing s with
  | nil => exact hs
  | cons a l ih => exact ih (hf a hs)
theorem Railed.updCl {k : Nat} {f : ClusterState → ClusterState} (hs : Railed o s)
    (hf : ∀ c, (f c).clocksOff = c.clocksOff ∧ (f c).regs = c.regs := by exact fun _ => ⟨rfl, rfl⟩) : Railed o (Machine.updCl s k f) := by
  have hr : ∀ j off, kreg (Machine.updCl s k f) j off = kreg s j off := fun j off => by
    rw [kreg, kreg, clOf_updCl]
    split
    · next e => rw [(hf _).2, e]
    · rfl
  refine ⟨fun j => Eq.trans ?_ (hs.clocks j), fun j => (hr j _).trans (hs.vcore j), fun j h => (hr j _).symm ▸ hs.fence j h, hs.ctrl⟩
  rw [clOf_updCl]
  split
  · next e => rw [(hf _).1, e]
  · rfl
/-- A register other than VCORE and the fence. -/
theorem Railed.setKreg {k off v : Nat} (hs : Railed o s) (hv : off ≠ 0x58 := by decide) (hf : off ≠ 0x40 := by decide) :
    Railed o (Machine.setKreg s k off v) := by
  refine ⟨fun j => Eq.trans ?_ (hs.clocks j), fun j => Eq.trans ?_ (hs.vcore j), fun j h => ?_, hs.ctrl⟩
  · rw [Machine.setKreg, clOf_updCl]
    split
    · next e => rw [e]
    · rfl
  · by_cases e : j = k
    · rw [e, kreg_setKreg_off s k _ v hv.symm]
    · rw [kreg_setKreg_ne s k _ _ _ e]
  · by_cases e : j = k
    · rw [e, kreg_setKreg_off s k _ v hf.symm, ← e]
      exact hs.fence j h
    · rw [kreg_setKreg_ne s k _ _ _ e]
      exact hs.fence j h
theorem Railed.setFenceBit {k b : Nat} (hs : Railed o s) : Railed o (Machine.setFenceBit s k b) := by
  refine ⟨fun j => Eq.trans ?_ (hs.clocks j), fun j => Eq.trans ?_ (hs.vcore j), fun j h => ?_, hs.ctrl⟩
  · rw [Machine.setFenceBit, Machine.setKreg, clOf_updCl]
    split
    · next e => rw [e]
    · rfl
  · rw [Machine.setFenceBit]
    by_cases e : j = k
    · rw [e, kreg_setKreg_off s k _ _ (by decide)]
    · rw [kreg_setKreg_ne s k _ _ _ e]
  · have hj := hs.fence j h
    rw [Machine.setFenceBit]
    by_cases e : j = k
    · subst e
      rw [kreg_setKreg_self]
      rw [bitOf_eq_testBit] at hj ⊢
      rw [Nat.testBit_mod_two_pow, Nat.testBit_or, hj]
      rfl
    · rw [kreg_setKreg_ne s k _ _ _ e]
      exact hj
theorem Railed.vaultWrite {k a : Nat} {b : Bytes} (hs : Railed o s) : Railed o (Machine.vaultWrite s k a b) := hs.updCl
theorem Railed.bumpK {k off hi lo n : Nat} (hs : Railed o s) (hv : off ≠ 0x58 := by decide) (hf : off ≠ 0x40 := by decide) :
    Railed o (Machine.bumpK s k off hi lo n) := Railed.ite hs (hs.setKreg hv hf)
theorem Railed.peakFreeK {k off hi lo : Nat} (hs : Railed o s) (hv : off ≠ 0x58 := by decide) (hf : off ≠ 0x40 := by decide) :
    Railed o (Machine.peakFreeK s k off hi lo) := by
  unfold Machine.peakFreeK
  extract_lets v
  exact (hs.setKreg (v := setBits v hi lo (max (bitsOf v hi lo) ((Config.freeWord s.free).toNat % 2 ^ (hi + 1 - lo)))) hv hf).congr rfl rfl
theorem Railed.freeBytes (hs : Railed o s) : Railed o (Machine.freeBytes s n).2 := hs.congr rfl rfl
theorem Railed.finderBroadcast {n tag : Nat} {ccs : List Nat} (hs : Railed o s) : Railed o (Machine.finderBroadcast s n tag ccs) :=
  ⟨hs.clocks, hs.vcore, hs.fence, hs.ctrl.trans (List.prefix_append ..)⟩
theorem Railed.setCore {c : Nat} {v : CoreState} (hs : Railed o s) : Railed o (Machine.setCore s c v) := hs.congr rfl rfl
theorem Railed.setRouter {r : Nat} {v : RouterState} (hs : Railed o s) : Railed o (Machine.setRouter s r v) := hs.congr rfl rfl
theorem Railed.updRouter {r : Nat} {f : RouterState → RouterState} (hs : Railed o s) :
    Railed o (Machine.updRouter s r f) := hs.setRouter
theorem Railed.setCc {i : Nat} {v : CcState} (hs : Railed o s) : Railed o (Machine.setCc s i v) := hs.congr rfl rfl
theorem Railed.updCc {i : Nat} {f : CcState → CcState} (hs : Railed o s) : Railed o (Machine.updCc s i f) := hs.setCc
theorem Railed.setSite {d : Nat} {v : SiteState} (hs : Railed o s) : Railed o (Machine.setSite s d v) := hs.congr rfl rfl
theorem Railed.updSite {d : Nat} {f : SiteState → SiteState} (hs : Railed o s) :
    Railed o (Machine.updSite s d f) := hs.setSite
theorem Railed.setWl {n : Nat} {v : WlState} (hs : Railed o s) : Railed o (Machine.setWl s n v) := hs.congr rfl rfl
theorem Railed.updWl {n : Nat} {f : WlState → WlState} (hs : Railed o s) : Railed o (Machine.updWl s n f) := hs.setWl
theorem Railed.setPart {p : Nat} {v : PartState} (hs : Railed o s) : Railed o (Machine.setPart s p v) := hs.congr rfl rfl
theorem Railed.updPart {p : Nat} {f : PartState → PartState} (hs : Railed o s) :
    Railed o (Machine.updPart s p f) := hs.setPart
theorem Railed.setReq {h : Nat} {v : Request} (hs : Railed o s) : Railed o (Machine.setReq s h v) := hs.congr rfl rfl
theorem Railed.updReq {h : Nat} {f : Request → Request} (hs : Railed o s) : Railed o (Machine.updReq s h f) := by
  unfold Machine.updReq
  split
  · exact hs.setReq
  · exact hs
theorem Railed.updHl {d : Nat} {f : HlState → HlState} (hs : Railed o s) : Railed o (Machine.updHl s d f) := hs.updSite
theorem Railed.updStw {f : Steward → Steward} (hs : Railed o s) : Railed o (Machine.updStw s f) := hs.congr rfl rfl
theorem Railed.updJob {p : Nat} {f : Job → Job} (hs : Railed o s) : Railed o (Machine.updJob s p f) := hs.updPart
theorem Railed.setRreg {r off v : Nat} (hs : Railed o s) : Railed o (Machine.setRreg s r off v) := hs.updRouter
theorem Railed.vaultWork {k bursts : Nat} (hs : Railed o s) : Railed o (Machine.vaultWork s k bursts) :=
  Railed.ite hs hs.bumpK.peakFreeK
theorem Railed.vaultPass {k a n : Nat} (hs : Railed o s) : Railed o (Machine.vaultPass s k a n) := hs.vaultWork
theorem Railed.emit {rep : Nat} {e : EventRec} (hs : Railed o s) : Railed o (Machine.emit s rep e) := by
  unfold Machine.emit
  extract_lets _ _ _ _ _ _ _
  exact hs.congr rfl rfl
theorem Railed.raise {code sev unit rep : Nat} {detail : Bytes} (hs : Railed o s) :
    Railed o (Machine.raise s code sev unit rep detail) := hs.emit
theorem Railed.doorbellAt {i n tag : Nat} (hs : Railed o s) : Railed o (Machine.doorbellAt s i n tag) := hs.updCc
theorem Railed.freeExtents {d : Option SweepDesc} {clusters : List Nat} {h : Nat} (hs : Railed o s) :
    Railed o (Machine.freeExtents s d clusters h) := by
  unfold Machine.freeExtents
  refine hs.foldl fun _ ht => ?_
  extract_lets _ s2
  have h2 : Railed o s2 := ht.updCl
  split
  · exact h2
  · exact h2.foldl (fun _ ht2 => ht2.vaultWrite)
theorem Railed.stwEvent {code sev : Nat} {p : Option Nat} {req : Option Nat} {detail : Bytes} (hs : Railed o s) :
    Railed o (Machine.stwEvent s code sev p req detail) := by
  unfold Machine.stwEvent
  extract_lets _ _
  exact hs.emit
theorem Railed.wlPost {n : Nat} {m : HostMsg} (hs : Railed o s) : Railed o (Machine.wlPost s n m) := hs.updWl
theorem Railed.hostWrite {n addr : Nat} {b : Bytes} (hs : Railed o s) : Railed o (Machine.hostWrite s n addr b) :=
  hs.foldl (fun _ ht => ht.wlPost)
theorem Railed.queueWrite {q units : Nat} {b : Bytes} (hs : Railed o s) :
    Railed o (Machine.queueWrite s q units b) := by
  unfold Machine.queueWrite
  split
  · exact hs
  · extract_lets _ _ s1 s2
    have h1 : Railed o s1 := hs.hostWrite
    have h2 : Railed o s2 := h1.hostWrite
    exact h2.updWl
theorem Railed.logPost {q : Nat} {bs : Bytes} (hs : Railed o s) : Railed o (Machine.logPost s q bs) := by
  unfold Machine.logPost
  split
  · exact hs
  · extract_lets _ _ s1
    have h1 : Railed o s1 := Railed.ite hs hs.queueWrite
    exact h1.queueWrite
theorem Railed.logStall {p : Nat} (hs : Railed o s) : Railed o (Machine.logStall s p) := Railed.ite hs hs.updPart.stwEvent
theorem Railed.logInput {p type flags : Nat} {req index : Option Nat} {payload : Bytes} (hs : Railed o s) :
    Railed o (Machine.logInput s p type flags req index payload) := by
  unfold Machine.logInput
  split
  · extract_lets _ s1
    have h1 : Railed o s1 := hs.updPart
    exact Railed.ite h1.logPost h1.updPart.logStall
  · exact hs
theorem Railed.foldReq {h type : Nat} {payload : Bytes} (hs : Railed o s) :
    Railed o (Machine.foldReq s h type payload) := hs.updReq
theorem Railed.foldJob {p type : Nat} {payload : Bytes} (hs : Railed o s) :
    Railed o (Machine.foldJob s p type payload) := hs.updJob
theorem Railed.flushRecs : ∀ {l : List (BitVec 16 × Option Nat × Bytes)} {s : State}
    {kept : List (BitVec 16 × Option Nat × Bytes)}, Railed o s → Railed o (Machine.flushRecs l s n kept)
  | [], _, _, hs => hs.updWl
  | _ :: _, _, _, hs => by
    unfold Machine.flushRecs
    extract_lets _ s1 s2
    have h1 : Railed o s1 := hs.queueWrite
    have h2 : Railed o s2 := by
      simp only [s2]
      split
      · split
        · exact Railed.ite (h1.congr rfl rfl) h1
        · exact h1
      · exact h1
    split
    · exact h2.flushRecs
    · exact hs.flushRecs
theorem Railed.flushHeld {n : Nat} (hs : Railed o s) : Railed o (Machine.flushHeld s n) := hs.flushRecs
theorem Railed.postRec {q : Nat} {slot : Option Nat} {bs : Bytes} (hs : Railed o s) :
    Railed o (Machine.postRec s q slot bs) := by
  unfold Machine.postRec
  extract_lets _
  exact hs.updWl.flushHeld
theorem Railed.foldEnd {h reason stop : Nat} (hs : Railed o s) : Railed o (Machine.foldEnd s h reason stop) := by
  unfold Machine.foldEnd
  split
  · extract_lets s1
    have h1 : Railed o s1 := Railed.ite hs.setReq hs
    exact h1.foldReq
  · exact hs
theorem Railed.dropImage {h : Nat} (hs : Railed o s) : Railed o (Machine.dropImage s h) := hs.congr rfl rfl
theorem Railed.dropExtents {p h : Nat} (hs : Railed o s) : Railed o (Machine.dropExtents s p h) := by
  unfold Machine.dropExtents
  extract_lets s1
  have h1 : Railed o s1 := hs.freeExtents
  exact h1.freeExtents
theorem Railed.dropReads {h : Nat} (hs : Railed o s) : Railed o (Machine.dropReads s h) := by
  unfold Machine.dropReads
  extract_lets _
  exact hs.congr rfl rfl
theorem Railed.dropShards {p : Nat} {digest : Bytes} (hs : Railed o s) :
    Railed o (Machine.dropShards s p digest) := hs.foldl (fun _ ht => (Railed.ite ht.updCl ht))
theorem Railed.retireCheck {p : Nat} (hs : Railed o s) : Railed o (Machine.retireCheck s p) := by
  unfold Machine.retireCheck
  split
  · exact hs
  · exact Railed.ite hs (Railed.ite hs hs.dropShards).updPart.logInput.stwEvent
theorem Railed.noteDraft {p : Nat} {digest : Bytes} (hs : Railed o s) : Railed o (Machine.noteDraft s p digest) := by
  unfold Machine.noteDraft
  extract_lets _ s1
  have h1 : Railed o s1 := by
    simp only [s1]
    refine hs.foldl fun _ ht1 => ?_
    split
    · exact Railed.ite ht1.foldReq ht1
    · exact ht1
  exact h1.logInput
theorem Railed.unloadDraft {p : Nat} {x : Draft} (hs : Railed o s) : Railed o (Machine.unloadDraft s p x) := by
  unfold Machine.unloadDraft
  extract_lets s1 s2 s4
  have h1 : Railed o s1 := hs.updPart
  have h2 : Railed o s2 := h1.foldl (fun _ ht2 => ht2.freeExtents)
  have h4 : Railed o s4 := h2.updJob
  exact Railed.ite h4.noteDraft h4
theorem Railed.draftCheck {p : Nat} (hs : Railed o s) : Railed o (Machine.draftCheck s p) := by
  unfold Machine.draftCheck
  split
  · exact Railed.ite hs.unloadDraft hs
  · exact hs
theorem Railed.dropTokens {p h : Nat} (hs : Railed o s) : Railed o (Machine.dropTokens s p h) := hs.updJob
theorem Railed.endRequest {h : Nat} {st : ReqState} {reason stop answer event : Nat} (hs : Railed o s) :
    Railed o (Machine.endRequest s h st reason stop answer event) := by
  unfold Machine.endRequest
  split
  · exact hs
  · refine Railed.ite ?_ ?_
    · exact hs
    · extract_lets _ s1 s2 s3 s4
      have h1 : Railed o s1 := hs.setReq
      have h2 : Railed o s2 := (Railed.ite h1 h1.dropReads).dropTokens
      have h3 : Railed o s3 := h2.foldEnd.dropExtents.dropImage
      have h4 : Railed o s4 := Railed.ite h3.stwEvent h3
      split
      · exact h4.postRec.retireCheck.draftCheck
      · exact h4
theorem Railed.drainEnd {c : Nat} (hs : Railed o s) : Railed o (Machine.drainEnd s c) := by
  unfold Machine.drainEnd
  extract_lets _ _
  exact Railed.ite hs.setCore.doorbellAt hs
theorem Railed.haltSeq {c : Nat} (hs : Railed o s) : Railed o (Machine.haltSeq s c) := by
  unfold Machine.haltSeq
  extract_lets _
  exact Railed.ite hs.setCore.drainEnd hs
theorem Railed.haltPart {p : Nat} (hs : Railed o s) : Railed o (Machine.haltPart s p) := hs.foldl (fun _ ht => ht.haltSeq)
theorem Railed.setTheta {p : Nat} {theta : F32} {warm : Bool} (hs : Railed o s) :
    Railed o (Machine.setTheta s p theta warm) := by
  unfold Machine.setTheta
  extract_lets _ s1
  have h1 : Railed o s1 := hs.updPart
  exact Railed.ite h1 h1.stwEvent
theorem Railed.adjustTheta {p : Nat} {j : Job} (hs : Railed o s) : Railed o (Machine.adjustTheta s p j) := by
  unfold Machine.adjustTheta
  extract_lets _ _ _ _ _ _ _ _
  exact Railed.ite hs hs.setTheta
theorem Railed.instarEnd {p : Nat} {i : Instar} {done : Bool} {event : Nat} (hs : Railed o s) :
    Railed o (Machine.instarEnd s p i done event) := by
  unfold Machine.instarEnd
  extract_lets _ _ s1
  have h1 : Railed o s1 := hs.stwEvent
  exact h1.postRec
theorem Railed.hlEvent {d code sev : Nat} {detail : Bytes} (hs : Railed o s) :
    Railed o (Machine.hlEvent s d code sev detail) := hs.raise
theorem Railed.hlUp {d st : Nat} (hs : Railed o s) : Railed o (Machine.hlUp s d st) := hs.updHl.hlEvent
theorem Railed.endHops {p : Nat} (hs : Railed o s) : Railed o (Machine.endHops s p) :=
  hs.foldl (fun _ ht => (Railed.ite (Railed.ite ht.updHl ht).hlUp.hlEvent (Railed.ite ht.updHl ht)))
theorem Railed.endJob {p reason event : Nat} (hs : Railed o s) : Railed o (Machine.endJob s p reason event) := by
  unfold Machine.endJob
  split
  · exact hs
  · extract_lets s1 s3 _ s4 s5 s6 s7 s8
    have h1 : Railed o s1 := hs.foldl (fun _ ht1 => ht1.endRequest)
    have h3 : Railed o s3 := h1.haltPart
    have h4 : Railed o s4 := by
      simp only [s4]
      split
      · exact h3.foldJob.instarEnd
      · exact h3.freeBytes.foldJob
    have h5 : Railed o s5 := h4.logInput
    have h6 : Railed o s6 := Railed.ite h5.adjustTheta h5
    have h7 : Railed o s7 := Railed.ite (h6.congr rfl rfl) h6
    have h8 : Railed o s8 := h7.endHops
    exact h8.updPart
theorem Railed.setLinkDown {r p : Nat} {down : Bool} (hs : Railed o s) :
    Railed o (Machine.setLinkDown s r p down) := by
  unfold Machine.setLinkDown
  extract_lets _
  exact hs.setRreg
theorem Railed.bothEnds {r p : Nat} {down : Bool} (hs : Railed o s) : Railed o (Machine.bothEnds s r p down) := by
  unfold Machine.bothEnds
  extract_lets s1
  have h1 : Railed o s1 := hs.setLinkDown
  split
  · exact h1.setLinkDown
  · exact h1
theorem Railed.noteFence {u cause : Nat} (hs : Railed o s) : Railed o (Machine.noteFence s u cause) := by
  unfold Machine.noteFence
  extract_lets _ _ _ s1 s2
  have h1 : Railed o s1 := Railed.ite hs.updStw hs
  have h2 : Railed o s2 := h1.raise
  exact Railed.ite h2.finderBroadcast h2
theorem Railed.closeCore {c : Nat} (hs : Railed o s) : Railed o (Machine.closeCore s c) := by
  unfold Machine.closeCore
  extract_lets s1
  have h1 : Railed o s1 := hs.haltSeq
  exact h1.setRreg.setFenceBit
theorem Railed.fenceSite {d cause : Nat} (hs : Railed o s) : Railed o (Machine.fenceSite s d cause) :=
  Railed.ite hs ((hs.noteFence.foldl (fun _ ht => ht.setFenceBit)).foldl (fun _ ht1 => ht1.bothEnds))
theorem Railed.fenceCluster {k cause : Nat} (hs : Railed o s) : Railed o (Machine.fenceCluster s k cause) := by
  unfold Machine.fenceCluster
  refine Railed.ite ?_ ?_
  · exact hs
  · refine Railed.ite ?_ ?_
    · exact hs.fenceSite
    · extract_lets s1 s2
      have h1 : Railed o s1 := hs.noteFence
      have h2 : Railed o s2 := h1.setFenceBit.foldl (fun _ ht2 => ht2.closeCore)
      exact Railed.ite h2.fenceSite h2
theorem Railed.fenceCore {c cause : Nat} (hs : Railed o s) : Railed o (Machine.fenceCore s c cause) := by
  unfold Machine.fenceCore
  extract_lets _ s1
  have h1 : Railed o s1 := hs.noteFence.closeCore
  exact Railed.ite hs (Railed.ite hs.fenceSite (Railed.ite h1.fenceCluster h1))
theorem Railed.fenceLink {r p cause : Nat} (hs : Railed o s) : Railed o (Machine.fenceLink s r p cause) := by
  unfold Machine.fenceLink
  extract_lets _
  exact Railed.ite hs (Railed.ite hs.fenceSite hs.noteFence.bothEnds)
theorem Railed.fenceUnit {u cause : Nat} (hs : Railed o s) : Railed o (Machine.fenceUnit s u cause) := by
  unfold Machine.fenceUnit
  extract_lets _
  refine Railed.ite ?_ ?_
  · exact hs
  · exact Railed.ite hs.fenceLink (Railed.ite hs.fenceCore (Railed.ite hs.fenceCluster (Railed.ite hs.fenceSite hs)))
theorem Railed.queueDepth {r p vc : Nat} {n : Int} (hs : Railed o s) : Railed o (Machine.queueDepth s r p vc n) := by
  unfold Machine.queueDepth
  extract_lets _ _ _ _
  exact hs.setRreg
theorem Railed.creditBack {h : Hop} {n : Nat} (hs : Railed o s) : Railed o (Machine.creditBack s h n) := by
  unfold Machine.creditBack
  split
  · exact hs.updRouter
  · exact hs
theorem Railed.dropHop {h : Hop} (hs : Railed o s) : Railed o (Machine.dropHop s h) :=
  Railed.creditBack (Railed.queueDepth (hs.congr rfl rfl))
theorem Railed.hlSend {d cls : Nat} {msg : Bytes} (hs : Railed o s) : Railed o (Machine.hlSend s d cls msg) := Railed.ite hs hs.updHl
theorem Railed.dropHops {p : Nat} {vc0 : Bool} (hs : Railed o s) : Railed o (Machine.dropHops s p vc0) := by
  unfold Machine.dropHops
  extract_lets s1 s3
  have h1 : Railed o s1 := hs.foldl (fun _ ht1 => ht1.dropHop)
  have h3 : Railed o s3 := h1.congr rfl rfl
  exact h3.foldl (fun _ ht3 => (Railed.ite ht3 ht3.updRouter))
theorem Railed.markMissing {p index : Nat} (hs : Railed o s) : Railed o (Machine.markMissing s p index) := hs.updPart
theorem Railed.setEpochs {p : Nat} {f : Epochs → Epochs} (hs : Railed o s) : Railed o (Machine.setEpochs s p f) := hs.updPart
theorem Railed.shardGone {p : Nat} {digest : Bytes} {index : Nat} (hs : Railed o s) :
    Railed o (Machine.shardGone s p digest index) := by
  unfold Machine.shardGone
  extract_lets _
  exact Railed.ite hs.setEpochs hs.markMissing
theorem Railed.freeze {p reason : Nat} {step : W64} {region : Nat} (hs : Railed o s) :
    Railed o (Machine.freeze s p reason step region) := by
  unfold Machine.freeze
  split
  · exact hs
  · exact Railed.ite hs (Railed.stwEvent (hs.updJob.haltPart.congr rfl rfl))
theorem Railed.moveShard {p : Nat} {m : Manifest} {bank : Nat} {copies : List ShardPlace} {pl x : ShardPlace}
    (hs : Railed o s) :
    Railed o (Machine.moveShard s p m bank copies pl x) := by
  unfold Machine.moveShard
  extract_lets _ _ _
  split
  · exact hs
  · extract_lets _ _
    split
    · extract_lets s1
      have h1 : Railed o s1 := hs.vaultWrite.vaultPass
      exact h1.updCl
    · exact Railed.ite hs hs.shardGone
theorem Railed.moveShards {p : Nat} {m : Manifest} {bank : Nat} {copies old new : List ShardPlace} (hs : Railed o s) :
    Railed o (Machine.moveShards s p m bank copies old new) := by
  unfold Machine.moveShards
  refine hs.foldl fun _ ht => ?_
  split
  · exact ht
  · exact Railed.ite ht ht.moveShard
theorem Railed.setPlacement {p : Nat} {f : LayoutFile} {n : Nat} (hs : Railed o s) :
    Railed o (Machine.setPlacement s p f n) := by
  unfold Machine.setPlacement
  split
  · exact hs
  · refine Railed.ite ?_ ?_
    · exact hs
    · extract_lets _ _ _ _ s1 s2 s3 s4 _ s5 s6
      have h1 : Railed o s1 := by
        simp only [s1]
        split
        · exact hs.moveShards
        · exact hs
      have h2 : Railed o s2 := by
        simp only [s2]
        split
        · exact h1.moveShards
        · exact h1
      have h3 : Railed o s3 := by
        simp only [s3]
        split
        · exact h2.moveShards
        · exact h2
      have h4 : Railed o s4 := h3.updJob
      have h5 : Railed o s5 := h4.foldJob
      have h6 : Railed o s6 := Railed.ite (h5.foldl (fun _ ht6 => ht6.foldReq)) h5
      exact h6.logInput
theorem Railed.restartBegin {p cause : Nat} (hs : Railed o s) : Railed o (Machine.restartBegin s p cause) := by
  unfold Machine.restartBegin
  split
  · exact hs
  · split
    · exact hs
    · refine Railed.ite ?_ ?_
      · exact hs
      · refine Railed.ite ?_ ?_
        · exact hs.updJob
        · refine Railed.ite ?_ ?_
          · exact hs.hlSend.freeze
          · refine Railed.ite ?_ ?_
            · exact hs.stwEvent.endJob
            · refine Railed.ite ?_ ?_
              · exact hs.endJob
              · extract_lets s1 s2 s3
                have h1 : Railed o s1 := hs.haltPart.dropHops
                have h2 : Railed o s2 := h1.stwEvent
                have h3 : Railed o s3 := Railed.ite hs h2.updJob
                split
                · exact h3.stwEvent.endJob
                · exact h3.setPlacement
theorem Railed.fenceAnswer {cause : Nat} (hs : Railed o s) : Railed o (Machine.fenceAnswer s cause) :=
  hs.foldl (fun _ ht => (Railed.ite ht.restartBegin ht))
theorem Railed.fenceAll {u cause : Nat} (hs : Railed o s) : Railed o (Machine.fenceAll s u cause) := hs.fenceUnit.fenceAnswer
theorem Railed.windowEvents {old s : State} (hs1 : Railed o s) : Railed o (Machine.windowEvents old s) :=
  hs1.foldl (fun _ ht => ht.foldl (fun _ ht1 => (Railed.ite ht1.stwEvent ht1)))
end

end Sys2Proof.Machine
end

section
/-! PROOF. Sites that lose their lock, trip or are tripped by heat (R396, R397, R417, R418, R443). -/

namespace Sys2Proof.Machine

section
variable {s t u : State} {d : Nat}

/-! Fields of registers. -/

/-- A bit of a field. -/
theorem bitOf_field (x : Nat) {hi lo i : Nat} (hl : lo ≤ i) (hh : i ≤ hi) : bitOf x i = bitOf (bitsOf x hi lo) (i - lo) := by
  rw [bitOf_eq_testBit, bitOf_eq_testBit, bitsOf, Nat.testBit_mod_two_pow, Nat.testBit_div_two_pow, Nat.sub_add_cancel hl,
    decide_eq_true (by omega), Bool.true_and]

/-! Fences of a site. -/

/-- A site's own unit. -/
theorem dieUnit_fields : ∀ d, d < 64 → uIsLink (dieUnit d 0) = false ∧ uScope (dieUnit d 0) = 2 ∧ uDie (dieUnit d 0) = d := by decide +kernel
theorem fenceUnit_site (s : State) (cause : Nat) (hd : d < 64) : fenceUnit s (dieUnit d 0) cause = fenceSite s d cause := by
  obtain ⟨hl, hs, hu⟩ := dieUnit_fields d hd
  simp only [fenceUnit, hl, hs, hu]
  rw [if_neg (by omega)]
  rfl
theorem setFenceBit_sets (s : State) (k : Nat) : bitOf (kreg (setFenceBit s k 0) k 0x40) 0 = true := by
  rw [setFenceBit, kreg_setKreg_self, bitOf_eq_testBit, Nat.testBit_mod_two_pow, Nat.testBit_or]
  simp
theorem setFenceBits_sets (d i : Nat) (l : List Nat) (s : State) (h : i ∈ l) :
    bitOf (kreg (l.foldl (fun s k => setFenceBit s (d * 16 + k) 0) s) (d * 16 + i) 0x40) 0 = true := by
  induction l generalizing s with
  | nil => exact absurd h List.not_mem_nil
  | cons k l ih =>
    rw [List.foldl_cons]
    by_cases hl : i ∈ l
    · exact ih _ hl
    · have hs := setFenceBit_sets s (d * 16 + k)
      rw [← (List.mem_cons.1 h).resolve_right hl] at hs ⊢
      generalize setFenceBit s (d * 16 + i) 0 = v at hs ⊢
      exact ((railed_refl v).foldl fun _ ht => ht.setFenceBit).fence _ hs
theorem fenceSite_fences (s : State) (d cause : Nat) : siteFenced (fenceSite s d cause) d = true := by
  unfold fenceSite
  split
  · assumption
  · extract_lets s1 s2
    have h2 : bitOf (kreg s2 (d * 16) 0x40) 0 = true := setFenceBits_sets d 0 _ s1 (List.mem_range.2 (by decide))
    clear_value s2
    exact ((railed_refl s2).foldl fun _ ht => ht.bothEnds).fence _ h2
theorem fenceAll_fences (s : State) (cause : Nat) (hd : d < 64) : siteFenced (fenceAll s (dieUnit d 0) cause) d = true := by
  rw [fenceAll, fenceUnit_site s cause hd]
  exact ((railed_refl _).fenceAnswer).fence _ (fenceSite_fences s d cause)

/-! Windows. -/

theorem Onward.windowEvents {o old : State} (hs : Onward o s) : Onward o (Machine.windowEvents old s) := by
  unfold Machine.windowEvents
  exact hs.foldl fun _ ht => ht.foldl fun _ ht => Onward.ite ht.stwEvent ht
theorem Recoupled.railed (h : Recoupled s t) : Railed s t :=
  (railed_refl s).congr (congrArg State.clusters h.frame :) (congrArg State.ctrl h.frame :)

/-- A site is fenced, and what goes out of service with it is reported. -/
theorem fenceReported (s : State) (cause : Nat) (hd : d < 64) :
    Onward s (windowEvents s (fenceAll s (dieUnit d 0) cause)) ∧ Railed s (windowEvents s (fenceAll s (dieUnit d 0) cause))
      ∧ siteFenced (windowEvents s (fenceAll s (dieUnit d 0) cause)) d = true := by
  have ho := (onward_refl s).fenceAll (u := dieUnit d 0) (cause := cause)
  have hr := (railed_refl s).fenceAll (u := dieUnit d 0) (cause := cause)
  have hf := fenceAll_fences s cause hd
  generalize fenceAll s (dieUnit d 0) cause = v at ho hr hf ⊢
  exact ⟨ho.windowEvents, hr.windowEvents, ((railed_refl v).windowEvents (old := s)).fence _ hf⟩
theorem Onward.dreg (h : Onward s t) (d off : Nat) : Machine.dreg t d off = Machine.dreg s d off := by
  have hr : (siteSt t d).regs = (siteSt s d).regs := (congrArg SiteState.regs (h.site d) :)
  rw [Machine.dreg, Machine.dreg, hr]
theorem Recoupled.events (h : Recoupled s t) : t.events = s.events := (congrArg State.events h.frame :)

/-! MERIDIAN_UNLOCK. -/

theorem setMeridian_bits (s : State) (d : Nat) (locked fence : Bool) :
    bitOf (dreg (setMeridian s d locked fence) d 0x300) 31 = locked ∧ bitOf (dreg (setMeridian s d locked fence) d 0x300) 30 = fence := by
  have h : bitsOf (dreg (setMeridian s d locked fence) d 0x300) 31 30 = (if locked then 2 else 0) + (if fence then 1 else 0) := by
    rw [setMeridian, dreg_setDreg_self, bitsOf_mod _ (by decide), bitsOf_setBits _ _ (by decide)]
    cases locked <;> cases fence <;> rfl
  rw [bitOf_field _ (hi := 31) (lo := 30) (by decide) (by decide), bitOf_field (i := 30) _ (hi := 31) (lo := 30) (by decide) (by decide), h]
  cases locked <;> cases fence <;> decide
theorem clocksOff_stopClock (s : State) (k j : Nat) (h : (clOf s j).clocksOff = true ∨ j = k) :
    (clOf (updCl s k (fun c => { c with clocksOff := true })) j).clocksOff = true := by
  rw [clOf_updCl]
  split
  · rfl
  · next hne => exact h.resolve_right hne
theorem stopClocks_stops (d i : Nat) (l : List Nat) (s : State) (h : (clOf s (16 * d + i)).clocksOff = true ∨ i ∈ l) :
    (clOf (l.foldl (fun s i => updCl s (16 * d + i) (fun c => { c with clocksOff := true })) s) (16 * d + i)).clocksOff = true := by
  induction l generalizing s with
  | nil => exact h.resolve_right List.not_mem_nil
  | cons k l ih =>
    rw [List.foldl_cons]
    refine ih _ ?_
    by_cases hl : i ∈ l
    · exact .inr hl
    · exact .inl (clocksOff_stopClock _ _ _ (h.imp_right fun h => by rw [(List.mem_cons.1 h).resolve_right hl]))
/-- The end of MERIDIAN_UNLOCK: an event, the site's fence and new couplings. -/
theorem lockLost_fences (s : State) (hd : d < 64) (h : t = recouple (windowEvents (finderEvent s 0x3040 3 (dieUnit d 0) [])
      (fenceAll (finderEvent s 0x3040 3 (dieUnit d 0) []) (dieUnit d 0) 0x3040))) :
    siteFenced t d = true ∧ (∀ i, 29 < i → i < 64 → bitOf (dreg t d 0x300) i = bitOf (dreg s d 0x300) i)
      ∧ (∀ k, (clOf t k).clocksOff = (clOf s k).clocksOff) ∧ ∃ e ∈ t.events, e.code = 0x3040#16 := by
  have hg := raised_finderEvent s 0x3040 3 (dieUnit d 0) []
  have h3 : (finderEvent s 0x3040 3 (dieUnit d 0) []).sites = s.sites := rfl
  have hk : (finderEvent s 0x3040 3 (dieUnit d 0) []).clusters = s.clusters := rfl
  generalize finderEvent s 0x3040 3 (dieUnit d 0) [] = v at h hg h3 hk
  obtain ⟨ho, hr, hf⟩ := fenceReported v 0x3040 hd
  generalize windowEvents v (fenceAll v (dieUnit d 0) 0x3040) = w at h ho hr hf
  have hc := recouple_recoupled w
  rw [← h] at hc
  refine ⟨hc.railed.fence _ hf, fun i hl hh => ?_, fun k => ?_, ?_⟩
  · rw [bitOf_field _ (Nat.le_refl i) (Nat.le_refl i), hc.upper d i i hl hh, ← bitOf_field _ (Nat.le_refl i) (Nat.le_refl i), ho.dreg, dreg, siteSt, h3]
    rfl
  · rw [hc.railed.clocks, hr.clocks, clOf, hk]
    rfl
  · obtain ⟨e, he, hec⟩ := hg.mem
    exact ⟨e, hc.events ▸ ho.events.subset he, hec⟩
theorem meridianUnlock_effect (hd : d < 64) (hv : ∀ i, i < 16 → (clOf u (16 * d + i)).clocksOff = true)
    (hs : u.sites = (setMeridian s d false true).sites) (h : t = recouple (windowEvents (finderEvent u 0x3040 3 (dieUnit d 0) [])
      (fenceAll (finderEvent u 0x3040 3 (dieUnit d 0) []) (dieUnit d 0) 0x3040))) :
    bitOf (dreg t d 0x300) 31 = false ∧ bitOf (dreg t d 0x300) 30 = true ∧ siteFenced t d = true
      ∧ (∀ i, i < 16 → (clOf t (16 * d + i)).clocksOff = true) ∧ ∃ e ∈ t.events, e.code = 0x3040#16 := by
  obtain ⟨hf, hb, hk, he⟩ := lockLost_fences u hd h
  have hu : dreg u d 0x300 = dreg (setMeridian s d false true) d 0x300 := by simp only [dreg, siteSt, hs]
  obtain ⟨h31, h30⟩ := setMeridian_bits s d false true
  refine ⟨?_, ?_, hf, fun i hi => (hk _).trans (hv i hi), he⟩
  · rw [hb 31 (by decide) (by decide), hu, h31]
  · rw [hb 30 (by decide) (by decide), hu, h30]
/-- A lost lock stops the clocks of a site's clusters, fences the site and is reported. -/
theorem meridianUnlock_answers (site : SiteId) (hp : (siteSt s site.val).powered = true) (h31 : bitOf (dreg s site.val 0x300) 31 = true) :
    answers (.meridianUnlock site) s (fun t => bitOf (dreg t site.val 0x300) 31 = false ∧ bitOf (dreg t site.val 0x300) 30 = true
      ∧ siteFenced t site.val = true ∧ (∀ i, i < 16 → (clOf t (16 * site.val + i)).clocksOff = true) ∧ ∃ e ∈ t.events, e.code = 0x3040#16) :=
  ⟨_, congrArg Host.Outcome.next (if_neg (by simp [hp, h31])), meridianUnlock_effect site.isLt
    (fun i hi => stopClocks_stops _ i _ _ (.inr (List.mem_range.2 hi))) (foldl_keeps (fun s => s.sites) _ _ _ fun _ _ _ => rfl) rfl⟩

/-! Sites that go dark. -/

/-- What s has of an opened site once its shut-off is counted. -/
theorem sitePower_counted (s : State) (d st : Nat) (hst : st < 16) :
    (let t := setIreg (openSite s d st) 64 (sitePwrOff d) (bumpField (sitePwr (openSite s d st) d) 15 8 1)
     siteStateOf t d = st ∧ bitsOf (sitePwr t d) 15 8 = min (bitsOf (sitePwr s d) 15 8 + 1) 255) := by
  intro t
  have hp : sitePwr t d = bumpField (sitePwr (openSite s d st) d) 15 8 1 % 2 ^ 64 := ireg_setIreg_self ..
  have ho := (openSite_opened s d st).power
  have hb : bitsOf (sitePwr (openSite s d st) d) 15 8 = bitsOf (sitePwr s d) 15 8 := by
    rw [ho, bitsOf_mod _ (by decide), bitsOf_setBits_above _ _ (by decide) (by decide), bitsOf_setBits_above _ _ (by decide) (by decide),
      bitsOf_setBits_below _ _ (by decide) (by decide)]
  constructor
  · rw [siteStateOf, hp, bitsOf_mod _ (by decide), bumpField, bitsOf_setBits_below _ _ (by decide) (by decide), ho, bitsOf_mod _ (by decide),
      bitsOf_setBits _ _ (by decide)]
    exact Nat.mod_eq_of_lt hst
  · rw [hp, bitsOf_mod _ (by decide), bumpField, bitsOf_setBits _ _ (by decide), hb]
    have := bitsOf_lt (sitePwr s d) 15 8
    omega
/-- A site's converter has opened by itself: it is dark, tripped, counted and fenced. -/
structure SiteLost (s t : State) (d : Nat) : Prop where
  off : (siteSt t d).powered = false
  latch : (siteSt t d).tripLatch = (siteSt s d).tripLatch
  state : siteStateOf t d = 2
  count : bitsOf (sitePwr t d) 15 8 = min (bitsOf (sitePwr s d) 15 8 + 1) 255
  fenced : siteFenced t d = true
  events : s.events <+: t.events
theorem Onward.sitePwr (h : Onward s t) (d : Nat) : Machine.sitePwr t d = Machine.sitePwr s d := by
  have hi : t.ioRegs = s.ioRegs := (congrArg (fun x => x.2.2.2.2.2.2.2) h.fixed :)
  rw [Machine.sitePwr, Machine.sitePwr, ireg, ireg, hi]
/-- Every job whose partition includes a lost site restarts. -/
def restartAround (s : State) (d code : Nat) : State :=
  (s.parts.map (fun e => e.1)).foldl (fun s p =>
    if (partSites s p).contains d then
      match jobOf s p with | some j => if j.restarting then s else restartBegin s p code | none => s
    else s) s
theorem Onward.restartAround (s : State) (d code : Nat) : Onward s (restartAround s d code) := by
  refine (onward_refl s).foldl fun _ ht => ?_
  split
  · split
    · exact Onward.ite ht ht.restartBegin
    · exact ht
  · exact ht
theorem Railed.restartAround (s : State) (d code : Nat) : Railed s (restartAround s d code) := by
  refine (railed_refl s).foldl fun _ ht => ?_
  split
  · split
    · exact Railed.ite ht ht.restartBegin
    · exact ht
  · exact ht
theorem Opened.events {st : Nat} (h : Opened s t d st) : t.events = s.events := (congrArg State.events h.frame :)
/-- The fence of a lost site and the restarts around it. -/
def siteAnswer (s : State) (d code : Nat) : State := restartAround (windowEvents s (fenceAll s (dieUnit d 0) code)) d code
theorem siteAnswer_fences (s : State) (code : Nat) (hd : d < 64) :
    Onward s (siteAnswer s d code) ∧ siteFenced (siteAnswer s d code) d = true := by
  unfold siteAnswer
  obtain ⟨hf, hr, hfence⟩ := fenceReported s code hd
  generalize windowEvents s (fenceAll s (dieUnit d 0) code) = w at *
  exact ⟨hf.trans (Onward.restartAround w d code), (Railed.restartAround w d code).fence _ hfence⟩
theorem siteLost_eq (s : State) (d code : Nat) : siteLost s d code = siteAnswer (setIreg (openSite s d 2) 64 (sitePwrOff d)
    (bumpField (sitePwr (openSite s d 2) d) 15 8 1)) d code := rfl
theorem Onward.powered (h : Onward s t) (d : Nat) : (siteSt t d).powered = (siteSt s d).powered := (congrArg SiteState.powered (h.site d) :)
theorem Onward.tripLatch (h : Onward s t) (d : Nat) : (siteSt t d).tripLatch = (siteSt s d).tripLatch :=
  (congrArg SiteState.tripLatch (h.site d) :)
theorem siteLost_lost (s : State) (code : Nat) (hd : d < 64) : SiteLost s (siteLost s d code) d := by
  have ho := openSite_opened s d 2
  obtain ⟨hst, hcount⟩ := sitePower_counted s d 2 (by decide)
  have hs : ∀ e, siteSt (setIreg (openSite s d 2) 64 (sitePwrOff d) (bumpField (sitePwr (openSite s d 2) d) 15 8 1)) e
      = siteSt (openSite s d 2) e := fun _ => rfl
  have hev : (setIreg (openSite s d 2) 64 (sitePwrOff d) (bumpField (sitePwr (openSite s d 2) d) 15 8 1)).events = s.events := ho.events
  rw [siteLost_eq]
  generalize setIreg (openSite s d 2) 64 (sitePwrOff d) (bumpField (sitePwr (openSite s d 2) d) 15 8 1) = v at *
  generalize openSite s d 2 = u at ho hs
  obtain ⟨hon, hf⟩ := siteAnswer_fences v code hd
  generalize siteAnswer v d code = x at *
  refine ⟨?_, ?_, ?_, ?_, hf, hev ▸ hon.events⟩
  · rw [hon.powered, hs, ho.off]
  · rw [hon.tripLatch, hs, ho.latch]
  · rw [siteStateOf, hon.sitePwr]
    exact hst
  · rw [hon.sitePwr]
    exact hcount
/-- SITE_TRIP of a site that no re-energise is at (R417, R418). -/
theorem siteTrip_answers {site : SiteId} {under : Bool} (hp : (siteSt s site.val).powered = true) (hr : s.fin.reen = none) :
    answers (.siteTrip site under) s (fun t => (siteSt t site.val).powered = false
      ∧ siteStateOf t site.val = 2 ∧ siteFenced t site.val = true
      ∧ bitsOf (sitePwr t site.val) 15 8 = min (bitsOf (sitePwr s site.val) 15 8 + 1) 255
      ∧ ∃ e ∈ t.events, e.code = 0x1030#16 ∧ byteAt e.detail 1 = if under then 2 else 1) := by
  have hb : ∀ b : Bool, byteAt [BitVec.ofNat 8 site.val, BitVec.ofNat 8 (if b then 2 else 1)] 1 = if b then 2 else 1 := by
    intro b
    cases b <;> rfl
  have hg : ∃ e ∈ (finderEvent s 0x1030 3 (dieUnit site.val 0) [BitVec.ofNat 8 site.val, BitVec.ofNat 8 (if under then 2 else 1)]).events,
      e.code = 0x1030#16 ∧ byteAt e.detail 1 = if under then 2 else 1 :=
    ⟨_, List.mem_append_right _ (List.mem_singleton_self _), rfl, hb under⟩
  have hw : sitePwr (finderEvent s 0x1030 3 (dieUnit site.val 0) [BitVec.ofNat 8 site.val, BitVec.ofNat 8 (if under then 2 else 1)]) site.val
    = sitePwr s site.val := rfl
  refine ⟨tripSite s site.val (if under then 2 else 1), congrArg Host.Outcome.next ?_, ?_⟩
  · rw [if_neg (by simp [hp]), hr]
    rfl
  · unfold tripSite
    generalize finderEvent s 0x1030 3 (dieUnit site.val 0) [BitVec.ofNat 8 site.val, BitVec.ofNat 8 (if under then 2 else 1)] = v at *
    obtain ⟨hoff, -, hst, hc, hf, he⟩ := siteLost_lost v 0x1030 site.isLt
    obtain ⟨e, hm, h⟩ := hg
    exact ⟨hoff, hst, hf, hw ▸ hc, e, he.subset hm, h⟩
/-- THERMTRIP of a site that no re-energise is at (R443). -/
theorem thermtrip_answers {site : SiteId} (hs : s.fin.standby12 = true) (hl : (siteSt s site.val).tripLatch = false) (hr : s.fin.reen = none) :
    answers (.thermtrip site) s (fun t => (siteSt t site.val).tripLatch = true
      ∧ thermtripLow t = true ∧ alertLow t = true ∧ (siteSt t site.val).powered = false ∧ siteStateOf t site.val = 2
      ∧ siteFenced t site.val = true ∧ ∃ e ∈ t.events, e.code = 0x2040#16) := by
  have hlatch : (siteSt (finderEvent (updSite s site.val (fun t => { t with tripLatch := true })) 0x2040 3 (dieUnit site.val 0) []) site.val).tripLatch
      = true := by
    have hx : (siteSt (updSite s site.val (fun t => { t with tripLatch := true })) site.val).tripLatch = true := by rw [siteSt_updSite_self]
    exact hx
  have hg := (raised_finderEvent (updSite s site.val (fun t => { t with tripLatch := true })) 0x2040 3 (dieUnit site.val 0) []).mem
  refine ⟨siteLost (finderEvent (updSite s site.val (fun t => { t with tripLatch := true })) 0x2040 3 (dieUnit site.val 0) []) site.val 0x2040,
    congrArg Host.Outcome.next ?_, ?_⟩
  · rw [if_neg (by simp [hs, hl]), hr]
    rfl
  · generalize finderEvent (updSite s site.val (fun t => { t with tripLatch := true })) 0x2040 3 (dieUnit site.val 0) [] = v at *
    obtain ⟨hoff, hla, hst, -, hf, he⟩ := siteLost_lost v 0x2040 site.isLt
    obtain ⟨e, hm, h⟩ := hg
    have hmem : site.val ∈ List.range 64 := List.mem_range.2 site.isLt
    have hx := hla.trans hlatch
    refine ⟨hx, List.any_eq_true.2 ⟨_, hmem, hx⟩, ?_, hoff, hst, hf, e, he.subset hm, h⟩
    have ha : (List.range 64).any (fun d => siteStateOf (siteLost v site.val 0x2040) d == 2) = true :=
      List.any_eq_true.2 ⟨_, hmem, by rw [hst]; rfl⟩
    unfold alertLow
    rw [ha]
    simp
end

end Sys2Proof.Machine
end

section
/-! PROOF. RE_ENERGISE: its window, its ends and the return of the site (R419 to R422). -/

namespace Sys2Proof.Machine

section
variable {s t u : State} {d : Nat}

/-! Ends of a sequence. -/

theorem Opened.stateOf {st : Nat} (h : Opened s t d st) (hst : st < 16) : siteStateOf t d = st := by
  rw [siteStateOf, h.power, bitsOf_mod _ (by decide), bitsOf_setBits _ _ (by decide)]
  exact Nat.mod_eq_of_lt hst
theorem Opened.fin {st : Nat} (h : Opened s t d st) : t.fin = s.fin := (congrArg State.fin h.frame :)
theorem siteStateOf_set (s : State) (d v : Nat) (hv : v < 16) : siteStateOf (setSiteState s d v) d = v := by
  rw [siteStateOf, sitePwr, setSiteState, ireg_setIreg_self, bitsOf_mod _ (by decide), bitsOf_setBits _ _ (by decide)]
  exact Nat.mod_eq_of_lt hv
theorem closeWindow_events (s : State) : (closeWindow s).events = s.events := by
  unfold closeWindow
  split <;> rfl
/-- The sequence of a site has ended with its converter open. -/
structure ReenEnded (s t : State) (d st : Nat) : Prop where
  none : t.fin.reen = none
  off : (siteSt t d).powered = false
  state : siteStateOf t d = st
  raised : ∃ e ∈ t.events, e.code = 0x1032#16
  events : s.events <+: t.events
theorem endReen_ended {st reason state : Nat} {b : Bool} (h : s.fin.reen = some (d, st, b)) (hst : state < 16) :
    ReenEnded s (endReen s reason state) d state := by
  have he : endReen s reason state
      = refuseReen (openSite (updFin (closeWindow s) (fun f => { f with reen := Option.none })) d state) d reason := by rw [endReen, h]
  have ho := openSite_opened (updFin (closeWindow s) (fun f => { f with reen := Option.none })) d state
  have hr : (updFin (closeWindow s) (fun f => { f with reen := Option.none })).fin.reen = Option.none := rfl
  have hev : (updFin (closeWindow s) (fun f => { f with reen := Option.none })).events = s.events := closeWindow_events s
  rw [he]
  generalize updFin (closeWindow s) (fun f => { f with reen := Option.none }) = v at *
  generalize openSite v d state = w at *
  have hg := raised_finderEvent w 0x1032 1 (dieUnit d 0) [BitVec.ofNat 8 reason, BitVec.ofNat 8 d]
  refine ⟨?_, ho.off, ho.stateOf hst, hg.mem, ?_⟩
  · exact (congrArg Finder.reen ho.fin).trans hr
  · rw [← hev, ← ho.events]
    exact hg.earlier

/-! The command. -/

theorem reen_of_reenReason (h : reenReason s d = none) : s.fin.reen = none := by
  rw [reenReason, firstOf, Option.map_eq_none_iff, List.find?_eq_none] at h
  have hr := h (s.fin.reen.isSome, 6) (by simp)
  exact Option.not_isSome_iff_eq_none.1 (by simpa using hr)
/-- The window of a sequence is open. -/
def reenOpened (s : State) (d : Nat) : State :=
  updFin (setSiteState (finderBroadcast (if (siteSt s d).powered then openSite s d 0 else s) 1 2 (clustersOf (aroundSites d))) d 3)
    (fun f => { f with reen := some (d, 1, true), reenNear := aroundSites d })
theorem startReen_eq (s : State) (d : Nat) (probe : RampResult) : startReen s d probe = match probe with
    | .probeFail => endReen (reenOpened s d) 2 0
    | .tripOver => endReen (finderEvent (reenOpened s d) 0x1030 3 (dieUnit d 0) [BitVec.ofNat 8 d, 1#8]) 2 2
    | .tripUnder => endReen (finderEvent (reenOpened s d) 0x1030 3 (dieUnit d 0) [BitVec.ofNat 8 d, 2#8]) 2 2
    | .noSettle => updSite (setSiteState (reenOpened s d) d 4) d (fun t => { t with powered := true })
    | .ok => updFin ((List.range 16).foldl (fun s i => mailImage (bootCluster s (16 * d + i)) (16 * d + i))
        (setSiteState (energiseSite (reenOpened s d) d) d 4)) (fun f => { f with reen := some (d, 2, true) }) := by
  cases probe <;> rfl
/-- Images and mailboxes of clusters that power up. -/
theorem bootMail_frame (l : List Nat) (f : Nat → Nat) (s : State) :
    (let t := l.foldl (fun s i => mailImage (bootCluster s (f i)) (f i)) s
     t = { s with ccs := t.ccs, clusters := t.clusters }) := by
  refine foldl_rel (R := fun s t => t = { s with ccs := t.ccs, clusters := t.clusters }) (fun _ => rfl) (fun h g => by rw [g, h])
    (fun t i => ?_) l s
  rw [mailImage_frame]
  rfl
theorem energiseSite_powers (s : State) (d : Nat) : (siteSt (energiseSite s d) d).powered = true ∧ (energiseSite s d).ioRegs = s.ioRegs
    ∧ (energiseSite s d).fin = s.fin := by
  unfold energiseSite
  extract_lets v w
  have hp : (siteSt w d).powered = true := by simp [w, setMeridian, setDreg, v]
  have hw : w.ioRegs = s.ioRegs ∧ w.fin = s.fin := ⟨rfl, rfl⟩
  clear_value w
  generalize hx : (List.range 16).foldl _ w = x
  have hf : x = { w with clusters := x.clusters } := by
    rw [← hx]
    exact foldl_rel (R := fun s t => t = { s with clusters := t.clusters }) (fun _ => rfl) (fun h g => by rw [g, h]) (fun _ _ => rfl) _ w
  exact ⟨by rw [hf]; exact hp, (congrArg State.ioRegs hf :).trans hw.1, (congrArg State.fin hf :).trans hw.2⟩
/-- A site that has power starts its clusters. -/
theorem reenRamped (s : State) (d : Nat) (l : List Nat) (r : Option (Nat × Nat × Bool)) (hp : (siteSt s d).powered = true) :
    (let t := updFin (l.foldl (fun s i => mailImage (bootCluster s (16 * d + i)) (16 * d + i)) (setSiteState s d 4)) (fun f => { f with reen := r })
     t.fin.reen = r ∧ (siteSt t d).powered = true ∧ siteStateOf t d = 4) := by
  have hst := siteStateOf_set s d 4 (by decide)
  have hp' : (siteSt (setSiteState s d 4) d).powered = true := hp
  generalize setSiteState s d 4 = w at *
  have hf := bootMail_frame l (fun i => 16 * d + i) w
  generalize l.foldl (fun s i => mailImage (bootCluster s (16 * d + i)) (16 * d + i)) w = x at *
  have hs : x.sites = w.sites := (congrArg State.sites hf :)
  have hi : x.ioRegs = w.ioRegs := (congrArg State.ioRegs hf :)
  have hx : siteSt x d = siteSt w d := by
    rw [siteSt, hs]
    rfl
  have hst' : siteStateOf x d = 4 := by
    rw [siteStateOf, sitePwr, ireg, hi]
    exact hst
  exact ⟨rfl, (congrArg SiteState.powered hx).trans hp', hst'⟩
theorem reenTripped (hr : s.fin.reen = some (d, 1, true)) (x : Bytes) :
    (let t := endReen (finderEvent s 0x1030 3 (dieUnit d 0) x) 2 2
     t.fin.reen = none ∧ (siteSt t d).powered = false ∧ siteStateOf t d = 2 ∧ ∃ e ∈ t.events, e.code = 0x1030#16) := by
  obtain ⟨e, hm, hc⟩ := (raised_finderEvent s 0x1030 3 (dieUnit d 0) x).mem
  have hf : (finderEvent s 0x1030 3 (dieUnit d 0) x).fin.reen = some (d, 1, true) := hr
  generalize finderEvent s 0x1030 3 (dieUnit d 0) x = w at hm hf
  obtain ⟨h1, h2, h3, -, h5⟩ := endReen_ended (reason := 2) hf (show 2 < 16 by decide)
  exact ⟨h1, h2, h3, e, h5.subset hm, hc⟩
theorem startReen_starts (s : State) (d : Nat) (probe : RampResult) : let t := startReen s d probe
    (probe = .ok → t.fin.reen = some (d, 2, true) ∧ (siteSt t d).powered = true ∧ siteStateOf t d = 4)
    ∧ (probe = .noSettle → t.fin.reen = some (d, 1, true) ∧ (siteSt t d).powered = true ∧ siteStateOf t d = 4)
    ∧ (probe = .probeFail → t.fin.reen = none ∧ (siteSt t d).powered = false ∧ siteStateOf t d = 0)
    ∧ ((probe = .tripOver ∨ probe = .tripUnder) → t.fin.reen = none ∧ (siteSt t d).powered = false ∧ siteStateOf t d = 2
      ∧ ∃ e ∈ t.events, e.code = 0x1030#16) := by
  have hr : (reenOpened s d).fin.reen = some (d, 1, true) := rfl
  rw [startReen_eq]
  generalize reenOpened s d = v at hr
  refine ⟨fun hp => hp ▸ reenRamped _ d _ _ (energiseSite_powers v d).1, fun hp => ?_, fun hp => ?_, fun hp => ?_⟩
  · subst hp
    have hst := siteStateOf_set v d 4 (by decide)
    have hf : (setSiteState v d 4).fin.reen = some (d, 1, true) := hr
    dsimp only
    generalize setSiteState v d 4 = w at hst hf
    exact ⟨hf, by rw [siteSt_updSite_self], hst⟩
  · subst hp
    obtain ⟨h1, h2, h3, -, -⟩ := endReen_ended (reason := 2) hr (show 0 < 16 by decide)
    exact ⟨h1, h2, h3⟩
  · rcases hp with hp | hp
    · exact hp ▸ reenTripped hr _
    · exact hp ▸ reenTripped hr _
/-- RE_ENERGISE (R419 to R422). -/
theorem reEnergise_writes {req : DapReq} {se : Session} (hd : d < 64) (h : canWrite s req 0x4700 5 (leBytes 1 d) se) (probe : RampResult) :
    writes (.reEnergise req (BitVec.ofNat 8 d) probe) s req 0x4700 5 (leBytes 1 d) se (fun w t =>
      (∀ r, reenReason s d = some r → t = refuseReen w d r)
      ∧ (reenReason s d = none →
        (probe = .ok → t.fin.reen = some (d, 2, true) ∧ (siteSt t d).powered = true ∧ siteStateOf t d = 4)
        ∧ (probe = .noSettle → t.fin.reen = some (d, 1, true) ∧ (siteSt t d).powered = true ∧ siteStateOf t d = 4)
        ∧ (probe = .probeFail → t.fin.reen = none ∧ (siteSt t d).powered = false ∧ siteStateOf t d = 0)
        ∧ ((probe = .tripOver ∨ probe = .tripUnder) → t.fin.reen = none ∧ (siteSt t d).powered = false ∧ siteStateOf t d = 2
          ∧ ∃ e ∈ t.events, e.code = 0x1030#16))) := by
  have hn : (BitVec.ofNat 8 d).toNat = d := by rw [BitVec.toNat_ofNat, Nat.mod_eq_of_lt (by omega)]
  have hi : exec (.reEnergise req (BitVec.ofNat 8 d) probe) s = .next (dapWrite s req 0x4700 5 (leBytes 1 d)
      (fun _ _ => if 63 < d then stRange else stOk)
      (fun _ s => match reenReason s d with | some r => refuseReen s d r | none => startReen s d probe)) := by
    change execReEnergise req (BitVec.ofNat 8 d) probe s = _
    rw [execReEnergise, hn] <;> rfl
  refine writes_if (st := stRange) (p := True) h hi (by decide) (fun _ => if_neg (by omega)) (fun hn => absurd trivial hn)
    (fun _ => ⟨fun r hr => ?_, fun hr => ?_⟩) (fun t hn => absurd trivial hn)
  all_goals
    have hf := granted_agent h
    unfold onlyAgent at hf
    generalize granted s req 0x4700 5 (leBytes 1 d) se = w at hf ⊢
    have hreason : reenReason w d = reenReason s d := by
      rw [hf]
      rfl
    rw [hreason, hr]
  exact startReen_starts w d probe

/-! Its window, and the failures of the sequence. -/

theorem windowClose_answers (h : s.fin.reen = some (d, 2, true)) : answers .reenergiseWindowClose s (fun t =>
    t.fin.reen = some (d, 3, false) ∧ t.fin.reenNear = [] ∧ t.ctrl.length = s.ctrl.length + 16 * s.fin.reenNear.length ∧ memoriesKept s t) := by
  have hc : closeWindow s = updFin (finderBroadcast s 1 0 (clustersOf s.fin.reenNear))
      (fun f => { f with reen := some (d, 2, false), reenNear := [] }) := by rw [closeWindow, h]
  have hx : exec .reenergiseWindowClose s = .next (updFin (closeWindow s) (fun f => { f with reen := some (d, 3, false) })) := by
    change Host.Outcome.next (match s.fin.reen with
      | some (d, 2, true) => updFin (closeWindow s) (fun f => { f with reen := some (d, 3, false) })
      | _ => s) = _
    rw [h] <;> rfl
  refine ⟨_, hx, ?_⟩
  rw [hc]
  refine ⟨rfl, rfl, ?_, memoriesKept_of_eq rfl rfl⟩
  have hlen : (clustersOf s.fin.reenNear).length = 16 * s.fin.reenNear.length := by
    rw [clustersOf, List.length_flatMap]
    simp [Nat.mul_comm]
  simp [updFin, finderBroadcast, hlen]
theorem settleTimeout_answers {w : Bool} (h : s.fin.reen = some (d, 1, w)) : answers .reenergiseSettleTimeout s (fun t =>
    t.fin.reen = none ∧ (siteSt t d).powered = false ∧ siteStateOf t d = 0 ∧ ∃ e ∈ t.events, e.code = 0x1032#16) := by
  have hx : exec .reenergiseSettleTimeout s = .next (endReen s 4 0) := by
    change Host.Outcome.next (match s.fin.reen with | some (_, 1, _) => endReen s 4 0 | _ => s) = _
    rw [h] <;> rfl
  obtain ⟨h1, h2, h3, h4, -⟩ := endReen_ended (reason := 4) h (show 0 < 16 by decide)
  exact ⟨_, hx, h1, h2, h3, h4⟩

/-! The return of the site. -/

/-- Fences have been lifted: no site's bit is set that was not. -/
structure Lifted (s t : State) : Prop where
  frame : t = { s with cores := t.cores, routers := t.routers, clusters := t.clusters, stw := t.stw }
  clear : ∀ k, bitOf (kreg s k 0x40) 0 = false → bitOf (kreg t k 0x40) 0 = false
theorem lifted_refl (s : State) : Lifted s s := ⟨rfl, fun _ h => h⟩
theorem Lifted.trans (h : Lifted s t) (g : Lifted t u) : Lifted s u := ⟨by rw [g.frame, h.frame], fun k hk => g.clear k (h.clear k hk)⟩
theorem lifted_of (hf : t = { s with cores := t.cores, routers := t.routers, stw := t.stw }) : Lifted s t :=
  ⟨by rw [hf], fun k h => by rw [hf]; exact h⟩
theorem bitOf_clear (f j : Nat) : bitOf (f - (f &&& 2 ^ j)) 0 = (bitOf f 0 && decide (j ≠ 0)) := by
  have hle := Nat.and_le_left (n := f) (m := 2 ^ j)
  have h0 : (f &&& 2 ^ j) % 2 = if j = 0 then f % 2 else 0 := by
    split
    · next h => rw [h, Nat.pow_zero, Nat.and_one_is_mod, Nat.mod_mod]
    · next h =>
      obtain ⟨i, rfl⟩ := Nat.exists_eq_succ_of_ne_zero h
      rw [← Nat.and_one_is_mod, Nat.and_assoc, Nat.and_one_is_mod, Nat.pow_succ, Nat.mul_mod_left, Nat.and_zero]
  have hb : ∀ x, bitOf x 0 = (x % 2 == 1) := fun x => by rw [bitOf, Nat.pow_zero, Nat.div_one]
  rw [hb, hb]
  split at h0 <;> rename_i h
  · subst h
    rw [decide_eq_false (by simp), Bool.and_false, beq_eq_false_iff_ne]
    omega
  · rw [decide_eq_true (by exact h), Bool.and_true]
    congr 1
    omega
theorem lifted_clearBit (s : State) (k j : Nat) : Lifted s (setKreg s k 0x40 (kreg s k 0x40 - (kreg s k 0x40 &&& 2 ^ j))) := by
  refine ⟨rfl, fun i hi => ?_⟩
  by_cases e : i = k
  · subst e
    rw [kreg_setKreg_self, bitOf_field _ (Nat.le_refl 0) (Nat.le_refl 0), bitsOf_mod _ (by decide), ← bitOf_field _ (Nat.le_refl 0) (Nat.le_refl 0),
      bitOf_clear, hi]
    rfl
  · rw [kreg_setKreg_ne _ _ _ _ _ e]
    exact hi
/-- The bit of a cluster whose own bit is cleared. -/
theorem clearBit_clears (s : State) (k : Nat) :
    bitOf (kreg (setKreg s k 0x40 (kreg s k 0x40 - (kreg s k 0x40 &&& 1))) k 0x40) 0 = false := by
  rw [kreg_setKreg_self, bitOf_field _ (Nat.le_refl 0) (Nat.le_refl 0), bitsOf_mod _ (by decide), ← bitOf_field _ (Nat.le_refl 0) (Nat.le_refl 0)]
  exact (bitOf_clear _ 0).trans (Bool.and_false _)
theorem openCore_lifted (s : State) (c : Nat) : Lifted s (openCore s c) :=
  (lifted_of rfl).trans ((lifted_clearBit (setRreg s c 0x4C8 (rreg s c 0x4C8 - (rreg s c 0x4C8 &&& 1))) (clusterOf c) (16 + coreIn c)).trans
    (lifted_of rfl))
theorem reopenLink_lifted (s : State) (e : Nat × Nat) : Lifted s (reopenLink s e) := by
  have hb : Lifted s (bothEnds s e.1 e.2 false) := by
    refine lifted_of ?_
    unfold bothEnds setLinkDown
    extract_lets
    split <;> rfl
  unfold reopenLink
  extract_lets
  split
  · exact lifted_refl s
  · exact hb
/-- The bits of a site are cleared, one cluster after another. -/
def clearSite (s : State) (d : Nat) (l : List Nat) : State :=
  l.foldl (fun s i => setKreg s (16 * d + i) 0x40 (kreg s (16 * d + i) 0x40 - (kreg s (16 * d + i) 0x40 &&& 1))) s
theorem clearSite_lifted (d : Nat) (l : List Nat) (s : State) : Lifted s (clearSite s d l) :=
  foldl_rel lifted_refl Lifted.trans (fun s i => lifted_clearBit s (16 * d + i) 0) l s
theorem clearSite_clears (d i : Nat) (l : List Nat) (s : State) (h : i ∈ l) : bitOf (kreg (clearSite s d l) (16 * d + i) 0x40) 0 = false := by
  induction l generalizing s with
  | nil => exact absurd h List.not_mem_nil
  | cons j l ih =>
    change bitOf (kreg (clearSite (setKreg s (16 * d + j) 0x40 (kreg s (16 * d + j) 0x40 - (kreg s (16 * d + j) 0x40 &&& 1))) d l) _ _) 0 = _
    by_cases hl : i ∈ l
    · exact ih _ hl
    · have hs := clearBit_clears s (16 * d + j)
      rw [← (List.mem_cons.1 h).resolve_right hl] at hs ⊢
      exact (clearSite_lifted d l _).clear _ hs
/-- The fences of a site's clusters are lifted, and its cores open. -/
def openFenced (s : State) (d : Nat) (l : List Nat) : State :=
  l.foldl (fun s u =>
    (coresOf (16 * d + uCluster u)).foldl (fun s c => if fenced s (coreUnit c 0 0) then s else openCore s c)
      (setKreg s (16 * d + uCluster u) 0x40 (kreg s (16 * d + uCluster u) 0x40 - (kreg s (16 * d + uCluster u) 0x40 &&& 2)))) s
theorem openFenced_lifted (d : Nat) (l : List Nat) (s : State) : Lifted s (openFenced s d l) := by
  refine foldl_rel lifted_refl Lifted.trans (fun s u => (lifted_clearBit s (16 * d + uCluster u) 1).trans ?_) l s
  refine foldl_rel lifted_refl Lifted.trans (fun s c => ?_) _ _
  split
  · exact lifted_refl s
  · exact openCore_lifted s c
theorem liftSite_lifts (s : State) (d : Nat) : Lifted s (liftSite s d) ∧ siteFenced (liftSite s d) d = false := by
  obtain ⟨v, l, hv, he⟩ : ∃ v l, Lifted s v ∧ liftSite s d
      = (facingPorts d).foldl reopenLink (openFenced (clearSite v d (List.range 16)) d l) := ⟨updStw s _, _, lifted_of rfl, rfl⟩
  have hc := clearSite_clears d 0 (List.range 16) v (List.mem_range.2 (by decide))
  have hl := clearSite_lifted d (List.range 16) v
  rw [he]
  generalize clearSite v d (List.range 16) = w at hc hl
  have hr := (openFenced_lifted d l w).trans (foldl_rel lifted_refl Lifted.trans reopenLink_lifted (facingPorts d) (openFenced w d l))
  refine ⟨hv.trans (hl.trans hr), ?_⟩
  rw [siteFenced, Nat.mul_comm]
  exact hr.clear _ hc
/-- The site is in its partition again, or in none. -/
def rejoinSite (s : State) (d : Nat) : State :=
  match rectPart s d with
  | some p => joinSite s d p
  | none => updSite s d (fun t => { t with lastPart := none })
theorem rejoinSite_frame (s : State) (d : Nat) : onlySites s (rejoinSite s d) := by
  unfold rejoinSite
  split
  · exact joinSite_frame ..
  · rfl
theorem Recoupled.siteFenced (h : Recoupled s t) (d : Nat) : siteFenced t d = Machine.siteFenced s d := by
  have hc : t.clusters = s.clusters := (congrArg State.clusters h.frame :)
  rw [Machine.siteFenced, Machine.siteFenced, kreg, kreg, clOf, hc]
  rfl
theorem Recoupled.stateOf (h : Recoupled s t) (d : Nat) : siteStateOf t d = siteStateOf s d := by
  have hc : t.ioRegs = s.ioRegs := (congrArg State.ioRegs h.frame :)
  rw [siteStateOf, siteStateOf, sitePwr, sitePwr, ireg, ireg, hc]
theorem siteReturned (hf : siteFenced s d = false) (hr : s.fin.reen = none) (h : t = recouple (finderEvent (setSiteState s d 1) 0x1031 0 (dieUnit d 0)
    [BitVec.ofNat 8 d])) : t.fin.reen = none ∧ siteStateOf t d = 1 ∧ siteFenced t d = false ∧ ∃ e ∈ t.events, e.code = 0x1031#16 := by
  have hst := siteStateOf_set s d 1 (by decide)
  have hg := (raised_finderEvent (setSiteState s d 1) 0x1031 0 (dieUnit d 0) [BitVec.ofNat 8 d]).mem
  have hst' : siteStateOf (finderEvent (setSiteState s d 1) 0x1031 0 (dieUnit d 0) [BitVec.ofNat 8 d]) d = 1 := hst
  have hf' : siteFenced (finderEvent (setSiteState s d 1) 0x1031 0 (dieUnit d 0) [BitVec.ofNat 8 d]) d = false := hf
  have hr' : (finderEvent (setSiteState s d 1) 0x1031 0 (dieUnit d 0) [BitVec.ofNat 8 d]).fin.reen = none := hr
  generalize finderEvent (setSiteState s d 1) 0x1031 0 (dieUnit d 0) [BitVec.ofNat 8 d] = v at h hg hst' hf' hr'
  have hc := recouple_recoupled v
  rw [← h] at hc
  have hfin : t.fin = v.fin := (congrArg State.fin hc.frame :)
  exact ⟨hfin ▸ hr', hc.stateOf d ▸ hst', hc.siteFenced d ▸ hf', hc.events ▸ hg⟩
theorem reenergiseDone_clear {w : Bool} (h : s.fin.reen = some (d, 3, w)) : answers (.reenergiseDone []) s (fun t =>
    t.fin.reen = none ∧ siteStateOf t d = 1 ∧ siteFenced t d = false ∧ ∃ e ∈ t.events, e.code = 0x1031#16) := by
  obtain ⟨hl, hc⟩ := liftSite_lifts (updFin s (fun f => { f with reen := none })) d
  have hr : (updFin s (fun f => { f with reen := none })).fin.reen = none := rfl
  refine ⟨recouple (finderEvent (setSiteState (rejoinSite (liftSite (updFin s (fun f => { f with reen := none })) d) d) d 1) 0x1031 0
    (dieUnit d 0) [BitVec.ofNat 8 d]), ?_, ?_⟩
  · change execReenergiseDone [] s = _
    rw [execReenergiseDone, h]
    rfl
  · generalize updFin s (fun f => { f with reen := none }) = u at *
    generalize liftSite u d = v at *
    have hv : v.fin.reen = none := (congrArg (fun s : State => s.fin.reen) hl.frame).trans hr
    have hj := rejoinSite_frame v d
    unfold onlySites at hj
    generalize rejoinSite v d = x at *
    have hx : x.clusters = v.clusters := (congrArg State.clusters hj :)
    refine siteReturned ?_ ((congrArg (fun s : State => s.fin.reen) hj).trans hv) rfl
    rw [siteFenced, kreg, clOf, hx]
    exact hc
/-- The cores that failed the test are reported. -/
def reportFailed (s : State) (l : List Nat) : State := l.foldl (fun s c => raise s 0x5032 2 (coreUnit c 0 0) (clusterOf c) []) s
theorem reportFailed_frame (l : List Nat) (s : State) : reportFailed s l = { s with events := (reportFailed s l).events } :=
  foldl_rel (R := fun s t => t = { s with events := t.events }) (fun _ => rfl) (fun h g => by rw [g, h]) (fun _ _ => rfl) l s
theorem reportFailed_raises (c : Nat) (l : List Nat) (s : State) : ∃ e ∈ (reportFailed s (c :: l)).events, e.code = 0x5032#16 := by
  obtain ⟨e, hm, he⟩ : ∃ e ∈ (raise s 0x5032 2 (coreUnit c 0 0) (clusterOf c) []).events, e.code = 0x5032#16 :=
    ⟨_, List.mem_append_right _ (List.mem_singleton_self _), rfl⟩
  have hp : (raise s 0x5032 2 (coreUnit c 0 0) (clusterOf c) []).events
      <+: (reportFailed (raise s 0x5032 2 (coreUnit c 0 0) (clusterOf c) []) l).events :=
    foldl_rel (R := fun s t => s.events <+: t.events) (fun _ => List.prefix_refl _) (fun h g => h.trans g) (fun _ _ => List.prefix_append ..) l _
  exact ⟨e, hp.subset hm, he⟩
theorem reenergiseDone_failed {w : Bool} (h : s.fin.reen = some (d, 3, w)) (x : Fin 256) (xs : List (Fin 256)) :
    answers (.reenergiseDone (x :: xs)) s (fun t =>
      t.fin.reen = none ∧ siteStateOf t d = 0 ∧ (siteSt t d).powered = false ∧ ∃ e ∈ t.events, e.code = 0x5032#16) := by
  have hx : exec (.reenergiseDone (x :: xs)) s
      = .next (endReen (reportFailed s ((x :: xs).map (fun i => coreAt d (i.val / 16) (i.val % 16)))) 5 0) := by
    change execReenergiseDone (x :: xs) s = _
    rw [execReenergiseDone, h]
    rfl
  refine ⟨_, hx, ?_⟩
  rw [List.map_cons]
  obtain ⟨e, hm, he⟩ := reportFailed_raises (coreAt d (x.val / 16) (x.val % 16)) (xs.map (fun i => coreAt d (i.val / 16) (i.val % 16))) s
  have hf := reportFailed_frame (coreAt d (x.val / 16) (x.val % 16) :: xs.map (fun i => coreAt d (i.val / 16) (i.val % 16))) s
  generalize reportFailed s (coreAt d (x.val / 16) (x.val % 16) :: xs.map (fun i => coreAt d (i.val / 16) (i.val % 16))) = v at *
  obtain ⟨h1, h2, h3, -, h5⟩ := endReen_ended (reason := 5) ((congrArg (fun s : State => s.fin.reen) hf).trans h) (show 0 < 16 by decide)
  exact ⟨h1, h3, h2, e, h5.subset hm, he⟩
theorem reenergise_idle (h : s.fin.reen = none) : leaves .reenergiseWindowClose s ∧ leaves .reenergiseSettleTimeout s
    ∧ leaves (.reenergiseDone []) s := by
  refine ⟨?_, ?_, ?_⟩
  · change execReenergiseWindowClose s = _
    rw [execReenergiseWindowClose, h]
  · change execReenergiseSettleTimeout s = _
    rw [execReenergiseSettleTimeout, h]
  · change execReenergiseDone [] s = _
    rw [execReenergiseDone, h]
end

end Sys2Proof.Machine
end

section
/-! PROOF. The rail of a cluster (R400, R424 to R429): lost phases, droops and the AVS loop. -/

namespace Sys2Proof.Machine

section
variable {s t u : State} {k d : Nat}

/-! Registers. -/

theorem clOf_setKreg_lth (s : State) (k off v j : Nat) : (clOf (setKreg s k off v) j).lth = (clOf s j).lth
    ∧ (clOf (setKreg s k off v) j).coolSince = (clOf s j).coolSince ∧ (clOf (setKreg s k off v) j).clocksOff = (clOf s j).clocksOff
    ∧ (clOf (setKreg s k off v) j).slackHigh = (clOf s j).slackHigh := by
  rw [setKreg, clOf_updCl]
  split
  · next e => rw [e]; exact ⟨rfl, rfl, rfl, rfl⟩
  · exact ⟨rfl, rfl, rfl, rfl⟩
/-- What grants leave of a cluster: its registers but for 0x28, its thermal limit and its clocks. -/
structure Granting (s t : State) : Prop where
  regs : ∀ j off, off ≠ 0x28 → kreg t j off = kreg s j off
  lth : ∀ j, (clOf t j).lth = (clOf s j).lth
  cool : ∀ j, (clOf t j).coolSince = (clOf s j).coolSince
theorem granting_refl (s : State) : Granting s s := ⟨fun _ _ _ => rfl, fun _ => rfl, fun _ => rfl⟩
theorem Granting.trans (h : Granting s t) (g : Granting t u) : Granting s u :=
  ⟨fun j off ho => (g.regs j off ho).trans (h.regs j off ho), fun j => (g.lth j).trans (h.lth j), fun j => (g.cool j).trans (h.cool j)⟩
theorem granting_setKreg (s : State) (k v : Nat) : Granting s (setKreg s k 0x28 v) := by
  refine ⟨fun j off ho => ?_, fun j => (clOf_setKreg_lth ..).1, fun j => (clOf_setKreg_lth ..).2.1⟩
  by_cases e : j = k
  · rw [e, kreg_setKreg_off _ _ _ _ ho]
  · rw [kreg_setKreg_ne _ _ _ _ _ e]
theorem granting_setCl (s : State) (k : Nat) {v : ClusterState} (hr : v.regs = (clOf s k).regs) (hl : v.lth = (clOf s k).lth)
    (hc : v.coolSince = (clOf s k).coolSince) : Granting s (setCl s k v) := by
  refine ⟨fun j off _ => ?_, fun j => ?_, fun j => ?_⟩
  · rw [kreg, kreg, clOf_setCl]
    split
    · next e => rw [hr, e]
    · rfl
  all_goals
    rw [clOf_setCl]
    split
    · next e => simp only [hl, hc, e]
    · rfl
theorem granting_bumpFreeK (s : State) (k hi lo : Nat) : Granting s (bumpFreeK s k 0x28 hi lo) :=
  have h := granting_setKreg s k (bumpField (kreg s k 0x28) hi lo (Config.freeWord s.free).toNat)
  ⟨h.regs, h.lth, h.cool⟩
theorem granting_giveGrants (k : Nat) : ∀ (n : Nat) (s : State), Granting s (giveGrants n s k)
  | 0, s => granting_refl s
  | n + 1, s => by
    rw [giveGrants]
    extract_lets c
    split
    · exact granting_refl s
    · split
      · exact granting_refl s
      · next m _ =>
        have hgive : Granting s (setCl s k { clOf s k with
            grants := (clOf s k).grants ++ [m], waiting := (clOf s k).waiting.erase m, rr := (m.1 + 1) % 64 }) :=
          granting_setCl s k rfl rfl rfl
        refine Granting.trans ?_ ((granting_bumpFreeK _ k 63 32).trans (granting_giveGrants k n _))
        split
        · exact hgive.trans (granting_setKreg _ k _)
        · exact hgive
theorem granting_regrant (s : State) (k : Nat) : Granting s (regrant s k) := by
  unfold regrant
  split
  · exact granting_giveGrants k 64 s
  · exact granting_refl s
/-- LOCAL follows the thermal limit and the phases. -/
theorem setLocal_effect (s : State) (k : Nat) : bitsOf (kreg (setLocal s k) k 0x20) 6 0
      = min (clOf s k).lth (if bitCount (bitsOf (kreg s k 0x58) 19 16) 4 = 0 then 64 else 48)
    ∧ (∀ off, off ≠ 0x28 → off ≠ 0x20 → kreg (setLocal s k) k off = kreg s k off)
    ∧ (clOf (setLocal s k) k).lth = (clOf s k).lth ∧ (clOf (setLocal s k) k).coolSince = (clOf s k).coolSince := by
  unfold setLocal
  extract_lets lost v
  have hg := granting_regrant (setKreg s k 0x20 (setBits (kreg s k 0x20) 6 0 v)) k
  obtain ⟨hl, hc, -⟩ := clOf_setKreg_lth s k 0x20 (setBits (kreg s k 0x20) 6 0 v) k
  refine ⟨?_, fun off h28 h20 => (hg.regs k off h28).trans (kreg_setKreg_off _ _ _ _ h20), (hg.lth k).trans hl, (hg.cool k).trans hc⟩
  rw [hg.regs k 0x20 (by decide), kreg_setKreg_self, bitsOf_mod _ (by decide), bitsOf_setBits _ _ (by decide)]
  have hv : v ≤ 64 := by
    refine (Nat.min_le_right ..).trans ?_
    split <;> decide
  exact Nat.mod_eq_of_lt (by omega)

theorem onlyGrants_memories (h : onlyGrants s t k) : memoriesKept s t := by
  have hf := h.1
  exact ⟨fun c => by rw [hf]; rfl, h.vaults⟩

/-! Fences and scratchpads. -/

theorem closeCore_spads (s : State) (c : Nat) : spadsKept s (closeCore s c) := (haltSeq_kept s c).spads
theorem bothEnds_spads (s : State) (r p : Nat) (down : Bool) : spadsKept s (bothEnds s r p down) := by
  unfold bothEnds
  extract_lets v
  split <;> exact fun _ => rfl
theorem noteFence_spads (s : State) (u cause : Nat) : spadsKept s (noteFence s u cause) := by
  unfold noteFence
  extract_lets _ _ _ v w
  have hw : w.cores = s.cores := by
    simp only [w, v]
    split <;> rfl
  intro c
  rw [coreOf, coreOf]
  split
  · rw [finderBroadcast, hw]
  · rw [hw]
theorem spadsKept_foldl {α : Type} {f : State → α → State} (h : ∀ s a, spadsKept s (f s a)) (l : List α) (s : State) :
    spadsKept s (l.foldl f s) := foldl_rel (R := spadsKept) (fun _ _ => rfl) spadsKept_trans h l s
theorem fenceSite_spads (s : State) (d cause : Nat) : spadsKept s (fenceSite s d cause) := by
  unfold fenceSite
  split
  · exact fun _ => rfl
  · extract_lets v w
    have hw : spadsKept v w := spadsKept_foldl (f := fun s k => setFenceBit s (d * 16 + k) 0) (fun _ _ _ => rfl) _ v
    clear_value w
    exact spadsKept_trans (noteFence_spads s (dieUnit d 0) cause) (spadsKept_trans hw (spadsKept_foldl (fun s (e : Nat × Nat) => bothEnds_spads s e.1 e.2 true) _ w))
theorem fenceCluster_spads (s : State) (k cause : Nat) : spadsKept s (fenceCluster s k cause) := by
  unfold fenceCluster
  split
  · exact fun _ => rfl
  · split
    · exact fenceSite_spads s _ _
    · extract_lets v w
      have hw : spadsKept s w := spadsKept_trans (noteFence_spads s (clusterUnit k 0) cause)
        (spadsKept_foldl (s := setFenceBit v k 1) (fun t c => closeCore_spads t c) (coresOf k))
      split
      · exact spadsKept_trans hw (fenceSite_spads w _ _)
      · exact hw
theorem clusterUnit_fields : ∀ k, k < 1024 → uIsLink (clusterUnit k 0) = false ∧ uScope (clusterUnit k 0) = 1
    ∧ uDie (clusterUnit k 0) = k / 16 ∧ uCluster (clusterUnit k 0) = k % 16 := by decide +kernel
theorem fenceAll_spads (s : State) (cause : Nat) (hk : k < 1024) : spadsKept s (fenceAll s (clusterUnit k 0) cause) := by
  obtain ⟨hl, hs, hu, hc⟩ := clusterUnit_fields k hk
  have hf : fenceUnit s (clusterUnit k 0) cause = fenceCluster s k cause := by
    simp only [fenceUnit, hl, hs, hu, hc]
    rw [if_neg (by omega), show k / 16 * 16 + k % 16 = k by omega]
    rfl
  rw [fenceAll, hf]
  refine spadsKept_trans (fenceCluster_spads s k cause) (spadsKept_foldl (fun t p => ?_) _ _)
  split
  · exact restartBegin_spads t p _
  · exact fun _ => rfl
theorem windowEvents_spads (old s : State) : spadsKept s (windowEvents old s) := by
  refine spadsKept_foldl (fun t p => spadsKept_foldl (fun u n => ?_) _ t) _ s
  split <;> exact fun _ => rfl

/-! Lost phases. -/

/-- A rail that has stopped: its clocks are off, and bits 4 and 3 of its register say how. -/
def railStopped (s : State) (k v : Nat) : State :=
  setKreg (updCl s k (fun c => { c with clocksOff := true })) k 0x58
    (setBits (kreg (updCl s k (fun c => { c with clocksOff := true })) k 0x58) 4 3 v)
/-- A cluster whose logic has lost its contents. -/
def logicLost (s : State) (k : Nat) : State :=
  (clusterFacing k).foldl severLink { s with
    cores := s.cores.filter (fun e => clusterOf e.1 != k)
    routers := s.routers.map (fun e => if e.1 < 16384 && clusterOf e.1 == k then (e.1, routerDark e.2) else e)
    ccs := s.ccs.filter (fun e => e.1 != k)
    mesh := s.mesh.filter (fun h => !(decide (h.router < 16384) && clusterOf h.router == k)) }
/-- The report and the fence of a stopped cluster. -/
def railReported (s : State) (k code : Nat) : State :=
  let t := windowEvents (finderEvent s code 2 (clusterUnit k 0) []) (fenceAll (finderEvent s code 2 (clusterUnit k 0) []) (clusterUnit k 0) code)
  if siteFenced t (k / 16) then t else (clusterFacing k).foldl (fun s e => bothEnds s e.1 e.2 true) t
theorem loseCluster_eq (s : State) (k : Nat) : loseCluster s k false = railReported (railStopped s k 2) k 0x1021
    ∧ loseCluster s k true = railReported (logicLost (railStopped s k 1) k) k 0x1022 := ⟨rfl, rfl⟩
theorem railStopped_stops (s : State) (k v : Nat) : (clOf (railStopped s k v) k).clocksOff = true
    ∧ bitsOf (kreg (railStopped s k v) k 0x58) 19 16 = bitsOf (kreg s k 0x58) 19 16 := by
  have hr : kreg (updCl s k (fun c => { c with clocksOff := true })) k 0x58 = kreg s k 0x58 := by
    rw [kreg, kreg, clOf_updCl_self]
  constructor
  · rw [railStopped, (clOf_setKreg_lth ..).2.2.1, clOf_updCl_self]
  · rw [railStopped, kreg_setKreg_self, bitsOf_mod _ (by decide), bitsOf_setBits_above _ _ (by decide) (by decide), hr]
theorem logicLost_loses (s : State) (k : Nat) : (logicLost s k).clusters = s.clusters
    ∧ ∀ x, clusterOf x = k → (coreOf (logicLost s k) x).spad = Mem.empty := by
  unfold logicLost
  generalize hv : ({ s with cores := _, routers := _, ccs := _, mesh := _ } : State) = v
  have hf := onlyMesh_foldl severLink severLink_frame (clusterFacing k) v
  unfold onlyMesh at hf
  generalize (clusterFacing k).foldl severLink v = w at *
  refine ⟨?_, fun x hx => ?_⟩
  · rw [hf, ← hv]
  · have hc : w.cores = s.cores.filter (fun e => clusterOf e.1 != k) := by rw [hf, ← hv]
    have hn : lookupN w.cores x = none := by
      rw [hc, lookupN_filter_key (fun c => clusterOf c != k) x s.cores, if_neg (by simp [hx])]
    rw [coreOf, getN, hn]
    rfl
theorem railReported_reports (s : State) (hk : k < 1024) (code : Nat) : Railed s (railReported s k code) ∧ spadsKept s (railReported s k code)
    ∧ ∃ e ∈ (railReported s k code).events, e.code = BitVec.ofNat 16 code := by
  unfold railReported
  obtain ⟨e, hm, he⟩ := (raised_finderEvent s code 2 (clusterUnit k 0) []).mem
  have hr : Railed s (finderEvent s code 2 (clusterUnit k 0) []) := (railed_refl s).congr rfl rfl
  have hs : spadsKept s (finderEvent s code 2 (clusterUnit k 0) []) := fun _ => rfl
  generalize finderEvent s code 2 (clusterUnit k 0) [] = v at *
  have h1 := (hr.fenceAll (u := clusterUnit k 0) (cause := code)).windowEvents (old := v)
  have h2 := (onward_refl v).fenceAll (u := clusterUnit k 0) (cause := code) |>.windowEvents (old := v)
  have h3 : spadsKept v (windowEvents v (fenceAll v (clusterUnit k 0) code)) :=
    spadsKept_trans (fenceAll_spads v code hk) (windowEvents_spads v _)
  generalize windowEvents v (fenceAll v (clusterUnit k 0) code) = w at *
  dsimp only
  split
  · exact ⟨h1, spadsKept_trans hs h3, e, h2.events.subset hm, he⟩
  · exact ⟨h1.foldl fun _ ht => ht.bothEnds, spadsKept_trans hs (spadsKept_trans h3
      (spadsKept_foldl (fun s (e : Nat × Nat) => bothEnds_spads s e.1 e.2 true) _ w)), e,
      (h2.foldl (f := fun s e => bothEnds s e.1 e.2 true) (l := clusterFacing k) fun _ ht => ht.bothEnds).events.subset hm, he⟩
/-- The phases that are out after more have failed. -/
def phasesLost (v : Nat) (ps : List (Fin 4)) : Nat := ps.foldl (fun m p => m ||| 2 ^ p.val) (bitsOf v 19 16)
theorem phasesLost_lt (v : Nat) (ps : List (Fin 4)) : phasesLost v ps < 2 ^ 4 := by
  have h : ∀ (l : List (Fin 4)) (m : Nat), m < 2 ^ 4 → l.foldl (fun m p => m ||| 2 ^ p.val) m < 2 ^ 4 := by
    intro l
    induction l with
    | nil => exact fun _ h => h
    | cons p l ih => exact fun m hm => ih _ (Nat.or_lt_two_pow hm (Nat.pow_lt_pow_right (by decide) p.isLt))
  exact h ps _ (bitsOf_lt v 19 16)
/-- The register of a rail that has lost phases, and its doorbell. -/
def phasesNoted (s : State) (k lost cause : Nat) : State :=
  let s := setKreg s k 0x58 (setBits (setBits (kreg s k 0x58) 19 16 lost) 15 12 (cause + 1))
  doorbellAt s k 0x041 (bitsOf (kreg s k 0x58) 19 12)
theorem phasesNoted_notes (s : State) (k : Nat) {lost : Nat} (cause : Fin 3) (hl : lost < 2 ^ 4) :
    bitsOf (kreg (phasesNoted s k lost cause.val) k 0x58) 19 16 = lost
      ∧ bitsOf (kreg (phasesNoted s k lost cause.val) k 0x58) 15 12 = cause.val + 1
      ∧ (clOf (phasesNoted s k lost cause.val) k).lth = (clOf s k).lth ∧ memoriesKept s (phasesNoted s k lost cause.val) := by
  have hr : kreg (phasesNoted s k lost cause.val) k 0x58
      = kreg (setKreg s k 0x58 (setBits (setBits (kreg s k 0x58) 19 16 lost) 15 12 (cause.val + 1))) k 0x58 := rfl
  have hm : memoriesKept s (setKreg s k 0x58 (setBits (setBits (kreg s k 0x58) 19 16 lost) 15 12 (cause.val + 1))) :=
    memoriesKept_setKreg ..
  refine ⟨?_, ?_, (clOf_setKreg_lth ..).1, memoriesKept_trans hm (memoriesKept_of_eq rfl rfl)⟩
  · rw [hr, kreg_setKreg_self, bitsOf_mod _ (by decide), bitsOf_setBits_above _ _ (by decide) (by decide), bitsOf_setBits _ _ (by decide)]
    exact Nat.mod_eq_of_lt hl
  · rw [hr, kreg_setKreg_self, bitsOf_mod _ (by decide), bitsOf_setBits _ _ (by decide)]
    have := cause.isLt
    exact Nat.mod_eq_of_lt (by omega)
theorem phaseLost_exec (cl : ClusterId) (ps : List (Fin 4)) (c : Fin 3) (s : State) : exec (.phaseLost cl ps c) s
    = .next (if !(siteSt s (cl.val / 16)).powered || phasesLost (kreg s cl.val 0x58) ps = bitsOf (kreg s cl.val 0x58) 19 16 then s
      else
        let n := bitCount (phasesLost (kreg s cl.val 0x58) ps) 4
        let t := phasesNoted s cl.val (phasesLost (kreg s cl.val 0x58) ps) c.val
        if n = 1 then raise (setLocal t cl.val) 0x1020 1 (clusterUnit cl.val 0) cl.val []
        else if n = 2 then loseCluster t cl.val false
        else if bitOf (kreg s cl.val 0x58) 3 then t
        else loseCluster t cl.val true) := rfl
theorem phaseLost_answers (cl : ClusterId) (ps : List (Fin 4)) (c : Fin 3) (hp : (siteSt s (cl.val / 16)).powered = true) :
    (let lost := phasesLost (kreg s cl.val 0x58) ps;
      (lost = bitsOf (kreg s cl.val 0x58) 19 16 → leaves (.phaseLost cl ps c) s)
      ∧ (lost ≠ bitsOf (kreg s cl.val 0x58) 19 16 → bitCount lost 4 = 1 → answers (.phaseLost cl ps c) s (fun t => memoriesKept s t
          ∧ bitsOf (kreg t cl.val 0x58) 19 16 = lost ∧ bitsOf (kreg t cl.val 0x58) 15 12 = c.val + 1
          ∧ bitsOf (kreg t cl.val 0x20) 6 0 = min (clOf s cl.val).lth 48 ∧ ∃ e ∈ t.events, e.code = 0x1020#16))
      ∧ (lost ≠ bitsOf (kreg s cl.val 0x58) 19 16 → bitCount lost 4 = 2 → answers (.phaseLost cl ps c) s (fun t =>
          (clOf t cl.val).clocksOff = true ∧ bitsOf (kreg t cl.val 0x58) 19 16 = lost ∧ ∃ e ∈ t.events, e.code = 0x1021#16))
      ∧ (lost ≠ bitsOf (kreg s cl.val 0x58) 19 16 → 3 ≤ bitCount lost 4 → bitOf (kreg s cl.val 0x58) 3 = false →
          answers (.phaseLost cl ps c) s (fun t => (clOf t cl.val).clocksOff = true
          ∧ (∀ x, clusterOf x = cl.val → (coreOf t x).spad = Mem.empty) ∧ ∃ e ∈ t.events, e.code = 0x1022#16))) := by
  have hk := cl.isLt
  have hx := phaseLost_exec cl ps c s
  have hlt := phasesLost_lt (kreg s cl.val 0x58) ps
  generalize phasesLost (kreg s cl.val 0x58) ps = lost at *
  obtain ⟨h1, h2, h3, h4⟩ := phasesNoted_notes s cl.val c hlt
  refine ⟨fun hl => hx.trans (congrArg _ (if_pos (by simp [hl]))), fun hl hn => ⟨_, hx.trans (congrArg _ ((if_neg (by simp [hp, hl])).trans
    (if_pos hn))), ?_⟩, fun hl hn => ⟨_, hx.trans (congrArg _ ((if_neg (by simp [hp, hl])).trans ((if_neg (by omega)).trans (if_pos hn)))), ?_⟩,
    fun hl hn hd => ⟨_, hx.trans (congrArg _ ((if_neg (by simp [hp, hl])).trans ((if_neg (by omega)).trans ((if_neg (by omega)).trans
      (if_neg (by simp [hd])))))), ?_⟩⟩
  all_goals generalize phasesNoted s cl.val lost c.val = v at *
  · obtain ⟨g1, g2, -, -⟩ := setLocal_effect v cl.val
    have hm := onlyGrants_memories (setLocal_frame v cl.val)
    have hv := g2 0x58 (by decide) (by decide)
    rw [h1, if_neg (by omega), h3] at g1
    refine ⟨memoriesKept_trans h4 (memoriesKept_trans hm (memoriesKept_of_eq rfl rfl)), ?_, ?_, g1,
      _, List.mem_append_right _ (List.mem_singleton_self _), rfl⟩
    · exact (congrArg (bitsOf · 19 16) hv).trans h1
    · exact (congrArg (bitsOf · 15 12) hv).trans h2
  · obtain ⟨g1, g2⟩ := railStopped_stops v cl.val 2
    rw [(loseCluster_eq v cl.val).1]
    generalize railStopped v cl.val 2 = w at *
    obtain ⟨hr, -, he⟩ := railReported_reports w hk 0x1021
    exact ⟨(hr.clocks _).trans g1, (congrArg (bitsOf · 19 16) (hr.vcore _)).trans (g2.trans h1), he⟩
  · obtain ⟨g1, -⟩ := railStopped_stops v cl.val 1
    rw [(loseCluster_eq v cl.val).2]
    generalize railStopped v cl.val 1 = w at *
    obtain ⟨hc, hl⟩ := logicLost_loses w cl.val
    generalize logicLost w cl.val = x at *
    obtain ⟨hr, hs, he⟩ := railReported_reports x hk 0x1022
    refine ⟨(hr.clocks _).trans ?_, fun y hy => (hs y).trans (hl y hy), he⟩
    rw [clOf, hc]
    exact g1

/-! Droops. -/

/-- A field of a site's swallowing takes its value, below the sum in bits 28 to 24. -/
theorem setSwallow_effect (s : State) (d v : Nat) : (setSwallow s d v = { s with sites := (setSwallow s d v).sites })
    ∧ ∀ hi lo, hi < 24 → bitsOf (dreg (setSwallow s d v) d 0x308) hi lo = bitsOf v hi lo := by
  unfold setSwallow
  extract_lets k t n
  have h : ∀ hi lo, hi < 24 → bitsOf (dreg t d 0x308) hi lo = bitsOf v hi lo := fun hi lo hh => by
    simp only [t]
    rw [dreg_setDreg_self, bitsOf_mod _ (by omega), bitsOf_setBits_below _ _ (by decide) hh]
  have ht : t = { s with sites := t.sites } := rfl
  clear_value t
  split
  · refine ⟨?_, fun hi lo hh => ?_⟩
    · rw [ht]
      rfl
    · rw [dreg_setDreg_off _ _ _ _ (by decide)]
      exact h hi lo hh
  · exact ⟨ht, h⟩
theorem swallowDroop_effect (s : State) (d : Nat) {v : Nat} (hv : v < 32) : (swallowDroop s d v = { s with sites := (swallowDroop s d v).sites })
    ∧ bitsOf (dreg (swallowDroop s d v) d 0x308) 20 16 = v := by
  obtain ⟨hf, hb⟩ := setSwallow_effect s d (setBits (dreg s d 0x308) 20 16 v)
  refine ⟨hf, (hb 20 16 (by decide)).trans ?_⟩
  rw [bitsOf_setBits _ _ (by decide)]
  exact Nat.mod_eq_of_lt hv
/-- Bit b of a rail's register, as a droop sets it. -/
theorem railBit_set (s : State) (k : Nat) {b : Nat} (hb : b < 64) :
    bitOf (kreg (setKreg s k 0x58 (setBits (kreg s k 0x58) b b 1)) k 0x58) b = true := by
  rw [kreg_setKreg_self, bitOf_field _ (Nat.le_refl b) (Nat.le_refl b), bitsOf_mod _ hb, bitsOf_setBits _ _ (Nat.le_refl b), Nat.sub_self,
    show b + 1 - b = 1 by omega]
  rfl
theorem swallowDroop_clusters (s : State) (d : Nat) {v : Nat} (hv : v < 32) : (swallowDroop s d v).clusters = s.clusters
    ∧ (swallowDroop s d v).cores = s.cores := by
  have hf := (swallowDroop_effect s d hv).1
  exact ⟨(congrArg State.clusters hf :), (congrArg State.cores hf :)⟩
theorem kreg_doorbellAt (s : State) (i n tag k off : Nat) : kreg (doorbellAt s i n tag) k off = kreg s k off := rfl
theorem dreg_doorbellAt (s : State) (i n tag d off : Nat) : dreg (doorbellAt s i n tag) d off = dreg s d off := rfl
theorem memoriesKept_doorbellAt (s : State) (i n tag : Nat) : memoriesKept s (doorbellAt s i n tag) := memoriesKept_of_eq rfl rfl
/-- A droop that swallows clocks rings the control core. -/
theorem droopRung (s : State) (k : Nat) {v : Nat} (hv : v < 32) :
    (let x := swallowDroop (setKreg s k 0x58 (setBits (kreg s k 0x58) 7 7 1)) (k / 16) v
     let t := doorbellAt x k 0x041 (bitsOf (kreg x k 0x58) 19 12)
     memoriesKept s t ∧ bitOf (kreg t k 0x58) 7 = true ∧ bitsOf (dreg t (k / 16) 0x308) 20 16 = v) := by
  have h7 := railBit_set s k (b := 7) (by decide)
  have hm := memoriesKept_setKreg s k 0x58 (setBits (kreg s k 0x58) 7 7 1)
  generalize setKreg s k 0x58 (setBits (kreg s k 0x58) 7 7 1) = w at *
  have hb := (swallowDroop_effect w (k / 16) hv).2
  obtain ⟨hk, hc⟩ := swallowDroop_clusters w (k / 16) hv
  generalize swallowDroop w (k / 16) v = x at *
  refine ⟨memoriesKept_trans hm (memoriesKept_trans (memoriesKept_of_eq hc hk) (memoriesKept_doorbellAt ..)), ?_, ?_⟩
  · rw [kreg_doorbellAt, kreg, clOf, hk]
    exact h7
  · rw [dreg_doorbellAt]
    exact hb
theorem droop_answers (cl : ClusterId) (hp : (siteSt s (cl.val / 16)).powered = true) (hc : (clOf s cl.val).clocksOff = false) :
    answers (.droopResponse cl .below25) s (fun t => memoriesKept s t ∧ bitOf (kreg t cl.val 0x58) 7 = true
      ∧ bitsOf (dreg t (cl.val / 16) 0x308) 20 16 = 8)
    ∧ answers (.droopResponse cl .below45) s (fun t => memoriesKept s t ∧ bitOf (kreg t cl.val 0x58) 7 = true
      ∧ bitsOf (dreg t (cl.val / 16) 0x308) 20 16 = 24)
    ∧ answers (.droopResponse cl .above25) s (fun t => memoriesKept s t ∧ bitOf (kreg t cl.val 0x58) 6 = true ∧ t.sites = s.sites)
    ∧ answers (.droopResponse cl .settled) s (fun t => t = { s with sites := t.sites } ∧ bitsOf (dreg t (cl.val / 16) 0x308) 20 16 = 0) := by
  have hx : ∀ o, exec (.droopResponse cl o) s = .next (if !(siteSt s (cl.val / 16)).powered || (clOf s cl.val).clocksOff then s else _) := fun _ => rfl
  have hn : ¬ (!(siteSt s (cl.val / 16)).powered || (clOf s cl.val).clocksOff) = true := by simp [hp, hc]
  have h6 := railBit_set s cl.val (b := 6) (by decide)
  have hm : ∀ v, memoriesKept s (setKreg s cl.val 0x58 v) := memoriesKept_setKreg s cl.val 0x58
  refine ⟨⟨_, (hx _).trans (congrArg _ (if_neg hn)), droopRung s cl.val (by decide)⟩, ⟨_, (hx _).trans (congrArg _ (if_neg hn)), droopRung s cl.val (by decide)⟩,
    ⟨_, (hx _).trans (congrArg _ (if_neg hn)), ?_⟩, ⟨_, (hx _).trans (congrArg _ (if_neg hn)), swallowDroop_effect s _ (by decide)⟩⟩
  exact ⟨memoriesKept_trans (hm _) (memoriesKept_of_eq rfl rfl), h6, rfl⟩

/-! AVS. -/

theorem avsNext_lt {avs : Nat} (h : avs < 1024) (slack high : Nat) : (avsNext avs slack high).1 < 1024 := by
  unfold avsNext
  split
  · exact (Nat.min_le_left ..).trans_lt (by decide)
  · split
    · split
      · exact max_lt (by decide) (by omega)
      · exact h
    · exact h
theorem raiseSwallow_clusters (s : State) (d : Nat) : (raiseSwallow s d).clusters = s.clusters ∧ (raiseSwallow s d).cores = s.cores := by
  unfold raiseSwallow swallowStep swallowMargin
  generalize min 24 (4 * ((siteSt s d).swallowSteps + 1)) = n
  generalize hu : updSite s d (fun t => { t with swallowSteps := (siteSt s d).swallowSteps + 1 }) = u
  have hf := (setSwallow_effect u d (setBits (dreg u d 0x308) 4 0 n)).1
  have hk : u.clusters = s.clusters ∧ u.cores = s.cores := by
    rw [← hu]
    exact ⟨rfl, rfl⟩
  exact ⟨(congrArg State.clusters hf :).trans hk.1, (congrArg State.cores hf :).trans hk.2⟩
/-- The setpoint and the target after a period. -/
def avsStepped (s : State) (k : Nat) (n : Nat × Nat) : State :=
  setTarget (setKreg (updCl s k (fun c => { c with slackHigh := n.2 })) k 0x50
    (setBits (kreg (updCl s k (fun c => { c with slackHigh := n.2 })) k 0x50) 25 16 n.1)) k
theorem avsStepped_steps (s : State) (k : Nat) {n : Nat × Nat} (hn : n.1 < 1024) :
    memoriesKept s (avsStepped s k n) ∧ bitsOf (kreg (avsStepped s k n) k 0x50) 25 16 = n.1 ∧ (clOf (avsStepped s k n) k).slackHigh = n.2
      ∧ bitsOf (kreg (avsStepped s k n) k 0x58) 37 28 = min 850 (n.1 + 5 * bitsOf (kreg s k 0x50) 12 8) := by
  have h1 : kreg (updCl s k (fun c => { c with slackHigh := n.2 })) k 0x50 = kreg s k 0x50 := by
    rw [kreg, kreg, clOf_updCl_self]
  have h2 : (clOf (updCl s k (fun c => { c with slackHigh := n.2 })) k).slackHigh = n.2 := by rw [clOf_updCl_self]
  have hm : memoriesKept s (updCl s k (fun c => { c with slackHigh := n.2 })) := memoriesKept_updCl s k fun _ => rfl
  unfold avsStepped
  generalize updCl s k (fun c => { c with slackHigh := n.2 }) = u at *
  have h3 : kreg (setKreg u k 0x50 (setBits (kreg u k 0x50) 25 16 n.1)) k 0x50 = setBits (kreg s k 0x50) 25 16 n.1 % 2 ^ 64 := by
    rw [kreg_setKreg_self, h1]
  have h4 := (clOf_setKreg_lth u k 0x50 (setBits (kreg u k 0x50) 25 16 n.1) k).2.2.2.trans h2
  have hm' := memoriesKept_trans hm (memoriesKept_setKreg u k 0x50 (setBits (kreg u k 0x50) 25 16 n.1))
  generalize setKreg u k 0x50 (setBits (kreg u k 0x50) 25 16 n.1) = w at *
  have h5 : bitsOf (kreg w k 0x50) 25 16 = n.1 := by
    rw [h3, bitsOf_mod _ (by decide), bitsOf_setBits _ _ (by decide)]
    exact Nat.mod_eq_of_lt hn
  have h6 : bitsOf (kreg w k 0x50) 12 8 = bitsOf (kreg s k 0x50) 12 8 := by
    rw [h3, bitsOf_mod _ (by decide), bitsOf_setBits_below _ _ (by decide) (by decide)]
  refine ⟨memoriesKept_trans hm' (memoriesKept_setKreg ..), ?_, ?_, ?_⟩
  · rw [setTarget, kreg_setKreg_off _ _ _ _ (by decide), h5]
  · rw [setTarget, (clOf_setKreg_lth ..).2.2.2, h4]
  · rw [setTarget, kreg_setKreg_self, bitsOf_mod _ (by decide), bitsOf_setBits _ _ (by decide), h5, h6]
    exact Nat.mod_eq_of_lt (by omega)
/-- The slack and the limit of a rail's register are written. -/
def slackNoted (s : State) (k slack b : Nat) : State := setKreg s k 0x58 (setBits (setBits (kreg s k 0x58) 27 20 slack) 5 5 b)
theorem slackNoted_notes (s : State) (k b : Nat) {slack : Nat} (hs : slack < 256) : memoriesKept s (slackNoted s k slack b)
    ∧ kreg (slackNoted s k slack b) k 0x50 = kreg s k 0x50 ∧ (clOf (slackNoted s k slack b) k).slackHigh = (clOf s k).slackHigh
    ∧ bitsOf (kreg (slackNoted s k slack b) k 0x58) 27 20 = slack
    ∧ bitsOf (kreg (slackNoted s k slack b) k 0x58) 37 28 = bitsOf (kreg s k 0x58) 37 28 := by
  unfold slackNoted
  refine ⟨memoriesKept_setKreg .., kreg_setKreg_off _ _ _ _ (by decide), (clOf_setKreg_lth ..).2.2.2, ?_, ?_⟩
  · rw [kreg_setKreg_self, bitsOf_mod _ (by decide), bitsOf_setBits_above _ _ (by decide) (by decide), bitsOf_setBits _ _ (by decide)]
    exact Nat.mod_eq_of_lt hs
  · rw [kreg_setKreg_self, bitsOf_mod _ (by decide), bitsOf_setBits_above _ _ (by decide) (by decide),
      bitsOf_setBits_above _ _ (by decide) (by decide)]
/-- The report of a rail that has reached its limit. -/
def limitReported (s : State) (k v : Nat) : State :=
  doorbellAt (raiseSwallow (raise s 0x1041 1 (clusterUnit k 0) k []) (k / 16)) k 0x041 (bitsOf v 19 12)
theorem limitReported_clusters (s : State) (k v : Nat) : (limitReported s k v).clusters = s.clusters ∧ (limitReported s k v).cores = s.cores :=
  raiseSwallow_clusters (raise s 0x1041 1 (clusterUnit k 0) k []) (k / 16)
theorem avsUpdate_answers (cl : ClusterId) (b : Byte) (hp : (siteSt s (cl.val / 16)).powered = true) (hc : (clOf s cl.val).clocksOff = false)
    (hi : (ccOf s cl.val).image.isSome = true) (hpk : (ccOf s cl.val).parked = false) :
    (let n := avsNext (bitsOf (kreg s cl.val 0x50) 25 16) b.toNat (clOf s cl.val).slackHigh
     answers (.avsUpdate cl b) s (fun t => memoriesKept s t ∧ bitsOf (kreg t cl.val 0x50) 25 16 = n.1 ∧ (clOf t cl.val).slackHigh = n.2
       ∧ bitsOf (kreg t cl.val 0x58) 27 20 = b.toNat
       ∧ bitsOf (kreg t cl.val 0x58) 37 28 = min 850 (n.1 + 5 * bitsOf (kreg s cl.val 0x50) 12 8))) := by
  intro n
  have hi' : (ccOf s cl.val).image.isNone = false := by rw [← Option.not_isSome, hi]; rfl
  obtain ⟨lim, u, v, hx⟩ : ∃ (lim : Bool) (u v : Nat), exec (.avsUpdate cl b) s = .next (
      let t := slackNoted (avsStepped s cl.val n) cl.val b.toNat u
      if lim then limitReported t cl.val v else t) :=
    ⟨_, _, _, congrArg Host.Outcome.next (if_neg (by rw [hp, hc, hi', hpk]; decide))⟩
  obtain ⟨h1, h2, h3, h4⟩ := avsStepped_steps s cl.val (n := n) (avsNext_lt (bitsOf_lt _ 25 16) _ _)
  generalize avsStepped s cl.val n = w at *
  obtain ⟨g1, g2, g3, g4, g5⟩ := slackNoted_notes w cl.val u b.isLt
  generalize slackNoted w cl.val b.toNat u = x at *
  have hl := limitReported_clusters x cl.val v
  refine ⟨_, hx, ?_⟩
  dsimp only
  obtain ⟨y, hy, hk, hco⟩ : ∃ y, (if lim then limitReported x cl.val v else x) = y ∧ y.clusters = x.clusters ∧ y.cores = x.cores := by
    refine ⟨_, rfl, ?_⟩
    split
    · exact hl
    · exact ⟨rfl, rfl⟩
  rw [hy]
  have hr : ∀ off, kreg y cl.val off = kreg x cl.val off := fun off => by rw [kreg, kreg, clOf, clOf, hk]
  have hsl : (clOf y cl.val).slackHigh = (clOf x cl.val).slackHigh := by rw [clOf, clOf, hk]
  refine ⟨memoriesKept_trans h1 (memoriesKept_trans g1 (memoriesKept_of_eq hco hk)), ?_, hsl.trans (g3.trans h3), ?_, ?_⟩
  · rw [hr, g2, h2]
  · rw [hr, g4]
  · rw [hr, g5, h4]
end

/-- Settles O47: a trip opens, fences and reports the site, and what follows on the fence leaves its power, its rail and its fence bit;
each end of a re-energise opens the converter again, and its success lifts the fences; the rail's registers follow the phases, the droops
and the slack. -/
theorem sitesTripAndRailsFollow : Obligations.SitesTripAndRailsFollow := by
  unfold Obligations.SitesTripAndRailsFollow
  refine ⟨⟨fun site under s => ⟨fun hp => ⟨congrArg _ (if_pos (by simp [hp])), congrArg _ (if_pos (by simp [hp]))⟩,
      meridianUnlock_answers site, siteTrip_answers⟩, fun req site se probe s h => reEnergise_writes site.isLt h probe,
      fun s => reenergise_idle, fun s d w _ => ⟨windowClose_answers, settleTimeout_answers,
        fun h => ⟨reenergiseDone_clear h, reenergiseDone_failed h⟩⟩⟩, fun cl s => ⟨fun hp => ⟨fun ps c => ?_, fun o => ?_, fun b => ?_⟩,
      fun hp ps c => phaseLost_answers cl ps c hp, fun hp hc => ?_⟩⟩
  · exact congrArg _ (if_pos (by simp [hp]))
  · exact congrArg _ (if_pos (by simp [hp]))
  · exact congrArg _ (if_pos (by simp [hp]))
  · obtain ⟨h1, h2, h3, h4⟩ := droop_answers cl hp hc
    exact ⟨h1, h2, h3, h4, fun hi hpk b => avsUpdate_answers cl b hp hc hi hpk⟩

end Sys2Proof.Machine
end

section
/-! PROOF. Tray sensors and flow (R434 to R436, R444, R445, R451). -/

namespace Sys2Proof.Machine

section
variable {s t u : State}

/-! The coolant register. -/

theorem ite_toNat (b : Bool) (n : Nat) : (if b then n else 0) = n * b.toNat := by
  cases b <;> simp
/-- The flags of the coolant register. -/
theorem coolantFlags (p q r : Nat) (b7 b6 b5 b4 b3 b2 : Bool) {x : Nat} (hx : x = (p * 2 ^ 48 + q * 2 ^ 32 + r * 2 ^ 16
      + (if b7 then 2 ^ 7 else 0) + (if b6 then 2 ^ 6 else 0) + (if b5 then 2 ^ 5 else 0) + (if b4 then 2 ^ 4 else 0)
      + (if b3 then 2 ^ 3 else 0) + (if b2 then 0 else 4)) % 2 ^ 64) : bitOf x 7 = b7 ∧ bitOf x 5 = b5 ∧ bitOf x 4 = b4 := by
  have h2 : (if b2 then 0 else 4) = 4 * (!b2).toNat := by cases b2 <;> rfl
  rw [h2] at hx
  simp only [ite_toNat] at hx
  have h := Bool.toNat_le
  have h7 := h b7; have h6 := h b6; have h5 := h b5; have h4 := h b4; have h3 := h b3; have h2 := h (!b2)
  have hb : ∀ b : Bool, (b.toNat == 1) = b := by decide
  refine ⟨?_, ?_, ?_⟩
  · rw [bitOf, ← hb b7]
    congr 1
    omega
  · rw [bitOf, ← hb b5]
    congr 1
    omega
  · rw [bitOf, ← hb b4]
    congr 1
    omega
/-- What the coolant register says of the Finder's state. -/
structure CoolantNoted (s t : State) : Prop where
  frame : t = { s with ioRegs := t.ioRegs }
  inlet : bitOf (ireg t 64 0x1300) 7 = s.fin.inlet.isSome
  low : bitOf (ireg t 64 0x1300) 5 = s.fin.flowLow
  stop : bitOf (ireg t 64 0x1300) 4 = s.fin.stop
theorem setCoolantIn_notes (s : State) : CoolantNoted s (setCoolantIn s) := by
  obtain ⟨h7, h5, h4⟩ := coolantFlags _ _ _ _ _ _ _ _ _ (ireg_setIreg_self s 64 0x1300 _ : ireg (setCoolantIn s) 64 0x1300 = _)
  exact ⟨rfl, h7, h5, h4⟩

/-! Readings and pulses. -/

/-- What a comparison of the flows leaves alone. -/
def flowView (s : State) : NMap CoreState × NMap ClusterState × Option Rat × Option Rat × Nat × Rat × Option Nat :=
  (s.cores, s.clusters, s.fin.inlet, s.fin.outlet, s.fin.inletBad, s.fin.flow, s.fin.lastPulse)
/-- What a reading or a pulse leaves once it has been compared: FLOW_LOW may end, and the register follows. -/
structure FlowCompared (s t : State) : Prop where
  view : flowView t = flowView s
  inlet : bitOf (ireg t 64 0x1300) 7 = s.fin.inlet.isSome
  events : s.events <+: t.events
theorem compareFlow_view (s : State) : flowView (compareFlow s) = flowView s ∧ (compareFlow s).events = s.events := by
  unfold compareFlow
  split <;> exact ⟨rfl, rfl⟩
theorem inlet_of_flowView (h : flowView t = flowView s) : t.fin.inlet = s.fin.inlet := (congrArg (fun x => x.2.2.1) h :)
theorem flowCompared_noted (s : State) : FlowCompared s (setCoolantIn s) := ⟨rfl, (setCoolantIn_notes s).inlet, List.prefix_refl _⟩
theorem flowReturns_compared (h : FlowCompared s t) : FlowCompared s (flowReturns t) := by
  unfold flowReturns
  split
  · have hg := raised_finderEvent t 0x2023 0 (moduleUnit 0) []
    have hv : flowView (finderEvent t 0x2023 0 (moduleUnit 0) []) = flowView t := rfl
    generalize finderEvent t 0x2023 0 (moduleUnit 0) [] = v at hg hv
    have hw : flowView (updFin v (fun f => { f with flowLow := false })) = flowView v ∧ (updFin v (fun f => { f with flowLow := false })).events = v.events :=
      ⟨rfl, rfl⟩
    generalize updFin v (fun f => { f with flowLow := false }) = w at hw
    obtain ⟨h1, h2, -⟩ := flowCompared_noted w
    have h3 : (setCoolantIn w).events = w.events := rfl
    have hsw := (hw.1.trans hv).trans h.view
    refine ⟨h1.trans hsw, h2.trans (by rw [inlet_of_flowView hsw]), ?_⟩
    rw [h3, hw.2]
    exact h.events.trans hg.earlier
  · exact h
theorem flowCompared (s : State) : FlowCompared s (flowReturns (setCoolantIn (compareFlow s))) := by
  obtain ⟨hv, he⟩ := compareFlow_view s
  generalize compareFlow s = v at *
  obtain ⟨h1, h2, h3⟩ := flowReturns_compared (flowCompared_noted v)
  exact ⟨h1.trans hv, h2.trans (by rw [inlet_of_flowView hv]), he ▸ h3⟩
/-- The third bad reading in a row is reported. -/
def badReported (s : State) (n : Nat) : State := if n = 3 then finderEvent s 0x2024 2 (moduleUnit 0) [] else s
theorem badReported_view (s : State) (n : Nat) : flowView (badReported s n) = flowView s := by
  unfold badReported
  split <;> rfl
theorem badReported_events (s : State) (n : Nat) : s.events <+: (badReported s n).events := by
  unfold badReported
  split
  · exact (raised_finderEvent ..).earlier
  · exact List.prefix_refl _
theorem badReported_raises (s : State) {n : Nat} (hn : n = 3) : ∃ e ∈ (badReported s n).events, e.code = 0x2024#16 := by
  rw [badReported, if_pos hn]
  exact (raised_finderEvent ..).mem
theorem traySensorRead_answers (h12 : s.fin.standby12 = true) (a b : Option (BitVec 16)) :
    (let n := if (trayReading a).isSome then 0 else s.fin.inletBad + 1
     answers (.traySensorRead a b) s (fun t => t.fin.inlet = trayReading a ∧ t.fin.outlet = trayReading b ∧ t.fin.inletBad = n
       ∧ bitOf (ireg t 64 0x1300) 7 = (trayReading a).isSome ∧ t.cores = s.cores ∧ t.clusters = s.clusters
       ∧ (n = 3 → ∃ e ∈ t.events, e.code = 0x2024#16))) := by
  intro n
  obtain ⟨u, hx, hv, he⟩ : ∃ u, exec (.traySensorRead a b) s = .next (flowReturns (setCoolantIn (compareFlow u)))
      ∧ flowView u = (s.cores, s.clusters, trayReading a, trayReading b, n, s.fin.flow, s.fin.lastPulse)
      ∧ (n = 3 → ∃ e ∈ u.events, e.code = 0x2024#16) := by
    refine ⟨badReported (badReported (updFin s (fun f => { f with
        inlet := trayReading a, outlet := trayReading b, inletBad := n
        outletBad := if (trayReading b).isSome then 0 else s.fin.outletBad + 1 })) n)
      (if (trayReading b).isSome then 0 else s.fin.outletBad + 1), congrArg Host.Outcome.next (if_neg (by simp [h12])), ?_, fun hn => ?_⟩
    · rw [badReported_view, badReported_view]
      rfl
    · exact (badReported_raises _ hn).imp fun e h => ⟨(badReported_events ..).subset h.1, h.2⟩
  obtain ⟨h1, h2, h3⟩ := flowCompared u
  generalize flowReturns (setCoolantIn (compareFlow u)) = t at *
  have ht := h1.trans hv
  simp only [flowView, Prod.mk.injEq] at ht hv
  obtain ⟨g1, g2, g3, g4, g5, -, -⟩ := ht
  refine ⟨t, hx, g3, g4, g5, ?_, g1, g2, fun hn => ?_⟩
  · rw [h2, hv.2.2.1]
  · exact (he hn).imp fun e h => ⟨h3.subset h.1, h.2⟩
theorem flowPulse_answers (h12 : s.fin.standby12 = true) {low u : Nat} (hp : s.fin.lastPulse = some u) (hl : 10 ≤ low)
    (hu : u + 150000 ≤ s.units) : answers (.flowPulse low) s (fun t => t.fin.flow = pulseFlow s (s.units - u)
      ∧ t.fin.lastPulse = some s.units ∧ t.cores = s.cores ∧ t.clusters = s.clusters) := by
  have hx : exec (.flowPulse low) s = .next (flowReturns (setCoolantIn (compareFlow (updFin s (fun f => { f with
      flow := pulseFlow s (s.units - u), lastPulse := some s.units }))))) := by
    change execFlowPulse low s = _
    unfold execFlowPulse
    extract_lets early flow s1
    have hf : flow = pulseFlow s (s.units - u) := by simp only [flow, hp]
    have he : early = false := by
      simp only [early, hp, decide_eq_false_iff_not]
      omega
    rw [if_neg (by rw [he, h12]; simp; omega)]
    simp only [s1, hf]
  obtain ⟨h1, -, -⟩ := flowCompared (updFin s (fun f => { f with flow := pulseFlow s (s.units - u), lastPulse := some s.units }))
  refine ⟨_, hx, ?_⟩
  generalize flowReturns _ = t at *
  have ht : flowView t = (s.cores, s.clusters, s.fin.inlet, s.fin.outlet, s.fin.inletBad, pulseFlow s (s.units - u), some s.units) := h1
  simp only [flowView, Prod.mk.injEq] at ht
  obtain ⟨g1, g2, -, -, -, g6, g7⟩ := ht
  exact ⟨g6, g7, g1, g2⟩
theorem flowPulse_leaves {low u : Nat} (hp : s.fin.lastPulse = some u) (h : low < 10 ∨ s.units < u + 150000) : leaves (.flowPulse low) s := by
  change execFlowPulse low s = _
  unfold execFlowPulse
  extract_lets early
  have he : low < 10 ∨ early = true := h.imp_right fun h => by simp only [early, hp, decide_eq_true h]
  exact congrArg _ (if_pos (by rcases he with he | he <;> simp [he]))
theorem flowLow_answers (h12 : s.fin.standby12 = true) (hl : s.fin.flowLow = false) : answers .flowLow s (fun t =>
    t.fin.flowLow = true ∧ t.cores = s.cores ∧ bitOf (ireg t 64 0x1300) 5 = true ∧ ∃ e ∈ t.events, e.code = 0x2020#16) :=
  ⟨_, congrArg Host.Outcome.next (if_neg (by simp [h12, hl])), rfl, rfl, (setCoolantIn_notes _).low, (raised_finderEvent ..).mem⟩
theorem flowImplausible_leaves (h : heatBalance s = none) : leaves .flowImplausible s := by
  change execFlowImplausible s = _
  rw [execFlowImplausible, h]
theorem flowImplausible_answers {h : Rat} (hb : heatBalance s = some h) (hu : s.fin.useHeat = false) : answers .flowImplausible s (fun t =>
    t.fin.useHeat = true ∧ t.fin.heatFlow = h ∧ t.cores = s.cores ∧ ∃ e ∈ t.events, e.code = 0x2025#16) := by
  have hx : exec .flowImplausible s
      = .next (updFin (finderEvent s 0x2025 1 (moduleUnit 0) []) (fun f => { f with useHeat := true, heatSince := none, heatFlow := h })) := by
    change execFlowImplausible s = _
    rw [execFlowImplausible, hb]
    exact congrArg _ (if_neg (by simp [hu]))
  exact ⟨_, hx, rfl, rfl, rfl, (raised_finderEvent ..).mem⟩
end

end Sys2Proof.Machine
end

section
/-! PROOF. Hot spots, thermal resistances, the Almanac and L_th (R437 to R442, R450). -/

namespace Sys2Proof.Machine

section
variable {s t u : State} {d h : Nat} {x : HotSpot}

/-! Hot spots as they are read. -/

theorem signedTo_lt (i : Int) : signedTo 16 i < 2 ^ 16 := by
  unfold signedTo
  extract_lets c
  have h1 : (-32768 : Int) ≤ c := le_max_left _ _
  have h2 : c ≤ 32767 := max_le (by decide) (min_le_right _ _)
  split <;> omega
theorem hotOf_updHot (s : State) (d h i : Nat) (f : HotSpot → HotSpot) : hotOf (updHot s d h f) d i = if i = h then f (hotOf s d h) else hotOf s d i := by
  rw [hotOf, updHot, siteSt_updSite_self]
  split
  · next e =>
    rw [e]
    exact getN_updN_self ..
  · next e => exact getN_updN_ne _ _ e _
/-- A hot spot without what it has raised. -/
def hotForm (x : HotSpot) : HotSpot := { x with raised := [] }
/-- Site d's hot spot h has been read as x. No other of the site, no memory, no converter and no time differs. -/
structure HotRead (s t : State) (d h : Nat) (x : HotSpot) : Prop where
  memories : memoriesKept s t
  read : hotForm (hotOf t d h) = hotForm x
  others : ∀ i, i ≠ h → hotOf t d i = hotOf s d i
  powered : (siteSt t d).powered = (siteSt s d).powered
theorem HotRead.of (hs : HotRead s t d h x) (hm : memoriesKept t u) (hh : (siteSt u d).hot = (siteSt t d).hot)
    (hp : (siteSt u d).powered = (siteSt t d).powered) : HotRead s u d h x := by
  have ho : ∀ i, hotOf u d i = hotOf t d i := fun i => by rw [hotOf, hotOf, hh]
  exact ⟨memoriesKept_trans hs.memories hm, ho h ▸ hs.read, fun i hi => (ho i).trans (hs.others i hi), hp.trans hs.powered⟩
theorem hotRead_updHot (s : State) (d h : Nat) (x : HotSpot) : HotRead s (updHot s d h (fun _ => x)) d h x := by
  refine ⟨memoriesKept_of_eq rfl rfl, ?_, fun i hi => ?_, ?_⟩
  · rw [hotOf_updHot, if_pos rfl]
  · rw [hotOf_updHot, if_neg hi]
  · rw [updHot, siteSt_updSite_self]
theorem HotRead.finderEvent (hs : HotRead s t d h x) (code sev unit : Nat) (b : Bytes) : HotRead s (Machine.finderEvent t code sev unit b) d h x :=
  hs.of (memoriesKept_of_eq rfl rfl) rfl rfl
theorem HotRead.episodeEvent (hs : HotRead s t d h x) : HotRead s (Machine.episodeEvent t d h) d h x := by
  unfold Machine.episodeEvent
  extract_lets y code
  split
  · exact hs
  · refine HotRead.finderEvent ?_ ..
    obtain ⟨hm, hr, ho, hp⟩ := hs
    refine ⟨memoriesKept_trans hm (memoriesKept_of_eq rfl rfl), ?_, fun i hi => ?_, ?_⟩
    · rw [hotOf_updHot, if_pos rfl]
      exact hr
    · rw [hotOf_updHot, if_neg hi]
      exact ho i hi
    · rw [updHot, siteSt_updSite_self]
      exact hp
theorem siteSt_setDreg_own (s : State) (d e off v : Nat) : (siteSt (setDreg s d off v) e).hot = (siteSt s e).hot
    ∧ (siteSt (setDreg s d off v) e).powered = (siteSt s e).powered ∧ (siteSt (setDreg s d off v) e).limited = (siteSt s e).limited := by
  rw [setDreg, siteSt_updSite]
  split
  · next h => rw [h]; exact ⟨rfl, rfl, rfl⟩
  · exact ⟨rfl, rfl, rfl⟩
/-- The register follows what has been read. -/
theorem setThermReg_notes (s : State) {d h : Nat} {u : Rat} (hu : (hotOf s d h).used = some u) (hh : h < 16) (hp : (siteSt s d).powered = true) :
    bitsOf (kreg (setThermReg s d h) (16 * d + h) 0x60) 31 16 = tempSteps u := by
  unfold setThermReg
  extract_lets x v0 w v1
  have hw : ∀ v, bitsOf (w v 31 16 (some u)) 31 16 = tempSteps u := fun v => by
    change bitsOf (setBits v 31 16 (tempSteps u)) 31 16 = _
    rw [bitsOf_setBits _ _ (by decide)]
    exact Nat.mod_eq_of_lt (signedTo_lt _)
  have hv : bitsOf v1 31 16 = tempSteps u := by
    simp only [v1]
    rw [bitsOf_setBits_above _ _ (by decide) (by decide), show x.used = some u from hu, hw]
  clear_value v1
  rw [if_neg (by rw [hp]; decide), if_pos hh, kreg_setKreg_self, bitsOf_mod _ (by decide), hv]
theorem HotRead.setThermReg (hs : HotRead s t d h x) : HotRead s (Machine.setThermReg t d h) d h x := by
  unfold Machine.setThermReg
  extract_lets y v0 w v1
  split
  · exact hs
  · split
    · exact hs.of (memoriesKept_setKreg ..) rfl rfl
    · exact hs.of (memoriesKept_of_eq rfl rfl) (siteSt_setDreg_own ..).1 (siteSt_setDreg_own ..).2.1

/-! Limits and swallowed clocks. -/

theorem hot_of_used {v : Rat} (hu : (hotOf s d h).used = some v) : (h, hotOf s d h) ∈ (siteSt s d).hot := by
  cases hl : lookupN (siteSt s d).hot h with
  | none =>
    have hr : hotOf s d h = HotSpot.reset := by rw [hotOf, getN, hl]; rfl
    rw [hr] at hu
    exact absurd (hu : (none : Option Rat) = some v) nofun
  | some y =>
    have hy : hotOf s d h = y := by rw [hotOf, getN, hl]; rfl
    exact hy ▸ lookupN_mem hl
/-- Nothing of a site but its limit differs. -/
theorem limitSite_kept (s : State) (d : Nat) : (siteSt (limitSite s d) d).hot = (siteSt s d).hot
    ∧ (siteSt (limitSite s d) d).powered = (siteSt s d).powered ∧ (limitSite s d).clusters = s.clusters ∧ (limitSite s d).cores = s.cores := by
  unfold limitSite
  extract_lets y any atl since s1 done
  have h1 : (siteSt s1 d).hot = (siteSt s d).hot ∧ (siteSt s1 d).powered = (siteSt s d).powered ∧ s1.clusters = s.clusters ∧ s1.cores = s.cores := by
    simp only [s1]
    rw [siteSt_updSite_self]
    exact ⟨rfl, rfl, rfl, rfl⟩
  have h2 : ∀ b, (siteSt (updSite s1 d (fun t => { t with limited := b })) d).hot = (siteSt s d).hot
      ∧ (siteSt (updSite s1 d (fun t => { t with limited := b })) d).powered = (siteSt s d).powered
      ∧ (updSite s1 d (fun t => { t with limited := b })).clusters = s.clusters ∧ (updSite s1 d (fun t => { t with limited := b })).cores = s.cores := by
    intro b
    rw [siteSt_updSite_self]
    exact h1
  clear_value s1
  split
  · exact h2 true
  · split
    · exact h2 false
    · exact h1
/-- A used value at its limit limits the site. -/
theorem limitSite_limits {v : Rat} (hu : (hotOf s d h).used = some v) (hv : hotLimit h ≤ v) : (siteSt (limitSite s d) d).limited = true := by
  have hm := hot_of_used hu
  unfold limitSite
  extract_lets y any atl since s1 done
  have hat : atl = true := List.any_eq_true.2 ⟨_, hm, by simp only [hu, decide_eq_true hv]⟩
  have hany : any 2 = true := List.any_eq_true.2 ⟨_, hm, by
    simp only [hu, decide_eq_true_eq]
    linarith⟩
  have hdone : done = false := by simp only [done, since, hany, if_true]
  have hlim : (siteSt s1 d).limited = (siteSt s d).limited := by
    simp only [s1]
    rw [siteSt_updSite_self]
  clear_value s1
  split
  · have : (siteSt (updSite s1 d (fun t => { t with limited := true })) d).limited = true := by rw [siteSt_updSite_self]
    exact this
  · next hn =>
    rw [if_neg (by rw [hdone]; simp), hlim]
    simpa [hat] using hn
theorem setSwallow_own (s : State) (d v : Nat) : (siteSt (setSwallow s d v) d).hot = (siteSt s d).hot
    ∧ (siteSt (setSwallow s d v) d).powered = (siteSt s d).powered ∧ (siteSt (setSwallow s d v) d).limited = (siteSt s d).limited := by
  unfold setSwallow
  extract_lets k t n
  have ht : (siteSt t d).hot = (siteSt s d).hot ∧ (siteSt t d).powered = (siteSt s d).powered ∧ (siteSt t d).limited = (siteSt s d).limited :=
    siteSt_setDreg_own s d d 0x308 (setBits v 28 24 k)
  clear_value t
  split
  · obtain ⟨h1, h2, h3⟩ := siteSt_setDreg_own t d d 0x310 (setBits n 4 0 k)
    exact ⟨h1.trans ht.1, h2.trans ht.2.1, h3.trans ht.2.2⟩
  · exact ht
theorem siteCap_caps (s : State) (d : Nat) : (siteSt (siteCap s d) d).hot = (siteSt s d).hot
    ∧ (siteSt (siteCap s d) d).powered = (siteSt s d).powered ∧ (siteSt (siteCap s d) d).limited = (siteSt s d).limited
    ∧ (siteCap s d = { s with sites := (siteCap s d).sites })
    ∧ ((siteSt s d).limited = true → bitsOf (dreg (siteCap s d) d 0x308) 12 8 = 24) := by
  unfold siteCap swallowCap
  extract_lets blind
  generalize hv : (if (s.fin.stop || (siteSt s d).limited || blind) = true then 24 else 0) = v
  obtain ⟨h1, h2, h3⟩ := setSwallow_own s d (setBits (dreg s d 0x308) 12 8 v)
  obtain ⟨hf, hb⟩ := setSwallow_effect s d (setBits (dreg s d 0x308) 12 8 v)
  refine ⟨h1, h2, h3, hf, fun hl => ?_⟩
  rw [hb 12 8 (by decide), bitsOf_setBits _ _ (by decide), ← hv, if_pos (by rw [hl]; simp)] <;> rfl
/-- A division leaves the registers of temperatures. -/
theorem divideOver_effect (s : State) (ks : List Nat) : (divideOver s ks = { s with clusters := (divideOver s ks).clusters, free := (divideOver s ks).free })
    ∧ memoriesKept s (divideOver s ks) ∧ ∀ k, kreg (divideOver s ks) k 0x60 = kreg s k 0x60 := by
  unfold divideOver
  extract_lets a total
  obtain ⟨hf, hm⟩ := writeShares_frame (fun k => shareOf s a total k) ks s
  refine ⟨hf, hm, fun k => ?_⟩
  refine foldl_keeps (fun t => kreg t k 0x60) _ _ s fun t j _ => ?_
  unfold writeShare
  extract_lets w
  rw [(granting_regrant ..).regs _ _ (by decide), setShare]
  have hw : kreg w k 0x60 = kreg t k 0x60 := by
    simp only [w]
    rw [kreg, kreg, clOf_updCl]
    split
    · next e => rw [e]
    · rfl
  by_cases e : k = j
  · subst e
    rw [kreg_setKreg_off _ _ _ _ (by decide), hw]
  · rw [kreg_setKreg_ne _ _ _ _ _ e, hw]
theorem hotspotRead_answers (h12 : s.fin.standby12 = true) (site : SiteId) (h : Fin 20) (a b : Option (BitVec 16)) :
    (let x := judge s site.val h (hotOf s site.val h) (diode s site.val h 0 a) (diode s site.val h 1 b);
     answers (.hotspotRead site h a b) s (fun t => memoriesKept s t
        ∧ (hotOf t site.val h).a = x.a ∧ (hotOf t site.val h).b = x.b ∧ (hotOf t site.val h).used = x.used ∧ (hotOf t site.val h).trust = x.trust
        ∧ (∀ i, i ≠ h.val → hotOf t site.val i = hotOf s site.val i)
        ∧ (∀ u, x.used = some u → hotLimit h ≤ u → (siteSt t site.val).limited = true ∧ bitsOf (dreg t site.val 0x308) 12 8 = 24)
        ∧ (∀ u, x.used = some u → h.val < 16 → (siteSt s site.val).powered = true →
            bitsOf (kreg t (16 * site.val + h.val) 0x60) 31 16 = tempSteps u))) := by
  intro x
  have hread := ((hotRead_updHot s site.val h.val x).episodeEvent).setThermReg
  have hreg : ∀ u, x.used = some u → h.val < 16 → (siteSt s site.val).powered = true →
      bitsOf (kreg (setThermReg (episodeEvent (updHot s site.val h.val (fun _ => x)) site.val h.val) site.val h.val) (16 * site.val + h.val) 0x60) 31 16
        = tempSteps u := fun u hu hh hp => by
    have hr := (hotRead_updHot s site.val h.val x).episodeEvent
    exact setThermReg_notes _ ((congrArg HotSpot.used hr.read :).trans hu) hh (hr.powered.trans hp)
  obtain ⟨v, ks, hv, hx⟩ : ∃ v ks, v = setThermReg (episodeEvent (updHot s site.val h.val (fun _ => x)) site.val h.val) site.val h.val
      ∧ exec (.hotspotRead site h a b) s = .next (if siteDistrusted (siteCap (limitSite v site.val) site.val) site.val = siteDistrusted s site.val
        then siteCap (limitSite v site.val) site.val else divideOver (siteCap (limitSite v site.val) site.val) ks) :=
    ⟨_, _, rfl, congrArg Host.Outcome.next (if_neg (by simp [h12]))⟩
  rw [← hv] at hread hreg
  clear_value x
  clear hv
  obtain ⟨l1, l2, l3, l4⟩ := limitSite_kept v site.val
  have hlim := fun (u : Rat) (hu : x.used = some u) => limitSite_limits (s := v) (d := site.val) (h := h.val) (v := u)
    ((congrArg HotSpot.used hread.read :).trans hu)
  have hread4 := hread.of (memoriesKept_of_eq l4 l3) l1 l2
  have hreg4 : ∀ k off, kreg (limitSite v site.val) k off = kreg v k off := fun k off => by rw [kreg, kreg, clOf, clOf, l3]
  generalize limitSite v site.val = w at *
  obtain ⟨c1, c2, c3, c4, c5⟩ := siteCap_caps w site.val
  have hread5 := hread4.of (memoriesKept_of_eq (congrArg State.cores c4 :) (congrArg State.clusters c4 :)) c1 c2
  have hreg5 : ∀ k off, kreg (siteCap w site.val) k off = kreg w k off := fun k off => by rw [c4]; rfl
  generalize siteCap w site.val = y at *
  obtain ⟨z, hz, hzs, hzm, hzk⟩ : ∃ z, (if siteDistrusted y site.val = siteDistrusted s site.val then y else divideOver y ks) = z
      ∧ z.sites = y.sites ∧ memoriesKept y z ∧ ∀ k, kreg z k 0x60 = kreg y k 0x60 := by
    obtain ⟨d1, d2, d3⟩ := divideOver_effect y ks
    refine ⟨_, rfl, ?_⟩
    split
    · exact ⟨rfl, memoriesKept_refl y, fun _ => rfl⟩
    · exact ⟨(congrArg State.sites d1 :), d2, d3⟩
  have hsite : siteSt z site.val = siteSt y site.val := by rw [siteSt, siteSt, hzs]
  obtain ⟨m, hr, ho, hp⟩ := hread5.of hzm (congrArg SiteState.hot hsite) (congrArg SiteState.powered hsite)
  rw [hz] at hx
  refine ⟨z, hx, m, (congrArg HotSpot.a hr :), (congrArg HotSpot.b hr :), (congrArg HotSpot.used hr :), (congrArg HotSpot.trust hr :), ho,
    fun u hu hul => ?_, fun u hu hh hpw => ?_⟩
  · have h1 := hlim u hu hul
    refine ⟨?_, ?_⟩
    · rw [hsite, c3, h1]
    · rw [dreg, hsite]
      exact c5 h1
  · rw [hzk, hreg5, hreg4]
    exact hreg u hu hh hpw

/-! Thermal resistances. -/

/-- One step of an average towards a sample. -/
def rthStep (old : Rat) (r : Option Rat) : Rat := match r with | some r => old + (r - old) / 4096 | none => old
theorem thermEst_kept (s : State) : (setCoolantIn (setThermEst s)).fin = s.fin ∧ (setCoolantIn (setThermEst s)).cores = s.cores
    ∧ (setCoolantIn (setThermEst s)).clusters = s.clusters ∧ (setCoolantIn (setThermEst s)).objs = s.objs := ⟨rfl, rfl, rfl, rfl⟩
/-- The state after a sample of the two kinds. -/
def rthSampled (s : State) (hist : List (Nat × Rat)) (a b : Option Rat) : State :=
  let s := updFin s (fun f => { f with
    pinHist := hist, rthDie := some (rthStep (rthDie s) a), rthStack := some (rthStep (rthStack s) b)
    nDie := f.nDie + (if a.isSome then 1 else 0), nStack := f.nStack + (if b.isSome then 1 else 0) })
  let s := updFin s (fun f => { f with thermWarm := f.thermWarm || (decide (40000 ≤ f.nDie) && decide (40000 ≤ f.nStack)) })
  setCoolantIn (setThermEst s)
theorem rthSampled_samples (s : State) (hist : List (Nat × Rat)) (a b : Option Rat) : memoriesKept s (rthSampled s hist a b)
    ∧ (rthSampled s hist a b).fin.pinHist = hist ∧ rthDie (rthSampled s hist a b) = rthStep (rthDie s) a
    ∧ rthStack (rthSampled s hist a b) = rthStep (rthStack s) b
    ∧ (rthSampled s hist a b).fin.nDie = s.fin.nDie + (if a.isSome then 1 else 0)
    ∧ (rthSampled s hist a b).fin.nStack = s.fin.nStack + (if b.isSome then 1 else 0) := by
  unfold rthSampled
  extract_lets s1 s2
  obtain ⟨hf, hc, hk, ho⟩ := thermEst_kept s2
  have h1 : s2.fin.pinHist = hist ∧ s2.fin.rthDie = some (rthStep (rthDie s) a) ∧ s2.fin.rthStack = some (rthStep (rthStack s) b)
      ∧ s2.fin.nDie = s.fin.nDie + (if a.isSome then 1 else 0) ∧ s2.fin.nStack = s.fin.nStack + (if b.isSome then 1 else 0)
      ∧ s2.cores = s.cores ∧ s2.clusters = s.clusters := ⟨rfl, rfl, rfl, rfl, rfl, rfl, rfl⟩
  clear_value s2
  obtain ⟨g1, g2, g3, g4, g5, g6, g7⟩ := h1
  generalize setCoolantIn (setThermEst s2) = v at *
  rw [hf, rthDie, rthStack, hf, g2, g3]
  exact ⟨memoriesKept_of_eq (hc.trans g6) (hk.trans g7), g1, rfl, rfl, g4, g5⟩
theorem rthSample_exec (h12 : s.fin.standby12 = true) : ∃ (x : Rat) (v : State), exec .rthSample s = .next (if 50 ≤ max x (-x) then divideCap v else v)
    ∧ v = (let hist := s.fin.pinHist.filter (fun e => decide (s.units < e.1 + unitsPerSec)) ++ [(s.units, (mainPower s : Rat))]
      rthSampled s hist (rthSampleOf s false hist) (rthSampleOf s true hist)) :=
  ⟨_, _, congrArg Host.Outcome.next (if_neg (by simp [h12])), rfl⟩
theorem rthSample_answers (h12 : s.fin.standby12 = true) {hist : List (Nat × Rat)}
    (hh : hist = s.fin.pinHist.filter (fun e => decide (s.units < e.1 + unitsPerSec)) ++ [(s.units, (mainPower s : Rat))]) :
    answers .rthSample s (fun t => memoriesKept s t ∧ t.fin.pinHist = hist
      ∧ (rthSampleOf s false hist = none → rthDie t = rthDie s ∧ t.fin.nDie = s.fin.nDie)
      ∧ (∀ r, rthSampleOf s false hist = some r → rthDie t = rthDie s + (r - rthDie s) / 4096 ∧ t.fin.nDie = s.fin.nDie + 1)
      ∧ (∀ r, rthSampleOf s true hist = some r → rthStack t = rthStack s + (r - rthStack s) / 4096 ∧ t.fin.nStack = s.fin.nStack + 1)) := by
  obtain ⟨x, v, hx, hv⟩ := rthSample_exec h12
  dsimp only at hv
  rw [← hh] at hv
  obtain ⟨h1, h2, h3, h4, h5, h6⟩ := rthSampled_samples s hist (rthSampleOf s false hist) (rthSampleOf s true hist)
  rw [← hv] at h1 h2 h3 h4 h5 h6
  clear hv
  obtain ⟨hf, hfin, hm, -⟩ := divideCap_divides v
  obtain ⟨z, hz, hzm, hzf, hzo⟩ : ∃ z, (if 50 ≤ max x (-x) then divideCap v else v) = z ∧ memoriesKept v z
      ∧ z.fin = { v.fin with capLast := z.fin.capLast } ∧ z.objs = v.objs := by
    refine ⟨_, rfl, ?_⟩
    split
    · exact ⟨hm, hfin, (congrArg State.objs hf :)⟩
    · exact ⟨memoriesKept_refl v, rfl, rfl⟩
  rw [hz] at hx
  have hdie : rthDie z = rthDie v := by rw [rthDie, rthDie, hzf, obj, obj, hzo]
  have hstack : rthStack z = rthStack v := by rw [rthStack, rthStack, hzf, obj, obj, hzo]
  have hnd : z.fin.nDie = v.fin.nDie := by rw [hzf]
  have hns : z.fin.nStack = v.fin.nStack := by rw [hzf]
  refine ⟨z, hx, memoriesKept_trans h1 hzm, by rw [hzf]; exact h2, fun hr => ⟨?_, ?_⟩, fun r hr => ⟨?_, ?_⟩, fun r hr => ⟨?_, ?_⟩⟩
  · rw [hdie, h3, hr, rthStep]
  · rw [hnd, h5, hr]
    rfl
  · rw [hdie, h3, hr, rthStep]
  · rw [hnd, h5, hr]
    rfl
  · rw [hstack, h4, hr, rthStep]
  · rw [hns, h6, hr]
    rfl

/-! The Almanac. -/

/-- One step of a hot spot of s. -/
def spotStep (s : State) (d h : Nat) (x : HotSpot) : HotSpot :=
  almanacStep x ((calOf s 3).getD (20 * d + h) 0) (inletTemp s) (bitsOf (sitePwr s d) 31 16 : Nat)
/-- Hot spots of a site that draws power p take one step. -/
def stepSpots (s : State) (d : Nat) (p : Rat) (l : List Nat) : State :=
  l.foldl (fun s h => updHot s d h (fun x => almanacStep x ((calOf s 3).getD (20 * d + h) 0) (inletTemp s) p)) s
/-- A site's step. -/
def siteStep (s : State) (d : Nat) (l : List Nat) : State :=
  if !almanacUp s d then s else stepSpots s d (bitsOf (sitePwr s d) 31 16 : Nat) l
theorem stepSpots_frame (d : Nat) (p : Rat) (l : List Nat) (s : State) : stepSpots s d p l = { s with sites := (stepSpots s d p l).sites } :=
  foldl_rel (R := fun s t => t = { s with sites := t.sites }) (fun _ => rfl) (fun h g => by rw [g, h]) (fun _ _ => rfl) l s
theorem stepSpots_other (d : Nat) (p : Rat) (l : List Nat) (s : State) {e : Nat} (he : e ≠ d) : siteSt (stepSpots s d p l) e = siteSt s e :=
  foldl_keeps (fun t => siteSt t e) _ l s fun t _ _ => siteSt_updSite_ne _ _ _ he
theorem stepSpots_hot (d : Nat) (p : Rat) (l : List Nat) (hl : l.Nodup) (s : State) (h : Nat) : hotOf (stepSpots s d p l) d h
    = if h ∈ l then almanacStep (hotOf s d h) ((calOf s 3).getD (20 * d + h) 0) (inletTemp s) p else hotOf s d h := by
  induction l generalizing s with
  | nil => exact (if_neg List.not_mem_nil).symm
  | cons i l ih =>
    obtain ⟨hi, hl⟩ := List.nodup_cons.1 hl
    have hs := ih hl (updHot s d i (fun x => almanacStep x ((calOf s 3).getD (20 * d + i) 0) (inletTemp s) p))
    change hotOf (stepSpots (updHot s d i _) d p l) d h = _
    rw [hs, hotOf_updHot]
    by_cases e : h = i
    · subst e
      rw [if_neg hi, if_pos rfl, if_pos List.mem_cons_self]
    · rw [if_neg e]
      simp only [List.mem_cons, e, false_or]
      rfl
theorem siteStep_frame (d : Nat) (l : List Nat) (s : State) : siteStep s d l = { s with sites := (siteStep s d l).sites } := by
  unfold siteStep
  split
  · rfl
  · exact stepSpots_frame ..
theorem siteStep_other (d : Nat) (l : List Nat) (s : State) {e : Nat} (he : e ≠ d) : siteSt (siteStep s d l) e = siteSt s e := by
  unfold siteStep
  split
  · rfl
  · exact stepSpots_other _ _ _ _ he
/-- What a site's step reads is its own. -/
theorem stepSpots_congr (d : Nat) (p : Rat) (l : List Nat) {s t : State} (hf : t = { s with sites := t.sites }) (hs : siteSt t d = siteSt s d) :
    siteSt (stepSpots t d p l) d = siteSt (stepSpots s d p l) d := by
  induction l generalizing s t with
  | nil => exact hs
  | cons i l ih =>
    have hx : (fun x => almanacStep x ((calOf t 3).getD (20 * d + i) 0) (inletTemp t) p)
        = fun x => almanacStep x ((calOf s 3).getD (20 * d + i) 0) (inletTemp s) p := by
      rw [hf]
      rfl
    refine ih (s := updHot s d i (fun x => almanacStep x ((calOf s 3).getD (20 * d + i) 0) (inletTemp s) p))
      (t := updHot t d i (fun x => almanacStep x ((calOf t 3).getD (20 * d + i) 0) (inletTemp t) p)) ?_ ?_
    · rw [hx, hf]
      rfl
    · rw [hx, updHot, updHot, siteSt_updSite_self, siteSt_updSite_self, hs]
theorem siteStep_congr (d : Nat) (l : List Nat) {s t : State} (hf : t = { s with sites := t.sites }) (hs : siteSt t d = siteSt s d) :
    siteSt (siteStep t d l) d = siteSt (siteStep s d l) d := by
  have hp : sitePwr t d = sitePwr s d := by
    rw [hf]
    rfl
  rw [siteStep, siteStep, almanacUp, almanacUp, hp]
  split
  · exact hs
  · exact stepSpots_congr d _ l hf hs
/-- Sites take their steps, one after another. -/
def stepSites (s : State) (l ds : List Nat) : State := ds.foldl (fun s d => siteStep s d l) s
theorem stepSites_frame (l ds : List Nat) (s : State) : stepSites s l ds = { s with sites := (stepSites s l ds).sites } :=
  foldl_rel (R := fun s t => t = { s with sites := t.sites }) (fun _ => rfl) (fun h g => by rw [g, h]) (fun t d => siteStep_frame d l t) ds s
theorem stepSites_other (l ds : List Nat) (s : State) {e : Nat} (he : e ∉ ds) : siteSt (stepSites s l ds) e = siteSt s e :=
  foldl_keeps (fun t => siteSt t e) _ ds s fun t d hd => siteStep_other d l t fun h => he (h ▸ hd)
/-- A site's own step is that of the state before: no other site's changes what it reads. -/
theorem stepSites_own (l ds : List Nat) (hds : ds.Nodup) (s : State) {d : Nat} (hd : d ∈ ds) :
    siteSt (stepSites s l ds) d = siteSt (siteStep s d l) d := by
  induction ds generalizing s with
  | nil => exact absurd hd List.not_mem_nil
  | cons e ds ih =>
    obtain ⟨he, hds⟩ := List.nodup_cons.1 hds
    change siteSt (stepSites (siteStep s e l) l ds) d = _
    rcases List.mem_cons.1 hd with rfl | hd
    · exact stepSites_other l ds _ he
    · have hne : d ≠ e := fun h => he (h ▸ hd)
      exact (ih hds (siteStep s e l) hd).trans (siteStep_congr d l (siteStep_frame e l s) (siteStep_other e l s hne))
theorem almanacUpdate_answers (s : State) : answers .almanacUpdate s (fun t => t = { s with sites := t.sites } ∧ ∀ d, d < 64 →
    (almanacUp s d = false → siteSt t d = siteSt s d)
    ∧ (almanacUp s d = true → ∀ h, h < 20 → hotOf t d h = almanacStep (hotOf s d h) ((calOf s 3).getD (20 * d + h) 0) (inletTemp s)
        (bitsOf (sitePwr s d) 31 16 : Nat))) := by
  refine ⟨stepSites s (List.range 20) (List.range 64), rfl, stepSites_frame .., fun d hd => ?_⟩
  have ho := stepSites_own (List.range 20) (List.range 64) List.nodup_range s (List.mem_range.2 hd)
  generalize stepSites s (List.range 20) (List.range 64) = t at *
  refine ⟨fun ha => ?_, fun ha h hh => ?_⟩
  · rw [ho, siteStep, if_pos (by rw [ha]; rfl)]
  · rw [hotOf, ho, siteStep, if_neg (by rw [ha]; decide)]
    exact (stepSpots_hot d _ (List.range 20) List.nodup_range s h).trans (if_pos (List.mem_range.2 hh))

/-! L_th. -/

theorem lthUpdate_answers (cl : ClusterId) {own stack : Rat} (ho : (hotOf s (cl.val / 16) (cl.val % 16)).forecast = some own)
    (hs : hottest ([16, 17, 18, 19].filterMap (fun h => (hotOf s (cl.val / 16) h).forecast)) = some stack)
    (hp : (siteSt s (cl.val / 16)).powered = true) (hc : (clOf s cl.val).clocksOff = false)
    (hi : (ccOf s cl.val).image.isSome = true) (hpk : (ccOf s cl.val).parked = false) :
    (let n := lthNext (clOf s cl.val).lth (clOf s cl.val).coolSince s.units own stack
     answers (.lthUpdate cl) s (fun t => memoriesKept s t ∧ (clOf t cl.val).lth = n.1 ∧ (clOf t cl.val).coolSince = n.2
        ∧ bitsOf (kreg t cl.val 0x20) 6 0 = min n.1 (if bitCount (bitsOf (kreg s cl.val 0x58) 19 16) 4 = 0 then 64 else 48))) := by
  intro n
  have hi' : (ccOf s cl.val).image.isNone = false := by rw [← Option.not_isSome, hi]; rfl
  have hx : exec (.lthUpdate cl) s = .next (setLocal (updCl s cl.val (fun c => { c with lth := n.1, coolSince := n.2 })) cl.val) := by
    change execLthUpdate cl s = _
    unfold execLthUpdate
    extract_lets k d hs'
    rw [show (hotOf s d (k % 16)).forecast = some own from ho, show hottest hs' = some stack from hs]
    exact congrArg _ (if_neg (by
      change ¬ (!(siteSt s (cl.val / 16)).powered || (clOf s cl.val).clocksOff || (ccOf s cl.val).image.isNone || (ccOf s cl.val).parked) = true
      rw [hp, hc, hi', hpk]
      decide))
  refine ⟨_, hx, ?_⟩
  have h1 : (clOf (updCl s cl.val (fun c => { c with lth := n.1, coolSince := n.2 })) cl.val).lth = n.1
      ∧ (clOf (updCl s cl.val (fun c => { c with lth := n.1, coolSince := n.2 })) cl.val).coolSince = n.2 := by
    rw [clOf_updCl_self]
    exact ⟨rfl, rfl⟩
  have h2 : kreg (updCl s cl.val (fun c => { c with lth := n.1, coolSince := n.2 })) cl.val 0x58 = kreg s cl.val 0x58 := by
    rw [kreg, kreg, clOf_updCl_self]
  have hm : memoriesKept s (updCl s cl.val (fun c => { c with lth := n.1, coolSince := n.2 })) := memoriesKept_updCl s cl.val fun _ => rfl
  generalize updCl s cl.val (fun c => { c with lth := n.1, coolSince := n.2 }) = u at *
  obtain ⟨g1, -, g3, g4⟩ := setLocal_effect u cl.val
  refine ⟨memoriesKept_trans hm (onlyGrants_memories (setLocal_frame u cl.val)), g3.trans h1.1, g4.trans h1.2, ?_⟩
  rw [g1, h1.1, h2]
end

end Sys2Proof.Machine
end

section
/-! PROOF. The latch of THERMTRIP, and the coolant stop (R443, R446 to R449). -/

namespace Sys2Proof.Machine

section
variable {s t u : State} {d : Nat}

/-- THERMTRIP_CLEAR of a latched site that is cool (R443). -/
theorem thermtripClear_writes {req : DapReq} {se : Session} (hd : d < 64) (h : canWrite s req 0x4800 5 (leBytes 1 d) se)
    (hl : (siteSt s d).tripLatch = true) (hc : siteCool s d = true) :
    writes (.thermtripClear req (BitVec.ofNat 8 d)) s req 0x4800 5 (leBytes 1 d) se (fun _ t => (siteSt t d).tripLatch = false
      ∧ memoriesKept s t ∧ ∀ e, e ≠ d → siteSt t e = siteSt s e) := by
  have hn : (BitVec.ofNat 8 d).toNat = d := by rw [BitVec.toNat_ofNat, Nat.mod_eq_of_lt (by omega)]
  have hi : exec (.thermtripClear req (BitVec.ofNat 8 d)) s = .next (dapWrite s req 0x4800 5 (leBytes 1 d)
      (fun _ s => if 63 < d then stRange else if !(siteSt s d).tripLatch || !siteCool s d then stState else stOk)
      (fun _ s => updSite s d (fun t => { t with tripLatch := false }))) := by
    change execThermtripClear req (BitVec.ofNat 8 d) s = _
    rw [execThermtripClear, hn]
  refine writes_if (st := stState) (p := True) h hi (by decide) (fun _ => ?_) (fun hn => absurd trivial hn) (fun _ => ?_)
    (fun t hn => absurd trivial hn)
  · have hf := (asked_frame h).1
    unfold onlyAgent at hf
    generalize asked s req 0x11 (writeBody 0x4800 5 (leBytes 1 d) ++ req.sig) = w at hf
    have h1 : (siteSt w d).tripLatch = true := by rw [hf]; exact hl
    have h2 : siteCool w d = true := by rw [hf]; exact hc
    exact (if_neg (by omega)).trans (if_neg (by rw [h1, h2]; decide))
  · have hf := granted_agent h
    unfold onlyAgent at hf
    generalize granted s req 0x4800 5 (leBytes 1 d) se = w at hf
    have hs : w.sites = s.sites := (congrArg State.sites hf :)
    have hm : memoriesKept s w := memoriesKept_of_eq (congrArg State.cores hf :) (congrArg State.clusters hf :)
    clear hf
    refine ⟨by rw [siteSt_updSite_self], memoriesKept_trans hm (memoriesKept_of_eq rfl rfl), fun e he => ?_⟩
    rw [siteSt_updSite_ne _ _ _ he, siteSt, hs]
    rfl

/-! The stop. -/

theorem siteCaps_frame (s : State) : siteCaps s = { s with sites := (siteCaps s).sites } := by
  have h : ∀ l : List Nat, (let t := l.foldl siteCap s; t = { s with sites := t.sites }) := fun l =>
    foldl_rel (R := fun s t => t = { s with sites := t.sites }) (fun _ => rfl) (fun h g => by rw [g, h]) (fun t d => (siteCap_caps t d).2.2.2.1) l s
  exact h (poweredSites s)
theorem retainVaults_retains (s : State) (on : Bool) : ∀ e ∈ (retainVaults s on).clusters, e.2.selfRetain = on := by
  intro e he
  obtain ⟨x, -, rfl⟩ := List.mem_map.1 he
  rfl
theorem retainVaults_memories (s : State) (on : Bool) : memoriesKept s (retainVaults s on) :=
  ⟨fun _ => rfl, fun k => vault_map_entry (g := fun e => { e.2 with selfRetain := on }) (fun _ => rfl) s.clusters k⟩
/-- A stop has been told to every control core and caps every site. -/
def stopTold (s : State) : State :=
  finderEvent (siteCaps (updFin (finderBroadcast s 2 1 allCcs) (fun f => { f with stop := true, stopAt := s.units }))) 0x2021 3 (moduleUnit 0) []
/-- Every partition restarts. -/
def restartEvery (s : State) (code : Nat) : State := (s.parts.map (fun e => e.1)).foldl (fun s p => restartBegin s p code) s
theorem stopTold_tells (s : State) : (stopTold s).fin.stop = true ∧ (stopTold s).fin.stopAt = s.units
    ∧ (stopTold s).ctrl.length = s.ctrl.length + 1056 ∧ ∃ e ∈ (stopTold s).events, e.code = 0x2021#16 := by
  unfold stopTold
  have hl : (updFin (finderBroadcast s 2 1 allCcs) (fun f => { f with stop := true, stopAt := s.units })).ctrl.length = s.ctrl.length + 1056 := by
    change (s.ctrl ++ allCcs.map _).length = _
    rw [List.length_append, List.length_map, allCcs, List.length_range]
  have hf : (updFin (finderBroadcast s 2 1 allCcs) (fun f => { f with stop := true, stopAt := s.units })).fin.stop = true
      ∧ (updFin (finderBroadcast s 2 1 allCcs) (fun f => { f with stop := true, stopAt := s.units })).fin.stopAt = s.units := ⟨rfl, rfl⟩
  generalize updFin (finderBroadcast s 2 1 allCcs) (fun f => { f with stop := true, stopAt := s.units }) = v at *
  have hs := siteCaps_frame v
  generalize siteCaps v = w at *
  have hfin : w.fin = v.fin := (congrArg State.fin hs :)
  have hctrl : w.ctrl = v.ctrl := (congrArg State.ctrl hs :)
  have hg := (raised_finderEvent w 0x2021 3 (moduleUnit 0) []).mem
  have hx : (finderEvent w 0x2021 3 (moduleUnit 0) []).fin = w.fin ∧ (finderEvent w 0x2021 3 (moduleUnit 0) []).ctrl = w.ctrl := ⟨rfl, rfl⟩
  generalize finderEvent w 0x2021 3 (moduleUnit 0) [] = x at *
  rw [hx.1, hfin, hx.2, hctrl]
  exact ⟨hf.1, hf.2, hl, hg⟩
theorem restartEvery_keeps (s : State) (code : Nat) : Onward s (restartEvery s code) ∧ Railed s (restartEvery s code) :=
  ⟨(onward_refl s).foldl fun _ ht => ht.restartBegin, (railed_refl s).foldl fun _ ht => ht.restartBegin⟩
theorem alertLow_of_stop (h : s.fin.stop = true) : alertLow s = true := by
  unfold alertLow
  rw [h, Bool.or_true]
  rfl
theorem coolantStop_answers (h12 : s.fin.standby12 = true) (hs : s.fin.stop = false) (ho : s.fin.heldOff = false) (hr : s.fin.reen = none)
    (hready : s.fin.ready = true) : answers .coolantStop s (fun t => t.fin.stop = true ∧ alertLow t = true ∧ t.fin.stopAt = s.units
      ∧ (∀ e ∈ t.clusters, e.2.selfRetain = true) ∧ bitOf (ireg t 64 0x1300) 4 = true ∧ s.ctrl.length + 1056 ≤ t.ctrl.length
      ∧ ∃ e ∈ t.events, e.code = 0x2021#16) := by
  have he : endReen s 7 0 = s := by rw [endReen, hr]
  have hx : exec .coolantStop s = .next (setCoolantIn (retainVaults (restartEvery (stopTold s) 0x2021) true)) := by
    change execCoolantStop s = _
    unfold execCoolantStop
    rw [if_neg (by simp [h12, hs, ho]), he]
    exact congrArg _ (if_neg (by simp [hready]))
  obtain ⟨h1, h2, h3, h4⟩ := stopTold_tells s
  generalize stopTold s = v at *
  obtain ⟨hon, hra⟩ := restartEvery_keeps v 0x2021
  generalize restartEvery v 0x2021 = w at *
  have hret := retainVaults_retains w true
  have hw : (retainVaults w true).fin = w.fin ∧ (retainVaults w true).ctrl = w.ctrl ∧ (retainVaults w true).events = w.events := ⟨rfl, rfl, rfl⟩
  generalize retainVaults w true = x at *
  obtain ⟨hfr, -, -, hst⟩ := setCoolantIn_notes x
  generalize setCoolantIn x = y at *
  have hfin : y.fin = v.fin := (congrArg State.fin hfr :).trans (hw.1.trans (onward_fin hon))
  have hctrl : y.ctrl = w.ctrl := (congrArg State.ctrl hfr :).trans hw.2.1
  have hev : y.events = w.events := (congrArg State.events hfr :).trans hw.2.2
  have hcl : y.clusters = x.clusters := (congrArg State.clusters hfr :)
  have hstop : y.fin.stop = true := by rw [hfin, h1]
  refine ⟨y, hx, hstop, alertLow_of_stop hstop, by rw [hfin, h2], hcl ▸ hret, ?_, ?_, ?_⟩
  · rw [hst, hw.1, (onward_fin hon), h1]
  · rw [hctrl, ← h3]
    exact hra.ctrl.length_le
  · obtain ⟨e, hm, hc⟩ := h4
    exact ⟨e, hev ▸ hon.events.subset hm, hc⟩

/-! The power-down. -/

/-- One site's part of a power-down. -/
def downSite (s : State) (d : Nat) : State :=
  if (siteSt s d).powered then openSite s d 5 else if siteStateOf s d = 2 then s else setSiteState s d 5
theorem downSite_other (s : State) {d e : Nat} (he : e ≠ d) (hn : sitePwrOff e ≠ sitePwrOff d) :
    (siteSt (downSite s d) e).powered = (siteSt s e).powered ∧ siteStateOf (downSite s d) e = siteStateOf s e := by
  unfold downSite
  split
  · have ho := openSite_opened s d 5
    generalize openSite s d 5 = t at ho
    refine ⟨by rw [ho.others e he], ?_⟩
    rw [siteStateOf, sitePwr, ho.ireg _ hn]
    rfl
  · split
    · exact ⟨rfl, rfl⟩
    · refine ⟨rfl, ?_⟩
      rw [siteStateOf, sitePwr, setSiteState, ireg_setIreg_ne _ _ _ _ (by omega)]
      rfl
theorem downSite_own (s : State) (d : Nat) : (siteSt (downSite s d) d).powered = false
    ∧ ((siteSt s d).powered = true → siteStateOf (downSite s d) d = 5) := by
  unfold downSite
  split
  · have ho := openSite_opened s d 5
    exact ⟨ho.off, fun _ => ho.stateOf (by decide)⟩
  · next hp =>
    have hf : (siteSt s d).powered = false := Bool.eq_false_iff.2 hp
    refine ⟨?_, fun h => absurd h hp⟩
    split
    · exact hf
    · exact hf
theorem sitePwrOff_inj {d e : Nat} (h : e ≠ d) : sitePwrOff e ≠ sitePwrOff d := by
  unfold sitePwrOff
  omega
theorem downSites_down (l : List Nat) (hl : l.Nodup) (s : State) {d : Nat} (hd : d ∈ l) :
    (siteSt (l.foldl downSite s) d).powered = false ∧ ((siteSt s d).powered = true → siteStateOf (l.foldl downSite s) d = 5) := by
  induction l generalizing s with
  | nil => exact absurd hd List.not_mem_nil
  | cons e l ih =>
    obtain ⟨he, hl⟩ := List.nodup_cons.1 hl
    rw [List.foldl_cons]
    rcases List.mem_cons.1 hd with rfl | hd
    · have hk := foldl_keeps (fun t => ((siteSt t d).powered, siteStateOf t d)) downSite l (downSite s d) fun t i hi => by
        have hne : d ≠ i := fun h => he (h ▸ hi)
        obtain ⟨h1, h2⟩ := downSite_other t hne (sitePwrOff_inj hne)
        rw [h1, h2]
      obtain ⟨h1, h2⟩ := downSite_own s d
      rw [Prod.mk.injEq] at hk
      exact ⟨hk.1.trans h1, fun hp => hk.2.trans (h2 hp)⟩
    · have hne : d ≠ e := fun h => he (h ▸ hd)
      obtain ⟨h1, -⟩ := downSite_other s hne (sitePwrOff_inj hne)
      obtain ⟨g1, g2⟩ := ih hl (downSite s e) hd
      exact ⟨g1, fun hp => g2 (h1.trans hp)⟩
/-- The report of a power-down. -/
def downReported (s : State) : State :=
  setCoolantIn (finderEvent (updFin s (fun f => { f with stop := false, heldOff := true })) 0x2022 3 (moduleUnit 0) [])
theorem downReported_reports (s : State) : (downReported s).fin.stop = false ∧ (downReported s).fin.heldOff = true
    ∧ (downReported s).sites = s.sites ∧ (∀ off, off ≠ 0x1300 → ireg (downReported s) 64 off = ireg s 64 off)
    ∧ ∃ e ∈ (downReported s).events, e.code = 0x2022#16 := by
  unfold downReported
  have hg := (raised_finderEvent (updFin s (fun f => { f with stop := false, heldOff := true })) 0x2022 3 (moduleUnit 0) []).mem
  have hv : (finderEvent (updFin s (fun f => { f with stop := false, heldOff := true })) 0x2022 3 (moduleUnit 0) []).fin.stop = false
      ∧ (finderEvent (updFin s (fun f => { f with stop := false, heldOff := true })) 0x2022 3 (moduleUnit 0) []).fin.heldOff = true
      ∧ (finderEvent (updFin s (fun f => { f with stop := false, heldOff := true })) 0x2022 3 (moduleUnit 0) []).sites = s.sites
      ∧ (finderEvent (updFin s (fun f => { f with stop := false, heldOff := true })) 0x2022 3 (moduleUnit 0) []).ioRegs = s.ioRegs := ⟨rfl, rfl, rfl, rfl⟩
  generalize finderEvent (updFin s (fun f => { f with stop := false, heldOff := true })) 0x2022 3 (moduleUnit 0) [] = v at *
  obtain ⟨h1, h2, h3, h4⟩ := hv
  refine ⟨h1, h2, h3, fun off ho => ?_, hg⟩
  rw [setCoolantIn, ireg_setIreg_ne _ _ _ _ (by omega), ireg, h4]
  rfl
theorem coolantPowerdown_answers (hs : s.fin.stop = true) : answers .coolantPowerdown s (fun t => t.fin.stop = false ∧ t.fin.heldOff = true
    ∧ (∀ d, d < 64 → (siteSt t d).powered = false ∧ ((siteSt s d).powered = true → siteStateOf t d = 5))
    ∧ ∃ e ∈ t.events, e.code = 0x2022#16) := by
  have hx : exec .coolantPowerdown s = .next (downReported ((List.range 64).foldl downSite s)) :=
    congrArg Host.Outcome.next (if_neg (by rw [hs]; decide))
  have hd := fun (d : Nat) (h : d < 64) => downSites_down (List.range 64) List.nodup_range s (List.mem_range.2 h)
  generalize (List.range 64).foldl downSite s = v at hx hd
  obtain ⟨h1, h2, h3, h4, h5⟩ := downReported_reports v
  refine ⟨_, hx, h1, h2, fun d h => ?_, h5⟩
  obtain ⟨g1, g2⟩ := hd d h
  refine ⟨?_, fun hp => ?_⟩
  · rw [siteSt, h3]
    exact g1
  · rw [siteStateOf, sitePwr, h4 _ (by unfold sitePwrOff; omega)]
    exact g2 hp

/-! The end of a stop. -/

/-- The stop has been taken back from the control cores, the sites and the vaults. -/
def stopEnded (s : State) : State :=
  let s := finderBroadcast (updFin s (fun f => { f with stop := false })) 2 0 allCcs
  retainVaults (siteCaps s) (s.fin.pwr == 2)
theorem stopEnded_ends (s : State) : (stopEnded s).fin.stop = false ∧ memoriesKept s (stopEnded s) := by
  unfold stopEnded
  extract_lets v
  have hv : v.fin.stop = false ∧ memoriesKept s v := ⟨rfl, memoriesKept_of_eq rfl rfl⟩
  clear_value v
  have hs := siteCaps_frame v
  generalize siteCaps v = w at *
  have hfin : w.fin = v.fin := (congrArg State.fin hs :)
  have hm : memoriesKept v w := memoriesKept_of_eq (congrArg State.cores hs :) (congrArg State.clusters hs :)
  refine ⟨?_, memoriesKept_trans hv.2 (memoriesKept_trans hm (retainVaults_memories ..))⟩
  rw [← hfin] at hv
  exact hv.1
theorem goCold_cools (s : State) : (goCold s).fin = { s.fin with thermWarm := false, nDie := 0, nStack := 0 }
    ∧ (goCold s).cores = s.cores ∧ (goCold s).clusters = s.clusters := ⟨rfl, rfl, rfl⟩
theorem coolantRestored_ends (hs : s.fin.stop = true) : answers .coolantRestored s (fun t => t.fin.stop = false ∧ t.fin.thermWarm = false
    ∧ t.fin.nDie = 0 ∧ memoriesKept s t ∧ ∃ e ∈ t.events, e.code = 0x2023#16) := by
  have hx : exec .coolantRestored s = .next (setCoolantIn (finderEvent (divideCap (goCold (stopEnded s))) 0x2023 0 (moduleUnit 0) [])) :=
    congrArg Host.Outcome.next (if_pos hs)
  obtain ⟨h1, h2⟩ := stopEnded_ends s
  generalize stopEnded s = v at *
  obtain ⟨g1, g2, g3⟩ := goCold_cools v
  generalize goCold v = w at *
  obtain ⟨-, hfin, hm, -⟩ := divideCap_divides w
  generalize divideCap w = x at *
  have hg := (raised_finderEvent x 0x2023 0 (moduleUnit 0) []).mem
  have hy : (finderEvent x 0x2023 0 (moduleUnit 0) []).fin = x.fin ∧ memoriesKept x (finderEvent x 0x2023 0 (moduleUnit 0) []) :=
    ⟨rfl, memoriesKept_of_eq rfl rfl⟩
  generalize finderEvent x 0x2023 0 (moduleUnit 0) [] = y at *
  have hz : (setCoolantIn y).fin = y.fin ∧ (setCoolantIn y).events = y.events ∧ memoriesKept y (setCoolantIn y) :=
    ⟨rfl, rfl, memoriesKept_of_eq rfl rfl⟩
  generalize setCoolantIn y = z at *
  refine ⟨z, hx, ?_, ?_, ?_, memoriesKept_trans h2 (memoriesKept_trans (memoriesKept_of_eq g2 g3) (memoriesKept_trans hm
    (memoriesKept_trans hy.2 hz.2.2))), hz.2.1 ▸ hg⟩
  · rw [hz.1, hy.1, hfin, g1]
    exact h1
  · rw [hz.1, hy.1, hfin, g1]
  · rw [hz.1, hy.1, hfin, g1]
theorem loseIo_heldOff (s : State) : (loseIo s).fin.heldOff = s.fin.heldOff := by
  have hd := (closeDebug_frame s).1
  have hs := (closeSessions_effect (closeDebug s) (fun e => match e.path with | .wenlink _ => true | _ => false)).frame
  have hk : (loseIo s).fin.heldOff = (closeDebug s).fin.heldOff := (congrArg (fun s : State => s.fin.heldOff) hs :)
  exact hk.trans (congrArg (fun s : State => s.fin.heldOff) hd :)
theorem resetC_heldOff (s : State) (st : Nat) : (resetC s st).fin.heldOff = s.fin.heldOff := by
  have hl := (loseIo_heldOff (resetCompute s)).trans (congrArg Finder.heldOff (resetCompute_lost s).fin)
  unfold resetC
  extract_lets v w
  have hw : w.fin = v.fin := (congrArg State.fin (openSites_dark st (poweredSites v) v).frame :)
  exact (congrArg Finder.heldOff hw).trans hl
theorem coolantRestored_holds (hs : s.fin.stop = false) (ho : s.fin.heldOff = true) (hh : s.fin.held = none) (hr : s.fin.reen = none) :
    answers .coolantRestored s (fun t => t.fin.heldOff = false ∧ t.fin.held = some (3, 0x2022) ∧ t.cores = []) := by
  have hx : exec .coolantRestored s = .next (setCoolantIn (holdReset (goCold (updFin s (fun f => { f with heldOff := false }))) 3 0x2022 false)) :=
    congrArg Host.Outcome.next ((if_neg (by rw [hs]; decide)).trans (if_pos ho))
  obtain ⟨g1, -, -⟩ := goCold_cools (updFin s (fun f => { f with heldOff := false }))
  have hv : (goCold (updFin s (fun f => { f with heldOff := false }))).fin.heldOff = false
      ∧ (goCold (updFin s (fun f => { f with heldOff := false }))).fin.held = none
      ∧ (goCold (updFin s (fun f => { f with heldOff := false }))).fin.reen = none := by
    rw [g1]
    exact ⟨rfl, hh, hr⟩
  generalize goCold (updFin s (fun f => { f with heldOff := false })) = v at *
  obtain ⟨h1, h2, h3⟩ := hv
  rw [holdReset_free h3 h2 (by decide), if_neg (by decide), if_neg (by decide)] at hx
  have hcore := (resetC_classC v 0).cores
  have hoff := (resetC_heldOff v 0).trans h1
  generalize resetC v 0 = w at *
  exact ⟨_, hx, hoff, rfl, hcore⟩
end

/-- Settles O48: readings and pulses leave the module but for the Finder's state and its register; a hot spot is read as it is judged, and its
limit caps the site; a trip is a site lost behind its latch; a stop is told, restarts every job and retains the vaults, and a power-down opens
each powered site once. -/
theorem coolantIsWatched : Obligations.CoolantIsWatched := by
  unfold Obligations.CoolantIsWatched
  refine ⟨fun s h12 => ⟨traySensorRead_answers h12, fun low u hp => ⟨flowPulse_answers h12 hp, flowPulse_leaves hp⟩,
      fun hl => congrArg _ (if_pos (by simp [hl])), flowLow_answers h12, flowImplausible_leaves, fun _ => flowImplausible_answers,
      hotspotRead_answers h12, rthSample_answers h12 rfl, almanacUpdate_answers s, fun cl own stack ho hs hp hc hi hpk =>
        lthUpdate_answers cl ho hs hp hc hi hpk⟩,
    fun site s h12 => ⟨fun hl => congrArg _ (if_pos (by simp [hl])), thermtrip_answers h12,
      fun req se h hl hc => thermtripClear_writes site.isLt h hl hc⟩,
    fun s h12 => ⟨fun h => congrArg _ (if_pos (by rcases h with h | h <;> simp [h])), coolantStop_answers h12,
      fun h => congrArg _ (if_pos (by simp [h])), coolantPowerdown_answers, fun h1 h2 => ?_, coolantRestored_ends,
      coolantRestored_holds⟩⟩
  exact congrArg Host.Outcome.next ((if_neg (by rw [h1]; decide)).trans (if_neg (by rw [h2]; decide)))

end Sys2Proof.Machine
end
